-- ==== Sys2Proof/Word.lean ====
section
/-! DEFINITION. The plain data types that the whole model shares: bytes, tables keyed by number, sparse byte memories. -/

namespace Sys2Proof

/-- One byte. -/
abbrev Byte := BitVec 8

/-- A table keyed by number, kept in strictly rising order of its keys. -/
abbrev Tab (α : Type) := List (Nat × α)

/-- A byte memory: the bytes that differ from zero, in strictly rising order of address.  An address that is not
listed reads as zero. -/
abbrev Mem := List Host.Cell

end Sys2Proof
end

