-- ==== Sys2Proof/Syntax.lean ====
section
/-! DEFINITION. The commands of the block: one constructor per row of the spec's table of steps, with its operands. -/

namespace Sys2Proof

/-- The access paths to the dictionary (Table 18.5). -/
inductive Path where
  | mailbox | dictReq | mgmt
  deriving DecidableEq, Repr

/-- A link of the device: the Aedup link or one of the 96 Pelgan links. -/
inductive LinkId where
  | aedup | pelgan (port : Nat)
  deriving DecidableEq, Repr

/-- The units with a progress monitor (Table 20.3). -/
inductive MonitorUnit where
  | blockSequencer | cuff | belt | lace | veil | sampler | zipper | packer | hbm | flashChannel
  | regionSequencer | mesh | cloak | hem | bridge | dictionary | recovery
  deriving DecidableEq, Repr

/-- What a matrix instruction meets in its cells and its Pocket (Table 1.4): nothing, an error that its replay clears, one
that the replay meets again, or an uncorrectable Pocket word. -/
inductive ArrayError where
  | none | replayed | replayFails | pocket
  deriving DecidableEq, Repr

/-- A command to the block: one constructor per row of spec/opcode_table.json, in its order.  The table gives no row
any operand; the operands here are what the rule of the row says arrives with the event, or is measured by it. -/
inductive Instr where
  /-- POWER_ON (R391): Every rail is within limits with COLD_RST_N high: the device enters POWER_GOOD, checks
  REFCLK, locks the always-on PLL and begins reading the configuration EEPROM. -/
  | powerOn
  /-- EEPROM_READ (R392): The EEPROM read over I2C completes: identity, trims, block step, block map, EEPROM-kept
  entries and clean record are taken, or on a CRC failure the device asserts fatal and stays in POWER_GOOD. -/
  | eepromRead (ok : Bool)
  /-- EEPROM_READ_RETRY (R392): One second after a failed EEPROM read, the device reads the EEPROM again. -/
  | eepromReadRetry
  /-- LONG_TEST_LIMIT_CHECK (R411): Every 1 ms in IDENTIFY, the device checks the limits of R416 and starts the
  long test once they are met. -/
  | longTestLimitCheck (vinMv : Nat)
  /-- LONG_TEST_END (R409): The long test ends: failing blocks are quarantined, failing lanes are excluded, bit 4
  to 6 failures become power errors, and the device enters TRAIN. -/
  | longTestEnd (failedBlocks pelganLanes aedupLanes : List Nat) (failedChecks : Nat)
  /-- HBM_TRAIN (R185): Training of one HBM stack ends at 10.4, 9.6 or 8.0 Gb/s, and HBM.RATE is set; a failure at
  8.0 Gb/s keeps the device in TRAIN with fatal asserted. -/
  | hbmTrain (stack rate : Nat)
  /-- FLASH_CHANNEL_TRAIN (R188): Training of one flash channel ends at the highest rate that all its targets
  pass, or the channel counts as down. -/
  | flashChannelTrain (channel rates luns blocks stripes bad : Nat) (meets : Bool)
  /-- FLASH_TIER_REBUILD (R192): The flash map and the FLASH object table are rebuilt from their last durable copy
  and the later page metadata, and FLASH.STATE and FLASH.CAPACITY are set. -/
  | flashTierRebuild (metadata : Bool)
  /-- TRAIN_END (R391): With every HBM stack trained and the flash tier in a settled state, the device enters
  CONFIGURE, lays out reserved HBM and the pool, and loads defaults and EEPROM values. -/
  | trainEnd
  /-- DICT_CONFIG_DONE (R374): A write of 1 to DICT.CONFIG_DONE in CONFIGURE ends it and enters READY; a write in
  any other state, or of 0, or with the tier key missing fails with BAD_FIELD. -/
  | dictConfigDone (path : Path) (value : Nat)
  /-- COLD_RST_N (R396): COLD_RST_N is asserted: the device goes to OFF and on release performs a chip cold reset
  that restores all entries and restarts the beat number and tags. -/
  | coldRstN
  /-- WARM_RST_N (R397): WARM_RST_N is held low for 1 µs and starts a chip warm reset. -/
  | warmRstN
  /-- DIAG_RESET_WARM (R397): A write of 1 to DIAG.RESET starts a chip warm reset. -/
  | diagResetWarm (path : Path)
  /-- DIAG_RESET_COLD (R396): A write of 2 to DIAG.RESET writes pending quarantines to the EEPROM and then
  performs a chip cold reset. -/
  | diagResetCold (path : Path)
  /-- PWR_FAIL_N_FALL (R390): PWR_FAIL_N falls: the device asserts alert, stops storage admission and array runs,
  lowers ACLK and flushes staging, index state copies and the flash map. -/
  | pwrFailNFall
  /-- PWR_FAIL_N_RISE (R390): PWR_FAIL_N rises before the supply fails: the device restores ACLK and admits
  storage commands again. -/
  | pwrFailNRise
  /-- POWER_ERROR (R389): A rail, IVR, PLL, REFCLK, die or HBM temperature stays out of limits for its time, and
  the device takes the action of Table 19.6. -/
  | powerError (row : Nat)
  /-- THERMAL_READ (R389): Every 100 µs the device reads the block-row, engine and PHY thermal sensors. -/
  | thermalRead (hottest : Nat)
  /-- ACLK_STEP (R389): Every 1 ms while throttling or recovering, ACLK moves one 50 MHz step down or up, with the
  Collar admitting no block during the 10 µs change. -/
  | aclkStep
  /-- ACLK_CHANGE_END (R386): An ACLK change ends, and the rise and fall buckets take their new depth at the new
  ACLK. -/
  | aclkChangeEnd
  /-- IDLE_REQUEST (R114): After 64 consecutive ACLK without a valid row, a block asks the Collar for IDLE. -/
  | idleRequest (block : Nat)
  /-- IDLE_GRANT (R385): The block takes a fall token, ramps its dummy lanes down, and the array is clock-gated.
  -/
  | idleGrant (block elapsedNs : Nat)
  /-- COLLAR_ADMISSION (R385): An IDLE block with a valid row ready receives a rise token when one is available
  and within the current limit, and starts its four-step ramp. -/
  | collarAdmission (block waitNs elapsedNs : Nat)
  /-- RAMP_END (R115): The block's wake ramp ends and it issues its row in the next cycle. -/
  | rampEnd (block : Nat)
  /-- REGION_WAKE_STAGE (R387): One region wake stage of COLLAR.STAGE_NS ends: the next zones soft-start, or at
  stage 8 the engines are released and the region accepts work. -/
  | regionWakeStage (region : Nat)
  /-- POWER_REQUEST_ACTIVE (R388): A write of 0 to POWER.REQUEST wakes every sleeping region and clears
  POWER.REGION_REQUEST; during a transition it acts as a doorbell does under R71. -/
  | powerRequestActive (path : Path)
  /-- POWER_REQUEST_IDLE (R388): A write of 1 to POWER.REQUEST enters IDLE, or is refused with POWER_STATE_DENIED.
  -/
  | powerRequestIdle (path : Path)
  /-- POWER_REQUEST_DEEP_SLEEP (R388): A write of 2 to POWER.REQUEST enters DEEP_SLEEP, or is refused with
  POWER_STATE_DENIED. -/
  | powerRequestDeepSleep (path : Path)
  /-- POWER_REGION_REQUEST (R463): A write to POWER.REGION_REQUEST puts the set regions to sleep and wakes the
  cleared ones, ends DEEP_SLEEP, or is refused whole. -/
  | powerRegionRequest (path : Path) (value : Nat)
  /-- POWER_STATE_REACHED (R388): The entry into IDLE, REGION_SLEEP or DEEP_SLEEP ends, and POWER.STATE and the
  sleep map update. -/
  | powerStateReached
  /-- BEAT_BOUNDARY (R38): A beat boundary runs the fixed sequence: faults and map changes, cancellation sweep, WB
  writes, route plan, slice ends and placement, BEAT_OUT and the beat number. -/
  | beatBoundary (alignNs : Int) (late : List Nat)
  /-- BEAT_IN_EDGE (R34): A BEAT_IN rising edge on a manager is accepted as a boundary, ignored and counted, or
  counted as a good edge toward relock. -/
  | beatInEdge (sinceBoundary sinceEdge : Nat) (late : List Nat)
  /-- HOLDOVER_BOUNDARY (R48): No valid beat input arrives in time, and the device makes the boundary itself at
  its mean interval and counts a holdover beat. -/
  | holdoverBoundary (late : List Nat)
  /-- BEAT_FLIT_SEND (R35): HEM.ANNOUNCE_LEAD before each boundary, the manager sends a beat flit on every group
  link. -/
  | beatFlitSend
  /-- BEAT_FLIT (R352): A worker receives a beat flit, places its boundary at the remaining time, adopts the beat
  number and forwards the flit to its children. -/
  | beatFlit (port beat period remaining formation : Nat)
  /-- MASK_READY (R323): At the MASK_READY phase, steps whose masks are not all ready move to the next beat and
  are counted late. -/
  | maskReady
  /-- SAMPLE (R294): At the SAMPLE phase, the sampler processes logits and draws for every ready context, and
  acceptance decides each step's emitted tokens. -/
  | sample
  /-- TOKEN_COMMIT (R295): At the TOKEN_COMMIT phase, emitted tokens are kept in order, stops, EOS and limits are
  matched, LEN is cut back and the output header is written. -/
  | tokenCommit
  /-- VEIL_MASK_FETCH_DONE (R323): The fetch and expansion of one grammar state's mask ends, and the mask is in
  the sampler's buffer. -/
  | veilMaskFetchDone (job state : Nat) (cached : Bool)
  /-- PLAN_SEAL (R21): At the PLAN_SEAL phase, the route plan for the next beat is sealed, and work that missed it
  is counted. -/
  | planSeal
  /-- COUNTER_SNAPSHOT (R425): At the COUNTER_SNAPSHOT phase, every counter is copied to its shadow,
  PERF.SNAP_BEAT is recorded and context exports are written. -/
  | counterSnapshot
  /-- PREEMPT_WINDOW (R45): While a PREEMPT_WINDOW is open, pending preemptions are served at the next matrix-
  instruction boundary. -/
  | preemptWindow (entry : Nat)
  /-- SELFTEST_WINDOW (R46): A SELFTEST_WINDOW opens, and each region may start slices that fit in what remains of
  it. -/
  | selftestWindow (entry : Nat)
  /-- SLICE_START (R415): The device claims the next block at a matrix-instruction boundary and starts a slice if
  it fits the window, or defers it. -/
  | sliceStart (region remainingNs vinMv : Nat)
  /-- SLICE_PART_END (R413): One part of a slice (save, logic test, march test or restore) ends, and the next part
  starts, or the slice passes or fails. -/
  | slicePartEnd (block : Nat) (ok : Bool)
  /-- SLICE_LIMIT_CHECK (R416): Every 10 µs during a slice, ACLK and VIN_IVR are checked, and a slice outside the
  limits is abandoned and restored. -/
  | sliceLimitCheck (block vinMv : Nat)
  /-- DIAG_BLOCK_RETURN (R18): A write to DIAG.BLOCK_RETURN queues a return slice for a quarantined block, does
  nothing, or fails with BAD_FIELD. -/
  | diagBlockReturn (path : Path) (value : Nat)
  /-- TEST_SHUTDOWN_RUN (R410): A write of 1 to TEST.SHUTDOWN_RUN starts the shut-down test, or is refused with
  POWER_STATE_DENIED or TEST_SKIPPED_LIMITS. -/
  | testShutdownRun (path : Path) (value vinMv : Nat)
  /-- SHUTDOWN_TEST_PROGRESS (R410): A stage of the shut-down test (flush, wake, checks, clean record) ends and
  the next begins, ending with TEST.SHUTDOWN_STATE 2. -/
  | shutdownTestProgress (failedBlocks pelganLanes aedupLanes notRun : List Nat) (failedChecks : Nat)
  /-- TAP_BYPASS (R417): The TAP instruction BYPASS selects the bypass register without disturbing the device. -/
  | tapBypass
  /-- TAP_IDCODE (R417): The TAP instruction IDCODE returns 0x0410_0B4B. -/
  | tapIdcode
  /-- TAP_SAMPLE_PRELOAD (R417): The TAP instruction SAMPLE/PRELOAD samples the balls without disturbing the
  device. -/
  | tapSamplePreload
  /-- TAP_REFUSED_INSTRUCTION (R417): Before TEST_ENTER, any other TAP instruction or IEEE 1687 instrument is
  refused and selects BYPASS. -/
  | tapRefusedInstruction
  /-- TEST_ENTER (R418): The TAP instruction TEST_ENTER asserts alert, sends aborts, stops all work, zeroes keys,
  seeds and session keys, and enables test mode until a cold reset. -/
  | testEnter
  /-- SUBMISSION_DOORBELL (R56): A submission doorbell write records a new submission tail, or is ignored and
  counted. -/
  | submissionDoorbell (queue value : Nat)
  /-- COMPLETION_DOORBELL (R56): A completion doorbell write releases completion slots up to the new head, or is
  ignored and counted. -/
  | completionDoorbell (queue value : Nat)
  /-- QUEUE_TABLE_FETCH (R54): A queue table entry fetch over Aedup completes, after evicting the least recently
  used idle cached entry. -/
  | queueTableFetch (queue : Nat)
  /-- COMMAND_ADMISSION (R57): A region sequencer admits the next submission entry by weighted round robin, checks
  it in fixed order, pins its epoch or versions and sets its starting beat. -/
  | commandAdmission (region : Nat)
  /-- COMMAND_COMPLETION (R61): A command's outputs are visible, its completion entry is written in one Aedup
  write, the optional interrupt follows and the job counters update. -/
  | commandCompletion (job : Nat)
  /-- QUEUE_ENABLE (R52): A write to QUEUE.ENABLE fetches and checks the queue table entry and enables the queue,
  or fails. -/
  | queueEnable (path : Path) (value : Nat)
  /-- QUEUE_DISABLE (R53): A write to QUEUE.DISABLE moves the queue to DRAINING, or fails with BAD_FIELD. -/
  | queueDisable (path : Path) (value : Nat)
  /-- NOP (R59): Command NOP completes with OK and RESULT 0. -/
  | nop (job : Nat)
  /-- CANCEL (R64): Command CANCEL marks the earliest admitted matching command for cancellation at the next
  boundary, or completes with OK_NOOP. -/
  | cancel (job : Nat)
  /-- WRITE_PASSAGES (R213): Command WRITE_PASSAGES stages passage records into the pending epoch, all or nothing.
  -/
  | writePassages (job : Nat)
  /-- WRITE_VECTORS (R213): Command WRITE_VECTORS stages vector records for consecutive passages. -/
  | writeVectors (job : Nat)
  /-- WRITE_SKETCHES (R213): Command WRITE_SKETCHES appends sketch records to a list in the pending epoch. -/
  | writeSketches (job : Nat)
  /-- DELETE (R214): Command DELETE tombstones LIVE or PENDING passages in the pending epoch. -/
  | delete (job : Nat)
  /-- PUBLISH (R67): Command PUBLISH waits for earlier writes, makes them durable, checks pending passages and
  makes the pending epoch current. -/
  | publish (job : Nat) (copyGood : Bool)
  /-- FLUSH (R66): Command FLUSH programs the covered staged data to flash and completes when it is durable. -/
  | flush (job : Nat)
  /-- TRIM (R68): Command TRIM makes COUNT 4 KiB units read as zeros, unbacking whole 2 MiB units. -/
  | trim (job : Nat)
  /-- CTX_ALLOC (R81): Command CTX_ALLOC allocates a FREE context, reserves its save area and makes it IDLE. -/
  | ctxAlloc (job : Nat)
  /-- CTX_FREE (R82): Command CTX_FREE tears the context down and makes it FREE, returning its resources at the
  next boundary. -/
  | ctxFree (job : Nat)
  /-- CTX_MODIFY (R83): Command CTX_MODIFY sets new slice, watchdog and counter-permit values effective at an R40
  boundary. -/
  | ctxModify (job : Nat)
  /-- CTX_PREEMPT (R83): Command CTX_PREEMPT asks for the context to be saved at its next preemption opportunity.
  -/
  | ctxPreempt (job : Nat)
  /-- CTX_SAVE (R92): Command CTX_SAVE writes a copy of the context image, or a checkpoint, to ADDR. -/
  | ctxSave (job : Nat)
  /-- CTX_RESTORE (R93): Command CTX_RESTORE replaces the context's state with an image, re-laying buffers on a
  checkpoint of another geometry. -/
  | ctxRestore (job : Nat)
  /-- CTX_BUFFER (R94): Command CTX_BUFFER names or removes a Pocket buffer in the context's table. -/
  | ctxBuffer (job : Nat)
  /-- WARDROBE_REGISTER (R95): Command WARDROBE_REGISTER records a read-only model image in HBM. -/
  | wardrobeRegister (job : Nat)
  /-- WARDROBE_RELEASE (R95): Command WARDROBE_RELEASE unregisters a model once no open instruction reads it. -/
  | wardrobeRelease (job : Nat)
  /-- CTX_QUERY (R83): Command CTX_QUERY writes the live 512-byte context table entry to ADDR. -/
  | ctxQuery (job : Nat)
  /-- WARDROBE_LOAD (R96): The Wardrobe finishes loading a model from HBM after evicting unpinned models, and the
  waiting command goes on. -/
  | wardrobeLoad (model : Nat)
  /-- CLOAK_SAVE_DONE (R88): Cloak finishes writing a context image, and the quads are released and the context
  becomes WAITING or IDLE. -/
  | cloakSaveDone (ctx : Nat) (ok : Bool)
  /-- CLOAK_RESTORE_DONE (R87): Cloak finishes loading a placed context's image or zero state, and the context
  becomes RUNNING. -/
  | cloakRestoreDone (ctx : Nat) (ok : Bool)
  /-- NP_BOUND_EXCEEDED (R90): A non-preemptible unit runs past CTX.NP_BOUND from the preemption point, and the
  context is faulted with CTX_HUNG. -/
  | npBoundExceeded (ctx : Nat)
  /-- ARRAY_RUN (R117): Command ARRAY_RUN checks and runs an array program with one stream per virtual block. -/
  | arrayRun (job : Nat)
  /-- SEQUENCER_NOP (R104): Sequencer instruction NOP retires with no effect. -/
  | sequencerNop (job stream : Nat)
  /-- MATMUL (R109): Sequencer instruction MATMUL streams activation rows through a weight tile at its rung,
  accumulating in fixed order and optionally draining. -/
  | matmul (job stream : Nat) (error : ArrayError)
  /-- DRAIN (R126): Sequencer instruction DRAIN converts accumulator rows, applies a function and writes them to a
  local or remote Pocket. -/
  | drain (job stream : Nat) (error : ArrayError)
  /-- ACC_LOAD (R106): Sequencer instruction ACC_LOAD loads or adds Pocket values into accumulator rows. -/
  | accLoad (job stream : Nat) (error : ArrayError)
  /-- BARRIER (R107): Sequencer instruction BARRIER waits until every stream reaches the same barrier, or ends the
  run on a mismatch. -/
  | barrier (job stream : Nat)
  /-- END (R107): Sequencer instruction END ends its stream, and the run ends when every stream has ended. -/
  | endStream (job stream : Nat)
  /-- CHANNEL_WINDOW_CLAIM (R155): A stalled accessor claims all its channel-window slots at once when every claim
  can succeed. -/
  | channelWindowClaim (job stream : Nat)
  /-- REMOTE_WINDOW_CLAIM (R156): A CTL claim message from a remote writer reaches the destination block and is
  granted when the slots are EMPTY. -/
  | remoteWindowClaim (job stream : Nat)
  /-- WINDOW_TIMEOUT (R157): A stalled accessor's wait reaches the window's TIMEOUT, and the context is faulted
  and the timeout recorded. -/
  | windowTimeout (job stream waited : Nat)
  /-- POCKET_REMOTE_ACCESS (R153): A remote Pocket request arrives at a block's mesh port and is served or
  completed with ECC_UNCORRECTABLE. -/
  | pocketRemoteAccess (ctx block row byte words : Nat) (write : Bool) (data : Nat)
  /-- POCKET_FILL (R160): Command POCKET_FILL writes PATTERN to a rectangle of rows and words in each named block.
  -/
  | pocketFill (job : Nat)
  /-- POCKET_COPY (R161): Command POCKET_COPY copies, or transposes, a rectangle within each named block. -/
  | pocketCopy (job : Nat) (uncorrectable : Option Nat)
  /-- POCKET_CONFIG (R162): Command POCKET_CONFIG replaces the group map and declares or removes channel windows.
  -/
  | pocketConfig (job : Nat)
  /-- OBJ_REGISTER (R172): Command OBJ_REGISTER registers an object of 2 MiB units with a tier policy, reserving
  capacity. -/
  | objRegister (job : Nat)
  /-- OBJ_RELEASE (R173): Command OBJ_RELEASE waits for earlier commands, discards staged writes and frees the
  object's units at the next boundary. -/
  | objRelease (job : Nat)
  /-- OBJ_SET_POLICY (R174): Command OBJ_SET_POLICY gives an object a new policy and region and moves its
  misplaced units. -/
  | objSetPolicy (job : Nat)
  /-- OBJ_QUERY (R175): Command OBJ_QUERY writes the object descriptor and one byte per unit to DEST. -/
  | objQuery (job : Nat)
  /-- MOVE_SWITCH (R176): A move's copy ends, the unit's home switches in one step, stalled writes go ahead and
  the old home is freed. -/
  | moveSwitch (unit : Nat)
  /-- MOVE_ABANDON (R177): A move not switched within MEM.MOVE_BOUND is abandoned, and its stalled writers are
  released. -/
  | moveAbandon (unit : Nat)
  /-- BACKGROUND_FLUSH (R461): With background flushing on, the device programs the oldest staged stripe on a
  channel that has no read queued. -/
  | backgroundFlush (channel : Nat)
  /-- STRIPE_PROGRAM_COMPLETE (R189): A stripe program ends; the map entry switches, or on failure the block is
  retired and the stripe reprogrammed elsewhere. -/
  | stripeProgramComplete (stripe : Nat) (ok : Bool)
  /-- FLASH_READ_COMPLETE (R190): A codeword read ends after hard, retry or soft decoding, completing its reader
  or ECC_UNCORRECTABLE and scheduling a refresh move if needed. -/
  | flashReadComplete (job addr level bits : Nat)
  /-- GARBAGE_COLLECTION (R189): When a LUN's free blocks fall below 2 %, the device moves the valid stripes of
  the emptiest block. -/
  | garbageCollection (channel lun : Nat)
  /-- WEAR_LEVELLING (R189): When the erase-count spread of a LUN exceeds 1,000, cold stripes move. -/
  | wearLevelling (channel lun : Nat)
  /-- FLASH_PATROL (R190): The patrol reads every stripe once per FLASH.SCRUB_HOURS. -/
  | flashPatrol (stripe level bits : Nat)
  /-- ZQ_CALIBRATION (R187): Every 100 ms a flash channel runs a short ZQ calibration. -/
  | zqCalibration (channel : Nat)
  /-- DQ_CHECK (R193): A flash channel runs its periodic DQ check, and a failure starts a channel reset. -/
  | dqCheck (channel : Nat) (ok : Bool)
  /-- FLASH_BUSY_TIMEOUT (R193): A flash operation busy for more than 10 ms starts a channel reset. -/
  | flashBusyTimeout (channel : Nat)
  /-- CHANNEL_RESET (R193): A flash channel resets its targets, retrains and reissues unfinished operations, or on
  failure the region faults and the channel goes down. -/
  | channelReset (channel rates : Nat)
  /-- HBM_PATROL_SCRUB (R184): A patrol scrub reads every HBM line once per HBM.SCRUB_HOURS, writing corrections
  back. -/
  | hbmPatrolScrub (line errors : Nat)
  /-- HBM_TEMPERATURE_READ (R184): Every 1 ms each stack's temperature is read, adjusting refresh and throttling,
  or raising a power error at 100 °C. -/
  | hbmTemperatureRead (stack temp : Nat)
  /-- STACK_CONTROLLER_RESET (R185): A stack controller reset ends: the stack is retrained and leaves self-refresh
  with its contents kept, or the region faults. -/
  | stackControllerReset (stack rate : Nat)
  /-- LACE_VOCAB_LOAD (R196): Command LACE_VOCAB_LOAD checks a vocabulary image and builds every Lace's encode
  table. -/
  | laceVocabLoad (job : Nat)
  /-- LACE_VOCAB_UNLOAD (R198): Command LACE_VOCAB_UNLOAD unloads a vocabulary once its pinned calls have
  completed. -/
  | laceVocabUnload (job : Nat)
  /-- LACE_ENCODE (R201): Command LACE_ENCODE normalizes text, finds the best segmentation and writes tokens and
  offsets. -/
  | laceEncode (job : Nat)
  /-- LACE_DECODE (R205): Command LACE_DECODE turns tokens into bytes, unmarking spaces and removing the prefix.
  -/
  | laceDecode (job : Nat)
  /-- INDEX_CREATE (R211): Command INDEX_CREATE makes a new index from its descriptor or reopens one from the list
  area. -/
  | indexCreate (job : Nat)
  /-- INDEX_DROP (R212): Command INDEX_DROP waits for pinned commands, discards staged writes and releases the
  index's areas. -/
  | indexDrop (job : Nat)
  /-- INDEX_STATUS (R232): Command INDEX_STATUS writes the 64-byte index status to DEST. -/
  | indexStatus (job : Nat)
  /-- SEARCH (R225): Command SEARCH selects probe lists, scans sketches on the Cuffs, merges, repairs and widens,
  and scores the candidates exactly. -/
  | search (job : Nat)
  /-- RERANK (R231): Command RERANK scores given visible candidates exactly and writes the best K_OUT. -/
  | rerank (job : Nat)
  /-- RECALL_PROBE (R234): Command RECALL_PROBE runs searches and exact scans and reports hits against the exact
  best. -/
  | recallProbe (job : Nat)
  /-- CUFF_PASS (R224): When a Cuff pass ends, the Cuff reads the segment of its oldest work item for up to 64
  sharing queries and hands local top-64 lists to the Zipper. -/
  | cuffPass (cuff : Nat)
  /-- COMPACTION (R218): Background compaction rewrites a due list's old extents without tombstoned records and
  switches the directory. -/
  | compaction (index list : Nat)
  /-- TOPK (R243): Command TOPK selects the best K entries of each row, with exact sums and tie counts. -/
  | topk (job : Nat)
  /-- MERGE (R247): Command MERGE merges sorted selection results, optionally collapsing duplicates, into one
  selection. -/
  | merge (job : Nat)
  /-- BELT_TABLE_CREATE (R254): Command BELT_TABLE_CREATE checks a descriptor and makes version 1 of a table
  current. -/
  | beltTableCreate (job : Nat)
  /-- BELT_TABLE_REPLACE (R254): Command BELT_TABLE_REPLACE makes a new version of a table current, waiting if the
  version limit is reached. -/
  | beltTableReplace (job : Nat)
  /-- BELT_TABLE_DROP (R256): Command BELT_TABLE_DROP removes the current version and completes once every version
  is freed. -/
  | beltTableDrop (job : Nat)
  /-- BELT_GATHER (R260): Command BELT_GATHER resolves indices to rows of the pinned version and writes them, or
  pools them into weighted bags. -/
  | beltGather (job : Nat)
  /-- BELT_HOT_CACHE_ENABLE (R267): A write to BELT.HOT_CACHE_ENABLE sets the cache switch for later gathers and
  clears every hot-row cache. -/
  | beltHotCacheEnable (path : Path) (value : Nat)
  /-- CROSS_RERANK (R272): Command CROSS_RERANK builds pair sequences, runs the cross-encoder, combines scores and
  writes the best K_OUT. -/
  | crossRerank (job : Nat)
  /-- PACK (R277): Command PACK chooses, cuts and orders passages under a token budget and writes the prompt and
  mailbox header, locally or to a peer. -/
  | pack (job : Nat)
  /-- GEN_RUN (R292): Command GEN_RUN reads its descriptors, prefills the prompt and generates tokens step by step
  until the request ends. -/
  | genRun (job : Nat)
  /-- KV_RELEASE (R301): Command KV_RELEASE cuts LEN and DRAFT_KV_LEN to KEEP, returning pages at the next
  boundary. -/
  | kvRelease (job : Nat)
  /-- SAMPLER_SEED (R318): Command SAMPLER_SEED sets the context's generator seed. -/
  | samplerSeed (job : Nat)
  /-- RAND_FILL (R319): Command RAND_FILL writes COUNT generator outputs to memory or a Pocket. -/
  | randFill (job : Nat)
  /-- VEIL_LOAD (R320): Command VEIL_LOAD checks a grammar image and makes it resident in every Veil. -/
  | veilLoad (job : Nat)
  /-- VEIL_UNLOAD (R321): Command VEIL_UNLOAD unloads a grammar once its pinned requests have completed. -/
  | veilUnload (job : Nat)
  /-- TEARDOWN_DRAIN_END (R399): The drain of a torn-down context ends, its commands complete, and it becomes
  FAULTED or FREE. -/
  | teardownDrainEnd (ctx : Nat)
  /-- DRAIN_TIMEOUT (R400): RESET.DRAIN_US runs out with writes still outstanding, which are fenced and counted,
  and their unit is treated as hung. -/
  | drainTimeout (ctx writes : Nat) (unit : MonitorUnit) (inst : Nat)
  /-- CONTEXT_WATCHDOG (R402): A context's count of beats without progress reaches WATCHDOG_BEATS, and it is
  faulted with CTX_HUNG at step 1 of the next boundary. -/
  | contextWatchdog (ctx : Nat)
  /-- PROGRESS_MONITOR (R403): A unit holding work without progress for RESET.MONITOR_US is treated as hung, with
  the action of Table 20.3. -/
  | progressMonitor (unit : MonitorUnit) (inst job : Nat)
  /-- REGION_RESET (R398): A region reset tears down the region's contexts and commands, resets and wakes the
  region, retrains its memory and links and rebuilds Lace and Veil tables. -/
  | regionReset (region : Nat) (ok : Bool)
  /-- DIAG_REGION_RESET (R398): A write of a region number to DIAG.REGION_RESET starts that region's reset. -/
  | diagRegionReset (path : Path) (value : Nat)
  /-- REGION_RESET_TIMEOUT (R398): A region reset not ended within 50 ms becomes a fatal error. -/
  | regionResetTimeout (region : Nat)
  /-- AEDUP_READ_TIMEOUT (R404): A device read of the companion window unanswered for RESET.AEDUP_READ_TIMEOUT
  retrains Aedup, and then resets the link. -/
  | aedupReadTimeout (tag : Nat)
  /-- LINK_TRAIN_RETRY (R331): A link in DOWN enters DETECT when training begins or 10 ms after its last failure.
  -/
  | linkTrainRetry (link : LinkId)
  /-- LINK_TRAINING_STATE_END (R330): A training state (DETECT, EQUALIZE or ALIGN) of an Aedup or Pelgan link ends
  and the link moves on, choosing width and rate and measuring latency. -/
  | linkTrainingStateEnd (link : LinkId) (lanesLow lanesHigh latency : Nat)
  /-- LINK_STATE_TIMEOUT (R331): A training or retrain state exceeds its time limit and the link returns to DOWN,
  counting a failure. -/
  | linkStateTimeout (link : LinkId)
  /-- CAPABILITY_RESEND (R332): Every 1 µs in NEGOTIATE, each end sends its capability again until it has the
  other's. -/
  | capabilityResend (link : LinkId)
  /-- AEDUP_CAPABILITY (R332): The companion's capability arrives, version and features are agreed or negotiation
  fails, and on ACTIVE the SESSION is compared under R340. -/
  | aedupCapability (capability : Nat)
  /-- PELGAN_CAPABILITY (R344): A Pelgan partner's capability arrives, and version and features are agreed or
  negotiation fails. -/
  | pelganCapability (port capability : Nat)
  /-- FLIT_RECEIVE (R333): A flit arrives on Aedup or Pelgan and is checked for CRC, tag, sequence and link
  generation, acknowledged or discarded with one NAK. -/
  | flitReceive (link : LinkId) (corrected : Nat) (crcOk tagOk : Bool) (header : Nat) (messages : List Nat)
  /-- NAK (R333): A received NAK makes the sender replay from the flit after the acknowledged one, and sixteen
  replays of one flit retrain the link. -/
  | nak (link : LinkId) (ack : Nat)
  /-- ACK_STALL (R333): No progress of ACK for 10 µs with flits unacknowledged retrains the link. -/
  | ackStall (link : LinkId)
  /-- LINK_RETRAIN_END (R333): A retrain ends with the link ACTIVE, keeping replay buffers and credits, and
  replays. -/
  | linkRetrainEnd (link : LinkId) (lanesLow lanesHigh : Nat)
  /-- AEDUP_RETRAIN_REQUEST (R341): A write of 1 to AEDUP.RETRAIN_REQUEST retrains the Aedup link at once. -/
  | aedupRetrainRequest (path : Path) (value : Nat)
  /-- DATA_NC (R335): A DATA_NC or DATA_S reply arrives and serves its read, installing a DATA_S line in S unless
  snooped meanwhile. -/
  | dataNc (tag : Nat) (shared : Bool) (data : Nat)
  /-- DATA_ERR (R334): A DATA_ERR reply arrives and its command completes with ECC_UNCORRECTABLE. -/
  | dataErr (tag : Nat)
  /-- SNP_INV (R335): A snoop moves the line to I and is answered with SNP_RSP_I. -/
  | snpInv (addr : Nat)
  /-- MMIO_RD (R337): An MMIO read of the device window is served after earlier snoops and writes, returning zeros
  if malformed. -/
  | mmioRd (tag offset words : Nat)
  /-- MMIO_WR (R337): An MMIO write to a mailbox field is stored in arrival order after earlier snoops, or ignored
  and counted if malformed. -/
  | mmioWr (offset words value : Nat)
  /-- MAILBOX_TRIGGER (R339): A write to TRIGGER starts one dictionary request, which is checked, acted on and
  reported through STATUS, RLENGTH and DONE, or is ignored as an overrun. -/
  | mailboxTrigger (number : Nat)
  /-- REGISTER_WRITE (R362): A dictionary write to an entry with no behaviour of its own is checked and stored at
  once, at a beat boundary, or once. -/
  | registerWrite (path : Path) (key offset length value : Nat)
  /-- HEM_CALENDAR_COMMIT (R41): A write of 1 to HEM.CALENDAR_COMMIT captures and validates the staged calendar
  for the boundary where the commit takes effect. -/
  | hemCalendarCommit (path : Path) (value : Nat)
  /-- HEM_BEAT_PERIOD (R43): A write to HEM.BEAT_PERIOD on the manager is validated against the calendar that will
  be in force and takes effect at an R40 boundary. -/
  | hemBeatPeriod (path : Path) (value : Nat)
  /-- HEM_BEAT_SOURCE (R459): A write to HEM.BEAT_SOURCE sets FREE_RUN from its boundary, with internal free-run
  or edge counting toward lock. -/
  | hemBeatSource (path : Path) (value : Nat)
  /-- DIAG_FLASH_FORMAT (R195): A write of 1 to DIAG.FLASH_FORMAT erases every good block, marks the tier empty
  and sets the tier key, or fails while anything lives there. -/
  | diagFlashFormat (path : Path) (value : Nat)
  /-- SEC_KEY_LOAD (R434): A mailbox write of a key record to SEC.KEY_LOAD loads the tier key or a link key into
  its slot. -/
  | secKeyLoad (path : Path) (value : Nat)
  /-- SEC_KEY_CLEAR (R435): A write of a link slot number to SEC.KEY_CLEAR zeroes that slot. -/
  | secKeyClear (path : Path) (value : Nat)
  /-- SEC_ATTEST_NONCE (R441): A write of 48 bytes to SEC.ATTEST_NONCE builds and signs a new attestation report.
  -/
  | secAttestNonce (path : Path) (value : Nat)
  /-- PERF_SAMPLE_RELEASE (R431): A write to PERF.SAMPLE_RELEASE releases consumed sample records, or fails with
  BAD_FIELD. -/
  | perfSampleRelease (path : Path) (buffer value : Nat)
  /-- SKID_SAMPLE (R430): A skid sample from the Collar, IVRs or a PHY is captured within its bound and may send
  the sample interrupt. -/
  | skidSample (event inst count : Nat)
  /-- PELGAN_JOB_WRITE (R353): A manager write to PELGAN.JOB bumps JOB_GEN, sets the job ACTIVE or FREE and sends
  JOB_SET to the members. -/
  | pelganJobWrite (path : Path) (job value : Nat)
  /-- PELGAN_CTX_JOB (R354): A write to PELGAN.CTX_JOB binds a context to a job or unbinds it at an R40 boundary.
  -/
  | pelganCtxJob (path : Path) (ctx job : Nat)
  /-- HELLO (R348): A HELLO arrives, is flooded on, and updates the best manager candidate, joining groups when
  they meet. -/
  | hello (port capability priority serial : Nat)
  /-- MANAGER_DECLARE (R348): A device that has been its own best candidate for 1 ms declares itself manager,
  numbers the devices, sends ASSIGN and routes, then beat flits. -/
  | managerDeclare (serials : List Nat) (cables : List (Nat × Nat × Nat × Nat)) (latency : Nat)
  /-- ASSIGN (R348): An ASSIGN arrives and sets the device number, formation and manager, making the device a
  worker. -/
  | assign (port device formation manager members : Nat) (children : List Nat)
  /-- ROUTES (R350): A ROUTES message arrives, and its routes apply at step 3 of the next beat boundary. -/
  | routes (routes : List (Nat × Nat × Nat))
  /-- JOB_SET (R353): A JOB_SET arrives and the job entry takes effect at the stated boundary. -/
  | jobSet (job entry due : Nat)
  /-- MESSAGE_FORWARD (R347): A message flit whose route goes on is sent on the next hop's port, or dropped with
  RT_ERR when that port is not active. -/
  | messageForward (port header : Nat)
  /-- RMT_RD (R355): A remote read arrives at the target, is checked against job, generation and range, and is
  answered with its data or refused. -/
  | rmtRd (source job gen tag descriptor : Nat)
  /-- RMT_WR (R355): A remote write arrives at the target, is checked, lands and is answered, or is refused. -/
  | rmtWr (source job gen tag descriptor data : Nat)
  /-- RMT_RSP (R355): A remote reply arrives and serves its request, or is dropped when stale or late. -/
  | rmtRsp (tag status data : Nat)
  /-- RT_ERR (R347): An RT_ERR arrives reporting a flit dropped on its route. -/
  | rtErr (tag dest hop : Nat)
  /-- REMOTE_TIMEOUT (R355): A remote request unanswered after PELGAN.REMOTE_TIMEOUT completes its command with
  LINK_DOWN. -/
  | remoteTimeout (tag : Nat)
  /-- ZIP_LIST (R357): A ZIP_LIST pass of merge entries arrives from a child in the cross-device merge tree and
  enters the Zipper. -/
  | zipList (source job gen issuer tag status : Nat) (entries : List (Nat × Nat × Nat)) (last : Bool)
  /-- SPAN_START (R230): A SPAN_START arrives and the device runs its share of a spanning search at the issuer's
  epoch, or fails it. -/
  | spanStart (source job gen tag entry epoch round query : Nat)
  /-- DICT_REQ (R358): A DICT_REQ from the manager is served as a privileged dictionary request and answered with
  DICT_RSP. -/
  | dictReq (source tag fields : Nat) (offset data : Nat)
  /-- DICT_RSP (R358): A DICT_RSP arrives at the manager with the worker's status and data. -/
  | dictRsp (tag status rlength data : Nat)
  /-- ABORT_FLIT (R356): An abort flit arrives and is forwarded on first receipt; a member sets the job ABORTED
  and fences and tears down its bound context. -/
  | abortFlit (port flit : Nat)
  /-- ABORT_REPEAT (R356): Every 10 µs up to 1 ms after an abort began, the origin sends the abort flit again. -/
  | abortRepeat
  /-- MGMT_DATAGRAM (R369): A management datagram arrives, is discarded, answered from the replay cache, or served
  as an unprivileged dictionary request with a reply. -/
  | mgmtDatagram (source : Nat) (ours : Bool) (size header : Nat) (data : Nat)
  /-- BLOCK_ERASE_COMPLETE (R189): A BLOCK ERASE on a flash target ends; the block becomes free, or on failure it
  is retired and its valid stripes move. -/
  | blockEraseComplete (channel lun block : Nat) (ok : Bool)
  /-- VDD_AON_ABSENT (R391): VDD_AON falls or is removed, and the device goes to OFF, losing everything not in the
  EEPROM or durable flash. -/
  | vddAonAbsent
  /-- BEAT_IN_EDGE_ABSENT (R50): On a manager in FREE_RUN or LOST counting good edges, no BEAT_IN edge arrives by
  the period plus 1/1024 after the last one, and the count of good edges returns to 0. -/
  | beatInEdgeAbsent
  /-- QUICK_PATH_END (R393): On the quick path, once the clean record has been marked consumed in the EEPROM,
  IDENTIFY ends without a long test and the device enters TRAIN. -/
  | quickPathEnd
  /-- TAP_RESET (R418): The TAP is reset through TRST_N or the test-logic-reset state; the TAP logic resets while
  test mode, once entered, stays in force. -/
  | tapReset
  /-- NEIGHBOUR_SOLICITATION (R368): An IPv6 neighbour solicitation for the device's link-local address arrives on
  the management port and is answered. -/
  | neighbourSolicitation
  deriving DecidableEq, Repr

end Sys2Proof
end

