-- ==== Sys2Proof/Decode.lean ====
section
/-! DEFINITION. The decoder of table words.  The rows of the opcode table give no bits: the commands of this block are
events and writes at its interfaces, not words, so no word spells one. -/

namespace Sys2Proof

/-- The command that a word of `nbits` bits spells by the table's bits: none, since no row of the table gives bits. -/
def decodeTableWord (_nbits _w : Nat) : Option Instr := none

end Sys2Proof
end

