-- ==== Sys2Proof/Config.lean ====
section
/-! DEFINITION. What the spec leaves open, as constants without a value: nothing can compute with them, so whatever is
proved about the model holds for every value of them. -/

namespace Sys2Proof.Config

/-- Whether the Wardrobe keeps part of a model in a block: the spec gives no layout of the band (R96). -/
opaque modelHeld : Nat → Nat → Bool

/-- AES-256 of a block under a key (FIPS 197, which the spec cites and does not restate): key, block. -/
opaque aes256 : Nat → Nat → Nat

/-- HKDF-SHA-384 (R439): input keying material, salt, length in bytes. -/
opaque hkdf : Nat → Nat → Nat → Nat

/-- SHA-384 over the EEPROM areas, whose layout the spec does not give: from a stamp of their contents. -/
opaque measure : Nat → Nat

/-- The two halves of an ECDSA P-384 signature, from the private key, the signed bits and a value drawn. -/
opaque signature : Nat → Nat → Nat → Nat

/-- A free value for each count of open values taken. -/
opaque freeValue : Nat → Nat

end Sys2Proof.Config
end

