-- ==== Sys2Proof/Machine/Bits.lean ====
section
/-! DEFINITION. Bit fields, little-endian bytes, keyed tables and sparse byte memories: the helpers every other file of
the machine uses.  Field numbering is that of the spec's tables: bit 0 is the least significant (Table 0.4). -/

namespace Sys2Proof.Machine

/-! ### Numbers as bit fields -/

/-- Bits `lo` to `lo + n - 1` of `v`. -/
def field (v lo n : Nat) : Nat := v / 2 ^ lo % 2 ^ n

/-- `v` with bits `lo` to `lo + n - 1` replaced by the low bits of `x`. -/
def setField (v lo n x : Nat) : Nat :=
  v / 2 ^ (lo + n) * 2 ^ (lo + n) + x % 2 ^ n * 2 ^ lo + v % 2 ^ lo

/-- Bit `i` of `v`. -/
def bitOf (v i : Nat) : Bool := v / 2 ^ i % 2 == 1

/-- A flag as a bit. -/
def flagBit (b : Bool) : Nat := if b then 1 else 0

/-- The mask of bits `lo` to `hi`, both included. -/
def maskOf (hi lo : Nat) : Nat := 2 ^ (hi + 1) - 2 ^ lo

/-- Quotient rounded up. -/
def ceilDiv (a b : Nat) : Nat := if b = 0 then 0 else a / b + (if a % b = 0 then 0 else 1)

/-- The number of ones among the low `n` bits. -/
def popCount : Nat → Nat → Nat
  | 0, _ => 0
  | n + 1, v => v % 2 + popCount n (v / 2)

/-- The positions of the ones among the low `n` bits, rising, counted from `base`. -/
def onesOf : Nat → Nat → Nat → List Nat
  | 0, _, _ => []
  | n + 1, v, base => if v % 2 == 1 then base :: onesOf n (v / 2) (base + 1) else onesOf n (v / 2) (base + 1)

/-- The two's-complement reading of the low `n` bits of `v`. -/
def signedOf (n v : Nat) : Int :=
  let w := v % 2 ^ n
  if w < 2 ^ (n - 1) then (w : Int) else (w : Int) - (2 : Int) ^ n

/-- The `n`-bit two's-complement code of `x`. -/
def codeOf (n : Nat) (x : Int) : Nat := (x % (2 : Int) ^ n).toNat

/-! ### Little-endian bytes -/

/-- The low `n` bytes of `v`, lowest first. -/
def leBytes : Nat → Nat → List Nat
  | 0, _ => []
  | n + 1, v => v % 256 :: leBytes n (v / 256)

/-- The number whose little-endian bytes are given. -/
def ofLeBytes : List Nat → Nat
  | [] => 0
  | b :: bs => b + 256 * ofLeBytes bs

/-! ### CRC-32C -/

/-- One bit of CRC-32C, reflected. -/
def crcBit (c : Nat) : Nat := if c % 2 == 1 then (c / 2) ^^^ 0x82F63B78 else c / 2

/-- One byte taken into a CRC-32C register. -/
def crcByte (c b : Nat) : Nat :=
  crcBit (crcBit (crcBit (crcBit (crcBit (crcBit (crcBit (crcBit (c ^^^ b))))))))

/-- CRC-32C of some bytes. -/
def crc32c (bs : List Nat) : Nat := bs.foldl crcByte 0xFFFFFFFF ^^^ 0xFFFFFFFF

/-! ### Tables -/

/-- The value at a key. -/
def tabGet {α : Type} : Tab α → Nat → Option α
  | [], _ => none
  | (k, v) :: t, a => if k = a then some v else tabGet t a

/-- The table with `v` at key `a`. -/
def tabSet {α : Type} : Tab α → Nat → α → Tab α
  | [], a, v => [(a, v)]
  | (k, w) :: t, a, v =>
    if a < k then (a, v) :: (k, w) :: t
    else if a = k then (a, v) :: t
    else (k, w) :: tabSet t a v

/-- The table without key `a`. -/
def tabDel {α : Type} (t : Tab α) (a : Nat) : Tab α := t.filter (fun p => p.1 != a)

/-- The table with `f` applied to the value at key `a`. -/
def tabUpd {α : Type} (t : Tab α) (a : Nat) (f : α → α) : Tab α :=
  t.map (fun p => if p.1 = a then (p.1, f p.2) else p)

/-- The table with `f` applied to every value. -/
def tabMap {α : Type} (t : Tab α) (f : Nat → α → α) : Tab α := t.map (fun p => (p.1, f p.1 p.2))

/-- The keys of a table. -/
def tabKeys {α : Type} (t : Tab α) : List Nat := t.map Prod.fst

/-- A key is in a table. -/
def tabHas {α : Type} (t : Tab α) (a : Nat) : Bool := (tabGet t a).isSome

/-! ### Byte memories -/

/-- The byte at an address. -/
def memByte (m : Mem) (a : Nat) : Nat := ((tabGet m a).getD 0).toNat

/-- The memory without the bytes of a range. -/
def memClear (m : Mem) (a n : Nat) : Mem := m.filter (fun c => c.1 < a || a + n ≤ c.1)

/-- One byte written.  A zero is not listed, so equal memories are equal lists. -/
def memPut (m : Mem) (a v : Nat) : Mem :=
  if v % 256 = 0 then tabDel m a else tabSet m a (BitVec.ofNat 8 v)

/-- Bytes written at rising addresses. -/
def memWrite : Mem → Nat → List Nat → Mem
  | m, _, [] => m
  | m, a, b :: bs => memWrite (memPut m a b) (a + 1) bs

/-- `n` bytes from an address. -/
def memBytes (m : Mem) (a : Nat) : Nat → List Nat
  | 0 => []
  | n + 1 => memByte m a :: memBytes m (a + 1) n

/-- The little-endian number in `n` bytes from an address. -/
def memNat (m : Mem) (a n : Nat) : Nat := ofLeBytes (memBytes m a n)

/-- A little-endian number written to `n` bytes. -/
def memPutNat (m : Mem) (a n v : Nat) : Mem := memWrite m a (leBytes n v)

/-- The listed bytes of a range, moved to another address of another memory, whose range is replaced. -/
def memCopy (src : Mem) (a n : Nat) (dst : Mem) (b : Nat) : Mem :=
  ((src.filter (fun c => a ≤ c.1 && c.1 < a + n)).map (fun c => (c.1 - a + b, c.2))).foldl
    (fun m c => memPut m c.1 c.2.toNat) (memClear dst b n)

/-- The canonical form of a byte memory: rising addresses and no zero listed. -/
def memWf : Mem → Bool
  | [] => true
  | [c] => c.2 != 0
  | c :: d :: m => c.2 != 0 && c.1 < d.1 && memWf (d :: m)

/-! ### Lists -/

/-- The list without duplicates, first occurrences kept. -/
def distinct : List Nat → List Nat
  | [] => []
  | a :: l => a :: (distinct l).filter (fun b => b != a)

/-- Insertion of a number into a rising list. -/
def insertUp (a : Nat) : List Nat → List Nat
  | [] => [a]
  | b :: l => if a ≤ b then a :: b :: l else b :: insertUp a l

/-- A list of numbers in rising order. -/
def sortUp (l : List Nat) : List Nat := l.foldr insertUp []

/-- Insertion by a comparison that holds when the first argument goes before the second. -/
def insertBy {α : Type} (before : α → α → Bool) (a : α) : List α → List α
  | [] => [a]
  | b :: l => if before b a then b :: insertBy before a l else a :: b :: l

/-- A list sorted by a comparison; items that tie keep their order. -/
def sortBy {α : Type} (before : α → α → Bool) (l : List α) : List α := l.foldr (insertBy before) []

end Sys2Proof.Machine
end

