-- ==== Sys2Proof/Machine/State.lean ====
section
/-! DEFINITION. Everything the spec gives the machine to hold, as plain data, and its state at reset. -/

namespace Sys2Proof.Machine

/-- No command of this block ends in a fault: the spec describes a status, an error entry or a reset for every error, and
those are effects on the state.  The type is empty, so nothing raises it (safe). -/
inductive Fault where
  deriving DecidableEq, Repr

/-- Why a command has no meaning here. -/
inductive Refusal where
  /-- The command has no meaning in this model yet; raised only by the arm of that command (safe: nothing is claimed). -/
  | notModelled (mnemonic : String)
  deriving DecidableEq, Repr

/-! ### The dictionary service (chapter 18) -/

/-- Value types of entries (Table 18.1). -/
inductive EntryType where
  | u8 | u16 | u32 | u64 | i32 | f32 | str | domain
  deriving DecidableEq, Repr

/-- Access rights of entries (R362), as the entry tables combine them. -/
inductive Access where
  | ro | rw | rwPriv | wbPriv | wo1Priv | priv
  deriving DecidableEq, Repr

/-- Merge rules of overlayable entries (R376, Table 18.3). -/
inductive Merge where
  | none | replace | max | min | or
  deriving DecidableEq, Repr

/-- One row of the entry tables: an entry, or a run of array elements at consecutive sub-indices. -/
structure EntryRow where
  index  : Nat
  subLo  : Nat
  subHi  : Nat
  ty     : EntryType
  size   : Nat
  acc    : Access
  dflt   : Nat
  merge  : Merge
  eeprom : Bool
  deriving DecidableEq, Repr

/-- A dictionary request as any path carries it (Tables 16.9, 17.4 and 18.8). `reserved` holds the request's reserved
bits, `data` its value, little-endian, and `source` who is to be answered. -/
structure Request where
  path     : Path
  number   : Nat
  source   : Nat
  version  : Nat
  reserved : Nat
  op       : Nat
  key      : Nat
  offset   : Nat
  length   : Nat
  data     : Nat
  deriving DecidableEq, Repr

/-- A completed dictionary request. -/
structure Reply where
  path    : Path
  number  : Nat
  source  : Nat
  op      : Nat
  key     : Nat
  offset  : Nat
  status  : Nat
  rlength : Nat
  data    : Nat
  deriving DecidableEq, Repr

/-- A WB write that waits for its boundary (R40): `due` is the beat its boundary begins.  A calendar commit carries
the calendar it captured (R41). -/
structure WbItem where
  due     : Nat
  key     : Nat
  offset  : Nat
  length  : Nat
  value   : Nat
  capture : List Nat
  deriving DecidableEq, Repr

/-- The dictionary service, the mailbox page and the management port's replay cache. -/
structure DictS where
  /-- The request that waits for an Aedup line, and the line's companion address. -/
  waiting : Option (Request × Nat) := none
  /-- Requests that arrived behind the one being served (R364). -/
  backlog : List Request := []
  /-- The latest completed request. -/
  last : Option Reply := none
  /-- The latest answer of a worker, on the manager: tag, status, RLENGTH and data (R358). -/
  answer : Option (Nat × Nat × Nat × Nat) := none
  /-- WO1 entries written since the last chip cold reset (R362). -/
  locks : List Nat := []
  /-- Accepted WB writes not yet in force, in the order accepted. -/
  wb : List WbItem := []
  /-- The 4 KiB mailbox page (Table 16.9). -/
  mailbox : Mem := []
  /-- A mailbox request is in progress (R339). -/
  mailboxBusy : Bool := false
  /-- Latest request and reply of each of the last 16 management sources, newest first (R371). -/
  replay : List (Nat × Nat × Reply) := []
  /-- NOTIFY sequence number, and the times in ns of the notifications sent in the last second (R372). -/
  notifySeq : Nat := 0
  notifyTimes : List Nat := []
  deriving DecidableEq, Repr

/-! ### The Hem (chapter 2) -/

/-- The Hem's state beside its entries. -/
structure HemS where
  /-- The plan of the next beat is sealed (R21). -/
  sealed : Bool := false
  /-- Calendar entries that have fired in this beat. -/
  fired : List Nat := []
  /-- The calendar in force (Table 2.3): entries from 0 on, those not listed being zero; at reset that of Table 2.5. -/
  calendar : List Nat := [0x8001000000000000, 0x8005000000009000, 0x8006000000009400, 0x800700000000A000,
    0x800800000000E000, 0x800200000000F000, 0x8004700000001000]
  /-- Consecutive good BEAT_IN edges (R50, R459). -/
  goodEdges : Nat := 0
  /-- A BEAT_IN edge has been seen since the count last went to 0. -/
  edgeSeen : Bool := false
  /-- The last 16 accepted intervals in ns, newest first (R48). -/
  intervals : List Nat := []
  /-- The beat flit to use at the next boundary: its beat number and period (R35). -/
  flit : Option (Nat × Nat) := none
  /-- The manager has sent the beat flit of the next boundary. -/
  announced : Bool := false
  /-- Open windows of the calendar (R45, R46): the entries that are open. -/
  windows : List Nat := []
  /-- Rising edges driven on BEAT_OUT. -/
  beatOut : Nat := 0
  /-- Time of the current beat's boundary, in ns of beats made since start-up. -/
  timeNs : Nat := 0
  deriving DecidableEq, Repr

/-! ### Queues and commands (chapter 3) -/

/-- A command queue that is ENABLED or DRAINING, with the device's copy of its table entry (Table 3.1). -/
structure Queue where
  draining : Bool
  cached   : Bool
  /-- Its entry is not cached and has been asked for: a doorbell has come, or entries wait (R54). -/
  wanted   : Bool := false
  lastUse  : Nat
  vector   : Nat
  cqLog    : Nat
  sqLog    : Nat
  priority : Nat
  client   : Nat
  sqBase   : Nat
  cqBase   : Nat
  sqHead   : Nat
  cqTail   : Nat
  cqWrap   : Nat
  sqTail   : Nat
  cqHead   : Nat
  /-- Completions written and not released by a doorbell. -/
  unread   : Nat
  /-- Admissions left to the queue in this round (R55). -/
  credit   : Nat
  deriving DecidableEq, Repr

/-- A command's way through the device. -/
inductive JobPhase where
  /-- Admitted; runs when its beat and its context allow. -/
  | admitted
  /-- Running in several steps. -/
  | running
  /-- Its outcome is decided: status and result. -/
  | done (status result : Nat)
  deriving DecidableEq, Repr

/-- An admitted, uncompleted command. -/
structure Job where
  queue   : Nat
  cmdId   : Nat
  ctx     : Nat
  opcode  : Nat
  /-- The 512-bit submission entry (Table 3.2). -/
  entry   : Nat
  client  : Nat
  intr    : Bool
  /-- First beat in which it runs (R22). -/
  start   : Nat
  /-- Its completion goes nowhere: its queue was disabled by a new SESSION (R340). -/
  lost    : Bool := false
  genTag  : Nat
  /-- What admission pinned: an epoch, a version, a request or run number. -/
  pin     : Nat
  /-- Outstanding companion reads, and lines still to be read: (companion address, bytes). -/
  reads   : Nat := 0
  fetched : Bool := false
  /-- The lines that it learnt of from those have been asked for as well. -/
  more    : Bool := false
  toRead  : List (Nat × Nat) := []
  /-- Channel-window slots that the command waits for (R155). -/
  stalled : List (Nat × Nat) := []
  /-- Beat boundary at which a CANCEL ends it (R64). -/
  cancel  : Option Nat := none
  phase   : JobPhase := .admitted
  /-- Progress of a command that runs in several steps. -/
  work    : List Nat := []
  deriving DecidableEq, Repr

/-! ### Contexts (chapter 4) -/

/-- Context states (Table 4.2). -/
inductive CtxState where
  | free | idle | waiting | restoring | running | saving | faulted | tearingDown
  deriving DecidableEq, Repr

/-- A named buffer (Table 4.9). -/
structure Buffer where
  rows : Nat
  base : Nat
  dist : Nat
  deriving DecidableEq, Repr

/-- Tags of a channel-window slot (R155). -/
inductive SlotTag where
  | empty | writing | full | reading
  deriving DecidableEq, Repr

/-- A channel window (R154, Table 7.10). -/
structure Window where
  base     : Nat
  slotRows : Nat
  slots    : Nat
  timeout  : Nat
  initFull : Bool
  tags     : List SlotTag
  wait     : Nat := 0
  deriving DecidableEq, Repr

/-- What a CTX_SAVE waiting for its opportunity asks of the context (R92). -/
inductive SaveAsk where
  | none | copy (job : Nat) | checkpoint (job : Nat)
  deriving DecidableEq, Repr

/-- One entry of the context table (Table 4.1), with the context part of its state (R84). -/
structure Ctx where
  state      : CtxState := .free
  genTag     : Nat := 0
  /-- The context number has been allocated since the last chip cold reset (R76). -/
  used       : Bool := false
  client     : Nat := 0
  single     : Bool := false
  permit     : Bool := false
  partition  : Nat := 0
  slice      : Nat := 0
  watchdog   : Nat := 0
  sliceUsed  : Nat := 0
  waitBeats  : Nat := 0
  overruns   : Nat := 0
  lastStatus : Nat := 0
  saveBytes  : Nat := 0
  saveAddr   : Nat := 0
  quads      : List Nat := []
  genState   : Nat := 0
  formatState : Nat := 0
  buffers    : Tab Buffer := []
  groupMap   : Nat := 0
  /-- Channel windows by logical block × 16 + window. -/
  windows    : Tab Window := []
  /-- New SLICE_BEATS, WATCHDOG_BEATS and COUNTER_PERMIT that wait for a boundary: (beat, values) (R83). -/
  modify     : Option (Nat × Nat × Nat × Bool) := none
  /-- A buffer name that takes effect at the next boundary (R94). -/
  naming     : Tab Buffer := []
  /-- The format area of the region sequencer state (Table 6.10), 2,064 bytes. -/
  formatArea : Nat := 0
  /-- It has run, so its save area holds an image. -/
  hasImage   : Bool := false
  /-- A preemption is due at the next opportunity (R83, R87). -/
  preempt    : Bool := false
  /-- It is to be saved: it issues nothing and waits for its open units (R88). -/
  leaving    : Bool := false
  save       : SaveAsk := .none
  /-- Its next placement is deferred by one beat (R90). -/
  deferred   : Bool := false
  /-- Non-preemptible units still open since its preemption point (Table 4.8): Cuffs by number, then the Veil's fetches
  and the exchanges of searches across devices. -/
  openUnits  : List Nat := []
  /-- The watchdog's count has reached WATCHDOG_BEATS (R402). -/
  hung       : Bool := false
  /-- Watchdog count, and whether the current beat has seen a progress event (R402). -/
  dogCount   : Nat := 0
  progress   : Bool := false
  /-- It becomes FREE when the drain ends (CTX_FREE, FREE_ON_END). -/
  freeAfter  : Bool := false
  /-- The command that caused its teardown, and that command's own status (R91). -/
  blame      : Option (Nat × Nat) := none
  /-- The main model that built the held sequence, the token kept last with its position, and FREE_ON_END (R290, R300). -/
  kvModel    : Option Nat := none
  lastKept   : Option (Nat × Nat) := none
  freeOnEnd  : Bool := false
  cached     : Bool := false
  lastUse    : Nat := 0
  deriving DecidableEq, Repr

/-- A registered model of the Wardrobe (R95, R96). -/
structure Model where
  addr     : Nat
  size     : Nat
  resident : Bool := false
  lastUse  : Nat := 0
  loading  : Bool := false
  /-- A release waits for the instructions that read it; later commands no longer find it. -/
  releasing : Bool := false
  deriving DecidableEq, Repr

/-! ### Memory tiers (chapter 8) -/

/-- The home of a unit (R169). -/
inductive Home where
  | unbacked | hbm (region : Nat) | flash
  deriving DecidableEq, Repr

/-- Why a move runs. -/
inductive MoveCause where
  | policy (job : Nat) | demotion | promotion | tier
  deriving DecidableEq, Repr

/-- A move in flight (R176). -/
structure Move where
  dest  : Home
  cause : MoveCause
  /-- Longest stall of a writer so far, in ns, and whether one waits. -/
  stalled : Bool := false
  deriving DecidableEq, Repr

/-- What a unit is allocated for. -/
inductive UnitOwner where
  | object | saveArea (ctx : Nat) | staging | kv (ctx : Nat)
  deriving DecidableEq, Repr

/-- A backed unit of 2 MiB. -/
structure UnitInfo where
  home  : Home
  touch : Nat
  owner : UnitOwner
  move  : Option Move := none
  deriving DecidableEq, Repr

/-- A registered object (R172). The key of its table is its base. -/
structure Obj where
  size   : Nat
  policy : Nat
  region : Nat
  /-- A release is under way: later commands no longer find it (R173). -/
  released : Bool := false
  deriving DecidableEq, Repr

/-- A staged 4 KiB unit of the flash tier (R65): the order of its latest write and the bytes acknowledged for it. -/
structure Staged where
  order : Nat
  bytes : Nat
  deriving DecidableEq, Repr

/-- A flash channel (R187 to R193). -/
structure Channel where
  up        : Bool := false
  rate      : Nat := 0
  luns      : Nat := 0
  blocks    : Nat := 0
  stripes   : Nat := 0
  bad       : Nat := 0
  resetting : Bool := false
  deriving DecidableEq, Repr

/-- A block of a LUN: erase count, retirement, valid stripes, stripes programmed since its erase. -/
structure FlashBlock where
  erases  : Nat := 0
  retired : Bool := false
  erasing : Bool := false
  valid   : List Nat := []
  used    : Nat := 0
  deriving DecidableEq, Repr

/-- A stripe program in progress: the block it goes to, the latest staged write it carries, and its flush sequence. -/
structure Program where
  block : Nat
  order : Nat
  seq   : Nat
  deriving DecidableEq, Repr

/-- An HBM stack. -/
structure Stack where
  trained   : Bool := false
  selfRefresh : Bool := false
  resetting : Bool := false
  throttled : Bool := false
  doubled   : Bool := false
  temp      : Nat := 0
  deriving DecidableEq, Repr

/-- The memory tiers. -/
structure MemS where
  /-- Contents of device memory as its readers see it. -/
  dev : Mem := []
  /-- Contents of companion memory as the device has last read or written it. -/
  comp : Mem := []
  /-- Poisoned 128-byte lines (R184). -/
  poison : List Nat := []
  /-- Companion lines whose latest read was answered with DATA_ERR (R334). -/
  compBad : List Nat := []
  objects : Tab Obj := []
  units : Tab UnitInfo := []
  staged : Tab Staged := []
  /-- Order number of staged writes, and the flush sequence. -/
  order : Nat := 0
  flushSeq : Nat := 0
  /-- Contents, and object table, that the flash tier holds durably. -/
  durable : Mem := []
  durableObjs : Tab Obj := []
  formatted : Bool := false
  channels : Tab Channel := []
  blocks : Tab FlashBlock := []
  /-- Where each programmed stripe lies: stripe address to block key. -/
  places : Tab Nat := []
  programs : Tab Program := []
  hbmStacks : Tab Stack := []
  /-- Capacity that returns at step 2 of the next boundary: (region, units). -/
  freeing : List (Nat × Nat) := []
  deriving DecidableEq, Repr

/-! ### Links (chapters 16 and 17) -/

/-- States of a link (Table 16.2). -/
inductive LinkState where
  | down | detect | equalize | align | negotiate | active | retrain
  deriving DecidableEq, Repr

/-- One end of an Aedup or Pelgan link. -/
structure LinkEnd where
  state    : LinkState := .down
  width    : Nat := 0
  rate     : Nat := 0
  /-- Next SEQ to send, oldest SEQ not acknowledged, next SEQ expected. -/
  sendSeq  : Nat := 0
  ackSeq   : Nat := 0
  recvSeq  : Nat := 0
  /-- Replays of the oldest unacknowledged flit, and a NAK that has been sent. -/
  replays  : Nat := 0
  nakSent  : Bool := false
  /-- Credits held, in the order in which the capability names the channels. -/
  credits  : List Nat := []
  protect  : Bool := false
  linkGen  : Nat := 0
  peerSerial : Nat := 0
  version  : Nat := 0
  features : Nat := 0
  /-- Flits sealed in each direction since the session began (R440). -/
  sealedOut : Nat := 0
  sealedIn : Nat := 0
  deriving DecidableEq, Repr

/-- What waits for an Aedup read. -/
inductive ReadFor where
  | table (queue : Nat) | ring (queue : Nat) | job (id : Nat) | dict
  deriving DecidableEq, Repr

/-- An outstanding device read of a companion line. -/
structure AedupRead where
  line   : Nat
  shared : Bool
  for_   : ReadFor
  /-- Snooped while outstanding: the reply is not installed (R335). -/
  snooped : Bool := false
  retried : Bool := false
  /-- The context it was issued for, and that context's tag then (R400). -/
  ctx     : Nat := 0xFFFF
  genTag  : Nat := 0
  deriving DecidableEq, Repr

/-- A completion entry and its interrupt that wait for the link (R340). -/
structure HeldCompletion where
  addr   : Nat
  entry  : Nat
  vector : Option Nat
  deriving DecidableEq, Repr

/-- The Aedup link layer. -/
structure AedupS where
  link    : LinkEnd := {}
  session : Nat := 1
  peerSession : Nat := 0
  /-- Outstanding reads by tag. -/
  reads   : Tab AedupRead := []
  /-- Lines held in S, most recently used first. -/
  cache   : List Nat := []
  /-- Lines of queue tables and rings whose reply serves one waiting use. -/
  landed  : List Nat := []
  held    : List HeldCompletion := []
  /-- Posted writes in flits not yet acknowledged: SEQ of the flit, and the command that issued them. -/
  posted  : List (Nat × Nat) := []
  /-- Lanes left out by the long self-test. -/
  badLanes : List Nat := []
  deriving DecidableEq, Repr

/-! ### Errors (chapters 1 and 20) -/

/-- Units of the error log (Table 20.4). -/
inductive LogUnit where
  | cell | blockSequencer | pocket | cuff | flashChannel | hbm | belt | lace | veil | sampler | zipper | packer
  | regionSequencer | mesh | cloak | hem | bridge | aedup | pelgan | power | watchdog
  /-- A cause to which the table gives no unit: the code is an open value. -/
  | unstated (code : Nat)
  deriving DecidableEq, Repr

/-- Actions of the error log (Table 20.4). -/
inductive LogAction where
  | replay | quarantine | teardown | channelReset | stackReset | linkReset | regionReset | warmReset
  deriving DecidableEq, Repr

/-- One entry of the error log (Table 20.4). -/
structure LogEntry where
  beat     : Nat
  phase    : Nat
  status   : Nat
  ctx      : Nat
  genTag   : Nat
  unit     : LogUnit
  inst     : Nat
  action   : LogAction
  detail   : Nat
  seq      : Nat
  deriving DecidableEq, Repr

/-- What holds the alert output asserted. -/
inductive AlertCause where
  | beatLoss | powerFail | testMode
  deriving DecidableEq, Repr

/-! ### The Pelgan fabric (chapter 17) -/

/-- An abort that this device began and repeats (R356). -/
structure AbortRepeat where
  origin : Nat
  job    : Nat
  gen    : Nat
  cause  : Nat
  /-- Repeats still to send: one every 10 µs until 1 ms has passed. -/
  left   : Nat
  deriving DecidableEq, Repr

/-- A remote request that waits for its reply (R355). -/
structure RemoteReq where
  job    : Nat
  ctx    : Nat
  genTag : Nat
  dest   : Nat
  write  : Bool
  addr   : Nat
  length : Nat
  port   : Nat
  deriving DecidableEq, Repr

/-- A job entry that a JOB_SET has brought, and the beat whose boundary applies it (R353). -/
structure JobUpdate where
  due   : Nat
  job   : Nat
  entry : Nat
  deriving DecidableEq, Repr

/-- The fabric's state beside its entries. -/
structure PelganS where
  links    : Tab LinkEnd := []
  /-- GROUP_ID of each link's partner. -/
  peerGroup : Tab Nat := []
  /-- The best candidate heard: PRIORITY and SERIAL (R348). -/
  best     : Option (Nat × Nat) := none
  /-- SERIAL of a lost manager, left out of the next election (R351). -/
  excluded : Option Nat := none
  /-- Ports to the children in the breadth-first tree, and the port to the parent. -/
  children : List Nat := []
  parent   : Option Nat := none
  /-- Routes that wait for the next boundary: (destination, route, HOPS value) (R350). -/
  routesDue : List (Nat × Nat × Nat) := []
  jobsDue  : List JobUpdate := []
  repeats  : List AbortRepeat := []
  /-- Aborts already seen: (job, generation). -/
  seen     : List (Nat × Nat) := []
  requests : Tab RemoteReq := []
  nextTag  : Nat := 0
  /-- The devices that the manager knows of, itself first, as its cables count them: their SERIALs, and their device
  numbers, 0xFFFF for one that is not admitted. -/
  serials  : List Nat := []
  numbers  : List Nat := []
  /-- Lanes that the long self-test found to fail, as 2 × link + lane (R411). -/
  lanesOut : List Nat := []
  /-- The group as the manager knows it: its cables (device, port, device, port), and the largest link latency in ns. -/
  cables   : List (Nat × Nat × Nat × Nat) := []
  maxLatency : Nat := 0
  deriving DecidableEq, Repr

/-! ### Blocks (chapter 1) -/

/-- Block availability beside the map. -/
structure ChipS where
  /-- Blocks quarantined since the last boundary: fenced, their map bits still set (R16). -/
  fenced   : List Nat := []
  /-- Blocks whose return slice has passed, set in the map at the next boundary (R18). -/
  passed   : List Nat := []
  /-- Blocks whose return slice is queued, in order (R18). -/
  returns  : List Nat := []
  /-- Beat of the latest uncorrectable Pocket error of a block (R16). -/
  pocketErr : Tab Nat := []
  /-- Quads of ended teardowns and restores, free again at step 2 of the next boundary (R399). -/
  quadsDue : List Nat := []
  /-- Regions being reset or waking: they accept no work (R398, R387). -/
  closed   : List Nat := []
  /-- Regions whose reset has begun and not ended (R398). -/
  resetting : List Nat := []
  /-- Admission and every engine are stopped (R397, R418). -/
  stopped  : Bool := false
  deriving DecidableEq, Repr

/-! ### Security (chapter 23) -/

/-- A loaded key slot (R434): its KIND and its 512 key bits. -/
structure KeySlot where
  kind : Nat
  key  : Nat
  deriving DecidableEq, Repr

/-- Secrets: the loaded slots, session key material by link (96 is Aedup), the KCV that the tier stored at format, and
whether the root key of the wrapped keys is still held (R442). -/
structure SecS where
  slots    : Tab KeySlot := []
  sessions : Tab Nat := []
  tierKcv  : Option Nat := none
  rootKey  : Bool := true
  /-- Requests to the DRBG since its last seeding; none while its state is zeroed (R433). -/
  drbg     : Option Nat := none
  deriving DecidableEq, Repr

/-! ### The matrix array (chapters 5 and 6) -/

/-- Where a stream of a run stands. -/
inductive StreamMode where
  | running | barrier | ended
  deriving DecidableEq, Repr

/-- One instruction stream of a run. -/
structure Stream where
  /-- Address of its first instruction, and its COUNT. -/
  addr     : Nat
  count    : Nat
  pc       : Nat := 0
  mode     : StreamMode := .running
  /-- BARRIERs it has reached. -/
  barriers : Nat := 0
  /-- Accumulator rows that hold an accumulation not yet drained, one bit each. -/
  undrained : Nat := 0
  /-- Slots its next instruction waits for, and the claims it holds: its own, and those of a remote destination. -/
  stalled  : List (Nat × Nat) := []
  claimed  : Bool := false
  granted  : Bool := false
  deriving DecidableEq, Repr

/-- One execution of an array program (R130). -/
structure Run where
  ctx      : Nat
  model    : Option Nat
  seq      : Nat
  streams  : List Stream
  /-- The format entries as they stood when it started. -/
  scaleRule : Nat
  rounding : Nat
  shadow   : Nat
  fallback : Nat
  /-- FORMAT_STATE when it started (R141). -/
  rungs    : Nat
  /-- SUM and COUNT of each sampled layer (R135). -/
  sums     : Tab (Nat × Nat) := []
  retired  : Nat := 0
  /-- Every stream has ended; the command that owns the run takes its outcome. -/
  ended    : Bool := false
  deriving DecidableEq, Repr

/-- The runs by command, and the beat in which a context's latest run ended (R140). -/
structure ArrayS where
  runs    : Tab Run := []
  lastEnd : Tab Nat := []
  deriving DecidableEq, Repr

/-! ### Lace (chapter 9) -/

/-- A loaded vocabulary: the address of its image, the LACE_VOCAB_UNLOAD that closes it, and the calls that pinned it. -/
structure Vocab where
  addr    : Nat
  closing : Option Nat := none
  pins    : List Nat := []
  deriving DecidableEq, Repr

/-! ### Indexes and search (chapter 10) -/

/-- An extent: a run of whole stripes of the list area, from stripe `start` of the area, with records of one epoch. -/
structure Extent where
  epoch : Nat
  start : Nat
  count : Nat
  deriving DecidableEq, Repr

/-- A tombstone (R214). -/
structure Tomb where
  epoch  : Nat
  unborn : Bool
  deriving DecidableEq, Repr

/-- Passage states; a FREE passage is not listed (R214). -/
inductive PassageState where
  | pending | live | deleted
  deriving DecidableEq, Repr

/-- An open index: its 1,024-bit descriptor (Table 10.2), and what its state area holds. -/
structure Index where
  desc     : Nat
  current  : Nat := 0
  passages : Tab PassageState := []
  tombs    : Tab Tomb := []
  /-- Extents of each list, oldest first. -/
  extents  : Tab (List Extent) := []
  /-- Old extents that scans which started on them may still read, with those commands (R218). -/
  retired  : List (Extent × List Nat) := []
  /-- Offset in the text area, and bytes, of each passage record. -/
  texts    : Tab (Nat × Nat) := []
  /-- Passages whose vector record has been written. -/
  vectors  : List Nat := []
  /-- A write or DELETE has reached the pending epoch. -/
  touched  : Bool := false
  /-- Epochs pinned, by command (R215). -/
  pins     : Tab Nat := []
  /-- The INDEX_DROP that closes it to later commands. -/
  dropping : Option Nat := none
  /-- The compaction round: the next list, and the oldest retained epoch when the round began (R218). -/
  cursor   : Nat := 0
  roundEpoch : Nat := 0
  deriving DecidableEq, Repr

/-- A segment: stripes of one extent that lie on one channel, in address order (R223). -/
structure Segment where
  list    : Nat
  extent  : Extent
  stripes : List Nat
  deriving DecidableEq, Repr

/-- An entry of a scan or a merge: h, the passage, and whether duplicates of it carried another h. -/
structure Hit where
  h        : Nat
  passage  : Nat
  conflict : Bool := false
  deriving DecidableEq, Repr

/-- A pass of a segment that overflowed, with the floor it had (R225). -/
structure Overflow where
  segment : Segment
  floor   : Hit
  deriving DecidableEq, Repr

/-- A hit with its exact score, or none where the score is NaN, as a ZIP_LIST carries it. -/
structure SpanHit where
  hit   : Hit
  score : Option Nat
  deriving DecidableEq, Repr

/-- What an issuing device holds of a search across devices (R230, R357): the group's job and its generation, the search's
tag, the children's lists still to come, what has come, and a member's failure. -/
structure SpanRole where
  job     : Nat
  gen     : Nat
  tag     : Nat
  left    : Nat := 0
  hits    : List SpanHit := []
  failed  : Option Nat := none
  deriving DecidableEq, Repr

/-- A running SEARCH, by command. -/
structure Query where
  index  : Nat
  epoch  : Nat
  /-- The query's BF16 values and its sketch. -/
  values : List Nat
  sketch : Nat
  /-- Its lists in rank order, and how many of them have been taken. -/
  lists  : List Nat
  taken  : Nat := 0
  /-- Segments that wait for a Cuff, oldest first. -/
  items  : List Segment := []
  overs  : List Overflow := []
  merged : List Hit := []
  scanned : Nat := 0
  passed : Nat := 0
  rounds : Nat := 0
  repairs : Nat := 0
  conflict : Bool := false
  /-- The list in which it met an error, and the status. -/
  failed : Option (Nat × Nat) := none
  /-- Across devices: the group's job, the issuing device, its tag; the children still to answer; the phase. -/
  span   : Option SpanRole := none
  deriving DecidableEq, Repr

/-- A worker's share of a search across devices: what its own share and its children gave. -/
structure SpanShare where
  job     : Nat
  gen     : Nat
  issuer  : Nat
  tag     : Nat
  /-- The share has been computed, and children whose last pass has come. -/
  started : Bool := false
  done    : Nat := 0
  kScan   : Nat := 0
  hits    : List SpanHit := []
  status  : Nat := 0
  deriving DecidableEq, Repr

/-! ### The Belt (chapter 12) -/

/-- A Belt table: its live versions with their descriptors (Table 12.1), the current one, the gathers that pinned a
version, and the BELT_TABLE_DROP that closes it. -/
structure BeltTable where
  versions : Tab Nat := []
  current  : Option Nat := none
  pins     : Tab Nat := []
  dropping : Option Nat := none
  deriving DecidableEq, Repr

/-- A row in a hot-row cache: its table, version and number, and its bytes. -/
structure HotRow where
  table   : Nat
  version : Nat
  row     : Nat
  bytes   : Nat
  deriving DecidableEq, Repr

/-- The Belts: the tables, and each region's hot-row cache, most recently used first. -/
structure BeltS where
  tables : Tab BeltTable := []
  hot    : Tab (List HotRow) := []
  deriving DecidableEq, Repr

/-! ### Generation, the sampler and the Veil (chapters 14 and 15) -/

/-- What a page of a context's KV units holds (R287). -/
inductive KvUse where
  | directory
  | table (index : Nat)
  /-- A KV page: the index of its page entry, and the first position behind which none of its positions lies. -/
  | data (entry first : Nat)
  deriving DecidableEq, Repr

/-- A page held by a context: for which of its two models, for what, and whether it was cut off from its table and waits
for the next boundary. -/
structure KvPage where
  ctx   : Nat
  draft : Bool
  use   : KvUse
  gone  : Bool := false
  deriving DecidableEq, Repr

/-- A token's distribution after the sampler's steps: the kept tokens in rising order with their FP32 weights. -/
abbrev Dist := List (Nat × Nat)

/-- A run of a generation model (R289): model, first position, positions, LOGIT_FROM; and for each KV block the half-pages
delivered and the slots taken. -/
structure GenRun where
  draft : Bool
  start : Nat
  count : Nat
  logitFrom : Option Nat
  ins   : List Nat
  outs  : List Nat
  deriving DecidableEq, Repr

/-- Where a generation request stands. -/
inductive GenStage where
  /-- It waits for its mailbox. -/
  | waiting
  /-- The prompt runs through a model; positions done. -/
  | prefill (draft : Bool) (done : Nat)
  | drafting
  | verify
  /-- Logits are ready, or the state before the step is dead. -/
  | ready
  /-- The step's tokens are decided and wait for TOKEN_COMMIT. -/
  | sampled
  /-- The request has ended and its last output is written. -/
  | ended
  deriving DecidableEq, Repr

/-- A generation request, by command. -/
structure GenReq where
  ctx      : Nat
  /-- The request descriptor (Table 14.5), the sampling block (Table 15.1) and the interface descriptors (Table 14.3). -/
  desc     : Nat
  block    : Nat
  main     : Nat
  draftIf  : Nat
  stops    : List (List Nat)
  /-- The prompt, and the position of its first token. -/
  prompt   : List Nat
  first    : Nat
  stage    : GenStage
  run      : Option GenRun := none
  /-- Tokens kept, steps committed; the next step is number `steps`. -/
  kept     : List Nat := []
  steps    : Nat := 0
  /-- Positions processed by the draft model. -/
  draftPos : Nat := 0
  /-- The draft of the step: its limit, its tokens, and their distributions. -/
  limit    : Nat := 0
  drafts   : List Nat := []
  dists    : List Dist := []
  /-- FP32 logits in hand, by position. -/
  logits   : List (List Nat) := []
  /-- Veil states whose masks are in the sampler's buffer; the beat whose MASK_READY found them all there. -/
  masks    : List Nat := []
  maskBeat : Option Nat := none
  /-- The first beat in which the step can take its SAMPLE. -/
  due      : Nat := 0
  /-- The step's tokens, and how many drafts it accepted. -/
  emitted  : List Nat := []
  accepted : Nat := 0
  /-- Totals for the header. -/
  text     : Nat := 0
  draftedAll  : Nat := 0
  acceptedAll : Nat := 0
  stopIndex : Nat := 0xFF
  /-- END_REASON and status, once the request has ended. -/
  outcome  : Option (Nat × Nat) := none
  /-- Output writes still to be performed, in order. -/
  outbox   : List (Nat × List Nat) := []
  deriving DecidableEq, Repr

/-- A loaded grammar: the address of its image, the VEIL_UNLOAD that closes it, the requests that pinned it. -/
structure Grammar where
  addr    : Nat
  closing : Option Nat := none
  pins    : List Nat := []
  deriving DecidableEq, Repr


/-! ### Power, clocks and the Collar (chapter 19) -/

/-- A block's array beside IDLE, which is where a block not listed is: it ramps after its admission, is awake, or has asked
for IDLE (R114, R115). -/
inductive BlockPower where
  | ramping | awake | asking
  deriving DecidableEq, Repr

/-- A power state being entered (Table 19.5): regions by bitmap. -/
inductive PowerEntry where
  | idle | deepSleep | regions (mask : Nat)
  deriving DecidableEq, Repr

/-- Power, clocks and start-up beside the entries. -/
structure PowerS where
  /-- The power state held outside a transition: 0 ACTIVE, 1 IDLE, 2 DEEP_SLEEP. -/
  level    : Nat := 0
  blocks   : Tab BlockPower := []
  /-- Levels of the rise and the fall bucket in mA: a token is COLLAR.BLOCK_STEP (R385). -/
  rise     : Nat := 0
  fall     : Nat := 0
  /-- Current admitted for region stages, in mA by region. -/
  stageMa  : Tab Nat := []
  /-- Regions that wake, in order, and the stages done of the first (R387). -/
  waking   : List Nat := []
  stage    : Nat := 0
  /-- The ACLK that a change in progress leads to (R389). -/
  aclkNext : Option Nat := none
  /-- The die has reached POWER.TJ_THROTTLE_C and has not been 2 °C below it since. -/
  hot      : Bool := false
  entering : Option PowerEntry := none
  /-- A doorbell (false) or a request for ACTIVE (true) has come during the entry (R71). -/
  leave    : Option Bool := none
  /-- The ACLK before a power failure lowered it (R390). -/
  aclkSaved : Option Nat := none
  /-- The EEPROM is being read (R392). -/
  reading  : Bool := false
  deriving DecidableEq, Repr

/-! ### Self-test (chapter 21) -/

/-- A slice on a block (R413): the part that runs, whether it decides a return, and whether it was abandoned. -/
structure Slice where
  part      : Nat
  isReturn  : Bool
  abandoned : Bool := false
  deriving DecidableEq, Repr

/-- TAP instructions that are answered at any time (R417). -/
inductive TapInstr where
  | bypass | idcode | samplePreload
  deriving DecidableEq, Repr

/-- Self-test and the TAP. -/
structure TestS where
  /-- The long test of IDENTIFY runs (R411). -/
  longRun  : Bool := false
  /-- Next block of each region's cursor, as an offset in the region (R414). -/
  cursor   : Tab Nat := []
  /-- Blocks first in line after a skip or a deferral (R415, R416). -/
  first    : List Nat := []
  slices   : Tab Slice := []
  /-- Step of the shut-down test (R410), and the clean record that its step 5 writes. -/
  shutdown : Nat := 0
  record   : Nat := 0
  tap      : TapInstr := .idcode
  deriving DecidableEq, Repr

/-! ### Performance counters (chapter 22) -/

/-- Counters, their shadows and the sample buffers. -/
structure PerfS where
  /-- Counts by block × 8 + counter, region × 32 + counter, and counter. -/
  block  : Tab Nat := []
  region : Tab Nat := []
  chip   : Tab Nat := []
  blockShadow  : Tab Nat := []
  regionShadow : Tab Nat := []
  chipShadow   : Tab Nat := []
  /-- Sample records by buffer × 1,024 + slot, and the buffers whose fill has reached 768 since their last release. -/
  samples : Tab Nat := []
  filled  : List Nat := []
  /-- Chip counters whose skid sample has still to be captured (R430). -/
  skid    : List Nat := []
  /-- Export writes that wait for a unit being moved: address and bytes. -/
  exports : List (Nat × List Nat) := []
  /-- The context whose command is being served (R422). -/
  actor   : Option Nat := none
  /-- Message flits sent on Aedup and on Pelgan and not yet counted. -/
  sentAedup : Nat := 0
  sentPelgan : Nat := 0
  deriving DecidableEq, Repr

/-! ### What the block sends -/

/-- What the device drives on its outputs, each with the numbers that the rule of its kind gives it. -/
inductive Out where
  /-- A posted write to companion memory: address and bytes (R337). -/
  | aedupWrite (addr length : Nat)
  /-- A device read of a companion line (Table 16.7): tag, line, shared. -/
  | aedupRead (tag line : Nat) (shared : Bool)
  | aedupIntr (vector : Nat)
  /-- A reply of a block's mesh port: block, status, value (R153). -/
  | meshReply (block status value : Nat)
  | snpRspI (line : Nat)
  | mmioData (tag value : Nat)
  /-- A capability flit on a link (R332). -/
  | capability (link : LinkId) (value : Nat)
  | nak (link : LinkId) (seq : Nat)
  | replay (link : LinkId) (fromSeq : Nat)
  /-- A beat flit (R35): link, beat number, period, time remaining in ps. -/
  | beatFlit (port beat period remaining : Nat)
  /-- A Pelgan message: port, opcode, destination, tag and value (Table 17.4). -/
  | message (port opcode dest tag value : Nat)
  /-- An abort flit (R356): port, origin, job, generation, cause. -/
  | abort (port origin job gen cause : Nat)
  /-- A reply datagram (Table 18.8): source answered, header and data. -/
  | mgmtReply (dest header data : Nat)
  /-- A NOTIFY datagram (R372): sequence, key, event bit, beat, detail. -/
  | notify (seq key event beat detail : Nat)
  | neighbourAdvert (dest : Nat)
  /-- A TAP register shifted out: its length and value (R417). -/
  | tap (length value : Nat)
  deriving DecidableEq, Repr

/-! ### The whole machine -/

/-- Start-up states (Table 19.7). -/
inductive StartState where
  | off | powerGood | identify | train | configure | ready
  deriving DecidableEq, Repr

/-- The configuration EEPROM (R392, R412). -/
structure Eeprom where
  serial    : Nat := 0
  mac       : Nat := 0
  blockStep : Nat := 1000
  blockMap  : Nat := 2 ^ 1200 - 1
  quarantines : Nat := 0
  pubkey    : Nat := 0
  cert      : Nat := 0
  /-- The EEPROM-kept entries that have been written, by key (R367). -/
  kept      : Tab Nat := []
  /-- The clean record (Table 21.2), 256 bytes. -/
  record    : Nat := 0
  /-- The INTERNAL tier key, held wrapped (R437), once a format has drawn one. -/
  tierKey   : Option Nat := none
  /-- The wrapped private key of the identity key pair, and the IVR, PLL, sensor and PHY trims (R392, R441). -/
  identity  : Nat := 0
  trims     : Nat := 0
  deriving DecidableEq, Repr

/-- The state of the block. -/
structure State where
  /-- Commands that wait, first in, first out. -/
  pending : List Instr
  start   : StartState := .off
  /-- The fatal-error output. -/
  fatal   : Bool := false
  /-- What holds the alert output asserted; it is released when nothing does. -/
  alerts  : List AlertCause := []
  /-- Base values of the dictionary entries, by key; an entry that is not listed has its default. -/
  regs    : Tab Nat := []
  eeprom  : Eeprom := {}
  dict    : DictS := {}
  hem     : HemS := {}
  queues  : Tab Queue := []
  /-- Admitted, uncompleted commands by admission number, and the next admission number. -/
  jobs    : Tab Job := []
  jobNext : Nat := 0
  ctxs    : Tab Ctx := []
  models  : Tab Model := []
  vocabs  : Tab Vocab := []
  indexes : Tab Index := []
  /-- Durable copies of index states, by base of the list area (R220). -/
  copies  : Tab Index := []
  queries : Tab Query := []
  /-- Shares of searches of other devices, by issuer × 65,536 + tag. -/
  spans   : Tab SpanShare := []
  belt    : BeltS := {}
  /-- Held KV, directory and table pages, by page number (64 KiB). -/
  kv      : Tab KvPage := []
  gens    : Tab GenReq := []
  grammars : Tab Grammar := []
  /-- Pocket bytes: address block × 4 MiB + byte. -/
  pocket  : Mem := []
  /-- Accumulator words: block × 65,536 + row × 128 + column. -/
  acc     : Tab Nat := []
  array   : ArrayS := {}
  mem     : MemS := {}
  aedup   : AedupS := {}
  pelgan  : PelganS := {}
  chip    : ChipS := {}
  sec     : SecS := {}
  power   : PowerS := {}
  test    : TestS := {}
  perf    : PerfS := {}
  log     : List LogEntry := []
  out     : List Out := []
  /-- Count of open values taken so far (the model's own). -/
  freeCount : Nat := 0
  deriving DecidableEq, Repr

/-- The machine before power: the EEPROM as the package leaves the factory, every entry at its default. -/
def State.reset : State := { pending := [] }

end Sys2Proof.Machine
end

