-- ==== Sys2Proof/Machine/Entries.lean ====
section
/-! DEFINITION. The object dictionary of chapter 18 as data: one row per entry (or per run of array elements) with its
type, size, access right, default, merge rule (Table 18.10) and EEPROM mark, from the entry tables of every chapter,
in ascending index, then ascending sub-index (R367).  Sizes of DOMAIN entries are those of their chapters. -/

namespace Sys2Proof.Machine

/-- The row of an entry that has one key. -/
def row1 (index sub : Nat) (ty : EntryType) (size : Nat) (acc : Access) (dflt : Nat) : EntryRow :=
  ⟨index, sub, sub, ty, size, acc, dflt, .none, false⟩

/-- The row of an array over consecutive sub-indices. -/
def rowN (index lo hi : Nat) (ty : EntryType) (size : Nat) (acc : Access) (dflt : Nat) : EntryRow :=
  ⟨index, lo, hi, ty, size, acc, dflt, .none, false⟩

/-- The row of an overlayable entry (Table 18.10). -/
def rowM (index sub : Nat) (ty : EntryType) (size : Nat) (acc : Access) (dflt : Nat) (m : Merge) : EntryRow :=
  ⟨index, sub, sub, ty, size, acc, dflt, m, false⟩

/-- The row of an entry kept in, or taken from, the configuration EEPROM (R367). -/
def rowE (index sub : Nat) (ty : EntryType) (size : Nat) (acc : Access) (dflt : Nat) : EntryRow :=
  ⟨index, sub, sub, ty, size, acc, dflt, .none, true⟩

/-- Part 0 of the entry table. -/
def entryRows0 : List EntryRow :=
  [ row1 0x1000 1 .str 13 .ro 0x736d6574737953206175716946,  -- ID.VENDOR
    row1 0x1000 2 .str 8 .ro 0x303031342d4b584c,  -- ID.PART
    row1 0x1000 3 .str 2 .ro 0x3041,  -- ID.STEPPING
    row1 0x1000 4 .u8 1 .ro 1,  -- ID.ARCH_GEN
    rowE 0x1000 5 .u64 8 .ro 0,  -- ID.SERIAL
    row1 0x1000 6 .u8 1 .ro 1,  -- ID.DICT_VERSION
    row1 0x1001 0 .domain 16104 .ro 0,  -- DICT.DIRECTORY
    row1 0x1001 1 .u32 4 .ro 2013,  -- DICT.ENTRIES
    row1 0x1010 1 .u8 1 .ro 4,  -- CHIP.REGIONS
    row1 0x1010 2 .u8 1 .ro 20,  -- CHIP.MESH_COLUMNS
    row1 0x1010 3 .u8 1 .ro 15,  -- CHIP.MESH_ROWS
    row1 0x1010 4 .u16 2 .ro 300,  -- CHIP.BLOCKS_PER_REGION
    row1 0x1010 5 .u16 2 .ro 256,  -- CHIP.CELLS_PER_BLOCK
    row1 0x1010 6 .u16 2 .ro 64,  -- CHIP.LANES_PER_CELL
    row1 0x1010 7 .u8 1 .ro 4,  -- CHIP.BLOCKS_PER_QUAD
    row1 0x1011 1 .u64 8 .ro 0x3e95ba80,  -- ARRAY.ACLK
    row1 0x1011 2 .u64 8 .ro 0x53724e00,  -- ARRAY.BCLK
    row1 0x1011 3 .u32 4 .ro 0x800080,  -- ARRAY.SHAPE_FOUR
    row1 0x1011 4 .u32 4 .ro 0x800040,  -- ARRAY.SHAPE_EIGHT
    row1 0x1011 5 .u32 4 .ro 0x800100,  -- ARRAY.SHAPE_TWO
    row1 0x1011 6 .u32 4 .ro 0x400040,  -- ARRAY.SHAPE_BF16
    row1 0x1011 7 .u16 2 .ro 512,  -- ARRAY.ACC_ROWS
    row1 0x1011 8 .u16 2 .ro 4096,  -- ARRAY.MAX_ROWS
    row1 0x1011 9 .u16 2 .ro 40,  -- ARRAY.LATENCY
    row1 0x1011 10 .u32 4 .ro 0x3fff,  -- ARRAY.FORMATS
    row1 0x1012 1 .u32 4 .ro 0x400000,  -- POCKET.SIZE
    row1 0x1012 2 .u32 4 .ro 0x4000,  -- POCKET.ROWS
    row1 0x1012 3 .u16 2 .ro 256,  -- POCKET.ROW_BYTES
    row1 0x1012 4 .u16 2 .ro 64,  -- POCKET.BANKS
    row1 0x1012 5 .u8 1 .ro 16,  -- POCKET.GROUPS
    row1 0x1012 6 .u16 2 .ro 1024,  -- POCKET.GROUP_ROWS
    row1 0x1012 7 .u8 1 .ro 16,  -- POCKET.WINDOWS
    row1 0x1012 8 .u8 1 .ro 64,  -- POCKET.MAX_SLOTS
    row1 0x1013 1 .u64 8 .ro 0x9000000000,  -- MEM.HBM_BYTES
    row1 0x1013 2 .u8 1 .ro 12,  -- MEM.HBM_STACKS
    row1 0x1013 3 .u8 1 .ro 64,  -- MEM.FLASH_CHANNELS
    row1 0x1013 4 .u32 4 .ro 0x200000,  -- MEM.UNIT_BYTES
    row1 0x1013 5 .u32 4 .ro 0x10000,  -- MEM.STRIPE_BYTES
    row1 0x1013 6 .u64 8 .ro 0xff0000000000,  -- MEM.OBJECT_SPACE
    row1 0x1013 7 .u32 4 .ro 0x10000 ]  -- MEM.MAX_OBJECTS

/-- Part 1 of the entry table. -/
def entryRows1 : List EntryRow :=
  [ row1 0x1014 1 .u8 1 .ro 15,  -- SEARCH.SKETCH_LENGTHS
    row1 0x1014 2 .u16 2 .ro 4096,  -- SEARCH.MAX_DIMS
    row1 0x1014 3 .u16 2 .ro 4096,  -- SEARCH.MAX_K
    row1 0x1014 4 .u8 1 .ro 64,  -- SEARCH.CUFF_TOPK
    row1 0x1014 5 .u8 1 .ro 64,  -- SEARCH.QUERIES_PER_PASS
    row1 0x1014 6 .u16 2 .ro 4096,  -- SEARCH.CUFF_OUTSTANDING
    row1 0x1014 7 .u32 4 .ro 0x80000,  -- SEARCH.IN_FLIGHT
    row1 0x1014 8 .u16 2 .ro 256,  -- SEARCH.MAX_INDEXES
    row1 0x1014 9 .u32 4 .ro 0x400000,  -- SEARCH.MAX_LISTS
    row1 0x1014 10 .u32 4 .ro 0x10000,  -- SEARCH.MAX_PROBES
    row1 0x1015 1 .u8 1 .ro 64,  -- SELECT.UNIT_K
    row1 0x1015 2 .u16 2 .ro 4096,  -- SELECT.MAX_K
    row1 0x1015 3 .u8 1 .ro 64,  -- SELECT.RATE
    row1 0x1015 4 .u16 2 .ro 1024,  -- ZIPPER.SOURCES_PER_REGION
    row1 0x1015 5 .u16 2 .ro 4096,  -- ZIPPER.MAX_SOURCES
    row1 0x1015 6 .u8 1 .ro 8,  -- ZIPPER.RATE
    row1 0x1016 1 .u16 2 .ro 1024,  -- BELT.MAX_TABLES
    row1 0x1016 2 .u8 1 .ro 8,  -- BELT.MAX_VERSIONS
    row1 0x1016 3 .u16 2 .ro 4096,  -- BELT.MAX_DIM
    row1 0x1016 4 .u16 2 .ro 4096,  -- BELT.WINDOW
    row1 0x1016 5 .u32 4 .ro 0x10000,  -- BELT.OUTSTANDING
    row1 0x1016 6 .u32 4 .ro 0x1000000,  -- BELT.HOT_CACHE_BYTES
    row1 0x1016 7 .u32 4 .ro 0x10000000,  -- BELT.MAX_COUNT
    row1 0x1016 8 .u32 4 .ro 0x1000000,  -- BELT.MAX_BAGS
    row1 0x1016 9 .u8 1 .ro 16,  -- BELT.CONCURRENT
    row1 0x1017 1 .u32 4 .ro 0x100000,  -- PACK.MAX_BUDGET
    row1 0x1017 2 .u8 1 .ro 64,  -- PACK.MAX_SEGMENTS
    row1 0x1017 3 .u16 2 .ro 256,  -- PACK.SKETCH_BITS
    row1 0x1017 4 .u32 4 .ro 0xffff0002,  -- PACK.SKETCH_STREAM
    row1 0x1017 5 .u16 2 .ro 8192,  -- XRANK.MAX_SEQ_LEN
    row1 0x1017 6 .u8 1 .ro 64,  -- XRANK.MAX_BATCH
    row1 0x1018 1 .u32 4 .ro 0x10000,  -- GEN.PAGE_BYTES
    row1 0x1018 2 .u8 1 .ro 16,  -- GEN.MAX_DRAFT
    row1 0x1018 3 .u8 1 .ro 16,  -- GEN.MAX_STOPS
    row1 0x1018 4 .u8 1 .ro 64,  -- GEN.MAX_STOP_BYTES
    row1 0x1018 5 .u32 4 .ro 0x40000,  -- GEN.MAX_POSITIONS
    row1 0x1018 6 .u16 2 .ro 256,  -- GEN.MAX_LAYERS
    row1 0x1018 7 .u32 4 .ro 0xffff0003,  -- GEN.ACCEPT_STREAM
    row1 0x1019 1 .u16 2 .ro 1024,  -- SAMPLER.MAX_TOP_K
    row1 0x1019 2 .u16 2 .ro 4096 ]  -- SAMPLER.MAX_WINDOW

/-- Part 2 of the entry table. -/
def entryRows2 : List EntryRow :=
  [ row1 0x1019 3 .u8 1 .ro 10,  -- GENR.ROUNDS
    row1 0x1019 4 .u32 4 .ro 0xffff0000,  -- GENR.USER_STREAMS
    row1 0x1019 5 .u16 2 .ro 64,  -- VEIL.MAX_GRAMMARS
    row1 0x1019 6 .u32 4 .ro 0x1000000,  -- VEIL.MAX_STATES
    row1 0x1019 7 .u32 4 .ro 0x800000,  -- VEIL.MASK_CACHE
    row1 0x101A 1 .u32 4 .ro 2800,  -- POWER.PACKAGE_MAX_W
    row1 0x101A 2 .u32 4 .ro 2400,  -- POWER.TDP_W
    row1 0x101A 3 .u32 4 .ro 1350,  -- POWER.VIN_MAX_A
    row1 0x101A 4 .u8 1 .ro 64,  -- POWER.ZONES
    rowE 0x101A 5 .u32 4 .ro 0,  -- COLLAR.BLOCK_STEP_MA
    row1 0x101A 6 .u8 1 .ro 8,  -- COLLAR.REGION_STAGES
    row1 0x101A 7 .u32 4 .ro 0x5f5e100,  -- CLOCK.REFCLK_HZ
    row1 0x101B 1 .u32 4 .ro 0x19a28,  -- TEST.SLICE_ACLK_CYCLES
    row1 0x101B 2 .u32 4 .ro 2400,  -- TEST.LONG_MS
    row1 0x101C 1 .u8 1 .ro 8,  -- PERF.BLOCK_COUNTERS
    row1 0x101C 2 .u8 1 .ro 32,  -- PERF.REGION_COUNTERS
    row1 0x101C 3 .u8 1 .ro 128,  -- PERF.CHIP_COUNTERS
    row1 0x101C 4 .u16 2 .ro 1024,  -- PERF.SAMPLE_SLOTS
    row1 0x101D 1 .u8 1 .ro 64,  -- SEC.KEY_SLOTS
    rowE 0x101D 2 .domain 97 .ro 0,  -- SEC.IDENTITY_PUBKEY
    rowE 0x101D 3 .domain 4096 .ro 0,  -- SEC.IDENTITY_CERT
    row1 0x1100 1 .u8 1 .ro 0,  -- DEV.START_STATE
    row1 0x1100 2 .u64 8 .ro 0,  -- DICT.REQUESTS
    row1 0x1100 3 .u32 4 .ro 0,  -- DICT.REFUSED
    rowE 0x1120 0 .domain 150 .ro (2^1200 - 1),  -- CHIP.BLOCK_MAP
    row1 0x1120 1 .u16 2 .ro 1200,  -- CHIP.BLOCKS_AVAILABLE
    row1 0x1120 2 .u16 2 .ro 300,  -- CHIP.QUADS_AVAILABLE
    rowE 0x1120 3 .u32 4 .ro 0,  -- CHIP.QUARANTINE_EVENTS
    row1 0x1120 4 .u16 2 .ro 0,  -- CHIP.RETURNS_PENDING
    row1 0x1120 5 .u32 4 .ro 0,  -- CHIP.RETURNS_DROPPED
    row1 0x1130 1 .u64 8 .ro 0,  -- HEM.BEAT_NUMBER
    row1 0x1130 2 .u8 1 .ro 0,  -- HEM.STATE
    row1 0x1130 3 .u8 1 .ro 0,  -- HEM.HOLDOVER_BEATS
    row1 0x1130 4 .i32 4 .ro 0,  -- HEM.ALIGN_ERROR
    row1 0x1130 5 .u32 4 .ro 0,  -- HEM.BEAT_IN_REJECTS
    row1 0x1130 6 .u32 4 .ro 0,  -- HEM.PLAN_SEAL_MISSES
    row1 0x1130 7 .u32 4 .ro 0,  -- HEM.SAMPLE_MISSES
    row1 0x1130 8 .u32 4 .ro 0,  -- HEM.BEAT_LOSS_EVENTS
    row1 0x1140 0 .domain 256 .ro 0,  -- QUEUE.STATE_MAP
    row1 0x1140 1 .u16 2 .ro 0 ]  -- QUEUE.CACHED

/-- Part 3 of the entry table. -/
def entryRows3 : List EntryRow :=
  [ row1 0x1140 2 .u32 4 .ro 0,  -- QUEUE.FETCHES
    row1 0x1140 3 .u32 4 .ro 0,  -- QUEUE.SLOTS_IN_USE
    row1 0x1140 4 .u32 4 .ro 0,  -- QUEUE.DOORBELL_ERRORS
    row1 0x1141 1 .u64 8 .ro 0,  -- STORE.UNFLUSHED_BYTES
    row1 0x1141 2 .u64 8 .ro 0,  -- STORE.STAGED_BYTES
    rowN 0x1150 0 255 .u64 8 .ro 0,  -- CLIENT.SUBMITTED[0]–[255]
    rowN 0x1151 0 255 .u64 8 .ro 0,  -- CLIENT.COMPLETED[0]–[255]
    rowN 0x1152 0 255 .u64 8 .ro 0,  -- CLIENT.FAULTED[0]–[255]
    rowN 0x1153 0 255 .u64 8 .ro 0,  -- CLIENT.CANCELLED[0]–[255]
    row1 0x1154 1 .u16 2 .ro 0,  -- CTX.ALLOCATED
    row1 0x1154 2 .u16 2 .ro 0,  -- CTX.RUNNING
    row1 0x1154 3 .u16 2 .ro 0,  -- CTX.CACHED
    row1 0x1154 4 .u64 8 .ro 0,  -- CTX.PREEMPTIONS
    row1 0x1154 5 .u32 4 .ro 0,  -- CTX.OVERRUNS
    row1 0x1154 6 .u32 4 .ro 0,  -- CTX.HUNG
    row1 0x1154 7 .u16 2 .ro 0,  -- CTX.UNPLACEABLE
    row1 0x1155 1 .u8 1 .ro 0,  -- WARDROBE.RESIDENT
    row1 0x1155 2 .u64 8 .ro 0,  -- WARDROBE.MISSES
    row1 0x1155 3 .u64 8 .ro 0,  -- WARDROBE.EVICTIONS
    row1 0x1160 1 .u64 8 .ro 0,  -- ARRAY.INSTRUCTIONS
    row1 0x1160 2 .u64 8 .ro 0,  -- ARRAY.REPLAYS
    row1 0x1160 3 .u64 8 .ro 0,  -- ARRAY.BUBBLE_CYCLES
    row1 0x1160 4 .u64 8 .ro 0,  -- ARRAY.DUMMY_CYCLES
    row1 0x1160 5 .u32 4 .ro 0,  -- ARRAY.PROGRAM_ERRORS
    rowN 0x1170 1 4 .u64 8 .ro 0,  -- FORMAT.SATURATIONS[0]–[3]
    rowN 0x1170 5 8 .u64 8 .ro 0,  -- FORMAT.UNDERFLOWS[0]–[3]
    row1 0x1170 9 .u64 8 .ro 0,  -- FORMAT.INVALID_CODES
    row1 0x1170 10 .u64 8 .ro 0,  -- FORMAT.SHADOW_SAMPLES
    row1 0x1170 11 .u64 8 .ro 0,  -- FORMAT.SHADOW_DISCARDS
    row1 0x1170 12 .u32 4 .ro 0,  -- FORMAT.FALLBACK_RAISES
    row1 0x1170 13 .u32 4 .ro 0,  -- FORMAT.FALLBACK_EXHAUSTED
    row1 0x1170 14 .u64 8 .ro 0,  -- FORMAT.PATCH_IGNORED
    row1 0x1171 0 .domain 19200 .ro 0,  -- FORMAT.BLOCK_SAT
    row1 0x1171 1 .domain 19200 .ro 0,  -- FORMAT.BLOCK_UNDER
    rowN 0x1180 1 4 .u64 8 .ro 0,  -- POCKET.STRAYS[0]–[3]
    rowN 0x1180 5 8 .u64 8 .ro 0,  -- POCKET.CONFLICT_CYCLES[0]–[3]
    row1 0x1180 9 .u64 8 .ro 0,  -- POCKET.UNSYNC_ACCESSES
    row1 0x1180 10 .u64 8 .ro 0,  -- POCKET.WINDOW_STALL_CYCLES
    row1 0x1180 11 .u32 4 .ro 0,  -- POCKET.WINDOW_TIMEOUTS
    row1 0x1180 12 .u64 8 .ro 0 ]  -- POCKET.LAST_TIMEOUT

/-- Part 4 of the entry table. -/
def entryRows4 : List EntryRow :=
  [ row1 0x1180 13 .u64 8 .ro 0,  -- POCKET.CORRECTED
    row1 0x1180 14 .u32 4 .ro 0,  -- POCKET.UNCORRECTABLE
    row1 0x1190 1 .u32 4 .ro 0,  -- MEM.OBJECTS
    row1 0x1190 2 .u64 8 .ro 0,  -- MEM.RESERVED_BYTES
    row1 0x1190 3 .u64 8 .ro 0,  -- MEM.POOL_BYTES
    row1 0x1190 4 .u64 8 .ro 0,  -- MEM.POOL_FREE
    row1 0x1190 5 .u64 8 .ro 0,  -- MEM.DEMOTIONS
    row1 0x1190 6 .u64 8 .ro 0,  -- MEM.PROMOTIONS
    row1 0x1190 7 .u64 8 .ro 0,  -- MEM.MOVES
    row1 0x1190 8 .u32 4 .ro 0,  -- MEM.MOVES_ABANDONED
    row1 0x1190 9 .u32 4 .ro 0,  -- MEM.WRITER_STALL_MAX
    row1 0x1190 10 .u64 8 .ro 0,  -- MEM.SWAP_IN_FORCE
    row1 0x1191 0 .domain 24 .ro 0,  -- HBM.RATE
    row1 0x1191 1 .u64 8 .ro 0,  -- HBM.CORRECTED
    row1 0x1191 2 .u32 4 .ro 0,  -- HBM.UNCORRECTABLE
    row1 0x1191 3 .u64 8 .ro 0,  -- HBM.PARITY_RETRIES
    row1 0x1191 4 .u8 1 .ro 0,  -- HBM.TEMP_MAX
    row1 0x1191 5 .u32 4 .ro 0,  -- HBM.THROTTLE_EVENTS
    row1 0x1191 6 .u32 4 .ro 0,  -- HBM.CTRL_RESETS
    row1 0x1192 1 .u8 1 .ro 0,  -- FLASH.STATE
    row1 0x1192 2 .u64 8 .ro 0,  -- FLASH.CAPACITY
    row1 0x1192 3 .u64 8 .ro 0,  -- FLASH.CHANNEL_UP
    row1 0x1192 4 .u16 2 .ro 0,  -- FLASH.RATE
    row1 0x1192 5 .u64 8 .ro 0,  -- FLASH.RETRY_READS
    row1 0x1192 6 .u64 8 .ro 0,  -- FLASH.SOFT_READS
    row1 0x1192 7 .u32 4 .ro 0,  -- FLASH.UNCORRECTABLE
    row1 0x1192 8 .u32 4 .ro 0,  -- FLASH.BLOCKS_RETIRED
    row1 0x1192 9 .u64 8 .ro 0,  -- FLASH.REFRESH_WRITES
    row1 0x1192 10 .u32 4 .ro 0,  -- FLASH.CHANNEL_RESETS
    row1 0x11A0 1 .u64 8 .ro 0,  -- LACE.ENCODE_CALLS
    row1 0x11A0 2 .u64 8 .ro 0,  -- LACE.ENCODE_BYTES
    row1 0x11A0 3 .u64 8 .ro 0,  -- LACE.DECODE_CALLS
    row1 0x11A0 4 .u64 8 .ro 0,  -- LACE.DECODE_TOKENS
    row1 0x11A0 5 .u64 8 .ro 0,  -- LACE.FALLBACK_TOKENS
    row1 0x11A0 6 .u64 8 .ro 0,  -- LACE.DECODE_MISSES
    row1 0x11A0 7 .u32 4 .ro 0,  -- LACE.TRUNCATIONS
    row1 0x11A0 8 .u32 4 .ro 0,  -- LACE.DELIVERY_HOLDS
    row1 0x11A0 9 .u8 1 .ro 0,  -- LACE.RESIDENT_MAP
    row1 0x11B0 1 .u64 8 .ro 0,  -- SEARCH.QUERIES
    row1 0x11B0 2 .u64 8 .ro 0 ]  -- SEARCH.RECORDS_SCANNED

/-- Part 5 of the entry table. -/
def entryRows5 : List EntryRow :=
  [ row1 0x11B0 3 .u64 8 .ro 0,  -- SEARCH.SHARED_PASSES
    row1 0x11B0 4 .u64 8 .ro 0,  -- SEARCH.REPAIR_PASSES
    row1 0x11B0 5 .u64 8 .ro 0,  -- SEARCH.WIDEN_ROUNDS
    row1 0x11B0 6 .u32 4 .ro 0,  -- SEARCH.SHORT_RESULTS
    row1 0x11B0 7 .u32 4 .ro 0,  -- SEARCH.CORRUPT_EVENTS
    row1 0x11B0 8 .u64 8 .ro 0,  -- SEARCH.COMPACTIONS
    row1 0x11B0 9 .u64 8 .ro 0,  -- SEARCH.NAN_DROPPED
    row1 0x11C0 1 .u64 8 .ro 0,  -- SELECT.COMMANDS
    row1 0x11C0 2 .u64 8 .ro 0,  -- SELECT.VALUES
    row1 0x11C0 3 .u64 8 .ro 0,  -- SELECT.NANS
    row1 0x11C0 4 .u64 8 .ro 0,  -- SELECT.SHORT_ROWS
    row1 0x11C0 5 .u64 8 .ro 0,  -- ZIPPER.MERGES
    row1 0x11C0 6 .u64 8 .ro 0,  -- ZIPPER.DUPLICATES
    row1 0x11C0 7 .u32 4 .ro 0,  -- ZIPPER.CONFLICTS
    row1 0x11C0 8 .u32 4 .ro 0,  -- ZIPPER.UNSORTED
    row1 0x11D0 1 .u64 8 .ro 0,  -- BELT.GATHERS
    row1 0x11D0 2 .u64 8 .ro 0,  -- BELT.INDICES
    row1 0x11D0 3 .u64 8 .ro 0,  -- BELT.COALESCED
    row1 0x11D0 4 .u64 8 .ro 0,  -- BELT.CACHE_HITS
    row1 0x11D0 5 .u64 8 .ro 0,  -- BELT.READS
    row1 0x11D0 6 .u64 8 .ro 0,  -- BELT.DEFAULTS
    row1 0x11D0 7 .u64 8 .ro 0,  -- BELT.VERSIONS_FREED
    row1 0x11D0 8 .u16 2 .ro 0,  -- BELT.TABLES
    row1 0x11D0 9 .u32 4 .ro 0,  -- BELT.DELIVERY_HOLDS
    row1 0x11E0 1 .u64 8 .ro 0,  -- XRANK.COMMANDS
    row1 0x11E0 2 .u64 8 .ro 0,  -- XRANK.PAIRS
    row1 0x11E0 3 .u64 8 .ro 0,  -- PACK.PACKS
    row1 0x11E0 4 .u64 8 .ro 0,  -- PACK.DUPLICATES
    row1 0x11E0 5 .u64 8 .ro 0,  -- PACK.TRUNCATIONS
    row1 0x11E0 6 .u64 8 .ro 0,  -- PACK.REMOTE_HANDOFFS
    row1 0x11E0 7 .u32 4 .ro 0,  -- PACK.HANDOFF_REFUSALS
    row1 0x11F0 1 .u64 8 .ro 0,  -- GEN.REQUESTS
    row1 0x11F0 2 .u64 8 .ro 0,  -- GEN.STEPS
    row1 0x11F0 3 .u64 8 .ro 0,  -- GEN.TOKENS
    row1 0x11F0 4 .u64 8 .ro 0,  -- GEN.DRAFTED
    row1 0x11F0 5 .u64 8 .ro 0,  -- GEN.ACCEPTED
    row1 0x11F0 6 .u64 8 .ro 0,  -- GEN.FULL_REJECTS
    row1 0x11F0 7 .u32 4 .ro 0,  -- GEN.BACKOFFS
    row1 0x11F0 8 .u64 8 .ro 0,  -- GEN.STOP_HITS
    row1 0x11F0 9 .u32 4 .ro 0 ]  -- GEN.PARTIAL_STOPS

/-- Part 6 of the entry table. -/
def entryRows6 : List EntryRow :=
  [ row1 0x11F0 10 .u64 8 .ro 0,  -- GEN.PAGES_IN_USE
    row1 0x11F0 11 .u64 8 .ro 0,  -- GEN.PAGES_RETURNED
    row1 0x11F0 12 .u32 4 .ro 0,  -- GEN.LATE_PAGE_RETURNS
    row1 0x11F1 1 .u64 8 .ro 0,  -- SAMPLER.DRAWS
    row1 0x11F1 2 .u64 8 .ro 0,  -- SAMPLER.NAN_LOGITS
    row1 0x11F1 3 .u32 4 .ro 0,  -- SAMPLER.NO_VALID
    row1 0x11F1 4 .u64 8 .ro 0,  -- VEIL.MASKS_FETCHED
    row1 0x11F1 5 .u64 8 .ro 0,  -- VEIL.CACHE_HITS
    row1 0x11F1 6 .u64 8 .ro 0,  -- VEIL.MASK_LATE
    row1 0x11F1 7 .u64 8 .ro 0,  -- VEIL.DRAFT_CUTS
    row1 0x11F1 8 .u32 4 .ro 0,  -- VEIL.DEAD
    row1 0x11F1 9 .u32 4 .ro 0,  -- VEIL.FORCED_EOS
    row1 0x11F1 10 .u64 8 .ro 0,  -- VEIL.RESIDENT_MAP
    row1 0x11F8 1 .u8 1 .ro 0,  -- POWER.STATE
    row1 0x11F8 2 .u8 1 .ro 0,  -- POWER.REGION_SLEEP_MAP
    row1 0x11F8 3 .u16 2 .ro 0,  -- POWER.VIN_MV
    row1 0x11F8 4 .u32 4 .ro 0,  -- POWER.VIN_MA
    row1 0x11F8 5 .u8 1 .ro 0,  -- POWER.TJ_HOT_C
    row1 0x11F8 6 .u64 8 .ro 0x3e95ba80,  -- POWER.ACLK_NOW
    row1 0x11F8 7 .u32 4 .ro 0,  -- COLLAR.WAIT_NS_MAX
    row1 0x11F8 8 .u64 8 .ro 0,  -- COLLAR.ADMISSIONS
    row1 0x11F8 9 .u64 8 .ro 0,  -- COLLAR.STAGES
    row1 0x11F8 10 .u32 4 .ro 0,  -- POWER.THROTTLE_EVENTS
    row1 0x11F8 11 .u32 4 .ro 0,  -- POWER.FAIL_EVENTS
    row1 0x11F8 12 .u8 1 .ro 0,  -- POWER.ERRORS
    row1 0x11F8 13 .u8 1 .ro 0,  -- POWER.LAST_START
    row1 0x11FA 1 .u16 2 .ro 0,  -- RESET.LAST_CAUSE
    row1 0x11FA 2 .u32 4 .ro 0,  -- RESET.WARM_RESETS
    row1 0x11FA 3 .u32 4 .ro 0,  -- RESET.REGION_RESETS
    row1 0x11FA 4 .u64 8 .ro 0,  -- RESET.STALE_REPLIES
    row1 0x11FA 5 .u32 4 .ro 0,  -- RESET.DRAIN_TIMEOUTS
    row1 0x11FA 6 .u32 4 .ro 0,  -- RESET.WATCHDOG_FIRES
    row1 0x11FA 7 .u32 4 .ro 0,  -- RESET.MONITOR_FIRES
    row1 0x11FA 8 .u32 4 .ro 0,  -- RESET.LOG_SEQ
    row1 0x11FB 0 .domain 256 .ro 0,  -- TEST.LAST_RECORD
    row1 0x11FB 1 .u64 8 .ro 0,  -- TEST.SLICES_RUN
    row1 0x11FB 2 .u32 4 .ro 0,  -- TEST.SLICES_FAILED
    row1 0x11FB 3 .u32 4 .ro 0,  -- TEST.SKIPPED_LIMITS
    row1 0x11FB 4 .u64 8 .ro 0,  -- TEST.SLICES_DEFERRED
    row1 0x11FB 5 .u32 4 .ro 0 ]  -- TEST.SWEEPS

/-- Part 7 of the entry table. -/
def entryRows7 : List EntryRow :=
  [ row1 0x11FB 6 .u8 1 .ro 0,  -- TEST.SHUTDOWN_STATE
    row1 0x11FB 7 .u8 1 .ro 0,  -- TEST.TEST_MODE
    row1 0x11FC 1 .u64 8 .ro 0,  -- PERF.SNAP_BEAT
    row1 0x11FC 2 .u32 4 .ro 0,  -- PERF.EXPORT_FAILS
    rowN 0x11FC 3 7 .u64 8 .ro 0,  -- PERF.SAMPLE_COUNT[0]–[4]
    rowN 0x11FC 8 12 .u32 4 .ro 0,  -- PERF.SAMPLE_DROPS[0]–[4]
    row1 0x11FD 0 .domain 76800 .ro 0,  -- PERF.BLOCK_SHADOW
    row1 0x11FD 1 .domain 1024 .ro 0,  -- PERF.REGION_SHADOW
    row1 0x11FD 2 .domain 1024 .ro 0,  -- PERF.CHIP_SHADOW
    row1 0x11FE 0 .domain 512 .ro 0,  -- SEC.SLOT_STATUS
    row1 0x11FE 1 .u64 8 .ro 0,  -- SEC.TAG_FAILURES
    row1 0x11FE 2 .u32 4 .ro 0,  -- SEC.KEY_LOADS
    row1 0x11FE 3 .domain 256 .ro 0,  -- SEC.ATTEST_REPORT
    row1 0x1200 1 .u8 1 .ro 0,  -- AEDUP.STATE
    row1 0x1200 2 .u8 1 .ro 0,  -- AEDUP.WIDTH
    row1 0x1200 3 .u16 2 .ro 0,  -- AEDUP.RATE
    row1 0x1200 4 .u8 1 .ro 0,  -- AEDUP.VERSION
    row1 0x1200 5 .u32 4 .ro 0,  -- AEDUP.FEATURES
    row1 0x1200 6 .u32 4 .ro 0,  -- AEDUP.PEER_SESSION
    row1 0x1200 7 .u64 8 .ro 0,  -- AEDUP.FEC_CORRECTED
    row1 0x1200 8 .u64 8 .ro 0,  -- AEDUP.CRC_ERRORS
    row1 0x1200 9 .u64 8 .ro 0,  -- AEDUP.REPLAYS
    row1 0x1200 10 .u32 4 .ro 0,  -- AEDUP.RETRAINS
    row1 0x1200 11 .u32 4 .ro 0,  -- AEDUP.LINK_RESETS
    row1 0x1200 12 .u32 4 .ro 0,  -- AEDUP.TRAIN_FAILURES
    row1 0x1200 13 .u32 4 .ro 0,  -- AEDUP.NEG_FAILURES
    row1 0x1200 14 .u32 4 .ro 0,  -- AEDUP.PROTOCOL_ERRORS
    row1 0x1200 15 .u32 4 .ro 0,  -- AEDUP.MMIO_ERRORS
    row1 0x1200 16 .u32 4 .ro 0,  -- AEDUP.MAILBOX_OVERRUNS
    row1 0x1200 17 .u32 4 .ro 0,  -- AEDUP.LOST_COMPLETIONS
    row1 0x1200 18 .u64 8 .ro 0,  -- AEDUP.SNOOPS
    row1 0x1201 1 .u16 2 .ro 4096,  -- AEDUP.MAX_READS
    row1 0x1201 2 .u16 2 .ro 8192,  -- AEDUP.CACHE_LINES
    row1 0x1201 3 .u16 2 .ro 512,  -- AEDUP.REPLAY_FLITS
    row1 0x1201 4 .u32 4 .ro 0x200000,  -- AEDUP.WINDOW_BYTES
    row1 0x1201 5 .u8 1 .rwPriv 0,  -- AEDUP.PROTECT
    row1 0x1201 6 .u8 1 .rwPriv 4,  -- AEDUP.MIN_WIDTH
    row1 0x1201 7 .u8 1 .priv 0,  -- AEDUP.RETRAIN_REQUEST
    row1 0x1210 0 .domain 96 .ro 0,  -- PELGAN.LINK_STATE
    row1 0x1210 1 .u16 2 .ro 0xffff ]  -- PELGAN.DEVICE

/-- Part 8 of the entry table. -/
def entryRows8 : List EntryRow :=
  [ row1 0x1210 2 .u64 8 .ro 0,  -- PELGAN.MANAGER_SERIAL
    row1 0x1210 3 .u16 2 .ro 0,  -- PELGAN.FORMATION
    row1 0x1210 4 .u16 2 .ro 0,  -- PELGAN.MEMBERS
    row1 0x1210 5 .u8 1 .ro 0,  -- PELGAN.DIAMETER
    row1 0x1210 6 .u8 1 .ro 0,  -- PELGAN.GROUP_VERSION
    row1 0x1210 7 .u32 4 .ro 0,  -- PELGAN.ABORT_BOUND
    row1 0x1210 8 .u64 8 .ro 0,  -- PELGAN.FEC_CORRECTED
    row1 0x1210 9 .u64 8 .ro 0,  -- PELGAN.CRC_ERRORS
    row1 0x1210 10 .u64 8 .ro 0,  -- PELGAN.REPLAYS
    row1 0x1210 11 .u32 4 .ro 0,  -- PELGAN.RETRAINS
    row1 0x1210 12 .u32 4 .ro 0,  -- PELGAN.LINK_RESETS
    row1 0x1210 13 .u32 4 .ro 0,  -- PELGAN.NEG_FAILURES
    row1 0x1210 14 .u64 8 .ro 0,  -- PELGAN.STALE_DROPS
    row1 0x1210 15 .u32 4 .ro 0,  -- PELGAN.ROUTE_DROPS
    row1 0x1210 16 .u32 4 .ro 0,  -- PELGAN.PROTOCOL_ERRORS
    row1 0x1210 17 .u32 4 .ro 0,  -- PELGAN.REFUSED
    row1 0x1210 18 .u32 4 .ro 0,  -- PELGAN.ABORTS_SENT
    row1 0x1210 19 .u32 4 .ro 0,  -- PELGAN.ABORTS_RECEIVED
    row1 0x1210 20 .u16 2 .ro 0,  -- PELGAN.UNREACHED
    row1 0x1211 0 .domain 192 .ro 0,  -- PELGAN.LINK_LATENCY
    row1 0x1211 1 .u16 2 .ro 4096,  -- PELGAN.MAX_GROUP
    row1 0x1211 2 .u16 2 .ro 255,  -- PELGAN.MAX_JOBS
    row1 0x1211 3 .u8 1 .ro 8,  -- PELGAN.MAX_HOPS
    row1 0x1211 4 .u8 1 .ro 4,  -- PELGAN.ROUTES_PER_DEST
    row1 0x1211 5 .u16 2 .ro 36,  -- PELGAN.FORWARD_NS
    row1 0x1211 6 .u16 2 .ro 512,  -- PELGAN.REPLAY_FLITS
    row1 0x1211 7 .u32 4 .ro 10,  -- PELGAN.PHASE_BOUND
    rowE 0x1211 8 .u32 4 .rwPriv 0,  -- PELGAN.GROUP_ID
    rowE 0x1211 9 .u8 1 .rwPriv 128,  -- PELGAN.PRIORITY
    row1 0x1211 10 .u8 1 .rwPriv 0,  -- PELGAN.PROTECT
    row1 0x1211 11 .domain 12 .rwPriv (2^96 - 1),  -- PELGAN.LINK_ENABLE
    row1 0x1211 12 .u32 4 .rwPriv 100,  -- PELGAN.REMOTE_TIMEOUT
    rowN 0x1212 0 254 .domain 528 .wbPriv 1,  -- PELGAN.JOB[0]–[254]
    row1 0x1213 0 .domain 8192 .wbPriv (2^65536 - 1),  -- PELGAN.CTX_JOB
    row1 0x1214 0 .domain 131072 .ro 0,  -- PELGAN.ROUTE_TABLE
    rowE 0x1220 1 .u64 8 .ro 0,  -- MGMT.MAC
    rowE 0x1220 2 .u8 1 .rwPriv 255,  -- MGMT.PLCA_ID
    rowE 0x1220 3 .u8 1 .rwPriv 8,  -- MGMT.PLCA_COUNT
    row1 0x1220 4 .u16 2 .ro 0xb806,  -- MGMT.UDP_PORT
    rowM 0x1220 5 .u32 4 .rwPriv 1 .or ]  -- MGMT.NOTIFY

/-- Part 9 of the entry table. -/
def entryRows9 : List EntryRow :=
  [ row1 0x1220 6 .u64 8 .ro 0,  -- MGMT.REQUESTS
    row1 0x1220 7 .u32 4 .ro 0,  -- MGMT.DISCARDS
    row1 0x1220 8 .u32 4 .ro 0,  -- MGMT.REPLAYED
    row1 0x1220 9 .u32 4 .ro 0,  -- MGMT.NOTIFY_DROPS
    row1 0x2000 1 .u8 1 .ro 0,  -- HEM.ROLE
    row1 0x2000 2 .u8 1 .wbPriv 1,  -- HEM.BEAT_SOURCE
    row1 0x2000 3 .u32 4 .wbPriv 0x989680,  -- HEM.BEAT_PERIOD
    row1 0x2000 4 .u8 1 .ro 16,  -- HEM.HOLDOVER_LIMIT
    row1 0x2000 5 .u32 4 .ro 0x3e80,  -- HEM.ANNOUNCE_LEAD
    row1 0x2000 6 .u8 1 .wbPriv 0,  -- HEM.CALENDAR_COMMIT
    row1 0x2001 1 .u64 8 .ro 0x8001000000000000,  -- HEM.CALENDAR[0]–[63]
    row1 0x2001 2 .u64 8 .rwPriv 0x8005000000009000,  -- HEM.CALENDAR[0]–[63]
    row1 0x2001 3 .u64 8 .rwPriv 0x8006000000009400,  -- HEM.CALENDAR[0]–[63]
    row1 0x2001 4 .u64 8 .rwPriv 0x800700000000a000,  -- HEM.CALENDAR[0]–[63]
    row1 0x2001 5 .u64 8 .rwPriv 0x800800000000e000,  -- HEM.CALENDAR[0]–[63]
    row1 0x2001 6 .u64 8 .rwPriv 0x800200000000f000,  -- HEM.CALENDAR[0]–[63]
    row1 0x2001 7 .u64 8 .rwPriv 0x8004700000001000,  -- HEM.CALENDAR[0]–[63]
    rowN 0x2001 8 64 .u64 8 .rwPriv 0,  -- HEM.CALENDAR[0]–[63]
    row1 0x2100 1 .u64 8 .rwPriv 0,  -- QUEUE.TABLE_BASE
    row1 0x2100 2 .u16 2 .rwPriv 0,  -- QUEUE.TABLE_ENTRIES
    row1 0x2100 3 .u16 2 .rwPriv 0xffff,  -- QUEUE.ENABLE
    row1 0x2100 4 .u16 2 .rwPriv 0xffff,  -- QUEUE.DISABLE
    row1 0x2100 5 .u16 2 .ro 1024,  -- QUEUE.MAX_QUEUES
    row1 0x2100 6 .u16 2 .ro 128,  -- QUEUE.CACHE_ENTRIES
    row1 0x2100 7 .u32 4 .ro 0x10000,  -- QUEUE.COMMAND_SLOTS
    row1 0x2100 8 .u64 8 .ro 0x100000,  -- QUEUE.DOORBELL_BASE
    rowM 0x2200 1 .u64 8 .rwPriv 0x200000000 .replace,  -- STORE.STAGING_LIMIT
    rowM 0x2200 2 .u8 1 .rwPriv 1 .replace,  -- STORE.BACKGROUND_FLUSH
    row1 0x2300 1 .u64 8 .ro 0xff0000000000,  -- CTX.TABLE_BASE
    row1 0x2300 2 .u16 2 .ro 4096,  -- CTX.MAX_CONTEXTS
    row1 0x2300 3 .u16 2 .ro 256,  -- CTX.CACHE_ENTRIES
    row1 0x2300 4 .u16 2 .ro 256,  -- CTX.MAX_RUNNING
    rowM 0x2300 5 .u16 2 .rwPriv 64 .max,  -- CTX.STARVE_BEATS
    row1 0x2300 6 .u32 4 .ro 500,  -- CTX.NP_BOUND
    row1 0x2400 1 .u32 4 .ro 4000,  -- CLOAK.RATE
    row1 0x2400 2 .u32 4 .ro 0x3c5000,  -- CLOAK.BLOCK_IMAGE_BYTES
    row1 0x2400 3 .u32 4 .ro 0x10000,  -- CLOAK.CONTEXT_PART_BYTES
    row1 0x2500 1 .u16 2 .wo1Priv 2048,  -- WARDROBE.BAND_ROWS
    row1 0x2500 2 .u8 1 .ro 64,  -- WARDROBE.MAX_RESIDENT
    row1 0x2500 3 .u16 2 .ro 1024 ]  -- WARDROBE.MAX_REGISTERED

/-- Part 10 of the entry table. -/
def entryRows10 : List EntryRow :=
  [ row1 0x2600 1 .u16 2 .ro 64,  -- ARRAY.DUMMY_GAP
    rowM 0x2600 2 .u16 2 .wbPriv 64 .max,  -- ARRAY.RAMP_STEP
    rowM 0x2700 1 .u8 1 .wbPriv 0 .replace,  -- FORMAT.SCALE_RULE
    rowM 0x2700 2 .u8 1 .wbPriv 0 .replace,  -- FORMAT.ROUNDING
    rowM 0x2700 3 .u8 1 .wbPriv 6 .min,  -- FORMAT.SHADOW_SHIFT
    rowM 0x2700 4 .u8 1 .wbPriv 1 .replace,  -- FORMAT.FALLBACK_ENABLE
    row1 0x2700 5 .u8 1 .ro 64,  -- FORMAT.PATCH_MAX
    row1 0x2700 6 .u32 4 .ro 0xffff0001,  -- FORMAT.SR_STREAM
    row1 0x2700 7 .u8 1 .ro 3,  -- FORMAT.MAX_RUNG
    rowM 0x2800 1 .u32 4 .rwPriv 0xffa55000 .replace,  -- POCKET.DEFAULT_GROUP_MAP
    row1 0x2800 2 .u8 1 .ro 8,  -- POCKET.AGE_LIMIT
    row1 0x2900 1 .u64 8 .wo1Priv 0x10000000000,  -- MEM.SWAP_BYTES
    rowM 0x2900 2 .u32 4 .rwPriv 2000 .max,  -- MEM.MOVE_BOUND
    rowM 0x2900 3 .u8 1 .rwPriv 1 .replace,  -- MEM.PROMOTE
    row1 0x2900 4 .u16 2 .ro 256,  -- MEM.MOVES_IN_FLIGHT
    rowM 0x2A00 1 .u16 2 .rwPriv 24 .replace,  -- HBM.SCRUB_HOURS
    row1 0x2A00 2 .u8 1 .ro 95,  -- HBM.THROTTLE_C
    rowE 0x2B00 1 .u8 1 .rwPriv 0,  -- FLASH.EXT_MODE
    row1 0x2B00 2 .u8 1 .ro 8,  -- FLASH.RETRY_LEVELS
    rowM 0x2B00 3 .u16 2 .rwPriv 40 .min,  -- FLASH.REFRESH_BITS
    rowM 0x2B00 4 .u16 2 .rwPriv 720 .replace,  -- FLASH.SCRUB_HOURS
    rowM 0x2B00 5 .u32 4 .rwPriv 2000 .min,  -- FLASH.WRITE_AGE
    rowM 0x2B00 6 .u8 1 .rwPriv 0 .max,  -- FLASH.THROTTLE
    row1 0x2C00 1 .u8 1 .ro 4,  -- LACE.MAX_RESIDENT
    row1 0x2C00 2 .u32 4 .ro 0x40000,  -- LACE.MAX_PIECES
    row1 0x2C00 3 .u32 4 .ro 0x100000,  -- LACE.MAX_TOKENS
    row1 0x2C00 4 .u8 1 .ro 64,  -- LACE.MAX_PIECE_BYTES
    row1 0x2C00 5 .u32 4 .ro 0x100000,  -- LACE.MAX_INPUT
    row1 0x2C00 6 .u32 4 .ro 0x400000,  -- LACE.MAX_STRING_BYTES
    row1 0x2C00 7 .u8 1 .ro 4,  -- LACE.LANES
    row1 0x2C00 8 .u8 1 .ro 8,  -- LACE.PROBES_PER_BCLK
    row1 0x2C00 9 .u32 4 .ro 0x200000,  -- LACE.DECODE_CACHE
    rowM 0x2D00 1 .u8 1 .rwPriv 8 .replace,  -- SEARCH.COMPACT_EXTENTS
    rowM 0x2D00 2 .u8 1 .rwPriv 12 .replace,  -- SEARCH.COMPACT_DEAD
    rowM 0x2D00 3 .u8 1 .rwPriv 1 .replace,  -- SEARCH.COMPACT_ENABLE
    rowM 0x2E00 1 .u8 1 .rwPriv 1 .replace,  -- BELT.HOT_CACHE_ENABLE
    row1 0x2F00 1 .u8 1 .rwPriv 0,  -- DICT.CONFIG_DONE
    row1 0x3000 1 .u16 2 .wbPriv 250,  -- COLLAR.SLEW_LIMIT
    row1 0x3000 2 .u16 2 .wbPriv 1350,  -- COLLAR.CURRENT_LIMIT
    row1 0x3000 3 .u8 1 .rwPriv 0 ]  -- POWER.REQUEST

/-- Part 11 of the entry table. -/
def entryRows11 : List EntryRow :=
  [ row1 0x3000 4 .u8 1 .rwPriv 0,  -- POWER.REGION_REQUEST
    row1 0x3000 5 .u8 1 .ro 95,  -- POWER.TJ_THROTTLE_C
    row1 0x3000 6 .u8 1 .ro 103,  -- POWER.TJ_TRIP_C
    row1 0x3000 7 .u32 4 .ro 4000,  -- COLLAR.STAGE_NS
    row1 0x3000 8 .u16 2 .ro 10,  -- COLLAR.STAGE_SLEW
    rowE 0x3000 9 .u8 1 .rwPriv 1,  -- POWER.QUICK_START
    row1 0x3000 10 .u16 2 .ro 45,  -- POWER.FAIL_HOLD_MS
    row1 0x3100 1 .u32 4 .rwPriv 600,  -- RESET.DRAIN_US
    row1 0x3100 2 .u32 4 .rwPriv 1000,  -- RESET.MONITOR_US
    row1 0x3100 3 .u32 4 .rwPriv 1000,  -- RESET.AEDUP_READ_TIMEOUT
    row1 0x3200 1 .u8 1 .rwPriv 1,  -- TEST.INOP_ENABLE
    row1 0x3200 2 .u8 1 .rwPriv 1,  -- TEST.PER_REGION
    row1 0x3200 3 .u8 1 .priv 0,  -- TEST.SHUTDOWN_RUN
    row1 0x3300 1 .u8 1 .wbPriv 0,  -- PERF.FREEZE
    row1 0x3300 2 .u8 1 .rwPriv 0,  -- PERF.INTR_ENABLE
    row1 0x3300 3 .u16 2 .rwPriv 0,  -- PERF.INTR_VECTOR
    rowN 0x3300 4 8 .u64 8 .rwPriv 0,  -- PERF.SAMPLE_RELEASE[0]–[4]
    row1 0x3301 0 .domain 32768 .wbPriv 0,  -- PERF.EXPORT
    rowN 0x3302 0 7 .u64 8 .wbPriv 0,  -- PERF.BLOCK_SELECT[0]–[7]
    rowN 0x3303 0 31 .u64 8 .wbPriv 0,  -- PERF.REGION_SELECT[0]–[31]
    rowN 0x3304 0 127 .u64 8 .wbPriv 0,  -- PERF.CHIP_SELECT[0]–[127]
    row1 0x3400 1 .domain 80 .priv 0,  -- SEC.KEY_LOAD
    row1 0x3400 2 .u8 1 .priv 0,  -- SEC.KEY_CLEAR
    rowE 0x3400 3 .u8 1 .rwPriv 0,  -- SEC.TIER_KEY_SOURCE
    row1 0x3400 4 .domain 97 .rwPriv (2^776 - 1),  -- SEC.LINK_SLOT
    row1 0x3400 5 .domain 48 .rw 0,  -- SEC.ATTEST_NONCE
    row1 0x6000 0 .domain 2048 .wbPriv 0x2d000300000000000000000000000000,  -- OVERLAY.TABLE[0]–[3]
    row1 0x6001 0 .domain 2048 .wbPriv 0x1220050000000000000000000000000427000300000000000000000000000005,  -- OVERLAY.TABLE[0]–[3]
    row1 0x6002 0 .domain 2048 .wbPriv 0x12200500000000000000000000000010230005000000000000000000000001002b0005000000000000000000000001f422000200000000000000000000000000,  -- OVERLAY.TABLE[0]–[3]
    row1 0x6003 0 .domain 2048 .wbPriv 0x1220050000000000000000000000000a230005000000000000000000000004002b0005000000000000000000000003e8270003000000000000000000000000042d00030000000000000000000000000122000200000000000000000000000001,  -- OVERLAY.TABLE[0]–[3]
    row1 0x6F00 1 .u8 1 .wbPriv 0,  -- OVERLAY.ACTIVE
    row1 0x6F00 2 .u32 4 .ro 0,  -- OVERLAY.SWITCHES
    row1 0x6F01 0 .domain 504 .ro 0,  -- OVERLAY.EFFECTIVE
    row1 0xF010 1 .u16 2 .priv 0xffff,  -- DIAG.BLOCK_RETURN
    row1 0xF020 1 .u8 1 .priv 0,  -- DIAG.FLASH_FORMAT
    row1 0xF030 1 .u8 1 .priv 0,  -- DIAG.RESET
    row1 0xF030 2 .u8 1 .priv 255,  -- DIAG.REGION_RESET
    row1 0xF031 0 .domain 131072 .priv 0,  -- DIAG.ERROR_LOG
    rowN 0xF032 0 7 .domain 8388608 .priv 0,  -- DIAG.CRASH_DUMP[0]–[7]
    row1 0xF041 0 .domain 76800 .priv 0 ]  -- DIAG.PERF_LIVE[0]–[2]

/-- Part 12 of the entry table. -/
def entryRows12 : List EntryRow :=
  [ row1 0xF041 1 .domain 1024 .priv 0,  -- DIAG.PERF_LIVE[0]–[2]
    row1 0xF041 2 .domain 1024 .priv 0,  -- DIAG.PERF_LIVE[0]–[2]
    rowN 0xF042 0 4 .domain 65536 .priv 0 ]  -- DIAG.PERF_SAMPLES[0]–[4]

/-- Every entry of the device, in the order of R367. -/
def entryRows : List EntryRow :=
  entryRows0 ++ entryRows1 ++ entryRows2 ++ entryRows3 ++ entryRows4 ++ entryRows5 ++ entryRows6 ++ entryRows7 ++ entryRows8 ++ entryRows9 ++ entryRows10 ++ entryRows11 ++ entryRows12

end Sys2Proof.Machine
end

