-- ==== Sys2Proof/Machine/Keys.lean ====
section
/-! DEFINITION. The keys of the dictionary entries (chapter 18): key = INDEX * 256 + SUB, named UNIT_NAME as the entry
tables of spec/ name them; an array has a key per element. -/

namespace Sys2Proof.Key

def CHIP_REGIONS : Nat := 0x101001
def CHIP_MESH_COLUMNS : Nat := 0x101002
def CHIP_MESH_ROWS : Nat := 0x101003
def CHIP_BLOCKS_PER_REGION : Nat := 0x101004
def CHIP_CELLS_PER_BLOCK : Nat := 0x101005
def CHIP_LANES_PER_CELL : Nat := 0x101006
def CHIP_BLOCKS_PER_QUAD : Nat := 0x101007
def CHIP_BLOCK_MAP : Nat := 0x112000
def CHIP_BLOCKS_AVAILABLE : Nat := 0x112001
def CHIP_QUADS_AVAILABLE : Nat := 0x112002
def CHIP_QUARANTINE_EVENTS : Nat := 0x112003
def CHIP_RETURNS_PENDING : Nat := 0x112004
def CHIP_RETURNS_DROPPED : Nat := 0x112005
def DIAG_BLOCK_RETURN : Nat := 0xF01001
def HEM_BEAT_NUMBER : Nat := 0x113001
def HEM_STATE : Nat := 0x113002
def HEM_HOLDOVER_BEATS : Nat := 0x113003
def HEM_ALIGN_ERROR : Nat := 0x113004
def HEM_BEAT_IN_REJECTS : Nat := 0x113005
def HEM_PLAN_SEAL_MISSES : Nat := 0x113006
def HEM_SAMPLE_MISSES : Nat := 0x113007
def HEM_BEAT_LOSS_EVENTS : Nat := 0x113008
def HEM_ROLE : Nat := 0x200001
def HEM_BEAT_SOURCE : Nat := 0x200002
def HEM_BEAT_PERIOD : Nat := 0x200003
def HEM_HOLDOVER_LIMIT : Nat := 0x200004
def HEM_ANNOUNCE_LEAD : Nat := 0x200005
def HEM_CALENDAR_COMMIT : Nat := 0x200006
def HEM_CALENDAR (i : Nat) : Nat := 0x200101 + i
def QUEUE_STATE_MAP : Nat := 0x114000
def QUEUE_CACHED : Nat := 0x114001
def QUEUE_FETCHES : Nat := 0x114002
def QUEUE_SLOTS_IN_USE : Nat := 0x114003
def QUEUE_DOORBELL_ERRORS : Nat := 0x114004
def STORE_UNFLUSHED_BYTES : Nat := 0x114101
def STORE_STAGED_BYTES : Nat := 0x114102
def QUEUE_TABLE_BASE : Nat := 0x210001
def QUEUE_TABLE_ENTRIES : Nat := 0x210002
def QUEUE_ENABLE : Nat := 0x210003
def QUEUE_DISABLE : Nat := 0x210004
def QUEUE_MAX_QUEUES : Nat := 0x210005
def QUEUE_CACHE_ENTRIES : Nat := 0x210006
def QUEUE_COMMAND_SLOTS : Nat := 0x210007
def QUEUE_DOORBELL_BASE : Nat := 0x210008
def STORE_STAGING_LIMIT : Nat := 0x220001
def STORE_BACKGROUND_FLUSH : Nat := 0x220002
def CLIENT_SUBMITTED (i : Nat) : Nat := 0x115000 + i
def CLIENT_COMPLETED (i : Nat) : Nat := 0x115100 + i
def CLIENT_FAULTED (i : Nat) : Nat := 0x115200 + i
def CLIENT_CANCELLED (i : Nat) : Nat := 0x115300 + i
def CTX_ALLOCATED : Nat := 0x115401
def CTX_RUNNING : Nat := 0x115402
def CTX_CACHED : Nat := 0x115403
def CTX_PREEMPTIONS : Nat := 0x115404
def CTX_OVERRUNS : Nat := 0x115405
def CTX_HUNG : Nat := 0x115406
def CTX_UNPLACEABLE : Nat := 0x115407
def WARDROBE_RESIDENT : Nat := 0x115501
def WARDROBE_MISSES : Nat := 0x115502
def WARDROBE_EVICTIONS : Nat := 0x115503
def CTX_TABLE_BASE : Nat := 0x230001
def CTX_MAX_CONTEXTS : Nat := 0x230002
def CTX_CACHE_ENTRIES : Nat := 0x230003
def CTX_MAX_RUNNING : Nat := 0x230004
def CTX_STARVE_BEATS : Nat := 0x230005
def CTX_NP_BOUND : Nat := 0x230006
def CLOAK_RATE : Nat := 0x240001
def CLOAK_BLOCK_IMAGE_BYTES : Nat := 0x240002
def CLOAK_CONTEXT_PART_BYTES : Nat := 0x240003
def WARDROBE_BAND_ROWS : Nat := 0x250001
def WARDROBE_MAX_RESIDENT : Nat := 0x250002
def WARDROBE_MAX_REGISTERED : Nat := 0x250003
def ARRAY_ACLK : Nat := 0x101101
def ARRAY_BCLK : Nat := 0x101102
def ARRAY_SHAPE_FOUR : Nat := 0x101103
def ARRAY_SHAPE_EIGHT : Nat := 0x101104
def ARRAY_SHAPE_TWO : Nat := 0x101105
def ARRAY_SHAPE_BF16 : Nat := 0x101106
def ARRAY_ACC_ROWS : Nat := 0x101107
def ARRAY_MAX_ROWS : Nat := 0x101108
def ARRAY_LATENCY : Nat := 0x101109
def ARRAY_FORMATS : Nat := 0x10110A
def ARRAY_INSTRUCTIONS : Nat := 0x116001
def ARRAY_REPLAYS : Nat := 0x116002
def ARRAY_BUBBLE_CYCLES : Nat := 0x116003
def ARRAY_DUMMY_CYCLES : Nat := 0x116004
def ARRAY_PROGRAM_ERRORS : Nat := 0x116005
def ARRAY_DUMMY_GAP : Nat := 0x260001
def ARRAY_RAMP_STEP : Nat := 0x260002
def FORMAT_SATURATIONS (i : Nat) : Nat := 0x117001 + i
def FORMAT_UNDERFLOWS (i : Nat) : Nat := 0x117005 + i
def FORMAT_INVALID_CODES : Nat := 0x117009
def FORMAT_SHADOW_SAMPLES : Nat := 0x11700A
def FORMAT_SHADOW_DISCARDS : Nat := 0x11700B
def FORMAT_FALLBACK_RAISES : Nat := 0x11700C
def FORMAT_FALLBACK_EXHAUSTED : Nat := 0x11700D
def FORMAT_PATCH_IGNORED : Nat := 0x11700E
def FORMAT_BLOCK_SAT : Nat := 0x117100
def FORMAT_BLOCK_UNDER : Nat := 0x117101
def FORMAT_SCALE_RULE : Nat := 0x270001
def FORMAT_ROUNDING : Nat := 0x270002
def FORMAT_SHADOW_SHIFT : Nat := 0x270003
def FORMAT_FALLBACK_ENABLE : Nat := 0x270004
def FORMAT_PATCH_MAX : Nat := 0x270005
def FORMAT_SR_STREAM : Nat := 0x270006
def FORMAT_MAX_RUNG : Nat := 0x270007
def POCKET_SIZE : Nat := 0x101201
def POCKET_ROWS : Nat := 0x101202
def POCKET_ROW_BYTES : Nat := 0x101203
def POCKET_BANKS : Nat := 0x101204
def POCKET_GROUPS : Nat := 0x101205
def POCKET_GROUP_ROWS : Nat := 0x101206
def POCKET_WINDOWS : Nat := 0x101207
def POCKET_MAX_SLOTS : Nat := 0x101208
def POCKET_STRAYS (i : Nat) : Nat := 0x118001 + i
def POCKET_CONFLICT_CYCLES (i : Nat) : Nat := 0x118005 + i
def POCKET_UNSYNC_ACCESSES : Nat := 0x118009
def POCKET_WINDOW_STALL_CYCLES : Nat := 0x11800A
def POCKET_WINDOW_TIMEOUTS : Nat := 0x11800B
def POCKET_LAST_TIMEOUT : Nat := 0x11800C
def POCKET_CORRECTED : Nat := 0x11800D
def POCKET_UNCORRECTABLE : Nat := 0x11800E
def POCKET_DEFAULT_GROUP_MAP : Nat := 0x280001
def POCKET_AGE_LIMIT : Nat := 0x280002
def MEM_HBM_BYTES : Nat := 0x101301
def MEM_HBM_STACKS : Nat := 0x101302
def MEM_FLASH_CHANNELS : Nat := 0x101303
def MEM_UNIT_BYTES : Nat := 0x101304
def MEM_STRIPE_BYTES : Nat := 0x101305
def MEM_OBJECT_SPACE : Nat := 0x101306
def MEM_MAX_OBJECTS : Nat := 0x101307
def MEM_OBJECTS : Nat := 0x119001
def MEM_RESERVED_BYTES : Nat := 0x119002
def MEM_POOL_BYTES : Nat := 0x119003
def MEM_POOL_FREE : Nat := 0x119004
def MEM_DEMOTIONS : Nat := 0x119005
def MEM_PROMOTIONS : Nat := 0x119006
def MEM_MOVES : Nat := 0x119007
def MEM_MOVES_ABANDONED : Nat := 0x119008
def MEM_WRITER_STALL_MAX : Nat := 0x119009
def MEM_SWAP_IN_FORCE : Nat := 0x11900A
def HBM_RATE : Nat := 0x119100
def HBM_CORRECTED : Nat := 0x119101
def HBM_UNCORRECTABLE : Nat := 0x119102
def HBM_PARITY_RETRIES : Nat := 0x119103
def HBM_TEMP_MAX : Nat := 0x119104
def HBM_THROTTLE_EVENTS : Nat := 0x119105
def HBM_CTRL_RESETS : Nat := 0x119106
def FLASH_STATE : Nat := 0x119201
def FLASH_CAPACITY : Nat := 0x119202
def FLASH_CHANNEL_UP : Nat := 0x119203
def FLASH_RATE : Nat := 0x119204
def FLASH_RETRY_READS : Nat := 0x119205
def FLASH_SOFT_READS : Nat := 0x119206
def FLASH_UNCORRECTABLE : Nat := 0x119207
def FLASH_BLOCKS_RETIRED : Nat := 0x119208
def FLASH_REFRESH_WRITES : Nat := 0x119209
def FLASH_CHANNEL_RESETS : Nat := 0x11920A
def MEM_SWAP_BYTES : Nat := 0x290001
def MEM_MOVE_BOUND : Nat := 0x290002
def MEM_PROMOTE : Nat := 0x290003
def MEM_MOVES_IN_FLIGHT : Nat := 0x290004
def HBM_SCRUB_HOURS : Nat := 0x2A0001
def HBM_THROTTLE_C : Nat := 0x2A0002
def FLASH_EXT_MODE : Nat := 0x2B0001
def FLASH_RETRY_LEVELS : Nat := 0x2B0002
def FLASH_REFRESH_BITS : Nat := 0x2B0003
def FLASH_SCRUB_HOURS : Nat := 0x2B0004
def FLASH_WRITE_AGE : Nat := 0x2B0005
def FLASH_THROTTLE : Nat := 0x2B0006
def DIAG_FLASH_FORMAT : Nat := 0xF02001
def LACE_ENCODE_CALLS : Nat := 0x11A001
def LACE_ENCODE_BYTES : Nat := 0x11A002
def LACE_DECODE_CALLS : Nat := 0x11A003
def LACE_DECODE_TOKENS : Nat := 0x11A004
def LACE_FALLBACK_TOKENS : Nat := 0x11A005
def LACE_DECODE_MISSES : Nat := 0x11A006
def LACE_TRUNCATIONS : Nat := 0x11A007
def LACE_DELIVERY_HOLDS : Nat := 0x11A008
def LACE_RESIDENT_MAP : Nat := 0x11A009
def LACE_MAX_RESIDENT : Nat := 0x2C0001
def LACE_MAX_PIECES : Nat := 0x2C0002
def LACE_MAX_TOKENS : Nat := 0x2C0003
def LACE_MAX_PIECE_BYTES : Nat := 0x2C0004
def LACE_MAX_INPUT : Nat := 0x2C0005
def LACE_MAX_STRING_BYTES : Nat := 0x2C0006
def LACE_LANES : Nat := 0x2C0007
def LACE_PROBES_PER_BCLK : Nat := 0x2C0008
def LACE_DECODE_CACHE : Nat := 0x2C0009
def SEARCH_SKETCH_LENGTHS : Nat := 0x101401
def SEARCH_MAX_DIMS : Nat := 0x101402
def SEARCH_MAX_K : Nat := 0x101403
def SEARCH_CUFF_TOPK : Nat := 0x101404
def SEARCH_QUERIES_PER_PASS : Nat := 0x101405
def SEARCH_CUFF_OUTSTANDING : Nat := 0x101406
def SEARCH_IN_FLIGHT : Nat := 0x101407
def SEARCH_MAX_INDEXES : Nat := 0x101408
def SEARCH_MAX_LISTS : Nat := 0x101409
def SEARCH_MAX_PROBES : Nat := 0x10140A
def SEARCH_QUERIES : Nat := 0x11B001
def SEARCH_RECORDS_SCANNED : Nat := 0x11B002
def SEARCH_SHARED_PASSES : Nat := 0x11B003
def SEARCH_REPAIR_PASSES : Nat := 0x11B004
def SEARCH_WIDEN_ROUNDS : Nat := 0x11B005
def SEARCH_SHORT_RESULTS : Nat := 0x11B006
def SEARCH_CORRUPT_EVENTS : Nat := 0x11B007
def SEARCH_COMPACTIONS : Nat := 0x11B008
def SEARCH_NAN_DROPPED : Nat := 0x11B009
def SEARCH_COMPACT_EXTENTS : Nat := 0x2D0001
def SEARCH_COMPACT_DEAD : Nat := 0x2D0002
def SEARCH_COMPACT_ENABLE : Nat := 0x2D0003
def SELECT_UNIT_K : Nat := 0x101501
def SELECT_MAX_K : Nat := 0x101502
def SELECT_RATE : Nat := 0x101503
def ZIPPER_SOURCES_PER_REGION : Nat := 0x101504
def ZIPPER_MAX_SOURCES : Nat := 0x101505
def ZIPPER_RATE : Nat := 0x101506
def SELECT_COMMANDS : Nat := 0x11C001
def SELECT_VALUES : Nat := 0x11C002
def SELECT_NANS : Nat := 0x11C003
def SELECT_SHORT_ROWS : Nat := 0x11C004
def ZIPPER_MERGES : Nat := 0x11C005
def ZIPPER_DUPLICATES : Nat := 0x11C006
def ZIPPER_CONFLICTS : Nat := 0x11C007
def ZIPPER_UNSORTED : Nat := 0x11C008
def BELT_MAX_TABLES : Nat := 0x101601
def BELT_MAX_VERSIONS : Nat := 0x101602
def BELT_MAX_DIM : Nat := 0x101603
def BELT_WINDOW : Nat := 0x101604
def BELT_OUTSTANDING : Nat := 0x101605
def BELT_HOT_CACHE_BYTES : Nat := 0x101606
def BELT_MAX_COUNT : Nat := 0x101607
def BELT_MAX_BAGS : Nat := 0x101608
def BELT_CONCURRENT : Nat := 0x101609
def BELT_GATHERS : Nat := 0x11D001
def BELT_INDICES : Nat := 0x11D002
def BELT_COALESCED : Nat := 0x11D003
def BELT_CACHE_HITS : Nat := 0x11D004
def BELT_READS : Nat := 0x11D005
def BELT_DEFAULTS : Nat := 0x11D006
def BELT_VERSIONS_FREED : Nat := 0x11D007
def BELT_TABLES : Nat := 0x11D008
def BELT_DELIVERY_HOLDS : Nat := 0x11D009
def BELT_HOT_CACHE_ENABLE : Nat := 0x2E0001
def PACK_MAX_BUDGET : Nat := 0x101701
def PACK_MAX_SEGMENTS : Nat := 0x101702
def PACK_SKETCH_BITS : Nat := 0x101703
def PACK_SKETCH_STREAM : Nat := 0x101704
def XRANK_MAX_SEQ_LEN : Nat := 0x101705
def XRANK_MAX_BATCH : Nat := 0x101706
def XRANK_COMMANDS : Nat := 0x11E001
def XRANK_PAIRS : Nat := 0x11E002
def PACK_PACKS : Nat := 0x11E003
def PACK_DUPLICATES : Nat := 0x11E004
def PACK_TRUNCATIONS : Nat := 0x11E005
def PACK_REMOTE_HANDOFFS : Nat := 0x11E006
def PACK_HANDOFF_REFUSALS : Nat := 0x11E007
def GEN_PAGE_BYTES : Nat := 0x101801
def GEN_MAX_DRAFT : Nat := 0x101802
def GEN_MAX_STOPS : Nat := 0x101803
def GEN_MAX_STOP_BYTES : Nat := 0x101804
def GEN_MAX_POSITIONS : Nat := 0x101805
def GEN_MAX_LAYERS : Nat := 0x101806
def GEN_ACCEPT_STREAM : Nat := 0x101807
def GEN_REQUESTS : Nat := 0x11F001
def GEN_STEPS : Nat := 0x11F002
def GEN_TOKENS : Nat := 0x11F003
def GEN_DRAFTED : Nat := 0x11F004
def GEN_ACCEPTED : Nat := 0x11F005
def GEN_FULL_REJECTS : Nat := 0x11F006
def GEN_BACKOFFS : Nat := 0x11F007
def GEN_STOP_HITS : Nat := 0x11F008
def GEN_PARTIAL_STOPS : Nat := 0x11F009
def GEN_PAGES_IN_USE : Nat := 0x11F00A
def GEN_PAGES_RETURNED : Nat := 0x11F00B
def GEN_LATE_PAGE_RETURNS : Nat := 0x11F00C
def SAMPLER_MAX_TOP_K : Nat := 0x101901
def SAMPLER_MAX_WINDOW : Nat := 0x101902
def GENR_ROUNDS : Nat := 0x101903
def GENR_USER_STREAMS : Nat := 0x101904
def VEIL_MAX_GRAMMARS : Nat := 0x101905
def VEIL_MAX_STATES : Nat := 0x101906
def VEIL_MASK_CACHE : Nat := 0x101907
def SAMPLER_DRAWS : Nat := 0x11F101
def SAMPLER_NAN_LOGITS : Nat := 0x11F102
def SAMPLER_NO_VALID : Nat := 0x11F103
def VEIL_MASKS_FETCHED : Nat := 0x11F104
def VEIL_CACHE_HITS : Nat := 0x11F105
def VEIL_MASK_LATE : Nat := 0x11F106
def VEIL_DRAFT_CUTS : Nat := 0x11F107
def VEIL_DEAD : Nat := 0x11F108
def VEIL_FORCED_EOS : Nat := 0x11F109
def VEIL_RESIDENT_MAP : Nat := 0x11F10A
def AEDUP_STATE : Nat := 0x120001
def AEDUP_WIDTH : Nat := 0x120002
def AEDUP_RATE : Nat := 0x120003
def AEDUP_VERSION : Nat := 0x120004
def AEDUP_FEATURES : Nat := 0x120005
def AEDUP_PEER_SESSION : Nat := 0x120006
def AEDUP_FEC_CORRECTED : Nat := 0x120007
def AEDUP_CRC_ERRORS : Nat := 0x120008
def AEDUP_REPLAYS : Nat := 0x120009
def AEDUP_RETRAINS : Nat := 0x12000A
def AEDUP_LINK_RESETS : Nat := 0x12000B
def AEDUP_TRAIN_FAILURES : Nat := 0x12000C
def AEDUP_NEG_FAILURES : Nat := 0x12000D
def AEDUP_PROTOCOL_ERRORS : Nat := 0x12000E
def AEDUP_MMIO_ERRORS : Nat := 0x12000F
def AEDUP_MAILBOX_OVERRUNS : Nat := 0x120010
def AEDUP_LOST_COMPLETIONS : Nat := 0x120011
def AEDUP_SNOOPS : Nat := 0x120012
def AEDUP_MAX_READS : Nat := 0x120101
def AEDUP_CACHE_LINES : Nat := 0x120102
def AEDUP_REPLAY_FLITS : Nat := 0x120103
def AEDUP_WINDOW_BYTES : Nat := 0x120104
def AEDUP_PROTECT : Nat := 0x120105
def AEDUP_MIN_WIDTH : Nat := 0x120106
def AEDUP_RETRAIN_REQUEST : Nat := 0x120107
def PELGAN_LINK_STATE : Nat := 0x121000
def PELGAN_DEVICE : Nat := 0x121001
def PELGAN_MANAGER_SERIAL : Nat := 0x121002
def PELGAN_FORMATION : Nat := 0x121003
def PELGAN_MEMBERS : Nat := 0x121004
def PELGAN_DIAMETER : Nat := 0x121005
def PELGAN_GROUP_VERSION : Nat := 0x121006
def PELGAN_ABORT_BOUND : Nat := 0x121007
def PELGAN_FEC_CORRECTED : Nat := 0x121008
def PELGAN_CRC_ERRORS : Nat := 0x121009
def PELGAN_REPLAYS : Nat := 0x12100A
def PELGAN_RETRAINS : Nat := 0x12100B
def PELGAN_LINK_RESETS : Nat := 0x12100C
def PELGAN_NEG_FAILURES : Nat := 0x12100D
def PELGAN_STALE_DROPS : Nat := 0x12100E
def PELGAN_ROUTE_DROPS : Nat := 0x12100F
def PELGAN_PROTOCOL_ERRORS : Nat := 0x121010
def PELGAN_REFUSED : Nat := 0x121011
def PELGAN_ABORTS_SENT : Nat := 0x121012
def PELGAN_ABORTS_RECEIVED : Nat := 0x121013
def PELGAN_UNREACHED : Nat := 0x121014
def PELGAN_LINK_LATENCY : Nat := 0x121100
def PELGAN_MAX_GROUP : Nat := 0x121101
def PELGAN_MAX_JOBS : Nat := 0x121102
def PELGAN_MAX_HOPS : Nat := 0x121103
def PELGAN_ROUTES_PER_DEST : Nat := 0x121104
def PELGAN_FORWARD_NS : Nat := 0x121105
def PELGAN_REPLAY_FLITS : Nat := 0x121106
def PELGAN_PHASE_BOUND : Nat := 0x121107
def PELGAN_GROUP_ID : Nat := 0x121108
def PELGAN_PRIORITY : Nat := 0x121109
def PELGAN_PROTECT : Nat := 0x12110A
def PELGAN_LINK_ENABLE : Nat := 0x12110B
def PELGAN_REMOTE_TIMEOUT : Nat := 0x12110C
def PELGAN_JOB (i : Nat) : Nat := 0x121200 + i
def PELGAN_CTX_JOB : Nat := 0x121300
def PELGAN_ROUTE_TABLE : Nat := 0x121400
def ID_VENDOR : Nat := 0x100001
def ID_PART : Nat := 0x100002
def ID_STEPPING : Nat := 0x100003
def ID_ARCH_GEN : Nat := 0x100004
def ID_SERIAL : Nat := 0x100005
def ID_DICT_VERSION : Nat := 0x100006
def DICT_DIRECTORY : Nat := 0x100100
def DICT_ENTRIES : Nat := 0x100101
def DEV_START_STATE : Nat := 0x110001
def DICT_REQUESTS : Nat := 0x110002
def DICT_REFUSED : Nat := 0x110003
def MGMT_MAC : Nat := 0x122001
def MGMT_PLCA_ID : Nat := 0x122002
def MGMT_PLCA_COUNT : Nat := 0x122003
def MGMT_UDP_PORT : Nat := 0x122004
def MGMT_NOTIFY : Nat := 0x122005
def MGMT_REQUESTS : Nat := 0x122006
def MGMT_DISCARDS : Nat := 0x122007
def MGMT_REPLAYED : Nat := 0x122008
def MGMT_NOTIFY_DROPS : Nat := 0x122009
def DICT_CONFIG_DONE : Nat := 0x2F0001
def OVERLAY_TABLE (i : Nat) : Nat := 0x600000 + 0x100 * i
def OVERLAY_ACTIVE : Nat := 0x6F0001
def OVERLAY_SWITCHES : Nat := 0x6F0002
def OVERLAY_EFFECTIVE : Nat := 0x6F0100
def POWER_PACKAGE_MAX_W : Nat := 0x101A01
def POWER_TDP_W : Nat := 0x101A02
def POWER_VIN_MAX_A : Nat := 0x101A03
def POWER_ZONES : Nat := 0x101A04
def COLLAR_BLOCK_STEP_MA : Nat := 0x101A05
def COLLAR_REGION_STAGES : Nat := 0x101A06
def CLOCK_REFCLK_HZ : Nat := 0x101A07
def POWER_STATE : Nat := 0x11F801
def POWER_REGION_SLEEP_MAP : Nat := 0x11F802
def POWER_VIN_MV : Nat := 0x11F803
def POWER_VIN_MA : Nat := 0x11F804
def POWER_TJ_HOT_C : Nat := 0x11F805
def POWER_ACLK_NOW : Nat := 0x11F806
def COLLAR_WAIT_NS_MAX : Nat := 0x11F807
def COLLAR_ADMISSIONS : Nat := 0x11F808
def COLLAR_STAGES : Nat := 0x11F809
def POWER_THROTTLE_EVENTS : Nat := 0x11F80A
def POWER_FAIL_EVENTS : Nat := 0x11F80B
def POWER_ERRORS : Nat := 0x11F80C
def POWER_LAST_START : Nat := 0x11F80D
def COLLAR_SLEW_LIMIT : Nat := 0x300001
def COLLAR_CURRENT_LIMIT : Nat := 0x300002
def POWER_REQUEST : Nat := 0x300003
def POWER_REGION_REQUEST : Nat := 0x300004
def POWER_TJ_THROTTLE_C : Nat := 0x300005
def POWER_TJ_TRIP_C : Nat := 0x300006
def COLLAR_STAGE_NS : Nat := 0x300007
def COLLAR_STAGE_SLEW : Nat := 0x300008
def POWER_QUICK_START : Nat := 0x300009
def POWER_FAIL_HOLD_MS : Nat := 0x30000A
def RESET_LAST_CAUSE : Nat := 0x11FA01
def RESET_WARM_RESETS : Nat := 0x11FA02
def RESET_REGION_RESETS : Nat := 0x11FA03
def RESET_STALE_REPLIES : Nat := 0x11FA04
def RESET_DRAIN_TIMEOUTS : Nat := 0x11FA05
def RESET_WATCHDOG_FIRES : Nat := 0x11FA06
def RESET_MONITOR_FIRES : Nat := 0x11FA07
def RESET_LOG_SEQ : Nat := 0x11FA08
def RESET_DRAIN_US : Nat := 0x310001
def RESET_MONITOR_US : Nat := 0x310002
def RESET_AEDUP_READ_TIMEOUT : Nat := 0x310003
def DIAG_RESET : Nat := 0xF03001
def DIAG_REGION_RESET : Nat := 0xF03002
def DIAG_ERROR_LOG : Nat := 0xF03100
def DIAG_CRASH_DUMP (i : Nat) : Nat := 0xF03200 + i
def TEST_SLICE_ACLK_CYCLES : Nat := 0x101B01
def TEST_LONG_MS : Nat := 0x101B02
def TEST_LAST_RECORD : Nat := 0x11FB00
def TEST_SLICES_RUN : Nat := 0x11FB01
def TEST_SLICES_FAILED : Nat := 0x11FB02
def TEST_SKIPPED_LIMITS : Nat := 0x11FB03
def TEST_SLICES_DEFERRED : Nat := 0x11FB04
def TEST_SWEEPS : Nat := 0x11FB05
def TEST_SHUTDOWN_STATE : Nat := 0x11FB06
def TEST_TEST_MODE : Nat := 0x11FB07
def TEST_INOP_ENABLE : Nat := 0x320001
def TEST_PER_REGION : Nat := 0x320002
def TEST_SHUTDOWN_RUN : Nat := 0x320003
def PERF_BLOCK_COUNTERS : Nat := 0x101C01
def PERF_REGION_COUNTERS : Nat := 0x101C02
def PERF_CHIP_COUNTERS : Nat := 0x101C03
def PERF_SAMPLE_SLOTS : Nat := 0x101C04
def PERF_SNAP_BEAT : Nat := 0x11FC01
def PERF_EXPORT_FAILS : Nat := 0x11FC02
def PERF_SAMPLE_COUNT (i : Nat) : Nat := 0x11FC03 + i
def PERF_SAMPLE_DROPS (i : Nat) : Nat := 0x11FC08 + i
def PERF_BLOCK_SHADOW : Nat := 0x11FD00
def PERF_REGION_SHADOW : Nat := 0x11FD01
def PERF_CHIP_SHADOW : Nat := 0x11FD02
def PERF_FREEZE : Nat := 0x330001
def PERF_INTR_ENABLE : Nat := 0x330002
def PERF_INTR_VECTOR : Nat := 0x330003
def PERF_SAMPLE_RELEASE (i : Nat) : Nat := 0x330004 + i
def PERF_EXPORT : Nat := 0x330100
def PERF_BLOCK_SELECT (i : Nat) : Nat := 0x330200 + i
def PERF_REGION_SELECT (i : Nat) : Nat := 0x330300 + i
def PERF_CHIP_SELECT (i : Nat) : Nat := 0x330400 + i
def DIAG_PERF_LIVE (i : Nat) : Nat := 0xF04100 + i
def DIAG_PERF_SAMPLES (i : Nat) : Nat := 0xF04200 + i
def SEC_KEY_SLOTS : Nat := 0x101D01
def SEC_IDENTITY_PUBKEY : Nat := 0x101D02
def SEC_IDENTITY_CERT : Nat := 0x101D03
def SEC_SLOT_STATUS : Nat := 0x11FE00
def SEC_TAG_FAILURES : Nat := 0x11FE01
def SEC_KEY_LOADS : Nat := 0x11FE02
def SEC_ATTEST_REPORT : Nat := 0x11FE03
def SEC_KEY_LOAD : Nat := 0x340001
def SEC_KEY_CLEAR : Nat := 0x340002
def SEC_TIER_KEY_SOURCE : Nat := 0x340003
def SEC_LINK_SLOT : Nat := 0x340004
def SEC_ATTEST_NONCE : Nat := 0x340005

end Sys2Proof.Key
end

