-- ==== Sys2Proof/Machine/Flags.lean ====
section
/-! DEFINITION. Status codes (R8), the value of an entry in force (R376), and the alert and fatal outputs with the
notifications they raise (R372). -/

namespace Sys2Proof.Machine

/-! ### Status codes (Table 0.5 and the chapters that add to it) -/

namespace Code

def OK : Nat := 0x0000
def OK_SHORT : Nat := 0x0001
def OK_TRUNCATED : Nat := 0x0002
def OK_NOOP : Nat := 0x0003
def BAD_OPCODE : Nat := 0x0101
def BAD_FIELD : Nat := 0x0102
def RESERVED_NONZERO : Nat := 0x0103
def VERSION_UNSUPPORTED : Nat := 0x0104
def QUEUE_FULL : Nat := 0x0105
def ARRAY_PROGRAM_ERROR : Nat := 0x0106
def ENTRY_UNKNOWN : Nat := 0x0107
def ACCESS_DENIED : Nat := 0x0108
def NOT_READY : Nat := 0x0109
def CTX_FAULT : Nat := 0x0201
def CTX_CANCELLED : Nat := 0x0202
def CTX_TORN_DOWN : Nat := 0x0203
def GEOMETRY_MISMATCH : Nat := 0x0204
def CTX_HUNG : Nat := 0x0205
def EPOCH_RETIRED : Nat := 0x0301
def INDEX_CORRUPT : Nat := 0x0302
def LIST_UNSORTED : Nat := 0x0303
def PACK_OVER_BUDGET : Nat := 0x0304
def GRAMMAR_DEAD : Nat := 0x0401
def MASK_LATE : Nat := 0x0402
def TOKEN_INVALID : Nat := 0x0403
def POOL_EXHAUSTED : Nat := 0x0501
def ECC_UNCORRECTABLE : Nat := 0x0502
def MIGRATION_ABORTED : Nat := 0x0503
def JOB_ABORTED_PEER : Nat := 0x0601
def LINK_DOWN : Nat := 0x0602
def BEAT_LOST : Nat := 0x0603
def HANDOFF_REFUSED : Nat := 0x0604
def DEVICE_UNREACHABLE : Nat := 0x0605
def TEST_SKIPPED_LIMITS : Nat := 0x0701
def POWER_STATE_DENIED : Nat := 0x0702

end Code

/-- A status of class 0x00xx means success (R9). -/
def isSuccess (status : Nat) : Bool := status / 256 == 0

/-! ### Entries -/

/-- A row holds a key. -/
def rowHas (k : Nat) (r : EntryRow) : Bool :=
  r.index == k / 256 && r.subLo ≤ k % 256 && k % 256 ≤ r.subHi

/-- The row of an entry, if the device has it. -/
def rowOf (k : Nat) : Option EntryRow := entryRows.find? (rowHas k)

/-- The default of an entry. -/
def defaultOf (k : Nat) : Nat :=
  match rowOf k with
  | some r => r.dflt
  | none => 0

/-- The base value of an entry: the value last written to it, or its default. -/
def reg (s : State) (k : Nat) : Nat := (tabGet s.regs k).getD (defaultOf k)

/-- The state with another base value of an entry. -/
def setReg (s : State) (k v : Nat) : State := { s with regs := tabSet s.regs k v }

/-- A counter advanced; it counts modulo its width. -/
def bump (s : State) (k n : Nat) : State :=
  let w := match rowOf k with
    | some r => 8 * r.size
    | none => 64
  setReg s k ((reg s k + n) % 2 ^ w)

/-- The records of an overlay table (Table 18.11): the value that it sets an entry to, if it does. -/
def overlaySets (table k : Nat) : Nat → Option Nat
  | 0 => none
  | n + 1 =>
    let r := field table (128 * n) 128
    if field r 112 16 != 0 && field r 104 24 == k then some (field r 0 64) else overlaySets table k n

/-- One overlay's step in the computation of a value in force (R376). -/
def mergeStep (m : Merge) (v x : Nat) : Nat :=
  match m with
  | .none => v
  | .replace => x
  | .max => Nat.max v x
  | .min => Nat.min v x
  | .or => v ||| x

/-- The value of an overlayable entry over the overlays from `o` on. -/
def overlayFold (s : State) (m : Merge) (k : Nat) : Nat → Nat → Nat → Nat
  | 0, _, v => v
  | n + 1, o, v =>
    let v' :=
      if bitOf (reg s Key.OVERLAY_ACTIVE) o then
        match overlaySets (reg s (Key.OVERLAY_TABLE o)) k 128 with
        | some x => mergeStep m v x
        | none => v
      else v
    overlayFold s m k n (o + 1) v'

/-- The merge rule of an entry. -/
def mergeOf (k : Nat) : Merge :=
  match rowOf k with
  | some r => r.merge
  | none => .none

/-- The value in force of an entry (R376, R377): the overlays are visited in the order RETRIEVE, GENERATE, INGEST,
MAINTAIN. -/
def inForce (s : State) (k : Nat) : Nat :=
  match mergeOf k with
  | .none => reg s k
  | m => overlayFold s m k 4 0 (reg s k)

/-! ### Outputs -/

/-- A message flit of `slots` slots (flits on Pelgan) leaves on channel `vc` of a link end: it takes the next SEQ and
spends credits.  Each message is counted as a flit of its own. -/
def spend (e : LinkEnd) (vc slots : Nat) : LinkEnd :=
  { e with
    sendSeq := (e.sendSeq + 1) % 1024
    sealedOut := e.sealedOut + flagBit e.protect
    credits := e.credits.mapIdx (fun i c => if i == vc then c - slots else c) }

/-- Slots of the writes of a range: a header for each line, a slot for each 16-byte chunk (Table 16.6). -/
def writeSlots (a n : Nat) : Nat :=
  if n = 0 then 0 else ((a + n - 1) / 128 - a / 128 + 1) + ((a + n - 1) / 16 - a / 16 + 1)

/-- The virtual channel of a Pelgan opcode, in the order CTL, RSP, REQ (Table 17.4). -/
def messageChannel (opcode : Nat) : Nat :=
  if opcode == 0x03 || opcode == 0x04 then 1
  else if opcode == 0x01 || opcode == 0x02 || opcode == 0x10 || opcode == 0x11 then 2
  else 0

/-- What a message costs the link it leaves on (R24, R333, R345). -/
def spendFor (s : State) (o : Out) : State :=
  let onAedup (vc n : Nat) : State := { s with aedup := { s.aedup with link := spend s.aedup.link vc n },
                                               perf := { s.perf with sentAedup := s.perf.sentAedup + 1 } }
  match o with
  | .aedupWrite a n => onAedup 2 (writeSlots a n)
  | .aedupRead _ _ _ => onAedup 1 1
  | .aedupIntr _ => onAedup 2 1
  | .snpRspI _ => onAedup 3 1
  | .mmioData _ _ => onAedup 3 2
  | .message p opcode _ _ _ =>
    { s with pelgan := { s.pelgan with links := tabUpd s.pelgan.links p (fun e => spend e (messageChannel opcode) 1) },
             perf := { s.perf with sentPelgan := s.perf.sentPelgan + 1 } }
  | _ => s

/-- A link whose count of sealed flits has reached 2^48 retrains (R440). -/
def sealLimit (s : State) : State :=
  if s.aedup.link.state == .active && 2 ^ 48 ≤ s.aedup.link.sealedOut then
    setReg (bump { s with aedup := { s.aedup with link := { s.aedup.link with state := .retrain, replays := 0 } } }
      Key.AEDUP_RETRAINS 1) Key.AEDUP_STATE 6
  else match s.pelgan.links.find? (fun p => p.2.state == .active && 2 ^ 48 ≤ p.2.sealedOut) with
    | some (p, e) =>
      setReg (bump { s with pelgan := { s.pelgan with
        links := tabSet s.pelgan.links p { e with state := .retrain, replays := 0 } } } Key.PELGAN_RETRAINS 1)
        Key.PELGAN_LINK_STATE (setField (reg s Key.PELGAN_LINK_STATE) (8 * p) 8 6)
    | none => s

/-- Something sent by the block. -/
def send (s : State) (o : Out) : State :=
  let t := spendFor s o
  sealLimit { t with out := o :: t.out }

/-- The start-up state as DEV.START_STATE codes it. -/
def startCode : StartState → Nat
  | .off => 0
  | .powerGood => 1
  | .identify => 2
  | .train => 3
  | .configure => 4
  | .ready => 5

/-- A NOTIFY event (R372, Table 18.7): sent when its bit is set in the value in force of MGMT.NOTIFY, at most 64 in any
second; the excess is counted. -/
def notify (s : State) (event key detail : Nat) : State :=
  if bitOf (inForce s Key.MGMT_NOTIFY) event then
    let recent := s.dict.notifyTimes.filter (fun t => s.hem.timeNs < t + 1000000000)
    if recent.length < 64 then
      let n := s.dict.notifySeq
      send { s with dict := { s.dict with
              notifySeq := (n + 1) % 2 ^ 32, notifyTimes := s.hem.timeNs :: recent } }
        (.notify n key event (reg s Key.HEM_BEAT_NUMBER) detail)
    else bump s Key.MGMT_NOTIFY_DROPS 1
  else s

/-- The alert output is asserted by a cause. -/
def assertAlert (s : State) (c : AlertCause) : State :=
  if s.alerts.contains c then s
  else
    let s1 := { s with alerts := c :: s.alerts }
    if s.alerts.isEmpty then notify s1 0 Key.DEV_START_STATE (startCode s.start) else s1

/-- A cause no longer holds the alert output; the output is released when no cause is left. -/
def releaseAlert (s : State) (c : AlertCause) : State :=
  { s with alerts := s.alerts.filter (fun d => d != c) }

end Sys2Proof.Machine
end

