-- ==== Sys2Proof/Machine/Count.lean ====
section
/-! DEFINITION. Performance counters and samples (chapter 22): the select words, what an event adds to which counter, and
the sample records it leaves. -/

namespace Sys2Proof.Machine

/-! ### Select words (Table 22.2) -/

def selPeriod (w : Nat) : Nat := field w 32 32
def selEnable (w : Nat) : Bool := bitOf w 31
def selFilter (w : Nat) : Bool := bitOf w 30
def selContext (w : Nat) : Nat := field w 16 12
def selEvent (w : Nat) : Nat := field w 0 12

/-- The events of Table 22.3. -/
def eventListed (e : Nat) : Bool :=
  (0x101 ≤ e && e ≤ 0x10F) || (0x201 ≤ e && e ≤ 0x218) || (0x301 ≤ e && e ≤ 0x309) || (0x380 ≤ e && e ≤ 0x382) ||
    e == 0x390 || e == 0x3A0 || e == 0x3A1 || e == 0x3B0 || e == 0x3B1

/-- A select word is refused (R421): `bank` is 1 block, 2 region, 3 chip. -/
def selectBad (bank w : Nat) : Bool :=
  (selEvent w != 0 && (!eventListed (selEvent w) || selEvent w / 256 != bank)) || field w 28 2 != 0 ||
    field w 12 4 != 0 || (bank == 1 && selFilter w)

/-- Events whose counts are times, or traffic inside the device: the spec gives them no number that the commands decide. -/
def timedEvent (e : Nat) : Bool :=
  [0x101, 0x103, 0x104, 0x107, 0x109, 0x10B, 0x10E, 0x201, 0x213, 0x214, 0x215, 0x216, 0x218].contains e

/-- Skid events (R430). -/
def skidEvent (e : Nat) : Bool := 0x380 ≤ e

/-- The unit of an event in the coding of Table 20.4. -/
def eventUnit (e : Nat) : Nat :=
  if e ≤ 0x107 then 2 else if e ≤ 0x10B then 3 else if e ≤ 0x10D then 1 else if e == 0x10E then 2
  else if e == 0x10F then 3 else if e ≤ 0x204 then 13 else if e ≤ 0x206 then 6 else if e ≤ 0x208 then 5
  else if e ≤ 0x20A then 4 else if e ≤ 0x20D then 7 else if e == 0x20E then 8 else if e ≤ 0x210 then 9
  else if e == 0x211 then 10 else if e == 0x212 then 11 else if e ≤ 0x215 then 14 else if e == 0x216 then 17
  else if e == 0x217 then 15 else if e == 0x218 then 13 else if e == 0x301 then 16 else if e ≤ 0x304 then 18
  else if e ≤ 0x307 then 19 else if e == 0x308 then 16 else if e == 0x309 then 19 else if e ≤ 0x390 then 20
  else if e ≤ 0x3A1 then 19 else 6

/-- What a sample tells of the event: instance, address, instruction index and virtual block. -/
structure Trace where
  inst   : Nat := 0
  addr   : Nat := 0
  instr  : Nat := 0
  vblock : Nat := 0xFFFF
  /-- Distance from one of several events' addresses to the next. -/
  step   : Nat := 0

/-- Counters stop while PERF.FREEZE is 1, and in test mode (R427, Table 22.7). -/
def frozen (s : State) : Bool := reg s Key.PERF_FREEZE == 1 || reg s Key.TEST_TEST_MODE == 1

/-! ### Samples (R429 to R431) -/

/-- The sample interrupt, when it is enabled and Aedup carries interrupts (R430). -/
def sampleInterrupt (s : State) : State :=
  if reg s Key.PERF_INTR_ENABLE == 1 && bitOf (reg s Key.AEDUP_FEATURES) 2 && s.aedup.link.state == .active then
    send s (.aedupIntr (reg s Key.PERF_INTR_VECTOR))
  else s

/-- A sample record (Table 22.6); PHASE and LATENCY are times, which the model leaves open. -/
def sampleRecord (s : State) (ctx : Option Nat) (event counter : Nat) (skid : Bool) (t : Trace) : Nat :=
  let tag := match ctx with
    | some c => match tabGet s.ctxs c with
      | some x => x.genTag
      | none => 0
    | none => 0
  t.addr % 2 ^ 64 * 2 ^ 448 + reg s Key.HEM_BEAT_NUMBER * 2 ^ 384 +
    Config.freeValue s.freeCount % 2 ^ 16 * 2 ^ 368 + ctx.getD 0xFFFF * 2 ^ 352 + tag * 2 ^ 344 +
    eventUnit event * 2 ^ 336 + t.inst % 2 ^ 16 * 2 ^ 320 + t.instr % 2 ^ 32 * 2 ^ 288 + t.vblock % 2 ^ 16 * 2 ^ 272 +
    Config.freeValue (s.freeCount + 1) % 2 ^ 32 * 2 ^ 240 + event * 2 ^ 228 + counter * 2 ^ 220 +
    flagBit skid * 2 ^ 8 + 1

/-- A sample written to one of the five buffers, or dropped and counted when 1,024 are unreleased (R431). -/
def takeSample (s : State) (buffer : Nat) (ctx : Option Nat) (event counter : Nat) (skid : Bool) (t : Trace) : State :=
  let buffer := buffer % 5
  let count := reg s (Key.PERF_SAMPLE_COUNT buffer)
  let fill := count - reg s (Key.PERF_SAMPLE_RELEASE buffer)
  if 1024 ≤ fill then bump s (Key.PERF_SAMPLE_DROPS buffer) 1
  else
    let s1 := bump s (Key.PERF_SAMPLE_COUNT buffer) 1
    let s2 := { s1 with
      freeCount := s.freeCount + 2,
      perf := { s1.perf with samples := (tabSet s1.perf.samples (buffer * 1024 + count % 1024)
        (sampleRecord s ctx event counter skid t)) } }
    if 768 ≤ fill + 1 && !s2.perf.filled.contains buffer then
      sampleInterrupt { s2 with perf := { s2.perf with filled := buffer :: s2.perf.filled } }
    else s2

/-- Multiples of PERIOD that a count passes. -/
def multiples (period old new : Nat) : Nat := if period = 0 then 0 else new / period - old / period

/-- The samples of a count that goes from `old` to `new`: each records the event that reached its multiple of PERIOD. -/
def takeSamples (s : State) (buffer : Nat) (ctx : Option Nat) (event counter period old new : Nat) (t : Trace) : State :=
  (List.range (multiples period old new)).foldl (fun u m =>
    takeSample u buffer ctx event counter false
      { t with addr := t.addr + t.step * ((old / period + m + 1) * period - old - 1) }) s

/-! ### Counting (R420 to R424) -/

/-- The context that runs on a block. -/
def runnerOf (s : State) (b : Nat) : Option Nat :=
  (s.ctxs.find? (fun p => p.2.state == .running && p.2.quads.contains (b / 4))).map Prod.fst

/-- The counters of a bank that select an event: number and select word.  A select that was never written selects
nothing. -/
def selecting (s : State) (index event : Nat) : List (Nat × Nat) :=
  (s.regs.filter (fun p => p.1 / 256 == index && selEnable p.2 && selEvent p.2 == event)).map (fun p => (p.1 % 256, p.2))

/-- The counters that an event advances; none while the counters stand still. -/
def countersFor (s : State) (index event : Nat) : List (Nat × Nat) :=
  match selecting s index event with
  | [] => []
  | cs => if frozen s then [] else cs

/-- A block event adds `n` to the block's counters that select it, while a context is RUNNING on the block (R424). -/
def countBlock (s : State) (b event n : Nat) (t : Trace) : State :=
  (countersFor s 0x3302 event).foldl (fun u p => match runnerOf s b with
    | none => u
    | some c =>
      let old := (tabGet u.perf.block (b * 8 + p.1)).getD 0
      let v := { u with perf := { u.perf with block := tabSet u.perf.block (b * 8 + p.1) ((old + n) % 2 ^ 64) } }
      takeSamples v (b / 300) (some c) event p.1 (selPeriod p.2) old (old + n) { t with inst := b }) s

/-- A filter passes an event that is attributed to its context (R422). -/
def filterPasses (w : Nat) (ctx : Option Nat) : Bool := !selFilter w || ctx == some (selContext w)

/-- A region event adds `n` to the region's counters that select it. -/
def countRegion (s : State) (r event n : Nat) (t : Trace) : State :=
  (countersFor s 0x3303 event).foldl (fun u p =>
    if filterPasses p.2 s.perf.actor then
      let old := (tabGet u.perf.region (r * 32 + p.1)).getD 0
      let v := { u with perf := { u.perf with region := tabSet u.perf.region (r * 32 + p.1) ((old + n) % 2 ^ 64) } }
      takeSamples v r s.perf.actor event p.1 (selPeriod p.2) old (old + n) t
    else u) s

/-- A chip event adds `n` to the chip counters that select it.  The sample of a skid event is captured later. -/
def countChip (s : State) (event n : Nat) (t : Trace) : State :=
  (countersFor s 0x3304 event).foldl (fun u p =>
    if filterPasses p.2 s.perf.actor then
      let old := (tabGet u.perf.chip p.1).getD 0
      let v := { u with perf := { u.perf with chip := tabSet u.perf.chip p.1 ((old + n) % 2 ^ 64) } }
      if skidEvent event then { v with perf := { v.perf with skid := v.perf.skid ++ List.replicate (multiples (selPeriod p.2) old (old + n)) p.1 } }
      else takeSamples v 4 s.perf.actor event p.1 (selPeriod p.2) old (old + n) t
    else u) s

/-- Every counter of a bank's selects that selects a timed event, with its number and select word. -/
def timedSelects (s : State) (index : Nat) : List (Nat × Nat) :=
  if frozen s then []
  else (s.regs.filter (fun p => p.1 / 256 == index && selEnable p.2 && timedEvent (selEvent p.2))).map
    (fun p => (p.1 % 256, p.2))

/-- A counter of timed events advances by an open value, with the samples that this brings. -/
def advanceOne (s : State) (tab : Tab Nat) (key buffer : Nat) (ctx : Option Nat) (p : Nat × Nat) (t : Trace) :
    Tab Nat × State :=
  let old := (tabGet tab key).getD 0
  let n := Config.freeValue s.freeCount
  (tabSet tab key ((old + n) % 2 ^ 64),
    takeSamples { s with freeCount := s.freeCount + 1 } buffer ctx (selEvent p.2) p.1 (selPeriod p.2) old (old + n) t)

/-- The counters that count times, or traffic inside the device, advance by open values: the model brings them up to date
where their values can be seen. -/
def advanceTimed (s : State) : State :=
  let s1 := (timedSelects s 0x3302).foldl (fun t p => (List.range 1200).foldl (fun u b => match runnerOf u b with
    | some c =>
      let a := advanceOne u u.perf.block (b * 8 + p.1) (b / 300) (some c) p { inst := b }
      { a.2 with perf := { a.2.perf with block := a.1 } }
    | none => u) t) s
  (timedSelects s1 0x3303).foldl (fun t p => (List.range 4).foldl (fun u r =>
    let a := advanceOne u u.perf.region (r * 32 + p.1) r (if selFilter p.2 then some (selContext p.2) else none) p
      { inst := r }
    { a.2 with perf := { a.2.perf with region := a.1 } }) t) s1

/-- The region whose engines and sequencer serve a context's commands: that of the lowest-numbered quad of its partition
(R23), or the one that read the command. -/
def engineRegion (s : State) (ctx queue : Nat) : Nat :=
  match tabGet s.ctxs ctx with
  | some x => match x.quads.head? with
    | some q => q / 75
    | none => queue % 4
  | none => queue % 4

/-- An event of the engine that serves a command. -/
def tallyJob (s : State) (j : Job) (event n : Nat) : State :=
  let r := engineRegion s j.ctx j.queue
  countRegion s r event n { inst := r, instr := j.cmdId }

end Sys2Proof.Machine
end

