-- ==== Sys2Proof/Machine/Ops.lean ====
section
/-! DEFINITION. The operations the families share: geometry, contexts, commands, the error log, jobs across devices,
teardown, quarantine and the chip resets. -/

namespace Sys2Proof.Machine

/-! ### Geometry (R12) -/

def blockCount : Nat := 1200
def quadCount : Nat := 300
def pocketBytes : Nat := 4194304
def unitBytes : Nat := 2097152
def stripeBytes : Nat := 65536
def companionBase : Nat := 2 ^ 63
def objectSpaceEnd : Nat := 0xFF0000000000
def crashDumpBase : Nat := 0xFF0004000000

/-- The region of a block. -/
def regionOfBlock (b : Nat) : Nat := b / 300

/-- The region of a quad. -/
def regionOfQuad (q : Nat) : Nat := q / 75

/-- The number of the current beat. -/
def beatNow (s : State) : Nat := reg s Key.HEM_BEAT_NUMBER

/-- The device is READY and its engines run. -/
def running (s : State) : Bool := s.start == .ready && !s.chip.stopped

/-- PWR_FAIL_N is low (R390). -/
def powerFailing (s : State) : Bool := s.alerts.contains .powerFail

/-- The array of a block is awake: it can issue rows (R115). -/
def arrayAwake (s : State) (b : Nat) : Bool :=
  match tabGet s.power.blocks b with
  | some .awake => true
  | some .asking => true
  | _ => false

/-! ### Regions asleep (R388, R463) -/

/-- POWER.STATE shows TRANSITION while an entry or an exit is in progress (R388). -/
def showPower (s : State) : State :=
  setReg s Key.POWER_STATE (if s.power.entering.isSome || !s.power.waking.isEmpty then 3 else s.power.level)

/-- A region sleeps or wakes, so it does no work. -/
def regionAsleep (s : State) (r : Nat) : Bool :=
  bitOf (reg s Key.POWER_REGION_SLEEP_MAP) r || s.power.waking.contains r

/-- A region can be handed work: it is awake and not being reset. -/
def regionAwake (s : State) (r : Nat) : Bool := !regionAsleep s r && !s.chip.closed.contains r

/-- A sleeping region is asked to wake; regions wake in order of request (R387, R463). -/
def askWake (s : State) (r : Nat) : State :=
  if bitOf (reg s Key.POWER_REGION_SLEEP_MAP) r then
    let s1 := setReg s Key.POWER_REGION_SLEEP_MAP (setField (reg s Key.POWER_REGION_SLEEP_MAP) r 1 0)
    showPower { s1 with power := { s1.power with waking := s1.power.waking ++ [r] } }
  else s

/-- A command needs a region: if it sleeps, it wakes and its bit in POWER.REGION_REQUEST clears (R463). -/
def needRegion (s : State) (r : Nat) : State :=
  if bitOf (reg s Key.POWER_REGION_SLEEP_MAP) r then
    askWake (setReg s Key.POWER_REGION_REQUEST (setField (reg s Key.POWER_REGION_REQUEST) r 1 0)) r
  else s

/-! ### Blocks and quads -/

/-- A block is available: its map bit is set and no quarantine waits to clear it (R16). -/
def blockAvailable (s : State) (b : Nat) : Bool :=
  bitOf (reg s Key.CHIP_BLOCK_MAP) b && !s.chip.fenced.contains b

/-- All four blocks of a quad are available. -/
def quadAvailable (s : State) (q : Nat) : Bool :=
  blockAvailable s (4 * q) && blockAvailable s (4 * q + 1) && blockAvailable s (4 * q + 2) &&
    blockAvailable s (4 * q + 3)

/-- The quads whose four blocks have their bits set in a block map. -/
def quadsOfMap (map : Nat) : Nat :=
  ((List.range quadCount).filter (fun q => field map (4 * q) 4 == 15)).length

/-! ### The error log (R405, Table 20.4) -/

/-- One error-log entry; the ring keeps the newest 4,096.  Its PHASE is a time, which the model leaves open. -/
def logError (s : State) (unit : LogUnit) (inst status ctx : Nat) (action : LogAction) (detail : Nat) : State :=
  let n := (reg s Key.RESET_LOG_SEQ + 1) % 2 ^ 32
  let tag := match tabGet s.ctxs ctx with
    | some x => x.genTag
    | none => 0
  let e : LogEntry := ⟨beatNow s, Config.freeValue s.freeCount % 65536, status, ctx, tag, unit, inst, action, detail, n⟩
  setReg { s with log := (e :: s.log).take 4096, freeCount := s.freeCount + 1 } Key.RESET_LOG_SEQ n

/-- No context: the CONTEXT of an error-log entry that names none. -/
def noCtx : Nat := 0xFFFF

/-! ### Contexts -/

/-- The entry of a context; a context that was never allocated is FREE. -/
def ctxOf (s : State) (c : Nat) : Ctx := (tabGet s.ctxs c).getD {}

/-- The state with another entry of a context. -/
def setCtx (s : State) (c : Nat) (x : Ctx) : State := { s with ctxs := tabSet s.ctxs c x }

/-- The state with a change of a context's entry. -/
def updCtx (s : State) (c : Nat) (f : Ctx → Ctx) : State := setCtx s c (f (ctxOf s c))

/-- A progress event of a context (R402). -/
def progressOf (s : State) (c : Nat) : State :=
  match tabGet s.ctxs c with
  | some x => setCtx s c { x with progress := true, dogCount := 0 }
  | none => s

/-- The context holds quads (Table 4.2). -/
def holdsQuads (x : Ctx) : Bool := !x.quads.isEmpty

/-- The quads that a context holds or that return at the next boundary. -/
def quadsHeld (s : State) : List Nat := (s.ctxs.map (fun p => p.2.quads)).flatten ++ s.chip.quadsDue

/-- The blocks of a context's partition in logical order (R78). -/
def blocksOf (x : Ctx) : List Nat := (x.quads.map (fun q => [4 * q, 4 * q + 1, 4 * q + 2, 4 * q + 3])).flatten

/-- The physical block of a logical block. -/
def physBlock (x : Ctx) (i : Nat) : Option Nat :=
  match x.quads[i / 4]? with
  | some q => some (4 * q + i % 4)
  | none => none

/-! ### Commands -/

/-- The state with a change of a command. -/
def updJob (s : State) (id : Nat) (f : Job → Job) : State := { s with jobs := tabUpd s.jobs id f }

/-- A command's outcome is decided; its completion can be written (R61). -/
def finish (s : State) (id status result : Nat) : State :=
  match tabGet s.jobs id with
  | some j =>
    let s1 := updJob s id (fun j => { j with phase := .done status result })
    let s2 := if tabHas s1.array.runs id then
        { s1 with array := { runs := tabDel s1.array.runs id,
                             lastEnd := tabSet s1.array.lastEnd j.ctx (beatNow s) } }
      else s1
    progressOf { s2 with queries := tabDel s2.queries id } j.ctx
  | none => s

/-- The command has no outcome yet. -/
def openJob (j : Job) : Bool :=
  match j.phase with
  | .done _ _ => false
  | _ => true

/-- The admitted commands of a context. -/
def jobsOf (s : State) (c : Nat) : List (Nat × Job) := s.jobs.filter (fun p => p.2.ctx == c)

/-- The open commands of a context. -/
def openJobsOf (s : State) (c : Nat) : List (Nat × Job) := (jobsOf s c).filter (fun p => openJob p.2)

/-- A command is admitted and has no outcome yet. -/
def isOpen (s : State) (id : Nat) : Bool :=
  match tabGet s.jobs id with
  | some j => openJob j
  | none => false

/-- An open value of the spec's: the count of values taken goes up. -/
def takeFree (s : State) : Nat × State := (Config.freeValue s.freeCount, { s with freeCount := s.freeCount + 1 })

/-- A value drawn from the DRBG, which is seeded again after every 2^20 requests (R433). -/
def drawSecret (s : State) : Nat × State :=
  let f := takeFree s
  (f.1, { f.2 with sec := { f.2.sec with drbg := some ((f.2.sec.drbg.getD 0 + 1) % 2 ^ 20) } })

/-! ### Jobs across devices (R353, R356) -/

/-- The entry of a job (Table 17.8). -/
def jobEntry (s : State) (j : Nat) : Nat := reg s (Key.PELGAN_JOB j)
def jobState (e : Nat) : Nat := field e 8 8
def jobGen (e : Nat) : Nat := field e 16 8
def jobMember (e d : Nat) : Bool := bitOf e (128 + d)

/-- The job a context is bound to (R354). -/
def boundJob (s : State) (c : Nat) : Option Nat :=
  let j := field (reg s Key.PELGAN_CTX_JOB) (16 * c) 16
  if j < 255 then some j else none

/-- The context bound to a job here, among those the device knows. -/
def ctxOfJob (s : State) (j : Nat) : Option Nat :=
  (tabKeys s.ctxs).find? (fun c => boundJob s c == some j)

/-- A link carries the group's traffic: it is ACTIVE and both ends carry the same non-zero GROUP_ID (R344, R348). -/
def groupLink (s : State) (l : Nat) : Bool :=
  match tabGet s.pelgan.links l with
  | some e => e.state == .active && reg s Key.PELGAN_GROUP_ID != 0 &&
      tabGet s.pelgan.peerGroup l == some (reg s Key.PELGAN_GROUP_ID)
  | none => false

/-- The group links, in rising order of port. -/
def groupLinks (s : State) : List Nat := (tabKeys s.pelgan.links).filter (groupLink s)

/-- An abort flit on every group link but one (R356). -/
def sendAbort (s : State) (origin job gen cause : Nat) (except : Option Nat) : State :=
  ((groupLinks s).filter (fun l => some l != except)).foldl
    (fun t l => send t (.abort l origin job gen cause)) s

/-- The device begins an abort: the job becomes ABORTED, the flits leave, and their repeats are due (R356). -/
def beginAbort (s : State) (job cause : Nat) : State :=
  let e := jobEntry s job
  if jobState e == 1 then
    let s1 := setReg s (Key.PELGAN_JOB job) (setField e 8 8 2)
    let own := reg s Key.PELGAN_DEVICE
    let s2 := sendAbort s1 own job (jobGen e) cause none
    let s3 := countChip (bump s2 Key.PELGAN_ABORTS_SENT 1) 0x309 (groupLinks s1).length {}
    { s3 with pelgan := { s3.pelgan with
        repeats := ⟨own, job, jobGen e, cause, 100⟩ :: s3.pelgan.repeats,
        seen := (job, jobGen e) :: s3.pelgan.seen } }
  else s

/-! ### Teardown (R91, R399) -/

/-- The unit of the error log that a teardown's status points to, where no other is known (Table 20.4). -/
def teardownUnit (status : Nat) : LogUnit :=
  if status == Code.BEAT_LOST then .hem
  else if status == Code.JOB_ABORTED_PEER then .pelgan
  else if status == Code.CTX_TORN_DOWN then .regionSequencer
  else if status == Code.ECC_UNCORRECTABLE then .cloak
  else .blockSequencer

/-- Step 1 of a teardown: the context is fenced with a cause; a second fault is only logged (R401).  `blame` is the
command that caused it, and `after` tells of a teardown that frees the context, which is no error. -/
def fenceBy (s : State) (c status : Nat) (blame : Option Nat) (after : Bool) (unit : LogUnit) (inst : Nat) : State :=
  let x := ctxOf s c
  match x.state with
  | .free => s
  | .faulted => logError s unit inst status c .teardown 0
  | .tearingDown => logError s unit inst status c .teardown 0
  | _ =>
    let s1 := if after then s else logError s unit inst status c .teardown 0
    let s2 := setCtx s1 c { x with
      state := .tearingDown, genTag := (x.genTag + 1) % 256, lastStatus := status, freeAfter := after,
      blame := blame.map (fun j => (j, status)), preempt := false, leaving := false, save := .none, hung := false }
    let s3 := if status == Code.CTX_HUNG then bump s2 Key.CTX_HUNG 1 else s2
    match boundJob s c with
    | some j => beginAbort s3 j status
    | none => s3

def fence (s : State) (c status : Nat) (blame : Option Nat) (after : Bool) : State :=
  fenceBy s c status blame after (teardownUnit status) 0

/-- A context is faulted by a command, which completes with the status when the drain ends. -/
def faultJob (s : State) (id c status : Nat) : State := fence s c status (some id) false

/-- A context is faulted with one status by a command that completes with another (Table 1.4). -/
def faultJobAs (s : State) (id c ctxStatus jobStatus : Nat) : State :=
  let s1 := fence s c ctxStatus (some id) false
  match (ctxOf s c).state, (ctxOf s1 c).blame with
  | .tearingDown, _ => s1
  | _, some (j, _) => updCtx s1 c (fun x => { x with blame := some (j, jobStatus) })
  | _, none => s1

/-- A context is faulted by the device itself. -/
def faultCtx (s : State) (c status : Nat) : State := fence s c status none false

/-- Units of HBM that a context owns. -/
def unitsOwned (s : State) (c : Nat) : List Nat :=
  (s.mem.units.filter (fun p => p.2.owner == .kv c || p.2.owner == .saveArea c)).map Prod.fst

/-- Units of a context's KV pages. -/
def kvUnitsOf (s : State) (c : Nat) : List Nat :=
  (s.mem.units.filter (fun p => p.2.owner == .kv c)).map Prod.fst

/-- Units of the device's own use are given back: their contents go, and their capacity returns at step 2 of the next
boundary. -/
def releaseUnits (s : State) (us : List Nat) : State :=
  us.foldl (fun t u =>
    let back := match tabGet t.mem.units u with
      | some x => match x.home with
        | .hbm r => [(r, 1)]
        | _ => []
      | none => []
    { t with mem := { t.mem with
        units := tabDel t.mem.units u, dev := memClear t.mem.dev (u * unitBytes) unitBytes,
        freeing := t.mem.freeing ++ back } }) s

/-- GEN.PAGES_IN_USE follows the held pages. -/
def reportPages (s : State) : State := setReg s Key.GEN_PAGES_IN_USE s.kv.length

/-- Every page of a context returns (R288). -/
def dropPages (s : State) (c : Nat) : State :=
  let n := (s.kv.filter (fun p => p.2.ctx == c)).length
  reportPages (bump { s with kv := s.kv.filter (fun p => p.2.ctx != c) } Key.GEN_PAGES_RETURNED n)

/-- The drain of a teardown ends (R399): the command that caused it takes its own status, the others CTX_TORN_DOWN, and the
CTX_FREE that caused it OK; one admitted meanwhile waits for the release (Table 20.2).  The context is FAULTED or FREE; its
quads and pages return at step 2 of the next boundary. -/
def drainEnd (s : State) (c : Nat) : State :=
  let x := ctxOf s c
  if x.state == .tearingDown then
    let s1 := ((openJobsOf s c).filter (fun p => p.2.opcode != 0x21 || x.freeAfter)).foldl (fun t p =>
      let st := match x.blame with
        | some (j, st) => if j == p.1 then st else Code.CTX_TORN_DOWN
        | none => Code.CTX_TORN_DOWN
      let st' := if p.2.opcode == 0x21 && x.freeAfter then Code.OK else st
      finish t p.1 st' 0) s
    let due := if x.freeAfter then unitsOwned s c else kvUnitsOf s c
    let s2 := dropPages (releaseUnits { s1 with chip := { s1.chip with quadsDue := s1.chip.quadsDue ++ x.quads } } due) c
    let fresh : Ctx := { genTag := x.genTag, used := true, cached := x.cached, lastUse := x.lastUse }
    if x.freeAfter then setCtx s2 c fresh
    else setCtx s2 c { x with state := .faulted, quads := [], openUnits := [], blame := none }
  else s

/-! ### Quarantine (R16) -/

/-- A slice runs on a block: nothing is issued there, and every access to its Pocket waits (R415). -/
def sliced (s : State) (b : Nat) : Bool := tabHas s.test.slices b

/-- A block is quarantined: it is fenced at once, its context is faulted, the Wardrobe drops the
models it held there (R17), a slice on it ends without restore (Table 21.3), and its map bit clears at the next
boundary. -/
def quarantineAs (s : State) (b status detail : Nat) : State :=
  if blockAvailable s b then
    let holder := (s.ctxs.find? (fun p => p.2.quads.contains (b / 4))).map Prod.fst
    let s1 := { s with chip := { s.chip with fenced := insertUp b s.chip.fenced },
                       test := { s.test with slices := tabDel s.test.slices b } }
    let s2 := bump (logError s1 .blockSequencer b status (holder.getD noCtx) .quarantine detail)
      Key.CHIP_QUARANTINE_EVENTS 1
    let s3 := { s2 with eeprom := { s2.eeprom with quarantines := s2.eeprom.quarantines + 1 } }
    let s4 := match holder with
      | some c => faultCtx s3 c Code.CTX_FAULT
      | none => s3
    let s5 := { s4 with models := tabMap s4.models (fun m x =>
      if x.resident && Config.modelHeld m b then { x with resident := false } else x) }
    notify s5 3 Key.CHIP_BLOCK_MAP b
  else s

def quarantine (s : State) (b status : Nat) : State := quarantineAs s b status 0

/-- The map bits of quarantined blocks clear and those of passed returns set, and the EEPROM takes the map. -/
def settleMap (s : State) : State :=
  let m0 := s.chip.fenced.foldl (fun m b => setField m b 1 0) (reg s Key.CHIP_BLOCK_MAP)
  let m := s.chip.passed.foldl (fun m b => setField m b 1 1) m0
  setReg { s with
    chip := { s.chip with fenced := [], passed := [] },
    eeprom := { s.eeprom with blockMap := m } } Key.CHIP_BLOCK_MAP m

/-! ### Chip resets (R395 to R397, R407) -/

/-- Charge of an admitted command that a chip warm reset ends: faulted, its completion lost (R397). -/
def loseJob (s : State) (j : Job) : State :=
  bump (bump s (Key.CLIENT_FAULTED j.client) 1) Key.AEDUP_LOST_COMPLETIONS 1

/-- Entries that show the present state of a unit which a warm reset clears, rather than a count. -/
def volatileKeys : List Nat :=
  [Key.HEM_STATE, Key.HEM_HOLDOVER_BEATS, Key.HEM_ALIGN_ERROR, Key.HEM_ROLE, Key.HBM_RATE, Key.FLASH_STATE,
   Key.FLASH_CHANNEL_UP, Key.FLASH_RATE, Key.LACE_RESIDENT_MAP, Key.VEIL_RESIDENT_MAP, Key.BELT_TABLES,
   Key.WARDROBE_RESIDENT, Key.AEDUP_STATE, Key.AEDUP_WIDTH, Key.AEDUP_RATE, Key.AEDUP_VERSION, Key.AEDUP_FEATURES,
   Key.PELGAN_LINK_STATE, Key.PELGAN_DEVICE, Key.PELGAN_MANAGER_SERIAL, Key.PELGAN_FORMATION, Key.PELGAN_MEMBERS,
   Key.PELGAN_DIAMETER, Key.PELGAN_GROUP_VERSION, Key.PELGAN_ABORT_BOUND, Key.PELGAN_UNREACHED,
   Key.PELGAN_LINK_LATENCY, Key.PELGAN_CTX_JOB, Key.PELGAN_ROUTE_TABLE, Key.POWER_STATE, Key.POWER_REGION_SLEEP_MAP,
   Key.POWER_ACLK_NOW, Key.DICT_CONFIG_DONE, Key.GEN_PAGES_IN_USE,
   Key.STORE_UNFLUSHED_BYTES, Key.TEST_SHUTDOWN_STATE] ++
  (List.range 5).map Key.PERF_SAMPLE_COUNT ++ (List.range 5).map Key.PERF_SAMPLE_RELEASE

/-- An entry that a chip warm reset keeps (R375, R407): status entries and counters, and the writable entries of 0x2000
to 0x6FFF. -/
def keptByWarm (k : Nat) : Bool :=
  0x110000 ≤ k && k < 0x700000 && !volatileKeys.contains k && k / 256 != 0x1212

/-- The map of the FLASH objects' durable contents, which alone survive on the flash tier (R396). -/
def afterPowerLoss (m : MemS) : MemS :=
  { dev := m.durable, comp := m.comp, durable := m.durable, durableObjs := m.durableObjs, formatted := m.formatted,
    blocks := m.blocks, places := m.places, flushSeq := m.flushSeq }

/-- The code of a unit (Table 20.4). -/
def unitCode : LogUnit → Nat
  | .cell => 1 | .blockSequencer => 2 | .pocket => 3 | .cuff => 4 | .flashChannel => 5 | .hbm => 6 | .belt => 7
  | .lace => 8 | .veil => 9 | .sampler => 10 | .zipper => 11 | .packer => 12 | .regionSequencer => 13 | .mesh => 14
  | .cloak => 15 | .hem => 16 | .bridge => 17 | .aedup => 18 | .pelgan => 19 | .power => 20 | .watchdog => 21
  | .unstated code => code % 256

/-- The code of an action (Table 20.4). -/
def actionCode : LogAction → Nat
  | .replay => 1 | .quarantine => 2 | .teardown => 3 | .channelReset => 4 | .stackReset => 5 | .linkReset => 6
  | .regionReset => 7 | .warmReset => 8

/-- An error-log entry as a number of 32 bytes (Table 20.4). -/
def logCode (e : LogEntry) : Nat :=
  e.beat * 2 ^ 192 + e.phase * 2 ^ 176 + e.status * 2 ^ 160 + e.ctx * 2 ^ 144 + e.genTag * 2 ^ 136 +
    unitCode e.unit * 2 ^ 128 + e.inst % 65536 * 2 ^ 112 + actionCode e.action * 2 ^ 104 +
    e.detail % 2 ^ 32 * 2 ^ 64 + e.seq % 2 ^ 32 * 2 ^ 32 + 1

/-- The code of a context state (Table 4.2). -/
def ctxStateCode : CtxState → Nat
  | .free => 0 | .idle => 1 | .waiting => 2 | .restoring => 3 | .running => 4 | .saving => 5 | .faulted => 6
  | .tearingDown => 7

/-- The context table entry (Table 4.1) as a number of 512 bytes. -/
def ctxEntryCode (x : Ctx) : Nat :=
  x.formatState * 2 ^ 2048 + x.genState * 2 ^ 1536 + (x.quads.foldl (fun m q => m + 2 ^ q) 0) * 2 ^ 512 +
    x.saveAddr * 2 ^ 448 + x.saveBytes * 2 ^ 384 + x.lastStatus * 2 ^ 368 + x.overruns * 2 ^ 352 +
    x.waitBeats * 2 ^ 336 + x.sliceUsed % 65536 * 2 ^ 320 + x.watchdog * 2 ^ 304 + x.slice * 2 ^ 288 +
    x.partition * 2 ^ 272 + flagBit x.permit * 2 ^ 33 + flagBit x.single * 2 ^ 32 + x.client * 2 ^ 24 +
    x.genTag * 2 ^ 16 + ctxStateCode x.state * 2 ^ 8 + 1

/-- The bytes of the error log as DIAG.ERROR_LOG lays them out, in a byte memory at an address. -/
def logImage (m : Mem) (base : Nat) (log : List LogEntry) : Mem :=
  log.foldr (fun e m => memPutNat m (base + 32 * (e.seq % 4096)) 32 (logCode e)) m

/-- The crash dump written to region 0's HBM (R406, Table 20.5): its header, the copy of the error log and the cached
context table entries by number.  The parts whose layout the spec does not give are open where they are read. -/
def writeDump (s : State) (m : Mem) (unit : LogUnit) (inst cause : Nat) : Mem :=
  let h := beatNow s * 2 ^ 448 + s.eeprom.serial * 2 ^ 384 + cause % 65536 * 2 ^ 368 + unitCode unit * 2 ^ 360 +
    inst % 65536 * 2 ^ 344 + 2 ^ 8 + 1
  let m1 := logImage (memPutNat (memClear m crashDumpBase 0x4000000) crashDumpBase 64 h) (crashDumpBase + 0x40) s.log
  ((s.ctxs.filter (fun p => p.2.cached)).zipIdx).foldl
    (fun m p => memPutNat m (crashDumpBase + 0x20040 + 512 * p.2) 512 (ctxEntryCode p.1.2)) m1

/-- The crash dump marked invalid. -/
def spoilDump (m : Mem) : Mem := memPut m (crashDumpBase + 1) 0

/-- The HBM stack that holds the crash dump can be written. -/
def dumpStackUp (s : State) : Bool :=
  match tabGet s.mem.hbmStacks 0 with
  | some k => k.trained && !k.resetting
  | none => false

/-- A chip warm reset (R397), with its cause as the error log names it.  `fatal` tells whether that is a fatal error. -/
def warmReset (s : State) (fatal : Bool) (unit : LogUnit) (inst cause detail : Nat) : State :=
  let jobs := (List.range 255).filter (fun j => jobState (jobEntry s j) == 1 && (ctxOfJob s j).isSome)
  let s1 := jobs.foldl (fun t j => beginAbort t j Code.CTX_TORN_DOWN) s
  let s2 := logError s1 unit inst cause noCtx .warmReset detail
  let s2b := settleMap { s2 with chip := { s2.chip with passed := [] } }
  let s3 := s2b.jobs.foldl (fun t p => loseJob t p.2) s2b
  let s4 := bump s3 Key.AEDUP_LOST_COMPLETIONS s3.aedup.held.length
  let s5 := setReg (bump s4 Key.RESET_WARM_RESETS 1) Key.RESET_LAST_CAUSE (cause % 65536)
  let mem := afterPowerLoss s5.mem
  let dump := memClear s5.mem.dev 0 crashDumpBase
  { State.reset with
    pending := s.pending
    start := .powerGood
    fatal := fatal || s5.fatal
    alerts := s5.alerts.filter (fun c => c == .testMode || c == .powerFail)
    power := { reading := true }
    test := { tap := s5.test.tap }
    regs := s5.regs.filter (fun p => keptByWarm p.1)
    eeprom := s5.eeprom
    dict := { locks := s5.dict.locks, notifySeq := s5.dict.notifySeq, notifyTimes := s5.dict.notifyTimes }
    hem := { s5.hem with flit := none, announced := false, goodEdges := 0, edgeSeen := false }
    jobNext := s5.jobNext
    ctxs := s5.ctxs.map (fun p => (p.1, { genTag := if p.2.state == .free then p.2.genTag else (p.2.genTag + 1) % 256,
                                          used := p.2.used : Ctx }))
    mem := { mem with
      dev := memCopy (if dumpStackUp s then writeDump s5 dump unit inst cause else spoilDump dump)
        crashDumpBase 0x4000000 mem.dev crashDumpBase
      hbmStacks := (List.range 12).map (fun k => (k, { selfRefresh := true })) }
    copies := s5.copies
    aedup := { session := s5.aedup.session % (2 ^ 32 - 1) + 1, peerSession := s5.aedup.peerSession }
    pelgan := { links := tabMap s5.pelgan.links (fun _ e => { linkGen := (e.linkGen + 1) % 64 : LinkEnd }) }
    sec := { s5.sec with sessions := [], drbg := some 0 }
    log := s5.log
    out := s5.out
    freeCount := s5.freeCount }

/-- The state that a loss of power, or a chip cold reset, leaves: the EEPROM and durable flash data (R396). -/
def powerLost (s : State) : State :=
  { State.reset with
    pending := s.pending
    eeprom := s.eeprom
    mem := afterPowerLoss s.mem
    copies := s.copies
    sec := { tierKcv := s.sec.tierKcv }
    aedup := { session := s.aedup.session % (2 ^ 32 - 1) + 1 }
    out := s.out
    jobNext := s.jobNext
    freeCount := s.freeCount }

/-- A fatal error: the output is asserted and the chip takes a warm reset (Table 1.4). -/
def fatalError (s : State) (unit : LogUnit) (inst cause detail : Nat) : State := warmReset s true unit inst cause detail

end Sys2Proof.Machine
end

