-- ==== Sys2Proof/Machine/Memory.lean ====
section
/-! DEFINITION. The unified address range (chapter 8): ranges and objects, homes of units, the shared pool, reads, writes
with their stalls, staging and stripe programs. -/

namespace Sys2Proof.Machine

/-! ### Ranges and objects (R166 to R168) -/

/-- An address in the window onto companion memory. -/
def inWindow (a : Nat) : Bool := companionBase ≤ a

/-- The registered object that holds an address: its base and its entry. -/
def objectAt (s : State) (a : Nat) : Option (Nat × Obj) :=
  s.mem.objects.find? (fun p => p.1 ≤ a && a < p.1 + p.2.size && !p.2.released)

/-- A range lies wholly within one registered object, or wholly within the companion window (R167); a range of zero
bytes names no byte. -/
def rangeOk (s : State) (a n : Nat) : Bool :=
  n == 0 || (inWindow a && a + n ≤ 2 ^ 64) ||
    match objectAt s a with
    | some (b, o) => a + n ≤ b + o.size
    | none => false

/-- A range lies within one registered object whose policy is HBM (R168). -/
def inHbm (s : State) (a n : Nat) : Bool :=
  match objectAt s a with
  | some (b, o) => a + n ≤ b + o.size && o.policy == 0
  | none => false

/-- The units a range touches. -/
def unitsOfRange (a n : Nat) : List Nat :=
  if n = 0 then [] else (List.range ((a + n - 1) / unitBytes - a / unitBytes + 1)).map (fun i => a / unitBytes + i)

/-- The preferred region of a unit (R170): `u` is its index within the allocation. -/
def preferredRegion (region u : Nat) : Nat := if region < 4 then region else u % 4

/-- The preferred region of a unit of an object. -/
def unitRegion (base : Nat) (o : Obj) (unit : Nat) : Nat := preferredRegion o.region (unit - base / unitBytes)

/-! ### The pool (R171, R179) -/

def regionUnits : Nat := 73728

/-- MEM.RESERVED_BYTES of a tier of some capacity (R171). -/
def reservedBytes (capacity : Nat) : Nat :=
  ceilDiv (2 ^ 30 + 4 * ceilDiv capacity stripeBytes) 8388608 * 8388608

/-- Units of a run of `n` that prefer region `r`. -/
def interleaved (n r : Nat) : Nat := (n + 3 - r) / 4

/-- Units of region `r` that the HBM objects reserve. -/
def hbmReserved (s : State) (r : Nat) : Nat :=
  (s.mem.objects.map (fun p =>
    if p.2.policy == 0 then
      let n := p.2.size / unitBytes
      if p.2.region == r then n else if p.2.region == 7 then interleaved n r else 0
    else 0)).sum

/-- A unit belongs to an HBM object, so its place is reserved and not taken from the pool. -/
def ofHbmObject (s : State) (unit : Nat) : Bool :=
  match objectAt s (unit * unitBytes) with
  | some (_, o) => o.policy == 0
  | none => false

/-- Bytes in the staging buffer. -/
def stagedBytes (s : State) : Nat := 4096 * s.mem.staged.length

/-- Bytes acknowledged and not yet durable. -/
def unflushedBytes (s : State) : Nat := (s.mem.staged.map (fun p => p.2.bytes)).sum

/-- Pool units of region `r` in use: backed units, destinations of moves, and staging. -/
def poolUsed (s : State) (r : Nat) : Nat :=
  (s.mem.units.filter (fun p => !ofHbmObject s p.1 &&
    (p.2.home == .hbm r || match p.2.move with
      | some m => m.dest == .hbm r
      | none => false))).length + interleaved (ceilDiv (stagedBytes s) unitBytes) r +
    ((s.mem.freeing.filter (fun p => p.1 == r)).map Prod.snd).sum

/-- Pool units of region `r` in all. -/
def poolUnits (s : State) (r : Nat) : Nat :=
  regionUnits - reg s Key.MEM_RESERVED_BYTES / 4 / unitBytes - hbmReserved s r

/-- Free pool units of region `r`. -/
def poolFree (s : State) (r : Nat) : Nat := poolUnits s r - poolUsed s r

/-- MEM.POOL_BYTES: the pool's size (R171). -/
def poolBytes (s : State) : Nat := ((List.range 4).map (poolUnits s)).sum * unitBytes

/-- MEM.POOL_FREE. -/
def poolFreeBytes (s : State) : Nat := ((List.range 4).map (poolFree s)).sum * unitBytes

/-- A unit can be demoted: a KV unit or a unit of a POOL object (R179). -/
def demotable (s : State) (unit : Nat) (x : UnitInfo) : Bool :=
  match x.owner with
  | .kv _ => true
  | .object => match objectAt s (unit * unitBytes) with
    | some (_, o) => o.policy == 1
    | none => false
  | _ => false

/-- Units in the swap reservation: demoted units and demotions in flight (R181). -/
def swapUsed (s : State) : Nat :=
  (s.mem.units.filter (fun p => demotable s p.1 p.2 &&
    (p.2.home == .flash || match p.2.move with
      | some m => m.dest == .flash
      | none => false))).length

/-- The swap reservation in force (R195). -/
def swapInForce (s : State) : Nat :=
  let st := reg s Key.FLASH_STATE
  if st ≤ 1 then 0
  else Nat.min (reg s Key.MEM_SWAP_BYTES) (reg s Key.FLASH_CAPACITY / 2 / unitBytes * unitBytes)

/-- A unit of the swap reservation is free; none is while the tier is READ_ONLY (R195). -/
def swapFree (s : State) : Bool :=
  reg s Key.FLASH_STATE != 4 && (swapUsed s + 1) * unitBytes ≤ swapInForce s

/-- A unit given another entry. -/
def setUnit (s : State) (u : Nat) (x : UnitInfo) : State :=
  { s with mem := { s.mem with units := tabSet s.mem.units u x } }

/-- The move of a unit starts (R176). -/
def startMove (s : State) (u : Nat) (dest : Home) (cause : MoveCause) : State :=
  match tabGet s.mem.units u with
  | some x => match x.move with
    | some _ => s
    | none => setUnit s u { x with move := some { dest := dest, cause := cause } }
  | none => s

/-- What an allocation of one unit meets. -/
inductive Alloc where
  | home (region : Nat)
  | wait (s : State)
  | fail
  deriving DecidableEq, Repr

/-- The unit a demotion takes: the smallest last touch, then the lowest address (R181). -/
def demotionVictim (s : State) (r : Nat) : Option Nat :=
  let cs := s.mem.units.filter (fun p => demotable s p.1 p.2 && p.2.home == .hbm r && p.2.move.isNone &&
    p.2.touch < beatNow s)
  ((sortBy (fun a b => a.2.touch < b.2.touch) cs).map Prod.fst).head?

/-- One turn of the loop of R181 in a region. -/
def demoteIn (s : State) (r : Nat) : Alloc :=
  let here := s.mem.units.filter (fun p => demotable s p.1 p.2 && p.2.home == .hbm r)
  if here.any (fun p => match p.2.move with | some m => m.dest != .hbm r | none => false) then .wait s
  else match demotionVictim s r with
    | some u => if swapFree s then .wait (startMove s u .flash .demotion) else .fail
    | none => if here.isEmpty then .fail else .wait s

/-- An allocation of one pool unit that prefers a region (R170, R181). -/
def allocate (s : State) (pref : Nat) : Alloc :=
  if poolFree s pref > 0 then .home pref
  else match (List.range 4).find? (fun r => poolFree s r > 0) with
    | some r => .home r
    | none => demoteIn s pref

/-- A run of pool units for the device's own use, placed as if REGION were 7 (R179).  The key of unit `i` is
`first + i`. -/
def allocateRun (s : State) (first : Nat) (owner : UnitOwner) (skew : Nat) : Nat → Nat → Option State
  | 0, _ => some s
  | n + 1, i =>
    match allocate s ((i + skew) % 4) with
    | .home r => allocateRun (setUnit s (first + i) ⟨.hbm r, beatNow s, owner, none⟩) first owner skew n (i + 1)
    | .wait _ => none
    | .fail => none

/-! ### Reads -/

/-- The bytes of a range as a reader sees them (R169: an unbacked unit reads as zeros). -/
def bytesAt (s : State) (a n : Nat) : List Nat :=
  if inWindow a then memBytes s.mem.comp (a - companionBase) n else memBytes s.mem.dev a n

/-- The little-endian number in a range. -/
def natAt (s : State) (a n : Nat) : Nat := ofLeBytes (bytesAt s a n)

/-- The channel of a stripe (R186). -/
def channelOf (stripe : Nat) : Nat := stripe % 64

/-- A channel is trained (R193). -/
def channelUp (s : State) (c : Nat) : Bool := bitOf (reg s Key.FLASH_CHANNEL_UP) c

/-- A unit is homed on the flash tier. -/
def onFlash (s : State) (u : Nat) : Bool :=
  match tabGet s.mem.units u with
  | some x => x.home == .flash
  | none => false

/-- The stripes of a range whose units are homed on the flash tier. -/
def flashStripes (s : State) (a n : Nat) : List Nat :=
  if n = 0 || inWindow a then []
  else ((List.range ((a + n - 1) / stripeBytes - a / stripeBytes + 1)).map (fun i => a / stripeBytes + i)).filter
    (fun k => onFlash s (k / 32))

/-- A range meets a line of a list of 128-byte lines. -/
def meetsLine (ls : List Nat) (a n : Nat) : Bool := ls.any (fun l => l * 128 < a + n && a < l * 128 + 128)

/-- A read of a range meets a poisoned line, a companion line answered with DATA_ERR, or a stripe on a down channel, so it
ends with ECC_UNCORRECTABLE (R184, R193, R334). -/
def readBad (s : State) (a n : Nat) : Bool :=
  (if inWindow a then meetsLine s.mem.compBad (a - companionBase) n else meetsLine s.mem.poison a n) ||
    (flashStripes s a n).any (fun k => !channelUp s (channelOf k))

/-- A touched unit on the flash tier starts a promotion, when MEM.PROMOTE is 1 (R182). -/
def promote (s : State) (u : Nat) (x : UnitInfo) (pref : Nat) : State :=
  if inForce s Key.MEM_PROMOTE == 1 && x.home == .flash && x.move.isNone && demotable s u x then
    match allocate s pref with
    | .home r => startMove s u (.hbm r) .promotion
    | .wait t => t
    | .fail => s
  else s

/-- A touch of one unit (R180). -/
def touchUnit (s : State) (u : Nat) : State :=
  match tabGet s.mem.units u with
  | some x =>
    let x' := { x with touch := beatNow s }
    let pref := match objectAt s (u * unitBytes) with
      | some (b, o) => unitRegion b o u
      | none => u % 4
    promote (setUnit s u x') u x' pref
  | none => s

/-- A touch of every unit of a range. -/
def touchUnits (s : State) (a n : Nat) : State :=
  if inWindow a then s else (unitsOfRange a n).foldl touchUnit s

/-- The part of a range that lies in a unit: its address and bytes. -/
def partOf (a n u : Nat) : Nat × Nat :=
  let lo := Nat.max a (u * unitBytes)
  (lo, Nat.min (a + n) (u * unitBytes + unitBytes) - lo)

/-- Pieces of `size` bytes that a range touches. -/
def accessesIn (size a n : Nat) : Nat := if n = 0 then 0 else (a + n - 1) / size - a / size + 1

/-- The HBM lines, or the codewords of the flash tier, that a read of a range reads are counted (Table 22.3). -/
def countReads (s : State) (a n : Nat) : State :=
  if inWindow a then s
  else (unitsOfRange a n).foldl (fun t u =>
    let p := partOf a n u
    match tabGet s.mem.units u with
    | some x => match x.home with
      | .hbm r => countRegion t r 0x205 (accessesIn 128 p.1 p.2) { inst := r, addr := p.1, step := 128 }
      | .flash => (flashStripes s p.1 p.2).foldl (fun v k =>
          countRegion v (channelOf k / 16) 0x207 (accessesIn 4096 (Nat.max p.1 (k * stripeBytes))
            (Nat.min (p.1 + p.2) (k * stripeBytes + stripeBytes) - Nat.max p.1 (k * stripeBytes)))
            { inst := channelOf k, addr := Nat.max p.1 (k * stripeBytes), step := 4096 }) t
      | .unbacked => t
    | none => t) s

/-- The HBM lines that a write of a range writes are counted. -/
def countWrites (s : State) (a n : Nat) : State :=
  (unitsOfRange a n).foldl (fun t u =>
    let p := partOf a n u
    match tabGet s.mem.units u with
    | some x => match x.home with
      | .hbm r => countRegion t r 0x206 (accessesIn 128 p.1 p.2) { inst := r, addr := p.1, step := 128 }
      | _ => t
    | none => t) s

/-- A read of a range: its units are touched and its accesses counted. -/
def touchRange (s : State) (a n : Nat) : State := countReads (touchUnits s a n) a n

/-- Several ranges are read. -/
def touchRanges (s : State) (rs : List (Nat × Nat)) : State := rs.foldl (fun t r => touchRange t r.1 r.2) s

/-! ### Writes -/

/-- What a write meets before it can be performed. -/
inductive WritePrep where
  /-- Every unit is backed and no move holds it: the write goes ahead. -/
  | ready (s : State)
  /-- The write stalls (R176, R181, R74). -/
  | wait (s : State)
  /-- The write is not performed and its command ends with the status. -/
  | fail (s : State) (status : Nat)
  deriving DecidableEq, Repr

/-- A stalled writer is noted on the unit it waits for. -/
def noteStall (s : State) (u : Nat) (x : UnitInfo) (m : Move) : State :=
  setUnit s u { x with move := some { m with stalled := true } }

/-- One unit made ready for a write. -/
def prepareUnit (s : State) (u : Nat) : WritePrep :=
  match objectAt s (u * unitBytes) with
  | none => .ready s
  | some (b, o) =>
    match tabGet s.mem.units u with
    | some x => match x.move with
      | some m => .wait (noteStall s u x m)
      | none => .ready s
    | none =>
      let pref := unitRegion b o u
      if o.policy == 0 then .ready (setUnit s u ⟨.hbm pref, beatNow s, .object, none⟩)
      else if o.policy == 1 then
        match allocate s pref with
        | .home r => .ready (setUnit s u ⟨.hbm r, beatNow s, .object, none⟩)
        | .wait t => .wait t
        | .fail => .fail s Code.POOL_EXHAUSTED
      else .ready (setUnit s u ⟨.flash, beatNow s, .object, none⟩)

/-- Every unit of a list made ready. -/
def prepareUnits : State → List Nat → WritePrep
  | s, [] => .ready s
  | s, u :: us =>
    match prepareUnit s u with
    | .ready t => prepareUnits t us
    | .wait t => .wait t
    | .fail t st => .fail t st

/-- A write of a range made ready: staging has room, the tier accepts writes, its channels are up, every unit is
backed. -/
def prepareWrite (s : State) (a n : Nat) : WritePrep :=
  if inWindow a then
    if s.aedup.link.state == .active || n == 0 then .ready s else .wait s
  else match prepareUnits s (unitsOfRange a n) with
    | .ready t =>
      let fs := flashStripes t a n
      if fs.isEmpty then .ready t
      else if reg t Key.FLASH_STATE == 4 then .fail s Code.POOL_EXHAUSTED
      else if fs.any (fun k => !channelUp t (channelOf k)) then .fail s Code.ECC_UNCORRECTABLE
      else if inForce t Key.STORE_STAGING_LIMIT < stagedBytes t + n then .wait t
      else .ready t
    | p => p

/-- The 4 KiB units of a range. -/
def pagesOfRange (a n : Nat) : List Nat :=
  if n = 0 then [] else (List.range ((a + n - 1) / 4096 - a / 4096 + 1)).map (fun i => a / 4096 + i)

/-- The bytes of a range that fall into a 4 KiB unit. -/
def overlapBytes (a n page : Nat) : Nat :=
  Nat.min (a + n) (page * 4096 + 4096) - Nat.max a (page * 4096)

/-- The 4 KiB units of a range on the flash tier are staged; `counted` tells whether their bytes count as unflushed. -/
def stageRange (s : State) (a n : Nat) (counted : Bool) : State :=
  let ps := (pagesOfRange a n).filter (fun p => onFlash s (p / 512))
  if ps.isEmpty then s
  else
    let o := s.mem.order + 1
    let st := ps.foldl (fun t p =>
      let old := match tabGet t p with | some x => x.bytes | none => 0
      tabSet t p ⟨o, Nat.min 4096 (old + if counted then overlapBytes a n p else 0)⟩) s.mem.staged
    { s with mem := { s.mem with staged := st, order := o } }

/-- Poisoned lines that a write covers whole are clean again (R184). -/
def unpoison (s : State) (a n : Nat) : State :=
  { s with mem := { s.mem with
      poison := s.mem.poison.filter (fun l => !(a ≤ l * 128 && l * 128 + 128 ≤ a + n)) } }

/-- A range of device memory that an engine has written: poisoned lines are clean, its units are touched, its lines counted. -/
def noteWritten (s : State) (a n : Nat) : State := countWrites (touchUnits (unpoison s a n) a n) a n

/-- The bytes of a write take effect: posted over Aedup for the companion window, else stored, staged where the home is
the flash tier, and touched. -/
def writeBytes (s : State) (a : Nat) (bs : List Nat) : State :=
  if bs.isEmpty then s
  else if inWindow a then
    send { s with mem := { s.mem with comp := memWrite s.mem.comp (a - companionBase) bs } }
      (.aedupWrite (a - companionBase) bs.length)
  else
    let s1 := { s with mem := { s.mem with dev := memWrite s.mem.dev a bs } }
    countWrites (touchUnits (stageRange (unpoison s1 a bs.length) a bs.length true) a bs.length) a bs.length

/-! ### Stripe programs (R189) -/

def blockKey (channel lun block : Nat) : Nat := (channel * 64 + lun) * 2 ^ 32 + block
def keyChannel (k : Nat) : Nat := k / 2 ^ 32 / 64
def keyLun (k : Nat) : Nat := k / 2 ^ 32 % 64

/-- The channel's entry. -/
def chan (s : State) (c : Nat) : Channel := (tabGet s.mem.channels c).getD {}

/-- The blocks of a LUN that the device has used since they were new. -/
def lunBlocks (s : State) (c l : Nat) : Tab FlashBlock :=
  s.mem.blocks.filter (fun p => keyChannel p.1 == c && keyLun p.1 == l)

/-- Blocks of a LUN that hold nothing: never used, or erased. -/
def lunFree (s : State) (c l : Nat) : Nat :=
  let bs := lunBlocks s c l
  (chan s c).blocks - bs.length + (bs.filter (fun p => p.2.used == 0 && !p.2.retired && !p.2.erasing)).length

/-- The lowest block number of a LUN that has never been used. -/
def freshBlock (s : State) (c l : Nat) : Option Nat :=
  (List.range (Nat.min (chan s c).blocks ((lunBlocks s c l).length + 1))).find?
    (fun b => !tabHas s.mem.blocks (blockKey c l b))

/-- The block of a LUN that takes the next program: the open one, else the free block with the lowest erase count. -/
def blockFor (s : State) (c l : Nat) : Option Nat :=
  let bs := lunBlocks s c l
  let per := (chan s c).stripes
  match bs.find? (fun p => 0 < p.2.used && p.2.used < per && !p.2.retired && !p.2.erasing) with
  | some p => some p.1
  | none => match freshBlock s c l with
    | some b => some (blockKey c l b)
    | none =>
      ((sortBy (fun a b => a.2.erases < b.2.erases)
        (bs.filter (fun p => p.2.used == 0 && !p.2.retired && !p.2.erasing))).map Prod.fst).head?

/-- The block of a channel that takes the next program: that of the lowest-numbered LUN with room. -/
def placeFor (s : State) (c : Nat) : Option Nat :=
  (List.range (chan s c).luns).findSome? (fun l => blockFor s c l)

/-- A program of a stripe starts, unless one is in progress.  It carries the staged writes up to the latest. -/
def startProgram (s : State) (stripe : Nat) : State :=
  if tabHas s.mem.programs stripe then s
  else match placeFor s (channelOf stripe) with
    | some k =>
      let b := (tabGet s.mem.blocks k).getD {}
      countRegion { s with mem := { s.mem with
          programs := tabSet s.mem.programs stripe ⟨k, s.mem.order, s.mem.flushSeq⟩,
          blocks := tabSet s.mem.blocks k { b with used := b.used + 1 } } }
        (channelOf stripe / 16) 0x208 1 { inst := channelOf stripe, addr := stripe * stripeBytes }
    | none => s

/-- The stripes that hold writes staged up to an order. -/
def stagedStripes (s : State) (order : Nat) : List Nat :=
  distinct ((s.mem.staged.filter (fun p => p.2.order ≤ order)).map (fun p => p.1 / 16))

/-- A block no longer holds a stripe. -/
def dropValid (m : Tab FlashBlock) (k stripe : Nat) : Tab FlashBlock :=
  tabUpd m k (fun b => { b with valid := b.valid.filter (fun x => x != stripe) })

/-- The program of a stripe ends well: the map entry switches, and the writes it carries are durable. -/
def programDone (s : State) (stripe : Nat) (p : Program) : State :=
  let m := s.mem
  let bs := match tabGet m.places stripe with
    | some k => dropValid m.blocks k stripe
    | none => m.blocks
  let bs' := tabUpd bs p.block (fun b => { b with valid := insertUp stripe b.valid })
  { s with mem := { m with
      programs := tabDel m.programs stripe,
      places := tabSet m.places stripe p.block,
      blocks := bs',
      durable := memCopy m.dev (stripe * stripeBytes) stripeBytes m.durable (stripe * stripeBytes),
      staged := m.staged.filter (fun q => !(q.1 / 16 == stripe && q.2.order ≤ p.order)) } }

/-- Data capacity of a channel's good blocks. -/
def channelGood (s : State) (c : Nat) : Nat :=
  let x := chan s c
  let retired := (s.mem.blocks.filter (fun p => keyChannel p.1 == c && p.2.retired)).length
  (x.luns * x.blocks - x.bad - retired) * x.stripes * stripeBytes

/-- A channel's figure in the derivation of FLASH.CAPACITY (R192): seven eighths, less 1/1,024 for metadata, in whole
stripes. -/
def channelShare (s : State) (c : Nat) : Nat :=
  let part := channelGood s c * 7 / 8
  (part - part / 1024) / stripeBytes * stripeBytes

/-- FLASH.STATE takes a new value, and the swap reservation follows it (R195, Table 18.7). -/
def setFlashState (s : State) (v : Nat) : State :=
  if reg s Key.FLASH_STATE == v then s
  else
    let s1 := setReg s Key.FLASH_STATE v
    let s2 := setReg s1 Key.MEM_SWAP_IN_FORCE (swapInForce s1)
    notify s2 4 Key.FLASH_STATE v

/-- A block is retired, and its valid stripes move; the tier becomes READ_ONLY when a channel no longer holds its share
and 2 % (R189). -/
def retireBlock (s : State) (k : Nat) : State :=
  let b := (tabGet s.mem.blocks k).getD {}
  let s1 := bump { s with mem := { s.mem with blocks := tabSet s.mem.blocks k { b with retired := true } } }
    Key.FLASH_BLOCKS_RETIRED 1
  let s2 := b.valid.foldl startProgram s1
  let need := reg s2 Key.FLASH_CAPACITY / 64
  if channelGood s2 (keyChannel k) * 100 < need * 102 then setFlashState s2 4 else s2

end Sys2Proof.Machine
end

