-- ==== Sys2Proof/Machine/Operands.lean ====
section
/-! DEFINITION. Operand forms: the fields of a submission entry, the opcodes, which command needs placement (R462), how a
command is run (R22, R62), its reads of companion memory, and Pocket addresses. -/

namespace Sys2Proof.Machine

/-! ### Fields of a submission entry (Table 3.2) -/

/-- Bits [hi:lo] of a submission entry. -/
def param (entry hi lo : Nat) : Nat := field entry lo (hi + 1 - lo)

/-- A one-bit field of a submission entry. -/
def paramBit (entry i : Nat) : Bool := bitOf entry i

/-- The PARAMS bits that a list of [hi:lo] fields uses. -/
def usedBits (fs : List (Nat × Nat)) : Nat := fs.foldl (fun m f => m ||| maskOf f.1 f.2) 0

/-! ### Opcodes -/

namespace Op

def NOP : Nat := 0x00
def CANCEL : Nat := 0x01
def WRITE_PASSAGES : Nat := 0x10
def WRITE_VECTORS : Nat := 0x11
def WRITE_SKETCHES : Nat := 0x12
def DELETE : Nat := 0x13
def PUBLISH : Nat := 0x14
def FLUSH : Nat := 0x15
def TRIM : Nat := 0x16
def CTX_ALLOC : Nat := 0x20
def CTX_FREE : Nat := 0x21
def CTX_MODIFY : Nat := 0x22
def CTX_PREEMPT : Nat := 0x23
def CTX_SAVE : Nat := 0x24
def CTX_RESTORE : Nat := 0x25
def CTX_BUFFER : Nat := 0x26
def WARDROBE_REGISTER : Nat := 0x27
def WARDROBE_RELEASE : Nat := 0x28
def CTX_QUERY : Nat := 0x29
def LACE_VOCAB_LOAD : Nat := 0x30
def LACE_VOCAB_UNLOAD : Nat := 0x31
def LACE_ENCODE : Nat := 0x32
def LACE_DECODE : Nat := 0x33
def INDEX_CREATE : Nat := 0x40
def INDEX_DROP : Nat := 0x41
def INDEX_STATUS : Nat := 0x42
def SEARCH : Nat := 0x43
def RERANK : Nat := 0x44
def RECALL_PROBE : Nat := 0x45
def TOPK : Nat := 0x50
def MERGE : Nat := 0x51
def BELT_TABLE_CREATE : Nat := 0x60
def BELT_TABLE_REPLACE : Nat := 0x61
def BELT_TABLE_DROP : Nat := 0x62
def BELT_GATHER : Nat := 0x63
def POCKET_FILL : Nat := 0x6C
def POCKET_COPY : Nat := 0x6D
def POCKET_CONFIG : Nat := 0x6E
def CROSS_RERANK : Nat := 0x70
def PACK : Nat := 0x71
def GEN_RUN : Nat := 0x80
def KV_RELEASE : Nat := 0x81
def SAMPLER_SEED : Nat := 0x90
def RAND_FILL : Nat := 0x91
def VEIL_LOAD : Nat := 0x92
def VEIL_UNLOAD : Nat := 0x93
def ARRAY_RUN : Nat := 0xA0
def OBJ_REGISTER : Nat := 0xB0
def OBJ_RELEASE : Nat := 0xB1
def OBJ_SET_POLICY : Nat := 0xB2
def OBJ_QUERY : Nat := 0xB3

end Op

/-- A command needs placement while it has work on its context's partition (R462).  `waiting` tells of a GEN_RUN that it
waits for its mailbox. -/
def needsPlacement (opcode entry : Nat) (waiting : Bool) : Bool :=
  [Op.ARRAY_RUN, Op.TOPK, Op.MERGE, Op.SEARCH, Op.RERANK, Op.RECALL_PROBE, Op.CROSS_RERANK, Op.POCKET_FILL,
    Op.POCKET_COPY, Op.POCKET_CONFIG].contains opcode ||
  (opcode == Op.LACE_ENCODE && paramBit entry 239) || (opcode == Op.BELT_GATHER && paramBit entry 151) ||
  (opcode == Op.RAND_FILL && paramBit entry 175) || (opcode == Op.GEN_RUN && !waiting)

/-- The mark in a GEN_RUN's progress that it waits for its mailbox (R291). -/
def mailboxWait : Nat := 1

/-- A command of the machine needs placement now. -/
def jobNeedsPlacement (j : Job) : Bool := needsPlacement j.opcode j.entry (j.work.head? == some mailboxWait)

/-- A command may run on its context as it stands: a context in teardown runs nothing, and a command that needs
placement runs while the context is RUNNING and is not leaving its quads. -/
def ctxAllows (x : Ctx) (j : Job) : Bool :=
  match x.state with
  | .tearingDown => j.opcode == Op.CTX_FREE || j.opcode == Op.CTX_QUERY
  | .faulted => j.opcode == Op.CTX_FREE || j.opcode == Op.CTX_QUERY
  | .running => !(x.leaving && jobNeedsPlacement j)
  | _ => !jobNeedsPlacement j

/-- A slice on a block of its partition holds a command that works on the partition's Pockets (R415).  Runs of array
programs are held stream by stream, and searches do not use the blocks. -/
def sliceHolds (s : State) (j : Job) : Bool :=
  jobNeedsPlacement j && !([Op.ARRAY_RUN, Op.SEARCH, Op.RECALL_PROBE].contains j.opcode) &&
    !s.test.slices.isEmpty && (blocksOf (ctxOf s j.ctx)).any (sliced s)

/-- A command can take a step now: it has an opcode's arm, no outcome, its beat has come (R22), its region accepts work,
and its context allows it. -/
def eligible (s : State) (j : Job) (opcode : Nat) : Bool :=
  running s && j.opcode == opcode && openJob j && j.start ≤ beatNow s && !s.chip.closed.contains (j.queue % 4) &&
    ctxAllows (ctxOf s j.ctx) j && !sliceHolds s j

/-- The open commands of a context that were admitted before one. -/
def earlierOpen (s : State) (c id : Nat) : List (Nat × Job) := (openJobsOf s c).filter (fun p => p.1 < id)

/-- Commands that run alone in their context hold back every later command of it (R93, R159, R318). -/
def solo (opcode : Nat) : Bool :=
  [Op.CTX_RESTORE, Op.POCKET_FILL, Op.POCKET_COPY, Op.POCKET_CONFIG, Op.SAMPLER_SEED].contains opcode

/-- Opcodes that an engine, or the blocks, of a region serve (R463): those of Lace, search, the Zipper, the Belt, Pocket
work, ranking, packing, generation, the generator and the Veil, and array runs. -/
def engineOp (opcode : Nat) : Bool :=
  [Op.LACE_VOCAB_LOAD, Op.LACE_ENCODE, Op.LACE_DECODE, Op.SEARCH, Op.RERANK, Op.RECALL_PROBE, Op.TOPK, Op.MERGE,
    Op.BELT_GATHER, Op.POCKET_FILL, Op.POCKET_COPY, Op.CROSS_RERANK, Op.PACK, Op.GEN_RUN, Op.RAND_FILL, Op.VEIL_LOAD,
    Op.ARRAY_RUN].contains opcode

/-- The regions whose engines serve a command: every region's Cuffs a search, else those of its context's region. -/
def engineRegions (s : State) (j : Job) : List Nat :=
  if j.opcode == Op.SEARCH || j.opcode == Op.RECALL_PROBE then [0, 1, 2, 3]
  else if engineOp j.opcode then [engineRegion s j.ctx j.queue] else []

/-- No earlier command of the context is one that runs alone, and none is left when this one does. -/
def inTurn (s : State) (j : Job) (id : Nat) : Bool :=
  let es := earlierOpen s j.ctx id
  if solo j.opcode then es.isEmpty else es.all (fun p => !solo p.2.opcode)

/-! ### Reads of companion memory (R335) -/

/-- The lowest number from `n` on that a rising list leaves out. -/
def lowestFree : Nat → List Nat → Nat
  | n, [] => n
  | n, k :: ks => if k == n then lowestFree (n + 1) ks else n

/-- The lowest free request tag, of 4,096. -/
def freeTag (s : State) : Option Nat :=
  let t := lowestFree 0 (tabKeys s.aedup.reads)
  if t < 4096 then some t else none

/-- The device may hold lines in state S (Table 16.4). -/
def sharedAgreed (s : State) : Bool := bitOf (reg s Key.AEDUP_FEATURES) 3

/-- A device read of a companion line leaves. -/
def issueRead (s : State) (line : Nat) (shared : Bool) (why : ReadFor) : State :=
  match freeTag s with
  | some t =>
    let c := match why with
      | .job id => match tabGet s.jobs id with
        | some j => j.ctx
        | none => noCtx
      | _ => noCtx
    let q : AedupRead := { line := line, shared := shared, for_ := why, ctx := c, genTag := (ctxOf s c).genTag }
    send { s with aedup := { s.aedup with reads := tabSet s.aedup.reads t q } }
      (.aedupRead t line shared)
  | none => s

/-- The first line that a command still has to read, and what is left after it. -/
def nextLine : List (Nat × Nat) → Option (Nat × List (Nat × Nat))
  | [] => none
  | (a, n) :: rest =>
    let line := a / 128 * 128
    some (line, if a + n ≤ line + 128 then rest else (line + 128, a + n - (line + 128)) :: rest)

/-- Reads of a command's lines leave while tags are free. -/
def issueJobReads : Nat → State → Nat → State
  | 0, s, _ => s
  | n + 1, s, id =>
    match tabGet s.jobs id with
    | some j =>
      match nextLine j.toRead with
      | some (line, rest) =>
        if (freeTag s).isSome then
          let s1 := updJob s id (fun j => { j with toRead := rest, reads := j.reads + 1 })
          issueJobReads n (issueRead s1 line false (.job id)) id
        else s
      | none => s
    | none => s

/-- The parts of a list of device ranges that lie in the companion window, as companion ranges. -/
def windowRanges (rs : List (Nat × Nat)) : List (Nat × Nat) :=
  (rs.filter (fun r => inWindow r.1 && r.2 != 0)).map (fun r => (r.1 - companionBase, r.2))

/-- One step of a command: a sleeping region that it needs wakes first (R463), its companion sources are read, then its
body runs. -/
def runJob (s : State) (id opcode : Nat) (sources : State → Job → List (Nat × Nat))
    (body : State → Nat → Job → State) : State :=
  match tabGet s.jobs id with
  | some j =>
    if !(eligible s j opcode && inTurn s j id) then s
    else if !(engineRegions s j).all (regionAwake s) then (engineRegions s j).foldl needRegion s
    else
      let ws := windowRanges (sources s j)
      if j.fetched || ws.isEmpty then
        if j.reads == 0 && j.toRead.isEmpty then
          let t := body { s with perf := { s.perf with actor := some j.ctx } } id j
          { t with perf := { t.perf with actor := none } }
        else issueJobReads 4096 s id
      else if s.aedup.link.state == .active then
        issueJobReads 4096 (updJob s id (fun j => { j with fetched := true, toRead := ws })) id
      else s
  | none => s

/-- Sources that a command learns of only from what it has read: read from companion memory once, then it goes on. -/
def fetchMore (s : State) (id : Nat) (j : Job) (rs : List (Nat × Nat)) (go : State → State) : State :=
  let ws := windowRanges rs
  if j.more || ws.isEmpty then go s
  else if s.aedup.link.state == .active then updJob s id (fun j => { j with more := true, toRead := ws })
  else s

/-- No companion source. -/
def noSources : State → Job → List (Nat × Nat) := fun _ _ => []

/-- A command's posted write is noted with the SEQ of its flit, which a link reset may lose (R340). -/
def notePosted (s : State) (id a n : Nat) : State :=
  if inWindow a && n != 0 then
    { s with aedup := { s.aedup with posted := s.aedup.posted ++ [((s.aedup.link.sendSeq + 1023) % 1024, id)] } }
  else s

/-- A write of a command's output: performed and the command goes on, or it waits, or it ends with the status. -/
def withWrite (s : State) (id a n : Nat) (go : State → State) : State :=
  match prepareWrite s a n with
  | .ready t => notePosted (go t) id a n
  | .wait t => t
  | .fail t st => finish t id st 0

/-- A command's output bytes are written, and the command ends. -/
def writeAndFinish (s : State) (id a : Nat) (bs : List Nat) (status result : Nat) : State :=
  withWrite s id a bs.length (fun t => finish (writeBytes t a bs) id status result)

/-- A command reads a range, or ends with ECC_UNCORRECTABLE. -/
def withRead (s : State) (id a n : Nat) (go : State → List Nat → State) : State :=
  if readBad s a n then finish s id Code.ECC_UNCORRECTABLE 0 else go (touchRange s a n) (bytesAt s a n)

/-- Commands whose RESULT, or whose rows already written, tell where an uncorrectable read was met (Tables 11.6 and 12.6):
they read on to that place. -/
def tellsWhere (opcode : Nat) : Bool := opcode == Op.TOPK || opcode == Op.MERGE || opcode == Op.BELT_GATHER

/-- What admission needs to know of an opcode: the PARAMS bits it uses, its field and condition checks (step 4c of
R57), when a zero length, count or size makes it OK_NOOP (step 5), and what its admission itself does (R62). -/
structure CmdSpec where
  used  : Nat → Nat
  check : State → Nat → Nat → Nat
  noop  : Nat → Bool
  atAdmission : State → Nat → State

/-- No effect at admission. -/
def noAdmit : State → Nat → State := fun s _ => s

/-- No zero field of the command is a length, count or size. -/
def noZero : Nat → Bool := fun _ => false

/-- The first failing condition's status; OK when none fails. -/
def firstBad : List (Bool × Nat) → Nat
  | [] => Code.OK
  | (bad, st) :: rest => if bad then st else firstBad rest

/-! ### Regions lost and reset (R388, R398) -/

/-- A command has been handed to its engines: it has started and is not completed. -/
def handedOver (j : Job) : Bool := j.phase != .admitted || j.fetched || !j.work.isEmpty || j.reads != 0

/-- What REGION_SLEEP loses in a region (Table 19.4): Pocket, accumulators, and the Wardrobe's models held there. -/
def loseRegion (s : State) (r : Nat) : State :=
  let inR (b : Nat) : Bool := regionOfBlock b == r
  { s with
    pocket := s.pocket.filter (fun c => !inR (c.1 / pocketBytes))
    acc := s.acc.filter (fun p => !inR (p.1 / 65536))
    models := tabMap s.models (fun m x =>
      if x.resident && (List.range 300).any (fun i => Config.modelHeld m (300 * r + i)) then { x with resident := false }
      else x)
    power := { s.power with blocks := s.power.blocks.filter (fun p => !inR p.1), stageMa := tabDel s.power.stageMa r } }

/-- The region's counters, shadows and sample buffer are zeroed (Table 22.7). -/
def zeroRegionCounts (s : State) (r : Nat) : State :=
  let blk (t : Tab Nat) : Tab Nat := t.filter (fun p => p.1 / 8 / 300 != r)
  let reg_ (t : Tab Nat) : Tab Nat := t.filter (fun p => p.1 / 32 != r)
  setReg (setReg { s with perf := { s.perf with
      block := blk s.perf.block, blockShadow := blk s.perf.blockShadow, region := reg_ s.perf.region,
      regionShadow := reg_ s.perf.regionShadow, filled := s.perf.filled.filter (fun b => b != r),
      samples := s.perf.samples.filter (fun p => p.1 / 1024 != r) } }
    (Key.PERF_SAMPLE_COUNT r) 0) (Key.PERF_SAMPLE_RELEASE r) 0

/-- Steps 1 and 2 of a region reset: the contexts with quads in the region are torn down, their drains cut short, and the
commands that its engines serve for other contexts complete with CTX_TORN_DOWN. -/
def emptyRegion (s : State) (r : Nat) : State :=
  let cs := (s.ctxs.filter (fun p => p.2.quads.any (fun q => regionOfQuad q == r))).map Prod.fst
  let s1 := cs.foldl (fun t c => drainEnd (faultCtx t c Code.CTX_TORN_DOWN) c) s
  (s1.jobs.filter (fun p => openJob p.2 && handedOver p.2 && (engineRegions s1 p.2).contains r)).foldl
    (fun t p => finish t p.1 Code.CTX_TORN_DOWN 0) s1

/-- A region reset begins (R398): its contexts and commands end, its stacks enter self-refresh, its logic is reset, and the
Collar wakes it. -/
def startRegionReset (s : State) (r : Nat) : State :=
  if s.chip.resetting.contains r then s
  else
    let s1 := zeroRegionCounts (loseRegion (emptyRegion s r) r) r
    let s2 := setReg (bump s1 Key.RESET_REGION_RESETS 1) Key.POWER_REGION_SLEEP_MAP
      (setField (reg s1 Key.POWER_REGION_SLEEP_MAP) r 1 0)
    let own (k : Nat) : Bool := k / 3 == r
    showPower { s2 with
      chip := { s2.chip with
        closed := insertUp r (s2.chip.closed.filter (fun x => x != r)), resetting := insertUp r s2.chip.resetting }
      mem := { s2.mem with hbmStacks := tabMap s2.mem.hbmStacks (fun k x => if own k then { x with selfRefresh := true } else x) }
      test := { s2.test with slices := s2.test.slices.filter (fun p => regionOfBlock p.1 != r) }
      power := { s2.power with
        waking := s2.power.waking.filter (fun x => x != r) ++ [r]
        stage := if s2.power.waking.head? == some r then 0 else s2.power.stage } }

/-- A region fault (Table 1.4): it is logged, and the region is reset. -/
def regionFaultBy (s : State) (r : Nat) (unit : LogUnit) (inst : Nat) : State :=
  startRegionReset (logError s unit inst Code.CTX_TORN_DOWN noCtx .regionReset 0) r

def regionFault (s : State) (r : Nat) : State := regionFaultBy s r .regionSequencer r

/-! ### Pockets (chapter 7) -/

/-- Pocket rows of a context in each block (R84). -/
def contextRows (s : State) : Nat := 16384 - reg s Key.WARDROBE_BAND_ROWS

/-- The address of a Pocket byte in the model's Pocket memory. -/
def pocketAddr (block row byte : Nat) : Nat := block * pocketBytes + row * 256 + byte

/-- Bytes of a physical block's Pocket. -/
def pocketRead (s : State) (block row byte n : Nat) : List Nat := memBytes s.pocket (pocketAddr block row byte) n

/-- Bytes written to a physical block's Pocket. -/
def pocketWrite (s : State) (block row byte : Nat) (bs : List Nat) : State :=
  { s with pocket := memWrite s.pocket (pocketAddr block row byte) bs }

/-- Bytes of a logical block's Pocket; a block outside the partition reads as zeros. -/
def lbRead (s : State) (x : Ctx) (lb row byte n : Nat) : List Nat :=
  match physBlock x lb with
  | some b => pocketRead s b row byte n
  | none => List.replicate n 0

/-- Bytes written to a logical block's Pocket. -/
def lbWrite (s : State) (x : Ctx) (lb row byte : Nat) (bs : List Nat) : State :=
  match physBlock x lb with
  | some b => pocketWrite s b row byte bs
  | none => s

/-- A word of a block's accumulator file. -/
def accRead (s : State) (block row col : Nat) : Nat := (tabGet s.acc (block * 65536 + row * 128 + col)).getD 0

/-- A word written to a block's accumulator file; a zero is not listed. -/
def accWrite (s : State) (block row col v : Nat) : State :=
  let k := block * 65536 + row * 128 + col
  { s with acc := if v % 2 ^ 32 = 0 then tabDel s.acc k else tabSet s.acc k (v % 2 ^ 32) }

end Sys2Proof.Machine
end

