-- ==== Sys2Proof/Machine/Pocket.lean ====
section
/-! DEFINITION. The Pocket scratchpad (chapter 7): channel windows, Pocket errors, remote access and the Pocket commands. -/

namespace Sys2Proof.Machine

/-! ### Pocket errors (R16, Table 1.4) -/

/-- A double-bit error in a block's Pocket: the second within 2^20 beats quarantines the block. -/
def pocketUncorrectable (s : State) (b ctx : Nat) : State :=
  let s1 := bump (logError s .pocket b Code.ECC_UNCORRECTABLE ctx .teardown 0) Key.POCKET_UNCORRECTABLE 1
  let again : Bool := match tabGet s1.chip.pocketErr b with
    | some beat => beatNow s1 - beat < 2 ^ 20
    | none => false
  let s2 := { s1 with chip := { s1.chip with pocketErr := tabSet s1.chip.pocketErr b (beatNow s1) } }
  if again then quarantine s2 b Code.ECC_UNCORRECTABLE else s2

/-! ### Channel windows (R154 to R158) -/

/-- The key of a window of a logical block. -/
def windowKey (lb w : Nat) : Nat := lb * 16 + w

/-- The rows of two runs meet. -/
def rowsMeet (a n b m : Nat) : Bool := n != 0 && m != 0 && a < b + m && b < a + n

/-- The slots of a window that a run of rows touches. -/
def slotsTouched (w : Window) (row rows : Nat) : List Nat :=
  (List.range w.slots).filter (fun i => rowsMeet (w.base + i * w.slotRows) w.slotRows row rows)

/-- The slots of a context that an accessor of a run of rows of a logical block touches: (window key, slot), in
ascending order of window and slot. -/
def slotsOf (x : Ctx) (lb row rows : Nat) : List (Nat × Nat) :=
  ((x.windows.filter (fun p => p.1 / 16 == lb)).map (fun p =>
    (slotsTouched p.2 row rows).map (fun i => (p.1, i)))).flatten

/-- The tag of a slot. -/
def slotTag (x : Ctx) (k i : Nat) : SlotTag :=
  match tabGet x.windows k with
  | some w => w.tags[i]?.getD .empty
  | none => .empty

/-- A slot given a tag. -/
def setSlot (x : Ctx) (k i : Nat) (t : SlotTag) : Ctx :=
  { x with windows := tabUpd x.windows k (fun w => { w with tags := w.tags.set i t }) }

/-- Every claim of an accessor can succeed: EMPTY slots to write, FULL slots to read (R155). -/
def claimable (x : Ctx) (reads writes : List (Nat × Nat)) : Bool :=
  reads.all (fun p => slotTag x p.1 p.2 == .full) && writes.all (fun p => slotTag x p.1 p.2 == .empty)

/-- The claims are made, all at once. -/
def claimSlots (x : Ctx) (reads writes : List (Nat × Nat)) : Ctx :=
  let y := reads.foldl (fun y p => setSlot y p.1 p.2 .reading) x
  writes.foldl (fun y p => setSlot y p.1 p.2 .writing) y

/-- The accessor retires: what it wrote is FULL, what it read is EMPTY. -/
def retireSlots (x : Ctx) (reads writes : List (Nat × Nat)) : Ctx :=
  let y := reads.foldl (fun y p => setSlot y p.1 p.2 .empty) x
  writes.foldl (fun y p => setSlot y p.1 p.2 .full) y

/-- The accessor is stopped: its slots have the tags they had before the claim (R158). -/
def unclaimSlots (x : Ctx) (reads writes : List (Nat × Nat)) : Ctx :=
  let y := reads.foldl (fun y p => setSlot y p.1 p.2 .full) x
  writes.foldl (fun y p => setSlot y p.1 p.2 .empty) y

/-- The TIMEOUT of an accessor: the smallest non-zero one of the windows it touches, and that window (R157). -/
def claimTimeout (x : Ctx) (slots : List (Nat × Nat)) : Option (Nat × Nat) :=
  (sortBy (fun a b => a.1 < b.1) (slots.filterMap (fun p => match tabGet x.windows p.1 with
    | some w => if w.timeout = 0 then none else some (w.timeout, p.1)
    | none => none))).head?

/-- The record of a window in a block image (Table 7.10). -/
def windowRecord (w : Window) : Nat :=
  let tags := w.tags.reverse.foldl (fun n t => 4 * n + match t with
    | .empty => 0 | .writing => 1 | .full => 2 | .reading => 3) 0
  w.wait % 2 ^ 32 * 2 ^ 256 + tags * 2 ^ 128 + flagBit w.initFull * 2 ^ 97 + 2 ^ 96 + w.timeout * 2 ^ 64 +
    w.slots * 2 ^ 32 + w.slotRows * 2 ^ 24 + w.base

/-- The window a record of a block image describes, if it is enabled. -/
def windowOfRecord (r : Nat) : Option Window :=
  if bitOf r 96 then
    let n := field r 32 8
    some { base := field r 0 16, slotRows := field r 24 8, slots := n, timeout := field r 64 32,
           initFull := bitOf r 97, wait := field r 256 32,
           tags := (List.range n).map (fun i => match field r (128 + 2 * i) 2 with
             | 1 => .writing | 2 => .full | 3 => .reading | _ => .empty) }
  else none

/-- POCKET.LAST_TIMEOUT (Table 7.9). -/
def lastTimeout (ctx lb w : Nat) : Nat := ctx * 2 ^ 48 + lb * 2 ^ 32 + w

/-! ### Group maps (R148, R149) -/

/-- The port that owns the group of a row. -/
def rowOwner (map row : Nat) : Nat := field map (2 * (row / 1024)) 2

/-- An access by a port to a context row of a group another port owns is a stray, which is counted. -/
def countStray (s : State) (x : Ctx) (lb port row : Nat) : State :=
  if row < contextRows s && rowOwner x.groupMap row != port then
    let s1 := bump s (Key.POCKET_STRAYS port) 1
    match physBlock x lb with
    | some b => countBlock s1 b 0x108 1 { addr := row * 256, vblock := lb }
    | none => s1
  else s

/-- Strays of an accessor that touches a run of rows of a logical block once each. -/
def countStrays (s : State) (x : Ctx) (lb port row rows : Nat) : State :=
  (List.range rows).foldl (fun t i => countStray t x lb port (row + i)) s

def portFeed : Nat := 0
def portDrain : Nat := 1
def portBelt : Nat := 2
def portMesh : Nat := 3

/-! ### Pocket commands (R159 to R162) -/

/-- PARAMS of the Pocket commands (Table 7.6). -/
def pkPattern (e : Nat) : Nat := param e 511 480
def pkTimeout (e : Nat) : Nat := param e 479 448
def pkGroupMap (e : Nat) : Nat := param e 447 384
def pkRow (e : Nat) : Nat := param e 383 368
def pkSrcRow (e : Nat) : Nat := param e 367 352
def pkRows (e : Nat) : Nat := param e 351 336
def pkWord (e : Nat) : Nat := param e 335 328
def pkSrcWord (e : Nat) : Nat := param e 327 320
def pkWords (e : Nat) : Nat := param e 319 312
def pkSlotRows (e : Nat) : Nat := param e 311 304
def pkSlots (e : Nat) : Nat := param e 303 296
def pkWindow (e : Nat) : Nat := param e 295 288
def pkTranspose (e : Nat) : Bool := paramBit e 287
def pkSetGroups (e : Nat) : Bool := paramBit e 286
def pkSetWindow (e : Nat) : Bool := paramBit e 285
def pkEnable (e : Nat) : Bool := paramBit e 284
def pkInitFull (e : Nat) : Bool := paramBit e 283
def pkFirstVb (e : Nat) : Nat := param e 271 256
def pkVbCount (e : Nat) : Nat := param e 255 240

/-- The named blocks leave the partition. -/
def vbBad (s : State) (c e : Nat) : Bool := 4 * (ctxOf s c).partition < pkFirstVb e + pkVbCount e

/-- The logical blocks a Pocket command names. -/
def pkBlocks (e : Nat) : List Nat := (List.range (pkVbCount e)).map (fun i => pkFirstVb e + i)

def pocketFillSpec : CmdSpec where
  used _ := usedBits [(511, 480), (383, 368), (351, 336), (335, 328), (319, 312), (271, 256), (255, 240)]
  check s c e := firstBad
    [(16384 < pkRows e || 63 < pkWord e || 64 < pkWords e, Code.BAD_FIELD),
     (vbBad s c e, Code.BAD_FIELD),
     (contextRows s < pkRow e + pkRows e, Code.BAD_FIELD),
     (64 < pkWord e + pkWords e, Code.BAD_FIELD)]
  noop e := pkRows e == 0 || pkWords e == 0 || pkVbCount e == 0
  atAdmission := noAdmit

/-- One block's rectangle filled with a pattern. -/
def fillBlock (e : Nat) (x : Ctx) (s : State) (lb : Nat) : State :=
  let words := (List.replicate (pkWords e) (leBytes 4 (pkPattern e))).flatten
  (List.range (pkRows e)).foldl (fun t i =>
    lbWrite (countStray t x lb portBelt (pkRow e + i)) x lb (pkRow e + i) (4 * pkWord e) words) s

/-- POCKET_FILL (R160). -/
def pocketFillBody (s : State) (id : Nat) (j : Job) : State :=
  let x := ctxOf s j.ctx
  finish ((pkBlocks j.entry).foldl (fillBlock j.entry x) s) id Code.OK
    (pkVbCount j.entry * pkRows j.entry * pkWords j.entry)

def execPocketFill (job : Nat) (s : State) : Host.Outcome State Fault Refusal :=
  .next (runJob s job Op.POCKET_FILL noSources pocketFillBody)

/-- The destination of a copy: rows and word columns. -/
def copyShape (e : Nat) : Nat × Nat :=
  if pkTranspose e then (pkWords e, pkRows e) else (pkRows e, pkWords e)

/-- Source and destination rectangles of a copy overlap. -/
def copyOverlaps (e : Nat) : Bool :=
  rowsMeet (pkSrcRow e) (pkRows e) (pkRow e) (copyShape e).1 &&
    rowsMeet (pkSrcWord e) (pkWords e) (pkWord e) (copyShape e).2

def pocketCopySpec : CmdSpec where
  used _ := usedBits [(383, 368), (367, 352), (351, 336), (335, 328), (327, 320), (319, 312), (287, 287), (271, 256),
    (255, 240)]
  check s c e := firstBad
    [(16384 < pkRows e || 63 < pkWord e || 63 < pkSrcWord e || 64 < pkWords e, Code.BAD_FIELD),
     (vbBad s c e, Code.BAD_FIELD),
     (contextRows s < pkSrcRow e + pkRows e || contextRows s < pkRow e + (copyShape e).1, Code.BAD_FIELD),
     (64 < pkSrcWord e + pkWords e, Code.BAD_FIELD),
     (!pkTranspose e && 64 < pkWord e + pkWords e, Code.BAD_FIELD),
     (pkTranspose e && (64 < pkRows e || 64 < pkWord e + pkRows e || copyOverlaps e), Code.BAD_FIELD)]
  noop e := pkRows e == 0 || pkWords e == 0 || pkVbCount e == 0
  atAdmission := noAdmit

/-- One block's rectangle copied as if the whole source had been read first. -/
def copyBlock (e : Nat) (x : Ctx) (s : State) (lb : Nat) : State :=
  let cells := ((List.range (pkRows e)).map (fun i => (List.range (pkWords e)).map (fun k =>
    (i, k, lbRead s x lb (pkSrcRow e + i) (4 * (pkSrcWord e + k)) 4)))).flatten
  let s1 := countStrays s x lb portBelt (pkSrcRow e) (pkRows e)
  let s2 := countStrays s1 x lb portBelt (pkRow e) (copyShape e).1
  cells.foldl (fun t c =>
    if pkTranspose e then lbWrite t x lb (pkRow e + c.2.1) (4 * (pkWord e + c.1)) c.2.2
    else lbWrite t x lb (pkRow e + c.1) (4 * (pkWord e + c.2.1)) c.2.2) s2

/-- POCKET_COPY (R161, R163).  `bad` is a logical block in which the copy reads an uncorrectable word, if it does. -/
def pocketCopyBody (bad : Option Nat) (s : State) (id : Nat) (j : Job) : State :=
  let x := ctxOf s j.ctx
  match bad with
  | some lb =>
    if (pkBlocks j.entry).contains lb then
      match physBlock x lb with
      | some b => faultJob (pocketUncorrectable s b j.ctx) id j.ctx Code.ECC_UNCORRECTABLE
      | none => s
    else s
  | none =>
    finish ((pkBlocks j.entry).foldl (copyBlock j.entry x) s) id Code.OK
      (pkVbCount j.entry * pkRows j.entry * pkWords j.entry)

def execPocketCopy (job : Nat) (uncorrectable : Option Nat) (s : State) : Host.Outcome State Fault Refusal :=
  .next (runJob s job Op.POCKET_COPY noSources (pocketCopyBody uncorrectable))

/-- The PARAMS bits POCKET_CONFIG uses depend on its switches (Table 7.8). -/
def pocketConfigUsed (e : Nat) : Nat :=
  usedBits ([(286, 286), (285, 285)] ++ (if pkSetGroups e then [(447, 384)] else []) ++
    (if pkSetWindow e then [(295, 288), (284, 284), (271, 256), (255, 240)] else []) ++
    (if pkSetWindow e && pkEnable e then [(479, 448), (383, 368), (311, 304), (303, 296), (283, 283)] else []))

/-- The rows of the window that a POCKET_CONFIG declares. -/
def pkWindowRows (e : Nat) : Nat := pkSlots e * pkSlotRows e

/-- The declared window overlaps another enabled window of a named block. -/
def windowOverlaps (s : State) (c e : Nat) : Bool :=
  (ctxOf s c).windows.any (fun p =>
    pkFirstVb e ≤ p.1 / 16 && p.1 / 16 < pkFirstVb e + pkVbCount e && p.1 % 16 != pkWindow e &&
    rowsMeet p.2.base (p.2.slots * p.2.slotRows) (pkRow e) (pkWindowRows e))

def pocketConfigSpec : CmdSpec where
  used := pocketConfigUsed
  check s c e := firstBad
    [(field (pkGroupMap e) 32 32 != 0, Code.BAD_FIELD),
     (pkSetWindow e && (15 < pkWindow e || vbBad s c e), Code.BAD_FIELD),
     (pkSetWindow e && pkEnable e &&
       (pkSlots e == 0 || 64 < pkSlots e || pkSlotRows e == 0 || contextRows s < pkRow e + pkWindowRows e ||
        windowOverlaps s c e), Code.BAD_FIELD)]
  noop e := !pkSetGroups e && (!pkSetWindow e || pkVbCount e == 0)
  atAdmission := noAdmit

/-- The window a POCKET_CONFIG declares. -/
def pkNewWindow (e : Nat) : Window :=
  { base := pkRow e, slotRows := pkSlotRows e, slots := pkSlots e, timeout := pkTimeout e, initFull := pkInitFull e,
    tags := List.replicate (pkSlots e) (if pkInitFull e then .full else .empty) }

/-- POCKET_CONFIG (R162).  A check that fails changes nothing; the overlap of windows is judged as the command runs. -/
def pocketConfigBody (s : State) (id : Nat) (j : Job) : State :=
  let e := j.entry
  if pkSetWindow e && pkEnable e && windowOverlaps s j.ctx e then finish s id Code.BAD_FIELD 0
  else
    let s1 := updCtx s j.ctx (fun x =>
      let y := if pkSetGroups e then { x with groupMap := pkGroupMap e % 2 ^ 32 } else x
      if pkSetWindow e then
        (pkBlocks e).foldl (fun z lb => { z with
          windows := if pkEnable e then tabSet z.windows (windowKey lb (pkWindow e)) (pkNewWindow e)
                     else tabDel z.windows (windowKey lb (pkWindow e)) }) y
      else y)
    finish s1 id Code.OK 0

def execPocketConfig (job : Nat) (s : State) : Host.Outcome State Fault Refusal :=
  .next (runJob s job Op.POCKET_CONFIG noSources pocketConfigBody)

/-! ### Remote access (R153) -/

/-- POCKET_REMOTE_ACCESS: a remote request for words of a logical block of a context arrives at the block's mesh port.
A quarantined block answers ECC_UNCORRECTABLE (R16); the Wardrobe band is not reached this way. -/
def pocketRemoteAccess (s : State) (c lb row byte words : Nat) (write : Bool) (data : Nat) : State :=
  let x := ctxOf s c
  match physBlock x lb with
  | some b =>
    if !blockAvailable s b then send s (.meshReply b Code.ECC_UNCORRECTABLE 0)
    else if contextRows s ≤ row || sliced s b then s
    else
      let s1 := countStray s x lb portMesh row
      if write then send (pocketWrite s1 b row byte (leBytes (4 * words) data)) (.meshReply b Code.OK 0)
      else send s1 (.meshReply b Code.OK (ofLeBytes (pocketRead s1 b row byte (4 * words))))
  | none => s

def execPocketRemoteAccess (ctx block row byte words : Nat) (write : Bool) (data : Nat) (s : State) :
    Host.Outcome State Fault Refusal :=
  .next (pocketRemoteAccess s ctx block row byte words write data)

end Sys2Proof.Machine
end

