-- ==== Sys2Proof/Machine/Tiers.lean ====
section
/-! DEFINITION. The memory tiers' commands and events (chapter 8): object commands, moves, staging and flushing, the flash
tier's upkeep, HBM upkeep, and the training of stacks and channels. -/

namespace Sys2Proof.Machine

/-! ### Object commands (R172 to R175) -/

/-- PARAMS of the object commands (Table 8.4). -/
def objAddr (e : Nat) : Nat := param e 511 448
def objSize (e : Nat) : Nat := param e 447 384
def objDest (e : Nat) : Nat := param e 383 320
def objPolicy (e : Nat) : Nat := param e 319 312
def objRegion (e : Nat) : Nat := param e 311 304

/-- POLICY and REGION lie within their limits. -/
def policyBad (e : Nat) : Bool :=
  objPolicy e > 2 || (objPolicy e != 2 && !(objRegion e < 4 || objRegion e == 7))

/-- A range overlaps a registered object. -/
def overlapsObject (s : State) (a n : Nat) : Bool :=
  s.mem.objects.any (fun p => p.1 < a + n && a < p.1 + p.2.size)

/-- The registered object whose base is an address. -/
def objectBase (s : State) (a : Nat) : Option Obj :=
  match tabGet s.mem.objects a with
  | some o => if o.released then none else some o
  | none => none

/-- Units of region `r` that an object reserves under policy HBM. -/
def reserveIn (size region r : Nat) : Nat :=
  let n := size / unitBytes
  if region == r then n else if region == 7 then interleaved n r else 0

/-- Units of region `r` that demotion could free. -/
def demotableIn (s : State) (r : Nat) : Nat :=
  (s.mem.units.filter (fun p => demotable s p.1 p.2 && p.2.home == .hbm r)).length

/-- FLASH objects, in bytes. -/
def flashObjectBytes (s : State) : Nat :=
  (s.mem.objects.map (fun p => if p.2.policy == 2 then p.2.size else 0)).sum

/-- The capacity an object's policy reserves can be held, after every demotion if need be (R172). -/
def capacityHeld (s : State) (size policy region : Nat) : Bool :=
  if policy == 2 then flashObjectBytes s + swapInForce s + size ≤ reg s Key.FLASH_CAPACITY
  else if policy == 0 then
    (List.range 4).all (fun r => reserveIn size region r ≤ poolFree s r + demotableIn s r)
  else true

/-- The first region in which an HBM reservation still lacks units. -/
def shortRegion (s : State) (size region : Nat) : Option Nat :=
  (List.range 4).find? (fun r => poolFree s r < reserveIn size region r)

def objRegisterSpec : CmdSpec where
  used _ := usedBits [(511, 448), (447, 384), (319, 312), (311, 304)]
  check s _ e := firstBad
    [(objAddr e % unitBytes != 0 || objSize e % unitBytes != 0, Code.BAD_FIELD),
     (objectSpaceEnd < objAddr e + objSize e, Code.BAD_FIELD),
     (policyBad e, Code.BAD_FIELD),
     (objSize e != 0 && overlapsObject s (objAddr e) (objSize e), Code.BAD_FIELD)]
  noop e := objSize e == 0
  atAdmission := noAdmit

/-- OBJ_REGISTER (R172). -/
def objRegisterBody (s : State) (id : Nat) (j : Job) : State :=
  let a := objAddr j.entry
  let n := objSize j.entry
  let p := objPolicy j.entry
  let r := objRegion j.entry
  if overlapsObject s a n then finish s id Code.BAD_FIELD 0
  else if 65536 ≤ s.mem.objects.length || !capacityHeld s n p r then finish s id Code.POOL_EXHAUSTED 0
  else
    let add (t : State) : State :=
      finish { t with mem := { t.mem with objects := tabSet t.mem.objects a { size := n, policy := p, region := r } } }
        id Code.OK (n / unitBytes)
    if p == 0 then
      match shortRegion s n r with
      | some q => match demoteIn s q with
        | .wait t => t
        | _ => finish s id Code.POOL_EXHAUSTED 0
      | none => add s
    else add s

def execObjRegister (job : Nat) (s : State) : Host.Outcome State Fault Refusal :=
  .next (runJob s job Op.OBJ_REGISTER noSources objRegisterBody)

/-- A command names an address inside an object: one of the 64-bit fields of its PARAMS lies there. -/
def namesObject (e base size : Nat) : Bool :=
  (List.range 7).any (fun i =>
    let a := param e (511 - 64 * i) (448 - 64 * i)
    base ≤ a && a < base + size)

/-- A model registered with WARDROBE_REGISTER lies in a range. -/
def holdsModel (s : State) (a n : Nat) : Bool :=
  s.models.any (fun p => p.2.addr < a + n && a < p.2.addr + p.2.size)

/-- A loaded vocabulary's image begins in a range (R197). -/
def holdsVocab (s : State) (a n : Nat) : Bool := s.vocabs.any (fun p => a ≤ p.2.addr && p.2.addr < a + n)

/-- Fields of an index descriptor (Table 10.2). -/
def ixListArea (d : Nat) : Nat := field d 960 64
def ixVectorArea (d : Nat) : Nat := field d 896 64
def ixTextArea (d : Nat) : Nat := field d 832 64
def ixCentroidArea (d : Nat) : Nat := field d 768 64
def ixStateArea (d : Nat) : Nat := field d 704 64

/-- The five areas of an index. -/
def ixAreas (d : Nat) : List Nat := [ixListArea d, ixVectorArea d, ixTextArea d, ixCentroidArea d, ixStateArea d]

/-- An open index has an area at an address (R211). -/
def holdsIndex (s : State) (a : Nat) : Bool := s.indexes.any (fun p => (ixAreas p.2.desc).contains a)

/-- Fields of a Belt table descriptor (Table 12.1) that name memory. -/
def btData (d : Nat) : Nat := field d 448 64
def btTomb (d : Nat) : Nat := field d 384 64
def btDefault (d : Nat) : Nat := field d 320 64
def btDefaultKind (d : Nat) : Nat := field d 234 2
def btTombEn (d : Nat) : Bool := bitOf d 233

/-- A live version of a Belt table names an address in a range (R255). -/
def holdsBelt (s : State) (a n : Nat) : Bool :=
  let inIt (b : Nat) : Bool := a ≤ b && b < a + n
  s.belt.tables.any (fun t => t.2.versions.any (fun v =>
    inIt (btData v.2) || (btTombEn v.2 && inIt (btTomb v.2)) || (btDefaultKind v.2 == 1 && inIt (btDefault v.2))))

/-- A loaded grammar's image begins in a range (R320). -/
def holdsGrammar (s : State) (a n : Nat) : Bool := s.grammars.any (fun p => a ≤ p.2.addr && p.2.addr < a + n)

/-- The ranges of memory that a chapter states to be in use: Wardrobe images, vocabularies, the areas of indexes, the
objects of Belt tables and grammars (R173). -/
def objectInUse (s : State) (a n : Nat) : Bool :=
  holdsModel s a n || holdsVocab s a n || holdsIndex s a || holdsBelt s a n || holdsGrammar s a n

/-- From its admission an object being released is no longer found by later commands (R173). -/
def objReleaseAdmit (s : State) (id : Nat) : State :=
  match tabGet s.jobs id with
  | some j => { s with mem := { s.mem with
      objects := tabUpd s.mem.objects (objAddr j.entry) (fun o => { o with released := true }) } }
  | none => s

def objReleaseSpec : CmdSpec where
  used _ := usedBits [(511, 448)]
  check s _ e := match objectBase s (objAddr e) with
    | some o => if objectInUse s (objAddr e) o.size then Code.BAD_FIELD else Code.OK
    | none => Code.BAD_FIELD
  noop := noZero
  atAdmission := objReleaseAdmit

/-- OBJ_RELEASE (R173): it waits for the earlier commands that name the object and for its moves, discards staged writes,
and frees the units; the capacity returns at the next boundary. -/
def objReleaseBody (s : State) (id : Nat) (j : Job) : State :=
  let a := objAddr j.entry
  match tabGet s.mem.objects a with
  | none => finish s id Code.BAD_FIELD 0
  | some o =>
    let inIt (u : Nat) : Bool := a / unitBytes ≤ u && u < (a + o.size) / unitBytes
    let mine := s.mem.units.filter (fun p => inIt p.1)
    if s.jobs.any (fun p => p.1 < id && openJob p.2 && namesObject p.2.entry a o.size) ||
        mine.any (fun p => p.2.move.isSome) then s
    else
      let back :=
        if o.policy == 0 then (List.range 4).map (fun r => (r, reserveIn o.size o.region r))
        else mine.filterMap (fun p => match p.2.home with
          | .hbm r => some (r, 1)
          | _ => none)
      finish { s with copies := tabDel s.copies a, mem := { s.mem with
          objects := tabDel s.mem.objects a
          units := s.mem.units.filter (fun p => !inIt p.1)
          staged := s.mem.staged.filter (fun p => !inIt (p.1 / 512))
          dev := memClear s.mem.dev a o.size
          poison := s.mem.poison.filter (fun l => !(a ≤ l * 128 && l * 128 < a + o.size))
          freeing := s.mem.freeing ++ back } } id Code.OK mine.length

def execObjRelease (job : Nat) (s : State) : Host.Outcome State Fault Refusal :=
  .next (runJob s job Op.OBJ_RELEASE noSources objReleaseBody)

/-- A backed unit whose home does not match its object's policy and region (R174). -/
def misplaced (base : Nat) (o : Obj) (u : Nat) (x : UnitInfo) : Bool :=
  if o.policy == 0 then x.home != .hbm (unitRegion base o u)
  else if o.policy == 2 then x.home != .flash
  else false

/-- The units of an object. -/
def unitsOfObject (s : State) (base : Nat) (o : Obj) : Tab UnitInfo :=
  s.mem.units.filter (fun p => base / unitBytes ≤ p.1 && p.1 < (base + o.size) / unitBytes)

/-- The misplaced units of an object, in ascending address. -/
def misplacedUnits (s : State) (base : Nat) (o : Obj) : List Nat :=
  ((unitsOfObject s base o).filter (fun p => misplaced base o p.1 p.2)).map Prod.fst

/-- At its admission OBJ_SET_POLICY gives the object its new values, unless the capacity they need cannot be held.  Its
progress is [units moved, a move was abandoned, values changed, the capacity is held]. -/
def objSetPolicyAdmit (s : State) (id : Nat) : State :=
  match tabGet s.jobs id with
  | some j =>
    let a := objAddr j.entry
    match tabGet s.mem.objects a with
    | some o =>
      let p := objPolicy j.entry
      let r := objRegion j.entry
      let same := o.policy == p && o.region == r
      let rest := { s with mem := { s.mem with objects := tabUpd s.mem.objects a (fun o => { o with policy := 1 }) } }
      let held := same || capacityHeld rest o.size p r
      let s1 := updJob s id (fun j => { j with work := [0, 0, flagBit (!same), flagBit held] })
      if held then
        { s1 with mem := { s1.mem with
            objects := tabUpd s1.mem.objects a (fun o => { o with policy := p, region := r }) } }
      else s1
    | none => s
  | none => s

def objSetPolicySpec : CmdSpec where
  used _ := usedBits [(511, 448), (319, 312), (311, 304)]
  check s _ e := match objectBase s (objAddr e) with
    | some o => firstBad
        [(policyBad e, Code.BAD_FIELD),
         (objPolicy e != 0 && holdsModel s (objAddr e) o.size, Code.BAD_FIELD)]
    | none => Code.BAD_FIELD
  noop := noZero
  atAdmission := objSetPolicyAdmit

/-- Moves in flight to or from a region. -/
def movesInFlight (s : State) (r : Nat) : Nat :=
  (s.mem.units.filter (fun p => p.2.move.isSome && (p.2.home == .hbm r ||
    match p.2.move with
    | some m => m.dest == .hbm r
    | none => false))).length

/-- Moves of misplaced units start, in ascending address, while the limit allows; a unit with staged writes has its
stripes programmed first (R174). -/
def startPolicyMoves (id base : Nat) (o : Obj) : State → List Nat → State
  | s, [] => s
  | s, u :: us =>
    let dest : Home := if o.policy == 2 then .flash else .hbm (unitRegion base o u)
    let staged := (s.mem.staged.filter (fun p => p.1 / 512 == u)).map (fun p => p.1 / 16)
    let region := match dest with
      | .hbm r => r
      | _ => unitRegion base o u
    if !staged.isEmpty then startPolicyMoves id base o ((distinct staged).foldl startProgram s) us
    else if movesInFlight s region < 256 then
      startPolicyMoves id base o (startMove s u dest (.policy id)) us
    else startPolicyMoves id base o s us

/-- OBJ_SET_POLICY (R174). -/
def objSetPolicyBody (s : State) (id : Nat) (j : Job) : State :=
  let a := objAddr j.entry
  match tabGet s.mem.objects a, j.work with
  | some o, [moved, abandoned, changed, held] =>
    let todo := misplacedUnits s a o
    let moving := (unitsOfObject s a o).any (fun p => match p.2.move with
      | some m => m.cause == .policy id
      | none => false)
    if held == 0 then finish s id Code.POOL_EXHAUSTED 0
    else if moving then (if j.cancel.isSome || abandoned == 1 then s else startPolicyMoves id a o s todo)
    else if abandoned == 1 then finish s id Code.MIGRATION_ABORTED moved
    else if j.cancel.isSome then finish s id Code.CTX_CANCELLED moved
    else if todo.isEmpty then
      finish s id (if changed == 0 && moved == 0 then Code.OK_NOOP else Code.OK) moved
    else startPolicyMoves id a o s todo
  | _, _ => finish s id Code.BAD_FIELD 0

def execObjSetPolicy (job : Nat) (s : State) : Host.Outcome State Fault Refusal :=
  .next (runJob s job Op.OBJ_SET_POLICY noSources objSetPolicyBody)

def objQuerySpec : CmdSpec where
  used _ := usedBits [(511, 448), (383, 320)]
  check s _ e := match objectBase s (objAddr e) with
    | some o => firstBad
        [(objDest e % 4096 != 0, Code.BAD_FIELD),
         (!rangeOk s (objDest e) (64 + o.size / unitBytes), Code.BAD_FIELD)]
    | none => Code.BAD_FIELD
  noop := noZero
  atAdmission := noAdmit

/-- The home code and region of a unit in OBJ_QUERY's output. -/
def unitByte (s : State) (u : Nat) : Nat :=
  match tabGet s.mem.units u with
  | none => 0
  | some x =>
    if x.move.isSome then 3 * 64
    else match x.home with
      | .unbacked => 0
      | .hbm r => 64 + r * 16
      | .flash => 128

/-- The object descriptor (Table 8.5). -/
def objDescriptor (s : State) (base : Nat) (o : Obj) : Nat :=
  let us := unitsOfObject s base o
  let hbm := us.filter (fun p => p.2.move.isNone && match p.2.home with | .hbm _ => true | _ => false)
  let flash := us.filter (fun p => p.2.move.isNone && p.2.home == .flash)
  let moving := us.filter (fun p => p.2.move.isSome)
  base * 2 ^ 448 + o.size * 2 ^ 384 + hbm.length * 2 ^ 352 + flash.length * 2 ^ 320 + moving.length * 2 ^ 288 +
    (o.size / unitBytes - us.length) * 2 ^ 256 + (us.map (fun p => p.2.touch)).foldl Nat.max 0 % 2 ^ 64 * 2 ^ 192 +
    (misplacedUnits s base o).length * 2 ^ 160 + o.region * 2 ^ 24 + o.policy * 2 ^ 16 + 1

/-- OBJ_QUERY (R175). -/
def objQueryBody (s : State) (id : Nat) (j : Job) : State :=
  let a := objAddr j.entry
  match objectBase s a with
  | some o =>
    let n := o.size / unitBytes
    let bs := leBytes 64 (objDescriptor s a o) ++ (List.range n).map (fun i => unitByte s (a / unitBytes + i))
    writeAndFinish s id (objDest j.entry) bs Code.OK (64 + n)
  | none => finish s id Code.BAD_FIELD 0

def execObjQuery (job : Nat) (s : State) : Host.Outcome State Fault Refusal :=
  .next (runJob s job Op.OBJ_QUERY noSources objQueryBody)

/-! ### Moves (R176, R177) -/

/-- A policy move's command counts the unit, or learns that the move was abandoned. -/
def tellMover (s : State) (c : MoveCause) (abandoned : Bool) : State :=
  match c with
  | .policy id => updJob s id (fun j => match j.work with
    | [m, ab, ch, h] => { j with work := if abandoned then [m, 1, ch, h] else [m + 1, ab, ch, h] }
    | _ => j)
  | _ => s

/-- MOVE_SWITCH (R176): the home switches in one step; the contents are the same datum in its next home. -/
def moveSwitch (s : State) (u : Nat) : State :=
  match tabGet s.mem.units u with
  | some x => match x.move with
    | some m =>
      let s1 := bump (setUnit s u { x with home := m.dest, move := none }) Key.MEM_MOVES 1
      let s2 := match m.cause with
        | .demotion => bump s1 Key.MEM_DEMOTIONS 1
        | .promotion => bump s1 Key.MEM_PROMOTIONS 1
        | _ => s1
      tellMover s2 m.cause false
    | none => s
  | none => s

def execMoveSwitch (unit : Nat) (s : State) : Host.Outcome State Fault Refusal := .next (moveSwitch s unit)

/-- MOVE_ABANDON (R177): the destination is discarded and the unit keeps its home; a writer stalled for MEM.MOVE_BOUND. -/
def moveAbandon (s : State) (u : Nat) : State :=
  match tabGet s.mem.units u with
  | some x => match x.move with
    | some m =>
      let s1 := bump (setUnit s u { x with move := none }) Key.MEM_MOVES_ABANDONED 1
      let s2 := if m.stalled then
          setReg s1 Key.MEM_WRITER_STALL_MAX
            (Nat.max (reg s1 Key.MEM_WRITER_STALL_MAX) (inForce s1 Key.MEM_MOVE_BOUND * 1000))
        else s1
      tellMover s2 m.cause true
    | none => s
  | none => s

def execMoveAbandon (unit : Nat) (s : State) : Host.Outcome State Fault Refusal := .next (moveAbandon s unit)

/-- The moves of a region's stacks and channels are abandoned by a controller or channel reset (Table 8.7). -/
def abandonWhere (s : State) (p : Nat → UnitInfo → Move → Bool) : State :=
  (s.mem.units.filter (fun q => match q.2.move with
    | some m => p q.1 q.2 m
    | none => false)).foldl (fun t q => moveAbandon t q.1) s

/-! ### Staging, TRIM and FLUSH (R65, R66, R68, R461) -/

def trimSpec : CmdSpec where
  used _ := usedBits [(511, 448), (447, 416)]
  check s _ e :=
    let a := param e 511 448
    let n := 4096 * param e 447 416
    firstBad
      [(a % 4096 != 0, Code.BAD_FIELD),
       (n != 0 && (inWindow a || !rangeOk s a n), Code.BAD_FIELD)]
  noop e := param e 447 416 == 0
  atAdmission := noAdmit

/-- A unit that a TRIM covers whole is unbacked; otherwise its part of the range is written with zeros. -/
def trimUnit (a n : Nat) (s : State) (u : Nat) : State :=
  let lo := Nat.max a (u * unitBytes)
  let hi := Nat.min (a + n) (u * unitBytes + unitBytes)
  let cleared := { s with mem := { s.mem with dev := memClear s.mem.dev lo (hi - lo) } }
  if hi - lo == unitBytes then
    { cleared with mem := { cleared.mem with
        units := tabDel cleared.mem.units u
        staged := cleared.mem.staged.filter (fun p => p.1 / 512 != u) } }
  else if tabHas s.mem.units u then touchUnit (stageRange (unpoison cleared lo (hi - lo)) lo (hi - lo) false) u
  else cleared

/-- TRIM (R68). -/
def trimBody (s : State) (id : Nat) (j : Job) : State :=
  let a := param j.entry 511 448
  let k := param j.entry 447 416
  let us := unitsOfRange a (4096 * k)
  if us.any (fun u => match tabGet s.mem.units u with
      | some x => x.move.isSome
      | none => false) then s
  else finish (us.foldl (trimUnit a (4096 * k)) s) id Code.OK k

def execTrim (job : Nat) (s : State) : Host.Outcome State Fault Refusal :=
  .next (runJob s job Op.TRIM noSources trimBody)

/-- A FLUSH covers what was acknowledged before its admission: its progress is [order, bytes]. -/
def flushAdmit (s : State) (id : Nat) : State :=
  updJob s id (fun j => { j with work := [s.mem.order, unflushedBytes s] })

def flushSpec : CmdSpec where
  used _ := 0
  check _ _ _ := Code.OK
  noop := noZero
  atAdmission := flushAdmit

/-- The copy of an index's state that a FLUSH or PUBLISH writes: no pin and no drop outlives a reset. -/
def indexCopy (x : Index) : Index := { x with pins := [], dropping := none, retired := [], cursor := 0, roundEpoch := 0 }

/-- A durable copy of every open index's state (R220). -/
def copyIndexes (s : State) : State :=
  { s with copies := s.indexes.foldl (fun t p => tabSet t (ixListArea p.2.desc) (indexCopy p.2)) s.copies }

/-- The flash map with its object table is durable (R192). -/
def copyMap (s : State) : State :=
  { s with mem := { s.mem with
      flushSeq := s.mem.flushSeq + 1
      durableObjs := s.mem.objects.filter (fun p => p.2.policy == 2 && !p.2.released) } }

/-- The state of a flush of what was staged up to an order: done, or going on, or failed with a status. -/
def flushStep (s : State) (order : Nat) : State × Option Nat :=
  let ks := stagedStripes s order
  if ks.isEmpty then (copyMap s, some Code.OK)
  else if reg s Key.FLASH_STATE == 4 then (s, some Code.POOL_EXHAUSTED)
  else if ks.any (fun k => !channelUp s (channelOf k)) then (s, some Code.ECC_UNCORRECTABLE)
  else (ks.foldl startProgram s, none)

/-- FLUSH (R66); a READ_ONLY tier refuses it (R189). -/
def flushBody (s : State) (id : Nat) (j : Job) : State :=
  match j.work with
  | [order, bytes] =>
    if reg s Key.FLASH_STATE == 4 then finish s id Code.POOL_EXHAUSTED 0
    else match flushStep s order with
      | (t, some st) => if st == Code.OK then finish (copyIndexes t) id st bytes else finish t id st 0
      | (t, none) => t
  | _ => s

def execFlush (job : Nat) (s : State) : Host.Outcome State Fault Refusal :=
  .next (runJob s job Op.FLUSH noSources flushBody)

/-- Background work on the flash tier goes on, except in DEEP_SLEEP (Table 19.4). -/
def flashAwake (s : State) : Bool := s.power.level != 2

/-- Everything staged is to be flushed: the supply is failing, or the shut-down test runs (R390, R410). -/
def flushingAll (s : State) : Bool := powerFailing s || s.test.shutdown == 1

/-- With nothing left to flush, the index states and the flash map are copied (R390, R410). -/
def settleFlush (s : State) : State :=
  if flushingAll s && s.mem.staged.isEmpty then copyMap (copyIndexes s) else s

/-- BACKGROUND_FLUSH (R461): with STORE.BACKGROUND_FLUSH 1, or when everything is to be flushed, the oldest staged stripe
of the channel is programmed. -/
def backgroundFlush (s : State) (c : Nat) : State :=
  if (running s && flashAwake s && inForce s Key.STORE_BACKGROUND_FLUSH == 1 || flushingAll s) && channelUp s c &&
      reg s Key.FLASH_STATE != 4 then
    let mine := s.mem.staged.filter (fun p => channelOf (p.1 / 16) == c && !tabHas s.mem.programs (p.1 / 16))
    match (sortBy (fun a b => a.2.order < b.2.order) mine).head? with
    | some p => startProgram s (p.1 / 16)
    | none => s
  else s

def execBackgroundFlush (channel : Nat) (s : State) : Host.Outcome State Fault Refusal :=
  .next (backgroundFlush s channel)

/-- STRIPE_PROGRAM_COMPLETE (R189): the map entry switches, or the block is retired and the stripe programmed elsewhere. -/
def stripeProgramComplete (s : State) (stripe : Nat) (ok : Bool) : State :=
  match tabGet s.mem.programs stripe with
  | some p =>
    if ok then settleFlush (programDone s stripe p)
    else
      let s1 := { s with mem := { s.mem with programs := tabDel s.mem.programs stripe } }
      startProgram (retireBlock s1 p.block) stripe
  | none => s

def execStripeProgramComplete (stripe : Nat) (ok : Bool) (s : State) : Host.Outcome State Fault Refusal :=
  .next (stripeProgramComplete s stripe ok)

/-! ### Flash reads and upkeep (R189, R190) -/

/-- The stripe is rewritten by a move within the tier, unless it holds staged writes, which the flush places anew. -/
def refreshStripe (s : State) (stripe : Nat) : State :=
  if s.mem.staged.any (fun p => p.1 / 16 == stripe) || !tabHas s.mem.places stripe then s
  else bump (startProgram s stripe) Key.FLASH_REFRESH_WRITES 1

/-- The decoding levels of a codeword read (R190): 0 hard decision, 1 read retry, 2 soft decision, 3 or more wrong. -/
def countRead (s : State) (level : Nat) : State :=
  if level == 1 then bump s Key.FLASH_RETRY_READS 1
  else if level == 2 then bump s Key.FLASH_SOFT_READS 1
  else if level ≥ 3 then bump (bump s Key.FLASH_SOFT_READS 1) Key.FLASH_UNCORRECTABLE 1
  else s

/-- A read rewrites a stripe when a codeword needed a retry or more corrected bits than FLASH.REFRESH_BITS. -/
def needsRefresh (s : State) (level bits : Nat) : Bool :=
  1 ≤ level && level < 3 || (level == 0 && inForce s Key.FLASH_REFRESH_BITS < bits)

/-- The lines of the 4 KiB unit of an address become poisoned. -/
def poisonPage (s : State) (page : Nat) : State :=
  { s with mem := { s.mem with
      poison := (List.range 32).foldl (fun l i => if l.contains (page * 32 + i) then l else insertUp (page * 32 + i) l)
        s.mem.poison } }

/-- FLASH_READ_COMPLETE (R190): a codeword of a reader is decoded; when it stays wrong, its reader ends with
ECC_UNCORRECTABLE. -/
def flashReadComplete (s : State) (job addr level bits : Nat) : State :=
  let s1 := countRead s level
  if 3 ≤ level then
    let s2 := logError (poisonPage s1 (addr / 4096)) .flashChannel (channelOf (addr / stripeBytes))
      Code.ECC_UNCORRECTABLE noCtx .replay 0
    match tabGet s2.jobs job with
    | some j =>
      if openJob j && !(tellsWhere j.opcode || j.opcode == Op.SEARCH || j.opcode == Op.RECALL_PROBE) then
        finish s2 job Code.ECC_UNCORRECTABLE 0
      else s2
    | none => s2
  else if needsRefresh s level bits then refreshStripe s1 (addr / stripeBytes)
  else s1

def execFlashReadComplete (job addr level bits : Nat) (s : State) : Host.Outcome State Fault Refusal :=
  .next (flashReadComplete s job addr level bits)

/-- FLASH_PATROL (R190): the patrol reads one stripe, when FLASH.SCRUB_HOURS is not 0. -/
def flashPatrol (s : State) (stripe level bits : Nat) : State :=
  if flashAwake s && inForce s Key.FLASH_SCRUB_HOURS != 0 && tabHas s.mem.places stripe then
    let s1 := countRead s level
    if needsRefresh s level bits then refreshStripe s1 stripe else s1
  else s

def execFlashPatrol (stripe level bits : Nat) (s : State) : Host.Outcome State Fault Refusal :=
  .next (flashPatrol s stripe level bits)

/-- The full block of a LUN with the fewest valid stripes, the lowest first. -/
def emptiestBlock (s : State) (c l : Nat) : Option (Nat × FlashBlock) :=
  let per := (chan s c).stripes
  (sortBy (fun a b => a.2.valid.length < b.2.valid.length)
    ((lunBlocks s c l).filter (fun p => p.2.used == per && 0 < per && !p.2.retired && !p.2.erasing))).head?

/-- Stripes of a block that a relocation moves: those without staged writes. -/
def relocate (s : State) (stripes : List Nat) : State :=
  (stripes.filter (fun k => !s.mem.staged.any (fun p => p.1 / 16 == k))).foldl startProgram s

/-- GARBAGE_COLLECTION (R189): when a LUN's free blocks are below 2 % of its blocks, the valid stripes of the block with
the fewest of them move; a block without any is erased. -/
def garbageCollection (s : State) (c l : Nat) : State :=
  if flashAwake s && lunFree s c l * 100 < (chan s c).blocks * 2 then
    match emptiestBlock s c l with
    | some (k, b) =>
      if b.valid.isEmpty then
        { s with mem := { s.mem with blocks := tabSet s.mem.blocks k { b with erasing := true } } }
      else relocate s b.valid
    | none => s
  else s

def execGarbageCollection (channel lun : Nat) (s : State) : Host.Outcome State Fault Refusal :=
  .next (garbageCollection s channel lun)

/-- WEAR_LEVELLING (R189): when the erase counts of a LUN spread over more than 1,000, the stripes of its least erased
full block move. -/
def wearLevelling (s : State) (c l : Nat) : State :=
  let bs := (lunBlocks s c l).filter (fun p => !p.2.retired)
  let low := if bs.length < (chan s c).blocks then 0 else ((bs.map (fun p => p.2.erases)).min?).getD 0
  let high := ((bs.map (fun p => p.2.erases)).max?).getD 0
  if flashAwake s && 1000 < high - low then
    match (sortBy (fun a b => a.2.erases < b.2.erases) (bs.filter (fun p => !p.2.valid.isEmpty))).head? with
    | some (_, b) => relocate s b.valid
    | none => s
  else s

def execWearLevelling (channel lun : Nat) (s : State) : Host.Outcome State Fault Refusal :=
  .next (wearLevelling s channel lun)

/-- BLOCK_ERASE_COMPLETE (R189): the block is free, or it is retired. -/
def blockEraseComplete (s : State) (c l b : Nat) (ok : Bool) : State :=
  let k := blockKey c l b
  match tabGet s.mem.blocks k with
  | some x =>
    if x.erasing then
      let s1 := { s with mem := { s.mem with
        blocks := tabSet s.mem.blocks k { x with erasing := false, used := 0, erases := x.erases + 1 } } }
      if ok then s1 else retireBlock s1 k
    else s
  | none => s

def execBlockEraseComplete (channel lun block : Nat) (ok : Bool) (s : State) : Host.Outcome State Fault Refusal :=
  .next (blockEraseComplete s channel lun block ok)

/-! ### Flash channels (R188, R193) -/

/-- The rates of a channel in MT/s, lowest first; the last is the extended rate. -/
def channelRates : List Nat := [800, 1600, 2400, 3200, 3600, 4800]

/-- The rate a channel trains at: the highest that every target passes, the extended one only with FLASH.EXT_MODE
(R188).  Bit i of `passed` tells that every target passes rate i. -/
def trainedRate (ext : Bool) (passed : Nat) : Nat :=
  let n := if ext then 6 else 5
  ((List.range n).filter (fun i => bitOf passed i)).foldl (fun _ i => channelRates[i]?.getD 0) 0

/-- FLASH.CHANNEL_UP and FLASH.RATE from the channels. -/
def reportChannels (s : State) : State :=
  let up := s.mem.channels.filter (fun p => p.2.up)
  let map := up.foldl (fun m p => m + 2 ^ p.1) 0
  let rate := ((up.map (fun p => p.2.rate)).min?).getD 0
  setReg (setReg s Key.FLASH_CHANNEL_UP map) Key.FLASH_RATE rate

/-- A channel takes the outcome of a training. -/
def setChannel (s : State) (c : Nat) (x : Channel) : State :=
  reportChannels { s with mem := { s.mem with channels := tabSet s.mem.channels c x } }

/-- FLASH_CHANNEL_TRAIN (R187, R188), in TRAIN. -/
def flashChannelTrain (s : State) (c rates luns blocks stripes bad : Nat) (meets : Bool) : State :=
  if s.start == .train && c < 64 then
    let r := trainedRate (reg s Key.FLASH_EXT_MODE == 1) rates
    if meets && r != 0 && 0 < luns then
      setChannel s c { up := true, rate := r, luns := luns, blocks := blocks, stripes := stripes, bad := bad }
    else setChannel s c {}
  else s

def execFlashChannelTrain (channel rates luns blocks stripes bad : Nat) (meets : Bool) (s : State) :
    Host.Outcome State Fault Refusal :=
  .next (flashChannelTrain s channel rates luns blocks stripes bad meets)

/-- FLASH.CAPACITY (R192): 64 times the smallest channel figure, at most 256 TiB. -/
def flashCapacity (s : State) : Nat :=
  let up := s.mem.channels.filter (fun p => p.2.up)
  Nat.min (64 * ((up.map (fun p => channelShare s p.1)).min?).getD 0) (2 ^ 48)

/-- FLASH_TIER_REBUILD (R192): the FLASH objects of the last durable copy are registered again, with their durable data.
`metadata` tells whether the targets carry the tier's metadata. -/
def flashTierRebuild (s : State) (metadata : Bool) : State :=
  if s.start == .train then
    let up := s.mem.channels.filter (fun p => p.2.up)
    let state := if up.isEmpty then 0 else if !metadata || !s.mem.formatted then 1 else if up.length < 64 then 3 else 2
    let s1 := setReg s Key.FLASH_CAPACITY (flashCapacity s)
    let objs := if state ≤ 1 then [] else s.mem.durableObjs
    let touched := distinct (s.mem.durable.map (fun c => c.1 / unitBytes))
    let us := if state ≤ 1 then [] else touched.map (fun u => (u, (⟨.flash, 0, .object, none⟩ : UnitInfo)))
    setFlashState { s1 with mem := { s1.mem with objects := objs, units := us, dev := s1.mem.dev } } state
  else s

def execFlashTierRebuild (metadata : Bool) (s : State) : Host.Outcome State Fault Refusal :=
  .next (flashTierRebuild s metadata)

/-- ZQ_CALIBRATION (R187): a short calibration of a trained channel; it changes no state the spec names. -/
def execZqCalibration (_channel : Nat) (s : State) : Host.Outcome State Fault Refusal := .next s

/-- A channel reset starts (R193): the channel's moves are abandoned. -/
def startChannelReset (s : State) (c : Nat) : State :=
  match tabGet s.mem.channels c with
  | some x =>
    if x.up && !x.resetting then
      let s1 := { s with mem := { s.mem with channels := tabSet s.mem.channels c { x with resetting := true } } }
      let s2 := bump (logError s1 .flashChannel c Code.OK noCtx .channelReset 0) Key.FLASH_CHANNEL_RESETS 1
      abandonWhere s2 (fun u i m => (i.home == .flash || m.dest == .flash) &&
        (List.range 32).any (fun k => channelOf (u * 32 + k) == c))
    else s
  | none => s

/-- DQ_CHECK (R193): a failed periodic check starts a channel reset. -/
def execDqCheck (channel : Nat) (ok : Bool) (s : State) : Host.Outcome State Fault Refusal :=
  .next (if ok then s else startChannelReset s channel)

/-- FLASH_BUSY_TIMEOUT (R193): an operation busy for more than 10 ms starts a channel reset. -/
def execFlashBusyTimeout (channel : Nat) (s : State) : Host.Outcome State Fault Refusal :=
  .next (startChannelReset s channel)

/-- The end of a channel reset (R193): the channel is retrained and its unfinished operations go on, or, when no rate
passes, the region faults, the channel is down and the tier is DEGRADED. -/
def channelReset (s : State) (c rates : Nat) : State :=
  match tabGet s.mem.channels c with
  | some x =>
    if x.resetting then
      let r := trainedRate (reg s Key.FLASH_EXT_MODE == 1) rates
      if r != 0 then setChannel s c { x with resetting := false, rate := r }
      else
        let s1 := setChannel s c { x with resetting := false, up := false }
        regionFault (if reg s1 Key.FLASH_STATE == 2 then setFlashState s1 3 else s1) (c / 16)
    else s
  | none => s

def execChannelReset (channel rates : Nat) (s : State) : Host.Outcome State Fault Refusal :=
  .next (channelReset s channel rates)

/-! ### HBM stacks (R184, R185) -/

/-- HBM.RATE with the rate of one stack. -/
def setStackRate (s : State) (k rate : Nat) : State :=
  setReg s Key.HBM_RATE (setField (reg s Key.HBM_RATE) (16 * k) 16 rate)

/-- The stack's entry. -/
def stackOf (s : State) (k : Nat) : Stack := (tabGet s.mem.hbmStacks k).getD {}

def setStack (s : State) (k : Nat) (x : Stack) : State :=
  { s with mem := { s.mem with hbmStacks := tabSet s.mem.hbmStacks k x } }

/-- A rate a stack can train at. -/
def stackRate (r : Nat) : Bool := r == 10400 || r == 9600 || r == 8000

/-- HBM_TRAIN (R185): the rate is the first of 10.4, 9.6 and 8.0 Gb/s that passes; a stack that passes none keeps the
device in TRAIN with the fatal output asserted. -/
def hbmTrain (s : State) (k rate : Nat) : State :=
  if s.start == .train && k < 12 then
    if stackRate rate then setStackRate (setStack s k { stackOf s k with trained := true, selfRefresh := false }) k rate
    else { s with fatal := true }
  else s

def execHbmTrain (stack rate : Nat) (s : State) : Host.Outcome State Fault Refusal := .next (hbmTrain s stack rate)

/-- HBM_PATROL_SCRUB (R184): one line is read; a corrected error is written back and counted, an uncorrectable one
poisons the line. -/
def hbmPatrolScrub (s : State) (line errors : Nat) : State :=
  if inForce s Key.HBM_SCRUB_HOURS == 0 then s
  else if errors == 1 then countChip (bump s Key.HBM_CORRECTED 1) 0x3B1 1 {}
  else if 2 ≤ errors then
    let s1 := bump (logError s .hbm 0 Code.ECC_UNCORRECTABLE noCtx .replay line) Key.HBM_UNCORRECTABLE 1
    { s1 with mem := { s1.mem with
        poison := if s1.mem.poison.contains line then s1.mem.poison else insertUp line s1.mem.poison } }
  else s

def execHbmPatrolScrub (line errors : Nat) (s : State) : Host.Outcome State Fault Refusal :=
  .next (hbmPatrolScrub s line errors)

/-- A stack controller reset starts (R185): self-refresh, and the moves at the stack's region are abandoned. -/
def startStackReset (s : State) (k : Nat) : State :=
  let s1 := setStack s k { stackOf s k with resetting := true, selfRefresh := true }
  let s2 := bump (logError s1 .hbm k Code.OK noCtx .stackReset 0) Key.HBM_CTRL_RESETS 1
  abandonWhere s2 (fun _ i m => i.home == .hbm (k / 3) || m.dest == .hbm (k / 3))

/-- STACK_CONTROLLER_RESET (R185): the reset ends with the stack retrained and out of self-refresh, its contents kept,
or it fails, which is a region fault. -/
def stackControllerReset (s : State) (k rate : Nat) : State :=
  let x := stackOf s k
  if x.resetting then
    if stackRate rate then setStackRate (setStack s k { x with resetting := false, selfRefresh := false }) k rate
    else regionFault (setStack s k { x with resetting := false }) (k / 3)
  else s

def execStackControllerReset (stack rate : Nat) (s : State) : Host.Outcome State Fault Refusal :=
  .next (stackControllerReset s stack rate)

end Sys2Proof.Machine
end

