-- ==== Sys2Proof/Machine/Contexts.lean ====
section
/-! DEFINITION. Contexts, partitions, preemption, images and the Wardrobe (chapter 4). -/

namespace Sys2Proof.Machine

/-! ### Sizes of saved state (R84) -/

/-- CLOAK.BLOCK_IMAGE_BYTES, which follows WARDROBE.BAND_ROWS. -/
def blockImageBytes (s : State) : Nat := 282624 + 256 * contextRows s

/-- SAVE_BYTES of a partition. -/
def saveBytesOf (s : State) (quads : Nat) : Nat := 65536 + 4 * quads * blockImageBytes s

/-- First unit of the part of the device-object range from which save areas are taken. -/
def saveAreaBase : Nat := 0xFF1000000000 / unitBytes

/-- First unit of the part of the device-object range from which KV units are taken. -/
def kvAreaBase : Nat := 0xFF8000000000 / unitBytes

/-- The first unit after every unit in use of a part of the device-object range. -/
def nextDeviceUnit (s : State) (lo hi : Nat) : Nat :=
  (s.mem.units.filter (fun p => lo ≤ p.1 && p.1 < hi)).foldl (fun m p => Nat.max m (p.1 + 1)) lo

/-- What the reservation of a save area meets. -/
inductive Reserve where
  | held (s : State) (addr : Nat)
  | wait (s : State)
  | fail
  deriving DecidableEq, Repr

/-- A save area is reserved from the pool (R81, R179). -/
def reserveSave (s : State) (c bytes : Nat) : Reserve :=
  let n := ceilDiv bytes unitBytes
  let first := nextDeviceUnit s saveAreaBase kvAreaBase
  let free := ((List.range 4).map (poolFree s)).sum
  if n ≤ free then
    match allocateRun s first (.saveArea c) 0 n 0 with
    | some t => .held t (first * unitBytes)
    | none => .fail
  else match demoteIn s (free % 4) with
    | .wait t => .wait t
    | _ => .fail

/-! ### Placement (R77 to R79, R86, R87) -/

/-- Quads that can be placed now: available, held by no context, awake and in a region that accepts work. -/
def freeQuads (s : State) : List Nat :=
  let held := quadsHeld s
  (List.range quadCount).filter (fun q => quadAvailable s q && !held.contains q &&
    regionAwake s (regionOfQuad q))

/-- The quads that a placement of `n` quads takes from a rising list of candidates (R77). -/
def chooseQuads (cand : List Nat) (n : Nat) (single : Bool) : Option (List Nat) :=
  let inRegion (r : Nat) : List Nat := cand.filter (fun q => regionOfQuad q == r)
  let fits := (List.range 4).filter (fun r => n ≤ (inRegion r).length)
  match (sortBy (fun a b => (inRegion a).length < (inRegion b).length) fits).head? with
  | some r => some ((inRegion r).take n)
  | none => if !single && n ≤ cand.length then some (cand.take n) else none

/-- A context's size and region choice can be placed on the quads now available (R79). -/
def placeable (s : State) (quads : Nat) (single : Bool) : Bool :=
  let av := (List.range quadCount).filter (quadAvailable s)
  let best := ((List.range 4).map (fun r => (av.filter (fun q => regionOfQuad q == r)).length)).foldl Nat.max 0
  quads ≤ av.length && (!single || quads ≤ best)

/-- Contexts that hold quads and are not leaving them. -/
def holdersCount (s : State) : Nat :=
  (s.ctxs.filter (fun p => holdsQuads p.2 && !p.2.leaving && p.2.state != .saving)).length

/-- A running context with no admitted command that needs placement. -/
def isHolder (s : State) (c : Nat) : Bool := !(openJobsOf s c).any (fun p => jobNeedsPlacement p.2)

/-- A preemption point comes to a context (R88): it issues nothing more. -/
def beginSave (s : State) (c : Nat) : State :=
  updCtx s c (fun x => if x.state == .running then { x with leaving := true, preempt := false } else x)

/-- Codes of the open units that are not Cuffs: the Veil's fetches, and the exchanges of searches across devices. -/
def veilUnit : Nat := 64
def fabricUnit : Nat := 65

/-- The non-preemptible units that a leaving context has open: without one it is SAVING at once (R88, R90). -/
def leaveUnits (s : State) (c : Nat) (units : List Nat) : State :=
  updCtx s c (fun x => if units.isEmpty then { x with state := .saving } else { x with openUnits := units })

/-- A non-preemptible unit of a leaving context completes, after the preemption point; behind the last one the context is
SAVING, an overrun is counted, and its next placement is deferred (R90). -/
def closeUnit (s : State) (c u : Nat) : State :=
  let x := ctxOf s c
  if x.leaving && x.state == .running && x.openUnits.contains u then
    let y := { x with openUnits := x.openUnits.filter (fun v => v != u) }
    if y.openUnits.isEmpty then
      bump (setCtx s c { y with state := .saving, overruns := Nat.min (y.overruns + 1) 0xFFFF, deferred := true })
        Key.CTX_OVERRUNS 1
    else setCtx s c y
  else s

/-- A context placed on quads: RESTORING at once, its slice beginning (R86, R87). -/
def placeOn (s : State) (c : Nat) (qs : List Nat) : State :=
  updCtx s c (fun x => { x with
    state := .restoring, quads := qs, sliceUsed := 0, waitBeats := 0, deferred := false, leaving := false })

/-- Victims taken one at a time until a context fits with their quads. -/
def takeVictims (s : State) (free : List Nat) (n : Nat) (single : Bool) :
    List Nat → List Nat → Option (List Nat × List Nat)
  | _, [] => none
  | taken, v :: vs =>
    let taken' := taken ++ [v]
    let cand := sortUp (free ++ (taken'.map (fun c => (ctxOf s c).quads)).flatten)
    match chooseQuads cand n single with
    | some qs => some (taken', qs)
    | none => takeVictims s free n single taken' vs

/-- The waiting contexts in order: longest wait first, then the lower number (R87). -/
def waitingOrder (s : State) : List Nat :=
  ((sortBy (fun a b => b.2.waitBeats < a.2.waitBeats)
    (s.ctxs.filter (fun p => p.2.state == .waiting))).map Prod.fst)

/-- Quads that can be placed once sleeping regions have woken. -/
def wakeableQuads (s : State) : List Nat :=
  let held := quadsHeld s
  (List.range quadCount).filter (fun q => quadAvailable s q && !held.contains q && !s.chip.closed.contains (regionOfQuad q))

/-- The placement of waiting contexts at a boundary, over a list in order (R87).  A context that fits
only with the quads of sleeping regions waits while those wake (R463). -/
def placeAll (expiring : List Nat) : State → List Nat → State
  | s, [] => s
  | s, c :: cs =>
    let x := ctxOf s c
    let free := freeQuads s
    if x.saveBytes == 0 then placeAll expiring s cs
    else match (if holdersCount s < reg s Key.CTX_MAX_RUNNING then chooseQuads free x.partition x.single else none) with
      | some qs =>
        if x.deferred then placeAll expiring (setCtx s c { x with deferred := false }) cs
        else placeAll expiring (placeOn s c qs) cs
      | none =>
        match (if holdersCount s < reg s Key.CTX_MAX_RUNNING && !x.deferred then
            chooseQuads (wakeableQuads s) x.partition x.single else none) with
        | some qs => placeAll expiring ((qs.map regionOfQuad).foldl needRegion s) cs
        | none =>
        let still (v : Nat) : Bool := (ctxOf s v).state == .running && !(ctxOf s v).leaving
        let hold := (tabKeys s.ctxs).filter (fun v => still v && isHolder s v)
        let expire := expiring.filter (fun v => still v && !hold.contains v)
        match takeVictims s free x.partition x.single [] (hold ++ expire) with
        | some (vs, qs) =>
          if x.deferred then placeAll expiring (setCtx s c { x with deferred := false }) cs
          else placeAll expiring (vs.foldl beginSave (placeOn s c qs)) cs
        | none =>
          if inForce s Key.CTX_STARVE_BEATS ≤ x.waitBeats then s else placeAll expiring s cs

/-- Some context has waited CTX.STARVE_BEATS. -/
def someStarves (s : State) : Bool :=
  s.ctxs.any (fun p => p.2.state == .waiting && inForce s Key.CTX_STARVE_BEATS ≤ p.2.waitBeats)

/-- The running contexts whose slice ends now (R86). -/
def expiringNow (s : State) : List Nat :=
  (s.ctxs.filter (fun p => p.2.state == .running &&
    (if p.2.slice == 0 then someStarves s else p.2.slice ≤ p.2.sliceUsed))).map Prod.fst

/-- Beats are counted: of the slice of a placed context, of the wait of a waiting one. -/
def countBeat (x : Ctx) : Ctx :=
  match x.state with
  | .waiting => { x with waitBeats := Nat.min (x.waitBeats + 1) 0xFFFF }
  | .restoring => { x with sliceUsed := x.sliceUsed + 1 }
  | .running => { x with sliceUsed := x.sliceUsed + 1 }
  | _ => x

/-! ### Images (R84, R92, R93) -/

/-- FORMAT_STATE and GEN_STATE stand in the context part; a number of so many bytes is placed at an offset. -/
def imageField (m : Mem) (base off n v : Nat) : Mem := memPutNat m (base + off) n v

/-- The image header (Table 4.7). -/
def imageHeader (s : State) (c : Nat) (x : Ctx) (checkpoint : Bool) : Nat :=
  saveBytesOf s x.partition * 2 ^ 448 + beatNow s * 2 ^ 384 + 4 * x.partition * 2 ^ 256 + x.buffers.length * 2 ^ 240 +
    contextRows s * 2 ^ 224 + 262144 * 2 ^ 192 + 256 * 2 ^ 176 + 64 * 2 ^ 160 + c * 2 ^ 144 +
    flagBit checkpoint * 2 ^ 128 + 1

/-- A named-buffer entry (Table 4.9). -/
def bufferEntry (i : Nat) (b : Buffer) : Nat := b.rows * 2 ^ 96 + b.base * 2 ^ 48 + i * 2 ^ 40 + b.dist * 2 ^ 38

/-- The context part of an image (Table 4.12), at a base. -/
def contextPart (s : State) (c : Nat) (x : Ctx) (checkpoint : Bool) (m : Mem) (base : Nat) : Mem :=
  let m1 := imageField m base 0 64 (imageHeader s c x checkpoint)
  let m2 := x.buffers.foldl (fun m p => imageField m base (0x40 + 16 * p.1) 16 (bufferEntry p.1 p.2)) m1
  let m3 := imageField m2 base 0x1040 8 x.groupMap
  let m4 := imageField m3 base 0x1080 64 x.formatState
  let m5 := imageField m4 base 0x10C0 64 x.genState
  imageField m5 base 0x1100 2064 x.formatArea

/-- Where block image `i` of an image begins. -/
def blockImageAt (s : State) (base i : Nat) : Nat := base + 65536 + i * blockImageBytes s

/-- The accumulator words of a physical block, as bytes at an address. -/
def accImage (acc : Tab Nat) (b : Nat) (m : Mem) (at_ : Nat) : Mem :=
  (acc.filter (fun p => p.1 / 65536 == b)).foldl (fun m p => memPutNat m (at_ + 4 * (p.1 % 65536)) 4 p.2) m

/-- The block counters of a physical block, in the block header of an image (R424). -/
def counterImage (s : State) (b : Nat) (m : Mem) (at_ : Nat) : Mem :=
  (List.range 8).foldl (fun m i => memPutNat m (at_ + 0x40 + 8 * i) 8 ((tabGet s.perf.block (b * 8 + i)).getD 0)) m

/-- The block image of a logical block held in a physical block (R84): the parts that are private to the device read
as zero. -/
def blockImage (s : State) (x : Ctx) (i b : Nat) (m : Mem) (at_ : Nat) : Mem :=
  let m1 := (x.windows.filter (fun p => p.1 / 16 == i)).foldl
    (fun m p => memPutNat m (at_ + 17408 + 64 * (p.1 % 16)) 64 (windowRecord p.2)) (counterImage s b m at_)
  let m2 := accImage s.acc b m1 (at_ + 20480)
  memCopy s.pocket (pocketAddr b 0 0) (256 * contextRows s) m2 (at_ + 282624)

/-- The image of a placed context, at a base of a memory that is cleared first. -/
def imageOf (s : State) (c : Nat) (checkpoint : Bool) (m : Mem) (base : Nat) : Mem :=
  let x := ctxOf s c
  let m0 := contextPart s c x checkpoint (memClear m base (saveBytesOf s x.partition)) base
  ((List.range (4 * x.partition)).foldl (fun m i => match physBlock x i with
    | some b => blockImage s x i b m (blockImageAt s base i)
    | none => m) m0)

/-- A block's accumulators, context rows and counters become zero. -/
def clearBlock (s : State) (b : Nat) : State :=
  { s with acc := s.acc.filter (fun p => p.1 / 65536 != b),
           perf := { s.perf with block := s.perf.block.filter (fun p => p.1 / 8 != b) },
           pocket := memClear s.pocket (pocketAddr b 0 0) (256 * contextRows s) }

/-- The nonzero accumulator words of a block image. -/
def accOfImage (m : Mem) (at_ b : Nat) : Tab Nat :=
  let idx := distinct ((m.filter (fun c => at_ ≤ c.1 && c.1 < at_ + 262144)).map (fun c => (c.1 - at_) / 4))
  idx.map (fun i => (b * 65536 + i, memNat m (at_ + 4 * i) 4))

/-- A block image loaded into a physical block. -/
def loadBlock (s : State) (base i b : Nat) : State :=
  let at_ := blockImageAt s base i
  let t := clearBlock s b
  { t with
    acc := (accOfImage s.mem.dev (at_ + 20480) b).foldl (fun a p => tabSet a p.1 p.2) t.acc
    pocket := memCopy s.mem.dev (at_ + 282624) (256 * contextRows s) t.pocket (pocketAddr b 0 0)
    perf := { t.perf with block := (List.range 8).foldl (fun c i =>
      match memNat s.mem.dev (at_ + 0x40 + 8 * i) 8 with
      | 0 => c
      | v => tabSet c (b * 8 + i) v) t.perf.block } }

/-- The windows of a block image. -/
def windowsOfImage (s : State) (base n : Nat) : Tab Window :=
  ((List.range n).map (fun i => (List.range 16).filterMap (fun w =>
    (windowOfRecord (memNat s.mem.dev (blockImageAt s base i + 17408 + 64 * w) 64)).map
      (fun v => (windowKey i w, v))))).flatten

/-- The image in a context's save area loaded into its quads, or the zero state of a first placement (R80). -/
def loadImage (s : State) (c : Nat) : State :=
  let x := ctxOf s c
  let n := 4 * x.partition
  if x.hasImage then
    let t := (List.range n).foldl (fun t i => match physBlock x i with
      | some b => loadBlock t x.saveAddr i b
      | none => t) s
    updCtx t c (fun y => { y with windows := windowsOfImage s x.saveAddr n })
  else
    let t := (blocksOf x).foldl clearBlock s
    updCtx t c (fun y => { y with windows := [] })

/-! ### Cloak (R85, R88, R89) -/

/-- A context that leaves its quads is WAITING or IDLE (R88). -/
def afterSave (s : State) (c : Nat) (x : Ctx) : Ctx :=
  { x with
    state := if isHolder s c then .idle else .waiting
    quads := [], leaving := false, hasImage := true, waitBeats := 0, windows := [] }

/-- Claims of accessors that have not issued are undone before a save, so no slot is saved in WRITING or READING state
(R158). -/
def undoClaims (s : State) (c : Nat) : State :=
  let tag (t : SlotTag) : SlotTag := match t with
    | .writing => .empty
    | .reading => .full
    | t => t
  let s1 := updCtx s c (fun x => { x with windows := tabMap x.windows (fun _ w => { w with tags := w.tags.map tag }) })
  { s1 with array := { s1.array with runs := tabMap s1.array.runs (fun _ r =>
      if r.ctx == c then { r with streams := r.streams.map (fun st => { st with claimed := false, granted := false }) }
      else r) } }

/-- The data that Cloak moved for a context's image, in 64-byte units, counted in its region (Table 22.3). -/
def cloakMoved (s : State) (c : Nat) : State :=
  let x := ctxOf s c
  let r := engineRegion s c 0
  let t := countRegion { s with perf := { s.perf with actor := some c } } r 0x217 (x.saveBytes / 64) { inst := r }
  { t with perf := { t.perf with actor := s.perf.actor } }

/-- CLOAK_SAVE_DONE: the image is in the save area and the quads are released.  A save that met an error discards the
image and faults the context (R89); it waits for a slice on one of its blocks (Table 21.3).  Expanded masks are not saved (Table 15.12). -/
def cloakSaveDone (s : State) (c : Nat) (ok : Bool) : State :=
  let x := ctxOf s c
  if x.state == .saving && !(blocksOf x).any (sliced s) then
    if ok then
      let s0 := advanceTimed (undoClaims s c)
      let img := imageOf s0 c false s0.mem.dev x.saveAddr
      let s1 := { s0 with mem := { s0.mem with dev := img }, gens := tabMap s0.gens (fun _ g =>
        if g.ctx == c then { g with masks := [], maskBeat := none } else g) }
      let s2 := cloakMoved (noteWritten s1 x.saveAddr x.saveBytes) c
      bump (setCtx s2 c (afterSave s2 c (ctxOf s2 c))) Key.CTX_PREEMPTIONS 1
    else faultCtx (logError s .cloak 0 Code.ECC_UNCORRECTABLE c .teardown 0) c Code.CTX_FAULT
  else s

def execCloakSaveDone (ctx : Nat) (ok : Bool) (s : State) : Host.Outcome State Fault Refusal :=
  .next (cloakSaveDone s ctx ok)

/-- The quads of a placed context are still being vacated. -/
def vacating (s : State) (c : Nat) (x : Ctx) : Bool :=
  s.ctxs.any (fun p => p.1 != c && x.quads.any (fun q => p.2.quads.contains q))

/-- CLOAK_RESTORE_DONE: the context runs.  An uncorrectable error in the image faults it with ECC_UNCORRECTABLE (R89). -/
def cloakRestoreDone (s : State) (c : Nat) (ok : Bool) : State :=
  let x := ctxOf s c
  if x.state == .restoring && !vacating s c x && !(blocksOf x).any (sliced s) then
    if ok && !(x.hasImage && readBad s x.saveAddr x.saveBytes) then
      updCtx (cloakMoved (touchRange (loadImage s c) x.saveAddr (if x.hasImage then x.saveBytes else 0)) c) c
        (fun y => { y with state := .running })
    else faultCtx (logError s .cloak 0 Code.ECC_UNCORRECTABLE c .teardown 0) c Code.ECC_UNCORRECTABLE
  else s

def execCloakRestoreDone (ctx : Nat) (ok : Bool) (s : State) : Host.Outcome State Fault Refusal :=
  .next (cloakRestoreDone s ctx ok)

/-- NP_BOUND_EXCEEDED (R90): a non-preemptible unit is still open at CTX.NP_BOUND from the preemption point. -/
def npBoundExceeded (s : State) (c : Nat) : State :=
  let x := ctxOf s c
  if x.state == .running && x.leaving && !x.openUnits.isEmpty then faultCtx s c Code.CTX_HUNG else s

def execNpBoundExceeded (ctx : Nat) (s : State) : Host.Outcome State Fault Refusal := .next (npBoundExceeded s ctx)

/-! ### Context commands (R81 to R83) -/

/-- PARAMS of the context commands (Table 4.4). -/
def cxAddr (e : Nat) : Nat := param e 511 448
def cxSize (e : Nat) : Nat := param e 447 384
def cxQuads (e : Nat) : Nat := param e 383 368
def cxSlice (e : Nat) : Nat := param e 367 352
def cxDog (e : Nat) : Nat := param e 351 336
def cxModel (e : Nat) : Nat := param e 335 320
def cxBufferId (e : Nat) : Nat := param e 319 312
def cxRows (e : Nat) : Nat := param e 311 280
def cxBase (e : Nat) : Nat := param e 279 264
def cxDist (e : Nat) : Nat := param e 263 262
def cxCheckpoint (e : Nat) : Bool := paramBit e 261
def cxPermit (e : Nat) : Bool := paramBit e 260
def cxSingle (e : Nat) : Bool := paramBit e 259

/-- PARTITION_QUADS cannot be placed (R79). -/
def quadsBad (s : State) (n : Nat) (single : Bool) : Bool := n == 0 || 300 < n || !placeable s n single

def ctxAllocSpec : CmdSpec where
  used _ := usedBits [(383, 368), (367, 352), (351, 336), (260, 260), (259, 259)]
  check s _ e := firstBad [(quadsBad s (cxQuads e) (cxSingle e), Code.BAD_FIELD)]
  noop := noZero
  atAdmission := noAdmit

/-- CTX_ALLOC (R76, R81). -/
def ctxAllocBody (s : State) (id : Nat) (j : Job) : State :=
  let c := j.ctx
  let x := ctxOf s c
  let bytes := saveBytesOf s (cxQuads j.entry)
  if x.state != .free then finish s id Code.BAD_FIELD 0
  else match reserveSave s c bytes with
    | .held t addr =>
      let tag := if x.used then (x.genTag + 1) % 256 else 0
      let y : Ctx := {
        state := .idle, genTag := tag, used := true, client := j.client, single := cxSingle j.entry,
        permit := cxPermit j.entry, partition := cxQuads j.entry, slice := cxSlice j.entry, watchdog := cxDog j.entry,
        saveBytes := bytes, saveAddr := addr, groupMap := inForce t Key.POCKET_DEFAULT_GROUP_MAP,
        cached := x.cached, lastUse := x.lastUse }
      finish (setCtx t c y) id Code.OK (bytes * 256 + tag)
    | .wait t => t
    | .fail => finish s id Code.POOL_EXHAUSTED 0

def execCtxAlloc (job : Nat) (s : State) : Host.Outcome State Fault Refusal :=
  .next (runJob s job Op.CTX_ALLOC noSources ctxAllocBody)

def ctxFreeSpec : CmdSpec where
  used _ := 0
  check _ _ _ := Code.OK
  noop := noZero
  atAdmission := noAdmit

/-- CTX_FREE (R82): a FAULTED context is freed without a second teardown; a context in teardown is waited for; any other
is torn down and is FREE when the drain ends. -/
def ctxFreeBody (s : State) (id : Nat) (j : Job) : State :=
  let c := j.ctx
  let x := ctxOf s c
  match x.state with
  | .faulted =>
    let s1 := dropPages (releaseUnits s (unitsOwned s c)) c
    finish (setCtx s1 c { genTag := x.genTag, used := true, cached := x.cached, lastUse := x.lastUse }) id Code.OK 0
  | .tearingDown => s
  | .free => finish s id Code.BAD_FIELD 0
  | _ => fence s c Code.CTX_TORN_DOWN none true

def execCtxFree (job : Nat) (s : State) : Host.Outcome State Fault Refusal :=
  .next (runJob s job Op.CTX_FREE noSources ctxFreeBody)

/-- The boundary at which a write accepted now takes effect (R40): the beat it begins. -/
def dueBeat (s : State) : Nat := if s.hem.sealed then beatNow s + 2 else beatNow s + 1

/-- At its admission CTX_MODIFY sets the boundary of its new values (R83). -/
def ctxModifyAdmit (s : State) (id : Nat) : State :=
  match tabGet s.jobs id with
  | some j => updCtx s j.ctx (fun x => { x with
      modify := some (dueBeat s, cxSlice j.entry, cxDog j.entry, cxPermit j.entry) })
  | none => s

def ctxModifySpec : CmdSpec where
  used _ := usedBits [(367, 352), (351, 336), (260, 260)]
  check _ _ _ := Code.OK
  noop := noZero
  atAdmission := ctxModifyAdmit

/-- New values of a CTX_MODIFY that fall due at the boundary of a beat. -/
def applyModify (beat : Nat) (x : Ctx) : Ctx :=
  match x.modify with
  | some (due, sl, dog, p) =>
    if due ≤ beat then { x with slice := sl, watchdog := dog, permit := p, modify := none } else x
  | none => x

/-- CTX_MODIFY (R83): it completes once its values are in force. -/
def ctxModifyBody (s : State) (id : Nat) (j : Job) : State :=
  finish (updCtx s j.ctx (applyModify (beatNow s))) id Code.OK 0

def execCtxModify (job : Nat) (s : State) : Host.Outcome State Fault Refusal :=
  .next (runJob s job Op.CTX_MODIFY noSources ctxModifyBody)

def ctxPreemptSpec : CmdSpec where
  used _ := 0
  check _ _ _ := Code.OK
  noop := noZero
  atAdmission := noAdmit

/-- CTX_PREEMPT (R83): its progress is the mark that it has asked. -/
def ctxPreemptBody (s : State) (id : Nat) (j : Job) : State :=
  let x := ctxOf s j.ctx
  match j.work with
  | [] =>
    if !holdsQuads x then finish s id Code.OK_NOOP 0
    else
      let s1 := updJob s id (fun j => { j with phase := .running, work := [1] })
      if x.state == .saving then finish s1 id Code.OK (beatNow s)
      else updCtx s1 j.ctx (fun y => { y with preempt := true })
  | _ =>
    if x.state == .running || x.state == .restoring then s else finish s id Code.OK (beatNow s)

def execCtxPreempt (job : Nat) (s : State) : Host.Outcome State Fault Refusal :=
  .next (runJob s job Op.CTX_PREEMPT noSources ctxPreemptBody)

def ctxQuerySpec : CmdSpec where
  used _ := usedBits [(511, 448)]
  check s _ e := firstBad [(cxAddr e % 4096 != 0 || !rangeOk s (cxAddr e) 512, Code.BAD_FIELD)]
  noop := noZero
  atAdmission := noAdmit

/-- CTX_QUERY (R83). -/
def ctxQueryBody (s : State) (id : Nat) (j : Job) : State :=
  writeAndFinish s id (cxAddr j.entry) (leBytes 512 (ctxEntryCode (ctxOf s j.ctx))) Code.OK 512

def execCtxQuery (job : Nat) (s : State) : Host.Outcome State Fault Refusal :=
  .next (runJob s job Op.CTX_QUERY noSources ctxQueryBody)

/-! ### CTX_SAVE and CTX_RESTORE (R92, R93) -/

def ctxSaveSpec : CmdSpec where
  used _ := usedBits [(511, 448), (447, 384), (261, 261)]
  check s c e :=
    let n := saveBytesOf s (ctxOf s c).partition
    firstBad [(cxAddr e % 4096 != 0 || cxSize e < n || !rangeOk s (cxAddr e) n, Code.BAD_FIELD)]
  noop := noZero
  atAdmission := noAdmit

/-- A range of device or companion memory replaced by an image built at address 0. -/
def putImage (s : State) (a n : Nat) (img : Mem) : State :=
  if inWindow a then
    send { s with mem := { s.mem with comp := memCopy img 0 n s.mem.comp (a - companionBase) } }
      (.aedupWrite (a - companionBase) n)
  else
    let s1 := { s with mem := { s.mem with dev := memCopy img 0 n s.mem.dev a } }
    countWrites (touchUnits (stageRange (unpoison s1 a n) a n true) a n) a n

/-- A saved image copied to the command's ADDR, and the command ends. -/
def deliverImage (s : State) (id a n : Nat) (img : Mem) : State :=
  withWrite s id a n (fun t => finish (putImage t a n img) id Code.OK n)

/-- The context's own copy: from its quads when it holds them, else from its save area with a new header. -/
def currentImage (s : State) (c : Nat) (checkpoint : Bool) : Mem :=
  let x := ctxOf s c
  if holdsQuads x then imageOf s c checkpoint [] 0
  else
    let body := if x.hasImage then memCopy s.mem.dev x.saveAddr x.saveBytes [] 0 else []
    contextPart s c x checkpoint (memClear body 0 65536) 0

/-- CTX_SAVE (R92): a context that is not resident is copied from its save area at once; a resident one at its next
preemption opportunity, or, for a checkpoint, at the first boundary without open work. -/
def ctxSaveBody (s : State) (id : Nat) (j : Job) : State :=
  let x := ctxOf s j.ctx
  let n := saveBytesOf s x.partition
  if cxSize j.entry < n then finish s id Code.BAD_FIELD 0
  else if !holdsQuads x then
    if x.hasImage && readBad s x.saveAddr x.saveBytes then finish s id Code.ECC_UNCORRECTABLE 0
    else deliverImage s id (cxAddr j.entry) n (currentImage s j.ctx (cxCheckpoint j.entry))
  else if x.save == .none then
    updCtx (updJob s id (fun j => { j with phase := .running })) j.ctx
      (fun y => { y with save := if cxCheckpoint j.entry then .checkpoint id else .copy id })
  else s

def execCtxSave (job : Nat) (s : State) : Host.Outcome State Fault Refusal :=
  .next (runJob s job Op.CTX_SAVE noSources ctxSaveBody)

/-- A save asked of a resident context is served at a preemption opportunity: its open units have completed and, for a
checkpoint, no accumulation is partial. -/
def serveSave (s : State) (c : Nat) (boundary clean : Bool) : State :=
  let x := ctxOf s c
  let go (id : Nat) (chk : Bool) : State :=
    match tabGet s.jobs id with
    | some j =>
      let s1 := advanceTimed (undoClaims (setCtx s c { x with save := .none }) c)
      deliverImage s1 id (cxAddr j.entry) (saveBytesOf s x.partition) (imageOf s1 c chk [] 0)
    | none => setCtx s c { x with save := .none }
  if x.state == .running && x.openUnits.isEmpty && !(blocksOf x).any (sliced s) then
    match x.save with
    | .none => s
    | .copy id => go id false
    | .checkpoint id => if boundary && clean then go id true else s
  else s

/-- The header fields that decide the geometry of an image (R93). -/
def sameGeometry (s : State) (h quads : Nat) : Bool :=
  field h 160 16 == 64 && field h 176 16 == 256 && field h 192 32 == 262144 && field h 224 16 == contextRows s &&
    field h 256 32 == 4 * quads

/-- The buffers of an image at an address of device memory. -/
def buffersOf (s : State) (a : Nat) : Tab Buffer :=
  (List.range 256).filterMap (fun i =>
    let b := natAt s (a + 0x40 + 16 * i) 16
    if field b 96 32 = 0 then none else some (i, ⟨field b 96 32, field b 48 16, field b 38 2⟩))

/-- Rows of each block that a buffer occupies over `n` blocks (R94). -/
def bufferRows (b : Buffer) (n : Nat) : Nat := if b.dist == 0 then ceilDiv b.rows n else b.rows

/-- A buffer cannot be re-laid on `n` blocks. -/
def cannotRelay (s : State) (b : Buffer) (n : Nat) : Bool :=
  b.dist == 2 || contextRows s < b.base + bufferRows b n

/-- One Pocket row copied from the image in memory to the image being built. -/
def relayRow (src : Mem) (s : State) (a oldRows : Nat) (m : Mem) (fromB fromRow toB toRow : Nat) : Mem :=
  let oldB := 282624 + 256 * oldRows
  memCopy src (a + 65536 + fromB * oldB + 282624 + 256 * fromRow) 256 m (blockImageAt s 0 toB + 282624 + 256 * toRow)

/-- A buffer of an image of `old` blocks re-laid on `n` blocks (R93). -/
def relayBuffer (src : Mem) (s : State) (a old oldRows n : Nat) (m : Mem) (b : Buffer) : Mem :=
  if b.dist == 0 then
    (List.range b.rows).foldl (fun m i =>
      relayRow src s a oldRows m (i % old) (b.base + i / old) (i % n) (b.base + i / n)) m
  else
    (List.range n).foldl (fun m k => (List.range b.rows).foldl (fun m i =>
      relayRow src s a oldRows m 0 (b.base + i) k (b.base + i)) m) m

def ctxRestoreSpec : CmdSpec where
  used _ := usedBits [(511, 448), (383, 368)]
  check s c e := firstBad
    [(cxAddr e % 4096 != 0 || !rangeOk s (cxAddr e) 65536, Code.BAD_FIELD),
     (quadsBad s (cxQuads e) (ctxOf s c).single, Code.BAD_FIELD)]
  noop := noZero
  atAdmission := noAdmit

/-- The checks of an image before anything is released (R93); OK when it can be restored. -/
def restoreCheck (s : State) (a quads : Nat) : Nat :=
  let h := natAt s a 64
  if readBad s a 65536 then Code.ECC_UNCORRECTABLE
  else if field h 0 8 != 1 then Code.VERSION_UNSUPPORTED
  else if !rangeOk s a (field h 448 64) then Code.BAD_FIELD
  else if readBad s a (field h 448 64) then Code.ECC_UNCORRECTABLE
  else if sameGeometry s h quads then Code.OK
  else if !bitOf h 128 || field h 256 32 == 0 then Code.GEOMETRY_MISMATCH
  else if (buffersOf s a).any (fun p => cannotRelay s p.2 (4 * quads)) then Code.GEOMETRY_MISMATCH
  else Code.OK

/-- The image that a restore leaves in the save area: the whole image, or the re-laid buffers over zeros. -/
def restoredImage (s : State) (a quads : Nat) : Mem :=
  let h := natAt s a 64
  let src := if inWindow a then s.mem.comp else s.mem.dev
  let b := if inWindow a then a - companionBase else a
  if sameGeometry s h quads then memCopy src b (saveBytesOf s quads) [] 0
  else
    let m0 := memCopy src b 65536 [] 0
    (buffersOf s a).foldl (fun m p => relayBuffer src s b (field h 256 32) (field h 224 16) (4 * quads) m p.2) m0

/-- The context part of an image is read first; it tells how long the image is. -/
def ctxRestoreSources (_ : State) (j : Job) : List (Nat × Nat) := [(cxAddr j.entry, 65536)]

/-- IMAGE_BYTES of the image at an address. -/
def imageBytes (s : State) (a : Nat) : Nat := field (natAt s a 64) 448 64

/-- The rest of an image that can be restored. -/
def imageRest (s : State) (a : Nat) : List (Nat × Nat) :=
  if natAt s a 1 == 1 && rangeOk s a (imageBytes s a) then [(a + 65536, imageBytes s a - 65536)] else []

/-- The context given the restored image: its context part at once, the rest at its next placement. -/
def applyRestore (s : State) (c a quads addr : Nat) : State :=
  let x := ctxOf s c
  let img := restoredImage s a quads
  let same := sameGeometry s (natAt s a 64) quads
  let n := saveBytesOf s quads
  let s1 := noteWritten { s with mem := { s.mem with dev := memCopy img 0 n s.mem.dev addr },
                                 chip := { s.chip with quadsDue := s.chip.quadsDue ++ x.quads } } addr n
  setCtx s1 c { x with
    state := if isHolder s1 c then .idle else .waiting
    quads := [], leaving := false, preempt := false, hasImage := true, partition := quads, saveBytes := n,
    saveAddr := addr, buffers := buffersOf s a, groupMap := natAt s (a + 0x1040) 4,
    formatState := natAt s (a + 0x1080) 64, genState := natAt s (a + 0x10C0) 64,
    formatArea := natAt s (a + 0x1100) 2064, windows := if same then x.windows else [] }

/-- CTX_RESTORE once its image has been read: checked, its save area held, applied.  A context that held quads waits for the
boundary at which they return. -/
def restoreFrom (s : State) (id : Nat) (j : Job) : State :=
  let c := j.ctx
  let x := ctxOf s c
  let a := cxAddr j.entry
  let q := cxQuads j.entry
  let st := restoreCheck s a q
  if st != Code.OK then finish s id st 0
  else
    let n := imageBytes s a
    let ending (t : State) (addr : Nat) : State :=
      let t1 := applyRestore (touchRange t a n) c a q addr
      if holdsQuads x then updJob t1 id (fun j => { j with phase := .running, work := [beatNow s + 1, n] })
      else finish t1 id Code.OK n
    if q == x.partition then ending s x.saveAddr
    else match reserveSave s c (saveBytesOf s q) with
      | .held t addr =>
        let old := (List.range (ceilDiv x.saveBytes unitBytes)).map (fun i => x.saveAddr / unitBytes + i)
        ending (releaseUnits t old) addr
      | .wait t => t
      | .fail => finish s id Code.POOL_EXHAUSTED 0

/-- CTX_RESTORE (R93).  Its progress is the beat after whose boundary the old quads have returned, and its RESULT. -/
def ctxRestoreBody (s : State) (id : Nat) (j : Job) : State :=
  match j.work with
  | [due, n] => if due ≤ beatNow s then finish s id Code.OK n else s
  | _ => fetchMore s id j (imageRest s (cxAddr j.entry)) (fun t => restoreFrom t id j)

def execCtxRestore (job : Nat) (s : State) : Host.Outcome State Fault Refusal :=
  .next (runJob s job Op.CTX_RESTORE ctxRestoreSources ctxRestoreBody)

/-- The rows of a CTX_BUFFER in each block (R94). -/
def cxBuffer (e : Nat) : Buffer := ⟨cxRows e, cxBase e, cxDist e⟩

def ctxBufferSpec : CmdSpec where
  used _ := usedBits [(319, 312), (311, 280), (279, 264), (263, 262)]
  check s c e := firstBad
    [(cxDist e == 3, Code.BAD_FIELD),
     (contextRows s < cxBase e + bufferRows (cxBuffer e) (4 * (ctxOf s c).partition), Code.BAD_FIELD)]
  noop := noZero
  atAdmission := noAdmit

/-- A name taken into, or removed from, a buffer table. -/
def nameBuffer (t : Tab Buffer) (e : Nat) : Tab Buffer :=
  if cxRows e == 0 then tabDel t (cxBufferId e) else tabSet t (cxBufferId e) (cxBuffer e)

/-- The names that take effect at a boundary. -/
def applyNaming (x : Ctx) : Ctx :=
  { x with
    buffers := x.naming.foldl (fun t p => if p.2.rows == 0 then tabDel t p.1 else tabSet t p.1 p.2) x.buffers
    naming := [] }

/-- CTX_BUFFER (R94): the name takes effect at the next boundary, and RESULT counts the names held then. -/
def ctxBufferBody (s : State) (id : Nat) (j : Job) : State :=
  let s1 := updCtx s j.ctx (fun x => { x with naming := tabSet x.naming (cxBufferId j.entry) (cxBuffer j.entry) })
  finish s1 id Code.OK (applyNaming (ctxOf s1 j.ctx)).buffers.length

def execCtxBuffer (job : Nat) (s : State) : Host.Outcome State Fault Refusal :=
  .next (runJob s job Op.CTX_BUFFER noSources ctxBufferBody)

/-! ### The Wardrobe (R95 to R97) -/

/-- The Wardrobe's storage: the band of every available block, and the context rows too of the available blocks of a
withdrawn quad (R17). -/
def wardrobeBytes (s : State) : Nat :=
  let bs := (List.range blockCount).filter (blockAvailable s)
  bs.length * reg s Key.WARDROBE_BAND_ROWS * 256 +
    (bs.filter (fun b => !quadAvailable s (b / 4))).length * contextRows s * 256

/-- A model a command may name: registered and not being released. -/
def modelOf (s : State) (m : Nat) : Option Model :=
  match tabGet s.models m with
  | some x => if x.releasing then none else some x
  | none => none

def wardrobeRegisterSpec : CmdSpec where
  used _ := usedBits [(511, 448), (447, 384), (335, 320)]
  check s _ e := firstBad
    [(1023 < cxModel e || cxAddr e % 4096 != 0, Code.BAD_FIELD),
     (tabHas s.models (cxModel e), Code.BAD_FIELD),
     (cxSize e != 0 && (wardrobeBytes s < cxSize e || !inHbm s (cxAddr e) (cxSize e)), Code.BAD_FIELD)]
  noop e := cxSize e == 0
  atAdmission := noAdmit

/-- From its admission a model being released is no longer found by later commands (R95). -/
def wardrobeReleaseAdmit (s : State) (id : Nat) : State :=
  match tabGet s.jobs id with
  | some j => { s with models := tabUpd s.models (cxModel j.entry) (fun m => { m with releasing := true }) }
  | none => s

def wardrobeReleaseSpec : CmdSpec where
  used _ := usedBits [(335, 320)]
  check _ _ e := firstBad [(1023 < cxModel e, Code.BAD_FIELD)]
  noop := noZero
  atAdmission := wardrobeReleaseAdmit

/-- A run that reads a model is open, or a command that has started runs it again and again. -/
def modelRead (s : State) (m : Nat) : Bool :=
  s.array.runs.any (fun r => r.2.model == some m && isOpen s r.1) ||
    s.gens.any (fun g => isOpen s g.1 && (field g.2.main 464 16 == m ||
      (field g.2.desc 376 8 != 0 && field g.2.draftIf 464 16 == m))) ||
    s.jobs.any (fun p => openJob p.2 && p.2.opcode == Op.CROSS_RERANK && !p.2.work.isEmpty &&
      field (natAt s (param p.2.entry 511 448) 64) 272 16 == m)

/-- WARDROBE_RELEASE (R95): OK_NOOP for an unregistered model; else it waits until no open instruction reads it. -/
def wardrobeReleaseBody (s : State) (id : Nat) (j : Job) : State :=
  match tabGet s.models (cxModel j.entry) with
  | none => finish s id Code.OK_NOOP 0
  | some _ =>
    if modelRead s (cxModel j.entry) then s
    else finish { s with models := tabDel s.models (cxModel j.entry) } id Code.OK 0

def execWardrobeRelease (job : Nat) (s : State) : Host.Outcome State Fault Refusal :=
  .next (runJob s job Op.WARDROBE_RELEASE noSources wardrobeReleaseBody)

/-- Bytes of the resident models. -/
def residentBytes (s : State) : Nat := (s.models.map (fun p => if p.2.resident then p.2.size else 0)).sum

/-- Resident models. -/
def residentCount (s : State) : Nat := (s.models.filter (fun p => p.2.resident)).length

/-- Unpinned models are evicted in least-recently-used order until a model of a size fits (R96). -/
def evictFor (size : Nat) : Nat → State → Option State
  | 0, _ => none
  | n + 1, s =>
    if residentBytes s + size ≤ wardrobeBytes s && residentCount s < 64 then some s
    else match (sortBy (fun a b => a.2.lastUse < b.2.lastUse)
        (s.models.filter (fun p => p.2.resident))).head? with
      | some (m, _) =>
        evictFor size n (bump { s with models := tabUpd s.models m (fun x => { x with resident := false }) }
          Key.WARDROBE_EVICTIONS 1)
      | none => none

/-- WARDROBE_LOAD (R96): the load of a model from HBM ends, once space could be made. -/
def wardrobeLoad (s : State) (m : Nat) : State :=
  match tabGet s.models m with
  | some x =>
    if x.loading && !x.resident then
      match evictFor x.size 65 s with
      | some t => touchRange { t with models := tabUpd t.models m (fun y => { y with
          resident := true, loading := false, lastUse := beatNow s }) } x.addr x.size
      | none => s
    else s
  | none => s

def execWardrobeLoad (model : Nat) (s : State) : Host.Outcome State Fault Refusal := .next (wardrobeLoad s model)

/-- A command needs a model: it is resident, or its load starts and is counted (R96). -/
def needModel (s : State) (m : Nat) : Bool × State :=
  match tabGet s.models m with
  | some x =>
    if x.resident then
      (true, { s with models := tabUpd s.models m (fun y => { y with lastUse := beatNow s }) })
    else if x.loading then (false, s)
    else (false, bump { s with models := tabUpd s.models m (fun y => { y with loading := true }) }
      Key.WARDROBE_MISSES 1)
  | none => (false, s)

/-! ### The context table cache (R75) -/

/-- An entry is brought into the cache; when it is full, the least recently used entry whose context holds no partition
and has no admitted command makes room, and without one the entry must wait. -/
def cacheCtx (s : State) (c stamp : Nat) : Option State :=
  let x := ctxOf s c
  if x.cached then some (setCtx s c { x with lastUse := stamp })
  else
    let cached := s.ctxs.filter (fun p => p.2.cached)
    if cached.length < 256 then some (setCtx s c { x with cached := true, lastUse := stamp })
    else match (sortBy (fun a b => a.2.lastUse < b.2.lastUse)
        (cached.filter (fun p => !holdsQuads p.2 && (openJobsOf s p.1).isEmpty))).head? with
      | some (v, _) =>
        let s1 := updCtx s v (fun y => { y with cached := false })
        some (setCtx s1 c { x with cached := true, lastUse := stamp })
      | none => none

end Sys2Proof.Machine
end

