-- ==== Sys2Proof/Machine/LinkOps.lean ====
section
/-! DEFINITION. What Aedup and Pelgan links share (chapters 16 and 17): their states and what the entries show of them,
widths and rates, link keys, retrains and link resets. -/

namespace Sys2Proof.Machine

/-! ### States of a link (Table 16.2) -/

/-- The code of a link state. -/
def linkCode : LinkState → Nat
  | .down => 0 | .detect => 1 | .equalize => 2 | .align => 3 | .negotiate => 4 | .active => 5 | .retrain => 6

/-- One end of a link. -/
def linkOf (s : State) : LinkId → LinkEnd
  | .aedup => s.aedup.link
  | .pelgan l => (tabGet s.pelgan.links l).getD {}

/-- A link's end replaced, with AEDUP.STATE or PELGAN.LINK_STATE following it. -/
def setLink (s : State) (l : LinkId) (e : LinkEnd) : State :=
  match l with
  | .aedup => setReg { s with aedup := { s.aedup with link := e } } Key.AEDUP_STATE (linkCode e.state)
  | .pelgan p =>
    setReg { s with pelgan := { s.pelgan with links := tabSet s.pelgan.links p e } } Key.PELGAN_LINK_STATE
      (setField (reg s Key.PELGAN_LINK_STATE) (8 * p) 8 (linkCode e.state))

/-- The number of a link in SEC.LINK_SLOT (R438). -/
def linkIndex : LinkId → Nat
  | .aedup => 96
  | .pelgan l => l

/-- The region on whose base die a Pelgan link lies (R342). -/
def linkRegion (l : Nat) : Nat := l / 24

/-- PROTECT of the kind of link: 0 off, 1 when agreed, 2 required. -/
def protectOf (s : State) : LinkId → Nat
  | .aedup => reg s Key.AEDUP_PROTECT
  | .pelgan _ => reg s Key.PELGAN_PROTECT

/-- The key slot of a link, when it is LOADED (R438). -/
def linkSlot (s : State) (l : LinkId) : Option KeySlot :=
  tabGet s.sec.slots (field (reg s Key.SEC_LINK_SLOT) (8 * linkIndex l) 8)

/-- The link offers PROTECT: it is enabled and its key slot is LOADED (R438). -/
def offersProtect (s : State) (l : LinkId) : Bool := protectOf s l != 0 && (linkSlot s l).isSome

/-- The link may train: the start-up state is TRAIN or later and, for Pelgan, it is enabled (R331, R343). -/
def linkEnabled (s : State) (l : LinkId) : Bool :=
  (s.start == .train || s.start == .configure || s.start == .ready) &&
    match l with
    | .aedup => true
    | .pelgan p => p < 96 && bitOf (reg s Key.PELGAN_LINK_ENABLE) p

/-! ### Widths and rates (Tables 16.1 and 17.1) -/

/-- Lanes `lo` to `lo + n - 1` are all in a mask. -/
def lanesPass (mask lo n : Nat) : Bool := field mask lo n == 2 ^ n - 1

/-- The lanes that pass, less those that a long self-test found to fail (R411). -/
def goodLanes (s : State) (l : LinkId) (mask : Nat) : Nat :=
  match l with
  | .aedup => s.aedup.badLanes.foldl (fun m i => setField m i 1 0) mask
  | .pelgan p => s.pelgan.lanesOut.foldl (fun m i => if i / 2 == p then setField m (i % 2) 1 0 else m) mask

/-- The width and lane rate at which Aedup trains: the first of Table 16.1, not narrower than AEDUP.MIN_WIDTH (R330). -/
def aedupChoice (min low high : Nat) : Option (Nat × Nat) :=
  let eight (m : Nat) : Bool := lanesPass m 0 8 || lanesPass m 8 8
  let four (m : Nat) : Bool := (List.range 4).any (fun r => lanesPass m (4 * r) 4)
  if lanesPass high 0 16 then some (16, 200)
  else if lanesPass low 0 16 then some (16, 100)
  else if min ≤ 8 && eight high then some (8, 200)
  else if min ≤ 8 && eight low then some (8, 100)
  else if min ≤ 4 && four high then some (4, 200)
  else if min ≤ 4 && four low then some (4, 100)
  else none

/-- The width and lane rate at which a Pelgan link trains: the first of Table 17.1 (R342). -/
def pelganChoice (low high : Nat) : Option (Nat × Nat) :=
  if lanesPass high 0 2 then some (2, 400)
  else if lanesPass low 0 2 then some (2, 200)
  else if field high 0 2 != 0 then some (1, 400)
  else if field low 0 2 != 0 then some (1, 200)
  else none

/-- The width and rate a link trains at, from the lanes that pass at the lower and at the higher rate. -/
def linkChoice (s : State) (l : LinkId) (low high : Nat) : Option (Nat × Nat) :=
  match l with
  | .aedup => aedupChoice (reg s Key.AEDUP_MIN_WIDTH) (goodLanes s l low) (goodLanes s l high)
  | .pelgan _ => pelganChoice (goodLanes s l low) (goodLanes s l high)

/-- A chosen width and rate taken by a link. -/
def takeChoice (s : State) (l : LinkId) (e : LinkEnd) (w r : Nat) : State :=
  let s1 := setLink s l { e with width := w, rate := r }
  match l with
  | .aedup => setReg (setReg s1 Key.AEDUP_WIDTH w) Key.AEDUP_RATE r
  | .pelgan _ => s1

/-! ### Capabilities this device sends (Tables 16.3 and 17.2) -/

/-- Credits that this device offers on each channel: the receiver buffers' sizes are the device's own. -/
def ownCredits : Nat := 16

/-- The Aedup capability (R332). -/
def aedupCapability (s : State) : Nat :=
  let feat := 0xD + (if offersProtect s .aedup then 2 else 0)
  s.aedup.session * 2 ^ 96 + 1 * 2 ^ 88 + 1 * 2 ^ 80 + feat * 2 ^ 48 + ownCredits * 2 ^ 40 + ownCredits * 2 ^ 32 +
    ownCredits * 2 ^ 24 + ownCredits * 2 ^ 16 + 2

/-- The Pelgan capability of a link (R344). -/
def pelganCapability (s : State) (l : Nat) : Nat :=
  let feat := 3 + (if offersProtect s (.pelgan l) then 4 else 0)
  reg s Key.ID_SERIAL * 2 ^ 192 + reg s Key.PELGAN_GROUP_ID * 2 ^ 160 + reg s Key.PELGAN_FORMATION * 2 ^ 144 +
    reg s Key.PELGAN_MANAGER_SERIAL * 2 ^ 80 + reg s Key.PELGAN_PRIORITY * 2 ^ 72 + 1 * 2 ^ 64 + 1 * 2 ^ 56 +
    1 * 2 ^ 48 + feat * 2 ^ 16 + ownCredits * 2 ^ 8 + 1

/-- The capability a link sends. -/
def capabilityOf (s : State) (l : LinkId) : Nat :=
  match l with
  | .aedup => aedupCapability s
  | .pelgan p => pelganCapability s p

/-! ### Messages (Tables 17.4 and 17.5) -/

def msgRmtRd : Nat := 0x01
def msgRmtWr : Nat := 0x02
def msgRmtRsp : Nat := 0x03
def msgRtErr : Nat := 0x04
def msgZipList : Nat := 0x10
def msgSpanStart : Nat := 0x11
def msgDictReq : Nat := 0x20
def msgDictRsp : Nat := 0x21
def msgHello : Nat := 0x30
def msgAssign : Nat := 0x31
def msgRoutes : Nat := 0x32
def msgJobSet : Nat := 0x33

/-- This device's number in its group. -/
def ownDevice (s : State) : Nat := reg s Key.PELGAN_DEVICE

/-- Route `r` to a device, as PELGAN.ROUTE_TABLE holds it: the HOPS field, with the count of hops in bits [63:60]. -/
def routeTo (s : State) (d r : Nat) : Nat := field (reg s Key.PELGAN_ROUTE_TABLE) (8 * (32 * d + 8 * r)) 64

/-- The routes to a device. -/
def routesTo (s : State) (d : Nat) : List Nat :=
  ((List.range 4).map (routeTo s d)).filter (fun h => h != 0)

/-- The route of a flow: number (JOB + DEST) mod routes (R349). -/
def flowRoute (s : State) (job d : Nat) : Option Nat :=
  let rs := routesTo s d
  if rs.isEmpty then none else rs[(job + d) % rs.length]?

/-- The first port of a route. -/
def firstPort (hops : Nat) : Nat := field hops 0 7

/-- A message leaves for a device, when there is a route. -/
def sendTo (s : State) (opcode job dest tag value : Nat) : State :=
  match flowRoute s job dest with
  | some h => send s (.message (firstPort h) opcode dest tag value)
  | none => s

/-! ### Completed dictionary requests (R339, R358, R369, Table 18.8) -/

/-- The reply of a request. -/
def replyOf (r : Request) (status rlength data : Nat) : Reply :=
  ⟨r.path, r.number, r.source, r.op, r.key, r.offset, status, rlength, data⟩

/-- The header of a reply datagram (Table 18.8). -/
def mgmtHeader (p : Reply) : Nat :=
  p.number % 2 ^ 32 * 2 ^ 96 + p.key % 2 ^ 24 * 2 ^ 72 + p.op % 256 * 2 ^ 64 + p.offset % 2 ^ 32 * 2 ^ 32 +
    p.rlength % 65536 * 2 ^ 16 + p.status % 256 * 2 ^ 8 + 1

/-- A reply datagram: the high byte of the status is the first byte of its data. -/
def sendMgmt (s : State) (p : Reply) : State :=
  send s (.mgmtReply p.source (mgmtHeader p) (p.status / 256 + 256 * p.data))

/-- A reply goes back on its path: to the mailbox page, STATUS and RLENGTH with DONE; to the manager as a DICT_RSP; to the
management port, where it is kept for its source. -/
def answer (s : State) (p : Reply) : State :=
  match p.path with
  | .mailbox =>
    let page := if p.op == 1 && isSuccess p.status then memWrite s.dict.mailbox 0x100 (leBytes p.rlength p.data)
      else s.dict.mailbox
    { s with dict := { s.dict with
        mailbox := memPutNat page 0x010 8 (p.number % 2 ^ 32 * 2 ^ 32 + p.status * 2 ^ 16 + p.rlength)
        mailboxBusy := false } }
  | .dictReq =>
    sendTo s msgDictRsp 0xFFF p.source p.number (p.data * 2 ^ 32 + p.status * 2 ^ 16 + p.rlength)
  | .mgmt =>
    sendMgmt { s with dict := { s.dict with
      replay := ((p.source, p.number, p) :: s.dict.replay.filter (fun q => q.1 != p.source)).take 16 } } p

/-- A dictionary request completes: it is counted, and answered on its path. -/
def completeRequest (s : State) (r : Request) (status rlength data : Nat) : State :=
  let p := replyOf r status rlength data
  let s1 := bump s Key.DICT_REQUESTS 1
  let s2 := if isSuccess status then s1 else bump s1 Key.DICT_REFUSED 1
  answer (countChip { s2 with dict := { s2.dict with last := some p } } 0x308 1 {}) p

/-! ### Lines of queue tables and rings (R335) -/

/-- A line can be read now: the link cache holds it in S, or a reply that serves one use has come. -/
def lineHeld (s : State) (line : Nat) : Bool := s.aedup.cache.contains line || s.aedup.landed.contains line

/-- A held line is used. -/
def useLine (s : State) (line : Nat) : State :=
  { s with aedup :=
      if s.aedup.cache.contains line then
        { s.aedup with cache := line :: s.aedup.cache.filter (fun x => x != line) }
      else { s.aedup with landed := s.aedup.landed.erase line } }

/-- A line is asked for, unless it is held, has been asked for, or the link is not ACTIVE. -/
def wantLine (s : State) (line : Nat) (why : ReadFor) : State :=
  if s.aedup.link.state == .active && !lineHeld s line && !s.aedup.reads.any (fun p => p.2.for_ == why) then
    issueRead s line (sharedAgreed s) why
  else s

/-- The line that a dictionary request waits for is asked for. -/
def wantDict (s : State) : State :=
  match s.dict.waiting with
  | some (_, line) => wantLine s line .dict
  | none => s

/-! ### Queues that have queueDrained (R53) -/

/-- SQ_HEAD, CQ_TAIL and CQ_WRAP go back to a queue's table entry. -/
def writeBack (s : State) (n : Nat) (q : Queue) : State :=
  writeBytes s (companionBase + reg s Key.QUEUE_TABLE_BASE + 64 * n + 24)
    (leBytes 8 (q.cqWrap * 2 ^ 32 + q.cqTail * 2 ^ 16 + q.sqHead))

/-- A draining queue has no completion left to write. -/
def queueDrained (s : State) (n : Nat) (q : Queue) : Bool :=
  q.draining && s.aedup.held.isEmpty && !s.jobs.any (fun p => p.2.queue == n && !p.2.lost)

/-- Queues whose last completion has been written are written back and become DISABLED; this waits for the link. -/
def settleDrains (s : State) : State :=
  if s.aedup.link.state == .active then
    s.queues.foldl (fun t p =>
      if queueDrained s p.1 p.2 then
        let t1 := writeBack t p.1 p.2
        { t1 with queues := tabDel t1.queues p.1 }
      else t) s
  else s

/-! ### Commands that a link ends -/

/-- A command ends with a status unless its outcome is decided. -/
def endJob (s : State) (id status : Nat) : State :=
  match tabGet s.jobs id with
  | some j => if openJob j then finish s id status 0 else s
  | none => s

/-! ### Held completions, and queues after a new SESSION (R340) -/

/-- A completion entry is sent and, when INTR is agreed, its interrupt behind it. -/
def sendHeld (s : State) (h : HeldCompletion) : State :=
  let s1 := send { s with mem := { s.mem with comp := memWrite s.mem.comp h.addr (leBytes 16 h.entry) } }
    (.aedupWrite h.addr 16)
  match h.vector with
  | some v => if bitOf (reg s Key.AEDUP_FEATURES) 2 then send s1 (.aedupIntr v) else s1
  | none => s1

/-- Every queue becomes DISABLED without write-back; the commands admitted from them go on, and their completions go
nowhere. -/
def disableAllQueues (s : State) : State :=
  { s with queues := [], jobs := tabMap s.jobs (fun _ j => { j with lost := true }) }

/-- The link is ACTIVE again: with the same SESSION the held completions are sent, with another they are discarded and
counted, and every queue is disabled. -/
def sessionCheck (s : State) (session : Nat) : State :=
  let s1 := setReg { s with aedup := { s.aedup with peerSession := session, held := [] } }
    Key.AEDUP_PEER_SESSION session
  if s.aedup.peerSession == session then settleDrains (s.aedup.held.foldl sendHeld s1)
  else disableAllQueues (bump s1 Key.AEDUP_LOST_COMPLETIONS s.aedup.held.length)

/-! ### Retrains and link resets (R333, R340, R359) -/

/-- A link enters RETRAIN: replay buffers and credits are kept. -/
def startRetrain (s : State) (l : LinkId) : State :=
  let e := linkOf s l
  if e.state == .active then
    let s1 := setLink s l { e with state := .retrain, replays := 0 }
    match l with
    | .aedup => bump s1 Key.AEDUP_RETRAINS 1
    | .pelgan _ => bump s1 Key.PELGAN_RETRAINS 1
  else s

/-- The outcome of a command becomes LINK_DOWN, even if its work finished. -/
def loseLink (s : State) (id : Nat) : State :=
  match tabGet s.jobs id with
  | some j => match j.phase with
    | .done _ _ => updJob s id (fun j => { j with phase := .done Code.LINK_DOWN 0 })
    | _ => finish s id Code.LINK_DOWN 0
  | none => s

/-- The Aedup link reset (R340): outstanding reads end their commands with LINK_DOWN, so do posted writes that were not
acknowledged, so does a dictionary request that reads, and the cache is emptied. -/
def aedupReset (s : State) : State :=
  let ids := s.aedup.reads.filterMap (fun p => match p.2.for_ with
    | .job id => some id
    | _ => none)
  let sd := match s.dict.waiting with
    | some (r, _) =>
      if s.aedup.reads.any (fun p => p.2.for_ == .dict) then
        completeRequest { s with dict := { s.dict with waiting := none } } r Code.LINK_DOWN 0 0
      else s
    | none => s
  let s0 := (distinct ids).foldl (fun t id => endJob t id Code.LINK_DOWN) sd
  let s1 := (distinct (s.aedup.posted.map Prod.snd)).foldl loseLink s0
  let s2 := { s1 with aedup := { s1.aedup with reads := [], cache := [], landed := [], posted := [] },
                      sec := { s1.sec with sessions := tabDel s1.sec.sessions 96 } }
  let s3 := setLink s2 .aedup { state := .down, linkGen := s.aedup.link.linkGen }
  bump (logError s3 .aedup 0 Code.LINK_DOWN noCtx .linkReset 0) Key.AEDUP_LINK_RESETS 1

/-- The commands of remote requests that leave over a port end with LINK_DOWN, and the requests are gone. -/
def dropRequests (s : State) (port : Nat) : State :=
  let mine := s.pelgan.requests.filter (fun p => p.2.port == port)
  let s1 := mine.foldl (fun t p => endJob t p.2.job Code.LINK_DOWN) s
  { s1 with pelgan := { s1.pelgan with requests := s1.pelgan.requests.filter (fun p => p.2.port != port) } }

/-- The reset of a Pelgan link (R359), its generation tag advanced (R345). -/
def pelganReset (s : State) (p : Nat) : State :=
  let e := linkOf s (.pelgan p)
  let s1 := dropRequests s p
  let s2 := setLink s1 (.pelgan p) { state := .down, linkGen := (e.linkGen + 1) % 64, peerSerial := e.peerSerial }
  let s3 := { s2 with sec := { s2.sec with sessions := tabDel s2.sec.sessions p } }
  bump (logError s3 .pelgan p Code.LINK_DOWN noCtx .linkReset 0) Key.PELGAN_LINK_RESETS 1

/-- A failure of a link: a failed retrain, or a loss of ACTIVE, is a link reset; a failed training goes back to DOWN. -/
def linkFails (s : State) (l : LinkId) : State :=
  let e := linkOf s l
  let s1 := match l with
    | .aedup => bump s Key.AEDUP_TRAIN_FAILURES 1
    | .pelgan _ => s
  if e.state == .retrain || e.state == .active then
    match l with
    | .aedup => aedupReset s1
    | .pelgan p => pelganReset s1 p
  else setLink s1 l { e with state := .down }

/-- Session keys from the slot's key and the two values drawn (R439); the session is of this link alone. -/
def openSession (s : State) (l : LinkId) : State :=
  match linkSlot s l with
  | some k =>
    let a := drawSecret s
    let b := takeFree a.2
    let salt := a.1 % 2 ^ 128 * 2 ^ 128 + b.1 % 2 ^ 128
    let s1 := { b.2 with sec := { b.2.sec with
      sessions := tabSet b.2.sec.sessions (linkIndex l) (Config.hkdf k.key salt 64) } }
    setLink s1 l { linkOf s1 l with sealedOut := 0, sealedIn := 0 }
  | none => s

end Sys2Proof.Machine
end

