-- ==== Sys2Proof/Machine/Fabric.lean ====
section
/-! DEFINITION. Device groups over Pelgan (chapter 17): election, numbering and routes, jobs, remote accesses and aborts. -/

namespace Sys2Proof.Machine

/-! ### Breadth-first numbering and up/down routes (R348, R349) -/

/-- A cable between devices of the group, seen from one of its ends: (port, neighbour, neighbour's port). -/
def cablesOf (cs : List (Nat × Nat × Nat × Nat)) (d : Nat) : List (Nat × Nat × Nat) :=
  sortBy (fun a b => a.1 < b.1)
    (cs.filterMap (fun c => if c.1 == d then some (c.2.1, c.2.2.1, c.2.2.2) else none) ++
     cs.filterMap (fun c => if c.2.2.1 == d then some (c.2.2.2, c.1, c.2.1) else none))

/-- Breadth-first order from a device: (device, distance, parent, parent's port), nearest first, children of the lower
numbered parent first, then by the parent's port. -/
def bfs (cs : List (Nat × Nat × Nat × Nat)) :
    Nat → List (Nat × Nat × Nat × Nat) → List (Nat × Nat × Nat × Nat) → List (Nat × Nat × Nat × Nat)
  | 0, done, _ => done
  | _ + 1, done, [] => done
  | n + 1, done, x :: queue =>
    let new := (cablesOf cs x.1).foldl (fun acc e =>
      if (done ++ x :: queue ++ acc).any (fun y => y.1 == e.2.1) then acc
      else acc ++ [(e.2.1, x.2.1 + 1, x.1, e.1)]) []
    bfs cs n (done ++ [x]) (queue ++ new)

/-- The breadth-first tree of a topology whose device 0 is the manager. -/
def treeOf (devices : Nat) (cs : List (Nat × Nat × Nat × Nat)) : List (Nat × Nat × Nat × Nat) :=
  bfs cs (devices + 1) [] [(0, 0, 0, 0)]

/-- The place of a device in breadth-first order. -/
def placeOf (tree : List (Nat × Nat × Nat × Nat)) (d : Nat) : Nat := (tree.findIdx? (fun x => x.1 == d)).getD 0xFFFF

/-- The number of a device. -/
def numberIn (numbers : List Nat) (d : Nat) : Nat := numbers[d]?.getD 0xFFFF

/-- The distance of a device from the manager. -/
def distanceOf (tree : List (Nat × Nat × Nat × Nat)) (d : Nat) : Nat :=
  match tree.find? (fun x => x.1 == d) with
  | some x => x.2.1
  | none => 0xFFFF

/-- A hop is up when it moves towards the manager (R349). -/
def isUp (tree : List (Nat × Nat × Nat × Nat)) (numbers : List Nat) (a b : Nat) : Bool :=
  distanceOf tree b < distanceOf tree a ||
    (distanceOf tree b == distanceOf tree a && numberIn numbers b < numberIn numbers a)

/-- The routes of exactly `n` hops that never go up after going down, as lists of ports, lower ports first. -/
def routesOfLength (tree cs : List (Nat × Nat × Nat × Nat)) (numbers : List Nat) (dest : Nat) :
    Nat → Nat → Bool → List (List Nat)
  | 0, a, _ => if a == dest then [[]] else []
  | n + 1, a, down =>
    if a == dest then []
    else ((cablesOf cs a).map (fun e =>
      let up := isUp tree numbers a e.2.1
      if down && up then []
      else (routesOfLength tree cs numbers dest n e.2.1 (down || !up)).map (fun r => e.1 :: r))).flatten

/-- Up to four shortest routes of at most 8 hops between two devices (R349). -/
def shortestRoutes (tree cs : List (Nat × Nat × Nat × Nat)) (numbers : List Nat) (a dest : Nat) : List (List Nat) :=
  match (List.range 8).find? (fun n => !(routesOfLength tree cs numbers dest (n + 1) a false).isEmpty) with
  | some n => (routesOfLength tree cs numbers dest (n + 1) a false).take 4
  | none => []

/-- The HOPS value of a route, with 127 after the last hop and the count in bits [63:60]. -/
def hopsValue (r : List Nat) : Nat :=
  let ports := (r ++ List.replicate 8 127).take 8
  r.length * 2 ^ 60 + ports.reverse.foldl (fun v p => v * 128 + p) 0

/-- The route-table entries of a device, four for each other device that has a number; those without a route are 0:
(destination number, route, HOPS value). -/
def routeEntries (tree cs : List (Nat × Nat × Nat × Nat)) (numbers : List Nat) (d : Nat) : List (Nat × Nat × Nat) :=
  ((List.range numbers.length).filter (fun x => x != d && numberIn numbers x != 0xFFFF)).flatMap (fun x =>
    let rs := (shortestRoutes tree cs numbers d x).map hopsValue
    (List.range 4).map (fun r => (numberIn numbers x, r, rs[r]?.getD 0)))

/-- Routes written into PELGAN.ROUTE_TABLE. -/
def writeRoutes (s : State) (rs : List (Nat × Nat × Nat)) : State :=
  setReg s Key.PELGAN_ROUTE_TABLE
    (rs.foldl (fun t r => setField t (8 * (32 * r.1 + 8 * r.2.1)) 64 r.2.2) (reg s Key.PELGAN_ROUTE_TABLE))

/-! ### Election (R348, R351) -/

/-- A candidate is better: the higher PRIORITY, then the lower SERIAL. -/
def better (a b : Nat × Nat) : Bool := b.1 < a.1 || (a.1 == b.1 && a.2 < b.2)

/-- This device as a candidate. -/
def ownCandidate (s : State) : Nat × Nat := (reg s Key.PELGAN_PRIORITY, reg s Key.ID_SERIAL)

/-- The best candidate this device knows. -/
def bestCandidate (s : State) : Nat × Nat :=
  match s.pelgan.best with
  | some c => if better c (ownCandidate s) then c else ownCandidate s
  | none => ownCandidate s

/-- The contexts bound to jobs that have other members. -/
def spanningContexts (s : State) : List Nat :=
  (tabKeys s.ctxs).filter (fun c => match boundJob s c with
    | some j => field (jobEntry s j) 128 4096 != 2 ^ ownDevice s && field (jobEntry s j) 128 4096 != 0
    | none => false)

/-- Contexts of jobs that span devices are torn down with BEAT_LOST (R49, R351). -/
def loseSpanning (s : State) : State := (spanningContexts s).foldl (fun t c => faultCtx t c Code.BEAT_LOST) s

/-- The manager's SERIAL changes: bound contexts of spanning jobs are torn down, and the job table is cleared (R351). -/
def changeManager (s : State) (serial : Nat) : State :=
  let s1 := loseSpanning s
  let s2 := { s1 with regs := s1.regs.filter (fun p => !(Key.PELGAN_JOB 0 ≤ p.1 && p.1 ≤ Key.PELGAN_JOB 254)),
                      pelgan := { s1.pelgan with jobsDue := [], seen := [], repeats := [] } }
  let s3 := setReg s2 Key.PELGAN_CTX_JOB (defaultOf Key.PELGAN_CTX_JOB)
  setReg s3 Key.PELGAN_MANAGER_SERIAL serial

/-- HELLO (R348): the better candidate is kept and flooded on; meeting the devices of a better manager of the same group
makes this device's manager change (R351). -/
def hello (s : State) (port capability priority serial : Nat) : State :=
  if groupLink s port && s.pelgan.excluded != some serial then
    let c := (priority, serial)
    let manager := field capability 80 64
    let mine := reg s Key.PELGAN_MANAGER_SERIAL
    if better c (bestCandidate s) then
      let s1 := { s with pelgan := { s.pelgan with best := some c } }
      let s2 := ((groupLinks s1).filter (fun l => l != port)).foldl
        (fun t l => send t (.message l msgHello 0xFFF 0 (priority * 2 ^ 64 + serial))) s1
      if manager != 0 && mine != 0 && manager != mine && manager == serial then
        setReg (changeManager s2 manager) Key.HEM_ROLE 2
      else s2
    else s
  else s

def execHello (port capability priority serial : Nat) (s : State) : Host.Outcome State Fault Refusal :=
  .next (hello s port capability priority serial)

/-- The bound of an abort in a group (R356). -/
def abortBound (diameter latency : Nat) : Nat := 100 + diameter * latency + (diameter - 1) * 36 + 200

/-- The devices that a manager admits: those with a route of at most 8 hops. -/
def admitted (tree cs : List (Nat × Nat × Nat × Nat)) : List Nat :=
  (tree.filter (fun x => x.1 == 0 || !(shortestRoutes tree cs [] 0 x.1).isEmpty)).map (fun x => x.1)

/-- The numbers of a new formation: breadth-first order from the manager (R348). -/
def formationNumbers (tree cs : List (Nat × Nat × Nat × Nat)) (devices : Nat) : List Nat :=
  let ok := admitted tree cs
  (List.range devices).map (fun d => if ok.contains d then placeOf tree d else 0xFFFF)

/-- The numbers of a group whose devices or links have changed: a device that has a number keeps it, and one that joins
receives the lowest free number (R350). -/
def joinedNumbers (tree cs : List (Nat × Nat × Nat × Nat)) (oldSerials oldNumbers serials : List Nat) : List Nat :=
  let kept := serials.map (fun x => match oldSerials.findIdx? (fun y => y == x) with
    | some i => numberIn oldNumbers i
    | none => 0xFFFF)
  ((admitted tree cs).filter (fun d => numberIn kept d == 0xFFFF)).foldl (fun ns d =>
    ns.set d (((List.range (ns.length + 1)).find? (fun n => !ns.contains n)).getD 0xFFFF)) kept

/-- The manager lays out its group: what its entries say of it, its own routes, its children, ASSIGN to the devices that
have a new number, and ROUTES to all.  `own` tells what becomes of its own routes: at a formation they stand at once, and
later they wait for the next boundary, as on every device (R350). -/
def layOutGroup (s : State) (serials numbers : List Nat) (cables : List (Nat × Nat × Nat × Nat)) (latency : Nat)
    (assigned : List Nat) (own : State → List (Nat × Nat × Nat) → State) : State :=
  let tree := treeOf serials.length cables
  let members := (List.range serials.length).filter (fun d => numberIn numbers d != 0xFFFF)
  let route (a b : Nat) : List (List Nat) := shortestRoutes tree cables numbers a b
  let diameter := (members.flatMap (fun a => members.map (fun b =>
    ((route a b).map List.length).foldl Nat.max 0))).foldl Nat.max 0
  let s1 := own s (routeEntries tree cables numbers 0)
  let s2 := setReg (setReg s1 Key.PELGAN_MEMBERS members.length) Key.PELGAN_DIAMETER diameter
  let s3 := setReg (setReg s2 Key.PELGAN_UNREACHED (serials.length - members.length)) Key.PELGAN_ABORT_BOUND
    (abortBound diameter latency)
  let s4 := { s3 with pelgan := { s3.pelgan with
    cables := cables, maxLatency := latency, serials := serials, numbers := numbers,
    children := (tree.filter (fun x => x.1 != 0 && x.2.2.1 == 0)).map (fun x => x.2.2.2) } }
  (members.filter (fun d => d != 0)).foldl (fun t x =>
    let d := numberIn numbers x
    match (route 0 x).head? with
    | none => t
    | some r =>
      let port := r.headD 127
      let t1 := if assigned.contains x then
          send t (.message port msgAssign d 0 (d * 2 ^ 16 + reg t Key.PELGAN_FORMATION)) else t
      (routeEntries tree cables numbers x).foldl (fun u e => send u (.message port msgRoutes d 0 e.2.2)) t1) s4

/-- Routes that wait for the next boundary. -/
def delayRoutes (s : State) (rs : List (Nat × Nat × Nat)) : State :=
  { s with pelgan := { s.pelgan with routesDue := s.pelgan.routesDue ++ rs } }

/-- The routes of a new formation. -/
def freshRoutes (s : State) (rs : List (Nat × Nat × Nat)) : State :=
  writeRoutes (setReg { s with pelgan := { s.pelgan with routesDue := [] } } Key.PELGAN_ROUTE_TABLE 0) rs

/-- The devices or the links of a formed group have changed: the manager lays it out anew (R350). -/
def regroup (s : State) (serials : List Nat) (cables : List (Nat × Nat × Nat × Nat)) (latency : Nat) : State :=
  let tree := treeOf serials.length cables
  let numbers := joinedNumbers tree cables s.pelgan.serials s.pelgan.numbers serials
  let new := (List.range serials.length).filter (fun d =>
    !(s.pelgan.serials.zip s.pelgan.numbers).contains (serials[d]?.getD 0, numberIn numbers d))
  layOutGroup s serials numbers cables latency new delayRoutes

/-- MANAGER_DECLARE (R348, R349): a device that has been its own best candidate for 1 ms declares itself manager.
`serials` and `cables` are the devices and links that the flood has told it of, itself device 0; `latency` is the
largest latency of a link.  On the manager of a formed group it tells that the flood has shown other devices or links
(R350). -/
def managerDeclare (s : State) (serials : List Nat) (cables : List (Nat × Nat × Nat × Nat)) (latency : Nat) : State :=
  if s.start == .ready && reg s Key.PELGAN_GROUP_ID != 0 && bestCandidate s == ownCandidate s then
    if reg s Key.HEM_ROLE == 1 then regroup s serials cables latency
    else
      let s0 := if reg s Key.PELGAN_MANAGER_SERIAL != 0 then changeManager s (reg s Key.ID_SERIAL)
        else setReg s Key.PELGAN_MANAGER_SERIAL (reg s Key.ID_SERIAL)
      let s1 := setReg (setReg s0 Key.HEM_ROLE 1) Key.PELGAN_DEVICE 0
      let s2 := setReg (bump s1 Key.PELGAN_FORMATION 1) Key.PELGAN_GROUP_VERSION 1
      let tree := treeOf serials.length cables
      layOutGroup { s2 with pelgan := { s2.pelgan with parent := none, excluded := none } } serials
        (formationNumbers tree cables serials.length) cables latency (List.range serials.length) freshRoutes
  else s

def execManagerDeclare (serials : List Nat) (cables : List (Nat × Nat × Nat × Nat)) (latency : Nat) (s : State) :
    Host.Outcome State Fault Refusal :=
  .next (managerDeclare s serials cables latency)

/-- ASSIGN (R348, R351): the device becomes a worker of the manager that sent it. -/
def assign (s : State) (port device formation manager members : Nat) (children : List Nat) : State :=
  if groupLink s port then
    let old := reg s Key.PELGAN_MANAGER_SERIAL
    let s0 := if old == 0 then setReg s Key.PELGAN_MANAGER_SERIAL manager
      else if old == manager then s else changeManager s manager
    let s1 := setReg (setReg s0 Key.PELGAN_DEVICE device) Key.PELGAN_FORMATION formation
    let s2 := setReg (setReg s1 Key.PELGAN_MEMBERS members) Key.HEM_ROLE 2
    { s2 with pelgan := { s2.pelgan with parent := some port, children := children, excluded := none } }
  else s

def execAssign (port device formation manager members : Nat) (children : List Nat) (s : State) :
    Host.Outcome State Fault Refusal :=
  .next (assign s port device formation manager members children)

/-- ROUTES (R350): they apply at step 3 of the next boundary. -/
def routes (s : State) (rs : List (Nat × Nat × Nat)) : State :=
  { s with pelgan := { s.pelgan with routesDue := s.pelgan.routesDue ++ rs } }

def execRoutes (rs : List (Nat × Nat × Nat)) (s : State) : Host.Outcome State Fault Refusal := .next (routes s rs)

/-- The routes received take effect, at a boundary. -/
def applyRoutes (s : State) : State :=
  let s1 := writeRoutes s s.pelgan.routesDue
  { s1 with pelgan := { s1.pelgan with routesDue := [] } }

/-- A Pelgan link of the manager's group is gone: it recomputes the routes (R350). -/
def managerLosesLink (s : State) (port : Nat) : State :=
  if reg s Key.HEM_ROLE == 1 && s.pelgan.cables.any (fun c => (c.1 == 0 && c.2.1 == port) ||
      (c.2.2.1 == 0 && c.2.2.2 == port)) then
    let cs := s.pelgan.cables.filter (fun c => !((c.1 == 0 && c.2.1 == port) || (c.2.2.1 == 0 && c.2.2.2 == port)))
    regroup s s.pelgan.serials cs s.pelgan.maxLatency
  else s

/-! ### Jobs (R353, R354) -/

/-- JOB_SET (R353): the entry takes effect at the boundary it names. -/
def jobSet (s : State) (job entry due : Nat) : State :=
  if job < 255 then
    { s with pelgan := { s.pelgan with jobsDue := s.pelgan.jobsDue ++ [⟨due, job, entry⟩] } }
  else s

def execJobSet (job entry due : Nat) (s : State) : Host.Outcome State Fault Refusal := .next (jobSet s job entry due)

/-- A worker in LOST joins no job with other members (R49). -/
def refusesJob (s : State) (entry : Nat) : Bool :=
  reg s Key.HEM_ROLE == 2 && reg s Key.HEM_STATE == 3 && jobState entry == 1 &&
    (onesOf 4096 (field entry 128 4096) 0).any (fun d => d != ownDevice s)

/-- Job entries that fall due at the boundary of a beat are applied. -/
def applyJobs (s : State) (beat : Nat) : State :=
  let now := s.pelgan.jobsDue.filter (fun u => u.due ≤ beat && !refusesJob s u.entry)
  let s1 := { s with pelgan := { s.pelgan with jobsDue := s.pelgan.jobsDue.filter (fun u => beat < u.due) } }
  now.foldl (fun t u =>
    let t1 := setReg t (Key.PELGAN_JOB u.job) u.entry
    { t1 with pelgan := { t1.pelgan with seen := t1.pelgan.seen.filter (fun p => p.1 != u.job) } }) s1

/-- The latest entry of a job, counting one that waits for its boundary. -/
def latestJob (s : State) (job : Nat) : Nat :=
  match (s.pelgan.jobsDue.filter (fun u => u.job == job)).getLast? with
  | some u => u.entry
  | none => jobEntry s job

/-- The effect of an accepted write of PELGAN.JOB on the manager (R353): the new entry, with the next JOB_GEN, goes to
every device named in the old or the new MEMBERS and takes effect two whole beats on; a job that is ACTIVE is aborted
first when its MEMBERS become zero. -/
def writeJob (s : State) (job value : Nat) : State :=
  let old := latestJob s job
  let members := field value 128 4096
  let gen := (jobGen old + 1) % 256
  let entry := members * 2 ^ 128 + gen * 2 ^ 16 + (if members == 0 then 0 else 1) * 2 ^ 8 + 1
  let s1 := if members == 0 && jobState (jobEntry s job) == 1 then
      match ctxOfJob s job with
      | some c => faultCtx s c Code.CTX_TORN_DOWN
      | none => beginAbort s job Code.CTX_TORN_DOWN
    else s
  let both := members ||| field old 128 4096
  let due := beatNow s + 3
  let s2 := ((onesOf 4096 both 0).filter (fun d => d != ownDevice s)).foldl
    (fun t d => sendTo t msgJobSet job d due entry) s1
  jobSet s2 job entry due

/-! ### Forwarding (R347) -/

/-- A route back to a device exists. -/
def hasRoute (s : State) (d : Nat) : Bool := !(routesTo s d).isEmpty

/-- MESSAGE_FORWARD (R347): a message flit whose route goes on is sent on the next hop's port, or dropped. -/
def messageForward (s : State) (header : Nat) : State :=
  let ptr := field header 80 4
  let port := field header (24 + 7 * ptr) 7
  if 8 ≤ ptr || port == 127 then s
  else if groupLink s port then
    countChip (send s (.message port (field header 16 8) (field header 116 12) (field header 0 16) (header + 2 ^ 80)))
      0x307 1 { inst := port }
  else
    let src := field header 104 12
    let s1 := bump s Key.PELGAN_ROUTE_DROPS 1
    if hasRoute s src then sendTo s1 msgRtErr (field header 92 12) src (field header 0 16) port else s1

def execMessageForward (_port header : Nat) (s : State) : Host.Outcome State Fault Refusal :=
  .next (messageForward s header)

/-! ### Remote accesses at the target (R355) -/

/-- Fields of an access descriptor (Table 17.7). -/
def adAddr (d : Nat) : Nat := field d 64 64
def adOffset (d : Nat) : Nat := field d 56 8
def adLen (d : Nat) : Nat := field d 48 8
def adSpace (d : Nat) : Nat := field d 44 4

/-- A message of a job is accepted: the job is ACTIVE here, the generation is its own, and the source is a member. -/
def jobMessageOk (s : State) (source job gen : Nat) : Bool :=
  let e := jobEntry s job
  job < 255 && jobState e == 1 && jobGen e == gen && jobMember e source

/-- The context bound to a job, with the logical block and row of a Pocket access, when the access may be made. -/
def pocketTarget (s : State) (job d : Nat) : Option (Nat × Nat × Nat) :=
  match ctxOfJob s job with
  | some c =>
    let x := ctxOf s c
    let lb := field (adAddr d) 16 16
    let row := field (adAddr d) 0 16
    if x.state == .running && lb < 4 * x.partition && row < contextRows s && adOffset d + adLen d ≤ 256 then
      some (c, lb, row)
    else none
  | none => none

/-- A slice runs on a logical block, so accesses to its Pocket wait (R415). -/
def pocketHeld (t : State) (x : Ctx) (lb : Nat) : Bool :=
  match physBlock x lb with
  | some b => sliced t b
  | none => false

/-- The access descriptor is refused by the target (R355). -/
def accessRefused (s : State) (job d : Nat) : Bool :=
  if adSpace d == 0 then inWindow (adAddr d) || adLen d == 0 || !rangeOk s (adAddr d) (adLen d)
  else if adSpace d == 1 then (pocketTarget s job d).isNone
  else true

/-- A remote request's checks, then its service, or its refusal (R355). -/
def remoteRequest (s : State) (source job gen tag d : Nat) (serve : State → State) : State :=
  if !jobMessageOk s source job gen then bump s Key.PELGAN_STALE_DROPS 1
  else if accessRefused s job d then
    sendTo (bump s Key.PELGAN_REFUSED 1) msgRmtRsp job source tag (Code.HANDOFF_REFUSED)
  else serve s

/-- RMT_RD (R355). -/
def rmtRd (s : State) (source job gen tag d : Nat) : State :=
  remoteRequest s source job gen tag d (fun t =>
    if adSpace d == 0 then
      if readBad t (adAddr d) (adLen d) then sendTo t msgRmtRsp job source tag Code.ECC_UNCORRECTABLE
      else sendTo (touchRange t (adAddr d) (adLen d)) msgRmtRsp job source tag
        (natAt t (adAddr d) (adLen d) * 2 ^ 16 + Code.OK)
    else match pocketTarget t job d with
      | some (c, lb, row) =>
        let x := ctxOf t c
        let slots := slotsOf x lb row 1
        if !pocketHeld t x lb && claimable x slots [] then
          let v := ofLeBytes (lbRead t x lb row (adOffset d) (adLen d))
          sendTo (setCtx t c (retireSlots (claimSlots x slots []) slots [])) msgRmtRsp job source tag
            (v * 2 ^ 16 + Code.OK)
        else t
      | none => t)

def execRmtRd (source job gen tag descriptor : Nat) (s : State) : Host.Outcome State Fault Refusal :=
  .next (rmtRd s source job gen tag descriptor)

/-- RMT_WR (R355): it is answered once its data has landed. -/
def rmtWr (s : State) (source job gen tag d data : Nat) : State :=
  remoteRequest s source job gen tag d (fun t =>
    let bs := leBytes (adLen d) data
    if adSpace d == 0 then
      match prepareWrite t (adAddr d) (adLen d) with
      | .ready u => sendTo (writeBytes u (adAddr d) bs) msgRmtRsp job source tag Code.OK
      | .wait u => u
      | .fail u st => sendTo u msgRmtRsp job source tag st
    else match pocketTarget t job d with
      | some (c, lb, row) =>
        let x := ctxOf t c
        let slots := slotsOf x lb row 1
        if !pocketHeld t x lb && claimable x [] slots then
          let t1 := lbWrite t x lb row (adOffset d) bs
          sendTo (setCtx t1 c (retireSlots (claimSlots x [] slots) [] slots)) msgRmtRsp job source tag Code.OK
        else t
      | none => t)

def execRmtWr (source job gen tag descriptor data : Nat) (s : State) : Host.Outcome State Fault Refusal :=
  .next (rmtWr s source job gen tag descriptor data)

/-! ### Remote requests of this device (R355) -/

/-- A remote request leaves for a device on behalf of a command of a bound context; without a route the command ends
with DEVICE_UNREACHABLE. -/
def issueRemote (s : State) (id ctx job dest : Nat) (write : Bool) (addr length value : Nat) : State :=
  match flowRoute s job dest with
  | none => endJob s id Code.DEVICE_UNREACHABLE
  | some h =>
    let tag := s.pelgan.nextTag
    let s1 := { s with pelgan := { s.pelgan with
      nextTag := (tag + 1) % 65536,
      requests := tabSet s.pelgan.requests tag
        ⟨id, ctx, (ctxOf s ctx).genTag, dest, write, addr, length, firstPort h⟩ } }
    let s2 := updJob s1 id (fun j => { j with reads := j.reads + 1 })
    send s2 (.message (firstPort h) (if write then msgRmtWr else msgRmtRd) dest tag value)

/-- RMT_RSP (R355, R400): it serves its request; a reply whose request is gone is dropped, and one whose context tag is
old is dropped and counted. -/
def rmtRsp (s : State) (tag status data : Nat) : State :=
  match tabGet s.pelgan.requests tag with
  | none => s
  | some q =>
    let s1 := { s with pelgan := { s.pelgan with requests := tabDel s.pelgan.requests tag } }
    if (ctxOf s q.ctx).genTag != q.genTag then bump s1 Key.RESET_STALE_REPLIES 1
    else match tabGet s1.jobs q.job with
      | none => s1
      | some j =>
        let s2 := updJob s1 q.job (fun j => { j with
          reads := j.reads - 1, work := if q.write then j.work else j.work ++ [data] })
        if !openJob j then s2
        else if status == Code.OK then s2
        else endJob (if status == Code.HANDOFF_REFUSED && j.opcode == Op.PACK then
            bump s2 Key.PACK_HANDOFF_REFUSALS 1 else s2) q.job status

def execRmtRsp (tag status data : Nat) (s : State) : Host.Outcome State Fault Refusal := .next (rmtRsp s tag status data)

/-- RT_ERR (R347): it reports a flit dropped on its route; the request it belongs to stays unanswered and ends at
PELGAN.REMOTE_TIMEOUT. -/
def execRtErr (_tag _dest _hop : Nat) (s : State) : Host.Outcome State Fault Refusal := .next s

/-- REMOTE_TIMEOUT (R355). -/
def remoteTimeout (s : State) (tag : Nat) : State :=
  match tabGet s.pelgan.requests tag with
  | some q =>
    endJob { s with pelgan := { s.pelgan with requests := tabDel s.pelgan.requests tag } } q.job Code.LINK_DOWN
  | none => s

def execRemoteTimeout (tag : Nat) (s : State) : Host.Outcome State Fault Refusal := .next (remoteTimeout s tag)

/-! ### Aborts (R356) -/

/-- ABORT_FLIT (R356, Table 17.9): forwarded on first receipt; a member fences its bound context. -/
def abortFlit (s : State) (port flit : Nat) : State :=
  let job := field flit 116 12
  let gen := field flit 108 8
  let origin := field flit 96 12
  let cause := field flit 80 16
  if field flit 64 16 != reg s Key.PELGAN_FORMATION || s.pelgan.seen.contains (job, gen) || !groupLink s port then s
  else
    let s1 := { s with pelgan := { s.pelgan with seen := (job, gen) :: s.pelgan.seen } }
    let s2 := bump (sendAbort s1 origin job gen cause (some port)) Key.PELGAN_ABORTS_RECEIVED 1
    let e := jobEntry s2 job
    if job < 255 && jobState e == 1 && jobGen e == gen && jobMember e (ownDevice s2) then
      let s3 := setReg s2 (Key.PELGAN_JOB job) (setField e 8 8 2)
      match ctxOfJob s3 job with
      | some c => faultCtx s3 c Code.JOB_ABORTED_PEER
      | none => s3
    else s2

def execAbortFlit (port flit : Nat) (s : State) : Host.Outcome State Fault Refusal := .next (abortFlit s port flit)

/-- ABORT_REPEAT (R356): every abort that this device began is sent again, until 1 ms has passed. -/
def abortRepeat (s : State) : State :=
  let s1 := s.pelgan.repeats.foldl (fun t r => sendAbort t r.origin r.job r.gen r.cause none) s
  { s1 with pelgan := { s1.pelgan with
      repeats := (s.pelgan.repeats.map (fun r => { r with left := r.left - 1 })).filter (fun r => r.left != 0) } }

def execAbortRepeat (s : State) : Host.Outcome State Fault Refusal := .next (abortRepeat s)

end Sys2Proof.Machine
end

