-- ==== Sys2Proof/Machine/Float.lean ====
section
/-! DEFINITION. Exact binary arithmetic with the special values of IEEE 754, its rounding to FP32, BF16 and the element
formats (R109, R121, R125), and the elementary functions the spec names. -/

namespace Sys2Proof.Machine

/-- A number as the array computes with it: NaN, an infinity, or a signed `m` × 2^`e`, exact. -/
inductive Num where
  | nan
  | inf (neg : Bool)
  | fin (neg : Bool) (m : Nat) (e : Int)
  deriving DecidableEq, Repr

namespace Num

def zero : Num := .fin false 0 0
def one : Num := .fin false 1 0

/-- A natural number, exactly. -/
def ofNat (n : Nat) : Num := .fin false n 0

/-- An integer, exactly. -/
def ofInt (x : Int) : Num := .fin (x < 0) x.natAbs 0

def neg : Num → Num
  | .nan => .nan
  | .inf b => .inf (!b)
  | .fin b m e => .fin (!b) m e

def isNan : Num → Bool
  | .nan => true
  | _ => false

def isFinite : Num → Bool
  | .fin _ _ _ => true
  | _ => false

def isInf : Num → Bool
  | .inf _ => true
  | _ => false

def isZero : Num → Bool
  | .fin _ m _ => m == 0
  | _ => false

/-- The number as a whole multiple of 2^`q`, for `q` not above its exponent. -/
def scaled (b : Bool) (m : Nat) (e q : Int) : Int :=
  let k : Int := (m * 2 ^ (e - q).toNat : Nat)
  if b then -k else k

/-- Exact sum: infinities of both signs give NaN, and a sum of zero is negative only of two negative zeros. -/
def add : Num → Num → Num
  | .nan, _ => .nan
  | _, .nan => .nan
  | .inf a, .inf b => if a == b then .inf a else .nan
  | .inf a, _ => .inf a
  | _, .inf b => .inf b
  | .fin a m e, .fin b n f =>
    let q := min e f
    let t := scaled a m e q + scaled b n f q
    if t == 0 then .fin (a && b) 0 0 else .fin (t < 0) t.natAbs q

def sub (x y : Num) : Num := add x (neg y)

/-- Exact product: infinity times zero is NaN. -/
def mul : Num → Num → Num
  | .nan, _ => .nan
  | _, .nan => .nan
  | .inf a, .inf b => .inf (a != b)
  | .inf a, .fin b m _ => if m == 0 then .nan else .inf (a != b)
  | .fin a m _, .inf b => if m == 0 then .nan else .inf (a != b)
  | .fin a m e, .fin b n f => .fin (a != b) (m * n) (e + f)

/-- Exact sum of a list. -/
def sum : List Num → Num
  | [] => zero
  | x :: xs => xs.foldl add x

/-- Less than; false when either is NaN. -/
def lt : Num → Num → Bool
  | .nan, _ => false
  | _, .nan => false
  | .inf a, .inf b => a && !b
  | .inf a, .fin _ _ _ => a
  | .fin _ _ _, .inf b => !b
  | .fin a m e, .fin b n f => let q := min e f; scaled a m e q < scaled b n f q

/-- Less than or equal; false when either is NaN. -/
def le : Num → Num → Bool
  | .nan, _ => false
  | _, .nan => false
  | x, y => !lt y x

def abs : Num → Num
  | .nan => .nan
  | .inf _ => .inf false
  | .fin _ m e => .fin false m e

/-- Multiplied by 2^`k`. -/
def shift (k : Int) : Num → Num
  | .fin b m e => .fin b m (e + k)
  | x => x

end Num

/-- Length in bits. -/
def bitLen (m : Nat) : Nat := if m = 0 then 0 else Nat.log2 m + 1

/-- The least place of a number of `m` × 2^`e` held with `p` bits of precision and no place below 2^`qmin`. -/
def lastPlace (p : Nat) (qmin : Int) (m : Nat) (e : Int) : Int := max (e + bitLen m - p) qmin

/-- `m` × 2^`e` in units of 2^`q`, to nearest, ties to even. -/
def roundNearest (m : Nat) (e q : Int) : Nat :=
  if q ≤ e then m * 2 ^ (e - q).toNat
  else
    let d := 2 ^ (q - e).toNat
    let f := m / d
    let r := m % d
    if d < 2 * r || (2 * r == d && f % 2 == 1) then f + 1 else f

/-- `m` × 2^`e` in units of 2^`q`, up when the 24-bit draw lies below the fraction (R129). -/
def roundDrawn (draw m : Nat) (e q : Int) : Nat :=
  if q ≤ e then m * 2 ^ (e - q).toNat
  else
    let d := 2 ^ (q - e).toNat
    if draw < m % d * 2 ^ 24 / d then m / d + 1 else m / d

/-- The magnitude code of a binary format of precision `p` with least place 2^`qmin`, with no upper limit. -/
def magnitude (p : Nat) (qmin : Int) (m : Nat) (e : Int) : Nat :=
  let q := lastPlace p qmin m e
  if m = 0 then 0 else (q - qmin).toNat * 2 ^ (p - 1) + roundNearest m e q

/-- As `magnitude`, rounded by a draw. -/
def magnitudeDrawn (p : Nat) (qmin : Int) (draw m : Nat) (e : Int) : Nat :=
  let q := lastPlace p qmin m e
  if m = 0 then 0 else (q - qmin).toNat * 2 ^ (p - 1) + roundDrawn draw m e q

/-- A binary interchange code decoded: `w` exponent bits, `t` fraction bits. -/
def ieeeOf (w t code : Nat) : Num :=
  let b := bitOf code (w + t)
  let ex := field code t w
  let fr := field code 0 t
  let bias : Int := 2 ^ (w - 1) - 1
  if ex == 2 ^ w - 1 then (if fr == 0 then .inf b else .nan)
  else if ex == 0 then .fin b fr (1 - bias - t)
  else .fin b (2 ^ t + fr) (ex - bias - t)

/-- An FP32 word as a number. -/
def ofF32 (code : Nat) : Num := ieeeOf 8 23 code

/-- A BF16 word as a number. -/
def ofBf16 (code : Nat) : Num := ieeeOf 8 7 code

/-- The canonical FP32 NaN (R125). -/
def nanF32 : Nat := 0x7FC00000

/-- A number rounded to FP32, nearest-even, subnormals kept, NaN canonical. -/
def toF32 : Num → Nat
  | .nan => nanF32
  | .inf b => 0x7F800000 + (if b then 0x80000000 else 0)
  | .fin b m e =>
    Nat.min (magnitude 24 (-149) m e) 0x7F800000 + (if b then 0x80000000 else 0)

/-- A number rounded to BF16, nearest-even. -/
def toBf16 : Num → Nat
  | .nan => 0x7FC0
  | .inf b => 0x7F80 + (if b then 0x8000 else 0)
  | .fin b m e => Nat.min (magnitude 8 (-133) m e) 0x7F80 + (if b then 0x8000 else 0)

/-- A number rounded to FP32 and taken as a number again: the spec's fp32(). -/
def fp32 (x : Num) : Num := ofF32 (toF32 x)

/-- An FP32 word with every NaN made canonical. -/
def canonF32 (code : Nat) : Nat := if (ofF32 code).isNan then nanF32 else code % 2 ^ 32

/-- FP32 sum of two FP32 words. -/
def addF32 (a b : Nat) : Nat := toF32 ((ofF32 a).add (ofF32 b))

/-- FP32 product of two FP32 words. -/
def mulF32 (a b : Nat) : Nat := toF32 ((ofF32 a).mul (ofF32 b))

/-- An FP32 word is finite. -/
def finiteF32 (a : Nat) : Bool := (ofF32 a).isFinite

/-- The signed whole number in the low 32 bits. -/
def ofI32 (v : Nat) : Int := signedOf 32 v

/-- A whole number held to 32 bits, and whether it was clamped. -/
def satI32 (x : Int) : Nat × Bool :=
  if x < -2147483648 then (0x80000000, true)
  else if 2147483647 < x then (0x7FFFFFFF, true)
  else (codeOf 32 x, false)

/-- The floor of a number, for one that is finite. -/
def floorNum : Num → Int
  | .fin b m e =>
    let k : Int := if 0 ≤ e then (m * 2 ^ e.toNat : Nat) else (m : Int)
    let s : Int := if b then -k else k
    if 0 ≤ e then s else s / (2 : Int) ^ (-e).toNat
  | _ => 0

/-! ### Quotient, square root and exponential, each rounded once -/

/-- The integer square root, by Newton steps from above. -/
def sqrtFrom (n : Nat) : Nat → Nat → Nat
  | 0, x => x
  | k + 1, x =>
    let y := (x + n / x) / 2
    if y < x then sqrtFrom n k y else x

/-- The floor of the square root. -/
def isqrt (n : Nat) : Nat := if n = 0 then 0 else sqrtFrom n (2 * bitLen n + 8) (2 ^ (bitLen n / 2 + 1))

/-- A quotient to a number precise enough to be rounded once: a sticky bit stands for what is left over. -/
def quotient (x y : Num) : Num :=
  match x, y with
  | .nan, _ => .nan
  | _, .nan => .nan
  | .inf a, .fin b _ _ => .inf (a != b)
  | .inf _, .inf _ => .nan
  | .fin a _ _, .inf b => .fin (a != b) 0 0
  | .fin a m e, .fin b n f =>
    if n == 0 then (if m == 0 then .nan else .inf (a != b))
    else if m == 0 then .fin (a != b) 0 0
    else
      let k := 320 + bitLen n
      let q := m * 2 ^ k / n
      let r := m * 2 ^ k % n
      .fin (a != b) (2 * q + (if r == 0 then 0 else 1)) (e - f - k - 1)

/-- FP32 quotient of two numbers. -/
def divF32 (x y : Num) : Num := fp32 (quotient x y)

/-- A square root to a number precise enough to be rounded once; NaN of a negative number. -/
def sqrtNum : Num → Num
  | .nan => .nan
  | .inf b => if b then .nan else .inf false
  | .fin b m e =>
    if m == 0 then .fin b 0 0
    else if b then .nan
    else
      let k : Nat := 320 + (if (e - 320) % 2 == 0 then 0 else 1)
      let n := m * 2 ^ k
      let r := isqrt n
      .fin false (2 * r + (if r * r == n then 0 else 1)) ((e - k) / 2 - 1)

/-- Terms of the series of exp(−y), in units of 2^−300: `t` is the term of index `n`, `acc` the sum before it. -/
def expTerms (y : Int) : Nat → Nat → Int → Int → Int
  | 0, _, _, acc => acc
  | k + 1, n, t, acc => expTerms y k (n + 1) (-(t * y) / ((n + 1 : Nat) * 2 ^ 300)) (acc + t)

/-- Squared `k` times, in units of 2^−300. -/
def squareTimes : Nat → Nat → Nat
  | 0, v => v
  | k + 1, v => squareTimes k (v * v / 2 ^ 300)

/-- The exponential of a number that is not above zero, to a number precise enough to be rounded once to FP32. -/
def expNum : Num → Num
  | .nan => .nan
  | .inf b => if b then .fin false 0 0 else .inf false
  | .fin _ m e =>
    if m == 0 then .one
    else if 8 ≤ e + bitLen m then .fin false 1 (-400)
    else
      let y : Int := (m * 2 ^ (e + 288).toNat : Nat)
      let v := squareTimes 12 (expTerms y 48 0 (2 ^ 300) 0).toNat
      .fin false (2 * v + 1) (-301)

end Sys2Proof.Machine
end

