-- ==== Sys2Proof/Machine/Random.lean ====
section
/-! DEFINITION. The counter-based generator G (R314). -/

namespace Sys2Proof.Machine

/-- Left rotation of a 32-bit word. -/
def rotl32 (x r : Nat) : Nat := (x * 2 ^ r + x / 2 ^ (32 - r)) % 2 ^ 32

def rotationsA : List Nat := [13, 29, 7, 21, 17, 5, 27, 11, 23, 3]
def rotationsB : List Nat := [19, 9, 25, 15, 2, 31, 12, 26, 6, 16]

/-- One round of G: the four words before it and after it. -/
def genRound (k : List Nat) (r : Nat) (x : Nat × Nat × Nat × Nat) : Nat × Nat × Nat × Nat :=
  let key (i : Nat) : Nat := k[i % 4]?.getD 0
  let a0 := (x.1 + x.2.1) % 2 ^ 32
  let a1 := rotl32 x.2.1 (rotationsA[r]?.getD 0) ^^^ a0
  let a2 := (x.2.2.1 + x.2.2.2) % 2 ^ 32
  let a3 := rotl32 x.2.2.2 (rotationsB[r]?.getD 0) ^^^ a2
  ((a0 + key (r + 1)) % 2 ^ 32, (a3 + key (r + 2)) % 2 ^ 32, (a2 + key (r + 3)) % 2 ^ 32,
    (a1 + key r + r + 1) % 2 ^ 32)

/-- G of a 64-bit seed, a 32-bit stream and a 128-bit index. -/
def generate (seed stream index : Nat) : Nat :=
  let k := [field seed 0 32, field seed 32 32, stream % 2 ^ 32, 0x4C584B31]
  let x := (List.range 10).foldl (fun x r => genRound k r x)
    ((field index 0 32 + field seed 0 32) % 2 ^ 32, (field index 32 32 + field seed 32 32) % 2 ^ 32,
      (field index 64 32 + stream) % 2 ^ 32, (field index 96 32 + 0x4C584B31) % 2 ^ 32)
  x.2.2.2 * 2 ^ 96 + x.2.2.1 * 2 ^ 64 + x.2.1 * 2 ^ 32 + x.1

end Sys2Proof.Machine
end

