-- ==== Sys2Proof/Machine/Formats.lean ====
section
/-! DEFINITION. Number formats of the array (chapter 6 and Tables 5.1 and 5.2): decoding of elements and scales, exact
group sums, and the conversion of results. -/

namespace Sys2Proof.Machine

/-! ### Formats and classes (Tables 5.1, 5.2 and 6.1) -/

/-- The class of an operand. -/
inductive FmtClass where
  | four | eight | two | bf16
  deriving DecidableEq, Repr

/-- The class of a format as an operand; FP32, INT32 and the reserved codes are none. -/
def fmtClass (f : Nat) : Option FmtClass :=
  if f == 0 || f == 6 || f == 7 then some .four
  else if 1 ≤ f && f ≤ 5 then some .eight
  else if 8 ≤ f && f ≤ 10 then some .two
  else if f == 0xB then some .bf16
  else none

/-- BF16 is widest, then eight-bit, four-bit and two-bit (R100). -/
def FmtClass.rank : FmtClass → Nat
  | .two => 0 | .four => 1 | .eight => 2 | .bf16 => 3

def widest (a b : FmtClass) : FmtClass := if a.rank < b.rank then b else a

/-- N: output columns of a tile. -/
def FmtClass.cols : FmtClass → Nat
  | .bf16 => 64
  | _ => 128

/-- K: reduction depth of a tile. -/
def FmtClass.depth : FmtClass → Nat
  | .four => 128 | .eight => 64 | .two => 256 | .bf16 => 64

/-- Width of a container (R120). -/
def FmtClass.width : FmtClass → Nat
  | .four => 4 | .eight => 8 | .two => 2 | .bf16 => 16

/-- Bytes of an activation row. -/
def FmtClass.rowBytes : FmtClass → Nat
  | .bf16 => 128
  | _ => 64

/-- The counter slot of a class (R133). -/
def FmtClass.slot : FmtClass → Nat
  | .four => 0 | .eight => 1 | .two => 2 | .bf16 => 3

/-- Row slots of a shadow sample (Table 6.12). -/
def FmtClass.cost : FmtClass → Nat
  | .four => 8 | .eight => 4 | .two => 16 | .bf16 => 0

def isMx (f : Nat) : Bool := f ≤ 5
def isXk (f : Nat) : Bool := f == 7 || f == 8
def isInt (f : Nat) : Bool := f == 6 || f == 10

/-- INT32 accumulation (R100). -/
def accInt (wfmt afmt : Nat) : Bool := isInt wfmt && isInt afmt

/-- The group unit of a format (R122). -/
def groupUnit (f : Nat) : Nat := if isXk f || f == 0xB then 8 else 32

/-- G of a MATMUL. -/
def groupLen (wfmt afmt : Nat) : Nat := Nat.min (groupUnit wfmt) (groupUnit afmt)

/-- A small binary format without special codes: `w` exponent bits, `t` fraction bits. -/
def smallOf (w t : Nat) (bias : Int) (code : Nat) : Num :=
  let b := bitOf code (w + t)
  let ex := field code t w
  let fr := field code 0 t
  if ex == 0 then .fin b fr (1 - bias - t) else .fin b (2 ^ t + fr) (ex - bias - t)

/-- The value of an element code (Table 6.1). -/
def decodeElem (f code : Nat) : Num :=
  match f with
  | 0 => smallOf 2 1 1 (code % 16)
  | 1 => smallOf 3 2 3 (code % 64)
  | 2 => smallOf 2 3 1 (code % 64)
  | 3 => if code % 128 == 127 then .nan else smallOf 4 3 7 (code % 256)
  | 4 => ieeeOf 5 2 (code % 256)
  | 5 => (Num.ofInt (signedOf 8 code)).shift (-6)
  | 6 => Num.ofInt (signedOf 4 code)
  | 7 => Num.ofInt (signedOf 3 code)
  | 8 => (Num.ofInt (2 * ((code % 4 : Nat) : Int) - 3)).shift (-1)
  | 9 => if code % 4 == 1 then .one else if code % 4 == 3 then .neg .one else .zero
  | 10 => Num.ofInt (signedOf 2 code)
  | _ => ofBf16 (code % 65536)

/-- The one code of any format that is counted as invalid (R125). -/
def invalidCode (f code : Nat) : Bool := f == 9 && code % 4 == 2

/-- An E8M0 scale. -/
def e8m0 (v : Nat) : Num := if v == 255 then .nan else .fin false 1 ((v : Int) - 127)

/-! ### Scales (R122 to R124) -/

/-- Bytes of the scale area of `lines` columns or rows at depth `k`. -/
def scaleBytes (f k lines : Nat) : Nat :=
  if isMx f then k / 32 * lines
  else if isXk f then k / 32 * lines + k / 8 * lines / 2
  else if f == 9 then 2 * (k / 32 * lines)
  else 0

/-- The scale factor of block entry `b` and sub-block entry `j` of a scale area of `blocks` block scales: `rd off n` reads
`n` bytes of the area as a little-endian number. -/
def scaleFactor (f : Nat) (rd : Nat → Nat → Nat) (blocks b j : Nat) : Num :=
  if isMx f then e8m0 (rd b 1)
  else if isXk f then
    let byte := rd (blocks + j / 2) 1
    let u := if j % 2 == 0 then byte % 16 else byte / 16
    (e8m0 (rd b 1)).mul (.fin false (u + 1) (-4))
  else if f == 9 then ofBf16 (rd (2 * b) 2)
  else .one

/-! ### Tiles, rows and reductions (R102, R109) -/

/-- A weight tile: its format, and a reader of its record. -/
structure Tile where
  fmt  : Nat
  read : Nat → Nat → Nat

/-- The activations of an instruction: their format, their number of rows, and a reader from A_ADDR. -/
structure Acts where
  fmt  : Nat
  rows : Nat
  read : Nat → Nat → Nat

/-- The code of weight (k, n). -/
def Tile.code (t : Tile) (c : FmtClass) (k n : Nat) : Nat :=
  let bytes := 8192 / c.cols
  field (t.read (n * bytes) bytes) (c.width * k) c.width

/-- The scale factor of weight group `g` of length `len` in column `n`. -/
def Tile.scale (t : Tile) (c : FmtClass) (len g n : Nat) : Num :=
  scaleFactor t.fmt (fun o w => t.read (8192 + o) w) (c.depth / 32 * c.cols) (g * len / 32 * c.cols + n)
    (g * len / 8 * c.cols + n)

/-- The code of activation (m, k). -/
def Acts.code (a : Acts) (c : FmtClass) (m k : Nat) : Nat :=
  field (a.read (m * c.rowBytes) c.rowBytes) (c.width * k) c.width

/-- The scale factor of activation group `g` of length `len` in row `m`. -/
def Acts.scale (a : Acts) (c : FmtClass) (len m g : Nat) : Num :=
  scaleFactor a.fmt (fun o w => a.read (a.rows * c.rowBytes + o) w) (c.depth / 32 * a.rows)
    (m * (c.depth / 32) + g * len / 32) (m * (c.depth / 8) + g * len / 8)

/-- Activation (m, k), decoded with its scale. -/
def Acts.value (a : Acts) (c : FmtClass) (m k : Nat) : Num :=
  (decodeElem a.fmt (a.code c m k)).mul (a.scale c 8 m (k / 8))

/-- Weight (k, n), decoded with its scale. -/
def Tile.value (t : Tile) (c : FmtClass) (k n : Nat) : Num :=
  (decodeElem t.fmt (t.code c k n)).mul (t.scale c 8 (k / 8) n)

/-- The exact contribution of group `g` to element (m, n). -/
def groupTerm (c : FmtClass) (t : Tile) (a : Acts) (m n g : Nat) : Num :=
  let len := groupLen t.fmt a.fmt
  let s := Num.sum ((List.range len).map (fun i =>
    (decodeElem a.fmt (a.code c m (g * len + i))).mul (decodeElem t.fmt (t.code c (g * len + i) n))))
  (s.mul (a.scale c len m g)).mul (t.scale c len g n)

/-- An accumulator word and the saturations met so far, with one FP32 addition of an exact term. -/
def accAdd (acc : Nat × Nat) (x : Num) : Nat × Nat :=
  let r := toF32 ((ofF32 acc.1).add x)
  (r, acc.2 + (if finiteF32 acc.1 && x.isFinite && !finiteF32 r then 1 else 0))

/-- An accumulator word and the saturations met so far, with one saturating INT32 addition. -/
def accAddInt (acc : Nat × Nat) (x : Num) : Nat × Nat :=
  let r := satI32 (ofI32 acc.1 + floorNum x)
  (r.1, acc.2 + (if r.2 then 1 else 0))

/-- One pass of R109 over the groups of element (m, n). -/
def passElem (c : FmtClass) (int : Bool) (t : Tile) (a : Acts) (m n : Nat) (acc : Nat × Nat) : Nat × Nat :=
  (List.range (c.depth / groupLen t.fmt a.fmt)).foldl (fun acc g =>
    let x := groupTerm c t a m n g
    if int then accAddInt acc x else accAdd acc x) acc

/-- A patch entry that is used: column, depth, value (Table 6.8). -/
abbrev Patch := Nat × Nat × Nat

/-- The patches of a column, in list order (R109, R132). -/
def patchElem (c : FmtClass) (ps : List Patch) (a : Acts) (m n : Nat) (acc : Nat × Nat) : Nat × Nat :=
  (ps.filter (fun p => p.1 == n)).foldl (fun acc p =>
    accAdd acc ((a.value c m p.2.1).mul (ofBf16 p.2.2))) acc

/-- Element (m, n) over every pass, the patches with the first (R138). -/
def elemResult (c : FmtClass) (int : Bool) (ts : List Tile) (ps : List Patch) (a : Acts) (m n start : Nat) : Nat × Nat :=
  match ts with
  | [] => (start, 0)
  | t :: rest =>
    let r := passElem c int t a m n (start, 0)
    let r1 := if int then r else patchElem c ps a m n r
    rest.foldl (fun r t => passElem c int t a m n r) r1

/-- The reference weight of R135: the exact sum over the rung tiles, rounded to BF16. -/
def refWeight (c : FmtClass) (ts : List Tile) (k n : Nat) : Num :=
  ofBf16 (toBf16 (Num.sum (ts.map (fun t => t.value c k n))))

/-- The reference result of element (m, n) (R135). -/
def refResult (c : FmtClass) (ts : List Tile) (ps : List Patch) (a : Acts) (m n : Nat) : Nat :=
  let r := (List.range (c.depth / 8)).foldl (fun acc g =>
    accAdd acc (Num.sum ((List.range 8).map (fun i =>
      (a.value c m (8 * g + i)).mul (refWeight c ts (8 * g + i) n))))) (0, 0)
  (patchElem c ps a m n r).1

/-! ### Conversion of results (R126 to R129) -/

/-- Precision, least place, emax, largest code and sign bit of an MX element (Tables 6.1 and 6.4). -/
def mxShape (f : Nat) : Nat × Int × Int × Nat × Nat :=
  match f with
  | 0 => (2, -1, 2, 7, 3)
  | 1 => (3, -4, 4, 31, 5)
  | 2 => (4, -3, 2, 31, 5)
  | 3 => (4, -9, 8, 126, 7)
  | 4 => (3, -16, 15, 123, 7)
  | _ => (8, -6, 0, 127, 7)

/-- The magnitude code of an element, without upper limit, to nearest. -/
def mxNearest (f m : Nat) (e : Int) : Nat :=
  let sh := mxShape f
  if f == 5 then roundNearest m e (-6) else magnitude sh.1 sh.2.1 m e

/-- The magnitude code of an element, by a draw. -/
def mxDrawn (f draw m : Nat) (e : Int) : Nat :=
  let sh := mxShape f
  if f == 5 then roundDrawn draw m e (-6) else magnitudeDrawn sh.1 sh.2.1 draw m e

/-- An element code for a finite value already divided by its scale: the code, whether it was clamped, whether a
non-zero value became zero. -/
def mxCode (f : Nat) (draw : Option Nat) (b : Bool) (m : Nat) (e : Int) : Nat × Bool × Bool :=
  let sh := mxShape f
  let top := sh.2.2.2.1
  let mag := match draw with
    | some d => if (Num.fin false m e).le (decodeElem f top) then mxDrawn f d m e else mxNearest f m e
    | none => mxNearest f m e
  let code := Nat.min mag top
  let signed := if f == 5 then (if b then (256 - code) % 256 else code)
    else code + (if b then 2 ^ sh.2.2.2.2 else 0)
  (signed, top < mag, m != 0 && code == 0)

/-- Largest magnitude of the finite numbers of a list. -/
def largest (xs : List Num) : Num :=
  xs.foldl (fun m x => if x.isFinite && m.lt x.abs then x.abs else m) .zero

/-- The exponent of the scale of a block (R127). -/
def mxExponent (f : Nat) (noClip : Bool) (xs : List Num) : Int :=
  match largest xs with
  | .fin _ m e =>
    if m == 0 then 0
    else
      let ex := e + bitLen m - 1 - (mxShape f).2.2.1
      let ex1 := if noClip && (mxShape f).2.2.2.1 < mxNearest f m (e - ex) then ex + 1 else ex
      min (max ex1 (-127)) 127
  | _ => 0

/-- What a conversion gives: codes, scales, saturations and underflows. -/
structure Converted where
  codes  : List Nat
  scales : List Nat := []
  sats   : Nat := 0
  under  : Nat := 0

/-- One element of a block under a scale exponent. -/
def mxElem (f : Nat) (draw : Option Nat) (ex : Int) (x : Num) : Nat × Bool × Bool :=
  match x with
  | .fin b m e => mxCode f draw b m (e - ex)
  | .inf b => (0x7C + (if b then 128 else 0), false, false)
  | .nan => (0, false, false)

/-- One block of up to 32 columns (R127).  Each value comes with its draw, when rounding is stochastic. -/
def mxBlock (f : Nat) (noClip : Bool) (xs : List (Num × Option Nat)) : Converted :=
  let vs := xs.map Prod.fst
  let infs := (vs.filter Num.isInf).length
  if vs.any Num.isNan then { codes := xs.map (fun _ => 0), scales := [255] }
  else if infs != 0 && f != 4 then { codes := xs.map (fun _ => 0), scales := [255], sats := infs }
  else
    let ex := mxExponent f noClip vs
    let rs := xs.map (fun x => mxElem f x.2 ex x.1)
    { codes := rs.map (fun r => r.1), scales := [(ex + 127).toNat],
      sats := (rs.filter (fun r => r.2.1)).length, under := (rs.filter (fun r => r.2.2)).length }

/-- One value to BF16 (R126): code, saturation, underflow. -/
def bf16Elem (draw : Option Nat) (x : Num) : Nat × Bool × Bool :=
  match x with
  | .fin b m e =>
    let mag := match draw with
      | some d => if (Num.fin false m e).le (ofBf16 0x7F7F) then magnitudeDrawn 8 (-133) d m e
        else magnitude 8 (-133) m e
      | none => magnitude 8 (-133) m e
    let code := Nat.min mag 0x7F80
    (code + (if b then 0x8000 else 0), 0x7F80 ≤ mag, m != 0 && code == 0)
  | y => (toBf16 y, false, false)

/-- A row cut into runs of 32. -/
def chunks32 : Nat → List (Num × Option Nat) → List (List (Num × Option Nat))
  | 0, _ => []
  | n + 1, xs => if xs.isEmpty then [] else xs.take 32 :: chunks32 n (xs.drop 32)

/-- Appended conversions. -/
def Converted.append (a b : Converted) : Converted :=
  ⟨a.codes ++ b.codes, a.scales ++ b.scales, a.sats + b.sats, a.under + b.under⟩

/-- A row of accumulator words converted to OFMT. -/
def convertRow (f : Nat) (noClip : Bool) (draw : Nat → Option Nat) (words : List Nat) : Converted :=
  if f == 0xC then { codes := words.map canonF32 }
  else if f == 0xD then { codes := words }
  else
    let xs := words.mapIdx (fun i w => (ofF32 w, draw i))
    if f == 0xB then
      let rs := xs.map (fun x => bf16Elem x.2 x.1)
      { codes := rs.map (fun r => r.1), sats := (rs.filter (fun r => r.2.1)).length,
        under := (rs.filter (fun r => r.2.2)).length }
    else (chunks32 xs.length xs).foldl (fun a c => a.append (mxBlock f noClip c)) { codes := [] }

/-- Container width of an output format. -/
def outWidth (f : Nat) : Nat :=
  match fmtClass f with
  | some c => c.width
  | none => 32

/-- The counter slot of conversions to an output format (R133). -/
def outSlot (f : Nat) : Nat := if f == 0 then 0 else if f ≤ 5 then 1 else 3

/-- Codes packed into bytes, low codes in low bits. -/
def packCodes (w : Nat) (codes : List Nat) : List Nat :=
  leBytes (codes.length * w / 8) (codes.foldr (fun c n => c % 2 ^ w + 2 ^ w * n) 0)

/-! ### Functions of DRAIN (R105, Table 5.7) -/

/-- Piecewise quadratic of a function table read by `rd`; none where the procedure gives no segment. -/
def tableValue (rd : Nat → Num) (x : Num) : Option Num :=
  if x.isNan then some .nan
  else
    let d0 := fp32 (x.sub (rd 0))
    let d := if d0.lt .zero then .zero else d0
    let i := fp32 (d.mul (rd 8))
    if i.isNan || i.lt .zero then none
    else
      let s := if i.isFinite then Nat.min (floorNum i).toNat 255 else 255
      let t := fp32 (d.sub (fp32 ((Num.ofNat s).mul (rd 4))))
      let c (j : Nat) : Num := rd (64 + 12 * s + 4 * j)
      some (fp32 ((c 0).add (fp32 (t.mul (fp32 ((c 1).add (fp32 (t.mul (c 2)))))))))

end Sys2Proof.Machine
end

