-- ==== Sys2Proof/Machine/Links.lean ====
section
/-! DEFINITION. The link layers of Aedup and Pelgan: training, negotiation, flits, replay and retrains (chapters 16 and
17). -/

namespace Sys2Proof.Machine

/-! ### Training (R330, R331, R342, R343, Table 16.2) -/

/-- A link fails; on the manager of a group the loss of a Pelgan link has the routes recomputed (R350, R359). -/
def linkDown (s : State) (l : LinkId) : State :=
  let wasUp := (linkOf s l).state == .active || (linkOf s l).state == .retrain
  let s1 := linkFails s l
  match l with
  | .pelgan p => if wasUp then managerLosesLink s1 p else s1
  | .aedup => s1

/-- LINK_TRAIN_RETRY: an enabled link in DOWN enters DETECT. -/
def linkTrainRetry (s : State) (l : LinkId) : State :=
  let e := linkOf s l
  if e.state == .down && linkEnabled s l then setLink s l { e with state := .detect } else s

def execLinkTrainRetry (link : LinkId) (s : State) : Host.Outcome State Fault Refusal := .next (linkTrainRetry s link)

/-- The latency that ALIGN measured is reported (R343). -/
def reportLatency (s : State) (l : LinkId) (ns : Nat) : State :=
  match l with
  | .pelgan p => setReg s Key.PELGAN_LINK_LATENCY (setField (reg s Key.PELGAN_LINK_LATENCY) (16 * p) 16 ns)
  | .aedup => s

/-- LINK_TRAINING_STATE_END: DETECT, EQUALIZE or ALIGN ends.  `lanesLow` and `lanesHigh` are the lanes that pass at the
lower and the higher rate (in DETECT, the lanes that detect), `latency` the one-way latency in ns that ALIGN measured. -/
def linkTrainingStateEnd (s : State) (l : LinkId) (lanesLow lanesHigh latency : Nat) : State :=
  let e := linkOf s l
  match e.state with
  | .detect =>
    if lanesLow == 0 && lanesHigh == 0 then linkDown s l else setLink s l { e with state := .equalize }
  | .equalize => if lanesLow == 0 && lanesHigh == 0 then linkDown s l else setLink s l { e with state := .align }
  | .align =>
    match linkChoice s l lanesLow lanesHigh with
    | some (w, r) =>
      let s1 := takeChoice s l { e with state := .negotiate } w r
      send (reportLatency s1 l latency) (.capability l (capabilityOf s1 l))
    | none => linkDown s l
  | _ => s

def execLinkTrainingStateEnd (link : LinkId) (lanesLow lanesHigh latency : Nat) (s : State) :
    Host.Outcome State Fault Refusal := .next (linkTrainingStateEnd s link lanesLow lanesHigh latency)

/-- LINK_STATE_TIMEOUT: a training or retrain state exceeds its time. -/
def linkStateTimeout (s : State) (l : LinkId) : State :=
  match (linkOf s l).state with
  | .down => s
  | .active => s
  | _ => linkDown s l

def execLinkStateTimeout (link : LinkId) (s : State) : Host.Outcome State Fault Refusal := .next (linkStateTimeout s link)

/-! ### Negotiation (R332, R344) -/

/-- CAPABILITY_RESEND: in NEGOTIATE the capability leaves again every 1 µs. -/
def capabilityResend (s : State) (l : LinkId) : State :=
  if (linkOf s l).state == .negotiate then send s (.capability l (capabilityOf s l)) else s

def execCapabilityResend (link : LinkId) (s : State) : Host.Outcome State Fault Refusal := .next (capabilityResend s link)

/-- A link whose capability exchange may take place: NEGOTIATE, or the NEGOTIATE part of a retrain. -/
def negotiating (e : LinkEnd) : Bool := e.state == .negotiate || e.state == .retrain

/-- The Aedup features this device offers (Table 16.4). -/
def aedupFeatures (s : State) : Nat := field (aedupCapability s) 48 32

/-- An Aedup negotiation fails (R332). -/
def aedupNegFails (s : State) (cap : Nat) : Bool :=
  let feat := field cap 48 32 &&& aedupFeatures s
  !(field cap 80 8 ≤ 1 && 1 ≤ field cap 88 8) || !bitOf feat 0 || field cap 0 8 != 1 ||
    (reg s Key.AEDUP_PROTECT == 2 && !bitOf feat 1) ||
    [40, 32, 24, 16].any (fun i => field cap i 8 == 0)

/-- The initial credits of the Aedup channels, in slots. -/
def aedupCredits (cap : Nat) : List Nat := [40, 32, 24, 16].map (fun i => 16 * field cap i 8)

/-- AEDUP_CAPABILITY (R332): agreed and, from NEGOTIATE, ACTIVE with the SESSION compared (R340), or failed. -/
def aedupCapabilityArrives (s : State) (cap : Nat) : State :=
  let e := s.aedup.link
  if negotiating e then
    if aedupNegFails s cap then linkDown (bump s Key.AEDUP_NEG_FAILURES 1) .aedup
    else
      let feat := field cap 48 32 &&& aedupFeatures s
      let s1 := setReg (setReg s Key.AEDUP_VERSION (Nat.min 1 (field cap 88 8))) Key.AEDUP_FEATURES feat
      let e1 := { e with version := Nat.min 1 (field cap 88 8), features := feat, protect := bitOf feat 1 }
      if e.state == .retrain then setLink s1 .aedup e1
      else
        let s2 := setLink s1 .aedup { e1 with
          state := .active, credits := aedupCredits cap, sendSeq := 0, ackSeq := 0, recvSeq := 0,
          replays := 0, nakSent := false }
        let s3 := if e1.protect then openSession s2 .aedup else s2
        wantDict (sessionCheck s3 (field cap 96 32))
  else s

def execAedupCapability (capability : Nat) (s : State) : Host.Outcome State Fault Refusal :=
  .next (aedupCapabilityArrives s capability)

/-- The Pelgan features this device offers on a link. -/
def pelganFeatures (s : State) (p : Nat) : Nat := field (pelganCapability s p) 16 32

/-- A Pelgan negotiation fails (R344). -/
def pelganNegFails (s : State) (p cap : Nat) : Bool :=
  let feat := field cap 16 32 &&& pelganFeatures s p
  !(field cap 48 8 ≤ 1 && 1 ≤ field cap 56 8) || !bitOf feat 0 || !bitOf feat 1 ||
    (reg s Key.PELGAN_PROTECT == 2 && !bitOf feat 2) || field cap 8 8 == 0

/-- PELGAN_CAPABILITY (R344).  A link that becomes ACTIVE within a group floods this device's best candidate (R348). -/
def pelganCapabilityArrives (s : State) (p cap : Nat) : State :=
  let e := linkOf s (.pelgan p)
  if negotiating e then
    if pelganNegFails s p cap then linkDown (bump s Key.PELGAN_NEG_FAILURES 1) (.pelgan p)
    else
      let feat := field cap 16 32 &&& pelganFeatures s p
      let e1 := { e with version := Nat.min 1 (field cap 56 8), features := feat, protect := bitOf feat 2,
                         peerSerial := field cap 192 64 }
      let s1 := { s with pelgan := { s.pelgan with peerGroup := tabSet s.pelgan.peerGroup p (field cap 160 32) } }
      if e.state == .retrain then setLink s1 (.pelgan p) e1
      else
        let n := field cap 8 8
        let s2 := setLink s1 (.pelgan p) { e1 with
          state := .active, credits := [n, n, n], sendSeq := 0, ackSeq := 0, recvSeq := 0,
          replays := 0, nakSent := false }
        let s3 := if e1.protect then openSession s2 (.pelgan p) else s2
        if groupLink s3 p then
          let c := bestCandidate s3
          send s3 (.message p msgHello 0xFFF 0 (c.1 * 2 ^ 64 + c.2))
        else s3
  else s

def execPelganCapability (port capability : Nat) (s : State) : Host.Outcome State Fault Refusal :=
  .next (pelganCapabilityArrives s port capability)

/-! ### Flits and replay (R333, R345) -/

/-- Flits sent and not acknowledged. -/
def unacked (e : LinkEnd) : Nat := (e.sendSeq + 1024 - e.ackSeq) % 1024

/-- The ACK of a received flit: the SEQ after it is the oldest not acknowledged. -/
def takeAck (e : LinkEnd) (ack : Nat) : LinkEnd :=
  let next := (ack + 1) % 1024
  let gone := (next + 1024 - e.ackSeq) % 1024
  if gone != 0 && gone ≤ unacked e then { e with ackSeq := next, replays := 0 } else e

/-- Posted writes whose flits have been acknowledged are no longer at risk. -/
def settlePosted (s : State) : State :=
  let e := s.aedup.link
  { s with aedup := { s.aedup with
      posted := s.aedup.posted.filter (fun p => (p.1 + 1024 - e.ackSeq) % 1024 < unacked e) } }

/-- Credits returned by a header (Tables 16.5 and 17.3). -/
def returnedCredits (l : LinkId) (h : Nat) : List Nat :=
  match l with
  | .aedup => [field h 64 8, field h 56 8, field h 48 8, field h 40 8]
  | .pelgan _ => [field h 56 8, field h 48 8, field h 40 8]

/-- A flit is discarded: one NAK leaves, carrying the last good SEQ. -/
def discardFlit (s : State) (l : LinkId) : State :=
  let e := linkOf s l
  if e.nakSent then s
  else send (setLink s l { e with nakSent := true }) (.nak l ((e.recvSeq + 1023) % 1024))

/-- Data slots of an opcode the companion may send (Table 16.7); none for a reserved one and for those that only the
device sends. -/
def companionSlots (opcode : Nat) : Option Nat :=
  if opcode == 0x30 || opcode == 0x31 then some 8
  else if opcode == 0x32 || opcode == 0x40 || opcode == 0x50 then some 0
  else if opcode == 0x51 then some 1
  else none

/-- A message header is one that the receiver discards and counts (R334, Table 17.4). -/
def badMessage (l : LinkId) (h : Nat) : Bool :=
  match l with
  | .aedup =>
    let mask := field h 0 32
    let op := field h 56 8
    match companionSlots op with
    | none => true
    | some n => field h 32 8 != n || (n == 8 && mask != 2 ^ 32 - 1) || ((op == 0x32 || op == 0x40) && mask != 0)
  | .pelgan _ =>
    !([0x01, 0x02, 0x03, 0x04, 0x10, 0x11, 0x20, 0x21, 0x30, 0x31, 0x32, 0x33].contains (field h 16 8))

/-- A CRC error is counted. -/
def countCrc (s : State) (l : LinkId) : State :=
  match l with
  | .aedup => bump s Key.AEDUP_CRC_ERRORS 1
  | .pelgan p => countChip (bump s Key.PELGAN_CRC_ERRORS 1) 0x3A1 1 { inst := p }

/-- Symbols that the FEC corrected are counted. -/
def countFec (s : State) (l : LinkId) (n : Nat) : State :=
  match l with
  | .aedup => bump s Key.AEDUP_FEC_CORRECTED n
  | .pelgan p => countChip (bump s Key.PELGAN_FEC_CORRECTED n) 0x3A0 n { inst := p }

/-- FLIT_RECEIVE: a flit arrives with its header slot and the headers of the messages it carries.  A bad CRC or a failed
tag is discarded; a flit of another link generation is dropped; a flit out of sequence is discarded; a good message
flit is taken in order.  The messages' effects are commands of their own.  `corrected` is the number of symbols that the
FEC corrected in it. -/
def flitReceive (s0 : State) (l : LinkId) (corrected : Nat) (crcOk tagOk : Bool) (h : Nat) (messages : List Nat) : State :=
  let e := linkOf s0 l
  let s := if corrected == 0 then s0 else countFec s0 l corrected
  let up := negotiating e || e.state == .active
  let errKey := match l with | .aedup => Key.AEDUP_PROTOCOL_ERRORS | .pelgan _ => Key.PELGAN_PROTOCOL_ERRORS
  let kind := field h 72 4
  let tagged := e.protect && e.state == .active && kind != 1 && kind != 2
  if !up then s0
  else if !crcOk then discardFlit (countCrc s l) l
  else if tagged && !tagOk then discardFlit (bump (countCrc s l) Key.SEC_TAG_FAILURES 1) l
  else if l != .aedup && field h 66 6 != e.linkGen then bump s Key.PELGAN_STALE_DROPS 1
  else
    let e1 := takeAck { e with credits := List.zipWith (· + ·) e.credits (returnedCredits l h) } (field h 76 10)
    let s1 := settlePosted (setLink s l e1)
    if kind == 2 || kind == 4 || kind == 5 then s1
    else if field h 86 10 != e1.recvSeq then discardFlit s1 l
    else if kind == 0 then
      let s2 := setLink s1 l { e1 with
        recvSeq := (e1.recvSeq + 1) % 1024, nakSent := false, sealedIn := e1.sealedIn + (if tagged then 1 else 0) }
      let s3 := match l with
        | .aedup => countChip s2 0x303 1 {}
        | .pelgan p => countChip s2 0x306 1 { inst := p }
      let s4 := bump s3 errKey (messages.filter (badMessage l)).length
      if tagged && 2 ^ 48 ≤ e1.sealedIn + 1 then startRetrain s4 l else s4
    else s1

def execFlitReceive (link : LinkId) (corrected : Nat) (crcOk tagOk : Bool) (header : Nat) (messages : List Nat)
    (s : State) : Host.Outcome State Fault Refusal := .next (flitReceive s link corrected crcOk tagOk header messages)

/-- The replay counter of a link. -/
def countReplay (s : State) (l : LinkId) : State :=
  match l with
  | .aedup => countChip (bump s Key.AEDUP_REPLAYS 1) 0x304 (unacked s.aedup.link) {}
  | .pelgan _ => bump s Key.PELGAN_REPLAYS 1

/-- NAK: the sender replays from the flit after the acknowledged one; the sixteenth replay of one flit retrains the
link. -/
def nakArrives (s : State) (l : LinkId) (ack : Nat) : State :=
  let e := takeAck (linkOf s l) ack
  if e.state == .active then
    let s1 := settlePosted (setLink s l e)
    if unacked e == 0 then s1
    else
      let s2 := send (countReplay (setLink s1 l { e with replays := e.replays + 1 }) l) (.replay l e.ackSeq)
      if 16 ≤ e.replays + 1 then startRetrain s2 l else s2
  else s

def execNak (link : LinkId) (ack : Nat) (s : State) : Host.Outcome State Fault Refusal := .next (nakArrives s link ack)

/-- ACK_STALL: no progress of ACK for 10 µs while flits are unacknowledged. -/
def ackStall (s : State) (l : LinkId) : State :=
  if unacked (linkOf s l) != 0 then startRetrain s l else s

def execAckStall (link : LinkId) (s : State) : Host.Outcome State Fault Refusal := .next (ackStall s link)

/-- LINK_RETRAIN_END: ALIGN and NEGOTIATE of a retrain end.  The replay buffers and credits are kept, and everything not
acknowledged is replayed; when no width passes, the link takes a link reset. -/
def linkRetrainEnd (s : State) (l : LinkId) (lanesLow lanesHigh : Nat) : State :=
  let e := linkOf s l
  if e.state == .retrain && !linkEnabled s l then linkDown s l
  else if e.state == .retrain then
    match linkChoice s l lanesLow lanesHigh with
    | some (w, r) =>
      let s1 := takeChoice s l { e with state := .active, replays := 0, nakSent := false } w r
      let s2 := if e.protect then openSession s1 l else s1
      let s3 := wantDict s2
      if unacked e == 0 then s3 else send (countReplay s3 l) (.replay l e.ackSeq)
    | none => linkDown s l
  else s

def execLinkRetrainEnd (link : LinkId) (lanesLow lanesHigh : Nat) (s : State) : Host.Outcome State Fault Refusal :=
  .next (linkRetrainEnd s link lanesLow lanesHigh)

/-! ### Replies of the companion, and reads without one (R334, R335, R404) -/

/-- A line brought to the front of the link cache, the least recently used dropped when it is full. -/
def installLine (s : State) (line : Nat) : State :=
  { s with aedup := { s.aedup with
      cache := (line :: s.aedup.cache.filter (fun x => x != line)).take (reg s Key.AEDUP_CACHE_LINES) } }

/-- A line of 128 bytes arrives for a read: the mirror of companion memory takes it, and it is installed in S when it
answers RD_SHARED and no snoop has come since.  A reply for a context whose tag has changed serves nothing (R400). -/
def landLine (s : State) (tag : Nat) (q : AedupRead) (shared : Bool) (data : Nat) : State :=
  let s1 := { s with mem := { s.mem with comp := memPutNat s.mem.comp q.line 128 data,
                                         compBad := s.mem.compBad.filter (fun l => l != q.line / 128) },
                     aedup := { s.aedup with reads := tabDel s.aedup.reads tag } }
  let kept := shared && q.shared && !q.snooped
  let s2 := if kept then installLine s1 q.line else s1
  match q.for_ with
  | .job id =>
    if (ctxOf s q.ctx).genTag != q.genTag then bump s2 Key.RESET_STALE_REPLIES 1
    else updJob s2 id (fun j => { j with reads := j.reads - 1 })
  | _ => if kept then s2 else { s2 with aedup := { s2.aedup with landed := q.line :: s2.aedup.landed } }

/-- SNP_INV: the line goes to I and SNP_RSP_I answers, whether or not it was held. -/
def snpInv (s : State) (addr : Nat) : State :=
  let line := addr / 128 * 128
  let s1 := { s with aedup := { s.aedup with
      cache := s.aedup.cache.filter (fun x => x != line)
      reads := tabMap s.aedup.reads (fun _ q => if q.line == line && q.shared then { q with snooped := true } else q) } }
  if s.aedup.link.state == .active then bump (send s1 (.snpRspI line)) Key.AEDUP_SNOOPS 1 else s

def execSnpInv (addr : Nat) (s : State) : Host.Outcome State Fault Refusal := .next (snpInv s addr)

/-- AEDUP_READ_TIMEOUT: the first time, the link retrains; the second time, it takes a link reset. -/
def aedupReadTimeout (s : State) (tag : Nat) : State :=
  match tabGet s.aedup.reads tag with
  | none => s
  | some q =>
    if q.retried then aedupReset s
    else startRetrain { s with aedup := { s.aedup with
        reads := tabSet s.aedup.reads tag { q with retried := true } } } .aedup

def execAedupReadTimeout (tag : Nat) (s : State) : Host.Outcome State Fault Refusal := .next (aedupReadTimeout s tag)

end Sys2Proof.Machine
end

