-- ==== Sys2Proof/Machine/Array.lean ====
section
/-! DEFINITION. Array programs and the block sequencer's instructions (chapter 5), patch and shadow lanes and precision
fallback (chapter 6). -/

namespace Sys2Proof.Machine

/-! ### Program images (Tables 5.10 to 5.12, 6.9) -/

def imBytes (h : Nat) : Nat := field h 448 64
def imStreams (h : Nat) : Nat := field h 384 64
def imTiles (h : Nat) : Nat := field h 320 64
def imTileCount (h : Nat) : Nat := field h 288 32
def imVblocks (h : Nat) : Nat := field h 16 16
def imKind (h : Nat) : Nat := field h 8 8
def imVersion (h : Nat) : Nat := field h 0 8

/-- The header of an image at an address. -/
def imageHead (s : State) (a : Nat) : Nat := natAt s a 64

/-- The entry of stream `v`: address of its first instruction, and COUNT. -/
def streamEntry (s : State) (a v : Nat) : Nat × Nat :=
  let x := natAt s (a + imStreams (imageHead s a) + 16 * v) 16
  (a + field x 64 64, field x 32 32)

/-- The record of tile `i` of an image: its address and its bytes. -/
def tileEntry (s : State) (a i : Nat) : Nat × Nat :=
  let x := natAt s (a + imTiles (imageHead s a) + 8 * i) 8
  (a + field x 16 48, field x 0 16)

/-- The fallback entry of a layer of a model image (Table 6.9). -/
def fallbackEntry (s : State) (a layer : Nat) : Nat := natAt s (a + 128 + 16 * layer) 16
def fbThreshold (e : Nat) : Nat := field e 96 32
def fbStride (e : Nat) : Nat := field e 72 24
def fbMinSamples (e : Nat) : Nat := field e 56 16
def fbFormat (e p : Nat) : Nat := field e (40 + 4 * p) 4
def fbShift (e : Nat) : Nat := field e 40 4
def fbTop (e : Nat) : Nat := field e 32 2

/-- The model's image has a fallback table with some layer that may rise. -/
def hasFallback (s : State) (a : Nat) : Bool :=
  imKind (imageHead s a) == 2 && (List.range 256).any (fun l => fbTop (fallbackEntry s a l) != 0)

/-- The checks that WARDROBE_REGISTER makes of the fallback table of a model image (R136). -/
def fallbackCheck (s : State) (a : Nat) : Nat :=
  let h := imageHead s a
  if imKind h != 2 then Code.OK
  else firstBad
    [(imBytes h < 4224, Code.BAD_FIELD),
     (imStreams h < 4224 || (imTileCount h != 0 && imTiles h < 4224) ||
       (List.range (imTileCount h)).any (fun i =>
         (tileEntry s a i).2 != 0 && (tileEntry s a i).1 < a + 4224), Code.BAD_FIELD),
     ((List.range 256).any (fun l =>
       fbTop (fallbackEntry s a l) != 0 && fbStride (fallbackEntry s a l) == 0), Code.BAD_FIELD),
     (natAt s (a + 64) 1 != 1, Code.VERSION_UNSUPPORTED)]

/-- WARDROBE_REGISTER (R95, R136): RESULT is the number of models registered. -/
def wardrobeRegisterBody (s : State) (id : Nat) (j : Job) : State :=
  let e := j.entry
  if tabHas s.models (cxModel e) then finish s id Code.BAD_FIELD 0
  else if readBad s (cxAddr e) (cxSize e) then finish s id Code.ECC_UNCORRECTABLE 0
  else if natAt s (cxAddr e) 1 != 1 then finish s id Code.VERSION_UNSUPPORTED 0
  else if fallbackCheck s (cxAddr e) != Code.OK then finish s id (fallbackCheck s (cxAddr e)) 0
  else
    let s1 := { s with models := tabSet s.models (cxModel e) { addr := cxAddr e, size := cxSize e } }
    finish (touchRange s1 (cxAddr e) (cxSize e)) id Code.OK s1.models.length

def execWardrobeRegister (job : Nat) (s : State) : Host.Outcome State Fault Refusal :=
  .next (runJob s job Op.WARDROBE_REGISTER noSources wardrobeRegisterBody)

/-! ### Fallback state (Table 6.10) -/

def rungOf (rungs l : Nat) : Nat := field rungs (2 * l) 2
def runSeqOf (x : Ctx) : Nat := field x.formatArea 0 64
def estOf (x : Ctx) (l : Nat) : Nat := field x.formatArea (128 + 64 * l) 32
def samplesOf (x : Ctx) (l : Nat) : Nat := field x.formatArea (160 + 64 * l) 32

/-- RUN_SEQ goes up by one at the admission of a run. -/
def nextRun (s : State) (c : Nat) : State :=
  updCtx s c (fun x => { x with formatArea := setField x.formatArea 0 64 (runSeqOf x + 1) })

/-- The estimate of a layer after a run (R139); the subtraction is signed and the shift rounds down. -/
def newEstimate (samples est mean shift : Nat) : Nat :=
  if samples == 0 then mean % 2 ^ 32
  else codeOf 32 ((est : Int) + ((mean : Int) - (est : Int)) / (2 : Int) ^ shift)

/-- The update of one layer after a run (R139). -/
def fallbackLayer (s : State) (r : Run) (model : Nat) (l : Nat) (p : Nat × Nat) : State :=
  if p.2 == 0 then s
  else
    let x := ctxOf s r.ctx
    let e := fallbackEntry s model l
    let est := newEstimate (samplesOf x l) (estOf x l) (p.1 / p.2) (fbShift e)
    let samples := Nat.min (samplesOf x l + p.2) 0xFFFFFFFF
    let put (x : Ctx) (est samples : Nat) : Ctx :=
      { x with formatArea := setField (setField x.formatArea (128 + 64 * l) 32 est) (160 + 64 * l) 32 samples }
    if r.fallback == 1 && fbMinSamples e ≤ samples && fbThreshold e < est then
      if rungOf x.formatState l < fbTop e then
        bump (setCtx s r.ctx (put { x with
          formatState := setField x.formatState (2 * l) 2 (rungOf x.formatState l + 1) } 0 0)) Key.FORMAT_FALLBACK_RAISES 1
      else bump (setCtx s r.ctx (put x 0 0)) Key.FORMAT_FALLBACK_EXHAUSTED 1
    else setCtx s r.ctx (put x est samples)

/-- The address of a run's model image. -/
def runModel (s : State) (r : Run) : Option Nat :=
  match r.model with
  | some m => (tabGet s.models m).map (fun x => x.addr)
  | none => none

/-- The fallback state of a context after a run that ended well. -/
def fallbackUpdate (s : State) (r : Run) : State :=
  match runModel s r with
  | some a => r.sums.foldl (fun t p => fallbackLayer t r a p.1 p.2) s
  | none => s

/-! ### Runs -/

/-- A run's entry replaced. -/
def setRun (s : State) (id : Nat) (r : Run) : State :=
  { s with array := { s.array with runs := tabSet s.array.runs id r } }

/-- A run begins: every stream whose COUNT is zero has ended at once. -/
def startRun (s : State) (id c image : Nat) (model : Option Nat) (seq : Nat) : State :=
  let n := imVblocks (imageHead s image)
  let streams := (List.range n).map (fun v =>
    let e := streamEntry s image v
    { addr := e.1, count := e.2, mode := if e.2 == 0 then .ended else .running : Stream })
  setRun s id
    { ctx := c, model := model, seq := seq, streams := streams
      scaleRule := inForce s Key.FORMAT_SCALE_RULE, rounding := inForce s Key.FORMAT_ROUNDING,
      shadow := inForce s Key.FORMAT_SHADOW_SHIFT, fallback := inForce s Key.FORMAT_FALLBACK_ENABLE,
      rungs := (ctxOf s c).formatState }

/-- A run may start: not while the power fails (R390), and one that uses fallback when no earlier run of the context is
open and the boundary after the latest one has come (R140). -/
def runMayStart (s : State) (id c : Nat) (model : Option Nat) : Bool :=
  !powerFailing s && match model with
  | some m =>
    match tabGet s.models m with
    | some x =>
      !hasFallback s x.addr ||
        (!(earlierOpen s c id).any (fun p => [Op.ARRAY_RUN, Op.CROSS_RERANK, Op.GEN_RUN].contains p.2.opcode) &&
          match tabGet s.array.lastEnd c with
          | some b => b < beatNow s
          | none => true)
    | none => true
  | none => true

/-- A run ends well: the fallback state is updated.  ARRAY_RUN completes with the instructions retired; the other
commands take the outcome themselves. -/
def endRun (s : State) (id : Nat) (r : Run) : State :=
  let s1 := fallbackUpdate s r
  match tabGet s.jobs id with
  | some j =>
    if j.opcode == Op.ARRAY_RUN then finish s1 id Code.OK r.retired
    else setRun { s1 with array := { s1.array with lastEnd := tabSet s1.array.lastEnd r.ctx (beatNow s) } } id
      { r with ended := true }
  | none => s1

/-- A run is taken off by the command that owns it. -/
def dropRun (s : State) (id : Nat) : State :=
  { s with array := { s.array with runs := tabDel s.array.runs id } }

/-- An instruction fails its check: the run completes with ARRAY_PROGRAM_ERROR (R108). -/
def failRun (s : State) (id v reason index : Nat) : State :=
  finish (bump s Key.ARRAY_PROGRAM_ERRORS 1) id Code.ARRAY_PROGRAM_ERROR
    (v * 2 ^ 48 + reason * 2 ^ 32 + index % 2 ^ 32)

/-! ### Fields of instructions (Tables 5.4 to 5.6) -/

def inOp (i : Nat) : Nat := field i 120 8
def inWfmt (i : Nat) : Nat := field i 116 4
def inAfmt (i : Nat) : Nat := field i 112 4
def inOfmt (i : Nat) : Nat := field i 108 4
def inAccIn (i : Nat) : Bool := bitOf i 107
def inDrain (i : Nat) : Bool := bitOf i 106
def inWsrc (i : Nat) : Bool := bitOf i 105
def inPatch (i : Nat) : Bool := bitOf i 104
def inLayer (i : Nat) : Nat := field i 96 8
def inRows (i : Nat) : Nat := field i 83 13
def inAccRow (i : Nat) : Nat := field i 73 10
def inWaddr (i : Nat) : Nat := field i 49 24
def inAaddr (i : Nat) : Nat := field i 25 24
def inOaddr (i : Nat) : Nat := field i 1 24
def inShadow (i : Nat) : Bool := bitOf i 0
def inCols (i : Nat) : Nat := field i 112 8
def inFunc (i : Nat) : Nat := field i 104 4
def inAux (i : Nat) : Nat := field i 49 24
def inDrainOaddr (i : Nat) : Nat := field i 25 24
def inDestVb (i : Nat) : Nat := field i 13 12
def inRemote (i : Nat) : Bool := bitOf i 12
def inAdd (i : Nat) : Bool := bitOf i 107
def inSaddr (i : Nat) : Nat := field i 25 24

def opNop : Nat := 0
def opMatmul : Nat := 1
def opDrain : Nat := 2
def opAccLoad : Nat := 3
def opBarrier : Nat := 4
def opEnd : Nat := 15

/-- A byte range of a Pocket: first byte and length. -/
abbrev Range := Nat × Nat

/-- Two byte ranges meet. -/
def rangesMeet (a b : Range) : Bool := a.2 != 0 && b.2 != 0 && a.1 < b.1 + b.2 && b.1 < a.1 + a.2

/-- A range reaches the Wardrobe band or the end of the Pocket (reason 3). -/
def rangeBad (s : State) (r : Range) : Bool :=
  r.2 != 0 && (contextRows s * 256 < r.1 + r.2 || pocketBytes < r.1 + r.2)

/-- The class of a MATMUL, when both operands have one. -/
def matmulClass (i : Nat) : Option FmtClass :=
  match fmtClass (inWfmt i), fmtClass (inAfmt i) with
  | some a, some b => some (widest a b)
  | _, _ => none

/-- Bytes of a row of `n` output elements. -/
def outRowBytes (f n : Nat) : Nat := n * outWidth f / 8

/-- Bytes of `rows` output rows of `n` elements with their scales (R128). -/
def outBytes (f n rows : Nat) : Nat := rows * outRowBytes f n + if isMx f then rows * (n / 32) else 0

/-- Elements in an output row of a DRAIN (R128). -/
def drainCols (f cols : Nat) : Nat := if isMx f then ceilDiv cols 32 * 32 else cols

/-- A reader of a physical block's Pocket from a byte address. -/
def pocketReader (s : State) (b base : Nat) : Nat → Nat → Nat := fun o n => memNat s.pocket (pocketAddr b 0 (base + o)) n

/-- A reader of a tile record in memory. -/
def memReader (s : State) (base : Nat) : Nat → Nat → Nat := fun o n => natAt s (base + o) n

/-- Where the scale block of a tile ends and its patch list begins (R123). -/
def patchAt (c : FmtClass) (fmt : Nat) : Nat := 8192 + scaleBytes fmt c.depth c.cols

/-- COUNT of a patch list. -/
def patchCount (c : FmtClass) (t : Tile) : Nat := t.read (patchAt c t.fmt) 1

/-- The used entries of a patch list, in list order, and the number skipped (R131, R132). -/
def patchList (c : FmtClass) (int : Bool) (t : Tile) : List Patch × Nat :=
  let n := patchCount c t
  let all := (List.range (Nat.min n 64)).map (fun p =>
    let e := t.read (patchAt c t.fmt + 4 + 4 * p) 4
    (field e 24 8, field e 16 8, field e 0 16))
  if int then ([], n)
  else
    let ok := all.filter (fun p => p.1 < c.cols && p.2.1 < c.depth)
    (ok, n - ok.length)

/-! ### What an instruction touches -/

/-- The local tile's bytes of a MATMUL. -/
def localTile (s : State) (b i : Nat) (c : FmtClass) : Range :=
  let t : Tile := ⟨inWfmt i, pocketReader s b (inWaddr i)⟩
  let p := if inPatch i then 4 + 4 * Nat.min (patchCount c t) 64 else 0
  (inWaddr i, patchAt c (inWfmt i) + p)

/-- Local Pocket ranges that an instruction reads, that it writes, and that it writes in a remote block. -/
def touches (s : State) (b i : Nat) : List Range × List Range × List Range :=
  let rows := inRows i
  if inOp i == opMatmul then
    match matmulClass i with
    | some c =>
      if rows == 0 then ([], [], [])
      else
        let acts := (inAaddr i, rows * c.rowBytes + scaleBytes (inAfmt i) c.depth rows)
        let tile := if inWsrc i then [] else [localTile s b i c]
        (acts :: tile, if inDrain i then [(inOaddr i, outBytes (inOfmt i) c.cols rows)] else [], [])
    | none => ([], [], [])
  else if inOp i == opDrain then
    if rows == 0 || inCols i == 0 then ([], [], [])
    else
      let aux := if inFunc i == 2 then [(inAux i, 3136)] else if inFunc i == 3 then [(inAux i, 1024)] else []
      let n := if inFunc i == 4 || inFunc i == 5 then 4 * rows
        else outBytes (inOfmt i) (drainCols (inOfmt i) (inCols i)) rows
      if inRemote i then (aux, [], [(inDrainOaddr i, n)]) else (aux, [(inDrainOaddr i, n)], [])
  else if inOp i == opAccLoad then
    if rows == 0 || inCols i == 0 then ([], [], [])
    else
      let w := if inOfmt i == 0xC then 4 else 2
      ([(inSaddr i, (rows - 1) * (128 * w) + inCols i * w)], [], [])
  else ([], [], [])

/-- The rows of a byte range. -/
def rowsOf (r : Range) : Nat × Nat := (r.1 / 256, (r.1 + r.2 - 1) / 256 - r.1 / 256 + 1)

/-- Window slots that byte ranges of a logical block touch. -/
def slotsOfRanges (x : Ctx) (lb : Nat) (rs : List Range) : List (Nat × Nat) :=
  ((rs.filter (fun r => r.2 != 0)).map (fun r => slotsOf x lb (rowsOf r).1 (rowsOf r).2)).flatten.eraseDups

/-- Strays of the ranges that a port touches. -/
def strayRanges (x : Ctx) (lb port : Nat) (s : State) (rs : List Range) : State :=
  (rs.filter (fun r => r.2 != 0)).foldl (fun t r => countStrays t x lb port (rowsOf r).1 (rowsOf r).2) s

/-! ### Issue checks (Table 5.8) -/

/-- The first failing check, in the order of the reasons; none when the instruction may issue. -/
def firstReason : List (Bool × Nat) → Option Nat
  | [] => none
  | (bad, r) :: rest => if bad then some r else firstReason rest

/-- An output format that DRAIN, or MATMUL with DRAIN = 1, may not write. -/
def ofmtBad (int : Bool) (f : Nat) : Bool := if int then f != 0xD else !(f ≤ 5 || f == 0xB || f == 0xC)

/-- The tiles of a MATMUL's passes: none where a tile index is out of range or its tile is absent (reason 7). -/
def modelTiles (s : State) (model : Nat) (i rung entry : Nat) : Option (List Tile) :=
  let h := imageHead s model
  let one (p : Nat) : Option Tile :=
    let idx := inWaddr i + p * fbStride entry
    let e := tileEntry s model idx
    if idx < imTileCount h && e.2 != 0 then some ⟨if p == 0 then inWfmt i else fbFormat entry p, memReader s e.1⟩ else none
  (List.range (rung + 1)).mapM one

/-- The rung at which a MATMUL runs, and the fallback entry of its layer (R137). -/
def rungFor (s : State) (r : Run) (i : Nat) : Nat × Nat :=
  match runModel s r with
  | some a =>
    if inWsrc i && imKind (imageHead s a) == 2 then
      let e := fallbackEntry s a (inLayer i)
      (Nat.min (rungOf r.rungs (inLayer i)) (fbTop e), e)
    else (0, 0)
  | none => (0, 0)

/-- The tiles of a MATMUL. -/
def matmulTiles (s : State) (r : Run) (b i : Nat) : Option (List Tile) :=
  if inWsrc i then
    match runModel s r with
    | some a => modelTiles s a i (rungFor s r i).1 (rungFor s r i).2
    | none => none
  else some [⟨inWfmt i, pocketReader s b (inWaddr i)⟩]

/-- A residual format that does not fit its instruction (R137). -/
def residualBad (i : Nat) (t : Tile) : Bool :=
  match fmtClass t.fmt, fmtClass (inAfmt i), matmulClass i with
  | some a, some b, some c => widest a b != c || accInt t.fmt (inAfmt i) != accInt (inWfmt i) (inAfmt i)
  | _, _, _ => true

/-- Issue checks of MATMUL. -/
def matmulReason (s : State) (r : Run) (b i : Nat) : Option Nat :=
  let t := touches s b i
  let int := accInt (inWfmt i) (inAfmt i)
  firstReason
    [((matmulClass i).isNone || (inDrain i && ofmtBad int (inOfmt i)), 2),
     ((t.1 ++ t.2.1).any (rangeBad s), 3),
     ((!inWsrc i && inWaddr i % 256 != 0) || inAaddr i % 64 != 0 || (inDrain i && inOaddr i % 64 != 0), 4),
     (t.2.1.any (fun o => t.1.any (rangesMeet o)), 5),
     (511 < inAccRow i || 4096 < inRows i || ((inAccIn i || !inDrain i) && 512 < inAccRow i + inRows i), 6),
     ((matmulTiles s r b i).isNone, 7),
     (((matmulTiles s r b i).getD []).any (residualBad i), 2)]

/-- Issue checks of DRAIN. -/
def drainReason (s : State) (r : Run) (v b i : Nat) : Option Nat :=
  let t := touches s b i
  let f := inFunc i
  firstReason
    [(5 < f || (f < 4 && ofmtBad (inOfmt i == 0xD) (inOfmt i)) || (inOfmt i == 0xD && f != 0 && f < 4), 2),
     ((t.1 ++ t.2.1 ++ t.2.2).any (rangeBad s), 3),
     (((f == 2 || f == 3) && inAux i % 256 != 0) || inDrainOaddr i % 64 != 0, 4),
     ((t.2.1 ++ (if inDestVb i == v then t.2.2 else [])).any (fun o => t.1.any (rangesMeet o)), 5),
     (511 < inAccRow i || 512 < inAccRow i + inRows i || 128 < inCols i, 6),
     (inRemote i && r.streams.length ≤ inDestVb i, 8)]

/-- Issue checks of ACC_LOAD. -/
def accLoadReason (s : State) (b i : Nat) : Option Nat :=
  let t := touches s b i
  firstReason
    [(inOfmt i != 0xB && inOfmt i != 0xC, 2),
     (t.1.any (rangeBad s), 3),
     (inSaddr i % 64 != 0, 4),
     (511 < inAccRow i || 512 < inAccRow i + inRows i || 128 < inCols i, 6)]

/-! ### Issue and retirement (R104, R155) -/

/-- Counters of a class slot, in all and of a block (R133); the block's count saturates. -/
def countFormat (s : State) (total : Nat → Nat) (domain b slot n : Nat) : State :=
  let off := 32 * (4 * b + slot)
  let old := field (reg s domain) off 32
  let new := Nat.min (old + n) 0xFFFFFFFF
  if n = 0 then s
  else countBlock (bump (setReg s domain (setField (reg s domain) off 32 new)) (total slot) (new - old)) b 0x10D n {}

def countSats (s : State) (b slot n : Nat) : State := countFormat s Key.FORMAT_SATURATIONS Key.FORMAT_BLOCK_SAT b slot n
def countUnders (s : State) (b slot n : Nat) : State := countFormat s Key.FORMAT_UNDERFLOWS Key.FORMAT_BLOCK_UNDER b slot n

/-- Stream `v` of a run replaced. -/
def setStream (s : State) (id v : Nat) (f : Stream → Stream) : State :=
  { s with array := { s.array with
      runs := tabUpd s.array.runs id (fun r => { r with streams := r.streams.modify v f }) } }

/-- An instruction retires. -/
def retire (s : State) (id v : Nat) (f : Stream → Stream) : State :=
  let s1 := setStream s id v (fun st => f { st with
    pc := st.pc + 1, stalled := [], claimed := false, granted := false })
  let s2 := { s1 with array := { s1.array with
      runs := tabUpd s1.array.runs id (fun r => { r with retired := r.retired + 1 }) } }
  let s3 := bump s2 Key.ARRAY_INSTRUCTIONS 1
  match tabGet s.array.runs id with
  | some r =>
    let s4 := match physBlock (ctxOf s r.ctx) v, r.streams[v]? with
      | some b, some st => countBlock s3 b 0x105 1 { instr := st.pc, vblock := v }
      | _, _ => s3
    progressOf s4 r.ctx
  | none => s3

/-- A run's command may issue instructions now: the context is RUNNING and keeps its quads. -/
def runIssues (s : State) (j : Job) (r : Run) : Bool :=
  running s && openJob j && !s.chip.closed.contains (j.queue % 4) && !r.ended &&
    (ctxOf s r.ctx).state == .running && !(ctxOf s r.ctx).leaving

/-- Every stream of a run has ended. -/
def allEnded (r : Run) : Bool := r.streams.all (fun st => st.mode == .ended)

/-- A stream ends; with another stream at a BARRIER the run fails with reason 8, and with none left it ends (R107). -/
def endStream (s : State) (id v : Nat) (r : Run) (index : Nat) : State :=
  if r.streams.any (fun st => st.mode == .barrier) then failRun s id v 8 index
  else
    let s1 := setStream s id v (fun st => { st with mode := .ended })
    match tabGet s1.array.runs id with
    | some r1 => if allEnded r1 then endRun s1 id r1 else s1
    | none => s1

/-- The next instruction of a stream, if its opcode is the given one: run, context, block and instruction are handed on.
An opcode outside Table 5.3 fails the run whichever instruction is asked for. -/
def withInstr (s : State) (id v op : Nat) (go : State → Run → Stream → Nat → Nat → State) : State :=
  match tabGet s.jobs id, tabGet s.array.runs id with
  | some j, some r =>
    match r.streams[v]? with
    | some st =>
      if !runIssues s j r || st.mode != .running || st.count ≤ st.pc then s
      else
        let a := st.addr + 16 * st.pc
        if readBad s a 16 then finish s id Code.ECC_UNCORRECTABLE 0
        else
          let i := natAt s a 16
          if !([opNop, opMatmul, opDrain, opAccLoad, opBarrier, opEnd].contains (inOp i)) then failRun s id v 1 st.pc
          else if inOp i != op then s
          else match physBlock (ctxOf s r.ctx) v with
            | some b => if sliced s b then s else go s r st b i
            | none => s
    | none => s
  | _, _ => s

/-- An instruction's accesses: its claims are made, or it stalls; what it did is then followed by the retirement of its
slots. -/
def withClaims (s : State) (id v : Nat) (r : Run) (st : Stream) (b i : Nat) (go : State → State) : State :=
  let x := ctxOf s r.ctx
  let t := touches s b i
  let rs := slotsOfRanges x v t.1
  let ws := slotsOfRanges x v t.2.1
  let far := slotsOfRanges x (inDestVb i) t.2.2
  if (st.claimed || claimable x rs ws) && (st.granted || far.isEmpty) then
    let s1 := strayRanges x v portDrain (strayRanges x v portFeed s t.1) t.2.1
    let s2 := strayRanges x (inDestVb i) portMesh s1 t.2.2
    let s3 := go s2
    updCtx s3 r.ctx (fun y => retireSlots y rs (ws ++ far))
  else
    let s1 := setStream s id v (fun st => { st with stalled := rs ++ ws ++ far })
    if st.stalled.isEmpty then countBlock s1 b 0x10A 1 { instr := st.pc, vblock := v } else s1

/-- What an error in the cells or the Pocket does to an instruction (Table 1.4); the instruction goes on when the replay
clears it. -/
def withError (s : State) (id : Nat) (r : Run) (b : Nat) (e : ArrayError) (go : State → State) : State :=
  match e with
  | .none => go s
  | .replayed => go (countBlock (bump (logError s .cell b Code.OK r.ctx .replay 0) Key.ARRAY_REPLAYS 1) b 0x106 1 {})
  | .replayFails =>
    let s1 := countBlock (bump (logError s .cell b Code.OK r.ctx .replay 0) Key.ARRAY_REPLAYS 1) b 0x106 1 {}
    faultJob (quarantine s1 b Code.CTX_FAULT) id r.ctx Code.CTX_FAULT
  | .pocket => faultJobAs (pocketUncorrectable s b r.ctx) id r.ctx Code.CTX_FAULT Code.ECC_UNCORRECTABLE

/-- A checkpoint has been asked of the context: no instruction that adds to an accumulation is started (R92). -/
def heldForCheckpoint (x : Ctx) : Bool :=
  match x.save with
  | .checkpoint _ => true
  | _ => false

/-! ### Results to the Pocket -/

/-- The draw of an output element (R129, Table 6.6). -/
def drawFor (s : State) (r : Run) (v index row f col : Nat) : Option Nat :=
  let on := (r.rounding == 1 && isMx f) || (r.rounding == 2 && (isMx f || f == 0xB))
  if on then
    let seed := field (ctxOf s r.ctx).genState 192 64
    some (generate seed 0xFFFF0001
      (r.seq % 2 ^ 64 * 2 ^ 64 + v % 4096 * 2 ^ 52 + index % 2 ^ 32 * 2 ^ 20 + row % 4096 * 2 ^ 8 + col % 256) % 2 ^ 24)
  else none

/-- One output row of `n` elements: its codes at its place, its scales in the area after the last of `rows` rows, its
events counted for block `from_`. -/
def putRow (s : State) (b from_ base f n rows row : Nat) (c : Converted) : State :=
  let rb := outRowBytes f n
  let s1 := pocketWrite s b 0 (base + row * rb) (packCodes (outWidth f) c.codes)
  let s2 := if isMx f then pocketWrite s1 b 0 (base + rows * rb + row * (n / 32)) c.scales else s1
  countUnders (countSats s2 from_ (outSlot f) c.sats) from_ (outSlot f) c.under

/-! ### MATMUL -/

/-- The accumulator row of activation row `m` (R103). -/
def accRowOf (i m : Nat) : Nat := (inAccRow i + m) % 512

/-- One activation row through the tiles: the accumulator row, its saturations, and the output row when it drains. -/
def matmulRow (r : Run) (v index b i : Nat) (c : FmtClass) (ts : List Tile) (ps : List Patch) (a : Acts)
    (s : State) (m : Nat) : State :=
  let row := accRowOf i m
  let int := accInt (inWfmt i) (inAfmt i)
  let rs := (List.range c.cols).map (fun n =>
    elemResult c int ts ps a m n (if inAccIn i then accRead s b row n else 0))
  let words := rs.map Prod.fst
  let s1 := (words.mapIdx (fun n w => (n, w))).foldl (fun t p => accWrite t b row p.1 p.2) s
  let s2 := countSats s1 b c.slot ((rs.map Prod.snd).sum)
  if inDrain i then
    putRow s2 b b (inOaddr i) (inOfmt i) c.cols (inRows i) m
      (convertRow (inOfmt i) (r.scaleRule == 1) (drawFor s r v index m (inOfmt i)) words)
  else s2

/-- The invalid codes that a MATMUL reads: of each weight once, of each activation once (R125). -/
def invalidRead (c : FmtClass) (ts : List Tile) (a : Acts) : Nat :=
  let ws := (ts.map (fun t => if t.fmt == 9 then
    ((List.range c.cols).map (fun n => ((List.range c.depth).filter (fun k => invalidCode 9 (t.code c k n))).length)).sum
    else 0)).sum
  let as := if a.fmt == 9 then
    ((List.range a.rows).map (fun m => ((List.range c.depth).filter (fun k => invalidCode 9 (a.code c m k))).length)).sum
    else 0
  ws + as

/-- The ratio of R135: the floor of err / energy × 2^24, held to 32 bits. -/
def ratio24 (err energy : Num) : Nat :=
  if energy.isZero then (if err.isZero then 0 else 0xFFFFFFFF)
  else if err.isInf then 0xFFFFFFFF
  else Nat.min (floorNum ((quotient err energy).shift 24)).toNat 0xFFFFFFFF

/-- The sample of one row: none when a value is not finite (R135). -/
def sampleRow (c : FmtClass) (ts refs : List Tile) (ps : List Patch) (a : Acts) (m : Nat) : Option Nat :=
  let ns := List.range c.cols
  let ys := ns.map (fun n => (elemResult c false ts ps a m n 0).1)
  let rs := ns.map (fun n => refResult c refs ps a m n)
  if (ys ++ rs).all finiteF32 then
    let add (acc : Num) (d : Num) : Num := fp32 (acc.add (fp32 (d.mul d)))
    let err := (List.zipWith (fun y r => fp32 ((ofF32 y).sub (ofF32 r))) ys rs).foldl add .zero
    let energy := (rs.map ofF32).foldl add .zero
    some (ratio24 err energy)
  else none

/-- The rows of a MATMUL that the shadow lanes sample (R134). -/
def sampledRows (r : Run) (v i entry : Nat) (c : FmtClass) : List Nat :=
  if inShadow i && inWsrc i && fbTop entry != 0 && c != .bf16 && r.shadow != 0 then
    let d := c.cost * 2 ^ r.shadow
    (List.range (inRows i)).filter (fun m => (m + 7 * inLayer i + v) % d == 0)
  else []

/-- A sample taken into the run's sums, or discarded. -/
def shadowSample (id layer : Nat) (s : State) (u : Option Nat) : State :=
  match u with
  | none => bump s Key.FORMAT_SHADOW_DISCARDS 1
  | some x =>
    let s1 := bump s Key.FORMAT_SHADOW_SAMPLES 1
    { s1 with array := { s1.array with runs := tabUpd s1.array.runs id (fun r =>
        let old := (tabGet r.sums layer).getD (0, 0)
        { r with sums := tabSet r.sums layer (Nat.min (old.1 + x) (2 ^ 64 - 1), old.2 + 1) }) } }

/-- The bits of accumulator rows `row` to `row + n - 1`. -/
def rowBits (row n : Nat) : Nat := (List.range n).foldl (fun x k => x ||| 2 ^ ((row + k) % 512)) 0

/-- Bits of one mask without those of another. -/
def clearBits (m n : Nat) : Nat := m ^^^ (m &&& n)

/-- The effect of a MATMUL that issues. -/
def matmulEffect (id v index : Nat) (r : Run) (b i : Nat) (c : FmtClass) (ts : List Tile) (s : State) : State :=
  let entry := (rungFor s r i).2
  let a : Acts := ⟨inAfmt i, inRows i, pocketReader s b (inAaddr i)⟩
  let int := accInt (inWfmt i) (inAfmt i)
  let ps := match ts with
    | t :: _ => if inPatch i then patchList c int t else ([], 0)
    | [] => ([], 0)
  let s1 := bump (bump s Key.FORMAT_PATCH_IGNORED ps.2) Key.FORMAT_INVALID_CODES (invalidRead c ts a)
  let s2 := (List.range (inRows i)).foldl (matmulRow r v index b i c ts ps.1 a) s1
  let refs := match runModel s r with
    | some model => (modelTiles s model i (fbTop entry) entry).getD ts
    | none => ts
  let us := (sampledRows r v i entry c).map (sampleRow c ts refs ps.1 a)
  let s3 := us.foldl (shadowSample id (inLayer i)) s2
  countBlock (countBlock s3 b 0x10C (us.filter Option.isSome).length {}) b 0x102 (inRows i) { instr := index, vblock := v }

/-- MATMUL (R102, R103, R109, R131 to R138). -/
def matmul (e : ArrayError) (s : State) (id v : Nat) : State :=
  withInstr s id v opMatmul (fun s r st b i =>
    match matmulReason s r b i with
    | some reason => failRun s id v reason st.pc
    | none =>
      let bits := rowBits (inAccRow i) (Nat.min (inRows i) 512)
      let mark (st : Stream) : Stream :=
        { st with undrained := if inDrain i then clearBits st.undrained bits else st.undrained ||| bits }
      if heldForCheckpoint (ctxOf s r.ctx) && inAccIn i then s
      else if inRows i == 0 then retire s id v (fun st => st)
      else if !arrayAwake s b then s
      else
        let need := match r.model with
          | some m => if inWsrc i then needModel s m else (true, s)
          | none => (true, s)
        match matmulClass i, matmulTiles s r b i with
        | some c, some ts =>
          if need.1 then
            withError need.2 id r b e (fun s =>
              withClaims s id v r st b i (fun s => retire (matmulEffect id v st.pc r b i c ts s) id v mark))
          else need.2
        | _, _ => s)

def execMatmul (job stream : Nat) (error : ArrayError) (s : State) : Host.Outcome State Fault Refusal :=
  .next (matmul error s job stream)

/-! ### DRAIN -/

/-- The values of a row after the function of a DRAIN, with the overflows counted (R133). -/
def drainRow (s : State) (b i row : Nat) : List Nat × Nat :=
  let words := (List.range (inCols i)).map (fun n => accRead s b row n)
  let rd (o : Nat) : Num := ofF32 (pocketReader s b (inAux i) o 4)
  let overflows (x y : Nat) : Nat := if finiteF32 x && (ofF32 y).isInf then 1 else 0
  let mapped : List Nat := match inFunc i with
    | 1 => words.map (fun w => let x := ofF32 w
        if x.isNan then nanF32 else if Num.zero.lt x then w else 0)
    | 2 => words.map (fun w => match tableValue rd (ofF32 w) with
        | some y => toF32 y
        | none => Config.freeValue (s.freeCount + w) % 2 ^ 32)
    | 3 => words.mapIdx (fun n w => toF32 ((fp32 ((ofF32 w).mul (rd (4 * n)))).add (rd (512 + 4 * n))))
    | 4 => [toF32 (if words.any (fun w => (ofF32 w).isNan) then .nan
        else (words.drop 1).foldl (fun m w => if m.lt (ofF32 w) then ofF32 w else m) (ofF32 (words.headD 0)))]
    | 5 => [(words.drop 1).foldl addF32 (words.headD 0)]
    | _ => words
  let sats := match inFunc i with
    | 2 => (List.zipWith overflows words mapped).sum
    | 3 => (List.zipWith overflows words mapped).sum
    | 5 => if words.all finiteF32 then (mapped.map (fun w => if finiteF32 w then 0 else 1)).sum else 0
    | _ => 0
  (mapped, sats)

/-- One accumulator row drained to a block's Pocket. -/
def drainOne (r : Run) (v index b dest i : Nat) (s : State) (m : Nat) : State :=
  let d := drainRow s b i (inAccRow i + m)
  let s1 := countSats s b 3 d.2
  if inFunc i == 4 || inFunc i == 5 then
    pocketWrite s1 dest 0 (inDrainOaddr i + 4 * m) (leBytes 4 (canonF32 (d.1.headD 0)))
  else
    let f := inOfmt i
    let n := drainCols f (inCols i)
    let c := convertRow f (r.scaleRule == 1) (drawFor s r v index m f) d.1
    let padded := { c with codes := c.codes ++ List.replicate (n - c.codes.length) 0 }
    putRow s1 dest b (inDrainOaddr i) f n (inRows i) m padded

/-- DRAIN (R105, R126 to R128). -/
def drain (e : ArrayError) (s : State) (id v : Nat) : State :=
  withInstr s id v opDrain (fun s r st b i =>
    match drainReason s r v b i with
    | some reason => failRun s id v reason st.pc
    | none =>
      if inRows i == 0 || inCols i == 0 then retire s id v (fun st => st)
      else
        let lb := if inRemote i then inDestVb i else v
        match physBlock (ctxOf s r.ctx) lb with
        | none => s
        | some dest =>
          if sliced s dest then s
          else withError s id r b e (fun s =>
            withClaims s id v r st b i (fun s =>
              let s1 := (List.range (inRows i)).foldl (drainOne r v st.pc b dest i) s
              let s2 := { s1 with freeCount := s1.freeCount + (if inFunc i == 2 then 2 ^ 32 else 0) }
              retire s2 id v (fun st => { st with
                undrained := clearBits st.undrained (rowBits (inAccRow i) (inRows i)) }))))

def execDrain (job stream : Nat) (error : ArrayError) (s : State) : Host.Outcome State Fault Refusal :=
  .next (drain error s job stream)

/-! ### ACC_LOAD -/

/-- One accumulator row loaded or added to. -/
def accLoadOne (b i : Nat) (s : State) (m : Nat) : State :=
  let w := if inOfmt i == 0xC then 4 else 2
  let rd := pocketReader s b (inSaddr i + m * 128 * w)
  let row := inAccRow i + m
  (List.range (inCols i)).foldl (fun t n =>
    let raw := rd (w * n) w
    let x := if inOfmt i == 0xC then ofF32 raw else ofBf16 raw
    let old := accRead t b row n
    let new := if inAdd i then toF32 ((ofF32 old).add x) else toF32 x
    let sat := if inAdd i && finiteF32 old && x.isFinite && !finiteF32 new then 1 else 0
    countSats (accWrite t b row n new) b 3 sat) s

/-- ACC_LOAD (R106). -/
def accLoad (e : ArrayError) (s : State) (id v : Nat) : State :=
  withInstr s id v opAccLoad (fun s r st b i =>
    match accLoadReason s b i with
    | some reason => failRun s id v reason st.pc
    | none =>
      if inRows i == 0 || inCols i == 0 then retire s id v (fun st => st)
      else if heldForCheckpoint (ctxOf s r.ctx) && inAdd i then s
      else
        withError s id r b e (fun s =>
          withClaims s id v r st b i (fun s =>
            retire ((List.range (inRows i)).foldl (accLoadOne b i) s) id v (fun st => { st with
              undrained := st.undrained ||| rowBits (inAccRow i) (inRows i) }))))

def execAccLoad (job stream : Nat) (error : ArrayError) (s : State) : Host.Outcome State Fault Refusal :=
  .next (accLoad error s job stream)

/-! ### NOP, BARRIER and END (R107) -/

/-- SEQUENCER_NOP: no effect. -/
def sequencerNop (s : State) (id v : Nat) : State :=
  withInstr s id v opNop (fun s _ _ _ _ => retire s id v (fun st => st))

def execSequencerNop (job stream : Nat) (s : State) : Host.Outcome State Fault Refusal :=
  .next (sequencerNop s job stream)

/-- Every stream that takes part has reached its BARRIER. -/
def barrierDone (r : Run) : Bool := r.streams.all (fun st => st.mode != .running)

/-- The streams that wait at a BARRIER go on. -/
def releaseBarrier (s : State) (id : Nat) : State :=
  match tabGet s.array.runs id with
  | some r =>
    if barrierDone r then
      (List.range r.streams.length).foldl (fun t v =>
        match r.streams[v]? with
        | some st => if st.mode == .barrier then
            retire t id v (fun st => { st with mode := .running }) else t
        | none => t) s
    else s
  | none => s

/-- BARRIER: the stream waits until every stream of the run has reached its own.  A stream that has ended takes no
further part. -/
def barrier (s : State) (id v : Nat) : State :=
  withInstr s id v opBarrier (fun s _ _ _ _ =>
    releaseBarrier (setStream s id v (fun st => { st with mode := .barrier, barriers := st.barriers + 1 })) id)

def execBarrier (job stream : Nat) (s : State) : Host.Outcome State Fault Refusal := .next (barrier s job stream)

/-- END: the stream ends; so does one that runs past its COUNT. -/
def endInstr (s : State) (id v : Nat) : State :=
  match tabGet s.jobs id, tabGet s.array.runs id with
  | some j, some r =>
    match r.streams[v]? with
    | some st =>
      if runIssues s j r && st.mode == .running && st.count ≤ st.pc then endStream s id v r st.pc
      else withInstr s id v opEnd (fun s r st _ _ =>
        if r.streams.any (fun st => st.mode == .barrier) then failRun s id v 8 st.pc
        else
          let s1 := retire s id v (fun st => st)
          match tabGet s1.array.runs id with
          | some r1 => endStream s1 id v r1 st.pc
          | none => s1)
    | none => s
  | _, _ => s

def execEndStream (job stream : Nat) (s : State) : Host.Outcome State Fault Refusal := .next (endInstr s job stream)

/-! ### Channel windows of runs (R155 to R157) -/

/-- CHANNEL_WINDOW_CLAIM: a stalled instruction claims every slot it touches, at once. -/
def channelWindowClaim (s : State) (id v : Nat) : State :=
  match tabGet s.jobs id, tabGet s.array.runs id with
  | some j, some r =>
    match r.streams[v]? with
    | some st =>
      match physBlock (ctxOf s r.ctx) v with
      | some b =>
        let x := ctxOf s r.ctx
        let i := natAt s (st.addr + 16 * st.pc) 16
        let t := touches s b i
        let rs := slotsOfRanges x v t.1
        let ws := slotsOfRanges x v t.2.1
        if runIssues s j r && st.mode == .running && !st.claimed && !st.stalled.isEmpty && claimable x rs ws then
          setStream (setCtx s r.ctx (claimSlots x rs ws)) id v (fun st => { st with claimed := true })
        else s
      | none => s
    | none => s
  | _, _ => s

def execChannelWindowClaim (job stream : Nat) (s : State) : Host.Outcome State Fault Refusal :=
  .next (channelWindowClaim s job stream)

/-- REMOTE_WINDOW_CLAIM: the claim message of a remote DRAIN is granted when every slot it names is EMPTY. -/
def remoteWindowClaim (s : State) (id v : Nat) : State :=
  match tabGet s.jobs id, tabGet s.array.runs id with
  | some j, some r =>
    match r.streams[v]? with
    | some st =>
      match physBlock (ctxOf s r.ctx) v with
      | some b =>
        let x := ctxOf s r.ctx
        let i := natAt s (st.addr + 16 * st.pc) 16
        let far := slotsOfRanges x (inDestVb i) (touches s b i).2.2
        if runIssues s j r && st.mode == .running && !st.granted && !far.isEmpty && claimable x [] far then
          setStream (setCtx s r.ctx (claimSlots x [] far)) id v (fun st => { st with granted := true })
        else s
      | none => s
    | none => s
  | _, _ => s

def execRemoteWindowClaim (job stream : Nat) (s : State) : Host.Outcome State Fault Refusal :=
  .next (remoteWindowClaim s job stream)

/-- The slots a command's accessor waits for: of stream `v` of its run, or of its own. -/
def stalledSlots (s : State) (id v : Nat) (j : Job) : List (Nat × Nat) :=
  match tabGet s.array.runs id with
  | some r => match r.streams[v]? with
    | some st => st.stalled
    | none => []
  | none => j.stalled

/-- WINDOW_TIMEOUT (R157): the wait of a stalled accessor, in phase units, is kept in the window; at the smallest TIMEOUT
of its windows the context is faulted with CTX_FAULT. -/
def windowTimeout (s : State) (id v waited : Nat) : State :=
  match tabGet s.jobs id with
  | some j =>
    let x := ctxOf s j.ctx
    let slots := stalledSlots s id v j
    if x.state != .running || slots.isEmpty then s
    else
      let s1 := setCtx s j.ctx { x with windows := tabMap x.windows (fun k w =>
        if slots.any (fun p => p.1 == k) then { w with wait := waited } else w) }
      match claimTimeout x slots with
      | none => s1
      | some (limit, key) =>
        if limit ≤ waited then
          let s2 := bump (faultJob s1 id j.ctx Code.CTX_FAULT) Key.POCKET_WINDOW_TIMEOUTS 1
          setReg s2 Key.POCKET_LAST_TIMEOUT (lastTimeout j.ctx (key / 16) (key % 16))
        else s1
  | none => s

def execWindowTimeout (job stream waited : Nat) (s : State) : Host.Outcome State Fault Refusal :=
  .next (windowTimeout s job stream waited)

/-! ### ARRAY_RUN (R117) -/

def arAddr (e : Nat) : Nat := param e 511 448
def arModel (e : Nat) : Nat := param e 447 432
def arSource (e : Nat) : Bool := paramBit e 431

/-- The image an ARRAY_RUN names. -/
def arImage (s : State) (e : Nat) : Option Nat :=
  if arSource e then (modelOf s (arModel e)).map (fun m => m.addr) else some (arAddr e)

/-- The first instruction of some stream names a tile of the model. -/
def arNamesModel (s : State) (a : Nat) : Bool :=
  (List.range (imVblocks (imageHead s a))).any (fun v =>
    let e := streamEntry s a v
    e.2 != 0 && inOp (natAt s e.1 16) == opMatmul && inWsrc (natAt s e.1 16))

/-- The checks of R117. -/
def arrayRunCheck (s : State) (c e : Nat) : Nat :=
  match arImage s e with
  | none => Code.BAD_FIELD
  | some a =>
    let h := imageHead s a
    firstBad
      [(!arSource e && (a % 4096 != 0 || !inHbm s a 64), Code.BAD_FIELD),
       (imVersion h != 1, Code.VERSION_UNSUPPORTED),
       (!arSource e && !inHbm s a (imBytes h), Code.BAD_FIELD),
       ((imKind h != 1 && imKind h != 2) || (arSource e && imKind h != 2), Code.BAD_FIELD),
       (imBytes h < imStreams h + 16 * imVblocks h ||
         (imTileCount h != 0 && imBytes h < imTiles h + 8 * imTileCount h), Code.BAD_FIELD),
       (4 * (ctxOf s c).partition < imVblocks h, Code.BAD_FIELD),
       (arNamesModel s a && (modelOf s (arModel e)).isNone, Code.BAD_FIELD)]

/-- At its admission a run takes its RUN_SEQ (R142). -/
def arrayRunAdmit (s : State) (id : Nat) : State :=
  match tabGet s.jobs id with
  | some j =>
    let s1 := nextRun s j.ctx
    updJob s1 id (fun j => { j with pin := runSeqOf (ctxOf s1 j.ctx) })
  | none => s

def arrayRunSpec : CmdSpec where
  used _ := usedBits [(511, 448), (447, 432), (431, 431)]
  check := arrayRunCheck
  noop := noZero
  atAdmission := arrayRunAdmit

/-- ARRAY_RUN: the run begins; the block sequencers' instructions are commands of their own. -/
def arrayRunBody (s : State) (id : Nat) (j : Job) : State :=
  match arImage s j.entry with
  | none => finish s id Code.BAD_FIELD 0
  | some a =>
    let model := if (modelOf s (arModel j.entry)).isSome then some (arModel j.entry) else none
    if tabHas s.array.runs id then s
    else if (ctxOf s j.ctx).state != .running || !runMayStart s id j.ctx model then s
    else if readBad s a (imBytes (imageHead s a)) then finish s id Code.ECC_UNCORRECTABLE 0
    else
      let h := imageHead s a
      if (List.range (imVblocks h)).all (fun v => (streamEntry s a v).2 == 0) then finish s id Code.OK_NOOP 0
      else startRun (updJob (touchRange s a (imBytes h)) id (fun j => { j with phase := .running })) id j.ctx a model j.pin

def execArrayRun (job : Nat) (s : State) : Host.Outcome State Fault Refusal :=
  .next (runJob s job Op.ARRAY_RUN noSources arrayRunBody)

end Sys2Proof.Machine
end

