-- ==== Sys2Proof/Machine/Lace.lean ====
section
/-! DEFINITION. Lace: vocabularies, encoding and decoding (chapter 9). -/

namespace Sys2Proof.Machine

/-! ### Vocabulary images (Tables 9.1 and 9.2) -/

def voBytes (h : Nat) : Nat := field h 448 64
def voTable (h : Nat) : Nat := field h 384 64
def voStrings (h : Nat) : Nat := field h 320 64
def voTokens (h : Nat) : Nat := field h 288 32
def voPieces (h : Nat) : Nat := field h 256 32
def voBos (h : Nat) : Nat := field h 224 32
def voEos (h : Nat) : Nat := field h 192 32
def voUnk (h : Nat) : Nat := field h 160 32
def voByteBase (h : Nat) : Nat := field h 128 32
def voFallScore (h : Nat) : Int := signedOf 32 (field h 96 32)
def voMark (h : Nat) : Nat := field h 64 32
def voPrefix (h : Nat) : Bool := bitOf h 17
def voFallback (h : Nat) : Bool := bitOf h 16

def noToken : Nat := 0xFFFFFFFF

/-- The token table entry of token `t` of the image at `a`. -/
def tokenEntry (s : State) (a t : Nat) : Nat := natAt s (a + voTable (natAt s a 64) + 16 * t) 16
def teScore (e : Nat) : Int := signedOf 32 (field e 96 32)
def teString (e : Nat) : Nat := field e 64 32
def teLength (e : Nat) : Nat := field e 56 8
def teKind (e : Nat) : Nat := field e 52 4

def kindPiece : Nat := 0
def kindByte : Nat := 1
def kindSpecial : Nat := 2

/-- The string of a token's entry. -/
def tokenString (s : State) (a e : Nat) : List Nat :=
  bytesAt s (a + voStrings (natAt s a 64) + teString e) (teLength e)

/-- A piece: its string, its token, its score. -/
abbrev Piece := List Nat × Nat × Int

/-- The pieces of a vocabulary, in token order. -/
def piecesOf (s : State) (a : Nat) : List Piece :=
  (List.range (voTokens (natAt s a 64))).filterMap (fun t =>
    let e := tokenEntry s a t
    if teKind e == kindPiece then some (tokenString s a e, t, teScore e) else none)

/-- The checks of a load (R196). -/
def vocabCheck (s : State) (a : Nat) : Nat :=
  let h := natAt s a 64
  let n := voTokens h
  let entries := (List.range n).map (tokenEntry s a)
  let ps := piecesOf s a
  let lens := ps.map (fun p => p.1.length)
  firstBad
    [(field h 0 8 != 1, Code.VERSION_UNSUPPORTED),
     (!inHbm s a (voBytes h), Code.BAD_FIELD),
     (n == 0 || 1048576 < n || 262144 < voPieces h, Code.BAD_FIELD),
     (voTable h % 16 != 0 || voBytes h < voTable h + 16 * n, Code.BAD_FIELD),
     (entries.any (fun e => 3 < teKind e || ((teKind e == kindPiece || teKind e == kindSpecial) &&
       (teLength e == 0 || 64 < teLength e || voBytes h < voStrings h + teString e + teLength e))), Code.BAD_FIELD),
     (ps.length != voPieces h, Code.BAD_FIELD),
     ((ps.map Prod.fst).eraseDups.length != ps.length, Code.BAD_FIELD),
     (4194304 < lens.sum, Code.BAD_FIELD),
     (voFallback h && (n ≤ voByteBase h + 255 ||
       (List.range 256).any (fun b => teKind (tokenEntry s a (voByteBase h + b)) != kindByte)), Code.BAD_FIELD),
     (!voFallback h && n ≤ voUnk h, Code.BAD_FIELD),
     ([voBos h, voEos h].any (fun t => t != noToken && n ≤ t), Code.BAD_FIELD),
     (0x10FFFF < voMark h || (0xD800 ≤ voMark h && voMark h ≤ 0xDFFF), Code.BAD_FIELD)]

/-! ### PARAMS (Table 9.4) -/

def laSrc (e : Nat) : Nat := param e 511 448
def laDest (e : Nat) : Nat := param e 447 384
def laVb (e : Nat) : Nat := param e 383 368
def laRow (e : Nat) : Nat := param e 367 352
def laLength (e : Nat) : Nat := param e 351 320
def laCount (e : Nat) : Nat := param e 319 288
def laCapacity (e : Nat) : Nat := param e 287 256
def laVocab (e : Nat) : Nat := param e 255 240
def laPocket (e : Nat) : Bool := paramBit e 239
def laBos (e : Nat) : Bool := paramBit e 238
def laEos (e : Nat) : Bool := paramBit e 237
def laOffsets (e : Nat) : Bool := paramBit e 236
def laSkip (e : Nat) : Bool := paramBit e 235
def laContinue (e : Nat) : Bool := paramBit e 234

/-- Bytes of an output token of LACE_ENCODE. -/
def laWidth (e : Nat) : Nat := if laOffsets e then 8 else 4

/-- A vocabulary that a call may name: loaded, and no unload of it is open. -/
def vocabOf (s : State) (v : Nat) : Option Vocab :=
  match tabGet s.vocabs v with
  | some x => match x.closing with
    | some id => if isOpen s id then none else some x
    | none => some x
  | none => none

/-- A call pins a vocabulary from its admission. -/
def pinVocab (s : State) (v id : Nat) : State :=
  { s with vocabs := tabUpd s.vocabs v (fun x => { x with pins := id :: x.pins }) }

/-- LACE.RESIDENT_MAP follows the loaded vocabularies. -/
def reportVocabs (s : State) : State :=
  setReg s Key.LACE_RESIDENT_MAP ((tabKeys s.vocabs).foldl (fun m v => m + 2 ^ v) 0)

/-! ### Loading and unloading (R196 to R198) -/

def laceVocabLoadSpec : CmdSpec where
  used _ := usedBits [(511, 448), (255, 240)]
  check s _ e := firstBad
    [(4 ≤ laVocab e || laSrc e % 4096 != 0 || !inHbm s (laSrc e) 64, Code.BAD_FIELD)]
  noop := noZero
  atAdmission := noAdmit

/-- LACE_VOCAB_LOAD: the image is checked whole, then every Lace holds it. -/
def laceVocabLoadBody (s : State) (id : Nat) (j : Job) : State :=
  let a := laSrc j.entry
  let v := laVocab j.entry
  if tabHas s.vocabs v then finish s id Code.BAD_FIELD 0
  else if readBad s a 64 then finish s id Code.ECC_UNCORRECTABLE 0
  else if field (natAt s a 64) 0 8 == 1 && inHbm s a (voBytes (natAt s a 64)) && readBad s a (voBytes (natAt s a 64)) then
    finish s id Code.ECC_UNCORRECTABLE 0
  else
    let st := vocabCheck s a
    if st != Code.OK then finish s id st 0
    else
      let s1 := { s with vocabs := tabSet s.vocabs v { addr := a } }
      finish (reportVocabs (touchRange s1 a (voBytes (natAt s a 64)))) id Code.OK 0

def execLaceVocabLoad (job : Nat) (s : State) : Host.Outcome State Fault Refusal :=
  .next (runJob s job Op.LACE_VOCAB_LOAD noSources laceVocabLoadBody)

/-- From its admission an unload closes the vocabulary to later calls. -/
def laceVocabUnloadAdmit (s : State) (id : Nat) : State :=
  match tabGet s.jobs id with
  | some j =>
    match vocabOf s (laVocab j.entry) with
    | some _ => { s with vocabs := tabUpd s.vocabs (laVocab j.entry) (fun x => { x with closing := some id }) }
    | none => s
  | none => s

def laceVocabUnloadSpec : CmdSpec where
  used _ := usedBits [(255, 240)]
  check _ _ e := firstBad [(4 ≤ laVocab e, Code.BAD_FIELD)]
  noop := noZero
  atAdmission := laceVocabUnloadAdmit

/-- LACE_VOCAB_UNLOAD: it waits for the calls that pinned the vocabulary; one that is not loaded, or that another unload
closes, is OK_NOOP. -/
def laceVocabUnloadBody (s : State) (id : Nat) (j : Job) : State :=
  let v := laVocab j.entry
  match tabGet s.vocabs v with
  | none => finish s id Code.OK_NOOP 0
  | some x =>
    if x.closing != some id then finish s id Code.OK_NOOP 0
    else if x.pins.any (isOpen s) then s
    else finish (reportVocabs { s with vocabs := tabDel s.vocabs v }) id Code.OK 0

def execLaceVocabUnload (job : Nat) (s : State) : Host.Outcome State Fault Refusal :=
  .next (runJob s job Op.LACE_VOCAB_UNLOAD noSources laceVocabUnloadBody)

/-! ### Encoding (R199 to R204) -/

/-- UTF-8 of a scalar value. -/
def utf8 (c : Nat) : List Nat :=
  if c < 0x80 then [c]
  else if c < 0x800 then [0xC0 + c / 64, 0x80 + c % 64]
  else if c < 0x10000 then [0xE0 + c / 4096, 0x80 + c / 64 % 64, 0x80 + c % 64]
  else [0xF0 + c / 262144, 0x80 + c / 4096 % 64, 0x80 + c / 64 % 64, 0x80 + c % 64]

/-- Normalized text: each byte with the offset of the byte it came from (R200). -/
def normalize (h : Nat) (text : List Nat) : List (Nat × Nat) :=
  if voMark h == 0 then text.mapIdx (fun i b => (b, i))
  else
    let m := utf8 (voMark h)
    let body := (text.mapIdx (fun i b => if b == 0x20 then m.map (fun c => (c, i)) else [(b, i)])).flatten
    if voPrefix h && !text.isEmpty then m.map (fun c => (c, 0)) ++ body else body

/-- An edge of the lattice: its length, its token, its score, and whether it is a fallback. -/
abbrev Edge := Nat × Nat × Int × Bool

/-- The edges out of a position, longest first (R201). -/
def edgesAt (h : Nat) (ps : List Piece) (rest : List Nat) : List Edge :=
  let ms := ps.filter (fun p => p.1.isPrefixOf rest)
  let es := sortBy (fun a b => b.1 < a.1) (ms.map (fun p => (p.1.length, p.2.1, p.2.2, false)))
  if es.isEmpty then
    [(1, if voFallback h then voByteBase h + rest.headD 0 else voUnk h, voFallScore h, true)]
  else es

/-- The best way into a position: its score, where from, its token, and whether the token is a fallback. -/
abbrev Way := Int × Nat × Nat × Bool

/-- One edge taken: it replaces the best way into its end only when it is strictly better. -/
def takeEdge (i : Nat) (from_ : Int) (t : Tab Way) (e : Edge) : Tab Way :=
  let c := from_ + e.2.2.1
  match tabGet t (i + e.1) with
  | some w => if w.1 < c then tabSet t (i + e.1) (c, i, e.2.1, e.2.2.2) else t
  | none => tabSet t (i + e.1) (c, i, e.2.1, e.2.2.2)

/-- The forward pass. -/
def lattice (h : Nat) (ps : List Piece) : Nat → List Nat → Tab Way → Tab Way
  | _, [], t => t
  | i, b :: bs, t =>
    match tabGet t i with
    | some w => lattice h ps (i + 1) bs ((edgesAt h ps (b :: bs)).foldl (takeEdge i w.1) t)
    | none => lattice h ps (i + 1) bs t

/-- A token of the segmentation: its token, the position of its first byte, and whether it is a fallback. -/
abbrev Seg := Nat × Nat × Bool

/-- The tokens read back from a position to 0, in text order. -/
def readBack (t : Tab Way) : Nat → Nat → List Seg → List Seg
  | 0, _, acc => acc
  | k + 1, j, acc =>
    if j = 0 then acc
    else match tabGet t j with
      | some w => readBack t k w.2.1 ((w.2.2.1, w.2.1, w.2.2.2) :: acc)
      | none => acc

/-- Each run of UNK tokens becomes one, at the place of its first. -/
def mergeUnk (unk : Nat) (l : List Seg) : List Seg :=
  l.foldr (fun a acc => match acc with
    | b :: rest => if a.1 == unk && b.1 == unk then a :: rest else a :: acc
    | [] => [a]) []

/-- The segmentation of normalized text (R201). -/
def segment (h : Nat) (ps : List Piece) (text : List Nat) : List Seg :=
  let t := lattice h ps 0 text [(0, (0, 0, 0, false))]
  let ts := readBack t (text.length + 1) text.length []
  if voFallback h then ts else mergeUnk (voUnk h) ts

/-- The output of an encode (R202): tokens with their offsets, the length of the normalized text, and the fallback tokens
produced. -/
def encodeText (s : State) (a e : Nat) (text : List Nat) : List (Nat × Nat) × Nat × Nat :=
  let h := natAt s a 64
  let norm := normalize h text
  let segs := segment h (piecesOf s a) (norm.map Prod.fst)
  let offs := norm.map Prod.snd
  let body := segs.map (fun g => (g.1, offs[g.2.1]?.getD 0))
  let out := (if laBos e then [(voBos h, 0)] else []) ++ body ++
    (if laEos e then [(voEos h, text.length)] else [])
  (out, norm.length, (segs.filter (fun g => g.2.2)).length)

/-- The checks of LACE_ENCODE at admission (R199). -/
def laceEncodeCheck (s : State) (c e : Nat) : Nat :=
  let x := ctxOf s c
  let bytes := laCapacity e * laWidth e
  match vocabOf s (laVocab e) with
  | none => Code.BAD_FIELD
  | some v =>
    let h := natAt s v.addr 64
    firstBad
      [(4 ≤ laVocab e || 1048576 < laLength e, Code.BAD_FIELD),
       ((laBos e && voBos h == noToken) || (laEos e && voEos h == noToken), Code.BAD_FIELD),
       (!rangeOk s (laSrc e) (laLength e), Code.BAD_FIELD),
       (!laPocket e && (laDest e % 4 != 0 || !rangeOk s (laDest e) bytes), Code.BAD_FIELD),
       (laPocket e && (4 * x.partition ≤ laVb e || 262144 < bytes ||
         contextRows s < laRow e + ceilDiv bytes 256), Code.BAD_FIELD)]

/-- A call pins its vocabulary at admission. -/
def laceAdmit (s : State) (id : Nat) : State :=
  match tabGet s.jobs id with
  | some j => pinVocab s (laVocab j.entry) id
  | none => s

def laceEncodeSpec : CmdSpec where
  used e := usedBits ([(511, 448), (351, 320), (287, 256), (255, 240), (239, 239), (238, 238), (237, 237), (236, 236)] ++
    if laPocket e then [(383, 368), (367, 352)] else [(447, 384)])
  check := laceEncodeCheck
  noop e := laLength e == 0 && !laBos e && !laEos e
  atAdmission := laceAdmit

/-- The output of an encode as bytes. -/
def encodeBytes (e : Nat) (out : List (Nat × Nat)) : List Nat :=
  (out.map (fun p => if laOffsets e then leBytes 4 p.1 ++ leBytes 4 p.2 else leBytes 4 p.1)).flatten

/-- A delivery of rows into a Pocket through the Belt/DMA port, as one accessor (R155, R204): it is made, or the command
waits for its slots. -/
def deliverRows (s : State) (id c lb row byte : Nat) (bs : List Nat) (go : State → State) : State :=
  let x := ctxOf s c
  let rows := if bs.isEmpty then 0 else (byte + bs.length - 1) / 256 + 1
  let ws := slotsOf x lb row rows
  if claimable x [] ws then
    let s1 := countStrays s x lb portBelt row rows
    let s2 := lbWrite s1 x lb row byte bs
    go (updCtx (updJob s2 id (fun j => { j with stalled := [] })) c (fun y => retireSlots y [] ws))
  else updJob s id (fun j => { j with stalled := ws })

/-- The end of an encode: its counters, and its status. -/
def encodeDone (s : State) (id total n fallbacks : Nat) (truncated : Bool) : State :=
  let s1 := bump (bump (bump s Key.LACE_ENCODE_CALLS 1) Key.LACE_ENCODE_BYTES n) Key.LACE_FALLBACK_TOKENS fallbacks
  let s2 := if truncated then bump s1 Key.LACE_TRUNCATIONS 1 else s1
  let s2 := match tabGet s2.jobs id with
    | some j => tallyJob s2 j 0x20E n
    | none => s2
  finish s2 id (if truncated then Code.OK_TRUNCATED else Code.OK) (n * 2 ^ 32 + total)

/-- LACE_ENCODE: first the text is segmented whole, then the output is delivered.  Progress between the two: a mark, the
counts, and the output bytes. -/
def laceEncodeBody (s : State) (id : Nat) (j : Job) : State :=
  let e := j.entry
  match j.work with
  | _ :: total :: n :: fb :: bs =>
    let cut := laCapacity e < total
    if laPocket e then
      deliverRows s id j.ctx (laVb e) (laRow e) 0 bs (fun t => encodeDone t id total n fb cut)
    else withWrite s id (laDest e) bs.length (fun t => encodeDone (writeBytes t (laDest e) bs) id total n fb cut)
  | _ =>
    match tabGet s.vocabs (laVocab e) with
    | none => s
    | some v =>
      withRead s id (laSrc e) (laLength e) (fun s text =>
        let r := encodeText s v.addr e text
        let bs := encodeBytes e (r.1.take (laCapacity e))
        updJob s id (fun j => { j with phase := .running, work := 1 :: r.1.length :: r.2.1 :: r.2.2 :: bs }))

/-- The text of an encode, or the tokens of a decode, in the companion window. -/
def laceEncodeSources (_ : State) (j : Job) : List (Nat × Nat) := [(laSrc j.entry, laLength j.entry)]

/-- A delivery that finds its context not RUNNING is held, and counted once (R208). -/
def noteHold (s : State) (id : Nat) : State :=
  match tabGet s.jobs id with
  | some j =>
    match j.work with
    | 1 :: rest =>
      if openJob j && j.opcode == Op.LACE_ENCODE && laPocket j.entry && (ctxOf s j.ctx).state != .running then
        bump (updJob s id (fun j => { j with work := 2 :: rest })) Key.LACE_DELIVERY_HOLDS 1
      else s
    | _ => s
  | none => s

def execLaceEncode (job : Nat) (s : State) : Host.Outcome State Fault Refusal :=
  .next (runJob (noteHold s job) job Op.LACE_ENCODE laceEncodeSources laceEncodeBody)

/-! ### Decoding (R205, R206) -/

/-- The bytes a token adds. -/
def tokenBytes (s : State) (a : Nat) (skip : Bool) (t : Nat) : List Nat :=
  let h := natAt s a 64
  let e := tokenEntry s a t
  if teKind e == kindPiece then tokenString s a e
  else if teKind e == kindByte then [(t + 2 ^ 32 - voByteBase h) % 256]
  else if teKind e == kindSpecial && !skip then tokenString s a e
  else []

/-- Markers unmarked from the start without overlap: each byte with whether it came from a marker. -/
def unmark (m : List Nat) : Nat → List Nat → List (Nat × Bool)
  | 0, _ => []
  | k + 1, bs =>
    match bs with
    | [] => []
    | b :: rest =>
      if m.isPrefixOf bs then (0x20, true) :: unmark m k (bs.drop m.length) else (b, false) :: unmark m k rest

/-- The byte string of a list of tokens, unmarked and without its prefix. -/
def decodeTokens (s : State) (a : Nat) (skip cont : Bool) (ts : List Nat) : List Nat :=
  let h := natAt s a 64
  let raw := (ts.map (tokenBytes s a skip)).flatten
  if voMark h == 0 then raw
  else match unmark (utf8 (voMark h)) raw.length raw with
    | [] => []
    | b :: bs =>
      if voPrefix h && !cont && b == (0x20, true) then bs.map Prod.fst else (b :: bs).map Prod.fst

/-- The checks of LACE_DECODE at admission (R199). -/
def laceDecodeCheck (s : State) (_ e : Nat) : Nat :=
  match vocabOf s (laVocab e) with
  | none => Code.BAD_FIELD
  | some _ => firstBad
      [(4 ≤ laVocab e || 1048576 < laCount e || laSrc e % 4 != 0, Code.BAD_FIELD),
       (!rangeOk s (laSrc e) (4 * laCount e), Code.BAD_FIELD),
       (!rangeOk s (laDest e) (laCapacity e), Code.BAD_FIELD)]

def laceDecodeSpec : CmdSpec where
  used _ := usedBits [(511, 448), (447, 384), (319, 288), (287, 256), (255, 240), (235, 235), (234, 234)]
  check := laceDecodeCheck
  noop e := laCount e == 0
  atAdmission := laceAdmit

/-- Counters of a decode of `n` tokens; how many missed the decode cache is an open value. -/
def countDecode (s : State) (n : Nat) : State :=
  let f := takeFree s
  bump (bump f.2 Key.LACE_DECODE_TOKENS n) Key.LACE_DECODE_MISSES (f.1 % (n + 1))

/-- LACE_DECODE. -/
def laceDecodeBody (s : State) (id : Nat) (j : Job) : State :=
  let e := j.entry
  match tabGet s.vocabs (laVocab e) with
  | none => s
  | some v =>
    withRead s id (laSrc e) (4 * laCount e) (fun s _ =>
      let h := natAt s v.addr 64
      let ts := (List.range (laCount e)).map (fun i => natAt s (laSrc e + 4 * i) 4)
      match ts.findIdx? (fun t => voTokens h ≤ t) with
      | some i => finish s id Code.TOKEN_INVALID i
      | none =>
        if readBad s v.addr (voBytes h) then finish s id Code.ECC_UNCORRECTABLE 0
        else
          let bs := decodeTokens s v.addr (laSkip e) (laContinue e) ts
          let out := bs.take (laCapacity e)
          withWrite s id (laDest e) out.length (fun t =>
            let t1 := bump (countDecode (writeBytes t (laDest e) out) ts.length) Key.LACE_DECODE_CALLS 1
            if laCapacity e < bs.length then
              finish (bump t1 Key.LACE_TRUNCATIONS 1) id Code.OK_TRUNCATED bs.length
            else finish t1 id Code.OK bs.length))

def laceDecodeSources (_ : State) (j : Job) : List (Nat × Nat) := [(laSrc j.entry, 4 * laCount j.entry)]

def execLaceDecode (job : Nat) (s : State) : Host.Outcome State Fault Refusal :=
  .next (runJob s job Op.LACE_DECODE laceDecodeSources laceDecodeBody)

end Sys2Proof.Machine
end

