-- ==== Sys2Proof/Machine/Index.lean ====
section
/-! DEFINITION. Indexes (chapter 10): areas, records, ingestion, epochs, PUBLISH, and compaction. -/

namespace Sys2Proof.Machine

/-! ### Descriptors and areas (Tables 10.1, 10.2 and 10.4) -/

def ixCapacity (d : Nat) : Nat := field d 664 40
def ixLists (d : Nat) : Nat := field d 608 32
def ixTombSlots (d : Nat) : Nat := field d 576 32
def ixExtentSlots (d : Nat) : Nat := field d 544 32
def ixDims (d : Nat) : Nat := field d 48 16
def ixRetain (d : Nat) : Nat := field d 40 8
def ixVfmt (d : Nat) : Nat := field d 36 4
def ixSketch (d : Nat) : Nat := field d 34 2
def ixCmetric (d : Nat) : Nat := field d 32 2
def ixOpen (d : Nat) : Bool := bitOf d 8

/-- Bits of a sketch. -/
def sketchBits (d : Nat) : Nat := 256 * 2 ^ ixSketch d

/-- Bytes of a sketch record. -/
def sketchBytes (d : Nat) : Nat := sketchBits d / 8 + 16

/-- Sketch records in a stripe. -/
def perStripe (d : Nat) : Nat := stripeBytes / sketchBytes d

/-- VBYTES. -/
def vBytes (d : Nat) : Nat :=
  if ixVfmt d == 0xB then 2 * ixDims d
  else if ixVfmt d == 0 then ixDims d / 2 + ixDims d / 32
  else ixDims d + ixDims d / 32

/-- VSTRIDE. -/
def vStride (d : Nat) : Nat := ceilDiv (vBytes d) 32 * 32

/-- Bytes of the state area. -/
def ixStateBytes (d : Nat) : Nat :=
  ceilDiv (ixCapacity d) 4 + 16 * ixTombSlots d + 64 * ixLists d + 32 * ixExtentSlots d

/-- Stripes of the list area that hold the durable copies of the state area. -/
def ixCopyStripes (d : Nat) : Nat := ceilDiv (2 * ixStateBytes d) stripeBytes

/-- Each area with its policy and its least size. -/
def ixAreaNeeds (d : Nat) : List (Nat × Nat × Nat) :=
  [(ixCentroidArea d, 0, ixLists d * vStride d), (ixStateArea d, 0, ixStateBytes d),
   (ixListArea d, 2, 2 * ixStateBytes d), (ixVectorArea d, 2, ixCapacity d * vStride d),
   (ixTextArea d, 2, 8 * ixCapacity d + unitBytes)]

/-- An area is not the base of a registered object of its policy, or it is too small. -/
def areaBad (s : State) (n : Nat × Nat × Nat) : Bool :=
  match objectBase s n.1 with
  | some o => o.policy != n.2.1 || o.size < n.2.2
  | none => true

/-- The descriptor's own limits (Table 10.2). -/
def ixFieldsBad (d : Nat) : Bool :=
  ixCapacity d == 0 || ixLists d == 0 || 4194304 < ixLists d || ixTombSlots d < 1024 ||
    ixExtentSlots d < 2 * ixLists d || ixDims d % 32 != 0 || ixDims d < 32 || 4096 < ixDims d ||
    !([0, 3, 4, 0xB].contains (ixVfmt d)) || ixCmetric d == 3 ||
    field d 640 24 != 0 || field d 64 480 != 0 || field d 9 23 != 0

/-- The size of a registered object. -/
def objectSize (s : State) (a : Nat) : Nat :=
  match objectBase s a with
  | some o => o.size
  | none => 0

/-! ### Epochs and visibility (R215, R216) -/

/-- An index that a command may name: it is open, and no INDEX_DROP closes it. -/
def indexOf (s : State) (i : Nat) : Option Index :=
  match tabGet s.indexes i with
  | some x => match x.dropping with
    | some id => if isOpen s id then none else some x
    | none => some x
  | none => none

/-- The state with a change of an index. -/
def updIndex (s : State) (i : Nat) (f : Index → Index) : State := { s with indexes := tabUpd s.indexes i f }

/-- The pins that are held. -/
def openPins (s : State) (x : Index) : Tab Nat := x.pins.filter (fun p => isOpen s p.1)

/-- The oldest retained epoch. -/
def oldestOf (s : State) (x : Index) : Nat :=
  ((openPins s x).map Prod.snd).foldl Nat.min (x.current - ixRetain x.desc)

/-- A command pins an epoch. -/
def pinEpoch (s : State) (i id e : Nat) : State :=
  updIndex s i (fun x => { x with pins := tabSet (openPins s x) id e })

/-- A passage is hidden from a command pinned at an epoch by its tombstone. -/
def hiddenAt (x : Index) (e p : Nat) : Bool :=
  match tabGet x.tombs p with
  | some t => t.epoch ≤ e || t.unborn
  | none => false

/-! ### Extents and records -/

/-- Stripes of an extent. -/
def extentStripes (d : Nat) (e : Extent) : Nat := ceilDiv e.count (perStripe d)

/-- Address of record `i` of an extent. -/
def recordAddr (d : Nat) (e : Extent) (i : Nat) : Nat :=
  ixListArea d + (e.start + i / perStripe d) * stripeBytes + i % perStripe d * sketchBytes d

/-- The trailer of a sketch record (Table 10.3), and its fields. -/
def trailerOf (d r : Nat) : Nat := field r (sketchBits d) 128
def trTag (t : Nat) : Nat := field t 64 64
def trPassage (t : Nat) : Nat := field t 24 40
def trVersion (t : Nat) : Nat := field t 0 8

/-- The sketch of a record. -/
def recordSketch (d r : Nat) : Nat := field r 0 (sketchBits d)

/-- Record `i` of an extent. -/
def recordAt (s : State) (d : Nat) (e : Extent) (i : Nat) : Nat := natAt s (recordAddr d e i) (sketchBytes d)

/-- The records of an extent, in stored order. -/
def extentRecords (s : State) (d : Nat) (e : Extent) : List Nat := (List.range e.count).map (recordAt s d e)

/-- The extents of a list. -/
def listExtents (x : Index) (l : Nat) : List Extent := (tabGet x.extents l).getD []

/-- All extents of an index. -/
def allExtents (x : Index) : List Extent := (x.extents.map Prod.snd).flatten

/-- Old extents that a scan may still read. -/
def liveRetired (s : State) (x : Index) : List (Extent × List Nat) := x.retired.filter (fun r => r.2.any (isOpen s))

/-- Stripes of the list area in use: the copies, the extents, those that scans still read, and those of the durable
copy, which stay valid until the next copy (R220). -/
def usedStripes (s : State) (x : Index) : List (Nat × Nat) :=
  let kept := match tabGet s.copies (ixListArea x.desc) with
    | some c => allExtents c
    | none => []
  (0, ixCopyStripes x.desc) ::
    (allExtents x ++ (liveRetired s x).map Prod.fst ++ kept).map (fun e => (e.start, extentStripes x.desc e))

/-- The first gap of `n` among used ranges, at or above `lo` and ending by `hi`. -/
def firstGap (used : List (Nat × Nat)) (lo hi n : Nat) : Option Nat :=
  let us := sortBy (fun a b => a.1 < b.1) (used.filter (fun u => u.2 != 0))
  let step (acc : Nat × Option Nat) (u : Nat × Nat) : Nat × Option Nat :=
    match acc.2 with
    | some _ => acc
    | none => if acc.1 + n ≤ u.1 then (acc.1, some acc.1) else (Nat.max acc.1 (u.1 + u.2), none)
  match us.foldl step (lo, none) with
  | (_, some a) => some a
  | (a, none) => if a + n ≤ hi then some a else none

/-- Records put into a list in an epoch: the list's newest extent of that epoch takes what its last stripe and the
stripes behind it hold, and a new extent takes the rest.  Answers the index and the records' addresses. -/
def placeRecords (s : State) (x : Index) (l epoch n : Nat) : Option (Index × List Nat) :=
  let d := x.desc
  let hi := objectSize s (ixListArea d) / stripeBytes
  let es := listExtents x l
  let fresh (m : Nat) : Option (List Extent) :=
    if m = 0 then some [] else (firstGap (usedStripes s x) 0 hi (ceilDiv m (perStripe d))).map
      (fun a => [⟨epoch, a, m⟩])
  let grown : Option (List Extent × List Extent × Nat) :=
    match es.getLast? with
    | some e =>
      if e.epoch == epoch then
        let e' : Extent := { e with count := e.count + n }
        let from_ := e.start + extentStripes d e
        let more := extentStripes d e' - extentStripes d e
        if more = 0 || firstGap (usedStripes s x) from_ (Nat.min hi (from_ + more)) more == some from_ then
          some (es.dropLast, [e'], e.count)
        else
          let room := extentStripes d e * perStripe d - e.count
          (fresh (n - room)).map (fun f => (es.dropLast, { e with count := e.count + room } :: f, e.count))
      else (fresh n).map (fun f => (es, f, 0))
    | none => (fresh n).map (fun f => (es, f, 0))
  match grown with
  | some (old, new, skip) =>
    let addrs := ((new.map (fun e => (List.range e.count).map (recordAddr d e))).flatten).drop skip
    let x' := { x with extents := tabSet x.extents l (old ++ new) }
    if ixExtentSlots d < (allExtents x').length then none else some (x', addrs)
  | none => none

/-! ### Writing several ranges at once -/

/-- Several writes made ready together: the tier accepts them, their channels are up, and staging has room for all. -/
def prepareWrites (s : State) (ws : List (Nat × List Nat)) : WritePrep :=
  match prepareUnits s ((ws.map (fun w => unitsOfRange w.1 w.2.length)).flatten) with
  | .ready t =>
    let fs := (ws.map (fun w => flashStripes t w.1 w.2.length)).flatten
    if fs.isEmpty then .ready t
    else if reg t Key.FLASH_STATE == 4 then .fail s Code.POOL_EXHAUSTED
    else if fs.any (fun k => !channelUp t (channelOf k)) then .fail s Code.ECC_UNCORRECTABLE
    else if inForce t Key.STORE_STAGING_LIMIT < stagedBytes t + (ws.map (fun w => w.2.length)).sum then .wait t
    else .ready t
  | p => p

/-- Several writes performed. -/
def writeAll (s : State) (ws : List (Nat × List Nat)) : State := ws.foldl (fun t w => writeBytes t w.1 w.2) s

/-- Record writes performed: a stripe whose first record is among them is new to its list and clear behind them. -/
def writeRecords (s : State) (ws : List (Nat × List Nat)) : State :=
  let dev := (ws.filter (fun w => w.1 % stripeBytes == 0)).foldl (fun m w => memClear m w.1 stripeBytes) s.mem.dev
  writeAll { s with mem := { s.mem with dev := dev } } ws

/-- Several writes of a command: all of them, or none. -/
def withWrites (s : State) (id : Nat) (ws : List (Nat × List Nat)) (go : State → State) : State :=
  match prepareWrites s ws with
  | .ready t => go t
  | .wait t => t
  | .fail t st => finish t id st 0

/-! ### Ingestion (R65, R213, R214) -/

/-- Storage PARAMS (Table 3.6). -/
def stAddr (e : Nat) : Nat := param e 511 448
def stCount (e : Nat) : Nat := param e 447 416
def stLength (e : Nat) : Nat := param e 415 384
def stFirst (e : Nat) : Nat := param e 383 344
def stList (e : Nat) : Nat := param e 343 320
def stIndex (e : Nat) : Nat := param e 319 304

/-- The passages that a write names. -/
def stPassages (e : Nat) : List Nat := (List.range (stCount e)).map (fun i => stFirst e + i)

/-- A write may not name a LIVE or DELETED passage. -/
def passageClosed (x : Index) (p : Nat) : Bool :=
  match tabGet x.passages p with
  | some .pending => false
  | some _ => true
  | none => false

/-- Each passage that a write names becomes PENDING, and the pending epoch has been reached. -/
def makePending (x : Index) (ps : List Nat) : Index :=
  { x with passages := ps.foldl (fun t p => tabSet t p .pending) x.passages, touched := true }

/-- A write to an index waits while an earlier PUBLISH of the index is open: it goes to the next pending epoch (R67). -/
def publishAhead (s : State) (i id : Nat) : Bool :=
  s.jobs.any (fun p => p.1 < id && openJob p.2 && p.2.opcode == Op.PUBLISH && stIndex p.2.entry == i)

/-- The checks that the storage commands share (Table 3.7). -/
def storageCheck (s : State) (e : Nat) (bad : Index → Bool) : Nat :=
  match indexOf s (stIndex e) with
  | some x => if bad x then Code.BAD_FIELD else Code.OK
  | none => Code.BAD_FIELD

/-- The passages of a command leave the index's capacity. -/
def beyond (x : Index) (e : Nat) : Bool := ixCapacity x.desc < stFirst e + stCount e

/-- One step of a storage command on its index. -/
def onIndex (s : State) (id : Nat) (j : Job) (go : Nat → Index → State) : State :=
  match tabGet s.indexes (stIndex j.entry) with
  | some x => if publishAhead s (stIndex j.entry) id then s else go (stIndex j.entry) x
  | none => finish s id Code.BAD_FIELD 0

/-- A passage record at the head of a list of bytes (Table 10.5): its bytes and what follows it, or a status. -/
def passageRecord (bs : List Nat) : Nat ⊕ (List Nat × List Nat) :=
  let h := ofLeBytes (bs.take 8)
  let n := field h 8 32
  let bytes := 8 + 8 * ceilDiv n 2
  if bs.length < 8 then .inl Code.BAD_FIELD
  else if field h 0 8 != 1 then .inl Code.VERSION_UNSUPPORTED
  else if field h 40 24 != 0 || 65536 < n || bs.length < bytes then .inl Code.BAD_FIELD
  else
    let ts := (List.range n).map (fun i => ofLeBytes ((bs.drop (8 + 4 * i)).take 4))
    if ts.any (fun t => field t 20 11 != 0) then .inl Code.BAD_FIELD
    else .inr (bs.take bytes, bs.drop bytes)

/-- `n` consecutive passage records, or the first failing one's status. -/
def passageRecords : Nat → List Nat → Nat ⊕ List (List Nat)
  | 0, _ => .inr []
  | n + 1, bs =>
    match passageRecord bs with
    | .inl st => .inl st
    | .inr (r, rest) =>
      match passageRecords n rest with
      | .inl st => .inl st
      | .inr rs => .inr (r :: rs)

/-- A passage record gets a place in the text area, behind the directory. -/
def placeText (s : State) (x : Index) (p n : Nat) : Option (Index × Nat) :=
  let d := x.desc
  let kept := match tabGet s.copies (ixListArea d) with
    | some c => c.texts.map Prod.snd
    | none => []
  let others := (x.texts.filter (fun t => t.1 != p)).map Prod.snd
  match firstGap (others ++ kept) (8 * ixCapacity d) (objectSize s (ixTextArea d)) n with
  | some a => some ({ x with texts := tabSet x.texts p (a, n) }, a)
  | none => none

/-- Places for the records of consecutive passages. -/
def placeTexts (s : State) : Index → Nat → List (List Nat) → Option (Index × List (Nat × List Nat))
  | x, _, [] => some (x, [])
  | x, p, r :: rs =>
    match placeText s x p r.length with
    | some (x', a) =>
      match placeTexts s x' (p + 1) rs with
      | some (x'', ws) => some (x'', (ixTextArea x.desc + a, r) :: ws)
      | none => none
    | none => none

def writePassagesSpec : CmdSpec where
  used _ := usedBits [(511, 448), (447, 416), (415, 384), (383, 344), (319, 304)]
  check s _ e := storageCheck s e (fun x => beyond x e || !rangeOk s (stAddr e) (stLength e))
  noop e := stCount e == 0
  atAdmission := noAdmit

/-- WRITE_PASSAGES. -/
def writePassagesBody (s : State) (id : Nat) (j : Job) : State :=
  onIndex s id j (fun i x =>
    let e := j.entry
    if (stPassages e).any (passageClosed x) then finish s id Code.BAD_FIELD 0
    else withRead s id (stAddr e) (stLength e) (fun s bs =>
      match passageRecords (stCount e) bs with
      | .inl st => finish s id st 0
      | .inr rs =>
        match placeTexts s x (stFirst e) rs with
        | some (x', ws) => withWrites s id ws (fun t =>
            finish (updIndex (writeAll t ws) i (fun _ => makePending x' (stPassages e))) id Code.OK (rs.map List.length).sum)
        | none => finish s id Code.POOL_EXHAUSTED 0))

def writePassagesSources (_ : State) (j : Job) : List (Nat × Nat) := [(stAddr j.entry, stLength j.entry)]

def execWritePassages (job : Nat) (s : State) : Host.Outcome State Fault Refusal :=
  .next (runJob s job Op.WRITE_PASSAGES writePassagesSources writePassagesBody)

/-- Bytes of vector records in the source of WRITE_VECTORS. -/
def vectorSource (s : State) (e : Nat) : Nat :=
  match tabGet s.indexes (stIndex e) with
  | some x => stCount e * vBytes x.desc
  | none => 0

def writeVectorsSpec : CmdSpec where
  used _ := usedBits [(511, 448), (447, 416), (383, 344), (319, 304)]
  check s _ e := storageCheck s e (fun x => beyond x e || !rangeOk s (stAddr e) (vectorSource s e))
  noop e := stCount e == 0
  atAdmission := noAdmit

/-- WRITE_VECTORS. -/
def writeVectorsBody (s : State) (id : Nat) (j : Job) : State :=
  onIndex s id j (fun i x =>
    let e := j.entry
    let n := vBytes x.desc
    if (stPassages e).any (passageClosed x) then finish s id Code.BAD_FIELD 0
    else withRead s id (stAddr e) (vectorSource s e) (fun s bs =>
      let ws := (List.range (stCount e)).map (fun k =>
        (ixVectorArea x.desc + (stFirst e + k) * vStride x.desc, (bs.drop (k * n)).take n))
      withWrites s id ws (fun t =>
        let x' := { x with vectors := (stPassages e).foldl (fun l p => if l.contains p then l else insertUp p l) x.vectors }
        finish (updIndex (writeAll t ws) i (fun _ => makePending x' (stPassages e))) id Code.OK bs.length)))

def writeVectorsSources (s : State) (j : Job) : List (Nat × Nat) := [(stAddr j.entry, vectorSource s j.entry)]

def execWriteVectors (job : Nat) (s : State) : Host.Outcome State Fault Refusal :=
  .next (runJob s job Op.WRITE_VECTORS writeVectorsSources writeVectorsBody)

/-- Bytes of sketch records in the source of WRITE_SKETCHES. -/
def sketchSource (s : State) (e : Nat) : Nat :=
  match tabGet s.indexes (stIndex e) with
  | some x => stCount e * sketchBytes x.desc
  | none => 0

/-- The status of the first failing sketch record; OK when none fails. -/
def sketchRecordsCheck (x : Index) : List Nat → Nat
  | [] => Code.OK
  | r :: rs =>
    let t := trailerOf x.desc r
    if trVersion t != 1 then Code.VERSION_UNSUPPORTED
    else if field t 8 16 != 0 || ixCapacity x.desc ≤ trPassage t || passageClosed x (trPassage t) then Code.BAD_FIELD
    else sketchRecordsCheck x rs

def writeSketchesSpec : CmdSpec where
  used _ := usedBits [(511, 448), (447, 416), (343, 320), (319, 304)]
  check s _ e := storageCheck s e (fun x => ixLists x.desc ≤ stList e || !rangeOk s (stAddr e) (sketchSource s e))
  noop e := stCount e == 0
  atAdmission := noAdmit

/-- WRITE_SKETCHES: the records go behind those of the list in the pending epoch; a stripe that is new to the list is
clear behind them. -/
def writeSketchesBody (s : State) (id : Nat) (j : Job) : State :=
  onIndex s id j (fun i x =>
    let e := j.entry
    let n := sketchBytes x.desc
    withRead s id (stAddr e) (sketchSource s e) (fun s bs =>
      let rs := (List.range (stCount e)).map (fun k => (bs.drop (k * n)).take n)
      let codes := rs.map ofLeBytes
      let st := sketchRecordsCheck x codes
      if st != Code.OK then finish s id st 0
      else match placeRecords s x (stList e) (x.current + 1) (stCount e) with
        | none => finish s id Code.POOL_EXHAUSTED 0
        | some (x', addrs) =>
          withWrites s id (addrs.zip rs) (fun t =>
            let ps := codes.map (fun r => trPassage (trailerOf x.desc r))
            finish (updIndex (writeRecords t (addrs.zip rs)) i (fun _ => makePending x' ps)) id Code.OK bs.length)))

def writeSketchesSources (s : State) (j : Job) : List (Nat × Nat) := [(stAddr j.entry, sketchSource s j.entry)]

def execWriteSketches (job : Nat) (s : State) : Host.Outcome State Fault Refusal :=
  .next (runJob s job Op.WRITE_SKETCHES writeSketchesSources writeSketchesBody)

def deleteSpec : CmdSpec where
  used _ := usedBits [(447, 416), (383, 344), (319, 304)]
  check s _ e := storageCheck s e (fun x => beyond x e)
  noop e := stCount e == 0
  atAdmission := noAdmit

/-- The passages of a DELETE that are LIVE or PENDING. -/
def deletable (x : Index) (e : Nat) : List Nat :=
  (stPassages e).filter (fun p => match tabGet x.passages p with
    | some .pending => true
    | some .live => true
    | _ => false)

/-- One passage deleted in the pending epoch. -/
def deletePassage (x : Index) (p : Nat) : Index :=
  { x with
    passages := tabSet x.passages p .deleted
    tombs := tabSet x.tombs p ⟨x.current + 1, tabGet x.passages p == some .pending⟩
    touched := true }

/-- DELETE (R214): all or nothing. -/
def deleteBody (s : State) (id : Nat) (j : Job) : State :=
  onIndex s id j (fun i x =>
    let ps := deletable x j.entry
    if ixTombSlots x.desc < x.tombs.length + ps.length then finish s id Code.POOL_EXHAUSTED 0
    else
      let x' := { ps.foldl deletePassage x with touched := true }
      finish (updIndex s i (fun _ => x')) id Code.OK ps.length)

def execDelete (job : Nat) (s : State) : Host.Outcome State Fault Refusal :=
  .next (runJob s job Op.DELETE noSources deleteBody)

/-! ### PUBLISH (R67, R217, R220) -/

def publishSpec : CmdSpec where
  used _ := usedBits [(319, 304)]
  check s _ e := storageCheck s e (fun _ => false)
  noop := noZero
  atAdmission := noAdmit

/-- Open commands on an index before one, of some opcodes. -/
def openBefore (s : State) (i id : Nat) (ops : List Nat) : Bool :=
  s.jobs.any (fun p => p.1 < id && openJob p.2 && ops.contains p.2.opcode && stIndex p.2.entry == i)

/-- Passages with a sketch record in the pending epoch. -/
def sketched (s : State) (x : Index) : List Nat :=
  ((allExtents x).filter (fun e => e.epoch == x.current + 1)).flatMap
    (fun e => (extentRecords s x.desc e).map (fun r => trPassage (trailerOf x.desc r)))

/-- The lowest PENDING passage that lacks a vector record, a passage record or a sketch record. -/
def incomplete (s : State) (x : Index) : Option Nat :=
  let sk := sketched s x
  (x.passages.find? (fun p => p.2 == .pending &&
    !(x.vectors.contains p.1 && tabHas x.texts p.1 && sk.contains p.1))).map Prod.fst

/-- The pending epoch becomes current in one step: its PENDING passages are LIVE. -/
def switchEpoch (x : Index) : Index :=
  { x with
    current := x.current + 1
    passages := tabMap x.passages (fun _ st => if st == .pending then .live else st)
    touched := false }

/-- A RERANK of an index is open. -/
def rerankOpen (s : State) (i : Nat) : Bool :=
  s.jobs.any (fun p => openJob p.2 && p.2.opcode == Op.RERANK && field p.2.entry 128 16 == i)

/-- PUBLISH; a READ_ONLY tier refuses it (R189).  Its progress is the order number of the staged writes that it makes durable. -/
def publishBody (copyGood : Bool) (s : State) (id : Nat) (j : Job) : State :=
  let i := stIndex j.entry
  match tabGet s.indexes i with
  | none => finish s id Code.BAD_FIELD 0
  | some x =>
    if openBefore s i id [Op.WRITE_PASSAGES, Op.WRITE_VECTORS, Op.WRITE_SKETCHES, Op.DELETE, Op.PUBLISH] then s
    else if reg s Key.FLASH_STATE == 4 then finish s id Code.POOL_EXHAUSTED 0
    else match j.work with
    | [order] =>
      match flushStep s order with
      | (t, none) => t
      | (t, some st) =>
        if st != Code.OK then finish t id st 0
        else match incomplete t x with
          | some p => finish t id Code.BAD_FIELD p
          | none =>
            if rerankOpen t i then s
            else if !copyGood then finish (bump t Key.SEARCH_CORRUPT_EVENTS 1) id Code.INDEX_CORRUPT 0
            else finish (copyIndexes (updIndex t i switchEpoch)) id Code.OK (x.current + 1)
    | _ =>
      if x.touched then updJob s id (fun j => { j with phase := .running, work := [s.mem.order] })
      else finish s id Code.OK_NOOP x.current

def execPublish (job : Nat) (copyGood : Bool) (s : State) : Host.Outcome State Fault Refusal :=
  .next (runJob s job Op.PUBLISH noSources (publishBody copyGood))

/-! ### Index commands (R211, R212, R232) -/

/-- Search PARAMS (Table 10.8). -/
def srDest (e : Nat) : Nat := param e 511 448
def srSrc (e : Nat) : Nat := param e 447 384
def srMask (e : Nat) : Nat := param e 383 320
def srCand (e : Nat) : Nat := param e 383 320
def srMatch (e : Nat) : Nat := param e 319 256
def srEpoch (e : Nat) : Nat := param e 255 224
def srNprobe (e : Nat) : Nat := param e 223 200
def srWiden (e : Nat) : Nat := param e 199 176
def srKscan (e : Nat) : Nat := param e 175 160
def srCandCount (e : Nat) : Nat := param e 175 160
def srKout (e : Nat) : Nat := param e 159 144
def srIndex (e : Nat) : Nat := param e 143 128
def srMetric (e : Nat) : Nat := param e 127 126
def srPocket (e : Nat) : Bool := paramBit e 125
def srSpan (e : Nat) : Bool := paramBit e 124
def srQcount (e : Nat) : Nat := param e 123 116

def indexCreateSpec : CmdSpec where
  used _ := usedBits [(143, 128), (447, 384)]
  check s _ e := firstBad
    [(reg s Key.SEARCH_MAX_INDEXES ≤ srIndex e || srSrc e % 64 != 0, Code.BAD_FIELD),
     (!rangeOk s (srSrc e) 128, Code.BAD_FIELD)]
  noop := noZero
  atAdmission := noAdmit

/-- The descriptor differs from a stored one in a field other than OPEN. -/
def descDiffers (a b : Nat) : Bool := setField a 8 1 0 != setField b 8 1 0

/-- INDEX_CREATE (R211). -/
def indexCreateBody (s : State) (id : Nat) (j : Job) : State :=
  let i := srIndex j.entry
  withRead s id (srSrc j.entry) 128 (fun s bs =>
    let d := ofLeBytes bs
    let areas := ixAreas d
    let list := ixListArea d
    if field d 0 8 != 1 then finish s id Code.VERSION_UNSUPPORTED 0
    else if tabHas s.indexes i || ixFieldsBad d || (ixAreaNeeds d).any (areaBad s) ||
        (distinct areas).length != 5 || areas.any (holdsIndex s) then finish s id Code.BAD_FIELD 0
    else if ixOpen d then
      if readBad s list (ixCopyStripes d * stripeBytes) then finish s id Code.ECC_UNCORRECTABLE 0
      else match tabGet s.copies list with
        | none => finish (bump s Key.SEARCH_CORRUPT_EVENTS 1) id Code.INDEX_CORRUPT 0
        | some c =>
          if descDiffers d c.desc then finish s id Code.BAD_FIELD 0
          else finish (touchRange { s with indexes := tabSet s.indexes i c } list (ixCopyStripes d * stripeBytes)) id
            Code.OK 0
    else
      let s1 := { s with
        copies := tabDel s.copies list
        mem := { s.mem with dev := memClear s.mem.dev (ixStateArea d) (ixStateBytes d) } }
      finish { s1 with indexes := tabSet s1.indexes i { desc := d } } id Code.OK 0)

def indexCreateSources (_ : State) (j : Job) : List (Nat × Nat) := [(srSrc j.entry, 128)]

def execIndexCreate (job : Nat) (s : State) : Host.Outcome State Fault Refusal :=
  .next (runJob s job Op.INDEX_CREATE indexCreateSources indexCreateBody)

/-- From its admission a drop closes the index to later commands. -/
def indexDropAdmit (s : State) (id : Nat) : State :=
  match tabGet s.jobs id with
  | some j => match indexOf s (srIndex j.entry) with
    | some _ => updIndex s (srIndex j.entry) (fun x => { x with dropping := some id })
    | none => s
  | none => s

def indexDropSpec : CmdSpec where
  used _ := usedBits [(143, 128)]
  check _ _ e := firstBad [(255 < srIndex e, Code.BAD_FIELD)]
  noop := noZero
  atAdmission := indexDropAdmit

/-- Staged writes of an object are discarded: its staged units go, and its contents are those on flash. -/
def discardStaged (s : State) (a : Nat) : State :=
  let n := objectSize s a
  let mine := s.mem.staged.filter (fun p => a ≤ p.1 * 4096 && p.1 * 4096 < a + n)
  { s with mem := { s.mem with
      staged := s.mem.staged.filter (fun p => !(a ≤ p.1 * 4096 && p.1 * 4096 < a + n))
      dev := mine.foldl (fun m p => memCopy s.mem.durable (p.1 * 4096) 4096 m (p.1 * 4096)) s.mem.dev } }

/-- INDEX_DROP (R212): it waits for the commands that pinned an epoch and the open storage commands on the index. -/
def indexDropBody (s : State) (id : Nat) (j : Job) : State :=
  let i := srIndex j.entry
  match tabGet s.indexes i with
  | none => finish s id Code.OK_NOOP 0
  | some x =>
    if x.dropping != some id then finish s id Code.OK_NOOP 0
    else if !(openPins s x).isEmpty || openBefore s i id
        [Op.WRITE_PASSAGES, Op.WRITE_VECTORS, Op.WRITE_SKETCHES, Op.DELETE, Op.PUBLISH] then s
    else
      let s1 := [ixListArea x.desc, ixVectorArea x.desc, ixTextArea x.desc].foldl discardStaged s
      finish { s1 with indexes := tabDel s1.indexes i, copies := tabDel s1.copies (ixListArea x.desc) } id Code.OK 0

def execIndexDrop (job : Nat) (s : State) : Host.Outcome State Fault Refusal :=
  .next (runJob s job Op.INDEX_DROP noSources indexDropBody)

def indexStatusSpec : CmdSpec where
  used _ := usedBits [(143, 128), (511, 448)]
  check s _ e := match indexOf s (srIndex e) with
    | some _ => firstBad
        [(srDest e % 64 != 0, Code.BAD_FIELD), (!rangeOk s (srDest e) 64, Code.BAD_FIELD)]
    | none => Code.BAD_FIELD
  noop := noZero
  atAdmission := noAdmit

/-! ### Compaction (R218 to R220) -/

/-- Records of a list, and those of them whose passage has a tombstone. -/
def listDead (s : State) (x : Index) (l : Nat) : Nat × Nat :=
  let rs := (listExtents x l).flatMap (extentRecords s x.desc)
  (rs.length, (rs.filter (fun r => tabHas x.tombs (trPassage (trailerOf x.desc r)))).length)

/-- A list is due for compaction. -/
def listDue (s : State) (x : Index) (l : Nat) : Bool :=
  let o := oldestOf s x
  let old := ((listExtents x l).filter (fun e => e.epoch ≤ o)).length
  let n := listDead s x l
  inForce s Key.SEARCH_COMPACT_EXTENTS ≤ old ||
    (0 < n.2 && inForce s Key.SEARCH_COMPACT_DEAD * n.1 ≤ 100 * n.2)

/-- The lists due for compaction, rising. -/
def dueLists (s : State) (x : Index) : List Nat := (tabKeys x.extents).filter (listDue s x)

/-- Every record that the index's directory, or a scan of old extents, may still read. -/
def allRecords (s : State) (x : Index) : List Nat :=
  (allExtents x ++ (liveRetired s x).map Prod.fst).flatMap (extentRecords s x.desc)

/-- The end of a round: the tombstones that the round covered go, and their passages become FREE with their text space,
once no record of them is left to be seen (R219). -/
def endRound (s : State) (x : Index) : Index :=
  let rs := (allRecords s x).map (fun r => trPassage (trailerOf x.desc r))
  let free := (x.tombs.filter (fun t => t.2.epoch ≤ x.roundEpoch && !rs.contains t.1)).map Prod.fst
  { x with
    tombs := x.tombs.filter (fun t => !free.contains t.1)
    passages := x.passages.filter (fun p => !free.contains p.1)
    texts := x.texts.filter (fun p => !free.contains p.1)
    vectors := x.vectors.filter (fun p => !free.contains p)
    cursor := 0
    roundEpoch := oldestOf s x }

/-- Open SEARCHes of an index. -/
def scanning (s : State) (i : Nat) : List Nat := (s.queries.filter (fun q => q.2.index == i && isOpen s q.1)).map Prod.fst

/-- One list compacted: its index afterwards and the records written, or none where they find no room. -/
def compactList (s : State) (i : Nat) (x : Index) (l : Nat) : Option (Index × List (Nat × List Nat)) :=
  let o := oldestOf s x
  let d := x.desc
  let old := (listExtents x l).filter (fun e => e.epoch ≤ o)
  let keep := (listExtents x l).filter (fun e => o < e.epoch)
  let dead (r : Nat) : Bool := hiddenAt x o (trPassage (trailerOf d r))
  let rs := (old.flatMap (extentRecords s d)).filter (fun r => !dead r)
  let sorted := sortBy (fun a b => trPassage (trailerOf d a) < trPassage (trailerOf d b)) rs
  let x1 := { x with
    extents := tabDel x.extents l
    retired := liveRetired s x ++ old.map (fun e => (e, scanning s i)) }
  let busy : Index := { x1 with extents := tabSet x1.extents l (old ++ keep) }
  if sorted.isEmpty then some ({ x1 with extents := if keep.isEmpty then x1.extents else tabSet x1.extents l keep }, [])
  else match firstGap (usedStripes s busy) 0 (objectSize s (ixListArea d) / stripeBytes)
      (ceilDiv sorted.length (perStripe d)) with
    | some a =>
      let e : Extent := ⟨o, a, sorted.length⟩
      let x2 := { x1 with extents := tabSet x1.extents l (e :: keep) }
      if ixExtentSlots d < (allExtents x2).length then none
      else some (x2, sorted.mapIdx (fun k r => (recordAddr d e k, leBytes (sketchBytes d) r)))
    | none => none

/-- COMPACTION of a list: the due lists are taken in ascending order, round after round; with none left the round
ends. -/
def compaction (s : State) (i l : Nat) : State :=
  if !running s || inForce s Key.SEARCH_COMPACT_ENABLE != 1 || reg s Key.FLASH_STATE == 4 then s
  else match tabGet s.indexes i with
  | none => s
  | some x =>
    match (dueLists s x).find? (fun k => x.cursor ≤ k) with
    | none => updIndex s i (fun _ => endRound s x)
    | some k =>
      if k != l then s
      else match compactList s i x l with
        | none => updIndex s i (fun x => { x with cursor := l + 1 })
        | some (x', ws) =>
          match prepareWrites s ws with
          | .ready t =>
            bump (updIndex (writeRecords t ws) i (fun _ => { x' with cursor := l + 1 })) Key.SEARCH_COMPACTIONS 1
          | .wait t => t
          | .fail t _ => t

def execCompaction (index list : Nat) (s : State) : Host.Outcome State Fault Refusal := .next (compaction s index list)

/-- Passages in a state. -/
def passagesIn (x : Index) (st : PassageState) : Nat := (x.passages.filter (fun p => p.2 == st)).length

/-- The index status (Table 10.12). -/
def indexStatus (s : State) (x : Index) : Nat :=
  passagesIn x .live * 2 ^ 472 + passagesIn x .deleted * 2 ^ 432 + passagesIn x .pending * 2 ^ 392 +
    x.current * 2 ^ 352 + oldestOf s x * 2 ^ 320 + (openPins s x).length * 2 ^ 288 +
    ((allExtents x).length + (liveRetired s x).length) * 2 ^ 256 + x.tombs.length * 2 ^ 224 +
    (dueLists s x).length * 2 ^ 192 + 1

/-- INDEX_STATUS (R232); its RESULT is an open value. -/
def indexStatusBody (s : State) (id : Nat) (j : Job) : State :=
  match tabGet s.indexes (srIndex j.entry) with
  | some x =>
    withWrite s id (srDest j.entry) 64 (fun t =>
      let f := takeFree (writeBytes t (srDest j.entry) (leBytes 64 (indexStatus s x)))
      finish f.2 id Code.OK (f.1 % 2 ^ 64))
  | none => finish s id Code.BAD_FIELD 0

def execIndexStatus (job : Nat) (s : State) : Host.Outcome State Fault Refusal :=
  .next (runJob s job Op.INDEX_STATUS noSources indexStatusBody)

end Sys2Proof.Machine
end

