-- ==== Sys2Proof/Machine/Search.lean ====
section
/-! DEFINITION. Search (chapter 10): probe selection, the scan on the Cuffs, merge, repair and widening, exact scores,
RERANK, RECALL_PROBE, and searches across devices. -/

namespace Sys2Proof.Machine

/-! ### Exact scores (R227) -/

/-- The values of a vector record in a format: element codes in their containers, then a scale byte for each 32. -/
def recordValues (fmt dims v : Nat) : List Num :=
  if fmt == 0xB then (List.range dims).map (fun i => ofBf16 (field v (16 * i) 16))
  else
    let w := if fmt == 0 then 4 else 8
    (List.range dims).map (fun i =>
      (decodeElem fmt (field v (w * i) w)).mul (e8m0 (field v (w * dims + 8 * (i / 32)) 8)))

/-- The sums of R227 over groups of 8 dimensions, of some product of the two vectors' elements. -/
def groupSums (f : Num → Num → Num) : Nat → List Num → List Num → Num → Num
  | 0, _, _, acc => acc
  | n + 1, q, v, acc =>
    groupSums f n (q.drop 8) (v.drop 8) (fp32 (acc.add (Num.sum ((List.zipWith f (q.take 8) (v.take 8))))))

/-- The score of a vector for a query by a metric: 0 inner product, 1 cosine, 2 squared Euclidean. -/
def scoreOf (metric : Nat) (q v : List Num) : Num :=
  let n := q.length / 8
  let dot := groupSums Num.mul n q v .zero
  if metric == 0 then dot
  else if metric == 1 then
    let qq := groupSums (fun a _ => a.mul a) n q v .zero
    let vv := groupSums (fun _ b => b.mul b) n q v .zero
    if qq.isZero || vv.isZero then .zero
    else fp32 (quotient dot (fp32 ((fp32 (sqrtNum qq)).mul (fp32 (sqrtNum vv)))))
  else (groupSums (fun a b => (a.sub b).mul (a.sub b)) n q v .zero).neg

/-- The order of scores: larger first, then the lower passage number. -/
def scoreBefore (a b : Num × Nat) : Bool := Num.lt b.1 a.1 || (!Num.lt a.1 b.1 && a.2 < b.2)

/-- Address of the vector record of a passage. -/
def vectorAddr (d p : Nat) : Nat := ixVectorArea d + p * vStride d

/-- The score of a passage of an index. -/
def passageScore (s : State) (d metric : Nat) (q : List Num) (p : Nat) : Num :=
  scoreOf metric q (recordValues (ixVfmt d) (ixDims d) (natAt s (vectorAddr d p) (vBytes d)))

/-- The exact results of R227 over some passages: the best `k` with their scores, and how many scores were NaN. -/
def bestOf (scored : List (Num × Nat)) (k : Nat) : List (Num × Nat) × Nat :=
  let good := scored.filter (fun x => !x.1.isNan)
  ((sortBy scoreBefore good).take k, scored.length - good.length)

/-! ### Probe selection (R222) -/

/-- The lists of an index in rank order for a query: NaN scores last, by list number. -/
def rankLists (s : State) (d : Nat) (q : List Num) : List Nat :=
  let scored := (List.range (ixLists d)).map (fun l =>
    (scoreOf (ixCmetric d) q
      (recordValues (ixVfmt d) (ixDims d) (natAt s (ixCentroidArea d + l * vStride d) (vBytes d))), l))
  ((sortBy scoreBefore (scored.filter (fun x => !x.1.isNan))) ++ scored.filter (fun x => x.1.isNan)).map Prod.snd

/-- How many lists have been taken after widening round `w` (0: the probe set). -/
def takenAfter (e w lists : Nat) : Nat :=
  Nat.min lists (if w = 0 then srNprobe e else Nat.min (srNprobe e * (w + 1)) (srNprobe e + srWiden e))

/-- A widening round still has lists to give. -/
def canWiden (e w lists : Nat) : Bool := takenAfter e w lists < takenAfter e (w + 1) lists

/-! ### The scan (R223) -/

/-- Stripes that a channel moves in 400 µs at a rate. -/
def segmentLimit (rate : Nat) : Nat :=
  if rate == 4800 then 29 else if rate == 3600 then 21 else if rate == 3200 then 19 else if rate == 2400 then 14
  else if rate == 1600 then 9 else 4

/-- A list cut into pieces of at most `n`. -/
def chunks (n : Nat) : Nat → List Nat → List (List Nat)
  | 0, _ => []
  | k + 1, l => if l.isEmpty then [] else l.take n :: chunks n k (l.drop n)

/-- The channel of stripe `k` of the list area. -/
def areaChannel (d k : Nat) : Nat := channelOf (ixListArea d / stripeBytes + k)

/-- The segments of an extent. -/
def segmentsOf (s : State) (d l : Nat) (e : Extent) : List Segment :=
  let ks := (List.range (extentStripes d e)).map (fun i => e.start + i)
  let heads := ks.take 64
  heads.flatMap (fun h =>
    let mine := ks.filter (fun k => areaChannel d k == areaChannel d h)
    (chunks (segmentLimit (chan s (areaChannel d h)).rate) mine.length mine).map (fun c => ⟨l, e, c⟩))

/-- The work items of a list: its segments in address order. -/
def listItems (s : State) (x : Index) (l : Nat) : List Segment :=
  (sortBy (fun a b => a.start < b.start) (listExtents x l)).flatMap (segmentsOf s x.desc l)

/-- The records of a segment, in stored order. -/
def segmentRecords (s : State) (d : Nat) (g : Segment) : List Nat :=
  g.stripes.flatMap (fun k =>
    let i := (k - g.extent.start) * perStripe d
    (List.range (Nat.min (perStripe d) (g.extent.count - i))).map (fun n => recordAt s d g.extent (i + n)))

/-- The Cuff's and the Zipper's order: larger h first, then the lower passage number. -/
def hitBefore (a b : Hit) : Bool := b.h < a.h || (a.h == b.h && a.passage < b.passage)

/-- What a query asks of a record. -/
structure Probe where
  epoch  : Nat
  mask   : Nat
  want   : Nat
  sketch : Nat
  deriving DecidableEq, Repr

/-- The probe of a running search. -/
def probeOf (q : Query) (e : Nat) : Probe := ⟨q.epoch, srMask e, srMatch e, q.sketch⟩

/-- A record passes the tag filter. -/
def passesTag (p : Probe) (d r : Nat) : Bool := (trTag (trailerOf d r)) &&& p.mask == p.want || p.mask == 0

/-- The h of a record. -/
def hOf (p : Probe) (d r : Nat) : Nat := sketchBits d - popCount (sketchBits d) (p.sketch ^^^ recordSketch d r)

/-- A Cuff's local list for one query. -/
structure LocalTop where
  hits   : List Hit := []
  tooMany : Bool := false
  passed : Nat := 0
  deriving DecidableEq, Repr

/-- One record served: the local top 64, and overflow. -/
def serveRecord (x : Index) (p : Probe) (keep : Hit → Bool) (t : LocalTop) (r : Nat) : LocalTop :=
  let d := x.desc
  if !passesTag p d r then t
  else
    let t := { t with passed := t.passed + 1 }
    let e : Hit := { h := hOf p d r, passage := trPassage (trailerOf d r) }
    if !keep e then t
    else
      let within := t.hits.length < 64 || match t.hits.getLast? with
        | some f => hitBefore e f
        | none => true
      if !within then { t with tooMany := true }
      else if hiddenAt x p.epoch e.passage then t
      else
        let l := insertBy hitBefore e t.hits
        { t with hits := l.take 64, tooMany := t.tooMany || 64 < l.length }

/-- The bytes of a segment's stripes cannot be read. -/
def segmentBad (s : State) (d : Nat) (g : Segment) : Bool :=
  g.stripes.any (fun k => readBad s (ixListArea d + k * stripeBytes) stripeBytes)

/-- The error that a segment's records show (R229): a passage beyond the capacity, or a damaged record. -/
def segmentError (s : State) (x : Index) (g : Segment) : Option Nat :=
  if segmentBad s x.desc g then some Code.ECC_UNCORRECTABLE
  else
    let ts := (segmentRecords s x.desc g).map (trailerOf x.desc)
    if ts.any (fun t => trVersion t != 1) then some Code.INDEX_CORRUPT
    else if ts.any (fun t => ixCapacity x.desc ≤ trPassage t) then some Code.ECC_UNCORRECTABLE
    else none

/-- One hit merged into a list: one entry per passage, the larger h kept. -/
def mergeHit (l : List Hit) (e : Hit) : List Hit :=
  match l.find? (fun f => f.passage == e.passage) with
  | some f =>
    let big := { h := Nat.max e.h f.h, passage := e.passage, conflict := e.conflict || f.conflict || e.h != f.h : Hit }
    insertBy hitBefore big (l.filter (fun f => f.passage != e.passage))
  | none => insertBy hitBefore e l

/-- Entry K_SCAN of a merge. -/
def cutOf (k : Nat) (l : List Hit) : Option Hit := l[k - 1]?

/-- A query takes what a pass handed on. -/
def takePass (kScan : Nat) (q : Query) (g : Segment) (n : Nat) (t : LocalTop) : Query :=
  let m := (t.hits.foldl mergeHit q.merged)
  { q with
    merged := m.take kScan
    conflict := q.conflict || m.any (fun e => e.conflict)
    scanned := q.scanned + n
    passed := q.passed + t.passed
    overs := match t.tooMany, t.hits.getLast? with
      | true, some f => q.overs ++ [⟨g, f⟩]
      | _, _ => q.overs }

/-- The stripes of a segment, as ranges of the list area. -/
def segmentRanges (d : Nat) (g : Segment) : List (Nat × Nat) :=
  g.stripes.map (fun k => (ixListArea d + k * stripeBytes, stripeBytes))

/-- One pass of a segment for one query: skipped where the extent is newer than the query's epoch. -/
def passFor (s : State) (x : Index) (e : Nat) (g : Segment) (q : Query) : Query :=
  let q := { q with items := q.items.filter (fun i => i != g) }
  if q.epoch < g.extent.epoch then q
  else match segmentError s x g with
    | some st => { q with failed := some (g.list, st), items := [] }
    | none =>
      let rs := segmentRecords s x.desc g
      takePass (srKscan e) q g rs.length (rs.foldl (serveRecord x (probeOf q e) (fun _ => true)) {})

/-- The open searches that a Cuff may serve, in order of admission: those that may start a segment, and those of a leaving
context that has a segment open on the Cuff (R90). -/
def servable (s : State) (c : Nat) : List (Nat × Query) :=
  s.queries.filter (fun p => match tabGet s.jobs p.1 with
    | some j =>
      let x := ctxOf s j.ctx
      (eligible s j Op.SEARCH && j.cancel.isNone) ||
        (x.leaving && x.state == .running && x.openUnits.contains c && openJob j)
    | none => false)

/-- The segment of a Cuff's oldest item. -/
def oldestItem (s : State) (c : Nat) : Option (Nat × Segment) :=
  (servable s c).findSome? (fun p =>
    match tabGet s.indexes p.2.index with
    | some x => (p.2.items.find? (fun g => areaChannel x.desc (g.stripes.headD 0) == c)).map (fun g => (p.2.index, g))
    | none => none)

/-- The open searches that a Cuff's next pass serves, up to 64. -/
def passUsers (s : State) (c i : Nat) (g : Segment) : List (Nat × Query) :=
  ((servable s c).filter (fun p => p.2.index == i && p.2.items.contains g)).take 64

/-- The contexts of some commands. -/
def ctxsOfJobs (s : State) (ids : List Nat) : List Nat :=
  distinct (ids.filterMap (fun id => (tabGet s.jobs id).map (fun j => j.ctx)))

/-- CUFF_PASS (R224): the Cuff serves the segment of its oldest item for every waiting item that names it, up to 64. -/
def cuffPass (s : State) (c : Nat) : State :=
  match oldestItem s c with
  | none => s
  | some (i, g) =>
    match tabGet s.indexes i with
    | none => s
    | some x =>
      let users := passUsers s c i g
      let n := (segmentRecords s x.desc g).length
      let s1 := users.foldl (fun t p =>
        match tabGet t.jobs p.1 with
        | some j => progressOf { t with queries := tabUpd t.queries p.1 (passFor s x j.entry g) } j.ctx
        | none => t) s
      let s2 := countRegion (bump (touchRanges s1 (segmentRanges x.desc g)) Key.SEARCH_RECORDS_SCANNED n) (c / 16) 0x209 n
        { inst := c }
      let s3 := if 1 < users.length then countRegion (bump s2 Key.SEARCH_SHARED_PASSES 1) (c / 16) 0x20A 1 { inst := c }
        else s2
      (ctxsOfJobs s (users.map Prod.fst)).foldl (fun t k => closeUnit t k c) s3

def execCuffPass (cuff : Nat) (s : State) : Host.Outcome State Fault Refusal := .next (cuffPass s cuff)

/-! ### Merge and repair (R225) -/

/-- The first overflowed pass whose floor ranks before the cut. -/
def toRepair (kScan : Nat) (q : Query) : Option Overflow :=
  q.overs.find? (fun o => match cutOf kScan q.merged with
    | some c => hitBefore o.floor c
    | none => true)

/-- A rescan of a segment: the entries behind the floor that the pass had, and before the cut. -/
def repair (s : State) (x : Index) (e : Nat) (q : Query) (o : Overflow) : Query :=
  let q := { q with overs := q.overs.filter (fun p => p != o), repairs := q.repairs + 1 }
  let keep (h : Hit) : Bool := hitBefore o.floor h && match cutOf (srKscan e) q.merged with
    | some c => hitBefore h c
    | none => true
  let rs := segmentRecords s x.desc o.segment
  takePass (srKscan e) q o.segment rs.length (rs.foldl (serveRecord x (probeOf q e) keep) {})

/-! ### The exact search of some lists, as R225 leaves it -/

/-- Every visible, tag-passing record of some lists at an epoch, merged one per passage. -/
def exactHits (s : State) (x : Index) (p : Probe) (lists : List Nat) (kScan : Nat) : List Hit :=
  let rs := lists.flatMap (fun l => ((listExtents x l).filter (fun e => e.epoch ≤ p.epoch)).flatMap
    (extentRecords s x.desc))
  let hs := (rs.filter (fun r => passesTag p x.desc r && !hiddenAt x p.epoch (trPassage (trailerOf x.desc r)))).map
    (fun r => ({ h := hOf p x.desc r, passage := trPassage (trailerOf x.desc r) } : Hit))
  (hs.foldl mergeHit []).take kScan

/-- The first error among some lists: the list, and the status. -/
def listsError (s : State) (x : Index) (lists : List Nat) (epoch : Nat) : Option (Nat × Nat) :=
  lists.findSome? (fun l => (((listItems s x l).filter (fun g => g.extent.epoch ≤ epoch)).findSome?
    (segmentError s x)).map (fun st => (l, st)))

/-! ### Queries (R221) -/

/-- Bytes of a query record. -/
def queryBytes (d : Nat) : Nat := 2 * ixDims d + sketchBits d / 8

/-- The BF16 words of a query record. -/
def queryCodes (d : Nat) (bs : List Nat) : List Nat :=
  (List.range (ixDims d)).map (fun i => ofLeBytes ((bs.drop (2 * i)).take 2))

/-- The sketch of a query record. -/
def querySketch (d : Nat) (bs : List Nat) : Nat := ofLeBytes ((bs.drop (2 * ixDims d)).take (sketchBits d / 8))

/-- Where a query lies in a Pocket. -/
def srLb (e : Nat) : Nat := field (srSrc e) 16 16
def srRow (e : Nat) : Nat := field (srSrc e) 0 16

/-- A command reads rows of a Pocket of its context, as one accessor (R155), or waits for its slots. -/
def readRows (s : State) (id c lb row n : Nat) (go : State → List Nat → State) : State :=
  let x := ctxOf s c
  let rows := ceilDiv n 256
  let rsl := slotsOf x lb row rows
  if claimable x rsl [] then
    let s1 := countStrays s x lb portBelt row rows
    let bs := lbRead s1 x lb row 0 n
    go (updCtx (updJob s1 id (fun j => { j with stalled := [] })) c (fun y => retireSlots y rsl [])) bs
  else updJob s id (fun j => { j with stalled := rsl })

/-- The query of a command is read from memory or from a Pocket. -/
def readQuery (s : State) (id : Nat) (j : Job) (d : Nat) (go : State → List Nat → State) : State :=
  if srPocket j.entry then readRows s id j.ctx (srLb j.entry) (srRow j.entry) (queryBytes d) go
  else withRead s id (srSrc j.entry) (queryBytes d) go

/-- The query is a Pocket query that leaves the context's blocks or rows. -/
def queryPlaceBad (s : State) (c e d : Nat) : Bool :=
  if srPocket e then
    4 * (ctxOf s c).partition ≤ srLb e || contextRows s < srRow e + ceilDiv (queryBytes d) 256 || srSrc e / 2 ^ 32 != 0
  else srSrc e % 64 != 0 || !rangeOk s (srSrc e) (queryBytes d)

/-- The checks that SEARCH and RECALL_PROBE share. -/
def probeCheck (s : State) (e : Nat) (x : Index) : Nat :=
  firstBad
    [(srNprobe e == 0 || 65536 < srNprobe e || reg s Key.SEARCH_MAX_PROBES < srNprobe e + srWiden e, Code.BAD_FIELD),
     (reg s Key.SEARCH_MAX_K < srKscan e || srKscan e < srKout e, Code.BAD_FIELD),
     (srDest e % 64 != 0, Code.BAD_FIELD),
     (x.current < srEpoch e, Code.BAD_FIELD),
     (srEpoch e != 0 && srEpoch e < oldestOf s x, Code.EPOCH_RETIRED)]

/-- At its admission a search command pins its epoch (R215). -/
def searchAdmit (s : State) (id : Nat) : State :=
  match tabGet s.jobs id with
  | some j =>
    match tabGet s.indexes (srIndex j.entry) with
    | some x =>
      let e := if srEpoch j.entry == 0 then x.current else srEpoch j.entry
      pinEpoch (updJob s id (fun j => { j with pin := e })) (srIndex j.entry) id e
    | none => s
  | none => s

def searchSpec : CmdSpec where
  used _ := usedBits [(143, 128), (447, 384), (125, 125), (383, 320), (319, 256), (255, 224), (223, 200), (199, 176),
    (175, 160), (159, 144), (127, 126), (124, 124), (511, 448)]
  check s c e := match indexOf s (srIndex e) with
    | some x =>
      firstBad
        [(queryPlaceBad s c e x.desc, Code.BAD_FIELD),
         (!rangeOk s (srDest e) (64 + 16 * srKout e), Code.BAD_FIELD),
         (probeCheck s e x != Code.OK, probeCheck s e x)]
    | none => Code.BAD_FIELD
  noop e := srKscan e == 0
  atAdmission := searchAdmit

/-! ### Results (Tables 10.9 and 10.10, R228, R229) -/

/-- The result header. -/
def searchHeader (q : Query) (found count nan : Nat) (conflict : Bool) : Nat :=
  q.scanned % 2 ^ 64 * 2 ^ 448 + q.passed % 2 ^ 64 * 2 ^ 384 + q.taken * 2 ^ 352 + found * 2 ^ 320 + q.epoch * 2 ^ 288 +
    count * 2 ^ 272 + q.rounds % 256 * 2 ^ 264 + flagBit conflict * 2 ^ 256 + nan * 2 ^ 224 + q.repairs * 2 ^ 192 + 1

/-- A result entry: passage, conflict, score, h. -/
def searchEntry (p : Nat) (conflict : Bool) (score h : Nat) : Nat :=
  p * 2 ^ 88 + flagBit conflict * 2 ^ 64 + score * 2 ^ 32 + h

/-- The RESULT of a search. -/
def searchResult (count found : Nat) : Nat := found * 2 ^ 16 + count

/-- A search that met an error: a header with COUNT 0, and the list number. -/
def failSearch (s : State) (id : Nat) (j : Job) (q : Query) (list status : Nat) : State :=
  withWrite s id (srDest j.entry) 64 (fun t =>
    let t1 := writeBytes t (srDest j.entry) (leBytes 64 (searchHeader q q.merged.length 0 0 q.conflict))
    let t2 := if status == Code.INDEX_CORRUPT then bump t1 Key.SEARCH_CORRUPT_EVENTS 1 else t1
    finish t2 id status list)

/-- The end of a search: its scored candidates in rank order, and its status.  `scored` holds each candidate with its
score. -/
def endSearch (s : State) (id : Nat) (j : Job) (q : Query) (scored : List (Hit × Num)) : State :=
  let e := j.entry
  let k := srKout e
  let found := scored.length
  let ranked : List (Hit × Num) :=
    if srMetric e == 3 then scored
    else sortBy (fun a b => scoreBefore (a.2, a.1.passage) (b.2, b.1.passage)) (scored.filter (fun c => !c.2.isNan))
  let nan := if srMetric e == 3 then 0 else found - ranked.length
  let best := ranked.take k
  let bs := leBytes 64 (searchHeader q found best.length nan (q.conflict || scored.any (fun c => c.1.conflict))) ++
    (best.map (fun c => leBytes 16 (searchEntry c.1.passage c.1.conflict (toF32 c.2) c.1.h))).flatten
  withWrite s id (srDest e) bs.length (fun t =>
    let t0 := bump (writeBytes t (srDest e) bs) Key.SEARCH_NAN_DROPPED nan
    let t1 := if j.opcode == Op.SEARCH then bump t0 Key.SEARCH_QUERIES 1 else t0
    let short := best.length < k
    let t2 := if short then bump t1 Key.SEARCH_SHORT_RESULTS 1 else t1
    finish t2 id (if short then Code.OK_SHORT else Code.OK) (searchResult best.length found))

/-- The candidates' scores; METRIC 3 takes h. -/
def scoreHits (s : State) (d metric : Nat) (q : List Num) (l : List Hit) : List (Hit × Num) :=
  l.map (fun c => (c, if metric == 3 then Num.ofNat c.h else passageScore s d metric q c.passage))

/-- The vectors that the exact scores of some candidates read. -/
def vectorRanges (d metric : Nat) (l : List Hit) : List (Nat × Nat) :=
  if metric == 3 then [] else l.map (fun c => (vectorAddr d c.passage, vBytes d))

/-- A candidate's vector cannot be read. -/
def vectorsBad (s : State) (d metric : Nat) (l : List Hit) : Bool :=
  metric != 3 && l.any (fun c => readBad s (vectorAddr d c.passage) (vBytes d))

/-! ### Searches across devices (R230, R357) -/

/-- The members of a job in tree order: rotated to begin at the issuing device. -/
def treeMembers (entry issuer : Nat) : List Nat :=
  let ms := onesOf 4096 (field entry 128 4096) 0
  ms.filter (fun d => issuer ≤ d) ++ ms.filter (fun d => d < issuer)

/-- How many children a member has in the tree. -/
def treeChildren (ms : List Nat) (d : Nat) : Nat :=
  match ms.findIdx? (fun m => m == d) with
  | some i => (if 2 * i + 1 < ms.length then 1 else 0) + (if 2 * i + 2 < ms.length then 1 else 0)
  | none => 0

/-- The parent of a member in the tree. -/
def treeParent (ms : List Nat) (d : Nat) : Option Nat :=
  match ms.findIdx? (fun m => m == d) with
  | some 0 => none
  | some i => ms[(i - 1) / 2]?
  | none => none

/-- What a SPAN_START carries: the command's fields, the epoch pinned, the widening round, and the query record. -/
def spanValue (entry epoch round : Nat) (query : Nat) : Nat :=
  entry + epoch * 2 ^ 512 + round * 2 ^ 544 + query * 2 ^ 576

/-- A SPAN_START leaves for every other member of the job (R230); without a route to one the search ends with
DEVICE_UNREACHABLE. -/
def startSpan (s : State) (id : Nat) (j : Job) (q : Query) (r : SpanRole) : State :=
  let own := ownDevice s
  let ms := treeMembers (jobEntry s r.job) own
  let others := ms.filter (fun d => d != own)
  if others.any (fun d => (flowRoute s r.job d).isNone) then finish s id Code.DEVICE_UNREACHABLE 0
  else
    let v := spanValue j.entry q.epoch q.rounds
      (ofLeBytes (q.values.flatMap (leBytes 2)) + q.sketch * 2 ^ (16 * q.values.length))
    let s1 := others.foldl (fun t d => sendTo t msgSpanStart r.job d r.tag v) s
    { s1 with queries := tabUpd s1.queries id (fun q => { q with
        span := some { r with left := treeChildren ms own, hits := [] } }) }

/-- Hits with scores, as a ZIP_LIST's entries: h, passage, score; 2^32 for NaN. -/
def spanEntries (l : List SpanHit) : List (Nat × Nat × Nat) :=
  l.map (fun c => (c.hit.h, c.hit.passage, c.score.getD (2 ^ 32)))

/-- Entries read back. -/
def spanHits (l : List (Nat × Nat × Nat)) : List SpanHit :=
  l.map (fun c => ⟨{ h := c.1, passage := c.2.1 }, if c.2.2 < 2 ^ 32 then some c.2.2 else none⟩)

/-- Hits of two devices merged, the best `k` kept: a passage on both is collapsed as a duplicate. -/
def mergeSpan (k : Nat) (a b : List SpanHit) : List SpanHit :=
  let all := a ++ b
  let m := (all.map (fun c => c.hit)).foldl mergeHit []
  (m.take k).map (fun h =>
    ⟨h, match all.find? (fun c => c.hit.passage == h.passage && c.hit.h == h.h) with
      | some c => c.score
      | none => none⟩)

/-- A device's own share of a search: its candidates with their scores. -/
def ownShare (s : State) (x : Index) (e epoch round : Nat) (codes : List Nat) (sketch : Nat) : List SpanHit :=
  let q := codes.map ofBf16
  let ls := rankLists s x.desc q
  let hits := exactHits s x ⟨epoch, srMask e, srMatch e, sketch⟩ (ls.take (takenAfter e round ls.length)) (srKscan e)
  (scoreHits s x.desc (srMetric e) q hits).map (fun c => ⟨c.1, if c.2.isNan then none else some (toF32 c.2)⟩)

/-- Entries sent to a parent, in passes of 64; the last pass is marked by the tag's bit 16, and a failure's status is
carried in it. -/
def sendPasses (s : State) (job dest issuer tag status : Nat) : Nat → List (Nat × Nat × Nat) → State
  | 0, _ => s
  | n + 1, es =>
    let last := es.length ≤ 64
    let v := (es.take 64).foldr (fun c v => v * 2 ^ 128 + c.1 + c.2.1 * 2 ^ 16 + c.2.2 * 2 ^ 64) 0
    let s1 := sendTo s msgZipList job dest (tag + flagBit last * 2 ^ 16 + issuer * 2 ^ 20) (v * 2 ^ 16 + status)
    if last then s1 else sendPasses s1 job dest issuer tag status n (es.drop 64)

/-- The key of another device's search. -/
def spanKey (issuer tag : Nat) : Nat := issuer * 65536 + tag

/-- A share whose own part and children have all come goes to its parent. -/
def forwardShare (s : State) (k : Nat) : State :=
  match tabGet s.spans k with
  | some p =>
    let ms := treeMembers (jobEntry s p.job) p.issuer
    if p.started && p.done == treeChildren ms (ownDevice s) then
      let s1 := { s with spans := tabDel s.spans k }
      match treeParent ms (ownDevice s) with
      | some d =>
        let es := spanEntries (p.hits.take p.kScan)
        sendPasses (bump s1 Key.ZIPPER_MERGES 1) p.job d p.issuer p.tag p.status (es.length / 64 + 1) es
      | none => s1
    else s
  | none => s

/-- SPAN_START (R230): this device's share at the issuer's epoch, or its failure. -/
def spanStart (s : State) (source job gen tag entry epoch round query : Nat) : State :=
  if !jobMessageOk s source job gen then bump s Key.PELGAN_STALE_DROPS 1
  else
    let k := spanKey source tag
    let p : SpanShare := (tabGet s.spans k).getD { job := job, gen := gen, issuer := source, tag := tag }
    let share : List SpanHit × Nat := match indexOf s (srIndex entry) with
      | none => ([], Code.OK)
      | some x =>
        let bs := leBytes (queryBytes x.desc) query
        if x.current < epoch then ([], Code.BAD_FIELD)
        else if epoch < oldestOf s x then ([], Code.EPOCH_RETIRED)
        else match listsError s x (tabKeys x.extents) epoch with
          | some (_, st) => ([], st)
          | none => (ownShare s x entry epoch round (queryCodes x.desc bs) (querySketch x.desc bs), Code.OK)
    let p' := { p with
      started := true, kScan := srKscan entry, hits := mergeSpan (srKscan entry) p.hits share.1
      status := if p.status == Code.OK then share.2 else p.status }
    forwardShare { s with spans := tabSet s.spans k p' } k

def execSpanStart (source job gen tag entry epoch round query : Nat) (s : State) : Host.Outcome State Fault Refusal :=
  .next (spanStart s source job gen tag entry epoch round query)

/-- ZIP_LIST (R249, R357): a pass of a child's entries enters the merge of this device, as issuer or as member. -/
def zipList (s : State) (source job gen issuer tag status : Nat) (entries : List (Nat × Nat × Nat)) (last : Bool) :
    State :=
  if !jobMessageOk s source job gen then bump s Key.PELGAN_STALE_DROPS 1
  else if issuer == ownDevice s then
    match s.queries.find? (fun p => match p.2.span with
        | some r => r.tag == tag && r.job == job
        | none => false) with
    | some (id, q) => match q.span with
      | some r =>
        let r' := { r with
          hits := r.hits ++ spanHits entries, left := r.left - flagBit last
          failed := if status == Code.OK || r.failed.isSome then r.failed else some status }
        let s1 := { s with queries := tabUpd s.queries id (fun q => { q with span := some r' }) }
        if r'.left == 0 then (ctxsOfJobs s [id]).foldl (fun t k => closeUnit t k fabricUnit) s1 else s1
      | none => s
    | none => s
  else
    let k := spanKey issuer tag
    let p : SpanShare := (tabGet s.spans k).getD { job := job, gen := gen, issuer := issuer, tag := tag }
    let p' := { p with
      hits := if p.started then mergeSpan p.kScan p.hits (spanHits entries) else p.hits ++ spanHits entries
      done := p.done + flagBit last
      status := if p.status == Code.OK then status else p.status }
    forwardShare { s with spans := tabSet s.spans k p' } k

def execZipList (source job gen issuer tag status : Nat) (entries : List (Nat × Nat × Nat)) (last : Bool) (s : State) :
    Host.Outcome State Fault Refusal :=
  .next (zipList s source job gen issuer tag status entries last)

/-! ### SEARCH (R222 to R230) -/

/-- The next lists of a query become work items. -/
def takeLists (s : State) (x : Index) (e : Nat) (q : Query) (round : Nat) : Query :=
  let upto := takenAfter e round q.lists.length
  let ls := (q.lists.take upto).drop q.taken
  { q with taken := upto, items := q.items ++ ls.flatMap (listItems s x), rounds := round }

/-- The job of a search across devices, when its context is bound to an ACTIVE one. -/
def spanRole (s : State) (j : Job) : Option SpanRole :=
  if srSpan j.entry then
    match boundJob s j.ctx with
    | some k => if jobState (jobEntry s k) == 1 then some { job := k, gen := jobGen (jobEntry s k), tag := s.pelgan.nextTag }
      else none
    | none => none
  else none

/-- The first step of a search: the query is read, the lists are ranked, the probe set is taken. -/
def beginSearch (s : State) (id : Nat) (j : Job) (x : Index) : State :=
  if readBad s (ixCentroidArea x.desc) (ixLists x.desc * vStride x.desc) then
    let f := takeFree s
    failSearch f.2 id j { index := srIndex j.entry, epoch := j.pin, values := [], sketch := 0, lists := [] } (f.1 % 2 ^ 64)
      Code.ECC_UNCORRECTABLE
  else readQuery s id j x.desc (fun s bs =>
    let codes := queryCodes x.desc bs
    let q : Query := {
      index := srIndex j.entry, epoch := j.pin, values := codes, sketch := querySketch x.desc bs
      lists := rankLists s x.desc (codes.map ofBf16), span := spanRole s j }
    let q1 := takeLists s x j.entry q 0
    let s1 := updJob { touchRange s (ixCentroidArea x.desc) (ixLists x.desc * vStride x.desc) with
      queries := tabSet s.queries id q1 } id (fun j => { j with phase := .running })
    match q1.span with
    | some r =>
      startSpan { s1 with pelgan := { s1.pelgan with nextTag := (s1.pelgan.nextTag + 1) % 65536 } } id j q1 r
    | none => s1)

/-- The merge of a round is exact: widen, or score and end. -/
def roundDone (s : State) (id : Nat) (j : Job) (x : Index) (q : Query) : State :=
  let e := j.entry
  let values := q.values.map ofBf16
  let own : List SpanHit :=
    (scoreHits s x.desc (srMetric e) values q.merged).map (fun c =>
      ⟨c.1, if c.2.isNan then none else some (toF32 c.2)⟩)
  let all := match q.span with
    | some r => mergeSpan (srKscan e) own r.hits
    | none => own
  if all.length < srKout e && canWiden e q.rounds q.lists.length then
    let q' := takeLists s x e q (q.rounds + 1)
    let s1 := bump { s with queries := tabSet s.queries id q' } Key.SEARCH_WIDEN_ROUNDS 1
    match q'.span with
    | some r => startSpan s1 id j q' r
    | none => s1
  else if vectorsBad s x.desc (srMetric e) q.merged then
    let f := takeFree s
    failSearch f.2 id j q (f.1 % 2 ^ 64) Code.ECC_UNCORRECTABLE
  else endSearch (touchRanges s (vectorRanges x.desc (srMetric e) q.merged)) id j q (all.map (fun c =>
    (c.hit, match c.score with
    | some v => ofF32 v
    | none => .nan)))

/-- SEARCH: its first step, then, when its Cuffs have served every item, repair, widening and the exact scores. -/
def searchBody (s : State) (id : Nat) (j : Job) : State :=
  match tabGet s.indexes (srIndex j.entry) with
  | none => finish s id Code.BAD_FIELD 0
  | some x =>
    match tabGet s.queries id with
    | none => beginSearch s id j x
    | some q =>
      match q.failed with
      | some (l, st) => failSearch s id j q l st
      | none =>
        if !q.items.isEmpty then s
        else match toRepair (srKscan j.entry) q with
          | some o =>
            bump { touchRanges s (segmentRanges x.desc o.segment) with
              queries := tabSet s.queries id (repair s x j.entry q o) } Key.SEARCH_REPAIR_PASSES 1
          | none =>
            match q.span with
            | some r =>
              match r.failed with
              | some st => failSearch s id j q 0 st
              | none => if r.left == 0 then roundDone s id j x q else s
            | none => roundDone s id j x q

/-- The query record, when it lies in the companion window. -/
def searchSources (s : State) (j : Job) : List (Nat × Nat) :=
  match tabGet s.indexes (srIndex j.entry) with
  | some x => if srPocket j.entry then [] else [(srSrc j.entry, queryBytes x.desc)]
  | none => []

def execSearch (job : Nat) (s : State) : Host.Outcome State Fault Refusal :=
  .next (runJob s job Op.SEARCH searchSources searchBody)

/-! ### RERANK (R231) -/

def rerankSpec : CmdSpec where
  used _ := usedBits [(143, 128), (447, 384), (125, 125), (383, 320), (175, 160), (159, 144), (127, 126), (511, 448)]
  check s c e := match indexOf s (srIndex e) with
    | some x =>
      firstBad
        [(queryPlaceBad s c e x.desc, Code.BAD_FIELD),
         (srCand e % 8 != 0 || !rangeOk s (srCand e) (8 * srCandCount e), Code.BAD_FIELD),
         (srDest e % 64 != 0 || !rangeOk s (srDest e) (64 + 16 * srKout e), Code.BAD_FIELD),
         (reg s Key.SEARCH_MAX_K < srCandCount e || srCandCount e < srKout e || srMetric e == 3, Code.BAD_FIELD)]
    | none => Code.BAD_FIELD
  noop e := srCandCount e == 0
  atAdmission := searchAdmit

/-- A passage is visible at an epoch: it has a visible record (R216). -/
def passageVisible (s : State) (x : Index) (e p : Nat) : Bool :=
  !hiddenAt x e p && ((allExtents x).filter (fun t => t.epoch ≤ e)).any (fun t =>
    (extentRecords s x.desc t).any (fun r => trPassage (trailerOf x.desc r) == p))

/-- The candidates that RERANK scores, in the order given. -/
def rerankCandidates (s : State) (x : Index) (e : Nat) (cs : List Nat) : List Nat :=
  (distinct cs).filter (fun p => p < ixCapacity x.desc && passageVisible s x e p)

/-- RERANK. -/
def rerankBody (s : State) (id : Nat) (j : Job) : State :=
  let e := j.entry
  match tabGet s.indexes (srIndex e) with
  | none => finish s id Code.BAD_FIELD 0
  | some x =>
    withRead s id (srCand e) (8 * srCandCount e) (fun s cb =>
      readQuery s id j x.desc (fun s bs =>
        let cs := (List.range (srCandCount e)).map (fun i => ofLeBytes ((cb.drop (8 * i)).take 8))
        let ps := rerankCandidates s x j.pin cs
        let hits := ps.map (fun p => ({ h := 0, passage := p } : Hit))
        let values := (queryCodes x.desc bs).map ofBf16
        if vectorsBad s x.desc (srMetric e) hits then finish s id Code.ECC_UNCORRECTABLE 0
        else
          let scored := scoreHits s x.desc (srMetric e) values hits
          let q : Query := { index := srIndex e, epoch := j.pin, values := [], sketch := 0, lists := [] }
          endSearch (touchRanges s (vectorRanges x.desc (srMetric e) hits)) id j q scored))

/-- The query record and the candidates, where they lie in the companion window. -/
def rerankSources (s : State) (j : Job) : List (Nat × Nat) :=
  searchSources s j ++ [(srCand j.entry, 8 * srCandCount j.entry)]

def execRerank (job : Nat) (s : State) : Host.Outcome State Fault Refusal :=
  .next (runJob s job Op.RERANK rerankSources rerankBody)

/-! ### RECALL_PROBE (R234) -/

/-- The stride of RECALL_PROBE's query records. -/
def queryStride (d : Nat) : Nat := ceilDiv (queryBytes d) 64 * 64

def recallProbeSpec : CmdSpec where
  used _ := usedBits [(143, 128), (447, 384), (123, 116), (383, 320), (319, 256), (255, 224), (223, 200), (199, 176),
    (175, 160), (159, 144), (127, 126), (511, 448)]
  check s _ e := match indexOf s (srIndex e) with
    | some x =>
      firstBad
        [(srQcount e == 0 || 64 < srQcount e || srMetric e == 3, Code.BAD_FIELD),
         (srSrc e % 64 != 0 || !rangeOk s (srSrc e) (queryStride x.desc * srQcount e), Code.BAD_FIELD),
         (!rangeOk s (srDest e) (16 * srQcount e), Code.BAD_FIELD),
         (probeCheck s e x != Code.OK, probeCheck s e x)]
    | none => Code.BAD_FIELD
  noop e := srKscan e == 0
  atAdmission := searchAdmit

/-- The rounds of a search over the exact merge: it ends when FOUND reaches K_OUT or no round remains. -/
def exactSearch (s : State) (x : Index) (e : Nat) (p : Probe) (ls : List Nat) : Nat → Nat → List Hit
  | 0, w => exactHits s x p (ls.take (takenAfter e w ls.length)) (srKscan e)
  | n + 1, w =>
    let hits := exactHits s x p (ls.take (takenAfter e w ls.length)) (srKscan e)
    if hits.length < srKout e && canWiden e w ls.length then exactSearch s x e p ls n (w + 1) else hits

/-- One query of RECALL_PROBE: HITS, EXACT and COUNT. -/
def probeOne (s : State) (x : Index) (e epoch : Nat) (bs : List Nat) : Nat × Nat × Nat :=
  let values := (queryCodes x.desc bs).map ofBf16
  let p : Probe := ⟨epoch, srMask e, srMatch e, querySketch x.desc bs⟩
  let ls := rankLists s x.desc values
  let hits := exactSearch s x e p ls (srWiden e + 1) 0
  let score (l : List Hit) : List (Num × Nat) :=
    (scoreHits s x.desc (srMetric e) values l).map (fun c => (c.2, c.1.passage))
  let found := (bestOf (score hits) (srKout e)).1.map Prod.snd
  let every := exactHits s x p (tabKeys x.extents) (ixCapacity x.desc)
  let exact := (bestOf (score every) (srKout e)).1.map Prod.snd
  ((found.filter (fun y => exact.contains y)).length, Nat.min (srKout e) every.length, found.length)

/-- The query record `i` of a RECALL_PROBE among the bytes it reads. -/
def probeRecord (d i : Nat) (bs : List Nat) : List Nat := (bs.drop (i * queryStride d)).take (queryBytes d)

/-- The exhaustive scan of a query meets a vector that cannot be read (R229, R234). -/
def probeVectorsBad (s : State) (x : Index) (e epoch : Nat) (bs : List Nat) : Bool :=
  vectorsBad s x.desc (srMetric e)
    (exactHits s x ⟨epoch, srMask e, srMatch e, querySketch x.desc bs⟩ (tabKeys x.extents) (ixCapacity x.desc))

/-- The bytes that a RECALL_PROBE writes, and its RESULT. -/
def probeOutput (rs : List (Nat × Nat × Nat)) : List Nat × Nat :=
  ((rs.map (fun r => leBytes 16 (r.1 * 2 ^ 96 + r.2.1 * 2 ^ 64 + r.2.2 * 2 ^ 32))).flatten,
    (rs.map (fun r => r.1)).sum * 2 ^ 32 + (rs.map (fun r => r.2.1)).sum)

/-- What the searches and the exhaustive scans of a RECALL_PROBE read: the centroids, every list, and the vectors. -/
def probeRanges (s : State) (x : Index) (e epoch : Nat) (qs : List (List Nat)) : List (Nat × Nat) :=
  (ixCentroidArea x.desc, ixLists x.desc * vStride x.desc) ::
    ((tabKeys x.extents).flatMap (fun l => ((listItems s x l).filter (fun g => g.extent.epoch ≤ epoch)).flatMap
      (segmentRanges x.desc)) ++
    qs.flatMap (fun b => vectorRanges x.desc (srMetric e)
      (exactHits s x ⟨epoch, srMask e, srMatch e, querySketch x.desc b⟩ (tabKeys x.extents) (ixCapacity x.desc))))

/-- RECALL_PROBE. -/
def recallProbeBody (s : State) (id : Nat) (j : Job) : State :=
  let e := j.entry
  match tabGet s.indexes (srIndex e) with
  | none => finish s id Code.BAD_FIELD 0
  | some x =>
    withRead s id (srSrc e) (queryStride x.desc * srQcount e) (fun s bs =>
      match listsError s x (tabKeys x.extents) j.pin with
      | some (l, st) => failSearch s id j
          { index := srIndex e, epoch := j.pin, values := [], sketch := 0, lists := [] } l st
      | none =>
        let qs := (List.range (srQcount e)).map (fun i => probeRecord x.desc i bs)
        if readBad s (ixCentroidArea x.desc) (ixLists x.desc * vStride x.desc) ||
            qs.any (probeVectorsBad s x e j.pin) then
          let f := takeFree s
          failSearch f.2 id j { index := srIndex e, epoch := j.pin, values := [], sketch := 0, lists := [] }
            (f.1 % 2 ^ 64) Code.ECC_UNCORRECTABLE
        else
          let o := probeOutput (qs.map (probeOne s x e j.pin))
          writeAndFinish (touchRanges s (probeRanges s x e j.pin qs)) id (srDest e) o.1 Code.OK o.2)

def recallProbeSources (s : State) (j : Job) : List (Nat × Nat) :=
  match tabGet s.indexes (srIndex j.entry) with
  | some x => [(srSrc j.entry, queryStride x.desc * srQcount j.entry)]
  | none => []

def execRecallProbe (job : Nat) (s : State) : Host.Outcome State Fault Refusal :=
  .next (runJob s job Op.RECALL_PROBE recallProbeSources recallProbeBody)

end Sys2Proof.Machine
end

