-- ==== Sys2Proof/Machine/Select.lean ====
section
/-! DEFINITION. Selection and the Zipper (chapter 11): TOPK and MERGE. -/

namespace Sys2Proof.Machine

/-! ### The order and the sums (R238 to R241) -/

/-- An entry of a selection: its key, its value, and whether duplicates of its key carried another value. -/
structure Sel where
  key      : Nat
  value    : Num
  conflict : Bool := false
  deriving DecidableEq, Repr

/-- The order of R238. -/
def ranksBefore (asc : Bool) (a b : Sel) : Bool :=
  let first := if asc then Num.lt a.value b.value else Num.lt b.value a.value
  let second := if asc then Num.lt b.value a.value else Num.lt a.value b.value
  first || (!second && a.key < b.key)

/-- Two values are equal; −0 is +0. -/
def sameValue (a b : Num) : Bool := !Num.lt a b && !Num.lt b a

/-- A value of a source word in a format: FP32, BF16 or INT32. -/
def selValue (vfmt code : Nat) : Num :=
  if vfmt == 0xD then Num.ofInt (ofI32 code) else if vfmt == 0xB then ofBf16 code else ofF32 code

/-- A selected value as it is written (R239). -/
def selCode (vfmt : Nat) (v : Num) : Nat :=
  if v.isZero then 0 else if vfmt == 0xD then codeOf 32 (floorNum v) else toF32 v

/-- An exact sum: the field of R241, unbounded, and its special bits. -/
structure Exact where
  total   : Int := 0
  special : Nat := 0
  deriving DecidableEq, Repr

/-- The unit of the exact field as a power of two. -/
def exactUnit (vfmt : Nat) : Int := if vfmt == 0xD then 0 else -149

/-- One value added. -/
def addExact (vfmt : Nat) (x : Exact) (v : Num) : Exact :=
  match v with
  | .nan => x
  | .inf b => { x with special := x.special ||| (if b then 2 else 1) }
  | .fin b m e => { x with total := x.total + Num.scaled b m e (exactUnit vfmt) }

/-- The sum of some entries. -/
def exactOf (vfmt : Nat) (l : List Sel) : Exact := l.foldl (fun x e => addExact vfmt x e.value) {}

/-- The field saturated to 384 bits, with bit 2 set when it was. -/
def saturate (x : Exact) : Exact :=
  if (2 : Int) ^ 383 ≤ x.total then ⟨2 ^ 383 - 1, x.special ||| 4⟩
  else if x.total < -(2 : Int) ^ 383 then ⟨-(2 : Int) ^ 383, x.special ||| 4⟩
  else x

/-- The rounded sum (R241). -/
def roundedSum (vfmt : Nat) (x : Exact) : Nat :=
  if vfmt == 0xD then
    codeOf 64 (if 9223372036854775807 < x.total then 9223372036854775807
      else if x.total < -9223372036854775808 then -9223372036854775808 else x.total)
  else
    let p := bitOf x.special 0
    let n := bitOf x.special 1
    if p && n then nanF32
    else if p then 0x7F800000
    else if n then 0xFF800000
    else if bitOf x.special 2 then (if x.total < 0 then 0xFF800000 else 0x7F800000)
    else if x.total == 0 then 0
    else toF32 (.fin (x.total < 0) x.total.natAbs (-149))

/-! ### The result (R240, Tables 11.1 and 11.2) -/

def selHeaderBytes : Nat := 192

/-- Bytes between the results of rows. -/
def selStride (k : Nat) : Nat := ceilDiv (192 + 16 * k) 64 * 64

/-- What a merge adds to a selection from its sources. -/
structure Carried where
  nans   : Nat := 0
  left   : Nat := 0
  exact  : Exact := {}
  /-- Last value and TIES_LEFT of each source that has an entry. -/
  lasts  : List (Num × Nat) := []
  dups   : Nat := 0
  conflict : Bool := false
  deriving DecidableEq, Repr

/-- A 16-byte entry. -/
def selEntry (vfmt : Nat) (e : Sel) : Nat := e.key * 2 ^ 88 + flagBit e.conflict * 2 ^ 64 + selCode vfmt e.value * 2 ^ 32

/-- An empty slot. -/
def emptyEntry : Nat := 0xFFFFFFFF * 2 ^ 88

/-- The result over the valid entries in rank order: its bytes, and VALID. -/
def selResult (vfmt : Nat) (asc : Bool) (k : Nat) (ranked : List Sel) (c : Carried) : List Nat × Nat :=
  let sel := ranked.take k
  let rest := ranked.drop k
  let ties : Nat × Nat := match sel.getLast? with
    | some t =>
      let all := (ranked.filter (fun e => sameValue e.value t.value)).length +
        ((c.lasts.filter (fun l => sameValue l.1 t.value)).map Prod.snd).sum
      (all, all - (sel.filter (fun e => sameValue e.value t.value)).length)
    | none => (0, 0)
  let sx := saturate (exactOf vfmt sel)
  let lo := exactOf vfmt rest
  let lx := saturate ⟨c.exact.total + lo.total, c.exact.special ||| lo.special⟩
  let h := codeOf 384 sx.total * 2 ^ 1152 + codeOf 384 lx.total * 2 ^ 768 + roundedSum vfmt sx * 2 ^ 704 +
    roundedSum vfmt lx * 2 ^ 640 + (c.left + rest.length) * 2 ^ 576 + c.nans * 2 ^ 512 + ties.1 * 2 ^ 448 +
    ties.2 * 2 ^ 384 + c.dups * 2 ^ 352 + sel.length * 2 ^ 320 + sx.special * 2 ^ 312 + lx.special * 2 ^ 304 +
    k * 2 ^ 48 + vfmt * 2 ^ 44 + flagBit asc * 2 ^ 43 + flagBit c.conflict * 2 ^ 42 + 0x5A * 2 ^ 8 + 1
  (leBytes 192 h ++ (sel.map (fun e => leBytes 16 (selEntry vfmt e))).flatten ++
    (List.replicate (k - sel.length) (leBytes 16 emptyEntry)).flatten, sel.length)

/-! ### TOPK (R242 to R244) -/

/-- Selection PARAMS (Table 11.4). -/
def tkSrc (e : Nat) : Nat := param e 511 448
def tkDest (e : Nat) : Nat := param e 447 384
def tkN (e : Nat) : Nat := param e 383 352
def mgSources (e : Nat) : Nat := param e 383 368
def tkBase (e : Nat) : Nat := param e 351 320
def tkStride (e : Nat) : Nat := param e 319 288
def tkK (e : Nat) : Nat := param e 287 272
def tkRows (e : Nat) : Nat := param e 271 256
def tkVbs (e : Nat) : Nat := param e 255 240
def tkVfmt (e : Nat) : Nat := param e 239 236
def tkAsc (e : Nat) : Bool := paramBit e 235
def tkPocket (e : Nat) : Bool := paramBit e 234
def mgDedup (e : Nat) : Bool := paramBit e 233

/-- Bytes of one value. -/
def tkWidth (e : Nat) : Nat := if tkVfmt e == 0xB then 2 else 4

/-- Bytes of the source range. -/
def tkSpan (e : Nat) : Nat := (tkRows e - 1) * tkStride e + tkN e * tkWidth e

/-- Bytes of the result range. -/
def tkOut (e : Nat) : Nat := (tkRows e - 1) * selStride (tkK e) + 192 + 16 * tkK e

/-- Two ranges share a byte. -/
def bytesMeet (a n b m : Nat) : Bool := n != 0 && m != 0 && a < b + m && b < a + n

/-- A Pocket source: its logical block and its row. -/
def tkLb (e : Nat) : Nat := field (tkSrc e) 16 16
def tkRow (e : Nat) : Nat := field (tkSrc e) 0 16

def topkSpec : CmdSpec where
  used _ := usedBits [(511, 448), (447, 384), (383, 352), (351, 320), (319, 288), (287, 272), (271, 256), (255, 240),
    (239, 236), (235, 235), (234, 234)]
  check s c e :=
    let blocks := 4 * (ctxOf s c).partition
    firstBad
      [(!([0xB, 0xC, 0xD].contains (tkVfmt e)), Code.BAD_FIELD),
       (reg s Key.SELECT_MAX_K < tkK e, Code.BAD_FIELD),
       (0 < tkN e && 0xFFFFFFFE < tkBase e + tkN e - 1, Code.BAD_FIELD),
       (tkStride e % 4 != 0 || tkVbs e == 0 || blocks < tkVbs e, Code.BAD_FIELD),
       (tkDest e % 64 != 0, Code.BAD_FIELD),
       (0 < tkN e && 0 < tkRows e && (!rangeOk s (tkDest e) (tkOut e) ||
         (!tkPocket e && (tkSrc e % 4 != 0 || !rangeOk s (tkSrc e) (tkSpan e) ||
           bytesMeet (tkSrc e) (tkSpan e) (tkDest e) (tkOut e)))), Code.BAD_FIELD),
       (tkPocket e && (tkVbs e != 1 || blocks ≤ tkLb e || tkSrc e / 2 ^ 32 != 0 ||
         contextRows s < tkRow e + ceilDiv (tkSpan e) 256), Code.BAD_FIELD)]
  noop e := tkRows e == 0 || tkN e == 0
  atAdmission := noAdmit

/-- The selection of one row of values. -/
def selectRow (e : Nat) (bs : List Nat) : List Nat × Nat × Nat :=
  let w := tkWidth e
  let all := (List.range (tkN e)).map (fun i =>
    ({ key := tkBase e + i, value := selValue (tkVfmt e) (ofLeBytes ((bs.drop (w * i)).take w)) } : Sel))
  let good := all.filter (fun x => !x.value.isNan)
  let nans := all.length - good.length
  let r := selResult (tkVfmt e) (tkAsc e) (tkK e) (sortBy (ranksBefore (tkAsc e)) good) { nans := nans }
  (r.1, r.2, nans)

/-- The next row of a TOPK is written, and after the last the command ends.  Its progress: [rows done, short rows]. -/
def topkRow (s : State) (id : Nat) (e row short : Nat) (bs : List Nat) : State :=
  let r := selectRow e bs
  let dest := tkDest e + row * selStride (tkK e)
  withWrite s id dest r.1.length (fun t =>
    let short' := short + if r.2.1 < tkK e then 1 else 0
    let t1 := bump (bump (writeBytes t dest r.1) Key.SELECT_VALUES (tkN e * Nat.max 1 (ceilDiv (tkK e) 64)))
      Key.SELECT_NANS r.2.2
    let t2 := bump t1 Key.SELECT_SHORT_ROWS (short' - short)
    if row + 1 < tkRows e then updJob t2 id (fun j => { j with phase := .running, work := [row + 1, short'] })
    else finish (bump t2 Key.SELECT_COMMANDS 1) id (if short' == 0 then Code.OK else Code.OK_SHORT)
      (short' * 2 ^ 32 + tkRows e))

/-- TOPK, one row a step. -/
def topkBody (s : State) (id : Nat) (j : Job) : State :=
  let e := j.entry
  let row := j.work[0]?.getD 0
  let short := j.work[1]?.getD 0
  let n := tkN e * tkWidth e
  if tkPocket e then
    let at_ := tkRow e * 256 + row * tkStride e
    let x := ctxOf s j.ctx
    let rows := (at_ % 256 + n - 1) / 256 + 1
    let rsl := slotsOf x (tkLb e) (at_ / 256) rows
    if claimable x rsl [] then
      let s1 := countStrays s x (tkLb e) portBelt (at_ / 256) rows
      let bs := lbRead s1 x (tkLb e) 0 at_ n
      topkRow (updCtx (updJob s1 id (fun j => { j with stalled := [] })) j.ctx (fun y => retireSlots y rsl [])) id e
        row short bs
    else updJob s id (fun j => { j with stalled := rsl })
  else
    let a := tkSrc e + row * tkStride e
    if readBad s a n then finish s id Code.ECC_UNCORRECTABLE row
    else topkRow (touchRange s a n) id e row short (bytesAt s a n)

def topkSources (_ : State) (j : Job) : List (Nat × Nat) := if tkPocket j.entry then [] else [(tkSrc j.entry, tkSpan j.entry)]

def execTopk (job : Nat) (s : State) : Host.Outcome State Fault Refusal :=
  .next (runJob s job Op.TOPK topkSources topkBody)

/-! ### MERGE (R245 to R248) -/

def mergeSpec : CmdSpec where
  used _ := usedBits [(511, 448), (447, 384), (383, 368), (287, 272), (233, 233)]
  check s _ e :=
    let out := 192 + 16 * tkK e
    let tab := 16 * mgSources e
    firstBad
      [(reg s Key.SELECT_MAX_K < tkK e || reg s Key.ZIPPER_MAX_SOURCES < mgSources e, Code.BAD_FIELD),
       (tkSrc e % 16 != 0 || tkDest e % 64 != 0, Code.BAD_FIELD),
       (!rangeOk s (tkSrc e) tab || (0 < tab && !rangeOk s (tkDest e) out), Code.BAD_FIELD),
       (bytesMeet (tkSrc e) tab (tkDest e) out, Code.BAD_FIELD)]
  noop e := mgSources e == 0
  atAdmission := noAdmit

/-- Fields of a selection header. -/
def shCount (h : Nat) : Nat := field h 48 16
def shVfmt (h : Nat) : Nat := field h 44 4
def shOrder (h : Nat) : Nat := field h 43 1
def shValid (h : Nat) : Nat := field h 320 32

/-- The address of source `i`. -/
def mergeSource (s : State) (e i : Nat) : Nat := field (natAt s (tkSrc e + 16 * i) 16) 64 64

/-- Source `i` of a merge fails with a status, or passes (R245); `first` is the format and order of source 0. -/
def sourceCheck (s : State) (e i : Nat) (first : Nat × Nat) : Nat :=
  let a := mergeSource s e i
  let out := 192 + 16 * tkK e
  if field (natAt s (tkSrc e + 16 * i) 16) 0 64 != 0 || a % 64 != 0 || !rangeOk s a 192 ||
      bytesMeet a 192 (tkDest e) out then Code.BAD_FIELD
  else if readBad s a 192 then Code.ECC_UNCORRECTABLE
  else
    let h := natAt s a 192
    let size := 192 + 16 * shCount h
    if field h 0 8 != 1 then Code.VERSION_UNSUPPORTED
    else if field h 8 8 != 0x5A || shCount h < shValid h || !rangeOk s a size || bytesMeet a size (tkDest e) out ||
        (shVfmt h, shOrder h) != first then Code.BAD_FIELD
    else if readBad s a size then Code.ECC_UNCORRECTABLE
    else Code.OK

/-- The entries that a merge reads of a source. -/
def sourceEntries (s : State) (a : Nat) : List Sel :=
  let h := natAt s a 192
  (List.range (shValid h)).map (fun i =>
    let v := natAt s (a + 192 + 16 * i) 16
    { key := field v 88 40, value := selValue (if shVfmt h == 0xD then 0xD else 0xC) (field v 32 32) })

/-- The index of the first entry of a list that does not rank after the one before it; equal keys do not count. -/
def firstUnsorted (asc : Bool) : Nat → List Sel → Option Nat
  | i, a :: b :: l =>
    if a.key != b.key && !ranksBefore asc a b then some (i + 1) else firstUnsorted asc (i + 1) (b :: l)
  | _, _ => none

/-- Each set of equal keys collapsed into the entry that ranks first: entries in rank order in, and out. -/
def collapse (l : List Sel) : List Sel :=
  l.foldl (fun acc e =>
    if acc.any (fun f => f.key == e.key) then
      acc.map (fun f => if f.key == e.key && !sameValue f.value e.value then { f with conflict := true } else f)
    else acc ++ [e]) []

/-- What a MERGE reads: its source table, and of each source the header and the valid entries. -/
def mergeRanges (s : State) (e : Nat) : List (Nat × Nat) :=
  (tkSrc e, 16 * mgSources e) :: (List.range (mgSources e)).map (fun i =>
    (mergeSource s e i, 192 + 16 * shValid (natAt s (mergeSource s e i) 192)))

/-- MERGE. -/
def mergeBody (s : State) (id : Nat) (j : Job) : State :=
  let e := j.entry
  if readBad s (tkSrc e) (16 * mgSources e) then finish s id Code.ECC_UNCORRECTABLE 0
  else
    let ns := List.range (mgSources e)
    let addrs := ns.map (mergeSource s e)
    fetchMore s id j ((addrs.filter (fun a => rangeOk s a 192)).map (fun a => (a, 192 + 16 * reg s Key.SELECT_MAX_K)))
      (fun s =>
      let h0 := natAt s (mergeSource s e 0) 192
      let first := (shVfmt h0, shOrder h0)
      match ns.find? (fun i => sourceCheck s e i first != Code.OK) with
      | some i =>
        let st := sourceCheck s e i first
        finish s id st (if st == Code.ECC_UNCORRECTABLE then i * 2 ^ 32 else i)
      | none =>
        let asc := shOrder h0 == 1
        let srcs := addrs.map (sourceEntries s)
        match ns.find? (fun i => (firstUnsorted asc 0 (srcs[i]?.getD [])).isSome) with
        | some i =>
          finish (bump s Key.ZIPPER_UNSORTED 1) id Code.LIST_UNSORTED
            (i * 2 ^ 32 + (firstUnsorted asc 0 (srcs[i]?.getD [])).getD 0)
        | none =>
          let hs := addrs.map (fun a => natAt s a 192)
          let all := srcs.flatten
          let good := sortBy (ranksBefore asc) (all.filter (fun x => !x.value.isNan))
          let kept := if mgDedup e then collapse good else good
          let dups := good.length - kept.length
          let conflicts := (kept.filter (fun x => x.conflict)).length
          let c : Carried := {
            nans := (hs.map (fun h => field h 512 64)).sum + (all.length - good.length)
            left := (hs.map (fun h => field h 576 64)).sum
            exact := ⟨(hs.map (fun h => signedOf 384 (field h 768 384))).sum,
              hs.foldl (fun m h => m ||| (field h 304 8 % 8)) 0⟩
            lasts := (srcs.zip hs).filterMap (fun p => p.1.getLast?.map (fun x => (x.value, field p.2 384 64)))
            dups := dups
            conflict := conflicts != 0 }
          let r := selResult first.1 asc (tkK e) kept c
          withWrite (touchRanges s (mergeRanges s e)) id (tkDest e) r.1.length (fun t =>
            let t1 := bump (bump (bump (writeBytes t (tkDest e) r.1) Key.ZIPPER_MERGES 1) Key.ZIPPER_DUPLICATES dups)
              Key.ZIPPER_CONFLICTS conflicts
            let t1 := tallyJob t1 j 0x212 r.2
            finish t1 id (if r.2 == tkK e then Code.OK else Code.OK_SHORT) (dups * 2 ^ 32 + r.2)))

def mergeSources (_ : State) (j : Job) : List (Nat × Nat) := [(tkSrc j.entry, 16 * mgSources j.entry)]

def execMerge (job : Nat) (s : State) : Host.Outcome State Fault Refusal :=
  .next (runJob s job Op.MERGE mergeSources mergeBody)

end Sys2Proof.Machine
end

