-- ==== Sys2Proof/Machine/Belt.lean ====
section
/-! DEFINITION. The Belt (chapter 12): tables and their versions, gathers, pooling, coalescing and the hot-row caches. -/

namespace Sys2Proof.Machine

/-! ### Tables (R253 to R256) -/

def btRows (d : Nat) : Nat := field d 288 32
def btStride (d : Nat) : Nat := field d 256 32
def btDim (d : Nat) : Nat := field d 240 16
def btRfmt (d : Nat) : Nat := field d 236 4

/-- Bytes of a row record. -/
def btRowBytes (d : Nat) : Nat :=
  let n := btDim d
  if btRfmt d == 0xC then 4 * n
  else if btRfmt d == 0xB then 2 * n
  else if btRfmt d == 0 then n / 2 + n / 32
  else n + n / 32

/-- A descriptor's fields lie outside the limits of Table 12.1. -/
def btFieldsBad (s : State) (d : Nat) : Bool :=
  let step := if btRfmt d == 0xB || btRfmt d == 0xC then 8 else 32
  !([0, 3, 4, 5, 0xB, 0xC].contains (btRfmt d)) || btDim d < step || reg s Key.BELT_MAX_DIM < btDim d ||
    btDim d % step != 0 || btRows d == 0 || btStride d % 32 != 0 || btStride d < btRowBytes d || 1 < btDefaultKind d ||
    btData d % 32 != 0 || (btDefaultKind d == 1 && btDefault d % 32 != 0) || field d 8 225 != 0 ||
    !rangeOk s (btData d) ((btRows d - 1) * btStride d + btRowBytes d) ||
    (btTombEn d && !rangeOk s (btTomb d) (ceilDiv (btRows d) 8)) ||
    (btDefaultKind d == 1 && !rangeOk s (btDefault d) (btRowBytes d))

/-- Belt PARAMS (Table 12.3). -/
def blIdx (e : Nat) : Nat := param e 511 448
def blWts (e : Nat) : Nat := param e 447 384
def blOffs (e : Nat) : Nat := param e 383 320
def blDest (e : Nat) : Nat := param e 319 256
def blCount (e : Nat) : Nat := param e 255 224
def blBags (e : Nat) : Nat := param e 223 192
def blBagLen (e : Nat) : Nat := param e 191 176
def blTable (e : Nat) : Nat := param e 175 160
def blPool (e : Nat) : Nat := param e 159 158
def blOfmt (e : Nat) : Nat := param e 157 154
def blWeighted (e : Nat) : Bool := paramBit e 153
def blOffsets (e : Nat) : Bool := paramBit e 152
def blPocket (e : Nat) : Bool := paramBit e 151

/-- The state with a change of a table. -/
def updTable (s : State) (t : Nat) (f : BeltTable → BeltTable) : State :=
  { s with belt := { s.belt with tables := tabUpd s.belt.tables t f } }

/-- BELT.TABLES follows the tables. -/
def reportTables (s : State) : State := setReg s Key.BELT_TABLES s.belt.tables.length

/-- The current version of a table that later commands find. -/
def currentVersion (s : State) (t : Nat) : Option Nat :=
  match tabGet s.belt.tables t with
  | some x => x.current
  | none => none

/-- A command reads a table descriptor and goes on with it when its checks pass. -/
def withDescriptor (s : State) (id : Nat) (j : Job) (go : State → Nat → State) : State :=
  withRead s id (blIdx j.entry) 64 (fun s bs =>
    let d := ofLeBytes bs
    if field d 0 8 != 1 then finish s id Code.VERSION_UNSUPPORTED 0
    else if btFieldsBad s d then finish s id Code.BAD_FIELD 0
    else go s d)

def beltTableCreateSpec : CmdSpec where
  used _ := usedBits [(511, 448), (175, 160)]
  check s _ e := firstBad
    [(reg s Key.BELT_MAX_TABLES ≤ blTable e || blIdx e % 64 != 0 || !rangeOk s (blIdx e) 64, Code.BAD_FIELD)]
  noop := noZero
  atAdmission := noAdmit

/-- BELT_TABLE_CREATE. -/
def beltTableCreateBody (s : State) (id : Nat) (j : Job) : State :=
  withDescriptor s id j (fun s d =>
    if tabHas s.belt.tables (blTable j.entry) then finish s id Code.BAD_FIELD 0
    else
      let t : BeltTable := { versions := [(1, d)], current := some 1 }
      finish (reportTables { s with belt := { s.belt with tables := tabSet s.belt.tables (blTable j.entry) t } }) id
        Code.OK 1)

def beltSources (_ : State) (j : Job) : List (Nat × Nat) := [(blIdx j.entry, 64)]

def execBeltTableCreate (job : Nat) (s : State) : Host.Outcome State Fault Refusal :=
  .next (runJob s job Op.BELT_TABLE_CREATE beltSources beltTableCreateBody)

def beltTableReplaceSpec : CmdSpec where
  used _ := usedBits [(511, 448), (175, 160)]
  check s _ e := firstBad
    [((currentVersion s (blTable e)).isNone, Code.BAD_FIELD),
     (blIdx e % 64 != 0 || !rangeOk s (blIdx e) 64, Code.BAD_FIELD)]
  noop := noZero
  atAdmission := noAdmit

/-- BELT_TABLE_REPLACE: it waits while the table holds its most versions (R255). -/
def beltTableReplaceBody (s : State) (id : Nat) (j : Job) : State :=
  withDescriptor s id j (fun s d =>
    match tabGet s.belt.tables (blTable j.entry) with
    | some x => match x.current with
      | some v =>
        if reg s Key.BELT_MAX_VERSIONS ≤ x.versions.length then s
        else finish (updTable s (blTable j.entry) (fun x =>
          { x with versions := tabSet x.versions (v + 1) d, current := some (v + 1) })) id Code.OK (v + 1)
      | none => finish s id Code.BAD_FIELD 0
    | none => finish s id Code.BAD_FIELD 0)

def execBeltTableReplace (job : Nat) (s : State) : Host.Outcome State Fault Refusal :=
  .next (runJob s job Op.BELT_TABLE_REPLACE beltSources beltTableReplaceBody)

/-- From its admission a drop leaves the table without a current version. -/
def beltTableDropAdmit (s : State) (id : Nat) : State :=
  match tabGet s.jobs id with
  | some j => updTable s (blTable j.entry) (fun x =>
      if x.current.isSome then { x with current := none, dropping := some id } else x)
  | none => s

def beltTableDropSpec : CmdSpec where
  used _ := usedBits [(175, 160)]
  check s _ e := firstBad [(reg s Key.BELT_MAX_TABLES ≤ blTable e, Code.BAD_FIELD)]
  noop := noZero
  atAdmission := beltTableDropAdmit

/-- BELT_TABLE_DROP: it ends once every version is freed. -/
def beltTableDropBody (s : State) (id : Nat) (j : Job) : State :=
  match tabGet s.belt.tables (blTable j.entry) with
  | none => finish s id Code.OK_NOOP 0
  | some x =>
    if x.dropping != some id then finish s id Code.OK_NOOP 0
    else if !x.versions.isEmpty then s
    else finish (reportTables { s with belt := { s.belt with tables := tabDel s.belt.tables (blTable j.entry) } }) id
      Code.OK 0

def execBeltTableDrop (job : Nat) (s : State) : Host.Outcome State Fault Refusal :=
  .next (runJob s job Op.BELT_TABLE_DROP noSources beltTableDropBody)

/-- A version is current or pinned. -/
def versionHeld (s : State) (x : BeltTable) (v : Nat) : Bool :=
  x.current == some v || x.pins.any (fun p => p.2 == v && isOpen s p.1)

/-- At a beat boundary every version that is neither current nor pinned is freed, and its rows leave the caches (R255). -/
def freeVersions (s : State) : State :=
  let gone := s.belt.tables.flatMap (fun t =>
    (t.2.versions.filter (fun v => !versionHeld s t.2 v.1)).map (fun v => (t.1, v.1)))
  let s1 := { s with belt := {
    tables := tabMap s.belt.tables (fun _ x => { x with
      versions := x.versions.filter (fun v => versionHeld s x v.1), pins := x.pins.filter (fun p => isOpen s p.1) })
    hot := tabMap s.belt.hot (fun _ l => l.filter (fun r => !gone.contains (r.table, r.version))) } }
  bump s1 Key.BELT_VERSIONS_FREED gone.length

/-! ### Gathers (R257 to R264) -/

/-- Output rows of a gather. -/
def blOutRows (e : Nat) : Nat := if blPool e == 0 then blCount e else blBags e

/-- Bytes of an output row, and from one to the next. -/
def blOutBytes (d e : Nat) : Nat := btDim d * (if blOfmt e == 0xC then 4 else 2)
def blPitch (d e : Nat) : Nat := ceilDiv (blOutBytes d e) 64 * 64

/-- Bytes of the whole output. -/
def blOutSpan (d e : Nat) : Nat :=
  if blOutRows e = 0 then 0 else (blOutRows e - 1) * blPitch d e + blOutBytes d e

/-- The input ranges of a gather. -/
def blInputs (e : Nat) : List (Nat × Nat) :=
  [(blIdx e, 4 * blCount e)] ++ (if blWeighted e then [(blWts e, 4 * blCount e)] else []) ++
    (if blOffsets e && blPool e != 0 then [(blOffs e, 4 * (blBags e + 1))] else [])

/-- A Pocket destination: its logical block and its row. -/
def blLb (e : Nat) : Nat := field (blDest e) 16 16
def blRow (e : Nat) : Nat := field (blDest e) 0 16

/-- The checks of a gather at admission (R257). -/
def beltGatherCheck (s : State) (c e : Nat) : Nat :=
  match tabGet s.belt.tables (blTable e) with
  | none => Code.BAD_FIELD
  | some x => match x.current with
    | none => Code.BAD_FIELD
    | some v =>
      let d := (tabGet x.versions v).getD 0
      firstBad
        [(blPool e == 3 || (blOfmt e != 0xB && blOfmt e != 0xC), Code.BAD_FIELD),
         (reg s Key.BELT_MAX_COUNT < blCount e || reg s Key.BELT_MAX_BAGS < blBags e, Code.BAD_FIELD),
         (!blOffsets e && blPool e != 0 && blBags e != 0 && blBags e * blBagLen e != blCount e, Code.BAD_FIELD),
         ((blInputs e).any (fun r => r.1 % 4 != 0 || !rangeOk s r.1 r.2), Code.BAD_FIELD),
         (!blPocket e && (blDest e % 64 != 0 || !rangeOk s (blDest e) (blOutSpan d e) ||
           (blInputs e).any (fun r => bytesMeet r.1 r.2 (blDest e) (blOutSpan d e))), Code.BAD_FIELD),
         (blPocket e && (4 * (ctxOf s c).partition ≤ blLb e || blDest e / 2 ^ 32 != 0 ||
           contextRows s < blRow e + ceilDiv (blOutSpan d e) 256), Code.BAD_FIELD)]

/-- A gather pins the version that is current at its admission. -/
def beltGatherAdmit (s : State) (id : Nat) : State :=
  match tabGet s.jobs id with
  | some j => match currentVersion s (blTable j.entry) with
    | some v =>
      updTable (updJob s id (fun j => { j with pin := v })) (blTable j.entry) (fun x =>
        { x with pins := tabSet x.pins id v })
    | none => s
  | none => s

def beltGatherSpec : CmdSpec where
  used e := usedBits ([(511, 448), (319, 256), (255, 224), (175, 160), (159, 158), (157, 154), (153, 153), (151, 151)] ++
    (if blWeighted e then [(447, 384)] else []) ++
    (if blPool e != 0 then [(223, 192), (152, 152)] ++ (if blOffsets e then [(383, 320)] else [(191, 176)]) else []))
  check := beltGatherCheck
  noop e := if blPool e == 0 then blCount e == 0 else blBags e == 0
  atAdmission := beltGatherAdmit

/-- The position of the first offset that breaks the rule of R258. -/
def firstBadOffset (s : State) (e : Nat) : Option Nat :=
  let o (i : Nat) : Nat := natAt s (blOffs e + 4 * i) 4
  (List.range (blBags e + 1)).find? (fun i =>
    (i == 0 && o 0 != 0) || (i != 0 && o i < o (i - 1)) || (i == blBags e && o i != blCount e))

/-- The positions of an output row: the first, and the one behind the last. -/
def bagOf (s : State) (e row : Nat) : Nat × Nat :=
  if blPool e == 0 then (row, row + 1)
  else if blOffsets e then (natAt s (blOffs e + 4 * row) 4, natAt s (blOffs e + 4 * (row + 1)) 4)
  else (row * blBagLen e, (row + 1) * blBagLen e)

/-- Index `i` resolves to a row of the table, or to the default row (R259). -/
def resolve (s : State) (d i : Nat) : Option Nat :=
  if i == 0xFFFFFFFF || btRows d ≤ i then none
  else if btTombEn d && bitOf (natAt s (btTomb d + i / 8) 1) (i % 8) then none
  else some i

/-- The values of a row record, each rounded to FP32. -/
def rowValues (d v : Nat) : List Num :=
  if btRfmt d == 0xC then (List.range (btDim d)).map (fun i => ofF32 (field v (32 * i) 32))
  else (recordValues (btRfmt d) (btDim d) v).map fp32

/-- The row that an index resolves to. -/
def rowFor (s : State) (d i : Nat) : List Num :=
  match resolve s d i with
  | some r => rowValues d (natAt s (btData d + r * btStride d) (btRowBytes d))
  | none =>
    if btDefaultKind d == 1 then rowValues d (natAt s (btDefault d) (btRowBytes d))
    else List.replicate (btDim d) .zero

/-- The ranges that an index reads. -/
def rowReads (s : State) (d i : Nat) : List (Nat × Nat) :=
  (if btTombEn d && i < btRows d then [(btTomb d + i / 8, 1)] else []) ++
    match resolve s d i with
    | some r => [(btData d + r * btStride d, btRowBytes d)]
    | none => if btDefaultKind d == 1 then [(btDefault d, btRowBytes d)] else []

/-- The weight of a position. -/
def weightOf (s : State) (e p : Nat) : Num :=
  if blWeighted e then ofF32 (natAt s (blWts e + 4 * p) 4) else .one

/-- The values of an output row (R260). -/
def poolRow (s : State) (d e : Nat) (ps : List Nat) : List Num :=
  let x (p : Nat) : List Num :=
    let w := weightOf s e p
    (rowFor s d (natAt s (blIdx e + 4 * p) 4)).map (fun v => fp32 (w.mul v))
  if blPool e == 0 then x (ps.headD 0)
  else
    let acc := ps.foldl (fun acc p => List.zipWith (fun a v => fp32 (a.add v)) acc (x p))
      (List.replicate (btDim d) .zero)
    if blPool e == 2 then
      if ps.isEmpty then acc else acc.map (fun a => divF32 a (Num.ofNat ps.length))
    else acc

/-- An output row as bytes. -/
def outRow (e : Nat) (vs : List Num) : List Nat :=
  (vs.map (fun v => if blOfmt e == 0xC then leBytes 4 (toF32 v) else leBytes 2 (toBf16 v))).flatten

/-! ### Coalescing and the hot-row cache (R262) -/

/-- Rows kept while they fit the cache, most recently used first. -/
def fitRows : Nat → List HotRow → List HotRow
  | _, [] => []
  | room, r :: rs => if r.bytes ≤ room then r :: fitRows (room - r.bytes) rs else []

/-- One row of a window probed in a region's cache: a hit, or one read. -/
def probeRow (s : State) (region addr : Nat) (r : HotRow) (cache : Bool) : State :=
  let reads (t : State) : State := countRegion (bump t Key.BELT_READS 1) region 0x20B 1 { inst := region, addr := addr }
  if !cache then reads s
  else
    let l := (tabGet s.belt.hot region).getD []
    let l' := fitRows (reg s Key.BELT_HOT_CACHE_BYTES) (r :: l.filter (fun q => q != r))
    let s1 := { s with belt := { s.belt with hot := tabSet s.belt.hot region l' } }
    if l.contains r then countRegion (bump s1 Key.BELT_CACHE_HITS 1) region 0x20D 1 { inst := region } else reads s1

/-- The accounts of one window of indices that a region's Belt takes in. -/
def countIndices (s : State) (region table version d : Nat) (cache : Bool) (is : List Nat) : State :=
  let ds := distinct is
  let s1 := countRegion (bump (bump s Key.BELT_INDICES is.length) Key.BELT_COALESCED (is.length - ds.length)) region
    0x20C (is.length - ds.length) { inst := region }
  let s2 := bump s1 Key.BELT_DEFAULTS (is.filter (fun i => (resolve s d i).isNone)).length
  (ds.filterMap (resolve s d)).foldl (fun t r =>
    probeRow t region (btData d + r * btStride d) ⟨table, version, r, btRowBytes d⟩ cache) s2

/-- The accounts of window `n` of a gather's index list. -/
def countWindow (s : State) (region : Nat) (e version d : Nat) (cache : Bool) (n : Nat) : State :=
  let w := reg s Key.BELT_WINDOW
  countIndices s region (blTable e) version d cache
    ((List.range (Nat.min w (blCount e - n * w))).map (fun k => natAt s (blIdx e + 4 * (n * w + k)) 4))

/-- A list cut into windows of `w`. -/
def windowsOf (w : Nat) : Nat → List Nat → List (List Nat)
  | 0, _ => []
  | n + 1, is => if is.isEmpty then [] else is.take w :: windowsOf w n (is.drop w)

/-- The accounts of a list of indices that a command other than BELT_GATHER has gathered, by the Belt of a region. -/
def countGathered (s : State) (region table version d : Nat) (is : List Nat) : State :=
  (windowsOf (reg s Key.BELT_WINDOW) is.length is).foldl (fun t w =>
    countIndices t region table version d (inForce s Key.BELT_HOT_CACHE_ENABLE == 1) w) s

/-- The windows that begin among some positions. -/
def windowsIn (w lo hi : Nat) : List Nat :=
  if hi ≤ lo then [] else
    ((List.range ((hi - 1) / w - lo / w + 1)).map (fun i => lo / w + i)).filter (fun n => lo ≤ n * w)

/-! ### BELT_GATHER -/

/-- The Belt that serves a gather (R264). -/
def beltOf (s : State) (j : Job) : Nat :=
  if blPocket j.entry then
    match physBlock (ctxOf s j.ctx) (blLb j.entry) with
    | some b => regionOfBlock b
    | none => j.queue % 4
  else j.queue % 4

/-- A gather may start: its Belt serves fewer than BELT.CONCURRENT, and none admitted before it waits. -/
def gatherMayStart (s : State) (id : Nat) (j : Job) : Bool :=
  let mine := s.jobs.filter (fun p => openJob p.2 && p.2.opcode == Op.BELT_GATHER && beltOf s p.2 == beltOf s j)
  (mine.filter (fun p => !p.2.work.isEmpty)).length < reg s Key.BELT_CONCURRENT &&
    mine.all (fun p => id ≤ p.1 || !p.2.work.isEmpty || !eligible s p.2 Op.BELT_GATHER)

/-- The output row `row` is delivered, and the gather goes on or ends. -/
def gatherRow (s : State) (id : Nat) (j : Job) (d row cache : Nat) : State :=
  let e := j.entry
  let b := bagOf s e row
  let ps := (List.range (b.2 - b.1)).map (fun k => b.1 + k)
  let idx := ps.map (fun p => natAt s (blIdx e + 4 * p) 4)
  let reads := [(blIdx e + 4 * b.1, 4 * ps.length)] ++
    (if blWeighted e then [(blWts e + 4 * b.1, 4 * ps.length)] else []) ++ idx.flatMap (rowReads s d)
  if reads.any (fun r => readBad s r.1 r.2) then finish s id Code.ECC_UNCORRECTABLE row
  else
    let bs := outRow e (poolRow s d e ps)
    let done (t : State) : State :=
      let t1 := (windowsIn (reg t Key.BELT_WINDOW) b.1 b.2).foldl
        (fun t n => countWindow t (beltOf s j) e j.pin d (cache == 1) n) (reads.foldl (fun t r => touchRange t r.1 r.2) t)
      if row + 1 < blOutRows e then updJob t1 id (fun j => { j with work := [1, row + 1, cache] })
      else finish (bump t1 Key.BELT_GATHERS 1) id Code.OK (j.pin * 2 ^ 32 + blOutRows e)
    if blPocket e then
      let at_ := blRow e * 256 + row * blPitch d e
      deliverRows s id j.ctx (blLb e) (at_ / 256) (at_ % 256) bs done
    else
      let a := blDest e + row * blPitch d e
      withWrite s id a bs.length (fun t => done (writeBytes t a bs))

/-- BELT_GATHER: its start, then one output row a step.  Its progress: [mark, row, cache in use]; the mark is 2 once a
delivery was held. -/
def beltGatherBody (s : State) (id : Nat) (j : Job) : State :=
  match tabGet s.belt.tables (blTable j.entry) with
  | none => s
  | some x =>
    match tabGet x.versions j.pin with
    | none => s
    | some d =>
      match j.work with
      | [_, row, cache] => gatherRow s id j d row cache
      | _ =>
        let e := j.entry
        if !gatherMayStart s id j then s
        else if blOffsets e && blPool e != 0 && readBad s (blOffs e) (4 * (blBags e + 1)) then
          finish s id Code.ECC_UNCORRECTABLE 0
        else match (if blOffsets e && blPool e != 0 then firstBadOffset s e else none) with
          | some p => finish s id Code.BAD_FIELD p
          | none => updJob (touchRange s (blOffs e) (if blOffsets e && blPool e != 0 then 4 * (blBags e + 1) else 0)) id
              (fun j => { j with phase := .running, work := [1, 0, inForce s Key.BELT_HOT_CACHE_ENABLE] })

/-- A delivery that finds its context not RUNNING is held, and counted once (Table 12.6). -/
def noteBeltHold (s : State) (id : Nat) : State :=
  match tabGet s.jobs id with
  | some j => match j.work with
    | [1, row, cache] =>
      if openJob j && j.opcode == Op.BELT_GATHER && blPocket j.entry && (ctxOf s j.ctx).state != .running then
        bump (updJob s id (fun j => { j with work := [2, row, cache] })) Key.BELT_DELIVERY_HOLDS 1
      else s
    | _ => s
  | none => s

def beltGatherSources (_ : State) (j : Job) : List (Nat × Nat) := blInputs j.entry

def execBeltGather (job : Nat) (s : State) : Host.Outcome State Fault Refusal :=
  .next (runJob (noteBeltHold s job) job Op.BELT_GATHER beltGatherSources beltGatherBody)

end Sys2Proof.Machine
end

