-- ==== Sys2Proof/Machine/Rank.lean ====
section
/-! DEFINITION. Re-ranking and prompt packing (chapter 13): CROSS_RERANK and PACK. -/

namespace Sys2Proof.Machine

/-! ### Candidate lists and passage text -/

/-- Fields of a search result header (Table 10.9). -/
def shResCount (h : Nat) : Nat := field h 272 16
def shResEpoch (h : Nat) : Nat := field h 288 32

/-- A candidate: its passage, its SCORE word, its HSCORE. -/
structure Candidate where
  passage : Nat
  score   : Nat
  hscore  : Nat
  deriving DecidableEq, Repr

/-- The candidates of a search result at an address. -/
def candidatesAt (s : State) (a : Nat) : List Candidate :=
  (List.range (shResCount (natAt s a 64))).map (fun i =>
    let v := natAt s (a + 64 + 16 * i) 16
    ⟨field v 88 40, field v 32 32, field v 0 16⟩)

/-- Bytes of a search result. -/
def candidateBytes (s : State) (a : Nat) : Nat := 64 + 16 * shResCount (natAt s a 64)

/-- A candidate's passage may be read: below the capacity and visible at an epoch. -/
def candidateSeen (s : State) (x : Index) (e p : Nat) : Bool := p < ixCapacity x.desc && passageVisible s x e p

/-- The place of a passage's record. -/
def textPlace (x : Index) (p : Nat) : Option (Nat × Nat) :=
  (tabGet x.texts p).map (fun t => (ixTextArea x.desc + t.1, t.2))

/-- The token entries of a passage: tokens with their BOUNDARY marks (Table 10.5). -/
def passageEntries (s : State) (x : Index) (p : Nat) : List Nat :=
  match textPlace x p with
  | some (a, _) => (List.range (field (natAt s a 8) 8 32)).map (fun i => natAt s (a + 8 + 4 * i) 4)
  | none => []

/-- The text of some passages cannot be read. -/
def textsBad (s : State) (x : Index) (ps : List Nat) : Bool :=
  ps.any (fun p => match textPlace x p with
    | some (a, n) => readBad s a n
    | none => false)

/-- The records of some passages, as ranges. -/
def textRanges (x : Index) (ps : List Nat) : List (Nat × Nat) := ps.filterMap (textPlace x)

/-- The epoch of a candidate header is pinned by a command, or its status says why not (R269). -/
def pinHeader (s : State) (i id e : Nat) (x : Index) : Nat ⊕ State :=
  if x.current < e then .inl Code.BAD_FIELD
  else if e < oldestOf s x then .inl Code.EPOCH_RETIRED
  else .inr (pinEpoch (updJob s id (fun j => { j with pin := e })) i id e)

/-! ### CROSS_RERANK (R268 to R273) -/

/-- PARAMS (Table 13.3). -/
def xrSrc (e : Nat) : Nat := param e 511 448
def xrCand (e : Nat) : Nat := param e 447 384
def xrQuery (e : Nat) : Nat := param e 383 320
def xrDest (e : Nat) : Nat := param e 319 256
def xrQlen (e : Nat) : Nat := param e 255 224
def xrIndex (e : Nat) : Nat := param e 223 208
def xrKout (e : Nat) : Nat := param e 207 192

/-- Descriptor fields (Table 13.1). -/
def xdWeights (d : Nat) : Nat := field d 448 64
def xdWc (d : Nat) : Nat := field d 416 32
def xdWr (d : Nat) : Nat := field d 384 32
def xdCls (d : Nat) : Nat := field d 352 32
def xdSep (d : Nat) : Nat := field d 320 32
def xdPad (d : Nat) : Nat := field d 288 32
def xdModel (d : Nat) : Nat := field d 272 16
def xdEmb (d : Nat) : Nat := field d 256 16
def xdFeat (d : Nat) : Nat := field d 240 16
def xdSeq (d : Nat) : Nat := field d 224 16
def xdQmax (d : Nat) : Nat := field d 208 16
def xdInRow (d : Nat) : Nat := field d 192 16
def xdLenRow (d : Nat) : Nat := field d 176 16
def xdOutRow (d : Nat) : Nat := field d 160 16
def xdBlocks (d : Nat) : Nat := field d 144 16
def xdBatch (d : Nat) : Nat := field d 136 8
def xdFeatEn (d : Nat) : Bool := bitOf d 8

/-- The descriptor of a table's version that a command pinned. -/
def pinnedDesc (s : State) (t id : Nat) : Option Nat :=
  match tabGet s.belt.tables t with
  | some x => match tabGet x.pins id with
    | some v => tabGet x.versions v
    | none => none
  | none => none

/-- The version of a table that a command pinned. -/
def pinnedVersion (s : State) (t id : Nat) : Nat :=
  match tabGet s.belt.tables t with
  | some x => (tabGet x.pins id).getD 0
  | none => 0

/-- The embeddings of the tokens of a run are taken in by the Belts of the regions whose blocks receive them (R264, R271):
token `g` goes to logical block `g` mod `blocks`. -/
def countEmbeddings (s : State) (id c table emb blocks : Nat) (toks : List Nat) : State :=
  let placed := toks.mapIdx (fun g t => ((physBlock (ctxOf s c) (g % blocks)).map regionOfBlock, t))
  (List.range 4).foldl (fun t r => countGathered t r table (pinnedVersion s table id) emb
    ((placed.filter (fun p => p.1 == some r)).map Prod.snd)) s

/-- A command pins the current version of a table. -/
def pinTable (s : State) (t id : Nat) : State :=
  match currentVersion s t with
  | some v => updTable s t (fun x => { x with pins := tabSet x.pins id v })
  | none => s

/-- CROSS_RERANK pins the tables that its descriptor names at its admission (R269). -/
def crossRerankAdmit (s : State) (id : Nat) : State :=
  match tabGet s.jobs id with
  | some j =>
    let d := natAt s (xrSrc j.entry) 64
    let s1 := pinTable s (xdEmb d) id
    if xdFeatEn d then pinTable s1 (xdFeat d) id else s1
  | none => s

def crossRerankSpec : CmdSpec where
  used _ := usedBits [(511, 448), (447, 384), (383, 320), (319, 256), (255, 224), (223, 208), (207, 192)]
  check s _ e := firstBad
    [((indexOf s (xrIndex e)).isNone, Code.BAD_FIELD),
     (xrSrc e % 64 != 0 || xrCand e % 64 != 0 || xrQuery e % 4 != 0 || xrDest e % 64 != 0, Code.BAD_FIELD),
     (1048576 < xrQlen e || 4096 < xrKout e, Code.BAD_FIELD),
     (!rangeOk s (xrSrc e) 64 || !rangeOk s (xrCand e) 64 || !rangeOk s (xrQuery e) (4 * xrQlen e) ||
       !rangeOk s (xrDest e) (64 + 16 * xrKout e), Code.BAD_FIELD)]
  noop := noZero
  atAdmission := crossRerankAdmit

/-- Pocket rows for the embedding of a token. -/
def xrRowsPerToken (emb : Nat) : Nat := ceilDiv (2 * btDim emb) 256

/-- Embedding rows of the fullest input block. -/
def xrInputRows (d emb : Nat) : Nat := ceilDiv (xdBatch d * xdSeq d) (xdBlocks d) * xrRowsPerToken emb

/-- A row lies within the embedding rows of logical block 0. -/
def xrInInput (d emb row : Nat) : Bool := xdInRow d ≤ row && row < xdInRow d + xrInputRows d emb

/-- A submission entry that runs a model's program, as ARRAY_RUN with SOURCE = 1 would have it. -/
def runEntry (m : Nat) : Nat := m * 2 ^ 432 + 2 ^ 431

/-- The descriptor breaks its limits, or names what does not exist (R268, R271). -/
def xrDescBad (s : State) (c id d : Nat) : Bool :=
  let rows := contextRows s
  xdSeq d < 8 || 8192 < xdSeq d || xdQmax d == 0 || xdSeq d - 4 < xdQmax d || xdBlocks d == 0 ||
    4 * (ctxOf s c).partition < xdBlocks d || xdBatch d == 0 || 64 < xdBatch d || field d 9 127 != 0 ||
    (modelOf s (xdModel d)).isNone || arrayRunCheck s c (runEntry (xdModel d)) != Code.OK ||
    match pinnedDesc s (xdEmb d) id with
    | none => true
    | some emb =>
      rows < xdInRow d + xrInputRows d emb || rows ≤ xdLenRow d || rows ≤ xdOutRow d ||
        xrInInput d emb (xdLenRow d) || xrInInput d emb (xdOutRow d) ||
        (xdFeatEn d && match pinnedDesc s (xdFeat d) id with
          | none => true
          | some f => xdWeights d % 4 != 0 || !rangeOk s (xdWeights d) (4 * btDim f))

/-- The pair sequence of a candidate (R270): its tokens, and its length word. -/
def pairSequence (d : Nat) (query tokens : List Nat) : List Nat × Nat :=
  let q := query.drop (query.length - Nat.min query.length (xdQmax d))
  let m := Nat.min tokens.length (xdSeq d - 3 - q.length)
  let body := [xdCls d] ++ q ++ [xdSep d] ++ (tokens.take m).map (fun t => t % 2 ^ 20) ++ [xdSep d]
  (body ++ List.replicate (xdSeq d - body.length) (xdPad d), body.length)

/-- The scored candidates of a CROSS_RERANK, in list order. -/
def xrScored (s : State) (x : Index) (j : Job) : List Candidate :=
  (candidatesAt s (xrCand j.entry)).filter (fun c => candidateSeen s x j.pin c.passage)

/-- The pairs of batch `b`, filled with padding pairs. -/
def xrBatch (s : State) (x : Index) (j : Job) (d b : Nat) : List (List Nat × Nat) :=
  let query := (List.range (xrQlen j.entry)).map (fun i => natAt s (xrQuery j.entry + 4 * i) 4 % 2 ^ 20)
  let cs := ((xrScored s x j).drop (b * xdBatch d)).take (xdBatch d)
  let ps := cs.map (fun c => pairSequence d query (passageEntries s x c.passage))
  ps ++ List.replicate (xdBatch d - ps.length) (List.replicate (xdSeq d) (xdPad d), 0)

/-- What a batch reads: the records of its passages, and its embedding rows. -/
def xrBatchRanges (s : State) (x : Index) (j : Job) (d emb b : Nat) : List (Nat × Nat) :=
  textRanges x ((((xrScored s x j).drop (b * xdBatch d)).take (xdBatch d)).map (fun c => c.passage)) ++
    ((xrBatch s x j d b).map Prod.fst).flatten.flatMap (rowReads s emb)

/-- The Pocket writes of a batch (R271): logical block, row, byte, bytes. -/
def xrWrites (s : State) (d emb : Nat) (ps : List (List Nat × Nat)) : List (Nat × Nat × Nat × List Nat) :=
  let toks := (ps.map Prod.fst).flatten
  let rpt := xrRowsPerToken emb
  (toks.mapIdx (fun g t => (g % xdBlocks d, xdInRow d + g / xdBlocks d * rpt, 0,
    (rowFor s emb t).flatMap (fun v => leBytes 2 (toBf16 v))))) ++
  (ps.mapIdx (fun i p => (0, xdLenRow d, 4 * i, leBytes 4 p.2)))

/-- Channel-window slots of some Pocket writes. -/
def writesSlots (x : Ctx) (ws : List (Nat × Nat × Nat × List Nat)) : List (Nat × Nat) :=
  (ws.flatMap (fun w => slotsOf x w.1 w.2.1 (ceilDiv (w.2.2.1 + w.2.2.2.length) 256))).eraseDups

/-- A batch is delivered, as one accessor. -/
def deliverBatch (s : State) (id c : Nat) (ws : List (Nat × Nat × Nat × List Nat)) (go : State → State) : State :=
  let x := ctxOf s c
  let slots := writesSlots x ws
  if claimable x [] slots then
    let s1 := ws.foldl (fun t w => lbWrite (countStrays t x w.1 portBelt w.2.1 (ceilDiv (w.2.2.1 + w.2.2.2.length) 256)) x
      w.1 w.2.1 w.2.2.1 w.2.2.2) s
    go (updCtx (updJob s1 id (fun j => { j with stalled := [] })) c (fun y => retireSlots y [] slots))
  else updJob s id (fun j => { j with stalled := slots })

/-- The index of a candidate's feature row (R272). -/
def featureIndex (c : Candidate) : Nat := if 0xFFFFFFFE < c.passage then 0xFFFFFFFF else c.passage

/-- The combined score of a candidate (R272). -/
def xrCombined (s : State) (d : Nat) (feat : Option Nat) (c : Candidate) (score : Nat) : Num :=
  let dterm := match feat with
    | some f =>
      let row := rowFor s f (featureIndex c)
      let u := (List.range (btDim f)).map (fun i => ofF32 (natAt s (xdWeights d + 4 * i) 4))
      groupSums Num.mul (btDim f / 8) row u .zero
    | none => .zero
  fp32 ((fp32 ((fp32 ((ofF32 (xdWc d)).mul (ofF32 score))).add (fp32 ((ofF32 (xdWr d)).mul (ofF32 c.score))))).add dterm)

/-- The end of a CROSS_RERANK: the best K_OUT by combined score. -/
def xrEnd (s : State) (id : Nat) (j : Job) (x : Index) (d : Nat) (scores : List Nat) : State :=
  let e := j.entry
  let feat := if xdFeatEn d then pinnedDesc s (xdFeat d) id else none
  let cs := xrScored s x j
  let bad := match feat with
    | some f => readBad s (xdWeights d) (4 * btDim f) || cs.any (fun c => (rowReads s f (featureIndex c)).any (fun r => readBad s r.1 r.2))
    | none => false
  if bad then finish s id Code.ECC_UNCORRECTABLE 0
  else
    let all := (cs.zip scores).map (fun p => (xrCombined s d feat p.1 p.2, p.1))
    let good := all.filter (fun p => !p.1.isNan)
    let best := (sortBy (fun a b => scoreBefore (a.1, a.2.passage) (b.1, b.2.passage)) good).take (xrKout e)
    let count := shResCount (natAt s (xrCand e) 64)
    let q : Query := {
      index := xrIndex e, epoch := j.pin, values := [], sketch := 0, lists := [], scanned := count, passed := count }
    let bs := leBytes 64 (searchHeader q cs.length best.length (all.length - good.length) false) ++
      (best.map (fun p => leBytes 16 (searchEntry p.2.passage false (toF32 p.1) p.2.hscore))).flatten
    withWrite s id (xrDest e) bs.length (fun t0 =>
      let t := match feat with
        | some f => countGathered (touchRanges t0 ((xdWeights d, 4 * btDim f) ::
            cs.flatMap (fun c => rowReads s f (featureIndex c)))) (j.queue % 4) (xdFeat d) (pinnedVersion s (xdFeat d) id) f
            (cs.map featureIndex)
        | none => t0
      let t1 := bump (bump (writeBytes t (xrDest e) bs) Key.XRANK_COMMANDS 1) Key.XRANK_PAIRS cs.length
      finish t1 id (if best.length == xrKout e then Code.OK else Code.OK_SHORT) (searchResult best.length cs.length))

/-- The inputs of a CROSS_RERANK beside its descriptor and candidate header. -/
def xrInputs (s : State) (e : Nat) : List (Nat × Nat) :=
  [(xrSrc e, 64), (xrCand e, candidateBytes s (xrCand e)), (xrQuery e, 4 * xrQlen e)]

/-- The start of a CROSS_RERANK: its checks and its pin. -/
def xrStart (s : State) (id : Nat) (j : Job) (x : Index) : State :=
  let e := j.entry
  let out := 64 + 16 * xrKout e
  if readBad s (xrSrc e) 64 || readBad s (xrCand e) 64 then finish s id Code.ECC_UNCORRECTABLE 0
  else fetchMore s id j [(xrCand e, candidateBytes s (xrCand e))] (fun s =>
    let d := natAt s (xrSrc e) 64
    let h := natAt s (xrCand e) 64
    if field d 0 8 != 1 || field h 0 8 != 1 then finish s id Code.VERSION_UNSUPPORTED 0
    else if !rangeOk s (xrCand e) (candidateBytes s (xrCand e)) || xrDescBad s j.ctx id d ||
        (xrInputs s e).any (fun r => bytesMeet r.1 r.2 (xrDest e) out) || shResCount h < xrKout e && shResCount h != 0
      then finish s id Code.BAD_FIELD 0
    else if shResCount h == 0 then finish s id Code.OK_NOOP 0
    else match pinHeader s (xrIndex e) id (shResEpoch h) x with
      | .inl st => finish s id st 0
      | .inr t =>
        if (xrInputs t e).any (fun r => readBad t r.1 r.2) ||
            textsBad t x ((xrScored t x { j with pin := shResEpoch h }).map (fun c => c.passage)) then
          finish t id Code.ECC_UNCORRECTABLE 0
        else updJob (touchRanges t (xrInputs t e)) id (fun j => { j with phase := .running, work := [1] }))

/-- CROSS_RERANK.  Its progress: 1 to deliver the next batch or 2 while its program runs, then the scores so far. -/
def crossRerankBody (s : State) (id : Nat) (j : Job) : State :=
  let e := j.entry
  match tabGet s.indexes (xrIndex e) with
  | none => finish s id Code.BAD_FIELD 0
  | some x =>
    let d := natAt s (xrSrc e) 64
    match j.work with
    | 1 :: scores =>
      let n := (xrScored s x j).length
      if n ≤ scores.length then xrEnd s id j x d (scores.take n)
      else match pinnedDesc s (xdEmb d) id, tabGet s.models (xdModel d) with
        | some emb, some m =>
          let ps := xrBatch s x j d (scores.length / xdBatch d)
          let toks := (ps.map Prod.fst).flatten
          if toks.any (fun t => (rowReads s emb t).any (fun r => readBad s r.1 r.2)) || readBad s m.addr m.size then
            finish s id Code.ECC_UNCORRECTABLE 0
          else if !runMayStart s id j.ctx (some (xdModel d)) then s
          else deliverBatch s id j.ctx (xrWrites s d emb ps) (fun t =>
            let t0 := countEmbeddings (touchRanges t (xrBatchRanges s x j d emb (scores.length / xdBatch d))) id j.ctx (xdEmb d)
              emb (xdBlocks d) toks
            let t1 := nextRun t0 j.ctx
            startRun (updJob t1 id (fun j => { j with work := 2 :: scores })) id j.ctx m.addr (some (xdModel d))
              (runSeqOf (ctxOf t1 j.ctx)))
        | _, _ => finish s id Code.BAD_FIELD 0
    | 2 :: scores =>
      match tabGet s.array.runs id with
      | some r =>
        if r.streams.all (fun st => st.count == 0) then finish s id Code.OK_NOOP 0
        else if !r.ended then s
        else
          let y := ctxOf s j.ctx
          let slots := slotsOf y 0 (xdOutRow d) 1
          if claimable y slots [] then
            let ws := (List.range (xdBatch d)).map (fun i => ofLeBytes (lbRead s y 0 (xdOutRow d) (4 * i) 4))
            let s1 := updCtx (dropRun s id) j.ctx (fun y => retireSlots y slots [])
            updJob s1 id (fun j => { j with work := 1 :: (scores ++ ws), stalled := [] })
          else updJob s id (fun j => { j with stalled := slots })
      | none => s
    | _ => xrStart s id j x

def crossRerankSources (_ : State) (j : Job) : List (Nat × Nat) :=
  [(xrSrc j.entry, 64), (xrCand j.entry, 64), (xrQuery j.entry, 4 * xrQlen j.entry)]

def execCrossRerank (job : Nat) (s : State) : Host.Outcome State Fault Refusal :=
  .next (runJob s job Op.CROSS_RERANK crossRerankSources crossRerankBody)

/-! ### Templates (R274, Table 13.4) -/

/-- PARAMS of PACK (Table 13.5). -/
def pcTemplate (e : Nat) : Nat := param e 511 448
def pcCand (e : Nat) : Nat := param e 447 384
def pcQuery (e : Nat) : Nat := param e 383 320
def pcDest (e : Nat) : Nat := param e 319 256
def pcReport (e : Nat) : Nat := param e 255 192
def pcQlen (e : Nat) : Nat := param e 191 168
def pcBudget (e : Nat) : Nat := param e 167 144
def pcIndex (e : Nat) : Nat := param e 143 128
def pcPeer (e : Nat) : Nat := param e 127 112
def pcMaxPassages (e : Nat) : Nat := param e 111 96
def pcMinTokens (e : Nat) : Nat := param e 95 80
def pcDupDist (e : Nat) : Nat := param e 79 72
def pcOrder (e : Nat) : Nat := param e 71 70
def pcDedup (e : Nat) : Bool := paramBit e 69
def pcTruncate (e : Nat) : Bool := paramBit e 68
def pcRemote (e : Nat) : Bool := paramBit e 67
def pcReportEn (e : Nat) : Bool := paramBit e 66

/-- A segment of a template. -/
inductive TemplateSeg where
  | literal (tokens : List Nat)
  | query
  | passages (pre post : List Nat)
  deriving DecidableEq, Repr

/-- `n` segments from a list of bytes; none where they break R274. -/
def templateSegs : Nat → List Nat → Option (List TemplateSeg)
  | 0, _ => some []
  | n + 1, bs =>
    let h := ofLeBytes (bs.take 8)
    let a := field h 32 32
    let b := field h 16 16
    let kind := field h 0 8
    let count := if kind == 2 then a + b else a
    let size := 8 + 8 * ceilDiv count 2
    let toks := (List.range count).map (fun i => ofLeBytes ((bs.drop (8 + 4 * i)).take 4))
    if bs.length < 8 || bs.length < size || field h 8 8 != 0 || 2 < kind || (kind == 0 && b != 0) ||
        (kind == 1 && (a != 0 || b != 0)) || toks.any (fun t => field t 20 12 != 0) then none
    else
      let seg : TemplateSeg :=
        if kind == 0 then .literal toks else if kind == 1 then .query else .passages (toks.take a) (toks.drop a)
      (templateSegs n (bs.drop size)).map (fun rest => seg :: rest)

/-- The passages segment's PRE and POST, when there is exactly one, and at most one query segment. -/
def templateShape (l : List TemplateSeg) : Option (List Nat × List Nat) :=
  let ps := l.filterMap (fun g => match g with
    | .passages a b => some (a, b)
    | _ => none)
  if ps.length == 1 && (l.filter (fun g => g == .query)).length ≤ 1 then ps.head? else none

/-- The fixed tokens F. -/
def fixedTokens (l : List TemplateSeg) (qlen : Nat) : Nat :=
  (l.map (fun g => match g with
    | .literal ts => ts.length
    | .query => qlen
    | .passages _ _ => 0)).sum

/-! ### Packing sketches (R276) -/

/-- The packing sketch of a passage's tokens. -/
def packSketch (s : State) (toks : List Nat) : Nat :=
  let n := Nat.max (toks.length - 2) 1
  let p (i : Nat) : Nat := toks[i]?.getD 0xFFFFF
  let gs := (List.range n).map (fun i =>
    let e := p i + p (i + 1) * 2 ^ 20 + p (i + 2) * 2 ^ 40
    let stream := reg s Key.PACK_SKETCH_STREAM
    generate 0 stream (2 * e) + generate 0 stream (2 * e + 1) * 2 ^ 128)
  (List.range 256).foldl (fun v b =>
    if n < 2 * (gs.filter (fun g => bitOf g b)).length then v + 2 ^ b else v) 0

/-! ### Choosing, cutting and ordering (R277, R278) -/

/-- Outcomes of candidates (Table 13.7). -/
inductive PackOutcome where
  | packed | truncated | duplicate (of : Nat) | noRoom | overLimit | hidden | empty
  deriving DecidableEq, Repr

def PackOutcome.code : PackOutcome → Nat
  | .packed => 0 | .truncated => 1 | .duplicate _ => 2 | .noRoom => 3 | .overLimit => 4 | .hidden => 5 | .empty => 6

/-- A kept candidate: its list index, its passage, the tokens placed, its packing sketch. -/
structure Kept where
  idx     : Nat
  passage : Nat
  tokens  : List Nat
  sketch  : Nat
  deriving DecidableEq, Repr

/-- The packer's loop: room left, kept candidates in order, outcomes in order. -/
structure Packing where
  room     : Nat
  kept     : List Kept := []
  outcomes : List PackOutcome := []
  deriving DecidableEq, Repr

/-- The longest cut of a passage at a boundary mark within some room. -/
def boundaryCut (entries : List Nat) (room : Nat) : Option Nat :=
  ((List.range (Nat.min entries.length room)).filter (fun i => bitOf (entries[i]?.getD 0) 31)).getLast?.map (fun i => i + 1)

/-- One candidate decided. -/
def packOne (s : State) (x : Index) (e epoch pre post : Nat) (st : Packing) (j : Nat) (c : Candidate) : Packing :=
  let out (o : PackOutcome) : Packing := { st with outcomes := st.outcomes ++ [o] }
  if !candidateSeen s x epoch c.passage then out .hidden
  else
    let entries := passageEntries s x c.passage
    let toks := entries.map (fun t => t % 2 ^ 20)
    let sk := if pcDedup e then packSketch s toks else 0
    let keep (n : Nat) (o : PackOutcome) : Packing :=
      { room := st.room - (pre + n + post), kept := st.kept ++ [⟨j, c.passage, toks.take n, sk⟩],
        outcomes := st.outcomes ++ [o] }
    if toks.isEmpty then out .empty
    else match (if pcDedup e then
        st.kept.find? (fun k => popCount 256 (k.sketch ^^^ sk) ≤ pcDupDist e) else none) with
      | some k => out (.duplicate k.idx)
      | none =>
        if st.kept.length == pcMaxPassages e then out .overLimit
        else if pre + toks.length + post ≤ st.room then keep toks.length .packed
        else if pcTruncate e && pre + post < st.room then
          match boundaryCut entries (st.room - pre - post) with
          | some m => if pcMinTokens e ≤ m then keep m .truncated else out .noRoom
          | none => out .noRoom
        else out .noRoom

/-- Every second entry, from the first. -/
def everySecond {α : Type} : List α → List α
  | a :: _ :: l => a :: everySecond l
  | l => l

/-- The kept candidates in the order of R278. -/
def packOrder (order : Nat) (l : List Kept) : List Kept :=
  if order == 0 then l
  else if order == 1 then l.reverse
  else if order == 2 then sortBy (fun a b => a.passage < b.passage) l
  else everySecond l ++ (everySecond (l.drop 1)).reverse

/-- The prompt (R279). -/
def promptTokens (l : List TemplateSeg) (query : List Nat) (kept : List Kept) : List Nat :=
  l.flatMap (fun g => match g with
    | .literal ts => ts
    | .query => query
    | .passages a b => kept.flatMap (fun k => a ++ k.tokens ++ b))

/-- The prompt position of the passages segment. -/
def passagesStart (l : List TemplateSeg) (qlen : Nat) : Nat :=
  fixedTokens (l.takeWhile (fun g => match g with
    | .passages _ _ => false
    | _ => true)) qlen

/-- The start of each kept passage's first token: its list index, its place, its position. -/
def keptStarts (pre post : Nat) : Nat → Nat → List Kept → List (Nat × Nat × Nat × Nat)
  | _, _, [] => []
  | place, at_, k :: ks =>
    (k.idx, place, at_ + pre, k.tokens.length) ::
      keptStarts pre post (place + 1) (at_ + pre + k.tokens.length + post) ks

/-- The pack report (Table 13.7). -/
def packReport (cs : List Candidate) (p : Packing) (starts : List (Nat × Nat × Nat × Nat)) (prompt : Nat) : List Nat :=
  let n (f : PackOutcome → Bool) : Nat := (p.outcomes.filter f).length
  let code (lo hi : Nat) : PackOutcome → Bool := fun o => lo ≤ o.code && o.code ≤ hi
  let h := cs.length * 2 ^ 480 + n (code 0 1) * 2 ^ 448 + n (code 1 1) * 2 ^ 416 + n (code 2 2) * 2 ^ 384 +
    n (code 3 4) * 2 ^ 352 + n (code 5 6) * 2 ^ 320 + prompt * 2 ^ 296 + p.room * 2 ^ 272 + 1
  leBytes 64 h ++ ((cs.zip p.outcomes).mapIdx (fun i c =>
    let place := starts.find? (fun t => t.1 == i)
    let dup := match c.2 with
      | .duplicate k => k
      | _ => 0xFFFF
    let v := match place with
      | some t => t.2.1 * 2 ^ 72 + t.2.2.2 * 2 ^ 32 + t.2.2.1
      | none => 0xFFFF * 2 ^ 72
    leBytes 16 (c.1.passage * 2 ^ 88 + v + dup * 2 ^ 56 + c.2.code * 2 ^ 24))).flatten

/-! ### PACK (R274 to R281) -/

def packSpec : CmdSpec where
  used e := usedBits ([(511, 448), (447, 384), (383, 320), (319, 256), (191, 168), (167, 144), (143, 128), (111, 96),
    (95, 80), (79, 72), (71, 70), (69, 69), (68, 68), (67, 67), (66, 66)] ++
    (if pcReportEn e then [(255, 192)] else []) ++ (if pcRemote e then [(127, 112)] else []))
  check s c e :=
    let mail := 64 + 4 * pcBudget e
    let ins := [(pcTemplate e, 64), (pcCand e, 64), (pcQuery e, 4 * pcQlen e)]
    firstBad
      [((indexOf s (pcIndex e)).isNone, Code.BAD_FIELD),
       (pcTemplate e % 64 != 0 || pcCand e % 64 != 0 || pcQuery e % 4 != 0 || pcDest e % 64 != 0 ||
         (pcReportEn e && pcReport e % 64 != 0), Code.BAD_FIELD),
       (1048576 < pcQlen e || reg s Key.PACK_MAX_BUDGET < pcBudget e, Code.BAD_FIELD),
       (ins.any (fun r => !rangeOk s r.1 r.2), Code.BAD_FIELD),
       (pcReportEn e && !rangeOk s (pcReport e) 64, Code.BAD_FIELD),
       (!pcRemote e && (!rangeOk s (pcDest e) mail || ins.any (fun r => bytesMeet r.1 r.2 (pcDest e) mail)),
         Code.BAD_FIELD),
       (pcRemote e && match boundJob s c with
         | some k => !jobMember (jobEntry s k) (pcPeer e)
         | none => true, Code.BAD_FIELD)]
  noop := noZero
  atAdmission := noAdmit

/-- What a PACK makes of its inputs: the packing, its candidates, the prompt, and the kept passages' places. -/
structure Packed where
  packing : Packing
  cands   : List Candidate
  prompt  : List Nat
  starts  : List (Nat × Nat × Nat × Nat)
  deriving DecidableEq, Repr

/-- The pack of an epoch over a template. -/
def packAll (s : State) (x : Index) (e epoch : Nat) (l : List TemplateSeg) (pre post : List Nat) : Packed :=
  let query := (List.range (pcQlen e)).map (fun i => natAt s (pcQuery e + 4 * i) 4 % 2 ^ 20)
  let cs := candidatesAt s (pcCand e)
  let p := (cs.zipIdx).foldl (fun st c => packOne s x e epoch pre.length post.length st c.2 c.1)
    { room := pcBudget e - fixedTokens l (pcQlen e) }
  let kept := packOrder (pcOrder e) p.kept
  { packing := p, cands := cs, prompt := promptTokens l query kept
    starts := keptStarts pre.length post.length 0 (passagesStart l (pcQlen e)) kept }

/-- The template of a PACK, or its status and RESULT. -/
def packTemplate (s : State) (e : Nat) : (Nat × Nat) ⊕ (List TemplateSeg × List Nat × List Nat) :=
  let a := pcTemplate e
  let h := natAt s a 64
  let bytes := field h 448 64
  let n := field h 416 32
  if field h 0 8 != 1 then .inl (Code.VERSION_UNSUPPORTED, 0)
  else if field h 8 408 != 0 || n == 0 || 64 < n || bytes < 64 || !rangeOk s a bytes then .inl (Code.BAD_FIELD, 0)
  else match templateSegs n (bytesAt s (a + 64) (bytes - 64)) with
    | none => .inl (Code.BAD_FIELD, 0)
    | some l => match templateShape l with
      | none => .inl (Code.BAD_FIELD, 0)
      | some (pre, post) =>
        let f := fixedTokens l (pcQlen e)
        if pcBudget e < f then .inl (Code.PACK_OVER_BUDGET, f)
        else if pcBudget e == 0 then .inl (Code.OK_NOOP, 0)
        else .inr (l, pre, post)

/-- The mailbox header (Table 13.6). -/
def mailboxHeader (s : State) (j : Job) (seq : Nat) (p : Packed) : Nat :=
  let dev := if ownDevice s == 0xFFFF then 0 else ownDevice s
  seq * 2 ^ 448 + p.prompt.length * 2 ^ 424 + p.packing.kept.length * 2 ^ 408 + j.pin * 2 ^ 352 + dev * 2 ^ 336 +
    j.ctx * 2 ^ 320 + pcIndex j.entry * 2 ^ 304 + 1

/-- The end of a PACK, once its header is written: the counters, the status and RESULT (R281). -/
def packEnd (s : State) (id : Nat) (j : Job) (p : Packed) : State :=
  let n (f : PackOutcome → Bool) : Nat := (p.packing.outcomes.filter f).length
  let s1 := bump (bump s Key.PACK_DUPLICATES (n (fun o => o.code == 2))) Key.PACK_TRUNCATIONS (n (fun o => o.code == 1))
  let s2 := if pcRemote j.entry then bump s1 Key.PACK_REMOTE_HANDOFFS 1 else s1
  let cut := p.packing.outcomes.any (fun o => o.code == 1 || o.code == 3 || o.code == 4)
  finish s2 id (if cut then Code.OK_TRUNCATED else Code.OK) (p.packing.kept.length * 2 ^ 32 + p.prompt.length)

/-- Remote writes of bytes, at most 128 to a message (R280). -/
def remoteWrites (id ctx job dest : Nat) : Nat → State → Nat → List Nat → State
  | 0, s, _, _ => s
  | n + 1, s, a, bs =>
    if bs.isEmpty || !isOpen s id then s
    else
      let part := bs.take 128
      remoteWrites id ctx job dest n (issueRemote s id ctx job dest true a part.length (ofLeBytes part)) (a + 128)
        (bs.drop 128)

/-- The tokens as bytes. -/
def tokenWords (ts : List Nat) : List Nat := ts.flatMap (leBytes 4)

/-- A PACK with its inputs read.  Its progress: 1 when the prompt and the report are written, 2 when the header has left
for the peer. -/
def packGo (s : State) (id : Nat) (j : Job) (p : Packed) : State :=
  let e := j.entry
  let toks := tokenWords p.prompt
  let report := packReport p.cands p.packing p.starts p.prompt.length
  let peer (t : State) (a : Nat) (bs : List Nat) : State :=
    match boundJob t j.ctx with
    | some k => remoteWrites id j.ctx k (pcPeer e) (bs.length / 128 + 1) t a bs
    | none => finish t id Code.HANDOFF_REFUSED 0
  match j.work with
  | [2] => packEnd s id j p
  | [1] =>
    let seq := (reg s Key.PACK_PACKS + 1) % 2 ^ 64
    let h := leBytes 64 (mailboxHeader s j seq p)
    if pcRemote e then
      peer (updJob (bump s Key.PACK_PACKS 1) id (fun j => { j with work := [2] })) (pcDest e) h
    else withWrite s id (pcDest e) 64 (fun t => packEnd (bump (writeBytes t (pcDest e) h) Key.PACK_PACKS 1) id j p)
  | _ =>
    let next (t : State) : State :=
      let t1 := updJob t id (fun j => { j with phase := .running, work := [1] })
      if pcRemote e then peer t1 (pcDest e + 64) toks else t1
    let local_ := (if pcRemote e then [] else [(pcDest e + 64, toks)]) ++
      (if pcReportEn e then [(pcReport e, report)] else [])
    if local_.any (fun w => inWindow w.1) && s.aedup.link.state != .active then s
    else withWrites s id (local_.filter (fun w => !inWindow w.1)) (fun t =>
      next (local_.foldl (fun t w => notePosted (writeBytes t w.1 w.2) id w.1 w.2.length) t))

/-- What a PACK reads: its template, candidates and query, and the records of the passages seen. -/
def packRanges (s : State) (x : Index) (e : Nat) (ps : List Nat) : List (Nat × Nat) :=
  [(pcTemplate e, field (natAt s (pcTemplate e) 64) 448 64), (pcCand e, candidateBytes s (pcCand e)),
    (pcQuery e, 4 * pcQlen e)] ++ textRanges x ps

/-- PACK. -/
def packBody (s : State) (id : Nat) (j : Job) : State :=
  let e := j.entry
  match tabGet s.indexes (pcIndex e) with
  | none => finish s id Code.BAD_FIELD 0
  | some x =>
    if readBad s (pcTemplate e) 64 || readBad s (pcCand e) 64 || readBad s (pcQuery e) (4 * pcQlen e) then
      finish s id Code.ECC_UNCORRECTABLE 0
    else fetchMore s id j [(pcTemplate e, field (natAt s (pcTemplate e) 64) 448 64),
        (pcCand e, candidateBytes s (pcCand e))] (fun s =>
      let h := natAt s (pcCand e) 64
      if readBad s (pcTemplate e) (field (natAt s (pcTemplate e) 64) 448 64) ||
          readBad s (pcCand e) (candidateBytes s (pcCand e)) then finish s id Code.ECC_UNCORRECTABLE 0
      else match packTemplate s e with
        | .inl (st, r) => finish s id st r
        | .inr (l, pre, post) =>
          if field h 0 8 != 1 then finish s id Code.VERSION_UNSUPPORTED 0
          else if !rangeOk s (pcCand e) (candidateBytes s (pcCand e)) || (pcReportEn e &&
              !rangeOk s (pcReport e) (candidateBytes s (pcCand e))) then finish s id Code.BAD_FIELD 0
          else match (if tabHas (openPins s x) id then .inr s else pinHeader s (pcIndex e) id (shResEpoch h) x) with
            | .inl st => finish s id st 0
            | .inr t =>
              let epoch := shResEpoch h
              let seen := (candidatesAt t (pcCand e)).filter (fun c => candidateSeen t x epoch c.passage)
              if textsBad t x (seen.map (fun c => c.passage)) then finish t id Code.ECC_UNCORRECTABLE 0
              else packGo (if j.work.isEmpty then touchRanges t (packRanges t x e (seen.map (fun c => c.passage))) else t) id
                { j with pin := epoch } (packAll t x e epoch l pre post))

def packSources (_ : State) (j : Job) : List (Nat × Nat) :=
  [(pcTemplate j.entry, 64), (pcCand j.entry, 64), (pcQuery j.entry, 4 * pcQlen j.entry)]

def execPack (job : Nat) (s : State) : Host.Outcome State Fault Refusal :=
  .next (runJob s job Op.PACK packSources packBody)

end Sys2Proof.Machine
end

