-- ==== Sys2Proof/Machine/Sampler.lean ====
section
/-! DEFINITION. The sampler's processing of logits, the commands of the generator, and grammars (chapter 15). -/

namespace Sys2Proof.Machine

/-! ### The sampling block (Table 15.1) -/

def sbTemperature (b : Nat) : Nat := field b 480 32
def sbTopP (b : Nat) : Nat := field b 448 32
def sbRep (b : Nat) : Nat := field b 416 32
def sbPresence (b : Nat) : Nat := field b 384 32
def sbStream (b : Nat) : Nat := field b 352 32
def sbStart (b : Nat) : Nat := field b 328 24
def sbGrammar (b : Nat) : Nat := field b 312 16
def sbWindow (b : Nat) : Nat := field b 296 16
def sbTopK (b : Nat) : Nat := field b 280 16
def sbDraftMask (b : Nat) : Bool := bitOf b 11
def sbForceEos (b : Nat) : Bool := bitOf b 10
def sbGrammarEn (b : Nat) : Bool := bitOf b 9
def sbPrompt (b : Nat) : Bool := bitOf b 8

/-- The last stream that commands may name (R315). -/
def lastUserStream : Nat := 0xFFFEFFFF

/-- A field of a sampling block lies outside its limits, or a reserved bit is set. -/
def samplingBad (s : State) (b : Nat) : Bool :=
  let t := ofF32 (sbTemperature b)
  let p := ofF32 (sbTopP b)
  let r := ofF32 (sbRep b)
  !t.isFinite || Num.lt t .zero || !Num.lt .zero p || Num.lt .one p || p.isNan || !r.isFinite || !Num.lt .zero r ||
    !finiteF32 (sbPresence b) || lastUserStream < sbStream b || reg s Key.SAMPLER_MAX_WINDOW < sbWindow b ||
    reg s Key.SAMPLER_MAX_TOP_K < sbTopK b || field b 12 268 != 0

/-- The request decodes greedily. -/
def greedy (b : Nat) : Bool := (ofF32 (sbTemperature b)).isZero

/-! ### The order of processing (R307 to R313) -/

/-- A weight of one. -/
def oneF32 : Nat := 0x3F800000

/-- One candidate penalized, when it occurs in the window (R309). -/
def penalize (b : Nat) (window : List Nat) (x : Sel) : Sel :=
  if window.contains x.key then
    let r := ofF32 (sbRep b)
    let z := if Num.lt .zero x.value then divF32 x.value r else fp32 (x.value.mul r)
    { x with value := fp32 (z.sub (ofF32 (sbPresence b))) }
  else x

/-- The shortest prefix whose exact cumulative weight reaches a target (R311). -/
def prefixReaching (target : Num) : Num → List (Nat × Nat) → List (Nat × Nat)
  | _, [] => []
  | acc, x :: xs =>
    let acc' := acc.add (ofF32 x.2)
    if Num.le target acc' then [x] else x :: prefixReaching target acc' xs

/-- The exact sum of some weights. -/
def weightSum (d : Dist) : Num := Num.sum (d.map (fun x => ofF32 x.2))

/-- The weights of ranked candidates under the largest logit `m` (R311). -/
def weightsOf (m : Num) (ranked : List Sel) : Dist :=
  ranked.map (fun x => (x.key,
    if m.isInf then (if x.value == m then oneF32 else 0) else toF32 (expNum (fp32 (x.value.sub m)))))

/-- What the sampler makes of a position: its distribution, the NaN logits removed, and whether no candidate was valid. -/
structure Processed where
  dist    : Dist
  nans    : Nat
  noValid : Bool
  deriving DecidableEq, Repr

/-- The kept set of a position whose candidates are ranked (R310, R311); none when C counts as empty. -/
def keptSet (b : Nat) (ranked : List Sel) : Option Dist :=
  match ranked with
  | [] => none
  | top :: _ =>
    if greedy b then some [(top.key, oneF32)]
    else if top.value == .inf true then none
    else
      let ws := weightsOf top.value ranked
      let p := ofF32 (sbTopP b)
      let kept := if Num.lt p .one then prefixReaching (p.mul (weightSum ws)) .zero ws else ws
      some (sortBy (fun a b => a.1 < b.1) kept)

/-- The six steps of R307 but the draw, over a position's FP32 logits. -/
def processLogits (b : Nat) (mask : Nat → Bool) (window : List Nat) (logits : List Nat) : Processed :=
  let allowed := (logits.mapIdx (fun t z => ({ key := t, value := ofF32 z } : Sel))).filter (fun x => mask x.key)
  let c := (allowed.filter (fun x => !x.value.isNan)).map (penalize b window)
  let z := if greedy b then c else c.map (fun x => { x with value := divF32 x.value (ofF32 (sbTemperature b)) })
  let ranked := sortBy (ranksBefore false) z
  let kept := if greedy b || sbTopK b == 0 then ranked else ranked.take (sbTopK b)
  match keptSet b kept with
  | some d => ⟨d, allowed.length - c.length, false⟩
  | none => ⟨(allowed.head?.map (fun x => (x.key, oneF32))).toList, allowed.length - c.length, true⟩

/-- The first token, walking in ascending order, whose running sum exceeds the target. -/
def walkTo (target : Num) : Num → List (Nat × Num) → Option Nat
  | _, [] => none
  | acc, x :: xs =>
    let acc' := acc.add x.2
    if Num.lt target acc' then some x.1 else walkTo target acc' xs

/-- The draw of R312 over exact weights, by a 64-bit u. -/
def drawWeighted (u : Nat) (ws : List (Nat × Num)) : Nat :=
  let total := Num.sum (ws.map Prod.snd)
  (walkTo (((Num.ofNat u).mul total).shift (-64)) .zero ws).getD 0

/-- A distribution with exact weights. -/
def exactDist (d : Dist) : List (Nat × Num) := d.map (fun x => (x.1, ofF32 x.2))

/-- The weight of a token in a distribution. -/
def weightIn (d : Dist) (t : Nat) : Num := ofF32 ((tabGet d t).getD 0)

/-- The index of a sampler draw (Table 15.3). -/
def drawIndex (request step position purpose : Nat) : Nat :=
  request * 2 ^ 96 + step % 2 ^ 32 * 2 ^ 64 + position % 2 ^ 32 * 2 ^ 32 + purpose

/-! ### Acceptance (R294) -/

/-- A draft token is rejected: u × q(x) ≥ p(x) × 2^24, compared exactly. -/
def rejects (u : Nat) (p q : Dist) (x : Nat) : Bool :=
  Num.le (((weightIn p x).mul (weightSum q)).shift 24) (((Num.ofNat u).mul (weightIn q x)).mul (weightSum p))

/-- The residual r(t), over the common denominator of both distributions. -/
def residual (p q : Dist) : List (Nat × Num) :=
  (p.map (fun x => (x.1, (((ofF32 x.2).mul (weightSum q)).sub ((weightIn q x.1).mul (weightSum p)))))).filter
    (fun x => Num.lt .zero x.2)

/-- The draw of y after a rejection. -/
def drawResidual (u : Nat) (p q : Dist) : Nat :=
  let r := residual p q
  drawWeighted u (if r.isEmpty then exactDist p else r)

/-! ### Sampler commands (R318, R319) -/

/-- PARAMS of the sampler and Veil commands (Table 15.8). -/
def smSeed (e : Nat) : Nat := param e 511 448
def smBase (e : Nat) : Nat := param e 447 320
def smDest (e : Nat) : Nat := param e 319 256
def smCount (e : Nat) : Nat := param e 255 224
def smStream (e : Nat) : Nat := param e 223 192
def smGrammar (e : Nat) : Nat := param e 191 176
def smPocket (e : Nat) : Bool := paramBit e 175
def smOwnSeed (e : Nat) : Bool := paramBit e 174

/-- The seed of a context (Table 15.5); GEN_STATE is held from its bit 1536 of the context table entry on. -/
def ctxSeed (x : Ctx) : Nat := field x.genState 192 64

def samplerSeedSpec : CmdSpec where
  used _ := usedBits [(511, 448)]
  check _ _ _ := Code.OK
  noop := noZero
  atAdmission := noAdmit

/-- SAMPLER_SEED. -/
def samplerSeedBody (s : State) (id : Nat) (j : Job) : State :=
  finish (updCtx s j.ctx (fun x => { x with genState := setField x.genState 192 64 (smSeed j.entry) })) id Code.OK 0

def execSamplerSeed (job : Nat) (s : State) : Host.Outcome State Fault Refusal :=
  .next (runJob s job Op.SAMPLER_SEED noSources samplerSeedBody)

/-- A Pocket destination: its logical block and its row. -/
def smLb (e : Nat) : Nat := field (smDest e) 16 16
def smRow (e : Nat) : Nat := field (smDest e) 0 16

def randFillSpec : CmdSpec where
  used e := usedBits ([(447, 320), (319, 256), (255, 224), (223, 192), (175, 175), (174, 174)] ++
    if smOwnSeed e then [(511, 448)] else [])
  check s c e := firstBad
    [(16777216 < smCount e || lastUserStream < smStream e, Code.BAD_FIELD),
     (!smPocket e && (smDest e % 64 != 0 || !rangeOk s (smDest e) (16 * smCount e)), Code.BAD_FIELD),
     (smPocket e && (smDest e / 2 ^ 32 != 0 || 4 * (ctxOf s c).partition ≤ smLb e ||
       contextRows s < smRow e + ceilDiv (smCount e) 16), Code.BAD_FIELD)]
  noop e := smCount e == 0
  atAdmission := noAdmit

/-- Outputs `i` to `i + n - 1` of a RAND_FILL as bytes. -/
def randBytes (seed e i n : Nat) : List Nat :=
  (List.range n).flatMap (fun k => leBytes 16 (generate seed (smStream e) ((smBase e + i + k) % 2 ^ 128)))

/-- RAND_FILL, sixteen outputs a step.  Its progress: the outputs written. -/
def randFillBody (s : State) (id : Nat) (j : Job) : State :=
  let e := j.entry
  let i := j.work.headD 0
  let n := Nat.min 16 (smCount e - i)
  let bs := randBytes (if smOwnSeed e then smSeed e else ctxSeed (ctxOf s j.ctx)) e i n
  let done (t : State) : State :=
    if i + n < smCount e then updJob t id (fun j => { j with phase := .running, work := [i + n] })
    else finish t id Code.OK (smCount e)
  if smPocket e then deliverRows s id j.ctx (smLb e) (smRow e + i / 16) 0 bs done
  else withWrite s id (smDest e + 16 * i) bs.length (fun t => done (writeBytes t (smDest e + 16 * i) bs))

def execRandFill (job : Nat) (s : State) : Host.Outcome State Fault Refusal :=
  .next (runJob s job Op.RAND_FILL noSources randFillBody)

/-! ### Grammar images (Tables 15.9 and 15.10) -/

def gmBytes (h : Nat) : Nat := field h 448 64
def gmTable (h : Nat) : Nat := field h 384 64
def gmData (h : Nat) : Nat := field h 320 64
def gmStates (h : Nat) : Nat := field h 288 32
def gmVocab (h : Nat) : Nat := field h 256 32

/-- The header of the image at an address. -/
def gmHead (s : State) (a : Nat) : Nat := natAt s a 64

/-- The entry of a state. -/
def stateEntry (s : State) (a st : Nat) : Nat := natAt s (a + gmTable (gmHead s a) + 32 * st) 32

def seMaskOff (e : Nat) : Nat := field e 216 40
def seMaskCount (e : Nat) : Nat := field e 184 32
def seTransOff (e : Nat) : Nat := field e 144 40
def seTransCount (e : Nat) : Nat := field e 112 32
def seDefault (e : Nat) : Nat := field e 88 24
def seDefaultEn (e : Nat) : Bool := bitOf e 87
def seKind (e : Nat) : Nat := field e 64 2

/-- Bytes of a mask. -/
def maskSize (vocab e : Nat) : Nat :=
  match seKind e with
  | 2 => ceilDiv vocab 8
  | 3 => 8 * seMaskCount e
  | _ => 4 * seMaskCount e

/-- The address of a state's mask and of its transition list. -/
def maskAt (s : State) (a e : Nat) : Nat := a + gmData (gmHead s a) + seMaskOff e
def transAt (s : State) (a e : Nat) : Nat := a + gmData (gmHead s a) + seTransOff e

/-- The tokens of an ALLOW or DENY mask, and the runs of a RUNS mask. -/
def maskTokens (s : State) (a e : Nat) : List Nat :=
  (List.range (seMaskCount e)).map (fun i => natAt s (maskAt s a e + 4 * i) 4)
def maskRuns (s : State) (a e : Nat) : List (Nat × Nat) :=
  (List.range (seMaskCount e)).map (fun i =>
    (natAt s (maskAt s a e + 8 * i) 4, natAt s (maskAt s a e + 8 * i + 4) 4))

/-- The mask of a state allows a token. -/
def maskAllows (s : State) (a e t : Nat) : Bool :=
  t < gmVocab (gmHead s a) && match seKind e with
    | 0 => (maskTokens s a e).contains t
    | 1 => !(maskTokens s a e).contains t
    | 2 => bitOf (natAt s (maskAt s a e + t / 8) 1) (t % 8)
    | _ => (maskRuns s a e).any (fun r => r.1 ≤ t && t < r.1 + r.2)

/-- State `st` of the image at `a` allows a token. -/
def grammarAllows (s : State) (a st t : Nat) : Bool := maskAllows s a (stateEntry s a st) t

/-- A state that allows no token is dead (R326). -/
def stateDead (s : State) (a st : Nat) : Bool :=
  !(List.range (gmVocab (gmHead s a))).any (grammarAllows s a st)

/-- The transition entries of a state. -/
def transitions (s : State) (a e : Nat) : List Nat :=
  (List.range (seTransCount e)).map (fun i => natAt s (transAt s a e + 8 * i) 8)
def trToken (t : Nat) : Nat := field t 44 20
def trNext (t : Nat) : Nat := field t 0 24

/-- next(s, t): the token's entry, else the default. -/
def nextState (s : State) (a st t : Nat) : Nat :=
  let e := stateEntry s a st
  match (transitions s a e).find? (fun x => trToken x == t) with
  | some x => trNext x
  | none => seDefault e

/-- The bytes that a step reads of a state: entry, mask and transitions. -/
def stateReads (s : State) (a st : Nat) : List (Nat × Nat) :=
  let h := gmHead s a
  let e := stateEntry s a st
  [(a + gmTable h + 32 * st, 32), (maskAt s a e, maskSize (gmVocab h) e), (transAt s a e, 8 * seTransCount e)]

/-- A list is in strictly ascending order. -/
def rising : List Nat → Bool
  | a :: b :: l => a < b && rising (b :: l)
  | _ => true

/-- Runs are in ascending order and do not overlap. -/
def runsRise : List (Nat × Nat) → Bool
  | a :: b :: l => a.1 + a.2 ≤ b.1 && runsRise (b :: l)
  | _ => true

/-- A state of an image is at fault (R320). -/
def stateBad (s : State) (a st : Nat) : Bool :=
  let h := gmHead s a
  let v := gmVocab h
  let e := stateEntry s a st
  let ts := transitions s a e
  let toks := maskTokens s a e
  let runs := maskRuns s a e
  field e 66 21 != 0 || field e 0 64 != 0 || seMaskOff e % 8 != 0 || seTransOff e % 8 != 0 ||
    gmBytes h < gmData h + seMaskOff e + maskSize v e || gmBytes h < gmData h + seTransOff e + 8 * seTransCount e ||
    (seKind e < 2 && (!rising toks || toks.any (fun t => v ≤ t))) ||
    (seKind e == 3 && (!runsRise runs || runs.any (fun r => r.2 == 0 || v < r.1 + r.2))) ||
    !rising (ts.map trToken) || ts.any (fun t => field t 24 20 != 0 || gmStates h ≤ trNext t ||
      !maskAllows s a e (trToken t)) ||
    gmStates h ≤ seDefault e ||
    (!seDefaultEn e && (List.range v).any (fun t => maskAllows s a e t && !ts.any (fun x => trToken x == t)))

/-- A header is at fault. -/
def grammarHeadBad (s : State) (a : Nat) : Bool :=
  let h := gmHead s a
  !inHbm s a (gmBytes h) || field h 8 248 != 0 || gmStates h == 0 || reg s Key.VEIL_MAX_STATES < gmStates h ||
    gmVocab h == 0 || 1048576 < gmVocab h || gmTable h % 32 != 0 || gmBytes h < gmTable h + 32 * gmStates h ||
    gmBytes h < gmData h || gmBytes h < 64

/-! ### VEIL_LOAD and VEIL_UNLOAD (R320, R321) -/

/-- VEIL.RESIDENT_MAP follows the loaded grammars. -/
def reportGrammars (s : State) : State :=
  setReg s Key.VEIL_RESIDENT_MAP ((tabKeys s.grammars).foldl (fun m g => m + 2 ^ g) 0)

/-- RESULT of a VEIL_LOAD that fails in its header. -/
def headerFault : Nat := 0xFFFFFFFF

def veilLoadSpec : CmdSpec where
  used _ := usedBits [(319, 256), (191, 176)]
  check _ _ _ := Code.OK
  noop := noZero
  atAdmission := noAdmit

/-- VEIL_LOAD: the image is checked whole, then every Veil holds it. -/
def veilLoadBody (s : State) (id : Nat) (j : Job) : State :=
  let a := smDest j.entry
  let g := smGrammar j.entry
  if reg s Key.VEIL_MAX_GRAMMARS ≤ g || tabHas s.grammars g || a % 4096 != 0 || !inHbm s a 64 then
    finish s id Code.BAD_FIELD headerFault
  else if readBad s a 64 then finish s id Code.ECC_UNCORRECTABLE 0
  else if field (gmHead s a) 0 8 != 1 then finish s id Code.VERSION_UNSUPPORTED 0
  else if grammarHeadBad s a then finish s id Code.BAD_FIELD headerFault
  else if readBad s a (gmBytes (gmHead s a)) then finish s id Code.ECC_UNCORRECTABLE 0
  else match (List.range (gmStates (gmHead s a))).find? (stateBad s a) with
    | some st => finish s id Code.BAD_FIELD st
    | none =>
      let s1 := { s with grammars := tabSet s.grammars g { addr := a } }
      finish (reportGrammars (touchRange s1 a (gmBytes (gmHead s a)))) id Code.OK (gmStates (gmHead s a))

def execVeilLoad (job : Nat) (s : State) : Host.Outcome State Fault Refusal :=
  .next (runJob s job Op.VEIL_LOAD noSources veilLoadBody)

/-- A grammar that a request may name: loaded, and no unload of it is open. -/
def grammarOf (s : State) (g : Nat) : Option Grammar :=
  match tabGet s.grammars g with
  | some x => match x.closing with
    | some id => if isOpen s id then none else some x
    | none => some x
  | none => none

/-- From its admission an unload closes the grammar to later requests. -/
def veilUnloadAdmit (s : State) (id : Nat) : State :=
  match tabGet s.jobs id with
  | some j => match grammarOf s (smGrammar j.entry) with
    | some _ => { s with grammars := tabUpd s.grammars (smGrammar j.entry) (fun x => { x with closing := some id }) }
    | none => s
  | none => s

def veilUnloadSpec : CmdSpec where
  used _ := usedBits [(191, 176)]
  check s _ e := firstBad [(reg s Key.VEIL_MAX_GRAMMARS ≤ smGrammar e, Code.BAD_FIELD)]
  noop := noZero
  atAdmission := veilUnloadAdmit

/-- VEIL_UNLOAD: it waits for the requests that pinned the grammar; one that is not loaded, or that another unload
closes, is OK_NOOP. -/
def veilUnloadBody (s : State) (id : Nat) (j : Job) : State :=
  let g := smGrammar j.entry
  match tabGet s.grammars g with
  | none => finish s id Code.OK_NOOP 0
  | some x =>
    if x.closing != some id then finish s id Code.OK_NOOP 0
    else if x.pins.any (isOpen s) then s
    else finish (reportGrammars { s with grammars := tabDel s.grammars g }) id Code.OK 0

def execVeilUnload (job : Nat) (s : State) : Host.Outcome State Fault Refusal :=
  .next (runJob s job Op.VEIL_UNLOAD noSources veilUnloadBody)

end Sys2Proof.Machine
end

