-- ==== Sys2Proof/Machine/Gen.lean ====
section
/-! DEFINITION. The decode loop (chapter 14): KV pages, the model interface, generation requests, and the three phases at
which their steps are masked, sampled and committed. -/

namespace Sys2Proof.Machine

/-! ### Descriptors (Tables 14.3 to 14.5) -/

def grSrc (e : Nat) : Nat := param e 511 448
def grKeep (e : Nat) : Nat := param e 511 480

def rdPrompt (d : Nat) : Nat := field d 960 64
def rdOut (d : Nat) : Nat := field d 896 64
def rdText (d : Nat) : Nat := field d 832 64
def rdStops (d : Nat) : Nat := field d 768 64
def rdSampling (d : Nat) : Nat := field d 704 64
def rdMain (d : Nat) : Nat := field d 640 64
def rdDraft (d : Nat) : Nat := field d 576 64
def rdSeqSeen (d : Nat) : Nat := field d 512 64
def rdPromptLen (d : Nat) : Nat := field d 480 32
def rdMaxNew (d : Nat) : Nat := field d 448 32
def rdOutCap (d : Nat) : Nat := field d 416 32
def rdTextCap (d : Nat) : Nat := field d 384 32
def rdDraftLen (d : Nat) : Nat := field d 376 8
def rdStopCount (d : Nat) : Nat := field d 368 8
def rdRestore (d : Nat) : Nat := field d 360 8
def rdVocab (d : Nat) : Nat := field d 344 16
def rdBackoff (d : Nat) : Bool := bitOf d 13
def rdFree (d : Nat) : Bool := bitOf d 12
def rdKeepKv (d : Nat) : Bool := bitOf d 11
def rdAppend (d : Nat) : Bool := bitOf d 10
def rdMailbox (d : Nat) : Bool := bitOf d 9
def rdTextEn (d : Nat) : Bool := bitOf d 8

def miVocab (m : Nat) : Nat := field m 480 32
def miModel (m : Nat) : Nat := field m 464 16
def miEmb (m : Nat) : Nat := field m 448 16
def miInRow (m : Nat) : Nat := field m 432 16
def miInBlocks (m : Nat) : Nat := field m 416 16
def miStepRow (m : Nat) : Nat := field m 400 16
def miLogitVb (m : Nat) : Nat := field m 384 16
def miLogitBlocks (m : Nat) : Nat := field m 368 16
def miLogitRow (m : Nat) : Nat := field m 352 16
def miKvVb (m : Nat) : Nat := field m 336 16
def miMaxT (m : Nat) : Nat := field m 320 16
def miLayers (m : Nat) : Nat := field m 304 16
def miIn (m : Nat) : Nat := field m 296 8
def miOut (m : Nat) : Nat := field m 288 8
def miKvBytes (m : Nat) : Nat := field m 272 16
def miKvBlocks (m : Nat) : Nat := field m 256 16

/-! ### GEN_STATE (Tables 14.1 and 15.5); it is held from bit 1536 of the context table entry on -/

def gsLen (x : Ctx) : Nat := field x.genState 480 32
def gsDraftLen (x : Ctx) : Nat := field x.genState 448 32
def gsRequests (x : Ctx) : Nat := field x.genState 416 32
def gsDCur (x : Ctx) : Nat := field x.genState 408 8
def gsFullRun (x : Ctx) : Nat := field x.genState 400 8
def gsPt (x : Ctx) (draft : Bool) : Nat := field x.genState (if draft then 272 else 336) 64
def gsMaskLates (x : Ctx) : Nat := field x.genState 160 32
def gsVeil (x : Ctx) : Nat := field x.genState 136 24

/-- A field of GEN_STATE set. -/
def setGs (s : State) (c lo n v : Nat) : State :=
  updCtx s c (fun x => { x with genState := setField x.genState lo n v })

def setLen (s : State) (c v : Nat) : State := setGs s c 480 32 v
def setDraftLen (s : State) (c v : Nat) : State := setGs s c 448 32 v
def setPt (s : State) (c : Nat) (draft : Bool) (v : Nat) : State := setGs s c (if draft then 272 else 336) 64 v
def setEndReason (s : State) (c v : Nat) : State := setGs s c 264 8 v

/-- A request's entry changed. -/
def updGen (s : State) (id : Nat) (f : GenReq → GenReq) : State := { s with gens := tabUpd s.gens id f }

/-! ### KV pages (R287, R288) -/

def pageBytes : Nat := 65536

/-- The first unit behind the device-object range. -/
def kvAreaEnd : Nat := 2 ^ 48 / unitBytes

/-- PAGE_TOKENS of an interface. -/
def pageTokens (m : Nat) : Nat := pageBytes / miKvBytes m

/-- The address of the entry that page `e` has in its table; none while its table page is not held. -/
def pageEntryAt (s : State) (pt e : Nat) : Option Nat :=
  let d := memNat s.mem.dev (pt + 8 * (e / 8192)) 8
  if pt != 0 && bitOf d 0 then some (field d 16 48 * 65536 + 8 * (e % 8192)) else none

/-- The address of page `e` of a table, when it is held. -/
def pageOf (s : State) (pt e : Nat) : Option Nat :=
  match pageEntryAt s pt e with
  | some a =>
    let v := memNat s.mem.dev a 8
    if bitOf v 0 then some (field v 16 48 * 65536) else none
  | none => none

/-- The page entry of a page, or its directory entry (Table 14.2). -/
def pageWord (addr : Nat) : Nat := addr / 65536 * 65536 + 1

/-- What taking a page meets. -/
inductive TakePage where
  | held (s : State) (addr : Nat)
  | wait (s : State)
  | fail
  deriving DecidableEq, Repr

/-- The lowest-addressed free page of a context's KV units. -/
def freePage (s : State) (c : Nat) : Option Nat :=
  ((kvUnitsOf s c).flatMap (fun u => (List.range 32).map (fun k => 32 * u + k))).find? (fun p => !tabHas s.kv p)

/-- A free page put to a use; what stood in it is not known, but a directory and a table page begin with no entry. -/
def usePage (s : State) (p : Nat) (k : KvPage) : State :=
  let a := p * pageBytes
  let s1 := { s with kv := tabSet s.kv p k, mem := { s.mem with dev := memClear s.mem.dev a pageBytes } }
  reportPages (match k.use with
    | .data _ _ =>
      let f := takeFree s1
      { f.2 with mem := { f.2.mem with dev := memPutNat f.2.mem.dev a pageBytes f.1 } }
    | _ => s1)

/-- A page taken by a context: of the units that it holds, else of a new unit in its owning region (R288). -/
def takePage (s : State) (c : Nat) (k : KvPage) : TakePage :=
  match freePage s c with
  | some p => .held (usePage s p k) (p * pageBytes)
  | none =>
    match allocate s (regionOfQuad ((ctxOf s c).quads.headD 0)) with
    | .home r =>
      let u := nextDeviceUnit s kvAreaBase kvAreaEnd
      .held (usePage (setUnit s u ⟨.hbm r, beatNow s, .kv c, none⟩) (32 * u) k) (32 * u * pageBytes)
    | .wait t => .wait t
    | .fail => .fail

/-- A number written to a page of the device's own. -/
def putWord (s : State) (a v : Nat) : State := { s with mem := { s.mem with dev := memPutNat s.mem.dev a 8 v } }

/-- The page directory of a context's model. -/
def needDirectory (s : State) (c : Nat) (draft : Bool) : TakePage :=
  let pt := gsPt (ctxOf s c) draft
  if pt != 0 then .held s pt
  else match takePage s c ⟨c, draft, .directory, false⟩ with
    | .held t a => .held (setPt t c draft a) a
    | r => r

/-- The table page that holds entry `e`, after the directory. -/
def needTable (s : State) (c : Nat) (draft : Bool) (e : Nat) : TakePage :=
  match needDirectory s c draft with
  | .held t pt =>
    match pageEntryAt t pt e with
    | some a => .held t (a / pageBytes * pageBytes)
    | none => match takePage t c ⟨c, draft, .table (e / 8192), false⟩ with
      | .held u a => .held (putWord u (pt + 8 * (e / 8192)) (pageWord a)) a
      | r => r
  | r => r

/-- The page of a layer that holds a position, taken when it is not held yet. -/
def needPage (s : State) (c : Nat) (draft : Bool) (m layer pos : Nat) : TakePage :=
  let j := pos / pageTokens m
  let e := j * miLayers m + layer
  match needTable s c draft e with
  | .held t tp =>
    match pageOf t (gsPt (ctxOf t c) draft) e with
    | some a => .held t a
    | none => match takePage t c ⟨c, draft, .data e (j * pageTokens m), false⟩ with
      | .held u a => .held (putWord u (tp + 8 * (e % 8192)) (pageWord a)) a
      | r => r
  | r => r

/-- The positions whose entries a request in progress has written and not yet committed. -/
def inFlight (g : GenReq) (draft : Bool) : Nat :=
  let now := match g.run with
    | some r => if r.draft == draft then r.start + r.count else 0
    | none => 0
  let before := match g.stage with
    | .ended => 0
    | .waiting => 0
    | .prefill d done => if d == draft then g.first + done else if draft then 0 else g.first + g.prompt.length
    | .drafting => if draft then g.draftPos else 0
    | .verify => if draft then g.draftPos else 0
    | _ => if draft then g.draftPos else g.first + g.prompt.length + g.kept.length + g.drafts.length
  Nat.max now before

/-- Positions below which a context's pages of a model are kept. -/
def keptPositions (s : State) (c : Nat) (draft : Bool) : Nat :=
  let x := ctxOf s c
  (s.gens.filter (fun g => g.2.ctx == c && isOpen s g.1)).foldl (fun m g => Nat.max m (inFlight g.2 draft))
    (if draft then gsDraftLen x else gsLen x)

/-- A page is to return: cut off, or all of its positions lie at or above the kept ones. -/
def pageReturns (s : State) (k : KvPage) : Bool :=
  k.gone || match k.use with
    | .data _ first => keptPositions s k.ctx k.draft ≤ first
    | _ => false

/-- A page returns; `late` pages, whose writes are outstanding, return at the boundary after this one. -/
def returnPage (late : List Nat) (s : State) (p : Nat) (k : KvPage) : State :=
  let cutOff (t : State) : State :=
    let pt := gsPt (ctxOf t k.ctx) k.draft
    if k.gone then t
    else match k.use with
      | .data e _ => match pageEntryAt t pt e with
        | some a => putWord t a 0
        | none => t
      | .table i => if pt == 0 then t else putWord t (pt + 8 * i) 0
      | .directory => t
  if late.contains p then
    bump { cutOff s with kv := tabSet s.kv p { k with gone := true } } Key.GEN_LATE_PAGE_RETURNS 1
  else bump { cutOff s with kv := tabDel s.kv p } Key.GEN_PAGES_RETURNED 1

/-- A table page of which every entry is invalid. -/
def tableEmpty (s : State) (p : Nat) (k : KvPage) : Bool :=
  match k.use with
  | .table _ => !k.gone && (memBytes s.mem.dev (p * pageBytes) pageBytes).all (fun b => b == 0)
  | _ => false

/-- Step 2 of the boundary sequence for KV pages (R288): pages, table pages, then whole units return. -/
def kvSweep (late : List Nat) (s : State) : State :=
  let s1 := (s.kv.filter (fun p => pageReturns s p.2)).foldl (fun t p => returnPage late t p.1 p.2) s
  let s2 := (s1.kv.filter (fun p => tableEmpty s1 p.1 p.2)).foldl (fun t p => returnPage [] t p.1 p.2) s1
  let empty := (s2.mem.units.filter (fun p => match p.2.owner with
    | .kv _ => !s2.kv.any (fun k => k.1 / 32 == p.1)
    | _ => false)).map Prod.fst
  reportPages (releaseUnits s2 empty)

/-- A model's held sequence cut to some length; at 0 its table is cut off whole. -/
def cutModel (s : State) (c : Nat) (draft : Bool) (n : Nat) : State :=
  let s1 := if draft then setDraftLen s c n else setLen s c n
  if n == 0 then
    setPt { s1 with kv := tabMap s1.kv (fun _ k => if k.ctx == c && k.draft == draft then { k with gone := true } else k) }
      c draft 0
  else s1

/-- LEN and DRAFT_KV_LEN cut to some length (R301). -/
def cutKv (s : State) (c n : Nat) : State :=
  let x := ctxOf s c
  cutModel (cutModel s c false (Nat.min (gsLen x) n)) c true (Nat.min (gsDraftLen x) n)

/-! ### KV_RELEASE (R301) -/

/-- GEN_RUN and KV_RELEASE of a context run one after the other (R290). -/
def genTurn (s : State) (id c : Nat) : Bool :=
  !(earlierOpen s c id).any (fun p => p.2.opcode == Op.GEN_RUN || p.2.opcode == Op.KV_RELEASE)

def kvReleaseSpec : CmdSpec where
  used _ := usedBits [(511, 480)]
  check _ _ _ := Code.OK
  noop := noZero
  atAdmission := noAdmit

/-- KV_RELEASE. -/
def kvReleaseBody (s : State) (id : Nat) (j : Job) : State :=
  let n := gsLen (ctxOf s j.ctx)
  if !genTurn s id j.ctx then s
  else if n ≤ grKeep j.entry then finish s id Code.OK_NOOP 0
  else finish (cutKv s j.ctx (grKeep j.entry)) id Code.OK (n - grKeep j.entry)

def execKvRelease (job : Nat) (s : State) : Host.Outcome State Fault Refusal :=
  .next (runJob s job Op.KV_RELEASE noSources kvReleaseBody)

/-! ### The end of a request (R299, R300, R302) -/

def endRunning : Nat := 0
def endEos : Nat := 1
def endStop : Nat := 2
def endMaxNew : Nat := 3
def endFull : Nat := 4
def endLength : Nat := 5
def endDead : Nat := 6
def endCancelled : Nat := 7
def endFailed : Nat := 8

/-- The output header (Table 14.6). -/
def outHeader (s : State) (g : GenReq) (reason : Nat) : Nat :=
  let x := ctxOf s g.ctx
  g.kept.length * 2 ^ 480 + g.text * 2 ^ 448 + gsLen x * 2 ^ 416 + g.steps * 2 ^ 384 + g.draftedAll * 2 ^ 352 +
    g.acceptedAll * 2 ^ 320 + reason * 2 ^ 312 + g.stopIndex * 2 ^ 304 + gsDCur x * 2 ^ 296 + beatNow s * 2 ^ 232 + 1

/-- RESULT of a GEN_RUN. -/
def genResult (g : GenReq) : Nat := g.text * 2 ^ 32 + g.kept.length

/-- KEEP_KV and FREE_ON_END act at any completion, on a context that still exists. -/
def genRelease (s : State) (c d : Nat) : State :=
  if (ctxOf s c).state == .free then s
  else
    let s1 := if rdKeepKv d then s else cutKv s c 0
    if rdFree d then updCtx s1 c (fun x => { x with freeOnEnd := true }) else s1

/-- The sweep of a boundary frees the contexts whose last request had FREE_ON_END (R300). -/
def freeSweep (s : State) : State :=
  (s.ctxs.filter (fun p => p.2.freeOnEnd)).foldl (fun t p =>
    let x := { p.2 with freeOnEnd := false }
    match x.state with
    | .free => setCtx t p.1 x
    | .faulted =>
      setCtx (dropPages (releaseUnits t (unitsOwned t p.1)) p.1) p.1
        { genTag := x.genTag, used := true, cached := x.cached, lastUse := x.lastUse }
    | .tearingDown => setCtx t p.1 { x with freeAfter := true }
    | _ => fence (setCtx t p.1 x) p.1 Code.CTX_TORN_DOWN none true) s

/-- A request completes before it has generated anything, its descriptor being readable. -/
def genRefuse (s : State) (id c d status : Nat) : State :=
  let s1 := if isSuccess status then s else setEndReason s c endFailed
  finish (genRelease s1 c d) id status 0

/-- The END_REASON of a GEN_RUN that ended otherwise than by a commit. -/
def reasonOf (status : Nat) : Nat := if status == Code.CTX_CANCELLED then endCancelled else endFailed

/-- A request that ended without a commit is closed: its last header is put behind the writes that wait, what it did not
commit is given up, and KEEP_KV and FREE_ON_END act.  The sweep of a boundary and the completion call it. -/
def genAbort (s : State) (id : Nat) : State :=
  match tabGet s.gens id, tabGet s.jobs id with
  | some g, some j =>
    match j.phase, g.stage with
    | _, .ended => s
    | .done status _, _ =>
      let reason := reasonOf status
      let s1 := if (ctxOf s g.ctx).state == .free then s
        else genRelease (setGs (setEndReason s g.ctx reason) g.ctx 119 1 0) g.ctx g.desc
      let result := if status == Code.ARRAY_PROGRAM_ERROR then (match j.phase with
        | .done _ r => r
        | _ => 0) else genResult g
      let s2 := updJob s1 id (fun j => { j with phase := .done status result })
      updGen s2 id (fun g => { g with
        stage := .ended, run := none, masks := []
        outbox := g.outbox ++ [(rdOut g.desc, leBytes 64 (outHeader s1 g reason))] })
    | _, _ => s
  | _, _ => s

/-- The output writes of a request performed in order, as far as they go; at most `n` of them. -/
def genWrites (id : Nat) : Nat → State → State
  | 0, s => s
  | n + 1, s =>
    match tabGet s.gens id with
    | some g =>
      match g.outbox with
      | [] => s
      | (a, bs) :: rest =>
        match prepareWrite s a bs.length with
        | .ready t => genWrites id n (notePosted (updGen (writeBytes t a bs) id (fun g => { g with outbox := rest })) id a
            bs.length)
        | .wait t => t
        | .fail t st => if isOpen t id then finish t id st 0 else updGen t id (fun g => { g with outbox := [] })
    | none => s

/-- A request that a commit has ended completes once its output stands. -/
def genFinish (s : State) (id : Nat) : State :=
  match tabGet s.gens id with
  | some g =>
    match g.outcome with
    | some (_, status) => if g.outbox.isEmpty && isOpen s id then finish s id status (genResult g) else s
    | none => s
  | none => s

/-- Output writes go ahead, and the request completes when its last stands. -/
def genFlush (s : State) (id : Nat) : State :=
  match tabGet s.gens id with
  | some g => genFinish (genWrites id g.outbox.length s) id
  | none => s

/-- Before a GEN_RUN's completion entry is written: its output stands, and the request is forgotten.  The answer tells
whether the completion may go on. -/
def genComplete (s : State) (id : Nat) : Bool × State :=
  let s1 := genAbort s id
  match tabGet s1.gens id with
  | some g =>
    let s2 := genWrites id g.outbox.length s1
    match tabGet s2.gens id with
    | some h =>
      if h.outbox.isEmpty then (true, { s2 with gens := tabDel s2.gens id }) else (false, s2)
    | none => (true, s2)
  | none => (true, s1)

/-! ### The Veil of a request (R322 to R326) -/

/-- The image of the grammar that constrains a request, if one does. -/
def genGrammar (s : State) (g : GenReq) : Option Nat :=
  if sbGrammarEn g.block then (tabGet s.grammars (sbGrammar g.block)).map (fun x => x.addr) else none

/-- The states s_0 to s_k after the first k drafts. -/
def stepStates (s : State) (a : Nat) (st : Nat) : List Nat → List Nat
  | [] => [st]
  | d :: ds => st :: stepStates s a (nextState s a st d) ds

/-- The states of a request's step as far as they are known. -/
def genStates (s : State) (g : GenReq) : List Nat :=
  match genGrammar s g with
  | some a => stepStates s a (gsVeil (ctxOf s g.ctx)) g.drafts
  | none => []

/-- The mask of state `s_i` of a step, as the sampler applies it. -/
def genMask (s : State) (g : GenReq) (i : Nat) : Nat → Bool :=
  match genGrammar s g with
  | some a => let e := stateEntry s a ((genStates s g)[i]?.getD 0); fun t => maskAllows s a e t
  | none => fun _ => true

/-- State `s_i` of a step allows no token. -/
def genDead (s : State) (g : GenReq) (i : Nat) : Bool :=
  match genGrammar s g with
  | some a => stateDead s a ((genStates s g)[i]?.getD 0)
  | none => false

/-- A step is under way: the prompt has been run. -/
def inStep (g : GenReq) : Bool :=
  match g.stage with
  | .drafting => true
  | .verify => true
  | .ready => true
  | _ => false

/-- An event of the engine that serves a request. -/
def tallyGen (s : State) (id c event n : Nat) : State :=
  match tabGet s.jobs id with
  | some j =>
    let t := tallyJob { s with perf := { s.perf with actor := some c } } j event n
    { t with perf := { t.perf with actor := s.perf.actor } }
  | none => s

/-- A step of a context waits for a mask. -/
def masksWanted (s : State) (c : Nat) : Bool :=
  s.gens.any (fun p => p.2.ctx == c && isOpen s p.1 && inStep p.2 && (genGrammar s p.2).isSome &&
    (genStates s p.2).any (fun st => !p.2.masks.contains st))

/-- VEIL_MASK_FETCH_DONE: the mask of one of the step's states is in the sampler's buffer.  An uncorrectable read ends the
request. -/
def veilMaskFetchDone (s : State) (id st : Nat) (cached : Bool) : State :=
  match tabGet s.gens id with
  | some g =>
    match genGrammar s g with
    | some a =>
      if running s && isOpen s id && inStep g && (genStates s g).contains st && !g.masks.contains st then
        if (stateReads s a st).any (fun r => readBad s r.1 r.2) then finish s id Code.ECC_UNCORRECTABLE 0
        else
          let s1 := (stateReads s a st).foldl (fun t r => touchRange t r.1 r.2) s
          let s2 := tallyGen (bump (updGen s1 id (fun g => { g with masks := st :: g.masks })) Key.VEIL_MASKS_FETCHED 1)
            id g.ctx 0x20F 1
          let s3 := if cached then bump s2 Key.VEIL_CACHE_HITS 1 else s2
          if masksWanted s3 g.ctx then s3 else closeUnit s3 g.ctx veilUnit
      else s
    | none => s
  | none => s

def execVeilMaskFetchDone (job state : Nat) (cached : Bool) (s : State) : Host.Outcome State Fault Refusal :=
  .next (veilMaskFetchDone s job state cached)

/-! ### The start of a request (R290, R291, R306) -/

/-- A vocabulary, a grammar and the embedding tables are pinned by a request whose descriptor can be read. -/
def pinGen (s : State) (id : Nat) : State :=
  match tabGet s.jobs id with
  | some j =>
    let d := natAt s (grSrc j.entry) 128
    let b := natAt s (rdSampling d) 64
    let s1 := if (vocabOf s (rdVocab d)).isSome then pinVocab s (rdVocab d) id else s
    let s2 := if sbGrammarEn b && (grammarOf s1 (sbGrammar b)).isSome then
        { s1 with grammars := tabUpd s1.grammars (sbGrammar b) (fun x => { x with pins := id :: x.pins }) } else s1
    let s3 := pinTable s2 (miEmb (natAt s (rdMain d) 64)) id
    if rdDraftLen d == 0 then s3 else pinTable s3 (miEmb (natAt s (rdDraft d) 64)) id
  | none => s

/-- A descriptor, or one that it names, lies in companion memory. -/
def genRemote (s : State) (e : Nat) : Bool :=
  let d := natAt s (grSrc e) 128
  [grSrc e, rdSampling d, rdMain d].any inWindow || (rdDraftLen d != 0 && inWindow (rdDraft d))

/-- At its admission GEN_RUN takes its request number and makes its pins; pins that depend on companion memory are made
once that has been read. -/
def genRunAdmit (s : State) (id : Nat) : State :=
  match tabGet s.jobs id with
  | some j =>
    let n := (gsRequests (ctxOf s j.ctx) + 1) % 2 ^ 32
    let s1 := updJob (setGs s j.ctx 416 32 n) id (fun j => { j with pin := n })
    if genRemote s1 j.entry then s1 else pinGen s1 id
  | none => s

def genRunSpec : CmdSpec where
  used _ := usedBits [(511, 448)]
  check s _ e := firstBad [(grSrc e % 64 != 0 || !rangeOk s (grSrc e) 128, Code.BAD_FIELD)]
  noop := noZero
  atAdmission := genRunAdmit

/-- A window of a KV block is declared with SLOT_ROWS 128. -/
def kvWindowOk (x : Ctx) (lb w : Nat) : Bool :=
  w < 16 && match tabGet x.windows (windowKey lb w) with
    | some v => v.slotRows == 128
    | none => false

/-- Rows of a position's logits in each logit block. -/
def logitRows (m : Nat) : Nat := ceilDiv (4 * ceilDiv (miVocab m) (miLogitBlocks m)) 256

/-- An interface descriptor breaks its limits, or names what does not exist. -/
def interfaceBad (s : State) (c id m positions : Nat) : Bool :=
  let x := ctxOf s c
  let blocks := 4 * x.partition
  let rows := contextRows s
  miVocab m == 0 || 1048576 < miVocab m || miMaxT m == 0 || 4096 < miMaxT m || miLayers m == 0 ||
    reg s Key.GEN_MAX_LAYERS < miLayers m || !([256, 512, 1024, 2048, 4096, 8192, 16384, 32768].contains (miKvBytes m)) ||
    miInBlocks m == 0 || blocks < miInBlocks m || miLogitBlocks m == 0 || blocks < miLogitVb m + miLogitBlocks m ||
    miKvBlocks m == 0 || blocks < miKvVb m + miKvBlocks m || rows ≤ miStepRow m ||
    rows < miLogitRow m + positions * logitRows m || field m 8 248 != 0 ||
    (modelOf s (miModel m)).isNone || arrayRunCheck s c (runEntry (miModel m)) != Code.OK ||
    (match pinnedDesc s (miEmb m) id with
      | none => true
      | some emb => rows < miInRow m + ceilDiv (miMaxT m) (miInBlocks m) * xrRowsPerToken emb) ||
    (List.range (miKvBlocks m)).any (fun k =>
      !kvWindowOk x (miKvVb m + k) (miIn m) || !kvWindowOk x (miKvVb m + k) (miOut m))

/-- The stop entries of a descriptor. -/
def stopEntry (s : State) (d i : Nat) : Nat := natAt s (rdStops d + 72 * i) 72

/-- The input ranges of a request beside its prompt, and its output ranges. -/
def genInputs (e d : Nat) : List (Nat × Nat) :=
  [(grSrc e, 128), (rdSampling d, 64), (rdMain d, 64)] ++ (if rdDraftLen d != 0 then [(rdDraft d, 64)] else []) ++
    (if rdStopCount d != 0 then [(rdStops d, 72 * rdStopCount d)] else [])
def genOutputs (d : Nat) : List (Nat × Nat) :=
  [(rdOut d, 64 + 8 * rdOutCap d)] ++ (if rdTextEn d then [(rdText d, rdTextCap d)] else [])

/-- The prompt's range: the tokens, or the mailbox with `n` tokens. -/
def promptRange (d n : Nat) : Nat × Nat :=
  if rdMailbox d then (rdPrompt d, 64 + 4 * n) else (rdPrompt d, 4 * n)

/-- Output ranges meet input ranges. -/
def genOverlap (e d : Nat) (prompt : Nat × Nat) : Bool :=
  (genOutputs d).any (fun o => (prompt :: genInputs e d).any (fun i => bytesMeet o.1 o.2 i.1 i.2))

/-- The request descriptor breaks its limits, or its parts do not agree (R290, R306). -/
def genBad (s : State) (id : Nat) (j : Job) (d b m f : Nat) : Bool :=
  let x := ctxOf s j.ctx
  let drafts := rdDraftLen d != 0
  let pinned := match tabGet s.vocabs (rdVocab d) with
    | some w => w.pins.contains id
    | none => false
  let head := match tabGet s.vocabs (rdVocab d) with
    | some w => natAt s w.addr 64
    | none => 0
  let n := if rdMailbox d then 0 else rdPromptLen d
  let prompt := promptRange d n
  field d 14 330 != 0 || reg s Key.GEN_MAX_DRAFT < rdDraftLen d || reg s Key.GEN_MAX_STOPS < rdStopCount d ||
    (rdBackoff d && rdRestore d == 0) || rdOutCap d == 0 || rdOut d % 64 != 0 ||
    (!rdMailbox d && rdPrompt d % 4 != 0) || (rdMailbox d && rdPrompt d % 64 != 0) ||
    !pinned || samplingBad s b ||
    interfaceBad s j.ctx id m (Nat.min (rdDraftLen d + 1) (miMaxT m)) || voTokens head < miVocab m ||
    (drafts && (interfaceBad s j.ctx id f 1 || miVocab f != miVocab m || miMaxT m == 1 ||
      (match tabGet s.models (miModel f) with
        | some y => hasFallback s y.addr
        | none => true))) ||
    (List.range (rdStopCount d)).any (fun i =>
      let e := stopEntry s d i
      field e 512 8 == 0 || reg s Key.GEN_MAX_STOP_BYTES < field e 512 8 || field e 520 56 != 0) ||
    (genOutputs d ++ genInputs j.entry d ++ [prompt]).any (fun r => !rangeOk s r.1 r.2) ||
    genOverlap j.entry d prompt ||
    (rdAppend d && gsLen x != 0 && x.kvModel != some (miModel m)) ||
    reg s Key.GEN_MAX_POSITIONS ≤ (if rdAppend d then gsLen x else 0) + n ||
    (!rdMailbox d && n == 0 && !(rdAppend d && gsLen x != 0)) ||
    (sbGrammarEn b && match tabGet s.grammars (sbGrammar b) with
      | some y => !y.pins.contains id || gmVocab (gmHead s y.addr) != miVocab m || gmStates (gmHead s y.addr) ≤ sbStart b
      | none => true) ||
    (sbForceEos b && voEos head == noToken)

/-- The token that a request without a prompt continues from: the one kept last, when it stands at LEN; the spec names
none else. -/
def continueToken (s : State) (c vocab : Nat) : Nat × State :=
  match (ctxOf s c).lastKept with
  | some (p, t) => if p == gsLen (ctxOf s c) then (t, s) else let f := takeFree s; (f.1 % vocab, f.2)
  | none => let f := takeFree s; (f.1 % vocab, f.2)

/-- A request's entry as its descriptors have it. -/
def genOpen (s : State) (c d b m f : Nat) (prompt : List Nat) (stage : GenStage) : GenReq :=
  { ctx := c, desc := d, block := b, main := m, draftIf := f
    stops := (List.range (rdStopCount d)).map (fun i =>
      let e := stopEntry s d i
      leBytes (field e 512 8) e)
    prompt := prompt, first := gsLen (ctxOf s c), stage := stage, draftPos := gsDraftLen (ctxOf s c) }

/-- A request's entry put into its table. -/
def setGen (s : State) (id : Nat) (g : GenReq) : State := { s with gens := tabSet s.gens id g }

/-- The prompt is taken: a new sequence begins or the held one goes on, and prefill starts (R291, R292). -/
def genTake (s : State) (id : Nat) (j : Job) (d b m f : Nat) (prompt : List Nat) : State :=
  let c := j.ctx
  if prompt.any (fun t => miVocab m ≤ t) then
    finish (setGen s id (genOpen s c d b m f [] .waiting)) id Code.TOKEN_INVALID 0
  else
    let s1 := if rdAppend d then s else cutKv s c 0
    let t := if prompt.isEmpty then continueToken s1 c (miVocab m) else (0, s1)
    let p := if prompt.isEmpty then [t.1] else prompt
    let s2 := updCtx t.2 c (fun x => { x with kvModel := some (miModel m) })
    let s3 := setGs (setGs (setGs (setGs (setGs s2 c 408 8 (rdDraftLen d)) c 400 8 0) c 136 24 (sbStart b)) c 120 16
      (sbGrammar b)) c 119 1 (flagBit (sbGrammarEn b))
    setGen (updJob s3 id (fun j => { j with phase := .running, work := [2] })) id
      (genOpen s3 c d b m f p (.prefill false 0))

/-- A waiting GEN_RUN looks at its mailbox header: it takes the prompt when SEQ is new, or waits on. -/
def genMailbox (s : State) (id : Nat) (j : Job) (d b m f : Nat) : State :=
  let a := rdPrompt d
  let h := natAt s a 64
  let seq := field h 448 64
  let n := field h 424 24
  let x := ctxOf s j.ctx
  if readBad s a 64 then genRefuse s id j.ctx d Code.ECC_UNCORRECTABLE
  else if seq == 0 || seq == rdSeqSeen d then
    updJob (setGen s id (genOpen s j.ctx d b m f [] .waiting)) id (fun j => { j with
      phase := .running, work := [mailboxWait], more := false })
  else if field h 0 8 != 1 then genRefuse s id j.ctx d Code.VERSION_UNSUPPORTED
  else if !rangeOk s a (64 + 4 * n) || genOverlap j.entry d (a, 64 + 4 * n) ||
      reg s Key.GEN_MAX_POSITIONS ≤ (if rdAppend d then gsLen x else 0) + n ||
      (n == 0 && !(rdAppend d && gsLen x != 0)) then genRefuse s id j.ctx d Code.BAD_FIELD
  else if readBad s a (64 + 4 * n) then genRefuse s id j.ctx d Code.ECC_UNCORRECTABLE
  else
    let t := genTake (touchRange s a (64 + 4 * n)) id j d b m f
      ((List.range n).map (fun i => natAt s (a + 64 + 4 * i) 4))
    if isOpen t id && (ctxOf t j.ctx).state == .idle then updCtx t j.ctx (fun x => { x with state := .waiting }) else t

/-- After step 4 of a boundary, every waiting GEN_RUN reads its mailbox header (R291).  A mailbox in companion memory is
asked for anew each time, and its tokens once its SEQ is new. -/
def mailboxSweep (s : State) : State :=
  (s.jobs.filter (fun p => p.2.opcode == Op.GEN_RUN && openJob p.2 && p.2.work == [mailboxWait])).foldl (fun t p =>
    let d := natAt t (grSrc p.2.entry) 128
    let b := natAt t (rdSampling d) 64
    let m := natAt t (rdMain d) 64
    let f := natAt t (rdDraft d) 64
    let a := rdPrompt d
    let h := natAt t a 64
    let seq := field h 448 64
    if p.2.reads != 0 || !p.2.toRead.isEmpty then t
    else if inWindow a && !p.2.more && seq != 0 && seq != rdSeqSeen d then
      updJob t p.1 (fun j => { j with more := true, toRead := windowRanges [(a, 64 + 4 * field h 424 24)] })
    else
      let t1 := genMailbox t p.1 p.2 d b m f
      if inWindow a then
        updJob t1 p.1 (fun j => if openJob j && j.work == [mailboxWait] then
          { j with toRead := windowRanges [(a, 64)] } else j)
      else t1) s

/-- The start of a GEN_RUN. -/
def genStart (s : State) (id : Nat) (j : Job) : State :=
  let e := j.entry
  if readBad s (grSrc e) 128 then finish s id Code.ECC_UNCORRECTABLE 0
  else
    let d := natAt s (grSrc e) 128
    if field d 0 8 != 1 then finish s id Code.VERSION_UNSUPPORTED 0
    else fetchMore s id j (genInputs e d ++ [promptRange d (if rdMailbox d then 0 else rdPromptLen d)]) (fun s =>
      let ins := (genInputs e d).filter (fun r => rangeOk s r.1 r.2)
      if ins.any (fun r => readBad s r.1 r.2) then genRefuse s id j.ctx d Code.ECC_UNCORRECTABLE
      else
        let s := touchRanges (if genRemote s e then pinGen s id else s) ((grSrc e, 128) :: ins)
        let b := natAt s (rdSampling d) 64
        let m := natAt s (rdMain d) 64
        let f := natAt s (rdDraft d) 64
        if field b 0 8 != 1 || field m 0 8 != 1 || (rdDraftLen d != 0 && field f 0 8 != 1) then
          genRefuse s id j.ctx d Code.VERSION_UNSUPPORTED
        else if genBad s id j d b m f then genRefuse s id j.ctx d Code.BAD_FIELD
        else if rdMaxNew d == 0 then genRefuse s id j.ctx d Code.OK_NOOP
        else if rdMailbox d then
          if inWindow (rdPrompt d) then
            updJob (setGen s id (genOpen s j.ctx d b m f [] .waiting)) id (fun j => { j with
              phase := .running, work := [mailboxWait], more := false, toRead := windowRanges [(rdPrompt d, 64)] })
          else genMailbox s id j d b m f
        else
          let r := promptRange d (rdPromptLen d)
          if readBad s r.1 r.2 then genRefuse s id j.ctx d Code.ECC_UNCORRECTABLE
          else genTake (touchRange s r.1 r.2) id j d b m f
            ((List.range (rdPromptLen d)).map (fun i => natAt s (rdPrompt d + 4 * i) 4)))

/-! ### Runs of a model (R289) -/

/-- The interface descriptor of a run's model. -/
def runIf (g : GenReq) (r : GenRun) : Nat := if r.draft then g.draftIf else g.main

/-- Layers that KV block `k` carries, in ascending order. -/
def blockLayers (m k : Nat) : List Nat := (List.range (miLayers m)).filter (fun l => l % miKvBlocks m == k)

/-- A half-page fills a slot. -/
def slotBytes : Nat := 32768

/-- Half-pages of a layer that hold an entry below a position. -/
def halfPages (m start : Nat) : Nat := ceilDiv (start * miKvBytes m) slotBytes

/-- Entries that fill a slot, and the slots that a run's new entries of block `k` fill. -/
def slotEntries (m : Nat) : Nat := slotBytes / miKvBytes m
def outSlots (m k count : Nat) : Nat := ceilDiv ((blockLayers m k).length * count) (slotEntries m)

/-- The bytes of half-page `h` of a layer as they are delivered: zeros at and above position `start`.  A page that was
never written holds what the spec does not say. -/
def halfPage (s : State) (c : Nat) (draft : Bool) (m start layer h : Nat) : List Nat × State :=
  let e := h / 2 * miLayers m + layer
  let n := Nat.min slotBytes (start * miKvBytes m - h * slotBytes)
  match pageOf s (gsPt (ctxOf s c) draft) e with
  | some a => (memBytes s.mem.dev (a + h % 2 * slotBytes) n ++ List.replicate (slotBytes - n) 0, touchRange s a pageBytes)
  | none => let f := takeFree s; (leBytes n f.1 ++ List.replicate (slotBytes - n) 0, f.2)

/-- A half-page cannot be read. -/
def halfBad (s : State) (c : Nat) (draft : Bool) (m layer h : Nat) : Bool :=
  match pageOf s (gsPt (ctxOf s c) draft) (h / 2 * miLayers m + layer) with
  | some a => readBad s (a + h % 2 * slotBytes) slotBytes
  | none => false

/-- The first row of slot `i` of a window. -/
def slotRow (x : Ctx) (lb w i : Nat) : Nat :=
  match tabGet x.windows (windowKey lb w) with
  | some v => v.base + i * v.slotRows
  | none => 0

/-- Slots of a window. -/
def slotCount (x : Ctx) (lb w : Nat) : Nat :=
  match tabGet x.windows (windowKey lb w) with
  | some v => v.slots
  | none => 1

/-- The slot that the `n`-th access of a run goes to, counted from slot 0. -/
def slotOf (x : Ctx) (lb w n : Nat) : Nat := n % Nat.max 1 (slotCount x lb w)

/-- A slot of a window. -/
def oneSlot (lb w i : Nat) : List (Nat × Nat) := [(windowKey lb w, i)]

/-- The run of a request changed. -/
def updGenRun (s : State) (id : Nat) (f : GenRun → GenRun) : State :=
  updGen s id (fun g => { g with run := g.run.map f })

/-- The page mover delivers the next half-page of KV block `k`, if one is left and its slot is EMPTY. -/
def moveIn (id : Nat) (s : State) (k : Nat) : State :=
  match tabGet s.gens id with
  | some g => match g.run with
    | some r =>
      let m := runIf g r
      let x := ctxOf s g.ctx
      let lb := miKvVb m + k
      let hs := halfPages m r.start
      let n := r.ins[k]?.getD 0
      match (blockLayers m k)[n / Nat.max 1 hs]? with
      | some layer =>
        if hs == 0 || !isOpen s id then s
        else
          let i := slotOf x lb (miIn m) n
          let slot := oneSlot lb (miIn m) i
          if !claimable x [] slot then updJob s id (fun j => { j with stalled := j.stalled ++ slot })
          else if halfBad s g.ctx r.draft m layer (n % hs) then finish s id Code.ECC_UNCORRECTABLE 0
          else
            let hp := halfPage s g.ctx r.draft m r.start layer (n % hs)
            let row := slotRow x lb (miIn m) i
            let s1 := lbWrite (countStrays hp.2 x lb portBelt row 128) x lb row 0 hp.1
            updGenRun (updCtx s1 g.ctx (fun y => retireSlots y [] slot)) id (fun r =>
              { r with ins := r.ins.set k (n + 1) })
      | none => s
    | none => s
  | none => s

/-- New entries written to their pages: (layer, position, bytes), in order. -/
def putEntries (c : Nat) (draft : Bool) (m : Nat) : State → List (Nat × Nat × List Nat) → TakePage
  | s, [] => .held s 0
  | s, (layer, pos, bs) :: rest =>
    match needPage s c draft m layer pos with
    | .held t a =>
      match tabGet t.mem.units (a / unitBytes) with
      | some u => match u.move with
        | some mv => .wait (noteStall t (a / unitBytes) u mv)
        | none => putEntries c draft m (writeBytes t (a + pos % pageTokens m * miKvBytes m) bs) rest
      | none => .fail
    | r => r

/-- The page mover takes the next slot of new entries of KV block `k`, if one is left and its slot is FULL. -/
def moveOut (id : Nat) (s : State) (k : Nat) : State :=
  match tabGet s.gens id with
  | some g => match g.run with
    | some r =>
      let m := runIf g r
      let x := ctxOf s g.ctx
      let lb := miKvVb m + k
      let n := r.outs[k]?.getD 0
      if outSlots m k r.count ≤ n || !isOpen s id then s
      else
        let i := slotOf x lb (miOut m) n
        let slot := oneSlot lb (miOut m) i
        if !claimable x slot [] then updJob s id (fun j => { j with stalled := j.stalled ++ slot })
        else
          let row := slotRow x lb (miOut m) i
          let ls := blockLayers m k
          let es := (List.range (slotEntries m)).filterMap (fun q =>
            let o := n * slotEntries m + q
            (ls[o / r.count]?).map (fun layer =>
              (layer, r.start + o % r.count, lbRead s x lb row (q * miKvBytes m) (miKvBytes m))))
          match putEntries g.ctx r.draft m s es with
          | .held t _ =>
            let t1 := countStrays t x lb portBelt row 128
            updGenRun (updCtx t1 g.ctx (fun y => retireSlots y slot [])) id (fun r =>
              { r with outs := r.outs.set k (n + 1) })
          | .wait t => t
          | .fail => finish s id Code.POOL_EXHAUSTED 0
    | none => s
  | none => s

/-- One turn of the page mover over the KV blocks of a run. -/
def movePages (s : State) (id : Nat) (m : Nat) : State :=
  let ks := List.range (miKvBlocks m)
  let s0 := updJob s id (fun j => { j with stalled := [] })
  ks.foldl (moveOut id) (ks.foldl (moveIn id) s0)

/-- The page mover has nothing left of a run. -/
def moverDone (m : Nat) (r : GenRun) : Bool :=
  (List.range (miKvBlocks m)).all (fun k =>
    (blockLayers m k).length * halfPages m r.start ≤ r.ins[k]?.getD 0 && outSlots m k r.count ≤ r.outs[k]?.getD 0)

/-- The Pocket writes before a run: the step words, and the embeddings of its tokens. -/
def genRunWrites (s : State) (m emb start : Nat) (toks : List Nat) (logitFrom : Option Nat) :
    List (Nat × Nat × Nat × List Nat) :=
  let rpt := xrRowsPerToken emb
  (0, miStepRow m, 0, leBytes 4 start ++ leBytes 4 toks.length ++ leBytes 4 (logitFrom.getD 0xFFFFFFFF)) ::
    toks.mapIdx (fun g t => (g % miInBlocks m, miInRow m + g / miInBlocks m * rpt, 0,
      (rowFor s emb t).flatMap (fun v => leBytes 2 (toBf16 v))))

/-- A run of the main or the draft model over some tokens starts, when it may (R140, R289). -/
def genLaunch (s : State) (id : Nat) (g : GenReq) (draft : Bool) (start : Nat) (toks : List Nat)
    (logitFrom : Option Nat) : State :=
  let m := if draft then g.draftIf else g.main
  match pinnedDesc s (miEmb m) id, tabGet s.models (miModel m) with
  | some emb, some y =>
    if toks.any (fun t => (rowReads s emb t).any (fun r => readBad s r.1 r.2)) || readBad s y.addr y.size then
      finish s id Code.ECC_UNCORRECTABLE 0
    else if !runMayStart s id g.ctx (some (miModel m)) then s
    else deliverBatch s id g.ctx (genRunWrites s m emb start toks logitFrom) (fun t =>
      let t0 := (toks.flatMap (rowReads s emb)).foldl (fun t r => touchRange t r.1 r.2) t
      let t1 := nextRun (countEmbeddings t0 id g.ctx (miEmb m) emb (miInBlocks m) toks) g.ctx
      let zeros := List.replicate (miKvBlocks m) 0
      startRun (updGen t1 id (fun g => { g with
        run := some ⟨draft, start, toks.length, logitFrom, zeros, zeros⟩ })) id g.ctx y.addr (some (miModel m))
        (runSeqOf (ctxOf t1 g.ctx)))
  | _, _ => finish s id Code.BAD_FIELD 0

/-- The FP32 logits of the `i`-th wanted position. -/
def logitsAt (s : State) (x : Ctx) (m i : Nat) : List Nat :=
  let v := ceilDiv (miVocab m) (miLogitBlocks m)
  let row := miLogitRow m + i * logitRows m
  ((List.range (miLogitBlocks m)).flatMap (fun k =>
    (List.range v).map (fun t => ofLeBytes (lbRead s x (miLogitVb m + k) row (4 * t) 4)))).take (miVocab m)

/-- The window slots that the logits of `n` positions touch. -/
def logitSlots (x : Ctx) (m n : Nat) : List (Nat × Nat) :=
  ((List.range (miLogitBlocks m)).flatMap (fun k => slotsOf x (miLogitVb m + k) (miLogitRow m) (n * logitRows m))).eraseDups

/-- A run has ended with OK and its pages are moved: its logits are read, and the request goes on. -/
def genRunEnd (s : State) (id : Nat) (g : GenReq) (r : GenRun) (go : State → List (List Nat) → State) : State :=
  let m := runIf g r
  let x := ctxOf s g.ctx
  let n := match r.logitFrom with
    | some i => r.count - i
    | none => 0
  let slots := logitSlots x m n
  if claimable x slots [] then
    let ls := (List.range n).map (logitsAt s x m)
    let s1 := updCtx (dropRun s id) g.ctx (fun y => retireSlots y slots [])
    go (updGen (updJob s1 id (fun j => { j with stalled := [] })) id (fun g => { g with run := none })) ls
  else updJob s id (fun j => { j with stalled := slots })

/-! ### Steps (R292 to R297) -/

/-- The request's tokens from its first position on. -/
def genTokens (g : GenReq) : List Nat := g.prompt ++ g.kept

/-- The position of a step's input token. -/
def stepInput (g : GenReq) : Nat := g.first + (genTokens g).length - 1

/-- The penalty window of the token drawn at a position (R309). -/
def penaltyWindow (g : GenReq) (p : Nat) : List Nat :=
  let s := if sbPrompt g.block then g.first else g.first + g.prompt.length
  let lo := Nat.max (p - sbWindow g.block) s
  ((genTokens g ++ g.drafts).drop (lo - g.first)).take (p - lo)

/-- The draft length of a step (R293). -/
def draftLimit (s : State) (g : GenReq) : Nat :=
  Nat.min (Nat.min (gsDCur (ctxOf s g.ctx)) (rdMaxNew g.desc - g.kept.length - 1))
    (Nat.min (reg s Key.GEN_MAX_POSITIONS - stepInput g - 2) (miMaxT g.main - 1))

/-- A step begins: with the state before it dead it runs no model; else it drafts, or verifies at once. -/
def beginStep (s : State) (id : Nat) (g : GenReq) (due : Nat) : State :=
  let g0 := { g with
    drafts := [], dists := [], logits := [], masks := [], maskBeat := none, emitted := [], accepted := 0,
    due := due }
  if genDead s g0 0 then updGen s id (fun _ => { g0 with stage := .ready, limit := 0 })
  else
    let v := if rdDraftLen g.desc == 0 then 0 else draftLimit s g0
    updGen s id (fun _ => { g0 with limit := v, stage := if v == 0 then .verify else .drafting })

/-- Prefill has ended: LEN and DRAFT_KV_LEN stand at the prompt's end, and step 0 has its logits. -/
def prefillEnd (s : State) (id : Nat) (g : GenReq) : State :=
  let n := g.first + g.prompt.length
  let s1 := setLen s g.ctx n
  let s2 := if rdDraftLen g.desc == 0 then s1 else setDraftLen s1 g.ctx n
  updGen s2 id (fun g => { g with
    stage := .ready, draftPos := if rdDraftLen g.desc == 0 then g.draftPos else n, due := beatNow s })

/-- A chunk of the prompt has run. -/
def prefillNext (s : State) (id : Nat) (draft : Bool) (done : Nat) (ls : List (List Nat)) : State :=
  match tabGet s.gens id with
  | some g =>
    let g1 := if draft then g else { g with logits := ls }
    if done < g.prompt.length then updGen s id (fun _ => { g1 with stage := .prefill draft done })
    else if !draft && rdDraftLen g.desc != 0 then updGen s id (fun _ => { g1 with stage := .prefill true 0 })
    else prefillEnd (updGen s id (fun _ => g1)) id g1
  | none => s

/-- The index of a draw of a request. -/
def genDraw (s : State) (id : Nat) (g : GenReq) (pos purpose : Nat) : Nat :=
  let n := (tabGet s.jobs id).map (fun j => j.pin)
  generate (ctxSeed (ctxOf s g.ctx)) (sbStream g.block) (drawIndex (n.getD 0) g.steps pos purpose) % 2 ^ 64

/-- NaN logits and draws from no valid candidate are counted. -/
def countProcessed (s : State) (id c : Nat) (p : Processed) (drawn : Bool) : State :=
  let s1 := bump s Key.SAMPLER_NAN_LOGITS p.nans
  let s2 := if drawn then tallyGen (bump s1 Key.SAMPLER_DRAWS 1) id c 0x211 1 else s1
  if drawn && p.noValid then bump s2 Key.SAMPLER_NO_VALID 1 else s2

/-- The draft is cut here (R325). -/
def cutDraft (s : State) (id : Nat) : State :=
  bump (updGen s id (fun g => { g with limit := g.drafts.length, logits := [], stage := .verify }))
    Key.VEIL_DRAFT_CUTS 1

/-- The next draft token is drawn from the logits in hand. -/
def drawDraft (s : State) (id : Nat) (g : GenReq) (ls : List Nat) : State :=
  let i := g.drafts.length
  let masked := sbDraftMask g.block
  let p := processLogits g.block (if masked then genMask s g i else fun _ => true)
    (penaltyWindow g (stepInput g + i + 1)) ls
  let x := drawWeighted (genDraw s id g (stepInput g + i + 1) 2) (exactDist p.dist)
  let s1 := countProcessed s id g.ctx p true
  if !genMask s g i x then cutDraft s1 id
  else
    let n := i + 1
    updGen s1 id (fun g => { g with
      drafts := g.drafts ++ [x], dists := g.dists ++ [p.dist], logits := [],
      stage := if n == g.limit then .verify else .drafting })

/-- The draft part of a step: the kept positions that the draft model lacks, then one position a token. -/
def draftStep (s : State) (id : Nat) (g : GenReq) : State :=
  let l := stepInput g
  match g.logits with
  | ls :: _ =>
    let i := g.drafts.length
    if sbDraftMask g.block && sbGrammarEn g.block then
      if genDead s g i then cutDraft s id
      else if g.masks.contains ((genStates s g)[i]?.getD 0) then drawDraft s id g ls
      else s
    else drawDraft s id g ls
  | [] =>
    let known := genTokens g ++ g.drafts
    let want := l + 1 + g.drafts.length - g.draftPos
    let n := Nat.min want (miMaxT g.draftIf)
    genLaunch s id g true g.draftPos ((known.drop (g.draftPos - g.first)).take n) (if n == want then some (n - 1) else none)

/-- GEN_RUN: its descriptors, then prefill, drafts and verify runs, one action a step. -/
def genRunBody (s : State) (id : Nat) (j : Job) : State :=
  if !genTurn s id j.ctx then s
  else match tabGet s.gens id with
    | none => genStart s id j
    | some g =>
      if !g.outbox.isEmpty then genFlush s id
      else match g.run with
        | some r =>
          let m := runIf g r
          if moverDone m r then
            match tabGet s.array.runs id with
            | some a =>
              if a.ended || a.streams.all (fun st => st.count == 0) then
                genRunEnd s id g r (fun t ls =>
                  match g.stage with
                  | .prefill draft done => prefillNext t id draft (done + r.count) ls
                  | .drafting => updGen t id (fun g => { g with logits := ls, draftPos := r.start + r.count })
                  | _ => updGen t id (fun g => { g with logits := ls, stage := .ready }))
              else s
            | none => s
          else movePages s id m
        | none =>
          match g.stage with
          | .prefill draft done =>
            let m := if draft then g.draftIf else g.main
            let n := Nat.min (g.prompt.length - done) (miMaxT m)
            genLaunch s id g draft (g.first + done) ((g.prompt.drop done).take n)
              (if !draft && done + n == g.prompt.length then some (n - 1) else none)
          | .drafting => draftStep s id g
          | .verify => genLaunch s id g false (stepInput g) ((genTokens g).getLast?.toList ++ g.drafts) (some 0)
          | _ => s

def genRunSources (_ : State) (j : Job) : List (Nat × Nat) := [(grSrc j.entry, 128)]

def execGenRun (job : Nat) (s : State) : Host.Outcome State Fault Refusal :=
  .next (runJob s job Op.GEN_RUN genRunSources genRunBody)

/-! ### MASK_READY (R323, R324) -/

/-- The requests whose commands are open, in order of admission. -/
def liveGens (s : State) : Tab GenReq := s.gens.filter (fun g => isOpen s g.1 && (tabHas s.jobs g.1))

/-- A step can take its SAMPLE in this beat, if it is ready. -/
def stepDue (s : State) (g : GenReq) : Bool := inStep g && g.due ≤ beatNow s

/-- Every mask of a step is in the buffer, and its drafts are known. -/
def masksReady (s : State) (g : GenReq) : Bool :=
  g.stage != .drafting && (genStates s g).all (fun st => g.masks.contains st)

/-- The MASK_READY phase for one request. -/
def maskReadyOne (s : State) (id : Nat) : State :=
  match tabGet s.gens id with
  | some g =>
    if !sbGrammarEn g.block || !stepDue s g || (ctxOf s g.ctx).state != .running then s
    else if masksReady s g then updGen s id (fun g => { g with maskBeat := some (beatNow s) })
    else bump (setGs s g.ctx 160 32 (Nat.min (gsMaskLates (ctxOf s g.ctx) + 1) 0xFFFFFFFF)) Key.VEIL_MASK_LATE 1
      |> fun t => tallyGen t id g.ctx 0x210 1
  | none => s

/-- The MASK_READY phase. -/
def maskReadyEvent (s : State) : State := ((liveGens s).map Prod.fst).foldl maskReadyOne s

/-! ### SAMPLE (R293, R294) -/

/-- What the sampler makes of position L + i of a step: `i` from 1. -/
def stepProcessed (s : State) (g : GenReq) (i : Nat) : Processed :=
  processLogits g.block (genMask s g (i - 1)) (penaltyWindow g (stepInput g + i)) (g.logits[i - 1]?.getD [])

/-- Draft `i` is accepted against the main model's distribution. -/
def accepts (s : State) (id : Nat) (g : GenReq) (i : Nat) (p : Processed) : Bool :=
  let x := g.drafts[i - 1]?.getD 0
  if greedy g.block then p.dist.head?.map Prod.fst == some x
  else
    let n := (tabGet s.jobs id).map (fun j => j.pin)
    let u := generate (ctxSeed (ctxOf s g.ctx)) (reg s Key.GEN_ACCEPT_STREAM)
      (drawIndex (n.getD 0) g.steps (stepInput g + i) 0) % 2 ^ 24
    !rejects u p.dist (g.dists[i - 1]?.getD []) x

/-- The number of drafts accepted, of those from draft `i` on. -/
def acceptedFrom (s : State) (id : Nat) (g : GenReq) : Nat → Nat → Nat
  | 0, _ => 0
  | n + 1, i => if accepts s id g i (stepProcessed s g i) then 1 + acceptedFrom s id g n (i + 1) else 0

/-- The step's tokens are decided. -/
def decideStep (s : State) (id : Nat) (g : GenReq) : State :=
  let v := g.drafts.length
  let a := acceptedFrom s id g v 1
  let s1 := (List.range a).foldl (fun t i => countProcessed t id g.ctx (stepProcessed s g (i + 1)) false) s
  let put (t : State) (ys : List Nat) : State :=
    updGen t id (fun g => { g with stage := .sampled, emitted := g.drafts.take a ++ ys, accepted := a })
  if 0 < a && genDead s g a then put s1 []
  else
    let p := stepProcessed s g (a + 1)
    let u := genDraw s id g (stepInput g + a + 1) 1
    let y := if a < v && !greedy g.block then drawResidual u p.dist (g.dists[a]?.getD [])
      else drawWeighted u (exactDist p.dist)
    put (countProcessed s1 id g.ctx p true) [y]

/-- EOS_TOKEN of a request's vocabulary. -/
def genEos (s : State) (g : GenReq) : Nat :=
  match tabGet s.vocabs (rdVocab g.desc) with
  | some v => voEos (natAt s v.addr 64)
  | none => noToken

/-- The SAMPLE phase for one request. -/
def sampleOne (s : State) (id : Nat) : State :=
  match tabGet s.gens id with
  | some g =>
    if !stepDue s g then s
    else if g.stage != .ready then bump s Key.HEM_SAMPLE_MISSES 1
    else if (ctxOf s g.ctx).state != .running || (sbGrammarEn g.block && g.maskBeat != some (beatNow s)) then s
    else if genDead s g 0 then
      updGen s id (fun g => { g with stage := .sampled, accepted := 0,
                                     emitted := if sbForceEos g.block then [genEos s g] else [] })
    else decideStep s id g
  | none => s

/-- The SAMPLE phase. -/
def sampleEvent (s : State) : State := ((liveGens s).map Prod.fst).foldl sampleOne s

/-! ### TOKEN_COMMIT (R295 to R299) -/

/-- Markers unmarked from the start without overlap; a marker that is not complete is held back. -/
def unmarkStream (m : List Nat) : Nat → List Nat → List Nat
  | 0, _ => []
  | k + 1, bs =>
    match bs with
    | [] => []
    | b :: rest =>
      if m.isPrefixOf bs then 0x20 :: unmarkStream m k (bs.drop m.length)
      else if bs.isPrefixOf m then [] else b :: unmarkStream m k rest

/-- The text stream of some kept tokens (R205 with SKIP_SPECIAL and CONTINUE); `whole` tells that no more follow. -/
def textStream (s : State) (vocab : Nat) (whole : Bool) (ts : List Nat) : List Nat :=
  match tabGet s.vocabs vocab with
  | some v =>
    let h := natAt s v.addr 64
    if voMark h == 0 || whole then decodeTokens s v.addr true true ts
    else
      let raw := (ts.map (tokenBytes s v.addr true)).flatten
      unmarkStream (utf8 (voMark h)) raw.length raw
  | none => []

/-- The earliest completion of a stop string that ends behind `lo` and not behind `hi` in a stream: its end and index. -/
def stopIn (stops : List (List Nat)) (stream : List Nat) (lo hi : Nat) : Option (Nat × Nat) :=
  ((List.range (hi - lo)).map (fun i => lo + i + 1)).findSome? (fun e =>
    (stops.findIdx? (fun t => t.isSuffixOf (stream.take e))).map (fun i => (e, i)))

/-- The commit of a step in progress. -/
structure Commit where
  kept    : List Nat
  /-- Output entries in order. -/
  entries : List Nat := []
  /-- Text bytes kept. -/
  text    : Nat
  /-- END_REASON, and whether the last token is partial. -/
  ended   : Option (Nat × Bool) := none
  stop    : Nat := 0xFF
  deriving DecidableEq, Repr

/-- One emitted token kept (R295); `at_` is its position. -/
def commitToken (s : State) (g : GenReq) (cm : Commit) (x : Nat) (drafted : Bool) (at_ : Nat) : Commit :=
  let d := g.desc
  let kept := cm.kept ++ [x]
  let cap := rdTextCap d
  let stream := textStream s (rdVocab d) false kept
  let room := if rdTextEn d then Nat.min stream.length cap else stream.length
  let fin : Option (Nat × Bool) × Nat × Nat := match stopIn g.stops stream cm.text room with
    | some (e, i) => (some (endStop, e < stream.length), e, i)
    | none =>
      if room < stream.length then (some (endFull, true), room, 0xFF)
      else if x == genEos s g then (some (endEos, false), room, 0xFF)
      else if kept.length == rdMaxNew d then (some (endMaxNew, false), room, 0xFF)
      else if kept.length == rdOutCap d then (some (endFull, false), room, 0xFF)
      else if reg s Key.GEN_MAX_POSITIONS ≤ at_ + 1 then (some (endLength, false), room, 0xFF)
      else (none, room, 0xFF)
  let part := match fin.1 with
    | some (_, p) => p
    | none => false
  { kept := kept, entries := cm.entries ++ [g.steps * 2 ^ 32 + flagBit part * 2 ^ 31 + flagBit drafted * 2 ^ 30 + x],
    text := fin.2.1, ended := fin.1, stop := fin.2.2 }

/-- The emitted tokens kept in order until one ends the request. -/
def commitAll (s : State) (g : GenReq) : List (Nat × Bool) → Nat → Commit → Commit
  | [], _, cm => cm
  | (x, d) :: rest, at_, cm =>
    let next := commitToken s g cm x d at_
    if next.ended.isSome then next else commitAll s g rest (at_ + 1) next

/-- The draft length after a step (R297). -/
def backoff (s : State) (g : GenReq) : State :=
  let x := ctxOf s g.ctx
  let v := g.drafts.length
  let count (t : State) : State :=
    let n := gsFullRun (ctxOf t g.ctx) + 1
    if n == rdRestore g.desc then setGs (setGs t g.ctx 408 8 (rdDraftLen g.desc)) g.ctx 400 8 0 else setGs t g.ctx 400 8 n
  if !rdBackoff g.desc || g.steps == 0 then s
  else if v == 0 then (if gsDCur x == 0 then count s else s)
  else if g.accepted == 0 then
    bump (setGs (setGs s g.ctx 408 8 (gsDCur x / 2)) g.ctx 400 8 0) Key.GEN_BACKOFFS 1
  else if g.accepted == v then count s
  else setGs s g.ctx 400 8 0

/-- The status that an END_REASON completes with (R300). -/
def statusOf (reason : Nat) (part : Bool) : Nat :=
  if reason == endDead then Code.GRAMMAR_DEAD
  else if reason == endEos || (reason == endStop && !part) then Code.OK else Code.OK_TRUNCATED

/-- The Veil's state after some kept tokens (R322). -/
def advanceVeil (s : State) (g : GenReq) (ts : List Nat) : State :=
  match genGrammar s g with
  | some a => setGs s g.ctx 136 24 (ts.foldl (nextState s a) (gsVeil (ctxOf s g.ctx)))
  | none => s

/-- The counters of a committed step. -/
def countStep (s : State) (g : GenReq) (k : Nat) : State :=
  let v := g.drafts.length
  let s1 := bump (bump (bump (bump (countDecode s k) Key.GEN_STEPS 1) Key.GEN_TOKENS k) Key.GEN_DRAFTED v)
    Key.GEN_ACCEPTED g.accepted
  if v != 0 && g.accepted == 0 then bump s1 Key.GEN_FULL_REJECTS 1 else s1

/-- The request ends at this commit. -/
def endAt (s : State) (id : Nat) (g : GenReq) (reason : Nat) (part : Bool) : State :=
  let s1 := setGs (setEndReason s g.ctx reason) g.ctx 119 1 0
  let s2 := if reason == endStop then bump s1 Key.GEN_STOP_HITS 1 else s1
  let s3 := if reason == endStop && part then bump s2 Key.GEN_PARTIAL_STOPS 1 else s2
  let s4 := updGen s3 id (fun g => { g with
    stage := .ended, outcome := some (reason, statusOf reason part)
    outbox := g.outbox ++ [(rdOut g.desc, leBytes 64 (outHeader s3 g reason))] })
  genRelease s4 g.ctx g.desc

/-- The TOKEN_COMMIT of a request whose grammar is dead, without FORCE_EOS (R326). -/
def commitDead (s : State) (id : Nat) (g : GenReq) : State :=
  genFlush (endAt (bump s Key.VEIL_DEAD 1) id g endDead false) id

/-- The TOKEN_COMMIT of a step. -/
def commitStep (s : State) (id : Nat) (g : GenReq) : State :=
  let c := g.ctx
  let l := stepInput g
  let forced := genDead s g 0
  let flags := g.emitted.mapIdx (fun i x => (x, decide (i < g.accepted)))
  let cm := commitAll s g flags (l + 1) { kept := g.kept, text := g.text }
  let k := cm.kept.length - g.kept.length
  let before := textStream s (rdVocab g.desc) false g.kept
  -- what a marker that never completes had held back comes with the last token
  let stream := textStream s (rdVocab g.desc) false cm.kept
  let whole := match cm.ended with
    | some (r, false) => if r == endStop then stream else textStream s (rdVocab g.desc) true cm.kept
    | _ => stream
  let text := if cm.text == stream.length then
      (if rdTextEn g.desc then Nat.min whole.length (rdTextCap g.desc) else whole.length) else cm.text
  let bytes := (whole.take text).drop (Nat.min g.text before.length)
  let s1 := countStep (setDraftLen (setLen s c (l + k)) c (Nat.min g.draftPos (l + k))) g k
  let s2 := backoff (if forced then bump s1 Key.VEIL_FORCED_EOS 1 else advanceVeil s1 g (cm.kept.drop g.kept.length)) g
  let s3 := updCtx s2 c (fun x => { x with lastKept := (cm.kept.getLast?).map (fun t => (l + k, t)) })
  let shown := if rdTextEn g.desc then text else 0
  let base := rdOut g.desc + 64 + 8 * g.kept.length
  let writes := [(base, cm.entries.flatMap (leBytes 8))] ++
    (if rdTextEn g.desc && !bytes.isEmpty then [(rdText g.desc + g.text, bytes)] else [])
  let g1 := { g with
    kept := cm.kept, text := shown, steps := g.steps + 1, draftPos := Nat.min g.draftPos (l + k),
    draftedAll := g.draftedAll + g.drafts.length, acceptedAll := g.acceptedAll + g.accepted,
    stopIndex := cm.stop, outbox := g.outbox ++ writes, limit := 0, drafts := [], logits := [] }
  let s4 := updGen s3 id (fun _ => g1)
  match cm.ended with
  | some (reason, part) => genFlush (endAt s4 id g1 reason part) id
  | none =>
    let s5 := updGen s4 id (fun g => { g with
      outbox := g.outbox ++ [(rdOut g.desc, leBytes 64 (outHeader s4 g endRunning))] })
    match tabGet s5.gens id with
    | some g2 => genFlush (beginStep s5 id g2 (beatNow s + 1)) id
    | none => s5

/-- The TOKEN_COMMIT phase for one request. -/
def commitOne (s : State) (id : Nat) : State :=
  match tabGet s.gens id with
  | some g =>
    if g.stage != .sampled || (ctxOf s g.ctx).state != .running then s
    else if g.emitted.isEmpty then commitDead s id g
    else progressOf (commitStep s id g) g.ctx
  | none => s

/-- The TOKEN_COMMIT phase. -/
def commitEvent (s : State) : State := ((liveGens s).map Prod.fst).foldl commitOne s

end Sys2Proof.Machine
end

