-- ==== Sys2Proof/Machine/Perf.lean ====
section
/-! DEFINITION. Performance counters (chapter 22): snapshots, the contexts' exports, skid samples, changes of a select word,
and the images that the dictionary shows. -/

namespace Sys2Proof.Machine

/-! ### Images of the banks and buffers (Table 22.8) -/

/-- Counters by number as consecutive U64 values. -/
def bankImage (t : Tab Nat) : Nat := t.foldl (fun v p => v + p.2 % 2 ^ 64 * 2 ^ (64 * p.1)) 0

/-- The records of a sample buffer. -/
def sampleImage (s : State) (b : Nat) : Nat :=
  (s.perf.samples.filter (fun p => p.1 / 1024 == b)).foldl (fun v p => v + p.2 % 2 ^ 512 * 2 ^ (512 * (p.1 % 1024))) 0

/-! ### Select words (R420) -/

/-- A block select's counter is zeroed in the images of contexts that hold no quads. -/
def zeroImages (s : State) (i : Nat) : State :=
  (s.ctxs.filter (fun p => p.2.hasImage && !holdsQuads p.2)).foldl (fun t p =>
    let dev := (List.range (4 * p.2.partition)).foldl
      (fun m b => memPutNat m (blockImageAt s p.2.saveAddr b + 0x40 + 8 * i) 8 0) t.mem.dev
    { t with mem := { t.mem with dev := dev } }) s

/-- A select word takes effect: the counters it governs are zero. -/
def applySelect (s : State) (key value : Nat) : State :=
  let i := key % 256
  let s1 := setReg s key value
  if key / 256 == 0x3302 then
    zeroImages { s1 with perf := { s1.perf with block := s1.perf.block.filter (fun p => p.1 % 8 != i) } } i
  else if key / 256 == 0x3303 then
    { s1 with perf := { s1.perf with region := s1.perf.region.filter (fun p => p.1 % 32 != i) } }
  else { s1 with perf := { s1.perf with chip := tabDel s1.perf.chip i, skid := s1.perf.skid.filter (fun k => k != i) } }

/-! ### Exports (R428) -/

/-- The export word of a context: its address, and whether it is enabled. -/
def exportWord (s : State) (c : Nat) : Nat := field (reg s Key.PERF_EXPORT) (64 * c) 64
def exportAddr (w : Nat) : Nat := w / 4096 * 4096
def exportBytes (x : Ctx) : Nat := 64 + 64 * 4 * x.partition

/-- The eight counters of a logical block at the snapshot: live on its quads, else from the context's image. -/
def exportRecord (s : State) (x : Ctx) (i : Nat) : List Nat :=
  match x.state, physBlock x i with
  | .restoring, _ => if x.hasImage then memBytes s.mem.dev (blockImageAt s x.saveAddr i + 0x40) 64 else List.replicate 64 0
  | _, some b => ((List.range 8).map (fun k => leBytes 8 ((tabGet s.perf.blockShadow (b * 8 + k)).getD 0))).flatten
  | _, none => if x.hasImage then memBytes s.mem.dev (blockImageAt s x.saveAddr i + 0x40) 64 else List.replicate 64 0

/-- The header of an export (Table 22.4). -/
def exportHeader (s : State) (c : Nat) (x : Ctx) : Nat :=
  let events := (List.range 8).foldl (fun v i =>
    v + selEvent (reg s (Key.PERF_BLOCK_SELECT i)) * 2 ^ (352 + 12 * i)) 0
  reg s Key.PERF_SNAP_BEAT * 2 ^ 448 + events + 4 * x.partition * 2 ^ 320 + c * 2 ^ 304 + x.genTag * 2 ^ 296 +
    flagBit (holdsQuads x) * 2 ^ 8 + 1

/-- The writes of a context's export: the records, then the header. -/
def exportWrites (s : State) (c : Nat) (x : Ctx) : List (Nat × List Nat) :=
  let a := exportAddr (exportWord s c)
  [(a + 64, ((List.range (4 * x.partition)).map (exportRecord s x)).flatten), (a, leBytes 64 (exportHeader s c x))]

/-- Export writes are performed in order.  One that waits for a unit being moved holds those behind it; an export of which
a write can no longer be made is skipped and counted: with its records goes the header behind them. -/
def exportStep : Nat → State → State
  | 0, s => s
  | n + 1, s =>
    match s.perf.exports with
    | [] => s
    | (a, bs) :: rest =>
      let drop (t : State) : State := { t with perf := { t.perf with exports := rest } }
      let skip (t : State) : State :=
        bump { t with perf := { t.perf with exports := rest.drop (if a % 4096 == 0 then 0 else 1) } } Key.PERF_EXPORT_FAILS 1
      if !rangeOk s a bs.length || (inWindow a && s.aedup.link.state != .active) then exportStep n (skip s)
      else match prepareWrite s a bs.length with
        | .ready t => exportStep n (drop (writeBytes t a bs))
        | .wait t => t
        | .fail t _ => exportStep n (skip t)

/-- The contexts that have an export: permitted, enabled, not FREE. -/
def exporting (s : State) : List (Nat × Ctx) :=
  s.ctxs.filter (fun p => p.2.permit && bitOf (exportWord s p.1) 0 && p.2.state != .free)

/-- The export writes that wait go on. -/
def exportSweep (s : State) : State := exportStep (s.perf.exports.length + 1) s

/-! ### COUNTER_SNAPSHOT (R425) -/

/-- Message flits sent since the last count are counted. -/
def settleSent (s : State) : State :=
  let s1 := countChip (countChip s 0x302 s.perf.sentAedup {}) 0x305 s.perf.sentPelgan {}
  { s1 with perf := { s1.perf with sentAedup := 0, sentPelgan := 0 } }

/-- Every counter brought up to date. -/
def freshCounts (s : State) : State := advanceTimed (settleSent s)

/-- Every counter is copied to its shadow, the beat is recorded, and the exports are written. -/
def snapshotEvent (s : State) : State :=
  let s1 := freshCounts s
  let s2 := setReg { s1 with perf := { s1.perf with
    blockShadow := s1.perf.block, regionShadow := s1.perf.region, chipShadow := s1.perf.chip } }
    Key.PERF_SNAP_BEAT (beatNow s1)
  let ws := ((exporting s2).map (fun p => exportWrites s2 p.1 p.2)).flatten
  exportSweep { s2 with perf := { s2.perf with exports := s2.perf.exports ++ ws } }

/-! ### SKID_SAMPLE (R430) -/

/-- The sample of a skid event that one chip counter waits for is captured now. -/
def captureSkid (event inst : Nat) (s : State) (counter : Nat) : State :=
  let before := reg s (Key.PERF_SAMPLE_COUNT 4)
  let t := takeSample s 4 none event counter true { inst := inst }
  if reg t (Key.PERF_SAMPLE_COUNT 4) == before then t else sampleInterrupt t

/-- SKID_SAMPLE: `count` further events of a unit that no other command shows are counted (IVR monitor samples outside
±2 %, HBM parity retries), and the samples that the event's counters wait for are captured. -/
def skidSample (s : State) (event inst count : Nat) : State :=
  let s0 := if event == 0x3B0 then bump s Key.HBM_PARITY_RETRIES count else s
  let s1 := if event == 0x390 || event == 0x3B0 then countChip s0 event count { inst := inst } else s0
  let due := s1.perf.skid.filter (fun k => selEvent (reg s1 (Key.PERF_CHIP_SELECT k)) == event)
  let s2 := { s1 with perf := { s1.perf with
    skid := s1.perf.skid.filter (fun k => selEvent (reg s1 (Key.PERF_CHIP_SELECT k)) != event) } }
  if frozen s2 then s2 else due.foldl (captureSkid event inst) s2

def execSkidSample (event inst count : Nat) (s : State) : Host.Outcome State Fault Refusal :=
  .next (skidSample s event inst count)

end Sys2Proof.Machine
end

