-- ==== Sys2Proof/Machine/Power.lean ====
section
/-! DEFINITION. Power, clocks and start-up (chapter 19): the Collar, region wakes, power states, thermal and supply limits,
power failure, and the start-up states up to CONFIGURE. -/

namespace Sys2Proof.Machine

/-! ### The Collar's buckets (R385, R386) -/

/-- The current step of one block in mA. -/
def blockStep (s : State) : Nat := reg s Key.COLLAR_BLOCK_STEP_MA

/-- Tokens that a bucket holds at an ACLK in Hz. -/
def bucketTokens (s : State) (aclk : Nat) : Nat :=
  reg s Key.COLLAR_SLEW_LIMIT * 4 * inForce s Key.ARRAY_RAMP_STEP * 1000000000 / (aclk * blockStep s)

/-- Depth of a bucket in mA. -/
def bucketDepth (s : State) (aclk : Nat) : Nat := bucketTokens s aclk * blockStep s

/-- Each bucket takes a new depth; what lies above it is discarded. -/
def capBuckets (s : State) : State :=
  let d := bucketDepth s (reg s Key.POWER_ACLK_NOW)
  { s with power := { s.power with rise := Nat.min s.power.rise d, fall := Nat.min s.power.fall d } }

/-- Both buckets refilled over some ns; while a region stage runs, its slew is taken off. -/
def refill (s : State) (ns : Nat) : State :=
  let slew := reg s Key.COLLAR_SLEW_LIMIT - (if s.power.waking.isEmpty then 0 else reg s Key.COLLAR_STAGE_SLEW)
  capBuckets { s with power := { s.power with rise := s.power.rise + slew * ns, fall := s.power.fall + slew * ns } }

/-- Both buckets full. -/
def fillBuckets (s : State) : State :=
  let d := bucketDepth s (reg s Key.POWER_ACLK_NOW)
  { s with power := { s.power with rise := d, fall := d } }

/-- The estimate of the current: the steps of the blocks that are not IDLE, and the region stages. -/
def estimateMa (s : State) : Nat :=
  s.power.blocks.length * blockStep s + (s.power.stageMa.map Prod.snd).sum

/-- POWER.VIN_MA follows the estimate. -/
def showEstimate (s : State) : State := setReg s Key.POWER_VIN_MA (estimateMa s)

/-! ### Blocks: IDLE and admission (R114, R115, R385) -/

/-- A block's array beside IDLE. -/
def setBlock (s : State) (b : Nat) (p : BlockPower) : State :=
  { s with power := { s.power with blocks := tabSet s.power.blocks b p } }

/-- IDLE_REQUEST: after 64 ACLK without a valid row, an awake block asks for IDLE. -/
def idleRequest (s : State) (b : Nat) : State :=
  match tabGet s.power.blocks b with
  | some .awake => setBlock s b .asking
  | _ => s

def execIdleRequest (block : Nat) (s : State) : Host.Outcome State Fault Refusal := .next (idleRequest s block)

/-- IDLE_GRANT: a block that asks takes a fall token, ramps down and is IDLE.  `elapsedNs` is the time since the Collar
last acted. -/
def idleGrant (s : State) (b elapsedNs : Nat) : State :=
  let t := refill s elapsedNs
  if tabGet t.power.blocks b == some .asking && blockStep t ≤ t.power.fall && t.power.aclkNext.isNone then
    showEstimate (countChip { t with power := { t.power with
      fall := t.power.fall - blockStep t, blocks := tabDel t.power.blocks b } } 0x381 1 { inst := b })
  else t

def execIdleGrant (block elapsedNs : Nat) (s : State) : Host.Outcome State Fault Refusal :=
  .next (idleGrant s block elapsedNs)

/-- The calendar entry in force. -/
def calEntry (s : State) (i : Nat) : Nat := s.hem.calendar[i]?.getD 0

/-- EVENT, PHASE, LENGTH and ENABLE of a calendar entry (Table 2.3). -/
def calEvent (e : Nat) : Nat := field e 48 8
def calPhase (e : Nat) : Nat := field e 0 32
def calLength (e : Nat) : Nat := field e 32 16
def calEnabled (e : Nat) : Bool := bitOf e 63

/-- The enabled entries of the calendar in force with an event. -/
def entriesOf (s : State) (event : Nat) : List Nat :=
  (List.range 64).filter (fun i => calEnabled (calEntry s i) && calEvent (calEntry s i) == event)

/-- A SELFTEST_WINDOW is open. -/
def testWindowOpen (s : State) : Bool := s.hem.windows.any (fun i => calEvent (calEntry s i) == 4)

/-- A valid row is ready on a block: the next instruction of its stream is a MATMUL with rows. -/
def rowReady (s : State) (b : Nat) : Bool :=
  s.array.runs.any (fun p => match tabGet s.jobs p.1 with
    | none => false
    | some j => runIssues s j p.2 && ((blocksOf (ctxOf s p.2.ctx)).zipIdx).any (fun q => q.1 == b &&
        match p.2.streams[q.2]? with
        | none => false
        | some st => st.mode == .running && st.pc < st.count &&
            inOp (natAt s (st.addr + 16 * st.pc) 16) == opMatmul))

/-- COLLAR_ADMISSION: an IDLE block with a valid row ready, or one that a slice is to be run on (R413), takes a rise token
and starts its ramp.  A token is withheld at the current limit and during an ACLK change.  `waitNs` is the time that the
block waited, `elapsedNs` the time since the Collar last acted. -/
def collarAdmission (s : State) (b waitNs elapsedNs : Nat) : State :=
  let t := refill s elapsedNs
  if b < blockCount && (tabGet t.power.blocks b).isNone && regionAwake t (regionOfBlock b) &&
      (rowReady t b || testWindowOpen t) && blockStep t ≤ t.power.rise && t.power.aclkNext.isNone &&
      estimateMa t + blockStep t ≤ reg t Key.COLLAR_CURRENT_LIMIT * 1000 then
    let t1 := setBlock { t with power := { t.power with rise := t.power.rise - blockStep t } } b .ramping
    let t2 := setReg (bump t1 Key.COLLAR_ADMISSIONS 1) Key.COLLAR_WAIT_NS_MAX
      (Nat.max (reg t1 Key.COLLAR_WAIT_NS_MAX) (Nat.min waitNs 0xFFFFFFFF))
    showEstimate (countChip (countChip t2 0x380 1 { inst := b }) 0x382 (waitNs * 7 / 5) { inst := b })
  else t

def execCollarAdmission (block waitNs elapsedNs : Nat) (s : State) : Host.Outcome State Fault Refusal :=
  .next (collarAdmission s block waitNs elapsedNs)

/-- RAMP_END: the block's ramp ends, and its rows issue from the next cycle. -/
def rampEnd (s : State) (b : Nat) : State :=
  match tabGet s.power.blocks b with
  | some .ramping => setBlock s b .awake
  | _ => s

def execRampEnd (block : Nat) (s : State) : Host.Outcome State Fault Refusal := .next (rampEnd s block)

/-! ### The clean record and the quick path (R393, R412, Table 21.2) -/

/-- The CRC of a clean record: CRC-32C over bits [2015:0]. -/
def recordCrc (r : Nat) : Nat := crc32c (leBytes 252 r)

/-- A clean record with its CRC. -/
def sealRecord (r : Nat) : Nat := setField r 2016 32 (recordCrc r)

/-- The quick path applies. -/
def quickApplies (s : State) : Bool :=
  let r := s.eeprom.record
  reg s Key.POWER_QUICK_START == 1 && field r 2016 32 == recordCrc r && field r 0 8 == 1 &&
    field r 320 64 == s.eeprom.serial && bitOf r 8 && !bitOf r 9 && field r 816 1200 == s.eeprom.blockMap

/-- The device enters IDENTIFY: the path is decided, and the record is marked consumed. -/
def enterIdentify (s : State) : State :=
  let s1 := setReg { s with start := .identify } Key.POWER_LAST_START (flagBit (quickApplies s))
  { s1 with eeprom := { s1.eeprom with record := sealRecord (setField s.eeprom.record 9 1 1) } }

/-! ### Region wakes (R387) -/

/-- Current that one region stage may add: COLLAR.STAGE_SLEW over COLLAR.STAGE_NS. -/
def stageRise (s : State) : Nat := reg s Key.COLLAR_STAGE_SLEW * reg s Key.COLLAR_STAGE_NS

/-- REGION_WAKE_STAGE: a stage of the region that wakes ends.  Its current lies within what the slew allows; the spec gives
no figure, so it is an open value.  At stage 8 the region accepts work, unless it is being reset; when the last region of start-up is awake, the
device enters IDENTIFY. -/
def regionWakeStage (s : State) (r : Nat) : State :=
  if s.power.waking.head? == some r then
    let f := takeFree s
    let old := (tabGet f.2.power.stageMa r).getD 0
    let s1 := bump { f.2 with power := { f.2.power with
      stageMa := tabSet f.2.power.stageMa r (old + f.1 % (stageRise s + 1)), stage := s.power.stage + 1 } }
      Key.COLLAR_STAGES 1
    let s2 := if s.power.stage + 1 < 8 then s1
      else { s1 with power := { s1.power with waking := s1.power.waking.tail, stage := 0 },
                     chip := { s1.chip with closed := if s1.chip.resetting.contains r then s1.chip.closed
                       else s1.chip.closed.filter (fun x => x != r) } }
    let s3 := showEstimate (if s2.start == .ready then showPower s2 else s2)
    if s3.start == .powerGood && s3.power.waking.isEmpty then enterIdentify s3 else s3
  else s

def execRegionWakeStage (region : Nat) (s : State) : Host.Outcome State Fault Refusal := .next (regionWakeStage s region)

/-! ### Power states (R388, R463, R71) -/

/-- Commands admitted and not completed: QUEUE.SLOTS_IN_USE. -/
def slotsInUse (s : State) : Nat := s.jobs.length

/-- Some context holds a quad of a region. -/
def regionHeld (s : State) (r : Nat) : Bool := s.ctxs.any (fun p => p.2.quads.any (fun q => regionOfQuad q == r))

/-- A command is served by an engine of a region (R463). -/
def servedIn (s : State) (r : Nat) : Bool :=
  s.jobs.any (fun p => handedOver p.2 && (engineRegions s p.2).contains r)

/-- Every stack in or out of self-refresh. -/
def selfRefreshAll (s : State) (on : Bool) : State :=
  { s with mem := { s.mem with hbmStacks := tabMap s.mem.hbmStacks (fun _ k => { k with selfRefresh := on }) } }

/-- The device leaves IDLE or DEEP_SLEEP and wakes some of its sleeping regions. -/
def leaveState (s : State) (rs : List Nat) : State :=
  let s1 := if s.power.level == 2 then selfRefreshAll s false else s
  showPower (rs.foldl askWake { s1 with power := { s1.power with level := 0 } })

/-- The regions whose bits in POWER.REGION_REQUEST are clear. -/
def regionsToWake (request : Nat) : List Nat := (List.range 4).filter (fun r => !bitOf request r)

/-- A doorbell: an entry in progress is left once it is complete; from DEEP_SLEEP the regions not asked to sleep wake. -/
def doorbellWakes (s : State) : State :=
  if s.power.entering.isSome then
    { s with power := { s.power with leave := some (s.power.leave.getD false) } }
  else if s.power.level == 2 then leaveState s (regionsToWake (reg s Key.POWER_REGION_REQUEST))
  else if s.power.level == 1 then leaveState s []
  else s

/-- A request for ACTIVE. -/
def activeRequest (s : State) : State :=
  if s.power.entering.isSome then { s with power := { s.power with leave := some true } }
  else leaveState (setReg s Key.POWER_REGION_REQUEST 0) [0, 1, 2, 3]

/-- An entry begins. -/
def enterPower (s : State) (e : PowerEntry) : State :=
  showPower { s with power := { s.power with entering := some e, leave := none } }

/-- A transition is in progress (R388). -/
def inTransition (s : State) : Bool := s.power.entering.isSome || !s.power.waking.isEmpty

/-- An accepted value of POWER.REQUEST: a status and the state after it (R388). -/
def powerRequest (s : State) (v : Nat) : Nat × State :=
  let s1 := setReg s Key.POWER_REQUEST v
  if v == 0 then (Code.OK, activeRequest s1)
  else if inTransition s then (Code.POWER_STATE_DENIED, s)
  else if v == s.power.level then (Code.OK, s1)
  else if slotsInUse s != 0 || (v == 2 && (List.range 4).any (regionHeld s)) then (Code.POWER_STATE_DENIED, s)
  else if v == 1 then
    (Code.OK, enterPower (if s.power.level == 2 then leaveState s1 (regionsToWake (reg s Key.POWER_REGION_REQUEST)) else s1)
      .idle)
  else (Code.OK, enterPower s1 .deepSleep)

/-- A value of POWER.REGION_REQUEST (R463). -/
def regionRequest (s : State) (v : Nat) : Nat × State :=
  let asleep (r : Nat) : Bool := bitOf (reg s Key.POWER_REGION_SLEEP_MAP) r
  let go := (List.range 4).filter (fun r => bitOf v r && !asleep r)
  let s1 := setReg s Key.POWER_REGION_REQUEST v
  if inTransition s then (Code.POWER_STATE_DENIED, s)
  else if s.power.level == 2 then (Code.OK, leaveState s1 (regionsToWake v))
  else if go.any (fun r => regionHeld s r || servedIn s r) then (Code.POWER_STATE_DENIED, s)
  else
    let s2 := (regionsToWake v).foldl askWake s1
    (Code.OK, if go.isEmpty then s2 else enterPower s2 (.regions (go.foldl (fun m r => m + 2 ^ r) 0)))

/-- Every block is IDLE; each took a fall token. -/
def idleAll (s : State) : State :=
  showEstimate (countChip { s with power := { s.power with blocks := [] } } 0x381 s.power.blocks.length {})

/-- Regions fall asleep. -/
def sleepRegions (s : State) (rs : List Nat) : State :=
  showEstimate (rs.foldl (fun t r =>
    setReg (loseRegion t r) Key.POWER_REGION_SLEEP_MAP (setField (reg t Key.POWER_REGION_SLEEP_MAP) r 1 1)) s)

/-- POWER_STATE_REACHED: the entry ends; DEEP_SLEEP waits for the moves in flight.  A doorbell or a request for ACTIVE that
came meanwhile has the state left at once. -/
def powerStateReached (s : State) : State :=
  let done (t : State) : State :=
    let t1 := showPower { t with power := { t.power with entering := none, leave := none } }
    match s.power.leave with
    | none => t1
    | some false => doorbellWakes t1
    | some true => activeRequest t1
  match s.power.entering with
  | none => s
  | some .idle => done { idleAll s with power := { (idleAll s).power with level := 1 } }
  | some .deepSleep =>
    if s.mem.units.any (fun p => p.2.move.isSome) then s
    else
      let t := selfRefreshAll (sleepRegions s ((List.range 4).filter (fun r => !regionAsleep s r))) true
      done { t with power := { t.power with level := 2 } }
  | some (.regions m) => done (sleepRegions s ((List.range 4).filter (bitOf m)))

def execPowerStateReached (s : State) : Host.Outcome State Fault Refusal := .next (powerStateReached s)

/-! ### Thermal and supply limits (R389, Table 19.6) -/

/-- A power error that is fatal: POWER.ERRORS takes its row and the chip takes a warm reset.  The spec gives these
conditions no status, so the cause that is reported is an open value. -/
def powerFatal (s : State) (row : Nat) : State :=
  let f := takeFree (setReg s Key.POWER_ERRORS row)
  fatalError f.2 .power 0 (f.1 % 65536) row

/-- One ACLK step down begins, unless a change is in progress or ACLK is at 0.60 GHz. -/
def aclkDown (s : State) : State :=
  let a := reg s Key.POWER_ACLK_NOW
  if s.power.aclkNext.isSome || a ≤ 600000000 then s
  else bump { s with power := { s.power with aclkNext := some (a - 50000000) } } Key.POWER_THROTTLE_EVENTS 1

/-- POWER_ERROR: a condition of Table 19.6 has lasted for its time; `row` is its row, from 1. -/
def powerError (s : State) (row : Nat) : State :=
  if s.start == .off || row == 0 || 7 < row then s
  else if row == 7 then aclkDown (setReg s Key.POWER_ERRORS 7)
  else powerFatal s row

def execPowerError (row : Nat) (s : State) : Host.Outcome State Fault Refusal := .next (powerError s row)

/-- THERMAL_READ: the die sensors are read; `hottest` is the hottest of them in °C. -/
def thermalRead (s : State) (hottest : Nat) : State :=
  if s.start == .off then s
  else
    let top := reg s Key.POWER_TJ_THROTTLE_C
    let hot := if top ≤ hottest then true else if hottest + 2 ≤ top then false else s.power.hot
    setReg { s with power := { s.power with hot := hot } } Key.POWER_TJ_HOT_C (hottest % 256)

def execThermalRead (hottest : Nat) (s : State) : Host.Outcome State Fault Refusal := .next (thermalRead s hottest)

/-- ACLK_STEP: while the die throttles or recovers, ACLK moves one step. -/
def aclkStep (s : State) : State :=
  let a := reg s Key.POWER_ACLK_NOW
  if s.start == .off || powerFailing s then s
  else if s.power.hot then aclkDown s
  else if s.power.aclkNext.isNone && a < 1050000000 then
    { s with power := { s.power with aclkNext := some (a + 50000000) } }
  else s

def execAclkStep (s : State) : Host.Outcome State Fault Refusal := .next (aclkStep s)

/-- ACLK_CHANGE_END: the new ACLK is in force, and the buckets take their depth at it. -/
def aclkChangeEnd (s : State) : State :=
  match s.power.aclkNext with
  | some a => capBuckets (setReg { s with power := { s.power with aclkNext := none } } Key.POWER_ACLK_NOW a)
  | none => s

def execAclkChangeEnd (s : State) : Host.Outcome State Fault Refusal := .next (aclkChangeEnd s)

/-- HBM_TEMPERATURE_READ (R184): refresh doubles above 85 °C; the command rate is halved from above HBM.THROTTLE_C until
90 °C or below; 100 °C or more is a power error. -/
def hbmTemperatureRead (s : State) (k temp : Nat) : State :=
  if s.start == .off || 12 ≤ k then s
  else
    let x := stackOf s k
    let hot := if reg s Key.HBM_THROTTLE_C < temp then true else if temp ≤ 90 then false else x.throttled
    let s1 := setStack s k { x with temp := temp, doubled := 85 < temp, throttled := hot }
    let s2 := if hot && !x.throttled then bump s1 Key.HBM_THROTTLE_EVENTS 1 else s1
    let s3 := setReg s2 Key.HBM_TEMP_MAX (Nat.max (reg s2 Key.HBM_TEMP_MAX) (temp % 256))
    if 100 ≤ temp then powerFatal s3 2 else s3

def execHbmTemperatureRead (stack temp : Nat) (s : State) : Host.Outcome State Fault Refusal :=
  .next (hbmTemperatureRead s stack temp)

/-! ### Power failure (R390) -/

/-- PWR_FAIL_N_FALL: the alert output is asserted, storage admission and array starts stop, ACLK goes to 0.60 GHz, and the
staged data begin to be flushed, oldest completed write first. -/
def pwrFailFall (s : State) : State :=
  if s.start == .off || powerFailing s then s
  else
    let s1 := bump (assertAlert s .powerFail) Key.POWER_FAIL_EVENTS 1
    let s2 := { s1 with power := { s1.power with
      aclkSaved := some (reg s1 Key.POWER_ACLK_NOW), aclkNext := some 600000000 } }
    settleFlush ((stagedStripes s2 s2.mem.order).foldl startProgram s2)

def execPwrFailNFall (s : State) : Host.Outcome State Fault Refusal := .next (pwrFailFall s)

/-- PWR_FAIL_N_RISE: ACLK is restored, and storage commands are admitted again. -/
def pwrFailRise (s : State) : State :=
  if powerFailing s then
    let s1 := releaseAlert s .powerFail
    { s1 with power := { s1.power with aclkNext := s1.power.aclkSaved, aclkSaved := none } }
  else s

def execPwrFailNRise (s : State) : Host.Outcome State Fault Refusal := .next (pwrFailRise s)

/-! ### Start-up (R391, R392) -/

/-- POWER_ON: every rail is within limits with COLD_RST_N high; the DRBG is seeded (R433). -/
def powerOn (s : State) : State :=
  if s.start == .off then
    { s with start := .powerGood, power := { s.power with reading := true }, sec := { s.sec with drbg := some 0 } }
  else s

def execPowerOn (s : State) : Host.Outcome State Fault Refusal := .next (powerOn s)

/-- An INTERNAL tier key is unwrapped into slot 0 (R437). -/
def takeTierKey (s : State) : State :=
  match s.eeprom.tierKey with
  | some k => if s.sec.rootKey then { s with sec := { s.sec with slots := tabSet s.sec.slots 0 ⟨1, k⟩ } } else s
  | none => s

/-- The values that the EEPROM gives (R392, R367, R441). -/
def takeEeprom (s : State) : State :=
  let e := s.eeprom
  let fixed := [(Key.ID_SERIAL, e.serial), (Key.MGMT_MAC, e.mac), (Key.COLLAR_BLOCK_STEP_MA, e.blockStep),
    (Key.CHIP_BLOCK_MAP, e.blockMap), (Key.CHIP_QUARANTINE_EVENTS, e.quarantines),
    (Key.SEC_IDENTITY_PUBKEY, e.pubkey), (Key.SEC_IDENTITY_CERT, e.cert)]
  takeTierKey ((fixed ++ e.kept).foldl (fun t p => setReg t p.1 p.2) s)

/-- EEPROM_READ: the values are taken, and the Collar begins to wake the four regions; a failed read asserts the fatal
output. -/
def eepromRead (s : State) (ok : Bool) : State :=
  if s.start == .powerGood && s.power.reading then
    if ok then
      let s1 := takeEeprom { s with power := { s.power with reading := false, waking := [0, 1, 2, 3], stage := 0 },
                                    chip := { s.chip with closed := [0, 1, 2, 3] } }
      showEstimate (fillBuckets s1)
    else { s with fatal := true, power := { s.power with reading := false } }
  else s

def execEepromRead (ok : Bool) (s : State) : Host.Outcome State Fault Refusal := .next (eepromRead s ok)

/-- EEPROM_READ_RETRY: a failed read is tried again after 1 s. -/
def eepromReadRetry (s : State) : State :=
  if s.start == .powerGood && !s.power.reading && s.power.waking.isEmpty then
    { s with power := { s.power with reading := true } }
  else s

def execEepromReadRetry (s : State) : Host.Outcome State Fault Refusal := .next (eepromReadRetry s)

/-- QUICK_PATH_END: with the quick path decided and the record marked consumed, IDENTIFY ends. -/
def quickPathEnd (s : State) : State :=
  if s.start == .identify && reg s Key.POWER_LAST_START == 1 then { s with start := .train } else s

def execQuickPathEnd (s : State) : Host.Outcome State Fault Refusal := .next (quickPathEnd s)

/-- On entering CONFIGURE the writable entries of 0x1000 to 0x1FFF take their default or EEPROM value (R374, R375). -/
def loadDefaults (s : State) : State :=
  let writable (k : Nat) : Bool := k < 0x200000 && match rowOf k with
    | some r => r.acc != .ro
    | none => false
  let s1 := { s with regs := s.regs.filter (fun p => !writable p.1) }
  (s.eeprom.kept.filter (fun p => writable p.1)).foldl (fun t p => setReg t p.1 p.2) s1

/-- TRAIN_END: with every stack trained, the device enters CONFIGURE: the fatal output is released, reserved HBM and the
pool are laid out (R171), and entries take their defaults. -/
def trainEnd (s : State) : State :=
  if s.start == .train && (List.range 12).all (fun k => (stackOf s k).trained) then
    let s1 := loadDefaults { s with start := .configure, fatal := false }
    let s2 := setReg s1 Key.MEM_RESERVED_BYTES (reservedBytes (reg s1 Key.FLASH_CAPACITY))
    setReg s2 Key.MEM_SWAP_IN_FORCE (swapInForce s2)
  else s

def execTrainEnd (s : State) : Host.Outcome State Fault Refusal := .next (trainEnd s)

/-- VDD_AON_ABSENT: the device goes to OFF, and everything not in the EEPROM or durable flash is lost. -/
def execVddAonAbsent (s : State) : Host.Outcome State Fault Refusal := .next (powerLost s)

/-! ### Chip resets (R395 to R397) -/

/-- COLD_RST_N: the device goes to OFF and, once the input is released with every rail up, starts again.  Quarantines that
wait for a boundary are not written (R16). -/
def coldRst (s : State) : State := if s.start == .off then s else powerOn (powerLost s)

def execColdRstN (s : State) : Host.Outcome State Fault Refusal := .next (coldRst s)

/-- A warm reset that no fatal error causes.  The spec gives it no status and no unit, so those reported are open values. -/
def askedWarmReset (s : State) : State :=
  if s.start == .off then s
  else
    let f := takeFree s
    let g := takeFree f.2
    warmReset g.2 false (.unstated g.1) 0 (f.1 % 65536) 0

/-- WARM_RST_N held low for 1 µs. -/
def execWarmRstN (s : State) : Host.Outcome State Fault Refusal := .next (askedWarmReset s)

/-- A chip cold reset that DIAG.RESET asks for: pending quarantines are written to the EEPROM first (R16). -/
def askedColdReset (s : State) : State :=
  powerOn (powerLost (settleMap { s with chip := { s.chip with passed := [] } }))

end Sys2Proof.Machine
end

