-- ==== Sys2Proof/Machine/Calendar.lean ====
section
/-! DEFINITION. The phase calendar (chapter 2): which calendars are valid, in which order the events of a beat fire, and
the windows. -/

namespace Sys2Proof.Machine

/-! ### Validity (R42) -/

/-- The enabled entries of a calendar behind entry 0. -/
def liveEntries (cal : List Nat) : List Nat := ((cal.drop 1).take 63).filter calEnabled

/-- The enabled entries of an event. -/
def eventEntries (cal : List Nat) (event : Nat) : List Nat := (liveEntries cal).filter (fun e => calEvent e == event)

/-- The phase of an event that a calendar holds once. -/
def phaseOf (cal : List Nat) (event : Nat) : Nat := ((eventEntries cal event).map calPhase).head?.getD 0

/-- A window event. -/
def isWindow (event : Nat) : Bool := event == 3 || event == 4

/-- Two entries' windows overlap. -/
def windowsOverlap (a b : Nat) : Bool :=
  calPhase a < calPhase b + calLength b && calPhase b < calPhase a + calLength a

/-- No two windows of a list overlap. -/
def disjointWindows : List Nat → Bool
  | [] => true
  | w :: ws => ws.all (fun v => !windowsOverlap w v) && disjointWindows ws

/-- A gap in phase units is at least some ns long at a period in ns. -/
def gapHolds (units period ns : Nat) : Bool := ns * 65536 ≤ units * period

/-- An entry by itself: its event is listed, it does not fall at phase 0, its phase and LENGTH are those of its kind. -/
def entryValid (e : Nat) : Bool :=
  calEvent e != 1 && calEvent e ≤ 8 && calPhase e != 0 && calPhase e ≤ 0xFFFF &&
    (if isWindow (calEvent e) then 1 ≤ calLength e && calPhase e + calLength e ≤ 0x10000
     else calEvent e == 0 || calLength e == 0)

/-- A calendar is valid at a period (R42). -/
def calendarValid (cal : List Nat) (period : Nat) : Bool :=
  (liveEntries cal).all entryValid &&
    [5, 6, 7, 8].all (fun v => (eventEntries cal v).length == 1) && (eventEntries cal 2).length ≤ 1 &&
    phaseOf cal 5 < phaseOf cal 6 && phaseOf cal 6 < phaseOf cal 7 && phaseOf cal 7 < phaseOf cal 8 &&
    gapHolds (phaseOf cal 6 - phaseOf cal 5) period 2000 && gapHolds (phaseOf cal 7 - phaseOf cal 6) period 4000 &&
    gapHolds (0x10000 - phaseOf cal 8) period 10000 &&
    (eventEntries cal 3).length ≤ 16 && (eventEntries cal 4).length ≤ 8 &&
    disjointWindows (eventEntries cal 3) && disjointWindows (eventEntries cal 4)

/-- The staged calendar (R41). -/
def stagedCalendar (s : State) : List Nat := (List.range 64).map (fun i => reg s (Key.HEM_CALENDAR i))

/-! ### Events of a beat (R31, R39) -/

/-- The point events of the calendar in force in the order in which they fire: (phase, event, entry). -/
def pointEvents (s : State) : List (Nat × Nat × Nat) :=
  let es := ((List.range 64).drop 1).filterMap (fun i =>
    let e := calEntry s i
    if calEnabled e && [2, 5, 6, 7, 8].contains (calEvent e) then some (calPhase e, calEvent e, i) else none)
  sortBy (fun a b => a.1 < b.1 || (a.1 == b.1 && a.2.1 < b.2.1)) es

/-- The point events of this beat that have not fired, in order. -/
def unfired (s : State) : List (Nat × Nat × Nat) := (pointEvents s).filter (fun p => !s.hem.fired.contains p.2.2)

/-- PLAN_SEAL: the route plan of the next beat is sealed (R21). -/
def sealEvent (s : State) : State := { s with hem := { s.hem with sealed := true } }

/-- What a point event does (R44).  The Hem keeps its calendar running through start-up (R51, R397); with the engines
stopped the decode events find no work. -/
def fireEvent (s : State) (event : Nat) : State :=
  if event == 2 then snapshotEvent s
  else if event == 8 then sealEvent s
  else if !running s then s
  else if event == 5 then maskReadyEvent s
  else if event == 6 then sampleEvent s
  else commitEvent s

/-- Windows that end at or before a phase close. -/
def closeWindows (s : State) (phase : Nat) : State :=
  { s with hem := { s.hem with
      windows := s.hem.windows.filter (fun i => phase < calPhase (calEntry s i) + calLength (calEntry s i)) } }

/-- A point event fires. -/
def fireOne (s : State) (p : Nat × Nat × Nat) : State :=
  let s1 := closeWindows s p.1
  fireEvent { s1 with hem := { s1.hem with fired := p.2.2 :: s1.hem.fired } } p.2.1

/-- A command that is an event of the calendar: it fires when it is the next of this beat. -/
def eventCommand (s : State) (event : Nat) : State :=
  match (unfired s).head? with
  | some p => if p.2.1 == event && s.start != .off then fireOne s p else s
  | none => s

/-- MASK_READY (R323). -/
def execMaskReady (s : State) : Host.Outcome State Fault Refusal := .next (eventCommand s 5)

/-- SAMPLE (R294). -/
def execSample (s : State) : Host.Outcome State Fault Refusal := .next (eventCommand s 6)

/-- TOKEN_COMMIT (R295). -/
def execTokenCommit (s : State) : Host.Outcome State Fault Refusal := .next (eventCommand s 7)

/-- PLAN_SEAL (R21). -/
def execPlanSeal (s : State) : Host.Outcome State Fault Refusal := .next (eventCommand s 8)

/-- COUNTER_SNAPSHOT (R425). -/
def execCounterSnapshot (s : State) : Host.Outcome State Fault Refusal := .next (eventCommand s 2)

/-- Events that have not fired when their beat ends fire at once, in order (R34, R50). -/
def fireRest (s : State) : State := (unfired s).foldl fireOne s

/-! ### Windows (R45, R46, R87) -/

/-- A window of an event can be open now: it is open, or no point event before its phase is still to fire and none at or
behind its end has fired. -/
def windowTime (s : State) (i event : Nat) : Bool :=
  let e := calEntry s i
  i != 0 && i < 64 && calEnabled e && calEvent e == event && s.start != .off &&
    (s.hem.windows.contains i ||
      ((unfired s).all (fun p => calPhase e ≤ p.1) &&
        s.hem.fired.all (fun f => calPhase (calEntry s f) < calPhase e + calLength e)))

/-- A window opens; those that ended before its phase close. -/
def openWindow (s : State) (i : Nat) : State :=
  let s1 := closeWindows s (calPhase (calEntry s i))
  if s1.hem.windows.contains i then s1 else { s1 with hem := { s1.hem with windows := i :: s1.hem.windows } }

/-- The non-preemptible units that a context has open: the Cuffs that read a segment for it, its mask fetches, its
exchanges with other devices. -/
def openUnitsOf (s : State) (c : Nat) : List Nat :=
  let t := updCtx s c (fun x => { x with leaving := false })
  (List.range 64).filter (fun k => match oldestItem t k with
      | some (i, g) => (ctxsOfJobs t ((passUsers t k i g).map Prod.fst)).contains c
      | none => false) ++
    (if masksWanted t c then [veilUnit] else []) ++
    (if t.queries.any (fun p => match p.2.span with
        | some r => r.left != 0 && (ctxsOfJobs t [p.1]).contains c
        | none => false) then [fabricUnit] else [])

/-- Contexts told to leave their quads begin to save, or wait for their open units (R88, R90). -/
def settleLeaving (s : State) : State :=
  ((s.ctxs.filter (fun p => p.2.leaving && p.2.state == .running && p.2.openUnits.isEmpty)).map Prod.fst).foldl
    (fun t c => leaveUnits t c (openUnitsOf t c)) s

/-- The preemption opportunity of a context (R83, R87, R92): an asked preemption begins, and a copy is taken. -/
def preemptNow (s : State) (c : Nat) : State :=
  let s1 := serveSave s c false false
  if (ctxOf s1 c).preempt then beginSave s1 c else s1

/-- PREEMPT_WINDOW: while it is open, asked preemptions and copies are served, and contexts that starve are placed. -/
def preemptWindow (s : State) (i : Nat) : State :=
  if windowTime s i 3 && running s then
    let s1 := openWindow s i
    let s2 := (tabKeys s1.ctxs).foldl preemptNow s1
    let starved := (waitingOrder s2).filter (fun c => inForce s2 Key.CTX_STARVE_BEATS ≤ (ctxOf s2 c).waitBeats)
    settleLeaving (if starved.isEmpty then s2 else placeAll (expiringNow s2) s2 starved)
  else s

def execPreemptWindow (entry : Nat) (s : State) : Host.Outcome State Fault Refusal := .next (preemptWindow s entry)

/-- SELFTEST_WINDOW: slices may start in it. -/
def selftestWindow (s : State) (i : Nat) : State := if windowTime s i 4 then openWindow s i else s

def execSelftestWindow (entry : Nat) (s : State) : Host.Outcome State Fault Refusal := .next (selftestWindow s entry)

end Sys2Proof.Machine
end

