-- ==== Sys2Proof/Machine/Test.lean ====
section
/-! DEFINITION. Self-test and test access (chapter 21): the long test, the shut-down test and its record, slices during
operation, returns of blocks (R18), the TAP and TEST_ENTER. -/

namespace Sys2Proof.Machine

/-! ### Limits and lengths (R413, R416) -/

/-- The supply voltage read by the device goes to POWER.VIN_MV. -/
def readVin (s : State) (mv : Nat) : State := setReg s Key.POWER_VIN_MV (mv % 65536)

/-- ACLK and VIN_IVR lie within the limits of a self-test. -/
def limitsMet (s : State) : Bool :=
  950000000 ≤ reg s Key.POWER_ACLK_NOW && reg s Key.POWER_ACLK_NOW ≤ 1050000000 &&
    1750 ≤ reg s Key.POWER_VIN_MV && reg s Key.POWER_VIN_MV ≤ 1850

/-- Length of a slice in ps at the ACLK in force: save, restore and march in BCLK of 1.4 GHz, the logic test in ACLK. -/
def slicePs (s : State) : Nat :=
  116896 * 5000 / 7 + reg s Key.TEST_SLICE_ACLK_CYCLES * 1000000000000 / reg s Key.POWER_ACLK_NOW

/-- A window's length in ps. -/
def windowPs (s : State) (e : Nat) : Nat := calLength e * reg s Key.HEM_BEAT_PERIOD * 1000 / 65536

/-- Some SELFTEST_WINDOW of the calendar in force can hold a slice (R18). -/
def windowFits (s : State) : Bool := (entriesOf s 4).any (fun i => slicePs s ≤ windowPs s (calEntry s i))

/-! ### The long test (R409, R411) -/

/-- LONG_TEST_LIMIT_CHECK: every 1 ms in IDENTIFY the limits are checked, and the long test starts once they are met. -/
def longTestLimitCheck (s : State) (vinMv : Nat) : State :=
  if s.start == .identify then
    let s1 := readVin s vinMv
    if reg s Key.POWER_LAST_START == 0 && limitsMet s1 then { s1 with test := { s1.test with longRun := true } } else s1
  else s

def execLongTestLimitCheck (vinMv : Nat) (s : State) : Host.Outcome State Fault Refusal :=
  .next (longTestLimitCheck s vinMv)

/-- Blocks that failed the logic test are quarantined, with the map written at once; lanes that failed are left out at
the next training. -/
def takeFailures (s : State) (blocks pelganLanes aedupLanes : List Nat) : State :=
  let s1 := settleMap ((blocks.filter (fun b => b < blockCount)).foldl (fun t b => quarantine t b Code.CTX_FAULT) s)
  { s1 with aedup := { s1.aedup with badLanes := aedupLanes }, pelgan := { s1.pelgan with lanesOut := pelganLanes } }

/-- LONG_TEST_END: failures are taken; a failed check 4, 5 or 6 is a power error, else the device enters TRAIN.  Row 6 of
Table 19.6 is that of the PLLs and row 5 that of the IVRs; the sensors' check has no row of its own there and takes that of
the die temperature.  DEDUCED. -/
def longTestEnd (s : State) (blocks pelganLanes aedupLanes : List Nat) (failed : Nat) : State :=
  if s.start == .identify && s.test.longRun then
    let s1 := takeFailures { s with test := { s.test with longRun := false } } blocks pelganLanes aedupLanes
    if bitOf failed 4 then powerFatal s1 6
    else if bitOf failed 5 then powerFatal s1 5
    else if bitOf failed 6 then powerFatal s1 1
    else { s1 with start := .train }
  else s

def execLongTestEnd (failedBlocks pelganLanes aedupLanes : List Nat) (failedChecks : Nat) (s : State) :
    Host.Outcome State Fault Refusal :=
  .next (longTestEnd s failedBlocks pelganLanes aedupLanes failedChecks)

/-! ### The shut-down test (R410, R412) -/

/-- A write of TEST.SHUTDOWN_RUN: its status and the state after it. -/
def shutdownRun (s : State) (v : Nat) : Nat × State :=
  if v != 1 then (Code.BAD_FIELD, s)
  else if slotsInUse s != 0 || s.ctxs.any (fun p => holdsQuads p.2) then (Code.POWER_STATE_DENIED, s)
  else if !limitsMet s then (Code.TEST_SKIPPED_LIMITS, s)
  else
    let s1 := setReg { s with test := { s.test with shutdown := 1 } } Key.TEST_SHUTDOWN_STATE 1
    (Code.OK, settleFlush ((stagedStripes s1 s1.mem.order).foldl startProgram s1))

/-- The bits of a list of numbers, from a first bit on. -/
def bitsFrom (lo : Nat) (l : List Nat) : Nat := l.foldl (fun m i => setField m (lo + i) 1 1) 0

/-- The clean record of a shut-down test (Table 21.2), not consumed, without its CRC. -/
def cleanRecord (s : State) (blocks lanes : Nat) (failedLinks notRun : List Nat) (failed : Nat) : Nat :=
  s.eeprom.blockMap % 2 ^ 1200 * 2 ^ 816 + bitsFrom 624 failedLinks + bitsFrom 528 notRun + failed % 2 ^ 64 * 2 ^ 464 +
    blocks % 65536 * 2 ^ 448 + beatNow s * 2 ^ 384 + s.eeprom.serial * 2 ^ 320 +
    flagBit (failed == 0 && blocks == 0 && lanes == 0) * 2 ^ 8 + 1

/-- Steps 4 and 5: the checks have run, and the record is ready to be written.  A failed block shows as check 0. -/
def checksEnd (s : State) (blocks pelganLanes aedupLanes notRun : List Nat) (failed : Nat) : State :=
  let s1 := takeFailures s blocks pelganLanes aedupLanes
  let failed1 := if blocks.isEmpty then failed else failed ||| 1
  let rec_ := cleanRecord s1 blocks.length (pelganLanes.length + aedupLanes.length)
    (distinct ((pelganLanes.map (fun i => i / 2)).filter (fun l => l < 96))) (distinct (notRun.filter (fun l => l < 96)))
    failed1
  { s1 with test := { s1.test with shutdown := 4, record := rec_ } }

/-- SHUTDOWN_TEST_PROGRESS: a stage of the shut-down test ends and the next begins.  The operands are the outcome of the
checks of Table 21.1, which the stage of the checks takes. -/
def shutdownTestProgress (s : State) (blocks pelganLanes aedupLanes notRun : List Nat) (failed : Nat) : State :=
  if s.test.shutdown == 1 then
    if s.mem.staged.isEmpty then
      (List.range 4).foldl askWake { settleFlush s with test := { s.test with shutdown := 2 } }
    else s
  else if s.test.shutdown == 2 then
    if s.power.waking.isEmpty then { s with test := { s.test with shutdown := 3 } } else s
  else if s.test.shutdown == 3 then checksEnd s blocks pelganLanes aedupLanes notRun failed
  else if s.test.shutdown == 4 then
    setReg { s with eeprom := { s.eeprom with record := sealRecord s.test.record },
                    test := { s.test with shutdown := 5 } } Key.TEST_SHUTDOWN_STATE 2
  else s

def execShutdownTestProgress (failedBlocks pelganLanes aedupLanes notRun : List Nat) (failedChecks : Nat) (s : State) :
    Host.Outcome State Fault Refusal :=
  .next (shutdownTestProgress s failedBlocks pelganLanes aedupLanes notRun failedChecks)

/-! ### Returns of blocks (R18) -/

/-- A write of DIAG.BLOCK_RETURN. -/
def blockReturn (s : State) (b : Nat) : Nat × State :=
  if blockCount ≤ b || blockAvailable s b || s.chip.returns.contains b then (Code.OK, s)
  else if !windowFits s then (Code.BAD_FIELD, s)
  else (Code.OK, { s with chip := { s.chip with returns := s.chip.returns ++ [b] } })

/-- At a boundary that leaves no window able to hold a slice, every queued return is dropped and counted.  A return whose
slice runs is queued no more. -/
def dropReturns (s : State) : State :=
  let queued := s.chip.returns.filter (fun b => !sliced s b)
  if queued.isEmpty || windowFits s then s
  else bump { s with chip := { s.chip with returns := s.chip.returns.filter (sliced s) } } Key.CHIP_RETURNS_DROPPED
    queued.length

/-! ### Slices (R413 to R416) -/

/-- The slices that run in a region. -/
def slicesIn (s : State) (r : Nat) : Nat := (s.test.slices.filter (fun p => regionOfBlock p.1 == r)).length

/-- The available blocks of a region, as offsets, from one on. -/
def blocksFrom (s : State) (r from_ : Nat) : List Nat :=
  (List.range 300).filter (fun i => from_ ≤ i && blockAvailable s (300 * r + i))

/-- The block that a region's cursor stands at, as an offset. -/
def cursorBlock (s : State) (r : Nat) : Option Nat :=
  let c := (tabGet s.test.cursor r).getD 0
  match (blocksFrom s r c).head? with
  | some i => some i
  | none => (blocksFrom s r 0).head?

/-- The block of the next slice of a region: the one first in line after a skip or a deferral, else a return, else the one
at the cursor (R414 to R416). -/
def nextSlice (s : State) (r : Nat) : Option Nat :=
  let mine (b : Nat) : Bool := regionOfBlock b == r && !sliced s b
  let on := reg s Key.TEST_INOP_ENABLE == 1
  let first := s.test.first.filter (fun b => mine b && (s.chip.returns.contains b || (on && blockAvailable s b)))
  match first.head?, (s.chip.returns.filter mine).head? with
  | some b, _ => some b
  | none, some b => some b
  | none, none =>
    if on then match cursorBlock s r with
      | some i => if sliced s (300 * r + i) then none else some (300 * r + i)
      | none => none
    else none

/-- The cursor goes past a block that it stood at; TEST.SWEEPS counts a pass over all the region's available blocks. -/
def passCursor (s : State) (r b : Nat) : State :=
  if cursorBlock s r == some (b - 300 * r) then
    let next := b - 300 * r + 1
    if (blocksFrom s r next).isEmpty then
      bump { s with test := { s.test with cursor := tabSet s.test.cursor r 0 } } Key.TEST_SWEEPS 1
    else { s with test := { s.test with cursor := tabSet s.test.cursor r next } }
  else s

/-- A block stays first in line. -/
def keepFirst (s : State) (b : Nat) : State :=
  { s with test := { s.test with first := b :: s.test.first.filter (fun x => x != b) } }

/-- SLICE_START: the device claims a region's next block; the slice starts, or it is deferred or skipped.  `remainingNs` is
what remains of the window at the claim.  A block that the Collar holds in IDLE is admitted first. -/
def sliceStart (s : State) (r remainingNs vinMv : Nat) : State :=
  if running s && r < 4 && regionAwake s r && testWindowOpen s && slicesIn s r < reg s Key.TEST_PER_REGION then
    match nextSlice s r with
    | some b =>
      if !arrayAwake s b then s
      else
        let s1 := readVin s vinMv
        if remainingNs * 1000 < slicePs s1 then bump (keepFirst s1 b) Key.TEST_SLICES_DEFERRED 1
        else if !limitsMet s1 then bump (keepFirst s1 b) Key.TEST_SKIPPED_LIMITS 1
        else
          let isReturn := s1.chip.returns.contains b
          let s2 := if isReturn || s1.test.first.contains b then s1 else passCursor s1 r b
          { s2 with test := { s2.test with
              first := s2.test.first.filter (fun x => x != b)
              slices := tabSet s2.test.slices b { part := 1, isReturn := isReturn } } }
    | none => s
  else s

def execSliceStart (region remainingNs vinMv : Nat) (s : State) : Host.Outcome State Fault Refusal :=
  .next (sliceStart s region remainingNs vinMv)

/-- A slice is over. -/
def dropSlice (s : State) (b : Nat) : State :=
  { s with test := { s.test with slices := tabDel s.test.slices b } }

/-- A slice fails in part 2 (logic) or 3 (Pocket): no restore; the block is quarantined, or stays so. -/
def sliceFails (s : State) (b part : Nat) (isReturn : Bool) : State :=
  let s1 := bump (bump (dropSlice s b) Key.TEST_SLICES_RUN 1) Key.TEST_SLICES_FAILED 1
  let detail := part - 1
  if isReturn then
    logError { s1 with chip := { s1.chip with returns := s1.chip.returns.filter (fun x => x != b) } }
      .blockSequencer b Code.CTX_FAULT noCtx .quarantine detail
  else quarantineAs s1 b Code.CTX_FAULT detail

/-- A slice's restore ends: it has passed, or it had been abandoned and its block stays first in line. -/
def sliceEnds (s : State) (b : Nat) (x : Slice) : State :=
  let s1 := dropSlice s b
  if x.abandoned then keepFirst s1 b
  else
    let s2 := bump s1 Key.TEST_SLICES_RUN 1
    if x.isReturn then
      { s2 with chip := { s2.chip with
          returns := s2.chip.returns.filter (fun y => y != b), passed := insertUp b s2.chip.passed } }
    else s2

/-- SLICE_PART_END: a part of the slice on a block ends; `ok` is the outcome of a test part. -/
def slicePartEnd (s : State) (b : Nat) (ok : Bool) : State :=
  match tabGet s.test.slices b with
  | none => s
  | some x =>
    if !ok && (x.part == 2 || x.part == 3) then sliceFails s b x.part x.isReturn
    else if x.part < 4 then
      { s with test := { s.test with slices := tabSet s.test.slices b { x with part := x.part + 1 } } }
    else sliceEnds s b x

def execSlicePartEnd (block : Nat) (ok : Bool) (s : State) : Host.Outcome State Fault Refusal :=
  .next (slicePartEnd s block ok)

/-- SLICE_LIMIT_CHECK: every 10 µs; limits unmet in part 2 or 3 abandon the test, and part 4 follows at once. -/
def sliceLimitCheck (s : State) (b vinMv : Nat) : State :=
  match tabGet s.test.slices b with
  | none => s
  | some x =>
    let s1 := readVin s vinMv
    if (x.part == 2 || x.part == 3) && !limitsMet s1 then
      bump { s1 with test := { s1.test with
        slices := tabSet s1.test.slices b { x with part := 4, abandoned := true } } } Key.TEST_SKIPPED_LIMITS 1
    else s1

def execSliceLimitCheck (block vinMv : Nat) (s : State) : Host.Outcome State Fault Refusal :=
  .next (sliceLimitCheck s block vinMv)

/-! ### The TAP (R417, R418) -/

/-- A TAP instruction is selected. -/
def selectTap (s : State) (i : TapInstr) : State := { s with test := { s.test with tap := i } }

/-- TAP_BYPASS: the one-bit bypass register, which captures 0 (IEEE 1149.1). -/
def execTapBypass (s : State) : Host.Outcome State Fault Refusal := .next (send (selectTap s .bypass) (.tap 1 0))

/-- IDCODE of the device. -/
def idcode : Nat := 0x04100B4B

/-- TAP_IDCODE. -/
def execTapIdcode (s : State) : Host.Outcome State Fault Refusal := .next (send (selectTap s .idcode) (.tap 32 idcode))

/-- TAP_SAMPLE_PRELOAD: the balls are sampled; the boundary register is the package's, and nothing else changes. -/
def execTapSamplePreload (s : State) : Host.Outcome State Fault Refusal := .next (selectTap s .samplePreload)

/-- TAP_REFUSED_INSTRUCTION: before TEST_ENTER has completed, any other instruction selects BYPASS.  In test mode the
instruments act on scan chains that the spec does not describe, and the device's own state is not run. -/
def tapRefused (s : State) : State := if reg s Key.TEST_TEST_MODE == 1 then s else selectTap s .bypass

def execTapRefusedInstruction (s : State) : Host.Outcome State Fault Refusal := .next (tapRefused s)

/-- TAP_RESET: TRST_N or the test-logic-reset state selects IDCODE (IEEE 1149.1) and does not end test mode. -/
def execTapReset (s : State) : Host.Outcome State Fault Refusal := .next (selectTap s .idcode)

/-- Abort flits for every ACTIVE job that has a bound context here (step 2 of R397). -/
def abortAll (s : State) : State :=
  ((List.range 255).filter (fun j => jobState (jobEntry s j) == 1 && (ctxOfJob s j).isSome)).foldl
    (fun t j => beginAbort t j Code.CTX_TORN_DOWN) s

/-- Every secret that TEST_ENTER zeroes: key slots, context SEEDs, session keys, the root key of the wrapped keys; and the
DRBG is seeded anew (R418, R442). -/
def zeroSecrets (s : State) : State :=
  { s with
    sec := { s.sec with slots := [], sessions := [], rootKey := false, drbg := some 0 }
    ctxs := tabMap s.ctxs (fun _ x => { x with genState := setField x.genState 192 64 0 }) }

/-- Links that were protected take a link reset. -/
def dropProtected (s : State) : State :=
  let s1 := if s.aedup.link.protect then aedupReset s else s
  (tabKeys (s.pelgan.links.filter (fun p => p.2.protect))).foldl (fun t p => linkDown t (.pelgan p)) s1

/-- TEST_ENTER. -/
def testEnter (s : State) : State :=
  if s.start == .off then s
  else
    let s1 := abortAll (assertAlert s .testMode)
    let s2 := { s1 with chip := { s1.chip with stopped := true },
                        test := { s1.test with slices := [], longRun := false, shutdown := 0 } }
    setReg (dropProtected (zeroSecrets s2)) Key.TEST_TEST_MODE 1

def execTestEnter (s : State) : Host.Outcome State Fault Refusal := .next (testEnter s)

end Sys2Proof.Machine
end

