-- ==== Sys2Proof/Machine/Reset.lean ====
section
/-! DEFINITION. Reset and recovery (chapter 20): the drain of a teardown, the watchdogs of contexts, the progress monitors
and their actions, and region resets. -/

namespace Sys2Proof.Machine

/-! ### The drain (R399, R400) -/

/-- Every operation that the context issued before its fence has run to its end. -/
def drained (s : State) (c : Nat) : Bool :=
  let x := ctxOf s c
  !s.aedup.reads.any (fun p => p.2.ctx == c && p.2.genTag != x.genTag) &&
    !s.pelgan.requests.any (fun p => p.2.ctx == c && p.2.genTag != x.genTag) && !(blocksOf x).any (sliced s)

/-- TEARDOWN_DRAIN_END: the drain ends once nothing that the context issued is outstanding. -/
def teardownDrainEnd (s : State) (c : Nat) : State := if drained s c then drainEnd s c else s

def execTeardownDrainEnd (ctx : Nat) (s : State) : Host.Outcome State Fault Refusal := .next (teardownDrainEnd s ctx)

/-! ### Hangs (R403, Table 20.3) -/

/-- The unit of the error log for a monitored unit; the dictionary service and the recovery engine have no code there. -/
def monitorLog (open_ : Nat) : MonitorUnit → LogUnit
  | .blockSequencer => .blockSequencer
  | .cuff => .cuff
  | .belt => .belt
  | .lace => .lace
  | .veil => .veil
  | .sampler => .sampler
  | .zipper => .zipper
  | .packer => .packer
  | .hbm => .hbm
  | .flashChannel => .flashChannel
  | .regionSequencer => .regionSequencer
  | .mesh => .mesh
  | .cloak => .cloak
  | .hem => .hem
  | .bridge => .bridge
  | .dictionary => .unstated open_
  | .recovery => .unstated open_

/-- The region of an engine, by its instance number: Cuffs are numbered over the device, 16 to a region. -/
def engineHome (u : MonitorUnit) (inst : Nat) : Nat := if u == .cuff then inst / 16 else inst

/-- An engine serves a command: it is one of the engines that do the work of its opcode. -/
def engineServes (u : MonitorUnit) (opcode : Nat) : Bool :=
  let has (l : List Nat) : Bool := l.contains opcode
  match u with
  | .cuff => has [Op.SEARCH, Op.RECALL_PROBE]
  | .belt => has [Op.BELT_GATHER, Op.CROSS_RERANK, Op.SEARCH, Op.RERANK, Op.RECALL_PROBE, Op.GEN_RUN, Op.PACK,
      Op.POCKET_FILL, Op.POCKET_COPY]
  | .lace => has [Op.LACE_VOCAB_LOAD, Op.LACE_ENCODE, Op.LACE_DECODE, Op.GEN_RUN]
  | .veil => has [Op.VEIL_LOAD, Op.GEN_RUN]
  | .sampler => has [Op.GEN_RUN, Op.RAND_FILL]
  | .zipper => has [Op.TOPK, Op.MERGE, Op.SEARCH, Op.RECALL_PROBE, Op.RERANK, Op.CROSS_RERANK]
  | .packer => has [Op.PACK]
  | _ => false

/-- The command that a hung engine serves completes with CTX_HUNG, and its context is torn down. -/
def hangJob (s : State) (u : MonitorUnit) (inst id : Nat) : State :=
  match tabGet s.jobs id with
  | some j =>
    if !openJob j || !engineServes u j.opcode then s
    else
      let t := fenceBy s j.ctx Code.CTX_HUNG (some id) false (monitorLog 0 u) inst
      if (ctxOf t j.ctx).state == .tearingDown then t else finish t id Code.CTX_HUNG 0
  | none => s

/-- A hang of a unit that serves the whole chip is a fatal error.  The spec gives it no status, so the cause reported is
an open value, as is the unit where Table 20.4 has none. -/
def hangFatal (s : State) (u : MonitorUnit) (inst : Nat) : State :=
  let f := takeFree s
  let g := takeFree f.2
  fatalError g.2 (monitorLog g.1 u) inst (f.1 % 65536) 0

/-- The action of Table 20.3 for a unit that is no engine serving one command. -/
def hangUnit (s : State) (u : MonitorUnit) (inst : Nat) : State :=
  match u with
  | .blockSequencer => quarantine s inst Code.CTX_HUNG
  | .hbm => if inst < 12 then startStackReset s inst else s
  | .flashChannel => startChannelReset s inst
  | .hem => hangFatal s u inst
  | .bridge => hangFatal s u inst
  | .dictionary => hangFatal s u inst
  | .recovery => hangFatal s u inst
  | _ => if engineHome u inst < 4 then regionFaultBy s (engineHome u inst) (monitorLog 0 u) inst else s

/-- A unit is an engine that serves a command. -/
def isEngine (u : MonitorUnit) : Bool :=
  [MonitorUnit.cuff, .belt, .lace, .veil, .sampler, .zipper, .packer].contains u

/-- PROGRESS_MONITOR: a unit has held work for RESET.MONITOR_US without progress; `job` is the command that it serves. -/
def progressMonitor (s : State) (u : MonitorUnit) (inst job : Nat) : State :=
  if s.start == .off then s
  else
    let s1 := bump s Key.RESET_MONITOR_FIRES 1
    if isEngine u then (if isOpen s job then hangJob s1 u inst job else s) else hangUnit s1 u inst

def execProgressMonitor (unit : MonitorUnit) (inst job : Nat) (s : State) : Host.Outcome State Fault Refusal :=
  .next (progressMonitor s unit inst job)

/-- DRAIN_TIMEOUT: RESET.DRAIN_US has run out with `writes` writes outstanding.  They are fenced and counted, the unit that
held them is treated as hung, and the drain ends.  An engine that a hang's own teardown did not drain is a region fault;
another engine's context is in teardown already. -/
def drainTimeout (s : State) (c writes : Nat) (u : MonitorUnit) (inst : Nat) : State :=
  if (ctxOf s c).state == .tearingDown then
    let s1 := bump s Key.RESET_DRAIN_TIMEOUTS writes
    let s2 :=
      if !isEngine u || (ctxOf s c).lastStatus == Code.CTX_HUNG then hangUnit s1 u inst
      else fenceBy s1 c Code.CTX_HUNG none false (monitorLog 0 u) inst
    drainEnd s2 c
  else s

def execDrainTimeout (ctx writes : Nat) (unit : MonitorUnit) (inst : Nat) (s : State) :
    Host.Outcome State Fault Refusal :=
  .next (drainTimeout s ctx writes unit inst)

/-! ### The watchdog of a context (R402) -/

/-- A context can be faulted: it is in use and not being torn down. -/
def live (x : Ctx) : Bool :=
  match x.state with
  | .free => false
  | .faulted => false
  | .tearingDown => false
  | _ => true

/-- A beat ends: it counts when the context had an admitted command, recorded no progress and was not WAITING. -/
def countDog (s : State) (c : Nat) (x : Ctx) : Ctx :=
  if live x && !x.progress && x.state != .waiting && !(jobsOf s c).isEmpty then
    { x with dogCount := x.dogCount + 1 }
  else { x with progress := false }

/-- CONTEXT_WATCHDOG: the count has reached WATCHDOG_BEATS; the context is faulted at step 1 of the next boundary. -/
def contextWatchdog (s : State) (c : Nat) : State :=
  let x := ctxOf s c
  if live x && x.watchdog != 0 && x.watchdog ≤ x.dogCount then setCtx s c { x with hung := true } else s

def execContextWatchdog (ctx : Nat) (s : State) : Host.Outcome State Fault Refusal := .next (contextWatchdog s ctx)

/-- The watchdogs' counts at the end of a beat, and the contexts whose count has been reached. -/
def endBeat (s : State) : State :=
  let s1 := { s with ctxs := tabMap s.ctxs (fun c x => countDog s c x) }
  (tabKeys s1.ctxs).foldl contextWatchdog s1

/-- Step 1 of a boundary: a context whose watchdog has fired is faulted. -/
def fireDog (s : State) (c : Nat) : State :=
  if (ctxOf s c).hung then
    fenceBy (bump s Key.RESET_WATCHDOG_FIRES 1) c Code.CTX_HUNG none false .watchdog 0
  else s

/-! ### Region resets (R398) -/

/-- A stack of a region is retrained, its contents kept. -/
def wakeStacks (s : State) (r : Nat) : State :=
  { s with mem := { s.mem with
      hbmStacks := tabMap s.mem.hbmStacks (fun k x => if k / 3 == r then { x with selfRefresh := false, resetting := false } else x) } }

/-- The flash channels of a region are reset, and retrained at the rate they had. -/
def resetChannels (s : State) (r : Nat) : State :=
  let mine := (tabKeys s.mem.channels).filter (fun c => c / 16 == r)
  mine.foldl (fun t c =>
    let u := startChannelReset t c
    { u with mem := { u.mem with channels := tabUpd u.mem.channels c (fun x => { x with resetting := false }) } }) s

/-- The Pelgan links of a region take a link reset, and Aedup retrains. -/
def resetLinks (s : State) (r : Nat) : State :=
  let mine := (s.pelgan.links.filter (fun p => linkRegion p.1 == r && p.2.state != .down)).map Prod.fst
  startRetrain (mine.foldl (fun t p => linkDown t (.pelgan p)) s) .aedup

/-- The region's Belt clears its hot-row cache; its Lace and Veil hold their tables again. -/
def rebuildRegion (s : State) (r : Nat) : State :=
  { s with belt := { s.belt with hot := tabDel s.belt.hot r } }

/-- The region accepts work again. -/
def openRegion (s : State) (r : Nat) : State :=
  { s with chip := { s.chip with
      closed := s.chip.closed.filter (fun x => x != r), resetting := s.chip.resetting.filter (fun x => x != r) } }

/-- REGION_RESET: the region, awake again, finishes its reset (steps 5 to 7), or the reset fails, which is a fatal error
(Table 1.4).  The spec gives the cause no status, so the one reported is an open value. -/
def regionReset (s : State) (r : Nat) (ok : Bool) : State :=
  if s.chip.resetting.contains r then
    if !ok then
      let f := takeFree s
      fatalError f.2 .regionSequencer r (f.1 % 65536) 0
    else if s.power.waking.contains r then s
    else openRegion (rebuildRegion (resetLinks (resetChannels (wakeStacks s r) r) r) r) r
  else s

def execRegionReset (region : Nat) (ok : Bool) (s : State) : Host.Outcome State Fault Refusal :=
  .next (regionReset s region ok)

/-- REGION_RESET_TIMEOUT: a region reset has not ended within 50 ms. -/
def execRegionResetTimeout (region : Nat) (s : State) : Host.Outcome State Fault Refusal := .next (regionReset s region false)

end Sys2Proof.Machine
end

