-- ==== Sys2Proof/Machine/Hem.lean ====
section
/-! DEFINITION. The beat (chapter 2): writes that wait for a boundary, the boundary sequence, BEAT_IN, holdover and beat
loss, beat flits. -/

namespace Sys2Proof.Machine

/-! ### Writes that take effect at a boundary (R40, R362, R374) -/

/-- A change of HEM.BEAT_SOURCE takes effect (R459): FREE_RUN, no holdover, the alert released; a worker ignores it. -/
def applySource (s : State) (v : Nat) : State :=
  let s1 := setReg s Key.HEM_BEAT_SOURCE v
  if reg s Key.HEM_ROLE == 2 || v == reg s Key.HEM_BEAT_SOURCE then s1
  else
    let s2 := releaseAlert (setReg (setReg s1 Key.HEM_STATE 0) Key.HEM_HOLDOVER_BEATS 0) .beatLoss
    { s2 with hem := { s2.hem with goodEdges := 0, edgeSeen := false } }

/-- One write takes effect. -/
def applyWrite (s : State) (w : WbItem) : State :=
  if w.key == Key.HEM_CALENDAR_COMMIT then { s with hem := { s.hem with calendar := w.capture } }
  else if w.key == Key.HEM_BEAT_SOURCE then applySource s w.value
  else if 0x330200 ≤ w.key && w.key < 0x330500 then applySelect s w.key w.value
  else setReg s w.key (setField (reg s w.key) (8 * w.offset) (8 * w.length) w.value)

/-- A write falls due at the boundary of a beat.  Those accepted in CONFIGURE carry 0. -/
def wbDue (next : Nat) (w : WbItem) : Bool := w.due ≤ next

/-- A changed value in force of BELT.HOT_CACHE_ENABLE acts as a write of it: every hot-row cache is cleared (R267, R376). -/
def followCache (before : Nat) (s : State) : State :=
  if inForce s Key.BELT_HOT_CACHE_ENABLE == before then s else { s with belt := { s.belt with hot := [] } }

/-- The writes that fall due take effect in the order accepted; each boundary at which the set of overlays in force changes
is counted and notified (R378).  None takes effect before READY. -/
def applyWrites (s : State) (next : Nat) : State :=
  if s.start != .ready then s
  else
    let before := reg s Key.OVERLAY_ACTIVE
    let s1 := (s.dict.wb.filter (wbDue next)).foldl applyWrite
      { s with dict := { s.dict with wb := s.dict.wb.filter (fun w => !wbDue next w) } }
    let s2 := followCache (inForce s Key.BELT_HOT_CACHE_ENABLE) (capBuckets s1)
    if reg s2 Key.OVERLAY_ACTIVE == before then s2
    else notify (bump s2 Key.OVERLAY_SWITCHES 1) 1 Key.OVERLAY_ACTIVE (reg s2 Key.OVERLAY_ACTIVE)

/-! ### The boundary sequence (R38) -/

/-- Step 1: faults, quarantines and returns. -/
def stepOne (s : State) : State := settleMap ((tabKeys s.ctxs).foldl fireDog s)

/-- Commands whose cancellation falls due complete with CTX_CANCELLED (R64). -/
def cancelDue (next : Nat) (s : State) : State :=
  (s.jobs.filter (fun p => openJob p.2 && (match p.2.cancel with
      | some b => b ≤ next
      | none => false))).foldl (fun t p =>
    if isOpen t p.1 then genAbort (finish t p.1 Code.CTX_CANCELLED 0) p.1 else t) s

/-- Step 2: the cancellation sweep; quads, pages, units and versions return. -/
def stepTwo (late : List Nat) (next : Nat) (s : State) : State :=
  let s1 := freeSweep (kvSweep late (freeVersions (cancelDue next s)))
  { s1 with chip := { s1.chip with quadsDue := [] }, mem := { s1.mem with freeing := [] } }

/-- Step 3: writes, routes, jobs, and the values of CTX_MODIFY and CTX_BUFFER that fall due. -/
def stepThree (next : Nat) (s : State) : State :=
  let s1 := applyJobs (applyRoutes (applyWrites s next)) next
  dropReturns { s1 with ctxs := tabMap s1.ctxs (fun _ x => applyNaming (applyModify next x)) }

/-- Step 4: the sealed plan takes effect in every region, and the mailboxes are read. -/
def stepFour (s : State) : State :=
  let s1 := { s with hem := { s.hem with sealed := false } }
  if running s1 then
    mailboxSweep ((List.range 4).foldl (fun t r => countRegion t r 0x202 1 { inst := r }) s1)
  else s1

/-- No accumulation of a context's runs is partial (R92). -/
def cleanRuns (s : State) (c : Nat) : Bool :=
  !s.array.runs.any (fun p => p.2.ctx == c && p.2.streams.any (fun st => st.undrained != 0))

/-- A context's opportunity at a boundary: a copy that is asked is taken, and a preemption that is asked begins. -/
def boundaryPoint (s : State) (c : Nat) : State :=
  let s1 := serveSave s c true (cleanRuns s c)
  if (ctxOf s1 c).preempt then beginSave s1 c else s1

/-- A slice that ends without its quads being needed starts again (R86). -/
def restartSlice (s : State) (c : Nat) : State :=
  updCtx s c (fun x => if x.state == .running && !x.leaving then { x with sliceUsed := 0 } else x)

/-- Step 5: slices end, preemptions begin and waiting contexts are placed. -/
def stepFive (s : State) : State :=
  let s1 := { s with ctxs := tabMap s.ctxs (fun _ x => countBeat x) }
  if !running s1 then s1
  else
    let expiring := expiringNow s1
    let s2 := (tabKeys s1.ctxs).foldl boundaryPoint s1
    let s3 := placeAll expiring s2 (waitingOrder s2)
    expiring.foldl restartSlice (settleLeaving s3)

/-- Counts of beats move with a beat number that does not follow its predecessor (R37). -/
def moveBeats (s : State) (old new : Nat) : State :=
  if old == new then s
  else
    let go (n : Nat) : Nat := n + new - old
    { s with
      jobs := tabMap s.jobs (fun _ j => { j with start := go j.start, cancel := j.cancel.map go })
      ctxs := tabMap s.ctxs (fun _ x => { x with modify := x.modify.map (fun m => (go m.1, m.2)) })
      dict := { s.dict with wb := s.dict.wb.map (fun w => if w.due == 0 then w else { w with due := go w.due }) } }

/-- Step 6: BEAT_OUT is driven, and the beat that begins has its number. -/
def stepSix (s : State) (next number ns : Nat) : State :=
  let s1 := setReg (moveBeats s next number) Key.HEM_BEAT_NUMBER (number % 2 ^ 64)
  countChip { s1 with hem := { s1.hem with
    fired := [], windows := [], flit := none, announced := false, beatOut := s1.hem.beatOut + 1,
    timeNs := s1.hem.timeNs + ns } } 0x301 1 {}

/-- The boundary sequence.  Events that have not fired fire first; `number` is the number of the beat that begins, `ns` the
length of the beat that ends, and `late` the pages whose writes are outstanding. -/
def boundarySeq (s : State) (number ns : Nat) (late : List Nat) : State :=
  let next := beatNow s + 1
  let s1 := endBeat (fireRest s)
  let s2 := stepFive (stepFour (stepThree next (stepTwo late next (stepOne s1))))
  exportSweep (stepSix s2 next number ns)

/-! ### State of the beat (R48 to R50, R459) -/

/-- The period in ns. -/
def periodNs (s : State) : Nat := reg s Key.HEM_BEAT_PERIOD

/-- The device is a worker. -/
def isWorker (s : State) : Bool := reg s Key.HEM_ROLE == 2

/-- The device relocks: LOCKED, no holdover, and the alert output is released if nothing else holds it. -/
def relock (s : State) : State :=
  let s1 := releaseAlert (setReg (setReg s Key.HEM_STATE 1) Key.HEM_HOLDOVER_BEATS 0) .beatLoss
  { s1 with hem := { s1.hem with goodEdges := 0 } }

/-- Beat loss (R49): LOST, counted, alert and notification; a worker tears down the contexts whose jobs span devices and
leaves its lost manager out of the next election (R351), a manager goes on in free-run. -/
def beatLoss (s : State) : State :=
  let s1 := notify (assertAlert (bump (setReg s Key.HEM_STATE 3) Key.HEM_BEAT_LOSS_EVENTS 1) .beatLoss) 2 Key.HEM_STATE 0
  if isWorker s then
    let s2 := loseSpanning s1
    { s2 with pelgan := { s2.pelgan with best := none, excluded := some (reg s Key.PELGAN_MANAGER_SERIAL) } }
  else { s1 with hem := { s1.hem with goodEdges := 0, edgeSeen := false } }

/-- Mean of the last accepted intervals, or the period while none has been accepted. -/
def meanInterval (s : State) : Nat :=
  if s.hem.intervals.isEmpty then periodNs s else s.hem.intervals.sum / s.hem.intervals.length

/-- An accepted interval is kept among the last 16. -/
def keepInterval (s : State) (ns : Nat) : State :=
  { s with hem := { s.hem with intervals := (ns :: s.hem.intervals).take 16 } }

/-- An interval lies within 1/1024 of the period. -/
def nearPeriod (s : State) (ns : Nat) : Bool :=
  1024 * ns ≤ 1025 * periodNs s && 1023 * periodNs s ≤ 1024 * ns

/-! ### The commands -/

/-- BEAT_BOUNDARY: a boundary that needs no holdover and no edge: on a worker the one its beat flit places, whose number
and period it adopts; on another device the next of its own free-run.  `alignNs` is the worker's error against the
flit. -/
def beatBoundary (s : State) (alignNs : Int) (late : List Nat) : State :=
  if s.start == .off then s
  else if isWorker s then
    match s.hem.flit with
    | some (number, period) =>
      let s1 := relock (keepInterval (setReg s Key.HEM_ALIGN_ERROR (codeOf 32 alignNs)) (periodNs s))
      setReg (boundarySeq s1 number (periodNs s) late) Key.HEM_BEAT_PERIOD period
    | none => s
  else if reg s Key.HEM_STATE == 0 || reg s Key.HEM_STATE == 3 then
    boundarySeq (setReg s Key.HEM_ALIGN_ERROR 0) (beatNow s + 1) (periodNs s) late
  else s

def execBeatBoundary (alignNs : Int) (late : List Nat) (s : State) : Host.Outcome State Fault Refusal :=
  .next (beatBoundary s alignNs late)

/-- A BEAT_IN edge of a device that watches for lock (R50, R459). -/
def watchEdge (s : State) (sinceBoundary sinceEdge : Nat) (late : List Nat) : State :=
  let good := if s.hem.edgeSeen && nearPeriod s sinceEdge then s.hem.goodEdges + 1 else 0
  let s1 := { s with hem := { s.hem with goodEdges := good, edgeSeen := true } }
  if 16 ≤ good then boundarySeq (relock s1) (beatNow s + 1) sinceBoundary late else s1

/-- BEAT_IN_EDGE (R34, R50, R459), with the times in ns since the last boundary and since the last edge.  A worker, and a
device with the internal source, ignore the ball. -/
def beatInEdge (s : State) (sinceBoundary sinceEdge : Nat) (late : List Nat) : State :=
  if s.start == .off || isWorker s || reg s Key.HEM_BEAT_SOURCE == 1 then s
  else if reg s Key.HEM_STATE == 0 || reg s Key.HEM_STATE == 3 then watchEdge s sinceBoundary sinceEdge late
  else if nearPeriod s sinceBoundary then
    boundarySeq (relock (keepInterval s sinceBoundary)) (beatNow s + 1) sinceBoundary late
  else if sinceBoundary < periodNs s then bump s Key.HEM_BEAT_IN_REJECTS 1
  else s

def execBeatInEdge (sinceBoundary sinceEdge : Nat) (late : List Nat) (s : State) : Host.Outcome State Fault Refusal :=
  .next (beatInEdge s sinceBoundary sinceEdge late)

/-- BEAT_IN_EDGE_ABSENT (R50): the count of good edges goes to 0. -/
def beatInEdgeAbsent (s : State) : State := { s with hem := { s.hem with goodEdges := 0 } }

def execBeatInEdgeAbsent (s : State) : Host.Outcome State Fault Refusal := .next (beatInEdgeAbsent s)

/-- No valid beat input has come for the boundary (R48): a worker without a usable flit, or a device that is locked to
BEAT_IN. -/
def inputMissing (s : State) : Bool :=
  if isWorker s then s.hem.flit.isNone
  else reg s Key.HEM_BEAT_SOURCE == 0 && (reg s Key.HEM_STATE == 1 || reg s Key.HEM_STATE == 2)

/-- HOLDOVER_BOUNDARY: a beat of holdover, the sixteenth in a row being beat loss. -/
def holdoverBoundary (s : State) (late : List Nat) : State :=
  if s.start == .off || !inputMissing s then s
  else
    let n := reg s Key.HEM_HOLDOVER_BEATS + 1
    let s1 := setReg s Key.HEM_HOLDOVER_BEATS (Nat.min n 255)
    let s2 := if n == reg s Key.HEM_HOLDOVER_LIMIT then beatLoss s1
      else if reg s Key.HEM_STATE == 3 then s1 else setReg s1 Key.HEM_STATE 2
    boundarySeq s2 (beatNow s + 1) (meanInterval s) late

def execHoldoverBoundary (late : List Nat) (s : State) : Host.Outcome State Fault Refusal :=
  .next (holdoverBoundary s late)

/-! ### Beat flits (R35, R36, R352) -/

/-- The period that the next beat will use: that of a write that falls due at its boundary, else the one in force. -/
def nextPeriod (s : State) : Nat :=
  (((s.dict.wb.filter (fun w => w.key == Key.HEM_BEAT_PERIOD && wbDue (beatNow s + 1) w)).map (fun w => w.value)).getLast?).getD
    (periodNs s)

/-- BEAT_FLIT_SEND: the manager announces its next boundary on every group link, once. -/
def beatFlitSend (s : State) : State :=
  if s.start == .off || reg s Key.HEM_ROLE != 1 || s.hem.announced then s
  else (groupLinks s).foldl
    (fun t l => send t (.beatFlit l (beatNow s + 1) (nextPeriod s) (reg s Key.HEM_ANNOUNCE_LEAD * 1000)))
    { s with hem := { s.hem with announced := true } }

def execBeatFlitSend (s : State) : Host.Outcome State Fault Refusal := .next (beatFlitSend s)

/-- One-way latency of a link in ps. -/
def linkLatencyPs (s : State) (l : Nat) : Nat := field (reg s Key.PELGAN_LINK_LATENCY) (16 * l) 16 * 1000

/-- A device's own delay from the first bit in to the first bit out, in ps: the 36 ns of R352's example. -/
def forwardPs : Nat := 36000

/-- BEAT_FLIT: a worker takes a flit of its own formation with at least 1 µs left, in ps, and sends it on to its children
with what is left there. -/
def beatFlit (s : State) (port beat period remaining formation : Nat) : State :=
  if !isWorker s || !groupLink s port || formation != reg s Key.PELGAN_FORMATION then s
  else
    let left := remaining - linkLatencyPs s port
    let s1 := if 1000000 ≤ left then { s with hem := { s.hem with flit := some (beat, period) } } else s
    s1.pelgan.children.foldl (fun t l => send t (.beatFlit l beat period (left - forwardPs))) s1

def execBeatFlit (port beat period remaining formation : Nat) (s : State) : Host.Outcome State Fault Refusal :=
  .next (beatFlit s port beat period remaining formation)

end Sys2Proof.Machine
end

