-- ==== Sys2Proof/Machine/Queues.lean ====
section
/-! DEFINITION. Command queues (chapter 3): the queue table, its cache, doorbells, and completion entries. -/

namespace Sys2Proof.Machine

/-! ### Queue table entries (Table 3.1) -/

def qtVersion (e : Nat) : Nat := field e 0 8
def qtClient (e : Nat) : Nat := field e 8 8
def qtPriority (e : Nat) : Nat := field e 16 3
def qtSqLog (e : Nat) : Nat := field e 24 8
def qtCqLog (e : Nat) : Nat := field e 32 8
def qtVector (e : Nat) : Nat := field e 48 16
def qtSqBase (e : Nat) : Nat := field e 64 64
def qtCqBase (e : Nat) : Nat := field e 128 64
def qtSqHead (e : Nat) : Nat := field e 192 16
def qtCqTail (e : Nat) : Nat := field e 208 16
def qtCqWrap (e : Nat) : Nat := field e 224 1

/-- The check of an entry (R52). -/
def tableCheck (e : Nat) : Nat :=
  let logBad (n : Nat) : Bool := n == 0 || 16 < n
  let baseBad (a : Nat) : Bool := a == 0 || a % 4096 != 0
  firstBad
    [(qtVersion e != 1, Code.VERSION_UNSUPPORTED),
     (field e 19 5 != 0 || field e 40 8 != 0 || field e 225 287 != 0, Code.RESERVED_NONZERO),
     (logBad (qtSqLog e) || logBad (qtCqLog e) || baseBad (qtSqBase e) || baseBad (qtCqBase e), Code.BAD_FIELD)]

/-- The companion address of a queue's table entry, and the line that holds it. -/
def tableAddr (s : State) (n : Nat) : Nat := reg s Key.QUEUE_TABLE_BASE + 64 * n
def tableLine (s : State) (n : Nat) : Nat := tableAddr s n / 128 * 128

/-- A queue's table entry as the device has read it. -/
def tableEntry (s : State) (n : Nat) : Nat := memNat s.mem.comp (tableAddr s n) 64

/-- The queue that a valid entry describes, as enabling leaves it (R52). -/
def freshQueue (e stamp : Nat) : Queue where
  draining := false
  cached := true
  lastUse := stamp
  vector := qtVector e
  cqLog := qtCqLog e
  sqLog := qtSqLog e
  priority := qtPriority e
  client := qtClient e
  sqBase := qtSqBase e
  cqBase := qtCqBase e
  sqHead := 0
  cqTail := 0
  cqWrap := 1
  sqTail := 0
  cqHead := 0
  unread := 0
  credit := qtPriority e + 1

/-! ### The cache of the queue table (R54) -/

/-- Queue table entries now cached. -/
def cachedQueues (s : State) : List (Nat × Queue) := s.queues.filter (fun p => p.2.cached)

/-- A cached entry with no admitted command and no completion waiting to be written. -/
def evictable (s : State) (n : Nat) : Bool :=
  s.aedup.held.isEmpty && !s.jobs.any (fun p => p.2.queue == n && !p.2.lost)

/-- Room for one more cached entry, the least recently used idle one being written back if there is none. -/
def roomForQueue (s : State) : Option State :=
  if (cachedQueues s).length < reg s Key.QUEUE_CACHE_ENTRIES then some s
  else match (sortBy (fun a b => a.2.lastUse < b.2.lastUse)
      ((cachedQueues s).filter (fun p => evictable s p.1))).head? with
    | some (n, q) =>
      let s1 := writeBack s n q
      some { s1 with queues := tabSet s1.queues n { q with cached := false } }
    | none => none

/-- QUEUE_TABLE_FETCH (R54): the entry that an enabled queue has asked for arrives and is cached; without a line it is asked for, and
without room it waits. -/
def queueTableFetch (s : State) (n : Nat) : State :=
  match tabGet s.queues n with
  | some q =>
    let line := tableLine s n
    if q.cached || !q.wanted then s
    else if !lineHeld s line then wantLine s line (.table n)
    else match roomForQueue s with
      | some t =>
        let e := tableEntry s n
        bump { useLine t line with queues := tabSet t.queues n { q with
          cached := true, wanted := false, lastUse := s.jobNext, sqHead := qtSqHead e, cqTail := qtCqTail e, cqWrap := qtCqWrap e } }
          Key.QUEUE_FETCHES 1
      | none => s
  | none => s

def execQueueTableFetch (queue : Nat) (s : State) : Host.Outcome State Fault Refusal := .next (queueTableFetch s queue)

/-! ### Enabling and disabling (R52, R53) -/

/-- A queue number cannot be enabled as it stands: it is out of range, or the queue is ENABLED or DRAINING. -/
def enableBad (s : State) (n : Nat) : Bool := reg s Key.QUEUE_TABLE_ENTRIES ≤ n || tabHas s.queues n

/-- QUEUE.ENABLE with the entry's line at hand: a status and the state after it.  When no cached entry can make room, the
device's copy goes back to the table at once. -/
def enableQueue (s : State) (n : Nat) : Nat × State :=
  let e := tableEntry s n
  let s1 := bump (useLine s (tableLine s n)) Key.QUEUE_FETCHES 1
  let st := tableCheck e
  if st != Code.OK then (st, s1)
  else
    let q := freshQueue e s.jobNext
    match roomForQueue s1 with
    | some t => (Code.OK, { t with queues := tabSet t.queues n q })
    | none => (Code.OK, writeBack { s1 with queues := tabSet s1.queues n { q with cached := false } } n q)

/-- QUEUE.DISABLE: the queue drains. -/
def disableQueue (s : State) (n : Nat) : Nat × State :=
  match tabGet s.queues n with
  | some q =>
    if q.draining then (Code.BAD_FIELD, s)
    else (Code.OK, settleDrains { s with queues := tabSet s.queues n { q with draining := true } })
  | none => (Code.BAD_FIELD, s)

/-! ### Doorbells (R56, R71) -/

/-- A doorbell is ignored and counted. -/
def doorbellError (s : State) : State := bump s Key.QUEUE_DOORBELL_ERRORS 1

/-- An ENABLED queue's entry is asked for when it is not cached. -/
def wantTable (s : State) (n : Nat) : State :=
  match tabGet s.queues n with
  | some q =>
    if q.cached then s
    else wantLine { s with queues := tabSet s.queues n { q with wanted := true } } (tableLine s n) (.table n)
  | none => s

/-- SUBMISSION_DOORBELL: a new submission tail. -/
def submissionDoorbell (s : State) (n v : Nat) : State :=
  if s.aedup.link.state != .active || 1024 ≤ n then s
  else match tabGet s.queues n with
    | none => doorbellError s
    | some q =>
      if q.draining || 2 ^ q.sqLog ≤ v then doorbellError s
      else if v == q.sqTail then s
      else wantTable (doorbellWakes { s with queues := tabSet s.queues n { q with sqTail := v } }) n

def execSubmissionDoorbell (queue value : Nat) (s : State) : Host.Outcome State Fault Refusal :=
  .next (submissionDoorbell s queue value)

/-- COMPLETION_DOORBELL: slots are released, as far as CQ_TAIL. -/
def completionDoorbell (s : State) (n v : Nat) : State :=
  if s.aedup.link.state != .active || 1024 ≤ n then s
  else match tabGet s.queues n with
    | none => doorbellError s
    | some q =>
      let size := 2 ^ q.cqLog
      if q.draining || size ≤ v then doorbellError s
      else if v == q.cqHead then s
      else
        let d := (v + size - q.cqHead) % size
        if q.unread < d then doorbellError s
        else wantTable (doorbellWakes { s with queues := tabSet s.queues n { q with
          cqHead := v, unread := q.unread - d } }) n

def execCompletionDoorbell (queue value : Nat) (s : State) : Host.Outcome State Fault Refusal :=
  .next (completionDoorbell s queue value)

/-! ### Completion entries (R59 to R61, R98) -/

/-- A completion entry (Table 3.4). -/
def completionEntry (cmdId status sqHead wrap result : Nat) : Nat :=
  result % 2 ^ 64 * 2 ^ 64 + wrap % 2 * 2 ^ 48 + sqHead % 2 ^ 16 * 2 ^ 32 + status % 2 ^ 16 * 2 ^ 16 + cmdId % 2 ^ 16

/-- A client is charged with a final status (R98). -/
def chargeFinal (s : State) (client status : Nat) : State :=
  if isSuccess status then bump s (Key.CLIENT_COMPLETED client) 1
  else if status == Code.CTX_CANCELLED then bump s (Key.CLIENT_CANCELLED client) 1
  else bump s (Key.CLIENT_FAULTED client) 1

/-- A completion entry is written to the next slot of a queue's ring, its interrupt behind it; while the link is down both
are held on chip (R340). -/
def writeCompletion (s : State) (n cmdId status result : Nat) (intr : Bool) : State :=
  match tabGet s.queues n with
  | some q =>
    let tail := (q.cqTail + 1) % 2 ^ q.cqLog
    let e := completionEntry cmdId status q.sqHead q.cqWrap result
    let addr := q.cqBase + 16 * q.cqTail
    let s1 := { s with queues := tabSet s.queues n { q with
      cqTail := tail, cqWrap := if tail == 0 then 1 - q.cqWrap else q.cqWrap, unread := q.unread + 1,
      lastUse := s.jobNext } }
    let h : HeldCompletion := ⟨addr, e, if intr then some q.vector else none⟩
    if s.aedup.link.state == .active && s.aedup.held.isEmpty then sendHeld s1 h
    else { s1 with aedup := { s1.aedup with held := s1.aedup.held ++ [h] } }
  | none => s

/-- The pins of a command and its place in the machine are gone. -/
def dropJob (s : State) (id : Nat) : State :=
  { s with jobs := tabDel s.jobs id, queries := tabDel s.queries id, gens := tabDel s.gens id,
           array := { s.array with runs := tabDel s.array.runs id } }

/-- The completion of a command whose outcome is decided: its client is charged, its entry written or, when its queue was
disabled by a new SESSION, discarded and counted. -/
def completeJob (s : State) (id : Nat) (j : Job) (status result : Nat) : State :=
  let s0 := if j.opcode == Op.GEN_RUN && isSuccess status then bump s Key.GEN_REQUESTS 1 else s
  let s1 := chargeFinal (dropJob s0 id) j.client status
  if j.lost then bump s1 Key.AEDUP_LOST_COMPLETIONS 1
  else settleDrains (writeCompletion s1 j.queue j.cmdId status result j.intr)

/-- COMMAND_COMPLETION (R61): the outputs of the command stand, then its completion is written.  While a retrain is in
progress the completion waits for it. -/
def commandCompletion (s : State) (id : Nat) : State :=
  match tabGet s.jobs id with
  | some j => match j.phase with
    | .done status result =>
      if s.aedup.link.state == .retrain then s
      else
        let g := genComplete s id
        if g.1 then completeJob g.2 id j status result else g.2
    | _ => s
  | none => s

def execCommandCompletion (job : Nat) (s : State) : Host.Outcome State Fault Refusal := .next (commandCompletion s job)

end Sys2Proof.Machine
end

