-- ==== Sys2Proof/Machine/Security.lean ====
section
/-! DEFINITION. Keys, attestation and the format of the flash tier (chapter 23, R195, R434 to R441): what a write to their
entries does.  Each operation answers a status and the state after it. -/

namespace Sys2Proof.Machine

/-! ### Key slots (R434, R435) -/

/-- Fields of a key load record (Table 23.1). -/
def krVersion (r : Nat) : Nat := field r 0 8
def krSlot (r : Nat) : Nat := field r 8 8
def krKind (r : Nat) : Nat := field r 16 8
def krKey (r : Nat) : Nat := field r 128 512

/-- The key check value of a key: bits [127:96] of AES-256 of a zero block under it, or under its first half. -/
def kcvOf (key : Nat) : Nat := field (Config.aes256 (key % 2 ^ 256) 0) 96 32

/-- A slot is LOADED. -/
def slotLoaded (s : State) (n : Nat) : Bool := tabHas s.sec.slots n

/-- A slot loaded with a key. -/
def loadSlot (s : State) (n kind key : Nat) : State :=
  { s with sec := { s.sec with slots := tabSet s.sec.slots n ⟨kind, key⟩ } }

/-- The tier's key check value differs from a key's. -/
def tierMismatch (s : State) (key : Nat) : Bool :=
  match s.sec.tierKcv with
  | some k => k != kcvOf key
  | none => false

/-- SEC.KEY_LOAD (R434), from the mailbox. -/
def keyLoad (s : State) (r : Nat) : Nat × State :=
  let n := krSlot r
  let kind := krKind r
  let st := firstBad
    [(krVersion r != 1, Code.VERSION_UNSUPPORTED),
     (63 < n || !((kind == 1 && n == 0) || (kind == 2 && n != 0)), Code.BAD_FIELD),
     (kind == 2 && krKey r / 2 ^ 256 != 0, Code.BAD_FIELD),
     (n == 0 && (slotLoaded s 0 || reg s Key.SEC_TIER_KEY_SOURCE == 0 || tierMismatch s (krKey r)), Code.BAD_FIELD)]
  if st != Code.OK then (st, s) else (Code.OK, bump (loadSlot s n kind (krKey r)) Key.SEC_KEY_LOADS 1)

/-- SEC.KEY_CLEAR (R435). -/
def keyClear (s : State) (n : Nat) : Nat × State :=
  if n == 0 || 63 < n then (Code.BAD_FIELD, s)
  else (Code.OK, { s with sec := { s.sec with slots := tabDel s.sec.slots n } })

/-- SEC.SLOT_STATUS (Table 23.4). -/
def slotStatus (s : State) : Nat :=
  s.sec.slots.foldl (fun v p => v + (kcvOf p.2.key * 2 ^ 32 + p.2.kind * 2 ^ 8 + 1) * 2 ^ (64 * p.1)) 0

/-! ### The format of the tier (R195, R437) -/

/-- Something lives on the flash tier, or moves to it or from it. -/
def tierInUse (s : State) : Bool :=
  s.mem.objects.any (fun p => p.2.policy == 2) ||
  s.mem.units.any (fun p =>
    (p.2.home == .flash && (match p.2.owner with
      | .kv _ => true
      | _ => (match objectAt s (p.1 * unitBytes) with
        | some (_, o) => o.policy != 2
        | none => false))) ||
    (match p.2.move with
      | some m => p.2.home == .flash || m.dest == .flash
      | none => false))

/-- FLASH.STATE after a format. -/
def formattedState (s : State) : Nat :=
  let up := (s.mem.channels.filter (fun p => p.2.up)).length
  if up == 0 then 0 else if reg s Key.FLASH_STATE == 4 then 4 else if up < 64 then 3 else 2

/-- The erased tier: no data, no map, no object, no state copy. -/
def emptyTier (s : State) : State :=
  setFlashState { s with
    copies := []
    mem := { s.mem with
      staged := [], durable := [], durableObjs := [], formatted := true, places := [], programs := []
      blocks := tabMap s.mem.blocks (fun _ b =>
        if b.retired then b else { b with erases := b.erases + 1, erasing := false, valid := [], used := 0 }) } }
    (formattedState s)

/-- A key drawn from the DRBG (R433). -/
def drawKey (s : State) : Nat × State :=
  let a := drawSecret s
  (a.1 % 2 ^ 512, a.2)

/-- The tier key that a format sets: drawn and kept in the EEPROM, or the one in slot 0; its check value is stored with the
tier. -/
def setTierKey (s : State) : State :=
  if reg s Key.SEC_TIER_KEY_SOURCE == 0 then
    let k := drawKey s
    let s1 := loadSlot k.2 0 1 k.1
    { s1 with eeprom := { s1.eeprom with tierKey := some k.1 }, sec := { s1.sec with tierKcv := some (kcvOf k.1) } }
  else match tabGet s.sec.slots 0 with
    | some x => { s with eeprom := { s.eeprom with tierKey := none }, sec := { s.sec with tierKcv := some (kcvOf x.key) } }
    | none => s

/-- DIAG.FLASH_FORMAT. -/
def flashFormat (s : State) (v : Nat) : Nat × State :=
  if v != 1 || tierInUse s || (reg s Key.SEC_TIER_KEY_SOURCE != 0 && !slotLoaded s 0) then (Code.BAD_FIELD, s)
  else (Code.OK, setTierKey (emptyTier s))

/-! ### Attestation (R441) -/

/-- A stamp of every EEPROM area but the clean record. -/
def eepromStamp (e : Eeprom) : Nat :=
  let kept := e.kept.foldl (fun v p => v * 2 ^ 96 + p.1 * 2 ^ 64 + p.2 % 2 ^ 64) 1
  let parts := [(e.serial, 64), (e.mac, 64), (e.blockStep, 32), (e.blockMap, 1200), (e.quarantines, 32), (e.pubkey, 776),
    (e.cert, 32768), (e.tierKey.getD 0, 512), (flagBit e.tierKey.isSome, 1), (e.identity, 512), (e.trims, 4096)]
  parts.foldl (fun v p => v * 2 ^ p.2 + p.1 % 2 ^ p.2) kept

/-- The report without its signature: bits [2047:768] of Table 23.2. -/
def reportBody (s : State) (nonce : Nat) : Nat :=
  let loaded := s.sec.slots.foldl (fun v p => v + 2 ^ p.1) 0
  (nonce % 2 ^ 384 * 2 ^ 1664 + Config.measure (eepromStamp s.eeprom) % 2 ^ 384 * 2 ^ 1280 +
    reg s Key.ID_SERIAL * 2 ^ 1216 + beatNow s % 2 ^ 32 * 2 ^ 1184 + loaded * 2 ^ 1120 +
    (reg s Key.PELGAN_PROTECT * 4 + reg s Key.AEDUP_PROTECT) * 2 ^ 792 + reg s Key.TEST_TEST_MODE * 2 ^ 784 +
    reg s Key.SEC_TIER_KEY_SOURCE * 2 ^ 776 + 2 ^ 768) / 2 ^ 768

/-- A new report is built and signed. -/
def attest (s : State) (nonce : Nat) : State :=
  let body := reportBody s nonce
  let d := drawSecret s
  let sig := Config.signature d.2.eeprom.identity body d.1 % 2 ^ 768
  setReg d.2 Key.SEC_ATTEST_REPORT (body * 2 ^ 768 + sig)

end Sys2Proof.Machine
end

