-- ==== Sys2Proof/Machine/Dictionary.lean ====
section
/-! DEFINITION. The object dictionary (chapter 18): what reads and writes of entries do, the checks of R365, and the three
paths, with the mailbox of Aedup (R337 to R339) and the management port. -/

namespace Sys2Proof.Machine

/-! ### Descriptors and derived entries (R367, R377) -/

/-- The code of a type (Table 18.1). -/
def typeCode : EntryType → Nat
  | .u8 => 0 | .u16 => 1 | .u32 => 2 | .u64 => 3 | .i32 => 4 | .f32 => 5 | .str => 6 | .domain => 7

/-- The code of a merge rule (Table 18.3). -/
def mergeCode : Merge → Nat
  | .none => 0 | .replace => 1 | .max => 2 | .min => 3 | .or => 4

/-- Entries with PRIV alone to which their chapters give a write no effect (R362). -/
def readOnlyPriv (index : Nat) : Bool := index == 0xF031 || index == 0xF032 || index == 0xF041 || index == 0xF042

/-- Some path may write an entry. -/
def writable (r : EntryRow) : Bool := r.acc != .ro && !readOnlyPriv r.index

/-- Writes of an entry need a privileged path. -/
def privWrite (a : Access) : Bool := a == .rwPriv || a == .wbPriv || a == .wo1Priv || a == .priv

/-- The descriptor of an element of a row (Table 18.3). -/
def descriptorOf (r : EntryRow) (sub : Nat) : Nat :=
  r.index * 2 ^ 48 + sub * 2 ^ 40 + typeCode r.ty * 2 ^ 36 + mergeCode r.merge * 2 ^ 32 + flagBit r.eeprom * 2 ^ 30 +
    flagBit (r.acc == .priv) * 2 ^ 29 + flagBit (writable r && privWrite r.acc) * 2 ^ 28 +
    flagBit (r.acc == .wo1Priv) * 2 ^ 27 + flagBit (r.acc == .wbPriv) * 2 ^ 26 + flagBit (writable r) * 2 ^ 25 + 2 ^ 24 +
    r.size

/-- DICT.DIRECTORY. -/
def directory : List Nat :=
  (entryRows.map (fun r => (List.range (r.subHi + 1 - r.subLo)).map (fun i => descriptorOf r (r.subLo + i)))).flatten

/-- Numbers of some bytes each, laid one behind the other. -/
def packed (bytes : Nat) (l : List Nat) : Nat := l.foldr (fun d v => d % 2 ^ (8 * bytes) + v * 2 ^ (8 * bytes)) 0

/-- OVERLAY.EFFECTIVE. -/
def effective (s : State) : Nat :=
  packed 24 ((entryRows.filter (fun r => r.merge != .none)).map (fun r =>
    let k := r.index * 256 + r.subLo
    inForce s k * 2 ^ 128 + reg s k * 2 ^ 64 + r.subLo * 2 ^ 16 + r.index))

/-- QUEUE.STATE_MAP. -/
def stateMap (s : State) : Nat := s.queues.foldl (fun v p => v + (if p.2.draining then 2 else 1) * 2 ^ (2 * p.1)) 0

/-- Contexts that can no longer be placed (R79). -/
def unplaceable (s : State) : Nat :=
  (s.ctxs.filter (fun p => p.2.state == .waiting && !placeable s p.2.partition p.2.single)).length

/-- Quads available (R16). -/
def quadsAvailable (s : State) : Nat := quadsOfMap (reg s Key.CHIP_BLOCK_MAP)

/-- DIAG.ERROR_LOG. -/
def logDomain (s : State) : Nat := s.log.foldl (fun v e => v + logCode e * 2 ^ (256 * (e.seq % 4096))) 0

/-- Entries whose values follow from the rest of the state. -/
def derived (s : State) (k : Nat) : Option Nat :=
  if k == Key.DICT_DIRECTORY then some (packed 8 directory)
  else if k == Key.OVERLAY_EFFECTIVE then some (effective s)
  else if k == Key.DEV_START_STATE then some (startCode s.start)
  else if k == Key.DICT_CONFIG_DONE then some (flagBit (s.start == .ready))
  else if k == Key.QUEUE_STATE_MAP then some (stateMap s)
  else if k == Key.QUEUE_CACHED then some (cachedQueues s).length
  else if k == Key.QUEUE_SLOTS_IN_USE then some (slotsInUse s)
  else if k == Key.STORE_STAGED_BYTES then some (stagedBytes s)
  else if k == Key.STORE_UNFLUSHED_BYTES then some (unflushedBytes s)
  else if k == Key.CTX_ALLOCATED then some (s.ctxs.filter (fun p => p.2.state != .free)).length
  else if k == Key.CTX_RUNNING then some (s.ctxs.filter (fun p => holdsQuads p.2)).length
  else if k == Key.CTX_CACHED then some (s.ctxs.filter (fun p => p.2.cached)).length
  else if k == Key.CTX_UNPLACEABLE then some (unplaceable s)
  else if k == Key.CLOAK_BLOCK_IMAGE_BYTES then some (blockImageBytes s)
  else if k == Key.WARDROBE_RESIDENT then some (residentCount s)
  else if k == Key.CHIP_BLOCKS_AVAILABLE then some (popCount blockCount (reg s Key.CHIP_BLOCK_MAP))
  else if k == Key.CHIP_QUADS_AVAILABLE then some (quadsAvailable s)
  else if k == Key.CHIP_RETURNS_PENDING then some s.chip.returns.length
  else if k == Key.MEM_OBJECTS then some s.mem.objects.length
  else if k == Key.MEM_POOL_BYTES then some (poolBytes s)
  else if k == Key.MEM_POOL_FREE then some (poolFreeBytes s)
  else if k == Key.TEST_LAST_RECORD then some s.eeprom.record
  else if k == Key.SEC_SLOT_STATUS then some (slotStatus s)
  else if k == Key.PERF_BLOCK_SHADOW then some (bankImage s.perf.blockShadow)
  else if k == Key.PERF_REGION_SHADOW then some (bankImage s.perf.regionShadow)
  else if k == Key.PERF_CHIP_SHADOW then some (bankImage s.perf.chipShadow)
  else if k == Key.DIAG_ERROR_LOG then some (logDomain s)
  else if k / 256 == 0xF042 then some (sampleImage s (k % 256))
  else if k == Key.SEC_KEY_LOAD || k == Key.SEC_KEY_CLEAR then some 0
  else none

/-- Counts of cycles, conflicts and corrected errors inside the device, and measurements not yet taken: what they add up to
is open, so a read finds an open value. -/
def openEntry (s : State) (k : Nat) : Bool :=
  k == Key.ARRAY_BUBBLE_CYCLES || k == Key.ARRAY_DUMMY_CYCLES || (0x118005 ≤ k && k ≤ 0x11800A) ||
    k == Key.POCKET_CORRECTED || ((k == Key.POWER_VIN_MV || k == Key.POWER_TJ_HOT_C) && !tabHas s.regs k)

/-- An open value as an entry shows it: VIN_IVR lies within 1,700 to 1,900 mV (Table 24.8). -/
def openShown (k v : Nat) : Nat := if k == Key.POWER_VIN_MV then 1700 + v % 201 else v % 2 ^ 64

/-- Parts of the crash dump whose layout the spec does not give (Table 20.5). -/
def dumpOpen (a : Nat) : Bool := 0x40040 ≤ a && a < 0x550040

/-- Bytes of the crash dump: those of an unstated layout are open values. -/
def dumpBytes (s : State) : Nat → Nat → List Nat × State
  | _, 0 => ([], s)
  | a, n + 1 =>
    let f := if dumpOpen a then takeFree s else (memByte s.mem.dev (crashDumpBase + a), s)
    let r := dumpBytes f.2 (a + 1) n
    (f.1 % 256 :: r.1, r.2)

/-- What a read of `len` bytes from `off` of an entry returns, and the state after it. -/
def readEntry (s : State) (k off len : Nat) : Nat × State :=
  if k / 256 == 0xF032 then
    let d := dumpBytes s (0x800000 * (k % 256) + off) len
    (ofLeBytes d.1, d.2)
  else if k / 256 == 0xF041 then
    let t := freshCounts s
    let bank := if k % 256 == 0 then t.perf.block else if k % 256 == 1 then t.perf.region else t.perf.chip
    (field (bankImage bank) (8 * off) (8 * len), t)
  else if openEntry s k then
    let f := takeFree s
    (field (openShown k f.1) (8 * off) (8 * len), f.2)
  else
    let v := match derived s k with
      | some v => v
      | none => inForce s k
    (field v (8 * off) (8 * len), s)

/-! ### Limits (R363) -/

/-- A value lies in an interval. -/
def within (lo hi v : Nat) : Bool := lo ≤ v && v ≤ hi

/-- Entries that accept a value of an interval: key, lowest, highest.  An entry that is not listed accepts every value of
its type, or has a rule of its own. -/
def intervals : List (Nat × Nat × Nat) :=
  [(Key.STORE_STAGING_LIMIT, 2 ^ 30, 2 ^ 64 - 1), (Key.STORE_BACKGROUND_FLUSH, 0, 1), (Key.CTX_STARVE_BEATS, 1, 65535),
   (Key.ARRAY_RAMP_STEP, 16, 1024), (Key.FORMAT_SCALE_RULE, 0, 1), (Key.FORMAT_ROUNDING, 0, 2),
   (Key.FORMAT_FALLBACK_ENABLE, 0, 1), (Key.MEM_MOVE_BOUND, 100, 100000), (Key.MEM_PROMOTE, 0, 1),
   (Key.FLASH_EXT_MODE, 0, 1), (Key.FLASH_WRITE_AGE, 100, 100000), (Key.FLASH_THROTTLE, 0, 2),
   (Key.SEARCH_COMPACT_EXTENTS, 2, 64), (Key.SEARCH_COMPACT_DEAD, 1, 100), (Key.SEARCH_COMPACT_ENABLE, 0, 1),
   (Key.BELT_HOT_CACHE_ENABLE, 0, 1), (Key.MGMT_NOTIFY, 0, 31), (Key.MGMT_PLCA_COUNT, 1, 255),
   (Key.QUEUE_TABLE_ENTRIES, 0, 1024), (Key.HEM_BEAT_SOURCE, 0, 1), (Key.HEM_BEAT_PERIOD, 250000, 1000000000),
   (Key.HEM_CALENDAR_COMMIT, 1, 1), (Key.AEDUP_PROTECT, 0, 2), (Key.AEDUP_RETRAIN_REQUEST, 1, 1),
   (Key.PELGAN_PROTECT, 0, 2), (Key.PELGAN_REMOTE_TIMEOUT, 1, 100000), (Key.OVERLAY_ACTIVE, 0, 15),
   (Key.DICT_CONFIG_DONE, 1, 1), (Key.COLLAR_SLEW_LIMIT, 50, 500), (Key.COLLAR_CURRENT_LIMIT, 400, 1350),
   (Key.POWER_REQUEST, 0, 2), (Key.POWER_REGION_REQUEST, 0, 15), (Key.POWER_QUICK_START, 0, 1),
   (Key.RESET_DRAIN_US, 600, 100000), (Key.RESET_MONITOR_US, 100, 1000000),
   (Key.RESET_AEDUP_READ_TIMEOUT, 10, 100000), (Key.DIAG_RESET, 1, 2), (Key.DIAG_REGION_RESET, 0, 3),
   (Key.TEST_INOP_ENABLE, 0, 1), (Key.TEST_PER_REGION, 1, 4), (Key.TEST_SHUTDOWN_RUN, 1, 1), (Key.PERF_FREEZE, 0, 1),
   (Key.PERF_INTR_ENABLE, 0, 1), (Key.SEC_TIER_KEY_SOURCE, 0, 1), (Key.DIAG_FLASH_FORMAT, 1, 1),
   (Key.SEC_KEY_CLEAR, 1, 63)]

/-- A value lies within the limits that an entry states, whatever the rest of the state. -/
def inLimits (k v : Nat) : Bool :=
  if k == Key.FORMAT_SHADOW_SHIFT then v == 0 || within 4 8 v
  else if k == Key.AEDUP_MIN_WIDTH then v == 4 || v == 8 || v == 16
  else if k == Key.WARDROBE_BAND_ROWS then v ≤ 8192 && v % 16 == 0
  else if k == Key.QUEUE_TABLE_BASE then v % 64 == 0
  else if k / 256 == 0x3302 then !selectBad 1 v
  else if k / 256 == 0x3303 then !selectBad 2 v
  else if k / 256 == 0x3304 then !selectBad 3 v
  else match intervals.find? (fun p => p.1 == k) with
    | some (_, lo, hi) => within lo hi v
    | none => true

/-! ### Writes that wait for a boundary (R40, R374) -/

/-- The beat whose boundary a WB write accepted now takes effect at; 0 is the first boundary of READY. -/
def wbBeat (s : State) : Nat := if s.start == .ready then dueBeat s else 0

/-- A WB write is accepted. -/
def pushWrite (s : State) (k off len v : Nat) (capture : List Nat) : State :=
  { s with dict := { s.dict with wb := s.dict.wb ++ [⟨wbBeat s, k, off, len, v, capture⟩] } }

/-- The value that an entry will have once every write accepted so far has taken effect. -/
def pendingValue (s : State) (k : Nat) : Nat :=
  (s.dict.wb.filter (fun w => w.key == k)).foldl (fun v w => setField v (8 * w.offset) (8 * w.length) w.value) (reg s k)

/-- The writes of an entry that take effect no later than one accepted now. -/
def dueWith (s : State) (k : Nat) : List WbItem := s.dict.wb.filter (fun w => w.key == k && w.due ≤ wbBeat s)

/-- The period that will be in force at the boundary of a write accepted now. -/
def periodDue (s : State) : Nat :=
  match (dueWith s Key.HEM_BEAT_PERIOD).getLast? with
  | some w => w.value
  | none => reg s Key.HEM_BEAT_PERIOD

/-- The calendar that will be in force after the boundary of a write accepted now. -/
def calendarDue (s : State) : List Nat :=
  match (dueWith s Key.HEM_CALENDAR_COMMIT).getLast? with
  | some w => w.capture
  | none => s.hem.calendar

/-! ### Writes with a behaviour of their own -/

/-- HEM.CALENDAR_COMMIT (R41). -/
def calendarCommit (s : State) (v : Nat) : Nat × State :=
  let cal := stagedCalendar s
  if v != 1 || !calendarValid cal (periodDue s) then (Code.BAD_FIELD, s)
  else (Code.OK, pushWrite s Key.HEM_CALENDAR_COMMIT 0 1 1 cal)

/-- HEM.BEAT_PERIOD (R43). -/
def beatPeriodWrite (s : State) (v : Nat) : Nat × State :=
  if isWorker s || !inLimits Key.HEM_BEAT_PERIOD v || !calendarValid (calendarDue s) v then (Code.BAD_FIELD, s)
  else (Code.OK, pushWrite s Key.HEM_BEAT_PERIOD 0 4 v [])

/-- HEM.BEAT_SOURCE (R459): it acts from its boundary. -/
def beatSourceWrite (s : State) (v : Nat) : Nat × State :=
  if 1 < v then (Code.BAD_FIELD, s) else (Code.OK, pushWrite s Key.HEM_BEAT_SOURCE 0 1 v [])

/-- BELT.HOT_CACHE_ENABLE (R267): every hot-row cache is cleared. -/
def hotCacheWrite (s : State) (v : Nat) : Nat × State :=
  if 1 < v then (Code.BAD_FIELD, s)
  else (Code.OK, { setReg s Key.BELT_HOT_CACHE_ENABLE v with belt := { s.belt with hot := [] } })

/-- DICT.CONFIG_DONE (R374, R437). -/
def configDone (s : State) (v : Nat) : Nat × State :=
  if v != 1 || s.start != .configure || (!slotLoaded s 0 && 2 ≤ reg s Key.FLASH_STATE) then (Code.BAD_FIELD, s)
  else (Code.OK, { s with start := .ready })

/-- AEDUP.RETRAIN_REQUEST (R341). -/
def retrainWrite (s : State) (v : Nat) : Nat × State :=
  if v != 1 then (Code.BAD_FIELD, s) else (Code.OK, startRetrain s .aedup)

/-- PERF.SAMPLE_RELEASE (R431). -/
def sampleRelease (s : State) (b v : Nat) : Nat × State :=
  if within (reg s (Key.PERF_SAMPLE_RELEASE b)) (reg s (Key.PERF_SAMPLE_COUNT b)) v then
    let s1 := setReg s (Key.PERF_SAMPLE_RELEASE b) v
    (Code.OK, { s1 with perf := { s1.perf with filled := s1.perf.filled.filter (fun x => x != b) } })
  else (Code.BAD_FIELD, s)

/-- PELGAN.JOB (R353): `value` is the whole entry as the write leaves it. -/
def jobWrite (s : State) (j value : Nat) : Nat × State :=
  if field value 0 8 != 1 then (Code.VERSION_UNSUPPORTED, s)
  else if isWorker s || (field value 128 4096 != 0 && (jobState (jobEntry s j) == 1 || jobState (latestJob s j) == 1)) then
    (Code.BAD_FIELD, s)
  else (Code.OK, writeJob s j value)

/-- Elements of `n` bytes that a range of bytes touches. -/
def touched (n off len : Nat) : List Nat :=
  if len == 0 then [] else (List.range ((off + len - 1) / n + 1 - off / n)).map (fun i => off / n + i)

/-- A binding of PELGAN.CTX_JOB cannot be made (R354): `image` is the whole entry as the write leaves it. -/
def bindingBad (s : State) (image c : Nat) : Bool :=
  let j := field image (16 * c) 16
  j != 0xFFFF && (255 ≤ j || jobState (jobEntry s j) != 1 || !jobMember (jobEntry s j) (ownDevice s) ||
    (List.range 4096).any (fun d => d != c && field image (16 * d) 16 == j))

/-- PELGAN.CTX_JOB (R354). -/
def ctxJobWrite (s : State) (off len v : Nat) : Nat × State :=
  let image := setField (pendingValue s Key.PELGAN_CTX_JOB) (8 * off) (8 * len) v
  if (touched 2 off len).any (bindingBad s image) then (Code.BAD_FIELD, s)
  else (Code.OK, pushWrite s Key.PELGAN_CTX_JOB off len v [])

/-- An export word breaks its limits (R428). -/
def exportBad (s : State) (image c : Nat) : Bool :=
  let w := field image (64 * c) 64
  field w 1 11 != 0 || (bitOf w 0 && !rangeOk s (exportAddr w) (exportBytes (ctxOf s c)))

/-- PERF.EXPORT (R428). -/
def exportWrite (s : State) (off len v : Nat) : Nat × State :=
  let image := setField (pendingValue s Key.PERF_EXPORT) (8 * off) (8 * len) v
  if (touched 8 off len).any (exportBad s image) then (Code.BAD_FIELD, s)
  else (Code.OK, pushWrite s Key.PERF_EXPORT off len v [])

/-- A record of an overlay table (Table 18.11). -/
def overlayRecord (image i : Nat) : Nat := field image (128 * i) 128

/-- The entry that a record names. -/
def recordKey (r : Nat) : Nat := field r 104 24

/-- A record is used. -/
def recordUsed (r : Nat) : Bool := field r 112 16 != 0

/-- A record breaks the rules of R379, its duplicates apart. -/
def recordBad (r : Nat) : Bool :=
  field r 64 40 != 0 || (recordUsed r && (match rowOf (recordKey r) with
    | some row => row.merge == .none || 2 ^ (8 * row.size) ≤ field r 0 64 || !inLimits (recordKey r) (field r 0 64)
    | none => true))

/-- OVERLAY.TABLE (R379). -/
def overlayWrite (s : State) (k off len v : Nat) : Nat × State :=
  let image := setField (pendingValue s k) (8 * off) (8 * len) v
  let keys := ((List.range 128).map (overlayRecord image)).filter recordUsed |>.map recordKey
  if off % 16 != 0 || len % 16 != 0 || (touched 16 off len).any (fun i => recordBad (overlayRecord image i)) ||
      (distinct keys).length != keys.length then (Code.BAD_FIELD, s)
  else (Code.OK, pushWrite s k off len v [])

/-- SEC.LINK_SLOT (R443): bytes 1 to 63, or 0xFF. -/
def linkSlotWrite (s : State) (off len v : Nat) : Nat × State :=
  if (leBytes len v).all (fun b => within 1 63 b || b == 0xFF) then
    (Code.OK, setReg s Key.SEC_LINK_SLOT (setField (reg s Key.SEC_LINK_SLOT) (8 * off) (8 * len) v))
  else (Code.BAD_FIELD, s)

/-- SEC.ATTEST_NONCE (R441): a write of all 48 bytes has a report built. -/
def nonceWrite (s : State) (off len v : Nat) : Nat × State :=
  let n := setField (reg s Key.SEC_ATTEST_NONCE) (8 * off) (8 * len) v % 2 ^ 384
  let s1 := setReg s Key.SEC_ATTEST_NONCE n
  (Code.OK, if len == 48 then attest s1 n else s1)

/-- SEC.KEY_LOAD (R434): the whole record in one write. -/
def keyLoadWrite (s : State) (len v : Nat) : Nat × State := if len != 80 then (Code.BAD_FIELD, s) else keyLoad s v

/-- A write of an entry without a behaviour of its own: RW and WO1 at once, WB at its boundary. -/
def plainWrite (s : State) (r : EntryRow) (k off len v : Nat) : Nat × State :=
  if r.ty != .domain && !inLimits k v then (Code.BAD_FIELD, s)
  else if r.acc == .wbPriv then (Code.OK, pushWrite s k off len v [])
  else
    let value := setField (reg s k) (8 * off) (8 * len) v % 2 ^ (8 * r.size)
    let s1 := setReg s k value
    let s2 := if r.eeprom then { s1 with eeprom := { s1.eeprom with kept := tabSet s1.eeprom.kept k value } } else s1
    (Code.OK, if r.acc == .wo1Priv then { s2 with dict := { s2.dict with locks := k :: s2.dict.locks } } else s2)

/-- A WO1 entry is locked, or may no longer be written (R97). -/
def lockedEntry (s : State) (k : Nat) : Bool :=
  s.dict.locks.contains k || (k == Key.WARDROBE_BAND_ROWS && s.ctxs.any (fun p => p.2.used))

/-- MEM.SWAP_BYTES (R195): a multiple of 2 MiB, at most half of FLASH.CAPACITY; MEM.SWAP_IN_FORCE follows. -/
def swapWrite (s : State) (r : EntryRow) (k v : Nat) : Nat × State :=
  if v % unitBytes != 0 || reg s Key.FLASH_CAPACITY < 2 * v then (Code.BAD_FIELD, s)
  else
    let p := plainWrite s r k 0 8 v
    (p.1, setReg p.2 Key.MEM_SWAP_IN_FORCE (swapInForce p.2))

/-- DIAG.RESET (R396, R397): the request completes before the reset. -/
def resetWrite (s : State) (v : Nat) : Nat × State :=
  if v == 1 || v == 2 then (Code.OK, s) else (Code.BAD_FIELD, s)

/-- The reset that an accepted write of DIAG.RESET asks for. -/
def askedReset (s : State) (v : Nat) : State := if v == 1 then askedWarmReset s else askedColdReset s

/-- DIAG.REGION_RESET (R398). -/
def regionResetWrite (s : State) (v : Nat) : Nat × State :=
  if 3 < v then (Code.BAD_FIELD, s) else (Code.OK, startRegionReset s v)

/-- An accepted write of an entry other than QUEUE.ENABLE: its status and the state after it. -/
def writeEntry (s : State) (r : EntryRow) (k off len v : Nat) : Nat × State :=
  if lockedEntry s k then (Code.BAD_FIELD, s)
  else if k == Key.HEM_CALENDAR_COMMIT then calendarCommit s v
  else if k == Key.HEM_BEAT_PERIOD then beatPeriodWrite s v
  else if k == Key.HEM_BEAT_SOURCE then beatSourceWrite s v
  else if k == Key.QUEUE_DISABLE then disableQueue s v
  else if k == Key.QUEUE_TABLE_BASE || k == Key.QUEUE_TABLE_ENTRIES then
    if s.queues.isEmpty then plainWrite s r k off len v else (Code.BAD_FIELD, s)
  else if k == Key.MEM_SWAP_BYTES then swapWrite s r k v
  else if k == Key.BELT_HOT_CACHE_ENABLE then hotCacheWrite s v
  else if k == Key.DICT_CONFIG_DONE then configDone s v
  else if k == Key.AEDUP_RETRAIN_REQUEST then retrainWrite s v
  else if k / 256 == 0x1212 then
    jobWrite s (k % 256) (setField (reg s k) (8 * off) (8 * len) v)
  else if k == Key.PELGAN_CTX_JOB then ctxJobWrite s off len v
  else if 0x6000 ≤ k / 256 && k / 256 < 0x6004 then overlayWrite s k off len v
  else if k == Key.PERF_EXPORT then exportWrite s off len v
  else if 0x330004 ≤ k && k ≤ 0x330008 then sampleRelease s (k - 0x330004) v
  else if k == Key.POWER_REQUEST then
    if 2 < v then (Code.BAD_FIELD, s) else powerRequest s v
  else if k == Key.POWER_REGION_REQUEST then
    if 15 < v then (Code.BAD_FIELD, s) else regionRequest s v
  else if k == Key.TEST_SHUTDOWN_RUN then shutdownRun s v
  else if k == Key.DIAG_BLOCK_RETURN then blockReturn s v
  else if k == Key.DIAG_FLASH_FORMAT then flashFormat s v
  else if k == Key.DIAG_RESET then resetWrite s v
  else if k == Key.DIAG_REGION_RESET then regionResetWrite s v
  else if k == Key.SEC_KEY_LOAD then keyLoadWrite s len v
  else if k == Key.SEC_KEY_CLEAR then keyClear s v
  else if k == Key.SEC_LINK_SLOT then linkSlotWrite s off len v
  else if k == Key.SEC_ATTEST_NONCE then nonceWrite s off len v
  else plainWrite s r k off len v

/-! ### The checks (R365) -/

/-- The largest LENGTH of a path (Table 18.5). -/
def pathLimit : Path → Nat
  | .mailbox => 3840
  | .dictReq => 192
  | .mgmt => 1024

/-- A path is privileged (R363). -/
def privileged (p : Path) : Bool := p != .mgmt

/-- The start-up state serves a request (Table 18.6). -/
def servedNow (s : State) (q : Request) : Bool :=
  match s.start with
  | .off => false
  | .powerGood => false
  | .identify => q.op == 1 && 0x1000 ≤ q.key / 256 && q.key / 256 ≤ 0x11FF
  | .train => q.op == 1 && 0x1000 ≤ q.key / 256 && q.key / 256 ≤ 0x11FF
  | .configure => !(q.op == 2 && (q.key == Key.POWER_REQUEST || q.key == Key.POWER_REGION_REQUEST))
  | .ready => true

/-- The path has the right it needs (R362, R434). -/
def hasRight (r : EntryRow) (q : Request) : Bool :=
  if q.op == 1 then r.acc != .priv || privileged q.path
  else writable r && (!privWrite r.acc || privileged q.path) &&
    (q.key != Key.SEC_KEY_LOAD || q.path == .mailbox)

/-- OFFSET and LENGTH fit the type (R361). -/
def fitsType (r : EntryRow) (q : Request) : Bool :=
  match r.ty with
  | .str => q.offset + q.length ≤ r.size
  | .domain => q.offset + q.length ≤ r.size
  | _ => q.offset == 0 && q.length == r.size

/-- Checks 1 to 7 of R365; the row of the entry that passes. -/
def checkRequest (s : State) (q : Request) : Nat × EntryRow :=
  let none_ : EntryRow := ⟨0, 0, 0, .u8, 0, .ro, 0, .none, false⟩
  if q.version != 1 then (Code.VERSION_UNSUPPORTED, none_)
  else if q.reserved != 0 then (Code.RESERVED_NONZERO, none_)
  else if !(q.op == 1 || q.op == 2) || pathLimit q.path < q.length then (Code.BAD_FIELD, none_)
  else match rowOf q.key with
    | none => (Code.ENTRY_UNKNOWN, none_)
    | some r =>
      if !servedNow s q then (Code.NOT_READY, r)
      else if !hasRight r q then (Code.ACCESS_DENIED, r)
      else if !fitsType r q then (Code.BAD_FIELD, r)
      else (Code.OK, r)

/-! ### Service (R364) -/

/-- The line that a write of QUEUE.ENABLE has still to read, if the number is one that can be enabled. -/
def enableLine (s : State) (q : Request) : Option Nat :=
  let n := q.data % 65536
  if q.op == 2 && q.key == Key.QUEUE_ENABLE && !enableBad s n && !lineHeld s (tableLine s n) then some (tableLine s n)
  else none

/-- A read that passed its checks completes.  A STR is returned whole. -/
def finishRead (s : State) (q : Request) (r : EntryRow) : State :=
  if q.length == 0 then completeRequest s q Code.OK 0 0
  else if r.ty == .str then completeRequest s q Code.OK r.size r.dflt
  else
    let d := readEntry s q.key q.offset q.length
    completeRequest d.2 q Code.OK q.length d.1

/-- A write that passed checks 1 to 7 completes: with the effect of its entry, or with the failure of check 8 and no
effect. -/
def finishWrite (s : State) (q : Request) (r : EntryRow) : State :=
  let v := q.data % 2 ^ (8 * q.length)
  if q.length == 0 then completeRequest s q Code.OK 0 0
  else
    let w := if q.key == Key.QUEUE_ENABLE then (if enableBad s v then (Code.BAD_FIELD, s) else enableQueue s v)
      else writeEntry s r q.key q.offset q.length v
    let t := completeRequest w.2 q w.1 (if w.1 == Code.OK then q.length else 0) 0
    if q.key == Key.DIAG_RESET && w.1 == Code.OK then askedReset t v else t

/-- A request is served: it completes, or it waits for a line of the queue table. -/
def serveOne (s : State) (q : Request) : State :=
  let c := checkRequest s q
  if c.1 != Code.OK then completeRequest s q c.1 0 0
  else match enableLine s q with
    | some line => wantDict { s with dict := { s.dict with waiting := some (q, line) } }
    | none => if q.op == 1 then finishRead s q c.2 else finishWrite s q c.2

/-- Requests that wait behind one another are served in order, until one waits for a line. -/
def serveBacklog : Nat → State → State
  | 0, s => s
  | n + 1, s =>
    if s.dict.waiting.isSome then s
    else match s.dict.backlog with
      | [] => s
      | q :: rest => serveBacklog n (serveOne { s with dict := { s.dict with backlog := rest } } q)

/-- A request arrives at the service. -/
def arrive (s : State) (q : Request) : State :=
  serveBacklog (s.dict.backlog.length + 1) { s with dict := { s.dict with backlog := s.dict.backlog ++ [q] } }

/-- The line that a request waits for has come: the request goes on, and those behind it. -/
def resumeDict (s : State) : State :=
  match s.dict.waiting with
  | some (q, line) =>
    if lineHeld s line then
      serveBacklog (s.dict.backlog.length + 1) (serveOne { s with dict := { s.dict with waiting := none } } q)
    else s
  | none => serveBacklog (s.dict.backlog.length + 1) s

/-! ### Paths -/

/-- The dictionary answers on a path now: the mailbox and DICT_REQ while their links are ACTIVE, the management port from
IDENTIFY on (R373). -/
def pathOpen (s : State) (p : Path) : Bool :=
  match p with
  | .mailbox => s.aedup.link.state == .active
  | .dictReq => isWorker s && s.pelgan.links.any (fun l => l.2.state == .active)
  | .mgmt => s.start != .off && s.start != .powerGood

/-- A write of a value to an entry, as a whole request on a path. -/
def writeRequest (p : Path) (k off len v : Nat) : Request := ⟨p, 1, 0, 1, 0, 2, k, off, len, v⟩

/-- A request comes by the mailbox: one that is busy ignores it and counts the overrun (R339). -/
def byMailbox (s : State) (q : Request) : State :=
  if s.dict.mailboxBusy then bump s Key.AEDUP_MAILBOX_OVERRUNS 1
  else arrive { s with dict := { s.dict with mailboxBusy := true } } q

/-- A write of an entry arrives on a path. -/
def writeOn (s : State) (p : Path) (k off len v : Nat) : State :=
  if !pathOpen s p then s
  else if p == .mailbox then byMailbox s (writeRequest p k off len v)
  else arrive s (writeRequest p k off len v)

/-- The size of an entry. -/
def sizeOf_ (k : Nat) : Nat :=
  match rowOf k with
  | some r => r.size
  | none => 1

/-- REGISTER_WRITE (R362). -/
def execRegisterWrite (path : Path) (key offset length value : Nat) (s : State) : Host.Outcome State Fault Refusal :=
  .next (writeOn s path key offset length value)

/-- A write of a scalar entry. -/
def writeScalar (s : State) (p : Path) (k v : Nat) : State := writeOn s p k 0 (sizeOf_ k) v

def execDictConfigDone (path : Path) (value : Nat) (s : State) : Host.Outcome State Fault Refusal :=
  .next (writeScalar s path Key.DICT_CONFIG_DONE value)

def execDiagResetWarm (path : Path) (s : State) : Host.Outcome State Fault Refusal :=
  .next (writeScalar s path Key.DIAG_RESET 1)

def execDiagResetCold (path : Path) (s : State) : Host.Outcome State Fault Refusal :=
  .next (writeScalar s path Key.DIAG_RESET 2)

def execPowerRequestActive (path : Path) (s : State) : Host.Outcome State Fault Refusal :=
  .next (writeScalar s path Key.POWER_REQUEST 0)

def execPowerRequestIdle (path : Path) (s : State) : Host.Outcome State Fault Refusal :=
  .next (writeScalar s path Key.POWER_REQUEST 1)

def execPowerRequestDeepSleep (path : Path) (s : State) : Host.Outcome State Fault Refusal :=
  .next (writeScalar s path Key.POWER_REQUEST 2)

def execPowerRegionRequest (path : Path) (value : Nat) (s : State) : Host.Outcome State Fault Refusal :=
  .next (writeScalar s path Key.POWER_REGION_REQUEST value)

def execDiagBlockReturn (path : Path) (value : Nat) (s : State) : Host.Outcome State Fault Refusal :=
  .next (writeScalar s path Key.DIAG_BLOCK_RETURN value)

/-- TEST_SHUTDOWN_RUN (R410): the supply is read, and the write follows. -/
def execTestShutdownRun (path : Path) (value vinMv : Nat) (s : State) : Host.Outcome State Fault Refusal :=
  .next (writeScalar (readVin s vinMv) path Key.TEST_SHUTDOWN_RUN value)

def execQueueEnable (path : Path) (value : Nat) (s : State) : Host.Outcome State Fault Refusal :=
  .next (writeScalar s path Key.QUEUE_ENABLE value)

def execQueueDisable (path : Path) (value : Nat) (s : State) : Host.Outcome State Fault Refusal :=
  .next (writeScalar s path Key.QUEUE_DISABLE value)

def execBeltHotCacheEnable (path : Path) (value : Nat) (s : State) : Host.Outcome State Fault Refusal :=
  .next (writeScalar s path Key.BELT_HOT_CACHE_ENABLE value)

def execDiagRegionReset (path : Path) (value : Nat) (s : State) : Host.Outcome State Fault Refusal :=
  .next (writeScalar s path Key.DIAG_REGION_RESET value)

def execAedupRetrainRequest (path : Path) (value : Nat) (s : State) : Host.Outcome State Fault Refusal :=
  .next (writeScalar s path Key.AEDUP_RETRAIN_REQUEST value)

def execHemCalendarCommit (path : Path) (value : Nat) (s : State) : Host.Outcome State Fault Refusal :=
  .next (writeScalar s path Key.HEM_CALENDAR_COMMIT value)

def execHemBeatPeriod (path : Path) (value : Nat) (s : State) : Host.Outcome State Fault Refusal :=
  .next (writeScalar s path Key.HEM_BEAT_PERIOD value)

def execHemBeatSource (path : Path) (value : Nat) (s : State) : Host.Outcome State Fault Refusal :=
  .next (writeScalar s path Key.HEM_BEAT_SOURCE value)

def execDiagFlashFormat (path : Path) (value : Nat) (s : State) : Host.Outcome State Fault Refusal :=
  .next (writeScalar s path Key.DIAG_FLASH_FORMAT value)

def execSecKeyLoad (path : Path) (value : Nat) (s : State) : Host.Outcome State Fault Refusal :=
  .next (writeScalar s path Key.SEC_KEY_LOAD value)

def execSecKeyClear (path : Path) (value : Nat) (s : State) : Host.Outcome State Fault Refusal :=
  .next (writeScalar s path Key.SEC_KEY_CLEAR value)

def execSecAttestNonce (path : Path) (value : Nat) (s : State) : Host.Outcome State Fault Refusal :=
  .next (writeScalar s path Key.SEC_ATTEST_NONCE value)

def execPerfSampleRelease (path : Path) (buffer value : Nat) (s : State) : Host.Outcome State Fault Refusal :=
  .next (if buffer < 5 then writeScalar s path (Key.PERF_SAMPLE_RELEASE buffer) value else s)

def execPelganJobWrite (path : Path) (job value : Nat) (s : State) : Host.Outcome State Fault Refusal :=
  .next (if job < 255 then writeScalar s path (Key.PELGAN_JOB job) value else s)

/-- PELGAN_CTX_JOB (R354): a write of one context's binding. -/
def execPelganCtxJob (path : Path) (ctx job : Nat) (s : State) : Host.Outcome State Fault Refusal :=
  .next (if ctx < 4096 then writeOn s path Key.PELGAN_CTX_JOB (2 * ctx) 2 job else s)

/-! ### The mailbox (R338, R339, Table 16.9) -/

/-- The request in the mailbox page. -/
def mailboxRequest (s : State) (number : Nat) : Request :=
  let h := memNat s.dict.mailbox 0 8
  let len := field h 16 16
  ⟨.mailbox, number, 0, field h 0 8, field h 8 8, field h 32 8, field h 40 24, memNat s.dict.mailbox 8 4, len,
    memNat s.dict.mailbox 0x100 (Nat.min len 3840)⟩

/-- MAILBOX_TRIGGER: a write to TRIGGER starts one request, or is an overrun. -/
def mailboxTrigger (s : State) (number : Nat) : State :=
  let n := number % 2 ^ 32
  if s.aedup.link.state != .active || n == 0 then s else byMailbox s (mailboxRequest s n)

def execMailboxTrigger (number : Nat) (s : State) : Host.Outcome State Fault Refusal := .next (mailboxTrigger s number)

/-- An access is malformed (R338): not one word or one aligned pair, in a reserved range, on a reserved word of the
doorbell page, or of eight bytes there. -/
def mmioBad (offset words : Nat) : Bool :=
  let mailbox : Bool := offset < 0x18 || (0x100 ≤ offset && offset < 0x1000)
  let door : Bool := 0x100000 ≤ offset && offset < 0x104000
  !((words == 1 && offset % 4 == 0) || (words == 2 && offset % 8 == 0)) || !(mailbox || door) ||
    (door && (words == 2 || offset % 8 != 0))

/-- A word of the mailbox page is written: DONE, STATUS and RLENGTH are read only, and TRIGGER starts a request. -/
def mailboxWord (s : State) (offset v : Nat) : State :=
  if offset == 0x00C then mailboxTrigger s v
  else if offset == 0x010 || offset == 0x014 then s
  else { s with dict := { s.dict with mailbox := memPutNat s.dict.mailbox offset 4 v } }

/-- MMIO_WR: a write in the device window; those of the doorbell page are doorbells. -/
def mmioWr (s : State) (offset words v : Nat) : State :=
  if s.aedup.link.state != .active then s
  else if mmioBad offset words then bump s Key.AEDUP_MMIO_ERRORS 1
  else if 0x100000 ≤ offset then
    let n := (offset - 0x100000) / 16
    if offset % 16 == 0 then submissionDoorbell s n (v % 2 ^ 32) else completionDoorbell s n (v % 2 ^ 32)
  else
    let s1 := mailboxWord s offset (v % 2 ^ 32)
    if words == 2 then mailboxWord s1 (offset + 4) (v / 2 ^ 32 % 2 ^ 32) else s1

def execMmioWr (offset words value : Nat) (s : State) : Host.Outcome State Fault Refusal :=
  .next (mmioWr s offset words value)

/-- What a read of the device window returns: TRIGGER is write-only and the doorbells are not said to hold anything that
can be read, so they read as zeros. -/
def mmioValue (s : State) (offset words : Nat) : Nat :=
  if 0x100000 ≤ offset then 0
  else
    let v := memNat s.dict.mailbox offset (4 * words)
    if offset == 0x008 then v % 2 ^ 32 else if offset == 0x00C then 0 else v

/-- MMIO_RD. -/
def mmioRd (s : State) (tag offset words : Nat) : State :=
  if s.aedup.link.state != .active then s
  else if mmioBad offset words then send (bump s Key.AEDUP_MMIO_ERRORS 1) (.mmioData tag 0)
  else send s (.mmioData tag (mmioValue s offset words))

def execMmioRd (tag offset words : Nat) (s : State) : Host.Outcome State Fault Refusal :=
  .next (mmioRd s tag offset words)

/-! ### DICT_REQ and DICT_RSP (R358) -/

/-- The request that a DICT_REQ carries: `fields` is the word at 0x000 of Table 16.9. -/
def dictRequest (source tag fields offset data : Nat) : Request :=
  ⟨.dictReq, tag, source, field fields 0 8, field fields 8 8, field fields 32 8, field fields 40 24, offset,
    field fields 16 16, data⟩

/-- DICT_REQ: the manager, device 0, is served; another device's request is refused. -/
def dictReq (s : State) (source tag fields offset data : Nat) : State :=
  let q := dictRequest source tag fields offset data
  if !s.pelgan.links.any (fun l => l.2.state == .active) then s
  else if source == 0 && isWorker s then arrive s q
  else completeRequest s q Code.BAD_FIELD 0 0

def execDictReq (source tag fields : Nat) (offset data : Nat) (s : State) : Host.Outcome State Fault Refusal :=
  .next (dictReq s source tag fields offset data)

/-- DICT_RSP: a worker's answer comes to the manager. -/
def execDictRsp (tag status rlength data : Nat) (s : State) : Host.Outcome State Fault Refusal :=
  .next (if reg s Key.HEM_ROLE == 1 then { s with dict := { s.dict with answer := some (tag, status, rlength, data) } } else s)

/-! ### The management port (R368 to R371, Table 18.8) -/

/-- A datagram is discarded (R370); `ours` tells that it is sent to the device's own address. -/
def datagramBad (source : Nat) (ours : Bool) (size header : Nat) : Bool :=
  let op := field header 64 8
  source / 2 ^ 118 != 0x3FA || !ours || size < 16 || op == 3 ||
    (op == 2 && size != 16 + field header 16 16) || (op == 1 && size != 16)

/-- The request that a datagram carries. -/
def datagramRequest (source header data : Nat) : Request :=
  ⟨.mgmt, field header 96 32, source, field header 0 8, field header 8 8, field header 64 8, field header 72 24,
    field header 32 32, field header 16 16, data⟩

/-- MGMT_DATAGRAM: discarded, answered from the replies kept, or served. -/
def mgmtDatagram (s : State) (source : Nat) (ours : Bool) (size header data : Nat) : State :=
  if !pathOpen s .mgmt then s
  else if datagramBad source ours size header then bump s Key.MGMT_DISCARDS 1
  else
    let s1 := bump s Key.MGMT_REQUESTS 1
    match s.dict.replay.find? (fun p => p.1 == source && p.2.1 == field header 96 32) with
    | some (_, _, p) => sendMgmt (bump s1 Key.MGMT_REPLAYED 1) p
    | none => arrive s1 (datagramRequest source header data)

def execMgmtDatagram (source : Nat) (ours : Bool) (size header : Nat) (data : Nat) (s : State) :
    Host.Outcome State Fault Refusal := .next (mgmtDatagram s source ours size header data)

/-- The link-local address formed from MGMT.MAC by the modified EUI-64 rule. -/
def linkLocal (s : State) : Nat :=
  let mac := reg s Key.MGMT_MAC
  0xFE80 * 2 ^ 112 + ((field mac 24 24 ^^^ 0x020000) * 2 ^ 40 + 0xFFFE * 2 ^ 24 + field mac 0 24)

/-- NEIGHBOUR_SOLICITATION (R368): answered for the device's own address. -/
def execNeighbourSolicitation (s : State) : Host.Outcome State Fault Refusal :=
  .next (if pathOpen s .mgmt then send s (.neighbourAdvert (linkLocal s)) else s)

/-! ### Replies to device reads (R334, R335) -/

/-- DATA_NC: a DATA_NC or, with `shared`, a DATA_S reply serves its read; a dictionary request that waits for the line goes
on. -/
def dataNc (s : State) (tag : Nat) (shared : Bool) (data : Nat) : State :=
  if s.aedup.link.state != .active then s
  else match tabGet s.aedup.reads tag with
    | some q => resumeDict (landLine s tag q shared data)
    | none => s

def execDataNc (tag : Nat) (shared : Bool) (data : Nat) (s : State) : Host.Outcome State Fault Refusal :=
  .next (dataNc s tag shared data)

/-- A command's line was answered with DATA_ERR. -/
def badLine (s : State) (id line : Nat) : State :=
  match tabGet s.jobs id with
  | some j =>
    if tellsWhere j.opcode && openJob j then
      updJob { s with mem := { s.mem with compBad := insertUp (line / 128) s.mem.compBad } } id
        (fun j => { j with reads := j.reads - 1 })
    else endJob s id Code.ECC_UNCORRECTABLE
  | none => s

/-- DATA_ERR: the command that reads completes with ECC_UNCORRECTABLE, unless its context's tag has changed; so does a
dictionary request. -/
def dataErr (s : State) (tag : Nat) : State :=
  match tabGet s.aedup.reads tag with
  | some q =>
    let s1 := { s with aedup := { s.aedup with reads := tabDel s.aedup.reads tag } }
    match q.for_ with
    | .job id =>
      if (ctxOf s q.ctx).genTag != q.genTag then bump s1 Key.RESET_STALE_REPLIES 1
      else badLine s1 id q.line
    | .dict => match s1.dict.waiting with
      | some (r, _) =>
        resumeDict (completeRequest { s1 with dict := { s1.dict with waiting := none } } r Code.ECC_UNCORRECTABLE 0 0)
      | none => s1
    | _ => s1
  | none => s

def execDataErr (tag : Nat) (s : State) : Host.Outcome State Fault Refusal :=
  .next (if s.aedup.link.state == .active then dataErr s tag else s)

end Sys2Proof.Machine
end

