-- ==== Sys2Proof/Machine/Admission.lean ====
section
/-! DEFINITION. Admission (chapter 3): the opcodes, the weighted round robin of a region sequencer, the checks of R57,
and the commands NOP and CANCEL. -/

namespace Sys2Proof.Machine

/-! ### The assigned opcodes (Table 3.3) -/

/-- NOP uses no PARAMS field (R59). -/
def nopSpec : CmdSpec where
  used _ := 0
  check _ _ _ := Code.OK
  noop := noZero
  atAdmission := noAdmit

/-- CANCEL uses TARGET_ID and TARGET_QUEUE. -/
def cancelSpec : CmdSpec where
  used _ := usedBits [(79, 64), (95, 80)]
  check _ _ _ := Code.OK
  noop := noZero
  atAdmission := noAdmit

/-- What admission needs to know of each assigned opcode. -/
def opcodeSpecs : Tab CmdSpec :=
  [(Op.NOP, nopSpec), (Op.CANCEL, cancelSpec), (Op.WRITE_PASSAGES, writePassagesSpec),
   (Op.WRITE_VECTORS, writeVectorsSpec), (Op.WRITE_SKETCHES, writeSketchesSpec), (Op.DELETE, deleteSpec),
   (Op.PUBLISH, publishSpec), (Op.FLUSH, flushSpec), (Op.TRIM, trimSpec), (Op.CTX_ALLOC, ctxAllocSpec),
   (Op.CTX_FREE, ctxFreeSpec), (Op.CTX_MODIFY, ctxModifySpec), (Op.CTX_PREEMPT, ctxPreemptSpec),
   (Op.CTX_SAVE, ctxSaveSpec), (Op.CTX_RESTORE, ctxRestoreSpec), (Op.CTX_BUFFER, ctxBufferSpec),
   (Op.WARDROBE_REGISTER, wardrobeRegisterSpec), (Op.WARDROBE_RELEASE, wardrobeReleaseSpec),
   (Op.CTX_QUERY, ctxQuerySpec), (Op.LACE_VOCAB_LOAD, laceVocabLoadSpec), (Op.LACE_VOCAB_UNLOAD, laceVocabUnloadSpec),
   (Op.LACE_ENCODE, laceEncodeSpec), (Op.LACE_DECODE, laceDecodeSpec)] ++
  [(Op.INDEX_CREATE, indexCreateSpec), (Op.INDEX_DROP, indexDropSpec), (Op.INDEX_STATUS, indexStatusSpec),
   (Op.SEARCH, searchSpec), (Op.RERANK, rerankSpec), (Op.RECALL_PROBE, recallProbeSpec), (Op.TOPK, topkSpec),
   (Op.MERGE, mergeSpec), (Op.BELT_TABLE_CREATE, beltTableCreateSpec), (Op.BELT_TABLE_REPLACE, beltTableReplaceSpec),
   (Op.BELT_TABLE_DROP, beltTableDropSpec), (Op.BELT_GATHER, beltGatherSpec), (Op.POCKET_FILL, pocketFillSpec),
   (Op.POCKET_COPY, pocketCopySpec), (Op.POCKET_CONFIG, pocketConfigSpec), (Op.CROSS_RERANK, crossRerankSpec),
   (Op.PACK, packSpec), (Op.GEN_RUN, genRunSpec), (Op.KV_RELEASE, kvReleaseSpec), (Op.SAMPLER_SEED, samplerSeedSpec),
   (Op.RAND_FILL, randFillSpec), (Op.VEIL_LOAD, veilLoadSpec), (Op.VEIL_UNLOAD, veilUnloadSpec),
   (Op.ARRAY_RUN, arrayRunSpec), (Op.OBJ_REGISTER, objRegisterSpec), (Op.OBJ_RELEASE, objReleaseSpec),
   (Op.OBJ_SET_POLICY, objSetPolicySpec), (Op.OBJ_QUERY, objQuerySpec)]

/-- Storage commands (Table 3.5), which are not admitted while the supply fails (R70). -/
def storageOp (opcode : Nat) : Bool := Op.WRITE_PASSAGES ≤ opcode && opcode ≤ Op.TRIM

/-! ### Fields of the header (Table 3.2) -/

def entOpcode (e : Nat) : Nat := field e 0 8
def entVersion (e : Nat) : Nat := field e 8 8
def entCmdId (e : Nat) : Nat := field e 16 16
def entFence (e : Nat) : Bool := bitOf e 32
def entIntr (e : Nat) : Bool := bitOf e 33
def entNoWait (e : Nat) : Bool := bitOf e 34
def entCtx (e : Nat) : Nat := field e 48 16

/-- A reserved bit of the header or of the opcode's PARAMS is set. -/
def reservedSet (spec : CmdSpec) (e : Nat) : Bool :=
  let unused := maskOf 511 64 - (spec.used e &&& maskOf 511 64)
  e &&& (maskOf 47 35 ||| unused) != 0

/-- CONTEXT fails step 4a: CTX_ALLOC names a FREE context (R81), or one whose FAULTED state step 4b refuses; every other
command names an allocated one. -/
def contextBad (s : State) (e : Nat) : Bool :=
  let x := ctxOf s (entCtx e)
  reg s Key.CTX_MAX_CONTEXTS ≤ entCtx e ||
    if entOpcode e == Op.CTX_ALLOC then x.state != .free && x.state != .faulted else x.state == .free

/-- The checks of R57, in their order: the status with which an entry completes at once; none when it is to run. -/
def admissionCheck (s : State) (e : Nat) : Option Nat :=
  if entVersion e != 1 then some Code.VERSION_UNSUPPORTED
  else match tabGet opcodeSpecs (entOpcode e) with
    | none => some Code.BAD_OPCODE
    | some spec =>
      let faulted := (ctxOf s (entCtx e)).state == .faulted
      let st := firstBad
        [(reservedSet spec e, Code.RESERVED_NONZERO),
         (contextBad s e, Code.BAD_FIELD),
         (faulted && entOpcode e != Op.CTX_FREE && entOpcode e != Op.CTX_QUERY, Code.CTX_FAULT)]
      if st != Code.OK then some st
      else
        let c := spec.check s (entCtx e) e
        if c != Code.OK then some c
        else if spec.noop e then some Code.OK_NOOP
        else none

/-! ### What holds an entry in its ring -/

/-- The companion address of a queue's next submission entry, and the line that holds it. -/
def headAddr (q : Queue) : Nat := q.sqBase + 64 * q.sqHead
def headLine (q : Queue) : Nat := headAddr q / 128 * 128

/-- The next submission entry of a queue, as the device has read it. -/
def headEntry (s : State) (q : Queue) : Nat := memNat s.mem.comp (headAddr q) 64

/-- A queue has an admitted command whose completion has not been written. -/
def queueBusy (s : State) (n : Nat) : Bool := s.jobs.any (fun p => p.2.queue == n && !p.2.lost)

/-- No slot of the queue's completion ring is free and unreserved (R59). -/
def ringFull (s : State) (n : Nat) (q : Queue) : Bool :=
  2 ^ q.cqLog ≤ q.unread + (s.jobs.filter (fun p => p.2.queue == n && !p.2.lost)).length

/-- No command slot is free (R59). -/
def slotsFull (s : State) : Bool := reg s Key.QUEUE_COMMAND_SLOTS ≤ slotsInUse s

/-- An entry waits in its ring: behind its fence (R63), for the other commands of the context that it frees (R82), while the
supply fails (R70), or for a completion or a command slot (R59). -/
def entryHeld (s : State) (n : Nat) (q : Queue) (e : Nat) : Bool :=
  (entFence e && queueBusy s n) ||
  (entOpcode e == Op.CTX_FREE && s.jobs.any (fun p => p.2.ctx == entCtx e)) ||
  (storageOp (entOpcode e) && powerFailing s) ||
  ringFull s n q ||
  (slotsFull s && !entNoWait e)

/-- A region sequencer admits: the device runs, is in no sleep state and on no way into one, no shut-down test has begun,
and the region is not being reset (R71, R398, R410). -/
def admits (s : State) (r : Nat) : Bool :=
  running s && s.power.level == 0 && s.power.entering.isNone && s.test.shutdown == 0 && !s.chip.closed.contains r

/-- The queues of a region with entries waiting (R55). -/
def waitingQueues (s : State) (r : Nat) : List (Nat × Queue) :=
  s.queues.filter (fun p => p.1 % 4 == r && !p.2.draining && p.2.sqHead != p.2.sqTail)

/-- Of those, the ones whose entry is at hand and can be admitted. -/
def readyQueues (s : State) (r : Nat) : List (Nat × Queue) :=
  (waitingQueues s r).filter (fun p => p.2.cached && lineHeld s (headLine p.2) && !entryHeld s p.1 p.2 (headEntry s p.2))

/-- What the region still lacks is asked for: table entries and lines of rings. -/
def wantHeads (s : State) (r : Nat) : State :=
  (waitingQueues s r).foldl (fun t p =>
    if p.2.cached then wantLine t (headLine p.2) (.ring p.1) else wantTable t p.1) s

/-- A new round offers each queue of the region PRIORITY + 1 admissions. -/
def newRound (s : State) (r : Nat) : State :=
  { s with queues := tabMap s.queues (fun n q => if n % 4 == r then { q with credit := q.priority + 1 } else q) }

/-! ### Admission -/

/-- A command takes its place among the admitted: its starting beat is set, what it pins is pinned, and its context waits
for placement if it needs it (R22, R62). -/
def admitCommand (s : State) (n : Nat) (q : Queue) (e : Nat) (spec : CmdSpec) : State :=
  let c := entCtx e
  let id := s.jobNext
  let j : Job := {
    queue := n, cmdId := entCmdId e, ctx := c, opcode := entOpcode e, entry := e, client := q.client, intr := entIntr e,
    start := dueBeat s, genTag := (ctxOf s c).genTag, pin := 0 }
  let s1 := { s with jobs := tabSet s.jobs id j, jobNext := id + 1 }
  let s2 := countRegion s1 (n % 4) 0x204 1 { inst := n % 4, instr := entCmdId e }
  let s3 := if s.hem.sealed then
      countRegion (bump s2 Key.HEM_PLAN_SEAL_MISSES 1) (n % 4) 0x203 1 { inst := n % 4, instr := entCmdId e }
    else s2
  let s4 := spec.atAdmission s3 id
  match tabGet s4.jobs id with
  | some k =>
    let x := ctxOf s4 c
    if openJob k && jobNeedsPlacement k && x.state == .idle then setCtx s4 c { x with state := .waiting, waitBeats := 0 }
    else s4
  | none => s4

/-- An entry is read from its ring and checked.  One whose context entry finds no room in the cache stays. -/
def admitFrom (s : State) (n : Nat) (q : Queue) : State :=
  let e := headEntry s q
  let q1 := { q with sqHead := (q.sqHead + 1) % 2 ^ q.sqLog, lastUse := s.jobNext, credit := q.credit - 1 }
  let s1 := bump { useLine s (headLine q) with queues := tabSet s.queues n q1 } (Key.CLIENT_SUBMITTED q.client) 1
  let complete (t : State) (st : Nat) : State :=
    settleDrains (writeCompletion (chargeFinal t q.client st) n (entCmdId e) st 0 (entIntr e))
  if slotsFull s then complete s1 Code.QUEUE_FULL
  else match admissionCheck s e with
    | some st => complete s1 st
    | none => match cacheCtx s1 (entCtx e) s.jobNext, tabGet opcodeSpecs (entOpcode e) with
      | some s2, some spec => admitCommand s2 n q1 e spec
      | _, _ => s

/-- COMMAND_ADMISSION: region `r` asks for what it lacks and admits the next entry, by weighted round robin (R55). -/
def commandAdmission (s : State) (r : Nat) : State :=
  if r < 4 && admits s r then
    let s1 := wantHeads s r
    match (readyQueues s1 r).find? (fun p => p.2.credit != 0) with
    | some (n, q) => admitFrom s1 n q
    | none =>
      let s2 := newRound s1 r
      match (readyQueues s2 r).head? with
      | some (n, q) => admitFrom s2 n q
      | none => s1
  else s

def execCommandAdmission (region : Nat) (s : State) : Host.Outcome State Fault Refusal := .next (commandAdmission s region)

/-! ### NOP and CANCEL (R59, R64) -/

def nopBody (s : State) (id : Nat) (_ : Job) : State := finish s id Code.OK 0

def execNop (job : Nat) (s : State) : Host.Outcome State Fault Refusal := .next (runJob s job Op.NOP noSources nopBody)

/-- The command that a CANCEL names: the earliest admitted of those with the identifier that are not completed. -/
def cancelTarget (s : State) (id queue cmdId : Nat) : Option (Nat × Job) :=
  s.jobs.find? (fun p => p.1 != id && p.2.queue == queue && p.2.cmdId == cmdId && !p.2.lost && openJob p.2)

/-- A command that a CANCEL leaves alone: PUBLISH and FLUSH, and a command of a context in teardown (R64, Table 20.6). -/
def uncancellable (s : State) (j : Job) : Bool :=
  j.opcode == Op.PUBLISH || j.opcode == Op.FLUSH || (ctxOf s j.ctx).state == .tearingDown

/-- CANCEL's effect: the target ends at the next beat boundary. -/
def cancelBody (s : State) (id : Nat) (j : Job) : State :=
  match cancelTarget s id (param j.entry 95 80) (param j.entry 79 64) with
  | some (t, k) =>
    if uncancellable s k then finish s id Code.OK_NOOP 0
    else finish (updJob s t (fun k => { k with cancel := some (k.cancel.getD (beatNow s + 1)) })) id Code.OK 0
  | none => finish s id Code.OK_NOOP 0

/-- CANCEL (R64): it acts as soon as it is admitted, so that its target ends at the next boundary. -/
def cancelCommand (s : State) (id : Nat) : State :=
  match tabGet s.jobs id with
  | some j =>
    if running s && j.opcode == Op.CANCEL && openJob j && !s.chip.closed.contains (j.queue % 4) && ctxAllows (ctxOf s j.ctx) j
    then cancelBody s id j else s
  | none => s

def execCancel (job : Nat) (s : State) : Host.Outcome State Fault Refusal := .next (cancelCommand s job)

end Sys2Proof.Machine
end

