-- ==== Sys2Proof/Machine/Dispatch.lean ====
section
/-! DEFINITION. One arm per command: each is one direct call of its meaning. -/

namespace Sys2Proof.Machine

def exec (i : Instr) (s : State) : Host.Outcome State Fault Refusal :=
  match i with
  | .powerOn => Sys2Proof.Machine.execPowerOn s
  | .eepromRead ok => Sys2Proof.Machine.execEepromRead ok s
  | .eepromReadRetry => Sys2Proof.Machine.execEepromReadRetry s
  | .longTestLimitCheck vinMv => Sys2Proof.Machine.execLongTestLimitCheck vinMv s
  | .longTestEnd failedBlocks pelganLanes aedupLanes failedChecks => Sys2Proof.Machine.execLongTestEnd failedBlocks pelganLanes aedupLanes failedChecks s
  | .hbmTrain stack rate => Sys2Proof.Machine.execHbmTrain stack rate s
  | .flashChannelTrain channel rates luns blocks stripes bad meets => Sys2Proof.Machine.execFlashChannelTrain channel rates luns blocks stripes bad meets s
  | .flashTierRebuild metadata => Sys2Proof.Machine.execFlashTierRebuild metadata s
  | .trainEnd => Sys2Proof.Machine.execTrainEnd s
  | .dictConfigDone path value => Sys2Proof.Machine.execDictConfigDone path value s
  | .coldRstN => Sys2Proof.Machine.execColdRstN s
  | .warmRstN => Sys2Proof.Machine.execWarmRstN s
  | .diagResetWarm path => Sys2Proof.Machine.execDiagResetWarm path s
  | .diagResetCold path => Sys2Proof.Machine.execDiagResetCold path s
  | .pwrFailNFall => Sys2Proof.Machine.execPwrFailNFall s
  | .pwrFailNRise => Sys2Proof.Machine.execPwrFailNRise s
  | .powerError row => Sys2Proof.Machine.execPowerError row s
  | .thermalRead hottest => Sys2Proof.Machine.execThermalRead hottest s
  | .aclkStep => Sys2Proof.Machine.execAclkStep s
  | .aclkChangeEnd => Sys2Proof.Machine.execAclkChangeEnd s
  | .idleRequest block => Sys2Proof.Machine.execIdleRequest block s
  | .idleGrant block elapsedNs => Sys2Proof.Machine.execIdleGrant block elapsedNs s
  | .collarAdmission block waitNs elapsedNs => Sys2Proof.Machine.execCollarAdmission block waitNs elapsedNs s
  | .rampEnd block => Sys2Proof.Machine.execRampEnd block s
  | .regionWakeStage region => Sys2Proof.Machine.execRegionWakeStage region s
  | .powerRequestActive path => Sys2Proof.Machine.execPowerRequestActive path s
  | .powerRequestIdle path => Sys2Proof.Machine.execPowerRequestIdle path s
  | .powerRequestDeepSleep path => Sys2Proof.Machine.execPowerRequestDeepSleep path s
  | .powerRegionRequest path value => Sys2Proof.Machine.execPowerRegionRequest path value s
  | .powerStateReached => Sys2Proof.Machine.execPowerStateReached s
  | .beatBoundary alignNs late => Sys2Proof.Machine.execBeatBoundary alignNs late s
  | .beatInEdge sinceBoundary sinceEdge late => Sys2Proof.Machine.execBeatInEdge sinceBoundary sinceEdge late s
  | .holdoverBoundary late => Sys2Proof.Machine.execHoldoverBoundary late s
  | .beatFlitSend => Sys2Proof.Machine.execBeatFlitSend s
  | .beatFlit port beat period remaining formation => Sys2Proof.Machine.execBeatFlit port beat period remaining formation s
  | .maskReady => Sys2Proof.Machine.execMaskReady s
  | .sample => Sys2Proof.Machine.execSample s
  | .tokenCommit => Sys2Proof.Machine.execTokenCommit s
  | .veilMaskFetchDone job state cached => Sys2Proof.Machine.execVeilMaskFetchDone job state cached s
  | .planSeal => Sys2Proof.Machine.execPlanSeal s
  | .counterSnapshot => Sys2Proof.Machine.execCounterSnapshot s
  | .preemptWindow entry => Sys2Proof.Machine.execPreemptWindow entry s
  | .selftestWindow entry => Sys2Proof.Machine.execSelftestWindow entry s
  | .sliceStart region remainingNs vinMv => Sys2Proof.Machine.execSliceStart region remainingNs vinMv s
  | .slicePartEnd block ok => Sys2Proof.Machine.execSlicePartEnd block ok s
  | .sliceLimitCheck block vinMv => Sys2Proof.Machine.execSliceLimitCheck block vinMv s
  | .diagBlockReturn path value => Sys2Proof.Machine.execDiagBlockReturn path value s
  | .testShutdownRun path value vinMv => Sys2Proof.Machine.execTestShutdownRun path value vinMv s
  | .shutdownTestProgress failedBlocks pelganLanes aedupLanes notRun failedChecks => Sys2Proof.Machine.execShutdownTestProgress failedBlocks pelganLanes aedupLanes notRun failedChecks s
  | .tapBypass => Sys2Proof.Machine.execTapBypass s
  | .tapIdcode => Sys2Proof.Machine.execTapIdcode s
  | .tapSamplePreload => Sys2Proof.Machine.execTapSamplePreload s
  | .tapRefusedInstruction => Sys2Proof.Machine.execTapRefusedInstruction s
  | .testEnter => Sys2Proof.Machine.execTestEnter s
  | .submissionDoorbell queue value => Sys2Proof.Machine.execSubmissionDoorbell queue value s
  | .completionDoorbell queue value => Sys2Proof.Machine.execCompletionDoorbell queue value s
  | .queueTableFetch queue => Sys2Proof.Machine.execQueueTableFetch queue s
  | .commandAdmission region => Sys2Proof.Machine.execCommandAdmission region s
  | .commandCompletion job => Sys2Proof.Machine.execCommandCompletion job s
  | .queueEnable path value => Sys2Proof.Machine.execQueueEnable path value s
  | .queueDisable path value => Sys2Proof.Machine.execQueueDisable path value s
  | .nop job => Sys2Proof.Machine.execNop job s
  | .cancel job => Sys2Proof.Machine.execCancel job s
  | .writePassages job => Sys2Proof.Machine.execWritePassages job s
  | .writeVectors job => Sys2Proof.Machine.execWriteVectors job s
  | .writeSketches job => Sys2Proof.Machine.execWriteSketches job s
  | .delete job => Sys2Proof.Machine.execDelete job s
  | .publish job copyGood => Sys2Proof.Machine.execPublish job copyGood s
  | .flush job => Sys2Proof.Machine.execFlush job s
  | .trim job => Sys2Proof.Machine.execTrim job s
  | .ctxAlloc job => Sys2Proof.Machine.execCtxAlloc job s
  | .ctxFree job => Sys2Proof.Machine.execCtxFree job s
  | .ctxModify job => Sys2Proof.Machine.execCtxModify job s
  | .ctxPreempt job => Sys2Proof.Machine.execCtxPreempt job s
  | .ctxSave job => Sys2Proof.Machine.execCtxSave job s
  | .ctxRestore job => Sys2Proof.Machine.execCtxRestore job s
  | .ctxBuffer job => Sys2Proof.Machine.execCtxBuffer job s
  | .wardrobeRegister job => Sys2Proof.Machine.execWardrobeRegister job s
  | .wardrobeRelease job => Sys2Proof.Machine.execWardrobeRelease job s
  | .ctxQuery job => Sys2Proof.Machine.execCtxQuery job s
  | .wardrobeLoad model => Sys2Proof.Machine.execWardrobeLoad model s
  | .cloakSaveDone ctx ok => Sys2Proof.Machine.execCloakSaveDone ctx ok s
  | .cloakRestoreDone ctx ok => Sys2Proof.Machine.execCloakRestoreDone ctx ok s
  | .npBoundExceeded ctx => Sys2Proof.Machine.execNpBoundExceeded ctx s
  | .arrayRun job => Sys2Proof.Machine.execArrayRun job s
  | .sequencerNop job stream => Sys2Proof.Machine.execSequencerNop job stream s
  | .matmul job stream error => Sys2Proof.Machine.execMatmul job stream error s
  | .drain job stream error => Sys2Proof.Machine.execDrain job stream error s
  | .accLoad job stream error => Sys2Proof.Machine.execAccLoad job stream error s
  | .barrier job stream => Sys2Proof.Machine.execBarrier job stream s
  | .endStream job stream => Sys2Proof.Machine.execEndStream job stream s
  | .channelWindowClaim job stream => Sys2Proof.Machine.execChannelWindowClaim job stream s
  | .remoteWindowClaim job stream => Sys2Proof.Machine.execRemoteWindowClaim job stream s
  | .windowTimeout job stream waited => Sys2Proof.Machine.execWindowTimeout job stream waited s
  | .pocketRemoteAccess ctx block row byte words write data => Sys2Proof.Machine.execPocketRemoteAccess ctx block row byte words write data s
  | .pocketFill job => Sys2Proof.Machine.execPocketFill job s
  | .pocketCopy job uncorrectable => Sys2Proof.Machine.execPocketCopy job uncorrectable s
  | .pocketConfig job => Sys2Proof.Machine.execPocketConfig job s
  | .objRegister job => Sys2Proof.Machine.execObjRegister job s
  | .objRelease job => Sys2Proof.Machine.execObjRelease job s
  | .objSetPolicy job => Sys2Proof.Machine.execObjSetPolicy job s
  | .objQuery job => Sys2Proof.Machine.execObjQuery job s
  | .moveSwitch unit => Sys2Proof.Machine.execMoveSwitch unit s
  | .moveAbandon unit => Sys2Proof.Machine.execMoveAbandon unit s
  | .backgroundFlush channel => Sys2Proof.Machine.execBackgroundFlush channel s
  | .stripeProgramComplete stripe ok => Sys2Proof.Machine.execStripeProgramComplete stripe ok s
  | .flashReadComplete job addr level bits => Sys2Proof.Machine.execFlashReadComplete job addr level bits s
  | .garbageCollection channel lun => Sys2Proof.Machine.execGarbageCollection channel lun s
  | .wearLevelling channel lun => Sys2Proof.Machine.execWearLevelling channel lun s
  | .flashPatrol stripe level bits => Sys2Proof.Machine.execFlashPatrol stripe level bits s
  | .zqCalibration channel => Sys2Proof.Machine.execZqCalibration channel s
  | .dqCheck channel ok => Sys2Proof.Machine.execDqCheck channel ok s
  | .flashBusyTimeout channel => Sys2Proof.Machine.execFlashBusyTimeout channel s
  | .channelReset channel rates => Sys2Proof.Machine.execChannelReset channel rates s
  | .hbmPatrolScrub line errors => Sys2Proof.Machine.execHbmPatrolScrub line errors s
  | .hbmTemperatureRead stack temp => Sys2Proof.Machine.execHbmTemperatureRead stack temp s
  | .stackControllerReset stack rate => Sys2Proof.Machine.execStackControllerReset stack rate s
  | .laceVocabLoad job => Sys2Proof.Machine.execLaceVocabLoad job s
  | .laceVocabUnload job => Sys2Proof.Machine.execLaceVocabUnload job s
  | .laceEncode job => Sys2Proof.Machine.execLaceEncode job s
  | .laceDecode job => Sys2Proof.Machine.execLaceDecode job s
  | .indexCreate job => Sys2Proof.Machine.execIndexCreate job s
  | .indexDrop job => Sys2Proof.Machine.execIndexDrop job s
  | .indexStatus job => Sys2Proof.Machine.execIndexStatus job s
  | .search job => Sys2Proof.Machine.execSearch job s
  | .rerank job => Sys2Proof.Machine.execRerank job s
  | .recallProbe job => Sys2Proof.Machine.execRecallProbe job s
  | .cuffPass cuff => Sys2Proof.Machine.execCuffPass cuff s
  | .compaction index list => Sys2Proof.Machine.execCompaction index list s
  | .topk job => Sys2Proof.Machine.execTopk job s
  | .merge job => Sys2Proof.Machine.execMerge job s
  | .beltTableCreate job => Sys2Proof.Machine.execBeltTableCreate job s
  | .beltTableReplace job => Sys2Proof.Machine.execBeltTableReplace job s
  | .beltTableDrop job => Sys2Proof.Machine.execBeltTableDrop job s
  | .beltGather job => Sys2Proof.Machine.execBeltGather job s
  | .beltHotCacheEnable path value => Sys2Proof.Machine.execBeltHotCacheEnable path value s
  | .crossRerank job => Sys2Proof.Machine.execCrossRerank job s
  | .pack job => Sys2Proof.Machine.execPack job s
  | .genRun job => Sys2Proof.Machine.execGenRun job s
  | .kvRelease job => Sys2Proof.Machine.execKvRelease job s
  | .samplerSeed job => Sys2Proof.Machine.execSamplerSeed job s
  | .randFill job => Sys2Proof.Machine.execRandFill job s
  | .veilLoad job => Sys2Proof.Machine.execVeilLoad job s
  | .veilUnload job => Sys2Proof.Machine.execVeilUnload job s
  | .teardownDrainEnd ctx => Sys2Proof.Machine.execTeardownDrainEnd ctx s
  | .drainTimeout ctx writes unit inst => Sys2Proof.Machine.execDrainTimeout ctx writes unit inst s
  | .contextWatchdog ctx => Sys2Proof.Machine.execContextWatchdog ctx s
  | .progressMonitor unit inst job => Sys2Proof.Machine.execProgressMonitor unit inst job s
  | .regionReset region ok => Sys2Proof.Machine.execRegionReset region ok s
  | .diagRegionReset path value => Sys2Proof.Machine.execDiagRegionReset path value s
  | .regionResetTimeout region => Sys2Proof.Machine.execRegionResetTimeout region s
  | .aedupReadTimeout tag => Sys2Proof.Machine.execAedupReadTimeout tag s
  | .linkTrainRetry link => Sys2Proof.Machine.execLinkTrainRetry link s
  | .linkTrainingStateEnd link lanesLow lanesHigh latency => Sys2Proof.Machine.execLinkTrainingStateEnd link lanesLow lanesHigh latency s
  | .linkStateTimeout link => Sys2Proof.Machine.execLinkStateTimeout link s
  | .capabilityResend link => Sys2Proof.Machine.execCapabilityResend link s
  | .aedupCapability capability => Sys2Proof.Machine.execAedupCapability capability s
  | .pelganCapability port capability => Sys2Proof.Machine.execPelganCapability port capability s
  | .flitReceive link corrected crcOk tagOk header messages => Sys2Proof.Machine.execFlitReceive link corrected crcOk tagOk header messages s
  | .nak link ack => Sys2Proof.Machine.execNak link ack s
  | .ackStall link => Sys2Proof.Machine.execAckStall link s
  | .linkRetrainEnd link lanesLow lanesHigh => Sys2Proof.Machine.execLinkRetrainEnd link lanesLow lanesHigh s
  | .aedupRetrainRequest path value => Sys2Proof.Machine.execAedupRetrainRequest path value s
  | .dataNc tag shared data => Sys2Proof.Machine.execDataNc tag shared data s
  | .dataErr tag => Sys2Proof.Machine.execDataErr tag s
  | .snpInv addr => Sys2Proof.Machine.execSnpInv addr s
  | .mmioRd tag offset words => Sys2Proof.Machine.execMmioRd tag offset words s
  | .mmioWr offset words value => Sys2Proof.Machine.execMmioWr offset words value s
  | .mailboxTrigger number => Sys2Proof.Machine.execMailboxTrigger number s
  | .registerWrite path key offset length value => Sys2Proof.Machine.execRegisterWrite path key offset length value s
  | .hemCalendarCommit path value => Sys2Proof.Machine.execHemCalendarCommit path value s
  | .hemBeatPeriod path value => Sys2Proof.Machine.execHemBeatPeriod path value s
  | .hemBeatSource path value => Sys2Proof.Machine.execHemBeatSource path value s
  | .diagFlashFormat path value => Sys2Proof.Machine.execDiagFlashFormat path value s
  | .secKeyLoad path value => Sys2Proof.Machine.execSecKeyLoad path value s
  | .secKeyClear path value => Sys2Proof.Machine.execSecKeyClear path value s
  | .secAttestNonce path value => Sys2Proof.Machine.execSecAttestNonce path value s
  | .perfSampleRelease path buffer value => Sys2Proof.Machine.execPerfSampleRelease path buffer value s
  | .skidSample event inst count => Sys2Proof.Machine.execSkidSample event inst count s
  | .pelganJobWrite path job value => Sys2Proof.Machine.execPelganJobWrite path job value s
  | .pelganCtxJob path ctx job => Sys2Proof.Machine.execPelganCtxJob path ctx job s
  | .hello port capability priority serial => Sys2Proof.Machine.execHello port capability priority serial s
  | .managerDeclare serials cables latency => Sys2Proof.Machine.execManagerDeclare serials cables latency s
  | .assign port device formation manager members children => Sys2Proof.Machine.execAssign port device formation manager members children s
  | .routes routes => Sys2Proof.Machine.execRoutes routes s
  | .jobSet job entry due => Sys2Proof.Machine.execJobSet job entry due s
  | .messageForward port header => Sys2Proof.Machine.execMessageForward port header s
  | .rmtRd source job gen tag descriptor => Sys2Proof.Machine.execRmtRd source job gen tag descriptor s
  | .rmtWr source job gen tag descriptor data => Sys2Proof.Machine.execRmtWr source job gen tag descriptor data s
  | .rmtRsp tag status data => Sys2Proof.Machine.execRmtRsp tag status data s
  | .rtErr tag dest hop => Sys2Proof.Machine.execRtErr tag dest hop s
  | .remoteTimeout tag => Sys2Proof.Machine.execRemoteTimeout tag s
  | .zipList source job gen issuer tag status entries last => Sys2Proof.Machine.execZipList source job gen issuer tag status entries last s
  | .spanStart source job gen tag entry epoch round query => Sys2Proof.Machine.execSpanStart source job gen tag entry epoch round query s
  | .dictReq source tag fields offset data => Sys2Proof.Machine.execDictReq source tag fields offset data s
  | .dictRsp tag status rlength data => Sys2Proof.Machine.execDictRsp tag status rlength data s
  | .abortFlit port flit => Sys2Proof.Machine.execAbortFlit port flit s
  | .abortRepeat => Sys2Proof.Machine.execAbortRepeat s
  | .mgmtDatagram source ours size header data => Sys2Proof.Machine.execMgmtDatagram source ours size header data s
  | .blockEraseComplete channel lun block ok => Sys2Proof.Machine.execBlockEraseComplete channel lun block ok s
  | .vddAonAbsent => Sys2Proof.Machine.execVddAonAbsent s
  | .beatInEdgeAbsent => Sys2Proof.Machine.execBeatInEdgeAbsent s
  | .quickPathEnd => Sys2Proof.Machine.execQuickPathEnd s
  | .tapReset => Sys2Proof.Machine.execTapReset s
  | .neighbourSolicitation => Sys2Proof.Machine.execNeighbourSolicitation s

end Sys2Proof.Machine
end

