-- ==== Sys2Proof/Safety.lean ====
section
/-! DEFINITION. What holds of a state in good order, and what an answer tells, in the terms that statements use. -/

namespace Sys2Proof.Machine

/-- Every byte memory is in its canonical form: addresses rising, zeros not listed. -/
def State.memWf (s : State) : Bool :=
  Machine.memWf s.mem.dev && Machine.memWf s.mem.comp && Machine.memWf s.mem.durable && Machine.memWf s.pocket &&
    Machine.memWf s.dict.mailbox

/-- The keys of a table rise, so each key is listed once. -/
def tabRising {α : Type} (t : Tab α) : Prop := (tabKeys t).Pairwise (fun a b => a < b)

/-- The admitted commands and the link ends are listed once each, in rising order. -/
def State.keysRise (s : State) : Prop := tabRising s.jobs ∧ tabRising s.pelgan.links

/-- What the factory wrote in the EEPROM (R392, R441). -/
def factoryData (s : State) : List Nat :=
  [s.eeprom.serial, s.eeprom.mac, s.eeprom.blockStep, s.eeprom.pubkey, s.eeprom.cert, s.eeprom.identity, s.eeprom.trims]

/-- The outcome of a command is decided: its status and RESULT. -/
def ends (s : State) (id status result : Nat) : Prop :=
  (tabGet s.jobs id).map Job.phase = some (.done status result)

/-- A command of an opcode is admitted and open, its beat has come, its context and its turn allow it, the regions it needs
are awake, and nothing of what it reads from companion memory is still to come (R22, R59, R463, R335): it runs. -/
def runsNow (s : State) (id opcode : Nat) (sources : State → Job → List (Nat × Nat)) (j : Job) : Bool :=
  tabGet s.jobs id == some j && eligible s j opcode && inTurn s j id && (engineRegions s j).all (regionAwake s) &&
    (j.fetched || (windowRanges (sources s j)).isEmpty) && j.reads == 0 && j.toRead.isEmpty

/-- The beat with a number has just begun: no event of it has fired, no window is open, and no flit has placed its end. -/
def beatBegins (s : State) (n : Nat) : Prop :=
  beatNow s = n % 2 ^ 64 ∧ s.hem.fired = [] ∧ s.hem.windows = [] ∧ s.hem.flit = none ∧ s.hem.announced = false

/-- The next point event of the beat: its event code and its calendar entry (R31, R39). -/
def nextEvent (s : State) (event entry : Nat) : Prop :=
  s.start ≠ .off ∧ ∃ ph, (unfired s).head? = some (ph, event, entry)

/-- The dictionary service is free on a path that is open (R364, R373). -/
def serviceFree (s : State) (p : Path) : Bool :=
  pathOpen s p && s.dict.waiting.isNone && s.dict.backlog.isEmpty && (p != .mailbox || !s.dict.mailboxBusy)

/-- The dictionary request completed last is a write of an entry on a path, with a status. -/
def wrote (s : State) (p : Path) (k status : Nat) : Prop :=
  ∃ r, s.dict.last = some r ∧ r.path = p ∧ r.op = 2 ∧ r.key = k ∧ r.status = status

/-- No work that the device holds is disturbed: its commands, contexts, queues, objects, memories, keys, power and beat stay as
they are. -/
structure Undisturbed (s t : State) : Prop where
  start : t.start = s.start
  jobs : t.jobs = s.jobs
  ctxs : t.ctxs = s.ctxs
  queues : t.queues = s.queues
  mem : t.mem = s.mem
  pocket : t.pocket = s.pocket
  acc : t.acc = s.acc
  array : t.array = s.array
  models : t.models = s.models
  vocabs : t.vocabs = s.vocabs
  grammars : t.grammars = s.grammars
  indexes : t.indexes = s.indexes
  queries : t.queries = s.queries
  belt : t.belt = s.belt
  kv : t.kv = s.kv
  gens : t.gens = s.gens
  sec : t.sec = s.sec
  power : t.power = s.power
  chip : t.chip = s.chip
  hem : t.hem = s.hem
  eeprom : t.eeprom = s.eeprom
  log : t.log = s.log

/-- Only the outcome of a command and the records that go with one differ: nothing that it names in memory, in an entry of
the dictionary, or in another unit. -/
structure OnlyOutcome (s t : State) : Prop where
  regs : t.regs = s.regs
  mem : t.mem = s.mem
  pocket : t.pocket = s.pocket
  acc : t.acc = s.acc
  eeprom : t.eeprom = s.eeprom
  dict : t.dict = s.dict
  queues : t.queues = s.queues
  indexes : t.indexes = s.indexes
  models : t.models = s.models
  vocabs : t.vocabs = s.vocabs
  grammars : t.grammars = s.grammars
  kv : t.kv = s.kv
  gens : t.gens = s.gens
  belt : t.belt = s.belt
  sec : t.sec = s.sec
  power : t.power = s.power
  chip : t.chip = s.chip
  pelgan : t.pelgan = s.pelgan
  aedup : t.aedup = s.aedup
  log : t.log = s.log
  out : t.out = s.out

/-- The entries that sending, notifying and counting write. -/
def sideKey (k : Nat) : Bool :=
  k == Key.AEDUP_RETRAINS || k == Key.AEDUP_STATE || k == Key.PELGAN_RETRAINS || k == Key.PELGAN_LINK_STATE ||
    k == Key.MGMT_NOTIFY_DROPS || (Key.PERF_SAMPLE_COUNT 0 ≤ k && k < Key.PERF_SAMPLE_COUNT 0 + 10)

/-- The second state differs from the first only by what has been sent and counted. -/
structure Side (s t : State) : Prop where
  pending : t.pending = s.pending
  start : t.start = s.start
  fatal : t.fatal = s.fatal
  alerts : t.alerts = s.alerts
  eeprom : t.eeprom = s.eeprom
  dict : t.dict = { s.dict with notifySeq := t.dict.notifySeq, notifyTimes := t.dict.notifyTimes }
  hem : t.hem = s.hem
  queues : t.queues = s.queues
  jobs : t.jobs = s.jobs
  jobNext : t.jobNext = s.jobNext
  ctxs : t.ctxs = s.ctxs
  models : t.models = s.models
  vocabs : t.vocabs = s.vocabs
  indexes : t.indexes = s.indexes
  copies : t.copies = s.copies
  queries : t.queries = s.queries
  spans : t.spans = s.spans
  belt : t.belt = s.belt
  kv : t.kv = s.kv
  gens : t.gens = s.gens
  grammars : t.grammars = s.grammars
  pocket : t.pocket = s.pocket
  acc : t.acc = s.acc
  array : t.array = s.array
  mem : t.mem = s.mem
  aedup : t.aedup = { s.aedup with link := t.aedup.link }
  pelgan : t.pelgan = { s.pelgan with links := t.pelgan.links }
  chip : t.chip = s.chip
  sec : t.sec = s.sec
  power : t.power = s.power
  test : t.test = s.test
  log : t.log = s.log
  actor : t.perf.actor = s.perf.actor
  shadows : t.perf.blockShadow = s.perf.blockShadow ∧ t.perf.regionShadow = s.perf.regionShadow ∧
    t.perf.chipShadow = s.perf.chipShadow ∧ t.perf.exports = s.perf.exports
  out : ∃ l, t.out = l ++ s.out
  linkState : t.aedup.link.state = s.aedup.link.state ∨
    (s.aedup.link.state = .active ∧ t.aedup.link.state = .retrain)
  regs : ∀ k, sideKey k = false → reg t k = reg s k

/-- The second state differs from the first by what the loss of a link can change. -/
structure LinkLoss (s t : State) : Prop where
  start : t.start = s.start
  fatal : t.fatal = s.fatal
  alerts : t.alerts = s.alerts
  eeprom : t.eeprom = s.eeprom
  hem : t.hem = s.hem
  queues : t.queues = s.queues
  mem : t.mem = s.mem
  pocket : t.pocket = s.pocket
  acc : t.acc = s.acc
  chip : t.chip = s.chip
  power : t.power = s.power
  test : t.test = s.test
  kv : t.kv = s.kv
  gens : t.gens = s.gens
  models : t.models = s.models
  vocabs : t.vocabs = s.vocabs
  grammars : t.grammars = s.grammars
  indexes : t.indexes = s.indexes
  belt : t.belt = s.belt
  sec : t.sec = { s.sec with sessions := t.sec.sessions }
  sessions : s.sec.sessions = [] → t.sec.sessions = []
  ctx : ∀ c, (ctxOf t c).genState = (ctxOf s c).genState

/-- The state on which the body of a command acts: what happens is counted for its context (R422). -/
def acting (s : State) (j : Job) : State := { s with perf := { s.perf with actor := some j.ctx } }

/-- The byte at an address of the unified range. -/
def byteAt (s : State) (a : Nat) : Nat :=
  if inWindow a then memByte s.mem.comp (a - companionBase) else memByte s.mem.dev a

/-- Every byte outside the ranges of some writes reads as before. -/
def writesOnly (s t : State) (ws : List (Nat × List Nat)) : Prop :=
  ∀ a, (∀ w ∈ ws, a < w.1 ∨ w.1 + w.2.length ≤ a) → byteAt t a = byteAt s a

/-- What a command of a context leaves as it is: the other commands and contexts, the queues, the settings, the EEPROM, keys,
power, the beat, the chip's blocks, tests and the error log. -/
structure Beside (s t : State) (id c : Nat) : Prop where
  jobs : ∀ i, i ≠ id → tabGet t.jobs i = tabGet s.jobs i
  ctxs : ∀ d, d ≠ c → ctxOf t d = ctxOf s d
  start : t.start = s.start
  fatal : t.fatal = s.fatal
  alerts : t.alerts = s.alerts
  eeprom : t.eeprom = s.eeprom
  hem : t.hem = s.hem
  queues : t.queues = s.queues
  jobNext : t.jobNext = s.jobNext
  chip : t.chip = s.chip
  sec : t.sec = s.sec
  power : t.power = s.power
  test : t.test = s.test
  log : t.log = s.log
  locks : t.dict.locks = s.dict.locks
  settings : ∀ k, 0x200000 ≤ k → reg t k = reg s k

/-- What is loaded, held and computed on stays as it is: models, vocabularies, grammars, Belt tables, pages, generations, the
Pocket and the accumulators. -/
structure HoldingsKept (s t : State) : Prop where
  models : t.models = s.models
  vocabs : t.vocabs = s.vocabs
  grammars : t.grammars = s.grammars
  belt : t.belt = s.belt
  kv : t.kv = s.kv
  gens : t.gens = s.gens
  pocket : t.pocket = s.pocket
  acc : t.acc = s.acc

/-- A command's step that changes no byte of memory, no index and nothing that is held: its own records at most. -/
structure Quiet (s t : State) (id c : Nat) : Prop where
  bytes : ∀ a, byteAt t a = byteAt s a
  beside : Beside s t id c
  holdings : HoldingsKept s t
  indexes : t.indexes = s.indexes

/-- A command ends with a status and a RESULT, and its step is quiet otherwise. -/
structure EndsOnly (s t : State) (id : Nat) (j : Job) (status result : Nat) : Prop where
  ended : ends t id status result
  quiet : Quiet s t id j.ctx

/-- A command ends with a status and a RESULT and has written its output: these bytes from an address on, and no other byte. -/
structure EndsWith (s t : State) (id : Nat) (j : Job) (a : Nat) (bs : List Nat) (status result : Nat) : Prop where
  ended : ends t id status result
  written : bytesAt t a bs.length = bs
  outside : ∀ k, k < a ∨ a + bs.length ≤ k → byteAt t k = byteAt s k
  beside : Beside s t id j.ctx
  holdings : HoldingsKept s t
  indexes : t.indexes = s.indexes

/-- The query record of a command is read (R221): from memory, or from rows of a Pocket whose slots are FULL.  `bs` are its
bytes, and `u` is the state after the read. -/
def queryRead (s : State) (id : Nat) (j : Job) (d : Nat) (u : State) (bs : List Nat) : Prop :=
  if srPocket j.entry then
    claimable (ctxOf s j.ctx) (slotsOf (ctxOf s j.ctx) (srLb j.entry) (srRow j.entry) (ceilDiv (queryBytes d) 256)) [] = true ∧
      bs = lbRead s (ctxOf s j.ctx) (srLb j.entry) (srRow j.entry) 0 (queryBytes d) ∧
      u = updCtx (updJob (countStrays s (ctxOf s j.ctx) (srLb j.entry) portBelt (srRow j.entry) (ceilDiv (queryBytes d) 256))
        id (fun j => { j with stalled := [] })) j.ctx (fun y =>
          retireSlots y (slotsOf (ctxOf s j.ctx) (srLb j.entry) (srRow j.entry) (ceilDiv (queryBytes d) 256)) [])
  else readBad s (srSrc j.entry) (queryBytes d) = false ∧ bs = bytesAt s (srSrc j.entry) (queryBytes d) ∧
    u = touchRange s (srSrc j.entry) (queryBytes d)

/-- The candidates of a query with their exact scores as FP32 values; METRIC 3 takes h (R226, R227). -/
def candidateScores (s : State) (d metric : Nat) (values : List Nat) (l : List Hit) : List (Hit × Num) :=
  (scoreHits s d metric (values.map ofBf16) l).map (fun c => (c.1, if c.2.isNan then .nan else ofF32 (toF32 c.2)))

/-- The merged candidates of a search with their scores: its own, and those that the members of its job handed on (R230). -/
def mergedScores (s : State) (d e : Nat) (q : Query) : List (Hit × Num) :=
  match q.span with
  | none => candidateScores s d (srMetric e) q.values q.merged
  | some r => (mergeSpan (srKscan e) ((scoreHits s d (srMetric e) (q.values.map ofBf16) q.merged).map (fun c =>
      ⟨c.1, if c.2.isNan then none else some (toF32 c.2)⟩)) r.hits).map (fun c => (c.hit, match c.score with
        | some v => ofF32 v
        | none => .nan))

/-- Scored candidates in rank order, those with a NaN score dropped (R226, R228). -/
def rankedCandidates (metric : Nat) (l : List (Hit × Num)) : List (Hit × Num) :=
  if metric == 3 then l
  else sortBy (fun a b => scoreBefore (a.2, a.1.passage) (b.2, b.1.passage)) (l.filter (fun c => !c.2.isNan))

/-- The bytes of a search's output: the header and one entry for each of the best K_OUT candidates (Tables 10.9, 10.10). -/
def searchBytes (e : Nat) (q : Query) (l : List (Hit × Num)) : List Nat :=
  leBytes 64 (searchHeader q l.length ((rankedCandidates (srMetric e) l).take (srKout e)).length
    (if srMetric e == 3 then 0 else l.length - (rankedCandidates (srMetric e) l).length)
    (q.conflict || l.any (fun c => c.1.conflict))) ++
  (((rankedCandidates (srMetric e) l).take (srKout e)).map (fun c =>
    leBytes 16 (searchEntry c.1.passage c.1.conflict (toF32 c.2) c.1.h))).flatten

/-- How many entries a search's output holds. -/
def searchCount (e : Nat) (l : List (Hit × Num)) : Nat := ((rankedCandidates (srMetric e) l).take (srKout e)).length

/-- The byte of a Pocket at which a row of a TOPK's values begins, and the Pocket rows that it touches. -/
def topkPlace (j : Job) (row : Nat) : Nat := tkRow j.entry * 256 + row * tkStride j.entry
def topkRows (j : Job) (row : Nat) : Nat := (topkPlace j row % 256 + tkN j.entry * tkWidth j.entry - 1) / 256 + 1

/-- The slots that a row of a Pocket TOPK reads. -/
def topkSlots (s : State) (j : Job) (row : Nat) : List (Nat × Nat) :=
  slotsOf (ctxOf s j.ctx) (tkLb j.entry) (topkPlace j row / 256) (topkRows j row)

/-- Row `row` of a TOPK's values is read (R242, R243): from memory, or from rows of a Pocket whose slots are FULL.  `bs` are its
bytes, and `u` is the state after the read. -/
def topkRead (s : State) (id : Nat) (j : Job) (row : Nat) (u : State) (bs : List Nat) : Prop :=
  if tkPocket j.entry then
    claimable (ctxOf s j.ctx) (topkSlots s j row) [] = true ∧
      bs = lbRead s (ctxOf s j.ctx) (tkLb j.entry) 0 (topkPlace j row) (tkN j.entry * tkWidth j.entry) ∧
      u = updCtx (updJob (countStrays s (ctxOf s j.ctx) (tkLb j.entry) portBelt (topkPlace j row / 256) (topkRows j row))
        id (fun j => { j with stalled := [] })) j.ctx (fun y => retireSlots y (topkSlots s j row) [])
  else readBad s (tkSrc j.entry + row * tkStride j.entry) (tkN j.entry * tkWidth j.entry) = false ∧
    bs = bytesAt s (tkSrc j.entry + row * tkStride j.entry) (tkN j.entry * tkWidth j.entry) ∧
    u = touchRange s (tkSrc j.entry + row * tkStride j.entry) (tkN j.entry * tkWidth j.entry)

/-- The addresses of a MERGE's sources. -/
def mergeAddrs (s : State) (e : Nat) : List Nat := (List.range (mgSources e)).map (mergeSource s e)

/-- What a MERGE carries over from the headers of its sources (R247, R248), of its valid entries and those it keeps. -/
def mergeCarried (s : State) (e : Nat) (good kept : List Sel) : Carried where
  nans := ((mergeAddrs s e).map (fun a => field (natAt s a 192) 512 64)).sum +
    (((mergeAddrs s e).map (sourceEntries s)).flatten.length - good.length)
  left := ((mergeAddrs s e).map (fun a => field (natAt s a 192) 576 64)).sum
  exact := ⟨((mergeAddrs s e).map (fun a => signedOf 384 (field (natAt s a 192) 768 384))).sum,
    (mergeAddrs s e).foldl (fun m a => m ||| (field (natAt s a 192) 304 8 % 8)) 0⟩
  lasts := (mergeAddrs s e).filterMap (fun a =>
    (sourceEntries s a).getLast?.map (fun x => (x.value, field (natAt s a 192) 384 64)))
  dups := good.length - kept.length
  conflict := kept.any (fun x => x.conflict)

/-- The positions of a gather's index list that output row `row` pools (R258). -/
def gatherPositions (s : State) (e row : Nat) : List Nat :=
  (List.range ((bagOf s e row).2 - (bagOf s e row).1)).map (fun k => (bagOf s e row).1 + k)

/-- The ranges that a gather reads for an output row: of its lists, and of its table. -/
def gatherReads (s : State) (e d row : Nat) : List (Nat × Nat) :=
  [(blIdx e + 4 * (bagOf s e row).1, 4 * (gatherPositions s e row).length)] ++
    (if blWeighted e then [(blWts e + 4 * (bagOf s e row).1, 4 * (gatherPositions s e row).length)] else []) ++
    ((gatherPositions s e row).map (fun p => natAt s (blIdx e + 4 * p) 4)).flatMap (rowReads s d)

/-- The bytes of an output row of a gather (R260, R261). -/
def gatherBytes (s : State) (e d row : Nat) : List Nat := outRow e (poolRow s d e (gatherPositions s e row))

/-- Where an output row of a gather begins: its address, or its byte in the Pocket. -/
def gatherPlace (e d row : Nat) : Nat :=
  if blPocket e then blRow e * 256 + row * blPitch d e else blDest e + row * blPitch d e

/-- A gather reads its offsets. -/
def gatherOffsets (e : Nat) : Bool := blOffsets e && blPool e != 0

/-- The Pocket slots that a delivery of some bytes from a byte of a logical block writes (R155). -/
def deliverySlots (s : State) (c lb at_ n : Nat) : List (Nat × Nat) :=
  slotsOf (ctxOf s c) lb (at_ / 256) (if n = 0 then 0 else (at_ % 256 + n - 1) / 256 + 1)

/-- The feature table's version that a CROSS_RERANK pinned, when it takes features (R272). -/
def xrFeat (s : State) (id d : Nat) : Option Nat := if xdFeatEn d then pinnedDesc s (xdFeat d) id else none

/-- What the end of a CROSS_RERANK reads: the weights and the feature rows (R272). -/
def xrEndReads (s : State) (id d : Nat) (cs : List Candidate) : List (Nat × Nat) :=
  match xrFeat s id d with
  | some f => (xdWeights d, 4 * btDim f) :: cs.flatMap (fun c => rowReads s f (featureIndex c))
  | none => []

/-- The scored candidates of a CROSS_RERANK with their combined scores, and the best K_OUT of them by it (R272). -/
def xrCombinedAll (s : State) (id d : Nat) (cs : List Candidate) (scores : List Nat) : List (Num × Candidate) :=
  (cs.zip scores).map (fun p => (xrCombined s d (xrFeat s id d) p.1 p.2, p.1))
def xrBest (s : State) (id d k : Nat) (cs : List Candidate) (scores : List Nat) : List (Num × Candidate) :=
  (sortBy (fun a b => scoreBefore (a.1, a.2.passage) (b.1, b.2.passage))
    ((xrCombinedAll s id d cs scores).filter (fun p => !p.1.isNan))).take k

/-- The bytes of a CROSS_RERANK's output: the header and the best K_OUT candidates (R272). -/
def xrBytes (s : State) (id : Nat) (j : Job) (d : Nat) (cs : List Candidate) (scores : List Nat) : List Nat :=
  let count := shResCount (natAt s (xrCand j.entry) 64)
  let q : Query := {
    index := xrIndex j.entry, epoch := j.pin, values := [], sketch := 0, lists := [], scanned := count, passed := count }
  leBytes 64 (searchHeader q cs.length (xrBest s id d (xrKout j.entry) cs scores).length
    ((xrCombinedAll s id d cs scores).length - ((xrCombinedAll s id d cs scores).filter (fun p => !p.1.isNan)).length) false) ++
  ((xrBest s id d (xrKout j.entry) cs scores).map (fun p =>
    leBytes 16 (searchEntry p.2.passage false (toF32 p.1) p.2.hscore))).flatten

/-- What a batch of a CROSS_RERANK reads before its run: its embedding rows, and the model's image. -/
def xrBatchReads (s : State) (x : Index) (j : Job) (d emb n : Nat) (m : Model) : List (Nat × Nat) :=
  ((xrBatch s x j d (n / xdBatch d)).map Prod.fst).flatten.flatMap (rowReads s emb) ++ [(m.addr, m.size)]

/-- The Pockets after the writes of a batch (R271). -/
def xrPockets (s : State) (c : Nat) (ws : List (Nat × Nat × Nat × List Nat)) : Mem :=
  (ws.foldl (fun t w => lbWrite t (ctxOf s c) w.1 w.2.1 w.2.2.1 w.2.2.2) s).pocket

/-- The passages of a PACK's candidates that it may read. -/
def packSeen (s : State) (x : Index) (e : Nat) : List Nat :=
  ((candidatesAt s (pcCand e)).filter (fun c => candidateSeen s x (shResEpoch (natAt s (pcCand e) 64)) c.passage)).map
    (fun c => c.passage)

/-- A PACK's inputs can be read and are at hand, and its candidate list and report lie in range (R274, R275). -/
structure PackReads (s : State) (j : Job) : Prop where
  template : readBad s (pcTemplate j.entry) 64 = false
  cands : readBad s (pcCand j.entry) 64 = false
  query : readBad s (pcQuery j.entry) (4 * pcQlen j.entry) = false
  here : j.more = true ∨ (inWindow (pcTemplate j.entry) = false ∧ inWindow (pcCand j.entry) = false)
  segments : readBad s (pcTemplate j.entry) (field (natAt s (pcTemplate j.entry) 64) 448 64) = false
  list : readBad s (pcCand j.entry) (candidateBytes s (pcCand j.entry)) = false

/-- The candidate list and the report of a PACK lie in range. -/
def packRangesOk (s : State) (e : Nat) : Bool :=
  rangeOk s (pcCand e) (candidateBytes s (pcCand e)) && (!pcReportEn e || rangeOk s (pcReport e) (candidateBytes s (pcCand e)))

/-- The local writes of a PACK before its header: the prompt's tokens, and the report (R279, R281). -/
def packWrites (e : Nat) (p : Packed) : List (Nat × List Nat) :=
  (if pcRemote e then [] else [(pcDest e + 64, tokenWords p.prompt)]) ++
    (if pcReportEn e then [(pcReport e, packReport p.cands p.packing p.starts p.prompt.length)] else [])

/-- A PACK has pinned its epoch and read its inputs. -/
def packRead (s : State) (id : Nat) (j : Job) (x : Index) (epoch : Nat) : State :=
  touchRanges (pinEpoch (updJob (acting s j) id (fun j => { j with pin := epoch })) (pcIndex j.entry) id epoch)
    (packRanges s x j.entry (packSeen s x j.entry))

/-- The status of a PACK (R281). -/
def packStatus (p : Packed) : Nat :=
  if p.packing.outcomes.any (fun o => o.code == 1 || o.code == 3 || o.code == 4) then Code.OK_TRUNCATED else Code.OK

/-- A command has pinned an epoch of an index, beside the pins that are open (R215). -/
def pinned (s t : State) (i id epoch : Nat) (x : Index) : Prop :=
  ∀ k, tabGet t.indexes k = if k = i then some { x with pins := tabSet (openPins s x) id epoch } else tabGet s.indexes k

/-- The next instruction of stream `v` of a command's run is `i`, on physical block `b`: the run issues, the stream runs and has
instructions left, the instruction can be read, and no slice holds the block (R104, R107, R415). -/
structure Issues (s : State) (id v : Nat) (j : Job) (r : Run) (st : Stream) (b i : Nat) : Prop where
  job : tabGet s.jobs id = some j
  run : tabGet s.array.runs id = some r
  stream : r.streams[v]? = some st
  issues : runIssues s j r = true
  running : st.mode = .running
  left : st.pc < st.count
  readable : readBad s (st.addr + 16 * st.pc) 16 = false
  fetched : natAt s (st.addr + 16 * st.pc) 16 = i
  block : physBlock (ctxOf s r.ctx) v = some b
  free : sliced s b = false

/-- Every slot that an instruction touches in its own block is claimed, or can be (R155). -/
def slotsReady (s : State) (v : Nat) (r : Run) (st : Stream) (b i : Nat) : Bool :=
  st.claimed || claimable (ctxOf s r.ctx) (slotsOfRanges (ctxOf s r.ctx) v (touches s b i).1)
    (slotsOfRanges (ctxOf s r.ctx) v (touches s b i).2.1)

/-- One instruction of stream `v` of a run retires (R104, R110): the stream goes on to its next, the run and the device count it,
and nothing else changes but what the instruction computes. -/
structure Retired (s t : State) (id v : Nat) (r : Run) : Prop where
  run : ∃ r', tabGet t.array.runs id = some r' ∧ r'.retired = r.retired + 1 ∧ r'.ctx = r.ctx ∧
    (r'.streams[v]?).map Stream.pc = (r.streams[v]?).map (fun st => st.pc + 1) ∧
    ∀ w, w ≠ v → r'.streams[w]? = r.streams[w]?
  runs : ∀ k, k ≠ id → tabGet t.array.runs k = tabGet s.array.runs k
  counted : reg t Key.ARRAY_INSTRUCTIONS = reg (bump s Key.ARRAY_INSTRUCTIONS 1) Key.ARRAY_INSTRUCTIONS
  jobs : t.jobs = s.jobs
  beside : Beside s t id r.ctx
  mem : t.mem = s.mem
  indexes : t.indexes = s.indexes
  vocabs : t.vocabs = s.vocabs
  grammars : t.grammars = s.grammars
  belt : t.belt = s.belt
  kv : t.kv = s.kv
  gens : t.gens = s.gens

/-- The patches that a MATMUL uses (R131, R132). -/
def patchesOf (i : Nat) (c : FmtClass) (ts : List Tile) : List Patch :=
  match ts with
  | t :: _ => if inPatch i then (patchList c (accInt (inWfmt i) (inAfmt i)) t).1 else []
  | [] => []

/-- The accumulator word that a MATMUL computes for activation row `m` and column `n` (R102, R109). -/
def matmulWord (s : State) (b i : Nat) (c : FmtClass) (ts : List Tile) (m n : Nat) : Nat :=
  (elemResult c (accInt (inWfmt i) (inAfmt i)) ts (patchesOf i c ts) ⟨inAfmt i, inRows i, pocketReader s b (inAaddr i)⟩ m n
    (if inAccIn i then accRead s b (accRowOf i m) n else 0)).1

/-- The value that an ACC_LOAD reads for a row and column (R106). -/
def loadedValue (s : State) (b i m n : Nat) : Num :=
  if inOfmt i == 0xC then ofF32 (pocketReader s b (inSaddr i + m * 128 * 4) (4 * n) 4)
  else ofBf16 (pocketReader s b (inSaddr i + m * 128 * 2) (2 * n) 2)

/-- Bytes that a DRAIN writes (R128). -/
def drainBytes (i : Nat) : Nat :=
  if inFunc i == 4 || inFunc i == 5 then 4 * inRows i
  else outBytes (inOfmt i) (drainCols (inOfmt i) (inCols i)) (inRows i)

/-- What a GEN_RUN reads at its start beside its prompt: its descriptors, those of them that lie in range. -/
def genReads (s : State) (e : Nat) : List (Nat × Nat) :=
  (grSrc e, 128) :: (genInputs e (natAt s (grSrc e) 128)).filter (fun r => rangeOk s r.1 r.2)

/-- A GEN_RUN has read its descriptors. -/
def genRead (s : State) (j : Job) : State := touchRanges (acting s j) (genReads s j.entry)

/-- The descriptors of a GEN_RUN can be read, are at hand and have version 1 (R290, R306): `d` is the request's, `b` its
sampling block, `m` the main model's interface and `f` the draft model's. -/
structure GenReads (s : State) (j : Job) (d b m f : Nat) : Prop where
  desc : natAt s (grSrc j.entry) 128 = d
  block : natAt s (rdSampling d) 64 = b
  main : natAt s (rdMain d) 64 = m
  draft : natAt s (rdDraft d) 64 = f
  readable : ∀ r ∈ genReads s j.entry, readBad s r.1 r.2 = false
  here : genRemote s j.entry = false
  prompt : j.more = true ∨
    windowRanges (genInputs j.entry d ++ [promptRange d (if rdMailbox d then 0 else rdPromptLen d)]) = []
  version : field d 0 8 = 1
  versions : field b 0 8 = 1 ∧ field m 0 8 = 1 ∧ (rdDraftLen d = 0 ∨ field f 0 8 = 1)

/-- The tokens of a prompt in memory. -/
def genPrompt (s : State) (d : Nat) : List Nat := (List.range (rdPromptLen d)).map (fun i => natAt s (rdPrompt d + 4 * i) 4)

/-- The next run of a request: of the draft model or the main one, its first position, its tokens, and the token from which
on its logits are wanted (R292, R293). -/
def genNext (g : GenReq) : Option (Bool × Nat × List Nat × Option Nat) :=
  match g.stage with
  | .prefill draft dn =>
    let ts := (g.prompt.drop dn).take (miMaxT (if draft then g.draftIf else g.main))
    some (draft, g.first + dn, ts, if !draft && dn + ts.length == g.prompt.length then some (ts.length - 1) else none)
  | .verify => some (false, stepInput g, (genTokens g).getLast?.toList ++ g.drafts, some 0)
  | .drafting =>
    let want := stepInput g + 1 + g.drafts.length - g.draftPos
    let n := Nat.min want (miMaxT g.draftIf)
    if g.logits.isEmpty then
      some (true, g.draftPos, ((genTokens g ++ g.drafts).drop (g.draftPos - g.first)).take n, if n == want then some (n - 1) else none)
    else none
  | _ => none

/-- How many positions' logits a run leaves (R293). -/
def wantedLogits (r : GenRun) : Nat :=
  match r.logitFrom with
  | some i => r.count - i
  | none => 0

/-- Outputs of a RAND_FILL that its next step makes, their bytes, and the byte at which they begin, in memory or in a
Pocket. -/
def fillCount (j : Job) : Nat := Nat.min 16 (smCount j.entry - j.work.headD 0)
def fillBytes (s : State) (j : Job) : List Nat :=
  randBytes (if smOwnSeed j.entry then smSeed j.entry else ctxSeed (ctxOf s j.ctx)) j.entry (j.work.headD 0) (fillCount j)
def fillPlace (j : Job) : Nat :=
  if smPocket j.entry then 256 * (smRow j.entry + j.work.headD 0 / 16) else smDest j.entry + 16 * j.work.headD 0

/-- A page is cut off: one of a context whose held sequence of the main or of the draft model is cut to nothing (R301). -/
def cutOff (s : State) (c n : Nat) (k : KvPage) : Bool :=
  k.ctx == c && (if k.draft then Nat.min (gsDraftLen (ctxOf s c)) n else Nat.min (gsLen (ctxOf s c)) n) == 0

/-- A command of a context ends with the drain of its teardown: every open one, but for a CTX_FREE that did not cause it
(Table 20.2). -/
def drains (s : State) (c : Nat) (j : Job) : Bool :=
  j.ctx == c && openJob j && (j.opcode != Op.CTX_FREE || (ctxOf s c).freeAfter)

/-- The status with which the drain of a teardown ends a command (R399). -/
def drainStatus (x : Ctx) (id : Nat) (j : Job) : Nat :=
  if j.opcode = Op.CTX_FREE ∧ x.freeAfter = true then Code.OK
  else match x.blame with
    | some (k, st) => if k = id then st else Code.CTX_TORN_DOWN
    | none => Code.CTX_TORN_DOWN

/-- The units that the end of a drain gives back: the context's KV units, and its save area when it becomes FREE. -/
def drainUnits (s : State) (c : Nat) : List Nat :=
  if (ctxOf s c).freeAfter then unitsOwned s c else kvUnitsOf s c

/-- The drain of a teardown has ended (R399): the context is FREE or FAULTED, its commands have their statuses, its quads and
units return, and nothing else changes. -/
structure DrainEnds (s t : State) (c : Nat) : Prop where
  ctx : ctxOf t c = if (ctxOf s c).freeAfter = true then
      { genTag := (ctxOf s c).genTag, used := true, cached := (ctxOf s c).cached, lastUse := (ctxOf s c).lastUse }
    else { ctxOf s c with state := .faulted, quads := [], openUnits := [], blame := none }
  others : ∀ d, d ≠ c → ctxOf t d = ctxOf s d
  ended : ∀ id j, tabGet s.jobs id = some j → drains s c j = true → ends t id (drainStatus (ctxOf s c) id j) 0
  jobs : ∀ id, (∀ j, tabGet s.jobs id = some j → drains s c j = false) → tabGet t.jobs id = tabGet s.jobs id
  chip : t.chip = { s.chip with quadsDue := s.chip.quadsDue ++ (ctxOf s c).quads }
  pages : t.kv = s.kv.filter (fun p => p.2.ctx != c)
  pagesInUse : reg t Key.GEN_PAGES_IN_USE = t.kv.length
  units : ∀ u, tabGet t.mem.units u = if u ∈ drainUnits s c then none else tabGet s.mem.units u
  bytes : ∀ a, memByte t.mem.dev a = if a / unitBytes ∈ drainUnits s c then 0 else memByte s.mem.dev a
  comp : t.mem.comp = s.mem.comp
  durable : t.mem.durable = s.mem.durable
  pocket : t.pocket = s.pocket
  acc : t.acc = s.acc
  queues : t.queues = s.queues
  indexes : t.indexes = s.indexes
  models : t.models = s.models
  vocabs : t.vocabs = s.vocabs
  grammars : t.grammars = s.grammars
  belt : t.belt = s.belt
  gens : t.gens = s.gens
  start : t.start = s.start
  fatal : t.fatal = s.fatal
  alerts : t.alerts = s.alerts
  eeprom : t.eeprom = s.eeprom
  hem : t.hem = s.hem
  sec : t.sec = s.sec
  power : t.power = s.power
  test : t.test = s.test
  aedup : t.aedup = s.aedup
  pelgan : t.pelgan = s.pelgan
  log : t.log = s.log
  out : t.out = s.out
  settings : ∀ k, 0x200000 ≤ k → reg t k = reg s k

/-- A context after the first step of a teardown with a cause and the command that caused it (R399). -/
def fenced (x : Ctx) (status : Nat) (blame : Option Nat) : Ctx :=
  { x with
    state := .tearingDown, genTag := (x.genTag + 1) % 256, lastStatus := status, freeAfter := false
    blame := blame.map (fun id => (id, status)), preempt := false, leaving := false, save := .none, hung := false }

/-- A unit whose hang is a fatal error, for it serves the whole chip (Table 20.3). -/
def chipWide (u : MonitorUnit) : Bool := u == .hem || u == .bridge || u == .dictionary || u == .recovery

/-- Memories, holdings, queues, keys, power and settings stay as they are. -/
structure UnitsKept (s t : State) : Prop where
  holdings : HoldingsKept s t
  mem : t.mem = s.mem
  queues : t.queues = s.queues
  indexes : t.indexes = s.indexes
  start : t.start = s.start
  fatal : t.fatal = s.fatal
  alerts : t.alerts = s.alerts
  hem : t.hem = s.hem
  sec : t.sec = s.sec
  power : t.power = s.power
  settings : ∀ k, 0x200000 ≤ k → reg t k = reg s k

/-- A newer entry of the error log: its unit, instance, status and context. -/
def logged (s t : State) (u : LogUnit) (inst status c : Nat) : Prop :=
  ∃ e, t.log = (e :: s.log).take 4096 ∧ e.unit = u ∧ e.inst = inst ∧ e.status = status ∧ e.ctx = c ∧ e.beat = beatNow s

/-- What an entry of the dictionary shows of a link's state. -/
def linkShown (s : State) : LinkId → Nat
  | .aedup => reg s Key.AEDUP_STATE
  | .pelgan p => field (reg s Key.PELGAN_LINK_STATE) (8 * p) 8

/-- The entries that show a link, or count what becomes of its training. -/
def linkKeys : List Nat :=
  [Key.AEDUP_STATE, Key.AEDUP_WIDTH, Key.AEDUP_RATE, Key.AEDUP_VERSION, Key.AEDUP_FEATURES, Key.AEDUP_TRAIN_FAILURES,
   Key.AEDUP_NEG_FAILURES, Key.AEDUP_RETRAINS, Key.PELGAN_LINK_STATE, Key.PELGAN_LINK_LATENCY, Key.PELGAN_NEG_FAILURES,
   Key.PELGAN_RETRAINS]

/-- One end of a link is `e`, an entry shows its state, and nothing else changes but entries of the links. -/
structure LinkSet (s t : State) (l : LinkId) (e : LinkEnd) : Prop where
  link : linkOf t l = e
  shown : linkShown t l = linkCode e.state
  others : ∀ k, k ≠ l → linkOf t k = linkOf s k
  same : t = { s with
    regs := t.regs, aedup := { s.aedup with link := t.aedup.link }, pelgan := { s.pelgan with links := t.pelgan.links } }
  regs : ∀ k, k ∉ linkKeys → reg t k = reg s k

/-- The unit and instance of a link in the error log. -/
def linkUnit : LinkId → LogUnit × Nat
  | .aedup => (.aedup, 0)
  | .pelgan p => (.pelgan, p)

/-- The counter of link resets. -/
def linkResets : LinkId → Nat
  | .aedup => Key.AEDUP_LINK_RESETS
  | .pelgan _ => Key.PELGAN_LINK_RESETS

/-- The commands whose outcome a link reset decides: those that a read or a remote request over the link serves, and those
whose posted writes have not been acknowledged (R340, R359). -/
def losesWith (s : State) (l : LinkId) (id : Nat) (j : Job) : Prop :=
  match l with
  | .aedup => (openJob j = true ∧ ∃ p ∈ s.aedup.reads, p.2.for_ = .job id) ∨ ∃ p ∈ s.aedup.posted, p.2 = id
  | .pelgan q => openJob j = true ∧ ∃ p ∈ s.pelgan.requests, p.2.port = q ∧ p.2.job = id

/-- A link has taken a link reset (R340, R345, R359). -/
structure LinkReset (s t : State) (l : LinkId) : Prop where
  loss : LinkLoss s t
  down : (linkOf t l).state = .down
  gen : (linkOf t l).linkGen = match l with
    | .aedup => (linkOf s l).linkGen
    | .pelgan _ => ((linkOf s l).linkGen + 1) % 64
  session : tabGet t.sec.sessions (linkIndex l) = none
  log : logged s t (linkUnit l).1 (linkUnit l).2 Code.LINK_DOWN noCtx
  counted : reg t (linkResets l) = reg (bump s (linkResets l) 1) (linkResets l)
  ended : ∀ id j, tabGet s.jobs id = some j → losesWith s l id j → ends t id Code.LINK_DOWN 0
  jobs : ∀ id, (∀ j, tabGet s.jobs id = some j → ¬ losesWith s l id j) → tabGet t.jobs id = tabGet s.jobs id
  reads : l = .aedup → t.aedup.reads = [] ∧ t.aedup.cache = [] ∧ t.aedup.landed = [] ∧ t.aedup.posted = []
  requests : ∀ p, l = .pelgan p → t.pelgan.requests = s.pelgan.requests.filter (fun q => q.2.port != p)

/-- An Aedup capability as agreed (R332), and a Pelgan one (R344). -/
def aedupAgreed (s : State) (cap : Nat) : LinkEnd :=
  { s.aedup.link with
    version := Nat.min 1 (field cap 88 8), features := field cap 48 32 &&& aedupFeatures s
    protect := bitOf (field cap 48 32 &&& aedupFeatures s) 1 }
def pelganAgreed (s : State) (p cap : Nat) : LinkEnd :=
  { linkOf s (.pelgan p) with
    version := Nat.min 1 (field cap 56 8), features := field cap 16 32 &&& pelganFeatures s p
    protect := bitOf (field cap 16 32 &&& pelganFeatures s p) 2, peerSerial := field cap 192 64 }

/-- A link end that negotiation has made ACTIVE, with the credits that its partner offers. -/
def opened (e : LinkEnd) (credits : List Nat) : LinkEnd :=
  { e with
    state := .active, credits := credits, sendSeq := 0, ackSeq := 0, recvSeq := 0, replays := 0, nakSent := false
    sealedOut := if e.protect then 0 else e.sealedOut, sealedIn := if e.protect then 0 else e.sealedIn }

/-- A link takes flits: it is ACTIVE, or negotiates, in training or in a retrain. -/
def takesFlits (e : LinkEnd) : Bool := e.state == .negotiate || e.state == .active || e.state == .retrain

/-- A flit of this header carries a tag that must be good (R440). -/
def tagged (e : LinkEnd) (h : Nat) : Bool := e.protect && e.state == .active && field h 72 4 != 1 && field h 72 4 != 2

/-- The counters of a link's flits: CRC errors, corrected symbols, protocol errors and replays. -/
def crcKey : LinkId → Nat
  | .aedup => Key.AEDUP_CRC_ERRORS
  | .pelgan _ => Key.PELGAN_CRC_ERRORS
def fecKey : LinkId → Nat
  | .aedup => Key.AEDUP_FEC_CORRECTED
  | .pelgan _ => Key.PELGAN_FEC_CORRECTED
def protocolKey : LinkId → Nat
  | .aedup => Key.AEDUP_PROTOCOL_ERRORS
  | .pelgan _ => Key.PELGAN_PROTOCOL_ERRORS
def replayKey : LinkId → Nat
  | .aedup => Key.AEDUP_REPLAYS
  | .pelgan _ => Key.PELGAN_REPLAYS

/-- An end after a good flit's header: the credits that it returns are added, and what it acknowledges is taken (R333). -/
def afterHeader (l : LinkId) (e : LinkEnd) (h : Nat) : LinkEnd :=
  takeAck { e with credits := List.zipWith (· + ·) e.credits (returnedCredits l h) } (field h 76 10)

/-- Posted writes at risk after an acknowledgement on Aedup: those in flits that are still not acknowledged. -/
def stillPosted (s : State) (e : LinkEnd) : List (Nat × Nat) :=
  s.aedup.posted.filter (fun p => (p.1 + 1024 - e.ackSeq) % 1024 < unacked e)

/-- A flit, a NAK or an acknowledgement changes of the machine only one end of a link, the posted writes at risk, counters
of the links, and the performance counters. -/
structure FlitSet (s t : State) (l : LinkId) (e : LinkEnd) : Prop where
  link : linkOf t l = e
  others : ∀ k, k ≠ l → linkOf t k = linkOf s k
  posted : t.aedup.posted = s.aedup.posted ∨ t.aedup.posted = stillPosted s t.aedup.link
  same : t = { s with
    regs := t.regs, perf := t.perf, aedup := { s.aedup with link := t.aedup.link, posted := t.aedup.posted }
    pelgan := { s.pelgan with links := t.pelgan.links } }
  regs : ∀ k, k ∉ [crcKey l, fecKey l, protocolKey l, replayKey l, Key.SEC_TAG_FAILURES, Key.PELGAN_STALE_DROPS] ++ linkKeys →
    reg t k = reg s k

/-- An entry that counts has counted `n` more. -/
def counts (s t : State) (k n : Nat) : Prop := reg t k = reg (bump s k n) k

/-- A flit is discarded (R333): one NAK leaves with the last good SEQ, unless one has been sent, and the end is otherwise
`e`. -/
def discards (s t : State) (l : LinkId) (e : LinkEnd) : Prop :=
  if e.nakSent then FlitSet s t l e
  else ∃ u, FlitSet s u l { e with nakSent := true } ∧ Side u t ∧ t.out = .nak l ((e.recvSeq + 1023) % 1024) :: s.out

/-- A link that a retrain has made ACTIVE again at a width and a rate; PROTECT opens a new session when its key slot is
LOADED. -/
def retrained (s : State) (l : LinkId) (w r : Nat) : LinkEnd :=
  { linkOf s l with
    state := .active, replays := 0, nakSent := false, width := w, rate := r
    sealedOut := if (linkOf s l).protect && (linkSlot s l).isSome then 0 else (linkOf s l).sealedOut
    sealedIn := if (linkOf s l).protect && (linkSlot s l).isSome then 0 else (linkOf s l).sealedIn }

/-- The link cache after a reply: a line that was asked for with RD_SHARED, is answered by DATA_S and was not snooped is at
the front, the least recently used dropped when there are too many (R335). -/
def keepsLine (q : AedupRead) (shared : Bool) : Bool := shared && q.shared && !q.snooped
def cacheAfter (s : State) (q : AedupRead) (shared : Bool) : List Nat :=
  if keepsLine q shared then
    (q.line :: s.aedup.cache.filter (fun x => x != q.line)).take (reg s Key.AEDUP_CACHE_LINES)
  else s.aedup.cache

/-- A line of companion memory has come for a read: its bytes, and no other, and the read is no longer outstanding. -/
structure LineCame (s t : State) (tag : Nat) (q : AedupRead) (shared : Bool) (data : Nat) : Prop where
  line : memNat t.mem.comp q.line 128 = data % 256 ^ 128
  outside : ∀ a, a < q.line ∨ q.line + 128 ≤ a → memByte t.mem.comp a = memByte s.mem.comp a
  good : t.mem.compBad = s.mem.compBad.filter (fun l => l != q.line / 128)
  reads : t.aedup.reads = tabDel s.aedup.reads tag
  cache : t.aedup.cache = cacheAfter s q shared
  same : t = { s with
    regs := t.regs, jobs := t.jobs, mem := { s.mem with comp := t.mem.comp, compBad := t.mem.compBad }
    aedup := { s.aedup with reads := t.aedup.reads, cache := t.aedup.cache, landed := t.aedup.landed } }

/-- The dictionary service has nothing in hand (R364). -/
def dictFree (s : State) : Bool := s.dict.waiting.isNone && s.dict.backlog.isEmpty

/-- A message leaves on the route of its flow, when there is one; nothing else happens but counting. -/
def leaves (s t : State) (opcode job dest tag v : Nat) : Prop :=
  match flowRoute s job dest with
  | some r => Side s t ∧ t.out = .message (firstPort r) opcode dest tag v :: s.out
  | none => t = s

/-- A context that a fault tears down: it is neither FREE nor torn down already. -/
def standing (x : Ctx) : Bool := x.state != .free && x.state != .faulted && x.state != .tearingDown

/-- The device's manager has changed (R351): the job table and the bindings are clear, and the contexts of jobs with other
members are torn down with BEAT_LOST. -/
structure ManagerChanged (s t : State) (serial : Nat) : Prop where
  serial : reg t Key.PELGAN_MANAGER_SERIAL = serial
  table : ∀ j, j < 255 → jobEntry t j = 1
  bindings : ∀ c, c < 4096 → boundJob t c = none
  due : t.pelgan.jobsDue = []
  ctxs : ∀ c, ctxOf t c = if c ∈ spanningContexts s ∧ standing (ctxOf s c) = true
    then fenced (ctxOf s c) Code.BEAT_LOST none else ctxOf s c
  jobs : t.jobs = s.jobs
  kept : UnitsKept s t

/-- A HELLO tells of a better manager of the same group: it is the sender's, and this device has another. -/
def meetsManager (s : State) (capability serial : Nat) : Bool :=
  field capability 80 64 == serial && serial != 0 && reg s Key.PELGAN_MANAGER_SERIAL != 0 &&
    reg s Key.PELGAN_MANAGER_SERIAL != serial

/-- The device declares itself manager: it is READY, in a group, and its own best candidate (R348). -/
def mayDeclare (s : State) : Bool :=
  s.start == .ready && reg s Key.PELGAN_GROUP_ID != 0 && bestCandidate s == ownCandidate s

/-- The device is a worker with a number in a formation (R348). -/
structure Assigned (s t : State) (port device formation members : Nat) (children : List Nat) : Prop where
  device : reg t Key.PELGAN_DEVICE = device
  formation : reg t Key.PELGAN_FORMATION = formation
  members : reg t Key.PELGAN_MEMBERS = members
  role : reg t Key.HEM_ROLE = 2
  same : t = { s with regs := t.regs, pelgan := { s.pelgan with parent := some port, children := children, excluded := none } }
  regs : ∀ k, k ∉ [Key.PELGAN_DEVICE, Key.PELGAN_FORMATION, Key.PELGAN_MEMBERS, Key.HEM_ROLE] → reg t k = reg s k

/-- How the manager knows its group: devices, their numbers and cables; MEMBERS counts those that have a number. -/
structure GroupKnown (t : State) (serials numbers : List Nat) (cables : List (Nat × Nat × Nat × Nat)) : Prop where
  devices : t.pelgan.serials = serials
  numbered : t.pelgan.numbers = numbers
  wired : t.pelgan.cables = cables
  members : reg t Key.PELGAN_MEMBERS = ((List.range serials.length).filter (fun d => numberIn numbers d != 0xFFFF)).length
  unreached : reg t Key.PELGAN_UNREACHED =
    serials.length - ((List.range serials.length).filter (fun d => numberIn numbers d != 0xFFFF)).length

/-- Bytes of device memory are written, and no other. -/
structure BytesStored (s t : State) (a : Nat) (bs : List Nat) : Prop where
  written : bytesAt t a bs.length = bs
  outside : ∀ k, k < a ∨ a + bs.length ≤ k → byteAt t k = byteAt s k
  beside : ∀ id c, Beside s t id c
  holdings : HoldingsKept s t
  indexes : t.indexes = s.indexes

/-- The slots of one row of a context's Pocket that a remote access names (R355). -/
def rowSlots (s : State) (c lb row : Nat) : List (Nat × Nat) := slotsOf (ctxOf s c) lb row 1

/-- The search of this device that a job's ZIP_LIST belongs to. -/
def spanQuery (s : State) (job tag : Nat) : Option (Nat × Query) :=
  s.queries.find? (fun p => match p.2.span with
    | some r => r.tag == tag && r.job == job
    | none => false)

/-- The merge of an issuer after a pass of a child's entries. -/
def mergedPass (r : SpanRole) (status : Nat) (entries : List (Nat × Nat × Nat)) (last : Bool) : SpanRole :=
  { r with
    hits := r.hits ++ spanHits entries, left := r.left - flagBit last
    failed := if status == Code.OK || r.failed.isSome then r.failed else some status }

/-- A device's share of another device's search at an epoch: its candidates, or why it has none (R230). -/
def shareOf (s : State) (entry epoch round query : Nat) : List SpanHit × Nat :=
  match indexOf s (srIndex entry) with
  | none => ([], Code.OK)
  | some x =>
    if x.current < epoch then ([], Code.BAD_FIELD)
    else if epoch < oldestOf s x then ([], Code.EPOCH_RETIRED)
    else match listsError s x (tabKeys x.extents) epoch with
      | some (_, st) => ([], st)
      | none => (ownShare s x entry epoch round (queryCodes x.desc (leBytes (queryBytes x.desc) query))
          (querySketch x.desc (leBytes (queryBytes x.desc) query)), Code.OK)

/-- The share kept so far of another device's search. -/
def shareSoFar (s : State) (job gen issuer tag : Nat) : SpanShare :=
  (tabGet s.spans (spanKey issuer tag)).getD { job := job, gen := gen, issuer := issuer, tag := tag }

/-- A share is kept, until its own part and its children have all come; then it leaves for its parent in the tree (R357). -/
def sharesOn (s t : State) (k : Nat) (p : SpanShare) : Prop :=
  if p.started && p.done == treeChildren (treeMembers (jobEntry s p.job) p.issuer) (ownDevice s) then
    ∃ u, u = { s with spans := u.spans } ∧ tabGet u.spans k = none ∧ (∀ i, i ≠ k → tabGet u.spans i = tabGet s.spans i) ∧
      match treeParent (treeMembers (jobEntry s p.job) p.issuer) (ownDevice s) with
      | none => t = u
      | some d => Side (bump u Key.ZIPPER_MERGES 1) t ∧
        ((p.hits.take p.kScan).length ≤ 64 → leaves (bump u Key.ZIPPER_MERGES 1) t msgZipList p.job d
          (p.tag + 2 ^ 16 + p.issuer * 2 ^ 20)
          (((spanEntries (p.hits.take p.kScan)).foldr (fun c v => v * 2 ^ 128 + c.1 + c.2.1 * 2 ^ 16 + c.2.2 * 2 ^ 64) 0) *
            2 ^ 16 + p.status))
  else t = { s with spans := tabSet s.spans k p }

/-- The request of a remote reply that belongs to a command that is still open: the command's record after the reply. -/
def replied (q : RemoteReq) (data : Nat) (j : Job) : Job :=
  { j with reads := j.reads - 1, work := if q.write then j.work else j.work ++ [data] }

/-- No link has sealed as many flits as one session may (R440). -/
def sealsLeft (s : State) : Bool :=
  decide (s.aedup.link.sealedOut < 2 ^ 48) && s.pelgan.links.all (fun p => decide (p.2.sealedOut < 2 ^ 48))

/-- A dictionary request has been completed with a status, a length and data, and its reply has left on its path: as a
DICT_RSP when there is a route, or as a datagram that is kept for its source. -/
structure Answered (s t : State) (q : Request) (status rlength data : Nat) : Prop where
  kept : Undisturbed s t
  counted : counts s t Key.DICT_REQUESTS 1
  refused : isSuccess status = false → counts s t Key.DICT_REFUSED 1
  last : t.dict.last = some (replyOf q status rlength data)
  free : t.dict.waiting = s.dict.waiting ∧ t.dict.backlog = s.dict.backlog
  fabric : q.path = .dictReq → ∀ r, flowRoute s 0xFFF q.source = some r → ∃ l, t.out =
    .message (firstPort r) msgDictRsp q.source q.number (data * 2 ^ 32 + status * 2 ^ 16 + rlength) :: (l ++ s.out)
  port : q.path = .mgmt → (∃ l, t.out = .mgmtReply q.source (mgmtHeader (replyOf q status rlength data))
      (status / 256 + 256 * data) :: (l ++ s.out)) ∧
    t.dict.replay = ((q.source, q.number, replyOf q status rlength data) ::
      s.dict.replay.filter (fun p => p.1 != q.source)).take 16

/-- A dictionary request has reached the service (R364, R365): it waits behind another, is refused by a check, reads an
entry that its chapter gives a plain value, writes, or waits for a line of the queue table. -/
structure Served (s t : State) (q : Request) : Prop where
  waits : s.dict.waiting.isSome = true → t = { s with dict := { s.dict with backlog := s.dict.backlog ++ [q] } }
  refused : dictFree s = true → ∀ st r, checkRequest s q = (st, r) → st ≠ Code.OK → Answered s t q st 0 0
  reads : dictFree s = true → ∀ r, checkRequest s q = (Code.OK, r) → q.op = 1 → derived s q.key = none →
    openEntry s q.key = false → q.key / 256 ∉ [0xF032, 0xF041] → r.ty ≠ .str → q.length ≠ 0 →
    Answered s t q Code.OK q.length (field (inForce s q.key) (8 * q.offset) (8 * q.length))
  writes : dictFree s = true → ∀ r, checkRequest s q = (Code.OK, r) → q.op = 2 → enableLine s q = none →
    t = finishWrite s q r
  line : dictFree s = true → ∀ r line, checkRequest s q = (Code.OK, r) → enableLine s q = some line →
    t.dict.waiting = some (q, line) ∧ t.queues = s.queues ∧ t.jobs = s.jobs ∧ t.mem = s.mem

/-- The fields of an abort flit (Table 17.9). -/
def abortJob (flit : Nat) : Nat := field flit 116 12
def abortGen (flit : Nat) : Nat := field flit 108 8
def abortOrigin (flit : Nat) : Nat := field flit 96 12
def abortCause (flit : Nat) : Nat := field flit 80 16
def abortFormation (flit : Nat) : Nat := field flit 64 16

/-- An abort flit is new here (R356): of this formation, over a link of the group, and not seen before. -/
def newAbort (s : State) (port flit : Nat) : Bool :=
  abortFormation flit == reg s Key.PELGAN_FORMATION && !s.pelgan.seen.contains (abortJob flit, abortGen flit) &&
    groupLink s port

/-- The device is a member of the job that an abort flit names, in its generation, and the job is ACTIVE. -/
def abortConcerns (s : State) (flit : Nat) : Bool :=
  abortJob flit < 255 && jobState (jobEntry s (abortJob flit)) == 1 && jobGen (jobEntry s (abortJob flit)) == abortGen flit &&
    jobMember (jobEntry s (abortJob flit)) (ownDevice s)

end Sys2Proof.Machine
end

