-- ==== Sys2Proof/Certificates/Slice0/Obligations.lean ====
section
/-! DEFINITION. The statements about this hardware, for every family of commands and every kind of state. -/

open Sys2Proof Sys2Proof.Machine

/-- O1. A step runs the command at the front of the queue. For every command c and state s with c at the front of its
queue, step of s is exec of c on s with the rest of the queue. (R62) -/
def Obligations.StepRunsFront : Prop :=
  ∀ (c : Instr) (rest : List Instr) (s : State), s.pending = c :: rest → step s = exec c { s with pending := rest }

/-- O2. A step on an empty queue idles. With no command waiting, a step answers the same state (the model's choice,
log entry 2). (98_reader.md) -/
def Obligations.IdleOnEmptyQueue : Prop :=
  ∀ s : State, s.pending = [] → step s = .next s

/-- O3. The memories and tables are canonical at reset. At State.reset every byte memory is in its canonical form, and the
admitted commands and the link ends are listed once each in rising order (the model's forms, log entry 8). (R169) -/
def Obligations.ResetMemoriesCanonical : Prop :=
  State.reset.memWf = true ∧ State.reset.keysRise

/-- O4. Every step keeps the memories and tables canonical. From every state whose byte memories (device memory, the
mirror of companion memory, the durable flash data, the Pockets, the mailbox page) are in canonical form, whatever
command is at the front of the queue, a step answers a state whose memories are in canonical form, so that equal
memories are equal data; and where the admitted commands and the link ends are listed once each in rising order,
they are so after the step: no two commands have one admission number. (R169, R166) -/
def Obligations.StepKeepsMemoriesCanonical : Prop :=
  ∀ s t : State, step s = .next t → (s.memWf = true → t.memWf = true) ∧ (s.keysRise → t.keysRise)

/-- O5. A step goes on and takes exactly one command. Every step of every state answers a next state, whose queue is
the old queue without its front: no command stops the block, and no command adds to the queue, reorders it or
drops from it (first in, first out: log entry 4). (98_reader.md) -/
def Obligations.StepTakesOneCommand : Prop :=
  ∀ s : State, ∃ t, step s = .next t ∧ t.pending = s.pending.tail

/-- O6. No command changes what the factory wrote. For every command and state, the SERIAL, the MAC, the block step,
the identity key pair with its certificate, and the trims in the EEPROM stay as they are, and the count of
quarantines in the EEPROM never falls. (R392, R441, R16) -/
def Obligations.FactoryDataStays : Prop :=
  ∀ (c : Instr) (s : State), ∃ t, exec c s = .next t ∧ factoryData t = factoryData s ∧
    s.eeprom.quarantines ≤ t.eeprom.quarantines

/-- O7. The state after reset. At reset the device is OFF with no command, no context, no queue, no object and nothing
sent, and the entries show their defaults: among them HEM.BEAT_PERIOD 10,000,000 ns, CTX.MAX_RUNNING 64, the mesh
of 1,200 blocks, PERF.FREEZE 0, GENR.USER_STREAMS 0xFFFF0000, MEM.STRIPE_BYTES 65,536. (Table 2.2, Table 4.9,
Table 8.15, Table 22.8) -/
def Obligations.ResetValues : Prop :=
  State.reset.start = .off ∧ State.reset.pending = [] ∧ State.reset.queues = [] ∧ State.reset.jobs = [] ∧
    State.reset.ctxs = [] ∧ State.reset.mem.objects = [] ∧ State.reset.out = [] ∧
    reg State.reset Key.HEM_BEAT_PERIOD = 10000000 ∧ reg State.reset Key.PERF_FREEZE = 0 ∧
    reg State.reset 0x101904 = 0xFFFF0000 ∧ reg State.reset 0x101305 = 65536

/-- O8. What each command of start-up does. POWER_ON takes the device from OFF to POWER_GOOD with the EEPROM being
read and the DRBG seeded. A failed EEPROM_READ asserts the fatal output and a retry follows; a good one takes the
EEPROM's identity and block map and has the four regions wake in order. The quick path goes from IDENTIFY to
TRAIN; a long test whose checks 4, 5 and 6 pass does so too, and takes the failed lanes. A stack that trains at
one of the three rates is trained and out of self-refresh; one that passes none asserts the fatal output. A flash
channel that trains is up at its rate, and one that does not is down. TRAIN_END enters CONFIGURE with the fatal
output released, once every stack is trained. (R391, R392, R393, R411, R185, R187, R188, R374) -/
def Obligations.StartUpCommands : Prop :=
  (∀ s : State, s.start = .off →
    exec .powerOn s = .next { s with
      start := .powerGood, power := { s.power with reading := true }, sec := { s.sec with drbg := some 0 } }) ∧
  (∀ s : State, s.start = .powerGood → s.power.reading = true →
    exec (.eepromRead false) s = .next { s with fatal := true, power := { s.power with reading := false } }) ∧
  (∀ s : State, s.start = .powerGood → s.power.reading = true →
    tabGet s.eeprom.kept Key.ID_SERIAL = none → tabGet s.eeprom.kept Key.CHIP_BLOCK_MAP = none →
    ∃ t, exec (.eepromRead true) s = .next t ∧ reg t Key.ID_SERIAL = s.eeprom.serial ∧
      reg t Key.CHIP_BLOCK_MAP = s.eeprom.blockMap ∧ t.power.waking = [0, 1, 2, 3] ∧ t.chip.closed = [0, 1, 2, 3] ∧
      t.start = .powerGood) ∧
  (∀ s : State, s.start = .powerGood → s.power.reading = false → s.power.waking = [] →
    exec .eepromReadRetry s = .next { s with power := { s.power with reading := true } }) ∧
  (∀ s : State, s.start = .identify → reg s Key.POWER_LAST_START = 1 →
    exec .quickPathEnd s = .next { s with start := .train }) ∧
  (∀ (s : State) (vin : Nat), s.start = .identify → reg s Key.POWER_LAST_START = 0 →
    950000000 ≤ reg s Key.POWER_ACLK_NOW → reg s Key.POWER_ACLK_NOW ≤ 1050000000 → 1750 ≤ vin → vin ≤ 1850 →
    ∃ t, exec (.longTestLimitCheck vin) s = .next t ∧ t.test.longRun = true ∧ reg t Key.POWER_VIN_MV = vin ∧
      t.start = .identify) ∧
  (∀ (s : State) (pelgan aedup : List Nat) (failed : Nat), s.start = .identify → s.test.longRun = true →
    bitOf failed 4 = false → bitOf failed 5 = false → bitOf failed 6 = false →
    ∃ t, exec (.longTestEnd [] pelgan aedup failed) s = .next t ∧ t.start = .train ∧ t.test.longRun = false ∧
      t.aedup.badLanes = aedup ∧ t.pelgan.lanesOut = pelgan) ∧
  (∀ (s : State) (k rate : Nat), s.start = .train → k < 12 → rate = 10400 ∨ rate = 9600 ∨ rate = 8000 →
    ∃ t, exec (.hbmTrain k rate) s = .next t ∧ (stackOf t k).trained = true ∧ (stackOf t k).selfRefresh = false ∧
      field (reg t Key.HBM_RATE) (16 * k) 16 = rate) ∧
  (∀ (s : State) (k : Nat), s.start = .train → k < 12 → exec (.hbmTrain k 0) s = .next { s with fatal := true }) ∧
  (∀ (s : State) (c luns blocks stripes bad : Nat), s.start = .train → c < 64 → reg s Key.FLASH_EXT_MODE = 0 → 0 < luns →
    ∃ t, exec (.flashChannelTrain c 0b1111 luns blocks stripes bad true) s = .next t ∧
      tabGet t.mem.channels c = some {
        up := true, rate := 3200, luns := luns, blocks := blocks, stripes := stripes, bad := bad }) ∧
  (∀ s : State, s.start = .train → (∀ k, k < 12 → (stackOf s k).trained = true) →
    ∃ t, exec .trainEnd s = .next t ∧ t.start = .configure ∧ t.fatal = false ∧ t.mem = s.mem)

/-- O9. The state of the flash tier after its rebuild. FLASH_TIER_REBUILD in TRAIN sets FLASH.STATE to ABSENT with no
channel up, to UNFORMATTED where the targets carry no metadata, to DEGRADED with some of the 64 channels down, and
to READY with all up; the FLASH objects of the last durable copy are registered again only where the tier carries
data; the device memory keeps its bytes. (R192) -/
def Obligations.FlashTierRebuildState : Prop :=
  ∀ (s : State) (metadata : Bool), s.start = .train →
    ∃ t, exec (.flashTierRebuild metadata) s = .next t ∧ t.mem.dev = s.mem.dev ∧
      reg t Key.FLASH_STATE =
        (if s.mem.channels.all (fun p => !p.2.up) then 0
         else if !metadata || !s.mem.formatted then 1
         else if (s.mem.channels.filter (fun p => p.2.up)).length < 64 then 3 else 2) ∧
      (reg t Key.FLASH_STATE ≤ 1 → t.mem.objects = []) ∧
      (2 ≤ reg t Key.FLASH_STATE → t.mem.objects = s.mem.durableObjs)

/-- O10. Chip resets and loss of power. Loss of VDD_AON leaves the device OFF with the EEPROM and the durable flash
data, every entry at its default and device memory holding the durable data alone. COLD_RST_N does the same and
starts the device again. WARM_RST_N keeps the durable data and the error log grows by one; every context is FREE;
the device is at POWER_GOOD with the EEPROM to be read; no command is left. (R396, R397, R407, R395) -/
def Obligations.ChipResets : Prop :=
  (∀ s : State, ∃ t, exec .vddAonAbsent s = .next t ∧ t.start = .off ∧ t.eeprom = s.eeprom ∧ t.regs = [] ∧
    t.mem.dev = s.mem.durable ∧ t.mem.durable = s.mem.durable ∧ t.jobs = [] ∧ t.ctxs = [] ∧ t.queues = [] ∧
    t.sec.slots = []) ∧
  (∀ s : State, s.start ≠ .off → ∃ t, exec .coldRstN s = .next t ∧ t.start = .powerGood ∧ t.power.reading = true ∧
    t.eeprom = s.eeprom ∧ t.regs = [] ∧ t.mem.dev = s.mem.durable ∧ t.jobs = [] ∧ t.sec.slots = []) ∧
  (∀ s : State, s.start ≠ .off → ∃ t, exec .warmRstN s = .next t ∧ t.start = .powerGood ∧ t.power.reading = true ∧
    t.jobs = [] ∧ t.queues = [] ∧ (∀ c, (ctxOf t c).state = .free) ∧ t.mem.durable = s.mem.durable ∧
    t.mem.objects = [] ∧ t.dict.wb = [])

/-- O11. Power failure, power errors and the die temperature. The fall of PWR_FAIL_N asserts the alert output, counts,
remembers the ACLK in force and begins a change to 0.60 GHz; its rise releases the alert and begins the change
back. A power error of row 7 of Table 19.6 writes POWER.ERRORS and lowers ACLK by one step; one of rows 1 to 6
takes a chip warm reset with the fatal output asserted. THERMAL_READ shows the hottest sensor and throttles from
POWER.TJ_THROTTLE_C on. ACLK_STEP moves ACLK one step of 50 MHz down while the die is hot and up to 1.05 GHz when
it is not; ACLK_CHANGE_END puts the new ACLK in force. (R389, R390) -/
def Obligations.PowerEvents : Prop :=
  (∀ s : State, s.start ≠ .off → powerFailing s = false → ∃ t, exec .pwrFailNFall s = .next t ∧
    AlertCause.powerFail ∈ t.alerts ∧ t.power.aclkSaved = some (reg s Key.POWER_ACLK_NOW) ∧
    t.power.aclkNext = some 600000000) ∧
  (∀ s : State, powerFailing s = true → ∃ t, exec .pwrFailNRise s = .next t ∧ AlertCause.powerFail ∉ t.alerts ∧
    t.power.aclkNext = s.power.aclkSaved) ∧
  (∀ s : State, s.start ≠ .off → s.power.aclkNext = none → 600000000 < reg s Key.POWER_ACLK_NOW →
    ∃ t, exec (.powerError 7) s = .next t ∧ reg t Key.POWER_ERRORS = 7 ∧
      t.power.aclkNext = some (reg s Key.POWER_ACLK_NOW - 50000000) ∧ t.start = s.start) ∧
  (∀ (s : State) (row : Nat), s.start ≠ .off → 1 ≤ row → row ≤ 6 →
    ∃ t, exec (.powerError row) s = .next t ∧ t.fatal = true ∧ t.start = .powerGood ∧ t.jobs = []) ∧
  (∀ (s : State) (hottest : Nat), s.start ≠ .off → hottest < 256 → ∃ t, exec (.thermalRead hottest) s = .next t ∧
    reg t Key.POWER_TJ_HOT_C = hottest ∧
    (reg s Key.POWER_TJ_THROTTLE_C ≤ hottest → t.power.hot = true) ∧
    (hottest + 2 ≤ reg s Key.POWER_TJ_THROTTLE_C → t.power.hot = false)) ∧
  (∀ s : State, s.start ≠ .off → powerFailing s = false → s.power.hot = false → s.power.aclkNext = none →
    reg s Key.POWER_ACLK_NOW < 1050000000 →
    exec .aclkStep s = .next { s with power := { s.power with
      aclkNext := some (reg s Key.POWER_ACLK_NOW + 50000000) } }) ∧
  (∀ s : State, s.start ≠ .off → powerFailing s = false → s.power.hot = true → s.power.aclkNext = none →
    600000000 < reg s Key.POWER_ACLK_NOW →
    ∃ t, exec .aclkStep s = .next t ∧ t.power.aclkNext = some (reg s Key.POWER_ACLK_NOW - 50000000)) ∧
  (∀ (s : State) (a : Nat), s.power.aclkNext = some a → ∃ t, exec .aclkChangeEnd s = .next t ∧
    reg t Key.POWER_ACLK_NOW = a ∧ t.power.aclkNext = none)

/-- O12. Blocks in and out of IDLE. An awake block that asks for IDLE is asking; the Collar grants it when a fall
token is there, and takes the token. An IDLE block with a row ready is admitted when a rise token is there, the
current limit allows it and no ACLK change runs: it ramps, and at the end of its ramp it is awake. A bucket never
exceeds its depth. (R114, R115, R385, R386) -/
def Obligations.CollarCommands : Prop :=
  (∀ (s : State) (b : Nat), tabGet s.power.blocks b = some .awake →
    exec (.idleRequest b) s = .next (setBlock s b .asking)) ∧
  (∀ (s : State) (b : Nat), tabGet s.power.blocks b = some .ramping →
    exec (.rampEnd b) s = .next (setBlock s b .awake)) ∧
  (∀ (s : State) (b : Nat), tabGet s.power.blocks b = some .asking → s.power.aclkNext = none →
    blockStep s ≤ (refill s 0).power.fall →
    ∃ t, exec (.idleGrant b 0) s = .next t ∧ tabGet t.power.blocks b = none ∧
      t.power.fall = (refill s 0).power.fall - blockStep s) ∧
  (∀ (s : State) (b ns waited : Nat), b < 1200 → tabGet s.power.blocks b = none → regionAwake s (regionOfBlock b) = true →
    testWindowOpen s = true → s.power.aclkNext = none → blockStep s ≤ (refill s ns).power.rise →
    estimateMa s + blockStep s ≤ reg s Key.COLLAR_CURRENT_LIMIT * 1000 →
    ∃ t, exec (.collarAdmission b waited ns) s = .next t ∧ tabGet t.power.blocks b = some .ramping ∧
      t.power.rise = (refill s ns).power.rise - blockStep s)

/-- O13. A power state entry ends, and a region wakes. When an entry to IDLE ends with nothing asked meanwhile, no
block is awake and POWER.STATE shows IDLE; when one to DEEP_SLEEP ends with no move in flight, the four regions
sleep and every stack is in self-refresh. The eighth stage of a region's wake opens the region. (R387, R388, R463) -/
def Obligations.PowerStateReached : Prop :=
  (∀ s : State, s.power.entering = some .idle → s.power.leave = none → s.power.waking = [] →
    ∃ t, exec .powerStateReached s = .next t ∧ t.power.blocks = [] ∧ t.power.level = 1 ∧ reg t Key.POWER_STATE = 1) ∧
  (∀ s : State, s.power.entering = some .deepSleep → s.power.leave = none → s.power.waking = [] →
    (∀ p ∈ s.mem.units, p.2.move = none) →
    ∃ t, exec .powerStateReached s = .next t ∧ t.power.level = 2 ∧ reg t Key.POWER_STATE = 2 ∧
      (∀ p ∈ t.mem.hbmStacks, p.2.selfRefresh = true)) ∧
  (∀ (s : State) (r : Nat), s.power.waking.head? = some r → s.power.stage = 7 → s.chip.resetting = [] →
    ∃ t, exec (.regionWakeStage r) s = .next t ∧ t.power.waking = s.power.waking.tail ∧ t.power.stage = 0 ∧
      r ∉ t.chip.closed)

/-- O14. What a write of an entry does. A write within the limits of an entry that has no behaviour of its own, on a
free privileged path in READY, completes with OK. An RW entry has the new value at once, and the EEPROM keeps it
where the entry is kept there; a WB entry keeps its value and the write waits for its boundary, behind those
accepted before it; the WO1 entry WARDROBE.BAND_ROWS takes its value and is locked, and a second write of it fails
with BAD_FIELD and changes no entry but the counts of requests. (R362, R40, R97, R365) -/
def Obligations.RegisterWrites : Prop :=
  (∀ (s : State) (p : Path) (k v : Nat) (r : EntryRow), serviceFree s p = true → privileged p = true → s.start = .ready →
    k ∈ [Key.STORE_STAGING_LIMIT, Key.STORE_BACKGROUND_FLUSH, Key.CTX_STARVE_BEATS, Key.POCKET_DEFAULT_GROUP_MAP,
      Key.MEM_MOVE_BOUND, Key.MEM_PROMOTE, Key.HBM_SCRUB_HOURS, Key.FLASH_EXT_MODE, Key.FLASH_WRITE_AGE,
      Key.FLASH_THROTTLE, Key.SEARCH_COMPACT_EXTENTS, Key.RESET_DRAIN_US, Key.TEST_INOP_ENABLE, Key.TEST_PER_REGION,
      Key.AEDUP_PROTECT, Key.AEDUP_MIN_WIDTH, Key.PELGAN_GROUP_ID, Key.MGMT_NOTIFY] →
    rowOf k = some r → k ∉ s.dict.locks → inLimits k v = true → v < 2 ^ (8 * r.size) →
    ∃ t, exec (.registerWrite p k 0 r.size v) s = .next t ∧ wrote t p k Code.OK ∧ reg t k = v ∧ t.dict.wb = s.dict.wb ∧
      t.mem = s.mem ∧ t.eeprom.kept = (if r.eeprom then tabSet s.eeprom.kept k v else s.eeprom.kept)) ∧
  (∀ (s : State) (p : Path) (k v : Nat) (r : EntryRow), serviceFree s p = true → privileged p = true → s.start = .ready →
    k ∈ [Key.ARRAY_RAMP_STEP, Key.FORMAT_SCALE_RULE, Key.FORMAT_ROUNDING, Key.FORMAT_SHADOW_SHIFT,
      Key.FORMAT_FALLBACK_ENABLE, Key.COLLAR_SLEW_LIMIT, Key.COLLAR_CURRENT_LIMIT, Key.PERF_FREEZE, Key.OVERLAY_ACTIVE] →
    rowOf k = some r → k ∉ s.dict.locks → inLimits k v = true → v < 2 ^ (8 * r.size) →
    ∃ t, exec (.registerWrite p k 0 r.size v) s = .next t ∧ wrote t p k Code.OK ∧ reg t k = reg s k ∧
      t.dict.wb = s.dict.wb ++ [⟨dueBeat s, k, 0, r.size, v, []⟩]) ∧
  (∀ (s : State) (p : Path) (v : Nat), serviceFree s p = true → privileged p = true → s.start = .ready →
    Key.WARDROBE_BAND_ROWS ∉ s.dict.locks → (∀ q ∈ s.ctxs, q.2.used = false) → v ≤ 8192 → v % 16 = 0 →
    ∃ t, exec (.registerWrite p Key.WARDROBE_BAND_ROWS 0 2 v) s = .next t ∧ wrote t p Key.WARDROBE_BAND_ROWS Code.OK ∧
      reg t Key.WARDROBE_BAND_ROWS = v ∧ t.dict.locks = Key.WARDROBE_BAND_ROWS :: s.dict.locks) ∧
  (∀ (s : State) (p : Path) (v : Nat), serviceFree s p = true → privileged p = true → s.start = .ready →
    Key.WARDROBE_BAND_ROWS ∈ s.dict.locks → v < 65536 →
    ∃ t, exec (.registerWrite p Key.WARDROBE_BAND_ROWS 0 2 v) s = .next t ∧
      wrote t p Key.WARDROBE_BAND_ROWS Code.BAD_FIELD ∧ reg t Key.WARDROBE_BAND_ROWS = reg s Key.WARDROBE_BAND_ROWS ∧
      t.mem = s.mem ∧ t.eeprom = s.eeprom)

/-- O15. The power requests. In READY, on a free privileged path: POWER.REQUEST 0, with no entry in progress, clears
POWER.REGION_REQUEST, ends IDLE or DEEP_SLEEP and has every sleeping region wake; 1 and 2, from ACTIVE with
nothing admitted and nothing in transition (and no context holding quads for 2), begin the entry and show
TRANSITION; during a transition, or with a command admitted, they fail with POWER_STATE_DENIED and nothing of the
power state changes. POWER.REGION_REQUEST, from ACTIVE with all regions awake, begins to put the named regions to
sleep when none of them is held or serves a command. (R388, R463) -/
def Obligations.PowerRequests : Prop :=
  (∀ (s : State) (p : Path), serviceFree s p = true → privileged p = true → s.start = .ready → s.power.entering = none → Key.POWER_REQUEST ∉ s.dict.locks →
    ∃ t, exec (.powerRequestActive p) s = .next t ∧ wrote t p Key.POWER_REQUEST Code.OK ∧ t.power.level = 0 ∧
      reg t Key.POWER_REGION_REQUEST = 0 ∧
      (∀ r, r < 4 → bitOf (reg s Key.POWER_REGION_SLEEP_MAP) r = true →
        r ∈ t.power.waking ∧ bitOf (reg t Key.POWER_REGION_SLEEP_MAP) r = false)) ∧
  (∀ (s : State) (p : Path), serviceFree s p = true → privileged p = true → s.start = .ready → Key.POWER_REQUEST ∉ s.dict.locks → s.power.level = 0 → s.power.entering = none →
    s.power.waking = [] → s.jobs = [] →
    ∃ t, exec (.powerRequestIdle p) s = .next t ∧ wrote t p Key.POWER_REQUEST Code.OK ∧
      t.power.entering = some .idle ∧ reg t Key.POWER_STATE = 3 ∧ t.ctxs = s.ctxs ∧ t.mem = s.mem) ∧
  (∀ (s : State) (p : Path), serviceFree s p = true → privileged p = true → s.start = .ready → Key.POWER_REQUEST ∉ s.dict.locks → s.power.level = 0 → s.power.entering = none →
    s.power.waking = [] → s.jobs = [] → (∀ c ∈ s.ctxs, c.2.quads = []) →
    ∃ t, exec (.powerRequestDeepSleep p) s = .next t ∧ wrote t p Key.POWER_REQUEST Code.OK ∧
      t.power.entering = some .deepSleep ∧ reg t Key.POWER_STATE = 3 ∧ t.ctxs = s.ctxs ∧ t.mem = s.mem) ∧
  (∀ (s : State) (p : Path), serviceFree s p = true → privileged p = true → s.start = .ready → Key.POWER_REQUEST ∉ s.dict.locks →
    s.power.entering ≠ none ∨ s.power.waking ≠ [] ∨ (s.jobs ≠ [] ∧ s.power.level = 0) →
    ∃ t u, exec (.powerRequestIdle p) s = .next t ∧ exec (.powerRequestDeepSleep p) s = .next u ∧
      wrote t p Key.POWER_REQUEST Code.POWER_STATE_DENIED ∧ wrote u p Key.POWER_REQUEST Code.POWER_STATE_DENIED ∧
      t.power = s.power ∧ u.power = s.power ∧ reg t Key.POWER_REQUEST = reg s Key.POWER_REQUEST ∧
      reg u Key.POWER_REQUEST = reg s Key.POWER_REQUEST) ∧
  (∀ (s : State) (p : Path) (v : Nat), serviceFree s p = true → privileged p = true → s.start = .ready → Key.POWER_REGION_REQUEST ∉ s.dict.locks → s.power.level = 0 →
    s.power.entering = none → s.power.waking = [] → reg s Key.POWER_REGION_SLEEP_MAP = 0 → 1 ≤ v → v ≤ 15 →
    (∀ r, r < 4 → bitOf v r = true → regionHeld s r = false ∧ servedIn s r = false) →
    ∃ t, exec (.powerRegionRequest p v) s = .next t ∧ wrote t p Key.POWER_REGION_REQUEST Code.OK ∧
      reg t Key.POWER_REGION_REQUEST = v ∧ t.power.entering = some (.regions v))

/-- O16. Writes that end configuration and ask for resets. On a free privileged path: DICT.CONFIG_DONE 1 in CONFIGURE,
with the tier key loaded or the flash tier without data, enters READY. DIAG.RESET 1 takes a chip warm reset and 2
a chip cold reset: the device is at POWER_GOOD with no command left, and its durable flash data as they were.
DIAG.REGION_RESET starts the reset of a region: the region is closed, waits for its wake and is counted. (R374,
R396, R397, R398) -/
def Obligations.ResetWrites : Prop :=
  (∀ (s : State) (p : Path), serviceFree s p = true → privileged p = true → s.start = .configure →
    Key.DICT_CONFIG_DONE ∉ s.dict.locks → slotLoaded s 0 = true ∨ reg s Key.FLASH_STATE ≤ 1 →
    ∃ t, exec (.dictConfigDone p 1) s = .next t ∧ wrote t p Key.DICT_CONFIG_DONE Code.OK ∧ t.start = .ready ∧
      t.mem = s.mem) ∧
  (∀ (s : State) (p : Path), serviceFree s p = true → privileged p = true → s.start = .ready → Key.DIAG_RESET ∉ s.dict.locks →
    ∃ t, exec (.diagResetWarm p) s = .next t ∧ t.start = .powerGood ∧ t.jobs = [] ∧ t.power.reading = true ∧
      t.mem.durable = s.mem.durable) ∧
  (∀ (s : State) (p : Path), serviceFree s p = true → privileged p = true → s.start = .ready → Key.DIAG_RESET ∉ s.dict.locks →
    ∃ t, exec (.diagResetCold p) s = .next t ∧ t.start = .powerGood ∧ t.jobs = [] ∧ t.regs = [] ∧
      t.mem.durable = s.mem.durable ∧ t.mem.dev = s.mem.durable) ∧
  (∀ (s : State) (p : Path) (r : Nat), serviceFree s p = true → privileged p = true → s.start = .ready → Key.DIAG_REGION_RESET ∉ s.dict.locks → r < 4 → r ∉ s.chip.resetting →
    ∃ t, exec (.diagRegionReset p r) s = .next t ∧ wrote t p Key.DIAG_REGION_RESET Code.OK ∧ r ∈ t.chip.closed ∧
      r ∈ t.chip.resetting ∧ r ∈ t.power.waking)

/-- O17. Writes of the beat: calendar, period and source. In READY, on a free privileged path, a valid staged calendar
is captured and waits for its boundary, so does a valid period on a device that is no worker, and a beat source;
an invalid calendar, and a period on a worker, fail with BAD_FIELD and leave the writes that wait as they were.
(R41, R43, R459) -/
def Obligations.BeatWrites : Prop :=
  (∀ (s : State) (p : Path), serviceFree s p = true → privileged p = true → s.start = .ready → Key.HEM_CALENDAR_COMMIT ∉ s.dict.locks →
    calendarValid (stagedCalendar s) (periodDue s) = true →
    ∃ t, exec (.hemCalendarCommit p 1) s = .next t ∧ wrote t p Key.HEM_CALENDAR_COMMIT Code.OK ∧
      t.dict.wb = s.dict.wb ++ [⟨dueBeat s, Key.HEM_CALENDAR_COMMIT, 0, 1, 1, stagedCalendar s⟩] ∧
      t.hem = s.hem) ∧
  (∀ (s : State) (p : Path), serviceFree s p = true → privileged p = true → s.start = .ready → calendarValid (stagedCalendar s) (periodDue s) = false →
    ∃ t, exec (.hemCalendarCommit p 1) s = .next t ∧ wrote t p Key.HEM_CALENDAR_COMMIT Code.BAD_FIELD ∧
      t.dict.wb = s.dict.wb) ∧
  (∀ (s : State) (p : Path) (v : Nat), serviceFree s p = true → privileged p = true → s.start = .ready → Key.HEM_BEAT_PERIOD ∉ s.dict.locks → isWorker s = false →
    250000 ≤ v → v ≤ 1000000000 → calendarValid (calendarDue s) v = true →
    ∃ t, exec (.hemBeatPeriod p v) s = .next t ∧ wrote t p Key.HEM_BEAT_PERIOD Code.OK ∧
      reg t Key.HEM_BEAT_PERIOD = reg s Key.HEM_BEAT_PERIOD ∧
      t.dict.wb = s.dict.wb ++ [⟨dueBeat s, Key.HEM_BEAT_PERIOD, 0, 4, v, []⟩]) ∧
  (∀ (s : State) (p : Path) (v : Nat), serviceFree s p = true → privileged p = true → s.start = .ready → isWorker s = true → v < 2 ^ 32 →
    ∃ t, exec (.hemBeatPeriod p v) s = .next t ∧ wrote t p Key.HEM_BEAT_PERIOD Code.BAD_FIELD ∧
      t.dict.wb = s.dict.wb) ∧
  (∀ (s : State) (p : Path) (v : Nat), serviceFree s p = true → privileged p = true → s.start = .ready → Key.HEM_BEAT_SOURCE ∉ s.dict.locks → v ≤ 1 →
    ∃ t, exec (.hemBeatSource p v) s = .next t ∧ wrote t p Key.HEM_BEAT_SOURCE Code.OK ∧
      t.dict.wb = s.dict.wb ++ [⟨dueBeat s, Key.HEM_BEAT_SOURCE, 0, 1, v, []⟩])

/-- O18. Queues are enabled and disabled. In READY, on a free privileged path, with the line of the queue table at
hand: QUEUE.ENABLE of a queue of the table that is DISABLED, whose entry passes its checks, has the queue ENABLED
as its entry describes it, with head and tail at 0 and the wrap bit at 1, when the cache has room; one with a bad
number fails with BAD_FIELD. QUEUE.DISABLE of an ENABLED queue with commands has it DRAINING, and of one without
becomes DISABLED at once; of another queue it fails. (R52, R53) -/
def Obligations.QueueWrites : Prop :=
  (∀ (s : State) (p : Path) (n : Nat), serviceFree s p = true → privileged p = true → s.start = .ready → n < 1024 →
    n < reg s Key.QUEUE_TABLE_ENTRIES → tabGet s.queues n = none → lineHeld s (tableLine s n) = true →
    tableCheck (tableEntry s n) = Code.OK → (cachedQueues s).length < reg s Key.QUEUE_CACHE_ENTRIES →
    ∃ t, exec (.queueEnable p n) s = .next t ∧ wrote t p Key.QUEUE_ENABLE Code.OK ∧
      tabGet t.queues n = some (freshQueue (tableEntry s n) s.jobNext)) ∧
  (∀ (s : State) (p : Path) (n : Nat), serviceFree s p = true → privileged p = true → s.start = .ready → n < 65536 →
    reg s Key.QUEUE_TABLE_ENTRIES ≤ n ∨ tabGet s.queues n ≠ none →
    ∃ t, exec (.queueEnable p n) s = .next t ∧ wrote t p Key.QUEUE_ENABLE Code.BAD_FIELD ∧ t.queues = s.queues) ∧
  (∀ (s : State) (p : Path) (n : Nat) (q : Queue), serviceFree s p = true → privileged p = true → s.start = .ready → n < 65536 → Key.QUEUE_DISABLE ∉ s.dict.locks →
    tabGet s.queues n = some q → q.draining = false → (∃ x ∈ s.jobs, x.2.queue = n ∧ x.2.lost = false) →
    ∃ t, exec (.queueDisable p n) s = .next t ∧ wrote t p Key.QUEUE_DISABLE Code.OK ∧
      tabGet t.queues n = some { q with draining := true }) ∧
  (∀ (s : State) (p : Path) (n : Nat) (q : Queue), serviceFree s p = true → privileged p = true → s.start = .ready → n < 65536 → Key.QUEUE_DISABLE ∉ s.dict.locks →
    tabGet s.queues n = some q → q.draining = false → s.jobs = [] → s.aedup.held = [] → s.aedup.link.state = .active →
    ∃ t, exec (.queueDisable p n) s = .next t ∧ wrote t p Key.QUEUE_DISABLE Code.OK ∧ tabGet t.queues n = none) ∧
  (∀ (s : State) (p : Path) (n : Nat), serviceFree s p = true → privileged p = true → s.start = .ready → n < 65536 →
    tabGet s.queues n = none ∨ (tabGet s.queues n).map Queue.draining = some true →
    ∃ t, exec (.queueDisable p n) s = .next t ∧ wrote t p Key.QUEUE_DISABLE Code.BAD_FIELD ∧ t.queues = s.queues)

/-- O19. Writes of self-test. In READY, on a free privileged path: DIAG.BLOCK_RETURN of a quarantined block that is
not queued, while a window can hold a slice, queues its return; of an available block it does nothing.
TEST.SHUTDOWN_RUN 1 with nothing admitted, no quad held and the limits met, starts the shut-down test; with a
command admitted it fails with POWER_STATE_DENIED, and with the limits not met with TEST_SKIPPED_LIMITS. (R18,
R410) -/
def Obligations.SelfTestWrites : Prop :=
  (∀ (s : State) (p : Path) (b : Nat), serviceFree s p = true → privileged p = true → s.start = .ready → Key.DIAG_BLOCK_RETURN ∉ s.dict.locks → b < 1200 →
    blockAvailable s b = false → b ∉ s.chip.returns → windowFits s = true →
    ∃ t, exec (.diagBlockReturn p b) s = .next t ∧ wrote t p Key.DIAG_BLOCK_RETURN Code.OK ∧
      t.chip.returns = s.chip.returns ++ [b]) ∧
  (∀ (s : State) (p : Path) (b : Nat), serviceFree s p = true → privileged p = true → s.start = .ready → Key.DIAG_BLOCK_RETURN ∉ s.dict.locks → b < 65536 →
    blockAvailable s b = true →
    ∃ t, exec (.diagBlockReturn p b) s = .next t ∧ wrote t p Key.DIAG_BLOCK_RETURN Code.OK ∧ t.chip = s.chip) ∧
  (∀ (s : State) (p : Path) (vin : Nat), serviceFree s p = true → privileged p = true → s.start = .ready → Key.TEST_SHUTDOWN_RUN ∉ s.dict.locks → s.jobs = [] →
    (∀ c ∈ s.ctxs, c.2.quads = []) → 950000000 ≤ reg s Key.POWER_ACLK_NOW → reg s Key.POWER_ACLK_NOW ≤ 1050000000 →
    1750 ≤ vin → vin ≤ 1850 →
    ∃ t, exec (.testShutdownRun p 1 vin) s = .next t ∧ wrote t p Key.TEST_SHUTDOWN_RUN Code.OK ∧ t.test.shutdown = 1) ∧
  (∀ (s : State) (p : Path) (vin : Nat), serviceFree s p = true → privileged p = true → s.start = .ready → s.jobs ≠ [] → Key.TEST_SHUTDOWN_RUN ∉ s.dict.locks →
    ∃ t, exec (.testShutdownRun p 1 vin) s = .next t ∧ wrote t p Key.TEST_SHUTDOWN_RUN Code.POWER_STATE_DENIED ∧
      t.test = s.test) ∧
  (∀ (s : State) (p : Path) (vin : Nat), serviceFree s p = true → privileged p = true → s.start = .ready → s.jobs = [] → (∀ c ∈ s.ctxs, c.2.quads = []) →
    Key.TEST_SHUTDOWN_RUN ∉ s.dict.locks → 1850 < vin → vin < 65536 →
    ∃ t, exec (.testShutdownRun p 1 vin) s = .next t ∧ wrote t p Key.TEST_SHUTDOWN_RUN Code.TEST_SKIPPED_LIMITS ∧
      t.test = s.test)

/-- O20. Writes of keys, formats and attestation. In READY on a free path. SEC.KEY_LOAD with a good record of a link
key on the mailbox loads its slot with its kind and key and counts the load; by DICT_REQ it fails with
ACCESS_DENIED, and no slot changes. SEC.KEY_CLEAR empties its slot and no other. A write of all of
SEC.ATTEST_NONCE has a report built that carries the nonce and the state, signed with the device identity key.
DIAG.FLASH_FORMAT 1 with nothing on the tier and a key to set leaves the tier without data, staged or durable,
without a map and without state copies, with the check value of the key that it sets; with something on it, it
fails with BAD_FIELD and no memory changes. (R434, R435, R441, R195, R437) -/
def Obligations.SecurityWrites : Prop :=
  (∀ (s : State) (v : Nat), serviceFree s .mailbox = true → s.start = .ready → Key.SEC_KEY_LOAD ∉ s.dict.locks →
    v < 2 ^ 640 → krVersion v = 1 → krKind v = 2 → 1 ≤ krSlot v → krSlot v ≤ 63 → krKey v < 2 ^ 256 →
    ∃ t, exec (.secKeyLoad .mailbox v) s = .next t ∧ wrote t .mailbox Key.SEC_KEY_LOAD Code.OK ∧
      t.sec.slots = tabSet s.sec.slots (krSlot v) ⟨2, krKey v⟩ ∧ t.mem = s.mem ∧ t.eeprom = s.eeprom) ∧
  (∀ (s : State) (v : Nat), serviceFree s .dictReq = true → s.start = .ready →
    ∃ t, exec (.secKeyLoad .dictReq v) s = .next t ∧ wrote t .dictReq Key.SEC_KEY_LOAD Code.ACCESS_DENIED ∧
      t.sec = s.sec) ∧
  (∀ (s : State) (p : Path) (n : Nat), serviceFree s p = true → privileged p = true → s.start = .ready → Key.SEC_KEY_CLEAR ∉ s.dict.locks → 1 ≤ n → n ≤ 63 →
    ∃ t, exec (.secKeyClear p n) s = .next t ∧ wrote t p Key.SEC_KEY_CLEAR Code.OK ∧ tabGet t.sec.slots n = none ∧
      (∀ m, m ≠ n → tabGet t.sec.slots m = tabGet s.sec.slots m) ∧ t.mem = s.mem ∧ t.eeprom = s.eeprom) ∧
  (∀ (s : State) (p : Path) (v : Nat), serviceFree s p = true → s.start = .ready → Key.SEC_ATTEST_NONCE ∉ s.dict.locks →
    v < 2 ^ 384 →
    ∃ t, exec (.secAttestNonce p v) s = .next t ∧ wrote t p Key.SEC_ATTEST_NONCE Code.OK ∧
      reg t Key.SEC_ATTEST_NONCE = v ∧ reg t Key.SEC_ATTEST_REPORT / 2 ^ 768 = reportBody s v ∧
      t.sec.slots = s.sec.slots ∧ t.eeprom = s.eeprom ∧ t.mem = s.mem) ∧
  (∀ (s : State) (p : Path) (k : KeySlot), serviceFree s p = true → privileged p = true → s.start = .ready → Key.DIAG_FLASH_FORMAT ∉ s.dict.locks → tierInUse s = false →
    reg s Key.SEC_TIER_KEY_SOURCE = 1 → tabGet s.sec.slots 0 = some k →
    ∃ t, exec (.diagFlashFormat p 1) s = .next t ∧ wrote t p Key.DIAG_FLASH_FORMAT Code.OK ∧ t.mem.durable = [] ∧
      t.mem.staged = [] ∧ t.mem.places = [] ∧ t.mem.durableObjs = [] ∧ t.mem.programs = [] ∧ t.copies = [] ∧
      t.sec.tierKcv = some (kcvOf k.key) ∧ t.mem.comp = s.mem.comp ∧ t.mem.objects = s.mem.objects) ∧
  (∀ (s : State) (p : Path), serviceFree s p = true → privileged p = true → s.start = .ready → tierInUse s = true →
    ∃ t, exec (.diagFlashFormat p 1) s = .next t ∧ wrote t p Key.DIAG_FLASH_FORMAT Code.BAD_FIELD ∧ t.mem = s.mem ∧
      t.sec = s.sec)

/-- O21. Writes of jobs, bindings, samples, the hot cache and the retrain. In READY on a free privileged path. On a
device that is no worker, a write of PELGAN.JOB that gives members to a job not ACTIVE is accepted: the entry with
the next JOB_GEN is ACTIVE from the boundary two whole beats on, and the entry is as it was until then; one that
gives members to an ACTIVE job, and one on a worker, fails with BAD_FIELD. A binding of a context to an ACTIVE job
of this device that no other context is bound to waits for its boundary, and so does an unbinding.
PERF.SAMPLE_RELEASE takes a count between the released and the taken samples and frees the buffer.
BELT.HOT_CACHE_ENABLE clears the hot-row caches. AEDUP.RETRAIN_REQUEST starts a retrain of an ACTIVE link and
counts it. (R353, R354, R431, R267, R341) -/
def Obligations.FabricAndSampleWrites : Prop :=
  (∀ (s : State) (j v : Nat), serviceFree s .mailbox = true → s.start = .ready → j < 255 →
    Key.PELGAN_JOB j ∉ s.dict.locks → v < 2 ^ 4224 → field v 0 8 = 1 → isWorker s = false → field v 128 4096 ≠ 0 →
    jobState (jobEntry s j) ≠ 1 → jobState (latestJob s j) ≠ 1 →
    ∃ t, exec (.pelganJobWrite .mailbox j v) s = .next t ∧ wrote t .mailbox (Key.PELGAN_JOB j) Code.OK ∧
      reg t (Key.PELGAN_JOB j) = reg s (Key.PELGAN_JOB j) ∧
      t.pelgan.jobsDue = s.pelgan.jobsDue ++ [⟨beatNow s + 3, j,
        field v 128 4096 * 2 ^ 128 + (jobGen (latestJob s j) + 1) % 256 * 2 ^ 16 + 1 * 2 ^ 8 + 1⟩]) ∧
  (∀ (s : State) (j v : Nat), serviceFree s .mailbox = true → s.start = .ready → j < 255 → v < 2 ^ 4224 →
    field v 0 8 = 1 → isWorker s = true ∨ (field v 128 4096 ≠ 0 ∧ jobState (jobEntry s j) = 1) →
    ∃ t, exec (.pelganJobWrite .mailbox j v) s = .next t ∧ wrote t .mailbox (Key.PELGAN_JOB j) Code.BAD_FIELD ∧
      t.pelgan.jobsDue = s.pelgan.jobsDue) ∧
  (∀ (s : State) (p : Path) (c j : Nat), serviceFree s p = true → privileged p = true → s.start = .ready → Key.PELGAN_CTX_JOB ∉ s.dict.locks → c < 4096 →
    j = 0xFFFF ∨ (j < 255 ∧ jobState (jobEntry s j) = 1 ∧ jobMember (jobEntry s j) (ownDevice s) = true ∧
      ∀ d, d < 4096 → d ≠ c → field (pendingValue s Key.PELGAN_CTX_JOB) (16 * d) 16 ≠ j) →
    ∃ t, exec (.pelganCtxJob p c j) s = .next t ∧ wrote t p Key.PELGAN_CTX_JOB Code.OK ∧
      reg t Key.PELGAN_CTX_JOB = reg s Key.PELGAN_CTX_JOB ∧
      t.dict.wb = s.dict.wb ++ [⟨dueBeat s, Key.PELGAN_CTX_JOB, 2 * c, 2, j, []⟩]) ∧
  (∀ (s : State) (p : Path) (b v : Nat), serviceFree s p = true → privileged p = true → s.start = .ready → b < 5 → Key.PERF_SAMPLE_RELEASE b ∉ s.dict.locks → v < 2 ^ 64 →
    reg s (Key.PERF_SAMPLE_RELEASE b) ≤ v → v ≤ reg s (Key.PERF_SAMPLE_COUNT b) →
    ∃ t, exec (.perfSampleRelease p b v) s = .next t ∧ wrote t p (Key.PERF_SAMPLE_RELEASE b) Code.OK ∧
      reg t (Key.PERF_SAMPLE_RELEASE b) = v ∧ t.mem = s.mem) ∧
  (∀ (s : State) (p : Path) (v : Nat), serviceFree s p = true → privileged p = true → s.start = .ready → Key.BELT_HOT_CACHE_ENABLE ∉ s.dict.locks → v ≤ 1 →
    ∃ t, exec (.beltHotCacheEnable p v) s = .next t ∧ wrote t p Key.BELT_HOT_CACHE_ENABLE Code.OK ∧
      reg t Key.BELT_HOT_CACHE_ENABLE = v ∧ t.belt.hot = [] ∧ t.belt.tables = s.belt.tables) ∧
  (∀ (s : State) (p : Path), serviceFree s p = true → privileged p = true → s.start = .ready → Key.AEDUP_RETRAIN_REQUEST ∉ s.dict.locks → s.aedup.link.state = .active →
    ∃ t, exec (.aedupRetrainRequest p 1) s = .next t ∧ wrote t p Key.AEDUP_RETRAIN_REQUEST Code.OK ∧
      t.aedup.link.state = .retrain)

/-- O22. Beat boundaries. A boundary begins the next beat: its number follows, no event of it has fired, no window is
open, no flit is used again. BEAT_BOUNDARY does so on a device in FREE_RUN or LOST that is no worker, and on a
worker at the number and with the period of the flit that it has; BEAT_IN_EDGE does on a device that follows
BEAT_IN, for an edge within 1/1,024 of the period; HOLDOVER_BOUNDARY does where the input is missing. An early
edge is counted and begins no beat; so does none that comes without the input being followed. (R34, R37, R38, R48,
R50) -/
def Obligations.BeatBoundaries : Prop :=
  (∀ (s : State) (a : Int) (late : List Nat), s.start ≠ .off → isWorker s = false →
    reg s Key.HEM_STATE = 0 ∨ reg s Key.HEM_STATE = 3 →
    ∃ t, exec (.beatBoundary a late) s = .next t ∧ beatBegins t (beatNow s + 1)) ∧
  (∀ (s : State) (a : Int) (late : List Nat) (n per : Nat), s.start ≠ .off → isWorker s = true → s.hem.flit = some (n, per) →
    ∃ t, exec (.beatBoundary a late) s = .next t ∧ beatBegins t n ∧ reg t Key.HEM_BEAT_PERIOD = per) ∧
  (∀ (s : State) (b e : Nat) (late : List Nat), s.start ≠ .off → isWorker s = false → reg s Key.HEM_BEAT_SOURCE ≠ 1 →
    reg s Key.HEM_STATE = 1 ∨ reg s Key.HEM_STATE = 2 → 1023 * reg s Key.HEM_BEAT_PERIOD ≤ 1024 * b →
    1024 * b ≤ 1025 * reg s Key.HEM_BEAT_PERIOD →
    ∃ t, exec (.beatInEdge b e late) s = .next t ∧ beatBegins t (beatNow s + 1)) ∧
  (∀ (s : State) (b e : Nat) (late : List Nat), s.start ≠ .off → isWorker s = false → reg s Key.HEM_BEAT_SOURCE ≠ 1 →
    reg s Key.HEM_STATE = 1 ∨ reg s Key.HEM_STATE = 2 → 1024 * b < 1023 * reg s Key.HEM_BEAT_PERIOD →
    ∃ t, exec (.beatInEdge b e late) s = .next t ∧ beatNow t = beatNow s ∧ t.hem = s.hem ∧
      reg t Key.HEM_BEAT_IN_REJECTS = reg (bump s Key.HEM_BEAT_IN_REJECTS 1) Key.HEM_BEAT_IN_REJECTS) ∧
  (∀ (s : State) (b e : Nat) (late : List Nat), s.start = .off ∨ isWorker s = true ∨ reg s Key.HEM_BEAT_SOURCE = 1 →
    exec (.beatInEdge b e late) s = .next s) ∧
  (∀ (s : State) (late : List Nat), s.start ≠ .off → inputMissing s = true →
    ∃ t, exec (.holdoverBoundary late) s = .next t ∧ beatBegins t (beatNow s + 1)) ∧
  (∀ (s : State) (late : List Nat), inputMissing s = false → exec (.holdoverBoundary late) s = .next s)

/-- O23. Edges of BEAT_IN and beat flits. On a device that watches for lock, an edge whose interval is within 1/1,024
of the period is counted until the sixteenth, another sets the count to 0, and neither begins a beat; a missing
edge sets the count to 0. The manager announces its next boundary once in a beat, on every group link; a worker
takes a flit of its formation that leaves at least 1 us, and sends every such flit on to its children with what is
left there. (R35, R50, R352, R459) -/
def Obligations.BeatInputs : Prop :=
  (∀ (s : State) (b e : Nat) (late : List Nat), s.start ≠ .off → isWorker s = false → reg s Key.HEM_BEAT_SOURCE ≠ 1 →
    reg s Key.HEM_STATE = 0 ∨ reg s Key.HEM_STATE = 3 → s.hem.edgeSeen = true → nearPeriod s e = true →
    s.hem.goodEdges < 15 →
    ∃ t, exec (.beatInEdge b e late) s = .next t ∧ t.hem.goodEdges = s.hem.goodEdges + 1 ∧ beatNow t = beatNow s ∧
      t.regs = s.regs) ∧
  (∀ (s : State) (b e : Nat) (late : List Nat), s.start ≠ .off → isWorker s = false → reg s Key.HEM_BEAT_SOURCE ≠ 1 →
    reg s Key.HEM_STATE = 0 ∨ reg s Key.HEM_STATE = 3 → s.hem.edgeSeen = false ∨ nearPeriod s e = false →
    ∃ t, exec (.beatInEdge b e late) s = .next t ∧ t.hem.goodEdges = 0 ∧ t.hem.edgeSeen = true ∧ t.regs = s.regs) ∧
  (∀ (s : State), ∃ t, exec .beatInEdgeAbsent s = .next t ∧ t.hem.goodEdges = 0 ∧ t.regs = s.regs ∧ t.out = s.out) ∧
  (∀ (s : State), s.start ≠ .off → reg s Key.HEM_ROLE = 1 → s.hem.announced = false →
    ∃ t, exec .beatFlitSend s = .next t ∧ t.hem.announced = true ∧ beatNow t = beatNow s ∧
      ∀ l ∈ groupLinks s, .beatFlit l (beatNow s + 1) (nextPeriod s) (reg s Key.HEM_ANNOUNCE_LEAD * 1000) ∈ t.out) ∧
  (∀ (s : State), reg s Key.HEM_ROLE ≠ 1 ∨ s.hem.announced = true → exec .beatFlitSend s = .next s) ∧
  (∀ (s : State) (port n per left : Nat), isWorker s = true → groupLink s port = true →
    1000000 + linkLatencyPs s port ≤ left →
    ∃ t, exec (.beatFlit port n per left (reg s Key.PELGAN_FORMATION)) s = .next t ∧ t.hem.flit = some (n, per) ∧
      ∀ l ∈ s.pelgan.children, .beatFlit l n per (left - linkLatencyPs s port - forwardPs) ∈ t.out) ∧
  (∀ (s : State) (port n per left f : Nat), isWorker s = false ∨ groupLink s port = false ∨ f ≠ reg s Key.PELGAN_FORMATION →
    exec (.beatFlit port n per left f) s = .next s)

/-- O24. Point events and windows. A point event that is not the next of its beat does nothing. PLAN_SEAL seals the
plan of the next beat. COUNTER_SNAPSHOT records the beat and, where no context exports, leaves every shadow at
what its counter then holds. At MASK_READY a due step of the one request, with all its masks in the buffer, is
marked for this beat, and one that lacks a mask is counted late. At SAMPLE a step that is ready and has no drafts
emits one token; with its grammar dead it emits EOS when FORCE_EOS is set, and none otherwise; one that is not
ready is counted a miss. At TOKEN_COMMIT emitted tokens are kept in order, and the step is counted; a step that
emitted nothing ends its request. A window opens at its time: a self-test window changes nothing else, and in a
preemption window a running context that is asked to leave and has no unit open begins to save. (R31, R39, R44,
R45, R46, R294, R295, R323, R326) -/
def Obligations.CalendarEvents : Prop :=
  (∀ (s : State) (p : Nat × Nat × Nat), (unfired s).head? = some p →
    (p.2.1 ≠ 5 → exec .maskReady s = .next s) ∧ (p.2.1 ≠ 6 → exec .sample s = .next s) ∧
    (p.2.1 ≠ 7 → exec .tokenCommit s = .next s) ∧ (p.2.1 ≠ 8 → exec .planSeal s = .next s) ∧
    (p.2.1 ≠ 2 → exec .counterSnapshot s = .next s)) ∧
  (∀ (s : State) (i : Nat), nextEvent s 8 i →
    ∃ t, exec .planSeal s = .next t ∧ t.hem.sealed = true ∧ t.hem.fired = i :: s.hem.fired ∧ t = { s with hem := t.hem }) ∧
  (∀ (s : State) (i : Nat), nextEvent s 2 i →
    ∃ t, exec .counterSnapshot s = .next t ∧ reg t Key.PERF_SNAP_BEAT = beatNow s ∧ t.hem.fired = i :: s.hem.fired ∧
      ((∀ c ∈ s.ctxs, c.2.permit = false) → s.perf.exports = [] → t.perf.blockShadow = t.perf.block ∧
        t.perf.regionShadow = t.perf.region ∧ t.perf.chipShadow = t.perf.chip)) ∧
  (∀ (s : State) (i id : Nat) (g : GenReq), nextEvent s 5 i → running s = true → s.gens = [(id, g)] → liveGens s = s.gens →
    sbGrammarEn g.block = true → stepDue s g = true → (ctxOf s g.ctx).state = .running →
    ∃ t, exec .maskReady s = .next t ∧
      (masksReady s g = true → (tabGet t.gens id).map GenReq.maskBeat = some (some (beatNow s))) ∧
      (masksReady s g = false → t.gens = s.gens ∧
        reg t Key.VEIL_MASK_LATE = reg (bump s Key.VEIL_MASK_LATE 1) Key.VEIL_MASK_LATE)) ∧
  (∀ (s : State) (i id : Nat) (g : GenReq), nextEvent s 6 i → running s = true → s.gens = [(id, g)] → liveGens s = s.gens →
    stepDue s g = true → g.stage = .ready → (ctxOf s g.ctx).state = .running →
    sbGrammarEn g.block = false ∨ g.maskBeat = some (beatNow s) →
    ∃ t h, exec .sample s = .next t ∧ tabGet t.gens id = some h ∧ h.stage = .sampled ∧ h.kept = g.kept ∧
      (genDead s g 0 = false → g.drafts = [] → ∃ x, h.emitted = [x]) ∧
      (genDead s g 0 = true → h.emitted = if sbForceEos g.block then [genEos s g] else [])) ∧
  (∀ (s : State) (i id : Nat) (g : GenReq), nextEvent s 6 i → running s = true → s.gens = [(id, g)] → liveGens s = s.gens →
    stepDue s g = true → g.stage ≠ .ready →
    ∃ t, exec .sample s = .next t ∧ t.gens = s.gens ∧
      reg t Key.HEM_SAMPLE_MISSES = reg (bump s Key.HEM_SAMPLE_MISSES 1) Key.HEM_SAMPLE_MISSES) ∧
  (∀ (s : State) (i id : Nat) (g : GenReq), nextEvent s 7 i → running s = true → s.gens = [(id, g)] → liveGens s = s.gens →
    g.stage = .sampled → (ctxOf s g.ctx).state = .running →
    ∃ t h, exec .tokenCommit s = .next t ∧ tabGet t.gens id = some h ∧
      (g.emitted ≠ [] → h.steps = g.steps + 1 ∧ ∃ k, 1 ≤ k ∧ h.kept = g.kept ++ g.emitted.take k) ∧
      (g.emitted = [] → h.stage = .ended ∧ h.kept = g.kept ∧ h.outcome = some (endDead, Code.GRAMMAR_DEAD))) ∧
  (∀ (s : State) (i : Nat), windowTime s i 4 = true →
    ∃ t, exec (.selftestWindow i) s = .next t ∧ i ∈ t.hem.windows ∧ t = { s with hem := t.hem }) ∧
  (∀ (s : State) (i c : Nat) (x : Ctx), windowTime s i 3 = true → running s = true → s.ctxs = [(c, x)] →
    x.state = .running → x.preempt = true → x.openUnits = [] → x.save = .none → s.queries = [] → s.gens = [] →
    ∃ t, exec (.preemptWindow i) s = .next t ∧ i ∈ t.hem.windows ∧ (ctxOf t c).state = .saving ∧ t.mem = s.mem ∧
      t.regs = s.regs)

/-- O25. Self-test slices of operation. With a window open, a region awake and below TEST.PER_REGION, SLICE_START
claims the region's next block once its array is awake. The slice starts in part 1 when it fits in what remains of
the window and the limits of supply and ACLK are met, as a return when the block was named by DIAG.BLOCK_RETURN; a
slice that does not fit is counted as deferred, and one whose limits are not met as skipped, and in both cases the
block is first in line. Parts follow one another; a failure in part 2 or 3 ends the slice, counts it run and
failed, and fences the block, or drops its return; part 4 ends it, and a return passes. Limits found unmet in part
2 or 3 abandon the test, and part 4 follows. (R413, R414, R415, R416, R18, 21_self_test.md) -/
def Obligations.SelfTestSlices : Prop :=
  (∀ (s : State) (r b ns vin : Nat), running s = true → r < 4 → regionAwake s r = true → testWindowOpen s = true →
    slicesIn s r < reg s Key.TEST_PER_REGION → nextSlice s r = some b → arrayAwake s b = true → vin < 65536 →
    ∃ t, exec (.sliceStart r ns vin) s = .next t ∧ reg t Key.POWER_VIN_MV = vin ∧ t.mem = s.mem ∧ t.pocket = s.pocket ∧
      t.chip = s.chip ∧
      (ns * 1000 < slicePs s → t.test.slices = s.test.slices ∧ t.test.first.head? = some b ∧
        reg t Key.TEST_SLICES_DEFERRED = reg (bump s Key.TEST_SLICES_DEFERRED 1) Key.TEST_SLICES_DEFERRED) ∧
      (slicePs s ≤ ns * 1000 → limitsMet (readVin s vin) = false → t.test.slices = s.test.slices ∧
        t.test.first.head? = some b ∧
        reg t Key.TEST_SKIPPED_LIMITS = reg (bump s Key.TEST_SKIPPED_LIMITS 1) Key.TEST_SKIPPED_LIMITS) ∧
      (slicePs s ≤ ns * 1000 → limitsMet (readVin s vin) = true → b ∉ t.test.first ∧
        tabGet t.test.slices b = some { part := 1, isReturn := s.chip.returns.contains b } ∧
        ∀ d, d ≠ b → tabGet t.test.slices d = tabGet s.test.slices d)) ∧
  (∀ (s : State) (b : Nat) (ok : Bool) (x : Slice), tabGet s.test.slices b = some x → x.part < 4 →
    ok = true ∨ x.part ≤ 1 →
    exec (.slicePartEnd b ok) s = .next { s with test := { s.test with
      slices := tabSet s.test.slices b { x with part := x.part + 1 } } }) ∧
  (∀ (s : State) (b : Nat) (x : Slice), tabGet s.test.slices b = some x → x.part = 2 ∨ x.part = 3 →
    ∃ t, exec (.slicePartEnd b false) s = .next t ∧ tabGet t.test.slices b = none ∧
      reg t Key.TEST_SLICES_FAILED = reg (bump s Key.TEST_SLICES_FAILED 1) Key.TEST_SLICES_FAILED ∧
      (x.isReturn = true → t.chip.returns = s.chip.returns.filter (fun y => y != b) ∧ t.chip.passed = s.chip.passed ∧
        t.chip.fenced = s.chip.fenced) ∧
      (x.isReturn = false → blockAvailable s b = true → b ∈ t.chip.fenced ∧
        t.eeprom.quarantines = s.eeprom.quarantines + 1)) ∧
  (∀ (s : State) (b : Nat) (ok : Bool) (x : Slice), tabGet s.test.slices b = some x → x.part = 4 → x.abandoned = false →
    ∃ t, exec (.slicePartEnd b ok) s = .next t ∧ tabGet t.test.slices b = none ∧
      reg t Key.TEST_SLICES_RUN = reg (bump s Key.TEST_SLICES_RUN 1) Key.TEST_SLICES_RUN ∧
      reg t Key.TEST_SLICES_FAILED = reg s Key.TEST_SLICES_FAILED ∧ t.pocket = s.pocket ∧
      (x.isReturn = true → b ∈ t.chip.passed ∧ b ∉ t.chip.returns)) ∧
  (∀ (s : State) (b vin : Nat) (x : Slice), tabGet s.test.slices b = some x → vin < 65536 →
    ∃ t, exec (.sliceLimitCheck b vin) s = .next t ∧ reg t Key.POWER_VIN_MV = vin ∧
      tabGet t.test.slices b = (if (x.part = 2 ∨ x.part = 3) ∧ limitsMet (readVin s vin) = false
        then some { x with part := 4, abandoned := true } else some x))

/-- O26. The stages of the shut-down test. SHUTDOWN_TEST_PROGRESS takes the shut-down test from its flush, once
nothing is staged, to the waking of the regions, from that, once no region is waking, to the checks, from these to
the clean record that tells their outcome, and from that to its end: the record, sealed with its CRC, is in the
EEPROM and TEST.SHUTDOWN_STATE is 2. With no test in progress it does nothing. (R410, R411, R412) -/
def Obligations.ShutdownTestStages : Prop :=
  (∀ (s : State) (bl pl al nr : List Nat) (f : Nat), s.test.shutdown = 1 → s.mem.staged = [] →
    ∃ t, exec (.shutdownTestProgress bl pl al nr f) s = .next t ∧ t.test.shutdown = 2 ∧ t.eeprom = s.eeprom ∧
      ∀ r, r < 4 → bitOf (reg s Key.POWER_REGION_SLEEP_MAP) r = true → r ∈ t.power.waking) ∧
  (∀ (s : State) (bl pl al nr : List Nat) (f : Nat), s.test.shutdown = 2 → s.power.waking = [] →
    exec (.shutdownTestProgress bl pl al nr f) s = .next { s with test := { s.test with shutdown := 3 } }) ∧
  (∀ (s : State) (bl pl al nr : List Nat) (f : Nat), s.test.shutdown = 3 →
    ∃ t, exec (.shutdownTestProgress bl pl al nr f) s = .next t ∧ t.test.shutdown = 4 ∧ t.pelgan.lanesOut = pl ∧
      t.aedup.badLanes = al ∧ t.eeprom.record = s.eeprom.record ∧
      (bl = [] → pl = [] → al = [] → nr = [] → s.chip.fenced = [] → s.chip.passed = [] → f < 2 ^ 64 →
        t.test.record = reg s Key.CHIP_BLOCK_MAP % 2 ^ 1200 * 2 ^ 816 + f * 2 ^ 464 + beatNow s * 2 ^ 384 +
          s.eeprom.serial * 2 ^ 320 + (if f = 0 then 2 ^ 8 else 0) + 1)) ∧
  (∀ (s : State) (bl pl al nr : List Nat) (f : Nat), s.test.shutdown = 4 →
    ∃ t, exec (.shutdownTestProgress bl pl al nr f) s = .next t ∧ t.test.shutdown = 5 ∧
      t.eeprom.record = sealRecord s.test.record ∧ reg t Key.TEST_SHUTDOWN_STATE = 2 ∧ t.mem = s.mem) ∧
  (∀ (s : State) (bl pl al nr : List Nat) (f : Nat), s.test.shutdown = 0 ∨ 5 ≤ s.test.shutdown →
    exec (.shutdownTestProgress bl pl al nr f) s = .next s)

/-- O27. The TAP answers BYPASS, IDCODE and SAMPLE/PRELOAD, and refuses the rest. In every state BYPASS, IDCODE and
SAMPLE/PRELOAD are selected, BYPASS sends its one bit and IDCODE sends 0x04100B4B, with version 0, part 0x4100,
manufacturer 0x5A5 and a 1 in bit 0; no work of the device is disturbed. While TEST.TEST_MODE is not 1, every
other instruction selects BYPASS and has no other effect. (R417) -/
def Obligations.TapAccess : Prop :=
  (∀ s : State, ∃ t, exec .tapBypass s = .next t ∧ t.test.tap = .bypass ∧ .tap 1 0 ∈ t.out ∧ Undisturbed s t) ∧
  (∀ s : State, ∃ t, exec .tapIdcode s = .next t ∧ t.test.tap = .idcode ∧ .tap 32 0x04100B4B ∈ t.out ∧ Undisturbed s t) ∧
  (field 0x04100B4B 28 4 = 0 ∧ field 0x04100B4B 12 16 = 0x4100 ∧ field 0x04100B4B 1 11 = 0x5A5 ∧
    bitOf 0x04100B4B 0 = true) ∧
  (∀ s : State, ∃ t, exec .tapSamplePreload s = .next t ∧ t.test.tap = .samplePreload ∧ t.out = s.out ∧
    Undisturbed s t) ∧
  (∀ s : State, reg s Key.TEST_TEST_MODE ≠ 1 →
    exec .tapRefusedInstruction s = .next { s with test := { s.test with tap := .bypass } })

/-- O28. Entry into test mode. TEST_ENTER, on a device that is powered, asserts the alert output, stops all work,
leaves no key slot, no session key and no SEED of a context, and sets TEST.TEST_MODE; it does not touch the flash
tier. A reset of the TAP selects IDCODE (the model's reading of IEEE 1149.1) and does not end test mode; nor does
an instrument selected in it. (R418) -/
def Obligations.TestMode : Prop :=
  (∀ s : State, s.start ≠ .off →
    ∃ t, exec .testEnter s = .next t ∧ reg t Key.TEST_TEST_MODE = 1 ∧ t.chip.stopped = true ∧ AlertCause.testMode ∈ t.alerts ∧
      t.sec.slots = [] ∧ t.sec.sessions = [] ∧ t.sec.rootKey = false ∧ t.test.slices = [] ∧ t.mem = s.mem ∧
      ∀ c, field (ctxOf t c).genState 192 64 = 0) ∧
  (∀ s : State, s.start = .off → exec .testEnter s = .next s) ∧
  (∀ s : State, ∃ t, exec .tapReset s = .next t ∧ t.test.tap = .idcode ∧ t.regs = s.regs ∧ t.out = s.out ∧ Undisturbed s t) ∧
  (∀ s : State, reg s Key.TEST_TEST_MODE = 1 → exec .tapRefusedInstruction s = .next s)

/-- O29. Doorbells, and the fetch of a queue's table entry. With the link ACTIVE, a submission doorbell below the ring
size of an ENABLED queue gives it a new submission tail and asks for its table entry when that is not cached; a
completion doorbell that goes no farther than CQ_TAIL releases the slots up to it. One that names a queue not
ENABLED, a value not below the ring size or a head beyond CQ_TAIL is counted in QUEUE.DOORBELL_ERRORS and changes
nothing else, and one that repeats the value has no effect. QUEUE_TABLE_FETCH caches an entry that was asked for,
once its line is there and the cache has room. (R54, R56) -/
def Obligations.Doorbells : Prop :=
  (∀ (s : State) (n v : Nat) (q : Queue), s.aedup.link.state = .active → n < 1024 → tabGet s.queues n = some q →
    q.draining = false → v < 2 ^ q.sqLog → v ≠ q.sqTail →
    ∃ t, exec (.submissionDoorbell n v) s = .next t ∧
      tabGet t.queues n = some { q with sqTail := v, wanted := q.wanted || !q.cached } ∧
      (∀ m, m ≠ n → tabGet t.queues m = tabGet s.queues m) ∧ t.jobs = s.jobs ∧ t.ctxs = s.ctxs) ∧
  (∀ (s : State) (n v : Nat) (q : Queue), s.aedup.link.state = .active → n < 1024 → tabGet s.queues n = some q →
    q.draining = false → v < 2 ^ q.cqLog → v ≠ q.cqHead → (v + 2 ^ q.cqLog - q.cqHead) % 2 ^ q.cqLog ≤ q.unread →
    ∃ t, exec (.completionDoorbell n v) s = .next t ∧
      tabGet t.queues n = some { q with
        cqHead := v, wanted := q.wanted || !q.cached,
        unread := q.unread - (v + 2 ^ q.cqLog - q.cqHead) % 2 ^ q.cqLog } ∧
      (∀ m, m ≠ n → tabGet t.queues m = tabGet s.queues m) ∧ t.jobs = s.jobs ∧ t.ctxs = s.ctxs) ∧
  (∀ (s : State) (n v : Nat), s.aedup.link.state = .active → n < 1024 →
    (tabGet s.queues n).all (fun q => q.draining || 2 ^ q.sqLog ≤ v) = true →
    exec (.submissionDoorbell n v) s = .next (bump s Key.QUEUE_DOORBELL_ERRORS 1)) ∧
  (∀ (s : State) (n v : Nat), s.aedup.link.state = .active → n < 1024 →
    (tabGet s.queues n).all (fun q => q.draining || 2 ^ q.cqLog ≤ v ||
      (v != q.cqHead && q.unread < (v + 2 ^ q.cqLog - q.cqHead) % 2 ^ q.cqLog)) = true →
    exec (.completionDoorbell n v) s = .next (bump s Key.QUEUE_DOORBELL_ERRORS 1)) ∧
  (∀ (s : State) (n : Nat) (q : Queue), s.aedup.link.state = .active → n < 1024 → tabGet s.queues n = some q →
    q.draining = false → (q.sqTail < 2 ^ q.sqLog → exec (.submissionDoorbell n q.sqTail) s = .next s) ∧
    (q.cqHead < 2 ^ q.cqLog → exec (.completionDoorbell n q.cqHead) s = .next s)) ∧
  (∀ (s : State) (n : Nat) (q : Queue), tabGet s.queues n = some q → q.cached = false → q.wanted = true →
    lineHeld s (tableLine s n) = true → (cachedQueues s).length < reg s Key.QUEUE_CACHE_ENTRIES →
    ∃ t, exec (.queueTableFetch n) s = .next t ∧
      tabGet t.queues n = some { q with
        cached := true, wanted := false, lastUse := s.jobNext,
        sqHead := qtSqHead (tableEntry s n), cqTail := qtCqTail (tableEntry s n), cqWrap := qtCqWrap (tableEntry s n) } ∧
      (∀ m, m ≠ n → tabGet t.queues m = tabGet s.queues m) ∧
      reg t Key.QUEUE_FETCHES = reg (bump s Key.QUEUE_FETCHES 1) Key.QUEUE_FETCHES)

/-- O30. Admission. When a region admits, the entry at the head of the first ready queue that has an admission left in
its round is read: the queue's head goes on by one in its ring, and the client of the queue is charged with one
more command submitted. An entry that passes its checks, with a command slot free and room for its context's
entry, takes its place among the admitted commands with the fields of its header, the queue's client and its
starting beat; one that fails its checks takes none, and no context changes. (R58) -/
def Obligations.AdmissionCharges : Prop :=
  ∀ (s : State) (r n : Nat) (q : Queue), r < 4 → admits s r = true → q.client < 256 →
    (readyQueues (wantHeads s r) r).find? (fun p => p.2.credit != 0) = some (n, q) →
    (cacheCtx (bump { useLine (wantHeads s r) (headLine q) with
        queues := tabSet (wantHeads s r).queues n { q with
          sqHead := (q.sqHead + 1) % 2 ^ q.sqLog, lastUse := s.jobNext, credit := q.credit - 1 } }
      (Key.CLIENT_SUBMITTED q.client) 1) (entCtx (headEntry s q)) s.jobNext).isSome = true →
    (∀ p ∈ s.queues, p.1 = n → p.2.draining = false) →
    ∃ t, exec (.commandAdmission r) s = .next t ∧
      reg t (Key.CLIENT_SUBMITTED q.client) =
        reg (bump s (Key.CLIENT_SUBMITTED q.client) 1) (Key.CLIENT_SUBMITTED q.client) ∧
      (tabGet t.queues n).map Queue.sqHead = some ((q.sqHead + 1) % 2 ^ q.sqLog) ∧
      (slotsFull s = false → admissionCheck (wantHeads s r) (headEntry s q) = none → t.jobNext = s.jobNext + 1 ∧
        ∃ j, tabGet t.jobs s.jobNext = some j ∧ j.queue = n ∧ j.entry = headEntry s q ∧
          j.opcode = entOpcode (headEntry s q) ∧ j.ctx = entCtx (headEntry s q) ∧ j.cmdId = entCmdId (headEntry s q) ∧
          j.intr = entIntr (headEntry s q) ∧ j.client = q.client ∧ j.phase = .admitted ∧ j.start = dueBeat s ∧
          j.lost = false) ∧
      (slotsFull s = true ∨ admissionCheck (wantHeads s r) (headEntry s q) ≠ none → t.jobs = s.jobs ∧
        t.jobNext = s.jobNext ∧ t.ctxs = s.ctxs)

/-- O31. When a region admits nothing. A region outside 0 to 3 admits nothing, nor does one while the device is not
READY, in a power state other than ACTIVE, on its way into one, in the shut-down test, or with the region being
reset; and with no entry waiting in the queues of the region nothing changes but the round. (R55, R71, R398, R410) -/
def Obligations.AdmissionWaits : Prop :=
  (∀ (s : State) (r : Nat), 4 ≤ r ∨ running s = false ∨ s.power.level ≠ 0 ∨ s.power.entering ≠ none ∨ s.test.shutdown ≠ 0 ∨
    r ∈ s.chip.closed → exec (.commandAdmission r) s = .next s) ∧
  (∀ (s : State) (r : Nat), waitingQueues s r = [] → exec (.commandAdmission r) s = .next s)

/-- O32. Completion of a command. A command whose outcome is decided, and that is no generation request, leaves the
device: its client is charged by its outcome, and with the link ACTIVE and nothing held, its entry is written to
the next slot of the queue's completion ring, the wrap bit turning over at the end of the ring; while the link is
down the entry is held. During a retrain it waits. (R60, R61, R98, R340) -/
def Obligations.CompletionEntries : Prop :=
  (∀ (s : State) (id st res : Nat) (j : Job) (q : Queue), tabGet s.jobs id = some j → j.phase = .done st res →
    j.lost = false → tabGet s.gens id = none → tabGet s.queues j.queue = some q →
    (∀ p ∈ s.queues, p.1 = j.queue → p.2.draining = false) →
    s.aedup.link.state ≠ .retrain →
    ∃ t, exec (.commandCompletion id) s = .next t ∧ tabGet t.jobs id = none ∧
      (∀ i, i ≠ id → tabGet t.jobs i = tabGet s.jobs i) ∧
      (s.aedup.link.state = .active → s.aedup.held = [] → .aedupWrite (q.cqBase + 16 * q.cqTail) 16 ∈ t.out ∧
        (tabGet t.queues j.queue).map Queue.cqTail = some ((q.cqTail + 1) % 2 ^ q.cqLog) ∧
        (tabGet t.queues j.queue).map Queue.unread = some (q.unread + 1) ∧
        (tabGet t.queues j.queue).map Queue.cqWrap =
          some (if (q.cqTail + 1) % 2 ^ q.cqLog = 0 then 1 - q.cqWrap else q.cqWrap)) ∧
      (s.aedup.link.state ≠ .active → t.aedup.held = s.aedup.held ++ [⟨q.cqBase + 16 * q.cqTail,
        completionEntry j.cmdId st q.sqHead q.cqWrap res, if j.intr then some q.vector else none⟩] ∧ t.mem = s.mem)) ∧
  (∀ (s : State) (id st res : Nat) (j : Job), tabGet s.jobs id = some j → j.phase = .done st res → j.lost = true → j.client < 256 →
    tabGet s.gens id = none → s.aedup.link.state ≠ .retrain →
    ∃ t, exec (.commandCompletion id) s = .next t ∧ tabGet t.jobs id = none ∧ t.queues = s.queues ∧ t.mem = s.mem ∧
      reg t Key.AEDUP_LOST_COMPLETIONS = reg (bump s Key.AEDUP_LOST_COMPLETIONS 1) Key.AEDUP_LOST_COMPLETIONS) ∧
  (∀ (s : State) (id st res : Nat) (j : Job), tabGet s.jobs id = some j → j.phase = .done st res →
    s.aedup.link.state = .retrain → exec (.commandCompletion id) s = .next s)

/-- O33. NOP and CANCEL. A NOP that runs completes with OK and RESULT 0 and changes nothing else. A CANCEL that acts
looks for the earliest admitted, uncompleted command of the queue and identifier that it names: one that is not a
PUBLISH or a FLUSH, nor of a context in teardown, is marked to end at the next beat boundary, and CANCEL completes
with OK; in the other cases it completes with OK_NOOP and changes nothing else. (That a CANCEL acts as soon as it
is admitted is the model's reading, log entry 25.) (R59, R64) -/
def Obligations.NopAndCancel : Prop :=
  (∀ (s : State) (id : Nat) (j : Job), runsNow s id Op.NOP noSources j = true →
    ∃ t, exec (.nop id) s = .next t ∧ ends t id Code.OK 0 ∧ OnlyOutcome s t) ∧
  (∀ (s : State) (id : Nat) (j : Job), tabGet s.jobs id = some j → running s = true → j.opcode = Op.CANCEL →
    openJob j = true → j.queue % 4 ∉ s.chip.closed → ctxAllows (ctxOf s j.ctx) j = true →
    ∃ t, exec (.cancel id) s = .next t ∧
      (∀ k x, cancelTarget s id (param j.entry 95 80) (param j.entry 79 64) = some (k, x) → uncancellable s x = false →
        x.cancel = none → tabGet s.jobs k = some x → ends t id Code.OK 0 ∧ tabGet t.jobs k = some { x with cancel := some (beatNow s + 1) } ∧
        (∀ i, i ≠ id → i ≠ k → tabGet t.jobs i = tabGet s.jobs i)) ∧
      ((cancelTarget s id (param j.entry 95 80) (param j.entry 79 64)).all (fun p => uncancellable s p.2) = true →
        ends t id Code.OK_NOOP 0 ∧ ∀ i, i ≠ id → tabGet t.jobs i = tabGet s.jobs i) ∧
      t.mem = s.mem ∧ t.regs = s.regs ∧ t.indexes = s.indexes ∧ t.queues = s.queues)

/-- O34. WRITE_PASSAGES, WRITE_VECTORS and WRITE_SKETCHES. A storage write that runs on an index with no earlier
PUBLISH open, that names no LIVE or DELETED passage, reads its source, and finds places and staging for all its
records, stores each record at its place and no other byte; its passages become PENDING, and it ends with OK and
the bytes read. One that names a LIVE or DELETED passage ends with BAD_FIELD and stores nothing, and one that
waits for an earlier PUBLISH stores nothing. (R65, R67, R213, R214) -/
def Obligations.IndexWrites : Prop :=
  (∀ (s u : State) (id : Nat) (j : Job) (x x' : Index) (rs : List (List Nat)) (ws : List (Nat × List Nat)),
    runsNow s id Op.WRITE_PASSAGES writePassagesSources j = true → tabGet s.indexes (stIndex j.entry) = some x →
    publishAhead s (stIndex j.entry) id = false → (stPassages j.entry).any (passageClosed x) = false →
    readBad s (stAddr j.entry) (stLength j.entry) = false →
    passageRecords (stCount j.entry) (bytesAt s (stAddr j.entry) (stLength j.entry)) = .inr rs →
    placeTexts (touchRange (acting s j) (stAddr j.entry) (stLength j.entry)) x (stFirst j.entry) rs = some (x', ws) →
    prepareWrites (touchRange (acting s j) (stAddr j.entry) (stLength j.entry)) ws = .ready u →
    ∃ t, exec (.writePassages id) s = .next t ∧ ends t id Code.OK (rs.map List.length).sum ∧
      tabGet t.indexes (stIndex j.entry) = some (makePending x' (stPassages j.entry)) ∧
      (∀ i, i ≠ stIndex j.entry → tabGet t.indexes i = tabGet s.indexes i) ∧
      t.mem = (writeAll u ws).mem ∧ writesOnly s t ws ∧ Beside s t id j.ctx ∧ HoldingsKept s t) ∧
  (∀ (s u : State) (id : Nat) (j : Job) (x : Index) (ws : List (Nat × List Nat)),
    runsNow s id Op.WRITE_VECTORS writeVectorsSources j = true → tabGet s.indexes (stIndex j.entry) = some x →
    publishAhead s (stIndex j.entry) id = false → (stPassages j.entry).any (passageClosed x) = false →
    readBad s (stAddr j.entry) (stCount j.entry * vBytes x.desc) = false →
    ws = (List.range (stCount j.entry)).map (fun k => (ixVectorArea x.desc + (stFirst j.entry + k) * vStride x.desc,
      ((bytesAt s (stAddr j.entry) (stCount j.entry * vBytes x.desc)).drop (k * vBytes x.desc)).take (vBytes x.desc))) →
    prepareWrites (touchRange (acting s j) (stAddr j.entry) (stCount j.entry * vBytes x.desc)) ws = .ready u →
    ∃ t x', exec (.writeVectors id) s = .next t ∧ ends t id Code.OK (stCount j.entry * vBytes x.desc) ∧
      tabGet t.indexes (stIndex j.entry) = some x' ∧ (∀ p, p ∈ x'.vectors ↔ p ∈ x.vectors ∨ p ∈ stPassages j.entry) ∧
      (∀ p, tabGet x'.passages p = if p ∈ stPassages j.entry then some .pending else tabGet x.passages p) ∧
      (∀ i, i ≠ stIndex j.entry → tabGet t.indexes i = tabGet s.indexes i) ∧
      t.mem = (writeAll u ws).mem ∧ writesOnly s t ws ∧ Beside s t id j.ctx ∧ HoldingsKept s t) ∧
  (∀ (s u : State) (id : Nat) (j : Job) (x x' : Index) (rs : List (List Nat)) (as : List Nat),
    runsNow s id Op.WRITE_SKETCHES writeSketchesSources j = true → tabGet s.indexes (stIndex j.entry) = some x →
    publishAhead s (stIndex j.entry) id = false →
    readBad s (stAddr j.entry) (stCount j.entry * sketchBytes x.desc) = false →
    rs = (List.range (stCount j.entry)).map (fun k =>
      ((bytesAt s (stAddr j.entry) (stCount j.entry * sketchBytes x.desc)).drop (k * sketchBytes x.desc)).take
        (sketchBytes x.desc)) →
    sketchRecordsCheck x (rs.map ofLeBytes) = Code.OK →
    placeRecords (touchRange (acting s j) (stAddr j.entry) (stCount j.entry * sketchBytes x.desc)) x (stList j.entry)
      (x.current + 1) (stCount j.entry) = some (x', as) →
    prepareWrites (touchRange (acting s j) (stAddr j.entry) (stCount j.entry * sketchBytes x.desc)) (as.zip rs) = .ready u →
    ∃ t, exec (.writeSketches id) s = .next t ∧ ends t id Code.OK (stCount j.entry * sketchBytes x.desc) ∧
      tabGet t.indexes (stIndex j.entry) = some (makePending x' (rs.map (fun r => trPassage (trailerOf x.desc (ofLeBytes r))))) ∧
      (∀ i, i ≠ stIndex j.entry → tabGet t.indexes i = tabGet s.indexes i) ∧
      t.mem = (writeRecords u (as.zip rs)).mem ∧ Beside s t id j.ctx ∧ HoldingsKept s t ∧
      ∀ a, (∀ w ∈ as.zip rs, a < w.1 ∨ w.1 + w.2.length ≤ a) →
        (∀ w ∈ as.zip rs, w.1 % stripeBytes = 0 → a < w.1 ∨ w.1 + stripeBytes ≤ a) → byteAt t a = byteAt s a) ∧
  (∀ (s : State) (id : Nat) (j : Job) (x : Index), tabGet s.indexes (stIndex j.entry) = some x →
    publishAhead s (stIndex j.entry) id = false → (stPassages j.entry).any (passageClosed x) = true →
    (runsNow s id Op.WRITE_PASSAGES writePassagesSources j = true →
      ∃ t, exec (.writePassages id) s = .next t ∧ ends t id Code.BAD_FIELD 0 ∧ OnlyOutcome s t) ∧
    (runsNow s id Op.WRITE_VECTORS writeVectorsSources j = true →
      ∃ t, exec (.writeVectors id) s = .next t ∧ ends t id Code.BAD_FIELD 0 ∧ OnlyOutcome s t)) ∧
  (∀ (s : State) (id : Nat) (j : Job) (x : Index), tabGet s.indexes (stIndex j.entry) = some x → s.perf.actor = none →
    publishAhead s (stIndex j.entry) id = true →
    (runsNow s id Op.WRITE_PASSAGES writePassagesSources j = true → exec (.writePassages id) s = .next s) ∧
    (runsNow s id Op.WRITE_VECTORS writeVectorsSources j = true → exec (.writeVectors id) s = .next s) ∧
    (runsNow s id Op.WRITE_SKETCHES writeSketchesSources j = true → exec (.writeSketches id) s = .next s))

/-- O35. DELETE and PUBLISH. A DELETE that runs gives each LIVE or PENDING passage that it names a tombstone of the
pending epoch and makes it DELETED, if the tombstone slots suffice for all, and its RESULT is their number;
otherwise it ends with POOL_EXHAUSTED and changes nothing. A PUBLISH with nothing since the last one ends with
OK_NOOP and the current epoch. One whose staged writes are durable, with every PENDING passage complete and no
RERANK of the index open, makes the next epoch current in one step, its PENDING passages LIVE, copies the states
of the indexes, and ends with OK and the new epoch; one with an incomplete passage ends with BAD_FIELD and the
lowest such passage, and one whose read-back fails ends with INDEX_CORRUPT. (R67, R214, R215, R217, R220) -/
def Obligations.DeleteAndPublish : Prop :=
  (∀ (s : State) (id : Nat) (j : Job) (x : Index), runsNow s id Op.DELETE noSources j = true →
    tabGet s.indexes (stIndex j.entry) = some x → publishAhead s (stIndex j.entry) id = false →
    ∃ t, exec (.delete id) s = .next t ∧ t.mem = s.mem ∧ Beside s t id j.ctx ∧ HoldingsKept s t ∧
      (∀ i, i ≠ stIndex j.entry → tabGet t.indexes i = tabGet s.indexes i) ∧
      (ixTombSlots x.desc < x.tombs.length + (deletable x j.entry).length → ends t id Code.POOL_EXHAUSTED 0 ∧
        t.indexes = s.indexes) ∧
      (x.tombs.length + (deletable x j.entry).length ≤ ixTombSlots x.desc →
        ends t id Code.OK (deletable x j.entry).length ∧
        ∃ x', tabGet t.indexes (stIndex j.entry) = some x' ∧ x'.current = x.current ∧ x'.desc = x.desc ∧ x'.touched = true ∧
          (∀ p ∈ deletable x j.entry, tabGet x'.passages p = some .deleted ∧
            (tabGet x'.tombs p).map Tomb.epoch = some (x.current + 1)) ∧
          (∀ p, p ∉ deletable x j.entry → tabGet x'.passages p = tabGet x.passages p ∧
            tabGet x'.tombs p = tabGet x.tombs p))) ∧
  (∀ (s : State) (id : Nat) (j : Job) (x : Index) (good : Bool), runsNow s id Op.PUBLISH noSources j = true →
    tabGet s.indexes (stIndex j.entry) = some x → reg s Key.FLASH_STATE ≠ 4 →
    openBefore s (stIndex j.entry) id [Op.WRITE_PASSAGES, Op.WRITE_VECTORS, Op.WRITE_SKETCHES, Op.DELETE, Op.PUBLISH] =
      false →
    (j.work = [] → x.touched = false →
      ∃ t, exec (.publish id good) s = .next t ∧ ends t id Code.OK_NOOP x.current ∧ OnlyOutcome s t) ∧
    (j.work = [] → x.touched = true →
      ∃ t, exec (.publish id good) s = .next t ∧ t.mem = s.mem ∧ t.indexes = s.indexes ∧
        tabGet t.jobs id = some { j with phase := .running, work := [s.mem.order] }) ∧
    (∀ order, j.work = [order] → stagedStripes s order = [] →
      ∃ t, exec (.publish id good) s = .next t ∧ (∀ a, byteAt t a = byteAt s a) ∧ HoldingsKept s t ∧ Beside s t id j.ctx ∧
        (∀ p, incomplete s x = some p → ends t id Code.BAD_FIELD p ∧ t.indexes = s.indexes) ∧
        (incomplete s x = none → rerankOpen s (stIndex j.entry) = true → t.jobs = s.jobs ∧ t.indexes = s.indexes) ∧
        (incomplete s x = none → rerankOpen s (stIndex j.entry) = false → good = false →
          ends t id Code.INDEX_CORRUPT 0 ∧ t.indexes = s.indexes ∧
          reg t Key.SEARCH_CORRUPT_EVENTS = reg (bump s Key.SEARCH_CORRUPT_EVENTS 1) Key.SEARCH_CORRUPT_EVENTS) ∧
        (incomplete s x = none → rerankOpen s (stIndex j.entry) = false → good = true →
          ends t id Code.OK (x.current + 1) ∧ tabGet t.indexes (stIndex j.entry) = some (switchEpoch x) ∧
          (∀ i, i ≠ stIndex j.entry → tabGet t.indexes i = tabGet s.indexes i) ∧
          (∀ p, tabGet (switchEpoch x).passages p =
            if tabGet x.passages p = some .pending then some .live else tabGet x.passages p) ∧
          t.mem.durableObjs = s.mem.objects.filter (fun p => p.2.policy == 2 && !p.2.released))))

/-- O36. FLUSH and TRIM. A FLUSH on a tier that accepts writes ends with OK and the bytes it covers when nothing
staged before it is left, with the map of objects and the states of the indexes copied; while stripes are left on
channels that are up, their programs are started and it goes on; on a channel that is down it ends with
ECC_UNCORRECTABLE, and on a READ_ONLY tier with POOL_EXHAUSTED. A TRIM with no move under way in its range makes
the range read as zeros, unbacks the units it covers whole, changes no other byte, and ends with OK and its number
of units. (R66, R68, R189, R192, R220) -/
def Obligations.FlushAndTrim : Prop :=
  (∀ (s : State) (id order bytes : Nat) (j : Job), runsNow s id Op.FLUSH noSources j = true → j.work = [order, bytes] →
    ∃ t, exec (.flush id) s = .next t ∧ (∀ a, byteAt t a = byteAt s a) ∧ HoldingsKept s t ∧ t.indexes = s.indexes ∧
      Beside s t id j.ctx ∧
      (reg s Key.FLASH_STATE = 4 → ends t id Code.POOL_EXHAUSTED 0 ∧ t.mem = s.mem) ∧
      (reg s Key.FLASH_STATE ≠ 4 → stagedStripes s order = [] → ends t id Code.OK bytes ∧
        t.mem.durableObjs = s.mem.objects.filter (fun p => p.2.policy == 2 && !p.2.released) ∧
        t.mem.flushSeq = s.mem.flushSeq + 1) ∧
      (reg s Key.FLASH_STATE ≠ 4 → stagedStripes s order ≠ [] →
        (∃ k ∈ stagedStripes s order, channelUp s (channelOf k) = false) → ends t id Code.ECC_UNCORRECTABLE 0 ∧
        t.mem = s.mem) ∧
      (reg s Key.FLASH_STATE ≠ 4 → stagedStripes s order ≠ [] →
        (∀ k ∈ stagedStripes s order, channelUp s (channelOf k) = true) → t.jobs = s.jobs ∧
        t.mem = ((stagedStripes s order).foldl startProgram (acting s j)).mem)) ∧
  (∀ (s : State) (id : Nat) (j : Job), runsNow s id Op.TRIM noSources j = true →
    inWindow (param j.entry 511 448 + 4096 * param j.entry 447 416) = false →
    (∀ u ∈ unitsOfRange (param j.entry 511 448) (4096 * param j.entry 447 416), ∀ x, tabGet s.mem.units u = some x →
      x.move = none) →
    ∃ t, exec (.trim id) s = .next t ∧ ends t id Code.OK (param j.entry 447 416) ∧ HoldingsKept s t ∧ t.indexes = s.indexes ∧
      Beside s t id j.ctx ∧
      (∀ a, byteAt t a = if param j.entry 511 448 ≤ a ∧ a < param j.entry 511 448 + 4096 * param j.entry 447 416 then 0
        else byteAt s a) ∧
      (∀ u, param j.entry 511 448 ≤ u * unitBytes →
        u * unitBytes + unitBytes ≤ param j.entry 511 448 + 4096 * param j.entry 447 416 → tabGet t.mem.units u = none))

/-- O37. CTX_ALLOC, CTX_FREE, CTX_MODIFY and CTX_PREEMPT. CTX_ALLOC of a FREE context with room for its save area
makes it IDLE with the command's values, without quads, and ends with OK and SAVE_BYTES and GEN_TAG. CTX_FREE of a
FAULTED context frees it, its pages return, and it ends with OK; CTX_FREE of any other begins a teardown that
frees it. CTX_MODIFY whose values have fallen due puts them in force and ends with OK. CTX_PREEMPT of a context
without quads ends with OK_NOOP; of one that holds some it asks for the preemption, and it ends with OK and the
beat once the context has left RUNNING. (R76, R81, R82, R83) -/
def Obligations.ContextCommands : Prop :=
  (∀ (s u : State) (id addr : Nat) (j : Job), runsNow s id Op.CTX_ALLOC noSources j = true →
    (ctxOf s j.ctx).state = .free →
    reserveSave (acting s j) j.ctx (saveBytesOf s (cxQuads j.entry)) = .held u addr →
    ∃ t, exec (.ctxAlloc id) s = .next t ∧
      ends t id Code.OK (saveBytesOf s (cxQuads j.entry) * 256 + (ctxOf t j.ctx).genTag) ∧
      (ctxOf t j.ctx).genTag = (if (ctxOf s j.ctx).used then ((ctxOf s j.ctx).genTag + 1) % 256 else 0) ∧
      (ctxOf t j.ctx).state = .idle ∧ (ctxOf t j.ctx).quads = [] ∧ (ctxOf t j.ctx).partition = cxQuads j.entry ∧
      (ctxOf t j.ctx).slice = cxSlice j.entry ∧ (ctxOf t j.ctx).watchdog = cxDog j.entry ∧
      (ctxOf t j.ctx).permit = cxPermit j.entry ∧ (ctxOf t j.ctx).single = cxSingle j.entry ∧
      (ctxOf t j.ctx).client = j.client ∧ (ctxOf t j.ctx).saveAddr = addr ∧
      (ctxOf t j.ctx).saveBytes = saveBytesOf s (cxQuads j.entry) ∧ (ctxOf t j.ctx).hasImage = false ∧
      (∀ a, byteAt t a = byteAt s a) ∧ Beside s t id j.ctx ∧ HoldingsKept s t ∧ t.indexes = s.indexes) ∧
  (∀ (s : State) (id : Nat) (j : Job), runsNow s id Op.CTX_ALLOC noSources j = true → (ctxOf s j.ctx).state ≠ .free →
    ∃ t, exec (.ctxAlloc id) s = .next t ∧ ends t id Code.BAD_FIELD 0 ∧ OnlyOutcome s t) ∧
  (∀ (s : State) (id : Nat) (j : Job), runsNow s id Op.CTX_FREE noSources j = true → (ctxOf s j.ctx).state = .faulted →
    ∃ t, exec (.ctxFree id) s = .next t ∧ ends t id Code.OK 0 ∧ (ctxOf t j.ctx).state = .free ∧
      (ctxOf t j.ctx).genTag = (ctxOf s j.ctx).genTag ∧ (ctxOf t j.ctx).quads = [] ∧
      t.kv = s.kv.filter (fun p => p.2.ctx != j.ctx) ∧ Beside s t id j.ctx ∧ t.indexes = s.indexes ∧ t.pocket = s.pocket ∧
      t.acc = s.acc) ∧
  (∀ (s : State) (id : Nat) (j : Job), runsNow s id Op.CTX_FREE noSources j = true →
    (ctxOf s j.ctx).state ∈ [CtxState.idle, .waiting, .restoring, .running, .saving] →
    ∃ t, exec (.ctxFree id) s = .next t ∧ t.jobs = s.jobs ∧ (ctxOf t j.ctx).state = .tearingDown ∧
      (ctxOf t j.ctx).freeAfter = true ∧ (ctxOf t j.ctx).genTag = ((ctxOf s j.ctx).genTag + 1) % 256 ∧
      (ctxOf t j.ctx).lastStatus = Code.CTX_TORN_DOWN ∧ (∀ c, c ≠ j.ctx → ctxOf t c = ctxOf s c) ∧ t.mem = s.mem ∧
      t.log = s.log ∧ HoldingsKept s t) ∧
  (∀ (s : State) (id due slice dog : Nat) (permit : Bool) (j : Job), runsNow s id Op.CTX_MODIFY noSources j = true →
    (ctxOf s j.ctx).modify = some (due, slice, dog, permit) → due ≤ beatNow s →
    ∃ t, exec (.ctxModify id) s = .next t ∧ ends t id Code.OK 0 ∧ (ctxOf t j.ctx).slice = slice ∧
      (ctxOf t j.ctx).watchdog = dog ∧ (ctxOf t j.ctx).permit = permit ∧ (ctxOf t j.ctx).modify = none ∧
      (ctxOf t j.ctx).state = (ctxOf s j.ctx).state ∧ (ctxOf t j.ctx).quads = (ctxOf s j.ctx).quads ∧ t.mem = s.mem ∧
      Beside s t id j.ctx ∧ HoldingsKept s t ∧ t.indexes = s.indexes) ∧
  (∀ (s : State) (id : Nat) (j : Job), runsNow s id Op.CTX_PREEMPT noSources j = true →
    (j.work = [] → (ctxOf s j.ctx).quads = [] →
      ∃ t, exec (.ctxPreempt id) s = .next t ∧ ends t id Code.OK_NOOP 0 ∧ OnlyOutcome s t) ∧
    (j.work = [] → (ctxOf s j.ctx).quads ≠ [] → (ctxOf s j.ctx).state ≠ .saving →
      ∃ t, exec (.ctxPreempt id) s = .next t ∧ tabGet t.jobs id = some { j with phase := .running, work := [1] } ∧
        ctxOf t j.ctx = { ctxOf s j.ctx with preempt := true } ∧ t.mem = s.mem ∧ Beside s t id j.ctx ∧ HoldingsKept s t) ∧
    (j.work ≠ [] → (ctxOf s j.ctx).state ≠ .running → (ctxOf s j.ctx).state ≠ .restoring →
      ∃ t, exec (.ctxPreempt id) s = .next t ∧ ends t id Code.OK (beatNow s) ∧ OnlyOutcome s t))

/-- O38. CTX_SAVE, CTX_RESTORE, CTX_BUFFER and CTX_QUERY. CTX_SAVE of a context without quads, with room for its
image, writes the image to ADDR and no other byte, and ends with OK and its bytes; of a context with quads it asks
for the copy or the checkpoint. CTX_RESTORE of an image that passes its checks, into a context without quads and
of its partition's size, leaves the image in the save area, takes the context part from it, and ends with OK and
IMAGE_BYTES. CTX_BUFFER names a buffer for the next boundary and ends with the number of names held then.
CTX_QUERY writes the context table entry, 512 bytes, and no other byte. (R83, R84, R92, R93, R94) -/
def Obligations.ContextImages : Prop :=
  (∀ (s u : State) (id : Nat) (j : Job), runsNow s id Op.CTX_SAVE noSources j = true → (ctxOf s j.ctx).quads = [] →
    saveBytesOf s (ctxOf s j.ctx).partition ≤ cxSize j.entry →
    ((ctxOf s j.ctx).hasImage && readBad s (ctxOf s j.ctx).saveAddr (ctxOf s j.ctx).saveBytes) = false →
    prepareWrite (acting s j) (cxAddr j.entry) (saveBytesOf s (ctxOf s j.ctx).partition) = .ready u →
    ∃ t, exec (.ctxSave id) s = .next t ∧ ends t id Code.OK (saveBytesOf s (ctxOf s j.ctx).partition) ∧
      (inWindow (cxAddr j.entry) = true ∨ cxAddr j.entry + saveBytesOf s (ctxOf s j.ctx).partition ≤ companionBase →
        ∀ i, i < saveBytesOf s (ctxOf s j.ctx).partition →
          byteAt t (cxAddr j.entry + i) = memByte (currentImage s j.ctx (cxCheckpoint j.entry)) i) ∧
      (∀ a, a < cxAddr j.entry ∨ cxAddr j.entry + saveBytesOf s (ctxOf s j.ctx).partition ≤ a → byteAt t a = byteAt s a) ∧
      Beside s t id j.ctx ∧ HoldingsKept s t ∧ t.indexes = s.indexes) ∧
  (∀ (s : State) (id : Nat) (j : Job), runsNow s id Op.CTX_SAVE noSources j = true → (ctxOf s j.ctx).quads ≠ [] →
    saveBytesOf s (ctxOf s j.ctx).partition ≤ cxSize j.entry → (ctxOf s j.ctx).save = .none →
    ∃ t, exec (.ctxSave id) s = .next t ∧ tabGet t.jobs id = some { j with phase := .running } ∧
      ctxOf t j.ctx = { ctxOf s j.ctx with save := if cxCheckpoint j.entry then .checkpoint id else .copy id } ∧
      t.mem = s.mem ∧ Beside s t id j.ctx ∧ HoldingsKept s t) ∧
  (∀ (s : State) (id : Nat) (j : Job), runsNow s id Op.CTX_RESTORE ctxRestoreSources j = true → j.work = [] →
    j.more = true ∨ windowRanges (imageRest s (cxAddr j.entry)) = [] →
    restoreCheck s (cxAddr j.entry) (cxQuads j.entry) = Code.OK → cxQuads j.entry = (ctxOf s j.ctx).partition →
    (ctxOf s j.ctx).quads = [] →
    ∃ t, exec (.ctxRestore id) s = .next t ∧ ends t id Code.OK (imageBytes s (cxAddr j.entry)) ∧
      (∀ i, i < saveBytesOf s (cxQuads j.entry) → memByte t.mem.dev ((ctxOf s j.ctx).saveAddr + i) =
        memByte (restoredImage s (cxAddr j.entry) (cxQuads j.entry)) i) ∧
      (∀ a, a < (ctxOf s j.ctx).saveAddr ∨ (ctxOf s j.ctx).saveAddr + saveBytesOf s (cxQuads j.entry) ≤ a →
        byteAt t a = byteAt s a) ∧
      ((ctxOf t j.ctx).state = .idle ∨ (ctxOf t j.ctx).state = .waiting) ∧ (ctxOf t j.ctx).hasImage = true ∧
      (ctxOf t j.ctx).buffers = buffersOf s (cxAddr j.entry) ∧
      (ctxOf t j.ctx).groupMap = natAt s (cxAddr j.entry + 0x1040) 4 ∧
      (ctxOf t j.ctx).formatState = natAt s (cxAddr j.entry + 0x1080) 64 ∧
      (ctxOf t j.ctx).genState = natAt s (cxAddr j.entry + 0x10C0) 64 ∧ (ctxOf t j.ctx).genTag = (ctxOf s j.ctx).genTag ∧
      Beside s t id j.ctx ∧ HoldingsKept s t ∧ t.indexes = s.indexes) ∧
  (∀ (s : State) (id : Nat) (j : Job), runsNow s id Op.CTX_RESTORE ctxRestoreSources j = true → j.work = [] →
    j.more = true ∨ windowRanges (imageRest s (cxAddr j.entry)) = [] →
    restoreCheck s (cxAddr j.entry) (cxQuads j.entry) ≠ Code.OK →
    ∃ t, exec (.ctxRestore id) s = .next t ∧ ends t id (restoreCheck s (cxAddr j.entry) (cxQuads j.entry)) 0 ∧
      OnlyOutcome s t) ∧
  (∀ (s : State) (id : Nat) (j : Job), runsNow s id Op.CTX_BUFFER noSources j = true →
    ∃ t, exec (.ctxBuffer id) s = .next t ∧
      (ctxOf t j.ctx).naming = tabSet (ctxOf s j.ctx).naming (cxBufferId j.entry) (cxBuffer j.entry) ∧
      ends t id Code.OK (applyNaming { ctxOf s j.ctx with
        naming := tabSet (ctxOf s j.ctx).naming (cxBufferId j.entry) (cxBuffer j.entry) }).buffers.length ∧
      (ctxOf t j.ctx).buffers = (ctxOf s j.ctx).buffers ∧ t.mem = s.mem ∧ Beside s t id j.ctx ∧ HoldingsKept s t) ∧
  (∀ (s u : State) (id : Nat) (j : Job), runsNow s id Op.CTX_QUERY noSources j = true →
    prepareWrite (acting s j) (cxAddr j.entry) 512 = .ready u →
    ∃ t, exec (.ctxQuery id) s = .next t ∧ ends t id Code.OK 512 ∧
      bytesAt t (cxAddr j.entry) 512 = leBytes 512 (ctxEntryCode (ctxOf s j.ctx)) ∧
      (∀ a, a < cxAddr j.entry ∨ cxAddr j.entry + 512 ≤ a → byteAt t a = byteAt s a) ∧ Beside s t id j.ctx ∧
      HoldingsKept s t)

/-- O39. The ends of saves and restores, the bound on units, and the Wardrobe. A save that ends well leaves the image
in the save area and the context without quads, IDLE or WAITING; one that met an error begins a teardown with
CTX_FAULT. A restore that ends well makes the context RUNNING, its quads with zero accumulators on a first
placement; one whose image cannot be read begins a teardown with ECC_UNCORRECTABLE. A unit open beyond
CTX.NP_BOUND begins a teardown with CTX_HUNG. WARDROBE_REGISTER of an image that passes its checks registers a
model that is not resident and ends with the number of models; WARDROBE_RELEASE of one that no open run reads
removes it. A load that ends, with room in the Wardrobe, makes its model resident and evicts none. (R80, R88, R89,
R90, R95, R96) -/
def Obligations.CloakAndWardrobe : Prop :=
  (∀ (s : State) (c : Nat), (ctxOf s c).state = .saving → (blocksOf (ctxOf s c)).any (sliced s) = false →
    (∃ t, exec (.cloakSaveDone c true) s = .next t ∧ (ctxOf t c).quads = [] ∧ (ctxOf t c).hasImage = true ∧
      (ctxOf t c).state = (if isHolder s c then .idle else .waiting) ∧
      t.mem.dev = imageOf (advanceTimed (undoClaims s c)) c false s.mem.dev (ctxOf s c).saveAddr ∧
      t.mem.comp = s.mem.comp ∧ t.jobs = s.jobs ∧ (∀ d, d ≠ c → ctxOf t d = ctxOf s d) ∧ t.acc = s.acc ∧ t.pocket = s.pocket ∧
      reg t Key.CTX_PREEMPTIONS = reg (bump s Key.CTX_PREEMPTIONS 1) Key.CTX_PREEMPTIONS) ∧
    (∃ t, exec (.cloakSaveDone c false) s = .next t ∧ (ctxOf t c).state = .tearingDown ∧
      (ctxOf t c).lastStatus = Code.CTX_FAULT ∧ (ctxOf t c).freeAfter = false ∧ t.mem = s.mem ∧
      (∀ d, d ≠ c → ctxOf t d = ctxOf s d) ∧ t.jobs = s.jobs)) ∧
  (∀ (s : State) (c : Nat) (ok : Bool), (ctxOf s c).state = .restoring → vacating s c (ctxOf s c) = false →
    (blocksOf (ctxOf s c)).any (sliced s) = false →
    ((ok && !((ctxOf s c).hasImage && readBad s (ctxOf s c).saveAddr (ctxOf s c).saveBytes)) = true →
      ∃ t, exec (.cloakRestoreDone c ok) s = .next t ∧ (ctxOf t c).state = .running ∧
        (ctxOf t c).quads = (ctxOf s c).quads ∧ (∃ us, t.mem = { s.mem with units := us }) ∧ t.jobs = s.jobs ∧
        t.acc = (loadImage s c).acc ∧
        t.pocket = (loadImage s c).pocket ∧ (∀ d, d ≠ c → ctxOf t d = ctxOf s d) ∧
        ((ctxOf s c).hasImage = false → (ctxOf t c).windows = [] ∧
          (∀ b ∈ blocksOf (ctxOf s c), ∀ p ∈ t.acc, p.1 / 65536 ≠ b) ∧
          ∀ p ∈ s.acc, p.1 / 65536 ∉ blocksOf (ctxOf s c) → p ∈ t.acc)) ∧
    ((ok && !((ctxOf s c).hasImage && readBad s (ctxOf s c).saveAddr (ctxOf s c).saveBytes)) = false →
      ∃ t, exec (.cloakRestoreDone c ok) s = .next t ∧ (ctxOf t c).state = .tearingDown ∧
        (ctxOf t c).lastStatus = Code.ECC_UNCORRECTABLE ∧ t.mem = s.mem ∧ t.acc = s.acc ∧ t.pocket = s.pocket ∧
        (∀ d, d ≠ c → ctxOf t d = ctxOf s d) ∧ t.jobs = s.jobs)) ∧
  (∀ (s : State) (c : Nat), (ctxOf s c).state = .running → (ctxOf s c).leaving = true → (ctxOf s c).openUnits ≠ [] →
    ∃ t, exec (.npBoundExceeded c) s = .next t ∧ (ctxOf t c).state = .tearingDown ∧
      (ctxOf t c).lastStatus = Code.CTX_HUNG ∧ reg t Key.CTX_HUNG = reg (bump s Key.CTX_HUNG 1) Key.CTX_HUNG ∧ t.mem = s.mem ∧
      (∀ d, d ≠ c → ctxOf t d = ctxOf s d) ∧ t.jobs = s.jobs) ∧
  (∀ (s : State) (id : Nat) (j : Job), runsNow s id Op.WARDROBE_REGISTER noSources j = true →
    tabGet s.models (cxModel j.entry) = none → readBad s (cxAddr j.entry) (cxSize j.entry) = false →
    natAt s (cxAddr j.entry) 1 = 1 → fallbackCheck s (cxAddr j.entry) = Code.OK →
    ∃ t, exec (.wardrobeRegister id) s = .next t ∧
      tabGet t.models (cxModel j.entry) = some { addr := cxAddr j.entry, size := cxSize j.entry } ∧
      (∀ m, m ≠ cxModel j.entry → tabGet t.models m = tabGet s.models m) ∧ ends t id Code.OK t.models.length ∧
      (∀ a, byteAt t a = byteAt s a) ∧ Beside s t id j.ctx ∧ t.indexes = s.indexes) ∧
  (∀ (s : State) (id : Nat) (j : Job), runsNow s id Op.WARDROBE_RELEASE noSources j = true →
    (tabGet s.models (cxModel j.entry) = none →
      ∃ t, exec (.wardrobeRelease id) s = .next t ∧ ends t id Code.OK_NOOP 0 ∧ OnlyOutcome s t) ∧
    (∀ m, tabGet s.models (cxModel j.entry) = some m → modelRead s (cxModel j.entry) = false →
      ∃ t, exec (.wardrobeRelease id) s = .next t ∧ ends t id Code.OK 0 ∧ tabGet t.models (cxModel j.entry) = none ∧
        (∀ k, k ≠ cxModel j.entry → tabGet t.models k = tabGet s.models k) ∧ t.mem = s.mem ∧ Beside s t id j.ctx)) ∧
  (∀ (s : State) (m : Nat) (x : Model), tabGet s.models m = some x → x.loading = true → x.resident = false →
    residentBytes s + x.size ≤ wardrobeBytes s → residentCount s < 64 →
    ∃ t, exec (.wardrobeLoad m) s = .next t ∧
      (∀ k, tabGet t.models k = if k = m then some { x with resident := true, loading := false, lastUse := beatNow s }
        else tabGet s.models k) ∧
      (∃ us, t.mem = { s.mem with units := us }) ∧ t.jobs = s.jobs ∧ t.ctxs = s.ctxs ∧ t.array = s.array)

/-- O40. MATMUL. A MATMUL that issues with its slots and its tiles at hand retires; every accumulator word of its rows
is the sum that R109 defines of its activations, tiles, patches and, with ACC_IN, the word before, and every other
accumulator word stays. Without DRAIN it leaves the Pocket; with DRAIN each output row stands converted at its
place, and no byte outside the output changes. With no rows it only retires, and one that fails a check ends the
run with ARRAY_PROGRAM_ERROR and its reason. (R102, R103, R104, R108, R109, R126, R127, R128) -/
def Obligations.MatmulResults : Prop :=
  (∀ (s : State) (id v b i : Nat) (j : Job) (r : Run) (st : Stream) (c : FmtClass) (ts : List Tile),
    Issues s id v j r st b i → inOp i = opMatmul → matmulReason s r b i = none → matmulClass i = some c →
    matmulTiles s r b i = some ts → 0 < inRows i → arrayAwake s b = true →
    (heldForCheckpoint (ctxOf s r.ctx) && inAccIn i) = false →
    (inWsrc i = true → ∀ m, r.model = some m → (tabGet s.models m).map Model.resident = some true) →
    slotsReady s v r st b i = true →
    ∃ t, exec (.matmul id v .none) s = .next t ∧ Retired s t id v r ∧
      (∀ m n, m < inRows i → inRows i ≤ m + 512 → n < c.cols →
        accRead t b (accRowOf i m) n = matmulWord s b i c ts m n % 2 ^ 32) ∧
      (∀ d row n, row < 512 → n < 128 → d ≠ b ∨ (∀ m, m < inRows i → accRowOf i m ≠ row) ∨ c.cols ≤ n →
        accRead t d row n = accRead s d row n) ∧
      (inDrain i = false → t.pocket = s.pocket) ∧
      (inDrain i = true →
        (∀ k, k < pocketAddr b 0 (inOaddr i) ∨
          pocketAddr b 0 (inOaddr i) + outBytes (inOfmt i) c.cols (inRows i) ≤ k → memByte t.pocket k = memByte s.pocket k) ∧
        ∀ m, m < inRows i →
          pocketRead t b 0 (inOaddr i + m * outRowBytes (inOfmt i) c.cols) (outRowBytes (inOfmt i) c.cols) =
            packCodes (outWidth (inOfmt i)) (convertRow (inOfmt i) (r.scaleRule == 1) (drawFor s r v st.pc m (inOfmt i))
              ((List.range c.cols).map (matmulWord s b i c ts m))).codes)) ∧
  (∀ (s : State) (id v b i : Nat) (j : Job) (r : Run) (st : Stream), Issues s id v j r st b i → inOp i = opMatmul →
    matmulReason s r b i = none → inRows i = 0 → (heldForCheckpoint (ctxOf s r.ctx) && inAccIn i) = false →
    ∃ t, exec (.matmul id v .none) s = .next t ∧ Retired s t id v r ∧ t.acc = s.acc ∧ t.pocket = s.pocket) ∧
  (∀ (s : State) (id v b i reason : Nat) (j : Job) (r : Run) (st : Stream), Issues s id v j r st b i → inOp i = opMatmul →
    matmulReason s r b i = some reason →
    ∃ t, exec (.matmul id v .none) s = .next t ∧ t.acc = s.acc ∧ t.pocket = s.pocket ∧
      ends t id Code.ARRAY_PROGRAM_ERROR (v * 2 ^ 48 + reason * 2 ^ 32 + st.pc % 2 ^ 32) ∧
      reg t Key.ARRAY_PROGRAM_ERRORS = reg (bump s Key.ARRAY_PROGRAM_ERRORS 1) Key.ARRAY_PROGRAM_ERRORS)

/-- O41. DRAIN and ACC_LOAD. A DRAIN that issues with its slots at hand retires, leaves the accumulators, and writes
no byte of a Pocket outside its output in its destination block; under functions 0 and 1 each row stands converted
at its place, and under functions 4 and 5 its one value. An ACC_LOAD that issues retires, leaves the Pocket, and
puts into each accumulator word of its rows and columns the value from the Pocket, or with ADD its sum with the
word before; every other word stays. With no rows or no columns both only retire. (R104, R105, R106, R126, R127,
R128) -/
def Obligations.DrainAndLoad : Prop :=
  (∀ (s : State) (id v b dest i : Nat) (j : Job) (r : Run) (st : Stream), Issues s id v j r st b i → inOp i = opDrain →
    drainReason s r v b i = none → 0 < inRows i → 0 < inCols i →
    physBlock (ctxOf s r.ctx) (if inRemote i then inDestVb i else v) = some dest → sliced s dest = false →
    slotsReady s v r st b i = true →
    st.granted = true ∨ slotsOfRanges (ctxOf s r.ctx) (inDestVb i) (touches s b i).2.2 = [] →
    ∃ t, exec (.drain id v .none) s = .next t ∧ Retired s t id v r ∧ t.acc = s.acc ∧ t.models = s.models ∧
      (∀ k, k < pocketAddr dest 0 (inDrainOaddr i) ∨ pocketAddr dest 0 (inDrainOaddr i) + drainBytes i ≤ k →
        memByte t.pocket k = memByte s.pocket k) ∧
      (inFunc i = 4 ∨ inFunc i = 5 → ∀ m, m < inRows i → pocketRead t dest 0 (inDrainOaddr i + 4 * m) 4 =
        leBytes 4 (canonF32 ((drainRow s b i (inAccRow i + m)).1.headD 0))) ∧
      (inFunc i ≤ 1 → ∀ m, m < inRows i →
        pocketRead t dest 0 (inDrainOaddr i + m * outRowBytes (inOfmt i) (drainCols (inOfmt i) (inCols i)))
          (outRowBytes (inOfmt i) (drainCols (inOfmt i) (inCols i))) =
        packCodes (outWidth (inOfmt i)) ((convertRow (inOfmt i) (r.scaleRule == 1) (drawFor s r v st.pc m (inOfmt i))
          (drainRow s b i (inAccRow i + m)).1).codes ++
          List.replicate (drainCols (inOfmt i) (inCols i) - inCols i) 0))) ∧
  (∀ (s : State) (id v b i : Nat) (j : Job) (r : Run) (st : Stream), Issues s id v j r st b i → inOp i = opAccLoad →
    accLoadReason s b i = none → 0 < inRows i → 0 < inCols i → (heldForCheckpoint (ctxOf s r.ctx) && inAdd i) = false →
    slotsReady s v r st b i = true →
    ∃ t, exec (.accLoad id v .none) s = .next t ∧ Retired s t id v r ∧ t.pocket = s.pocket ∧ t.models = s.models ∧
      (∀ m n, m < inRows i → n < inCols i → accRead t b (inAccRow i + m) n =
        (if inAdd i then toF32 ((ofF32 (accRead s b (inAccRow i + m) n)).add (loadedValue s b i m n))
          else toF32 (loadedValue s b i m n)) % 2 ^ 32) ∧
      (∀ d row n, row < 512 → n < 128 → d ≠ b ∨ row < inAccRow i ∨ inAccRow i + inRows i ≤ row ∨ inCols i ≤ n →
        accRead t d row n = accRead s d row n)) ∧
  (∀ (s : State) (id v b i : Nat) (j : Job) (r : Run) (st : Stream), Issues s id v j r st b i → inRows i = 0 ∨ inCols i = 0 →
    (inOp i = opDrain → drainReason s r v b i = none →
      ∃ t, exec (.drain id v .none) s = .next t ∧ Retired s t id v r ∧ t.acc = s.acc ∧ t.pocket = s.pocket) ∧
    (inOp i = opAccLoad → accLoadReason s b i = none →
      ∃ t, exec (.accLoad id v .none) s = .next t ∧ Retired s t id v r ∧ t.acc = s.acc ∧ t.pocket = s.pocket))

/-- O42. ARRAY_RUN, NOP, BARRIER, END and the claims of windows. ARRAY_RUN that may start begins a run with the
streams of its image, or, when every COUNT is zero, ends with OK_NOOP. NOP only retires. A stream waits at its
BARRIER until every other has reached one or has ended; then all of them go on. A stream ends at END or past its
COUNT, and with the last the run completes with the instructions retired; at END while another waits at a BARRIER
the run fails with reason 8. An accessor claims all its slots at once or none, a remote DRAIN its destination's;
one whose wait reaches the smallest TIMEOUT faults its context. (R104, R107, R108, R117, R155, R156, R157) -/
def Obligations.RunsAndStreams : Prop :=
  (∀ (s : State) (id a : Nat) (j : Job), runsNow s id Op.ARRAY_RUN noSources j = true → arImage s j.entry = some a →
    tabGet s.array.runs id = none → (ctxOf s j.ctx).state = .running →
    runMayStart s id j.ctx (if (modelOf s (arModel j.entry)).isSome then some (arModel j.entry) else none) = true →
    readBad s a (imBytes (imageHead s a)) = false →
    ((∀ v, v < imVblocks (imageHead s a) → (streamEntry s a v).2 = 0) →
      ∃ t, exec (.arrayRun id) s = .next t ∧ ends t id Code.OK_NOOP 0 ∧ OnlyOutcome s t) ∧
    ((∃ v, v < imVblocks (imageHead s a) ∧ (streamEntry s a v).2 ≠ 0) →
      ∃ t r, exec (.arrayRun id) s = .next t ∧ tabGet t.jobs id = some { j with phase := .running } ∧
        tabGet t.array.runs id = some r ∧ r.ctx = j.ctx ∧ r.seq = j.pin ∧ r.retired = 0 ∧ r.ended = false ∧
        r.model = (if (modelOf s (arModel j.entry)).isSome then some (arModel j.entry) else none) ∧
        r.streams = (List.range (imVblocks (imageHead s a))).map (fun v =>
          ({ addr := (streamEntry s a v).1, count := (streamEntry s a v).2,
             mode := if (streamEntry s a v).2 = 0 then StreamMode.ended else StreamMode.running } : Stream)) ∧
        (∀ k, byteAt t k = byteAt s k) ∧ Beside s t id j.ctx ∧ HoldingsKept s t ∧ t.indexes = s.indexes)) ∧
  (∀ (s : State) (id v b i : Nat) (j : Job) (r : Run) (st : Stream), Issues s id v j r st b i → inOp i = opNop →
    ∃ t, exec (.sequencerNop id v) s = .next t ∧ Retired s t id v r ∧ t.acc = s.acc ∧ t.pocket = s.pocket ∧
      t.models = s.models) ∧
  (∀ (s : State) (id v b i : Nat) (j : Job) (r : Run) (st : Stream), Issues s id v j r st b i → inOp i = opBarrier →
    ((∃ (w : Nat) (x : Stream), w ≠ v ∧ r.streams[w]? = some x ∧ x.mode = .running) →
      exec (.barrier id v) s = .next (setStream s id v (fun st => { st with
        mode := .barrier, barriers := st.barriers + 1 }))) ∧
    ((∀ (w : Nat) (x : Stream), w ≠ v → r.streams[w]? = some x → x.mode ≠ .running) →
      ∃ t r', exec (.barrier id v) s = .next t ∧ tabGet t.array.runs id = some r' ∧ t.acc = s.acc ∧ t.pocket = s.pocket ∧
        t.mem = s.mem ∧ t.jobs = s.jobs ∧
        ∀ (w : Nat) (x : Stream), r.streams[w]? = some x →
          (w = v ∨ x.mode = .barrier →
            ∃ y, r'.streams[w]? = some y ∧ y.mode = .running ∧ y.pc = x.pc + 1) ∧
          (w ≠ v → x.mode = .ended → r'.streams[w]? = some x))) ∧
  (∀ (s : State) (id v : Nat) (j : Job) (r : Run) (st : Stream), tabGet s.jobs id = some j → tabGet s.array.runs id = some r →
    r.streams[v]? = some st → runIssues s j r = true → st.mode = .running → st.count ≤ st.pc →
    ((∃ (w : Nat) (x : Stream), w ≠ v ∧ r.streams[w]? = some x ∧ x.mode = .running) →
      (∀ (w : Nat) (x : Stream), r.streams[w]? = some x → x.mode ≠ .barrier) →
      exec (.endStream id v) s = .next (setStream s id v (fun st => { st with mode := .ended }))) ∧
    ((∀ (w : Nat) (x : Stream), w ≠ v → r.streams[w]? = some x → x.mode = .ended) → j.opcode = Op.ARRAY_RUN →
      ∃ t, exec (.endStream id v) s = .next t ∧ ends t id Code.OK r.retired ∧ tabGet t.array.runs id = none ∧
        t.acc = s.acc ∧ t.pocket = s.pocket ∧ t.mem = s.mem) ∧
    ((∃ (w : Nat) (x : Stream), r.streams[w]? = some x ∧ x.mode = .barrier) →
      ∃ t, exec (.endStream id v) s = .next t ∧
        ends t id Code.ARRAY_PROGRAM_ERROR (v * 2 ^ 48 + 8 * 2 ^ 32 + st.pc % 2 ^ 32) ∧ t.acc = s.acc ∧
        t.pocket = s.pocket)) ∧
  (∀ (s : State) (id v b : Nat) (j : Job) (r : Run) (st : Stream), tabGet s.jobs id = some j →
    tabGet s.array.runs id = some r → r.streams[v]? = some st → physBlock (ctxOf s r.ctx) v = some b →
    runIssues s j r = true → st.mode = .running →
    (∀ rs ws, st.claimed = false → st.stalled ≠ [] →
      rs = slotsOfRanges (ctxOf s r.ctx) v (touches s b (natAt s (st.addr + 16 * st.pc) 16)).1 →
      ws = slotsOfRanges (ctxOf s r.ctx) v (touches s b (natAt s (st.addr + 16 * st.pc) 16)).2.1 →
      exec (.channelWindowClaim id v) s = .next (if claimable (ctxOf s r.ctx) rs ws then
        setStream (setCtx s r.ctx (claimSlots (ctxOf s r.ctx) rs ws)) id v (fun st => { st with claimed := true }) else s)) ∧
    (∀ far, st.granted = false → far ≠ [] →
      far = slotsOfRanges (ctxOf s r.ctx) (inDestVb (natAt s (st.addr + 16 * st.pc) 16))
        (touches s b (natAt s (st.addr + 16 * st.pc) 16)).2.2 →
      exec (.remoteWindowClaim id v) s = .next (if claimable (ctxOf s r.ctx) [] far then
        setStream (setCtx s r.ctx (claimSlots (ctxOf s r.ctx) [] far)) id v (fun st => { st with granted := true })
        else s))) ∧
  (∀ (s : State) (id v waited limit key : Nat) (j : Job), tabGet s.jobs id = some j → (ctxOf s j.ctx).state = .running →
    stalledSlots s id v j ≠ [] → claimTimeout (ctxOf s j.ctx) (stalledSlots s id v j) = some (limit, key) →
    (waited < limit → ∃ t, exec (.windowTimeout id v waited) s = .next t ∧ t.jobs = s.jobs ∧ t.regs = s.regs ∧
      (ctxOf t j.ctx).state = .running ∧ ∀ k w, tabGet (ctxOf s j.ctx).windows k = some w →
        tabGet (ctxOf t j.ctx).windows k =
          some (if ∃ p ∈ stalledSlots s id v j, p.1 = k then { w with wait := waited } else w)) ∧
    (limit ≤ waited → ∃ t, exec (.windowTimeout id v waited) s = .next t ∧ (ctxOf t j.ctx).state = .tearingDown ∧
      (ctxOf t j.ctx).lastStatus = Code.CTX_FAULT ∧ t.jobs = s.jobs ∧ t.pocket = s.pocket ∧
      reg t Key.POCKET_LAST_TIMEOUT = lastTimeout j.ctx (key / 16) (key % 16) ∧
      reg t Key.POCKET_WINDOW_TIMEOUTS = reg (bump s Key.POCKET_WINDOW_TIMEOUTS 1) Key.POCKET_WINDOW_TIMEOUTS))

/-- O43. POCKET_FILL, POCKET_COPY, POCKET_CONFIG and remote access. POCKET_FILL puts its pattern into every word of
its rectangle in each block that it names, and POCKET_COPY copies, or transposes, its source rectangle as it stood
before; neither changes another byte of a Pocket, and both end with OK and the words written. POCKET_CONFIG that
finds no overlap sets the group map and declares or removes the window in each block, its slots EMPTY or FULL. A
remote access of an available block writes or reads the words and is answered with OK; one of a quarantined block
is answered with ECC_UNCORRECTABLE. (R16, R153, R158, R160, R161, R162) -/
def Obligations.PocketCommands : Prop :=
  (∀ (s : State) (id : Nat) (j : Job), runsNow s id Op.POCKET_FILL noSources j = true →
    pkWord j.entry + pkWords j.entry ≤ 64 → pkRow j.entry + pkRows j.entry ≤ 16384 →
    ∃ t, exec (.pocketFill id) s = .next t ∧ ends t id Code.OK (pkVbCount j.entry * pkRows j.entry * pkWords j.entry) ∧
      (∀ lb b i k, lb ∈ pkBlocks j.entry → physBlock (ctxOf s j.ctx) lb = some b → i < pkRows j.entry →
        k < pkWords j.entry →
        pocketRead t b (pkRow j.entry + i) (4 * (pkWord j.entry + k)) 4 = leBytes 4 (pkPattern j.entry)) ∧
      (∀ b row byte, row < 16384 → byte < 256 →
        ((∀ lb ∈ pkBlocks j.entry, physBlock (ctxOf s j.ctx) lb ≠ some b) ∨ row < pkRow j.entry ∨
          pkRow j.entry + pkRows j.entry ≤ row ∨ byte < 4 * pkWord j.entry ∨
          4 * (pkWord j.entry + pkWords j.entry) ≤ byte) →
        memByte t.pocket (pocketAddr b row byte) = memByte s.pocket (pocketAddr b row byte)) ∧
      t.acc = s.acc ∧ t.mem = s.mem ∧ Beside s t id j.ctx) ∧
  (∀ (s : State) (id : Nat) (j : Job), runsNow s id Op.POCKET_COPY noSources j = true → (ctxOf s j.ctx).quads.Nodup →
    pkSrcWord j.entry + pkWords j.entry ≤ 64 → pkSrcRow j.entry + pkRows j.entry ≤ 16384 →
    pkRow j.entry + (copyShape j.entry).1 ≤ 16384 → pkWord j.entry + (copyShape j.entry).2 ≤ 64 →
    ∃ t, exec (.pocketCopy id none) s = .next t ∧
      ends t id Code.OK (pkVbCount j.entry * pkRows j.entry * pkWords j.entry) ∧
      (∀ lb b i k, lb ∈ pkBlocks j.entry → physBlock (ctxOf s j.ctx) lb = some b → i < pkRows j.entry →
        k < pkWords j.entry →
        pocketRead t b (pkRow j.entry + if pkTranspose j.entry then k else i)
          (4 * (pkWord j.entry + if pkTranspose j.entry then i else k)) 4 =
        pocketRead s b (pkSrcRow j.entry + i) (4 * (pkSrcWord j.entry + k)) 4) ∧
      (∀ b row byte, row < 16384 → byte < 256 →
        ((∀ lb ∈ pkBlocks j.entry, physBlock (ctxOf s j.ctx) lb ≠ some b) ∨ row < pkRow j.entry ∨
          pkRow j.entry + (copyShape j.entry).1 ≤ row ∨ byte < 4 * pkWord j.entry ∨
          4 * (pkWord j.entry + (copyShape j.entry).2) ≤ byte) →
        memByte t.pocket (pocketAddr b row byte) = memByte s.pocket (pocketAddr b row byte)) ∧
      t.acc = s.acc ∧ t.mem = s.mem ∧ Beside s t id j.ctx) ∧
  (∀ (s : State) (id : Nat) (j : Job), runsNow s id Op.POCKET_CONFIG noSources j = true →
    (pkSetWindow j.entry && pkEnable j.entry && windowOverlaps s j.ctx j.entry) = false →
    ∃ t, exec (.pocketConfig id) s = .next t ∧ ends t id Code.OK 0 ∧
      (ctxOf t j.ctx).groupMap = (if pkSetGroups j.entry then pkGroupMap j.entry % 2 ^ 32 else (ctxOf s j.ctx).groupMap) ∧
      (pkSetWindow j.entry = false → (ctxOf t j.ctx).windows = (ctxOf s j.ctx).windows) ∧
      (pkSetWindow j.entry = true → ∀ k, tabGet (ctxOf t j.ctx).windows k =
        if ∃ lb ∈ pkBlocks j.entry, windowKey lb (pkWindow j.entry) = k then
          (if pkEnable j.entry then some (pkNewWindow j.entry) else none)
        else tabGet (ctxOf s j.ctx).windows k) ∧
      t.pocket = s.pocket ∧ t.mem = s.mem ∧ Beside s t id j.ctx ∧ HoldingsKept s t) ∧
  (∀ (s : State) (c lb row byte words data b : Nat), physBlock (ctxOf s c) lb = some b → row < contextRows s → sliced s b = false →
    blockAvailable s b = true →
    (∃ t, exec (.pocketRemoteAccess c lb row byte words true data) s = .next t ∧
      pocketRead t b row byte (4 * words) = leBytes (4 * words) data ∧ .meshReply b Code.OK 0 ∈ t.out ∧ t.acc = s.acc ∧
      (∀ k, k < pocketAddr b row byte ∨ pocketAddr b row byte + 4 * words ≤ k →
        memByte t.pocket k = memByte s.pocket k)) ∧
    (∃ t, exec (.pocketRemoteAccess c lb row byte words false data) s = .next t ∧ t.pocket = s.pocket ∧ t.acc = s.acc ∧
      .meshReply b Code.OK (ofLeBytes (pocketRead s b row byte (4 * words))) ∈ t.out)) ∧
  (∀ (s : State) (c lb row byte words data b : Nat) (write : Bool), physBlock (ctxOf s c) lb = some b →
    blockAvailable s b = false →
    ∃ t, exec (.pocketRemoteAccess c lb row byte words write data) s = .next t ∧ t.pocket = s.pocket ∧
      .meshReply b Code.ECC_UNCORRECTABLE 0 ∈ t.out)

/-- O44. OBJ_REGISTER, OBJ_RELEASE, OBJ_SET_POLICY and OBJ_QUERY. OBJ_REGISTER with room and capacity registers
exactly the object that it names and returns its units; one that overlaps an object is refused with BAD_FIELD, one
without capacity with POOL_EXHAUSTED, and nothing changes. OBJ_RELEASE, once no earlier open command names the
object and none of its units moves, takes the object and its units away and its bytes read zero. OBJ_SET_POLICY
with nothing left to move ends with the units moved. OBJ_QUERY writes the descriptor and a byte for each unit.
(R172, R173, R174, R175) -/
def Obligations.ObjectCommands : Prop :=
  (∀ (s : State) (id : Nat) (j : Job), runsNow s id Op.OBJ_REGISTER noSources j = true →
    (overlapsObject s (objAddr j.entry) (objSize j.entry) = false → s.mem.objects.length < 65536 →
      capacityHeld s (objSize j.entry) (objPolicy j.entry) (objRegion j.entry) = true →
      objPolicy j.entry ≠ 0 ∨ shortRegion s (objSize j.entry) (objRegion j.entry) = none →
      ∃ t, exec (.objRegister id) s = .next t ∧ ends t id Code.OK (objSize j.entry / unitBytes) ∧
        (∀ a, tabGet t.mem.objects a = if a = objAddr j.entry then
          some ⟨objSize j.entry, objPolicy j.entry, objRegion j.entry, false⟩ else tabGet s.mem.objects a) ∧
        t.mem.units = s.mem.units ∧ (∀ a, byteAt t a = byteAt s a) ∧ Beside s t id j.ctx ∧ HoldingsKept s t) ∧
    (overlapsObject s (objAddr j.entry) (objSize j.entry) = true →
      ∃ t, exec (.objRegister id) s = .next t ∧ ends t id Code.BAD_FIELD 0 ∧ OnlyOutcome s t) ∧
    (overlapsObject s (objAddr j.entry) (objSize j.entry) = false →
      65536 ≤ s.mem.objects.length ∨
        capacityHeld s (objSize j.entry) (objPolicy j.entry) (objRegion j.entry) = false →
      ∃ t, exec (.objRegister id) s = .next t ∧ ends t id Code.POOL_EXHAUSTED 0 ∧ OnlyOutcome s t)) ∧
  (∀ (s : State) (id : Nat) (j : Job) (o : Obj), runsNow s id Op.OBJ_RELEASE noSources j = true →
    tabGet s.mem.objects (objAddr j.entry) = some o →
    s.jobs.any (fun p => p.1 < id && openJob p.2 && namesObject p.2.entry (objAddr j.entry) o.size) = false →
    (∀ p ∈ unitsOfObject s (objAddr j.entry) o, p.2.move = none) →
    ∃ t, exec (.objRelease id) s = .next t ∧ ends t id Code.OK (unitsOfObject s (objAddr j.entry) o).length ∧
      (∀ a, tabGet t.mem.objects a = if a = objAddr j.entry then none else tabGet s.mem.objects a) ∧
      (∀ u, tabGet t.mem.units u =
        if objAddr j.entry / unitBytes ≤ u ∧ u < (objAddr j.entry + o.size) / unitBytes then none
        else tabGet s.mem.units u) ∧
      (∀ a, memByte t.mem.dev a =
        if objAddr j.entry ≤ a ∧ a < objAddr j.entry + o.size then 0 else memByte s.mem.dev a) ∧
      (∀ k, tabGet t.mem.staged k =
        if objAddr j.entry / unitBytes ≤ k / 512 ∧ k / 512 < (objAddr j.entry + o.size) / unitBytes then none
        else tabGet s.mem.staged k) ∧
      t.mem.comp = s.mem.comp ∧ Beside s t id j.ctx ∧ HoldingsKept s t) ∧
  (∀ (s : State) (id m ab ch : Nat) (j : Job) (o : Obj), runsNow s id Op.OBJ_SET_POLICY noSources j = true →
    tabGet s.mem.objects (objAddr j.entry) = some o →
    (j.work = [m, ab, ch, 0] → ∃ t, exec (.objSetPolicy id) s = .next t ∧ ends t id Code.POOL_EXHAUSTED 0 ∧ OnlyOutcome s t) ∧
    (j.work = [m, ab, ch, 1] → (∀ p ∈ unitsOfObject s (objAddr j.entry) o, p.2.move = none) →
      (ab = 1 → ∃ t, exec (.objSetPolicy id) s = .next t ∧ ends t id Code.MIGRATION_ABORTED m ∧ OnlyOutcome s t) ∧
      (ab ≠ 1 → j.cancel.isSome = true →
        ∃ t, exec (.objSetPolicy id) s = .next t ∧ ends t id Code.CTX_CANCELLED m ∧ OnlyOutcome s t) ∧
      (ab ≠ 1 → j.cancel = none → misplacedUnits s (objAddr j.entry) o = [] →
        ∃ t, exec (.objSetPolicy id) s = .next t ∧
          ends t id (if ch = 0 ∧ m = 0 then Code.OK_NOOP else Code.OK) m ∧ OnlyOutcome s t) ∧
      (ab ≠ 1 → j.cancel = none → misplacedUnits s (objAddr j.entry) o ≠ [] →
        exec (.objSetPolicy id) s =
          .next { (startPolicyMoves id (objAddr j.entry) o (acting s j) (misplacedUnits s (objAddr j.entry) o)) with
            perf := { (startPolicyMoves id (objAddr j.entry) o (acting s j)
              (misplacedUnits s (objAddr j.entry) o)).perf with actor := none } }))) ∧
  (∀ (s u : State) (id : Nat) (j : Job) (o : Obj), runsNow s id Op.OBJ_QUERY noSources j = true →
    objectBase s (objAddr j.entry) = some o →
    prepareWrite (acting s j) (objDest j.entry) (64 + o.size / unitBytes) = .ready u →
    (∀ k x r, tabGet s.mem.units k = some x → x.home = .hbm r → r < 4) →
    ∃ t, exec (.objQuery id) s = .next t ∧ ends t id Code.OK (64 + o.size / unitBytes) ∧
      bytesAt t (objDest j.entry) (64 + o.size / unitBytes) = leBytes 64 (objDescriptor s (objAddr j.entry) o) ++
        (List.range (o.size / unitBytes)).map (fun i => unitByte s (objAddr j.entry / unitBytes + i)) ∧
      (∀ a, a < objDest j.entry ∨ objDest j.entry + (64 + o.size / unitBytes) ≤ a → byteAt t a = byteAt s a) ∧
      t.mem.objects = s.mem.objects ∧ Beside s t id j.ctx ∧ HoldingsKept s t)

/-- O45. The switch and the abandonment of a move. At the switch of a move its unit has the home that the move names
and no move; the contents of memory do not change, and the move is counted, also as a demotion or a promotion. An
abandoned move leaves the unit its home. The command whose policy caused the move counts the unit, or learns that
the move was abandoned. A unit without a move is left as it is. (R176, R177, R181) -/
def Obligations.MovesOfUnits : Prop :=
  (∀ (s : State) (u : Nat) (x : UnitInfo) (m : Move), tabGet s.mem.units u = some x → x.move = some m →
    (∃ t, exec (.moveSwitch u) s = .next t ∧
      (∀ k, tabGet t.mem.units k = if k = u then some { x with home := m.dest, move := none } else tabGet s.mem.units k) ∧
      (∀ a, byteAt t a = byteAt s a) ∧ t.mem.objects = s.mem.objects ∧ t.ctxs = s.ctxs ∧
      reg t Key.MEM_MOVES = reg (bump s Key.MEM_MOVES 1) Key.MEM_MOVES ∧
      (m.cause = .demotion →
        reg t Key.MEM_DEMOTIONS = reg (bump s Key.MEM_DEMOTIONS 1) Key.MEM_DEMOTIONS ∧ t.jobs = s.jobs) ∧
      (m.cause = .promotion →
        reg t Key.MEM_PROMOTIONS = reg (bump s Key.MEM_PROMOTIONS 1) Key.MEM_PROMOTIONS ∧ t.jobs = s.jobs) ∧
      (∀ id j n ab ch h, m.cause = .policy id → tabGet s.jobs id = some j → j.work = [n, ab, ch, h] →
        tabGet t.jobs id = some { j with work := [n + 1, ab, ch, h] } ∧
        ∀ k, k ≠ id → tabGet t.jobs k = tabGet s.jobs k)) ∧
    (∃ t, exec (.moveAbandon u) s = .next t ∧
      (∀ k, tabGet t.mem.units k = if k = u then some { x with move := none } else tabGet s.mem.units k) ∧
      (∀ a, byteAt t a = byteAt s a) ∧ t.mem.objects = s.mem.objects ∧ t.ctxs = s.ctxs ∧
      reg t Key.MEM_MOVES_ABANDONED = reg (bump s Key.MEM_MOVES_ABANDONED 1) Key.MEM_MOVES_ABANDONED ∧
      (∀ id j n ab ch h, m.cause = .policy id → tabGet s.jobs id = some j → j.work = [n, ab, ch, h] →
        tabGet t.jobs id = some { j with work := [n, 1, ch, h] } ∧
        ∀ k, k ≠ id → tabGet t.jobs k = tabGet s.jobs k))) ∧
  (∀ (s : State) (u : Nat), (tabGet s.mem.units u).bind UnitInfo.move = none →
    exec (.moveSwitch u) s = .next s ∧ exec (.moveAbandon u) s = .next s)

/-- O46. Stripes programmed, blocks erased and blocks emptied on the flash tier. A program that ends well puts its
stripe in its place: what memory holds of the stripe becomes durable, and what it carried of the staged writes is
staged no more; one that fails retires its block and changes no data. A block erased is empty again, with its
erasure counted, and one that fails to erase is retired. The background flush programs the oldest staged stripe of
its channel. Below 2 % of free blocks the emptiest full block of a LUN is erased, or the first of its stripes is
programmed anew; so is the first of the least erased block's when erase counts spread over more than 1,000. No
data in memory changes. (R189, R461) -/
def Obligations.FlashPrograms : Prop :=
  (∀ (s : State) (k : Nat) (p : Program), tabGet s.mem.programs k = some p →
    (flushingAll s = false → memWf s.mem.dev = true →
      ∃ t, exec (.stripeProgramComplete k true) s = .next t ∧ tabGet t.mem.programs k = none ∧
        tabGet t.mem.places k = some p.block ∧
        (∀ a, memByte t.mem.durable a =
          if k * stripeBytes ≤ a ∧ a < k * stripeBytes + stripeBytes then memByte s.mem.dev a else memByte s.mem.durable a) ∧
        t.mem.staged = s.mem.staged.filter (fun q => !(q.1 / 16 == k && q.2.order ≤ p.order)) ∧
        t.mem.dev = s.mem.dev ∧ t.mem.units = s.mem.units ∧ t.jobs = s.jobs ∧ t.regs = s.regs) ∧
    ∃ t, exec (.stripeProgramComplete k false) s = .next t ∧ t.mem.dev = s.mem.dev ∧ t.mem.durable = s.mem.durable ∧
      t.mem.staged = s.mem.staged ∧ t.mem.places = s.mem.places ∧
      (tabGet t.mem.blocks p.block).map FlashBlock.retired = some true ∧
      reg t Key.FLASH_BLOCKS_RETIRED = reg (bump s Key.FLASH_BLOCKS_RETIRED 1) Key.FLASH_BLOCKS_RETIRED ∧ t.jobs = s.jobs) ∧
  (∀ (s : State) (c l b : Nat) (x : FlashBlock), tabGet s.mem.blocks (blockKey c l b) = some x → x.erasing = true →
    exec (.blockEraseComplete c l b true) s = .next { s with mem := { s.mem with
      blocks := tabSet s.mem.blocks (blockKey c l b) { x with erasing := false, used := 0, erases := x.erases + 1 } } } ∧
    ∃ t, exec (.blockEraseComplete c l b false) s = .next t ∧ t.mem.dev = s.mem.dev ∧ t.mem.durable = s.mem.durable ∧
      t.mem.staged = s.mem.staged ∧ t.mem.places = s.mem.places ∧
      (tabGet t.mem.blocks (blockKey c l b)).map FlashBlock.retired = some true ∧
      (tabGet t.mem.blocks (blockKey c l b)).map FlashBlock.erases = some (x.erases + 1) ∧
      reg t Key.FLASH_BLOCKS_RETIRED = reg (bump s Key.FLASH_BLOCKS_RETIRED 1) Key.FLASH_BLOCKS_RETIRED) ∧
  (∀ (s : State) (c k : Nat) (q : Nat × Staged), running s = true → flashAwake s = true →
    inForce s Key.STORE_BACKGROUND_FLUSH = 1 → channelUp s c = true → reg s Key.FLASH_STATE ≠ 4 →
    (sortBy (fun a b => a.2.order < b.2.order) (s.mem.staged.filter (fun p =>
      channelOf (p.1 / 16) == c && !tabHas s.mem.programs (p.1 / 16)))).head? = some q →
    placeFor s (channelOf (q.1 / 16)) = some k →
    ∃ t, exec (.backgroundFlush c) s = .next t ∧ tabGet t.mem.programs (q.1 / 16) = some ⟨k, s.mem.order, s.mem.flushSeq⟩ ∧
      t.mem.dev = s.mem.dev ∧ t.mem.staged = s.mem.staged ∧ t.mem.durable = s.mem.durable ∧ t.mem.places = s.mem.places ∧
      t.jobs = s.jobs) ∧
  (∀ (s : State) (c l k : Nat) (b : FlashBlock), flashAwake s = true → lunFree s c l * 100 < (chan s c).blocks * 2 →
    emptiestBlock s c l = some (k, b) →
    (b.valid = [] → exec (.garbageCollection c l) s = .next { s with mem := { s.mem with
      blocks := tabSet s.mem.blocks k { b with erasing := true } } }) ∧
    (∀ v vs q, b.valid = v :: vs → s.mem.staged.any (fun p => p.1 / 16 == v) = false → tabHas s.mem.programs v = false →
      placeFor s (channelOf v) = some q →
      ∃ t, exec (.garbageCollection c l) s = .next t ∧ tabGet t.mem.programs v = some ⟨q, s.mem.order, s.mem.flushSeq⟩ ∧
        t.mem.dev = s.mem.dev ∧ t.mem.staged = s.mem.staged ∧ t.mem.durable = s.mem.durable ∧
        t.mem.places = s.mem.places ∧ t.jobs = s.jobs)) ∧
  (∀ (s : State) (c l low high : Nat) (bs : List (Nat × FlashBlock)) (k v q : Nat) (b : FlashBlock) (vs : List Nat),
    flashAwake s = true → bs = (lunBlocks s c l).filter (fun p => !p.2.retired) → (chan s c).blocks ≤ bs.length →
    (bs.map (fun p => p.2.erases)).min? = some low → (bs.map (fun p => p.2.erases)).max? = some high → low + 1000 < high →
    (sortBy (fun a b => a.2.erases < b.2.erases) (bs.filter (fun p => !p.2.valid.isEmpty))).head? = some (k, b) →
    b.valid = v :: vs → s.mem.staged.any (fun p => p.1 / 16 == v) = false → tabHas s.mem.programs v = false →
    placeFor s (channelOf v) = some q →
    ∃ t, exec (.wearLevelling c l) s = .next t ∧ tabGet t.mem.programs v = some ⟨q, s.mem.order, s.mem.flushSeq⟩ ∧
      t.mem.dev = s.mem.dev ∧ t.mem.staged = s.mem.staged ∧ t.mem.durable = s.mem.durable ∧
      t.mem.places = s.mem.places ∧ t.jobs = s.jobs)

/-- O47. Reads of the flash tier, its patrol, and the resets of channels. A read that needs no help changes nothing;
one decoded with a retry or in soft decision is counted so, and one that stays wrong poisons the lines of its 4
KiB unit and ends its reader with ECC_UNCORRECTABLE. A patrol read counts in the same way. Calibration and a check
that passes change nothing. A check that fails, or an operation busy too long, starts a channel reset: it is
counted, and the moves of units with stripes on the channel are abandoned, their homes kept. The reset ends with
the channel at the rate that passes, or, with none, with the channel down and its region in reset. (R187, R188,
R190, R193) -/
def Obligations.FlashReadsAndChannels : Prop :=
  (∀ (s : State) (job addr bits : Nat), bits ≤ inForce s Key.FLASH_REFRESH_BITS →
    exec (.flashReadComplete job addr 0 bits) s = .next s) ∧
  (∀ (s : State) (job addr level bits : Nat), level = 1 ∨ level = 2 →
    ∃ t, exec (.flashReadComplete job addr level bits) s = .next t ∧ t.jobs = s.jobs ∧ t.mem.dev = s.mem.dev ∧
      t.mem.poison = s.mem.poison ∧
      reg t (if level = 1 then Key.FLASH_RETRY_READS else Key.FLASH_SOFT_READS) =
        reg (bump s (if level = 1 then Key.FLASH_RETRY_READS else Key.FLASH_SOFT_READS) 1)
          (if level = 1 then Key.FLASH_RETRY_READS else Key.FLASH_SOFT_READS)) ∧
  (∀ (s : State) (job addr level bits : Nat) (j : Job), 3 ≤ level → tabGet s.jobs job = some j → openJob j = true →
    tellsWhere j.opcode = false → j.opcode ≠ Op.SEARCH → j.opcode ≠ Op.RECALL_PROBE →
    ∃ t, exec (.flashReadComplete job addr level bits) s = .next t ∧ ends t job Code.ECC_UNCORRECTABLE 0 ∧
      t.mem.dev = s.mem.dev ∧ (∀ l, l ∈ t.mem.poison ↔ l ∈ s.mem.poison ∨ l / 32 = addr / 4096) ∧
      reg t Key.FLASH_UNCORRECTABLE = reg (bump s Key.FLASH_UNCORRECTABLE 1) Key.FLASH_UNCORRECTABLE) ∧
  (∀ (s : State) (k level bits : Nat), flashAwake s = true → inForce s Key.FLASH_SCRUB_HOURS ≠ 0 →
    tabHas s.mem.places k = true →
    (level = 0 → bits ≤ inForce s Key.FLASH_REFRESH_BITS → exec (.flashPatrol k level bits) s = .next s) ∧
    (level = 0 → inForce s Key.FLASH_REFRESH_BITS < bits → s.mem.staged.any (fun p => p.1 / 16 == k) = false →
      ∃ t, exec (.flashPatrol k level bits) s = .next t ∧ t.mem.dev = s.mem.dev ∧ t.jobs = s.jobs ∧
        reg t Key.FLASH_REFRESH_WRITES = reg (bump s Key.FLASH_REFRESH_WRITES 1) Key.FLASH_REFRESH_WRITES) ∧
    (3 ≤ level → ∃ t, exec (.flashPatrol k level bits) s = .next t ∧ t.mem = s.mem ∧ t.jobs = s.jobs ∧
      reg t Key.FLASH_UNCORRECTABLE = reg (bump s Key.FLASH_UNCORRECTABLE 1) Key.FLASH_UNCORRECTABLE)) ∧
  (∀ (s : State) (c : Nat), exec (.zqCalibration c) s = .next s ∧ exec (.dqCheck c true) s = .next s ∧
    ∀ x, tabGet s.mem.channels c = some x → x.up = true → x.resetting = false →
      ∃ t, exec (.dqCheck c false) s = .next t ∧ exec (.flashBusyTimeout c) s = .next t ∧
        (∀ d, tabGet t.mem.channels d = if d = c then some { x with resetting := true } else tabGet s.mem.channels d) ∧
        reg t Key.FLASH_CHANNEL_RESETS = reg (bump s Key.FLASH_CHANNEL_RESETS 1) Key.FLASH_CHANNEL_RESETS ∧
        t.mem.dev = s.mem.dev ∧
        ∀ u, (tabGet t.mem.units u).map UnitInfo.home = (tabGet s.mem.units u).map UnitInfo.home ∧
          ∀ i m, tabGet s.mem.units u = some i → i.move = some m → (i.home = .flash ∨ m.dest = .flash) →
            (∃ n, n < 32 ∧ channelOf (u * 32 + n) = c) → tabGet t.mem.units u = some { i with move := none }) ∧
  (∀ (s : State) (c rates r : Nat) (x : Channel), tabGet s.mem.channels c = some x → x.resetting = true →
    r = trainedRate (reg s Key.FLASH_EXT_MODE == 1) rates →
    (r ≠ 0 → ∃ t, exec (.channelReset c rates) s = .next t ∧ t.mem.dev = s.mem.dev ∧ t.mem.durable = s.mem.durable ∧
      (∀ d, tabGet t.mem.channels d =
        if d = c then some { x with resetting := false, rate := r } else tabGet s.mem.channels d)) ∧
    (r = 0 → ∃ t, exec (.channelReset c rates) s = .next t ∧
      (tabGet t.mem.channels c).map Channel.up = some false ∧ (c / 16) ∈ t.chip.resetting ∧
      t.mem.durable = s.mem.durable))

/-- O48. The patrol scrub of HBM, its temperatures, and the reset of a stack controller. The patrol scrub counts a
corrected error and changes no data; an error that it cannot correct is logged and counted, and the line is
poisoned. A temperature is kept with its stack: refresh doubles above 85 degrees, the command rate halves from
above HBM.THROTTLE_C until 90 degrees or below, and HBM.TEMP_MAX keeps the highest; below 100 degrees it is no
power error. A stack controller reset ends with the stack retrained and out of self-refresh, its contents kept, or
with its region in reset. (R184, R185) -/
def Obligations.HbmUpkeep : Prop :=
  (∀ (s : State) (line errors : Nat), inForce s Key.HBM_SCRUB_HOURS ≠ 0 →
    (errors = 0 → exec (.hbmPatrolScrub line errors) s = .next s) ∧
    (errors = 1 → ∃ t, exec (.hbmPatrolScrub line errors) s = .next t ∧ t.mem = s.mem ∧ t.jobs = s.jobs ∧
      reg t Key.HBM_CORRECTED = reg (bump s Key.HBM_CORRECTED 1) Key.HBM_CORRECTED) ∧
    (2 ≤ errors → ∃ t, exec (.hbmPatrolScrub line errors) s = .next t ∧ t.mem.dev = s.mem.dev ∧ t.jobs = s.jobs ∧
      (∀ l, l ∈ t.mem.poison ↔ l ∈ s.mem.poison ∨ l = line) ∧
      reg t Key.HBM_UNCORRECTABLE = reg (bump s Key.HBM_UNCORRECTABLE 1) Key.HBM_UNCORRECTABLE)) ∧
  (∀ (s : State) (line errors : Nat), inForce s Key.HBM_SCRUB_HOURS = 0 → exec (.hbmPatrolScrub line errors) s = .next s) ∧
  (∀ (s : State) (k temp : Nat), s.start ≠ .off → k < 12 → temp < 100 →
    ∃ t, exec (.hbmTemperatureRead k temp) s = .next t ∧
      (∀ q, stackOf t q = if q = k then { stackOf s k with
        temp := temp
        doubled := 85 < temp
        throttled := reg s Key.HBM_THROTTLE_C < temp ∨ 90 < temp ∧ (stackOf s k).throttled = true }
        else stackOf s q) ∧
      t.mem.dev = s.mem.dev ∧ t.fatal = s.fatal ∧ t.jobs = s.jobs ∧
      reg t Key.HBM_TEMP_MAX = Nat.max (reg s Key.HBM_TEMP_MAX) temp) ∧
  (∀ (s : State) (k rate : Nat), (stackOf s k).resetting = true →
    (stackRate rate = true → ∃ t, exec (.stackControllerReset k rate) s = .next t ∧ t.mem.dev = s.mem.dev ∧
      t.mem.units = s.mem.units ∧ t.jobs = s.jobs ∧
      ∀ q, stackOf t q = if q = k then { stackOf s k with resetting := false, selfRefresh := false } else stackOf s q) ∧
    (stackRate rate = false → ∃ t, exec (.stackControllerReset k rate) s = .next t ∧ (k / 3) ∈ t.chip.resetting))

/-- O49. LACE_VOCAB_LOAD, LACE_VOCAB_UNLOAD, LACE_ENCODE and LACE_DECODE. A load of an image that passes its checks
makes the vocabulary known at its address, and one that fails a check, or names a loaded vocabulary, changes
nothing. An unload waits for the calls that pinned the vocabulary and then removes it. LACE_ENCODE segments its
text whole, then writes its tokens, to memory or into a Pocket, and ends with the count of tokens and the length
of the normalized text, with OK_TRUNCATED where the tokens did not fit. LACE_DECODE ends with TOKEN_INVALID at the
first token that the vocabulary lacks, and otherwise writes the bytes of its tokens as far as they fit. Nothing
else in memory changes. (R196, R198, R199, R202, R203, R204, R205, R206) -/
def Obligations.TextAndVocabularies : Prop :=
  (∀ (s : State) (id : Nat) (j : Job), runsNow s id Op.LACE_VOCAB_LOAD noSources j = true →
    (tabHas s.vocabs (laVocab j.entry) = true →
      ∃ t, exec (.laceVocabLoad id) s = .next t ∧ ends t id Code.BAD_FIELD 0 ∧ OnlyOutcome s t) ∧
    (tabHas s.vocabs (laVocab j.entry) = false → readBad s (laSrc j.entry) 64 = false →
      readBad s (laSrc j.entry) (voBytes (natAt s (laSrc j.entry) 64)) = false →
      (vocabCheck s (laSrc j.entry) = Code.OK → ∃ t, exec (.laceVocabLoad id) s = .next t ∧ ends t id Code.OK 0 ∧
        (∀ v, tabGet t.vocabs v =
          if v = laVocab j.entry then some { addr := laSrc j.entry } else tabGet s.vocabs v) ∧
        (∀ a, byteAt t a = byteAt s a) ∧ Beside s t id j.ctx ∧ t.indexes = s.indexes ∧ t.models = s.models) ∧
      (vocabCheck s (laSrc j.entry) ≠ Code.OK → ∃ t, exec (.laceVocabLoad id) s = .next t ∧
        ends t id (vocabCheck s (laSrc j.entry)) 0 ∧ OnlyOutcome s t))) ∧
  (∀ (s : State) (id : Nat) (j : Job), runsNow s id Op.LACE_VOCAB_UNLOAD noSources j = true →
    (tabGet s.vocabs (laVocab j.entry) = none →
      ∃ t, exec (.laceVocabUnload id) s = .next t ∧ ends t id Code.OK_NOOP 0 ∧ OnlyOutcome s t) ∧
    (∀ x, tabGet s.vocabs (laVocab j.entry) = some x → x.closing = some id →
      ((∃ k ∈ x.pins, isOpen s k = true) → s.perf.actor = none → exec (.laceVocabUnload id) s = .next s) ∧
      ((∀ k ∈ x.pins, isOpen s k = false) → ∃ t, exec (.laceVocabUnload id) s = .next t ∧ ends t id Code.OK 0 ∧
        (∀ v, tabGet t.vocabs v = if v = laVocab j.entry then none else tabGet s.vocabs v) ∧
        t.mem = s.mem ∧ Beside s t id j.ctx ∧ t.indexes = s.indexes ∧ t.models = s.models))) ∧
  (∀ (s : State) (id : Nat) (j : Job) (x : Vocab) (r : List (Nat × Nat) × Nat × Nat),
    runsNow s id Op.LACE_ENCODE laceEncodeSources j = true → tabGet s.vocabs (laVocab j.entry) = some x → j.work = [] →
    readBad s (laSrc j.entry) (laLength j.entry) = false →
    r = encodeText s x.addr j.entry (bytesAt s (laSrc j.entry) (laLength j.entry)) →
    ∃ t, exec (.laceEncode id) s = .next t ∧
      tabGet t.jobs id = some { j with
        phase := .running
        work := 1 :: r.1.length :: r.2.1 :: r.2.2 :: encodeBytes j.entry (r.1.take (laCapacity j.entry)) } ∧
      (∀ a, byteAt t a = byteAt s a) ∧ Beside s t id j.ctx ∧ HoldingsKept s t ∧ t.indexes = s.indexes) ∧
  (∀ (s : State) (id m total n fb : Nat) (bs : List Nat) (j : Job), runsNow s id Op.LACE_ENCODE laceEncodeSources j = true →
    j.work = m :: total :: n :: fb :: bs → (∀ b ∈ bs, b < 256) →
    (∀ u, laPocket j.entry = false → prepareWrite (acting s j) (laDest j.entry) bs.length = .ready u →
      ∃ t, exec (.laceEncode id) s = .next t ∧
        ends t id (if laCapacity j.entry < total then Code.OK_TRUNCATED else Code.OK) (n * 2 ^ 32 + total) ∧
        bytesAt t (laDest j.entry) bs.length = bs ∧
        (∀ a, a < laDest j.entry ∨ laDest j.entry + bs.length ≤ a → byteAt t a = byteAt s a) ∧
        Beside s t id j.ctx ∧ HoldingsKept s t ∧ t.indexes = s.indexes) ∧
    (∀ b, laPocket j.entry = true → (ctxOf s j.ctx).state = .running → physBlock (ctxOf s j.ctx) (laVb j.entry) = some b →
      claimable (ctxOf s j.ctx) [] (slotsOf (ctxOf s j.ctx) (laVb j.entry) (laRow j.entry)
        (if bs = [] then 0 else (bs.length - 1) / 256 + 1)) = true →
      ∃ t, exec (.laceEncode id) s = .next t ∧
        ends t id (if laCapacity j.entry < total then Code.OK_TRUNCATED else Code.OK) (n * 2 ^ 32 + total) ∧
        pocketRead t b (laRow j.entry) 0 bs.length = bs ∧
        (∀ k, k < pocketAddr b (laRow j.entry) 0 ∨ pocketAddr b (laRow j.entry) 0 + bs.length ≤ k →
          memByte t.pocket k = memByte s.pocket k) ∧
        t.mem = s.mem ∧ Beside s t id j.ctx ∧ t.indexes = s.indexes ∧ t.vocabs = s.vocabs)) ∧
  (∀ (s : State) (id : Nat) (j : Job) (x : Vocab), runsNow s id Op.LACE_DECODE laceDecodeSources j = true →
    tabGet s.vocabs (laVocab j.entry) = some x → readBad s (laSrc j.entry) (4 * laCount j.entry) = false →
    (∀ i, i < laCount j.entry → voTokens (natAt s x.addr 64) ≤ natAt s (laSrc j.entry + 4 * i) 4 →
      (∀ k, k < i → natAt s (laSrc j.entry + 4 * k) 4 < voTokens (natAt s x.addr 64)) →
      ∃ t, exec (.laceDecode id) s = .next t ∧ ends t id Code.TOKEN_INVALID i ∧
        (∀ a, byteAt t a = byteAt s a) ∧ Beside s t id j.ctx ∧ HoldingsKept s t ∧ t.indexes = s.indexes) ∧
    (∀ u bs, (∀ k, k < laCount j.entry → natAt s (laSrc j.entry + 4 * k) 4 < voTokens (natAt s x.addr 64)) →
      readBad (touchRange (acting s j) (laSrc j.entry) (4 * laCount j.entry)) x.addr (voBytes (natAt s x.addr 64)) = false →
      bs = decodeTokens s x.addr (laSkip j.entry) (laContinue j.entry)
        ((List.range (laCount j.entry)).map (fun i => natAt s (laSrc j.entry + 4 * i) 4)) →
      prepareWrite (touchRange (acting s j) (laSrc j.entry) (4 * laCount j.entry)) (laDest j.entry)
        (bs.take (laCapacity j.entry)).length = .ready u →
      ∃ t, exec (.laceDecode id) s = .next t ∧
        ends t id (if laCapacity j.entry < bs.length then Code.OK_TRUNCATED else Code.OK) bs.length ∧
        bytesAt t (laDest j.entry) (bs.take (laCapacity j.entry)).length = bs.take (laCapacity j.entry) ∧
        (∀ a, a < laDest j.entry ∨ laDest j.entry + (bs.take (laCapacity j.entry)).length ≤ a → byteAt t a = byteAt s a) ∧
        Beside s t id j.ctx ∧ HoldingsKept s t ∧ t.indexes = s.indexes))

/-- O50. INDEX_CREATE, INDEX_DROP, INDEX_STATUS and compaction. INDEX_CREATE reads its descriptor and fails with
VERSION_UNSUPPORTED for another version, and with BAD_FIELD for a bad field, a bad area, areas that are not
distinct, an area of another index or a known index number. Otherwise a new index stands with the descriptor, its
state area is zero and its durable copy is forgotten; with OPEN it takes the durable copy at its list area instead,
and fails with ECC_UNCORRECTABLE, INDEX_CORRUPT (counted) or BAD_FIELD where the copy cannot be read, is missing or
differs. INDEX_DROP answers OK_NOOP for an index that it does not drop, waits for the commands that pinned the index
and for its open writers, and then removes the index and its durable copy and discards its staged writes.
INDEX_STATUS writes its 64 bytes, and RESULT is a value that the spec leaves open (log entry 47). A compaction ends
its round, compacts one due list or passes over it, as R218 sets out, and does nothing where it is not enabled.
Nothing else changes. (R211, R212, R218, R220, R232) -/
def Obligations.IndexCommands : Prop :=
  (∀ (s s' : State) (id d : Nat) (j : Job), runsNow s id Op.INDEX_CREATE indexCreateSources j = true →
    readBad s (srSrc j.entry) 128 = false → d = natAt s (srSrc j.entry) 128 →
    s' = touchRange (acting s j) (srSrc j.entry) 128 →
    (field d 0 8 ≠ 1 → ∃ t, exec (.indexCreate id) s = .next t ∧ EndsOnly s t id j Code.VERSION_UNSUPPORTED 0) ∧
    (field d 0 8 = 1 → tabHas s.indexes (srIndex j.entry) = true ∨ ixFieldsBad d = true ∨
        (ixAreaNeeds d).any (areaBad s) = true ∨ (distinct (ixAreas d)).length ≠ 5 ∨
        (ixAreas d).any (holdsIndex s) = true →
      ∃ t, exec (.indexCreate id) s = .next t ∧ EndsOnly s t id j Code.BAD_FIELD 0) ∧
    (field d 0 8 = 1 → tabHas s.indexes (srIndex j.entry) = false → ixFieldsBad d = false →
        (ixAreaNeeds d).any (areaBad s) = false → (distinct (ixAreas d)).length = 5 →
        (ixAreas d).any (holdsIndex s) = false →
      (ixOpen d = false → ∃ t, exec (.indexCreate id) s = .next t ∧ ends t id Code.OK 0 ∧
        (∀ i, tabGet t.indexes i = if i = srIndex j.entry then some { desc := d } else tabGet s.indexes i) ∧
        (∀ a, tabGet t.copies a = if a = ixListArea d then none else tabGet s.copies a) ∧
        (∀ a, byteAt t a = if inWindow a = false ∧ ixStateArea d ≤ a ∧ a < ixStateArea d + ixStateBytes d then 0
          else byteAt s a) ∧ Beside s t id j.ctx ∧ HoldingsKept s t) ∧
      (ixOpen d = true → readBad s' (ixListArea d) (ixCopyStripes d * stripeBytes) = true →
        ∃ t, exec (.indexCreate id) s = .next t ∧ EndsOnly s t id j Code.ECC_UNCORRECTABLE 0) ∧
      (ixOpen d = true → readBad s' (ixListArea d) (ixCopyStripes d * stripeBytes) = false →
        (tabGet s.copies (ixListArea d) = none → ∃ t, exec (.indexCreate id) s = .next t ∧
          EndsOnly s t id j Code.INDEX_CORRUPT 0 ∧
          reg t Key.SEARCH_CORRUPT_EVENTS = reg (bump s Key.SEARCH_CORRUPT_EVENTS 1) Key.SEARCH_CORRUPT_EVENTS) ∧
        (∀ c, tabGet s.copies (ixListArea d) = some c →
          (descDiffers d c.desc = true → ∃ t, exec (.indexCreate id) s = .next t ∧
            EndsOnly s t id j Code.BAD_FIELD 0) ∧
          (descDiffers d c.desc = false → ∃ t, exec (.indexCreate id) s = .next t ∧ ends t id Code.OK 0 ∧
            (∀ i, tabGet t.indexes i = if i = srIndex j.entry then some c else tabGet s.indexes i) ∧
            t.copies = s.copies ∧ (∀ a, byteAt t a = byteAt s a) ∧ Beside s t id j.ctx ∧ HoldingsKept s t))))) ∧
  (∀ (s : State) (id : Nat) (j : Job), runsNow s id Op.INDEX_DROP noSources j = true →
    ((∀ x, tabGet s.indexes (srIndex j.entry) = some x → x.dropping ≠ some id) →
      ∃ t, exec (.indexDrop id) s = .next t ∧ ends t id Code.OK_NOOP 0 ∧ OnlyOutcome s t) ∧
    (∀ x, tabGet s.indexes (srIndex j.entry) = some x → x.dropping = some id →
      ((openPins s x ≠ [] ∨ openBefore s (srIndex j.entry) id
          [Op.WRITE_PASSAGES, Op.WRITE_VECTORS, Op.WRITE_SKETCHES, Op.DELETE, Op.PUBLISH] = true) →
        s.perf.actor = none → exec (.indexDrop id) s = .next s) ∧
      (openPins s x = [] → openBefore s (srIndex j.entry) id
          [Op.WRITE_PASSAGES, Op.WRITE_VECTORS, Op.WRITE_SKETCHES, Op.DELETE, Op.PUBLISH] = false →
        ∃ t, exec (.indexDrop id) s = .next t ∧ ends t id Code.OK 0 ∧
          (∀ i, tabGet t.indexes i = if i = srIndex j.entry then none else tabGet s.indexes i) ∧
          (∀ a, tabGet t.copies a = if a = ixListArea x.desc then none else tabGet s.copies a) ∧
          (∀ p ∈ t.mem.staged, p ∈ s.mem.staged ∧ ∀ a ∈ [ixListArea x.desc, ixVectorArea x.desc, ixTextArea x.desc],
            p.1 * 4096 < a ∨ a + objectSize s a ≤ p.1 * 4096) ∧
          (∀ a, (∀ p ∈ s.mem.staged, a < p.1 * 4096 ∨ p.1 * 4096 + 4096 ≤ a) → byteAt t a = byteAt s a) ∧
          t.mem.durable = s.mem.durable ∧ t.mem.objects = s.mem.objects ∧ Beside s t id j.ctx ∧ HoldingsKept s t))) ∧
  (∀ (s u : State) (id : Nat) (j : Job) (x : Index), runsNow s id Op.INDEX_STATUS noSources j = true →
    tabGet s.indexes (srIndex j.entry) = some x → prepareWrite (acting s j) (srDest j.entry) 64 = .ready u →
    ∃ t r, exec (.indexStatus id) s = .next t ∧ r < 2 ^ 64 ∧
      EndsWith s t id j (srDest j.entry) (leBytes 64 (indexStatus s x)) Code.OK r) ∧
  (∀ (s : State) (i l : Nat) (x : Index), running s = true → inForce s Key.SEARCH_COMPACT_ENABLE = 1 →
    reg s Key.FLASH_STATE ≠ 4 → tabGet s.indexes i = some x →
    ((dueLists s x).find? (fun k => x.cursor ≤ k) = none → ∃ t, exec (.compaction i l) s = .next t ∧
      (∀ k, tabGet t.indexes k = if k = i then some (endRound s x) else tabGet s.indexes k) ∧
      t.mem = s.mem ∧ t.jobs = s.jobs ∧ t.regs = s.regs) ∧
    (∀ x' ws u, (dueLists s x).find? (fun k => x.cursor ≤ k) = some l → compactList s i x l = some (x', ws) →
      prepareWrites s ws = .ready u → ∃ t, exec (.compaction i l) s = .next t ∧
        (∀ k, tabGet t.indexes k = if k = i then some { x' with cursor := l + 1 } else tabGet s.indexes k) ∧
        t.mem = (writeRecords u ws).mem ∧ t.jobs = s.jobs ∧ t.ctxs = s.ctxs ∧ HoldingsKept s t ∧
        (∀ a, (∀ w ∈ ws, a < w.1 ∨ w.1 + w.2.length ≤ a) →
          (∀ w ∈ ws, w.1 % stripeBytes = 0 → a < w.1 ∨ w.1 + stripeBytes ≤ a) → byteAt t a = byteAt s a) ∧
        reg t Key.SEARCH_COMPACTIONS = reg (bump s Key.SEARCH_COMPACTIONS 1) Key.SEARCH_COMPACTIONS) ∧
    ((dueLists s x).find? (fun k => x.cursor ≤ k) = some l → compactList s i x l = none →
      ∃ t, exec (.compaction i l) s = .next t ∧ t.mem = s.mem ∧ t.regs = s.regs ∧
        ∀ k, tabGet t.indexes k = if k = i then some { x with cursor := l + 1 } else tabGet s.indexes k)) ∧
  (∀ (s : State) (i l : Nat), running s = false ∨ inForce s Key.SEARCH_COMPACT_ENABLE ≠ 1 ∨ reg s Key.FLASH_STATE = 4 →
    exec (.compaction i l) s = .next s)

/-- O51. SEARCH, RERANK, RECALL_PROBE and the passes of a Cuff. SEARCH opens its query with the ranked lists and the
items of the probe set; with SPAN it sends SPAN_START to each other member, and ends with DEVICE_UNREACHABLE where a
member has no route. It then waits for its items and for the other devices; at its end it runs a repair pass, a
widening round, or writes its header, scores and entries with OK or OK_SHORT, and a failed span or segment gives its
header with that status. RERANK scores its visible candidates and RECALL_PROBE compares each query with the
exhaustive scan; each writes its result and nothing else. A pass of a Cuff serves, for the oldest segment, each
query that shares it, and counts the records that it scanned. (R221, R222, R223, R224, R225, R226, R227, R228, R229,
R230, R231, R234) -/
def Obligations.SearchCommands : Prop :=
  (∀ (s u : State) (id : Nat) (j : Job) (x : Index) (bs ls : List Nat) (q : Query),
    runsNow s id Op.SEARCH searchSources j = true →
    tabGet s.indexes (srIndex j.entry) = some x → tabGet s.queries id = none →
    readBad s (ixCentroidArea x.desc) (ixLists x.desc * vStride x.desc) = false →
    queryRead (acting s j) id j x.desc u bs →
    ls = rankLists s x.desc ((queryCodes x.desc bs).map ofBf16) →
    q = { index := srIndex j.entry, epoch := j.pin, values := queryCodes x.desc bs, sketch := querySketch x.desc bs,
          lists := ls, taken := takenAfter j.entry 0 ls.length
          items := (ls.take (takenAfter j.entry 0 ls.length)).flatMap (listItems s x) } →
    (spanRole u j = none → ∃ t, exec (.search id) s = .next t ∧ (tabGet t.jobs id).map Job.phase = some .running ∧
      (∀ k, tabGet t.queries k = if k = id then some q else tabGet s.queries k) ∧ Quiet s t id j.ctx) ∧
    (∀ r ms, spanRole u j = some r → ms = treeMembers (jobEntry u r.job) (ownDevice u) →
      (∀ d ∈ ms, d ≠ ownDevice u → flowRoute u r.job d ≠ none) →
      ∃ t, exec (.search id) s = .next t ∧ (tabGet t.jobs id).map Job.phase = some .running ∧
        (∀ k, tabGet t.queries k = if k = id then some { q with
          span := some { r with left := treeChildren ms (ownDevice u), hits := [] } } else tabGet s.queries k) ∧
        Quiet s t id j.ctx ∧ t.pelgan.nextTag = (u.pelgan.nextTag + 1) % 65536 ∧
        ∀ d ∈ ms, d ≠ ownDevice u → ∃ h v, flowRoute u r.job d = some h ∧
          Out.message (firstPort h) msgSpanStart d r.tag v ∈ t.out) ∧
    (∀ r d, spanRole u j = some r → d ∈ treeMembers (jobEntry u r.job) (ownDevice u) → d ≠ ownDevice u →
      flowRoute u r.job d = none → ∃ t, exec (.search id) s = .next t ∧ EndsOnly s t id j Code.DEVICE_UNREACHABLE 0)) ∧
  (∀ (s : State) (id : Nat) (j : Job) (x : Index) (q : Query), runsNow s id Op.SEARCH searchSources j = true →
    tabGet s.indexes (srIndex j.entry) = some x → tabGet s.queries id = some q →
    (∀ l st u, q.failed = some (l, st) → prepareWrite (acting s j) (srDest j.entry) 64 = .ready u →
      ∃ t, exec (.search id) s = .next t ∧ EndsWith s t id j (srDest j.entry)
        (leBytes 64 (searchHeader q q.merged.length 0 0 q.conflict)) st l) ∧
    (q.failed = none → q.items ≠ [] → s.perf.actor = none → exec (.search id) s = .next s) ∧
    (∀ o, q.failed = none → q.items = [] → toRepair (srKscan j.entry) q = some o → ∃ t, exec (.search id) s = .next t ∧
      (∀ k, tabGet t.queries k = if k = id then some (repair s x j.entry q o) else tabGet s.queries k) ∧
      t.jobs = s.jobs ∧ Quiet s t id j.ctx ∧
      reg t Key.SEARCH_REPAIR_PASSES = reg (bump s Key.SEARCH_REPAIR_PASSES 1) Key.SEARCH_REPAIR_PASSES) ∧
    (∀ r st u, q.failed = none → q.items = [] → toRepair (srKscan j.entry) q = none → q.span = some r →
      r.failed = some st → prepareWrite (acting s j) (srDest j.entry) 64 = .ready u →
      ∃ t, exec (.search id) s = .next t ∧ EndsWith s t id j (srDest j.entry)
        (leBytes 64 (searchHeader q q.merged.length 0 0 q.conflict)) st 0) ∧
    (∀ r, q.failed = none → q.items = [] → toRepair (srKscan j.entry) q = none → q.span = some r → r.failed = none →
      r.left ≠ 0 → s.perf.actor = none → exec (.search id) s = .next s) ∧
    (∀ scored, q.failed = none → q.items = [] → toRepair (srKscan j.entry) q = none →
      (∀ r, q.span = some r → r.failed = none ∧ r.left = 0) →
      scored = mergedScores s x.desc j.entry q →
      (scored.length < srKout j.entry ∧ canWiden j.entry q.rounds q.lists.length = true → q.span = none →
        ∃ t, exec (.search id) s = .next t ∧
        (∀ k, tabGet t.queries k = if k = id then some (takeLists s x j.entry q (q.rounds + 1)) else tabGet s.queries k) ∧
        t.jobs = s.jobs ∧ Quiet s t id j.ctx ∧
        reg t Key.SEARCH_WIDEN_ROUNDS = reg (bump s Key.SEARCH_WIDEN_ROUNDS 1) Key.SEARCH_WIDEN_ROUNDS) ∧
      (∀ u, ¬(scored.length < srKout j.entry ∧ canWiden j.entry q.rounds q.lists.length = true) →
        vectorsBad s x.desc (srMetric j.entry) q.merged = false →
        prepareWrite (touchRanges (acting s j) (vectorRanges x.desc (srMetric j.entry) q.merged)) (srDest j.entry)
          (searchBytes j.entry q scored).length = .ready u →
        ∃ t, exec (.search id) s = .next t ∧ EndsWith s t id j (srDest j.entry) (searchBytes j.entry q scored)
          (if searchCount j.entry scored < srKout j.entry then Code.OK_SHORT else Code.OK)
          (scored.length * 2 ^ 16 + searchCount j.entry scored)))) ∧
  (∀ (s u v : State) (id : Nat) (j : Job) (x : Index) (bs ps : List Nat) (scored : List (Hit × Machine.Num)) (q : Query),
    runsNow s id Op.RERANK rerankSources j = true → tabGet s.indexes (srIndex j.entry) = some x →
    readBad s (srCand j.entry) (8 * srCandCount j.entry) = false →
    queryRead (touchRange (acting s j) (srCand j.entry) (8 * srCandCount j.entry)) id j x.desc u bs →
    ps = rerankCandidates s x j.pin ((List.range (srCandCount j.entry)).map (fun i =>
      ofLeBytes (((bytesAt s (srCand j.entry) (8 * srCandCount j.entry)).drop (8 * i)).take 8))) →
    vectorsBad u x.desc (srMetric j.entry) (ps.map (fun p => ({ h := 0, passage := p } : Hit))) = false →
    scored = scoreHits s x.desc (srMetric j.entry) ((queryCodes x.desc bs).map ofBf16)
      (ps.map (fun p => ({ h := 0, passage := p } : Hit))) →
    q = { index := srIndex j.entry, epoch := j.pin, values := [], sketch := 0, lists := [] } →
    prepareWrite (touchRanges u (vectorRanges x.desc (srMetric j.entry) (ps.map (fun p => ({ h := 0, passage := p } : Hit)))))
      (srDest j.entry) (searchBytes j.entry q scored).length = .ready v →
    ∃ t, exec (.rerank id) s = .next t ∧ EndsWith s t id j (srDest j.entry) (searchBytes j.entry q scored)
      (if searchCount j.entry scored < srKout j.entry then Code.OK_SHORT else Code.OK)
      (scored.length * 2 ^ 16 + searchCount j.entry scored)) ∧
  (∀ (s u v : State) (id : Nat) (j : Job) (x : Index) (qs : List (List Nat)) (rs : List (Nat × Nat × Nat)),
    runsNow s id Op.RECALL_PROBE recallProbeSources j = true → tabGet s.indexes (srIndex j.entry) = some x →
    readBad s (srSrc j.entry) (queryStride x.desc * srQcount j.entry) = false →
    u = touchRange (acting s j) (srSrc j.entry) (queryStride x.desc * srQcount j.entry) →
    listsError u x (tabKeys x.extents) j.pin = none →
    qs = (List.range (srQcount j.entry)).map (fun i =>
      probeRecord x.desc i (bytesAt s (srSrc j.entry) (queryStride x.desc * srQcount j.entry))) →
    readBad u (ixCentroidArea x.desc) (ixLists x.desc * vStride x.desc) = false →
    (∀ b ∈ qs, probeVectorsBad u x j.entry j.pin b = false) → rs = qs.map (probeOne s x j.entry j.pin) →
    prepareWrite (touchRanges u (probeRanges u x j.entry j.pin qs)) (srDest j.entry) (16 * srQcount j.entry) = .ready v →
    ∃ t, exec (.recallProbe id) s = .next t ∧ EndsWith s t id j (srDest j.entry)
      (rs.map (fun r => leBytes 16 (r.1 * 2 ^ 96 + r.2.1 * 2 ^ 64 + r.2.2 * 2 ^ 32))).flatten Code.OK
      ((rs.map (fun r => r.1)).sum * 2 ^ 32 + (rs.map (fun r => r.2.1)).sum)) ∧
  (∀ (s : State) (c i : Nat) (g : Segment) (x : Index), oldestItem s c = some (i, g) → tabGet s.indexes i = some x →
    ∃ t, exec (.cuffPass c) s = .next t ∧ t.jobs = s.jobs ∧ (∀ a, byteAt t a = byteAt s a) ∧ t.indexes = s.indexes ∧
      HoldingsKept s t ∧
      (∀ k, (∀ p ∈ passUsers s c i g, p.1 ≠ k) → tabGet t.queries k = tabGet s.queries k) ∧
      (∀ k j, ((passUsers s c i g).map Prod.fst).count k = 1 → tabGet s.jobs k = some j →
        tabGet t.queries k = (tabGet s.queries k).map (passFor s x j.entry g)) ∧
      reg t Key.SEARCH_RECORDS_SCANNED = reg (bump s Key.SEARCH_RECORDS_SCANNED (segmentRecords s x.desc g).length)
        Key.SEARCH_RECORDS_SCANNED) ∧
  (∀ (s : State) (c : Nat), oldestItem s c = none → exec (.cuffPass c) s = .next s)

/-- O52. TOPK and MERGE. TOPK selects one row at a time, in ascending order: each row's result of 192 + 16 K bytes
stands at its place, and nothing else in memory changes; the last row ends the command with OK or OK_SHORT, the
count of short rows and ROWS. A row that cannot be read ends it with ECC_UNCORRECTABLE and the row. MERGE reads its
source table, ends at the first source whose header fails a check or that cannot be read, ends with LIST_UNSORTED at
the first entry out of order (counted), and otherwise writes the best K entries of the union, each key once with
DEDUP, with the count of entries that it collapsed. (R239, R240, R243, R244, R245, R246, R247, R248) -/
def Obligations.Selections : Prop :=
  (∀ (s u v : State) (id row short : Nat) (j : Job) (bs : List Nat) (r : List Nat × Nat × Nat),
    runsNow s id Op.TOPK topkSources j = true → row = j.work[0]?.getD 0 → short = j.work[1]?.getD 0 →
    topkRead (acting s j) id j row u bs → r = selectRow j.entry bs →
    prepareWrite u (tkDest j.entry + row * selStride (tkK j.entry)) r.1.length = .ready v →
    (row + 1 < tkRows j.entry → ∃ t, exec (.topk id) s = .next t ∧
      (∃ x, tabGet t.jobs id = some x ∧ x.phase = .running ∧
        x.work = [row + 1, short + if r.2.1 < tkK j.entry then 1 else 0] ∧ x.entry = j.entry ∧ x.ctx = j.ctx) ∧
      bytesAt t (tkDest j.entry + row * selStride (tkK j.entry)) r.1.length = r.1 ∧
      (∀ a, a < tkDest j.entry + row * selStride (tkK j.entry) ∨
        tkDest j.entry + row * selStride (tkK j.entry) + r.1.length ≤ a → byteAt t a = byteAt s a) ∧
      Beside s t id j.ctx ∧ HoldingsKept s t ∧ t.indexes = s.indexes) ∧
    (tkRows j.entry ≤ row + 1 → ∃ t, exec (.topk id) s = .next t ∧
      EndsWith s t id j (tkDest j.entry + row * selStride (tkK j.entry)) r.1
        (if short = 0 ∧ tkK j.entry ≤ r.2.1 then Code.OK else Code.OK_SHORT)
        ((short + if r.2.1 < tkK j.entry then 1 else 0) * 2 ^ 32 + tkRows j.entry) ∧
      reg t Key.SELECT_COMMANDS = reg (bump s Key.SELECT_COMMANDS 1) Key.SELECT_COMMANDS)) ∧
  (∀ (s : State) (id : Nat) (j : Job), runsNow s id Op.TOPK topkSources j = true → tkPocket j.entry = false →
    readBad s (tkSrc j.entry + j.work[0]?.getD 0 * tkStride j.entry) (tkN j.entry * tkWidth j.entry) = true →
    ∃ t, exec (.topk id) s = .next t ∧ EndsOnly s t id j Code.ECC_UNCORRECTABLE (j.work[0]?.getD 0)) ∧
  (∀ (e : Nat) (bs : List Nat), (selectRow e bs).1.length = 192 + 16 * tkK e ∧ (selectRow e bs).2.1 ≤ tkK e ∧
    (selectRow e bs).2.1 + (selectRow e bs).2.2 ≤ tkN e) ∧
  (∀ (s : State) (id : Nat) (j : Job), runsNow s id Op.MERGE mergeSources j = true →
    readBad s (tkSrc j.entry) (16 * mgSources j.entry) = true →
    ∃ t, exec (.merge id) s = .next t ∧ EndsOnly s t id j Code.ECC_UNCORRECTABLE 0) ∧
  (∀ (s : State) (id : Nat) (j : Job) (first : Nat × Nat), runsNow s id Op.MERGE mergeSources j = true →
    readBad s (tkSrc j.entry) (16 * mgSources j.entry) = false →
    j.more = true ∨ (∀ i, i < mgSources j.entry → inWindow (mergeSource s j.entry i) = false) →
    first = (shVfmt (natAt s (mergeSource s j.entry 0) 192), shOrder (natAt s (mergeSource s j.entry 0) 192)) →
    (∀ i, i < mgSources j.entry → sourceCheck s j.entry i first ≠ Code.OK →
      (∀ k, k < i → sourceCheck s j.entry k first = Code.OK) →
      ∃ t, exec (.merge id) s = .next t ∧ EndsOnly s t id j (sourceCheck s j.entry i first)
        (if sourceCheck s j.entry i first = Code.ECC_UNCORRECTABLE then i * 2 ^ 32 else i)) ∧
    ((∀ i, i < mgSources j.entry → sourceCheck s j.entry i first = Code.OK) →
      (∀ i n, i < mgSources j.entry →
        firstUnsorted (first.2 == 1) 0 (sourceEntries s (mergeSource s j.entry i)) = some n →
        (∀ k, k < i → firstUnsorted (first.2 == 1) 0 (sourceEntries s (mergeSource s j.entry k)) = none) →
        ∃ t, exec (.merge id) s = .next t ∧ EndsOnly s t id j Code.LIST_UNSORTED (i * 2 ^ 32 + n) ∧
          reg t Key.ZIPPER_UNSORTED = reg (bump s Key.ZIPPER_UNSORTED 1) Key.ZIPPER_UNSORTED) ∧
      (∀ good kept c r u,
        (∀ i, i < mgSources j.entry → firstUnsorted (first.2 == 1) 0 (sourceEntries s (mergeSource s j.entry i)) = none) →
        good = sortBy (ranksBefore (first.2 == 1)) (((mergeAddrs s j.entry).map (sourceEntries s)).flatten.filter
          (fun x => !x.value.isNan)) →
        kept = (if mgDedup j.entry then collapse good else good) →
        c = mergeCarried s j.entry good kept → r = selResult first.1 (first.2 == 1) (tkK j.entry) kept c →
        prepareWrite (touchRanges (acting s j) (mergeRanges s j.entry)) (tkDest j.entry) r.1.length = .ready u →
        ∃ t, exec (.merge id) s = .next t ∧ EndsWith s t id j (tkDest j.entry) r.1
          (if r.2 = tkK j.entry then Code.OK else Code.OK_SHORT) ((good.length - kept.length) * 2 ^ 32 + r.2) ∧
          reg t Key.ZIPPER_MERGES = reg (bump s Key.ZIPPER_MERGES 1) Key.ZIPPER_MERGES)))

/-- O53. BELT_TABLE_CREATE, BELT_TABLE_REPLACE, BELT_TABLE_DROP and BELT_GATHER. A table is created at version 1 and
replaced by version v + 1 once it holds fewer than BELT.MAX_VERSIONS versions; each of the two commands first checks
its descriptor, and a descriptor that cannot be read, has another version or a bad field ends it and changes
nothing. A drop waits until every version is freed, and then removes the table. A gather waits for its turn, checks
its offset list, and then delivers one output row at a time, to memory or into a Pocket: the row's bytes are the
sums of the rows that its bag resolves to, nothing else changes, and the last row ends the command with the version
and the count of rows. A row whose reads fail ends it with ECC_UNCORRECTABLE and the row's number. (R253, R254,
R255, R256, R258, R259, R260, R261, R262, R264) -/
def Obligations.BeltCommands : Prop :=
  (∀ (s : State) (id d : Nat) (j : Job), runsNow s id Op.BELT_TABLE_CREATE beltSources j = true →
    d = natAt s (blIdx j.entry) 64 →
    (readBad s (blIdx j.entry) 64 = true →
      ∃ t, exec (.beltTableCreate id) s = .next t ∧ EndsOnly s t id j Code.ECC_UNCORRECTABLE 0) ∧
    (readBad s (blIdx j.entry) 64 = false → field d 0 8 ≠ 1 →
      ∃ t, exec (.beltTableCreate id) s = .next t ∧ EndsOnly s t id j Code.VERSION_UNSUPPORTED 0) ∧
    (readBad s (blIdx j.entry) 64 = false → field d 0 8 = 1 →
        btFieldsBad s d = true ∨ tabHas s.belt.tables (blTable j.entry) = true →
      ∃ t, exec (.beltTableCreate id) s = .next t ∧ EndsOnly s t id j Code.BAD_FIELD 0) ∧
    (readBad s (blIdx j.entry) 64 = false → field d 0 8 = 1 → btFieldsBad s d = false →
        tabHas s.belt.tables (blTable j.entry) = false →
      ∃ t, exec (.beltTableCreate id) s = .next t ∧ ends t id Code.OK 1 ∧
        (∀ k, tabGet t.belt.tables k = if k = blTable j.entry then some { versions := [(1, d)], current := some 1 }
          else tabGet s.belt.tables k) ∧ t.belt.hot = s.belt.hot ∧ reg t Key.BELT_TABLES = t.belt.tables.length ∧
        Quiet { s with belt := t.belt } t id j.ctx)) ∧
  (∀ (s : State) (id d v : Nat) (j : Job) (x : BeltTable), runsNow s id Op.BELT_TABLE_REPLACE beltSources j = true →
    d = natAt s (blIdx j.entry) 64 → tabGet s.belt.tables (blTable j.entry) = some x → x.current = some v →
    (readBad s (blIdx j.entry) 64 = true →
      ∃ t, exec (.beltTableReplace id) s = .next t ∧ EndsOnly s t id j Code.ECC_UNCORRECTABLE 0) ∧
    (readBad s (blIdx j.entry) 64 = false → field d 0 8 ≠ 1 →
      ∃ t, exec (.beltTableReplace id) s = .next t ∧ EndsOnly s t id j Code.VERSION_UNSUPPORTED 0) ∧
    (readBad s (blIdx j.entry) 64 = false → field d 0 8 = 1 → btFieldsBad s d = true →
      ∃ t, exec (.beltTableReplace id) s = .next t ∧ EndsOnly s t id j Code.BAD_FIELD 0) ∧
    (readBad s (blIdx j.entry) 64 = false → field d 0 8 = 1 → btFieldsBad s d = false →
      (reg s Key.BELT_MAX_VERSIONS ≤ x.versions.length →
        ∃ t, exec (.beltTableReplace id) s = .next t ∧ Quiet s t id j.ctx ∧ t.jobs = s.jobs) ∧
      (x.versions.length < reg s Key.BELT_MAX_VERSIONS →
        ∃ t, exec (.beltTableReplace id) s = .next t ∧ ends t id Code.OK (v + 1) ∧
          (∀ k, tabGet t.belt.tables k = if k = blTable j.entry then
              some { x with versions := tabSet x.versions (v + 1) d, current := some (v + 1) }
            else tabGet s.belt.tables k) ∧ t.belt.hot = s.belt.hot ∧ Quiet { s with belt := t.belt } t id j.ctx))) ∧
  (∀ (s : State) (id : Nat) (j : Job), runsNow s id Op.BELT_TABLE_DROP noSources j = true →
    ((∀ x, tabGet s.belt.tables (blTable j.entry) = some x → x.dropping ≠ some id) →
      ∃ t, exec (.beltTableDrop id) s = .next t ∧ EndsOnly s t id j Code.OK_NOOP 0) ∧
    (∀ x, tabGet s.belt.tables (blTable j.entry) = some x → x.dropping = some id →
      (x.versions ≠ [] → s.perf.actor = none → exec (.beltTableDrop id) s = .next s) ∧
      (x.versions = [] → ∃ t, exec (.beltTableDrop id) s = .next t ∧ ends t id Code.OK 0 ∧
        (∀ k, tabGet t.belt.tables k = if k = blTable j.entry then none else tabGet s.belt.tables k) ∧
        t.belt.hot = s.belt.hot ∧ reg t Key.BELT_TABLES = t.belt.tables.length ∧
        Quiet { s with belt := t.belt } t id j.ctx))) ∧
  (∀ (s : State) (id d : Nat) (j : Job) (x : BeltTable), runsNow s id Op.BELT_GATHER beltGatherSources j = true →
    tabGet s.belt.tables (blTable j.entry) = some x → tabGet x.versions j.pin = some d → j.work = [] →
    (gatherMayStart s id j = false → s.perf.actor = none → exec (.beltGather id) s = .next s) ∧
    (gatherMayStart s id j = true →
      (gatherOffsets j.entry = true → readBad s (blOffs j.entry) (4 * (blBags j.entry + 1)) = true →
        ∃ t, exec (.beltGather id) s = .next t ∧ EndsOnly s t id j Code.ECC_UNCORRECTABLE 0) ∧
      (∀ p, gatherOffsets j.entry = true → readBad s (blOffs j.entry) (4 * (blBags j.entry + 1)) = false →
        firstBadOffset s j.entry = some p →
        ∃ t, exec (.beltGather id) s = .next t ∧ EndsOnly s t id j Code.BAD_FIELD p) ∧
      (gatherOffsets j.entry = false ∨ (readBad s (blOffs j.entry) (4 * (blBags j.entry + 1)) = false ∧
          firstBadOffset s j.entry = none) →
        ∃ t, exec (.beltGather id) s = .next t ∧
          tabGet t.jobs id = some { j with phase := .running, work := [1, 0, inForce s Key.BELT_HOT_CACHE_ENABLE] } ∧
          Quiet s t id j.ctx))) ∧
  (∀ (s : State) (id m row cache d : Nat) (j : Job) (x : BeltTable),
    runsNow s id Op.BELT_GATHER beltGatherSources j = true →
    tabGet s.belt.tables (blTable j.entry) = some x → tabGet x.versions j.pin = some d → j.work = [m, row, cache] →
    ((∃ r ∈ gatherReads s j.entry d row, readBad s r.1 r.2 = true) →
      ∃ t, exec (.beltGather id) s = .next t ∧ EndsOnly s t id j Code.ECC_UNCORRECTABLE row) ∧
    (∀ u, (∀ r ∈ gatherReads s j.entry d row, readBad s r.1 r.2 = false) → blPocket j.entry = false →
      prepareWrite (acting s j) (gatherPlace j.entry d row) (gatherBytes s j.entry d row).length = .ready u →
      ∃ t, exec (.beltGather id) s = .next t ∧ t.belt.tables = s.belt.tables ∧ (cache ≠ 1 → t.belt = s.belt) ∧
        (row + 1 < blOutRows j.entry →
          tabGet t.jobs id = some { j with work := [1, row + 1, cache] } ∧
          bytesAt t (gatherPlace j.entry d row) (gatherBytes s j.entry d row).length = gatherBytes s j.entry d row ∧
          (∀ a, a < gatherPlace j.entry d row ∨
            gatherPlace j.entry d row + (gatherBytes s j.entry d row).length ≤ a → byteAt t a = byteAt s a) ∧
          Beside s t id j.ctx ∧ HoldingsKept { s with belt := t.belt } t ∧ t.indexes = s.indexes) ∧
        (blOutRows j.entry ≤ row + 1 →
          EndsWith { s with belt := t.belt } t id j (gatherPlace j.entry d row) (gatherBytes s j.entry d row) Code.OK
            (j.pin * 2 ^ 32 + blOutRows j.entry) ∧
          reg t Key.BELT_GATHERS = reg (bump s Key.BELT_GATHERS 1) Key.BELT_GATHERS)) ∧
    (∀ b, (∀ r ∈ gatherReads s j.entry d row, readBad s r.1 r.2 = false) → blPocket j.entry = true →
      physBlock (ctxOf s j.ctx) (blLb j.entry) = some b →
      claimable (ctxOf s j.ctx) [] (deliverySlots s j.ctx (blLb j.entry) (gatherPlace j.entry d row)
        (gatherBytes s j.entry d row).length) = true →
      ∃ t, exec (.beltGather id) s = .next t ∧ t.belt.tables = s.belt.tables ∧ (cache ≠ 1 → t.belt = s.belt) ∧
        pocketRead t b 0 (gatherPlace j.entry d row) (gatherBytes s j.entry d row).length = gatherBytes s j.entry d row ∧
        (∀ k, k < pocketAddr b 0 (gatherPlace j.entry d row) ∨
          pocketAddr b 0 (gatherPlace j.entry d row) + (gatherBytes s j.entry d row).length ≤ k →
          memByte t.pocket k = memByte s.pocket k) ∧
        Quiet { s with belt := t.belt, pocket := t.pocket } t id j.ctx ∧
        (row + 1 < blOutRows j.entry →
          tabGet t.jobs id = some { j with stalled := [], work := [1, row + 1, cache] }) ∧
        (blOutRows j.entry ≤ row + 1 → ends t id Code.OK (j.pin * 2 ^ 32 + blOutRows j.entry) ∧
          reg t Key.BELT_GATHERS = reg (bump s Key.BELT_GATHERS 1) Key.BELT_GATHERS)))

/-- O54. CROSS_RERANK and PACK. CROSS_RERANK checks its descriptor, candidate header, ranges and epoch, and pins that
epoch. It then runs its model on one batch of pairs after another: it writes the batch's input rows to its Pockets
and starts a run, waits while the run goes on, and takes the BATCH scores of the run's output row; after the last
batch it writes the best K_OUT candidates by combined score. PACK checks its template, candidate header and epoch,
pins the epoch, and writes the prompt, the record and the sketches, here or, with REMOTE, to its peer; it then
writes the mailbox header last, with the counter of prompts, and ends with OK or OK_TRUNCATED, the prompt's length
and the passages packed. (R268, R269, R270, R271, R272, R273, R274, R277, R278, R279, R280, R281) -/
def Obligations.RankCommands : Prop :=
  (∀ (s : State) (id d h : Nat) (j : Job) (x : Index), runsNow s id Op.CROSS_RERANK crossRerankSources j = true →
    tabGet s.indexes (xrIndex j.entry) = some x → j.work = [] → readBad s (xrSrc j.entry) 64 = false →
    readBad s (xrCand j.entry) 64 = false → j.more = true ∨ inWindow (xrCand j.entry) = false →
    d = natAt s (xrSrc j.entry) 64 → h = natAt s (xrCand j.entry) 64 →
    (field d 0 8 ≠ 1 ∨ field h 0 8 ≠ 1 →
      ∃ t, exec (.crossRerank id) s = .next t ∧ EndsOnly s t id j Code.VERSION_UNSUPPORTED 0) ∧
    (field d 0 8 = 1 → field h 0 8 = 1 →
        rangeOk s (xrCand j.entry) (candidateBytes s (xrCand j.entry)) = false ∨ xrDescBad s j.ctx id d = true ∨
        (∃ r ∈ xrInputs s j.entry, bytesMeet r.1 r.2 (xrDest j.entry) (64 + 16 * xrKout j.entry) = true) ∨
        (shResCount h < xrKout j.entry ∧ shResCount h ≠ 0) →
      ∃ t, exec (.crossRerank id) s = .next t ∧ EndsOnly s t id j Code.BAD_FIELD 0) ∧
    (field d 0 8 = 1 → field h 0 8 = 1 → rangeOk s (xrCand j.entry) (candidateBytes s (xrCand j.entry)) = true →
        xrDescBad s j.ctx id d = false →
        (∀ r ∈ xrInputs s j.entry, bytesMeet r.1 r.2 (xrDest j.entry) (64 + 16 * xrKout j.entry) = false) →
      (shResCount h = 0 → ∃ t, exec (.crossRerank id) s = .next t ∧ EndsOnly s t id j Code.OK_NOOP 0) ∧
      (shResCount h ≠ 0 → xrKout j.entry ≤ shResCount h →
        (x.current < shResEpoch h → ∃ t, exec (.crossRerank id) s = .next t ∧ EndsOnly s t id j Code.BAD_FIELD 0) ∧
        (shResEpoch h ≤ x.current → shResEpoch h < oldestOf s x →
          ∃ t, exec (.crossRerank id) s = .next t ∧ EndsOnly s t id j Code.EPOCH_RETIRED 0) ∧
        (shResEpoch h ≤ x.current → oldestOf s x ≤ shResEpoch h →
          (∀ r ∈ xrInputs s j.entry, readBad s r.1 r.2 = false) →
          textsBad s x ((xrScored s x { j with pin := shResEpoch h }).map (fun c => c.passage)) = false →
          ∃ t, exec (.crossRerank id) s = .next t ∧ pinned s t (xrIndex j.entry) id (shResEpoch h) x ∧
            tabGet t.jobs id = some { j with pin := shResEpoch h, phase := .running, work := [1] } ∧
            Quiet { s with indexes := t.indexes } t id j.ctx)))) ∧
  (∀ (s : State) (id d emb : Nat) (j : Job) (x : Index) (m : Model) (scores : List Nat),
    runsNow s id Op.CROSS_RERANK crossRerankSources j = true → tabGet s.indexes (xrIndex j.entry) = some x →
    j.work = 1 :: scores → d = natAt s (xrSrc j.entry) 64 → scores.length < (xrScored s x j).length →
    pinnedDesc s (xdEmb d) id = some emb → tabGet s.models (xdModel d) = some m →
    ((∃ r ∈ xrBatchReads s x j d emb scores.length m, readBad s r.1 r.2 = true) →
      ∃ t, exec (.crossRerank id) s = .next t ∧ EndsOnly s t id j Code.ECC_UNCORRECTABLE 0) ∧
    (∀ ws, (∀ r ∈ xrBatchReads s x j d emb scores.length m, readBad s r.1 r.2 = false) →
      runMayStart s id j.ctx (some (xdModel d)) = true →
      ws = xrWrites s d emb (xrBatch s x j d (scores.length / xdBatch d)) →
      claimable (ctxOf s j.ctx) [] (writesSlots (ctxOf s j.ctx) ws) = true →
      ∃ t r, exec (.crossRerank id) s = .next t ∧
        tabGet t.jobs id = some { j with stalled := [], work := 2 :: scores } ∧
        tabGet t.array.runs id = some r ∧ r.ctx = j.ctx ∧ r.model = some (xdModel d) ∧ r.ended = false ∧
        r.streams.length = imVblocks (imageHead s m.addr) ∧ (∀ k, k ≠ id → tabGet t.array.runs k = tabGet s.array.runs k) ∧
        t.pocket = xrPockets s j.ctx ws ∧ t.belt.tables = s.belt.tables ∧
        Quiet { s with belt := t.belt, pocket := t.pocket } t id j.ctx)) ∧
  (∀ (s : State) (id d : Nat) (j : Job) (x : Index) (r : Run) (scores : List Nat),
    runsNow s id Op.CROSS_RERANK crossRerankSources j = true → tabGet s.indexes (xrIndex j.entry) = some x →
    j.work = 2 :: scores → d = natAt s (xrSrc j.entry) 64 → tabGet s.array.runs id = some r →
    (∃ st ∈ r.streams, st.count ≠ 0) →
    (r.ended = false → s.perf.actor = none → exec (.crossRerank id) s = .next s) ∧
    (r.ended = true → claimable (ctxOf s j.ctx) (slotsOf (ctxOf s j.ctx) 0 (xdOutRow d) 1) [] = true →
      ∃ t, exec (.crossRerank id) s = .next t ∧
        tabGet t.jobs id = some { j with stalled := [], work := 1 :: (scores ++ (List.range (xdBatch d)).map (fun i =>
          ofLeBytes (lbRead s (ctxOf s j.ctx) 0 (xdOutRow d) (4 * i) 4))) } ∧
        tabGet t.array.runs id = none ∧ (∀ k, k ≠ id → tabGet t.array.runs k = tabGet s.array.runs k) ∧
        Quiet s t id j.ctx)) ∧
  (∀ (s : State) (id d : Nat) (j : Job) (x : Index) (scores : List Nat) (cs : List Candidate),
    runsNow s id Op.CROSS_RERANK crossRerankSources j = true → tabGet s.indexes (xrIndex j.entry) = some x →
    j.work = 1 :: scores → d = natAt s (xrSrc j.entry) 64 → cs = xrScored s x j → cs.length ≤ scores.length →
    ((∃ r ∈ xrEndReads s id d cs, readBad s r.1 r.2 = true) →
      ∃ t, exec (.crossRerank id) s = .next t ∧ EndsOnly s t id j Code.ECC_UNCORRECTABLE 0) ∧
    (∀ u bs best, (∀ r ∈ xrEndReads s id d cs, readBad s r.1 r.2 = false) →
      bs = xrBytes s id j d cs (scores.take cs.length) →
      best = xrBest s id d (xrKout j.entry) cs (scores.take cs.length) →
      prepareWrite (acting s j) (xrDest j.entry) bs.length = .ready u →
      ∃ t, exec (.crossRerank id) s = .next t ∧ t.belt.tables = s.belt.tables ∧
        EndsWith { s with belt := t.belt } t id j (xrDest j.entry) bs
          (if best.length = xrKout j.entry then Code.OK else Code.OK_SHORT) (cs.length * 2 ^ 16 + best.length) ∧
        reg t Key.XRANK_COMMANDS = reg (bump s Key.XRANK_COMMANDS 1) Key.XRANK_COMMANDS)) ∧
  (∀ (s : State) (id h : Nat) (j : Job) (x : Index), runsNow s id Op.PACK packSources j = true →
    tabGet s.indexes (pcIndex j.entry) = some x → PackReads s j → h = natAt s (pcCand j.entry) 64 →
    (∀ st r, packTemplate s j.entry = .inl (st, r) → ∃ t, exec (.pack id) s = .next t ∧ EndsOnly s t id j st r) ∧
    (∀ l pre post, packTemplate s j.entry = .inr (l, pre, post) →
      (field h 0 8 ≠ 1 → ∃ t, exec (.pack id) s = .next t ∧ EndsOnly s t id j Code.VERSION_UNSUPPORTED 0) ∧
      (field h 0 8 = 1 → packRangesOk s j.entry = false →
        ∃ t, exec (.pack id) s = .next t ∧ EndsOnly s t id j Code.BAD_FIELD 0) ∧
      (field h 0 8 = 1 → packRangesOk s j.entry = true → tabGet (openPins s x) id = none →
        (x.current < shResEpoch h → ∃ t, exec (.pack id) s = .next t ∧ EndsOnly s t id j Code.BAD_FIELD 0) ∧
        (shResEpoch h ≤ x.current → shResEpoch h < oldestOf s x →
          ∃ t, exec (.pack id) s = .next t ∧ EndsOnly s t id j Code.EPOCH_RETIRED 0)) ∧
      (∀ p ws u, field h 0 8 = 1 → packRangesOk s j.entry = true → tabGet (openPins s x) id = none → j.work = [] →
        shResEpoch h ≤ x.current → oldestOf s x ≤ shResEpoch h → textsBad s x (packSeen s x j.entry) = false →
        pcRemote j.entry = false → p = packAll s x j.entry (shResEpoch h) l pre post → ws = packWrites j.entry p →
        (∀ w ∈ ws, inWindow w.1 = true → (packRead s id j x (shResEpoch h)).aedup.link.state = .active) →
        prepareWrites (packRead s id j x (shResEpoch h)) (ws.filter (fun w => !inWindow w.1)) = .ready u →
        ∃ t, exec (.pack id) s = .next t ∧ pinned s t (pcIndex j.entry) id (shResEpoch h) x ∧
          tabGet t.jobs id = some { j with pin := shResEpoch h, phase := .running, work := [1] } ∧
          (∀ a, byteAt t a = byteAt (writeAll s ws) a) ∧ Beside s t id j.ctx ∧ HoldingsKept s t) ∧
      (∀ p ws k q u, field h 0 8 = 1 → packRangesOk s j.entry = true → tabGet (openPins s x) id = none → j.work = [] →
        shResEpoch h ≤ x.current → oldestOf s x ≤ shResEpoch h → textsBad s x (packSeen s x j.entry) = false →
        pcRemote j.entry = true → boundJob s j.ctx = some k → flowRoute s k (pcPeer j.entry) = some q →
        p = packAll s x j.entry (shResEpoch h) l pre post → ws = packWrites j.entry p →
        (∀ w ∈ ws, inWindow w.1 = true → (packRead s id j x (shResEpoch h)).aedup.link.state = .active) →
        prepareWrites (packRead s id j x (shResEpoch h)) (ws.filter (fun w => !inWindow w.1)) = .ready u →
        ∃ t, exec (.pack id) s = .next t ∧ pinned s t (pcIndex j.entry) id (shResEpoch h) x ∧
          tabGet t.jobs id = some { j with
            pin := shResEpoch h, phase := .running, work := [1], reads := j.reads + ceilDiv (4 * p.prompt.length) 128 } ∧
          (∀ a, byteAt t a = byteAt (writeAll s ws) a) ∧ Beside s t id j.ctx ∧ HoldingsKept s t) ∧
      (∀ p u bs, field h 0 8 = 1 → packRangesOk s j.entry = true → tabGet (openPins s x) id ≠ none → j.work = [1] →
        textsBad s x (packSeen s x j.entry) = false → pcRemote j.entry = false →
        p = packAll s x j.entry (shResEpoch h) l pre post →
        bs = leBytes 64 (mailboxHeader s { j with pin := shResEpoch h } ((reg s Key.PACK_PACKS + 1) % 2 ^ 64) p) →
        prepareWrite (acting s j) (pcDest j.entry) 64 = .ready u →
        ∃ t, exec (.pack id) s = .next t ∧
          EndsWith s t id j (pcDest j.entry) bs (packStatus p) (p.packing.kept.length * 2 ^ 32 + p.prompt.length) ∧
          reg t Key.PACK_PACKS = reg (bump s Key.PACK_PACKS 1) Key.PACK_PACKS) ∧
      (∀ p k q, field h 0 8 = 1 → packRangesOk s j.entry = true → tabGet (openPins s x) id ≠ none → j.work = [1] →
        textsBad s x (packSeen s x j.entry) = false → pcRemote j.entry = true → boundJob s j.ctx = some k →
        flowRoute s k (pcPeer j.entry) = some q → p = packAll s x j.entry (shResEpoch h) l pre post →
        ∃ t, exec (.pack id) s = .next t ∧ tabGet t.jobs id = some { j with reads := j.reads + 1, work := [2] } ∧
          Out.message (firstPort q) msgRmtWr (pcPeer j.entry) s.pelgan.nextTag (ofLeBytes (leBytes 64
            (mailboxHeader s { j with pin := shResEpoch h } ((reg s Key.PACK_PACKS + 1) % 2 ^ 64) p))) ∈ t.out ∧
          Quiet s t id j.ctx) ∧
      (∀ p, field h 0 8 = 1 → packRangesOk s j.entry = true → tabGet (openPins s x) id ≠ none → j.work = [2] →
        textsBad s x (packSeen s x j.entry) = false → p = packAll s x j.entry (shResEpoch h) l pre post →
        ∃ t, exec (.pack id) s = .next t ∧
          EndsOnly s t id j (packStatus p) (p.packing.kept.length * 2 ^ 32 + p.prompt.length))))

/-- O55. SAMPLER_SEED, KV_RELEASE, RAND_FILL, VEIL_LOAD, VEIL_UNLOAD, mask fetches and GEN_RUN. SAMPLER_SEED writes SEED
in GEN_STATE. KV_RELEASE waits for its turn and cuts LEN and DRAFT_KV_LEN to KEEP, and pages beyond it are gone.
RAND_FILL writes outputs of the generator in parts, to memory or into a Pocket. VEIL_LOAD makes a grammar resident
after its checks, each failing with its own status and the first bad state; VEIL_UNLOAD waits for the requests that
pinned it. A mask fetched for a state of the step counts, and one that cannot be read ends the request with
ECC_UNCORRECTABLE. GEN_RUN waits for its turn and, at its start, reads and checks its descriptor and then waits for
its mailbox or begins prefill with its prompt; it then starts one run of the model on each chunk of positions, waits
while the run goes on, and takes the logits of the run's wanted positions, which moves it to the next chunk, the
first step or the verification. (A request's draws and its end are O24's.) (R289, R290, R291, R292, R293, R301,
R306, R318, R319, R320, R321, R323) -/
def Obligations.GenerationCommands : Prop :=
  (∀ (s : State) (id : Nat) (j : Job), runsNow s id Op.SAMPLER_SEED noSources j = true →
    ∃ t, exec (.samplerSeed id) s = .next t ∧ ends t id Code.OK 0 ∧ Quiet s t id j.ctx ∧
      (ctxOf t j.ctx).genState = setField (ctxOf s j.ctx).genState 192 64 (smSeed j.entry)) ∧
  (∀ (s : State) (id : Nat) (j : Job), runsNow s id Op.KV_RELEASE noSources j = true →
    (genTurn s id j.ctx = false → s.perf.actor = none → exec (.kvRelease id) s = .next s) ∧
    (genTurn s id j.ctx = true → gsLen (ctxOf s j.ctx) ≤ grKeep j.entry →
      ∃ t, exec (.kvRelease id) s = .next t ∧ EndsOnly s t id j Code.OK_NOOP 0) ∧
    (genTurn s id j.ctx = true → grKeep j.entry < gsLen (ctxOf s j.ctx) →
      ∃ t, exec (.kvRelease id) s = .next t ∧ ends t id Code.OK (gsLen (ctxOf s j.ctx) - grKeep j.entry) ∧
        gsLen (ctxOf t j.ctx) = grKeep j.entry ∧
        gsDraftLen (ctxOf t j.ctx) = Nat.min (gsDraftLen (ctxOf s j.ctx)) (grKeep j.entry) ∧
        (∀ p, tabGet t.kv p = (tabGet s.kv p).map (fun k => { k with gone := k.gone || cutOff s j.ctx (grKeep j.entry) k })) ∧
        Quiet { s with kv := t.kv } t id j.ctx)) ∧
  (∀ (s : State) (id : Nat) (j : Job), runsNow s id Op.RAND_FILL noSources j = true →
    (∀ u, smPocket j.entry = false → prepareWrite (acting s j) (fillPlace j) (fillBytes s j).length = .ready u →
      ∃ t, exec (.randFill id) s = .next t ∧
        (j.work.headD 0 + fillCount j < smCount j.entry →
          tabGet t.jobs id = some { j with phase := .running, work := [j.work.headD 0 + fillCount j] } ∧
          bytesAt t (fillPlace j) (fillBytes s j).length = fillBytes s j ∧
          (∀ a, a < fillPlace j ∨ fillPlace j + (fillBytes s j).length ≤ a → byteAt t a = byteAt s a) ∧
          Beside s t id j.ctx ∧ HoldingsKept s t ∧ t.indexes = s.indexes) ∧
        (smCount j.entry ≤ j.work.headD 0 + fillCount j →
          EndsWith s t id j (fillPlace j) (fillBytes s j) Code.OK (smCount j.entry))) ∧
    (∀ b, smPocket j.entry = true → physBlock (ctxOf s j.ctx) (smLb j.entry) = some b →
      claimable (ctxOf s j.ctx) [] (deliverySlots s j.ctx (smLb j.entry) (fillPlace j) (fillBytes s j).length) = true →
      ∃ t, exec (.randFill id) s = .next t ∧
        pocketRead t b 0 (fillPlace j) (fillBytes s j).length = fillBytes s j ∧
        (∀ k, k < pocketAddr b 0 (fillPlace j) ∨ pocketAddr b 0 (fillPlace j) + (fillBytes s j).length ≤ k →
          memByte t.pocket k = memByte s.pocket k) ∧
        Quiet { s with pocket := t.pocket } t id j.ctx ∧
        (j.work.headD 0 + fillCount j < smCount j.entry →
          tabGet t.jobs id = some { j with stalled := [], phase := .running, work := [j.work.headD 0 + fillCount j] }) ∧
        (smCount j.entry ≤ j.work.headD 0 + fillCount j → ends t id Code.OK (smCount j.entry)))) ∧
  (∀ (s : State) (id : Nat) (j : Job), runsNow s id Op.VEIL_LOAD noSources j = true →
    (reg s Key.VEIL_MAX_GRAMMARS ≤ smGrammar j.entry ∨ tabHas s.grammars (smGrammar j.entry) = true ∨
        smDest j.entry % 4096 ≠ 0 ∨ inHbm s (smDest j.entry) 64 = false →
      ∃ t, exec (.veilLoad id) s = .next t ∧ EndsOnly s t id j Code.BAD_FIELD headerFault) ∧
    (smGrammar j.entry < reg s Key.VEIL_MAX_GRAMMARS → tabHas s.grammars (smGrammar j.entry) = false →
        smDest j.entry % 4096 = 0 → inHbm s (smDest j.entry) 64 = true →
      (readBad s (smDest j.entry) 64 = true →
        ∃ t, exec (.veilLoad id) s = .next t ∧ EndsOnly s t id j Code.ECC_UNCORRECTABLE 0) ∧
      (readBad s (smDest j.entry) 64 = false → field (gmHead s (smDest j.entry)) 0 8 ≠ 1 →
        ∃ t, exec (.veilLoad id) s = .next t ∧ EndsOnly s t id j Code.VERSION_UNSUPPORTED 0) ∧
      (readBad s (smDest j.entry) 64 = false → field (gmHead s (smDest j.entry)) 0 8 = 1 →
          grammarHeadBad s (smDest j.entry) = true →
        ∃ t, exec (.veilLoad id) s = .next t ∧ EndsOnly s t id j Code.BAD_FIELD headerFault) ∧
      (readBad s (smDest j.entry) 64 = false → field (gmHead s (smDest j.entry)) 0 8 = 1 →
          grammarHeadBad s (smDest j.entry) = false →
          readBad s (smDest j.entry) (gmBytes (gmHead s (smDest j.entry))) = true →
        ∃ t, exec (.veilLoad id) s = .next t ∧ EndsOnly s t id j Code.ECC_UNCORRECTABLE 0) ∧
      (readBad s (smDest j.entry) 64 = false → field (gmHead s (smDest j.entry)) 0 8 = 1 →
          grammarHeadBad s (smDest j.entry) = false →
          readBad s (smDest j.entry) (gmBytes (gmHead s (smDest j.entry))) = false →
        (∀ st, st < gmStates (gmHead s (smDest j.entry)) → stateBad s (smDest j.entry) st = true →
          (∀ k, k < st → stateBad s (smDest j.entry) k = false) →
          ∃ t, exec (.veilLoad id) s = .next t ∧ EndsOnly s t id j Code.BAD_FIELD st) ∧
        ((∀ st, st < gmStates (gmHead s (smDest j.entry)) → stateBad s (smDest j.entry) st = false) →
          ∃ t, exec (.veilLoad id) s = .next t ∧ ends t id Code.OK (gmStates (gmHead s (smDest j.entry))) ∧
            (∀ g, tabGet t.grammars g =
              if g = smGrammar j.entry then some { addr := smDest j.entry } else tabGet s.grammars g) ∧
            reg t Key.VEIL_RESIDENT_MAP = (tabKeys t.grammars).foldl (fun m g => m + 2 ^ g) 0 ∧
            Quiet { s with grammars := t.grammars } t id j.ctx)))) ∧
  (∀ (s : State) (id : Nat) (j : Job), runsNow s id Op.VEIL_UNLOAD noSources j = true →
    ((∀ x, tabGet s.grammars (smGrammar j.entry) = some x → x.closing ≠ some id) →
      ∃ t, exec (.veilUnload id) s = .next t ∧ EndsOnly s t id j Code.OK_NOOP 0) ∧
    (∀ x, tabGet s.grammars (smGrammar j.entry) = some x → x.closing = some id →
      ((∃ k ∈ x.pins, isOpen s k = true) → s.perf.actor = none → exec (.veilUnload id) s = .next s) ∧
      ((∀ k ∈ x.pins, isOpen s k = false) →
        ∃ t, exec (.veilUnload id) s = .next t ∧ ends t id Code.OK 0 ∧
          (∀ g, tabGet t.grammars g = if g = smGrammar j.entry then none else tabGet s.grammars g) ∧
          reg t Key.VEIL_RESIDENT_MAP = (tabKeys t.grammars).foldl (fun m g => m + 2 ^ g) 0 ∧
          Quiet { s with grammars := t.grammars } t id j.ctx))) ∧
  (∀ (s : State) (id st a : Nat) (cached : Bool) (g : GenReq), tabGet s.gens id = some g → genGrammar s g = some a →
    running s = true → isOpen s id = true → inStep g = true → st ∈ genStates s g → st ∉ g.masks →
    ((∃ r ∈ stateReads s a st, readBad s r.1 r.2 = true) → ∃ t, exec (.veilMaskFetchDone id st cached) s = .next t ∧
      ends t id Code.ECC_UNCORRECTABLE 0 ∧ OnlyOutcome s t) ∧
    ((∀ r ∈ stateReads s a st, readBad s r.1 r.2 = false) → ∃ t, exec (.veilMaskFetchDone id st cached) s = .next t ∧
      (∀ k, tabGet t.gens k = if k = id then some { g with masks := st :: g.masks } else tabGet s.gens k) ∧
      t.jobs = s.jobs ∧ Quiet { s with gens := t.gens } t id g.ctx ∧
      reg t Key.VEIL_MASKS_FETCHED = reg (bump s Key.VEIL_MASKS_FETCHED 1) Key.VEIL_MASKS_FETCHED ∧
      reg t Key.VEIL_CACHE_HITS = if cached then reg (bump s Key.VEIL_CACHE_HITS 1) Key.VEIL_CACHE_HITS
        else reg s Key.VEIL_CACHE_HITS)) ∧
  (∀ (s : State) (id st : Nat) (cached : Bool),
    (∀ g, tabGet s.gens id = some g → genGrammar s g = none ∨ running s = false ∨ isOpen s id = false ∨ inStep g = false ∨
      st ∉ genStates s g ∨ st ∈ g.masks) → exec (.veilMaskFetchDone id st cached) s = .next s) ∧
  (∀ (s : State) (id : Nat) (j : Job), runsNow s id Op.GEN_RUN genRunSources j = true →
    (genTurn s id j.ctx = false → s.perf.actor = none → exec (.genRun id) s = .next s) ∧
    (genTurn s id j.ctx = true → tabGet s.gens id = none →
      (readBad s (grSrc j.entry) 128 = true →
        ∃ t, exec (.genRun id) s = .next t ∧ EndsOnly s t id j Code.ECC_UNCORRECTABLE 0) ∧
      (readBad s (grSrc j.entry) 128 = false → field (natAt s (grSrc j.entry) 128) 0 8 ≠ 1 →
        ∃ t, exec (.genRun id) s = .next t ∧ EndsOnly s t id j Code.VERSION_UNSUPPORTED 0) ∧
      (∀ d b m f, GenReads s j d b m f →
        (genBad (genRead s j) id j d b m f = true → ∃ t, exec (.genRun id) s = .next t ∧ ends t id Code.BAD_FIELD 0 ∧
          ((ctxOf s j.ctx).state ≠ .free → field (ctxOf t j.ctx).genState 264 8 = endFailed ∧
            (rdKeepKv d = false → gsLen (ctxOf t j.ctx) = 0)) ∧
          Quiet { s with kv := t.kv } t id j.ctx) ∧
        (genBad (genRead s j) id j d b m f = false → rdMaxNew d = 0 →
          ∃ t, exec (.genRun id) s = .next t ∧ ends t id Code.OK_NOOP 0 ∧ Quiet { s with kv := t.kv } t id j.ctx) ∧
        (genBad (genRead s j) id j d b m f = false → rdMaxNew d ≠ 0 → rdMailbox d = true → inWindow (rdPrompt d) = false →
          readBad (genRead s j) (rdPrompt d) 64 = false → (field (natAt s (rdPrompt d) 64) 448 64 = 0 ∨
            field (natAt s (rdPrompt d) 64) 448 64 = rdSeqSeen d) →
          ∃ t, exec (.genRun id) s = .next t ∧
            tabGet t.jobs id = some { j with phase := .running, work := [mailboxWait], more := false } ∧
            (∀ k, tabGet t.gens k = if k = id then some (genOpen s j.ctx d b m f [] .waiting) else tabGet s.gens k) ∧
            Quiet { s with gens := t.gens } t id j.ctx) ∧
        (genBad (genRead s j) id j d b m f = false → rdMaxNew d ≠ 0 → rdMailbox d = false →
          readBad (genRead s j) (rdPrompt d) (4 * rdPromptLen d) = false →
          ((∃ x ∈ genPrompt s d, miVocab m ≤ x) →
            ∃ t, exec (.genRun id) s = .next t ∧ ends t id Code.TOKEN_INVALID 0 ∧
              Quiet { s with gens := t.gens } t id j.ctx) ∧
          ((∀ x ∈ genPrompt s d, x < miVocab m) → rdPromptLen d ≠ 0 →
            ∃ t g, exec (.genRun id) s = .next t ∧
              tabGet t.jobs id = some { j with phase := .running, work := [2] } ∧
              tabGet t.gens id = some g ∧ g.ctx = j.ctx ∧ g.desc = d ∧ g.block = b ∧ g.main = m ∧ g.draftIf = f ∧
              g.prompt = genPrompt s d ∧ g.stage = .prefill false 0 ∧ g.kept = [] ∧
              g.first = (if rdAppend d then gsLen (ctxOf s j.ctx) else 0) ∧
              (∀ k, k ≠ id → tabGet t.gens k = tabGet s.gens k) ∧
              Quiet { s with gens := t.gens, kv := t.kv } t id j.ctx))))) ∧
  (∀ (s : State) (id y emb start : Nat) (draft : Bool) (from_ : Option Nat) (j : Job) (g : GenReq) (m : Model)
    (toks : List Nat) (ws : List (Nat × Nat × Nat × List Nat)),
    runsNow s id Op.GEN_RUN genRunSources j = true → genTurn s id j.ctx = true → tabGet s.gens id = some g →
    g.ctx = j.ctx → g.outbox = [] → g.run = none → genNext g = some (draft, start, toks, from_) →
    y = (if draft then g.draftIf else g.main) → pinnedDesc s (miEmb y) id = some emb →
    tabGet s.models (miModel y) = some m →
    ((∃ t ∈ toks, ∃ r ∈ rowReads s emb t, readBad s r.1 r.2 = true) ∨ readBad s m.addr m.size = true →
      ∃ t, exec (.genRun id) s = .next t ∧ EndsOnly s t id j Code.ECC_UNCORRECTABLE 0) ∧
    ((∀ t ∈ toks, ∀ r ∈ rowReads s emb t, readBad s r.1 r.2 = false) → readBad s m.addr m.size = false →
      (runMayStart s id j.ctx (some (miModel y)) = false → s.perf.actor = none → exec (.genRun id) s = .next s) ∧
      (runMayStart s id j.ctx (some (miModel y)) = true → ws = genRunWrites s y emb start toks from_ →
        claimable (ctxOf s j.ctx) [] (writesSlots (ctxOf s j.ctx) ws) = true →
        ∃ t r, exec (.genRun id) s = .next t ∧ tabGet t.jobs id = some { j with stalled := [] } ∧
          tabGet t.array.runs id = some r ∧ r.ctx = j.ctx ∧ r.model = some (miModel y) ∧ r.ended = false ∧
          r.streams.length = imVblocks (imageHead s m.addr) ∧
          (∀ k, k ≠ id → tabGet t.array.runs k = tabGet s.array.runs k) ∧
          (∀ k, tabGet t.gens k = if k = id then some { g with run := some ⟨draft, start, toks.length, from_,
              List.replicate (miKvBlocks y) 0, List.replicate (miKvBlocks y) 0⟩ } else tabGet s.gens k) ∧
          t.pocket = xrPockets s j.ctx ws ∧ t.belt.tables = s.belt.tables ∧
          Quiet { s with belt := t.belt, pocket := t.pocket, gens := t.gens } t id j.ctx))) ∧
  (∀ (s : State) (id n : Nat) (j : Job) (g : GenReq) (r : GenRun) (a : Run) (ls : List (List Nat)),
    runsNow s id Op.GEN_RUN genRunSources j = true → genTurn s id j.ctx = true → tabGet s.gens id = some g →
    g.ctx = j.ctx → g.outbox = [] → g.run = some r → moverDone (runIf g r) r = true → tabGet s.array.runs id = some a →
    (a.ended = false → (∃ st ∈ a.streams, st.count ≠ 0) → s.perf.actor = none → exec (.genRun id) s = .next s) ∧
    (a.ended = true → n = wantedLogits r →
      claimable (ctxOf s j.ctx) (logitSlots (ctxOf s j.ctx) (runIf g r) n) [] = true →
      ls = (List.range n).map (logitsAt s (ctxOf s j.ctx) (runIf g r)) →
      ∃ t, exec (.genRun id) s = .next t ∧ tabGet t.jobs id = some { j with stalled := [] } ∧
        tabGet t.array.runs id = none ∧ (∀ k, k ≠ id → tabGet t.array.runs k = tabGet s.array.runs k) ∧
        (∀ k, k ≠ id → tabGet t.gens k = tabGet s.gens k) ∧ Quiet { s with gens := t.gens } t id j.ctx ∧
        (g.stage = .verify → tabGet t.gens id = some { g with run := none, logits := ls, stage := .ready }) ∧
        (g.stage = .drafting → tabGet t.gens id = some { g with run := none, logits := ls, draftPos := r.start + r.count }) ∧
        (∀ d dn, g.stage = .prefill d dn → dn + r.count < g.prompt.length →
          tabGet t.gens id = some { g with
            run := none, logits := if d then g.logits else ls, stage := .prefill d (dn + r.count) }) ∧
        (∀ dn, g.stage = .prefill false dn → g.prompt.length ≤ dn + r.count → rdDraftLen g.desc = 0 →
          tabGet t.gens id = some { g with run := none, logits := ls, stage := .ready, due := beatNow s } ∧
          gsLen (ctxOf t j.ctx) = (g.first + g.prompt.length) % 2 ^ 32)))

/-- O56. Teardowns, watchdogs, progress monitors, region resets and skid samples. A teardown ends when its context has
drained, or when RESET.DRAIN_US runs out: its requests end, its Pockets are freed and the context becomes FREE or
FAULTED; the unit that did not drain is dealt with as its hang is. A context's watchdog fires when its count reaches
the limit. A progress monitor acts by the unit that hangs: an engine's hang tears down the context with CTX_HUNG, or
ends the command; a block's fences the block; an HBM stack's controller or a flash channel is reset; a region's
sequencer, mesh or Cloak resets the region; a chip unit resets the chip, with the fatal output asserted. A region
reset that ends reopens the region and retrains Aedup, and one that fails or times out asserts the fatal output. A
skid sample goes to its waiting counters, and other state keeps its value. (R398, R399, R400, R401, R402, R403,
R430) -/
def Obligations.TeardownsAndHangs : Prop :=
  (∀ (s : State) (c : Nat), (ctxOf s c).state ≠ .tearingDown ∨ drained s c = false →
    exec (.teardownDrainEnd c) s = .next s) ∧
  (∀ (s : State) (c : Nat), s.keysRise → (ctxOf s c).state = .tearingDown → drained s c = true →
    ∃ t, exec (.teardownDrainEnd c) s = .next t ∧ DrainEnds s t c) ∧
  (∀ (s : State) (c writes inst : Nat) (u : MonitorUnit), (ctxOf s c).state ≠ .tearingDown →
    exec (.drainTimeout c writes u inst) s = .next s) ∧
  (∀ (s : State) (c writes inst : Nat) (u : MonitorUnit), (ctxOf s c).state = .tearingDown →
    (s.keysRise → isEngine u = true → (ctxOf s c).lastStatus ≠ Code.CTX_HUNG →
      ∃ v t, exec (.drainTimeout c writes u inst) s = .next t ∧ DrainEnds v t c ∧ logged s v (monitorLog 0 u) inst Code.CTX_HUNG c ∧
        UnitsKept s v ∧ v.jobs = s.jobs ∧ v.ctxs = s.ctxs ∧ v.chip = s.chip ∧
        reg t Key.RESET_DRAIN_TIMEOUTS = reg (bump s Key.RESET_DRAIN_TIMEOUTS writes) Key.RESET_DRAIN_TIMEOUTS) ∧
    (u = .blockSequencer → blockAvailable s inst = true → ∃ t, exec (.drainTimeout c writes u inst) s = .next t ∧
      (ctxOf t c).state = (if (ctxOf s c).freeAfter = true then .free else .faulted) ∧
      t.chip.fenced = insertUp inst s.chip.fenced) ∧
    (chipWide u = true → ∃ t, exec (.drainTimeout c writes u inst) s = .next t ∧ t.fatal = true ∧ t.start = .powerGood ∧
      t.jobs = [] ∧ t.queues = [])) ∧
  (∀ (s : State) (c : Nat),
    (live (ctxOf s c) = false ∨ (ctxOf s c).watchdog = 0 ∨ (ctxOf s c).dogCount < (ctxOf s c).watchdog →
      exec (.contextWatchdog c) s = .next s) ∧
    (live (ctxOf s c) = true → (ctxOf s c).watchdog ≠ 0 → (ctxOf s c).watchdog ≤ (ctxOf s c).dogCount →
      ∃ t, exec (.contextWatchdog c) s = .next t ∧ t = { s with ctxs := t.ctxs } ∧
        ∀ d, ctxOf t d = if d = c then { ctxOf s c with hung := true } else ctxOf s d)) ∧
  (∀ (s : State) (u : MonitorUnit) (inst id : Nat), s.start = .off ∨ (isEngine u = true ∧ isOpen s id = false) →
    exec (.progressMonitor u inst id) s = .next s) ∧
  (∀ (s : State) (u : MonitorUnit) (inst id : Nat) (j : Job), s.start ≠ .off → isEngine u = true →
    tabGet s.jobs id = some j → openJob j = true →
    (engineServes u j.opcode = false → exec (.progressMonitor u inst id) s = .next (bump s Key.RESET_MONITOR_FIRES 1)) ∧
    (engineServes u j.opcode = true →
      ∃ t, exec (.progressMonitor u inst id) s = .next t ∧ UnitsKept s t ∧ t.chip = s.chip ∧
        reg t Key.RESET_MONITOR_FIRES = reg (bump s Key.RESET_MONITOR_FIRES 1) Key.RESET_MONITOR_FIRES ∧
        (live (ctxOf s j.ctx) = true → t.jobs = s.jobs ∧ logged s t (monitorLog 0 u) inst Code.CTX_HUNG j.ctx ∧
          ∀ d, ctxOf t d = if d = j.ctx then fenced (ctxOf s j.ctx) Code.CTX_HUNG (some id) else ctxOf s d) ∧
        ((ctxOf s j.ctx).state = .tearingDown → t.jobs = s.jobs ∧ t.ctxs = s.ctxs ∧
          logged s t (monitorLog 0 u) inst Code.CTX_HUNG j.ctx) ∧
        ((ctxOf s j.ctx).state = .free ∨ (ctxOf s j.ctx).state = .faulted → ends t id Code.CTX_HUNG 0 ∧
          ∀ i, i ≠ id → tabGet t.jobs i = tabGet s.jobs i))) ∧
  (∀ (s : State) (inst id : Nat), s.start ≠ .off →
    (blockAvailable s inst = true → ∃ t, exec (.progressMonitor .blockSequencer inst id) s = .next t ∧
      t.chip = { s.chip with fenced := insertUp inst s.chip.fenced } ∧
      t.eeprom = { s.eeprom with quarantines := s.eeprom.quarantines + 1 } ∧
      t.test = { s.test with slices := tabDel s.test.slices inst } ∧ t.mem = s.mem ∧ t.jobs = s.jobs) ∧
    (inst < 12 → ∃ t, exec (.progressMonitor .hbm inst id) s = .next t ∧ (stackOf t inst).resetting = true ∧
      (stackOf t inst).selfRefresh = true ∧ t.mem.dev = s.mem.dev ∧ t.queues = s.queues) ∧
    (∀ x, tabGet s.mem.channels inst = some x → x.up = true → x.resetting = false →
      ∃ t, exec (.progressMonitor .flashChannel inst id) s = .next t ∧
        tabGet t.mem.channels inst = some { x with resetting := true } ∧ t.mem.durable = s.mem.durable ∧ t.queues = s.queues) ∧
    (∀ u, u ∈ [MonitorUnit.regionSequencer, .mesh, .cloak] → inst < 4 → inst ∉ s.chip.resetting →
      ∃ t, exec (.progressMonitor u inst id) s = .next t ∧ inst ∈ t.chip.resetting ∧ inst ∈ t.chip.closed ∧
        inst ∈ t.power.waking ∧ reg t Key.RESET_REGION_RESETS = reg (bump s Key.RESET_REGION_RESETS 1) Key.RESET_REGION_RESETS) ∧
    (∀ u, chipWide u = true → ∃ t, exec (.progressMonitor u inst id) s = .next t ∧ t.fatal = true ∧ t.start = .powerGood ∧
      t.jobs = [] ∧ t.queues = [] ∧ t.eeprom.kept = s.eeprom.kept)) ∧
  (∀ (s : State) (r : Nat) (ok : Bool),
    (r ∉ s.chip.resetting → exec (.regionReset r ok) s = .next s ∧ exec (.regionResetTimeout r) s = .next s) ∧
    (r ∈ s.chip.resetting →
      (∃ t, exec (.regionReset r false) s = .next t ∧ t.fatal = true ∧ t.start = .powerGood ∧ t.jobs = [] ∧ t.queues = []) ∧
      (∃ t, exec (.regionResetTimeout r) s = .next t ∧ t.fatal = true ∧ t.start = .powerGood ∧ t.jobs = [] ∧ t.queues = []) ∧
      (r ∈ s.power.waking → exec (.regionReset r true) s = .next s) ∧
      (r ∉ s.power.waking → ∃ t, exec (.regionReset r true) s = .next t ∧ r ∉ t.chip.resetting ∧ r ∉ t.chip.closed ∧
        (∀ q, q ≠ r → (q ∈ t.chip.resetting ↔ q ∈ s.chip.resetting) ∧ (q ∈ t.chip.closed ↔ q ∈ s.chip.closed)) ∧
        (∀ q, tabGet t.belt.hot q = if q = r then none else tabGet s.belt.hot q) ∧ t.belt.tables = s.belt.tables ∧
        (∀ k x, tabGet t.mem.hbmStacks k = some x → k / 3 = r → x.selfRefresh = false ∧ x.resetting = false) ∧
        (s.aedup.link.state = .active → t.aedup.link.state = .retrain) ∧
        t.mem.dev = s.mem.dev ∧ t.mem.durable = s.mem.durable ∧ t.pocket = s.pocket ∧ t.queues = s.queues ∧ t.fatal = s.fatal))) ∧
  (∀ (s : State) (event inst count : Nat), event ≠ 0x390 → event ≠ 0x3B0 →
    ((∀ k ∈ s.perf.skid, selEvent (reg s (Key.PERF_CHIP_SELECT k)) ≠ event) →
      exec (.skidSample event inst count) s = .next s) ∧
    (∃ t, exec (.skidSample event inst count) s = .next t ∧
      t.perf.skid = s.perf.skid.filter (fun k => selEvent (reg s (Key.PERF_CHIP_SELECT k)) != event) ∧
      t.perf.chip = s.perf.chip ∧ (frozen s = true → t.perf.samples = s.perf.samples) ∧
      (∀ k, frozen s = false → s.perf.skid.filter (fun k => selEvent (reg s (Key.PERF_CHIP_SELECT k)) == event) = [k] →
        reg s (Key.PERF_SAMPLE_COUNT 4) - reg s (Key.PERF_SAMPLE_RELEASE 4) < 1024 →
        (tabGet t.perf.samples (4096 + reg s (Key.PERF_SAMPLE_COUNT 4) % 1024)).isSome = true ∧
        reg t (Key.PERF_SAMPLE_COUNT 4) = reg (bump s (Key.PERF_SAMPLE_COUNT 4) 1) (Key.PERF_SAMPLE_COUNT 4)) ∧
      t.mem = s.mem ∧ t.jobs = s.jobs ∧ t.ctxs = s.ctxs)) ∧
  (∀ (s : State) (event inst count : Nat), event = 0x390 ∨ event = 0x3B0 → ∃ t,
    exec (.skidSample event inst count) s = .next t ∧ (event = 0x3B0 → reg t Key.HBM_PARITY_RETRIES =
      reg (bump s Key.HBM_PARITY_RETRIES count) Key.HBM_PARITY_RETRIES) ∧
    t.mem = s.mem ∧ t.jobs = s.jobs ∧ t.ctxs = s.ctxs)

/-- O57. Training, capabilities and read timeouts of the links. A link that is DOWN and enabled tries again. At the end
of a training state the link moves to its successor with the width and rate of the passed lanes, or goes DOWN; it
sends its capability when it reaches NEGOTIATE, and again while it stays there. A state that lasts past its limit
takes the link DOWN, or, in RETRAIN, into a link reset. A peer's capability that fails takes the link DOWN or into a
link reset and is counted; one that agrees makes an Aedup link ACTIVE with the agreed version and features, and a
new SESSION loses the commands and completions of the old one; on a Pelgan link it also records the peer's group,
and the best candidate is sent to a peer of the same group. A read without a reply retrains the link once, and then
resets it. (R330, R331, R332, R340, R342, R343, R344, R345, R359, R404) -/
def Obligations.LinkTraining : Prop :=
  (∀ (s : State) (l : LinkId),
    ((linkOf s l).state = .down → linkEnabled s l = true → ∃ t, exec (.linkTrainRetry l) s = .next t ∧
      LinkSet s t l { linkOf s l with state := .detect }) ∧
    ((linkOf s l).state ≠ .down ∨ linkEnabled s l = false → exec (.linkTrainRetry l) s = .next s)) ∧
  (∀ (s : State) (l : LinkId) (low high ns : Nat),
    ((linkOf s l).state ∈ [LinkState.detect, .equalize] → (low ≠ 0 ∨ high ≠ 0) →
      ∃ t, exec (.linkTrainingStateEnd l low high ns) s = .next t ∧
        LinkSet s t l { linkOf s l with state := if (linkOf s l).state = .detect then .equalize else .align }) ∧
    (((linkOf s l).state ∈ [LinkState.detect, .equalize] ∧ low = 0 ∧ high = 0) ∨
        ((linkOf s l).state = .align ∧ linkChoice s l low high = none) →
      ∃ t, exec (.linkTrainingStateEnd l low high ns) s = .next t ∧ LinkSet s t l { linkOf s l with state := .down } ∧
        (l = .aedup → reg t Key.AEDUP_TRAIN_FAILURES = reg (bump s Key.AEDUP_TRAIN_FAILURES 1) Key.AEDUP_TRAIN_FAILURES)) ∧
    (∀ w r, (linkOf s l).state = .align → linkChoice s l low high = some (w, r) →
      ∃ u t, exec (.linkTrainingStateEnd l low high ns) s = .next t ∧
        LinkSet s u l { linkOf s l with state := .negotiate, width := w, rate := r } ∧ Side u t ∧
        t.out = .capability l (capabilityOf s l) :: s.out ∧
        (l = .aedup → reg t Key.AEDUP_WIDTH = w ∧ reg t Key.AEDUP_RATE = r) ∧
        (∀ p, l = .pelgan p → field (reg t Key.PELGAN_LINK_LATENCY) (16 * p) 16 = ns % 65536)) ∧
    ((linkOf s l).state ∈ [LinkState.down, .negotiate, .active, .retrain] →
      exec (.linkTrainingStateEnd l low high ns) s = .next s)) ∧
  (∀ (s : State) (l : LinkId),
    ((linkOf s l).state ∈ [LinkState.down, .active] → exec (.linkStateTimeout l) s = .next s) ∧
    ((linkOf s l).state ∈ [LinkState.detect, .equalize, .align, .negotiate] → ∃ t, exec (.linkStateTimeout l) s = .next t ∧
      LinkSet s t l { linkOf s l with state := .down } ∧
      (l = .aedup → reg t Key.AEDUP_TRAIN_FAILURES = reg (bump s Key.AEDUP_TRAIN_FAILURES 1) Key.AEDUP_TRAIN_FAILURES)) ∧
    (s.keysRise → (linkOf s l).state = .retrain → ∃ t, exec (.linkStateTimeout l) s = .next t ∧ LinkReset s t l)) ∧
  (∀ (s : State) (l : LinkId),
    ((linkOf s l).state = .negotiate → ∃ t, exec (.capabilityResend l) s = .next t ∧ Side s t ∧
      t.out = .capability l (capabilityOf s l) :: s.out) ∧
    ((linkOf s l).state ≠ .negotiate → exec (.capabilityResend l) s = .next s)) ∧
  (∀ (s : State) (cap : Nat),
    (s.aedup.link.state ∉ [LinkState.negotiate, .retrain] → exec (.aedupCapability cap) s = .next s) ∧
    (s.aedup.link.state = .negotiate → aedupNegFails s cap = true → ∃ t, exec (.aedupCapability cap) s = .next t ∧
      LinkSet s t .aedup { s.aedup.link with state := .down } ∧
      reg t Key.AEDUP_NEG_FAILURES = reg (bump s Key.AEDUP_NEG_FAILURES 1) Key.AEDUP_NEG_FAILURES) ∧
    (s.keysRise → s.aedup.link.state = .retrain → aedupNegFails s cap = true → ∃ t, exec (.aedupCapability cap) s = .next t ∧
      LinkReset s t .aedup ∧
      reg t Key.AEDUP_NEG_FAILURES = reg (bump s Key.AEDUP_NEG_FAILURES 1) Key.AEDUP_NEG_FAILURES) ∧
    (s.aedup.link.state = .retrain → aedupNegFails s cap = false → ∃ t, exec (.aedupCapability cap) s = .next t ∧
      LinkSet s t .aedup (aedupAgreed s cap) ∧ reg t Key.AEDUP_VERSION = (aedupAgreed s cap).version ∧
      reg t Key.AEDUP_FEATURES = (aedupAgreed s cap).features) ∧
    (s.aedup.link.state = .negotiate → aedupNegFails s cap = false → s.dict.waiting = none →
      (s.aedup.peerSession ≠ field cap 96 32 → ∃ t, exec (.aedupCapability cap) s = .next t ∧
        t.aedup.link = opened (aedupAgreed s cap) (aedupCredits cap) ∧ t.aedup.peerSession = field cap 96 32 ∧
        t.aedup.held = [] ∧ t.queues = [] ∧
        (∀ id, tabGet t.jobs id = (tabGet s.jobs id).map (fun j => { j with lost := true })) ∧
        reg t Key.AEDUP_LOST_COMPLETIONS =
          reg (bump s Key.AEDUP_LOST_COMPLETIONS s.aedup.held.length) Key.AEDUP_LOST_COMPLETIONS ∧
        reg t Key.AEDUP_PEER_SESSION = field cap 96 32 ∧ reg t Key.AEDUP_FEATURES = (aedupAgreed s cap).features ∧
        (tabGet t.sec.sessions 96 = none → (aedupAgreed s cap).protect = false) ∧
        t.mem = s.mem ∧ t.ctxs = s.ctxs ∧ t.out = s.out ∧ t.pelgan = s.pelgan) ∧
      (s.aedup.peerSession = field cap 96 32 → s.aedup.held = [] → (∀ p ∈ s.queues, p.2.draining = false) →
        ∃ t, exec (.aedupCapability cap) s = .next t ∧
          t.aedup = { s.aedup with link := opened (aedupAgreed s cap) (aedupCredits cap) } ∧
          t.queues = s.queues ∧ t.jobs = s.jobs ∧ t.mem = s.mem ∧ t.ctxs = s.ctxs ∧ t.out = s.out ∧ t.pelgan = s.pelgan) ∧
      (∀ h, s.aedup.peerSession = field cap 96 32 → s.aedup.held = [h] → (∀ p ∈ s.queues, p.2.draining = false) →
        ∃ t, exec (.aedupCapability cap) s = .next t ∧ t.aedup.held = [] ∧ t.queues = s.queues ∧ t.jobs = s.jobs ∧
          memBytes t.mem.comp h.addr 16 = leBytes 16 h.entry ∧ Out.aedupWrite h.addr 16 ∈ t.out ∧
          (∀ v, h.vector = some v → bitOf (aedupAgreed s cap).features 2 = true → Out.aedupIntr v ∈ t.out)))) ∧
  (∀ (s : State) (p cap : Nat),
    ((linkOf s (.pelgan p)).state ∉ [LinkState.negotiate, .retrain] → exec (.pelganCapability p cap) s = .next s) ∧
    ((linkOf s (.pelgan p)).state = .negotiate → pelganNegFails s p cap = true →
      ∃ t, exec (.pelganCapability p cap) s = .next t ∧
        LinkSet s t (.pelgan p) { linkOf s (.pelgan p) with state := .down } ∧
        reg t Key.PELGAN_NEG_FAILURES = reg (bump s Key.PELGAN_NEG_FAILURES 1) Key.PELGAN_NEG_FAILURES) ∧
    (s.keysRise → (linkOf s (.pelgan p)).state = .retrain → pelganNegFails s p cap = true →
      ∃ t, exec (.pelganCapability p cap) s = .next t ∧ LinkReset s t (.pelgan p) ∧
        reg t Key.PELGAN_NEG_FAILURES = reg (bump s Key.PELGAN_NEG_FAILURES 1) Key.PELGAN_NEG_FAILURES) ∧
    ((linkOf s (.pelgan p)).state = .retrain → pelganNegFails s p cap = false →
      ∃ t, exec (.pelganCapability p cap) s = .next t ∧ tabGet t.pelgan.peerGroup p = some (field cap 160 32) ∧
        LinkSet { s with pelgan := { s.pelgan with peerGroup := t.pelgan.peerGroup } } t (.pelgan p) (pelganAgreed s p cap)) ∧
    ((linkOf s (.pelgan p)).state = .negotiate → pelganNegFails s p cap = false →
      (reg s Key.PELGAN_GROUP_ID = 0 ∨ reg s Key.PELGAN_GROUP_ID ≠ field cap 160 32 →
        ∃ t, exec (.pelganCapability p cap) s = .next t ∧ tabGet t.pelgan.peerGroup p = some (field cap 160 32) ∧
          LinkSet { s with
            pelgan := { s.pelgan with peerGroup := t.pelgan.peerGroup }, sec := t.sec, freeCount := t.freeCount } t (.pelgan p)
            (opened (pelganAgreed s p cap) [field cap 8 8, field cap 8 8, field cap 8 8]) ∧
          (∀ k, k ≠ p → tabGet t.sec.sessions k = tabGet s.sec.sessions k)) ∧
      (reg s Key.PELGAN_GROUP_ID ≠ 0 → reg s Key.PELGAN_GROUP_ID = field cap 160 32 →
        ∃ u t, exec (.pelganCapability p cap) s = .next t ∧ tabGet t.pelgan.peerGroup p = some (field cap 160 32) ∧
          LinkSet { s with
            pelgan := { s.pelgan with peerGroup := u.pelgan.peerGroup }, sec := u.sec, freeCount := u.freeCount } u (.pelgan p)
            (opened (pelganAgreed s p cap) [field cap 8 8, field cap 8 8, field cap 8 8]) ∧ Side u t ∧
          t.out = .message p msgHello 0xFFF 0 ((bestCandidate s).1 * 2 ^ 64 + (bestCandidate s).2) :: s.out))) ∧
  (∀ (s : State) (tag : Nat),
    (tabGet s.aedup.reads tag = none → exec (.aedupReadTimeout tag) s = .next s) ∧
    (∀ q, tabGet s.aedup.reads tag = some q → q.retried = true → s.keysRise →
      ∃ t, exec (.aedupReadTimeout tag) s = .next t ∧ LinkReset s t .aedup) ∧
    (∀ q, tabGet s.aedup.reads tag = some q → q.retried = false → ∃ t, exec (.aedupReadTimeout tag) s = .next t ∧
      (∀ k, tabGet t.aedup.reads k = if k = tag then some { q with retried := true } else tabGet s.aedup.reads k) ∧
      (s.aedup.link.state = .active →
        LinkSet { s with aedup := { s.aedup with reads := t.aedup.reads } } t .aedup
          { s.aedup.link with state := .retrain, replays := 0 } ∧
        reg t Key.AEDUP_RETRAINS = reg (bump s Key.AEDUP_RETRAINS 1) Key.AEDUP_RETRAINS) ∧
      (s.aedup.link.state ≠ .active → t = { s with aedup := { s.aedup with reads := t.aedup.reads } })))

/-- O58. Flits, NAKs, retrains, read replies, snoops, MMIO and the mailbox. A flit that a link takes counts its
corrected bits; a bad check or tag, a stale generation or a wrong sequence number discards it, and a good one
advances the sequence and passes its messages on, each bad one counted. A NAK replays, and 16 replays or an ACK
stall retrain the link. A retrain that ends keeps the link ACTIVE with its new width and rate, a fresh session key
under PROTECT and a replay of what is not acknowledged, or resets the link. A read's line lands at its reader unless
its context has changed, and an error ends the reader's command with ECC_UNCORRECTABLE. A snoop drops the line and
is answered. MMIO reads and writes reach the doorbells and the mailbox page or count as malformed, and a write to
TRIGGER serves one request of the mailbox and puts STATUS and the data in place. (R333, R334, R335, R337, R338,
R339, R340, R345, R400, R440) -/
def Obligations.FlitsAndReplies : Prop :=
  (∀ (s : State) (l : LinkId) (n h : Nat) (crc tag : Bool) (ms : List Nat),
    (takesFlits (linkOf s l) = false → exec (.flitReceive l n crc tag h ms) s = .next s) ∧
    (takesFlits (linkOf s l) = true →
      (crc = false → ∃ t, exec (.flitReceive l n crc tag h ms) s = .next t ∧ discards s t l (linkOf s l) ∧
        counts s t (crcKey l) 1 ∧ (n ≠ 0 → counts s t (fecKey l) n) ∧ reg t Key.SEC_TAG_FAILURES = reg s Key.SEC_TAG_FAILURES) ∧
      (crc = true → tagged (linkOf s l) h = true → tag = false →
        ∃ t, exec (.flitReceive l n crc tag h ms) s = .next t ∧ discards s t l (linkOf s l) ∧
          counts s t (crcKey l) 1 ∧ (n ≠ 0 → counts s t (fecKey l) n) ∧ counts s t Key.SEC_TAG_FAILURES 1) ∧
      (crc = true → tagged (linkOf s l) h = false ∨ tag = true →
        (l ≠ .aedup → field h 66 6 ≠ (linkOf s l).linkGen → ∃ t, exec (.flitReceive l n crc tag h ms) s = .next t ∧
          FlitSet s t l (linkOf s l) ∧ counts s t Key.PELGAN_STALE_DROPS 1 ∧ (n ≠ 0 → counts s t (fecKey l) n)) ∧
        (l = .aedup ∨ field h 66 6 = (linkOf s l).linkGen →
          (field h 72 4 ∈ [2, 4, 5] → ∃ t, exec (.flitReceive l n crc tag h ms) s = .next t ∧
            FlitSet s t l (afterHeader l (linkOf s l) h)) ∧
          (field h 72 4 ∉ [2, 4, 5] → field h 86 10 ≠ (linkOf s l).recvSeq →
            ∃ t, exec (.flitReceive l n crc tag h ms) s = .next t ∧ discards s t l (afterHeader l (linkOf s l) h)) ∧
          (field h 72 4 ∉ [0, 2, 4, 5] → field h 86 10 = (linkOf s l).recvSeq →
            ∃ t, exec (.flitReceive l n crc tag h ms) s = .next t ∧ FlitSet s t l (afterHeader l (linkOf s l) h)) ∧
          (field h 72 4 = 0 → field h 86 10 = (linkOf s l).recvSeq →
            ∃ u v t, exec (.flitReceive l n crc tag h ms) s = .next t ∧
              FlitSet s u l { afterHeader l (linkOf s l) h with
                recvSeq := ((linkOf s l).recvSeq + 1) % 1024, nakSent := false
                sealedIn := (linkOf s l).sealedIn + (if tagged (linkOf s l) h then 1 else 0) } ∧
              u.aedup.posted = stillPosted s u.aedup.link ∧ Side u v ∧
              (tagged (linkOf s l) h = false ∨ (linkOf s l).sealedIn + 1 < 2 ^ 48 →
                t = bump v (protocolKey l) (ms.filter (badMessage l)).length) ∧
              (tagged (linkOf s l) h = true → 2 ^ 48 ≤ (linkOf s l).sealedIn + 1 →
                t = startRetrain (bump v (protocolKey l) (ms.filter (badMessage l)).length) l)))))) ∧
  (∀ (s : State) (l : LinkId) (ack : Nat),
    ((linkOf s l).state ≠ .active → exec (.nak l ack) s = .next s) ∧
    ((linkOf s l).state = .active →
      (unacked (takeAck (linkOf s l) ack) = 0 → ∃ t, exec (.nak l ack) s = .next t ∧
        FlitSet s t l (takeAck (linkOf s l) ack) ∧ t.perf = s.perf) ∧
      (unacked (takeAck (linkOf s l) ack) ≠ 0 →
        ∃ u v t, exec (.nak l ack) s = .next t ∧
          FlitSet s u l { takeAck (linkOf s l) ack with replays := (takeAck (linkOf s l) ack).replays + 1 } ∧
          counts s u (replayKey l) 1 ∧ Side u v ∧
          (∃ o, v.out = .replay l (takeAck (linkOf s l) ack).ackSeq :: (o ++ s.out)) ∧
          ((takeAck (linkOf s l) ack).replays + 1 < 16 → t = v) ∧
          (16 ≤ (takeAck (linkOf s l) ack).replays + 1 → t = startRetrain v l)))) ∧
  (∀ (s : State) (l : LinkId),
    ((linkOf s l).state ≠ .active ∨ unacked (linkOf s l) = 0 → exec (.ackStall l) s = .next s) ∧
    ((linkOf s l).state = .active → unacked (linkOf s l) ≠ 0 → ∃ t, exec (.ackStall l) s = .next t ∧
      LinkSet s t l { linkOf s l with state := .retrain, replays := 0 } ∧
      (l = .aedup → counts s t Key.AEDUP_RETRAINS 1) ∧ (l ≠ .aedup → counts s t Key.PELGAN_RETRAINS 1))) ∧
  (∀ (s : State) (l : LinkId) (low high : Nat),
    ((linkOf s l).state ≠ .retrain → exec (.linkRetrainEnd l low high) s = .next s) ∧
    (s.keysRise → (linkOf s l).state = .retrain → linkEnabled s l = false ∨ linkChoice s l low high = none →
      ∃ t, exec (.linkRetrainEnd l low high) s = .next t ∧ LinkReset s t l) ∧
    (∀ w r, (linkOf s l).state = .retrain → linkEnabled s l = true → linkChoice s l low high = some (w, r) →
      s.dict.waiting = none →
      ∃ u t, exec (.linkRetrainEnd l low high) s = .next t ∧
        LinkSet { s with sec := u.sec, freeCount := u.freeCount } u l (retrained s l w r) ∧
        (l = .aedup → reg u Key.AEDUP_WIDTH = w ∧ reg u Key.AEDUP_RATE = r) ∧
        ((linkOf s l).protect = false → u.sec = s.sec) ∧
        (∀ k, k ≠ linkIndex l → tabGet u.sec.sessions k = tabGet s.sec.sessions k) ∧
        ((linkOf s l).protect = true → (linkSlot s l).isSome = true → (tabGet u.sec.sessions (linkIndex l)).isSome = true) ∧
        (unacked (linkOf s l) = 0 → t = u) ∧
        (unacked (linkOf s l) ≠ 0 → Side (bump u (replayKey l) 1) t ∧
          ∃ o, t.out = .replay l (linkOf s l).ackSeq :: (o ++ s.out)))) ∧
  (∀ (s : State) (tag data : Nat) (shared : Bool),
    (s.aedup.link.state ≠ .active ∨ tabGet s.aedup.reads tag = none → exec (.dataNc tag shared data) s = .next s) ∧
    (∀ q, s.aedup.link.state = .active → tabGet s.aedup.reads tag = some q → dictFree s = true →
      ∃ t, exec (.dataNc tag shared data) s = .next t ∧ LineCame s t tag q shared data ∧
        (∀ id, q.for_ = .job id → t.aedup.landed = s.aedup.landed ∧
          ((ctxOf s q.ctx).genTag ≠ q.genTag → t.jobs = s.jobs ∧ t.regs = (bump s Key.RESET_STALE_REPLIES 1).regs) ∧
          ((ctxOf s q.ctx).genTag = q.genTag → t.regs = s.regs ∧
            ∀ k, tabGet t.jobs k = if k = id then (tabGet s.jobs id).map (fun j => { j with reads := j.reads - 1 })
              else tabGet s.jobs k)) ∧
        ((∀ id, q.for_ ≠ .job id) → t.jobs = s.jobs ∧ t.regs = s.regs ∧
          t.aedup.landed = if keepsLine q shared then s.aedup.landed else q.line :: s.aedup.landed))) ∧
  (∀ (s : State) (tag : Nat),
    (s.aedup.link.state ≠ .active ∨ tabGet s.aedup.reads tag = none → exec (.dataErr tag) s = .next s) ∧
    (∀ q, s.aedup.link.state = .active → tabGet s.aedup.reads tag = some q →
      (∀ n, q.for_ = .table n ∨ q.for_ = .ring n →
        exec (.dataErr tag) s = .next { s with aedup := { s.aedup with reads := tabDel s.aedup.reads tag } }) ∧
      (q.for_ = .dict → s.dict.backlog = [] → ∀ r line, s.dict.waiting = some (r, line) →
        ∃ t, exec (.dataErr tag) s = .next t ∧ t.dict.waiting = none ∧
          t.dict.last = some (replyOf r Code.ECC_UNCORRECTABLE 0 0) ∧ t.aedup.reads = tabDel s.aedup.reads tag ∧
          t.jobs = s.jobs ∧ t.ctxs = s.ctxs ∧ t.queues = s.queues ∧ t.mem = s.mem) ∧
      (∀ id, q.for_ = .job id → (ctxOf s q.ctx).genTag ≠ q.genTag →
        exec (.dataErr tag) s = .next
          (bump { s with aedup := { s.aedup with reads := tabDel s.aedup.reads tag } } Key.RESET_STALE_REPLIES 1)) ∧
      (∀ id j, q.for_ = .job id → (ctxOf s q.ctx).genTag = q.genTag → tabGet s.jobs id = some j → openJob j = true →
        (tellsWhere j.opcode = false → ∃ t, exec (.dataErr tag) s = .next t ∧ ends t id Code.ECC_UNCORRECTABLE 0 ∧
          (∀ k, k ≠ id → tabGet t.jobs k = tabGet s.jobs k) ∧
          OnlyOutcome { s with aedup := { s.aedup with reads := tabDel s.aedup.reads tag } } t) ∧
        (tellsWhere j.opcode = true → ∃ t, exec (.dataErr tag) s = .next t ∧
          tabGet t.jobs id = some { j with reads := j.reads - 1 } ∧ (∀ k, k ≠ id → tabGet t.jobs k = tabGet s.jobs k) ∧
          t.mem = { s.mem with compBad := insertUp (q.line / 128) s.mem.compBad } ∧
          t.aedup = { s.aedup with reads := tabDel s.aedup.reads tag } ∧ t.regs = s.regs)))) ∧
  (∀ (s : State) (addr : Nat),
    (s.aedup.link.state ≠ .active → exec (.snpInv addr) s = .next s) ∧
    (s.aedup.link.state = .active → ∃ u t, exec (.snpInv addr) s = .next t ∧ addr / 128 * 128 ∉ u.aedup.cache ∧
      (∀ x, x ≠ addr / 128 * 128 → (x ∈ u.aedup.cache ↔ x ∈ s.aedup.cache)) ∧
      (∀ tag, tabGet u.aedup.reads tag = (tabGet s.aedup.reads tag).map (fun q =>
        { q with snooped := q.snooped || (q.line == addr / 128 * 128 && q.shared) })) ∧
      u = { s with aedup := { s.aedup with cache := u.aedup.cache, reads := u.aedup.reads } } ∧
      Side (bump u Key.AEDUP_SNOOPS 1) t ∧ t.out = .snpRspI (addr / 128 * 128) :: s.out)) ∧
  (∀ (s : State) (tag offset words : Nat),
    (s.aedup.link.state ≠ .active → exec (.mmioRd tag offset words) s = .next s) ∧
    (s.aedup.link.state = .active → mmioBad offset words = true → ∃ t, exec (.mmioRd tag offset words) s = .next t ∧
      Side (bump s Key.AEDUP_MMIO_ERRORS 1) t ∧ t.out = .mmioData tag 0 :: s.out) ∧
    (s.aedup.link.state = .active → mmioBad offset words = false → ∃ v t, exec (.mmioRd tag offset words) s = .next t ∧
      Side s t ∧ t.out = .mmioData tag v :: s.out ∧
      (offset < 0x1000 → offset ≠ 0x00C → words = 1 ∨ offset ≠ 0x008 → v = memNat s.dict.mailbox offset (4 * words)) ∧
      (offset = 0x008 → v % 2 ^ 32 = memNat s.dict.mailbox 0x008 4 ∧ v / 2 ^ 32 = 0) ∧
      (offset = 0x00C ∨ 0x100000 ≤ offset → v = 0))) ∧
  (∀ (s : State) (offset words v : Nat),
    (s.aedup.link.state ≠ .active → exec (.mmioWr offset words v) s = .next s) ∧
    (s.aedup.link.state = .active → mmioBad offset words = true →
      exec (.mmioWr offset words v) s = .next (bump s Key.AEDUP_MMIO_ERRORS 1)) ∧
    (s.aedup.link.state = .active → mmioBad offset words = false →
      (∀ q, offset = 0x100000 + 16 * q → exec (.mmioWr offset words v) s = exec (.submissionDoorbell q (v % 2 ^ 32)) s) ∧
      (∀ q, offset = 0x100008 + 16 * q → exec (.mmioWr offset words v) s = exec (.completionDoorbell q (v % 2 ^ 32)) s) ∧
      (offset = 0x00C → exec (.mmioWr offset words v) s = exec (.mailboxTrigger (v % 2 ^ 32)) s) ∧
      (words = 1 → offset ∈ [0x010, 0x014] → exec (.mmioWr offset words v) s = .next s) ∧
      (words = 1 → offset < 0x1000 → offset ∉ [0x00C, 0x010, 0x014] → ∃ t, exec (.mmioWr offset words v) s = .next t ∧
        t = { s with dict := { s.dict with mailbox := t.dict.mailbox } } ∧
        memNat t.dict.mailbox offset 4 = v % 2 ^ 32 ∧
        ∀ a, a < offset ∨ offset + 4 ≤ a → memByte t.dict.mailbox a = memByte s.dict.mailbox a) ∧
      (words = 2 → ∃ u, exec (.mmioWr offset 1 v) s = .next u ∧
        exec (.mmioWr offset 2 v) s = exec (.mmioWr (offset + 4) 1 (v / 2 ^ 32)) u))) ∧
  (∀ (s : State) (n : Nat),
    (s.aedup.link.state ≠ .active ∨ n % 2 ^ 32 = 0 → exec (.mailboxTrigger n) s = .next s) ∧
    (s.aedup.link.state = .active → n % 2 ^ 32 ≠ 0 →
      (s.dict.mailboxBusy = true → exec (.mailboxTrigger n) s = .next (bump s Key.AEDUP_MAILBOX_OVERRUNS 1)) ∧
      (s.dict.mailboxBusy = false → dictFree s = true →
        (∀ st r, checkRequest s (mailboxRequest s (n % 2 ^ 32)) = (st, r) → st ≠ Code.OK →
          ∃ t, exec (.mailboxTrigger n) s = .next t ∧ Undisturbed s t ∧ t.dict.mailboxBusy = false ∧
            memNat t.dict.mailbox 0x010 8 = (n % 2 ^ 32 * 2 ^ 32 + st * 2 ^ 16) % 2 ^ 64 ∧
            (∀ a, a < 0x010 ∨ 0x018 ≤ a → memByte t.dict.mailbox a = memByte s.dict.mailbox a) ∧
            counts s t Key.DICT_REQUESTS 1) ∧
        (∀ r, checkRequest s (mailboxRequest s (n % 2 ^ 32)) = (Code.OK, r) → (mailboxRequest s (n % 2 ^ 32)).op = 1 →
          derived s (mailboxRequest s (n % 2 ^ 32)).key = none → openEntry s (mailboxRequest s (n % 2 ^ 32)).key = false →
          (mailboxRequest s (n % 2 ^ 32)).key / 256 ∉ [0xF032, 0xF041] → r.ty ≠ .str →
          (mailboxRequest s (n % 2 ^ 32)).length ≠ 0 →
          ∃ t, exec (.mailboxTrigger n) s = .next t ∧ Undisturbed s t ∧ t.dict.mailboxBusy = false ∧
            memNat t.dict.mailbox 0x010 8 =
              n % 2 ^ 32 * 2 ^ 32 + (mailboxRequest s (n % 2 ^ 32)).length ∧
            memNat t.dict.mailbox 0x100 (mailboxRequest s (n % 2 ^ 32)).length =
              field (inForce s (mailboxRequest s (n % 2 ^ 32)).key) (8 * (mailboxRequest s (n % 2 ^ 32)).offset)
                (8 * (mailboxRequest s (n % 2 ^ 32)).length) ∧
            counts s t Key.DICT_REQUESTS 1))))

/-- O59. Election, formation, routes, jobs, remote accesses and spanned searches. A HELLO with a better candidate is
kept and sent on, and a worker that meets a better manager changes to it. A manager declares itself with the
numbers, parent links and routes of the breadth-first tree and assigns each device its number; a device that is
assigned takes its number and sends the assignment on. Routes and job entries wait for their beat. A message is
forwarded by its route, or an RT_ERR goes back. A remote read or write that is stale, refused, or meets bad memory
is answered so, and otherwise has its effect and its answer. A reply or a timeout reaches the command that asked. A
list of a spanned search merges into the query or the share it belongs to, and a SPAN_START has the device add its
own share. (R230, R347, R348, R349, R350, R351, R353, R355, R357) -/
def Obligations.GroupsAndRemoteAccess : Prop :=
  (∀ (s : State) (port capability priority serial : Nat),
    (groupLink s port = false ∨ s.pelgan.excluded = some serial ∨ better (priority, serial) (bestCandidate s) = false →
      exec (.hello port capability priority serial) s = .next s) ∧
    (groupLink s port = true → s.pelgan.excluded ≠ some serial → better (priority, serial) (bestCandidate s) = true →
      ∃ u, Side { s with pelgan := { s.pelgan with best := some (priority, serial) } } u ∧
        (∀ l ∈ groupLinks s, l ≠ port → .message l msgHello 0xFFF 0 (priority * 2 ^ 64 + serial) ∈ u.out) ∧
        (meetsManager s capability serial = false → exec (.hello port capability priority serial) s = .next u) ∧
        (meetsManager s capability serial = true → ∃ v, ManagerChanged u v serial ∧
          exec (.hello port capability priority serial) s = .next (setReg v Key.HEM_ROLE 2)))) ∧
  (∀ (s : State) (serials : List Nat) (cables : List (Nat × Nat × Nat × Nat)) (latency : Nat),
    (mayDeclare s = false → exec (.managerDeclare serials cables latency) s = .next s) ∧
    (mayDeclare s = true → reg s Key.HEM_ROLE = 1 → ∃ t, exec (.managerDeclare serials cables latency) s = .next t ∧
      LinkLoss s t ∧ t.jobs = s.jobs ∧ t.ctxs = s.ctxs ∧
      GroupKnown t serials (joinedNumbers (treeOf serials.length cables) cables s.pelgan.serials s.pelgan.numbers serials)
        cables ∧
      t.pelgan.routesDue = s.pelgan.routesDue ++ routeEntries (treeOf serials.length cables) cables
        (joinedNumbers (treeOf serials.length cables) cables s.pelgan.serials s.pelgan.numbers serials) 0) ∧
    (mayDeclare s = true → reg s Key.HEM_ROLE ≠ 1 → ∃ t, exec (.managerDeclare serials cables latency) s = .next t ∧
      GroupKnown t serials (formationNumbers (treeOf serials.length cables) cables serials.length) cables ∧
      reg t Key.HEM_ROLE = 1 ∧ reg t Key.PELGAN_DEVICE = 0 ∧ reg t Key.PELGAN_MANAGER_SERIAL = reg s Key.ID_SERIAL ∧
      reg t Key.PELGAN_GROUP_VERSION = 1 ∧ counts s t Key.PELGAN_FORMATION 1 ∧ t.pelgan.parent = none ∧
      t.pelgan.excluded = none ∧ t.pelgan.routesDue = [] ∧ t.jobs = s.jobs ∧ UnitsKept (setReg s Key.HEM_ROLE 1) t ∧
      (∀ x r, x < serials.length → x ≠ 0 →
        numberIn (formationNumbers (treeOf serials.length cables) cables serials.length) x ≠ 0xFFFF →
        (shortestRoutes (treeOf serials.length cables) cables
          (formationNumbers (treeOf serials.length cables) cables serials.length) 0 x).head? = some r →
        .message (r.headD 127) msgAssign
          (numberIn (formationNumbers (treeOf serials.length cables) cables serials.length) x) 0
          (numberIn (formationNumbers (treeOf serials.length cables) cables serials.length) x * 2 ^ 16 +
            reg t Key.PELGAN_FORMATION) ∈ t.out))) ∧
  (∀ (s : State) (port device formation manager members : Nat) (children : List Nat),
    (groupLink s port = false → exec (.assign port device formation manager members children) s = .next s) ∧
    (groupLink s port = true → reg s Key.PELGAN_MANAGER_SERIAL = 0 →
      ∃ t, exec (.assign port device formation manager members children) s = .next t ∧
        Assigned (setReg s Key.PELGAN_MANAGER_SERIAL manager) t port device formation members children) ∧
    (groupLink s port = true → reg s Key.PELGAN_MANAGER_SERIAL = manager → manager ≠ 0 →
      ∃ t, exec (.assign port device formation manager members children) s = .next t ∧
        Assigned s t port device formation members children) ∧
    (groupLink s port = true → reg s Key.PELGAN_MANAGER_SERIAL ≠ 0 → reg s Key.PELGAN_MANAGER_SERIAL ≠ manager →
      ∃ u t, exec (.assign port device formation manager members children) s = .next t ∧ ManagerChanged s u manager ∧
        Assigned u t port device formation members children)) ∧
  (∀ (s : State) (rs : List (Nat × Nat × Nat)),
    exec (.routes rs) s = .next { s with pelgan := { s.pelgan with routesDue := s.pelgan.routesDue ++ rs } }) ∧
  (∀ (s : State) (job entry due : Nat),
    (255 ≤ job → exec (.jobSet job entry due) s = .next s) ∧
    (job < 255 → exec (.jobSet job entry due) s =
      .next { s with pelgan := { s.pelgan with jobsDue := s.pelgan.jobsDue ++ [⟨due, job, entry⟩] } })) ∧
  (∀ (s : State) (p header port : Nat), port = field header (24 + 7 * field header 80 4) 7 →
    (8 ≤ field header 80 4 ∨ port = 127 → exec (.messageForward p header) s = .next s) ∧
    (field header 80 4 < 8 → port ≠ 127 → groupLink s port = true →
      ∃ t, exec (.messageForward p header) s = .next t ∧ Side s t ∧ ∃ l, t.out =
        l ++ .message port (field header 16 8) (field header 116 12) (field header 0 16) (header + 2 ^ 80) :: s.out) ∧
    (field header 80 4 < 8 → port ≠ 127 → groupLink s port = false →
      ∃ t, exec (.messageForward p header) s = .next t ∧ leaves (bump s Key.PELGAN_ROUTE_DROPS 1) t msgRtErr
        (field header 92 12) (field header 104 12) (field header 0 16) port)) ∧
  (∀ (s : State) (source job gen tag d : Nat),
    (jobMessageOk s source job gen = false →
      exec (.rmtRd source job gen tag d) s = .next (bump s Key.PELGAN_STALE_DROPS 1)) ∧
    (jobMessageOk s source job gen = true → accessRefused s job d = true → ∃ t,
      exec (.rmtRd source job gen tag d) s = .next t ∧
        leaves (bump s Key.PELGAN_REFUSED 1) t msgRmtRsp job source tag Code.HANDOFF_REFUSED) ∧
    (jobMessageOk s source job gen = true → accessRefused s job d = false →
      (adSpace d = 0 → readBad s (adAddr d) (adLen d) = true → ∃ t, exec (.rmtRd source job gen tag d) s = .next t ∧
        leaves s t msgRmtRsp job source tag Code.ECC_UNCORRECTABLE) ∧
      (adSpace d = 0 → readBad s (adAddr d) (adLen d) = false → ∃ t, exec (.rmtRd source job gen tag d) s = .next t ∧
        leaves (touchRange s (adAddr d) (adLen d)) t msgRmtRsp job source tag
          (natAt s (adAddr d) (adLen d) * 2 ^ 16 + Code.OK)) ∧
      (∀ c lb row, adSpace d = 1 → pocketTarget s job d = some (c, lb, row) →
        (pocketHeld s (ctxOf s c) lb = true ∨ claimable (ctxOf s c) (rowSlots s c lb row) [] = false →
          exec (.rmtRd source job gen tag d) s = .next s) ∧
        (pocketHeld s (ctxOf s c) lb = false → claimable (ctxOf s c) (rowSlots s c lb row) [] = true →
          ∃ t, exec (.rmtRd source job gen tag d) s = .next t ∧
            leaves (setCtx s c (retireSlots (claimSlots (ctxOf s c) (rowSlots s c lb row) []) (rowSlots s c lb row) [])) t
              msgRmtRsp job source tag
              (ofLeBytes (lbRead s (ctxOf s c) lb row (adOffset d) (adLen d)) * 2 ^ 16 + Code.OK))))) ∧
  (∀ (s : State) (source job gen tag d data : Nat),
    (jobMessageOk s source job gen = false →
      exec (.rmtWr source job gen tag d data) s = .next (bump s Key.PELGAN_STALE_DROPS 1)) ∧
    (jobMessageOk s source job gen = true → accessRefused s job d = true → ∃ t,
      exec (.rmtWr source job gen tag d data) s = .next t ∧
        leaves (bump s Key.PELGAN_REFUSED 1) t msgRmtRsp job source tag Code.HANDOFF_REFUSED) ∧
    (jobMessageOk s source job gen = true → accessRefused s job d = false →
      (∀ u, adSpace d = 0 → prepareWrite s (adAddr d) (adLen d) = .ready u →
        ∃ v t, exec (.rmtWr source job gen tag d data) s = .next t ∧
          BytesStored s v (adAddr d) (leBytes (adLen d) data) ∧ leaves v t msgRmtRsp job source tag Code.OK) ∧
      (∀ u, adSpace d = 0 → prepareWrite s (adAddr d) (adLen d) = .wait u →
        exec (.rmtWr source job gen tag d data) s = .next u ∧ u = { s with mem := { s.mem with units := u.mem.units } }) ∧
      (∀ u st, adSpace d = 0 → prepareWrite s (adAddr d) (adLen d) = .fail u st →
        ∃ t, exec (.rmtWr source job gen tag d data) s = .next t ∧ leaves u t msgRmtRsp job source tag st ∧
          u = { s with mem := { s.mem with units := u.mem.units } }) ∧
      (∀ c lb row, adSpace d = 1 → pocketTarget s job d = some (c, lb, row) →
        (pocketHeld s (ctxOf s c) lb = true ∨ claimable (ctxOf s c) [] (rowSlots s c lb row) = false →
          exec (.rmtWr source job gen tag d data) s = .next s) ∧
        (pocketHeld s (ctxOf s c) lb = false → claimable (ctxOf s c) [] (rowSlots s c lb row) = true →
          ∃ t, exec (.rmtWr source job gen tag d data) s = .next t ∧
            leaves (setCtx (lbWrite s (ctxOf s c) lb row (adOffset d) (leBytes (adLen d) data)) c
              (retireSlots (claimSlots (ctxOf s c) [] (rowSlots s c lb row)) [] (rowSlots s c lb row))) t
              msgRmtRsp job source tag Code.OK)))) ∧
  (∀ (s : State) (tag status data : Nat),
    (tabGet s.pelgan.requests tag = none → exec (.rmtRsp tag status data) s = .next s) ∧
    (∀ q u, tabGet s.pelgan.requests tag = some q →
      u = { s with pelgan := { s.pelgan with requests := tabDel s.pelgan.requests tag } } →
      ((ctxOf s q.ctx).genTag ≠ q.genTag →
        exec (.rmtRsp tag status data) s = .next (bump u Key.RESET_STALE_REPLIES 1)) ∧
      ((ctxOf s q.ctx).genTag = q.genTag → tabGet s.jobs q.job = none → exec (.rmtRsp tag status data) s = .next u) ∧
      (∀ j, (ctxOf s q.ctx).genTag = q.genTag → tabGet s.jobs q.job = some j →
        (openJob j = false ∨ status = Code.OK → exec (.rmtRsp tag status data) s =
          .next { u with jobs := tabUpd s.jobs q.job (replied q data) }) ∧
        (openJob j = true → status ≠ Code.OK → ∃ t, exec (.rmtRsp tag status data) s = .next t ∧
          ends t q.job status 0 ∧ (∀ k, k ≠ q.job → tabGet t.jobs k = tabGet s.jobs k) ∧
          (status = Code.HANDOFF_REFUSED ∧ j.opcode = Op.PACK → OnlyOutcome (bump u Key.PACK_HANDOFF_REFUSALS 1) t) ∧
          (status ≠ Code.HANDOFF_REFUSED ∨ j.opcode ≠ Op.PACK → OnlyOutcome u t))))) ∧
  (∀ (s : State) (tag dest hop : Nat), exec (.rtErr tag dest hop) s = .next s) ∧
  (∀ (s : State) (tag : Nat),
    (tabGet s.pelgan.requests tag = none → exec (.remoteTimeout tag) s = .next s) ∧
    (∀ q u, tabGet s.pelgan.requests tag = some q →
      u = { s with pelgan := { s.pelgan with requests := tabDel s.pelgan.requests tag } } →
      ((∀ j, tabGet s.jobs q.job = some j → openJob j = false) → exec (.remoteTimeout tag) s = .next u) ∧
      (∀ j, tabGet s.jobs q.job = some j → openJob j = true → ∃ t, exec (.remoteTimeout tag) s = .next t ∧
        ends t q.job Code.LINK_DOWN 0 ∧ (∀ k, k ≠ q.job → tabGet t.jobs k = tabGet s.jobs k) ∧ OnlyOutcome u t))) ∧
  (∀ (s : State) (source job gen issuer tag status : Nat) (entries : List (Nat × Nat × Nat)) (last : Bool),
    (jobMessageOk s source job gen = false →
      exec (.zipList source job gen issuer tag status entries last) s = .next (bump s Key.PELGAN_STALE_DROPS 1)) ∧
    (jobMessageOk s source job gen = true → issuer = ownDevice s → spanQuery s job tag = none →
      exec (.zipList source job gen issuer tag status entries last) s = .next s) ∧
    (∀ id q r, jobMessageOk s source job gen = true → issuer = ownDevice s → spanQuery s job tag = some (id, q) →
      q.span = some r → ∃ t, exec (.zipList source job gen issuer tag status entries last) s = .next t ∧
        t.queries = tabUpd s.queries id (fun q => { q with span := some (mergedPass r status entries last) }) ∧
        t = { s with queries := t.queries, ctxs := t.ctxs, regs := t.regs } ∧
        ((mergedPass r status entries last).left ≠ 0 ∨ (∀ j, tabGet s.jobs id = some j → (ctxOf s j.ctx).leaving = false) →
          t.ctxs = s.ctxs ∧ t.regs = s.regs)) ∧
    (∀ p, jobMessageOk s source job gen = true → issuer ≠ ownDevice s → p = shareSoFar s job gen issuer tag →
      ∃ t, exec (.zipList source job gen issuer tag status entries last) s = .next t ∧
        sharesOn s t (spanKey issuer tag) { p with
          hits := if p.started then mergeSpan p.kScan p.hits (spanHits entries) else p.hits ++ spanHits entries
          done := p.done + flagBit last
          status := if p.status == Code.OK then status else p.status })) ∧
  (∀ (s : State) (source job gen tag entry epoch round query : Nat),
    (jobMessageOk s source job gen = false →
      exec (.spanStart source job gen tag entry epoch round query) s = .next (bump s Key.PELGAN_STALE_DROPS 1)) ∧
    (∀ p, jobMessageOk s source job gen = true → p = shareSoFar s job gen source tag →
      ∃ t, exec (.spanStart source job gen tag entry epoch round query) s = .next t ∧
        sharesOn s t (spanKey source tag) { p with
          started := true, kScan := srKscan entry
          hits := mergeSpan (srKscan entry) p.hits (shareOf s entry epoch round query).1
          status := if p.status == Code.OK then (shareOf s entry epoch round query).2 else p.status }))

/-- O60. Job aborts, the dictionary's remote path and the management port. A job abort that is new is counted, sent on
to every other link and, when it concerns a job of this device, marks the job ABORTED and fences its context with
JOB_ABORTED_PEER. A repeat sends the pending aborts again. A DICT_REQ that comes from the manager to a worker is
served, and any other is answered BAD_FIELD; the manager keeps the last DICT_RSP. A management datagram that is
malformed is discarded and counted, a repeated request gets the kept reply, and any other is served. A neighbour
solicitation is answered with the link-local address that the MAC gives. (R356, R358, R364, R365, R368, R369, R370,
R371, R373) -/
def Obligations.AbortsAndPaths : Prop :=
  (∀ (s : State) (port flit : Nat),
    (newAbort s port flit = false → exec (.abortFlit port flit) s = .next s) ∧
    (newAbort s port flit = true → ∃ t, exec (.abortFlit port flit) s = .next t ∧ UnitsKept s t ∧ t.jobs = s.jobs ∧
      counts s t Key.PELGAN_ABORTS_RECEIVED 1 ∧ (abortJob flit, abortGen flit) ∈ t.pelgan.seen ∧
      (∀ l ∈ groupLinks s, l ≠ port →
        .abort l (abortOrigin flit) (abortJob flit) (abortGen flit) (abortCause flit) ∈ t.out) ∧
      (abortConcerns s flit = false → Side (bump { s with pelgan := { s.pelgan with
        seen := (abortJob flit, abortGen flit) :: s.pelgan.seen } } Key.PELGAN_ABORTS_RECEIVED 1) t) ∧
      (abortConcerns s flit = true →
        jobEntry t (abortJob flit) = setField (jobEntry s (abortJob flit)) 8 8 2 ∧
        (ctxOfJob s (abortJob flit) = none → t.ctxs = s.ctxs) ∧
        (∀ c d, ctxOfJob s (abortJob flit) = some c → ctxOf t d = if d = c ∧ standing (ctxOf s c) = true
          then fenced (ctxOf s c) Code.JOB_ABORTED_PEER none else ctxOf s d)))) ∧
  (∀ (s : State), ∃ t, exec .abortRepeat s = .next t ∧
    Side { s with pelgan := { s.pelgan with
      repeats := (s.pelgan.repeats.map (fun r => { r with left := r.left - 1 })).filter (fun r => r.left != 0) } } t ∧
    (sealsLeft s = true → ∀ r ∈ s.pelgan.repeats, ∀ l ∈ groupLinks s, .abort l r.origin r.job r.gen r.cause ∈ t.out)) ∧
  (∀ (s : State) (source tag fields offset data : Nat),
    (s.pelgan.links.any (fun l => l.2.state == .active) = false →
      exec (.dictReq source tag fields offset data) s = .next s) ∧
    (s.pelgan.links.any (fun l => l.2.state == .active) = true →
      (source = 0 → isWorker s = true → ∃ t, exec (.dictReq source tag fields offset data) s = .next t ∧
        Served s t (dictRequest source tag fields offset data)) ∧
      (source ≠ 0 ∨ isWorker s = false → ∃ t, exec (.dictReq source tag fields offset data) s = .next t ∧
        Answered s t (dictRequest source tag fields offset data) Code.BAD_FIELD 0 0))) ∧
  (∀ (s : State) (tag status rlength data : Nat),
    (reg s Key.HEM_ROLE ≠ 1 → exec (.dictRsp tag status rlength data) s = .next s) ∧
    (reg s Key.HEM_ROLE = 1 → exec (.dictRsp tag status rlength data) s =
      .next { s with dict := { s.dict with answer := some (tag, status, rlength, data) } })) ∧
  (∀ (s : State) (source size header data : Nat) (ours : Bool),
    (pathOpen s .mgmt = false → exec (.mgmtDatagram source ours size header data) s = .next s) ∧
    (pathOpen s .mgmt = true → datagramBad source ours size header = true →
      exec (.mgmtDatagram source ours size header data) s = .next (bump s Key.MGMT_DISCARDS 1)) ∧
    (pathOpen s .mgmt = true → datagramBad source ours size header = false →
      (∀ p, s.dict.replay.find? (fun p => p.1 == source && p.2.1 == field header 96 32) = some p →
        ∃ t, exec (.mgmtDatagram source ours size header data) s = .next t ∧
          Side (bump (bump s Key.MGMT_REQUESTS 1) Key.MGMT_REPLAYED 1) t ∧
          t.out = .mgmtReply p.2.2.source (mgmtHeader p.2.2) (p.2.2.status / 256 + 256 * p.2.2.data) :: s.out) ∧
      (s.dict.replay.find? (fun p => p.1 == source && p.2.1 == field header 96 32) = none →
        ∃ t, exec (.mgmtDatagram source ours size header data) s = .next t ∧
          Served (bump s Key.MGMT_REQUESTS 1) t (datagramRequest source header data)))) ∧
  (∀ (s : State),
    (pathOpen s .mgmt = false → exec .neighbourSolicitation s = .next s) ∧
    (pathOpen s .mgmt = true → ∃ t, exec .neighbourSolicitation s = .next t ∧ Side s t ∧
      t.out = .neighbourAdvert (0xFE80 * 2 ^ 112 + ((field (reg s Key.MGMT_MAC) 24 24 ^^^ 0x020000) * 2 ^ 40 +
        0xFFFE * 2 ^ 24 + field (reg s Key.MGMT_MAC) 0 24)) :: s.out))
end

