-- ==== Sys2Proof/Laws/Memory.lean ====
section
/-! SUPPORT. Keyed tables and byte memories: what a read gives after a write, and that every memory operation keeps the
canonical form. -/

namespace Sys2Proof.Machine

/-! ### Tables -/

@[simp] theorem tabGet_tabSet_self {α : Type} (t : Tab α) (a : Nat) (v : α) : tabGet (tabSet t a v) a = some v := by
  induction t with
  | nil => simp [tabSet, tabGet]
  | cons p t ih =>
    obtain ⟨k, w⟩ := p
    unfold tabSet
    split
    · simp [tabGet]
    · split
      · simp [tabGet]
      · have : k ≠ a := fun h => by omega
        simp [tabGet, this, ih]

theorem tabGet_tabSet_ne {α : Type} (t : Tab α) {a b : Nat} (v : α) (h : b ≠ a) :
    tabGet (tabSet t a v) b = tabGet t b := by
  induction t with
  | nil => simp [tabSet, tabGet, h.symm]
  | cons p t ih =>
    obtain ⟨k, w⟩ := p
    unfold tabSet
    split
    · simp [tabGet, h.symm]
    · split
      · next e => subst e; simp [tabGet, h.symm]
      · simp [tabGet, ih]

theorem tabGet_tabSet {α : Type} (t : Tab α) (a b : Nat) (v : α) :
    tabGet (tabSet t a v) b = if b = a then some v else tabGet t b := by
  split
  · next e => subst e; simp
  · next e => exact tabGet_tabSet_ne t v e

theorem tabGet_filter {α : Type} (t : Tab α) (f : Nat → Bool) (b : Nat) :
    tabGet (t.filter (fun p => f p.1)) b = if f b then tabGet t b else none := by
  induction t with
  | nil => simp [tabGet]
  | cons p t ih =>
    obtain ⟨k, w⟩ := p
    by_cases hk : f k <;> by_cases hb : k = b
    · subst hb; simp [tabGet, hk]
    · simp [tabGet, hk, hb, ih]
    · subst hb; simp [hk, ih]
    · simp [tabGet, hk, hb, ih]

@[simp] theorem tabGet_tabDel_self {α : Type} (t : Tab α) (a : Nat) : tabGet (tabDel t a) a = none := by
  have := tabGet_filter t (fun k => k != a) a
  simpa [tabDel] using this

theorem tabGet_tabDel_ne {α : Type} (t : Tab α) {a b : Nat} (h : b ≠ a) : tabGet (tabDel t a) b = tabGet t b := by
  have := tabGet_filter t (fun k => k != a) b
  simpa [tabDel, h] using this

/-- A table whose values are mapped. -/
theorem tabGet_map {α β : Type} (t : Tab α) (f : Nat → α → β) (a : Nat) :
    tabGet (t.map (fun p => (p.1, f p.1 p.2))) a = (tabGet t a).map (f a) := by
  induction t with
  | nil => rfl
  | cons p t ih =>
    obtain ⟨k, v⟩ := p
    simp only [List.map_cons, tabGet]
    split
    · next e => subst e; rfl
    · exact ih

theorem tabGet_tabMap {α : Type} (t : Tab α) (f : Nat → α → α) (a : Nat) :
    tabGet (tabMap t f) a = (tabGet t a).map (f a) := tabGet_map t f a

theorem tabGet_tabUpd_self {α : Type} (t : Tab α) (a : Nat) (f : α → α) :
    tabGet (tabUpd t a f) a = (tabGet t a).map f := by
  induction t with
  | nil => simp [tabUpd, tabGet]
  | cons p t ih =>
    obtain ⟨k, w⟩ := p
    by_cases h : k = a
    · simp [tabUpd, tabGet, h]
    · have : tabUpd ((k, w) :: t) a f = (k, w) :: tabUpd t a f := by simp [tabUpd, h]
      rw [this]; simp [tabGet, h, ih]

theorem tabGet_tabUpd_ne {α : Type} (t : Tab α) {a b : Nat} (f : α → α) (h : b ≠ a) :
    tabGet (tabUpd t a f) b = tabGet t b := by
  induction t with
  | nil => simp [tabUpd]
  | cons p t ih =>
    obtain ⟨k, w⟩ := p
    by_cases hk : k = a
    · have : tabUpd ((k, w) :: t) a f = (k, f w) :: tabUpd t a f := by simp [tabUpd, hk]
      rw [this]; subst hk; simp [tabGet, Ne.symm h, ih]
    · have : tabUpd ((k, w) :: t) a f = (k, w) :: tabUpd t a f := by simp [tabUpd, hk]
      rw [this]; simp [tabGet, ih]

theorem mem_tabSet {α : Type} {t : Tab α} {a : Nat} {v : α} {p : Nat × α} (h : p ∈ tabSet t a v) :
    p = (a, v) ∨ p ∈ t := by
  induction t with
  | nil => simp [tabSet] at h; exact .inl h
  | cons q t ih =>
    obtain ⟨k, w⟩ := q
    unfold tabSet at h
    split at h
    · simpa using h
    · split at h
      · rcases List.mem_cons.1 h with h | h
        · exact .inl h
        · exact .inr (List.mem_cons_of_mem _ h)
      · rcases List.mem_cons.1 h with h | h
        · exact .inr (by simp [h])
        · exact (ih h).imp id (List.mem_cons_of_mem _)

/-! ### The canonical form -/

theorem memWf_iff (m : Mem) :
    memWf m = true ↔ m.Pairwise (fun c d => c.1 < d.1) ∧ ∀ c ∈ m, c.2 ≠ 0 := by
  induction m with
  | nil => simp [memWf]
  | cons c m ih =>
    cases m with
    | nil => simp [memWf]
    | cons d m =>
      have e : memWf (c :: d :: m) = (c.2 != 0 && decide (c.1 < d.1) && memWf (d :: m)) := rfl
      rw [e, Bool.and_eq_true, Bool.and_eq_true, ih, List.pairwise_cons (a := c)]
      constructor
      · rintro ⟨⟨h0, h1⟩, hp, hz⟩
        have h1 : c.1 < d.1 := of_decide_eq_true h1
        refine ⟨⟨fun x hx => ?_, hp⟩, fun x hx => ?_⟩
        · rcases List.mem_cons.1 hx with h | h
          · subst h; exact h1
          · exact Nat.lt_trans h1 ((List.pairwise_cons.1 hp).1 x h)
        · rcases List.mem_cons.1 hx with h | h
          · subst h; simpa using h0
          · exact hz x h
      · rintro ⟨⟨h1, hp⟩, hz⟩
        exact ⟨⟨by simpa using hz c (by simp), decide_eq_true (h1 d (by simp))⟩, hp,
          fun x hx => hz x (List.mem_cons_of_mem _ hx)⟩

theorem pairwise_tabSet {α : Type} {t : Tab α} (a : Nat) (v : α) (h : t.Pairwise (fun c d => c.1 < d.1)) :
    (tabSet t a v).Pairwise (fun c d => c.1 < d.1) := by
  induction t with
  | nil => simp [tabSet]
  | cons p t ih =>
    obtain ⟨k, w⟩ := p
    obtain ⟨hk, ht⟩ := List.pairwise_cons.1 h
    unfold tabSet
    split
    · next hlt =>
      refine List.pairwise_cons.2 ⟨fun x hx => ?_, h⟩
      rcases List.mem_cons.1 hx with hx | hx
      · subst hx; exact hlt
      · exact Nat.lt_trans hlt (hk x hx)
    · split
      · next e => exact List.pairwise_cons.2 ⟨fun x hx => e ▸ hk x hx, ht⟩
      · refine List.pairwise_cons.2 ⟨fun x hx => ?_, ih ht⟩
        rcases mem_tabSet hx with hx | hx
        · subst hx; show k < a; omega
        · exact hk x hx

theorem memWf_filter {m : Mem} (p : Host.Cell → Bool) (h : memWf m = true) : memWf (m.filter p) = true := by
  rw [memWf_iff] at h ⊢
  exact ⟨h.1.filter p, fun c hc => h.2 c (List.mem_filter.1 hc).1⟩

theorem memWf_clear {m : Mem} (a n : Nat) (h : memWf m = true) : memWf (memClear m a n) = true := memWf_filter _ h

theorem memWf_put {m : Mem} (a v : Nat) (h : memWf m = true) : memWf (memPut m a v) = true := by
  unfold memPut
  split
  · exact memWf_filter _ h
  · next hv =>
    rw [memWf_iff] at h ⊢
    refine ⟨pairwise_tabSet a _ h.1, fun c hc => ?_⟩
    rcases mem_tabSet hc with e | e
    · subst e
      intro e0
      have := congrArg BitVec.toNat e0
      simp at this
      omega
    · exact h.2 c e

theorem memWf_write {m : Mem} (a : Nat) (bs : List Nat) (h : memWf m = true) : memWf (memWrite m a bs) = true := by
  induction bs generalizing m a with
  | nil => exact h
  | cons b bs ih => exact ih (a + 1) (memWf_put a b h)

theorem memWf_putNat {m : Mem} (a n v : Nat) (h : memWf m = true) : memWf (memPutNat m a n v) = true :=
  memWf_write a _ h

theorem memWf_foldl {α : Type} (l : List α) (f : Mem → α → Mem) {m : Mem} (h : memWf m = true)
    (hf : ∀ m x, memWf m = true → memWf (f m x) = true) : memWf (l.foldl f m) = true := by
  induction l generalizing m with
  | nil => exact h
  | cons x l ih => exact ih (hf m x h)

theorem memWf_copy (src : Mem) (a n : Nat) {dst : Mem} (b : Nat) (h : memWf dst = true) :
    memWf (memCopy src a n dst b) = true :=
  memWf_foldl _ _ (memWf_clear b n h) (fun _ _ hm => memWf_put _ _ hm)

theorem memWf_nil : memWf [] = true := rfl

/-! ### A read after a write -/

@[simp] theorem memByte_memPut_self (m : Mem) (a v : Nat) : memByte (memPut m a v) a = v % 256 := by
  unfold memPut
  split
  · next h => simp [memByte, h]
  · simp [memByte]

theorem memByte_memPut_ne (m : Mem) {a b : Nat} (v : Nat) (h : b ≠ a) : memByte (memPut m a v) b = memByte m b := by
  unfold memPut
  split
  · rw [memByte, tabGet_tabDel_ne m h, memByte]
  · rw [memByte, tabGet_tabSet_ne m _ h, memByte]

/-- The byte at an address after bytes have been written: the written byte inside the range, the old one outside. -/
theorem memByte_memWrite (m : Mem) (a : Nat) (bs : List Nat) (b : Nat) :
    memByte (memWrite m a bs) b =
      if a ≤ b ∧ b < a + bs.length then bs[b - a]?.getD 0 % 256 else memByte m b := by
  induction bs generalizing m a with
  | nil => simp [memWrite] <;> omega
  | cons x bs ih =>
    simp only [memWrite, ih, List.length_cons]
    by_cases h : b = a
    · subst h
      have h1 : ¬ (b + 1 ≤ b ∧ b < b + 1 + bs.length) := by omega
      simp [h1]
    · rw [memByte_memPut_ne m x h]
      by_cases h2 : a ≤ b ∧ b < a + (bs.length + 1)
      · have h3 : a + 1 ≤ b ∧ b < a + 1 + bs.length := by omega
        have h4 : b - a = b - (a + 1) + 1 := by omega
        simp [h2, h3, h4]
      · have h3 : ¬ (a + 1 ≤ b ∧ b < a + 1 + bs.length) := by omega
        simp only [h2, h3, if_false]

theorem memByte_memWrite_out (m : Mem) (a : Nat) (bs : List Nat) {b : Nat} (h : b < a ∨ a + bs.length ≤ b) :
    memByte (memWrite m a bs) b = memByte m b := by
  rw [memByte_memWrite, if_neg (by omega)]

@[simp] theorem leBytes_length (n v : Nat) : (leBytes n v).length = n := by
  induction n generalizing v with
  | zero => rfl
  | succ n ih => simp [leBytes, ih]

theorem memByte_memPutNat_out (m : Mem) (a n v : Nat) {b : Nat} (h : b < a ∨ a + n ≤ b) :
    memByte (memPutNat m a n v) b = memByte m b := memByte_memWrite_out m a _ (by simpa using h)

theorem memByte_memClear (m : Mem) (a n b : Nat) :
    memByte (memClear m a n) b = if a ≤ b ∧ b < a + n then 0 else memByte m b := by
  have := tabGet_filter m (fun k => decide (k < a) || decide (a + n ≤ k)) b
  simp only [memByte, memClear, this]
  by_cases h : a ≤ b ∧ b < a + n
  · have h1 : ¬ (b < a ∨ a + n ≤ b) := by omega
    simp [h, h1]
  · have h2 : b < a ∨ a + n ≤ b := by omega
    simp only [h, if_false]
    rcases h2 with h2 | h2 <;> simp [h2]

theorem memBytes_length (m : Mem) (a n : Nat) : (memBytes m a n).length = n := by
  induction n generalizing a with
  | zero => rfl
  | succ n ih => simp [memBytes, ih]

theorem ofLeBytes_leBytes (n v : Nat) : ofLeBytes (leBytes n v) = v % 256 ^ n := by
  induction n generalizing v with
  | zero => simp [leBytes, ofLeBytes, Nat.mod_one]
  | succ n ih => simp only [leBytes, ofLeBytes, ih, Nat.pow_succ']; exact (Nat.mod_mul).symm

theorem memBytes_memWrite (m : Mem) (a : Nat) (bs : List Nat) (h : ∀ b ∈ bs, b < 256) :
    memBytes (memWrite m a bs) a bs.length = bs := by
  induction bs generalizing m a with
  | nil => rfl
  | cons b bs ih =>
    have e : memByte (memWrite (memPut m a b) (a + 1) bs) a = b := by
      rw [memByte_memWrite_out _ _ _ (.inl (by omega)), memByte_memPut_self]
      exact Nat.mod_eq_of_lt (h b (by simp))
    simp only [memWrite, List.length_cons, memBytes, e]
    rw [ih _ _ (fun x hx => h x (List.mem_cons_of_mem _ hx))]

theorem leBytes_lt (n v : Nat) : ∀ b ∈ leBytes n v, b < 256 := by
  induction n generalizing v with
  | zero => simp [leBytes]
  | succ n ih =>
    intro b hb
    rcases List.mem_cons.1 hb with e | e
    · subst e; exact Nat.mod_lt _ (by omega)
    · exact ih _ b e

/-- A number written and read again. -/
theorem memNat_memPutNat (m : Mem) (a n v : Nat) : memNat (memPutNat m a n v) a n = v % 256 ^ n := by
  have := memBytes_memWrite m a (leBytes n v) (leBytes_lt n v)
  rw [leBytes_length] at this
  rw [memNat, memPutNat, this, ofLeBytes_leBytes]

end Sys2Proof.Machine
end

