-- ==== Sys2Proof/Laws/Keeps.lean ====
section
/-! SUPPORT. The relation `Keeps` between the state before an operation and the state after it, and how it passes through
the forms that definitions of State are written in. -/

namespace Sys2Proof.Machine

/-- What no command changes in the EEPROM: what the factory wrote there; and its quarantine count never falls. -/
structure EepromKeeps (e f : Eeprom) : Prop where
  serial : f.serial = e.serial
  mac : f.mac = e.mac
  blockStep : f.blockStep = e.blockStep
  pubkey : f.pubkey = e.pubkey
  cert : f.cert = e.cert
  identity : f.identity = e.identity
  trims : f.trims = e.trims
  quarantines : e.quarantines ≤ f.quarantines

theorem EepromKeeps.refl (e : Eeprom) : EepromKeeps e e := ⟨rfl, rfl, rfl, rfl, rfl, rfl, rfl, Nat.le_refl _⟩

theorem EepromKeeps.trans {a b c : Eeprom} (h : EepromKeeps a b) (k : EepromKeeps b c) : EepromKeeps a c :=
  ⟨k.1.trans h.1, k.2.trans h.2, k.3.trans h.3, k.4.trans h.4, k.5.trans h.5, k.6.trans h.6, k.7.trans h.7,
    Nat.le_trans h.8 k.8⟩

/-- The memories of a state in canonical form, as a conjunction. -/
theorem memWf_parts (s : State) : s.memWf = true ↔ memWf s.mem.dev = true ∧ memWf s.mem.comp = true ∧
    memWf s.mem.durable = true ∧ memWf s.pocket = true ∧ memWf s.dict.mailbox = true := by
  simp [State.memWf, and_assoc]

/-- The commands' and the links' keys rise in new tables when they do in the old ones. -/
structure KeysOk (j : Tab Job) (l : Tab LinkEnd) (j' : Tab Job) (l' : Tab LinkEnd) : Prop where
  jobs : tabRising j → tabRising j'
  links : tabRising l → tabRising l'

theorem KeysOk.refl (j : Tab Job) (l : Tab LinkEnd) : KeysOk j l j l := ⟨fun w => w, fun w => w⟩

theorem keysOk_jobs {j j' : Tab Job} {l : Tab LinkEnd} (h : tabRising j → tabRising j') : KeysOk j l j' l := ⟨h, fun w => w⟩

theorem keysOk_links {j : Tab Job} {l l' : Tab LinkEnd} (h : tabRising l → tabRising l') : KeysOk j l j l' := ⟨fun w => w, h⟩

theorem KeysOk.trans {j j' j'' : Tab Job} {l l' l'' : Tab LinkEnd} (h : KeysOk j l j' l') (k : KeysOk j' l' j'' l'') :
    KeysOk j l j'' l'' := ⟨fun w => k.1 (h.1 w), fun w => k.2 (h.2 w)⟩

/-! ### Tables whose keys rise -/

theorem rising_iff {α : Type} (t : Tab α) : tabRising t ↔ t.Pairwise (fun c d => c.1 < d.1) := by
  unfold tabRising tabKeys
  rw [List.pairwise_map]

theorem rising_nil {α : Type} : tabRising ([] : Tab α) := List.Pairwise.nil

theorem rising_set {α : Type} {t : Tab α} (a : Nat) (v : α) (h : tabRising t) : tabRising (tabSet t a v) :=
  (rising_iff _).2 (pairwise_tabSet a v ((rising_iff t).1 h))

theorem rising_del {α : Type} {t : Tab α} (a : Nat) (h : tabRising t) : tabRising (tabDel t a) :=
  (rising_iff _).2 (((rising_iff t).1 h).filter _)

theorem tabKeys_tabUpd {α : Type} (t : Tab α) (a : Nat) (f : α → α) : tabKeys (tabUpd t a f) = tabKeys t := by
  unfold tabKeys tabUpd
  rw [List.map_map]
  refine List.map_congr_left fun p _ => ?_
  dsimp only [Function.comp]
  split <;> rfl

theorem tabKeys_tabMap {α : Type} (t : Tab α) (f : Nat → α → α) : tabKeys (tabMap t f) = tabKeys t := by
  unfold tabKeys tabMap
  rw [List.map_map]
  rfl

theorem rising_upd {α : Type} {t : Tab α} (a : Nat) (f : α → α) (h : tabRising t) : tabRising (tabUpd t a f) := by
  unfold tabRising
  rw [tabKeys_tabUpd]
  exact h

theorem rising_map {α : Type} {t : Tab α} (f : Nat → α → α) (h : tabRising t) : tabRising (tabMap t f) := by
  unfold tabRising
  rw [tabKeys_tabMap]
  exact h

/-- An operation leaves the queue and the factory's data alone, and keeps the memories and the tables canonical. -/
structure Keeps (s t : State) : Prop where
  pending : t.pending = s.pending
  eeprom : EepromKeeps s.eeprom t.eeprom
  wf : s.memWf = true → t.memWf = true
  keys : KeysOk s.jobs s.pelgan.links t.jobs t.pelgan.links

theorem Keeps.refl (s : State) : Keeps s s := ⟨rfl, .refl _, id, ⟨id, id⟩⟩

theorem Keeps.trans {a b c : State} (h : Keeps a b) (k : Keeps b c) : Keeps a c :=
  ⟨k.1.trans h.1, h.2.trans k.2, fun w => k.3 (h.3 w), h.4.trans k.4⟩

theorem memWf_of_same {s t : State} (h1 : t.mem.dev = s.mem.dev) (h2 : t.mem.comp = s.mem.comp)
    (h3 : t.mem.durable = s.mem.durable) (h4 : t.pocket = s.pocket) (h5 : t.dict.mailbox = s.dict.mailbox)
    (w : s.memWf = true) : t.memWf = true := by
  rw [memWf_parts] at w ⊢
  rw [h1, h2, h3, h4, h5]
  exact w

/-- The bytes of the memories are the same. -/
structure SameBytes (m n : MemS) : Prop where
  dev : n.dev = m.dev
  comp : n.comp = m.comp
  durable : n.durable = m.durable

/-- The mailbox is the same. -/
structure SameBox (d e : DictS) : Prop where
  mailbox : e.mailbox = d.mailbox

/-- A change of anything but the queue, the EEPROM, the Pockets and the bytes of a memory. -/
theorem keeps_mk {s0 t : State}
    {start' : StartState} {fatal' : Bool} {alerts' : List AlertCause} {regs' : Tab Nat} {dict' : DictS} {hem' :
    HemS} {queues' : Tab Queue} {jobs' : Tab Job} {jobNext' : Nat} {ctxs' : Tab Ctx} {models' : Tab Model} {vocabs'
    : Tab Vocab} {indexes' : Tab Index} {copies' : Tab Index} {queries' : Tab Query} {spans' : Tab SpanShare} {belt'
    : BeltS} {kv' : Tab KvPage} {gens' : Tab GenReq} {grammars' : Tab Grammar} {acc' : Tab Nat} {array' : ArrayS}
    {mem' : MemS} {aedup' : AedupS} {pelgan' : PelganS} {chip' : ChipS} {sec' : SecS} {power' : PowerS} {test' :
    TestS} {perf' : PerfS} {log' : List LogEntry} {out' : List Out} {freeCount' : Nat}
    (h : Keeps s0 t) (hm : SameBytes t.mem mem') (hd : SameBox t.dict dict')
    (hk : KeysOk t.jobs t.pelgan.links jobs' pelgan'.links) :
    Keeps s0 (State.mk t.pending start' fatal' alerts' regs' t.eeprom dict' hem' queues' jobs' jobNext' ctxs' models' vocabs'
      indexes' copies' queries' spans' belt' kv' gens' grammars' t.pocket acc' array' mem' aedup' pelgan' chip'
      sec' power' test' perf' log' out' freeCount') :=
  ⟨h.1, h.2, fun w => memWf_of_same hm.1 hm.2 hm.3 rfl hd.1 (h.3 w), h.4.trans hk⟩

/-- New memories, Pockets and mailbox are in canonical form when the old ones are. -/
structure BytesOk (t : State) (m : MemS) (p : Mem) (d : DictS) : Prop where
  ok : t.memWf = true → memWf m.dev = true ∧ memWf m.comp = true ∧ memWf m.durable = true ∧ memWf p = true ∧
    memWf d.mailbox = true

theorem BytesOk.of {t : State} {m : MemS} {p : Mem} {d : DictS}
    (h : memWf t.mem.dev = true → memWf t.mem.comp = true → memWf t.mem.durable = true → memWf t.pocket = true →
      memWf t.dict.mailbox = true → memWf m.dev = true ∧ memWf m.comp = true ∧ memWf m.durable = true ∧
      memWf p = true ∧ memWf d.mailbox = true) : BytesOk t m p d :=
  ⟨fun w => let ⟨a, b, c, d, e⟩ := (memWf_parts t).1 w; h a b c d e⟩

/-- A change of anything but the queue. -/
theorem keeps_mk_full {s0 t : State}
    {start' : StartState} {fatal' : Bool} {alerts' : List AlertCause} {regs' : Tab Nat} {dict' : DictS} {hem' :
    HemS} {queues' : Tab Queue} {jobs' : Tab Job} {jobNext' : Nat} {ctxs' : Tab Ctx} {models' : Tab Model} {vocabs'
    : Tab Vocab} {indexes' : Tab Index} {copies' : Tab Index} {queries' : Tab Query} {spans' : Tab SpanShare} {belt'
    : BeltS} {kv' : Tab KvPage} {gens' : Tab GenReq} {grammars' : Tab Grammar} {eeprom' : Eeprom} {pocket' : Mem} {acc' : Tab Nat} {array' : ArrayS}
    {mem' : MemS} {aedup' : AedupS} {pelgan' : PelganS} {chip' : ChipS} {sec' : SecS} {power' : PowerS} {test' :
    TestS} {perf' : PerfS} {log' : List LogEntry} {out' : List Out} {freeCount' : Nat}
    (h : Keeps s0 t) (he : EepromKeeps t.eeprom eeprom') (hb : BytesOk t mem' pocket' dict')
    (hk : KeysOk t.jobs t.pelgan.links jobs' pelgan'.links) :
    Keeps s0 (State.mk t.pending start' fatal' alerts' regs' eeprom' dict' hem' queues' jobs' jobNext' ctxs' models' vocabs'
      indexes' copies' queries' spans' belt' kv' gens' grammars' pocket' acc' array' mem' aedup' pelgan' chip'
      sec' power' test' perf' log' out' freeCount') :=
  ⟨h.1, h.2.trans he, fun w => (memWf_parts _).2 (hb.1 (h.3 w)), h.4.trans hk⟩

/-- A state built anew, with the queue of a state that keeps. -/
theorem Keeps.rebuilt {s0 t u : State} (h : Keeps s0 t) (hp : u.pending = s0.pending)
    (he : EepromKeeps t.eeprom u.eeprom)
    (hb : memWf t.mem.dev = true → memWf t.mem.comp = true → memWf t.mem.durable = true → memWf t.pocket = true →
      memWf t.dict.mailbox = true → memWf u.mem.dev = true ∧ memWf u.mem.comp = true ∧ memWf u.mem.durable = true ∧
      memWf u.pocket = true ∧ memWf u.dict.mailbox = true)
    (hk : KeysOk t.jobs t.pelgan.links u.jobs u.pelgan.links) : Keeps s0 u :=
  ⟨hp, h.2.trans he, fun w => (memWf_parts _).2 ((BytesOk.of hb).1 (h.3 w)), h.4.trans hk⟩

theorem keeps_ite {s0 a b : State} {c : Prop} [Decidable c] (ha : Keeps s0 a) (hb : Keeps s0 b) :
    Keeps s0 (if c then a else b) := by split <;> assumption

theorem keeps_foldl {α : Type} {s0 s : State} {l : List α} {f : State → α → State} (h : Keeps s0 s)
    (hf : ∀ t x, Keeps s0 t → Keeps s0 (f t x)) : Keeps s0 (l.foldl f s) := by
  induction l generalizing s with
  | nil => exact h
  | cons x l ih => exact ih (hf s x h)

/-! ### Pairs -/

theorem keeps_snd {α : Type} {s0 t : State} {x : α} (h : Keeps s0 t) : Keeps s0 (x, t).2 := h
theorem keeps_fst {α : Type} {s0 t : State} {x : α} (h : Keeps s0 t) : Keeps s0 (t, x).1 := h

theorem keeps_ite_snd {α : Type} {s0 : State} {a b : α × State} {c : Prop} [Decidable c] (ha : Keeps s0 a.2)
    (hb : Keeps s0 b.2) : Keeps s0 (if c then a else b).2 := by split <;> assumption

theorem keeps_ite_fst {α : Type} {s0 : State} {a b : State × α} {c : Prop} [Decidable c] (ha : Keeps s0 a.1)
    (hb : Keeps s0 b.1) : Keeps s0 (if c then a else b).1 := by split <;> assumption

theorem keeps_pair_snd {α : Type} {s0 t : State} {r : α × State} {x : α} (e : r = (x, t)) (h : Keeps s0 r.2) :
    Keeps s0 t := by subst e; exact h

theorem keeps_pair_fst {α : Type} {s0 t : State} {r : State × α} {x : α} (e : r = (t, x)) (h : Keeps s0 r.1) :
    Keeps s0 t := by subst e; exact h

theorem keeps_foldl_snd {α β : Type} {s0 : State} {l : List α} {f : β × State → α → β × State} {p : β × State}
    (h : Keeps s0 p.2) (hf : ∀ q x, Keeps s0 q.2 → Keeps s0 (f q x).2) : Keeps s0 (l.foldl f p).2 := by
  induction l generalizing p with
  | nil => exact h
  | cons x l ih => exact ih (hf p x h)

theorem keeps_foldl_fst {α β : Type} {s0 : State} {l : List α} {f : State × β → α → State × β} {p : State × β}
    (h : Keeps s0 p.1) (hf : ∀ q x, Keeps s0 q.1 → Keeps s0 (f q x).1) : Keeps s0 (l.foldl f p).1 := by
  induction l generalizing p with
  | nil => exact h
  | cons x l ih => exact ih (hf p x h)

/-! ### Options, and answers that hold a state -/

/-- The state that an option holds keeps. -/
structure OptKeeps (s0 : State) (r : Option State) : Prop where
  state : ∀ t, r = some t → Keeps s0 t

theorem optKeeps_none {s0 : State} : OptKeeps s0 none := ⟨fun _ e => absurd e.symm (Option.some_ne_none _)⟩
theorem optKeeps_some {s0 t : State} (h : Keeps s0 t) : OptKeeps s0 (some t) := ⟨fun _ e => Option.some.inj e ▸ h⟩
theorem optKeeps_ite {s0 : State} {a b : Option State} {c : Prop} [Decidable c] (ha : OptKeeps s0 a)
    (hb : OptKeeps s0 b) : OptKeeps s0 (if c then a else b) := by split <;> assumption
theorem keeps_opt {s0 t : State} {r : Option State} (e : r = some t) (h : OptKeeps s0 r) : Keeps s0 t := h.state t e

/-- The state that a sum holds on its right keeps. -/
structure SumKeeps {α : Type} (s0 : State) (r : α ⊕ State) : Prop where
  state : ∀ t, r = .inr t → Keeps s0 t

theorem sumKeeps_inl {α : Type} {s0 : State} {x : α} : SumKeeps s0 (.inl x : α ⊕ State) :=
  ⟨fun _ e => absurd e Sum.inl_ne_inr⟩
theorem sumKeeps_inr {α : Type} {s0 t : State} (h : Keeps s0 t) : SumKeeps s0 (.inr t : α ⊕ State) :=
  ⟨fun _ e => Sum.inr.inj e ▸ h⟩
theorem sumKeeps_ite {α : Type} {s0 : State} {a b : α ⊕ State} {c : Prop} [Decidable c] (ha : SumKeeps s0 a)
    (hb : SumKeeps s0 b) : SumKeeps s0 (if c then a else b) := by split <;> assumption
theorem keeps_sum {α : Type} {s0 t : State} {r : α ⊕ State} (e : r = .inr t) (h : SumKeeps s0 r) : Keeps s0 t :=
  h.state t e

/-- The state of a write's preparation keeps. -/
structure WritePrep.Keeps (s0 : State) (r : WritePrep) : Prop where
  ready : ∀ t, r = .ready t → Machine.Keeps s0 t
  wait : ∀ t, r = .wait t → Machine.Keeps s0 t
  fail : ∀ t n, r = .fail t n → Machine.Keeps s0 t

theorem keeps_prep_ready {s0 t : State} {r : WritePrep} (e : r = .ready t) (h : r.Keeps s0) : Keeps s0 t :=
  h.ready _ e
theorem keeps_prep_wait {s0 t : State} {r : WritePrep} (e : r = .wait t) (h : r.Keeps s0) : Keeps s0 t :=
  h.wait _ e
theorem keeps_prep_fail {s0 t : State} {r : WritePrep} {n : Nat} (e : r = .fail t n) (h : r.Keeps s0) : Keeps s0 t :=
  h.fail _ _ e
theorem prep_ready {s0 t : State} (h : Keeps s0 t) : (WritePrep.ready t).Keeps s0 :=
  ⟨fun _ e => by injection e with e; exact e ▸ h,
    fun _ e => by injection e,
    fun _ _ e => by injection e⟩
theorem prep_wait {s0 t : State} (h : Keeps s0 t) : (WritePrep.wait t).Keeps s0 :=
  ⟨fun _ e => by injection e,
    fun _ e => by injection e with e; exact e ▸ h,
    fun _ _ e => by injection e⟩
theorem prep_fail {s0 t : State} {n : Nat} (h : Keeps s0 t) : (WritePrep.fail t n).Keeps s0 :=
  ⟨fun _ e => by injection e,
    fun _ e => by injection e,
    fun _ _ e => by injection e with e; exact e ▸ h⟩
theorem prep_ite {s0 : State} {a b : WritePrep} {c : Prop} [Decidable c] (ha : a.Keeps s0) (hb : b.Keeps s0) :
    (if c then a else b).Keeps s0 := by split <;> assumption

/-- The state of an allocation keeps. -/
structure Alloc.Keeps (s0 : State) (r : Alloc) : Prop where
  wait : ∀ t, r = .wait t → Machine.Keeps s0 t

theorem keeps_alloc_wait {s0 t : State} {r : Alloc} (e : r = .wait t) (h : r.Keeps s0) : Keeps s0 t :=
  h.wait _ e
theorem alloc_home {s0 : State} {n : Nat} : (Alloc.home n).Keeps s0 :=
  ⟨fun _ e => by injection e⟩
theorem alloc_wait {s0 t : State} (h : Keeps s0 t) : (Alloc.wait t).Keeps s0 :=
  ⟨fun _ e => by injection e with e; exact e ▸ h⟩
theorem alloc_fail {s0 : State} : (Alloc.fail).Keeps s0 :=
  ⟨fun _ e => by injection e⟩
theorem alloc_ite {s0 : State} {a b : Alloc} {c : Prop} [Decidable c] (ha : a.Keeps s0) (hb : b.Keeps s0) :
    (if c then a else b).Keeps s0 := by split <;> assumption

/-- The state of a reserved save area keeps. -/
structure Reserve.Keeps (s0 : State) (r : Reserve) : Prop where
  held : ∀ t n, r = .held t n → Machine.Keeps s0 t
  wait : ∀ t, r = .wait t → Machine.Keeps s0 t

theorem keeps_reserve_held {s0 t : State} {r : Reserve} {n : Nat} (e : r = .held t n) (h : r.Keeps s0) : Keeps s0 t :=
  h.held _ _ e
theorem keeps_reserve_wait {s0 t : State} {r : Reserve} (e : r = .wait t) (h : r.Keeps s0) : Keeps s0 t :=
  h.wait _ e
theorem reserve_held {s0 t : State} {n : Nat} (h : Keeps s0 t) : (Reserve.held t n).Keeps s0 :=
  ⟨fun _ _ e => by injection e with e; exact e ▸ h,
    fun _ e => by injection e⟩
theorem reserve_wait {s0 t : State} (h : Keeps s0 t) : (Reserve.wait t).Keeps s0 :=
  ⟨fun _ _ e => by injection e,
    fun _ e => by injection e with e; exact e ▸ h⟩
theorem reserve_fail {s0 : State} : (Reserve.fail).Keeps s0 :=
  ⟨fun _ _ e => by injection e,
    fun _ e => by injection e⟩
theorem reserve_ite {s0 : State} {a b : Reserve} {c : Prop} [Decidable c] (ha : a.Keeps s0) (hb : b.Keeps s0) :
    (if c then a else b).Keeps s0 := by split <;> assumption

/-- The state of a page taken keeps. -/
structure TakePage.Keeps (s0 : State) (r : TakePage) : Prop where
  held : ∀ t n, r = .held t n → Machine.Keeps s0 t
  wait : ∀ t, r = .wait t → Machine.Keeps s0 t

theorem keeps_take_held {s0 t : State} {r : TakePage} {n : Nat} (e : r = .held t n) (h : r.Keeps s0) : Keeps s0 t :=
  h.held _ _ e
theorem keeps_take_wait {s0 t : State} {r : TakePage} (e : r = .wait t) (h : r.Keeps s0) : Keeps s0 t :=
  h.wait _ e
theorem take_held {s0 t : State} {n : Nat} (h : Keeps s0 t) : (TakePage.held t n).Keeps s0 :=
  ⟨fun _ _ e => by injection e with e; exact e ▸ h,
    fun _ e => by injection e⟩
theorem take_wait {s0 t : State} (h : Keeps s0 t) : (TakePage.wait t).Keeps s0 :=
  ⟨fun _ _ e => by injection e,
    fun _ e => by injection e with e; exact e ▸ h⟩
theorem take_fail {s0 : State} : (TakePage.fail).Keeps s0 :=
  ⟨fun _ _ e => by injection e,
    fun _ e => by injection e⟩
theorem take_ite {s0 : State} {a b : TakePage} {c : Prop} [Decidable c] (ha : a.Keeps s0) (hb : b.Keeps s0) :
    (if c then a else b).Keeps s0 := by split <;> assumption

/-! ### Answers of commands -/

/-- A command's answer is a next state that keeps. -/
def Answers (s : State) (r : Host.Outcome State Fault Refusal) : Prop := ∃ t, r = .next t ∧ Keeps s t

theorem answers_next {s t : State} (h : Keeps s t) : Answers s (.next t) := ⟨t, rfl, h⟩

end Sys2Proof.Machine
end

