-- ==== Sys2Proof/Laws/State.lean ====
section
/-! SUPPORT. The fields of State after the updates that the operations share, one lemma for each field. -/

namespace Sys2Proof.Machine

/-! ### `setReg` -/

@[simp] theorem setReg_pending (s : State) (k v : Nat) : (setReg s k v).pending = s.pending := rfl
@[simp] theorem setReg_start (s : State) (k v : Nat) : (setReg s k v).start = s.start := rfl
@[simp] theorem setReg_fatal (s : State) (k v : Nat) : (setReg s k v).fatal = s.fatal := rfl
@[simp] theorem setReg_alerts (s : State) (k v : Nat) : (setReg s k v).alerts = s.alerts := rfl
@[simp] theorem setReg_eeprom (s : State) (k v : Nat) : (setReg s k v).eeprom = s.eeprom := rfl
@[simp] theorem setReg_dict (s : State) (k v : Nat) : (setReg s k v).dict = s.dict := rfl
@[simp] theorem setReg_hem (s : State) (k v : Nat) : (setReg s k v).hem = s.hem := rfl
@[simp] theorem setReg_queues (s : State) (k v : Nat) : (setReg s k v).queues = s.queues := rfl
@[simp] theorem setReg_jobs (s : State) (k v : Nat) : (setReg s k v).jobs = s.jobs := rfl
@[simp] theorem setReg_jobNext (s : State) (k v : Nat) : (setReg s k v).jobNext = s.jobNext := rfl
@[simp] theorem setReg_ctxs (s : State) (k v : Nat) : (setReg s k v).ctxs = s.ctxs := rfl
@[simp] theorem setReg_models (s : State) (k v : Nat) : (setReg s k v).models = s.models := rfl
@[simp] theorem setReg_vocabs (s : State) (k v : Nat) : (setReg s k v).vocabs = s.vocabs := rfl
@[simp] theorem setReg_indexes (s : State) (k v : Nat) : (setReg s k v).indexes = s.indexes := rfl
@[simp] theorem setReg_copies (s : State) (k v : Nat) : (setReg s k v).copies = s.copies := rfl
@[simp] theorem setReg_queries (s : State) (k v : Nat) : (setReg s k v).queries = s.queries := rfl
@[simp] theorem setReg_spans (s : State) (k v : Nat) : (setReg s k v).spans = s.spans := rfl
@[simp] theorem setReg_belt (s : State) (k v : Nat) : (setReg s k v).belt = s.belt := rfl
@[simp] theorem setReg_kv (s : State) (k v : Nat) : (setReg s k v).kv = s.kv := rfl
@[simp] theorem setReg_gens (s : State) (k v : Nat) : (setReg s k v).gens = s.gens := rfl
@[simp] theorem setReg_grammars (s : State) (k v : Nat) : (setReg s k v).grammars = s.grammars := rfl
@[simp] theorem setReg_pocket (s : State) (k v : Nat) : (setReg s k v).pocket = s.pocket := rfl
@[simp] theorem setReg_acc (s : State) (k v : Nat) : (setReg s k v).acc = s.acc := rfl
@[simp] theorem setReg_array (s : State) (k v : Nat) : (setReg s k v).array = s.array := rfl
@[simp] theorem setReg_mem (s : State) (k v : Nat) : (setReg s k v).mem = s.mem := rfl
@[simp] theorem setReg_aedup (s : State) (k v : Nat) : (setReg s k v).aedup = s.aedup := rfl
@[simp] theorem setReg_pelgan (s : State) (k v : Nat) : (setReg s k v).pelgan = s.pelgan := rfl
@[simp] theorem setReg_chip (s : State) (k v : Nat) : (setReg s k v).chip = s.chip := rfl
@[simp] theorem setReg_sec (s : State) (k v : Nat) : (setReg s k v).sec = s.sec := rfl
@[simp] theorem setReg_power (s : State) (k v : Nat) : (setReg s k v).power = s.power := rfl
@[simp] theorem setReg_test (s : State) (k v : Nat) : (setReg s k v).test = s.test := rfl
@[simp] theorem setReg_perf (s : State) (k v : Nat) : (setReg s k v).perf = s.perf := rfl
@[simp] theorem setReg_log (s : State) (k v : Nat) : (setReg s k v).log = s.log := rfl
@[simp] theorem setReg_out (s : State) (k v : Nat) : (setReg s k v).out = s.out := rfl
@[simp] theorem setReg_freeCount (s : State) (k v : Nat) : (setReg s k v).freeCount = s.freeCount := rfl

/-! ### `bump` -/

@[simp] theorem bump_pending (s : State) (k n : Nat) : (bump s k n).pending = s.pending := rfl
@[simp] theorem bump_start (s : State) (k n : Nat) : (bump s k n).start = s.start := rfl
@[simp] theorem bump_fatal (s : State) (k n : Nat) : (bump s k n).fatal = s.fatal := rfl
@[simp] theorem bump_alerts (s : State) (k n : Nat) : (bump s k n).alerts = s.alerts := rfl
@[simp] theorem bump_eeprom (s : State) (k n : Nat) : (bump s k n).eeprom = s.eeprom := rfl
@[simp] theorem bump_dict (s : State) (k n : Nat) : (bump s k n).dict = s.dict := rfl
@[simp] theorem bump_hem (s : State) (k n : Nat) : (bump s k n).hem = s.hem := rfl
@[simp] theorem bump_queues (s : State) (k n : Nat) : (bump s k n).queues = s.queues := rfl
@[simp] theorem bump_jobs (s : State) (k n : Nat) : (bump s k n).jobs = s.jobs := rfl
@[simp] theorem bump_jobNext (s : State) (k n : Nat) : (bump s k n).jobNext = s.jobNext := rfl
@[simp] theorem bump_ctxs (s : State) (k n : Nat) : (bump s k n).ctxs = s.ctxs := rfl
@[simp] theorem bump_models (s : State) (k n : Nat) : (bump s k n).models = s.models := rfl
@[simp] theorem bump_vocabs (s : State) (k n : Nat) : (bump s k n).vocabs = s.vocabs := rfl
@[simp] theorem bump_indexes (s : State) (k n : Nat) : (bump s k n).indexes = s.indexes := rfl
@[simp] theorem bump_copies (s : State) (k n : Nat) : (bump s k n).copies = s.copies := rfl
@[simp] theorem bump_queries (s : State) (k n : Nat) : (bump s k n).queries = s.queries := rfl
@[simp] theorem bump_spans (s : State) (k n : Nat) : (bump s k n).spans = s.spans := rfl
@[simp] theorem bump_belt (s : State) (k n : Nat) : (bump s k n).belt = s.belt := rfl
@[simp] theorem bump_kv (s : State) (k n : Nat) : (bump s k n).kv = s.kv := rfl
@[simp] theorem bump_gens (s : State) (k n : Nat) : (bump s k n).gens = s.gens := rfl
@[simp] theorem bump_grammars (s : State) (k n : Nat) : (bump s k n).grammars = s.grammars := rfl
@[simp] theorem bump_pocket (s : State) (k n : Nat) : (bump s k n).pocket = s.pocket := rfl
@[simp] theorem bump_acc (s : State) (k n : Nat) : (bump s k n).acc = s.acc := rfl
@[simp] theorem bump_array (s : State) (k n : Nat) : (bump s k n).array = s.array := rfl
@[simp] theorem bump_mem (s : State) (k n : Nat) : (bump s k n).mem = s.mem := rfl
@[simp] theorem bump_aedup (s : State) (k n : Nat) : (bump s k n).aedup = s.aedup := rfl
@[simp] theorem bump_pelgan (s : State) (k n : Nat) : (bump s k n).pelgan = s.pelgan := rfl
@[simp] theorem bump_chip (s : State) (k n : Nat) : (bump s k n).chip = s.chip := rfl
@[simp] theorem bump_sec (s : State) (k n : Nat) : (bump s k n).sec = s.sec := rfl
@[simp] theorem bump_power (s : State) (k n : Nat) : (bump s k n).power = s.power := rfl
@[simp] theorem bump_test (s : State) (k n : Nat) : (bump s k n).test = s.test := rfl
@[simp] theorem bump_perf (s : State) (k n : Nat) : (bump s k n).perf = s.perf := rfl
@[simp] theorem bump_log (s : State) (k n : Nat) : (bump s k n).log = s.log := rfl
@[simp] theorem bump_out (s : State) (k n : Nat) : (bump s k n).out = s.out := rfl
@[simp] theorem bump_freeCount (s : State) (k n : Nat) : (bump s k n).freeCount = s.freeCount := rfl

/-! ### `setCtx` -/

@[simp] theorem setCtx_pending (s : State) (c : Nat) (x : Ctx) : (setCtx s c x).pending = s.pending := rfl
@[simp] theorem setCtx_start (s : State) (c : Nat) (x : Ctx) : (setCtx s c x).start = s.start := rfl
@[simp] theorem setCtx_fatal (s : State) (c : Nat) (x : Ctx) : (setCtx s c x).fatal = s.fatal := rfl
@[simp] theorem setCtx_alerts (s : State) (c : Nat) (x : Ctx) : (setCtx s c x).alerts = s.alerts := rfl
@[simp] theorem setCtx_regs (s : State) (c : Nat) (x : Ctx) : (setCtx s c x).regs = s.regs := rfl
@[simp] theorem setCtx_eeprom (s : State) (c : Nat) (x : Ctx) : (setCtx s c x).eeprom = s.eeprom := rfl
@[simp] theorem setCtx_dict (s : State) (c : Nat) (x : Ctx) : (setCtx s c x).dict = s.dict := rfl
@[simp] theorem setCtx_hem (s : State) (c : Nat) (x : Ctx) : (setCtx s c x).hem = s.hem := rfl
@[simp] theorem setCtx_queues (s : State) (c : Nat) (x : Ctx) : (setCtx s c x).queues = s.queues := rfl
@[simp] theorem setCtx_jobs (s : State) (c : Nat) (x : Ctx) : (setCtx s c x).jobs = s.jobs := rfl
@[simp] theorem setCtx_jobNext (s : State) (c : Nat) (x : Ctx) : (setCtx s c x).jobNext = s.jobNext := rfl
@[simp] theorem setCtx_models (s : State) (c : Nat) (x : Ctx) : (setCtx s c x).models = s.models := rfl
@[simp] theorem setCtx_vocabs (s : State) (c : Nat) (x : Ctx) : (setCtx s c x).vocabs = s.vocabs := rfl
@[simp] theorem setCtx_indexes (s : State) (c : Nat) (x : Ctx) : (setCtx s c x).indexes = s.indexes := rfl
@[simp] theorem setCtx_copies (s : State) (c : Nat) (x : Ctx) : (setCtx s c x).copies = s.copies := rfl
@[simp] theorem setCtx_queries (s : State) (c : Nat) (x : Ctx) : (setCtx s c x).queries = s.queries := rfl
@[simp] theorem setCtx_spans (s : State) (c : Nat) (x : Ctx) : (setCtx s c x).spans = s.spans := rfl
@[simp] theorem setCtx_belt (s : State) (c : Nat) (x : Ctx) : (setCtx s c x).belt = s.belt := rfl
@[simp] theorem setCtx_kv (s : State) (c : Nat) (x : Ctx) : (setCtx s c x).kv = s.kv := rfl
@[simp] theorem setCtx_gens (s : State) (c : Nat) (x : Ctx) : (setCtx s c x).gens = s.gens := rfl
@[simp] theorem setCtx_grammars (s : State) (c : Nat) (x : Ctx) : (setCtx s c x).grammars = s.grammars := rfl
@[simp] theorem setCtx_pocket (s : State) (c : Nat) (x : Ctx) : (setCtx s c x).pocket = s.pocket := rfl
@[simp] theorem setCtx_acc (s : State) (c : Nat) (x : Ctx) : (setCtx s c x).acc = s.acc := rfl
@[simp] theorem setCtx_array (s : State) (c : Nat) (x : Ctx) : (setCtx s c x).array = s.array := rfl
@[simp] theorem setCtx_mem (s : State) (c : Nat) (x : Ctx) : (setCtx s c x).mem = s.mem := rfl
@[simp] theorem setCtx_aedup (s : State) (c : Nat) (x : Ctx) : (setCtx s c x).aedup = s.aedup := rfl
@[simp] theorem setCtx_pelgan (s : State) (c : Nat) (x : Ctx) : (setCtx s c x).pelgan = s.pelgan := rfl
@[simp] theorem setCtx_chip (s : State) (c : Nat) (x : Ctx) : (setCtx s c x).chip = s.chip := rfl
@[simp] theorem setCtx_sec (s : State) (c : Nat) (x : Ctx) : (setCtx s c x).sec = s.sec := rfl
@[simp] theorem setCtx_power (s : State) (c : Nat) (x : Ctx) : (setCtx s c x).power = s.power := rfl
@[simp] theorem setCtx_test (s : State) (c : Nat) (x : Ctx) : (setCtx s c x).test = s.test := rfl
@[simp] theorem setCtx_perf (s : State) (c : Nat) (x : Ctx) : (setCtx s c x).perf = s.perf := rfl
@[simp] theorem setCtx_log (s : State) (c : Nat) (x : Ctx) : (setCtx s c x).log = s.log := rfl
@[simp] theorem setCtx_out (s : State) (c : Nat) (x : Ctx) : (setCtx s c x).out = s.out := rfl
@[simp] theorem setCtx_freeCount (s : State) (c : Nat) (x : Ctx) : (setCtx s c x).freeCount = s.freeCount := rfl

/-! ### `updJob` -/

@[simp] theorem updJob_pending (s : State) (id : Nat) (f : Job → Job) : (updJob s id f).pending = s.pending := rfl
@[simp] theorem updJob_start (s : State) (id : Nat) (f : Job → Job) : (updJob s id f).start = s.start := rfl
@[simp] theorem updJob_fatal (s : State) (id : Nat) (f : Job → Job) : (updJob s id f).fatal = s.fatal := rfl
@[simp] theorem updJob_alerts (s : State) (id : Nat) (f : Job → Job) : (updJob s id f).alerts = s.alerts := rfl
@[simp] theorem updJob_regs (s : State) (id : Nat) (f : Job → Job) : (updJob s id f).regs = s.regs := rfl
@[simp] theorem updJob_eeprom (s : State) (id : Nat) (f : Job → Job) : (updJob s id f).eeprom = s.eeprom := rfl
@[simp] theorem updJob_dict (s : State) (id : Nat) (f : Job → Job) : (updJob s id f).dict = s.dict := rfl
@[simp] theorem updJob_hem (s : State) (id : Nat) (f : Job → Job) : (updJob s id f).hem = s.hem := rfl
@[simp] theorem updJob_queues (s : State) (id : Nat) (f : Job → Job) : (updJob s id f).queues = s.queues := rfl
@[simp] theorem updJob_jobNext (s : State) (id : Nat) (f : Job → Job) : (updJob s id f).jobNext = s.jobNext := rfl
@[simp] theorem updJob_ctxs (s : State) (id : Nat) (f : Job → Job) : (updJob s id f).ctxs = s.ctxs := rfl
@[simp] theorem updJob_models (s : State) (id : Nat) (f : Job → Job) : (updJob s id f).models = s.models := rfl
@[simp] theorem updJob_vocabs (s : State) (id : Nat) (f : Job → Job) : (updJob s id f).vocabs = s.vocabs := rfl
@[simp] theorem updJob_indexes (s : State) (id : Nat) (f : Job → Job) : (updJob s id f).indexes = s.indexes := rfl
@[simp] theorem updJob_copies (s : State) (id : Nat) (f : Job → Job) : (updJob s id f).copies = s.copies := rfl
@[simp] theorem updJob_queries (s : State) (id : Nat) (f : Job → Job) : (updJob s id f).queries = s.queries := rfl
@[simp] theorem updJob_spans (s : State) (id : Nat) (f : Job → Job) : (updJob s id f).spans = s.spans := rfl
@[simp] theorem updJob_belt (s : State) (id : Nat) (f : Job → Job) : (updJob s id f).belt = s.belt := rfl
@[simp] theorem updJob_kv (s : State) (id : Nat) (f : Job → Job) : (updJob s id f).kv = s.kv := rfl
@[simp] theorem updJob_gens (s : State) (id : Nat) (f : Job → Job) : (updJob s id f).gens = s.gens := rfl
@[simp] theorem updJob_grammars (s : State) (id : Nat) (f : Job → Job) : (updJob s id f).grammars = s.grammars := rfl
@[simp] theorem updJob_pocket (s : State) (id : Nat) (f : Job → Job) : (updJob s id f).pocket = s.pocket := rfl
@[simp] theorem updJob_acc (s : State) (id : Nat) (f : Job → Job) : (updJob s id f).acc = s.acc := rfl
@[simp] theorem updJob_array (s : State) (id : Nat) (f : Job → Job) : (updJob s id f).array = s.array := rfl
@[simp] theorem updJob_mem (s : State) (id : Nat) (f : Job → Job) : (updJob s id f).mem = s.mem := rfl
@[simp] theorem updJob_aedup (s : State) (id : Nat) (f : Job → Job) : (updJob s id f).aedup = s.aedup := rfl
@[simp] theorem updJob_pelgan (s : State) (id : Nat) (f : Job → Job) : (updJob s id f).pelgan = s.pelgan := rfl
@[simp] theorem updJob_chip (s : State) (id : Nat) (f : Job → Job) : (updJob s id f).chip = s.chip := rfl
@[simp] theorem updJob_sec (s : State) (id : Nat) (f : Job → Job) : (updJob s id f).sec = s.sec := rfl
@[simp] theorem updJob_power (s : State) (id : Nat) (f : Job → Job) : (updJob s id f).power = s.power := rfl
@[simp] theorem updJob_test (s : State) (id : Nat) (f : Job → Job) : (updJob s id f).test = s.test := rfl
@[simp] theorem updJob_perf (s : State) (id : Nat) (f : Job → Job) : (updJob s id f).perf = s.perf := rfl
@[simp] theorem updJob_log (s : State) (id : Nat) (f : Job → Job) : (updJob s id f).log = s.log := rfl
@[simp] theorem updJob_out (s : State) (id : Nat) (f : Job → Job) : (updJob s id f).out = s.out := rfl
@[simp] theorem updJob_freeCount (s : State) (id : Nat) (f : Job → Job) : (updJob s id f).freeCount = s.freeCount := rfl

/-! ### `setUnit` -/

@[simp] theorem setUnit_pending (s : State) (u : Nat) (x : UnitInfo) : (setUnit s u x).pending = s.pending := rfl
@[simp] theorem setUnit_start (s : State) (u : Nat) (x : UnitInfo) : (setUnit s u x).start = s.start := rfl
@[simp] theorem setUnit_fatal (s : State) (u : Nat) (x : UnitInfo) : (setUnit s u x).fatal = s.fatal := rfl
@[simp] theorem setUnit_alerts (s : State) (u : Nat) (x : UnitInfo) : (setUnit s u x).alerts = s.alerts := rfl
@[simp] theorem setUnit_regs (s : State) (u : Nat) (x : UnitInfo) : (setUnit s u x).regs = s.regs := rfl
@[simp] theorem setUnit_eeprom (s : State) (u : Nat) (x : UnitInfo) : (setUnit s u x).eeprom = s.eeprom := rfl
@[simp] theorem setUnit_dict (s : State) (u : Nat) (x : UnitInfo) : (setUnit s u x).dict = s.dict := rfl
@[simp] theorem setUnit_hem (s : State) (u : Nat) (x : UnitInfo) : (setUnit s u x).hem = s.hem := rfl
@[simp] theorem setUnit_queues (s : State) (u : Nat) (x : UnitInfo) : (setUnit s u x).queues = s.queues := rfl
@[simp] theorem setUnit_jobs (s : State) (u : Nat) (x : UnitInfo) : (setUnit s u x).jobs = s.jobs := rfl
@[simp] theorem setUnit_jobNext (s : State) (u : Nat) (x : UnitInfo) : (setUnit s u x).jobNext = s.jobNext := rfl
@[simp] theorem setUnit_ctxs (s : State) (u : Nat) (x : UnitInfo) : (setUnit s u x).ctxs = s.ctxs := rfl
@[simp] theorem setUnit_models (s : State) (u : Nat) (x : UnitInfo) : (setUnit s u x).models = s.models := rfl
@[simp] theorem setUnit_vocabs (s : State) (u : Nat) (x : UnitInfo) : (setUnit s u x).vocabs = s.vocabs := rfl
@[simp] theorem setUnit_indexes (s : State) (u : Nat) (x : UnitInfo) : (setUnit s u x).indexes = s.indexes := rfl
@[simp] theorem setUnit_copies (s : State) (u : Nat) (x : UnitInfo) : (setUnit s u x).copies = s.copies := rfl
@[simp] theorem setUnit_queries (s : State) (u : Nat) (x : UnitInfo) : (setUnit s u x).queries = s.queries := rfl
@[simp] theorem setUnit_spans (s : State) (u : Nat) (x : UnitInfo) : (setUnit s u x).spans = s.spans := rfl
@[simp] theorem setUnit_belt (s : State) (u : Nat) (x : UnitInfo) : (setUnit s u x).belt = s.belt := rfl
@[simp] theorem setUnit_kv (s : State) (u : Nat) (x : UnitInfo) : (setUnit s u x).kv = s.kv := rfl
@[simp] theorem setUnit_gens (s : State) (u : Nat) (x : UnitInfo) : (setUnit s u x).gens = s.gens := rfl
@[simp] theorem setUnit_grammars (s : State) (u : Nat) (x : UnitInfo) : (setUnit s u x).grammars = s.grammars := rfl
@[simp] theorem setUnit_pocket (s : State) (u : Nat) (x : UnitInfo) : (setUnit s u x).pocket = s.pocket := rfl
@[simp] theorem setUnit_acc (s : State) (u : Nat) (x : UnitInfo) : (setUnit s u x).acc = s.acc := rfl
@[simp] theorem setUnit_array (s : State) (u : Nat) (x : UnitInfo) : (setUnit s u x).array = s.array := rfl
@[simp] theorem setUnit_aedup (s : State) (u : Nat) (x : UnitInfo) : (setUnit s u x).aedup = s.aedup := rfl
@[simp] theorem setUnit_pelgan (s : State) (u : Nat) (x : UnitInfo) : (setUnit s u x).pelgan = s.pelgan := rfl
@[simp] theorem setUnit_chip (s : State) (u : Nat) (x : UnitInfo) : (setUnit s u x).chip = s.chip := rfl
@[simp] theorem setUnit_sec (s : State) (u : Nat) (x : UnitInfo) : (setUnit s u x).sec = s.sec := rfl
@[simp] theorem setUnit_power (s : State) (u : Nat) (x : UnitInfo) : (setUnit s u x).power = s.power := rfl
@[simp] theorem setUnit_test (s : State) (u : Nat) (x : UnitInfo) : (setUnit s u x).test = s.test := rfl
@[simp] theorem setUnit_perf (s : State) (u : Nat) (x : UnitInfo) : (setUnit s u x).perf = s.perf := rfl
@[simp] theorem setUnit_log (s : State) (u : Nat) (x : UnitInfo) : (setUnit s u x).log = s.log := rfl
@[simp] theorem setUnit_out (s : State) (u : Nat) (x : UnitInfo) : (setUnit s u x).out = s.out := rfl
@[simp] theorem setUnit_freeCount (s : State) (u : Nat) (x : UnitInfo) : (setUnit s u x).freeCount = s.freeCount := rfl

/-! ### `setBlock` -/

@[simp] theorem setBlock_pending (s : State) (b : Nat) (p : BlockPower) : (setBlock s b p).pending = s.pending := rfl
@[simp] theorem setBlock_start (s : State) (b : Nat) (p : BlockPower) : (setBlock s b p).start = s.start := rfl
@[simp] theorem setBlock_fatal (s : State) (b : Nat) (p : BlockPower) : (setBlock s b p).fatal = s.fatal := rfl
@[simp] theorem setBlock_alerts (s : State) (b : Nat) (p : BlockPower) : (setBlock s b p).alerts = s.alerts := rfl
@[simp] theorem setBlock_regs (s : State) (b : Nat) (p : BlockPower) : (setBlock s b p).regs = s.regs := rfl
@[simp] theorem setBlock_eeprom (s : State) (b : Nat) (p : BlockPower) : (setBlock s b p).eeprom = s.eeprom := rfl
@[simp] theorem setBlock_dict (s : State) (b : Nat) (p : BlockPower) : (setBlock s b p).dict = s.dict := rfl
@[simp] theorem setBlock_hem (s : State) (b : Nat) (p : BlockPower) : (setBlock s b p).hem = s.hem := rfl
@[simp] theorem setBlock_queues (s : State) (b : Nat) (p : BlockPower) : (setBlock s b p).queues = s.queues := rfl
@[simp] theorem setBlock_jobs (s : State) (b : Nat) (p : BlockPower) : (setBlock s b p).jobs = s.jobs := rfl
@[simp] theorem setBlock_jobNext (s : State) (b : Nat) (p : BlockPower) : (setBlock s b p).jobNext = s.jobNext := rfl
@[simp] theorem setBlock_ctxs (s : State) (b : Nat) (p : BlockPower) : (setBlock s b p).ctxs = s.ctxs := rfl
@[simp] theorem setBlock_models (s : State) (b : Nat) (p : BlockPower) : (setBlock s b p).models = s.models := rfl
@[simp] theorem setBlock_vocabs (s : State) (b : Nat) (p : BlockPower) : (setBlock s b p).vocabs = s.vocabs := rfl
@[simp] theorem setBlock_indexes (s : State) (b : Nat) (p : BlockPower) : (setBlock s b p).indexes = s.indexes := rfl
@[simp] theorem setBlock_copies (s : State) (b : Nat) (p : BlockPower) : (setBlock s b p).copies = s.copies := rfl
@[simp] theorem setBlock_queries (s : State) (b : Nat) (p : BlockPower) : (setBlock s b p).queries = s.queries := rfl
@[simp] theorem setBlock_spans (s : State) (b : Nat) (p : BlockPower) : (setBlock s b p).spans = s.spans := rfl
@[simp] theorem setBlock_belt (s : State) (b : Nat) (p : BlockPower) : (setBlock s b p).belt = s.belt := rfl
@[simp] theorem setBlock_kv (s : State) (b : Nat) (p : BlockPower) : (setBlock s b p).kv = s.kv := rfl
@[simp] theorem setBlock_gens (s : State) (b : Nat) (p : BlockPower) : (setBlock s b p).gens = s.gens := rfl
@[simp] theorem setBlock_grammars (s : State) (b : Nat) (p : BlockPower) : (setBlock s b p).grammars = s.grammars := rfl
@[simp] theorem setBlock_pocket (s : State) (b : Nat) (p : BlockPower) : (setBlock s b p).pocket = s.pocket := rfl
@[simp] theorem setBlock_acc (s : State) (b : Nat) (p : BlockPower) : (setBlock s b p).acc = s.acc := rfl
@[simp] theorem setBlock_array (s : State) (b : Nat) (p : BlockPower) : (setBlock s b p).array = s.array := rfl
@[simp] theorem setBlock_mem (s : State) (b : Nat) (p : BlockPower) : (setBlock s b p).mem = s.mem := rfl
@[simp] theorem setBlock_aedup (s : State) (b : Nat) (p : BlockPower) : (setBlock s b p).aedup = s.aedup := rfl
@[simp] theorem setBlock_pelgan (s : State) (b : Nat) (p : BlockPower) : (setBlock s b p).pelgan = s.pelgan := rfl
@[simp] theorem setBlock_chip (s : State) (b : Nat) (p : BlockPower) : (setBlock s b p).chip = s.chip := rfl
@[simp] theorem setBlock_sec (s : State) (b : Nat) (p : BlockPower) : (setBlock s b p).sec = s.sec := rfl
@[simp] theorem setBlock_test (s : State) (b : Nat) (p : BlockPower) : (setBlock s b p).test = s.test := rfl
@[simp] theorem setBlock_perf (s : State) (b : Nat) (p : BlockPower) : (setBlock s b p).perf = s.perf := rfl
@[simp] theorem setBlock_log (s : State) (b : Nat) (p : BlockPower) : (setBlock s b p).log = s.log := rfl
@[simp] theorem setBlock_out (s : State) (b : Nat) (p : BlockPower) : (setBlock s b p).out = s.out := rfl
@[simp] theorem setBlock_freeCount (s : State) (b : Nat) (p : BlockPower) : (setBlock s b p).freeCount = s.freeCount := rfl

/-! ### `selectTap` -/

@[simp] theorem selectTap_pending (s : State) (i : TapInstr) : (selectTap s i).pending = s.pending := rfl
@[simp] theorem selectTap_start (s : State) (i : TapInstr) : (selectTap s i).start = s.start := rfl
@[simp] theorem selectTap_fatal (s : State) (i : TapInstr) : (selectTap s i).fatal = s.fatal := rfl
@[simp] theorem selectTap_alerts (s : State) (i : TapInstr) : (selectTap s i).alerts = s.alerts := rfl
@[simp] theorem selectTap_regs (s : State) (i : TapInstr) : (selectTap s i).regs = s.regs := rfl
@[simp] theorem selectTap_eeprom (s : State) (i : TapInstr) : (selectTap s i).eeprom = s.eeprom := rfl
@[simp] theorem selectTap_dict (s : State) (i : TapInstr) : (selectTap s i).dict = s.dict := rfl
@[simp] theorem selectTap_hem (s : State) (i : TapInstr) : (selectTap s i).hem = s.hem := rfl
@[simp] theorem selectTap_queues (s : State) (i : TapInstr) : (selectTap s i).queues = s.queues := rfl
@[simp] theorem selectTap_jobs (s : State) (i : TapInstr) : (selectTap s i).jobs = s.jobs := rfl
@[simp] theorem selectTap_jobNext (s : State) (i : TapInstr) : (selectTap s i).jobNext = s.jobNext := rfl
@[simp] theorem selectTap_ctxs (s : State) (i : TapInstr) : (selectTap s i).ctxs = s.ctxs := rfl
@[simp] theorem selectTap_models (s : State) (i : TapInstr) : (selectTap s i).models = s.models := rfl
@[simp] theorem selectTap_vocabs (s : State) (i : TapInstr) : (selectTap s i).vocabs = s.vocabs := rfl
@[simp] theorem selectTap_indexes (s : State) (i : TapInstr) : (selectTap s i).indexes = s.indexes := rfl
@[simp] theorem selectTap_copies (s : State) (i : TapInstr) : (selectTap s i).copies = s.copies := rfl
@[simp] theorem selectTap_queries (s : State) (i : TapInstr) : (selectTap s i).queries = s.queries := rfl
@[simp] theorem selectTap_spans (s : State) (i : TapInstr) : (selectTap s i).spans = s.spans := rfl
@[simp] theorem selectTap_belt (s : State) (i : TapInstr) : (selectTap s i).belt = s.belt := rfl
@[simp] theorem selectTap_kv (s : State) (i : TapInstr) : (selectTap s i).kv = s.kv := rfl
@[simp] theorem selectTap_gens (s : State) (i : TapInstr) : (selectTap s i).gens = s.gens := rfl
@[simp] theorem selectTap_grammars (s : State) (i : TapInstr) : (selectTap s i).grammars = s.grammars := rfl
@[simp] theorem selectTap_pocket (s : State) (i : TapInstr) : (selectTap s i).pocket = s.pocket := rfl
@[simp] theorem selectTap_acc (s : State) (i : TapInstr) : (selectTap s i).acc = s.acc := rfl
@[simp] theorem selectTap_array (s : State) (i : TapInstr) : (selectTap s i).array = s.array := rfl
@[simp] theorem selectTap_mem (s : State) (i : TapInstr) : (selectTap s i).mem = s.mem := rfl
@[simp] theorem selectTap_aedup (s : State) (i : TapInstr) : (selectTap s i).aedup = s.aedup := rfl
@[simp] theorem selectTap_pelgan (s : State) (i : TapInstr) : (selectTap s i).pelgan = s.pelgan := rfl
@[simp] theorem selectTap_chip (s : State) (i : TapInstr) : (selectTap s i).chip = s.chip := rfl
@[simp] theorem selectTap_sec (s : State) (i : TapInstr) : (selectTap s i).sec = s.sec := rfl
@[simp] theorem selectTap_power (s : State) (i : TapInstr) : (selectTap s i).power = s.power := rfl
@[simp] theorem selectTap_perf (s : State) (i : TapInstr) : (selectTap s i).perf = s.perf := rfl
@[simp] theorem selectTap_log (s : State) (i : TapInstr) : (selectTap s i).log = s.log := rfl
@[simp] theorem selectTap_out (s : State) (i : TapInstr) : (selectTap s i).out = s.out := rfl
@[simp] theorem selectTap_freeCount (s : State) (i : TapInstr) : (selectTap s i).freeCount = s.freeCount := rfl

/-! ### `setStack` -/

@[simp] theorem setStack_pending (s : State) (k : Nat) (x : Stack) : (setStack s k x).pending = s.pending := rfl
@[simp] theorem setStack_start (s : State) (k : Nat) (x : Stack) : (setStack s k x).start = s.start := rfl
@[simp] theorem setStack_fatal (s : State) (k : Nat) (x : Stack) : (setStack s k x).fatal = s.fatal := rfl
@[simp] theorem setStack_alerts (s : State) (k : Nat) (x : Stack) : (setStack s k x).alerts = s.alerts := rfl
@[simp] theorem setStack_regs (s : State) (k : Nat) (x : Stack) : (setStack s k x).regs = s.regs := rfl
@[simp] theorem setStack_eeprom (s : State) (k : Nat) (x : Stack) : (setStack s k x).eeprom = s.eeprom := rfl
@[simp] theorem setStack_dict (s : State) (k : Nat) (x : Stack) : (setStack s k x).dict = s.dict := rfl
@[simp] theorem setStack_hem (s : State) (k : Nat) (x : Stack) : (setStack s k x).hem = s.hem := rfl
@[simp] theorem setStack_queues (s : State) (k : Nat) (x : Stack) : (setStack s k x).queues = s.queues := rfl
@[simp] theorem setStack_jobs (s : State) (k : Nat) (x : Stack) : (setStack s k x).jobs = s.jobs := rfl
@[simp] theorem setStack_jobNext (s : State) (k : Nat) (x : Stack) : (setStack s k x).jobNext = s.jobNext := rfl
@[simp] theorem setStack_ctxs (s : State) (k : Nat) (x : Stack) : (setStack s k x).ctxs = s.ctxs := rfl
@[simp] theorem setStack_models (s : State) (k : Nat) (x : Stack) : (setStack s k x).models = s.models := rfl
@[simp] theorem setStack_vocabs (s : State) (k : Nat) (x : Stack) : (setStack s k x).vocabs = s.vocabs := rfl
@[simp] theorem setStack_indexes (s : State) (k : Nat) (x : Stack) : (setStack s k x).indexes = s.indexes := rfl
@[simp] theorem setStack_copies (s : State) (k : Nat) (x : Stack) : (setStack s k x).copies = s.copies := rfl
@[simp] theorem setStack_queries (s : State) (k : Nat) (x : Stack) : (setStack s k x).queries = s.queries := rfl
@[simp] theorem setStack_spans (s : State) (k : Nat) (x : Stack) : (setStack s k x).spans = s.spans := rfl
@[simp] theorem setStack_belt (s : State) (k : Nat) (x : Stack) : (setStack s k x).belt = s.belt := rfl
@[simp] theorem setStack_kv (s : State) (k : Nat) (x : Stack) : (setStack s k x).kv = s.kv := rfl
@[simp] theorem setStack_gens (s : State) (k : Nat) (x : Stack) : (setStack s k x).gens = s.gens := rfl
@[simp] theorem setStack_grammars (s : State) (k : Nat) (x : Stack) : (setStack s k x).grammars = s.grammars := rfl
@[simp] theorem setStack_pocket (s : State) (k : Nat) (x : Stack) : (setStack s k x).pocket = s.pocket := rfl
@[simp] theorem setStack_acc (s : State) (k : Nat) (x : Stack) : (setStack s k x).acc = s.acc := rfl
@[simp] theorem setStack_array (s : State) (k : Nat) (x : Stack) : (setStack s k x).array = s.array := rfl
@[simp] theorem setStack_aedup (s : State) (k : Nat) (x : Stack) : (setStack s k x).aedup = s.aedup := rfl
@[simp] theorem setStack_pelgan (s : State) (k : Nat) (x : Stack) : (setStack s k x).pelgan = s.pelgan := rfl
@[simp] theorem setStack_chip (s : State) (k : Nat) (x : Stack) : (setStack s k x).chip = s.chip := rfl
@[simp] theorem setStack_sec (s : State) (k : Nat) (x : Stack) : (setStack s k x).sec = s.sec := rfl
@[simp] theorem setStack_power (s : State) (k : Nat) (x : Stack) : (setStack s k x).power = s.power := rfl
@[simp] theorem setStack_test (s : State) (k : Nat) (x : Stack) : (setStack s k x).test = s.test := rfl
@[simp] theorem setStack_perf (s : State) (k : Nat) (x : Stack) : (setStack s k x).perf = s.perf := rfl
@[simp] theorem setStack_log (s : State) (k : Nat) (x : Stack) : (setStack s k x).log = s.log := rfl
@[simp] theorem setStack_out (s : State) (k : Nat) (x : Stack) : (setStack s k x).out = s.out := rfl
@[simp] theorem setStack_freeCount (s : State) (k : Nat) (x : Stack) : (setStack s k x).freeCount = s.freeCount := rfl

/-! ### Values of entries -/

@[simp] theorem reg_setReg_self (s : State) (k v : Nat) : reg (setReg s k v) k = v := by simp [reg, setReg]

theorem reg_setReg_ne (s : State) {k j : Nat} (v : Nat) (h : j ≠ k) : reg (setReg s k v) j = reg s j := by
  simp [reg, setReg, tabGet_tabSet_ne _ _ h]

theorem reg_setReg (s : State) (k j v : Nat) : reg (setReg s k v) j = if j = k then v else reg s j := by
  split
  · next e => subst e; simp
  · next e => exact reg_setReg_ne s v e

/-- Bits that a counter has. -/
def counterBits (k : Nat) : Nat :=
  match rowOf k with
  | some r => 8 * r.size
  | none => 64

theorem reg_bump_self (s : State) (k n : Nat) : reg (bump s k n) k = (reg s k + n) % 2 ^ counterBits k :=
  reg_setReg_self s k _

theorem reg_bump_ne (s : State) {k j : Nat} (n : Nat) (h : j ≠ k) : reg (bump s k n) j = reg s j :=
  reg_setReg_ne s _ h

/-- Two states with the same table of values show the same values. -/
theorem reg_congr {s t : State} (h : t.regs = s.regs) (k : Nat) : reg t k = reg s k := by simp [reg, h]

@[simp] theorem ctxOf_setCtx_self (s : State) (c : Nat) (x : Ctx) : ctxOf (setCtx s c x) c = x := by simp [ctxOf, setCtx]

theorem ctxOf_setCtx_ne (s : State) {c d : Nat} (x : Ctx) (h : d ≠ c) : ctxOf (setCtx s c x) d = ctxOf s d := by
  simp [ctxOf, setCtx, tabGet_tabSet_ne _ _ h]

@[simp] theorem updJob_get (s : State) (id : Nat) (f : Job → Job) :
    tabGet (updJob s id f).jobs id = (tabGet s.jobs id).map f := tabGet_tabUpd_self _ _ _

theorem updJob_get_ne (s : State) {id i : Nat} (f : Job → Job) (h : i ≠ id) :
    tabGet (updJob s id f).jobs i = tabGet s.jobs i := tabGet_tabUpd_ne _ _ h

end Sys2Proof.Machine
end

