-- ==== Sys2Proof/Laws/Side.lean ====
section
/-! SUPPORT. What sending, notifying and counting can change: the link ends, the notification records, the performance
counters, a few counters of the dictionary and what has been sent, and nothing else. -/

namespace Sys2Proof.Machine

theorem Side.refl (s : State) : Side s s := by
  constructor <;> first | rfl | exact ⟨[], rfl⟩ | exact ⟨rfl, rfl, rfl, rfl⟩ | exact .inl rfl | exact fun _ _ => rfl

theorem Side.trans {a b c : State} (h : Side a b) (k : Side b c) : Side a c where
  pending := k.pending.trans h.pending
  start := k.start.trans h.start
  fatal := k.fatal.trans h.fatal
  alerts := k.alerts.trans h.alerts
  eeprom := k.eeprom.trans h.eeprom
  dict := by rw [k.dict, h.dict]
  hem := k.hem.trans h.hem
  queues := k.queues.trans h.queues
  jobs := k.jobs.trans h.jobs
  jobNext := k.jobNext.trans h.jobNext
  ctxs := k.ctxs.trans h.ctxs
  models := k.models.trans h.models
  vocabs := k.vocabs.trans h.vocabs
  indexes := k.indexes.trans h.indexes
  copies := k.copies.trans h.copies
  queries := k.queries.trans h.queries
  spans := k.spans.trans h.spans
  belt := k.belt.trans h.belt
  kv := k.kv.trans h.kv
  gens := k.gens.trans h.gens
  grammars := k.grammars.trans h.grammars
  pocket := k.pocket.trans h.pocket
  acc := k.acc.trans h.acc
  array := k.array.trans h.array
  mem := k.mem.trans h.mem
  aedup := by rw [k.aedup, h.aedup]
  pelgan := by rw [k.pelgan, h.pelgan]
  chip := k.chip.trans h.chip
  sec := k.sec.trans h.sec
  power := k.power.trans h.power
  test := k.test.trans h.test
  log := k.log.trans h.log
  actor := k.actor.trans h.actor
  shadows := ⟨k.shadows.1.trans h.shadows.1, k.shadows.2.1.trans h.shadows.2.1, k.shadows.2.2.1.trans h.shadows.2.2.1,
    k.shadows.2.2.2.trans h.shadows.2.2.2⟩
  out := by
    obtain ⟨l, e⟩ := h.out
    obtain ⟨m, f⟩ := k.out
    exact ⟨m ++ l, by rw [f, e, List.append_assoc]⟩
  linkState := by
    rcases k.linkState with e | ⟨e, f⟩
    · rw [e]; exact h.linkState
    · rcases h.linkState with g | ⟨_, g⟩
      · exact .inr ⟨g ▸ e, f⟩
      · rw [g] at e; cases e
  regs := fun x e => (k.regs x e).trans (h.regs x e)

theorem side_foldl {α : Type} (f : State → α → State) (l : List α) (h : ∀ s a, Side s (f s a)) (s : State) :
    Side s (l.foldl f s) := by
  induction l generalizing s with
  | nil => exact .refl s
  | cons a l ih => exact (h s a).trans (ih (f s a))

theorem side_ite {s a b : State} {c : Prop} [Decidable c] (ha : Side s a) (hb : Side s b) :
    Side s (if c then a else b) := by split <;> assumption

theorem side_setReg (s : State) {k : Nat} (v : Nat) (h : sideKey k = true) : Side s (setReg s k v) := by
  constructor <;> first
    | rfl
    | exact ⟨[], rfl⟩
    | exact ⟨rfl, rfl, rfl, rfl⟩
    | exact .inl rfl
    | exact fun j hj => reg_setReg_ne s v (fun e => by rw [e, h] at hj; cases hj)

theorem side_bump (s : State) {k : Nat} (n : Nat) (h : sideKey k = true) : Side s (bump s k n) := side_setReg s _ h

/-- Another link end, counters, open values and notification records. -/
theorem side_mk (s : State) (l : LinkEnd) (ls : Tab LinkEnd) (p : PerfS) (n q : Nat) (ts : List Nat)
    (h : p.actor = s.perf.actor) (hl : l.state = s.aedup.link.state)
    (hs : p.blockShadow = s.perf.blockShadow ∧ p.regionShadow = s.perf.regionShadow ∧
      p.chipShadow = s.perf.chipShadow ∧ p.exports = s.perf.exports := by exact ⟨rfl, rfl, rfl, rfl⟩) :
    Side s { s with aedup := { s.aedup with link := l }, pelgan := { s.pelgan with links := ls }, perf := p, freeCount := n,
                    dict := { s.dict with notifySeq := q, notifyTimes := ts } } := by
  constructor <;> first | rfl | exact h | exact hs | exact ⟨[], rfl⟩ | exact .inl hl | exact fun _ _ => rfl

/-- The Aedup link goes from ACTIVE to RETRAIN. -/
theorem side_retrain (s : State) (l : LinkEnd) (ha : s.aedup.link.state = .active) (hl : l.state = .retrain) :
    Side s { s with aedup := { s.aedup with link := l } } := by
  constructor <;> first | rfl | exact ⟨rfl, rfl, rfl, rfl⟩ | exact ⟨[], rfl⟩ | exact .inr ⟨ha, hl⟩ | exact fun _ _ => rfl

theorem side_links (s : State) (ls : Tab LinkEnd) : Side s { s with pelgan := { s.pelgan with links := ls } } :=
  side_mk s s.aedup.link ls s.perf s.freeCount s.dict.notifySeq s.dict.notifyTimes rfl rfl

theorem side_perf (s : State) (p : PerfS) (h : p.actor = s.perf.actor)
    (hs : p.blockShadow = s.perf.blockShadow ∧ p.regionShadow = s.perf.regionShadow ∧
      p.chipShadow = s.perf.chipShadow ∧ p.exports = s.perf.exports := by exact ⟨rfl, rfl, rfl, rfl⟩) : Side s { s with perf := p } :=
  side_mk s s.aedup.link s.pelgan.links p s.freeCount s.dict.notifySeq s.dict.notifyTimes h rfl hs

theorem side_perf_free (s : State) (p : PerfS) (n : Nat) (h : p.actor = s.perf.actor)
    (hs : p.blockShadow = s.perf.blockShadow ∧ p.regionShadow = s.perf.regionShadow ∧
      p.chipShadow = s.perf.chipShadow ∧ p.exports = s.perf.exports := by exact ⟨rfl, rfl, rfl, rfl⟩) :
    Side s { s with perf := p, freeCount := n } :=
  side_mk s s.aedup.link s.pelgan.links p n s.dict.notifySeq s.dict.notifyTimes h rfl hs

theorem side_notes (s : State) (q : Nat) (ts : List Nat) :
    Side s { s with dict := { s.dict with notifySeq := q, notifyTimes := ts } } :=
  side_mk s s.aedup.link s.pelgan.links s.perf s.freeCount q ts rfl rfl

theorem side_sealLimit (s : State) : Side s (sealLimit s) := by
  unfold sealLimit
  split
  · next h =>
    refine Side.trans (Side.trans ?_ (side_bump _ 1 (by decide))) (side_setReg _ _ (by decide))
    simp only [Bool.and_eq_true, beq_iff_eq] at h
    exact side_retrain s _ h.1 rfl
  · split
    · refine Side.trans (Side.trans ?_ (side_bump _ 1 (by decide))) (side_setReg _ _ (by decide))
      exact side_links s _
    · exact .refl s

theorem side_spend_aedup (s : State) (vc n : Nat) :
    Side s { s with aedup := { s.aedup with link := spend s.aedup.link vc n },
                    perf := { s.perf with sentAedup := s.perf.sentAedup + 1 } } :=
  side_mk s _ s.pelgan.links _ s.freeCount s.dict.notifySeq s.dict.notifyTimes rfl rfl

theorem side_spendFor (s : State) (o : Out) : Side s (spendFor s o) := by
  cases o with
  | aedupWrite a n => exact side_spend_aedup s 2 (writeSlots a n)
  | aedupRead _ _ _ => exact side_spend_aedup s 1 1
  | aedupIntr _ => exact side_spend_aedup s 2 1
  | snpRspI _ => exact side_spend_aedup s 3 1
  | mmioData _ _ => exact side_spend_aedup s 3 2
  | message p opcode _ _ _ =>
    exact side_mk s s.aedup.link _ { s.perf with sentPelgan := s.perf.sentPelgan + 1 } s.freeCount s.dict.notifySeq
      s.dict.notifyTimes rfl rfl
  | _ => exact .refl s

theorem side_out (s : State) (o : Out) : Side s { s with out := o :: s.out } := by
  constructor <;> first | rfl | exact ⟨rfl, rfl, rfl, rfl⟩ | exact ⟨[o], rfl⟩ | exact .inl rfl | exact fun _ _ => rfl

theorem side_send (s : State) (o : Out) : Side s (send s o) :=
  ((side_spendFor s o).trans (side_out _ o)).trans (side_sealLimit _)

/-- What is sent is among what has been sent. -/
theorem mem_send (s : State) (o : Out) : o ∈ (send s o).out := by
  obtain ⟨l, h⟩ := (side_sealLimit { spendFor s o with out := o :: (spendFor s o).out }).out
  unfold send
  simp only [h]
  exact List.mem_append_right _ (by simp)

theorem side_notify (s : State) (event key detail : Nat) : Side s (notify s event key detail) := by
  unfold notify
  split
  · simp only []
    split
    · refine Side.trans ?_ (side_send _ _)
      exact side_notes s _ _
    · exact side_bump s 1 (by decide)
  · exact .refl s

theorem side_sampleInterrupt (s : State) : Side s (sampleInterrupt s) := by
  unfold sampleInterrupt
  split
  · exact side_send _ _
  · exact .refl s

theorem sideKey_count {b : Nat} (h : b < 5) : sideKey (Key.PERF_SAMPLE_COUNT b) = true := by
  have : Key.PERF_SAMPLE_COUNT 0 ≤ Key.PERF_SAMPLE_COUNT b ∧ Key.PERF_SAMPLE_COUNT b < Key.PERF_SAMPLE_COUNT 0 + 10 := by
    unfold Key.PERF_SAMPLE_COUNT; omega
  simp [sideKey, this]

theorem sideKey_drops {b : Nat} (h : b < 5) : sideKey (Key.PERF_SAMPLE_DROPS b) = true := by
  have : Key.PERF_SAMPLE_COUNT 0 ≤ Key.PERF_SAMPLE_DROPS b ∧ Key.PERF_SAMPLE_DROPS b < Key.PERF_SAMPLE_COUNT 0 + 10 := by
    unfold Key.PERF_SAMPLE_COUNT Key.PERF_SAMPLE_DROPS; omega
  simp [sideKey, this]

theorem side_takeSample (s : State) (buffer : Nat) (ctx : Option Nat) (event counter : Nat) (skid : Bool) (t : Trace) :
    Side s (takeSample s buffer ctx event counter skid t) := by
  have hb : buffer % 5 < 5 := Nat.mod_lt _ (by decide)
  unfold takeSample
  simp only []
  split
  · exact side_bump s 1 (sideKey_drops hb)
  · have h1 := side_bump s 1 (sideKey_count hb)
    split
    · refine Side.trans ?_ (side_sampleInterrupt _)
      exact h1.trans (side_perf_free _ _ _ rfl)
    · exact h1.trans (side_perf_free _ _ _ rfl)

theorem side_takeSamples (s : State) (buffer : Nat) (ctx : Option Nat) (event counter period old new : Nat) (t : Trace) :
    Side s (takeSamples s buffer ctx event counter period old new t) :=
  side_foldl _ _ (fun _ _ => side_takeSample _ _ _ _ _ _ _) s

theorem side_countBlock (s : State) (b event n : Nat) (t : Trace) : Side s (countBlock s b event n t) := by
  refine side_foldl _ _ (fun u p => ?_) s
  split
  · exact .refl u
  · refine Side.trans ?_ (side_takeSamples _ _ _ _ _ _ _ _ _)
    exact side_perf u _ rfl

theorem side_countRegion (s : State) (r event n : Nat) (t : Trace) : Side s (countRegion s r event n t) := by
  refine side_foldl _ _ (fun u p => ?_) s
  split
  · refine Side.trans ?_ (side_takeSamples _ _ _ _ _ _ _ _ _)
    exact side_perf u _ rfl
  · exact .refl u

theorem side_countChip (s : State) (event n : Nat) (t : Trace) : Side s (countChip s event n t) := by
  refine side_foldl _ _ (fun u p => ?_) s
  split
  · simp only []
    split
    · exact side_perf u _ rfl
    · refine Side.trans ?_ (side_takeSamples _ _ _ _ _ _ _ _ _)
      exact side_perf u _ rfl
  · exact .refl u

theorem side_tallyJob (s : State) (j : Job) (event n : Nat) : Side s (tallyJob s j event n) :=
  side_countRegion _ _ _ _ _

end Sys2Proof.Machine
end

