-- ==== Sys2Proof/Laws/Ops.lean ====
section
/-! SUPPORT. What the operations on commands change: the outcome of a command, and one step of it. -/

namespace Sys2Proof.Machine

/-! ### `send` -/

@[simp] theorem send_pending (s : State) (o : Out) : (send s o).pending = s.pending := (side_send s o).pending
@[simp] theorem send_start (s : State) (o : Out) : (send s o).start = s.start := (side_send s o).start
@[simp] theorem send_fatal (s : State) (o : Out) : (send s o).fatal = s.fatal := (side_send s o).fatal
@[simp] theorem send_alerts (s : State) (o : Out) : (send s o).alerts = s.alerts := (side_send s o).alerts
@[simp] theorem send_eeprom (s : State) (o : Out) : (send s o).eeprom = s.eeprom := (side_send s o).eeprom
@[simp] theorem send_hem (s : State) (o : Out) : (send s o).hem = s.hem := (side_send s o).hem
@[simp] theorem send_queues (s : State) (o : Out) : (send s o).queues = s.queues := (side_send s o).queues
@[simp] theorem send_jobs (s : State) (o : Out) : (send s o).jobs = s.jobs := (side_send s o).jobs
@[simp] theorem send_jobNext (s : State) (o : Out) : (send s o).jobNext = s.jobNext := (side_send s o).jobNext
@[simp] theorem send_ctxs (s : State) (o : Out) : (send s o).ctxs = s.ctxs := (side_send s o).ctxs
@[simp] theorem send_models (s : State) (o : Out) : (send s o).models = s.models := (side_send s o).models
@[simp] theorem send_vocabs (s : State) (o : Out) : (send s o).vocabs = s.vocabs := (side_send s o).vocabs
@[simp] theorem send_indexes (s : State) (o : Out) : (send s o).indexes = s.indexes := (side_send s o).indexes
@[simp] theorem send_copies (s : State) (o : Out) : (send s o).copies = s.copies := (side_send s o).copies
@[simp] theorem send_queries (s : State) (o : Out) : (send s o).queries = s.queries := (side_send s o).queries
@[simp] theorem send_spans (s : State) (o : Out) : (send s o).spans = s.spans := (side_send s o).spans
@[simp] theorem send_belt (s : State) (o : Out) : (send s o).belt = s.belt := (side_send s o).belt
@[simp] theorem send_kv (s : State) (o : Out) : (send s o).kv = s.kv := (side_send s o).kv
@[simp] theorem send_gens (s : State) (o : Out) : (send s o).gens = s.gens := (side_send s o).gens
@[simp] theorem send_grammars (s : State) (o : Out) : (send s o).grammars = s.grammars := (side_send s o).grammars
@[simp] theorem send_pocket (s : State) (o : Out) : (send s o).pocket = s.pocket := (side_send s o).pocket
@[simp] theorem send_acc (s : State) (o : Out) : (send s o).acc = s.acc := (side_send s o).acc
@[simp] theorem send_array (s : State) (o : Out) : (send s o).array = s.array := (side_send s o).array
@[simp] theorem send_mem (s : State) (o : Out) : (send s o).mem = s.mem := (side_send s o).mem
@[simp] theorem send_chip (s : State) (o : Out) : (send s o).chip = s.chip := (side_send s o).chip
@[simp] theorem send_sec (s : State) (o : Out) : (send s o).sec = s.sec := (side_send s o).sec
@[simp] theorem send_power (s : State) (o : Out) : (send s o).power = s.power := (side_send s o).power
@[simp] theorem send_test (s : State) (o : Out) : (send s o).test = s.test := (side_send s o).test
@[simp] theorem send_log (s : State) (o : Out) : (send s o).log = s.log := (side_send s o).log
@[simp] theorem send_actor (s : State) (o : Out) : (send s o).perf.actor = s.perf.actor := (side_send s o).actor
theorem reg_send (s : State) (o : Out) {k' : Nat} (h : sideKey k' = false) : reg (send s o) k' = reg s k' :=
  (side_send s o).regs k' h

/-! ### `notify` -/

@[simp] theorem notify_pending (s : State) (e k d : Nat) : (notify s e k d).pending = s.pending := (side_notify s e k d).pending
@[simp] theorem notify_start (s : State) (e k d : Nat) : (notify s e k d).start = s.start := (side_notify s e k d).start
@[simp] theorem notify_fatal (s : State) (e k d : Nat) : (notify s e k d).fatal = s.fatal := (side_notify s e k d).fatal
@[simp] theorem notify_alerts (s : State) (e k d : Nat) : (notify s e k d).alerts = s.alerts := (side_notify s e k d).alerts
@[simp] theorem notify_eeprom (s : State) (e k d : Nat) : (notify s e k d).eeprom = s.eeprom := (side_notify s e k d).eeprom
@[simp] theorem notify_hem (s : State) (e k d : Nat) : (notify s e k d).hem = s.hem := (side_notify s e k d).hem
@[simp] theorem notify_queues (s : State) (e k d : Nat) : (notify s e k d).queues = s.queues := (side_notify s e k d).queues
@[simp] theorem notify_jobs (s : State) (e k d : Nat) : (notify s e k d).jobs = s.jobs := (side_notify s e k d).jobs
@[simp] theorem notify_jobNext (s : State) (e k d : Nat) : (notify s e k d).jobNext = s.jobNext := (side_notify s e k d).jobNext
@[simp] theorem notify_ctxs (s : State) (e k d : Nat) : (notify s e k d).ctxs = s.ctxs := (side_notify s e k d).ctxs
@[simp] theorem notify_models (s : State) (e k d : Nat) : (notify s e k d).models = s.models := (side_notify s e k d).models
@[simp] theorem notify_vocabs (s : State) (e k d : Nat) : (notify s e k d).vocabs = s.vocabs := (side_notify s e k d).vocabs
@[simp] theorem notify_indexes (s : State) (e k d : Nat) : (notify s e k d).indexes = s.indexes := (side_notify s e k d).indexes
@[simp] theorem notify_copies (s : State) (e k d : Nat) : (notify s e k d).copies = s.copies := (side_notify s e k d).copies
@[simp] theorem notify_queries (s : State) (e k d : Nat) : (notify s e k d).queries = s.queries := (side_notify s e k d).queries
@[simp] theorem notify_spans (s : State) (e k d : Nat) : (notify s e k d).spans = s.spans := (side_notify s e k d).spans
@[simp] theorem notify_belt (s : State) (e k d : Nat) : (notify s e k d).belt = s.belt := (side_notify s e k d).belt
@[simp] theorem notify_kv (s : State) (e k d : Nat) : (notify s e k d).kv = s.kv := (side_notify s e k d).kv
@[simp] theorem notify_gens (s : State) (e k d : Nat) : (notify s e k d).gens = s.gens := (side_notify s e k d).gens
@[simp] theorem notify_grammars (s : State) (e k d : Nat) : (notify s e k d).grammars = s.grammars := (side_notify s e k d).grammars
@[simp] theorem notify_pocket (s : State) (e k d : Nat) : (notify s e k d).pocket = s.pocket := (side_notify s e k d).pocket
@[simp] theorem notify_acc (s : State) (e k d : Nat) : (notify s e k d).acc = s.acc := (side_notify s e k d).acc
@[simp] theorem notify_array (s : State) (e k d : Nat) : (notify s e k d).array = s.array := (side_notify s e k d).array
@[simp] theorem notify_mem (s : State) (e k d : Nat) : (notify s e k d).mem = s.mem := (side_notify s e k d).mem
@[simp] theorem notify_chip (s : State) (e k d : Nat) : (notify s e k d).chip = s.chip := (side_notify s e k d).chip
@[simp] theorem notify_sec (s : State) (e k d : Nat) : (notify s e k d).sec = s.sec := (side_notify s e k d).sec
@[simp] theorem notify_power (s : State) (e k d : Nat) : (notify s e k d).power = s.power := (side_notify s e k d).power
@[simp] theorem notify_test (s : State) (e k d : Nat) : (notify s e k d).test = s.test := (side_notify s e k d).test
@[simp] theorem notify_log (s : State) (e k d : Nat) : (notify s e k d).log = s.log := (side_notify s e k d).log
@[simp] theorem notify_actor (s : State) (e k d : Nat) : (notify s e k d).perf.actor = s.perf.actor := (side_notify s e k d).actor
theorem reg_notify (s : State) (e k d : Nat) {k' : Nat} (h : sideKey k' = false) : reg (notify s e k d) k' = reg s k' :=
  (side_notify s e k d).regs k' h

/-! ### `countBlock` -/

@[simp] theorem countBlock_pending (s : State) (b e n : Nat) (t : Trace) : (countBlock s b e n t).pending = s.pending := (side_countBlock s b e n t).pending
@[simp] theorem countBlock_start (s : State) (b e n : Nat) (t : Trace) : (countBlock s b e n t).start = s.start := (side_countBlock s b e n t).start
@[simp] theorem countBlock_fatal (s : State) (b e n : Nat) (t : Trace) : (countBlock s b e n t).fatal = s.fatal := (side_countBlock s b e n t).fatal
@[simp] theorem countBlock_alerts (s : State) (b e n : Nat) (t : Trace) : (countBlock s b e n t).alerts = s.alerts := (side_countBlock s b e n t).alerts
@[simp] theorem countBlock_eeprom (s : State) (b e n : Nat) (t : Trace) : (countBlock s b e n t).eeprom = s.eeprom := (side_countBlock s b e n t).eeprom
@[simp] theorem countBlock_hem (s : State) (b e n : Nat) (t : Trace) : (countBlock s b e n t).hem = s.hem := (side_countBlock s b e n t).hem
@[simp] theorem countBlock_queues (s : State) (b e n : Nat) (t : Trace) : (countBlock s b e n t).queues = s.queues := (side_countBlock s b e n t).queues
@[simp] theorem countBlock_jobs (s : State) (b e n : Nat) (t : Trace) : (countBlock s b e n t).jobs = s.jobs := (side_countBlock s b e n t).jobs
@[simp] theorem countBlock_jobNext (s : State) (b e n : Nat) (t : Trace) : (countBlock s b e n t).jobNext = s.jobNext := (side_countBlock s b e n t).jobNext
@[simp] theorem countBlock_ctxs (s : State) (b e n : Nat) (t : Trace) : (countBlock s b e n t).ctxs = s.ctxs := (side_countBlock s b e n t).ctxs
@[simp] theorem countBlock_models (s : State) (b e n : Nat) (t : Trace) : (countBlock s b e n t).models = s.models := (side_countBlock s b e n t).models
@[simp] theorem countBlock_vocabs (s : State) (b e n : Nat) (t : Trace) : (countBlock s b e n t).vocabs = s.vocabs := (side_countBlock s b e n t).vocabs
@[simp] theorem countBlock_indexes (s : State) (b e n : Nat) (t : Trace) : (countBlock s b e n t).indexes = s.indexes := (side_countBlock s b e n t).indexes
@[simp] theorem countBlock_copies (s : State) (b e n : Nat) (t : Trace) : (countBlock s b e n t).copies = s.copies := (side_countBlock s b e n t).copies
@[simp] theorem countBlock_queries (s : State) (b e n : Nat) (t : Trace) : (countBlock s b e n t).queries = s.queries := (side_countBlock s b e n t).queries
@[simp] theorem countBlock_spans (s : State) (b e n : Nat) (t : Trace) : (countBlock s b e n t).spans = s.spans := (side_countBlock s b e n t).spans
@[simp] theorem countBlock_belt (s : State) (b e n : Nat) (t : Trace) : (countBlock s b e n t).belt = s.belt := (side_countBlock s b e n t).belt
@[simp] theorem countBlock_kv (s : State) (b e n : Nat) (t : Trace) : (countBlock s b e n t).kv = s.kv := (side_countBlock s b e n t).kv
@[simp] theorem countBlock_gens (s : State) (b e n : Nat) (t : Trace) : (countBlock s b e n t).gens = s.gens := (side_countBlock s b e n t).gens
@[simp] theorem countBlock_grammars (s : State) (b e n : Nat) (t : Trace) : (countBlock s b e n t).grammars = s.grammars := (side_countBlock s b e n t).grammars
@[simp] theorem countBlock_pocket (s : State) (b e n : Nat) (t : Trace) : (countBlock s b e n t).pocket = s.pocket := (side_countBlock s b e n t).pocket
@[simp] theorem countBlock_acc (s : State) (b e n : Nat) (t : Trace) : (countBlock s b e n t).acc = s.acc := (side_countBlock s b e n t).acc
@[simp] theorem countBlock_array (s : State) (b e n : Nat) (t : Trace) : (countBlock s b e n t).array = s.array := (side_countBlock s b e n t).array
@[simp] theorem countBlock_mem (s : State) (b e n : Nat) (t : Trace) : (countBlock s b e n t).mem = s.mem := (side_countBlock s b e n t).mem
@[simp] theorem countBlock_chip (s : State) (b e n : Nat) (t : Trace) : (countBlock s b e n t).chip = s.chip := (side_countBlock s b e n t).chip
@[simp] theorem countBlock_sec (s : State) (b e n : Nat) (t : Trace) : (countBlock s b e n t).sec = s.sec := (side_countBlock s b e n t).sec
@[simp] theorem countBlock_power (s : State) (b e n : Nat) (t : Trace) : (countBlock s b e n t).power = s.power := (side_countBlock s b e n t).power
@[simp] theorem countBlock_test (s : State) (b e n : Nat) (t : Trace) : (countBlock s b e n t).test = s.test := (side_countBlock s b e n t).test
@[simp] theorem countBlock_log (s : State) (b e n : Nat) (t : Trace) : (countBlock s b e n t).log = s.log := (side_countBlock s b e n t).log
@[simp] theorem countBlock_actor (s : State) (b e n : Nat) (t : Trace) : (countBlock s b e n t).perf.actor = s.perf.actor := (side_countBlock s b e n t).actor
theorem reg_countBlock (s : State) (b e n : Nat) (t : Trace) {k' : Nat} (h : sideKey k' = false) : reg (countBlock s b e n t) k' = reg s k' :=
  (side_countBlock s b e n t).regs k' h

/-! ### `countRegion` -/

@[simp] theorem countRegion_pending (s : State) (r e n : Nat) (t : Trace) : (countRegion s r e n t).pending = s.pending := (side_countRegion s r e n t).pending
@[simp] theorem countRegion_start (s : State) (r e n : Nat) (t : Trace) : (countRegion s r e n t).start = s.start := (side_countRegion s r e n t).start
@[simp] theorem countRegion_fatal (s : State) (r e n : Nat) (t : Trace) : (countRegion s r e n t).fatal = s.fatal := (side_countRegion s r e n t).fatal
@[simp] theorem countRegion_alerts (s : State) (r e n : Nat) (t : Trace) : (countRegion s r e n t).alerts = s.alerts := (side_countRegion s r e n t).alerts
@[simp] theorem countRegion_eeprom (s : State) (r e n : Nat) (t : Trace) : (countRegion s r e n t).eeprom = s.eeprom := (side_countRegion s r e n t).eeprom
@[simp] theorem countRegion_hem (s : State) (r e n : Nat) (t : Trace) : (countRegion s r e n t).hem = s.hem := (side_countRegion s r e n t).hem
@[simp] theorem countRegion_queues (s : State) (r e n : Nat) (t : Trace) : (countRegion s r e n t).queues = s.queues := (side_countRegion s r e n t).queues
@[simp] theorem countRegion_jobs (s : State) (r e n : Nat) (t : Trace) : (countRegion s r e n t).jobs = s.jobs := (side_countRegion s r e n t).jobs
@[simp] theorem countRegion_jobNext (s : State) (r e n : Nat) (t : Trace) : (countRegion s r e n t).jobNext = s.jobNext := (side_countRegion s r e n t).jobNext
@[simp] theorem countRegion_ctxs (s : State) (r e n : Nat) (t : Trace) : (countRegion s r e n t).ctxs = s.ctxs := (side_countRegion s r e n t).ctxs
@[simp] theorem countRegion_models (s : State) (r e n : Nat) (t : Trace) : (countRegion s r e n t).models = s.models := (side_countRegion s r e n t).models
@[simp] theorem countRegion_vocabs (s : State) (r e n : Nat) (t : Trace) : (countRegion s r e n t).vocabs = s.vocabs := (side_countRegion s r e n t).vocabs
@[simp] theorem countRegion_indexes (s : State) (r e n : Nat) (t : Trace) : (countRegion s r e n t).indexes = s.indexes := (side_countRegion s r e n t).indexes
@[simp] theorem countRegion_copies (s : State) (r e n : Nat) (t : Trace) : (countRegion s r e n t).copies = s.copies := (side_countRegion s r e n t).copies
@[simp] theorem countRegion_queries (s : State) (r e n : Nat) (t : Trace) : (countRegion s r e n t).queries = s.queries := (side_countRegion s r e n t).queries
@[simp] theorem countRegion_spans (s : State) (r e n : Nat) (t : Trace) : (countRegion s r e n t).spans = s.spans := (side_countRegion s r e n t).spans
@[simp] theorem countRegion_belt (s : State) (r e n : Nat) (t : Trace) : (countRegion s r e n t).belt = s.belt := (side_countRegion s r e n t).belt
@[simp] theorem countRegion_kv (s : State) (r e n : Nat) (t : Trace) : (countRegion s r e n t).kv = s.kv := (side_countRegion s r e n t).kv
@[simp] theorem countRegion_gens (s : State) (r e n : Nat) (t : Trace) : (countRegion s r e n t).gens = s.gens := (side_countRegion s r e n t).gens
@[simp] theorem countRegion_grammars (s : State) (r e n : Nat) (t : Trace) : (countRegion s r e n t).grammars = s.grammars := (side_countRegion s r e n t).grammars
@[simp] theorem countRegion_pocket (s : State) (r e n : Nat) (t : Trace) : (countRegion s r e n t).pocket = s.pocket := (side_countRegion s r e n t).pocket
@[simp] theorem countRegion_acc (s : State) (r e n : Nat) (t : Trace) : (countRegion s r e n t).acc = s.acc := (side_countRegion s r e n t).acc
@[simp] theorem countRegion_array (s : State) (r e n : Nat) (t : Trace) : (countRegion s r e n t).array = s.array := (side_countRegion s r e n t).array
@[simp] theorem countRegion_mem (s : State) (r e n : Nat) (t : Trace) : (countRegion s r e n t).mem = s.mem := (side_countRegion s r e n t).mem
@[simp] theorem countRegion_chip (s : State) (r e n : Nat) (t : Trace) : (countRegion s r e n t).chip = s.chip := (side_countRegion s r e n t).chip
@[simp] theorem countRegion_sec (s : State) (r e n : Nat) (t : Trace) : (countRegion s r e n t).sec = s.sec := (side_countRegion s r e n t).sec
@[simp] theorem countRegion_power (s : State) (r e n : Nat) (t : Trace) : (countRegion s r e n t).power = s.power := (side_countRegion s r e n t).power
@[simp] theorem countRegion_test (s : State) (r e n : Nat) (t : Trace) : (countRegion s r e n t).test = s.test := (side_countRegion s r e n t).test
@[simp] theorem countRegion_log (s : State) (r e n : Nat) (t : Trace) : (countRegion s r e n t).log = s.log := (side_countRegion s r e n t).log
@[simp] theorem countRegion_actor (s : State) (r e n : Nat) (t : Trace) : (countRegion s r e n t).perf.actor = s.perf.actor := (side_countRegion s r e n t).actor
theorem reg_countRegion (s : State) (r e n : Nat) (t : Trace) {k' : Nat} (h : sideKey k' = false) : reg (countRegion s r e n t) k' = reg s k' :=
  (side_countRegion s r e n t).regs k' h

/-! ### `countChip` -/

@[simp] theorem countChip_pending (s : State) (e n : Nat) (t : Trace) : (countChip s e n t).pending = s.pending := (side_countChip s e n t).pending
@[simp] theorem countChip_start (s : State) (e n : Nat) (t : Trace) : (countChip s e n t).start = s.start := (side_countChip s e n t).start
@[simp] theorem countChip_fatal (s : State) (e n : Nat) (t : Trace) : (countChip s e n t).fatal = s.fatal := (side_countChip s e n t).fatal
@[simp] theorem countChip_alerts (s : State) (e n : Nat) (t : Trace) : (countChip s e n t).alerts = s.alerts := (side_countChip s e n t).alerts
@[simp] theorem countChip_eeprom (s : State) (e n : Nat) (t : Trace) : (countChip s e n t).eeprom = s.eeprom := (side_countChip s e n t).eeprom
@[simp] theorem countChip_hem (s : State) (e n : Nat) (t : Trace) : (countChip s e n t).hem = s.hem := (side_countChip s e n t).hem
@[simp] theorem countChip_queues (s : State) (e n : Nat) (t : Trace) : (countChip s e n t).queues = s.queues := (side_countChip s e n t).queues
@[simp] theorem countChip_jobs (s : State) (e n : Nat) (t : Trace) : (countChip s e n t).jobs = s.jobs := (side_countChip s e n t).jobs
@[simp] theorem countChip_jobNext (s : State) (e n : Nat) (t : Trace) : (countChip s e n t).jobNext = s.jobNext := (side_countChip s e n t).jobNext
@[simp] theorem countChip_ctxs (s : State) (e n : Nat) (t : Trace) : (countChip s e n t).ctxs = s.ctxs := (side_countChip s e n t).ctxs
@[simp] theorem countChip_models (s : State) (e n : Nat) (t : Trace) : (countChip s e n t).models = s.models := (side_countChip s e n t).models
@[simp] theorem countChip_vocabs (s : State) (e n : Nat) (t : Trace) : (countChip s e n t).vocabs = s.vocabs := (side_countChip s e n t).vocabs
@[simp] theorem countChip_indexes (s : State) (e n : Nat) (t : Trace) : (countChip s e n t).indexes = s.indexes := (side_countChip s e n t).indexes
@[simp] theorem countChip_copies (s : State) (e n : Nat) (t : Trace) : (countChip s e n t).copies = s.copies := (side_countChip s e n t).copies
@[simp] theorem countChip_queries (s : State) (e n : Nat) (t : Trace) : (countChip s e n t).queries = s.queries := (side_countChip s e n t).queries
@[simp] theorem countChip_spans (s : State) (e n : Nat) (t : Trace) : (countChip s e n t).spans = s.spans := (side_countChip s e n t).spans
@[simp] theorem countChip_belt (s : State) (e n : Nat) (t : Trace) : (countChip s e n t).belt = s.belt := (side_countChip s e n t).belt
@[simp] theorem countChip_kv (s : State) (e n : Nat) (t : Trace) : (countChip s e n t).kv = s.kv := (side_countChip s e n t).kv
@[simp] theorem countChip_gens (s : State) (e n : Nat) (t : Trace) : (countChip s e n t).gens = s.gens := (side_countChip s e n t).gens
@[simp] theorem countChip_grammars (s : State) (e n : Nat) (t : Trace) : (countChip s e n t).grammars = s.grammars := (side_countChip s e n t).grammars
@[simp] theorem countChip_pocket (s : State) (e n : Nat) (t : Trace) : (countChip s e n t).pocket = s.pocket := (side_countChip s e n t).pocket
@[simp] theorem countChip_acc (s : State) (e n : Nat) (t : Trace) : (countChip s e n t).acc = s.acc := (side_countChip s e n t).acc
@[simp] theorem countChip_array (s : State) (e n : Nat) (t : Trace) : (countChip s e n t).array = s.array := (side_countChip s e n t).array
@[simp] theorem countChip_mem (s : State) (e n : Nat) (t : Trace) : (countChip s e n t).mem = s.mem := (side_countChip s e n t).mem
@[simp] theorem countChip_chip (s : State) (e n : Nat) (t : Trace) : (countChip s e n t).chip = s.chip := (side_countChip s e n t).chip
@[simp] theorem countChip_sec (s : State) (e n : Nat) (t : Trace) : (countChip s e n t).sec = s.sec := (side_countChip s e n t).sec
@[simp] theorem countChip_power (s : State) (e n : Nat) (t : Trace) : (countChip s e n t).power = s.power := (side_countChip s e n t).power
@[simp] theorem countChip_test (s : State) (e n : Nat) (t : Trace) : (countChip s e n t).test = s.test := (side_countChip s e n t).test
@[simp] theorem countChip_log (s : State) (e n : Nat) (t : Trace) : (countChip s e n t).log = s.log := (side_countChip s e n t).log
@[simp] theorem countChip_actor (s : State) (e n : Nat) (t : Trace) : (countChip s e n t).perf.actor = s.perf.actor := (side_countChip s e n t).actor
theorem reg_countChip (s : State) (e n : Nat) (t : Trace) {k' : Nat} (h : sideKey k' = false) : reg (countChip s e n t) k' = reg s k' :=
  (side_countChip s e n t).regs k' h

/-! ### `tallyJob` -/

@[simp] theorem tallyJob_pending (s : State) (j : Job) (e n : Nat) : (tallyJob s j e n).pending = s.pending := (side_tallyJob s j e n).pending
@[simp] theorem tallyJob_start (s : State) (j : Job) (e n : Nat) : (tallyJob s j e n).start = s.start := (side_tallyJob s j e n).start
@[simp] theorem tallyJob_fatal (s : State) (j : Job) (e n : Nat) : (tallyJob s j e n).fatal = s.fatal := (side_tallyJob s j e n).fatal
@[simp] theorem tallyJob_alerts (s : State) (j : Job) (e n : Nat) : (tallyJob s j e n).alerts = s.alerts := (side_tallyJob s j e n).alerts
@[simp] theorem tallyJob_eeprom (s : State) (j : Job) (e n : Nat) : (tallyJob s j e n).eeprom = s.eeprom := (side_tallyJob s j e n).eeprom
@[simp] theorem tallyJob_hem (s : State) (j : Job) (e n : Nat) : (tallyJob s j e n).hem = s.hem := (side_tallyJob s j e n).hem
@[simp] theorem tallyJob_queues (s : State) (j : Job) (e n : Nat) : (tallyJob s j e n).queues = s.queues := (side_tallyJob s j e n).queues
@[simp] theorem tallyJob_jobs (s : State) (j : Job) (e n : Nat) : (tallyJob s j e n).jobs = s.jobs := (side_tallyJob s j e n).jobs
@[simp] theorem tallyJob_jobNext (s : State) (j : Job) (e n : Nat) : (tallyJob s j e n).jobNext = s.jobNext := (side_tallyJob s j e n).jobNext
@[simp] theorem tallyJob_ctxs (s : State) (j : Job) (e n : Nat) : (tallyJob s j e n).ctxs = s.ctxs := (side_tallyJob s j e n).ctxs
@[simp] theorem tallyJob_models (s : State) (j : Job) (e n : Nat) : (tallyJob s j e n).models = s.models := (side_tallyJob s j e n).models
@[simp] theorem tallyJob_vocabs (s : State) (j : Job) (e n : Nat) : (tallyJob s j e n).vocabs = s.vocabs := (side_tallyJob s j e n).vocabs
@[simp] theorem tallyJob_indexes (s : State) (j : Job) (e n : Nat) : (tallyJob s j e n).indexes = s.indexes := (side_tallyJob s j e n).indexes
@[simp] theorem tallyJob_copies (s : State) (j : Job) (e n : Nat) : (tallyJob s j e n).copies = s.copies := (side_tallyJob s j e n).copies
@[simp] theorem tallyJob_queries (s : State) (j : Job) (e n : Nat) : (tallyJob s j e n).queries = s.queries := (side_tallyJob s j e n).queries
@[simp] theorem tallyJob_spans (s : State) (j : Job) (e n : Nat) : (tallyJob s j e n).spans = s.spans := (side_tallyJob s j e n).spans
@[simp] theorem tallyJob_belt (s : State) (j : Job) (e n : Nat) : (tallyJob s j e n).belt = s.belt := (side_tallyJob s j e n).belt
@[simp] theorem tallyJob_kv (s : State) (j : Job) (e n : Nat) : (tallyJob s j e n).kv = s.kv := (side_tallyJob s j e n).kv
@[simp] theorem tallyJob_gens (s : State) (j : Job) (e n : Nat) : (tallyJob s j e n).gens = s.gens := (side_tallyJob s j e n).gens
@[simp] theorem tallyJob_grammars (s : State) (j : Job) (e n : Nat) : (tallyJob s j e n).grammars = s.grammars := (side_tallyJob s j e n).grammars
@[simp] theorem tallyJob_pocket (s : State) (j : Job) (e n : Nat) : (tallyJob s j e n).pocket = s.pocket := (side_tallyJob s j e n).pocket
@[simp] theorem tallyJob_acc (s : State) (j : Job) (e n : Nat) : (tallyJob s j e n).acc = s.acc := (side_tallyJob s j e n).acc
@[simp] theorem tallyJob_array (s : State) (j : Job) (e n : Nat) : (tallyJob s j e n).array = s.array := (side_tallyJob s j e n).array
@[simp] theorem tallyJob_mem (s : State) (j : Job) (e n : Nat) : (tallyJob s j e n).mem = s.mem := (side_tallyJob s j e n).mem
@[simp] theorem tallyJob_chip (s : State) (j : Job) (e n : Nat) : (tallyJob s j e n).chip = s.chip := (side_tallyJob s j e n).chip
@[simp] theorem tallyJob_sec (s : State) (j : Job) (e n : Nat) : (tallyJob s j e n).sec = s.sec := (side_tallyJob s j e n).sec
@[simp] theorem tallyJob_power (s : State) (j : Job) (e n : Nat) : (tallyJob s j e n).power = s.power := (side_tallyJob s j e n).power
@[simp] theorem tallyJob_test (s : State) (j : Job) (e n : Nat) : (tallyJob s j e n).test = s.test := (side_tallyJob s j e n).test
@[simp] theorem tallyJob_log (s : State) (j : Job) (e n : Nat) : (tallyJob s j e n).log = s.log := (side_tallyJob s j e n).log
@[simp] theorem tallyJob_actor (s : State) (j : Job) (e n : Nat) : (tallyJob s j e n).perf.actor = s.perf.actor := (side_tallyJob s j e n).actor
theorem reg_tallyJob (s : State) (j : Job) (e n : Nat) {k' : Nat} (h : sideKey k' = false) : reg (tallyJob s j e n) k' = reg s k' :=
  (side_tallyJob s j e n).regs k' h

/-! ### `progressOf` and `finish` -/

@[simp] theorem progressOf_pending (s : State) (c : Nat) : (progressOf s c).pending = s.pending := by
  unfold progressOf; split <;> rfl
@[simp] theorem progressOf_start (s : State) (c : Nat) : (progressOf s c).start = s.start := by
  unfold progressOf; split <;> rfl
@[simp] theorem progressOf_fatal (s : State) (c : Nat) : (progressOf s c).fatal = s.fatal := by
  unfold progressOf; split <;> rfl
@[simp] theorem progressOf_alerts (s : State) (c : Nat) : (progressOf s c).alerts = s.alerts := by
  unfold progressOf; split <;> rfl
@[simp] theorem progressOf_regs (s : State) (c : Nat) : (progressOf s c).regs = s.regs := by
  unfold progressOf; split <;> rfl
@[simp] theorem progressOf_eeprom (s : State) (c : Nat) : (progressOf s c).eeprom = s.eeprom := by
  unfold progressOf; split <;> rfl
@[simp] theorem progressOf_dict (s : State) (c : Nat) : (progressOf s c).dict = s.dict := by
  unfold progressOf; split <;> rfl
@[simp] theorem progressOf_hem (s : State) (c : Nat) : (progressOf s c).hem = s.hem := by
  unfold progressOf; split <;> rfl
@[simp] theorem progressOf_queues (s : State) (c : Nat) : (progressOf s c).queues = s.queues := by
  unfold progressOf; split <;> rfl
@[simp] theorem progressOf_jobs (s : State) (c : Nat) : (progressOf s c).jobs = s.jobs := by
  unfold progressOf; split <;> rfl
@[simp] theorem progressOf_jobNext (s : State) (c : Nat) : (progressOf s c).jobNext = s.jobNext := by
  unfold progressOf; split <;> rfl
@[simp] theorem progressOf_models (s : State) (c : Nat) : (progressOf s c).models = s.models := by
  unfold progressOf; split <;> rfl
@[simp] theorem progressOf_vocabs (s : State) (c : Nat) : (progressOf s c).vocabs = s.vocabs := by
  unfold progressOf; split <;> rfl
@[simp] theorem progressOf_indexes (s : State) (c : Nat) : (progressOf s c).indexes = s.indexes := by
  unfold progressOf; split <;> rfl
@[simp] theorem progressOf_copies (s : State) (c : Nat) : (progressOf s c).copies = s.copies := by
  unfold progressOf; split <;> rfl
@[simp] theorem progressOf_queries (s : State) (c : Nat) : (progressOf s c).queries = s.queries := by
  unfold progressOf; split <;> rfl
@[simp] theorem progressOf_spans (s : State) (c : Nat) : (progressOf s c).spans = s.spans := by
  unfold progressOf; split <;> rfl
@[simp] theorem progressOf_belt (s : State) (c : Nat) : (progressOf s c).belt = s.belt := by
  unfold progressOf; split <;> rfl
@[simp] theorem progressOf_kv (s : State) (c : Nat) : (progressOf s c).kv = s.kv := by
  unfold progressOf; split <;> rfl
@[simp] theorem progressOf_gens (s : State) (c : Nat) : (progressOf s c).gens = s.gens := by
  unfold progressOf; split <;> rfl
@[simp] theorem progressOf_grammars (s : State) (c : Nat) : (progressOf s c).grammars = s.grammars := by
  unfold progressOf; split <;> rfl
@[simp] theorem progressOf_pocket (s : State) (c : Nat) : (progressOf s c).pocket = s.pocket := by
  unfold progressOf; split <;> rfl
@[simp] theorem progressOf_acc (s : State) (c : Nat) : (progressOf s c).acc = s.acc := by
  unfold progressOf; split <;> rfl
@[simp] theorem progressOf_array (s : State) (c : Nat) : (progressOf s c).array = s.array := by
  unfold progressOf; split <;> rfl
@[simp] theorem progressOf_mem (s : State) (c : Nat) : (progressOf s c).mem = s.mem := by
  unfold progressOf; split <;> rfl
@[simp] theorem progressOf_aedup (s : State) (c : Nat) : (progressOf s c).aedup = s.aedup := by
  unfold progressOf; split <;> rfl
@[simp] theorem progressOf_pelgan (s : State) (c : Nat) : (progressOf s c).pelgan = s.pelgan := by
  unfold progressOf; split <;> rfl
@[simp] theorem progressOf_chip (s : State) (c : Nat) : (progressOf s c).chip = s.chip := by
  unfold progressOf; split <;> rfl
@[simp] theorem progressOf_sec (s : State) (c : Nat) : (progressOf s c).sec = s.sec := by
  unfold progressOf; split <;> rfl
@[simp] theorem progressOf_power (s : State) (c : Nat) : (progressOf s c).power = s.power := by
  unfold progressOf; split <;> rfl
@[simp] theorem progressOf_test (s : State) (c : Nat) : (progressOf s c).test = s.test := by
  unfold progressOf; split <;> rfl
@[simp] theorem progressOf_perf (s : State) (c : Nat) : (progressOf s c).perf = s.perf := by
  unfold progressOf; split <;> rfl
@[simp] theorem progressOf_log (s : State) (c : Nat) : (progressOf s c).log = s.log := by
  unfold progressOf; split <;> rfl
@[simp] theorem progressOf_out (s : State) (c : Nat) : (progressOf s c).out = s.out := by
  unfold progressOf; split <;> rfl
@[simp] theorem progressOf_freeCount (s : State) (c : Nat) : (progressOf s c).freeCount = s.freeCount := by
  unfold progressOf; split <;> rfl

/-- A progress event changes two fields of a context's entry, which tell of it. -/
theorem ctxOf_progressOf (s : State) (c d : Nat) :
    ctxOf (progressOf s c) d = ctxOf s d ∨ ctxOf (progressOf s c) d = { ctxOf s d with progress := true, dogCount := 0 } := by
  unfold progressOf
  split
  · next x e =>
    by_cases h : d = c
    · subst h; right; rw [ctxOf_setCtx_self]; simp [ctxOf, e]
    · left; simp [ctxOf_setCtx_ne _ _ h]
  · exact .inl rfl

@[simp] theorem finish_pending (s : State) (id st r : Nat) : (finish s id st r).pending = s.pending := by
  unfold finish; split; (by_cases h : tabHas s.array.runs id = true <;> simp [h]); rfl
@[simp] theorem finish_start (s : State) (id st r : Nat) : (finish s id st r).start = s.start := by
  unfold finish; split; (by_cases h : tabHas s.array.runs id = true <;> simp [h]); rfl
@[simp] theorem finish_fatal (s : State) (id st r : Nat) : (finish s id st r).fatal = s.fatal := by
  unfold finish; split; (by_cases h : tabHas s.array.runs id = true <;> simp [h]); rfl
@[simp] theorem finish_alerts (s : State) (id st r : Nat) : (finish s id st r).alerts = s.alerts := by
  unfold finish; split; (by_cases h : tabHas s.array.runs id = true <;> simp [h]); rfl
@[simp] theorem finish_regs (s : State) (id st r : Nat) : (finish s id st r).regs = s.regs := by
  unfold finish; split; (by_cases h : tabHas s.array.runs id = true <;> simp [h]); rfl
@[simp] theorem finish_eeprom (s : State) (id st r : Nat) : (finish s id st r).eeprom = s.eeprom := by
  unfold finish; split; (by_cases h : tabHas s.array.runs id = true <;> simp [h]); rfl
@[simp] theorem finish_dict (s : State) (id st r : Nat) : (finish s id st r).dict = s.dict := by
  unfold finish; split; (by_cases h : tabHas s.array.runs id = true <;> simp [h]); rfl
@[simp] theorem finish_hem (s : State) (id st r : Nat) : (finish s id st r).hem = s.hem := by
  unfold finish; split; (by_cases h : tabHas s.array.runs id = true <;> simp [h]); rfl
@[simp] theorem finish_queues (s : State) (id st r : Nat) : (finish s id st r).queues = s.queues := by
  unfold finish; split; (by_cases h : tabHas s.array.runs id = true <;> simp [h]); rfl
@[simp] theorem finish_jobNext (s : State) (id st r : Nat) : (finish s id st r).jobNext = s.jobNext := by
  unfold finish; split; (by_cases h : tabHas s.array.runs id = true <;> simp [h]); rfl
@[simp] theorem finish_models (s : State) (id st r : Nat) : (finish s id st r).models = s.models := by
  unfold finish; split; (by_cases h : tabHas s.array.runs id = true <;> simp [h]); rfl
@[simp] theorem finish_vocabs (s : State) (id st r : Nat) : (finish s id st r).vocabs = s.vocabs := by
  unfold finish; split; (by_cases h : tabHas s.array.runs id = true <;> simp [h]); rfl
@[simp] theorem finish_indexes (s : State) (id st r : Nat) : (finish s id st r).indexes = s.indexes := by
  unfold finish; split; (by_cases h : tabHas s.array.runs id = true <;> simp [h]); rfl
@[simp] theorem finish_copies (s : State) (id st r : Nat) : (finish s id st r).copies = s.copies := by
  unfold finish; split; (by_cases h : tabHas s.array.runs id = true <;> simp [h]); rfl
@[simp] theorem finish_spans (s : State) (id st r : Nat) : (finish s id st r).spans = s.spans := by
  unfold finish; split; (by_cases h : tabHas s.array.runs id = true <;> simp [h]); rfl
@[simp] theorem finish_belt (s : State) (id st r : Nat) : (finish s id st r).belt = s.belt := by
  unfold finish; split; (by_cases h : tabHas s.array.runs id = true <;> simp [h]); rfl
@[simp] theorem finish_kv (s : State) (id st r : Nat) : (finish s id st r).kv = s.kv := by
  unfold finish; split; (by_cases h : tabHas s.array.runs id = true <;> simp [h]); rfl
@[simp] theorem finish_gens (s : State) (id st r : Nat) : (finish s id st r).gens = s.gens := by
  unfold finish; split; (by_cases h : tabHas s.array.runs id = true <;> simp [h]); rfl
@[simp] theorem finish_grammars (s : State) (id st r : Nat) : (finish s id st r).grammars = s.grammars := by
  unfold finish; split; (by_cases h : tabHas s.array.runs id = true <;> simp [h]); rfl
@[simp] theorem finish_pocket (s : State) (id st r : Nat) : (finish s id st r).pocket = s.pocket := by
  unfold finish; split; (by_cases h : tabHas s.array.runs id = true <;> simp [h]); rfl
@[simp] theorem finish_acc (s : State) (id st r : Nat) : (finish s id st r).acc = s.acc := by
  unfold finish; split; (by_cases h : tabHas s.array.runs id = true <;> simp [h]); rfl
@[simp] theorem finish_mem (s : State) (id st r : Nat) : (finish s id st r).mem = s.mem := by
  unfold finish; split; (by_cases h : tabHas s.array.runs id = true <;> simp [h]); rfl
@[simp] theorem finish_aedup (s : State) (id st r : Nat) : (finish s id st r).aedup = s.aedup := by
  unfold finish; split; (by_cases h : tabHas s.array.runs id = true <;> simp [h]); rfl
@[simp] theorem finish_pelgan (s : State) (id st r : Nat) : (finish s id st r).pelgan = s.pelgan := by
  unfold finish; split; (by_cases h : tabHas s.array.runs id = true <;> simp [h]); rfl
@[simp] theorem finish_chip (s : State) (id st r : Nat) : (finish s id st r).chip = s.chip := by
  unfold finish; split; (by_cases h : tabHas s.array.runs id = true <;> simp [h]); rfl
@[simp] theorem finish_sec (s : State) (id st r : Nat) : (finish s id st r).sec = s.sec := by
  unfold finish; split; (by_cases h : tabHas s.array.runs id = true <;> simp [h]); rfl
@[simp] theorem finish_power (s : State) (id st r : Nat) : (finish s id st r).power = s.power := by
  unfold finish; split; (by_cases h : tabHas s.array.runs id = true <;> simp [h]); rfl
@[simp] theorem finish_test (s : State) (id st r : Nat) : (finish s id st r).test = s.test := by
  unfold finish; split; (by_cases h : tabHas s.array.runs id = true <;> simp [h]); rfl
@[simp] theorem finish_perf (s : State) (id st r : Nat) : (finish s id st r).perf = s.perf := by
  unfold finish; split; (by_cases h : tabHas s.array.runs id = true <;> simp [h]); rfl
@[simp] theorem finish_log (s : State) (id st r : Nat) : (finish s id st r).log = s.log := by
  unfold finish; split; (by_cases h : tabHas s.array.runs id = true <;> simp [h]); rfl
@[simp] theorem finish_out (s : State) (id st r : Nat) : (finish s id st r).out = s.out := by
  unfold finish; split; (by_cases h : tabHas s.array.runs id = true <;> simp [h]); rfl
@[simp] theorem finish_freeCount (s : State) (id st r : Nat) : (finish s id st r).freeCount = s.freeCount := by
  unfold finish; split; (by_cases h : tabHas s.array.runs id = true <;> simp [h]); rfl

theorem reg_finish (s : State) (id st r k : Nat) : reg (finish s id st r) k = reg s k := reg_congr (by simp) k

/-- A command that is admitted has its outcome. -/
theorem finish_get {s : State} {id : Nat} {j : Job} (st r : Nat) (h : tabGet s.jobs id = some j) :
    tabGet (finish s id st r).jobs id = some { j with phase := .done st r } := by
  unfold finish
  rw [h]
  simp only [progressOf_jobs]
  by_cases g : tabHas s.array.runs id = true <;> simp [g, h]

/-- The other commands are as they were. -/
theorem finish_get_ne (s : State) {id i : Nat} (st r : Nat) (h : i ≠ id) :
    tabGet (finish s id st r).jobs i = tabGet s.jobs i := by
  unfold finish
  split
  · simp only [progressOf_jobs]
    by_cases g : tabHas s.array.runs id = true <;> simp [g, updJob_get_ne _ _ h]
  · rfl

theorem ends_finish {s : State} {id : Nat} {j : Job} (st r : Nat) (h : tabGet s.jobs id = some j) :
    ends (finish s id st r) id st r := by simp [ends, finish_get st r h]

theorem ends_congr {s t : State} {id st r : Nat} (h : t.jobs = s.jobs) : ends t id st r ↔ ends s id st r := by
  simp [ends, h]

/-! ### One step of a command -/

theorem runsNow_job {s : State} {id op : Nat} {src : State → Job → List (Nat × Nat)} {j : Job}
    (h : runsNow s id op src j = true) : tabGet s.jobs id = some j := by
  simp only [runsNow, Bool.and_eq_true, beq_iff_eq] at h
  exact h.1.1.1.1.1.1

/-- A command that runs takes the step that its body gives. -/
theorem runJob_of_runsNow {s : State} {id op : Nat} {src : State → Job → List (Nat × Nat)} {j : Job}
    (body : State → Nat → Job → State) (h : runsNow s id op src j = true) :
    runJob s id op src body =
      { body { s with perf := { s.perf with actor := some j.ctx } } id j with
        perf := { (body { s with perf := { s.perf with actor := some j.ctx } } id j).perf with actor := none } } := by
  have hj := runsNow_job h
  simp only [runsNow, Bool.and_eq_true, Bool.or_eq_true, beq_iff_eq] at h
  obtain ⟨⟨⟨⟨⟨⟨-, h1⟩, h2⟩, h3⟩, h4⟩, h5⟩, h6⟩ := h
  unfold runJob
  rw [hj]
  simp only [h1, h2, h3, h5, h6, Bool.and_self, Bool.not_true, Bool.false_eq_true, if_false, if_true]
  rw [if_pos]
  · rfl
  · rcases h4 with h4 | h4 <;> simp [h4]

/-- Only the outcome of a command and its records differ after it. -/
theorem onlyOutcome_finish (s : State) (id st r : Nat) (a : Option Nat) :
    OnlyOutcome s { finish s id st r with perf := { (finish s id st r).perf with actor := a } } := by
  constructor <;> simp

end Sys2Proof.Machine
end

