-- ==== Sys2Proof/Laws/Units.lean ====
section
/-! SUPPORT. What touching, preparing and writing memory can change: reads and preparations change the units' records alone,
writes the bytes that they name. -/

namespace Sys2Proof.Machine

/-- Only the records of units differ. -/
def UnitsOnly (s t : State) : Prop := ∃ us, t = { s with mem := { s.mem with units := us } }

theorem UnitsOnly.refl (s : State) : UnitsOnly s s := ⟨s.mem.units, rfl⟩

theorem UnitsOnly.trans {a b c : State} (h : UnitsOnly a b) (k : UnitsOnly b c) : UnitsOnly a c := by
  obtain ⟨u, rfl⟩ := h
  obtain ⟨v, rfl⟩ := k
  exact ⟨v, rfl⟩

theorem unitsOnly_setUnit (s : State) (u : Nat) (x : UnitInfo) : UnitsOnly s (setUnit s u x) := ⟨_, rfl⟩

theorem unitsOnly_startMove (s : State) (u : Nat) (d : Home) (c : MoveCause) : UnitsOnly s (startMove s u d c) := by
  unfold startMove
  split
  · split
    · exact .refl s
    · exact unitsOnly_setUnit _ _ _
  · exact .refl s

theorem unitsOnly_demoteIn {s t : State} {r : Nat} (h : demoteIn s r = .wait t) : UnitsOnly s t := by
  unfold demoteIn at h
  dsimp only at h
  split at h
  · cases h; exact .refl s
  · split at h
    · split at h
      · cases h; exact unitsOnly_startMove _ _ _ _
      · cases h
    · split at h
      · cases h
      · cases h; exact .refl s

theorem unitsOnly_allocate {s t : State} {r : Nat} (h : allocate s r = .wait t) : UnitsOnly s t := by
  unfold allocate at h
  split at h
  · cases h
  · split at h
    · cases h
    · exact unitsOnly_demoteIn h

theorem unitsOnly_promote (s : State) (u : Nat) (x : UnitInfo) (p : Nat) : UnitsOnly s (promote s u x p) := by
  unfold promote
  split
  · split
    · exact unitsOnly_startMove _ _ _ _
    · next h => exact unitsOnly_allocate h
    · exact .refl s
  · exact .refl s

theorem unitsOnly_touchUnit (s : State) (u : Nat) : UnitsOnly s (touchUnit s u) := by
  unfold touchUnit
  split
  · exact (unitsOnly_setUnit _ _ _).trans (unitsOnly_promote _ _ _ _)
  · exact .refl s

theorem unitsOnly_foldl {α : Type} (f : State → α → State) (l : List α) (s : State) (h : ∀ t a, UnitsOnly t (f t a)) :
    UnitsOnly s (l.foldl f s) := by
  induction l generalizing s with
  | nil => exact .refl s
  | cons a l ih => exact (h s a).trans (ih _)

theorem unitsOnly_touchUnits (s : State) (a n : Nat) : UnitsOnly s (touchUnits s a n) := by
  unfold touchUnits
  split
  · exact .refl s
  · exact unitsOnly_foldl _ _ _ unitsOnly_touchUnit

/-- What a preparation answers differs only in the records of units. -/
def WritePrep.UnitsOnly (s : State) : WritePrep → Prop
  | .ready t => Machine.UnitsOnly s t
  | .wait t => Machine.UnitsOnly s t
  | .fail t _ => Machine.UnitsOnly s t

theorem prepareUnit_units (s : State) (u : Nat) : (prepareUnit s u).UnitsOnly s := by
  unfold prepareUnit
  split
  · exact UnitsOnly.refl s
  · split
    · split
      · exact unitsOnly_setUnit _ _ _
      · exact UnitsOnly.refl s
    · dsimp only
      split
      · exact unitsOnly_setUnit _ _ _
      · split
        · split
          · exact unitsOnly_setUnit _ _ _
          · next h => exact unitsOnly_allocate h
          · exact UnitsOnly.refl s
        · exact unitsOnly_setUnit _ _ _

theorem prepareUnits_units (s : State) (us : List Nat) : (prepareUnits s us).UnitsOnly s := by
  induction us generalizing s with
  | nil => exact UnitsOnly.refl s
  | cons u us ih =>
    have h := prepareUnit_units s u
    unfold prepareUnits
    revert h
    cases prepareUnit s u with
    | ready t =>
      intro h
      dsimp only
      have k := ih t
      revert k
      cases prepareUnits t us <;> exact fun k => UnitsOnly.trans h k
    | wait t => exact id
    | fail t st => exact id

theorem prepareWrite_units (s : State) (a n : Nat) : (prepareWrite s a n).UnitsOnly s := by
  unfold prepareWrite
  split
  · split <;> exact UnitsOnly.refl s
  · have h := prepareUnits_units s (unitsOfRange a n)
    revert h
    cases prepareUnits s (unitsOfRange a n) with
    | ready t =>
      intro h
      dsimp only
      split
      · exact h
      · split
        · exact UnitsOnly.refl s
        · split
          · exact UnitsOnly.refl s
          · split <;> exact h
    | wait t => exact id
    | fail t st => exact id

theorem side_countReads (s : State) (a n : Nat) : Side s (countReads s a n) := by
  unfold countReads
  split
  · exact .refl s
  · refine side_foldl _ _ (fun t u => ?_) s
    dsimp only
    split
    · split
      · exact side_countRegion _ _ _ _ _
      · exact side_foldl _ _ (fun _ _ => side_countRegion _ _ _ _ _) t
      · exact .refl t
    · exact .refl t

theorem side_countWrites (s : State) (a n : Nat) : Side s (countWrites s a n) := by
  unfold countWrites
  refine side_foldl _ _ (fun t u => ?_) s
  dsimp only
  split
  · split
    · exact side_countRegion _ _ _ _ _
    · exact .refl t
  · exact .refl t

/-- A read touches units and is counted. -/
theorem touchRange_eq (s : State) (a n : Nat) :
    ∃ us, Side { s with mem := { s.mem with units := us } } (touchRange s a n) := by
  obtain ⟨us, e⟩ := unitsOnly_touchUnits s a n
  exact ⟨us, by unfold touchRange; rw [e]; exact side_countReads _ _ _⟩

/-- The memory that a write of bytes leaves: the bytes in their place, the records of units, of staging and of poisoned
lines as the write makes them. -/
theorem writeBytes_eq (s : State) (a : Nat) (bs : List Nat) :
    ∃ us st o po, Side { s with mem := { s.mem with
        dev := if inWindow a then s.mem.dev else memWrite s.mem.dev a bs,
        comp := if inWindow a then memWrite s.mem.comp (a - companionBase) bs else s.mem.comp,
        units := us, staged := st, order := o, poison := po } } (writeBytes s a bs) := by
  by_cases e : bs = []
  · subst e
    refine ⟨s.mem.units, s.mem.staged, s.mem.order, s.mem.poison, ?_⟩
    have h : writeBytes s a [] = s := by simp [writeBytes]
    rw [h]
    simp only [memWrite, ite_self]
    exact .refl s
  · have e' : ¬ bs.isEmpty = true := by simpa using e
    unfold writeBytes
    rw [if_neg e']
    by_cases h : inWindow a = true
    · rw [if_pos h]
      refine ⟨s.mem.units, s.mem.staged, s.mem.order, s.mem.poison, ?_⟩
      simp only [h, if_true]
      exact side_send _ _
    · rw [if_neg h]
      simp only [h, if_false]
      obtain ⟨us, e⟩ := unitsOnly_touchUnits
        (stageRange (unpoison { s with mem := { s.mem with dev := memWrite s.mem.dev a bs } } a bs.length) a bs.length true)
        a bs.length
      rw [e]
      unfold stageRange
      dsimp only
      by_cases g : ((pagesOfRange a bs.length).filter (fun p =>
        onFlash (unpoison { s with mem := { s.mem with dev := memWrite s.mem.dev a bs } } a bs.length) (p / 512))).isEmpty = true
      · rw [if_pos g]
        exact ⟨us, s.mem.staged, s.mem.order, _, side_countWrites _ _ _⟩
      · rw [if_neg g]
        exact ⟨us, _, _, _, side_countWrites _ _ _⟩

theorem touchRange_mem (s : State) (a n : Nat) : ∃ us, (touchRange s a n).mem = { s.mem with units := us } := by
  obtain ⟨us, h⟩ := touchRange_eq s a n
  exact ⟨us, h.mem⟩

@[simp] theorem touchRange_dev (s : State) (a n : Nat) : (touchRange s a n).mem.dev = s.mem.dev := by
  obtain ⟨us, h⟩ := touchRange_mem s a n
  rw [h]

@[simp] theorem touchRange_comp (s : State) (a n : Nat) : (touchRange s a n).mem.comp = s.mem.comp := by
  obtain ⟨us, h⟩ := touchRange_mem s a n
  rw [h]

@[simp] theorem touchRange_objects (s : State) (a n : Nat) : (touchRange s a n).mem.objects = s.mem.objects := by
  obtain ⟨us, h⟩ := touchRange_mem s a n
  rw [h]

theorem reg_touchRange (s : State) (a n : Nat) {k : Nat} (h : sideKey k = false) :
    reg (touchRange s a n) k = reg s k := by
  obtain ⟨us, e⟩ := touchRange_eq s a n
  exact e.regs k h

theorem reg_writeBytes (s : State) (a : Nat) (bs : List Nat) {k : Nat} (h : sideKey k = false) :
    reg (writeBytes s a bs) k = reg s k := by
  obtain ⟨_, _, _, _, e⟩ := writeBytes_eq s a bs
  exact e.regs k h

theorem writeBytes_dev (s : State) (a : Nat) (bs : List Nat) :
    (writeBytes s a bs).mem.dev = if inWindow a then s.mem.dev else memWrite s.mem.dev a bs := by
  obtain ⟨_, _, _, _, e⟩ := writeBytes_eq s a bs
  rw [e.mem]

theorem writeBytes_comp (s : State) (a : Nat) (bs : List Nat) :
    (writeBytes s a bs).mem.comp = if inWindow a then memWrite s.mem.comp (a - companionBase) bs else s.mem.comp := by
  obtain ⟨_, _, _, _, e⟩ := writeBytes_eq s a bs
  rw [e.mem]

@[simp] theorem writeBytes_objects (s : State) (a : Nat) (bs : List Nat) :
    (writeBytes s a bs).mem.objects = s.mem.objects := by
  obtain ⟨_, _, _, _, e⟩ := writeBytes_eq s a bs
  rw [e.mem]

/-- What was written is read back. -/
theorem bytesAt_writeBytes (s : State) (a : Nat) (bs : List Nat) (h : ∀ b ∈ bs, b < 256) :
    bytesAt (writeBytes s a bs) a bs.length = bs := by
  unfold bytesAt
  rw [writeBytes_dev, writeBytes_comp]
  split
  · exact memBytes_memWrite _ _ _ h
  · exact memBytes_memWrite _ _ _ h

end Sys2Proof.Machine
end

