-- ==== Sys2Proof/Laws/Frames.lean ====
section
/-! SUPPORT. The fields of State that the shared operations leave as they are, one lemma for each. -/

namespace Sys2Proof.Machine

/-- What no step of a fold changes, the fold does not change. -/
theorem foldl_same {α β : Type} (g : State → β) (f : State → α → State) (l : List α) (s : State)
    (h : ∀ t a, g (f t a) = g t) : g (l.foldl f s) = g s := by
  induction l generalizing s with
  | nil => rfl
  | cons a l ih => exact (ih (f s a)).trans (h s a)

/-! ### `sendAbort` -/

@[simp] theorem sendAbort_pending (s : State) (o j g c : Nat) (e : Option Nat) : (sendAbort s o j g c e).pending = s.pending := by
  exact foldl_same State.pending _ _ _ (fun _ _ => by simp)
@[simp] theorem sendAbort_start (s : State) (o j g c : Nat) (e : Option Nat) : (sendAbort s o j g c e).start = s.start := by
  exact foldl_same State.start _ _ _ (fun _ _ => by simp)
@[simp] theorem sendAbort_fatal (s : State) (o j g c : Nat) (e : Option Nat) : (sendAbort s o j g c e).fatal = s.fatal := by
  exact foldl_same State.fatal _ _ _ (fun _ _ => by simp)
@[simp] theorem sendAbort_alerts (s : State) (o j g c : Nat) (e : Option Nat) : (sendAbort s o j g c e).alerts = s.alerts := by
  exact foldl_same State.alerts _ _ _ (fun _ _ => by simp)
@[simp] theorem sendAbort_eeprom (s : State) (o j g c : Nat) (e : Option Nat) : (sendAbort s o j g c e).eeprom = s.eeprom := by
  exact foldl_same State.eeprom _ _ _ (fun _ _ => by simp)
@[simp] theorem sendAbort_hem (s : State) (o j g c : Nat) (e : Option Nat) : (sendAbort s o j g c e).hem = s.hem := by
  exact foldl_same State.hem _ _ _ (fun _ _ => by simp)
@[simp] theorem sendAbort_queues (s : State) (o j g c : Nat) (e : Option Nat) : (sendAbort s o j g c e).queues = s.queues := by
  exact foldl_same State.queues _ _ _ (fun _ _ => by simp)
@[simp] theorem sendAbort_jobs (s : State) (o j g c : Nat) (e : Option Nat) : (sendAbort s o j g c e).jobs = s.jobs := by
  exact foldl_same State.jobs _ _ _ (fun _ _ => by simp)
@[simp] theorem sendAbort_jobNext (s : State) (o j g c : Nat) (e : Option Nat) : (sendAbort s o j g c e).jobNext = s.jobNext := by
  exact foldl_same State.jobNext _ _ _ (fun _ _ => by simp)
@[simp] theorem sendAbort_ctxs (s : State) (o j g c : Nat) (e : Option Nat) : (sendAbort s o j g c e).ctxs = s.ctxs := by
  exact foldl_same State.ctxs _ _ _ (fun _ _ => by simp)
@[simp] theorem sendAbort_models (s : State) (o j g c : Nat) (e : Option Nat) : (sendAbort s o j g c e).models = s.models := by
  exact foldl_same State.models _ _ _ (fun _ _ => by simp)
@[simp] theorem sendAbort_vocabs (s : State) (o j g c : Nat) (e : Option Nat) : (sendAbort s o j g c e).vocabs = s.vocabs := by
  exact foldl_same State.vocabs _ _ _ (fun _ _ => by simp)
@[simp] theorem sendAbort_indexes (s : State) (o j g c : Nat) (e : Option Nat) : (sendAbort s o j g c e).indexes = s.indexes := by
  exact foldl_same State.indexes _ _ _ (fun _ _ => by simp)
@[simp] theorem sendAbort_copies (s : State) (o j g c : Nat) (e : Option Nat) : (sendAbort s o j g c e).copies = s.copies := by
  exact foldl_same State.copies _ _ _ (fun _ _ => by simp)
@[simp] theorem sendAbort_queries (s : State) (o j g c : Nat) (e : Option Nat) : (sendAbort s o j g c e).queries = s.queries := by
  exact foldl_same State.queries _ _ _ (fun _ _ => by simp)
@[simp] theorem sendAbort_spans (s : State) (o j g c : Nat) (e : Option Nat) : (sendAbort s o j g c e).spans = s.spans := by
  exact foldl_same State.spans _ _ _ (fun _ _ => by simp)
@[simp] theorem sendAbort_belt (s : State) (o j g c : Nat) (e : Option Nat) : (sendAbort s o j g c e).belt = s.belt := by
  exact foldl_same State.belt _ _ _ (fun _ _ => by simp)
@[simp] theorem sendAbort_kv (s : State) (o j g c : Nat) (e : Option Nat) : (sendAbort s o j g c e).kv = s.kv := by
  exact foldl_same State.kv _ _ _ (fun _ _ => by simp)
@[simp] theorem sendAbort_gens (s : State) (o j g c : Nat) (e : Option Nat) : (sendAbort s o j g c e).gens = s.gens := by
  exact foldl_same State.gens _ _ _ (fun _ _ => by simp)
@[simp] theorem sendAbort_grammars (s : State) (o j g c : Nat) (e : Option Nat) : (sendAbort s o j g c e).grammars = s.grammars := by
  exact foldl_same State.grammars _ _ _ (fun _ _ => by simp)
@[simp] theorem sendAbort_pocket (s : State) (o j g c : Nat) (e : Option Nat) : (sendAbort s o j g c e).pocket = s.pocket := by
  exact foldl_same State.pocket _ _ _ (fun _ _ => by simp)
@[simp] theorem sendAbort_acc (s : State) (o j g c : Nat) (e : Option Nat) : (sendAbort s o j g c e).acc = s.acc := by
  exact foldl_same State.acc _ _ _ (fun _ _ => by simp)
@[simp] theorem sendAbort_array (s : State) (o j g c : Nat) (e : Option Nat) : (sendAbort s o j g c e).array = s.array := by
  exact foldl_same State.array _ _ _ (fun _ _ => by simp)
@[simp] theorem sendAbort_mem (s : State) (o j g c : Nat) (e : Option Nat) : (sendAbort s o j g c e).mem = s.mem := by
  exact foldl_same State.mem _ _ _ (fun _ _ => by simp)
@[simp] theorem sendAbort_chip (s : State) (o j g c : Nat) (e : Option Nat) : (sendAbort s o j g c e).chip = s.chip := by
  exact foldl_same State.chip _ _ _ (fun _ _ => by simp)
@[simp] theorem sendAbort_sec (s : State) (o j g c : Nat) (e : Option Nat) : (sendAbort s o j g c e).sec = s.sec := by
  exact foldl_same State.sec _ _ _ (fun _ _ => by simp)
@[simp] theorem sendAbort_power (s : State) (o j g c : Nat) (e : Option Nat) : (sendAbort s o j g c e).power = s.power := by
  exact foldl_same State.power _ _ _ (fun _ _ => by simp)
@[simp] theorem sendAbort_test (s : State) (o j g c : Nat) (e : Option Nat) : (sendAbort s o j g c e).test = s.test := by
  exact foldl_same State.test _ _ _ (fun _ _ => by simp)
@[simp] theorem sendAbort_log (s : State) (o j g c : Nat) (e : Option Nat) : (sendAbort s o j g c e).log = s.log := by
  exact foldl_same State.log _ _ _ (fun _ _ => by simp)

/-! ### `beginAbort` -/

@[simp] theorem beginAbort_pending (s : State) (j c : Nat) : (beginAbort s j c).pending = s.pending := by
  unfold beginAbort; first | rfl | ((try dsimp only); (repeat' split) <;> simp)
@[simp] theorem beginAbort_start (s : State) (j c : Nat) : (beginAbort s j c).start = s.start := by
  unfold beginAbort; first | rfl | ((try dsimp only); (repeat' split) <;> simp)
@[simp] theorem beginAbort_fatal (s : State) (j c : Nat) : (beginAbort s j c).fatal = s.fatal := by
  unfold beginAbort; first | rfl | ((try dsimp only); (repeat' split) <;> simp)
@[simp] theorem beginAbort_alerts (s : State) (j c : Nat) : (beginAbort s j c).alerts = s.alerts := by
  unfold beginAbort; first | rfl | ((try dsimp only); (repeat' split) <;> simp)
@[simp] theorem beginAbort_eeprom (s : State) (j c : Nat) : (beginAbort s j c).eeprom = s.eeprom := by
  unfold beginAbort; first | rfl | ((try dsimp only); (repeat' split) <;> simp)
@[simp] theorem beginAbort_hem (s : State) (j c : Nat) : (beginAbort s j c).hem = s.hem := by
  unfold beginAbort; first | rfl | ((try dsimp only); (repeat' split) <;> simp)
@[simp] theorem beginAbort_queues (s : State) (j c : Nat) : (beginAbort s j c).queues = s.queues := by
  unfold beginAbort; first | rfl | ((try dsimp only); (repeat' split) <;> simp)
@[simp] theorem beginAbort_jobs (s : State) (j c : Nat) : (beginAbort s j c).jobs = s.jobs := by
  unfold beginAbort; first | rfl | ((try dsimp only); (repeat' split) <;> simp)
@[simp] theorem beginAbort_jobNext (s : State) (j c : Nat) : (beginAbort s j c).jobNext = s.jobNext := by
  unfold beginAbort; first | rfl | ((try dsimp only); (repeat' split) <;> simp)
@[simp] theorem beginAbort_ctxs (s : State) (j c : Nat) : (beginAbort s j c).ctxs = s.ctxs := by
  unfold beginAbort; first | rfl | ((try dsimp only); (repeat' split) <;> simp)
@[simp] theorem beginAbort_models (s : State) (j c : Nat) : (beginAbort s j c).models = s.models := by
  unfold beginAbort; first | rfl | ((try dsimp only); (repeat' split) <;> simp)
@[simp] theorem beginAbort_vocabs (s : State) (j c : Nat) : (beginAbort s j c).vocabs = s.vocabs := by
  unfold beginAbort; first | rfl | ((try dsimp only); (repeat' split) <;> simp)
@[simp] theorem beginAbort_indexes (s : State) (j c : Nat) : (beginAbort s j c).indexes = s.indexes := by
  unfold beginAbort; first | rfl | ((try dsimp only); (repeat' split) <;> simp)
@[simp] theorem beginAbort_copies (s : State) (j c : Nat) : (beginAbort s j c).copies = s.copies := by
  unfold beginAbort; first | rfl | ((try dsimp only); (repeat' split) <;> simp)
@[simp] theorem beginAbort_queries (s : State) (j c : Nat) : (beginAbort s j c).queries = s.queries := by
  unfold beginAbort; first | rfl | ((try dsimp only); (repeat' split) <;> simp)
@[simp] theorem beginAbort_spans (s : State) (j c : Nat) : (beginAbort s j c).spans = s.spans := by
  unfold beginAbort; first | rfl | ((try dsimp only); (repeat' split) <;> simp)
@[simp] theorem beginAbort_belt (s : State) (j c : Nat) : (beginAbort s j c).belt = s.belt := by
  unfold beginAbort; first | rfl | ((try dsimp only); (repeat' split) <;> simp)
@[simp] theorem beginAbort_kv (s : State) (j c : Nat) : (beginAbort s j c).kv = s.kv := by
  unfold beginAbort; first | rfl | ((try dsimp only); (repeat' split) <;> simp)
@[simp] theorem beginAbort_gens (s : State) (j c : Nat) : (beginAbort s j c).gens = s.gens := by
  unfold beginAbort; first | rfl | ((try dsimp only); (repeat' split) <;> simp)
@[simp] theorem beginAbort_grammars (s : State) (j c : Nat) : (beginAbort s j c).grammars = s.grammars := by
  unfold beginAbort; first | rfl | ((try dsimp only); (repeat' split) <;> simp)
@[simp] theorem beginAbort_pocket (s : State) (j c : Nat) : (beginAbort s j c).pocket = s.pocket := by
  unfold beginAbort; first | rfl | ((try dsimp only); (repeat' split) <;> simp)
@[simp] theorem beginAbort_acc (s : State) (j c : Nat) : (beginAbort s j c).acc = s.acc := by
  unfold beginAbort; first | rfl | ((try dsimp only); (repeat' split) <;> simp)
@[simp] theorem beginAbort_array (s : State) (j c : Nat) : (beginAbort s j c).array = s.array := by
  unfold beginAbort; first | rfl | ((try dsimp only); (repeat' split) <;> simp)
@[simp] theorem beginAbort_mem (s : State) (j c : Nat) : (beginAbort s j c).mem = s.mem := by
  unfold beginAbort; first | rfl | ((try dsimp only); (repeat' split) <;> simp)
@[simp] theorem beginAbort_chip (s : State) (j c : Nat) : (beginAbort s j c).chip = s.chip := by
  unfold beginAbort; first | rfl | ((try dsimp only); (repeat' split) <;> simp)
@[simp] theorem beginAbort_sec (s : State) (j c : Nat) : (beginAbort s j c).sec = s.sec := by
  unfold beginAbort; first | rfl | ((try dsimp only); (repeat' split) <;> simp)
@[simp] theorem beginAbort_power (s : State) (j c : Nat) : (beginAbort s j c).power = s.power := by
  unfold beginAbort; first | rfl | ((try dsimp only); (repeat' split) <;> simp)
@[simp] theorem beginAbort_test (s : State) (j c : Nat) : (beginAbort s j c).test = s.test := by
  unfold beginAbort; first | rfl | ((try dsimp only); (repeat' split) <;> simp)
@[simp] theorem beginAbort_log (s : State) (j c : Nat) : (beginAbort s j c).log = s.log := by
  unfold beginAbort; first | rfl | ((try dsimp only); (repeat' split) <;> simp)

/-! ### `logError` -/

@[simp] theorem logError_pending (s : State) (u : LogUnit) (i st c : Nat) (a : LogAction) (d : Nat) : (logError s u i st c a d).pending = s.pending := by
  unfold logError; first | rfl | ((try dsimp only); (repeat' split) <;> simp)
@[simp] theorem logError_start (s : State) (u : LogUnit) (i st c : Nat) (a : LogAction) (d : Nat) : (logError s u i st c a d).start = s.start := by
  unfold logError; first | rfl | ((try dsimp only); (repeat' split) <;> simp)
@[simp] theorem logError_fatal (s : State) (u : LogUnit) (i st c : Nat) (a : LogAction) (d : Nat) : (logError s u i st c a d).fatal = s.fatal := by
  unfold logError; first | rfl | ((try dsimp only); (repeat' split) <;> simp)
@[simp] theorem logError_alerts (s : State) (u : LogUnit) (i st c : Nat) (a : LogAction) (d : Nat) : (logError s u i st c a d).alerts = s.alerts := by
  unfold logError; first | rfl | ((try dsimp only); (repeat' split) <;> simp)
@[simp] theorem logError_eeprom (s : State) (u : LogUnit) (i st c : Nat) (a : LogAction) (d : Nat) : (logError s u i st c a d).eeprom = s.eeprom := by
  unfold logError; first | rfl | ((try dsimp only); (repeat' split) <;> simp)
@[simp] theorem logError_dict (s : State) (u : LogUnit) (i st c : Nat) (a : LogAction) (d : Nat) : (logError s u i st c a d).dict = s.dict := by
  unfold logError; first | rfl | ((try dsimp only); (repeat' split) <;> simp)
@[simp] theorem logError_hem (s : State) (u : LogUnit) (i st c : Nat) (a : LogAction) (d : Nat) : (logError s u i st c a d).hem = s.hem := by
  unfold logError; first | rfl | ((try dsimp only); (repeat' split) <;> simp)
@[simp] theorem logError_queues (s : State) (u : LogUnit) (i st c : Nat) (a : LogAction) (d : Nat) : (logError s u i st c a d).queues = s.queues := by
  unfold logError; first | rfl | ((try dsimp only); (repeat' split) <;> simp)
@[simp] theorem logError_jobs (s : State) (u : LogUnit) (i st c : Nat) (a : LogAction) (d : Nat) : (logError s u i st c a d).jobs = s.jobs := by
  unfold logError; first | rfl | ((try dsimp only); (repeat' split) <;> simp)
@[simp] theorem logError_jobNext (s : State) (u : LogUnit) (i st c : Nat) (a : LogAction) (d : Nat) : (logError s u i st c a d).jobNext = s.jobNext := by
  unfold logError; first | rfl | ((try dsimp only); (repeat' split) <;> simp)
@[simp] theorem logError_ctxs (s : State) (u : LogUnit) (i st c : Nat) (a : LogAction) (d : Nat) : (logError s u i st c a d).ctxs = s.ctxs := by
  unfold logError; first | rfl | ((try dsimp only); (repeat' split) <;> simp)
@[simp] theorem logError_models (s : State) (u : LogUnit) (i st c : Nat) (a : LogAction) (d : Nat) : (logError s u i st c a d).models = s.models := by
  unfold logError; first | rfl | ((try dsimp only); (repeat' split) <;> simp)
@[simp] theorem logError_vocabs (s : State) (u : LogUnit) (i st c : Nat) (a : LogAction) (d : Nat) : (logError s u i st c a d).vocabs = s.vocabs := by
  unfold logError; first | rfl | ((try dsimp only); (repeat' split) <;> simp)
@[simp] theorem logError_indexes (s : State) (u : LogUnit) (i st c : Nat) (a : LogAction) (d : Nat) : (logError s u i st c a d).indexes = s.indexes := by
  unfold logError; first | rfl | ((try dsimp only); (repeat' split) <;> simp)
@[simp] theorem logError_copies (s : State) (u : LogUnit) (i st c : Nat) (a : LogAction) (d : Nat) : (logError s u i st c a d).copies = s.copies := by
  unfold logError; first | rfl | ((try dsimp only); (repeat' split) <;> simp)
@[simp] theorem logError_queries (s : State) (u : LogUnit) (i st c : Nat) (a : LogAction) (d : Nat) : (logError s u i st c a d).queries = s.queries := by
  unfold logError; first | rfl | ((try dsimp only); (repeat' split) <;> simp)
@[simp] theorem logError_spans (s : State) (u : LogUnit) (i st c : Nat) (a : LogAction) (d : Nat) : (logError s u i st c a d).spans = s.spans := by
  unfold logError; first | rfl | ((try dsimp only); (repeat' split) <;> simp)
@[simp] theorem logError_belt (s : State) (u : LogUnit) (i st c : Nat) (a : LogAction) (d : Nat) : (logError s u i st c a d).belt = s.belt := by
  unfold logError; first | rfl | ((try dsimp only); (repeat' split) <;> simp)
@[simp] theorem logError_kv (s : State) (u : LogUnit) (i st c : Nat) (a : LogAction) (d : Nat) : (logError s u i st c a d).kv = s.kv := by
  unfold logError; first | rfl | ((try dsimp only); (repeat' split) <;> simp)
@[simp] theorem logError_gens (s : State) (u : LogUnit) (i st c : Nat) (a : LogAction) (d : Nat) : (logError s u i st c a d).gens = s.gens := by
  unfold logError; first | rfl | ((try dsimp only); (repeat' split) <;> simp)
@[simp] theorem logError_grammars (s : State) (u : LogUnit) (i st c : Nat) (a : LogAction) (d : Nat) : (logError s u i st c a d).grammars = s.grammars := by
  unfold logError; first | rfl | ((try dsimp only); (repeat' split) <;> simp)
@[simp] theorem logError_pocket (s : State) (u : LogUnit) (i st c : Nat) (a : LogAction) (d : Nat) : (logError s u i st c a d).pocket = s.pocket := by
  unfold logError; first | rfl | ((try dsimp only); (repeat' split) <;> simp)
@[simp] theorem logError_acc (s : State) (u : LogUnit) (i st c : Nat) (a : LogAction) (d : Nat) : (logError s u i st c a d).acc = s.acc := by
  unfold logError; first | rfl | ((try dsimp only); (repeat' split) <;> simp)
@[simp] theorem logError_array (s : State) (u : LogUnit) (i st c : Nat) (a : LogAction) (d : Nat) : (logError s u i st c a d).array = s.array := by
  unfold logError; first | rfl | ((try dsimp only); (repeat' split) <;> simp)
@[simp] theorem logError_mem (s : State) (u : LogUnit) (i st c : Nat) (a : LogAction) (d : Nat) : (logError s u i st c a d).mem = s.mem := by
  unfold logError; first | rfl | ((try dsimp only); (repeat' split) <;> simp)
@[simp] theorem logError_aedup (s : State) (u : LogUnit) (i st c : Nat) (a : LogAction) (d : Nat) : (logError s u i st c a d).aedup = s.aedup := by
  unfold logError; first | rfl | ((try dsimp only); (repeat' split) <;> simp)
@[simp] theorem logError_pelgan (s : State) (u : LogUnit) (i st c : Nat) (a : LogAction) (d : Nat) : (logError s u i st c a d).pelgan = s.pelgan := by
  unfold logError; first | rfl | ((try dsimp only); (repeat' split) <;> simp)
@[simp] theorem logError_chip (s : State) (u : LogUnit) (i st c : Nat) (a : LogAction) (d : Nat) : (logError s u i st c a d).chip = s.chip := by
  unfold logError; first | rfl | ((try dsimp only); (repeat' split) <;> simp)
@[simp] theorem logError_sec (s : State) (u : LogUnit) (i st c : Nat) (a : LogAction) (d : Nat) : (logError s u i st c a d).sec = s.sec := by
  unfold logError; first | rfl | ((try dsimp only); (repeat' split) <;> simp)
@[simp] theorem logError_power (s : State) (u : LogUnit) (i st c : Nat) (a : LogAction) (d : Nat) : (logError s u i st c a d).power = s.power := by
  unfold logError; first | rfl | ((try dsimp only); (repeat' split) <;> simp)
@[simp] theorem logError_test (s : State) (u : LogUnit) (i st c : Nat) (a : LogAction) (d : Nat) : (logError s u i st c a d).test = s.test := by
  unfold logError; first | rfl | ((try dsimp only); (repeat' split) <;> simp)
@[simp] theorem logError_perf (s : State) (u : LogUnit) (i st c : Nat) (a : LogAction) (d : Nat) : (logError s u i st c a d).perf = s.perf := by
  unfold logError; first | rfl | ((try dsimp only); (repeat' split) <;> simp)
@[simp] theorem logError_out (s : State) (u : LogUnit) (i st c : Nat) (a : LogAction) (d : Nat) : (logError s u i st c a d).out = s.out := by
  unfold logError; first | rfl | ((try dsimp only); (repeat' split) <;> simp)

/-! ### `updCtx` -/

@[simp] theorem updCtx_pending (s : State) (c : Nat) (f : Ctx → Ctx) : (updCtx s c f).pending = s.pending := by
  unfold updCtx; first | rfl | ((try dsimp only); (repeat' split) <;> simp)
@[simp] theorem updCtx_start (s : State) (c : Nat) (f : Ctx → Ctx) : (updCtx s c f).start = s.start := by
  unfold updCtx; first | rfl | ((try dsimp only); (repeat' split) <;> simp)
@[simp] theorem updCtx_fatal (s : State) (c : Nat) (f : Ctx → Ctx) : (updCtx s c f).fatal = s.fatal := by
  unfold updCtx; first | rfl | ((try dsimp only); (repeat' split) <;> simp)
@[simp] theorem updCtx_alerts (s : State) (c : Nat) (f : Ctx → Ctx) : (updCtx s c f).alerts = s.alerts := by
  unfold updCtx; first | rfl | ((try dsimp only); (repeat' split) <;> simp)
@[simp] theorem updCtx_regs (s : State) (c : Nat) (f : Ctx → Ctx) : (updCtx s c f).regs = s.regs := by
  unfold updCtx; first | rfl | ((try dsimp only); (repeat' split) <;> simp)
@[simp] theorem updCtx_eeprom (s : State) (c : Nat) (f : Ctx → Ctx) : (updCtx s c f).eeprom = s.eeprom := by
  unfold updCtx; first | rfl | ((try dsimp only); (repeat' split) <;> simp)
@[simp] theorem updCtx_dict (s : State) (c : Nat) (f : Ctx → Ctx) : (updCtx s c f).dict = s.dict := by
  unfold updCtx; first | rfl | ((try dsimp only); (repeat' split) <;> simp)
@[simp] theorem updCtx_hem (s : State) (c : Nat) (f : Ctx → Ctx) : (updCtx s c f).hem = s.hem := by
  unfold updCtx; first | rfl | ((try dsimp only); (repeat' split) <;> simp)
@[simp] theorem updCtx_queues (s : State) (c : Nat) (f : Ctx → Ctx) : (updCtx s c f).queues = s.queues := by
  unfold updCtx; first | rfl | ((try dsimp only); (repeat' split) <;> simp)
@[simp] theorem updCtx_jobs (s : State) (c : Nat) (f : Ctx → Ctx) : (updCtx s c f).jobs = s.jobs := by
  unfold updCtx; first | rfl | ((try dsimp only); (repeat' split) <;> simp)
@[simp] theorem updCtx_jobNext (s : State) (c : Nat) (f : Ctx → Ctx) : (updCtx s c f).jobNext = s.jobNext := by
  unfold updCtx; first | rfl | ((try dsimp only); (repeat' split) <;> simp)
@[simp] theorem updCtx_models (s : State) (c : Nat) (f : Ctx → Ctx) : (updCtx s c f).models = s.models := by
  unfold updCtx; first | rfl | ((try dsimp only); (repeat' split) <;> simp)
@[simp] theorem updCtx_vocabs (s : State) (c : Nat) (f : Ctx → Ctx) : (updCtx s c f).vocabs = s.vocabs := by
  unfold updCtx; first | rfl | ((try dsimp only); (repeat' split) <;> simp)
@[simp] theorem updCtx_indexes (s : State) (c : Nat) (f : Ctx → Ctx) : (updCtx s c f).indexes = s.indexes := by
  unfold updCtx; first | rfl | ((try dsimp only); (repeat' split) <;> simp)
@[simp] theorem updCtx_copies (s : State) (c : Nat) (f : Ctx → Ctx) : (updCtx s c f).copies = s.copies := by
  unfold updCtx; first | rfl | ((try dsimp only); (repeat' split) <;> simp)
@[simp] theorem updCtx_queries (s : State) (c : Nat) (f : Ctx → Ctx) : (updCtx s c f).queries = s.queries := by
  unfold updCtx; first | rfl | ((try dsimp only); (repeat' split) <;> simp)
@[simp] theorem updCtx_spans (s : State) (c : Nat) (f : Ctx → Ctx) : (updCtx s c f).spans = s.spans := by
  unfold updCtx; first | rfl | ((try dsimp only); (repeat' split) <;> simp)
@[simp] theorem updCtx_belt (s : State) (c : Nat) (f : Ctx → Ctx) : (updCtx s c f).belt = s.belt := by
  unfold updCtx; first | rfl | ((try dsimp only); (repeat' split) <;> simp)
@[simp] theorem updCtx_kv (s : State) (c : Nat) (f : Ctx → Ctx) : (updCtx s c f).kv = s.kv := by
  unfold updCtx; first | rfl | ((try dsimp only); (repeat' split) <;> simp)
@[simp] theorem updCtx_gens (s : State) (c : Nat) (f : Ctx → Ctx) : (updCtx s c f).gens = s.gens := by
  unfold updCtx; first | rfl | ((try dsimp only); (repeat' split) <;> simp)
@[simp] theorem updCtx_grammars (s : State) (c : Nat) (f : Ctx → Ctx) : (updCtx s c f).grammars = s.grammars := by
  unfold updCtx; first | rfl | ((try dsimp only); (repeat' split) <;> simp)
@[simp] theorem updCtx_pocket (s : State) (c : Nat) (f : Ctx → Ctx) : (updCtx s c f).pocket = s.pocket := by
  unfold updCtx; first | rfl | ((try dsimp only); (repeat' split) <;> simp)
@[simp] theorem updCtx_acc (s : State) (c : Nat) (f : Ctx → Ctx) : (updCtx s c f).acc = s.acc := by
  unfold updCtx; first | rfl | ((try dsimp only); (repeat' split) <;> simp)
@[simp] theorem updCtx_array (s : State) (c : Nat) (f : Ctx → Ctx) : (updCtx s c f).array = s.array := by
  unfold updCtx; first | rfl | ((try dsimp only); (repeat' split) <;> simp)
@[simp] theorem updCtx_mem (s : State) (c : Nat) (f : Ctx → Ctx) : (updCtx s c f).mem = s.mem := by
  unfold updCtx; first | rfl | ((try dsimp only); (repeat' split) <;> simp)
@[simp] theorem updCtx_aedup (s : State) (c : Nat) (f : Ctx → Ctx) : (updCtx s c f).aedup = s.aedup := by
  unfold updCtx; first | rfl | ((try dsimp only); (repeat' split) <;> simp)
@[simp] theorem updCtx_pelgan (s : State) (c : Nat) (f : Ctx → Ctx) : (updCtx s c f).pelgan = s.pelgan := by
  unfold updCtx; first | rfl | ((try dsimp only); (repeat' split) <;> simp)
@[simp] theorem updCtx_chip (s : State) (c : Nat) (f : Ctx → Ctx) : (updCtx s c f).chip = s.chip := by
  unfold updCtx; first | rfl | ((try dsimp only); (repeat' split) <;> simp)
@[simp] theorem updCtx_sec (s : State) (c : Nat) (f : Ctx → Ctx) : (updCtx s c f).sec = s.sec := by
  unfold updCtx; first | rfl | ((try dsimp only); (repeat' split) <;> simp)
@[simp] theorem updCtx_power (s : State) (c : Nat) (f : Ctx → Ctx) : (updCtx s c f).power = s.power := by
  unfold updCtx; first | rfl | ((try dsimp only); (repeat' split) <;> simp)
@[simp] theorem updCtx_test (s : State) (c : Nat) (f : Ctx → Ctx) : (updCtx s c f).test = s.test := by
  unfold updCtx; first | rfl | ((try dsimp only); (repeat' split) <;> simp)
@[simp] theorem updCtx_perf (s : State) (c : Nat) (f : Ctx → Ctx) : (updCtx s c f).perf = s.perf := by
  unfold updCtx; first | rfl | ((try dsimp only); (repeat' split) <;> simp)
@[simp] theorem updCtx_log (s : State) (c : Nat) (f : Ctx → Ctx) : (updCtx s c f).log = s.log := by
  unfold updCtx; first | rfl | ((try dsimp only); (repeat' split) <;> simp)
@[simp] theorem updCtx_out (s : State) (c : Nat) (f : Ctx → Ctx) : (updCtx s c f).out = s.out := by
  unfold updCtx; first | rfl | ((try dsimp only); (repeat' split) <;> simp)
@[simp] theorem updCtx_freeCount (s : State) (c : Nat) (f : Ctx → Ctx) : (updCtx s c f).freeCount = s.freeCount := by
  unfold updCtx; first | rfl | ((try dsimp only); (repeat' split) <;> simp)

/-! ### `fenceBy` -/

@[simp] theorem fenceBy_pending (s : State) (c st : Nat) (b : Option Nat) (a : Bool) (u : LogUnit) (i : Nat) : (fenceBy s c st b a u i).pending = s.pending := by
  unfold fenceBy; first | rfl | ((try dsimp only); (repeat' split) <;> simp)
@[simp] theorem fenceBy_start (s : State) (c st : Nat) (b : Option Nat) (a : Bool) (u : LogUnit) (i : Nat) : (fenceBy s c st b a u i).start = s.start := by
  unfold fenceBy; first | rfl | ((try dsimp only); (repeat' split) <;> simp)
@[simp] theorem fenceBy_fatal (s : State) (c st : Nat) (b : Option Nat) (a : Bool) (u : LogUnit) (i : Nat) : (fenceBy s c st b a u i).fatal = s.fatal := by
  unfold fenceBy; first | rfl | ((try dsimp only); (repeat' split) <;> simp)
@[simp] theorem fenceBy_alerts (s : State) (c st : Nat) (b : Option Nat) (a : Bool) (u : LogUnit) (i : Nat) : (fenceBy s c st b a u i).alerts = s.alerts := by
  unfold fenceBy; first | rfl | ((try dsimp only); (repeat' split) <;> simp)
@[simp] theorem fenceBy_eeprom (s : State) (c st : Nat) (b : Option Nat) (a : Bool) (u : LogUnit) (i : Nat) : (fenceBy s c st b a u i).eeprom = s.eeprom := by
  unfold fenceBy; first | rfl | ((try dsimp only); (repeat' split) <;> simp)
@[simp] theorem fenceBy_hem (s : State) (c st : Nat) (b : Option Nat) (a : Bool) (u : LogUnit) (i : Nat) : (fenceBy s c st b a u i).hem = s.hem := by
  unfold fenceBy; first | rfl | ((try dsimp only); (repeat' split) <;> simp)
@[simp] theorem fenceBy_queues (s : State) (c st : Nat) (b : Option Nat) (a : Bool) (u : LogUnit) (i : Nat) : (fenceBy s c st b a u i).queues = s.queues := by
  unfold fenceBy; first | rfl | ((try dsimp only); (repeat' split) <;> simp)
@[simp] theorem fenceBy_jobs (s : State) (c st : Nat) (b : Option Nat) (a : Bool) (u : LogUnit) (i : Nat) : (fenceBy s c st b a u i).jobs = s.jobs := by
  unfold fenceBy; first | rfl | ((try dsimp only); (repeat' split) <;> simp)
@[simp] theorem fenceBy_jobNext (s : State) (c st : Nat) (b : Option Nat) (a : Bool) (u : LogUnit) (i : Nat) : (fenceBy s c st b a u i).jobNext = s.jobNext := by
  unfold fenceBy; first | rfl | ((try dsimp only); (repeat' split) <;> simp)
@[simp] theorem fenceBy_models (s : State) (c st : Nat) (b : Option Nat) (a : Bool) (u : LogUnit) (i : Nat) : (fenceBy s c st b a u i).models = s.models := by
  unfold fenceBy; first | rfl | ((try dsimp only); (repeat' split) <;> simp)
@[simp] theorem fenceBy_vocabs (s : State) (c st : Nat) (b : Option Nat) (a : Bool) (u : LogUnit) (i : Nat) : (fenceBy s c st b a u i).vocabs = s.vocabs := by
  unfold fenceBy; first | rfl | ((try dsimp only); (repeat' split) <;> simp)
@[simp] theorem fenceBy_indexes (s : State) (c st : Nat) (b : Option Nat) (a : Bool) (u : LogUnit) (i : Nat) : (fenceBy s c st b a u i).indexes = s.indexes := by
  unfold fenceBy; first | rfl | ((try dsimp only); (repeat' split) <;> simp)
@[simp] theorem fenceBy_copies (s : State) (c st : Nat) (b : Option Nat) (a : Bool) (u : LogUnit) (i : Nat) : (fenceBy s c st b a u i).copies = s.copies := by
  unfold fenceBy; first | rfl | ((try dsimp only); (repeat' split) <;> simp)
@[simp] theorem fenceBy_queries (s : State) (c st : Nat) (b : Option Nat) (a : Bool) (u : LogUnit) (i : Nat) : (fenceBy s c st b a u i).queries = s.queries := by
  unfold fenceBy; first | rfl | ((try dsimp only); (repeat' split) <;> simp)
@[simp] theorem fenceBy_spans (s : State) (c st : Nat) (b : Option Nat) (a : Bool) (u : LogUnit) (i : Nat) : (fenceBy s c st b a u i).spans = s.spans := by
  unfold fenceBy; first | rfl | ((try dsimp only); (repeat' split) <;> simp)
@[simp] theorem fenceBy_belt (s : State) (c st : Nat) (b : Option Nat) (a : Bool) (u : LogUnit) (i : Nat) : (fenceBy s c st b a u i).belt = s.belt := by
  unfold fenceBy; first | rfl | ((try dsimp only); (repeat' split) <;> simp)
@[simp] theorem fenceBy_kv (s : State) (c st : Nat) (b : Option Nat) (a : Bool) (u : LogUnit) (i : Nat) : (fenceBy s c st b a u i).kv = s.kv := by
  unfold fenceBy; first | rfl | ((try dsimp only); (repeat' split) <;> simp)
@[simp] theorem fenceBy_gens (s : State) (c st : Nat) (b : Option Nat) (a : Bool) (u : LogUnit) (i : Nat) : (fenceBy s c st b a u i).gens = s.gens := by
  unfold fenceBy; first | rfl | ((try dsimp only); (repeat' split) <;> simp)
@[simp] theorem fenceBy_grammars (s : State) (c st : Nat) (b : Option Nat) (a : Bool) (u : LogUnit) (i : Nat) : (fenceBy s c st b a u i).grammars = s.grammars := by
  unfold fenceBy; first | rfl | ((try dsimp only); (repeat' split) <;> simp)
@[simp] theorem fenceBy_pocket (s : State) (c st : Nat) (b : Option Nat) (a : Bool) (u : LogUnit) (i : Nat) : (fenceBy s c st b a u i).pocket = s.pocket := by
  unfold fenceBy; first | rfl | ((try dsimp only); (repeat' split) <;> simp)
@[simp] theorem fenceBy_acc (s : State) (c st : Nat) (b : Option Nat) (a : Bool) (u : LogUnit) (i : Nat) : (fenceBy s c st b a u i).acc = s.acc := by
  unfold fenceBy; first | rfl | ((try dsimp only); (repeat' split) <;> simp)
@[simp] theorem fenceBy_array (s : State) (c st : Nat) (b : Option Nat) (a : Bool) (u : LogUnit) (i : Nat) : (fenceBy s c st b a u i).array = s.array := by
  unfold fenceBy; first | rfl | ((try dsimp only); (repeat' split) <;> simp)
@[simp] theorem fenceBy_mem (s : State) (c st : Nat) (b : Option Nat) (a : Bool) (u : LogUnit) (i : Nat) : (fenceBy s c st b a u i).mem = s.mem := by
  unfold fenceBy; first | rfl | ((try dsimp only); (repeat' split) <;> simp)
@[simp] theorem fenceBy_chip (s : State) (c st : Nat) (b : Option Nat) (a : Bool) (u : LogUnit) (i : Nat) : (fenceBy s c st b a u i).chip = s.chip := by
  unfold fenceBy; first | rfl | ((try dsimp only); (repeat' split) <;> simp)
@[simp] theorem fenceBy_sec (s : State) (c st : Nat) (b : Option Nat) (a : Bool) (u : LogUnit) (i : Nat) : (fenceBy s c st b a u i).sec = s.sec := by
  unfold fenceBy; first | rfl | ((try dsimp only); (repeat' split) <;> simp)
@[simp] theorem fenceBy_power (s : State) (c st : Nat) (b : Option Nat) (a : Bool) (u : LogUnit) (i : Nat) : (fenceBy s c st b a u i).power = s.power := by
  unfold fenceBy; first | rfl | ((try dsimp only); (repeat' split) <;> simp)
@[simp] theorem fenceBy_test (s : State) (c st : Nat) (b : Option Nat) (a : Bool) (u : LogUnit) (i : Nat) : (fenceBy s c st b a u i).test = s.test := by
  unfold fenceBy; first | rfl | ((try dsimp only); (repeat' split) <;> simp)

/-! ### `fence` -/

@[simp] theorem fence_pending (s : State) (c st : Nat) (b : Option Nat) (a : Bool) : (fence s c st b a).pending = s.pending := by
  unfold fence; first | rfl | ((try dsimp only); (repeat' split) <;> simp)
@[simp] theorem fence_start (s : State) (c st : Nat) (b : Option Nat) (a : Bool) : (fence s c st b a).start = s.start := by
  unfold fence; first | rfl | ((try dsimp only); (repeat' split) <;> simp)
@[simp] theorem fence_fatal (s : State) (c st : Nat) (b : Option Nat) (a : Bool) : (fence s c st b a).fatal = s.fatal := by
  unfold fence; first | rfl | ((try dsimp only); (repeat' split) <;> simp)
@[simp] theorem fence_alerts (s : State) (c st : Nat) (b : Option Nat) (a : Bool) : (fence s c st b a).alerts = s.alerts := by
  unfold fence; first | rfl | ((try dsimp only); (repeat' split) <;> simp)
@[simp] theorem fence_eeprom (s : State) (c st : Nat) (b : Option Nat) (a : Bool) : (fence s c st b a).eeprom = s.eeprom := by
  unfold fence; first | rfl | ((try dsimp only); (repeat' split) <;> simp)
@[simp] theorem fence_hem (s : State) (c st : Nat) (b : Option Nat) (a : Bool) : (fence s c st b a).hem = s.hem := by
  unfold fence; first | rfl | ((try dsimp only); (repeat' split) <;> simp)
@[simp] theorem fence_queues (s : State) (c st : Nat) (b : Option Nat) (a : Bool) : (fence s c st b a).queues = s.queues := by
  unfold fence; first | rfl | ((try dsimp only); (repeat' split) <;> simp)
@[simp] theorem fence_jobs (s : State) (c st : Nat) (b : Option Nat) (a : Bool) : (fence s c st b a).jobs = s.jobs := by
  unfold fence; first | rfl | ((try dsimp only); (repeat' split) <;> simp)
@[simp] theorem fence_jobNext (s : State) (c st : Nat) (b : Option Nat) (a : Bool) : (fence s c st b a).jobNext = s.jobNext := by
  unfold fence; first | rfl | ((try dsimp only); (repeat' split) <;> simp)
@[simp] theorem fence_models (s : State) (c st : Nat) (b : Option Nat) (a : Bool) : (fence s c st b a).models = s.models := by
  unfold fence; first | rfl | ((try dsimp only); (repeat' split) <;> simp)
@[simp] theorem fence_vocabs (s : State) (c st : Nat) (b : Option Nat) (a : Bool) : (fence s c st b a).vocabs = s.vocabs := by
  unfold fence; first | rfl | ((try dsimp only); (repeat' split) <;> simp)
@[simp] theorem fence_indexes (s : State) (c st : Nat) (b : Option Nat) (a : Bool) : (fence s c st b a).indexes = s.indexes := by
  unfold fence; first | rfl | ((try dsimp only); (repeat' split) <;> simp)
@[simp] theorem fence_copies (s : State) (c st : Nat) (b : Option Nat) (a : Bool) : (fence s c st b a).copies = s.copies := by
  unfold fence; first | rfl | ((try dsimp only); (repeat' split) <;> simp)
@[simp] theorem fence_queries (s : State) (c st : Nat) (b : Option Nat) (a : Bool) : (fence s c st b a).queries = s.queries := by
  unfold fence; first | rfl | ((try dsimp only); (repeat' split) <;> simp)
@[simp] theorem fence_spans (s : State) (c st : Nat) (b : Option Nat) (a : Bool) : (fence s c st b a).spans = s.spans := by
  unfold fence; first | rfl | ((try dsimp only); (repeat' split) <;> simp)
@[simp] theorem fence_belt (s : State) (c st : Nat) (b : Option Nat) (a : Bool) : (fence s c st b a).belt = s.belt := by
  unfold fence; first | rfl | ((try dsimp only); (repeat' split) <;> simp)
@[simp] theorem fence_kv (s : State) (c st : Nat) (b : Option Nat) (a : Bool) : (fence s c st b a).kv = s.kv := by
  unfold fence; first | rfl | ((try dsimp only); (repeat' split) <;> simp)
@[simp] theorem fence_gens (s : State) (c st : Nat) (b : Option Nat) (a : Bool) : (fence s c st b a).gens = s.gens := by
  unfold fence; first | rfl | ((try dsimp only); (repeat' split) <;> simp)
@[simp] theorem fence_grammars (s : State) (c st : Nat) (b : Option Nat) (a : Bool) : (fence s c st b a).grammars = s.grammars := by
  unfold fence; first | rfl | ((try dsimp only); (repeat' split) <;> simp)
@[simp] theorem fence_pocket (s : State) (c st : Nat) (b : Option Nat) (a : Bool) : (fence s c st b a).pocket = s.pocket := by
  unfold fence; first | rfl | ((try dsimp only); (repeat' split) <;> simp)
@[simp] theorem fence_acc (s : State) (c st : Nat) (b : Option Nat) (a : Bool) : (fence s c st b a).acc = s.acc := by
  unfold fence; first | rfl | ((try dsimp only); (repeat' split) <;> simp)
@[simp] theorem fence_array (s : State) (c st : Nat) (b : Option Nat) (a : Bool) : (fence s c st b a).array = s.array := by
  unfold fence; first | rfl | ((try dsimp only); (repeat' split) <;> simp)
@[simp] theorem fence_mem (s : State) (c st : Nat) (b : Option Nat) (a : Bool) : (fence s c st b a).mem = s.mem := by
  unfold fence; first | rfl | ((try dsimp only); (repeat' split) <;> simp)
@[simp] theorem fence_chip (s : State) (c st : Nat) (b : Option Nat) (a : Bool) : (fence s c st b a).chip = s.chip := by
  unfold fence; first | rfl | ((try dsimp only); (repeat' split) <;> simp)
@[simp] theorem fence_sec (s : State) (c st : Nat) (b : Option Nat) (a : Bool) : (fence s c st b a).sec = s.sec := by
  unfold fence; first | rfl | ((try dsimp only); (repeat' split) <;> simp)
@[simp] theorem fence_power (s : State) (c st : Nat) (b : Option Nat) (a : Bool) : (fence s c st b a).power = s.power := by
  unfold fence; first | rfl | ((try dsimp only); (repeat' split) <;> simp)
@[simp] theorem fence_test (s : State) (c st : Nat) (b : Option Nat) (a : Bool) : (fence s c st b a).test = s.test := by
  unfold fence; first | rfl | ((try dsimp only); (repeat' split) <;> simp)

/-! ### `faultJob` -/

@[simp] theorem faultJob_pending (s : State) (id c st : Nat) : (faultJob s id c st).pending = s.pending := by
  unfold faultJob; first | rfl | ((try dsimp only); (repeat' split) <;> simp)
@[simp] theorem faultJob_start (s : State) (id c st : Nat) : (faultJob s id c st).start = s.start := by
  unfold faultJob; first | rfl | ((try dsimp only); (repeat' split) <;> simp)
@[simp] theorem faultJob_fatal (s : State) (id c st : Nat) : (faultJob s id c st).fatal = s.fatal := by
  unfold faultJob; first | rfl | ((try dsimp only); (repeat' split) <;> simp)
@[simp] theorem faultJob_alerts (s : State) (id c st : Nat) : (faultJob s id c st).alerts = s.alerts := by
  unfold faultJob; first | rfl | ((try dsimp only); (repeat' split) <;> simp)
@[simp] theorem faultJob_eeprom (s : State) (id c st : Nat) : (faultJob s id c st).eeprom = s.eeprom := by
  unfold faultJob; first | rfl | ((try dsimp only); (repeat' split) <;> simp)
@[simp] theorem faultJob_hem (s : State) (id c st : Nat) : (faultJob s id c st).hem = s.hem := by
  unfold faultJob; first | rfl | ((try dsimp only); (repeat' split) <;> simp)
@[simp] theorem faultJob_queues (s : State) (id c st : Nat) : (faultJob s id c st).queues = s.queues := by
  unfold faultJob; first | rfl | ((try dsimp only); (repeat' split) <;> simp)
@[simp] theorem faultJob_jobs (s : State) (id c st : Nat) : (faultJob s id c st).jobs = s.jobs := by
  unfold faultJob; first | rfl | ((try dsimp only); (repeat' split) <;> simp)
@[simp] theorem faultJob_jobNext (s : State) (id c st : Nat) : (faultJob s id c st).jobNext = s.jobNext := by
  unfold faultJob; first | rfl | ((try dsimp only); (repeat' split) <;> simp)
@[simp] theorem faultJob_models (s : State) (id c st : Nat) : (faultJob s id c st).models = s.models := by
  unfold faultJob; first | rfl | ((try dsimp only); (repeat' split) <;> simp)
@[simp] theorem faultJob_vocabs (s : State) (id c st : Nat) : (faultJob s id c st).vocabs = s.vocabs := by
  unfold faultJob; first | rfl | ((try dsimp only); (repeat' split) <;> simp)
@[simp] theorem faultJob_indexes (s : State) (id c st : Nat) : (faultJob s id c st).indexes = s.indexes := by
  unfold faultJob; first | rfl | ((try dsimp only); (repeat' split) <;> simp)
@[simp] theorem faultJob_copies (s : State) (id c st : Nat) : (faultJob s id c st).copies = s.copies := by
  unfold faultJob; first | rfl | ((try dsimp only); (repeat' split) <;> simp)
@[simp] theorem faultJob_queries (s : State) (id c st : Nat) : (faultJob s id c st).queries = s.queries := by
  unfold faultJob; first | rfl | ((try dsimp only); (repeat' split) <;> simp)
@[simp] theorem faultJob_spans (s : State) (id c st : Nat) : (faultJob s id c st).spans = s.spans := by
  unfold faultJob; first | rfl | ((try dsimp only); (repeat' split) <;> simp)
@[simp] theorem faultJob_belt (s : State) (id c st : Nat) : (faultJob s id c st).belt = s.belt := by
  unfold faultJob; first | rfl | ((try dsimp only); (repeat' split) <;> simp)
@[simp] theorem faultJob_kv (s : State) (id c st : Nat) : (faultJob s id c st).kv = s.kv := by
  unfold faultJob; first | rfl | ((try dsimp only); (repeat' split) <;> simp)
@[simp] theorem faultJob_gens (s : State) (id c st : Nat) : (faultJob s id c st).gens = s.gens := by
  unfold faultJob; first | rfl | ((try dsimp only); (repeat' split) <;> simp)
@[simp] theorem faultJob_grammars (s : State) (id c st : Nat) : (faultJob s id c st).grammars = s.grammars := by
  unfold faultJob; first | rfl | ((try dsimp only); (repeat' split) <;> simp)
@[simp] theorem faultJob_pocket (s : State) (id c st : Nat) : (faultJob s id c st).pocket = s.pocket := by
  unfold faultJob; first | rfl | ((try dsimp only); (repeat' split) <;> simp)
@[simp] theorem faultJob_acc (s : State) (id c st : Nat) : (faultJob s id c st).acc = s.acc := by
  unfold faultJob; first | rfl | ((try dsimp only); (repeat' split) <;> simp)
@[simp] theorem faultJob_array (s : State) (id c st : Nat) : (faultJob s id c st).array = s.array := by
  unfold faultJob; first | rfl | ((try dsimp only); (repeat' split) <;> simp)
@[simp] theorem faultJob_mem (s : State) (id c st : Nat) : (faultJob s id c st).mem = s.mem := by
  unfold faultJob; first | rfl | ((try dsimp only); (repeat' split) <;> simp)
@[simp] theorem faultJob_chip (s : State) (id c st : Nat) : (faultJob s id c st).chip = s.chip := by
  unfold faultJob; first | rfl | ((try dsimp only); (repeat' split) <;> simp)
@[simp] theorem faultJob_sec (s : State) (id c st : Nat) : (faultJob s id c st).sec = s.sec := by
  unfold faultJob; first | rfl | ((try dsimp only); (repeat' split) <;> simp)
@[simp] theorem faultJob_power (s : State) (id c st : Nat) : (faultJob s id c st).power = s.power := by
  unfold faultJob; first | rfl | ((try dsimp only); (repeat' split) <;> simp)
@[simp] theorem faultJob_test (s : State) (id c st : Nat) : (faultJob s id c st).test = s.test := by
  unfold faultJob; first | rfl | ((try dsimp only); (repeat' split) <;> simp)

/-! ### `faultJobAs` -/

@[simp] theorem faultJobAs_pending (s : State) (id c a b : Nat) : (faultJobAs s id c a b).pending = s.pending := by
  unfold faultJobAs; first | rfl | ((try dsimp only); (repeat' split) <;> simp)
@[simp] theorem faultJobAs_start (s : State) (id c a b : Nat) : (faultJobAs s id c a b).start = s.start := by
  unfold faultJobAs; first | rfl | ((try dsimp only); (repeat' split) <;> simp)
@[simp] theorem faultJobAs_fatal (s : State) (id c a b : Nat) : (faultJobAs s id c a b).fatal = s.fatal := by
  unfold faultJobAs; first | rfl | ((try dsimp only); (repeat' split) <;> simp)
@[simp] theorem faultJobAs_alerts (s : State) (id c a b : Nat) : (faultJobAs s id c a b).alerts = s.alerts := by
  unfold faultJobAs; first | rfl | ((try dsimp only); (repeat' split) <;> simp)
@[simp] theorem faultJobAs_eeprom (s : State) (id c a b : Nat) : (faultJobAs s id c a b).eeprom = s.eeprom := by
  unfold faultJobAs; first | rfl | ((try dsimp only); (repeat' split) <;> simp)
@[simp] theorem faultJobAs_hem (s : State) (id c a b : Nat) : (faultJobAs s id c a b).hem = s.hem := by
  unfold faultJobAs; first | rfl | ((try dsimp only); (repeat' split) <;> simp)
@[simp] theorem faultJobAs_queues (s : State) (id c a b : Nat) : (faultJobAs s id c a b).queues = s.queues := by
  unfold faultJobAs; first | rfl | ((try dsimp only); (repeat' split) <;> simp)
@[simp] theorem faultJobAs_jobs (s : State) (id c a b : Nat) : (faultJobAs s id c a b).jobs = s.jobs := by
  unfold faultJobAs; first | rfl | ((try dsimp only); (repeat' split) <;> simp)
@[simp] theorem faultJobAs_jobNext (s : State) (id c a b : Nat) : (faultJobAs s id c a b).jobNext = s.jobNext := by
  unfold faultJobAs; first | rfl | ((try dsimp only); (repeat' split) <;> simp)
@[simp] theorem faultJobAs_models (s : State) (id c a b : Nat) : (faultJobAs s id c a b).models = s.models := by
  unfold faultJobAs; first | rfl | ((try dsimp only); (repeat' split) <;> simp)
@[simp] theorem faultJobAs_vocabs (s : State) (id c a b : Nat) : (faultJobAs s id c a b).vocabs = s.vocabs := by
  unfold faultJobAs; first | rfl | ((try dsimp only); (repeat' split) <;> simp)
@[simp] theorem faultJobAs_indexes (s : State) (id c a b : Nat) : (faultJobAs s id c a b).indexes = s.indexes := by
  unfold faultJobAs; first | rfl | ((try dsimp only); (repeat' split) <;> simp)
@[simp] theorem faultJobAs_copies (s : State) (id c a b : Nat) : (faultJobAs s id c a b).copies = s.copies := by
  unfold faultJobAs; first | rfl | ((try dsimp only); (repeat' split) <;> simp)
@[simp] theorem faultJobAs_queries (s : State) (id c a b : Nat) : (faultJobAs s id c a b).queries = s.queries := by
  unfold faultJobAs; first | rfl | ((try dsimp only); (repeat' split) <;> simp)
@[simp] theorem faultJobAs_spans (s : State) (id c a b : Nat) : (faultJobAs s id c a b).spans = s.spans := by
  unfold faultJobAs; first | rfl | ((try dsimp only); (repeat' split) <;> simp)
@[simp] theorem faultJobAs_belt (s : State) (id c a b : Nat) : (faultJobAs s id c a b).belt = s.belt := by
  unfold faultJobAs; first | rfl | ((try dsimp only); (repeat' split) <;> simp)
@[simp] theorem faultJobAs_kv (s : State) (id c a b : Nat) : (faultJobAs s id c a b).kv = s.kv := by
  unfold faultJobAs; first | rfl | ((try dsimp only); (repeat' split) <;> simp)
@[simp] theorem faultJobAs_gens (s : State) (id c a b : Nat) : (faultJobAs s id c a b).gens = s.gens := by
  unfold faultJobAs; first | rfl | ((try dsimp only); (repeat' split) <;> simp)
@[simp] theorem faultJobAs_grammars (s : State) (id c a b : Nat) : (faultJobAs s id c a b).grammars = s.grammars := by
  unfold faultJobAs; first | rfl | ((try dsimp only); (repeat' split) <;> simp)
@[simp] theorem faultJobAs_pocket (s : State) (id c a b : Nat) : (faultJobAs s id c a b).pocket = s.pocket := by
  unfold faultJobAs; first | rfl | ((try dsimp only); (repeat' split) <;> simp)
@[simp] theorem faultJobAs_acc (s : State) (id c a b : Nat) : (faultJobAs s id c a b).acc = s.acc := by
  unfold faultJobAs; first | rfl | ((try dsimp only); (repeat' split) <;> simp)
@[simp] theorem faultJobAs_array (s : State) (id c a b : Nat) : (faultJobAs s id c a b).array = s.array := by
  unfold faultJobAs; first | rfl | ((try dsimp only); (repeat' split) <;> simp)
@[simp] theorem faultJobAs_mem (s : State) (id c a b : Nat) : (faultJobAs s id c a b).mem = s.mem := by
  unfold faultJobAs; first | rfl | ((try dsimp only); (repeat' split) <;> simp)
@[simp] theorem faultJobAs_chip (s : State) (id c a b : Nat) : (faultJobAs s id c a b).chip = s.chip := by
  unfold faultJobAs; first | rfl | ((try dsimp only); (repeat' split) <;> simp)
@[simp] theorem faultJobAs_sec (s : State) (id c a b : Nat) : (faultJobAs s id c a b).sec = s.sec := by
  unfold faultJobAs; first | rfl | ((try dsimp only); (repeat' split) <;> simp)
@[simp] theorem faultJobAs_power (s : State) (id c a b : Nat) : (faultJobAs s id c a b).power = s.power := by
  unfold faultJobAs; first | rfl | ((try dsimp only); (repeat' split) <;> simp)
@[simp] theorem faultJobAs_test (s : State) (id c a b : Nat) : (faultJobAs s id c a b).test = s.test := by
  unfold faultJobAs; first | rfl | ((try dsimp only); (repeat' split) <;> simp)

/-! ### `faultCtx` -/

@[simp] theorem faultCtx_pending (s : State) (c st : Nat) : (faultCtx s c st).pending = s.pending := by
  unfold faultCtx; first | rfl | ((try dsimp only); (repeat' split) <;> simp)
@[simp] theorem faultCtx_start (s : State) (c st : Nat) : (faultCtx s c st).start = s.start := by
  unfold faultCtx; first | rfl | ((try dsimp only); (repeat' split) <;> simp)
@[simp] theorem faultCtx_fatal (s : State) (c st : Nat) : (faultCtx s c st).fatal = s.fatal := by
  unfold faultCtx; first | rfl | ((try dsimp only); (repeat' split) <;> simp)
@[simp] theorem faultCtx_alerts (s : State) (c st : Nat) : (faultCtx s c st).alerts = s.alerts := by
  unfold faultCtx; first | rfl | ((try dsimp only); (repeat' split) <;> simp)
@[simp] theorem faultCtx_eeprom (s : State) (c st : Nat) : (faultCtx s c st).eeprom = s.eeprom := by
  unfold faultCtx; first | rfl | ((try dsimp only); (repeat' split) <;> simp)
@[simp] theorem faultCtx_hem (s : State) (c st : Nat) : (faultCtx s c st).hem = s.hem := by
  unfold faultCtx; first | rfl | ((try dsimp only); (repeat' split) <;> simp)
@[simp] theorem faultCtx_queues (s : State) (c st : Nat) : (faultCtx s c st).queues = s.queues := by
  unfold faultCtx; first | rfl | ((try dsimp only); (repeat' split) <;> simp)
@[simp] theorem faultCtx_jobs (s : State) (c st : Nat) : (faultCtx s c st).jobs = s.jobs := by
  unfold faultCtx; first | rfl | ((try dsimp only); (repeat' split) <;> simp)
@[simp] theorem faultCtx_jobNext (s : State) (c st : Nat) : (faultCtx s c st).jobNext = s.jobNext := by
  unfold faultCtx; first | rfl | ((try dsimp only); (repeat' split) <;> simp)
@[simp] theorem faultCtx_models (s : State) (c st : Nat) : (faultCtx s c st).models = s.models := by
  unfold faultCtx; first | rfl | ((try dsimp only); (repeat' split) <;> simp)
@[simp] theorem faultCtx_vocabs (s : State) (c st : Nat) : (faultCtx s c st).vocabs = s.vocabs := by
  unfold faultCtx; first | rfl | ((try dsimp only); (repeat' split) <;> simp)
@[simp] theorem faultCtx_indexes (s : State) (c st : Nat) : (faultCtx s c st).indexes = s.indexes := by
  unfold faultCtx; first | rfl | ((try dsimp only); (repeat' split) <;> simp)
@[simp] theorem faultCtx_copies (s : State) (c st : Nat) : (faultCtx s c st).copies = s.copies := by
  unfold faultCtx; first | rfl | ((try dsimp only); (repeat' split) <;> simp)
@[simp] theorem faultCtx_queries (s : State) (c st : Nat) : (faultCtx s c st).queries = s.queries := by
  unfold faultCtx; first | rfl | ((try dsimp only); (repeat' split) <;> simp)
@[simp] theorem faultCtx_spans (s : State) (c st : Nat) : (faultCtx s c st).spans = s.spans := by
  unfold faultCtx; first | rfl | ((try dsimp only); (repeat' split) <;> simp)
@[simp] theorem faultCtx_belt (s : State) (c st : Nat) : (faultCtx s c st).belt = s.belt := by
  unfold faultCtx; first | rfl | ((try dsimp only); (repeat' split) <;> simp)
@[simp] theorem faultCtx_kv (s : State) (c st : Nat) : (faultCtx s c st).kv = s.kv := by
  unfold faultCtx; first | rfl | ((try dsimp only); (repeat' split) <;> simp)
@[simp] theorem faultCtx_gens (s : State) (c st : Nat) : (faultCtx s c st).gens = s.gens := by
  unfold faultCtx; first | rfl | ((try dsimp only); (repeat' split) <;> simp)
@[simp] theorem faultCtx_grammars (s : State) (c st : Nat) : (faultCtx s c st).grammars = s.grammars := by
  unfold faultCtx; first | rfl | ((try dsimp only); (repeat' split) <;> simp)
@[simp] theorem faultCtx_pocket (s : State) (c st : Nat) : (faultCtx s c st).pocket = s.pocket := by
  unfold faultCtx; first | rfl | ((try dsimp only); (repeat' split) <;> simp)
@[simp] theorem faultCtx_acc (s : State) (c st : Nat) : (faultCtx s c st).acc = s.acc := by
  unfold faultCtx; first | rfl | ((try dsimp only); (repeat' split) <;> simp)
@[simp] theorem faultCtx_array (s : State) (c st : Nat) : (faultCtx s c st).array = s.array := by
  unfold faultCtx; first | rfl | ((try dsimp only); (repeat' split) <;> simp)
@[simp] theorem faultCtx_mem (s : State) (c st : Nat) : (faultCtx s c st).mem = s.mem := by
  unfold faultCtx; first | rfl | ((try dsimp only); (repeat' split) <;> simp)
@[simp] theorem faultCtx_chip (s : State) (c st : Nat) : (faultCtx s c st).chip = s.chip := by
  unfold faultCtx; first | rfl | ((try dsimp only); (repeat' split) <;> simp)
@[simp] theorem faultCtx_sec (s : State) (c st : Nat) : (faultCtx s c st).sec = s.sec := by
  unfold faultCtx; first | rfl | ((try dsimp only); (repeat' split) <;> simp)
@[simp] theorem faultCtx_power (s : State) (c st : Nat) : (faultCtx s c st).power = s.power := by
  unfold faultCtx; first | rfl | ((try dsimp only); (repeat' split) <;> simp)
@[simp] theorem faultCtx_test (s : State) (c st : Nat) : (faultCtx s c st).test = s.test := by
  unfold faultCtx; first | rfl | ((try dsimp only); (repeat' split) <;> simp)

/-! ### `settleMap` -/

@[simp] theorem settleMap_pending (s : State) : (settleMap s).pending = s.pending := by
  unfold settleMap; first | rfl | ((try dsimp only); (repeat' split) <;> simp)
@[simp] theorem settleMap_start (s : State) : (settleMap s).start = s.start := by
  unfold settleMap; first | rfl | ((try dsimp only); (repeat' split) <;> simp)
@[simp] theorem settleMap_fatal (s : State) : (settleMap s).fatal = s.fatal := by
  unfold settleMap; first | rfl | ((try dsimp only); (repeat' split) <;> simp)
@[simp] theorem settleMap_alerts (s : State) : (settleMap s).alerts = s.alerts := by
  unfold settleMap; first | rfl | ((try dsimp only); (repeat' split) <;> simp)
@[simp] theorem settleMap_dict (s : State) : (settleMap s).dict = s.dict := by
  unfold settleMap; first | rfl | ((try dsimp only); (repeat' split) <;> simp)
@[simp] theorem settleMap_hem (s : State) : (settleMap s).hem = s.hem := by
  unfold settleMap; first | rfl | ((try dsimp only); (repeat' split) <;> simp)
@[simp] theorem settleMap_queues (s : State) : (settleMap s).queues = s.queues := by
  unfold settleMap; first | rfl | ((try dsimp only); (repeat' split) <;> simp)
@[simp] theorem settleMap_jobs (s : State) : (settleMap s).jobs = s.jobs := by
  unfold settleMap; first | rfl | ((try dsimp only); (repeat' split) <;> simp)
@[simp] theorem settleMap_jobNext (s : State) : (settleMap s).jobNext = s.jobNext := by
  unfold settleMap; first | rfl | ((try dsimp only); (repeat' split) <;> simp)
@[simp] theorem settleMap_ctxs (s : State) : (settleMap s).ctxs = s.ctxs := by
  unfold settleMap; first | rfl | ((try dsimp only); (repeat' split) <;> simp)
@[simp] theorem settleMap_models (s : State) : (settleMap s).models = s.models := by
  unfold settleMap; first | rfl | ((try dsimp only); (repeat' split) <;> simp)
@[simp] theorem settleMap_vocabs (s : State) : (settleMap s).vocabs = s.vocabs := by
  unfold settleMap; first | rfl | ((try dsimp only); (repeat' split) <;> simp)
@[simp] theorem settleMap_indexes (s : State) : (settleMap s).indexes = s.indexes := by
  unfold settleMap; first | rfl | ((try dsimp only); (repeat' split) <;> simp)
@[simp] theorem settleMap_copies (s : State) : (settleMap s).copies = s.copies := by
  unfold settleMap; first | rfl | ((try dsimp only); (repeat' split) <;> simp)
@[simp] theorem settleMap_queries (s : State) : (settleMap s).queries = s.queries := by
  unfold settleMap; first | rfl | ((try dsimp only); (repeat' split) <;> simp)
@[simp] theorem settleMap_spans (s : State) : (settleMap s).spans = s.spans := by
  unfold settleMap; first | rfl | ((try dsimp only); (repeat' split) <;> simp)
@[simp] theorem settleMap_belt (s : State) : (settleMap s).belt = s.belt := by
  unfold settleMap; first | rfl | ((try dsimp only); (repeat' split) <;> simp)
@[simp] theorem settleMap_kv (s : State) : (settleMap s).kv = s.kv := by
  unfold settleMap; first | rfl | ((try dsimp only); (repeat' split) <;> simp)
@[simp] theorem settleMap_gens (s : State) : (settleMap s).gens = s.gens := by
  unfold settleMap; first | rfl | ((try dsimp only); (repeat' split) <;> simp)
@[simp] theorem settleMap_grammars (s : State) : (settleMap s).grammars = s.grammars := by
  unfold settleMap; first | rfl | ((try dsimp only); (repeat' split) <;> simp)
@[simp] theorem settleMap_pocket (s : State) : (settleMap s).pocket = s.pocket := by
  unfold settleMap; first | rfl | ((try dsimp only); (repeat' split) <;> simp)
@[simp] theorem settleMap_acc (s : State) : (settleMap s).acc = s.acc := by
  unfold settleMap; first | rfl | ((try dsimp only); (repeat' split) <;> simp)
@[simp] theorem settleMap_array (s : State) : (settleMap s).array = s.array := by
  unfold settleMap; first | rfl | ((try dsimp only); (repeat' split) <;> simp)
@[simp] theorem settleMap_mem (s : State) : (settleMap s).mem = s.mem := by
  unfold settleMap; first | rfl | ((try dsimp only); (repeat' split) <;> simp)
@[simp] theorem settleMap_aedup (s : State) : (settleMap s).aedup = s.aedup := by
  unfold settleMap; first | rfl | ((try dsimp only); (repeat' split) <;> simp)
@[simp] theorem settleMap_pelgan (s : State) : (settleMap s).pelgan = s.pelgan := by
  unfold settleMap; first | rfl | ((try dsimp only); (repeat' split) <;> simp)
@[simp] theorem settleMap_sec (s : State) : (settleMap s).sec = s.sec := by
  unfold settleMap; first | rfl | ((try dsimp only); (repeat' split) <;> simp)
@[simp] theorem settleMap_power (s : State) : (settleMap s).power = s.power := by
  unfold settleMap; first | rfl | ((try dsimp only); (repeat' split) <;> simp)
@[simp] theorem settleMap_test (s : State) : (settleMap s).test = s.test := by
  unfold settleMap; first | rfl | ((try dsimp only); (repeat' split) <;> simp)
@[simp] theorem settleMap_perf (s : State) : (settleMap s).perf = s.perf := by
  unfold settleMap; first | rfl | ((try dsimp only); (repeat' split) <;> simp)
@[simp] theorem settleMap_log (s : State) : (settleMap s).log = s.log := by
  unfold settleMap; first | rfl | ((try dsimp only); (repeat' split) <;> simp)
@[simp] theorem settleMap_out (s : State) : (settleMap s).out = s.out := by
  unfold settleMap; first | rfl | ((try dsimp only); (repeat' split) <;> simp)
@[simp] theorem settleMap_freeCount (s : State) : (settleMap s).freeCount = s.freeCount := by
  unfold settleMap; first | rfl | ((try dsimp only); (repeat' split) <;> simp)

/-! ### `assertAlert` -/

@[simp] theorem assertAlert_pending (s : State) (c : AlertCause) : (assertAlert s c).pending = s.pending := by
  unfold assertAlert; first | rfl | ((try dsimp only); (repeat' split) <;> simp)
@[simp] theorem assertAlert_start (s : State) (c : AlertCause) : (assertAlert s c).start = s.start := by
  unfold assertAlert; first | rfl | ((try dsimp only); (repeat' split) <;> simp)
@[simp] theorem assertAlert_fatal (s : State) (c : AlertCause) : (assertAlert s c).fatal = s.fatal := by
  unfold assertAlert; first | rfl | ((try dsimp only); (repeat' split) <;> simp)
@[simp] theorem assertAlert_eeprom (s : State) (c : AlertCause) : (assertAlert s c).eeprom = s.eeprom := by
  unfold assertAlert; first | rfl | ((try dsimp only); (repeat' split) <;> simp)
@[simp] theorem assertAlert_hem (s : State) (c : AlertCause) : (assertAlert s c).hem = s.hem := by
  unfold assertAlert; first | rfl | ((try dsimp only); (repeat' split) <;> simp)
@[simp] theorem assertAlert_queues (s : State) (c : AlertCause) : (assertAlert s c).queues = s.queues := by
  unfold assertAlert; first | rfl | ((try dsimp only); (repeat' split) <;> simp)
@[simp] theorem assertAlert_jobs (s : State) (c : AlertCause) : (assertAlert s c).jobs = s.jobs := by
  unfold assertAlert; first | rfl | ((try dsimp only); (repeat' split) <;> simp)
@[simp] theorem assertAlert_jobNext (s : State) (c : AlertCause) : (assertAlert s c).jobNext = s.jobNext := by
  unfold assertAlert; first | rfl | ((try dsimp only); (repeat' split) <;> simp)
@[simp] theorem assertAlert_ctxs (s : State) (c : AlertCause) : (assertAlert s c).ctxs = s.ctxs := by
  unfold assertAlert; first | rfl | ((try dsimp only); (repeat' split) <;> simp)
@[simp] theorem assertAlert_models (s : State) (c : AlertCause) : (assertAlert s c).models = s.models := by
  unfold assertAlert; first | rfl | ((try dsimp only); (repeat' split) <;> simp)
@[simp] theorem assertAlert_vocabs (s : State) (c : AlertCause) : (assertAlert s c).vocabs = s.vocabs := by
  unfold assertAlert; first | rfl | ((try dsimp only); (repeat' split) <;> simp)
@[simp] theorem assertAlert_indexes (s : State) (c : AlertCause) : (assertAlert s c).indexes = s.indexes := by
  unfold assertAlert; first | rfl | ((try dsimp only); (repeat' split) <;> simp)
@[simp] theorem assertAlert_copies (s : State) (c : AlertCause) : (assertAlert s c).copies = s.copies := by
  unfold assertAlert; first | rfl | ((try dsimp only); (repeat' split) <;> simp)
@[simp] theorem assertAlert_queries (s : State) (c : AlertCause) : (assertAlert s c).queries = s.queries := by
  unfold assertAlert; first | rfl | ((try dsimp only); (repeat' split) <;> simp)
@[simp] theorem assertAlert_spans (s : State) (c : AlertCause) : (assertAlert s c).spans = s.spans := by
  unfold assertAlert; first | rfl | ((try dsimp only); (repeat' split) <;> simp)
@[simp] theorem assertAlert_belt (s : State) (c : AlertCause) : (assertAlert s c).belt = s.belt := by
  unfold assertAlert; first | rfl | ((try dsimp only); (repeat' split) <;> simp)
@[simp] theorem assertAlert_kv (s : State) (c : AlertCause) : (assertAlert s c).kv = s.kv := by
  unfold assertAlert; first | rfl | ((try dsimp only); (repeat' split) <;> simp)
@[simp] theorem assertAlert_gens (s : State) (c : AlertCause) : (assertAlert s c).gens = s.gens := by
  unfold assertAlert; first | rfl | ((try dsimp only); (repeat' split) <;> simp)
@[simp] theorem assertAlert_grammars (s : State) (c : AlertCause) : (assertAlert s c).grammars = s.grammars := by
  unfold assertAlert; first | rfl | ((try dsimp only); (repeat' split) <;> simp)
@[simp] theorem assertAlert_pocket (s : State) (c : AlertCause) : (assertAlert s c).pocket = s.pocket := by
  unfold assertAlert; first | rfl | ((try dsimp only); (repeat' split) <;> simp)
@[simp] theorem assertAlert_acc (s : State) (c : AlertCause) : (assertAlert s c).acc = s.acc := by
  unfold assertAlert; first | rfl | ((try dsimp only); (repeat' split) <;> simp)
@[simp] theorem assertAlert_array (s : State) (c : AlertCause) : (assertAlert s c).array = s.array := by
  unfold assertAlert; first | rfl | ((try dsimp only); (repeat' split) <;> simp)
@[simp] theorem assertAlert_mem (s : State) (c : AlertCause) : (assertAlert s c).mem = s.mem := by
  unfold assertAlert; first | rfl | ((try dsimp only); (repeat' split) <;> simp)
@[simp] theorem assertAlert_chip (s : State) (c : AlertCause) : (assertAlert s c).chip = s.chip := by
  unfold assertAlert; first | rfl | ((try dsimp only); (repeat' split) <;> simp)
@[simp] theorem assertAlert_sec (s : State) (c : AlertCause) : (assertAlert s c).sec = s.sec := by
  unfold assertAlert; first | rfl | ((try dsimp only); (repeat' split) <;> simp)
@[simp] theorem assertAlert_power (s : State) (c : AlertCause) : (assertAlert s c).power = s.power := by
  unfold assertAlert; first | rfl | ((try dsimp only); (repeat' split) <;> simp)
@[simp] theorem assertAlert_test (s : State) (c : AlertCause) : (assertAlert s c).test = s.test := by
  unfold assertAlert; first | rfl | ((try dsimp only); (repeat' split) <;> simp)
@[simp] theorem assertAlert_log (s : State) (c : AlertCause) : (assertAlert s c).log = s.log := by
  unfold assertAlert; first | rfl | ((try dsimp only); (repeat' split) <;> simp)

/-! ### `releaseAlert` -/

@[simp] theorem releaseAlert_pending (s : State) (c : AlertCause) : (releaseAlert s c).pending = s.pending := by
  unfold releaseAlert; first | rfl | ((try dsimp only); (repeat' split) <;> simp)
@[simp] theorem releaseAlert_start (s : State) (c : AlertCause) : (releaseAlert s c).start = s.start := by
  unfold releaseAlert; first | rfl | ((try dsimp only); (repeat' split) <;> simp)
@[simp] theorem releaseAlert_fatal (s : State) (c : AlertCause) : (releaseAlert s c).fatal = s.fatal := by
  unfold releaseAlert; first | rfl | ((try dsimp only); (repeat' split) <;> simp)
@[simp] theorem releaseAlert_regs (s : State) (c : AlertCause) : (releaseAlert s c).regs = s.regs := by
  unfold releaseAlert; first | rfl | ((try dsimp only); (repeat' split) <;> simp)
@[simp] theorem releaseAlert_eeprom (s : State) (c : AlertCause) : (releaseAlert s c).eeprom = s.eeprom := by
  unfold releaseAlert; first | rfl | ((try dsimp only); (repeat' split) <;> simp)
@[simp] theorem releaseAlert_dict (s : State) (c : AlertCause) : (releaseAlert s c).dict = s.dict := by
  unfold releaseAlert; first | rfl | ((try dsimp only); (repeat' split) <;> simp)
@[simp] theorem releaseAlert_hem (s : State) (c : AlertCause) : (releaseAlert s c).hem = s.hem := by
  unfold releaseAlert; first | rfl | ((try dsimp only); (repeat' split) <;> simp)
@[simp] theorem releaseAlert_queues (s : State) (c : AlertCause) : (releaseAlert s c).queues = s.queues := by
  unfold releaseAlert; first | rfl | ((try dsimp only); (repeat' split) <;> simp)
@[simp] theorem releaseAlert_jobs (s : State) (c : AlertCause) : (releaseAlert s c).jobs = s.jobs := by
  unfold releaseAlert; first | rfl | ((try dsimp only); (repeat' split) <;> simp)
@[simp] theorem releaseAlert_jobNext (s : State) (c : AlertCause) : (releaseAlert s c).jobNext = s.jobNext := by
  unfold releaseAlert; first | rfl | ((try dsimp only); (repeat' split) <;> simp)
@[simp] theorem releaseAlert_ctxs (s : State) (c : AlertCause) : (releaseAlert s c).ctxs = s.ctxs := by
  unfold releaseAlert; first | rfl | ((try dsimp only); (repeat' split) <;> simp)
@[simp] theorem releaseAlert_models (s : State) (c : AlertCause) : (releaseAlert s c).models = s.models := by
  unfold releaseAlert; first | rfl | ((try dsimp only); (repeat' split) <;> simp)
@[simp] theorem releaseAlert_vocabs (s : State) (c : AlertCause) : (releaseAlert s c).vocabs = s.vocabs := by
  unfold releaseAlert; first | rfl | ((try dsimp only); (repeat' split) <;> simp)
@[simp] theorem releaseAlert_indexes (s : State) (c : AlertCause) : (releaseAlert s c).indexes = s.indexes := by
  unfold releaseAlert; first | rfl | ((try dsimp only); (repeat' split) <;> simp)
@[simp] theorem releaseAlert_copies (s : State) (c : AlertCause) : (releaseAlert s c).copies = s.copies := by
  unfold releaseAlert; first | rfl | ((try dsimp only); (repeat' split) <;> simp)
@[simp] theorem releaseAlert_queries (s : State) (c : AlertCause) : (releaseAlert s c).queries = s.queries := by
  unfold releaseAlert; first | rfl | ((try dsimp only); (repeat' split) <;> simp)
@[simp] theorem releaseAlert_spans (s : State) (c : AlertCause) : (releaseAlert s c).spans = s.spans := by
  unfold releaseAlert; first | rfl | ((try dsimp only); (repeat' split) <;> simp)
@[simp] theorem releaseAlert_belt (s : State) (c : AlertCause) : (releaseAlert s c).belt = s.belt := by
  unfold releaseAlert; first | rfl | ((try dsimp only); (repeat' split) <;> simp)
@[simp] theorem releaseAlert_kv (s : State) (c : AlertCause) : (releaseAlert s c).kv = s.kv := by
  unfold releaseAlert; first | rfl | ((try dsimp only); (repeat' split) <;> simp)
@[simp] theorem releaseAlert_gens (s : State) (c : AlertCause) : (releaseAlert s c).gens = s.gens := by
  unfold releaseAlert; first | rfl | ((try dsimp only); (repeat' split) <;> simp)
@[simp] theorem releaseAlert_grammars (s : State) (c : AlertCause) : (releaseAlert s c).grammars = s.grammars := by
  unfold releaseAlert; first | rfl | ((try dsimp only); (repeat' split) <;> simp)
@[simp] theorem releaseAlert_pocket (s : State) (c : AlertCause) : (releaseAlert s c).pocket = s.pocket := by
  unfold releaseAlert; first | rfl | ((try dsimp only); (repeat' split) <;> simp)
@[simp] theorem releaseAlert_acc (s : State) (c : AlertCause) : (releaseAlert s c).acc = s.acc := by
  unfold releaseAlert; first | rfl | ((try dsimp only); (repeat' split) <;> simp)
@[simp] theorem releaseAlert_array (s : State) (c : AlertCause) : (releaseAlert s c).array = s.array := by
  unfold releaseAlert; first | rfl | ((try dsimp only); (repeat' split) <;> simp)
@[simp] theorem releaseAlert_mem (s : State) (c : AlertCause) : (releaseAlert s c).mem = s.mem := by
  unfold releaseAlert; first | rfl | ((try dsimp only); (repeat' split) <;> simp)
@[simp] theorem releaseAlert_aedup (s : State) (c : AlertCause) : (releaseAlert s c).aedup = s.aedup := by
  unfold releaseAlert; first | rfl | ((try dsimp only); (repeat' split) <;> simp)
@[simp] theorem releaseAlert_pelgan (s : State) (c : AlertCause) : (releaseAlert s c).pelgan = s.pelgan := by
  unfold releaseAlert; first | rfl | ((try dsimp only); (repeat' split) <;> simp)
@[simp] theorem releaseAlert_chip (s : State) (c : AlertCause) : (releaseAlert s c).chip = s.chip := by
  unfold releaseAlert; first | rfl | ((try dsimp only); (repeat' split) <;> simp)
@[simp] theorem releaseAlert_sec (s : State) (c : AlertCause) : (releaseAlert s c).sec = s.sec := by
  unfold releaseAlert; first | rfl | ((try dsimp only); (repeat' split) <;> simp)
@[simp] theorem releaseAlert_power (s : State) (c : AlertCause) : (releaseAlert s c).power = s.power := by
  unfold releaseAlert; first | rfl | ((try dsimp only); (repeat' split) <;> simp)
@[simp] theorem releaseAlert_test (s : State) (c : AlertCause) : (releaseAlert s c).test = s.test := by
  unfold releaseAlert; first | rfl | ((try dsimp only); (repeat' split) <;> simp)
@[simp] theorem releaseAlert_perf (s : State) (c : AlertCause) : (releaseAlert s c).perf = s.perf := by
  unfold releaseAlert; first | rfl | ((try dsimp only); (repeat' split) <;> simp)
@[simp] theorem releaseAlert_log (s : State) (c : AlertCause) : (releaseAlert s c).log = s.log := by
  unfold releaseAlert; first | rfl | ((try dsimp only); (repeat' split) <;> simp)
@[simp] theorem releaseAlert_out (s : State) (c : AlertCause) : (releaseAlert s c).out = s.out := by
  unfold releaseAlert; first | rfl | ((try dsimp only); (repeat' split) <;> simp)
@[simp] theorem releaseAlert_freeCount (s : State) (c : AlertCause) : (releaseAlert s c).freeCount = s.freeCount := by
  unfold releaseAlert; first | rfl | ((try dsimp only); (repeat' split) <;> simp)

/-! ### `quarantineAs` -/

@[simp] theorem quarantineAs_pending (s : State) (b st d : Nat) : (quarantineAs s b st d).pending = s.pending := by
  unfold quarantineAs; first | rfl | ((try dsimp only); (repeat' split) <;> simp)
@[simp] theorem quarantineAs_start (s : State) (b st d : Nat) : (quarantineAs s b st d).start = s.start := by
  unfold quarantineAs; first | rfl | ((try dsimp only); (repeat' split) <;> simp)
@[simp] theorem quarantineAs_fatal (s : State) (b st d : Nat) : (quarantineAs s b st d).fatal = s.fatal := by
  unfold quarantineAs; first | rfl | ((try dsimp only); (repeat' split) <;> simp)
@[simp] theorem quarantineAs_alerts (s : State) (b st d : Nat) : (quarantineAs s b st d).alerts = s.alerts := by
  unfold quarantineAs; first | rfl | ((try dsimp only); (repeat' split) <;> simp)
@[simp] theorem quarantineAs_hem (s : State) (b st d : Nat) : (quarantineAs s b st d).hem = s.hem := by
  unfold quarantineAs; first | rfl | ((try dsimp only); (repeat' split) <;> simp)
@[simp] theorem quarantineAs_queues (s : State) (b st d : Nat) : (quarantineAs s b st d).queues = s.queues := by
  unfold quarantineAs; first | rfl | ((try dsimp only); (repeat' split) <;> simp)
@[simp] theorem quarantineAs_jobs (s : State) (b st d : Nat) : (quarantineAs s b st d).jobs = s.jobs := by
  unfold quarantineAs; first | rfl | ((try dsimp only); (repeat' split) <;> simp)
@[simp] theorem quarantineAs_jobNext (s : State) (b st d : Nat) : (quarantineAs s b st d).jobNext = s.jobNext := by
  unfold quarantineAs; first | rfl | ((try dsimp only); (repeat' split) <;> simp)
@[simp] theorem quarantineAs_vocabs (s : State) (b st d : Nat) : (quarantineAs s b st d).vocabs = s.vocabs := by
  unfold quarantineAs; first | rfl | ((try dsimp only); (repeat' split) <;> simp)
@[simp] theorem quarantineAs_indexes (s : State) (b st d : Nat) : (quarantineAs s b st d).indexes = s.indexes := by
  unfold quarantineAs; first | rfl | ((try dsimp only); (repeat' split) <;> simp)
@[simp] theorem quarantineAs_copies (s : State) (b st d : Nat) : (quarantineAs s b st d).copies = s.copies := by
  unfold quarantineAs; first | rfl | ((try dsimp only); (repeat' split) <;> simp)
@[simp] theorem quarantineAs_queries (s : State) (b st d : Nat) : (quarantineAs s b st d).queries = s.queries := by
  unfold quarantineAs; first | rfl | ((try dsimp only); (repeat' split) <;> simp)
@[simp] theorem quarantineAs_spans (s : State) (b st d : Nat) : (quarantineAs s b st d).spans = s.spans := by
  unfold quarantineAs; first | rfl | ((try dsimp only); (repeat' split) <;> simp)
@[simp] theorem quarantineAs_belt (s : State) (b st d : Nat) : (quarantineAs s b st d).belt = s.belt := by
  unfold quarantineAs; first | rfl | ((try dsimp only); (repeat' split) <;> simp)
@[simp] theorem quarantineAs_kv (s : State) (b st d : Nat) : (quarantineAs s b st d).kv = s.kv := by
  unfold quarantineAs; first | rfl | ((try dsimp only); (repeat' split) <;> simp)
@[simp] theorem quarantineAs_gens (s : State) (b st d : Nat) : (quarantineAs s b st d).gens = s.gens := by
  unfold quarantineAs; first | rfl | ((try dsimp only); (repeat' split) <;> simp)
@[simp] theorem quarantineAs_grammars (s : State) (b st d : Nat) : (quarantineAs s b st d).grammars = s.grammars := by
  unfold quarantineAs; first | rfl | ((try dsimp only); (repeat' split) <;> simp)
@[simp] theorem quarantineAs_pocket (s : State) (b st d : Nat) : (quarantineAs s b st d).pocket = s.pocket := by
  unfold quarantineAs; first | rfl | ((try dsimp only); (repeat' split) <;> simp)
@[simp] theorem quarantineAs_acc (s : State) (b st d : Nat) : (quarantineAs s b st d).acc = s.acc := by
  unfold quarantineAs; first | rfl | ((try dsimp only); (repeat' split) <;> simp)
@[simp] theorem quarantineAs_array (s : State) (b st d : Nat) : (quarantineAs s b st d).array = s.array := by
  unfold quarantineAs; first | rfl | ((try dsimp only); (repeat' split) <;> simp)
@[simp] theorem quarantineAs_mem (s : State) (b st d : Nat) : (quarantineAs s b st d).mem = s.mem := by
  unfold quarantineAs; first | rfl | ((try dsimp only); (repeat' split) <;> simp)
@[simp] theorem quarantineAs_sec (s : State) (b st d : Nat) : (quarantineAs s b st d).sec = s.sec := by
  unfold quarantineAs; first | rfl | ((try dsimp only); (repeat' split) <;> simp)
@[simp] theorem quarantineAs_power (s : State) (b st d : Nat) : (quarantineAs s b st d).power = s.power := by
  unfold quarantineAs; first | rfl | ((try dsimp only); (repeat' split) <;> simp)

/-! ### `quarantine` -/

@[simp] theorem quarantine_pending (s : State) (b st : Nat) : (quarantine s b st).pending = s.pending := by
  unfold quarantine; first | rfl | ((try dsimp only); (repeat' split) <;> simp)
@[simp] theorem quarantine_start (s : State) (b st : Nat) : (quarantine s b st).start = s.start := by
  unfold quarantine; first | rfl | ((try dsimp only); (repeat' split) <;> simp)
@[simp] theorem quarantine_fatal (s : State) (b st : Nat) : (quarantine s b st).fatal = s.fatal := by
  unfold quarantine; first | rfl | ((try dsimp only); (repeat' split) <;> simp)
@[simp] theorem quarantine_alerts (s : State) (b st : Nat) : (quarantine s b st).alerts = s.alerts := by
  unfold quarantine; first | rfl | ((try dsimp only); (repeat' split) <;> simp)
@[simp] theorem quarantine_hem (s : State) (b st : Nat) : (quarantine s b st).hem = s.hem := by
  unfold quarantine; first | rfl | ((try dsimp only); (repeat' split) <;> simp)
@[simp] theorem quarantine_queues (s : State) (b st : Nat) : (quarantine s b st).queues = s.queues := by
  unfold quarantine; first | rfl | ((try dsimp only); (repeat' split) <;> simp)
@[simp] theorem quarantine_jobs (s : State) (b st : Nat) : (quarantine s b st).jobs = s.jobs := by
  unfold quarantine; first | rfl | ((try dsimp only); (repeat' split) <;> simp)
@[simp] theorem quarantine_jobNext (s : State) (b st : Nat) : (quarantine s b st).jobNext = s.jobNext := by
  unfold quarantine; first | rfl | ((try dsimp only); (repeat' split) <;> simp)
@[simp] theorem quarantine_vocabs (s : State) (b st : Nat) : (quarantine s b st).vocabs = s.vocabs := by
  unfold quarantine; first | rfl | ((try dsimp only); (repeat' split) <;> simp)
@[simp] theorem quarantine_indexes (s : State) (b st : Nat) : (quarantine s b st).indexes = s.indexes := by
  unfold quarantine; first | rfl | ((try dsimp only); (repeat' split) <;> simp)
@[simp] theorem quarantine_copies (s : State) (b st : Nat) : (quarantine s b st).copies = s.copies := by
  unfold quarantine; first | rfl | ((try dsimp only); (repeat' split) <;> simp)
@[simp] theorem quarantine_queries (s : State) (b st : Nat) : (quarantine s b st).queries = s.queries := by
  unfold quarantine; first | rfl | ((try dsimp only); (repeat' split) <;> simp)
@[simp] theorem quarantine_spans (s : State) (b st : Nat) : (quarantine s b st).spans = s.spans := by
  unfold quarantine; first | rfl | ((try dsimp only); (repeat' split) <;> simp)
@[simp] theorem quarantine_belt (s : State) (b st : Nat) : (quarantine s b st).belt = s.belt := by
  unfold quarantine; first | rfl | ((try dsimp only); (repeat' split) <;> simp)
@[simp] theorem quarantine_kv (s : State) (b st : Nat) : (quarantine s b st).kv = s.kv := by
  unfold quarantine; first | rfl | ((try dsimp only); (repeat' split) <;> simp)
@[simp] theorem quarantine_gens (s : State) (b st : Nat) : (quarantine s b st).gens = s.gens := by
  unfold quarantine; first | rfl | ((try dsimp only); (repeat' split) <;> simp)
@[simp] theorem quarantine_grammars (s : State) (b st : Nat) : (quarantine s b st).grammars = s.grammars := by
  unfold quarantine; first | rfl | ((try dsimp only); (repeat' split) <;> simp)
@[simp] theorem quarantine_pocket (s : State) (b st : Nat) : (quarantine s b st).pocket = s.pocket := by
  unfold quarantine; first | rfl | ((try dsimp only); (repeat' split) <;> simp)
@[simp] theorem quarantine_acc (s : State) (b st : Nat) : (quarantine s b st).acc = s.acc := by
  unfold quarantine; first | rfl | ((try dsimp only); (repeat' split) <;> simp)
@[simp] theorem quarantine_array (s : State) (b st : Nat) : (quarantine s b st).array = s.array := by
  unfold quarantine; first | rfl | ((try dsimp only); (repeat' split) <;> simp)
@[simp] theorem quarantine_mem (s : State) (b st : Nat) : (quarantine s b st).mem = s.mem := by
  unfold quarantine; first | rfl | ((try dsimp only); (repeat' split) <;> simp)
@[simp] theorem quarantine_sec (s : State) (b st : Nat) : (quarantine s b st).sec = s.sec := by
  unfold quarantine; first | rfl | ((try dsimp only); (repeat' split) <;> simp)
@[simp] theorem quarantine_power (s : State) (b st : Nat) : (quarantine s b st).power = s.power := by
  unfold quarantine; first | rfl | ((try dsimp only); (repeat' split) <;> simp)

/-! ### `showPower` -/

@[simp] theorem showPower_pending (s : State) : (showPower s).pending = s.pending := by
  unfold showPower; first | rfl | ((try dsimp only); (repeat' split) <;> simp)
@[simp] theorem showPower_start (s : State) : (showPower s).start = s.start := by
  unfold showPower; first | rfl | ((try dsimp only); (repeat' split) <;> simp)
@[simp] theorem showPower_fatal (s : State) : (showPower s).fatal = s.fatal := by
  unfold showPower; first | rfl | ((try dsimp only); (repeat' split) <;> simp)
@[simp] theorem showPower_alerts (s : State) : (showPower s).alerts = s.alerts := by
  unfold showPower; first | rfl | ((try dsimp only); (repeat' split) <;> simp)
@[simp] theorem showPower_eeprom (s : State) : (showPower s).eeprom = s.eeprom := by
  unfold showPower; first | rfl | ((try dsimp only); (repeat' split) <;> simp)
@[simp] theorem showPower_dict (s : State) : (showPower s).dict = s.dict := by
  unfold showPower; first | rfl | ((try dsimp only); (repeat' split) <;> simp)
@[simp] theorem showPower_hem (s : State) : (showPower s).hem = s.hem := by
  unfold showPower; first | rfl | ((try dsimp only); (repeat' split) <;> simp)
@[simp] theorem showPower_queues (s : State) : (showPower s).queues = s.queues := by
  unfold showPower; first | rfl | ((try dsimp only); (repeat' split) <;> simp)
@[simp] theorem showPower_jobs (s : State) : (showPower s).jobs = s.jobs := by
  unfold showPower; first | rfl | ((try dsimp only); (repeat' split) <;> simp)
@[simp] theorem showPower_jobNext (s : State) : (showPower s).jobNext = s.jobNext := by
  unfold showPower; first | rfl | ((try dsimp only); (repeat' split) <;> simp)
@[simp] theorem showPower_ctxs (s : State) : (showPower s).ctxs = s.ctxs := by
  unfold showPower; first | rfl | ((try dsimp only); (repeat' split) <;> simp)
@[simp] theorem showPower_models (s : State) : (showPower s).models = s.models := by
  unfold showPower; first | rfl | ((try dsimp only); (repeat' split) <;> simp)
@[simp] theorem showPower_vocabs (s : State) : (showPower s).vocabs = s.vocabs := by
  unfold showPower; first | rfl | ((try dsimp only); (repeat' split) <;> simp)
@[simp] theorem showPower_indexes (s : State) : (showPower s).indexes = s.indexes := by
  unfold showPower; first | rfl | ((try dsimp only); (repeat' split) <;> simp)
@[simp] theorem showPower_copies (s : State) : (showPower s).copies = s.copies := by
  unfold showPower; first | rfl | ((try dsimp only); (repeat' split) <;> simp)
@[simp] theorem showPower_queries (s : State) : (showPower s).queries = s.queries := by
  unfold showPower; first | rfl | ((try dsimp only); (repeat' split) <;> simp)
@[simp] theorem showPower_spans (s : State) : (showPower s).spans = s.spans := by
  unfold showPower; first | rfl | ((try dsimp only); (repeat' split) <;> simp)
@[simp] theorem showPower_belt (s : State) : (showPower s).belt = s.belt := by
  unfold showPower; first | rfl | ((try dsimp only); (repeat' split) <;> simp)
@[simp] theorem showPower_kv (s : State) : (showPower s).kv = s.kv := by
  unfold showPower; first | rfl | ((try dsimp only); (repeat' split) <;> simp)
@[simp] theorem showPower_gens (s : State) : (showPower s).gens = s.gens := by
  unfold showPower; first | rfl | ((try dsimp only); (repeat' split) <;> simp)
@[simp] theorem showPower_grammars (s : State) : (showPower s).grammars = s.grammars := by
  unfold showPower; first | rfl | ((try dsimp only); (repeat' split) <;> simp)
@[simp] theorem showPower_pocket (s : State) : (showPower s).pocket = s.pocket := by
  unfold showPower; first | rfl | ((try dsimp only); (repeat' split) <;> simp)
@[simp] theorem showPower_acc (s : State) : (showPower s).acc = s.acc := by
  unfold showPower; first | rfl | ((try dsimp only); (repeat' split) <;> simp)
@[simp] theorem showPower_array (s : State) : (showPower s).array = s.array := by
  unfold showPower; first | rfl | ((try dsimp only); (repeat' split) <;> simp)
@[simp] theorem showPower_mem (s : State) : (showPower s).mem = s.mem := by
  unfold showPower; first | rfl | ((try dsimp only); (repeat' split) <;> simp)
@[simp] theorem showPower_aedup (s : State) : (showPower s).aedup = s.aedup := by
  unfold showPower; first | rfl | ((try dsimp only); (repeat' split) <;> simp)
@[simp] theorem showPower_pelgan (s : State) : (showPower s).pelgan = s.pelgan := by
  unfold showPower; first | rfl | ((try dsimp only); (repeat' split) <;> simp)
@[simp] theorem showPower_chip (s : State) : (showPower s).chip = s.chip := by
  unfold showPower; first | rfl | ((try dsimp only); (repeat' split) <;> simp)
@[simp] theorem showPower_sec (s : State) : (showPower s).sec = s.sec := by
  unfold showPower; first | rfl | ((try dsimp only); (repeat' split) <;> simp)
@[simp] theorem showPower_power (s : State) : (showPower s).power = s.power := by
  unfold showPower; first | rfl | ((try dsimp only); (repeat' split) <;> simp)
@[simp] theorem showPower_test (s : State) : (showPower s).test = s.test := by
  unfold showPower; first | rfl | ((try dsimp only); (repeat' split) <;> simp)
@[simp] theorem showPower_perf (s : State) : (showPower s).perf = s.perf := by
  unfold showPower; first | rfl | ((try dsimp only); (repeat' split) <;> simp)
@[simp] theorem showPower_log (s : State) : (showPower s).log = s.log := by
  unfold showPower; first | rfl | ((try dsimp only); (repeat' split) <;> simp)
@[simp] theorem showPower_out (s : State) : (showPower s).out = s.out := by
  unfold showPower; first | rfl | ((try dsimp only); (repeat' split) <;> simp)
@[simp] theorem showPower_freeCount (s : State) : (showPower s).freeCount = s.freeCount := by
  unfold showPower; first | rfl | ((try dsimp only); (repeat' split) <;> simp)

/-! ### `askWake` -/

@[simp] theorem askWake_pending (s : State) (r : Nat) : (askWake s r).pending = s.pending := by
  unfold askWake; first | rfl | ((try dsimp only); (repeat' split) <;> simp)
@[simp] theorem askWake_start (s : State) (r : Nat) : (askWake s r).start = s.start := by
  unfold askWake; first | rfl | ((try dsimp only); (repeat' split) <;> simp)
@[simp] theorem askWake_fatal (s : State) (r : Nat) : (askWake s r).fatal = s.fatal := by
  unfold askWake; first | rfl | ((try dsimp only); (repeat' split) <;> simp)
@[simp] theorem askWake_alerts (s : State) (r : Nat) : (askWake s r).alerts = s.alerts := by
  unfold askWake; first | rfl | ((try dsimp only); (repeat' split) <;> simp)
@[simp] theorem askWake_eeprom (s : State) (r : Nat) : (askWake s r).eeprom = s.eeprom := by
  unfold askWake; first | rfl | ((try dsimp only); (repeat' split) <;> simp)
@[simp] theorem askWake_dict (s : State) (r : Nat) : (askWake s r).dict = s.dict := by
  unfold askWake; first | rfl | ((try dsimp only); (repeat' split) <;> simp)
@[simp] theorem askWake_hem (s : State) (r : Nat) : (askWake s r).hem = s.hem := by
  unfold askWake; first | rfl | ((try dsimp only); (repeat' split) <;> simp)
@[simp] theorem askWake_queues (s : State) (r : Nat) : (askWake s r).queues = s.queues := by
  unfold askWake; first | rfl | ((try dsimp only); (repeat' split) <;> simp)
@[simp] theorem askWake_jobs (s : State) (r : Nat) : (askWake s r).jobs = s.jobs := by
  unfold askWake; first | rfl | ((try dsimp only); (repeat' split) <;> simp)
@[simp] theorem askWake_jobNext (s : State) (r : Nat) : (askWake s r).jobNext = s.jobNext := by
  unfold askWake; first | rfl | ((try dsimp only); (repeat' split) <;> simp)
@[simp] theorem askWake_ctxs (s : State) (r : Nat) : (askWake s r).ctxs = s.ctxs := by
  unfold askWake; first | rfl | ((try dsimp only); (repeat' split) <;> simp)
@[simp] theorem askWake_models (s : State) (r : Nat) : (askWake s r).models = s.models := by
  unfold askWake; first | rfl | ((try dsimp only); (repeat' split) <;> simp)
@[simp] theorem askWake_vocabs (s : State) (r : Nat) : (askWake s r).vocabs = s.vocabs := by
  unfold askWake; first | rfl | ((try dsimp only); (repeat' split) <;> simp)
@[simp] theorem askWake_indexes (s : State) (r : Nat) : (askWake s r).indexes = s.indexes := by
  unfold askWake; first | rfl | ((try dsimp only); (repeat' split) <;> simp)
@[simp] theorem askWake_copies (s : State) (r : Nat) : (askWake s r).copies = s.copies := by
  unfold askWake; first | rfl | ((try dsimp only); (repeat' split) <;> simp)
@[simp] theorem askWake_queries (s : State) (r : Nat) : (askWake s r).queries = s.queries := by
  unfold askWake; first | rfl | ((try dsimp only); (repeat' split) <;> simp)
@[simp] theorem askWake_spans (s : State) (r : Nat) : (askWake s r).spans = s.spans := by
  unfold askWake; first | rfl | ((try dsimp only); (repeat' split) <;> simp)
@[simp] theorem askWake_belt (s : State) (r : Nat) : (askWake s r).belt = s.belt := by
  unfold askWake; first | rfl | ((try dsimp only); (repeat' split) <;> simp)
@[simp] theorem askWake_kv (s : State) (r : Nat) : (askWake s r).kv = s.kv := by
  unfold askWake; first | rfl | ((try dsimp only); (repeat' split) <;> simp)
@[simp] theorem askWake_gens (s : State) (r : Nat) : (askWake s r).gens = s.gens := by
  unfold askWake; first | rfl | ((try dsimp only); (repeat' split) <;> simp)
@[simp] theorem askWake_grammars (s : State) (r : Nat) : (askWake s r).grammars = s.grammars := by
  unfold askWake; first | rfl | ((try dsimp only); (repeat' split) <;> simp)
@[simp] theorem askWake_pocket (s : State) (r : Nat) : (askWake s r).pocket = s.pocket := by
  unfold askWake; first | rfl | ((try dsimp only); (repeat' split) <;> simp)
@[simp] theorem askWake_acc (s : State) (r : Nat) : (askWake s r).acc = s.acc := by
  unfold askWake; first | rfl | ((try dsimp only); (repeat' split) <;> simp)
@[simp] theorem askWake_array (s : State) (r : Nat) : (askWake s r).array = s.array := by
  unfold askWake; first | rfl | ((try dsimp only); (repeat' split) <;> simp)
@[simp] theorem askWake_mem (s : State) (r : Nat) : (askWake s r).mem = s.mem := by
  unfold askWake; first | rfl | ((try dsimp only); (repeat' split) <;> simp)
@[simp] theorem askWake_aedup (s : State) (r : Nat) : (askWake s r).aedup = s.aedup := by
  unfold askWake; first | rfl | ((try dsimp only); (repeat' split) <;> simp)
@[simp] theorem askWake_pelgan (s : State) (r : Nat) : (askWake s r).pelgan = s.pelgan := by
  unfold askWake; first | rfl | ((try dsimp only); (repeat' split) <;> simp)
@[simp] theorem askWake_chip (s : State) (r : Nat) : (askWake s r).chip = s.chip := by
  unfold askWake; first | rfl | ((try dsimp only); (repeat' split) <;> simp)
@[simp] theorem askWake_sec (s : State) (r : Nat) : (askWake s r).sec = s.sec := by
  unfold askWake; first | rfl | ((try dsimp only); (repeat' split) <;> simp)
@[simp] theorem askWake_test (s : State) (r : Nat) : (askWake s r).test = s.test := by
  unfold askWake; first | rfl | ((try dsimp only); (repeat' split) <;> simp)
@[simp] theorem askWake_perf (s : State) (r : Nat) : (askWake s r).perf = s.perf := by
  unfold askWake; first | rfl | ((try dsimp only); (repeat' split) <;> simp)
@[simp] theorem askWake_log (s : State) (r : Nat) : (askWake s r).log = s.log := by
  unfold askWake; first | rfl | ((try dsimp only); (repeat' split) <;> simp)
@[simp] theorem askWake_out (s : State) (r : Nat) : (askWake s r).out = s.out := by
  unfold askWake; first | rfl | ((try dsimp only); (repeat' split) <;> simp)
@[simp] theorem askWake_freeCount (s : State) (r : Nat) : (askWake s r).freeCount = s.freeCount := by
  unfold askWake; first | rfl | ((try dsimp only); (repeat' split) <;> simp)

/-! ### `needRegion` -/

@[simp] theorem needRegion_pending (s : State) (r : Nat) : (needRegion s r).pending = s.pending := by
  unfold needRegion; first | rfl | ((try dsimp only); (repeat' split) <;> simp)
@[simp] theorem needRegion_start (s : State) (r : Nat) : (needRegion s r).start = s.start := by
  unfold needRegion; first | rfl | ((try dsimp only); (repeat' split) <;> simp)
@[simp] theorem needRegion_fatal (s : State) (r : Nat) : (needRegion s r).fatal = s.fatal := by
  unfold needRegion; first | rfl | ((try dsimp only); (repeat' split) <;> simp)
@[simp] theorem needRegion_alerts (s : State) (r : Nat) : (needRegion s r).alerts = s.alerts := by
  unfold needRegion; first | rfl | ((try dsimp only); (repeat' split) <;> simp)
@[simp] theorem needRegion_eeprom (s : State) (r : Nat) : (needRegion s r).eeprom = s.eeprom := by
  unfold needRegion; first | rfl | ((try dsimp only); (repeat' split) <;> simp)
@[simp] theorem needRegion_dict (s : State) (r : Nat) : (needRegion s r).dict = s.dict := by
  unfold needRegion; first | rfl | ((try dsimp only); (repeat' split) <;> simp)
@[simp] theorem needRegion_hem (s : State) (r : Nat) : (needRegion s r).hem = s.hem := by
  unfold needRegion; first | rfl | ((try dsimp only); (repeat' split) <;> simp)
@[simp] theorem needRegion_queues (s : State) (r : Nat) : (needRegion s r).queues = s.queues := by
  unfold needRegion; first | rfl | ((try dsimp only); (repeat' split) <;> simp)
@[simp] theorem needRegion_jobs (s : State) (r : Nat) : (needRegion s r).jobs = s.jobs := by
  unfold needRegion; first | rfl | ((try dsimp only); (repeat' split) <;> simp)
@[simp] theorem needRegion_jobNext (s : State) (r : Nat) : (needRegion s r).jobNext = s.jobNext := by
  unfold needRegion; first | rfl | ((try dsimp only); (repeat' split) <;> simp)
@[simp] theorem needRegion_ctxs (s : State) (r : Nat) : (needRegion s r).ctxs = s.ctxs := by
  unfold needRegion; first | rfl | ((try dsimp only); (repeat' split) <;> simp)
@[simp] theorem needRegion_models (s : State) (r : Nat) : (needRegion s r).models = s.models := by
  unfold needRegion; first | rfl | ((try dsimp only); (repeat' split) <;> simp)
@[simp] theorem needRegion_vocabs (s : State) (r : Nat) : (needRegion s r).vocabs = s.vocabs := by
  unfold needRegion; first | rfl | ((try dsimp only); (repeat' split) <;> simp)
@[simp] theorem needRegion_indexes (s : State) (r : Nat) : (needRegion s r).indexes = s.indexes := by
  unfold needRegion; first | rfl | ((try dsimp only); (repeat' split) <;> simp)
@[simp] theorem needRegion_copies (s : State) (r : Nat) : (needRegion s r).copies = s.copies := by
  unfold needRegion; first | rfl | ((try dsimp only); (repeat' split) <;> simp)
@[simp] theorem needRegion_queries (s : State) (r : Nat) : (needRegion s r).queries = s.queries := by
  unfold needRegion; first | rfl | ((try dsimp only); (repeat' split) <;> simp)
@[simp] theorem needRegion_spans (s : State) (r : Nat) : (needRegion s r).spans = s.spans := by
  unfold needRegion; first | rfl | ((try dsimp only); (repeat' split) <;> simp)
@[simp] theorem needRegion_belt (s : State) (r : Nat) : (needRegion s r).belt = s.belt := by
  unfold needRegion; first | rfl | ((try dsimp only); (repeat' split) <;> simp)
@[simp] theorem needRegion_kv (s : State) (r : Nat) : (needRegion s r).kv = s.kv := by
  unfold needRegion; first | rfl | ((try dsimp only); (repeat' split) <;> simp)
@[simp] theorem needRegion_gens (s : State) (r : Nat) : (needRegion s r).gens = s.gens := by
  unfold needRegion; first | rfl | ((try dsimp only); (repeat' split) <;> simp)
@[simp] theorem needRegion_grammars (s : State) (r : Nat) : (needRegion s r).grammars = s.grammars := by
  unfold needRegion; first | rfl | ((try dsimp only); (repeat' split) <;> simp)
@[simp] theorem needRegion_pocket (s : State) (r : Nat) : (needRegion s r).pocket = s.pocket := by
  unfold needRegion; first | rfl | ((try dsimp only); (repeat' split) <;> simp)
@[simp] theorem needRegion_acc (s : State) (r : Nat) : (needRegion s r).acc = s.acc := by
  unfold needRegion; first | rfl | ((try dsimp only); (repeat' split) <;> simp)
@[simp] theorem needRegion_array (s : State) (r : Nat) : (needRegion s r).array = s.array := by
  unfold needRegion; first | rfl | ((try dsimp only); (repeat' split) <;> simp)
@[simp] theorem needRegion_mem (s : State) (r : Nat) : (needRegion s r).mem = s.mem := by
  unfold needRegion; first | rfl | ((try dsimp only); (repeat' split) <;> simp)
@[simp] theorem needRegion_aedup (s : State) (r : Nat) : (needRegion s r).aedup = s.aedup := by
  unfold needRegion; first | rfl | ((try dsimp only); (repeat' split) <;> simp)
@[simp] theorem needRegion_pelgan (s : State) (r : Nat) : (needRegion s r).pelgan = s.pelgan := by
  unfold needRegion; first | rfl | ((try dsimp only); (repeat' split) <;> simp)
@[simp] theorem needRegion_chip (s : State) (r : Nat) : (needRegion s r).chip = s.chip := by
  unfold needRegion; first | rfl | ((try dsimp only); (repeat' split) <;> simp)
@[simp] theorem needRegion_sec (s : State) (r : Nat) : (needRegion s r).sec = s.sec := by
  unfold needRegion; first | rfl | ((try dsimp only); (repeat' split) <;> simp)
@[simp] theorem needRegion_test (s : State) (r : Nat) : (needRegion s r).test = s.test := by
  unfold needRegion; first | rfl | ((try dsimp only); (repeat' split) <;> simp)
@[simp] theorem needRegion_perf (s : State) (r : Nat) : (needRegion s r).perf = s.perf := by
  unfold needRegion; first | rfl | ((try dsimp only); (repeat' split) <;> simp)
@[simp] theorem needRegion_log (s : State) (r : Nat) : (needRegion s r).log = s.log := by
  unfold needRegion; first | rfl | ((try dsimp only); (repeat' split) <;> simp)
@[simp] theorem needRegion_out (s : State) (r : Nat) : (needRegion s r).out = s.out := by
  unfold needRegion; first | rfl | ((try dsimp only); (repeat' split) <;> simp)
@[simp] theorem needRegion_freeCount (s : State) (r : Nat) : (needRegion s r).freeCount = s.freeCount := by
  unfold needRegion; first | rfl | ((try dsimp only); (repeat' split) <;> simp)

/-! ### `releaseUnits` -/

@[simp] theorem releaseUnits_pending (s : State) (us : List Nat) : (releaseUnits s us).pending = s.pending := by
  exact foldl_same State.pending _ _ _ (fun _ _ => by simp)
@[simp] theorem releaseUnits_start (s : State) (us : List Nat) : (releaseUnits s us).start = s.start := by
  exact foldl_same State.start _ _ _ (fun _ _ => by simp)
@[simp] theorem releaseUnits_fatal (s : State) (us : List Nat) : (releaseUnits s us).fatal = s.fatal := by
  exact foldl_same State.fatal _ _ _ (fun _ _ => by simp)
@[simp] theorem releaseUnits_alerts (s : State) (us : List Nat) : (releaseUnits s us).alerts = s.alerts := by
  exact foldl_same State.alerts _ _ _ (fun _ _ => by simp)
@[simp] theorem releaseUnits_regs (s : State) (us : List Nat) : (releaseUnits s us).regs = s.regs := by
  exact foldl_same State.regs _ _ _ (fun _ _ => by simp)
@[simp] theorem releaseUnits_eeprom (s : State) (us : List Nat) : (releaseUnits s us).eeprom = s.eeprom := by
  exact foldl_same State.eeprom _ _ _ (fun _ _ => by simp)
@[simp] theorem releaseUnits_dict (s : State) (us : List Nat) : (releaseUnits s us).dict = s.dict := by
  exact foldl_same State.dict _ _ _ (fun _ _ => by simp)
@[simp] theorem releaseUnits_hem (s : State) (us : List Nat) : (releaseUnits s us).hem = s.hem := by
  exact foldl_same State.hem _ _ _ (fun _ _ => by simp)
@[simp] theorem releaseUnits_queues (s : State) (us : List Nat) : (releaseUnits s us).queues = s.queues := by
  exact foldl_same State.queues _ _ _ (fun _ _ => by simp)
@[simp] theorem releaseUnits_jobs (s : State) (us : List Nat) : (releaseUnits s us).jobs = s.jobs := by
  exact foldl_same State.jobs _ _ _ (fun _ _ => by simp)
@[simp] theorem releaseUnits_jobNext (s : State) (us : List Nat) : (releaseUnits s us).jobNext = s.jobNext := by
  exact foldl_same State.jobNext _ _ _ (fun _ _ => by simp)
@[simp] theorem releaseUnits_ctxs (s : State) (us : List Nat) : (releaseUnits s us).ctxs = s.ctxs := by
  exact foldl_same State.ctxs _ _ _ (fun _ _ => by simp)
@[simp] theorem releaseUnits_models (s : State) (us : List Nat) : (releaseUnits s us).models = s.models := by
  exact foldl_same State.models _ _ _ (fun _ _ => by simp)
@[simp] theorem releaseUnits_vocabs (s : State) (us : List Nat) : (releaseUnits s us).vocabs = s.vocabs := by
  exact foldl_same State.vocabs _ _ _ (fun _ _ => by simp)
@[simp] theorem releaseUnits_indexes (s : State) (us : List Nat) : (releaseUnits s us).indexes = s.indexes := by
  exact foldl_same State.indexes _ _ _ (fun _ _ => by simp)
@[simp] theorem releaseUnits_copies (s : State) (us : List Nat) : (releaseUnits s us).copies = s.copies := by
  exact foldl_same State.copies _ _ _ (fun _ _ => by simp)
@[simp] theorem releaseUnits_queries (s : State) (us : List Nat) : (releaseUnits s us).queries = s.queries := by
  exact foldl_same State.queries _ _ _ (fun _ _ => by simp)
@[simp] theorem releaseUnits_spans (s : State) (us : List Nat) : (releaseUnits s us).spans = s.spans := by
  exact foldl_same State.spans _ _ _ (fun _ _ => by simp)
@[simp] theorem releaseUnits_belt (s : State) (us : List Nat) : (releaseUnits s us).belt = s.belt := by
  exact foldl_same State.belt _ _ _ (fun _ _ => by simp)
@[simp] theorem releaseUnits_kv (s : State) (us : List Nat) : (releaseUnits s us).kv = s.kv := by
  exact foldl_same State.kv _ _ _ (fun _ _ => by simp)
@[simp] theorem releaseUnits_gens (s : State) (us : List Nat) : (releaseUnits s us).gens = s.gens := by
  exact foldl_same State.gens _ _ _ (fun _ _ => by simp)
@[simp] theorem releaseUnits_grammars (s : State) (us : List Nat) : (releaseUnits s us).grammars = s.grammars := by
  exact foldl_same State.grammars _ _ _ (fun _ _ => by simp)
@[simp] theorem releaseUnits_pocket (s : State) (us : List Nat) : (releaseUnits s us).pocket = s.pocket := by
  exact foldl_same State.pocket _ _ _ (fun _ _ => by simp)
@[simp] theorem releaseUnits_acc (s : State) (us : List Nat) : (releaseUnits s us).acc = s.acc := by
  exact foldl_same State.acc _ _ _ (fun _ _ => by simp)
@[simp] theorem releaseUnits_array (s : State) (us : List Nat) : (releaseUnits s us).array = s.array := by
  exact foldl_same State.array _ _ _ (fun _ _ => by simp)
@[simp] theorem releaseUnits_aedup (s : State) (us : List Nat) : (releaseUnits s us).aedup = s.aedup := by
  exact foldl_same State.aedup _ _ _ (fun _ _ => by simp)
@[simp] theorem releaseUnits_pelgan (s : State) (us : List Nat) : (releaseUnits s us).pelgan = s.pelgan := by
  exact foldl_same State.pelgan _ _ _ (fun _ _ => by simp)
@[simp] theorem releaseUnits_chip (s : State) (us : List Nat) : (releaseUnits s us).chip = s.chip := by
  exact foldl_same State.chip _ _ _ (fun _ _ => by simp)
@[simp] theorem releaseUnits_sec (s : State) (us : List Nat) : (releaseUnits s us).sec = s.sec := by
  exact foldl_same State.sec _ _ _ (fun _ _ => by simp)
@[simp] theorem releaseUnits_power (s : State) (us : List Nat) : (releaseUnits s us).power = s.power := by
  exact foldl_same State.power _ _ _ (fun _ _ => by simp)
@[simp] theorem releaseUnits_test (s : State) (us : List Nat) : (releaseUnits s us).test = s.test := by
  exact foldl_same State.test _ _ _ (fun _ _ => by simp)
@[simp] theorem releaseUnits_perf (s : State) (us : List Nat) : (releaseUnits s us).perf = s.perf := by
  exact foldl_same State.perf _ _ _ (fun _ _ => by simp)
@[simp] theorem releaseUnits_log (s : State) (us : List Nat) : (releaseUnits s us).log = s.log := by
  exact foldl_same State.log _ _ _ (fun _ _ => by simp)
@[simp] theorem releaseUnits_out (s : State) (us : List Nat) : (releaseUnits s us).out = s.out := by
  exact foldl_same State.out _ _ _ (fun _ _ => by simp)
@[simp] theorem releaseUnits_freeCount (s : State) (us : List Nat) : (releaseUnits s us).freeCount = s.freeCount := by
  exact foldl_same State.freeCount _ _ _ (fun _ _ => by simp)

/-! ### `reportPages` -/

@[simp] theorem reportPages_pending (s : State) : (reportPages s).pending = s.pending := by
  unfold reportPages; first | rfl | ((try dsimp only); (repeat' split) <;> simp)
@[simp] theorem reportPages_start (s : State) : (reportPages s).start = s.start := by
  unfold reportPages; first | rfl | ((try dsimp only); (repeat' split) <;> simp)
@[simp] theorem reportPages_fatal (s : State) : (reportPages s).fatal = s.fatal := by
  unfold reportPages; first | rfl | ((try dsimp only); (repeat' split) <;> simp)
@[simp] theorem reportPages_alerts (s : State) : (reportPages s).alerts = s.alerts := by
  unfold reportPages; first | rfl | ((try dsimp only); (repeat' split) <;> simp)
@[simp] theorem reportPages_eeprom (s : State) : (reportPages s).eeprom = s.eeprom := by
  unfold reportPages; first | rfl | ((try dsimp only); (repeat' split) <;> simp)
@[simp] theorem reportPages_dict (s : State) : (reportPages s).dict = s.dict := by
  unfold reportPages; first | rfl | ((try dsimp only); (repeat' split) <;> simp)
@[simp] theorem reportPages_hem (s : State) : (reportPages s).hem = s.hem := by
  unfold reportPages; first | rfl | ((try dsimp only); (repeat' split) <;> simp)
@[simp] theorem reportPages_queues (s : State) : (reportPages s).queues = s.queues := by
  unfold reportPages; first | rfl | ((try dsimp only); (repeat' split) <;> simp)
@[simp] theorem reportPages_jobs (s : State) : (reportPages s).jobs = s.jobs := by
  unfold reportPages; first | rfl | ((try dsimp only); (repeat' split) <;> simp)
@[simp] theorem reportPages_jobNext (s : State) : (reportPages s).jobNext = s.jobNext := by
  unfold reportPages; first | rfl | ((try dsimp only); (repeat' split) <;> simp)
@[simp] theorem reportPages_ctxs (s : State) : (reportPages s).ctxs = s.ctxs := by
  unfold reportPages; first | rfl | ((try dsimp only); (repeat' split) <;> simp)
@[simp] theorem reportPages_models (s : State) : (reportPages s).models = s.models := by
  unfold reportPages; first | rfl | ((try dsimp only); (repeat' split) <;> simp)
@[simp] theorem reportPages_vocabs (s : State) : (reportPages s).vocabs = s.vocabs := by
  unfold reportPages; first | rfl | ((try dsimp only); (repeat' split) <;> simp)
@[simp] theorem reportPages_indexes (s : State) : (reportPages s).indexes = s.indexes := by
  unfold reportPages; first | rfl | ((try dsimp only); (repeat' split) <;> simp)
@[simp] theorem reportPages_copies (s : State) : (reportPages s).copies = s.copies := by
  unfold reportPages; first | rfl | ((try dsimp only); (repeat' split) <;> simp)
@[simp] theorem reportPages_queries (s : State) : (reportPages s).queries = s.queries := by
  unfold reportPages; first | rfl | ((try dsimp only); (repeat' split) <;> simp)
@[simp] theorem reportPages_spans (s : State) : (reportPages s).spans = s.spans := by
  unfold reportPages; first | rfl | ((try dsimp only); (repeat' split) <;> simp)
@[simp] theorem reportPages_belt (s : State) : (reportPages s).belt = s.belt := by
  unfold reportPages; first | rfl | ((try dsimp only); (repeat' split) <;> simp)
@[simp] theorem reportPages_kv (s : State) : (reportPages s).kv = s.kv := by
  unfold reportPages; first | rfl | ((try dsimp only); (repeat' split) <;> simp)
@[simp] theorem reportPages_gens (s : State) : (reportPages s).gens = s.gens := by
  unfold reportPages; first | rfl | ((try dsimp only); (repeat' split) <;> simp)
@[simp] theorem reportPages_grammars (s : State) : (reportPages s).grammars = s.grammars := by
  unfold reportPages; first | rfl | ((try dsimp only); (repeat' split) <;> simp)
@[simp] theorem reportPages_pocket (s : State) : (reportPages s).pocket = s.pocket := by
  unfold reportPages; first | rfl | ((try dsimp only); (repeat' split) <;> simp)
@[simp] theorem reportPages_acc (s : State) : (reportPages s).acc = s.acc := by
  unfold reportPages; first | rfl | ((try dsimp only); (repeat' split) <;> simp)
@[simp] theorem reportPages_array (s : State) : (reportPages s).array = s.array := by
  unfold reportPages; first | rfl | ((try dsimp only); (repeat' split) <;> simp)
@[simp] theorem reportPages_mem (s : State) : (reportPages s).mem = s.mem := by
  unfold reportPages; first | rfl | ((try dsimp only); (repeat' split) <;> simp)
@[simp] theorem reportPages_aedup (s : State) : (reportPages s).aedup = s.aedup := by
  unfold reportPages; first | rfl | ((try dsimp only); (repeat' split) <;> simp)
@[simp] theorem reportPages_pelgan (s : State) : (reportPages s).pelgan = s.pelgan := by
  unfold reportPages; first | rfl | ((try dsimp only); (repeat' split) <;> simp)
@[simp] theorem reportPages_chip (s : State) : (reportPages s).chip = s.chip := by
  unfold reportPages; first | rfl | ((try dsimp only); (repeat' split) <;> simp)
@[simp] theorem reportPages_sec (s : State) : (reportPages s).sec = s.sec := by
  unfold reportPages; first | rfl | ((try dsimp only); (repeat' split) <;> simp)
@[simp] theorem reportPages_power (s : State) : (reportPages s).power = s.power := by
  unfold reportPages; first | rfl | ((try dsimp only); (repeat' split) <;> simp)
@[simp] theorem reportPages_test (s : State) : (reportPages s).test = s.test := by
  unfold reportPages; first | rfl | ((try dsimp only); (repeat' split) <;> simp)
@[simp] theorem reportPages_perf (s : State) : (reportPages s).perf = s.perf := by
  unfold reportPages; first | rfl | ((try dsimp only); (repeat' split) <;> simp)
@[simp] theorem reportPages_log (s : State) : (reportPages s).log = s.log := by
  unfold reportPages; first | rfl | ((try dsimp only); (repeat' split) <;> simp)
@[simp] theorem reportPages_out (s : State) : (reportPages s).out = s.out := by
  unfold reportPages; first | rfl | ((try dsimp only); (repeat' split) <;> simp)
@[simp] theorem reportPages_freeCount (s : State) : (reportPages s).freeCount = s.freeCount := by
  unfold reportPages; first | rfl | ((try dsimp only); (repeat' split) <;> simp)

/-! ### `dropPages` -/

@[simp] theorem dropPages_pending (s : State) (c : Nat) : (dropPages s c).pending = s.pending := by
  unfold dropPages; first | rfl | ((try dsimp only); (repeat' split) <;> simp)
@[simp] theorem dropPages_start (s : State) (c : Nat) : (dropPages s c).start = s.start := by
  unfold dropPages; first | rfl | ((try dsimp only); (repeat' split) <;> simp)
@[simp] theorem dropPages_fatal (s : State) (c : Nat) : (dropPages s c).fatal = s.fatal := by
  unfold dropPages; first | rfl | ((try dsimp only); (repeat' split) <;> simp)
@[simp] theorem dropPages_alerts (s : State) (c : Nat) : (dropPages s c).alerts = s.alerts := by
  unfold dropPages; first | rfl | ((try dsimp only); (repeat' split) <;> simp)
@[simp] theorem dropPages_eeprom (s : State) (c : Nat) : (dropPages s c).eeprom = s.eeprom := by
  unfold dropPages; first | rfl | ((try dsimp only); (repeat' split) <;> simp)
@[simp] theorem dropPages_dict (s : State) (c : Nat) : (dropPages s c).dict = s.dict := by
  unfold dropPages; first | rfl | ((try dsimp only); (repeat' split) <;> simp)
@[simp] theorem dropPages_hem (s : State) (c : Nat) : (dropPages s c).hem = s.hem := by
  unfold dropPages; first | rfl | ((try dsimp only); (repeat' split) <;> simp)
@[simp] theorem dropPages_queues (s : State) (c : Nat) : (dropPages s c).queues = s.queues := by
  unfold dropPages; first | rfl | ((try dsimp only); (repeat' split) <;> simp)
@[simp] theorem dropPages_jobs (s : State) (c : Nat) : (dropPages s c).jobs = s.jobs := by
  unfold dropPages; first | rfl | ((try dsimp only); (repeat' split) <;> simp)
@[simp] theorem dropPages_jobNext (s : State) (c : Nat) : (dropPages s c).jobNext = s.jobNext := by
  unfold dropPages; first | rfl | ((try dsimp only); (repeat' split) <;> simp)
@[simp] theorem dropPages_ctxs (s : State) (c : Nat) : (dropPages s c).ctxs = s.ctxs := by
  unfold dropPages; first | rfl | ((try dsimp only); (repeat' split) <;> simp)
@[simp] theorem dropPages_models (s : State) (c : Nat) : (dropPages s c).models = s.models := by
  unfold dropPages; first | rfl | ((try dsimp only); (repeat' split) <;> simp)
@[simp] theorem dropPages_vocabs (s : State) (c : Nat) : (dropPages s c).vocabs = s.vocabs := by
  unfold dropPages; first | rfl | ((try dsimp only); (repeat' split) <;> simp)
@[simp] theorem dropPages_indexes (s : State) (c : Nat) : (dropPages s c).indexes = s.indexes := by
  unfold dropPages; first | rfl | ((try dsimp only); (repeat' split) <;> simp)
@[simp] theorem dropPages_copies (s : State) (c : Nat) : (dropPages s c).copies = s.copies := by
  unfold dropPages; first | rfl | ((try dsimp only); (repeat' split) <;> simp)
@[simp] theorem dropPages_queries (s : State) (c : Nat) : (dropPages s c).queries = s.queries := by
  unfold dropPages; first | rfl | ((try dsimp only); (repeat' split) <;> simp)
@[simp] theorem dropPages_spans (s : State) (c : Nat) : (dropPages s c).spans = s.spans := by
  unfold dropPages; first | rfl | ((try dsimp only); (repeat' split) <;> simp)
@[simp] theorem dropPages_belt (s : State) (c : Nat) : (dropPages s c).belt = s.belt := by
  unfold dropPages; first | rfl | ((try dsimp only); (repeat' split) <;> simp)
@[simp] theorem dropPages_gens (s : State) (c : Nat) : (dropPages s c).gens = s.gens := by
  unfold dropPages; first | rfl | ((try dsimp only); (repeat' split) <;> simp)
@[simp] theorem dropPages_grammars (s : State) (c : Nat) : (dropPages s c).grammars = s.grammars := by
  unfold dropPages; first | rfl | ((try dsimp only); (repeat' split) <;> simp)
@[simp] theorem dropPages_pocket (s : State) (c : Nat) : (dropPages s c).pocket = s.pocket := by
  unfold dropPages; first | rfl | ((try dsimp only); (repeat' split) <;> simp)
@[simp] theorem dropPages_acc (s : State) (c : Nat) : (dropPages s c).acc = s.acc := by
  unfold dropPages; first | rfl | ((try dsimp only); (repeat' split) <;> simp)
@[simp] theorem dropPages_array (s : State) (c : Nat) : (dropPages s c).array = s.array := by
  unfold dropPages; first | rfl | ((try dsimp only); (repeat' split) <;> simp)
@[simp] theorem dropPages_mem (s : State) (c : Nat) : (dropPages s c).mem = s.mem := by
  unfold dropPages; first | rfl | ((try dsimp only); (repeat' split) <;> simp)
@[simp] theorem dropPages_aedup (s : State) (c : Nat) : (dropPages s c).aedup = s.aedup := by
  unfold dropPages; first | rfl | ((try dsimp only); (repeat' split) <;> simp)
@[simp] theorem dropPages_pelgan (s : State) (c : Nat) : (dropPages s c).pelgan = s.pelgan := by
  unfold dropPages; first | rfl | ((try dsimp only); (repeat' split) <;> simp)
@[simp] theorem dropPages_chip (s : State) (c : Nat) : (dropPages s c).chip = s.chip := by
  unfold dropPages; first | rfl | ((try dsimp only); (repeat' split) <;> simp)
@[simp] theorem dropPages_sec (s : State) (c : Nat) : (dropPages s c).sec = s.sec := by
  unfold dropPages; first | rfl | ((try dsimp only); (repeat' split) <;> simp)
@[simp] theorem dropPages_power (s : State) (c : Nat) : (dropPages s c).power = s.power := by
  unfold dropPages; first | rfl | ((try dsimp only); (repeat' split) <;> simp)
@[simp] theorem dropPages_test (s : State) (c : Nat) : (dropPages s c).test = s.test := by
  unfold dropPages; first | rfl | ((try dsimp only); (repeat' split) <;> simp)
@[simp] theorem dropPages_perf (s : State) (c : Nat) : (dropPages s c).perf = s.perf := by
  unfold dropPages; first | rfl | ((try dsimp only); (repeat' split) <;> simp)
@[simp] theorem dropPages_log (s : State) (c : Nat) : (dropPages s c).log = s.log := by
  unfold dropPages; first | rfl | ((try dsimp only); (repeat' split) <;> simp)
@[simp] theorem dropPages_out (s : State) (c : Nat) : (dropPages s c).out = s.out := by
  unfold dropPages; first | rfl | ((try dsimp only); (repeat' split) <;> simp)
@[simp] theorem dropPages_freeCount (s : State) (c : Nat) : (dropPages s c).freeCount = s.freeCount := by
  unfold dropPages; first | rfl | ((try dsimp only); (repeat' split) <;> simp)

/-! ### `capBuckets` -/

@[simp] theorem capBuckets_pending (s : State) : (capBuckets s).pending = s.pending := by
  unfold capBuckets; first | rfl | ((try dsimp only); (repeat' split) <;> simp)
@[simp] theorem capBuckets_start (s : State) : (capBuckets s).start = s.start := by
  unfold capBuckets; first | rfl | ((try dsimp only); (repeat' split) <;> simp)
@[simp] theorem capBuckets_fatal (s : State) : (capBuckets s).fatal = s.fatal := by
  unfold capBuckets; first | rfl | ((try dsimp only); (repeat' split) <;> simp)
@[simp] theorem capBuckets_alerts (s : State) : (capBuckets s).alerts = s.alerts := by
  unfold capBuckets; first | rfl | ((try dsimp only); (repeat' split) <;> simp)
@[simp] theorem capBuckets_regs (s : State) : (capBuckets s).regs = s.regs := by
  unfold capBuckets; first | rfl | ((try dsimp only); (repeat' split) <;> simp)
@[simp] theorem capBuckets_eeprom (s : State) : (capBuckets s).eeprom = s.eeprom := by
  unfold capBuckets; first | rfl | ((try dsimp only); (repeat' split) <;> simp)
@[simp] theorem capBuckets_dict (s : State) : (capBuckets s).dict = s.dict := by
  unfold capBuckets; first | rfl | ((try dsimp only); (repeat' split) <;> simp)
@[simp] theorem capBuckets_hem (s : State) : (capBuckets s).hem = s.hem := by
  unfold capBuckets; first | rfl | ((try dsimp only); (repeat' split) <;> simp)
@[simp] theorem capBuckets_queues (s : State) : (capBuckets s).queues = s.queues := by
  unfold capBuckets; first | rfl | ((try dsimp only); (repeat' split) <;> simp)
@[simp] theorem capBuckets_jobs (s : State) : (capBuckets s).jobs = s.jobs := by
  unfold capBuckets; first | rfl | ((try dsimp only); (repeat' split) <;> simp)
@[simp] theorem capBuckets_jobNext (s : State) : (capBuckets s).jobNext = s.jobNext := by
  unfold capBuckets; first | rfl | ((try dsimp only); (repeat' split) <;> simp)
@[simp] theorem capBuckets_ctxs (s : State) : (capBuckets s).ctxs = s.ctxs := by
  unfold capBuckets; first | rfl | ((try dsimp only); (repeat' split) <;> simp)
@[simp] theorem capBuckets_models (s : State) : (capBuckets s).models = s.models := by
  unfold capBuckets; first | rfl | ((try dsimp only); (repeat' split) <;> simp)
@[simp] theorem capBuckets_vocabs (s : State) : (capBuckets s).vocabs = s.vocabs := by
  unfold capBuckets; first | rfl | ((try dsimp only); (repeat' split) <;> simp)
@[simp] theorem capBuckets_indexes (s : State) : (capBuckets s).indexes = s.indexes := by
  unfold capBuckets; first | rfl | ((try dsimp only); (repeat' split) <;> simp)
@[simp] theorem capBuckets_copies (s : State) : (capBuckets s).copies = s.copies := by
  unfold capBuckets; first | rfl | ((try dsimp only); (repeat' split) <;> simp)
@[simp] theorem capBuckets_queries (s : State) : (capBuckets s).queries = s.queries := by
  unfold capBuckets; first | rfl | ((try dsimp only); (repeat' split) <;> simp)
@[simp] theorem capBuckets_spans (s : State) : (capBuckets s).spans = s.spans := by
  unfold capBuckets; first | rfl | ((try dsimp only); (repeat' split) <;> simp)
@[simp] theorem capBuckets_belt (s : State) : (capBuckets s).belt = s.belt := by
  unfold capBuckets; first | rfl | ((try dsimp only); (repeat' split) <;> simp)
@[simp] theorem capBuckets_kv (s : State) : (capBuckets s).kv = s.kv := by
  unfold capBuckets; first | rfl | ((try dsimp only); (repeat' split) <;> simp)
@[simp] theorem capBuckets_gens (s : State) : (capBuckets s).gens = s.gens := by
  unfold capBuckets; first | rfl | ((try dsimp only); (repeat' split) <;> simp)
@[simp] theorem capBuckets_grammars (s : State) : (capBuckets s).grammars = s.grammars := by
  unfold capBuckets; first | rfl | ((try dsimp only); (repeat' split) <;> simp)
@[simp] theorem capBuckets_pocket (s : State) : (capBuckets s).pocket = s.pocket := by
  unfold capBuckets; first | rfl | ((try dsimp only); (repeat' split) <;> simp)
@[simp] theorem capBuckets_acc (s : State) : (capBuckets s).acc = s.acc := by
  unfold capBuckets; first | rfl | ((try dsimp only); (repeat' split) <;> simp)
@[simp] theorem capBuckets_array (s : State) : (capBuckets s).array = s.array := by
  unfold capBuckets; first | rfl | ((try dsimp only); (repeat' split) <;> simp)
@[simp] theorem capBuckets_mem (s : State) : (capBuckets s).mem = s.mem := by
  unfold capBuckets; first | rfl | ((try dsimp only); (repeat' split) <;> simp)
@[simp] theorem capBuckets_aedup (s : State) : (capBuckets s).aedup = s.aedup := by
  unfold capBuckets; first | rfl | ((try dsimp only); (repeat' split) <;> simp)
@[simp] theorem capBuckets_pelgan (s : State) : (capBuckets s).pelgan = s.pelgan := by
  unfold capBuckets; first | rfl | ((try dsimp only); (repeat' split) <;> simp)
@[simp] theorem capBuckets_chip (s : State) : (capBuckets s).chip = s.chip := by
  unfold capBuckets; first | rfl | ((try dsimp only); (repeat' split) <;> simp)
@[simp] theorem capBuckets_sec (s : State) : (capBuckets s).sec = s.sec := by
  unfold capBuckets; first | rfl | ((try dsimp only); (repeat' split) <;> simp)
@[simp] theorem capBuckets_test (s : State) : (capBuckets s).test = s.test := by
  unfold capBuckets; first | rfl | ((try dsimp only); (repeat' split) <;> simp)
@[simp] theorem capBuckets_perf (s : State) : (capBuckets s).perf = s.perf := by
  unfold capBuckets; first | rfl | ((try dsimp only); (repeat' split) <;> simp)
@[simp] theorem capBuckets_log (s : State) : (capBuckets s).log = s.log := by
  unfold capBuckets; first | rfl | ((try dsimp only); (repeat' split) <;> simp)
@[simp] theorem capBuckets_out (s : State) : (capBuckets s).out = s.out := by
  unfold capBuckets; first | rfl | ((try dsimp only); (repeat' split) <;> simp)
@[simp] theorem capBuckets_freeCount (s : State) : (capBuckets s).freeCount = s.freeCount := by
  unfold capBuckets; first | rfl | ((try dsimp only); (repeat' split) <;> simp)

/-! ### `refill` -/

@[simp] theorem refill_pending (s : State) (n : Nat) : (refill s n).pending = s.pending := by
  unfold refill; first | rfl | ((try dsimp only); (repeat' split) <;> simp)
@[simp] theorem refill_start (s : State) (n : Nat) : (refill s n).start = s.start := by
  unfold refill; first | rfl | ((try dsimp only); (repeat' split) <;> simp)
@[simp] theorem refill_fatal (s : State) (n : Nat) : (refill s n).fatal = s.fatal := by
  unfold refill; first | rfl | ((try dsimp only); (repeat' split) <;> simp)
@[simp] theorem refill_alerts (s : State) (n : Nat) : (refill s n).alerts = s.alerts := by
  unfold refill; first | rfl | ((try dsimp only); (repeat' split) <;> simp)
@[simp] theorem refill_regs (s : State) (n : Nat) : (refill s n).regs = s.regs := by
  unfold refill; first | rfl | ((try dsimp only); (repeat' split) <;> simp)
@[simp] theorem refill_eeprom (s : State) (n : Nat) : (refill s n).eeprom = s.eeprom := by
  unfold refill; first | rfl | ((try dsimp only); (repeat' split) <;> simp)
@[simp] theorem refill_dict (s : State) (n : Nat) : (refill s n).dict = s.dict := by
  unfold refill; first | rfl | ((try dsimp only); (repeat' split) <;> simp)
@[simp] theorem refill_hem (s : State) (n : Nat) : (refill s n).hem = s.hem := by
  unfold refill; first | rfl | ((try dsimp only); (repeat' split) <;> simp)
@[simp] theorem refill_queues (s : State) (n : Nat) : (refill s n).queues = s.queues := by
  unfold refill; first | rfl | ((try dsimp only); (repeat' split) <;> simp)
@[simp] theorem refill_jobs (s : State) (n : Nat) : (refill s n).jobs = s.jobs := by
  unfold refill; first | rfl | ((try dsimp only); (repeat' split) <;> simp)
@[simp] theorem refill_jobNext (s : State) (n : Nat) : (refill s n).jobNext = s.jobNext := by
  unfold refill; first | rfl | ((try dsimp only); (repeat' split) <;> simp)
@[simp] theorem refill_ctxs (s : State) (n : Nat) : (refill s n).ctxs = s.ctxs := by
  unfold refill; first | rfl | ((try dsimp only); (repeat' split) <;> simp)
@[simp] theorem refill_models (s : State) (n : Nat) : (refill s n).models = s.models := by
  unfold refill; first | rfl | ((try dsimp only); (repeat' split) <;> simp)
@[simp] theorem refill_vocabs (s : State) (n : Nat) : (refill s n).vocabs = s.vocabs := by
  unfold refill; first | rfl | ((try dsimp only); (repeat' split) <;> simp)
@[simp] theorem refill_indexes (s : State) (n : Nat) : (refill s n).indexes = s.indexes := by
  unfold refill; first | rfl | ((try dsimp only); (repeat' split) <;> simp)
@[simp] theorem refill_copies (s : State) (n : Nat) : (refill s n).copies = s.copies := by
  unfold refill; first | rfl | ((try dsimp only); (repeat' split) <;> simp)
@[simp] theorem refill_queries (s : State) (n : Nat) : (refill s n).queries = s.queries := by
  unfold refill; first | rfl | ((try dsimp only); (repeat' split) <;> simp)
@[simp] theorem refill_spans (s : State) (n : Nat) : (refill s n).spans = s.spans := by
  unfold refill; first | rfl | ((try dsimp only); (repeat' split) <;> simp)
@[simp] theorem refill_belt (s : State) (n : Nat) : (refill s n).belt = s.belt := by
  unfold refill; first | rfl | ((try dsimp only); (repeat' split) <;> simp)
@[simp] theorem refill_kv (s : State) (n : Nat) : (refill s n).kv = s.kv := by
  unfold refill; first | rfl | ((try dsimp only); (repeat' split) <;> simp)
@[simp] theorem refill_gens (s : State) (n : Nat) : (refill s n).gens = s.gens := by
  unfold refill; first | rfl | ((try dsimp only); (repeat' split) <;> simp)
@[simp] theorem refill_grammars (s : State) (n : Nat) : (refill s n).grammars = s.grammars := by
  unfold refill; first | rfl | ((try dsimp only); (repeat' split) <;> simp)
@[simp] theorem refill_pocket (s : State) (n : Nat) : (refill s n).pocket = s.pocket := by
  unfold refill; first | rfl | ((try dsimp only); (repeat' split) <;> simp)
@[simp] theorem refill_acc (s : State) (n : Nat) : (refill s n).acc = s.acc := by
  unfold refill; first | rfl | ((try dsimp only); (repeat' split) <;> simp)
@[simp] theorem refill_array (s : State) (n : Nat) : (refill s n).array = s.array := by
  unfold refill; first | rfl | ((try dsimp only); (repeat' split) <;> simp)
@[simp] theorem refill_mem (s : State) (n : Nat) : (refill s n).mem = s.mem := by
  unfold refill; first | rfl | ((try dsimp only); (repeat' split) <;> simp)
@[simp] theorem refill_aedup (s : State) (n : Nat) : (refill s n).aedup = s.aedup := by
  unfold refill; first | rfl | ((try dsimp only); (repeat' split) <;> simp)
@[simp] theorem refill_pelgan (s : State) (n : Nat) : (refill s n).pelgan = s.pelgan := by
  unfold refill; first | rfl | ((try dsimp only); (repeat' split) <;> simp)
@[simp] theorem refill_chip (s : State) (n : Nat) : (refill s n).chip = s.chip := by
  unfold refill; first | rfl | ((try dsimp only); (repeat' split) <;> simp)
@[simp] theorem refill_sec (s : State) (n : Nat) : (refill s n).sec = s.sec := by
  unfold refill; first | rfl | ((try dsimp only); (repeat' split) <;> simp)
@[simp] theorem refill_test (s : State) (n : Nat) : (refill s n).test = s.test := by
  unfold refill; first | rfl | ((try dsimp only); (repeat' split) <;> simp)
@[simp] theorem refill_perf (s : State) (n : Nat) : (refill s n).perf = s.perf := by
  unfold refill; first | rfl | ((try dsimp only); (repeat' split) <;> simp)
@[simp] theorem refill_log (s : State) (n : Nat) : (refill s n).log = s.log := by
  unfold refill; first | rfl | ((try dsimp only); (repeat' split) <;> simp)
@[simp] theorem refill_out (s : State) (n : Nat) : (refill s n).out = s.out := by
  unfold refill; first | rfl | ((try dsimp only); (repeat' split) <;> simp)
@[simp] theorem refill_freeCount (s : State) (n : Nat) : (refill s n).freeCount = s.freeCount := by
  unfold refill; first | rfl | ((try dsimp only); (repeat' split) <;> simp)

/-! ### `showEstimate` -/

@[simp] theorem showEstimate_pending (s : State) : (showEstimate s).pending = s.pending := by
  unfold showEstimate; first | rfl | ((try dsimp only); (repeat' split) <;> simp)
@[simp] theorem showEstimate_start (s : State) : (showEstimate s).start = s.start := by
  unfold showEstimate; first | rfl | ((try dsimp only); (repeat' split) <;> simp)
@[simp] theorem showEstimate_fatal (s : State) : (showEstimate s).fatal = s.fatal := by
  unfold showEstimate; first | rfl | ((try dsimp only); (repeat' split) <;> simp)
@[simp] theorem showEstimate_alerts (s : State) : (showEstimate s).alerts = s.alerts := by
  unfold showEstimate; first | rfl | ((try dsimp only); (repeat' split) <;> simp)
@[simp] theorem showEstimate_eeprom (s : State) : (showEstimate s).eeprom = s.eeprom := by
  unfold showEstimate; first | rfl | ((try dsimp only); (repeat' split) <;> simp)
@[simp] theorem showEstimate_dict (s : State) : (showEstimate s).dict = s.dict := by
  unfold showEstimate; first | rfl | ((try dsimp only); (repeat' split) <;> simp)
@[simp] theorem showEstimate_hem (s : State) : (showEstimate s).hem = s.hem := by
  unfold showEstimate; first | rfl | ((try dsimp only); (repeat' split) <;> simp)
@[simp] theorem showEstimate_queues (s : State) : (showEstimate s).queues = s.queues := by
  unfold showEstimate; first | rfl | ((try dsimp only); (repeat' split) <;> simp)
@[simp] theorem showEstimate_jobs (s : State) : (showEstimate s).jobs = s.jobs := by
  unfold showEstimate; first | rfl | ((try dsimp only); (repeat' split) <;> simp)
@[simp] theorem showEstimate_jobNext (s : State) : (showEstimate s).jobNext = s.jobNext := by
  unfold showEstimate; first | rfl | ((try dsimp only); (repeat' split) <;> simp)
@[simp] theorem showEstimate_ctxs (s : State) : (showEstimate s).ctxs = s.ctxs := by
  unfold showEstimate; first | rfl | ((try dsimp only); (repeat' split) <;> simp)
@[simp] theorem showEstimate_models (s : State) : (showEstimate s).models = s.models := by
  unfold showEstimate; first | rfl | ((try dsimp only); (repeat' split) <;> simp)
@[simp] theorem showEstimate_vocabs (s : State) : (showEstimate s).vocabs = s.vocabs := by
  unfold showEstimate; first | rfl | ((try dsimp only); (repeat' split) <;> simp)
@[simp] theorem showEstimate_indexes (s : State) : (showEstimate s).indexes = s.indexes := by
  unfold showEstimate; first | rfl | ((try dsimp only); (repeat' split) <;> simp)
@[simp] theorem showEstimate_copies (s : State) : (showEstimate s).copies = s.copies := by
  unfold showEstimate; first | rfl | ((try dsimp only); (repeat' split) <;> simp)
@[simp] theorem showEstimate_queries (s : State) : (showEstimate s).queries = s.queries := by
  unfold showEstimate; first | rfl | ((try dsimp only); (repeat' split) <;> simp)
@[simp] theorem showEstimate_spans (s : State) : (showEstimate s).spans = s.spans := by
  unfold showEstimate; first | rfl | ((try dsimp only); (repeat' split) <;> simp)
@[simp] theorem showEstimate_belt (s : State) : (showEstimate s).belt = s.belt := by
  unfold showEstimate; first | rfl | ((try dsimp only); (repeat' split) <;> simp)
@[simp] theorem showEstimate_kv (s : State) : (showEstimate s).kv = s.kv := by
  unfold showEstimate; first | rfl | ((try dsimp only); (repeat' split) <;> simp)
@[simp] theorem showEstimate_gens (s : State) : (showEstimate s).gens = s.gens := by
  unfold showEstimate; first | rfl | ((try dsimp only); (repeat' split) <;> simp)
@[simp] theorem showEstimate_grammars (s : State) : (showEstimate s).grammars = s.grammars := by
  unfold showEstimate; first | rfl | ((try dsimp only); (repeat' split) <;> simp)
@[simp] theorem showEstimate_pocket (s : State) : (showEstimate s).pocket = s.pocket := by
  unfold showEstimate; first | rfl | ((try dsimp only); (repeat' split) <;> simp)
@[simp] theorem showEstimate_acc (s : State) : (showEstimate s).acc = s.acc := by
  unfold showEstimate; first | rfl | ((try dsimp only); (repeat' split) <;> simp)
@[simp] theorem showEstimate_array (s : State) : (showEstimate s).array = s.array := by
  unfold showEstimate; first | rfl | ((try dsimp only); (repeat' split) <;> simp)
@[simp] theorem showEstimate_mem (s : State) : (showEstimate s).mem = s.mem := by
  unfold showEstimate; first | rfl | ((try dsimp only); (repeat' split) <;> simp)
@[simp] theorem showEstimate_aedup (s : State) : (showEstimate s).aedup = s.aedup := by
  unfold showEstimate; first | rfl | ((try dsimp only); (repeat' split) <;> simp)
@[simp] theorem showEstimate_pelgan (s : State) : (showEstimate s).pelgan = s.pelgan := by
  unfold showEstimate; first | rfl | ((try dsimp only); (repeat' split) <;> simp)
@[simp] theorem showEstimate_chip (s : State) : (showEstimate s).chip = s.chip := by
  unfold showEstimate; first | rfl | ((try dsimp only); (repeat' split) <;> simp)
@[simp] theorem showEstimate_sec (s : State) : (showEstimate s).sec = s.sec := by
  unfold showEstimate; first | rfl | ((try dsimp only); (repeat' split) <;> simp)
@[simp] theorem showEstimate_power (s : State) : (showEstimate s).power = s.power := by
  unfold showEstimate; first | rfl | ((try dsimp only); (repeat' split) <;> simp)
@[simp] theorem showEstimate_test (s : State) : (showEstimate s).test = s.test := by
  unfold showEstimate; first | rfl | ((try dsimp only); (repeat' split) <;> simp)
@[simp] theorem showEstimate_perf (s : State) : (showEstimate s).perf = s.perf := by
  unfold showEstimate; first | rfl | ((try dsimp only); (repeat' split) <;> simp)
@[simp] theorem showEstimate_log (s : State) : (showEstimate s).log = s.log := by
  unfold showEstimate; first | rfl | ((try dsimp only); (repeat' split) <;> simp)
@[simp] theorem showEstimate_out (s : State) : (showEstimate s).out = s.out := by
  unfold showEstimate; first | rfl | ((try dsimp only); (repeat' split) <;> simp)
@[simp] theorem showEstimate_freeCount (s : State) : (showEstimate s).freeCount = s.freeCount := by
  unfold showEstimate; first | rfl | ((try dsimp only); (repeat' split) <;> simp)

/-! ### `idleAll` -/

@[simp] theorem idleAll_pending (s : State) : (idleAll s).pending = s.pending := by
  unfold idleAll; first | rfl | ((try dsimp only); (repeat' split) <;> simp)
@[simp] theorem idleAll_start (s : State) : (idleAll s).start = s.start := by
  unfold idleAll; first | rfl | ((try dsimp only); (repeat' split) <;> simp)
@[simp] theorem idleAll_fatal (s : State) : (idleAll s).fatal = s.fatal := by
  unfold idleAll; first | rfl | ((try dsimp only); (repeat' split) <;> simp)
@[simp] theorem idleAll_alerts (s : State) : (idleAll s).alerts = s.alerts := by
  unfold idleAll; first | rfl | ((try dsimp only); (repeat' split) <;> simp)
@[simp] theorem idleAll_eeprom (s : State) : (idleAll s).eeprom = s.eeprom := by
  unfold idleAll; first | rfl | ((try dsimp only); (repeat' split) <;> simp)
@[simp] theorem idleAll_hem (s : State) : (idleAll s).hem = s.hem := by
  unfold idleAll; first | rfl | ((try dsimp only); (repeat' split) <;> simp)
@[simp] theorem idleAll_queues (s : State) : (idleAll s).queues = s.queues := by
  unfold idleAll; first | rfl | ((try dsimp only); (repeat' split) <;> simp)
@[simp] theorem idleAll_jobs (s : State) : (idleAll s).jobs = s.jobs := by
  unfold idleAll; first | rfl | ((try dsimp only); (repeat' split) <;> simp)
@[simp] theorem idleAll_jobNext (s : State) : (idleAll s).jobNext = s.jobNext := by
  unfold idleAll; first | rfl | ((try dsimp only); (repeat' split) <;> simp)
@[simp] theorem idleAll_ctxs (s : State) : (idleAll s).ctxs = s.ctxs := by
  unfold idleAll; first | rfl | ((try dsimp only); (repeat' split) <;> simp)
@[simp] theorem idleAll_models (s : State) : (idleAll s).models = s.models := by
  unfold idleAll; first | rfl | ((try dsimp only); (repeat' split) <;> simp)
@[simp] theorem idleAll_vocabs (s : State) : (idleAll s).vocabs = s.vocabs := by
  unfold idleAll; first | rfl | ((try dsimp only); (repeat' split) <;> simp)
@[simp] theorem idleAll_indexes (s : State) : (idleAll s).indexes = s.indexes := by
  unfold idleAll; first | rfl | ((try dsimp only); (repeat' split) <;> simp)
@[simp] theorem idleAll_copies (s : State) : (idleAll s).copies = s.copies := by
  unfold idleAll; first | rfl | ((try dsimp only); (repeat' split) <;> simp)
@[simp] theorem idleAll_queries (s : State) : (idleAll s).queries = s.queries := by
  unfold idleAll; first | rfl | ((try dsimp only); (repeat' split) <;> simp)
@[simp] theorem idleAll_spans (s : State) : (idleAll s).spans = s.spans := by
  unfold idleAll; first | rfl | ((try dsimp only); (repeat' split) <;> simp)
@[simp] theorem idleAll_belt (s : State) : (idleAll s).belt = s.belt := by
  unfold idleAll; first | rfl | ((try dsimp only); (repeat' split) <;> simp)
@[simp] theorem idleAll_kv (s : State) : (idleAll s).kv = s.kv := by
  unfold idleAll; first | rfl | ((try dsimp only); (repeat' split) <;> simp)
@[simp] theorem idleAll_gens (s : State) : (idleAll s).gens = s.gens := by
  unfold idleAll; first | rfl | ((try dsimp only); (repeat' split) <;> simp)
@[simp] theorem idleAll_grammars (s : State) : (idleAll s).grammars = s.grammars := by
  unfold idleAll; first | rfl | ((try dsimp only); (repeat' split) <;> simp)
@[simp] theorem idleAll_pocket (s : State) : (idleAll s).pocket = s.pocket := by
  unfold idleAll; first | rfl | ((try dsimp only); (repeat' split) <;> simp)
@[simp] theorem idleAll_acc (s : State) : (idleAll s).acc = s.acc := by
  unfold idleAll; first | rfl | ((try dsimp only); (repeat' split) <;> simp)
@[simp] theorem idleAll_array (s : State) : (idleAll s).array = s.array := by
  unfold idleAll; first | rfl | ((try dsimp only); (repeat' split) <;> simp)
@[simp] theorem idleAll_mem (s : State) : (idleAll s).mem = s.mem := by
  unfold idleAll; first | rfl | ((try dsimp only); (repeat' split) <;> simp)
@[simp] theorem idleAll_chip (s : State) : (idleAll s).chip = s.chip := by
  unfold idleAll; first | rfl | ((try dsimp only); (repeat' split) <;> simp)
@[simp] theorem idleAll_sec (s : State) : (idleAll s).sec = s.sec := by
  unfold idleAll; first | rfl | ((try dsimp only); (repeat' split) <;> simp)
@[simp] theorem idleAll_test (s : State) : (idleAll s).test = s.test := by
  unfold idleAll; first | rfl | ((try dsimp only); (repeat' split) <;> simp)
@[simp] theorem idleAll_log (s : State) : (idleAll s).log = s.log := by
  unfold idleAll; first | rfl | ((try dsimp only); (repeat' split) <;> simp)

/-! ### `selfRefreshAll` -/

@[simp] theorem selfRefreshAll_pending (s : State) (b : Bool) : (selfRefreshAll s b).pending = s.pending := by
  unfold selfRefreshAll; first | rfl | ((try dsimp only); (repeat' split) <;> simp)
@[simp] theorem selfRefreshAll_start (s : State) (b : Bool) : (selfRefreshAll s b).start = s.start := by
  unfold selfRefreshAll; first | rfl | ((try dsimp only); (repeat' split) <;> simp)
@[simp] theorem selfRefreshAll_fatal (s : State) (b : Bool) : (selfRefreshAll s b).fatal = s.fatal := by
  unfold selfRefreshAll; first | rfl | ((try dsimp only); (repeat' split) <;> simp)
@[simp] theorem selfRefreshAll_alerts (s : State) (b : Bool) : (selfRefreshAll s b).alerts = s.alerts := by
  unfold selfRefreshAll; first | rfl | ((try dsimp only); (repeat' split) <;> simp)
@[simp] theorem selfRefreshAll_regs (s : State) (b : Bool) : (selfRefreshAll s b).regs = s.regs := by
  unfold selfRefreshAll; first | rfl | ((try dsimp only); (repeat' split) <;> simp)
@[simp] theorem selfRefreshAll_eeprom (s : State) (b : Bool) : (selfRefreshAll s b).eeprom = s.eeprom := by
  unfold selfRefreshAll; first | rfl | ((try dsimp only); (repeat' split) <;> simp)
@[simp] theorem selfRefreshAll_dict (s : State) (b : Bool) : (selfRefreshAll s b).dict = s.dict := by
  unfold selfRefreshAll; first | rfl | ((try dsimp only); (repeat' split) <;> simp)
@[simp] theorem selfRefreshAll_hem (s : State) (b : Bool) : (selfRefreshAll s b).hem = s.hem := by
  unfold selfRefreshAll; first | rfl | ((try dsimp only); (repeat' split) <;> simp)
@[simp] theorem selfRefreshAll_queues (s : State) (b : Bool) : (selfRefreshAll s b).queues = s.queues := by
  unfold selfRefreshAll; first | rfl | ((try dsimp only); (repeat' split) <;> simp)
@[simp] theorem selfRefreshAll_jobs (s : State) (b : Bool) : (selfRefreshAll s b).jobs = s.jobs := by
  unfold selfRefreshAll; first | rfl | ((try dsimp only); (repeat' split) <;> simp)
@[simp] theorem selfRefreshAll_jobNext (s : State) (b : Bool) : (selfRefreshAll s b).jobNext = s.jobNext := by
  unfold selfRefreshAll; first | rfl | ((try dsimp only); (repeat' split) <;> simp)
@[simp] theorem selfRefreshAll_ctxs (s : State) (b : Bool) : (selfRefreshAll s b).ctxs = s.ctxs := by
  unfold selfRefreshAll; first | rfl | ((try dsimp only); (repeat' split) <;> simp)
@[simp] theorem selfRefreshAll_models (s : State) (b : Bool) : (selfRefreshAll s b).models = s.models := by
  unfold selfRefreshAll; first | rfl | ((try dsimp only); (repeat' split) <;> simp)
@[simp] theorem selfRefreshAll_vocabs (s : State) (b : Bool) : (selfRefreshAll s b).vocabs = s.vocabs := by
  unfold selfRefreshAll; first | rfl | ((try dsimp only); (repeat' split) <;> simp)
@[simp] theorem selfRefreshAll_indexes (s : State) (b : Bool) : (selfRefreshAll s b).indexes = s.indexes := by
  unfold selfRefreshAll; first | rfl | ((try dsimp only); (repeat' split) <;> simp)
@[simp] theorem selfRefreshAll_copies (s : State) (b : Bool) : (selfRefreshAll s b).copies = s.copies := by
  unfold selfRefreshAll; first | rfl | ((try dsimp only); (repeat' split) <;> simp)
@[simp] theorem selfRefreshAll_queries (s : State) (b : Bool) : (selfRefreshAll s b).queries = s.queries := by
  unfold selfRefreshAll; first | rfl | ((try dsimp only); (repeat' split) <;> simp)
@[simp] theorem selfRefreshAll_spans (s : State) (b : Bool) : (selfRefreshAll s b).spans = s.spans := by
  unfold selfRefreshAll; first | rfl | ((try dsimp only); (repeat' split) <;> simp)
@[simp] theorem selfRefreshAll_belt (s : State) (b : Bool) : (selfRefreshAll s b).belt = s.belt := by
  unfold selfRefreshAll; first | rfl | ((try dsimp only); (repeat' split) <;> simp)
@[simp] theorem selfRefreshAll_kv (s : State) (b : Bool) : (selfRefreshAll s b).kv = s.kv := by
  unfold selfRefreshAll; first | rfl | ((try dsimp only); (repeat' split) <;> simp)
@[simp] theorem selfRefreshAll_gens (s : State) (b : Bool) : (selfRefreshAll s b).gens = s.gens := by
  unfold selfRefreshAll; first | rfl | ((try dsimp only); (repeat' split) <;> simp)
@[simp] theorem selfRefreshAll_grammars (s : State) (b : Bool) : (selfRefreshAll s b).grammars = s.grammars := by
  unfold selfRefreshAll; first | rfl | ((try dsimp only); (repeat' split) <;> simp)
@[simp] theorem selfRefreshAll_pocket (s : State) (b : Bool) : (selfRefreshAll s b).pocket = s.pocket := by
  unfold selfRefreshAll; first | rfl | ((try dsimp only); (repeat' split) <;> simp)
@[simp] theorem selfRefreshAll_acc (s : State) (b : Bool) : (selfRefreshAll s b).acc = s.acc := by
  unfold selfRefreshAll; first | rfl | ((try dsimp only); (repeat' split) <;> simp)
@[simp] theorem selfRefreshAll_array (s : State) (b : Bool) : (selfRefreshAll s b).array = s.array := by
  unfold selfRefreshAll; first | rfl | ((try dsimp only); (repeat' split) <;> simp)
@[simp] theorem selfRefreshAll_aedup (s : State) (b : Bool) : (selfRefreshAll s b).aedup = s.aedup := by
  unfold selfRefreshAll; first | rfl | ((try dsimp only); (repeat' split) <;> simp)
@[simp] theorem selfRefreshAll_pelgan (s : State) (b : Bool) : (selfRefreshAll s b).pelgan = s.pelgan := by
  unfold selfRefreshAll; first | rfl | ((try dsimp only); (repeat' split) <;> simp)
@[simp] theorem selfRefreshAll_chip (s : State) (b : Bool) : (selfRefreshAll s b).chip = s.chip := by
  unfold selfRefreshAll; first | rfl | ((try dsimp only); (repeat' split) <;> simp)
@[simp] theorem selfRefreshAll_sec (s : State) (b : Bool) : (selfRefreshAll s b).sec = s.sec := by
  unfold selfRefreshAll; first | rfl | ((try dsimp only); (repeat' split) <;> simp)
@[simp] theorem selfRefreshAll_power (s : State) (b : Bool) : (selfRefreshAll s b).power = s.power := by
  unfold selfRefreshAll; first | rfl | ((try dsimp only); (repeat' split) <;> simp)
@[simp] theorem selfRefreshAll_test (s : State) (b : Bool) : (selfRefreshAll s b).test = s.test := by
  unfold selfRefreshAll; first | rfl | ((try dsimp only); (repeat' split) <;> simp)
@[simp] theorem selfRefreshAll_perf (s : State) (b : Bool) : (selfRefreshAll s b).perf = s.perf := by
  unfold selfRefreshAll; first | rfl | ((try dsimp only); (repeat' split) <;> simp)
@[simp] theorem selfRefreshAll_log (s : State) (b : Bool) : (selfRefreshAll s b).log = s.log := by
  unfold selfRefreshAll; first | rfl | ((try dsimp only); (repeat' split) <;> simp)
@[simp] theorem selfRefreshAll_out (s : State) (b : Bool) : (selfRefreshAll s b).out = s.out := by
  unfold selfRefreshAll; first | rfl | ((try dsimp only); (repeat' split) <;> simp)
@[simp] theorem selfRefreshAll_freeCount (s : State) (b : Bool) : (selfRefreshAll s b).freeCount = s.freeCount := by
  unfold selfRefreshAll; first | rfl | ((try dsimp only); (repeat' split) <;> simp)

/-! ### `loseRegion` -/

@[simp] theorem loseRegion_pending (s : State) (r : Nat) : (loseRegion s r).pending = s.pending := by
  unfold loseRegion; first | rfl | ((try dsimp only); (repeat' split) <;> simp)
@[simp] theorem loseRegion_start (s : State) (r : Nat) : (loseRegion s r).start = s.start := by
  unfold loseRegion; first | rfl | ((try dsimp only); (repeat' split) <;> simp)
@[simp] theorem loseRegion_fatal (s : State) (r : Nat) : (loseRegion s r).fatal = s.fatal := by
  unfold loseRegion; first | rfl | ((try dsimp only); (repeat' split) <;> simp)
@[simp] theorem loseRegion_alerts (s : State) (r : Nat) : (loseRegion s r).alerts = s.alerts := by
  unfold loseRegion; first | rfl | ((try dsimp only); (repeat' split) <;> simp)
@[simp] theorem loseRegion_regs (s : State) (r : Nat) : (loseRegion s r).regs = s.regs := by
  unfold loseRegion; first | rfl | ((try dsimp only); (repeat' split) <;> simp)
@[simp] theorem loseRegion_eeprom (s : State) (r : Nat) : (loseRegion s r).eeprom = s.eeprom := by
  unfold loseRegion; first | rfl | ((try dsimp only); (repeat' split) <;> simp)
@[simp] theorem loseRegion_dict (s : State) (r : Nat) : (loseRegion s r).dict = s.dict := by
  unfold loseRegion; first | rfl | ((try dsimp only); (repeat' split) <;> simp)
@[simp] theorem loseRegion_hem (s : State) (r : Nat) : (loseRegion s r).hem = s.hem := by
  unfold loseRegion; first | rfl | ((try dsimp only); (repeat' split) <;> simp)
@[simp] theorem loseRegion_queues (s : State) (r : Nat) : (loseRegion s r).queues = s.queues := by
  unfold loseRegion; first | rfl | ((try dsimp only); (repeat' split) <;> simp)
@[simp] theorem loseRegion_jobs (s : State) (r : Nat) : (loseRegion s r).jobs = s.jobs := by
  unfold loseRegion; first | rfl | ((try dsimp only); (repeat' split) <;> simp)
@[simp] theorem loseRegion_jobNext (s : State) (r : Nat) : (loseRegion s r).jobNext = s.jobNext := by
  unfold loseRegion; first | rfl | ((try dsimp only); (repeat' split) <;> simp)
@[simp] theorem loseRegion_ctxs (s : State) (r : Nat) : (loseRegion s r).ctxs = s.ctxs := by
  unfold loseRegion; first | rfl | ((try dsimp only); (repeat' split) <;> simp)
@[simp] theorem loseRegion_vocabs (s : State) (r : Nat) : (loseRegion s r).vocabs = s.vocabs := by
  unfold loseRegion; first | rfl | ((try dsimp only); (repeat' split) <;> simp)
@[simp] theorem loseRegion_indexes (s : State) (r : Nat) : (loseRegion s r).indexes = s.indexes := by
  unfold loseRegion; first | rfl | ((try dsimp only); (repeat' split) <;> simp)
@[simp] theorem loseRegion_copies (s : State) (r : Nat) : (loseRegion s r).copies = s.copies := by
  unfold loseRegion; first | rfl | ((try dsimp only); (repeat' split) <;> simp)
@[simp] theorem loseRegion_queries (s : State) (r : Nat) : (loseRegion s r).queries = s.queries := by
  unfold loseRegion; first | rfl | ((try dsimp only); (repeat' split) <;> simp)
@[simp] theorem loseRegion_spans (s : State) (r : Nat) : (loseRegion s r).spans = s.spans := by
  unfold loseRegion; first | rfl | ((try dsimp only); (repeat' split) <;> simp)
@[simp] theorem loseRegion_belt (s : State) (r : Nat) : (loseRegion s r).belt = s.belt := by
  unfold loseRegion; first | rfl | ((try dsimp only); (repeat' split) <;> simp)
@[simp] theorem loseRegion_kv (s : State) (r : Nat) : (loseRegion s r).kv = s.kv := by
  unfold loseRegion; first | rfl | ((try dsimp only); (repeat' split) <;> simp)
@[simp] theorem loseRegion_gens (s : State) (r : Nat) : (loseRegion s r).gens = s.gens := by
  unfold loseRegion; first | rfl | ((try dsimp only); (repeat' split) <;> simp)
@[simp] theorem loseRegion_grammars (s : State) (r : Nat) : (loseRegion s r).grammars = s.grammars := by
  unfold loseRegion; first | rfl | ((try dsimp only); (repeat' split) <;> simp)
@[simp] theorem loseRegion_array (s : State) (r : Nat) : (loseRegion s r).array = s.array := by
  unfold loseRegion; first | rfl | ((try dsimp only); (repeat' split) <;> simp)
@[simp] theorem loseRegion_mem (s : State) (r : Nat) : (loseRegion s r).mem = s.mem := by
  unfold loseRegion; first | rfl | ((try dsimp only); (repeat' split) <;> simp)
@[simp] theorem loseRegion_aedup (s : State) (r : Nat) : (loseRegion s r).aedup = s.aedup := by
  unfold loseRegion; first | rfl | ((try dsimp only); (repeat' split) <;> simp)
@[simp] theorem loseRegion_pelgan (s : State) (r : Nat) : (loseRegion s r).pelgan = s.pelgan := by
  unfold loseRegion; first | rfl | ((try dsimp only); (repeat' split) <;> simp)
@[simp] theorem loseRegion_chip (s : State) (r : Nat) : (loseRegion s r).chip = s.chip := by
  unfold loseRegion; first | rfl | ((try dsimp only); (repeat' split) <;> simp)
@[simp] theorem loseRegion_sec (s : State) (r : Nat) : (loseRegion s r).sec = s.sec := by
  unfold loseRegion; first | rfl | ((try dsimp only); (repeat' split) <;> simp)
@[simp] theorem loseRegion_test (s : State) (r : Nat) : (loseRegion s r).test = s.test := by
  unfold loseRegion; first | rfl | ((try dsimp only); (repeat' split) <;> simp)
@[simp] theorem loseRegion_perf (s : State) (r : Nat) : (loseRegion s r).perf = s.perf := by
  unfold loseRegion; first | rfl | ((try dsimp only); (repeat' split) <;> simp)
@[simp] theorem loseRegion_log (s : State) (r : Nat) : (loseRegion s r).log = s.log := by
  unfold loseRegion; first | rfl | ((try dsimp only); (repeat' split) <;> simp)
@[simp] theorem loseRegion_out (s : State) (r : Nat) : (loseRegion s r).out = s.out := by
  unfold loseRegion; first | rfl | ((try dsimp only); (repeat' split) <;> simp)
@[simp] theorem loseRegion_freeCount (s : State) (r : Nat) : (loseRegion s r).freeCount = s.freeCount := by
  unfold loseRegion; first | rfl | ((try dsimp only); (repeat' split) <;> simp)

/-! ### `aclkDown` -/

@[simp] theorem aclkDown_pending (s : State) : (aclkDown s).pending = s.pending := by
  unfold aclkDown; first | rfl | ((try dsimp only); (repeat' split) <;> simp)
@[simp] theorem aclkDown_start (s : State) : (aclkDown s).start = s.start := by
  unfold aclkDown; first | rfl | ((try dsimp only); (repeat' split) <;> simp)
@[simp] theorem aclkDown_fatal (s : State) : (aclkDown s).fatal = s.fatal := by
  unfold aclkDown; first | rfl | ((try dsimp only); (repeat' split) <;> simp)
@[simp] theorem aclkDown_alerts (s : State) : (aclkDown s).alerts = s.alerts := by
  unfold aclkDown; first | rfl | ((try dsimp only); (repeat' split) <;> simp)
@[simp] theorem aclkDown_eeprom (s : State) : (aclkDown s).eeprom = s.eeprom := by
  unfold aclkDown; first | rfl | ((try dsimp only); (repeat' split) <;> simp)
@[simp] theorem aclkDown_dict (s : State) : (aclkDown s).dict = s.dict := by
  unfold aclkDown; first | rfl | ((try dsimp only); (repeat' split) <;> simp)
@[simp] theorem aclkDown_hem (s : State) : (aclkDown s).hem = s.hem := by
  unfold aclkDown; first | rfl | ((try dsimp only); (repeat' split) <;> simp)
@[simp] theorem aclkDown_queues (s : State) : (aclkDown s).queues = s.queues := by
  unfold aclkDown; first | rfl | ((try dsimp only); (repeat' split) <;> simp)
@[simp] theorem aclkDown_jobs (s : State) : (aclkDown s).jobs = s.jobs := by
  unfold aclkDown; first | rfl | ((try dsimp only); (repeat' split) <;> simp)
@[simp] theorem aclkDown_jobNext (s : State) : (aclkDown s).jobNext = s.jobNext := by
  unfold aclkDown; first | rfl | ((try dsimp only); (repeat' split) <;> simp)
@[simp] theorem aclkDown_ctxs (s : State) : (aclkDown s).ctxs = s.ctxs := by
  unfold aclkDown; first | rfl | ((try dsimp only); (repeat' split) <;> simp)
@[simp] theorem aclkDown_models (s : State) : (aclkDown s).models = s.models := by
  unfold aclkDown; first | rfl | ((try dsimp only); (repeat' split) <;> simp)
@[simp] theorem aclkDown_vocabs (s : State) : (aclkDown s).vocabs = s.vocabs := by
  unfold aclkDown; first | rfl | ((try dsimp only); (repeat' split) <;> simp)
@[simp] theorem aclkDown_indexes (s : State) : (aclkDown s).indexes = s.indexes := by
  unfold aclkDown; first | rfl | ((try dsimp only); (repeat' split) <;> simp)
@[simp] theorem aclkDown_copies (s : State) : (aclkDown s).copies = s.copies := by
  unfold aclkDown; first | rfl | ((try dsimp only); (repeat' split) <;> simp)
@[simp] theorem aclkDown_queries (s : State) : (aclkDown s).queries = s.queries := by
  unfold aclkDown; first | rfl | ((try dsimp only); (repeat' split) <;> simp)
@[simp] theorem aclkDown_spans (s : State) : (aclkDown s).spans = s.spans := by
  unfold aclkDown; first | rfl | ((try dsimp only); (repeat' split) <;> simp)
@[simp] theorem aclkDown_belt (s : State) : (aclkDown s).belt = s.belt := by
  unfold aclkDown; first | rfl | ((try dsimp only); (repeat' split) <;> simp)
@[simp] theorem aclkDown_kv (s : State) : (aclkDown s).kv = s.kv := by
  unfold aclkDown; first | rfl | ((try dsimp only); (repeat' split) <;> simp)
@[simp] theorem aclkDown_gens (s : State) : (aclkDown s).gens = s.gens := by
  unfold aclkDown; first | rfl | ((try dsimp only); (repeat' split) <;> simp)
@[simp] theorem aclkDown_grammars (s : State) : (aclkDown s).grammars = s.grammars := by
  unfold aclkDown; first | rfl | ((try dsimp only); (repeat' split) <;> simp)
@[simp] theorem aclkDown_pocket (s : State) : (aclkDown s).pocket = s.pocket := by
  unfold aclkDown; first | rfl | ((try dsimp only); (repeat' split) <;> simp)
@[simp] theorem aclkDown_acc (s : State) : (aclkDown s).acc = s.acc := by
  unfold aclkDown; first | rfl | ((try dsimp only); (repeat' split) <;> simp)
@[simp] theorem aclkDown_array (s : State) : (aclkDown s).array = s.array := by
  unfold aclkDown; first | rfl | ((try dsimp only); (repeat' split) <;> simp)
@[simp] theorem aclkDown_mem (s : State) : (aclkDown s).mem = s.mem := by
  unfold aclkDown; first | rfl | ((try dsimp only); (repeat' split) <;> simp)
@[simp] theorem aclkDown_aedup (s : State) : (aclkDown s).aedup = s.aedup := by
  unfold aclkDown; first | rfl | ((try dsimp only); (repeat' split) <;> simp)
@[simp] theorem aclkDown_pelgan (s : State) : (aclkDown s).pelgan = s.pelgan := by
  unfold aclkDown; first | rfl | ((try dsimp only); (repeat' split) <;> simp)
@[simp] theorem aclkDown_chip (s : State) : (aclkDown s).chip = s.chip := by
  unfold aclkDown; first | rfl | ((try dsimp only); (repeat' split) <;> simp)
@[simp] theorem aclkDown_sec (s : State) : (aclkDown s).sec = s.sec := by
  unfold aclkDown; first | rfl | ((try dsimp only); (repeat' split) <;> simp)
@[simp] theorem aclkDown_test (s : State) : (aclkDown s).test = s.test := by
  unfold aclkDown; first | rfl | ((try dsimp only); (repeat' split) <;> simp)
@[simp] theorem aclkDown_perf (s : State) : (aclkDown s).perf = s.perf := by
  unfold aclkDown; first | rfl | ((try dsimp only); (repeat' split) <;> simp)
@[simp] theorem aclkDown_log (s : State) : (aclkDown s).log = s.log := by
  unfold aclkDown; first | rfl | ((try dsimp only); (repeat' split) <;> simp)
@[simp] theorem aclkDown_out (s : State) : (aclkDown s).out = s.out := by
  unfold aclkDown; first | rfl | ((try dsimp only); (repeat' split) <;> simp)
@[simp] theorem aclkDown_freeCount (s : State) : (aclkDown s).freeCount = s.freeCount := by
  unfold aclkDown; first | rfl | ((try dsimp only); (repeat' split) <;> simp)

/-! ### `readVin` -/

@[simp] theorem readVin_pending (s : State) (v : Nat) : (readVin s v).pending = s.pending := by
  unfold readVin; first | rfl | ((try dsimp only); (repeat' split) <;> simp)
@[simp] theorem readVin_start (s : State) (v : Nat) : (readVin s v).start = s.start := by
  unfold readVin; first | rfl | ((try dsimp only); (repeat' split) <;> simp)
@[simp] theorem readVin_fatal (s : State) (v : Nat) : (readVin s v).fatal = s.fatal := by
  unfold readVin; first | rfl | ((try dsimp only); (repeat' split) <;> simp)
@[simp] theorem readVin_alerts (s : State) (v : Nat) : (readVin s v).alerts = s.alerts := by
  unfold readVin; first | rfl | ((try dsimp only); (repeat' split) <;> simp)
@[simp] theorem readVin_eeprom (s : State) (v : Nat) : (readVin s v).eeprom = s.eeprom := by
  unfold readVin; first | rfl | ((try dsimp only); (repeat' split) <;> simp)
@[simp] theorem readVin_dict (s : State) (v : Nat) : (readVin s v).dict = s.dict := by
  unfold readVin; first | rfl | ((try dsimp only); (repeat' split) <;> simp)
@[simp] theorem readVin_hem (s : State) (v : Nat) : (readVin s v).hem = s.hem := by
  unfold readVin; first | rfl | ((try dsimp only); (repeat' split) <;> simp)
@[simp] theorem readVin_queues (s : State) (v : Nat) : (readVin s v).queues = s.queues := by
  unfold readVin; first | rfl | ((try dsimp only); (repeat' split) <;> simp)
@[simp] theorem readVin_jobs (s : State) (v : Nat) : (readVin s v).jobs = s.jobs := by
  unfold readVin; first | rfl | ((try dsimp only); (repeat' split) <;> simp)
@[simp] theorem readVin_jobNext (s : State) (v : Nat) : (readVin s v).jobNext = s.jobNext := by
  unfold readVin; first | rfl | ((try dsimp only); (repeat' split) <;> simp)
@[simp] theorem readVin_ctxs (s : State) (v : Nat) : (readVin s v).ctxs = s.ctxs := by
  unfold readVin; first | rfl | ((try dsimp only); (repeat' split) <;> simp)
@[simp] theorem readVin_models (s : State) (v : Nat) : (readVin s v).models = s.models := by
  unfold readVin; first | rfl | ((try dsimp only); (repeat' split) <;> simp)
@[simp] theorem readVin_vocabs (s : State) (v : Nat) : (readVin s v).vocabs = s.vocabs := by
  unfold readVin; first | rfl | ((try dsimp only); (repeat' split) <;> simp)
@[simp] theorem readVin_indexes (s : State) (v : Nat) : (readVin s v).indexes = s.indexes := by
  unfold readVin; first | rfl | ((try dsimp only); (repeat' split) <;> simp)
@[simp] theorem readVin_copies (s : State) (v : Nat) : (readVin s v).copies = s.copies := by
  unfold readVin; first | rfl | ((try dsimp only); (repeat' split) <;> simp)
@[simp] theorem readVin_queries (s : State) (v : Nat) : (readVin s v).queries = s.queries := by
  unfold readVin; first | rfl | ((try dsimp only); (repeat' split) <;> simp)
@[simp] theorem readVin_spans (s : State) (v : Nat) : (readVin s v).spans = s.spans := by
  unfold readVin; first | rfl | ((try dsimp only); (repeat' split) <;> simp)
@[simp] theorem readVin_belt (s : State) (v : Nat) : (readVin s v).belt = s.belt := by
  unfold readVin; first | rfl | ((try dsimp only); (repeat' split) <;> simp)
@[simp] theorem readVin_kv (s : State) (v : Nat) : (readVin s v).kv = s.kv := by
  unfold readVin; first | rfl | ((try dsimp only); (repeat' split) <;> simp)
@[simp] theorem readVin_gens (s : State) (v : Nat) : (readVin s v).gens = s.gens := by
  unfold readVin; first | rfl | ((try dsimp only); (repeat' split) <;> simp)
@[simp] theorem readVin_grammars (s : State) (v : Nat) : (readVin s v).grammars = s.grammars := by
  unfold readVin; first | rfl | ((try dsimp only); (repeat' split) <;> simp)
@[simp] theorem readVin_pocket (s : State) (v : Nat) : (readVin s v).pocket = s.pocket := by
  unfold readVin; first | rfl | ((try dsimp only); (repeat' split) <;> simp)
@[simp] theorem readVin_acc (s : State) (v : Nat) : (readVin s v).acc = s.acc := by
  unfold readVin; first | rfl | ((try dsimp only); (repeat' split) <;> simp)
@[simp] theorem readVin_array (s : State) (v : Nat) : (readVin s v).array = s.array := by
  unfold readVin; first | rfl | ((try dsimp only); (repeat' split) <;> simp)
@[simp] theorem readVin_mem (s : State) (v : Nat) : (readVin s v).mem = s.mem := by
  unfold readVin; first | rfl | ((try dsimp only); (repeat' split) <;> simp)
@[simp] theorem readVin_aedup (s : State) (v : Nat) : (readVin s v).aedup = s.aedup := by
  unfold readVin; first | rfl | ((try dsimp only); (repeat' split) <;> simp)
@[simp] theorem readVin_pelgan (s : State) (v : Nat) : (readVin s v).pelgan = s.pelgan := by
  unfold readVin; first | rfl | ((try dsimp only); (repeat' split) <;> simp)
@[simp] theorem readVin_chip (s : State) (v : Nat) : (readVin s v).chip = s.chip := by
  unfold readVin; first | rfl | ((try dsimp only); (repeat' split) <;> simp)
@[simp] theorem readVin_sec (s : State) (v : Nat) : (readVin s v).sec = s.sec := by
  unfold readVin; first | rfl | ((try dsimp only); (repeat' split) <;> simp)
@[simp] theorem readVin_power (s : State) (v : Nat) : (readVin s v).power = s.power := by
  unfold readVin; first | rfl | ((try dsimp only); (repeat' split) <;> simp)
@[simp] theorem readVin_test (s : State) (v : Nat) : (readVin s v).test = s.test := by
  unfold readVin; first | rfl | ((try dsimp only); (repeat' split) <;> simp)
@[simp] theorem readVin_perf (s : State) (v : Nat) : (readVin s v).perf = s.perf := by
  unfold readVin; first | rfl | ((try dsimp only); (repeat' split) <;> simp)
@[simp] theorem readVin_log (s : State) (v : Nat) : (readVin s v).log = s.log := by
  unfold readVin; first | rfl | ((try dsimp only); (repeat' split) <;> simp)
@[simp] theorem readVin_out (s : State) (v : Nat) : (readVin s v).out = s.out := by
  unfold readVin; first | rfl | ((try dsimp only); (repeat' split) <;> simp)
@[simp] theorem readVin_freeCount (s : State) (v : Nat) : (readVin s v).freeCount = s.freeCount := by
  unfold readVin; first | rfl | ((try dsimp only); (repeat' split) <;> simp)

/-! ### `loseJob` -/

@[simp] theorem loseJob_pending (s : State) (j : Job) : (loseJob s j).pending = s.pending := by
  unfold loseJob; first | rfl | ((try dsimp only); (repeat' split) <;> simp)
@[simp] theorem loseJob_start (s : State) (j : Job) : (loseJob s j).start = s.start := by
  unfold loseJob; first | rfl | ((try dsimp only); (repeat' split) <;> simp)
@[simp] theorem loseJob_fatal (s : State) (j : Job) : (loseJob s j).fatal = s.fatal := by
  unfold loseJob; first | rfl | ((try dsimp only); (repeat' split) <;> simp)
@[simp] theorem loseJob_alerts (s : State) (j : Job) : (loseJob s j).alerts = s.alerts := by
  unfold loseJob; first | rfl | ((try dsimp only); (repeat' split) <;> simp)
@[simp] theorem loseJob_eeprom (s : State) (j : Job) : (loseJob s j).eeprom = s.eeprom := by
  unfold loseJob; first | rfl | ((try dsimp only); (repeat' split) <;> simp)
@[simp] theorem loseJob_dict (s : State) (j : Job) : (loseJob s j).dict = s.dict := by
  unfold loseJob; first | rfl | ((try dsimp only); (repeat' split) <;> simp)
@[simp] theorem loseJob_hem (s : State) (j : Job) : (loseJob s j).hem = s.hem := by
  unfold loseJob; first | rfl | ((try dsimp only); (repeat' split) <;> simp)
@[simp] theorem loseJob_queues (s : State) (j : Job) : (loseJob s j).queues = s.queues := by
  unfold loseJob; first | rfl | ((try dsimp only); (repeat' split) <;> simp)
@[simp] theorem loseJob_jobs (s : State) (j : Job) : (loseJob s j).jobs = s.jobs := by
  unfold loseJob; first | rfl | ((try dsimp only); (repeat' split) <;> simp)
@[simp] theorem loseJob_jobNext (s : State) (j : Job) : (loseJob s j).jobNext = s.jobNext := by
  unfold loseJob; first | rfl | ((try dsimp only); (repeat' split) <;> simp)
@[simp] theorem loseJob_ctxs (s : State) (j : Job) : (loseJob s j).ctxs = s.ctxs := by
  unfold loseJob; first | rfl | ((try dsimp only); (repeat' split) <;> simp)
@[simp] theorem loseJob_models (s : State) (j : Job) : (loseJob s j).models = s.models := by
  unfold loseJob; first | rfl | ((try dsimp only); (repeat' split) <;> simp)
@[simp] theorem loseJob_vocabs (s : State) (j : Job) : (loseJob s j).vocabs = s.vocabs := by
  unfold loseJob; first | rfl | ((try dsimp only); (repeat' split) <;> simp)
@[simp] theorem loseJob_indexes (s : State) (j : Job) : (loseJob s j).indexes = s.indexes := by
  unfold loseJob; first | rfl | ((try dsimp only); (repeat' split) <;> simp)
@[simp] theorem loseJob_copies (s : State) (j : Job) : (loseJob s j).copies = s.copies := by
  unfold loseJob; first | rfl | ((try dsimp only); (repeat' split) <;> simp)
@[simp] theorem loseJob_queries (s : State) (j : Job) : (loseJob s j).queries = s.queries := by
  unfold loseJob; first | rfl | ((try dsimp only); (repeat' split) <;> simp)
@[simp] theorem loseJob_spans (s : State) (j : Job) : (loseJob s j).spans = s.spans := by
  unfold loseJob; first | rfl | ((try dsimp only); (repeat' split) <;> simp)
@[simp] theorem loseJob_belt (s : State) (j : Job) : (loseJob s j).belt = s.belt := by
  unfold loseJob; first | rfl | ((try dsimp only); (repeat' split) <;> simp)
@[simp] theorem loseJob_kv (s : State) (j : Job) : (loseJob s j).kv = s.kv := by
  unfold loseJob; first | rfl | ((try dsimp only); (repeat' split) <;> simp)
@[simp] theorem loseJob_gens (s : State) (j : Job) : (loseJob s j).gens = s.gens := by
  unfold loseJob; first | rfl | ((try dsimp only); (repeat' split) <;> simp)
@[simp] theorem loseJob_grammars (s : State) (j : Job) : (loseJob s j).grammars = s.grammars := by
  unfold loseJob; first | rfl | ((try dsimp only); (repeat' split) <;> simp)
@[simp] theorem loseJob_pocket (s : State) (j : Job) : (loseJob s j).pocket = s.pocket := by
  unfold loseJob; first | rfl | ((try dsimp only); (repeat' split) <;> simp)
@[simp] theorem loseJob_acc (s : State) (j : Job) : (loseJob s j).acc = s.acc := by
  unfold loseJob; first | rfl | ((try dsimp only); (repeat' split) <;> simp)
@[simp] theorem loseJob_array (s : State) (j : Job) : (loseJob s j).array = s.array := by
  unfold loseJob; first | rfl | ((try dsimp only); (repeat' split) <;> simp)
@[simp] theorem loseJob_mem (s : State) (j : Job) : (loseJob s j).mem = s.mem := by
  unfold loseJob; first | rfl | ((try dsimp only); (repeat' split) <;> simp)
@[simp] theorem loseJob_aedup (s : State) (j : Job) : (loseJob s j).aedup = s.aedup := by
  unfold loseJob; first | rfl | ((try dsimp only); (repeat' split) <;> simp)
@[simp] theorem loseJob_pelgan (s : State) (j : Job) : (loseJob s j).pelgan = s.pelgan := by
  unfold loseJob; first | rfl | ((try dsimp only); (repeat' split) <;> simp)
@[simp] theorem loseJob_chip (s : State) (j : Job) : (loseJob s j).chip = s.chip := by
  unfold loseJob; first | rfl | ((try dsimp only); (repeat' split) <;> simp)
@[simp] theorem loseJob_sec (s : State) (j : Job) : (loseJob s j).sec = s.sec := by
  unfold loseJob; first | rfl | ((try dsimp only); (repeat' split) <;> simp)
@[simp] theorem loseJob_power (s : State) (j : Job) : (loseJob s j).power = s.power := by
  unfold loseJob; first | rfl | ((try dsimp only); (repeat' split) <;> simp)
@[simp] theorem loseJob_test (s : State) (j : Job) : (loseJob s j).test = s.test := by
  unfold loseJob; first | rfl | ((try dsimp only); (repeat' split) <;> simp)
@[simp] theorem loseJob_perf (s : State) (j : Job) : (loseJob s j).perf = s.perf := by
  unfold loseJob; first | rfl | ((try dsimp only); (repeat' split) <;> simp)
@[simp] theorem loseJob_log (s : State) (j : Job) : (loseJob s j).log = s.log := by
  unfold loseJob; first | rfl | ((try dsimp only); (repeat' split) <;> simp)
@[simp] theorem loseJob_out (s : State) (j : Job) : (loseJob s j).out = s.out := by
  unfold loseJob; first | rfl | ((try dsimp only); (repeat' split) <;> simp)
@[simp] theorem loseJob_freeCount (s : State) (j : Job) : (loseJob s j).freeCount = s.freeCount := by
  unfold loseJob; first | rfl | ((try dsimp only); (repeat' split) <;> simp)

/-! ### `sendTo` -/

@[simp] theorem sendTo_pending (s : State) (o j d t v : Nat) : (sendTo s o j d t v).pending = s.pending := by
  unfold sendTo; first | rfl | ((try dsimp only); (repeat' split) <;> simp)
@[simp] theorem sendTo_start (s : State) (o j d t v : Nat) : (sendTo s o j d t v).start = s.start := by
  unfold sendTo; first | rfl | ((try dsimp only); (repeat' split) <;> simp)
@[simp] theorem sendTo_fatal (s : State) (o j d t v : Nat) : (sendTo s o j d t v).fatal = s.fatal := by
  unfold sendTo; first | rfl | ((try dsimp only); (repeat' split) <;> simp)
@[simp] theorem sendTo_alerts (s : State) (o j d t v : Nat) : (sendTo s o j d t v).alerts = s.alerts := by
  unfold sendTo; first | rfl | ((try dsimp only); (repeat' split) <;> simp)
@[simp] theorem sendTo_eeprom (s : State) (o j d t v : Nat) : (sendTo s o j d t v).eeprom = s.eeprom := by
  unfold sendTo; first | rfl | ((try dsimp only); (repeat' split) <;> simp)
@[simp] theorem sendTo_hem (s : State) (o j d t v : Nat) : (sendTo s o j d t v).hem = s.hem := by
  unfold sendTo; first | rfl | ((try dsimp only); (repeat' split) <;> simp)
@[simp] theorem sendTo_queues (s : State) (o j d t v : Nat) : (sendTo s o j d t v).queues = s.queues := by
  unfold sendTo; first | rfl | ((try dsimp only); (repeat' split) <;> simp)
@[simp] theorem sendTo_jobs (s : State) (o j d t v : Nat) : (sendTo s o j d t v).jobs = s.jobs := by
  unfold sendTo; first | rfl | ((try dsimp only); (repeat' split) <;> simp)
@[simp] theorem sendTo_jobNext (s : State) (o j d t v : Nat) : (sendTo s o j d t v).jobNext = s.jobNext := by
  unfold sendTo; first | rfl | ((try dsimp only); (repeat' split) <;> simp)
@[simp] theorem sendTo_ctxs (s : State) (o j d t v : Nat) : (sendTo s o j d t v).ctxs = s.ctxs := by
  unfold sendTo; first | rfl | ((try dsimp only); (repeat' split) <;> simp)
@[simp] theorem sendTo_models (s : State) (o j d t v : Nat) : (sendTo s o j d t v).models = s.models := by
  unfold sendTo; first | rfl | ((try dsimp only); (repeat' split) <;> simp)
@[simp] theorem sendTo_vocabs (s : State) (o j d t v : Nat) : (sendTo s o j d t v).vocabs = s.vocabs := by
  unfold sendTo; first | rfl | ((try dsimp only); (repeat' split) <;> simp)
@[simp] theorem sendTo_indexes (s : State) (o j d t v : Nat) : (sendTo s o j d t v).indexes = s.indexes := by
  unfold sendTo; first | rfl | ((try dsimp only); (repeat' split) <;> simp)
@[simp] theorem sendTo_copies (s : State) (o j d t v : Nat) : (sendTo s o j d t v).copies = s.copies := by
  unfold sendTo; first | rfl | ((try dsimp only); (repeat' split) <;> simp)
@[simp] theorem sendTo_queries (s : State) (o j d t v : Nat) : (sendTo s o j d t v).queries = s.queries := by
  unfold sendTo; first | rfl | ((try dsimp only); (repeat' split) <;> simp)
@[simp] theorem sendTo_spans (s : State) (o j d t v : Nat) : (sendTo s o j d t v).spans = s.spans := by
  unfold sendTo; first | rfl | ((try dsimp only); (repeat' split) <;> simp)
@[simp] theorem sendTo_belt (s : State) (o j d t v : Nat) : (sendTo s o j d t v).belt = s.belt := by
  unfold sendTo; first | rfl | ((try dsimp only); (repeat' split) <;> simp)
@[simp] theorem sendTo_kv (s : State) (o j d t v : Nat) : (sendTo s o j d t v).kv = s.kv := by
  unfold sendTo; first | rfl | ((try dsimp only); (repeat' split) <;> simp)
@[simp] theorem sendTo_gens (s : State) (o j d t v : Nat) : (sendTo s o j d t v).gens = s.gens := by
  unfold sendTo; first | rfl | ((try dsimp only); (repeat' split) <;> simp)
@[simp] theorem sendTo_grammars (s : State) (o j d t v : Nat) : (sendTo s o j d t v).grammars = s.grammars := by
  unfold sendTo; first | rfl | ((try dsimp only); (repeat' split) <;> simp)
@[simp] theorem sendTo_pocket (s : State) (o j d t v : Nat) : (sendTo s o j d t v).pocket = s.pocket := by
  unfold sendTo; first | rfl | ((try dsimp only); (repeat' split) <;> simp)
@[simp] theorem sendTo_acc (s : State) (o j d t v : Nat) : (sendTo s o j d t v).acc = s.acc := by
  unfold sendTo; first | rfl | ((try dsimp only); (repeat' split) <;> simp)
@[simp] theorem sendTo_array (s : State) (o j d t v : Nat) : (sendTo s o j d t v).array = s.array := by
  unfold sendTo; first | rfl | ((try dsimp only); (repeat' split) <;> simp)
@[simp] theorem sendTo_mem (s : State) (o j d t v : Nat) : (sendTo s o j d t v).mem = s.mem := by
  unfold sendTo; first | rfl | ((try dsimp only); (repeat' split) <;> simp)
@[simp] theorem sendTo_chip (s : State) (o j d t v : Nat) : (sendTo s o j d t v).chip = s.chip := by
  unfold sendTo; first | rfl | ((try dsimp only); (repeat' split) <;> simp)
@[simp] theorem sendTo_sec (s : State) (o j d t v : Nat) : (sendTo s o j d t v).sec = s.sec := by
  unfold sendTo; first | rfl | ((try dsimp only); (repeat' split) <;> simp)
@[simp] theorem sendTo_power (s : State) (o j d t v : Nat) : (sendTo s o j d t v).power = s.power := by
  unfold sendTo; first | rfl | ((try dsimp only); (repeat' split) <;> simp)
@[simp] theorem sendTo_test (s : State) (o j d t v : Nat) : (sendTo s o j d t v).test = s.test := by
  unfold sendTo; first | rfl | ((try dsimp only); (repeat' split) <;> simp)
@[simp] theorem sendTo_log (s : State) (o j d t v : Nat) : (sendTo s o j d t v).log = s.log := by
  unfold sendTo; first | rfl | ((try dsimp only); (repeat' split) <;> simp)

/-! ### `sendMgmt` -/

@[simp] theorem sendMgmt_pending (s : State) (p : Reply) : (sendMgmt s p).pending = s.pending := by
  unfold sendMgmt; first | rfl | ((try dsimp only); (repeat' split) <;> simp)
@[simp] theorem sendMgmt_start (s : State) (p : Reply) : (sendMgmt s p).start = s.start := by
  unfold sendMgmt; first | rfl | ((try dsimp only); (repeat' split) <;> simp)
@[simp] theorem sendMgmt_fatal (s : State) (p : Reply) : (sendMgmt s p).fatal = s.fatal := by
  unfold sendMgmt; first | rfl | ((try dsimp only); (repeat' split) <;> simp)
@[simp] theorem sendMgmt_alerts (s : State) (p : Reply) : (sendMgmt s p).alerts = s.alerts := by
  unfold sendMgmt; first | rfl | ((try dsimp only); (repeat' split) <;> simp)
@[simp] theorem sendMgmt_eeprom (s : State) (p : Reply) : (sendMgmt s p).eeprom = s.eeprom := by
  unfold sendMgmt; first | rfl | ((try dsimp only); (repeat' split) <;> simp)
@[simp] theorem sendMgmt_hem (s : State) (p : Reply) : (sendMgmt s p).hem = s.hem := by
  unfold sendMgmt; first | rfl | ((try dsimp only); (repeat' split) <;> simp)
@[simp] theorem sendMgmt_queues (s : State) (p : Reply) : (sendMgmt s p).queues = s.queues := by
  unfold sendMgmt; first | rfl | ((try dsimp only); (repeat' split) <;> simp)
@[simp] theorem sendMgmt_jobs (s : State) (p : Reply) : (sendMgmt s p).jobs = s.jobs := by
  unfold sendMgmt; first | rfl | ((try dsimp only); (repeat' split) <;> simp)
@[simp] theorem sendMgmt_jobNext (s : State) (p : Reply) : (sendMgmt s p).jobNext = s.jobNext := by
  unfold sendMgmt; first | rfl | ((try dsimp only); (repeat' split) <;> simp)
@[simp] theorem sendMgmt_ctxs (s : State) (p : Reply) : (sendMgmt s p).ctxs = s.ctxs := by
  unfold sendMgmt; first | rfl | ((try dsimp only); (repeat' split) <;> simp)
@[simp] theorem sendMgmt_models (s : State) (p : Reply) : (sendMgmt s p).models = s.models := by
  unfold sendMgmt; first | rfl | ((try dsimp only); (repeat' split) <;> simp)
@[simp] theorem sendMgmt_vocabs (s : State) (p : Reply) : (sendMgmt s p).vocabs = s.vocabs := by
  unfold sendMgmt; first | rfl | ((try dsimp only); (repeat' split) <;> simp)
@[simp] theorem sendMgmt_indexes (s : State) (p : Reply) : (sendMgmt s p).indexes = s.indexes := by
  unfold sendMgmt; first | rfl | ((try dsimp only); (repeat' split) <;> simp)
@[simp] theorem sendMgmt_copies (s : State) (p : Reply) : (sendMgmt s p).copies = s.copies := by
  unfold sendMgmt; first | rfl | ((try dsimp only); (repeat' split) <;> simp)
@[simp] theorem sendMgmt_queries (s : State) (p : Reply) : (sendMgmt s p).queries = s.queries := by
  unfold sendMgmt; first | rfl | ((try dsimp only); (repeat' split) <;> simp)
@[simp] theorem sendMgmt_spans (s : State) (p : Reply) : (sendMgmt s p).spans = s.spans := by
  unfold sendMgmt; first | rfl | ((try dsimp only); (repeat' split) <;> simp)
@[simp] theorem sendMgmt_belt (s : State) (p : Reply) : (sendMgmt s p).belt = s.belt := by
  unfold sendMgmt; first | rfl | ((try dsimp only); (repeat' split) <;> simp)
@[simp] theorem sendMgmt_kv (s : State) (p : Reply) : (sendMgmt s p).kv = s.kv := by
  unfold sendMgmt; first | rfl | ((try dsimp only); (repeat' split) <;> simp)
@[simp] theorem sendMgmt_gens (s : State) (p : Reply) : (sendMgmt s p).gens = s.gens := by
  unfold sendMgmt; first | rfl | ((try dsimp only); (repeat' split) <;> simp)
@[simp] theorem sendMgmt_grammars (s : State) (p : Reply) : (sendMgmt s p).grammars = s.grammars := by
  unfold sendMgmt; first | rfl | ((try dsimp only); (repeat' split) <;> simp)
@[simp] theorem sendMgmt_pocket (s : State) (p : Reply) : (sendMgmt s p).pocket = s.pocket := by
  unfold sendMgmt; first | rfl | ((try dsimp only); (repeat' split) <;> simp)
@[simp] theorem sendMgmt_acc (s : State) (p : Reply) : (sendMgmt s p).acc = s.acc := by
  unfold sendMgmt; first | rfl | ((try dsimp only); (repeat' split) <;> simp)
@[simp] theorem sendMgmt_array (s : State) (p : Reply) : (sendMgmt s p).array = s.array := by
  unfold sendMgmt; first | rfl | ((try dsimp only); (repeat' split) <;> simp)
@[simp] theorem sendMgmt_mem (s : State) (p : Reply) : (sendMgmt s p).mem = s.mem := by
  unfold sendMgmt; first | rfl | ((try dsimp only); (repeat' split) <;> simp)
@[simp] theorem sendMgmt_chip (s : State) (p : Reply) : (sendMgmt s p).chip = s.chip := by
  unfold sendMgmt; first | rfl | ((try dsimp only); (repeat' split) <;> simp)
@[simp] theorem sendMgmt_sec (s : State) (p : Reply) : (sendMgmt s p).sec = s.sec := by
  unfold sendMgmt; first | rfl | ((try dsimp only); (repeat' split) <;> simp)
@[simp] theorem sendMgmt_power (s : State) (p : Reply) : (sendMgmt s p).power = s.power := by
  unfold sendMgmt; first | rfl | ((try dsimp only); (repeat' split) <;> simp)
@[simp] theorem sendMgmt_test (s : State) (p : Reply) : (sendMgmt s p).test = s.test := by
  unfold sendMgmt; first | rfl | ((try dsimp only); (repeat' split) <;> simp)
@[simp] theorem sendMgmt_log (s : State) (p : Reply) : (sendMgmt s p).log = s.log := by
  unfold sendMgmt; first | rfl | ((try dsimp only); (repeat' split) <;> simp)

/-! ### `answer` -/

@[simp] theorem answer_pending (s : State) (p : Reply) : (answer s p).pending = s.pending := by
  unfold answer; first | rfl | ((try dsimp only); (repeat' split) <;> simp)
@[simp] theorem answer_start (s : State) (p : Reply) : (answer s p).start = s.start := by
  unfold answer; first | rfl | ((try dsimp only); (repeat' split) <;> simp)
@[simp] theorem answer_fatal (s : State) (p : Reply) : (answer s p).fatal = s.fatal := by
  unfold answer; first | rfl | ((try dsimp only); (repeat' split) <;> simp)
@[simp] theorem answer_alerts (s : State) (p : Reply) : (answer s p).alerts = s.alerts := by
  unfold answer; first | rfl | ((try dsimp only); (repeat' split) <;> simp)
@[simp] theorem answer_eeprom (s : State) (p : Reply) : (answer s p).eeprom = s.eeprom := by
  unfold answer; first | rfl | ((try dsimp only); (repeat' split) <;> simp)
@[simp] theorem answer_hem (s : State) (p : Reply) : (answer s p).hem = s.hem := by
  unfold answer; first | rfl | ((try dsimp only); (repeat' split) <;> simp)
@[simp] theorem answer_queues (s : State) (p : Reply) : (answer s p).queues = s.queues := by
  unfold answer; first | rfl | ((try dsimp only); (repeat' split) <;> simp)
@[simp] theorem answer_jobs (s : State) (p : Reply) : (answer s p).jobs = s.jobs := by
  unfold answer; first | rfl | ((try dsimp only); (repeat' split) <;> simp)
@[simp] theorem answer_jobNext (s : State) (p : Reply) : (answer s p).jobNext = s.jobNext := by
  unfold answer; first | rfl | ((try dsimp only); (repeat' split) <;> simp)
@[simp] theorem answer_ctxs (s : State) (p : Reply) : (answer s p).ctxs = s.ctxs := by
  unfold answer; first | rfl | ((try dsimp only); (repeat' split) <;> simp)
@[simp] theorem answer_models (s : State) (p : Reply) : (answer s p).models = s.models := by
  unfold answer; first | rfl | ((try dsimp only); (repeat' split) <;> simp)
@[simp] theorem answer_vocabs (s : State) (p : Reply) : (answer s p).vocabs = s.vocabs := by
  unfold answer; first | rfl | ((try dsimp only); (repeat' split) <;> simp)
@[simp] theorem answer_indexes (s : State) (p : Reply) : (answer s p).indexes = s.indexes := by
  unfold answer; first | rfl | ((try dsimp only); (repeat' split) <;> simp)
@[simp] theorem answer_copies (s : State) (p : Reply) : (answer s p).copies = s.copies := by
  unfold answer; first | rfl | ((try dsimp only); (repeat' split) <;> simp)
@[simp] theorem answer_queries (s : State) (p : Reply) : (answer s p).queries = s.queries := by
  unfold answer; first | rfl | ((try dsimp only); (repeat' split) <;> simp)
@[simp] theorem answer_spans (s : State) (p : Reply) : (answer s p).spans = s.spans := by
  unfold answer; first | rfl | ((try dsimp only); (repeat' split) <;> simp)
@[simp] theorem answer_belt (s : State) (p : Reply) : (answer s p).belt = s.belt := by
  unfold answer; first | rfl | ((try dsimp only); (repeat' split) <;> simp)
@[simp] theorem answer_kv (s : State) (p : Reply) : (answer s p).kv = s.kv := by
  unfold answer; first | rfl | ((try dsimp only); (repeat' split) <;> simp)
@[simp] theorem answer_gens (s : State) (p : Reply) : (answer s p).gens = s.gens := by
  unfold answer; first | rfl | ((try dsimp only); (repeat' split) <;> simp)
@[simp] theorem answer_grammars (s : State) (p : Reply) : (answer s p).grammars = s.grammars := by
  unfold answer; first | rfl | ((try dsimp only); (repeat' split) <;> simp)
@[simp] theorem answer_pocket (s : State) (p : Reply) : (answer s p).pocket = s.pocket := by
  unfold answer; first | rfl | ((try dsimp only); (repeat' split) <;> simp)
@[simp] theorem answer_acc (s : State) (p : Reply) : (answer s p).acc = s.acc := by
  unfold answer; first | rfl | ((try dsimp only); (repeat' split) <;> simp)
@[simp] theorem answer_array (s : State) (p : Reply) : (answer s p).array = s.array := by
  unfold answer; first | rfl | ((try dsimp only); (repeat' split) <;> simp)
@[simp] theorem answer_mem (s : State) (p : Reply) : (answer s p).mem = s.mem := by
  unfold answer; first | rfl | ((try dsimp only); (repeat' split) <;> simp)
@[simp] theorem answer_chip (s : State) (p : Reply) : (answer s p).chip = s.chip := by
  unfold answer; first | rfl | ((try dsimp only); (repeat' split) <;> simp)
@[simp] theorem answer_sec (s : State) (p : Reply) : (answer s p).sec = s.sec := by
  unfold answer; first | rfl | ((try dsimp only); (repeat' split) <;> simp)
@[simp] theorem answer_power (s : State) (p : Reply) : (answer s p).power = s.power := by
  unfold answer; first | rfl | ((try dsimp only); (repeat' split) <;> simp)
@[simp] theorem answer_test (s : State) (p : Reply) : (answer s p).test = s.test := by
  unfold answer; first | rfl | ((try dsimp only); (repeat' split) <;> simp)
@[simp] theorem answer_log (s : State) (p : Reply) : (answer s p).log = s.log := by
  unfold answer; first | rfl | ((try dsimp only); (repeat' split) <;> simp)

/-! ### `completeRequest` -/

@[simp] theorem completeRequest_pending (s : State) (q : Request) (st n d : Nat) : (completeRequest s q st n d).pending = s.pending := by
  unfold completeRequest; first | rfl | ((try dsimp only); (repeat' split) <;> simp)
@[simp] theorem completeRequest_start (s : State) (q : Request) (st n d : Nat) : (completeRequest s q st n d).start = s.start := by
  unfold completeRequest; first | rfl | ((try dsimp only); (repeat' split) <;> simp)
@[simp] theorem completeRequest_fatal (s : State) (q : Request) (st n d : Nat) : (completeRequest s q st n d).fatal = s.fatal := by
  unfold completeRequest; first | rfl | ((try dsimp only); (repeat' split) <;> simp)
@[simp] theorem completeRequest_alerts (s : State) (q : Request) (st n d : Nat) : (completeRequest s q st n d).alerts = s.alerts := by
  unfold completeRequest; first | rfl | ((try dsimp only); (repeat' split) <;> simp)
@[simp] theorem completeRequest_eeprom (s : State) (q : Request) (st n d : Nat) : (completeRequest s q st n d).eeprom = s.eeprom := by
  unfold completeRequest; first | rfl | ((try dsimp only); (repeat' split) <;> simp)
@[simp] theorem completeRequest_hem (s : State) (q : Request) (st n d : Nat) : (completeRequest s q st n d).hem = s.hem := by
  unfold completeRequest; first | rfl | ((try dsimp only); (repeat' split) <;> simp)
@[simp] theorem completeRequest_queues (s : State) (q : Request) (st n d : Nat) : (completeRequest s q st n d).queues = s.queues := by
  unfold completeRequest; first | rfl | ((try dsimp only); (repeat' split) <;> simp)
@[simp] theorem completeRequest_jobs (s : State) (q : Request) (st n d : Nat) : (completeRequest s q st n d).jobs = s.jobs := by
  unfold completeRequest; first | rfl | ((try dsimp only); (repeat' split) <;> simp)
@[simp] theorem completeRequest_jobNext (s : State) (q : Request) (st n d : Nat) : (completeRequest s q st n d).jobNext = s.jobNext := by
  unfold completeRequest; first | rfl | ((try dsimp only); (repeat' split) <;> simp)
@[simp] theorem completeRequest_ctxs (s : State) (q : Request) (st n d : Nat) : (completeRequest s q st n d).ctxs = s.ctxs := by
  unfold completeRequest; first | rfl | ((try dsimp only); (repeat' split) <;> simp)
@[simp] theorem completeRequest_models (s : State) (q : Request) (st n d : Nat) : (completeRequest s q st n d).models = s.models := by
  unfold completeRequest; first | rfl | ((try dsimp only); (repeat' split) <;> simp)
@[simp] theorem completeRequest_vocabs (s : State) (q : Request) (st n d : Nat) : (completeRequest s q st n d).vocabs = s.vocabs := by
  unfold completeRequest; first | rfl | ((try dsimp only); (repeat' split) <;> simp)
@[simp] theorem completeRequest_indexes (s : State) (q : Request) (st n d : Nat) : (completeRequest s q st n d).indexes = s.indexes := by
  unfold completeRequest; first | rfl | ((try dsimp only); (repeat' split) <;> simp)
@[simp] theorem completeRequest_copies (s : State) (q : Request) (st n d : Nat) : (completeRequest s q st n d).copies = s.copies := by
  unfold completeRequest; first | rfl | ((try dsimp only); (repeat' split) <;> simp)
@[simp] theorem completeRequest_queries (s : State) (q : Request) (st n d : Nat) : (completeRequest s q st n d).queries = s.queries := by
  unfold completeRequest; first | rfl | ((try dsimp only); (repeat' split) <;> simp)
@[simp] theorem completeRequest_spans (s : State) (q : Request) (st n d : Nat) : (completeRequest s q st n d).spans = s.spans := by
  unfold completeRequest; first | rfl | ((try dsimp only); (repeat' split) <;> simp)
@[simp] theorem completeRequest_belt (s : State) (q : Request) (st n d : Nat) : (completeRequest s q st n d).belt = s.belt := by
  unfold completeRequest; first | rfl | ((try dsimp only); (repeat' split) <;> simp)
@[simp] theorem completeRequest_kv (s : State) (q : Request) (st n d : Nat) : (completeRequest s q st n d).kv = s.kv := by
  unfold completeRequest; first | rfl | ((try dsimp only); (repeat' split) <;> simp)
@[simp] theorem completeRequest_gens (s : State) (q : Request) (st n d : Nat) : (completeRequest s q st n d).gens = s.gens := by
  unfold completeRequest; first | rfl | ((try dsimp only); (repeat' split) <;> simp)
@[simp] theorem completeRequest_grammars (s : State) (q : Request) (st n d : Nat) : (completeRequest s q st n d).grammars = s.grammars := by
  unfold completeRequest; first | rfl | ((try dsimp only); (repeat' split) <;> simp)
@[simp] theorem completeRequest_pocket (s : State) (q : Request) (st n d : Nat) : (completeRequest s q st n d).pocket = s.pocket := by
  unfold completeRequest; first | rfl | ((try dsimp only); (repeat' split) <;> simp)
@[simp] theorem completeRequest_acc (s : State) (q : Request) (st n d : Nat) : (completeRequest s q st n d).acc = s.acc := by
  unfold completeRequest; first | rfl | ((try dsimp only); (repeat' split) <;> simp)
@[simp] theorem completeRequest_array (s : State) (q : Request) (st n d : Nat) : (completeRequest s q st n d).array = s.array := by
  unfold completeRequest; first | rfl | ((try dsimp only); (repeat' split) <;> simp)
@[simp] theorem completeRequest_mem (s : State) (q : Request) (st n d : Nat) : (completeRequest s q st n d).mem = s.mem := by
  unfold completeRequest; first | rfl | ((try dsimp only); (repeat' split) <;> simp)
@[simp] theorem completeRequest_chip (s : State) (q : Request) (st n d : Nat) : (completeRequest s q st n d).chip = s.chip := by
  unfold completeRequest; first | rfl | ((try dsimp only); (repeat' split) <;> simp)
@[simp] theorem completeRequest_sec (s : State) (q : Request) (st n d : Nat) : (completeRequest s q st n d).sec = s.sec := by
  unfold completeRequest; first | rfl | ((try dsimp only); (repeat' split) <;> simp)
@[simp] theorem completeRequest_power (s : State) (q : Request) (st n d : Nat) : (completeRequest s q st n d).power = s.power := by
  unfold completeRequest; first | rfl | ((try dsimp only); (repeat' split) <;> simp)
@[simp] theorem completeRequest_test (s : State) (q : Request) (st n d : Nat) : (completeRequest s q st n d).test = s.test := by
  unfold completeRequest; first | rfl | ((try dsimp only); (repeat' split) <;> simp)
@[simp] theorem completeRequest_log (s : State) (q : Request) (st n d : Nat) : (completeRequest s q st n d).log = s.log := by
  unfold completeRequest; first | rfl | ((try dsimp only); (repeat' split) <;> simp)

/-! ### `issueRead` -/

@[simp] theorem issueRead_pending (s : State) (l : Nat) (b : Bool) (w : ReadFor) : (issueRead s l b w).pending = s.pending := by
  unfold issueRead; first | rfl | ((try dsimp only); (repeat' split) <;> simp)
@[simp] theorem issueRead_start (s : State) (l : Nat) (b : Bool) (w : ReadFor) : (issueRead s l b w).start = s.start := by
  unfold issueRead; first | rfl | ((try dsimp only); (repeat' split) <;> simp)
@[simp] theorem issueRead_fatal (s : State) (l : Nat) (b : Bool) (w : ReadFor) : (issueRead s l b w).fatal = s.fatal := by
  unfold issueRead; first | rfl | ((try dsimp only); (repeat' split) <;> simp)
@[simp] theorem issueRead_alerts (s : State) (l : Nat) (b : Bool) (w : ReadFor) : (issueRead s l b w).alerts = s.alerts := by
  unfold issueRead; first | rfl | ((try dsimp only); (repeat' split) <;> simp)
@[simp] theorem issueRead_eeprom (s : State) (l : Nat) (b : Bool) (w : ReadFor) : (issueRead s l b w).eeprom = s.eeprom := by
  unfold issueRead; first | rfl | ((try dsimp only); (repeat' split) <;> simp)
@[simp] theorem issueRead_hem (s : State) (l : Nat) (b : Bool) (w : ReadFor) : (issueRead s l b w).hem = s.hem := by
  unfold issueRead; first | rfl | ((try dsimp only); (repeat' split) <;> simp)
@[simp] theorem issueRead_queues (s : State) (l : Nat) (b : Bool) (w : ReadFor) : (issueRead s l b w).queues = s.queues := by
  unfold issueRead; first | rfl | ((try dsimp only); (repeat' split) <;> simp)
@[simp] theorem issueRead_jobs (s : State) (l : Nat) (b : Bool) (w : ReadFor) : (issueRead s l b w).jobs = s.jobs := by
  unfold issueRead; first | rfl | ((try dsimp only); (repeat' split) <;> simp)
@[simp] theorem issueRead_jobNext (s : State) (l : Nat) (b : Bool) (w : ReadFor) : (issueRead s l b w).jobNext = s.jobNext := by
  unfold issueRead; first | rfl | ((try dsimp only); (repeat' split) <;> simp)
@[simp] theorem issueRead_ctxs (s : State) (l : Nat) (b : Bool) (w : ReadFor) : (issueRead s l b w).ctxs = s.ctxs := by
  unfold issueRead; first | rfl | ((try dsimp only); (repeat' split) <;> simp)
@[simp] theorem issueRead_models (s : State) (l : Nat) (b : Bool) (w : ReadFor) : (issueRead s l b w).models = s.models := by
  unfold issueRead; first | rfl | ((try dsimp only); (repeat' split) <;> simp)
@[simp] theorem issueRead_vocabs (s : State) (l : Nat) (b : Bool) (w : ReadFor) : (issueRead s l b w).vocabs = s.vocabs := by
  unfold issueRead; first | rfl | ((try dsimp only); (repeat' split) <;> simp)
@[simp] theorem issueRead_indexes (s : State) (l : Nat) (b : Bool) (w : ReadFor) : (issueRead s l b w).indexes = s.indexes := by
  unfold issueRead; first | rfl | ((try dsimp only); (repeat' split) <;> simp)
@[simp] theorem issueRead_copies (s : State) (l : Nat) (b : Bool) (w : ReadFor) : (issueRead s l b w).copies = s.copies := by
  unfold issueRead; first | rfl | ((try dsimp only); (repeat' split) <;> simp)
@[simp] theorem issueRead_queries (s : State) (l : Nat) (b : Bool) (w : ReadFor) : (issueRead s l b w).queries = s.queries := by
  unfold issueRead; first | rfl | ((try dsimp only); (repeat' split) <;> simp)
@[simp] theorem issueRead_spans (s : State) (l : Nat) (b : Bool) (w : ReadFor) : (issueRead s l b w).spans = s.spans := by
  unfold issueRead; first | rfl | ((try dsimp only); (repeat' split) <;> simp)
@[simp] theorem issueRead_belt (s : State) (l : Nat) (b : Bool) (w : ReadFor) : (issueRead s l b w).belt = s.belt := by
  unfold issueRead; first | rfl | ((try dsimp only); (repeat' split) <;> simp)
@[simp] theorem issueRead_kv (s : State) (l : Nat) (b : Bool) (w : ReadFor) : (issueRead s l b w).kv = s.kv := by
  unfold issueRead; first | rfl | ((try dsimp only); (repeat' split) <;> simp)
@[simp] theorem issueRead_gens (s : State) (l : Nat) (b : Bool) (w : ReadFor) : (issueRead s l b w).gens = s.gens := by
  unfold issueRead; first | rfl | ((try dsimp only); (repeat' split) <;> simp)
@[simp] theorem issueRead_grammars (s : State) (l : Nat) (b : Bool) (w : ReadFor) : (issueRead s l b w).grammars = s.grammars := by
  unfold issueRead; first | rfl | ((try dsimp only); (repeat' split) <;> simp)
@[simp] theorem issueRead_pocket (s : State) (l : Nat) (b : Bool) (w : ReadFor) : (issueRead s l b w).pocket = s.pocket := by
  unfold issueRead; first | rfl | ((try dsimp only); (repeat' split) <;> simp)
@[simp] theorem issueRead_acc (s : State) (l : Nat) (b : Bool) (w : ReadFor) : (issueRead s l b w).acc = s.acc := by
  unfold issueRead; first | rfl | ((try dsimp only); (repeat' split) <;> simp)
@[simp] theorem issueRead_array (s : State) (l : Nat) (b : Bool) (w : ReadFor) : (issueRead s l b w).array = s.array := by
  unfold issueRead; first | rfl | ((try dsimp only); (repeat' split) <;> simp)
@[simp] theorem issueRead_mem (s : State) (l : Nat) (b : Bool) (w : ReadFor) : (issueRead s l b w).mem = s.mem := by
  unfold issueRead; first | rfl | ((try dsimp only); (repeat' split) <;> simp)
@[simp] theorem issueRead_chip (s : State) (l : Nat) (b : Bool) (w : ReadFor) : (issueRead s l b w).chip = s.chip := by
  unfold issueRead; first | rfl | ((try dsimp only); (repeat' split) <;> simp)
@[simp] theorem issueRead_sec (s : State) (l : Nat) (b : Bool) (w : ReadFor) : (issueRead s l b w).sec = s.sec := by
  unfold issueRead; first | rfl | ((try dsimp only); (repeat' split) <;> simp)
@[simp] theorem issueRead_power (s : State) (l : Nat) (b : Bool) (w : ReadFor) : (issueRead s l b w).power = s.power := by
  unfold issueRead; first | rfl | ((try dsimp only); (repeat' split) <;> simp)
@[simp] theorem issueRead_test (s : State) (l : Nat) (b : Bool) (w : ReadFor) : (issueRead s l b w).test = s.test := by
  unfold issueRead; first | rfl | ((try dsimp only); (repeat' split) <;> simp)
@[simp] theorem issueRead_log (s : State) (l : Nat) (b : Bool) (w : ReadFor) : (issueRead s l b w).log = s.log := by
  unfold issueRead; first | rfl | ((try dsimp only); (repeat' split) <;> simp)

/-! ### `wantLine` -/

@[simp] theorem wantLine_pending (s : State) (l : Nat) (w : ReadFor) : (wantLine s l w).pending = s.pending := by
  unfold wantLine; first | rfl | ((try dsimp only); (repeat' split) <;> simp)
@[simp] theorem wantLine_start (s : State) (l : Nat) (w : ReadFor) : (wantLine s l w).start = s.start := by
  unfold wantLine; first | rfl | ((try dsimp only); (repeat' split) <;> simp)
@[simp] theorem wantLine_fatal (s : State) (l : Nat) (w : ReadFor) : (wantLine s l w).fatal = s.fatal := by
  unfold wantLine; first | rfl | ((try dsimp only); (repeat' split) <;> simp)
@[simp] theorem wantLine_alerts (s : State) (l : Nat) (w : ReadFor) : (wantLine s l w).alerts = s.alerts := by
  unfold wantLine; first | rfl | ((try dsimp only); (repeat' split) <;> simp)
@[simp] theorem wantLine_eeprom (s : State) (l : Nat) (w : ReadFor) : (wantLine s l w).eeprom = s.eeprom := by
  unfold wantLine; first | rfl | ((try dsimp only); (repeat' split) <;> simp)
@[simp] theorem wantLine_hem (s : State) (l : Nat) (w : ReadFor) : (wantLine s l w).hem = s.hem := by
  unfold wantLine; first | rfl | ((try dsimp only); (repeat' split) <;> simp)
@[simp] theorem wantLine_queues (s : State) (l : Nat) (w : ReadFor) : (wantLine s l w).queues = s.queues := by
  unfold wantLine; first | rfl | ((try dsimp only); (repeat' split) <;> simp)
@[simp] theorem wantLine_jobs (s : State) (l : Nat) (w : ReadFor) : (wantLine s l w).jobs = s.jobs := by
  unfold wantLine; first | rfl | ((try dsimp only); (repeat' split) <;> simp)
@[simp] theorem wantLine_jobNext (s : State) (l : Nat) (w : ReadFor) : (wantLine s l w).jobNext = s.jobNext := by
  unfold wantLine; first | rfl | ((try dsimp only); (repeat' split) <;> simp)
@[simp] theorem wantLine_ctxs (s : State) (l : Nat) (w : ReadFor) : (wantLine s l w).ctxs = s.ctxs := by
  unfold wantLine; first | rfl | ((try dsimp only); (repeat' split) <;> simp)
@[simp] theorem wantLine_models (s : State) (l : Nat) (w : ReadFor) : (wantLine s l w).models = s.models := by
  unfold wantLine; first | rfl | ((try dsimp only); (repeat' split) <;> simp)
@[simp] theorem wantLine_vocabs (s : State) (l : Nat) (w : ReadFor) : (wantLine s l w).vocabs = s.vocabs := by
  unfold wantLine; first | rfl | ((try dsimp only); (repeat' split) <;> simp)
@[simp] theorem wantLine_indexes (s : State) (l : Nat) (w : ReadFor) : (wantLine s l w).indexes = s.indexes := by
  unfold wantLine; first | rfl | ((try dsimp only); (repeat' split) <;> simp)
@[simp] theorem wantLine_copies (s : State) (l : Nat) (w : ReadFor) : (wantLine s l w).copies = s.copies := by
  unfold wantLine; first | rfl | ((try dsimp only); (repeat' split) <;> simp)
@[simp] theorem wantLine_queries (s : State) (l : Nat) (w : ReadFor) : (wantLine s l w).queries = s.queries := by
  unfold wantLine; first | rfl | ((try dsimp only); (repeat' split) <;> simp)
@[simp] theorem wantLine_spans (s : State) (l : Nat) (w : ReadFor) : (wantLine s l w).spans = s.spans := by
  unfold wantLine; first | rfl | ((try dsimp only); (repeat' split) <;> simp)
@[simp] theorem wantLine_belt (s : State) (l : Nat) (w : ReadFor) : (wantLine s l w).belt = s.belt := by
  unfold wantLine; first | rfl | ((try dsimp only); (repeat' split) <;> simp)
@[simp] theorem wantLine_kv (s : State) (l : Nat) (w : ReadFor) : (wantLine s l w).kv = s.kv := by
  unfold wantLine; first | rfl | ((try dsimp only); (repeat' split) <;> simp)
@[simp] theorem wantLine_gens (s : State) (l : Nat) (w : ReadFor) : (wantLine s l w).gens = s.gens := by
  unfold wantLine; first | rfl | ((try dsimp only); (repeat' split) <;> simp)
@[simp] theorem wantLine_grammars (s : State) (l : Nat) (w : ReadFor) : (wantLine s l w).grammars = s.grammars := by
  unfold wantLine; first | rfl | ((try dsimp only); (repeat' split) <;> simp)
@[simp] theorem wantLine_pocket (s : State) (l : Nat) (w : ReadFor) : (wantLine s l w).pocket = s.pocket := by
  unfold wantLine; first | rfl | ((try dsimp only); (repeat' split) <;> simp)
@[simp] theorem wantLine_acc (s : State) (l : Nat) (w : ReadFor) : (wantLine s l w).acc = s.acc := by
  unfold wantLine; first | rfl | ((try dsimp only); (repeat' split) <;> simp)
@[simp] theorem wantLine_array (s : State) (l : Nat) (w : ReadFor) : (wantLine s l w).array = s.array := by
  unfold wantLine; first | rfl | ((try dsimp only); (repeat' split) <;> simp)
@[simp] theorem wantLine_mem (s : State) (l : Nat) (w : ReadFor) : (wantLine s l w).mem = s.mem := by
  unfold wantLine; first | rfl | ((try dsimp only); (repeat' split) <;> simp)
@[simp] theorem wantLine_chip (s : State) (l : Nat) (w : ReadFor) : (wantLine s l w).chip = s.chip := by
  unfold wantLine; first | rfl | ((try dsimp only); (repeat' split) <;> simp)
@[simp] theorem wantLine_sec (s : State) (l : Nat) (w : ReadFor) : (wantLine s l w).sec = s.sec := by
  unfold wantLine; first | rfl | ((try dsimp only); (repeat' split) <;> simp)
@[simp] theorem wantLine_power (s : State) (l : Nat) (w : ReadFor) : (wantLine s l w).power = s.power := by
  unfold wantLine; first | rfl | ((try dsimp only); (repeat' split) <;> simp)
@[simp] theorem wantLine_test (s : State) (l : Nat) (w : ReadFor) : (wantLine s l w).test = s.test := by
  unfold wantLine; first | rfl | ((try dsimp only); (repeat' split) <;> simp)
@[simp] theorem wantLine_log (s : State) (l : Nat) (w : ReadFor) : (wantLine s l w).log = s.log := by
  unfold wantLine; first | rfl | ((try dsimp only); (repeat' split) <;> simp)

/-! ### `touchRange` -/

@[simp] theorem touchRange_pending (s : State) (a n : Nat) : (touchRange s a n).pending = s.pending := by
  obtain ⟨_, h⟩ := touchRange_eq s a n; exact h.pending
@[simp] theorem touchRange_start (s : State) (a n : Nat) : (touchRange s a n).start = s.start := by
  obtain ⟨_, h⟩ := touchRange_eq s a n; exact h.start
@[simp] theorem touchRange_fatal (s : State) (a n : Nat) : (touchRange s a n).fatal = s.fatal := by
  obtain ⟨_, h⟩ := touchRange_eq s a n; exact h.fatal
@[simp] theorem touchRange_alerts (s : State) (a n : Nat) : (touchRange s a n).alerts = s.alerts := by
  obtain ⟨_, h⟩ := touchRange_eq s a n; exact h.alerts
@[simp] theorem touchRange_eeprom (s : State) (a n : Nat) : (touchRange s a n).eeprom = s.eeprom := by
  obtain ⟨_, h⟩ := touchRange_eq s a n; exact h.eeprom
@[simp] theorem touchRange_hem (s : State) (a n : Nat) : (touchRange s a n).hem = s.hem := by
  obtain ⟨_, h⟩ := touchRange_eq s a n; exact h.hem
@[simp] theorem touchRange_queues (s : State) (a n : Nat) : (touchRange s a n).queues = s.queues := by
  obtain ⟨_, h⟩ := touchRange_eq s a n; exact h.queues
@[simp] theorem touchRange_jobs (s : State) (a n : Nat) : (touchRange s a n).jobs = s.jobs := by
  obtain ⟨_, h⟩ := touchRange_eq s a n; exact h.jobs
@[simp] theorem touchRange_jobNext (s : State) (a n : Nat) : (touchRange s a n).jobNext = s.jobNext := by
  obtain ⟨_, h⟩ := touchRange_eq s a n; exact h.jobNext
@[simp] theorem touchRange_ctxs (s : State) (a n : Nat) : (touchRange s a n).ctxs = s.ctxs := by
  obtain ⟨_, h⟩ := touchRange_eq s a n; exact h.ctxs
@[simp] theorem touchRange_models (s : State) (a n : Nat) : (touchRange s a n).models = s.models := by
  obtain ⟨_, h⟩ := touchRange_eq s a n; exact h.models
@[simp] theorem touchRange_vocabs (s : State) (a n : Nat) : (touchRange s a n).vocabs = s.vocabs := by
  obtain ⟨_, h⟩ := touchRange_eq s a n; exact h.vocabs
@[simp] theorem touchRange_indexes (s : State) (a n : Nat) : (touchRange s a n).indexes = s.indexes := by
  obtain ⟨_, h⟩ := touchRange_eq s a n; exact h.indexes
@[simp] theorem touchRange_copies (s : State) (a n : Nat) : (touchRange s a n).copies = s.copies := by
  obtain ⟨_, h⟩ := touchRange_eq s a n; exact h.copies
@[simp] theorem touchRange_queries (s : State) (a n : Nat) : (touchRange s a n).queries = s.queries := by
  obtain ⟨_, h⟩ := touchRange_eq s a n; exact h.queries
@[simp] theorem touchRange_spans (s : State) (a n : Nat) : (touchRange s a n).spans = s.spans := by
  obtain ⟨_, h⟩ := touchRange_eq s a n; exact h.spans
@[simp] theorem touchRange_belt (s : State) (a n : Nat) : (touchRange s a n).belt = s.belt := by
  obtain ⟨_, h⟩ := touchRange_eq s a n; exact h.belt
@[simp] theorem touchRange_kv (s : State) (a n : Nat) : (touchRange s a n).kv = s.kv := by
  obtain ⟨_, h⟩ := touchRange_eq s a n; exact h.kv
@[simp] theorem touchRange_gens (s : State) (a n : Nat) : (touchRange s a n).gens = s.gens := by
  obtain ⟨_, h⟩ := touchRange_eq s a n; exact h.gens
@[simp] theorem touchRange_grammars (s : State) (a n : Nat) : (touchRange s a n).grammars = s.grammars := by
  obtain ⟨_, h⟩ := touchRange_eq s a n; exact h.grammars
@[simp] theorem touchRange_pocket (s : State) (a n : Nat) : (touchRange s a n).pocket = s.pocket := by
  obtain ⟨_, h⟩ := touchRange_eq s a n; exact h.pocket
@[simp] theorem touchRange_acc (s : State) (a n : Nat) : (touchRange s a n).acc = s.acc := by
  obtain ⟨_, h⟩ := touchRange_eq s a n; exact h.acc
@[simp] theorem touchRange_array (s : State) (a n : Nat) : (touchRange s a n).array = s.array := by
  obtain ⟨_, h⟩ := touchRange_eq s a n; exact h.array
@[simp] theorem touchRange_chip (s : State) (a n : Nat) : (touchRange s a n).chip = s.chip := by
  obtain ⟨_, h⟩ := touchRange_eq s a n; exact h.chip
@[simp] theorem touchRange_sec (s : State) (a n : Nat) : (touchRange s a n).sec = s.sec := by
  obtain ⟨_, h⟩ := touchRange_eq s a n; exact h.sec
@[simp] theorem touchRange_power (s : State) (a n : Nat) : (touchRange s a n).power = s.power := by
  obtain ⟨_, h⟩ := touchRange_eq s a n; exact h.power
@[simp] theorem touchRange_test (s : State) (a n : Nat) : (touchRange s a n).test = s.test := by
  obtain ⟨_, h⟩ := touchRange_eq s a n; exact h.test
@[simp] theorem touchRange_log (s : State) (a n : Nat) : (touchRange s a n).log = s.log := by
  obtain ⟨_, h⟩ := touchRange_eq s a n; exact h.log

/-! ### `writeBytes` -/

@[simp] theorem writeBytes_pending (s : State) (a : Nat) (b : List Nat) : (writeBytes s a b).pending = s.pending := by
  obtain ⟨_, _, _, _, h⟩ := writeBytes_eq s a b; exact h.pending
@[simp] theorem writeBytes_start (s : State) (a : Nat) (b : List Nat) : (writeBytes s a b).start = s.start := by
  obtain ⟨_, _, _, _, h⟩ := writeBytes_eq s a b; exact h.start
@[simp] theorem writeBytes_fatal (s : State) (a : Nat) (b : List Nat) : (writeBytes s a b).fatal = s.fatal := by
  obtain ⟨_, _, _, _, h⟩ := writeBytes_eq s a b; exact h.fatal
@[simp] theorem writeBytes_alerts (s : State) (a : Nat) (b : List Nat) : (writeBytes s a b).alerts = s.alerts := by
  obtain ⟨_, _, _, _, h⟩ := writeBytes_eq s a b; exact h.alerts
@[simp] theorem writeBytes_eeprom (s : State) (a : Nat) (b : List Nat) : (writeBytes s a b).eeprom = s.eeprom := by
  obtain ⟨_, _, _, _, h⟩ := writeBytes_eq s a b; exact h.eeprom
@[simp] theorem writeBytes_hem (s : State) (a : Nat) (b : List Nat) : (writeBytes s a b).hem = s.hem := by
  obtain ⟨_, _, _, _, h⟩ := writeBytes_eq s a b; exact h.hem
@[simp] theorem writeBytes_queues (s : State) (a : Nat) (b : List Nat) : (writeBytes s a b).queues = s.queues := by
  obtain ⟨_, _, _, _, h⟩ := writeBytes_eq s a b; exact h.queues
@[simp] theorem writeBytes_jobs (s : State) (a : Nat) (b : List Nat) : (writeBytes s a b).jobs = s.jobs := by
  obtain ⟨_, _, _, _, h⟩ := writeBytes_eq s a b; exact h.jobs
@[simp] theorem writeBytes_jobNext (s : State) (a : Nat) (b : List Nat) : (writeBytes s a b).jobNext = s.jobNext := by
  obtain ⟨_, _, _, _, h⟩ := writeBytes_eq s a b; exact h.jobNext
@[simp] theorem writeBytes_ctxs (s : State) (a : Nat) (b : List Nat) : (writeBytes s a b).ctxs = s.ctxs := by
  obtain ⟨_, _, _, _, h⟩ := writeBytes_eq s a b; exact h.ctxs
@[simp] theorem writeBytes_models (s : State) (a : Nat) (b : List Nat) : (writeBytes s a b).models = s.models := by
  obtain ⟨_, _, _, _, h⟩ := writeBytes_eq s a b; exact h.models
@[simp] theorem writeBytes_vocabs (s : State) (a : Nat) (b : List Nat) : (writeBytes s a b).vocabs = s.vocabs := by
  obtain ⟨_, _, _, _, h⟩ := writeBytes_eq s a b; exact h.vocabs
@[simp] theorem writeBytes_indexes (s : State) (a : Nat) (b : List Nat) : (writeBytes s a b).indexes = s.indexes := by
  obtain ⟨_, _, _, _, h⟩ := writeBytes_eq s a b; exact h.indexes
@[simp] theorem writeBytes_copies (s : State) (a : Nat) (b : List Nat) : (writeBytes s a b).copies = s.copies := by
  obtain ⟨_, _, _, _, h⟩ := writeBytes_eq s a b; exact h.copies
@[simp] theorem writeBytes_queries (s : State) (a : Nat) (b : List Nat) : (writeBytes s a b).queries = s.queries := by
  obtain ⟨_, _, _, _, h⟩ := writeBytes_eq s a b; exact h.queries
@[simp] theorem writeBytes_spans (s : State) (a : Nat) (b : List Nat) : (writeBytes s a b).spans = s.spans := by
  obtain ⟨_, _, _, _, h⟩ := writeBytes_eq s a b; exact h.spans
@[simp] theorem writeBytes_belt (s : State) (a : Nat) (b : List Nat) : (writeBytes s a b).belt = s.belt := by
  obtain ⟨_, _, _, _, h⟩ := writeBytes_eq s a b; exact h.belt
@[simp] theorem writeBytes_kv (s : State) (a : Nat) (b : List Nat) : (writeBytes s a b).kv = s.kv := by
  obtain ⟨_, _, _, _, h⟩ := writeBytes_eq s a b; exact h.kv
@[simp] theorem writeBytes_gens (s : State) (a : Nat) (b : List Nat) : (writeBytes s a b).gens = s.gens := by
  obtain ⟨_, _, _, _, h⟩ := writeBytes_eq s a b; exact h.gens
@[simp] theorem writeBytes_grammars (s : State) (a : Nat) (b : List Nat) : (writeBytes s a b).grammars = s.grammars := by
  obtain ⟨_, _, _, _, h⟩ := writeBytes_eq s a b; exact h.grammars
@[simp] theorem writeBytes_pocket (s : State) (a : Nat) (b : List Nat) : (writeBytes s a b).pocket = s.pocket := by
  obtain ⟨_, _, _, _, h⟩ := writeBytes_eq s a b; exact h.pocket
@[simp] theorem writeBytes_acc (s : State) (a : Nat) (b : List Nat) : (writeBytes s a b).acc = s.acc := by
  obtain ⟨_, _, _, _, h⟩ := writeBytes_eq s a b; exact h.acc
@[simp] theorem writeBytes_array (s : State) (a : Nat) (b : List Nat) : (writeBytes s a b).array = s.array := by
  obtain ⟨_, _, _, _, h⟩ := writeBytes_eq s a b; exact h.array
@[simp] theorem writeBytes_chip (s : State) (a : Nat) (b : List Nat) : (writeBytes s a b).chip = s.chip := by
  obtain ⟨_, _, _, _, h⟩ := writeBytes_eq s a b; exact h.chip
@[simp] theorem writeBytes_sec (s : State) (a : Nat) (b : List Nat) : (writeBytes s a b).sec = s.sec := by
  obtain ⟨_, _, _, _, h⟩ := writeBytes_eq s a b; exact h.sec
@[simp] theorem writeBytes_power (s : State) (a : Nat) (b : List Nat) : (writeBytes s a b).power = s.power := by
  obtain ⟨_, _, _, _, h⟩ := writeBytes_eq s a b; exact h.power
@[simp] theorem writeBytes_test (s : State) (a : Nat) (b : List Nat) : (writeBytes s a b).test = s.test := by
  obtain ⟨_, _, _, _, h⟩ := writeBytes_eq s a b; exact h.test
@[simp] theorem writeBytes_log (s : State) (a : Nat) (b : List Nat) : (writeBytes s a b).log = s.log := by
  obtain ⟨_, _, _, _, h⟩ := writeBytes_eq s a b; exact h.log

/-! ### `writeBack` -/

@[simp] theorem writeBack_pending (s : State) (n : Nat) (q : Queue) : (writeBack s n q).pending = s.pending := by
  unfold writeBack; first | rfl | ((try dsimp only); (repeat' split) <;> simp)
@[simp] theorem writeBack_start (s : State) (n : Nat) (q : Queue) : (writeBack s n q).start = s.start := by
  unfold writeBack; first | rfl | ((try dsimp only); (repeat' split) <;> simp)
@[simp] theorem writeBack_fatal (s : State) (n : Nat) (q : Queue) : (writeBack s n q).fatal = s.fatal := by
  unfold writeBack; first | rfl | ((try dsimp only); (repeat' split) <;> simp)
@[simp] theorem writeBack_alerts (s : State) (n : Nat) (q : Queue) : (writeBack s n q).alerts = s.alerts := by
  unfold writeBack; first | rfl | ((try dsimp only); (repeat' split) <;> simp)
@[simp] theorem writeBack_eeprom (s : State) (n : Nat) (q : Queue) : (writeBack s n q).eeprom = s.eeprom := by
  unfold writeBack; first | rfl | ((try dsimp only); (repeat' split) <;> simp)
@[simp] theorem writeBack_hem (s : State) (n : Nat) (q : Queue) : (writeBack s n q).hem = s.hem := by
  unfold writeBack; first | rfl | ((try dsimp only); (repeat' split) <;> simp)
@[simp] theorem writeBack_queues (s : State) (n : Nat) (q : Queue) : (writeBack s n q).queues = s.queues := by
  unfold writeBack; first | rfl | ((try dsimp only); (repeat' split) <;> simp)
@[simp] theorem writeBack_jobs (s : State) (n : Nat) (q : Queue) : (writeBack s n q).jobs = s.jobs := by
  unfold writeBack; first | rfl | ((try dsimp only); (repeat' split) <;> simp)
@[simp] theorem writeBack_jobNext (s : State) (n : Nat) (q : Queue) : (writeBack s n q).jobNext = s.jobNext := by
  unfold writeBack; first | rfl | ((try dsimp only); (repeat' split) <;> simp)
@[simp] theorem writeBack_ctxs (s : State) (n : Nat) (q : Queue) : (writeBack s n q).ctxs = s.ctxs := by
  unfold writeBack; first | rfl | ((try dsimp only); (repeat' split) <;> simp)
@[simp] theorem writeBack_models (s : State) (n : Nat) (q : Queue) : (writeBack s n q).models = s.models := by
  unfold writeBack; first | rfl | ((try dsimp only); (repeat' split) <;> simp)
@[simp] theorem writeBack_vocabs (s : State) (n : Nat) (q : Queue) : (writeBack s n q).vocabs = s.vocabs := by
  unfold writeBack; first | rfl | ((try dsimp only); (repeat' split) <;> simp)
@[simp] theorem writeBack_indexes (s : State) (n : Nat) (q : Queue) : (writeBack s n q).indexes = s.indexes := by
  unfold writeBack; first | rfl | ((try dsimp only); (repeat' split) <;> simp)
@[simp] theorem writeBack_copies (s : State) (n : Nat) (q : Queue) : (writeBack s n q).copies = s.copies := by
  unfold writeBack; first | rfl | ((try dsimp only); (repeat' split) <;> simp)
@[simp] theorem writeBack_queries (s : State) (n : Nat) (q : Queue) : (writeBack s n q).queries = s.queries := by
  unfold writeBack; first | rfl | ((try dsimp only); (repeat' split) <;> simp)
@[simp] theorem writeBack_spans (s : State) (n : Nat) (q : Queue) : (writeBack s n q).spans = s.spans := by
  unfold writeBack; first | rfl | ((try dsimp only); (repeat' split) <;> simp)
@[simp] theorem writeBack_belt (s : State) (n : Nat) (q : Queue) : (writeBack s n q).belt = s.belt := by
  unfold writeBack; first | rfl | ((try dsimp only); (repeat' split) <;> simp)
@[simp] theorem writeBack_kv (s : State) (n : Nat) (q : Queue) : (writeBack s n q).kv = s.kv := by
  unfold writeBack; first | rfl | ((try dsimp only); (repeat' split) <;> simp)
@[simp] theorem writeBack_gens (s : State) (n : Nat) (q : Queue) : (writeBack s n q).gens = s.gens := by
  unfold writeBack; first | rfl | ((try dsimp only); (repeat' split) <;> simp)
@[simp] theorem writeBack_grammars (s : State) (n : Nat) (q : Queue) : (writeBack s n q).grammars = s.grammars := by
  unfold writeBack; first | rfl | ((try dsimp only); (repeat' split) <;> simp)
@[simp] theorem writeBack_pocket (s : State) (n : Nat) (q : Queue) : (writeBack s n q).pocket = s.pocket := by
  unfold writeBack; first | rfl | ((try dsimp only); (repeat' split) <;> simp)
@[simp] theorem writeBack_acc (s : State) (n : Nat) (q : Queue) : (writeBack s n q).acc = s.acc := by
  unfold writeBack; first | rfl | ((try dsimp only); (repeat' split) <;> simp)
@[simp] theorem writeBack_array (s : State) (n : Nat) (q : Queue) : (writeBack s n q).array = s.array := by
  unfold writeBack; first | rfl | ((try dsimp only); (repeat' split) <;> simp)
@[simp] theorem writeBack_chip (s : State) (n : Nat) (q : Queue) : (writeBack s n q).chip = s.chip := by
  unfold writeBack; first | rfl | ((try dsimp only); (repeat' split) <;> simp)
@[simp] theorem writeBack_sec (s : State) (n : Nat) (q : Queue) : (writeBack s n q).sec = s.sec := by
  unfold writeBack; first | rfl | ((try dsimp only); (repeat' split) <;> simp)
@[simp] theorem writeBack_power (s : State) (n : Nat) (q : Queue) : (writeBack s n q).power = s.power := by
  unfold writeBack; first | rfl | ((try dsimp only); (repeat' split) <;> simp)
@[simp] theorem writeBack_test (s : State) (n : Nat) (q : Queue) : (writeBack s n q).test = s.test := by
  unfold writeBack; first | rfl | ((try dsimp only); (repeat' split) <;> simp)
@[simp] theorem writeBack_log (s : State) (n : Nat) (q : Queue) : (writeBack s n q).log = s.log := by
  unfold writeBack; first | rfl | ((try dsimp only); (repeat' split) <;> simp)

/-! ### `enterIdentify` -/

@[simp] theorem enterIdentify_pending (s : State) : (enterIdentify s).pending = s.pending := by
  unfold enterIdentify; first | rfl | ((try dsimp only); (repeat' split) <;> simp)
@[simp] theorem enterIdentify_fatal (s : State) : (enterIdentify s).fatal = s.fatal := by
  unfold enterIdentify; first | rfl | ((try dsimp only); (repeat' split) <;> simp)
@[simp] theorem enterIdentify_alerts (s : State) : (enterIdentify s).alerts = s.alerts := by
  unfold enterIdentify; first | rfl | ((try dsimp only); (repeat' split) <;> simp)
@[simp] theorem enterIdentify_dict (s : State) : (enterIdentify s).dict = s.dict := by
  unfold enterIdentify; first | rfl | ((try dsimp only); (repeat' split) <;> simp)
@[simp] theorem enterIdentify_hem (s : State) : (enterIdentify s).hem = s.hem := by
  unfold enterIdentify; first | rfl | ((try dsimp only); (repeat' split) <;> simp)
@[simp] theorem enterIdentify_queues (s : State) : (enterIdentify s).queues = s.queues := by
  unfold enterIdentify; first | rfl | ((try dsimp only); (repeat' split) <;> simp)
@[simp] theorem enterIdentify_jobs (s : State) : (enterIdentify s).jobs = s.jobs := by
  unfold enterIdentify; first | rfl | ((try dsimp only); (repeat' split) <;> simp)
@[simp] theorem enterIdentify_jobNext (s : State) : (enterIdentify s).jobNext = s.jobNext := by
  unfold enterIdentify; first | rfl | ((try dsimp only); (repeat' split) <;> simp)
@[simp] theorem enterIdentify_ctxs (s : State) : (enterIdentify s).ctxs = s.ctxs := by
  unfold enterIdentify; first | rfl | ((try dsimp only); (repeat' split) <;> simp)
@[simp] theorem enterIdentify_models (s : State) : (enterIdentify s).models = s.models := by
  unfold enterIdentify; first | rfl | ((try dsimp only); (repeat' split) <;> simp)
@[simp] theorem enterIdentify_vocabs (s : State) : (enterIdentify s).vocabs = s.vocabs := by
  unfold enterIdentify; first | rfl | ((try dsimp only); (repeat' split) <;> simp)
@[simp] theorem enterIdentify_indexes (s : State) : (enterIdentify s).indexes = s.indexes := by
  unfold enterIdentify; first | rfl | ((try dsimp only); (repeat' split) <;> simp)
@[simp] theorem enterIdentify_copies (s : State) : (enterIdentify s).copies = s.copies := by
  unfold enterIdentify; first | rfl | ((try dsimp only); (repeat' split) <;> simp)
@[simp] theorem enterIdentify_queries (s : State) : (enterIdentify s).queries = s.queries := by
  unfold enterIdentify; first | rfl | ((try dsimp only); (repeat' split) <;> simp)
@[simp] theorem enterIdentify_spans (s : State) : (enterIdentify s).spans = s.spans := by
  unfold enterIdentify; first | rfl | ((try dsimp only); (repeat' split) <;> simp)
@[simp] theorem enterIdentify_belt (s : State) : (enterIdentify s).belt = s.belt := by
  unfold enterIdentify; first | rfl | ((try dsimp only); (repeat' split) <;> simp)
@[simp] theorem enterIdentify_kv (s : State) : (enterIdentify s).kv = s.kv := by
  unfold enterIdentify; first | rfl | ((try dsimp only); (repeat' split) <;> simp)
@[simp] theorem enterIdentify_gens (s : State) : (enterIdentify s).gens = s.gens := by
  unfold enterIdentify; first | rfl | ((try dsimp only); (repeat' split) <;> simp)
@[simp] theorem enterIdentify_grammars (s : State) : (enterIdentify s).grammars = s.grammars := by
  unfold enterIdentify; first | rfl | ((try dsimp only); (repeat' split) <;> simp)
@[simp] theorem enterIdentify_pocket (s : State) : (enterIdentify s).pocket = s.pocket := by
  unfold enterIdentify; first | rfl | ((try dsimp only); (repeat' split) <;> simp)
@[simp] theorem enterIdentify_acc (s : State) : (enterIdentify s).acc = s.acc := by
  unfold enterIdentify; first | rfl | ((try dsimp only); (repeat' split) <;> simp)
@[simp] theorem enterIdentify_array (s : State) : (enterIdentify s).array = s.array := by
  unfold enterIdentify; first | rfl | ((try dsimp only); (repeat' split) <;> simp)
@[simp] theorem enterIdentify_mem (s : State) : (enterIdentify s).mem = s.mem := by
  unfold enterIdentify; first | rfl | ((try dsimp only); (repeat' split) <;> simp)
@[simp] theorem enterIdentify_aedup (s : State) : (enterIdentify s).aedup = s.aedup := by
  unfold enterIdentify; first | rfl | ((try dsimp only); (repeat' split) <;> simp)
@[simp] theorem enterIdentify_pelgan (s : State) : (enterIdentify s).pelgan = s.pelgan := by
  unfold enterIdentify; first | rfl | ((try dsimp only); (repeat' split) <;> simp)
@[simp] theorem enterIdentify_chip (s : State) : (enterIdentify s).chip = s.chip := by
  unfold enterIdentify; first | rfl | ((try dsimp only); (repeat' split) <;> simp)
@[simp] theorem enterIdentify_sec (s : State) : (enterIdentify s).sec = s.sec := by
  unfold enterIdentify; first | rfl | ((try dsimp only); (repeat' split) <;> simp)
@[simp] theorem enterIdentify_power (s : State) : (enterIdentify s).power = s.power := by
  unfold enterIdentify; first | rfl | ((try dsimp only); (repeat' split) <;> simp)
@[simp] theorem enterIdentify_test (s : State) : (enterIdentify s).test = s.test := by
  unfold enterIdentify; first | rfl | ((try dsimp only); (repeat' split) <;> simp)
@[simp] theorem enterIdentify_perf (s : State) : (enterIdentify s).perf = s.perf := by
  unfold enterIdentify; first | rfl | ((try dsimp only); (repeat' split) <;> simp)
@[simp] theorem enterIdentify_log (s : State) : (enterIdentify s).log = s.log := by
  unfold enterIdentify; first | rfl | ((try dsimp only); (repeat' split) <;> simp)
@[simp] theorem enterIdentify_out (s : State) : (enterIdentify s).out = s.out := by
  unfold enterIdentify; first | rfl | ((try dsimp only); (repeat' split) <;> simp)
@[simp] theorem enterIdentify_freeCount (s : State) : (enterIdentify s).freeCount = s.freeCount := by
  unfold enterIdentify; first | rfl | ((try dsimp only); (repeat' split) <;> simp)

/-! ### `setFlashState` -/

@[simp] theorem setFlashState_pending (s : State) (v : Nat) : (setFlashState s v).pending = s.pending := by
  unfold setFlashState; first | rfl | ((try dsimp only); (repeat' split) <;> simp)
@[simp] theorem setFlashState_start (s : State) (v : Nat) : (setFlashState s v).start = s.start := by
  unfold setFlashState; first | rfl | ((try dsimp only); (repeat' split) <;> simp)
@[simp] theorem setFlashState_fatal (s : State) (v : Nat) : (setFlashState s v).fatal = s.fatal := by
  unfold setFlashState; first | rfl | ((try dsimp only); (repeat' split) <;> simp)
@[simp] theorem setFlashState_alerts (s : State) (v : Nat) : (setFlashState s v).alerts = s.alerts := by
  unfold setFlashState; first | rfl | ((try dsimp only); (repeat' split) <;> simp)
@[simp] theorem setFlashState_eeprom (s : State) (v : Nat) : (setFlashState s v).eeprom = s.eeprom := by
  unfold setFlashState; first | rfl | ((try dsimp only); (repeat' split) <;> simp)
@[simp] theorem setFlashState_hem (s : State) (v : Nat) : (setFlashState s v).hem = s.hem := by
  unfold setFlashState; first | rfl | ((try dsimp only); (repeat' split) <;> simp)
@[simp] theorem setFlashState_queues (s : State) (v : Nat) : (setFlashState s v).queues = s.queues := by
  unfold setFlashState; first | rfl | ((try dsimp only); (repeat' split) <;> simp)
@[simp] theorem setFlashState_jobs (s : State) (v : Nat) : (setFlashState s v).jobs = s.jobs := by
  unfold setFlashState; first | rfl | ((try dsimp only); (repeat' split) <;> simp)
@[simp] theorem setFlashState_jobNext (s : State) (v : Nat) : (setFlashState s v).jobNext = s.jobNext := by
  unfold setFlashState; first | rfl | ((try dsimp only); (repeat' split) <;> simp)
@[simp] theorem setFlashState_ctxs (s : State) (v : Nat) : (setFlashState s v).ctxs = s.ctxs := by
  unfold setFlashState; first | rfl | ((try dsimp only); (repeat' split) <;> simp)
@[simp] theorem setFlashState_models (s : State) (v : Nat) : (setFlashState s v).models = s.models := by
  unfold setFlashState; first | rfl | ((try dsimp only); (repeat' split) <;> simp)
@[simp] theorem setFlashState_vocabs (s : State) (v : Nat) : (setFlashState s v).vocabs = s.vocabs := by
  unfold setFlashState; first | rfl | ((try dsimp only); (repeat' split) <;> simp)
@[simp] theorem setFlashState_indexes (s : State) (v : Nat) : (setFlashState s v).indexes = s.indexes := by
  unfold setFlashState; first | rfl | ((try dsimp only); (repeat' split) <;> simp)
@[simp] theorem setFlashState_copies (s : State) (v : Nat) : (setFlashState s v).copies = s.copies := by
  unfold setFlashState; first | rfl | ((try dsimp only); (repeat' split) <;> simp)
@[simp] theorem setFlashState_queries (s : State) (v : Nat) : (setFlashState s v).queries = s.queries := by
  unfold setFlashState; first | rfl | ((try dsimp only); (repeat' split) <;> simp)
@[simp] theorem setFlashState_spans (s : State) (v : Nat) : (setFlashState s v).spans = s.spans := by
  unfold setFlashState; first | rfl | ((try dsimp only); (repeat' split) <;> simp)
@[simp] theorem setFlashState_belt (s : State) (v : Nat) : (setFlashState s v).belt = s.belt := by
  unfold setFlashState; first | rfl | ((try dsimp only); (repeat' split) <;> simp)
@[simp] theorem setFlashState_kv (s : State) (v : Nat) : (setFlashState s v).kv = s.kv := by
  unfold setFlashState; first | rfl | ((try dsimp only); (repeat' split) <;> simp)
@[simp] theorem setFlashState_gens (s : State) (v : Nat) : (setFlashState s v).gens = s.gens := by
  unfold setFlashState; first | rfl | ((try dsimp only); (repeat' split) <;> simp)
@[simp] theorem setFlashState_grammars (s : State) (v : Nat) : (setFlashState s v).grammars = s.grammars := by
  unfold setFlashState; first | rfl | ((try dsimp only); (repeat' split) <;> simp)
@[simp] theorem setFlashState_pocket (s : State) (v : Nat) : (setFlashState s v).pocket = s.pocket := by
  unfold setFlashState; first | rfl | ((try dsimp only); (repeat' split) <;> simp)
@[simp] theorem setFlashState_acc (s : State) (v : Nat) : (setFlashState s v).acc = s.acc := by
  unfold setFlashState; first | rfl | ((try dsimp only); (repeat' split) <;> simp)
@[simp] theorem setFlashState_array (s : State) (v : Nat) : (setFlashState s v).array = s.array := by
  unfold setFlashState; first | rfl | ((try dsimp only); (repeat' split) <;> simp)
@[simp] theorem setFlashState_mem (s : State) (v : Nat) : (setFlashState s v).mem = s.mem := by
  unfold setFlashState; first | rfl | ((try dsimp only); (repeat' split) <;> simp)
@[simp] theorem setFlashState_chip (s : State) (v : Nat) : (setFlashState s v).chip = s.chip := by
  unfold setFlashState; first | rfl | ((try dsimp only); (repeat' split) <;> simp)
@[simp] theorem setFlashState_sec (s : State) (v : Nat) : (setFlashState s v).sec = s.sec := by
  unfold setFlashState; first | rfl | ((try dsimp only); (repeat' split) <;> simp)
@[simp] theorem setFlashState_power (s : State) (v : Nat) : (setFlashState s v).power = s.power := by
  unfold setFlashState; first | rfl | ((try dsimp only); (repeat' split) <;> simp)
@[simp] theorem setFlashState_test (s : State) (v : Nat) : (setFlashState s v).test = s.test := by
  unfold setFlashState; first | rfl | ((try dsimp only); (repeat' split) <;> simp)
@[simp] theorem setFlashState_log (s : State) (v : Nat) : (setFlashState s v).log = s.log := by
  unfold setFlashState; first | rfl | ((try dsimp only); (repeat' split) <;> simp)

/-! ### `startProgram` -/

@[simp] theorem startProgram_pending (s : State) (p : Nat) : (startProgram s p).pending = s.pending := by
  unfold startProgram; first | rfl | ((try dsimp only); (repeat' split) <;> simp)
@[simp] theorem startProgram_start (s : State) (p : Nat) : (startProgram s p).start = s.start := by
  unfold startProgram; first | rfl | ((try dsimp only); (repeat' split) <;> simp)
@[simp] theorem startProgram_fatal (s : State) (p : Nat) : (startProgram s p).fatal = s.fatal := by
  unfold startProgram; first | rfl | ((try dsimp only); (repeat' split) <;> simp)
@[simp] theorem startProgram_alerts (s : State) (p : Nat) : (startProgram s p).alerts = s.alerts := by
  unfold startProgram; first | rfl | ((try dsimp only); (repeat' split) <;> simp)
@[simp] theorem startProgram_eeprom (s : State) (p : Nat) : (startProgram s p).eeprom = s.eeprom := by
  unfold startProgram; first | rfl | ((try dsimp only); (repeat' split) <;> simp)
@[simp] theorem startProgram_hem (s : State) (p : Nat) : (startProgram s p).hem = s.hem := by
  unfold startProgram; first | rfl | ((try dsimp only); (repeat' split) <;> simp)
@[simp] theorem startProgram_queues (s : State) (p : Nat) : (startProgram s p).queues = s.queues := by
  unfold startProgram; first | rfl | ((try dsimp only); (repeat' split) <;> simp)
@[simp] theorem startProgram_jobs (s : State) (p : Nat) : (startProgram s p).jobs = s.jobs := by
  unfold startProgram; first | rfl | ((try dsimp only); (repeat' split) <;> simp)
@[simp] theorem startProgram_jobNext (s : State) (p : Nat) : (startProgram s p).jobNext = s.jobNext := by
  unfold startProgram; first | rfl | ((try dsimp only); (repeat' split) <;> simp)
@[simp] theorem startProgram_ctxs (s : State) (p : Nat) : (startProgram s p).ctxs = s.ctxs := by
  unfold startProgram; first | rfl | ((try dsimp only); (repeat' split) <;> simp)
@[simp] theorem startProgram_models (s : State) (p : Nat) : (startProgram s p).models = s.models := by
  unfold startProgram; first | rfl | ((try dsimp only); (repeat' split) <;> simp)
@[simp] theorem startProgram_vocabs (s : State) (p : Nat) : (startProgram s p).vocabs = s.vocabs := by
  unfold startProgram; first | rfl | ((try dsimp only); (repeat' split) <;> simp)
@[simp] theorem startProgram_indexes (s : State) (p : Nat) : (startProgram s p).indexes = s.indexes := by
  unfold startProgram; first | rfl | ((try dsimp only); (repeat' split) <;> simp)
@[simp] theorem startProgram_copies (s : State) (p : Nat) : (startProgram s p).copies = s.copies := by
  unfold startProgram; first | rfl | ((try dsimp only); (repeat' split) <;> simp)
@[simp] theorem startProgram_queries (s : State) (p : Nat) : (startProgram s p).queries = s.queries := by
  unfold startProgram; first | rfl | ((try dsimp only); (repeat' split) <;> simp)
@[simp] theorem startProgram_spans (s : State) (p : Nat) : (startProgram s p).spans = s.spans := by
  unfold startProgram; first | rfl | ((try dsimp only); (repeat' split) <;> simp)
@[simp] theorem startProgram_belt (s : State) (p : Nat) : (startProgram s p).belt = s.belt := by
  unfold startProgram; first | rfl | ((try dsimp only); (repeat' split) <;> simp)
@[simp] theorem startProgram_kv (s : State) (p : Nat) : (startProgram s p).kv = s.kv := by
  unfold startProgram; first | rfl | ((try dsimp only); (repeat' split) <;> simp)
@[simp] theorem startProgram_gens (s : State) (p : Nat) : (startProgram s p).gens = s.gens := by
  unfold startProgram; first | rfl | ((try dsimp only); (repeat' split) <;> simp)
@[simp] theorem startProgram_grammars (s : State) (p : Nat) : (startProgram s p).grammars = s.grammars := by
  unfold startProgram; first | rfl | ((try dsimp only); (repeat' split) <;> simp)
@[simp] theorem startProgram_pocket (s : State) (p : Nat) : (startProgram s p).pocket = s.pocket := by
  unfold startProgram; first | rfl | ((try dsimp only); (repeat' split) <;> simp)
@[simp] theorem startProgram_acc (s : State) (p : Nat) : (startProgram s p).acc = s.acc := by
  unfold startProgram; first | rfl | ((try dsimp only); (repeat' split) <;> simp)
@[simp] theorem startProgram_array (s : State) (p : Nat) : (startProgram s p).array = s.array := by
  unfold startProgram; first | rfl | ((try dsimp only); (repeat' split) <;> simp)
@[simp] theorem startProgram_chip (s : State) (p : Nat) : (startProgram s p).chip = s.chip := by
  unfold startProgram; first | rfl | ((try dsimp only); (repeat' split) <;> simp)
@[simp] theorem startProgram_sec (s : State) (p : Nat) : (startProgram s p).sec = s.sec := by
  unfold startProgram; first | rfl | ((try dsimp only); (repeat' split) <;> simp)
@[simp] theorem startProgram_power (s : State) (p : Nat) : (startProgram s p).power = s.power := by
  unfold startProgram; first | rfl | ((try dsimp only); (repeat' split) <;> simp)
@[simp] theorem startProgram_test (s : State) (p : Nat) : (startProgram s p).test = s.test := by
  unfold startProgram; first | rfl | ((try dsimp only); (repeat' split) <;> simp)
@[simp] theorem startProgram_log (s : State) (p : Nat) : (startProgram s p).log = s.log := by
  unfold startProgram; first | rfl | ((try dsimp only); (repeat' split) <;> simp)

/-! ### `copyIndexes` -/

@[simp] theorem copyIndexes_pending (s : State) : (copyIndexes s).pending = s.pending := by
  unfold copyIndexes; first | rfl | ((try dsimp only); (repeat' split) <;> simp)
@[simp] theorem copyIndexes_start (s : State) : (copyIndexes s).start = s.start := by
  unfold copyIndexes; first | rfl | ((try dsimp only); (repeat' split) <;> simp)
@[simp] theorem copyIndexes_fatal (s : State) : (copyIndexes s).fatal = s.fatal := by
  unfold copyIndexes; first | rfl | ((try dsimp only); (repeat' split) <;> simp)
@[simp] theorem copyIndexes_alerts (s : State) : (copyIndexes s).alerts = s.alerts := by
  unfold copyIndexes; first | rfl | ((try dsimp only); (repeat' split) <;> simp)
@[simp] theorem copyIndexes_regs (s : State) : (copyIndexes s).regs = s.regs := by
  unfold copyIndexes; first | rfl | ((try dsimp only); (repeat' split) <;> simp)
@[simp] theorem copyIndexes_eeprom (s : State) : (copyIndexes s).eeprom = s.eeprom := by
  unfold copyIndexes; first | rfl | ((try dsimp only); (repeat' split) <;> simp)
@[simp] theorem copyIndexes_dict (s : State) : (copyIndexes s).dict = s.dict := by
  unfold copyIndexes; first | rfl | ((try dsimp only); (repeat' split) <;> simp)
@[simp] theorem copyIndexes_hem (s : State) : (copyIndexes s).hem = s.hem := by
  unfold copyIndexes; first | rfl | ((try dsimp only); (repeat' split) <;> simp)
@[simp] theorem copyIndexes_queues (s : State) : (copyIndexes s).queues = s.queues := by
  unfold copyIndexes; first | rfl | ((try dsimp only); (repeat' split) <;> simp)
@[simp] theorem copyIndexes_jobs (s : State) : (copyIndexes s).jobs = s.jobs := by
  unfold copyIndexes; first | rfl | ((try dsimp only); (repeat' split) <;> simp)
@[simp] theorem copyIndexes_jobNext (s : State) : (copyIndexes s).jobNext = s.jobNext := by
  unfold copyIndexes; first | rfl | ((try dsimp only); (repeat' split) <;> simp)
@[simp] theorem copyIndexes_ctxs (s : State) : (copyIndexes s).ctxs = s.ctxs := by
  unfold copyIndexes; first | rfl | ((try dsimp only); (repeat' split) <;> simp)
@[simp] theorem copyIndexes_models (s : State) : (copyIndexes s).models = s.models := by
  unfold copyIndexes; first | rfl | ((try dsimp only); (repeat' split) <;> simp)
@[simp] theorem copyIndexes_vocabs (s : State) : (copyIndexes s).vocabs = s.vocabs := by
  unfold copyIndexes; first | rfl | ((try dsimp only); (repeat' split) <;> simp)
@[simp] theorem copyIndexes_indexes (s : State) : (copyIndexes s).indexes = s.indexes := by
  unfold copyIndexes; first | rfl | ((try dsimp only); (repeat' split) <;> simp)
@[simp] theorem copyIndexes_queries (s : State) : (copyIndexes s).queries = s.queries := by
  unfold copyIndexes; first | rfl | ((try dsimp only); (repeat' split) <;> simp)
@[simp] theorem copyIndexes_spans (s : State) : (copyIndexes s).spans = s.spans := by
  unfold copyIndexes; first | rfl | ((try dsimp only); (repeat' split) <;> simp)
@[simp] theorem copyIndexes_belt (s : State) : (copyIndexes s).belt = s.belt := by
  unfold copyIndexes; first | rfl | ((try dsimp only); (repeat' split) <;> simp)
@[simp] theorem copyIndexes_kv (s : State) : (copyIndexes s).kv = s.kv := by
  unfold copyIndexes; first | rfl | ((try dsimp only); (repeat' split) <;> simp)
@[simp] theorem copyIndexes_gens (s : State) : (copyIndexes s).gens = s.gens := by
  unfold copyIndexes; first | rfl | ((try dsimp only); (repeat' split) <;> simp)
@[simp] theorem copyIndexes_grammars (s : State) : (copyIndexes s).grammars = s.grammars := by
  unfold copyIndexes; first | rfl | ((try dsimp only); (repeat' split) <;> simp)
@[simp] theorem copyIndexes_pocket (s : State) : (copyIndexes s).pocket = s.pocket := by
  unfold copyIndexes; first | rfl | ((try dsimp only); (repeat' split) <;> simp)
@[simp] theorem copyIndexes_acc (s : State) : (copyIndexes s).acc = s.acc := by
  unfold copyIndexes; first | rfl | ((try dsimp only); (repeat' split) <;> simp)
@[simp] theorem copyIndexes_array (s : State) : (copyIndexes s).array = s.array := by
  unfold copyIndexes; first | rfl | ((try dsimp only); (repeat' split) <;> simp)
@[simp] theorem copyIndexes_mem (s : State) : (copyIndexes s).mem = s.mem := by
  unfold copyIndexes; first | rfl | ((try dsimp only); (repeat' split) <;> simp)
@[simp] theorem copyIndexes_aedup (s : State) : (copyIndexes s).aedup = s.aedup := by
  unfold copyIndexes; first | rfl | ((try dsimp only); (repeat' split) <;> simp)
@[simp] theorem copyIndexes_pelgan (s : State) : (copyIndexes s).pelgan = s.pelgan := by
  unfold copyIndexes; first | rfl | ((try dsimp only); (repeat' split) <;> simp)
@[simp] theorem copyIndexes_chip (s : State) : (copyIndexes s).chip = s.chip := by
  unfold copyIndexes; first | rfl | ((try dsimp only); (repeat' split) <;> simp)
@[simp] theorem copyIndexes_sec (s : State) : (copyIndexes s).sec = s.sec := by
  unfold copyIndexes; first | rfl | ((try dsimp only); (repeat' split) <;> simp)
@[simp] theorem copyIndexes_power (s : State) : (copyIndexes s).power = s.power := by
  unfold copyIndexes; first | rfl | ((try dsimp only); (repeat' split) <;> simp)
@[simp] theorem copyIndexes_test (s : State) : (copyIndexes s).test = s.test := by
  unfold copyIndexes; first | rfl | ((try dsimp only); (repeat' split) <;> simp)
@[simp] theorem copyIndexes_perf (s : State) : (copyIndexes s).perf = s.perf := by
  unfold copyIndexes; first | rfl | ((try dsimp only); (repeat' split) <;> simp)
@[simp] theorem copyIndexes_log (s : State) : (copyIndexes s).log = s.log := by
  unfold copyIndexes; first | rfl | ((try dsimp only); (repeat' split) <;> simp)
@[simp] theorem copyIndexes_out (s : State) : (copyIndexes s).out = s.out := by
  unfold copyIndexes; first | rfl | ((try dsimp only); (repeat' split) <;> simp)
@[simp] theorem copyIndexes_freeCount (s : State) : (copyIndexes s).freeCount = s.freeCount := by
  unfold copyIndexes; first | rfl | ((try dsimp only); (repeat' split) <;> simp)

/-! ### `copyMap` -/

@[simp] theorem copyMap_pending (s : State) : (copyMap s).pending = s.pending := by
  unfold copyMap; first | rfl | ((try dsimp only); (repeat' split) <;> simp)
@[simp] theorem copyMap_start (s : State) : (copyMap s).start = s.start := by
  unfold copyMap; first | rfl | ((try dsimp only); (repeat' split) <;> simp)
@[simp] theorem copyMap_fatal (s : State) : (copyMap s).fatal = s.fatal := by
  unfold copyMap; first | rfl | ((try dsimp only); (repeat' split) <;> simp)
@[simp] theorem copyMap_alerts (s : State) : (copyMap s).alerts = s.alerts := by
  unfold copyMap; first | rfl | ((try dsimp only); (repeat' split) <;> simp)
@[simp] theorem copyMap_regs (s : State) : (copyMap s).regs = s.regs := by
  unfold copyMap; first | rfl | ((try dsimp only); (repeat' split) <;> simp)
@[simp] theorem copyMap_eeprom (s : State) : (copyMap s).eeprom = s.eeprom := by
  unfold copyMap; first | rfl | ((try dsimp only); (repeat' split) <;> simp)
@[simp] theorem copyMap_dict (s : State) : (copyMap s).dict = s.dict := by
  unfold copyMap; first | rfl | ((try dsimp only); (repeat' split) <;> simp)
@[simp] theorem copyMap_hem (s : State) : (copyMap s).hem = s.hem := by
  unfold copyMap; first | rfl | ((try dsimp only); (repeat' split) <;> simp)
@[simp] theorem copyMap_queues (s : State) : (copyMap s).queues = s.queues := by
  unfold copyMap; first | rfl | ((try dsimp only); (repeat' split) <;> simp)
@[simp] theorem copyMap_jobs (s : State) : (copyMap s).jobs = s.jobs := by
  unfold copyMap; first | rfl | ((try dsimp only); (repeat' split) <;> simp)
@[simp] theorem copyMap_jobNext (s : State) : (copyMap s).jobNext = s.jobNext := by
  unfold copyMap; first | rfl | ((try dsimp only); (repeat' split) <;> simp)
@[simp] theorem copyMap_ctxs (s : State) : (copyMap s).ctxs = s.ctxs := by
  unfold copyMap; first | rfl | ((try dsimp only); (repeat' split) <;> simp)
@[simp] theorem copyMap_models (s : State) : (copyMap s).models = s.models := by
  unfold copyMap; first | rfl | ((try dsimp only); (repeat' split) <;> simp)
@[simp] theorem copyMap_vocabs (s : State) : (copyMap s).vocabs = s.vocabs := by
  unfold copyMap; first | rfl | ((try dsimp only); (repeat' split) <;> simp)
@[simp] theorem copyMap_indexes (s : State) : (copyMap s).indexes = s.indexes := by
  unfold copyMap; first | rfl | ((try dsimp only); (repeat' split) <;> simp)
@[simp] theorem copyMap_copies (s : State) : (copyMap s).copies = s.copies := by
  unfold copyMap; first | rfl | ((try dsimp only); (repeat' split) <;> simp)
@[simp] theorem copyMap_queries (s : State) : (copyMap s).queries = s.queries := by
  unfold copyMap; first | rfl | ((try dsimp only); (repeat' split) <;> simp)
@[simp] theorem copyMap_spans (s : State) : (copyMap s).spans = s.spans := by
  unfold copyMap; first | rfl | ((try dsimp only); (repeat' split) <;> simp)
@[simp] theorem copyMap_belt (s : State) : (copyMap s).belt = s.belt := by
  unfold copyMap; first | rfl | ((try dsimp only); (repeat' split) <;> simp)
@[simp] theorem copyMap_kv (s : State) : (copyMap s).kv = s.kv := by
  unfold copyMap; first | rfl | ((try dsimp only); (repeat' split) <;> simp)
@[simp] theorem copyMap_gens (s : State) : (copyMap s).gens = s.gens := by
  unfold copyMap; first | rfl | ((try dsimp only); (repeat' split) <;> simp)
@[simp] theorem copyMap_grammars (s : State) : (copyMap s).grammars = s.grammars := by
  unfold copyMap; first | rfl | ((try dsimp only); (repeat' split) <;> simp)
@[simp] theorem copyMap_pocket (s : State) : (copyMap s).pocket = s.pocket := by
  unfold copyMap; first | rfl | ((try dsimp only); (repeat' split) <;> simp)
@[simp] theorem copyMap_acc (s : State) : (copyMap s).acc = s.acc := by
  unfold copyMap; first | rfl | ((try dsimp only); (repeat' split) <;> simp)
@[simp] theorem copyMap_array (s : State) : (copyMap s).array = s.array := by
  unfold copyMap; first | rfl | ((try dsimp only); (repeat' split) <;> simp)
@[simp] theorem copyMap_aedup (s : State) : (copyMap s).aedup = s.aedup := by
  unfold copyMap; first | rfl | ((try dsimp only); (repeat' split) <;> simp)
@[simp] theorem copyMap_pelgan (s : State) : (copyMap s).pelgan = s.pelgan := by
  unfold copyMap; first | rfl | ((try dsimp only); (repeat' split) <;> simp)
@[simp] theorem copyMap_chip (s : State) : (copyMap s).chip = s.chip := by
  unfold copyMap; first | rfl | ((try dsimp only); (repeat' split) <;> simp)
@[simp] theorem copyMap_sec (s : State) : (copyMap s).sec = s.sec := by
  unfold copyMap; first | rfl | ((try dsimp only); (repeat' split) <;> simp)
@[simp] theorem copyMap_power (s : State) : (copyMap s).power = s.power := by
  unfold copyMap; first | rfl | ((try dsimp only); (repeat' split) <;> simp)
@[simp] theorem copyMap_test (s : State) : (copyMap s).test = s.test := by
  unfold copyMap; first | rfl | ((try dsimp only); (repeat' split) <;> simp)
@[simp] theorem copyMap_perf (s : State) : (copyMap s).perf = s.perf := by
  unfold copyMap; first | rfl | ((try dsimp only); (repeat' split) <;> simp)
@[simp] theorem copyMap_log (s : State) : (copyMap s).log = s.log := by
  unfold copyMap; first | rfl | ((try dsimp only); (repeat' split) <;> simp)
@[simp] theorem copyMap_out (s : State) : (copyMap s).out = s.out := by
  unfold copyMap; first | rfl | ((try dsimp only); (repeat' split) <;> simp)
@[simp] theorem copyMap_freeCount (s : State) : (copyMap s).freeCount = s.freeCount := by
  unfold copyMap; first | rfl | ((try dsimp only); (repeat' split) <;> simp)

/-! ### `settleFlush` -/

@[simp] theorem settleFlush_pending (s : State) : (settleFlush s).pending = s.pending := by
  unfold settleFlush; first | rfl | ((try dsimp only); (repeat' split) <;> simp)
@[simp] theorem settleFlush_start (s : State) : (settleFlush s).start = s.start := by
  unfold settleFlush; first | rfl | ((try dsimp only); (repeat' split) <;> simp)
@[simp] theorem settleFlush_fatal (s : State) : (settleFlush s).fatal = s.fatal := by
  unfold settleFlush; first | rfl | ((try dsimp only); (repeat' split) <;> simp)
@[simp] theorem settleFlush_alerts (s : State) : (settleFlush s).alerts = s.alerts := by
  unfold settleFlush; first | rfl | ((try dsimp only); (repeat' split) <;> simp)
@[simp] theorem settleFlush_regs (s : State) : (settleFlush s).regs = s.regs := by
  unfold settleFlush; first | rfl | ((try dsimp only); (repeat' split) <;> simp)
@[simp] theorem settleFlush_eeprom (s : State) : (settleFlush s).eeprom = s.eeprom := by
  unfold settleFlush; first | rfl | ((try dsimp only); (repeat' split) <;> simp)
@[simp] theorem settleFlush_dict (s : State) : (settleFlush s).dict = s.dict := by
  unfold settleFlush; first | rfl | ((try dsimp only); (repeat' split) <;> simp)
@[simp] theorem settleFlush_hem (s : State) : (settleFlush s).hem = s.hem := by
  unfold settleFlush; first | rfl | ((try dsimp only); (repeat' split) <;> simp)
@[simp] theorem settleFlush_queues (s : State) : (settleFlush s).queues = s.queues := by
  unfold settleFlush; first | rfl | ((try dsimp only); (repeat' split) <;> simp)
@[simp] theorem settleFlush_jobs (s : State) : (settleFlush s).jobs = s.jobs := by
  unfold settleFlush; first | rfl | ((try dsimp only); (repeat' split) <;> simp)
@[simp] theorem settleFlush_jobNext (s : State) : (settleFlush s).jobNext = s.jobNext := by
  unfold settleFlush; first | rfl | ((try dsimp only); (repeat' split) <;> simp)
@[simp] theorem settleFlush_ctxs (s : State) : (settleFlush s).ctxs = s.ctxs := by
  unfold settleFlush; first | rfl | ((try dsimp only); (repeat' split) <;> simp)
@[simp] theorem settleFlush_models (s : State) : (settleFlush s).models = s.models := by
  unfold settleFlush; first | rfl | ((try dsimp only); (repeat' split) <;> simp)
@[simp] theorem settleFlush_vocabs (s : State) : (settleFlush s).vocabs = s.vocabs := by
  unfold settleFlush; first | rfl | ((try dsimp only); (repeat' split) <;> simp)
@[simp] theorem settleFlush_indexes (s : State) : (settleFlush s).indexes = s.indexes := by
  unfold settleFlush; first | rfl | ((try dsimp only); (repeat' split) <;> simp)
@[simp] theorem settleFlush_queries (s : State) : (settleFlush s).queries = s.queries := by
  unfold settleFlush; first | rfl | ((try dsimp only); (repeat' split) <;> simp)
@[simp] theorem settleFlush_spans (s : State) : (settleFlush s).spans = s.spans := by
  unfold settleFlush; first | rfl | ((try dsimp only); (repeat' split) <;> simp)
@[simp] theorem settleFlush_belt (s : State) : (settleFlush s).belt = s.belt := by
  unfold settleFlush; first | rfl | ((try dsimp only); (repeat' split) <;> simp)
@[simp] theorem settleFlush_kv (s : State) : (settleFlush s).kv = s.kv := by
  unfold settleFlush; first | rfl | ((try dsimp only); (repeat' split) <;> simp)
@[simp] theorem settleFlush_gens (s : State) : (settleFlush s).gens = s.gens := by
  unfold settleFlush; first | rfl | ((try dsimp only); (repeat' split) <;> simp)
@[simp] theorem settleFlush_grammars (s : State) : (settleFlush s).grammars = s.grammars := by
  unfold settleFlush; first | rfl | ((try dsimp only); (repeat' split) <;> simp)
@[simp] theorem settleFlush_pocket (s : State) : (settleFlush s).pocket = s.pocket := by
  unfold settleFlush; first | rfl | ((try dsimp only); (repeat' split) <;> simp)
@[simp] theorem settleFlush_acc (s : State) : (settleFlush s).acc = s.acc := by
  unfold settleFlush; first | rfl | ((try dsimp only); (repeat' split) <;> simp)
@[simp] theorem settleFlush_array (s : State) : (settleFlush s).array = s.array := by
  unfold settleFlush; first | rfl | ((try dsimp only); (repeat' split) <;> simp)
@[simp] theorem settleFlush_aedup (s : State) : (settleFlush s).aedup = s.aedup := by
  unfold settleFlush; first | rfl | ((try dsimp only); (repeat' split) <;> simp)
@[simp] theorem settleFlush_pelgan (s : State) : (settleFlush s).pelgan = s.pelgan := by
  unfold settleFlush; first | rfl | ((try dsimp only); (repeat' split) <;> simp)
@[simp] theorem settleFlush_chip (s : State) : (settleFlush s).chip = s.chip := by
  unfold settleFlush; first | rfl | ((try dsimp only); (repeat' split) <;> simp)
@[simp] theorem settleFlush_sec (s : State) : (settleFlush s).sec = s.sec := by
  unfold settleFlush; first | rfl | ((try dsimp only); (repeat' split) <;> simp)
@[simp] theorem settleFlush_power (s : State) : (settleFlush s).power = s.power := by
  unfold settleFlush; first | rfl | ((try dsimp only); (repeat' split) <;> simp)
@[simp] theorem settleFlush_test (s : State) : (settleFlush s).test = s.test := by
  unfold settleFlush; first | rfl | ((try dsimp only); (repeat' split) <;> simp)
@[simp] theorem settleFlush_perf (s : State) : (settleFlush s).perf = s.perf := by
  unfold settleFlush; first | rfl | ((try dsimp only); (repeat' split) <;> simp)
@[simp] theorem settleFlush_log (s : State) : (settleFlush s).log = s.log := by
  unfold settleFlush; first | rfl | ((try dsimp only); (repeat' split) <;> simp)
@[simp] theorem settleFlush_out (s : State) : (settleFlush s).out = s.out := by
  unfold settleFlush; first | rfl | ((try dsimp only); (repeat' split) <;> simp)
@[simp] theorem settleFlush_freeCount (s : State) : (settleFlush s).freeCount = s.freeCount := by
  unfold settleFlush; first | rfl | ((try dsimp only); (repeat' split) <;> simp)

end Sys2Proof.Machine
end

