-- ==== Sys2Proof/Laws/Beat.lean ====
section
/-! SUPPORT. What counts brought up to date, exports, and the end of the boundary sequence leave as they are. -/

namespace Sys2Proof.Machine

theorem side_advanceOne (s : State) (tab : Tab Nat) (key buffer : Nat) (ctx : Option Nat) (p : Nat × Nat) (t : Trace) :
    Side s (advanceOne s tab key buffer ctx p t).2 :=
  (side_perf_free s s.perf (s.freeCount + 1) rfl).trans (side_takeSamples _ _ _ _ _ _ _ _ _)

/-- Bringing the counters of timed events up to date changes counters, samples and open values. -/
theorem side_advanceTimed (s : State) : Side s (advanceTimed s) := by
  unfold advanceTimed
  dsimp only
  refine Side.trans ?_ (side_foldl _ _ (fun t p => side_foldl _ _ (fun u r => ?_) t) _)
  · refine side_foldl _ _ (fun t p => side_foldl _ _ (fun u b => ?_) t) s
    split
    · exact (side_advanceOne _ _ _ _ _ _ _).trans (side_perf _ _ rfl)
    · exact .refl u
  · exact (side_advanceOne _ _ _ _ _ _ _).trans (side_perf _ _ rfl)

theorem side_settleSent (s : State) : Side s (settleSent s) := by
  unfold settleSent
  dsimp only
  refine Side.trans ((side_countChip s 0x302 s.perf.sentAedup {}).trans (side_countChip _ 0x305 s.perf.sentPelgan {})) ?_
  exact side_perf _ _ rfl

theorem side_freshCounts (s : State) : Side s (freshCounts s) := (side_settleSent s).trans (side_advanceTimed _)

/-- What the writes of exports leave as it is. -/
structure ExportKeeps (s t : State) : Prop where
  start : t.start = s.start
  hem : t.hem = s.hem
  ctxs : t.ctxs = s.ctxs
  jobs : t.jobs = s.jobs
  queues : t.queues = s.queues
  power : t.power = s.power
  chip : t.chip = s.chip
  gens : t.gens = s.gens
  regs : ∀ k, sideKey k = false → k ≠ Key.PERF_EXPORT_FAILS → reg t k = reg s k

theorem ExportKeeps.refl (s : State) : ExportKeeps s s := ⟨rfl, rfl, rfl, rfl, rfl, rfl, rfl, rfl, fun _ _ _ => rfl⟩

theorem ExportKeeps.trans {a b c : State} (h : ExportKeeps a b) (k : ExportKeeps b c) : ExportKeeps a c :=
  ⟨k.1.trans h.1, k.2.trans h.2, k.3.trans h.3, k.4.trans h.4, k.5.trans h.5, k.6.trans h.6, k.7.trans h.7,
    k.8.trans h.8, fun x p q => (k.9 x p q).trans (h.9 x p q)⟩

theorem ExportKeeps.of_units {s t : State} (h : UnitsOnly s t) : ExportKeeps s t := by
  obtain ⟨us, rfl⟩ := h
  exact ⟨rfl, rfl, rfl, rfl, rfl, rfl, rfl, rfl, fun _ _ _ => rfl⟩

theorem ExportKeeps.of_side {s t : State} (h : Side s t) : ExportKeeps s t :=
  ⟨h.start, h.hem, h.ctxs, h.jobs, h.queues, h.power, h.chip, h.gens, fun k hk _ => h.regs k hk⟩

theorem exportKeeps_writeBytes (s : State) (a : Nat) (bs : List Nat) : ExportKeeps s (writeBytes s a bs) := by
  obtain ⟨_, _, _, _, h⟩ := writeBytes_eq s a bs
  exact ⟨h.start, h.hem, h.ctxs, h.jobs, h.queues, h.power, h.chip, h.gens, fun k hk _ => h.regs k hk⟩

theorem exportKeeps_exports (s : State) (l : List (Nat × List Nat)) :
    ExportKeeps s { s with perf := { s.perf with exports := l } } :=
  ⟨rfl, rfl, rfl, rfl, rfl, rfl, rfl, rfl, fun _ _ _ => rfl⟩

theorem exportKeeps_fails (s : State) : ExportKeeps s (bump s Key.PERF_EXPORT_FAILS 1) :=
  ⟨rfl, rfl, rfl, rfl, rfl, rfl, rfl, rfl, fun _ _ h => reg_bump_ne _ _ h⟩

theorem exportKeeps_step (n : Nat) (s : State) : ExportKeeps s (exportStep n s) := by
  induction n generalizing s with
  | zero => exact .refl s
  | succ n ih =>
    unfold exportStep
    split
    · exact .refl s
    · next a bs rest _ =>
      dsimp only
      split
      · exact ((exportKeeps_exports s _).trans (exportKeeps_fails _)).trans (ih _)
      · have hp := prepareWrite_units s a bs.length
        revert hp
        cases prepareWrite s a bs.length with
        | ready t =>
          intro hp
          exact (((ExportKeeps.of_units hp).trans (exportKeeps_writeBytes t a bs)).trans
            (exportKeeps_exports _ _)).trans (ih _)
        | wait t => exact fun hp => .of_units hp
        | fail t st =>
          intro hp
          exact (((ExportKeeps.of_units hp).trans (exportKeeps_exports t _)).trans (exportKeeps_fails _)).trans (ih _)

theorem exportKeeps_sweep (s : State) : ExportKeeps s (exportSweep s) := exportKeeps_step _ _

/-- A boundary sequence ends with the beat that it begins: its number, no event fired, no window open, no flit used again. -/
theorem boundarySeq_begins (s : State) (number ns : Nat) (late : List Nat) :
    beatNow (boundarySeq s number ns late) = number % 2 ^ 64 ∧ (boundarySeq s number ns late).hem.fired = [] ∧
      (boundarySeq s number ns late).hem.windows = [] ∧ (boundarySeq s number ns late).hem.flit = none ∧
      (boundarySeq s number ns late).hem.announced = false := by
  unfold boundarySeq
  dsimp only
  generalize stepFive _ = u
  have h := exportKeeps_sweep (stepSix u (beatNow s + 1) number ns)
  have g : ∃ v : State, v.hem.fired = [] ∧ v.hem.windows = [] ∧ v.hem.flit = none ∧ v.hem.announced = false ∧
      beatNow v = number % 2 ^ 64 ∧ Side v (stepSix u (beatNow s + 1) number ns) := by
    unfold stepSix
    refine ⟨_, ?_, ?_, ?_, ?_, ?_, side_countChip _ _ _ _⟩ <;> first | rfl | exact reg_setReg_self _ _ _
  obtain ⟨v, h1, h2, h3, h4, h5, k⟩ := g
  rw [beatNow, h.regs _ (by decide) (by decide), k.regs _ (by decide), h.hem, k.hem]
  exact ⟨h5, h1, h2, h3, h4⟩

end Sys2Proof.Machine
end

