-- ==== Sys2Proof/Laws/Bits.lean ====
section
/-! SUPPORT. Fields of numbers: reading back what was put in, and what is left alone. -/

namespace Sys2Proof.Machine

/-- The parts of a number with a field replaced lie one above the other. -/
theorem setField_parts (v lo n x : Nat) :
    setField v lo n x = v % 2 ^ lo + 2 ^ lo * (x % 2 ^ n + 2 ^ n * (v / 2 ^ (lo + n))) := by
  unfold setField
  rw [Nat.pow_add, Nat.mul_add, Nat.mul_comm (v / _), Nat.mul_comm (x % _), Nat.mul_assoc]
  omega

/-- The field that was put in is read back. -/
theorem field_setField_self (v lo n x : Nat) : field (setField v lo n x) lo n = x % 2 ^ n := by
  rw [setField_parts, field, Nat.add_mul_div_left _ _ (Nat.two_pow_pos lo),
    Nat.div_eq_of_lt (Nat.mod_lt _ (Nat.two_pow_pos lo)), Nat.zero_add, Nat.add_mul_mod_self_left,
    Nat.mod_eq_of_lt (Nat.mod_lt _ (Nat.two_pow_pos n))]

/-- A field below the one that was put in is as it was. -/
theorem field_setField_below (v lo n x : Nat) {a m : Nat} (h : a + m ≤ lo) :
    field (setField v lo n x) a m = field v a m := by
  obtain ⟨d, rfl⟩ := Nat.le.dest h
  have e : ∀ w : Nat, field w a m = w % 2 ^ (a + m) / 2 ^ a := fun w => by
    rw [field, Nat.pow_add, Nat.mod_mul_right_div_self]
  rw [e, e, setField_parts, Nat.pow_add _ (a + m), Nat.mul_assoc, Nat.add_mul_mod_self_left, Nat.mod_mul_right_mod]

/-- A field above the one that was put in is as it was. -/
theorem field_setField_above (v lo n x : Nat) {a m : Nat} (h : lo + n ≤ a) :
    field (setField v lo n x) a m = field v a m := by
  obtain ⟨d, rfl⟩ := Nat.le.dest h
  have e : ∀ w : Nat, w / 2 ^ (lo + n + d) = w / 2 ^ lo / 2 ^ n / 2 ^ d := fun w => by
    rw [Nat.pow_add, Nat.pow_add, Nat.div_div_eq_div_mul, Nat.div_div_eq_div_mul, Nat.mul_assoc]
  rw [field, field, e, e, setField_parts, Nat.add_mul_div_left _ _ (Nat.two_pow_pos lo),
    Nat.div_eq_of_lt (Nat.mod_lt _ (Nat.two_pow_pos lo)), Nat.zero_add, Nat.add_mul_div_left _ _ (Nat.two_pow_pos n),
    Nat.div_eq_of_lt (Nat.mod_lt _ (Nat.two_pow_pos n)), Nat.zero_add, Nat.pow_add, ← Nat.div_div_eq_div_mul]

/-- A bit is a field of one bit. -/
theorem bitOf_eq_field (v i : Nat) : bitOf v i = (field v i 1 == 1) := rfl

theorem bitOf_setField_self (v i x : Nat) : bitOf (setField v i 1 x) i = (x % 2 == 1) := by
  rw [bitOf_eq_field, field_setField_self, Nat.pow_one]

theorem bitOf_setField_ne (v x : Nat) {i j : Nat} (h : j ≠ i) : bitOf (setField v i 1 x) j = bitOf v j := by
  rw [bitOf_eq_field, bitOf_eq_field]
  rcases Nat.lt_or_gt_of_ne h with h | h
  · rw [field_setField_below _ _ _ _ (by omega)]
  · rw [field_setField_above _ _ _ _ (by omega)]

end Sys2Proof.Machine
end

