-- ==== Sys2Proof/Laws/Faults.lean ====
section
/-! SUPPORT. What faulting a context and quarantining a block write of the entries, and of the chip's own state. -/

namespace Sys2Proof.Machine

/-- The entries that an abort, a fault of a context and a quarantine write. -/
def faultKey (k : Nat) : Bool :=
  sideKey k || k == Key.RESET_LOG_SEQ || k == Key.CTX_HUNG || k == Key.PELGAN_ABORTS_SENT ||
    k == Key.CHIP_QUARANTINE_EVENTS || k / 256 == 0x1212

theorem side_of_fault {k : Nat} (h : faultKey k = false) : sideKey k = false := by
  simp only [faultKey, Bool.or_eq_false_iff] at h
  exact h.1.1.1.1.1

@[simp] theorem mem_insertUp (a x : Nat) (l : List Nat) : x ∈ insertUp a l ↔ x = a ∨ x ∈ l := by
  induction l with
  | nil => simp [insertUp]
  | cons b l ih =>
    unfold insertUp
    split
    · simp
    · simp only [List.mem_cons, ih]
      exact or_left_comm

theorem reg_logError (s : State) (u : LogUnit) (i st c : Nat) (a : LogAction) (d : Nat) {k : Nat}
    (h : k ≠ Key.RESET_LOG_SEQ) : reg (logError s u i st c a d) k = reg s k := by
  unfold logError
  exact (reg_setReg_ne _ _ h).trans rfl

theorem reg_sendAbort (s : State) (o j g c : Nat) (e : Option Nat) {k : Nat} (h : sideKey k = false) :
    reg (sendAbort s o j g c e) k = reg s k := by
  unfold sendAbort
  exact (side_foldl _ _ (fun t _ => side_send t _) s).regs k h

theorem reg_beginAbort (s : State) (j c : Nat) {k : Nat} (hj : j < 255) (h : faultKey k = false) :
    reg (beginAbort s j c) k = reg s k := by
  have hs := side_of_fault h
  simp only [faultKey, Bool.or_eq_false_iff, beq_eq_false_iff_ne] at h
  have hk : k ≠ Key.PELGAN_JOB j := by
    intro e
    apply h.2
    rw [e]
    unfold Key.PELGAN_JOB
    omega
  unfold beginAbort
  dsimp only
  split
  · refine (reg_congr (s := countChip _ _ _ _) rfl k).trans ((side_countChip _ _ _ _).regs k hs |>.trans ?_)
    rw [reg_bump_ne _ _ h.1.1.2, reg_sendAbort _ _ _ _ _ _ hs, reg_setReg_ne _ _ hk]
  · rfl

theorem boundJob_lt {s : State} {c j : Nat} (h : boundJob s c = some j) : j < 255 := by
  unfold boundJob at h
  simp only at h
  split at h
  · next e => cases h; exact e
  · cases h

theorem reg_fenceBy (s : State) (c st : Nat) (b : Option Nat) (a : Bool) (u : LogUnit) (i : Nat) {k : Nat}
    (h : faultKey k = false) : reg (fenceBy s c st b a u i) k = reg s k := by
  have h' := h
  simp only [faultKey, Bool.or_eq_false_iff, beq_eq_false_iff_ne] at h
  have hl := h.1.1.1.1.2
  unfold fenceBy
  dsimp only
  split
  · rfl
  · exact reg_logError _ _ _ _ _ _ _ hl
  · exact reg_logError _ _ _ _ _ _ _ hl
  · have e1 : reg (if a = true then s else logError s u i st c LogAction.teardown 0) k = reg s k := by
      split
      · rfl
      · exact reg_logError _ _ _ _ _ _ _ hl
    split
    · next hj =>
      rw [reg_beginAbort _ _ _ (boundJob_lt hj) h']
      split
      · rw [reg_bump_ne _ _ h.1.1.1.2]
        exact e1
      · exact e1
    · split
      · rw [reg_bump_ne _ _ h.1.1.1.2]
        exact e1
      · exact e1

theorem reg_faultCtx (s : State) (c st : Nat) {k : Nat} (h : faultKey k = false) :
    reg (faultCtx s c st) k = reg s k := reg_fenceBy _ _ _ _ _ _ _ h

/-- A quarantine of an available block fences it and counts it, in the EEPROM too; its slice is over. -/
theorem quarantineAs_chip {s : State} {b : Nat} (st d : Nat) (h : blockAvailable s b = true) :
    (quarantineAs s b st d).chip = { s.chip with fenced := insertUp b s.chip.fenced } := by
  unfold quarantineAs
  rw [if_pos h]
  simp only [notify_chip]
  split <;> simp

theorem quarantineAs_eeprom {s : State} {b : Nat} (st d : Nat) (h : blockAvailable s b = true) :
    (quarantineAs s b st d).eeprom = { s.eeprom with quarantines := s.eeprom.quarantines + 1 } := by
  unfold quarantineAs
  rw [if_pos h]
  simp only [notify_eeprom]
  split <;> simp

theorem quarantineAs_test {s : State} {b : Nat} (st d : Nat) (h : blockAvailable s b = true) :
    (quarantineAs s b st d).test = { s.test with slices := tabDel s.test.slices b } := by
  unfold quarantineAs
  rw [if_pos h]
  simp only [notify_test]
  split <;> simp

theorem reg_quarantineAs (s : State) (b st d : Nat) {k : Nat} (h : faultKey k = false) :
    reg (quarantineAs s b st d) k = reg s k := by
  have hs := side_of_fault h
  have h' := h
  simp only [faultKey, Bool.or_eq_false_iff, beq_eq_false_iff_ne] at h
  have hl := h.1.1.1.1.2
  unfold quarantineAs
  split
  · dsimp only
    rw [reg_notify _ _ _ _ hs]
    split
    · refine (reg_congr (s := faultCtx _ _ _) rfl k).trans ?_
      rw [reg_faultCtx _ _ _ h']
      refine (reg_congr (s := bump _ _ _) rfl k).trans ?_
      rw [reg_bump_ne _ _ h.1.2, reg_logError _ _ _ _ _ _ _ hl]
      rfl
    · refine (reg_congr (s := bump _ _ _) rfl k).trans ?_
      rw [reg_bump_ne _ _ h.1.2, reg_logError _ _ _ _ _ _ _ hl]
      rfl
  · rfl

end Sys2Proof.Machine
end

