-- ==== Sys2Proof/Laws/Writes.lean ====
section
/-! SUPPORT. What the service of the dictionary does with one request that it is free for: the checks, the effect of the
entry, and the reply. -/

namespace Sys2Proof.Machine

/-! ### The reply -/

theorem side_sendTo (s : State) (o j d t v : Nat) : Side s (sendTo s o j d t v) := by
  unfold sendTo
  split
  · exact side_send _ _
  · exact .refl s

/-- A reply on the mailbox changes the mailbox page and its readiness. -/
theorem answer_mailbox (s : State) {p : Reply} (h : p.path = .mailbox) :
    ∃ page, answer s p = { s with dict := { s.dict with mailbox := page, mailboxBusy := false } } := by
  unfold answer
  rw [h]
  exact ⟨_, rfl⟩

theorem answer_dict (s : State) (p : Reply) :
    (answer s p).dict = { s.dict with
      mailbox := (answer s p).dict.mailbox, mailboxBusy := (answer s p).dict.mailboxBusy,
      replay := (answer s p).dict.replay, notifySeq := (answer s p).dict.notifySeq,
      notifyTimes := (answer s p).dict.notifyTimes } := by
  cases h : p.path with
  | mailbox =>
    obtain ⟨page, e⟩ := answer_mailbox s h
    rw [e]
  | dictReq =>
    unfold answer
    rw [h]
    exact (side_sendTo _ _ _ _ _ _).dict ▸ rfl
  | mgmt =>
    unfold answer sendMgmt
    rw [h]
    exact (side_send _ _).dict ▸ rfl

theorem answer_aedup (s : State) (p : Reply) : (answer s p).aedup = { s.aedup with link := (answer s p).aedup.link } := by
  cases h : p.path with
  | mailbox =>
    obtain ⟨page, e⟩ := answer_mailbox s h
    rw [e]
  | dictReq =>
    unfold answer
    rw [h]
    exact (side_sendTo _ _ _ _ _ _).aedup
  | mgmt =>
    unfold answer sendMgmt
    rw [h]
    exact (side_send _ _).aedup

theorem answer_pelgan (s : State) (p : Reply) :
    (answer s p).pelgan = { s.pelgan with links := (answer s p).pelgan.links } := by
  cases h : p.path with
  | mailbox =>
    obtain ⟨page, e⟩ := answer_mailbox s h
    rw [e]
  | dictReq =>
    unfold answer
    rw [h]
    exact (side_sendTo _ _ _ _ _ _).pelgan
  | mgmt =>
    unfold answer sendMgmt
    rw [h]
    exact (side_send _ _).pelgan

theorem reg_answer (s : State) (p : Reply) {k : Nat} (hk : sideKey k = false) : reg (answer s p) k = reg s k := by
  cases h : p.path with
  | mailbox =>
    obtain ⟨page, e⟩ := answer_mailbox s h
    rw [e]; rfl
  | dictReq =>
    unfold answer
    rw [h]
    exact (side_sendTo _ _ _ _ _ _).regs k hk
  | mgmt =>
    unfold answer sendMgmt
    rw [h]
    exact (side_send _ _).regs k hk

/-- The entries that the completion of a request writes. -/
def replyKey (k : Nat) : Bool := sideKey k || k == Key.DICT_REQUESTS || k == Key.DICT_REFUSED

theorem reg_completeRequest (s : State) (q : Request) (st n d : Nat) {k : Nat} (h : replyKey k = false) :
    reg (completeRequest s q st n d) k = reg s k := by
  simp only [replyKey, Bool.or_eq_false_iff, beq_eq_false_iff_ne] at h
  unfold completeRequest
  simp only []
  rw [reg_answer _ _ h.1.1, reg_countChip _ _ _ _ h.1.1]
  show reg (if _ then _ else _) k = _
  split
  · exact reg_bump_ne _ _ h.1.2
  · rw [reg_bump_ne _ _ h.2, reg_bump_ne _ _ h.1.2]

theorem completeRequest_dict (s : State) (q : Request) (st n d : Nat) :
    let t := completeRequest s q st n d
    t.dict = { s.dict with
      last := some (replyOf q st n d), mailbox := t.dict.mailbox, mailboxBusy := t.dict.mailboxBusy,
      replay := t.dict.replay, notifySeq := t.dict.notifySeq, notifyTimes := t.dict.notifyTimes } := by
  unfold completeRequest
  simp only []
  rw [answer_dict, (side_countChip _ _ _ _).dict]
  split <;> rfl

theorem completeRequest_aedup (s : State) (q : Request) (st n d : Nat) :
    (completeRequest s q st n d).aedup = { s.aedup with link := (completeRequest s q st n d).aedup.link } := by
  unfold completeRequest
  simp only []
  rw [answer_aedup, (side_countChip _ _ _ _).aedup]
  split <;> rfl

/-- A link that is not ACTIVE stays as it is while a request completes. -/
theorem completeRequest_link (s : State) (q : Request) (st n d : Nat) (h : s.aedup.link.state ≠ .active) :
    (completeRequest s q st n d).aedup.link.state = s.aedup.link.state := by
  have side {a b : State} (k : Side a b) (ha : a.aedup.link.state ≠ .active) :
      b.aedup.link.state = a.aedup.link.state := k.linkState.resolve_right (fun e => ha e.1)
  have reply (u : State) (p : Reply) (hu : u.aedup.link.state ≠ .active) :
      (answer u p).aedup.link.state = u.aedup.link.state := by
    cases e : p.path with
    | mailbox => obtain ⟨page, e⟩ := answer_mailbox u e; rw [e]
    | dictReq => unfold answer; rw [e]; exact side (side_sendTo _ _ _ _ _ _) hu
    | mgmt => unfold answer sendMgmt; rw [e]; exact (side (side_send _ _) (by exact hu)).trans rfl
  unfold completeRequest
  simp only []
  have e1 : ∀ (c : Bool) (x : Reply), ({ (if c = true then bump s Key.DICT_REQUESTS 1
      else bump (bump s Key.DICT_REQUESTS 1) Key.DICT_REFUSED 1) with dict := { (if c = true then bump s Key.DICT_REQUESTS 1
      else bump (bump s Key.DICT_REQUESTS 1) Key.DICT_REFUSED 1).dict with last := some x } } : State).aedup.link.state =
      s.aedup.link.state := fun c x => by split <;> rfl
  have e2 := side (side_countChip _ 0x308 1 {}) ((e1 (isSuccess st) (replyOf q st n d)).symm ▸ h)
  rw [reply _ _ (by rw [e2, e1]; exact h), e2, e1]

theorem completeRequest_pelgan (s : State) (q : Request) (st n d : Nat) :
    (completeRequest s q st n d).pelgan = { s.pelgan with links := (completeRequest s q st n d).pelgan.links } := by
  unfold completeRequest
  simp only []
  rw [answer_pelgan, (side_countChip _ _ _ _).pelgan]
  split <;> rfl

@[simp] theorem completeRequest_last (s : State) (q : Request) (st n d : Nat) :
    (completeRequest s q st n d).dict.last = some (replyOf q st n d) := by rw [completeRequest_dict]

@[simp] theorem completeRequest_wb (s : State) (q : Request) (st n d : Nat) :
    (completeRequest s q st n d).dict.wb = s.dict.wb := by rw [completeRequest_dict]

@[simp] theorem completeRequest_locks (s : State) (q : Request) (st n d : Nat) :
    (completeRequest s q st n d).dict.locks = s.dict.locks := by rw [completeRequest_dict]

/-! ### A request that the service is free for -/

/-- A state that has taken a request from a path. -/
def atService (s : State) (p : Path) : State :=
  if p == .mailbox then { s with dict := { s.dict with mailboxBusy := true } } else s

theorem serviceFree_parts {s : State} {p : Path} (h : serviceFree s p = true) :
    pathOpen s p = true ∧ s.dict.waiting = none ∧ s.dict.backlog = [] ∧ (p = .mailbox → s.dict.mailboxBusy = false) := by
  simp only [serviceFree, Bool.and_eq_true, Option.isNone_iff_eq_none, List.isEmpty_iff, Bool.or_eq_true, bne_iff_ne,
    Bool.not_eq_true'] at h
  exact ⟨h.1.1.1, h.1.1.2, h.1.2, fun e => h.2.resolve_left (fun g => g e)⟩

theorem serveBacklog_one {t : State} {q : Request} (hw : t.dict.waiting = none) (hb : t.dict.backlog = [q]) :
    serveBacklog 1 t = serveOne { t with dict := { t.dict with backlog := [] } } q := by
  unfold serveBacklog
  rw [if_neg (by simp [hw]), hb]
  simp only [serveBacklog]

theorem arrive_of_free {s : State} (q : Request) (hw : s.dict.waiting = none) (hb : s.dict.backlog = []) :
    arrive s q = serveOne s q := by
  have e : ∀ l, ({ s with dict := { { s.dict with backlog := l } with backlog := [] } } : State) = s := by
    intro l
    obtain ⟨⟩ := s
    simp only at hb
    simp only [← hb]
  unfold arrive
  rw [hb, List.nil_append, List.length_nil, Nat.zero_add]
  refine (serveBacklog_one (t := { s with dict := { s.dict with backlog := [q] } }) hw rfl).trans ?_
  exact congrArg (fun t => serveOne t q) (e [q])

/-- A write on a free path is served at once. -/
theorem writeOn_of_free {s : State} {p : Path} (k off len v : Nat) (h : serviceFree s p = true) :
    writeOn s p k off len v = serveOne (atService s p) (writeRequest p k off len v) := by
  obtain ⟨h1, h2, h3, h4⟩ := serviceFree_parts h
  unfold writeOn atService
  rw [h1]
  simp only [Bool.not_true, Bool.false_eq_true, if_false]
  split
  · next e =>
    unfold byMailbox
    rw [h4 (by simpa using e), if_neg (by decide)]
    exact arrive_of_free (s := { s with dict := { s.dict with mailboxBusy := true } }) _ h2 h3
  · exact arrive_of_free _ h2 h3

/-- A write that passes its checks has the effect of its entry, and is answered; a reset that it asks for follows. -/
theorem writeOn_reset {s : State} {p : Path} {k off len v : Nat} {r : EntryRow} (h : serviceFree s p = true)
    (hc : checkRequest (atService s p) (writeRequest p k off len v) = (Code.OK, r)) (hk : k ≠ Key.QUEUE_ENABLE)
    (hl : 0 < len) (hv : v < 2 ^ (8 * len)) :
    writeOn s p k off len v =
      let w := writeEntry (atService s p) r k off len v
      let t := completeRequest w.2 (writeRequest p k off len v) w.1 (if w.1 == Code.OK then len else 0) 0
      if k == Key.DIAG_RESET && w.1 == Code.OK then askedReset t v else t := by
  rw [writeOn_of_free _ _ _ _ h, serveOne, hc]
  have e : enableLine (atService s p) (writeRequest p k off len v) = none := by
    simp [enableLine, writeRequest, hk]
  simp only [e]
  have e2 : v % 2 ^ (8 * len) = v := Nat.mod_eq_of_lt hv
  simp [finishWrite, writeRequest, hk, show len ≠ 0 by omega, e2]

/-- A write that passes its checks and asks for no reset. -/
theorem writeOn_passed {s : State} {p : Path} {k off len v : Nat} {r : EntryRow} (h : serviceFree s p = true)
    (hc : checkRequest (atService s p) (writeRequest p k off len v) = (Code.OK, r)) (hk : k ≠ Key.QUEUE_ENABLE)
    (hd : k ≠ Key.DIAG_RESET) (hl : 0 < len) (hv : v < 2 ^ (8 * len)) :
    writeOn s p k off len v =
      completeRequest (writeEntry (atService s p) r k off len v).2 (writeRequest p k off len v)
        (writeEntry (atService s p) r k off len v).1
        (if (writeEntry (atService s p) r k off len v).1 == Code.OK then len else 0) 0 := by
  rw [writeOn_reset h hc hk hl hv]
  exact if_neg (by simp [hd])

/-- A write of QUEUE.ENABLE that passes its checks, with the line that it reads at hand. -/
theorem writeOn_enable {s : State} {p : Path} {n : Nat} {r : EntryRow} (h : serviceFree s p = true)
    (hc : checkRequest (atService s p) (writeRequest p Key.QUEUE_ENABLE 0 2 n) = (Code.OK, r)) (hn : n < 65536)
    (hl : enableBad (atService s p) n = true ∨ lineHeld (atService s p) (tableLine (atService s p) n) = true) :
    writeOn s p Key.QUEUE_ENABLE 0 2 n =
      let w := if enableBad (atService s p) n then (Code.BAD_FIELD, atService s p) else enableQueue (atService s p) n
      completeRequest w.2 (writeRequest p Key.QUEUE_ENABLE 0 2 n) w.1 (if w.1 == Code.OK then 2 else 0) 0 := by
  have e2 : n % 65536 = n := Nat.mod_eq_of_lt hn
  have e : enableLine (atService s p) (writeRequest p Key.QUEUE_ENABLE 0 2 n) = none := by
    rcases hl with hl | hl <;> simp [enableLine, writeRequest, e2, hl]
  rw [writeOn_of_free _ _ _ _ h, serveOne, hc]
  simp only [e]
  simp [finishWrite, writeRequest, e2, show Key.QUEUE_ENABLE ≠ Key.DIAG_RESET by decide]

@[simp] theorem atService_start (s : State) (p : Path) : (atService s p).start = s.start := by
  unfold atService; split <;> rfl

/-- A path takes nothing from a state but the mailbox's readiness. -/
theorem atService_eq (s : State) (p : Path) :
    atService s p = { s with dict := { s.dict with mailboxBusy := (atService s p).dict.mailboxBusy } } := by
  unfold atService; split <;> rfl

theorem reg_atService (s : State) (p : Path) (k : Nat) : reg (atService s p) k = reg s k := by
  rw [atService_eq]; rfl

/-- The checks of a write of a scalar that a privileged path may write, in a state that serves it. -/
theorem check_scalar {s : State} {p : Path} {k v : Nat} {r : EntryRow} (hr : rowOf k = some r)
    (hs : servedNow s (writeRequest p k 0 r.size v) = true) (hp : hasRight r (writeRequest p k 0 r.size v) = true)
    (hz : r.size ≤ 192) : checkRequest s (writeRequest p k 0 r.size v) = (Code.OK, r) := by
  have hf : fitsType r (writeRequest p k 0 r.size v) = true := by
    unfold fitsType writeRequest
    split <;> simp
  have hl : ¬ pathLimit p < r.size := by cases p <;> simp [pathLimit] <;> omega
  have hl2 : ¬ pathLimit (writeRequest p k 0 r.size v).path < (writeRequest p k 0 r.size v).length := hl
  unfold checkRequest
  simp only [show (writeRequest p k 0 r.size v).key = k from rfl, hr, hs, hp, hf, decide_eq_false hl2]
  rfl

/-- A request that fails a check has no effect but its reply. -/
theorem serveOne_refused {s : State} {q : Request} {st : Nat} {r : EntryRow} (hc : checkRequest s q = (st, r))
    (hn : (st != Code.OK) = true) : serveOne s q = completeRequest s q st 0 0 := by
  unfold serveOne
  rw [hc]
  exact if_pos hn

theorem wrote_completeRequest (s : State) (p : Path) (k off len v st n d : Nat) :
    wrote (completeRequest s (writeRequest p k off len v) st n d) p k st :=
  ⟨_, completeRequest_last _ _ _ _ _, rfl, rfl, rfl, rfl⟩

end Sys2Proof.Machine
end

