-- ==== Sys2Proof/Laws/LinkLoss.lean ====
section
/-! SUPPORT. What the loss of a link leaves as it is: the memories, the power and the state of the units, the contexts but for
the record of their progress, and all keys but those of the session. -/

namespace Sys2Proof.Machine

theorem LinkLoss.refl (s : State) : LinkLoss s s :=
  ⟨rfl, rfl, rfl, rfl, rfl, rfl, rfl, rfl, rfl, rfl, rfl, rfl, rfl, rfl, rfl, rfl, rfl, rfl, rfl, rfl, id, fun _ => rfl⟩

theorem LinkLoss.trans {a b c : State} (h : LinkLoss a b) (k : LinkLoss b c) : LinkLoss a c where
  start := k.start.trans h.start
  fatal := k.fatal.trans h.fatal
  alerts := k.alerts.trans h.alerts
  eeprom := k.eeprom.trans h.eeprom
  hem := k.hem.trans h.hem
  queues := k.queues.trans h.queues
  mem := k.mem.trans h.mem
  pocket := k.pocket.trans h.pocket
  acc := k.acc.trans h.acc
  chip := k.chip.trans h.chip
  power := k.power.trans h.power
  test := k.test.trans h.test
  kv := k.kv.trans h.kv
  gens := k.gens.trans h.gens
  models := k.models.trans h.models
  vocabs := k.vocabs.trans h.vocabs
  grammars := k.grammars.trans h.grammars
  indexes := k.indexes.trans h.indexes
  belt := k.belt.trans h.belt
  sec := by rw [k.sec, h.sec]
  sessions := fun e => k.sessions (h.sessions e)
  ctx := fun d => (k.ctx d).trans (h.ctx d)

theorem LinkLoss.of_side {s t : State} (h : Side s t) : LinkLoss s t :=
  ⟨h.start, h.fatal, h.alerts, h.eeprom, h.hem, h.queues, h.mem, h.pocket, h.acc, h.chip, h.power, h.test, h.kv, h.gens,
   h.models, h.vocabs, h.grammars, h.indexes, h.belt, by rw [h.sec], fun e => by rw [h.sec, e],
   fun c => by unfold ctxOf; rw [h.ctxs]⟩

theorem linkLoss_foldl {α : Type} (f : State → α → State) (l : List α) (h : ∀ s a, LinkLoss s (f s a)) (s : State) :
    LinkLoss s (l.foldl f s) := by
  induction l generalizing s with
  | nil => exact .refl s
  | cons a l ih => exact (h s a).trans (ih _)

theorem linkLoss_regs (s : State) (r : Tab Nat) : LinkLoss s { s with regs := r } :=
  ⟨rfl, rfl, rfl, rfl, rfl, rfl, rfl, rfl, rfl, rfl, rfl, rfl, rfl, rfl, rfl, rfl, rfl, rfl, rfl, rfl, id, fun _ => rfl⟩

theorem linkLoss_setReg (s : State) (k v : Nat) : LinkLoss s (setReg s k v) :=
  ⟨rfl, rfl, rfl, rfl, rfl, rfl, rfl, rfl, rfl, rfl, rfl, rfl, rfl, rfl, rfl, rfl, rfl, rfl, rfl, rfl, id, fun _ => rfl⟩

theorem linkLoss_bump (s : State) (k n : Nat) : LinkLoss s (bump s k n) := linkLoss_setReg s k _

theorem linkLoss_setLink (s : State) (l : LinkId) (e : LinkEnd) : LinkLoss s (setLink s l e) := by
  cases l
  all_goals exact ⟨rfl, rfl, rfl, rfl, rfl, rfl, rfl, rfl, rfl, rfl, rfl, rfl, rfl, rfl, rfl, rfl, rfl, rfl, rfl, rfl, id,
    fun _ => rfl⟩

theorem linkLoss_logError (s : State) (u : LogUnit) (i st c : Nat) (a : LogAction) (d : Nat) :
    LinkLoss s (logError s u i st c a d) :=
  ⟨rfl, rfl, rfl, rfl, rfl, rfl, rfl, rfl, rfl, rfl, rfl, rfl, rfl, rfl, rfl, rfl, rfl, rfl, rfl, rfl, id, fun _ => rfl⟩

theorem ctxOf_finish (s : State) (id st r d : Nat) : ctxOf (finish s id st r) d = ctxOf s d ∨
    ctxOf (finish s id st r) d = { ctxOf s d with progress := true, dogCount := 0 } := by
  unfold finish
  split
  · dsimp only
    split
    all_goals exact ctxOf_progressOf _ _ _
  · exact .inl rfl

theorem linkLoss_finish (s : State) (id st r : Nat) : LinkLoss s (finish s id st r) where
  start := by simp
  fatal := by simp
  alerts := by simp
  eeprom := by simp
  hem := by simp
  queues := by simp
  mem := by simp
  pocket := by simp
  acc := by simp
  chip := by simp
  power := by simp
  test := by simp
  kv := by simp
  gens := by
    unfold finish
    split
    · rw [progressOf_gens]
      dsimp only
      split <;> rfl
    · rfl
  models := by simp
  vocabs := by simp
  grammars := by simp
  indexes := by simp
  belt := by simp
  sec := by simp
  sessions := fun e => by simp [e]
  ctx := fun d => by rcases ctxOf_finish s id st r d with h | h <;> rw [h]

theorem linkLoss_endJob (s : State) (id st : Nat) : LinkLoss s (endJob s id st) := by
  unfold endJob
  repeat' split
  · exact linkLoss_finish _ _ _ _
  · exact .refl s
  · exact .refl s

theorem linkLoss_updJob (s : State) (id : Nat) (f : Job → Job) : LinkLoss s (updJob s id f) :=
  ⟨rfl, rfl, rfl, rfl, rfl, rfl, rfl, rfl, rfl, rfl, rfl, rfl, rfl, rfl, rfl, rfl, rfl, rfl, rfl, rfl, fun e => e, fun _ => rfl⟩

theorem linkLoss_loseLink (s : State) (id : Nat) : LinkLoss s (loseLink s id) := by
  unfold loseLink
  repeat' split
  · exact linkLoss_updJob _ _ _
  · exact linkLoss_finish _ _ _ _
  · exact .refl s

theorem linkLoss_dict (s : State) (d : DictS) : LinkLoss s { s with dict := d } :=
  ⟨rfl, rfl, rfl, rfl, rfl, rfl, rfl, rfl, rfl, rfl, rfl, rfl, rfl, rfl, rfl, rfl, rfl, rfl, rfl, rfl, id, fun _ => rfl⟩

theorem linkLoss_answer (s : State) (p : Reply) : LinkLoss s (answer s p) := by
  unfold answer
  split
  · exact linkLoss_dict s _
  · exact .of_side (side_sendTo _ _ _ _ _ _)
  · exact (linkLoss_dict s _).trans (.of_side (side_send _ _))

theorem linkLoss_completeRequest (s : State) (r : Request) (st n d : Nat) : LinkLoss s (completeRequest s r st n d) := by
  unfold completeRequest
  refine .trans ?_ (linkLoss_answer _ _)
  refine .trans ?_ (.of_side (side_countChip _ _ _ _))
  refine .trans ?_ (linkLoss_dict _ _)
  split
  · exact linkLoss_bump _ _ _
  · exact (linkLoss_bump _ _ _).trans (linkLoss_bump _ _ _)

theorem linkLoss_sessions (s : State) (a : AedupS) (p : PelganS) (k : Nat) :
    LinkLoss s { s with aedup := a, pelgan := p, sec := { s.sec with sessions := tabDel s.sec.sessions k } } :=
  ⟨rfl, rfl, rfl, rfl, rfl, rfl, rfl, rfl, rfl, rfl, rfl, rfl, rfl, rfl, rfl, rfl, rfl, rfl, rfl, rfl,
   fun e => by simp only [e]; rfl, fun _ => rfl⟩

theorem linkLoss_fabric (s : State) (p : PelganS) : LinkLoss s { s with pelgan := p } :=
  ⟨rfl, rfl, rfl, rfl, rfl, rfl, rfl, rfl, rfl, rfl, rfl, rfl, rfl, rfl, rfl, rfl, rfl, rfl, rfl, rfl, id, fun _ => rfl⟩

theorem linkLoss_aedupReset (s : State) : LinkLoss s (aedupReset s) := by
  unfold aedupReset
  dsimp only
  refine .trans ?_ (linkLoss_bump _ _ _)
  refine .trans ?_ (linkLoss_logError _ _ _ _ _ _ _)
  refine .trans ?_ (linkLoss_setLink _ _ _)
  refine .trans ?_ (linkLoss_sessions _ _ _ _)
  refine .trans ?_ (linkLoss_foldl _ _ (fun t _ => linkLoss_loseLink t _) _)
  refine .trans ?_ (linkLoss_foldl _ _ (fun t _ => linkLoss_endJob t _ _) _)
  repeat' split
  · exact (linkLoss_dict s _).trans (linkLoss_completeRequest _ _ _ _ _)
  · exact .refl s
  · exact .refl s

theorem linkLoss_pelganReset (s : State) (p : Nat) : LinkLoss s (pelganReset s p) := by
  unfold pelganReset dropRequests
  dsimp only
  refine .trans ?_ (linkLoss_bump _ _ _)
  refine .trans ?_ (linkLoss_logError _ _ _ _ _ _ _)
  refine .trans ?_ (linkLoss_sessions _ _ _ _)
  refine .trans ?_ (linkLoss_setLink _ _ _)
  refine .trans ?_ (linkLoss_fabric _ _)
  exact linkLoss_foldl _ _ (fun t _ => linkLoss_endJob t _ _) _

theorem linkLoss_linkFails (s : State) (l : LinkId) : LinkLoss s (linkFails s l) := by
  unfold linkFails
  dsimp only
  cases l with
  | aedup =>
    split
    · exact (linkLoss_bump _ _ _).trans (linkLoss_aedupReset _)
    · exact (linkLoss_bump _ _ _).trans (linkLoss_setLink _ _ _)
  | pelgan p =>
    split
    · exact linkLoss_pelganReset _ _
    · exact linkLoss_setLink _ _ _

theorem linkLoss_regroup (s : State) (serials : List Nat) (cables : List (Nat × Nat × Nat × Nat)) (latency : Nat) :
    LinkLoss s (regroup s serials cables latency) := by
  unfold regroup layOutGroup
  dsimp only
  refine .trans ?_ (linkLoss_foldl _ _ (fun t x => ?_) _)
  · refine .trans ?_ (linkLoss_fabric _ _)
    refine .trans ?_ (linkLoss_setReg _ _ _)
    refine .trans ?_ (linkLoss_setReg _ _ _)
    refine .trans ?_ (linkLoss_setReg _ _ _)
    refine .trans ?_ (linkLoss_setReg _ _ _)
    exact linkLoss_fabric _ _
  · split
    · exact .refl t
    · refine .trans ?_ (linkLoss_foldl _ _ (fun u _ => .of_side (side_send u _)) _)
      split
      · exact .of_side (side_send _ _)
      · exact .refl t

theorem linkLoss_linkDown (s : State) (l : LinkId) : LinkLoss s (linkDown s l) := by
  unfold linkDown
  dsimp only
  cases l with
  | aedup => exact linkLoss_linkFails _ _
  | pelgan p =>
    dsimp only
    refine (linkLoss_linkFails s (.pelgan p)).trans ?_
    split
    · unfold managerLosesLink
      split
      · exact linkLoss_regroup _ _ _ _
      · exact .refl _
    · exact .refl _

end Sys2Proof.Machine
end

