-- ==== Sys2Proof/Laws/Commands.lean ====
section
/-! SUPPORT. What the operations of a command leave as it is: `Beside`, `HoldingsKept` and the bytes outside what is written. -/

namespace Sys2Proof.Machine

theorem Beside.refl (s : State) (id c : Nat) : Beside s s id c := by
  constructor <;> first | rfl | exact fun _ _ => rfl

theorem Beside.trans {s t u : State} {id c : Nat} (h : Beside s t id c) (k : Beside t u id c) : Beside s u id c where
  jobs := fun i e => (k.jobs i e).trans (h.jobs i e)
  ctxs := fun i e => (k.ctxs i e).trans (h.ctxs i e)
  start := k.start.trans h.start
  fatal := k.fatal.trans h.fatal
  alerts := k.alerts.trans h.alerts
  eeprom := k.eeprom.trans h.eeprom
  hem := k.hem.trans h.hem
  queues := k.queues.trans h.queues
  jobNext := k.jobNext.trans h.jobNext
  chip := k.chip.trans h.chip
  sec := k.sec.trans h.sec
  power := k.power.trans h.power
  test := k.test.trans h.test
  log := k.log.trans h.log
  locks := k.locks.trans h.locks
  settings := fun i e => (k.settings i e).trans (h.settings i e)

theorem HoldingsKept.refl (s : State) : HoldingsKept s s := by constructor <;> rfl

theorem HoldingsKept.trans {s t u : State} (h : HoldingsKept s t) (k : HoldingsKept t u) : HoldingsKept s u where
  models := k.models.trans h.models
  vocabs := k.vocabs.trans h.vocabs
  grammars := k.grammars.trans h.grammars
  belt := k.belt.trans h.belt
  kv := k.kv.trans h.kv
  gens := k.gens.trans h.gens
  pocket := k.pocket.trans h.pocket
  acc := k.acc.trans h.acc

/-- Sending and counting write no setting. -/
theorem sideKey_setting {k : Nat} (h : 0x200000 ≤ k) : sideKey k = false := by
  simp only [sideKey, Bool.or_eq_false_iff, beq_eq_false_iff_ne, Bool.and_eq_false_iff, decide_eq_false_iff_not]
  simp only [Key.AEDUP_RETRAINS, Key.AEDUP_STATE, Key.PELGAN_RETRAINS, Key.PELGAN_LINK_STATE, Key.MGMT_NOTIFY_DROPS,
    Key.PERF_SAMPLE_COUNT]
  omega

theorem beside_of_side {s t : State} (h : Side s t) (id c : Nat) : Beside s t id c := by
  constructor
  · intro i _; rw [h.jobs]
  · intro d _; unfold ctxOf; rw [h.ctxs]
  · exact h.start
  · exact h.fatal
  · exact h.alerts
  · exact h.eeprom
  · exact h.hem
  · exact h.queues
  · exact h.jobNext
  · exact h.chip
  · exact h.sec
  · exact h.power
  · exact h.test
  · exact h.log
  · rw [h.dict]
  · exact fun k e => h.regs k (sideKey_setting e)

theorem holdings_of_side {s t : State} (h : Side s t) : HoldingsKept s t where
  models := h.models
  vocabs := h.vocabs
  grammars := h.grammars
  belt := h.belt
  kv := h.kv
  gens := h.gens
  pocket := h.pocket
  acc := h.acc

/-- A change of memory alone touches nothing beside it. -/
theorem beside_mem (s : State) (m : MemS) (id c : Nat) : Beside s { s with mem := m } id c := by
  constructor <;> first | rfl | exact fun _ _ => rfl

theorem holdings_mem (s : State) (m : MemS) : HoldingsKept s { s with mem := m } := by constructor <;> rfl

theorem beside_units {s t : State} (h : UnitsOnly s t) (id c : Nat) : Beside s t id c := by
  obtain ⟨u, rfl⟩ := h; exact beside_mem _ _ _ _

theorem holdings_units {s t : State} (h : UnitsOnly s t) : HoldingsKept s t := by
  obtain ⟨u, rfl⟩ := h; exact holdings_mem _ _

theorem beside_touchRange (s : State) (a n id c : Nat) : Beside s (touchRange s a n) id c := by
  obtain ⟨us, h⟩ := touchRange_eq s a n
  exact (beside_mem _ _ _ _).trans (beside_of_side h _ _)

theorem holdings_touchRange (s : State) (a n : Nat) : HoldingsKept s (touchRange s a n) := by
  obtain ⟨us, h⟩ := touchRange_eq s a n
  exact (holdings_mem _ _).trans (holdings_of_side h)

theorem beside_writeBytes (s : State) (a : Nat) (bs : List Nat) (id c : Nat) : Beside s (writeBytes s a bs) id c := by
  obtain ⟨us, st, o, po, h⟩ := writeBytes_eq s a bs
  exact (beside_mem _ _ _ _).trans (beside_of_side h _ _)

theorem holdings_writeBytes (s : State) (a : Nat) (bs : List Nat) : HoldingsKept s (writeBytes s a bs) := by
  obtain ⟨us, st, o, po, h⟩ := writeBytes_eq s a bs
  exact (holdings_mem _ _).trans (holdings_of_side h)

theorem beside_foldl {α : Type} (f : State → α → State) (l : List α) (s : State) (id c : Nat)
    (h : ∀ t a, Beside t (f t a) id c) : Beside s (l.foldl f s) id c := by
  induction l generalizing s with
  | nil => exact .refl _ _ _
  | cons a l ih => exact (h s a).trans (ih _)

theorem holdings_foldl {α : Type} (f : State → α → State) (l : List α) (s : State)
    (h : ∀ t a, HoldingsKept t (f t a)) : HoldingsKept s (l.foldl f s) := by
  induction l generalizing s with
  | nil => exact .refl _
  | cons a l ih => exact (h s a).trans (ih _)

theorem beside_writeAll (s : State) (ws : List (Nat × List Nat)) (id c : Nat) : Beside s (writeAll s ws) id c :=
  beside_foldl _ _ _ _ _ (fun _ _ => beside_writeBytes _ _ _ _ _)

theorem holdings_writeAll (s : State) (ws : List (Nat × List Nat)) : HoldingsKept s (writeAll s ws) :=
  holdings_foldl _ _ _ (fun _ _ => holdings_writeBytes _ _ _)

theorem beside_writeRecords (s : State) (ws : List (Nat × List Nat)) (id c : Nat) : Beside s (writeRecords s ws) id c :=
  (beside_mem s _ _ _).trans (beside_writeAll _ _ _ _)

theorem holdings_writeRecords (s : State) (ws : List (Nat × List Nat)) : HoldingsKept s (writeRecords s ws) :=
  (holdings_mem s _).trans (holdings_writeAll _ _)

theorem beside_updIndex (s : State) (i : Nat) (f : Index → Index) (id c : Nat) : Beside s (updIndex s i f) id c := by
  constructor <;> first | rfl | exact fun _ _ => rfl

theorem holdings_updIndex (s : State) (i : Nat) (f : Index → Index) : HoldingsKept s (updIndex s i f) := by
  constructor <;> rfl

theorem beside_notePosted (s : State) (i a n id c : Nat) : Beside s (notePosted s i a n) id c := by
  unfold notePosted
  split
  · constructor <;> first | rfl | exact fun _ _ => rfl
  · exact .refl _ _ _

theorem holdings_notePosted (s : State) (i a n : Nat) : HoldingsKept s (notePosted s i a n) := by
  unfold notePosted
  split <;> constructor <;> rfl

theorem beside_updJob (s : State) (id c : Nat) (f : Job → Job) : Beside s (updJob s id f) id c := by
  constructor
  · exact fun i e => updJob_get_ne _ _ e
  all_goals first | rfl | exact fun _ _ => rfl

theorem holdings_updJob (s : State) (id : Nat) (f : Job → Job) : HoldingsKept s (updJob s id f) := by
  constructor <;> rfl

theorem beside_bump (s : State) (k n id c : Nat) (h : k < 0x200000) : Beside s (bump s k n) id c := by
  constructor
  all_goals first
    | rfl
    | exact fun _ _ => rfl
    | exact fun k' e => reg_bump_ne _ _ (by omega)

theorem holdings_bump (s : State) (k n : Nat) : HoldingsKept s (bump s k n) := by constructor <;> rfl

theorem beside_setReg (s : State) (k n id c : Nat) (h : k < 0x200000) : Beside s (setReg s k n) id c := by
  constructor
  all_goals first
    | rfl
    | exact fun _ _ => rfl
    | exact fun k' e => reg_setReg_ne _ _ (by omega)

theorem holdings_setReg (s : State) (k n : Nat) : HoldingsKept s (setReg s k n) := by constructor <;> rfl

/-- The end of a command touches its own records and its context's progress. -/
theorem beside_finish {s : State} {id : Nat} {j : Job} (st r : Nat) (h : tabGet s.jobs id = some j) :
    Beside s (finish s id st r) id j.ctx := by
  constructor
  · exact fun i e => finish_get_ne _ _ _ e
  · intro d e
    unfold finish
    rw [h]
    dsimp only
    rcases ctxOf_progressOf _ j.ctx d with k | k
    · rw [k]; unfold ctxOf; split <;> rfl
    · unfold progressOf
      split
      · rw [ctxOf_setCtx_ne _ _ e]; unfold ctxOf; dsimp only; split <;> rfl
      · unfold ctxOf; dsimp only; split <;> rfl
  all_goals first | simp | exact fun k _ => reg_finish _ _ _ _ _

theorem holdings_finish (s : State) (id st r : Nat) : HoldingsKept s (finish s id st r) := by constructor <;> simp

theorem beside_setCtx (s : State) (c : Nat) (x : Ctx) (id : Nat) : Beside s (setCtx s c x) id c := by
  constructor
  case ctxs => exact fun d e => ctxOf_setCtx_ne _ _ e
  all_goals first | rfl | exact fun _ _ => rfl

theorem holdings_setCtx (s : State) (c : Nat) (x : Ctx) : HoldingsKept s (setCtx s c x) := by constructor <;> rfl

/-- The first step of a teardown, of a context that was none (R91, R399). -/
theorem ctxOf_fenceBy {s : State} {c : Nat} (st : Nat) (b : Option Nat) (a : Bool) (u : LogUnit) (i : Nat)
    (h : (ctxOf s c).state ∈ [CtxState.idle, .waiting, .restoring, .running, .saving]) (d : Nat) :
    ctxOf (fenceBy s c st b a u i) d = if d = c then { ctxOf s c with
      state := .tearingDown, genTag := ((ctxOf s c).genTag + 1) % 256, lastStatus := st, freeAfter := a,
      blame := b.map (fun j => (j, st)), preempt := false, leaving := false, save := .none, hung := false }
    else ctxOf s d := by
  have e : ∀ (X : State), X.ctxs = tabSet s.ctxs c { ctxOf s c with
      state := .tearingDown, genTag := ((ctxOf s c).genTag + 1) % 256, lastStatus := st, freeAfter := a,
      blame := b.map (fun j => (j, st)), preempt := false, leaving := false, save := .none, hung := false } →
      ctxOf X d = if d = c then { ctxOf s c with
        state := .tearingDown, genTag := ((ctxOf s c).genTag + 1) % 256, lastStatus := st, freeAfter := a,
        blame := b.map (fun j => (j, st)), preempt := false, leaving := false, save := .none, hung := false }
      else ctxOf s d := by
    intro X hX
    unfold ctxOf at *
    rw [hX, tabGet_tabSet]
    split <;> rfl
  unfold fenceBy
  dsimp only
  simp only [List.mem_cons, List.not_mem_nil, or_false] at h
  apply e
  rcases h with g | g | g | g | g <;> rw [g] <;> dsimp only <;> split <;> cases a <;> split <;> simp [setCtx]

/-- It touches nothing that its context's commands hold. -/
theorem holdings_fenceBy (s : State) (c st : Nat) (b : Option Nat) (a : Bool) (u : LogUnit) (i : Nat) :
    HoldingsKept s (fenceBy s c st b a u i) := by constructor <;> simp

/-! ### Bytes -/

/-- The byte at an address of a copied range is the one at its place in the source, outside it the old one. -/
theorem memByte_memCopy (src : Mem) (a n : Nat) (dst : Mem) (b k : Nat) (h : memWf src = true) :
    memByte (memCopy src a n dst b) k = if b ≤ k ∧ k < b + n then memByte src (k - b + a) else memByte dst k := by
  have put : ∀ (l : Mem) (m : Mem), l.Pairwise (fun c d => c.1 ≠ d.1) →
      memByte (l.foldl (fun m c => memPut m c.1 c.2.toNat) m) k = match tabGet l k with
        | some v => v.toNat
        | none => memByte m k := by
    intro l
    induction l with
    | nil => exact fun _ _ => rfl
    | cons c l ih =>
      intro m hp
      obtain ⟨h1, h2⟩ := List.pairwise_cons.mp hp
      rw [List.foldl_cons, ih _ h2]
      by_cases e : c.1 = k
      · have hn : tabGet l k = none := by
          have : ∀ (l : Mem), (∀ d ∈ l, c.1 ≠ d.1) → tabGet l k = none := by
            intro l
            induction l with
            | nil => exact fun _ => rfl
            | cons d l ih =>
              intro hd
              have := hd d (List.mem_cons_self ..)
              simp only [tabGet]
              rw [if_neg (by omega)]
              exact ih (fun x hx => hd x (List.mem_cons_of_mem _ hx))
          exact this l h1
        rw [hn]
        simp only [tabGet]
        rw [if_pos e]
        dsimp only
        rw [← e, memByte_memPut_self]
        exact Nat.mod_eq_of_lt c.2.isLt
      · simp only [tabGet]
        rw [if_neg e]
        split
        · rfl
        · exact memByte_memPut_ne _ _ (fun x => e x.symm)
  have get : ∀ (l : Mem), tabGet ((l.filter (fun c => a ≤ c.1 && c.1 < a + n)).map (fun c => (c.1 - a + b, c.2))) k =
      if b ≤ k ∧ k < b + n then tabGet l (k - b + a) else none := by
    intro l
    induction l with
    | nil => simp [tabGet]
    | cons c l ih =>
      by_cases e : a ≤ c.1 ∧ c.1 < a + n
      · rw [List.filter_cons_of_pos (by simpa using e), List.map_cons]
        simp only [tabGet]
        by_cases g : c.1 - a + b = k
        · rw [if_pos g, if_pos (by omega), if_pos (by omega)]
        · rw [if_neg g, ih]
          by_cases f : b ≤ k ∧ k < b + n
          · rw [if_pos f, if_pos f, if_neg (by omega)]
          · rw [if_neg f, if_neg f]
      · rw [List.filter_cons_of_neg (by simpa using e), ih]
        by_cases f : b ≤ k ∧ k < b + n
        · rw [if_pos f, if_pos f]
          simp only [tabGet]
          rw [if_neg (by omega)]
        · rw [if_neg f, if_neg f]
  have hw := ((memWf_iff src).1 h).1
  unfold memCopy
  rw [put, get]
  · by_cases f : b ≤ k ∧ k < b + n
    · rw [if_pos f, if_pos f]
      unfold memByte
      cases tabGet src (k - b + a) with
      | some v => rfl
      | none =>
        have := memByte_memClear dst b n k
        rw [if_pos f] at this
        exact this
    · rw [if_neg f, if_neg f]
      have := memByte_memClear dst b n k
      rw [if_neg f] at this
      exact this
  · rw [List.pairwise_map]
    exact (hw.filter _).imp_of_mem (fun {x y} hx hy hlt => by
      simp only [List.mem_filter, Bool.and_eq_true, decide_eq_true_eq] at hx hy
      omega)

/-- Outside the copied range nothing changes. -/
theorem memByte_memCopy_out (src : Mem) (a n : Nat) (dst : Mem) (b : Nat) {k : Nat} (h : k < b ∨ b + n ≤ k) :
    memByte (memCopy src a n dst b) k = memByte dst k := by
  unfold memCopy
  have : ∀ (l : Mem) (m : Mem), (∀ c ∈ l, c.1 ≠ k) →
      memByte (l.foldl (fun m c => memPut m c.1 c.2.toNat) m) k = memByte m k := by
    intro l
    induction l with
    | nil => exact fun _ _ => rfl
    | cons c l ih =>
      intro m hc
      rw [List.foldl_cons, ih _ (fun d hd => hc d (List.mem_cons_of_mem _ hd)),
        memByte_memPut_ne _ _ (hc c (List.mem_cons_self ..)).symm]
  rw [this, memByte_memClear, if_neg (by omega)]
  intro c hc
  obtain ⟨d, hd, rfl⟩ := List.mem_map.1 hc
  simp only [List.mem_filter, Bool.and_eq_true, decide_eq_true_eq] at hd
  dsimp only
  omega

theorem byteAt_congr {s t : State} (h : t.mem.dev = s.mem.dev) (k : t.mem.comp = s.mem.comp) (a : Nat) :
    byteAt t a = byteAt s a := by unfold byteAt; rw [h, k]

/-- A write leaves every byte outside its range. -/
theorem byteAt_writeBytes (s : State) (b : Nat) (bs : List Nat) {a : Nat} (h : a < b ∨ b + bs.length ≤ a) :
    byteAt (writeBytes s b bs) a = byteAt s a := by
  unfold byteAt
  rw [writeBytes_dev, writeBytes_comp]
  by_cases k : inWindow b = true
  · simp only [k, if_true]
    split
    · next e =>
      refine memByte_memWrite_out _ _ _ ?_
      simp only [inWindow, decide_eq_true_eq] at e k
      omega
    · rfl
  · simp only [k, Bool.false_eq_true, if_false]
    split
    · rfl
    · exact memByte_memWrite_out _ _ _ h

theorem byteAt_writeAll (s : State) (ws : List (Nat × List Nat)) : writesOnly s (writeAll s ws) ws := by
  induction ws generalizing s with
  | nil => exact fun _ _ => rfl
  | cons w ws ih =>
    intro a h
    refine (ih (writeBytes s w.1 w.2) a (fun v e => h v (List.mem_cons_of_mem _ e))).trans ?_
    exact byteAt_writeBytes _ _ _ (h w (List.mem_cons_self ..))

theorem byteAt_units {s t : State} (h : UnitsOnly s t) (a : Nat) : byteAt t a = byteAt s a := by
  obtain ⟨u, rfl⟩ := h; rfl

theorem prepareWrites_units {s u : State} {ws : List (Nat × List Nat)} (h : prepareWrites s ws = .ready u) :
    UnitsOnly s u := by
  unfold prepareWrites at h
  have k := prepareUnits_units s ((ws.map (fun w => unitsOfRange w.1 w.2.length)).flatten)
  revert h k
  cases prepareUnits s ((ws.map (fun w => unitsOfRange w.1 w.2.length)).flatten) with
  | ready t =>
    dsimp only
    intro h k
    split at h
    · cases h; exact k
    · split at h
      · cases h
      · split at h
        · cases h
        · split at h
          · cases h
          · cases h; exact k
  | wait t => intro h; cases h
  | fail t st => intro h; cases h

theorem prepareWrite_ready {s u : State} {a n : Nat} (h : prepareWrite s a n = .ready u) : UnitsOnly s u := by
  have k := prepareWrite_units s a n
  rw [h] at k
  exact k

/-! ### A command's step -/

/-- What a running command leaves is what its body leaves. -/
theorem runJob_body {s : State} {id op : Nat} {src : State → Job → List (Nat × Nat)} {j : Job}
    {body : State → Nat → Job → State} {X : State} (h : runsNow s id op src j = true) (e : body (acting s j) id j = X) :
    (Host.Outcome.next (runJob s id op src body) : Host.Outcome State Fault Refusal) =
      .next { X with perf := { X.perf with actor := none } } := by
  subst e
  exact congrArg Host.Outcome.next (runJob_of_runsNow body h)

end Sys2Proof.Machine
end

