-- ==== Sys2Proof/Laws/Instructions.lean ====
section
/-! SUPPORT. What an instruction of a block sequencer can change while it computes (`Calm`), and what counting its events can
change (`Still`), for the operations over accumulators and Pockets. -/

namespace Sys2Proof.Machine

/-- Only accumulators, Pockets, the records of runs, the times of models and counters differ; the count of instructions
retired does not. -/
structure Calm (s t : State) : Prop where
  jobs : t.jobs = s.jobs
  ctxs : t.ctxs = s.ctxs
  start : t.start = s.start
  fatal : t.fatal = s.fatal
  alerts : t.alerts = s.alerts
  eeprom : t.eeprom = s.eeprom
  hem : t.hem = s.hem
  queues : t.queues = s.queues
  jobNext : t.jobNext = s.jobNext
  chip : t.chip = s.chip
  sec : t.sec = s.sec
  power : t.power = s.power
  test : t.test = s.test
  log : t.log = s.log
  locks : t.dict.locks = s.dict.locks
  mem : t.mem = s.mem
  indexes : t.indexes = s.indexes
  vocabs : t.vocabs = s.vocabs
  grammars : t.grammars = s.grammars
  belt : t.belt = s.belt
  kv : t.kv = s.kv
  gens : t.gens = s.gens
  settings : ∀ k, 0x200000 ≤ k → reg t k = reg s k
  counted : reg t Key.ARRAY_INSTRUCTIONS = reg s Key.ARRAY_INSTRUCTIONS

/-- Only counters, and what goes with counting, differ. -/
structure Still (s t : State) : Prop where
  calm : Calm s t
  models : t.models = s.models
  pocket : t.pocket = s.pocket
  acc : t.acc = s.acc
  array : t.array = s.array

theorem Calm.refl (s : State) : Calm s s := by constructor <;> first | rfl | exact fun _ _ => rfl

theorem Calm.trans {s t u : State} (h : Calm s t) (k : Calm t u) : Calm s u where
  jobs := k.jobs.trans h.jobs
  ctxs := k.ctxs.trans h.ctxs
  start := k.start.trans h.start
  fatal := k.fatal.trans h.fatal
  alerts := k.alerts.trans h.alerts
  eeprom := k.eeprom.trans h.eeprom
  hem := k.hem.trans h.hem
  queues := k.queues.trans h.queues
  jobNext := k.jobNext.trans h.jobNext
  chip := k.chip.trans h.chip
  sec := k.sec.trans h.sec
  power := k.power.trans h.power
  test := k.test.trans h.test
  log := k.log.trans h.log
  locks := k.locks.trans h.locks
  mem := k.mem.trans h.mem
  indexes := k.indexes.trans h.indexes
  vocabs := k.vocabs.trans h.vocabs
  grammars := k.grammars.trans h.grammars
  belt := k.belt.trans h.belt
  kv := k.kv.trans h.kv
  gens := k.gens.trans h.gens
  settings x e := (k.settings x e).trans (h.settings x e)
  counted := k.counted.trans h.counted

theorem Still.refl (s : State) : Still s s := ⟨Calm.refl s, rfl, rfl, rfl, rfl⟩

theorem Still.trans {s t u : State} (h : Still s t) (k : Still t u) : Still s u :=
  ⟨h.calm.trans k.calm, k.models.trans h.models, k.pocket.trans h.pocket, k.acc.trans h.acc, k.array.trans h.array⟩

theorem Calm.ctxOf {s t : State} (h : Calm s t) (c : Nat) : ctxOf t c = ctxOf s c := by
  unfold Machine.ctxOf; rw [h.ctxs]

theorem Calm.beside {s t : State} (h : Calm s t) (id c : Nat) : Beside s t id c :=
  ⟨fun _ _ => by rw [h.jobs], fun _ _ => h.ctxOf _, h.start, h.fatal, h.alerts, h.eeprom, h.hem, h.queues, h.jobNext, h.chip,
    h.sec, h.power, h.test, h.log, h.locks, h.settings⟩

theorem still_of_side {s t : State} (h : Side s t) : Still s t where
  calm := ⟨h.jobs, h.ctxs, h.start, h.fatal, h.alerts, h.eeprom, h.hem, h.queues, h.jobNext, h.chip, h.sec, h.power, h.test,
    h.log, by rw [h.dict], h.mem, h.indexes, h.vocabs, h.grammars, h.belt, h.kv, h.gens,
    fun k e => h.regs k (sideKey_setting e), h.regs _ (by decide)⟩
  models := h.models
  pocket := h.pocket
  acc := h.acc
  array := h.array

theorem calm_foldl {α : Type} (f : State → α → State) (l : List α) (h : ∀ s x, x ∈ l → Calm s (f s x)) (s : State) :
    Calm s (l.foldl f s) := by
  induction l generalizing s with
  | nil => exact Calm.refl s
  | cons x l ih => exact (h s x (by simp)).trans (ih (fun s y e => h s y (List.mem_cons_of_mem _ e)) _)

theorem still_foldl {α : Type} (f : State → α → State) (l : List α) (h : ∀ s x, x ∈ l → Still s (f s x)) (s : State) :
    Still s (l.foldl f s) := by
  induction l generalizing s with
  | nil => exact Still.refl s
  | cons x l ih => exact (h s x (by simp)).trans (ih (fun s y e => h s y (List.mem_cons_of_mem _ e)) _)

theorem still_setReg (s : State) {k : Nat} (v : Nat) (h : k < 0x200000) (e : k ≠ Key.ARRAY_INSTRUCTIONS) :
    Still s (setReg s k v) :=
  ⟨by
    constructor
    all_goals first
      | rfl
      | exact fun k' e => reg_setReg_ne _ _ (by omega)
      | exact reg_setReg_ne _ _ (Ne.symm e), rfl, rfl, rfl, rfl⟩

theorem still_bump (s : State) {k : Nat} (n : Nat) (h : k < 0x200000) (e : k ≠ Key.ARRAY_INSTRUCTIONS) :
    Still s (bump s k n) := still_setReg s _ h e

theorem still_countBlock (s : State) (b event n : Nat) (t : Trace) : Still s (countBlock s b event n t) :=
  still_of_side (side_countBlock s b event n t)

theorem still_countFormat (s : State) (total : Nat → Nat) (domain b slot n : Nat) (h : domain < 0x200000)
    (e : domain ≠ Key.ARRAY_INSTRUCTIONS) (h' : total slot < 0x200000) (e' : total slot ≠ Key.ARRAY_INSTRUCTIONS) :
    Still s (countFormat s total domain b slot n) := by
  unfold countFormat
  by_cases z : n = 0
  · simp only [z, if_true]; exact Still.refl s
  · simp only [z, if_false]
    exact ((still_setReg s _ h e).trans (still_bump _ _ h' e')).trans (still_countBlock ..)

theorem still_countSats (s : State) (b n : Nat) {slot : Nat} (h : slot < 4) : Still s (countSats s b slot n) :=
  still_countFormat s _ _ b slot n (by decide) (by decide) (by simp only [Key.FORMAT_SATURATIONS]; omega)
    (by simp only [Key.FORMAT_SATURATIONS, Key.ARRAY_INSTRUCTIONS]; omega)

theorem still_countUnders (s : State) (b n : Nat) {slot : Nat} (h : slot < 4) : Still s (countUnders s b slot n) :=
  still_countFormat s _ _ b slot n (by decide) (by decide) (by simp only [Key.FORMAT_UNDERFLOWS]; omega)
    (by simp only [Key.FORMAT_UNDERFLOWS, Key.ARRAY_INSTRUCTIONS]; omega)

theorem still_countStray (s : State) (x : Ctx) (lb row : Nat) {port : Nat} (h : port < 4) :
    Still s (countStray s x lb port row) := by
  unfold countStray
  by_cases e : (row < contextRows s && rowOwner x.groupMap row != port) = true
  · rw [if_pos e]
    have a : Still s (bump s (Key.POCKET_STRAYS port) 1) := still_bump s 1 (by simp only [Key.POCKET_STRAYS]; omega)
      (by simp only [Key.POCKET_STRAYS, Key.ARRAY_INSTRUCTIONS]; omega)
    cases physBlock x lb with
    | none => exact a
    | some b => exact a.trans (still_countBlock ..)
  · rw [if_neg e]; exact Still.refl s

theorem still_countStrays (s : State) (x : Ctx) (lb row rows : Nat) {port : Nat} (h : port < 4) :
    Still s (countStrays s x lb port row rows) :=
  still_foldl _ _ (fun s i _ => still_countStray s x lb (row + i) h) s

theorem still_strayRanges (s : State) (x : Ctx) (lb : Nat) (rs : List Range) {port : Nat} (h : port < 4) :
    Still s (strayRanges x lb port s rs) :=
  still_foldl _ _ (fun s r _ => still_countStrays s x lb _ _ h) s

theorem calm_pocketWrite (s : State) (b row byte : Nat) (bs : List Nat) : Calm s (pocketWrite s b row byte bs) := by
  constructor <;> first | rfl | exact fun _ _ => rfl

theorem calm_accWrite (s : State) (b row col v : Nat) : Calm s (accWrite s b row col v) := by
  constructor <;> first | rfl | exact fun _ _ => rfl

theorem slot_lt (c : FmtClass) : c.slot < 4 := by cases c <;> decide

theorem outSlot_lt (f : Nat) : outSlot f < 4 := by
  unfold outSlot
  split
  · decide
  · split <;> decide

theorem cols_le (c : FmtClass) : c.cols ≤ 128 := by cases c <;> decide

/-! ### Accumulators -/

/-- A word of the accumulator file read after one is written. -/
theorem accRead_accWrite (s : State) (b row col v d r n : Nat) (h1 : row < 512) (h2 : col < 128) (h3 : r < 512) (h4 : n < 128) :
    accRead (accWrite s b row col v) d r n = if d = b ∧ r = row ∧ n = col then v % 2 ^ 32 else accRead s d r n := by
  have hk : (d * 65536 + r * 128 + n = b * 65536 + row * 128 + col) ↔ (d = b ∧ r = row ∧ n = col) := by omega
  unfold accRead accWrite
  by_cases z : v % 2 ^ 32 = 0
  · simp only [z, if_true]
    by_cases e : d = b ∧ r = row ∧ n = col
    · rw [if_pos e, hk.2 e, tabGet_tabDel_self]; rfl
    · rw [if_neg e, tabGet_tabDel_ne _ (fun x => e (hk.1 x))]
  · simp only [z, if_false, tabGet_tabSet]
    by_cases e : d = b ∧ r = row ∧ n = col
    · rw [if_pos e, if_pos (hk.2 e)]; rfl
    · rw [if_neg e, if_neg (fun x => e (hk.1 x))]

/-- The words of a row of the accumulator file written, and the others. -/
theorem accRead_row (b row : Nat) (ws : List Nat) (k : Nat) (s : State) (d r n : Nat) (h1 : row < 512) (h2 : k + ws.length ≤ 128)
    (h3 : r < 512) (h4 : n < 128) :
    accRead ((ws.mapIdx (fun n w => (n + k, w))).foldl (fun t p => accWrite t b row p.1 p.2) s) d r n =
      if d = b ∧ r = row ∧ k ≤ n ∧ n < k + ws.length then ws.getD (n - k) 0 % 2 ^ 32 else accRead s d r n := by
  induction ws generalizing k s with
  | nil => rw [if_neg (by simp only [List.length_nil]; omega)]; rfl
  | cons w ws ih =>
    simp only [List.length_cons] at h2
    rw [List.mapIdx_cons, List.foldl_cons]
    have e : (fun i w => (i + 1 + k, w) : Nat → Nat → Nat × Nat) = fun i w => (i + (k + 1), w) := by
      funext i w; rw [show i + 1 + k = i + (k + 1) by omega]
    simp only [Nat.zero_add]
    rw [e, ih (k + 1) _ (by omega), accRead_accWrite _ _ _ _ _ _ _ _ h1 (by omega) h3 h4]
    by_cases a : d = b ∧ r = row ∧ k + 1 ≤ n ∧ n < k + 1 + ws.length
    · rw [if_pos a, if_pos (by simp only [List.length_cons]; omega), show n - k = (n - (k + 1)) + 1 by omega]; rfl
    · rw [if_neg a]
      by_cases e2 : d = b ∧ r = row ∧ n = k
      · rw [if_pos e2, if_pos (by simp only [List.length_cons]; omega), show n - k = 0 by omega]; rfl
      · rw [if_neg e2, if_neg (by simp only [List.length_cons]; omega)]

/-! ### Conversions -/

theorem chunks32_codes (f : Nat) (nc : Bool) (k : Nat) (xs : List (Num × Option Nat)) (a : Converted) (h : xs.length ≤ k) :
    ((chunks32 k xs).foldl (fun a c => a.append (mxBlock f nc c)) a).codes.length = a.codes.length + xs.length ∧
    ((chunks32 k xs).foldl (fun a c => a.append (mxBlock f nc c)) a).scales.length = a.scales.length + (xs.length + 31) / 32 := by
  have hb : ∀ c, (mxBlock f nc c).codes.length = c.length ∧ (mxBlock f nc c).scales.length = 1 := by
    intro c
    unfold mxBlock
    dsimp only
    split
    · simp
    · split <;> simp
  induction k generalizing xs a with
  | zero => have : xs = [] := List.length_eq_zero_iff.1 (by omega); subst this; simp [chunks32]
  | succ k ih =>
    unfold chunks32
    by_cases e : xs.isEmpty = true
    · rw [if_pos e]; have : xs = [] := by simpa using e
      subst this; simp
    · rw [if_neg e, List.foldl_cons]
      have hp : 0 < xs.length := by cases xs <;> simp_all
      obtain ⟨i1, i2⟩ := ih (xs.drop 32) (a.append (mxBlock f nc (xs.take 32))) (by rw [List.length_drop]; omega)
      rw [i1, i2]
      simp only [Converted.append, List.length_append, (hb _).1, (hb _).2, List.length_take, List.length_drop]
      omega

/-- A converted row has a code for each word, and under an MX format a scale for each run of 32. -/
theorem convertRow_length (f : Nat) (nc : Bool) (dr : Nat → Option Nat) (ws : List Nat) :
    (convertRow f nc dr ws).codes.length = ws.length ∧
    (isMx f = true → (convertRow f nc dr ws).scales.length = (ws.length + 31) / 32) := by
  unfold convertRow
  by_cases a : (f == 0xC) = true
  · have : f = 0xC := by simpa using a
    subst this; simp [isMx]
  · rw [if_neg a]
    by_cases b : (f == 0xD) = true
    · have : f = 0xD := by simpa using b
      subst this; simp [isMx]
    · rw [if_neg b]
      dsimp only
      by_cases c : (f == 0xB) = true
      · have : f = 0xB := by simpa using c
        subst this; simp [isMx]
      · rw [if_neg c]
        obtain ⟨i1, i2⟩ := chunks32_codes f nc (ws.mapIdx (fun i w => (ofF32 w, dr i))).length
          (ws.mapIdx (fun i w => (ofF32 w, dr i))) { codes := [] } (Nat.le_refl _)
        refine ⟨i1.trans (by simp), fun _ => i2.trans (by simp)⟩

theorem packCodes_length (w : Nat) (cs : List Nat) : (packCodes w cs).length = cs.length * w / 8 := by
  unfold packCodes; rw [leBytes_length]

theorem packCodes_lt (w : Nat) (cs : List Nat) : ∀ b ∈ packCodes w cs, b < 256 := leBytes_lt _ _

/-! ### Output rows -/

theorem memBytes_congr' {m m' : Mem} {a n : Nat} (h : ∀ k, a ≤ k → k < a + n → memByte m k = memByte m' k) :
    memBytes m a n = memBytes m' a n := by
  induction n generalizing a with
  | zero => rfl
  | succ n ih =>
    simp only [memBytes]
    rw [h a (by omega) (by omega), ih (fun k x y => h k (by omega) (by omega))]

theorem calm_putRow (s : State) (b d base f n rows row : Nat) (c : Converted) : Calm s (putRow s b d base f n rows row c) := by
  unfold putRow
  dsimp only
  refine Calm.trans ?_ (((still_countSats _ _ _ (outSlot_lt f)).trans (still_countUnders _ _ _ (outSlot_lt f))).calm)
  split
  · exact (calm_pocketWrite ..).trans (calm_pocketWrite ..)
  · exact calm_pocketWrite ..

theorem putRow_still (s : State) (b d base f n rows row : Nat) (c : Converted) :
    (putRow s b d base f n rows row c).acc = s.acc ∧ (putRow s b d base f n rows row c).array = s.array ∧
    (putRow s b d base f n rows row c).models = s.models ∧
    (putRow s b d base f n rows row c).pocket =
      (if isMx f then memWrite (memWrite s.pocket (pocketAddr b 0 (base + row * outRowBytes f n)) (packCodes (outWidth f) c.codes))
        (pocketAddr b 0 (base + rows * outRowBytes f n + row * (n / 32))) c.scales
       else memWrite s.pocket (pocketAddr b 0 (base + row * outRowBytes f n)) (packCodes (outWidth f) c.codes)) := by
  unfold putRow
  dsimp only
  have k := fun s1 : State => (still_countSats s1 d c.sats (outSlot_lt f)).trans (still_countUnders _ d c.under (outSlot_lt f))
  split
  · next e => exact ⟨(k _).acc, (k _).array, (k _).models, by rw [(k _).pocket]; rfl⟩
  · next e => exact ⟨(k _).acc, (k _).array, (k _).models, by rw [(k _).pocket]; rfl⟩

/-- A row of output: its codes stand at their place; no byte of another row's codes, nor outside the output, changes. -/
theorem putRow_bytes (s : State) (b d base f n rows row : Nat) (c : Converted) (hr : row < rows)
    (hc : c.codes.length = n) (hs : isMx f = true → c.scales.length = n / 32) :
    pocketRead (putRow s b d base f n rows row c) b 0 (base + row * outRowBytes f n) (outRowBytes f n) =
      packCodes (outWidth f) c.codes ∧
    ∀ k, (k < pocketAddr b 0 (base + row * outRowBytes f n) ∨ pocketAddr b 0 (base + (row + 1) * outRowBytes f n) ≤ k) →
      (k < pocketAddr b 0 (base + rows * outRowBytes f n) ∨ pocketAddr b 0 base + outBytes f n rows ≤ k) →
      memByte (putRow s b d base f n rows row c).pocket k = memByte s.pocket k := by
  have hl : (packCodes (outWidth f) c.codes).length = outRowBytes f n := by rw [packCodes_length, hc]; rfl
  have ho : isMx f = true → outBytes f n rows = rows * outRowBytes f n + rows * (n / 32) := fun e => by
    unfold outBytes; rw [if_pos e]
  have hm : (row + 1) * outRowBytes f n ≤ rows * outRowBytes f n := Nat.mul_le_mul_right _ hr
  have he : (row + 1) * outRowBytes f n = row * outRowBytes f n + outRowBytes f n := Nat.succ_mul ..
  unfold pocketRead
  rw [(putRow_still s b d base f n rows row c).2.2.2]
  have hw : memBytes (memWrite s.pocket (pocketAddr b 0 (base + row * outRowBytes f n)) (packCodes (outWidth f) c.codes))
      (pocketAddr b 0 (base + row * outRowBytes f n)) (outRowBytes f n) = packCodes (outWidth f) c.codes := by
    rw [← hl]; exact memBytes_memWrite _ _ _ (packCodes_lt _ _)
  have hp : ∀ x, pocketAddr b 0 x = b * pocketBytes + x := fun x => by unfold pocketAddr; omega
  simp only [hp] at hw ⊢
  generalize b * pocketBytes = B at *
  generalize outRowBytes f n = R at *
  by_cases e : isMx f = true
  · rw [if_pos e]
    have hs' := hs e
    have h2 : (row + 1) * (n / 32) ≤ rows * (n / 32) := Nat.mul_le_mul_right _ hr
    have h3 : (row + 1) * (n / 32) = row * (n / 32) + n / 32 := Nat.succ_mul ..
    have ho := ho e
    refine ⟨?_, fun k x y => ?_⟩
    · refine Eq.trans (memBytes_congr' (fun k x y => ?_)) hw
      exact memByte_memWrite_out _ _ _ (.inl (by omega))
    · rw [memByte_memWrite_out _ _ _ (by omega), memByte_memWrite_out _ _ _ (by omega)]
  · rw [if_neg e]
    refine ⟨hw, fun k x y => ?_⟩
    rw [memByte_memWrite_out _ _ _ (by omega)]

end Sys2Proof.Machine
end

