-- ==== Sys2Proof/Laws/KeepsFlags.lean ====
section
/-! SUPPORT. What every operation of Machine/Flags.lean keeps. -/

namespace Sys2Proof.Machine

theorem setReg_keeps {s0 : State} {s : State} {k : Nat} {v : Nat} (h : Keeps s0 s) :
    Keeps s0 (setReg s k v) := by
  unfold setReg
  try dsimp only
  repeat' first
    | with_reducible assumption
    | intro _
    | split
    | with_reducible exact SameBytes.mk rfl rfl rfl
    | with_reducible exact SameBox.mk rfl
    | with_reducible exact KeysOk.refl _ _
    | ((with_reducible apply keeps_mk); (with_reducible
        first
        | assumption))
    | dsimp only

theorem bump_keeps {s0 : State} {s : State} {k : Nat} {n : Nat} (h : Keeps s0 s) :
    Keeps s0 (bump s k n) := by
  unfold bump
  try dsimp only
  repeat' first
    | with_reducible assumption
    | intro _
    | with_reducible first
      | apply setReg_keeps
    | split
    | dsimp only

theorem spendFor_keeps {s0 : State} {s : State} {o : Out} (h : Keeps s0 s) :
    Keeps s0 (spendFor s o) := by
  unfold spendFor
  try dsimp only
  repeat' first
    | with_reducible assumption
    | intro _
    | split
    | with_reducible exact SameBytes.mk rfl rfl rfl
    | with_reducible exact SameBox.mk rfl
    | exact keysOk_links (rising_upd _ _)
    | with_reducible exact KeysOk.refl _ _
    | ((with_reducible apply keeps_mk); (with_reducible
        first
        | assumption))
    | dsimp only

theorem sealLimit_keeps {s0 : State} {s : State} (h : Keeps s0 s) :
    Keeps s0 (sealLimit s) := by
  unfold sealLimit
  try dsimp only
  repeat' first
    | with_reducible assumption
    | intro _
    | with_reducible first
      | apply keeps_ite | apply setReg_keeps | apply bump_keeps
    | split
    | with_reducible exact SameBytes.mk rfl rfl rfl
    | with_reducible exact SameBox.mk rfl
    | exact keysOk_links (rising_set _ _)
    | with_reducible exact KeysOk.refl _ _
    | ((with_reducible apply keeps_mk); (with_reducible
        first
        | assumption | apply keeps_ite | apply setReg_keeps | apply bump_keeps))
    | dsimp only

theorem send_keeps {s0 : State} {s : State} {o : Out} (h : Keeps s0 s) :
    Keeps s0 (send s o) := by
  unfold send
  try dsimp only
  repeat' first
    | with_reducible assumption
    | intro _
    | with_reducible first
      | apply spendFor_keeps | apply sealLimit_keeps
    | split
    | with_reducible exact SameBytes.mk rfl rfl rfl
    | with_reducible exact SameBox.mk rfl
    | with_reducible exact KeysOk.refl _ _
    | ((with_reducible apply keeps_mk); (with_reducible
        first
        | assumption | apply spendFor_keeps | apply sealLimit_keeps))
    | dsimp only

theorem notify_keeps {s0 : State} {s : State} {event : Nat} {key : Nat} {detail : Nat} (h : Keeps s0 s) :
    Keeps s0 (notify s event key detail) := by
  unfold notify
  try dsimp only
  repeat' first
    | with_reducible assumption
    | intro _
    | with_reducible first
      | apply keeps_ite | apply send_keeps | apply bump_keeps
    | split
    | with_reducible exact SameBytes.mk rfl rfl rfl
    | with_reducible exact SameBox.mk rfl
    | with_reducible exact KeysOk.refl _ _
    | ((with_reducible apply keeps_mk); (with_reducible
        first
        | assumption | apply keeps_ite | apply send_keeps | apply bump_keeps))
    | dsimp only

theorem assertAlert_keeps {s0 : State} {s : State} {c : AlertCause} (h : Keeps s0 s) :
    Keeps s0 (assertAlert s c) := by
  unfold assertAlert
  try dsimp only
  repeat' first
    | with_reducible assumption
    | intro _
    | with_reducible first
      | apply keeps_ite | apply notify_keeps
    | split
    | with_reducible exact SameBytes.mk rfl rfl rfl
    | with_reducible exact SameBox.mk rfl
    | with_reducible exact KeysOk.refl _ _
    | ((with_reducible apply keeps_mk); (with_reducible
        first
        | assumption | apply keeps_ite | apply notify_keeps))
    | dsimp only

theorem releaseAlert_keeps {s0 : State} {s : State} {c : AlertCause} (h : Keeps s0 s) :
    Keeps s0 (releaseAlert s c) := by
  unfold releaseAlert
  try dsimp only
  repeat' first
    | with_reducible assumption
    | intro _
    | split
    | with_reducible exact SameBytes.mk rfl rfl rfl
    | with_reducible exact SameBox.mk rfl
    | with_reducible exact KeysOk.refl _ _
    | ((with_reducible apply keeps_mk); (with_reducible
        first
        | assumption))
    | dsimp only

end Sys2Proof.Machine
end

