-- ==== Sys2Proof/Laws/KeepsCount.lean ====
section
/-! SUPPORT. What every operation of Machine/Count.lean keeps. -/

namespace Sys2Proof.Machine

theorem sampleInterrupt_keeps {s0 : State} {s : State} (h : Keeps s0 s) :
    Keeps s0 (sampleInterrupt s) := by
  unfold sampleInterrupt
  try dsimp only
  repeat' first
    | with_reducible assumption
    | intro _
    | with_reducible first
      | apply keeps_ite | apply send_keeps
    | split
    | dsimp only

theorem takeSample_keeps {s0 : State} {s : State} {buffer : Nat} {ctx : Option Nat} {event : Nat} {counter : Nat}
    {skid : Bool} {t : Trace} (h : Keeps s0 s) :
    Keeps s0 (takeSample s buffer ctx event counter skid t) := by
  unfold takeSample
  try dsimp only
  repeat' first
    | with_reducible assumption
    | intro _
    | with_reducible first
      | apply keeps_ite | apply bump_keeps | apply sampleInterrupt_keeps
    | split
    | with_reducible exact SameBytes.mk rfl rfl rfl
    | with_reducible exact SameBox.mk rfl
    | with_reducible exact KeysOk.refl _ _
    | ((with_reducible apply keeps_mk); (with_reducible
        first
        | assumption | apply keeps_ite | apply bump_keeps | apply sampleInterrupt_keeps))
    | dsimp only

theorem takeSamples_keeps {s0 : State} {s : State} {buffer : Nat} {ctx : Option Nat} {event : Nat} {counter : Nat}
    {period : Nat} {old : Nat} {new : Nat} {t : Trace} (h : Keeps s0 s) :
    Keeps s0 (takeSamples s buffer ctx event counter period old new t) := by
  unfold takeSamples
  try dsimp only
  repeat' first
    | with_reducible assumption
    | intro _
    | with_reducible first
      | apply keeps_foldl | apply takeSample_keeps
    | split
    | with_reducible exact SameBytes.mk rfl rfl rfl
    | with_reducible exact SameBox.mk rfl
    | with_reducible exact KeysOk.refl _ _
    | ((with_reducible apply keeps_mk); (with_reducible
        first
        | assumption | apply keeps_foldl | apply takeSample_keeps))
    | dsimp only

theorem countBlock_keeps {s0 : State} {s : State} {b : Nat} {event : Nat} {n : Nat} {t : Trace} (h : Keeps s0 s) :
    Keeps s0 (countBlock s b event n t) := by
  unfold countBlock
  try dsimp only
  repeat' first
    | with_reducible assumption
    | intro _
    | with_reducible first
      | apply keeps_foldl | apply takeSamples_keeps
    | split
    | with_reducible exact SameBytes.mk rfl rfl rfl
    | with_reducible exact SameBox.mk rfl
    | with_reducible exact KeysOk.refl _ _
    | ((with_reducible apply keeps_mk); (with_reducible
        first
        | assumption | apply keeps_foldl | apply takeSamples_keeps))
    | dsimp only

theorem countRegion_keeps {s0 : State} {s : State} {r : Nat} {event : Nat} {n : Nat} {t : Trace} (h : Keeps s0 s) :
    Keeps s0 (countRegion s r event n t) := by
  unfold countRegion
  try dsimp only
  repeat' first
    | with_reducible assumption
    | intro _
    | with_reducible first
      | apply keeps_ite | apply keeps_foldl | apply takeSamples_keeps
    | split
    | with_reducible exact SameBytes.mk rfl rfl rfl
    | with_reducible exact SameBox.mk rfl
    | with_reducible exact KeysOk.refl _ _
    | ((with_reducible apply keeps_mk); (with_reducible
        first
        | assumption | apply keeps_ite | apply keeps_foldl | apply takeSamples_keeps))
    | dsimp only

theorem countChip_keeps {s0 : State} {s : State} {event : Nat} {n : Nat} {t : Trace} (h : Keeps s0 s) :
    Keeps s0 (countChip s event n t) := by
  unfold countChip
  try dsimp only
  repeat' first
    | with_reducible assumption
    | intro _
    | with_reducible first
      | apply keeps_ite | apply keeps_foldl | apply takeSamples_keeps
    | split
    | with_reducible exact SameBytes.mk rfl rfl rfl
    | with_reducible exact SameBox.mk rfl
    | with_reducible exact KeysOk.refl _ _
    | ((with_reducible apply keeps_mk); (with_reducible
        first
        | assumption | apply keeps_ite | apply keeps_foldl | apply takeSamples_keeps))
    | dsimp only

theorem advanceOne_keeps {s0 : State} {s : State} {tab : Sys2Proof.Tab Nat} {key : Nat} {buffer : Nat} {ctx : Option
    Nat} {p : Nat × Nat} {t : Trace} (h : Keeps s0 s) :
    Keeps s0 (advanceOne s tab key buffer ctx p t).2 := by
  unfold advanceOne
  try dsimp only
  repeat' first
    | with_reducible assumption
    | intro _
    | with_reducible first
      | apply keeps_ite_snd | apply keeps_foldl_snd | apply takeSamples_keeps
      | refine keeps_pair_snd (by assumption) ?_
    | split
    | with_reducible exact SameBytes.mk rfl rfl rfl
    | with_reducible exact SameBox.mk rfl
    | with_reducible exact KeysOk.refl _ _
    | ((with_reducible apply keeps_mk); (with_reducible
        first
        | assumption | apply keeps_ite_snd | apply keeps_foldl_snd | apply takeSamples_keeps
        | refine keeps_pair_snd (by assumption) ?_))
    | dsimp only

theorem advanceTimed_keeps {s0 : State} {s : State} (h : Keeps s0 s) :
    Keeps s0 (advanceTimed s) := by
  unfold advanceTimed
  try dsimp only
  repeat' first
    | with_reducible assumption
    | intro _
    | with_reducible first
      | apply keeps_ite | apply keeps_foldl | apply keeps_ite_snd | apply keeps_foldl_snd | apply advanceOne_keeps
      | refine keeps_pair_snd (by assumption) ?_
    | split
    | with_reducible exact SameBytes.mk rfl rfl rfl
    | with_reducible exact SameBox.mk rfl
    | with_reducible exact KeysOk.refl _ _
    | ((with_reducible apply keeps_mk); (with_reducible
        first
        | assumption | apply keeps_ite | apply keeps_foldl | apply keeps_ite_snd | apply keeps_foldl_snd
        | apply advanceOne_keeps | refine keeps_pair_snd (by assumption) ?_))
    | dsimp only

theorem tallyJob_keeps {s0 : State} {s : State} {j : Job} {event : Nat} {n : Nat} (h : Keeps s0 s) :
    Keeps s0 (tallyJob s j event n) := by
  unfold tallyJob
  try dsimp only
  repeat' first
    | with_reducible assumption
    | intro _
    | with_reducible first
      | apply countRegion_keeps
    | split
    | dsimp only

end Sys2Proof.Machine
end

