-- ==== Sys2Proof/Laws/KeepsOps.lean ====
section
/-! SUPPORT. What every operation of Machine/Ops.lean keeps. -/

namespace Sys2Proof.Machine

theorem showPower_keeps {s0 : State} {s : State} (h : Keeps s0 s) :
    Keeps s0 (showPower s) := by
  unfold showPower
  try dsimp only
  repeat' first
    | with_reducible assumption
    | intro _
    | with_reducible first
      | apply keeps_ite | apply setReg_keeps
    | split
    | dsimp only

theorem askWake_keeps {s0 : State} {s : State} {r : Nat} (h : Keeps s0 s) :
    Keeps s0 (askWake s r) := by
  unfold askWake
  try dsimp only
  repeat' first
    | with_reducible assumption
    | intro _
    | with_reducible first
      | apply keeps_ite | apply setReg_keeps | apply showPower_keeps
    | split
    | with_reducible exact SameBytes.mk rfl rfl rfl
    | with_reducible exact SameBox.mk rfl
    | with_reducible exact KeysOk.refl _ _
    | ((with_reducible apply keeps_mk); (with_reducible
        first
        | assumption | apply keeps_ite | apply setReg_keeps | apply showPower_keeps))
    | dsimp only

theorem needRegion_keeps {s0 : State} {s : State} {r : Nat} (h : Keeps s0 s) :
    Keeps s0 (needRegion s r) := by
  unfold needRegion
  try dsimp only
  repeat' first
    | with_reducible assumption
    | intro _
    | with_reducible first
      | apply keeps_ite | apply askWake_keeps | apply setReg_keeps
    | split
    | dsimp only

theorem logError_keeps {s0 : State} {s : State} {unit : LogUnit} {inst : Nat} {status : Nat} {ctx : Nat} {action :
    LogAction} {detail : Nat} (h : Keeps s0 s) :
    Keeps s0 (logError s unit inst status ctx action detail) := by
  unfold logError
  try dsimp only
  repeat' first
    | with_reducible assumption
    | intro _
    | with_reducible first
      | apply setReg_keeps
    | split
    | with_reducible exact SameBytes.mk rfl rfl rfl
    | with_reducible exact SameBox.mk rfl
    | with_reducible exact KeysOk.refl _ _
    | ((with_reducible apply keeps_mk); (with_reducible
        first
        | assumption | apply setReg_keeps))
    | dsimp only

theorem setCtx_keeps {s0 : State} {s : State} {c : Nat} {x : Ctx} (h : Keeps s0 s) :
    Keeps s0 (setCtx s c x) := by
  unfold setCtx
  try dsimp only
  repeat' first
    | with_reducible assumption
    | intro _
    | split
    | with_reducible exact SameBytes.mk rfl rfl rfl
    | with_reducible exact SameBox.mk rfl
    | with_reducible exact KeysOk.refl _ _
    | ((with_reducible apply keeps_mk); (with_reducible
        first
        | assumption))
    | dsimp only

theorem updCtx_keeps {s0 : State} {s : State} {c : Nat} {f : Ctx → Ctx} (h : Keeps s0 s) :
    Keeps s0 (updCtx s c f) := by
  unfold updCtx
  try dsimp only
  repeat' first
    | with_reducible assumption
    | intro _
    | with_reducible first
      | apply setCtx_keeps
    | split
    | dsimp only

theorem progressOf_keeps {s0 : State} {s : State} {c : Nat} (h : Keeps s0 s) :
    Keeps s0 (progressOf s c) := by
  unfold progressOf
  try dsimp only
  repeat' first
    | with_reducible assumption
    | intro _
    | with_reducible first
      | apply setCtx_keeps
    | split
    | with_reducible exact SameBytes.mk rfl rfl rfl
    | with_reducible exact SameBox.mk rfl
    | with_reducible exact KeysOk.refl _ _
    | ((with_reducible apply keeps_mk); (with_reducible
        first
        | assumption | apply setCtx_keeps))
    | dsimp only

theorem updJob_keeps {s0 : State} {s : State} {id : Nat} {f : Job → Job} (h : Keeps s0 s) :
    Keeps s0 (updJob s id f) := by
  unfold updJob
  try dsimp only
  repeat' first
    | with_reducible assumption
    | intro _
    | split
    | with_reducible exact SameBytes.mk rfl rfl rfl
    | with_reducible exact SameBox.mk rfl
    | exact keysOk_jobs (rising_upd _ _)
    | with_reducible exact KeysOk.refl _ _
    | ((with_reducible apply keeps_mk); (with_reducible
        first
        | assumption))
    | dsimp only

theorem finish_keeps {s0 : State} {s : State} {id : Nat} {status : Nat} {result : Nat} (h : Keeps s0 s) :
    Keeps s0 (finish s id status result) := by
  unfold finish
  try dsimp only
  repeat' first
    | with_reducible assumption
    | intro _
    | with_reducible first
      | apply keeps_ite | apply updJob_keeps | apply progressOf_keeps
    | split
    | with_reducible exact SameBytes.mk rfl rfl rfl
    | with_reducible exact SameBox.mk rfl
    | with_reducible exact KeysOk.refl _ _
    | ((with_reducible apply keeps_mk); (with_reducible
        first
        | assumption | apply keeps_ite | apply updJob_keeps | apply progressOf_keeps))
    | dsimp only

theorem takeFree_keeps {s0 : State} {s : State} (h : Keeps s0 s) :
    Keeps s0 (takeFree s).2 := by
  unfold takeFree
  try dsimp only
  repeat' first
    | with_reducible assumption
    | intro _
    | with_reducible first
      | apply keeps_ite_snd | apply keeps_foldl_snd | refine keeps_pair_snd (by assumption) ?_
    | split
    | with_reducible exact SameBytes.mk rfl rfl rfl
    | with_reducible exact SameBox.mk rfl
    | with_reducible exact KeysOk.refl _ _
    | ((with_reducible apply keeps_mk); (with_reducible
        first
        | assumption | apply keeps_ite_snd | apply keeps_foldl_snd | refine keeps_pair_snd (by assumption) ?_))
    | dsimp only

theorem drawSecret_keeps {s0 : State} {s : State} (h : Keeps s0 s) :
    Keeps s0 (drawSecret s).2 := by
  unfold drawSecret
  try dsimp only
  repeat' first
    | with_reducible assumption
    | intro _
    | with_reducible first
      | apply keeps_ite_snd | apply keeps_foldl_snd | apply takeFree_keeps
      | refine keeps_pair_snd (by assumption) ?_
    | split
    | with_reducible exact SameBytes.mk rfl rfl rfl
    | with_reducible exact SameBox.mk rfl
    | with_reducible exact KeysOk.refl _ _
    | ((with_reducible apply keeps_mk); (with_reducible
        first
        | assumption | apply keeps_ite_snd | apply keeps_foldl_snd | apply takeFree_keeps
        | refine keeps_pair_snd (by assumption) ?_))
    | dsimp only

theorem sendAbort_keeps {s0 : State} {s : State} {origin : Nat} {job : Nat} {gen : Nat} {cause : Nat} {except :
    Option Nat} (h : Keeps s0 s) :
    Keeps s0 (sendAbort s origin job gen cause except) := by
  unfold sendAbort
  try dsimp only
  repeat' first
    | with_reducible assumption
    | intro _
    | with_reducible first
      | apply keeps_foldl | apply send_keeps
    | split
    | dsimp only

theorem beginAbort_keeps {s0 : State} {s : State} {job : Nat} {cause : Nat} (h : Keeps s0 s) :
    Keeps s0 (beginAbort s job cause) := by
  unfold beginAbort
  try dsimp only
  repeat' first
    | with_reducible assumption
    | intro _
    | with_reducible first
      | apply keeps_ite | apply setReg_keeps | apply sendAbort_keeps | apply countChip_keeps | apply bump_keeps
    | split
    | with_reducible exact SameBytes.mk rfl rfl rfl
    | with_reducible exact SameBox.mk rfl
    | with_reducible exact KeysOk.refl _ _
    | ((with_reducible apply keeps_mk); (with_reducible
        first
        | assumption | apply keeps_ite | apply setReg_keeps | apply sendAbort_keeps | apply countChip_keeps
        | apply bump_keeps))
    | dsimp only

theorem fenceBy_keeps {s0 : State} {s : State} {c : Nat} {status : Nat} {blame : Option Nat} {after : Bool} {unit :
    LogUnit} {inst : Nat} (h : Keeps s0 s) :
    Keeps s0 (fenceBy s c status blame after unit inst) := by
  unfold fenceBy
  try dsimp only
  repeat' first
    | with_reducible assumption
    | intro _
    | with_reducible first
      | apply keeps_ite | apply logError_keeps | apply setCtx_keeps | apply bump_keeps | apply beginAbort_keeps
    | split
    | with_reducible exact SameBytes.mk rfl rfl rfl
    | with_reducible exact SameBox.mk rfl
    | with_reducible exact KeysOk.refl _ _
    | ((with_reducible apply keeps_mk); (with_reducible
        first
        | assumption | apply keeps_ite | apply logError_keeps | apply setCtx_keeps | apply bump_keeps
        | apply beginAbort_keeps))
    | dsimp only

theorem fence_keeps {s0 : State} {s : State} {c : Nat} {status : Nat} {blame : Option Nat} {after : Bool} (h : Keeps
    s0 s) :
    Keeps s0 (fence s c status blame after) := by
  unfold fence
  try dsimp only
  repeat' first
    | with_reducible assumption
    | intro _
    | with_reducible first
      | apply fenceBy_keeps
    | split
    | dsimp only

theorem faultJob_keeps {s0 : State} {s : State} {id : Nat} {c : Nat} {status : Nat} (h : Keeps s0 s) :
    Keeps s0 (faultJob s id c status) := by
  unfold faultJob
  try dsimp only
  repeat' first
    | with_reducible assumption
    | intro _
    | with_reducible first
      | apply fence_keeps
    | split
    | dsimp only

theorem faultJobAs_keeps {s0 : State} {s : State} {id : Nat} {c : Nat} {ctxStatus : Nat} {jobStatus : Nat} (h :
    Keeps s0 s) :
    Keeps s0 (faultJobAs s id c ctxStatus jobStatus) := by
  unfold faultJobAs
  try dsimp only
  repeat' first
    | with_reducible assumption
    | intro _
    | with_reducible first
      | apply fence_keeps | apply updCtx_keeps
    | split
    | with_reducible exact SameBytes.mk rfl rfl rfl
    | with_reducible exact SameBox.mk rfl
    | with_reducible exact KeysOk.refl _ _
    | ((with_reducible apply keeps_mk); (with_reducible
        first
        | assumption | apply fence_keeps | apply updCtx_keeps))
    | dsimp only

theorem faultCtx_keeps {s0 : State} {s : State} {c : Nat} {status : Nat} (h : Keeps s0 s) :
    Keeps s0 (faultCtx s c status) := by
  unfold faultCtx
  try dsimp only
  repeat' first
    | with_reducible assumption
    | intro _
    | with_reducible first
      | apply fence_keeps
    | split
    | dsimp only

theorem releaseUnits_keeps {s0 : State} {s : State} {us : List Nat} (h : Keeps s0 s) :
    Keeps s0 (releaseUnits s us) := by
  unfold releaseUnits
  try dsimp only
  repeat' first
    | with_reducible assumption
    | intro _
    | with_reducible first
      | apply keeps_foldl
    | split
    | ((with_reducible apply keeps_mk_full); (with_reducible
        first
        | assumption | apply keeps_foldl))
    | exact EepromKeeps.refl _
    | exact EepromKeeps.mk rfl rfl rfl rfl rfl rfl rfl (by first | exact Nat.le_refl _ | exact Nat.le_succ _)
    | with_reducible exact KeysOk.refl _ _
    | (refine BytesOk.of fun a b c d e => ⟨?_, ?_, ?_, ?_, ?_⟩) <;> repeat' first
        | assumption | exact memWf_nil | apply memWf_clear | apply memWf_putNat | apply memWf_write | apply memWf_copy
        | apply memWf_filter | apply memWf_put | apply memWf_foldl | intro _ | split
    | dsimp only

theorem reportPages_keeps {s0 : State} {s : State} (h : Keeps s0 s) :
    Keeps s0 (reportPages s) := by
  unfold reportPages
  try dsimp only
  repeat' first
    | with_reducible assumption
    | intro _
    | with_reducible first
      | apply setReg_keeps
    | split
    | dsimp only

theorem dropPages_keeps {s0 : State} {s : State} {c : Nat} (h : Keeps s0 s) :
    Keeps s0 (dropPages s c) := by
  unfold dropPages
  try dsimp only
  repeat' first
    | with_reducible assumption
    | intro _
    | with_reducible first
      | apply reportPages_keeps | apply bump_keeps
    | split
    | with_reducible exact SameBytes.mk rfl rfl rfl
    | with_reducible exact SameBox.mk rfl
    | with_reducible exact KeysOk.refl _ _
    | ((with_reducible apply keeps_mk); (with_reducible
        first
        | assumption | apply reportPages_keeps | apply bump_keeps))
    | dsimp only

theorem drainEnd_keeps {s0 : State} {s : State} {c : Nat} (h : Keeps s0 s) :
    Keeps s0 (drainEnd s c) := by
  unfold drainEnd
  try dsimp only
  repeat' first
    | with_reducible assumption
    | intro _
    | with_reducible first
      | apply keeps_ite | apply keeps_foldl | apply finish_keeps | apply dropPages_keeps | apply releaseUnits_keeps
      | apply setCtx_keeps
    | split
    | with_reducible exact SameBytes.mk rfl rfl rfl
    | with_reducible exact SameBox.mk rfl
    | with_reducible exact KeysOk.refl _ _
    | ((with_reducible apply keeps_mk); (with_reducible
        first
        | assumption | apply keeps_ite | apply keeps_foldl | apply finish_keeps | apply dropPages_keeps
        | apply releaseUnits_keeps | apply setCtx_keeps))
    | dsimp only

theorem quarantineAs_keeps {s0 : State} {s : State} {b : Nat} {status : Nat} {detail : Nat} (h : Keeps s0 s) :
    Keeps s0 (quarantineAs s b status detail) := by
  unfold quarantineAs
  try dsimp only
  repeat' first
    | with_reducible assumption
    | intro _
    | with_reducible first
      | apply keeps_ite | apply bump_keeps | apply logError_keeps | apply faultCtx_keeps | apply notify_keeps
    | split
    | ((with_reducible apply keeps_mk_full); (with_reducible
        first
        | assumption | apply keeps_ite | apply bump_keeps | apply logError_keeps | apply faultCtx_keeps
        | apply notify_keeps))
    | exact EepromKeeps.refl _
    | exact EepromKeeps.mk rfl rfl rfl rfl rfl rfl rfl (by first | exact Nat.le_refl _ | exact Nat.le_succ _)
    | with_reducible exact KeysOk.refl _ _
    | (refine BytesOk.of fun a b c d e => ⟨?_, ?_, ?_, ?_, ?_⟩) <;> repeat' first
        | assumption | exact memWf_nil | apply memWf_clear | apply memWf_putNat | apply memWf_write | apply memWf_copy
        | apply memWf_filter | apply memWf_put | apply memWf_foldl | intro _ | split
    | dsimp only

theorem quarantine_keeps {s0 : State} {s : State} {b : Nat} {status : Nat} (h : Keeps s0 s) :
    Keeps s0 (quarantine s b status) := by
  unfold quarantine
  try dsimp only
  repeat' first
    | with_reducible assumption
    | intro _
    | with_reducible first
      | apply quarantineAs_keeps
    | split
    | dsimp only

theorem settleMap_keeps {s0 : State} {s : State} (h : Keeps s0 s) :
    Keeps s0 (settleMap s) := by
  unfold settleMap
  try dsimp only
  repeat' first
    | with_reducible assumption
    | intro _
    | with_reducible first
      | apply keeps_foldl | apply setReg_keeps
    | split
    | ((with_reducible apply keeps_mk_full); (with_reducible
        first
        | assumption | apply keeps_foldl | apply setReg_keeps))
    | exact EepromKeeps.refl _
    | exact EepromKeeps.mk rfl rfl rfl rfl rfl rfl rfl (by first | exact Nat.le_refl _ | exact Nat.le_succ _)
    | with_reducible exact KeysOk.refl _ _
    | (refine BytesOk.of fun a b c d e => ⟨?_, ?_, ?_, ?_, ?_⟩) <;> repeat' first
        | assumption | exact memWf_nil | apply memWf_clear | apply memWf_putNat | apply memWf_write | apply memWf_copy
        | apply memWf_filter | apply memWf_put | apply memWf_foldl | intro _ | split
    | dsimp only

theorem loseJob_keeps {s0 : State} {s : State} {j : Job} (h : Keeps s0 s) :
    Keeps s0 (loseJob s j) := by
  unfold loseJob
  try dsimp only
  repeat' first
    | with_reducible assumption
    | intro _
    | with_reducible first
      | apply bump_keeps
    | split
    | dsimp only

theorem warmReset_keeps {s0 s : State} {fatal : Bool} {unit : LogUnit} {inst cause detail : Nat} (h : Keeps s0 s) :
    Keeps s0 (warmReset s fatal unit inst cause detail) := by
  have h2 : Keeps s0 (settleMap { logError (((List.range 255).filter (fun j => jobState (jobEntry s j) == 1 &&
      (ctxOfJob s j).isSome)).foldl (fun t j => beginAbort t j Code.CTX_TORN_DOWN) s) unit inst cause noCtx .warmReset
      detail with chip := { (logError (((List.range 255).filter (fun j => jobState (jobEntry s j) == 1 &&
      (ctxOfJob s j).isSome)).foldl (fun t j => beginAbort t j Code.CTX_TORN_DOWN) s) unit inst cause noCtx .warmReset
      detail).chip with passed := [] } }) :=
    settleMap_keeps (keeps_mk (logError_keeps (keeps_foldl h fun _ _ ht => beginAbort_keeps ht)) ⟨rfl, rfl, rfl⟩ ⟨rfl⟩ (.refl _ _))
  refine Keeps.rebuilt (setReg_keeps (bump_keeps (bump_keeps (keeps_foldl h2 fun _ _ ht => loseJob_keeps ht))))
    h.pending (.refl _) (fun a b c d e => ⟨?_, b, c, rfl, rfl⟩) ⟨fun _ => rising_nil, fun w => by unfold warmReset; dsimp only; exact rising_map _ w⟩
  exact memWf_copy _ _ _ _ c

theorem powerLost_keeps {s0 s : State} (h : Keeps s0 s) : Keeps s0 (powerLost s) :=
  h.rebuilt h.pending (.refl _) (fun _ b c _ _ => ⟨c, b, c, rfl, rfl⟩) ⟨fun _ => rising_nil, fun _ => rising_nil⟩

theorem fatalError_keeps {s0 : State} {s : State} {unit : LogUnit} {inst : Nat} {cause : Nat} {detail : Nat} (h :
    Keeps s0 s) :
    Keeps s0 (fatalError s unit inst cause detail) := by
  unfold fatalError
  try dsimp only
  repeat' first
    | with_reducible assumption
    | intro _
    | with_reducible first
      | apply warmReset_keeps
    | split
    | dsimp only

end Sys2Proof.Machine
end

