-- ==== Sys2Proof/Laws/KeepsMemory.lean ====
section
/-! SUPPORT. What every operation of Machine/Memory.lean keeps. -/

namespace Sys2Proof.Machine

theorem setUnit_keeps {s0 : State} {s : State} {u : Nat} {x : UnitInfo} (h : Keeps s0 s) :
    Keeps s0 (setUnit s u x) := by
  unfold setUnit
  try dsimp only
  repeat' first
    | with_reducible assumption
    | intro _
    | split
    | with_reducible exact SameBytes.mk rfl rfl rfl
    | with_reducible exact SameBox.mk rfl
    | with_reducible exact KeysOk.refl _ _
    | ((with_reducible apply keeps_mk); (with_reducible
        first
        | assumption))
    | dsimp only

theorem startMove_keeps {s0 : State} {s : State} {u : Nat} {dest : Home} {cause : MoveCause} (h : Keeps s0 s) :
    Keeps s0 (startMove s u dest cause) := by
  unfold startMove
  try dsimp only
  repeat' first
    | with_reducible assumption
    | intro _
    | with_reducible first
      | apply setUnit_keeps
    | split
    | with_reducible exact SameBytes.mk rfl rfl rfl
    | with_reducible exact SameBox.mk rfl
    | with_reducible exact KeysOk.refl _ _
    | ((with_reducible apply keeps_mk); (with_reducible
        first
        | assumption | apply setUnit_keeps))
    | dsimp only

theorem demoteIn_keeps {s0 : State} {s : State} {r : Nat} (h : Keeps s0 s) :
    (demoteIn s r).Keeps s0 := by
  unfold demoteIn
  try dsimp only
  repeat' first
    | with_reducible assumption
    | intro _
    | with_reducible first
      | apply keeps_ite | apply alloc_home | apply alloc_fail | apply alloc_wait | apply alloc_ite
      | apply startMove_keeps | refine keeps_alloc_wait (by assumption) ?_
    | split
    | dsimp only

theorem allocate_keeps {s0 : State} {s : State} {pref : Nat} (h : Keeps s0 s) :
    (allocate s pref).Keeps s0 := by
  unfold allocate
  try dsimp only
  repeat' first
    | with_reducible assumption
    | intro _
    | with_reducible first
      | apply keeps_ite | apply alloc_home | apply alloc_fail | apply alloc_wait | apply alloc_ite
      | apply demoteIn_keeps | refine keeps_alloc_wait (by assumption) ?_
    | split
    | dsimp only

theorem allocateRun_keeps {s0 : State} {s : State} {first : Nat} {owner : UnitOwner} {skew : Nat} {x4 : Nat} {x5 :
    Nat} (h : Keeps s0 s) :
    OptKeeps s0 (allocateRun s first owner skew x4 x5) := by
  induction x4 generalizing s x5 with
  | zero =>
    unfold allocateRun
    try dsimp only
    repeat' first
      | with_reducible assumption
      | intro _
      | with_reducible first
        | apply ih | apply optKeeps_none | apply optKeeps_some | apply optKeeps_ite | apply alloc_home
        | apply alloc_fail | apply alloc_wait | apply alloc_ite | apply allocate_keeps | apply setUnit_keeps
        | refine keeps_opt (by assumption) ?_ | refine keeps_alloc_wait (by assumption) ?_
      | split
      | dsimp only
  | succ n ih =>
    unfold allocateRun
    try dsimp only
    repeat' first
      | with_reducible assumption
      | intro _
      | with_reducible first
        | apply ih | apply optKeeps_none | apply optKeeps_some | apply optKeeps_ite | apply alloc_home
        | apply alloc_fail | apply alloc_wait | apply alloc_ite | apply allocate_keeps | apply setUnit_keeps
        | refine keeps_opt (by assumption) ?_ | refine keeps_alloc_wait (by assumption) ?_
      | split
      | dsimp only

theorem promote_keeps {s0 : State} {s : State} {u : Nat} {x : UnitInfo} {pref : Nat} (h : Keeps s0 s) :
    Keeps s0 (promote s u x pref) := by
  unfold promote
  try dsimp only
  repeat' first
    | with_reducible assumption
    | intro _
    | with_reducible first
      | apply keeps_ite | apply alloc_home | apply alloc_fail | apply alloc_wait | apply alloc_ite
      | apply allocate_keeps | apply startMove_keeps | refine keeps_alloc_wait (by assumption) ?_
    | split
    | dsimp only

theorem touchUnit_keeps {s0 : State} {s : State} {u : Nat} (h : Keeps s0 s) :
    Keeps s0 (touchUnit s u) := by
  unfold touchUnit
  try dsimp only
  repeat' first
    | with_reducible assumption
    | intro _
    | with_reducible first
      | apply promote_keeps | apply setUnit_keeps
    | split
    | with_reducible exact SameBytes.mk rfl rfl rfl
    | with_reducible exact SameBox.mk rfl
    | with_reducible exact KeysOk.refl _ _
    | ((with_reducible apply keeps_mk); (with_reducible
        first
        | assumption | apply promote_keeps | apply setUnit_keeps))
    | dsimp only

theorem touchUnits_keeps {s0 : State} {s : State} {a : Nat} {n : Nat} (h : Keeps s0 s) :
    Keeps s0 (touchUnits s a n) := by
  unfold touchUnits
  try dsimp only
  repeat' first
    | with_reducible assumption
    | intro _
    | with_reducible first
      | apply keeps_ite | apply keeps_foldl | apply touchUnit_keeps
    | split
    | dsimp only

theorem countReads_keeps {s0 : State} {s : State} {a : Nat} {n : Nat} (h : Keeps s0 s) :
    Keeps s0 (countReads s a n) := by
  unfold countReads
  try dsimp only
  repeat' first
    | with_reducible assumption
    | intro _
    | with_reducible first
      | apply keeps_ite | apply keeps_foldl | apply countRegion_keeps
    | split
    | dsimp only

theorem countWrites_keeps {s0 : State} {s : State} {a : Nat} {n : Nat} (h : Keeps s0 s) :
    Keeps s0 (countWrites s a n) := by
  unfold countWrites
  try dsimp only
  repeat' first
    | with_reducible assumption
    | intro _
    | with_reducible first
      | apply keeps_foldl | apply countRegion_keeps
    | split
    | dsimp only

theorem touchRange_keeps {s0 : State} {s : State} {a : Nat} {n : Nat} (h : Keeps s0 s) :
    Keeps s0 (touchRange s a n) := by
  unfold touchRange
  try dsimp only
  repeat' first
    | with_reducible assumption
    | intro _
    | with_reducible first
      | apply countReads_keeps | apply touchUnits_keeps
    | split
    | dsimp only

theorem touchRanges_keeps {s0 : State} {s : State} {rs : List (Nat × Nat)} (h : Keeps s0 s) :
    Keeps s0 (touchRanges s rs) := keeps_foldl h (fun _ _ h => touchRange_keeps h)

theorem noteStall_keeps {s0 : State} {s : State} {u : Nat} {x : UnitInfo} {m : Move} (h : Keeps s0 s) :
    Keeps s0 (noteStall s u x m) := by
  unfold noteStall
  try dsimp only
  repeat' first
    | with_reducible assumption
    | intro _
    | with_reducible first
      | apply setUnit_keeps
    | split
    | with_reducible exact SameBytes.mk rfl rfl rfl
    | with_reducible exact SameBox.mk rfl
    | with_reducible exact KeysOk.refl _ _
    | ((with_reducible apply keeps_mk); (with_reducible
        first
        | assumption | apply setUnit_keeps))
    | dsimp only

theorem prepareUnit_keeps {s0 : State} {s : State} {u : Nat} (h : Keeps s0 s) :
    (prepareUnit s u).Keeps s0 := by
  unfold prepareUnit
  try dsimp only
  repeat' first
    | with_reducible assumption
    | intro _
    | with_reducible first
      | apply keeps_ite | apply alloc_home | apply alloc_fail | apply alloc_wait | apply alloc_ite
      | apply prep_ready | apply prep_wait | apply prep_fail | apply prep_ite | apply noteStall_keeps
      | apply setUnit_keeps | apply allocate_keeps | refine keeps_alloc_wait (by assumption) ?_
      | refine keeps_prep_ready (by assumption) ?_ | refine keeps_prep_wait (by assumption) ?_
      | refine keeps_prep_fail (by assumption) ?_
    | split
    | dsimp only

theorem prepareUnits_keeps {s0 : State} {x0 : State} {x1 : List Nat} (h : Keeps s0 x0) :
    (prepareUnits x0 x1).Keeps s0 := by
  induction x1 generalizing x0 with
  | nil =>
    unfold prepareUnits
    try dsimp only
    repeat' first
      | with_reducible assumption
      | intro _
      | with_reducible first
        | apply ih | apply prep_ready | apply prep_wait | apply prep_fail | apply prep_ite | apply prepareUnit_keeps
        | refine keeps_prep_ready (by assumption) ?_ | refine keeps_prep_wait (by assumption) ?_
        | refine keeps_prep_fail (by assumption) ?_
      | split
      | dsimp only
  | cons x l ih =>
    unfold prepareUnits
    try dsimp only
    repeat' first
      | with_reducible assumption
      | intro _
      | with_reducible first
        | apply ih | apply prep_ready | apply prep_wait | apply prep_fail | apply prep_ite | apply prepareUnit_keeps
        | refine keeps_prep_ready (by assumption) ?_ | refine keeps_prep_wait (by assumption) ?_
        | refine keeps_prep_fail (by assumption) ?_
      | split
      | dsimp only

theorem prepareWrite_keeps {s0 : State} {s : State} {a : Nat} {n : Nat} (h : Keeps s0 s) :
    (prepareWrite s a n).Keeps s0 := by
  unfold prepareWrite
  try dsimp only
  repeat' first
    | with_reducible assumption
    | intro _
    | with_reducible first
      | apply keeps_ite | apply prep_ready | apply prep_wait | apply prep_fail | apply prep_ite
      | apply prepareUnits_keeps | refine keeps_prep_ready (by assumption) ?_
      | refine keeps_prep_wait (by assumption) ?_ | refine keeps_prep_fail (by assumption) ?_
    | split
    | dsimp only

theorem stageRange_keeps {s0 : State} {s : State} {a : Nat} {n : Nat} {counted : Bool} (h : Keeps s0 s) :
    Keeps s0 (stageRange s a n counted) := by
  unfold stageRange
  try dsimp only
  repeat' first
    | with_reducible assumption
    | intro _
    | with_reducible first
      | apply keeps_ite | apply keeps_foldl
    | split
    | with_reducible exact SameBytes.mk rfl rfl rfl
    | with_reducible exact SameBox.mk rfl
    | with_reducible exact KeysOk.refl _ _
    | ((with_reducible apply keeps_mk); (with_reducible
        first
        | assumption | apply keeps_ite | apply keeps_foldl))
    | dsimp only

theorem unpoison_keeps {s0 : State} {s : State} {a : Nat} {n : Nat} (h : Keeps s0 s) :
    Keeps s0 (unpoison s a n) := by
  unfold unpoison
  try dsimp only
  repeat' first
    | with_reducible assumption
    | intro _
    | split
    | with_reducible exact SameBytes.mk rfl rfl rfl
    | with_reducible exact SameBox.mk rfl
    | with_reducible exact KeysOk.refl _ _
    | ((with_reducible apply keeps_mk); (with_reducible
        first
        | assumption))
    | dsimp only

theorem noteWritten_keeps {s0 : State} {s : State} {a n : Nat} (h : Keeps s0 s) : Keeps s0 (noteWritten s a n) :=
  countWrites_keeps (touchUnits_keeps (unpoison_keeps h))

theorem writeBytes_keeps {s0 : State} {s : State} {a : Nat} {bs : List Nat} (h : Keeps s0 s) :
    Keeps s0 (writeBytes s a bs) := by
  unfold writeBytes
  try dsimp only
  repeat' first
    | with_reducible assumption
    | intro _
    | with_reducible first
      | apply keeps_ite | apply send_keeps | apply countWrites_keeps | apply touchUnits_keeps
      | apply stageRange_keeps | apply unpoison_keeps
    | split
    | ((with_reducible apply keeps_mk_full); (with_reducible
        first
        | assumption | apply keeps_ite | apply send_keeps | apply countWrites_keeps | apply touchUnits_keeps
        | apply stageRange_keeps | apply unpoison_keeps))
    | exact EepromKeeps.refl _
    | exact EepromKeeps.mk rfl rfl rfl rfl rfl rfl rfl (by first | exact Nat.le_refl _ | exact Nat.le_succ _)
    | with_reducible exact KeysOk.refl _ _
    | (refine BytesOk.of fun a b c d e => ⟨?_, ?_, ?_, ?_, ?_⟩) <;> repeat' first
        | assumption | exact memWf_nil | apply memWf_clear | apply memWf_putNat | apply memWf_write | apply memWf_copy
        | apply memWf_filter | apply memWf_put | apply memWf_foldl | intro _ | split
    | dsimp only

theorem startProgram_keeps {s0 : State} {s : State} {stripe : Nat} (h : Keeps s0 s) :
    Keeps s0 (startProgram s stripe) := by
  unfold startProgram
  try dsimp only
  repeat' first
    | with_reducible assumption
    | intro _
    | with_reducible first
      | apply keeps_ite | apply countRegion_keeps
    | split
    | with_reducible exact SameBytes.mk rfl rfl rfl
    | with_reducible exact SameBox.mk rfl
    | with_reducible exact KeysOk.refl _ _
    | ((with_reducible apply keeps_mk); (with_reducible
        first
        | assumption | apply keeps_ite | apply countRegion_keeps))
    | dsimp only

theorem programDone_keeps {s0 : State} {s : State} {stripe : Nat} {p : Program} (h : Keeps s0 s) :
    Keeps s0 (programDone s stripe p) := by
  unfold programDone
  try dsimp only
  repeat' first
    | with_reducible assumption
    | intro _
    | split
    | ((with_reducible apply keeps_mk_full); (with_reducible
        first
        | assumption))
    | exact EepromKeeps.refl _
    | exact EepromKeeps.mk rfl rfl rfl rfl rfl rfl rfl (by first | exact Nat.le_refl _ | exact Nat.le_succ _)
    | with_reducible exact KeysOk.refl _ _
    | (refine BytesOk.of fun a b c d e => ⟨?_, ?_, ?_, ?_, ?_⟩) <;> repeat' first
        | assumption | exact memWf_nil | apply memWf_clear | apply memWf_putNat | apply memWf_write | apply memWf_copy
        | apply memWf_filter | apply memWf_put | apply memWf_foldl | intro _ | split
    | dsimp only

theorem setFlashState_keeps {s0 : State} {s : State} {v : Nat} (h : Keeps s0 s) :
    Keeps s0 (setFlashState s v) := by
  unfold setFlashState
  try dsimp only
  repeat' first
    | with_reducible assumption
    | intro _
    | with_reducible first
      | apply keeps_ite | apply setReg_keeps | apply notify_keeps
    | split
    | dsimp only

theorem retireBlock_keeps {s0 : State} {s : State} {k : Nat} (h : Keeps s0 s) :
    Keeps s0 (retireBlock s k) := by
  unfold retireBlock
  try dsimp only
  repeat' first
    | with_reducible assumption
    | intro _
    | with_reducible first
      | apply keeps_ite | apply keeps_foldl | apply bump_keeps | apply startProgram_keeps
      | apply setFlashState_keeps
    | split
    | with_reducible exact SameBytes.mk rfl rfl rfl
    | with_reducible exact SameBox.mk rfl
    | with_reducible exact KeysOk.refl _ _
    | ((with_reducible apply keeps_mk); (with_reducible
        first
        | assumption | apply keeps_ite | apply keeps_foldl | apply bump_keeps | apply startProgram_keeps
        | apply setFlashState_keeps))
    | dsimp only

end Sys2Proof.Machine
end

