-- ==== Sys2Proof/Laws/KeepsOperands.lean ====
section
/-! SUPPORT. What every operation of Machine/Operands.lean keeps. -/

namespace Sys2Proof.Machine

theorem issueRead_keeps {s0 : State} {s : State} {line : Nat} {shared : Bool} {why : ReadFor} (h : Keeps s0 s) :
    Keeps s0 (issueRead s line shared why) := by
  unfold issueRead
  try dsimp only
  repeat' first
    | with_reducible assumption
    | intro _
    | with_reducible first
      | apply send_keeps
    | split
    | with_reducible exact SameBytes.mk rfl rfl rfl
    | with_reducible exact SameBox.mk rfl
    | with_reducible exact KeysOk.refl _ _
    | ((with_reducible apply keeps_mk); (with_reducible
        first
        | assumption | apply send_keeps))
    | dsimp only

theorem issueJobReads_keeps {s0 : State} {x0 : Nat} {x1 : State} {x2 : Nat} (h : Keeps s0 x1) :
    Keeps s0 (issueJobReads x0 x1 x2) := by
  induction x0 generalizing x1 with
  | zero =>
    unfold issueJobReads
    try dsimp only
    repeat' first
      | with_reducible assumption
      | intro _
      | with_reducible first
        | apply ih | apply keeps_ite | apply updJob_keeps | apply issueRead_keeps
      | split
      | with_reducible exact SameBytes.mk rfl rfl rfl
      | with_reducible exact SameBox.mk rfl
      | with_reducible exact KeysOk.refl _ _
      | ((with_reducible apply keeps_mk); (with_reducible
          first
          | assumption | apply ih | apply keeps_ite | apply updJob_keeps | apply issueRead_keeps))
      | dsimp only
  | succ n ih =>
    unfold issueJobReads
    try dsimp only
    repeat' first
      | with_reducible assumption
      | intro _
      | with_reducible first
        | apply ih | apply keeps_ite | apply updJob_keeps | apply issueRead_keeps
      | split
      | with_reducible exact SameBytes.mk rfl rfl rfl
      | with_reducible exact SameBox.mk rfl
      | with_reducible exact KeysOk.refl _ _
      | ((with_reducible apply keeps_mk); (with_reducible
          first
          | assumption | apply ih | apply keeps_ite | apply updJob_keeps | apply issueRead_keeps))
      | dsimp only

theorem runJob_keeps {s0 : State} {s : State} {id : Nat} {opcode : Nat} {sources : State → Job → List (Nat × Nat)}
    {body : State → Nat → Job → State} (h : Keeps s0 s) (h1 : ∀ u0 u1 u2, Keeps s0 u0 → Keeps s0 (body u0 u1 u2)) :
    Keeps s0 (runJob s id opcode sources body) := by
  unfold runJob
  try dsimp only
  repeat' first
    | with_reducible assumption
    | intro _
    | with_reducible first
      | apply h1 | apply keeps_ite | apply keeps_foldl | apply needRegion_keeps | apply issueJobReads_keeps
      | apply updJob_keeps
    | split
    | with_reducible exact SameBytes.mk rfl rfl rfl
    | with_reducible exact SameBox.mk rfl
    | with_reducible exact KeysOk.refl _ _
    | ((with_reducible apply keeps_mk); (with_reducible
        first
        | assumption | apply h1 | apply keeps_ite | apply keeps_foldl | apply needRegion_keeps
        | apply issueJobReads_keeps | apply updJob_keeps))
    | dsimp only

theorem fetchMore_keeps {s0 : State} {s : State} {id : Nat} {j : Job} {rs : List (Nat × Nat)} {go : State → State}
    (h : Keeps s0 s) (h1 : ∀ u0, Keeps s0 u0 → Keeps s0 (go u0)) :
    Keeps s0 (fetchMore s id j rs go) := by
  unfold fetchMore
  try dsimp only
  repeat' first
    | with_reducible assumption
    | intro _
    | with_reducible first
      | apply h1 | apply keeps_ite | apply updJob_keeps
    | split
    | with_reducible exact SameBytes.mk rfl rfl rfl
    | with_reducible exact SameBox.mk rfl
    | with_reducible exact KeysOk.refl _ _
    | ((with_reducible apply keeps_mk); (with_reducible
        first
        | assumption | apply h1 | apply keeps_ite | apply updJob_keeps))
    | dsimp only

theorem notePosted_keeps {s0 : State} {s : State} {id : Nat} {a : Nat} {n : Nat} (h : Keeps s0 s) :
    Keeps s0 (notePosted s id a n) := by
  unfold notePosted
  try dsimp only
  repeat' first
    | with_reducible assumption
    | intro _
    | with_reducible first
      | apply keeps_ite
    | split
    | with_reducible exact SameBytes.mk rfl rfl rfl
    | with_reducible exact SameBox.mk rfl
    | with_reducible exact KeysOk.refl _ _
    | ((with_reducible apply keeps_mk); (with_reducible
        first
        | assumption | apply keeps_ite))
    | dsimp only

theorem withWrite_keeps {s0 : State} {s : State} {id : Nat} {a : Nat} {n : Nat} {go : State → State} (h : Keeps s0
    s) (h1 : ∀ u0, Keeps s0 u0 → Keeps s0 (go u0)) :
    Keeps s0 (withWrite s id a n go) := by
  unfold withWrite
  try dsimp only
  repeat' first
    | with_reducible assumption
    | intro _
    | with_reducible first
      | apply h1 | apply prep_ready | apply prep_wait | apply prep_fail | apply prep_ite | apply prepareWrite_keeps
      | apply notePosted_keeps | apply finish_keeps | refine keeps_prep_ready (by assumption) ?_
      | refine keeps_prep_wait (by assumption) ?_ | refine keeps_prep_fail (by assumption) ?_
    | split
    | dsimp only

theorem writeAndFinish_keeps {s0 : State} {s : State} {id : Nat} {a : Nat} {bs : List Nat} {status : Nat} {result :
    Nat} (h : Keeps s0 s) :
    Keeps s0 (writeAndFinish s id a bs status result) := by
  unfold writeAndFinish
  try dsimp only
  repeat' first
    | with_reducible assumption
    | intro _
    | with_reducible first
      | apply withWrite_keeps | apply finish_keeps | apply writeBytes_keeps
    | split
    | dsimp only

theorem withRead_keeps {s0 : State} {s : State} {id : Nat} {a : Nat} {n : Nat} {go : State → List Nat → State} (h :
    Keeps s0 s) (h1 : ∀ u0 u1, Keeps s0 u0 → Keeps s0 (go u0 u1)) :
    Keeps s0 (withRead s id a n go) := by
  unfold withRead
  try dsimp only
  repeat' first
    | with_reducible assumption
    | intro _
    | with_reducible first
      | apply h1 | apply keeps_ite | apply finish_keeps | apply touchRange_keeps
    | split
    | dsimp only

theorem noAdmit_keeps {s0 : State} {x0 : State} {x1 : Nat} (h : Keeps s0 x0) :
    Keeps s0 (noAdmit x0 x1) := by
  unfold noAdmit
  try dsimp only
  repeat' first
    | with_reducible assumption
    | intro _
    | split
    | dsimp only

theorem loseRegion_keeps {s0 : State} {s : State} {r : Nat} (h : Keeps s0 s) :
    Keeps s0 (loseRegion s r) := by
  unfold loseRegion
  try dsimp only
  repeat' first
    | with_reducible assumption
    | intro _
    | with_reducible first
      | apply keeps_ite
    | split
    | ((with_reducible apply keeps_mk_full); (with_reducible
        first
        | assumption | apply keeps_ite))
    | exact EepromKeeps.refl _
    | exact EepromKeeps.mk rfl rfl rfl rfl rfl rfl rfl (by first | exact Nat.le_refl _ | exact Nat.le_succ _)
    | with_reducible exact KeysOk.refl _ _
    | (refine BytesOk.of fun a b c d e => ⟨?_, ?_, ?_, ?_, ?_⟩) <;> repeat' first
        | assumption | exact memWf_nil | apply memWf_clear | apply memWf_putNat | apply memWf_write | apply memWf_copy
        | apply memWf_filter | apply memWf_put | apply memWf_foldl | intro _ | split
    | dsimp only

theorem zeroRegionCounts_keeps {s0 : State} {s : State} {r : Nat} (h : Keeps s0 s) :
    Keeps s0 (zeroRegionCounts s r) := by
  unfold zeroRegionCounts
  try dsimp only
  repeat' first
    | with_reducible assumption
    | intro _
    | with_reducible first
      | apply setReg_keeps
    | split
    | with_reducible exact SameBytes.mk rfl rfl rfl
    | with_reducible exact SameBox.mk rfl
    | with_reducible exact KeysOk.refl _ _
    | ((with_reducible apply keeps_mk); (with_reducible
        first
        | assumption | apply setReg_keeps))
    | dsimp only

theorem emptyRegion_keeps {s0 : State} {s : State} {r : Nat} (h : Keeps s0 s) :
    Keeps s0 (emptyRegion s r) := by
  unfold emptyRegion
  try dsimp only
  repeat' first
    | with_reducible assumption
    | intro _
    | with_reducible first
      | apply keeps_foldl | apply drainEnd_keeps | apply faultCtx_keeps | apply finish_keeps
    | split
    | dsimp only

theorem startRegionReset_keeps {s0 : State} {s : State} {r : Nat} (h : Keeps s0 s) :
    Keeps s0 (startRegionReset s r) := by
  unfold startRegionReset
  try dsimp only
  repeat' first
    | with_reducible assumption
    | intro _
    | with_reducible first
      | apply keeps_ite | apply zeroRegionCounts_keeps | apply loseRegion_keeps | apply emptyRegion_keeps
      | apply setReg_keeps | apply bump_keeps | apply showPower_keeps
    | split
    | with_reducible exact SameBytes.mk rfl rfl rfl
    | with_reducible exact SameBox.mk rfl
    | with_reducible exact KeysOk.refl _ _
    | ((with_reducible apply keeps_mk); (with_reducible
        first
        | assumption | apply keeps_ite | apply zeroRegionCounts_keeps | apply loseRegion_keeps
        | apply emptyRegion_keeps | apply setReg_keeps | apply bump_keeps | apply showPower_keeps))
    | dsimp only

theorem regionFaultBy_keeps {s0 : State} {s : State} {r : Nat} {unit : LogUnit} {inst : Nat} (h : Keeps s0 s) :
    Keeps s0 (regionFaultBy s r unit inst) := by
  unfold regionFaultBy
  try dsimp only
  repeat' first
    | with_reducible assumption
    | intro _
    | with_reducible first
      | apply startRegionReset_keeps | apply logError_keeps
    | split
    | dsimp only

theorem regionFault_keeps {s0 : State} {s : State} {r : Nat} (h : Keeps s0 s) :
    Keeps s0 (regionFault s r) := by
  unfold regionFault
  try dsimp only
  repeat' first
    | with_reducible assumption
    | intro _
    | with_reducible first
      | apply regionFaultBy_keeps
    | split
    | dsimp only

theorem pocketWrite_keeps {s0 : State} {s : State} {block : Nat} {row : Nat} {byte : Nat} {bs : List Nat} (h : Keeps
    s0 s) :
    Keeps s0 (pocketWrite s block row byte bs) := by
  unfold pocketWrite
  try dsimp only
  repeat' first
    | with_reducible assumption
    | intro _
    | split
    | ((with_reducible apply keeps_mk_full); (with_reducible
        first
        | assumption))
    | exact EepromKeeps.refl _
    | exact EepromKeeps.mk rfl rfl rfl rfl rfl rfl rfl (by first | exact Nat.le_refl _ | exact Nat.le_succ _)
    | with_reducible exact KeysOk.refl _ _
    | (refine BytesOk.of fun a b c d e => ⟨?_, ?_, ?_, ?_, ?_⟩) <;> repeat' first
        | assumption | exact memWf_nil | apply memWf_clear | apply memWf_putNat | apply memWf_write | apply memWf_copy
        | apply memWf_filter | apply memWf_put | apply memWf_foldl | intro _ | split
    | dsimp only

theorem lbWrite_keeps {s0 : State} {s : State} {x : Ctx} {lb : Nat} {row : Nat} {byte : Nat} {bs : List Nat} (h :
    Keeps s0 s) :
    Keeps s0 (lbWrite s x lb row byte bs) := by
  unfold lbWrite
  try dsimp only
  repeat' first
    | with_reducible assumption
    | intro _
    | with_reducible first
      | apply pocketWrite_keeps
    | split
    | dsimp only

theorem accWrite_keeps {s0 : State} {s : State} {block : Nat} {row : Nat} {col : Nat} {v : Nat} (h : Keeps s0 s) :
    Keeps s0 (accWrite s block row col v) := by
  unfold accWrite
  try dsimp only
  repeat' first
    | with_reducible assumption
    | intro _
    | with_reducible first
      | apply keeps_ite
    | split
    | with_reducible exact SameBytes.mk rfl rfl rfl
    | with_reducible exact SameBox.mk rfl
    | with_reducible exact KeysOk.refl _ _
    | ((with_reducible apply keeps_mk); (with_reducible
        first
        | assumption | apply keeps_ite))
    | dsimp only

end Sys2Proof.Machine
end

