-- ==== Sys2Proof/Laws/KeepsPocket.lean ====
section
/-! SUPPORT. What every operation of Machine/Pocket.lean keeps. -/

namespace Sys2Proof.Machine

theorem pocketUncorrectable_keeps {s0 : State} {s : State} {b : Nat} {ctx : Nat} (h : Keeps s0 s) :
    Keeps s0 (pocketUncorrectable s b ctx) := by
  unfold pocketUncorrectable
  try dsimp only
  repeat' first
    | with_reducible assumption
    | intro _
    | with_reducible first
      | apply keeps_ite | apply bump_keeps | apply logError_keeps | apply quarantine_keeps
    | split
    | with_reducible exact SameBytes.mk rfl rfl rfl
    | with_reducible exact SameBox.mk rfl
    | with_reducible exact KeysOk.refl _ _
    | ((with_reducible apply keeps_mk); (with_reducible
        first
        | assumption | apply keeps_ite | apply bump_keeps | apply logError_keeps | apply quarantine_keeps))
    | dsimp only

theorem countStray_keeps {s0 : State} {s : State} {x : Ctx} {lb : Nat} {port : Nat} {row : Nat} (h : Keeps s0 s) :
    Keeps s0 (countStray s x lb port row) := by
  unfold countStray
  try dsimp only
  repeat' first
    | with_reducible assumption
    | intro _
    | with_reducible first
      | apply keeps_ite | apply bump_keeps | apply countBlock_keeps
    | split
    | dsimp only

theorem countStrays_keeps {s0 : State} {s : State} {x : Ctx} {lb : Nat} {port : Nat} {row : Nat} {rows : Nat} (h :
    Keeps s0 s) :
    Keeps s0 (countStrays s x lb port row rows) := by
  unfold countStrays
  try dsimp only
  repeat' first
    | with_reducible assumption
    | intro _
    | with_reducible first
      | apply keeps_foldl | apply countStray_keeps
    | split
    | dsimp only

theorem fillBlock_keeps {s0 : State} {e : Nat} {x : Ctx} {s : State} {lb : Nat} (h : Keeps s0 s) :
    Keeps s0 (fillBlock e x s lb) := by
  unfold fillBlock
  try dsimp only
  repeat' first
    | with_reducible assumption
    | intro _
    | with_reducible first
      | apply keeps_foldl | apply lbWrite_keeps | apply countStray_keeps
    | split
    | dsimp only

theorem pocketFillBody_keeps {s0 : State} {s : State} {id : Nat} {j : Job} (h : Keeps s0 s) :
    Keeps s0 (pocketFillBody s id j) := by
  unfold pocketFillBody
  try dsimp only
  repeat' first
    | with_reducible assumption
    | intro _
    | with_reducible first
      | apply keeps_foldl | apply finish_keeps | apply fillBlock_keeps
    | split
    | dsimp only

theorem execPocketFill_keeps (job : Nat) (s : State) : Answers s (execPocketFill job s) := by
  refine answers_next ?_
  have h := Keeps.refl s
  repeat' first
    | with_reducible assumption
    | intro _
    | with_reducible first
      | apply runJob_keeps | apply pocketFillBody_keeps
    | split
    | dsimp only

theorem copyBlock_keeps {s0 : State} {e : Nat} {x : Ctx} {s : State} {lb : Nat} (h : Keeps s0 s) :
    Keeps s0 (copyBlock e x s lb) := by
  unfold copyBlock
  try dsimp only
  repeat' first
    | with_reducible assumption
    | intro _
    | with_reducible first
      | apply keeps_ite | apply keeps_foldl | apply countStrays_keeps | apply lbWrite_keeps
    | split
    | dsimp only

theorem pocketCopyBody_keeps {s0 : State} {bad : Option Nat} {s : State} {id : Nat} {j : Job} (h : Keeps s0 s) :
    Keeps s0 (pocketCopyBody bad s id j) := by
  unfold pocketCopyBody
  try dsimp only
  repeat' first
    | with_reducible assumption
    | intro _
    | with_reducible first
      | apply keeps_ite | apply keeps_foldl | apply faultJob_keeps | apply pocketUncorrectable_keeps
      | apply finish_keeps | apply copyBlock_keeps
    | split
    | dsimp only

theorem execPocketCopy_keeps (job : Nat) (uncorrectable : Option Nat) (s : State) : Answers s (execPocketCopy job uncorrectable s) := by
  refine answers_next ?_
  have h := Keeps.refl s
  repeat' first
    | with_reducible assumption
    | intro _
    | with_reducible first
      | apply runJob_keeps | apply pocketCopyBody_keeps
    | split
    | dsimp only

theorem pocketConfigBody_keeps {s0 : State} {s : State} {id : Nat} {j : Job} (h : Keeps s0 s) :
    Keeps s0 (pocketConfigBody s id j) := by
  unfold pocketConfigBody
  try dsimp only
  repeat' first
    | with_reducible assumption
    | intro _
    | with_reducible first
      | apply keeps_ite | apply keeps_foldl | apply finish_keeps | apply updCtx_keeps
    | split
    | with_reducible exact SameBytes.mk rfl rfl rfl
    | with_reducible exact SameBox.mk rfl
    | with_reducible exact KeysOk.refl _ _
    | ((with_reducible apply keeps_mk); (with_reducible
        first
        | assumption | apply keeps_ite | apply keeps_foldl | apply finish_keeps | apply updCtx_keeps))
    | dsimp only

theorem execPocketConfig_keeps (job : Nat) (s : State) : Answers s (execPocketConfig job s) := by
  refine answers_next ?_
  have h := Keeps.refl s
  repeat' first
    | with_reducible assumption
    | intro _
    | with_reducible first
      | apply runJob_keeps | apply pocketConfigBody_keeps
    | split
    | dsimp only

theorem pocketRemoteAccess_keeps {s0 : State} {s : State} {c : Nat} {lb : Nat} {row : Nat} {byte : Nat} {words :
    Nat} {write : Bool} {data : Nat} (h : Keeps s0 s) :
    Keeps s0 (pocketRemoteAccess s c lb row byte words write data) := by
  unfold pocketRemoteAccess
  try dsimp only
  repeat' first
    | with_reducible assumption
    | intro _
    | with_reducible first
      | apply keeps_ite | apply send_keeps | apply countStray_keeps | apply pocketWrite_keeps
    | split
    | dsimp only

theorem execPocketRemoteAccess_keeps (ctx : Nat) (block : Nat) (row : Nat) (byte : Nat) (words : Nat) (write : Bool) (data : Nat) (s : State) : Answers s (execPocketRemoteAccess ctx block row byte words write data s) := by
  refine answers_next ?_
  have h := Keeps.refl s
  repeat' first
    | with_reducible assumption
    | intro _
    | with_reducible first
      | apply pocketRemoteAccess_keeps
    | split
    | dsimp only

end Sys2Proof.Machine
end

