-- ==== Sys2Proof/Laws/KeepsTiers.lean ====
section
/-! SUPPORT. What every operation of Machine/Tiers.lean keeps. -/

namespace Sys2Proof.Machine

theorem objRegisterBody_keeps {s0 : State} {s : State} {id : Nat} {j : Job} (h : Keeps s0 s) :
    Keeps s0 (objRegisterBody s id j) := by
  unfold objRegisterBody
  try dsimp only
  repeat' first
    | with_reducible assumption
    | intro _
    | with_reducible first
      | apply keeps_ite | apply alloc_home | apply alloc_fail | apply alloc_wait | apply alloc_ite
      | apply finish_keeps | apply demoteIn_keeps | refine keeps_alloc_wait (by assumption) ?_
    | split
    | with_reducible exact SameBytes.mk rfl rfl rfl
    | with_reducible exact SameBox.mk rfl
    | with_reducible exact KeysOk.refl _ _
    | ((with_reducible apply keeps_mk); (with_reducible
        first
        | assumption | apply keeps_ite | apply alloc_home | apply alloc_fail | apply alloc_wait
        | apply alloc_ite | apply finish_keeps | apply demoteIn_keeps
        | refine keeps_alloc_wait (by assumption) ?_))
    | dsimp only

theorem execObjRegister_keeps (job : Nat) (s : State) : Answers s (execObjRegister job s) := by
  refine answers_next ?_
  have h := Keeps.refl s
  repeat' first
    | with_reducible assumption
    | intro _
    | with_reducible first
      | apply runJob_keeps | apply objRegisterBody_keeps
    | split
    | dsimp only

theorem objReleaseAdmit_keeps {s0 : State} {s : State} {id : Nat} (h : Keeps s0 s) :
    Keeps s0 (objReleaseAdmit s id) := by
  unfold objReleaseAdmit
  try dsimp only
  repeat' first
    | with_reducible assumption
    | intro _
    | split
    | with_reducible exact SameBytes.mk rfl rfl rfl
    | with_reducible exact SameBox.mk rfl
    | with_reducible exact KeysOk.refl _ _
    | ((with_reducible apply keeps_mk); (with_reducible
        first
        | assumption))
    | dsimp only

theorem objReleaseBody_keeps {s0 : State} {s : State} {id : Nat} {j : Job} (h : Keeps s0 s) :
    Keeps s0 (objReleaseBody s id j) := by
  unfold objReleaseBody
  try dsimp only
  repeat' first
    | with_reducible assumption
    | intro _
    | with_reducible first
      | apply keeps_ite | apply finish_keeps
    | split
    | ((with_reducible apply keeps_mk_full); (with_reducible
        first
        | assumption | apply keeps_ite | apply finish_keeps))
    | exact EepromKeeps.refl _
    | exact EepromKeeps.mk rfl rfl rfl rfl rfl rfl rfl (by first | exact Nat.le_refl _ | exact Nat.le_succ _)
    | with_reducible exact KeysOk.refl _ _
    | (refine BytesOk.of fun a b c d e => ⟨?_, ?_, ?_, ?_, ?_⟩) <;> repeat' first
        | assumption | exact memWf_nil | apply memWf_clear | apply memWf_putNat | apply memWf_write | apply memWf_copy
        | apply memWf_filter | apply memWf_put | apply memWf_foldl | intro _ | split
    | dsimp only

theorem execObjRelease_keeps (job : Nat) (s : State) : Answers s (execObjRelease job s) := by
  refine answers_next ?_
  have h := Keeps.refl s
  repeat' first
    | with_reducible assumption
    | intro _
    | with_reducible first
      | apply runJob_keeps | apply objReleaseBody_keeps
    | split
    | dsimp only

theorem objSetPolicyAdmit_keeps {s0 : State} {s : State} {id : Nat} (h : Keeps s0 s) :
    Keeps s0 (objSetPolicyAdmit s id) := by
  unfold objSetPolicyAdmit
  try dsimp only
  repeat' first
    | with_reducible assumption
    | intro _
    | with_reducible first
      | apply keeps_ite | apply updJob_keeps
    | split
    | with_reducible exact SameBytes.mk rfl rfl rfl
    | with_reducible exact SameBox.mk rfl
    | with_reducible exact KeysOk.refl _ _
    | ((with_reducible apply keeps_mk); (with_reducible
        first
        | assumption | apply keeps_ite | apply updJob_keeps))
    | dsimp only

theorem startPolicyMoves_keeps {s0 : State} {id : Nat} {base : Nat} {o : Obj} {x3 : State} {x4 : List Nat} (h :
    Keeps s0 x3) :
    Keeps s0 (startPolicyMoves id base o x3 x4) := by
  induction x4 generalizing x3 with
  | nil =>
    unfold startPolicyMoves
    try dsimp only
    repeat' first
      | with_reducible assumption
      | intro _
      | with_reducible first
        | apply ih | apply keeps_ite | apply keeps_foldl | apply startProgram_keeps | apply startMove_keeps
      | split
      | dsimp only
  | cons x l ih =>
    unfold startPolicyMoves
    try dsimp only
    repeat' first
      | with_reducible assumption
      | intro _
      | with_reducible first
        | apply ih | apply keeps_ite | apply keeps_foldl | apply startProgram_keeps | apply startMove_keeps
      | split
      | dsimp only

theorem objSetPolicyBody_keeps {s0 : State} {s : State} {id : Nat} {j : Job} (h : Keeps s0 s) :
    Keeps s0 (objSetPolicyBody s id j) := by
  unfold objSetPolicyBody
  try dsimp only
  repeat' first
    | with_reducible assumption
    | intro _
    | with_reducible first
      | apply keeps_ite | apply finish_keeps | apply startPolicyMoves_keeps
    | split
    | dsimp only

theorem execObjSetPolicy_keeps (job : Nat) (s : State) : Answers s (execObjSetPolicy job s) := by
  refine answers_next ?_
  have h := Keeps.refl s
  repeat' first
    | with_reducible assumption
    | intro _
    | with_reducible first
      | apply runJob_keeps | apply objSetPolicyBody_keeps
    | split
    | dsimp only

theorem objQueryBody_keeps {s0 : State} {s : State} {id : Nat} {j : Job} (h : Keeps s0 s) :
    Keeps s0 (objQueryBody s id j) := by
  unfold objQueryBody
  try dsimp only
  repeat' first
    | with_reducible assumption
    | intro _
    | with_reducible first
      | apply writeAndFinish_keeps | apply finish_keeps
    | split
    | dsimp only

theorem execObjQuery_keeps (job : Nat) (s : State) : Answers s (execObjQuery job s) := by
  refine answers_next ?_
  have h := Keeps.refl s
  repeat' first
    | with_reducible assumption
    | intro _
    | with_reducible first
      | apply runJob_keeps | apply objQueryBody_keeps
    | split
    | dsimp only

theorem tellMover_keeps {s0 : State} {s : State} {c : MoveCause} {abandoned : Bool} (h : Keeps s0 s) :
    Keeps s0 (tellMover s c abandoned) := by
  unfold tellMover
  try dsimp only
  repeat' first
    | with_reducible assumption
    | intro _
    | with_reducible first
      | apply keeps_ite | apply updJob_keeps
    | split
    | with_reducible exact SameBytes.mk rfl rfl rfl
    | with_reducible exact SameBox.mk rfl
    | with_reducible exact KeysOk.refl _ _
    | ((with_reducible apply keeps_mk); (with_reducible
        first
        | assumption | apply keeps_ite | apply updJob_keeps))
    | dsimp only

theorem moveSwitch_keeps {s0 : State} {s : State} {u : Nat} (h : Keeps s0 s) :
    Keeps s0 (moveSwitch s u) := by
  unfold moveSwitch
  try dsimp only
  repeat' first
    | with_reducible assumption
    | intro _
    | with_reducible first
      | apply bump_keeps | apply setUnit_keeps | apply tellMover_keeps
    | split
    | with_reducible exact SameBytes.mk rfl rfl rfl
    | with_reducible exact SameBox.mk rfl
    | with_reducible exact KeysOk.refl _ _
    | ((with_reducible apply keeps_mk); (with_reducible
        first
        | assumption | apply bump_keeps | apply setUnit_keeps | apply tellMover_keeps))
    | dsimp only

theorem execMoveSwitch_keeps (unit : Nat) (s : State) : Answers s (execMoveSwitch unit s) := by
  refine answers_next ?_
  have h := Keeps.refl s
  repeat' first
    | with_reducible assumption
    | intro _
    | with_reducible first
      | apply moveSwitch_keeps
    | split
    | dsimp only

theorem moveAbandon_keeps {s0 : State} {s : State} {u : Nat} (h : Keeps s0 s) :
    Keeps s0 (moveAbandon s u) := by
  unfold moveAbandon
  try dsimp only
  repeat' first
    | with_reducible assumption
    | intro _
    | with_reducible first
      | apply keeps_ite | apply bump_keeps | apply setUnit_keeps | apply setReg_keeps | apply tellMover_keeps
    | split
    | with_reducible exact SameBytes.mk rfl rfl rfl
    | with_reducible exact SameBox.mk rfl
    | with_reducible exact KeysOk.refl _ _
    | ((with_reducible apply keeps_mk); (with_reducible
        first
        | assumption | apply keeps_ite | apply bump_keeps | apply setUnit_keeps | apply setReg_keeps
        | apply tellMover_keeps))
    | dsimp only

theorem execMoveAbandon_keeps (unit : Nat) (s : State) : Answers s (execMoveAbandon unit s) := by
  refine answers_next ?_
  have h := Keeps.refl s
  repeat' first
    | with_reducible assumption
    | intro _
    | with_reducible first
      | apply moveAbandon_keeps
    | split
    | dsimp only

theorem abandonWhere_keeps {s0 : State} {s : State} {p : Nat → UnitInfo → Move → Bool} (h : Keeps s0 s) :
    Keeps s0 (abandonWhere s p) := by
  unfold abandonWhere
  try dsimp only
  repeat' first
    | with_reducible assumption
    | intro _
    | with_reducible first
      | apply keeps_foldl | apply moveAbandon_keeps
    | split
    | dsimp only

theorem trimUnit_keeps {s0 : State} {a : Nat} {n : Nat} {s : State} {u : Nat} (h : Keeps s0 s) :
    Keeps s0 (trimUnit a n s u) := by
  unfold trimUnit
  try dsimp only
  repeat' first
    | with_reducible assumption
    | intro _
    | with_reducible first
      | apply keeps_ite | apply touchUnit_keeps | apply stageRange_keeps | apply unpoison_keeps
    | split
    | ((with_reducible apply keeps_mk_full); (with_reducible
        first
        | assumption | apply keeps_ite | apply touchUnit_keeps | apply stageRange_keeps | apply unpoison_keeps))
    | exact EepromKeeps.refl _
    | exact EepromKeeps.mk rfl rfl rfl rfl rfl rfl rfl (by first | exact Nat.le_refl _ | exact Nat.le_succ _)
    | with_reducible exact KeysOk.refl _ _
    | (refine BytesOk.of fun a b c d e => ⟨?_, ?_, ?_, ?_, ?_⟩) <;> repeat' first
        | assumption | exact memWf_nil | apply memWf_clear | apply memWf_putNat | apply memWf_write | apply memWf_copy
        | apply memWf_filter | apply memWf_put | apply memWf_foldl | intro _ | split
    | dsimp only

theorem trimBody_keeps {s0 : State} {s : State} {id : Nat} {j : Job} (h : Keeps s0 s) :
    Keeps s0 (trimBody s id j) := by
  unfold trimBody
  try dsimp only
  repeat' first
    | with_reducible assumption
    | intro _
    | with_reducible first
      | apply keeps_ite | apply keeps_foldl | apply finish_keeps | apply trimUnit_keeps
    | split
    | dsimp only

theorem execTrim_keeps (job : Nat) (s : State) : Answers s (execTrim job s) := by
  refine answers_next ?_
  have h := Keeps.refl s
  repeat' first
    | with_reducible assumption
    | intro _
    | with_reducible first
      | apply runJob_keeps | apply trimBody_keeps
    | split
    | dsimp only

theorem flushAdmit_keeps {s0 : State} {s : State} {id : Nat} (h : Keeps s0 s) :
    Keeps s0 (flushAdmit s id) := by
  unfold flushAdmit
  try dsimp only
  repeat' first
    | with_reducible assumption
    | intro _
    | with_reducible first
      | apply updJob_keeps
    | split
    | with_reducible exact SameBytes.mk rfl rfl rfl
    | with_reducible exact SameBox.mk rfl
    | with_reducible exact KeysOk.refl _ _
    | ((with_reducible apply keeps_mk); (with_reducible
        first
        | assumption | apply updJob_keeps))
    | dsimp only

theorem copyIndexes_keeps {s0 : State} {s : State} (h : Keeps s0 s) :
    Keeps s0 (copyIndexes s) := by
  unfold copyIndexes
  try dsimp only
  repeat' first
    | with_reducible assumption
    | intro _
    | with_reducible first
      | apply keeps_foldl
    | split
    | with_reducible exact SameBytes.mk rfl rfl rfl
    | with_reducible exact SameBox.mk rfl
    | with_reducible exact KeysOk.refl _ _
    | ((with_reducible apply keeps_mk); (with_reducible
        first
        | assumption | apply keeps_foldl))
    | dsimp only

theorem copyMap_keeps {s0 : State} {s : State} (h : Keeps s0 s) :
    Keeps s0 (copyMap s) := by
  unfold copyMap
  try dsimp only
  repeat' first
    | with_reducible assumption
    | intro _
    | split
    | with_reducible exact SameBytes.mk rfl rfl rfl
    | with_reducible exact SameBox.mk rfl
    | with_reducible exact KeysOk.refl _ _
    | ((with_reducible apply keeps_mk); (with_reducible
        first
        | assumption))
    | dsimp only

theorem flushStep_keeps {s0 : State} {s : State} {order : Nat} (h : Keeps s0 s) :
    Keeps s0 (flushStep s order).1 := by
  unfold flushStep
  try dsimp only
  repeat' first
    | with_reducible assumption
    | intro _
    | with_reducible first
      | apply keeps_ite | apply keeps_foldl | apply keeps_ite_fst | apply keeps_foldl_fst | apply copyMap_keeps
      | apply startProgram_keeps | refine keeps_pair_fst (by assumption) ?_
    | split
    | dsimp only

theorem flushBody_keeps {s0 : State} {s : State} {id : Nat} {j : Job} (h : Keeps s0 s) :
    Keeps s0 (flushBody s id j) := by
  unfold flushBody
  try dsimp only
  repeat' first
    | with_reducible assumption
    | intro _
    | with_reducible first
      | apply keeps_ite | apply keeps_ite_fst | apply keeps_foldl_fst | apply finish_keeps | apply flushStep_keeps
      | apply copyIndexes_keeps | refine keeps_pair_fst (by assumption) ?_
    | split
    | dsimp only

theorem execFlush_keeps (job : Nat) (s : State) : Answers s (execFlush job s) := by
  refine answers_next ?_
  have h := Keeps.refl s
  repeat' first
    | with_reducible assumption
    | intro _
    | with_reducible first
      | apply runJob_keeps | apply flushBody_keeps
    | split
    | dsimp only

theorem settleFlush_keeps {s0 : State} {s : State} (h : Keeps s0 s) :
    Keeps s0 (settleFlush s) := by
  unfold settleFlush
  try dsimp only
  repeat' first
    | with_reducible assumption
    | intro _
    | with_reducible first
      | apply keeps_ite | apply copyMap_keeps | apply copyIndexes_keeps
    | split
    | dsimp only

theorem backgroundFlush_keeps {s0 : State} {s : State} {c : Nat} (h : Keeps s0 s) :
    Keeps s0 (backgroundFlush s c) := by
  unfold backgroundFlush
  try dsimp only
  repeat' first
    | with_reducible assumption
    | intro _
    | with_reducible first
      | apply keeps_ite | apply startProgram_keeps
    | split
    | dsimp only

theorem execBackgroundFlush_keeps (channel : Nat) (s : State) : Answers s (execBackgroundFlush channel s) := by
  refine answers_next ?_
  have h := Keeps.refl s
  repeat' first
    | with_reducible assumption
    | intro _
    | with_reducible first
      | apply backgroundFlush_keeps
    | split
    | dsimp only

theorem stripeProgramComplete_keeps {s0 : State} {s : State} {stripe : Nat} {ok : Bool} (h : Keeps s0 s) :
    Keeps s0 (stripeProgramComplete s stripe ok) := by
  unfold stripeProgramComplete
  try dsimp only
  repeat' first
    | with_reducible assumption
    | intro _
    | with_reducible first
      | apply keeps_ite | apply settleFlush_keeps | apply programDone_keeps | apply startProgram_keeps
      | apply retireBlock_keeps
    | split
    | with_reducible exact SameBytes.mk rfl rfl rfl
    | with_reducible exact SameBox.mk rfl
    | with_reducible exact KeysOk.refl _ _
    | ((with_reducible apply keeps_mk); (with_reducible
        first
        | assumption | apply keeps_ite | apply settleFlush_keeps | apply programDone_keeps
        | apply startProgram_keeps | apply retireBlock_keeps))
    | dsimp only

theorem execStripeProgramComplete_keeps (stripe : Nat) (ok : Bool) (s : State) : Answers s (execStripeProgramComplete stripe ok s) := by
  refine answers_next ?_
  have h := Keeps.refl s
  repeat' first
    | with_reducible assumption
    | intro _
    | with_reducible first
      | apply stripeProgramComplete_keeps
    | split
    | dsimp only

theorem refreshStripe_keeps {s0 : State} {s : State} {stripe : Nat} (h : Keeps s0 s) :
    Keeps s0 (refreshStripe s stripe) := by
  unfold refreshStripe
  try dsimp only
  repeat' first
    | with_reducible assumption
    | intro _
    | with_reducible first
      | apply keeps_ite | apply bump_keeps | apply startProgram_keeps
    | split
    | dsimp only

theorem countRead_keeps {s0 : State} {s : State} {level : Nat} (h : Keeps s0 s) :
    Keeps s0 (countRead s level) := by
  unfold countRead
  try dsimp only
  repeat' first
    | with_reducible assumption
    | intro _
    | with_reducible first
      | apply keeps_ite | apply bump_keeps
    | split
    | dsimp only

theorem poisonPage_keeps {s0 : State} {s : State} {page : Nat} (h : Keeps s0 s) :
    Keeps s0 (poisonPage s page) := by
  unfold poisonPage
  try dsimp only
  repeat' first
    | with_reducible assumption
    | intro _
    | with_reducible first
      | apply keeps_ite | apply keeps_foldl
    | split
    | with_reducible exact SameBytes.mk rfl rfl rfl
    | with_reducible exact SameBox.mk rfl
    | with_reducible exact KeysOk.refl _ _
    | ((with_reducible apply keeps_mk); (with_reducible
        first
        | assumption | apply keeps_ite | apply keeps_foldl))
    | dsimp only

theorem flashReadComplete_keeps {s0 : State} {s : State} {job : Nat} {addr : Nat} {level : Nat} {bits : Nat} (h :
    Keeps s0 s) :
    Keeps s0 (flashReadComplete s job addr level bits) := by
  unfold flashReadComplete
  try dsimp only
  repeat' first
    | with_reducible assumption
    | intro _
    | with_reducible first
      | apply keeps_ite | apply countRead_keeps | apply logError_keeps | apply poisonPage_keeps | apply finish_keeps
      | apply refreshStripe_keeps
    | split
    | dsimp only

theorem execFlashReadComplete_keeps (job : Nat) (addr : Nat) (level : Nat) (bits : Nat) (s : State) : Answers s (execFlashReadComplete job addr level bits s) := by
  refine answers_next ?_
  have h := Keeps.refl s
  repeat' first
    | with_reducible assumption
    | intro _
    | with_reducible first
      | apply flashReadComplete_keeps
    | split
    | dsimp only

theorem flashPatrol_keeps {s0 : State} {s : State} {stripe : Nat} {level : Nat} {bits : Nat} (h : Keeps s0 s) :
    Keeps s0 (flashPatrol s stripe level bits) := by
  unfold flashPatrol
  try dsimp only
  repeat' first
    | with_reducible assumption
    | intro _
    | with_reducible first
      | apply keeps_ite | apply countRead_keeps | apply refreshStripe_keeps
    | split
    | dsimp only

theorem execFlashPatrol_keeps (stripe : Nat) (level : Nat) (bits : Nat) (s : State) : Answers s (execFlashPatrol stripe level bits s) := by
  refine answers_next ?_
  have h := Keeps.refl s
  repeat' first
    | with_reducible assumption
    | intro _
    | with_reducible first
      | apply flashPatrol_keeps
    | split
    | dsimp only

theorem relocate_keeps {s0 : State} {s : State} {stripes : List Nat} (h : Keeps s0 s) :
    Keeps s0 (relocate s stripes) := by
  unfold relocate
  try dsimp only
  repeat' first
    | with_reducible assumption
    | intro _
    | with_reducible first
      | apply keeps_foldl | apply startProgram_keeps
    | split
    | dsimp only

theorem garbageCollection_keeps {s0 : State} {s : State} {c : Nat} {l : Nat} (h : Keeps s0 s) :
    Keeps s0 (garbageCollection s c l) := by
  unfold garbageCollection
  try dsimp only
  repeat' first
    | with_reducible assumption
    | intro _
    | with_reducible first
      | apply keeps_ite | apply relocate_keeps
    | split
    | with_reducible exact SameBytes.mk rfl rfl rfl
    | with_reducible exact SameBox.mk rfl
    | with_reducible exact KeysOk.refl _ _
    | ((with_reducible apply keeps_mk); (with_reducible
        first
        | assumption | apply keeps_ite | apply relocate_keeps))
    | dsimp only

theorem execGarbageCollection_keeps (channel : Nat) (lun : Nat) (s : State) : Answers s (execGarbageCollection channel lun s) := by
  refine answers_next ?_
  have h := Keeps.refl s
  repeat' first
    | with_reducible assumption
    | intro _
    | with_reducible first
      | apply garbageCollection_keeps
    | split
    | dsimp only

theorem wearLevelling_keeps {s0 : State} {s : State} {c : Nat} {l : Nat} (h : Keeps s0 s) :
    Keeps s0 (wearLevelling s c l) := by
  unfold wearLevelling
  try dsimp only
  repeat' first
    | with_reducible assumption
    | intro _
    | with_reducible first
      | apply keeps_ite | apply relocate_keeps
    | split
    | dsimp only

theorem execWearLevelling_keeps (channel : Nat) (lun : Nat) (s : State) : Answers s (execWearLevelling channel lun s) := by
  refine answers_next ?_
  have h := Keeps.refl s
  repeat' first
    | with_reducible assumption
    | intro _
    | with_reducible first
      | apply wearLevelling_keeps
    | split
    | dsimp only

theorem blockEraseComplete_keeps {s0 : State} {s : State} {c : Nat} {l : Nat} {b : Nat} {ok : Bool} (h : Keeps s0 s)
    :
    Keeps s0 (blockEraseComplete s c l b ok) := by
  unfold blockEraseComplete
  try dsimp only
  repeat' first
    | with_reducible assumption
    | intro _
    | with_reducible first
      | apply keeps_ite | apply retireBlock_keeps
    | split
    | with_reducible exact SameBytes.mk rfl rfl rfl
    | with_reducible exact SameBox.mk rfl
    | with_reducible exact KeysOk.refl _ _
    | ((with_reducible apply keeps_mk); (with_reducible
        first
        | assumption | apply keeps_ite | apply retireBlock_keeps))
    | dsimp only

theorem execBlockEraseComplete_keeps (channel : Nat) (lun : Nat) (block : Nat) (ok : Bool) (s : State) : Answers s (execBlockEraseComplete channel lun block ok s) := by
  refine answers_next ?_
  have h := Keeps.refl s
  repeat' first
    | with_reducible assumption
    | intro _
    | with_reducible first
      | apply blockEraseComplete_keeps
    | split
    | dsimp only

theorem reportChannels_keeps {s0 : State} {s : State} (h : Keeps s0 s) :
    Keeps s0 (reportChannels s) := by
  unfold reportChannels
  try dsimp only
  repeat' first
    | with_reducible assumption
    | intro _
    | with_reducible first
      | apply keeps_foldl | apply setReg_keeps
    | split
    | dsimp only

theorem setChannel_keeps {s0 : State} {s : State} {c : Nat} {x : Channel} (h : Keeps s0 s) :
    Keeps s0 (setChannel s c x) := by
  unfold setChannel
  try dsimp only
  repeat' first
    | with_reducible assumption
    | intro _
    | with_reducible first
      | apply reportChannels_keeps
    | split
    | with_reducible exact SameBytes.mk rfl rfl rfl
    | with_reducible exact SameBox.mk rfl
    | with_reducible exact KeysOk.refl _ _
    | ((with_reducible apply keeps_mk); (with_reducible
        first
        | assumption | apply reportChannels_keeps))
    | dsimp only

theorem flashChannelTrain_keeps {s0 : State} {s : State} {c : Nat} {rates : Nat} {luns : Nat} {blocks : Nat}
    {stripes : Nat} {bad : Nat} {meets : Bool} (h : Keeps s0 s) :
    Keeps s0 (flashChannelTrain s c rates luns blocks stripes bad meets) := by
  unfold flashChannelTrain
  try dsimp only
  repeat' first
    | with_reducible assumption
    | intro _
    | with_reducible first
      | apply keeps_ite | apply setChannel_keeps
    | split
    | dsimp only

theorem execFlashChannelTrain_keeps (channel : Nat) (rates : Nat) (luns : Nat) (blocks : Nat) (stripes : Nat) (bad : Nat) (meets : Bool) (s : State) : Answers s (execFlashChannelTrain channel rates luns blocks stripes bad meets s) := by
  refine answers_next ?_
  have h := Keeps.refl s
  repeat' first
    | with_reducible assumption
    | intro _
    | with_reducible first
      | apply flashChannelTrain_keeps
    | split
    | dsimp only

theorem flashTierRebuild_keeps {s0 : State} {s : State} {metadata : Bool} (h : Keeps s0 s) :
    Keeps s0 (flashTierRebuild s metadata) := by
  unfold flashTierRebuild
  try dsimp only
  repeat' first
    | with_reducible assumption
    | intro _
    | with_reducible first
      | apply keeps_ite | apply setReg_keeps | apply setFlashState_keeps
    | split
    | with_reducible exact SameBytes.mk rfl rfl rfl
    | with_reducible exact SameBox.mk rfl
    | with_reducible exact KeysOk.refl _ _
    | ((with_reducible apply keeps_mk); (with_reducible
        first
        | assumption | apply keeps_ite | apply setReg_keeps | apply setFlashState_keeps))
    | dsimp only

theorem execFlashTierRebuild_keeps (metadata : Bool) (s : State) : Answers s (execFlashTierRebuild metadata s) := by
  refine answers_next ?_
  have h := Keeps.refl s
  repeat' first
    | with_reducible assumption
    | intro _
    | with_reducible first
      | apply flashTierRebuild_keeps
    | split
    | dsimp only

theorem execZqCalibration_keeps (_channel : Nat) (s : State) : Answers s (execZqCalibration _channel s) := by
  refine answers_next ?_
  have h := Keeps.refl s
  repeat' first
    | with_reducible assumption
    | intro _
    | split
    | dsimp only

theorem startChannelReset_keeps {s0 : State} {s : State} {c : Nat} (h : Keeps s0 s) :
    Keeps s0 (startChannelReset s c) := by
  unfold startChannelReset
  try dsimp only
  repeat' first
    | with_reducible assumption
    | intro _
    | with_reducible first
      | apply keeps_ite | apply bump_keeps | apply logError_keeps | apply abandonWhere_keeps
    | split
    | with_reducible exact SameBytes.mk rfl rfl rfl
    | with_reducible exact SameBox.mk rfl
    | with_reducible exact KeysOk.refl _ _
    | ((with_reducible apply keeps_mk); (with_reducible
        first
        | assumption | apply keeps_ite | apply bump_keeps | apply logError_keeps | apply abandonWhere_keeps))
    | dsimp only

theorem execDqCheck_keeps (channel : Nat) (ok : Bool) (s : State) : Answers s (execDqCheck channel ok s) := by
  refine answers_next ?_
  have h := Keeps.refl s
  repeat' first
    | with_reducible assumption
    | intro _
    | with_reducible first
      | apply keeps_ite | apply startChannelReset_keeps
    | split
    | dsimp only

theorem execFlashBusyTimeout_keeps (channel : Nat) (s : State) : Answers s (execFlashBusyTimeout channel s) := by
  refine answers_next ?_
  have h := Keeps.refl s
  repeat' first
    | with_reducible assumption
    | intro _
    | with_reducible first
      | apply startChannelReset_keeps
    | split
    | dsimp only

theorem channelReset_keeps {s0 : State} {s : State} {c : Nat} {rates : Nat} (h : Keeps s0 s) :
    Keeps s0 (channelReset s c rates) := by
  unfold channelReset
  try dsimp only
  repeat' first
    | with_reducible assumption
    | intro _
    | with_reducible first
      | apply keeps_ite | apply setChannel_keeps | apply regionFault_keeps | apply setFlashState_keeps
    | split
    | with_reducible exact SameBytes.mk rfl rfl rfl
    | with_reducible exact SameBox.mk rfl
    | with_reducible exact KeysOk.refl _ _
    | ((with_reducible apply keeps_mk); (with_reducible
        first
        | assumption | apply keeps_ite | apply setChannel_keeps | apply regionFault_keeps
        | apply setFlashState_keeps))
    | dsimp only

theorem execChannelReset_keeps (channel : Nat) (rates : Nat) (s : State) : Answers s (execChannelReset channel rates s) := by
  refine answers_next ?_
  have h := Keeps.refl s
  repeat' first
    | with_reducible assumption
    | intro _
    | with_reducible first
      | apply channelReset_keeps
    | split
    | dsimp only

theorem setStackRate_keeps {s0 : State} {s : State} {k : Nat} {rate : Nat} (h : Keeps s0 s) :
    Keeps s0 (setStackRate s k rate) := by
  unfold setStackRate
  try dsimp only
  repeat' first
    | with_reducible assumption
    | intro _
    | with_reducible first
      | apply setReg_keeps
    | split
    | dsimp only

theorem setStack_keeps {s0 : State} {s : State} {k : Nat} {x : Stack} (h : Keeps s0 s) :
    Keeps s0 (setStack s k x) := by
  unfold setStack
  try dsimp only
  repeat' first
    | with_reducible assumption
    | intro _
    | split
    | with_reducible exact SameBytes.mk rfl rfl rfl
    | with_reducible exact SameBox.mk rfl
    | with_reducible exact KeysOk.refl _ _
    | ((with_reducible apply keeps_mk); (with_reducible
        first
        | assumption))
    | dsimp only

theorem hbmTrain_keeps {s0 : State} {s : State} {k : Nat} {rate : Nat} (h : Keeps s0 s) :
    Keeps s0 (hbmTrain s k rate) := by
  unfold hbmTrain
  try dsimp only
  repeat' first
    | with_reducible assumption
    | intro _
    | with_reducible first
      | apply keeps_ite | apply setStackRate_keeps | apply setStack_keeps
    | split
    | with_reducible exact SameBytes.mk rfl rfl rfl
    | with_reducible exact SameBox.mk rfl
    | with_reducible exact KeysOk.refl _ _
    | ((with_reducible apply keeps_mk); (with_reducible
        first
        | assumption | apply keeps_ite | apply setStackRate_keeps | apply setStack_keeps))
    | dsimp only

theorem execHbmTrain_keeps (stack : Nat) (rate : Nat) (s : State) : Answers s (execHbmTrain stack rate s) := by
  refine answers_next ?_
  have h := Keeps.refl s
  repeat' first
    | with_reducible assumption
    | intro _
    | with_reducible first
      | apply hbmTrain_keeps
    | split
    | dsimp only

theorem hbmPatrolScrub_keeps {s0 : State} {s : State} {line : Nat} {errors : Nat} (h : Keeps s0 s) :
    Keeps s0 (hbmPatrolScrub s line errors) := by
  unfold hbmPatrolScrub
  try dsimp only
  repeat' first
    | with_reducible assumption
    | intro _
    | with_reducible first
      | apply keeps_ite | apply countChip_keeps | apply bump_keeps | apply logError_keeps
    | split
    | with_reducible exact SameBytes.mk rfl rfl rfl
    | with_reducible exact SameBox.mk rfl
    | with_reducible exact KeysOk.refl _ _
    | ((with_reducible apply keeps_mk); (with_reducible
        first
        | assumption | apply keeps_ite | apply countChip_keeps | apply bump_keeps | apply logError_keeps))
    | dsimp only

theorem execHbmPatrolScrub_keeps (line : Nat) (errors : Nat) (s : State) : Answers s (execHbmPatrolScrub line errors s) := by
  refine answers_next ?_
  have h := Keeps.refl s
  repeat' first
    | with_reducible assumption
    | intro _
    | with_reducible first
      | apply hbmPatrolScrub_keeps
    | split
    | dsimp only

theorem startStackReset_keeps {s0 : State} {s : State} {k : Nat} (h : Keeps s0 s) :
    Keeps s0 (startStackReset s k) := by
  unfold startStackReset
  try dsimp only
  repeat' first
    | with_reducible assumption
    | intro _
    | with_reducible first
      | apply setStack_keeps | apply bump_keeps | apply logError_keeps | apply abandonWhere_keeps
    | split
    | with_reducible exact SameBytes.mk rfl rfl rfl
    | with_reducible exact SameBox.mk rfl
    | with_reducible exact KeysOk.refl _ _
    | ((with_reducible apply keeps_mk); (with_reducible
        first
        | assumption | apply setStack_keeps | apply bump_keeps | apply logError_keeps | apply abandonWhere_keeps))
    | dsimp only

theorem stackControllerReset_keeps {s0 : State} {s : State} {k : Nat} {rate : Nat} (h : Keeps s0 s) :
    Keeps s0 (stackControllerReset s k rate) := by
  unfold stackControllerReset
  try dsimp only
  repeat' first
    | with_reducible assumption
    | intro _
    | with_reducible first
      | apply keeps_ite | apply setStackRate_keeps | apply setStack_keeps | apply regionFault_keeps
    | split
    | with_reducible exact SameBytes.mk rfl rfl rfl
    | with_reducible exact SameBox.mk rfl
    | with_reducible exact KeysOk.refl _ _
    | ((with_reducible apply keeps_mk); (with_reducible
        first
        | assumption | apply keeps_ite | apply setStackRate_keeps | apply setStack_keeps
        | apply regionFault_keeps))
    | dsimp only

theorem execStackControllerReset_keeps (stack : Nat) (rate : Nat) (s : State) : Answers s (execStackControllerReset stack rate s) := by
  refine answers_next ?_
  have h := Keeps.refl s
  repeat' first
    | with_reducible assumption
    | intro _
    | with_reducible first
      | apply stackControllerReset_keeps
    | split
    | dsimp only

end Sys2Proof.Machine
end

