-- ==== Sys2Proof/Laws/KeepsContexts.lean ====
section
/-! SUPPORT. What every operation of Machine/Contexts.lean keeps. -/

namespace Sys2Proof.Machine

theorem memWf_imageField {m : Mem} {b o n v : Nat} (h : memWf m = true) : memWf (imageField m b o n v) = true :=
  memWf_putNat _ _ _ h

theorem memWf_contextPart {s : State} {c : Nat} {x : Ctx} {k : Bool} {m : Mem} {b : Nat} (h : memWf m = true) :
    memWf (contextPart s c x k m b) = true := by
  exact memWf_imageField (memWf_imageField (memWf_imageField (memWf_imageField (memWf_foldl _ _ (memWf_imageField h)
    fun _ _ hm => memWf_imageField hm))))

theorem memWf_accImage {acc : Tab Nat} {b : Nat} {m : Mem} {a : Nat} (h : memWf m = true) :
    memWf (accImage acc b m a) = true :=
  memWf_foldl _ _ h fun _ _ hm => memWf_putNat _ _ _ hm

theorem memWf_blockImage {s : State} {x : Ctx} {i b : Nat} {m : Mem} {a : Nat} (h : memWf m = true) :
    memWf (blockImage s x i b m a) = true := by
  unfold blockImage
  exact memWf_copy _ _ _ _ (memWf_accImage (memWf_foldl _ _ (memWf_foldl _ _ h fun _ _ hm =>
    memWf_putNat _ _ _ hm) fun _ _ hm => memWf_putNat _ _ _ hm))

theorem memWf_imageOf {s : State} {c : Nat} {k : Bool} {m : Mem} {b : Nat} (h : memWf m = true) :
    memWf (imageOf s c k m b) = true := by
  unfold imageOf
  refine memWf_foldl _ _ (memWf_contextPart (memWf_clear _ _ h)) fun m i hm => ?_
  split
  · exact memWf_blockImage hm
  · exact hm

theorem reserveSave_keeps {s0 : State} {s : State} {c : Nat} {bytes : Nat} (h : Keeps s0 s) :
    (reserveSave s c bytes).Keeps s0 := by
  unfold reserveSave
  try dsimp only
  repeat' first
    | with_reducible assumption
    | intro _
    | with_reducible first
      | apply keeps_ite | apply optKeeps_none | apply optKeeps_some | apply optKeeps_ite | apply reserve_held
      | apply reserve_wait | apply reserve_fail | apply reserve_ite | apply alloc_home | apply alloc_fail
      | apply alloc_wait | apply alloc_ite | apply allocateRun_keeps | apply demoteIn_keeps
      | refine keeps_opt (by assumption) ?_ | refine keeps_reserve_held (by assumption) ?_
      | refine keeps_reserve_wait (by assumption) ?_ | refine keeps_alloc_wait (by assumption) ?_
    | split
    | dsimp only

theorem beginSave_keeps {s0 : State} {s : State} {c : Nat} (h : Keeps s0 s) :
    Keeps s0 (beginSave s c) := by
  unfold beginSave
  try dsimp only
  repeat' first
    | with_reducible assumption
    | intro _
    | with_reducible first
      | apply keeps_ite | apply updCtx_keeps
    | split
    | with_reducible exact SameBytes.mk rfl rfl rfl
    | with_reducible exact SameBox.mk rfl
    | with_reducible exact KeysOk.refl _ _
    | ((with_reducible apply keeps_mk); (with_reducible
        first
        | assumption | apply keeps_ite | apply updCtx_keeps))
    | dsimp only

theorem leaveUnits_keeps {s0 : State} {s : State} {c : Nat} {units : List Nat} (h : Keeps s0 s) :
    Keeps s0 (leaveUnits s c units) := by
  unfold leaveUnits
  try dsimp only
  repeat' first
    | with_reducible assumption
    | intro _
    | with_reducible first
      | apply keeps_ite | apply updCtx_keeps
    | split
    | with_reducible exact SameBytes.mk rfl rfl rfl
    | with_reducible exact SameBox.mk rfl
    | with_reducible exact KeysOk.refl _ _
    | ((with_reducible apply keeps_mk); (with_reducible
        first
        | assumption | apply keeps_ite | apply updCtx_keeps))
    | dsimp only

theorem closeUnit_keeps {s0 : State} {s : State} {c : Nat} {u : Nat} (h : Keeps s0 s) :
    Keeps s0 (closeUnit s c u) := by
  unfold closeUnit
  try dsimp only
  repeat' first
    | with_reducible assumption
    | intro _
    | with_reducible first
      | apply keeps_ite | apply bump_keeps | apply setCtx_keeps
    | split
    | with_reducible exact SameBytes.mk rfl rfl rfl
    | with_reducible exact SameBox.mk rfl
    | with_reducible exact KeysOk.refl _ _
    | ((with_reducible apply keeps_mk); (with_reducible
        first
        | assumption | apply keeps_ite | apply bump_keeps | apply setCtx_keeps))
    | dsimp only

theorem placeOn_keeps {s0 : State} {s : State} {c : Nat} {qs : List Nat} (h : Keeps s0 s) :
    Keeps s0 (placeOn s c qs) := by
  unfold placeOn
  try dsimp only
  repeat' first
    | with_reducible assumption
    | intro _
    | with_reducible first
      | apply updCtx_keeps
    | split
    | with_reducible exact SameBytes.mk rfl rfl rfl
    | with_reducible exact SameBox.mk rfl
    | with_reducible exact KeysOk.refl _ _
    | ((with_reducible apply keeps_mk); (with_reducible
        first
        | assumption | apply updCtx_keeps))
    | dsimp only

theorem placeAll_keeps {s0 : State} {expiring : List Nat} {x1 : State} {x2 : List Nat} (h : Keeps s0 x1) :
    Keeps s0 (placeAll expiring x1 x2) := by
  induction x2 generalizing x1 with
  | nil =>
    unfold placeAll
    try dsimp only
    repeat' first
      | with_reducible assumption
      | intro _
      | with_reducible first
        | apply ih | apply keeps_ite | apply keeps_foldl | apply setCtx_keeps | apply placeOn_keeps
        | apply needRegion_keeps | apply beginSave_keeps
      | split
      | with_reducible exact SameBytes.mk rfl rfl rfl
      | with_reducible exact SameBox.mk rfl
      | with_reducible exact KeysOk.refl _ _
      | ((with_reducible apply keeps_mk); (with_reducible
          first
          | assumption | apply ih | apply keeps_ite | apply keeps_foldl | apply setCtx_keeps | apply placeOn_keeps
          | apply needRegion_keeps | apply beginSave_keeps))
      | dsimp only
  | cons x l ih =>
    unfold placeAll
    try dsimp only
    repeat' first
      | with_reducible assumption
      | intro _
      | with_reducible first
        | apply ih | apply keeps_ite | apply keeps_foldl | apply setCtx_keeps | apply placeOn_keeps
        | apply needRegion_keeps | apply beginSave_keeps
      | split
      | with_reducible exact SameBytes.mk rfl rfl rfl
      | with_reducible exact SameBox.mk rfl
      | with_reducible exact KeysOk.refl _ _
      | ((with_reducible apply keeps_mk); (with_reducible
          first
          | assumption | apply ih | apply keeps_ite | apply keeps_foldl | apply setCtx_keeps | apply placeOn_keeps
          | apply needRegion_keeps | apply beginSave_keeps))
      | dsimp only

theorem clearBlock_keeps {s0 : State} {s : State} {b : Nat} (h : Keeps s0 s) :
    Keeps s0 (clearBlock s b) := by
  unfold clearBlock
  try dsimp only
  repeat' first
    | with_reducible assumption
    | intro _
    | split
    | ((with_reducible apply keeps_mk_full); (with_reducible
        first
        | assumption))
    | exact EepromKeeps.refl _
    | exact EepromKeeps.mk rfl rfl rfl rfl rfl rfl rfl (by first | exact Nat.le_refl _ | exact Nat.le_succ _)
    | with_reducible exact KeysOk.refl _ _
    | (refine BytesOk.of fun a b c d e => ⟨?_, ?_, ?_, ?_, ?_⟩) <;> repeat' first
        | assumption | exact memWf_nil | apply memWf_clear | apply memWf_putNat | apply memWf_write | apply memWf_copy
        | apply memWf_filter | apply memWf_put | apply memWf_foldl | intro _ | split
    | dsimp only

theorem loadBlock_keeps {s0 : State} {s : State} {base : Nat} {i : Nat} {b : Nat} (h : Keeps s0 s) :
    Keeps s0 (loadBlock s base i b) := by
  unfold loadBlock
  try dsimp only
  repeat' first
    | with_reducible assumption
    | intro _
    | with_reducible first
      | apply keeps_foldl | apply clearBlock_keeps
    | split
    | ((with_reducible apply keeps_mk_full); (with_reducible
        first
        | assumption | apply keeps_foldl | apply clearBlock_keeps))
    | exact EepromKeeps.refl _
    | exact EepromKeeps.mk rfl rfl rfl rfl rfl rfl rfl (by first | exact Nat.le_refl _ | exact Nat.le_succ _)
    | with_reducible exact KeysOk.refl _ _
    | (refine BytesOk.of fun a b c d e => ⟨?_, ?_, ?_, ?_, ?_⟩) <;> repeat' first
        | assumption | exact memWf_nil | apply memWf_clear | apply memWf_putNat | apply memWf_write | apply memWf_copy
        | apply memWf_filter | apply memWf_put | apply memWf_foldl | intro _ | split
    | dsimp only

theorem loadImage_keeps {s0 : State} {s : State} {c : Nat} (h : Keeps s0 s) :
    Keeps s0 (loadImage s c) := by
  unfold loadImage
  try dsimp only
  repeat' first
    | with_reducible assumption
    | intro _
    | with_reducible first
      | apply keeps_ite | apply keeps_foldl | apply loadBlock_keeps | apply updCtx_keeps | apply clearBlock_keeps
    | split
    | with_reducible exact SameBytes.mk rfl rfl rfl
    | with_reducible exact SameBox.mk rfl
    | with_reducible exact KeysOk.refl _ _
    | ((with_reducible apply keeps_mk); (with_reducible
        first
        | assumption | apply keeps_ite | apply keeps_foldl | apply loadBlock_keeps | apply updCtx_keeps
        | apply clearBlock_keeps))
    | dsimp only

theorem undoClaims_keeps {s0 : State} {s : State} {c : Nat} (h : Keeps s0 s) :
    Keeps s0 (undoClaims s c) := by
  unfold undoClaims
  try dsimp only
  repeat' first
    | with_reducible assumption
    | intro _
    | with_reducible first
      | apply keeps_ite | apply updCtx_keeps
    | split
    | with_reducible exact SameBytes.mk rfl rfl rfl
    | with_reducible exact SameBox.mk rfl
    | with_reducible exact KeysOk.refl _ _
    | ((with_reducible apply keeps_mk); (with_reducible
        first
        | assumption | apply keeps_ite | apply updCtx_keeps))
    | dsimp only

theorem cloakMoved_keeps {s0 : State} {s : State} {c : Nat} (h : Keeps s0 s) :
    Keeps s0 (cloakMoved s c) := by
  unfold cloakMoved
  try dsimp only
  repeat' first
    | with_reducible assumption
    | intro _
    | with_reducible first
      | apply countRegion_keeps
    | split
    | with_reducible exact SameBytes.mk rfl rfl rfl
    | with_reducible exact SameBox.mk rfl
    | with_reducible exact KeysOk.refl _ _
    | ((with_reducible apply keeps_mk); (with_reducible
        first
        | assumption | apply countRegion_keeps))
    | dsimp only

theorem cloakSaveDone_keeps {s0 s : State} {c : Nat} {ok : Bool} (h : Keeps s0 s) :
    Keeps s0 (cloakSaveDone s c ok) := by
  have h0 : Keeps s0 (advanceTimed (undoClaims s c)) := advanceTimed_keeps (undoClaims_keeps h)
  unfold cloakSaveDone
  refine keeps_ite (keeps_ite ?_ (faultCtx_keeps (logError_keeps h))) h
  refine bump_keeps (setCtx_keeps (cloakMoved_keeps (noteWritten_keeps
    (h0.rebuilt h0.pending (.refl _) (fun a b c d e => ⟨?_, b, c, d, e⟩) (.refl _ _)))))
  exact memWf_imageOf a

theorem execCloakSaveDone_keeps (ctx : Nat) (ok : Bool) (s : State) : Answers s (execCloakSaveDone ctx ok s) := by
  refine answers_next ?_
  have h := Keeps.refl s
  repeat' first
    | with_reducible assumption
    | intro _
    | with_reducible first
      | apply cloakSaveDone_keeps
    | split
    | dsimp only

theorem cloakRestoreDone_keeps {s0 : State} {s : State} {c : Nat} {ok : Bool} (h : Keeps s0 s) :
    Keeps s0 (cloakRestoreDone s c ok) := by
  unfold cloakRestoreDone
  try dsimp only
  repeat' first
    | with_reducible assumption
    | intro _
    | with_reducible first
      | apply touchRange_keeps
      | apply keeps_ite | apply updCtx_keeps | apply cloakMoved_keeps | apply loadImage_keeps | apply faultCtx_keeps
      | apply logError_keeps
    | split
    | with_reducible exact SameBytes.mk rfl rfl rfl
    | with_reducible exact SameBox.mk rfl
    | with_reducible exact KeysOk.refl _ _
    | ((with_reducible apply keeps_mk); (with_reducible
        first
        | apply touchRange_keeps
        | assumption | apply keeps_ite | apply updCtx_keeps | apply cloakMoved_keeps | apply loadImage_keeps
        | apply faultCtx_keeps | apply logError_keeps))
    | dsimp only

theorem execCloakRestoreDone_keeps (ctx : Nat) (ok : Bool) (s : State) : Answers s (execCloakRestoreDone ctx ok s) := by
  refine answers_next ?_
  have h := Keeps.refl s
  repeat' first
    | with_reducible assumption
    | intro _
    | with_reducible first
      | apply cloakRestoreDone_keeps
    | split
    | dsimp only

theorem npBoundExceeded_keeps {s0 : State} {s : State} {c : Nat} (h : Keeps s0 s) :
    Keeps s0 (npBoundExceeded s c) := by
  unfold npBoundExceeded
  try dsimp only
  repeat' first
    | with_reducible assumption
    | intro _
    | with_reducible first
      | apply keeps_ite | apply faultCtx_keeps
    | split
    | dsimp only

theorem execNpBoundExceeded_keeps (ctx : Nat) (s : State) : Answers s (execNpBoundExceeded ctx s) := by
  refine answers_next ?_
  have h := Keeps.refl s
  repeat' first
    | with_reducible assumption
    | intro _
    | with_reducible first
      | apply npBoundExceeded_keeps
    | split
    | dsimp only

theorem ctxAllocBody_keeps {s0 : State} {s : State} {id : Nat} {j : Job} (h : Keeps s0 s) :
    Keeps s0 (ctxAllocBody s id j) := by
  unfold ctxAllocBody
  try dsimp only
  repeat' first
    | with_reducible assumption
    | intro _
    | with_reducible first
      | apply keeps_ite | apply reserve_held | apply reserve_wait | apply reserve_fail | apply reserve_ite
      | apply finish_keeps | apply reserveSave_keeps | apply setCtx_keeps
      | refine keeps_reserve_held (by assumption) ?_ | refine keeps_reserve_wait (by assumption) ?_
    | split
    | dsimp only

theorem execCtxAlloc_keeps (job : Nat) (s : State) : Answers s (execCtxAlloc job s) := by
  refine answers_next ?_
  have h := Keeps.refl s
  repeat' first
    | with_reducible assumption
    | intro _
    | with_reducible first
      | apply runJob_keeps | apply ctxAllocBody_keeps
    | split
    | dsimp only

theorem ctxFreeBody_keeps {s0 : State} {s : State} {id : Nat} {j : Job} (h : Keeps s0 s) :
    Keeps s0 (ctxFreeBody s id j) := by
  unfold ctxFreeBody
  try dsimp only
  repeat' first
    | with_reducible assumption
    | intro _
    | with_reducible first
      | apply dropPages_keeps | apply releaseUnits_keeps | apply finish_keeps | apply setCtx_keeps
      | apply fence_keeps
    | split
    | dsimp only

theorem execCtxFree_keeps (job : Nat) (s : State) : Answers s (execCtxFree job s) := by
  refine answers_next ?_
  have h := Keeps.refl s
  repeat' first
    | with_reducible assumption
    | intro _
    | with_reducible first
      | apply runJob_keeps | apply ctxFreeBody_keeps
    | split
    | dsimp only

theorem ctxModifyAdmit_keeps {s0 : State} {s : State} {id : Nat} (h : Keeps s0 s) :
    Keeps s0 (ctxModifyAdmit s id) := by
  unfold ctxModifyAdmit
  try dsimp only
  repeat' first
    | with_reducible assumption
    | intro _
    | with_reducible first
      | apply updCtx_keeps
    | split
    | with_reducible exact SameBytes.mk rfl rfl rfl
    | with_reducible exact SameBox.mk rfl
    | with_reducible exact KeysOk.refl _ _
    | ((with_reducible apply keeps_mk); (with_reducible
        first
        | assumption | apply updCtx_keeps))
    | dsimp only

theorem ctxModifyBody_keeps {s0 : State} {s : State} {id : Nat} {j : Job} (h : Keeps s0 s) :
    Keeps s0 (ctxModifyBody s id j) := by
  unfold ctxModifyBody
  try dsimp only
  repeat' first
    | with_reducible assumption
    | intro _
    | with_reducible first
      | apply finish_keeps | apply updCtx_keeps
    | split
    | dsimp only

theorem execCtxModify_keeps (job : Nat) (s : State) : Answers s (execCtxModify job s) := by
  refine answers_next ?_
  have h := Keeps.refl s
  repeat' first
    | with_reducible assumption
    | intro _
    | with_reducible first
      | apply runJob_keeps | apply ctxModifyBody_keeps
    | split
    | dsimp only

theorem ctxPreemptBody_keeps {s0 : State} {s : State} {id : Nat} {j : Job} (h : Keeps s0 s) :
    Keeps s0 (ctxPreemptBody s id j) := by
  unfold ctxPreemptBody
  try dsimp only
  repeat' first
    | with_reducible assumption
    | intro _
    | with_reducible first
      | apply keeps_ite | apply finish_keeps | apply updJob_keeps | apply updCtx_keeps
    | split
    | with_reducible exact SameBytes.mk rfl rfl rfl
    | with_reducible exact SameBox.mk rfl
    | with_reducible exact KeysOk.refl _ _
    | ((with_reducible apply keeps_mk); (with_reducible
        first
        | assumption | apply keeps_ite | apply finish_keeps | apply updJob_keeps | apply updCtx_keeps))
    | dsimp only

theorem execCtxPreempt_keeps (job : Nat) (s : State) : Answers s (execCtxPreempt job s) := by
  refine answers_next ?_
  have h := Keeps.refl s
  repeat' first
    | with_reducible assumption
    | intro _
    | with_reducible first
      | apply runJob_keeps | apply ctxPreemptBody_keeps
    | split
    | dsimp only

theorem ctxQueryBody_keeps {s0 : State} {s : State} {id : Nat} {j : Job} (h : Keeps s0 s) :
    Keeps s0 (ctxQueryBody s id j) := by
  unfold ctxQueryBody
  try dsimp only
  repeat' first
    | with_reducible assumption
    | intro _
    | with_reducible first
      | apply writeAndFinish_keeps
    | split
    | dsimp only

theorem execCtxQuery_keeps (job : Nat) (s : State) : Answers s (execCtxQuery job s) := by
  refine answers_next ?_
  have h := Keeps.refl s
  repeat' first
    | with_reducible assumption
    | intro _
    | with_reducible first
      | apply runJob_keeps | apply ctxQueryBody_keeps
    | split
    | dsimp only

theorem putImage_keeps {s0 : State} {s : State} {a : Nat} {n : Nat} {img : Sys2Proof.Mem} (h : Keeps s0 s) :
    Keeps s0 (putImage s a n img) := by
  unfold putImage
  try dsimp only
  repeat' first
    | with_reducible assumption
    | intro _
    | with_reducible first
      | apply keeps_ite | apply send_keeps | apply countWrites_keeps | apply touchUnits_keeps
      | apply stageRange_keeps | apply unpoison_keeps
    | split
    | ((with_reducible apply keeps_mk_full); (with_reducible
        first
        | assumption | apply keeps_ite | apply send_keeps | apply countWrites_keeps | apply touchUnits_keeps
        | apply stageRange_keeps | apply unpoison_keeps))
    | exact EepromKeeps.refl _
    | exact EepromKeeps.mk rfl rfl rfl rfl rfl rfl rfl (by first | exact Nat.le_refl _ | exact Nat.le_succ _)
    | with_reducible exact KeysOk.refl _ _
    | (refine BytesOk.of fun a b c d e => ⟨?_, ?_, ?_, ?_, ?_⟩) <;> repeat' first
        | assumption | exact memWf_nil | apply memWf_clear | apply memWf_putNat | apply memWf_write | apply memWf_copy
        | apply memWf_filter | apply memWf_put | apply memWf_foldl | intro _ | split
    | dsimp only

theorem deliverImage_keeps {s0 : State} {s : State} {id : Nat} {a : Nat} {n : Nat} {img : Sys2Proof.Mem} (h : Keeps
    s0 s) :
    Keeps s0 (deliverImage s id a n img) := by
  unfold deliverImage
  try dsimp only
  repeat' first
    | with_reducible assumption
    | intro _
    | with_reducible first
      | apply withWrite_keeps | apply finish_keeps | apply putImage_keeps
    | split
    | dsimp only

theorem ctxSaveBody_keeps {s0 : State} {s : State} {id : Nat} {j : Job} (h : Keeps s0 s) :
    Keeps s0 (ctxSaveBody s id j) := by
  unfold ctxSaveBody
  try dsimp only
  repeat' first
    | with_reducible assumption
    | intro _
    | with_reducible first
      | apply keeps_ite | apply finish_keeps | apply deliverImage_keeps | apply updCtx_keeps | apply updJob_keeps
    | split
    | with_reducible exact SameBytes.mk rfl rfl rfl
    | with_reducible exact SameBox.mk rfl
    | with_reducible exact KeysOk.refl _ _
    | ((with_reducible apply keeps_mk); (with_reducible
        first
        | assumption | apply keeps_ite | apply finish_keeps | apply deliverImage_keeps | apply updCtx_keeps
        | apply updJob_keeps))
    | dsimp only

theorem execCtxSave_keeps (job : Nat) (s : State) : Answers s (execCtxSave job s) := by
  refine answers_next ?_
  have h := Keeps.refl s
  repeat' first
    | with_reducible assumption
    | intro _
    | with_reducible first
      | apply runJob_keeps | apply ctxSaveBody_keeps
    | split
    | dsimp only

theorem serveSave_keeps {s0 : State} {s : State} {c : Nat} {boundary : Bool} {clean : Bool} (h : Keeps s0 s) :
    Keeps s0 (serveSave s c boundary clean) := by
  unfold serveSave
  try dsimp only
  repeat' first
    | with_reducible assumption
    | intro _
    | with_reducible first
      | apply keeps_ite | apply advanceTimed_keeps | apply undoClaims_keeps | apply setCtx_keeps
      | apply deliverImage_keeps
    | split
    | with_reducible exact SameBytes.mk rfl rfl rfl
    | with_reducible exact SameBox.mk rfl
    | with_reducible exact KeysOk.refl _ _
    | ((with_reducible apply keeps_mk); (with_reducible
        first
        | assumption | apply keeps_ite | apply advanceTimed_keeps | apply undoClaims_keeps | apply setCtx_keeps
        | apply deliverImage_keeps))
    | dsimp only

theorem applyRestore_keeps {s0 : State} {s : State} {c : Nat} {a : Nat} {quads : Nat} {addr : Nat} (h : Keeps s0 s)
    :
    Keeps s0 (applyRestore s c a quads addr) := by
  unfold applyRestore
  try dsimp only
  repeat' first
    | with_reducible assumption
    | intro _
    | with_reducible first
      | apply keeps_ite | apply setCtx_keeps | apply noteWritten_keeps
    | split
    | ((with_reducible apply keeps_mk_full); (with_reducible
        first
        | assumption | apply keeps_ite | apply setCtx_keeps | apply noteWritten_keeps))
    | exact EepromKeeps.refl _
    | exact EepromKeeps.mk rfl rfl rfl rfl rfl rfl rfl (by first | exact Nat.le_refl _ | exact Nat.le_succ _)
    | with_reducible exact KeysOk.refl _ _
    | (refine BytesOk.of fun a b c d e => ⟨?_, ?_, ?_, ?_, ?_⟩) <;> repeat' first
        | assumption | exact memWf_nil | apply memWf_clear | apply memWf_putNat | apply memWf_write | apply memWf_copy
        | apply memWf_filter | apply memWf_put | apply memWf_foldl | intro _ | split
    | dsimp only

theorem restoreFrom_keeps {s0 : State} {s : State} {id : Nat} {j : Job} (h : Keeps s0 s) :
    Keeps s0 (restoreFrom s id j) := by
  unfold restoreFrom
  try dsimp only
  repeat' first
    | with_reducible assumption
    | intro _
    | with_reducible first
      | apply touchRange_keeps
      | apply keeps_ite | apply reserve_held | apply reserve_wait | apply reserve_fail | apply reserve_ite
      | apply finish_keeps | apply applyRestore_keeps | apply updJob_keeps | apply reserveSave_keeps
      | apply releaseUnits_keeps | refine keeps_reserve_held (by assumption) ?_
      | refine keeps_reserve_wait (by assumption) ?_
    | split
    | with_reducible exact SameBytes.mk rfl rfl rfl
    | with_reducible exact SameBox.mk rfl
    | with_reducible exact KeysOk.refl _ _
    | ((with_reducible apply keeps_mk); (with_reducible
        first
        | apply touchRange_keeps
        | assumption | apply keeps_ite | apply reserve_held | apply reserve_wait | apply reserve_fail
        | apply reserve_ite | apply finish_keeps | apply applyRestore_keeps | apply updJob_keeps
        | apply reserveSave_keeps | apply releaseUnits_keeps | refine keeps_reserve_held (by assumption) ?_
        | refine keeps_reserve_wait (by assumption) ?_))
    | dsimp only

theorem ctxRestoreBody_keeps {s0 : State} {s : State} {id : Nat} {j : Job} (h : Keeps s0 s) :
    Keeps s0 (ctxRestoreBody s id j) := by
  unfold ctxRestoreBody
  try dsimp only
  repeat' first
    | with_reducible assumption
    | intro _
    | with_reducible first
      | apply keeps_ite | apply finish_keeps | apply fetchMore_keeps | apply restoreFrom_keeps
    | split
    | dsimp only

theorem execCtxRestore_keeps (job : Nat) (s : State) : Answers s (execCtxRestore job s) := by
  refine answers_next ?_
  have h := Keeps.refl s
  repeat' first
    | with_reducible assumption
    | intro _
    | with_reducible first
      | apply runJob_keeps | apply ctxRestoreBody_keeps
    | split
    | dsimp only

theorem ctxBufferBody_keeps {s0 : State} {s : State} {id : Nat} {j : Job} (h : Keeps s0 s) :
    Keeps s0 (ctxBufferBody s id j) := by
  unfold ctxBufferBody
  try dsimp only
  repeat' first
    | with_reducible assumption
    | intro _
    | with_reducible first
      | apply updCtx_keeps | apply finish_keeps
    | split
    | with_reducible exact SameBytes.mk rfl rfl rfl
    | with_reducible exact SameBox.mk rfl
    | with_reducible exact KeysOk.refl _ _
    | ((with_reducible apply keeps_mk); (with_reducible
        first
        | assumption | apply updCtx_keeps | apply finish_keeps))
    | dsimp only

theorem execCtxBuffer_keeps (job : Nat) (s : State) : Answers s (execCtxBuffer job s) := by
  refine answers_next ?_
  have h := Keeps.refl s
  repeat' first
    | with_reducible assumption
    | intro _
    | with_reducible first
      | apply runJob_keeps | apply ctxBufferBody_keeps
    | split
    | dsimp only

theorem wardrobeReleaseAdmit_keeps {s0 : State} {s : State} {id : Nat} (h : Keeps s0 s) :
    Keeps s0 (wardrobeReleaseAdmit s id) := by
  unfold wardrobeReleaseAdmit
  try dsimp only
  repeat' first
    | with_reducible assumption
    | intro _
    | split
    | with_reducible exact SameBytes.mk rfl rfl rfl
    | with_reducible exact SameBox.mk rfl
    | with_reducible exact KeysOk.refl _ _
    | ((with_reducible apply keeps_mk); (with_reducible
        first
        | assumption))
    | dsimp only

theorem wardrobeReleaseBody_keeps {s0 : State} {s : State} {id : Nat} {j : Job} (h : Keeps s0 s) :
    Keeps s0 (wardrobeReleaseBody s id j) := by
  unfold wardrobeReleaseBody
  try dsimp only
  repeat' first
    | with_reducible assumption
    | intro _
    | with_reducible first
      | apply keeps_ite | apply finish_keeps
    | split
    | with_reducible exact SameBytes.mk rfl rfl rfl
    | with_reducible exact SameBox.mk rfl
    | with_reducible exact KeysOk.refl _ _
    | ((with_reducible apply keeps_mk); (with_reducible
        first
        | assumption | apply keeps_ite | apply finish_keeps))
    | dsimp only

theorem execWardrobeRelease_keeps (job : Nat) (s : State) : Answers s (execWardrobeRelease job s) := by
  refine answers_next ?_
  have h := Keeps.refl s
  repeat' first
    | with_reducible assumption
    | intro _
    | with_reducible first
      | apply runJob_keeps | apply wardrobeReleaseBody_keeps
    | split
    | dsimp only

theorem evictFor_keeps {s0 : State} {size : Nat} {x1 : Nat} {x2 : State} (h : Keeps s0 x2) :
    OptKeeps s0 (evictFor size x1 x2) := by
  induction x1 generalizing x2 with
  | zero =>
    unfold evictFor
    try dsimp only
    repeat' first
      | with_reducible assumption
      | intro _
      | with_reducible first
        | apply ih | apply keeps_ite | apply optKeeps_none | apply optKeeps_some | apply optKeeps_ite
        | apply bump_keeps | refine keeps_opt (by assumption) ?_
      | split
      | with_reducible exact SameBytes.mk rfl rfl rfl
      | with_reducible exact SameBox.mk rfl
      | with_reducible exact KeysOk.refl _ _
      | ((with_reducible apply keeps_mk); (with_reducible
          first
          | assumption | apply ih | apply keeps_ite | apply optKeeps_none | apply optKeeps_some
          | apply optKeeps_ite | apply bump_keeps | refine keeps_opt (by assumption) ?_))
      | dsimp only
  | succ n ih =>
    unfold evictFor
    try dsimp only
    repeat' first
      | with_reducible assumption
      | intro _
      | with_reducible first
        | apply ih | apply keeps_ite | apply optKeeps_none | apply optKeeps_some | apply optKeeps_ite
        | apply bump_keeps | refine keeps_opt (by assumption) ?_
      | split
      | with_reducible exact SameBytes.mk rfl rfl rfl
      | with_reducible exact SameBox.mk rfl
      | with_reducible exact KeysOk.refl _ _
      | ((with_reducible apply keeps_mk); (with_reducible
          first
          | assumption | apply ih | apply keeps_ite | apply optKeeps_none | apply optKeeps_some
          | apply optKeeps_ite | apply bump_keeps | refine keeps_opt (by assumption) ?_))
      | dsimp only

theorem wardrobeLoad_keeps {s0 : State} {s : State} {m : Nat} (h : Keeps s0 s) :
    Keeps s0 (wardrobeLoad s m) := by
  unfold wardrobeLoad
  try dsimp only
  repeat' first
    | with_reducible assumption
    | intro _
    | with_reducible first
      | apply touchRange_keeps
      | apply keeps_ite | apply optKeeps_none | apply optKeeps_some | apply optKeeps_ite | apply evictFor_keeps
      | refine keeps_opt (by assumption) ?_
    | split
    | with_reducible exact SameBytes.mk rfl rfl rfl
    | with_reducible exact SameBox.mk rfl
    | with_reducible exact KeysOk.refl _ _
    | ((with_reducible apply keeps_mk); (with_reducible
        first
        | apply touchRange_keeps
        | assumption | apply keeps_ite | apply optKeeps_none | apply optKeeps_some | apply optKeeps_ite
        | apply evictFor_keeps | refine keeps_opt (by assumption) ?_))
    | dsimp only

theorem execWardrobeLoad_keeps (model : Nat) (s : State) : Answers s (execWardrobeLoad model s) := by
  refine answers_next ?_
  have h := Keeps.refl s
  repeat' first
    | with_reducible assumption
    | intro _
    | with_reducible first
      | apply wardrobeLoad_keeps
    | split
    | dsimp only

theorem needModel_keeps {s0 : State} {s : State} {m : Nat} (h : Keeps s0 s) :
    Keeps s0 (needModel s m).2 := by
  unfold needModel
  try dsimp only
  repeat' first
    | with_reducible assumption
    | intro _
    | with_reducible first
      | apply keeps_ite | apply keeps_ite_snd | apply keeps_foldl_snd | apply bump_keeps
      | refine keeps_pair_snd (by assumption) ?_
    | split
    | with_reducible exact SameBytes.mk rfl rfl rfl
    | with_reducible exact SameBox.mk rfl
    | with_reducible exact KeysOk.refl _ _
    | ((with_reducible apply keeps_mk); (with_reducible
        first
        | assumption | apply keeps_ite | apply keeps_ite_snd | apply keeps_foldl_snd | apply bump_keeps
        | refine keeps_pair_snd (by assumption) ?_))
    | dsimp only

theorem cacheCtx_keeps {s0 : State} {s : State} {c : Nat} {stamp : Nat} (h : Keeps s0 s) :
    OptKeeps s0 (cacheCtx s c stamp) := by
  unfold cacheCtx
  try dsimp only
  repeat' first
    | with_reducible assumption
    | intro _
    | with_reducible first
      | apply keeps_ite | apply optKeeps_none | apply optKeeps_some | apply optKeeps_ite | apply setCtx_keeps
      | apply updCtx_keeps | refine keeps_opt (by assumption) ?_
    | split
    | with_reducible exact SameBytes.mk rfl rfl rfl
    | with_reducible exact SameBox.mk rfl
    | with_reducible exact KeysOk.refl _ _
    | ((with_reducible apply keeps_mk); (with_reducible
        first
        | assumption | apply keeps_ite | apply optKeeps_none | apply optKeeps_some | apply optKeeps_ite
        | apply setCtx_keeps | apply updCtx_keeps | refine keeps_opt (by assumption) ?_))
    | dsimp only

end Sys2Proof.Machine
end

