-- ==== Sys2Proof/Laws/KeepsLinkOps.lean ====
section
/-! SUPPORT. What every operation of Machine/LinkOps.lean keeps. -/

namespace Sys2Proof.Machine

theorem setLink_keeps {s0 : State} {s : State} {l : Sys2Proof.LinkId} {e : LinkEnd} (h : Keeps s0 s) :
    Keeps s0 (setLink s l e) := by
  unfold setLink
  try dsimp only
  repeat' first
    | with_reducible assumption
    | intro _
    | with_reducible first
      | apply setReg_keeps
    | split
    | with_reducible exact SameBytes.mk rfl rfl rfl
    | with_reducible exact SameBox.mk rfl
    | exact keysOk_links (rising_set _ _)
    | with_reducible exact KeysOk.refl _ _
    | ((with_reducible apply keeps_mk); (with_reducible
        first
        | assumption | apply setReg_keeps))
    | dsimp only

theorem takeChoice_keeps {s0 : State} {s : State} {l : Sys2Proof.LinkId} {e : LinkEnd} {w : Nat} {r : Nat} (h :
    Keeps s0 s) :
    Keeps s0 (takeChoice s l e w r) := by
  unfold takeChoice
  try dsimp only
  repeat' first
    | with_reducible assumption
    | intro _
    | with_reducible first
      | apply setLink_keeps | apply setReg_keeps
    | split
    | with_reducible exact SameBytes.mk rfl rfl rfl
    | with_reducible exact SameBox.mk rfl
    | with_reducible exact KeysOk.refl _ _
    | ((with_reducible apply keeps_mk); (with_reducible
        first
        | assumption | apply setLink_keeps | apply setReg_keeps))
    | dsimp only

theorem sendTo_keeps {s0 : State} {s : State} {opcode : Nat} {job : Nat} {dest : Nat} {tag : Nat} {value : Nat} (h :
    Keeps s0 s) :
    Keeps s0 (sendTo s opcode job dest tag value) := by
  unfold sendTo
  try dsimp only
  repeat' first
    | with_reducible assumption
    | intro _
    | with_reducible first
      | apply send_keeps
    | split
    | dsimp only

theorem sendMgmt_keeps {s0 : State} {s : State} {p : Reply} (h : Keeps s0 s) :
    Keeps s0 (sendMgmt s p) := by
  unfold sendMgmt
  try dsimp only
  repeat' first
    | with_reducible assumption
    | intro _
    | with_reducible first
      | apply send_keeps
    | split
    | dsimp only

theorem answer_keeps {s0 : State} {s : State} {p : Reply} (h : Keeps s0 s) :
    Keeps s0 (answer s p) := by
  unfold answer
  try dsimp only
  repeat' first
    | with_reducible assumption
    | intro _
    | with_reducible first
      | apply keeps_ite | apply sendTo_keeps | apply sendMgmt_keeps
    | split
    | ((with_reducible apply keeps_mk_full); (with_reducible
        first
        | assumption | apply keeps_ite | apply sendTo_keeps | apply sendMgmt_keeps))
    | exact EepromKeeps.refl _
    | exact EepromKeeps.mk rfl rfl rfl rfl rfl rfl rfl (by first | exact Nat.le_refl _ | exact Nat.le_succ _)
    | with_reducible exact KeysOk.refl _ _
    | (refine BytesOk.of fun a b c d e => ⟨?_, ?_, ?_, ?_, ?_⟩) <;> repeat' first
        | assumption | exact memWf_nil | apply memWf_clear | apply memWf_putNat | apply memWf_write | apply memWf_copy
        | apply memWf_filter | apply memWf_put | apply memWf_foldl | intro _ | split
    | dsimp only

theorem completeRequest_keeps {s0 : State} {s : State} {r : Request} {status : Nat} {rlength : Nat} {data : Nat} (h
    : Keeps s0 s) :
    Keeps s0 (completeRequest s r status rlength data) := by
  unfold completeRequest
  try dsimp only
  repeat' first
    | with_reducible assumption
    | intro _
    | with_reducible first
      | apply keeps_ite | apply bump_keeps | apply answer_keeps | apply countChip_keeps
    | split
    | with_reducible exact SameBytes.mk rfl rfl rfl
    | with_reducible exact SameBox.mk rfl
    | with_reducible exact KeysOk.refl _ _
    | ((with_reducible apply keeps_mk); (with_reducible
        first
        | assumption | apply keeps_ite | apply bump_keeps | apply answer_keeps | apply countChip_keeps))
    | dsimp only

theorem useLine_keeps {s0 : State} {s : State} {line : Nat} (h : Keeps s0 s) :
    Keeps s0 (useLine s line) := by
  unfold useLine
  try dsimp only
  repeat' first
    | with_reducible assumption
    | intro _
    | with_reducible first
      | apply keeps_ite
    | split
    | with_reducible exact SameBytes.mk rfl rfl rfl
    | with_reducible exact SameBox.mk rfl
    | with_reducible exact KeysOk.refl _ _
    | ((with_reducible apply keeps_mk); (with_reducible
        first
        | assumption | apply keeps_ite))
    | dsimp only

theorem wantLine_keeps {s0 : State} {s : State} {line : Nat} {why : ReadFor} (h : Keeps s0 s) :
    Keeps s0 (wantLine s line why) := by
  unfold wantLine
  try dsimp only
  repeat' first
    | with_reducible assumption
    | intro _
    | with_reducible first
      | apply keeps_ite | apply issueRead_keeps
    | split
    | dsimp only

theorem wantDict_keeps {s0 : State} {s : State} (h : Keeps s0 s) :
    Keeps s0 (wantDict s) := by
  unfold wantDict
  try dsimp only
  repeat' first
    | with_reducible assumption
    | intro _
    | with_reducible first
      | apply wantLine_keeps
    | split
    | dsimp only

theorem writeBack_keeps {s0 : State} {s : State} {n : Nat} {q : Queue} (h : Keeps s0 s) :
    Keeps s0 (writeBack s n q) := by
  unfold writeBack
  try dsimp only
  repeat' first
    | with_reducible assumption
    | intro _
    | with_reducible first
      | apply writeBytes_keeps
    | split
    | dsimp only

theorem settleDrains_keeps {s0 : State} {s : State} (h : Keeps s0 s) :
    Keeps s0 (settleDrains s) := by
  unfold settleDrains
  try dsimp only
  repeat' first
    | with_reducible assumption
    | intro _
    | with_reducible first
      | apply keeps_ite | apply keeps_foldl | apply writeBack_keeps
    | split
    | with_reducible exact SameBytes.mk rfl rfl rfl
    | with_reducible exact SameBox.mk rfl
    | with_reducible exact KeysOk.refl _ _
    | ((with_reducible apply keeps_mk); (with_reducible
        first
        | assumption | apply keeps_ite | apply keeps_foldl | apply writeBack_keeps))
    | dsimp only

theorem endJob_keeps {s0 : State} {s : State} {id : Nat} {status : Nat} (h : Keeps s0 s) :
    Keeps s0 (endJob s id status) := by
  unfold endJob
  try dsimp only
  repeat' first
    | with_reducible assumption
    | intro _
    | with_reducible first
      | apply keeps_ite | apply finish_keeps
    | split
    | dsimp only

theorem sendHeld_keeps {s0 : State} {s : State} {h_ : HeldCompletion} (h : Keeps s0 s) :
    Keeps s0 (sendHeld s h_) := by
  unfold sendHeld
  try dsimp only
  repeat' first
    | with_reducible assumption
    | intro _
    | with_reducible first
      | apply keeps_ite | apply send_keeps
    | split
    | ((with_reducible apply keeps_mk_full); (with_reducible
        first
        | assumption | apply keeps_ite | apply send_keeps))
    | exact EepromKeeps.refl _
    | exact EepromKeeps.mk rfl rfl rfl rfl rfl rfl rfl (by first | exact Nat.le_refl _ | exact Nat.le_succ _)
    | with_reducible exact KeysOk.refl _ _
    | (refine BytesOk.of fun a b c d e => ⟨?_, ?_, ?_, ?_, ?_⟩) <;> repeat' first
        | assumption | exact memWf_nil | apply memWf_clear | apply memWf_putNat | apply memWf_write | apply memWf_copy
        | apply memWf_filter | apply memWf_put | apply memWf_foldl | intro _ | split
    | dsimp only

theorem disableAllQueues_keeps {s0 : State} {s : State} (h : Keeps s0 s) :
    Keeps s0 (disableAllQueues s) := by
  unfold disableAllQueues
  try dsimp only
  repeat' first
    | with_reducible assumption
    | intro _
    | split
    | with_reducible exact SameBytes.mk rfl rfl rfl
    | with_reducible exact SameBox.mk rfl
    | exact keysOk_jobs (rising_map _)
    | with_reducible exact KeysOk.refl _ _
    | ((with_reducible apply keeps_mk); (with_reducible
        first
        | assumption))
    | dsimp only

theorem sessionCheck_keeps {s0 : State} {s : State} {session : Nat} (h : Keeps s0 s) :
    Keeps s0 (sessionCheck s session) := by
  unfold sessionCheck
  try dsimp only
  repeat' first
    | with_reducible assumption
    | intro _
    | with_reducible first
      | apply keeps_ite | apply keeps_foldl | apply setReg_keeps | apply settleDrains_keeps | apply sendHeld_keeps
      | apply disableAllQueues_keeps | apply bump_keeps
    | split
    | with_reducible exact SameBytes.mk rfl rfl rfl
    | with_reducible exact SameBox.mk rfl
    | with_reducible exact KeysOk.refl _ _
    | ((with_reducible apply keeps_mk); (with_reducible
        first
        | assumption | apply keeps_ite | apply keeps_foldl | apply setReg_keeps | apply settleDrains_keeps
        | apply sendHeld_keeps | apply disableAllQueues_keeps | apply bump_keeps))
    | dsimp only

theorem startRetrain_keeps {s0 : State} {s : State} {l : Sys2Proof.LinkId} (h : Keeps s0 s) :
    Keeps s0 (startRetrain s l) := by
  unfold startRetrain
  try dsimp only
  repeat' first
    | with_reducible assumption
    | intro _
    | with_reducible first
      | apply keeps_ite | apply setLink_keeps | apply bump_keeps
    | split
    | with_reducible exact SameBytes.mk rfl rfl rfl
    | with_reducible exact SameBox.mk rfl
    | with_reducible exact KeysOk.refl _ _
    | ((with_reducible apply keeps_mk); (with_reducible
        first
        | assumption | apply keeps_ite | apply setLink_keeps | apply bump_keeps))
    | dsimp only

theorem loseLink_keeps {s0 : State} {s : State} {id : Nat} (h : Keeps s0 s) :
    Keeps s0 (loseLink s id) := by
  unfold loseLink
  try dsimp only
  repeat' first
    | with_reducible assumption
    | intro _
    | with_reducible first
      | apply updJob_keeps | apply finish_keeps
    | split
    | with_reducible exact SameBytes.mk rfl rfl rfl
    | with_reducible exact SameBox.mk rfl
    | with_reducible exact KeysOk.refl _ _
    | ((with_reducible apply keeps_mk); (with_reducible
        first
        | assumption | apply updJob_keeps | apply finish_keeps))
    | dsimp only

theorem aedupReset_keeps {s0 : State} {s : State} (h : Keeps s0 s) :
    Keeps s0 (aedupReset s) := by
  unfold aedupReset
  try dsimp only
  repeat' first
    | with_reducible assumption
    | intro _
    | with_reducible first
      | apply keeps_ite | apply keeps_foldl | apply completeRequest_keeps | apply endJob_keeps
      | apply loseLink_keeps | apply setLink_keeps | apply bump_keeps | apply logError_keeps
    | split
    | with_reducible exact SameBytes.mk rfl rfl rfl
    | with_reducible exact SameBox.mk rfl
    | with_reducible exact KeysOk.refl _ _
    | ((with_reducible apply keeps_mk); (with_reducible
        first
        | assumption | apply keeps_ite | apply keeps_foldl | apply completeRequest_keeps | apply endJob_keeps
        | apply loseLink_keeps | apply setLink_keeps | apply bump_keeps | apply logError_keeps))
    | dsimp only

theorem dropRequests_keeps {s0 : State} {s : State} {port : Nat} (h : Keeps s0 s) :
    Keeps s0 (dropRequests s port) := by
  unfold dropRequests
  try dsimp only
  repeat' first
    | with_reducible assumption
    | intro _
    | with_reducible first
      | apply keeps_foldl | apply endJob_keeps
    | split
    | with_reducible exact SameBytes.mk rfl rfl rfl
    | with_reducible exact SameBox.mk rfl
    | with_reducible exact KeysOk.refl _ _
    | ((with_reducible apply keeps_mk); (with_reducible
        first
        | assumption | apply keeps_foldl | apply endJob_keeps))
    | dsimp only

theorem pelganReset_keeps {s0 : State} {s : State} {p : Nat} (h : Keeps s0 s) :
    Keeps s0 (pelganReset s p) := by
  unfold pelganReset
  try dsimp only
  repeat' first
    | with_reducible assumption
    | intro _
    | with_reducible first
      | apply dropRequests_keeps | apply setLink_keeps | apply bump_keeps | apply logError_keeps
    | split
    | with_reducible exact SameBytes.mk rfl rfl rfl
    | with_reducible exact SameBox.mk rfl
    | with_reducible exact KeysOk.refl _ _
    | ((with_reducible apply keeps_mk); (with_reducible
        first
        | assumption | apply dropRequests_keeps | apply setLink_keeps | apply bump_keeps | apply logError_keeps))
    | dsimp only

theorem linkFails_keeps {s0 : State} {s : State} {l : Sys2Proof.LinkId} (h : Keeps s0 s) :
    Keeps s0 (linkFails s l) := by
  unfold linkFails
  try dsimp only
  repeat' first
    | with_reducible assumption
    | intro _
    | with_reducible first
      | apply keeps_ite | apply bump_keeps | apply aedupReset_keeps | apply pelganReset_keeps | apply setLink_keeps
    | split
    | with_reducible exact SameBytes.mk rfl rfl rfl
    | with_reducible exact SameBox.mk rfl
    | with_reducible exact KeysOk.refl _ _
    | ((with_reducible apply keeps_mk); (with_reducible
        first
        | assumption | apply keeps_ite | apply bump_keeps | apply aedupReset_keeps | apply pelganReset_keeps
        | apply setLink_keeps))
    | dsimp only

theorem openSession_keeps {s0 : State} {s : State} {l : Sys2Proof.LinkId} (h : Keeps s0 s) :
    Keeps s0 (openSession s l) := by
  unfold openSession
  try dsimp only
  repeat' first
    | with_reducible assumption
    | intro _
    | with_reducible first
      | apply keeps_ite_snd | apply keeps_foldl_snd | apply drawSecret_keeps | apply takeFree_keeps
      | apply setLink_keeps | refine keeps_pair_snd (by assumption) ?_
    | split
    | with_reducible exact SameBytes.mk rfl rfl rfl
    | with_reducible exact SameBox.mk rfl
    | with_reducible exact KeysOk.refl _ _
    | ((with_reducible apply keeps_mk); (with_reducible
        first
        | assumption | apply keeps_ite_snd | apply keeps_foldl_snd | apply drawSecret_keeps
        | apply takeFree_keeps | apply setLink_keeps | refine keeps_pair_snd (by assumption) ?_))
    | dsimp only

end Sys2Proof.Machine
end

