-- ==== Sys2Proof/Laws/KeepsFabric.lean ====
section
/-! SUPPORT. What every operation of Machine/Fabric.lean keeps. -/

namespace Sys2Proof.Machine

theorem writeRoutes_keeps {s0 : State} {s : State} {rs : List (Nat × Nat × Nat)} (h : Keeps s0 s) :
    Keeps s0 (writeRoutes s rs) := by
  unfold writeRoutes
  try dsimp only
  repeat' first
    | with_reducible assumption
    | intro _
    | with_reducible first
      | apply keeps_foldl | apply setReg_keeps
    | split
    | dsimp only

theorem loseSpanning_keeps {s0 : State} {s : State} (h : Keeps s0 s) :
    Keeps s0 (loseSpanning s) := by
  unfold loseSpanning
  try dsimp only
  repeat' first
    | with_reducible assumption
    | intro _
    | with_reducible first
      | apply keeps_foldl | apply faultCtx_keeps
    | split
    | dsimp only

theorem changeManager_keeps {s0 : State} {s : State} {serial : Nat} (h : Keeps s0 s) :
    Keeps s0 (changeManager s serial) := by
  unfold changeManager
  try dsimp only
  repeat' first
    | with_reducible assumption
    | intro _
    | with_reducible first
      | apply loseSpanning_keeps | apply setReg_keeps
    | split
    | with_reducible exact SameBytes.mk rfl rfl rfl
    | with_reducible exact SameBox.mk rfl
    | with_reducible exact KeysOk.refl _ _
    | ((with_reducible apply keeps_mk); (with_reducible
        first
        | assumption | apply loseSpanning_keeps | apply setReg_keeps))
    | dsimp only

theorem hello_keeps {s0 : State} {s : State} {port : Nat} {capability : Nat} {priority : Nat} {serial : Nat} (h :
    Keeps s0 s) :
    Keeps s0 (hello s port capability priority serial) := by
  unfold hello
  try dsimp only
  repeat' first
    | with_reducible assumption
    | intro _
    | with_reducible first
      | apply keeps_ite | apply keeps_foldl | apply send_keeps | apply setReg_keeps | apply changeManager_keeps
    | split
    | with_reducible exact SameBytes.mk rfl rfl rfl
    | with_reducible exact SameBox.mk rfl
    | with_reducible exact KeysOk.refl _ _
    | ((with_reducible apply keeps_mk); (with_reducible
        first
        | assumption | apply keeps_ite | apply keeps_foldl | apply send_keeps | apply setReg_keeps
        | apply changeManager_keeps))
    | dsimp only

theorem execHello_keeps (port : Nat) (capability : Nat) (priority : Nat) (serial : Nat) (s : State) : Answers s (execHello port capability priority serial s) := by
  refine answers_next ?_
  have h := Keeps.refl s
  repeat' first
    | with_reducible assumption
    | intro _
    | with_reducible first
      | apply hello_keeps
    | split
    | dsimp only

theorem layOutGroup_keeps {s0 : State} {s : State} {serials : List Nat} {numbers : List Nat} {cables : List (Nat ×
    Nat × Nat × Nat)} {latency : Nat} {assigned : List Nat} {own : State → List (Nat × Nat × Nat) → State} (h : Keeps s0
    s) (h1 : ∀ u0 u1, Keeps s0 u0 → Keeps s0 (own u0 u1)) :
    Keeps s0 (layOutGroup s serials numbers cables latency assigned own) := by
  unfold layOutGroup
  try dsimp only
  repeat' first
    | with_reducible assumption
    | intro _
    | with_reducible first
      | apply h1 | apply keeps_ite | apply keeps_foldl | apply setReg_keeps | apply send_keeps
    | split
    | with_reducible exact SameBytes.mk rfl rfl rfl
    | with_reducible exact SameBox.mk rfl
    | with_reducible exact KeysOk.refl _ _
    | ((with_reducible apply keeps_mk); (with_reducible
        first
        | assumption | apply h1 | apply keeps_ite | apply keeps_foldl | apply setReg_keeps | apply send_keeps))
    | dsimp only

theorem delayRoutes_keeps {s0 : State} {s : State} {rs : List (Nat × Nat × Nat)} (h : Keeps s0 s) :
    Keeps s0 (delayRoutes s rs) := by
  unfold delayRoutes
  try dsimp only
  repeat' first
    | with_reducible assumption
    | intro _
    | split
    | with_reducible exact SameBytes.mk rfl rfl rfl
    | with_reducible exact SameBox.mk rfl
    | with_reducible exact KeysOk.refl _ _
    | ((with_reducible apply keeps_mk); (with_reducible
        first
        | assumption))
    | dsimp only

theorem freshRoutes_keeps {s0 : State} {s : State} {rs : List (Nat × Nat × Nat)} (h : Keeps s0 s) :
    Keeps s0 (freshRoutes s rs) := by
  unfold freshRoutes
  try dsimp only
  repeat' first
    | with_reducible assumption
    | intro _
    | with_reducible first
      | apply writeRoutes_keeps | apply setReg_keeps
    | split
    | with_reducible exact SameBytes.mk rfl rfl rfl
    | with_reducible exact SameBox.mk rfl
    | with_reducible exact KeysOk.refl _ _
    | ((with_reducible apply keeps_mk); (with_reducible
        first
        | assumption | apply writeRoutes_keeps | apply setReg_keeps))
    | dsimp only

theorem regroup_keeps {s0 : State} {s : State} {serials : List Nat} {cables : List (Nat × Nat × Nat × Nat)} {latency
    : Nat} (h : Keeps s0 s) :
    Keeps s0 (regroup s serials cables latency) := by
  unfold regroup
  try dsimp only
  repeat' first
    | with_reducible assumption
    | intro _
    | with_reducible first
      | apply layOutGroup_keeps | apply delayRoutes_keeps
    | split
    | dsimp only

theorem managerDeclare_keeps {s0 : State} {s : State} {serials : List Nat} {cables : List (Nat × Nat × Nat × Nat)}
    {latency : Nat} (h : Keeps s0 s) :
    Keeps s0 (managerDeclare s serials cables latency) := by
  unfold managerDeclare
  try dsimp only
  repeat' first
    | with_reducible assumption
    | intro _
    | with_reducible first
      | apply keeps_ite | apply regroup_keeps | apply changeManager_keeps | apply setReg_keeps | apply bump_keeps
      | apply layOutGroup_keeps | apply freshRoutes_keeps
    | split
    | with_reducible exact SameBytes.mk rfl rfl rfl
    | with_reducible exact SameBox.mk rfl
    | with_reducible exact KeysOk.refl _ _
    | ((with_reducible apply keeps_mk); (with_reducible
        first
        | assumption | apply keeps_ite | apply regroup_keeps | apply changeManager_keeps | apply setReg_keeps
        | apply bump_keeps | apply layOutGroup_keeps | apply freshRoutes_keeps))
    | dsimp only

theorem execManagerDeclare_keeps (serials : List Nat) (cables : List (Nat × Nat × Nat × Nat)) (latency : Nat) (s : State) : Answers s (execManagerDeclare serials cables latency s) := by
  refine answers_next ?_
  have h := Keeps.refl s
  repeat' first
    | with_reducible assumption
    | intro _
    | with_reducible first
      | apply managerDeclare_keeps
    | split
    | dsimp only

theorem assign_keeps {s0 : State} {s : State} {port : Nat} {device : Nat} {formation : Nat} {manager : Nat} {members
    : Nat} {children : List Nat} (h : Keeps s0 s) :
    Keeps s0 (assign s port device formation manager members children) := by
  unfold assign
  try dsimp only
  repeat' first
    | with_reducible assumption
    | intro _
    | with_reducible first
      | apply keeps_ite | apply setReg_keeps | apply changeManager_keeps
    | split
    | with_reducible exact SameBytes.mk rfl rfl rfl
    | with_reducible exact SameBox.mk rfl
    | with_reducible exact KeysOk.refl _ _
    | ((with_reducible apply keeps_mk); (with_reducible
        first
        | assumption | apply keeps_ite | apply setReg_keeps | apply changeManager_keeps))
    | dsimp only

theorem execAssign_keeps (port : Nat) (device : Nat) (formation : Nat) (manager : Nat) (members : Nat) (children : List Nat) (s : State) : Answers s (execAssign port device formation manager members children s) := by
  refine answers_next ?_
  have h := Keeps.refl s
  repeat' first
    | with_reducible assumption
    | intro _
    | with_reducible first
      | apply assign_keeps
    | split
    | dsimp only

theorem routes_keeps {s0 : State} {s : State} {rs : List (Nat × Nat × Nat)} (h : Keeps s0 s) :
    Keeps s0 (routes s rs) := by
  unfold routes
  try dsimp only
  repeat' first
    | with_reducible assumption
    | intro _
    | split
    | with_reducible exact SameBytes.mk rfl rfl rfl
    | with_reducible exact SameBox.mk rfl
    | with_reducible exact KeysOk.refl _ _
    | ((with_reducible apply keeps_mk); (with_reducible
        first
        | assumption))
    | dsimp only

theorem execRoutes_keeps (rs : List (Nat × Nat × Nat)) (s : State) : Answers s (execRoutes rs s) := by
  refine answers_next ?_
  have h := Keeps.refl s
  repeat' first
    | with_reducible assumption
    | intro _
    | with_reducible first
      | apply routes_keeps
    | split
    | dsimp only

theorem applyRoutes_keeps {s0 : State} {s : State} (h : Keeps s0 s) :
    Keeps s0 (applyRoutes s) := by
  unfold applyRoutes
  try dsimp only
  repeat' first
    | with_reducible assumption
    | intro _
    | with_reducible first
      | apply writeRoutes_keeps
    | split
    | with_reducible exact SameBytes.mk rfl rfl rfl
    | with_reducible exact SameBox.mk rfl
    | with_reducible exact KeysOk.refl _ _
    | ((with_reducible apply keeps_mk); (with_reducible
        first
        | assumption | apply writeRoutes_keeps))
    | dsimp only

theorem managerLosesLink_keeps {s0 : State} {s : State} {port : Nat} (h : Keeps s0 s) :
    Keeps s0 (managerLosesLink s port) := by
  unfold managerLosesLink
  try dsimp only
  repeat' first
    | with_reducible assumption
    | intro _
    | with_reducible first
      | apply keeps_ite | apply regroup_keeps
    | split
    | dsimp only

theorem jobSet_keeps {s0 : State} {s : State} {job : Nat} {entry : Nat} {due : Nat} (h : Keeps s0 s) :
    Keeps s0 (jobSet s job entry due) := by
  unfold jobSet
  try dsimp only
  repeat' first
    | with_reducible assumption
    | intro _
    | with_reducible first
      | apply keeps_ite
    | split
    | with_reducible exact SameBytes.mk rfl rfl rfl
    | with_reducible exact SameBox.mk rfl
    | with_reducible exact KeysOk.refl _ _
    | ((with_reducible apply keeps_mk); (with_reducible
        first
        | assumption | apply keeps_ite))
    | dsimp only

theorem execJobSet_keeps (job : Nat) (entry : Nat) (due : Nat) (s : State) : Answers s (execJobSet job entry due s) := by
  refine answers_next ?_
  have h := Keeps.refl s
  repeat' first
    | with_reducible assumption
    | intro _
    | with_reducible first
      | apply jobSet_keeps
    | split
    | dsimp only

theorem applyJobs_keeps {s0 : State} {s : State} {beat : Nat} (h : Keeps s0 s) :
    Keeps s0 (applyJobs s beat) := by
  unfold applyJobs
  try dsimp only
  repeat' first
    | with_reducible assumption
    | intro _
    | with_reducible first
      | apply keeps_foldl | apply setReg_keeps
    | split
    | with_reducible exact SameBytes.mk rfl rfl rfl
    | with_reducible exact SameBox.mk rfl
    | with_reducible exact KeysOk.refl _ _
    | ((with_reducible apply keeps_mk); (with_reducible
        first
        | assumption | apply keeps_foldl | apply setReg_keeps))
    | dsimp only

theorem writeJob_keeps {s0 : State} {s : State} {job : Nat} {value : Nat} (h : Keeps s0 s) :
    Keeps s0 (writeJob s job value) := by
  unfold writeJob
  try dsimp only
  repeat' first
    | with_reducible assumption
    | intro _
    | with_reducible first
      | apply keeps_ite | apply keeps_foldl | apply faultCtx_keeps | apply beginAbort_keeps | apply sendTo_keeps
      | apply jobSet_keeps
    | split
    | dsimp only

theorem messageForward_keeps {s0 : State} {s : State} {header : Nat} (h : Keeps s0 s) :
    Keeps s0 (messageForward s header) := by
  unfold messageForward
  try dsimp only
  repeat' first
    | with_reducible assumption
    | intro _
    | with_reducible first
      | apply keeps_ite | apply countChip_keeps | apply send_keeps | apply bump_keeps | apply sendTo_keeps
    | split
    | dsimp only

theorem execMessageForward_keeps (_port : Nat) (header : Nat) (s : State) : Answers s (execMessageForward _port header s) := by
  refine answers_next ?_
  have h := Keeps.refl s
  repeat' first
    | with_reducible assumption
    | intro _
    | with_reducible first
      | apply messageForward_keeps
    | split
    | dsimp only

theorem remoteRequest_keeps {s0 : State} {s : State} {source : Nat} {job : Nat} {gen : Nat} {tag : Nat} {d : Nat}
    {serve : State → State} (h : Keeps s0 s) (h1 : ∀ u0, Keeps s0 u0 → Keeps s0 (serve u0)) :
    Keeps s0 (remoteRequest s source job gen tag d serve) := by
  unfold remoteRequest
  try dsimp only
  repeat' first
    | with_reducible assumption
    | intro _
    | with_reducible first
      | apply h1 | apply keeps_ite | apply bump_keeps | apply sendTo_keeps
    | split
    | dsimp only

theorem rmtRd_keeps {s0 : State} {s : State} {source : Nat} {job : Nat} {gen : Nat} {tag : Nat} {d : Nat} (h : Keeps
    s0 s) :
    Keeps s0 (rmtRd s source job gen tag d) := by
  unfold rmtRd
  try dsimp only
  repeat' first
    | with_reducible assumption
    | intro _
    | with_reducible first
      | apply keeps_ite | apply remoteRequest_keeps | apply sendTo_keeps | apply touchRange_keeps
      | apply setCtx_keeps
    | split
    | dsimp only

theorem execRmtRd_keeps (source : Nat) (job : Nat) (gen : Nat) (tag : Nat) (descriptor : Nat) (s : State) : Answers s (execRmtRd source job gen tag descriptor s) := by
  refine answers_next ?_
  have h := Keeps.refl s
  repeat' first
    | with_reducible assumption
    | intro _
    | with_reducible first
      | apply rmtRd_keeps
    | split
    | dsimp only

theorem rmtWr_keeps {s0 : State} {s : State} {source : Nat} {job : Nat} {gen : Nat} {tag : Nat} {d : Nat} {data :
    Nat} (h : Keeps s0 s) :
    Keeps s0 (rmtWr s source job gen tag d data) := by
  unfold rmtWr
  try dsimp only
  repeat' first
    | with_reducible assumption
    | intro _
    | with_reducible first
      | apply keeps_ite | apply prep_ready | apply prep_wait | apply prep_fail | apply prep_ite
      | apply remoteRequest_keeps | apply prepareWrite_keeps | apply sendTo_keeps | apply writeBytes_keeps
      | apply lbWrite_keeps | apply setCtx_keeps | refine keeps_prep_ready (by assumption) ?_
      | refine keeps_prep_wait (by assumption) ?_ | refine keeps_prep_fail (by assumption) ?_
    | split
    | dsimp only

theorem execRmtWr_keeps (source : Nat) (job : Nat) (gen : Nat) (tag : Nat) (descriptor : Nat) (data : Nat) (s : State) : Answers s (execRmtWr source job gen tag descriptor data s) := by
  refine answers_next ?_
  have h := Keeps.refl s
  repeat' first
    | with_reducible assumption
    | intro _
    | with_reducible first
      | apply rmtWr_keeps
    | split
    | dsimp only

theorem issueRemote_keeps {s0 : State} {s : State} {id : Nat} {ctx : Nat} {job : Nat} {dest : Nat} {write : Bool}
    {addr : Nat} {length : Nat} {value : Nat} (h : Keeps s0 s) :
    Keeps s0 (issueRemote s id ctx job dest write addr length value) := by
  unfold issueRemote
  try dsimp only
  repeat' first
    | with_reducible assumption
    | intro _
    | with_reducible first
      | apply keeps_ite | apply endJob_keeps | apply updJob_keeps | apply send_keeps
    | split
    | with_reducible exact SameBytes.mk rfl rfl rfl
    | with_reducible exact SameBox.mk rfl
    | with_reducible exact KeysOk.refl _ _
    | ((with_reducible apply keeps_mk); (with_reducible
        first
        | assumption | apply keeps_ite | apply endJob_keeps | apply updJob_keeps | apply send_keeps))
    | dsimp only

theorem rmtRsp_keeps {s0 : State} {s : State} {tag : Nat} {status : Nat} {data : Nat} (h : Keeps s0 s) :
    Keeps s0 (rmtRsp s tag status data) := by
  unfold rmtRsp
  try dsimp only
  repeat' first
    | with_reducible assumption
    | intro _
    | with_reducible first
      | apply keeps_ite | apply bump_keeps | apply updJob_keeps | apply endJob_keeps
    | split
    | with_reducible exact SameBytes.mk rfl rfl rfl
    | with_reducible exact SameBox.mk rfl
    | with_reducible exact KeysOk.refl _ _
    | ((with_reducible apply keeps_mk); (with_reducible
        first
        | assumption | apply keeps_ite | apply bump_keeps | apply updJob_keeps | apply endJob_keeps))
    | dsimp only

theorem execRmtRsp_keeps (tag : Nat) (status : Nat) (data : Nat) (s : State) : Answers s (execRmtRsp tag status data s) := by
  refine answers_next ?_
  have h := Keeps.refl s
  repeat' first
    | with_reducible assumption
    | intro _
    | with_reducible first
      | apply rmtRsp_keeps
    | split
    | dsimp only

theorem execRtErr_keeps (_tag : Nat) (_dest : Nat) (_hop : Nat) (s : State) : Answers s (execRtErr _tag _dest _hop s) := by
  refine answers_next ?_
  have h := Keeps.refl s
  repeat' first
    | with_reducible assumption
    | intro _
    | split
    | dsimp only

theorem remoteTimeout_keeps {s0 : State} {s : State} {tag : Nat} (h : Keeps s0 s) :
    Keeps s0 (remoteTimeout s tag) := by
  unfold remoteTimeout
  try dsimp only
  repeat' first
    | with_reducible assumption
    | intro _
    | with_reducible first
      | apply endJob_keeps
    | split
    | with_reducible exact SameBytes.mk rfl rfl rfl
    | with_reducible exact SameBox.mk rfl
    | with_reducible exact KeysOk.refl _ _
    | ((with_reducible apply keeps_mk); (with_reducible
        first
        | assumption | apply endJob_keeps))
    | dsimp only

theorem execRemoteTimeout_keeps (tag : Nat) (s : State) : Answers s (execRemoteTimeout tag s) := by
  refine answers_next ?_
  have h := Keeps.refl s
  repeat' first
    | with_reducible assumption
    | intro _
    | with_reducible first
      | apply remoteTimeout_keeps
    | split
    | dsimp only

theorem abortFlit_keeps {s0 : State} {s : State} {port : Nat} {flit : Nat} (h : Keeps s0 s) :
    Keeps s0 (abortFlit s port flit) := by
  unfold abortFlit
  try dsimp only
  repeat' first
    | with_reducible assumption
    | intro _
    | with_reducible first
      | apply keeps_ite | apply bump_keeps | apply sendAbort_keeps | apply setReg_keeps | apply faultCtx_keeps
    | split
    | with_reducible exact SameBytes.mk rfl rfl rfl
    | with_reducible exact SameBox.mk rfl
    | with_reducible exact KeysOk.refl _ _
    | ((with_reducible apply keeps_mk); (with_reducible
        first
        | assumption | apply keeps_ite | apply bump_keeps | apply sendAbort_keeps | apply setReg_keeps
        | apply faultCtx_keeps))
    | dsimp only

theorem execAbortFlit_keeps (port : Nat) (flit : Nat) (s : State) : Answers s (execAbortFlit port flit s) := by
  refine answers_next ?_
  have h := Keeps.refl s
  repeat' first
    | with_reducible assumption
    | intro _
    | with_reducible first
      | apply abortFlit_keeps
    | split
    | dsimp only

theorem abortRepeat_keeps {s0 : State} {s : State} (h : Keeps s0 s) :
    Keeps s0 (abortRepeat s) := by
  unfold abortRepeat
  try dsimp only
  repeat' first
    | with_reducible assumption
    | intro _
    | with_reducible first
      | apply keeps_foldl | apply sendAbort_keeps
    | split
    | with_reducible exact SameBytes.mk rfl rfl rfl
    | with_reducible exact SameBox.mk rfl
    | with_reducible exact KeysOk.refl _ _
    | ((with_reducible apply keeps_mk); (with_reducible
        first
        | assumption | apply keeps_foldl | apply sendAbort_keeps))
    | dsimp only

theorem execAbortRepeat_keeps (s : State) : Answers s (execAbortRepeat s) := by
  refine answers_next ?_
  have h := Keeps.refl s
  repeat' first
    | with_reducible assumption
    | intro _
    | with_reducible first
      | apply abortRepeat_keeps
    | split
    | dsimp only

end Sys2Proof.Machine
end

