-- ==== Sys2Proof/Laws/KeepsLinks.lean ====
section
/-! SUPPORT. What every operation of Machine/Links.lean keeps. -/

namespace Sys2Proof.Machine

theorem linkDown_keeps {s0 : State} {s : State} {l : Sys2Proof.LinkId} (h : Keeps s0 s) :
    Keeps s0 (linkDown s l) := by
  unfold linkDown
  try dsimp only
  repeat' first
    | with_reducible assumption
    | intro _
    | with_reducible first
      | apply keeps_ite | apply linkFails_keeps | apply managerLosesLink_keeps
    | split
    | dsimp only

theorem linkTrainRetry_keeps {s0 : State} {s : State} {l : Sys2Proof.LinkId} (h : Keeps s0 s) :
    Keeps s0 (linkTrainRetry s l) := by
  unfold linkTrainRetry
  try dsimp only
  repeat' first
    | with_reducible assumption
    | intro _
    | with_reducible first
      | apply keeps_ite | apply setLink_keeps
    | split
    | with_reducible exact SameBytes.mk rfl rfl rfl
    | with_reducible exact SameBox.mk rfl
    | with_reducible exact KeysOk.refl _ _
    | ((with_reducible apply keeps_mk); (with_reducible
        first
        | assumption | apply keeps_ite | apply setLink_keeps))
    | dsimp only

theorem execLinkTrainRetry_keeps (link : Sys2Proof.LinkId) (s : State) : Answers s (execLinkTrainRetry link s) := by
  refine answers_next ?_
  have h := Keeps.refl s
  repeat' first
    | with_reducible assumption
    | intro _
    | with_reducible first
      | apply linkTrainRetry_keeps
    | split
    | dsimp only

theorem reportLatency_keeps {s0 : State} {s : State} {l : Sys2Proof.LinkId} {ns : Nat} (h : Keeps s0 s) :
    Keeps s0 (reportLatency s l ns) := by
  unfold reportLatency
  try dsimp only
  repeat' first
    | with_reducible assumption
    | intro _
    | with_reducible first
      | apply setReg_keeps
    | split
    | dsimp only

theorem linkTrainingStateEnd_keeps {s0 : State} {s : State} {l : Sys2Proof.LinkId} {lanesLow : Nat} {lanesHigh :
    Nat} {latency : Nat} (h : Keeps s0 s) :
    Keeps s0 (linkTrainingStateEnd s l lanesLow lanesHigh latency) := by
  unfold linkTrainingStateEnd
  try dsimp only
  repeat' first
    | with_reducible assumption
    | intro _
    | with_reducible first
      | apply keeps_ite | apply linkDown_keeps | apply setLink_keeps | apply takeChoice_keeps | apply send_keeps
      | apply reportLatency_keeps
    | split
    | with_reducible exact SameBytes.mk rfl rfl rfl
    | with_reducible exact SameBox.mk rfl
    | with_reducible exact KeysOk.refl _ _
    | ((with_reducible apply keeps_mk); (with_reducible
        first
        | assumption | apply keeps_ite | apply linkDown_keeps | apply setLink_keeps | apply takeChoice_keeps
        | apply send_keeps | apply reportLatency_keeps))
    | dsimp only

theorem execLinkTrainingStateEnd_keeps (link : Sys2Proof.LinkId) (lanesLow : Nat) (lanesHigh : Nat) (latency : Nat) (s : State) : Answers s (execLinkTrainingStateEnd link lanesLow lanesHigh latency s) := by
  refine answers_next ?_
  have h := Keeps.refl s
  repeat' first
    | with_reducible assumption
    | intro _
    | with_reducible first
      | apply linkTrainingStateEnd_keeps
    | split
    | dsimp only

theorem linkStateTimeout_keeps {s0 : State} {s : State} {l : Sys2Proof.LinkId} (h : Keeps s0 s) :
    Keeps s0 (linkStateTimeout s l) := by
  unfold linkStateTimeout
  try dsimp only
  repeat' first
    | with_reducible assumption
    | intro _
    | with_reducible first
      | apply linkDown_keeps
    | split
    | dsimp only

theorem execLinkStateTimeout_keeps (link : Sys2Proof.LinkId) (s : State) : Answers s (execLinkStateTimeout link s) := by
  refine answers_next ?_
  have h := Keeps.refl s
  repeat' first
    | with_reducible assumption
    | intro _
    | with_reducible first
      | apply linkStateTimeout_keeps
    | split
    | dsimp only

theorem capabilityResend_keeps {s0 : State} {s : State} {l : Sys2Proof.LinkId} (h : Keeps s0 s) :
    Keeps s0 (capabilityResend s l) := by
  unfold capabilityResend
  try dsimp only
  repeat' first
    | with_reducible assumption
    | intro _
    | with_reducible first
      | apply keeps_ite | apply send_keeps
    | split
    | dsimp only

theorem execCapabilityResend_keeps (link : Sys2Proof.LinkId) (s : State) : Answers s (execCapabilityResend link s) := by
  refine answers_next ?_
  have h := Keeps.refl s
  repeat' first
    | with_reducible assumption
    | intro _
    | with_reducible first
      | apply capabilityResend_keeps
    | split
    | dsimp only

theorem aedupCapabilityArrives_keeps {s0 : State} {s : State} {cap : Nat} (h : Keeps s0 s) :
    Keeps s0 (aedupCapabilityArrives s cap) := by
  unfold aedupCapabilityArrives
  try dsimp only
  repeat' first
    | with_reducible assumption
    | intro _
    | with_reducible first
      | apply keeps_ite | apply linkDown_keeps | apply bump_keeps | apply setReg_keeps | apply setLink_keeps
      | apply openSession_keeps | apply wantDict_keeps | apply sessionCheck_keeps
    | split
    | with_reducible exact SameBytes.mk rfl rfl rfl
    | with_reducible exact SameBox.mk rfl
    | with_reducible exact KeysOk.refl _ _
    | ((with_reducible apply keeps_mk); (with_reducible
        first
        | assumption | apply keeps_ite | apply linkDown_keeps | apply bump_keeps | apply setReg_keeps
        | apply setLink_keeps | apply openSession_keeps | apply wantDict_keeps | apply sessionCheck_keeps))
    | dsimp only

theorem execAedupCapability_keeps (capability : Nat) (s : State) : Answers s (execAedupCapability capability s) := by
  refine answers_next ?_
  have h := Keeps.refl s
  repeat' first
    | with_reducible assumption
    | intro _
    | with_reducible first
      | apply aedupCapabilityArrives_keeps
    | split
    | dsimp only

theorem pelganCapabilityArrives_keeps {s0 : State} {s : State} {p : Nat} {cap : Nat} (h : Keeps s0 s) :
    Keeps s0 (pelganCapabilityArrives s p cap) := by
  unfold pelganCapabilityArrives
  try dsimp only
  repeat' first
    | with_reducible assumption
    | intro _
    | with_reducible first
      | apply keeps_ite | apply linkDown_keeps | apply bump_keeps | apply setLink_keeps | apply openSession_keeps
      | apply send_keeps
    | split
    | with_reducible exact SameBytes.mk rfl rfl rfl
    | with_reducible exact SameBox.mk rfl
    | with_reducible exact KeysOk.refl _ _
    | ((with_reducible apply keeps_mk); (with_reducible
        first
        | assumption | apply keeps_ite | apply linkDown_keeps | apply bump_keeps | apply setLink_keeps
        | apply openSession_keeps | apply send_keeps))
    | dsimp only

theorem execPelganCapability_keeps (port : Nat) (capability : Nat) (s : State) : Answers s (execPelganCapability port capability s) := by
  refine answers_next ?_
  have h := Keeps.refl s
  repeat' first
    | with_reducible assumption
    | intro _
    | with_reducible first
      | apply pelganCapabilityArrives_keeps
    | split
    | dsimp only

theorem settlePosted_keeps {s0 : State} {s : State} (h : Keeps s0 s) :
    Keeps s0 (settlePosted s) := by
  unfold settlePosted
  try dsimp only
  repeat' first
    | with_reducible assumption
    | intro _
    | split
    | with_reducible exact SameBytes.mk rfl rfl rfl
    | with_reducible exact SameBox.mk rfl
    | with_reducible exact KeysOk.refl _ _
    | ((with_reducible apply keeps_mk); (with_reducible
        first
        | assumption))
    | dsimp only

theorem discardFlit_keeps {s0 : State} {s : State} {l : Sys2Proof.LinkId} (h : Keeps s0 s) :
    Keeps s0 (discardFlit s l) := by
  unfold discardFlit
  try dsimp only
  repeat' first
    | with_reducible assumption
    | intro _
    | with_reducible first
      | apply keeps_ite | apply send_keeps | apply setLink_keeps
    | split
    | with_reducible exact SameBytes.mk rfl rfl rfl
    | with_reducible exact SameBox.mk rfl
    | with_reducible exact KeysOk.refl _ _
    | ((with_reducible apply keeps_mk); (with_reducible
        first
        | assumption | apply keeps_ite | apply send_keeps | apply setLink_keeps))
    | dsimp only

theorem countCrc_keeps {s0 : State} {s : State} {l : Sys2Proof.LinkId} (h : Keeps s0 s) :
    Keeps s0 (countCrc s l) := by
  unfold countCrc
  try dsimp only
  repeat' first
    | with_reducible assumption
    | intro _
    | with_reducible first
      | apply bump_keeps | apply countChip_keeps
    | split
    | dsimp only

theorem countFec_keeps {s0 : State} {s : State} {l : Sys2Proof.LinkId} {n : Nat} (h : Keeps s0 s) :
    Keeps s0 (countFec s l n) := by
  unfold countFec
  try dsimp only
  repeat' first
    | with_reducible assumption
    | intro _
    | with_reducible first
      | apply bump_keeps | apply countChip_keeps
    | split
    | dsimp only

theorem flitReceive_keeps {s0 : State} {s0_ : State} {l : Sys2Proof.LinkId} {corrected : Nat} {crcOk : Bool} {tagOk
    : Bool} {h_ : Nat} {messages : List Nat} (h : Keeps s0 s0_) :
    Keeps s0 (flitReceive s0_ l corrected crcOk tagOk h_ messages) := by
  unfold flitReceive
  try dsimp only
  repeat' first
    | with_reducible assumption
    | intro _
    | with_reducible first
      | apply keeps_ite | apply countFec_keeps | apply discardFlit_keeps | apply countCrc_keeps | apply bump_keeps
      | apply settlePosted_keeps | apply setLink_keeps | apply countChip_keeps | apply startRetrain_keeps
    | split
    | with_reducible exact SameBytes.mk rfl rfl rfl
    | with_reducible exact SameBox.mk rfl
    | with_reducible exact KeysOk.refl _ _
    | ((with_reducible apply keeps_mk); (with_reducible
        first
        | assumption | apply keeps_ite | apply countFec_keeps | apply discardFlit_keeps | apply countCrc_keeps
        | apply bump_keeps | apply settlePosted_keeps | apply setLink_keeps | apply countChip_keeps
        | apply startRetrain_keeps))
    | dsimp only

theorem execFlitReceive_keeps (link : Sys2Proof.LinkId) (corrected : Nat) (crcOk : Bool) (tagOk : Bool) (header : Nat) (messages : List Nat) (s : State) : Answers s (execFlitReceive link corrected crcOk tagOk header messages s) := by
  refine answers_next ?_
  have h := Keeps.refl s
  repeat' first
    | with_reducible assumption
    | intro _
    | with_reducible first
      | apply flitReceive_keeps
    | split
    | dsimp only

theorem countReplay_keeps {s0 : State} {s : State} {l : Sys2Proof.LinkId} (h : Keeps s0 s) :
    Keeps s0 (countReplay s l) := by
  unfold countReplay
  try dsimp only
  repeat' first
    | with_reducible assumption
    | intro _
    | with_reducible first
      | apply countChip_keeps | apply bump_keeps
    | split
    | dsimp only

theorem nakArrives_keeps {s0 : State} {s : State} {l : Sys2Proof.LinkId} {ack : Nat} (h : Keeps s0 s) :
    Keeps s0 (nakArrives s l ack) := by
  unfold nakArrives
  try dsimp only
  repeat' first
    | with_reducible assumption
    | intro _
    | with_reducible first
      | apply keeps_ite | apply settlePosted_keeps | apply setLink_keeps | apply send_keeps
      | apply countReplay_keeps | apply startRetrain_keeps
    | split
    | with_reducible exact SameBytes.mk rfl rfl rfl
    | with_reducible exact SameBox.mk rfl
    | with_reducible exact KeysOk.refl _ _
    | ((with_reducible apply keeps_mk); (with_reducible
        first
        | assumption | apply keeps_ite | apply settlePosted_keeps | apply setLink_keeps | apply send_keeps
        | apply countReplay_keeps | apply startRetrain_keeps))
    | dsimp only

theorem execNak_keeps (link : Sys2Proof.LinkId) (ack : Nat) (s : State) : Answers s (execNak link ack s) := by
  refine answers_next ?_
  have h := Keeps.refl s
  repeat' first
    | with_reducible assumption
    | intro _
    | with_reducible first
      | apply nakArrives_keeps
    | split
    | dsimp only

theorem ackStall_keeps {s0 : State} {s : State} {l : Sys2Proof.LinkId} (h : Keeps s0 s) :
    Keeps s0 (ackStall s l) := by
  unfold ackStall
  try dsimp only
  repeat' first
    | with_reducible assumption
    | intro _
    | with_reducible first
      | apply keeps_ite | apply startRetrain_keeps
    | split
    | dsimp only

theorem execAckStall_keeps (link : Sys2Proof.LinkId) (s : State) : Answers s (execAckStall link s) := by
  refine answers_next ?_
  have h := Keeps.refl s
  repeat' first
    | with_reducible assumption
    | intro _
    | with_reducible first
      | apply ackStall_keeps
    | split
    | dsimp only

theorem linkRetrainEnd_keeps {s0 : State} {s : State} {l : Sys2Proof.LinkId} {lanesLow : Nat} {lanesHigh : Nat} (h :
    Keeps s0 s) :
    Keeps s0 (linkRetrainEnd s l lanesLow lanesHigh) := by
  unfold linkRetrainEnd
  try dsimp only
  repeat' first
    | with_reducible assumption
    | intro _
    | with_reducible first
      | apply keeps_ite | apply linkDown_keeps | apply takeChoice_keeps | apply openSession_keeps
      | apply wantDict_keeps | apply send_keeps | apply countReplay_keeps
    | split
    | with_reducible exact SameBytes.mk rfl rfl rfl
    | with_reducible exact SameBox.mk rfl
    | with_reducible exact KeysOk.refl _ _
    | ((with_reducible apply keeps_mk); (with_reducible
        first
        | assumption | apply keeps_ite | apply linkDown_keeps | apply takeChoice_keeps | apply openSession_keeps
        | apply wantDict_keeps | apply send_keeps | apply countReplay_keeps))
    | dsimp only

theorem execLinkRetrainEnd_keeps (link : Sys2Proof.LinkId) (lanesLow : Nat) (lanesHigh : Nat) (s : State) : Answers s (execLinkRetrainEnd link lanesLow lanesHigh s) := by
  refine answers_next ?_
  have h := Keeps.refl s
  repeat' first
    | with_reducible assumption
    | intro _
    | with_reducible first
      | apply linkRetrainEnd_keeps
    | split
    | dsimp only

theorem installLine_keeps {s0 : State} {s : State} {line : Nat} (h : Keeps s0 s) :
    Keeps s0 (installLine s line) := by
  unfold installLine
  try dsimp only
  repeat' first
    | with_reducible assumption
    | intro _
    | split
    | with_reducible exact SameBytes.mk rfl rfl rfl
    | with_reducible exact SameBox.mk rfl
    | with_reducible exact KeysOk.refl _ _
    | ((with_reducible apply keeps_mk); (with_reducible
        first
        | assumption))
    | dsimp only

theorem landLine_keeps {s0 : State} {s : State} {tag : Nat} {q : AedupRead} {shared : Bool} {data : Nat} (h : Keeps
    s0 s) :
    Keeps s0 (landLine s tag q shared data) := by
  unfold landLine
  try dsimp only
  repeat' first
    | with_reducible assumption
    | intro _
    | with_reducible first
      | apply keeps_ite | apply installLine_keeps | apply bump_keeps | apply updJob_keeps
    | split
    | ((with_reducible apply keeps_mk_full); (with_reducible
        first
        | assumption | apply keeps_ite | apply installLine_keeps | apply bump_keeps | apply updJob_keeps))
    | exact EepromKeeps.refl _
    | exact EepromKeeps.mk rfl rfl rfl rfl rfl rfl rfl (by first | exact Nat.le_refl _ | exact Nat.le_succ _)
    | with_reducible exact KeysOk.refl _ _
    | (refine BytesOk.of fun a b c d e => ⟨?_, ?_, ?_, ?_, ?_⟩) <;> repeat' first
        | assumption | exact memWf_nil | apply memWf_clear | apply memWf_putNat | apply memWf_write | apply memWf_copy
        | apply memWf_filter | apply memWf_put | apply memWf_foldl | intro _ | split
    | dsimp only

theorem snpInv_keeps {s0 : State} {s : State} {addr : Nat} (h : Keeps s0 s) :
    Keeps s0 (snpInv s addr) := by
  unfold snpInv
  try dsimp only
  repeat' first
    | with_reducible assumption
    | intro _
    | with_reducible first
      | apply keeps_ite | apply bump_keeps | apply send_keeps
    | split
    | with_reducible exact SameBytes.mk rfl rfl rfl
    | with_reducible exact SameBox.mk rfl
    | with_reducible exact KeysOk.refl _ _
    | ((with_reducible apply keeps_mk); (with_reducible
        first
        | assumption | apply keeps_ite | apply bump_keeps | apply send_keeps))
    | dsimp only

theorem execSnpInv_keeps (addr : Nat) (s : State) : Answers s (execSnpInv addr s) := by
  refine answers_next ?_
  have h := Keeps.refl s
  repeat' first
    | with_reducible assumption
    | intro _
    | with_reducible first
      | apply snpInv_keeps
    | split
    | dsimp only

theorem aedupReadTimeout_keeps {s0 : State} {s : State} {tag : Nat} (h : Keeps s0 s) :
    Keeps s0 (aedupReadTimeout s tag) := by
  unfold aedupReadTimeout
  try dsimp only
  repeat' first
    | with_reducible assumption
    | intro _
    | with_reducible first
      | apply keeps_ite | apply aedupReset_keeps | apply startRetrain_keeps
    | split
    | with_reducible exact SameBytes.mk rfl rfl rfl
    | with_reducible exact SameBox.mk rfl
    | with_reducible exact KeysOk.refl _ _
    | ((with_reducible apply keeps_mk); (with_reducible
        first
        | assumption | apply keeps_ite | apply aedupReset_keeps | apply startRetrain_keeps))
    | dsimp only

theorem execAedupReadTimeout_keeps (tag : Nat) (s : State) : Answers s (execAedupReadTimeout tag s) := by
  refine answers_next ?_
  have h := Keeps.refl s
  repeat' first
    | with_reducible assumption
    | intro _
    | with_reducible first
      | apply aedupReadTimeout_keeps
    | split
    | dsimp only

end Sys2Proof.Machine
end

