-- ==== Sys2Proof/Laws/KeepsArray.lean ====
section
/-! SUPPORT. What every operation of Machine/Array.lean keeps. -/

namespace Sys2Proof.Machine

theorem wardrobeRegisterBody_keeps {s0 : State} {s : State} {id : Nat} {j : Job} (h : Keeps s0 s) :
    Keeps s0 (wardrobeRegisterBody s id j) := by
  unfold wardrobeRegisterBody
  try dsimp only
  repeat' first
    | with_reducible assumption
    | intro _
    | with_reducible first
      | apply keeps_ite | apply finish_keeps | apply touchRange_keeps
    | split
    | with_reducible exact SameBytes.mk rfl rfl rfl
    | with_reducible exact SameBox.mk rfl
    | with_reducible exact KeysOk.refl _ _
    | ((with_reducible apply keeps_mk); (with_reducible
        first
        | assumption | apply keeps_ite | apply finish_keeps | apply touchRange_keeps))
    | dsimp only

theorem execWardrobeRegister_keeps (job : Nat) (s : State) : Answers s (execWardrobeRegister job s) := by
  refine answers_next ?_
  have h := Keeps.refl s
  repeat' first
    | with_reducible assumption
    | intro _
    | with_reducible first
      | apply runJob_keeps | apply wardrobeRegisterBody_keeps
    | split
    | dsimp only

theorem nextRun_keeps {s0 : State} {s : State} {c : Nat} (h : Keeps s0 s) :
    Keeps s0 (nextRun s c) := by
  unfold nextRun
  try dsimp only
  repeat' first
    | with_reducible assumption
    | intro _
    | with_reducible first
      | apply updCtx_keeps
    | split
    | with_reducible exact SameBytes.mk rfl rfl rfl
    | with_reducible exact SameBox.mk rfl
    | with_reducible exact KeysOk.refl _ _
    | ((with_reducible apply keeps_mk); (with_reducible
        first
        | assumption | apply updCtx_keeps))
    | dsimp only

theorem fallbackLayer_keeps {s0 : State} {s : State} {r : Run} {model : Nat} {l : Nat} {p : Nat × Nat} (h : Keeps s0
    s) :
    Keeps s0 (fallbackLayer s r model l p) := by
  unfold fallbackLayer
  try dsimp only
  repeat' first
    | with_reducible assumption
    | intro _
    | with_reducible first
      | apply keeps_ite | apply bump_keeps | apply setCtx_keeps
    | split
    | with_reducible exact SameBytes.mk rfl rfl rfl
    | with_reducible exact SameBox.mk rfl
    | with_reducible exact KeysOk.refl _ _
    | ((with_reducible apply keeps_mk); (with_reducible
        first
        | assumption | apply keeps_ite | apply bump_keeps | apply setCtx_keeps))
    | dsimp only

theorem fallbackUpdate_keeps {s0 : State} {s : State} {r : Run} (h : Keeps s0 s) :
    Keeps s0 (fallbackUpdate s r) := by
  unfold fallbackUpdate
  try dsimp only
  repeat' first
    | with_reducible assumption
    | intro _
    | with_reducible first
      | apply keeps_foldl | apply fallbackLayer_keeps
    | split
    | dsimp only

theorem setRun_keeps {s0 : State} {s : State} {id : Nat} {r : Run} (h : Keeps s0 s) :
    Keeps s0 (setRun s id r) := by
  unfold setRun
  try dsimp only
  repeat' first
    | with_reducible assumption
    | intro _
    | split
    | with_reducible exact SameBytes.mk rfl rfl rfl
    | with_reducible exact SameBox.mk rfl
    | with_reducible exact KeysOk.refl _ _
    | ((with_reducible apply keeps_mk); (with_reducible
        first
        | assumption))
    | dsimp only

theorem startRun_keeps {s0 : State} {s : State} {id : Nat} {c : Nat} {image : Nat} {model : Option Nat} {seq : Nat}
    (h : Keeps s0 s) :
    Keeps s0 (startRun s id c image model seq) := by
  unfold startRun
  try dsimp only
  repeat' first
    | with_reducible assumption
    | intro _
    | with_reducible first
      | apply keeps_ite | apply setRun_keeps
    | split
    | dsimp only

theorem endRun_keeps {s0 : State} {s : State} {id : Nat} {r : Run} (h : Keeps s0 s) :
    Keeps s0 (endRun s id r) := by
  unfold endRun
  try dsimp only
  repeat' first
    | with_reducible assumption
    | intro _
    | with_reducible first
      | apply keeps_ite | apply fallbackUpdate_keeps | apply finish_keeps | apply setRun_keeps
    | split
    | with_reducible exact SameBytes.mk rfl rfl rfl
    | with_reducible exact SameBox.mk rfl
    | with_reducible exact KeysOk.refl _ _
    | ((with_reducible apply keeps_mk); (with_reducible
        first
        | assumption | apply keeps_ite | apply fallbackUpdate_keeps | apply finish_keeps | apply setRun_keeps))
    | dsimp only

theorem dropRun_keeps {s0 : State} {s : State} {id : Nat} (h : Keeps s0 s) :
    Keeps s0 (dropRun s id) := by
  unfold dropRun
  try dsimp only
  repeat' first
    | with_reducible assumption
    | intro _
    | split
    | with_reducible exact SameBytes.mk rfl rfl rfl
    | with_reducible exact SameBox.mk rfl
    | with_reducible exact KeysOk.refl _ _
    | ((with_reducible apply keeps_mk); (with_reducible
        first
        | assumption))
    | dsimp only

theorem failRun_keeps {s0 : State} {s : State} {id : Nat} {v : Nat} {reason : Nat} {index : Nat} (h : Keeps s0 s) :
    Keeps s0 (failRun s id v reason index) := by
  unfold failRun
  try dsimp only
  repeat' first
    | with_reducible assumption
    | intro _
    | with_reducible first
      | apply finish_keeps | apply bump_keeps
    | split
    | dsimp only

theorem strayRanges_keeps {s0 : State} {x : Ctx} {lb : Nat} {port : Nat} {s : State} {rs : List Range} (h : Keeps s0
    s) :
    Keeps s0 (strayRanges x lb port s rs) := by
  unfold strayRanges
  try dsimp only
  repeat' first
    | with_reducible assumption
    | intro _
    | with_reducible first
      | apply keeps_foldl | apply countStrays_keeps
    | split
    | dsimp only

theorem countFormat_keeps {s0 : State} {s : State} {total : Nat → Nat} {domain : Nat} {b : Nat} {slot : Nat} {n :
    Nat} (h : Keeps s0 s) :
    Keeps s0 (countFormat s total domain b slot n) := by
  unfold countFormat
  try dsimp only
  repeat' first
    | with_reducible assumption
    | intro _
    | with_reducible first
      | apply keeps_ite | apply countBlock_keeps | apply bump_keeps | apply setReg_keeps
    | split
    | dsimp only

theorem countSats_keeps {s0 : State} {s : State} {b : Nat} {slot : Nat} {n : Nat} (h : Keeps s0 s) :
    Keeps s0 (countSats s b slot n) := by
  unfold countSats
  try dsimp only
  repeat' first
    | with_reducible assumption
    | intro _
    | with_reducible first
      | apply countFormat_keeps
    | split
    | dsimp only

theorem countUnders_keeps {s0 : State} {s : State} {b : Nat} {slot : Nat} {n : Nat} (h : Keeps s0 s) :
    Keeps s0 (countUnders s b slot n) := by
  unfold countUnders
  try dsimp only
  repeat' first
    | with_reducible assumption
    | intro _
    | with_reducible first
      | apply countFormat_keeps
    | split
    | dsimp only

theorem setStream_keeps {s0 : State} {s : State} {id : Nat} {v : Nat} {f : Stream → Stream} (h : Keeps s0 s) :
    Keeps s0 (setStream s id v f) := by
  unfold setStream
  try dsimp only
  repeat' first
    | with_reducible assumption
    | intro _
    | split
    | with_reducible exact SameBytes.mk rfl rfl rfl
    | with_reducible exact SameBox.mk rfl
    | with_reducible exact KeysOk.refl _ _
    | ((with_reducible apply keeps_mk); (with_reducible
        first
        | assumption))
    | dsimp only

theorem retire_keeps {s0 : State} {s : State} {id : Nat} {v : Nat} {f : Stream → Stream} (h : Keeps s0 s) :
    Keeps s0 (retire s id v f) := by
  unfold retire
  try dsimp only
  repeat' first
    | with_reducible assumption
    | intro _
    | with_reducible first
      | apply setStream_keeps | apply bump_keeps | apply countBlock_keeps | apply progressOf_keeps
    | split
    | with_reducible exact SameBytes.mk rfl rfl rfl
    | with_reducible exact SameBox.mk rfl
    | with_reducible exact KeysOk.refl _ _
    | ((with_reducible apply keeps_mk); (with_reducible
        first
        | assumption | apply setStream_keeps | apply bump_keeps | apply countBlock_keeps
        | apply progressOf_keeps))
    | dsimp only

theorem endStream_keeps {s0 : State} {s : State} {id : Nat} {v : Nat} {r : Run} {index : Nat} (h : Keeps s0 s) :
    Keeps s0 (endStream s id v r index) := by
  unfold endStream
  try dsimp only
  repeat' first
    | with_reducible assumption
    | intro _
    | with_reducible first
      | apply keeps_ite | apply failRun_keeps | apply setStream_keeps | apply endRun_keeps
    | split
    | with_reducible exact SameBytes.mk rfl rfl rfl
    | with_reducible exact SameBox.mk rfl
    | with_reducible exact KeysOk.refl _ _
    | ((with_reducible apply keeps_mk); (with_reducible
        first
        | assumption | apply keeps_ite | apply failRun_keeps | apply setStream_keeps | apply endRun_keeps))
    | dsimp only

theorem withInstr_keeps {s0 : State} {s : State} {id : Nat} {v : Nat} {op : Nat} {go : State → Run → Stream → Nat →
    Nat → State} (h : Keeps s0 s) (h1 : ∀ u0 u1 u2 u3 u4, Keeps s0 u0 → Keeps s0 (go u0 u1 u2 u3 u4)) :
    Keeps s0 (withInstr s id v op go) := by
  unfold withInstr
  try dsimp only
  repeat' first
    | with_reducible assumption
    | intro _
    | with_reducible first
      | apply h1 | apply keeps_ite | apply finish_keeps | apply failRun_keeps
    | split
    | dsimp only

theorem withClaims_keeps {s0 : State} {s : State} {id : Nat} {v : Nat} {r : Run} {st : Stream} {b : Nat} {i : Nat}
    {go : State → State} (h : Keeps s0 s) (h1 : ∀ u0, Keeps s0 u0 → Keeps s0 (go u0)) :
    Keeps s0 (withClaims s id v r st b i go) := by
  unfold withClaims
  try dsimp only
  repeat' first
    | with_reducible assumption
    | intro _
    | with_reducible first
      | apply h1 | apply keeps_ite | apply strayRanges_keeps | apply updCtx_keeps | apply setStream_keeps
      | apply countBlock_keeps
    | split
    | with_reducible exact SameBytes.mk rfl rfl rfl
    | with_reducible exact SameBox.mk rfl
    | with_reducible exact KeysOk.refl _ _
    | ((with_reducible apply keeps_mk); (with_reducible
        first
        | assumption | apply h1 | apply keeps_ite | apply strayRanges_keeps | apply updCtx_keeps
        | apply setStream_keeps | apply countBlock_keeps))
    | dsimp only

theorem withError_keeps {s0 : State} {s : State} {id : Nat} {r : Run} {b : Nat} {e : Sys2Proof.ArrayError} {go :
    State → State} (h : Keeps s0 s) (h1 : ∀ u0, Keeps s0 u0 → Keeps s0 (go u0)) :
    Keeps s0 (withError s id r b e go) := by
  unfold withError
  try dsimp only
  repeat' first
    | with_reducible assumption
    | intro _
    | with_reducible first
      | apply h1 | apply countBlock_keeps | apply bump_keeps | apply logError_keeps | apply faultJob_keeps
      | apply quarantine_keeps | apply faultJobAs_keeps | apply pocketUncorrectable_keeps
    | split
    | dsimp only

theorem putRow_keeps {s0 : State} {s : State} {b : Nat} {from_ : Nat} {base : Nat} {f : Nat} {n : Nat} {rows : Nat}
    {row : Nat} {c : Converted} (h : Keeps s0 s) :
    Keeps s0 (putRow s b from_ base f n rows row c) := by
  unfold putRow
  try dsimp only
  repeat' first
    | with_reducible assumption
    | intro _
    | with_reducible first
      | apply keeps_ite | apply pocketWrite_keeps | apply countUnders_keeps | apply countSats_keeps
    | split
    | dsimp only

theorem matmulRow_keeps {s0 : State} {r : Run} {v : Nat} {index : Nat} {b : Nat} {i : Nat} {c : FmtClass} {ts : List
    Tile} {ps : List Patch} {a : Acts} {s : State} {m : Nat} (h : Keeps s0 s) :
    Keeps s0 (matmulRow r v index b i c ts ps a s m) := by
  unfold matmulRow
  try dsimp only
  repeat' first
    | with_reducible assumption
    | intro _
    | with_reducible first
      | apply keeps_ite | apply keeps_foldl | apply accWrite_keeps | apply countSats_keeps | apply putRow_keeps
    | split
    | dsimp only

theorem shadowSample_keeps {s0 : State} {id : Nat} {layer : Nat} {s : State} {u : Option Nat} (h : Keeps s0 s) :
    Keeps s0 (shadowSample id layer s u) := by
  unfold shadowSample
  try dsimp only
  repeat' first
    | with_reducible assumption
    | intro _
    | with_reducible first
      | apply bump_keeps
    | split
    | with_reducible exact SameBytes.mk rfl rfl rfl
    | with_reducible exact SameBox.mk rfl
    | with_reducible exact KeysOk.refl _ _
    | ((with_reducible apply keeps_mk); (with_reducible
        first
        | assumption | apply bump_keeps))
    | dsimp only

theorem matmulEffect_keeps {s0 : State} {id : Nat} {v : Nat} {index : Nat} {r : Run} {b : Nat} {i : Nat} {c :
    FmtClass} {ts : List Tile} {s : State} (h : Keeps s0 s) :
    Keeps s0 (matmulEffect id v index r b i c ts s) := by
  unfold matmulEffect
  try dsimp only
  repeat' first
    | with_reducible assumption
    | intro _
    | with_reducible first
      | apply keeps_ite | apply keeps_foldl | apply bump_keeps | apply matmulRow_keeps | apply shadowSample_keeps
      | apply countBlock_keeps
    | split
    | dsimp only

theorem matmul_keeps {s0 : State} {e : Sys2Proof.ArrayError} {s : State} {id : Nat} {v : Nat} (h : Keeps s0 s) :
    Keeps s0 (matmul e s id v) := by
  unfold matmul
  try dsimp only
  repeat' first
    | with_reducible assumption
    | intro _
    | with_reducible first
      | apply keeps_ite | apply keeps_ite_snd | apply keeps_foldl_snd | apply withInstr_keeps | apply failRun_keeps
      | apply retire_keeps | apply needModel_keeps | apply withError_keeps | apply withClaims_keeps
      | apply matmulEffect_keeps | refine keeps_pair_snd (by assumption) ?_
    | split
    | with_reducible exact SameBytes.mk rfl rfl rfl
    | with_reducible exact SameBox.mk rfl
    | with_reducible exact KeysOk.refl _ _
    | ((with_reducible apply keeps_mk); (with_reducible
        first
        | assumption | apply keeps_ite | apply keeps_ite_snd | apply keeps_foldl_snd | apply withInstr_keeps
        | apply failRun_keeps | apply retire_keeps | apply needModel_keeps | apply withError_keeps
        | apply withClaims_keeps | apply matmulEffect_keeps | refine keeps_pair_snd (by assumption) ?_))
    | dsimp only

theorem execMatmul_keeps (job : Nat) (stream : Nat) (error : Sys2Proof.ArrayError) (s : State) : Answers s (execMatmul job stream error s) := by
  refine answers_next ?_
  have h := Keeps.refl s
  repeat' first
    | with_reducible assumption
    | intro _
    | with_reducible first
      | apply matmul_keeps
    | split
    | dsimp only

theorem drainOne_keeps {s0 : State} {r : Run} {v : Nat} {index : Nat} {b : Nat} {dest : Nat} {i : Nat} {s : State}
    {m : Nat} (h : Keeps s0 s) :
    Keeps s0 (drainOne r v index b dest i s m) := by
  unfold drainOne
  try dsimp only
  repeat' first
    | with_reducible assumption
    | intro _
    | with_reducible first
      | apply keeps_ite | apply countSats_keeps | apply pocketWrite_keeps | apply putRow_keeps
    | split
    | with_reducible exact SameBytes.mk rfl rfl rfl
    | with_reducible exact SameBox.mk rfl
    | with_reducible exact KeysOk.refl _ _
    | ((with_reducible apply keeps_mk); (with_reducible
        first
        | assumption | apply keeps_ite | apply countSats_keeps | apply pocketWrite_keeps | apply putRow_keeps))
    | dsimp only

theorem drain_keeps {s0 : State} {e : Sys2Proof.ArrayError} {s : State} {id : Nat} {v : Nat} (h : Keeps s0 s) :
    Keeps s0 (drain e s id v) := by
  unfold drain
  try dsimp only
  repeat' first
    | with_reducible assumption
    | intro _
    | with_reducible first
      | apply keeps_ite | apply keeps_foldl | apply withInstr_keeps | apply failRun_keeps | apply retire_keeps
      | apply withError_keeps | apply withClaims_keeps | apply drainOne_keeps
    | split
    | with_reducible exact SameBytes.mk rfl rfl rfl
    | with_reducible exact SameBox.mk rfl
    | with_reducible exact KeysOk.refl _ _
    | ((with_reducible apply keeps_mk); (with_reducible
        first
        | assumption | apply keeps_ite | apply keeps_foldl | apply withInstr_keeps | apply failRun_keeps
        | apply retire_keeps | apply withError_keeps | apply withClaims_keeps | apply drainOne_keeps))
    | dsimp only

theorem execDrain_keeps (job : Nat) (stream : Nat) (error : Sys2Proof.ArrayError) (s : State) : Answers s (execDrain job stream error s) := by
  refine answers_next ?_
  have h := Keeps.refl s
  repeat' first
    | with_reducible assumption
    | intro _
    | with_reducible first
      | apply drain_keeps
    | split
    | dsimp only

theorem accLoadOne_keeps {s0 : State} {b : Nat} {i : Nat} {s : State} {m : Nat} (h : Keeps s0 s) :
    Keeps s0 (accLoadOne b i s m) := by
  unfold accLoadOne
  try dsimp only
  repeat' first
    | with_reducible assumption
    | intro _
    | with_reducible first
      | apply keeps_ite | apply keeps_foldl | apply countSats_keeps | apply accWrite_keeps
    | split
    | dsimp only

theorem accLoad_keeps {s0 : State} {e : Sys2Proof.ArrayError} {s : State} {id : Nat} {v : Nat} (h : Keeps s0 s) :
    Keeps s0 (accLoad e s id v) := by
  unfold accLoad
  try dsimp only
  repeat' first
    | with_reducible assumption
    | intro _
    | with_reducible first
      | apply keeps_ite | apply keeps_foldl | apply withInstr_keeps | apply failRun_keeps | apply retire_keeps
      | apply withError_keeps | apply withClaims_keeps | apply accLoadOne_keeps
    | split
    | with_reducible exact SameBytes.mk rfl rfl rfl
    | with_reducible exact SameBox.mk rfl
    | with_reducible exact KeysOk.refl _ _
    | ((with_reducible apply keeps_mk); (with_reducible
        first
        | assumption | apply keeps_ite | apply keeps_foldl | apply withInstr_keeps | apply failRun_keeps
        | apply retire_keeps | apply withError_keeps | apply withClaims_keeps | apply accLoadOne_keeps))
    | dsimp only

theorem execAccLoad_keeps (job : Nat) (stream : Nat) (error : Sys2Proof.ArrayError) (s : State) : Answers s (execAccLoad job stream error s) := by
  refine answers_next ?_
  have h := Keeps.refl s
  repeat' first
    | with_reducible assumption
    | intro _
    | with_reducible first
      | apply accLoad_keeps
    | split
    | dsimp only

theorem sequencerNop_keeps {s0 : State} {s : State} {id : Nat} {v : Nat} (h : Keeps s0 s) :
    Keeps s0 (sequencerNop s id v) := by
  unfold sequencerNop
  try dsimp only
  repeat' first
    | with_reducible assumption
    | intro _
    | with_reducible first
      | apply withInstr_keeps | apply retire_keeps
    | split
    | dsimp only

theorem execSequencerNop_keeps (job : Nat) (stream : Nat) (s : State) : Answers s (execSequencerNop job stream s) := by
  refine answers_next ?_
  have h := Keeps.refl s
  repeat' first
    | with_reducible assumption
    | intro _
    | with_reducible first
      | apply sequencerNop_keeps
    | split
    | dsimp only

theorem releaseBarrier_keeps {s0 : State} {s : State} {id : Nat} (h : Keeps s0 s) :
    Keeps s0 (releaseBarrier s id) := by
  unfold releaseBarrier
  try dsimp only
  repeat' first
    | with_reducible assumption
    | intro _
    | with_reducible first
      | apply keeps_ite | apply keeps_foldl | apply retire_keeps
    | split
    | with_reducible exact SameBytes.mk rfl rfl rfl
    | with_reducible exact SameBox.mk rfl
    | with_reducible exact KeysOk.refl _ _
    | ((with_reducible apply keeps_mk); (with_reducible
        first
        | assumption | apply keeps_ite | apply keeps_foldl | apply retire_keeps))
    | dsimp only

theorem barrier_keeps {s0 : State} {s : State} {id : Nat} {v : Nat} (h : Keeps s0 s) :
    Keeps s0 (barrier s id v) := by
  unfold barrier
  try dsimp only
  repeat' first
    | with_reducible assumption
    | intro _
    | with_reducible first
      | apply withInstr_keeps | apply releaseBarrier_keeps | apply setStream_keeps
    | split
    | with_reducible exact SameBytes.mk rfl rfl rfl
    | with_reducible exact SameBox.mk rfl
    | with_reducible exact KeysOk.refl _ _
    | ((with_reducible apply keeps_mk); (with_reducible
        first
        | assumption | apply withInstr_keeps | apply releaseBarrier_keeps | apply setStream_keeps))
    | dsimp only

theorem execBarrier_keeps (job : Nat) (stream : Nat) (s : State) : Answers s (execBarrier job stream s) := by
  refine answers_next ?_
  have h := Keeps.refl s
  repeat' first
    | with_reducible assumption
    | intro _
    | with_reducible first
      | apply barrier_keeps
    | split
    | dsimp only

theorem endInstr_keeps {s0 : State} {s : State} {id : Nat} {v : Nat} (h : Keeps s0 s) :
    Keeps s0 (endInstr s id v) := by
  unfold endInstr
  try dsimp only
  repeat' first
    | with_reducible assumption
    | intro _
    | with_reducible first
      | apply keeps_ite | apply endStream_keeps | apply withInstr_keeps | apply failRun_keeps | apply retire_keeps
    | split
    | dsimp only

theorem execEndStream_keeps (job : Nat) (stream : Nat) (s : State) : Answers s (execEndStream job stream s) := by
  refine answers_next ?_
  have h := Keeps.refl s
  repeat' first
    | with_reducible assumption
    | intro _
    | with_reducible first
      | apply endInstr_keeps
    | split
    | dsimp only

theorem channelWindowClaim_keeps {s0 : State} {s : State} {id : Nat} {v : Nat} (h : Keeps s0 s) :
    Keeps s0 (channelWindowClaim s id v) := by
  unfold channelWindowClaim
  try dsimp only
  repeat' first
    | with_reducible assumption
    | intro _
    | with_reducible first
      | apply keeps_ite | apply setStream_keeps | apply setCtx_keeps
    | split
    | with_reducible exact SameBytes.mk rfl rfl rfl
    | with_reducible exact SameBox.mk rfl
    | with_reducible exact KeysOk.refl _ _
    | ((with_reducible apply keeps_mk); (with_reducible
        first
        | assumption | apply keeps_ite | apply setStream_keeps | apply setCtx_keeps))
    | dsimp only

theorem execChannelWindowClaim_keeps (job : Nat) (stream : Nat) (s : State) : Answers s (execChannelWindowClaim job stream s) := by
  refine answers_next ?_
  have h := Keeps.refl s
  repeat' first
    | with_reducible assumption
    | intro _
    | with_reducible first
      | apply channelWindowClaim_keeps
    | split
    | dsimp only

theorem remoteWindowClaim_keeps {s0 : State} {s : State} {id : Nat} {v : Nat} (h : Keeps s0 s) :
    Keeps s0 (remoteWindowClaim s id v) := by
  unfold remoteWindowClaim
  try dsimp only
  repeat' first
    | with_reducible assumption
    | intro _
    | with_reducible first
      | apply keeps_ite | apply setStream_keeps | apply setCtx_keeps
    | split
    | with_reducible exact SameBytes.mk rfl rfl rfl
    | with_reducible exact SameBox.mk rfl
    | with_reducible exact KeysOk.refl _ _
    | ((with_reducible apply keeps_mk); (with_reducible
        first
        | assumption | apply keeps_ite | apply setStream_keeps | apply setCtx_keeps))
    | dsimp only

theorem execRemoteWindowClaim_keeps (job : Nat) (stream : Nat) (s : State) : Answers s (execRemoteWindowClaim job stream s) := by
  refine answers_next ?_
  have h := Keeps.refl s
  repeat' first
    | with_reducible assumption
    | intro _
    | with_reducible first
      | apply remoteWindowClaim_keeps
    | split
    | dsimp only

theorem windowTimeout_keeps {s0 : State} {s : State} {id : Nat} {v : Nat} {waited : Nat} (h : Keeps s0 s) :
    Keeps s0 (windowTimeout s id v waited) := by
  unfold windowTimeout
  try dsimp only
  repeat' first
    | with_reducible assumption
    | intro _
    | with_reducible first
      | apply keeps_ite | apply setCtx_keeps | apply bump_keeps | apply faultJob_keeps | apply setReg_keeps
    | split
    | with_reducible exact SameBytes.mk rfl rfl rfl
    | with_reducible exact SameBox.mk rfl
    | with_reducible exact KeysOk.refl _ _
    | ((with_reducible apply keeps_mk); (with_reducible
        first
        | assumption | apply keeps_ite | apply setCtx_keeps | apply bump_keeps | apply faultJob_keeps
        | apply setReg_keeps))
    | dsimp only

theorem execWindowTimeout_keeps (job : Nat) (stream : Nat) (waited : Nat) (s : State) : Answers s (execWindowTimeout job stream waited s) := by
  refine answers_next ?_
  have h := Keeps.refl s
  repeat' first
    | with_reducible assumption
    | intro _
    | with_reducible first
      | apply windowTimeout_keeps
    | split
    | dsimp only

theorem arrayRunAdmit_keeps {s0 : State} {s : State} {id : Nat} (h : Keeps s0 s) :
    Keeps s0 (arrayRunAdmit s id) := by
  unfold arrayRunAdmit
  try dsimp only
  repeat' first
    | with_reducible assumption
    | intro _
    | with_reducible first
      | apply nextRun_keeps | apply updJob_keeps
    | split
    | with_reducible exact SameBytes.mk rfl rfl rfl
    | with_reducible exact SameBox.mk rfl
    | with_reducible exact KeysOk.refl _ _
    | ((with_reducible apply keeps_mk); (with_reducible
        first
        | assumption | apply nextRun_keeps | apply updJob_keeps))
    | dsimp only

theorem arrayRunBody_keeps {s0 : State} {s : State} {id : Nat} {j : Job} (h : Keeps s0 s) :
    Keeps s0 (arrayRunBody s id j) := by
  unfold arrayRunBody
  try dsimp only
  repeat' first
    | with_reducible assumption
    | intro _
    | with_reducible first
      | apply keeps_ite | apply finish_keeps | apply startRun_keeps | apply updJob_keeps | apply touchRange_keeps
    | split
    | with_reducible exact SameBytes.mk rfl rfl rfl
    | with_reducible exact SameBox.mk rfl
    | with_reducible exact KeysOk.refl _ _
    | ((with_reducible apply keeps_mk); (with_reducible
        first
        | assumption | apply keeps_ite | apply finish_keeps | apply startRun_keeps | apply updJob_keeps
        | apply touchRange_keeps))
    | dsimp only

theorem execArrayRun_keeps (job : Nat) (s : State) : Answers s (execArrayRun job s) := by
  refine answers_next ?_
  have h := Keeps.refl s
  repeat' first
    | with_reducible assumption
    | intro _
    | with_reducible first
      | apply runJob_keeps | apply arrayRunBody_keeps
    | split
    | dsimp only

end Sys2Proof.Machine
end

