-- ==== Sys2Proof/Laws/KeepsLace.lean ====
section
/-! SUPPORT. What every operation of Machine/Lace.lean keeps. -/

namespace Sys2Proof.Machine

theorem pinVocab_keeps {s0 : State} {s : State} {v : Nat} {id : Nat} (h : Keeps s0 s) :
    Keeps s0 (pinVocab s v id) := by
  unfold pinVocab
  try dsimp only
  repeat' first
    | with_reducible assumption
    | intro _
    | split
    | with_reducible exact SameBytes.mk rfl rfl rfl
    | with_reducible exact SameBox.mk rfl
    | with_reducible exact KeysOk.refl _ _
    | ((with_reducible apply keeps_mk); (with_reducible
        first
        | assumption))
    | dsimp only

theorem reportVocabs_keeps {s0 : State} {s : State} (h : Keeps s0 s) :
    Keeps s0 (reportVocabs s) := by
  unfold reportVocabs
  try dsimp only
  repeat' first
    | with_reducible assumption
    | intro _
    | with_reducible first
      | apply keeps_foldl | apply setReg_keeps
    | split
    | dsimp only

theorem laceVocabLoadBody_keeps {s0 : State} {s : State} {id : Nat} {j : Job} (h : Keeps s0 s) :
    Keeps s0 (laceVocabLoadBody s id j) := by
  unfold laceVocabLoadBody
  try dsimp only
  repeat' first
    | with_reducible assumption
    | intro _
    | with_reducible first
      | apply keeps_ite | apply finish_keeps | apply reportVocabs_keeps | apply touchRange_keeps
    | split
    | with_reducible exact SameBytes.mk rfl rfl rfl
    | with_reducible exact SameBox.mk rfl
    | with_reducible exact KeysOk.refl _ _
    | ((with_reducible apply keeps_mk); (with_reducible
        first
        | assumption | apply keeps_ite | apply finish_keeps | apply reportVocabs_keeps | apply touchRange_keeps))
    | dsimp only

theorem execLaceVocabLoad_keeps (job : Nat) (s : State) : Answers s (execLaceVocabLoad job s) := by
  refine answers_next ?_
  have h := Keeps.refl s
  repeat' first
    | with_reducible assumption
    | intro _
    | with_reducible first
      | apply runJob_keeps | apply laceVocabLoadBody_keeps
    | split
    | dsimp only

theorem laceVocabUnloadAdmit_keeps {s0 : State} {s : State} {id : Nat} (h : Keeps s0 s) :
    Keeps s0 (laceVocabUnloadAdmit s id) := by
  unfold laceVocabUnloadAdmit
  try dsimp only
  repeat' first
    | with_reducible assumption
    | intro _
    | split
    | with_reducible exact SameBytes.mk rfl rfl rfl
    | with_reducible exact SameBox.mk rfl
    | with_reducible exact KeysOk.refl _ _
    | ((with_reducible apply keeps_mk); (with_reducible
        first
        | assumption))
    | dsimp only

theorem laceVocabUnloadBody_keeps {s0 : State} {s : State} {id : Nat} {j : Job} (h : Keeps s0 s) :
    Keeps s0 (laceVocabUnloadBody s id j) := by
  unfold laceVocabUnloadBody
  try dsimp only
  repeat' first
    | with_reducible assumption
    | intro _
    | with_reducible first
      | apply keeps_ite | apply finish_keeps | apply reportVocabs_keeps
    | split
    | with_reducible exact SameBytes.mk rfl rfl rfl
    | with_reducible exact SameBox.mk rfl
    | with_reducible exact KeysOk.refl _ _
    | ((with_reducible apply keeps_mk); (with_reducible
        first
        | assumption | apply keeps_ite | apply finish_keeps | apply reportVocabs_keeps))
    | dsimp only

theorem execLaceVocabUnload_keeps (job : Nat) (s : State) : Answers s (execLaceVocabUnload job s) := by
  refine answers_next ?_
  have h := Keeps.refl s
  repeat' first
    | with_reducible assumption
    | intro _
    | with_reducible first
      | apply runJob_keeps | apply laceVocabUnloadBody_keeps
    | split
    | dsimp only

theorem laceAdmit_keeps {s0 : State} {s : State} {id : Nat} (h : Keeps s0 s) :
    Keeps s0 (laceAdmit s id) := by
  unfold laceAdmit
  try dsimp only
  repeat' first
    | with_reducible assumption
    | intro _
    | with_reducible first
      | apply pinVocab_keeps
    | split
    | dsimp only

theorem deliverRows_keeps {s0 : State} {s : State} {id : Nat} {c : Nat} {lb : Nat} {row : Nat} {byte : Nat} {bs :
    List Nat} {go : State → State} (h : Keeps s0 s) (h1 : ∀ u0, Keeps s0 u0 → Keeps s0 (go u0)) :
    Keeps s0 (deliverRows s id c lb row byte bs go) := by
  unfold deliverRows
  try dsimp only
  repeat' first
    | with_reducible assumption
    | intro _
    | with_reducible first
      | apply h1 | apply keeps_ite | apply countStrays_keeps | apply lbWrite_keeps | apply updCtx_keeps
      | apply updJob_keeps
    | split
    | with_reducible exact SameBytes.mk rfl rfl rfl
    | with_reducible exact SameBox.mk rfl
    | with_reducible exact KeysOk.refl _ _
    | ((with_reducible apply keeps_mk); (with_reducible
        first
        | assumption | apply h1 | apply keeps_ite | apply countStrays_keeps | apply lbWrite_keeps
        | apply updCtx_keeps | apply updJob_keeps))
    | dsimp only

theorem encodeDone_keeps {s0 : State} {s : State} {id : Nat} {total : Nat} {n : Nat} {fallbacks : Nat} {truncated :
    Bool} (h : Keeps s0 s) :
    Keeps s0 (encodeDone s id total n fallbacks truncated) := by
  unfold encodeDone
  try dsimp only
  repeat' first
    | with_reducible assumption
    | intro _
    | with_reducible first
      | apply keeps_ite | apply bump_keeps | apply tallyJob_keeps | apply finish_keeps
    | split
    | dsimp only

theorem laceEncodeBody_keeps {s0 : State} {s : State} {id : Nat} {j : Job} (h : Keeps s0 s) :
    Keeps s0 (laceEncodeBody s id j) := by
  unfold laceEncodeBody
  try dsimp only
  repeat' first
    | with_reducible assumption
    | intro _
    | with_reducible first
      | apply keeps_ite | apply deliverRows_keeps | apply encodeDone_keeps | apply withWrite_keeps
      | apply writeBytes_keeps | apply withRead_keeps | apply updJob_keeps
    | split
    | with_reducible exact SameBytes.mk rfl rfl rfl
    | with_reducible exact SameBox.mk rfl
    | with_reducible exact KeysOk.refl _ _
    | ((with_reducible apply keeps_mk); (with_reducible
        first
        | assumption | apply keeps_ite | apply deliverRows_keeps | apply encodeDone_keeps
        | apply withWrite_keeps | apply writeBytes_keeps | apply withRead_keeps | apply updJob_keeps))
    | dsimp only

theorem noteHold_keeps {s0 : State} {s : State} {id : Nat} (h : Keeps s0 s) :
    Keeps s0 (noteHold s id) := by
  unfold noteHold
  try dsimp only
  repeat' first
    | with_reducible assumption
    | intro _
    | with_reducible first
      | apply keeps_ite | apply bump_keeps | apply updJob_keeps
    | split
    | with_reducible exact SameBytes.mk rfl rfl rfl
    | with_reducible exact SameBox.mk rfl
    | with_reducible exact KeysOk.refl _ _
    | ((with_reducible apply keeps_mk); (with_reducible
        first
        | assumption | apply keeps_ite | apply bump_keeps | apply updJob_keeps))
    | dsimp only

theorem execLaceEncode_keeps (job : Nat) (s : State) : Answers s (execLaceEncode job s) := by
  refine answers_next ?_
  have h := Keeps.refl s
  repeat' first
    | with_reducible assumption
    | intro _
    | with_reducible first
      | apply runJob_keeps | apply noteHold_keeps | apply laceEncodeBody_keeps
    | split
    | dsimp only

theorem countDecode_keeps {s0 : State} {s : State} {n : Nat} (h : Keeps s0 s) :
    Keeps s0 (countDecode s n) := by
  unfold countDecode
  try dsimp only
  repeat' first
    | with_reducible assumption
    | intro _
    | with_reducible first
      | apply keeps_ite_snd | apply keeps_foldl_snd | apply takeFree_keeps | apply bump_keeps
      | refine keeps_pair_snd (by assumption) ?_
    | split
    | dsimp only

theorem laceDecodeBody_keeps {s0 : State} {s : State} {id : Nat} {j : Job} (h : Keeps s0 s) :
    Keeps s0 (laceDecodeBody s id j) := by
  unfold laceDecodeBody
  try dsimp only
  repeat' first
    | with_reducible assumption
    | intro _
    | with_reducible first
      | apply keeps_ite | apply withRead_keeps | apply finish_keeps | apply withWrite_keeps | apply bump_keeps
      | apply countDecode_keeps | apply writeBytes_keeps
    | split
    | dsimp only

theorem execLaceDecode_keeps (job : Nat) (s : State) : Answers s (execLaceDecode job s) := by
  refine answers_next ?_
  have h := Keeps.refl s
  repeat' first
    | with_reducible assumption
    | intro _
    | with_reducible first
      | apply runJob_keeps | apply laceDecodeBody_keeps
    | split
    | dsimp only

end Sys2Proof.Machine
end

