-- ==== Sys2Proof/Laws/KeepsIndex.lean ====
section
/-! SUPPORT. What every operation of Machine/Index.lean keeps. -/

namespace Sys2Proof.Machine

theorem updIndex_keeps {s0 : State} {s : State} {i : Nat} {f : Index → Index} (h : Keeps s0 s) :
    Keeps s0 (updIndex s i f) := by
  unfold updIndex
  try dsimp only
  repeat' first
    | with_reducible assumption
    | intro _
    | split
    | with_reducible exact SameBytes.mk rfl rfl rfl
    | with_reducible exact SameBox.mk rfl
    | with_reducible exact KeysOk.refl _ _
    | ((with_reducible apply keeps_mk); (with_reducible
        first
        | assumption))
    | dsimp only

theorem pinEpoch_keeps {s0 : State} {s : State} {i : Nat} {id : Nat} {e : Nat} (h : Keeps s0 s) :
    Keeps s0 (pinEpoch s i id e) := by
  unfold pinEpoch
  try dsimp only
  repeat' first
    | with_reducible assumption
    | intro _
    | with_reducible first
      | apply updIndex_keeps
    | split
    | with_reducible exact SameBytes.mk rfl rfl rfl
    | with_reducible exact SameBox.mk rfl
    | with_reducible exact KeysOk.refl _ _
    | ((with_reducible apply keeps_mk); (with_reducible
        first
        | assumption | apply updIndex_keeps))
    | dsimp only

theorem prepareWrites_keeps {s0 : State} {s : State} {ws : List (Nat × List Nat)} (h : Keeps s0 s) :
    (prepareWrites s ws).Keeps s0 := by
  unfold prepareWrites
  try dsimp only
  repeat' first
    | with_reducible assumption
    | intro _
    | with_reducible first
      | apply keeps_ite | apply prep_ready | apply prep_wait | apply prep_fail | apply prep_ite
      | apply prepareUnits_keeps | refine keeps_prep_ready (by assumption) ?_
      | refine keeps_prep_wait (by assumption) ?_ | refine keeps_prep_fail (by assumption) ?_
    | split
    | dsimp only

theorem writeAll_keeps {s0 : State} {s : State} {ws : List (Nat × List Nat)} (h : Keeps s0 s) :
    Keeps s0 (writeAll s ws) := by
  unfold writeAll
  try dsimp only
  repeat' first
    | with_reducible assumption
    | intro _
    | with_reducible first
      | apply keeps_foldl | apply writeBytes_keeps
    | split
    | dsimp only

theorem writeRecords_keeps {s0 : State} {s : State} {ws : List (Nat × List Nat)} (h : Keeps s0 s) :
    Keeps s0 (writeRecords s ws) := by
  unfold writeRecords
  try dsimp only
  repeat' first
    | with_reducible assumption
    | intro _
    | with_reducible first
      | apply keeps_foldl | apply writeAll_keeps
    | split
    | ((with_reducible apply keeps_mk_full); (with_reducible
        first
        | assumption | apply keeps_foldl | apply writeAll_keeps))
    | exact EepromKeeps.refl _
    | exact EepromKeeps.mk rfl rfl rfl rfl rfl rfl rfl (by first | exact Nat.le_refl _ | exact Nat.le_succ _)
    | with_reducible exact KeysOk.refl _ _
    | (refine BytesOk.of fun a b c d e => ⟨?_, ?_, ?_, ?_, ?_⟩) <;> repeat' first
        | assumption | exact memWf_nil | apply memWf_clear | apply memWf_putNat | apply memWf_write | apply memWf_copy
        | apply memWf_filter | apply memWf_put | apply memWf_foldl | intro _ | split
    | dsimp only

theorem withWrites_keeps {s0 : State} {s : State} {id : Nat} {ws : List (Nat × List Nat)} {go : State → State} (h :
    Keeps s0 s) (h1 : ∀ u0, Keeps s0 u0 → Keeps s0 (go u0)) :
    Keeps s0 (withWrites s id ws go) := by
  unfold withWrites
  try dsimp only
  repeat' first
    | with_reducible assumption
    | intro _
    | with_reducible first
      | apply h1 | apply prep_ready | apply prep_wait | apply prep_fail | apply prep_ite | apply prepareWrites_keeps
      | apply finish_keeps | refine keeps_prep_ready (by assumption) ?_ | refine keeps_prep_wait (by assumption) ?_
      | refine keeps_prep_fail (by assumption) ?_
    | split
    | dsimp only

theorem onIndex_keeps {s0 : State} {s : State} {id : Nat} {j : Job} {go : Nat → Index → State} (h : Keeps s0 s) (h1
    : ∀ u0 u1, Keeps s0 (go u0 u1)) :
    Keeps s0 (onIndex s id j go) := by
  unfold onIndex
  try dsimp only
  repeat' first
    | with_reducible assumption
    | intro _
    | with_reducible first
      | apply h1 | apply keeps_ite | apply finish_keeps
    | split
    | dsimp only

theorem writePassagesBody_keeps {s0 : State} {s : State} {id : Nat} {j : Job} (h : Keeps s0 s) :
    Keeps s0 (writePassagesBody s id j) := by
  unfold writePassagesBody
  try dsimp only
  repeat' first
    | with_reducible assumption
    | intro _
    | with_reducible first
      | apply keeps_ite | apply onIndex_keeps | apply finish_keeps | apply withRead_keeps | apply withWrites_keeps
      | apply updIndex_keeps | apply writeAll_keeps
    | split
    | dsimp only

theorem execWritePassages_keeps (job : Nat) (s : State) : Answers s (execWritePassages job s) := by
  refine answers_next ?_
  have h := Keeps.refl s
  repeat' first
    | with_reducible assumption
    | intro _
    | with_reducible first
      | apply runJob_keeps | apply writePassagesBody_keeps
    | split
    | dsimp only

theorem writeVectorsBody_keeps {s0 : State} {s : State} {id : Nat} {j : Job} (h : Keeps s0 s) :
    Keeps s0 (writeVectorsBody s id j) := by
  unfold writeVectorsBody
  try dsimp only
  repeat' first
    | with_reducible assumption
    | intro _
    | with_reducible first
      | apply keeps_ite | apply keeps_foldl | apply onIndex_keeps | apply finish_keeps | apply withRead_keeps
      | apply withWrites_keeps | apply updIndex_keeps | apply writeAll_keeps
    | split
    | with_reducible exact SameBytes.mk rfl rfl rfl
    | with_reducible exact SameBox.mk rfl
    | with_reducible exact KeysOk.refl _ _
    | ((with_reducible apply keeps_mk); (with_reducible
        first
        | assumption | apply keeps_ite | apply keeps_foldl | apply onIndex_keeps | apply finish_keeps
        | apply withRead_keeps | apply withWrites_keeps | apply updIndex_keeps | apply writeAll_keeps))
    | dsimp only

theorem execWriteVectors_keeps (job : Nat) (s : State) : Answers s (execWriteVectors job s) := by
  refine answers_next ?_
  have h := Keeps.refl s
  repeat' first
    | with_reducible assumption
    | intro _
    | with_reducible first
      | apply runJob_keeps | apply writeVectorsBody_keeps
    | split
    | dsimp only

theorem writeSketchesBody_keeps {s0 : State} {s : State} {id : Nat} {j : Job} (h : Keeps s0 s) :
    Keeps s0 (writeSketchesBody s id j) := by
  unfold writeSketchesBody
  try dsimp only
  repeat' first
    | with_reducible assumption
    | intro _
    | with_reducible first
      | apply keeps_ite | apply onIndex_keeps | apply withRead_keeps | apply finish_keeps | apply withWrites_keeps
      | apply updIndex_keeps | apply writeRecords_keeps
    | split
    | dsimp only

theorem execWriteSketches_keeps (job : Nat) (s : State) : Answers s (execWriteSketches job s) := by
  refine answers_next ?_
  have h := Keeps.refl s
  repeat' first
    | with_reducible assumption
    | intro _
    | with_reducible first
      | apply runJob_keeps | apply writeSketchesBody_keeps
    | split
    | dsimp only

theorem deleteBody_keeps {s0 : State} {s : State} {id : Nat} {j : Job} (h : Keeps s0 s) :
    Keeps s0 (deleteBody s id j) := by
  unfold deleteBody
  try dsimp only
  repeat' first
    | with_reducible assumption
    | intro _
    | with_reducible first
      | apply keeps_ite | apply keeps_foldl | apply onIndex_keeps | apply finish_keeps | apply updIndex_keeps
    | split
    | with_reducible exact SameBytes.mk rfl rfl rfl
    | with_reducible exact SameBox.mk rfl
    | with_reducible exact KeysOk.refl _ _
    | ((with_reducible apply keeps_mk); (with_reducible
        first
        | assumption | apply keeps_ite | apply keeps_foldl | apply onIndex_keeps | apply finish_keeps
        | apply updIndex_keeps))
    | dsimp only

theorem execDelete_keeps (job : Nat) (s : State) : Answers s (execDelete job s) := by
  refine answers_next ?_
  have h := Keeps.refl s
  repeat' first
    | with_reducible assumption
    | intro _
    | with_reducible first
      | apply runJob_keeps | apply deleteBody_keeps
    | split
    | dsimp only

theorem publishBody_keeps {s0 : State} {copyGood : Bool} {s : State} {id : Nat} {j : Job} (h : Keeps s0 s) :
    Keeps s0 (publishBody copyGood s id j) := by
  unfold publishBody
  try dsimp only
  repeat' first
    | with_reducible assumption
    | intro _
    | with_reducible first
      | apply keeps_ite | apply keeps_ite_fst | apply keeps_foldl_fst | apply finish_keeps | apply flushStep_keeps
      | apply bump_keeps | apply copyIndexes_keeps | apply updIndex_keeps | apply updJob_keeps
      | refine keeps_pair_fst (by assumption) ?_
    | split
    | with_reducible exact SameBytes.mk rfl rfl rfl
    | with_reducible exact SameBox.mk rfl
    | with_reducible exact KeysOk.refl _ _
    | ((with_reducible apply keeps_mk); (with_reducible
        first
        | assumption | apply keeps_ite | apply keeps_ite_fst | apply keeps_foldl_fst | apply finish_keeps
        | apply flushStep_keeps | apply bump_keeps | apply copyIndexes_keeps | apply updIndex_keeps
        | apply updJob_keeps | refine keeps_pair_fst (by assumption) ?_))
    | dsimp only

theorem execPublish_keeps (job : Nat) (copyGood : Bool) (s : State) : Answers s (execPublish job copyGood s) := by
  refine answers_next ?_
  have h := Keeps.refl s
  repeat' first
    | with_reducible assumption
    | intro _
    | with_reducible first
      | apply runJob_keeps | apply publishBody_keeps
    | split
    | dsimp only

theorem indexCreateBody_keeps {s0 : State} {s : State} {id : Nat} {j : Job} (h : Keeps s0 s) :
    Keeps s0 (indexCreateBody s id j) := by
  unfold indexCreateBody
  try dsimp only
  repeat' first
    | with_reducible assumption
    | intro _
    | with_reducible first
      | apply touchRange_keeps
      | apply keeps_ite | apply withRead_keeps | apply finish_keeps | apply bump_keeps
    | split
    | ((with_reducible apply keeps_mk_full); (with_reducible
        first
        | apply touchRange_keeps
        | assumption | apply keeps_ite | apply withRead_keeps | apply finish_keeps | apply bump_keeps))
    | exact EepromKeeps.refl _
    | exact EepromKeeps.mk rfl rfl rfl rfl rfl rfl rfl (by first | exact Nat.le_refl _ | exact Nat.le_succ _)
    | with_reducible exact KeysOk.refl _ _
    | (refine BytesOk.of fun a b c d e => ⟨?_, ?_, ?_, ?_, ?_⟩) <;> repeat' first
        | assumption | exact memWf_nil | apply memWf_clear | apply memWf_putNat | apply memWf_write | apply memWf_copy
        | apply memWf_filter | apply memWf_put | apply memWf_foldl | intro _ | split
    | dsimp only

theorem execIndexCreate_keeps (job : Nat) (s : State) : Answers s (execIndexCreate job s) := by
  refine answers_next ?_
  have h := Keeps.refl s
  repeat' first
    | with_reducible assumption
    | intro _
    | with_reducible first
      | apply runJob_keeps | apply indexCreateBody_keeps
    | split
    | dsimp only

theorem indexDropAdmit_keeps {s0 : State} {s : State} {id : Nat} (h : Keeps s0 s) :
    Keeps s0 (indexDropAdmit s id) := by
  unfold indexDropAdmit
  try dsimp only
  repeat' first
    | with_reducible assumption
    | intro _
    | with_reducible first
      | apply updIndex_keeps
    | split
    | with_reducible exact SameBytes.mk rfl rfl rfl
    | with_reducible exact SameBox.mk rfl
    | with_reducible exact KeysOk.refl _ _
    | ((with_reducible apply keeps_mk); (with_reducible
        first
        | assumption | apply updIndex_keeps))
    | dsimp only

theorem discardStaged_keeps {s0 : State} {s : State} {a : Nat} (h : Keeps s0 s) :
    Keeps s0 (discardStaged s a) := by
  unfold discardStaged
  try dsimp only
  repeat' first
    | with_reducible assumption
    | intro _
    | with_reducible first
      | apply keeps_foldl
    | split
    | ((with_reducible apply keeps_mk_full); (with_reducible
        first
        | assumption | apply keeps_foldl))
    | exact EepromKeeps.refl _
    | exact EepromKeeps.mk rfl rfl rfl rfl rfl rfl rfl (by first | exact Nat.le_refl _ | exact Nat.le_succ _)
    | with_reducible exact KeysOk.refl _ _
    | (refine BytesOk.of fun a b c d e => ⟨?_, ?_, ?_, ?_, ?_⟩) <;> repeat' first
        | assumption | exact memWf_nil | apply memWf_clear | apply memWf_putNat | apply memWf_write | apply memWf_copy
        | apply memWf_filter | apply memWf_put | apply memWf_foldl | intro _ | split
    | dsimp only

theorem indexDropBody_keeps {s0 : State} {s : State} {id : Nat} {j : Job} (h : Keeps s0 s) :
    Keeps s0 (indexDropBody s id j) := by
  unfold indexDropBody
  try dsimp only
  repeat' first
    | with_reducible assumption
    | intro _
    | with_reducible first
      | apply keeps_ite | apply keeps_foldl | apply finish_keeps | apply discardStaged_keeps
    | split
    | with_reducible exact SameBytes.mk rfl rfl rfl
    | with_reducible exact SameBox.mk rfl
    | with_reducible exact KeysOk.refl _ _
    | ((with_reducible apply keeps_mk); (with_reducible
        first
        | assumption | apply keeps_ite | apply keeps_foldl | apply finish_keeps | apply discardStaged_keeps))
    | dsimp only

theorem execIndexDrop_keeps (job : Nat) (s : State) : Answers s (execIndexDrop job s) := by
  refine answers_next ?_
  have h := Keeps.refl s
  repeat' first
    | with_reducible assumption
    | intro _
    | with_reducible first
      | apply runJob_keeps | apply indexDropBody_keeps
    | split
    | dsimp only

theorem compaction_keeps {s0 : State} {s : State} {i : Nat} {l : Nat} (h : Keeps s0 s) :
    Keeps s0 (compaction s i l) := by
  unfold compaction
  try dsimp only
  repeat' first
    | with_reducible assumption
    | intro _
    | with_reducible first
      | apply keeps_ite | apply prep_ready | apply prep_wait | apply prep_fail | apply prep_ite
      | apply updIndex_keeps | apply prepareWrites_keeps | apply bump_keeps | apply writeRecords_keeps
      | refine keeps_prep_ready (by assumption) ?_ | refine keeps_prep_wait (by assumption) ?_
      | refine keeps_prep_fail (by assumption) ?_
    | split
    | with_reducible exact SameBytes.mk rfl rfl rfl
    | with_reducible exact SameBox.mk rfl
    | with_reducible exact KeysOk.refl _ _
    | ((with_reducible apply keeps_mk); (with_reducible
        first
        | assumption | apply keeps_ite | apply prep_ready | apply prep_wait | apply prep_fail | apply prep_ite
        | apply updIndex_keeps | apply prepareWrites_keeps | apply bump_keeps | apply writeRecords_keeps
        | refine keeps_prep_ready (by assumption) ?_ | refine keeps_prep_wait (by assumption) ?_
        | refine keeps_prep_fail (by assumption) ?_))
    | dsimp only

theorem execCompaction_keeps (index : Nat) (list : Nat) (s : State) : Answers s (execCompaction index list s) := by
  refine answers_next ?_
  have h := Keeps.refl s
  repeat' first
    | with_reducible assumption
    | intro _
    | with_reducible first
      | apply compaction_keeps
    | split
    | dsimp only

theorem indexStatusBody_keeps {s0 : State} {s : State} {id : Nat} {j : Job} (h : Keeps s0 s) :
    Keeps s0 (indexStatusBody s id j) := by
  unfold indexStatusBody
  try dsimp only
  repeat' first
    | with_reducible assumption
    | intro _
    | with_reducible first
      | apply keeps_ite_snd | apply keeps_foldl_snd | apply withWrite_keeps | apply takeFree_keeps
      | apply writeBytes_keeps | apply finish_keeps | refine keeps_pair_snd (by assumption) ?_
    | split
    | dsimp only

theorem execIndexStatus_keeps (job : Nat) (s : State) : Answers s (execIndexStatus job s) := by
  refine answers_next ?_
  have h := Keeps.refl s
  repeat' first
    | with_reducible assumption
    | intro _
    | with_reducible first
      | apply runJob_keeps | apply indexStatusBody_keeps
    | split
    | dsimp only

end Sys2Proof.Machine
end

