-- ==== Sys2Proof/Laws/KeepsSearch.lean ====
section
/-! SUPPORT. What every operation of Machine/Search.lean keeps. -/

namespace Sys2Proof.Machine

theorem cuffPass_keeps {s0 : State} {s : State} {c : Nat} (h : Keeps s0 s) :
    Keeps s0 (cuffPass s c) := by
  unfold cuffPass
  try dsimp only
  repeat' first
    | with_reducible assumption
    | intro _
    | with_reducible first
      | apply touchRange_keeps | apply touchRanges_keeps
      | apply keeps_ite | apply keeps_foldl | apply progressOf_keeps | apply countRegion_keeps | apply bump_keeps
      | apply closeUnit_keeps
    | split
    | with_reducible exact SameBytes.mk rfl rfl rfl
    | with_reducible exact SameBox.mk rfl
    | with_reducible exact KeysOk.refl _ _
    | ((with_reducible apply keeps_mk); (with_reducible
        first
        | apply touchRange_keeps | apply touchRanges_keeps
        | assumption | apply keeps_ite | apply keeps_foldl | apply progressOf_keeps | apply countRegion_keeps
        | apply bump_keeps | apply closeUnit_keeps))
    | dsimp only

theorem execCuffPass_keeps (cuff : Nat) (s : State) : Answers s (execCuffPass cuff s) := by
  refine answers_next ?_
  have h := Keeps.refl s
  repeat' first
    | with_reducible assumption
    | intro _
    | with_reducible first
      | apply cuffPass_keeps
    | split
    | dsimp only

theorem readRows_keeps {s0 : State} {s : State} {id : Nat} {c : Nat} {lb : Nat} {row : Nat} {n : Nat} {go : State →
    List Nat → State} (h : Keeps s0 s) (h1 : ∀ u0 u1, Keeps s0 u0 → Keeps s0 (go u0 u1)) :
    Keeps s0 (readRows s id c lb row n go) := by
  unfold readRows
  try dsimp only
  repeat' first
    | with_reducible assumption
    | intro _
    | with_reducible first
      | apply h1 | apply keeps_ite | apply countStrays_keeps | apply updCtx_keeps | apply updJob_keeps
    | split
    | with_reducible exact SameBytes.mk rfl rfl rfl
    | with_reducible exact SameBox.mk rfl
    | with_reducible exact KeysOk.refl _ _
    | ((with_reducible apply keeps_mk); (with_reducible
        first
        | assumption | apply h1 | apply keeps_ite | apply countStrays_keeps | apply updCtx_keeps
        | apply updJob_keeps))
    | dsimp only

theorem readQuery_keeps {s0 : State} {s : State} {id : Nat} {j : Job} {d : Nat} {go : State → List Nat → State} (h :
    Keeps s0 s) (h1 : ∀ u0 u1, Keeps s0 u0 → Keeps s0 (go u0 u1)) :
    Keeps s0 (readQuery s id j d go) := by
  unfold readQuery
  try dsimp only
  repeat' first
    | with_reducible assumption
    | intro _
    | with_reducible first
      | apply h1 | apply keeps_ite | apply readRows_keeps | apply withRead_keeps
    | split
    | dsimp only

theorem searchAdmit_keeps {s0 : State} {s : State} {id : Nat} (h : Keeps s0 s) :
    Keeps s0 (searchAdmit s id) := by
  unfold searchAdmit
  try dsimp only
  repeat' first
    | with_reducible assumption
    | intro _
    | with_reducible first
      | apply keeps_ite | apply pinEpoch_keeps | apply updJob_keeps
    | split
    | with_reducible exact SameBytes.mk rfl rfl rfl
    | with_reducible exact SameBox.mk rfl
    | with_reducible exact KeysOk.refl _ _
    | ((with_reducible apply keeps_mk); (with_reducible
        first
        | assumption | apply keeps_ite | apply pinEpoch_keeps | apply updJob_keeps))
    | dsimp only

theorem failSearch_keeps {s0 : State} {s : State} {id : Nat} {j : Job} {q : Query} {list : Nat} {status : Nat} (h :
    Keeps s0 s) :
    Keeps s0 (failSearch s id j q list status) := by
  unfold failSearch
  try dsimp only
  repeat' first
    | with_reducible assumption
    | intro _
    | with_reducible first
      | apply keeps_ite | apply withWrite_keeps | apply writeBytes_keeps | apply bump_keeps | apply finish_keeps
    | split
    | dsimp only

theorem endSearch_keeps {s0 : State} {s : State} {id : Nat} {j : Job} {q : Query} {scored : List (Hit × Num)} (h :
    Keeps s0 s) :
    Keeps s0 (endSearch s id j q scored) := by
  unfold endSearch
  try dsimp only
  repeat' first
    | with_reducible assumption
    | intro _
    | with_reducible first
      | apply keeps_ite | apply withWrite_keeps | apply bump_keeps | apply writeBytes_keeps | apply finish_keeps
    | split
    | dsimp only

theorem startSpan_keeps {s0 : State} {s : State} {id : Nat} {j : Job} {q : Query} {r : SpanRole} (h : Keeps s0 s) :
    Keeps s0 (startSpan s id j q r) := by
  unfold startSpan
  try dsimp only
  repeat' first
    | with_reducible assumption
    | intro _
    | with_reducible first
      | apply keeps_ite | apply keeps_foldl | apply finish_keeps | apply sendTo_keeps
    | split
    | with_reducible exact SameBytes.mk rfl rfl rfl
    | with_reducible exact SameBox.mk rfl
    | with_reducible exact KeysOk.refl _ _
    | ((with_reducible apply keeps_mk); (with_reducible
        first
        | assumption | apply keeps_ite | apply keeps_foldl | apply finish_keeps | apply sendTo_keeps))
    | dsimp only

theorem sendPasses_keeps {s0 : State} {s : State} {job : Nat} {dest : Nat} {issuer : Nat} {tag : Nat} {status : Nat}
    {x6 : Nat} {x7 : List (Nat × Nat × Nat)} (h : Keeps s0 s) :
    Keeps s0 (sendPasses s job dest issuer tag status x6 x7) := by
  induction x6 generalizing s x7 with
  | zero =>
    unfold sendPasses
    try dsimp only
    repeat' first
      | with_reducible assumption
      | intro _
      | with_reducible first
        | apply ih | apply keeps_ite | apply sendTo_keeps
      | split
      | dsimp only
  | succ n ih =>
    unfold sendPasses
    try dsimp only
    repeat' first
      | with_reducible assumption
      | intro _
      | with_reducible first
        | apply ih | apply keeps_ite | apply sendTo_keeps
      | split
      | dsimp only

theorem forwardShare_keeps {s0 : State} {s : State} {k : Nat} (h : Keeps s0 s) :
    Keeps s0 (forwardShare s k) := by
  unfold forwardShare
  try dsimp only
  repeat' first
    | with_reducible assumption
    | intro _
    | with_reducible first
      | apply keeps_ite | apply sendPasses_keeps | apply bump_keeps
    | split
    | with_reducible exact SameBytes.mk rfl rfl rfl
    | with_reducible exact SameBox.mk rfl
    | with_reducible exact KeysOk.refl _ _
    | ((with_reducible apply keeps_mk); (with_reducible
        first
        | assumption | apply keeps_ite | apply sendPasses_keeps | apply bump_keeps))
    | dsimp only

theorem spanStart_keeps {s0 : State} {s : State} {source : Nat} {job : Nat} {gen : Nat} {tag : Nat} {entry : Nat}
    {epoch : Nat} {round : Nat} {query : Nat} (h : Keeps s0 s) :
    Keeps s0 (spanStart s source job gen tag entry epoch round query) := by
  unfold spanStart
  try dsimp only
  repeat' first
    | with_reducible assumption
    | intro _
    | with_reducible first
      | apply keeps_ite | apply bump_keeps | apply forwardShare_keeps
    | split
    | with_reducible exact SameBytes.mk rfl rfl rfl
    | with_reducible exact SameBox.mk rfl
    | with_reducible exact KeysOk.refl _ _
    | ((with_reducible apply keeps_mk); (with_reducible
        first
        | assumption | apply keeps_ite | apply bump_keeps | apply forwardShare_keeps))
    | dsimp only

theorem execSpanStart_keeps (source : Nat) (job : Nat) (gen : Nat) (tag : Nat) (entry : Nat) (epoch : Nat) (round : Nat) (query : Nat) (s : State) : Answers s (execSpanStart source job gen tag entry epoch round query s) := by
  refine answers_next ?_
  have h := Keeps.refl s
  repeat' first
    | with_reducible assumption
    | intro _
    | with_reducible first
      | apply spanStart_keeps
    | split
    | dsimp only

theorem zipList_keeps {s0 : State} {s : State} {source : Nat} {job : Nat} {gen : Nat} {issuer : Nat} {tag : Nat}
    {status : Nat} {entries : List (Nat × Nat × Nat)} {last : Bool} (h : Keeps s0 s) :
    Keeps s0 (zipList s source job gen issuer tag status entries last) := by
  unfold zipList
  try dsimp only
  repeat' first
    | with_reducible assumption
    | intro _
    | with_reducible first
      | apply keeps_ite | apply keeps_foldl | apply bump_keeps | apply closeUnit_keeps | apply forwardShare_keeps
    | split
    | with_reducible exact SameBytes.mk rfl rfl rfl
    | with_reducible exact SameBox.mk rfl
    | with_reducible exact KeysOk.refl _ _
    | ((with_reducible apply keeps_mk); (with_reducible
        first
        | assumption | apply keeps_ite | apply keeps_foldl | apply bump_keeps | apply closeUnit_keeps
        | apply forwardShare_keeps))
    | dsimp only

theorem execZipList_keeps (source : Nat) (job : Nat) (gen : Nat) (issuer : Nat) (tag : Nat) (status : Nat) (entries : List (Nat × Nat × Nat)) (last : Bool) (s : State) : Answers s (execZipList source job gen issuer tag status entries last s) := by
  refine answers_next ?_
  have h := Keeps.refl s
  repeat' first
    | with_reducible assumption
    | intro _
    | with_reducible first
      | apply zipList_keeps
    | split
    | dsimp only

theorem beginSearch_keeps {s0 : State} {s : State} {id : Nat} {j : Job} {x : Index} (h : Keeps s0 s) :
    Keeps s0 (beginSearch s id j x) := by
  unfold beginSearch
  try dsimp only
  repeat' first
    | with_reducible assumption
    | intro _
    | with_reducible first
      | apply touchRange_keeps | apply touchRanges_keeps
      | apply keeps_ite | apply keeps_ite_snd | apply keeps_foldl_snd | apply takeFree_keeps | apply finish_keeps
      | apply failSearch_keeps | apply readQuery_keeps | apply updJob_keeps | apply startSpan_keeps
      | refine keeps_pair_snd (by assumption) ?_
    | split
    | with_reducible exact SameBytes.mk rfl rfl rfl
    | with_reducible exact SameBox.mk rfl
    | with_reducible exact KeysOk.refl _ _
    | ((with_reducible apply keeps_mk); (with_reducible
        first
        | apply touchRange_keeps | apply touchRanges_keeps
        | assumption | apply keeps_ite | apply keeps_ite_snd | apply keeps_foldl_snd | apply takeFree_keeps
        | apply finish_keeps | apply failSearch_keeps | apply readQuery_keeps | apply updJob_keeps
        | apply startSpan_keeps | refine keeps_pair_snd (by assumption) ?_))
    | dsimp only

theorem roundDone_keeps {s0 : State} {s : State} {id : Nat} {j : Job} {x : Index} {q : Query} (h : Keeps s0 s) :
    Keeps s0 (roundDone s id j x q) := by
  unfold roundDone
  try dsimp only
  repeat' first
    | with_reducible assumption
    | intro _
    | with_reducible first
      | apply touchRange_keeps | apply touchRanges_keeps
      | apply keeps_ite | apply keeps_ite_snd | apply keeps_foldl_snd | apply bump_keeps | apply startSpan_keeps
      | apply takeFree_keeps | apply failSearch_keeps | apply endSearch_keeps
      | refine keeps_pair_snd (by assumption) ?_
    | split
    | with_reducible exact SameBytes.mk rfl rfl rfl
    | with_reducible exact SameBox.mk rfl
    | with_reducible exact KeysOk.refl _ _
    | ((with_reducible apply keeps_mk); (with_reducible
        first
        | apply touchRange_keeps | apply touchRanges_keeps
        | assumption | apply keeps_ite | apply keeps_ite_snd | apply keeps_foldl_snd | apply bump_keeps
        | apply startSpan_keeps | apply takeFree_keeps | apply failSearch_keeps | apply endSearch_keeps
        | refine keeps_pair_snd (by assumption) ?_))
    | dsimp only

theorem searchBody_keeps {s0 : State} {s : State} {id : Nat} {j : Job} (h : Keeps s0 s) :
    Keeps s0 (searchBody s id j) := by
  unfold searchBody
  try dsimp only
  repeat' first
    | with_reducible assumption
    | intro _
    | with_reducible first
      | apply touchRange_keeps | apply touchRanges_keeps
      | apply keeps_ite | apply finish_keeps | apply beginSearch_keeps | apply failSearch_keeps | apply bump_keeps
      | apply roundDone_keeps
    | split
    | with_reducible exact SameBytes.mk rfl rfl rfl
    | with_reducible exact SameBox.mk rfl
    | with_reducible exact KeysOk.refl _ _
    | ((with_reducible apply keeps_mk); (with_reducible
        first
        | apply touchRange_keeps | apply touchRanges_keeps
        | assumption | apply keeps_ite | apply finish_keeps | apply beginSearch_keeps | apply failSearch_keeps
        | apply bump_keeps | apply roundDone_keeps))
    | dsimp only

theorem execSearch_keeps (job : Nat) (s : State) : Answers s (execSearch job s) := by
  refine answers_next ?_
  have h := Keeps.refl s
  repeat' first
    | with_reducible assumption
    | intro _
    | with_reducible first
      | apply runJob_keeps | apply searchBody_keeps
    | split
    | dsimp only

theorem rerankBody_keeps {s0 : State} {s : State} {id : Nat} {j : Job} (h : Keeps s0 s) :
    Keeps s0 (rerankBody s id j) := by
  unfold rerankBody
  try dsimp only
  repeat' first
    | with_reducible assumption
    | intro _
    | with_reducible first
      | apply touchRange_keeps | apply touchRanges_keeps
      | apply keeps_ite | apply finish_keeps | apply withRead_keeps | apply readQuery_keeps | apply endSearch_keeps
    | split
    | dsimp only

theorem execRerank_keeps (job : Nat) (s : State) : Answers s (execRerank job s) := by
  refine answers_next ?_
  have h := Keeps.refl s
  repeat' first
    | with_reducible assumption
    | intro _
    | with_reducible first
      | apply runJob_keeps | apply rerankBody_keeps
    | split
    | dsimp only

theorem recallProbeBody_keeps {s0 : State} {s : State} {id : Nat} {j : Job} (h : Keeps s0 s) :
    Keeps s0 (recallProbeBody s id j) := by
  unfold recallProbeBody
  try dsimp only
  repeat' first
    | with_reducible assumption
    | intro _
    | with_reducible first
      | apply touchRange_keeps | apply touchRanges_keeps
      | apply finish_keeps | apply withRead_keeps | apply failSearch_keeps | apply writeAndFinish_keeps
      | apply takeFree_keeps
    | split
    | dsimp only

theorem execRecallProbe_keeps (job : Nat) (s : State) : Answers s (execRecallProbe job s) := by
  refine answers_next ?_
  have h := Keeps.refl s
  repeat' first
    | with_reducible assumption
    | intro _
    | with_reducible first
      | apply runJob_keeps | apply recallProbeBody_keeps
    | split
    | dsimp only

end Sys2Proof.Machine
end

