-- ==== Sys2Proof/Laws/KeepsSelect.lean ====
section
/-! SUPPORT. What every operation of Machine/Select.lean keeps. -/

namespace Sys2Proof.Machine

theorem topkRow_keeps {s0 : State} {s : State} {id : Nat} {e : Nat} {row : Nat} {short : Nat} {bs : List Nat} (h :
    Keeps s0 s) :
    Keeps s0 (topkRow s id e row short bs) := by
  unfold topkRow
  try dsimp only
  repeat' first
    | with_reducible assumption
    | intro _
    | with_reducible first
      | apply keeps_ite | apply withWrite_keeps | apply bump_keeps | apply writeBytes_keeps | apply updJob_keeps
      | apply finish_keeps
    | split
    | with_reducible exact SameBytes.mk rfl rfl rfl
    | with_reducible exact SameBox.mk rfl
    | with_reducible exact KeysOk.refl _ _
    | ((with_reducible apply keeps_mk); (with_reducible
        first
        | assumption | apply keeps_ite | apply withWrite_keeps | apply bump_keeps | apply writeBytes_keeps
        | apply updJob_keeps | apply finish_keeps))
    | dsimp only

theorem topkBody_keeps {s0 : State} {s : State} {id : Nat} {j : Job} (h : Keeps s0 s) :
    Keeps s0 (topkBody s id j) := by
  unfold topkBody
  try dsimp only
  repeat' first
    | with_reducible assumption
    | intro _
    | with_reducible first
      | apply keeps_ite | apply countStrays_keeps | apply topkRow_keeps | apply updCtx_keeps | apply updJob_keeps
      | apply finish_keeps | apply touchRange_keeps
    | split
    | with_reducible exact SameBytes.mk rfl rfl rfl
    | with_reducible exact SameBox.mk rfl
    | with_reducible exact KeysOk.refl _ _
    | ((with_reducible apply keeps_mk); (with_reducible
        first
        | assumption | apply keeps_ite | apply countStrays_keeps | apply topkRow_keeps | apply updCtx_keeps
        | apply updJob_keeps | apply finish_keeps | apply touchRange_keeps))
    | dsimp only

theorem execTopk_keeps (job : Nat) (s : State) : Answers s (execTopk job s) := by
  refine answers_next ?_
  have h := Keeps.refl s
  repeat' first
    | with_reducible assumption
    | intro _
    | with_reducible first
      | apply runJob_keeps | apply topkBody_keeps
    | split
    | dsimp only

theorem mergeBody_keeps {s0 : State} {s : State} {id : Nat} {j : Job} (h : Keeps s0 s) :
    Keeps s0 (mergeBody s id j) := by
  unfold mergeBody
  try dsimp only
  repeat' first
    | with_reducible assumption
    | intro _
    | with_reducible first
      | apply touchRanges_keeps
      | apply keeps_ite | apply keeps_foldl | apply finish_keeps | apply fetchMore_keeps | apply bump_keeps
      | apply withWrite_keeps | apply writeBytes_keeps | apply tallyJob_keeps
    | split
    | dsimp only

theorem execMerge_keeps (job : Nat) (s : State) : Answers s (execMerge job s) := by
  refine answers_next ?_
  have h := Keeps.refl s
  repeat' first
    | with_reducible assumption
    | intro _
    | with_reducible first
      | apply runJob_keeps | apply mergeBody_keeps
    | split
    | dsimp only

end Sys2Proof.Machine
end

