-- ==== Sys2Proof/Laws/KeepsBelt.lean ====
section
/-! SUPPORT. What every operation of Machine/Belt.lean keeps. -/

namespace Sys2Proof.Machine

theorem updTable_keeps {s0 : State} {s : State} {t : Nat} {f : BeltTable → BeltTable} (h : Keeps s0 s) :
    Keeps s0 (updTable s t f) := by
  unfold updTable
  try dsimp only
  repeat' first
    | with_reducible assumption
    | intro _
    | split
    | with_reducible exact SameBytes.mk rfl rfl rfl
    | with_reducible exact SameBox.mk rfl
    | with_reducible exact KeysOk.refl _ _
    | ((with_reducible apply keeps_mk); (with_reducible
        first
        | assumption))
    | dsimp only

theorem reportTables_keeps {s0 : State} {s : State} (h : Keeps s0 s) :
    Keeps s0 (reportTables s) := by
  unfold reportTables
  try dsimp only
  repeat' first
    | with_reducible assumption
    | intro _
    | with_reducible first
      | apply setReg_keeps
    | split
    | dsimp only

theorem withDescriptor_keeps {s0 : State} {s : State} {id : Nat} {j : Job} {go : State → Nat → State} (h : Keeps s0
    s) (h1 : ∀ u0 u1, Keeps s0 u0 → Keeps s0 (go u0 u1)) :
    Keeps s0 (withDescriptor s id j go) := by
  unfold withDescriptor
  try dsimp only
  repeat' first
    | with_reducible assumption
    | intro _
    | with_reducible first
      | apply h1 | apply keeps_ite | apply withRead_keeps | apply finish_keeps
    | split
    | dsimp only

theorem beltTableCreateBody_keeps {s0 : State} {s : State} {id : Nat} {j : Job} (h : Keeps s0 s) :
    Keeps s0 (beltTableCreateBody s id j) := by
  unfold beltTableCreateBody
  try dsimp only
  repeat' first
    | with_reducible assumption
    | intro _
    | with_reducible first
      | apply keeps_ite | apply withDescriptor_keeps | apply finish_keeps | apply reportTables_keeps
    | split
    | with_reducible exact SameBytes.mk rfl rfl rfl
    | with_reducible exact SameBox.mk rfl
    | with_reducible exact KeysOk.refl _ _
    | ((with_reducible apply keeps_mk); (with_reducible
        first
        | assumption | apply keeps_ite | apply withDescriptor_keeps | apply finish_keeps
        | apply reportTables_keeps))
    | dsimp only

theorem execBeltTableCreate_keeps (job : Nat) (s : State) : Answers s (execBeltTableCreate job s) := by
  refine answers_next ?_
  have h := Keeps.refl s
  repeat' first
    | with_reducible assumption
    | intro _
    | with_reducible first
      | apply runJob_keeps | apply beltTableCreateBody_keeps
    | split
    | dsimp only

theorem beltTableReplaceBody_keeps {s0 : State} {s : State} {id : Nat} {j : Job} (h : Keeps s0 s) :
    Keeps s0 (beltTableReplaceBody s id j) := by
  unfold beltTableReplaceBody
  try dsimp only
  repeat' first
    | with_reducible assumption
    | intro _
    | with_reducible first
      | apply keeps_ite | apply withDescriptor_keeps | apply finish_keeps | apply updTable_keeps
    | split
    | with_reducible exact SameBytes.mk rfl rfl rfl
    | with_reducible exact SameBox.mk rfl
    | with_reducible exact KeysOk.refl _ _
    | ((with_reducible apply keeps_mk); (with_reducible
        first
        | assumption | apply keeps_ite | apply withDescriptor_keeps | apply finish_keeps | apply updTable_keeps))
    | dsimp only

theorem execBeltTableReplace_keeps (job : Nat) (s : State) : Answers s (execBeltTableReplace job s) := by
  refine answers_next ?_
  have h := Keeps.refl s
  repeat' first
    | with_reducible assumption
    | intro _
    | with_reducible first
      | apply runJob_keeps | apply beltTableReplaceBody_keeps
    | split
    | dsimp only

theorem beltTableDropAdmit_keeps {s0 : State} {s : State} {id : Nat} (h : Keeps s0 s) :
    Keeps s0 (beltTableDropAdmit s id) := by
  unfold beltTableDropAdmit
  try dsimp only
  repeat' first
    | with_reducible assumption
    | intro _
    | with_reducible first
      | apply keeps_ite | apply updTable_keeps
    | split
    | with_reducible exact SameBytes.mk rfl rfl rfl
    | with_reducible exact SameBox.mk rfl
    | with_reducible exact KeysOk.refl _ _
    | ((with_reducible apply keeps_mk); (with_reducible
        first
        | assumption | apply keeps_ite | apply updTable_keeps))
    | dsimp only

theorem beltTableDropBody_keeps {s0 : State} {s : State} {id : Nat} {j : Job} (h : Keeps s0 s) :
    Keeps s0 (beltTableDropBody s id j) := by
  unfold beltTableDropBody
  try dsimp only
  repeat' first
    | with_reducible assumption
    | intro _
    | with_reducible first
      | apply keeps_ite | apply finish_keeps | apply reportTables_keeps
    | split
    | with_reducible exact SameBytes.mk rfl rfl rfl
    | with_reducible exact SameBox.mk rfl
    | with_reducible exact KeysOk.refl _ _
    | ((with_reducible apply keeps_mk); (with_reducible
        first
        | assumption | apply keeps_ite | apply finish_keeps | apply reportTables_keeps))
    | dsimp only

theorem execBeltTableDrop_keeps (job : Nat) (s : State) : Answers s (execBeltTableDrop job s) := by
  refine answers_next ?_
  have h := Keeps.refl s
  repeat' first
    | with_reducible assumption
    | intro _
    | with_reducible first
      | apply runJob_keeps | apply beltTableDropBody_keeps
    | split
    | dsimp only

theorem freeVersions_keeps {s0 : State} {s : State} (h : Keeps s0 s) :
    Keeps s0 (freeVersions s) := by
  unfold freeVersions
  try dsimp only
  repeat' first
    | with_reducible assumption
    | intro _
    | with_reducible first
      | apply bump_keeps
    | split
    | with_reducible exact SameBytes.mk rfl rfl rfl
    | with_reducible exact SameBox.mk rfl
    | with_reducible exact KeysOk.refl _ _
    | ((with_reducible apply keeps_mk); (with_reducible
        first
        | assumption | apply bump_keeps))
    | dsimp only

theorem beltGatherAdmit_keeps {s0 : State} {s : State} {id : Nat} (h : Keeps s0 s) :
    Keeps s0 (beltGatherAdmit s id) := by
  unfold beltGatherAdmit
  try dsimp only
  repeat' first
    | with_reducible assumption
    | intro _
    | with_reducible first
      | apply updTable_keeps | apply updJob_keeps
    | split
    | with_reducible exact SameBytes.mk rfl rfl rfl
    | with_reducible exact SameBox.mk rfl
    | with_reducible exact KeysOk.refl _ _
    | ((with_reducible apply keeps_mk); (with_reducible
        first
        | assumption | apply updTable_keeps | apply updJob_keeps))
    | dsimp only

theorem probeRow_keeps {s0 : State} {s : State} {region : Nat} {addr : Nat} {r : HotRow} {cache : Bool} (h : Keeps
    s0 s) :
    Keeps s0 (probeRow s region addr r cache) := by
  unfold probeRow
  try dsimp only
  repeat' first
    | with_reducible assumption
    | intro _
    | with_reducible first
      | apply keeps_ite | apply countRegion_keeps | apply bump_keeps
    | split
    | with_reducible exact SameBytes.mk rfl rfl rfl
    | with_reducible exact SameBox.mk rfl
    | with_reducible exact KeysOk.refl _ _
    | ((with_reducible apply keeps_mk); (with_reducible
        first
        | assumption | apply keeps_ite | apply countRegion_keeps | apply bump_keeps))
    | dsimp only

theorem countIndices_keeps {s0 : State} {s : State} {region : Nat} {table : Nat} {version : Nat} {d : Nat} {cache :
    Bool} {is : List Nat} (h : Keeps s0 s) :
    Keeps s0 (countIndices s region table version d cache is) := by
  unfold countIndices
  try dsimp only
  repeat' first
    | with_reducible assumption
    | intro _
    | with_reducible first
      | apply keeps_foldl | apply countRegion_keeps | apply bump_keeps | apply probeRow_keeps
    | split
    | dsimp only

theorem countWindow_keeps {s0 : State} {s : State} {region : Nat} {e : Nat} {version : Nat} {d : Nat} {cache : Bool}
    {n : Nat} (h : Keeps s0 s) :
    Keeps s0 (countWindow s region e version d cache n) := by
  unfold countWindow
  try dsimp only
  repeat' first
    | with_reducible assumption
    | intro _
    | with_reducible first
      | apply countIndices_keeps
    | split
    | dsimp only

theorem countGathered_keeps {s0 : State} {s : State} {region : Nat} {table : Nat} {version : Nat} {d : Nat} {is :
    List Nat} (h : Keeps s0 s) :
    Keeps s0 (countGathered s region table version d is) := by
  unfold countGathered
  try dsimp only
  repeat' first
    | with_reducible assumption
    | intro _
    | with_reducible first
      | apply keeps_foldl | apply countIndices_keeps
    | split
    | dsimp only

theorem gatherRow_keeps {s0 : State} {s : State} {id : Nat} {j : Job} {d : Nat} {row : Nat} {cache : Nat} (h : Keeps
    s0 s) :
    Keeps s0 (gatherRow s id j d row cache) := by
  unfold gatherRow
  try dsimp only
  repeat' first
    | with_reducible assumption
    | intro _
    | with_reducible first
      | apply keeps_ite | apply keeps_foldl | apply finish_keeps | apply countWindow_keeps | apply touchRange_keeps
      | apply updJob_keeps | apply bump_keeps | apply deliverRows_keeps | apply withWrite_keeps
      | apply writeBytes_keeps
    | split
    | with_reducible exact SameBytes.mk rfl rfl rfl
    | with_reducible exact SameBox.mk rfl
    | with_reducible exact KeysOk.refl _ _
    | ((with_reducible apply keeps_mk); (with_reducible
        first
        | assumption | apply keeps_ite | apply keeps_foldl | apply finish_keeps | apply countWindow_keeps
        | apply touchRange_keeps | apply updJob_keeps | apply bump_keeps | apply deliverRows_keeps
        | apply withWrite_keeps | apply writeBytes_keeps))
    | dsimp only

theorem beltGatherBody_keeps {s0 : State} {s : State} {id : Nat} {j : Job} (h : Keeps s0 s) :
    Keeps s0 (beltGatherBody s id j) := by
  unfold beltGatherBody
  try dsimp only
  repeat' first
    | with_reducible assumption
    | intro _
    | with_reducible first
      | apply touchRange_keeps
      | apply keeps_ite | apply gatherRow_keeps | apply finish_keeps | apply updJob_keeps
    | split
    | with_reducible exact SameBytes.mk rfl rfl rfl
    | with_reducible exact SameBox.mk rfl
    | with_reducible exact KeysOk.refl _ _
    | ((with_reducible apply keeps_mk); (with_reducible
        first
        | apply touchRange_keeps
        | assumption | apply keeps_ite | apply gatherRow_keeps | apply finish_keeps | apply updJob_keeps))
    | dsimp only

theorem noteBeltHold_keeps {s0 : State} {s : State} {id : Nat} (h : Keeps s0 s) :
    Keeps s0 (noteBeltHold s id) := by
  unfold noteBeltHold
  try dsimp only
  repeat' first
    | with_reducible assumption
    | intro _
    | with_reducible first
      | apply keeps_ite | apply bump_keeps | apply updJob_keeps
    | split
    | with_reducible exact SameBytes.mk rfl rfl rfl
    | with_reducible exact SameBox.mk rfl
    | with_reducible exact KeysOk.refl _ _
    | ((with_reducible apply keeps_mk); (with_reducible
        first
        | assumption | apply keeps_ite | apply bump_keeps | apply updJob_keeps))
    | dsimp only

theorem execBeltGather_keeps (job : Nat) (s : State) : Answers s (execBeltGather job s) := by
  refine answers_next ?_
  have h := Keeps.refl s
  repeat' first
    | with_reducible assumption
    | intro _
    | with_reducible first
      | apply runJob_keeps | apply noteBeltHold_keeps | apply beltGatherBody_keeps
    | split
    | dsimp only

end Sys2Proof.Machine
end

