-- ==== Sys2Proof/Laws/KeepsRank.lean ====
section
/-! SUPPORT. What every operation of Machine/Rank.lean keeps. -/

namespace Sys2Proof.Machine

theorem pinHeader_keeps {s0 : State} {s : State} {i : Nat} {id : Nat} {e : Nat} {x : Index} (h : Keeps s0 s) :
    SumKeeps s0 (pinHeader s i id e x) := by
  unfold pinHeader
  try dsimp only
  repeat' first
    | with_reducible assumption
    | intro _
    | with_reducible first
      | apply keeps_ite | apply sumKeeps_inl | apply sumKeeps_inr | apply sumKeeps_ite | apply pinEpoch_keeps
      | apply updJob_keeps | refine keeps_sum (by assumption) ?_
    | split
    | with_reducible exact SameBytes.mk rfl rfl rfl
    | with_reducible exact SameBox.mk rfl
    | with_reducible exact KeysOk.refl _ _
    | ((with_reducible apply keeps_mk); (with_reducible
        first
        | assumption | apply keeps_ite | apply sumKeeps_inl | apply sumKeeps_inr | apply sumKeeps_ite
        | apply pinEpoch_keeps | apply updJob_keeps | refine keeps_sum (by assumption) ?_))
    | dsimp only

theorem countEmbeddings_keeps {s0 : State} {s : State} {id : Nat} {c : Nat} {table : Nat} {emb : Nat} {blocks : Nat}
    {toks : List Nat} (h : Keeps s0 s) :
    Keeps s0 (countEmbeddings s id c table emb blocks toks) := by
  unfold countEmbeddings
  try dsimp only
  repeat' first
    | with_reducible assumption
    | intro _
    | with_reducible first
      | apply keeps_foldl | apply countGathered_keeps
    | split
    | dsimp only

theorem pinTable_keeps {s0 : State} {s : State} {t : Nat} {id : Nat} (h : Keeps s0 s) :
    Keeps s0 (pinTable s t id) := by
  unfold pinTable
  try dsimp only
  repeat' first
    | with_reducible assumption
    | intro _
    | with_reducible first
      | apply updTable_keeps
    | split
    | with_reducible exact SameBytes.mk rfl rfl rfl
    | with_reducible exact SameBox.mk rfl
    | with_reducible exact KeysOk.refl _ _
    | ((with_reducible apply keeps_mk); (with_reducible
        first
        | assumption | apply updTable_keeps))
    | dsimp only

theorem crossRerankAdmit_keeps {s0 : State} {s : State} {id : Nat} (h : Keeps s0 s) :
    Keeps s0 (crossRerankAdmit s id) := by
  unfold crossRerankAdmit
  try dsimp only
  repeat' first
    | with_reducible assumption
    | intro _
    | with_reducible first
      | apply keeps_ite | apply pinTable_keeps
    | split
    | dsimp only

theorem deliverBatch_keeps {s0 : State} {s : State} {id : Nat} {c : Nat} {ws : List (Nat × Nat × Nat × List Nat)}
    {go : State → State} (h : Keeps s0 s) (h1 : ∀ u0, Keeps s0 u0 → Keeps s0 (go u0)) :
    Keeps s0 (deliverBatch s id c ws go) := by
  unfold deliverBatch
  try dsimp only
  repeat' first
    | with_reducible assumption
    | intro _
    | with_reducible first
      | apply h1 | apply keeps_ite | apply keeps_foldl | apply lbWrite_keeps | apply countStrays_keeps
      | apply updCtx_keeps | apply updJob_keeps
    | split
    | with_reducible exact SameBytes.mk rfl rfl rfl
    | with_reducible exact SameBox.mk rfl
    | with_reducible exact KeysOk.refl _ _
    | ((with_reducible apply keeps_mk); (with_reducible
        first
        | assumption | apply h1 | apply keeps_ite | apply keeps_foldl | apply lbWrite_keeps
        | apply countStrays_keeps | apply updCtx_keeps | apply updJob_keeps))
    | dsimp only

theorem xrEnd_keeps {s0 : State} {s : State} {id : Nat} {j : Job} {x : Index} {d : Nat} {scores : List Nat} (h :
    Keeps s0 s) :
    Keeps s0 (xrEnd s id j x d scores) := by
  unfold xrEnd
  try dsimp only
  repeat' first
    | with_reducible assumption
    | intro _
    | with_reducible first
      | apply touchRanges_keeps
      | apply keeps_ite | apply finish_keeps | apply withWrite_keeps | apply countGathered_keeps | apply bump_keeps
      | apply writeBytes_keeps
    | split
    | dsimp only

theorem xrStart_keeps {s0 : State} {s : State} {id : Nat} {j : Job} {x : Index} (h : Keeps s0 s) :
    Keeps s0 (xrStart s id j x) := by
  unfold xrStart
  try dsimp only
  repeat' first
    | with_reducible assumption
    | intro _
    | with_reducible first
      | apply touchRanges_keeps
      | apply keeps_ite | apply sumKeeps_inl | apply sumKeeps_inr | apply sumKeeps_ite | apply finish_keeps
      | apply fetchMore_keeps | apply pinHeader_keeps | apply updJob_keeps | refine keeps_sum (by assumption) ?_
    | split
    | with_reducible exact SameBytes.mk rfl rfl rfl
    | with_reducible exact SameBox.mk rfl
    | with_reducible exact KeysOk.refl _ _
    | ((with_reducible apply keeps_mk); (with_reducible
        first
        | apply touchRanges_keeps
        | assumption | apply keeps_ite | apply sumKeeps_inl | apply sumKeeps_inr | apply sumKeeps_ite
        | apply finish_keeps | apply fetchMore_keeps | apply pinHeader_keeps | apply updJob_keeps
        | refine keeps_sum (by assumption) ?_))
    | dsimp only

theorem crossRerankBody_keeps {s0 : State} {s : State} {id : Nat} {j : Job} (h : Keeps s0 s) :
    Keeps s0 (crossRerankBody s id j) := by
  unfold crossRerankBody
  try dsimp only
  repeat' first
    | with_reducible assumption
    | intro _
    | with_reducible first
      | apply touchRanges_keeps
      | apply keeps_ite | apply finish_keeps | apply xrEnd_keeps | apply deliverBatch_keeps
      | apply countEmbeddings_keeps | apply nextRun_keeps | apply startRun_keeps | apply updJob_keeps
      | apply updCtx_keeps | apply dropRun_keeps | apply xrStart_keeps
    | split
    | with_reducible exact SameBytes.mk rfl rfl rfl
    | with_reducible exact SameBox.mk rfl
    | with_reducible exact KeysOk.refl _ _
    | ((with_reducible apply keeps_mk); (with_reducible
        first
        | apply touchRanges_keeps
        | assumption | apply keeps_ite | apply finish_keeps | apply xrEnd_keeps | apply deliverBatch_keeps
        | apply countEmbeddings_keeps | apply nextRun_keeps | apply startRun_keeps | apply updJob_keeps
        | apply updCtx_keeps | apply dropRun_keeps | apply xrStart_keeps))
    | dsimp only

theorem execCrossRerank_keeps (job : Nat) (s : State) : Answers s (execCrossRerank job s) := by
  refine answers_next ?_
  have h := Keeps.refl s
  repeat' first
    | with_reducible assumption
    | intro _
    | with_reducible first
      | apply runJob_keeps | apply crossRerankBody_keeps
    | split
    | dsimp only

theorem packEnd_keeps {s0 : State} {s : State} {id : Nat} {j : Job} {p : Packed} (h : Keeps s0 s) :
    Keeps s0 (packEnd s id j p) := by
  unfold packEnd
  try dsimp only
  repeat' first
    | with_reducible assumption
    | intro _
    | with_reducible first
      | apply keeps_ite | apply bump_keeps | apply finish_keeps
    | split
    | dsimp only

theorem remoteWrites_keeps {s0 : State} {id : Nat} {ctx : Nat} {job : Nat} {dest : Nat} {x4 : Nat} {x5 : State} {x6
    : Nat} {x7 : List Nat} (h : Keeps s0 x5) :
    Keeps s0 (remoteWrites id ctx job dest x4 x5 x6 x7) := by
  induction x4 generalizing x5 x6 x7 with
  | zero =>
    unfold remoteWrites
    try dsimp only
    repeat' first
      | with_reducible assumption
      | intro _
      | with_reducible first
        | apply ih | apply keeps_ite | apply issueRemote_keeps
      | split
      | dsimp only
  | succ n ih =>
    unfold remoteWrites
    try dsimp only
    repeat' first
      | with_reducible assumption
      | intro _
      | with_reducible first
        | apply ih | apply keeps_ite | apply issueRemote_keeps
      | split
      | dsimp only

theorem packGo_keeps {s0 : State} {s : State} {id : Nat} {j : Job} {p : Packed} (h : Keeps s0 s) :
    Keeps s0 (packGo s id j p) := by
  unfold packGo
  try dsimp only
  repeat' first
    | with_reducible assumption
    | intro _
    | with_reducible first
      | apply keeps_ite | apply keeps_foldl | apply remoteWrites_keeps | apply finish_keeps | apply packEnd_keeps
      | apply updJob_keeps | apply bump_keeps | apply withWrite_keeps | apply writeBytes_keeps
      | apply withWrites_keeps | apply notePosted_keeps
    | split
    | with_reducible exact SameBytes.mk rfl rfl rfl
    | with_reducible exact SameBox.mk rfl
    | with_reducible exact KeysOk.refl _ _
    | ((with_reducible apply keeps_mk); (with_reducible
        first
        | assumption | apply keeps_ite | apply keeps_foldl | apply remoteWrites_keeps | apply finish_keeps
        | apply packEnd_keeps | apply updJob_keeps | apply bump_keeps | apply withWrite_keeps
        | apply writeBytes_keeps | apply withWrites_keeps | apply notePosted_keeps))
    | dsimp only

theorem packBody_keeps {s0 : State} {s : State} {id : Nat} {j : Job} (h : Keeps s0 s) :
    Keeps s0 (packBody s id j) := by
  unfold packBody
  try dsimp only
  repeat' first
    | with_reducible assumption
    | intro _
    | with_reducible first
      | apply touchRanges_keeps
      | apply keeps_ite | apply sumKeeps_inl | apply sumKeeps_inr | apply sumKeeps_ite | apply finish_keeps
      | apply fetchMore_keeps | apply pinHeader_keeps | apply packGo_keeps | refine keeps_sum (by assumption) ?_
    | split
    | with_reducible exact SameBytes.mk rfl rfl rfl
    | with_reducible exact SameBox.mk rfl
    | with_reducible exact KeysOk.refl _ _
    | ((with_reducible apply keeps_mk); (with_reducible
        first
        | apply touchRanges_keeps
        | assumption | apply keeps_ite | apply sumKeeps_inl | apply sumKeeps_inr | apply sumKeeps_ite
        | apply finish_keeps | apply fetchMore_keeps | apply pinHeader_keeps | apply packGo_keeps
        | refine keeps_sum (by assumption) ?_))
    | dsimp only

theorem execPack_keeps (job : Nat) (s : State) : Answers s (execPack job s) := by
  refine answers_next ?_
  have h := Keeps.refl s
  repeat' first
    | with_reducible assumption
    | intro _
    | with_reducible first
      | apply runJob_keeps | apply packBody_keeps
    | split
    | dsimp only

end Sys2Proof.Machine
end

