-- ==== Sys2Proof/Laws/KeepsSampler.lean ====
section
/-! SUPPORT. What every operation of Machine/Sampler.lean keeps. -/

namespace Sys2Proof.Machine

theorem samplerSeedBody_keeps {s0 : State} {s : State} {id : Nat} {j : Job} (h : Keeps s0 s) :
    Keeps s0 (samplerSeedBody s id j) := by
  unfold samplerSeedBody
  try dsimp only
  repeat' first
    | with_reducible assumption
    | intro _
    | with_reducible first
      | apply finish_keeps | apply updCtx_keeps
    | split
    | with_reducible exact SameBytes.mk rfl rfl rfl
    | with_reducible exact SameBox.mk rfl
    | with_reducible exact KeysOk.refl _ _
    | ((with_reducible apply keeps_mk); (with_reducible
        first
        | assumption | apply finish_keeps | apply updCtx_keeps))
    | dsimp only

theorem execSamplerSeed_keeps (job : Nat) (s : State) : Answers s (execSamplerSeed job s) := by
  refine answers_next ?_
  have h := Keeps.refl s
  repeat' first
    | with_reducible assumption
    | intro _
    | with_reducible first
      | apply runJob_keeps | apply samplerSeedBody_keeps
    | split
    | dsimp only

theorem randFillBody_keeps {s0 : State} {s : State} {id : Nat} {j : Job} (h : Keeps s0 s) :
    Keeps s0 (randFillBody s id j) := by
  unfold randFillBody
  try dsimp only
  repeat' first
    | with_reducible assumption
    | intro _
    | with_reducible first
      | apply keeps_ite | apply updJob_keeps | apply finish_keeps | apply deliverRows_keeps | apply withWrite_keeps
      | apply writeBytes_keeps
    | split
    | with_reducible exact SameBytes.mk rfl rfl rfl
    | with_reducible exact SameBox.mk rfl
    | with_reducible exact KeysOk.refl _ _
    | ((with_reducible apply keeps_mk); (with_reducible
        first
        | assumption | apply keeps_ite | apply updJob_keeps | apply finish_keeps | apply deliverRows_keeps
        | apply withWrite_keeps | apply writeBytes_keeps))
    | dsimp only

theorem execRandFill_keeps (job : Nat) (s : State) : Answers s (execRandFill job s) := by
  refine answers_next ?_
  have h := Keeps.refl s
  repeat' first
    | with_reducible assumption
    | intro _
    | with_reducible first
      | apply runJob_keeps | apply randFillBody_keeps
    | split
    | dsimp only

theorem reportGrammars_keeps {s0 : State} {s : State} (h : Keeps s0 s) :
    Keeps s0 (reportGrammars s) := by
  unfold reportGrammars
  try dsimp only
  repeat' first
    | with_reducible assumption
    | intro _
    | with_reducible first
      | apply keeps_foldl | apply setReg_keeps
    | split
    | dsimp only

theorem veilLoadBody_keeps {s0 : State} {s : State} {id : Nat} {j : Job} (h : Keeps s0 s) :
    Keeps s0 (veilLoadBody s id j) := by
  unfold veilLoadBody
  try dsimp only
  repeat' first
    | with_reducible assumption
    | intro _
    | with_reducible first
      | apply keeps_ite | apply finish_keeps | apply reportGrammars_keeps | apply touchRange_keeps
    | split
    | with_reducible exact SameBytes.mk rfl rfl rfl
    | with_reducible exact SameBox.mk rfl
    | with_reducible exact KeysOk.refl _ _
    | ((with_reducible apply keeps_mk); (with_reducible
        first
        | assumption | apply keeps_ite | apply finish_keeps | apply reportGrammars_keeps
        | apply touchRange_keeps))
    | dsimp only

theorem execVeilLoad_keeps (job : Nat) (s : State) : Answers s (execVeilLoad job s) := by
  refine answers_next ?_
  have h := Keeps.refl s
  repeat' first
    | with_reducible assumption
    | intro _
    | with_reducible first
      | apply runJob_keeps | apply veilLoadBody_keeps
    | split
    | dsimp only

theorem veilUnloadAdmit_keeps {s0 : State} {s : State} {id : Nat} (h : Keeps s0 s) :
    Keeps s0 (veilUnloadAdmit s id) := by
  unfold veilUnloadAdmit
  try dsimp only
  repeat' first
    | with_reducible assumption
    | intro _
    | split
    | with_reducible exact SameBytes.mk rfl rfl rfl
    | with_reducible exact SameBox.mk rfl
    | with_reducible exact KeysOk.refl _ _
    | ((with_reducible apply keeps_mk); (with_reducible
        first
        | assumption))
    | dsimp only

theorem veilUnloadBody_keeps {s0 : State} {s : State} {id : Nat} {j : Job} (h : Keeps s0 s) :
    Keeps s0 (veilUnloadBody s id j) := by
  unfold veilUnloadBody
  try dsimp only
  repeat' first
    | with_reducible assumption
    | intro _
    | with_reducible first
      | apply keeps_ite | apply finish_keeps | apply reportGrammars_keeps
    | split
    | with_reducible exact SameBytes.mk rfl rfl rfl
    | with_reducible exact SameBox.mk rfl
    | with_reducible exact KeysOk.refl _ _
    | ((with_reducible apply keeps_mk); (with_reducible
        first
        | assumption | apply keeps_ite | apply finish_keeps | apply reportGrammars_keeps))
    | dsimp only

theorem execVeilUnload_keeps (job : Nat) (s : State) : Answers s (execVeilUnload job s) := by
  refine answers_next ?_
  have h := Keeps.refl s
  repeat' first
    | with_reducible assumption
    | intro _
    | with_reducible first
      | apply runJob_keeps | apply veilUnloadBody_keeps
    | split
    | dsimp only

end Sys2Proof.Machine
end

