-- ==== Sys2Proof/Laws/KeepsGen.lean ====
section
/-! SUPPORT. What every operation of Machine/Gen.lean keeps. -/

namespace Sys2Proof.Machine

theorem setGs_keeps {s0 : State} {s : State} {c : Nat} {lo : Nat} {n : Nat} {v : Nat} (h : Keeps s0 s) :
    Keeps s0 (setGs s c lo n v) := by
  unfold setGs
  try dsimp only
  repeat' first
    | with_reducible assumption
    | intro _
    | with_reducible first
      | apply updCtx_keeps
    | split
    | with_reducible exact SameBytes.mk rfl rfl rfl
    | with_reducible exact SameBox.mk rfl
    | with_reducible exact KeysOk.refl _ _
    | ((with_reducible apply keeps_mk); (with_reducible
        first
        | assumption | apply updCtx_keeps))
    | dsimp only

theorem setLen_keeps {s0 : State} {s : State} {c : Nat} {v : Nat} (h : Keeps s0 s) :
    Keeps s0 (setLen s c v) := by
  unfold setLen
  try dsimp only
  repeat' first
    | with_reducible assumption
    | intro _
    | with_reducible first
      | apply keeps_ite | apply setGs_keeps
    | split
    | dsimp only

theorem setDraftLen_keeps {s0 : State} {s : State} {c : Nat} {v : Nat} (h : Keeps s0 s) :
    Keeps s0 (setDraftLen s c v) := by
  unfold setDraftLen
  try dsimp only
  repeat' first
    | with_reducible assumption
    | intro _
    | with_reducible first
      | apply keeps_ite | apply setGs_keeps
    | split
    | dsimp only

theorem setPt_keeps {s0 : State} {s : State} {c : Nat} {draft : Bool} {v : Nat} (h : Keeps s0 s) :
    Keeps s0 (setPt s c draft v) := by
  unfold setPt
  try dsimp only
  repeat' first
    | with_reducible assumption
    | intro _
    | with_reducible first
      | apply keeps_ite | apply setGs_keeps
    | split
    | dsimp only

theorem setEndReason_keeps {s0 : State} {s : State} {c : Nat} {v : Nat} (h : Keeps s0 s) :
    Keeps s0 (setEndReason s c v) := by
  unfold setEndReason
  try dsimp only
  repeat' first
    | with_reducible assumption
    | intro _
    | with_reducible first
      | apply setGs_keeps
    | split
    | dsimp only

theorem updGen_keeps {s0 : State} {s : State} {id : Nat} {f : GenReq → GenReq} (h : Keeps s0 s) :
    Keeps s0 (updGen s id f) := by
  unfold updGen
  try dsimp only
  repeat' first
    | with_reducible assumption
    | intro _
    | split
    | with_reducible exact SameBytes.mk rfl rfl rfl
    | with_reducible exact SameBox.mk rfl
    | with_reducible exact KeysOk.refl _ _
    | ((with_reducible apply keeps_mk); (with_reducible
        first
        | assumption))
    | dsimp only

theorem usePage_keeps {s0 s : State} {p : Nat} {k : KvPage} (h : Keeps s0 s) : Keeps s0 (usePage s p k) := by
  have h1 : Keeps s0 { s with kv := tabSet s.kv p k, mem := { s.mem with
      dev := memClear s.mem.dev (p * pageBytes) pageBytes } } :=
    keeps_mk_full h (.refl _) (.of fun a b c d e => ⟨memWf_clear _ _ a, b, c, d, e⟩) (.refl _ _)
  have h2 := takeFree_keeps h1
  unfold usePage
  generalize pageBytes = n at *
  refine setReg_keeps ?_
  split
  · exact keeps_mk_full h2 (.refl _) (.of fun a b c d e => ⟨memWf_putNat _ _ _ a, b, c, d, e⟩) (.refl _ _)
  · exact h1

theorem takePage_keeps {s0 : State} {s : State} {c : Nat} {k : KvPage} (h : Keeps s0 s) :
    (takePage s c k).Keeps s0 := by
  unfold takePage
  try dsimp only
  repeat' first
    | with_reducible assumption
    | intro _
    | with_reducible first
      | apply take_held | apply take_wait | apply take_fail | apply take_ite | apply alloc_home | apply alloc_fail
      | apply alloc_wait | apply alloc_ite | apply usePage_keeps | apply allocate_keeps | apply setUnit_keeps
      | refine keeps_take_held (by assumption) ?_ | refine keeps_take_wait (by assumption) ?_
      | refine keeps_alloc_wait (by assumption) ?_
    | split
    | dsimp only

theorem putWord_keeps {s0 : State} {s : State} {a : Nat} {v : Nat} (h : Keeps s0 s) :
    Keeps s0 (putWord s a v) := by
  unfold putWord
  try dsimp only
  repeat' first
    | with_reducible assumption
    | intro _
    | split
    | ((with_reducible apply keeps_mk_full); (with_reducible
        first
        | assumption))
    | exact EepromKeeps.refl _
    | exact EepromKeeps.mk rfl rfl rfl rfl rfl rfl rfl (by first | exact Nat.le_refl _ | exact Nat.le_succ _)
    | with_reducible exact KeysOk.refl _ _
    | (refine BytesOk.of fun a b c d e => ⟨?_, ?_, ?_, ?_, ?_⟩) <;> repeat' first
        | assumption | exact memWf_nil | apply memWf_clear | apply memWf_putNat | apply memWf_write | apply memWf_copy
        | apply memWf_filter | apply memWf_put | apply memWf_foldl | intro _ | split
    | dsimp only

theorem needDirectory_keeps {s0 : State} {s : State} {c : Nat} {draft : Bool} (h : Keeps s0 s) :
    (needDirectory s c draft).Keeps s0 := by
  unfold needDirectory
  try dsimp only
  repeat' first
    | with_reducible assumption
    | intro _
    | with_reducible first
      | apply keeps_ite | apply take_held | apply take_wait | apply take_fail | apply take_ite
      | apply takePage_keeps | apply setPt_keeps | refine keeps_take_held (by assumption) ?_
      | refine keeps_take_wait (by assumption) ?_
    | split
    | dsimp only

theorem needTable_keeps {s0 : State} {s : State} {c : Nat} {draft : Bool} {e : Nat} (h : Keeps s0 s) :
    (needTable s c draft e).Keeps s0 := by
  unfold needTable
  try dsimp only
  repeat' first
    | with_reducible assumption
    | intro _
    | with_reducible first
      | apply take_held | apply take_wait | apply take_fail | apply take_ite | apply needDirectory_keeps
      | apply takePage_keeps | apply putWord_keeps | refine keeps_take_held (by assumption) ?_
      | refine keeps_take_wait (by assumption) ?_
    | split
    | dsimp only

theorem needPage_keeps {s0 : State} {s : State} {c : Nat} {draft : Bool} {m : Nat} {layer : Nat} {pos : Nat} (h :
    Keeps s0 s) :
    (needPage s c draft m layer pos).Keeps s0 := by
  unfold needPage
  try dsimp only
  repeat' first
    | with_reducible assumption
    | intro _
    | with_reducible first
      | apply take_held | apply take_wait | apply take_fail | apply take_ite | apply needTable_keeps
      | apply takePage_keeps | apply putWord_keeps | refine keeps_take_held (by assumption) ?_
      | refine keeps_take_wait (by assumption) ?_
    | split
    | dsimp only

theorem returnPage_keeps {s0 : State} {late : List Nat} {s : State} {p : Nat} {k : KvPage} (h : Keeps s0 s) :
    Keeps s0 (returnPage late s p k) := by
  unfold returnPage
  try dsimp only
  repeat' first
    | with_reducible assumption
    | intro _
    | with_reducible first
      | apply keeps_ite | apply putWord_keeps | apply bump_keeps
    | split
    | with_reducible exact SameBytes.mk rfl rfl rfl
    | with_reducible exact SameBox.mk rfl
    | with_reducible exact KeysOk.refl _ _
    | ((with_reducible apply keeps_mk); (with_reducible
        first
        | assumption | apply keeps_ite | apply putWord_keeps | apply bump_keeps))
    | dsimp only

theorem kvSweep_keeps {s0 : State} {late : List Nat} {s : State} (h : Keeps s0 s) :
    Keeps s0 (kvSweep late s) := by
  unfold kvSweep
  try dsimp only
  repeat' first
    | with_reducible assumption
    | intro _
    | with_reducible first
      | apply keeps_foldl | apply returnPage_keeps | apply reportPages_keeps | apply releaseUnits_keeps
    | split
    | dsimp only

theorem cutModel_keeps {s0 : State} {s : State} {c : Nat} {draft : Bool} {n : Nat} (h : Keeps s0 s) :
    Keeps s0 (cutModel s c draft n) := by
  unfold cutModel
  try dsimp only
  repeat' first
    | with_reducible assumption
    | intro _
    | with_reducible first
      | apply keeps_ite | apply setDraftLen_keeps | apply setLen_keeps | apply setPt_keeps
    | split
    | with_reducible exact SameBytes.mk rfl rfl rfl
    | with_reducible exact SameBox.mk rfl
    | with_reducible exact KeysOk.refl _ _
    | ((with_reducible apply keeps_mk); (with_reducible
        first
        | assumption | apply keeps_ite | apply setDraftLen_keeps | apply setLen_keeps | apply setPt_keeps))
    | dsimp only

theorem cutKv_keeps {s0 : State} {s : State} {c : Nat} {n : Nat} (h : Keeps s0 s) :
    Keeps s0 (cutKv s c n) := by
  unfold cutKv
  try dsimp only
  repeat' first
    | with_reducible assumption
    | intro _
    | with_reducible first
      | apply cutModel_keeps
    | split
    | dsimp only

theorem kvReleaseBody_keeps {s0 : State} {s : State} {id : Nat} {j : Job} (h : Keeps s0 s) :
    Keeps s0 (kvReleaseBody s id j) := by
  unfold kvReleaseBody
  try dsimp only
  repeat' first
    | with_reducible assumption
    | intro _
    | with_reducible first
      | apply keeps_ite | apply finish_keeps | apply cutKv_keeps
    | split
    | dsimp only

theorem execKvRelease_keeps (job : Nat) (s : State) : Answers s (execKvRelease job s) := by
  refine answers_next ?_
  have h := Keeps.refl s
  repeat' first
    | with_reducible assumption
    | intro _
    | with_reducible first
      | apply runJob_keeps | apply kvReleaseBody_keeps
    | split
    | dsimp only

theorem genRelease_keeps {s0 : State} {s : State} {c : Nat} {d : Nat} (h : Keeps s0 s) :
    Keeps s0 (genRelease s c d) := by
  unfold genRelease
  try dsimp only
  repeat' first
    | with_reducible assumption
    | intro _
    | with_reducible first
      | apply keeps_ite | apply cutKv_keeps | apply updCtx_keeps
    | split
    | with_reducible exact SameBytes.mk rfl rfl rfl
    | with_reducible exact SameBox.mk rfl
    | with_reducible exact KeysOk.refl _ _
    | ((with_reducible apply keeps_mk); (with_reducible
        first
        | assumption | apply keeps_ite | apply cutKv_keeps | apply updCtx_keeps))
    | dsimp only

theorem freeSweep_keeps {s0 : State} {s : State} (h : Keeps s0 s) :
    Keeps s0 (freeSweep s) := by
  unfold freeSweep
  try dsimp only
  repeat' first
    | with_reducible assumption
    | intro _
    | with_reducible first
      | apply keeps_foldl | apply setCtx_keeps | apply dropPages_keeps | apply releaseUnits_keeps
      | apply fence_keeps
    | split
    | with_reducible exact SameBytes.mk rfl rfl rfl
    | with_reducible exact SameBox.mk rfl
    | with_reducible exact KeysOk.refl _ _
    | ((with_reducible apply keeps_mk); (with_reducible
        first
        | assumption | apply keeps_foldl | apply setCtx_keeps | apply dropPages_keeps | apply releaseUnits_keeps
        | apply fence_keeps))
    | dsimp only

theorem genRefuse_keeps {s0 : State} {s : State} {id : Nat} {c : Nat} {d : Nat} {status : Nat} (h : Keeps s0 s) :
    Keeps s0 (genRefuse s id c d status) := by
  unfold genRefuse
  try dsimp only
  repeat' first
    | with_reducible assumption
    | intro _
    | with_reducible first
      | apply keeps_ite | apply setEndReason_keeps | apply finish_keeps | apply genRelease_keeps
    | split
    | dsimp only

theorem genAbort_keeps {s0 : State} {s : State} {id : Nat} (h : Keeps s0 s) :
    Keeps s0 (genAbort s id) := by
  unfold genAbort
  try dsimp only
  repeat' first
    | with_reducible assumption
    | intro _
    | with_reducible first
      | apply keeps_ite | apply genRelease_keeps | apply setGs_keeps | apply setEndReason_keeps | apply updJob_keeps
      | apply updGen_keeps
    | split
    | with_reducible exact SameBytes.mk rfl rfl rfl
    | with_reducible exact SameBox.mk rfl
    | with_reducible exact KeysOk.refl _ _
    | ((with_reducible apply keeps_mk); (with_reducible
        first
        | assumption | apply keeps_ite | apply genRelease_keeps | apply setGs_keeps | apply setEndReason_keeps
        | apply updJob_keeps | apply updGen_keeps))
    | dsimp only

theorem genWrites_keeps {s0 : State} {id : Nat} {x1 : Nat} {x2 : State} (h : Keeps s0 x2) :
    Keeps s0 (genWrites id x1 x2) := by
  induction x1 generalizing x2 with
  | zero =>
    unfold genWrites
    try dsimp only
    repeat' first
      | with_reducible assumption
      | intro _
      | with_reducible first
        | apply ih | apply keeps_ite | apply prep_ready | apply prep_wait | apply prep_fail | apply prep_ite
        | apply prepareWrite_keeps | apply notePosted_keeps | apply updGen_keeps | apply writeBytes_keeps
        | apply finish_keeps | refine keeps_prep_ready (by assumption) ?_ | refine keeps_prep_wait (by assumption) ?_
        | refine keeps_prep_fail (by assumption) ?_
      | split
      | with_reducible exact SameBytes.mk rfl rfl rfl
      | with_reducible exact SameBox.mk rfl
      | with_reducible exact KeysOk.refl _ _
      | ((with_reducible apply keeps_mk); (with_reducible
          first
          | assumption | apply ih | apply keeps_ite | apply prep_ready | apply prep_wait | apply prep_fail
          | apply prep_ite | apply prepareWrite_keeps | apply notePosted_keeps | apply updGen_keeps
          | apply writeBytes_keeps | apply finish_keeps | refine keeps_prep_ready (by assumption) ?_
          | refine keeps_prep_wait (by assumption) ?_ | refine keeps_prep_fail (by assumption) ?_))
      | dsimp only
  | succ n ih =>
    unfold genWrites
    try dsimp only
    repeat' first
      | with_reducible assumption
      | intro _
      | with_reducible first
        | apply ih | apply keeps_ite | apply prep_ready | apply prep_wait | apply prep_fail | apply prep_ite
        | apply prepareWrite_keeps | apply notePosted_keeps | apply updGen_keeps | apply writeBytes_keeps
        | apply finish_keeps | refine keeps_prep_ready (by assumption) ?_ | refine keeps_prep_wait (by assumption) ?_
        | refine keeps_prep_fail (by assumption) ?_
      | split
      | with_reducible exact SameBytes.mk rfl rfl rfl
      | with_reducible exact SameBox.mk rfl
      | with_reducible exact KeysOk.refl _ _
      | ((with_reducible apply keeps_mk); (with_reducible
          first
          | assumption | apply ih | apply keeps_ite | apply prep_ready | apply prep_wait | apply prep_fail
          | apply prep_ite | apply prepareWrite_keeps | apply notePosted_keeps | apply updGen_keeps
          | apply writeBytes_keeps | apply finish_keeps | refine keeps_prep_ready (by assumption) ?_
          | refine keeps_prep_wait (by assumption) ?_ | refine keeps_prep_fail (by assumption) ?_))
      | dsimp only

theorem genFinish_keeps {s0 : State} {s : State} {id : Nat} (h : Keeps s0 s) :
    Keeps s0 (genFinish s id) := by
  unfold genFinish
  try dsimp only
  repeat' first
    | with_reducible assumption
    | intro _
    | with_reducible first
      | apply keeps_ite | apply finish_keeps
    | split
    | dsimp only

theorem genFlush_keeps {s0 : State} {s : State} {id : Nat} (h : Keeps s0 s) :
    Keeps s0 (genFlush s id) := by
  unfold genFlush
  try dsimp only
  repeat' first
    | with_reducible assumption
    | intro _
    | with_reducible first
      | apply genFinish_keeps | apply genWrites_keeps
    | split
    | dsimp only

theorem genComplete_keeps {s0 : State} {s : State} {id : Nat} (h : Keeps s0 s) :
    Keeps s0 (genComplete s id).2 := by
  unfold genComplete
  try dsimp only
  repeat' first
    | with_reducible assumption
    | intro _
    | with_reducible first
      | apply keeps_ite | apply keeps_ite_snd | apply keeps_foldl_snd | apply genAbort_keeps | apply genWrites_keeps
      | refine keeps_pair_snd (by assumption) ?_
    | split
    | with_reducible exact SameBytes.mk rfl rfl rfl
    | with_reducible exact SameBox.mk rfl
    | with_reducible exact KeysOk.refl _ _
    | ((with_reducible apply keeps_mk); (with_reducible
        first
        | assumption | apply keeps_ite | apply keeps_ite_snd | apply keeps_foldl_snd | apply genAbort_keeps
        | apply genWrites_keeps | refine keeps_pair_snd (by assumption) ?_))
    | dsimp only

theorem tallyGen_keeps {s0 : State} {s : State} {id : Nat} {c : Nat} {event : Nat} {n : Nat} (h : Keeps s0 s) :
    Keeps s0 (tallyGen s id c event n) := by
  unfold tallyGen
  try dsimp only
  repeat' first
    | with_reducible assumption
    | intro _
    | with_reducible first
      | apply tallyJob_keeps
    | split
    | with_reducible exact SameBytes.mk rfl rfl rfl
    | with_reducible exact SameBox.mk rfl
    | with_reducible exact KeysOk.refl _ _
    | ((with_reducible apply keeps_mk); (with_reducible
        first
        | assumption | apply tallyJob_keeps))
    | dsimp only

theorem veilMaskFetchDone_keeps {s0 : State} {s : State} {id : Nat} {st : Nat} {cached : Bool} (h : Keeps s0 s) :
    Keeps s0 (veilMaskFetchDone s id st cached) := by
  unfold veilMaskFetchDone
  try dsimp only
  repeat' first
    | with_reducible assumption
    | intro _
    | with_reducible first
      | apply keeps_ite | apply keeps_foldl | apply finish_keeps | apply touchRange_keeps | apply tallyGen_keeps
      | apply bump_keeps | apply updGen_keeps | apply closeUnit_keeps
    | split
    | with_reducible exact SameBytes.mk rfl rfl rfl
    | with_reducible exact SameBox.mk rfl
    | with_reducible exact KeysOk.refl _ _
    | ((with_reducible apply keeps_mk); (with_reducible
        first
        | assumption | apply keeps_ite | apply keeps_foldl | apply finish_keeps | apply touchRange_keeps
        | apply tallyGen_keeps | apply bump_keeps | apply updGen_keeps | apply closeUnit_keeps))
    | dsimp only

theorem execVeilMaskFetchDone_keeps (job : Nat) (state : Nat) (cached : Bool) (s : State) : Answers s (execVeilMaskFetchDone job state cached s) := by
  refine answers_next ?_
  have h := Keeps.refl s
  repeat' first
    | with_reducible assumption
    | intro _
    | with_reducible first
      | apply veilMaskFetchDone_keeps
    | split
    | dsimp only

theorem pinGen_keeps {s0 : State} {s : State} {id : Nat} (h : Keeps s0 s) :
    Keeps s0 (pinGen s id) := by
  unfold pinGen
  try dsimp only
  repeat' first
    | with_reducible assumption
    | intro _
    | with_reducible first
      | apply keeps_ite | apply pinVocab_keeps | apply pinTable_keeps
    | split
    | with_reducible exact SameBytes.mk rfl rfl rfl
    | with_reducible exact SameBox.mk rfl
    | with_reducible exact KeysOk.refl _ _
    | ((with_reducible apply keeps_mk); (with_reducible
        first
        | assumption | apply keeps_ite | apply pinVocab_keeps | apply pinTable_keeps))
    | dsimp only

theorem genRunAdmit_keeps {s0 : State} {s : State} {id : Nat} (h : Keeps s0 s) :
    Keeps s0 (genRunAdmit s id) := by
  unfold genRunAdmit
  try dsimp only
  repeat' first
    | with_reducible assumption
    | intro _
    | with_reducible first
      | apply keeps_ite | apply updJob_keeps | apply setGs_keeps | apply pinGen_keeps
    | split
    | with_reducible exact SameBytes.mk rfl rfl rfl
    | with_reducible exact SameBox.mk rfl
    | with_reducible exact KeysOk.refl _ _
    | ((with_reducible apply keeps_mk); (with_reducible
        first
        | assumption | apply keeps_ite | apply updJob_keeps | apply setGs_keeps | apply pinGen_keeps))
    | dsimp only

theorem continueToken_keeps {s0 : State} {s : State} {c : Nat} {vocab : Nat} (h : Keeps s0 s) :
    Keeps s0 (continueToken s c vocab).2 := by
  unfold continueToken
  try dsimp only
  repeat' first
    | with_reducible assumption
    | intro _
    | with_reducible first
      | apply keeps_ite | apply keeps_ite_snd | apply keeps_foldl_snd | apply takeFree_keeps
      | refine keeps_pair_snd (by assumption) ?_
    | split
    | dsimp only

theorem setGen_keeps {s0 : State} {s : State} {id : Nat} {g : GenReq} (h : Keeps s0 s) :
    Keeps s0 (setGen s id g) := by
  unfold setGen
  try dsimp only
  repeat' first
    | with_reducible assumption
    | intro _
    | split
    | with_reducible exact SameBytes.mk rfl rfl rfl
    | with_reducible exact SameBox.mk rfl
    | with_reducible exact KeysOk.refl _ _
    | ((with_reducible apply keeps_mk); (with_reducible
        first
        | assumption))
    | dsimp only

theorem genTake_keeps {s0 : State} {s : State} {id : Nat} {j : Job} {d : Nat} {b : Nat} {m : Nat} {f : Nat} {prompt
    : List Nat} (h : Keeps s0 s) :
    Keeps s0 (genTake s id j d b m f prompt) := by
  unfold genTake
  try dsimp only
  repeat' first
    | with_reducible assumption
    | intro _
    | with_reducible first
      | apply keeps_ite | apply keeps_ite_snd | apply keeps_foldl_snd | apply finish_keeps | apply setGen_keeps
      | apply cutKv_keeps | apply continueToken_keeps | apply updCtx_keeps | apply setGs_keeps | apply updJob_keeps
      | refine keeps_pair_snd (by assumption) ?_
    | split
    | with_reducible exact SameBytes.mk rfl rfl rfl
    | with_reducible exact SameBox.mk rfl
    | with_reducible exact KeysOk.refl _ _
    | ((with_reducible apply keeps_mk); (with_reducible
        first
        | assumption | apply keeps_ite | apply keeps_ite_snd | apply keeps_foldl_snd | apply finish_keeps
        | apply setGen_keeps | apply cutKv_keeps | apply continueToken_keeps | apply updCtx_keeps
        | apply setGs_keeps | apply updJob_keeps | refine keeps_pair_snd (by assumption) ?_))
    | dsimp only

theorem genMailbox_keeps {s0 : State} {s : State} {id : Nat} {j : Job} {d : Nat} {b : Nat} {m : Nat} {f : Nat} (h :
    Keeps s0 s) :
    Keeps s0 (genMailbox s id j d b m f) := by
  unfold genMailbox
  try dsimp only
  repeat' first
    | with_reducible assumption
    | intro _
    | with_reducible first
      | apply touchRange_keeps | apply touchRanges_keeps
      | apply keeps_ite | apply genRefuse_keeps | apply updJob_keeps | apply setGen_keeps | apply genTake_keeps
      | apply updCtx_keeps
    | split
    | with_reducible exact SameBytes.mk rfl rfl rfl
    | with_reducible exact SameBox.mk rfl
    | with_reducible exact KeysOk.refl _ _
    | ((with_reducible apply keeps_mk); (with_reducible
        first
        | apply touchRange_keeps | apply touchRanges_keeps
        | assumption | apply keeps_ite | apply genRefuse_keeps | apply updJob_keeps | apply setGen_keeps
        | apply genTake_keeps | apply updCtx_keeps))
    | dsimp only

theorem mailboxSweep_keeps {s0 : State} {s : State} (h : Keeps s0 s) :
    Keeps s0 (mailboxSweep s) := by
  unfold mailboxSweep
  try dsimp only
  repeat' first
    | with_reducible assumption
    | intro _
    | with_reducible first
      | apply keeps_ite | apply keeps_foldl | apply updJob_keeps | apply genMailbox_keeps
    | split
    | with_reducible exact SameBytes.mk rfl rfl rfl
    | with_reducible exact SameBox.mk rfl
    | with_reducible exact KeysOk.refl _ _
    | ((with_reducible apply keeps_mk); (with_reducible
        first
        | assumption | apply keeps_ite | apply keeps_foldl | apply updJob_keeps | apply genMailbox_keeps))
    | dsimp only

theorem genStart_keeps {s0 : State} {s : State} {id : Nat} {j : Job} (h : Keeps s0 s) :
    Keeps s0 (genStart s id j) := by
  unfold genStart
  try dsimp only
  repeat' first
    | with_reducible assumption
    | intro _
    | with_reducible first
      | apply touchRange_keeps | apply touchRanges_keeps
      | apply keeps_ite | apply finish_keeps | apply fetchMore_keeps | apply genRefuse_keeps | apply pinGen_keeps
      | apply updJob_keeps | apply setGen_keeps | apply genMailbox_keeps | apply genTake_keeps
      | apply touchRange_keeps
    | split
    | with_reducible exact SameBytes.mk rfl rfl rfl
    | with_reducible exact SameBox.mk rfl
    | with_reducible exact KeysOk.refl _ _
    | ((with_reducible apply keeps_mk); (with_reducible
        first
        | apply touchRange_keeps | apply touchRanges_keeps
        | assumption | apply keeps_ite | apply finish_keeps | apply fetchMore_keeps | apply genRefuse_keeps
        | apply pinGen_keeps | apply updJob_keeps | apply setGen_keeps | apply genMailbox_keeps
        | apply genTake_keeps | apply touchRange_keeps))
    | dsimp only

theorem halfPage_keeps {s0 : State} {s : State} {c : Nat} {draft : Bool} {m : Nat} {start : Nat} {layer : Nat} {h_ :
    Nat} (h : Keeps s0 s) :
    Keeps s0 (halfPage s c draft m start layer h_).2 := by
  unfold halfPage
  try dsimp only
  repeat' first
    | with_reducible assumption
    | intro _
    | with_reducible first
      | apply keeps_ite_snd | apply keeps_foldl_snd | apply touchRange_keeps | apply takeFree_keeps
      | refine keeps_pair_snd (by assumption) ?_
    | split
    | dsimp only

theorem updGenRun_keeps {s0 : State} {s : State} {id : Nat} {f : GenRun → GenRun} (h : Keeps s0 s) :
    Keeps s0 (updGenRun s id f) := by
  unfold updGenRun
  try dsimp only
  repeat' first
    | with_reducible assumption
    | intro _
    | with_reducible first
      | apply updGen_keeps
    | split
    | with_reducible exact SameBytes.mk rfl rfl rfl
    | with_reducible exact SameBox.mk rfl
    | with_reducible exact KeysOk.refl _ _
    | ((with_reducible apply keeps_mk); (with_reducible
        first
        | assumption | apply updGen_keeps))
    | dsimp only

theorem moveIn_keeps {s0 : State} {id : Nat} {s : State} {k : Nat} (h : Keeps s0 s) :
    Keeps s0 (moveIn id s k) := by
  unfold moveIn
  try dsimp only
  repeat' first
    | with_reducible assumption
    | intro _
    | with_reducible first
      | apply keeps_ite | apply keeps_ite_snd | apply keeps_foldl_snd | apply updJob_keeps | apply finish_keeps
      | apply halfPage_keeps | apply lbWrite_keeps | apply countStrays_keeps | apply updGenRun_keeps
      | apply updCtx_keeps | refine keeps_pair_snd (by assumption) ?_
    | split
    | with_reducible exact SameBytes.mk rfl rfl rfl
    | with_reducible exact SameBox.mk rfl
    | with_reducible exact KeysOk.refl _ _
    | ((with_reducible apply keeps_mk); (with_reducible
        first
        | assumption | apply keeps_ite | apply keeps_ite_snd | apply keeps_foldl_snd | apply updJob_keeps
        | apply finish_keeps | apply halfPage_keeps | apply lbWrite_keeps | apply countStrays_keeps
        | apply updGenRun_keeps | apply updCtx_keeps | refine keeps_pair_snd (by assumption) ?_))
    | dsimp only

theorem putEntries_keeps {s0 : State} {c : Nat} {draft : Bool} {m : Nat} {x3 : State} {x4 : List (Nat × Nat × List
    Nat)} (h : Keeps s0 x3) :
    (putEntries c draft m x3 x4).Keeps s0 := by
  induction x4 generalizing x3 with
  | nil =>
    unfold putEntries
    try dsimp only
    repeat' first
      | with_reducible assumption
      | intro _
      | with_reducible first
        | apply ih | apply take_held | apply take_wait | apply take_fail | apply take_ite | apply needPage_keeps
        | apply noteStall_keeps | apply writeBytes_keeps | refine keeps_take_held (by assumption) ?_
        | refine keeps_take_wait (by assumption) ?_
      | split
      | dsimp only
  | cons x l ih =>
    unfold putEntries
    try dsimp only
    repeat' first
      | with_reducible assumption
      | intro _
      | with_reducible first
        | apply ih | apply take_held | apply take_wait | apply take_fail | apply take_ite | apply needPage_keeps
        | apply noteStall_keeps | apply writeBytes_keeps | refine keeps_take_held (by assumption) ?_
        | refine keeps_take_wait (by assumption) ?_
      | split
      | dsimp only

theorem moveOut_keeps {s0 : State} {id : Nat} {s : State} {k : Nat} (h : Keeps s0 s) :
    Keeps s0 (moveOut id s k) := by
  unfold moveOut
  try dsimp only
  repeat' first
    | with_reducible assumption
    | intro _
    | with_reducible first
      | apply keeps_ite | apply take_held | apply take_wait | apply take_fail | apply take_ite | apply updJob_keeps
      | apply putEntries_keeps | apply countStrays_keeps | apply updGenRun_keeps | apply updCtx_keeps
      | apply finish_keeps | refine keeps_take_held (by assumption) ?_ | refine keeps_take_wait (by assumption) ?_
    | split
    | with_reducible exact SameBytes.mk rfl rfl rfl
    | with_reducible exact SameBox.mk rfl
    | with_reducible exact KeysOk.refl _ _
    | ((with_reducible apply keeps_mk); (with_reducible
        first
        | assumption | apply keeps_ite | apply take_held | apply take_wait | apply take_fail | apply take_ite
        | apply updJob_keeps | apply putEntries_keeps | apply countStrays_keeps | apply updGenRun_keeps
        | apply updCtx_keeps | apply finish_keeps | refine keeps_take_held (by assumption) ?_
        | refine keeps_take_wait (by assumption) ?_))
    | dsimp only

theorem movePages_keeps {s0 : State} {s : State} {id : Nat} {m : Nat} (h : Keeps s0 s) :
    Keeps s0 (movePages s id m) := by
  unfold movePages
  try dsimp only
  repeat' first
    | with_reducible assumption
    | intro _
    | with_reducible first
      | apply keeps_foldl | apply updJob_keeps | apply moveOut_keeps | apply moveIn_keeps
    | split
    | with_reducible exact SameBytes.mk rfl rfl rfl
    | with_reducible exact SameBox.mk rfl
    | with_reducible exact KeysOk.refl _ _
    | ((with_reducible apply keeps_mk); (with_reducible
        first
        | assumption | apply keeps_foldl | apply updJob_keeps | apply moveOut_keeps | apply moveIn_keeps))
    | dsimp only

theorem genLaunch_keeps {s0 : State} {s : State} {id : Nat} {g : GenReq} {draft : Bool} {start : Nat} {toks : List
    Nat} {logitFrom : Option Nat} (h : Keeps s0 s) :
    Keeps s0 (genLaunch s id g draft start toks logitFrom) := by
  unfold genLaunch
  try dsimp only
  repeat' first
    | with_reducible assumption
    | intro _
    | with_reducible first
      | apply keeps_ite | apply keeps_foldl | apply finish_keeps | apply deliverBatch_keeps | apply touchRange_keeps
      | apply nextRun_keeps | apply countEmbeddings_keeps | apply startRun_keeps | apply updGen_keeps
    | split
    | with_reducible exact SameBytes.mk rfl rfl rfl
    | with_reducible exact SameBox.mk rfl
    | with_reducible exact KeysOk.refl _ _
    | ((with_reducible apply keeps_mk); (with_reducible
        first
        | assumption | apply keeps_ite | apply keeps_foldl | apply finish_keeps | apply deliverBatch_keeps
        | apply touchRange_keeps | apply nextRun_keeps | apply countEmbeddings_keeps | apply startRun_keeps
        | apply updGen_keeps))
    | dsimp only

theorem genRunEnd_keeps {s0 : State} {s : State} {id : Nat} {g : GenReq} {r : GenRun} {go : State → List (List Nat)
    → State} (h : Keeps s0 s) (h1 : ∀ u0 u1, Keeps s0 u0 → Keeps s0 (go u0 u1)) :
    Keeps s0 (genRunEnd s id g r go) := by
  unfold genRunEnd
  try dsimp only
  repeat' first
    | with_reducible assumption
    | intro _
    | with_reducible first
      | apply h1 | apply keeps_ite | apply updCtx_keeps | apply dropRun_keeps | apply updGen_keeps
      | apply updJob_keeps
    | split
    | with_reducible exact SameBytes.mk rfl rfl rfl
    | with_reducible exact SameBox.mk rfl
    | with_reducible exact KeysOk.refl _ _
    | ((with_reducible apply keeps_mk); (with_reducible
        first
        | assumption | apply h1 | apply keeps_ite | apply updCtx_keeps | apply dropRun_keeps
        | apply updGen_keeps | apply updJob_keeps))
    | dsimp only

theorem beginStep_keeps {s0 : State} {s : State} {id : Nat} {g : GenReq} {due : Nat} (h : Keeps s0 s) :
    Keeps s0 (beginStep s id g due) := by
  unfold beginStep
  try dsimp only
  repeat' first
    | with_reducible assumption
    | intro _
    | with_reducible first
      | apply keeps_ite | apply updGen_keeps
    | split
    | with_reducible exact SameBytes.mk rfl rfl rfl
    | with_reducible exact SameBox.mk rfl
    | with_reducible exact KeysOk.refl _ _
    | ((with_reducible apply keeps_mk); (with_reducible
        first
        | assumption | apply keeps_ite | apply updGen_keeps))
    | dsimp only

theorem prefillEnd_keeps {s0 : State} {s : State} {id : Nat} {g : GenReq} (h : Keeps s0 s) :
    Keeps s0 (prefillEnd s id g) := by
  unfold prefillEnd
  try dsimp only
  repeat' first
    | with_reducible assumption
    | intro _
    | with_reducible first
      | apply keeps_ite | apply setLen_keeps | apply setDraftLen_keeps | apply updGen_keeps
    | split
    | with_reducible exact SameBytes.mk rfl rfl rfl
    | with_reducible exact SameBox.mk rfl
    | with_reducible exact KeysOk.refl _ _
    | ((with_reducible apply keeps_mk); (with_reducible
        first
        | assumption | apply keeps_ite | apply setLen_keeps | apply setDraftLen_keeps | apply updGen_keeps))
    | dsimp only

theorem prefillNext_keeps {s0 : State} {s : State} {id : Nat} {draft : Bool} {done : Nat} {ls : List (List Nat)} (h
    : Keeps s0 s) :
    Keeps s0 (prefillNext s id draft done ls) := by
  unfold prefillNext
  try dsimp only
  repeat' first
    | with_reducible assumption
    | intro _
    | with_reducible first
      | apply keeps_ite | apply updGen_keeps | apply prefillEnd_keeps
    | split
    | with_reducible exact SameBytes.mk rfl rfl rfl
    | with_reducible exact SameBox.mk rfl
    | with_reducible exact KeysOk.refl _ _
    | ((with_reducible apply keeps_mk); (with_reducible
        first
        | assumption | apply keeps_ite | apply updGen_keeps | apply prefillEnd_keeps))
    | dsimp only

theorem countProcessed_keeps {s0 : State} {s : State} {id : Nat} {c : Nat} {p : Processed} {drawn : Bool} (h : Keeps
    s0 s) :
    Keeps s0 (countProcessed s id c p drawn) := by
  unfold countProcessed
  try dsimp only
  repeat' first
    | with_reducible assumption
    | intro _
    | with_reducible first
      | apply keeps_ite | apply bump_keeps | apply tallyGen_keeps
    | split
    | dsimp only

theorem cutDraft_keeps {s0 : State} {s : State} {id : Nat} (h : Keeps s0 s) :
    Keeps s0 (cutDraft s id) := by
  unfold cutDraft
  try dsimp only
  repeat' first
    | with_reducible assumption
    | intro _
    | with_reducible first
      | apply bump_keeps | apply updGen_keeps
    | split
    | with_reducible exact SameBytes.mk rfl rfl rfl
    | with_reducible exact SameBox.mk rfl
    | with_reducible exact KeysOk.refl _ _
    | ((with_reducible apply keeps_mk); (with_reducible
        first
        | assumption | apply bump_keeps | apply updGen_keeps))
    | dsimp only

theorem drawDraft_keeps {s0 : State} {s : State} {id : Nat} {g : GenReq} {ls : List Nat} (h : Keeps s0 s) :
    Keeps s0 (drawDraft s id g ls) := by
  unfold drawDraft
  try dsimp only
  repeat' first
    | with_reducible assumption
    | intro _
    | with_reducible first
      | apply keeps_ite | apply countProcessed_keeps | apply cutDraft_keeps | apply updGen_keeps
    | split
    | with_reducible exact SameBytes.mk rfl rfl rfl
    | with_reducible exact SameBox.mk rfl
    | with_reducible exact KeysOk.refl _ _
    | ((with_reducible apply keeps_mk); (with_reducible
        first
        | assumption | apply keeps_ite | apply countProcessed_keeps | apply cutDraft_keeps | apply updGen_keeps))
    | dsimp only

theorem draftStep_keeps {s0 : State} {s : State} {id : Nat} {g : GenReq} (h : Keeps s0 s) :
    Keeps s0 (draftStep s id g) := by
  unfold draftStep
  try dsimp only
  repeat' first
    | with_reducible assumption
    | intro _
    | with_reducible first
      | apply keeps_ite | apply cutDraft_keeps | apply drawDraft_keeps | apply genLaunch_keeps
    | split
    | dsimp only

theorem genRunBody_keeps {s0 : State} {s : State} {id : Nat} {j : Job} (h : Keeps s0 s) :
    Keeps s0 (genRunBody s id j) := by
  unfold genRunBody
  try dsimp only
  repeat' first
    | with_reducible assumption
    | intro _
    | with_reducible first
      | apply keeps_ite | apply genStart_keeps | apply genFlush_keeps | apply genRunEnd_keeps
      | apply prefillNext_keeps | apply updGen_keeps | apply movePages_keeps | apply genLaunch_keeps
      | apply draftStep_keeps
    | split
    | with_reducible exact SameBytes.mk rfl rfl rfl
    | with_reducible exact SameBox.mk rfl
    | with_reducible exact KeysOk.refl _ _
    | ((with_reducible apply keeps_mk); (with_reducible
        first
        | assumption | apply keeps_ite | apply genStart_keeps | apply genFlush_keeps | apply genRunEnd_keeps
        | apply prefillNext_keeps | apply updGen_keeps | apply movePages_keeps | apply genLaunch_keeps
        | apply draftStep_keeps))
    | dsimp only

theorem execGenRun_keeps (job : Nat) (s : State) : Answers s (execGenRun job s) := by
  refine answers_next ?_
  have h := Keeps.refl s
  repeat' first
    | with_reducible assumption
    | intro _
    | with_reducible first
      | apply runJob_keeps | apply genRunBody_keeps
    | split
    | dsimp only

theorem maskReadyOne_keeps {s0 : State} {s : State} {id : Nat} (h : Keeps s0 s) :
    Keeps s0 (maskReadyOne s id) := by
  unfold maskReadyOne
  try dsimp only
  repeat' first
    | with_reducible assumption
    | intro _
    | with_reducible first
      | apply keeps_ite | apply updGen_keeps | apply tallyGen_keeps | apply bump_keeps | apply setGs_keeps
    | split
    | with_reducible exact SameBytes.mk rfl rfl rfl
    | with_reducible exact SameBox.mk rfl
    | with_reducible exact KeysOk.refl _ _
    | ((with_reducible apply keeps_mk); (with_reducible
        first
        | assumption | apply keeps_ite | apply updGen_keeps | apply tallyGen_keeps | apply bump_keeps
        | apply setGs_keeps))
    | dsimp only

theorem maskReadyEvent_keeps {s0 : State} {s : State} (h : Keeps s0 s) :
    Keeps s0 (maskReadyEvent s) := by
  unfold maskReadyEvent
  try dsimp only
  repeat' first
    | with_reducible assumption
    | intro _
    | with_reducible first
      | apply keeps_foldl | apply maskReadyOne_keeps
    | split
    | dsimp only

theorem decideStep_keeps {s0 : State} {s : State} {id : Nat} {g : GenReq} (h : Keeps s0 s) :
    Keeps s0 (decideStep s id g) := by
  unfold decideStep
  try dsimp only
  repeat' first
    | with_reducible assumption
    | intro _
    | with_reducible first
      | apply keeps_ite | apply keeps_foldl | apply countProcessed_keeps | apply updGen_keeps
    | split
    | with_reducible exact SameBytes.mk rfl rfl rfl
    | with_reducible exact SameBox.mk rfl
    | with_reducible exact KeysOk.refl _ _
    | ((with_reducible apply keeps_mk); (with_reducible
        first
        | assumption | apply keeps_ite | apply keeps_foldl | apply countProcessed_keeps | apply updGen_keeps))
    | dsimp only

theorem sampleOne_keeps {s0 : State} {s : State} {id : Nat} (h : Keeps s0 s) :
    Keeps s0 (sampleOne s id) := by
  unfold sampleOne
  try dsimp only
  repeat' first
    | with_reducible assumption
    | intro _
    | with_reducible first
      | apply keeps_ite | apply bump_keeps | apply updGen_keeps | apply decideStep_keeps
    | split
    | with_reducible exact SameBytes.mk rfl rfl rfl
    | with_reducible exact SameBox.mk rfl
    | with_reducible exact KeysOk.refl _ _
    | ((with_reducible apply keeps_mk); (with_reducible
        first
        | assumption | apply keeps_ite | apply bump_keeps | apply updGen_keeps | apply decideStep_keeps))
    | dsimp only

theorem sampleEvent_keeps {s0 : State} {s : State} (h : Keeps s0 s) :
    Keeps s0 (sampleEvent s) := by
  unfold sampleEvent
  try dsimp only
  repeat' first
    | with_reducible assumption
    | intro _
    | with_reducible first
      | apply keeps_foldl | apply sampleOne_keeps
    | split
    | dsimp only

theorem backoff_keeps {s0 : State} {s : State} {g : GenReq} (h : Keeps s0 s) :
    Keeps s0 (backoff s g) := by
  unfold backoff
  try dsimp only
  repeat' first
    | with_reducible assumption
    | intro _
    | with_reducible first
      | apply keeps_ite | apply setGs_keeps | apply bump_keeps
    | split
    | dsimp only

theorem advanceVeil_keeps {s0 : State} {s : State} {g : GenReq} {ts : List Nat} (h : Keeps s0 s) :
    Keeps s0 (advanceVeil s g ts) := by
  unfold advanceVeil
  try dsimp only
  repeat' first
    | with_reducible assumption
    | intro _
    | with_reducible first
      | apply keeps_foldl | apply setGs_keeps
    | split
    | dsimp only

theorem countStep_keeps {s0 : State} {s : State} {g : GenReq} {k : Nat} (h : Keeps s0 s) :
    Keeps s0 (countStep s g k) := by
  unfold countStep
  try dsimp only
  repeat' first
    | with_reducible assumption
    | intro _
    | with_reducible first
      | apply keeps_ite | apply bump_keeps | apply countDecode_keeps
    | split
    | dsimp only

theorem endAt_keeps {s0 : State} {s : State} {id : Nat} {g : GenReq} {reason : Nat} {part : Bool} (h : Keeps s0 s) :
    Keeps s0 (endAt s id g reason part) := by
  unfold endAt
  try dsimp only
  repeat' first
    | with_reducible assumption
    | intro _
    | with_reducible first
      | apply keeps_ite | apply setGs_keeps | apply setEndReason_keeps | apply bump_keeps | apply updGen_keeps
      | apply genRelease_keeps
    | split
    | with_reducible exact SameBytes.mk rfl rfl rfl
    | with_reducible exact SameBox.mk rfl
    | with_reducible exact KeysOk.refl _ _
    | ((with_reducible apply keeps_mk); (with_reducible
        first
        | assumption | apply keeps_ite | apply setGs_keeps | apply setEndReason_keeps | apply bump_keeps
        | apply updGen_keeps | apply genRelease_keeps))
    | dsimp only

theorem commitDead_keeps {s0 : State} {s : State} {id : Nat} {g : GenReq} (h : Keeps s0 s) :
    Keeps s0 (commitDead s id g) := by
  unfold commitDead
  try dsimp only
  repeat' first
    | with_reducible assumption
    | intro _
    | with_reducible first
      | apply genFlush_keeps | apply endAt_keeps | apply bump_keeps
    | split
    | dsimp only

theorem commitStep_keeps {s0 : State} {s : State} {id : Nat} {g : GenReq} (h : Keeps s0 s) :
    Keeps s0 (commitStep s id g) := by
  unfold commitStep
  try dsimp only
  repeat' first
    | with_reducible assumption
    | intro _
    | with_reducible first
      | apply keeps_ite | apply countStep_keeps | apply setDraftLen_keeps | apply setLen_keeps | apply backoff_keeps
      | apply bump_keeps | apply advanceVeil_keeps | apply updCtx_keeps | apply updGen_keeps | apply genFlush_keeps
      | apply endAt_keeps | apply beginStep_keeps
    | split
    | with_reducible exact SameBytes.mk rfl rfl rfl
    | with_reducible exact SameBox.mk rfl
    | with_reducible exact KeysOk.refl _ _
    | ((with_reducible apply keeps_mk); (with_reducible
        first
        | assumption | apply keeps_ite | apply countStep_keeps | apply setDraftLen_keeps | apply setLen_keeps
        | apply backoff_keeps | apply bump_keeps | apply advanceVeil_keeps | apply updCtx_keeps
        | apply updGen_keeps | apply genFlush_keeps | apply endAt_keeps | apply beginStep_keeps))
    | dsimp only

theorem commitOne_keeps {s0 : State} {s : State} {id : Nat} (h : Keeps s0 s) :
    Keeps s0 (commitOne s id) := by
  unfold commitOne
  try dsimp only
  repeat' first
    | with_reducible assumption
    | intro _
    | with_reducible first
      | apply keeps_ite | apply commitDead_keeps | apply progressOf_keeps | apply commitStep_keeps
    | split
    | dsimp only

theorem commitEvent_keeps {s0 : State} {s : State} (h : Keeps s0 s) :
    Keeps s0 (commitEvent s) := by
  unfold commitEvent
  try dsimp only
  repeat' first
    | with_reducible assumption
    | intro _
    | with_reducible first
      | apply keeps_foldl | apply commitOne_keeps
    | split
    | dsimp only

end Sys2Proof.Machine
end

