-- ==== Sys2Proof/Laws/KeepsPerf.lean ====
section
/-! SUPPORT. What every operation of Machine/Perf.lean keeps. -/

namespace Sys2Proof.Machine

theorem zeroImages_keeps {s0 : State} {s : State} {i : Nat} (h : Keeps s0 s) :
    Keeps s0 (zeroImages s i) := by
  unfold zeroImages
  try dsimp only
  repeat' first
    | with_reducible assumption
    | intro _
    | with_reducible first
      | apply keeps_foldl
    | split
    | ((with_reducible apply keeps_mk_full); (with_reducible
        first
        | assumption | apply keeps_foldl))
    | exact EepromKeeps.refl _
    | exact EepromKeeps.mk rfl rfl rfl rfl rfl rfl rfl (by first | exact Nat.le_refl _ | exact Nat.le_succ _)
    | with_reducible exact KeysOk.refl _ _
    | (refine BytesOk.of fun a b c d e => ⟨?_, ?_, ?_, ?_, ?_⟩) <;> repeat' first
        | assumption | exact memWf_nil | apply memWf_clear | apply memWf_putNat | apply memWf_write | apply memWf_copy
        | apply memWf_filter | apply memWf_put | apply memWf_foldl | intro _ | split
    | dsimp only

theorem applySelect_keeps {s0 : State} {s : State} {key : Nat} {value : Nat} (h : Keeps s0 s) :
    Keeps s0 (applySelect s key value) := by
  unfold applySelect
  try dsimp only
  repeat' first
    | with_reducible assumption
    | intro _
    | with_reducible first
      | apply keeps_ite | apply setReg_keeps | apply zeroImages_keeps
    | split
    | with_reducible exact SameBytes.mk rfl rfl rfl
    | with_reducible exact SameBox.mk rfl
    | with_reducible exact KeysOk.refl _ _
    | ((with_reducible apply keeps_mk); (with_reducible
        first
        | assumption | apply keeps_ite | apply setReg_keeps | apply zeroImages_keeps))
    | dsimp only

theorem exportStep_keeps {s0 : State} {x0 : Nat} {x1 : State} (h : Keeps s0 x1) :
    Keeps s0 (exportStep x0 x1) := by
  induction x0 generalizing x1 with
  | zero =>
    unfold exportStep
    try dsimp only
    repeat' first
      | with_reducible assumption
      | intro _
      | with_reducible first
        | apply ih | apply keeps_ite | apply prep_ready | apply prep_wait | apply prep_fail | apply prep_ite
        | apply bump_keeps | apply prepareWrite_keeps | apply writeBytes_keeps
        | refine keeps_prep_ready (by assumption) ?_ | refine keeps_prep_wait (by assumption) ?_
        | refine keeps_prep_fail (by assumption) ?_
      | split
      | with_reducible exact SameBytes.mk rfl rfl rfl
      | with_reducible exact SameBox.mk rfl
      | with_reducible exact KeysOk.refl _ _
      | ((with_reducible apply keeps_mk); (with_reducible
          first
          | assumption | apply ih | apply keeps_ite | apply prep_ready | apply prep_wait | apply prep_fail
          | apply prep_ite | apply bump_keeps | apply prepareWrite_keeps | apply writeBytes_keeps
          | refine keeps_prep_ready (by assumption) ?_ | refine keeps_prep_wait (by assumption) ?_
          | refine keeps_prep_fail (by assumption) ?_))
      | dsimp only
  | succ n ih =>
    unfold exportStep
    try dsimp only
    repeat' first
      | with_reducible assumption
      | intro _
      | with_reducible first
        | apply ih | apply keeps_ite | apply prep_ready | apply prep_wait | apply prep_fail | apply prep_ite
        | apply bump_keeps | apply prepareWrite_keeps | apply writeBytes_keeps
        | refine keeps_prep_ready (by assumption) ?_ | refine keeps_prep_wait (by assumption) ?_
        | refine keeps_prep_fail (by assumption) ?_
      | split
      | with_reducible exact SameBytes.mk rfl rfl rfl
      | with_reducible exact SameBox.mk rfl
      | with_reducible exact KeysOk.refl _ _
      | ((with_reducible apply keeps_mk); (with_reducible
          first
          | assumption | apply ih | apply keeps_ite | apply prep_ready | apply prep_wait | apply prep_fail
          | apply prep_ite | apply bump_keeps | apply prepareWrite_keeps | apply writeBytes_keeps
          | refine keeps_prep_ready (by assumption) ?_ | refine keeps_prep_wait (by assumption) ?_
          | refine keeps_prep_fail (by assumption) ?_))
      | dsimp only

theorem exportSweep_keeps {s0 : State} {s : State} (h : Keeps s0 s) :
    Keeps s0 (exportSweep s) := by
  unfold exportSweep
  try dsimp only
  repeat' first
    | with_reducible assumption
    | intro _
    | with_reducible first
      | apply exportStep_keeps
    | split
    | dsimp only

theorem settleSent_keeps {s0 : State} {s : State} (h : Keeps s0 s) :
    Keeps s0 (settleSent s) := by
  unfold settleSent
  try dsimp only
  repeat' first
    | with_reducible assumption
    | intro _
    | with_reducible first
      | apply countChip_keeps
    | split
    | with_reducible exact SameBytes.mk rfl rfl rfl
    | with_reducible exact SameBox.mk rfl
    | with_reducible exact KeysOk.refl _ _
    | ((with_reducible apply keeps_mk); (with_reducible
        first
        | assumption | apply countChip_keeps))
    | dsimp only

theorem freshCounts_keeps {s0 : State} {s : State} (h : Keeps s0 s) :
    Keeps s0 (freshCounts s) := by
  unfold freshCounts
  try dsimp only
  repeat' first
    | with_reducible assumption
    | intro _
    | with_reducible first
      | apply advanceTimed_keeps | apply settleSent_keeps
    | split
    | dsimp only

theorem snapshotEvent_keeps {s0 : State} {s : State} (h : Keeps s0 s) :
    Keeps s0 (snapshotEvent s) := by
  unfold snapshotEvent
  try dsimp only
  repeat' first
    | with_reducible assumption
    | intro _
    | with_reducible first
      | apply freshCounts_keeps | apply setReg_keeps | apply exportSweep_keeps
    | split
    | with_reducible exact SameBytes.mk rfl rfl rfl
    | with_reducible exact SameBox.mk rfl
    | with_reducible exact KeysOk.refl _ _
    | ((with_reducible apply keeps_mk); (with_reducible
        first
        | assumption | apply freshCounts_keeps | apply setReg_keeps | apply exportSweep_keeps))
    | dsimp only

theorem captureSkid_keeps {s0 : State} {event : Nat} {inst : Nat} {s : State} {counter : Nat} (h : Keeps s0 s) :
    Keeps s0 (captureSkid event inst s counter) := by
  unfold captureSkid
  try dsimp only
  repeat' first
    | with_reducible assumption
    | intro _
    | with_reducible first
      | apply keeps_ite | apply takeSample_keeps | apply sampleInterrupt_keeps
    | split
    | dsimp only

theorem skidSample_keeps {s0 : State} {s : State} {event : Nat} {inst : Nat} {count : Nat} (h : Keeps s0 s) :
    Keeps s0 (skidSample s event inst count) := by
  unfold skidSample
  try dsimp only
  repeat' first
    | with_reducible assumption
    | intro _
    | with_reducible first
      | apply keeps_ite | apply keeps_foldl | apply bump_keeps | apply countChip_keeps | apply captureSkid_keeps
    | split
    | with_reducible exact SameBytes.mk rfl rfl rfl
    | with_reducible exact SameBox.mk rfl
    | with_reducible exact KeysOk.refl _ _
    | ((with_reducible apply keeps_mk); (with_reducible
        first
        | assumption | apply keeps_ite | apply keeps_foldl | apply bump_keeps | apply countChip_keeps
        | apply captureSkid_keeps))
    | dsimp only

theorem execSkidSample_keeps (event : Nat) (inst : Nat) (count : Nat) (s : State) : Answers s (execSkidSample event inst count s) := by
  refine answers_next ?_
  have h := Keeps.refl s
  repeat' first
    | with_reducible assumption
    | intro _
    | with_reducible first
      | apply skidSample_keeps
    | split
    | dsimp only

end Sys2Proof.Machine
end

