-- ==== Sys2Proof/Laws/KeepsPower.lean ====
section
/-! SUPPORT. What every operation of Machine/Power.lean keeps. -/

namespace Sys2Proof.Machine

theorem capBuckets_keeps {s0 : State} {s : State} (h : Keeps s0 s) :
    Keeps s0 (capBuckets s) := by
  unfold capBuckets
  try dsimp only
  repeat' first
    | with_reducible assumption
    | intro _
    | split
    | with_reducible exact SameBytes.mk rfl rfl rfl
    | with_reducible exact SameBox.mk rfl
    | with_reducible exact KeysOk.refl _ _
    | ((with_reducible apply keeps_mk); (with_reducible
        first
        | assumption))
    | dsimp only

theorem refill_keeps {s0 : State} {s : State} {ns : Nat} (h : Keeps s0 s) :
    Keeps s0 (refill s ns) := by
  unfold refill
  try dsimp only
  repeat' first
    | with_reducible assumption
    | intro _
    | with_reducible first
      | apply keeps_ite | apply capBuckets_keeps
    | split
    | with_reducible exact SameBytes.mk rfl rfl rfl
    | with_reducible exact SameBox.mk rfl
    | with_reducible exact KeysOk.refl _ _
    | ((with_reducible apply keeps_mk); (with_reducible
        first
        | assumption | apply keeps_ite | apply capBuckets_keeps))
    | dsimp only

theorem fillBuckets_keeps {s0 : State} {s : State} (h : Keeps s0 s) :
    Keeps s0 (fillBuckets s) := by
  unfold fillBuckets
  try dsimp only
  repeat' first
    | with_reducible assumption
    | intro _
    | split
    | with_reducible exact SameBytes.mk rfl rfl rfl
    | with_reducible exact SameBox.mk rfl
    | with_reducible exact KeysOk.refl _ _
    | ((with_reducible apply keeps_mk); (with_reducible
        first
        | assumption))
    | dsimp only

theorem showEstimate_keeps {s0 : State} {s : State} (h : Keeps s0 s) :
    Keeps s0 (showEstimate s) := by
  unfold showEstimate
  try dsimp only
  repeat' first
    | with_reducible assumption
    | intro _
    | with_reducible first
      | apply setReg_keeps
    | split
    | dsimp only

theorem setBlock_keeps {s0 : State} {s : State} {b : Nat} {p : BlockPower} (h : Keeps s0 s) :
    Keeps s0 (setBlock s b p) := by
  unfold setBlock
  try dsimp only
  repeat' first
    | with_reducible assumption
    | intro _
    | split
    | with_reducible exact SameBytes.mk rfl rfl rfl
    | with_reducible exact SameBox.mk rfl
    | with_reducible exact KeysOk.refl _ _
    | ((with_reducible apply keeps_mk); (with_reducible
        first
        | assumption))
    | dsimp only

theorem idleRequest_keeps {s0 : State} {s : State} {b : Nat} (h : Keeps s0 s) :
    Keeps s0 (idleRequest s b) := by
  unfold idleRequest
  try dsimp only
  repeat' first
    | with_reducible assumption
    | intro _
    | with_reducible first
      | apply setBlock_keeps
    | split
    | dsimp only

theorem execIdleRequest_keeps (block : Nat) (s : State) : Answers s (execIdleRequest block s) := by
  refine answers_next ?_
  have h := Keeps.refl s
  repeat' first
    | with_reducible assumption
    | intro _
    | with_reducible first
      | apply idleRequest_keeps
    | split
    | dsimp only

theorem idleGrant_keeps {s0 : State} {s : State} {b : Nat} {elapsedNs : Nat} (h : Keeps s0 s) :
    Keeps s0 (idleGrant s b elapsedNs) := by
  unfold idleGrant
  try dsimp only
  repeat' first
    | with_reducible assumption
    | intro _
    | with_reducible first
      | apply keeps_ite | apply refill_keeps | apply showEstimate_keeps | apply countChip_keeps
    | split
    | with_reducible exact SameBytes.mk rfl rfl rfl
    | with_reducible exact SameBox.mk rfl
    | with_reducible exact KeysOk.refl _ _
    | ((with_reducible apply keeps_mk); (with_reducible
        first
        | assumption | apply keeps_ite | apply refill_keeps | apply showEstimate_keeps | apply countChip_keeps))
    | dsimp only

theorem execIdleGrant_keeps (block : Nat) (elapsedNs : Nat) (s : State) : Answers s (execIdleGrant block elapsedNs s) := by
  refine answers_next ?_
  have h := Keeps.refl s
  repeat' first
    | with_reducible assumption
    | intro _
    | with_reducible first
      | apply idleGrant_keeps
    | split
    | dsimp only

theorem collarAdmission_keeps {s0 : State} {s : State} {b : Nat} {waitNs : Nat} {elapsedNs : Nat} (h : Keeps s0 s) :
    Keeps s0 (collarAdmission s b waitNs elapsedNs) := by
  unfold collarAdmission
  try dsimp only
  repeat' first
    | with_reducible assumption
    | intro _
    | with_reducible first
      | apply keeps_ite | apply refill_keeps | apply setBlock_keeps | apply setReg_keeps | apply bump_keeps
      | apply showEstimate_keeps | apply countChip_keeps
    | split
    | with_reducible exact SameBytes.mk rfl rfl rfl
    | with_reducible exact SameBox.mk rfl
    | with_reducible exact KeysOk.refl _ _
    | ((with_reducible apply keeps_mk); (with_reducible
        first
        | assumption | apply keeps_ite | apply refill_keeps | apply setBlock_keeps | apply setReg_keeps
        | apply bump_keeps | apply showEstimate_keeps | apply countChip_keeps))
    | dsimp only

theorem execCollarAdmission_keeps (block : Nat) (waitNs : Nat) (elapsedNs : Nat) (s : State) : Answers s (execCollarAdmission block waitNs elapsedNs s) := by
  refine answers_next ?_
  have h := Keeps.refl s
  repeat' first
    | with_reducible assumption
    | intro _
    | with_reducible first
      | apply collarAdmission_keeps
    | split
    | dsimp only

theorem rampEnd_keeps {s0 : State} {s : State} {b : Nat} (h : Keeps s0 s) :
    Keeps s0 (rampEnd s b) := by
  unfold rampEnd
  try dsimp only
  repeat' first
    | with_reducible assumption
    | intro _
    | with_reducible first
      | apply setBlock_keeps
    | split
    | dsimp only

theorem execRampEnd_keeps (block : Nat) (s : State) : Answers s (execRampEnd block s) := by
  refine answers_next ?_
  have h := Keeps.refl s
  repeat' first
    | with_reducible assumption
    | intro _
    | with_reducible first
      | apply rampEnd_keeps
    | split
    | dsimp only

theorem enterIdentify_keeps {s0 : State} {s : State} (h : Keeps s0 s) :
    Keeps s0 (enterIdentify s) := by
  unfold enterIdentify
  try dsimp only
  repeat' first
    | with_reducible assumption
    | intro _
    | with_reducible first
      | apply setReg_keeps
    | split
    | ((with_reducible apply keeps_mk_full); (with_reducible
        first
        | assumption | apply setReg_keeps))
    | exact EepromKeeps.refl _
    | exact EepromKeeps.mk rfl rfl rfl rfl rfl rfl rfl (by first | exact Nat.le_refl _ | exact Nat.le_succ _)
    | with_reducible exact KeysOk.refl _ _
    | (refine BytesOk.of fun a b c d e => ⟨?_, ?_, ?_, ?_, ?_⟩) <;> repeat' first
        | assumption | exact memWf_nil | apply memWf_clear | apply memWf_putNat | apply memWf_write | apply memWf_copy
        | apply memWf_filter | apply memWf_put | apply memWf_foldl | intro _ | split
    | dsimp only

theorem regionWakeStage_keeps {s0 : State} {s : State} {r : Nat} (h : Keeps s0 s) :
    Keeps s0 (regionWakeStage s r) := by
  unfold regionWakeStage
  try dsimp only
  repeat' first
    | with_reducible assumption
    | intro _
    | with_reducible first
      | apply keeps_ite | apply keeps_ite_snd | apply keeps_foldl_snd | apply takeFree_keeps | apply bump_keeps
      | apply showEstimate_keeps | apply showPower_keeps | apply enterIdentify_keeps
      | refine keeps_pair_snd (by assumption) ?_
    | split
    | with_reducible exact SameBytes.mk rfl rfl rfl
    | with_reducible exact SameBox.mk rfl
    | with_reducible exact KeysOk.refl _ _
    | ((with_reducible apply keeps_mk); (with_reducible
        first
        | assumption | apply keeps_ite | apply keeps_ite_snd | apply keeps_foldl_snd | apply takeFree_keeps
        | apply bump_keeps | apply showEstimate_keeps | apply showPower_keeps | apply enterIdentify_keeps
        | refine keeps_pair_snd (by assumption) ?_))
    | dsimp only

theorem execRegionWakeStage_keeps (region : Nat) (s : State) : Answers s (execRegionWakeStage region s) := by
  refine answers_next ?_
  have h := Keeps.refl s
  repeat' first
    | with_reducible assumption
    | intro _
    | with_reducible first
      | apply regionWakeStage_keeps
    | split
    | dsimp only

theorem selfRefreshAll_keeps {s0 : State} {s : State} {on : Bool} (h : Keeps s0 s) :
    Keeps s0 (selfRefreshAll s on) := by
  unfold selfRefreshAll
  try dsimp only
  repeat' first
    | with_reducible assumption
    | intro _
    | split
    | with_reducible exact SameBytes.mk rfl rfl rfl
    | with_reducible exact SameBox.mk rfl
    | with_reducible exact KeysOk.refl _ _
    | ((with_reducible apply keeps_mk); (with_reducible
        first
        | assumption))
    | dsimp only

theorem leaveState_keeps {s0 : State} {s : State} {rs : List Nat} (h : Keeps s0 s) :
    Keeps s0 (leaveState s rs) := by
  unfold leaveState
  try dsimp only
  repeat' first
    | with_reducible assumption
    | intro _
    | with_reducible first
      | apply keeps_ite | apply keeps_foldl | apply selfRefreshAll_keeps | apply showPower_keeps
      | apply askWake_keeps
    | split
    | with_reducible exact SameBytes.mk rfl rfl rfl
    | with_reducible exact SameBox.mk rfl
    | with_reducible exact KeysOk.refl _ _
    | ((with_reducible apply keeps_mk); (with_reducible
        first
        | assumption | apply keeps_ite | apply keeps_foldl | apply selfRefreshAll_keeps | apply showPower_keeps
        | apply askWake_keeps))
    | dsimp only

theorem doorbellWakes_keeps {s0 : State} {s : State} (h : Keeps s0 s) :
    Keeps s0 (doorbellWakes s) := by
  unfold doorbellWakes
  try dsimp only
  repeat' first
    | with_reducible assumption
    | intro _
    | with_reducible first
      | apply keeps_ite | apply leaveState_keeps
    | split
    | with_reducible exact SameBytes.mk rfl rfl rfl
    | with_reducible exact SameBox.mk rfl
    | with_reducible exact KeysOk.refl _ _
    | ((with_reducible apply keeps_mk); (with_reducible
        first
        | assumption | apply keeps_ite | apply leaveState_keeps))
    | dsimp only

theorem activeRequest_keeps {s0 : State} {s : State} (h : Keeps s0 s) :
    Keeps s0 (activeRequest s) := by
  unfold activeRequest
  try dsimp only
  repeat' first
    | with_reducible assumption
    | intro _
    | with_reducible first
      | apply keeps_ite | apply leaveState_keeps | apply setReg_keeps
    | split
    | with_reducible exact SameBytes.mk rfl rfl rfl
    | with_reducible exact SameBox.mk rfl
    | with_reducible exact KeysOk.refl _ _
    | ((with_reducible apply keeps_mk); (with_reducible
        first
        | assumption | apply keeps_ite | apply leaveState_keeps | apply setReg_keeps))
    | dsimp only

theorem enterPower_keeps {s0 : State} {s : State} {e : PowerEntry} (h : Keeps s0 s) :
    Keeps s0 (enterPower s e) := by
  unfold enterPower
  try dsimp only
  repeat' first
    | with_reducible assumption
    | intro _
    | with_reducible first
      | apply showPower_keeps
    | split
    | with_reducible exact SameBytes.mk rfl rfl rfl
    | with_reducible exact SameBox.mk rfl
    | with_reducible exact KeysOk.refl _ _
    | ((with_reducible apply keeps_mk); (with_reducible
        first
        | assumption | apply showPower_keeps))
    | dsimp only

theorem powerRequest_keeps {s0 : State} {s : State} {v : Nat} (h : Keeps s0 s) :
    Keeps s0 (powerRequest s v).2 := by
  unfold powerRequest
  try dsimp only
  repeat' first
    | with_reducible assumption
    | intro _
    | with_reducible first
      | apply keeps_ite | apply keeps_ite_snd | apply keeps_foldl_snd | apply setReg_keeps
      | apply activeRequest_keeps | apply enterPower_keeps | apply leaveState_keeps
      | refine keeps_pair_snd (by assumption) ?_
    | split
    | dsimp only

theorem regionRequest_keeps {s0 : State} {s : State} {v : Nat} (h : Keeps s0 s) :
    Keeps s0 (regionRequest s v).2 := by
  unfold regionRequest
  try dsimp only
  repeat' first
    | with_reducible assumption
    | intro _
    | with_reducible first
      | apply keeps_ite | apply keeps_foldl | apply keeps_ite_snd | apply keeps_foldl_snd | apply setReg_keeps
      | apply leaveState_keeps | apply askWake_keeps | apply enterPower_keeps
      | refine keeps_pair_snd (by assumption) ?_
    | split
    | dsimp only

theorem idleAll_keeps {s0 : State} {s : State} (h : Keeps s0 s) :
    Keeps s0 (idleAll s) := by
  unfold idleAll
  try dsimp only
  repeat' first
    | with_reducible assumption
    | intro _
    | with_reducible first
      | apply showEstimate_keeps | apply countChip_keeps
    | split
    | with_reducible exact SameBytes.mk rfl rfl rfl
    | with_reducible exact SameBox.mk rfl
    | with_reducible exact KeysOk.refl _ _
    | ((with_reducible apply keeps_mk); (with_reducible
        first
        | assumption | apply showEstimate_keeps | apply countChip_keeps))
    | dsimp only

theorem sleepRegions_keeps {s0 : State} {s : State} {rs : List Nat} (h : Keeps s0 s) :
    Keeps s0 (sleepRegions s rs) := by
  unfold sleepRegions
  try dsimp only
  repeat' first
    | with_reducible assumption
    | intro _
    | with_reducible first
      | apply keeps_foldl | apply showEstimate_keeps | apply setReg_keeps | apply loseRegion_keeps
    | split
    | dsimp only

theorem powerStateReached_keeps {s0 : State} {s : State} (h : Keeps s0 s) :
    Keeps s0 (powerStateReached s) := by
  unfold powerStateReached
  try dsimp only
  repeat' first
    | with_reducible assumption
    | intro _
    | with_reducible first
      | apply keeps_ite | apply showPower_keeps | apply doorbellWakes_keeps | apply activeRequest_keeps
      | apply idleAll_keeps | apply selfRefreshAll_keeps | apply sleepRegions_keeps
    | split
    | with_reducible exact SameBytes.mk rfl rfl rfl
    | with_reducible exact SameBox.mk rfl
    | with_reducible exact KeysOk.refl _ _
    | ((with_reducible apply keeps_mk); (with_reducible
        first
        | assumption | apply keeps_ite | apply showPower_keeps | apply doorbellWakes_keeps
        | apply activeRequest_keeps | apply idleAll_keeps | apply selfRefreshAll_keeps
        | apply sleepRegions_keeps))
    | dsimp only

theorem execPowerStateReached_keeps (s : State) : Answers s (execPowerStateReached s) := by
  refine answers_next ?_
  have h := Keeps.refl s
  repeat' first
    | with_reducible assumption
    | intro _
    | with_reducible first
      | apply powerStateReached_keeps
    | split
    | dsimp only

theorem powerFatal_keeps {s0 : State} {s : State} {row : Nat} (h : Keeps s0 s) :
    Keeps s0 (powerFatal s row) := by
  unfold powerFatal
  try dsimp only
  repeat' first
    | with_reducible assumption
    | intro _
    | with_reducible first
      | apply keeps_ite_snd | apply keeps_foldl_snd | apply takeFree_keeps | apply setReg_keeps
      | apply fatalError_keeps | refine keeps_pair_snd (by assumption) ?_
    | split
    | dsimp only

theorem aclkDown_keeps {s0 : State} {s : State} (h : Keeps s0 s) :
    Keeps s0 (aclkDown s) := by
  unfold aclkDown
  try dsimp only
  repeat' first
    | with_reducible assumption
    | intro _
    | with_reducible first
      | apply keeps_ite | apply bump_keeps
    | split
    | with_reducible exact SameBytes.mk rfl rfl rfl
    | with_reducible exact SameBox.mk rfl
    | with_reducible exact KeysOk.refl _ _
    | ((with_reducible apply keeps_mk); (with_reducible
        first
        | assumption | apply keeps_ite | apply bump_keeps))
    | dsimp only

theorem powerError_keeps {s0 : State} {s : State} {row : Nat} (h : Keeps s0 s) :
    Keeps s0 (powerError s row) := by
  unfold powerError
  try dsimp only
  repeat' first
    | with_reducible assumption
    | intro _
    | with_reducible first
      | apply keeps_ite | apply aclkDown_keeps | apply setReg_keeps | apply powerFatal_keeps
    | split
    | dsimp only

theorem execPowerError_keeps (row : Nat) (s : State) : Answers s (execPowerError row s) := by
  refine answers_next ?_
  have h := Keeps.refl s
  repeat' first
    | with_reducible assumption
    | intro _
    | with_reducible first
      | apply powerError_keeps
    | split
    | dsimp only

theorem thermalRead_keeps {s0 : State} {s : State} {hottest : Nat} (h : Keeps s0 s) :
    Keeps s0 (thermalRead s hottest) := by
  unfold thermalRead
  try dsimp only
  repeat' first
    | with_reducible assumption
    | intro _
    | with_reducible first
      | apply keeps_ite | apply setReg_keeps
    | split
    | with_reducible exact SameBytes.mk rfl rfl rfl
    | with_reducible exact SameBox.mk rfl
    | with_reducible exact KeysOk.refl _ _
    | ((with_reducible apply keeps_mk); (with_reducible
        first
        | assumption | apply keeps_ite | apply setReg_keeps))
    | dsimp only

theorem execThermalRead_keeps (hottest : Nat) (s : State) : Answers s (execThermalRead hottest s) := by
  refine answers_next ?_
  have h := Keeps.refl s
  repeat' first
    | with_reducible assumption
    | intro _
    | with_reducible first
      | apply thermalRead_keeps
    | split
    | dsimp only

theorem aclkStep_keeps {s0 : State} {s : State} (h : Keeps s0 s) :
    Keeps s0 (aclkStep s) := by
  unfold aclkStep
  try dsimp only
  repeat' first
    | with_reducible assumption
    | intro _
    | with_reducible first
      | apply keeps_ite | apply aclkDown_keeps
    | split
    | with_reducible exact SameBytes.mk rfl rfl rfl
    | with_reducible exact SameBox.mk rfl
    | with_reducible exact KeysOk.refl _ _
    | ((with_reducible apply keeps_mk); (with_reducible
        first
        | assumption | apply keeps_ite | apply aclkDown_keeps))
    | dsimp only

theorem execAclkStep_keeps (s : State) : Answers s (execAclkStep s) := by
  refine answers_next ?_
  have h := Keeps.refl s
  repeat' first
    | with_reducible assumption
    | intro _
    | with_reducible first
      | apply aclkStep_keeps
    | split
    | dsimp only

theorem aclkChangeEnd_keeps {s0 : State} {s : State} (h : Keeps s0 s) :
    Keeps s0 (aclkChangeEnd s) := by
  unfold aclkChangeEnd
  try dsimp only
  repeat' first
    | with_reducible assumption
    | intro _
    | with_reducible first
      | apply capBuckets_keeps | apply setReg_keeps
    | split
    | with_reducible exact SameBytes.mk rfl rfl rfl
    | with_reducible exact SameBox.mk rfl
    | with_reducible exact KeysOk.refl _ _
    | ((with_reducible apply keeps_mk); (with_reducible
        first
        | assumption | apply capBuckets_keeps | apply setReg_keeps))
    | dsimp only

theorem execAclkChangeEnd_keeps (s : State) : Answers s (execAclkChangeEnd s) := by
  refine answers_next ?_
  have h := Keeps.refl s
  repeat' first
    | with_reducible assumption
    | intro _
    | with_reducible first
      | apply aclkChangeEnd_keeps
    | split
    | dsimp only

theorem hbmTemperatureRead_keeps {s0 : State} {s : State} {k : Nat} {temp : Nat} (h : Keeps s0 s) :
    Keeps s0 (hbmTemperatureRead s k temp) := by
  unfold hbmTemperatureRead
  try dsimp only
  repeat' first
    | with_reducible assumption
    | intro _
    | with_reducible first
      | apply keeps_ite | apply setStack_keeps | apply bump_keeps | apply setReg_keeps | apply powerFatal_keeps
    | split
    | with_reducible exact SameBytes.mk rfl rfl rfl
    | with_reducible exact SameBox.mk rfl
    | with_reducible exact KeysOk.refl _ _
    | ((with_reducible apply keeps_mk); (with_reducible
        first
        | assumption | apply keeps_ite | apply setStack_keeps | apply bump_keeps | apply setReg_keeps
        | apply powerFatal_keeps))
    | dsimp only

theorem execHbmTemperatureRead_keeps (stack : Nat) (temp : Nat) (s : State) : Answers s (execHbmTemperatureRead stack temp s) := by
  refine answers_next ?_
  have h := Keeps.refl s
  repeat' first
    | with_reducible assumption
    | intro _
    | with_reducible first
      | apply hbmTemperatureRead_keeps
    | split
    | dsimp only

theorem pwrFailFall_keeps {s0 : State} {s : State} (h : Keeps s0 s) :
    Keeps s0 (pwrFailFall s) := by
  unfold pwrFailFall
  try dsimp only
  repeat' first
    | with_reducible assumption
    | intro _
    | with_reducible first
      | apply keeps_ite | apply keeps_foldl | apply bump_keeps | apply assertAlert_keeps | apply settleFlush_keeps
      | apply startProgram_keeps
    | split
    | with_reducible exact SameBytes.mk rfl rfl rfl
    | with_reducible exact SameBox.mk rfl
    | with_reducible exact KeysOk.refl _ _
    | ((with_reducible apply keeps_mk); (with_reducible
        first
        | assumption | apply keeps_ite | apply keeps_foldl | apply bump_keeps | apply assertAlert_keeps
        | apply settleFlush_keeps | apply startProgram_keeps))
    | dsimp only

theorem execPwrFailNFall_keeps (s : State) : Answers s (execPwrFailNFall s) := by
  refine answers_next ?_
  have h := Keeps.refl s
  repeat' first
    | with_reducible assumption
    | intro _
    | with_reducible first
      | apply pwrFailFall_keeps
    | split
    | dsimp only

theorem pwrFailRise_keeps {s0 : State} {s : State} (h : Keeps s0 s) :
    Keeps s0 (pwrFailRise s) := by
  unfold pwrFailRise
  try dsimp only
  repeat' first
    | with_reducible assumption
    | intro _
    | with_reducible first
      | apply keeps_ite | apply releaseAlert_keeps
    | split
    | with_reducible exact SameBytes.mk rfl rfl rfl
    | with_reducible exact SameBox.mk rfl
    | with_reducible exact KeysOk.refl _ _
    | ((with_reducible apply keeps_mk); (with_reducible
        first
        | assumption | apply keeps_ite | apply releaseAlert_keeps))
    | dsimp only

theorem execPwrFailNRise_keeps (s : State) : Answers s (execPwrFailNRise s) := by
  refine answers_next ?_
  have h := Keeps.refl s
  repeat' first
    | with_reducible assumption
    | intro _
    | with_reducible first
      | apply pwrFailRise_keeps
    | split
    | dsimp only

theorem powerOn_keeps {s0 : State} {s : State} (h : Keeps s0 s) :
    Keeps s0 (powerOn s) := by
  unfold powerOn
  try dsimp only
  repeat' first
    | with_reducible assumption
    | intro _
    | with_reducible first
      | apply keeps_ite
    | split
    | with_reducible exact SameBytes.mk rfl rfl rfl
    | with_reducible exact SameBox.mk rfl
    | with_reducible exact KeysOk.refl _ _
    | ((with_reducible apply keeps_mk); (with_reducible
        first
        | assumption | apply keeps_ite))
    | dsimp only

theorem execPowerOn_keeps (s : State) : Answers s (execPowerOn s) := by
  refine answers_next ?_
  have h := Keeps.refl s
  repeat' first
    | with_reducible assumption
    | intro _
    | with_reducible first
      | apply powerOn_keeps
    | split
    | dsimp only

theorem takeTierKey_keeps {s0 : State} {s : State} (h : Keeps s0 s) :
    Keeps s0 (takeTierKey s) := by
  unfold takeTierKey
  try dsimp only
  repeat' first
    | with_reducible assumption
    | intro _
    | with_reducible first
      | apply keeps_ite
    | split
    | with_reducible exact SameBytes.mk rfl rfl rfl
    | with_reducible exact SameBox.mk rfl
    | with_reducible exact KeysOk.refl _ _
    | ((with_reducible apply keeps_mk); (with_reducible
        first
        | assumption | apply keeps_ite))
    | dsimp only

theorem takeEeprom_keeps {s0 : State} {s : State} (h : Keeps s0 s) :
    Keeps s0 (takeEeprom s) := by
  unfold takeEeprom
  try dsimp only
  repeat' first
    | with_reducible assumption
    | intro _
    | with_reducible first
      | apply keeps_foldl | apply takeTierKey_keeps | apply setReg_keeps
    | split
    | dsimp only

theorem eepromRead_keeps {s0 : State} {s : State} {ok : Bool} (h : Keeps s0 s) :
    Keeps s0 (eepromRead s ok) := by
  unfold eepromRead
  try dsimp only
  repeat' first
    | with_reducible assumption
    | intro _
    | with_reducible first
      | apply keeps_ite | apply takeEeprom_keeps | apply showEstimate_keeps | apply fillBuckets_keeps
    | split
    | with_reducible exact SameBytes.mk rfl rfl rfl
    | with_reducible exact SameBox.mk rfl
    | with_reducible exact KeysOk.refl _ _
    | ((with_reducible apply keeps_mk); (with_reducible
        first
        | assumption | apply keeps_ite | apply takeEeprom_keeps | apply showEstimate_keeps
        | apply fillBuckets_keeps))
    | dsimp only

theorem execEepromRead_keeps (ok : Bool) (s : State) : Answers s (execEepromRead ok s) := by
  refine answers_next ?_
  have h := Keeps.refl s
  repeat' first
    | with_reducible assumption
    | intro _
    | with_reducible first
      | apply eepromRead_keeps
    | split
    | dsimp only

theorem eepromReadRetry_keeps {s0 : State} {s : State} (h : Keeps s0 s) :
    Keeps s0 (eepromReadRetry s) := by
  unfold eepromReadRetry
  try dsimp only
  repeat' first
    | with_reducible assumption
    | intro _
    | with_reducible first
      | apply keeps_ite
    | split
    | with_reducible exact SameBytes.mk rfl rfl rfl
    | with_reducible exact SameBox.mk rfl
    | with_reducible exact KeysOk.refl _ _
    | ((with_reducible apply keeps_mk); (with_reducible
        first
        | assumption | apply keeps_ite))
    | dsimp only

theorem execEepromReadRetry_keeps (s : State) : Answers s (execEepromReadRetry s) := by
  refine answers_next ?_
  have h := Keeps.refl s
  repeat' first
    | with_reducible assumption
    | intro _
    | with_reducible first
      | apply eepromReadRetry_keeps
    | split
    | dsimp only

theorem quickPathEnd_keeps {s0 : State} {s : State} (h : Keeps s0 s) :
    Keeps s0 (quickPathEnd s) := by
  unfold quickPathEnd
  try dsimp only
  repeat' first
    | with_reducible assumption
    | intro _
    | with_reducible first
      | apply keeps_ite
    | split
    | with_reducible exact SameBytes.mk rfl rfl rfl
    | with_reducible exact SameBox.mk rfl
    | with_reducible exact KeysOk.refl _ _
    | ((with_reducible apply keeps_mk); (with_reducible
        first
        | assumption | apply keeps_ite))
    | dsimp only

theorem execQuickPathEnd_keeps (s : State) : Answers s (execQuickPathEnd s) := by
  refine answers_next ?_
  have h := Keeps.refl s
  repeat' first
    | with_reducible assumption
    | intro _
    | with_reducible first
      | apply quickPathEnd_keeps
    | split
    | dsimp only

theorem loadDefaults_keeps {s0 : State} {s : State} (h : Keeps s0 s) :
    Keeps s0 (loadDefaults s) := by
  unfold loadDefaults
  try dsimp only
  repeat' first
    | with_reducible assumption
    | intro _
    | with_reducible first
      | apply keeps_foldl | apply setReg_keeps
    | split
    | with_reducible exact SameBytes.mk rfl rfl rfl
    | with_reducible exact SameBox.mk rfl
    | with_reducible exact KeysOk.refl _ _
    | ((with_reducible apply keeps_mk); (with_reducible
        first
        | assumption | apply keeps_foldl | apply setReg_keeps))
    | dsimp only

theorem trainEnd_keeps {s0 : State} {s : State} (h : Keeps s0 s) :
    Keeps s0 (trainEnd s) := by
  unfold trainEnd
  try dsimp only
  repeat' first
    | with_reducible assumption
    | intro _
    | with_reducible first
      | apply keeps_ite | apply loadDefaults_keeps | apply setReg_keeps
    | split
    | with_reducible exact SameBytes.mk rfl rfl rfl
    | with_reducible exact SameBox.mk rfl
    | with_reducible exact KeysOk.refl _ _
    | ((with_reducible apply keeps_mk); (with_reducible
        first
        | assumption | apply keeps_ite | apply loadDefaults_keeps | apply setReg_keeps))
    | dsimp only

theorem execTrainEnd_keeps (s : State) : Answers s (execTrainEnd s) := by
  refine answers_next ?_
  have h := Keeps.refl s
  repeat' first
    | with_reducible assumption
    | intro _
    | with_reducible first
      | apply trainEnd_keeps
    | split
    | dsimp only

theorem execVddAonAbsent_keeps (s : State) : Answers s (execVddAonAbsent s) := by
  refine answers_next ?_
  have h := Keeps.refl s
  repeat' first
    | with_reducible assumption
    | intro _
    | with_reducible first
      | apply powerLost_keeps
    | split
    | dsimp only

theorem coldRst_keeps {s0 : State} {s : State} (h : Keeps s0 s) :
    Keeps s0 (coldRst s) := by
  unfold coldRst
  try dsimp only
  repeat' first
    | with_reducible assumption
    | intro _
    | with_reducible first
      | apply keeps_ite | apply powerOn_keeps | apply powerLost_keeps
    | split
    | dsimp only

theorem execColdRstN_keeps (s : State) : Answers s (execColdRstN s) := by
  refine answers_next ?_
  have h := Keeps.refl s
  repeat' first
    | with_reducible assumption
    | intro _
    | with_reducible first
      | apply coldRst_keeps
    | split
    | dsimp only

theorem askedWarmReset_keeps {s0 : State} {s : State} (h : Keeps s0 s) :
    Keeps s0 (askedWarmReset s) := by
  unfold askedWarmReset
  try dsimp only
  repeat' first
    | with_reducible assumption
    | intro _
    | with_reducible first
      | apply keeps_ite | apply keeps_ite_snd | apply keeps_foldl_snd | apply takeFree_keeps | apply warmReset_keeps
      | refine keeps_pair_snd (by assumption) ?_
    | split
    | dsimp only

theorem execWarmRstN_keeps (s : State) : Answers s (execWarmRstN s) := by
  refine answers_next ?_
  have h := Keeps.refl s
  repeat' first
    | with_reducible assumption
    | intro _
    | with_reducible first
      | apply askedWarmReset_keeps
    | split
    | dsimp only

theorem askedColdReset_keeps {s0 : State} {s : State} (h : Keeps s0 s) :
    Keeps s0 (askedColdReset s) := by
  unfold askedColdReset
  try dsimp only
  repeat' first
    | with_reducible assumption
    | intro _
    | with_reducible first
      | apply powerOn_keeps | apply powerLost_keeps | apply settleMap_keeps
    | split
    | with_reducible exact SameBytes.mk rfl rfl rfl
    | with_reducible exact SameBox.mk rfl
    | with_reducible exact KeysOk.refl _ _
    | ((with_reducible apply keeps_mk); (with_reducible
        first
        | assumption | apply powerOn_keeps | apply powerLost_keeps | apply settleMap_keeps))
    | dsimp only

end Sys2Proof.Machine
end

