-- ==== Sys2Proof/Laws/KeepsCalendar.lean ====
section
/-! SUPPORT. What every operation of Machine/Calendar.lean keeps. -/

namespace Sys2Proof.Machine

theorem sealEvent_keeps {s0 : State} {s : State} (h : Keeps s0 s) :
    Keeps s0 (sealEvent s) := by
  unfold sealEvent
  try dsimp only
  repeat' first
    | with_reducible assumption
    | intro _
    | split
    | with_reducible exact SameBytes.mk rfl rfl rfl
    | with_reducible exact SameBox.mk rfl
    | with_reducible exact KeysOk.refl _ _
    | ((with_reducible apply keeps_mk); (with_reducible
        first
        | assumption))
    | dsimp only

theorem fireEvent_keeps {s0 : State} {s : State} {event : Nat} (h : Keeps s0 s) :
    Keeps s0 (fireEvent s event) := by
  unfold fireEvent
  try dsimp only
  repeat' first
    | with_reducible assumption
    | intro _
    | with_reducible first
      | apply keeps_ite | apply snapshotEvent_keeps | apply sealEvent_keeps | apply maskReadyEvent_keeps
      | apply sampleEvent_keeps | apply commitEvent_keeps
    | split
    | dsimp only

theorem closeWindows_keeps {s0 : State} {s : State} {phase : Nat} (h : Keeps s0 s) :
    Keeps s0 (closeWindows s phase) := by
  unfold closeWindows
  try dsimp only
  repeat' first
    | with_reducible assumption
    | intro _
    | split
    | with_reducible exact SameBytes.mk rfl rfl rfl
    | with_reducible exact SameBox.mk rfl
    | with_reducible exact KeysOk.refl _ _
    | ((with_reducible apply keeps_mk); (with_reducible
        first
        | assumption))
    | dsimp only

theorem fireOne_keeps {s0 : State} {s : State} {p : Nat × Nat × Nat} (h : Keeps s0 s) :
    Keeps s0 (fireOne s p) := by
  unfold fireOne
  try dsimp only
  repeat' first
    | with_reducible assumption
    | intro _
    | with_reducible first
      | apply closeWindows_keeps | apply fireEvent_keeps
    | split
    | with_reducible exact SameBytes.mk rfl rfl rfl
    | with_reducible exact SameBox.mk rfl
    | with_reducible exact KeysOk.refl _ _
    | ((with_reducible apply keeps_mk); (with_reducible
        first
        | assumption | apply closeWindows_keeps | apply fireEvent_keeps))
    | dsimp only

theorem eventCommand_keeps {s0 : State} {s : State} {event : Nat} (h : Keeps s0 s) :
    Keeps s0 (eventCommand s event) := by
  unfold eventCommand
  try dsimp only
  repeat' first
    | with_reducible assumption
    | intro _
    | with_reducible first
      | apply keeps_ite | apply fireOne_keeps
    | split
    | dsimp only

theorem execMaskReady_keeps (s : State) : Answers s (execMaskReady s) := by
  refine answers_next ?_
  have h := Keeps.refl s
  repeat' first
    | with_reducible assumption
    | intro _
    | with_reducible first
      | apply eventCommand_keeps
    | split
    | dsimp only

theorem execSample_keeps (s : State) : Answers s (execSample s) := by
  refine answers_next ?_
  have h := Keeps.refl s
  repeat' first
    | with_reducible assumption
    | intro _
    | with_reducible first
      | apply eventCommand_keeps
    | split
    | dsimp only

theorem execTokenCommit_keeps (s : State) : Answers s (execTokenCommit s) := by
  refine answers_next ?_
  have h := Keeps.refl s
  repeat' first
    | with_reducible assumption
    | intro _
    | with_reducible first
      | apply eventCommand_keeps
    | split
    | dsimp only

theorem execPlanSeal_keeps (s : State) : Answers s (execPlanSeal s) := by
  refine answers_next ?_
  have h := Keeps.refl s
  repeat' first
    | with_reducible assumption
    | intro _
    | with_reducible first
      | apply eventCommand_keeps
    | split
    | dsimp only

theorem execCounterSnapshot_keeps (s : State) : Answers s (execCounterSnapshot s) := by
  refine answers_next ?_
  have h := Keeps.refl s
  repeat' first
    | with_reducible assumption
    | intro _
    | with_reducible first
      | apply eventCommand_keeps
    | split
    | dsimp only

theorem fireRest_keeps {s0 : State} {s : State} (h : Keeps s0 s) :
    Keeps s0 (fireRest s) := by
  unfold fireRest
  try dsimp only
  repeat' first
    | with_reducible assumption
    | intro _
    | with_reducible first
      | apply keeps_foldl | apply fireOne_keeps
    | split
    | dsimp only

theorem openWindow_keeps {s0 : State} {s : State} {i : Nat} (h : Keeps s0 s) :
    Keeps s0 (openWindow s i) := by
  unfold openWindow
  try dsimp only
  repeat' first
    | with_reducible assumption
    | intro _
    | with_reducible first
      | apply keeps_ite | apply closeWindows_keeps
    | split
    | with_reducible exact SameBytes.mk rfl rfl rfl
    | with_reducible exact SameBox.mk rfl
    | with_reducible exact KeysOk.refl _ _
    | ((with_reducible apply keeps_mk); (with_reducible
        first
        | assumption | apply keeps_ite | apply closeWindows_keeps))
    | dsimp only

theorem settleLeaving_keeps {s0 : State} {s : State} (h : Keeps s0 s) :
    Keeps s0 (settleLeaving s) := by
  unfold settleLeaving
  try dsimp only
  repeat' first
    | with_reducible assumption
    | intro _
    | with_reducible first
      | apply keeps_foldl | apply leaveUnits_keeps
    | split
    | dsimp only

theorem preemptNow_keeps {s0 : State} {s : State} {c : Nat} (h : Keeps s0 s) :
    Keeps s0 (preemptNow s c) := by
  unfold preemptNow
  try dsimp only
  repeat' first
    | with_reducible assumption
    | intro _
    | with_reducible first
      | apply keeps_ite | apply serveSave_keeps | apply beginSave_keeps
    | split
    | dsimp only

theorem preemptWindow_keeps {s0 : State} {s : State} {i : Nat} (h : Keeps s0 s) :
    Keeps s0 (preemptWindow s i) := by
  unfold preemptWindow
  try dsimp only
  repeat' first
    | with_reducible assumption
    | intro _
    | with_reducible first
      | apply keeps_ite | apply keeps_foldl | apply openWindow_keeps | apply preemptNow_keeps
      | apply settleLeaving_keeps | apply placeAll_keeps
    | split
    | dsimp only

theorem execPreemptWindow_keeps (entry : Nat) (s : State) : Answers s (execPreemptWindow entry s) := by
  refine answers_next ?_
  have h := Keeps.refl s
  repeat' first
    | with_reducible assumption
    | intro _
    | with_reducible first
      | apply preemptWindow_keeps
    | split
    | dsimp only

theorem selftestWindow_keeps {s0 : State} {s : State} {i : Nat} (h : Keeps s0 s) :
    Keeps s0 (selftestWindow s i) := by
  unfold selftestWindow
  try dsimp only
  repeat' first
    | with_reducible assumption
    | intro _
    | with_reducible first
      | apply keeps_ite | apply openWindow_keeps
    | split
    | dsimp only

theorem execSelftestWindow_keeps (entry : Nat) (s : State) : Answers s (execSelftestWindow entry s) := by
  refine answers_next ?_
  have h := Keeps.refl s
  repeat' first
    | with_reducible assumption
    | intro _
    | with_reducible first
      | apply selftestWindow_keeps
    | split
    | dsimp only

end Sys2Proof.Machine
end

