-- ==== Sys2Proof/Laws/KeepsTest.lean ====
section
/-! SUPPORT. What every operation of Machine/Test.lean keeps. -/

namespace Sys2Proof.Machine

theorem readVin_keeps {s0 : State} {s : State} {mv : Nat} (h : Keeps s0 s) :
    Keeps s0 (readVin s mv) := by
  unfold readVin
  try dsimp only
  repeat' first
    | with_reducible assumption
    | intro _
    | with_reducible first
      | apply setReg_keeps
    | split
    | dsimp only

theorem longTestLimitCheck_keeps {s0 : State} {s : State} {vinMv : Nat} (h : Keeps s0 s) :
    Keeps s0 (longTestLimitCheck s vinMv) := by
  unfold longTestLimitCheck
  try dsimp only
  repeat' first
    | with_reducible assumption
    | intro _
    | with_reducible first
      | apply keeps_ite | apply readVin_keeps
    | split
    | with_reducible exact SameBytes.mk rfl rfl rfl
    | with_reducible exact SameBox.mk rfl
    | with_reducible exact KeysOk.refl _ _
    | ((with_reducible apply keeps_mk); (with_reducible
        first
        | assumption | apply keeps_ite | apply readVin_keeps))
    | dsimp only

theorem execLongTestLimitCheck_keeps (vinMv : Nat) (s : State) : Answers s (execLongTestLimitCheck vinMv s) := by
  refine answers_next ?_
  have h := Keeps.refl s
  repeat' first
    | with_reducible assumption
    | intro _
    | with_reducible first
      | apply longTestLimitCheck_keeps
    | split
    | dsimp only

theorem takeFailures_keeps {s0 : State} {s : State} {blocks : List Nat} {pelganLanes : List Nat} {aedupLanes : List
    Nat} (h : Keeps s0 s) :
    Keeps s0 (takeFailures s blocks pelganLanes aedupLanes) := by
  unfold takeFailures
  try dsimp only
  repeat' first
    | with_reducible assumption
    | intro _
    | with_reducible first
      | apply keeps_foldl | apply settleMap_keeps | apply quarantine_keeps
    | split
    | with_reducible exact SameBytes.mk rfl rfl rfl
    | with_reducible exact SameBox.mk rfl
    | with_reducible exact KeysOk.refl _ _
    | ((with_reducible apply keeps_mk); (with_reducible
        first
        | assumption | apply keeps_foldl | apply settleMap_keeps | apply quarantine_keeps))
    | dsimp only

theorem longTestEnd_keeps {s0 : State} {s : State} {blocks : List Nat} {pelganLanes : List Nat} {aedupLanes : List
    Nat} {failed : Nat} (h : Keeps s0 s) :
    Keeps s0 (longTestEnd s blocks pelganLanes aedupLanes failed) := by
  unfold longTestEnd
  try dsimp only
  repeat' first
    | with_reducible assumption
    | intro _
    | with_reducible first
      | apply keeps_ite | apply takeFailures_keeps | apply powerFatal_keeps
    | split
    | with_reducible exact SameBytes.mk rfl rfl rfl
    | with_reducible exact SameBox.mk rfl
    | with_reducible exact KeysOk.refl _ _
    | ((with_reducible apply keeps_mk); (with_reducible
        first
        | assumption | apply keeps_ite | apply takeFailures_keeps | apply powerFatal_keeps))
    | dsimp only

theorem execLongTestEnd_keeps (failedBlocks : List Nat) (pelganLanes : List Nat) (aedupLanes : List Nat) (failedChecks : Nat) (s : State) : Answers s (execLongTestEnd failedBlocks pelganLanes aedupLanes failedChecks s) := by
  refine answers_next ?_
  have h := Keeps.refl s
  repeat' first
    | with_reducible assumption
    | intro _
    | with_reducible first
      | apply longTestEnd_keeps
    | split
    | dsimp only

theorem shutdownRun_keeps {s0 : State} {s : State} {v : Nat} (h : Keeps s0 s) :
    Keeps s0 (shutdownRun s v).2 := by
  unfold shutdownRun
  try dsimp only
  repeat' first
    | with_reducible assumption
    | intro _
    | with_reducible first
      | apply keeps_ite | apply keeps_foldl | apply keeps_ite_snd | apply keeps_foldl_snd | apply setReg_keeps
      | apply settleFlush_keeps | apply startProgram_keeps | refine keeps_pair_snd (by assumption) ?_
    | split
    | with_reducible exact SameBytes.mk rfl rfl rfl
    | with_reducible exact SameBox.mk rfl
    | with_reducible exact KeysOk.refl _ _
    | ((with_reducible apply keeps_mk); (with_reducible
        first
        | assumption | apply keeps_ite | apply keeps_foldl | apply keeps_ite_snd | apply keeps_foldl_snd
        | apply setReg_keeps | apply settleFlush_keeps | apply startProgram_keeps
        | refine keeps_pair_snd (by assumption) ?_))
    | dsimp only

theorem checksEnd_keeps {s0 : State} {s : State} {blocks : List Nat} {pelganLanes : List Nat} {aedupLanes : List
    Nat} {notRun : List Nat} {failed : Nat} (h : Keeps s0 s) :
    Keeps s0 (checksEnd s blocks pelganLanes aedupLanes notRun failed) := by
  unfold checksEnd
  try dsimp only
  repeat' first
    | with_reducible assumption
    | intro _
    | with_reducible first
      | apply keeps_ite | apply takeFailures_keeps
    | split
    | with_reducible exact SameBytes.mk rfl rfl rfl
    | with_reducible exact SameBox.mk rfl
    | with_reducible exact KeysOk.refl _ _
    | ((with_reducible apply keeps_mk); (with_reducible
        first
        | assumption | apply keeps_ite | apply takeFailures_keeps))
    | dsimp only

theorem shutdownTestProgress_keeps {s0 : State} {s : State} {blocks : List Nat} {pelganLanes : List Nat} {aedupLanes
    : List Nat} {notRun : List Nat} {failed : Nat} (h : Keeps s0 s) :
    Keeps s0 (shutdownTestProgress s blocks pelganLanes aedupLanes notRun failed) := by
  unfold shutdownTestProgress
  try dsimp only
  repeat' first
    | with_reducible assumption
    | intro _
    | with_reducible first
      | apply keeps_ite | apply keeps_foldl | apply askWake_keeps | apply settleFlush_keeps | apply checksEnd_keeps
      | apply setReg_keeps
    | split
    | ((with_reducible apply keeps_mk_full); (with_reducible
        first
        | assumption | apply keeps_ite | apply keeps_foldl | apply askWake_keeps | apply settleFlush_keeps
        | apply checksEnd_keeps | apply setReg_keeps))
    | exact EepromKeeps.refl _
    | exact EepromKeeps.mk rfl rfl rfl rfl rfl rfl rfl (by first | exact Nat.le_refl _ | exact Nat.le_succ _)
    | with_reducible exact KeysOk.refl _ _
    | (refine BytesOk.of fun a b c d e => ⟨?_, ?_, ?_, ?_, ?_⟩) <;> repeat' first
        | assumption | exact memWf_nil | apply memWf_clear | apply memWf_putNat | apply memWf_write | apply memWf_copy
        | apply memWf_filter | apply memWf_put | apply memWf_foldl | intro _ | split
    | dsimp only

theorem execShutdownTestProgress_keeps (failedBlocks : List Nat) (pelganLanes : List Nat) (aedupLanes : List Nat) (notRun : List Nat) (failedChecks : Nat) (s : State) : Answers s (execShutdownTestProgress failedBlocks pelganLanes aedupLanes notRun failedChecks s) := by
  refine answers_next ?_
  have h := Keeps.refl s
  repeat' first
    | with_reducible assumption
    | intro _
    | with_reducible first
      | apply shutdownTestProgress_keeps
    | split
    | dsimp only

theorem blockReturn_keeps {s0 : State} {s : State} {b : Nat} (h : Keeps s0 s) :
    Keeps s0 (blockReturn s b).2 := by
  unfold blockReturn
  try dsimp only
  repeat' first
    | with_reducible assumption
    | intro _
    | with_reducible first
      | apply keeps_ite | apply keeps_ite_snd | apply keeps_foldl_snd | refine keeps_pair_snd (by assumption) ?_
    | split
    | with_reducible exact SameBytes.mk rfl rfl rfl
    | with_reducible exact SameBox.mk rfl
    | with_reducible exact KeysOk.refl _ _
    | ((with_reducible apply keeps_mk); (with_reducible
        first
        | assumption | apply keeps_ite | apply keeps_ite_snd | apply keeps_foldl_snd
        | refine keeps_pair_snd (by assumption) ?_))
    | dsimp only

theorem dropReturns_keeps {s0 : State} {s : State} (h : Keeps s0 s) :
    Keeps s0 (dropReturns s) := by
  unfold dropReturns
  try dsimp only
  repeat' first
    | with_reducible assumption
    | intro _
    | with_reducible first
      | apply keeps_ite | apply bump_keeps
    | split
    | with_reducible exact SameBytes.mk rfl rfl rfl
    | with_reducible exact SameBox.mk rfl
    | with_reducible exact KeysOk.refl _ _
    | ((with_reducible apply keeps_mk); (with_reducible
        first
        | assumption | apply keeps_ite | apply bump_keeps))
    | dsimp only

theorem passCursor_keeps {s0 : State} {s : State} {r : Nat} {b : Nat} (h : Keeps s0 s) :
    Keeps s0 (passCursor s r b) := by
  unfold passCursor
  try dsimp only
  repeat' first
    | with_reducible assumption
    | intro _
    | with_reducible first
      | apply keeps_ite | apply bump_keeps
    | split
    | with_reducible exact SameBytes.mk rfl rfl rfl
    | with_reducible exact SameBox.mk rfl
    | with_reducible exact KeysOk.refl _ _
    | ((with_reducible apply keeps_mk); (with_reducible
        first
        | assumption | apply keeps_ite | apply bump_keeps))
    | dsimp only

theorem keepFirst_keeps {s0 : State} {s : State} {b : Nat} (h : Keeps s0 s) :
    Keeps s0 (keepFirst s b) := by
  unfold keepFirst
  try dsimp only
  repeat' first
    | with_reducible assumption
    | intro _
    | split
    | with_reducible exact SameBytes.mk rfl rfl rfl
    | with_reducible exact SameBox.mk rfl
    | with_reducible exact KeysOk.refl _ _
    | ((with_reducible apply keeps_mk); (with_reducible
        first
        | assumption))
    | dsimp only

theorem sliceStart_keeps {s0 : State} {s : State} {r : Nat} {remainingNs : Nat} {vinMv : Nat} (h : Keeps s0 s) :
    Keeps s0 (sliceStart s r remainingNs vinMv) := by
  unfold sliceStart
  try dsimp only
  repeat' first
    | with_reducible assumption
    | intro _
    | with_reducible first
      | apply keeps_ite | apply readVin_keeps | apply bump_keeps | apply keepFirst_keeps | apply passCursor_keeps
    | split
    | with_reducible exact SameBytes.mk rfl rfl rfl
    | with_reducible exact SameBox.mk rfl
    | with_reducible exact KeysOk.refl _ _
    | ((with_reducible apply keeps_mk); (with_reducible
        first
        | assumption | apply keeps_ite | apply readVin_keeps | apply bump_keeps | apply keepFirst_keeps
        | apply passCursor_keeps))
    | dsimp only

theorem execSliceStart_keeps (region : Nat) (remainingNs : Nat) (vinMv : Nat) (s : State) : Answers s (execSliceStart region remainingNs vinMv s) := by
  refine answers_next ?_
  have h := Keeps.refl s
  repeat' first
    | with_reducible assumption
    | intro _
    | with_reducible first
      | apply sliceStart_keeps
    | split
    | dsimp only

theorem dropSlice_keeps {s0 : State} {s : State} {b : Nat} (h : Keeps s0 s) :
    Keeps s0 (dropSlice s b) := by
  unfold dropSlice
  try dsimp only
  repeat' first
    | with_reducible assumption
    | intro _
    | split
    | with_reducible exact SameBytes.mk rfl rfl rfl
    | with_reducible exact SameBox.mk rfl
    | with_reducible exact KeysOk.refl _ _
    | ((with_reducible apply keeps_mk); (with_reducible
        first
        | assumption))
    | dsimp only

theorem sliceFails_keeps {s0 : State} {s : State} {b : Nat} {part : Nat} {isReturn : Bool} (h : Keeps s0 s) :
    Keeps s0 (sliceFails s b part isReturn) := by
  unfold sliceFails
  try dsimp only
  repeat' first
    | with_reducible assumption
    | intro _
    | with_reducible first
      | apply keeps_ite | apply bump_keeps | apply dropSlice_keeps | apply logError_keeps | apply quarantineAs_keeps
    | split
    | with_reducible exact SameBytes.mk rfl rfl rfl
    | with_reducible exact SameBox.mk rfl
    | with_reducible exact KeysOk.refl _ _
    | ((with_reducible apply keeps_mk); (with_reducible
        first
        | assumption | apply keeps_ite | apply bump_keeps | apply dropSlice_keeps | apply logError_keeps
        | apply quarantineAs_keeps))
    | dsimp only

theorem sliceEnds_keeps {s0 : State} {s : State} {b : Nat} {x : Slice} (h : Keeps s0 s) :
    Keeps s0 (sliceEnds s b x) := by
  unfold sliceEnds
  try dsimp only
  repeat' first
    | with_reducible assumption
    | intro _
    | with_reducible first
      | apply keeps_ite | apply dropSlice_keeps | apply keepFirst_keeps | apply bump_keeps
    | split
    | with_reducible exact SameBytes.mk rfl rfl rfl
    | with_reducible exact SameBox.mk rfl
    | with_reducible exact KeysOk.refl _ _
    | ((with_reducible apply keeps_mk); (with_reducible
        first
        | assumption | apply keeps_ite | apply dropSlice_keeps | apply keepFirst_keeps | apply bump_keeps))
    | dsimp only

theorem slicePartEnd_keeps {s0 : State} {s : State} {b : Nat} {ok : Bool} (h : Keeps s0 s) :
    Keeps s0 (slicePartEnd s b ok) := by
  unfold slicePartEnd
  try dsimp only
  repeat' first
    | with_reducible assumption
    | intro _
    | with_reducible first
      | apply keeps_ite | apply sliceFails_keeps | apply sliceEnds_keeps
    | split
    | with_reducible exact SameBytes.mk rfl rfl rfl
    | with_reducible exact SameBox.mk rfl
    | with_reducible exact KeysOk.refl _ _
    | ((with_reducible apply keeps_mk); (with_reducible
        first
        | assumption | apply keeps_ite | apply sliceFails_keeps | apply sliceEnds_keeps))
    | dsimp only

theorem execSlicePartEnd_keeps (block : Nat) (ok : Bool) (s : State) : Answers s (execSlicePartEnd block ok s) := by
  refine answers_next ?_
  have h := Keeps.refl s
  repeat' first
    | with_reducible assumption
    | intro _
    | with_reducible first
      | apply slicePartEnd_keeps
    | split
    | dsimp only

theorem sliceLimitCheck_keeps {s0 : State} {s : State} {b : Nat} {vinMv : Nat} (h : Keeps s0 s) :
    Keeps s0 (sliceLimitCheck s b vinMv) := by
  unfold sliceLimitCheck
  try dsimp only
  repeat' first
    | with_reducible assumption
    | intro _
    | with_reducible first
      | apply keeps_ite | apply readVin_keeps | apply bump_keeps
    | split
    | with_reducible exact SameBytes.mk rfl rfl rfl
    | with_reducible exact SameBox.mk rfl
    | with_reducible exact KeysOk.refl _ _
    | ((with_reducible apply keeps_mk); (with_reducible
        first
        | assumption | apply keeps_ite | apply readVin_keeps | apply bump_keeps))
    | dsimp only

theorem execSliceLimitCheck_keeps (block : Nat) (vinMv : Nat) (s : State) : Answers s (execSliceLimitCheck block vinMv s) := by
  refine answers_next ?_
  have h := Keeps.refl s
  repeat' first
    | with_reducible assumption
    | intro _
    | with_reducible first
      | apply sliceLimitCheck_keeps
    | split
    | dsimp only

theorem selectTap_keeps {s0 : State} {s : State} {i : TapInstr} (h : Keeps s0 s) :
    Keeps s0 (selectTap s i) := by
  unfold selectTap
  try dsimp only
  repeat' first
    | with_reducible assumption
    | intro _
    | split
    | with_reducible exact SameBytes.mk rfl rfl rfl
    | with_reducible exact SameBox.mk rfl
    | with_reducible exact KeysOk.refl _ _
    | ((with_reducible apply keeps_mk); (with_reducible
        first
        | assumption))
    | dsimp only

theorem execTapBypass_keeps (s : State) : Answers s (execTapBypass s) := by
  refine answers_next ?_
  have h := Keeps.refl s
  repeat' first
    | with_reducible assumption
    | intro _
    | with_reducible first
      | apply send_keeps | apply selectTap_keeps
    | split
    | dsimp only

theorem execTapIdcode_keeps (s : State) : Answers s (execTapIdcode s) := by
  refine answers_next ?_
  have h := Keeps.refl s
  repeat' first
    | with_reducible assumption
    | intro _
    | with_reducible first
      | apply send_keeps | apply selectTap_keeps
    | split
    | dsimp only

theorem execTapSamplePreload_keeps (s : State) : Answers s (execTapSamplePreload s) := by
  refine answers_next ?_
  have h := Keeps.refl s
  repeat' first
    | with_reducible assumption
    | intro _
    | with_reducible first
      | apply selectTap_keeps
    | split
    | dsimp only

theorem tapRefused_keeps {s0 : State} {s : State} (h : Keeps s0 s) :
    Keeps s0 (tapRefused s) := by
  unfold tapRefused
  try dsimp only
  repeat' first
    | with_reducible assumption
    | intro _
    | with_reducible first
      | apply keeps_ite | apply selectTap_keeps
    | split
    | dsimp only

theorem execTapRefusedInstruction_keeps (s : State) : Answers s (execTapRefusedInstruction s) := by
  refine answers_next ?_
  have h := Keeps.refl s
  repeat' first
    | with_reducible assumption
    | intro _
    | with_reducible first
      | apply tapRefused_keeps
    | split
    | dsimp only

theorem execTapReset_keeps (s : State) : Answers s (execTapReset s) := by
  refine answers_next ?_
  have h := Keeps.refl s
  repeat' first
    | with_reducible assumption
    | intro _
    | with_reducible first
      | apply selectTap_keeps
    | split
    | dsimp only

theorem abortAll_keeps {s0 : State} {s : State} (h : Keeps s0 s) :
    Keeps s0 (abortAll s) := by
  unfold abortAll
  try dsimp only
  repeat' first
    | with_reducible assumption
    | intro _
    | with_reducible first
      | apply keeps_foldl | apply beginAbort_keeps
    | split
    | dsimp only

theorem zeroSecrets_keeps {s0 : State} {s : State} (h : Keeps s0 s) :
    Keeps s0 (zeroSecrets s) := by
  unfold zeroSecrets
  try dsimp only
  repeat' first
    | with_reducible assumption
    | intro _
    | split
    | with_reducible exact SameBytes.mk rfl rfl rfl
    | with_reducible exact SameBox.mk rfl
    | with_reducible exact KeysOk.refl _ _
    | ((with_reducible apply keeps_mk); (with_reducible
        first
        | assumption))
    | dsimp only

theorem dropProtected_keeps {s0 : State} {s : State} (h : Keeps s0 s) :
    Keeps s0 (dropProtected s) := by
  unfold dropProtected
  try dsimp only
  repeat' first
    | with_reducible assumption
    | intro _
    | with_reducible first
      | apply keeps_ite | apply keeps_foldl | apply aedupReset_keeps | apply linkDown_keeps
    | split
    | dsimp only

theorem testEnter_keeps {s0 : State} {s : State} (h : Keeps s0 s) :
    Keeps s0 (testEnter s) := by
  unfold testEnter
  try dsimp only
  repeat' first
    | with_reducible assumption
    | intro _
    | with_reducible first
      | apply keeps_ite | apply abortAll_keeps | apply assertAlert_keeps | apply setReg_keeps
      | apply dropProtected_keeps | apply zeroSecrets_keeps
    | split
    | with_reducible exact SameBytes.mk rfl rfl rfl
    | with_reducible exact SameBox.mk rfl
    | with_reducible exact KeysOk.refl _ _
    | ((with_reducible apply keeps_mk); (with_reducible
        first
        | assumption | apply keeps_ite | apply abortAll_keeps | apply assertAlert_keeps | apply setReg_keeps
        | apply dropProtected_keeps | apply zeroSecrets_keeps))
    | dsimp only

theorem execTestEnter_keeps (s : State) : Answers s (execTestEnter s) := by
  refine answers_next ?_
  have h := Keeps.refl s
  repeat' first
    | with_reducible assumption
    | intro _
    | with_reducible first
      | apply testEnter_keeps
    | split
    | dsimp only

end Sys2Proof.Machine
end

