-- ==== Sys2Proof/Laws/KeepsReset.lean ====
section
/-! SUPPORT. What every operation of Machine/Reset.lean keeps. -/

namespace Sys2Proof.Machine

theorem teardownDrainEnd_keeps {s0 : State} {s : State} {c : Nat} (h : Keeps s0 s) :
    Keeps s0 (teardownDrainEnd s c) := by
  unfold teardownDrainEnd
  try dsimp only
  repeat' first
    | with_reducible assumption
    | intro _
    | with_reducible first
      | apply keeps_ite | apply drainEnd_keeps
    | split
    | dsimp only

theorem execTeardownDrainEnd_keeps (ctx : Nat) (s : State) : Answers s (execTeardownDrainEnd ctx s) := by
  refine answers_next ?_
  have h := Keeps.refl s
  repeat' first
    | with_reducible assumption
    | intro _
    | with_reducible first
      | apply teardownDrainEnd_keeps
    | split
    | dsimp only

theorem hangJob_keeps {s0 : State} {s : State} {u : Sys2Proof.MonitorUnit} {inst : Nat} {id : Nat} (h : Keeps s0 s)
    :
    Keeps s0 (hangJob s u inst id) := by
  unfold hangJob
  try dsimp only
  repeat' first
    | with_reducible assumption
    | intro _
    | with_reducible first
      | apply keeps_ite | apply fenceBy_keeps | apply finish_keeps
    | split
    | dsimp only

theorem hangFatal_keeps {s0 : State} {s : State} {u : Sys2Proof.MonitorUnit} {inst : Nat} (h : Keeps s0 s) :
    Keeps s0 (hangFatal s u inst) := by
  unfold hangFatal
  try dsimp only
  repeat' first
    | with_reducible assumption
    | intro _
    | with_reducible first
      | apply keeps_ite_snd | apply keeps_foldl_snd | apply takeFree_keeps | apply fatalError_keeps
      | refine keeps_pair_snd (by assumption) ?_
    | split
    | dsimp only

theorem hangUnit_keeps {s0 : State} {s : State} {u : Sys2Proof.MonitorUnit} {inst : Nat} (h : Keeps s0 s) :
    Keeps s0 (hangUnit s u inst) := by
  unfold hangUnit
  try dsimp only
  repeat' first
    | with_reducible assumption
    | intro _
    | with_reducible first
      | apply keeps_ite | apply quarantine_keeps | apply startStackReset_keeps | apply startChannelReset_keeps
      | apply hangFatal_keeps | apply regionFaultBy_keeps
    | split
    | dsimp only

theorem progressMonitor_keeps {s0 : State} {s : State} {u : Sys2Proof.MonitorUnit} {inst : Nat} {job : Nat} (h :
    Keeps s0 s) :
    Keeps s0 (progressMonitor s u inst job) := by
  unfold progressMonitor
  try dsimp only
  repeat' first
    | with_reducible assumption
    | intro _
    | with_reducible first
      | apply keeps_ite | apply bump_keeps | apply hangJob_keeps | apply hangUnit_keeps
    | split
    | dsimp only

theorem execProgressMonitor_keeps (unit : Sys2Proof.MonitorUnit) (inst : Nat) (job : Nat) (s : State) : Answers s (execProgressMonitor unit inst job s) := by
  refine answers_next ?_
  have h := Keeps.refl s
  repeat' first
    | with_reducible assumption
    | intro _
    | with_reducible first
      | apply progressMonitor_keeps
    | split
    | dsimp only

theorem drainTimeout_keeps {s0 : State} {s : State} {c : Nat} {writes : Nat} {u : Sys2Proof.MonitorUnit} {inst :
    Nat} (h : Keeps s0 s) :
    Keeps s0 (drainTimeout s c writes u inst) := by
  unfold drainTimeout
  try dsimp only
  repeat' first
    | with_reducible assumption
    | intro _
    | with_reducible first
      | apply keeps_ite | apply bump_keeps | apply hangUnit_keeps | apply fenceBy_keeps | apply drainEnd_keeps
    | split
    | dsimp only

theorem execDrainTimeout_keeps (ctx : Nat) (writes : Nat) (unit : Sys2Proof.MonitorUnit) (inst : Nat) (s : State) : Answers s (execDrainTimeout ctx writes unit inst s) := by
  refine answers_next ?_
  have h := Keeps.refl s
  repeat' first
    | with_reducible assumption
    | intro _
    | with_reducible first
      | apply drainTimeout_keeps
    | split
    | dsimp only

theorem contextWatchdog_keeps {s0 : State} {s : State} {c : Nat} (h : Keeps s0 s) :
    Keeps s0 (contextWatchdog s c) := by
  unfold contextWatchdog
  try dsimp only
  repeat' first
    | with_reducible assumption
    | intro _
    | with_reducible first
      | apply keeps_ite | apply setCtx_keeps
    | split
    | with_reducible exact SameBytes.mk rfl rfl rfl
    | with_reducible exact SameBox.mk rfl
    | with_reducible exact KeysOk.refl _ _
    | ((with_reducible apply keeps_mk); (with_reducible
        first
        | assumption | apply keeps_ite | apply setCtx_keeps))
    | dsimp only

theorem execContextWatchdog_keeps (ctx : Nat) (s : State) : Answers s (execContextWatchdog ctx s) := by
  refine answers_next ?_
  have h := Keeps.refl s
  repeat' first
    | with_reducible assumption
    | intro _
    | with_reducible first
      | apply contextWatchdog_keeps
    | split
    | dsimp only

theorem endBeat_keeps {s0 : State} {s : State} (h : Keeps s0 s) :
    Keeps s0 (endBeat s) := by
  unfold endBeat
  try dsimp only
  repeat' first
    | with_reducible assumption
    | intro _
    | with_reducible first
      | apply keeps_foldl | apply contextWatchdog_keeps
    | split
    | with_reducible exact SameBytes.mk rfl rfl rfl
    | with_reducible exact SameBox.mk rfl
    | with_reducible exact KeysOk.refl _ _
    | ((with_reducible apply keeps_mk); (with_reducible
        first
        | assumption | apply keeps_foldl | apply contextWatchdog_keeps))
    | dsimp only

theorem fireDog_keeps {s0 : State} {s : State} {c : Nat} (h : Keeps s0 s) :
    Keeps s0 (fireDog s c) := by
  unfold fireDog
  try dsimp only
  repeat' first
    | with_reducible assumption
    | intro _
    | with_reducible first
      | apply keeps_ite | apply fenceBy_keeps | apply bump_keeps
    | split
    | dsimp only

theorem wakeStacks_keeps {s0 : State} {s : State} {r : Nat} (h : Keeps s0 s) :
    Keeps s0 (wakeStacks s r) := by
  unfold wakeStacks
  try dsimp only
  repeat' first
    | with_reducible assumption
    | intro _
    | with_reducible first
      | apply keeps_ite
    | split
    | with_reducible exact SameBytes.mk rfl rfl rfl
    | with_reducible exact SameBox.mk rfl
    | with_reducible exact KeysOk.refl _ _
    | ((with_reducible apply keeps_mk); (with_reducible
        first
        | assumption | apply keeps_ite))
    | dsimp only

theorem resetChannels_keeps {s0 : State} {s : State} {r : Nat} (h : Keeps s0 s) :
    Keeps s0 (resetChannels s r) := by
  unfold resetChannels
  try dsimp only
  repeat' first
    | with_reducible assumption
    | intro _
    | with_reducible first
      | apply keeps_foldl | apply startChannelReset_keeps
    | split
    | with_reducible exact SameBytes.mk rfl rfl rfl
    | with_reducible exact SameBox.mk rfl
    | with_reducible exact KeysOk.refl _ _
    | ((with_reducible apply keeps_mk); (with_reducible
        first
        | assumption | apply keeps_foldl | apply startChannelReset_keeps))
    | dsimp only

theorem resetLinks_keeps {s0 : State} {s : State} {r : Nat} (h : Keeps s0 s) :
    Keeps s0 (resetLinks s r) := by
  unfold resetLinks
  try dsimp only
  repeat' first
    | with_reducible assumption
    | intro _
    | with_reducible first
      | apply keeps_foldl | apply startRetrain_keeps | apply linkDown_keeps
    | split
    | dsimp only

theorem rebuildRegion_keeps {s0 : State} {s : State} {r : Nat} (h : Keeps s0 s) :
    Keeps s0 (rebuildRegion s r) := by
  unfold rebuildRegion
  try dsimp only
  repeat' first
    | with_reducible assumption
    | intro _
    | split
    | with_reducible exact SameBytes.mk rfl rfl rfl
    | with_reducible exact SameBox.mk rfl
    | with_reducible exact KeysOk.refl _ _
    | ((with_reducible apply keeps_mk); (with_reducible
        first
        | assumption))
    | dsimp only

theorem openRegion_keeps {s0 : State} {s : State} {r : Nat} (h : Keeps s0 s) :
    Keeps s0 (openRegion s r) := by
  unfold openRegion
  try dsimp only
  repeat' first
    | with_reducible assumption
    | intro _
    | split
    | with_reducible exact SameBytes.mk rfl rfl rfl
    | with_reducible exact SameBox.mk rfl
    | with_reducible exact KeysOk.refl _ _
    | ((with_reducible apply keeps_mk); (with_reducible
        first
        | assumption))
    | dsimp only

theorem regionReset_keeps {s0 : State} {s : State} {r : Nat} {ok : Bool} (h : Keeps s0 s) :
    Keeps s0 (regionReset s r ok) := by
  unfold regionReset
  try dsimp only
  repeat' first
    | with_reducible assumption
    | intro _
    | with_reducible first
      | apply keeps_ite | apply keeps_ite_snd | apply keeps_foldl_snd | apply takeFree_keeps
      | apply fatalError_keeps | apply openRegion_keeps | apply rebuildRegion_keeps | apply resetLinks_keeps
      | apply resetChannels_keeps | apply wakeStacks_keeps | refine keeps_pair_snd (by assumption) ?_
    | split
    | dsimp only

theorem execRegionReset_keeps (region : Nat) (ok : Bool) (s : State) : Answers s (execRegionReset region ok s) := by
  refine answers_next ?_
  have h := Keeps.refl s
  repeat' first
    | with_reducible assumption
    | intro _
    | with_reducible first
      | apply regionReset_keeps
    | split
    | dsimp only

theorem execRegionResetTimeout_keeps (region : Nat) (s : State) : Answers s (execRegionResetTimeout region s) := by
  refine answers_next ?_
  have h := Keeps.refl s
  repeat' first
    | with_reducible assumption
    | intro _
    | with_reducible first
      | apply regionReset_keeps
    | split
    | dsimp only

end Sys2Proof.Machine
end

