-- ==== Sys2Proof/Laws/KeepsHem.lean ====
section
/-! SUPPORT. What every operation of Machine/Hem.lean keeps. -/

namespace Sys2Proof.Machine

theorem applySource_keeps {s0 : State} {s : State} {v : Nat} (h : Keeps s0 s) :
    Keeps s0 (applySource s v) := by
  unfold applySource
  try dsimp only
  repeat' first
    | with_reducible assumption
    | intro _
    | with_reducible first
      | apply keeps_ite | apply setReg_keeps | apply releaseAlert_keeps
    | split
    | with_reducible exact SameBytes.mk rfl rfl rfl
    | with_reducible exact SameBox.mk rfl
    | with_reducible exact KeysOk.refl _ _
    | ((with_reducible apply keeps_mk); (with_reducible
        first
        | assumption | apply keeps_ite | apply setReg_keeps | apply releaseAlert_keeps))
    | dsimp only

theorem applyWrite_keeps {s0 : State} {s : State} {w : WbItem} (h : Keeps s0 s) :
    Keeps s0 (applyWrite s w) := by
  unfold applyWrite
  try dsimp only
  repeat' first
    | with_reducible assumption
    | intro _
    | with_reducible first
      | apply keeps_ite | apply applySource_keeps | apply applySelect_keeps | apply setReg_keeps
    | split
    | with_reducible exact SameBytes.mk rfl rfl rfl
    | with_reducible exact SameBox.mk rfl
    | with_reducible exact KeysOk.refl _ _
    | ((with_reducible apply keeps_mk); (with_reducible
        first
        | assumption | apply keeps_ite | apply applySource_keeps | apply applySelect_keeps | apply setReg_keeps))
    | dsimp only

theorem followCache_keeps {s0 : State} {before : Nat} {s : State} (h : Keeps s0 s) :
    Keeps s0 (followCache before s) := by
  unfold followCache
  try dsimp only
  repeat' first
    | with_reducible assumption
    | intro _
    | with_reducible first
      | apply keeps_ite
    | split
    | with_reducible exact SameBytes.mk rfl rfl rfl
    | with_reducible exact SameBox.mk rfl
    | with_reducible exact KeysOk.refl _ _
    | ((with_reducible apply keeps_mk); (with_reducible
        first
        | assumption | apply keeps_ite))
    | dsimp only

theorem applyWrites_keeps {s0 : State} {s : State} {next : Nat} (h : Keeps s0 s) :
    Keeps s0 (applyWrites s next) := by
  unfold applyWrites
  try dsimp only
  repeat' first
    | with_reducible assumption
    | intro _
    | with_reducible first
      | apply keeps_ite | apply keeps_foldl | apply applyWrite_keeps | apply followCache_keeps
      | apply capBuckets_keeps | apply notify_keeps | apply bump_keeps
    | split
    | with_reducible exact SameBytes.mk rfl rfl rfl
    | with_reducible exact SameBox.mk rfl
    | with_reducible exact KeysOk.refl _ _
    | ((with_reducible apply keeps_mk); (with_reducible
        first
        | assumption | apply keeps_ite | apply keeps_foldl | apply applyWrite_keeps | apply followCache_keeps
        | apply capBuckets_keeps | apply notify_keeps | apply bump_keeps))
    | dsimp only

theorem stepOne_keeps {s0 : State} {s : State} (h : Keeps s0 s) :
    Keeps s0 (stepOne s) := by
  unfold stepOne
  try dsimp only
  repeat' first
    | with_reducible assumption
    | intro _
    | with_reducible first
      | apply keeps_foldl | apply settleMap_keeps | apply fireDog_keeps
    | split
    | dsimp only

theorem cancelDue_keeps {s0 : State} {next : Nat} {s : State} (h : Keeps s0 s) :
    Keeps s0 (cancelDue next s) := by
  unfold cancelDue
  try dsimp only
  repeat' first
    | with_reducible assumption
    | intro _
    | with_reducible first
      | apply keeps_ite | apply keeps_foldl | apply genAbort_keeps | apply finish_keeps
    | split
    | dsimp only

theorem stepTwo_keeps {s0 : State} {late : List Nat} {next : Nat} {s : State} (h : Keeps s0 s) :
    Keeps s0 (stepTwo late next s) := by
  unfold stepTwo
  try dsimp only
  repeat' first
    | with_reducible assumption
    | intro _
    | with_reducible first
      | apply freeSweep_keeps | apply kvSweep_keeps | apply freeVersions_keeps | apply cancelDue_keeps
    | split
    | with_reducible exact SameBytes.mk rfl rfl rfl
    | with_reducible exact SameBox.mk rfl
    | with_reducible exact KeysOk.refl _ _
    | ((with_reducible apply keeps_mk); (with_reducible
        first
        | assumption | apply freeSweep_keeps | apply kvSweep_keeps | apply freeVersions_keeps
        | apply cancelDue_keeps))
    | dsimp only

theorem stepThree_keeps {s0 : State} {next : Nat} {s : State} (h : Keeps s0 s) :
    Keeps s0 (stepThree next s) := by
  unfold stepThree
  try dsimp only
  repeat' first
    | with_reducible assumption
    | intro _
    | with_reducible first
      | apply applyJobs_keeps | apply applyRoutes_keeps | apply applyWrites_keeps | apply dropReturns_keeps
    | split
    | with_reducible exact SameBytes.mk rfl rfl rfl
    | with_reducible exact SameBox.mk rfl
    | with_reducible exact KeysOk.refl _ _
    | ((with_reducible apply keeps_mk); (with_reducible
        first
        | assumption | apply applyJobs_keeps | apply applyRoutes_keeps | apply applyWrites_keeps
        | apply dropReturns_keeps))
    | dsimp only

theorem stepFour_keeps {s0 : State} {s : State} (h : Keeps s0 s) :
    Keeps s0 (stepFour s) := by
  unfold stepFour
  try dsimp only
  repeat' first
    | with_reducible assumption
    | intro _
    | with_reducible first
      | apply keeps_ite | apply keeps_foldl | apply mailboxSweep_keeps | apply countRegion_keeps
    | split
    | with_reducible exact SameBytes.mk rfl rfl rfl
    | with_reducible exact SameBox.mk rfl
    | with_reducible exact KeysOk.refl _ _
    | ((with_reducible apply keeps_mk); (with_reducible
        first
        | assumption | apply keeps_ite | apply keeps_foldl | apply mailboxSweep_keeps | apply countRegion_keeps))
    | dsimp only

theorem boundaryPoint_keeps {s0 : State} {s : State} {c : Nat} (h : Keeps s0 s) :
    Keeps s0 (boundaryPoint s c) := by
  unfold boundaryPoint
  try dsimp only
  repeat' first
    | with_reducible assumption
    | intro _
    | with_reducible first
      | apply keeps_ite | apply serveSave_keeps | apply beginSave_keeps
    | split
    | dsimp only

theorem restartSlice_keeps {s0 : State} {s : State} {c : Nat} (h : Keeps s0 s) :
    Keeps s0 (restartSlice s c) := by
  unfold restartSlice
  try dsimp only
  repeat' first
    | with_reducible assumption
    | intro _
    | with_reducible first
      | apply keeps_ite | apply updCtx_keeps
    | split
    | with_reducible exact SameBytes.mk rfl rfl rfl
    | with_reducible exact SameBox.mk rfl
    | with_reducible exact KeysOk.refl _ _
    | ((with_reducible apply keeps_mk); (with_reducible
        first
        | assumption | apply keeps_ite | apply updCtx_keeps))
    | dsimp only

theorem stepFive_keeps {s0 : State} {s : State} (h : Keeps s0 s) :
    Keeps s0 (stepFive s) := by
  unfold stepFive
  try dsimp only
  repeat' first
    | with_reducible assumption
    | intro _
    | with_reducible first
      | apply keeps_ite | apply keeps_foldl | apply boundaryPoint_keeps | apply placeAll_keeps
      | apply restartSlice_keeps | apply settleLeaving_keeps
    | split
    | with_reducible exact SameBytes.mk rfl rfl rfl
    | with_reducible exact SameBox.mk rfl
    | with_reducible exact KeysOk.refl _ _
    | ((with_reducible apply keeps_mk); (with_reducible
        first
        | assumption | apply keeps_ite | apply keeps_foldl | apply boundaryPoint_keeps | apply placeAll_keeps
        | apply restartSlice_keeps | apply settleLeaving_keeps))
    | dsimp only

theorem moveBeats_keeps {s0 : State} {s : State} {old : Nat} {new : Nat} (h : Keeps s0 s) :
    Keeps s0 (moveBeats s old new) := by
  unfold moveBeats
  try dsimp only
  repeat' first
    | with_reducible assumption
    | intro _
    | with_reducible first
      | apply keeps_ite
    | split
    | with_reducible exact SameBytes.mk rfl rfl rfl
    | with_reducible exact SameBox.mk rfl
    | exact keysOk_jobs (rising_map _)
    | with_reducible exact KeysOk.refl _ _
    | ((with_reducible apply keeps_mk); (with_reducible
        first
        | assumption | apply keeps_ite))
    | dsimp only

theorem stepSix_keeps {s0 : State} {s : State} {next : Nat} {number : Nat} {ns : Nat} (h : Keeps s0 s) :
    Keeps s0 (stepSix s next number ns) := by
  unfold stepSix
  try dsimp only
  repeat' first
    | with_reducible assumption
    | intro _
    | with_reducible first
      | apply setReg_keeps | apply moveBeats_keeps | apply countChip_keeps
    | split
    | with_reducible exact SameBytes.mk rfl rfl rfl
    | with_reducible exact SameBox.mk rfl
    | with_reducible exact KeysOk.refl _ _
    | ((with_reducible apply keeps_mk); (with_reducible
        first
        | assumption | apply setReg_keeps | apply moveBeats_keeps | apply countChip_keeps))
    | dsimp only

theorem boundarySeq_keeps {s0 : State} {s : State} {number : Nat} {ns : Nat} {late : List Nat} (h : Keeps s0 s) :
    Keeps s0 (boundarySeq s number ns late) := by
  unfold boundarySeq
  try dsimp only
  repeat' first
    | with_reducible assumption
    | intro _
    | with_reducible first
      | apply endBeat_keeps | apply fireRest_keeps | apply stepFive_keeps | apply stepFour_keeps
      | apply stepThree_keeps | apply stepTwo_keeps | apply stepOne_keeps | apply exportSweep_keeps
      | apply stepSix_keeps
    | split
    | dsimp only

theorem relock_keeps {s0 : State} {s : State} (h : Keeps s0 s) :
    Keeps s0 (relock s) := by
  unfold relock
  try dsimp only
  repeat' first
    | with_reducible assumption
    | intro _
    | with_reducible first
      | apply releaseAlert_keeps | apply setReg_keeps
    | split
    | with_reducible exact SameBytes.mk rfl rfl rfl
    | with_reducible exact SameBox.mk rfl
    | with_reducible exact KeysOk.refl _ _
    | ((with_reducible apply keeps_mk); (with_reducible
        first
        | assumption | apply releaseAlert_keeps | apply setReg_keeps))
    | dsimp only

theorem beatLoss_keeps {s0 : State} {s : State} (h : Keeps s0 s) :
    Keeps s0 (beatLoss s) := by
  unfold beatLoss
  try dsimp only
  repeat' first
    | with_reducible assumption
    | intro _
    | with_reducible first
      | apply keeps_ite | apply notify_keeps | apply assertAlert_keeps | apply bump_keeps | apply setReg_keeps
      | apply loseSpanning_keeps
    | split
    | with_reducible exact SameBytes.mk rfl rfl rfl
    | with_reducible exact SameBox.mk rfl
    | with_reducible exact KeysOk.refl _ _
    | ((with_reducible apply keeps_mk); (with_reducible
        first
        | assumption | apply keeps_ite | apply notify_keeps | apply assertAlert_keeps | apply bump_keeps
        | apply setReg_keeps | apply loseSpanning_keeps))
    | dsimp only

theorem keepInterval_keeps {s0 : State} {s : State} {ns : Nat} (h : Keeps s0 s) :
    Keeps s0 (keepInterval s ns) := by
  unfold keepInterval
  try dsimp only
  repeat' first
    | with_reducible assumption
    | intro _
    | split
    | with_reducible exact SameBytes.mk rfl rfl rfl
    | with_reducible exact SameBox.mk rfl
    | with_reducible exact KeysOk.refl _ _
    | ((with_reducible apply keeps_mk); (with_reducible
        first
        | assumption))
    | dsimp only

theorem beatBoundary_keeps {s0 : State} {s : State} {alignNs : Int} {late : List Nat} (h : Keeps s0 s) :
    Keeps s0 (beatBoundary s alignNs late) := by
  unfold beatBoundary
  try dsimp only
  repeat' first
    | with_reducible assumption
    | intro _
    | with_reducible first
      | apply keeps_ite | apply relock_keeps | apply keepInterval_keeps | apply setReg_keeps
      | apply boundarySeq_keeps
    | split
    | dsimp only

theorem execBeatBoundary_keeps (alignNs : Int) (late : List Nat) (s : State) : Answers s (execBeatBoundary alignNs late s) := by
  refine answers_next ?_
  have h := Keeps.refl s
  repeat' first
    | with_reducible assumption
    | intro _
    | with_reducible first
      | apply beatBoundary_keeps
    | split
    | dsimp only

theorem watchEdge_keeps {s0 : State} {s : State} {sinceBoundary : Nat} {sinceEdge : Nat} {late : List Nat} (h :
    Keeps s0 s) :
    Keeps s0 (watchEdge s sinceBoundary sinceEdge late) := by
  unfold watchEdge
  try dsimp only
  repeat' first
    | with_reducible assumption
    | intro _
    | with_reducible first
      | apply keeps_ite | apply boundarySeq_keeps | apply relock_keeps
    | split
    | with_reducible exact SameBytes.mk rfl rfl rfl
    | with_reducible exact SameBox.mk rfl
    | with_reducible exact KeysOk.refl _ _
    | ((with_reducible apply keeps_mk); (with_reducible
        first
        | assumption | apply keeps_ite | apply boundarySeq_keeps | apply relock_keeps))
    | dsimp only

theorem beatInEdge_keeps {s0 : State} {s : State} {sinceBoundary : Nat} {sinceEdge : Nat} {late : List Nat} (h :
    Keeps s0 s) :
    Keeps s0 (beatInEdge s sinceBoundary sinceEdge late) := by
  unfold beatInEdge
  try dsimp only
  repeat' first
    | with_reducible assumption
    | intro _
    | with_reducible first
      | apply keeps_ite | apply watchEdge_keeps | apply boundarySeq_keeps | apply relock_keeps
      | apply keepInterval_keeps | apply bump_keeps
    | split
    | dsimp only

theorem execBeatInEdge_keeps (sinceBoundary : Nat) (sinceEdge : Nat) (late : List Nat) (s : State) : Answers s (execBeatInEdge sinceBoundary sinceEdge late s) := by
  refine answers_next ?_
  have h := Keeps.refl s
  repeat' first
    | with_reducible assumption
    | intro _
    | with_reducible first
      | apply beatInEdge_keeps
    | split
    | dsimp only

theorem beatInEdgeAbsent_keeps {s0 : State} {s : State} (h : Keeps s0 s) :
    Keeps s0 (beatInEdgeAbsent s) := by
  unfold beatInEdgeAbsent
  try dsimp only
  repeat' first
    | with_reducible assumption
    | intro _
    | split
    | with_reducible exact SameBytes.mk rfl rfl rfl
    | with_reducible exact SameBox.mk rfl
    | with_reducible exact KeysOk.refl _ _
    | ((with_reducible apply keeps_mk); (with_reducible
        first
        | assumption))
    | dsimp only

theorem execBeatInEdgeAbsent_keeps (s : State) : Answers s (execBeatInEdgeAbsent s) := by
  refine answers_next ?_
  have h := Keeps.refl s
  repeat' first
    | with_reducible assumption
    | intro _
    | with_reducible first
      | apply beatInEdgeAbsent_keeps
    | split
    | dsimp only

theorem holdoverBoundary_keeps {s0 : State} {s : State} {late : List Nat} (h : Keeps s0 s) :
    Keeps s0 (holdoverBoundary s late) := by
  unfold holdoverBoundary
  try dsimp only
  repeat' first
    | with_reducible assumption
    | intro _
    | with_reducible first
      | apply keeps_ite | apply setReg_keeps | apply beatLoss_keeps | apply boundarySeq_keeps
    | split
    | dsimp only

theorem execHoldoverBoundary_keeps (late : List Nat) (s : State) : Answers s (execHoldoverBoundary late s) := by
  refine answers_next ?_
  have h := Keeps.refl s
  repeat' first
    | with_reducible assumption
    | intro _
    | with_reducible first
      | apply holdoverBoundary_keeps
    | split
    | dsimp only

theorem beatFlitSend_keeps {s0 : State} {s : State} (h : Keeps s0 s) :
    Keeps s0 (beatFlitSend s) := by
  unfold beatFlitSend
  try dsimp only
  repeat' first
    | with_reducible assumption
    | intro _
    | with_reducible first
      | apply keeps_ite | apply keeps_foldl | apply send_keeps
    | split
    | with_reducible exact SameBytes.mk rfl rfl rfl
    | with_reducible exact SameBox.mk rfl
    | with_reducible exact KeysOk.refl _ _
    | ((with_reducible apply keeps_mk); (with_reducible
        first
        | assumption | apply keeps_ite | apply keeps_foldl | apply send_keeps))
    | dsimp only

theorem execBeatFlitSend_keeps (s : State) : Answers s (execBeatFlitSend s) := by
  refine answers_next ?_
  have h := Keeps.refl s
  repeat' first
    | with_reducible assumption
    | intro _
    | with_reducible first
      | apply beatFlitSend_keeps
    | split
    | dsimp only

theorem beatFlit_keeps {s0 : State} {s : State} {port : Nat} {beat : Nat} {period : Nat} {remaining : Nat}
    {formation : Nat} (h : Keeps s0 s) :
    Keeps s0 (beatFlit s port beat period remaining formation) := by
  unfold beatFlit
  try dsimp only
  repeat' first
    | with_reducible assumption
    | intro _
    | with_reducible first
      | apply keeps_ite | apply keeps_foldl | apply send_keeps
    | split
    | with_reducible exact SameBytes.mk rfl rfl rfl
    | with_reducible exact SameBox.mk rfl
    | with_reducible exact KeysOk.refl _ _
    | ((with_reducible apply keeps_mk); (with_reducible
        first
        | assumption | apply keeps_ite | apply keeps_foldl | apply send_keeps))
    | dsimp only

theorem execBeatFlit_keeps (port : Nat) (beat : Nat) (period : Nat) (remaining : Nat) (formation : Nat) (s : State) : Answers s (execBeatFlit port beat period remaining formation s) := by
  refine answers_next ?_
  have h := Keeps.refl s
  repeat' first
    | with_reducible assumption
    | intro _
    | with_reducible first
      | apply beatFlit_keeps
    | split
    | dsimp only

end Sys2Proof.Machine
end

