-- ==== Sys2Proof/Laws/KeepsQueues.lean ====
section
/-! SUPPORT. What every operation of Machine/Queues.lean keeps. -/

namespace Sys2Proof.Machine

theorem roomForQueue_keeps {s0 : State} {s : State} (h : Keeps s0 s) :
    OptKeeps s0 (roomForQueue s) := by
  unfold roomForQueue
  try dsimp only
  repeat' first
    | with_reducible assumption
    | intro _
    | with_reducible first
      | apply keeps_ite | apply optKeeps_none | apply optKeeps_some | apply optKeeps_ite | apply writeBack_keeps
      | refine keeps_opt (by assumption) ?_
    | split
    | with_reducible exact SameBytes.mk rfl rfl rfl
    | with_reducible exact SameBox.mk rfl
    | with_reducible exact KeysOk.refl _ _
    | ((with_reducible apply keeps_mk); (with_reducible
        first
        | assumption | apply keeps_ite | apply optKeeps_none | apply optKeeps_some | apply optKeeps_ite
        | apply writeBack_keeps | refine keeps_opt (by assumption) ?_))
    | dsimp only

theorem queueTableFetch_keeps {s0 : State} {s : State} {n : Nat} (h : Keeps s0 s) :
    Keeps s0 (queueTableFetch s n) := by
  unfold queueTableFetch
  try dsimp only
  repeat' first
    | with_reducible assumption
    | intro _
    | with_reducible first
      | apply keeps_ite | apply optKeeps_none | apply optKeeps_some | apply optKeeps_ite | apply wantLine_keeps
      | apply roomForQueue_keeps | apply bump_keeps | apply useLine_keeps | refine keeps_opt (by assumption) ?_
    | split
    | with_reducible exact SameBytes.mk rfl rfl rfl
    | with_reducible exact SameBox.mk rfl
    | with_reducible exact KeysOk.refl _ _
    | ((with_reducible apply keeps_mk); (with_reducible
        first
        | assumption | apply keeps_ite | apply optKeeps_none | apply optKeeps_some | apply optKeeps_ite
        | apply wantLine_keeps | apply roomForQueue_keeps | apply bump_keeps | apply useLine_keeps
        | refine keeps_opt (by assumption) ?_))
    | dsimp only

theorem execQueueTableFetch_keeps (queue : Nat) (s : State) : Answers s (execQueueTableFetch queue s) := by
  refine answers_next ?_
  have h := Keeps.refl s
  repeat' first
    | with_reducible assumption
    | intro _
    | with_reducible first
      | apply queueTableFetch_keeps
    | split
    | dsimp only

theorem enableQueue_keeps {s0 : State} {s : State} {n : Nat} (h : Keeps s0 s) :
    Keeps s0 (enableQueue s n).2 := by
  unfold enableQueue
  try dsimp only
  repeat' first
    | with_reducible assumption
    | intro _
    | with_reducible first
      | apply keeps_ite | apply optKeeps_none | apply optKeeps_some | apply optKeeps_ite | apply keeps_ite_snd
      | apply keeps_foldl_snd | apply bump_keeps | apply useLine_keeps | apply roomForQueue_keeps
      | apply writeBack_keeps | refine keeps_opt (by assumption) ?_ | refine keeps_pair_snd (by assumption) ?_
    | split
    | with_reducible exact SameBytes.mk rfl rfl rfl
    | with_reducible exact SameBox.mk rfl
    | with_reducible exact KeysOk.refl _ _
    | ((with_reducible apply keeps_mk); (with_reducible
        first
        | assumption | apply keeps_ite | apply optKeeps_none | apply optKeeps_some | apply optKeeps_ite
        | apply keeps_ite_snd | apply keeps_foldl_snd | apply bump_keeps | apply useLine_keeps
        | apply roomForQueue_keeps | apply writeBack_keeps | refine keeps_opt (by assumption) ?_
        | refine keeps_pair_snd (by assumption) ?_))
    | dsimp only

theorem disableQueue_keeps {s0 : State} {s : State} {n : Nat} (h : Keeps s0 s) :
    Keeps s0 (disableQueue s n).2 := by
  unfold disableQueue
  try dsimp only
  repeat' first
    | with_reducible assumption
    | intro _
    | with_reducible first
      | apply keeps_ite | apply keeps_ite_snd | apply keeps_foldl_snd | apply settleDrains_keeps
      | refine keeps_pair_snd (by assumption) ?_
    | split
    | with_reducible exact SameBytes.mk rfl rfl rfl
    | with_reducible exact SameBox.mk rfl
    | with_reducible exact KeysOk.refl _ _
    | ((with_reducible apply keeps_mk); (with_reducible
        first
        | assumption | apply keeps_ite | apply keeps_ite_snd | apply keeps_foldl_snd | apply settleDrains_keeps
        | refine keeps_pair_snd (by assumption) ?_))
    | dsimp only

theorem doorbellError_keeps {s0 : State} {s : State} (h : Keeps s0 s) :
    Keeps s0 (doorbellError s) := by
  unfold doorbellError
  try dsimp only
  repeat' first
    | with_reducible assumption
    | intro _
    | with_reducible first
      | apply bump_keeps
    | split
    | dsimp only

theorem wantTable_keeps {s0 : State} {s : State} {n : Nat} (h : Keeps s0 s) :
    Keeps s0 (wantTable s n) := by
  unfold wantTable
  try dsimp only
  repeat' first
    | with_reducible assumption
    | intro _
    | with_reducible first
      | apply keeps_ite | apply wantLine_keeps
    | split
    | with_reducible exact SameBytes.mk rfl rfl rfl
    | with_reducible exact SameBox.mk rfl
    | with_reducible exact KeysOk.refl _ _
    | ((with_reducible apply keeps_mk); (with_reducible
        first
        | assumption | apply keeps_ite | apply wantLine_keeps))
    | dsimp only

theorem submissionDoorbell_keeps {s0 : State} {s : State} {n : Nat} {v : Nat} (h : Keeps s0 s) :
    Keeps s0 (submissionDoorbell s n v) := by
  unfold submissionDoorbell
  try dsimp only
  repeat' first
    | with_reducible assumption
    | intro _
    | with_reducible first
      | apply keeps_ite | apply doorbellError_keeps | apply wantTable_keeps | apply doorbellWakes_keeps
    | split
    | with_reducible exact SameBytes.mk rfl rfl rfl
    | with_reducible exact SameBox.mk rfl
    | with_reducible exact KeysOk.refl _ _
    | ((with_reducible apply keeps_mk); (with_reducible
        first
        | assumption | apply keeps_ite | apply doorbellError_keeps | apply wantTable_keeps
        | apply doorbellWakes_keeps))
    | dsimp only

theorem execSubmissionDoorbell_keeps (queue : Nat) (value : Nat) (s : State) : Answers s (execSubmissionDoorbell queue value s) := by
  refine answers_next ?_
  have h := Keeps.refl s
  repeat' first
    | with_reducible assumption
    | intro _
    | with_reducible first
      | apply submissionDoorbell_keeps
    | split
    | dsimp only

theorem completionDoorbell_keeps {s0 : State} {s : State} {n : Nat} {v : Nat} (h : Keeps s0 s) :
    Keeps s0 (completionDoorbell s n v) := by
  unfold completionDoorbell
  try dsimp only
  repeat' first
    | with_reducible assumption
    | intro _
    | with_reducible first
      | apply keeps_ite | apply doorbellError_keeps | apply wantTable_keeps | apply doorbellWakes_keeps
    | split
    | with_reducible exact SameBytes.mk rfl rfl rfl
    | with_reducible exact SameBox.mk rfl
    | with_reducible exact KeysOk.refl _ _
    | ((with_reducible apply keeps_mk); (with_reducible
        first
        | assumption | apply keeps_ite | apply doorbellError_keeps | apply wantTable_keeps
        | apply doorbellWakes_keeps))
    | dsimp only

theorem execCompletionDoorbell_keeps (queue : Nat) (value : Nat) (s : State) : Answers s (execCompletionDoorbell queue value s) := by
  refine answers_next ?_
  have h := Keeps.refl s
  repeat' first
    | with_reducible assumption
    | intro _
    | with_reducible first
      | apply completionDoorbell_keeps
    | split
    | dsimp only

theorem chargeFinal_keeps {s0 : State} {s : State} {client : Nat} {status : Nat} (h : Keeps s0 s) :
    Keeps s0 (chargeFinal s client status) := by
  unfold chargeFinal
  try dsimp only
  repeat' first
    | with_reducible assumption
    | intro _
    | with_reducible first
      | apply keeps_ite | apply bump_keeps
    | split
    | dsimp only

theorem writeCompletion_keeps {s0 : State} {s : State} {n : Nat} {cmdId : Nat} {status : Nat} {result : Nat} {intr :
    Bool} (h : Keeps s0 s) :
    Keeps s0 (writeCompletion s n cmdId status result intr) := by
  unfold writeCompletion
  try dsimp only
  repeat' first
    | with_reducible assumption
    | intro _
    | with_reducible first
      | apply keeps_ite | apply sendHeld_keeps
    | split
    | with_reducible exact SameBytes.mk rfl rfl rfl
    | with_reducible exact SameBox.mk rfl
    | with_reducible exact KeysOk.refl _ _
    | ((with_reducible apply keeps_mk); (with_reducible
        first
        | assumption | apply keeps_ite | apply sendHeld_keeps))
    | dsimp only

theorem dropJob_keeps {s0 : State} {s : State} {id : Nat} (h : Keeps s0 s) :
    Keeps s0 (dropJob s id) := by
  unfold dropJob
  try dsimp only
  repeat' first
    | with_reducible assumption
    | intro _
    | split
    | with_reducible exact SameBytes.mk rfl rfl rfl
    | with_reducible exact SameBox.mk rfl
    | exact keysOk_jobs (rising_del _)
    | with_reducible exact KeysOk.refl _ _
    | ((with_reducible apply keeps_mk); (with_reducible
        first
        | assumption))
    | dsimp only

theorem completeJob_keeps {s0 : State} {s : State} {id : Nat} {j : Job} {status : Nat} {result : Nat} (h : Keeps s0
    s) :
    Keeps s0 (completeJob s id j status result) := by
  unfold completeJob
  try dsimp only
  repeat' first
    | with_reducible assumption
    | intro _
    | with_reducible first
      | apply keeps_ite | apply bump_keeps | apply chargeFinal_keeps | apply dropJob_keeps
      | apply settleDrains_keeps | apply writeCompletion_keeps
    | split
    | dsimp only

theorem commandCompletion_keeps {s0 : State} {s : State} {id : Nat} (h : Keeps s0 s) :
    Keeps s0 (commandCompletion s id) := by
  unfold commandCompletion
  try dsimp only
  repeat' first
    | with_reducible assumption
    | intro _
    | with_reducible first
      | apply keeps_ite | apply keeps_ite_snd | apply keeps_foldl_snd | apply genComplete_keeps
      | apply completeJob_keeps | refine keeps_pair_snd (by assumption) ?_
    | split
    | dsimp only

theorem execCommandCompletion_keeps (job : Nat) (s : State) : Answers s (execCommandCompletion job s) := by
  refine answers_next ?_
  have h := Keeps.refl s
  repeat' first
    | with_reducible assumption
    | intro _
    | with_reducible first
      | apply commandCompletion_keeps
    | split
    | dsimp only

end Sys2Proof.Machine
end

