-- ==== Sys2Proof/Laws/KeepsSecurity.lean ====
section
/-! SUPPORT. What every operation of Machine/Security.lean keeps. -/

namespace Sys2Proof.Machine

theorem loadSlot_keeps {s0 : State} {s : State} {n : Nat} {kind : Nat} {key : Nat} (h : Keeps s0 s) :
    Keeps s0 (loadSlot s n kind key) := by
  unfold loadSlot
  try dsimp only
  repeat' first
    | with_reducible assumption
    | intro _
    | split
    | with_reducible exact SameBytes.mk rfl rfl rfl
    | with_reducible exact SameBox.mk rfl
    | with_reducible exact KeysOk.refl _ _
    | ((with_reducible apply keeps_mk); (with_reducible
        first
        | assumption))
    | dsimp only

theorem keyLoad_keeps {s0 : State} {s : State} {r : Nat} (h : Keeps s0 s) :
    Keeps s0 (keyLoad s r).2 := by
  unfold keyLoad
  try dsimp only
  repeat' first
    | with_reducible assumption
    | intro _
    | with_reducible first
      | apply keeps_ite | apply keeps_ite_snd | apply keeps_foldl_snd | apply bump_keeps | apply loadSlot_keeps
      | refine keeps_pair_snd (by assumption) ?_
    | split
    | dsimp only

theorem keyClear_keeps {s0 : State} {s : State} {n : Nat} (h : Keeps s0 s) :
    Keeps s0 (keyClear s n).2 := by
  unfold keyClear
  try dsimp only
  repeat' first
    | with_reducible assumption
    | intro _
    | with_reducible first
      | apply keeps_ite | apply keeps_ite_snd | apply keeps_foldl_snd | refine keeps_pair_snd (by assumption) ?_
    | split
    | with_reducible exact SameBytes.mk rfl rfl rfl
    | with_reducible exact SameBox.mk rfl
    | with_reducible exact KeysOk.refl _ _
    | ((with_reducible apply keeps_mk); (with_reducible
        first
        | assumption | apply keeps_ite | apply keeps_ite_snd | apply keeps_foldl_snd
        | refine keeps_pair_snd (by assumption) ?_))
    | dsimp only

theorem emptyTier_keeps {s0 : State} {s : State} (h : Keeps s0 s) :
    Keeps s0 (emptyTier s) := by
  unfold emptyTier
  try dsimp only
  repeat' first
    | with_reducible assumption
    | intro _
    | with_reducible first
      | apply keeps_ite | apply setFlashState_keeps
    | split
    | ((with_reducible apply keeps_mk_full); (with_reducible
        first
        | assumption | apply keeps_ite | apply setFlashState_keeps))
    | exact EepromKeeps.refl _
    | exact EepromKeeps.mk rfl rfl rfl rfl rfl rfl rfl (by first | exact Nat.le_refl _ | exact Nat.le_succ _)
    | with_reducible exact KeysOk.refl _ _
    | (refine BytesOk.of fun a b c d e => ⟨?_, ?_, ?_, ?_, ?_⟩) <;> repeat' first
        | assumption | exact memWf_nil | apply memWf_clear | apply memWf_putNat | apply memWf_write | apply memWf_copy
        | apply memWf_filter | apply memWf_put | apply memWf_foldl | intro _ | split
    | dsimp only

theorem drawKey_keeps {s0 : State} {s : State} (h : Keeps s0 s) :
    Keeps s0 (drawKey s).2 := by
  unfold drawKey
  try dsimp only
  repeat' first
    | with_reducible assumption
    | intro _
    | with_reducible first
      | apply keeps_ite_snd | apply keeps_foldl_snd | apply drawSecret_keeps
      | refine keeps_pair_snd (by assumption) ?_
    | split
    | dsimp only

theorem setTierKey_keeps {s0 : State} {s : State} (h : Keeps s0 s) :
    Keeps s0 (setTierKey s) := by
  unfold setTierKey
  try dsimp only
  repeat' first
    | with_reducible assumption
    | intro _
    | with_reducible first
      | apply keeps_ite | apply keeps_ite_snd | apply keeps_foldl_snd | apply drawKey_keeps | apply loadSlot_keeps
      | refine keeps_pair_snd (by assumption) ?_
    | split
    | ((with_reducible apply keeps_mk_full); (with_reducible
        first
        | assumption | apply keeps_ite | apply keeps_ite_snd | apply keeps_foldl_snd | apply drawKey_keeps
        | apply loadSlot_keeps | refine keeps_pair_snd (by assumption) ?_))
    | exact EepromKeeps.refl _
    | exact EepromKeeps.mk rfl rfl rfl rfl rfl rfl rfl (by first | exact Nat.le_refl _ | exact Nat.le_succ _)
    | with_reducible exact KeysOk.refl _ _
    | (refine BytesOk.of fun a b c d e => ⟨?_, ?_, ?_, ?_, ?_⟩) <;> repeat' first
        | assumption | exact memWf_nil | apply memWf_clear | apply memWf_putNat | apply memWf_write | apply memWf_copy
        | apply memWf_filter | apply memWf_put | apply memWf_foldl | intro _ | split
    | dsimp only

theorem flashFormat_keeps {s0 : State} {s : State} {v : Nat} (h : Keeps s0 s) :
    Keeps s0 (flashFormat s v).2 := by
  unfold flashFormat
  try dsimp only
  repeat' first
    | with_reducible assumption
    | intro _
    | with_reducible first
      | apply keeps_ite | apply keeps_ite_snd | apply keeps_foldl_snd | apply setTierKey_keeps
      | apply emptyTier_keeps | refine keeps_pair_snd (by assumption) ?_
    | split
    | dsimp only

theorem attest_keeps {s0 : State} {s : State} {nonce : Nat} (h : Keeps s0 s) :
    Keeps s0 (attest s nonce) := by
  unfold attest
  try dsimp only
  repeat' first
    | with_reducible assumption
    | intro _
    | with_reducible first
      | apply keeps_ite_snd | apply keeps_foldl_snd | apply drawSecret_keeps | apply setReg_keeps
      | refine keeps_pair_snd (by assumption) ?_
    | split
    | dsimp only

end Sys2Proof.Machine
end

