-- ==== Sys2Proof/Laws/KeepsDictionary.lean ====
section
/-! SUPPORT. What every operation of Machine/Dictionary.lean keeps. -/

namespace Sys2Proof.Machine

theorem dumpBytes_keeps {s0 : State} {s : State} {x1 : Nat} {x2 : Nat} (h : Keeps s0 s) :
    Keeps s0 (dumpBytes s x1 x2).2 := by
  induction x2 generalizing s x1 with
  | zero =>
    unfold dumpBytes
    try dsimp only
    repeat' first
      | with_reducible assumption
      | intro _
      | with_reducible first
        | apply ih | apply keeps_ite | apply keeps_ite_snd | apply keeps_foldl_snd | apply takeFree_keeps
        | refine keeps_pair_snd (by assumption) ?_
      | split
      | dsimp only
  | succ n ih =>
    unfold dumpBytes
    try dsimp only
    repeat' first
      | with_reducible assumption
      | intro _
      | with_reducible first
        | apply ih | apply keeps_ite | apply keeps_ite_snd | apply keeps_foldl_snd | apply takeFree_keeps
        | refine keeps_pair_snd (by assumption) ?_
      | split
      | dsimp only

theorem readEntry_keeps {s0 : State} {s : State} {k : Nat} {off : Nat} {len : Nat} (h : Keeps s0 s) :
    Keeps s0 (readEntry s k off len).2 := by
  unfold readEntry
  try dsimp only
  repeat' first
    | with_reducible assumption
    | intro _
    | with_reducible first
      | apply keeps_ite | apply keeps_ite_snd | apply keeps_foldl_snd | apply dumpBytes_keeps
      | apply freshCounts_keeps | apply takeFree_keeps | refine keeps_pair_snd (by assumption) ?_
    | split
    | dsimp only

theorem pushWrite_keeps {s0 : State} {s : State} {k : Nat} {off : Nat} {len : Nat} {v : Nat} {capture : List Nat} (h
    : Keeps s0 s) :
    Keeps s0 (pushWrite s k off len v capture) := by
  unfold pushWrite
  try dsimp only
  repeat' first
    | with_reducible assumption
    | intro _
    | split
    | with_reducible exact SameBytes.mk rfl rfl rfl
    | with_reducible exact SameBox.mk rfl
    | with_reducible exact KeysOk.refl _ _
    | ((with_reducible apply keeps_mk); (with_reducible
        first
        | assumption))
    | dsimp only

theorem calendarCommit_keeps {s0 : State} {s : State} {v : Nat} (h : Keeps s0 s) :
    Keeps s0 (calendarCommit s v).2 := by
  unfold calendarCommit
  try dsimp only
  repeat' first
    | with_reducible assumption
    | intro _
    | with_reducible first
      | apply keeps_ite | apply keeps_ite_snd | apply keeps_foldl_snd | apply pushWrite_keeps
      | refine keeps_pair_snd (by assumption) ?_
    | split
    | dsimp only

theorem beatPeriodWrite_keeps {s0 : State} {s : State} {v : Nat} (h : Keeps s0 s) :
    Keeps s0 (beatPeriodWrite s v).2 := by
  unfold beatPeriodWrite
  try dsimp only
  repeat' first
    | with_reducible assumption
    | intro _
    | with_reducible first
      | apply keeps_ite | apply keeps_ite_snd | apply keeps_foldl_snd | apply pushWrite_keeps
      | refine keeps_pair_snd (by assumption) ?_
    | split
    | dsimp only

theorem beatSourceWrite_keeps {s0 : State} {s : State} {v : Nat} (h : Keeps s0 s) :
    Keeps s0 (beatSourceWrite s v).2 := by
  unfold beatSourceWrite
  try dsimp only
  repeat' first
    | with_reducible assumption
    | intro _
    | with_reducible first
      | apply keeps_ite | apply keeps_ite_snd | apply keeps_foldl_snd | apply pushWrite_keeps
      | refine keeps_pair_snd (by assumption) ?_
    | split
    | dsimp only

theorem hotCacheWrite_keeps {s0 : State} {s : State} {v : Nat} (h : Keeps s0 s) :
    Keeps s0 (hotCacheWrite s v).2 := by
  unfold hotCacheWrite
  try dsimp only
  repeat' first
    | with_reducible assumption
    | intro _
    | with_reducible first
      | apply keeps_ite | apply keeps_ite_snd | apply keeps_foldl_snd | apply setReg_keeps
      | refine keeps_pair_snd (by assumption) ?_
    | split
    | with_reducible exact SameBytes.mk rfl rfl rfl
    | with_reducible exact SameBox.mk rfl
    | with_reducible exact KeysOk.refl _ _
    | ((with_reducible apply keeps_mk); (with_reducible
        first
        | assumption | apply keeps_ite | apply keeps_ite_snd | apply keeps_foldl_snd | apply setReg_keeps
        | refine keeps_pair_snd (by assumption) ?_))
    | dsimp only

theorem configDone_keeps {s0 : State} {s : State} {v : Nat} (h : Keeps s0 s) :
    Keeps s0 (configDone s v).2 := by
  unfold configDone
  try dsimp only
  repeat' first
    | with_reducible assumption
    | intro _
    | with_reducible first
      | apply keeps_ite | apply keeps_ite_snd | apply keeps_foldl_snd | refine keeps_pair_snd (by assumption) ?_
    | split
    | with_reducible exact SameBytes.mk rfl rfl rfl
    | with_reducible exact SameBox.mk rfl
    | with_reducible exact KeysOk.refl _ _
    | ((with_reducible apply keeps_mk); (with_reducible
        first
        | assumption | apply keeps_ite | apply keeps_ite_snd | apply keeps_foldl_snd
        | refine keeps_pair_snd (by assumption) ?_))
    | dsimp only

theorem retrainWrite_keeps {s0 : State} {s : State} {v : Nat} (h : Keeps s0 s) :
    Keeps s0 (retrainWrite s v).2 := by
  unfold retrainWrite
  try dsimp only
  repeat' first
    | with_reducible assumption
    | intro _
    | with_reducible first
      | apply keeps_ite | apply keeps_ite_snd | apply keeps_foldl_snd | apply startRetrain_keeps
      | refine keeps_pair_snd (by assumption) ?_
    | split
    | dsimp only

theorem sampleRelease_keeps {s0 : State} {s : State} {b : Nat} {v : Nat} (h : Keeps s0 s) :
    Keeps s0 (sampleRelease s b v).2 := by
  unfold sampleRelease
  try dsimp only
  repeat' first
    | with_reducible assumption
    | intro _
    | with_reducible first
      | apply keeps_ite | apply keeps_ite_snd | apply keeps_foldl_snd | apply setReg_keeps
      | refine keeps_pair_snd (by assumption) ?_
    | split
    | with_reducible exact SameBytes.mk rfl rfl rfl
    | with_reducible exact SameBox.mk rfl
    | with_reducible exact KeysOk.refl _ _
    | ((with_reducible apply keeps_mk); (with_reducible
        first
        | assumption | apply keeps_ite | apply keeps_ite_snd | apply keeps_foldl_snd | apply setReg_keeps
        | refine keeps_pair_snd (by assumption) ?_))
    | dsimp only

theorem jobWrite_keeps {s0 : State} {s : State} {j : Nat} {value : Nat} (h : Keeps s0 s) :
    Keeps s0 (jobWrite s j value).2 := by
  unfold jobWrite
  try dsimp only
  repeat' first
    | with_reducible assumption
    | intro _
    | with_reducible first
      | apply keeps_ite | apply keeps_ite_snd | apply keeps_foldl_snd | apply writeJob_keeps
      | refine keeps_pair_snd (by assumption) ?_
    | split
    | dsimp only

theorem ctxJobWrite_keeps {s0 : State} {s : State} {off : Nat} {len : Nat} {v : Nat} (h : Keeps s0 s) :
    Keeps s0 (ctxJobWrite s off len v).2 := by
  unfold ctxJobWrite
  try dsimp only
  repeat' first
    | with_reducible assumption
    | intro _
    | with_reducible first
      | apply keeps_ite | apply keeps_ite_snd | apply keeps_foldl_snd | apply pushWrite_keeps
      | refine keeps_pair_snd (by assumption) ?_
    | split
    | dsimp only

theorem exportWrite_keeps {s0 : State} {s : State} {off : Nat} {len : Nat} {v : Nat} (h : Keeps s0 s) :
    Keeps s0 (exportWrite s off len v).2 := by
  unfold exportWrite
  try dsimp only
  repeat' first
    | with_reducible assumption
    | intro _
    | with_reducible first
      | apply keeps_ite | apply keeps_ite_snd | apply keeps_foldl_snd | apply pushWrite_keeps
      | refine keeps_pair_snd (by assumption) ?_
    | split
    | dsimp only

theorem overlayWrite_keeps {s0 : State} {s : State} {k : Nat} {off : Nat} {len : Nat} {v : Nat} (h : Keeps s0 s) :
    Keeps s0 (overlayWrite s k off len v).2 := by
  unfold overlayWrite
  try dsimp only
  repeat' first
    | with_reducible assumption
    | intro _
    | with_reducible first
      | apply keeps_ite | apply keeps_ite_snd | apply keeps_foldl_snd | apply pushWrite_keeps
      | refine keeps_pair_snd (by assumption) ?_
    | split
    | dsimp only

theorem linkSlotWrite_keeps {s0 : State} {s : State} {off : Nat} {len : Nat} {v : Nat} (h : Keeps s0 s) :
    Keeps s0 (linkSlotWrite s off len v).2 := by
  unfold linkSlotWrite
  try dsimp only
  repeat' first
    | with_reducible assumption
    | intro _
    | with_reducible first
      | apply keeps_ite | apply keeps_ite_snd | apply keeps_foldl_snd | apply setReg_keeps
      | refine keeps_pair_snd (by assumption) ?_
    | split
    | dsimp only

theorem nonceWrite_keeps {s0 : State} {s : State} {off : Nat} {len : Nat} {v : Nat} (h : Keeps s0 s) :
    Keeps s0 (nonceWrite s off len v).2 := by
  unfold nonceWrite
  try dsimp only
  repeat' first
    | with_reducible assumption
    | intro _
    | with_reducible first
      | apply keeps_ite | apply keeps_ite_snd | apply keeps_foldl_snd | apply setReg_keeps | apply attest_keeps
      | refine keeps_pair_snd (by assumption) ?_
    | split
    | dsimp only

theorem keyLoadWrite_keeps {s0 : State} {s : State} {len : Nat} {v : Nat} (h : Keeps s0 s) :
    Keeps s0 (keyLoadWrite s len v).2 := by
  unfold keyLoadWrite
  try dsimp only
  repeat' first
    | with_reducible assumption
    | intro _
    | with_reducible first
      | apply keeps_ite | apply keeps_ite_snd | apply keeps_foldl_snd | apply keyLoad_keeps
      | refine keeps_pair_snd (by assumption) ?_
    | split
    | dsimp only

theorem plainWrite_keeps {s0 : State} {s : State} {r : EntryRow} {k : Nat} {off : Nat} {len : Nat} {v : Nat} (h :
    Keeps s0 s) :
    Keeps s0 (plainWrite s r k off len v).2 := by
  unfold plainWrite
  try dsimp only
  repeat' first
    | with_reducible assumption
    | intro _
    | with_reducible first
      | apply keeps_ite | apply keeps_ite_snd | apply keeps_foldl_snd | apply pushWrite_keeps | apply setReg_keeps
      | refine keeps_pair_snd (by assumption) ?_
    | split
    | ((with_reducible apply keeps_mk_full); (with_reducible
        first
        | assumption | apply keeps_ite | apply keeps_ite_snd | apply keeps_foldl_snd | apply pushWrite_keeps
        | apply setReg_keeps | refine keeps_pair_snd (by assumption) ?_))
    | exact EepromKeeps.refl _
    | exact EepromKeeps.mk rfl rfl rfl rfl rfl rfl rfl (by first | exact Nat.le_refl _ | exact Nat.le_succ _)
    | with_reducible exact KeysOk.refl _ _
    | (refine BytesOk.of fun a b c d e => ⟨?_, ?_, ?_, ?_, ?_⟩) <;> repeat' first
        | assumption | exact memWf_nil | apply memWf_clear | apply memWf_putNat | apply memWf_write | apply memWf_copy
        | apply memWf_filter | apply memWf_put | apply memWf_foldl | intro _ | split
    | dsimp only

theorem swapWrite_keeps {s0 : State} {s : State} {r : EntryRow} {k : Nat} {v : Nat} (h : Keeps s0 s) :
    Keeps s0 (swapWrite s r k v).2 := by
  unfold swapWrite
  try dsimp only
  repeat' first
    | with_reducible assumption
    | intro _
    | with_reducible first
      | apply keeps_ite | apply keeps_ite_snd | apply keeps_foldl_snd | apply plainWrite_keeps | apply setReg_keeps
      | refine keeps_pair_snd (by assumption) ?_
    | split
    | dsimp only

theorem resetWrite_keeps {s0 : State} {s : State} {v : Nat} (h : Keeps s0 s) :
    Keeps s0 (resetWrite s v).2 := by
  unfold resetWrite
  try dsimp only
  repeat' first
    | with_reducible assumption
    | intro _
    | with_reducible first
      | apply keeps_ite | apply keeps_ite_snd | apply keeps_foldl_snd | refine keeps_pair_snd (by assumption) ?_
    | split
    | dsimp only

theorem askedReset_keeps {s0 : State} {s : State} {v : Nat} (h : Keeps s0 s) :
    Keeps s0 (askedReset s v) := by
  unfold askedReset
  try dsimp only
  repeat' first
    | with_reducible assumption
    | intro _
    | with_reducible first
      | apply keeps_ite | apply askedWarmReset_keeps | apply askedColdReset_keeps
    | split
    | dsimp only

theorem regionResetWrite_keeps {s0 : State} {s : State} {v : Nat} (h : Keeps s0 s) :
    Keeps s0 (regionResetWrite s v).2 := by
  unfold regionResetWrite
  try dsimp only
  repeat' first
    | with_reducible assumption
    | intro _
    | with_reducible first
      | apply keeps_ite | apply keeps_ite_snd | apply keeps_foldl_snd | apply startRegionReset_keeps
      | refine keeps_pair_snd (by assumption) ?_
    | split
    | dsimp only

theorem writeEntry_keeps {s0 : State} {s : State} {r : EntryRow} {k : Nat} {off : Nat} {len : Nat} {v : Nat} (h :
    Keeps s0 s) :
    Keeps s0 (writeEntry s r k off len v).2 := by
  unfold writeEntry
  try dsimp only
  repeat' first
    | with_reducible assumption
    | intro _
    | with_reducible first
      | apply keeps_ite | apply keeps_ite_snd | apply keeps_foldl_snd | apply calendarCommit_keeps
      | apply beatPeriodWrite_keeps | apply beatSourceWrite_keeps | apply disableQueue_keeps
      | apply plainWrite_keeps | apply swapWrite_keeps | apply hotCacheWrite_keeps | apply configDone_keeps
      | apply retrainWrite_keeps | apply jobWrite_keeps | apply ctxJobWrite_keeps | apply overlayWrite_keeps
      | apply exportWrite_keeps | apply sampleRelease_keeps | apply powerRequest_keeps | apply regionRequest_keeps
      | apply shutdownRun_keeps | apply blockReturn_keeps | apply flashFormat_keeps | apply resetWrite_keeps
      | apply regionResetWrite_keeps | apply keyLoadWrite_keeps | apply keyClear_keeps | apply linkSlotWrite_keeps
      | apply nonceWrite_keeps | refine keeps_pair_snd (by assumption) ?_
    | split
    | dsimp only

theorem finishRead_keeps {s0 : State} {s : State} {q : Request} {r : EntryRow} (h : Keeps s0 s) :
    Keeps s0 (finishRead s q r) := by
  unfold finishRead
  try dsimp only
  repeat' first
    | with_reducible assumption
    | intro _
    | with_reducible first
      | apply keeps_ite | apply keeps_ite_snd | apply keeps_foldl_snd | apply completeRequest_keeps
      | apply readEntry_keeps | refine keeps_pair_snd (by assumption) ?_
    | split
    | dsimp only

theorem finishWrite_keeps {s0 : State} {s : State} {q : Request} {r : EntryRow} (h : Keeps s0 s) :
    Keeps s0 (finishWrite s q r) := by
  unfold finishWrite
  try dsimp only
  repeat' first
    | with_reducible assumption
    | intro _
    | with_reducible first
      | apply keeps_ite | apply keeps_ite_snd | apply keeps_foldl_snd | apply completeRequest_keeps
      | apply enableQueue_keeps | apply writeEntry_keeps | apply askedReset_keeps
      | refine keeps_pair_snd (by assumption) ?_
    | split
    | dsimp only

theorem serveOne_keeps {s0 : State} {s : State} {q : Request} (h : Keeps s0 s) :
    Keeps s0 (serveOne s q) := by
  unfold serveOne
  try dsimp only
  repeat' first
    | with_reducible assumption
    | intro _
    | with_reducible first
      | apply keeps_ite | apply completeRequest_keeps | apply wantDict_keeps | apply finishRead_keeps
      | apply finishWrite_keeps
    | split
    | with_reducible exact SameBytes.mk rfl rfl rfl
    | with_reducible exact SameBox.mk rfl
    | with_reducible exact KeysOk.refl _ _
    | ((with_reducible apply keeps_mk); (with_reducible
        first
        | assumption | apply keeps_ite | apply completeRequest_keeps | apply wantDict_keeps
        | apply finishRead_keeps | apply finishWrite_keeps))
    | dsimp only

theorem serveBacklog_keeps {s0 : State} {x0 : Nat} {x1 : State} (h : Keeps s0 x1) :
    Keeps s0 (serveBacklog x0 x1) := by
  induction x0 generalizing x1 with
  | zero =>
    unfold serveBacklog
    try dsimp only
    repeat' first
      | with_reducible assumption
      | intro _
      | with_reducible first
        | apply ih | apply keeps_ite | apply serveOne_keeps
      | split
      | with_reducible exact SameBytes.mk rfl rfl rfl
      | with_reducible exact SameBox.mk rfl
      | with_reducible exact KeysOk.refl _ _
      | ((with_reducible apply keeps_mk); (with_reducible
          first
          | assumption | apply ih | apply keeps_ite | apply serveOne_keeps))
      | dsimp only
  | succ n ih =>
    unfold serveBacklog
    try dsimp only
    repeat' first
      | with_reducible assumption
      | intro _
      | with_reducible first
        | apply ih | apply keeps_ite | apply serveOne_keeps
      | split
      | with_reducible exact SameBytes.mk rfl rfl rfl
      | with_reducible exact SameBox.mk rfl
      | with_reducible exact KeysOk.refl _ _
      | ((with_reducible apply keeps_mk); (with_reducible
          first
          | assumption | apply ih | apply keeps_ite | apply serveOne_keeps))
      | dsimp only

theorem arrive_keeps {s0 : State} {s : State} {q : Request} (h : Keeps s0 s) :
    Keeps s0 (arrive s q) := by
  unfold arrive
  try dsimp only
  repeat' first
    | with_reducible assumption
    | intro _
    | with_reducible first
      | apply serveBacklog_keeps
    | split
    | with_reducible exact SameBytes.mk rfl rfl rfl
    | with_reducible exact SameBox.mk rfl
    | with_reducible exact KeysOk.refl _ _
    | ((with_reducible apply keeps_mk); (with_reducible
        first
        | assumption | apply serveBacklog_keeps))
    | dsimp only

theorem resumeDict_keeps {s0 : State} {s : State} (h : Keeps s0 s) :
    Keeps s0 (resumeDict s) := by
  unfold resumeDict
  try dsimp only
  repeat' first
    | with_reducible assumption
    | intro _
    | with_reducible first
      | apply keeps_ite | apply serveBacklog_keeps | apply serveOne_keeps
    | split
    | with_reducible exact SameBytes.mk rfl rfl rfl
    | with_reducible exact SameBox.mk rfl
    | with_reducible exact KeysOk.refl _ _
    | ((with_reducible apply keeps_mk); (with_reducible
        first
        | assumption | apply keeps_ite | apply serveBacklog_keeps | apply serveOne_keeps))
    | dsimp only

theorem byMailbox_keeps {s0 : State} {s : State} {q : Request} (h : Keeps s0 s) :
    Keeps s0 (byMailbox s q) := by
  unfold byMailbox
  try dsimp only
  repeat' first
    | with_reducible assumption
    | intro _
    | with_reducible first
      | apply keeps_ite | apply bump_keeps | apply arrive_keeps
    | split
    | with_reducible exact SameBytes.mk rfl rfl rfl
    | with_reducible exact SameBox.mk rfl
    | with_reducible exact KeysOk.refl _ _
    | ((with_reducible apply keeps_mk); (with_reducible
        first
        | assumption | apply keeps_ite | apply bump_keeps | apply arrive_keeps))
    | dsimp only

theorem writeOn_keeps {s0 : State} {s : State} {p : Sys2Proof.Path} {k : Nat} {off : Nat} {len : Nat} {v : Nat} (h :
    Keeps s0 s) :
    Keeps s0 (writeOn s p k off len v) := by
  unfold writeOn
  try dsimp only
  repeat' first
    | with_reducible assumption
    | intro _
    | with_reducible first
      | apply keeps_ite | apply byMailbox_keeps | apply arrive_keeps
    | split
    | dsimp only

theorem execRegisterWrite_keeps (path : Sys2Proof.Path) (key : Nat) (offset : Nat) (length : Nat) (value : Nat) (s : State) : Answers s (execRegisterWrite path key offset length value s) := by
  refine answers_next ?_
  have h := Keeps.refl s
  repeat' first
    | with_reducible assumption
    | intro _
    | with_reducible first
      | apply writeOn_keeps
    | split
    | dsimp only

theorem writeScalar_keeps {s0 : State} {s : State} {p : Sys2Proof.Path} {k : Nat} {v : Nat} (h : Keeps s0 s) :
    Keeps s0 (writeScalar s p k v) := by
  unfold writeScalar
  try dsimp only
  repeat' first
    | with_reducible assumption
    | intro _
    | with_reducible first
      | apply writeOn_keeps
    | split
    | dsimp only

theorem execDictConfigDone_keeps (path : Sys2Proof.Path) (value : Nat) (s : State) : Answers s (execDictConfigDone path value s) := by
  refine answers_next ?_
  have h := Keeps.refl s
  repeat' first
    | with_reducible assumption
    | intro _
    | with_reducible first
      | apply writeScalar_keeps
    | split
    | dsimp only

theorem execDiagResetWarm_keeps (path : Sys2Proof.Path) (s : State) : Answers s (execDiagResetWarm path s) := by
  refine answers_next ?_
  have h := Keeps.refl s
  repeat' first
    | with_reducible assumption
    | intro _
    | with_reducible first
      | apply writeScalar_keeps
    | split
    | dsimp only

theorem execDiagResetCold_keeps (path : Sys2Proof.Path) (s : State) : Answers s (execDiagResetCold path s) := by
  refine answers_next ?_
  have h := Keeps.refl s
  repeat' first
    | with_reducible assumption
    | intro _
    | with_reducible first
      | apply writeScalar_keeps
    | split
    | dsimp only

theorem execPowerRequestActive_keeps (path : Sys2Proof.Path) (s : State) : Answers s (execPowerRequestActive path s) := by
  refine answers_next ?_
  have h := Keeps.refl s
  repeat' first
    | with_reducible assumption
    | intro _
    | with_reducible first
      | apply writeScalar_keeps
    | split
    | dsimp only

theorem execPowerRequestIdle_keeps (path : Sys2Proof.Path) (s : State) : Answers s (execPowerRequestIdle path s) := by
  refine answers_next ?_
  have h := Keeps.refl s
  repeat' first
    | with_reducible assumption
    | intro _
    | with_reducible first
      | apply writeScalar_keeps
    | split
    | dsimp only

theorem execPowerRequestDeepSleep_keeps (path : Sys2Proof.Path) (s : State) : Answers s (execPowerRequestDeepSleep path s) := by
  refine answers_next ?_
  have h := Keeps.refl s
  repeat' first
    | with_reducible assumption
    | intro _
    | with_reducible first
      | apply writeScalar_keeps
    | split
    | dsimp only

theorem execPowerRegionRequest_keeps (path : Sys2Proof.Path) (value : Nat) (s : State) : Answers s (execPowerRegionRequest path value s) := by
  refine answers_next ?_
  have h := Keeps.refl s
  repeat' first
    | with_reducible assumption
    | intro _
    | with_reducible first
      | apply writeScalar_keeps
    | split
    | dsimp only

theorem execDiagBlockReturn_keeps (path : Sys2Proof.Path) (value : Nat) (s : State) : Answers s (execDiagBlockReturn path value s) := by
  refine answers_next ?_
  have h := Keeps.refl s
  repeat' first
    | with_reducible assumption
    | intro _
    | with_reducible first
      | apply writeScalar_keeps
    | split
    | dsimp only

theorem execTestShutdownRun_keeps (path : Sys2Proof.Path) (value : Nat) (vinMv : Nat) (s : State) : Answers s (execTestShutdownRun path value vinMv s) := by
  refine answers_next ?_
  have h := Keeps.refl s
  repeat' first
    | with_reducible assumption
    | intro _
    | with_reducible first
      | apply writeScalar_keeps | apply readVin_keeps
    | split
    | dsimp only

theorem execQueueEnable_keeps (path : Sys2Proof.Path) (value : Nat) (s : State) : Answers s (execQueueEnable path value s) := by
  refine answers_next ?_
  have h := Keeps.refl s
  repeat' first
    | with_reducible assumption
    | intro _
    | with_reducible first
      | apply writeScalar_keeps
    | split
    | dsimp only

theorem execQueueDisable_keeps (path : Sys2Proof.Path) (value : Nat) (s : State) : Answers s (execQueueDisable path value s) := by
  refine answers_next ?_
  have h := Keeps.refl s
  repeat' first
    | with_reducible assumption
    | intro _
    | with_reducible first
      | apply writeScalar_keeps
    | split
    | dsimp only

theorem execBeltHotCacheEnable_keeps (path : Sys2Proof.Path) (value : Nat) (s : State) : Answers s (execBeltHotCacheEnable path value s) := by
  refine answers_next ?_
  have h := Keeps.refl s
  repeat' first
    | with_reducible assumption
    | intro _
    | with_reducible first
      | apply writeScalar_keeps
    | split
    | dsimp only

theorem execDiagRegionReset_keeps (path : Sys2Proof.Path) (value : Nat) (s : State) : Answers s (execDiagRegionReset path value s) := by
  refine answers_next ?_
  have h := Keeps.refl s
  repeat' first
    | with_reducible assumption
    | intro _
    | with_reducible first
      | apply writeScalar_keeps
    | split
    | dsimp only

theorem execAedupRetrainRequest_keeps (path : Sys2Proof.Path) (value : Nat) (s : State) : Answers s (execAedupRetrainRequest path value s) := by
  refine answers_next ?_
  have h := Keeps.refl s
  repeat' first
    | with_reducible assumption
    | intro _
    | with_reducible first
      | apply writeScalar_keeps
    | split
    | dsimp only

theorem execHemCalendarCommit_keeps (path : Sys2Proof.Path) (value : Nat) (s : State) : Answers s (execHemCalendarCommit path value s) := by
  refine answers_next ?_
  have h := Keeps.refl s
  repeat' first
    | with_reducible assumption
    | intro _
    | with_reducible first
      | apply writeScalar_keeps
    | split
    | dsimp only

theorem execHemBeatPeriod_keeps (path : Sys2Proof.Path) (value : Nat) (s : State) : Answers s (execHemBeatPeriod path value s) := by
  refine answers_next ?_
  have h := Keeps.refl s
  repeat' first
    | with_reducible assumption
    | intro _
    | with_reducible first
      | apply writeScalar_keeps
    | split
    | dsimp only

theorem execHemBeatSource_keeps (path : Sys2Proof.Path) (value : Nat) (s : State) : Answers s (execHemBeatSource path value s) := by
  refine answers_next ?_
  have h := Keeps.refl s
  repeat' first
    | with_reducible assumption
    | intro _
    | with_reducible first
      | apply writeScalar_keeps
    | split
    | dsimp only

theorem execDiagFlashFormat_keeps (path : Sys2Proof.Path) (value : Nat) (s : State) : Answers s (execDiagFlashFormat path value s) := by
  refine answers_next ?_
  have h := Keeps.refl s
  repeat' first
    | with_reducible assumption
    | intro _
    | with_reducible first
      | apply writeScalar_keeps
    | split
    | dsimp only

theorem execSecKeyLoad_keeps (path : Sys2Proof.Path) (value : Nat) (s : State) : Answers s (execSecKeyLoad path value s) := by
  refine answers_next ?_
  have h := Keeps.refl s
  repeat' first
    | with_reducible assumption
    | intro _
    | with_reducible first
      | apply writeScalar_keeps
    | split
    | dsimp only

theorem execSecKeyClear_keeps (path : Sys2Proof.Path) (value : Nat) (s : State) : Answers s (execSecKeyClear path value s) := by
  refine answers_next ?_
  have h := Keeps.refl s
  repeat' first
    | with_reducible assumption
    | intro _
    | with_reducible first
      | apply writeScalar_keeps
    | split
    | dsimp only

theorem execSecAttestNonce_keeps (path : Sys2Proof.Path) (value : Nat) (s : State) : Answers s (execSecAttestNonce path value s) := by
  refine answers_next ?_
  have h := Keeps.refl s
  repeat' first
    | with_reducible assumption
    | intro _
    | with_reducible first
      | apply writeScalar_keeps
    | split
    | dsimp only

theorem execPerfSampleRelease_keeps (path : Sys2Proof.Path) (buffer : Nat) (value : Nat) (s : State) : Answers s (execPerfSampleRelease path buffer value s) := by
  refine answers_next ?_
  have h := Keeps.refl s
  repeat' first
    | with_reducible assumption
    | intro _
    | with_reducible first
      | apply keeps_ite | apply writeScalar_keeps
    | split
    | dsimp only

theorem execPelganJobWrite_keeps (path : Sys2Proof.Path) (job : Nat) (value : Nat) (s : State) : Answers s (execPelganJobWrite path job value s) := by
  refine answers_next ?_
  have h := Keeps.refl s
  repeat' first
    | with_reducible assumption
    | intro _
    | with_reducible first
      | apply keeps_ite | apply writeScalar_keeps
    | split
    | dsimp only

theorem execPelganCtxJob_keeps (path : Sys2Proof.Path) (ctx : Nat) (job : Nat) (s : State) : Answers s (execPelganCtxJob path ctx job s) := by
  refine answers_next ?_
  have h := Keeps.refl s
  repeat' first
    | with_reducible assumption
    | intro _
    | with_reducible first
      | apply keeps_ite | apply writeOn_keeps
    | split
    | dsimp only

theorem mailboxTrigger_keeps {s0 : State} {s : State} {number : Nat} (h : Keeps s0 s) :
    Keeps s0 (mailboxTrigger s number) := by
  unfold mailboxTrigger
  try dsimp only
  repeat' first
    | with_reducible assumption
    | intro _
    | with_reducible first
      | apply keeps_ite | apply byMailbox_keeps
    | split
    | dsimp only

theorem execMailboxTrigger_keeps (number : Nat) (s : State) : Answers s (execMailboxTrigger number s) := by
  refine answers_next ?_
  have h := Keeps.refl s
  repeat' first
    | with_reducible assumption
    | intro _
    | with_reducible first
      | apply mailboxTrigger_keeps
    | split
    | dsimp only

theorem mailboxWord_keeps {s0 : State} {s : State} {offset : Nat} {v : Nat} (h : Keeps s0 s) :
    Keeps s0 (mailboxWord s offset v) := by
  unfold mailboxWord
  try dsimp only
  repeat' first
    | with_reducible assumption
    | intro _
    | with_reducible first
      | apply keeps_ite | apply mailboxTrigger_keeps
    | split
    | ((with_reducible apply keeps_mk_full); (with_reducible
        first
        | assumption | apply keeps_ite | apply mailboxTrigger_keeps))
    | exact EepromKeeps.refl _
    | exact EepromKeeps.mk rfl rfl rfl rfl rfl rfl rfl (by first | exact Nat.le_refl _ | exact Nat.le_succ _)
    | with_reducible exact KeysOk.refl _ _
    | (refine BytesOk.of fun a b c d e => ⟨?_, ?_, ?_, ?_, ?_⟩) <;> repeat' first
        | assumption | exact memWf_nil | apply memWf_clear | apply memWf_putNat | apply memWf_write | apply memWf_copy
        | apply memWf_filter | apply memWf_put | apply memWf_foldl | intro _ | split
    | dsimp only

theorem mmioWr_keeps {s0 : State} {s : State} {offset : Nat} {words : Nat} {v : Nat} (h : Keeps s0 s) :
    Keeps s0 (mmioWr s offset words v) := by
  unfold mmioWr
  try dsimp only
  repeat' first
    | with_reducible assumption
    | intro _
    | with_reducible first
      | apply keeps_ite | apply bump_keeps | apply submissionDoorbell_keeps | apply completionDoorbell_keeps
      | apply mailboxWord_keeps
    | split
    | dsimp only

theorem execMmioWr_keeps (offset : Nat) (words : Nat) (value : Nat) (s : State) : Answers s (execMmioWr offset words value s) := by
  refine answers_next ?_
  have h := Keeps.refl s
  repeat' first
    | with_reducible assumption
    | intro _
    | with_reducible first
      | apply mmioWr_keeps
    | split
    | dsimp only

theorem mmioRd_keeps {s0 : State} {s : State} {tag : Nat} {offset : Nat} {words : Nat} (h : Keeps s0 s) :
    Keeps s0 (mmioRd s tag offset words) := by
  unfold mmioRd
  try dsimp only
  repeat' first
    | with_reducible assumption
    | intro _
    | with_reducible first
      | apply keeps_ite | apply send_keeps | apply bump_keeps
    | split
    | dsimp only

theorem execMmioRd_keeps (tag : Nat) (offset : Nat) (words : Nat) (s : State) : Answers s (execMmioRd tag offset words s) := by
  refine answers_next ?_
  have h := Keeps.refl s
  repeat' first
    | with_reducible assumption
    | intro _
    | with_reducible first
      | apply mmioRd_keeps
    | split
    | dsimp only

theorem dictReq_keeps {s0 : State} {s : State} {source : Nat} {tag : Nat} {fields : Nat} {offset : Nat} {data : Nat}
    (h : Keeps s0 s) :
    Keeps s0 (dictReq s source tag fields offset data) := by
  unfold dictReq
  try dsimp only
  repeat' first
    | with_reducible assumption
    | intro _
    | with_reducible first
      | apply keeps_ite | apply arrive_keeps | apply completeRequest_keeps
    | split
    | dsimp only

theorem execDictReq_keeps (source : Nat) (tag : Nat) (fields : Nat) (offset : Nat) (data : Nat) (s : State) : Answers s (execDictReq source tag fields offset data s) := by
  refine answers_next ?_
  have h := Keeps.refl s
  repeat' first
    | with_reducible assumption
    | intro _
    | with_reducible first
      | apply dictReq_keeps
    | split
    | dsimp only

theorem execDictRsp_keeps (tag : Nat) (status : Nat) (rlength : Nat) (data : Nat) (s : State) : Answers s (execDictRsp tag status rlength data s) := by
  refine answers_next ?_
  have h := Keeps.refl s
  repeat' first
    | with_reducible assumption
    | intro _
    | with_reducible first
      | apply keeps_ite
    | split
    | with_reducible exact SameBytes.mk rfl rfl rfl
    | with_reducible exact SameBox.mk rfl
    | with_reducible exact KeysOk.refl _ _
    | ((with_reducible apply keeps_mk); (with_reducible
        first
        | assumption | apply keeps_ite))
    | dsimp only

theorem mgmtDatagram_keeps {s0 : State} {s : State} {source : Nat} {ours : Bool} {size : Nat} {header : Nat} {data :
    Nat} (h : Keeps s0 s) :
    Keeps s0 (mgmtDatagram s source ours size header data) := by
  unfold mgmtDatagram
  try dsimp only
  repeat' first
    | with_reducible assumption
    | intro _
    | with_reducible first
      | apply keeps_ite | apply bump_keeps | apply sendMgmt_keeps | apply arrive_keeps
    | split
    | dsimp only

theorem execMgmtDatagram_keeps (source : Nat) (ours : Bool) (size : Nat) (header : Nat) (data : Nat) (s : State) : Answers s (execMgmtDatagram source ours size header data s) := by
  refine answers_next ?_
  have h := Keeps.refl s
  repeat' first
    | with_reducible assumption
    | intro _
    | with_reducible first
      | apply mgmtDatagram_keeps
    | split
    | dsimp only

theorem execNeighbourSolicitation_keeps (s : State) : Answers s (execNeighbourSolicitation s) := by
  refine answers_next ?_
  have h := Keeps.refl s
  repeat' first
    | with_reducible assumption
    | intro _
    | with_reducible first
      | apply keeps_ite | apply send_keeps
    | split
    | dsimp only

theorem dataNc_keeps {s0 : State} {s : State} {tag : Nat} {shared : Bool} {data : Nat} (h : Keeps s0 s) :
    Keeps s0 (dataNc s tag shared data) := by
  unfold dataNc
  try dsimp only
  repeat' first
    | with_reducible assumption
    | intro _
    | with_reducible first
      | apply keeps_ite | apply resumeDict_keeps | apply landLine_keeps
    | split
    | dsimp only

theorem execDataNc_keeps (tag : Nat) (shared : Bool) (data : Nat) (s : State) : Answers s (execDataNc tag shared data s) := by
  refine answers_next ?_
  have h := Keeps.refl s
  repeat' first
    | with_reducible assumption
    | intro _
    | with_reducible first
      | apply dataNc_keeps
    | split
    | dsimp only

theorem badLine_keeps {s0 : State} {s : State} {id : Nat} {line : Nat} (h : Keeps s0 s) :
    Keeps s0 (badLine s id line) := by
  unfold badLine
  try dsimp only
  repeat' first
    | with_reducible assumption
    | intro _
    | with_reducible first
      | apply keeps_ite | apply updJob_keeps | apply endJob_keeps
    | split
    | with_reducible exact SameBytes.mk rfl rfl rfl
    | with_reducible exact SameBox.mk rfl
    | with_reducible exact KeysOk.refl _ _
    | ((with_reducible apply keeps_mk); (with_reducible
        first
        | assumption | apply keeps_ite | apply updJob_keeps | apply endJob_keeps))
    | dsimp only

theorem dataErr_keeps {s0 : State} {s : State} {tag : Nat} (h : Keeps s0 s) :
    Keeps s0 (dataErr s tag) := by
  unfold dataErr
  try dsimp only
  repeat' first
    | with_reducible assumption
    | intro _
    | with_reducible first
      | apply keeps_ite | apply bump_keeps | apply badLine_keeps | apply resumeDict_keeps
      | apply completeRequest_keeps
    | split
    | with_reducible exact SameBytes.mk rfl rfl rfl
    | with_reducible exact SameBox.mk rfl
    | with_reducible exact KeysOk.refl _ _
    | ((with_reducible apply keeps_mk); (with_reducible
        first
        | assumption | apply keeps_ite | apply bump_keeps | apply badLine_keeps | apply resumeDict_keeps
        | apply completeRequest_keeps))
    | dsimp only

theorem execDataErr_keeps (tag : Nat) (s : State) : Answers s (execDataErr tag s) := by
  refine answers_next ?_
  have h := Keeps.refl s
  repeat' first
    | with_reducible assumption
    | intro _
    | with_reducible first
      | apply keeps_ite | apply dataErr_keeps
    | split
    | dsimp only

end Sys2Proof.Machine
end

