-- ==== Sys2Proof/Laws/KeepsAdmission.lean ====
section
/-! SUPPORT. What every operation of Machine/Admission.lean keeps. -/

namespace Sys2Proof.Machine

theorem tabGet_mem {α : Type} {t : Tab α} {k : Nat} {v : α} (h : tabGet t k = some v) : (k, v) ∈ t := by
  induction t with
  | nil => simp [tabGet] at h
  | cons p t ih =>
    obtain ⟨a, w⟩ := p
    unfold tabGet at h
    split at h
    · next e => subst e; cases h; simp
    · exact List.mem_cons_of_mem _ (ih h)

theorem opcodeSpecs_admit (p : Nat × CmdSpec) (hp : p ∈ opcodeSpecs) {s0 s : State} {id : Nat} (h : Keeps s0 s) :
    Keeps s0 (p.2.atAdmission s id) := by
  simp only [opcodeSpecs, List.mem_append, List.mem_cons, List.not_mem_nil, or_false] at hp
  repeat' (rcases hp with hp | hp)
  all_goals
    first
    | exact h | exact arrayRunAdmit_keeps h | exact beltTableDropAdmit_keeps h
    | exact beltGatherAdmit_keeps h | exact ctxModifyAdmit_keeps h | exact wardrobeReleaseAdmit_keeps h
    | exact genRunAdmit_keeps h | exact indexDropAdmit_keeps h | exact laceVocabUnloadAdmit_keeps h
    | exact laceAdmit_keeps h | exact crossRerankAdmit_keeps h | exact veilUnloadAdmit_keeps h
    | exact searchAdmit_keeps h | exact objReleaseAdmit_keeps h | exact objSetPolicyAdmit_keeps h
    | exact flushAdmit_keeps h

theorem opcodeSpecs_keeps {op : Nat} {spec : CmdSpec} (h : tabGet opcodeSpecs op = some spec) {s0 s : State} {id : Nat}
    (k : Keeps s0 s) : Keeps s0 (spec.atAdmission s id) :=
  opcodeSpecs_admit _ (tabGet_mem h) k

theorem wantHeads_keeps {s0 : State} {s : State} {r : Nat} (h : Keeps s0 s) :
    Keeps s0 (wantHeads s r) := by
  unfold wantHeads
  try dsimp only
  repeat' first
    | with_reducible assumption
    | intro _
    | with_reducible first
      | apply keeps_ite | apply keeps_foldl | apply wantLine_keeps | apply wantTable_keeps
    | split
    | dsimp only

theorem newRound_keeps {s0 : State} {s : State} {r : Nat} (h : Keeps s0 s) :
    Keeps s0 (newRound s r) := by
  unfold newRound
  try dsimp only
  repeat' first
    | with_reducible assumption
    | intro _
    | with_reducible first
      | apply keeps_ite
    | split
    | with_reducible exact SameBytes.mk rfl rfl rfl
    | with_reducible exact SameBox.mk rfl
    | with_reducible exact KeysOk.refl _ _
    | ((with_reducible apply keeps_mk); (with_reducible
        first
        | assumption | apply keeps_ite))
    | dsimp only

theorem admitCommand_keeps {s0 : State} {s : State} {n : Nat} {q : Queue} {e : Nat} {spec : CmdSpec} (h : Keeps s0
    s) (h1 : ∀ {s0 s : State} {id : Nat}, Keeps s0 s → Keeps s0 (spec.atAdmission s id)) :
    Keeps s0 (admitCommand s n q e spec) := by
  unfold admitCommand
  try dsimp only
  repeat' first
    | with_reducible assumption
    | intro _
    | with_reducible first
      | apply h1 | apply keeps_ite | apply countRegion_keeps | apply bump_keeps | apply setCtx_keeps
    | split
    | with_reducible exact SameBytes.mk rfl rfl rfl
    | with_reducible exact SameBox.mk rfl
    | exact keysOk_jobs (rising_set _ _)
    | with_reducible exact KeysOk.refl _ _
    | ((with_reducible apply keeps_mk); (with_reducible
        first
        | assumption | apply h1 | apply keeps_ite | apply countRegion_keeps | apply bump_keeps
        | apply setCtx_keeps))
    | dsimp only

theorem admitFrom_keeps {s0 : State} {s : State} {n : Nat} {q : Queue} (h : Keeps s0 s) :
    Keeps s0 (admitFrom s n q) := by
  unfold admitFrom
  try dsimp only
  repeat' first
    | with_reducible assumption
    | intro _
    | with_reducible first
      | apply keeps_ite | apply optKeeps_none | apply optKeeps_some | apply optKeeps_ite | apply bump_keeps
      | apply useLine_keeps | apply settleDrains_keeps | apply writeCompletion_keeps | apply chargeFinal_keeps
      | apply cacheCtx_keeps | apply admitCommand_keeps | refine keeps_opt (by assumption) ?_
      | refine opcodeSpecs_keeps (by assumption) ?_
    | split
    | with_reducible exact SameBytes.mk rfl rfl rfl
    | with_reducible exact SameBox.mk rfl
    | with_reducible exact KeysOk.refl _ _
    | ((with_reducible apply keeps_mk); (with_reducible
        first
        | assumption | apply keeps_ite | apply optKeeps_none | apply optKeeps_some | apply optKeeps_ite
        | apply bump_keeps | apply useLine_keeps | apply settleDrains_keeps | apply writeCompletion_keeps
        | apply chargeFinal_keeps | apply cacheCtx_keeps | apply admitCommand_keeps
        | refine keeps_opt (by assumption) ?_ | refine opcodeSpecs_keeps (by assumption) ?_))
    | dsimp only

theorem commandAdmission_keeps {s0 : State} {s : State} {r : Nat} (h : Keeps s0 s) :
    Keeps s0 (commandAdmission s r) := by
  unfold commandAdmission
  try dsimp only
  repeat' first
    | with_reducible assumption
    | intro _
    | with_reducible first
      | apply keeps_ite | apply wantHeads_keeps | apply admitFrom_keeps | apply newRound_keeps
    | split
    | dsimp only

theorem execCommandAdmission_keeps (region : Nat) (s : State) : Answers s (execCommandAdmission region s) := by
  refine answers_next ?_
  have h := Keeps.refl s
  repeat' first
    | with_reducible assumption
    | intro _
    | with_reducible first
      | apply commandAdmission_keeps
    | split
    | dsimp only

theorem nopBody_keeps {s0 : State} {s : State} {id : Nat} {x2 : Job} (h : Keeps s0 s) :
    Keeps s0 (nopBody s id x2) := by
  unfold nopBody
  try dsimp only
  repeat' first
    | with_reducible assumption
    | intro _
    | with_reducible first
      | apply finish_keeps
    | split
    | dsimp only

theorem execNop_keeps (job : Nat) (s : State) : Answers s (execNop job s) := by
  refine answers_next ?_
  have h := Keeps.refl s
  repeat' first
    | with_reducible assumption
    | intro _
    | with_reducible first
      | apply runJob_keeps | apply nopBody_keeps
    | split
    | dsimp only

theorem cancelBody_keeps {s0 : State} {s : State} {id : Nat} {j : Job} (h : Keeps s0 s) :
    Keeps s0 (cancelBody s id j) := by
  unfold cancelBody
  try dsimp only
  repeat' first
    | with_reducible assumption
    | intro _
    | with_reducible first
      | apply keeps_ite | apply finish_keeps | apply updJob_keeps
    | split
    | with_reducible exact SameBytes.mk rfl rfl rfl
    | with_reducible exact SameBox.mk rfl
    | with_reducible exact KeysOk.refl _ _
    | ((with_reducible apply keeps_mk); (with_reducible
        first
        | assumption | apply keeps_ite | apply finish_keeps | apply updJob_keeps))
    | dsimp only

theorem cancelCommand_keeps {s0 : State} {s : State} {id : Nat} (h : Keeps s0 s) :
    Keeps s0 (cancelCommand s id) := by
  unfold cancelCommand
  try dsimp only
  repeat' first
    | with_reducible assumption
    | intro _
    | with_reducible first
      | apply keeps_ite | apply cancelBody_keeps
    | split
    | dsimp only

theorem execCancel_keeps (job : Nat) (s : State) : Answers s (execCancel job s) := by
  refine answers_next ?_
  have h := Keeps.refl s
  repeat' first
    | with_reducible assumption
    | intro _
    | with_reducible first
      | apply cancelCommand_keeps
    | split
    | dsimp only

end Sys2Proof.Machine
end

