-- ==== Sys2Proof/Laws/Operations.lean ====
section
/-! SUPPORT. The fields of State that further operations leave as they are, one lemma for each. -/

namespace Sys2Proof.Machine

/-! ### `leaveState` -/

@[simp] theorem leaveState_pending (s : State) (rs : List Nat) : (leaveState s rs).pending = s.pending := by
  unfold leaveState; dsimp only; rw [showPower_pending]; refine (foldl_same State.pending _ _ _ (fun _ _ => by simp)).trans ?_; split <;> simp
@[simp] theorem leaveState_start (s : State) (rs : List Nat) : (leaveState s rs).start = s.start := by
  unfold leaveState; dsimp only; rw [showPower_start]; refine (foldl_same State.start _ _ _ (fun _ _ => by simp)).trans ?_; split <;> simp
@[simp] theorem leaveState_fatal (s : State) (rs : List Nat) : (leaveState s rs).fatal = s.fatal := by
  unfold leaveState; dsimp only; rw [showPower_fatal]; refine (foldl_same State.fatal _ _ _ (fun _ _ => by simp)).trans ?_; split <;> simp
@[simp] theorem leaveState_alerts (s : State) (rs : List Nat) : (leaveState s rs).alerts = s.alerts := by
  unfold leaveState; dsimp only; rw [showPower_alerts]; refine (foldl_same State.alerts _ _ _ (fun _ _ => by simp)).trans ?_; split <;> simp
@[simp] theorem leaveState_eeprom (s : State) (rs : List Nat) : (leaveState s rs).eeprom = s.eeprom := by
  unfold leaveState; dsimp only; rw [showPower_eeprom]; refine (foldl_same State.eeprom _ _ _ (fun _ _ => by simp)).trans ?_; split <;> simp
@[simp] theorem leaveState_dict (s : State) (rs : List Nat) : (leaveState s rs).dict = s.dict := by
  unfold leaveState; dsimp only; rw [showPower_dict]; refine (foldl_same State.dict _ _ _ (fun _ _ => by simp)).trans ?_; split <;> simp
@[simp] theorem leaveState_hem (s : State) (rs : List Nat) : (leaveState s rs).hem = s.hem := by
  unfold leaveState; dsimp only; rw [showPower_hem]; refine (foldl_same State.hem _ _ _ (fun _ _ => by simp)).trans ?_; split <;> simp
@[simp] theorem leaveState_queues (s : State) (rs : List Nat) : (leaveState s rs).queues = s.queues := by
  unfold leaveState; dsimp only; rw [showPower_queues]; refine (foldl_same State.queues _ _ _ (fun _ _ => by simp)).trans ?_; split <;> simp
@[simp] theorem leaveState_jobs (s : State) (rs : List Nat) : (leaveState s rs).jobs = s.jobs := by
  unfold leaveState; dsimp only; rw [showPower_jobs]; refine (foldl_same State.jobs _ _ _ (fun _ _ => by simp)).trans ?_; split <;> simp
@[simp] theorem leaveState_jobNext (s : State) (rs : List Nat) : (leaveState s rs).jobNext = s.jobNext := by
  unfold leaveState; dsimp only; rw [showPower_jobNext]; refine (foldl_same State.jobNext _ _ _ (fun _ _ => by simp)).trans ?_; split <;> simp
@[simp] theorem leaveState_ctxs (s : State) (rs : List Nat) : (leaveState s rs).ctxs = s.ctxs := by
  unfold leaveState; dsimp only; rw [showPower_ctxs]; refine (foldl_same State.ctxs _ _ _ (fun _ _ => by simp)).trans ?_; split <;> simp
@[simp] theorem leaveState_models (s : State) (rs : List Nat) : (leaveState s rs).models = s.models := by
  unfold leaveState; dsimp only; rw [showPower_models]; refine (foldl_same State.models _ _ _ (fun _ _ => by simp)).trans ?_; split <;> simp
@[simp] theorem leaveState_vocabs (s : State) (rs : List Nat) : (leaveState s rs).vocabs = s.vocabs := by
  unfold leaveState; dsimp only; rw [showPower_vocabs]; refine (foldl_same State.vocabs _ _ _ (fun _ _ => by simp)).trans ?_; split <;> simp
@[simp] theorem leaveState_indexes (s : State) (rs : List Nat) : (leaveState s rs).indexes = s.indexes := by
  unfold leaveState; dsimp only; rw [showPower_indexes]; refine (foldl_same State.indexes _ _ _ (fun _ _ => by simp)).trans ?_; split <;> simp
@[simp] theorem leaveState_copies (s : State) (rs : List Nat) : (leaveState s rs).copies = s.copies := by
  unfold leaveState; dsimp only; rw [showPower_copies]; refine (foldl_same State.copies _ _ _ (fun _ _ => by simp)).trans ?_; split <;> simp
@[simp] theorem leaveState_queries (s : State) (rs : List Nat) : (leaveState s rs).queries = s.queries := by
  unfold leaveState; dsimp only; rw [showPower_queries]; refine (foldl_same State.queries _ _ _ (fun _ _ => by simp)).trans ?_; split <;> simp
@[simp] theorem leaveState_spans (s : State) (rs : List Nat) : (leaveState s rs).spans = s.spans := by
  unfold leaveState; dsimp only; rw [showPower_spans]; refine (foldl_same State.spans _ _ _ (fun _ _ => by simp)).trans ?_; split <;> simp
@[simp] theorem leaveState_belt (s : State) (rs : List Nat) : (leaveState s rs).belt = s.belt := by
  unfold leaveState; dsimp only; rw [showPower_belt]; refine (foldl_same State.belt _ _ _ (fun _ _ => by simp)).trans ?_; split <;> simp
@[simp] theorem leaveState_kv (s : State) (rs : List Nat) : (leaveState s rs).kv = s.kv := by
  unfold leaveState; dsimp only; rw [showPower_kv]; refine (foldl_same State.kv _ _ _ (fun _ _ => by simp)).trans ?_; split <;> simp
@[simp] theorem leaveState_gens (s : State) (rs : List Nat) : (leaveState s rs).gens = s.gens := by
  unfold leaveState; dsimp only; rw [showPower_gens]; refine (foldl_same State.gens _ _ _ (fun _ _ => by simp)).trans ?_; split <;> simp
@[simp] theorem leaveState_grammars (s : State) (rs : List Nat) : (leaveState s rs).grammars = s.grammars := by
  unfold leaveState; dsimp only; rw [showPower_grammars]; refine (foldl_same State.grammars _ _ _ (fun _ _ => by simp)).trans ?_; split <;> simp
@[simp] theorem leaveState_pocket (s : State) (rs : List Nat) : (leaveState s rs).pocket = s.pocket := by
  unfold leaveState; dsimp only; rw [showPower_pocket]; refine (foldl_same State.pocket _ _ _ (fun _ _ => by simp)).trans ?_; split <;> simp
@[simp] theorem leaveState_acc (s : State) (rs : List Nat) : (leaveState s rs).acc = s.acc := by
  unfold leaveState; dsimp only; rw [showPower_acc]; refine (foldl_same State.acc _ _ _ (fun _ _ => by simp)).trans ?_; split <;> simp
@[simp] theorem leaveState_array (s : State) (rs : List Nat) : (leaveState s rs).array = s.array := by
  unfold leaveState; dsimp only; rw [showPower_array]; refine (foldl_same State.array _ _ _ (fun _ _ => by simp)).trans ?_; split <;> simp
@[simp] theorem leaveState_aedup (s : State) (rs : List Nat) : (leaveState s rs).aedup = s.aedup := by
  unfold leaveState; dsimp only; rw [showPower_aedup]; refine (foldl_same State.aedup _ _ _ (fun _ _ => by simp)).trans ?_; split <;> simp
@[simp] theorem leaveState_pelgan (s : State) (rs : List Nat) : (leaveState s rs).pelgan = s.pelgan := by
  unfold leaveState; dsimp only; rw [showPower_pelgan]; refine (foldl_same State.pelgan _ _ _ (fun _ _ => by simp)).trans ?_; split <;> simp
@[simp] theorem leaveState_chip (s : State) (rs : List Nat) : (leaveState s rs).chip = s.chip := by
  unfold leaveState; dsimp only; rw [showPower_chip]; refine (foldl_same State.chip _ _ _ (fun _ _ => by simp)).trans ?_; split <;> simp
@[simp] theorem leaveState_sec (s : State) (rs : List Nat) : (leaveState s rs).sec = s.sec := by
  unfold leaveState; dsimp only; rw [showPower_sec]; refine (foldl_same State.sec _ _ _ (fun _ _ => by simp)).trans ?_; split <;> simp
@[simp] theorem leaveState_test (s : State) (rs : List Nat) : (leaveState s rs).test = s.test := by
  unfold leaveState; dsimp only; rw [showPower_test]; refine (foldl_same State.test _ _ _ (fun _ _ => by simp)).trans ?_; split <;> simp
@[simp] theorem leaveState_perf (s : State) (rs : List Nat) : (leaveState s rs).perf = s.perf := by
  unfold leaveState; dsimp only; rw [showPower_perf]; refine (foldl_same State.perf _ _ _ (fun _ _ => by simp)).trans ?_; split <;> simp
@[simp] theorem leaveState_log (s : State) (rs : List Nat) : (leaveState s rs).log = s.log := by
  unfold leaveState; dsimp only; rw [showPower_log]; refine (foldl_same State.log _ _ _ (fun _ _ => by simp)).trans ?_; split <;> simp
@[simp] theorem leaveState_out (s : State) (rs : List Nat) : (leaveState s rs).out = s.out := by
  unfold leaveState; dsimp only; rw [showPower_out]; refine (foldl_same State.out _ _ _ (fun _ _ => by simp)).trans ?_; split <;> simp
@[simp] theorem leaveState_freeCount (s : State) (rs : List Nat) : (leaveState s rs).freeCount = s.freeCount := by
  unfold leaveState; dsimp only; rw [showPower_freeCount]; refine (foldl_same State.freeCount _ _ _ (fun _ _ => by simp)).trans ?_; split <;> simp

/-! ### `doorbellWakes` -/

@[simp] theorem doorbellWakes_pending (s : State) : (doorbellWakes s).pending = s.pending := by
  unfold doorbellWakes; first | rfl | ((try dsimp only); (repeat' split) <;> simp)
@[simp] theorem doorbellWakes_start (s : State) : (doorbellWakes s).start = s.start := by
  unfold doorbellWakes; first | rfl | ((try dsimp only); (repeat' split) <;> simp)
@[simp] theorem doorbellWakes_fatal (s : State) : (doorbellWakes s).fatal = s.fatal := by
  unfold doorbellWakes; first | rfl | ((try dsimp only); (repeat' split) <;> simp)
@[simp] theorem doorbellWakes_alerts (s : State) : (doorbellWakes s).alerts = s.alerts := by
  unfold doorbellWakes; first | rfl | ((try dsimp only); (repeat' split) <;> simp)
@[simp] theorem doorbellWakes_eeprom (s : State) : (doorbellWakes s).eeprom = s.eeprom := by
  unfold doorbellWakes; first | rfl | ((try dsimp only); (repeat' split) <;> simp)
@[simp] theorem doorbellWakes_dict (s : State) : (doorbellWakes s).dict = s.dict := by
  unfold doorbellWakes; first | rfl | ((try dsimp only); (repeat' split) <;> simp)
@[simp] theorem doorbellWakes_hem (s : State) : (doorbellWakes s).hem = s.hem := by
  unfold doorbellWakes; first | rfl | ((try dsimp only); (repeat' split) <;> simp)
@[simp] theorem doorbellWakes_queues (s : State) : (doorbellWakes s).queues = s.queues := by
  unfold doorbellWakes; first | rfl | ((try dsimp only); (repeat' split) <;> simp)
@[simp] theorem doorbellWakes_jobs (s : State) : (doorbellWakes s).jobs = s.jobs := by
  unfold doorbellWakes; first | rfl | ((try dsimp only); (repeat' split) <;> simp)
@[simp] theorem doorbellWakes_jobNext (s : State) : (doorbellWakes s).jobNext = s.jobNext := by
  unfold doorbellWakes; first | rfl | ((try dsimp only); (repeat' split) <;> simp)
@[simp] theorem doorbellWakes_ctxs (s : State) : (doorbellWakes s).ctxs = s.ctxs := by
  unfold doorbellWakes; first | rfl | ((try dsimp only); (repeat' split) <;> simp)
@[simp] theorem doorbellWakes_models (s : State) : (doorbellWakes s).models = s.models := by
  unfold doorbellWakes; first | rfl | ((try dsimp only); (repeat' split) <;> simp)
@[simp] theorem doorbellWakes_vocabs (s : State) : (doorbellWakes s).vocabs = s.vocabs := by
  unfold doorbellWakes; first | rfl | ((try dsimp only); (repeat' split) <;> simp)
@[simp] theorem doorbellWakes_indexes (s : State) : (doorbellWakes s).indexes = s.indexes := by
  unfold doorbellWakes; first | rfl | ((try dsimp only); (repeat' split) <;> simp)
@[simp] theorem doorbellWakes_copies (s : State) : (doorbellWakes s).copies = s.copies := by
  unfold doorbellWakes; first | rfl | ((try dsimp only); (repeat' split) <;> simp)
@[simp] theorem doorbellWakes_queries (s : State) : (doorbellWakes s).queries = s.queries := by
  unfold doorbellWakes; first | rfl | ((try dsimp only); (repeat' split) <;> simp)
@[simp] theorem doorbellWakes_spans (s : State) : (doorbellWakes s).spans = s.spans := by
  unfold doorbellWakes; first | rfl | ((try dsimp only); (repeat' split) <;> simp)
@[simp] theorem doorbellWakes_belt (s : State) : (doorbellWakes s).belt = s.belt := by
  unfold doorbellWakes; first | rfl | ((try dsimp only); (repeat' split) <;> simp)
@[simp] theorem doorbellWakes_kv (s : State) : (doorbellWakes s).kv = s.kv := by
  unfold doorbellWakes; first | rfl | ((try dsimp only); (repeat' split) <;> simp)
@[simp] theorem doorbellWakes_gens (s : State) : (doorbellWakes s).gens = s.gens := by
  unfold doorbellWakes; first | rfl | ((try dsimp only); (repeat' split) <;> simp)
@[simp] theorem doorbellWakes_grammars (s : State) : (doorbellWakes s).grammars = s.grammars := by
  unfold doorbellWakes; first | rfl | ((try dsimp only); (repeat' split) <;> simp)
@[simp] theorem doorbellWakes_pocket (s : State) : (doorbellWakes s).pocket = s.pocket := by
  unfold doorbellWakes; first | rfl | ((try dsimp only); (repeat' split) <;> simp)
@[simp] theorem doorbellWakes_acc (s : State) : (doorbellWakes s).acc = s.acc := by
  unfold doorbellWakes; first | rfl | ((try dsimp only); (repeat' split) <;> simp)
@[simp] theorem doorbellWakes_array (s : State) : (doorbellWakes s).array = s.array := by
  unfold doorbellWakes; first | rfl | ((try dsimp only); (repeat' split) <;> simp)
@[simp] theorem doorbellWakes_aedup (s : State) : (doorbellWakes s).aedup = s.aedup := by
  unfold doorbellWakes; first | rfl | ((try dsimp only); (repeat' split) <;> simp)
@[simp] theorem doorbellWakes_pelgan (s : State) : (doorbellWakes s).pelgan = s.pelgan := by
  unfold doorbellWakes; first | rfl | ((try dsimp only); (repeat' split) <;> simp)
@[simp] theorem doorbellWakes_chip (s : State) : (doorbellWakes s).chip = s.chip := by
  unfold doorbellWakes; first | rfl | ((try dsimp only); (repeat' split) <;> simp)
@[simp] theorem doorbellWakes_sec (s : State) : (doorbellWakes s).sec = s.sec := by
  unfold doorbellWakes; first | rfl | ((try dsimp only); (repeat' split) <;> simp)
@[simp] theorem doorbellWakes_test (s : State) : (doorbellWakes s).test = s.test := by
  unfold doorbellWakes; first | rfl | ((try dsimp only); (repeat' split) <;> simp)
@[simp] theorem doorbellWakes_perf (s : State) : (doorbellWakes s).perf = s.perf := by
  unfold doorbellWakes; first | rfl | ((try dsimp only); (repeat' split) <;> simp)
@[simp] theorem doorbellWakes_log (s : State) : (doorbellWakes s).log = s.log := by
  unfold doorbellWakes; first | rfl | ((try dsimp only); (repeat' split) <;> simp)
@[simp] theorem doorbellWakes_out (s : State) : (doorbellWakes s).out = s.out := by
  unfold doorbellWakes; first | rfl | ((try dsimp only); (repeat' split) <;> simp)
@[simp] theorem doorbellWakes_freeCount (s : State) : (doorbellWakes s).freeCount = s.freeCount := by
  unfold doorbellWakes; first | rfl | ((try dsimp only); (repeat' split) <;> simp)

/-! ### `useLine` -/

@[simp] theorem useLine_pending (s : State) (l : Nat) : (useLine s l).pending = s.pending := by
  unfold useLine; first | rfl | ((try dsimp only); (repeat' split) <;> simp)
@[simp] theorem useLine_start (s : State) (l : Nat) : (useLine s l).start = s.start := by
  unfold useLine; first | rfl | ((try dsimp only); (repeat' split) <;> simp)
@[simp] theorem useLine_fatal (s : State) (l : Nat) : (useLine s l).fatal = s.fatal := by
  unfold useLine; first | rfl | ((try dsimp only); (repeat' split) <;> simp)
@[simp] theorem useLine_alerts (s : State) (l : Nat) : (useLine s l).alerts = s.alerts := by
  unfold useLine; first | rfl | ((try dsimp only); (repeat' split) <;> simp)
@[simp] theorem useLine_regs (s : State) (l : Nat) : (useLine s l).regs = s.regs := by
  unfold useLine; first | rfl | ((try dsimp only); (repeat' split) <;> simp)
@[simp] theorem useLine_eeprom (s : State) (l : Nat) : (useLine s l).eeprom = s.eeprom := by
  unfold useLine; first | rfl | ((try dsimp only); (repeat' split) <;> simp)
@[simp] theorem useLine_dict (s : State) (l : Nat) : (useLine s l).dict = s.dict := by
  unfold useLine; first | rfl | ((try dsimp only); (repeat' split) <;> simp)
@[simp] theorem useLine_hem (s : State) (l : Nat) : (useLine s l).hem = s.hem := by
  unfold useLine; first | rfl | ((try dsimp only); (repeat' split) <;> simp)
@[simp] theorem useLine_queues (s : State) (l : Nat) : (useLine s l).queues = s.queues := by
  unfold useLine; first | rfl | ((try dsimp only); (repeat' split) <;> simp)
@[simp] theorem useLine_jobs (s : State) (l : Nat) : (useLine s l).jobs = s.jobs := by
  unfold useLine; first | rfl | ((try dsimp only); (repeat' split) <;> simp)
@[simp] theorem useLine_jobNext (s : State) (l : Nat) : (useLine s l).jobNext = s.jobNext := by
  unfold useLine; first | rfl | ((try dsimp only); (repeat' split) <;> simp)
@[simp] theorem useLine_ctxs (s : State) (l : Nat) : (useLine s l).ctxs = s.ctxs := by
  unfold useLine; first | rfl | ((try dsimp only); (repeat' split) <;> simp)
@[simp] theorem useLine_models (s : State) (l : Nat) : (useLine s l).models = s.models := by
  unfold useLine; first | rfl | ((try dsimp only); (repeat' split) <;> simp)
@[simp] theorem useLine_vocabs (s : State) (l : Nat) : (useLine s l).vocabs = s.vocabs := by
  unfold useLine; first | rfl | ((try dsimp only); (repeat' split) <;> simp)
@[simp] theorem useLine_indexes (s : State) (l : Nat) : (useLine s l).indexes = s.indexes := by
  unfold useLine; first | rfl | ((try dsimp only); (repeat' split) <;> simp)
@[simp] theorem useLine_copies (s : State) (l : Nat) : (useLine s l).copies = s.copies := by
  unfold useLine; first | rfl | ((try dsimp only); (repeat' split) <;> simp)
@[simp] theorem useLine_queries (s : State) (l : Nat) : (useLine s l).queries = s.queries := by
  unfold useLine; first | rfl | ((try dsimp only); (repeat' split) <;> simp)
@[simp] theorem useLine_spans (s : State) (l : Nat) : (useLine s l).spans = s.spans := by
  unfold useLine; first | rfl | ((try dsimp only); (repeat' split) <;> simp)
@[simp] theorem useLine_belt (s : State) (l : Nat) : (useLine s l).belt = s.belt := by
  unfold useLine; first | rfl | ((try dsimp only); (repeat' split) <;> simp)
@[simp] theorem useLine_kv (s : State) (l : Nat) : (useLine s l).kv = s.kv := by
  unfold useLine; first | rfl | ((try dsimp only); (repeat' split) <;> simp)
@[simp] theorem useLine_gens (s : State) (l : Nat) : (useLine s l).gens = s.gens := by
  unfold useLine; first | rfl | ((try dsimp only); (repeat' split) <;> simp)
@[simp] theorem useLine_grammars (s : State) (l : Nat) : (useLine s l).grammars = s.grammars := by
  unfold useLine; first | rfl | ((try dsimp only); (repeat' split) <;> simp)
@[simp] theorem useLine_pocket (s : State) (l : Nat) : (useLine s l).pocket = s.pocket := by
  unfold useLine; first | rfl | ((try dsimp only); (repeat' split) <;> simp)
@[simp] theorem useLine_acc (s : State) (l : Nat) : (useLine s l).acc = s.acc := by
  unfold useLine; first | rfl | ((try dsimp only); (repeat' split) <;> simp)
@[simp] theorem useLine_array (s : State) (l : Nat) : (useLine s l).array = s.array := by
  unfold useLine; first | rfl | ((try dsimp only); (repeat' split) <;> simp)
@[simp] theorem useLine_mem (s : State) (l : Nat) : (useLine s l).mem = s.mem := by
  unfold useLine; first | rfl | ((try dsimp only); (repeat' split) <;> simp)
@[simp] theorem useLine_pelgan (s : State) (l : Nat) : (useLine s l).pelgan = s.pelgan := by
  unfold useLine; first | rfl | ((try dsimp only); (repeat' split) <;> simp)
@[simp] theorem useLine_chip (s : State) (l : Nat) : (useLine s l).chip = s.chip := by
  unfold useLine; first | rfl | ((try dsimp only); (repeat' split) <;> simp)
@[simp] theorem useLine_sec (s : State) (l : Nat) : (useLine s l).sec = s.sec := by
  unfold useLine; first | rfl | ((try dsimp only); (repeat' split) <;> simp)
@[simp] theorem useLine_power (s : State) (l : Nat) : (useLine s l).power = s.power := by
  unfold useLine; first | rfl | ((try dsimp only); (repeat' split) <;> simp)
@[simp] theorem useLine_test (s : State) (l : Nat) : (useLine s l).test = s.test := by
  unfold useLine; first | rfl | ((try dsimp only); (repeat' split) <;> simp)
@[simp] theorem useLine_perf (s : State) (l : Nat) : (useLine s l).perf = s.perf := by
  unfold useLine; first | rfl | ((try dsimp only); (repeat' split) <;> simp)
@[simp] theorem useLine_log (s : State) (l : Nat) : (useLine s l).log = s.log := by
  unfold useLine; first | rfl | ((try dsimp only); (repeat' split) <;> simp)
@[simp] theorem useLine_out (s : State) (l : Nat) : (useLine s l).out = s.out := by
  unfold useLine; first | rfl | ((try dsimp only); (repeat' split) <;> simp)
@[simp] theorem useLine_freeCount (s : State) (l : Nat) : (useLine s l).freeCount = s.freeCount := by
  unfold useLine; first | rfl | ((try dsimp only); (repeat' split) <;> simp)

/-! ### `wantTable` -/

@[simp] theorem wantTable_pending (s : State) (n : Nat) : (wantTable s n).pending = s.pending := by
  unfold wantTable; first | rfl | ((try dsimp only); (repeat' split) <;> simp)
@[simp] theorem wantTable_start (s : State) (n : Nat) : (wantTable s n).start = s.start := by
  unfold wantTable; first | rfl | ((try dsimp only); (repeat' split) <;> simp)
@[simp] theorem wantTable_fatal (s : State) (n : Nat) : (wantTable s n).fatal = s.fatal := by
  unfold wantTable; first | rfl | ((try dsimp only); (repeat' split) <;> simp)
@[simp] theorem wantTable_alerts (s : State) (n : Nat) : (wantTable s n).alerts = s.alerts := by
  unfold wantTable; first | rfl | ((try dsimp only); (repeat' split) <;> simp)
@[simp] theorem wantTable_eeprom (s : State) (n : Nat) : (wantTable s n).eeprom = s.eeprom := by
  unfold wantTable; first | rfl | ((try dsimp only); (repeat' split) <;> simp)
@[simp] theorem wantTable_hem (s : State) (n : Nat) : (wantTable s n).hem = s.hem := by
  unfold wantTable; first | rfl | ((try dsimp only); (repeat' split) <;> simp)
@[simp] theorem wantTable_jobs (s : State) (n : Nat) : (wantTable s n).jobs = s.jobs := by
  unfold wantTable; first | rfl | ((try dsimp only); (repeat' split) <;> simp)
@[simp] theorem wantTable_jobNext (s : State) (n : Nat) : (wantTable s n).jobNext = s.jobNext := by
  unfold wantTable; first | rfl | ((try dsimp only); (repeat' split) <;> simp)
@[simp] theorem wantTable_ctxs (s : State) (n : Nat) : (wantTable s n).ctxs = s.ctxs := by
  unfold wantTable; first | rfl | ((try dsimp only); (repeat' split) <;> simp)
@[simp] theorem wantTable_models (s : State) (n : Nat) : (wantTable s n).models = s.models := by
  unfold wantTable; first | rfl | ((try dsimp only); (repeat' split) <;> simp)
@[simp] theorem wantTable_vocabs (s : State) (n : Nat) : (wantTable s n).vocabs = s.vocabs := by
  unfold wantTable; first | rfl | ((try dsimp only); (repeat' split) <;> simp)
@[simp] theorem wantTable_indexes (s : State) (n : Nat) : (wantTable s n).indexes = s.indexes := by
  unfold wantTable; first | rfl | ((try dsimp only); (repeat' split) <;> simp)
@[simp] theorem wantTable_copies (s : State) (n : Nat) : (wantTable s n).copies = s.copies := by
  unfold wantTable; first | rfl | ((try dsimp only); (repeat' split) <;> simp)
@[simp] theorem wantTable_queries (s : State) (n : Nat) : (wantTable s n).queries = s.queries := by
  unfold wantTable; first | rfl | ((try dsimp only); (repeat' split) <;> simp)
@[simp] theorem wantTable_spans (s : State) (n : Nat) : (wantTable s n).spans = s.spans := by
  unfold wantTable; first | rfl | ((try dsimp only); (repeat' split) <;> simp)
@[simp] theorem wantTable_belt (s : State) (n : Nat) : (wantTable s n).belt = s.belt := by
  unfold wantTable; first | rfl | ((try dsimp only); (repeat' split) <;> simp)
@[simp] theorem wantTable_kv (s : State) (n : Nat) : (wantTable s n).kv = s.kv := by
  unfold wantTable; first | rfl | ((try dsimp only); (repeat' split) <;> simp)
@[simp] theorem wantTable_gens (s : State) (n : Nat) : (wantTable s n).gens = s.gens := by
  unfold wantTable; first | rfl | ((try dsimp only); (repeat' split) <;> simp)
@[simp] theorem wantTable_grammars (s : State) (n : Nat) : (wantTable s n).grammars = s.grammars := by
  unfold wantTable; first | rfl | ((try dsimp only); (repeat' split) <;> simp)
@[simp] theorem wantTable_pocket (s : State) (n : Nat) : (wantTable s n).pocket = s.pocket := by
  unfold wantTable; first | rfl | ((try dsimp only); (repeat' split) <;> simp)
@[simp] theorem wantTable_acc (s : State) (n : Nat) : (wantTable s n).acc = s.acc := by
  unfold wantTable; first | rfl | ((try dsimp only); (repeat' split) <;> simp)
@[simp] theorem wantTable_array (s : State) (n : Nat) : (wantTable s n).array = s.array := by
  unfold wantTable; first | rfl | ((try dsimp only); (repeat' split) <;> simp)
@[simp] theorem wantTable_mem (s : State) (n : Nat) : (wantTable s n).mem = s.mem := by
  unfold wantTable; first | rfl | ((try dsimp only); (repeat' split) <;> simp)
@[simp] theorem wantTable_chip (s : State) (n : Nat) : (wantTable s n).chip = s.chip := by
  unfold wantTable; first | rfl | ((try dsimp only); (repeat' split) <;> simp)
@[simp] theorem wantTable_sec (s : State) (n : Nat) : (wantTable s n).sec = s.sec := by
  unfold wantTable; first | rfl | ((try dsimp only); (repeat' split) <;> simp)
@[simp] theorem wantTable_power (s : State) (n : Nat) : (wantTable s n).power = s.power := by
  unfold wantTable; first | rfl | ((try dsimp only); (repeat' split) <;> simp)
@[simp] theorem wantTable_test (s : State) (n : Nat) : (wantTable s n).test = s.test := by
  unfold wantTable; first | rfl | ((try dsimp only); (repeat' split) <;> simp)
@[simp] theorem wantTable_log (s : State) (n : Nat) : (wantTable s n).log = s.log := by
  unfold wantTable; first | rfl | ((try dsimp only); (repeat' split) <;> simp)

/-! ### `wantHeads` -/

@[simp] theorem wantHeads_pending (s : State) (r : Nat) : (wantHeads s r).pending = s.pending := by
  exact foldl_same State.pending _ _ _ (fun _ _ => by (try dsimp only); (repeat' split) <;> simp)
@[simp] theorem wantHeads_start (s : State) (r : Nat) : (wantHeads s r).start = s.start := by
  exact foldl_same State.start _ _ _ (fun _ _ => by (try dsimp only); (repeat' split) <;> simp)
@[simp] theorem wantHeads_fatal (s : State) (r : Nat) : (wantHeads s r).fatal = s.fatal := by
  exact foldl_same State.fatal _ _ _ (fun _ _ => by (try dsimp only); (repeat' split) <;> simp)
@[simp] theorem wantHeads_alerts (s : State) (r : Nat) : (wantHeads s r).alerts = s.alerts := by
  exact foldl_same State.alerts _ _ _ (fun _ _ => by (try dsimp only); (repeat' split) <;> simp)
@[simp] theorem wantHeads_eeprom (s : State) (r : Nat) : (wantHeads s r).eeprom = s.eeprom := by
  exact foldl_same State.eeprom _ _ _ (fun _ _ => by (try dsimp only); (repeat' split) <;> simp)
@[simp] theorem wantHeads_hem (s : State) (r : Nat) : (wantHeads s r).hem = s.hem := by
  exact foldl_same State.hem _ _ _ (fun _ _ => by (try dsimp only); (repeat' split) <;> simp)
@[simp] theorem wantHeads_jobs (s : State) (r : Nat) : (wantHeads s r).jobs = s.jobs := by
  exact foldl_same State.jobs _ _ _ (fun _ _ => by (try dsimp only); (repeat' split) <;> simp)
@[simp] theorem wantHeads_jobNext (s : State) (r : Nat) : (wantHeads s r).jobNext = s.jobNext := by
  exact foldl_same State.jobNext _ _ _ (fun _ _ => by (try dsimp only); (repeat' split) <;> simp)
@[simp] theorem wantHeads_ctxs (s : State) (r : Nat) : (wantHeads s r).ctxs = s.ctxs := by
  exact foldl_same State.ctxs _ _ _ (fun _ _ => by (try dsimp only); (repeat' split) <;> simp)
@[simp] theorem wantHeads_models (s : State) (r : Nat) : (wantHeads s r).models = s.models := by
  exact foldl_same State.models _ _ _ (fun _ _ => by (try dsimp only); (repeat' split) <;> simp)
@[simp] theorem wantHeads_vocabs (s : State) (r : Nat) : (wantHeads s r).vocabs = s.vocabs := by
  exact foldl_same State.vocabs _ _ _ (fun _ _ => by (try dsimp only); (repeat' split) <;> simp)
@[simp] theorem wantHeads_indexes (s : State) (r : Nat) : (wantHeads s r).indexes = s.indexes := by
  exact foldl_same State.indexes _ _ _ (fun _ _ => by (try dsimp only); (repeat' split) <;> simp)
@[simp] theorem wantHeads_copies (s : State) (r : Nat) : (wantHeads s r).copies = s.copies := by
  exact foldl_same State.copies _ _ _ (fun _ _ => by (try dsimp only); (repeat' split) <;> simp)
@[simp] theorem wantHeads_queries (s : State) (r : Nat) : (wantHeads s r).queries = s.queries := by
  exact foldl_same State.queries _ _ _ (fun _ _ => by (try dsimp only); (repeat' split) <;> simp)
@[simp] theorem wantHeads_spans (s : State) (r : Nat) : (wantHeads s r).spans = s.spans := by
  exact foldl_same State.spans _ _ _ (fun _ _ => by (try dsimp only); (repeat' split) <;> simp)
@[simp] theorem wantHeads_belt (s : State) (r : Nat) : (wantHeads s r).belt = s.belt := by
  exact foldl_same State.belt _ _ _ (fun _ _ => by (try dsimp only); (repeat' split) <;> simp)
@[simp] theorem wantHeads_kv (s : State) (r : Nat) : (wantHeads s r).kv = s.kv := by
  exact foldl_same State.kv _ _ _ (fun _ _ => by (try dsimp only); (repeat' split) <;> simp)
@[simp] theorem wantHeads_gens (s : State) (r : Nat) : (wantHeads s r).gens = s.gens := by
  exact foldl_same State.gens _ _ _ (fun _ _ => by (try dsimp only); (repeat' split) <;> simp)
@[simp] theorem wantHeads_grammars (s : State) (r : Nat) : (wantHeads s r).grammars = s.grammars := by
  exact foldl_same State.grammars _ _ _ (fun _ _ => by (try dsimp only); (repeat' split) <;> simp)
@[simp] theorem wantHeads_pocket (s : State) (r : Nat) : (wantHeads s r).pocket = s.pocket := by
  exact foldl_same State.pocket _ _ _ (fun _ _ => by (try dsimp only); (repeat' split) <;> simp)
@[simp] theorem wantHeads_acc (s : State) (r : Nat) : (wantHeads s r).acc = s.acc := by
  exact foldl_same State.acc _ _ _ (fun _ _ => by (try dsimp only); (repeat' split) <;> simp)
@[simp] theorem wantHeads_array (s : State) (r : Nat) : (wantHeads s r).array = s.array := by
  exact foldl_same State.array _ _ _ (fun _ _ => by (try dsimp only); (repeat' split) <;> simp)
@[simp] theorem wantHeads_mem (s : State) (r : Nat) : (wantHeads s r).mem = s.mem := by
  exact foldl_same State.mem _ _ _ (fun _ _ => by (try dsimp only); (repeat' split) <;> simp)
@[simp] theorem wantHeads_chip (s : State) (r : Nat) : (wantHeads s r).chip = s.chip := by
  exact foldl_same State.chip _ _ _ (fun _ _ => by (try dsimp only); (repeat' split) <;> simp)
@[simp] theorem wantHeads_sec (s : State) (r : Nat) : (wantHeads s r).sec = s.sec := by
  exact foldl_same State.sec _ _ _ (fun _ _ => by (try dsimp only); (repeat' split) <;> simp)
@[simp] theorem wantHeads_power (s : State) (r : Nat) : (wantHeads s r).power = s.power := by
  exact foldl_same State.power _ _ _ (fun _ _ => by (try dsimp only); (repeat' split) <;> simp)
@[simp] theorem wantHeads_test (s : State) (r : Nat) : (wantHeads s r).test = s.test := by
  exact foldl_same State.test _ _ _ (fun _ _ => by (try dsimp only); (repeat' split) <;> simp)
@[simp] theorem wantHeads_log (s : State) (r : Nat) : (wantHeads s r).log = s.log := by
  exact foldl_same State.log _ _ _ (fun _ _ => by (try dsimp only); (repeat' split) <;> simp)

/-! ### `newRound` -/

@[simp] theorem newRound_pending (s : State) (r : Nat) : (newRound s r).pending = s.pending := by
  unfold newRound; first | rfl | ((try dsimp only); (repeat' split) <;> simp)
@[simp] theorem newRound_start (s : State) (r : Nat) : (newRound s r).start = s.start := by
  unfold newRound; first | rfl | ((try dsimp only); (repeat' split) <;> simp)
@[simp] theorem newRound_fatal (s : State) (r : Nat) : (newRound s r).fatal = s.fatal := by
  unfold newRound; first | rfl | ((try dsimp only); (repeat' split) <;> simp)
@[simp] theorem newRound_alerts (s : State) (r : Nat) : (newRound s r).alerts = s.alerts := by
  unfold newRound; first | rfl | ((try dsimp only); (repeat' split) <;> simp)
@[simp] theorem newRound_regs (s : State) (r : Nat) : (newRound s r).regs = s.regs := by
  unfold newRound; first | rfl | ((try dsimp only); (repeat' split) <;> simp)
@[simp] theorem newRound_eeprom (s : State) (r : Nat) : (newRound s r).eeprom = s.eeprom := by
  unfold newRound; first | rfl | ((try dsimp only); (repeat' split) <;> simp)
@[simp] theorem newRound_dict (s : State) (r : Nat) : (newRound s r).dict = s.dict := by
  unfold newRound; first | rfl | ((try dsimp only); (repeat' split) <;> simp)
@[simp] theorem newRound_hem (s : State) (r : Nat) : (newRound s r).hem = s.hem := by
  unfold newRound; first | rfl | ((try dsimp only); (repeat' split) <;> simp)
@[simp] theorem newRound_jobs (s : State) (r : Nat) : (newRound s r).jobs = s.jobs := by
  unfold newRound; first | rfl | ((try dsimp only); (repeat' split) <;> simp)
@[simp] theorem newRound_jobNext (s : State) (r : Nat) : (newRound s r).jobNext = s.jobNext := by
  unfold newRound; first | rfl | ((try dsimp only); (repeat' split) <;> simp)
@[simp] theorem newRound_ctxs (s : State) (r : Nat) : (newRound s r).ctxs = s.ctxs := by
  unfold newRound; first | rfl | ((try dsimp only); (repeat' split) <;> simp)
@[simp] theorem newRound_models (s : State) (r : Nat) : (newRound s r).models = s.models := by
  unfold newRound; first | rfl | ((try dsimp only); (repeat' split) <;> simp)
@[simp] theorem newRound_vocabs (s : State) (r : Nat) : (newRound s r).vocabs = s.vocabs := by
  unfold newRound; first | rfl | ((try dsimp only); (repeat' split) <;> simp)
@[simp] theorem newRound_indexes (s : State) (r : Nat) : (newRound s r).indexes = s.indexes := by
  unfold newRound; first | rfl | ((try dsimp only); (repeat' split) <;> simp)
@[simp] theorem newRound_copies (s : State) (r : Nat) : (newRound s r).copies = s.copies := by
  unfold newRound; first | rfl | ((try dsimp only); (repeat' split) <;> simp)
@[simp] theorem newRound_queries (s : State) (r : Nat) : (newRound s r).queries = s.queries := by
  unfold newRound; first | rfl | ((try dsimp only); (repeat' split) <;> simp)
@[simp] theorem newRound_spans (s : State) (r : Nat) : (newRound s r).spans = s.spans := by
  unfold newRound; first | rfl | ((try dsimp only); (repeat' split) <;> simp)
@[simp] theorem newRound_belt (s : State) (r : Nat) : (newRound s r).belt = s.belt := by
  unfold newRound; first | rfl | ((try dsimp only); (repeat' split) <;> simp)
@[simp] theorem newRound_kv (s : State) (r : Nat) : (newRound s r).kv = s.kv := by
  unfold newRound; first | rfl | ((try dsimp only); (repeat' split) <;> simp)
@[simp] theorem newRound_gens (s : State) (r : Nat) : (newRound s r).gens = s.gens := by
  unfold newRound; first | rfl | ((try dsimp only); (repeat' split) <;> simp)
@[simp] theorem newRound_grammars (s : State) (r : Nat) : (newRound s r).grammars = s.grammars := by
  unfold newRound; first | rfl | ((try dsimp only); (repeat' split) <;> simp)
@[simp] theorem newRound_pocket (s : State) (r : Nat) : (newRound s r).pocket = s.pocket := by
  unfold newRound; first | rfl | ((try dsimp only); (repeat' split) <;> simp)
@[simp] theorem newRound_acc (s : State) (r : Nat) : (newRound s r).acc = s.acc := by
  unfold newRound; first | rfl | ((try dsimp only); (repeat' split) <;> simp)
@[simp] theorem newRound_array (s : State) (r : Nat) : (newRound s r).array = s.array := by
  unfold newRound; first | rfl | ((try dsimp only); (repeat' split) <;> simp)
@[simp] theorem newRound_mem (s : State) (r : Nat) : (newRound s r).mem = s.mem := by
  unfold newRound; first | rfl | ((try dsimp only); (repeat' split) <;> simp)
@[simp] theorem newRound_aedup (s : State) (r : Nat) : (newRound s r).aedup = s.aedup := by
  unfold newRound; first | rfl | ((try dsimp only); (repeat' split) <;> simp)
@[simp] theorem newRound_pelgan (s : State) (r : Nat) : (newRound s r).pelgan = s.pelgan := by
  unfold newRound; first | rfl | ((try dsimp only); (repeat' split) <;> simp)
@[simp] theorem newRound_chip (s : State) (r : Nat) : (newRound s r).chip = s.chip := by
  unfold newRound; first | rfl | ((try dsimp only); (repeat' split) <;> simp)
@[simp] theorem newRound_sec (s : State) (r : Nat) : (newRound s r).sec = s.sec := by
  unfold newRound; first | rfl | ((try dsimp only); (repeat' split) <;> simp)
@[simp] theorem newRound_power (s : State) (r : Nat) : (newRound s r).power = s.power := by
  unfold newRound; first | rfl | ((try dsimp only); (repeat' split) <;> simp)
@[simp] theorem newRound_test (s : State) (r : Nat) : (newRound s r).test = s.test := by
  unfold newRound; first | rfl | ((try dsimp only); (repeat' split) <;> simp)
@[simp] theorem newRound_perf (s : State) (r : Nat) : (newRound s r).perf = s.perf := by
  unfold newRound; first | rfl | ((try dsimp only); (repeat' split) <;> simp)
@[simp] theorem newRound_log (s : State) (r : Nat) : (newRound s r).log = s.log := by
  unfold newRound; first | rfl | ((try dsimp only); (repeat' split) <;> simp)
@[simp] theorem newRound_out (s : State) (r : Nat) : (newRound s r).out = s.out := by
  unfold newRound; first | rfl | ((try dsimp only); (repeat' split) <;> simp)
@[simp] theorem newRound_freeCount (s : State) (r : Nat) : (newRound s r).freeCount = s.freeCount := by
  unfold newRound; first | rfl | ((try dsimp only); (repeat' split) <;> simp)

/-! ### `chargeFinal` -/

@[simp] theorem chargeFinal_pending (s : State) (c st : Nat) : (chargeFinal s c st).pending = s.pending := by
  unfold chargeFinal; first | rfl | ((try dsimp only); (repeat' split) <;> simp)
@[simp] theorem chargeFinal_start (s : State) (c st : Nat) : (chargeFinal s c st).start = s.start := by
  unfold chargeFinal; first | rfl | ((try dsimp only); (repeat' split) <;> simp)
@[simp] theorem chargeFinal_fatal (s : State) (c st : Nat) : (chargeFinal s c st).fatal = s.fatal := by
  unfold chargeFinal; first | rfl | ((try dsimp only); (repeat' split) <;> simp)
@[simp] theorem chargeFinal_alerts (s : State) (c st : Nat) : (chargeFinal s c st).alerts = s.alerts := by
  unfold chargeFinal; first | rfl | ((try dsimp only); (repeat' split) <;> simp)
@[simp] theorem chargeFinal_eeprom (s : State) (c st : Nat) : (chargeFinal s c st).eeprom = s.eeprom := by
  unfold chargeFinal; first | rfl | ((try dsimp only); (repeat' split) <;> simp)
@[simp] theorem chargeFinal_dict (s : State) (c st : Nat) : (chargeFinal s c st).dict = s.dict := by
  unfold chargeFinal; first | rfl | ((try dsimp only); (repeat' split) <;> simp)
@[simp] theorem chargeFinal_hem (s : State) (c st : Nat) : (chargeFinal s c st).hem = s.hem := by
  unfold chargeFinal; first | rfl | ((try dsimp only); (repeat' split) <;> simp)
@[simp] theorem chargeFinal_queues (s : State) (c st : Nat) : (chargeFinal s c st).queues = s.queues := by
  unfold chargeFinal; first | rfl | ((try dsimp only); (repeat' split) <;> simp)
@[simp] theorem chargeFinal_jobs (s : State) (c st : Nat) : (chargeFinal s c st).jobs = s.jobs := by
  unfold chargeFinal; first | rfl | ((try dsimp only); (repeat' split) <;> simp)
@[simp] theorem chargeFinal_jobNext (s : State) (c st : Nat) : (chargeFinal s c st).jobNext = s.jobNext := by
  unfold chargeFinal; first | rfl | ((try dsimp only); (repeat' split) <;> simp)
@[simp] theorem chargeFinal_ctxs (s : State) (c st : Nat) : (chargeFinal s c st).ctxs = s.ctxs := by
  unfold chargeFinal; first | rfl | ((try dsimp only); (repeat' split) <;> simp)
@[simp] theorem chargeFinal_models (s : State) (c st : Nat) : (chargeFinal s c st).models = s.models := by
  unfold chargeFinal; first | rfl | ((try dsimp only); (repeat' split) <;> simp)
@[simp] theorem chargeFinal_vocabs (s : State) (c st : Nat) : (chargeFinal s c st).vocabs = s.vocabs := by
  unfold chargeFinal; first | rfl | ((try dsimp only); (repeat' split) <;> simp)
@[simp] theorem chargeFinal_indexes (s : State) (c st : Nat) : (chargeFinal s c st).indexes = s.indexes := by
  unfold chargeFinal; first | rfl | ((try dsimp only); (repeat' split) <;> simp)
@[simp] theorem chargeFinal_copies (s : State) (c st : Nat) : (chargeFinal s c st).copies = s.copies := by
  unfold chargeFinal; first | rfl | ((try dsimp only); (repeat' split) <;> simp)
@[simp] theorem chargeFinal_queries (s : State) (c st : Nat) : (chargeFinal s c st).queries = s.queries := by
  unfold chargeFinal; first | rfl | ((try dsimp only); (repeat' split) <;> simp)
@[simp] theorem chargeFinal_spans (s : State) (c st : Nat) : (chargeFinal s c st).spans = s.spans := by
  unfold chargeFinal; first | rfl | ((try dsimp only); (repeat' split) <;> simp)
@[simp] theorem chargeFinal_belt (s : State) (c st : Nat) : (chargeFinal s c st).belt = s.belt := by
  unfold chargeFinal; first | rfl | ((try dsimp only); (repeat' split) <;> simp)
@[simp] theorem chargeFinal_kv (s : State) (c st : Nat) : (chargeFinal s c st).kv = s.kv := by
  unfold chargeFinal; first | rfl | ((try dsimp only); (repeat' split) <;> simp)
@[simp] theorem chargeFinal_gens (s : State) (c st : Nat) : (chargeFinal s c st).gens = s.gens := by
  unfold chargeFinal; first | rfl | ((try dsimp only); (repeat' split) <;> simp)
@[simp] theorem chargeFinal_grammars (s : State) (c st : Nat) : (chargeFinal s c st).grammars = s.grammars := by
  unfold chargeFinal; first | rfl | ((try dsimp only); (repeat' split) <;> simp)
@[simp] theorem chargeFinal_pocket (s : State) (c st : Nat) : (chargeFinal s c st).pocket = s.pocket := by
  unfold chargeFinal; first | rfl | ((try dsimp only); (repeat' split) <;> simp)
@[simp] theorem chargeFinal_acc (s : State) (c st : Nat) : (chargeFinal s c st).acc = s.acc := by
  unfold chargeFinal; first | rfl | ((try dsimp only); (repeat' split) <;> simp)
@[simp] theorem chargeFinal_array (s : State) (c st : Nat) : (chargeFinal s c st).array = s.array := by
  unfold chargeFinal; first | rfl | ((try dsimp only); (repeat' split) <;> simp)
@[simp] theorem chargeFinal_mem (s : State) (c st : Nat) : (chargeFinal s c st).mem = s.mem := by
  unfold chargeFinal; first | rfl | ((try dsimp only); (repeat' split) <;> simp)
@[simp] theorem chargeFinal_aedup (s : State) (c st : Nat) : (chargeFinal s c st).aedup = s.aedup := by
  unfold chargeFinal; first | rfl | ((try dsimp only); (repeat' split) <;> simp)
@[simp] theorem chargeFinal_pelgan (s : State) (c st : Nat) : (chargeFinal s c st).pelgan = s.pelgan := by
  unfold chargeFinal; first | rfl | ((try dsimp only); (repeat' split) <;> simp)
@[simp] theorem chargeFinal_chip (s : State) (c st : Nat) : (chargeFinal s c st).chip = s.chip := by
  unfold chargeFinal; first | rfl | ((try dsimp only); (repeat' split) <;> simp)
@[simp] theorem chargeFinal_sec (s : State) (c st : Nat) : (chargeFinal s c st).sec = s.sec := by
  unfold chargeFinal; first | rfl | ((try dsimp only); (repeat' split) <;> simp)
@[simp] theorem chargeFinal_power (s : State) (c st : Nat) : (chargeFinal s c st).power = s.power := by
  unfold chargeFinal; first | rfl | ((try dsimp only); (repeat' split) <;> simp)
@[simp] theorem chargeFinal_test (s : State) (c st : Nat) : (chargeFinal s c st).test = s.test := by
  unfold chargeFinal; first | rfl | ((try dsimp only); (repeat' split) <;> simp)
@[simp] theorem chargeFinal_perf (s : State) (c st : Nat) : (chargeFinal s c st).perf = s.perf := by
  unfold chargeFinal; first | rfl | ((try dsimp only); (repeat' split) <;> simp)
@[simp] theorem chargeFinal_log (s : State) (c st : Nat) : (chargeFinal s c st).log = s.log := by
  unfold chargeFinal; first | rfl | ((try dsimp only); (repeat' split) <;> simp)
@[simp] theorem chargeFinal_out (s : State) (c st : Nat) : (chargeFinal s c st).out = s.out := by
  unfold chargeFinal; first | rfl | ((try dsimp only); (repeat' split) <;> simp)
@[simp] theorem chargeFinal_freeCount (s : State) (c st : Nat) : (chargeFinal s c st).freeCount = s.freeCount := by
  unfold chargeFinal; first | rfl | ((try dsimp only); (repeat' split) <;> simp)

/-! ### `dropJob` -/

@[simp] theorem dropJob_pending (s : State) (id : Nat) : (dropJob s id).pending = s.pending := by
  unfold dropJob; first | rfl | ((try dsimp only); (repeat' split) <;> simp)
@[simp] theorem dropJob_start (s : State) (id : Nat) : (dropJob s id).start = s.start := by
  unfold dropJob; first | rfl | ((try dsimp only); (repeat' split) <;> simp)
@[simp] theorem dropJob_fatal (s : State) (id : Nat) : (dropJob s id).fatal = s.fatal := by
  unfold dropJob; first | rfl | ((try dsimp only); (repeat' split) <;> simp)
@[simp] theorem dropJob_alerts (s : State) (id : Nat) : (dropJob s id).alerts = s.alerts := by
  unfold dropJob; first | rfl | ((try dsimp only); (repeat' split) <;> simp)
@[simp] theorem dropJob_regs (s : State) (id : Nat) : (dropJob s id).regs = s.regs := by
  unfold dropJob; first | rfl | ((try dsimp only); (repeat' split) <;> simp)
@[simp] theorem dropJob_eeprom (s : State) (id : Nat) : (dropJob s id).eeprom = s.eeprom := by
  unfold dropJob; first | rfl | ((try dsimp only); (repeat' split) <;> simp)
@[simp] theorem dropJob_dict (s : State) (id : Nat) : (dropJob s id).dict = s.dict := by
  unfold dropJob; first | rfl | ((try dsimp only); (repeat' split) <;> simp)
@[simp] theorem dropJob_hem (s : State) (id : Nat) : (dropJob s id).hem = s.hem := by
  unfold dropJob; first | rfl | ((try dsimp only); (repeat' split) <;> simp)
@[simp] theorem dropJob_queues (s : State) (id : Nat) : (dropJob s id).queues = s.queues := by
  unfold dropJob; first | rfl | ((try dsimp only); (repeat' split) <;> simp)
@[simp] theorem dropJob_jobNext (s : State) (id : Nat) : (dropJob s id).jobNext = s.jobNext := by
  unfold dropJob; first | rfl | ((try dsimp only); (repeat' split) <;> simp)
@[simp] theorem dropJob_ctxs (s : State) (id : Nat) : (dropJob s id).ctxs = s.ctxs := by
  unfold dropJob; first | rfl | ((try dsimp only); (repeat' split) <;> simp)
@[simp] theorem dropJob_models (s : State) (id : Nat) : (dropJob s id).models = s.models := by
  unfold dropJob; first | rfl | ((try dsimp only); (repeat' split) <;> simp)
@[simp] theorem dropJob_vocabs (s : State) (id : Nat) : (dropJob s id).vocabs = s.vocabs := by
  unfold dropJob; first | rfl | ((try dsimp only); (repeat' split) <;> simp)
@[simp] theorem dropJob_indexes (s : State) (id : Nat) : (dropJob s id).indexes = s.indexes := by
  unfold dropJob; first | rfl | ((try dsimp only); (repeat' split) <;> simp)
@[simp] theorem dropJob_copies (s : State) (id : Nat) : (dropJob s id).copies = s.copies := by
  unfold dropJob; first | rfl | ((try dsimp only); (repeat' split) <;> simp)
@[simp] theorem dropJob_spans (s : State) (id : Nat) : (dropJob s id).spans = s.spans := by
  unfold dropJob; first | rfl | ((try dsimp only); (repeat' split) <;> simp)
@[simp] theorem dropJob_belt (s : State) (id : Nat) : (dropJob s id).belt = s.belt := by
  unfold dropJob; first | rfl | ((try dsimp only); (repeat' split) <;> simp)
@[simp] theorem dropJob_kv (s : State) (id : Nat) : (dropJob s id).kv = s.kv := by
  unfold dropJob; first | rfl | ((try dsimp only); (repeat' split) <;> simp)
@[simp] theorem dropJob_grammars (s : State) (id : Nat) : (dropJob s id).grammars = s.grammars := by
  unfold dropJob; first | rfl | ((try dsimp only); (repeat' split) <;> simp)
@[simp] theorem dropJob_pocket (s : State) (id : Nat) : (dropJob s id).pocket = s.pocket := by
  unfold dropJob; first | rfl | ((try dsimp only); (repeat' split) <;> simp)
@[simp] theorem dropJob_acc (s : State) (id : Nat) : (dropJob s id).acc = s.acc := by
  unfold dropJob; first | rfl | ((try dsimp only); (repeat' split) <;> simp)
@[simp] theorem dropJob_mem (s : State) (id : Nat) : (dropJob s id).mem = s.mem := by
  unfold dropJob; first | rfl | ((try dsimp only); (repeat' split) <;> simp)
@[simp] theorem dropJob_aedup (s : State) (id : Nat) : (dropJob s id).aedup = s.aedup := by
  unfold dropJob; first | rfl | ((try dsimp only); (repeat' split) <;> simp)
@[simp] theorem dropJob_pelgan (s : State) (id : Nat) : (dropJob s id).pelgan = s.pelgan := by
  unfold dropJob; first | rfl | ((try dsimp only); (repeat' split) <;> simp)
@[simp] theorem dropJob_chip (s : State) (id : Nat) : (dropJob s id).chip = s.chip := by
  unfold dropJob; first | rfl | ((try dsimp only); (repeat' split) <;> simp)
@[simp] theorem dropJob_sec (s : State) (id : Nat) : (dropJob s id).sec = s.sec := by
  unfold dropJob; first | rfl | ((try dsimp only); (repeat' split) <;> simp)
@[simp] theorem dropJob_power (s : State) (id : Nat) : (dropJob s id).power = s.power := by
  unfold dropJob; first | rfl | ((try dsimp only); (repeat' split) <;> simp)
@[simp] theorem dropJob_test (s : State) (id : Nat) : (dropJob s id).test = s.test := by
  unfold dropJob; first | rfl | ((try dsimp only); (repeat' split) <;> simp)
@[simp] theorem dropJob_perf (s : State) (id : Nat) : (dropJob s id).perf = s.perf := by
  unfold dropJob; first | rfl | ((try dsimp only); (repeat' split) <;> simp)
@[simp] theorem dropJob_log (s : State) (id : Nat) : (dropJob s id).log = s.log := by
  unfold dropJob; first | rfl | ((try dsimp only); (repeat' split) <;> simp)
@[simp] theorem dropJob_out (s : State) (id : Nat) : (dropJob s id).out = s.out := by
  unfold dropJob; first | rfl | ((try dsimp only); (repeat' split) <;> simp)
@[simp] theorem dropJob_freeCount (s : State) (id : Nat) : (dropJob s id).freeCount = s.freeCount := by
  unfold dropJob; first | rfl | ((try dsimp only); (repeat' split) <;> simp)

/-! ### `sendHeld` -/

@[simp] theorem sendHeld_pending (s : State) (h : HeldCompletion) : (sendHeld s h).pending = s.pending := by
  unfold sendHeld; first | rfl | ((try dsimp only); (repeat' split) <;> simp)
@[simp] theorem sendHeld_start (s : State) (h : HeldCompletion) : (sendHeld s h).start = s.start := by
  unfold sendHeld; first | rfl | ((try dsimp only); (repeat' split) <;> simp)
@[simp] theorem sendHeld_fatal (s : State) (h : HeldCompletion) : (sendHeld s h).fatal = s.fatal := by
  unfold sendHeld; first | rfl | ((try dsimp only); (repeat' split) <;> simp)
@[simp] theorem sendHeld_alerts (s : State) (h : HeldCompletion) : (sendHeld s h).alerts = s.alerts := by
  unfold sendHeld; first | rfl | ((try dsimp only); (repeat' split) <;> simp)
@[simp] theorem sendHeld_eeprom (s : State) (h : HeldCompletion) : (sendHeld s h).eeprom = s.eeprom := by
  unfold sendHeld; first | rfl | ((try dsimp only); (repeat' split) <;> simp)
@[simp] theorem sendHeld_hem (s : State) (h : HeldCompletion) : (sendHeld s h).hem = s.hem := by
  unfold sendHeld; first | rfl | ((try dsimp only); (repeat' split) <;> simp)
@[simp] theorem sendHeld_queues (s : State) (h : HeldCompletion) : (sendHeld s h).queues = s.queues := by
  unfold sendHeld; first | rfl | ((try dsimp only); (repeat' split) <;> simp)
@[simp] theorem sendHeld_jobs (s : State) (h : HeldCompletion) : (sendHeld s h).jobs = s.jobs := by
  unfold sendHeld; first | rfl | ((try dsimp only); (repeat' split) <;> simp)
@[simp] theorem sendHeld_jobNext (s : State) (h : HeldCompletion) : (sendHeld s h).jobNext = s.jobNext := by
  unfold sendHeld; first | rfl | ((try dsimp only); (repeat' split) <;> simp)
@[simp] theorem sendHeld_ctxs (s : State) (h : HeldCompletion) : (sendHeld s h).ctxs = s.ctxs := by
  unfold sendHeld; first | rfl | ((try dsimp only); (repeat' split) <;> simp)
@[simp] theorem sendHeld_models (s : State) (h : HeldCompletion) : (sendHeld s h).models = s.models := by
  unfold sendHeld; first | rfl | ((try dsimp only); (repeat' split) <;> simp)
@[simp] theorem sendHeld_vocabs (s : State) (h : HeldCompletion) : (sendHeld s h).vocabs = s.vocabs := by
  unfold sendHeld; first | rfl | ((try dsimp only); (repeat' split) <;> simp)
@[simp] theorem sendHeld_indexes (s : State) (h : HeldCompletion) : (sendHeld s h).indexes = s.indexes := by
  unfold sendHeld; first | rfl | ((try dsimp only); (repeat' split) <;> simp)
@[simp] theorem sendHeld_copies (s : State) (h : HeldCompletion) : (sendHeld s h).copies = s.copies := by
  unfold sendHeld; first | rfl | ((try dsimp only); (repeat' split) <;> simp)
@[simp] theorem sendHeld_queries (s : State) (h : HeldCompletion) : (sendHeld s h).queries = s.queries := by
  unfold sendHeld; first | rfl | ((try dsimp only); (repeat' split) <;> simp)
@[simp] theorem sendHeld_spans (s : State) (h : HeldCompletion) : (sendHeld s h).spans = s.spans := by
  unfold sendHeld; first | rfl | ((try dsimp only); (repeat' split) <;> simp)
@[simp] theorem sendHeld_belt (s : State) (h : HeldCompletion) : (sendHeld s h).belt = s.belt := by
  unfold sendHeld; first | rfl | ((try dsimp only); (repeat' split) <;> simp)
@[simp] theorem sendHeld_kv (s : State) (h : HeldCompletion) : (sendHeld s h).kv = s.kv := by
  unfold sendHeld; first | rfl | ((try dsimp only); (repeat' split) <;> simp)
@[simp] theorem sendHeld_gens (s : State) (h : HeldCompletion) : (sendHeld s h).gens = s.gens := by
  unfold sendHeld; first | rfl | ((try dsimp only); (repeat' split) <;> simp)
@[simp] theorem sendHeld_grammars (s : State) (h : HeldCompletion) : (sendHeld s h).grammars = s.grammars := by
  unfold sendHeld; first | rfl | ((try dsimp only); (repeat' split) <;> simp)
@[simp] theorem sendHeld_pocket (s : State) (h : HeldCompletion) : (sendHeld s h).pocket = s.pocket := by
  unfold sendHeld; first | rfl | ((try dsimp only); (repeat' split) <;> simp)
@[simp] theorem sendHeld_acc (s : State) (h : HeldCompletion) : (sendHeld s h).acc = s.acc := by
  unfold sendHeld; first | rfl | ((try dsimp only); (repeat' split) <;> simp)
@[simp] theorem sendHeld_array (s : State) (h : HeldCompletion) : (sendHeld s h).array = s.array := by
  unfold sendHeld; first | rfl | ((try dsimp only); (repeat' split) <;> simp)
@[simp] theorem sendHeld_chip (s : State) (h : HeldCompletion) : (sendHeld s h).chip = s.chip := by
  unfold sendHeld; first | rfl | ((try dsimp only); (repeat' split) <;> simp)
@[simp] theorem sendHeld_sec (s : State) (h : HeldCompletion) : (sendHeld s h).sec = s.sec := by
  unfold sendHeld; first | rfl | ((try dsimp only); (repeat' split) <;> simp)
@[simp] theorem sendHeld_power (s : State) (h : HeldCompletion) : (sendHeld s h).power = s.power := by
  unfold sendHeld; first | rfl | ((try dsimp only); (repeat' split) <;> simp)
@[simp] theorem sendHeld_test (s : State) (h : HeldCompletion) : (sendHeld s h).test = s.test := by
  unfold sendHeld; first | rfl | ((try dsimp only); (repeat' split) <;> simp)
@[simp] theorem sendHeld_log (s : State) (h : HeldCompletion) : (sendHeld s h).log = s.log := by
  unfold sendHeld; first | rfl | ((try dsimp only); (repeat' split) <;> simp)

/-! ### `settleDrains` -/

@[simp] theorem settleDrains_pending (s : State) : (settleDrains s).pending = s.pending := by
  unfold settleDrains; split; (exact foldl_same State.pending _ _ _ (fun _ _ => by dsimp only; split <;> simp)); rfl
@[simp] theorem settleDrains_start (s : State) : (settleDrains s).start = s.start := by
  unfold settleDrains; split; (exact foldl_same State.start _ _ _ (fun _ _ => by dsimp only; split <;> simp)); rfl
@[simp] theorem settleDrains_fatal (s : State) : (settleDrains s).fatal = s.fatal := by
  unfold settleDrains; split; (exact foldl_same State.fatal _ _ _ (fun _ _ => by dsimp only; split <;> simp)); rfl
@[simp] theorem settleDrains_alerts (s : State) : (settleDrains s).alerts = s.alerts := by
  unfold settleDrains; split; (exact foldl_same State.alerts _ _ _ (fun _ _ => by dsimp only; split <;> simp)); rfl
@[simp] theorem settleDrains_eeprom (s : State) : (settleDrains s).eeprom = s.eeprom := by
  unfold settleDrains; split; (exact foldl_same State.eeprom _ _ _ (fun _ _ => by dsimp only; split <;> simp)); rfl
@[simp] theorem settleDrains_hem (s : State) : (settleDrains s).hem = s.hem := by
  unfold settleDrains; split; (exact foldl_same State.hem _ _ _ (fun _ _ => by dsimp only; split <;> simp)); rfl
@[simp] theorem settleDrains_jobs (s : State) : (settleDrains s).jobs = s.jobs := by
  unfold settleDrains; split; (exact foldl_same State.jobs _ _ _ (fun _ _ => by dsimp only; split <;> simp)); rfl
@[simp] theorem settleDrains_jobNext (s : State) : (settleDrains s).jobNext = s.jobNext := by
  unfold settleDrains; split; (exact foldl_same State.jobNext _ _ _ (fun _ _ => by dsimp only; split <;> simp)); rfl
@[simp] theorem settleDrains_ctxs (s : State) : (settleDrains s).ctxs = s.ctxs := by
  unfold settleDrains; split; (exact foldl_same State.ctxs _ _ _ (fun _ _ => by dsimp only; split <;> simp)); rfl
@[simp] theorem settleDrains_models (s : State) : (settleDrains s).models = s.models := by
  unfold settleDrains; split; (exact foldl_same State.models _ _ _ (fun _ _ => by dsimp only; split <;> simp)); rfl
@[simp] theorem settleDrains_vocabs (s : State) : (settleDrains s).vocabs = s.vocabs := by
  unfold settleDrains; split; (exact foldl_same State.vocabs _ _ _ (fun _ _ => by dsimp only; split <;> simp)); rfl
@[simp] theorem settleDrains_indexes (s : State) : (settleDrains s).indexes = s.indexes := by
  unfold settleDrains; split; (exact foldl_same State.indexes _ _ _ (fun _ _ => by dsimp only; split <;> simp)); rfl
@[simp] theorem settleDrains_copies (s : State) : (settleDrains s).copies = s.copies := by
  unfold settleDrains; split; (exact foldl_same State.copies _ _ _ (fun _ _ => by dsimp only; split <;> simp)); rfl
@[simp] theorem settleDrains_queries (s : State) : (settleDrains s).queries = s.queries := by
  unfold settleDrains; split; (exact foldl_same State.queries _ _ _ (fun _ _ => by dsimp only; split <;> simp)); rfl
@[simp] theorem settleDrains_spans (s : State) : (settleDrains s).spans = s.spans := by
  unfold settleDrains; split; (exact foldl_same State.spans _ _ _ (fun _ _ => by dsimp only; split <;> simp)); rfl
@[simp] theorem settleDrains_belt (s : State) : (settleDrains s).belt = s.belt := by
  unfold settleDrains; split; (exact foldl_same State.belt _ _ _ (fun _ _ => by dsimp only; split <;> simp)); rfl
@[simp] theorem settleDrains_kv (s : State) : (settleDrains s).kv = s.kv := by
  unfold settleDrains; split; (exact foldl_same State.kv _ _ _ (fun _ _ => by dsimp only; split <;> simp)); rfl
@[simp] theorem settleDrains_gens (s : State) : (settleDrains s).gens = s.gens := by
  unfold settleDrains; split; (exact foldl_same State.gens _ _ _ (fun _ _ => by dsimp only; split <;> simp)); rfl
@[simp] theorem settleDrains_grammars (s : State) : (settleDrains s).grammars = s.grammars := by
  unfold settleDrains; split; (exact foldl_same State.grammars _ _ _ (fun _ _ => by dsimp only; split <;> simp)); rfl
@[simp] theorem settleDrains_pocket (s : State) : (settleDrains s).pocket = s.pocket := by
  unfold settleDrains; split; (exact foldl_same State.pocket _ _ _ (fun _ _ => by dsimp only; split <;> simp)); rfl
@[simp] theorem settleDrains_acc (s : State) : (settleDrains s).acc = s.acc := by
  unfold settleDrains; split; (exact foldl_same State.acc _ _ _ (fun _ _ => by dsimp only; split <;> simp)); rfl
@[simp] theorem settleDrains_array (s : State) : (settleDrains s).array = s.array := by
  unfold settleDrains; split; (exact foldl_same State.array _ _ _ (fun _ _ => by dsimp only; split <;> simp)); rfl
@[simp] theorem settleDrains_chip (s : State) : (settleDrains s).chip = s.chip := by
  unfold settleDrains; split; (exact foldl_same State.chip _ _ _ (fun _ _ => by dsimp only; split <;> simp)); rfl
@[simp] theorem settleDrains_sec (s : State) : (settleDrains s).sec = s.sec := by
  unfold settleDrains; split; (exact foldl_same State.sec _ _ _ (fun _ _ => by dsimp only; split <;> simp)); rfl
@[simp] theorem settleDrains_power (s : State) : (settleDrains s).power = s.power := by
  unfold settleDrains; split; (exact foldl_same State.power _ _ _ (fun _ _ => by dsimp only; split <;> simp)); rfl
@[simp] theorem settleDrains_test (s : State) : (settleDrains s).test = s.test := by
  unfold settleDrains; split; (exact foldl_same State.test _ _ _ (fun _ _ => by dsimp only; split <;> simp)); rfl
@[simp] theorem settleDrains_log (s : State) : (settleDrains s).log = s.log := by
  unfold settleDrains; split; (exact foldl_same State.log _ _ _ (fun _ _ => by dsimp only; split <;> simp)); rfl

/-! ### `writeCompletion` -/

@[simp] theorem writeCompletion_pending (s : State) (n c st r : Nat) (i : Bool) : (writeCompletion s n c st r i).pending = s.pending := by
  unfold writeCompletion; first | rfl | ((try dsimp only); (repeat' split) <;> simp)
@[simp] theorem writeCompletion_start (s : State) (n c st r : Nat) (i : Bool) : (writeCompletion s n c st r i).start = s.start := by
  unfold writeCompletion; first | rfl | ((try dsimp only); (repeat' split) <;> simp)
@[simp] theorem writeCompletion_fatal (s : State) (n c st r : Nat) (i : Bool) : (writeCompletion s n c st r i).fatal = s.fatal := by
  unfold writeCompletion; first | rfl | ((try dsimp only); (repeat' split) <;> simp)
@[simp] theorem writeCompletion_alerts (s : State) (n c st r : Nat) (i : Bool) : (writeCompletion s n c st r i).alerts = s.alerts := by
  unfold writeCompletion; first | rfl | ((try dsimp only); (repeat' split) <;> simp)
@[simp] theorem writeCompletion_eeprom (s : State) (n c st r : Nat) (i : Bool) : (writeCompletion s n c st r i).eeprom = s.eeprom := by
  unfold writeCompletion; first | rfl | ((try dsimp only); (repeat' split) <;> simp)
@[simp] theorem writeCompletion_hem (s : State) (n c st r : Nat) (i : Bool) : (writeCompletion s n c st r i).hem = s.hem := by
  unfold writeCompletion; first | rfl | ((try dsimp only); (repeat' split) <;> simp)
@[simp] theorem writeCompletion_jobs (s : State) (n c st r : Nat) (i : Bool) : (writeCompletion s n c st r i).jobs = s.jobs := by
  unfold writeCompletion; first | rfl | ((try dsimp only); (repeat' split) <;> simp)
@[simp] theorem writeCompletion_jobNext (s : State) (n c st r : Nat) (i : Bool) : (writeCompletion s n c st r i).jobNext = s.jobNext := by
  unfold writeCompletion; first | rfl | ((try dsimp only); (repeat' split) <;> simp)
@[simp] theorem writeCompletion_ctxs (s : State) (n c st r : Nat) (i : Bool) : (writeCompletion s n c st r i).ctxs = s.ctxs := by
  unfold writeCompletion; first | rfl | ((try dsimp only); (repeat' split) <;> simp)
@[simp] theorem writeCompletion_models (s : State) (n c st r : Nat) (i : Bool) : (writeCompletion s n c st r i).models = s.models := by
  unfold writeCompletion; first | rfl | ((try dsimp only); (repeat' split) <;> simp)
@[simp] theorem writeCompletion_vocabs (s : State) (n c st r : Nat) (i : Bool) : (writeCompletion s n c st r i).vocabs = s.vocabs := by
  unfold writeCompletion; first | rfl | ((try dsimp only); (repeat' split) <;> simp)
@[simp] theorem writeCompletion_indexes (s : State) (n c st r : Nat) (i : Bool) : (writeCompletion s n c st r i).indexes = s.indexes := by
  unfold writeCompletion; first | rfl | ((try dsimp only); (repeat' split) <;> simp)
@[simp] theorem writeCompletion_copies (s : State) (n c st r : Nat) (i : Bool) : (writeCompletion s n c st r i).copies = s.copies := by
  unfold writeCompletion; first | rfl | ((try dsimp only); (repeat' split) <;> simp)
@[simp] theorem writeCompletion_queries (s : State) (n c st r : Nat) (i : Bool) : (writeCompletion s n c st r i).queries = s.queries := by
  unfold writeCompletion; first | rfl | ((try dsimp only); (repeat' split) <;> simp)
@[simp] theorem writeCompletion_spans (s : State) (n c st r : Nat) (i : Bool) : (writeCompletion s n c st r i).spans = s.spans := by
  unfold writeCompletion; first | rfl | ((try dsimp only); (repeat' split) <;> simp)
@[simp] theorem writeCompletion_belt (s : State) (n c st r : Nat) (i : Bool) : (writeCompletion s n c st r i).belt = s.belt := by
  unfold writeCompletion; first | rfl | ((try dsimp only); (repeat' split) <;> simp)
@[simp] theorem writeCompletion_kv (s : State) (n c st r : Nat) (i : Bool) : (writeCompletion s n c st r i).kv = s.kv := by
  unfold writeCompletion; first | rfl | ((try dsimp only); (repeat' split) <;> simp)
@[simp] theorem writeCompletion_gens (s : State) (n c st r : Nat) (i : Bool) : (writeCompletion s n c st r i).gens = s.gens := by
  unfold writeCompletion; first | rfl | ((try dsimp only); (repeat' split) <;> simp)
@[simp] theorem writeCompletion_grammars (s : State) (n c st r : Nat) (i : Bool) : (writeCompletion s n c st r i).grammars = s.grammars := by
  unfold writeCompletion; first | rfl | ((try dsimp only); (repeat' split) <;> simp)
@[simp] theorem writeCompletion_pocket (s : State) (n c st r : Nat) (i : Bool) : (writeCompletion s n c st r i).pocket = s.pocket := by
  unfold writeCompletion; first | rfl | ((try dsimp only); (repeat' split) <;> simp)
@[simp] theorem writeCompletion_acc (s : State) (n c st r : Nat) (i : Bool) : (writeCompletion s n c st r i).acc = s.acc := by
  unfold writeCompletion; first | rfl | ((try dsimp only); (repeat' split) <;> simp)
@[simp] theorem writeCompletion_array (s : State) (n c st r : Nat) (i : Bool) : (writeCompletion s n c st r i).array = s.array := by
  unfold writeCompletion; first | rfl | ((try dsimp only); (repeat' split) <;> simp)
@[simp] theorem writeCompletion_chip (s : State) (n c st r : Nat) (i : Bool) : (writeCompletion s n c st r i).chip = s.chip := by
  unfold writeCompletion; first | rfl | ((try dsimp only); (repeat' split) <;> simp)
@[simp] theorem writeCompletion_sec (s : State) (n c st r : Nat) (i : Bool) : (writeCompletion s n c st r i).sec = s.sec := by
  unfold writeCompletion; first | rfl | ((try dsimp only); (repeat' split) <;> simp)
@[simp] theorem writeCompletion_power (s : State) (n c st r : Nat) (i : Bool) : (writeCompletion s n c st r i).power = s.power := by
  unfold writeCompletion; first | rfl | ((try dsimp only); (repeat' split) <;> simp)
@[simp] theorem writeCompletion_test (s : State) (n c st r : Nat) (i : Bool) : (writeCompletion s n c st r i).test = s.test := by
  unfold writeCompletion; first | rfl | ((try dsimp only); (repeat' split) <;> simp)
@[simp] theorem writeCompletion_log (s : State) (n c st r : Nat) (i : Bool) : (writeCompletion s n c st r i).log = s.log := by
  unfold writeCompletion; first | rfl | ((try dsimp only); (repeat' split) <;> simp)

/-! ### `completeJob` -/

@[simp] theorem completeJob_pending (s : State) (id : Nat) (j : Job) (st r : Nat) : (completeJob s id j st r).pending = s.pending := by
  unfold completeJob; first | rfl | ((try dsimp only); (repeat' split) <;> simp)
@[simp] theorem completeJob_start (s : State) (id : Nat) (j : Job) (st r : Nat) : (completeJob s id j st r).start = s.start := by
  unfold completeJob; first | rfl | ((try dsimp only); (repeat' split) <;> simp)
@[simp] theorem completeJob_fatal (s : State) (id : Nat) (j : Job) (st r : Nat) : (completeJob s id j st r).fatal = s.fatal := by
  unfold completeJob; first | rfl | ((try dsimp only); (repeat' split) <;> simp)
@[simp] theorem completeJob_alerts (s : State) (id : Nat) (j : Job) (st r : Nat) : (completeJob s id j st r).alerts = s.alerts := by
  unfold completeJob; first | rfl | ((try dsimp only); (repeat' split) <;> simp)
@[simp] theorem completeJob_eeprom (s : State) (id : Nat) (j : Job) (st r : Nat) : (completeJob s id j st r).eeprom = s.eeprom := by
  unfold completeJob; first | rfl | ((try dsimp only); (repeat' split) <;> simp)
@[simp] theorem completeJob_hem (s : State) (id : Nat) (j : Job) (st r : Nat) : (completeJob s id j st r).hem = s.hem := by
  unfold completeJob; first | rfl | ((try dsimp only); (repeat' split) <;> simp)
@[simp] theorem completeJob_jobNext (s : State) (id : Nat) (j : Job) (st r : Nat) : (completeJob s id j st r).jobNext = s.jobNext := by
  unfold completeJob; first | rfl | ((try dsimp only); (repeat' split) <;> simp)
@[simp] theorem completeJob_ctxs (s : State) (id : Nat) (j : Job) (st r : Nat) : (completeJob s id j st r).ctxs = s.ctxs := by
  unfold completeJob; first | rfl | ((try dsimp only); (repeat' split) <;> simp)
@[simp] theorem completeJob_models (s : State) (id : Nat) (j : Job) (st r : Nat) : (completeJob s id j st r).models = s.models := by
  unfold completeJob; first | rfl | ((try dsimp only); (repeat' split) <;> simp)
@[simp] theorem completeJob_vocabs (s : State) (id : Nat) (j : Job) (st r : Nat) : (completeJob s id j st r).vocabs = s.vocabs := by
  unfold completeJob; first | rfl | ((try dsimp only); (repeat' split) <;> simp)
@[simp] theorem completeJob_indexes (s : State) (id : Nat) (j : Job) (st r : Nat) : (completeJob s id j st r).indexes = s.indexes := by
  unfold completeJob; first | rfl | ((try dsimp only); (repeat' split) <;> simp)
@[simp] theorem completeJob_copies (s : State) (id : Nat) (j : Job) (st r : Nat) : (completeJob s id j st r).copies = s.copies := by
  unfold completeJob; first | rfl | ((try dsimp only); (repeat' split) <;> simp)
@[simp] theorem completeJob_spans (s : State) (id : Nat) (j : Job) (st r : Nat) : (completeJob s id j st r).spans = s.spans := by
  unfold completeJob; first | rfl | ((try dsimp only); (repeat' split) <;> simp)
@[simp] theorem completeJob_belt (s : State) (id : Nat) (j : Job) (st r : Nat) : (completeJob s id j st r).belt = s.belt := by
  unfold completeJob; first | rfl | ((try dsimp only); (repeat' split) <;> simp)
@[simp] theorem completeJob_kv (s : State) (id : Nat) (j : Job) (st r : Nat) : (completeJob s id j st r).kv = s.kv := by
  unfold completeJob; first | rfl | ((try dsimp only); (repeat' split) <;> simp)
@[simp] theorem completeJob_grammars (s : State) (id : Nat) (j : Job) (st r : Nat) : (completeJob s id j st r).grammars = s.grammars := by
  unfold completeJob; first | rfl | ((try dsimp only); (repeat' split) <;> simp)
@[simp] theorem completeJob_pocket (s : State) (id : Nat) (j : Job) (st r : Nat) : (completeJob s id j st r).pocket = s.pocket := by
  unfold completeJob; first | rfl | ((try dsimp only); (repeat' split) <;> simp)
@[simp] theorem completeJob_acc (s : State) (id : Nat) (j : Job) (st r : Nat) : (completeJob s id j st r).acc = s.acc := by
  unfold completeJob; first | rfl | ((try dsimp only); (repeat' split) <;> simp)
@[simp] theorem completeJob_chip (s : State) (id : Nat) (j : Job) (st r : Nat) : (completeJob s id j st r).chip = s.chip := by
  unfold completeJob; first | rfl | ((try dsimp only); (repeat' split) <;> simp)
@[simp] theorem completeJob_sec (s : State) (id : Nat) (j : Job) (st r : Nat) : (completeJob s id j st r).sec = s.sec := by
  unfold completeJob; first | rfl | ((try dsimp only); (repeat' split) <;> simp)
@[simp] theorem completeJob_power (s : State) (id : Nat) (j : Job) (st r : Nat) : (completeJob s id j st r).power = s.power := by
  unfold completeJob; first | rfl | ((try dsimp only); (repeat' split) <;> simp)
@[simp] theorem completeJob_test (s : State) (id : Nat) (j : Job) (st r : Nat) : (completeJob s id j st r).test = s.test := by
  unfold completeJob; first | rfl | ((try dsimp only); (repeat' split) <;> simp)
@[simp] theorem completeJob_log (s : State) (id : Nat) (j : Job) (st r : Nat) : (completeJob s id j st r).log = s.log := by
  unfold completeJob; first | rfl | ((try dsimp only); (repeat' split) <;> simp)

/-! ### `linkFails` -/

@[simp] theorem linkFails_start (s : State) (l : LinkId) : (linkFails s l).start = s.start := by
  exact (linkLoss_linkFails _ _).start
@[simp] theorem linkFails_fatal (s : State) (l : LinkId) : (linkFails s l).fatal = s.fatal := by
  exact (linkLoss_linkFails _ _).fatal
@[simp] theorem linkFails_alerts (s : State) (l : LinkId) : (linkFails s l).alerts = s.alerts := by
  exact (linkLoss_linkFails _ _).alerts
@[simp] theorem linkFails_eeprom (s : State) (l : LinkId) : (linkFails s l).eeprom = s.eeprom := by
  exact (linkLoss_linkFails _ _).eeprom
@[simp] theorem linkFails_hem (s : State) (l : LinkId) : (linkFails s l).hem = s.hem := by
  exact (linkLoss_linkFails _ _).hem
@[simp] theorem linkFails_queues (s : State) (l : LinkId) : (linkFails s l).queues = s.queues := by
  exact (linkLoss_linkFails _ _).queues
@[simp] theorem linkFails_models (s : State) (l : LinkId) : (linkFails s l).models = s.models := by
  exact (linkLoss_linkFails _ _).models
@[simp] theorem linkFails_vocabs (s : State) (l : LinkId) : (linkFails s l).vocabs = s.vocabs := by
  exact (linkLoss_linkFails _ _).vocabs
@[simp] theorem linkFails_indexes (s : State) (l : LinkId) : (linkFails s l).indexes = s.indexes := by
  exact (linkLoss_linkFails _ _).indexes
@[simp] theorem linkFails_belt (s : State) (l : LinkId) : (linkFails s l).belt = s.belt := by
  exact (linkLoss_linkFails _ _).belt
@[simp] theorem linkFails_kv (s : State) (l : LinkId) : (linkFails s l).kv = s.kv := by
  exact (linkLoss_linkFails _ _).kv
@[simp] theorem linkFails_gens (s : State) (l : LinkId) : (linkFails s l).gens = s.gens := by
  exact (linkLoss_linkFails _ _).gens
@[simp] theorem linkFails_grammars (s : State) (l : LinkId) : (linkFails s l).grammars = s.grammars := by
  exact (linkLoss_linkFails _ _).grammars
@[simp] theorem linkFails_pocket (s : State) (l : LinkId) : (linkFails s l).pocket = s.pocket := by
  exact (linkLoss_linkFails _ _).pocket
@[simp] theorem linkFails_acc (s : State) (l : LinkId) : (linkFails s l).acc = s.acc := by
  exact (linkLoss_linkFails _ _).acc
@[simp] theorem linkFails_mem (s : State) (l : LinkId) : (linkFails s l).mem = s.mem := by
  exact (linkLoss_linkFails _ _).mem
@[simp] theorem linkFails_chip (s : State) (l : LinkId) : (linkFails s l).chip = s.chip := by
  exact (linkLoss_linkFails _ _).chip
@[simp] theorem linkFails_power (s : State) (l : LinkId) : (linkFails s l).power = s.power := by
  exact (linkLoss_linkFails _ _).power
@[simp] theorem linkFails_test (s : State) (l : LinkId) : (linkFails s l).test = s.test := by
  exact (linkLoss_linkFails _ _).test

end Sys2Proof.Machine
end

