-- ==== Sys2Proof/Laws/Queues.lean ====
section
/-! SUPPORT. What the settling of drained queues can change, and what admission keeps of a command. -/

namespace Sys2Proof.Machine

/-- What holds before the drained queues are settled, and stays when one is written back and disabled, holds after. -/
theorem settleDrains_ind {P : State → Prop} (s : State) (h : P s)
    (f : ∀ (t : State) (n : Nat) (q : Queue), (n, q) ∈ s.queues → queueDrained s n q = true → P t →
      P { writeBack t n q with queues := tabDel (writeBack t n q).queues n }) : P (settleDrains s) := by
  unfold settleDrains
  split
  · suffices H : ∀ (l : List (Nat × Queue)) (t : State), (∀ p ∈ l, p ∈ s.queues) → P t →
        P (l.foldl (fun t p => if queueDrained s p.1 p.2 then
          { writeBack t p.1 p.2 with queues := tabDel (writeBack t p.1 p.2).queues p.1 } else t) t) from
      H _ _ (fun p hp => hp) h
    intro l
    induction l with
    | nil => intro t _ ht; exact ht
    | cons a l ih =>
      intro t hl ht
      rw [List.foldl_cons]
      refine ih _ (fun p hp => hl p (List.mem_cons_of_mem _ hp)) ?_
      split
      · next hd => exact f t a.1 a.2 (hl a (by simp)) hd ht
      · exact ht
  · exact h

/-- A queue of which no entry drains stays as it is. -/
theorem settleDrains_get (s : State) (n : Nat) (h : ∀ p ∈ s.queues, p.1 = n → p.2.draining = false) :
    tabGet (settleDrains s).queues n = tabGet s.queues n := by
  refine settleDrains_ind (P := fun t => tabGet t.queues n = tabGet s.queues n) s rfl ?_
  intro t m q hm hd ht
  have hne : n ≠ m := by
    intro e
    have g : q.draining = false := h (m, q) hm e.symm
    simp [queueDrained, g] at hd
  simp only [writeBack_queues]
  rw [tabGet_tabDel_ne _ hne]
  exact ht

theorem settleDrains_out (s : State) : ∃ l, (settleDrains s).out = l ++ s.out := by
  refine settleDrains_ind (P := fun t => ∃ l, t.out = l ++ s.out) s ⟨[], rfl⟩ ?_
  rintro t m q - - ⟨l, h⟩
  obtain ⟨_, _, _, _, e⟩ := writeBytes_eq t (companionBase + reg t Key.QUEUE_TABLE_BASE + 64 * m + 24)
    (leBytes 8 (q.cqWrap * 2 ^ 32 + q.cqTail * 2 ^ 16 + q.sqHead))
  obtain ⟨l', h'⟩ := e.out
  refine ⟨l' ++ l, ?_⟩
  show (writeBack t m q).out = _
  unfold writeBack
  rw [h', List.append_assoc]
  exact congrArg (l' ++ ·) h

theorem reg_settleDrains (s : State) {k : Nat} (h : sideKey k = false) : reg (settleDrains s) k = reg s k := by
  refine settleDrains_ind (P := fun t => reg t k = reg s k) s rfl ?_
  intro t m q _ _ ht
  exact (reg_writeBytes _ _ _ h).trans ht

theorem settleDrains_down {s : State} (h : s.aedup.link.state ≠ .active) : settleDrains s = s := by
  unfold settleDrains
  rw [if_neg (by simpa using h)]

/-! ### Admission -/

/-- What admission itself keeps of a command: its header, its queue and client, its beat, and that it has no outcome. -/
structure SameCommand (j k : Job) : Prop where
  queue : k.queue = j.queue
  cmdId : k.cmdId = j.cmdId
  ctx : k.ctx = j.ctx
  opcode : k.opcode = j.opcode
  entry : k.entry = j.entry
  client : k.client = j.client
  intr : k.intr = j.intr
  start : k.start = j.start
  lost : k.lost = j.lost
  phase : k.phase = j.phase

theorem SameCommand.refl (j : Job) : SameCommand j j := ⟨rfl, rfl, rfl, rfl, rfl, rfl, rfl, rfl, rfl, rfl⟩

/-- What an opcode does at admission keeps its command, the entries and the queues. -/
structure AdmitKeeps (s t : State) (id : Nat) : Prop where
  regs : t.regs = s.regs
  queues : t.queues = s.queues
  jobNext : t.jobNext = s.jobNext
  job : ∀ j, tabGet s.jobs id = some j → ∃ k, tabGet t.jobs id = some k ∧ SameCommand j k

theorem AdmitKeeps.refl (s : State) (id : Nat) : AdmitKeeps s s id := ⟨rfl, rfl, rfl, fun j h => ⟨j, h, .refl j⟩⟩

theorem AdmitKeeps.of_jobs {s t : State} {id : Nat} (h1 : t.regs = s.regs) (h2 : t.queues = s.queues)
    (h3 : t.jobNext = s.jobNext) (h4 : t.jobs = s.jobs) : AdmitKeeps s t id :=
  ⟨h1, h2, h3, fun j h => ⟨j, by rw [h4]; exact h, .refl j⟩⟩

theorem AdmitKeeps.trans {a b c : State} {id : Nat} (h : AdmitKeeps a b id) (k : AdmitKeeps b c id) : AdmitKeeps a c id where
  regs := k.regs.trans h.regs
  queues := k.queues.trans h.queues
  jobNext := k.jobNext.trans h.jobNext
  job := by
    intro j hj
    obtain ⟨x, hx, hs⟩ := h.job j hj
    obtain ⟨y, hy, ht⟩ := k.job x hx
    exact ⟨y, hy, ⟨ht.1.trans hs.1, ht.2.trans hs.2, ht.3.trans hs.3, ht.4.trans hs.4, ht.5.trans hs.5, ht.6.trans hs.6,
      ht.7.trans hs.7, ht.8.trans hs.8, ht.9.trans hs.9, ht.10.trans hs.10⟩⟩

theorem admitKeeps_updJob (s : State) (id : Nat) (f : Job → Job) (h : ∀ j, SameCommand j (f j)) :
    AdmitKeeps s (updJob s id f) id := by
  refine ⟨rfl, rfl, rfl, fun j hj => ⟨f j, ?_, h j⟩⟩
  unfold updJob
  simp only
  rw [tabGet_tabUpd_self, hj]
  rfl

theorem admitKeeps_pinTable (s : State) (a id : Nat) : AdmitKeeps s (pinTable s a id) id := by
  unfold pinTable
  repeat' split
  all_goals exact .of_jobs rfl rfl rfl rfl

theorem admitKeeps_pinVocab (s : State) (v id : Nat) : AdmitKeeps s (pinVocab s v id) id :=
  .of_jobs rfl rfl rfl rfl

theorem admitKeeps_pinGen (s : State) (id : Nat) : AdmitKeeps s (pinGen s id) id := by
  unfold pinGen
  split
  · dsimp only
    have h1 : ∀ (t : State) (v : Nat), AdmitKeeps t (if (vocabOf t v).isSome = true then pinVocab t v id else t) id := by
      intro t v
      split
      · exact admitKeeps_pinVocab _ _ _
      · exact .refl _ _
    have h2 : ∀ (t : State) (c : Bool) (g : Tab Grammar), AdmitKeeps t (if c = true then { t with grammars := g } else t) id := by
      intro t c g
      split
      · exact .of_jobs rfl rfl rfl rfl
      · exact .refl _ _
    split
    · refine ((h1 _ _).trans (h2 _ _ _)).trans (admitKeeps_pinTable _ _ _)
    · refine (((h1 _ _).trans (h2 _ _ _)).trans (admitKeeps_pinTable _ _ _)).trans (admitKeeps_pinTable _ _ _)
  · exact .refl _ _

theorem admitKeeps_genRun (s : State) (id : Nat) : AdmitKeeps s (genRunAdmit s id) id := by
  unfold genRunAdmit
  split
  · dsimp only
    have h : ∀ (c n : Nat), AdmitKeeps s (updJob (setGs s c 416 32 n) id (fun j => { j with pin := n })) id := fun c n =>
      (AdmitKeeps.of_jobs (s := s) (id := id) (t := setGs s c 416 32 n) rfl rfl rfl rfl).trans (admitKeeps_updJob _ _ (fun j => { j with pin := n }) (fun j => ⟨rfl, rfl, rfl, rfl, rfl, rfl, rfl, rfl, rfl, rfl⟩))
    split
    · exact h _ _
    · exact (h _ _).trans (admitKeeps_pinGen _ _)
  · exact .refl _ _

theorem admitKeeps_pin (s : State) (id v : Nat) : AdmitKeeps s (updJob s id (fun k => { k with pin := v })) id :=
  admitKeeps_updJob s id _ (fun _ => ⟨rfl, rfl, rfl, rfl, rfl, rfl, rfl, rfl, rfl, rfl⟩)

theorem admitKeeps_arrayRun (s : State) (id : Nat) : AdmitKeeps s (arrayRunAdmit s id) id := by
  unfold arrayRunAdmit
  split
  · next j _ =>
    refine .trans (b := nextRun s j.ctx) (.of_jobs rfl rfl rfl rfl) ?_
    apply admitKeeps_updJob
    exact fun _ => ⟨rfl, rfl, rfl, rfl, rfl, rfl, rfl, rfl, rfl, rfl⟩
  · exact .refl _ _

theorem admitKeeps_search (s : State) (id : Nat) : AdmitKeeps s (searchAdmit s id) id := by
  unfold searchAdmit
  split
  · split
    · exact (admitKeeps_pin s id _).trans (.of_jobs rfl rfl rfl rfl)
    · exact .refl _ _
  · exact .refl _ _

theorem admitKeeps_beltGather (s : State) (id : Nat) : AdmitKeeps s (beltGatherAdmit s id) id := by
  unfold beltGatherAdmit
  split
  · split
    · exact (admitKeeps_pin s id _).trans (.of_jobs rfl rfl rfl rfl)
    · exact .refl _ _
  · exact .refl _ _

theorem admitKeeps_flush (s : State) (id : Nat) : AdmitKeeps s (flushAdmit s id) id :=
  admitKeeps_updJob s id _ (fun _ => ⟨rfl, rfl, rfl, rfl, rfl, rfl, rfl, rfl, rfl, rfl⟩)

theorem admitKeeps_objSetPolicy (s : State) (id : Nat) : AdmitKeeps s (objSetPolicyAdmit s id) id := by
  have h : ∀ w, AdmitKeeps s (updJob s id (fun j => { j with work := w })) id := fun w =>
    admitKeeps_updJob s id _ (fun _ => ⟨rfl, rfl, rfl, rfl, rfl, rfl, rfl, rfl, rfl, rfl⟩)
  unfold objSetPolicyAdmit
  split
  · dsimp only
    split
    · split
      · exact (h _).trans (.of_jobs rfl rfl rfl rfl)
      · exact h _
    · exact .refl _ _
  · exact .refl _ _

theorem admitKeeps_crossRerank (s : State) (id : Nat) : AdmitKeeps s (crossRerankAdmit s id) id := by
  unfold crossRerankAdmit
  split
  · dsimp only
    split
    · exact (admitKeeps_pinTable _ _ _).trans (admitKeeps_pinTable _ _ _)
    · exact admitKeeps_pinTable _ _ _
  · exact .refl _ _

/-- What each opcode does at admission keeps its command, the entries and the queues. -/
theorem admitKeeps_all (s : State) (id : Nat) : ∀ p ∈ opcodeSpecs, AdmitKeeps s (p.2.atAdmission s id) id := by
  have none_ : AdmitKeeps s (noAdmit s id) id := .refl _ _
  have modify : AdmitKeeps s (ctxModifyAdmit s id) id := by
    unfold ctxModifyAdmit
    split
    · exact .of_jobs rfl rfl rfl rfl
    · exact .refl _ _
  have release : AdmitKeeps s (wardrobeReleaseAdmit s id) id := by
    unfold wardrobeReleaseAdmit
    split
    · exact .of_jobs rfl rfl rfl rfl
    · exact .refl _ _
  have drop : AdmitKeeps s (indexDropAdmit s id) id := by
    unfold indexDropAdmit
    repeat' split
    all_goals exact .of_jobs rfl rfl rfl rfl
  have unload : AdmitKeeps s (laceVocabUnloadAdmit s id) id := by
    unfold laceVocabUnloadAdmit
    repeat' split
    all_goals exact .of_jobs rfl rfl rfl rfl
  have lace : AdmitKeeps s (laceAdmit s id) id := by
    unfold laceAdmit
    split
    · exact admitKeeps_pinVocab _ _ _
    · exact .refl _ _
  have veil : AdmitKeeps s (veilUnloadAdmit s id) id := by
    unfold veilUnloadAdmit
    repeat' split
    all_goals exact .of_jobs rfl rfl rfl rfl
  have object : AdmitKeeps s (objReleaseAdmit s id) id := by
    unfold objReleaseAdmit
    split
    · exact .of_jobs rfl rfl rfl rfl
    · exact .refl _ _
  have table : AdmitKeeps s (beltTableDropAdmit s id) id := by
    unfold beltTableDropAdmit
    split
    · exact .of_jobs rfl rfl rfl rfl
    · exact .refl _ _
  have gather := admitKeeps_beltGather s id
  have search := admitKeeps_search s id
  have flush := admitKeeps_flush s id
  have policy := admitKeeps_objSetPolicy s id
  have rank := admitKeeps_crossRerank s id
  have gen := admitKeeps_genRun s id
  have array := admitKeeps_arrayRun s id
  unfold opcodeSpecs
  simp only [List.cons_append, List.nil_append, List.forall_mem_cons, List.not_mem_nil, false_implies, implies_true, and_true]
  repeat' apply And.intro
  all_goals assumption

end Sys2Proof.Machine
end

