-- ==== Sys2Proof/Laws/Quiet.lean ====
section
/-! SUPPORT. Steps of commands that change no byte, no index and nothing held, and steps that write one output and end. -/

namespace Sys2Proof.Machine

theorem Quiet.refl (s : State) (id c : Nat) : Quiet s s id c :=
  ⟨fun _ => rfl, .refl _ _ _, .refl _, rfl⟩

theorem Quiet.trans {s t u : State} {id c : Nat} (h : Quiet s t id c) (k : Quiet t u id c) : Quiet s u id c :=
  ⟨fun a => (k.bytes a).trans (h.bytes a), h.beside.trans k.beside, h.holdings.trans k.holdings, k.indexes.trans h.indexes⟩

theorem quiet_of_side {s t : State} (h : Side s t) (id c : Nat) : Quiet s t id c :=
  ⟨fun a => byteAt_congr (by rw [h.mem]) (by rw [h.mem]) a, beside_of_side h _ _, holdings_of_side h, h.indexes⟩

theorem quiet_units {s t : State} (h : UnitsOnly s t) (id c : Nat) : Quiet s t id c :=
  ⟨byteAt_units h, beside_units h _ _, holdings_units h, by obtain ⟨u, rfl⟩ := h; rfl⟩

theorem quiet_touchRange (s : State) (a n id c : Nat) : Quiet s (touchRange s a n) id c := by
  obtain ⟨us, h⟩ := touchRange_eq s a n
  exact (quiet_units (t := { s with mem := { s.mem with units := us } }) ⟨us, rfl⟩ _ _).trans (quiet_of_side h _ _)

theorem touchRanges_eq (s : State) (rs : List (Nat × Nat)) :
    ∃ us, Side { s with mem := { s.mem with units := us } } (touchRanges s rs) := by
  induction rs generalizing s with
  | nil => exact ⟨s.mem.units, Side.refl _⟩
  | cons r rs ih =>
    obtain ⟨u, h⟩ := touchRange_eq s r.1 r.2
    obtain ⟨v, k⟩ := ih (touchRange s r.1 r.2)
    refine ⟨v, Side.trans ?_ k⟩
    have e : (touchRange s r.1 r.2).mem = { s.mem with units := u } := h.mem
    rw [e]
    exact ⟨h.pending, h.start, h.fatal, h.alerts, h.eeprom, h.dict, h.hem, h.queues, h.jobs, h.jobNext, h.ctxs, h.models,
      h.vocabs, h.indexes, h.copies, h.queries, h.spans, h.belt, h.kv, h.gens, h.grammars, h.pocket, h.acc, h.array, rfl,
      h.aedup, h.pelgan, h.chip, h.sec, h.power, h.test, h.log, h.actor, h.shadows, h.out, h.linkState, h.regs⟩

theorem quiet_touchRanges (s : State) (rs : List (Nat × Nat)) (id c : Nat) : Quiet s (touchRanges s rs) id c := by
  induction rs generalizing s with
  | nil => exact .refl _ _ _
  | cons r rs ih => exact (quiet_touchRange s r.1 r.2 id c).trans (ih _)

theorem jobs_touchRanges (s : State) (rs : List (Nat × Nat)) : (touchRanges s rs).jobs = s.jobs := by
  obtain ⟨us, h⟩ := touchRanges_eq s rs
  exact h.jobs

theorem quiet_bump (s : State) (k n id c : Nat) (h : k < 0x200000) : Quiet s (bump s k n) id c :=
  ⟨fun _ => rfl, beside_bump _ _ _ _ _ h, holdings_bump _ _ _, rfl⟩

theorem quiet_finish {s : State} {id : Nat} {j : Job} (st r : Nat) (h : tabGet s.jobs id = some j) :
    Quiet s (finish s id st r) id j.ctx :=
  ⟨fun a => byteAt_congr (by simp) (by simp) a, beside_finish _ _ h, holdings_finish _ _ _ _, by simp⟩

theorem quiet_updJob (s : State) (id c : Nat) (f : Job → Job) : Quiet s (updJob s id f) id c :=
  ⟨fun _ => rfl, beside_updJob _ _ _ _, holdings_updJob _ _ _, rfl⟩

theorem quiet_notePosted (s : State) (i a n id c : Nat) : Quiet s (notePosted s i a n) id c := by
  refine ⟨fun b => ?_, beside_notePosted _ _ _ _ _ _, holdings_notePosted _ _ _ _, ?_⟩ <;> unfold notePosted <;> split <;> rfl

theorem quiet_perf (s : State) (p : PerfS) (id c : Nat) : Quiet s { s with perf := p } id c :=
  ⟨fun _ => rfl, by constructor <;> first | rfl | exact fun _ _ => rfl, by constructor <;> rfl, rfl⟩

theorem quiet_acting (s : State) (j : Job) (id c : Nat) : Quiet s (acting s j) id c := quiet_perf _ _ _ _

theorem quiet_freeCount (s : State) (n id c : Nat) : Quiet s { s with freeCount := n } id c :=
  ⟨fun _ => rfl, by constructor <;> first | rfl | exact fun _ _ => rfl, by constructor <;> rfl, rfl⟩

theorem quiet_takeFree (s : State) (id c : Nat) : Quiet s (takeFree s).2 id c := quiet_freeCount _ _ _ _

@[simp] theorem takeFree_jobs (s : State) : (takeFree s).2.jobs = s.jobs := rfl

theorem jobs_units {s t : State} (h : UnitsOnly s t) : t.jobs = s.jobs := by obtain ⟨u, rfl⟩ := h; rfl

theorem jobs_touchRange (s : State) (a n : Nat) : (touchRange s a n).jobs = s.jobs := by
  obtain ⟨us, h⟩ := touchRange_eq s a n
  exact h.jobs

theorem jobs_writeBytes (s : State) (a : Nat) (bs : List Nat) : (writeBytes s a bs).jobs = s.jobs := by
  obtain ⟨us, st, o, po, h⟩ := writeBytes_eq s a bs
  exact h.jobs

@[simp] theorem notePosted_jobs (s : State) (id a n : Nat) : (notePosted s id a n).jobs = s.jobs := by
  unfold notePosted; split <;> rfl

/-- The end of a command whose state so far is quiet. -/
theorem endsOnly_finish {s t : State} {id : Nat} {j : Job} (st r : Nat) (q : Quiet s t id j.ctx)
    (h : tabGet t.jobs id = some j) : EndsOnly s (finish t id st r) id j st r :=
  ⟨ends_finish st r h, q.trans (quiet_finish _ _ h)⟩

theorem EndsOnly.perf {s t : State} {id : Nat} {j : Job} {st r : Nat} (h : EndsOnly s t id j st r) (p : PerfS) :
    EndsOnly s { t with perf := p } id j st r :=
  ⟨(ends_congr rfl).2 h.ended, h.quiet.trans (quiet_perf _ _ _ _)⟩

theorem EndsWith.perf {s t : State} {id : Nat} {j : Job} {a st r : Nat} {bs : List Nat} (h : EndsWith s t id j a bs st r)
    (p : PerfS) : EndsWith s { t with perf := p } id j a bs st r :=
  ⟨(ends_congr rfl).2 h.ended, h.written, h.outside,
    h.beside.trans (quiet_perf t p id j.ctx).beside, h.holdings.trans (quiet_perf t p id j.ctx).holdings, h.indexes⟩

theorem EndsWith.quiet {s t u : State} {id : Nat} {j : Job} {a st r : Nat} {bs : List Nat} (h : EndsWith s t id j a bs st r)
    (q : Quiet t u id j.ctx) (e : ends u id st r) (w : u.mem.dev = t.mem.dev) (k : u.mem.comp = t.mem.comp) :
    EndsWith s u id j a bs st r :=
  ⟨e, by have g := h.written; unfold bytesAt at g ⊢; rw [w, k]; exact g, fun b f => (q.bytes b).trans (h.outside b f),
    h.beside.trans q.beside, h.holdings.trans q.holdings, q.indexes.trans h.indexes⟩

/-- A command's output written after quiet work, with quiet counting behind it: the command ends with it. -/
theorem endsWith_write {s t u : State} {id : Nat} {j : Job} {a st r : Nat} {bs : List Nat} (f : State → State)
    (hb : ∀ b ∈ bs, b < 256) (q : Quiet s t id j.ctx) (hu : UnitsOnly t u) (hj : tabGet t.jobs id = some j)
    (hf : ∀ x, Quiet x (f x) id j.ctx ∧ (f x).jobs = x.jobs ∧ (f x).mem.dev = x.mem.dev ∧ (f x).mem.comp = x.mem.comp) :
    EndsWith s (notePosted (finish (f (writeBytes u a bs)) id st r) id a bs.length) id j a bs st r := by
  obtain ⟨q1, q2, q3, q4⟩ := hf (writeBytes u a bs)
  have hj' : tabGet (f (writeBytes u a bs)).jobs id = some j := by
    rw [q2, jobs_writeBytes, jobs_units hu]; exact hj
  have q5 := (q1.trans (quiet_finish st r hj')).trans (quiet_notePosted _ id a bs.length id j.ctx)
  have d1 : (notePosted (finish (f (writeBytes u a bs)) id st r) id a bs.length).mem = (f (writeBytes u a bs)).mem := by
    unfold notePosted; split <;> simp
  refine ⟨?_, ?_, ?_, ?_, ?_, ?_⟩
  · exact (ends_congr (by simp)).2 (ends_finish st r hj')
  · have := bytesAt_writeBytes u a bs hb
    unfold bytesAt at this ⊢
    rw [d1, q3, q4]
    exact this
  · intro k hk
    rw [q5.bytes, byteAt_writeBytes _ _ _ hk, byteAt_units hu, q.bytes]
  · exact ((q.beside.trans (beside_units hu _ _)).trans (beside_writeBytes _ _ _ _ _)).trans q5.beside
  · exact ((q.holdings.trans (holdings_units hu)).trans (holdings_writeBytes _ _ _)).trans q5.holdings
  · rw [q5.indexes]
    obtain ⟨us, sg, o, po, h⟩ := writeBytes_eq u a bs
    rw [h.indexes]
    obtain ⟨v, rfl⟩ := hu
    exact q.indexes

/-- The same when the write is the command's own. -/
theorem endsWith_withWrite {s t u : State} {id : Nat} {j : Job} {a n st r : Nat} {bs : List Nat} (f : State → State)
    (hn : n = bs.length) (hb : ∀ b ∈ bs, b < 256) (q : Quiet s t id j.ctx) (hp : prepareWrite t a n = .ready u)
    (hj : tabGet t.jobs id = some j)
    (hf : ∀ x, Quiet x (f x) id j.ctx ∧ (f x).jobs = x.jobs ∧ (f x).mem.dev = x.mem.dev ∧ (f x).mem.comp = x.mem.comp) :
    EndsWith s (withWrite t id a n (fun x => finish (f (writeBytes x a bs)) id st r)) id j a bs st r := by
  subst hn
  unfold withWrite
  rw [hp]
  exact endsWith_write f hb q (prepareWrite_ready hp) hj hf

/-! ### The state after a command's step -/

/-- The body of a command has acted: nothing is counted for its context any more. -/
def unacted (s : State) : State := { s with perf := { s.perf with actor := none } }

@[simp] theorem unacted_start (s : State) : (unacted s).start = s.start := rfl
@[simp] theorem unacted_fatal (s : State) : (unacted s).fatal = s.fatal := rfl
@[simp] theorem unacted_alerts (s : State) : (unacted s).alerts = s.alerts := rfl
@[simp] theorem unacted_regs (s : State) : (unacted s).regs = s.regs := rfl
@[simp] theorem unacted_eeprom (s : State) : (unacted s).eeprom = s.eeprom := rfl
@[simp] theorem unacted_dict (s : State) : (unacted s).dict = s.dict := rfl
@[simp] theorem unacted_hem (s : State) : (unacted s).hem = s.hem := rfl
@[simp] theorem unacted_queues (s : State) : (unacted s).queues = s.queues := rfl
@[simp] theorem unacted_jobs (s : State) : (unacted s).jobs = s.jobs := rfl
@[simp] theorem unacted_jobNext (s : State) : (unacted s).jobNext = s.jobNext := rfl
@[simp] theorem unacted_ctxs (s : State) : (unacted s).ctxs = s.ctxs := rfl
@[simp] theorem unacted_models (s : State) : (unacted s).models = s.models := rfl
@[simp] theorem unacted_vocabs (s : State) : (unacted s).vocabs = s.vocabs := rfl
@[simp] theorem unacted_indexes (s : State) : (unacted s).indexes = s.indexes := rfl
@[simp] theorem unacted_copies (s : State) : (unacted s).copies = s.copies := rfl
@[simp] theorem unacted_queries (s : State) : (unacted s).queries = s.queries := rfl
@[simp] theorem unacted_spans (s : State) : (unacted s).spans = s.spans := rfl
@[simp] theorem unacted_belt (s : State) : (unacted s).belt = s.belt := rfl
@[simp] theorem unacted_kv (s : State) : (unacted s).kv = s.kv := rfl
@[simp] theorem unacted_gens (s : State) : (unacted s).gens = s.gens := rfl
@[simp] theorem unacted_grammars (s : State) : (unacted s).grammars = s.grammars := rfl
@[simp] theorem unacted_pocket (s : State) : (unacted s).pocket = s.pocket := rfl
@[simp] theorem unacted_acc (s : State) : (unacted s).acc = s.acc := rfl
@[simp] theorem unacted_array (s : State) : (unacted s).array = s.array := rfl
@[simp] theorem unacted_mem (s : State) : (unacted s).mem = s.mem := rfl
@[simp] theorem unacted_aedup (s : State) : (unacted s).aedup = s.aedup := rfl
@[simp] theorem unacted_pelgan (s : State) : (unacted s).pelgan = s.pelgan := rfl
@[simp] theorem unacted_chip (s : State) : (unacted s).chip = s.chip := rfl
@[simp] theorem unacted_sec (s : State) : (unacted s).sec = s.sec := rfl
@[simp] theorem unacted_power (s : State) : (unacted s).power = s.power := rfl
@[simp] theorem unacted_test (s : State) : (unacted s).test = s.test := rfl
@[simp] theorem unacted_log (s : State) : (unacted s).log = s.log := rfl
@[simp] theorem unacted_out (s : State) : (unacted s).out = s.out := rfl

theorem reg_unacted (s : State) (k : Nat) : reg (unacted s) k = reg s k := rfl
theorem ctxOf_unacted (s : State) (c : Nat) : ctxOf (unacted s) c = ctxOf s c := rfl
theorem byteAt_unacted (s : State) (a : Nat) : byteAt (unacted s) a = byteAt s a := rfl

theorem quiet_unacted (s : State) (id c : Nat) : Quiet s (unacted s) id c := quiet_perf _ _ _ _

theorem EndsOnly.unacted {s t : State} {id : Nat} {j : Job} {st r : Nat} (h : EndsOnly s t id j st r) :
    EndsOnly s (Machine.unacted t) id j st r := h.perf _

theorem EndsWith.unacted {s t : State} {id : Nat} {j : Job} {a st r : Nat} {bs : List Nat} (h : EndsWith s t id j a bs st r) :
    EndsWith s (Machine.unacted t) id j a bs st r := h.perf _

/-- What a running command leaves is what its body leaves. -/
theorem runJob_next {s : State} {id op : Nat} {src : State → Job → List (Nat × Nat)} {j : Job}
    {body : State → Nat → Job → State} {X : State} (h : runsNow s id op src j = true) (e : body (acting s j) id j = X) :
    (Host.Outcome.next (runJob s id op src body) : Host.Outcome State Fault Refusal) = .next (unacted X) :=
  runJob_body h e

theorem runsNow_acting {s : State} {id op : Nat} {src : State → Job → List (Nat × Nat)} {j : Job}
    (h : runsNow s id op src j = true) : tabGet (acting s j).jobs id = some j := runsNow_job (s := s) h

theorem beside_stores (s : State) (ix cp : Tab Index) (m : MemS) (id c : Nat) :
    Beside s { s with indexes := ix, copies := cp, mem := m } id c := by
  constructor <;> first | rfl | exact fun _ _ => rfl

theorem holdings_stores (s : State) (ix cp : Tab Index) (m : MemS) :
    HoldingsKept s { s with indexes := ix, copies := cp, mem := m } := by constructor <;> rfl

theorem beside_end {s t : State} {id : Nat} {j : Job} {st r : Nat} (h : Beside s t id j.ctx) (hj : tabGet t.jobs id = some j) :
    Beside s (unacted (finish t id st r)) id j.ctx :=
  (h.trans (beside_finish _ _ hj)).trans (quiet_unacted _ _ _).beside

theorem holdings_end {s t : State} {id st r : Nat} (h : HoldingsKept s t) : HoldingsKept s (unacted (finish t id st r)) :=
  (h.trans (holdings_finish _ _ _ _)).trans (quiet_unacted _ 0 0).holdings

theorem ends_end {t : State} {id : Nat} {j : Job} (st r : Nat) (hj : tabGet t.jobs id = some j) :
    ends (unacted (finish t id st r)) id st r := (ends_congr rfl).2 (ends_finish _ _ hj)

/-- A running command whose body changes nothing leaves the state as it was. -/
theorem runJob_idle {s : State} {id op : Nat} {src : State → Job → List (Nat × Nat)} {j : Job}
    {body : State → Nat → Job → State} (h : runsNow s id op src j = true) (ha : s.perf.actor = none)
    (e : body (acting s j) id j = acting s j) :
    (Host.Outcome.next (runJob s id op src body) : Host.Outcome State Fault Refusal) = .next s := by
  have k : ({ s with perf := { s.perf with actor := none } } : State) = s := by rw [← ha]
  rw [runJob_next h e]
  exact congrArg Host.Outcome.next k

/-! ### Memory written, and counting with it -/

/-- The second state has another memory, and differs otherwise by what has been sent and counted alone. -/
def Stored (s t : State) : Prop := Side { s with mem := t.mem } t

theorem Stored.refl (s : State) : Stored s s := Side.refl s

theorem side_withMem {s t : State} (m : MemS) (h : Side s t) : Side { s with mem := m } { t with mem := m } := by
  refine ⟨h.pending, h.start, h.fatal, h.alerts, h.eeprom, h.dict, h.hem, h.queues, h.jobs, h.jobNext, h.ctxs, h.models,
    h.vocabs, h.indexes, h.copies, h.queries, h.spans, h.belt, h.kv, h.gens, h.grammars, h.pocket, h.acc, h.array, rfl, h.aedup,
    h.pelgan, h.chip, h.sec, h.power, h.test, h.log, h.actor, h.shadows, h.out, h.linkState, h.regs⟩

theorem Stored.trans {s t u : State} (h : Stored s t) (k : Stored t u) : Stored s u :=
  (side_withMem u.mem h).trans k

theorem stored_of_side {s t : State} (h : Side s t) : Stored s t := by unfold Stored; rw [h.mem]; exact h

theorem stored_mem (s : State) (m : MemS) : Stored s { s with mem := m } := Side.refl _

theorem stored_units {s t : State} (h : UnitsOnly s t) : Stored s t := by
  obtain ⟨u, rfl⟩ := h; exact stored_mem _ _

theorem stored_touchRange (s : State) (a n : Nat) : Stored s (touchRange s a n) := by
  obtain ⟨us, h⟩ := touchRange_eq s a n
  exact (stored_mem s _).trans (stored_of_side h)

theorem stored_writeBytes (s : State) (a : Nat) (bs : List Nat) : Stored s (writeBytes s a bs) := by
  obtain ⟨us, st, o, po, h⟩ := writeBytes_eq s a bs
  exact (stored_mem s _).trans (stored_of_side h)

theorem stored_foldl {α : Type} (f : State → α → State) (l : List α) (s : State) (h : ∀ t a, Stored t (f t a)) :
    Stored s (l.foldl f s) := by
  induction l generalizing s with
  | nil => exact .refl _
  | cons a l ih => exact (h s a).trans (ih _)

theorem stored_writeAll (s : State) (ws : List (Nat × List Nat)) : Stored s (writeAll s ws) :=
  stored_foldl _ _ _ (fun _ _ => stored_writeBytes _ _ _)

theorem stored_writeRecords (s : State) (ws : List (Nat × List Nat)) : Stored s (writeRecords s ws) :=
  (stored_mem s _).trans (stored_writeAll _ _)

theorem byteAt_writeRecords (s : State) (ws : List (Nat × List Nat)) {a : Nat} (h : ∀ w ∈ ws, a < w.1 ∨ w.1 + w.2.length ≤ a)
    (k : ∀ w ∈ ws, w.1 % stripeBytes = 0 → a < w.1 ∨ w.1 + stripeBytes ≤ a) : byteAt (writeRecords s ws) a = byteAt s a := by
  refine (byteAt_writeAll _ ws a h).trans ?_
  have : ∀ (l : List (Nat × List Nat)) (m : Mem), (∀ w ∈ l, a < w.1 ∨ w.1 + stripeBytes ≤ a) →
      memByte (l.foldl (fun m w => memClear m w.1 stripeBytes) m) a = memByte m a := by
    intro l
    induction l with
    | nil => intros; rfl
    | cons w l ih =>
      intro m hp
      rw [List.foldl_cons, ih _ (fun q e => hp q (List.mem_cons_of_mem _ e)), memByte_memClear, if_neg]
      have := hp w (List.mem_cons_self ..)
      omega
  unfold byteAt
  dsimp only
  split
  · rfl
  · exact this _ _ (fun w hw => by
      rw [List.mem_filter] at hw
      exact k w hw.1 (by simpa using hw.2))

theorem beside_stored {s t : State} (h : Stored s t) (id c : Nat) : Beside s t id c :=
  (beside_mem s t.mem id c).trans (beside_of_side h _ _)

theorem holdings_stored {s t : State} (h : Stored s t) : HoldingsKept s t :=
  (holdings_mem s t.mem).trans (holdings_of_side h)

/-! ### Reads that change no byte -/

theorem natAt_congr {s t : State} (h : t.mem.dev = s.mem.dev) (k : t.mem.comp = s.mem.comp) : natAt t = natAt s := by
  funext a n; unfold natAt bytesAt; rw [h, k]

theorem rankLists_congr {s t : State} (h : natAt t = natAt s) : rankLists t = rankLists s := by
  funext d q; unfold rankLists; rw [h]

theorem listItems_congr {s t : State} (h : t.mem.channels = s.mem.channels) : listItems t = listItems s := by
  have : segmentsOf t = segmentsOf s := by
    funext d l e; unfold segmentsOf chan; rw [h]
  funext x l; unfold listItems; rw [this]

theorem touchRange_frame (s : State) (a n : Nat) : (touchRange s a n).mem.dev = s.mem.dev ∧ (touchRange s a n).mem.comp = s.mem.comp ∧
    (touchRange s a n).mem.channels = s.mem.channels ∧ (touchRange s a n).queries = s.queries ∧
    (touchRange s a n).jobs = s.jobs ∧ (touchRange s a n).indexes = s.indexes := by
  obtain ⟨us, e⟩ := touchRange_eq s a n
  exact ⟨by rw [e.mem], by rw [e.mem], by rw [e.mem], e.queries, e.jobs, e.indexes⟩

theorem quiet_queries (s : State) (q : Tab Query) (id c : Nat) : Quiet s { s with queries := q } id c :=
  ⟨fun _ => rfl, by constructor <;> first | rfl | exact fun _ _ => rfl, by constructor <;> rfl, rfl⟩

theorem quiet_updCtx (s : State) (id c : Nat) (f : Ctx → Ctx) : Quiet s (updCtx s c f) id c :=
  ⟨fun _ => rfl, beside_setCtx _ _ _ _, holdings_setCtx _ _ _, rfl⟩

theorem quiet_foldl {α : Type} (f : State → α → State) (l : List α) (s : State) (id c : Nat)
    (h : ∀ t a, Quiet t (f t a) id c) : Quiet s (l.foldl f s) id c := by
  induction l generalizing s with
  | nil => exact .refl _ _ _
  | cons a l ih => exact (h s a).trans (ih _)

theorem quiet_countStrays (s : State) (x : Ctx) (lb row rows id c : Nat) : Quiet s (countStrays s x lb portBelt row rows) id c := by
  refine quiet_foldl _ _ _ _ _ (fun t i => ?_)
  unfold countStray
  split
  · dsimp only
    split
    · exact (quiet_bump _ _ _ _ _ (by decide)).trans (quiet_of_side (side_countBlock _ _ _ _ _) _ _)
    · exact quiet_bump _ _ _ _ _ (by decide)
  · exact .refl _ _ _

theorem countStrays_frame (s : State) (x : Ctx) (lb row rows : Nat) : (countStrays s x lb portBelt row rows).mem = s.mem ∧
    (countStrays s x lb portBelt row rows).jobs = s.jobs ∧ (countStrays s x lb portBelt row rows).queries = s.queries := by
  unfold countStrays
  generalize List.range rows = l
  induction l generalizing s with
  | nil => exact ⟨rfl, rfl, rfl⟩
  | cons a l ih =>
    obtain ⟨a1, a2, a3⟩ := ih (countStray s x lb portBelt (row + a))
    have : (countStray s x lb portBelt (row + a)).mem = s.mem ∧ (countStray s x lb portBelt (row + a)).jobs = s.jobs ∧
        (countStray s x lb portBelt (row + a)).queries = s.queries := by
      unfold countStray
      split
      · dsimp only
        split
        · next b _ =>
          have h := side_countBlock (bump s (Key.POCKET_STRAYS portBelt) 1) b 0x108 1 { addr := (row + a) * 256, vblock := lb }
          exact ⟨h.mem, h.jobs, h.queries⟩
        · exact ⟨rfl, rfl, rfl⟩
      · exact ⟨rfl, rfl, rfl⟩
    exact ⟨a1.trans this.1, a2.trans this.2.1, a3.trans this.2.2⟩

end Sys2Proof.Machine
end

