-- ==== Sys2Proof/Laws/Rows.lean ====
section
/-! SUPPORT. The rows of the entry tables that statements about writes name. -/

namespace Sys2Proof.Machine

/-- Entries that writes name, with their rows. -/
def namedRows : List (Nat × EntryRow) :=
  [(Key.HEM_CALENDAR_COMMIT, row1 0x2000 6 .u8 1 .wbPriv 0),
   (Key.HEM_BEAT_PERIOD, row1 0x2000 3 .u32 4 .wbPriv 0x989680),
   (Key.HEM_BEAT_SOURCE, row1 0x2000 2 .u8 1 .wbPriv 1),
   (Key.QUEUE_ENABLE, row1 0x2100 3 .u16 2 .rwPriv 0xffff),
   (Key.QUEUE_DISABLE, row1 0x2100 4 .u16 2 .rwPriv 0xffff),
   (Key.QUEUE_TABLE_BASE, row1 0x2100 1 .u64 8 .rwPriv 0),
   (Key.QUEUE_TABLE_ENTRIES, row1 0x2100 2 .u16 2 .rwPriv 0),
   (Key.MEM_SWAP_BYTES, row1 0x2900 1 .u64 8 .wo1Priv 0x10000000000),
   (Key.BELT_HOT_CACHE_ENABLE, rowM 0x2E00 1 .u8 1 .rwPriv 1 .replace),
   (Key.DICT_CONFIG_DONE, row1 0x2F00 1 .u8 1 .rwPriv 0),
   (Key.AEDUP_RETRAIN_REQUEST, row1 0x1201 7 .u8 1 .priv 0),
   (Key.PELGAN_CTX_JOB, row1 0x1213 0 .domain 8192 .wbPriv (2^65536 - 1)),
   (Key.PERF_EXPORT, row1 0x3301 0 .domain 32768 .wbPriv 0),
   (Key.POWER_REQUEST, row1 0x3000 3 .u8 1 .rwPriv 0),
   (Key.POWER_REGION_REQUEST, row1 0x3000 4 .u8 1 .rwPriv 0),
   (Key.TEST_SHUTDOWN_RUN, row1 0x3200 3 .u8 1 .priv 0),
   (Key.DIAG_BLOCK_RETURN, row1 0xF010 1 .u16 2 .priv 0xffff),
   (Key.DIAG_FLASH_FORMAT, row1 0xF020 1 .u8 1 .priv 0),
   (Key.DIAG_RESET, row1 0xF030 1 .u8 1 .priv 0),
   (Key.DIAG_REGION_RESET, row1 0xF030 2 .u8 1 .priv 255),
   (Key.SEC_KEY_LOAD, row1 0x3400 1 .domain 80 .priv 0),
   (Key.SEC_KEY_CLEAR, row1 0x3400 2 .u8 1 .priv 0),
   (Key.SEC_LINK_SLOT, row1 0x3400 4 .domain 97 .rwPriv (2^776 - 1)),
   (Key.SEC_ATTEST_NONCE, row1 0x3400 5 .domain 48 .rw 0),
   (Key.WARDROBE_BAND_ROWS, row1 0x2500 1 .u16 2 .wo1Priv 2048),
   (Key.STORE_STAGING_LIMIT, rowM 0x2200 1 .u64 8 .rwPriv 0x200000000 .replace),
   (Key.STORE_BACKGROUND_FLUSH, rowM 0x2200 2 .u8 1 .rwPriv 1 .replace),
   (Key.CTX_STARVE_BEATS, rowM 0x2300 5 .u16 2 .rwPriv 64 .max),
   (Key.POCKET_DEFAULT_GROUP_MAP, rowM 0x2800 1 .u32 4 .rwPriv 0xffa55000 .replace),
   (Key.MEM_MOVE_BOUND, rowM 0x2900 2 .u32 4 .rwPriv 2000 .max),
   (Key.MEM_PROMOTE, rowM 0x2900 3 .u8 1 .rwPriv 1 .replace),
   (Key.HBM_SCRUB_HOURS, rowM 0x2A00 1 .u16 2 .rwPriv 24 .replace),
   (Key.FLASH_EXT_MODE, rowE 0x2B00 1 .u8 1 .rwPriv 0),
   (Key.FLASH_WRITE_AGE, rowM 0x2B00 5 .u32 4 .rwPriv 2000 .min),
   (Key.FLASH_THROTTLE, rowM 0x2B00 6 .u8 1 .rwPriv 0 .max),
   (Key.SEARCH_COMPACT_EXTENTS, rowM 0x2D00 1 .u8 1 .rwPriv 8 .replace),
   (Key.RESET_DRAIN_US, row1 0x3100 1 .u32 4 .rwPriv 600),
   (Key.TEST_INOP_ENABLE, row1 0x3200 1 .u8 1 .rwPriv 1),
   (Key.TEST_PER_REGION, row1 0x3200 2 .u8 1 .rwPriv 1),
   (Key.AEDUP_PROTECT, row1 0x1201 5 .u8 1 .rwPriv 0),
   (Key.AEDUP_MIN_WIDTH, row1 0x1201 6 .u8 1 .rwPriv 4),
   (Key.PELGAN_GROUP_ID, rowE 0x1211 8 .u32 4 .rwPriv 0),
   (Key.MGMT_NOTIFY, rowM 0x1220 5 .u32 4 .rwPriv 1 .or),
   (Key.ARRAY_RAMP_STEP, rowM 0x2600 2 .u16 2 .wbPriv 64 .max),
   (Key.FORMAT_SCALE_RULE, rowM 0x2700 1 .u8 1 .wbPriv 0 .replace),
   (Key.FORMAT_ROUNDING, rowM 0x2700 2 .u8 1 .wbPriv 0 .replace),
   (Key.FORMAT_SHADOW_SHIFT, rowM 0x2700 3 .u8 1 .wbPriv 6 .min),
   (Key.FORMAT_FALLBACK_ENABLE, rowM 0x2700 4 .u8 1 .wbPriv 1 .replace),
   (Key.COLLAR_SLEW_LIMIT, row1 0x3000 1 .u16 2 .wbPriv 250),
   (Key.COLLAR_CURRENT_LIMIT, row1 0x3000 2 .u16 2 .wbPriv 1350),
   (Key.PERF_FREEZE, row1 0x3300 1 .u8 1 .wbPriv 0),
   (Key.OVERLAY_ACTIVE, row1 0x6F00 1 .u8 1 .wbPriv 0)]

theorem namedRows_ok : ∀ i : Fin 52, rowOf (namedRows[i]).1 = some (namedRows[i]).2 := by decide +kernel

theorem row_HEM_CALENDAR_COMMIT :
    rowOf Key.HEM_CALENDAR_COMMIT = some (row1 0x2000 6 .u8 1 .wbPriv 0) :=
  namedRows_ok 0
theorem row_HEM_BEAT_PERIOD :
    rowOf Key.HEM_BEAT_PERIOD = some (row1 0x2000 3 .u32 4 .wbPriv 0x989680) :=
  namedRows_ok 1
theorem row_HEM_BEAT_SOURCE : rowOf Key.HEM_BEAT_SOURCE = some (row1 0x2000 2 .u8 1 .wbPriv 1) := namedRows_ok 2
theorem row_QUEUE_ENABLE : rowOf Key.QUEUE_ENABLE = some (row1 0x2100 3 .u16 2 .rwPriv 0xffff) := namedRows_ok 3
theorem row_QUEUE_DISABLE : rowOf Key.QUEUE_DISABLE = some (row1 0x2100 4 .u16 2 .rwPriv 0xffff) := namedRows_ok 4
theorem row_QUEUE_TABLE_BASE : rowOf Key.QUEUE_TABLE_BASE = some (row1 0x2100 1 .u64 8 .rwPriv 0) := namedRows_ok 5
theorem row_QUEUE_TABLE_ENTRIES :
    rowOf Key.QUEUE_TABLE_ENTRIES = some (row1 0x2100 2 .u16 2 .rwPriv 0) :=
  namedRows_ok 6
theorem row_MEM_SWAP_BYTES :
    rowOf Key.MEM_SWAP_BYTES = some (row1 0x2900 1 .u64 8 .wo1Priv 0x10000000000) :=
  namedRows_ok 7
theorem row_BELT_HOT_CACHE_ENABLE :
    rowOf Key.BELT_HOT_CACHE_ENABLE = some (rowM 0x2E00 1 .u8 1 .rwPriv 1 .replace) :=
  namedRows_ok 8
theorem row_DICT_CONFIG_DONE : rowOf Key.DICT_CONFIG_DONE = some (row1 0x2F00 1 .u8 1 .rwPriv 0) := namedRows_ok 9
theorem row_AEDUP_RETRAIN_REQUEST :
    rowOf Key.AEDUP_RETRAIN_REQUEST = some (row1 0x1201 7 .u8 1 .priv 0) :=
  namedRows_ok 10
theorem row_PELGAN_CTX_JOB :
    rowOf Key.PELGAN_CTX_JOB = some (row1 0x1213 0 .domain 8192 .wbPriv (2^65536 - 1)) :=
  namedRows_ok 11
theorem row_PERF_EXPORT : rowOf Key.PERF_EXPORT = some (row1 0x3301 0 .domain 32768 .wbPriv 0) := namedRows_ok 12
theorem row_POWER_REQUEST : rowOf Key.POWER_REQUEST = some (row1 0x3000 3 .u8 1 .rwPriv 0) := namedRows_ok 13
theorem row_POWER_REGION_REQUEST :
    rowOf Key.POWER_REGION_REQUEST = some (row1 0x3000 4 .u8 1 .rwPriv 0) :=
  namedRows_ok 14
theorem row_TEST_SHUTDOWN_RUN : rowOf Key.TEST_SHUTDOWN_RUN = some (row1 0x3200 3 .u8 1 .priv 0) := namedRows_ok 15
theorem row_DIAG_BLOCK_RETURN :
    rowOf Key.DIAG_BLOCK_RETURN = some (row1 0xF010 1 .u16 2 .priv 0xffff) :=
  namedRows_ok 16
theorem row_DIAG_FLASH_FORMAT : rowOf Key.DIAG_FLASH_FORMAT = some (row1 0xF020 1 .u8 1 .priv 0) := namedRows_ok 17
theorem row_DIAG_RESET : rowOf Key.DIAG_RESET = some (row1 0xF030 1 .u8 1 .priv 0) := namedRows_ok 18
theorem row_DIAG_REGION_RESET : rowOf Key.DIAG_REGION_RESET = some (row1 0xF030 2 .u8 1 .priv 255) := namedRows_ok 19
theorem row_SEC_KEY_LOAD : rowOf Key.SEC_KEY_LOAD = some (row1 0x3400 1 .domain 80 .priv 0) := namedRows_ok 20
theorem row_SEC_KEY_CLEAR : rowOf Key.SEC_KEY_CLEAR = some (row1 0x3400 2 .u8 1 .priv 0) := namedRows_ok 21
theorem row_SEC_LINK_SLOT :
    rowOf Key.SEC_LINK_SLOT = some (row1 0x3400 4 .domain 97 .rwPriv (2^776 - 1)) :=
  namedRows_ok 22
theorem row_SEC_ATTEST_NONCE : rowOf Key.SEC_ATTEST_NONCE = some (row1 0x3400 5 .domain 48 .rw 0) := namedRows_ok 23
theorem row_WARDROBE_BAND_ROWS :
    rowOf Key.WARDROBE_BAND_ROWS = some (row1 0x2500 1 .u16 2 .wo1Priv 2048) :=
  namedRows_ok 24
theorem row_STORE_STAGING_LIMIT :
    rowOf Key.STORE_STAGING_LIMIT = some (rowM 0x2200 1 .u64 8 .rwPriv 0x200000000 .replace) :=
  namedRows_ok 25
theorem row_STORE_BACKGROUND_FLUSH :
    rowOf Key.STORE_BACKGROUND_FLUSH = some (rowM 0x2200 2 .u8 1 .rwPriv 1 .replace) :=
  namedRows_ok 26
theorem row_CTX_STARVE_BEATS :
    rowOf Key.CTX_STARVE_BEATS = some (rowM 0x2300 5 .u16 2 .rwPriv 64 .max) :=
  namedRows_ok 27
theorem row_POCKET_DEFAULT_GROUP_MAP :
    rowOf Key.POCKET_DEFAULT_GROUP_MAP = some (rowM 0x2800 1 .u32 4 .rwPriv 0xffa55000 .replace) :=
  namedRows_ok 28
theorem row_MEM_MOVE_BOUND :
    rowOf Key.MEM_MOVE_BOUND = some (rowM 0x2900 2 .u32 4 .rwPriv 2000 .max) :=
  namedRows_ok 29
theorem row_MEM_PROMOTE : rowOf Key.MEM_PROMOTE = some (rowM 0x2900 3 .u8 1 .rwPriv 1 .replace) := namedRows_ok 30
theorem row_HBM_SCRUB_HOURS :
    rowOf Key.HBM_SCRUB_HOURS = some (rowM 0x2A00 1 .u16 2 .rwPriv 24 .replace) :=
  namedRows_ok 31
theorem row_FLASH_EXT_MODE : rowOf Key.FLASH_EXT_MODE = some (rowE 0x2B00 1 .u8 1 .rwPriv 0) := namedRows_ok 32
theorem row_FLASH_WRITE_AGE :
    rowOf Key.FLASH_WRITE_AGE = some (rowM 0x2B00 5 .u32 4 .rwPriv 2000 .min) :=
  namedRows_ok 33
theorem row_FLASH_THROTTLE : rowOf Key.FLASH_THROTTLE = some (rowM 0x2B00 6 .u8 1 .rwPriv 0 .max) := namedRows_ok 34
theorem row_SEARCH_COMPACT_EXTENTS :
    rowOf Key.SEARCH_COMPACT_EXTENTS = some (rowM 0x2D00 1 .u8 1 .rwPriv 8 .replace) :=
  namedRows_ok 35
theorem row_RESET_DRAIN_US : rowOf Key.RESET_DRAIN_US = some (row1 0x3100 1 .u32 4 .rwPriv 600) := namedRows_ok 36
theorem row_TEST_INOP_ENABLE : rowOf Key.TEST_INOP_ENABLE = some (row1 0x3200 1 .u8 1 .rwPriv 1) := namedRows_ok 37
theorem row_TEST_PER_REGION : rowOf Key.TEST_PER_REGION = some (row1 0x3200 2 .u8 1 .rwPriv 1) := namedRows_ok 38
theorem row_AEDUP_PROTECT : rowOf Key.AEDUP_PROTECT = some (row1 0x1201 5 .u8 1 .rwPriv 0) := namedRows_ok 39
theorem row_AEDUP_MIN_WIDTH : rowOf Key.AEDUP_MIN_WIDTH = some (row1 0x1201 6 .u8 1 .rwPriv 4) := namedRows_ok 40
theorem row_PELGAN_GROUP_ID : rowOf Key.PELGAN_GROUP_ID = some (rowE 0x1211 8 .u32 4 .rwPriv 0) := namedRows_ok 41
theorem row_MGMT_NOTIFY : rowOf Key.MGMT_NOTIFY = some (rowM 0x1220 5 .u32 4 .rwPriv 1 .or) := namedRows_ok 42
theorem row_ARRAY_RAMP_STEP :
    rowOf Key.ARRAY_RAMP_STEP = some (rowM 0x2600 2 .u16 2 .wbPriv 64 .max) :=
  namedRows_ok 43
theorem row_FORMAT_SCALE_RULE :
    rowOf Key.FORMAT_SCALE_RULE = some (rowM 0x2700 1 .u8 1 .wbPriv 0 .replace) :=
  namedRows_ok 44
theorem row_FORMAT_ROUNDING :
    rowOf Key.FORMAT_ROUNDING = some (rowM 0x2700 2 .u8 1 .wbPriv 0 .replace) :=
  namedRows_ok 45
theorem row_FORMAT_SHADOW_SHIFT :
    rowOf Key.FORMAT_SHADOW_SHIFT = some (rowM 0x2700 3 .u8 1 .wbPriv 6 .min) :=
  namedRows_ok 46
theorem row_FORMAT_FALLBACK_ENABLE :
    rowOf Key.FORMAT_FALLBACK_ENABLE = some (rowM 0x2700 4 .u8 1 .wbPriv 1 .replace) :=
  namedRows_ok 47
theorem row_COLLAR_SLEW_LIMIT :
    rowOf Key.COLLAR_SLEW_LIMIT = some (row1 0x3000 1 .u16 2 .wbPriv 250) :=
  namedRows_ok 48
theorem row_COLLAR_CURRENT_LIMIT :
    rowOf Key.COLLAR_CURRENT_LIMIT = some (row1 0x3000 2 .u16 2 .wbPriv 1350) :=
  namedRows_ok 49
theorem row_PERF_FREEZE : rowOf Key.PERF_FREEZE = some (row1 0x3300 1 .u8 1 .wbPriv 0) := namedRows_ok 50
theorem row_OVERLAY_ACTIVE : rowOf Key.OVERLAY_ACTIVE = some (row1 0x6F00 1 .u8 1 .wbPriv 0) := namedRows_ok 51

theorem row_PELGAN_JOB : ∀ j : Fin 255, rowOf (Key.PELGAN_JOB j) = some (rowN 0x1212 0 254 .domain 528 .wbPriv 1) := by
  decide +kernel

theorem row_PERF_SAMPLE_RELEASE :
    ∀ j : Fin 5, rowOf (Key.PERF_SAMPLE_RELEASE j) = some (rowN 0x3300 4 8 .u64 8 .rwPriv 0) := by
  decide +kernel

end Sys2Proof.Machine
end

