-- ==== Sys2Proof/WellFormed.lean ====
section
/-! DEFINITION. Well-formed commands: operands within the widths that the rules give the numbers that an event carries.
The meanings are total and do not rest on it. -/

namespace Sys2Proof

/-- A number of at most `n` bits. -/
def width (n v : Nat) : Bool := v < 2 ^ n

/-- A number below `n`. -/
def below (n v : Nat) : Bool := v < n

/-- A link of the device: Pelgan has 96. -/
def linkOk : LinkId → Bool
  | .aedup => true
  | .pelgan p => below 96 p

/-- A command's operands lie within their ranges. -/
def wellFormed : Instr → Bool
  | .powerOn => true
  | .eepromRead _ => true
  | .eepromReadRetry => true
  | .longTestLimitCheck vinMv => width 16 vinMv
  | .longTestEnd failedBlocks pelganLanes aedupLanes failedChecks =>
      failedBlocks.all (below 1200) && pelganLanes.all (below 192) && aedupLanes.all (below 16) &&
      width 64 failedChecks
  | .hbmTrain stack rate => below 12 stack && width 32 rate
  | .flashChannelTrain channel rates luns blocks stripes bad _ =>
      below 64 channel && width 8 rates && width 16 luns && width 16 blocks && width 32 stripes && width 32 bad
  | .flashTierRebuild _ => true
  | .trainEnd => true
  | .dictConfigDone _ value => width 64 value
  | .coldRstN => true
  | .warmRstN => true
  | .diagResetWarm _ => true
  | .diagResetCold _ => true
  | .pwrFailNFall => true
  | .pwrFailNRise => true
  | .powerError row => below 32 row
  | .thermalRead hottest => width 16 hottest
  | .aclkStep => true
  | .aclkChangeEnd => true
  | .idleRequest block => below 1200 block
  | .idleGrant block elapsedNs => below 1200 block && width 64 elapsedNs
  | .collarAdmission block waitNs elapsedNs => below 1200 block && width 64 waitNs && width 64 elapsedNs
  | .rampEnd block => below 1200 block
  | .regionWakeStage region => below 4 region
  | .powerRequestActive _ => true
  | .powerRequestIdle _ => true
  | .powerRequestDeepSleep _ => true
  | .powerRegionRequest _ value => width 64 value
  | .powerStateReached => true
  | .beatBoundary _ late => late.all (below 4096)
  | .beatInEdge sinceBoundary sinceEdge late => width 64 sinceBoundary && width 64 sinceEdge && late.all (below 4096)
  | .holdoverBoundary late => late.all (below 4096)
  | .beatFlitSend => true
  | .beatFlit port beat period remaining formation =>
      below 96 port && width 64 beat && width 32 period && width 40 remaining && width 16 formation
  | .maskReady => true
  | .sample => true
  | .tokenCommit => true
  | .veilMaskFetchDone job state _ => width 64 job && width 32 state
  | .planSeal => true
  | .counterSnapshot => true
  | .preemptWindow entry => below 64 entry
  | .selftestWindow entry => below 64 entry
  | .sliceStart region remainingNs vinMv => below 4 region && width 64 remainingNs && width 16 vinMv
  | .slicePartEnd block _ => below 1200 block
  | .sliceLimitCheck block vinMv => below 1200 block && width 16 vinMv
  | .diagBlockReturn _ value => width 64 value
  | .testShutdownRun _ value vinMv => width 64 value && width 16 vinMv
  | .shutdownTestProgress failedBlocks pelganLanes aedupLanes notRun failedChecks =>
      failedBlocks.all (below 1200) && pelganLanes.all (below 192) && aedupLanes.all (below 16) &&
      notRun.all (below 96) && width 64 failedChecks
  | .tapBypass => true
  | .tapIdcode => true
  | .tapSamplePreload => true
  | .tapRefusedInstruction => true
  | .testEnter => true
  | .submissionDoorbell queue value => below 1024 queue && width 64 value
  | .completionDoorbell queue value => below 1024 queue && width 64 value
  | .queueTableFetch queue => below 1024 queue
  | .commandAdmission region => below 4 region
  | .commandCompletion job => width 64 job
  | .queueEnable _ value => width 64 value
  | .queueDisable _ value => width 64 value
  | .nop job => width 64 job
  | .cancel job => width 64 job
  | .writePassages job => width 64 job
  | .writeVectors job => width 64 job
  | .writeSketches job => width 64 job
  | .delete job => width 64 job
  | .publish job _ => width 64 job
  | .flush job => width 64 job
  | .trim job => width 64 job
  | .ctxAlloc job => width 64 job
  | .ctxFree job => width 64 job
  | .ctxModify job => width 64 job
  | .ctxPreempt job => width 64 job
  | .ctxSave job => width 64 job
  | .ctxRestore job => width 64 job
  | .ctxBuffer job => width 64 job
  | .wardrobeRegister job => width 64 job
  | .wardrobeRelease job => width 64 job
  | .ctxQuery job => width 64 job
  | .wardrobeLoad model => below 1024 model
  | .cloakSaveDone ctx _ => below 4096 ctx
  | .cloakRestoreDone ctx _ => below 4096 ctx
  | .npBoundExceeded ctx => below 4096 ctx
  | .arrayRun job => width 64 job
  | .sequencerNop job stream => width 64 job && width 16 stream
  | .matmul job stream _ => width 64 job && width 16 stream
  | .drain job stream _ => width 64 job && width 16 stream
  | .accLoad job stream _ => width 64 job && width 16 stream
  | .barrier job stream => width 64 job && width 16 stream
  | .endStream job stream => width 64 job && width 16 stream
  | .channelWindowClaim job stream => width 64 job && width 16 stream
  | .remoteWindowClaim job stream => width 64 job && width 16 stream
  | .windowTimeout job stream waited => width 64 job && width 16 stream && width 64 waited
  | .pocketRemoteAccess ctx block row byte words _ data =>
      below 4096 ctx && below 1200 block && below 16384 row && below 256 byte && width 8 words && width 2048 data
  | .pocketFill job => width 64 job
  | .pocketCopy job uncorrectable => width 64 job && uncorrectable.all (width 64)
  | .pocketConfig job => width 64 job
  | .objRegister job => width 64 job
  | .objRelease job => width 64 job
  | .objSetPolicy job => width 64 job
  | .objQuery job => width 64 job
  | .moveSwitch unit => width 64 unit
  | .moveAbandon unit => width 64 unit
  | .backgroundFlush channel => below 64 channel
  | .stripeProgramComplete stripe _ => width 64 stripe
  | .flashReadComplete job addr level bits => width 64 job && width 64 addr && below 4 level && width 16 bits
  | .garbageCollection channel lun => below 64 channel && width 16 lun
  | .wearLevelling channel lun => below 64 channel && width 16 lun
  | .flashPatrol stripe level bits => width 64 stripe && below 4 level && width 16 bits
  | .zqCalibration channel => below 64 channel
  | .dqCheck channel _ => below 64 channel
  | .flashBusyTimeout channel => below 64 channel
  | .channelReset channel rates => below 64 channel && width 8 rates
  | .hbmPatrolScrub line errors => width 48 line && width 8 errors
  | .hbmTemperatureRead stack temp => below 12 stack && width 16 temp
  | .stackControllerReset stack rate => below 12 stack && width 32 rate
  | .laceVocabLoad job => width 64 job
  | .laceVocabUnload job => width 64 job
  | .laceEncode job => width 64 job
  | .laceDecode job => width 64 job
  | .indexCreate job => width 64 job
  | .indexDrop job => width 64 job
  | .indexStatus job => width 64 job
  | .search job => width 64 job
  | .rerank job => width 64 job
  | .recallProbe job => width 64 job
  | .cuffPass cuff => below 64 cuff
  | .compaction index list => below 256 index && below 4194304 list
  | .topk job => width 64 job
  | .merge job => width 64 job
  | .beltTableCreate job => width 64 job
  | .beltTableReplace job => width 64 job
  | .beltTableDrop job => width 64 job
  | .beltGather job => width 64 job
  | .beltHotCacheEnable _ value => width 64 value
  | .crossRerank job => width 64 job
  | .pack job => width 64 job
  | .genRun job => width 64 job
  | .kvRelease job => width 64 job
  | .samplerSeed job => width 64 job
  | .randFill job => width 64 job
  | .veilLoad job => width 64 job
  | .veilUnload job => width 64 job
  | .teardownDrainEnd ctx => below 4096 ctx
  | .drainTimeout ctx writes _ inst => below 4096 ctx && width 32 writes && width 16 inst
  | .contextWatchdog ctx => below 4096 ctx
  | .progressMonitor _ inst job => width 16 inst && width 64 job
  | .regionReset region _ => below 4 region
  | .diagRegionReset _ value => width 64 value
  | .regionResetTimeout region => below 4 region
  | .aedupReadTimeout tag => width 16 tag
  | .linkTrainRetry link => linkOk link
  | .linkTrainingStateEnd link lanesLow lanesHigh latency =>
      linkOk link && width 16 lanesLow && width 16 lanesHigh && width 16 latency
  | .linkStateTimeout link => linkOk link
  | .capabilityResend link => linkOk link
  | .aedupCapability capability => width 128 capability
  | .pelganCapability port capability => below 96 port && width 256 capability
  | .flitReceive link corrected _ _ header messages =>
      linkOk link && width 16 corrected && width 128 header && messages.all (width 128)
  | .nak link ack => linkOk link && width 10 ack
  | .ackStall link => linkOk link
  | .linkRetrainEnd link lanesLow lanesHigh => linkOk link && width 16 lanesLow && width 16 lanesHigh
  | .aedupRetrainRequest _ value => width 64 value
  | .dataNc tag _ data => width 16 tag && width 1024 data
  | .dataErr tag => width 16 tag
  | .snpInv addr => width 64 addr
  | .mmioRd tag offset words => width 16 tag && width 64 offset && width 8 words
  | .mmioWr offset words value => width 64 offset && width 8 words && width 64 value
  | .mailboxTrigger number => width 32 number
  | .registerWrite _ key offset length value =>
      width 24 key && width 64 offset && width 16 length && width 131072 value
  | .hemCalendarCommit _ value => width 64 value
  | .hemBeatPeriod _ value => width 64 value
  | .hemBeatSource _ value => width 64 value
  | .diagFlashFormat _ value => width 64 value
  | .secKeyLoad _ value => width 640 value
  | .secKeyClear _ value => width 64 value
  | .secAttestNonce _ value => width 384 value
  | .perfSampleRelease _ buffer value => below 5 buffer && width 64 value
  | .skidSample event inst count => width 16 event && width 16 inst && width 32 count
  | .pelganJobWrite _ job value => below 255 job && width 4224 value
  | .pelganCtxJob _ ctx job => below 4096 ctx && width 16 job
  | .hello port capability priority serial =>
      below 96 port && width 256 capability && width 8 priority && width 64 serial
  | .managerDeclare serials cables latency =>
      serials.all (width 64) && cables.all (fun c => width 16 c.1 && below 96 c.2.1 && width 16 c.2.2.1 &&
      below 96 c.2.2.2) && width 16 latency
  | .assign port device formation manager members children =>
      below 96 port && width 12 device && width 16 formation && width 64 manager && width 16 members &&
      children.all (below 96)
  | .routes routes => routes.all (fun r => width 16 r.1 && width 16 r.2.1 && width 16 r.2.2)
  | .jobSet job entry due => below 255 job && width 4224 entry && width 64 due
  | .messageForward port header => below 96 port && width 128 header
  | .rmtRd source job gen tag descriptor =>
      width 16 source && below 255 job && width 8 gen && width 16 tag && width 128 descriptor
  | .rmtWr source job gen tag descriptor data =>
      width 16 source && below 255 job && width 8 gen && width 16 tag && width 128 descriptor && width 1024 data
  | .rmtRsp tag status data => width 16 tag && width 16 status && width 1024 data
  | .rtErr tag dest hop => width 16 tag && width 16 dest && width 16 hop
  | .remoteTimeout tag => width 16 tag
  | .zipList source job gen issuer tag status entries _ =>
      width 16 source && below 255 job && width 8 gen && width 16 issuer && width 16 tag && width 16 status &&
      entries.all (fun h => width 64 h.1 && width 64 h.2.1 && width 64 h.2.2)
  | .spanStart source job gen tag entry epoch round query =>
      width 16 source && below 255 job && width 8 gen && width 16 tag && width 512 entry && width 32 epoch &&
      width 16 round && width 67584 query
  | .dictReq source tag fields offset data =>
      width 16 source && width 16 tag && width 64 fields && width 64 offset && width 8192 data
  | .dictRsp tag status rlength data => width 16 tag && width 16 status && width 16 rlength && width 8192 data
  | .abortFlit port flit => below 96 port && width 128 flit
  | .abortRepeat => true
  | .mgmtDatagram source _ size header data =>
      width 128 source && width 16 size && width 128 header && width 11520 data
  | .blockEraseComplete channel lun block _ => below 64 channel && width 16 lun && width 16 block
  | .vddAonAbsent => true
  | .beatInEdgeAbsent => true
  | .quickPathEnd => true
  | .tapReset => true
  | .neighbourSolicitation => true

end Sys2Proof
end

