-- ==== Sys2Proof/Tests/Slice0.lean ====
section
/-! SUPPORT. Tests of the model: an ill-formed term for each operand check of WellFormed.lean, which the check refuses, and
for the statements of Certificates/Slice0/Obligations.lean that have hypotheses the states and operands that meet them,
clause by clause, with the bounds of their ranges.  Each theorem is about one command on a small state that the helpers
below build from the tables of spec/ that their docstrings name. -/

namespace Sys2Proof.Tests

open Sys2Proof.Machine

section

set_option Elab.async false

theorem test_reset_memWf : State.reset.memWf = true := by decide

/-! ### Ill-formed commands: one term for each check of `wellFormed`, which refuses it -/

theorem test_wellFormed_refuses_one : ([
    .longTestLimitCheck (2 ^ 16), .longTestEnd [] [] [] (2 ^ 64), .longTestEnd [1200] [] [] 0,
    .longTestEnd [] [192] [] 0, .longTestEnd [] [] [16] 0, .hbmTrain 0 (2 ^ 32), .hbmTrain 12 0,
    .flashChannelTrain 0 (2 ^ 8) 0 0 0 0 true, .flashChannelTrain 0 0 (2 ^ 16) 0 0 0 true,
    .flashChannelTrain 0 0 0 (2 ^ 16) 0 0 true, .flashChannelTrain 0 0 0 0 (2 ^ 32) 0 true,
    .flashChannelTrain 0 0 0 0 0 (2 ^ 32) true, .flashChannelTrain 64 0 0 0 0 0 true,
    .dictConfigDone .mailbox (2 ^ 64), .powerError 32, .thermalRead (2 ^ 16), .idleRequest 1200,
    .idleGrant 0 (2 ^ 64), .idleGrant 1200 0, .collarAdmission 0 (2 ^ 64) 0, .collarAdmission 0 0 (2 ^ 64),
    .collarAdmission 1200 0 0, .rampEnd 1200, .regionWakeStage 4, .powerRegionRequest .mailbox (2 ^ 64),
    .beatBoundary 0 [4096], .beatInEdge (2 ^ 64) 0 [], .beatInEdge 0 (2 ^ 64) [], .beatInEdge 0 0 [4096],
    .holdoverBoundary [4096], .beatFlit 0 (2 ^ 64) 0 0 0, .beatFlit 0 0 (2 ^ 32) 0 0, .beatFlit 0 0 0 (2 ^ 40) 0,
    .beatFlit 0 0 0 0 (2 ^ 16), .beatFlit 96 0 0 0 0, .veilMaskFetchDone (2 ^ 64) 0 true,
    .veilMaskFetchDone 0 (2 ^ 32) true, .preemptWindow 64, .selftestWindow 64, .sliceStart 0 (2 ^ 64) 0] : List Instr).all
      (fun i => !wellFormed i) = true := by decide +kernel

theorem test_wellFormed_refuses_two : ([
    .sliceStart 0 0 (2 ^ 16), .sliceStart 4 0 0, .slicePartEnd 1200 true, .sliceLimitCheck 0 (2 ^ 16),
    .sliceLimitCheck 1200 0, .diagBlockReturn .mailbox (2 ^ 64), .testShutdownRun .mailbox (2 ^ 64) 0,
    .testShutdownRun .mailbox 0 (2 ^ 16), .shutdownTestProgress [] [] [] [] (2 ^ 64),
    .shutdownTestProgress [1200] [] [] [] 0, .shutdownTestProgress [] [192] [] [] 0,
    .shutdownTestProgress [] [] [16] [] 0, .shutdownTestProgress [] [] [] [96] 0, .submissionDoorbell 0 (2 ^ 64),
    .submissionDoorbell 1024 0, .completionDoorbell 0 (2 ^ 64), .completionDoorbell 1024 0, .queueTableFetch 1024,
    .commandAdmission 4, .commandCompletion (2 ^ 64), .queueEnable .mailbox (2 ^ 64),
    .queueDisable .mailbox (2 ^ 64), .nop (2 ^ 64), .cancel (2 ^ 64), .writePassages (2 ^ 64),
    .writeVectors (2 ^ 64), .writeSketches (2 ^ 64), .delete (2 ^ 64), .publish (2 ^ 64) true, .flush (2 ^ 64),
    .trim (2 ^ 64), .ctxAlloc (2 ^ 64), .ctxFree (2 ^ 64), .ctxModify (2 ^ 64), .ctxPreempt (2 ^ 64),
    .ctxSave (2 ^ 64), .ctxRestore (2 ^ 64), .ctxBuffer (2 ^ 64), .wardrobeRegister (2 ^ 64),
    .wardrobeRelease (2 ^ 64)] : List Instr).all
      (fun i => !wellFormed i) = true := by decide +kernel

theorem test_wellFormed_refuses_three : ([
    .ctxQuery (2 ^ 64), .wardrobeLoad 1024, .cloakSaveDone 4096 true, .cloakRestoreDone 4096 true,
    .npBoundExceeded 4096, .arrayRun (2 ^ 64), .sequencerNop (2 ^ 64) 0, .sequencerNop 0 (2 ^ 16),
    .matmul (2 ^ 64) 0 .none, .matmul 0 (2 ^ 16) .none, .drain (2 ^ 64) 0 .none, .drain 0 (2 ^ 16) .none,
    .accLoad (2 ^ 64) 0 .none, .accLoad 0 (2 ^ 16) .none, .barrier (2 ^ 64) 0, .barrier 0 (2 ^ 16),
    .endStream (2 ^ 64) 0, .endStream 0 (2 ^ 16), .channelWindowClaim (2 ^ 64) 0, .channelWindowClaim 0 (2 ^ 16),
    .remoteWindowClaim (2 ^ 64) 0, .remoteWindowClaim 0 (2 ^ 16), .windowTimeout (2 ^ 64) 0 0,
    .windowTimeout 0 (2 ^ 16) 0, .windowTimeout 0 0 (2 ^ 64), .pocketRemoteAccess 0 0 0 0 (2 ^ 8) true 0,
    .pocketRemoteAccess 0 0 0 0 0 true (2 ^ 2048), .pocketRemoteAccess 4096 0 0 0 0 true 0,
    .pocketRemoteAccess 0 1200 0 0 0 true 0, .pocketRemoteAccess 0 0 16384 0 0 true 0,
    .pocketRemoteAccess 0 0 0 256 0 true 0, .pocketFill (2 ^ 64), .pocketCopy (2 ^ 64) none,
    .pocketCopy 0 (some (2 ^ 64)), .pocketConfig (2 ^ 64), .objRegister (2 ^ 64), .objRelease (2 ^ 64),
    .objSetPolicy (2 ^ 64), .objQuery (2 ^ 64), .moveSwitch (2 ^ 64)] : List Instr).all
      (fun i => !wellFormed i) = true := by decide +kernel

theorem test_wellFormed_refuses_four : ([
    .moveAbandon (2 ^ 64), .backgroundFlush 64, .stripeProgramComplete (2 ^ 64) true,
    .flashReadComplete (2 ^ 64) 0 0 0, .flashReadComplete 0 (2 ^ 64) 0 0, .flashReadComplete 0 0 0 (2 ^ 16),
    .flashReadComplete 0 0 4 0, .garbageCollection 0 (2 ^ 16), .garbageCollection 64 0, .wearLevelling 0 (2 ^ 16),
    .wearLevelling 64 0, .flashPatrol (2 ^ 64) 0 0, .flashPatrol 0 0 (2 ^ 16), .flashPatrol 0 4 0,
    .zqCalibration 64, .dqCheck 64 true, .flashBusyTimeout 64, .channelReset 0 (2 ^ 8), .channelReset 64 0,
    .hbmPatrolScrub (2 ^ 48) 0, .hbmPatrolScrub 0 (2 ^ 8), .hbmTemperatureRead 0 (2 ^ 16), .hbmTemperatureRead 12 0,
    .stackControllerReset 0 (2 ^ 32), .stackControllerReset 12 0, .laceVocabLoad (2 ^ 64),
    .laceVocabUnload (2 ^ 64), .laceEncode (2 ^ 64), .laceDecode (2 ^ 64), .indexCreate (2 ^ 64),
    .indexDrop (2 ^ 64), .indexStatus (2 ^ 64), .search (2 ^ 64), .rerank (2 ^ 64), .recallProbe (2 ^ 64),
    .cuffPass 64, .compaction 256 0, .compaction 0 4194304, .topk (2 ^ 64), .merge (2 ^ 64)] : List Instr).all
      (fun i => !wellFormed i) = true := by decide +kernel

theorem test_wellFormed_refuses_five : ([
    .beltTableCreate (2 ^ 64), .beltTableReplace (2 ^ 64), .beltTableDrop (2 ^ 64), .beltGather (2 ^ 64),
    .beltHotCacheEnable .mailbox (2 ^ 64), .crossRerank (2 ^ 64), .pack (2 ^ 64), .genRun (2 ^ 64),
    .kvRelease (2 ^ 64), .samplerSeed (2 ^ 64), .randFill (2 ^ 64), .veilLoad (2 ^ 64), .veilUnload (2 ^ 64),
    .teardownDrainEnd 4096, .drainTimeout 0 (2 ^ 32) .hem 0, .drainTimeout 0 0 .hem (2 ^ 16),
    .drainTimeout 4096 0 .hem 0, .contextWatchdog 4096, .progressMonitor .hem (2 ^ 16) 0,
    .progressMonitor .hem 0 (2 ^ 64), .regionReset 4 true, .diagRegionReset .mailbox (2 ^ 64),
    .regionResetTimeout 4, .aedupReadTimeout (2 ^ 16), .linkTrainRetry (.pelgan 96),
    .linkTrainingStateEnd .aedup (2 ^ 16) 0 0, .linkTrainingStateEnd .aedup 0 (2 ^ 16) 0,
    .linkTrainingStateEnd .aedup 0 0 (2 ^ 16), .linkTrainingStateEnd (.pelgan 96) 0 0 0,
    .linkStateTimeout (.pelgan 96), .capabilityResend (.pelgan 96), .aedupCapability (2 ^ 128),
    .pelganCapability 0 (2 ^ 256), .pelganCapability 96 0, .flitReceive .aedup (2 ^ 16) true true 0 [],
    .flitReceive .aedup 0 true true (2 ^ 128) [], .flitReceive .aedup 0 true true 0 [2 ^ 128],
    .flitReceive (.pelgan 96) 0 true true 0 [], .nak .aedup (2 ^ 10), .nak (.pelgan 96) 0] : List Instr).all
      (fun i => !wellFormed i) = true := by decide +kernel

theorem test_wellFormed_refuses_six : ([
    .ackStall (.pelgan 96), .linkRetrainEnd .aedup (2 ^ 16) 0, .linkRetrainEnd .aedup 0 (2 ^ 16),
    .linkRetrainEnd (.pelgan 96) 0 0, .aedupRetrainRequest .mailbox (2 ^ 64), .dataNc (2 ^ 16) true 0,
    .dataNc 0 true (2 ^ 1024), .dataErr (2 ^ 16), .snpInv (2 ^ 64), .mmioRd (2 ^ 16) 0 0, .mmioRd 0 (2 ^ 64) 0,
    .mmioRd 0 0 (2 ^ 8), .mmioWr (2 ^ 64) 0 0, .mmioWr 0 (2 ^ 8) 0, .mmioWr 0 0 (2 ^ 64), .mailboxTrigger (2 ^ 32),
    .registerWrite .mailbox (2 ^ 24) 0 0 0, .registerWrite .mailbox 0 (2 ^ 64) 0 0,
    .registerWrite .mailbox 0 0 (2 ^ 16) 0, .registerWrite .mailbox 0 0 0 (2 ^ 131072),
    .hemCalendarCommit .mailbox (2 ^ 64), .hemBeatPeriod .mailbox (2 ^ 64), .hemBeatSource .mailbox (2 ^ 64),
    .diagFlashFormat .mailbox (2 ^ 64), .secKeyLoad .mailbox (2 ^ 640), .secKeyClear .mailbox (2 ^ 64),
    .secAttestNonce .mailbox (2 ^ 384), .perfSampleRelease .mailbox 0 (2 ^ 64), .perfSampleRelease .mailbox 5 0,
    .skidSample (2 ^ 16) 0 0, .skidSample 0 (2 ^ 16) 0, .skidSample 0 0 (2 ^ 32),
    .pelganJobWrite .mailbox 0 (2 ^ 4224), .pelganJobWrite .mailbox 255 0, .pelganCtxJob .mailbox 0 (2 ^ 16),
    .pelganCtxJob .mailbox 4096 0, .hello 0 (2 ^ 256) 0 0, .hello 0 0 (2 ^ 8) 0, .hello 0 0 0 (2 ^ 64),
    .hello 96 0 0 0] : List Instr).all
      (fun i => !wellFormed i) = true := by decide +kernel

theorem test_wellFormed_refuses_seven : ([
    .managerDeclare [] [] (2 ^ 16), .managerDeclare [2 ^ 64] [] 0, .managerDeclare [] [(2 ^ 16, 0, 0, 0)] 0,
    .managerDeclare [] [(0, 96, 0, 0)] 0, .managerDeclare [] [(0, 0, 2 ^ 16, 0)] 0,
    .managerDeclare [] [(0, 0, 0, 96)] 0, .assign 0 (2 ^ 12) 0 0 0 [], .assign 0 0 (2 ^ 16) 0 0 [],
    .assign 0 0 0 (2 ^ 64) 0 [], .assign 0 0 0 0 (2 ^ 16) [], .assign 96 0 0 0 0 [], .assign 0 0 0 0 0 [96],
    .routes [(2 ^ 16, 0, 0)], .routes [(0, 2 ^ 16, 0)], .routes [(0, 0, 2 ^ 16)], .jobSet 0 (2 ^ 4224) 0,
    .jobSet 0 0 (2 ^ 64), .jobSet 255 0 0, .messageForward 0 (2 ^ 128), .messageForward 96 0,
    .rmtRd (2 ^ 16) 0 0 0 0, .rmtRd 0 0 (2 ^ 8) 0 0, .rmtRd 0 0 0 (2 ^ 16) 0, .rmtRd 0 0 0 0 (2 ^ 128),
    .rmtRd 0 255 0 0 0, .rmtWr (2 ^ 16) 0 0 0 0 0, .rmtWr 0 0 (2 ^ 8) 0 0 0, .rmtWr 0 0 0 (2 ^ 16) 0 0,
    .rmtWr 0 0 0 0 (2 ^ 128) 0, .rmtWr 0 0 0 0 0 (2 ^ 1024), .rmtWr 0 255 0 0 0 0, .rmtRsp (2 ^ 16) 0 0,
    .rmtRsp 0 (2 ^ 16) 0, .rmtRsp 0 0 (2 ^ 1024), .rtErr (2 ^ 16) 0 0, .rtErr 0 (2 ^ 16) 0, .rtErr 0 0 (2 ^ 16),
    .remoteTimeout (2 ^ 16), .zipList (2 ^ 16) 0 0 0 0 0 [] true, .zipList 0 0 (2 ^ 8) 0 0 0 [] true] : List Instr).all
      (fun i => !wellFormed i) = true := by decide +kernel

theorem test_wellFormed_refuses_eight : ([
    .zipList 0 0 0 (2 ^ 16) 0 0 [] true, .zipList 0 0 0 0 (2 ^ 16) 0 [] true, .zipList 0 0 0 0 0 (2 ^ 16) [] true,
    .zipList 0 255 0 0 0 0 [] true, .zipList 0 0 0 0 0 0 [(2 ^ 64, 0, 0)] true,
    .zipList 0 0 0 0 0 0 [(0, 2 ^ 64, 0)] true, .zipList 0 0 0 0 0 0 [(0, 0, 2 ^ 64)] true,
    .spanStart (2 ^ 16) 0 0 0 0 0 0 0, .spanStart 0 0 (2 ^ 8) 0 0 0 0 0, .spanStart 0 0 0 (2 ^ 16) 0 0 0 0,
    .spanStart 0 0 0 0 (2 ^ 512) 0 0 0, .spanStart 0 0 0 0 0 (2 ^ 32) 0 0, .spanStart 0 0 0 0 0 0 (2 ^ 16) 0,
    .spanStart 0 0 0 0 0 0 0 (2 ^ 67584), .spanStart 0 255 0 0 0 0 0 0, .dictReq (2 ^ 16) 0 0 0 0,
    .dictReq 0 (2 ^ 16) 0 0 0, .dictReq 0 0 (2 ^ 64) 0 0, .dictReq 0 0 0 (2 ^ 64) 0, .dictReq 0 0 0 0 (2 ^ 8192),
    .dictRsp (2 ^ 16) 0 0 0, .dictRsp 0 (2 ^ 16) 0 0, .dictRsp 0 0 (2 ^ 16) 0, .dictRsp 0 0 0 (2 ^ 8192),
    .abortFlit 0 (2 ^ 128), .abortFlit 96 0, .mgmtDatagram (2 ^ 128) true 0 0 0, .mgmtDatagram 0 true (2 ^ 16) 0 0,
    .mgmtDatagram 0 true 0 (2 ^ 128) 0, .mgmtDatagram 0 true 0 0 (2 ^ 11520), .blockEraseComplete 0 (2 ^ 16) 0 true,
    .blockEraseComplete 0 0 (2 ^ 16) true, .blockEraseComplete 64 0 0 true] : List Instr).all
      (fun i => !wellFormed i) = true := by decide +kernel

/-! ### Small states: a READY device with its link, one command on it, and what the command works on -/

/-- A READY device with an ACTIVE Aedup link and credits on its channels. -/
def base : State :=
  { State.reset with
    start := .ready
    aedup := { State.reset.aedup with link := { State.reset.aedup.link with state := .active, credits := [16, 16, 16, 16] } } }

/-- The same before it is READY. -/
def early (st : StartState) : State := { base with start := st }

/-- O1, O4. A command waits in front of another, and the memories are canonical. -/
theorem witness_O1_O4 :
    { base with pending := [.nop 1, .nop 2] }.pending = .nop 1 :: [.nop 2] ∧ base.memWf = true ∧
    (tabKeys base.jobs).Pairwise (· < ·) ∧ (tabKeys base.pelgan.links).Pairwise (· < ·) := by decide +kernel

theorem witness_O8 :
    State.reset.start = .off ∧
    (let s := { early .powerGood with power := { base.power with reading := true } };
      s.start = .powerGood ∧ s.power.reading = true ∧ tabGet s.eeprom.kept Key.ID_SERIAL = none ∧
        tabGet s.eeprom.kept Key.CHIP_BLOCK_MAP = none) ∧
    (let s := early .powerGood; s.start = .powerGood ∧ s.power.reading = false ∧ s.power.waking = []) ∧
    (let s := setReg (early .identify) Key.POWER_LAST_START 1;
      s.start = .identify ∧ reg s Key.POWER_LAST_START = 1) ∧
    (let s := setReg (setReg (early .identify) Key.POWER_LAST_START 0) Key.POWER_ACLK_NOW 950000000;
      s.start = .identify ∧ reg s Key.POWER_LAST_START = 0 ∧ 950000000 ≤ reg s Key.POWER_ACLK_NOW ∧
        reg s Key.POWER_ACLK_NOW ≤ 1050000000 ∧ 1750 ≤ 1750 ∧ 1850 ≤ 1850) ∧
    (let s := { early .identify with test := { base.test with longRun := true } };
      s.start = .identify ∧ s.test.longRun = true ∧ bitOf 15 4 = false ∧ bitOf 15 5 = false ∧ bitOf 15 6 = false) ∧
    ((early .train).start = .train ∧ reg (early .train) Key.FLASH_EXT_MODE = 0) ∧
    (let s := { early .train with
        mem := { base.mem with hbmStacks := (List.range 12).map (fun k => (k, { trained := true })) } };
      s.start = .train ∧ ∀ k, k < 12 → (stackOf s k).trained = true) := by decide +kernel

theorem witness_O11 :
    (base.start ≠ .off ∧ powerFailing base = false ∧ base.power.aclkNext = none ∧
      600000000 < reg base Key.POWER_ACLK_NOW) ∧
    powerFailing { base with alerts := [.powerFail] } = true ∧
    (let s := setReg base Key.POWER_ACLK_NOW 1000000000;
      s.power.hot = false ∧ reg s Key.POWER_ACLK_NOW < 1050000000) ∧
    (let s := { base with power := { base.power with hot := true } };
      s.power.hot = true ∧ powerFailing s = false ∧ 600000000 < reg s Key.POWER_ACLK_NOW) ∧
    { base with power := { base.power with aclkNext := some 600000000 } }.power.aclkNext = some 600000000 := by
  decide +kernel

theorem witness_O12 :
    (let s := setBlock base 1199 .awake; tabGet s.power.blocks 1199 = some .awake) ∧
    (let s := setBlock base 0 .ramping; tabGet s.power.blocks 0 = some .ramping) ∧
    (let s := setBlock { base with power := { base.power with fall := 1000000 } } 0 .asking;
      tabGet s.power.blocks 0 = some .asking ∧ s.power.aclkNext = none ∧ blockStep s ≤ (refill s 0).power.fall) ∧
    (let s := { base with power := { base.power with rise := 1000000 }, hem := { base.hem with windows := [6] } };
      tabGet s.power.blocks 1199 = none ∧ regionAwake s (regionOfBlock 1199) = true ∧ testWindowOpen s = true ∧
        s.power.aclkNext = none ∧ blockStep s ≤ (refill s 0).power.rise ∧
        estimateMa s + blockStep s ≤ reg s Key.COLLAR_CURRENT_LIMIT * 1000) := by decide +kernel

theorem witness_O13 :
    (let s := { base with power := { base.power with entering := some .idle } };
      s.power.entering = some .idle ∧ s.power.leave = none ∧ s.power.waking = []) ∧
    (let s := { base with power := { base.power with entering := some .deepSleep } };
      s.power.entering = some .deepSleep ∧ s.power.leave = none ∧ s.power.waking = [] ∧
        ∀ p ∈ s.mem.units, p.2.move = none) ∧
    (let s := { base with power := { base.power with waking := [3, 1], stage := 7 } };
      s.power.waking.head? = some 3 ∧ s.power.stage = 7 ∧ s.chip.resetting = []) := by decide +kernel

theorem witness_O14 :
    (serviceFree base .mailbox = true ∧ privileged .mailbox = true ∧ base.start = .ready) ∧
    ((rowOf Key.MEM_PROMOTE).isSome = true ∧ Key.MEM_PROMOTE ∉ base.dict.locks ∧ inLimits Key.MEM_PROMOTE 1 = true) ∧
    ((rowOf Key.PERF_FREEZE).isSome = true ∧ Key.PERF_FREEZE ∉ base.dict.locks ∧ inLimits Key.PERF_FREEZE 1 = true) ∧
    (Key.WARDROBE_BAND_ROWS ∉ base.dict.locks ∧ (∀ q ∈ base.ctxs, q.2.used = false) ∧ 8192 % 16 = 0) ∧
    (let s := { base with dict := { base.dict with locks := [Key.WARDROBE_BAND_ROWS] } };
      serviceFree s .mailbox = true ∧ Key.WARDROBE_BAND_ROWS ∈ s.dict.locks) := by decide +kernel

theorem witness_O15 :
    (let s := setReg base Key.POWER_REGION_SLEEP_MAP 15;
      serviceFree s .mailbox = true ∧ s.power.entering = none ∧ Key.POWER_REQUEST ∉ s.dict.locks ∧
        bitOf (reg s Key.POWER_REGION_SLEEP_MAP) 3 = true) ∧
    (base.power.level = 0 ∧ base.power.entering = none ∧ base.power.waking = [] ∧ base.jobs = [] ∧
      (∀ c ∈ base.ctxs, c.2.quads = []) ∧ Key.POWER_REQUEST ∉ base.dict.locks) ∧
    (let s := { base with power := { base.power with waking := [0] } };
      serviceFree s .mailbox = true ∧ s.power.waking ≠ []) ∧
    (reg base Key.POWER_REGION_SLEEP_MAP = 0 ∧ Key.POWER_REGION_REQUEST ∉ base.dict.locks ∧
      ∀ r, r < 4 → bitOf 15 r = true → regionHeld base r = false ∧ servedIn base r = false) := by decide +kernel

theorem witness_O16 :
    (let s := early .configure;
      serviceFree s .mailbox = true ∧ privileged .mailbox = true ∧ Key.DICT_CONFIG_DONE ∉ s.dict.locks ∧
        reg s Key.FLASH_STATE ≤ 1) ∧
    Key.DIAG_RESET ∉ base.dict.locks ∧ Key.DIAG_REGION_RESET ∉ base.dict.locks ∧ 3 ∉ base.chip.resetting := by
  decide +kernel

theorem witness_O17 :
    (Key.HEM_CALENDAR_COMMIT ∉ base.dict.locks ∧ calendarValid (stagedCalendar base) (periodDue base) = true) ∧
    (let s := setReg base (Key.HEM_CALENDAR 63) 0x80FF000000001000;
      serviceFree s .mailbox = true ∧ calendarValid (stagedCalendar s) (periodDue s) = false) ∧
    (Key.HEM_BEAT_PERIOD ∉ base.dict.locks ∧ isWorker base = false ∧ calendarValid (calendarDue base) 1000000000 = true) ∧
    (let s := setReg base Key.HEM_ROLE 2; serviceFree s .mailbox = true ∧ isWorker s = true) ∧
    Key.HEM_BEAT_SOURCE ∉ base.dict.locks := by decide +kernel

/-- A queue with rings of 16 slots. -/
def ring : Queue where
  draining := false
  cached := true
  lastUse := 0
  vector := 0
  cqLog := 4
  sqLog := 4
  priority := 1
  client := 0
  sqBase := 0x10000
  cqBase := 0x20000
  sqHead := 0
  cqTail := 0
  cqWrap := 1
  sqTail := 0
  cqHead := 0
  unread := 0
  credit := 1

/-- A line of companion memory is at hand with some bytes. -/
def landed (s : State) (line : Nat) (bs : List Nat) : State :=
  { s with
    aedup := { s.aedup with landed := line :: s.aedup.landed }
    mem := { s.mem with comp := memWrite s.mem.comp line bs } }

/-- The table entry of queue 1: rings of 16 slots at companion addresses 0x10000 and 0x20000 (Table 3.1). -/
def tableBits : Nat := 0x20000 * 2 ^ 128 + 0x10000 * 2 ^ 64 + 4 * 2 ^ 32 + 4 * 2 ^ 24 + 1 * 2 ^ 16 + 1

/-- The queue table at companion address 0x1000, with the line of queues 0 and 1. -/
def tabled : State :=
  landed (setReg (setReg base Key.QUEUE_TABLE_ENTRIES 2) Key.QUEUE_TABLE_BASE 0x1000) 0x1000
    (leBytes 64 0 ++ leBytes 64 tableBits)

/-- A command of context 0 in queue 1, with its entry and its progress. -/
def cmd (opcode entry : Nat) (work : List Nat) : Job where
  queue := 1
  cmdId := 7
  ctx := 0
  opcode := opcode
  entry := entry
  client := 0
  intr := true
  start := 0
  genTag := 0
  pin := 0
  work := work

/-- Queue 1 is ENABLED. -/
def queued (q : Queue) : State := { tabled with queues := [(1, q)] }

theorem witness_O18 :
    (serviceFree tabled .mailbox = true ∧ 1 < reg tabled Key.QUEUE_TABLE_ENTRIES ∧ tabGet tabled.queues 1 = none ∧
      lineHeld tabled (tableLine tabled 1) = true ∧ tableCheck (tableEntry tabled 1) = Code.OK ∧
      (cachedQueues tabled).length < reg tabled Key.QUEUE_CACHE_ENTRIES) ∧
    reg tabled Key.QUEUE_TABLE_ENTRIES ≤ 65535 ∧
    (let s := { queued ring with jobs := [(1, cmd Op.NOP 0 [])] };
      serviceFree s .mailbox = true ∧ Key.QUEUE_DISABLE ∉ s.dict.locks ∧ tabGet s.queues 1 = some ring ∧
        ring.draining = false ∧ ∃ x ∈ s.jobs, x.2.queue = 1 ∧ x.2.lost = false) ∧
    (let s := queued ring;
      serviceFree s .mailbox = true ∧ tabGet s.queues 1 = some ring ∧ s.jobs = [] ∧ s.aedup.held = [] ∧
        s.aedup.link.state = .active) ∧
    tabGet (queued ring).queues 65535 = none ∧
    (tabGet (queued { ring with draining := true }).queues 1).map Queue.draining = some true := by decide +kernel

theorem witness_O19 :
    (let s := { base with chip := { base.chip with fenced := [1199] } };
      serviceFree s .mailbox = true ∧ Key.DIAG_BLOCK_RETURN ∉ s.dict.locks ∧ blockAvailable s 1199 = false ∧
        1199 ∉ s.chip.returns ∧ windowFits s = true) ∧
    blockAvailable base 0 = true ∧
    (Key.TEST_SHUTDOWN_RUN ∉ base.dict.locks ∧ base.jobs = [] ∧ (∀ c ∈ base.ctxs, c.2.quads = []) ∧
      950000000 ≤ reg base Key.POWER_ACLK_NOW ∧ reg base Key.POWER_ACLK_NOW ≤ 1050000000) ∧
    (let s := { base with jobs := [(1, cmd Op.NOP 0 [])] };
      serviceFree s .mailbox = true ∧ s.jobs ≠ [] ∧ Key.TEST_SHUTDOWN_RUN ∉ s.dict.locks) := by decide +kernel

theorem witness_O20 :
    (let v := 2 ^ 200 + 2 * 2 ^ 16 + 63 * 2 ^ 8 + 1;
      serviceFree base .mailbox = true ∧ Key.SEC_KEY_LOAD ∉ base.dict.locks ∧ v < 2 ^ 640 ∧ krVersion v = 1 ∧
        krKind v = 2 ∧ krSlot v = 63 ∧ krKey v < 2 ^ 256) ∧
    (let s := { setReg base Key.HEM_ROLE 2 with pelgan := { base.pelgan with links := [(0, { state := .active })] } };
      serviceFree s .dictReq = true ∧ s.start = .ready) ∧
    Key.SEC_KEY_CLEAR ∉ base.dict.locks ∧ Key.SEC_ATTEST_NONCE ∉ base.dict.locks ∧
    (let s := { setReg base Key.SEC_TIER_KEY_SOURCE 1 with sec := { base.sec with slots := [(0, ⟨1, 5⟩)] } };
      serviceFree s .mailbox = true ∧ Key.DIAG_FLASH_FORMAT ∉ s.dict.locks ∧ tierInUse s = false ∧
        reg s Key.SEC_TIER_KEY_SOURCE = 1 ∧ (tabGet s.sec.slots 0).isSome = true) ∧
    (let s := { base with mem := { base.mem with objects := [(0, ⟨unitBytes, 2, 0, false⟩)] } };
      serviceFree s .mailbox = true ∧ tierInUse s = true) := by decide +kernel

/-- The entry of a job of device 0 and device 1, of a state and a generation (Table 17.8). -/
def jobBits (state gen : Nat) : Nat := 3 * 2 ^ 128 + gen * 2 ^ 16 + state * 2 ^ 8 + 1

/-- No context is bound to a job while every bit of PELGAN.CTX_JOB is 1. -/
theorem unbound (s : State) (h : pendingValue s Key.PELGAN_CTX_JOB = 2 ^ 65536 - 1) (d : Nat) (hd : d < 4096) :
    field (pendingValue s Key.PELGAN_CTX_JOB) (16 * d) 16 ≠ 0 := by
  rw [h, show field (2 ^ 65536 - 1) (16 * d) 16 = 2 ^ 16 - 1 from ?_]
  · decide
  · apply Nat.eq_of_testBit_eq
    intro i
    simp only [field, Nat.testBit_mod_two_pow, Nat.testBit_div_two_pow, Nat.testBit_two_pow_sub_one]
    by_cases hi : i < 16
    · simp only [hi, decide_true, Bool.true_and, decide_eq_true_eq]; omega
    · simp [hi]

theorem witness_O21 :
    (let v := 2 ^ 4223 + 1;
      serviceFree base .mailbox = true ∧ Key.PELGAN_JOB 254 ∉ base.dict.locks ∧ v < 2 ^ 4224 ∧ field v 0 8 = 1 ∧
        isWorker base = false ∧ field v 128 4096 ≠ 0 ∧ jobState (jobEntry base 254) ≠ 1 ∧
        jobState (latestJob base 254) ≠ 1) ∧
    (let s := setReg base Key.HEM_ROLE 2; serviceFree s .mailbox = true ∧ isWorker s = true) ∧
    (let s := setReg (setReg base (Key.PELGAN_JOB 0) (jobBits 1 3)) Key.PELGAN_DEVICE 1;
      serviceFree s .mailbox = true ∧ field (2 ^ 4223 + 1) 128 4096 ≠ 0 ∧ jobState (jobEntry s 0) = 1 ∧
        jobMember (jobEntry s 0) (ownDevice s) = true ∧ pendingValue s Key.PELGAN_CTX_JOB = 2 ^ 65536 - 1) ∧
    (let s := setReg base (Key.PERF_SAMPLE_COUNT 4) 5;
      serviceFree s .mailbox = true ∧ Key.PERF_SAMPLE_RELEASE 4 ∉ s.dict.locks ∧
        reg s (Key.PERF_SAMPLE_RELEASE 4) ≤ 5 ∧ 5 ≤ reg s (Key.PERF_SAMPLE_COUNT 4)) ∧
    Key.BELT_HOT_CACHE_ENABLE ∉ base.dict.locks ∧ Key.PELGAN_CTX_JOB ∉ base.dict.locks ∧
    Key.AEDUP_RETRAIN_REQUEST ∉ base.dict.locks ∧ base.aedup.link.state = .active := by decide +kernel

theorem witness_O22 :
    (isWorker base = false ∧ reg base Key.HEM_STATE = 0) ∧
    (let s := { setReg base Key.HEM_ROLE 2 with hem := { base.hem with flit := some (5, 10000000) } };
      isWorker s = true ∧ s.hem.flit = some (5, 10000000)) ∧
    (let s := setReg (setReg base Key.HEM_STATE 1) Key.HEM_BEAT_SOURCE 0;
      isWorker s = false ∧ reg s Key.HEM_BEAT_SOURCE ≠ 1 ∧ reg s Key.HEM_STATE = 1 ∧
        1023 * reg s Key.HEM_BEAT_PERIOD ≤ 1024 * 9990235 ∧ 1024 * 10009765 ≤ 1025 * reg s Key.HEM_BEAT_PERIOD ∧
        1024 * 9990234 < 1023 * reg s Key.HEM_BEAT_PERIOD ∧ inputMissing s = true) ∧
    (let s := setReg base Key.HEM_BEAT_SOURCE 1; reg s Key.HEM_BEAT_SOURCE = 1 ∧ inputMissing s = false) := by
  decide +kernel

/-- A device of a group, with an ACTIVE link of it on port 0. -/
def grouped : State :=
  { setReg (setReg base Key.PELGAN_GROUP_ID 9) Key.PELGAN_DEVICE 1 with
    pelgan := { base.pelgan with links := [(0, { state := .active })], peerGroup := [(0, 9)] } }

theorem witness_O23 :
    (let s := { setReg base Key.HEM_BEAT_SOURCE 0 with hem := { base.hem with edgeSeen := true, goodEdges := 14 } };
      isWorker s = false ∧ reg s Key.HEM_BEAT_SOURCE ≠ 1 ∧ reg s Key.HEM_STATE = 0 ∧ s.hem.edgeSeen = true ∧
        nearPeriod s 10009765 = true ∧ nearPeriod s 10009766 = false ∧ s.hem.goodEdges < 15) ∧
    (let s := setReg grouped Key.HEM_ROLE 1;
      s.start ≠ .off ∧ reg s Key.HEM_ROLE = 1 ∧ s.hem.announced = false ∧ groupLinks s = [0]) ∧
    (let s := setReg grouped Key.HEM_ROLE 2;
      isWorker s = true ∧ groupLink s 0 = true ∧ 1000000 + linkLatencyPs s 0 ≤ 1000000 ∧ groupLink s 1 = false) := by
  decide +kernel

/-- A generation request of context 0, with its sampling block and its stage. -/
def request (desc block : Nat) (stage : GenStage) : GenReq where
  ctx := 0
  desc := desc
  block := block
  main := 0
  draftIf := 0
  stops := []
  prompt := [5]
  first := 0
  stage := stage

/-- Context 0 runs on quad 0, blocks 0 to 3. -/
def placed : Ctx where
  state := .running
  used := true
  partition := 1
  quads := [0]

/-- Context 0 runs a command of number 1. -/
def at1 (j : Job) : State := { base with jobs := [(1, j)], jobNext := 2, ctxs := [(0, placed)] }

/-- The same with events of the beat that have fired and a generation request. -/
def sampling (fired : List Nat) (g : GenReq) : State :=
  { at1 (cmd Op.GEN_RUN 0 [2]) with gens := [(1, g)], hem := { base.hem with fired := fired } }

/-- The first event of the beat that has not fired. -/
def first (s : State) : Option (Nat × Nat × Nat) := (unfired s).head?

/-- The device with events of the beat that have fired. -/
def fired (l : List Nat) : State := { base with hem := { base.hem with fired := l } }

theorem witness_O24_events :
    (base.start ≠ .off ∧ first base = some (0x9000, 5, 1)) ∧ first (fired [1]) = some (0x9400, 6, 2) ∧
    first (fired [1, 2]) = some (0xA000, 7, 3) ∧ first (fired [1, 2, 3]) = some (0xE000, 8, 4) ∧
    first (fired [1, 2, 3, 4]) = some (0xF000, 2, 5) := by decide +kernel

theorem witness_O24_steps :
    (let g := request 0 (2 ^ 9) .ready; let s := sampling [] g;
      first s = some (0x9000, 5, 1) ∧ running s = true ∧ liveGens s = [(1, g)] ∧ sbGrammarEn g.block = true ∧
        stepDue s g = true ∧ (ctxOf s g.ctx).state = .running) ∧
    (let g := request 0 0 .ready; let s := sampling [1] g;
      first s = some (0x9400, 6, 2) ∧ liveGens s = [(1, g)] ∧ stepDue s g = true ∧ g.stage = .ready ∧
        sbGrammarEn g.block = false) ∧
    (let g := request 0 0 .verify; let s := sampling [1] g;
      first s = some (0x9400, 6, 2) ∧ running s = true ∧ liveGens s = [(1, g)] ∧ stepDue s g = true ∧ g.stage ≠ .ready) ∧
    (let g := { request 0 0 .sampled with emitted := [5] }; let s := sampling [1, 2] g;
      first s = some (0xA000, 7, 3) ∧ running s = true ∧ liveGens s = [(1, g)] ∧ g.stage = .sampled) := by decide +kernel

theorem witness_O24_windows :
    windowTime base 6 4 = true ∧
    (let s := { base with
        hem := { base.hem with calendar := [0x8001000000000000, 0x8003700000001000] }
        ctxs := [(0, { placed with preempt := true })] };
      windowTime s 1 3 = true ∧ running s = true ∧ s.queries = [] ∧ s.gens = []) := by decide +kernel

theorem witness_O25 :
    (let s := { base with
        hem := { base.hem with windows := [6] }, power := { base.power with blocks := [(0, .awake)] } };
      running s = true ∧ regionAwake s 0 = true ∧ testWindowOpen s = true ∧ slicesIn s 0 < reg s Key.TEST_PER_REGION ∧
        nextSlice s 0 = some 0 ∧ arrayAwake s 0 = true ∧ limitsMet (readVin s 1750) = true ∧
        limitsMet (readVin s 1749) = false ∧ slicePs s ≤ 2 ^ 40 * 1000) ∧
    (let s := { base with test := { base.test with slices := [(0, ⟨1, false, false⟩), (1, ⟨3, true, false⟩), (2, ⟨4, true, false⟩)] } };
      tabGet s.test.slices 0 = some ⟨1, false, false⟩ ∧ tabGet s.test.slices 1 = some ⟨3, true, false⟩ ∧
        tabGet s.test.slices 2 = some ⟨4, true, false⟩ ∧ blockAvailable s 0 = true) := by decide +kernel

theorem witness_O26 :
    (let s := { base with test := { base.test with shutdown := 1 } }; s.test.shutdown = 1 ∧ s.mem.staged = []) ∧
    (let s := { base with test := { base.test with shutdown := 2 } }; s.test.shutdown = 2 ∧ s.power.waking = []) ∧
    (base.chip.fenced = [] ∧ base.chip.passed = [] ∧ base.test.shutdown = 0) := by decide +kernel

theorem witness_O27_O28 :
    reg base Key.TEST_TEST_MODE ≠ 1 ∧ base.start ≠ .off ∧ State.reset.start = .off ∧
    reg (setReg base Key.TEST_TEST_MODE 1) Key.TEST_TEST_MODE = 1 := by decide +kernel

theorem witness_O29 :
    (let s := queued ring;
      s.aedup.link.state = .active ∧ tabGet s.queues 1 = some ring ∧ ring.draining = false ∧ 15 < 2 ^ ring.sqLog ∧
        15 ≠ ring.sqTail) ∧
    (let q := { ring with unread := 3 };
      tabGet (queued q).queues 1 = some q ∧ 3 < 2 ^ q.cqLog ∧ 3 ≠ q.cqHead ∧
        (3 + 2 ^ q.cqLog - q.cqHead) % 2 ^ q.cqLog ≤ q.unread) ∧
    (let s := queued ring;
      (tabGet s.queues 1023).all (fun q => q.draining || 2 ^ q.sqLog ≤ 0) = true ∧
      (tabGet s.queues 1).all (fun q => q.draining || 2 ^ q.sqLog ≤ 16) = true ∧
      (tabGet s.queues 1).all (fun q => q.draining || 2 ^ q.cqLog ≤ 1 ||
        (1 != q.cqHead && q.unread < (1 + 2 ^ q.cqLog - q.cqHead) % 2 ^ q.cqLog)) = true) ∧
    (let q := { ring with cached := false, wanted := true }; let s := queued q;
      tabGet s.queues 1 = some q ∧ lineHeld s (tableLine s 1) = true ∧
        (cachedQueues s).length < reg s Key.QUEUE_CACHE_ENTRIES) := by decide +kernel

/-- The entry of a command of context 0: its opcode and its PARAMS (Table 3.2). -/
def entryOf (opcode params : Nat) : Nat := params + 7 * 2 ^ 16 + 2 ^ 8 + opcode

/-- Queue 1 has one entry waiting, with its line at hand. -/
def waitingEntry (e : Nat) : State :=
  landed { queued { ring with sqTail := 1 } with ctxs := [(0, placed)] } 0x10000 (leBytes 64 e)

theorem witness_O30 :
    (let q := { ring with sqTail := 1 }; let s := waitingEntry (entryOf Op.NOP 0);
      admits s 1 = true ∧ q.client < 256 ∧
      (readyQueues (wantHeads s 1) 1).find? (fun p => p.2.credit != 0) = some (1, q) ∧
      (cacheCtx (bump { useLine (wantHeads s 1) (headLine q) with
          queues := tabSet (wantHeads s 1).queues 1 { q with
            sqHead := (q.sqHead + 1) % 2 ^ q.sqLog, lastUse := s.jobNext, credit := q.credit - 1 } }
        (Key.CLIENT_SUBMITTED q.client) 1) (entCtx (headEntry s q)) s.jobNext).isSome = true ∧
      (∀ p ∈ s.queues, p.1 = 1 → p.2.draining = false) ∧ slotsFull s = false ∧
      admissionCheck (wantHeads s 1) (headEntry s q) = none) ∧
    admissionCheck (wantHeads (waitingEntry 0xFF) 1) (headEntry (waitingEntry 0xFF) ring) ≠ none := by decide +kernel

theorem witness_O31 :
    running State.reset = false ∧ (3 : Nat) ∈ { base with chip := { base.chip with closed := [3] } }.chip.closed ∧
    waitingQueues (queued ring) 1 = [] := by decide +kernel

theorem witness_O32 :
    (let j := { cmd Op.NOP 0 [] with phase := .done Code.OK 0 }; let s := { queued ring with jobs := [(1, j)] };
      tabGet s.jobs 1 = some j ∧ j.phase = .done Code.OK 0 ∧ j.lost = false ∧ tabGet s.gens 1 = none ∧
        tabGet s.queues j.queue = some ring ∧ (∀ p ∈ s.queues, p.1 = j.queue → p.2.draining = false) ∧
        s.aedup.link.state = .active ∧ s.aedup.held = []) ∧
    (let j := { cmd Op.NOP 0 [] with phase := .done Code.OK 0, lost := true }; let s := { base with jobs := [(1, j)] };
      tabGet s.jobs 1 = some j ∧ j.lost = true ∧ j.client < 256 ∧ tabGet s.gens 1 = none ∧
        s.aedup.link.state ≠ .retrain) := by decide +kernel

theorem witness_O33 :
    (let j := cmd Op.NOP 0 []; runsNow (at1 j) 1 Op.NOP noSources j = true) ∧
    (let x := cmd Op.TOPK 0 []; let j := { cmd Op.CANCEL (1 * 2 ^ 80 + 7 * 2 ^ 64) [] with cmdId := 8 };
      let s := { at1 x with jobs := [(1, x), (2, j)] };
      tabGet s.jobs 2 = some j ∧ running s = true ∧ openJob j = true ∧ j.queue % 4 ∉ s.chip.closed ∧
        ctxAllows (ctxOf s j.ctx) j = true ∧
        cancelTarget s 2 (param j.entry 95 80) (param j.entry 79 64) = some (1, x) ∧ uncancellable s x = false ∧
        x.cancel = none) ∧
    (let j := { cmd Op.CANCEL (9 * 2 ^ 80 + 7 * 2 ^ 64) [] with cmdId := 8 };
      (cancelTarget (at1 j) 1 (param j.entry 95 80) (param j.entry 79 64)).all (fun p => uncancellable (at1 j) p.2) = true) :=
  by decide +kernel

/-- A state with some bytes of device memory. -/
def filled (s : State) (a : Nat) (bs : List Nat) : State :=
  { s with mem := { s.mem with dev := memWrite s.mem.dev a bs } }

/-- The write can go ahead at once. -/
def isReady : WritePrep → Bool
  | .ready _ => true
  | _ => false

theorem isReady_iff (p : WritePrep) : isReady p = true ↔ ∃ u, p = .ready u := by cases p <;> simp [isReady]

/-- An index of 64 passages and 2 lists, of 32 BF16 dimensions and sketches of 256 bits (Table 10.2). -/
def indexBits : Nat :=
  0x400000 * 2 ^ 960 + 0x800000 * 2 ^ 896 + 0xC00000 * 2 ^ 832 + 0x1000000 * 2 ^ 768 + 0x1200000 * 2 ^ 704 +
    64 * 2 ^ 664 + 2 * 2 ^ 608 + 1024 * 2 ^ 576 + 4 * 2 ^ 544 + 32 * 2 ^ 48 + 11 * 2 ^ 36 + 1

/-- Its passages 8 LIVE and 9 PENDING. -/
def index : Index where
  desc := indexBits
  current := 3
  passages := [(8, .live), (9, .pending)]
  texts := [(9, (512, 16))]
  vectors := [9]
  touched := true

/-- Command 1 of context 0, with index 2 open and its areas registered. -/
def indexed (x : Index) (j : Job) : State :=
  { setReg (at1 j) Key.FLASH_CHANNEL_UP (2 ^ 64 - 1) with
    indexes := [(2, x)]
    mem := { base.mem with objects := [(0x400000, ⟨0x400000, 2, 0, false⟩), (0x800000, ⟨0x400000, 2, 0, false⟩),
      (0xC00000, ⟨0x400000, 2, 0, false⟩), (0x1000000, ⟨0x200000, 0, 0, false⟩), (0x1200000, ⟨0x200000, 0, 0, false⟩)] } }

/-- The entry of a storage command: its source, COUNT, LENGTH, FIRST and LIST, on index 2 (Table 3.6). -/
def storage (addr count length first list : Nat) : Nat :=
  addr * 2 ^ 448 + count * 2 ^ 416 + length * 2 ^ 384 + first * 2 ^ 344 + list * 2 ^ 320 + 2 * 2 ^ 304

/-- A passage record of two tokens (Table 10.5). -/
def record : List Nat := leBytes 8 (2 * 2 ^ 8 + 1) ++ leBytes 4 5 ++ leBytes 4 6

theorem witness_O34_passages :
    (let j := cmd Op.WRITE_PASSAGES (storage 0x4000 1 16 10 0) []; let s := filled (indexed index j) 0x4000 record;
      runsNow s 1 Op.WRITE_PASSAGES writePassagesSources j = true ∧ tabGet s.indexes (stIndex j.entry) = some index ∧
        publishAhead s (stIndex j.entry) 1 = false ∧ (stPassages j.entry).any (passageClosed index) = false ∧
        readBad s (stAddr j.entry) (stLength j.entry) = false ∧
        passageRecords (stCount j.entry) (bytesAt s (stAddr j.entry) (stLength j.entry)) = .inr [record] ∧
        (placeTexts (touchRange (acting s j) (stAddr j.entry) (stLength j.entry)) index (stFirst j.entry) [record]).any
          (fun p => isReady (prepareWrites (touchRange (acting s j) (stAddr j.entry) (stLength j.entry)) p.2)) = true) ∧
    (let j := cmd Op.WRITE_PASSAGES (storage 0x4000 1 16 8 0) []; let s := indexed index j;
      runsNow s 1 Op.WRITE_PASSAGES writePassagesSources j = true ∧ tabGet s.indexes (stIndex j.entry) = some index ∧
        publishAhead s (stIndex j.entry) 1 = false ∧ (stPassages j.entry).any (passageClosed index) = true) ∧
    (let p := cmd Op.PUBLISH (storage 0 0 0 0 0) []; let j := cmd Op.WRITE_PASSAGES (storage 0x4000 1 16 10 0) [];
      let s := { indexed index p with jobs := [(1, p), (2, j)] };
      runsNow s 2 Op.WRITE_PASSAGES writePassagesSources j = true ∧ s.perf.actor = none ∧
        publishAhead s (stIndex j.entry) 2 = true) := by decide +kernel

theorem witness_O34_vectors :
    (let j := cmd Op.WRITE_VECTORS (storage 0x4000 2 0 9 0) []; let s := indexed index j;
      runsNow s 1 Op.WRITE_VECTORS writeVectorsSources j = true ∧ tabGet s.indexes (stIndex j.entry) = some index ∧
        publishAhead s (stIndex j.entry) 1 = false ∧ (stPassages j.entry).any (passageClosed index) = false ∧
        readBad s (stAddr j.entry) (stCount j.entry * vBytes index.desc) = false ∧
        isReady (prepareWrites (touchRange (acting s j) (stAddr j.entry) (stCount j.entry * vBytes index.desc))
          ((List.range (stCount j.entry)).map (fun k => (ixVectorArea index.desc + (stFirst j.entry + k) * vStride index.desc,
            ((bytesAt s (stAddr j.entry) (stCount j.entry * vBytes index.desc)).drop (k * vBytes index.desc)).take
              (vBytes index.desc))))) = true) ∧
    (let j := cmd Op.WRITE_VECTORS (storage 0x4000 1 0 8 0) []; let s := indexed index j;
      runsNow s 1 Op.WRITE_VECTORS writeVectorsSources j = true ∧ (stPassages j.entry).any (passageClosed index) = true) ∧
    (let p := cmd Op.PUBLISH (storage 0 0 0 0 0) []; let j := cmd Op.WRITE_VECTORS (storage 0x4000 1 0 10 0) [];
      let s := { indexed index p with jobs := [(1, p), (2, j)] };
      runsNow s 2 Op.WRITE_VECTORS writeVectorsSources j = true ∧ publishAhead s (stIndex j.entry) 2 = true) := by
  decide +kernel

theorem witness_O34_sketches :
    (let r := leBytes 32 0 ++ leBytes 16 (9 * 2 ^ 24 + 1);
      let j := cmd Op.WRITE_SKETCHES (storage 0x4000 1 0 0 1) []; let s := filled (indexed index j) 0x4000 r;
      runsNow s 1 Op.WRITE_SKETCHES writeSketchesSources j = true ∧ tabGet s.indexes (stIndex j.entry) = some index ∧
        publishAhead s (stIndex j.entry) 1 = false ∧
        readBad s (stAddr j.entry) (stCount j.entry * sketchBytes index.desc) = false ∧
        (List.range (stCount j.entry)).map (fun k =>
          ((bytesAt s (stAddr j.entry) (stCount j.entry * sketchBytes index.desc)).drop (k * sketchBytes index.desc)).take
            (sketchBytes index.desc)) = [r] ∧
        sketchRecordsCheck index [ofLeBytes r] = Code.OK ∧
        (placeRecords (touchRange (acting s j) (stAddr j.entry) (stCount j.entry * sketchBytes index.desc)) index
          (stList j.entry) (index.current + 1) (stCount j.entry)).any (fun p => isReady (prepareWrites
            (touchRange (acting s j) (stAddr j.entry) (stCount j.entry * sketchBytes index.desc)) (p.2.zip [r]))) = true) ∧
    (let p := cmd Op.PUBLISH (storage 0 0 0 0 0) []; let j := cmd Op.WRITE_SKETCHES (storage 0x4000 1 0 0 1) [];
      let s := { indexed index p with jobs := [(1, p), (2, j)] };
      runsNow s 2 Op.WRITE_SKETCHES writeSketchesSources j = true ∧ publishAhead s (stIndex j.entry) 2 = true) := by
  decide +kernel

theorem witness_O35 :
    (let j := cmd Op.DELETE (storage 0 2 0 8 0) []; let s := indexed index j;
      runsNow s 1 Op.DELETE noSources j = true ∧ tabGet s.indexes (stIndex j.entry) = some index ∧
        publishAhead s (stIndex j.entry) 1 = false ∧
        index.tombs.length + (deletable index j.entry).length ≤ ixTombSlots index.desc) ∧
    (let x := { index with desc := indexBits - 1023 * 2 ^ 576 };
      ixTombSlots x.desc < x.tombs.length + (deletable x (storage 0 2 0 8 0)).length) ∧
    (let x := { index with passages := [(8, .live)] };
      let j := cmd Op.PUBLISH (storage 0 0 0 0 0) [1]; let s := indexed x j;
      runsNow s 1 Op.PUBLISH noSources j = true ∧ tabGet s.indexes (stIndex j.entry) = some x ∧ reg s Key.FLASH_STATE ≠ 4 ∧
        openBefore s (stIndex j.entry) 1 [Op.WRITE_PASSAGES, Op.WRITE_VECTORS, Op.WRITE_SKETCHES, Op.DELETE, Op.PUBLISH] =
          false ∧ j.work = [1] ∧ stagedStripes s 1 = [] ∧ incomplete s x = none ∧ rerankOpen s (stIndex j.entry) = false) ∧
    (let j := cmd Op.PUBLISH (storage 0 0 0 0 0) [1]; incomplete (indexed index j) index = some 9) ∧
    (let j := cmd Op.PUBLISH (storage 0 0 0 0 0) []; let s := indexed { index with touched := false } j;
      runsNow s 1 Op.PUBLISH noSources j = true ∧ j.work = []) := by decide +kernel

/-- Stripe 0 is staged on channel 0, which is up or down. -/
def staged (j : Job) (up : Bool) : State :=
  { setReg (at1 j) Key.FLASH_CHANNEL_UP (if up then 1 else 0) with mem := { base.mem with staged := [(0, ⟨1, 64⟩)] } }

theorem witness_O36 :
    (let j := cmd Op.FLUSH 0 [0, 64]; let s := at1 j;
      runsNow s 1 Op.FLUSH noSources j = true ∧ j.work = [0, 64] ∧ reg s Key.FLASH_STATE ≠ 4 ∧ stagedStripes s 0 = []) ∧
    (let j := cmd Op.FLUSH 0 [1, 64]; let s := setReg (at1 j) Key.FLASH_STATE 4;
      runsNow s 1 Op.FLUSH noSources j = true ∧ reg s Key.FLASH_STATE = 4) ∧
    (let j := cmd Op.FLUSH 0 [1, 64]; let s := staged j true;
      runsNow s 1 Op.FLUSH noSources j = true ∧ reg s Key.FLASH_STATE ≠ 4 ∧ stagedStripes s 1 ≠ [] ∧
        ∀ k ∈ stagedStripes s 1, channelUp s (channelOf k) = true) ∧
    (let j := cmd Op.FLUSH 0 [1, 64]; let s := staged j false;
      runsNow s 1 Op.FLUSH noSources j = true ∧ stagedStripes s 1 ≠ [] ∧
        ∃ k ∈ stagedStripes s 1, channelUp s (channelOf k) = false) ∧
    (let j := cmd Op.TRIM (0x200000 * 2 ^ 448 + 512 * 2 ^ 416) []; let s := at1 j;
      runsNow s 1 Op.TRIM noSources j = true ∧
        inWindow (param j.entry 511 448 + 4096 * param j.entry 447 416) = false ∧
        unitsOfRange (param j.entry 511 448) (4096 * param j.entry 447 416) = [1] ∧ tabGet s.mem.units 1 = none) := by
  decide +kernel

/-- Command 1 on context 0 with an entry of its own. -/
def held (j : Job) (x : Ctx) : State := { at1 j with ctxs := [(0, x)] }

theorem witness_O37 :
    (let j := cmd Op.CTX_ALLOC (1 * 2 ^ 368 + 5 * 2 ^ 352 + 9 * 2 ^ 336 + 2 ^ 260) []; let s := { at1 j with ctxs := [] };
      runsNow s 1 Op.CTX_ALLOC noSources j = true ∧ (ctxOf s j.ctx).state = .free ∧
        ceilDiv (saveBytesOf s (cxQuads j.entry)) unitBytes ≤ ((List.range 4).map (poolFree (acting s j))).sum ∧
        (allocateRun (acting s j) (nextDeviceUnit (acting s j) saveAreaBase kvAreaBase) (.saveArea j.ctx) 0
          (ceilDiv (saveBytesOf s (cxQuads j.entry)) unitBytes) 0).isSome = true) ∧
    (let j := cmd Op.CTX_ALLOC 0 []; let s := at1 j;
      runsNow s 1 Op.CTX_ALLOC noSources j = true ∧ (ctxOf s j.ctx).state ≠ .free) ∧
    (let j := cmd Op.CTX_FREE 0 []; let s := held j { placed with state := .faulted };
      runsNow s 1 Op.CTX_FREE noSources j = true ∧ (ctxOf s j.ctx).state = .faulted) ∧
    (let j := cmd Op.CTX_FREE 0 []; let s := at1 j;
      runsNow s 1 Op.CTX_FREE noSources j = true ∧
        (ctxOf s j.ctx).state ∈ [CtxState.idle, .waiting, .restoring, .running, .saving]) ∧
    (let j := cmd Op.CTX_MODIFY 0 []; let s := held j { placed with modify := some (0, 7, 8, true) };
      runsNow s 1 Op.CTX_MODIFY noSources j = true ∧ (ctxOf s j.ctx).modify = some (0, 7, 8, true) ∧ 0 ≤ beatNow s) ∧
    (let j := cmd Op.CTX_PREEMPT 0 []; let s := held j { placed with state := .idle, quads := [] };
      runsNow s 1 Op.CTX_PREEMPT noSources j = true ∧ j.work = [] ∧ (ctxOf s j.ctx).quads = []) ∧
    (let j := cmd Op.CTX_PREEMPT 0 []; let s := at1 j;
      runsNow s 1 Op.CTX_PREEMPT noSources j = true ∧ (ctxOf s j.ctx).quads ≠ [] ∧ (ctxOf s j.ctx).state ≠ .saving) ∧
    (let j := cmd Op.CTX_PREEMPT 0 [1]; let s := held j { placed with state := .idle, quads := [] };
      runsNow s 1 Op.CTX_PREEMPT noSources j = true ∧ j.work ≠ [] ∧ (ctxOf s j.ctx).state ≠ .running ∧
        (ctxOf s j.ctx).state ≠ .restoring) := by decide +kernel

/-- Context 0 holds no quads and has one quad as its partition. -/
def parked : Ctx where
  state := .idle
  used := true
  partition := 1

/-- The header of an image of one quad (Table 4.7). -/
def imageHeader (s : State) : Nat :=
  saveBytesOf s 1 * 2 ^ 448 + 4 * 2 ^ 256 + contextRows s * 2 ^ 224 + 262144 * 2 ^ 192 + 256 * 2 ^ 176 + 64 * 2 ^ 160 + 1

theorem witness_O38_save :
    (let j := cmd Op.CTX_SAVE (0x40000000 * 2 ^ 448 + 2 ^ 40 * 2 ^ 384) []; let s := held j parked;
      runsNow s 1 Op.CTX_SAVE noSources j = true ∧ (ctxOf s j.ctx).quads = [] ∧
        saveBytesOf s (ctxOf s j.ctx).partition ≤ cxSize j.entry ∧
        ((ctxOf s j.ctx).hasImage && readBad s (ctxOf s j.ctx).saveAddr (ctxOf s j.ctx).saveBytes) = false ∧
        isReady (prepareWrite (acting s j) (cxAddr j.entry) (saveBytesOf s (ctxOf s j.ctx).partition)) = true ∧
        cxAddr j.entry + saveBytesOf s (ctxOf s j.ctx).partition ≤ companionBase) ∧
    (let j := cmd Op.CTX_SAVE (0x40000000 * 2 ^ 448 + 2 ^ 40 * 2 ^ 384) []; let s := at1 j;
      runsNow s 1 Op.CTX_SAVE noSources j = true ∧ (ctxOf s j.ctx).quads ≠ [] ∧
        saveBytesOf s (ctxOf s j.ctx).partition ≤ cxSize j.entry ∧ (ctxOf s j.ctx).save = .none) ∧
    (let j := cmd Op.CTX_BUFFER (3 * 2 ^ 312 + 10 * 2 ^ 280) []; runsNow (at1 j) 1 Op.CTX_BUFFER noSources j = true) ∧
    (let j := cmd Op.CTX_QUERY (0x4000 * 2 ^ 448) []; let s := at1 j;
      runsNow s 1 Op.CTX_QUERY noSources j = true ∧ isReady (prepareWrite (acting s j) (cxAddr j.entry) 512) = true) := by
  decide +kernel

theorem witness_O38_restore :
    (let j := cmd Op.CTX_RESTORE (0x40000000 * 2 ^ 448 + 1 * 2 ^ 368) [];
      let s := filled { held j parked with mem := { base.mem with objects := [(0x40000000, ⟨0x40000000, 0, 0, false⟩)] } }
        0x40000000 (leBytes 64 (imageHeader base));
      runsNow s 1 Op.CTX_RESTORE ctxRestoreSources j = true ∧ j.work = [] ∧ windowRanges (imageRest s (cxAddr j.entry)) = [] ∧
        restoreCheck s (cxAddr j.entry) (cxQuads j.entry) = Code.OK ∧ cxQuads j.entry = (ctxOf s j.ctx).partition ∧
        (ctxOf s j.ctx).quads = []) ∧
    (let j := cmd Op.CTX_RESTORE (0x40000000 * 2 ^ 448 + 1 * 2 ^ 368) []; let s := held j parked;
      runsNow s 1 Op.CTX_RESTORE ctxRestoreSources j = true ∧ windowRanges (imageRest s (cxAddr j.entry)) = [] ∧
        restoreCheck s (cxAddr j.entry) (cxQuads j.entry) ≠ Code.OK) := by decide +kernel

theorem witness_O39 :
    (let s := { base with ctxs := [(0, { placed with state := .saving })] };
      (ctxOf s 0).state = .saving ∧ (blocksOf (ctxOf s 0)).any (sliced s) = false) ∧
    (let s := { base with ctxs := [(0, { placed with state := .restoring })] };
      (ctxOf s 0).state = .restoring ∧ vacating s 0 (ctxOf s 0) = false ∧ (blocksOf (ctxOf s 0)).any (sliced s) = false ∧
        (true && !((ctxOf s 0).hasImage && readBad s (ctxOf s 0).saveAddr (ctxOf s 0).saveBytes)) = true ∧
        (ctxOf s 0).hasImage = false ∧
        (false && !((ctxOf s 0).hasImage && readBad s (ctxOf s 0).saveAddr (ctxOf s 0).saveBytes)) = false) ∧
    (let s := { base with ctxs := [(0, { placed with leaving := true, openUnits := [5] })] };
      (ctxOf s 0).state = .running ∧ (ctxOf s 0).leaving = true ∧ (ctxOf s 0).openUnits ≠ []) ∧
    (let j := cmd Op.WARDROBE_REGISTER (0x4000 * 2 ^ 448 + 4096 * 2 ^ 384 + 6 * 2 ^ 320) [];
      let s := filled (at1 j) 0x4000 [1, 1];
      runsNow s 1 Op.WARDROBE_REGISTER noSources j = true ∧ tabGet s.models (cxModel j.entry) = none ∧
        readBad s (cxAddr j.entry) (cxSize j.entry) = false ∧ natAt s (cxAddr j.entry) 1 = 1 ∧
        fallbackCheck s (cxAddr j.entry) = Code.OK) ∧
    (let j := cmd Op.WARDROBE_RELEASE (6 * 2 ^ 320) []; let s := { at1 j with models := [(6, { addr := 0x4000, size := 4096 })] };
      runsNow s 1 Op.WARDROBE_RELEASE noSources j = true ∧ (tabGet s.models (cxModel j.entry)).isSome = true ∧
        modelRead s (cxModel j.entry) = false ∧ tabGet (at1 j).models (cxModel j.entry) = none) ∧
    (let x : Model := { addr := 0x4000, size := 4096, loading := true }; let s := { base with models := [(6, x)] };
      tabGet s.models 6 = some x ∧ x.loading = true ∧ x.resident = false ∧
        residentBytes s + x.size ≤ wardrobeBytes s ∧ residentCount s < 64) := by decide +kernel

/-- A stream of four instructions at address 0x4000. -/
def stream : Stream where
  addr := 0x4000
  count := 4

/-- A run of some streams on context 0. -/
def runOf (ss : List Stream) : Run where
  ctx := 0
  model := none
  seq := 0
  streams := ss
  scaleRule := 0
  rounding := 0
  shadow := 0
  fallback := 0
  rungs := 0

/-- The ARRAY_RUN that owns the run. -/
def owner : Job := cmd Op.ARRAY_RUN 0 []

/-- The run of command 1 with an instruction at 0x4000, on quad 0, whose block 0 is awake, with some channel windows. -/
def array (ws : Tab Window) (ss : List Stream) (i : Nat) : State :=
  setBlock (filled { held owner { placed with windows := ws } with array := { runs := [(1, runOf ss)] } } 0x4000
    (leBytes 16 i)) 0 .awake

/-- A MATMUL of two BF16 rows, with its flags (Table 5.4). -/
def matmulBits (flags rows : Nat) : Nat :=
  opMatmul * 2 ^ 120 + 11 * 2 ^ 116 + 11 * 2 ^ 112 + 12 * 2 ^ 108 + flags * 2 ^ 104 + rows * 2 ^ 83 + 0x10000 * 2 ^ 25 +
    0x20000 * 2

theorem witness_O40_matmul :
    (let i := matmulBits 0 2; let s := array [] [stream] i; let r := runOf [stream];
      Issues s 1 0 owner r stream 0 i ∧ inOp i = opMatmul ∧ matmulReason s r 0 i = none ∧ (matmulClass i).isSome = true ∧
        (matmulTiles s r 0 i).isSome = true ∧ 0 < inRows i ∧ arrayAwake s 0 = true ∧
        (heldForCheckpoint (ctxOf s r.ctx) && inAccIn i) = false ∧ inWsrc i = false ∧ slotsReady s 0 r stream 0 i = true ∧
        inDrain i = false) :=
  ⟨by constructor <;> decide +kernel, by decide +kernel⟩

theorem witness_O40_drain :
    (let i := matmulBits 4 2; let s := array [] [stream] i; let r := runOf [stream];
      Issues s 1 0 owner r stream 0 i ∧ matmulReason s r 0 i = none ∧ inDrain i = true ∧ 0 < inRows i ∧
        slotsReady s 0 r stream 0 i = true) :=
  ⟨by constructor <;> decide +kernel, by decide +kernel⟩

theorem witness_O40_rows :
    (let i := matmulBits 0 0; let s := array [] [stream] i; let r := runOf [stream];
      Issues s 1 0 owner r stream 0 i ∧ matmulReason s r 0 i = none ∧ inRows i = 0 ∧
        (heldForCheckpoint (ctxOf s r.ctx) && inAccIn i) = false) :=
  ⟨by constructor <;> decide +kernel, by decide +kernel⟩

theorem witness_O40_reason :
    (let i := matmulBits 4 5000; let s := array [] [stream] i; let r := runOf [stream];
      Issues s 1 0 owner r stream 0 i ∧ inOp i = opMatmul ∧ (matmulReason s r 0 i).isSome = true) :=
  ⟨by constructor <;> decide +kernel, by decide +kernel⟩

/-- A DRAIN of a function, with an output format and another block (Table 5.5). -/
def drainBits (func rows : Nat) (remote : Bool) : Nat :=
  opDrain * 2 ^ 120 + 32 * 2 ^ 112 + 12 * 2 ^ 108 + func * 2 ^ 104 + rows * 2 ^ 83 + 0x100 * 2 ^ 25 + 1 * 2 ^ 13 +
    (if remote then 2 ^ 12 else 0)

/-- An ACC_LOAD of FP32 words (Table 5.6). -/
def loadBits (rows : Nat) : Nat := opAccLoad * 2 ^ 120 + 32 * 2 ^ 112 + 12 * 2 ^ 108 + rows * 2 ^ 83 + 0x100 * 2 ^ 25

theorem witness_O41_drain :
    (let i := drainBits 0 2 true; let s := array [] [stream, stream] i; let r := runOf [stream, stream];
      Issues s 1 0 owner r stream 0 i ∧ inOp i = opDrain ∧ drainReason s r 0 0 i = none ∧ 0 < inRows i ∧ 0 < inCols i ∧
        physBlock (ctxOf s r.ctx) (if inRemote i then inDestVb i else 0) = some 1 ∧ sliced s 1 = false ∧
        slotsReady s 0 r stream 0 i = true ∧ slotsOfRanges (ctxOf s r.ctx) (inDestVb i) (touches s 0 i).2.2 = [] ∧
        inFunc i ≤ 1) :=
  ⟨by constructor <;> decide +kernel, by decide +kernel⟩

theorem witness_O41_values :
    (let i := drainBits 4 2 false; let s := array [] [stream] i; let r := runOf [stream];
      Issues s 1 0 owner r stream 0 i ∧ drainReason s r 0 0 i = none ∧
        physBlock (ctxOf s r.ctx) (if inRemote i then inDestVb i else 0) = some 0 ∧ slotsReady s 0 r stream 0 i = true ∧
        inFunc i = 4) :=
  ⟨by constructor <;> decide +kernel, by decide +kernel⟩

theorem witness_O41_load :
    (let i := loadBits 2; let s := array [] [stream] i; let r := runOf [stream];
      Issues s 1 0 owner r stream 0 i ∧ inOp i = opAccLoad ∧ accLoadReason s 0 i = none ∧ 0 < inRows i ∧ 0 < inCols i ∧
        (heldForCheckpoint (ctxOf s r.ctx) && inAdd i) = false ∧ slotsReady s 0 r stream 0 i = true) :=
  ⟨by constructor <;> decide +kernel, by decide +kernel⟩

theorem witness_O41_rows :
    (let i := loadBits 0; let s := array [] [stream] i;
      Issues s 1 0 owner (runOf [stream]) stream 0 i ∧ inRows i = 0 ∧ accLoadReason s 0 i = none) ∧
    (let i := drainBits 0 0 false; let s := array [] [stream] i;
      Issues s 1 0 owner (runOf [stream]) stream 0 i ∧ inRows i = 0 ∧ drainReason s (runOf [stream]) 0 0 i = none) :=
  ⟨⟨by constructor <;> decide +kernel, by decide +kernel⟩, by constructor <;> decide +kernel, by decide +kernel⟩

/-- A program image of one stream at address 0x4000, with its COUNT (Tables 5.10 and 5.11). -/
def imageOfCount (n : Nat) : List Nat :=
  leBytes 64 (128 * 2 ^ 448 + 64 * 2 ^ 384 + 1 * 2 ^ 16 + 1 * 2 ^ 8 + 1) ++ leBytes 16 (96 * 2 ^ 64 + n * 2 ^ 32)

theorem witness_O42_run :
    (let j := cmd Op.ARRAY_RUN (0x4000 * 2 ^ 448) []; let s := filled (at1 j) 0x4000 (imageOfCount 2);
      runsNow s 1 Op.ARRAY_RUN noSources j = true ∧ arImage s j.entry = some 0x4000 ∧ tabGet s.array.runs 1 = none ∧
        (ctxOf s j.ctx).state = .running ∧
        runMayStart s 1 j.ctx (if (modelOf s (arModel j.entry)).isSome then some (arModel j.entry) else none) = true ∧
        readBad s 0x4000 (imBytes (imageHead s 0x4000)) = false ∧
        0 < imVblocks (imageHead s 0x4000) ∧ (streamEntry s 0x4000 0).2 ≠ 0) ∧
    (let s := filled (at1 (cmd Op.ARRAY_RUN (0x4000 * 2 ^ 448) [])) 0x4000 (imageOfCount 0);
      ∀ v, v < imVblocks (imageHead s 0x4000) → (streamEntry s 0x4000 v).2 = 0) := by decide +kernel

/-- The streams of a run beside its first. -/
def waitingStream : Stream := { stream with mode := .barrier }
def endedStream : Stream := { stream with mode := .ended }

theorem witness_O42_nop :
    Issues (array [] [stream] 0) 1 0 owner (runOf [stream]) stream 0 0 ∧ inOp 0 = opNop :=
  ⟨by constructor <;> decide +kernel, by decide⟩

theorem witness_O42_barrier :
    (let i := opBarrier * 2 ^ 120; let r := runOf [stream, stream];
      Issues (array [] [stream, stream] i) 1 0 owner r stream 0 i ∧ inOp i = opBarrier ∧ r.streams[1]? = some stream) ∧
    (let i := opBarrier * 2 ^ 120; let r := runOf [stream, waitingStream, endedStream];
      Issues (array [] [stream, waitingStream, endedStream] i) 1 0 owner r stream 0 i ∧
        ∀ x ∈ r.streams.drop 1, x.mode ≠ .running) :=
  ⟨⟨by constructor <;> decide +kernel, by decide +kernel⟩, by constructor <;> decide +kernel, by decide +kernel⟩

theorem witness_O42_end :
    (let st := { stream with pc := 4 }; let r := runOf [st, stream]; let s := array [] [st, stream] 0;
      tabGet s.jobs 1 = some owner ∧ tabGet s.array.runs 1 = some r ∧ r.streams[0]? = some st ∧
        runIssues s owner r = true ∧ st.mode = .running ∧ st.count ≤ st.pc ∧ r.streams[1]? = some stream ∧
        stream.mode = .running ∧ ∀ x ∈ r.streams, x.mode ≠ .barrier) ∧
    (let r := runOf [{ stream with pc := 4 }, endedStream];
      (∀ x ∈ r.streams.drop 1, x.mode = .ended) ∧ owner.opcode = Op.ARRAY_RUN ∧
        runIssues (array [] r.streams 0) owner r = true) ∧
    (let r := runOf [{ stream with pc := 4 }, waitingStream];
      (∃ x ∈ r.streams, x.mode = .barrier) ∧ runIssues (array [] r.streams 0) owner r = true) := by decide +kernel

/-- Windows of blocks 0 and 1 over their first 16 rows, with their slots EMPTY (Table 7.10). -/
def windows : Tab Window :=
  [(0, ⟨0, 4, 4, 9, false, [.full, .full, .full, .full], 0⟩), (16, ⟨0, 4, 4, 0, false, [.empty, .empty, .empty, .empty], 0⟩)]

theorem witness_O42_claims :
    (let st := { stream with stalled := [(0, 0)] }; let i := drainBits 0 2 true; let r := runOf [st, stream];
      let s := array windows [st, stream] i;
      tabGet s.jobs 1 = some owner ∧ tabGet s.array.runs 1 = some r ∧ r.streams[0]? = some st ∧
        physBlock (ctxOf s r.ctx) 0 = some 0 ∧ runIssues s owner r = true ∧ st.mode = .running ∧ st.claimed = false ∧
        st.stalled ≠ [] ∧ st.granted = false ∧
        slotsOfRanges (ctxOf s r.ctx) (inDestVb (natAt s (st.addr + 16 * st.pc) 16))
          (touches s 0 (natAt s (st.addr + 16 * st.pc) 16)).2.2 ≠ [] ∧
        (ctxOf s owner.ctx).state = .running ∧ stalledSlots s 1 0 owner ≠ [] ∧
        claimTimeout (ctxOf s owner.ctx) (stalledSlots s 1 0 owner) = some (9, 0)) := by decide +kernel

/-- The entry of a POCKET_FILL or a POCKET_COPY of blocks 1 and 2: two rows of three words (Table 7.6). -/
def pocketEntry (transpose : Bool) : Nat :=
  0xABCD * 2 ^ 480 + 100 * 2 ^ 368 + 7 * 2 ^ 352 + 2 * 2 ^ 336 + 5 * 2 ^ 328 + 60 * 2 ^ 320 + 3 * 2 ^ 312 +
    (if transpose then 2 ^ 287 else 0) + 1 * 2 ^ 256 + 2 * 2 ^ 240

/-- The entry of a POCKET_CONFIG of block 1: window 3 over four rows from row 100, or its removal. -/
def configEntry (enable : Bool) : Nat :=
  9 * 2 ^ 448 + 0x10 * 2 ^ 384 + 100 * 2 ^ 368 + 2 * 2 ^ 304 + 2 * 2 ^ 296 + 3 * 2 ^ 288 + 2 ^ 286 + 2 ^ 285 +
    (if enable then 2 ^ 284 else 0) + 1 * 2 ^ 256 + 1 * 2 ^ 240

theorem witness_O43 :
    (let j := cmd Op.POCKET_FILL (pocketEntry false) []; let s := at1 j;
      runsNow s 1 Op.POCKET_FILL noSources j = true ∧ pkWord j.entry + pkWords j.entry ≤ 64 ∧
        pkRow j.entry + pkRows j.entry ≤ 16384) ∧
    (let j := cmd Op.POCKET_COPY (pocketEntry true) []; let s := at1 j;
      runsNow s 1 Op.POCKET_COPY noSources j = true ∧ (ctxOf s j.ctx).quads.Nodup ∧
        pkSrcWord j.entry + pkWords j.entry ≤ 64 ∧ pkSrcRow j.entry + pkRows j.entry ≤ 16384 ∧
        pkRow j.entry + (copyShape j.entry).1 ≤ 16384 ∧ pkWord j.entry + (copyShape j.entry).2 ≤ 64) ∧
    (let j := cmd Op.POCKET_CONFIG (configEntry true) []; let s := held j { placed with windows := windows };
      runsNow s 1 Op.POCKET_CONFIG noSources j = true ∧ pkSetWindow j.entry = true ∧
        (pkSetWindow j.entry && pkEnable j.entry && windowOverlaps s j.ctx j.entry) = false) ∧
    (let j := cmd Op.POCKET_CONFIG (configEntry false) []; let s := held j { placed with windows := windows };
      runsNow s 1 Op.POCKET_CONFIG noSources j = true ∧ pkEnable j.entry = false) ∧
    (let s := { base with ctxs := [(0, placed)] };
      physBlock (ctxOf s 0) 3 = some 3 ∧ 100 < contextRows s ∧ sliced s 3 = false ∧ blockAvailable s 3 = true) ∧
    (let s := { base with ctxs := [(0, placed)], chip := { base.chip with fenced := [3] } };
      physBlock (ctxOf s 0) 3 = some 3 ∧ blockAvailable s 3 = false) := by decide +kernel

/-- The device with some objects and units, and a command. -/
def tiered (j : Job) (os : Tab Obj) (us : Tab UnitInfo) : State :=
  { at1 j with mem := { base.mem with objects := os, units := us } }

/-- A POOL object of two units at unit 3, and its first unit in HBM, at rest or on its way. -/
def pool : Obj := ⟨2 * unitBytes, 1, 0, false⟩
def unit (m : Option Move) : UnitInfo := ⟨.hbm 0, 0, .object, m⟩

/-- The entry of an object command: ADDR, SIZE, DEST, POLICY and REGION (Table 8.4). -/
def objectEntry (addr size dest policy region : Nat) : Nat :=
  addr * 2 ^ 448 + size * 2 ^ 384 + dest * 2 ^ 320 + policy * 2 ^ 312 + region * 2 ^ 304

theorem witness_O44_register :
    (let j := cmd Op.OBJ_REGISTER (objectEntry (3 * unitBytes) (2 * unitBytes) 0 0 0) []; let s := at1 j;
      runsNow s 1 Op.OBJ_REGISTER noSources j = true ∧ overlapsObject s (objAddr j.entry) (objSize j.entry) = false ∧
        s.mem.objects.length < 65536 ∧
        capacityHeld s (objSize j.entry) (objPolicy j.entry) (objRegion j.entry) = true ∧
        shortRegion s (objSize j.entry) (objRegion j.entry) = none) ∧
    (let j := cmd Op.OBJ_REGISTER (objectEntry (3 * unitBytes) (2 * unitBytes) 0 0 0) [];
      overlapsObject (tiered j [(4 * unitBytes, pool)] []) (objAddr j.entry) (objSize j.entry) = true) ∧
    (let j := cmd Op.OBJ_REGISTER (objectEntry (3 * unitBytes) (2 ^ 30 * unitBytes) 0 0 0) [];
      capacityHeld (at1 j) (objSize j.entry) (objPolicy j.entry) (objRegion j.entry) = false) := by decide +kernel

theorem witness_O44_release :
    (let j := cmd Op.OBJ_RELEASE (objectEntry (3 * unitBytes) 0 0 0 0) [];
      let s := tiered j [(3 * unitBytes, pool)] [(3, unit none)];
      runsNow s 1 Op.OBJ_RELEASE noSources j = true ∧ tabGet s.mem.objects (objAddr j.entry) = some pool ∧
        s.jobs.any (fun p => p.1 < 1 && openJob p.2 && namesObject p.2.entry (objAddr j.entry) pool.size) = false ∧
        ∀ p ∈ unitsOfObject s (objAddr j.entry) pool, p.2.move = none) ∧
    (let j := cmd Op.OBJ_QUERY (objectEntry (3 * unitBytes) 0 0x4000 0 0) [];
      let s := tiered j [(3 * unitBytes, pool)] [(3, unit none)];
      runsNow s 1 Op.OBJ_QUERY noSources j = true ∧ objectBase s (objAddr j.entry) = some pool ∧
        isReady (prepareWrite (acting s j) (objDest j.entry) (64 + pool.size / unitBytes)) = true ∧
        ∀ p ∈ s.mem.units, p.2.home = .hbm 0) := by decide +kernel

theorem witness_O44_policy :
    (∀ w ∈ [[0, 0, 0, 0], [0, 1, 0, 1], [0, 0, 1, 1]],
      let j := cmd Op.OBJ_SET_POLICY (objectEntry (3 * unitBytes) 0 0 1 0) w;
      let s := tiered j [(3 * unitBytes, pool)] [(3, unit none)];
      runsNow s 1 Op.OBJ_SET_POLICY noSources j = true ∧ tabGet s.mem.objects (objAddr j.entry) = some pool ∧
        j.cancel = none ∧ misplacedUnits s (objAddr j.entry) pool = [] ∧
        ∀ p ∈ unitsOfObject s (objAddr j.entry) pool, p.2.move = none) ∧
    (let o := { pool with policy := 2 };
      let j := { cmd Op.OBJ_SET_POLICY (objectEntry (3 * unitBytes) 0 0 2 0) [0, 0, 1, 1] with cancel := none };
      misplacedUnits (tiered j [(3 * unitBytes, o)] [(3, unit none)]) (objAddr j.entry) o ≠ []) ∧
    (let j := { cmd Op.OBJ_SET_POLICY (objectEntry (3 * unitBytes) 0 0 2 0) [0, 0, 1, 1] with cancel := some 1 };
      runsNow (at1 j) 1 Op.OBJ_SET_POLICY noSources j = true ∧ j.cancel.isSome = true) := by decide +kernel

theorem witness_O45 :
    (let m : Move := { dest := .flash, cause := .policy 1 }; let j := cmd Op.OBJ_SET_POLICY 0 [2, 0, 1, 1];
      let s := tiered j [(3 * unitBytes, pool)] [(3, unit (some m))];
      tabGet s.mem.units 3 = some (unit (some m)) ∧ (unit (some m)).move = some m ∧ m.cause = .policy 1 ∧
        tabGet s.jobs 1 = some j ∧ j.work = [2, 0, 1, 1]) ∧
    (∀ c ∈ [MoveCause.demotion, .promotion, .tier],
      let m : Move := { dest := .flash, cause := c };
      tabGet (tiered owner [] [(3, unit (some m))]).mem.units 3 = some (unit (some m))) ∧
    (tabGet base.mem.units 3).bind UnitInfo.move = none := by decide +kernel

/-- Channel 0 with one LUN of two blocks of 16 stripes, some of its blocks used, a stripe staged, and programs. -/
def flashed (bs : Tab FlashBlock) (ps : Tab Program) : State :=
  setReg { base with mem := { base.mem with
    channels := [(0, { up := true, luns := 1, blocks := 2, stripes := 16 })], blocks := bs, programs := ps
    places := [(64, 0)], staged := [(1024, ⟨1, 64⟩)], order := 1 } } Key.FLASH_CHANNEL_UP 1

theorem witness_O46_programs :
    (let s := flashed [(0, { valid := [], used := 1 })] [(64, ⟨0, 1, 0⟩)];
      tabGet s.mem.programs 64 = some ⟨0, 1, 0⟩ ∧ flushingAll s = false ∧ memWf s.mem.dev = true) ∧
    (let x : FlashBlock := { erasing := true, used := 16 }; let s := flashed [(blockKey 0 0 0, x)] [];
      tabGet s.mem.blocks (blockKey 0 0 0) = some x ∧ x.erasing = true) ∧
    (let s := flashed [] [];
      running s = true ∧ flashAwake s = true ∧ inForce s Key.STORE_BACKGROUND_FLUSH = 1 ∧ channelUp s 0 = true ∧
        reg s Key.FLASH_STATE ≠ 4 ∧
        (sortBy (fun a b => a.2.order < b.2.order) (s.mem.staged.filter (fun p =>
          channelOf (p.1 / 16) == 0 && !tabHas s.mem.programs (p.1 / 16)))).head? = some (1024, ⟨1, 64⟩) ∧
        (placeFor s (channelOf (1024 / 16))).isSome = true) := by decide +kernel

/-- The blocks of the LUN: the first full, the second open. -/
def blocks (valid : List Nat) (erases : Nat) : Tab FlashBlock :=
  [(blockKey 0 0 0, { used := 16, valid := valid }), (blockKey 0 0 1, { used := 3, erases := erases })]

theorem witness_O46_blocks :
    (let s := flashed (blocks [] 0) [];
      flashAwake s = true ∧ lunFree s 0 0 * 100 < (chan s 0).blocks * 2 ∧
        emptiestBlock s 0 0 = some (blockKey 0 0 0, { used := 16 })) ∧
    (let s := flashed (blocks [128] 0) [];
      lunFree s 0 0 * 100 < (chan s 0).blocks * 2 ∧
        emptiestBlock s 0 0 = some (blockKey 0 0 0, { used := 16, valid := [128] }) ∧
        s.mem.staged.any (fun p => p.1 / 16 == 128) = false ∧ tabHas s.mem.programs 128 = false ∧
        (placeFor s (channelOf 128)).isSome = true) ∧
    (let s := flashed (blocks [128] 1001) []; let bs := (lunBlocks s 0 0).filter (fun p => !p.2.retired);
      flashAwake s = true ∧ (chan s 0).blocks ≤ bs.length ∧ (bs.map (fun p => p.2.erases)).min? = some 0 ∧
        (bs.map (fun p => p.2.erases)).max? = some 1001 ∧ 0 + 1000 < 1001 ∧
        (sortBy (fun a b => a.2.erases < b.2.erases) (bs.filter (fun p => !p.2.valid.isEmpty))).head? =
          some (blockKey 0 0 0, { used := 16, valid := [128] })) := by decide +kernel

theorem witness_O47 :
    0 ≤ inForce base Key.FLASH_REFRESH_BITS ∧
    (let j := cmd Op.LACE_ENCODE 0 []; let s := at1 j;
      tabGet s.jobs 1 = some j ∧ openJob j = true ∧ tellsWhere j.opcode = false ∧ j.opcode ≠ Op.SEARCH ∧
        j.opcode ≠ Op.RECALL_PROBE) ∧
    (let s := flashed [] [];
      flashAwake s = true ∧ inForce s Key.FLASH_SCRUB_HOURS ≠ 0 ∧ tabHas s.mem.places 64 = true ∧
        (let t := { s with mem := { s.mem with staged := [] } };
          t.mem.staged.any (fun p => p.1 / 16 == 64) = false ∧ inForce t Key.FLASH_REFRESH_BITS < 1000)) ∧
    (let s := { flashed [] [] with mem := { (flashed [] []).mem with units := [(2, unit (some { dest := .flash, cause := .tier }))] } };
      (tabGet s.mem.channels 0).map (fun x => (x.up, x.resetting)) = some (true, false) ∧
        channelOf (2 * 32 + 0) = 0) ∧
    (let x : Channel := { up := true, resetting := true }; let s := { base with mem := { base.mem with channels := [(0, x)] } };
      tabGet s.mem.channels 0 = some x ∧ x.resetting = true ∧ trainedRate (reg s Key.FLASH_EXT_MODE == 1) 1 ≠ 0 ∧
        trainedRate (reg s Key.FLASH_EXT_MODE == 1) 0 = 0) := by decide +kernel

theorem witness_O48 :
    inForce base Key.HBM_SCRUB_HOURS ≠ 0 ∧
    (let s := setReg base Key.HBM_SCRUB_HOURS 0; inForce s Key.HBM_SCRUB_HOURS = 0) ∧
    (base.start ≠ .off ∧ 11 < 12 ∧ 99 < 100) ∧
    (let s := { base with mem := { base.mem with hbmStacks := [(4, { resetting := true })] } };
      (stackOf s 4).resetting = true ∧ stackRate 9600 = true ∧ stackRate 0 = false) := by decide +kernel

/-- The image of a vocabulary of one piece, "a", at 0x200000 in an HBM object (Tables 9.1 and 9.2). -/
def vocabImage : List Nat :=
  leBytes 64 (96 * 2 ^ 448 + 64 * 2 ^ 384 + 80 * 2 ^ 320 + 1 * 2 ^ 288 + 1 * 2 ^ 256 + noToken * 2 ^ 224 +
    noToken * 2 ^ 192 + 1) ++ leBytes 16 (1 * 2 ^ 56) ++ [97]

/-- A command with the image in memory, and vocabularies loaded. -/
def worded (j : Job) (vs : Tab Vocab) : State :=
  { filled (tiered j [(0x200000, ⟨0x400000, 0, 0, false⟩)] []) 0x200000 vocabImage with vocabs := vs }

/-- The entry of a Lace command: SRC, DEST, row, LENGTH, COUNT, CAPACITY, and whether it writes to a Pocket (Table 9.4). -/
def laceEntry (src length count cap : Nat) (pocket : Bool) : Nat :=
  src * 2 ^ 448 + 0x8000 * 2 ^ 384 + 2 * 2 ^ 368 + 9 * 2 ^ 352 + length * 2 ^ 320 + count * 2 ^ 288 + cap * 2 ^ 256 +
    (if pocket then 2 ^ 239 else 0)

theorem witness_O49_vocab :
    (let j := cmd Op.LACE_VOCAB_LOAD (laceEntry 0x200000 0 0 0 false) []; let s := worded j [];
      runsNow s 1 Op.LACE_VOCAB_LOAD noSources j = true ∧ tabHas s.vocabs (laVocab j.entry) = false ∧
        readBad s (laSrc j.entry) 64 = false ∧ readBad s (laSrc j.entry) (voBytes (natAt s (laSrc j.entry) 64)) = false ∧
        vocabCheck s (laSrc j.entry) = Code.OK) ∧
    (let j := cmd Op.LACE_VOCAB_LOAD (laceEntry 0x400000 0 0 0 false) [];
      vocabCheck (worded j []) (laSrc j.entry) ≠ Code.OK) ∧
    (let j := cmd Op.LACE_VOCAB_LOAD 0 []; tabHas (worded j [(0, ⟨0x200000, none, []⟩)]).vocabs (laVocab j.entry) = true) ∧
    (let j := cmd Op.LACE_VOCAB_UNLOAD 0 []; let x : Vocab := ⟨0x200000, some 1, []⟩; let s := worded j [(0, x)];
      runsNow s 1 Op.LACE_VOCAB_UNLOAD noSources j = true ∧ tabGet s.vocabs (laVocab j.entry) = some x ∧
        x.closing = some 1 ∧ (∀ k ∈ x.pins, isOpen s k = false) ∧ tabGet (worded j []).vocabs (laVocab j.entry) = none) ∧
    (let e := cmd Op.LACE_ENCODE 0 []; let j := cmd Op.LACE_VOCAB_UNLOAD 0 []; let x : Vocab := ⟨0x200000, some 2, [1]⟩;
      let s := { worded e [(0, x)] with jobs := [(1, e), (2, j)] };
      runsNow s 2 Op.LACE_VOCAB_UNLOAD noSources j = true ∧ (∃ k ∈ x.pins, isOpen s k = true) ∧ s.perf.actor = none) := by
  decide +kernel

theorem witness_O49_text :
    (let j := cmd Op.LACE_ENCODE (laceEntry 0x4000 2 0 4 false) []; let x : Vocab := ⟨0x200000, none, [1]⟩;
      let s := worded j [(0, x)];
      runsNow s 1 Op.LACE_ENCODE laceEncodeSources j = true ∧ tabGet s.vocabs (laVocab j.entry) = some x ∧ j.work = [] ∧
        readBad s (laSrc j.entry) (laLength j.entry) = false) ∧
    (let j := cmd Op.LACE_ENCODE (laceEntry 0x4000 2 0 4 false) [1, 1, 2, 0, 5, 0, 0, 0]; let s := worded j [];
      runsNow s 1 Op.LACE_ENCODE laceEncodeSources j = true ∧ (∀ b ∈ j.work.drop 4, b < 256) ∧ laPocket j.entry = false ∧
        isReady (prepareWrite (acting s j) (laDest j.entry) 4) = true) ∧
    (let j := cmd Op.LACE_ENCODE (laceEntry 0x4000 2 0 4 true) [1, 1, 2, 0, 5, 0, 0, 0]; let s := worded j [];
      runsNow s 1 Op.LACE_ENCODE laceEncodeSources j = true ∧ laPocket j.entry = true ∧ (ctxOf s j.ctx).state = .running ∧
        physBlock (ctxOf s j.ctx) (laVb j.entry) = some 2 ∧
        claimable (ctxOf s j.ctx) [] (slotsOf (ctxOf s j.ctx) (laVb j.entry) (laRow j.entry) 1) = true) ∧
    (let j := cmd Op.LACE_DECODE (laceEntry 0x4000 0 2 4 false) []; let x : Vocab := ⟨0x200000, none, [1]⟩;
      let s := worded j [(0, x)];
      runsNow s 1 Op.LACE_DECODE laceDecodeSources j = true ∧ tabGet s.vocabs (laVocab j.entry) = some x ∧
        readBad s (laSrc j.entry) (4 * laCount j.entry) = false ∧
        (∀ k, k < laCount j.entry → natAt s (laSrc j.entry + 4 * k) 4 < voTokens (natAt s x.addr 64)) ∧
        readBad (touchRange (acting s j) (laSrc j.entry) (4 * laCount j.entry)) x.addr (voBytes (natAt s x.addr 64)) = false ∧
        isReady (prepareWrite (touchRange (acting s j) (laSrc j.entry) (4 * laCount j.entry)) (laDest j.entry)
          ((decodeTokens s x.addr (laSkip j.entry) (laContinue j.entry)
            ((List.range (laCount j.entry)).map (fun i => natAt s (laSrc j.entry + 4 * i) 4))).take
              (laCapacity j.entry)).length) = true) ∧
    (let j := cmd Op.LACE_DECODE (laceEntry 0x4000 0 2 4 false) []; let s := filled (worded j []) 0x4000 (leBytes 4 9);
      voTokens (natAt s 0x200000 64) ≤ natAt s (laSrc j.entry + 4 * 0) 4) := by decide +kernel

/-- The entry of an index command: SRC, index 2 and some more (Table 10.8). -/
def queryEntry (more : Nat) : Nat := 0x8000 * 2 ^ 448 + 0x4000 * 2 ^ 384 + 2 * 2 ^ 128 + more

/-- The index's areas are registered, and the descriptor `d` lies at 0x4000. -/
def described (j : Job) (d : Nat) : State := { filled (indexed index j) 0x4000 (leBytes 128 d) with indexes := [] }

theorem witness_O50_create :
    (let j := cmd Op.INDEX_CREATE (queryEntry 0) []; let s := described j indexBits; let d := indexBits;
      runsNow s 1 Op.INDEX_CREATE indexCreateSources j = true ∧ readBad s (srSrc j.entry) 128 = false ∧
        d = natAt s (srSrc j.entry) 128 ∧ field d 0 8 = 1 ∧ tabHas s.indexes (srIndex j.entry) = false ∧
        ixFieldsBad d = false ∧ (ixAreaNeeds d).any (areaBad s) = false ∧ (distinct (ixAreas d)).length = 5 ∧
        (ixAreas d).any (holdsIndex s) = false ∧ ixOpen d = false) ∧
    (let d := indexBits + 2 ^ 8; let s := described (cmd Op.INDEX_CREATE (queryEntry 0) []) d;
      d = natAt s 0x4000 128 ∧ field d 0 8 = 1 ∧ ixFieldsBad d = false ∧ ixOpen d = true ∧
        readBad s (ixListArea d) (ixCopyStripes d * stripeBytes) = false ∧ tabGet s.copies (ixListArea d) = none ∧
        readBad (setReg { s with mem := { s.mem with units := [(2, ⟨.flash, 0, .object, none⟩)] } } Key.FLASH_CHANNEL_UP 0)
          (ixListArea d) (ixCopyStripes d * stripeBytes) = true ∧
        descDiffers d indexBits = false ∧ descDiffers d (indexBits + 2 ^ 60) = true) ∧
    field (natAt (described (cmd Op.INDEX_CREATE (queryEntry 0) []) 2) 0x4000 128) 0 8 ≠ 1 ∧
    ixFieldsBad 1 = true := by decide +kernel

theorem witness_O50_drop :
    (let j := cmd Op.INDEX_DROP (queryEntry 0) []; let x := { index with dropping := some 1 }; let s := indexed x j;
      runsNow s 1 Op.INDEX_DROP noSources j = true ∧ tabGet s.indexes (srIndex j.entry) = some x ∧ x.dropping = some 1 ∧
        openPins s x = [] ∧ openBefore s (srIndex j.entry) 1
          [Op.WRITE_PASSAGES, Op.WRITE_VECTORS, Op.WRITE_SKETCHES, Op.DELETE, Op.PUBLISH] = false ∧
        (∀ y ∈ tabGet (indexed index j).indexes (srIndex j.entry), y.dropping ≠ some 1)) ∧
    (let q := cmd Op.SEARCH 0 []; let j := cmd Op.INDEX_DROP (queryEntry 0) [];
      let x := { index with dropping := some 2, pins := [(1, 3)] }; let s := { indexed x q with jobs := [(1, q), (2, j)] };
      runsNow s 2 Op.INDEX_DROP noSources j = true ∧ openPins s x ≠ [] ∧ s.perf.actor = none) ∧
    (let j := cmd Op.INDEX_STATUS (queryEntry 0) []; let s := indexed index j;
      runsNow s 1 Op.INDEX_STATUS noSources j = true ∧ tabGet s.indexes (srIndex j.entry) = some index ∧
        isReady (prepareWrite (acting s j) (srDest j.entry) 64) = true) := by decide +kernel

theorem witness_O50_compaction :
    (let x := { index with extents := [(0, [⟨1, 1, 1⟩, ⟨2, 2, 1⟩])] };
      let s := setReg (indexed x owner) Key.SEARCH_COMPACT_EXTENTS 2;
      running s = true ∧ inForce s Key.SEARCH_COMPACT_ENABLE = 1 ∧ reg s Key.FLASH_STATE ≠ 4 ∧
        tabGet s.indexes 2 = some x ∧ (dueLists s x).find? (fun k => x.cursor ≤ k) = some 0 ∧
        (compactList s 2 x 0).any (fun p => isReady (prepareWrites s p.2)) = true ∧
        compactList { s with mem := { s.mem with objects := [] } } 2 x 0 = none ∧
        (dueLists s index).find? (fun k => index.cursor ≤ k) = none) ∧
    running State.reset = false := by decide +kernel

/-- A SEARCH of index 2 that wants `k` entries by h alone, and its query. -/
def searching (k more : Nat) : Job := cmd Op.SEARCH (queryEntry (8 * 2 ^ 160 + k * 2 ^ 144 + 1 * 2 ^ 200 + 3 * 2 ^ 126 + more)) []
def query : Query where
  index := 2
  epoch := 3
  values := []
  sketch := 0
  lists := [0, 1]
  taken := 1
  merged := [⟨200, 8, false⟩]

/-- The command with its query. -/
def asking (j : Job) (q : Query) : State := { indexed index j with queries := [(1, q)] }

/-- A segment of one stripe of list 0. -/
def segment : Segment := ⟨0, ⟨1, 8, 1⟩, [8]⟩

theorem witness_O51_begin :
    (let j := searching 1 0; let s := indexed index j;
      runsNow s 1 Op.SEARCH searchSources j = true ∧ tabGet s.indexes (srIndex j.entry) = some index ∧
        tabGet s.queries 1 = none ∧ readBad s (ixCentroidArea index.desc) (ixLists index.desc * vStride index.desc) = false ∧
        srPocket j.entry = false ∧ readBad (acting s j) (srSrc j.entry) (queryBytes index.desc) = false ∧
        spanRole s j = none) ∧
    (let j := searching 1 (2 ^ 124);
      let s := setReg (setReg (setReg (indexed index j) (Key.PELGAN_JOB 0) (jobBits 1 3)) Key.PELGAN_DEVICE 1)
        Key.PELGAN_CTX_JOB 0;
      runsNow s 1 Op.SEARCH searchSources j = true ∧ (spanRole s j).map (fun r => r.job) = some 0 ∧
        0 ∈ treeMembers (jobEntry s 0) (ownDevice s) ∧ 0 ≠ ownDevice s ∧ flowRoute s 0 0 = none ∧
        flowRoute (setReg s Key.PELGAN_ROUTE_TABLE (2 ^ 60 + 1)) 0 0 ≠ none) := by decide +kernel

theorem witness_O51_end :
    (let j := searching 1 0; let s := asking j query; let scored := mergedScores s index.desc j.entry query;
      runsNow s 1 Op.SEARCH searchSources j = true ∧ tabGet s.queries 1 = some query ∧ query.failed = none ∧
        query.items = [] ∧ toRepair (srKscan j.entry) query = none ∧ query.span = none ∧ ¬ scored.length < srKout j.entry ∧
        vectorsBad s index.desc (srMetric j.entry) query.merged = false ∧
        isReady (prepareWrite (touchRanges (acting s j) (vectorRanges index.desc (srMetric j.entry) query.merged))
          (srDest j.entry) (searchBytes j.entry query scored).length) = true) ∧
    (let j := searching 5 (1 * 2 ^ 176); let s := asking j query;
      (mergedScores s index.desc j.entry query).length < srKout j.entry ∧
        canWiden j.entry query.rounds query.lists.length = true) ∧
    (let j := searching 1 0; let q := { query with failed := some (0, Code.ECC_UNCORRECTABLE) };
      runsNow (asking j q) 1 Op.SEARCH searchSources j = true ∧
        isReady (prepareWrite (acting (asking j q) j) (srDest j.entry) 64) = true) ∧
    (let q := { query with items := [segment] }; q.items ≠ [] ∧ (asking (searching 1 0) q).perf.actor = none) ∧
    (let q := { query with overs := [⟨segment, ⟨250, 9, false⟩⟩], merged := [] };
      toRepair (srKscan (searching 1 0).entry) q = some ⟨segment, ⟨250, 9, false⟩⟩) ∧
    (let r : SpanRole := { job := 0, gen := 0, tag := 0, left := 1 }; let q := { query with span := some r };
      q.span = some r ∧ r.failed = none ∧ r.left ≠ 0 ∧
        ({ r with failed := some Code.DEVICE_UNREACHABLE } : SpanRole).failed = some Code.DEVICE_UNREACHABLE) := by
  decide +kernel

theorem witness_O51_rerank :
    (let j := { cmd Op.RERANK (queryEntry (0x6000 * 2 ^ 320 + 1 * 2 ^ 160 + 1 * 2 ^ 144 + 3 * 2 ^ 126)) [] with pin := 3 };
      let x := { index with extents := [(0, [⟨1, 8, 1⟩])] };
      let s := filled (filled (indexed x j) 0x6000 (leBytes 8 8)) (recordAddr x.desc ⟨1, 8, 1⟩ 0 + 32) (leBytes 16 (8 * 2 ^ 24 + 1));
      let u := touchRange (touchRange (acting s j) (srCand j.entry) (8 * srCandCount j.entry)) (srSrc j.entry)
        (queryBytes x.desc);
      runsNow s 1 Op.RERANK rerankSources j = true ∧ tabGet s.indexes (srIndex j.entry) = some x ∧
        readBad s (srCand j.entry) (8 * srCandCount j.entry) = false ∧ srPocket j.entry = false ∧
        readBad s (srSrc j.entry) (queryBytes x.desc) = false ∧
        rerankCandidates s x j.pin [8] = [8] ∧
        vectorsBad u x.desc (srMetric j.entry) [{ h := 0, passage := 8 }] = false ∧
        isReady (prepareWrite u (srDest j.entry) 80) = true) ∧
    (let j := cmd Op.RECALL_PROBE (queryEntry (1 * 2 ^ 116 + 8 * 2 ^ 160 + 1 * 2 ^ 144 + 1 * 2 ^ 200)) [];
      let s := indexed index j; let u := touchRange (acting s j) (srSrc j.entry) (queryStride index.desc * srQcount j.entry);
      let b := probeRecord index.desc 0 (bytesAt s (srSrc j.entry) (queryStride index.desc * srQcount j.entry));
      runsNow s 1 Op.RECALL_PROBE recallProbeSources j = true ∧ tabGet s.indexes (srIndex j.entry) = some index ∧
        readBad s (srSrc j.entry) (queryStride index.desc * srQcount j.entry) = false ∧
        listsError u index (tabKeys index.extents) j.pin = none ∧
        readBad u (ixCentroidArea index.desc) (ixLists index.desc * vStride index.desc) = false ∧
        probeVectorsBad u index j.entry j.pin b = false ∧
        isReady (prepareWrite (touchRanges u (probeRanges u index j.entry j.pin [b])) (srDest j.entry)
          (16 * srQcount j.entry)) = true) ∧
    (let s := asking (searching 1 0) { query with items := [segment] };
      oldestItem s (areaChannel index.desc 8) = some (2, segment) ∧ tabGet s.indexes 2 = some index ∧
        ((passUsers s (areaChannel index.desc 8) 2 segment).map Prod.fst).count 1 = 1 ∧ oldestItem base 0 = none) := by
  decide +kernel

/-- The entry of a TOPK of two rows of `n` FP32 values from 0x4000 (Table 11.4). -/
def topkEntry (n : Nat) : Nat :=
  0x4000 * 2 ^ 448 + 0x8000 * 2 ^ 384 + n * 2 ^ 352 + 64 * 2 ^ 288 + 2 * 2 ^ 272 + 2 * 2 ^ 256 + 12 * 2 ^ 236

/-- The header of an empty selection result of FP32 values (Table 11.1). -/
def selectionHeader (count : Nat) : Nat := count * 2 ^ 48 + 12 * 2 ^ 44 + 0x5A * 2 ^ 8 + 1

/-- A MERGE of one source at 0x6000. -/
def merging (header : Nat) : State :=
  filled (filled (tiered (cmd Op.MERGE (0x4000 * 2 ^ 448 + 0x8000 * 2 ^ 384 + 1 * 2 ^ 368 + 2 * 2 ^ 272) [])
    [(0, ⟨0x200000, 0, 0, false⟩)] []) 0x4000 (leBytes 16 (0x6000 * 2 ^ 64))) 0x6000 (leBytes 192 header)

theorem witness_O52_topk :
    (∀ w ∈ [[], [1, 0]], let j := cmd Op.TOPK (topkEntry 2) w; let s := at1 j;
      runsNow s 1 Op.TOPK topkSources j = true ∧ tkPocket j.entry = false ∧
        readBad (acting s j) (tkSrc j.entry + j.work[0]?.getD 0 * tkStride j.entry) (tkN j.entry * tkWidth j.entry) = false ∧
        isReady (prepareWrite s (tkDest j.entry + j.work[0]?.getD 0 * selStride (tkK j.entry)) (192 + 16 * tkK j.entry)) =
          true) ∧
    (let j := cmd Op.TOPK (topkEntry 2) []; let s := { at1 j with mem := { base.mem with poison := [128] } };
      runsNow s 1 Op.TOPK topkSources j = true ∧
        readBad s (tkSrc j.entry + j.work[0]?.getD 0 * tkStride j.entry) (tkN j.entry * tkWidth j.entry) = true) := by
  decide +kernel

theorem witness_O52_merge :
    (let j := cmd Op.MERGE (0x4000 * 2 ^ 448 + 0x8000 * 2 ^ 384 + 1 * 2 ^ 368 + 2 * 2 ^ 272) []; let s := merging (selectionHeader 0);
      runsNow s 1 Op.MERGE mergeSources j = true ∧ readBad s (tkSrc j.entry) (16 * mgSources j.entry) = false ∧
        (∀ i, i < mgSources j.entry → inWindow (mergeSource s j.entry i) = false) ∧
        (shVfmt (natAt s (mergeSource s j.entry 0) 192), shOrder (natAt s (mergeSource s j.entry 0) 192)) = (12, 0) ∧
        (∀ i, i < mgSources j.entry → sourceCheck s j.entry i (12, 0) = Code.OK) ∧
        (∀ i, i < mgSources j.entry →
          firstUnsorted false 0 (sourceEntries s (mergeSource s j.entry i)) = none) ∧
        isReady (prepareWrite (touchRanges (acting s j) (mergeRanges s j.entry)) (tkDest j.entry)
          (selResult 12 false (tkK j.entry) [] (mergeCarried s j.entry [] [])).1.length) = true) ∧
    (let s := merging 2; sourceCheck s (topkEntry 0) 0 (0, 0) ≠ Code.OK) := by decide +kernel

/-- An HBM object that holds what commands read. -/
def heap : Nat := 0x10000000

/-- A Belt table of four rows of eight FP32 values (Table 12.1). -/
def rowsBits : Nat := (heap + 0x200000) * 2 ^ 448 + 4 * 2 ^ 288 + 32 * 2 ^ 256 + 8 * 2 ^ 240 + 12 * 2 ^ 236 + 1

/-- The header and the stream entry of a model's image of one stream. -/
def modelHead : List Nat := leBytes 64 (4256 * 2 ^ 448 + 4224 * 2 ^ 384 + 1 * 2 ^ 16 + 2 * 2 ^ 8 + 1)
def modelStream : List Nat := leBytes 16 (4240 * 2 ^ 64 + 1 * 2 ^ 32)

/-- Passage 8 has a record in list 0 of the index. -/
def listed : Index := { index with extents := [(0, [⟨1, 8, 1⟩])], pins := [(1, 3)] }

/-- Command 1 on quad 0, with vocabulary 0, model 6, Belt table 3 and index 2 at hand, and some bytes of the heap. -/
def equipped (j : Job) (bs : List (Nat × List Nat)) : State :=
  let s := indexed listed j
  (((recordAddr listed.desc ⟨1, 8, 1⟩ 0 + 32, leBytes 16 (8 * 2 ^ 24 + 1)) :: (heap, vocabImage) ::
      (heap + 0x100000, modelHead) :: (heap + 0x100000 + 4224, modelStream) :: bs).foldl (fun t p => filled t p.1 p.2)
    { s with
      mem := { s.mem with objects := s.mem.objects ++ [(heap, ⟨0x4000000, 0, 0, false⟩)] }
      ctxs := [(0, { placed with windows :=
        [(0, ⟨1000, 128, 1, 0, false, [.empty], 0⟩), (1, ⟨2000, 128, 1, 0, false, [.empty], 0⟩)] })]
      vocabs := [(0, ⟨heap, none, [1]⟩)]
      models := [(6, { addr := heap + 0x100000, size := 4256 })]
      belt := { tables := [(3, { versions := [(1, rowsBits)], current := some 1, pins := [(1, 1)] })] } })

/-- The entry of a Belt command on table 3: its descriptor or its indexes, and some more (Table 12.3). -/
def beltEntry (src more : Nat) : Nat := src * 2 ^ 448 + (heap + 0x8000) * 2 ^ 256 + 3 * 2 ^ 160 + more

theorem witness_O53_tables :
    (let j := cmd Op.BELT_TABLE_CREATE (beltEntry (heap + 0x4000) (1 * 2 ^ 160)) [];
      let s := equipped j [(heap + 0x4000, leBytes 64 rowsBits)];
      runsNow s 1 Op.BELT_TABLE_CREATE beltSources j = true ∧ readBad s (blIdx j.entry) 64 = false ∧
        natAt s (blIdx j.entry) 64 = rowsBits ∧ field rowsBits 0 8 = 1 ∧ btFieldsBad s rowsBits = false ∧
        tabHas s.belt.tables (blTable j.entry) = false ∧ btFieldsBad s 1 = true ∧
        readBad { s with mem := { s.mem with poison := [(heap + 0x4000) / 128] } } (blIdx j.entry) 64 = true) ∧
    (let j := cmd Op.BELT_TABLE_REPLACE (beltEntry (heap + 0x4000) 0) [];
      let s := equipped j [(heap + 0x4000, leBytes 64 rowsBits)];
      runsNow s 1 Op.BELT_TABLE_REPLACE beltSources j = true ∧
        (tabGet s.belt.tables (blTable j.entry)).bind BeltTable.current = some 1 ∧ 1 < reg s Key.BELT_MAX_VERSIONS ∧
        reg (setReg s Key.BELT_MAX_VERSIONS 1) Key.BELT_MAX_VERSIONS ≤ 1) ∧
    (∀ vs ∈ [[], [(1, rowsBits)]],
      let j := cmd Op.BELT_TABLE_DROP (beltEntry 0 0) []; let x : BeltTable := { versions := vs, dropping := some 1 };
      let s := { at1 j with belt := { tables := [(3, x)] } };
      runsNow s 1 Op.BELT_TABLE_DROP noSources j = true ∧ tabGet s.belt.tables (blTable j.entry) = some x ∧
        x.dropping = some 1 ∧ s.perf.actor = none ∧ tabGet (at1 j).belt.tables (blTable j.entry) = none) := by decide +kernel

/-- A gather of two rows, to memory or to row 5 of block 2, which starts or is at its second row. -/
def gathering (pocket : Bool) (work : List Nat) : Job :=
  { cmd Op.BELT_GATHER (if pocket then (heap + 0x4000) * 2 ^ 448 + (2 * 2 ^ 16 + 5) * 2 ^ 256 + 2 * 2 ^ 224 + 3 * 2 ^ 160 +
      12 * 2 ^ 154 + 2 ^ 151 else beltEntry (heap + 0x4000) (2 * 2 ^ 224 + 12 * 2 ^ 154)) work with pin := 1 }

theorem witness_O53_gather :
    (let j := gathering false []; let s := equipped j [];
      runsNow s 1 Op.BELT_GATHER beltGatherSources j = true ∧ tabHas s.belt.tables (blTable j.entry) = true ∧
        gatherMayStart s 1 j = true ∧ gatherOffsets j.entry = false ∧
        gatherMayStart (setReg s Key.BELT_CONCURRENT 0) 1 j = false) ∧
    (let e := (heap + 0x5000) * 2 ^ 320 + 1 * 2 ^ 192 + 2 ^ 158 + 2 ^ 152;
      gatherOffsets e = true ∧ firstBadOffset (equipped owner [(heap + 0x5000, [1])]) e = some 0) ∧
    (let j := gathering false [1, 1, 0]; let s := equipped j [];
      runsNow s 1 Op.BELT_GATHER beltGatherSources j = true ∧
        (∀ r ∈ gatherReads s j.entry rowsBits 1, readBad s r.1 r.2 = false) ∧ blPocket j.entry = false ∧
        isReady (prepareWrite (acting s j) (gatherPlace j.entry rowsBits 1) (gatherBytes s j.entry rowsBits 1).length) =
          true ∧ blOutRows j.entry ≤ 1 + 1 ∧ 0 + 1 < blOutRows j.entry) ∧
    (let j := gathering true [1, 1, 0]; let s := equipped j [];
      runsNow s 1 Op.BELT_GATHER beltGatherSources j = true ∧ blPocket j.entry = true ∧
        physBlock (ctxOf s j.ctx) (blLb j.entry) = some 2 ∧
        claimable (ctxOf s j.ctx) [] (deliverySlots s j.ctx (blLb j.entry) (gatherPlace j.entry rowsBits 1)
          (gatherBytes s j.entry rowsBits 1).length) = true) ∧
    (let j := gathering false [1, 1, 0]; let s := equipped j [];
      let t := { s with mem := { s.mem with poison := [(heap + 0x4000) / 128] } };
      ∃ r ∈ gatherReads t j.entry rowsBits 1, readBad t r.1 r.2 = true) := by decide +kernel

/-- No earlier open command of the context, no run of it that has ended, and no power failure. -/
def alone (s : State) (id c : Nat) : Bool :=
  !powerFailing s && (earlierOpen s c id).isEmpty && (tabGet s.array.lastEnd c).isNone

/-- A run of a context that is alone may start, whatever fallback state its model has (R180). -/
theorem runMayStart_alone (s : State) (id c : Nat) (m : Option Nat) (h : alone s id c = true) :
    runMayStart s id c m = true := by
  simp only [alone, Bool.and_eq_true, Bool.not_eq_true', List.isEmpty_iff, Option.isNone_iff_eq_none] at h
  cases m with
  | none => simp [runMayStart, h.1.1]
  | some m =>
    simp only [runMayStart, h.1.1, h.1.2, h.2, Bool.not_false, Bool.true_and]
    cases tabGet s.models m <;> simp

/-- A descriptor of model 6 with pairs of eight tokens and batches of one (Table 13.1). -/
def rankBits : Nat :=
  6 * 2 ^ 272 + 3 * 2 ^ 256 + 8 * 2 ^ 224 + 2 * 2 ^ 208 + 100 * 2 ^ 192 + 200 * 2 ^ 176 + 201 * 2 ^ 160 + 1 * 2 ^ 144 +
    1 * 2 ^ 136 + 1

/-- A candidate list of some passages of epoch 3. -/
def candidates (n : Nat) : List Nat := leBytes 64 (3 * 2 ^ 288 + n * 2 ^ 272 + 1) ++ leBytes 16 (8 * 2 ^ 88)

/-- A CROSS_RERANK, and the state with its descriptor and `n` candidates. -/
def ranking (work : List Nat) : Job :=
  { cmd Op.CROSS_RERANK ((heap + 0x4000) * 2 ^ 448 + (heap + 0x5000) * 2 ^ 384 + (heap + 0x6000) * 2 ^ 320 +
      (heap + 0x8000) * 2 ^ 256 + 1 * 2 ^ 224 + 2 * 2 ^ 208 + 1 * 2 ^ 192) work with pin := 3 }
def ranked (work : List Nat) (n : Nat) : State :=
  equipped (ranking work) [(heap + 0x4000, leBytes 64 rankBits), (heap + 0x5000, candidates n)]

theorem witness_O54_start :
    (let j := ranking []; let s := ranked [] 1;
      runsNow s 1 Op.CROSS_RERANK crossRerankSources j = true ∧ tabGet s.indexes (xrIndex j.entry) = some listed ∧
        readBad s (xrSrc j.entry) 64 = false ∧ readBad s (xrCand j.entry) 64 = false ∧ inWindow (xrCand j.entry) = false ∧
        natAt s (xrSrc j.entry) 64 = rankBits ∧ field rankBits 0 8 = 1 ∧ field (natAt s (xrCand j.entry) 64) 0 8 = 1 ∧
        rangeOk s (xrCand j.entry) (candidateBytes s (xrCand j.entry)) = true ∧ xrDescBad s j.ctx 1 rankBits = false ∧
        (∀ r ∈ xrInputs s j.entry, bytesMeet r.1 r.2 (xrDest j.entry) (64 + 16 * xrKout j.entry) = false) ∧
        shResCount (natAt s (xrCand j.entry) 64) = 1 ∧ xrKout j.entry ≤ 1 ∧ shResEpoch (natAt s (xrCand j.entry) 64) = 3 ∧
        3 ≤ listed.current ∧ oldestOf s listed ≤ 3 ∧ (∀ r ∈ xrInputs s j.entry, readBad s r.1 r.2 = false) ∧
        textsBad s listed ((xrScored s listed { j with pin := 3 }).map (fun c => c.passage)) = false) ∧
    shResCount (natAt (ranked [] 0) (heap + 0x5000) 64) = 0 ∧ xrDescBad base 0 1 0 = true := by decide +kernel

theorem witness_O54_batches :
    (let j := ranking [1]; let s := ranked [1] 1;
      runsNow s 1 Op.CROSS_RERANK crossRerankSources j = true ∧ j.work = 1 :: [] ∧ 0 < (xrScored s listed j).length ∧
        pinnedDesc s (xdEmb rankBits) 1 = some rowsBits ∧ (tabGet s.models (xdModel rankBits)).isSome = true ∧
        (∀ r ∈ xrBatchReads s listed j rankBits rowsBits 0 { addr := heap + 0x100000, size := 4256 },
          readBad s r.1 r.2 = false) ∧
        alone s 1 j.ctx = true ∧
        claimable (ctxOf s j.ctx) [] (writesSlots (ctxOf s j.ctx)
          (xrWrites s rankBits rowsBits (xrBatch s listed j rankBits 0))) = true) ∧
    (let j := ranking [2]; let s := { ranked [2] 1 with array := { runs := [(1, runOf [stream])] } };
      runsNow s 1 Op.CROSS_RERANK crossRerankSources j = true ∧ tabGet s.array.runs 1 = some (runOf [stream]) ∧
        (∃ st ∈ (runOf [stream]).streams, st.count ≠ 0) ∧ (runOf [stream]).ended = false ∧ s.perf.actor = none ∧
        ({ runOf [stream] with ended := true } : Run).ended = true ∧
        claimable (ctxOf s j.ctx) (slotsOf (ctxOf s j.ctx) 0 (xdOutRow rankBits) 1) [] = true) ∧
    (let j := ranking [1, 0x3F800000]; let s := ranked [1, 0x3F800000] 1; let cs := xrScored s listed j;
      runsNow s 1 Op.CROSS_RERANK crossRerankSources j = true ∧ cs.length ≤ [0x3F800000].length ∧
        (∀ r ∈ xrEndReads s 1 rankBits cs, readBad s r.1 r.2 = false) ∧
        isReady (prepareWrite (acting s j) (xrDest j.entry)
          (xrBytes s 1 j rankBits cs ([0x3F800000].take cs.length)).length) = true) := by decide +kernel

/-- A PACK of the same candidates by a template of one passage segment, here or to device 1 (Table 13.5). -/
def packing (remote : Bool) (work : List Nat) : Job :=
  { cmd Op.PACK ((heap + 0x4000) * 2 ^ 448 + (heap + 0x5000) * 2 ^ 384 + (heap + 0x6000) * 2 ^ 320 +
      (heap + 0x8000) * 2 ^ 256 + 100 * 2 ^ 144 + 2 * 2 ^ 128 + 1 * 2 ^ 112 + 4 * 2 ^ 96 + 1 * 2 ^ 80 +
      (if remote then 2 ^ 67 else 0)) work with pin := 3 }
def packed (remote : Bool) (work : List Nat) : State :=
  equipped (packing remote work)
    [(heap + 0x4000, leBytes 64 (72 * 2 ^ 448 + 1 * 2 ^ 416 + 1) ++ leBytes 8 2), (heap + 0x5000, candidates 1)]

/-- The PACK has not pinned its epoch yet. -/
def unpinned (s : State) : State := { s with indexes := [(2, { listed with pins := [] })] }

/-- The segments of its template. -/
def segments : List TemplateSeg := [.passages [] []]

theorem witness_O54_reads : PackReads (packed false [1]) (packing false [1]) := by
  constructor <;> decide +kernel

theorem witness_O54_pack :
    (let j := packing false []; let s := unpinned (packed false []); let x := { listed with pins := [] };
      let h := natAt s (pcCand j.entry) 64; let ws := packWrites j.entry (packAll s x j.entry (shResEpoch h) segments [] []);
      runsNow s 1 Op.PACK packSources j = true ∧ tabGet s.indexes (pcIndex j.entry) = some x ∧
        packTemplate s j.entry = .inr (segments, [], []) ∧ field h 0 8 = 1 ∧ packRangesOk s j.entry = true ∧
        tabGet (openPins s x) 1 = none ∧ shResEpoch h ≤ x.current ∧ oldestOf s x ≤ shResEpoch h ∧
        textsBad s x (packSeen s x j.entry) = false ∧ pcRemote j.entry = false ∧ (∀ w ∈ ws, inWindow w.1 = false) ∧
        isReady (prepareWrites (packRead s 1 j x (shResEpoch h)) (ws.filter (fun w => !inWindow w.1))) = true) ∧
    (let j := packing false [1]; let s := packed false [1];
      runsNow s 1 Op.PACK packSources j = true ∧ tabGet (openPins s listed) 1 ≠ none ∧ j.work = [1] ∧
        isReady (prepareWrite (acting s j) (pcDest j.entry) 64) = true) ∧
    (let j := packing true [1];
      let s := setReg (setReg (packed true [1]) Key.PELGAN_CTX_JOB 0) Key.PELGAN_ROUTE_TABLE ((2 ^ 60 + 1) * 2 ^ 256);
      runsNow s 1 Op.PACK packSources j = true ∧ pcRemote j.entry = true ∧ boundJob s j.ctx = some 0 ∧
        flowRoute s 0 (pcPeer j.entry) = some (2 ^ 60 + 1)) ∧
    (let j := packing true [2]; runsNow (packed true [2]) 1 Op.PACK packSources j = true ∧ j.work = [2]) ∧
    packTemplate base 0 = .inl (Code.VERSION_UNSUPPORTED, 0) := by decide +kernel

/-- A RAND_FILL of 20 outputs, to memory or to row 5 of block 2 (Table 15.8). -/
def filling (pocket : Bool) (work : List Nat) : Job :=
  cmd Op.RAND_FILL ((if pocket then 2 * 2 ^ 16 + 5 else heap + 0x8000) * 2 ^ 256 + 20 * 2 ^ 224 +
    (if pocket then 2 ^ 175 else 0)) work

theorem witness_O55_commands :
    (let j := cmd Op.SAMPLER_SEED (77 * 2 ^ 448) []; runsNow (at1 j) 1 Op.SAMPLER_SEED noSources j = true) ∧
    (let j := cmd Op.KV_RELEASE (4 * 2 ^ 480) []; let s := held j { placed with genState := 9 * 2 ^ 480 };
      runsNow s 1 Op.KV_RELEASE noSources j = true ∧ genTurn s 1 j.ctx = true ∧ grKeep j.entry < gsLen (ctxOf s j.ctx) ∧
        gsLen (ctxOf (at1 j) j.ctx) ≤ grKeep j.entry) ∧
    (let g := cmd Op.GEN_RUN 0 [2]; let j := cmd Op.KV_RELEASE 0 []; let s := { at1 g with jobs := [(1, g), (2, j)] };
      runsNow s 2 Op.KV_RELEASE noSources j = true ∧ genTurn s 2 j.ctx = false ∧ s.perf.actor = none) ∧
    (∀ w ∈ [[], [16]], let j := filling false w; let s := equipped j [];
      runsNow s 1 Op.RAND_FILL noSources j = true ∧ smPocket j.entry = false ∧
        isReady (prepareWrite (acting s j) (fillPlace j) (fillBytes s j).length) = true) ∧
    (filling false []).work.headD 0 + fillCount (filling false []) < smCount (filling false []).entry ∧
    smCount (filling false [16]).entry ≤ (filling false [16]).work.headD 0 + fillCount (filling false [16]) ∧
    (let j := filling true []; let s := equipped j [];
      runsNow s 1 Op.RAND_FILL noSources j = true ∧ smPocket j.entry = true ∧
        physBlock (ctxOf s j.ctx) (smLb j.entry) = some 2 ∧
        claimable (ctxOf s j.ctx) [] (deliverySlots s j.ctx (smLb j.entry) (fillPlace j) (fillBytes s j).length) = true) := by
  decide +kernel

/-- The image of a grammar of one state that allows every token (Tables 15.9 and 15.10). -/
def grammarHead : List Nat := leBytes 64 (96 * 2 ^ 448 + 64 * 2 ^ 384 + 96 * 2 ^ 320 + 1 * 2 ^ 288 + 1 * 2 ^ 256 + 1)
def grammarState (kind : Nat) : List Nat := leBytes 32 (2 ^ 87 + kind * 2 ^ 64)

/-- A VEIL_LOAD of the image at the heap's second MiB. -/
def veiling : Job := cmd Op.VEIL_LOAD ((heap + 0x180000) * 2 ^ 256 + 1 * 2 ^ 176) []
def veiled (kind : Nat) : State :=
  equipped veiling [(heap + 0x180000, grammarHead), (heap + 0x180000 + 64, grammarState kind)]

theorem witness_O55_veil :
    (let j := veiling; let s := veiled 0;
      runsNow s 1 Op.VEIL_LOAD noSources j = true ∧ smGrammar j.entry < reg s Key.VEIL_MAX_GRAMMARS ∧
        tabHas s.grammars (smGrammar j.entry) = false ∧ smDest j.entry % 4096 = 0 ∧ inHbm s (smDest j.entry) 64 = true ∧
        readBad s (smDest j.entry) 64 = false ∧ field (gmHead s (smDest j.entry)) 0 8 = 1 ∧
        grammarHeadBad s (smDest j.entry) = false ∧ readBad s (smDest j.entry) (gmBytes (gmHead s (smDest j.entry))) = false ∧
        ∀ st, st < gmStates (gmHead s (smDest j.entry)) → stateBad s (smDest j.entry) st = false) ∧
    stateBad (equipped veiling [(heap + 0x180000, grammarHead), (heap + 0x180000 + 64, [1])]) (heap + 0x180000) 0 = true ∧
    grammarHeadBad base heap = true ∧
    (let s := veiled 0; let t := { s with mem := { s.mem with poison := [(heap + 0x180000) / 128] } };
      readBad t (smDest veiling.entry) 64 = true) ∧
    (∀ ps ∈ [[], [2]], let e := cmd Op.VEIL_UNLOAD (1 * 2 ^ 176) []; let x : Grammar := ⟨heap, some 1, ps⟩;
      let s := { at1 e with jobs := [(1, e), (2, owner)], grammars := [(1, x)] };
      runsNow s 1 Op.VEIL_UNLOAD noSources e = true ∧ tabGet s.grammars (smGrammar e.entry) = some x ∧
        x.closing = some 1 ∧ isOpen s 2 = true ∧ s.perf.actor = none ∧ tabGet (at1 e).grammars (smGrammar e.entry) = none) ∧
    (let g := request 0 (2 ^ 312 + 2 ^ 9) .ready;
      let s := { veiled 0 with
        jobs := [(1, cmd Op.GEN_RUN 0 [2])], gens := [(1, g)], grammars := [(1, ⟨heap + 0x180000, none, [1]⟩)] };
      tabGet s.gens 1 = some g ∧ genGrammar s g = some (heap + 0x180000) ∧ running s = true ∧ isOpen s 1 = true ∧
        inStep g = true ∧ 0 ∈ genStates s g ∧ 0 ∉ g.masks ∧
        (∀ r ∈ stateReads s (heap + 0x180000) 0, readBad s r.1 r.2 = false) ∧ 1 ∉ genStates s g ∧
        (let t := { s with mem := { s.mem with poison := [(heap + 0x180000 + 64) / 128] } };
          ∃ r ∈ stateReads t (heap + 0x180000) 0, readBad t r.1 r.2 = true)) := by decide +kernel

/-- The interface of model 6, a greedy sampling block, and a request of two tokens (Tables 14.3, 15.1 and 14.5). -/
def mainBits : Nat :=
  1 * 2 ^ 480 + 6 * 2 ^ 464 + 3 * 2 ^ 448 + 10 * 2 ^ 432 + 1 * 2 ^ 416 + 9 * 2 ^ 400 + 1 * 2 ^ 368 + 20 * 2 ^ 352 +
    4 * 2 ^ 320 + 1 * 2 ^ 304 + 1 * 2 ^ 288 + 256 * 2 ^ 272 + 1 * 2 ^ 256 + 1
def samplingBits : Nat := oneF32 * 2 ^ 448 + oneF32 * 2 ^ 416 + 1
def requestBits (new : Nat) (mailbox : Bool) : Nat :=
  (heap + 0x16000) * 2 ^ 960 + (heap + 0x18000) * 2 ^ 896 + (heap + 0x11000) * 2 ^ 704 + (heap + 0x12000) * 2 ^ 640 +
    (if mailbox then 2 ^ 9 else 2 * 2 ^ 480) + new * 2 ^ 448 + 4 * 2 ^ 416 + 1

/-- A GEN_RUN, and the state with its descriptors. -/
def generating (work : List Nat) : Job := cmd Op.GEN_RUN ((heap + 0x10000) * 2 ^ 448) work
def prompted (work : List Nat) (d : Nat) : State :=
  equipped (generating work) [(heap + 0x10000, leBytes 128 d), (heap + 0x11000, leBytes 64 samplingBits),
    (heap + 0x12000, leBytes 64 mainBits)]

theorem witness_O55_reads :
    GenReads (prompted [] (requestBits 3 false)) (generating []) (requestBits 3 false) samplingBits mainBits 0 where
  desc := by decide +kernel
  block := by decide +kernel
  main := by decide +kernel
  draft := by decide +kernel
  readable := by decide +kernel
  here := by decide +kernel
  prompt := by decide +kernel
  version := by decide +kernel
  versions := by decide +kernel

theorem witness_O55_start :
    (let j := generating []; let d := requestBits 3 false; let s := prompted [] d;
      runsNow s 1 Op.GEN_RUN genRunSources j = true ∧ genTurn s 1 j.ctx = true ∧ tabGet s.gens 1 = none ∧
        genBad (genRead s j) 1 j d samplingBits mainBits 0 = false ∧ rdMaxNew d ≠ 0 ∧ rdMailbox d = false ∧
        readBad (genRead s j) (rdPrompt d) (4 * rdPromptLen d) = false ∧ (∀ x ∈ genPrompt s d, x < miVocab mainBits) ∧
        rdPromptLen d ≠ 0) ∧
    (let s := filled (prompted [] (requestBits 3 false)) (heap + 0x16000) [1];
      ∃ x ∈ genPrompt s (requestBits 3 false), miVocab mainBits ≤ x) ∧
    (let j := generating []; let d := requestBits 0 false;
      genBad (genRead (prompted [] d) j) 1 j d samplingBits mainBits 0 = false ∧ rdMaxNew d = 0) ∧
    (let j := generating []; let d := requestBits 3 true; let s := prompted [] d;
      genBad (genRead s j) 1 j d samplingBits mainBits 0 = false ∧ rdMailbox d = true ∧ inWindow (rdPrompt d) = false ∧
        readBad (genRead s j) (rdPrompt d) 64 = false ∧ field (natAt s (rdPrompt d) 64) 448 64 = 0) ∧
    genBad base 1 (generating []) 1 0 0 0 = true := by decide +kernel

/-- A request of context 0 in its prefill, with its run or without. -/
def prefilling (dn : Nat) (r : Option GenRun) : GenReq :=
  { request 0 samplingBits (.prefill false dn) with desc := requestBits 3 false, main := mainBits, prompt := [0, 0], run := r }

/-- A run of both positions of the prompt, and the run of the model under way or ended. -/
def genRun : GenRun := ⟨false, 0, 2, some 1, [0], [1]⟩
def modelRun (ended : Bool) : Run := { runOf [stream] with ended := ended }

theorem witness_O55_runs :
    (let j := generating [2]; let g := prefilling 0 none; let s := { prompted [2] (requestBits 3 false) with gens := [(1, g)] };
      runsNow s 1 Op.GEN_RUN genRunSources j = true ∧ genTurn s 1 j.ctx = true ∧ tabGet s.gens 1 = some g ∧
        g.ctx = j.ctx ∧ g.outbox = [] ∧ g.run = none ∧ genNext g = some (false, 0, [0, 0], some 1) ∧
        pinnedDesc s (miEmb mainBits) 1 = some rowsBits ∧ (tabGet s.models (miModel mainBits)).isSome = true ∧
        (∀ r ∈ rowReads s rowsBits 0, readBad s r.1 r.2 = false) ∧
        readBad s (heap + 0x100000) 4256 = false ∧ alone s 1 j.ctx = true ∧
        claimable (ctxOf s j.ctx) [] (writesSlots (ctxOf s j.ctx) (genRunWrites s mainBits rowsBits 0 [0, 0] (some 1))) =
          true) := by decide +kernel

theorem witness_O55_ends :
    (∀ b ∈ [false, true], let j := generating [2]; let g := prefilling 0 (some genRun);
      let s := { prompted [2] (requestBits 3 false) with gens := [(1, g)], array := { runs := [(1, modelRun b)] } };
      runsNow s 1 Op.GEN_RUN genRunSources j = true ∧ genTurn s 1 j.ctx = true ∧ tabGet s.gens 1 = some g ∧
        g.run = some genRun ∧ moverDone (runIf g genRun) genRun = true ∧ tabGet s.array.runs 1 = some (modelRun b) ∧
        (∃ st ∈ (modelRun b).streams, st.count ≠ 0) ∧ s.perf.actor = none ∧
        claimable (ctxOf s j.ctx) (logitSlots (ctxOf s j.ctx) (runIf g genRun) (wantedLogits genRun)) [] = true ∧
        g.prompt.length ≤ 0 + genRun.count ∧ rdDraftLen g.desc = 0) := by decide +kernel

/-- A context that is being torn down and has nothing of its own left. -/
def leavingCtx : State := { base with ctxs := [(0, { placed with state := .tearingDown, quads := [] })] }

/-- A read of line 0x1000 for command 1, tagged with the generation of its context. -/
def pendingRead (f : ReadFor) (shared : Bool) : AedupRead := ⟨0x1000, shared, f, false, false, 0, 0⟩

/-- The device with a read outstanding under tag 5 and an open command 1. -/
def reading (opcode : Nat) (q : AedupRead) : State :=
  { at1 (cmd opcode 0 []) with aedup := { base.aedup with reads := [(5, q)] } }

theorem witness_O56_teardowns :
    (let s := leavingCtx; (ctxOf s 0).state = .tearingDown ∧ drained s 0 = true ∧ (tabKeys s.jobs).Pairwise (· < ·) ∧
      (tabKeys s.pelgan.links).Pairwise (· < ·) ∧ isEngine .cuff = true ∧ (ctxOf s 0).lastStatus ≠ Code.CTX_HUNG ∧
      blockAvailable s 3 = true ∧ chipWide .hem = true) ∧
    (let s := { leavingCtx with aedup := { base.aedup with reads := [(5, { pendingRead (.job 1) false with genTag := 1 })] } };
      drained s 0 = false) ∧
    (let s := { base with ctxs := [(0, { placed with watchdog := 4, dogCount := 4 })] };
      live (ctxOf s 0) = true ∧ (ctxOf s 0).watchdog ≠ 0 ∧ (ctxOf s 0).watchdog ≤ (ctxOf s 0).dogCount) ∧
    (let s := { base with ctxs := [(0, { placed with watchdog := 4, dogCount := 3 })] };
      (ctxOf s 0).dogCount < (ctxOf s 0).watchdog) ∧ (ctxOf base 0).state ≠ .tearingDown := by decide +kernel

theorem witness_O56_monitors :
    (let j := cmd Op.SEARCH 0 []; let s := at1 j;
      s.start ≠ .off ∧ isEngine .cuff = true ∧ tabGet s.jobs 1 = some j ∧ openJob j = true ∧
        engineServes .cuff j.opcode = true ∧ engineServes .veil j.opcode = false ∧ live (ctxOf s j.ctx) = true) ∧
    (∀ st ∈ [CtxState.tearingDown, .free, .faulted], let j := cmd Op.SEARCH 0 [];
      let s := { at1 j with ctxs := [(0, { placed with state := st })] };
      (ctxOf s j.ctx).state = st ∧ tabGet s.jobs 1 = some j ∧ openJob j = true) ∧
    (State.reset.start = .off ∧ isEngine .belt = true ∧ isOpen base 1 = false) ∧
    (blockAvailable base 1199 = true ∧ (11 : Nat) < 12) ∧
    (let s := { base with mem := { base.mem with channels := [(63, { up := true })] } };
      tabGet s.mem.channels 63 = some { up := true }) ∧
    ((MonitorUnit.mesh ∈ [MonitorUnit.regionSequencer, .mesh, .cloak]) ∧ (3 : Nat) ∉ base.chip.resetting) ∧
    (chipWide .recovery = true) := by decide +kernel

theorem witness_O56_resets :
    (3 : Nat) ∉ base.chip.resetting ∧
    (let s := { base with chip := { base.chip with resetting := [3], closed := [3] } };
      (3 : Nat) ∈ s.chip.resetting ∧ (3 : Nat) ∉ s.power.waking ∧ s.aedup.link.state = .active) ∧
    (let s := { base with
        chip := { base.chip with resetting := [3] }, power := { base.power with waking := [3] } };
      (3 : Nat) ∈ s.chip.resetting ∧ (3 : Nat) ∈ s.power.waking) ∧
    (let s := { setReg base (Key.PERF_CHIP_SELECT 7) 0x101 with perf := { base.perf with skid := [7] } };
      frozen s = false ∧ s.perf.skid.filter (fun k => selEvent (reg s (Key.PERF_CHIP_SELECT k)) == 0x101) = [7] ∧
        reg s (Key.PERF_SAMPLE_COUNT 4) - reg s (Key.PERF_SAMPLE_RELEASE 4) < 1024 ∧
        ∀ k ∈ s.perf.skid, selEvent (reg s (Key.PERF_CHIP_SELECT k)) ≠ 0x102) ∧
    frozen (setReg base Key.PERF_FREEZE 1) = true := by decide +kernel

/-- The Aedup link in a state, and a Pelgan link on port 95. -/
def aedupIn (st : LinkState) : State := { base with aedup := { base.aedup with link := { base.aedup.link with state := st } } }
def pelganIn (st : LinkState) : State :=
  { setReg base Key.PELGAN_LINK_ENABLE (2 ^ 96 - 1) with pelgan := { base.pelgan with links := [(95, { state := st })] } }

/-- A peer's capability that agrees: version 1, the flit feature and credits on each channel, of session 7; one of a
Pelgan peer of group 9 (Tables 16.3 and 17.2). -/
def goodAedup : Nat :=
  7 * 2 ^ 96 + 1 * 2 ^ 88 + 1 * 2 ^ 80 + 1 * 2 ^ 48 + 4 * 2 ^ 40 + 4 * 2 ^ 32 + 4 * 2 ^ 24 + 4 * 2 ^ 16 + 1
def goodPelgan (g : Nat) : Nat := g * 2 ^ 160 + 1 * 2 ^ 56 + 1 * 2 ^ 48 + 3 * 2 ^ 16 + 4 * 2 ^ 8

theorem witness_O57_training :
    (let s := aedupIn .down; (linkOf s .aedup).state = .down ∧ linkEnabled s .aedup = true) ∧
    (let s := pelganIn .down; (linkOf s (.pelgan 95)).state = .down ∧ linkEnabled s (.pelgan 95) = true ∧
      linkEnabled State.reset (.pelgan 95) = false ∧ linkEnabled s (.pelgan 96) = false) ∧
    (∀ st ∈ [LinkState.detect, .equalize, .align, .negotiate, .retrain, .active],
      (linkOf (aedupIn st) .aedup).state = st ∧ (linkOf (pelganIn st) (.pelgan 95)).state = st) ∧
    linkChoice (aedupIn .align) .aedup 0 0 = none ∧ linkChoice (aedupIn .align) .aedup 0xFFFF 0xFFFF = some (16, 200) ∧
    linkChoice (pelganIn .align) (.pelgan 95) 3 0 = some (2, 200) ∧
    linkChoice (pelganIn .align) (.pelgan 95) 0 0 = none := by decide +kernel

theorem witness_O57_aedup :
    (∀ st ∈ [LinkState.negotiate, .retrain], let s := aedupIn st;
      s.aedup.link.state = st ∧ aedupNegFails s 0 = true ∧ aedupNegFails s goodAedup = false ∧ s.dict.waiting = none ∧
        s.aedup.peerSession ≠ field goodAedup 96 32) ∧
    (let s := aedupIn .negotiate; let h : HeldCompletion := ⟨0x3000, 1, some 2⟩;
      ∀ hs ∈ [[], [h]], let t := { s with aedup := { s.aedup with peerSession := 7, held := hs } };
        t.aedup.peerSession = field goodAedup 96 32 ∧ t.aedup.held = hs ∧ ∀ p ∈ t.queues, p.2.draining = false) ∧
    (let q := pendingRead .dict true; let s := { base with aedup := { base.aedup with reads := [(5, q)] } };
      tabGet s.aedup.reads 5 = some q ∧ q.retried = false ∧ s.aedup.link.state = .active ∧
        ({ q with retried := true } : AedupRead).retried = true ∧ tabGet s.aedup.reads 6 = none) := by decide +kernel

theorem witness_O57_pelgan :
    (∀ st ∈ [LinkState.negotiate, .retrain], let s := pelganIn st;
      (linkOf s (.pelgan 95)).state = st ∧ pelganNegFails s 95 0 = true ∧ pelganNegFails s 95 (goodPelgan 9) = false) ∧
    (let s := pelganIn .negotiate; reg s Key.PELGAN_GROUP_ID = 0) ∧
    (let s := setReg (pelganIn .negotiate) Key.PELGAN_GROUP_ID 9;
      reg s Key.PELGAN_GROUP_ID ≠ 0 ∧ reg s Key.PELGAN_GROUP_ID = field (goodPelgan 9) 160 32 ∧
        reg s Key.PELGAN_GROUP_ID ≠ field (goodPelgan 8) 160 32) := by decide +kernel

/-- A flit header of a type, of a sequence number and of a link generation (Tables 16.5 and 17.3). -/
def header (ty seq gen : Nat) : Nat := seq * 2 ^ 86 + ty * 2 ^ 72 + gen * 2 ^ 66

theorem witness_O58_flits :
    takesFlits (linkOf (aedupIn .down) .aedup) = false ∧ takesFlits (linkOf (aedupIn .negotiate) .aedup) = true ∧
    (let e := { State.reset.aedup.link with state := .active, protect := true };
      takesFlits e = true ∧ tagged e (header 0 0 0) = true ∧ tagged e (header 1 0 0) = false ∧
        e.sealedIn + 1 < 2 ^ 48 ∧ 2 ^ 48 ≤ ({ e with sealedIn := 2 ^ 48 - 1 } : LinkEnd).sealedIn + 1) ∧
    (let e := linkOf (pelganIn .active) (.pelgan 95);
      field (header 0 0 1) 66 6 ≠ e.linkGen ∧ (∀ ty ∈ [2, 4, 5], field (header ty 0 0) 72 4 ∈ [2, 4, 5]) ∧
        field (header 0 1 0) 86 10 ≠ e.recvSeq ∧ field (header 3 0 0) 72 4 ∉ [0, 2, 4, 5] ∧
        field (header 3 0 0) 86 10 = e.recvSeq ∧ field (header 0 0 0) 72 4 = 0 ∧ field (header 0 0 0) 66 6 = e.linkGen) ∧
    (let e := { State.reset.aedup.link with state := .active, sendSeq := 3 };
      unacked (takeAck e 2) = 0 ∧ unacked (takeAck e 1) ≠ 0 ∧ (takeAck e 1).replays + 1 < 16 ∧ unacked e ≠ 0 ∧
        16 ≤ (takeAck { e with replays := 15 } 1023).replays + 1) ∧
    (let s := aedupIn .retrain; linkEnabled s .aedup = true ∧ linkChoice s .aedup 0xFFFF 0 = some (16, 100) ∧
      s.dict.waiting = none ∧ linkChoice s .aedup 0 0 = none ∧ unacked (linkOf s .aedup) = 0) ∧
    (let s := { setReg (aedupIn .retrain) Key.SEC_LINK_SLOT 0 with sec := { base.sec with slots := [(0, ⟨1, 1⟩)] } };
      let t := { s with aedup := { s.aedup with link := { s.aedup.link with protect := true, sendSeq := 3 } } };
      (linkOf t .aedup).protect = true ∧ (linkSlot t .aedup).isSome = true ∧ unacked (linkOf t .aedup) ≠ 0) := by
  decide +kernel

theorem witness_O58_replies :
    (let q := pendingRead (.job 1) false; let s := reading Op.NOP q;
      s.aedup.link.state = .active ∧ tabGet s.aedup.reads 5 = some q ∧ dictFree s = true ∧ q.for_ = .job 1 ∧
        (ctxOf s q.ctx).genTag = q.genTag ∧ openJob (cmd Op.NOP 0 []) = true ∧ tellsWhere Op.NOP = false ∧
        tellsWhere Op.TOPK = true ∧ tabGet s.jobs 1 = some (cmd Op.NOP 0 [])) ∧
    (let q := { pendingRead (.job 1) false with genTag := 1 }; let s := reading Op.NOP q;
      (ctxOf s q.ctx).genTag ≠ q.genTag) ∧
    (let r : Request := ⟨.mailbox, 1, 0, 1, 0, 1, Key.ID_SERIAL, 0, 8, 0⟩; let q := pendingRead .dict true;
      let s := { reading Op.NOP q with dict := { base.dict with waiting := some (r, 0x1000) } };
      q.for_ = .dict ∧ s.dict.backlog = [] ∧ s.dict.waiting = some (r, 0x1000) ∧ tabGet s.aedup.reads 5 = some q) ∧
    (let q := pendingRead (.table 1) true; q.for_ = .table 1 ∨ q.for_ = .ring 1) := by decide +kernel

theorem witness_O58_mmio :
    base.aedup.link.state = .active ∧ State.reset.aedup.link.state ≠ .active ∧
    (∀ p ∈ [(0x018, 1), (0x0FC, 1), (0x1000, 1), (0x104000, 1), (0x100000, 2), (0x002, 1), (0x004, 2)],
      mmioBad p.1 p.2 = true) ∧
    (∀ p ∈ [(0x000, 2), (0x008, 2), (0x00C, 1), (0x010, 1), (0x014, 1), (0x100, 1), (0xFFC, 1), (0x100000, 1),
        (0x100008, 1), (0x103FF8, 1)], mmioBad p.1 p.2 = false) ∧
    0x100000 + 16 * 1023 + 8 = 0x103FF8 := by decide +kernel

/-- The mailbox holds a read of a key, 8 bytes long (Table 16.9). -/
def asked (key : Nat) : State :=
  { base with dict := { base.dict with
    mailbox := memWrite [] 0 (leBytes 8 (key * 2 ^ 40 + 1 * 2 ^ 32 + 8 * 2 ^ 16 + 1)) } }

theorem witness_O58_mailbox :
    (let s := asked 0; s.dict.mailboxBusy = false ∧ dictFree s = true ∧
      (checkRequest s (mailboxRequest s 1)).1 ≠ Code.OK) ∧
    (let s := asked Key.ID_SERIAL; let q := mailboxRequest s 1;
      (checkRequest s q).1 = Code.OK ∧ q.op = 1 ∧ derived s q.key = none ∧ openEntry s q.key = false ∧
        q.key / 256 ∉ [0xF032, 0xF041] ∧ (checkRequest s q).2.ty ≠ .str ∧ q.length ≠ 0) ∧
    (1 : Nat) % 2 ^ 32 ≠ 0 := by decide +kernel

/-- Device 1 of the group, in job 0 of generation 3 with device 0, with context 0 bound to it. -/
def member : State :=
  { setReg (setReg grouped (Key.PELGAN_JOB 0) (jobBits 1 3)) Key.PELGAN_CTX_JOB (2 ^ 65536 - 2 ^ 16) with
    ctxs := [(0, placed)]
    mem := { base.mem with objects := [(0x1000000, ⟨0x200000, 0, 0, false⟩), (0x400000, ⟨0x400000, 2, 0, false⟩)] } }

theorem witness_O59_election :
    (groupLink grouped 0 = true ∧ groupLink grouped 95 = false ∧ grouped.pelgan.excluded ≠ some 7 ∧
      better (255, 7) (bestCandidate grouped) = true ∧ better (0, 0) (bestCandidate grouped) = false ∧
      meetsManager grouped 0 7 = false ∧
      meetsManager (setReg grouped Key.PELGAN_MANAGER_SERIAL 9) (7 * 2 ^ 80) 7 = true) ∧
    mayDeclare base = false ∧
    (∀ r ∈ [0, 1], let s := setReg grouped Key.HEM_ROLE r; mayDeclare s = true ∧ reg s Key.HEM_ROLE = r) ∧
    (let ns := formationNumbers (treeOf 2 [(0, 5, 1, 6)]) [(0, 5, 1, 6)] 2;
      numberIn ns 1 ≠ 0xFFFF ∧
        (shortestRoutes (treeOf 2 [(0, 5, 1, 6)]) [(0, 5, 1, 6)] ns 0 1).head?.isSome = true) ∧
    (∀ m ∈ [0, 7, 9], let s := setReg grouped Key.PELGAN_MANAGER_SERIAL m;
      groupLink s 0 = true ∧ reg s Key.PELGAN_MANAGER_SERIAL = m) := by decide +kernel

/-- The header of a message at its first hop, whose route names a port (Table 17.5). -/
def routed (port hop : Nat) : Nat := port * 2 ^ 24 + hop * 2 ^ 80

/-- An access descriptor: space, address, offset and length (Table 17.7). -/
def access (space addr offset n : Nat) : Nat := addr * 2 ^ 64 + offset * 2 ^ 56 + n * 2 ^ 48 + space * 2 ^ 44

theorem witness_O59_messages :
    (∀ p ∈ [0, 95, 127], field (routed p 0) (24 + 7 * field (routed p 0) 80 4) 7 = p) ∧ field (routed 0 8) 80 4 = 8 ∧
    (jobMessageOk member 0 0 3 = true ∧ jobMessageOk member 0 0 4 = false ∧ jobMessageOk member 2 0 3 = false ∧
      jobMessageOk member 0 255 3 = false) ∧
    (accessRefused member 0 (access 0 0x1000000 0 128) = false ∧ adSpace (access 0 0x1000000 0 128) = 0 ∧
      readBad member 0x1000000 128 = false ∧ isReady (prepareWrite member 0x1000000 128) = true ∧
      accessRefused member 0 (access 0 0x11FFFFF 0 2) = true ∧ accessRefused member 0 (access 2 0 0 1) = true) ∧
    (let s := { member with mem := { member.mem with poison := [0x1000000 / 128] } }; readBad s 0x1000000 128 = true) ∧
    (∀ st ∈ [0, 4], let s := setReg member Key.FLASH_STATE st;
      accessRefused s 0 (access 0 0x400000 0 128) = false ∧ isReady (prepareWrite s 0x400000 128) = false) ∧
    (let d := access 1 5 128 128;
      adSpace d = 1 ∧ accessRefused member 0 d = false ∧ pocketTarget member 0 d = some (0, 0, 5) ∧
        accessRefused member 0 (access 1 5 129 128) = true ∧ pocketHeld member (ctxOf member 0) 0 = false ∧
        claimable (ctxOf member 0) (rowSlots member 0 0 5) [] = true ∧
        claimable (ctxOf member 0) [] (rowSlots member 0 0 5) = true) := by decide +kernel

/-- A remote access of command 1 under tag 5, and the device that waits for its reply. -/
def remote : RemoteReq := ⟨1, 0, 0, 2, false, 0, 8, 0⟩
def awaiting (j : Job) (gen : Nat) : State :=
  { at1 j with pelgan := { base.pelgan with requests := [(5, { remote with genTag := gen })] } }

/-- A running search of device 1 across the group, under tag 6. -/
def spanned (left : Nat) : State :=
  { member with
    jobs := [(1, cmd Op.SEARCH 0 [])]
    queries := [(1, { query with span := some ⟨0, 3, 6, left, [], none⟩ })] }

theorem witness_O59_replies :
    (let j := cmd Op.PACK 0 []; let s := awaiting j 0;
      tabGet s.pelgan.requests 5 = some remote ∧ (ctxOf s remote.ctx).genTag = remote.genTag ∧
        tabGet s.jobs remote.job = some j ∧ openJob j = true ∧ tabGet s.pelgan.requests 6 = none) ∧
    (let s := awaiting (cmd Op.PACK 0 []) 1; (ctxOf s 0).genTag ≠ 1 ∧ tabGet s.pelgan.requests 5 = some { remote with genTag := 1 }) ∧
    (let s := { awaiting owner 0 with jobs := [] }; tabGet s.jobs remote.job = none) ∧
    (let s := awaiting { owner with phase := .done Code.OK 0 } 0;
      ∀ p ∈ s.jobs, openJob p.2 = false) ∧
    (∀ n ∈ [1, 2], let s := spanned n;
      jobMessageOk s 0 0 3 = true ∧ ownDevice s = 1 ∧ spanQuery s 0 6 = some (1, { query with span := some ⟨0, 3, 6, n, [], none⟩ }) ∧
        spanQuery s 0 7 = none ∧ (ctxOf s 0).leaving = false) ∧
    (mergedPass ⟨0, 3, 6, 1, [], none⟩ Code.OK [] true).left = 0 := by decide +kernel

/-- An abort flit of job 0, of a generation, with cause 5 and origin 2, in formation 0 (Table 17.9). -/
def abortOf (gen : Nat) : Nat := 0 * 2 ^ 116 + gen * 2 ^ 108 + 2 * 2 ^ 96 + 5 * 2 ^ 80

theorem witness_O60_aborts :
    newAbort member 0 (abortOf 3) = true ∧ abortConcerns member (abortOf 3) = true ∧
    newAbort member 0 (abortOf 4) = true ∧ abortConcerns member (abortOf 4) = false ∧
    newAbort member 95 (abortOf 3) = false ∧
    newAbort { member with pelgan := { member.pelgan with seen := [(0, 3)] } } 0 (abortOf 3) = false ∧
    ctxOfJob member 0 = some 0 ∧ standing (ctxOf member 0) = true ∧ ctxOfJob { member with ctxs := [] } 0 = none ∧
    sealsLeft member = true := by decide +kernel

/-- A management header of an operation and a message number (Table 18.8). -/
def asks (op number length : Nat) : Nat := number * 2 ^ 96 + op * 2 ^ 64 + length * 2 ^ 16 + 1

theorem witness_O60_paths :
    (let s := setReg grouped Key.HEM_ROLE 2;
      s.pelgan.links.any (fun l => l.2.state == .active) = true ∧ isWorker s = true ∧ isWorker grouped = false) ∧
    base.pelgan.links.any (fun l => l.2.state == .active) = false ∧
    (∀ r ∈ [1, 2], reg (setReg base Key.HEM_ROLE r) Key.HEM_ROLE = r) ∧
    pathOpen base .mgmt = true ∧ pathOpen State.reset .mgmt = false ∧
    (let a := 0x3FA * 2 ^ 118 + 9;
      datagramBad a true 16 (asks 1 4 8) = false ∧ datagramBad a true 24 (asks 2 4 8) = false ∧
        datagramBad a true 16 (asks 2 4 8) = true ∧ datagramBad a true 17 (asks 1 4 8) = true ∧
        datagramBad a true 15 (asks 1 4 8) = true ∧ datagramBad 9 true 16 (asks 1 4 8) = true ∧
        datagramBad a false 16 (asks 1 4 8) = true ∧ datagramBad a true 16 (asks 3 4 8) = true ∧
        base.dict.replay.find? (fun p => p.1 == a && p.2.1 == field (asks 1 4 8) 96 32) = none ∧
        (let p : Nat × Nat × Reply := (a, 4, ⟨.mgmt, 4, a, 1, Key.ID_SERIAL, 0, 0, 8, 0⟩);
          let s := { base with dict := { base.dict with replay := [p] } };
          s.dict.replay.find? (fun p => p.1 == a && p.2.1 == field (asks 1 4 8) 96 32) = some p)) := by decide +kernel

/-! ### Steps -/

/-- The start-up state after one step, and how many commands still wait. -/
def after (s : State) : Option (StartState × Nat) :=
  match step s with
  | .next t => some (t.start, t.pending.length)
  | _ => none

/-- POWER_ON takes the device from OFF to POWER_GOOD (R391). -/
theorem test_step_powerOn :
    after { State.reset with pending := [.powerOn, .ackStall .aedup] } = some (.powerGood, 1) := by decide +kernel

/-- An empty queue idles (log entry 2). -/
theorem test_step_idle : after State.reset = some (.off, 0) := by decide +kernel

/-- A bad EEPROM CRC keeps the device in POWER_GOOD with the fatal output asserted (R392). -/
theorem test_step_eepromBad :
    (match step { early .powerGood with
        power := { base.power with reading := true }, pending := [.eepromRead false] } with
      | .next t => some (t.start, t.fatal)
      | _ => none) = some (.powerGood, true) := by decide +kernel

end

end Sys2Proof.Tests
end

/-! SUPPORT. Bytes of Pockets: what a write of part of a row changes, what a pass over rows, cells or blocks leaves, and
with these what the Pocket commands and remote access do (chapter 7). -/

namespace Sys2Proof.Machine

/-! ### What a fold leaves of one observation -/

/-- What no step changes, the fold does not change. -/
theorem foldl_keeps_obs {α β : Type} (obs : State → β) (f : State → α → State) (l : List α)
    (h : ∀ t, ∀ x ∈ l, obs (f t x) = obs t) (s : State) : obs (l.foldl f s) = obs s :=
  List.foldlRecOn l f (motive := fun t => obs t = obs s) rfl (fun t ht x hx => (h t x hx).trans ht)

/-- Where every step gives one value or changes nothing, and some step gives the value, the fold gives it. -/
theorem foldl_settles_obs {α β : Type} (obs : State → β) (f : State → α → State) (v : β) (l : List α)
    (h : ∀ t, ∀ x ∈ l, obs (f t x) = v ∨ obs (f t x) = obs t) {x : α} (hx : x ∈ l) (hv : ∀ t, obs (f t x) = v) (s : State) :
    obs (l.foldl f s) = v := by
  obtain ⟨l₁, l₂, rfl⟩ := List.append_of_mem hx
  rw [List.foldl_append, List.foldl_cons]
  refine List.foldlRecOn l₂ f (motive := fun t => obs t = v) (hv _) (fun t ht y hy => ?_)
  rcases h t y (by simp [hy]) with e | e
  · exact e
  · exact e.trans ht

/-- One step of a fold copies what it finds at `src` to `dst`, and the others touch neither: the fold copies it. -/
theorem foldl_copies_obs {α β : Type} (src dst : State → β) (f : State → α → State) {x : α} (hc : ∀ t, dst (f t x) = src t)
    (l : List α) (hn : l.Nodup) (hx : x ∈ l) (hs : ∀ t, ∀ y ∈ l, y ≠ x → src (f t y) = src t)
    (hd : ∀ t, ∀ y ∈ l, y ≠ x → dst (f t y) = dst t) (s : State) : dst (l.foldl f s) = src s := by
  obtain ⟨l₁, l₂, rfl⟩ := List.append_of_mem hx
  obtain ⟨-, hn₂, hne⟩ := List.nodup_append.1 hn
  have h₁ : ∀ y ∈ l₁, y ≠ x := fun y hy => hne y hy x (by simp)
  have h₂ : ∀ y ∈ l₂, y ≠ x := fun y hy e => (List.nodup_cons.1 hn₂).1 (e ▸ hy)
  rw [List.foldl_append, List.foldl_cons,
    foldl_keeps_obs dst f l₂ (fun t y hy => hd t y (by simp [hy]) (h₂ y hy)), hc,
    foldl_keeps_obs src f l₁ (fun t y hy => hs t y (by simp [hy]) (h₁ y hy))]

/-! ### Reads after writes of part of a row -/

theorem pocketRead_congr {s t : State} (h : t.pocket = s.pocket) (b row byte n : Nat) :
    pocketRead t b row byte n = pocketRead s b row byte n := by unfold pocketRead; rw [h]

/-- Bytes of a Pocket read where they have been written. -/
theorem pocketRead_pocketWrite (s : State) (b row byte : Nat) {bs : List Nat} (h : ∀ x ∈ bs, x < 256) :
    pocketRead (pocketWrite s b row byte bs) b row byte bs.length = bs := memBytes_memWrite _ _ _ h

theorem pocketRead_lbWrite (s : State) (x : Ctx) {lb b : Nat} (row byte : Nat) {bs : List Nat} (hb : physBlock x lb = some b)
    (h : ∀ y ∈ bs, y < 256) : pocketRead (lbWrite s x lb row byte bs) b row byte bs.length = bs := by
  unfold lbWrite; rw [hb]; exact pocketRead_pocketWrite s b row byte h

/-- A write inside a row of a logical block changes no byte of another block or row, and none beside it in the row. -/
theorem memByte_lbWrite_out (s : State) (x : Ctx) (lb row byte : Nat) (bs : List Nat) {b r c : Nat} (hrow : row < 16384)
    (hfit : byte + bs.length ≤ 256) (hr : r < 16384) (hc : c < 256)
    (h : physBlock x lb ≠ some b ∨ r ≠ row ∨ c < byte ∨ byte + bs.length ≤ c) :
    memByte (lbWrite s x lb row byte bs).pocket (pocketAddr b r c) = memByte s.pocket (pocketAddr b r c) := by
  unfold lbWrite
  split
  · next d hd =>
    refine memByte_memWrite_out _ _ _ ?_
    rw [hd] at h
    have hbd : d ≠ b ∨ r ≠ row ∨ c < byte ∨ byte + bs.length ≤ c := h.imp_left fun k e => k (by rw [e])
    unfold pocketAddr pocketBytes
    omega
  · rfl

/-- The same of bytes that are read together. -/
theorem pocketRead_lbWrite_out (s : State) (x : Ctx) (lb row byte : Nat) (bs : List Nat) {b r c n : Nat} (hrow : row < 16384)
    (hfit : byte + bs.length ≤ 256) (hr : r < 16384) (hc : c + n ≤ 256)
    (h : physBlock x lb ≠ some b ∨ r ≠ row ∨ c + n ≤ byte ∨ byte + bs.length ≤ c) :
    pocketRead (lbWrite s x lb row byte bs) b r c n = pocketRead s b r c n := by
  refine memBytes_congr' fun k hk hk' => ?_
  obtain ⟨i, rfl⟩ := Nat.exists_eq_add_of_le hk
  have ha : pocketAddr b r c + i = pocketAddr b r (c + i) := by unfold pocketAddr; omega
  rw [ha]
  refine memByte_lbWrite_out s x lb row byte bs hrow hfit hr (by omega) ?_
  rcases h with h | h | h | h
  · exact .inl h
  · exact .inr (.inl h)
  all_goals omega

theorem memWrite_append (m : Mem) (a : Nat) (xs ys : List Nat) :
    memWrite m a (xs ++ ys) = memWrite (memWrite m a xs) (a + xs.length) ys := by
  induction xs generalizing m a with
  | nil => rfl
  | cons x xs ih => rw [List.cons_append, memWrite, ih, memWrite, List.length_cons, Nat.add_right_comm, Nat.add_assoc]

/-- Words written side by side: each reads as the word. -/
theorem memBytes_memWrite_replicate (m : Mem) (a n k : Nat) (w : List Nat) (hw : ∀ x ∈ w, x < 256) (hk : k < n) :
    memBytes (memWrite m a (List.replicate n w).flatten) (a + w.length * k) w.length = w := by
  induction n generalizing m a k with
  | zero => omega
  | succ n ih =>
    rw [List.replicate_succ, List.flatten_cons, memWrite_append]
    cases k with
    | zero =>
      refine Eq.trans (memBytes_congr' fun i _ hi => ?_) (memBytes_memWrite m a w hw)
      exact memByte_memWrite_out _ _ _ (.inl (by simpa using hi))
    | succ k =>
      have e : a + w.length * (k + 1) = a + w.length + w.length * k := by rw [Nat.mul_succ]; omega
      rw [e]
      exact ih _ _ _ (by omega)

/-! ### Work on Pockets -/

/-- Only Pockets and counters differ. -/
structure PocketWork (s t : State) : Prop where
  calm : Calm s t
  acc : t.acc = s.acc

theorem PocketWork.refl (s : State) : PocketWork s s := ⟨.refl s, rfl⟩

theorem PocketWork.trans {s t u : State} (h : PocketWork s t) (k : PocketWork t u) : PocketWork s u :=
  ⟨h.calm.trans k.calm, k.acc.trans h.acc⟩

theorem Still.pocketWork {s t : State} (h : Still s t) : PocketWork s t := ⟨h.calm, h.acc⟩

theorem pocketWork_lbWrite (s : State) (x : Ctx) (lb row byte : Nat) (bs : List Nat) :
    PocketWork s (lbWrite s x lb row byte bs) := by
  unfold lbWrite
  split
  · exact ⟨calm_pocketWrite .., rfl⟩
  · exact .refl s

theorem pocketWork_foldl {α : Type} (f : State → α → State) (l : List α) (h : ∀ t x, PocketWork t (f t x)) (s : State) :
    PocketWork s (l.foldl f s) :=
  ⟨calm_foldl f l (fun t x _ => (h t x).calm) s, foldl_keeps_obs State.acc f l (fun t x _ => (h t x).acc) s⟩

/-- A command that has worked on Pockets ends: its outcome stands, and beside the Pockets nothing of others differs. -/
theorem pocketWork_end {s u : State} {id : Nat} {j : Job} (st r : Nat) (w : PocketWork s u)
    (hj : tabGet s.jobs id = some j) :
    ends (unacted (finish u id st r)) id st r ∧ (unacted (finish u id st r)).pocket = u.pocket ∧
      (unacted (finish u id st r)).acc = s.acc ∧ (unacted (finish u id st r)).mem = s.mem ∧
      Beside s (unacted (finish u id st r)) id j.ctx := by
  have hu : tabGet u.jobs id = some j := by rw [w.calm.jobs]; exact hj
  exact ⟨ends_end st r hu, by simp, by simp [w.acc], by simp [w.calm.mem], beside_end (w.calm.beside id j.ctx) hu⟩

/-- That a command's events are counted for its context is no other work. -/
theorem pocketWork_actor (s : State) (j : Job) : PocketWork s (acting s j) := by
  refine ⟨?_, rfl⟩
  constructor
  case settings => exact fun _ _ => rfl
  all_goals rfl

theorem pocketWork_acting {s u : State} {j : Job} (w : PocketWork (acting s j) u) : PocketWork s u :=
  (pocketWork_actor s j).trans w

/-! ### POCKET_FILL (R160) -/

/-- One row of a rectangle filled with a pattern. -/
def fillRow (e : Nat) (x : Ctx) (lb : Nat) (t : State) (i : Nat) : State :=
  lbWrite (countStray t x lb portBelt (pkRow e + i)) x lb (pkRow e + i) (4 * pkWord e)
    (List.replicate (pkWords e) (leBytes 4 (pkPattern e))).flatten

theorem fillBlock_eq (e : Nat) (x : Ctx) (s : State) (lb : Nat) :
    fillBlock e x s lb = (List.range (pkRows e)).foldl (fillRow e x lb) s := rfl

theorem fillWords_length (e : Nat) : (List.replicate (pkWords e) (leBytes 4 (pkPattern e))).flatten.length = 4 * pkWords e := by
  simp [Nat.mul_comm]

theorem pocketWork_fillRow (e : Nat) (x : Ctx) (lb : Nat) (t : State) (i : Nat) : PocketWork t (fillRow e x lb t i) :=
  (still_countStray t x lb _ (by decide)).pocketWork.trans (pocketWork_lbWrite ..)

theorem pocketWork_fillBlock (e : Nat) (x : Ctx) (s : State) (lb : Nat) : PocketWork s (fillBlock e x s lb) :=
  pocketWork_foldl _ _ (fun t i => pocketWork_fillRow e x lb t i) s

/-- A filled row holds the pattern in each of its words. -/
theorem pocketRead_fillRow {e : Nat} {x : Ctx} {lb b i k : Nat} (hb : physBlock x lb = some b) (hk : k < pkWords e) (t : State) :
    pocketRead (fillRow e x lb t i) b (pkRow e + i) (4 * (pkWord e + k)) 4 = leBytes 4 (pkPattern e) := by
  have h := memBytes_memWrite_replicate (countStray t x lb portBelt (pkRow e + i)).pocket
    (pocketAddr b (pkRow e + i) (4 * pkWord e)) (pkWords e) k (leBytes 4 (pkPattern e)) (leBytes_lt _ _) hk
  have ha : pocketAddr b (pkRow e + i) (4 * (pkWord e + k)) = pocketAddr b (pkRow e + i) (4 * pkWord e) + 4 * k := by
    unfold pocketAddr; omega
  rw [leBytes_length] at h
  unfold fillRow lbWrite
  rw [hb]
  unfold pocketRead
  rw [ha]
  exact h

section fill

variable {e : Nat} (hw : pkWord e + pkWords e ≤ 64) (hr : pkRow e + pkRows e ≤ 16384)

include hw hr

/-- A word of another block, or of another row, stays as it was when a row is filled. -/
theorem pocketRead_fillRow_out {x : Ctx} {lb b i r c : Nat} (hi : i < pkRows e) (hr' : r < 16384) (hc : c + 4 ≤ 256)
    (h : physBlock x lb ≠ some b ∨ r ≠ pkRow e + i) (t : State) :
    pocketRead (fillRow e x lb t i) b r c 4 = pocketRead t b r c 4 := by
  have hl := fillWords_length e
  exact (pocketRead_lbWrite_out _ x lb _ _ _ (by omega) (by omega) hr' hc (h.imp_right .inl)).trans
    (pocketRead_congr (still_countStray t x lb _ (by decide)).pocket b r c 4)

/-- A byte outside the rectangle stays as it was when a row is filled. -/
theorem memByte_fillRow_out {x : Ctx} {lb b i row byte : Nat} (hi : i < pkRows e) (hrow : row < 16384) (hbyte : byte < 256)
    (h : physBlock x lb ≠ some b ∨ row < pkRow e ∨ pkRow e + pkRows e ≤ row ∨ byte < 4 * pkWord e ∨
      4 * (pkWord e + pkWords e) ≤ byte) (t : State) :
    memByte (fillRow e x lb t i).pocket (pocketAddr b row byte) = memByte t.pocket (pocketAddr b row byte) := by
  have hl := fillWords_length e
  refine (memByte_lbWrite_out _ x lb _ _ _ (by omega) (by omega) hrow hbyte ?_).trans
    (by rw [(still_countStray t x lb _ (by decide)).pocket])
  rcases h with h | h
  · exact .inl h
  · right; omega

/-- A filled block holds the pattern in every word of the rectangle. -/
theorem pocketRead_fillBlock {x : Ctx} {lb b i k : Nat} (hb : physBlock x lb = some b) (hi : i < pkRows e)
    (hk : k < pkWords e) (t : State) :
    pocketRead (fillBlock e x t lb) b (pkRow e + i) (4 * (pkWord e + k)) 4 = leBytes 4 (pkPattern e) := by
  rw [fillBlock_eq]
  refine foldl_settles_obs (fun t => pocketRead t b (pkRow e + i) (4 * (pkWord e + k)) 4) _ _ _ (fun t y hy => ?_)
    (List.mem_range.2 hi) (fun t => pocketRead_fillRow hb hk t) t
  by_cases hy' : y = i
  · subst hy'; exact .inl (pocketRead_fillRow hb hk t)
  · exact .inr (pocketRead_fillRow_out hw hr (List.mem_range.1 hy) (by omega) (by omega) (.inr (by omega)) t)

theorem pocketRead_fillBlock_out {x : Ctx} {lb b r c : Nat} (h : physBlock x lb ≠ some b) (hr' : r < 16384)
    (hc : c + 4 ≤ 256) (t : State) : pocketRead (fillBlock e x t lb) b r c 4 = pocketRead t b r c 4 :=
  foldl_keeps_obs (fun t => pocketRead t b r c 4) _ _
    (fun t _ hi => pocketRead_fillRow_out hw hr (List.mem_range.1 hi) hr' hc (.inl h) t) t

theorem pocketRead_fillBlocks {x : Ctx} {l : List Nat} {lb b i k : Nat} (hl : lb ∈ l) (hb : physBlock x lb = some b)
    (hi : i < pkRows e) (hk : k < pkWords e) (s : State) :
    pocketRead (l.foldl (fillBlock e x) s) b (pkRow e + i) (4 * (pkWord e + k)) 4 = leBytes 4 (pkPattern e) := by
  refine foldl_settles_obs (fun t => pocketRead t b (pkRow e + i) (4 * (pkWord e + k)) 4) _ _ _ (fun t y _ => ?_) hl
    (fun t => pocketRead_fillBlock hw hr hb hi hk t) s
  by_cases hy : physBlock x y = some b
  · exact .inl (pocketRead_fillBlock hw hr hy hi hk t)
  · exact .inr (pocketRead_fillBlock_out hw hr hy (by omega) (by omega) t)

theorem memByte_fillBlocks_out {x : Ctx} {l : List Nat} {b row byte : Nat} (hrow : row < 16384) (hbyte : byte < 256)
    (h : (∀ lb ∈ l, physBlock x lb ≠ some b) ∨ row < pkRow e ∨ pkRow e + pkRows e ≤ row ∨ byte < 4 * pkWord e ∨
      4 * (pkWord e + pkWords e) ≤ byte) (s : State) :
    memByte (l.foldl (fillBlock e x) s).pocket (pocketAddr b row byte) = memByte s.pocket (pocketAddr b row byte) :=
  foldl_keeps_obs (fun t => memByte t.pocket (pocketAddr b row byte)) _ _ (fun t lb hlb =>
    foldl_keeps_obs (fun t => memByte t.pocket (pocketAddr b row byte)) _ _ (fun t _ hi =>
      memByte_fillRow_out hw hr (List.mem_range.1 hi) hrow hbyte (h.imp_left fun k => k lb hlb) t) t) s

end fill

theorem exec_pocketFill {s : State} {id : Nat} {j : Job} (h : runsNow s id Op.POCKET_FILL noSources j = true) :
    exec (.pocketFill id) s = .next (unacted (finish ((pkBlocks j.entry).foldl (fillBlock j.entry (ctxOf s j.ctx)) (acting s j))
      id Code.OK (pkVbCount j.entry * pkRows j.entry * pkWords j.entry))) := runJob_next h rfl

/-! ### POCKET_COPY (R161) -/

/-- The row and the word column at which a copy puts the word of a row and column of its source. -/
def copyRow (e i k : Nat) : Nat := pkRow e + if pkTranspose e then k else i
def copyWord (e i k : Nat) : Nat := pkWord e + if pkTranspose e then i else k

/-- The words of a source rectangle, each with its row and column. -/
def copyCells (e : Nat) (x : Ctx) (s : State) (lb : Nat) : List (Nat × Nat × List Nat) :=
  ((List.range (pkRows e)).map (fun i => (List.range (pkWords e)).map (fun k =>
    (i, k, lbRead s x lb (pkSrcRow e + i) (4 * (pkSrcWord e + k)) 4)))).flatten

/-- One word of a copy put in its place. -/
def copyCell (e : Nat) (x : Ctx) (lb : Nat) (t : State) (c : Nat × Nat × List Nat) : State :=
  lbWrite t x lb (copyRow e c.1 c.2.1) (4 * copyWord e c.1 c.2.1) c.2.2

/-- The state in which a copy has counted its strays. -/
def copyCounted (e : Nat) (x : Ctx) (s : State) (lb : Nat) : State :=
  countStrays (countStrays s x lb portBelt (pkSrcRow e) (pkRows e)) x lb portBelt (pkRow e) (copyShape e).1

theorem copyBlock_eq (e : Nat) (x : Ctx) (s : State) (lb : Nat) :
    copyBlock e x s lb = (copyCells e x s lb).foldl (copyCell e x lb) (copyCounted e x s lb) := by
  unfold copyBlock
  refine congrArg (fun f => (copyCells e x s lb).foldl f (copyCounted e x s lb)) ?_
  funext t c
  unfold copyCell copyRow copyWord
  split <;> rfl

theorem still_copyCounted (e : Nat) (x : Ctx) (s : State) (lb : Nat) : Still s (copyCounted e x s lb) :=
  (still_countStrays s x lb _ _ (by decide)).trans (still_countStrays _ x lb _ _ (by decide))

theorem mem_copyCells {e : Nat} {x : Ctx} {s : State} {lb : Nat} {c : Nat × Nat × List Nat} :
    c ∈ copyCells e x s lb ↔ ∃ i < pkRows e, ∃ k < pkWords e,
      c = (i, k, lbRead s x lb (pkSrcRow e + i) (4 * (pkSrcWord e + k)) 4) := by
  simp only [copyCells, List.mem_flatten, List.mem_map, List.mem_range]
  constructor
  · rintro ⟨_, ⟨i, hi, rfl⟩, hc⟩
    obtain ⟨k, hk, rfl⟩ := List.mem_map.1 hc
    exact ⟨i, hi, k, List.mem_range.1 hk, rfl⟩
  · rintro ⟨i, hi, k, hk, rfl⟩
    exact ⟨_, ⟨i, hi, rfl⟩, List.mem_map.2 ⟨k, List.mem_range.2 hk, rfl⟩⟩

theorem memByte_lt (m : Mem) (a : Nat) : memByte m a < 256 := ((tabGet m a).getD 0).isLt

theorem memBytes_lt (m : Mem) (a n : Nat) : ∀ b ∈ memBytes m a n, b < 256 := by
  induction n generalizing a with
  | zero => simp [memBytes]
  | succ n ih =>
    intro b hb
    rcases List.mem_cons.1 hb with rfl | hb
    · exact memByte_lt m a
    · exact ih (a + 1) b hb

theorem lbRead_of_physBlock {x : Ctx} {lb b : Nat} (h : physBlock x lb = some b) (s : State) (row byte n : Nat) :
    lbRead s x lb row byte n = pocketRead s b row byte n := by unfold lbRead; rw [h]

theorem lbRead_length (s : State) (x : Ctx) (lb row byte n : Nat) : (lbRead s x lb row byte n).length = n := by
  unfold lbRead
  split
  · exact memBytes_length _ _ _
  · exact List.length_replicate

theorem pocketWork_copyBlock (e : Nat) (x : Ctx) (s : State) (lb : Nat) : PocketWork s (copyBlock e x s lb) := by
  rw [copyBlock_eq]
  exact (still_copyCounted e x s lb).pocketWork.trans
    (pocketWork_foldl _ _ (fun t c => pocketWork_lbWrite t x lb _ _ _) _)

/-- The place of a word of a copy lies in the destination rectangle. -/
theorem copyPlace_lt {e i k : Nat} (hi : i < pkRows e) (hk : k < pkWords e) :
    copyRow e i k < pkRow e + (copyShape e).1 ∧ copyWord e i k < pkWord e + (copyShape e).2 := by
  unfold copyRow copyWord copyShape
  cases pkTranspose e <;> simp <;> omega

/-- Different words of the source have different places. -/
theorem copyPlace_ne {e i k i' k' : Nat} (h : ¬ (i' = i ∧ k' = k)) :
    copyRow e i k ≠ copyRow e i' k' ∨ copyWord e i k ≠ copyWord e i' k' := by
  unfold copyRow copyWord
  cases pkTranspose e <;> simp <;> omega

section copy

variable {e : Nat} (hrow : pkRow e + (copyShape e).1 ≤ 16384) (hword : pkWord e + (copyShape e).2 ≤ 64)

include hrow hword

/-- A copy in a block leaves every word of another block. -/
theorem pocketRead_copyBlock_other {x : Ctx} {lb b r c : Nat} (h : physBlock x lb ≠ some b) (hr : r < 16384)
    (hc : c + 4 ≤ 256) (s : State) : pocketRead (copyBlock e x s lb) b r c 4 = pocketRead s b r c 4 := by
  rw [copyBlock_eq, ← pocketRead_congr (still_copyCounted e x s lb).pocket]
  refine foldl_keeps_obs (fun t => pocketRead t b r c 4) _ _ (fun t y hy => ?_) _
  obtain ⟨i, hi, k, hk, rfl⟩ := mem_copyCells.1 hy
  obtain ⟨h1, h2⟩ := copyPlace_lt hi hk
  exact pocketRead_lbWrite_out t x lb _ _ _ (by dsimp only; omega) (by rw [lbRead_length]; dsimp only; omega) hr hc (.inl h)

/-- A copy in a block leaves every byte outside its destination. -/
theorem memByte_copyBlock_out {x : Ctx} {lb b row byte : Nat} (hr : row < 16384) (hb : byte < 256)
    (h : physBlock x lb ≠ some b ∨ row < pkRow e ∨ pkRow e + (copyShape e).1 ≤ row ∨ byte < 4 * pkWord e ∨
      4 * (pkWord e + (copyShape e).2) ≤ byte) (s : State) :
    memByte (copyBlock e x s lb).pocket (pocketAddr b row byte) = memByte s.pocket (pocketAddr b row byte) := by
  rw [copyBlock_eq, ← (still_copyCounted e x s lb).pocket]
  refine foldl_keeps_obs (fun t => memByte t.pocket (pocketAddr b row byte)) _ _ (fun t y hy => ?_) _
  obtain ⟨i, hi, k, hk, rfl⟩ := mem_copyCells.1 hy
  obtain ⟨h1, h2⟩ := copyPlace_lt hi hk
  have h3 : pkRow e ≤ copyRow e i k := Nat.le_add_right _ _
  have h4 : pkWord e ≤ copyWord e i k := Nat.le_add_right _ _
  refine memByte_lbWrite_out t x lb _ _ _ (by dsimp only; omega) (by rw [lbRead_length]; dsimp only; omega) hr hb ?_
  rw [lbRead_length]
  dsimp only
  rcases h with h | h
  · exact .inl h
  · right; omega

/-- A copy in a block puts each word of the source, as it stood, in its place. -/
theorem pocketRead_copyBlock {x : Ctx} {lb b i k : Nat} (hb : physBlock x lb = some b) (hi : i < pkRows e)
    (hk : k < pkWords e) (s : State) :
    pocketRead (copyBlock e x s lb) b (copyRow e i k) (4 * copyWord e i k) 4 =
      pocketRead s b (pkSrcRow e + i) (4 * (pkSrcWord e + k)) 4 := by
  have hput : ∀ t, pocketRead (copyCell e x lb t (i, k, lbRead s x lb (pkSrcRow e + i) (4 * (pkSrcWord e + k)) 4)) b
      (copyRow e i k) (4 * copyWord e i k) 4 = pocketRead s b (pkSrcRow e + i) (4 * (pkSrcWord e + k)) 4 := by
    intro t
    have hlt := memBytes_lt s.pocket (pocketAddr b (pkSrcRow e + i) (4 * (pkSrcWord e + k))) 4
    have hlen := memBytes_length s.pocket (pocketAddr b (pkSrcRow e + i) (4 * (pkSrcWord e + k))) 4
    have h := pocketRead_lbWrite t x (copyRow e i k) (4 * copyWord e i k) hb hlt
    rw [hlen] at h
    rw [lbRead_of_physBlock hb]
    exact h
  rw [copyBlock_eq]
  refine foldl_settles_obs (fun t => pocketRead t b (copyRow e i k) (4 * copyWord e i k) 4) _ _ _ (fun t y hy => ?_)
    (mem_copyCells.2 ⟨i, hi, k, hk, rfl⟩) hput _
  obtain ⟨i', hi', k', hk', rfl⟩ := mem_copyCells.1 hy
  by_cases hsame : i' = i ∧ k' = k
  · obtain ⟨rfl, rfl⟩ := hsame
    exact .inl (hput t)
  · obtain ⟨h1, h2⟩ := copyPlace_lt hi hk
    obtain ⟨h3, h4⟩ := copyPlace_lt hi' hk'
    refine .inr (pocketRead_lbWrite_out t x lb _ _ _ (by dsimp only; omega) (by rw [lbRead_length]; dsimp only; omega) (by omega)
      (by omega) (.inr ?_))
    rw [lbRead_length]
    have := copyPlace_ne (e := e) hsame
    dsimp only
    omega

theorem memByte_copyBlocks_out {x : Ctx} {l : List Nat} {b row byte : Nat} (hr : row < 16384) (hb : byte < 256)
    (h : (∀ lb ∈ l, physBlock x lb ≠ some b) ∨ row < pkRow e ∨ pkRow e + (copyShape e).1 ≤ row ∨ byte < 4 * pkWord e ∨
      4 * (pkWord e + (copyShape e).2) ≤ byte) (s : State) :
    memByte (l.foldl (copyBlock e x) s).pocket (pocketAddr b row byte) = memByte s.pocket (pocketAddr b row byte) :=
  foldl_keeps_obs (fun t => memByte t.pocket (pocketAddr b row byte)) _ _
    (fun t lb hlb => memByte_copyBlock_out hrow hword hr hb (h.imp_left fun k => k lb hlb) t) s

/-- Copies in blocks that lie in different Pockets: each word of each source, as it stood before them all, is in its place. -/
theorem pocketRead_copyBlocks {x : Ctx} {l : List Nat} {lb b i k : Nat} (hn : l.Nodup)
    (hinj : ∀ y, physBlock x y = some b → y = lb) (hl : lb ∈ l) (hb : physBlock x lb = some b)
    (hsr : pkSrcRow e + pkRows e ≤ 16384) (hsw : pkSrcWord e + pkWords e ≤ 64) (hi : i < pkRows e) (hk : k < pkWords e)
    (s : State) :
    pocketRead (l.foldl (copyBlock e x) s) b (copyRow e i k) (4 * copyWord e i k) 4 =
      pocketRead s b (pkSrcRow e + i) (4 * (pkSrcWord e + k)) 4 := by
  obtain ⟨h1, h2⟩ := copyPlace_lt hi hk
  exact foldl_copies_obs (fun t => pocketRead t b (pkSrcRow e + i) (4 * (pkSrcWord e + k)) 4)
    (fun t => pocketRead t b (copyRow e i k) (4 * copyWord e i k) 4) _ (pocketRead_copyBlock hrow hword hb hi hk) l hn hl
    (fun t y _ hy => pocketRead_copyBlock_other hrow hword (mt (hinj y) hy) (by omega) (by omega) t)
    (fun t y _ hy => pocketRead_copyBlock_other hrow hword (mt (hinj y) hy) (by omega) (by omega) t) s

end copy

/-- A context that holds no quad twice has each of its physical blocks under one logical number (R78). -/
theorem physBlock_inj {x : Ctx} (hq : x.quads.Nodup) {lb lb' b : Nat} (h : physBlock x lb = some b)
    (h' : physBlock x lb' = some b) : lb' = lb := by
  unfold physBlock at h h'
  split at h
  · next q hget =>
    split at h'
    · next q' hget' =>
      injection h with h
      injection h' with h'
      obtain rfl : q' = q := by omega
      obtain ⟨hlt, -⟩ := List.getElem?_eq_some_iff.1 hget'
      have hdiv : lb' / 4 = lb / 4 := (List.getElem?_inj hlt hq).1 (hget'.trans hget.symm)
      omega
    · cases h'
  · cases h

theorem pkBlocks_nodup (e : Nat) : (pkBlocks e).Nodup :=
  List.Pairwise.map (fun i => pkFirstVb e + i) (fun _ _ h k => h (Nat.add_left_cancel k)) List.nodup_range

theorem exec_pocketCopy {s : State} {id : Nat} {j : Job} (h : runsNow s id Op.POCKET_COPY noSources j = true) :
    exec (.pocketCopy id none) s = .next (unacted (finish
      ((pkBlocks j.entry).foldl (copyBlock j.entry (ctxOf s j.ctx)) (acting s j))
      id Code.OK (pkVbCount j.entry * pkRows j.entry * pkWords j.entry))) := runJob_next h rfl

/-! ### POCKET_CONFIG (R162) -/

/-- One block's window declared or removed. -/
def configWindow (e : Nat) (z : Ctx) (lb : Nat) : Ctx :=
  { z with windows := if pkEnable e then tabSet z.windows (windowKey lb (pkWindow e)) (pkNewWindow e)
                      else tabDel z.windows (windowKey lb (pkWindow e)) }

/-- A context as a POCKET_CONFIG leaves it. -/
def configCtx (e : Nat) (x : Ctx) : Ctx :=
  let y := if pkSetGroups e then { x with groupMap := pkGroupMap e % 2 ^ 32 } else x
  if pkSetWindow e then (pkBlocks e).foldl (configWindow e) y else y

theorem groupMap_configWindows (e : Nat) (l : List Nat) (z : Ctx) :
    (l.foldl (configWindow e) z).groupMap = z.groupMap :=
  List.foldlRecOn l _ (motive := fun y : Ctx => y.groupMap = z.groupMap) rfl (fun _ hy _ _ => hy)

theorem windows_configWindows (e : Nat) (l : List Nat) (z : Ctx) (k : Nat) :
    tabGet (l.foldl (configWindow e) z).windows k =
      if ∃ lb ∈ l, windowKey lb (pkWindow e) = k then (if pkEnable e then some (pkNewWindow e) else none)
      else tabGet z.windows k := by
  induction l generalizing z with
  | nil => simp
  | cons lb l ih =>
    rw [List.foldl_cons, ih]
    by_cases hl : ∃ y ∈ l, windowKey y (pkWindow e) = k
    · obtain ⟨y, hy, hk⟩ := hl
      have hcons : ∃ y ∈ lb :: l, windowKey y (pkWindow e) = k := ⟨y, List.mem_cons_of_mem _ hy, hk⟩
      rw [if_pos ⟨y, hy, hk⟩, if_pos hcons]
    · rw [if_neg hl]
      by_cases hlb : windowKey lb (pkWindow e) = k
      · rw [if_pos ⟨lb, by simp, hlb⟩]
        subst hlb
        unfold configWindow
        cases pkEnable e <;> simp
      · rw [if_neg (by simpa [hlb] using hl)]
        unfold configWindow
        cases pkEnable e
        · exact tabGet_tabDel_ne _ (Ne.symm hlb)
        · exact tabGet_tabSet_ne _ _ (Ne.symm hlb)

theorem groupMap_configCtx (e : Nat) (x : Ctx) :
    (configCtx e x).groupMap = if pkSetGroups e then pkGroupMap e % 2 ^ 32 else x.groupMap := by
  unfold configCtx
  dsimp only
  cases pkSetWindow e <;> cases pkSetGroups e <;> simp [groupMap_configWindows]

theorem windows_configCtx_kept {e : Nat} (h : pkSetWindow e = false) (x : Ctx) : (configCtx e x).windows = x.windows := by
  unfold configCtx
  rw [h]
  cases pkSetGroups e <;> rfl

theorem windows_configCtx {e : Nat} (h : pkSetWindow e = true) (x : Ctx) (k : Nat) :
    tabGet (configCtx e x).windows k =
      if ∃ lb ∈ pkBlocks e, windowKey lb (pkWindow e) = k then (if pkEnable e then some (pkNewWindow e) else none)
      else tabGet x.windows k := by
  unfold configCtx
  rw [h]
  dsimp only
  rw [if_pos rfl, windows_configWindows]
  cases pkSetGroups e <;> rfl

theorem exec_pocketConfig {s : State} {id : Nat} {j : Job} (h : runsNow s id Op.POCKET_CONFIG noSources j = true)
    (hov : (pkSetWindow j.entry && pkEnable j.entry && windowOverlaps s j.ctx j.entry) = false) :
    exec (.pocketConfig id) s =
      .next (unacted (finish (updCtx (acting s j) j.ctx (configCtx j.entry)) id Code.OK 0)) := by
  refine runJob_next h ?_
  have hov' : (pkSetWindow j.entry && pkEnable j.entry && windowOverlaps (acting s j) j.ctx j.entry) = false := hov
  unfold pocketConfigBody
  dsimp only
  rw [hov']
  rfl

/-- The end of a command leaves the windows and the group map of a context. -/
theorem ctxOf_finish_pocket (s : State) (id st r c : Nat) :
    (ctxOf (finish s id st r) c).windows = (ctxOf s c).windows ∧
      (ctxOf (finish s id st r) c).groupMap = (ctxOf s c).groupMap := by
  rcases ctxOf_finish s id st r c with h | h <;> rw [h] <;> exact ⟨rfl, rfl⟩

/-! ### Remote access (R153, R16) -/

/-- An access that an available block serves. -/
theorem exec_pocketRemoteAccess_served {s : State} {c lb b : Nat} (row byte words data : Nat) (write : Bool)
    (hb : physBlock (ctxOf s c) lb = some b) (hr : row < contextRows s) (hs : sliced s b = false)
    (ha : blockAvailable s b = true) :
    exec (.pocketRemoteAccess c lb row byte words write data) s = .next (
      if write then
        send (pocketWrite (countStray s (ctxOf s c) lb portMesh row) b row byte (leBytes (4 * words) data))
          (.meshReply b Code.OK 0)
      else send (countStray s (ctxOf s c) lb portMesh row)
        (.meshReply b Code.OK (ofLeBytes (pocketRead s b row byte (4 * words))))) := by
  have havail : ¬ (!blockAvailable s b) = true := by rw [ha]; decide
  have hserved : ¬ (decide (contextRows s ≤ row) || sliced s b) = true := by
    rw [hs, decide_eq_false (Nat.not_le.2 hr)]; decide
  refine congrArg Host.Outcome.next ?_
  unfold pocketRemoteAccess
  dsimp only
  rw [hb]
  dsimp only
  rw [if_neg havail, if_neg hserved,
    pocketRead_congr (still_countStray s (ctxOf s c) lb row (port := portMesh) (by decide)).pocket]

theorem exec_pocketRemoteAccess_write {s : State} {c lb b : Nat} (row byte words data : Nat)
    (hb : physBlock (ctxOf s c) lb = some b) (hr : row < contextRows s) (hs : sliced s b = false)
    (ha : blockAvailable s b = true) :
    exec (.pocketRemoteAccess c lb row byte words true data) s = .next
      (send (pocketWrite (countStray s (ctxOf s c) lb portMesh row) b row byte (leBytes (4 * words) data))
        (.meshReply b Code.OK 0)) := exec_pocketRemoteAccess_served row byte words data true hb hr hs ha

theorem exec_pocketRemoteAccess_read {s : State} {c lb b : Nat} (row byte words data : Nat)
    (hb : physBlock (ctxOf s c) lb = some b) (hr : row < contextRows s) (hs : sliced s b = false)
    (ha : blockAvailable s b = true) :
    exec (.pocketRemoteAccess c lb row byte words false data) s = .next
      (send (countStray s (ctxOf s c) lb portMesh row)
        (.meshReply b Code.OK (ofLeBytes (pocketRead s b row byte (4 * words))))) :=
  exec_pocketRemoteAccess_served row byte words data false hb hr hs ha

theorem exec_pocketRemoteAccess_quarantined {s : State} {c lb b : Nat} (row byte words data : Nat) (write : Bool)
    (hb : physBlock (ctxOf s c) lb = some b) (ha : blockAvailable s b = false) :
    exec (.pocketRemoteAccess c lb row byte words write data) s = .next (send s (.meshReply b Code.ECC_UNCORRECTABLE 0)) := by
  have havail : (!blockAvailable s b) = true := by rw [ha]; decide
  refine congrArg Host.Outcome.next ?_
  unfold pocketRemoteAccess
  dsimp only
  rw [hb]
  dsimp only
  rw [if_pos havail]

/-! ### The commands -/

/-- Settles O43: each command's state is written out, and its Pockets read by the lemmas of its fold. -/
theorem pocketCommands : Obligations.PocketCommands := by
  unfold Obligations.PocketCommands
  refine ⟨?fill, ?copy, ?config, ?remote, ?quarantined⟩
  case fill =>
    intro s id j h hw hr
    have w : PocketWork s ((pkBlocks j.entry).foldl (fillBlock j.entry (ctxOf s j.ctx)) (acting s j)) :=
      pocketWork_acting (pocketWork_foldl _ _ (fun t lb => pocketWork_fillBlock _ _ t lb) _)
    obtain ⟨hends, hpocket, hacc, hmem, hbeside⟩ := pocketWork_end Code.OK
      (pkVbCount j.entry * pkRows j.entry * pkWords j.entry) w (runsNow_job h)
    refine ⟨_, exec_pocketFill h, hends, fun lb b i k hlb hb hi hk => ?_, fun b row byte hrow hbyte hout => ?_, hacc, hmem,
      hbeside⟩
    · rw [pocketRead_congr hpocket]
      exact pocketRead_fillBlocks hw hr hlb hb hi hk _
    · rw [hpocket]
      exact memByte_fillBlocks_out hw hr hrow hbyte hout _
  case copy =>
    intro s id j h hq hsw hsr hrow hword
    have w : PocketWork s ((pkBlocks j.entry).foldl (copyBlock j.entry (ctxOf s j.ctx)) (acting s j)) :=
      pocketWork_acting (pocketWork_foldl _ _ (fun t lb => pocketWork_copyBlock _ _ t lb) _)
    obtain ⟨hends, hpocket, hacc, hmem, hbeside⟩ := pocketWork_end Code.OK
      (pkVbCount j.entry * pkRows j.entry * pkWords j.entry) w (runsNow_job h)
    refine ⟨_, exec_pocketCopy h, hends, fun lb b i k hlb hb hi hk => ?_, fun b row byte hr hbyte hout => ?_, hacc, hmem,
      hbeside⟩
    · rw [pocketRead_congr hpocket]
      exact pocketRead_copyBlocks hrow hword (pkBlocks_nodup _) (fun _ hy => physBlock_inj hq hb hy) hlb hb hsr hsw hi hk _
    · rw [hpocket]
      exact memByte_copyBlocks_out hrow hword hr hbyte hout _
  case config =>
    intro s id j h hov
    have hj : tabGet (updCtx (acting s j) j.ctx (configCtx j.entry)).jobs id = some j := by
      rw [updCtx_jobs]; exact runsNow_acting h
    have hctx : ctxOf (updCtx (acting s j) j.ctx (configCtx j.entry)) j.ctx = configCtx j.entry (ctxOf s j.ctx) :=
      ctxOf_setCtx_self _ _ _
    obtain ⟨hwindows, hmap⟩ := ctxOf_finish_pocket (updCtx (acting s j) j.ctx (configCtx j.entry)) id Code.OK 0 j.ctx
    rw [hctx] at hwindows hmap
    refine ⟨_, exec_pocketConfig h hov, ends_end _ _ hj, ?_, fun hset => ?_, fun hset k => ?_, ?_, ?_, ?_, ?_⟩
    · rw [ctxOf_unacted, hmap, groupMap_configCtx]
    · rw [ctxOf_unacted, hwindows, windows_configCtx_kept hset]
    · rw [ctxOf_unacted, hwindows, windows_configCtx hset]
    · rw [unacted_pocket, finish_pocket, updCtx_pocket]; rfl
    · rw [unacted_mem, finish_mem, updCtx_mem]; rfl
    · exact beside_end ((quiet_acting s j id j.ctx).beside.trans (beside_setCtx _ _ _ _)) hj
    · exact holdings_end ((quiet_acting s j id j.ctx).holdings.trans (holdings_setCtx _ _ _))
  case remote =>
    intro s c lb row byte words data b hb hr hs ha
    have still := still_countStray s (ctxOf s c) lb row (port := portMesh) (by decide)
    have hlen := leBytes_length (4 * words) data
    constructor
    · refine ⟨_, exec_pocketRemoteAccess_write row byte words data hb hr hs ha, ?_, mem_send _ _, ?_, fun k hk => ?_⟩
      · rw [pocketRead_congr (send_pocket _ _)]
        have := pocketRead_pocketWrite (countStray s (ctxOf s c) lb portMesh row) b row byte (leBytes_lt (4 * words) data)
        rwa [hlen] at this
      · rw [send_acc]; exact still.acc
      · rw [send_pocket, ← still.pocket]
        exact memByte_memWrite_out _ _ _ (by rwa [hlen])
    · refine ⟨_, exec_pocketRemoteAccess_read row byte words data hb hr hs ha, ?_, ?_, mem_send _ _⟩
      · rw [send_pocket, still.pocket]
      · rw [send_acc, still.acc]
  case quarantined =>
    intro s c lb row byte words data b write hb ha
    exact ⟨_, exec_pocketRemoteAccess_quarantined row byte words data write hb ha, send_pocket _ _, mem_send _ _⟩

end Sys2Proof.Machine

/-! SUPPORT. Writes of scalar entries by a privileged path in READY, and the entries of the beat among them (chapters 2
and 18). -/

namespace Sys2Proof.Machine

/-! ### A scalar written by a privileged path in READY (R362, R365) -/

/-- A request on its way to the service shows it what the writes of the beat look at. -/
theorem atService_beat (s : State) (p : Path) :
    stagedCalendar (atService s p) = stagedCalendar s ∧ periodDue (atService s p) = periodDue s ∧
      calendarDue (atService s p) = calendarDue s ∧ isWorker (atService s p) = isWorker s := by
  rw [atService_eq]
  exact ⟨rfl, rfl, rfl, rfl⟩

/-- A write of a scalar in READY, on a free privileged path, is answered with the status `w.1` that its entry gives, and
leaves what the entry leaves: the waiting writes, the Hem and the entries of `w.2`. -/
theorem writeScalar_answered {s : State} {p : Path} {k v : Nat} {r : EntryRow} {w : Nat × State}
    (h : serviceFree s p = true) (hp : privileged p = true) (hs : s.start = .ready) (hr : rowOf k = some r)
    (ha : writable r = true) (hz : 0 < r.size ∧ r.size ≤ 192)
    (hk : k ≠ Key.QUEUE_ENABLE ∧ k ≠ Key.DIAG_RESET ∧ k ≠ Key.SEC_KEY_LOAD) (hv : v < 2 ^ (8 * r.size))
    (hw : writeEntry (atService s p) r k 0 r.size v = w) :
    wrote (writeScalar s p k v) p k w.1 ∧ (writeScalar s p k v).dict.wb = w.2.dict.wb ∧
      (writeScalar s p k v).hem = w.2.hem ∧
      ∀ j, replyKey j = false → reg (writeScalar s p k v) j = reg w.2 j := by
  obtain ⟨hk, hd, hl⟩ := hk
  have hright : hasRight r (writeRequest p k 0 r.size v) = true := by simp [hasRight, writeRequest, ha, hp, hl]
  have hserved : servedNow (atService s p) (writeRequest p k 0 r.size v) = true := by simp [servedNow, hs]
  have hsize : sizeOf_ k = r.size := by simp [sizeOf_, hr]
  have e : writeScalar s p k v = completeRequest w.2 (writeRequest p k 0 r.size v) w.1
      (if w.1 == Code.OK then r.size else 0) 0 := by
    unfold writeScalar
    rw [hsize, writeOn_passed h (check_scalar hr hserved hright hz.2) hk hd hz.1 hv, hw]
  rw [e]
  exact ⟨wrote_completeRequest _ _ _ _ _ _ _ _ _, completeRequest_wb _ _ _ _ _, completeRequest_hem _ _ _ _ _,
    fun j hj => reg_completeRequest _ _ _ _ _ hj⟩

theorem lockedEntry_atService {s : State} {k : Nat} (p : Path) (h : k ∉ s.dict.locks) (hk : k ≠ Key.WARDROBE_BAND_ROWS) :
    lockedEntry (atService s p) k = false := by
  rw [atService_eq]
  simp [lockedEntry, h, hk]

/-- A write accepted in READY waits for its boundary behind those that wait (R40). -/
theorem pushWrite_atService {s : State} (p : Path) (k off len v : Nat) (cal : List Nat) (hs : s.start = .ready) :
    (pushWrite (atService s p) k off len v cal).dict.wb = s.dict.wb ++ [⟨dueBeat s, k, off, len, v, cal⟩] ∧
      (pushWrite (atService s p) k off len v cal).hem = s.hem ∧
      ∀ j, reg (pushWrite (atService s p) k off len v cal) j = reg s j := by
  have hb : wbBeat (atService s p) = dueBeat s := by
    rw [wbBeat, atService_start, hs, atService_eq]
    rfl
  unfold pushWrite
  rw [hb, atService_eq]
  exact ⟨rfl, rfl, fun _ => rfl⟩

theorem atService_wb (s : State) (p : Path) : (atService s p).dict.wb = s.dict.wb := by rw [atService_eq]

/-! ### The entries of the beat (R41, R43, R459) -/

theorem writeEntry_calendarCommit (t : State) (r : EntryRow) (off len v : Nat) :
    writeEntry t r Key.HEM_CALENDAR_COMMIT off len v =
      if lockedEntry t Key.HEM_CALENDAR_COMMIT then (Code.BAD_FIELD, t) else calendarCommit t v := rfl

theorem writeEntry_beatPeriod (t : State) (r : EntryRow) (off len v : Nat) :
    writeEntry t r Key.HEM_BEAT_PERIOD off len v =
      if lockedEntry t Key.HEM_BEAT_PERIOD then (Code.BAD_FIELD, t) else beatPeriodWrite t v := rfl

theorem writeEntry_beatSource (t : State) (r : EntryRow) (off len v : Nat) :
    writeEntry t r Key.HEM_BEAT_SOURCE off len v =
      if lockedEntry t Key.HEM_BEAT_SOURCE then (Code.BAD_FIELD, t) else beatSourceWrite t v := rfl

theorem calendarCommit_valid {t : State} (h : calendarValid (stagedCalendar t) (periodDue t) = true) :
    calendarCommit t 1 = (Code.OK, pushWrite t Key.HEM_CALENDAR_COMMIT 0 1 1 (stagedCalendar t)) := by
  simp [calendarCommit, h]

theorem calendarCommit_invalid {t : State} (v : Nat) (h : calendarValid (stagedCalendar t) (periodDue t) = false) :
    calendarCommit t v = (Code.BAD_FIELD, t) := by
  simp [calendarCommit, h]

theorem inLimits_beatPeriod (v : Nat) : inLimits Key.HEM_BEAT_PERIOD v = within 250000 1000000000 v := rfl

theorem beatPeriodWrite_valid {t : State} {v : Nat} (hw : isWorker t = false) (hlo : 250000 ≤ v) (hhi : v ≤ 1000000000)
    (h : calendarValid (calendarDue t) v = true) :
    beatPeriodWrite t v = (Code.OK, pushWrite t Key.HEM_BEAT_PERIOD 0 4 v []) := by
  simp [beatPeriodWrite, inLimits_beatPeriod, within, hw, hlo, hhi, h]

theorem beatPeriodWrite_worker {t : State} (v : Nat) (hw : isWorker t = true) :
    beatPeriodWrite t v = (Code.BAD_FIELD, t) := by
  simp [beatPeriodWrite, hw]

theorem beatSourceWrite_valid (t : State) {v : Nat} (h : v ≤ 1) :
    beatSourceWrite t v = (Code.OK, pushWrite t Key.HEM_BEAT_SOURCE 0 1 v []) :=
  if_neg (Nat.not_lt.2 h)

/-- Settles O17: each write is answered with what its entry gives, by the cases of that entry. -/
theorem beatWrites : Obligations.BeatWrites := by
  unfold Obligations.BeatWrites
  refine ⟨?calendar, ?calendarBad, ?period, ?periodBad, ?source⟩
  case calendar =>
    intro s p h hp hs hl hc
    obtain ⟨hcal, hper, -, -⟩ := atService_beat s p
    have he : writeEntry (atService s p) (row1 0x2000 6 .u8 1 .wbPriv 0) Key.HEM_CALENDAR_COMMIT 0 1 1 =
        (Code.OK, pushWrite (atService s p) Key.HEM_CALENDAR_COMMIT 0 1 1 (stagedCalendar s)) := by
      rw [writeEntry_calendarCommit, lockedEntry_atService p hl (by decide), ← hcal]
      exact calendarCommit_valid (by rwa [hcal, hper])
    obtain ⟨hwrote, hwb, hhem, -⟩ := writeScalar_answered h hp hs row_HEM_CALENDAR_COMMIT rfl (by decide) (by decide)
      (by decide) he
    obtain ⟨pwb, phem, -⟩ := pushWrite_atService p Key.HEM_CALENDAR_COMMIT 0 1 1 (stagedCalendar s) hs
    exact ⟨_, rfl, hwrote, hwb.trans pwb, hhem.trans phem⟩
  case calendarBad =>
    intro s p h hp hs hc
    obtain ⟨hcal, hper, -, -⟩ := atService_beat s p
    have he : writeEntry (atService s p) (row1 0x2000 6 .u8 1 .wbPriv 0) Key.HEM_CALENDAR_COMMIT 0 1 1 =
        (Code.BAD_FIELD, atService s p) := by
      rw [writeEntry_calendarCommit, calendarCommit_invalid _ (by rwa [hcal, hper]), ite_self]
    obtain ⟨hwrote, hwb, -⟩ := writeScalar_answered h hp hs row_HEM_CALENDAR_COMMIT rfl (by decide) (by decide)
      (by decide) he
    exact ⟨_, rfl, hwrote, hwb.trans (atService_wb s p)⟩
  case period =>
    intro s p v h hp hs hl hw hlo hhi hc
    obtain ⟨-, -, hcal, hwork⟩ := atService_beat s p
    have he : writeEntry (atService s p) (row1 0x2000 3 .u32 4 .wbPriv 0x989680) Key.HEM_BEAT_PERIOD 0 4 v =
        (Code.OK, pushWrite (atService s p) Key.HEM_BEAT_PERIOD 0 4 v []) := by
      rw [writeEntry_beatPeriod, lockedEntry_atService p hl (by decide)]
      exact beatPeriodWrite_valid (by rwa [hwork]) hlo hhi (by rwa [hcal])
    obtain ⟨hwrote, hwb, -, hreg⟩ := writeScalar_answered h hp hs row_HEM_BEAT_PERIOD rfl (by decide) (by decide)
      (Nat.lt_of_le_of_lt hhi (by decide)) he
    obtain ⟨pwb, -, preg⟩ := pushWrite_atService p Key.HEM_BEAT_PERIOD 0 4 v [] hs
    exact ⟨_, rfl, hwrote, (hreg _ (by decide)).trans (preg _), hwb.trans pwb⟩
  case periodBad =>
    intro s p v h hp hs hw hv
    obtain ⟨-, -, -, hwork⟩ := atService_beat s p
    have he : writeEntry (atService s p) (row1 0x2000 3 .u32 4 .wbPriv 0x989680) Key.HEM_BEAT_PERIOD 0 4 v =
        (Code.BAD_FIELD, atService s p) := by
      rw [writeEntry_beatPeriod, beatPeriodWrite_worker _ (by rwa [hwork]), ite_self]
    obtain ⟨hwrote, hwb, -⟩ := writeScalar_answered h hp hs row_HEM_BEAT_PERIOD rfl (by decide) (by decide) hv he
    exact ⟨_, rfl, hwrote, hwb.trans (atService_wb s p)⟩
  case source =>
    intro s p v h hp hs hl hv
    have he : writeEntry (atService s p) (row1 0x2000 2 .u8 1 .wbPriv 1) Key.HEM_BEAT_SOURCE 0 1 v =
        (Code.OK, pushWrite (atService s p) Key.HEM_BEAT_SOURCE 0 1 v []) := by
      rw [writeEntry_beatSource, lockedEntry_atService p hl (by decide)]
      exact beatSourceWrite_valid _ hv
    obtain ⟨hwrote, hwb, -⟩ := writeScalar_answered h hp hs row_HEM_BEAT_SOURCE rfl (by decide) (by decide)
      (Nat.lt_of_le_of_lt hv (by decide)) he
    obtain ⟨pwb, -, -⟩ := pushWrite_atService p Key.HEM_BEAT_SOURCE 0 1 v [] hs
    exact ⟨_, rfl, hwrote, hwb.trans pwb⟩

end Sys2Proof.Machine

/-! SUPPORT. Boundaries, edges of BEAT_IN and beat flits: what each of them does in the state that it needs (chapter 2). -/

namespace Sys2Proof.Machine

/-! ### Beat boundaries (R34, R37, R38, R48, R50) -/

theorem boundarySeq_beatBegins (s : State) (number ns : Nat) (late : List Nat) :
    beatBegins (boundarySeq s number ns late) number := boundarySeq_begins s number ns late

/-- A write of another entry leaves a beat just begun. -/
theorem beatBegins_setReg {s : State} {n k : Nat} (v : Nat) (h : beatBegins s n) (hk : Key.HEM_BEAT_NUMBER ≠ k) :
    beatBegins (setReg s k v) n := by
  obtain ⟨hnum, hfired, hwin, hflit, hann⟩ := h
  exact ⟨(reg_setReg_ne s v hk).trans hnum, hfired, hwin, hflit, hann⟩

theorem exec_beatBoundary_free {s : State} (a : Int) (late : List Nat) (hs : s.start ≠ .off) (hw : isWorker s = false)
    (hst : reg s Key.HEM_STATE = 0 ∨ reg s Key.HEM_STATE = 3) :
    exec (.beatBoundary a late) s = .next
      (boundarySeq (setReg s Key.HEM_ALIGN_ERROR 0) (beatNow s + 1) (periodNs s) late) := by
  show Host.Outcome.next (beatBoundary s a late) = _
  simp [beatBoundary, hs, hw, hst]

theorem exec_beatBoundary_worker {s : State} {n per : Nat} (a : Int) (late : List Nat) (hs : s.start ≠ .off)
    (hw : isWorker s = true) (hf : s.hem.flit = some (n, per)) :
    exec (.beatBoundary a late) s = .next (setReg (boundarySeq (relock (keepInterval
      (setReg s Key.HEM_ALIGN_ERROR (codeOf 32 a)) (periodNs s))) n (periodNs s) late) Key.HEM_BEAT_PERIOD per) := by
  show Host.Outcome.next (beatBoundary s a late) = _
  simp [beatBoundary, hs, hw, hf]

/-- A device that follows BEAT_IN: LOCKED or in holdover, with the external source, and no worker. -/
theorem beatInEdge_following {s : State} (b e : Nat) (late : List Nat) (hs : s.start ≠ .off) (hw : isWorker s = false)
    (hsrc : reg s Key.HEM_BEAT_SOURCE ≠ 1) (hst : reg s Key.HEM_STATE = 1 ∨ reg s Key.HEM_STATE = 2) :
    beatInEdge s b e late =
      if nearPeriod s b then boundarySeq (relock (keepInterval s b)) (beatNow s + 1) b late
      else if b < periodNs s then bump s Key.HEM_BEAT_IN_REJECTS 1
      else s := by
  have hwatch : ¬(reg s Key.HEM_STATE = 0 ∨ reg s Key.HEM_STATE = 3) := by omega
  simp [beatInEdge, hs, hw, hsrc, hwatch]

theorem nearPeriod_iff (s : State) (ns : Nat) :
    nearPeriod s ns = true ↔
      1024 * ns ≤ 1025 * reg s Key.HEM_BEAT_PERIOD ∧ 1023 * reg s Key.HEM_BEAT_PERIOD ≤ 1024 * ns := by
  unfold nearPeriod periodNs
  rw [Bool.and_eq_true, decide_eq_true_iff, decide_eq_true_iff]

/-- The device ignores the ball while it is OFF, as a worker, and with the internal source. -/
theorem exec_beatInEdge_ignored {s : State} (b e : Nat) (late : List Nat)
    (h : s.start = .off ∨ isWorker s = true ∨ reg s Key.HEM_BEAT_SOURCE = 1) :
    exec (.beatInEdge b e late) s = .next s := by
  have : (s.start = .off ∨ isWorker s = true) ∨ reg s Key.HEM_BEAT_SOURCE = 1 := or_assoc.2 h
  show Host.Outcome.next (beatInEdge s b e late) = _
  simp [beatInEdge, this]

/-- A missing input has a beat of holdover begin the next beat. -/
theorem holdoverBoundary_begins {s : State} (late : List Nat) (hs : s.start ≠ .off) (h : inputMissing s = true) :
    beatBegins (holdoverBoundary s late) (beatNow s + 1) := by
  simp only [holdoverBoundary, hs, h, beq_iff_eq, Bool.not_true, Bool.or_false, if_false]
  exact boundarySeq_beatBegins _ _ _ _

/-- Settles O22: every boundary is a boundary sequence, which begins the beat that it is given. -/
theorem beatBoundaries : Obligations.BeatBoundaries := by
  unfold Obligations.BeatBoundaries
  refine ⟨?free, ?worker, ?edge, ?early, ?ignored, ?holdover, ?present⟩
  case free =>
    intro s a late hs hw hst
    exact ⟨_, exec_beatBoundary_free a late hs hw hst, boundarySeq_beatBegins _ _ _ _⟩
  case worker =>
    intro s a late n per hs hw hf
    exact ⟨_, exec_beatBoundary_worker a late hs hw hf,
      beatBegins_setReg per (boundarySeq_beatBegins _ _ _ _) (by decide), reg_setReg_self _ _ _⟩
  case edge =>
    intro s b e late hs hw hsrc hst hlo hhi
    refine ⟨_, congrArg Host.Outcome.next (beatInEdge_following b e late hs hw hsrc hst), ?_⟩
    rw [if_pos ((nearPeriod_iff s b).2 ⟨hhi, hlo⟩)]
    exact boundarySeq_beatBegins _ _ _ _
  case early =>
    intro s b e late hs hw hsrc hst hb
    refine ⟨_, congrArg Host.Outcome.next (beatInEdge_following b e late hs hw hsrc hst), ?_⟩
    have hfar : ¬nearPeriod s b = true := fun k => by have := (nearPeriod_iff s b).1 k; omega
    have hlt : b < periodNs s := by unfold periodNs; omega
    rw [if_neg hfar, if_pos hlt]
    exact ⟨reg_bump_ne s 1 (by decide), rfl, rfl⟩
  case ignored => exact fun s b e late h => exec_beatInEdge_ignored b e late h
  case holdover =>
    exact fun s late hs h => ⟨_, rfl, holdoverBoundary_begins late hs h⟩
  case present =>
    intro s late h
    refine congrArg Host.Outcome.next ?_
    simp [holdoverBoundary, h]

/-! ### Edges that a device watches for lock (R50, R459) -/

/-- A device that watches for lock: FREE_RUN or LOST, with the external source, and no worker. -/
theorem exec_beatInEdge_watching {s : State} (b e : Nat) (late : List Nat) (hs : s.start ≠ .off) (hw : isWorker s = false)
    (hsrc : reg s Key.HEM_BEAT_SOURCE ≠ 1) (hst : reg s Key.HEM_STATE = 0 ∨ reg s Key.HEM_STATE = 3) :
    exec (.beatInEdge b e late) s = .next (watchEdge s b e late) := by
  show Host.Outcome.next (beatInEdge s b e late) = _
  simp [beatInEdge, hs, hw, hsrc, hst]

/-- The count of good edges after an edge whose last one lay so long ago. -/
def goodAfter (s : State) (sinceEdge : Nat) : Nat :=
  if s.hem.edgeSeen && nearPeriod s sinceEdge then s.hem.goodEdges + 1 else 0

/-- An edge before the sixteenth good one is counted and begins no beat. -/
theorem watchEdge_counts {s : State} {b e : Nat} {late : List Nat} (h : goodAfter s e < 16) :
    watchEdge s b e late = { s with hem := { s.hem with goodEdges := goodAfter s e, edgeSeen := true } } :=
  if_neg (Nat.not_le.2 h)

/-! ### Beat flits (R35, R352) -/

/-- What is sent for each element of a list has been sent at its end. -/
theorem foldl_send_out {f : Nat → Out} {l : List Nat} (s : State) :
    (∀ x ∈ l, f x ∈ (l.foldl (fun t x => send t (f x)) s).out) ∧ Side s (l.foldl (fun t x => send t (f x)) s) := by
  refine ⟨?_, side_foldl _ _ (fun t x => side_send t (f x)) s⟩
  induction l generalizing s with
  | nil => simp
  | cons y l ih =>
    intro x hx
    rcases List.mem_cons.1 hx with rfl | hx
    · obtain ⟨m, hm⟩ := (side_foldl _ l (fun t x => side_send t (f x)) (send s (f x))).out
      rw [List.foldl_cons, hm]
      exact List.mem_append_right _ (mem_send s (f x))
    · exact ih _ x hx

theorem exec_beatFlitSend {s : State} (hs : s.start ≠ .off) (hr : reg s Key.HEM_ROLE = 1) (ha : s.hem.announced = false) :
    exec .beatFlitSend s = .next ((groupLinks s).foldl
      (fun t l => send t (.beatFlit l (beatNow s + 1) (nextPeriod s) (reg s Key.HEM_ANNOUNCE_LEAD * 1000)))
      { s with hem := { s.hem with announced := true } }) := by
  show Host.Outcome.next (beatFlitSend s) = _
  simp [beatFlitSend, hs, hr, ha]

/-- A worker's flit of its own formation that leaves 1 µs is kept and sent on. -/
theorem exec_beatFlit_taken {s : State} {port left : Nat} (n per : Nat) (hw : isWorker s = true)
    (hg : groupLink s port = true) (hl : 1000000 + linkLatencyPs s port ≤ left) :
    exec (.beatFlit port n per left (reg s Key.PELGAN_FORMATION)) s = .next (s.pelgan.children.foldl
      (fun t l => send t (.beatFlit l n per (left - linkLatencyPs s port - forwardPs)))
      { s with hem := { s.hem with flit := some (n, per) } }) := by
  have hleft : 1000000 ≤ left - linkLatencyPs s port := by omega
  show Host.Outcome.next (beatFlit s port n per left _) = _
  simp [beatFlit, hw, hg, hleft]

/-- Settles O23: edges change the Hem's counts alone, and flits are sent by a fold over links. -/
theorem beatInputs : Obligations.BeatInputs := by
  unfold Obligations.BeatInputs
  refine ⟨?good, ?bad, ?absent, ?announce, ?silent, ?taken, ?other⟩
  case good =>
    intro s b e late hs hw hsrc hst hseen hnear hlt
    have hg : goodAfter s e = s.hem.goodEdges + 1 := by simp [goodAfter, hseen, hnear]
    refine ⟨_, exec_beatInEdge_watching b e late hs hw hsrc hst, ?_⟩
    rw [watchEdge_counts (by omega)]
    exact ⟨hg, rfl, rfl⟩
  case bad =>
    intro s b e late hs hw hsrc hst hbad
    have hg : goodAfter s e = 0 := by rcases hbad with h | h <;> simp [goodAfter, h]
    refine ⟨_, exec_beatInEdge_watching b e late hs hw hsrc hst, ?_⟩
    rw [watchEdge_counts (by omega)]
    exact ⟨hg, rfl, rfl⟩
  case absent => exact fun s => ⟨_, rfl, rfl, rfl, rfl⟩
  case announce =>
    intro s hs hr ha
    obtain ⟨hsent, hside⟩ := foldl_send_out { s with hem := { s.hem with announced := true } }
      (f := fun l => .beatFlit l (beatNow s + 1) (nextPeriod s) (reg s Key.HEM_ANNOUNCE_LEAD * 1000)) (l := groupLinks s)
    exact ⟨_, exec_beatFlitSend hs hr ha, by rw [hside.hem], hside.regs _ (by decide), hsent⟩
  case silent =>
    intro s h
    refine congrArg Host.Outcome.next ?_
    rcases h with h | h <;> simp [beatFlitSend, h]
  case taken =>
    intro s port n per left hw hg hl
    obtain ⟨hsent, hside⟩ := foldl_send_out { s with hem := { s.hem with flit := some (n, per) } }
      (f := fun l => .beatFlit l n per (left - linkLatencyPs s port - forwardPs)) (l := s.pelgan.children)
    exact ⟨_, exec_beatFlit_taken n per hw hg hl, by rw [hside.hem], hsent⟩
  case other =>
    intro s port n per left f h
    refine congrArg Host.Outcome.next ?_
    rcases h with h | h | h <;> simp [beatFlit, h]

end Sys2Proof.Machine

/-! SUPPORT. Point events and windows of the calendar, and what they do with a generation request: masks, samples and
commits (chapters 2, 14 and 15). -/

namespace Sys2Proof.Machine

/-! ### A point event fires (R31, R39, R44) -/

theorem eventCommand_other {s : State} {p : Nat × Nat × Nat} {event : Nat} (h : (unfired s).head? = some p)
    (hne : p.2.1 ≠ event) : eventCommand s event = s := by
  simp [eventCommand, h, hne]

/-- The state in which an event acts: its entry has fired, and of the windows those that ended before it are closed. -/
def midBeat (s : State) (i : Nat) (windows : List Nat) : State :=
  { s with hem := { s.hem with fired := i :: s.hem.fired, windows := windows } }

theorem eventCommand_next {s : State} {event i : Nat} (h : nextEvent s event i) :
    ∃ windows, eventCommand s event = fireEvent (midBeat s i windows) event := by
  obtain ⟨hs, ph, hp⟩ := h
  refine ⟨(closeWindows s ph).hem.windows, ?_⟩
  unfold eventCommand
  rw [hp]
  dsimp only
  rw [if_pos (by simp [hs])]
  rfl

/-- PLAN_SEAL and COUNTER_SNAPSHOT act whether the engines run or not (R51). -/
theorem fireEvent_always (s : State) : fireEvent s 8 = sealEvent s ∧ fireEvent s 2 = snapshotEvent s := by
  simp [fireEvent]

theorem fireEvent_running {s : State} (hr : running s = true) :
    fireEvent s 5 = maskReadyEvent s ∧ fireEvent s 6 = sampleEvent s ∧ fireEvent s 7 = commitEvent s := by
  simp [fireEvent, hr]

/-! ### COUNTER_SNAPSHOT (R425, R428) -/

/-- The counters brought up to date are copied to their shadows, with the beat recorded. -/
def shadowed (s : State) : State :=
  setReg { s with perf := { s.perf with
    blockShadow := s.perf.block, regionShadow := s.perf.region, chipShadow := s.perf.chip } } Key.PERF_SNAP_BEAT (beatNow s)

/-- The writes of a snapshot's exports. -/
def snapshotWrites (s : State) : List (Nat × List Nat) :=
  ((exporting s).map (fun p => exportWrites s p.1 p.2)).flatten

/-- A state with further writes of exports waiting. -/
def queueExports (s : State) (ws : List (Nat × List Nat)) : State :=
  { s with perf := { s.perf with exports := s.perf.exports ++ ws } }

theorem snapshotEvent_eq (s : State) :
    snapshotEvent s =
      exportSweep (queueExports (shadowed (freshCounts s)) (snapshotWrites (shadowed (freshCounts s)))) := rfl

theorem snapshotWrites_none {s : State} (h : ∀ c ∈ s.ctxs, c.2.permit = false) : snapshotWrites s = [] := by
  have hnone : exporting s = [] := List.filter_eq_nil_iff.2 (fun c hc => by simp [h c hc])
  rw [snapshotWrites, hnone]
  rfl

theorem exportSweep_none {s : State} (h : s.perf.exports = []) : exportSweep s = s := by
  simp [exportSweep, exportStep, h]

/-- A snapshot records the beat and leaves the Hem as it is. -/
theorem snapshotEvent_beat (s : State) :
    reg (snapshotEvent s) Key.PERF_SNAP_BEAT = beatNow s ∧ (snapshotEvent s).hem = s.hem := by
  rw [snapshotEvent_eq]
  have hside := side_freshCounts s
  revert hside
  generalize freshCounts s = u
  intro hside
  have hkeeps := exportKeeps_sweep (queueExports (shadowed u) (snapshotWrites (shadowed u)))
  rw [hkeeps.regs _ (by decide) (by decide), hkeeps.hem]
  exact ⟨(reg_setReg_self _ _ _).trans (hside.regs _ (by decide)), hside.hem⟩

/-- Where nothing is exported, a snapshot leaves each shadow at what its counter then holds. -/
theorem snapshotEvent_shadows {s : State} (hperm : ∀ c ∈ s.ctxs, c.2.permit = false) (hex : s.perf.exports = []) :
    (snapshotEvent s).perf.blockShadow = (snapshotEvent s).perf.block ∧
      (snapshotEvent s).perf.regionShadow = (snapshotEvent s).perf.region ∧
      (snapshotEvent s).perf.chipShadow = (snapshotEvent s).perf.chip := by
  rw [snapshotEvent_eq]
  have hside := side_freshCounts s
  revert hside
  generalize freshCounts s = u
  intro hside
  rw [snapshotWrites_none (s := shadowed u) (hside.ctxs ▸ hperm),
    exportSweep_none (List.append_eq_nil_iff.2 ⟨hside.shadows.2.2.2.trans hex, rfl⟩)]
  exact ⟨rfl, rfl, rfl⟩

/-! ### Decode events with one request -/

theorem tabGet_single {α : Type} (k : Nat) (v : α) : tabGet [(k, v)] k = some v := if_pos rfl

theorem foldl_liveGens {s : State} {id : Nat} {g : GenReq} (f : State → Nat → State) (hg : s.gens = [(id, g)])
    (hl : liveGens s = s.gens) : ((liveGens s).map Prod.fst).foldl f s = f s id := by
  rw [hl, hg]
  rfl

/-- A decode event of a running device with one live request acts, in the middle of the beat, on that request. -/
theorem eventCommand_request {s : State} {event i id : Nat} {g : GenReq} {f : State → Nat → State}
    (hf : ∀ t, running t = true → fireEvent t event = ((liveGens t).map Prod.fst).foldl f t) (h : nextEvent s event i)
    (hr : running s = true) (hg : s.gens = [(id, g)]) (hl : liveGens s = s.gens) :
    ∃ windows, eventCommand s event = f (midBeat s i windows) id ∧ tabGet (midBeat s i windows).gens id = some g := by
  obtain ⟨ws, e⟩ := eventCommand_next h
  exact ⟨ws, e.trans ((hf (midBeat s i ws) hr).trans (foldl_liveGens (s := midBeat s i ws) f hg hl)),
    hg ▸ tabGet_single id g⟩

/-! ### The Veil in the middle of a beat (R322, R323) -/

section
variable (s : State) (i : Nat) (ws : List Nat)

theorem stepStates_midBeat (a st : Nat) (ds : List Nat) : stepStates (midBeat s i ws) a st ds = stepStates s a st ds := by
  induction ds generalizing st with
  | nil => rfl
  | cons d ds ih => exact congrArg (st :: ·) (ih (nextState s a st d))

theorem genStates_midBeat (g : GenReq) : genStates (midBeat s i ws) g = genStates s g := by
  unfold genStates
  rw [show genGrammar (midBeat s i ws) g = genGrammar s g from rfl]
  cases genGrammar s g with
  | none => rfl
  | some a => exact stepStates_midBeat s i ws _ _ _

theorem masksReady_midBeat (g : GenReq) : masksReady (midBeat s i ws) g = masksReady s g := by
  unfold masksReady
  rw [genStates_midBeat]

theorem genDead_midBeat (g : GenReq) (n : Nat) : genDead (midBeat s i ws) g n = genDead s g n := by
  unfold genDead
  rw [genStates_midBeat, show genGrammar (midBeat s i ws) g = genGrammar s g from rfl]
  cases genGrammar s g <;> rfl

end

/-! ### What leaves the table of requests as it is -/

@[simp] theorem setGs_gens (s : State) (c lo n v : Nat) : (setGs s c lo n v).gens = s.gens := updCtx_gens _ _ _

@[simp] theorem tallyGen_gens (s : State) (id c event n : Nat) : (tallyGen s id c event n).gens = s.gens := by
  unfold tallyGen
  split
  · exact tallyJob_gens _ _ _ _
  · rfl

theorem reg_tallyGen (s : State) (id c event n : Nat) {k : Nat} (h : sideKey k = false) :
    reg (tallyGen s id c event n) k = reg s k := by
  unfold tallyGen
  split
  · exact (reg_congr rfl k).trans (reg_tallyJob _ _ _ _ h)
  · rfl

/-- A counter advances alike in two states that show the same value of it. -/
theorem reg_bump_congr {s t : State} {k : Nat} (n : Nat) (h : reg t k = reg s k) :
    reg (bump t k n) k = reg (bump s k n) k := by
  rw [reg_bump_self, reg_bump_self, h]

@[simp] theorem countProcessed_gens (s : State) (id c : Nat) (p : Processed) (drawn : Bool) :
    (countProcessed s id c p drawn).gens = s.gens := by
  unfold countProcessed
  cases drawn <;> cases p.noValid <;> simp

@[simp] theorem countDecode_gens (s : State) (n : Nat) : (countDecode s n).gens = s.gens := by
  unfold countDecode
  rw [bump_gens, bump_gens]
  rfl

@[simp] theorem countStep_gens (s : State) (g : GenReq) (k : Nat) : (countStep s g k).gens = s.gens := by
  unfold countStep
  dsimp only
  split <;> simp

@[simp] theorem backoff_gens (s : State) (g : GenReq) : (backoff s g).gens = s.gens := by
  unfold backoff
  dsimp only
  repeat' split
  all_goals simp

@[simp] theorem advanceVeil_gens (s : State) (g : GenReq) (ts : List Nat) : (advanceVeil s g ts).gens = s.gens := by
  unfold advanceVeil
  split
  · exact setGs_gens _ _ _ _ _
  · rfl

@[simp] theorem cutModel_gens (s : State) (c : Nat) (draft : Bool) (n : Nat) : (cutModel s c draft n).gens = s.gens := by
  unfold cutModel setPt setLen setDraftLen
  dsimp only
  cases draft <;> split <;> simp

@[simp] theorem cutKv_gens (s : State) (c n : Nat) : (cutKv s c n).gens = s.gens := by simp [cutKv]

@[simp] theorem genRelease_gens (s : State) (c d : Nat) : (genRelease s c d).gens = s.gens := by
  unfold genRelease
  split
  · rfl
  · cases rdKeepKv d <;> cases rdFree d <;> simp

@[simp] theorem notePosted_gens (s : State) (id a n : Nat) : (notePosted s id a n).gens = s.gens := by
  unfold notePosted
  split <;> rfl

theorem tabGet_updGen {s : State} {id : Nat} {g : GenReq} (f : GenReq → GenReq) (h : tabGet s.gens id = some g) :
    tabGet (updGen s id f).gens id = some (f g) := (tabGet_tabUpd_self _ _ _).trans (by rw [h]; rfl)

/-! ### MASK_READY (R323, R324) -/

section
variable {s : State} {id : Nat} {g : GenReq} (h : tabGet s.gens id = some g)
include h

theorem maskReadyOne_due (hm : sbGrammarEn g.block = true) (hd : stepDue s g = true)
    (hx : (ctxOf s g.ctx).state = .running) :
    maskReadyOne s id =
      if masksReady s g then updGen s id (fun g => { g with maskBeat := some (beatNow s) })
      else tallyGen (bump (setGs s g.ctx 160 32 (Nat.min (gsMaskLates (ctxOf s g.ctx) + 1) 0xFFFFFFFF))
        Key.VEIL_MASK_LATE 1) id g.ctx 0x210 1 := by
  simp [maskReadyOne, h, hm, hd, hx]

/-! ### SAMPLE (R293, R294, R326) -/

theorem sampleOne_late (hd : stepDue s g = true) (hst : g.stage ≠ .ready) :
    sampleOne s id = bump s Key.HEM_SAMPLE_MISSES 1 := by
  simp [sampleOne, h, hd, hst]

theorem sampleOne_ready (hd : stepDue s g = true) (hst : g.stage = .ready) (hx : (ctxOf s g.ctx).state = .running)
    (hm : sbGrammarEn g.block = false ∨ g.maskBeat = some (beatNow s)) :
    sampleOne s id =
      if genDead s g 0 then updGen s id (fun g => { g with
        stage := .sampled, accepted := 0, emitted := if sbForceEos g.block then [genEos s g] else [] })
      else decideStep s id g := by
  have hmask : ¬(sbGrammarEn g.block = true ∧ ¬g.maskBeat = some (beatNow s)) := by
    rcases hm with hm | hm <;> simp [hm]
  simp [sampleOne, h, hd, hst, hx, hmask]

/-- A step that is decided is sampled; without drafts it emits one token. -/
theorem decideStep_request :
    ∃ k, tabGet (decideStep s id g).gens id = some k ∧ k.stage = .sampled ∧ k.kept = g.kept ∧
      (g.drafts = [] → ∃ x, k.emitted = [x]) := by
  have hcounted : tabGet ((List.range (acceptedFrom s id g g.drafts.length 1)).foldl
      (fun t i => countProcessed t id g.ctx (stepProcessed s g (i + 1)) false) s).gens id = some g := by
    rw [foldl_same State.gens _ _ _ (fun _ _ => countProcessed_gens _ _ _ _ _)]
    exact h
  unfold decideStep
  dsimp only
  split
  · next hdead =>
    refine ⟨_, tabGet_updGen _ hcounted, rfl, rfl, fun hnil => ?_⟩
    rw [hnil] at hdead
    simp [acceptedFrom] at hdead
  · refine ⟨_, tabGet_updGen _ ((countProcessed_gens _ _ _ _ _).symm ▸ hcounted), rfl, rfl, fun hnil => ?_⟩
    rw [hnil, List.take_nil]
    exact ⟨_, rfl⟩

end

/-! ### TOKEN_COMMIT (R295 to R300, R326) -/

/-- What output writes leave of a request. -/
structure SameCourse (g h : GenReq) : Prop where
  stage : h.stage = g.stage
  kept : h.kept = g.kept
  steps : h.steps = g.steps
  outcome : h.outcome = g.outcome

theorem SameCourse.refl (g : GenReq) : SameCourse g g := ⟨rfl, rfl, rfl, rfl⟩

theorem SameCourse.trans {g h k : GenReq} (a : SameCourse g h) (b : SameCourse h k) : SameCourse g k :=
  ⟨b.1.trans a.1, b.2.trans a.2, b.3.trans a.3, b.4.trans a.4⟩

/-- The request of a command is there and has followed its course. -/
def OnCourse (s : State) (id : Nat) (g : GenReq) : Prop := ∃ h, tabGet s.gens id = some h ∧ SameCourse g h

theorem OnCourse.of_get {s : State} {id : Nat} {g : GenReq} (h : tabGet s.gens id = some g) : OnCourse s id g :=
  ⟨g, h, .refl g⟩

theorem OnCourse.congr {s t : State} {id : Nat} {g : GenReq} (h : OnCourse s id g) (e : t.gens = s.gens) :
    OnCourse t id g := by
  unfold OnCourse
  rw [e]
  exact h

theorem OnCourse.updGen {s : State} {id : Nat} {g : GenReq} {f : GenReq → GenReq} (h : OnCourse s id g)
    (hf : ∀ k, SameCourse k (f k)) : OnCourse (updGen s id f) id g := by
  obtain ⟨k, hk, hc⟩ := h
  exact ⟨f k, tabGet_updGen f hk, hc.trans (hf k)⟩

theorem onCourse_genWrites {id n : Nat} {s : State} {g : GenReq} (h : OnCourse s id g) :
    OnCourse (genWrites id n s) id g := by
  induction n generalizing s with
  | zero => exact h
  | succ n ih =>
    unfold genWrites
    split
    · split
      · exact h
      · next a bs rest _ =>
        have hunits := prepareWrite_units s a bs.length
        have hkeep : ∀ t, UnitsOnly s t → OnCourse t id g := fun t ⟨_, e⟩ => h.congr (by rw [e])
        cases e : prepareWrite s a bs.length <;> rw [e] at hunits <;> dsimp only
        case ready t =>
          have hwritten := (hkeep t hunits).congr (writeBytes_gens t a bs)
          refine ih (OnCourse.congr (hwritten.updGen ?_) (notePosted_gens _ _ _ _))
          exact fun k => ⟨rfl, rfl, rfl, rfl⟩
        case wait t => exact hkeep t hunits
        case fail t st =>
          split
          · exact (hkeep t hunits).congr (finish_gens _ _ _ _)
          · exact (hkeep t hunits).updGen (fun k => ⟨rfl, rfl, rfl, rfl⟩)
    · exact h

@[simp] theorem genFinish_gens (s : State) (id : Nat) : (genFinish s id).gens = s.gens := by
  unfold genFinish
  repeat' split
  all_goals simp

theorem onCourse_genFlush {id : Nat} {s : State} {g : GenReq} (h : OnCourse s id g) : OnCourse (genFlush s id) id g := by
  unfold genFlush
  split
  · exact (onCourse_genWrites h).congr (genFinish_gens _ _)
  · exact h

/-- A request that ends at a commit. -/
theorem onCourse_endAt {s : State} {id : Nat} {g : GenReq} (reason : Nat) (part : Bool) (h : tabGet s.gens id = some g) :
    OnCourse (endAt s id g reason part) id { g with stage := .ended, outcome := some (reason, statusOf reason part) } := by
  unfold endAt
  extract_lets s1 s2 s3 s4
  have h1 : s1.gens = s.gens := rfl
  have h2 : s2.gens = s.gens := by unfold s2; split <;> simp [h1]
  have h3 : s3.gens = s.gens := by unfold s3; split <;> simp [h2]
  have h4 : tabGet s4.gens id = some _ := tabGet_updGen _ (h3.symm ▸ h)
  exact ⟨_, (congrArg (tabGet · id) (genRelease_gens _ _ _)).trans h4, rfl, rfl, rfl, rfl⟩

theorem onCourse_commitDead {s : State} {id : Nat} {g : GenReq} (h : tabGet s.gens id = some g) :
    OnCourse (commitDead s id g) id { g with stage := .ended, outcome := some (endDead, Code.GRAMMAR_DEAD) } :=
  onCourse_genFlush (onCourse_endAt endDead false h)

theorem commitToken_kept (s : State) (g : GenReq) (cm : Commit) (x : Nat) (d : Bool) (at_ : Nat) :
    (commitToken s g cm x d at_).kept = cm.kept ++ [x] := rfl

/-- A commit keeps the emitted tokens in order up to some token, at least the first. -/
theorem commitAll_kept (s : State) (g : GenReq) (l : List (Nat × Bool)) (hl : l ≠ []) (at_ : Nat) (cm : Commit) :
    ∃ k, 1 ≤ k ∧ (commitAll s g l at_ cm).kept = cm.kept ++ (l.map Prod.fst).take k := by
  induction l generalizing at_ cm with
  | nil => exact absurd rfl hl
  | cons p l ih =>
    obtain ⟨x, d⟩ := p
    unfold commitAll
    dsimp only
    split
    · exact ⟨1, Nat.le_refl 1, by rw [commitToken_kept]; rfl⟩
    · cases l with
      | nil => exact ⟨1, Nat.le_refl 1, rfl⟩
      | cons q l =>
        obtain ⟨k, -, e⟩ := ih (by simp) (at_ + 1) (commitToken s g cm x d at_)
        exact ⟨k + 1, by omega, by rw [e, commitToken_kept, List.append_assoc]; rfl⟩

theorem beginStep_request {s : State} {id : Nat} {g : GenReq} (due : Nat) (h : tabGet s.gens id = some g) :
    ∃ k, tabGet (beginStep s id g due).gens id = some k ∧ k.kept = g.kept ∧ k.steps = g.steps := by
  unfold beginStep
  dsimp only
  split <;> exact ⟨_, tabGet_updGen _ h, rfl, rfl⟩

/-- The commit of a step counts it and keeps its tokens, whether or not it ends the request. -/
theorem commitStep_request {s : State} {id : Nat} {g : GenReq} (h : tabGet s.gens id = some g) (hne : g.emitted ≠ []) :
    ∃ r, tabGet (commitStep s id g).gens id = some r ∧ r.steps = g.steps + 1 ∧
      ∃ k, 1 ≤ k ∧ r.kept = g.kept ++ g.emitted.take k := by
  generalize et : commitStep s id g = t
  unfold commitStep at et
  extract_lets c l forced flags cm k before stream whole text bytes s1 s2 s3 shown base writes g1 s4 at et
  obtain ⟨n, hn, hkept⟩ := commitAll_kept s g flags (by simpa [flags] using hne) (l + 1)
    { kept := g.kept, text := g.text }
  have hfst : flags.map Prod.fst = g.emitted := List.ext_getElem (by simp [flags]) (by simp [flags])
  rw [hfst] at hkept
  have hs3 : s3.gens = s.gens := by
    unfold s3 s2 s1 setLen setDraftLen
    cases forced <;> simp
  have hs4 : tabGet s4.gens id = some g1 := tabGet_updGen (fun _ => g1) (hs3.symm ▸ h)
  have hcourse : ∀ r : GenReq, r.steps = g1.steps → r.kept = g1.kept →
      r.steps = g.steps + 1 ∧ ∃ k, 1 ≤ k ∧ r.kept = g.kept ++ g.emitted.take k :=
    fun r h1 h2 => ⟨h1, n, hn, h2.trans hkept⟩
  revert et
  split
  · rintro rfl
    obtain ⟨r, hr, hsame⟩ := onCourse_genFlush (onCourse_endAt _ _ hs4)
    exact ⟨r, hr, hcourse r hsame.steps hsame.kept⟩
  · intro et
    have hs5 := tabGet_updGen (fun g => { g with
      outbox := g.outbox ++ [(rdOut g.desc, leBytes 64 (outHeader s4 g endRunning))] }) hs4
    rw [hs5] at et
    obtain ⟨r, hr, hrk, hrs⟩ := beginStep_request (beatNow s + 1) hs5
    obtain ⟨q, hq, hsame⟩ := onCourse_genFlush (OnCourse.of_get hr)
    rw [← et]
    exact ⟨q, hq, hcourse q (hsame.steps.trans hrs) (hsame.kept.trans hrk)⟩

theorem commitOne_sampled {s : State} {id : Nat} {g : GenReq} (h : tabGet s.gens id = some g) (hst : g.stage = .sampled)
    (hx : (ctxOf s g.ctx).state = .running) :
    commitOne s id = if g.emitted.isEmpty then commitDead s id g else progressOf (commitStep s id g) g.ctx := by
  simp [commitOne, h, hst, hx]

/-! ### Windows (R45, R46, R83, R87) -/

/-- A window that opens changes the open windows alone, and is among them. -/
theorem openWindow_windows (s : State) (i : Nat) :
    ∃ ws, i ∈ ws ∧ openWindow s i = { s with hem := { s.hem with windows := ws } } := by
  unfold openWindow
  dsimp only
  split
  · next h => exact ⟨_, List.contains_iff_mem.1 h, rfl⟩
  · exact ⟨i :: _, List.mem_cons_self, rfl⟩

theorem serveSave_none {s : State} {c : Nat} (boundary clean : Bool) (h : (ctxOf s c).save = .none) :
    serveSave s c boundary clean = s := by
  simp [serveSave, h]

/-- With no search and no generation there is nothing that holds a context's units open. -/
theorem openUnitsOf_idle {s : State} (c : Nat) (hq : s.queries = []) (hg : s.gens = []) : openUnitsOf s c = [] := by
  simp [openUnitsOf, oldestItem, servable, masksWanted, updCtx, hq, hg]

theorem waitingOrder_none {s : State} {c : Nat} {x : Ctx} (h : s.ctxs = [(c, x)]) (hx : x.state = .running) :
    waitingOrder s = [] := by
  simp [waitingOrder, h, hx, sortBy]

/-- An asked preemption of a running context with no save pending begins. -/
theorem preemptNow_asked {s : State} {c : Nat} {x : Ctx} (h : ctxOf s c = x) (hx : x.state = .running)
    (hp : x.preempt = true) (hsave : x.save = .none) :
    preemptNow s c = setCtx s c { x with leaving := true, preempt := false } := by
  subst h
  simp [preemptNow, serveSave_none _ _ hsave, hp, beginSave, updCtx, hx]

/-- The only context, told to leave its quads with no unit open, begins to save. -/
theorem settleLeaving_saves {s : State} {c : Nat} {x : Ctx} (hc : s.ctxs = [(c, x)]) (hx : x.state = .running)
    (hl : x.leaving = true) (hu : x.openUnits = []) (hq : s.queries = []) (hg : s.gens = []) :
    settleLeaving s = setCtx s c { x with state := .saving } := by
  have hctx : ctxOf s c = x := by simp [ctxOf, hc, tabGet_single]
  simp [settleLeaving, hc, hx, hl, hu, openUnitsOf_idle c hq hg, leaveUnits, updCtx, hctx]

/-- A preemption window with a single context, which is asked to leave and has no unit open. -/
theorem preemptWindow_saves {s : State} {i c : Nat} {x : Ctx} (hw : windowTime s i 3 = true) (hr : running s = true)
    (hc : s.ctxs = [(c, x)]) (hx : x.state = .running) (hp : x.preempt = true) (hu : x.openUnits = [])
    (hsave : x.save = .none) (hq : s.queries = []) (hg : s.gens = []) :
    preemptWindow s i = setCtx (setCtx (openWindow s i) c { x with leaving := true, preempt := false }) c
      { x with leaving := true, preempt := false, state := .saving } := by
  obtain ⟨ws, -, e⟩ := openWindow_windows s i
  have hc1 : (openWindow s i).ctxs = [(c, x)] := by rw [e]; exact hc
  have hask : preemptNow (openWindow s i) c = setCtx (openWindow s i) c { x with leaving := true, preempt := false } :=
    preemptNow_asked (by simp [ctxOf, hc1, tabGet_single]) hx hp hsave
  have hc2 : (setCtx (openWindow s i) c { x with leaving := true, preempt := false }).ctxs =
      [(c, { x with leaving := true, preempt := false })] := by simp [setCtx, hc1, tabSet]
  have hsaves := settleLeaving_saves hc2 hx rfl hu (by rw [e]; exact hq) (by rw [e]; exact hg)
  unfold preemptWindow
  rw [if_pos (by rw [hw, hr]; rfl)]
  dsimp only
  rw [hc1, show tabKeys [(c, x)] = [c] from rfl, List.foldl_cons, List.foldl_nil, hask, waitingOrder_none hc2 hx]
  exact hsaves

/-! ### The statement -/

/-- Settles O24: each event acts in the middle of its beat, and there on the one request or the one context that is named. -/
theorem calendarEvents : Obligations.CalendarEvents := by
  unfold Obligations.CalendarEvents
  refine ⟨?other, ?sealed, ?snapshot, ?mask, ?sample, ?miss, ?commit, ?selftest, ?preempt⟩
  case other =>
    intro s p h
    have same (event : Nat) (hne : p.2.1 ≠ event) : Host.Outcome.next (eventCommand s event) =
        (.next s : Host.Outcome State Fault Refusal) := congrArg _ (eventCommand_other h hne)
    exact ⟨same 5, same 6, same 7, same 8, same 2⟩
  case sealed =>
    intro s i h
    obtain ⟨ws, e⟩ := eventCommand_next h
    rw [(fireEvent_always _).1] at e
    exact ⟨_, congrArg Host.Outcome.next e, rfl, rfl, rfl⟩
  case snapshot =>
    intro s i h
    obtain ⟨ws, e⟩ := eventCommand_next h
    rw [(fireEvent_always _).2] at e
    obtain ⟨hbeat, hhem⟩ := snapshotEvent_beat (midBeat s i ws)
    exact ⟨_, congrArg Host.Outcome.next e, hbeat, by rw [hhem]; rfl,
      fun hperm hex => snapshotEvent_shadows (s := midBeat s i ws) hperm hex⟩
  case mask =>
    intro s i id g h hr hg hl hm hd hx
    obtain ⟨ws, e, hget⟩ := eventCommand_request (fun _ ht => (fireEvent_running ht).1) h hr hg hl
    rw [maskReadyOne_due hget hm hd hx, masksReady_midBeat] at e
    refine ⟨_, congrArg Host.Outcome.next e, fun hready => ?_, fun hlate => ?_⟩
    · rw [if_pos hready, tabGet_updGen _ hget]
      rfl
    · rw [if_neg (Bool.not_eq_true _ ▸ hlate)]
      exact ⟨(tallyGen_gens _ _ _ _ _).trans ((bump_gens _ _ _).trans (setGs_gens _ _ _ _ _)),
        (reg_tallyGen _ _ _ _ _ (by decide)).trans (reg_bump_congr 1 rfl)⟩
  case sample =>
    intro s i id g h hr hg hl hd hst hx hm
    obtain ⟨ws, e, hget⟩ := eventCommand_request (fun _ ht => (fireEvent_running ht).2.1) h hr hg hl
    rw [sampleOne_ready hget hd hst hx hm, genDead_midBeat] at e
    cases hdead : genDead s g 0 <;> rw [hdead] at e
    case false =>
      obtain ⟨k, hk, hstage, hkept, hone⟩ := decideStep_request hget
      exact ⟨_, k, congrArg Host.Outcome.next e, hk, hstage, hkept, fun _ => hone, fun hd => absurd hd (by decide)⟩
    case true =>
      exact ⟨_, _, congrArg Host.Outcome.next e, tabGet_updGen _ hget, rfl, rfl, fun hd => absurd hd (by decide),
        fun _ => rfl⟩
  case miss =>
    intro s i id g h hr hg hl hd hst
    obtain ⟨ws, e, hget⟩ := eventCommand_request (fun _ ht => (fireEvent_running ht).2.1) h hr hg hl
    rw [sampleOne_late hget hd hst] at e
    exact ⟨_, congrArg Host.Outcome.next e, rfl, rfl⟩
  case commit =>
    intro s i id g h hr hg hl hst hx
    obtain ⟨ws, e, hget⟩ := eventCommand_request (fun _ ht => (fireEvent_running ht).2.2) h hr hg hl
    rw [commitOne_sampled hget hst hx] at e
    by_cases hnil : g.emitted = []
    · rw [if_pos (List.isEmpty_iff.2 hnil)] at e
      obtain ⟨k, hk, hsame⟩ := onCourse_commitDead hget
      exact ⟨_, k, congrArg Host.Outcome.next e, hk, fun hne => absurd hnil hne,
        fun _ => ⟨hsame.stage, hsame.kept, hsame.outcome⟩⟩
    · rw [if_neg (mt List.isEmpty_iff.1 hnil)] at e
      obtain ⟨k, hk, hsteps, hkept⟩ := commitStep_request hget hnil
      exact ⟨_, k, congrArg Host.Outcome.next e, (progressOf_gens _ _).symm ▸ hk, fun _ => ⟨hsteps, hkept⟩,
        fun hnil' => absurd hnil' hnil⟩
  case selftest =>
    intro s i h
    obtain ⟨ws, hi, e⟩ := openWindow_windows s i
    refine ⟨_, congrArg Host.Outcome.next ((if_pos h).trans e), hi, rfl⟩
  case preempt =>
    intro s i c x hw hr hc hx hp hu hsave hq hg
    obtain ⟨ws, hi, e⟩ := openWindow_windows s i
    refine ⟨_, congrArg Host.Outcome.next (preemptWindow_saves hw hr hc hx hp hu hsave hq hg), ?_, ?_, ?_, ?_⟩
    · rw [setCtx_hem, setCtx_hem, e]
      exact hi
    · rw [ctxOf_setCtx_self]
    · rw [setCtx_mem, setCtx_mem, e]
    · rw [setCtx_regs, setCtx_regs, e]

end Sys2Proof.Machine

/-! SUPPORT. Images of contexts in memory: what a copy of an image writes and leaves, and with it the commands that save and
restore a context, name its buffers and show its entry (chapter 4). -/

namespace Sys2Proof.Machine

/-! ### Records of memory -/

/-- What is stored leaves all but memory as sending and counting do. -/
theorem Stored.side {s t : State} (h : Stored s t) : Side { s with mem := t.mem } t := h

/-- Only the records that go with memory (units, staging, poisoned lines) and what is sent and counted differ: no byte of
device memory or of the mirror does. -/
structure Recorded (s t : State) : Prop where
  stored : Stored s t
  dev : t.mem.dev = s.mem.dev
  comp : t.mem.comp = s.mem.comp

theorem Recorded.trans {s t u : State} (h : Recorded s t) (k : Recorded t u) : Recorded s u :=
  ⟨h.stored.trans k.stored, k.dev.trans h.dev, k.comp.trans h.comp⟩

theorem recorded_of_side {s t : State} (h : Side s t) : Recorded s t := ⟨stored_of_side h, by rw [h.mem], by rw [h.mem]⟩

theorem recorded_units {s t : State} (h : UnitsOnly s t) : Recorded s t := by
  refine ⟨stored_units h, ?_, ?_⟩ <;> (obtain ⟨us, rfl⟩ := h; rfl)

theorem recorded_unpoison (s : State) (a n : Nat) : Recorded s (unpoison s a n) := ⟨stored_mem s _, rfl, rfl⟩

theorem recorded_stageRange (s : State) (a n : Nat) (counted : Bool) : Recorded s (stageRange s a n counted) := by
  unfold stageRange
  dsimp only
  split
  · exact ⟨.refl s, rfl, rfl⟩
  · exact ⟨stored_mem s _, rfl, rfl⟩

theorem recorded_touchRange (s : State) (a n : Nat) : Recorded s (touchRange s a n) :=
  ⟨stored_touchRange s a n, touchRange_dev s a n, touchRange_comp s a n⟩

/-- The units of a written range are touched and its lines counted. -/
theorem recorded_touched (s : State) (a n : Nat) : Recorded s (countWrites (touchUnits s a n) a n) :=
  (recorded_units (unitsOnly_touchUnits s a n)).trans (recorded_of_side (side_countWrites _ a n))

theorem recorded_noteWritten (s : State) (a n : Nat) : Recorded s (noteWritten s a n) :=
  (recorded_unpoison s a n).trans (recorded_touched _ a n)

theorem Recorded.quiet {s t : State} (h : Recorded s t) (id c : Nat) : Quiet s t id c :=
  ⟨byteAt_congr h.dev h.comp, beside_stored h.stored id c, holdings_stored h.stored, h.stored.side.indexes⟩

theorem Recorded.jobs {s t : State} (h : Recorded s t) : t.jobs = s.jobs := h.stored.side.jobs

theorem Recorded.ctxOf {s t : State} (h : Recorded s t) (c : Nat) : ctxOf t c = ctxOf s c := by
  unfold Machine.ctxOf
  rw [h.stored.side.ctxs]

theorem Recorded.reg {s t : State} (h : Recorded s t) {k : Nat} (hk : sideKey k = false) : reg t k = reg s k :=
  h.stored.side.regs k hk

/-! ### A range of memory replaced by an image (R92, R93) -/

/-- Other bytes in device memory, or in the mirror of companion memory. -/
def setDev (s : State) (m : Mem) : State := { s with mem := { s.mem with dev := m } }
def setComp (s : State) (m : Mem) : State := { s with mem := { s.mem with comp := m } }

/-- The bytes that `putImage` writes, without the records that go with them. -/
def putBytes (s : State) (a n : Nat) (img : Mem) : State :=
  if inWindow a then setComp s (memCopy img 0 n s.mem.comp (a - companionBase)) else setDev s (memCopy img 0 n s.mem.dev a)

theorem recorded_putImage (s : State) (a n : Nat) (img : Mem) : Recorded (putBytes s a n img) (putImage s a n img) := by
  unfold putBytes putImage
  split
  · exact recorded_of_side (side_send _ _)
  · exact ((recorded_unpoison _ a n).trans (recorded_stageRange _ a n true)).trans (recorded_touched _ a n)

theorem stored_putBytes (s : State) (a n : Nat) (img : Mem) : Stored s (putBytes s a n img) := by
  unfold putBytes
  split <;> exact stored_mem s _

/-- A byte of the image stands at its place, where the range does not run into the companion window. -/
theorem byteAt_putBytes {a n i : Nat} {img : Mem} (s : State) (hw : memWf img = true)
    (h : inWindow a = true ∨ a + n ≤ companionBase) (hi : i < n) : byteAt (putBytes s a n img) (a + i) = memByte img i := by
  unfold putBytes byteAt
  by_cases hwin : inWindow a = true
  · have hle : companionBase ≤ a := of_decide_eq_true hwin
    have hin : inWindow (a + i) = true := decide_eq_true (by omega)
    have hoff : a + i - companionBase - (a - companionBase) + 0 = i := by omega
    rw [if_pos hwin, if_pos hin]
    show memByte (memCopy img 0 n s.mem.comp (a - companionBase)) _ = _
    rw [memByte_memCopy _ _ _ _ _ _ hw, if_pos (by omega), hoff]
  · have hlt : a + n ≤ companionBase := h.resolve_left hwin
    have hout : ¬inWindow (a + i) = true := by simp only [inWindow, decide_eq_true_eq]; omega
    rw [if_neg hwin, if_neg hout]
    show memByte (memCopy img 0 n s.mem.dev a) _ = _
    rw [memByte_memCopy _ _ _ _ _ _ hw, if_pos (by omega), Nat.add_sub_cancel_left]
    rfl

/-- No byte outside the range changes. -/
theorem byteAt_putBytes_out (s : State) {a n k : Nat} (img : Mem) (h : k < a ∨ a + n ≤ k) :
    byteAt (putBytes s a n img) k = byteAt s k := by
  unfold putBytes byteAt
  by_cases hwin : inWindow a = true
  · have hle : companionBase ≤ a := of_decide_eq_true hwin
    rw [if_pos hwin]
    split
    · next hk =>
      have hle' : companionBase ≤ k := of_decide_eq_true hk
      exact memByte_memCopy_out _ _ _ _ _ (by omega)
    · rfl
  · rw [if_neg hwin]
    split
    · rfl
    · exact memByte_memCopy_out _ _ _ _ _ h

/-- What a command leaves that writes an image and ends. -/
structure EndsWithImage (s t : State) (id : Nat) (j : Job) (a n : Nat) (img : Mem) (status result : Nat) : Prop where
  ended : ends t id status result
  written : inWindow a = true ∨ a + n ≤ companionBase → ∀ i, i < n → byteAt t (a + i) = memByte img i
  outside : ∀ k, k < a ∨ a + n ≤ k → byteAt t k = byteAt s k
  beside : Beside s t id j.ctx
  holdings : HoldingsKept s t
  indexes : t.indexes = s.indexes

theorem endsWithImage {s u : State} {id : Nat} {j : Job} {a n : Nat} {img : Mem} (hj : tabGet s.jobs id = some j)
    (hw : memWf img = true) (hu : UnitsOnly s u) :
    EndsWithImage s (unacted (notePosted (finish (putImage u a n img) id Code.OK n) id a n)) id j a n img Code.OK n := by
  have hput := recorded_putImage u a n img
  have hbytes := stored_putBytes u a n img
  have hj' : tabGet (putImage u a n img).jobs id = some j := by
    rw [hput.jobs, hbytes.side.jobs]
    exact jobs_units hu ▸ hj
  have hend : Quiet (putBytes u a n img) _ id j.ctx := (hput.quiet id j.ctx).trans
    (((quiet_finish Code.OK n hj').trans (quiet_notePosted _ id a n id j.ctx)).trans (quiet_unacted _ id j.ctx))
  have hunits := quiet_units hu id j.ctx
  exact {
    ended := (ends_congr (by rw [unacted_jobs, notePosted_jobs])).2 (ends_finish Code.OK n hj')
    written := fun hr i hi => (hend.bytes _).trans (byteAt_putBytes u hw hr hi)
    outside := fun k hk => (hend.bytes k).trans ((byteAt_putBytes_out u img hk).trans (hunits.bytes k))
    beside := (hunits.beside.trans (beside_stored hbytes id j.ctx)).trans hend.beside
    holdings := (hunits.holdings.trans (holdings_stored hbytes)).trans hend.holdings
    indexes := hend.indexes.trans ((hbytes.side.indexes).trans hunits.indexes) }

/-! ### Images in canonical form -/

theorem memWf_currentImage (s : State) (c : Nat) (checkpoint : Bool) : memWf (currentImage s c checkpoint) = true := by
  unfold currentImage
  dsimp only
  split
  · exact memWf_imageOf memWf_nil
  · refine memWf_contextPart (memWf_clear _ _ ?_)
    split
    · exact memWf_copy _ _ _ _ memWf_nil
    · rfl

theorem memWf_relayBuffer (src : Mem) (s : State) (a old oldRows n : Nat) {m : Mem} (b : Buffer) (h : memWf m = true) :
    memWf (relayBuffer src s a old oldRows n m b) = true := by
  unfold relayBuffer
  split
  · exact memWf_foldl _ _ h (fun _ _ hm => memWf_copy _ _ _ _ hm)
  · exact memWf_foldl _ _ h (fun _ _ hm => memWf_foldl _ _ hm (fun _ _ hm => memWf_copy _ _ _ _ hm))

theorem memWf_restoredImage (s : State) (a quads : Nat) : memWf (restoredImage s a quads) = true := by
  unfold restoredImage
  dsimp only
  split
  · exact memWf_copy _ _ _ _ memWf_nil
  · exact memWf_foldl _ _ (memWf_copy _ _ _ _ memWf_nil) (fun _ _ hm => memWf_relayBuffer _ _ _ _ _ _ _ hm)

/-! ### The end of a command -/

/-- A command that ends at once leaves only its outcome. -/
theorem onlyOutcome_end (s : State) (j : Job) (id st r : Nat) : OnlyOutcome s (unacted (finish (acting s j) id st r)) := by
  obtain ⟨h1, h2, h3, h4, h5, h6, h7, h8, h9, h10, h11, h12, h13, h14, h15, h16, h17, h18, h19, h20, h21⟩ :=
    onlyOutcome_finish (acting s j) id st r none
  exact ⟨h1, h2, h3, h4, h5, h6, h7, h8, h9, h10, h11, h12, h13, h14, h15, h16, h17, h18, h19, h20, h21⟩

/-- The end of a command changes of a context's entry at most the marks of its progress. -/
theorem ctxOf_end (t : State) (id st r c : Nat) :
    ∃ progress dog, ctxOf (unacted (finish t id st r)) c = { ctxOf t c with progress := progress, dogCount := dog } := by
  rcases ctxOf_finish t id st r c with h | h
  · exact ⟨(ctxOf t c).progress, (ctxOf t c).dogCount, h⟩
  · exact ⟨true, 0, h⟩

/-- A command that has changed its context's entry ends: the entry keeps what was put into it. -/
theorem setCtx_end {s t : State} {id : Nat} {j : Job} (y : Ctx) (st r : Nat) (hb : Beside s t id j.ctx)
    (hh : HoldingsKept s t) (hi : t.indexes = s.indexes) (hj : tabGet t.jobs id = some j) :
    ends (unacted (finish (setCtx t j.ctx y) id st r)) id st r ∧ (unacted (finish (setCtx t j.ctx y) id st r)).mem = t.mem ∧
      (∃ progress dog, ctxOf (unacted (finish (setCtx t j.ctx y) id st r)) j.ctx =
        { y with progress := progress, dogCount := dog }) ∧
      Beside s (unacted (finish (setCtx t j.ctx y) id st r)) id j.ctx ∧
      HoldingsKept s (unacted (finish (setCtx t j.ctx y) id st r)) ∧
      (unacted (finish (setCtx t j.ctx y) id st r)).indexes = s.indexes := by
  have hctx := ctxOf_end (setCtx t j.ctx y) id st r j.ctx
  rw [ctxOf_setCtx_self] at hctx
  exact ⟨ends_end st r hj, by simp, hctx, beside_end (hb.trans (beside_setCtx t j.ctx y id)) hj,
    holdings_end (hh.trans (holdings_setCtx t j.ctx y)), by simpa using hi⟩

/-! ### CTX_SAVE (R92) -/

theorem exec_ctxSave_image {s u : State} {id : Nat} {j : Job} (h : runsNow s id Op.CTX_SAVE noSources j = true)
    (hq : (ctxOf s j.ctx).quads = []) (hsize : saveBytesOf s (ctxOf s j.ctx).partition ≤ cxSize j.entry)
    (hread : ((ctxOf s j.ctx).hasImage && readBad s (ctxOf s j.ctx).saveAddr (ctxOf s j.ctx).saveBytes) = false)
    (hu : prepareWrite (acting s j) (cxAddr j.entry) (saveBytesOf s (ctxOf s j.ctx).partition) = .ready u) :
    exec (.ctxSave id) s = .next (unacted (notePosted (finish
      (putImage u (cxAddr j.entry) (saveBytesOf s (ctxOf s j.ctx).partition) (currentImage s j.ctx (cxCheckpoint j.entry)))
      id Code.OK (saveBytesOf s (ctxOf s j.ctx).partition)) id (cxAddr j.entry)
      (saveBytesOf s (ctxOf s j.ctx).partition))) := by
  refine runJob_next h ?_
  have hroom : ¬cxSize j.entry < saveBytesOf (acting s j) (ctxOf (acting s j) j.ctx).partition := Nat.not_lt.2 hsize
  have hnone : (!holdsQuads (ctxOf (acting s j) j.ctx)) = true := by
    show (!holdsQuads (ctxOf s j.ctx)) = true
    simp [holdsQuads, hq]
  have hgood : ¬((ctxOf (acting s j) j.ctx).hasImage &&
      readBad (acting s j) (ctxOf (acting s j) j.ctx).saveAddr (ctxOf (acting s j) j.ctx).saveBytes) = true :=
    Bool.eq_false_iff.1 hread
  unfold ctxSaveBody
  dsimp only
  rw [if_neg hroom, if_pos hnone, if_neg hgood]
  unfold deliverImage withWrite
  rw [show prepareWrite (acting s j) (cxAddr j.entry) (saveBytesOf (acting s j) (ctxOf (acting s j) j.ctx).partition) =
    .ready u from hu]
  rfl

theorem exec_ctxSave_asks {s : State} {id : Nat} {j : Job} (h : runsNow s id Op.CTX_SAVE noSources j = true)
    (hq : (ctxOf s j.ctx).quads ≠ []) (hsize : saveBytesOf s (ctxOf s j.ctx).partition ≤ cxSize j.entry)
    (hsave : (ctxOf s j.ctx).save = .none) :
    exec (.ctxSave id) s = .next (unacted (updCtx (updJob (acting s j) id (fun j => { j with phase := .running })) j.ctx
      (fun y => { y with save := if cxCheckpoint j.entry then .checkpoint id else .copy id }))) := by
  refine runJob_next h ?_
  have hroom : ¬cxSize j.entry < saveBytesOf (acting s j) (ctxOf (acting s j) j.ctx).partition := Nat.not_lt.2 hsize
  have hheld : ¬(!holdsQuads (ctxOf (acting s j) j.ctx)) = true := by
    show ¬(!holdsQuads (ctxOf s j.ctx)) = true
    simp [holdsQuads, hq]
  have hfree : ((ctxOf (acting s j) j.ctx).save == .none) = true := by
    show ((ctxOf s j.ctx).save == .none) = true
    rw [hsave]
    rfl
  unfold ctxSaveBody
  dsimp only
  rw [if_neg hroom, if_neg hheld, if_pos hfree]

/-! ### CTX_RESTORE (R93) -/

/-- What a restore reads of memory and of settings does not change with the records of memory. -/
theorem Recorded.restoreReads {s t : State} (h : Recorded s t) :
    natAt t = natAt s ∧ saveBytesOf t = saveBytesOf s ∧ buffersOf t = buffersOf s ∧ restoredImage t = restoredImage s := by
  have hrows : contextRows t = contextRows s := by unfold contextRows; rw [h.reg (by decide)]
  have hnat : natAt t = natAt s := natAt_congr h.dev h.comp
  have hsame : sameGeometry t = sameGeometry s := by funext h q; unfold sameGeometry; rw [hrows]
  have hblock : blockImageBytes t = blockImageBytes s := by unfold blockImageBytes; rw [hrows]
  have hat : blockImageAt t = blockImageAt s := by funext b i; unfold blockImageAt; rw [hblock]
  have hrow : ∀ src, relayRow src t = relayRow src s := fun src => by unfold relayRow; rw [hat]
  have hrelay : ∀ src, relayBuffer src t = relayBuffer src s := fun src => by unfold relayBuffer; rw [hrow]
  have hbytes : saveBytesOf t = saveBytesOf s := by unfold saveBytesOf; rw [hblock]
  have hbuffers : buffersOf t = buffersOf s := by unfold buffersOf; rw [hnat]
  refine ⟨hnat, hbytes, hbuffers, ?_⟩
  unfold restoredImage
  simp only [hnat, hsame, hbuffers, hbytes, h.dev, h.comp, hrelay]

theorem exec_ctxRestore {s : State} {id : Nat} {j : Job} (h : runsNow s id Op.CTX_RESTORE ctxRestoreSources j = true)
    (hwork : j.work = []) (hmore : j.more = true ∨ windowRanges (imageRest s (cxAddr j.entry)) = []) :
    exec (.ctxRestore id) s = .next (unacted (restoreFrom (acting s j) id j)) := by
  refine runJob_next h ?_
  have hread : (j.more || (windowRanges (imageRest (acting s j) (cxAddr j.entry))).isEmpty) = true := by
    show (j.more || (windowRanges (imageRest s (cxAddr j.entry))).isEmpty) = true
    rcases hmore with e | e <;> simp [e]
  unfold ctxRestoreBody
  rw [hwork]
  dsimp only
  unfold fetchMore
  exact if_pos hread

theorem restoreFrom_refused {s : State} {id : Nat} {j : Job}
    (h : restoreCheck s (cxAddr j.entry) (cxQuads j.entry) ≠ Code.OK) :
    restoreFrom s id j = finish s id (restoreCheck s (cxAddr j.entry) (cxQuads j.entry)) 0 :=
  if_pos (bne_iff_ne.2 h)

theorem restoreFrom_applied {s : State} {id : Nat} {j : Job}
    (h : restoreCheck s (cxAddr j.entry) (cxQuads j.entry) = Code.OK) (hp : cxQuads j.entry = (ctxOf s j.ctx).partition)
    (hq : (ctxOf s j.ctx).quads = []) :
    restoreFrom s id j = finish (applyRestore (touchRange s (cxAddr j.entry) (imageBytes s (cxAddr j.entry))) j.ctx
      (cxAddr j.entry) (cxQuads j.entry) (ctxOf s j.ctx).saveAddr) id Code.OK (imageBytes s (cxAddr j.entry)) := by
  have hnone : ¬holdsQuads (ctxOf s j.ctx) = true := by simp [holdsQuads, hq]
  unfold restoreFrom
  dsimp only
  rw [if_neg (by simp [h]), if_pos (by simp [hp]), if_neg hnone]

/-- The save area with a restored image in it, before the context is given it. -/
def imageHeld (s : State) (a quads addr : Nat) : State :=
  noteWritten (setDev s (memCopy (restoredImage s a quads) 0 (saveBytesOf s quads) s.mem.dev addr)) addr (saveBytesOf s quads)

/-- A context's entry given the context part of an image. -/
def restoredCtx (s : State) (x : Ctx) (a quads addr : Nat) (st : CtxState) : Ctx := { x with
  state := st, quads := [], leaving := false, preempt := false, hasImage := true, partition := quads,
  saveBytes := saveBytesOf s quads, saveAddr := addr, buffers := buffersOf s a, groupMap := natAt s (a + 0x1040) 4,
  formatState := natAt s (a + 0x1080) 64, genState := natAt s (a + 0x10C0) 64, formatArea := natAt s (a + 0x1100) 2064,
  windows := if sameGeometry s (natAt s a 64) quads then x.windows else [] }

/-- A restored image is given to a context without quads: no quad returns, and its entry alone changes. -/
theorem applyRestore_placeless {s : State} {c : Nat} (a quads addr : Nat) (h : (ctxOf s c).quads = []) :
    ∃ st, (st = .idle ∨ st = .waiting) ∧
      applyRestore s c a quads addr = setCtx (imageHeld s a quads addr) c (restoredCtx s (ctxOf s c) a quads addr st) := by
  refine ⟨if isHolder (imageHeld s a quads addr) c then .idle else .waiting, by split <;> simp, ?_⟩
  simp only [applyRestore, imageHeld, restoredCtx, setDev, h, List.append_nil]
  rfl

/-- An image restored into a context without quads: its bytes are in the save area, and no other byte changes. -/
theorem imageHeld_bytes (s : State) (a quads addr : Nat) :
    (∀ i, i < saveBytesOf s quads →
      memByte (imageHeld s a quads addr).mem.dev (addr + i) = memByte (restoredImage s a quads) i) ∧
    ∀ k, k < addr ∨ addr + saveBytesOf s quads ≤ k → byteAt (imageHeld s a quads addr) k = byteAt s k := by
  have hrec := recorded_noteWritten (setDev s (memCopy (restoredImage s a quads) 0 (saveBytesOf s quads) s.mem.dev addr))
    addr (saveBytesOf s quads)
  constructor
  · intro i hi
    unfold imageHeld
    rw [hrec.dev]
    show memByte (memCopy (restoredImage s a quads) 0 (saveBytesOf s quads) s.mem.dev addr) (addr + i) = _
    rw [memByte_memCopy _ _ _ _ _ _ (memWf_restoredImage s a quads), if_pos (by omega), Nat.add_sub_cancel_left]
    rfl
  · intro k hk
    unfold imageHeld
    rw [byteAt_congr hrec.dev hrec.comp]
    unfold byteAt setDev
    split
    · rfl
    · exact memByte_memCopy_out _ _ _ _ _ hk

theorem stored_imageHeld (s : State) (a quads addr : Nat) : Stored s (imageHeld s a quads addr) :=
  (stored_mem s _).trans (recorded_noteWritten _ addr _).stored

theorem exec_ctxRestore_applied {s : State} {id : Nat} {j : Job}
    (h : runsNow s id Op.CTX_RESTORE ctxRestoreSources j = true) (hwork : j.work = [])
    (hmore : j.more = true ∨ windowRanges (imageRest s (cxAddr j.entry)) = [])
    (hcheck : restoreCheck s (cxAddr j.entry) (cxQuads j.entry) = Code.OK)
    (hp : cxQuads j.entry = (ctxOf s j.ctx).partition) (hq : (ctxOf s j.ctx).quads = []) :
    ∃ r st, Recorded (acting s j) r ∧ (st = .idle ∨ st = .waiting) ∧ exec (.ctxRestore id) s = .next (unacted (finish
      (setCtx (imageHeld r (cxAddr j.entry) (cxQuads j.entry) (ctxOf s j.ctx).saveAddr) j.ctx
        (restoredCtx r (ctxOf s j.ctx) (cxAddr j.entry) (cxQuads j.entry) (ctxOf s j.ctx).saveAddr st))
      id Code.OK (imageBytes s (cxAddr j.entry)))) := by
  have hread := recorded_touchRange (acting s j) (cxAddr j.entry) (imageBytes (acting s j) (cxAddr j.entry))
  have hctx : ctxOf _ j.ctx = ctxOf s j.ctx := hread.ctxOf j.ctx
  obtain ⟨st, hst, happly⟩ := applyRestore_placeless (cxAddr j.entry) (cxQuads j.entry) (ctxOf (acting s j) j.ctx).saveAddr
    ((congrArg Ctx.quads hctx).trans hq)
  refine ⟨_, st, hread, hst, ?_⟩
  rw [exec_ctxRestore h hwork hmore, restoreFrom_applied (s := acting s j) hcheck hp hq, happly, hctx]
  rfl

/-! ### CTX_BUFFER and CTX_QUERY (R83, R94) -/

theorem exec_ctxBuffer {s : State} {id : Nat} {j : Job} (h : runsNow s id Op.CTX_BUFFER noSources j = true) :
    exec (.ctxBuffer id) s = .next (unacted (finish (setCtx (acting s j) j.ctx { ctxOf s j.ctx with
      naming := tabSet (ctxOf s j.ctx).naming (cxBufferId j.entry) (cxBuffer j.entry) }) id Code.OK
      (applyNaming { ctxOf s j.ctx with
        naming := tabSet (ctxOf s j.ctx).naming (cxBufferId j.entry) (cxBuffer j.entry) }).buffers.length)) := by
  refine runJob_next h ?_
  unfold ctxBufferBody updCtx
  dsimp only
  rw [ctxOf_setCtx_self]
  rfl

theorem exec_ctxQuery {s : State} {id : Nat} {j : Job} (h : runsNow s id Op.CTX_QUERY noSources j = true) :
    exec (.ctxQuery id) s = .next (unacted (withWrite (acting s j) id (cxAddr j.entry) 512 (fun x => finish
      (writeBytes x (cxAddr j.entry) (leBytes 512 (ctxEntryCode (ctxOf s j.ctx)))) id Code.OK 512))) := by
  refine runJob_next h ?_
  unfold ctxQueryBody writeAndFinish
  rw [leBytes_length]
  rfl

/-! ### The statement -/

/-- Settles O38: each command's state is written out; the bytes of images are those of `putBytes` and `imageHeld`. -/
theorem contextImages : Obligations.ContextImages := by
  unfold Obligations.ContextImages
  refine ⟨?save, ?asks, ?restore, ?refused, ?buffer, ?query⟩
  case save =>
    intro s u id j h hq hsize hread hu
    obtain ⟨hends, hin, hout, hbeside, hholdings, hindexes⟩ := endsWithImage (runsNow_acting h)
      (memWf_currentImage s j.ctx (cxCheckpoint j.entry)) (prepareWrite_ready hu)
    have hact := quiet_acting s j id j.ctx
    exact ⟨_, exec_ctxSave_image h hq hsize hread hu, hends, hin, hout, hact.beside.trans hbeside,
      hact.holdings.trans hholdings, hindexes⟩
  case asks =>
    intro s id j h hq hsize hsave
    have hquiet (f : Job → Job) (g : Ctx → Ctx) :
        Quiet s (unacted (updCtx (updJob (acting s j) id f) j.ctx g)) id j.ctx :=
      ((quiet_acting s j id j.ctx).trans (quiet_updJob _ id j.ctx f)).trans
        ((quiet_updCtx _ id j.ctx g).trans (quiet_unacted _ id j.ctx))
    refine ⟨_, exec_ctxSave_asks h hq hsize hsave, ?_, ?_, rfl, (hquiet _ _).beside, (hquiet _ _).holdings⟩
    · rw [unacted_jobs, updCtx_jobs, updJob_get, runsNow_acting h]
      rfl
    · rw [ctxOf_unacted]
      exact ctxOf_setCtx_self _ _ _
  case restore =>
    intro s id j h hwork hmore hcheck hp hq
    obtain ⟨r, st, hread, hst, hexec⟩ := exec_ctxRestore_applied h hwork hmore hcheck hp hq
    obtain ⟨(hnat : natAt r = natAt s), hbytes, hbuffers, himage⟩ := hread.restoreReads
    obtain ⟨hin, hout⟩ := imageHeld_bytes r (cxAddr j.entry) (cxQuads j.entry) (ctxOf s j.ctx).saveAddr
    have hheld := stored_imageHeld r (cxAddr j.entry) (cxQuads j.entry) (ctxOf s j.ctx).saveAddr
    have hquiet := (quiet_acting s j id j.ctx).trans (hread.quiet id j.ctx)
    obtain ⟨hends, hmem, ⟨p, d, hctx⟩, hbeside, hholdings, hindexes⟩ := setCtx_end
      (restoredCtx r (ctxOf s j.ctx) (cxAddr j.entry) (cxQuads j.entry) (ctxOf s j.ctx).saveAddr st) Code.OK
      (imageBytes s (cxAddr j.entry)) (hquiet.beside.trans (beside_stored hheld id j.ctx))
      (hquiet.holdings.trans (holdings_stored hheld)) (hheld.side.indexes.trans hquiet.indexes)
      ((congrArg (tabGet · id) (hheld.side.jobs.trans hread.jobs)).trans (runsNow_acting h))
    rw [hbytes, himage] at hin
    rw [hbytes] at hout
    refine ⟨_, hexec, hends, fun i hi => ?_, fun k hk => ?_, ?_, ?_, ?_, ?_, ?_, ?_, ?_, hbeside, hholdings, hindexes⟩
    · rw [hmem]
      exact hin i hi
    · rw [byteAt_congr (congrArg MemS.dev hmem) (congrArg MemS.comp hmem)]
      exact (hout k hk).trans (hquiet.bytes k)
    · rw [hctx]; exact hst
    · rw [hctx]; rfl
    · rw [hctx]; exact congrFun hbuffers _
    · rw [hctx]; simp only [restoredCtx, hnat]
    · rw [hctx]; simp only [restoredCtx, hnat]
    · rw [hctx]; simp only [restoredCtx, hnat]
    · rw [hctx]; rfl
  case refused =>
    intro s id j h hwork hmore hcheck
    rw [exec_ctxRestore h hwork hmore, restoreFrom_refused (s := acting s j) hcheck]
    exact ⟨_, rfl, ends_end _ _ (runsNow_acting h), onlyOutcome_end s j id _ 0⟩
  case buffer =>
    intro s id j h
    have hact := quiet_acting s j id j.ctx
    obtain ⟨hends, hmem, ⟨p, d, hctx⟩, hbeside, hholdings, -⟩ := setCtx_end
      { ctxOf s j.ctx with naming := tabSet (ctxOf s j.ctx).naming (cxBufferId j.entry) (cxBuffer j.entry) } Code.OK
      (applyNaming { ctxOf s j.ctx with
        naming := tabSet (ctxOf s j.ctx).naming (cxBufferId j.entry) (cxBuffer j.entry) }).buffers.length
      hact.beside hact.holdings hact.indexes (runsNow_acting h)
    exact ⟨_, exec_ctxBuffer h, by rw [hctx], hends, by rw [hctx], hmem, hbeside, hholdings⟩
  case query =>
    intro s u id j h hu
    obtain ⟨hends, hwritten, hout, hbeside, hholdings, -⟩ := (endsWith_withWrite (st := Code.OK) (r := 512)
      (bs := leBytes 512 (ctxEntryCode (ctxOf s j.ctx))) (fun x => x) (leBytes_length 512 _).symm (leBytes_lt 512 _)
      (quiet_acting s j id j.ctx) hu (runsNow_acting h) (fun x => ⟨.refl x id j.ctx, rfl, rfl, rfl⟩)).unacted
    rw [leBytes_length] at hwritten hout
    exact ⟨_, exec_ctxQuery h, hends, hwritten, hout, hbeside, hholdings⟩

end Sys2Proof.Machine

/-! SUPPORT. Saves and restores that end, contexts that fault, and the models of the Wardrobe (chapter 4). -/

namespace Sys2Proof.Machine

/-! ### Contexts that fault (R89, R90, R91) -/

/-- A context is fenced with a cause, and nothing of another context, of a command or of the memories changes. -/
structure Fenced (s t : State) (c st : Nat) : Prop where
  state : (ctxOf t c).state = .tearingDown
  lastStatus : (ctxOf t c).lastStatus = st
  freeAfter : (ctxOf t c).freeAfter = false
  others : ∀ d, d ≠ c → ctxOf t d = ctxOf s d
  mem : t.mem = s.mem
  jobs : t.jobs = s.jobs
  acc : t.acc = s.acc
  pocket : t.pocket = s.pocket

theorem fenced_faultCtx {s : State} {c : Nat} (st : Nat)
    (h : (ctxOf s c).state ∈ [CtxState.idle, .waiting, .restoring, .running, .saving]) :
    Fenced s (faultCtx s c st) c st := by
  have hfence := ctxOf_fenceBy st none false (teardownUnit st) 0 h
  have hself : ctxOf (faultCtx s c st) c = _ := (hfence c).trans (if_pos rfl)
  constructor
  case others => exact fun d hd => (hfence d).trans (if_neg hd)
  case mem => exact faultCtx_mem s c st
  case jobs => exact faultCtx_jobs s c st
  case acc => exact faultCtx_acc s c st
  case pocket => exact faultCtx_pocket s c st
  all_goals rw [hself]

/-- A fault of Cloak is logged, and its context is fenced. -/
theorem fenced_cloakFault {s : State} {c : Nat} (st : Nat)
    (h : (ctxOf s c).state ∈ [CtxState.idle, .waiting, .restoring, .running, .saving]) :
    Fenced s (faultCtx (logError s .cloak 0 Code.ECC_UNCORRECTABLE c .teardown 0) c st) c st := by
  obtain ⟨hstate, hlast, hfree, hothers, hmem, hjobs, hacc, hpocket⟩ :=
    fenced_faultCtx (s := logError s .cloak 0 Code.ECC_UNCORRECTABLE c .teardown 0) st h
  exact ⟨hstate, hlast, hfree, hothers, hmem, hjobs, hacc, hpocket⟩

/-- An abort of a job leaves the count of hung contexts. -/
theorem reg_beginAbort_hung (s : State) {job : Nat} (cause : Nat) (hj : job < 255) :
    reg (beginAbort s job cause) Key.CTX_HUNG = reg s Key.CTX_HUNG := by
  have hkey : Key.CTX_HUNG ≠ Key.PELGAN_JOB job := by unfold Key.CTX_HUNG Key.PELGAN_JOB; omega
  unfold beginAbort
  dsimp only
  split
  · refine (reg_congr (s := countChip _ _ _ _) rfl _).trans ((reg_countChip _ _ _ _ (by decide)).trans ?_)
    rw [reg_bump_ne _ _ (by decide), reg_sendAbort _ _ _ _ _ _ (by decide), reg_setReg_ne _ _ hkey]
  · rfl

/-- A running context that is faulted as hung is counted. -/
theorem reg_faultCtx_hung {s : State} {c : Nat} (h : (ctxOf s c).state = .running) :
    reg (faultCtx s c Code.CTX_HUNG) Key.CTX_HUNG = reg (bump s Key.CTX_HUNG 1) Key.CTX_HUNG := by
  have hlog : reg (logError s (teardownUnit Code.CTX_HUNG) 0 Code.CTX_HUNG c .teardown 0) Key.CTX_HUNG = reg s Key.CTX_HUNG :=
    reg_logError _ _ _ _ _ _ _ (by decide)
  unfold faultCtx fence fenceBy
  dsimp only
  rw [h]
  dsimp only
  split
  · next job hjob =>
    rw [reg_beginAbort_hung _ _ (boundJob_lt hjob)]
    exact reg_bump_congr 1 hlog
  · exact reg_bump_congr 1 hlog

/-! ### The end of a save (R88, R89) -/

theorem isHolder_congr {s t : State} (h : t.jobs = s.jobs) (c : Nat) : isHolder t c = isHolder s c := by
  unfold isHolder openJobsOf jobsOf
  rw [h]

/-- The data that Cloak moves is counted. -/
theorem side_cloakMoved (s : State) (c : Nat) : Side s (cloakMoved s c) := by
  have h := side_countRegion { s with perf := { s.perf with actor := some c } } (engineRegion s c 0) 0x217
    ((ctxOf s c).saveBytes / 64) { inst := engineRegion s c 0 }
  exact { h with actor := rfl }

/-- The image of a context stands in its save area; its records are still to be made, and it still holds its quads. -/
def imageSaved (s : State) (c : Nat) : State :=
  let s0 := advanceTimed (undoClaims s c)
  { s0 with
    mem := { s0.mem with dev := imageOf s0 c false s0.mem.dev (ctxOf s c).saveAddr }
    gens := tabMap s0.gens (fun _ g => if g.ctx == c then { g with masks := [], maskBeat := none } else g) }

/-- Only device memory and the context's own windows and masks change. -/
theorem imageSaved_frame (s : State) (c : Nat) :
    (imageSaved s c).mem.dev = imageOf (advanceTimed (undoClaims s c)) c false s.mem.dev (ctxOf s c).saveAddr ∧
      (imageSaved s c).mem.comp = s.mem.comp ∧ (imageSaved s c).jobs = s.jobs ∧ (imageSaved s c).acc = s.acc ∧
      (imageSaved s c).pocket = s.pocket ∧ (∀ d, d ≠ c → ctxOf (imageSaved s c) d = ctxOf s d) ∧
      ∀ k, sideKey k = false → reg (imageSaved s c) k = reg s k := by
  have hside := side_advanceTimed (undoClaims s c)
  have hctxs : (imageSaved s c).ctxs = (undoClaims s c).ctxs := hside.ctxs
  refine ⟨?_, ?_, hside.jobs, hside.acc, hside.pocket, fun d hd => ?_, hside.regs⟩
  · show imageOf _ c false (advanceTimed (undoClaims s c)).mem.dev _ = _
    rw [hside.mem]
    rfl
  · show (advanceTimed (undoClaims s c)).mem.comp = _
    rw [hside.mem]
    rfl
  · unfold ctxOf
    rw [hctxs]
    exact ctxOf_setCtx_ne s _ hd

/-- The image of a context is saved and recorded. -/
def saveRecorded (s : State) (c : Nat) : State :=
  cloakMoved (noteWritten (imageSaved s c) (ctxOf s c).saveAddr (ctxOf s c).saveBytes) c

theorem recorded_saveRecorded (s : State) (c : Nat) : Recorded (imageSaved s c) (saveRecorded s c) :=
  (recorded_noteWritten _ _ _).trans (recorded_of_side (side_cloakMoved _ c))

/-- A context's entry is replaced and an event counted: the rest of the state stays. -/
structure EntryCounted (u t : State) (c : Nat) (y : Ctx) (k : Nat) : Prop where
  self : ctxOf t c = y
  others : ∀ d, d ≠ c → ctxOf t d = ctxOf u d
  mem : t.mem = u.mem
  jobs : t.jobs = u.jobs
  acc : t.acc = u.acc
  pocket : t.pocket = u.pocket
  counted : reg t k = reg (bump u k 1) k

theorem entryCounted_bump_setCtx (u : State) (c : Nat) (y : Ctx) (k : Nat) :
    EntryCounted u (bump (setCtx u c y) k 1) c y k := by
  constructor
  case self => exact ctxOf_setCtx_self u c y
  case others => exact fun d hd => ctxOf_setCtx_ne u y hd
  all_goals rfl

theorem exec_cloakSaveDone_ok {s : State} {c : Nat} (hstate : (ctxOf s c).state = .saving)
    (hslice : (blocksOf (ctxOf s c)).any (sliced s) = false) :
    exec (.cloakSaveDone c true) s = .next (bump (setCtx (saveRecorded s c) c
      (afterSave (saveRecorded s c) c (ctxOf (saveRecorded s c) c))) Key.CTX_PREEMPTIONS 1) := by
  refine congrArg Host.Outcome.next ?_
  unfold cloakSaveDone
  dsimp only
  rw [if_pos (by rw [hstate, hslice]; rfl), if_pos rfl]
  rfl

theorem exec_cloakSaveDone_bad {s : State} {c : Nat} (hstate : (ctxOf s c).state = .saving)
    (hslice : (blocksOf (ctxOf s c)).any (sliced s) = false) :
    exec (.cloakSaveDone c false) s =
      .next (faultCtx (logError s .cloak 0 Code.ECC_UNCORRECTABLE c .teardown 0) c Code.CTX_FAULT) := by
  refine congrArg Host.Outcome.next ?_
  unfold cloakSaveDone
  dsimp only
  rw [if_pos (by rw [hstate, hslice]; rfl)]
  rfl

/-- A saved context of a holder waits for a command, another for its work. -/
theorem afterSave_state {s t : State} (y : Ctx) (c : Nat) (h : t.jobs = s.jobs) :
    (afterSave t c y).state = if isHolder s c then .idle else .waiting := by
  unfold afterSave
  dsimp only
  rw [isHolder_congr h c]

/-! ### The end of a restore (R80, R89) -/

theorem calm_clearBlock (s : State) (b : Nat) : Calm s (clearBlock s b) := by
  constructor
  case settings => exact fun _ _ => rfl
  all_goals rfl

theorem calm_loadBlock (s : State) (base i b : Nat) : Calm s (loadBlock s base i b) := by
  constructor
  case settings => exact fun _ _ => rfl
  all_goals rfl

/-- A context's image is loaded into accumulators, Pockets and counters, and its entry takes the image's windows. -/
theorem loadImage_eq (s : State) (c : Nat) :
    ∃ u ws, Calm s u ∧ loadImage s c = updCtx u c (fun y => { y with windows := ws }) := by
  unfold loadImage
  dsimp only
  split
  · refine ⟨_, _, calm_foldl _ _ (fun t i _ => ?_) s, rfl⟩
    split
    · exact calm_loadBlock ..
    · exact .refl t
  · exact ⟨_, _, calm_foldl _ _ (fun t b _ => calm_clearBlock t b) s, rfl⟩

theorem loadImage_mem (s : State) (c : Nat) : (loadImage s c).mem = s.mem := by
  obtain ⟨u, ws, hcalm, hload⟩ := loadImage_eq s c
  rw [hload]
  exact hcalm.mem

theorem loadImage_jobs (s : State) (c : Nat) : (loadImage s c).jobs = s.jobs := by
  obtain ⟨u, ws, hcalm, hload⟩ := loadImage_eq s c
  rw [hload]
  exact hcalm.jobs

theorem loadImage_quads (s : State) (c : Nat) : (ctxOf (loadImage s c) c).quads = (ctxOf s c).quads := by
  obtain ⟨u, ws, hcalm, hload⟩ := loadImage_eq s c
  have hself : ctxOf (updCtx u c (fun y => { y with windows := ws })) c = { ctxOf u c with windows := ws } :=
    ctxOf_setCtx_self _ _ _
  rw [hload, hself, hcalm.ctxOf c]

theorem ctxOf_loadImage_ne (s : State) {c d : Nat} (h : d ≠ c) : ctxOf (loadImage s c) d = ctxOf s d := by
  obtain ⟨u, ws, hcalm, hload⟩ := loadImage_eq s c
  rw [hload]
  exact (ctxOf_setCtx_ne _ _ h).trans (hcalm.ctxOf d)

theorem mem_acc_clearBlocks (p : Nat × Nat) (l : List Nat) (s : State) :
    p ∈ (l.foldl clearBlock s).acc ↔ p ∈ s.acc ∧ p.1 / 65536 ∉ l := by
  induction l generalizing s with
  | nil => simp
  | cons b l ih =>
    rw [List.foldl_cons, ih]
    show p ∈ s.acc.filter (fun p => p.1 / 65536 != b) ∧ _ ↔ _
    simp [and_assoc]

/-- A context without an image begins with no window and with zeros in the accumulators of its blocks alone. -/
theorem loadImage_fresh {s : State} {c : Nat} (h : (ctxOf s c).hasImage = false) :
    (ctxOf (loadImage s c) c).windows = [] ∧
      ∀ p, p ∈ (loadImage s c).acc ↔ p ∈ s.acc ∧ p.1 / 65536 ∉ blocksOf (ctxOf s c) := by
  have himage : loadImage s c = updCtx ((blocksOf (ctxOf s c)).foldl clearBlock s) c (fun y => { y with windows := [] }) :=
    if_neg (by rw [h]; decide)
  rw [himage]
  exact ⟨congrArg Ctx.windows (ctxOf_setCtx_self _ _ _), fun p => mem_acc_clearBlocks p _ _⟩

/-- The state in which a context's image has been read and loaded. -/
def imageLoaded (s : State) (c : Nat) : State :=
  cloakMoved (touchRange (loadImage s c) (ctxOf s c).saveAddr (if (ctxOf s c).hasImage then (ctxOf s c).saveBytes else 0)) c

theorem recorded_imageLoaded (s : State) (c : Nat) : Recorded (loadImage s c) (imageLoaded s c) :=
  (recorded_touchRange _ _ _).trans (recorded_of_side (side_cloakMoved _ c))

theorem imageLoaded_mem (s : State) (c : Nat) : ∃ us, (imageLoaded s c).mem = { s.mem with units := us } := by
  obtain ⟨us, hmem⟩ := touchRange_mem (loadImage s c) (ctxOf s c).saveAddr
    (if (ctxOf s c).hasImage then (ctxOf s c).saveBytes else 0)
  exact ⟨us, (side_cloakMoved _ c).mem.trans (by rw [hmem, loadImage_mem])⟩

theorem exec_cloakRestoreDone_ok {s : State} {c : Nat} {ok : Bool} (hstate : (ctxOf s c).state = .restoring)
    (hvac : vacating s c (ctxOf s c) = false) (hslice : (blocksOf (ctxOf s c)).any (sliced s) = false)
    (hok : (ok && !((ctxOf s c).hasImage && readBad s (ctxOf s c).saveAddr (ctxOf s c).saveBytes)) = true) :
    exec (.cloakRestoreDone c ok) s = .next (updCtx (imageLoaded s c) c (fun y => { y with state := .running })) := by
  refine congrArg Host.Outcome.next ?_
  unfold cloakRestoreDone
  dsimp only
  rw [if_pos (by rw [hstate, hvac, hslice]; rfl), if_pos hok]
  rfl

theorem exec_cloakRestoreDone_bad {s : State} {c : Nat} {ok : Bool} (hstate : (ctxOf s c).state = .restoring)
    (hvac : vacating s c (ctxOf s c) = false) (hslice : (blocksOf (ctxOf s c)).any (sliced s) = false)
    (hbad : (ok && !((ctxOf s c).hasImage && readBad s (ctxOf s c).saveAddr (ctxOf s c).saveBytes)) = false) :
    exec (.cloakRestoreDone c ok) s =
      .next (faultCtx (logError s .cloak 0 Code.ECC_UNCORRECTABLE c .teardown 0) c Code.ECC_UNCORRECTABLE) := by
  refine congrArg Host.Outcome.next ?_
  unfold cloakRestoreDone
  dsimp only
  rw [if_pos (by rw [hstate, hvac, hslice]; rfl), if_neg (by rw [hbad]; decide)]

/-! ### Open units beyond their bound (R90) -/

theorem exec_npBoundExceeded {s : State} {c : Nat} (hstate : (ctxOf s c).state = .running)
    (hleaving : (ctxOf s c).leaving = true) (hopen : (ctxOf s c).openUnits ≠ []) :
    exec (.npBoundExceeded c) s = .next (faultCtx s c Code.CTX_HUNG) := by
  refine congrArg Host.Outcome.next ?_
  simp [npBoundExceeded, hstate, hleaving, hopen]

/-! ### The Wardrobe (R95, R96) -/

/-- Other models. -/
def setModels (s : State) (m : Tab Model) : State := { s with models := m }

theorem beside_setModels (s : State) (m : Tab Model) (id c : Nat) : Beside s (setModels s m) id c := by
  constructor
  case jobs => exact fun _ _ => rfl
  case ctxs => exact fun _ _ => rfl
  case settings => exact fun _ _ => rfl
  all_goals rfl

theorem exec_wardrobeRegister {s : State} {id : Nat} {j : Job} (h : runsNow s id Op.WARDROBE_REGISTER noSources j = true)
    (hnew : tabGet s.models (cxModel j.entry) = none) (hread : readBad s (cxAddr j.entry) (cxSize j.entry) = false)
    (hversion : natAt s (cxAddr j.entry) 1 = 1) (hcheck : fallbackCheck s (cxAddr j.entry) = Code.OK) :
    exec (.wardrobeRegister id) s = .next (unacted (finish (touchRange (setModels (acting s j)
      (tabSet s.models (cxModel j.entry) { addr := cxAddr j.entry, size := cxSize j.entry })) (cxAddr j.entry) (cxSize j.entry))
      id Code.OK (tabSet s.models (cxModel j.entry) { addr := cxAddr j.entry, size := cxSize j.entry }).length)) := by
  refine runJob_next h ?_
  have hfree : ¬tabHas (acting s j).models (cxModel j.entry) = true := by
    show ¬tabHas s.models (cxModel j.entry) = true
    simp [tabHas, hnew]
  have hgood : ¬readBad (acting s j) (cxAddr j.entry) (cxSize j.entry) = true := Bool.eq_false_iff.1 hread
  have hone : ¬(natAt (acting s j) (cxAddr j.entry) 1 != 1) = true := by
    show ¬(natAt s (cxAddr j.entry) 1 != 1) = true
    simp [hversion]
  have hpass : ¬(fallbackCheck (acting s j) (cxAddr j.entry) != Code.OK) = true := by
    show ¬(fallbackCheck s (cxAddr j.entry) != Code.OK) = true
    simp [hcheck]
  unfold wardrobeRegisterBody
  dsimp only
  rw [if_neg hfree, if_neg hgood, if_neg hone, if_neg hpass]
  rfl

theorem exec_wardrobeRelease_none {s : State} {id : Nat} {j : Job} (h : runsNow s id Op.WARDROBE_RELEASE noSources j = true)
    (hnone : tabGet s.models (cxModel j.entry) = none) :
    exec (.wardrobeRelease id) s = .next (unacted (finish (acting s j) id Code.OK_NOOP 0)) := by
  refine runJob_next h ?_
  unfold wardrobeReleaseBody
  rw [show tabGet (acting s j).models (cxModel j.entry) = none from hnone]

theorem exec_wardrobeRelease_some {s : State} {id : Nat} {j : Job} {m : Model}
    (h : runsNow s id Op.WARDROBE_RELEASE noSources j = true) (hsome : tabGet s.models (cxModel j.entry) = some m)
    (hread : modelRead s (cxModel j.entry) = false) :
    exec (.wardrobeRelease id) s =
      .next (unacted (finish (setModels (acting s j) (tabDel s.models (cxModel j.entry))) id Code.OK 0)) := by
  refine runJob_next h ?_
  unfold wardrobeReleaseBody
  rw [show tabGet (acting s j).models (cxModel j.entry) = some m from hsome]
  exact if_neg (Bool.eq_false_iff.1 hread)

/-- A model that is loaded becomes resident. -/
def setResident (s : State) (m : Nat) : State :=
  setModels s (tabUpd s.models m (fun y => { y with resident := true, loading := false, lastUse := beatNow s }))

theorem setResident_models {s : State} {m : Nat} {x : Model} (hm : tabGet s.models m = some x) (k : Nat) :
    tabGet (setResident s m).models k =
      if k = m then some { x with resident := true, loading := false, lastUse := beatNow s } else tabGet s.models k := by
  have hmodels : (setResident s m).models =
    tabUpd s.models m (fun y => { y with resident := true, loading := false, lastUse := beatNow s }) := rfl
  rw [hmodels]
  split
  · next hk => rw [hk, tabGet_tabUpd_self, hm, Option.map_some]
  · next hk => exact tabGet_tabUpd_ne _ _ hk

/-- A load that ends with room for its model evicts none. -/
theorem exec_wardrobeLoad {s : State} {m : Nat} {x : Model} (hm : tabGet s.models m = some x) (hload : x.loading = true)
    (hout : x.resident = false) (hroom : residentBytes s + x.size ≤ wardrobeBytes s) (hcount : residentCount s < 64) :
    exec (.wardrobeLoad m) s = .next (touchRange (setResident s m) x.addr x.size) := by
  refine congrArg Host.Outcome.next ?_
  have hfits : evictFor x.size 65 s = some s := by
    unfold evictFor
    exact if_pos (by simp [hroom, hcount])
  unfold wardrobeLoad
  rw [hm]
  dsimp only
  rw [if_pos (by rw [hload, hout]; rfl), hfits]
  rfl

/-! ### The statement -/

/-- Settles O39: each row's state is written out, and its parts are read by the lemmas of its operations. -/
theorem cloakAndWardrobe : Obligations.CloakAndWardrobe := by
  unfold Obligations.CloakAndWardrobe
  refine ⟨?save, ?restore, ?hung, ?register, ?release, ?load⟩
  case save =>
    intro s c hstate hslice
    constructor
    · obtain ⟨hdev, hcomp, hjobs, hacc, hpocket, hothers, hregs⟩ := imageSaved_frame s c
      have hrec := recorded_saveRecorded s c
      obtain ⟨hself, helse, hmem, hjobs', hacc', hpocket', hcount⟩ := entryCounted_bump_setCtx (saveRecorded s c) c
        (afterSave (saveRecorded s c) c (ctxOf (saveRecorded s c) c)) Key.CTX_PREEMPTIONS
      have hstay := afterSave_state (ctxOf (saveRecorded s c) c) c (hrec.jobs.trans hjobs)
      refine ⟨_, exec_cloakSaveDone_ok hstate hslice, ?_⟩
      rw [hself, hmem, hjobs', hacc', hpocket', hcount, hstay, hrec.dev, hdev, hrec.comp, hcomp, hrec.jobs, hjobs,
        hrec.stored.side.acc.trans hacc, hrec.stored.side.pocket.trans hpocket]
      exact ⟨rfl, rfl, rfl, rfl, rfl, rfl, fun d hd => (helse d hd).trans ((hrec.ctxOf d).trans (hothers d hd)), rfl, rfl,
        reg_bump_congr 1 ((hrec.reg (by decide)).trans (hregs _ (by decide)))⟩
    · obtain ⟨hs, hlast, hfree, hothers, hmem, hjobs, -, -⟩ := fenced_cloakFault Code.CTX_FAULT (s := s) (c := c) (by simp [hstate])
      exact ⟨_, exec_cloakSaveDone_bad hstate hslice, hs, hlast, hfree, hmem, hothers, hjobs⟩
  case restore =>
    intro s c ok hstate hvac hslice
    constructor
    · intro hok
      have hrec := recorded_imageLoaded s c
      have hself : ctxOf (updCtx (imageLoaded s c) c (fun y => { y with state := .running })) c =
          { ctxOf (loadImage s c) c with state := .running } := by
        rw [← hrec.ctxOf c]
        exact ctxOf_setCtx_self _ _ _
      have hacc := hrec.stored.side.acc
      refine ⟨_, exec_cloakRestoreDone_ok hstate hvac hslice hok, congrArg Ctx.state hself,
        (congrArg Ctx.quads hself).trans (loadImage_quads s c), imageLoaded_mem s c, hrec.jobs.trans (loadImage_jobs s c),
        hacc, hrec.stored.side.pocket,
        fun d hd => (ctxOf_setCtx_ne _ _ hd).trans ((hrec.ctxOf d).trans (ctxOf_loadImage_ne s hd)), fun hno => ?_⟩
      obtain ⟨hwindows, hmem⟩ := loadImage_fresh hno
      exact ⟨(congrArg Ctx.windows hself).trans hwindows, fun b hb p hp hpb => ((hmem p).1 (hacc ▸ hp)).2 (hpb ▸ hb),
        fun p hp hout => hacc ▸ (hmem p).2 ⟨hp, hout⟩⟩
    · intro hbad
      obtain ⟨hs, hlast, -, hothers, hmem, hjobs, hacc, hpocket⟩ :=
        fenced_cloakFault Code.ECC_UNCORRECTABLE (s := s) (c := c) (by simp [hstate])
      exact ⟨_, exec_cloakRestoreDone_bad hstate hvac hslice hbad, hs, hlast, hmem, hacc, hpocket, hothers, hjobs⟩
  case hung =>
    intro s c hstate hleaving hopen
    obtain ⟨hs, hlast, -, hothers, hmem, hjobs, -, -⟩ := fenced_faultCtx Code.CTX_HUNG (s := s) (c := c) (by simp [hstate])
    exact ⟨_, exec_npBoundExceeded hstate hleaving hopen, hs, hlast, reg_faultCtx_hung hstate, hmem, hothers, hjobs⟩
  case register =>
    intro s id j h hnew hread hversion hcheck
    have hrec := recorded_touchRange (setModels (acting s j) (tabSet s.models (cxModel j.entry)
      { addr := cxAddr j.entry, size := cxSize j.entry })) (cxAddr j.entry) (cxSize j.entry)
    have hjob : tabGet (touchRange (setModels (acting s j) (tabSet s.models (cxModel j.entry)
        { addr := cxAddr j.entry, size := cxSize j.entry })) (cxAddr j.entry) (cxSize j.entry)).jobs id = some j := by
      rw [hrec.jobs]
      exact runsNow_job (s := s) h
    have hbeside := (((quiet_acting s j id j.ctx).beside.trans (beside_setModels _ _ id j.ctx)).trans
      (hrec.quiet id j.ctx).beside)
    have hmodels := (finish_models _ id Code.OK (tabSet s.models (cxModel j.entry)
      { addr := cxAddr j.entry, size := cxSize j.entry }).length).trans hrec.stored.side.models
    refine ⟨_, exec_wardrobeRegister h hnew hread hversion hcheck, ?_, fun m hm => ?_, ?_, fun a => ?_,
      beside_end hbeside hjob, ?_⟩
    · rw [unacted_models, hmodels]
      exact tabGet_tabSet_self _ _ _
    · rw [unacted_models, hmodels]
      exact tabGet_tabSet_ne _ _ hm
    · rw [unacted_models, hmodels]
      exact ends_end _ _ hjob
    · exact ((quiet_finish _ _ hjob).bytes a).trans ((hrec.quiet id j.ctx).bytes a)
    · exact (finish_indexes _ _ _ _).trans hrec.stored.side.indexes
  case release =>
    intro s id j h
    constructor
    · intro hnone
      have hjob := runsNow_acting h
      exact ⟨_, exec_wardrobeRelease_none h hnone, ends_end _ _ hjob, onlyOutcome_end s j id _ 0⟩
    · intro m hsome hread
      have hjob : tabGet (setModels (acting s j) (tabDel s.models (cxModel j.entry))).jobs id = some j := runsNow_job (s := s) h
      refine ⟨_, exec_wardrobeRelease_some h hsome hread, ends_end _ _ hjob, ?_, fun k hk => ?_, ?_,
        beside_end ((quiet_acting s j id j.ctx).beside.trans (beside_setModels _ _ id j.ctx)) hjob⟩
      · rw [unacted_models, finish_models]
        exact tabGet_tabDel_self _ _
      · rw [unacted_models, finish_models]
        exact tabGet_tabDel_ne _ hk
      · rw [unacted_mem, finish_mem]
        rfl
  case load =>
    intro s m x hm hload hout hroom hcount
    refine ⟨_, exec_wardrobeLoad hm hload hout hroom hcount, fun k => ?_, touchRange_mem _ _ _, touchRange_jobs _ _ _,
      touchRange_ctxs _ _ _, touchRange_array _ _ _⟩
    rw [touchRange_models]
    exact setResident_models hm k

end Sys2Proof.Machine

/-! SUPPORT. The memories and tables in canonical form: at reset, and after every step (the forms of log entry 8). -/

namespace Sys2Proof.Machine

/-- Every command answers a next state that keeps its queue, the factory's data, and the canonical forms: the law of its
own row, one for each row of the table. -/
theorem exec_keeps (i : Instr) (s : State) : Answers s (exec i s) := by
  cases i with
  | powerOn => exact execPowerOn_keeps s
  | eepromRead => exact execEepromRead_keeps _ s
  | eepromReadRetry => exact execEepromReadRetry_keeps s
  | longTestLimitCheck => exact execLongTestLimitCheck_keeps _ s
  | longTestEnd => exact execLongTestEnd_keeps _ _ _ _ s
  | hbmTrain => exact execHbmTrain_keeps _ _ s
  | flashChannelTrain => exact execFlashChannelTrain_keeps _ _ _ _ _ _ _ s
  | flashTierRebuild => exact execFlashTierRebuild_keeps _ s
  | trainEnd => exact execTrainEnd_keeps s
  | dictConfigDone => exact execDictConfigDone_keeps _ _ s
  | coldRstN => exact execColdRstN_keeps s
  | warmRstN => exact execWarmRstN_keeps s
  | diagResetWarm => exact execDiagResetWarm_keeps _ s
  | diagResetCold => exact execDiagResetCold_keeps _ s
  | pwrFailNFall => exact execPwrFailNFall_keeps s
  | pwrFailNRise => exact execPwrFailNRise_keeps s
  | powerError => exact execPowerError_keeps _ s
  | thermalRead => exact execThermalRead_keeps _ s
  | aclkStep => exact execAclkStep_keeps s
  | aclkChangeEnd => exact execAclkChangeEnd_keeps s
  | idleRequest => exact execIdleRequest_keeps _ s
  | idleGrant => exact execIdleGrant_keeps _ _ s
  | collarAdmission => exact execCollarAdmission_keeps _ _ _ s
  | rampEnd => exact execRampEnd_keeps _ s
  | regionWakeStage => exact execRegionWakeStage_keeps _ s
  | powerRequestActive => exact execPowerRequestActive_keeps _ s
  | powerRequestIdle => exact execPowerRequestIdle_keeps _ s
  | powerRequestDeepSleep => exact execPowerRequestDeepSleep_keeps _ s
  | powerRegionRequest => exact execPowerRegionRequest_keeps _ _ s
  | powerStateReached => exact execPowerStateReached_keeps s
  | beatBoundary => exact execBeatBoundary_keeps _ _ s
  | beatInEdge => exact execBeatInEdge_keeps _ _ _ s
  | holdoverBoundary => exact execHoldoverBoundary_keeps _ s
  | beatFlitSend => exact execBeatFlitSend_keeps s
  | beatFlit => exact execBeatFlit_keeps _ _ _ _ _ s
  | maskReady => exact execMaskReady_keeps s
  | sample => exact execSample_keeps s
  | tokenCommit => exact execTokenCommit_keeps s
  | veilMaskFetchDone => exact execVeilMaskFetchDone_keeps _ _ _ s
  | planSeal => exact execPlanSeal_keeps s
  | counterSnapshot => exact execCounterSnapshot_keeps s
  | preemptWindow => exact execPreemptWindow_keeps _ s
  | selftestWindow => exact execSelftestWindow_keeps _ s
  | sliceStart => exact execSliceStart_keeps _ _ _ s
  | slicePartEnd => exact execSlicePartEnd_keeps _ _ s
  | sliceLimitCheck => exact execSliceLimitCheck_keeps _ _ s
  | diagBlockReturn => exact execDiagBlockReturn_keeps _ _ s
  | testShutdownRun => exact execTestShutdownRun_keeps _ _ _ s
  | shutdownTestProgress => exact execShutdownTestProgress_keeps _ _ _ _ _ s
  | tapBypass => exact execTapBypass_keeps s
  | tapIdcode => exact execTapIdcode_keeps s
  | tapSamplePreload => exact execTapSamplePreload_keeps s
  | tapRefusedInstruction => exact execTapRefusedInstruction_keeps s
  | testEnter => exact execTestEnter_keeps s
  | submissionDoorbell => exact execSubmissionDoorbell_keeps _ _ s
  | completionDoorbell => exact execCompletionDoorbell_keeps _ _ s
  | queueTableFetch => exact execQueueTableFetch_keeps _ s
  | commandAdmission => exact execCommandAdmission_keeps _ s
  | commandCompletion => exact execCommandCompletion_keeps _ s
  | queueEnable => exact execQueueEnable_keeps _ _ s
  | queueDisable => exact execQueueDisable_keeps _ _ s
  | nop => exact execNop_keeps _ s
  | cancel => exact execCancel_keeps _ s
  | writePassages => exact execWritePassages_keeps _ s
  | writeVectors => exact execWriteVectors_keeps _ s
  | writeSketches => exact execWriteSketches_keeps _ s
  | delete => exact execDelete_keeps _ s
  | publish => exact execPublish_keeps _ _ s
  | flush => exact execFlush_keeps _ s
  | trim => exact execTrim_keeps _ s
  | ctxAlloc => exact execCtxAlloc_keeps _ s
  | ctxFree => exact execCtxFree_keeps _ s
  | ctxModify => exact execCtxModify_keeps _ s
  | ctxPreempt => exact execCtxPreempt_keeps _ s
  | ctxSave => exact execCtxSave_keeps _ s
  | ctxRestore => exact execCtxRestore_keeps _ s
  | ctxBuffer => exact execCtxBuffer_keeps _ s
  | wardrobeRegister => exact execWardrobeRegister_keeps _ s
  | wardrobeRelease => exact execWardrobeRelease_keeps _ s
  | ctxQuery => exact execCtxQuery_keeps _ s
  | wardrobeLoad => exact execWardrobeLoad_keeps _ s
  | cloakSaveDone => exact execCloakSaveDone_keeps _ _ s
  | cloakRestoreDone => exact execCloakRestoreDone_keeps _ _ s
  | npBoundExceeded => exact execNpBoundExceeded_keeps _ s
  | arrayRun => exact execArrayRun_keeps _ s
  | sequencerNop => exact execSequencerNop_keeps _ _ s
  | matmul => exact execMatmul_keeps _ _ _ s
  | drain => exact execDrain_keeps _ _ _ s
  | accLoad => exact execAccLoad_keeps _ _ _ s
  | barrier => exact execBarrier_keeps _ _ s
  | endStream => exact execEndStream_keeps _ _ s
  | channelWindowClaim => exact execChannelWindowClaim_keeps _ _ s
  | remoteWindowClaim => exact execRemoteWindowClaim_keeps _ _ s
  | windowTimeout => exact execWindowTimeout_keeps _ _ _ s
  | pocketRemoteAccess => exact execPocketRemoteAccess_keeps _ _ _ _ _ _ _ s
  | pocketFill => exact execPocketFill_keeps _ s
  | pocketCopy => exact execPocketCopy_keeps _ _ s
  | pocketConfig => exact execPocketConfig_keeps _ s
  | objRegister => exact execObjRegister_keeps _ s
  | objRelease => exact execObjRelease_keeps _ s
  | objSetPolicy => exact execObjSetPolicy_keeps _ s
  | objQuery => exact execObjQuery_keeps _ s
  | moveSwitch => exact execMoveSwitch_keeps _ s
  | moveAbandon => exact execMoveAbandon_keeps _ s
  | backgroundFlush => exact execBackgroundFlush_keeps _ s
  | stripeProgramComplete => exact execStripeProgramComplete_keeps _ _ s
  | flashReadComplete => exact execFlashReadComplete_keeps _ _ _ _ s
  | garbageCollection => exact execGarbageCollection_keeps _ _ s
  | wearLevelling => exact execWearLevelling_keeps _ _ s
  | flashPatrol => exact execFlashPatrol_keeps _ _ _ s
  | zqCalibration c => exact execZqCalibration_keeps c s
  | dqCheck => exact execDqCheck_keeps _ _ s
  | flashBusyTimeout => exact execFlashBusyTimeout_keeps _ s
  | channelReset => exact execChannelReset_keeps _ _ s
  | hbmPatrolScrub => exact execHbmPatrolScrub_keeps _ _ s
  | hbmTemperatureRead => exact execHbmTemperatureRead_keeps _ _ s
  | stackControllerReset => exact execStackControllerReset_keeps _ _ s
  | laceVocabLoad => exact execLaceVocabLoad_keeps _ s
  | laceVocabUnload => exact execLaceVocabUnload_keeps _ s
  | laceEncode => exact execLaceEncode_keeps _ s
  | laceDecode => exact execLaceDecode_keeps _ s
  | indexCreate => exact execIndexCreate_keeps _ s
  | indexDrop => exact execIndexDrop_keeps _ s
  | indexStatus => exact execIndexStatus_keeps _ s
  | search => exact execSearch_keeps _ s
  | rerank => exact execRerank_keeps _ s
  | recallProbe => exact execRecallProbe_keeps _ s
  | cuffPass => exact execCuffPass_keeps _ s
  | compaction => exact execCompaction_keeps _ _ s
  | topk => exact execTopk_keeps _ s
  | merge => exact execMerge_keeps _ s
  | beltTableCreate => exact execBeltTableCreate_keeps _ s
  | beltTableReplace => exact execBeltTableReplace_keeps _ s
  | beltTableDrop => exact execBeltTableDrop_keeps _ s
  | beltGather => exact execBeltGather_keeps _ s
  | beltHotCacheEnable => exact execBeltHotCacheEnable_keeps _ _ s
  | crossRerank => exact execCrossRerank_keeps _ s
  | pack => exact execPack_keeps _ s
  | genRun => exact execGenRun_keeps _ s
  | kvRelease => exact execKvRelease_keeps _ s
  | samplerSeed => exact execSamplerSeed_keeps _ s
  | randFill => exact execRandFill_keeps _ s
  | veilLoad => exact execVeilLoad_keeps _ s
  | veilUnload => exact execVeilUnload_keeps _ s
  | teardownDrainEnd => exact execTeardownDrainEnd_keeps _ s
  | drainTimeout => exact execDrainTimeout_keeps _ _ _ _ s
  | contextWatchdog => exact execContextWatchdog_keeps _ s
  | progressMonitor => exact execProgressMonitor_keeps _ _ _ s
  | regionReset => exact execRegionReset_keeps _ _ s
  | diagRegionReset => exact execDiagRegionReset_keeps _ _ s
  | regionResetTimeout => exact execRegionResetTimeout_keeps _ s
  | aedupReadTimeout => exact execAedupReadTimeout_keeps _ s
  | linkTrainRetry => exact execLinkTrainRetry_keeps _ s
  | linkTrainingStateEnd => exact execLinkTrainingStateEnd_keeps _ _ _ _ s
  | linkStateTimeout => exact execLinkStateTimeout_keeps _ s
  | capabilityResend => exact execCapabilityResend_keeps _ s
  | aedupCapability => exact execAedupCapability_keeps _ s
  | pelganCapability => exact execPelganCapability_keeps _ _ s
  | flitReceive => exact execFlitReceive_keeps _ _ _ _ _ _ s
  | nak => exact execNak_keeps _ _ s
  | ackStall => exact execAckStall_keeps _ s
  | linkRetrainEnd => exact execLinkRetrainEnd_keeps _ _ _ s
  | aedupRetrainRequest => exact execAedupRetrainRequest_keeps _ _ s
  | dataNc => exact execDataNc_keeps _ _ _ s
  | dataErr => exact execDataErr_keeps _ s
  | snpInv => exact execSnpInv_keeps _ s
  | mmioRd => exact execMmioRd_keeps _ _ _ s
  | mmioWr => exact execMmioWr_keeps _ _ _ s
  | mailboxTrigger => exact execMailboxTrigger_keeps _ s
  | registerWrite => exact execRegisterWrite_keeps _ _ _ _ _ s
  | hemCalendarCommit => exact execHemCalendarCommit_keeps _ _ s
  | hemBeatPeriod => exact execHemBeatPeriod_keeps _ _ s
  | hemBeatSource => exact execHemBeatSource_keeps _ _ s
  | diagFlashFormat => exact execDiagFlashFormat_keeps _ _ s
  | secKeyLoad => exact execSecKeyLoad_keeps _ _ s
  | secKeyClear => exact execSecKeyClear_keeps _ _ s
  | secAttestNonce => exact execSecAttestNonce_keeps _ _ s
  | perfSampleRelease => exact execPerfSampleRelease_keeps _ _ _ s
  | skidSample => exact execSkidSample_keeps _ _ _ s
  | pelganJobWrite => exact execPelganJobWrite_keeps _ _ _ s
  | pelganCtxJob => exact execPelganCtxJob_keeps _ _ _ s
  | hello => exact execHello_keeps _ _ _ _ s
  | managerDeclare => exact execManagerDeclare_keeps _ _ _ s
  | assign => exact execAssign_keeps _ _ _ _ _ _ s
  | routes => exact execRoutes_keeps _ s
  | jobSet => exact execJobSet_keeps _ _ _ s
  | messageForward p h => exact execMessageForward_keeps p h s
  | rmtRd => exact execRmtRd_keeps _ _ _ _ _ s
  | rmtWr => exact execRmtWr_keeps _ _ _ _ _ _ s
  | rmtRsp => exact execRmtRsp_keeps _ _ _ s
  | rtErr tag dest hop => exact execRtErr_keeps tag dest hop s
  | remoteTimeout => exact execRemoteTimeout_keeps _ s
  | zipList => exact execZipList_keeps _ _ _ _ _ _ _ _ s
  | spanStart => exact execSpanStart_keeps _ _ _ _ _ _ _ _ s
  | dictReq => exact execDictReq_keeps _ _ _ _ _ s
  | dictRsp => exact execDictRsp_keeps _ _ _ _ s
  | abortFlit => exact execAbortFlit_keeps _ _ s
  | abortRepeat => exact execAbortRepeat_keeps s
  | mgmtDatagram => exact execMgmtDatagram_keeps _ _ _ _ _ s
  | blockEraseComplete => exact execBlockEraseComplete_keeps _ _ _ _ s
  | vddAonAbsent => exact execVddAonAbsent_keeps s
  | beatInEdgeAbsent => exact execBeatInEdgeAbsent_keeps s
  | quickPathEnd => exact execQuickPathEnd_keeps s
  | tapReset => exact execTapReset_keeps s
  | neighbourSolicitation => exact execNeighbourSolicitation_keeps s

/-- The queue's front is no part of the memories and tables, so a step keeps what its command keeps. -/
theorem step_keeps (s : State) :
    ∃ t, step s = .next t ∧ (s.memWf = true → t.memWf = true) ∧ (s.keysRise → t.keysRise) := by
  unfold step
  split
  · exact ⟨s, rfl, id, id⟩
  · next c rest _ =>
    obtain ⟨t, hexec, hkeeps⟩ := exec_keeps c { s with pending := rest }
    exact ⟨t, hexec, hkeeps.wf, fun h => ⟨hkeeps.keys.jobs h.1, hkeeps.keys.links h.2⟩⟩

/-- Settles O3: every memory and both tables are empty at reset. -/
theorem resetMemoriesCanonical : Obligations.ResetMemoriesCanonical :=
  ⟨(memWf_parts _).2 ⟨memWf_nil, memWf_nil, memWf_nil, memWf_nil, memWf_nil⟩, rising_nil, rising_nil⟩

/-- Settles O4: by the law of each command's row, that it keeps the canonical forms. -/
theorem stepKeepsMemoriesCanonical : Obligations.StepKeepsMemoriesCanonical := by
  intro s t hstep
  obtain ⟨u, hnext, hkept⟩ := step_keeps s
  obtain rfl : u = t := Host.Outcome.next.inj (hnext.symm.trans hstep)
  exact hkept

end Sys2Proof.Machine

/-! SUPPORT. Programs of stripes and what retires or empties a block of the flash tier (chapter 8, R189): what each of them
changes of the tier's tables, and that none changes a byte. -/

namespace Sys2Proof.Machine

/-! ### The first of a sorted list -/

theorem mem_insertBy {α : Type} (before : α → α → Bool) (a x : α) (l : List α) :
    x ∈ insertBy before a l ↔ x = a ∨ x ∈ l := by
  induction l with
  | nil => simp [insertBy]
  | cons b l ih =>
    unfold insertBy
    split
    · simp only [List.mem_cons, ih]
      exact or_left_comm
    · exact List.mem_cons

theorem mem_sortBy {α : Type} (before : α → α → Bool) (x : α) (l : List α) : x ∈ sortBy before l ↔ x ∈ l := by
  induction l with
  | nil => rfl
  | cons a l ih =>
    rw [List.mem_cons, ← ih]
    exact mem_insertBy before a x (sortBy before l)

/-- The first of a sorted list is one of the list. -/
theorem mem_of_head_sortBy {α : Type} {before : α → α → Bool} {x : α} {l : List α} (h : (sortBy before l).head? = some x) :
    x ∈ l :=
  (mem_sortBy before x l).1 (List.mem_of_head? h)

/-! ### What programs of stripes change -/

/-- Programs of stripes have started and nothing else has happened: programs in progress go on, blocks have taken stripes,
and the rest of memory, the commands and the count of retired blocks are as they were. -/
structure Programming (s t : State) : Prop where
  mem : ∃ ps bs, t.mem = { s.mem with programs := ps, blocks := bs }
  jobs : t.jobs = s.jobs
  retired : reg t Key.FLASH_BLOCKS_RETIRED = reg s Key.FLASH_BLOCKS_RETIRED
  going : ∀ k p, tabGet s.mem.programs k = some p → tabGet t.mem.programs k = some p
  blocks : ∀ k x, tabGet s.mem.blocks k = some x → ∃ n, tabGet t.mem.blocks k = some { x with used := n }

/-- Nothing of memory but programs and blocks differs. -/
structure TierOnly (s t : State) : Prop where
  dev : t.mem.dev = s.mem.dev
  durable : t.mem.durable = s.mem.durable
  staged : t.mem.staged = s.mem.staged
  places : t.mem.places = s.mem.places

theorem Programming.tierOnly {s t : State} (h : Programming s t) : TierOnly s t := by
  obtain ⟨ps, bs, e⟩ := h.mem
  constructor <;> rw [e]

theorem Programming.refl (s : State) : Programming s s :=
  ⟨⟨_, _, rfl⟩, rfl, rfl, fun _ _ h => h, fun _ x h => ⟨x.used, h⟩⟩

theorem Programming.trans {s t u : State} (h : Programming s t) (k : Programming t u) : Programming s u where
  mem := by
    obtain ⟨ps, bs, e⟩ := h.mem
    obtain ⟨ps', bs', e'⟩ := k.mem
    exact ⟨ps', bs', by rw [e', e]⟩
  jobs := k.jobs.trans h.jobs
  retired := k.retired.trans h.retired
  going n p hp := k.going n p (h.going n p hp)
  blocks n x hx := by
    obtain ⟨m, hm⟩ := h.blocks n x hx
    obtain ⟨m', hm'⟩ := k.blocks n _ hm
    exact ⟨m', hm'⟩

theorem programming_foldl (f : State → Nat → State) (l : List Nat) (h : ∀ t v, Programming t (f t v)) (s : State) :
    Programming s (l.foldl f s) :=
  List.foldlRecOn l f (motive := Programming s) (.refl s) (fun _ ht v _ => ht.trans (h _ v))

/-- Sending, counting and notifying start no program. -/
theorem programming_of_side {s t : State} (h : Side s t) : Programming s t where
  mem := ⟨_, _, h.mem⟩
  jobs := h.jobs
  retired := h.regs _ (by decide)
  going _ _ hp := by rw [h.mem]; exact hp
  blocks _ x hx := ⟨x.used, by rw [h.mem]; exact hx⟩

theorem programming_setReg (s : State) {k : Nat} (v : Nat) (h : Key.FLASH_BLOCKS_RETIRED ≠ k) : Programming s (setReg s k v) :=
  ⟨⟨_, _, rfl⟩, rfl, reg_setReg_ne s v h, fun _ _ hp => hp, fun _ x hx => ⟨x.used, hx⟩⟩

theorem programming_setFlashState (s : State) (v : Nat) : Programming s (setFlashState s v) := by
  unfold setFlashState
  split
  · exact .refl s
  · exact ((programming_setReg s _ (by decide)).trans (programming_setReg _ _ (by decide))).trans
      (programming_of_side (side_notify _ _ _ _))

/-! ### `startProgram` -/

/-- The tables of the tier when a stripe's program has started in a block. -/
def programBegun (s : State) (stripe k : Nat) : State :=
  { s with mem := { s.mem with
      programs := tabSet s.mem.programs stripe ⟨k, s.mem.order, s.mem.flushSeq⟩,
      blocks := tabSet s.mem.blocks k
        { (tabGet s.mem.blocks k).getD {} with used := ((tabGet s.mem.blocks k).getD {}).used + 1 } } }

theorem startProgram_starts {s : State} {stripe k : Nat} (hnew : tabHas s.mem.programs stripe = false)
    (hplace : placeFor s (channelOf stripe) = some k) :
    startProgram s stripe = countRegion (programBegun s stripe k) (channelOf stripe / 16) 0x208 1
      { inst := channelOf stripe, addr := stripe * stripeBytes } := by
  unfold startProgram
  rw [hnew, hplace]
  rfl

theorem programming_programBegun {s : State} {stripe : Nat} (k : Nat) (hnew : tabHas s.mem.programs stripe = false) :
    Programming s (programBegun s stripe k) where
  mem := ⟨_, _, rfl⟩
  jobs := rfl
  retired := rfl
  going n p hp := by
    have hne : n ≠ stripe := by
      rintro rfl
      simp [tabHas, hp] at hnew
    exact (tabGet_tabSet_ne _ _ hne).trans hp
  blocks n x hx := by
    by_cases hn : n = k
    · subst hn
      exact ⟨x.used + 1, by simp [programBegun, hx]⟩
    · exact ⟨x.used, (tabGet_tabSet_ne _ _ hn).trans hx⟩

theorem programming_startProgram (s : State) (stripe : Nat) : Programming s (startProgram s stripe) := by
  cases hnew : tabHas s.mem.programs stripe with
  | true =>
    unfold startProgram
    rw [if_pos hnew]
    exact .refl s
  | false =>
    cases hplace : placeFor s (channelOf stripe) with
    | none =>
      unfold startProgram
      rw [hnew, hplace]
      exact .refl s
    | some k =>
      rw [startProgram_starts hnew hplace]
      exact (programming_programBegun k hnew).trans (programming_of_side (side_countRegion _ _ _ _ _))

/-- The program that has started goes to its place, with the writes staged so far. -/
theorem startProgram_get {s : State} {stripe k : Nat} (hnew : tabHas s.mem.programs stripe = false)
    (hplace : placeFor s (channelOf stripe) = some k) :
    tabGet (startProgram s stripe).mem.programs stripe = some ⟨k, s.mem.order, s.mem.flushSeq⟩ := by
  rw [startProgram_starts hnew hplace, countRegion_mem]
  exact tabGet_tabSet_self _ _ _

/-! ### `relocate` and `retireBlock` -/

theorem programming_relocate (s : State) (l : List Nat) : Programming s (relocate s l) :=
  programming_foldl _ _ programming_startProgram s

/-- The first stripe that is relocated is programmed anew, and the later ones leave its program. -/
theorem relocate_get {s : State} {v k : Nat} (vs : List Nat) (hstaged : s.mem.staged.any (fun p => p.1 / 16 == v) = false)
    (hnew : tabHas s.mem.programs v = false) (hplace : placeFor s (channelOf v) = some k) :
    tabGet (relocate s (v :: vs)).mem.programs v = some ⟨k, s.mem.order, s.mem.flushSeq⟩ := by
  unfold relocate
  rw [List.filter_cons_of_pos (by simp only [hstaged, Bool.not_false]), List.foldl_cons]
  exact (programming_foldl _ _ programming_startProgram _).going v _ (startProgram_get hnew hplace)

/-- A block marked retired and counted, before its stripes move. -/
def markRetired (s : State) (k : Nat) : State :=
  bump { s with mem := { s.mem with blocks := tabSet s.mem.blocks k { (tabGet s.mem.blocks k).getD {} with retired := true } } }
    Key.FLASH_BLOCKS_RETIRED 1

theorem markRetired_get (s : State) (k : Nat) :
    tabGet (markRetired s k).mem.blocks k = some { (tabGet s.mem.blocks k).getD {} with retired := true } :=
  tabGet_tabSet_self _ _ _

theorem tierOnly_markRetired (s : State) (k : Nat) : TierOnly s (markRetired s k) := ⟨rfl, rfl, rfl, rfl⟩

/-- A retired block's stripes are programmed elsewhere, and the tier may become READ_ONLY. -/
theorem programming_retireBlock (s : State) (k : Nat) : Programming (markRetired s k) (retireBlock s k) := by
  have hmoved : Programming (markRetired s k)
      (((tabGet s.mem.blocks k).getD {}).valid.foldl startProgram (markRetired s k)) :=
    programming_foldl _ _ programming_startProgram _
  unfold retireBlock
  dsimp only
  split
  · exact hmoved.trans (programming_setFlashState _ 4)
  · exact hmoved

/-! ### STRIPE_PROGRAM_COMPLETE and BLOCK_ERASE_COMPLETE -/

theorem exec_stripeProgramComplete_ok {s : State} {k : Nat} {p : Program} (h : tabGet s.mem.programs k = some p)
    (hflush : flushingAll s = false) : exec (.stripeProgramComplete k true) s = .next (programDone s k p) := by
  have hidle : flushingAll (programDone s k p) = false := hflush
  show Host.Outcome.next (stripeProgramComplete s k true) = _
  unfold stripeProgramComplete settleFlush
  rw [h]
  simp only [hidle, Bool.false_and, Bool.false_eq_true, if_false, if_true]

/-- The programs without one that has ended. -/
def programEnded (s : State) (k : Nat) : State := { s with mem := { s.mem with programs := tabDel s.mem.programs k } }

theorem exec_stripeProgramComplete_bad {s : State} {k : Nat} {p : Program} (h : tabGet s.mem.programs k = some p) :
    exec (.stripeProgramComplete k false) s = .next (startProgram (retireBlock (programEnded s k) p.block) k) := by
  show Host.Outcome.next (stripeProgramComplete s k false) = _
  unfold stripeProgramComplete
  rw [h]
  dsimp only
  rw [if_neg Bool.false_ne_true]
  rfl

/-- A block that an erasure has left empty. -/
def blockErased (s : State) (k : Nat) (x : FlashBlock) : State :=
  { s with mem := { s.mem with
      blocks := tabSet s.mem.blocks k { x with erasing := false, used := 0, erases := x.erases + 1 } } }

theorem exec_blockEraseComplete {s : State} {c l b : Nat} {x : FlashBlock} (h : tabGet s.mem.blocks (blockKey c l b) = some x)
    (herasing : x.erasing = true) :
    exec (.blockEraseComplete c l b true) s = .next (blockErased s (blockKey c l b) x) ∧
      exec (.blockEraseComplete c l b false) s =
        .next (retireBlock (blockErased s (blockKey c l b) x) (blockKey c l b)) := by
  show Host.Outcome.next (blockEraseComplete s c l b true) = _ ∧ Host.Outcome.next (blockEraseComplete s c l b false) = _
  unfold blockEraseComplete
  dsimp only
  rw [h]
  dsimp only
  rw [if_pos herasing, if_pos herasing, if_pos rfl, if_neg Bool.false_ne_true]
  exact ⟨rfl, rfl⟩

/-! ### BACKGROUND_FLUSH, GARBAGE_COLLECTION and WEAR_LEVELLING -/

theorem exec_backgroundFlush {s : State} {c : Nat} {q : Nat × Staged} (hrun : running s = true) (hawake : flashAwake s = true)
    (hon : inForce s Key.STORE_BACKGROUND_FLUSH = 1) (hup : channelUp s c = true) (hwritable : reg s Key.FLASH_STATE ≠ 4)
    (hfirst : (sortBy (fun a b => a.2.order < b.2.order) (s.mem.staged.filter (fun p =>
      channelOf (p.1 / 16) == c && !tabHas s.mem.programs (p.1 / 16)))).head? = some q) :
    exec (.backgroundFlush c) s = .next (startProgram s (q.1 / 16)) := by
  show Host.Outcome.next (backgroundFlush s c) = _
  unfold backgroundFlush
  rw [if_pos (by simp [hrun, hawake, hon, hup, hwritable])]
  dsimp only
  rw [hfirst]

theorem exec_garbageCollection {s : State} {c l k : Nat} {b : FlashBlock} (hawake : flashAwake s = true)
    (hfew : lunFree s c l * 100 < (chan s c).blocks * 2) (hblock : emptiestBlock s c l = some (k, b)) :
    exec (.garbageCollection c l) s = .next (if b.valid.isEmpty then
      { s with mem := { s.mem with blocks := tabSet s.mem.blocks k { b with erasing := true } } }
      else relocate s b.valid) := by
  show Host.Outcome.next (garbageCollection s c l) = _
  unfold garbageCollection
  rw [if_pos (by simp [hawake, hfew]), hblock]

theorem exec_wearLevelling {s : State} {c l low high k : Nat} {b : FlashBlock} {bs : List (Nat × FlashBlock)}
    (hawake : flashAwake s = true) (hbs : bs = (lunBlocks s c l).filter (fun p => !p.2.retired))
    (hall : (chan s c).blocks ≤ bs.length) (hlow : (bs.map (fun p => p.2.erases)).min? = some low)
    (hhigh : (bs.map (fun p => p.2.erases)).max? = some high) (hspread : low + 1000 < high)
    (hfirst : (sortBy (fun a b => a.2.erases < b.2.erases) (bs.filter (fun p => !p.2.valid.isEmpty))).head? = some (k, b)) :
    exec (.wearLevelling c l) s = .next (relocate s b.valid) := by
  show Host.Outcome.next (wearLevelling s c l) = _
  have hwide : 1000 < high - low := by omega
  unfold wearLevelling
  dsimp only
  rw [← hbs, if_neg (Nat.not_lt.2 hall), hlow, hhigh, if_pos (by simp [hawake, hwide]), hfirst]

/-! ### The statement -/

/-- Settles O46: programs and relocations by `Programming`, failures by what `retireBlock` leaves of the marked block. -/
theorem flashPrograms : Obligations.FlashPrograms := by
  unfold Obligations.FlashPrograms
  refine ⟨?programs, ?erasures, ?flush, ?collection, ?levelling⟩
  case programs =>
    intro s k p h
    constructor
    · intro hflush hwf
      refine ⟨_, exec_stripeProgramComplete_ok h hflush, tabGet_tabDel_self _ _, tabGet_tabSet_self _ _ _, fun a => ?_,
        rfl, rfl, rfl, rfl, rfl⟩
      refine (memByte_memCopy _ _ _ _ _ a hwf).trans ?_
      split
      · next hin => rw [Nat.sub_add_cancel hin.1]
      · rfl
    · have hretired := programming_retireBlock (programEnded s k) p.block
      have hall := hretired.trans (programming_startProgram _ k)
      obtain ⟨hdev, hdurable, hstaged, hplaces⟩ := hall.tierOnly
      obtain ⟨n, hblock⟩ := hall.blocks _ _ (markRetired_get (programEnded s k) p.block)
      exact ⟨_, exec_stripeProgramComplete_bad h, hdev, hdurable, hstaged, hplaces, by rw [hblock]; rfl,
        hall.retired.trans (reg_bump_congr 1 rfl), hall.jobs⟩
  case erasures =>
    intro s c l b x h herasing
    obtain ⟨hok, hbad⟩ := exec_blockEraseComplete h herasing
    refine ⟨hok, ?_⟩
    have hretired := programming_retireBlock (blockErased s (blockKey c l b) x) (blockKey c l b)
    obtain ⟨hdev, hdurable, hstaged, hplaces⟩ := hretired.tierOnly
    have hmarked := markRetired_get (blockErased s (blockKey c l b) x) (blockKey c l b)
    rw [show tabGet (blockErased s (blockKey c l b) x).mem.blocks (blockKey c l b) = _ from tabGet_tabSet_self _ _ _] at hmarked
    obtain ⟨n, hblock⟩ := hretired.blocks _ _ hmarked
    exact ⟨_, hbad, hdev, hdurable, hstaged, hplaces, by rw [hblock]; rfl, by rw [hblock]; rfl,
      hretired.retired.trans (reg_bump_congr 1 rfl)⟩
  case flush =>
    intro s c k q hrun hawake hon hup hwritable hfirst hplace
    have hnew : tabHas s.mem.programs (q.1 / 16) = false := by
      have hq := (List.mem_filter.1 (mem_of_head_sortBy hfirst)).2
      simpa using (Bool.and_eq_true_iff.1 hq).2
    have hstart := programming_startProgram s (q.1 / 16)
    obtain ⟨hdev, hdurable, hstaged, hplaces⟩ := hstart.tierOnly
    exact ⟨_, exec_backgroundFlush hrun hawake hon hup hwritable hfirst, startProgram_get hnew hplace, hdev, hstaged, hdurable,
      hplaces, hstart.jobs⟩
  case collection =>
    intro s c l k b hawake hfew hblock
    have hexec := exec_garbageCollection hawake hfew hblock
    constructor
    · intro hempty
      exact hexec.trans (congrArg Host.Outcome.next (if_pos (by rw [hempty]; rfl)))
    · intro v vs q hvalid hstaged hnew hplace
      rw [hvalid] at hexec
      have hmoved := programming_relocate s (v :: vs)
      obtain ⟨hdev, hdurable, hkept, hplaces⟩ := hmoved.tierOnly
      exact ⟨_, hexec, relocate_get vs hstaged hnew hplace, hdev, hkept, hdurable, hplaces, hmoved.jobs⟩
  case levelling =>
    intro s c l low high bs k v q b vs hawake hbs hall hlow hhigh hspread hfirst hvalid hstaged hnew hplace
    have hexec := exec_wearLevelling hawake hbs hall hlow hhigh hspread hfirst
    rw [hvalid] at hexec
    have hmoved := programming_relocate s (v :: vs)
    obtain ⟨hdev, hdurable, hkept, hplaces⟩ := hmoved.tierOnly
    exact ⟨_, hexec, relocate_get vs hstaged hnew hplace, hdev, hkept, hdurable, hplaces, hmoved.jobs⟩

end Sys2Proof.Machine

/-! SUPPORT. The ends of moves of units (chapter 8, R176, R177): what a switch and an abandonment change, and what the command
behind the move learns. -/

namespace Sys2Proof.Machine

/-! ### What the cause of a move learns -/

/-- The progress of an OBJ_SET_POLICY after one of its moves has ended. -/
def moveTold (abandoned : Bool) (j : Job) : Job :=
  match j.work with
  | [m, ab, ch, h] => { j with work := if abandoned then [m, 1, ch, h] else [m + 1, ab, ch, h] }
  | _ => j

theorem moveTold_switched {j : Job} {n ab ch h : Nat} (hw : j.work = [n, ab, ch, h]) :
    moveTold false j = { j with work := [n + 1, ab, ch, h] } := by simp [moveTold, hw]

theorem moveTold_abandoned {j : Job} {n ab ch h : Nat} (hw : j.work = [n, ab, ch, h]) :
    moveTold true j = { j with work := [n, 1, ch, h] } := by simp [moveTold, hw]

/-- The commands alone may differ after the cause of a move has been told. -/
theorem tellMover_jobsOnly (s : State) (c : MoveCause) (abandoned : Bool) :
    ∃ js, tellMover s c abandoned = { s with jobs := js } := by
  cases c <;> exact ⟨_, rfl⟩

theorem tellMover_policy (s : State) (id : Nat) (abandoned : Bool) :
    tellMover s (.policy id) abandoned = updJob s id (moveTold abandoned) := rfl

/-- A told command has the progress of `moveTold`; the other commands are as they were. -/
theorem tellMover_policy_jobs {s : State} {id : Nat} {j : Job} (abandoned : Bool) (h : tabGet s.jobs id = some j) :
    tabGet (tellMover s (.policy id) abandoned).jobs id = some (moveTold abandoned j) ∧
      ∀ k, k ≠ id → tabGet (tellMover s (.policy id) abandoned).jobs k = tabGet s.jobs k := by
  rw [tellMover_policy]
  exact ⟨by rw [updJob_get, h]; rfl, fun k hk => updJob_get_ne s _ hk⟩

/-! ### The end of a move -/

/-- A move has ended, before its cause is told of it: the unit has an entry without the move, the commands, the contexts and all
else of memory are as they were. -/
structure MoveEnded (s t : State) (u : Nat) (x : UnitInfo) : Prop where
  mem : t.mem = { s.mem with units := tabSet s.mem.units u x }
  jobs : t.jobs = s.jobs
  ctxs : t.ctxs = s.ctxs

theorem MoveEnded.units {s t : State} {u : Nat} {x : UnitInfo} (h : MoveEnded s t u x) (k : Nat) :
    tabGet t.mem.units k = if k = u then some x else tabGet s.mem.units k := by
  rw [h.mem]
  exact tabGet_tabSet _ u k x

theorem MoveEnded.bytes {s t : State} {u : Nat} {x : UnitInfo} (h : MoveEnded s t u x) (a : Nat) : byteAt t a = byteAt s a :=
  byteAt_congr (by rw [h.mem]) (by rw [h.mem]) a

/-- What the statement of a move says of units, bytes, objects and contexts holds once its cause has been told. -/
theorem MoveEnded.told {s t : State} {u : Nat} {x : UnitInfo} (h : MoveEnded s t u x) (c : MoveCause) (abandoned : Bool) :
    (∀ k, tabGet (tellMover t c abandoned).mem.units k = if k = u then some x else tabGet s.mem.units k) ∧
      (∀ a, byteAt (tellMover t c abandoned) a = byteAt s a) ∧
      (tellMover t c abandoned).mem.objects = s.mem.objects ∧ (tellMover t c abandoned).ctxs = s.ctxs ∧
      ∀ k, reg (tellMover t c abandoned) k = reg t k := by
  obtain ⟨js, e⟩ := tellMover_jobsOnly t c abandoned
  rw [e]
  exact ⟨h.units, h.bytes, by rw [h.mem], h.ctxs, fun _ => rfl⟩

/-! ### MOVE_SWITCH -/

/-- A move is counted, also as a demotion or a promotion. -/
def moveCounted (s : State) : MoveCause → State
  | .demotion => bump (bump s Key.MEM_MOVES 1) Key.MEM_DEMOTIONS 1
  | .promotion => bump (bump s Key.MEM_MOVES 1) Key.MEM_PROMOTIONS 1
  | _ => bump s Key.MEM_MOVES 1

/-- A unit has switched, and the move is counted. -/
def moveSwitched (s : State) (u : Nat) (x : UnitInfo) (m : Move) : State :=
  moveCounted (setUnit s u { x with home := m.dest, move := none }) m.cause

theorem moveEnded_switched (s : State) (u : Nat) (x : UnitInfo) (m : Move) :
    MoveEnded s (moveSwitched s u x m) u { x with home := m.dest, move := none } := by
  unfold moveSwitched
  cases m.cause <;> exact ⟨rfl, rfl, rfl⟩

theorem reg_moveSwitched_moves (s : State) (u : Nat) (x : UnitInfo) (m : Move) :
    reg (moveSwitched s u x m) Key.MEM_MOVES = reg (bump s Key.MEM_MOVES 1) Key.MEM_MOVES := by
  unfold moveSwitched
  cases m.cause
  case demotion => exact (reg_bump_ne _ 1 (by decide)).trans (reg_bump_congr 1 rfl)
  case promotion => exact (reg_bump_ne _ 1 (by decide)).trans (reg_bump_congr 1 rfl)
  all_goals exact reg_bump_congr 1 rfl

theorem exec_moveSwitch {s : State} {u : Nat} {x : UnitInfo} {m : Move} (hx : tabGet s.mem.units u = some x)
    (hm : x.move = some m) :
    exec (.moveSwitch u) s = .next (tellMover (moveSwitched s u x m) m.cause false) := by
  show Host.Outcome.next (moveSwitch s u) = _
  unfold moveSwitch moveSwitched
  rw [hx]
  dsimp only
  rw [hm]
  dsimp only
  cases m.cause <;> rfl

/-! ### MOVE_ABANDON -/

/-- A unit's move is given up and counted, with the longest stall of a writer that waited for it. -/
def moveAbandoned (s : State) (u : Nat) (x : UnitInfo) (m : Move) : State :=
  let s1 := bump (setUnit s u { x with move := none }) Key.MEM_MOVES_ABANDONED 1
  if m.stalled then
    setReg s1 Key.MEM_WRITER_STALL_MAX (Nat.max (reg s1 Key.MEM_WRITER_STALL_MAX) (inForce s1 Key.MEM_MOVE_BOUND * 1000))
  else s1

theorem moveEnded_abandoned (s : State) (u : Nat) (x : UnitInfo) (m : Move) :
    MoveEnded s (moveAbandoned s u x m) u { x with move := none } := by
  unfold moveAbandoned
  dsimp only
  split <;> exact ⟨rfl, rfl, rfl⟩

theorem reg_moveAbandoned (s : State) (u : Nat) (x : UnitInfo) (m : Move) :
    reg (moveAbandoned s u x m) Key.MEM_MOVES_ABANDONED = reg (bump s Key.MEM_MOVES_ABANDONED 1) Key.MEM_MOVES_ABANDONED := by
  unfold moveAbandoned
  dsimp only
  split
  · exact (reg_setReg_ne _ _ (by decide)).trans (reg_bump_congr 1 rfl)
  · exact reg_bump_congr 1 rfl

theorem exec_moveAbandon {s : State} {u : Nat} {x : UnitInfo} {m : Move} (hx : tabGet s.mem.units u = some x)
    (hm : x.move = some m) :
    exec (.moveAbandon u) s = .next (tellMover (moveAbandoned s u x m) m.cause true) := by
  show Host.Outcome.next (moveAbandon s u) = _
  unfold moveAbandon
  rw [hx]
  dsimp only
  rw [hm]
  rfl

/-- A unit that does not move is left as it is. -/
theorem exec_move_none {s : State} {u : Nat} (h : (tabGet s.mem.units u).bind UnitInfo.move = none) :
    exec (.moveSwitch u) s = .next s ∧ exec (.moveAbandon u) s = .next s := by
  show Host.Outcome.next (moveSwitch s u) = _ ∧ Host.Outcome.next (moveAbandon s u) = _
  unfold moveSwitch moveAbandon
  cases hx : tabGet s.mem.units u with
  | none => exact ⟨rfl, rfl⟩
  | some x =>
    rw [hx, Option.bind_some] at h
    dsimp only
    rw [h]
    exact ⟨rfl, rfl⟩

/-! ### The statement -/

/-- Settles O45: both ends of a move by `MoveEnded`, and the cause by `tellMover_policy_jobs`. -/
theorem movesOfUnits : Obligations.MovesOfUnits := by
  unfold Obligations.MovesOfUnits
  refine ⟨fun s u x m hx hm => ⟨?switch, ?abandon⟩, fun s u h => exec_move_none h⟩
  case switch =>
    obtain ⟨hunits, hbytes, hobjects, hctxs, hregs⟩ := (moveEnded_switched s u x m).told m.cause false
    refine ⟨_, exec_moveSwitch hx hm, hunits, hbytes, hobjects, hctxs, (hregs _).trans (reg_moveSwitched_moves s u x m), ?_, ?_, ?_⟩
    · intro hcause
      rw [hregs, moveSwitched, hcause]
      exact ⟨reg_bump_congr 1 (reg_bump_ne _ 1 (by decide)), rfl⟩
    · intro hcause
      rw [hregs, moveSwitched, hcause]
      exact ⟨reg_bump_congr 1 (reg_bump_ne _ 1 (by decide)), rfl⟩
    · intro id j n ab ch h hcause hj hw
      have hended := moveEnded_switched s u x m
      rw [hcause, ← moveTold_switched hw, ← hended.jobs]
      exact tellMover_policy_jobs false (hended.jobs ▸ hj)
  case abandon =>
    obtain ⟨hunits, hbytes, hobjects, hctxs, hregs⟩ := (moveEnded_abandoned s u x m).told m.cause true
    refine ⟨_, exec_moveAbandon hx hm, hunits, hbytes, hobjects, hctxs, (hregs _).trans (reg_moveAbandoned s u x m), ?_⟩
    intro id j n ab ch h hcause hj hw
    have hended := moveEnded_abandoned s u x m
    rw [hcause, ← moveTold_abandoned hw, ← hended.jobs]
    exact tellMover_policy_jobs true (hended.jobs ▸ hj)

end Sys2Proof.Machine

/-! SUPPORT. The flash tier after its rebuild, and the upkeep of HBM stacks (chapter 8, R184, R185, R192). -/

namespace Sys2Proof.Machine

/-! ### FLASH_TIER_REBUILD -/

/-- The state of the tier that a rebuild finds. -/
def rebuiltState (s : State) (metadata : Bool) : Nat :=
  if (s.mem.channels.filter (fun p => p.2.up)).isEmpty then 0
  else if !metadata || !s.mem.formatted then 1
  else if (s.mem.channels.filter (fun p => p.2.up)).length < 64 then 3 else 2

/-- The objects, units and capacity that a rebuild leaves when it has found a state of the tier. -/
def rebuiltTier (s : State) (v : Nat) : State :=
  { setReg s Key.FLASH_CAPACITY (flashCapacity s) with mem := { s.mem with
      objects := if v ≤ 1 then [] else s.mem.durableObjs
      units := if v ≤ 1 then [] else
        (distinct (s.mem.durable.map (fun c => c.1 / unitBytes))).map (fun u => (u, (⟨.flash, 0, .object, none⟩ : UnitInfo))) } }

/-- That no channel is among those up says of every channel that it is down. -/
theorem rebuiltState_eq (s : State) (metadata : Bool) : rebuiltState s metadata =
    if s.mem.channels.all (fun p => !p.2.up) then 0
    else if !metadata || !s.mem.formatted then 1
    else if (s.mem.channels.filter (fun p => p.2.up)).length < 64 then 3 else 2 := by
  have hnone : (s.mem.channels.filter (fun p => p.2.up)).isEmpty = s.mem.channels.all (fun p => !p.2.up) := by
    rw [Bool.eq_iff_iff, List.isEmpty_iff, List.filter_eq_nil_iff, List.all_eq_true]
    simp only [Bool.not_eq_true, Bool.not_eq_eq_eq_not, Bool.not_true]
  unfold rebuiltState
  rw [hnone]

theorem exec_flashTierRebuild {s : State} (metadata : Bool) (h : s.start = .train) :
    exec (.flashTierRebuild metadata) s =
      .next (setFlashState (rebuiltTier s (rebuiltState s metadata)) (rebuiltState s metadata)) := by
  show Host.Outcome.next (flashTierRebuild s metadata) = _
  unfold flashTierRebuild
  rw [if_pos (by rw [h]; rfl)]
  rfl

theorem reg_setFlashState_self (s : State) (v : Nat) : reg (setFlashState s v) Key.FLASH_STATE = v := by
  unfold setFlashState
  split
  · next h => exact beq_iff_eq.1 h
  · exact (reg_notify _ _ _ _ (by decide)).trans ((reg_setReg_ne _ _ (by decide)).trans (reg_setReg_self _ _ _))

/-- Settles O9: the state found decides the objects, and `setFlashState` leaves memory alone. -/
theorem flashTierRebuildState : Obligations.FlashTierRebuildState := by
  intro s metadata h
  have hstate := reg_setFlashState_self (rebuiltTier s (rebuiltState s metadata)) (rebuiltState s metadata)
  refine ⟨_, exec_flashTierRebuild metadata h, by rw [setFlashState_mem]; rfl,
    hstate.trans (rebuiltState_eq s metadata), ?_, ?_⟩
  · intro hlow
    rw [setFlashState_mem]
    exact if_pos (hstate ▸ hlow)
  · intro hhigh
    rw [setFlashState_mem]
    exact if_neg (by rw [hstate] at hhigh; omega)

/-! ### HBM_PATROL_SCRUB -/

theorem exec_hbmPatrolScrub_off {s : State} (line errors : Nat) (h : inForce s Key.HBM_SCRUB_HOURS = 0) :
    exec (.hbmPatrolScrub line errors) s = .next s :=
  congrArg Host.Outcome.next (if_pos (beq_iff_eq.2 h))

theorem exec_hbmPatrolScrub_clean {s : State} (line : Nat) (h : inForce s Key.HBM_SCRUB_HOURS ≠ 0) :
    exec (.hbmPatrolScrub line 0) s = .next s :=
  congrArg Host.Outcome.next (if_neg (by simpa using h))

theorem exec_hbmPatrolScrub_corrected {s : State} (line : Nat) (h : inForce s Key.HBM_SCRUB_HOURS ≠ 0) :
    exec (.hbmPatrolScrub line 1) s = .next (countChip (bump s Key.HBM_CORRECTED 1) 0x3B1 1 {}) :=
  congrArg Host.Outcome.next (if_neg (by simpa using h))

/-- An error that the scrub cannot correct is logged and counted. -/
def scrubLogged (s : State) (line : Nat) : State :=
  bump (logError s .hbm 0 Code.ECC_UNCORRECTABLE noCtx .replay line) Key.HBM_UNCORRECTABLE 1

theorem scrubLogged_frame (s : State) (line : Nat) : (scrubLogged s line).mem = s.mem ∧ (scrubLogged s line).jobs = s.jobs ∧
    reg (scrubLogged s line) Key.HBM_UNCORRECTABLE = reg (bump s Key.HBM_UNCORRECTABLE 1) Key.HBM_UNCORRECTABLE :=
  ⟨by rw [scrubLogged, bump_mem, logError_mem], by rw [scrubLogged, bump_jobs, logError_jobs],
    reg_bump_congr 1 (reg_logError _ _ _ _ _ _ _ (by decide))⟩

/-- A line that the scrub cannot correct is poisoned. -/
def linePoisoned (s : State) (line : Nat) : State :=
  { s with mem := { s.mem with poison := if s.mem.poison.contains line then s.mem.poison else insertUp line s.mem.poison } }

theorem mem_linePoisoned (s : State) (line l : Nat) : l ∈ (linePoisoned s line).mem.poison ↔ l ∈ s.mem.poison ∨ l = line := by
  unfold linePoisoned
  dsimp only
  split
  · next h =>
    refine ⟨.inl, fun hl => hl.elim id ?_⟩
    rintro rfl
    exact List.contains_iff_mem.1 h
  · rw [mem_insertUp]
    exact or_comm

theorem exec_hbmPatrolScrub_uncorrectable {s : State} (line : Nat) {errors : Nat} (h : inForce s Key.HBM_SCRUB_HOURS ≠ 0)
    (he : 2 ≤ errors) :
    exec (.hbmPatrolScrub line errors) s = .next (linePoisoned (scrubLogged s line) line) := by
  have hone : ¬(errors == 1) = true := by
    rw [beq_iff_eq]
    omega
  show Host.Outcome.next (hbmPatrolScrub s line errors) = _
  unfold hbmPatrolScrub
  rw [if_neg (by simpa using h), if_neg hone, if_pos he]
  rfl

/-! ### HBM_TEMPERATURE_READ and STACK_CONTROLLER_RESET -/

theorem stackOf_setStack (s : State) (k q : Nat) (x : Stack) :
    stackOf (setStack s k x) q = if q = k then x else stackOf s q := by
  unfold stackOf setStack
  dsimp only
  rw [tabGet_tabSet]
  split <;> rfl

/-- A stack with a temperature read. -/
def stackRead (s : State) (k temp : Nat) : Stack :=
  { stackOf s k with
    temp := temp
    doubled := 85 < temp
    throttled := reg s Key.HBM_THROTTLE_C < temp ∨ 90 < temp ∧ (stackOf s k).throttled = true }

/-- A stack keeps a temperature, and the start of throttling is counted. -/
def temperatureKept (s : State) (k temp : Nat) : State :=
  if (stackRead s k temp).throttled && !(stackOf s k).throttled then
    bump (setStack s k (stackRead s k temp)) Key.HBM_THROTTLE_EVENTS 1
  else setStack s k (stackRead s k temp)

theorem temperatureKept_frame (s : State) (k temp : Nat) :
    (temperatureKept s k temp).mem = (setStack s k (stackRead s k temp)).mem ∧ (temperatureKept s k temp).fatal = s.fatal ∧
      (temperatureKept s k temp).jobs = s.jobs ∧ reg (temperatureKept s k temp) Key.HBM_TEMP_MAX = reg s Key.HBM_TEMP_MAX := by
  unfold temperatureKept
  split
  · exact ⟨rfl, rfl, rfl, reg_bump_ne _ 1 (by decide)⟩
  · exact ⟨rfl, rfl, rfl, rfl⟩

/-- The command rate is halved from above the limit, and until 90 degrees where it was. -/
theorem throttled_iff (limit temp : Nat) (was : Bool) :
    (if limit < temp then true else if temp ≤ 90 then false else was) = decide (limit < temp ∨ 90 < temp ∧ was = true) := by
  by_cases hover : limit < temp
  · rw [if_pos hover, decide_eq_true (.inl hover)]
  · rw [if_neg hover]
    by_cases hcool : temp ≤ 90
    · have hrest : ¬(limit < temp ∨ 90 < temp ∧ was = true) := fun h => h.elim hover (fun hw => Nat.not_lt.2 hcool hw.1)
      rw [if_pos hcool, decide_eq_false hrest]
    · rw [if_neg hcool]
      simp only [hover, Nat.lt_of_not_le hcool, false_or, true_and, Bool.decide_eq_true]

theorem exec_hbmTemperatureRead {s : State} {k temp : Nat} (hs : s.start ≠ .off) (hk : k < 12) (ht : temp < 100) :
    exec (.hbmTemperatureRead k temp) s = .next (setReg (temperatureKept s k temp) Key.HBM_TEMP_MAX
      (Nat.max (reg s Key.HBM_TEMP_MAX) temp)) := by
  obtain ⟨-, -, -, hmax⟩ := temperatureKept_frame s k temp
  have hread : ¬(s.start == .off || decide (12 ≤ k)) = true := by
    rw [Bool.or_eq_true, beq_iff_eq, decide_eq_true_eq]
    exact fun h => h.elim hs (Nat.not_le.2 hk)
  show Host.Outcome.next (hbmTemperatureRead s k temp) = _
  rw [← hmax]
  unfold hbmTemperatureRead
  rw [if_neg hread]
  dsimp only
  rw [if_neg (Nat.not_le.2 ht), throttled_iff, Nat.mod_eq_of_lt (by omega)]
  rfl

theorem exec_stackControllerReset_trained {s : State} {k rate : Nat} (h : (stackOf s k).resetting = true)
    (hr : stackRate rate = true) :
    exec (.stackControllerReset k rate) s =
      .next (setStackRate (setStack s k { stackOf s k with resetting := false, selfRefresh := false }) k rate) := by
  show Host.Outcome.next (stackControllerReset s k rate) = _
  unfold stackControllerReset
  rw [if_pos h, if_pos hr]

theorem exec_stackControllerReset_fails {s : State} {k rate : Nat} (h : (stackOf s k).resetting = true)
    (hr : stackRate rate = false) :
    exec (.stackControllerReset k rate) s = .next (regionFault (setStack s k { stackOf s k with resetting := false }) (k / 3)) := by
  show Host.Outcome.next (stackControllerReset s k rate) = _
  unfold stackControllerReset
  rw [if_pos h, if_neg (Bool.eq_false_iff.1 hr)]

/-- A region whose reset has begun is in reset. -/
theorem mem_resetting_startRegionReset (s : State) (r : Nat) : r ∈ (startRegionReset s r).chip.resetting := by
  unfold startRegionReset
  split
  · next h => exact List.contains_iff_mem.1 h
  · dsimp only
    rw [showPower_chip]
    exact (mem_insertUp _ _ _).2 (.inl rfl)

/-! ### The statement -/

/-- Settles O48: each event's next state is written out, and its entries and stacks are read off it. -/
theorem hbmUpkeep : Obligations.HbmUpkeep := by
  unfold Obligations.HbmUpkeep
  refine ⟨?scrub, fun s line errors h => exec_hbmPatrolScrub_off line errors h, ?temperature, ?controller⟩
  case scrub =>
    intro s line errors hon
    refine ⟨?_, ?_, fun he => ?_⟩
    · rintro rfl
      exact exec_hbmPatrolScrub_clean line hon
    · rintro rfl
      exact ⟨_, exec_hbmPatrolScrub_corrected line hon, by rw [countChip_mem, bump_mem], by rw [countChip_jobs, bump_jobs],
        reg_countChip _ _ _ _ (by decide)⟩
    · obtain ⟨hmem, hjobs, hcount⟩ := scrubLogged_frame s line
      exact ⟨_, exec_hbmPatrolScrub_uncorrectable line hon he, by rw [← hmem]; rfl, hjobs,
        fun l => by rw [mem_linePoisoned, hmem], hcount⟩
  case temperature =>
    intro s k temp hs hk ht
    obtain ⟨hmem, hfatal, hjobs, -⟩ := temperatureKept_frame s k temp
    refine ⟨_, exec_hbmTemperatureRead hs hk ht, fun q => ?_, by rw [setReg_mem, hmem]; rfl, hfatal, hjobs, reg_setReg_self _ _ _⟩
    have hstack : stackOf (setReg (temperatureKept s k temp) Key.HBM_TEMP_MAX (Nat.max (reg s Key.HBM_TEMP_MAX) temp)) q =
        stackOf (setStack s k (stackRead s k temp)) q := by
      unfold stackOf
      rw [setReg_mem, hmem]
    exact hstack.trans (stackOf_setStack s k q _)
  case controller =>
    intro s k rate h
    refine ⟨fun hr => ?_, fun hr => ?_⟩
    · exact ⟨_, exec_stackControllerReset_trained h hr, rfl, rfl, rfl, fun q => stackOf_setStack s k q _⟩
    · exact ⟨_, exec_stackControllerReset_fails h hr, mem_resetting_startRegionReset _ _⟩

end Sys2Proof.Machine

/-! SUPPORT. The commands on objects (chapter 8, R172 to R175): what each leaves when it registers, releases, places or describes
an object. -/

namespace Sys2Proof.Machine

/-- A command whose body ends it at once leaves its outcome and nothing else. -/
theorem ends_at_once {s : State} {id op : Nat} {src : State → Job → List (Nat × Nat)} {j : Job}
    (h : runsNow s id op src j = true) (st r : Nat) :
    ends (unacted (finish (acting s j) id st r)) id st r ∧ OnlyOutcome s (unacted (finish (acting s j) id st r)) :=
  ⟨ends_end st r (runsNow_acting h), onlyOutcome_end s j id st r⟩

/-- Other copies of index states and another memory. -/
def withStores (s : State) (cp : Tab Index) (m : MemS) : State := { s with copies := cp, mem := m }

/-- A command that has changed stores alone ends: nothing beside it and nothing held is disturbed. -/
theorem stores_end {s : State} {id op : Nat} {src : State → Job → List (Nat × Nat)} {j : Job}
    (h : runsNow s id op src j = true) (cp : Tab Index) (m : MemS) (st r : Nat) :
    ends (unacted (finish (withStores (acting s j) cp m) id st r)) id st r ∧
      (unacted (finish (withStores (acting s j) cp m) id st r)).mem = m ∧
      Beside s (unacted (finish (withStores (acting s j) cp m) id st r)) id j.ctx ∧
      HoldingsKept s (unacted (finish (withStores (acting s j) cp m) id st r)) := by
  have hj : tabGet (withStores (acting s j) cp m).jobs id = some j := runsNow_job (s := s) h
  have hact := quiet_acting s j id j.ctx
  exact ⟨ends_end st r hj, by rw [unacted_mem, finish_mem]; rfl,
    beside_end (hact.beside.trans (beside_stores (acting s j) s.indexes cp m id j.ctx)) hj,
    holdings_end (hact.holdings.trans (holdings_stores (acting s j) s.indexes cp m))⟩

/-! ### OBJ_REGISTER -/

/-- Memory with one more object. -/
def objectAdded (m : MemS) (e : Nat) : MemS :=
  { m with objects := tabSet m.objects (objAddr e) ⟨objSize e, objPolicy e, objRegion e, false⟩ }

theorem exec_objRegister_added {s : State} {id : Nat} {j : Job} (h : runsNow s id Op.OBJ_REGISTER noSources j = true)
    (hfree : overlapsObject s (objAddr j.entry) (objSize j.entry) = false) (hroom : s.mem.objects.length < 65536)
    (hheld : capacityHeld s (objSize j.entry) (objPolicy j.entry) (objRegion j.entry) = true)
    (hshort : objPolicy j.entry ≠ 0 ∨ shortRegion s (objSize j.entry) (objRegion j.entry) = none) :
    exec (.objRegister id) s = .next (unacted (finish (withStores (acting s j) s.copies (objectAdded s.mem j.entry))
      id Code.OK (objSize j.entry / unitBytes))) := by
  refine runJob_next h ?_
  have hover : ¬overlapsObject (acting s j) (objAddr j.entry) (objSize j.entry) = true := Bool.eq_false_iff.1 hfree
  have hfits : ¬(decide (65536 ≤ (acting s j).mem.objects.length) ||
      !capacityHeld (acting s j) (objSize j.entry) (objPolicy j.entry) (objRegion j.entry)) = true := by
    show ¬(decide (65536 ≤ s.mem.objects.length) ||
      !capacityHeld s (objSize j.entry) (objPolicy j.entry) (objRegion j.entry)) = true
    simp [hheld, hroom]
  unfold objRegisterBody
  dsimp only
  rw [if_neg hover, if_neg hfits]
  split
  · next hhbm =>
    have hnone := hshort.resolve_left (fun hne => hne (beq_iff_eq.1 hhbm))
    rw [show shortRegion (acting s j) (objSize j.entry) (objRegion j.entry) = none from hnone]
    rfl
  · rfl

theorem exec_objRegister_overlaps {s : State} {id : Nat} {j : Job} (h : runsNow s id Op.OBJ_REGISTER noSources j = true)
    (hover : overlapsObject s (objAddr j.entry) (objSize j.entry) = true) :
    exec (.objRegister id) s = .next (unacted (finish (acting s j) id Code.BAD_FIELD 0)) :=
  runJob_next h (if_pos hover)

theorem exec_objRegister_exhausted {s : State} {id : Nat} {j : Job} (h : runsNow s id Op.OBJ_REGISTER noSources j = true)
    (hfree : overlapsObject s (objAddr j.entry) (objSize j.entry) = false)
    (hfull : 65536 ≤ s.mem.objects.length ∨
      capacityHeld s (objSize j.entry) (objPolicy j.entry) (objRegion j.entry) = false) :
    exec (.objRegister id) s = .next (unacted (finish (acting s j) id Code.POOL_EXHAUSTED 0)) := by
  refine runJob_next h ((if_neg (Bool.eq_false_iff.1 hfree)).trans (if_pos ?_))
  show (decide (65536 ≤ s.mem.objects.length) ||
    !capacityHeld s (objSize j.entry) (objPolicy j.entry) (objRegion j.entry)) = true
  rcases hfull with hfull | hfull <;> simp [hfull]

/-! ### OBJ_RELEASE -/

/-- Units of HBM that a released object gives back: its reservation, or those that hold it. -/
def unitsBack (s : State) (a : Nat) (o : Obj) : List (Nat × Nat) :=
  if o.policy == 0 then (List.range 4).map (fun r => (r, reserveIn o.size o.region r))
  else (unitsOfObject s a o).filterMap (fun p => match p.2.home with
    | .hbm r => some (r, 1)
    | _ => none)

/-- Memory without an object: its entry, its units, its staged writes, its bytes and its poisoned lines are gone. -/
def objectGone (s : State) (a : Nat) (o : Obj) : MemS :=
  { s.mem with
    objects := tabDel s.mem.objects a
    units := s.mem.units.filter (fun p => !(a / unitBytes ≤ p.1 && p.1 < (a + o.size) / unitBytes))
    staged := s.mem.staged.filter (fun p => !(a / unitBytes ≤ p.1 / 512 && p.1 / 512 < (a + o.size) / unitBytes))
    dev := memClear s.mem.dev a o.size
    poison := s.mem.poison.filter (fun l => !(a ≤ l * 128 && l * 128 < a + o.size))
    freeing := s.mem.freeing ++ unitsBack s a o }

/-- What is left of a table where the keys of a range are dropped. -/
theorem tabGet_dropRange {α : Type} (t : Tab α) (f : Nat → Nat) (lo hi k : Nat) :
    tabGet (t.filter (fun p => !(decide (lo ≤ f p.1) && decide (f p.1 < hi)))) k =
      if lo ≤ f k ∧ f k < hi then none else tabGet t k := by
  rw [tabGet_filter t (fun k => !(decide (lo ≤ f k) && decide (f k < hi)))]
  by_cases h : lo ≤ f k ∧ f k < hi
  · rw [if_pos h, decide_eq_true h.1, decide_eq_true h.2]
    rfl
  · have hout : ¬(decide (lo ≤ f k) && decide (f k < hi)) = true := by
      rwa [Bool.and_eq_true, decide_eq_true_eq, decide_eq_true_eq]
    rw [if_neg h, if_pos (by rw [Bool.eq_false_iff.2 hout]; rfl)]

theorem exec_objRelease {s : State} {id : Nat} {j : Job} {o : Obj} (h : runsNow s id Op.OBJ_RELEASE noSources j = true)
    (ho : tabGet s.mem.objects (objAddr j.entry) = some o)
    (hnamed : s.jobs.any (fun p => p.1 < id && openJob p.2 && namesObject p.2.entry (objAddr j.entry) o.size) = false)
    (hstill : ∀ p ∈ unitsOfObject s (objAddr j.entry) o, p.2.move = none) :
    exec (.objRelease id) s = .next (unacted (finish (withStores (acting s j)
      (tabDel s.copies (objAddr j.entry)) (objectGone s (objAddr j.entry) o)) id Code.OK
      (unitsOfObject s (objAddr j.entry) o).length)) := by
  refine runJob_next h ?_
  have hmoves : (unitsOfObject s (objAddr j.entry) o).any (fun p => p.2.move.isSome) = false := by
    rw [List.any_eq_false]
    intro p hp
    simp [hstill p hp]
  have hfree : ¬((acting s j).jobs.any (fun p => p.1 < id && openJob p.2 && namesObject p.2.entry (objAddr j.entry) o.size) ||
      (unitsOfObject s (objAddr j.entry) o).any (fun p => p.2.move.isSome)) = true := by
    rw [hmoves, Bool.or_false]
    exact Bool.eq_false_iff.1 hnamed
  unfold objReleaseBody
  dsimp only
  rw [show tabGet (acting s j).mem.objects (objAddr j.entry) = some o from ho]
  exact if_neg hfree

/-! ### OBJ_SET_POLICY -/

theorem exec_objSetPolicy_short {s : State} {id m ab ch : Nat} {j : Job} {o : Obj}
    (h : runsNow s id Op.OBJ_SET_POLICY noSources j = true) (ho : tabGet s.mem.objects (objAddr j.entry) = some o)
    (hw : j.work = [m, ab, ch, 0]) :
    exec (.objSetPolicy id) s = .next (unacted (finish (acting s j) id Code.POOL_EXHAUSTED 0)) := by
  refine runJob_next h ?_
  unfold objSetPolicyBody
  dsimp only
  rw [show tabGet (acting s j).mem.objects (objAddr j.entry) = some o from ho, hw]
  rfl

/-- What OBJ_SET_POLICY does next with an object of which no unit moves. -/
def policyStep (s : State) (id m ab ch : Nat) (j : Job) (o : Obj) : State :=
  if ab == 1 then finish s id Code.MIGRATION_ABORTED m
  else if j.cancel.isSome then finish s id Code.CTX_CANCELLED m
  else if (misplacedUnits s (objAddr j.entry) o).isEmpty then
    finish s id (if ch == 0 && m == 0 then Code.OK_NOOP else Code.OK) m
  else startPolicyMoves id (objAddr j.entry) o s (misplacedUnits s (objAddr j.entry) o)

theorem exec_objSetPolicy_still {s : State} {id m ab ch : Nat} {j : Job} {o : Obj}
    (h : runsNow s id Op.OBJ_SET_POLICY noSources j = true) (ho : tabGet s.mem.objects (objAddr j.entry) = some o)
    (hw : j.work = [m, ab, ch, 1]) (hstill : ∀ p ∈ unitsOfObject s (objAddr j.entry) o, p.2.move = none) :
    exec (.objSetPolicy id) s = .next (unacted (policyStep (acting s j) id m ab ch j o)) := by
  refine runJob_next h ?_
  unfold objSetPolicyBody policyStep
  dsimp only
  rw [show tabGet (acting s j).mem.objects (objAddr j.entry) = some o from ho, hw]
  dsimp only
  rw [if_neg (by decide), if_neg]
  rw [Bool.not_eq_true, List.any_eq_false]
  intro p hp
  rw [hstill p hp]
  exact Bool.false_ne_true

/-! ### OBJ_QUERY -/

/-- The output of OBJ_QUERY: the descriptor and a byte for each unit. -/
def objectBytes (s : State) (a : Nat) (o : Obj) : List Nat :=
  leBytes 64 (objDescriptor s a o) ++ (List.range (o.size / unitBytes)).map (fun i => unitByte s (a / unitBytes + i))

theorem objectBytes_length (s : State) (a : Nat) (o : Obj) : (objectBytes s a o).length = 64 + o.size / unitBytes := by
  simp [objectBytes]

theorem unitByte_lt {s : State} (h : ∀ k x r, tabGet s.mem.units k = some x → x.home = .hbm r → r < 4) (u : Nat) :
    unitByte s u < 256 := by
  unfold unitByte
  cases hx : tabGet s.mem.units u with
  | none => exact Nat.zero_lt_succ 255
  | some x =>
    dsimp only
    split
    · decide
    · cases hh : x.home with
      | hbm r =>
        have hr := h u x r hx hh
        dsimp only
        omega
      | unbacked => decide
      | flash => decide

theorem objectBytes_lt {s : State} (h : ∀ k x r, tabGet s.mem.units k = some x → x.home = .hbm r → r < 4) (a : Nat) (o : Obj) :
    ∀ b ∈ objectBytes s a o, b < 256 := by
  intro b hb
  rcases List.mem_append.1 hb with hb | hb
  · exact leBytes_lt _ _ b hb
  · obtain ⟨i, -, rfl⟩ := List.mem_map.1 hb
    exact unitByte_lt h _

theorem exec_objQuery {s : State} {id : Nat} {j : Job} {o : Obj} (h : runsNow s id Op.OBJ_QUERY noSources j = true)
    (ho : objectBase s (objAddr j.entry) = some o) :
    exec (.objQuery id) s = .next (unacted (withWrite (acting s j) id (objDest j.entry) (64 + o.size / unitBytes) (fun x =>
      finish (writeBytes x (objDest j.entry) (objectBytes s (objAddr j.entry) o)) id Code.OK (64 + o.size / unitBytes)))) := by
  refine runJob_next h ?_
  unfold objQueryBody writeAndFinish
  dsimp only
  rw [show objectBase (acting s j) (objAddr j.entry) = some o from ho]
  show withWrite (acting s j) id (objDest j.entry) (objectBytes s (objAddr j.entry) o).length _ = _
  rw [objectBytes_length]
  rfl

/-- A command's write leaves the objects as they are. -/
theorem withWrite_objects {s u : State} {id a n st r : Nat} {bs : List Nat} (h : prepareWrite s a n = .ready u) :
    (withWrite s id a n (fun x => finish (writeBytes x a bs) id st r)).mem.objects = s.mem.objects := by
  unfold withWrite
  rw [h]
  obtain ⟨us, rfl⟩ := prepareWrite_ready h
  unfold notePosted
  dsimp only
  split <;> simp

/-! ### The statement -/

/-- Settles O44: each command's next state is written out; what it leaves beside is that of its one store or its one write. -/
theorem objectCommands : Obligations.ObjectCommands := by
  unfold Obligations.ObjectCommands
  refine ⟨?register, ?release, ?policy, ?query⟩
  case register =>
    intro s id j h
    refine ⟨fun hfree hroom hheld hshort => ?_, fun hover => ?_, fun hfree hfull => ?_⟩
    · obtain ⟨hends, hmem, hbeside, hholdings⟩ := stores_end h s.copies (objectAdded s.mem j.entry) Code.OK
        (objSize j.entry / unitBytes)
      refine ⟨_, exec_objRegister_added h hfree hroom hheld hshort, hends, fun a => ?_, ?_, fun a => ?_, hbeside, hholdings⟩
      · rw [hmem]
        exact tabGet_tabSet _ _ _ _
      · rw [hmem]
        rfl
      · exact byteAt_congr (by rw [hmem]; rfl) (by rw [hmem]; rfl) a
    · exact ⟨_, exec_objRegister_overlaps h hover, ends_at_once h _ _⟩
    · exact ⟨_, exec_objRegister_exhausted h hfree hfull, ends_at_once h _ _⟩
  case release =>
    intro s id j o h ho hnamed hstill
    obtain ⟨hends, hmem, hbeside, hholdings⟩ := stores_end h (tabDel s.copies (objAddr j.entry))
      (objectGone s (objAddr j.entry) o) Code.OK (unitsOfObject s (objAddr j.entry) o).length
    refine ⟨_, exec_objRelease h ho hnamed hstill, hends, fun a => ?_, fun u => ?_, fun a => ?_, fun k => ?_, ?_, hbeside,
      hholdings⟩ <;> rw [hmem]
    · split
      · next e => exact e ▸ tabGet_tabDel_self _ _
      · next e => exact tabGet_tabDel_ne _ e
    · exact tabGet_dropRange s.mem.units (fun k => k) _ _ u
    · exact memByte_memClear _ _ _ _
    · exact tabGet_dropRange s.mem.staged (· / 512) _ _ k
    · rfl
  case policy =>
    intro s id m ab ch j o h ho
    refine ⟨fun hw => ⟨_, exec_objSetPolicy_short h ho hw, ends_at_once h _ _⟩, fun hw hstill => ?_⟩
    have hexec := exec_objSetPolicy_still h ho hw hstill
    have hopen (hab : ab ≠ 1) : ¬(ab == 1) = true := fun e => hab (beq_iff_eq.1 e)
    have hgoes (hc : j.cancel = none) : ¬j.cancel.isSome = true := by simp [hc]
    unfold policyStep at hexec
    refine ⟨fun hab => ?_, fun hab hc => ?_, fun hab hc hnone => ?_, fun hab hc hsome => ?_⟩
    · rw [if_pos (beq_iff_eq.2 hab)] at hexec
      exact ⟨_, hexec, ends_at_once h _ _⟩
    · rw [if_neg (hopen hab), if_pos hc] at hexec
      exact ⟨_, hexec, ends_at_once h _ _⟩
    · have hempty : (misplacedUnits (acting s j) (objAddr j.entry) o).isEmpty = true := List.isEmpty_iff.2 hnone
      rw [if_neg (hopen hab), if_neg (hgoes hc), if_pos hempty] at hexec
      have hstatus : (if ch = 0 ∧ m = 0 then Code.OK_NOOP else Code.OK) = if ch == 0 && m == 0 then Code.OK_NOOP else Code.OK := by
        simp only [Bool.and_eq_true, beq_iff_eq]
      rw [hstatus]
      exact ⟨_, hexec, ends_at_once h _ _⟩
    · have hmore : ¬(misplacedUnits (acting s j) (objAddr j.entry) o).isEmpty = true := fun e => hsome (List.isEmpty_iff.1 e)
      rw [if_neg (hopen hab), if_neg (hgoes hc), if_neg hmore] at hexec
      exact hexec
  case query =>
    intro s u id j o h ho hu hregions
    obtain ⟨hends, hin, hout, hbeside, hholdings, -⟩ := (endsWith_withWrite (fun x => x)
      (objectBytes_length s (objAddr j.entry) o).symm (objectBytes_lt hregions (objAddr j.entry) o)
      (quiet_acting s j id j.ctx) hu (runsNow_acting h) (st := Code.OK) (r := 64 + o.size / unitBytes)
      (fun x => ⟨.refl x id j.ctx, rfl, rfl, rfl⟩)).unacted
    rw [objectBytes_length] at hin hout
    exact ⟨_, exec_objQuery h ho, hends, hin, hout, withWrite_objects hu, hbeside, hholdings⟩

end Sys2Proof.Machine

/-! SUPPORT. The text commands of the Laces (chapter 9, R196 to R206): which tables a load and an unload leave, what counting an
encode or a decode can change, and the bytes that each of them delivers. -/

namespace Sys2Proof.Machine

theorem bytesAt_lt (s : State) (a n : Nat) : ∀ b ∈ bytesAt s a n, b < 256 := by
  unfold bytesAt
  split <;> exact memBytes_lt _ _ _

theorem bytesAt_congr {s t : State} (h : t.mem.dev = s.mem.dev) (k : t.mem.comp = s.mem.comp) : bytesAt t = bytesAt s := by
  funext a n
  unfold bytesAt
  rw [h, k]

theorem Still.quiet {s t : State} (h : Still s t) (id c : Nat) : Quiet s t id c :=
  ⟨byteAt_congr (by rw [h.calm.mem]) (by rw [h.calm.mem]), h.calm.beside id c,
    ⟨h.models, h.calm.vocabs, h.calm.grammars, h.calm.belt, h.calm.kv, h.calm.gens, h.pocket, h.acc⟩, h.calm.indexes⟩

/-! ### Another table of vocabularies (R196, R198) -/

/-- Another table of vocabularies stands, and no byte, no other command and nothing else that is named differs. -/
structure NewVocabs (s t : State) (vs : Tab Vocab) (id c : Nat) : Prop where
  vocabs : t.vocabs = vs
  jobs : t.jobs = s.jobs
  bytes : ∀ a, byteAt t a = byteAt s a
  beside : Beside s t id c
  indexes : t.indexes = s.indexes
  models : t.models = s.models

theorem newVocabs_set (s : State) (vs : Tab Vocab) (id c : Nat) : NewVocabs s { s with vocabs := vs } vs id c :=
  have hbeside : Beside s { s with vocabs := vs } id c := by
    constructor
    case jobs | ctxs | settings => exact fun _ _ => rfl
    all_goals rfl
  ⟨rfl, rfl, fun _ => rfl, hbeside, rfl, rfl⟩

theorem NewVocabs.quiet {s t u : State} {vs : Tab Vocab} {id c : Nat} (h : NewVocabs s t vs id c) (q : Quiet t u id c)
    (hj : u.jobs = t.jobs) : NewVocabs s u vs id c :=
  ⟨q.holdings.vocabs.trans h.vocabs, hj.trans h.jobs, fun a => (q.bytes a).trans (h.bytes a), h.beside.trans q.beside,
    q.indexes.trans h.indexes, q.holdings.models.trans h.models⟩

theorem quiet_reportVocabs (s : State) (id c : Nat) : Quiet s (reportVocabs s) id c :=
  (still_setReg s _ (by decide) (by decide)).quiet id c

/-- A command that leaves another table of vocabularies ends: the table stands, and nothing else differs. -/
theorem newVocabs_end {s t : State} {vs : Tab Vocab} {id op : Nat} {src : State → Job → List (Nat × Nat)} {j : Job}
    (h : runsNow s id op src j = true) (w : NewVocabs (acting s j) t vs id j.ctx) (st r : Nat) :
    ends (unacted (finish t id st r)) id st r ∧ (unacted (finish t id st r)).vocabs = vs ∧
      (∀ a, byteAt (unacted (finish t id st r)) a = byteAt s a) ∧ Beside s (unacted (finish t id st r)) id j.ctx ∧
      (unacted (finish t id st r)).indexes = s.indexes ∧ (unacted (finish t id st r)).models = s.models := by
  have hj : tabGet t.jobs id = some j := by rw [w.jobs]; exact runsNow_acting h
  have hend : Quiet t (unacted (finish t id st r)) id j.ctx := (quiet_finish st r hj).trans (quiet_unacted _ _ _)
  exact ⟨ends_end st r hj, hend.holdings.vocabs.trans w.vocabs, fun a => (hend.bytes a).trans (w.bytes a),
    ((quiet_acting s j id j.ctx).beside.trans w.beside).trans hend.beside, hend.indexes.trans w.indexes,
    hend.holdings.models.trans w.models⟩

/-! ### LACE_VOCAB_LOAD -/

theorem exec_laceVocabLoad_known {s : State} {id : Nat} {j : Job} (h : runsNow s id Op.LACE_VOCAB_LOAD noSources j = true)
    (hknown : tabHas s.vocabs (laVocab j.entry) = true) :
    exec (.laceVocabLoad id) s = .next (unacted (finish (acting s j) id Code.BAD_FIELD 0)) :=
  runJob_next h (if_pos hknown)

/-- What a load does of an image that can be read. -/
def loadChecked (s : State) (id : Nat) (j : Job) : State :=
  if vocabCheck s (laSrc j.entry) != Code.OK then finish s id (vocabCheck s (laSrc j.entry)) 0
  else finish (reportVocabs (touchRange { s with vocabs := tabSet s.vocabs (laVocab j.entry) { addr := laSrc j.entry } }
    (laSrc j.entry) (voBytes (natAt s (laSrc j.entry) 64)))) id Code.OK 0

theorem exec_laceVocabLoad_readable {s : State} {id : Nat} {j : Job} (h : runsNow s id Op.LACE_VOCAB_LOAD noSources j = true)
    (hnew : tabHas s.vocabs (laVocab j.entry) = false) (hhead : readBad s (laSrc j.entry) 64 = false)
    (himage : readBad s (laSrc j.entry) (voBytes (natAt s (laSrc j.entry) 64)) = false) :
    exec (.laceVocabLoad id) s = .next (unacted (loadChecked (acting s j) id j)) := by
  refine runJob_next h ((if_neg (Bool.eq_false_iff.1 hnew)).trans ((if_neg (Bool.eq_false_iff.1 hhead)).trans (if_neg ?_)))
  have himage' : readBad (acting s j) (laSrc j.entry) (voBytes (natAt (acting s j) (laSrc j.entry) 64)) = false := himage
  rw [himage', Bool.and_false]
  exact Bool.false_ne_true

theorem loadChecked_bad {s : State} {id : Nat} {j : Job} (h : vocabCheck s (laSrc j.entry) ≠ Code.OK) :
    loadChecked s id j = finish s id (vocabCheck s (laSrc j.entry)) 0 := if_pos (bne_iff_ne.2 h)

theorem loadChecked_ok {s : State} {id : Nat} {j : Job} (h : vocabCheck s (laSrc j.entry) = Code.OK) :
    ∃ t, NewVocabs s t (tabSet s.vocabs (laVocab j.entry) { addr := laSrc j.entry }) id j.ctx ∧
      loadChecked s id j = finish t id Code.OK 0 :=
  ⟨_, ((newVocabs_set s _ id j.ctx).quiet (quiet_touchRange _ _ _ _ _) (jobs_touchRange _ _ _)).quiet
    (quiet_reportVocabs _ _ _) rfl, if_neg (by rw [h]; decide)⟩

/-! ### LACE_VOCAB_UNLOAD -/

theorem exec_laceVocabUnload_unknown {s : State} {id : Nat} {j : Job}
    (h : runsNow s id Op.LACE_VOCAB_UNLOAD noSources j = true) (hnone : tabGet s.vocabs (laVocab j.entry) = none) :
    exec (.laceVocabUnload id) s = .next (unacted (finish (acting s j) id Code.OK_NOOP 0)) := by
  refine runJob_next h ?_
  unfold laceVocabUnloadBody
  dsimp only
  rw [show tabGet (acting s j).vocabs (laVocab j.entry) = none from hnone]

/-- An unload that closes its vocabulary goes on when no call that pinned it is open. -/
theorem laceVocabUnloadBody_closing {s : State} {id : Nat} {j : Job} {x : Vocab}
    (hx : tabGet s.vocabs (laVocab j.entry) = some x) (hc : x.closing = some id) :
    laceVocabUnloadBody s id j = if x.pins.any (isOpen s) then s
      else finish (reportVocabs { s with vocabs := tabDel s.vocabs (laVocab j.entry) }) id Code.OK 0 := by
  unfold laceVocabUnloadBody
  dsimp only
  rw [hx]
  exact if_neg (by simp [hc])

theorem exec_laceVocabUnload_pinned {s : State} {id : Nat} {j : Job} {x : Vocab}
    (h : runsNow s id Op.LACE_VOCAB_UNLOAD noSources j = true) (hx : tabGet s.vocabs (laVocab j.entry) = some x)
    (hc : x.closing = some id) (hpin : ∃ k ∈ x.pins, isOpen s k = true) (ha : s.perf.actor = none) :
    exec (.laceVocabUnload id) s = .next s := by
  refine runJob_idle h ha ?_
  rw [laceVocabUnloadBody_closing (s := acting s j) hx hc]
  exact if_pos (List.any_eq_true.2 hpin)

theorem exec_laceVocabUnload_free {s : State} {id : Nat} {j : Job} {x : Vocab}
    (h : runsNow s id Op.LACE_VOCAB_UNLOAD noSources j = true) (hx : tabGet s.vocabs (laVocab j.entry) = some x)
    (hc : x.closing = some id) (hfree : ∀ k ∈ x.pins, isOpen s k = false) :
    exec (.laceVocabUnload id) s = .next (unacted (finish (reportVocabs { acting s j with
      vocabs := tabDel s.vocabs (laVocab j.entry) }) id Code.OK 0)) := by
  refine runJob_next h ?_
  rw [laceVocabUnloadBody_closing (s := acting s j) hx hc]
  have hnone : ¬x.pins.any (isOpen (acting s j)) = true := by
    rw [List.any_eq_true]
    rintro ⟨k, hk, hopen⟩
    exact Bool.eq_false_iff.1 (hfree k hk) hopen
  exact if_neg hnone

/-! ### What encoding and decoding read -/

section reads

variable {s t : State} (h : bytesAt t = bytesAt s)

include h

theorem natAt_of_bytesAt : natAt t = natAt s := by
  funext a n
  unfold natAt
  rw [h]

theorem tokenEntry_congr : tokenEntry t = tokenEntry s := by
  funext a k
  unfold tokenEntry
  rw [natAt_of_bytesAt h]

theorem tokenString_congr : tokenString t = tokenString s := by
  funext a e
  unfold tokenString
  rw [natAt_of_bytesAt h, h]

/-- An encode depends on the bytes of memory alone. -/
theorem encodeText_congr : encodeText t = encodeText s := by
  have hpieces : piecesOf t = piecesOf s := by
    funext a
    unfold piecesOf
    rw [natAt_of_bytesAt h, tokenEntry_congr h, tokenString_congr h]
  funext a e text
  unfold encodeText
  rw [natAt_of_bytesAt h, hpieces]

/-- A decode depends on the bytes of memory alone. -/
theorem decodeTokens_congr : decodeTokens t = decodeTokens s := by
  have htoken : tokenBytes t = tokenBytes s := by
    funext a skip k
    unfold tokenBytes
    rw [natAt_of_bytesAt h, tokenEntry_congr h, tokenString_congr h]
  funext a skip cont ts
  unfold decodeTokens
  rw [natAt_of_bytesAt h, htoken]

end reads

/-- A command that has read a range finds the bytes of memory as they were. -/
theorem bytesAt_read (s : State) (j : Job) (a n : Nat) : bytesAt (touchRange (acting s j) a n) = bytesAt s :=
  bytesAt_congr (touchRange_dev (acting s j) a n) (touchRange_comp (acting s j) a n)

theorem quiet_read (s : State) (j : Job) (a n id c : Nat) : Quiet s (touchRange (acting s j) a n) id c :=
  (quiet_acting s j id c).trans (quiet_touchRange _ _ _ _ _)

theorem runsNow_read {s : State} {id op : Nat} {src : State → Job → List (Nat × Nat)} {j : Job}
    (h : runsNow s id op src j = true) (a n : Nat) : tabGet (touchRange (acting s j) a n).jobs id = some j := by
  rw [jobs_touchRange]
  exact runsNow_acting h

/-! ### LACE_ENCODE -/

/-- A delivery that is not held is not noted. -/
theorem noteHold_free {s : State} {id : Nat} {j : Job} (hj : tabGet s.jobs id = some j)
    (h : j.work = [] ∨ laPocket j.entry = false ∨ (ctxOf s j.ctx).state = .running) : noteHold s id = s := by
  unfold noteHold
  rw [hj]
  dsimp only
  split
  · next rest hw =>
    refine if_neg ?_
    rcases h with h | h | h
    · rw [hw] at h; cases h
    · simp [h]
    · simp [h]
  · rfl

theorem exec_laceEncode {s X : State} {id : Nat} {j : Job} (h : runsNow s id Op.LACE_ENCODE laceEncodeSources j = true)
    (hfree : j.work = [] ∨ laPocket j.entry = false ∨ (ctxOf s j.ctx).state = .running)
    (e : laceEncodeBody (acting s j) id j = X) : exec (.laceEncode id) s = .next (unacted X) := by
  show Host.Outcome.next (runJob (noteHold s id) id Op.LACE_ENCODE laceEncodeSources laceEncodeBody) = _
  rw [noteHold_free (runsNow_job h) hfree]
  exact runJob_next h e

/-- A command whose text is segmented: the counts and the output bytes stand as its progress. -/
def segmented (e : Nat) (r : List (Nat × Nat) × Nat × Nat) (j : Job) : Job :=
  { j with phase := .running, work := 1 :: r.1.length :: r.2.1 :: r.2.2 :: encodeBytes e (r.1.take (laCapacity e)) }

theorem exec_laceEncode_segments {s : State} {id : Nat} {j : Job} {x : Vocab}
    (h : runsNow s id Op.LACE_ENCODE laceEncodeSources j = true) (hx : tabGet s.vocabs (laVocab j.entry) = some x)
    (hw : j.work = []) (hgood : readBad s (laSrc j.entry) (laLength j.entry) = false) :
    exec (.laceEncode id) s = .next (unacted (updJob (touchRange (acting s j) (laSrc j.entry) (laLength j.entry)) id
      (segmented j.entry (encodeText s x.addr j.entry (bytesAt s (laSrc j.entry) (laLength j.entry)))))) := by
  have hread : ¬readBad (acting s j) (laSrc j.entry) (laLength j.entry) = true := Bool.eq_false_iff.1 hgood
  rw [← encodeText_congr (bytesAt_read s j (laSrc j.entry) (laLength j.entry))]
  refine exec_laceEncode h (.inl hw) ?_
  unfold laceEncodeBody
  rw [hw]
  dsimp only
  rw [show tabGet (acting s j).vocabs (laVocab j.entry) = some x from hx]
  exact if_neg hread

/-- The counters that the end of an encode brings up to date. -/
def encodeCounted (s : State) (id n fallbacks : Nat) (truncated : Bool) : State :=
  let s1 := bump (bump (bump s Key.LACE_ENCODE_CALLS 1) Key.LACE_ENCODE_BYTES n) Key.LACE_FALLBACK_TOKENS fallbacks
  let s2 := if truncated then bump s1 Key.LACE_TRUNCATIONS 1 else s1
  match tabGet s2.jobs id with
  | some j => tallyJob s2 j 0x20E n
  | none => s2

theorem still_encodeCounted (s : State) (id n fallbacks : Nat) (truncated : Bool) :
    Still s (encodeCounted s id n fallbacks truncated) := by
  have hcalls := ((still_bump s 1 (k := Key.LACE_ENCODE_CALLS) (by decide) (by decide)).trans
    (still_bump _ n (k := Key.LACE_ENCODE_BYTES) (by decide) (by decide))).trans
    (still_bump _ fallbacks (k := Key.LACE_FALLBACK_TOKENS) (by decide) (by decide))
  have htally (u : State) : Still u (match tabGet u.jobs id with
      | some j => tallyJob u j 0x20E n
      | none => u) := by
    split
    · exact still_of_side (side_tallyJob _ _ _ _)
    · exact .refl u
  unfold encodeCounted
  dsimp only
  refine Still.trans ?_ (htally _)
  cases truncated
  · exact hcalls
  · exact hcalls.trans (still_bump _ 1 (by decide) (by decide))

theorem encodeDone_eq (s : State) (id total n fallbacks cap : Nat) :
    encodeDone s id total n fallbacks (decide (cap < total)) =
      finish (encodeCounted s id n fallbacks (decide (cap < total))) id
        (if cap < total then Code.OK_TRUNCATED else Code.OK) (n * 2 ^ 32 + total) := by
  by_cases hcut : cap < total
  · rw [if_pos hcut, decide_eq_true hcut]
    rfl
  · rw [if_neg hcut, decide_eq_false hcut]
    rfl

/-- An encode that delivers to memory ends with its tokens there. -/
theorem exec_laceEncode_memory {s u : State} {id m total n fb : Nat} {bs : List Nat} {j : Job}
    (h : runsNow s id Op.LACE_ENCODE laceEncodeSources j = true) (hw : j.work = m :: total :: n :: fb :: bs)
    (hb : ∀ b ∈ bs, b < 256) (hp : laPocket j.entry = false)
    (hu : prepareWrite (acting s j) (laDest j.entry) bs.length = .ready u) :
    ∃ t, exec (.laceEncode id) s = .next t ∧ EndsWith s t id j (laDest j.entry) bs
      (if laCapacity j.entry < total then Code.OK_TRUNCATED else Code.OK) (n * 2 ^ 32 + total) := by
  refine ⟨_, exec_laceEncode h (.inr (.inl hp)) ?_, (endsWith_withWrite
    (fun x => encodeCounted x id n fb (decide (laCapacity j.entry < total))) rfl hb (quiet_acting s j id j.ctx) hu
    (runsNow_acting h) (fun x => ?_)).unacted⟩
  · unfold laceEncodeBody
    rw [hw]
    dsimp only
    rw [if_neg (by rw [hp]; exact Bool.false_ne_true)]
    exact congrArg _ (funext fun x => encodeDone_eq _ id total n fb (laCapacity j.entry))
  · have hstill := still_encodeCounted x id n fb (decide (laCapacity j.entry < total))
    exact ⟨hstill.quiet _ _, hstill.calm.jobs, by rw [hstill.calm.mem], by rw [hstill.calm.mem]⟩

/-! ### Deliveries into a Pocket -/

/-- The slots that a delivery of bytes writes. -/
def laceSlots (s : State) (j : Job) (bs : List Nat) : List (Nat × Nat) :=
  slotsOf (ctxOf s j.ctx) (laVb j.entry) (laRow j.entry) (if bs = [] then 0 else (bs.length - 1) / 256 + 1)

/-- Bytes delivered into a Pocket, with what strays counted. -/
def laceDelivered (s : State) (j : Job) (bs : List Nat) : State :=
  lbWrite (countStrays s (ctxOf s j.ctx) (laVb j.entry) portBelt (laRow j.entry)
    (if bs = [] then 0 else (bs.length - 1) / 256 + 1)) (ctxOf s j.ctx) (laVb j.entry) (laRow j.entry) 0 bs

theorem calm_laceDelivered (s : State) (j : Job) (bs : List Nat) : Calm s (laceDelivered s j bs) :=
  (still_countStrays s _ _ _ _ (by decide)).calm.trans (pocketWork_lbWrite _ _ _ _ _ _).calm

/-- The delivered bytes stand in the Pocket, and no other byte of it differs. -/
theorem laceDelivered_pocket {s : State} {j : Job} {bs : List Nat} {b : Nat} (hb : ∀ x ∈ bs, x < 256)
    (hphys : physBlock (ctxOf s j.ctx) (laVb j.entry) = some b) :
    pocketRead (laceDelivered s j bs) b (laRow j.entry) 0 bs.length = bs ∧
      ∀ k, k < pocketAddr b (laRow j.entry) 0 ∨ pocketAddr b (laRow j.entry) 0 + bs.length ≤ k →
        memByte (laceDelivered s j bs).pocket k = memByte s.pocket k := by
  refine ⟨pocketRead_lbWrite _ _ _ _ hphys hb, fun k hk => ?_⟩
  unfold laceDelivered lbWrite
  rw [hphys]
  refine (memByte_memWrite_out _ _ _ hk).trans ?_
  rw [(still_countStrays s (ctxOf s j.ctx) (laVb j.entry) (laRow j.entry) _ (port := portBelt) (by decide)).pocket]

/-- A delivery made: its slots are FULL, and the command no longer stalls. -/
def laceRetired (s : State) (id : Nat) (j : Job) (bs : List Nat) : State :=
  updCtx (updJob (laceDelivered s j bs) id (fun j => { j with stalled := [] })) j.ctx
    (fun y => retireSlots y [] (laceSlots s j bs))

theorem deliverRows_claimed {s : State} {id : Nat} {j : Job} {bs : List Nat} (go : State → State)
    (h : claimable (ctxOf s j.ctx) [] (laceSlots s j bs) = true) :
    deliverRows s id j.ctx (laVb j.entry) (laRow j.entry) 0 bs go = go (laceRetired s id j bs) := by
  have hrows : (if bs.isEmpty = true then 0 else (0 + bs.length - 1) / 256 + 1) =
      if bs = [] then 0 else (bs.length - 1) / 256 + 1 := by simp only [List.isEmpty_iff, Nat.zero_add]
  unfold deliverRows
  dsimp only
  rw [hrows]
  exact if_pos h

theorem laceRetired_job {s : State} {id : Nat} {j : Job} (bs : List Nat) (hj : tabGet s.jobs id = some j) :
    tabGet (laceRetired s id j bs).jobs id = some { j with stalled := [] } := by
  unfold laceRetired
  rw [updCtx_jobs, updJob_get, (calm_laceDelivered s j bs).jobs, hj]
  rfl

theorem beside_laceRetired (s : State) (id : Nat) (j : Job) (bs : List Nat) : Beside s (laceRetired s id j bs) id j.ctx :=
  (((calm_laceDelivered s j bs).beside id j.ctx).trans (beside_updJob _ _ _ _)).trans (beside_setCtx _ _ _ _)

/-- An encode that delivers into a Pocket ends with its tokens there. -/
theorem exec_laceEncode_pocket {s : State} {id m total n fb b : Nat} {bs : List Nat} {j : Job}
    (h : runsNow s id Op.LACE_ENCODE laceEncodeSources j = true) (hw : j.work = m :: total :: n :: fb :: bs)
    (hb : ∀ b ∈ bs, b < 256) (hp : laPocket j.entry = true) (hrun : (ctxOf s j.ctx).state = .running)
    (hphys : physBlock (ctxOf s j.ctx) (laVb j.entry) = some b)
    (hclaim : claimable (ctxOf s j.ctx) [] (laceSlots s j bs) = true) :
    ∃ t, exec (.laceEncode id) s = .next t ∧
      ends t id (if laCapacity j.entry < total then Code.OK_TRUNCATED else Code.OK) (n * 2 ^ 32 + total) ∧
      pocketRead t b (laRow j.entry) 0 bs.length = bs ∧
      (∀ k, k < pocketAddr b (laRow j.entry) 0 ∨ pocketAddr b (laRow j.entry) 0 + bs.length ≤ k →
        memByte t.pocket k = memByte s.pocket k) ∧
      t.mem = s.mem ∧ Beside s t id j.ctx ∧ t.indexes = s.indexes ∧ t.vocabs = s.vocabs := by
  have hcalm := calm_laceDelivered (acting s j) j bs
  have hcount := still_encodeCounted (laceRetired (acting s j) id j bs) id n fb (decide (laCapacity j.entry < total))
  have hj := (congrArg (tabGet · id) hcount.calm.jobs).trans (laceRetired_job bs (runsNow_acting h))
  have hbeside := ((quiet_acting s j id j.ctx).beside.trans (beside_laceRetired (acting s j) id j bs)).trans
    (hcount.calm.beside id j.ctx)
  obtain ⟨hin, hout⟩ := laceDelivered_pocket (s := acting s j) hb hphys
  refine ⟨_, exec_laceEncode h (.inr (.inr hrun)) ?_, ends_end (t := encodeCounted (laceRetired (acting s j) id j bs) id n fb
    (decide (laCapacity j.entry < total))) _ _ hj, ?_, fun k hk => ?_, ?_,
    beside_end (j := { j with stalled := [] }) hbeside hj, ?_, ?_⟩
  · unfold laceEncodeBody
    rw [hw]
    dsimp only
    rw [if_pos hp, deliverRows_claimed (s := acting s j) _ hclaim]
    exact encodeDone_eq _ _ _ _ _ _
  · refine (pocketRead_congr ?_ _ _ _ _).trans hin
    rw [unacted_pocket, finish_pocket, hcount.pocket]
    rfl
  · rw [unacted_pocket, finish_pocket, hcount.pocket]
    exact hout k hk
  · rw [unacted_mem, finish_mem, hcount.calm.mem]
    exact hcalm.mem
  · rw [unacted_indexes, finish_indexes, hcount.calm.indexes]
    exact hcalm.indexes
  · rw [unacted_vocabs, finish_vocabs, hcount.calm.vocabs]
    exact hcalm.vocabs

/-! ### LACE_DECODE -/

theorem tokenBytes_lt (s : State) (a : Nat) (skip : Bool) (t : Nat) : ∀ b ∈ tokenBytes s a skip t, b < 256 := by
  unfold tokenBytes tokenString
  dsimp only
  split
  · exact bytesAt_lt _ _ _
  · split
    · intro b hb
      rw [List.mem_singleton.1 hb]
      exact Nat.mod_lt _ (by decide)
    · split
      · exact bytesAt_lt _ _ _
      · simp

/-- Unmarking puts spaces for markers and leaves the other bytes. -/
theorem unmark_lt (m : List Nat) (k : Nat) {bs : List Nat} (h : ∀ b ∈ bs, b < 256) : ∀ p ∈ unmark m k bs, p.1 < 256 := by
  induction k generalizing bs with
  | zero => simp [unmark]
  | succ k ih =>
    cases bs with
    | nil => simp [unmark]
    | cons b rest =>
      unfold unmark
      dsimp only
      split
      · intro p hp
        rcases List.mem_cons.1 hp with rfl | hp
        · decide
        · exact ih (fun b hb => h b (List.mem_of_mem_drop hb)) p hp
      · intro p hp
        rcases List.mem_cons.1 hp with rfl | hp
        · exact h b (by simp)
        · exact ih (fun b hb => h b (List.mem_cons_of_mem _ hb)) p hp

/-- What a decode delivers are bytes. -/
theorem decodeTokens_lt (s : State) (a : Nat) (skip cont : Bool) (ts : List Nat) :
    ∀ b ∈ decodeTokens s a skip cont ts, b < 256 := by
  have hraw : ∀ b ∈ (ts.map (tokenBytes s a skip)).flatten, b < 256 := by
    intro b hb
    obtain ⟨l, hl, hb⟩ := List.mem_flatten.1 hb
    obtain ⟨t, -, rfl⟩ := List.mem_map.1 hl
    exact tokenBytes_lt s a skip t b hb
  unfold decodeTokens
  dsimp only
  split
  · exact hraw
  · have hun := unmark_lt (utf8 (voMark (natAt s a 64))) (ts.map (tokenBytes s a skip)).flatten.length hraw
    split
    · simp
    · next p ps hps =>
      rw [hps] at hun
      split
      · intro b hb
        obtain ⟨q, hq, rfl⟩ := List.mem_map.1 hb
        exact hun q (List.mem_cons_of_mem _ hq)
      · intro b hb
        obtain ⟨q, hq, rfl⟩ := List.mem_map.1 hb
        exact hun q hq

/-- The tokens that a decode names. -/
def laTokens (s : State) (e : Nat) : List Nat := (List.range (laCount e)).map (fun i => natAt s (laSrc e + 4 * i) 4)

/-- The first token that the vocabulary lacks is the one before which it lacks none. -/
theorem firstUnknown_some {s : State} {e v i : Nat} (hi : i < laCount e) (hbad : v ≤ natAt s (laSrc e + 4 * i) 4)
    (hgood : ∀ k, k < i → natAt s (laSrc e + 4 * k) 4 < v) :
    (laTokens s e).findIdx? (fun t => decide (v ≤ t)) = some i := by
  refine List.findIdx?_eq_some_iff_getElem.2 ⟨by simpa [laTokens] using hi, by simpa [laTokens] using hbad, fun k hk => ?_⟩
  simpa [laTokens] using hgood k hk

theorem firstUnknown_none {s : State} {e v : Nat} (h : ∀ k, k < laCount e → natAt s (laSrc e + 4 * k) 4 < v) :
    (laTokens s e).findIdx? (fun t => decide (v ≤ t)) = none := by
  refine List.findIdx?_eq_none_iff.2 fun t ht => ?_
  obtain ⟨k, hk, rfl⟩ := List.mem_map.1 ht
  simpa using h k (List.mem_range.1 hk)

/-- The counters that a decode brings up to date. -/
def decodeCounted (s : State) (n : Nat) (truncated : Bool) : State :=
  if truncated then bump (bump (countDecode s n) Key.LACE_DECODE_CALLS 1) Key.LACE_TRUNCATIONS 1
  else bump (countDecode s n) Key.LACE_DECODE_CALLS 1

theorem still_decodeCounted (s : State) (n : Nat) (truncated : Bool) : Still s (decodeCounted s n truncated) := by
  have hfree : Still s (takeFree s).2 := by
    refine ⟨?_, rfl, rfl, rfl, rfl⟩
    constructor
    case settings => exact fun _ _ => rfl
    all_goals rfl
  have hcount : Still s (bump (countDecode s n) Key.LACE_DECODE_CALLS 1) :=
    ((hfree.trans (still_bump _ _ (by decide) (by decide))).trans (still_bump _ _ (by decide) (by decide))).trans
      (still_bump _ _ (by decide) (by decide))
  cases truncated
  · exact hcount
  · exact hcount.trans (still_bump _ _ (by decide) (by decide))

/-- The end of a decode whose output of `len` bytes has room for `cap`. -/
theorem decodeEnd_eq (s : State) (id n cap len : Nat) :
    (if cap < len then finish (bump (bump (countDecode s n) Key.LACE_DECODE_CALLS 1) Key.LACE_TRUNCATIONS 1) id
        Code.OK_TRUNCATED len
      else finish (bump (countDecode s n) Key.LACE_DECODE_CALLS 1) id Code.OK len) =
      finish (decodeCounted s n (decide (cap < len))) id (if cap < len then Code.OK_TRUNCATED else Code.OK) len := by
  by_cases hcut : cap < len
  · rw [if_pos hcut, if_pos hcut, decide_eq_true hcut]
    rfl
  · rw [if_neg hcut, if_neg hcut, decide_eq_false hcut]
    rfl

section decode

variable {s : State} {id : Nat} {j : Job} {x : Vocab} (h : runsNow s id Op.LACE_DECODE laceDecodeSources j = true)
  (hx : tabGet s.vocabs (laVocab j.entry) = some x)
  (hgood : readBad s (laSrc j.entry) (4 * laCount j.entry) = false)

include h hx hgood

/-- A decode ends at the first token that the vocabulary lacks, and does nothing else. -/
theorem exec_laceDecode_unknown {i : Nat}
    (hfind : (laTokens s j.entry).findIdx? (fun t => decide (voTokens (natAt s x.addr 64) ≤ t)) = some i) :
    ∃ t, exec (.laceDecode id) s = .next t ∧ EndsOnly s t id j Code.TOKEN_INVALID i := by
  have hread : ¬readBad (acting s j) (laSrc j.entry) (4 * laCount j.entry) = true := Bool.eq_false_iff.1 hgood
  refine ⟨_, runJob_next h ?_, (endsOnly_finish _ _ (quiet_read s j (laSrc j.entry) (4 * laCount j.entry) id j.ctx)
    (runsNow_read h _ _)).unacted⟩
  unfold laTokens at hfind
  unfold laceDecodeBody withRead
  dsimp only
  rw [show tabGet (acting s j).vocabs (laVocab j.entry) = some x from hx]
  dsimp only
  rw [if_neg hread, natAt_of_bytesAt (bytesAt_read s j (laSrc j.entry) (4 * laCount j.entry)), hfind]

/-- A decode of known tokens writes their bytes as far as they fit. -/
theorem exec_laceDecode_known {u : State} {bs : List Nat}
    (hfind : (laTokens s j.entry).findIdx? (fun t => decide (voTokens (natAt s x.addr 64) ≤ t)) = none)
    (himage : readBad (touchRange (acting s j) (laSrc j.entry) (4 * laCount j.entry)) x.addr
      (voBytes (natAt s x.addr 64)) = false)
    (hbs : bs = decodeTokens s x.addr (laSkip j.entry) (laContinue j.entry) (laTokens s j.entry))
    (hu : prepareWrite (touchRange (acting s j) (laSrc j.entry) (4 * laCount j.entry)) (laDest j.entry)
      (bs.take (laCapacity j.entry)).length = .ready u) :
    ∃ t, exec (.laceDecode id) s = .next t ∧ EndsWith s t id j (laDest j.entry) (bs.take (laCapacity j.entry))
      (if laCapacity j.entry < bs.length then Code.OK_TRUNCATED else Code.OK) bs.length := by
  have hread : ¬readBad (acting s j) (laSrc j.entry) (4 * laCount j.entry) = true := Bool.eq_false_iff.1 hgood
  have hbytes : ∀ b ∈ bs.take (laCapacity j.entry), b < 256 := by
    intro b hb
    rw [hbs] at hb
    exact decodeTokens_lt _ _ _ _ _ b (List.mem_of_mem_take hb)
  have hsame := bytesAt_read s j (laSrc j.entry) (4 * laCount j.entry)
  refine ⟨_, runJob_next h ?_, (endsWith_withWrite
    (fun t => decodeCounted t (laTokens s j.entry).length (decide (laCapacity j.entry < bs.length))) rfl hbytes
    (quiet_read s j _ _ id j.ctx) hu (runsNow_read h _ _) (fun t => ?_)).unacted⟩
  · unfold laTokens at hfind hbs
    unfold laceDecodeBody withRead
    dsimp only
    rw [show tabGet (acting s j).vocabs (laVocab j.entry) = some x from hx]
    dsimp only
    rw [if_neg hread, natAt_of_bytesAt hsame, decodeTokens_congr hsame, hfind, ← hbs]
    dsimp only
    rw [if_neg (Bool.eq_false_iff.1 himage)]
    exact congrArg _ (funext fun t => decodeEnd_eq _ id _ (laCapacity j.entry) bs.length)
  · have hstill := still_decodeCounted t (laTokens s j.entry).length (decide (laCapacity j.entry < bs.length))
    exact ⟨hstill.quiet _ _, hstill.calm.jobs, by rw [hstill.calm.mem], by rw [hstill.calm.mem]⟩

end decode

/-! ### The statement -/

/-- Settles O49: each command's next state is written out; a load and an unload leave a new table of vocabularies, an encode and
a decode read what they read of the bytes of memory alone, and end with their output written. -/
theorem textAndVocabularies : Obligations.TextAndVocabularies := by
  unfold Obligations.TextAndVocabularies
  refine ⟨?load, ?unload, ?segment, ?deliver, ?decode⟩
  case load =>
    intro s id j h
    refine ⟨fun hknown => ⟨_, exec_laceVocabLoad_known h hknown, ends_at_once h _ _⟩, fun hnew hhead himage => ?_⟩
    have hexec := exec_laceVocabLoad_readable h hnew hhead himage
    refine ⟨fun hok => ?_, fun hbad => ?_⟩
    · obtain ⟨t, w, hload⟩ := loadChecked_ok (s := acting s j) (id := id) hok
      obtain ⟨hends, hvocabs, hrest⟩ := newVocabs_end h w Code.OK 0
      rw [hload] at hexec
      refine ⟨_, hexec, hends, fun v => ?_, hrest⟩
      rw [hvocabs]
      exact tabGet_tabSet _ _ _ _
    · rw [loadChecked_bad (s := acting s j) hbad] at hexec
      exact ⟨_, hexec, ends_at_once h _ _⟩
  case unload =>
    intro s id j h
    refine ⟨fun hnone => ⟨_, exec_laceVocabUnload_unknown h hnone, ends_at_once h _ _⟩, fun x hx hc =>
      ⟨exec_laceVocabUnload_pinned h hx hc, fun hfree => ?_⟩⟩
    have w := (newVocabs_set (acting s j) (tabDel s.vocabs (laVocab j.entry)) id j.ctx).quiet (quiet_reportVocabs _ _ _) rfl
    obtain ⟨hends, hvocabs, -, hbeside, hindexes, hmodels⟩ := newVocabs_end h w Code.OK 0
    refine ⟨_, exec_laceVocabUnload_free h hx hc hfree, hends, fun v => ?_, ?_, hbeside, hindexes, hmodels⟩
    · rw [hvocabs]
      split
      · next hv => exact hv ▸ tabGet_tabDel_self _ _
      · next hv => exact tabGet_tabDel_ne _ hv
    · rw [unacted_mem, finish_mem]
      rfl
  case segment =>
    intro s id j x r h hx hw hgood hr
    have hquiet := ((quiet_read s j (laSrc j.entry) (laLength j.entry) id j.ctx).trans (quiet_updJob _ _ _
      (segmented j.entry r))).trans (quiet_unacted _ _ _)
    subst hr
    refine ⟨_, exec_laceEncode_segments h hx hw hgood, ?_, hquiet.bytes, hquiet.beside, hquiet.holdings, hquiet.indexes⟩
    rw [unacted_jobs, updJob_get, runsNow_read h]
    rfl
  case deliver =>
    intro s id m total n fb bs j h hw hb
    refine ⟨fun u hp hu => ?_, fun b hp hrun hphys hclaim => exec_laceEncode_pocket h hw hb hp hrun hphys hclaim⟩
    obtain ⟨t, hexec, hends, hin, hout, hbeside, hholdings, hindexes⟩ := exec_laceEncode_memory h hw hb hp hu
    exact ⟨t, hexec, hends, hin, hout, hbeside, hholdings, hindexes⟩
  case decode =>
    intro s id j x h hx hgood
    refine ⟨fun i hi hbad hknown => ?_, fun u bs hknown himage hbs hu => ?_⟩
    · obtain ⟨t, hexec, hends, hquiet⟩ := exec_laceDecode_unknown h hx hgood (firstUnknown_some hi hbad hknown)
      exact ⟨t, hexec, hends, hquiet.bytes, hquiet.beside, hquiet.holdings, hquiet.indexes⟩
    · obtain ⟨t, hexec, hends, hin, hout, hbeside, hholdings, hindexes⟩ :=
        exec_laceDecode_known h hx hgood (firstUnknown_none hknown) himage hbs hu
      exact ⟨t, hexec, hends, hin, hout, hbeside, hholdings, hindexes⟩

end Sys2Proof.Machine

/-! SUPPORT. Selection and the Zipper (chapter 11): the shape of a selection's result, a row of a TOPK that is read and
written, and the ends of a MERGE. -/

namespace Sys2Proof.Machine

/-! ### The result (R239, R240) -/

/-- A concatenation of encodings of one size. -/
theorem length_flatten_leBytes {α : Type} (n : Nat) (f : α → Nat) (l : List α) :
    (l.map (fun x => leBytes n (f x))).flatten.length = n * l.length := by
  induction l with
  | nil => rfl
  | cons x l ih =>
    rw [List.map_cons, List.flatten_cons, List.length_append, leBytes_length, ih, List.length_cons, Nat.mul_succ,
      Nat.add_comm]

section result

variable (vfmt : Nat) (asc : Bool) (k : Nat) (ranked : List Sel) (c : Carried)

theorem selResult_length : (selResult vfmt asc k ranked c).1.length = 192 + 16 * k := by
  have hempty : (List.replicate (k - (ranked.take k).length) (leBytes 16 emptyEntry)).flatten.length =
      16 * (k - (ranked.take k).length) := by
    have h := length_flatten_leBytes 16 (fun v => v) (List.replicate (k - (ranked.take k).length) emptyEntry)
    rwa [List.map_replicate, List.length_replicate] at h
  have hroom : (ranked.take k).length ≤ k := List.length_take_le _ _
  unfold selResult
  dsimp only
  rw [List.length_append, List.length_append, leBytes_length, length_flatten_leBytes, hempty]
  omega

theorem selResult_lt : ∀ b ∈ (selResult vfmt asc k ranked c).1, b < 256 := by
  unfold selResult
  intro b hb
  rcases List.mem_append.1 hb with hb | hb
  · rcases List.mem_append.1 hb with hb | hb
    · exact leBytes_lt _ _ b hb
    · obtain ⟨l, hl, hb⟩ := List.mem_flatten.1 hb
      obtain ⟨e, -, rfl⟩ := List.mem_map.1 hl
      exact leBytes_lt _ _ b hb
  · obtain ⟨l, hl, hb⟩ := List.mem_flatten.1 hb
    rw [List.eq_of_mem_replicate hl] at hb
    exact leBytes_lt _ _ b hb

end result

theorem length_insertBy {α : Type} (before : α → α → Bool) (a : α) (l : List α) :
    (insertBy before a l).length = l.length + 1 := by
  induction l with
  | nil => rfl
  | cons b l ih =>
    unfold insertBy
    split
    · rw [List.length_cons, ih, List.length_cons]
    · rfl

theorem length_sortBy {α : Type} (before : α → α → Bool) (l : List α) : (sortBy before l).length = l.length := by
  induction l with
  | nil => rfl
  | cons a l ih => exact (length_insertBy before a _).trans (congrArg (· + 1) ih)

theorem selectRow_length (e : Nat) (bs : List Nat) : (selectRow e bs).1.length = 192 + 16 * tkK e :=
  selResult_length _ _ _ _ _

theorem selectRow_lt (e : Nat) (bs : List Nat) : ∀ b ∈ (selectRow e bs).1, b < 256 := selResult_lt _ _ _ _ _

theorem selectRow_valid_le (e : Nat) (bs : List Nat) : (selectRow e bs).2.1 ≤ tkK e := List.length_take_le _ _

/-- The entries of a row's values. -/
def rowEntries (e : Nat) (bs : List Nat) : List Sel :=
  (List.range (tkN e)).map (fun i =>
    { key := tkBase e + i, value := selValue (tkVfmt e) (ofLeBytes ((bs.drop (tkWidth e * i)).take (tkWidth e))) })

theorem selectRow_nans (e : Nat) (bs : List Nat) :
    (selectRow e bs).2.2 = (rowEntries e bs).length - ((rowEntries e bs).filter (fun x => !x.value.isNan)).length := rfl

theorem selectRow_valid (e : Nat) (bs : List Nat) :
    (selectRow e bs).2.1 = min (tkK e) ((rowEntries e bs).filter (fun x => !x.value.isNan)).length :=
  List.length_take.trans (congrArg (min (tkK e)) (length_sortBy _ _))

/-- Of a row's N values those selected and the NaNs are different ones. -/
theorem selectRow_counts_le (e : Nat) (bs : List Nat) : (selectRow e bs).2.1 + (selectRow e bs).2.2 ≤ tkN e := by
  have hgood := List.length_filter_le (fun x : Sel => !x.value.isNan) (rowEntries e bs)
  have hall : (rowEntries e bs).length = tkN e := by simp [rowEntries]
  rw [selectRow_valid, selectRow_nans]
  omega

/-! ### A command's output written -/

@[simp] theorem notePosted_regs (s : State) (id a n : Nat) : (notePosted s id a n).regs = s.regs := by
  unfold notePosted
  split <;> rfl

theorem notePosted_mem (s : State) (id a n : Nat) : (notePosted s id a n).mem = s.mem := by
  unfold notePosted
  split <;> rfl

/-- A command has written its output: these bytes from an address on, and no other byte. -/
structure Written (s t : State) (id c a : Nat) (bs : List Nat) : Prop where
  written : bytesAt t a bs.length = bs
  outside : ∀ k, k < a ∨ a + bs.length ≤ k → byteAt t k = byteAt s k
  beside : Beside s t id c
  holdings : HoldingsKept s t
  indexes : t.indexes = s.indexes

theorem Written.quiet {s t u : State} {id c a : Nat} {bs : List Nat} (h : Written s t id c a bs) (q : Quiet t u id c)
    (hmem : u.mem = t.mem) : Written s u id c a bs where
  written := (congrFun (congrFun (bytesAt_congr (by rw [hmem]) (by rw [hmem])) a) bs.length).trans h.written
  outside k hk := (q.bytes k).trans (h.outside k hk)
  beside := h.beside.trans q.beside
  holdings := h.holdings.trans q.holdings
  indexes := q.indexes.trans h.indexes

theorem Written.of_quiet {s t u : State} {id c a : Nat} {bs : List Nat} (q : Quiet s t id c) (h : Written t u id c a bs) :
    Written s u id c a bs where
  written := h.written
  outside k hk := (h.outside k hk).trans (q.bytes k)
  beside := q.beside.trans h.beside
  holdings := q.holdings.trans h.holdings
  indexes := h.indexes.trans q.indexes

theorem written_writeBytes (s : State) (id c a : Nat) {bs : List Nat} (hb : ∀ b ∈ bs, b < 256) :
    Written s (writeBytes s a bs) id c a bs where
  written := bytesAt_writeBytes s a bs hb
  outside _ hk := byteAt_writeBytes s a bs hk
  beside := beside_stored (stored_writeBytes s a bs) id c
  holdings := holdings_stored (stored_writeBytes s a bs)
  indexes := (stored_writeBytes s a bs).side.indexes

/-- Quiet work before a command's write, and quiet counting behind it, leave the output as written. -/
theorem written_withWrite {s t u : State} {id a c : Nat} {bs : List Nat} (f : State → State) (hb : ∀ b ∈ bs, b < 256)
    (q : Quiet s t id c) (hp : prepareWrite t a bs.length = .ready u)
    (hf : ∀ x, Quiet x (f x) id c ∧ (f x).mem = x.mem) :
    Written s (unacted (withWrite t id a bs.length (fun x => f (writeBytes x a bs)))) id c a bs := by
  obtain ⟨hquiet, hmem⟩ := hf (writeBytes u a bs)
  unfold withWrite
  rw [hp]
  exact .of_quiet (q.trans (quiet_units (prepareWrite_ready hp) id c)) <| (written_writeBytes u id c a hb).quiet
    ((hquiet.trans (quiet_notePosted _ id a bs.length id c)).trans (quiet_unacted _ id c))
    ((notePosted_mem _ id a bs.length).trans hmem)

/-- How a command ends depends of it on its context alone. -/
theorem EndsWith.of_ctx {s t : State} {id a st r : Nat} {x j : Job} {bs : List Nat} (hctx : x.ctx = j.ctx)
    (h : EndsWith s t id x a bs st r) : EndsWith s t id j a bs st r :=
  ⟨h.ended, h.written, h.outside, hctx ▸ h.beside, h.holdings, h.indexes⟩

/-- A counter that a command advances once as it writes its output and ends. -/
theorem reg_written_end {s t u : State} {id a n st r k : Nat} {bs : List Nat} (f : State → State) (hk : sideKey k = false)
    (hp : prepareWrite t a n = .ready u) (ht : reg t k = reg s k) (hf : ∀ x, reg (f x) k = reg (bump x k 1) k) :
    reg (unacted (withWrite t id a n (fun x => finish (f (writeBytes x a bs)) id st r))) k = reg (bump s k 1) k := by
  unfold withWrite
  rw [hp]
  calc reg (unacted (notePosted (finish (f (writeBytes u a bs)) id st r) id a n)) k
      = reg (finish (f (writeBytes u a bs)) id st r) k := reg_congr (by simp) k
    _ = reg (bump (writeBytes u a bs) k 1) k := (reg_finish _ _ _ _ _).trans (hf _)
    _ = reg (bump s k 1) k := reg_bump_congr 1 ((reg_writeBytes u a bs hk).trans
        (((recorded_units (prepareWrite_ready hp)).reg hk).trans ht))

/-! ### TOPK: a row is read (R242, R243) -/

theorem reg_countStray {k : Nat} (hside : sideKey k = false) (hport : k ≠ Key.POCKET_STRAYS portBelt) (s : State) (x : Ctx)
    (lb row : Nat) : reg (countStray s x lb portBelt row) k = reg s k := by
  unfold countStray
  split
  · dsimp only
    split
    · exact ((side_countBlock ..).regs k hside).trans (reg_bump_ne s 1 hport)
    · exact reg_bump_ne s 1 hport
  · rfl

theorem reg_countStrays {k : Nat} (hside : sideKey k = false) (hport : k ≠ Key.POCKET_STRAYS portBelt) (s : State) (x : Ctx)
    (lb row rows : Nat) : reg (countStrays s x lb portBelt row rows) k = reg s k := by
  unfold countStrays
  generalize List.range rows = l
  induction l generalizing s with
  | nil => rfl
  | cons i l ih => exact (ih _).trans (reg_countStray hside hport s x lb (row + i))

theorem lbRead_congr {s t : State} (h : t.pocket = s.pocket) (x : Ctx) (lb row byte n : Nat) :
    lbRead t x lb row byte n = lbRead s x lb row byte n := by
  unfold lbRead pocketRead
  rw [h]

/-- A row that is read leaves memory and all that is held, the command's operands and the count of commands. -/
theorem topkRead_keeps {s u : State} {id row : Nat} {j : Job} {bs : List Nat} (h : topkRead s id j row u bs)
    (hj : tabGet s.jobs id = some j) :
    Quiet s u id j.ctx ∧ (∃ x, tabGet u.jobs id = some x ∧ x.entry = j.entry ∧ x.ctx = j.ctx) ∧
      reg u Key.SELECT_COMMANDS = reg s Key.SELECT_COMMANDS := by
  unfold topkRead at h
  split at h
  · obtain ⟨-, -, rfl⟩ := h
    refine ⟨((quiet_countStrays _ _ _ _ _ _ _).trans (quiet_updJob _ _ _ _)).trans (quiet_updCtx _ _ _ _),
      ⟨{ j with stalled := [] }, ?_, rfl, rfl⟩, ?_⟩
    · rw [updCtx_jobs, updJob_get, (countStrays_frame _ _ _ _ _).2.1, hj]
      rfl
    · exact (reg_congr (by rw [updCtx_regs]; rfl) _).trans (reg_countStrays (by decide) (by decide) _ _ _ _ _)
  · obtain ⟨-, -, rfl⟩ := h
    exact ⟨quiet_touchRange _ _ _ _ _, ⟨j, (congrArg (tabGet · id) (jobs_touchRange _ _ _)).trans hj, rfl, rfl⟩,
      reg_touchRange _ _ _ (by decide)⟩

theorem topkBody_read {s u : State} {id : Nat} {j : Job} {bs : List Nat}
    (h : topkRead s id j (j.work[0]?.getD 0) u bs) :
    topkBody s id j = topkRow u id j.entry (j.work[0]?.getD 0) (j.work[1]?.getD 0) bs := by
  unfold topkRead at h
  unfold topkBody
  dsimp only
  split at h
  · next hpocket =>
    obtain ⟨hclaim, rfl, rfl⟩ := h
    rw [if_pos hpocket]
    unfold topkSlots at hclaim
    exact (if_pos hclaim).trans (congrArg (topkRow _ id _ _ _) (lbRead_congr (still_countStrays _ _ _ _ _ (by decide)).pocket
      _ _ _ _ _))
  · next hmemory =>
    obtain ⟨hgood, rfl, rfl⟩ := h
    rw [if_neg hmemory, if_neg (Bool.eq_false_iff.1 hgood)]

/-! ### TOPK: a row is written (R244) -/

/-- The place of a row's result. -/
def rowPlace (e row : Nat) : Nat := tkDest e + row * selStride (tkK e)

/-- The short rows of a TOPK, once a row of these values is among them. -/
def shortRows (e short : Nat) (bs : List Nat) : Nat := short + if (selectRow e bs).2.1 < tkK e then 1 else 0

theorem shortRows_eq_zero (e short : Nat) (bs : List Nat) :
    shortRows e short bs = 0 ↔ short = 0 ∧ tkK e ≤ (selectRow e bs).2.1 := by
  unfold shortRows
  split <;> omega

/-- The counters that every row of a TOPK brings up to date. -/
def rowCounted (e short : Nat) (bs : List Nat) (s : State) : State :=
  bump (bump (bump s Key.SELECT_VALUES (tkN e * Nat.max 1 (ceilDiv (tkK e) 64))) Key.SELECT_NANS (selectRow e bs).2.2)
    Key.SELECT_SHORT_ROWS (shortRows e short bs - short)

theorem rowCounted_jobs (e short : Nat) (bs : List Nat) (s : State) : (rowCounted e short bs s).jobs = s.jobs := rfl

theorem quiet_rowCounted (e short : Nat) (bs : List Nat) (s : State) (id c : Nat) : Quiet s (rowCounted e short bs s) id c :=
  ((quiet_bump _ _ _ _ _ (by decide)).trans (quiet_bump _ _ _ _ _ (by decide))).trans (quiet_bump _ _ _ _ _ (by decide))

theorem reg_rowCounted (e short : Nat) (bs : List Nat) (s : State) :
    reg (rowCounted e short bs s) Key.SELECT_COMMANDS = reg s Key.SELECT_COMMANDS := by
  unfold rowCounted
  rw [reg_bump_ne _ _ (by decide), reg_bump_ne _ _ (by decide), reg_bump_ne _ _ (by decide)]

/-- A TOPK goes on with the row after one. -/
def nextRow (row shorts : Nat) (j : Job) : Job := { j with phase := .running, work := [row + 1, shorts] }

section row

variable (s : State) (id e row short : Nat) (bs : List Nat)

theorem topkRow_going (h : row + 1 < tkRows e) :
    topkRow s id e row short bs = withWrite s id (rowPlace e row) (selectRow e bs).1.length (fun x =>
      updJob (rowCounted e short bs (writeBytes x (rowPlace e row) (selectRow e bs).1)) id
        (nextRow row (shortRows e short bs))) :=
  congrArg (withWrite _ _ _ _) (funext fun _ => if_pos h)

theorem topkRow_last (h : tkRows e ≤ row + 1) :
    topkRow s id e row short bs = withWrite s id (rowPlace e row) (selectRow e bs).1.length (fun x =>
      finish (bump (rowCounted e short bs (writeBytes x (rowPlace e row) (selectRow e bs).1)) Key.SELECT_COMMANDS 1) id
        (if shortRows e short bs == 0 then Code.OK else Code.OK_SHORT) (shortRows e short bs * 2 ^ 32 + tkRows e)) :=
  congrArg (withWrite _ _ _ _) (funext fun _ => if_neg (Nat.not_lt.2 h))

end row

section topk

variable {s u v : State} {id row short : Nat} {j : Job} {bs : List Nat} (h : runsNow s id Op.TOPK topkSources j = true)
  (hrow : row = j.work[0]?.getD 0) (hshort : short = j.work[1]?.getD 0) (hread : topkRead (acting s j) id j row u bs)
  (hv : prepareWrite u (rowPlace j.entry row) (selectRow j.entry bs).1.length = .ready v)

include h hrow hshort hread

theorem exec_topk_row : exec (.topk id) s = .next (unacted (topkRow u id j.entry row short bs)) := by
  subst hrow hshort
  exact runJob_next h (topkBody_read hread)

include hv

/-- A row that is not the last is written, and the command goes on with the next. -/
theorem exec_topk_going (hmore : row + 1 < tkRows j.entry) :
    ∃ t, exec (.topk id) s = .next t ∧
      (∃ x, tabGet t.jobs id = some x ∧ x.phase = .running ∧ x.work = [row + 1, shortRows j.entry short bs] ∧
        x.entry = j.entry ∧ x.ctx = j.ctx) ∧
      Written s t id j.ctx (rowPlace j.entry row) (selectRow j.entry bs).1 := by
  obtain ⟨hquiet, ⟨x, hx, hentry, hctx⟩, -⟩ := topkRead_keeps hread (runsNow_acting h)
  have hexec := exec_topk_row h hrow hshort hread
  rw [topkRow_going u id j.entry row short bs hmore] at hexec
  refine ⟨_, hexec, ⟨nextRow row (shortRows j.entry short bs) x, ?_, rfl, rfl, hentry, hctx⟩, written_withWrite
    (fun y => updJob (rowCounted j.entry short bs y) id (nextRow row (shortRows j.entry short bs)))
    (selectRow_lt j.entry bs) ((quiet_acting s j id j.ctx).trans hquiet) hv
    (fun y => ⟨(quiet_rowCounted _ _ _ _ _ _).trans (quiet_updJob _ _ _ _), rfl⟩)⟩
  unfold withWrite
  rw [hv]
  dsimp only
  rw [unacted_jobs, notePosted_jobs, updJob_get, rowCounted_jobs, jobs_writeBytes, jobs_units (prepareWrite_ready hv), hx]
  rfl

/-- The last row is written, and the command ends. -/
theorem exec_topk_last (hlast : tkRows j.entry ≤ row + 1) :
    ∃ t, exec (.topk id) s = .next t ∧
      EndsWith s t id j (rowPlace j.entry row) (selectRow j.entry bs).1
        (if shortRows j.entry short bs == 0 then Code.OK else Code.OK_SHORT)
        (shortRows j.entry short bs * 2 ^ 32 + tkRows j.entry) ∧
      reg t Key.SELECT_COMMANDS = reg (bump s Key.SELECT_COMMANDS 1) Key.SELECT_COMMANDS := by
  obtain ⟨hquiet, ⟨x, hx, -, hctx⟩, hreg⟩ := topkRead_keeps hread (runsNow_acting h)
  have hexec := exec_topk_row h hrow hshort hread
  rw [topkRow_last u id j.entry row short bs hlast] at hexec
  refine ⟨_, hexec, EndsWith.of_ctx hctx (endsWith_withWrite
    (fun y => bump (rowCounted j.entry short bs y) Key.SELECT_COMMANDS 1) rfl (selectRow_lt j.entry bs)
    (hctx ▸ (quiet_acting s j id j.ctx).trans hquiet) hv hx (fun y => ?_)).unacted, ?_⟩
  · exact ⟨(quiet_rowCounted _ _ _ _ _ _).trans (quiet_bump _ _ _ _ _ (by decide)), rfl, rfl, rfl⟩
  · exact reg_written_end (fun y => bump (rowCounted j.entry short bs y) Key.SELECT_COMMANDS 1) (by decide) hv hreg
      (fun y => reg_bump_congr 1 (reg_rowCounted _ _ _ _))

end topk

/-- A row that cannot be read ends a TOPK. -/
theorem exec_topk_unreadable {s : State} {id : Nat} {j : Job} (h : runsNow s id Op.TOPK topkSources j = true)
    (hmemory : tkPocket j.entry = false)
    (hbad : readBad s (tkSrc j.entry + j.work[0]?.getD 0 * tkStride j.entry) (tkN j.entry * tkWidth j.entry) = true) :
    ∃ t, exec (.topk id) s = .next t ∧ EndsOnly s t id j Code.ECC_UNCORRECTABLE (j.work[0]?.getD 0) := by
  refine ⟨_, runJob_next h ?_, (endsOnly_finish _ _ (quiet_acting s j id j.ctx) (runsNow_acting h)).unacted⟩
  unfold topkBody
  dsimp only
  rw [hmemory]
  exact if_pos hbad

/-! ### MERGE: what it reads of its sources (R245, R246) -/

/-- The first of some numbers that fails a test is the one before which none does. -/
theorem find?_range_some {n i : Nat} {p : Nat → Bool} (hi : i < n) (hp : p i = true) (hno : ∀ k, k < i → p k = false) :
    (List.range n).find? p = some i := by
  refine List.find?_range_eq_some.2 ⟨hp, List.mem_range.2 hi, fun k hk => ?_⟩
  simp [hno k hk]

theorem find?_range_none {n : Nat} {p : Nat → Bool} (hno : ∀ k, k < n → p k = false) : (List.range n).find? p = none :=
  List.find?_eq_none.2 fun k hk => by simp [hno k (List.mem_range.1 hk)]

/-- Sources that lie in device memory are not fetched. -/
theorem windowRanges_device {as : List Nat} {n : Nat} (h : ∀ a ∈ as, inWindow a = false) :
    windowRanges (as.map (fun a => (a, n))) = [] := by
  unfold windowRanges
  rw [List.map_eq_nil_iff, List.filter_eq_nil_iff]
  intro r hr
  obtain ⟨a, ha, rfl⟩ := List.mem_map.1 hr
  simp [h a ha]

theorem fetchMore_fetched {s : State} {id : Nat} {j : Job} {rs : List (Nat × Nat)} (go : State → State)
    (h : j.more = true ∨ windowRanges rs = []) : fetchMore s id j rs go = go s := by
  refine if_pos ?_
  rcases h with h | h <;> simp [h]

/-- The format and the order of source 0 of a merge. -/
def mergeFirst (s : State) (e : Nat) : Nat × Nat :=
  (shVfmt (natAt s (mergeSource s e 0) 192), shOrder (natAt s (mergeSource s e 0) 192))

theorem mergeAddrs_entries (s : State) (e : Nat) {i : Nat} (hi : i < mgSources e) :
    (((mergeAddrs s e).map (sourceEntries s))[i]?.getD []) = sourceEntries s (mergeSource s e i) := by
  simp [mergeAddrs, hi]

theorem length_filter_bne_zero {α : Type} (p : α → Bool) (l : List α) : ((l.filter p).length != 0) = l.any p := by
  rw [Bool.eq_iff_iff, bne_iff_ne, ne_eq, List.length_eq_zero_iff, List.filter_eq_nil_iff, List.any_eq_true]
  simp

/-- The counters that the end of a merge brings up to date. -/
def mergeCounted (s : State) (j : Job) (dups conflicts valid : Nat) : State :=
  tallyJob (bump (bump (bump s Key.ZIPPER_MERGES 1) Key.ZIPPER_DUPLICATES dups) Key.ZIPPER_CONFLICTS conflicts) j 0x212 valid

theorem quiet_mergeCounted (s : State) (j : Job) (dups conflicts valid id c : Nat) :
    Quiet s (mergeCounted s j dups conflicts valid) id c :=
  (((quiet_bump _ _ _ _ _ (by decide)).trans (quiet_bump _ _ _ _ _ (by decide))).trans
    (quiet_bump _ _ _ _ _ (by decide))).trans (quiet_of_side (side_tallyJob _ _ _ _) _ _)

theorem mergeCounted_jobs (s : State) (j : Job) (dups conflicts valid : Nat) :
    (mergeCounted s j dups conflicts valid).jobs = s.jobs := tallyJob_jobs _ _ _ _

theorem mergeCounted_mem (s : State) (j : Job) (dups conflicts valid : Nat) :
    (mergeCounted s j dups conflicts valid).mem = s.mem := tallyJob_mem _ _ _ _

theorem reg_mergeCounted (s : State) (j : Job) (dups conflicts valid : Nat) :
    reg (mergeCounted s j dups conflicts valid) Key.ZIPPER_MERGES = reg (bump s Key.ZIPPER_MERGES 1) Key.ZIPPER_MERGES := by
  unfold mergeCounted
  rw [reg_tallyJob _ _ _ _ (by decide), reg_bump_ne _ _ (by decide), reg_bump_ne _ _ (by decide)]

/-- The valid entries of a merge's sources that are no NaN, in rank order. -/
def mergeGood (s : State) (e : Nat) : List Sel :=
  sortBy (ranksBefore ((mergeFirst s e).2 == 1)) (((mergeAddrs s e).map (sourceEntries s)).flatten.filter
    (fun x => !x.value.isNan))

/-- The entries that it ranks: with DEDUP one for each key. -/
def mergeKept (s : State) (e : Nat) : List Sel := if mgDedup e then collapse (mergeGood s e) else mergeGood s e

/-- A merge's output: its bytes, and VALID. -/
def mergeResult (s : State) (e : Nat) : List Nat × Nat :=
  selResult (mergeFirst s e).1 ((mergeFirst s e).2 == 1) (tkK e) (mergeKept s e)
    (mergeCarried s e (mergeGood s e) (mergeKept s e))

theorem mergeResult_lt (s : State) (e : Nat) : ∀ b ∈ (mergeResult s e).1, b < 256 := selResult_lt _ _ _ _ _

section body

variable {s : State} {id : Nat} {j : Job} (hread : readBad s (tkSrc j.entry) (16 * mgSources j.entry) = false)
  (hmore : j.more = true ∨ ∀ i, i < mgSources j.entry → inWindow (mergeSource s j.entry i) = false)

include hmore in
/-- The sources of a merge lie in device memory or have been fetched. -/
theorem mergeAddrs_fetched (n : Nat) :
    j.more = true ∨ windowRanges ((((List.range (mgSources j.entry)).map (mergeSource s j.entry)).filter
      (fun a => rangeOk s a 192)).map (fun a => (a, n))) = [] := by
  refine hmore.imp_right fun h => windowRanges_device fun a ha => ?_
  obtain ⟨i, hi, rfl⟩ := List.mem_map.1 (List.mem_filter.1 ha |>.1)
  exact h i (List.mem_range.1 hi)

include hread hmore

theorem mergeBody_refused {i : Nat} (hi : i < mgSources j.entry)
    (hbad : sourceCheck s j.entry i (mergeFirst s j.entry) ≠ Code.OK)
    (hok : ∀ k, k < i → sourceCheck s j.entry k (mergeFirst s j.entry) = Code.OK) :
    mergeBody s id j = finish s id (sourceCheck s j.entry i (mergeFirst s j.entry))
      (if sourceCheck s j.entry i (mergeFirst s j.entry) = Code.ECC_UNCORRECTABLE then i * 2 ^ 32 else i) := by
  have hfind := find?_range_some (p := fun i => sourceCheck s j.entry i (mergeFirst s j.entry) != Code.OK) hi
    (by simpa using hbad) (fun k hk => by simpa using hok k hk)
  unfold mergeFirst at hfind ⊢
  unfold mergeBody
  dsimp only
  rw [if_neg (Bool.eq_false_iff.1 hread), fetchMore_fetched _ (mergeAddrs_fetched hmore _), hfind]
  simp only [beq_iff_eq]

variable (hok : ∀ i, i < mgSources j.entry → sourceCheck s j.entry i (mergeFirst s j.entry) = Code.OK)

include hok

theorem mergeBody_unsorted {i n : Nat} (hi : i < mgSources j.entry)
    (hbad : firstUnsorted ((mergeFirst s j.entry).2 == 1) 0 (sourceEntries s (mergeSource s j.entry i)) = some n)
    (hsorted : ∀ k, k < i →
      firstUnsorted ((mergeFirst s j.entry).2 == 1) 0 (sourceEntries s (mergeSource s j.entry k)) = none) :
    mergeBody s id j = finish (bump s Key.ZIPPER_UNSORTED 1) id Code.LIST_UNSORTED (i * 2 ^ 32 + n) := by
  have hpass := find?_range_none (p := fun i => sourceCheck s j.entry i (mergeFirst s j.entry) != Code.OK)
    (fun k hk => by simpa using hok k hk)
  have hfind := find?_range_some (p := fun i => (firstUnsorted ((mergeFirst s j.entry).2 == 1) 0
    (((mergeAddrs s j.entry).map (sourceEntries s))[i]?.getD [])).isSome) hi
    (by rw [mergeAddrs_entries s _ hi, hbad]; rfl)
    (fun k hk => by rw [mergeAddrs_entries s _ (Nat.lt_trans hk hi), hsorted k hk]; rfl)
  have hlist := mergeAddrs_entries s j.entry hi
  unfold mergeFirst at hpass hfind hbad
  unfold mergeAddrs at hfind hlist
  unfold mergeBody
  dsimp only
  rw [if_neg (Bool.eq_false_iff.1 hread), fetchMore_fetched _ (mergeAddrs_fetched hmore _), hpass]
  dsimp only
  rw [hfind]
  dsimp only
  rw [hlist, hbad]
  rfl

theorem mergeBody_merged (hsorted : ∀ i, i < mgSources j.entry →
      firstUnsorted ((mergeFirst s j.entry).2 == 1) 0 (sourceEntries s (mergeSource s j.entry i)) = none) :
    mergeBody s id j = withWrite (touchRanges s (mergeRanges s j.entry)) id (tkDest j.entry) (mergeResult s j.entry).1.length
      (fun x => finish (mergeCounted (writeBytes x (tkDest j.entry) (mergeResult s j.entry).1) j
        ((mergeGood s j.entry).length - (mergeKept s j.entry).length)
        ((mergeKept s j.entry).filter (fun y => y.conflict)).length (mergeResult s j.entry).2) id
        (if (mergeResult s j.entry).2 = tkK j.entry then Code.OK else Code.OK_SHORT)
        (((mergeGood s j.entry).length - (mergeKept s j.entry).length) * 2 ^ 32 + (mergeResult s j.entry).2)) := by
  have hpass := find?_range_none (p := fun i => sourceCheck s j.entry i (mergeFirst s j.entry) != Code.OK)
    (fun k hk => by simpa using hok k hk)
  have hfind := find?_range_none (p := fun i => (firstUnsorted ((mergeFirst s j.entry).2 == 1) 0
    (((mergeAddrs s j.entry).map (sourceEntries s))[i]?.getD [])).isSome)
    (fun k hk => by rw [mergeAddrs_entries s _ hk, hsorted k hk]; rfl)
  unfold mergeFirst at hpass hfind
  unfold mergeAddrs at hfind
  unfold mergeBody
  dsimp only
  rw [if_neg (Bool.eq_false_iff.1 hread), fetchMore_fetched _ (mergeAddrs_fetched hmore _), hpass]
  dsimp only
  rw [hfind]
  dsimp only
  unfold mergeResult mergeCarried mergeKept mergeGood mergeFirst mergeAddrs
  simp only [List.map_map, List.foldl_map, List.zip_map', List.filterMap_map, length_filter_bne_zero, beq_iff_eq]
  rfl

end body

/-! ### MERGE: its ends -/

theorem mergeRanges_acting (s : State) (j : Job) (e : Nat) : mergeRanges (acting s j) e = mergeRanges s e := rfl
theorem mergeGood_acting (s : State) (j : Job) (e : Nat) : mergeGood (acting s j) e = mergeGood s e := rfl
theorem mergeKept_acting (s : State) (j : Job) (e : Nat) : mergeKept (acting s j) e = mergeKept s e := rfl
theorem mergeResult_acting (s : State) (j : Job) (e : Nat) : mergeResult (acting s j) e = mergeResult s e := rfl

section merge

variable {s : State} {id : Nat} {j : Job} (h : runsNow s id Op.MERGE mergeSources j = true)

include h

/-- A MERGE whose source table cannot be read ends. -/
theorem exec_merge_unreadable (hbad : readBad s (tkSrc j.entry) (16 * mgSources j.entry) = true) :
    ∃ t, exec (.merge id) s = .next t ∧ EndsOnly s t id j Code.ECC_UNCORRECTABLE 0 :=
  ⟨_, runJob_next h (if_pos hbad), (endsOnly_finish _ _ (quiet_acting s j id j.ctx) (runsNow_acting h)).unacted⟩

variable (hread : readBad s (tkSrc j.entry) (16 * mgSources j.entry) = false)
  (hmore : j.more = true ∨ ∀ i, i < mgSources j.entry → inWindow (mergeSource s j.entry i) = false)

include hread hmore

/-- A MERGE ends at the first source that fails a check (R245). -/
theorem exec_merge_refused {i : Nat} (hi : i < mgSources j.entry)
    (hbad : sourceCheck s j.entry i (mergeFirst s j.entry) ≠ Code.OK)
    (hok : ∀ k, k < i → sourceCheck s j.entry k (mergeFirst s j.entry) = Code.OK) :
    ∃ t, exec (.merge id) s = .next t ∧ EndsOnly s t id j (sourceCheck s j.entry i (mergeFirst s j.entry))
      (if sourceCheck s j.entry i (mergeFirst s j.entry) = Code.ECC_UNCORRECTABLE then i * 2 ^ 32 else i) :=
  ⟨_, runJob_next h (mergeBody_refused (s := acting s j) hread hmore hi hbad hok),
    (endsOnly_finish _ _ (quiet_acting s j id j.ctx) (runsNow_acting h)).unacted⟩

variable (hok : ∀ i, i < mgSources j.entry → sourceCheck s j.entry i (mergeFirst s j.entry) = Code.OK)

include hok

/-- A MERGE ends at the first entry that is out of order (R246). -/
theorem exec_merge_unsorted {i n : Nat} (hi : i < mgSources j.entry)
    (hbad : firstUnsorted ((mergeFirst s j.entry).2 == 1) 0 (sourceEntries s (mergeSource s j.entry i)) = some n)
    (hsorted : ∀ k, k < i →
      firstUnsorted ((mergeFirst s j.entry).2 == 1) 0 (sourceEntries s (mergeSource s j.entry k)) = none) :
    ∃ t, exec (.merge id) s = .next t ∧ EndsOnly s t id j Code.LIST_UNSORTED (i * 2 ^ 32 + n) ∧
      reg t Key.ZIPPER_UNSORTED = reg (bump s Key.ZIPPER_UNSORTED 1) Key.ZIPPER_UNSORTED :=
  ⟨_, runJob_next h (mergeBody_unsorted (s := acting s j) hread hmore hok hi hbad hsorted),
    (endsOnly_finish _ _ ((quiet_acting s j id j.ctx).trans (quiet_bump _ _ _ _ _ (by decide)))
      (runsNow_acting h : tabGet (acting s j).jobs id = some j)).unacted,
    (reg_unacted _ _).trans (reg_finish _ _ _ _ _)⟩

/-- A MERGE of sorted sources ends with its result written (R247, R248). -/
theorem exec_merge_merged {u : State}
    (hsorted : ∀ i, i < mgSources j.entry →
      firstUnsorted ((mergeFirst s j.entry).2 == 1) 0 (sourceEntries s (mergeSource s j.entry i)) = none)
    (hu : prepareWrite (touchRanges (acting s j) (mergeRanges s j.entry)) (tkDest j.entry) (mergeResult s j.entry).1.length =
      .ready u) :
    ∃ t, exec (.merge id) s = .next t ∧ EndsWith s t id j (tkDest j.entry) (mergeResult s j.entry).1
        (if (mergeResult s j.entry).2 = tkK j.entry then Code.OK else Code.OK_SHORT)
        (((mergeGood s j.entry).length - (mergeKept s j.entry).length) * 2 ^ 32 + (mergeResult s j.entry).2) ∧
      reg t Key.ZIPPER_MERGES = reg (bump s Key.ZIPPER_MERGES 1) Key.ZIPPER_MERGES := by
  have hreg : reg (touchRanges (acting s j) (mergeRanges s j.entry)) Key.ZIPPER_MERGES = reg s Key.ZIPPER_MERGES := by
    obtain ⟨us, hside⟩ := touchRanges_eq (acting s j) (mergeRanges s j.entry)
    exact hside.regs _ (by decide)
  have hquiet := (quiet_acting s j id j.ctx).trans (quiet_touchRanges (acting s j) (mergeRanges s j.entry) id j.ctx)
  have hjob : tabGet (touchRanges (acting s j) (mergeRanges s j.entry)).jobs id = some j :=
    (congrArg (tabGet · id) (jobs_touchRanges _ _)).trans (runsNow_acting h)
  have hbody := mergeBody_merged (s := acting s j) (id := id) hread hmore hok hsorted
  rw [mergeRanges_acting, mergeResult_acting, mergeGood_acting, mergeKept_acting] at hbody
  refine ⟨_, runJob_next h hbody, (endsWith_withWrite (fun x => mergeCounted x j _ _ _) rfl (mergeResult_lt s j.entry) hquiet
    hu hjob (fun x => ?_)).unacted, ?_⟩
  · exact ⟨quiet_mergeCounted _ _ _ _ _ _ _, mergeCounted_jobs _ _ _ _ _, by rw [mergeCounted_mem], by rw [mergeCounted_mem]⟩
  · refine reg_written_end (fun x => mergeCounted x j _ _ _) ?_ hu hreg ?_
    · decide
    · exact fun x => reg_mergeCounted _ _ _ _ _

end merge

/-! ### The statement -/

/-- Settles O52: a TOPK's step is its one row read and written, and a MERGE ends as the branch that its sources lead to says. -/
theorem selections : Obligations.Selections := by
  unfold Obligations.Selections
  refine ⟨?topk, ?unreadable, ?shape, ?table, ?merge⟩
  case topk =>
    intro s u v id row short j bs r h hrow hshort hread hr hv
    subst hr
    refine ⟨fun hmore => ?_, fun hlast => ?_⟩
    · obtain ⟨t, hexec, hjob, hw⟩ := exec_topk_going h hrow hshort hread hv hmore
      exact ⟨t, hexec, hjob, hw.written, hw.outside, hw.beside, hw.holdings, hw.indexes⟩
    · obtain ⟨t, hexec, hends, hreg⟩ := exec_topk_last h hrow hshort hread hv hlast
      simp only [beq_iff_eq, shortRows_eq_zero] at hends
      exact ⟨t, hexec, hends, hreg⟩
  case unreadable => exact fun s id j h hmemory hbad => exec_topk_unreadable h hmemory hbad
  case shape => exact fun e bs => ⟨selectRow_length e bs, selectRow_valid_le e bs, selectRow_counts_le e bs⟩
  case table => exact fun s id j h hbad => exec_merge_unreadable h hbad
  case merge =>
    intro s id j first h hread hmore hfirst
    have hfirst' : first = mergeFirst s j.entry := hfirst
    subst hfirst'
    refine ⟨fun i hi hbad hok => exec_merge_refused h hread hmore hi hbad hok, fun hok =>
      ⟨fun i n hi hbad hsorted => exec_merge_unsorted h hread hmore hok hi hbad hsorted, ?_⟩⟩
    intro good kept c r u hsorted hgood hkept hc hr hu
    subst hgood hkept hc hr
    exact exec_merge_merged h hread hmore hok hsorted hu

end Sys2Proof.Machine

/-! SUPPORT. The Belt (chapter 12): what the commands on tables leave of the tables, what the accounts of a gather's windows can
change, and an output row delivered to memory or into a Pocket. -/

namespace Sys2Proof.Machine

/-! ### Another Belt -/

/-- The state with another Belt and other Pockets. -/
def withHeld (s : State) (b : BeltS) (p : Mem) : State := { s with belt := b, pocket := p }

/-- The state with another Belt. -/
def withBelt (s : State) (b : BeltS) : State := withHeld s b s.pocket

/-- The Belt with other tables. -/
def withTables (b : BeltS) (ts : Tab BeltTable) : BeltS := { b with tables := ts }

theorem Beside.withHeld {s t : State} {id c : Nat} (h : Beside s t id c) (b b' : BeltS) (p p' : Mem) :
    Beside (Machine.withHeld s b p) (Machine.withHeld t b' p') id c :=
  ⟨h.jobs, h.ctxs, h.start, h.fatal, h.alerts, h.eeprom, h.hem, h.queues, h.jobNext, h.chip, h.sec, h.power, h.test, h.log,
    h.locks, h.settings⟩

/-- `Beside` says nothing of the Belt and the Pockets. -/
theorem Beside.ofHeld {s t : State} {id c : Nat} {b : BeltS} {p : Mem} (h : Beside (Machine.withHeld s b p) t id c) :
    Beside s t id c := h.withHeld s.belt t.belt s.pocket t.pocket

theorem HoldingsKept.withHeld {s t : State} (h : HoldingsKept s t) (b : BeltS) {p p' : Mem} (hp : p' = p) :
    HoldingsKept (Machine.withHeld s b p) (Machine.withHeld t b p') :=
  ⟨h.models, h.vocabs, h.grammars, rfl, h.kv, h.gens, hp, h.acc⟩

theorem Quiet.withHeld {s t : State} {id c : Nat} (h : Quiet s t id c) (b : BeltS) {p p' : Mem} (hp : p' = p) :
    Quiet (Machine.withHeld s b p) (Machine.withHeld t b p') id c :=
  ⟨h.bytes, h.beside.withHeld b b p p', h.holdings.withHeld b hp, h.indexes⟩

theorem Quiet.withBelt {s t : State} {id c : Nat} (h : Quiet s t id c) (b : BeltS) :
    Quiet (Machine.withBelt s b) (Machine.withBelt t b) id c := h.withHeld b h.holdings.pocket

/-- A step that is quiet but for the Belt is quiet beside the Belt that it leaves. -/
theorem Quiet.ownBelt {s t : State} {b : BeltS} {id c : Nat} (h : Quiet (Machine.withBelt s b) t id c) :
    Quiet { s with belt := t.belt } t id c := by
  have hbelt : t.belt = b := h.holdings.belt
  rw [hbelt]
  exact h

/-- A step that is quiet but for the Belt and the Pockets is quiet beside those that it leaves. -/
theorem Quiet.ownHeld {s t : State} {b : BeltS} {p : Mem} {id c : Nat} (h : Quiet (Machine.withHeld s b p) t id c) :
    Quiet { s with belt := t.belt, pocket := t.pocket } t id c := by
  have hbelt : t.belt = b := h.holdings.belt
  have hpocket : t.pocket = p := h.holdings.pocket
  rw [hbelt, hpocket]
  exact h

/-- A command whose state so far is quiet but for the Belt ends. -/
theorem quiet_beltEnd {s t : State} {b : BeltS} {id : Nat} {j : Job} (st r : Nat) (q : Quiet (withBelt s b) t id j.ctx)
    (hj : tabGet t.jobs id = some j) : Quiet (withBelt s b) (unacted (finish t id st r)) id j.ctx :=
  (q.trans (quiet_finish st r hj)).trans (quiet_unacted _ _ _)

/-! ### A table's descriptor is checked (R254) -/

theorem rangeOk_touchRange (s : State) (a n : Nat) : rangeOk (touchRange s a n) = rangeOk s := by
  funext b m
  unfold rangeOk objectAt
  rw [touchRange_objects]

theorem btFieldsBad_touchRange (s : State) (a n d : Nat) : btFieldsBad (touchRange s a n) d = btFieldsBad s d := by
  unfold btFieldsBad
  rw [rangeOk_touchRange, reg_touchRange s a n (by decide)]

section descriptor

variable {s : State} {id op : Nat} {j : Job} {go : State → Nat → State} (h : runsNow s id op beltSources j = true)

/-- The state in which a command's descriptor has been read. -/
def descriptorRead (s : State) (j : Job) : State := touchRange (acting s j) (blIdx j.entry) 64

theorem quiet_descriptorRead (s : State) (j : Job) (id c : Nat) : Quiet s (descriptorRead s j) id c := quiet_read s j _ _ id c

theorem descriptorRead_belt (s : State) (j : Job) : (descriptorRead s j).belt = s.belt := touchRange_belt _ _ _

include h

theorem descriptorRead_job : tabGet (descriptorRead s j).jobs id = some j := runsNow_read h _ _

theorem endsOnly_descriptorRead (st r : Nat) : EndsOnly s (unacted (finish (descriptorRead s j) id st r)) id j st r :=
  (endsOnly_finish st r (quiet_descriptorRead s j id j.ctx) (descriptorRead_job h)).unacted

theorem descriptor_unreadable (hbad : readBad s (blIdx j.entry) 64 = true) :
    EndsOnly s (unacted (withDescriptor (acting s j) id j go)) id j Code.ECC_UNCORRECTABLE 0 := by
  have hbody : withDescriptor (acting s j) id j go = finish (acting s j) id Code.ECC_UNCORRECTABLE 0 := if_pos hbad
  rw [hbody]
  exact (endsOnly_finish _ _ (quiet_acting s j id j.ctx) (runsNow_acting h)).unacted

omit h in
/-- What follows of a descriptor that can be read. -/
theorem withDescriptor_read (hgood : readBad s (blIdx j.entry) 64 = false) :
    withDescriptor (acting s j) id j go =
      if field (natAt s (blIdx j.entry) 64) 0 8 ≠ 1 then finish (descriptorRead s j) id Code.VERSION_UNSUPPORTED 0
      else if btFieldsBad s (natAt s (blIdx j.entry) 64) then finish (descriptorRead s j) id Code.BAD_FIELD 0
      else go (descriptorRead s j) (natAt s (blIdx j.entry) 64) := by
  have hread : ¬readBad (acting s j) (blIdx j.entry) 64 = true := Bool.eq_false_iff.1 hgood
  have hfields := btFieldsBad_touchRange (acting s j) (blIdx j.entry) 64 (natAt s (blIdx j.entry) 64)
  refine (if_neg hread).trans ?_
  simp only [bne_iff_ne]
  exact congrArg (fun b : Bool => if field (natAt s (blIdx j.entry) 64) 0 8 ≠ 1 then _ else if b = true then _ else _) hfields

theorem descriptor_version (hgood : readBad s (blIdx j.entry) 64 = false)
    (hversion : field (natAt s (blIdx j.entry) 64) 0 8 ≠ 1) :
    EndsOnly s (unacted (withDescriptor (acting s j) id j go)) id j Code.VERSION_UNSUPPORTED 0 := by
  rw [withDescriptor_read hgood, if_pos hversion]
  exact endsOnly_descriptorRead h _ _

theorem descriptor_fields (hgood : readBad s (blIdx j.entry) 64 = false)
    (hversion : field (natAt s (blIdx j.entry) 64) 0 8 = 1) (hbad : btFieldsBad s (natAt s (blIdx j.entry) 64) = true) :
    EndsOnly s (unacted (withDescriptor (acting s j) id j go)) id j Code.BAD_FIELD 0 := by
  rw [withDescriptor_read hgood, if_neg (not_not_intro hversion), if_pos hbad]
  exact endsOnly_descriptorRead h _ _

omit h in
theorem withDescriptor_checked (hgood : readBad s (blIdx j.entry) 64 = false)
    (hversion : field (natAt s (blIdx j.entry) 64) 0 8 = 1) (hfields : btFieldsBad s (natAt s (blIdx j.entry) 64) = false) :
    withDescriptor (acting s j) id j go = go (descriptorRead s j) (natAt s (blIdx j.entry) 64) := by
  rw [withDescriptor_read hgood, if_neg (not_not_intro hversion), if_neg (Bool.eq_false_iff.1 hfields)]

end descriptor

/-! ### BELT_TABLE_CREATE, BELT_TABLE_REPLACE and BELT_TABLE_DROP (R253, R255, R256) -/

/-- A command leaves another Belt whose tables are counted, and ends. -/
theorem reportTables_end {s t : State} {id : Nat} {j : Job} (b : BeltS) (st r : Nat) (q : Quiet s t id j.ctx)
    (hj : tabGet t.jobs id = some j) (u : State) (hu : u = unacted (finish (reportTables (withBelt t b)) id st r)) :
    ends u id st r ∧ u.belt = b ∧ reg u Key.BELT_TABLES = b.tables.length ∧ Quiet { s with belt := u.belt } u id j.ctx := by
  subst hu
  have hjob : tabGet (reportTables (withBelt t b)).jobs id = some j := hj
  refine ⟨ends_end st r hjob, by rw [unacted_belt, finish_belt]; rfl, ?_,
    (quiet_beltEnd st r ((q.withBelt b).trans ?_) hjob).ownBelt⟩
  · exact (reg_finish _ _ _ _ _).trans (reg_setReg_self _ _ _)
  · exact (still_setReg (withBelt t b) _ (by decide) (by decide)).quiet id j.ctx

/-- A table is created at version 1. -/
theorem exec_beltTableCreate_new {s : State} {id : Nat} {j : Job} (h : runsNow s id Op.BELT_TABLE_CREATE beltSources j = true)
    (hgood : readBad s (blIdx j.entry) 64 = false) (hversion : field (natAt s (blIdx j.entry) 64) 0 8 = 1)
    (hfields : btFieldsBad s (natAt s (blIdx j.entry) 64) = false) (hnew : tabHas s.belt.tables (blTable j.entry) = false) :
    ∃ t, exec (.beltTableCreate id) s = .next t ∧ ends t id Code.OK 1 ∧
      t.belt = withTables s.belt (tabSet s.belt.tables (blTable j.entry)
        { versions := [(1, natAt s (blIdx j.entry) 64)], current := some 1 }) ∧
      reg t Key.BELT_TABLES = t.belt.tables.length ∧ Quiet { s with belt := t.belt } t id j.ctx := by
  obtain ⟨hends, hbelt, hreg, hquiet⟩ := reportTables_end (withTables s.belt (tabSet s.belt.tables (blTable j.entry)
    { versions := [(1, natAt s (blIdx j.entry) 64)], current := some 1 })) Code.OK 1 (quiet_descriptorRead s j id j.ctx)
    (descriptorRead_job h) _ rfl
  refine ⟨_, runJob_next h ((withDescriptor_checked hgood hversion hfields).trans ?_), hends, hbelt,
    hreg.trans (by rw [hbelt]), hquiet⟩
  rw [descriptorRead_belt]
  exact if_neg (Bool.eq_false_iff.1 hnew)

/-- A table of that number is there already. -/
theorem exec_beltTableCreate_known {s : State} {id : Nat} {j : Job} (h : runsNow s id Op.BELT_TABLE_CREATE beltSources j = true)
    (hgood : readBad s (blIdx j.entry) 64 = false) (hversion : field (natAt s (blIdx j.entry) 64) 0 8 = 1)
    (hfields : btFieldsBad s (natAt s (blIdx j.entry) 64) = false) (hknown : tabHas s.belt.tables (blTable j.entry) = true) :
    ∃ t, exec (.beltTableCreate id) s = .next t ∧ EndsOnly s t id j Code.BAD_FIELD 0 := by
  refine ⟨_, runJob_next h ((withDescriptor_checked hgood hversion hfields).trans ?_), endsOnly_descriptorRead h _ _⟩
  rw [descriptorRead_belt]
  exact if_pos hknown

/-- A table with one more version, which is current. -/
def nextVersion (v d : Nat) (x : BeltTable) : BeltTable :=
  { x with versions := tabSet x.versions (v + 1) d, current := some (v + 1) }

section replace

variable {s : State} {id v : Nat} {j : Job} {x : BeltTable} (h : runsNow s id Op.BELT_TABLE_REPLACE beltSources j = true)
  (hx : tabGet s.belt.tables (blTable j.entry) = some x) (hcurrent : x.current = some v)
  (hgood : readBad s (blIdx j.entry) 64 = false) (hversion : field (natAt s (blIdx j.entry) 64) 0 8 = 1)
  (hfields : btFieldsBad s (natAt s (blIdx j.entry) 64) = false)

include hx hcurrent hgood hversion hfields

theorem beltTableReplaceBody_checked : beltTableReplaceBody (acting s j) id j =
    if reg s Key.BELT_MAX_VERSIONS ≤ x.versions.length then descriptorRead s j
    else finish (updTable (descriptorRead s j) (blTable j.entry) (nextVersion v (natAt s (blIdx j.entry) 64))) id Code.OK
      (v + 1) := by
  have hlimit : reg (descriptorRead s j) Key.BELT_MAX_VERSIONS = reg s Key.BELT_MAX_VERSIONS := reg_touchRange _ _ _ (by decide)
  refine (withDescriptor_checked hgood hversion hfields).trans ?_
  rw [descriptorRead_belt, hx]
  dsimp only
  rw [hcurrent, hlimit]
  rfl

include h

/-- A REPLACE waits while its table holds its most versions. -/
theorem exec_beltTableReplace_full (hfull : reg s Key.BELT_MAX_VERSIONS ≤ x.versions.length) :
    ∃ t, exec (.beltTableReplace id) s = .next t ∧ Quiet s t id j.ctx ∧ t.jobs = s.jobs := by
  refine ⟨_, runJob_next h ((beltTableReplaceBody_checked hx hcurrent hgood hversion hfields).trans (if_pos hfull)), ?_, ?_⟩
  · exact (quiet_descriptorRead s j id j.ctx).trans (quiet_unacted _ _ _)
  · exact jobs_touchRange _ _ _

/-- A REPLACE makes its descriptor the next version. -/
theorem exec_beltTableReplace_next (hroom : x.versions.length < reg s Key.BELT_MAX_VERSIONS) :
    ∃ t, exec (.beltTableReplace id) s = .next t ∧ ends t id Code.OK (v + 1) ∧
      t.belt = withTables s.belt (tabUpd s.belt.tables (blTable j.entry) (nextVersion v (natAt s (blIdx j.entry) 64))) ∧
      Quiet { s with belt := t.belt } t id j.ctx := by
  have hbelt : (updTable (descriptorRead s j) (blTable j.entry) (nextVersion v (natAt s (blIdx j.entry) 64))).belt =
      withTables s.belt (tabUpd s.belt.tables (blTable j.entry) (nextVersion v (natAt s (blIdx j.entry) 64))) :=
    congrArg (fun b => withTables b (tabUpd b.tables (blTable j.entry) _)) (descriptorRead_belt s j)
  have hjob : tabGet (updTable (descriptorRead s j) (blTable j.entry)
      (nextVersion v (natAt s (blIdx j.entry) 64))).jobs id = some j := descriptorRead_job h
  refine ⟨_, runJob_next h ((beltTableReplaceBody_checked hx hcurrent hgood hversion hfields).trans
    (if_neg (Nat.not_le.2 hroom))), ends_end _ _ hjob, ?_, ?_⟩
  · rw [unacted_belt, finish_belt, hbelt]
  · exact (quiet_beltEnd _ _ ((quiet_descriptorRead s j id j.ctx).withBelt _) hjob).ownBelt

end replace

section drop

variable {s : State} {id : Nat} {j : Job} (h : runsNow s id Op.BELT_TABLE_DROP noSources j = true)

include h

/-- A DROP that found no table to drop at its admission does nothing. -/
theorem exec_beltTableDrop_other (hother : ∀ x, tabGet s.belt.tables (blTable j.entry) = some x → x.dropping ≠ some id) :
    ∃ t, exec (.beltTableDrop id) s = .next t ∧ EndsOnly s t id j Code.OK_NOOP 0 := by
  have hbody : beltTableDropBody (acting s j) id j = finish (acting s j) id Code.OK_NOOP 0 := by
    unfold beltTableDropBody
    cases hx : tabGet (acting s j).belt.tables (blTable j.entry) with
    | none => rfl
    | some x => exact if_pos (bne_iff_ne.2 (hother x hx))
  exact ⟨_, runJob_next h hbody, (endsOnly_finish _ _ (quiet_acting s j id j.ctx) (runsNow_acting h)).unacted⟩

variable {x : BeltTable} (hx : tabGet s.belt.tables (blTable j.entry) = some x) (hmine : x.dropping = some id)

include hx hmine

omit h in
theorem beltTableDropBody_mine : beltTableDropBody (acting s j) id j =
    if x.versions = [] then finish (reportTables (withBelt (acting s j)
      (withTables s.belt (tabDel s.belt.tables (blTable j.entry))))) id Code.OK 0
    else acting s j := by
  unfold beltTableDropBody
  rw [show tabGet (acting s j).belt.tables (blTable j.entry) = some x from hx]
  dsimp only
  rw [if_neg (by simp [hmine])]
  cases x.versions with
  | nil => rfl
  | cons p l => rfl

theorem exec_beltTableDrop_waits (hheld : x.versions ≠ []) (ha : s.perf.actor = none) :
    exec (.beltTableDrop id) s = .next s :=
  runJob_idle h ha ((beltTableDropBody_mine hx hmine).trans (if_neg hheld))

theorem exec_beltTableDrop_freed (hfreed : x.versions = []) :
    ∃ t, exec (.beltTableDrop id) s = .next t ∧ ends t id Code.OK 0 ∧
      t.belt = withTables s.belt (tabDel s.belt.tables (blTable j.entry)) ∧
      reg t Key.BELT_TABLES = t.belt.tables.length ∧ Quiet { s with belt := t.belt } t id j.ctx := by
  obtain ⟨hends, hbelt, hreg, hquiet⟩ := reportTables_end (withTables s.belt (tabDel s.belt.tables (blTable j.entry)))
    Code.OK 0 (quiet_acting s j id j.ctx) (runsNow_acting h) _ rfl
  exact ⟨_, runJob_next h ((beltTableDropBody_mine hx hmine).trans (if_pos hfreed)), hends, hbelt,
    hreg.trans (by rw [hbelt]), hquiet⟩

end drop

/-! ### The start of a gather (R258, R264) -/

/-- What a gather does with the verdict on its offsets: it ends at the first that is out of order, or starts. -/
def offsetsChecked (s : State) (id : Nat) (j : Job) : Option Nat → State
  | some p => finish s id Code.BAD_FIELD p
  | none => updJob (touchRange s (blOffs j.entry) (if gatherOffsets j.entry = true then 4 * (blBags j.entry + 1) else 0)) id
      (fun j => { j with phase := .running, work := [1, 0, inForce s Key.BELT_HOT_CACHE_ENABLE] })

section start

variable {s : State} {id : Nat} {j : Job} (h : runsNow s id Op.BELT_GATHER beltGatherSources j = true)

include h

/-- A gather that runs for a Pocket has its context RUNNING. -/
theorem gather_running (hpocket : blPocket j.entry = true) : (ctxOf s j.ctx).state = .running := by
  have helig : eligible s j Op.BELT_GATHER = true := by
    simp only [runsNow, Bool.and_eq_true] at h
    exact h.1.1.1.1.1.2
  simp only [eligible, Bool.and_eq_true, beq_iff_eq] at helig
  obtain ⟨⟨⟨⟨⟨⟨-, hop⟩, -⟩, -⟩, -⟩, hallows⟩, -⟩ := helig
  have hneeds : jobNeedsPlacement j = true := by
    have hbit : paramBit j.entry 151 = true := hpocket
    unfold jobNeedsPlacement needsPlacement
    rw [hop, hbit]
    simp
  unfold ctxAllows at hallows
  rw [hop, hneeds] at hallows
  revert hallows
  cases (ctxOf s j.ctx).state <;> simp [Op.BELT_GATHER, Op.CTX_FREE, Op.CTX_QUERY]

/-- No delivery of a gather that runs is held. -/
theorem noteBeltHold_runsNow : noteBeltHold s id = s := by
  unfold noteBeltHold
  rw [runsNow_job h]
  dsimp only
  split
  · refine if_neg fun hheld => ?_
    simp only [Bool.and_eq_true, bne_iff_ne] at hheld
    exact hheld.2 (gather_running h hheld.1.2)
  · rfl

variable {d : Nat} {x : BeltTable} (hx : tabGet s.belt.tables (blTable j.entry) = some x) (hd : tabGet x.versions j.pin = some d)

theorem exec_beltGather_runJob :
    exec (.beltGather id) s = .next (runJob s id Op.BELT_GATHER beltGatherSources beltGatherBody) := by
  show Host.Outcome.next (runJob (noteBeltHold s id) id Op.BELT_GATHER beltGatherSources beltGatherBody) = _
  rw [noteBeltHold_runsNow h]

theorem exec_beltGather {X : State} (e : beltGatherBody (acting s j) id j = X) :
    exec (.beltGather id) s = .next (unacted X) := (exec_beltGather_runJob h).trans (runJob_next h e)

include hx hd

theorem exec_beltGather_row {m row cache : Nat} (hw : j.work = [m, row, cache]) :
    exec (.beltGather id) s = .next (unacted (gatherRow (acting s j) id j d row cache)) := by
  refine exec_beltGather h ?_
  unfold beltGatherBody
  rw [show tabGet (acting s j).belt.tables (blTable j.entry) = some x from hx]
  dsimp only
  rw [hd, hw]

variable (hw : j.work = [])

include hw

omit h in
/-- The first step of a gather. -/
theorem beltGatherBody_start : beltGatherBody (acting s j) id j =
    if gatherMayStart s id j = false then acting s j
    else if (gatherOffsets j.entry && readBad s (blOffs j.entry) (4 * (blBags j.entry + 1))) = true then
      finish (acting s j) id Code.ECC_UNCORRECTABLE 0
    else offsetsChecked (acting s j) id j (if gatherOffsets j.entry = true then firstBadOffset s j.entry else none) := by
  unfold beltGatherBody
  rw [show tabGet (acting s j).belt.tables (blTable j.entry) = some x from hx]
  dsimp only
  rw [hd, hw]
  dsimp only
  rw [show gatherMayStart (acting s j) id j = gatherMayStart s id j from rfl]
  simp only [Bool.not_eq_true']
  rfl

/-- A gather waits for its turn. -/
theorem exec_beltGather_waits (hwait : gatherMayStart s id j = false) (ha : s.perf.actor = none) :
    exec (.beltGather id) s = .next s :=
  (exec_beltGather_runJob h).trans (runJob_idle h ha ((beltGatherBody_start hx hd hw).trans (if_pos hwait)))

variable (hturn : gatherMayStart s id j = true)

include hturn

theorem exec_beltGather_unreadable (ho : gatherOffsets j.entry = true)
    (hbad : readBad s (blOffs j.entry) (4 * (blBags j.entry + 1)) = true) :
    ∃ t, exec (.beltGather id) s = .next t ∧ EndsOnly s t id j Code.ECC_UNCORRECTABLE 0 := by
  refine ⟨_, exec_beltGather h ((beltGatherBody_start hx hd hw).trans ?_),
    (endsOnly_finish _ _ (quiet_acting s j id j.ctx) (runsNow_acting h)).unacted⟩
  rw [if_neg (by rw [hturn]; decide), ho, hbad]
  rfl

theorem exec_beltGather_offset {p : Nat} (ho : gatherOffsets j.entry = true)
    (hgood : readBad s (blOffs j.entry) (4 * (blBags j.entry + 1)) = false) (hp : firstBadOffset s j.entry = some p) :
    ∃ t, exec (.beltGather id) s = .next t ∧ EndsOnly s t id j Code.BAD_FIELD p := by
  refine ⟨_, exec_beltGather h ((beltGatherBody_start hx hd hw).trans ?_),
    (endsOnly_finish _ _ (quiet_acting s j id j.ctx) (runsNow_acting h)).unacted⟩
  rw [if_neg (by rw [hturn]; decide), ho, hgood, hp]
  rfl

/-- A gather whose offsets are in order starts, and notes whether the caches of hot rows are in use. -/
theorem exec_beltGather_starts (hok : gatherOffsets j.entry = false ∨
      (readBad s (blOffs j.entry) (4 * (blBags j.entry + 1)) = false ∧ firstBadOffset s j.entry = none)) :
    ∃ t, exec (.beltGather id) s = .next t ∧
      tabGet t.jobs id = some { j with phase := .running, work := [1, 0, inForce s Key.BELT_HOT_CACHE_ENABLE] } ∧
      Quiet s t id j.ctx := by
  have hread : ¬(gatherOffsets j.entry && readBad s (blOffs j.entry) (4 * (blBags j.entry + 1))) = true := by
    rcases hok with ho | ⟨hgood, -⟩
    · simp [ho]
    · simp [hgood]
  have horder : (if gatherOffsets j.entry = true then firstBadOffset s j.entry else none) = none := by
    rcases hok with ho | ⟨-, hnone⟩
    · exact if_neg (Bool.eq_false_iff.1 ho)
    · rw [hnone, ite_self]
  have hbody := beltGatherBody_start (id := id) hx hd hw
  rw [if_neg (by rw [hturn]; decide), if_neg hread, horder] at hbody
  refine ⟨_, exec_beltGather h hbody, ?_,
    ((quiet_read s j _ _ id j.ctx).trans (quiet_updJob _ _ _ _)).trans (quiet_unacted _ _ _)⟩
  unfold offsetsChecked
  rw [unacted_jobs, updJob_get, runsNow_read h]
  rfl

end start

/-! ### The accounts of windows (R262) -/

/-- Only counters, the records that go with reads and, with the cache in use, the rows that the caches hold differ; the count of
gathers does not. -/
structure Accounted (cache : Bool) (s t : State) : Prop where
  quiet : ∀ id c, Quiet (withBelt s t.belt) t id c
  tables : t.belt.tables = s.belt.tables
  hot : cache = false → t.belt = s.belt
  jobs : t.jobs = s.jobs
  dev : t.mem.dev = s.mem.dev
  comp : t.mem.comp = s.mem.comp
  gathers : reg t Key.BELT_GATHERS = reg s Key.BELT_GATHERS

theorem Accounted.refl (cache : Bool) (s : State) : Accounted cache s s :=
  ⟨.refl _, rfl, fun _ => rfl, rfl, rfl, rfl, rfl⟩

theorem Accounted.trans {cache : Bool} {s t u : State} (h : Accounted cache s t) (k : Accounted cache t u) :
    Accounted cache s u where
  quiet id c := ((h.quiet id c).withBelt u.belt).trans (k.quiet id c)
  tables := k.tables.trans h.tables
  hot e := (k.hot e).trans (h.hot e)
  jobs := k.jobs.trans h.jobs
  dev := k.dev.trans h.dev
  comp := k.comp.trans h.comp
  gathers := k.gathers.trans h.gathers

theorem accounted_foldl {α : Type} {cache : Bool} {f : State → α → State} (h : ∀ s x, Accounted cache s (f s x)) (l : List α)
    (s : State) : Accounted cache s (l.foldl f s) := by
  induction l generalizing s with
  | nil => exact .refl cache s
  | cons x l ih => exact (h s x).trans (ih (f s x))

section accounts

variable (cache : Bool)

theorem accounted_recorded {s t : State} (h : Recorded s t) : Accounted cache s t where
  quiet id c := by
    rw [h.stored.side.belt]
    exact h.quiet id c
  tables := congrArg BeltS.tables h.stored.side.belt
  hot _ := h.stored.side.belt
  jobs := h.jobs
  dev := h.dev
  comp := h.comp
  gathers := h.reg (by decide)

theorem accounted_bump (s : State) {k : Nat} (n : Nat) (h : k < 0x200000) (hk : Key.BELT_GATHERS ≠ k) :
    Accounted cache s (bump s k n) :=
  ⟨fun _ _ => quiet_bump s k n _ _ h, rfl, fun _ => rfl, rfl, rfl, rfl, reg_bump_ne s n hk⟩

theorem accounted_countRegion (s : State) (r event n : Nat) (t : Trace) : Accounted cache s (countRegion s r event n t) :=
  accounted_recorded cache (recorded_of_side (side_countRegion s r event n t))

theorem accounted_touchRanges (s : State) (rs : List (Nat × Nat)) : Accounted cache s (touchRanges s rs) :=
  accounted_foldl (fun t (r : Nat × Nat) => accounted_recorded cache (recorded_touchRange t r.1 r.2)) rs s

/-- Other rows in the caches. -/
theorem accounted_hot (s : State) (rows : Tab (List HotRow)) : Accounted true s { s with belt := { s.belt with hot := rows } } :=
  ⟨fun _ _ => .refl _ _ _, rfl, Bool.noConfusion, rfl, rfl, rfl, rfl⟩

theorem accounted_probeRow (s : State) (region addr : Nat) (r : HotRow) : Accounted cache s (probeRow s region addr r cache) := by
  have hread (t : State) : Accounted cache t
      (countRegion (bump t Key.BELT_READS 1) region 0x20B 1 { inst := region, addr := addr }) :=
    (accounted_bump cache t 1 (by decide) (by decide)).trans (accounted_countRegion cache _ _ _ _ _)
  cases cache with
  | false => exact hread s
  | true =>
    unfold probeRow
    dsimp only
    rw [if_neg (by decide)]
    split
    · exact ((accounted_hot s _).trans (accounted_bump true _ 1 (by decide) (by decide))).trans
        (accounted_countRegion true _ _ _ _ _)
    · exact (accounted_hot s _).trans (hread _)

theorem accounted_countIndices (s : State) (region table version d : Nat) (is : List Nat) :
    Accounted cache s (countIndices s region table version d cache is) := by
  have hindices := (accounted_bump cache s is.length (k := Key.BELT_INDICES) (by decide) (by decide)).trans
    (accounted_bump cache _ (is.length - (distinct is).length) (k := Key.BELT_COALESCED) (by decide) (by decide))
  have hdefaults := (hindices.trans
    (accounted_countRegion cache _ region 0x20C (is.length - (distinct is).length) { inst := region })).trans
    (accounted_bump cache _ (is.filter (fun i => (resolve s d i).isNone)).length (k := Key.BELT_DEFAULTS) (by decide) (by decide))
  exact hdefaults.trans (accounted_foldl (fun t r => accounted_probeRow cache t region _ ⟨table, version, r, btRowBytes d⟩) _ _)

end accounts

/-! ### A row is delivered (R260, R261) -/

/-- The row's bytes are bytes. -/
theorem gatherBytes_lt (s : State) (e d row : Nat) : ∀ b ∈ gatherBytes s e d row, b < 256 := by
  intro b hb
  obtain ⟨l, hl, hb⟩ := List.mem_flatten.1 hb
  obtain ⟨v, -, rfl⟩ := List.mem_map.1 hl
  revert hb
  split
  · exact leBytes_lt _ _ b
  · exact leBytes_lt _ _ b

/-- What the delivery of a row brings up to date: the ranges that it read are touched, and the windows that begin in its bag have
their accounts. -/
def rowAccounts (s : State) (j : Job) (d row cache : Nat) (t : State) : State :=
  (windowsIn (reg t Key.BELT_WINDOW) (bagOf s j.entry row).1 (bagOf s j.entry row).2).foldl
    (fun t n => countWindow t (beltOf s j) j.entry j.pin d (cache == 1) n) (touchRanges t (gatherReads s j.entry d row))

theorem accounted_rowAccounts (s : State) (j : Job) (d row cache : Nat) (t : State) :
    Accounted (cache == 1) t (rowAccounts s j d row cache t) :=
  (accounted_touchRanges _ _ _).trans (accounted_foldl (fun u _ => accounted_countIndices _ u _ _ _ _ _) _ _)

/-- A gather goes on with the row after one. -/
def nextOutRow (row cache : Nat) (j : Job) : Job := { j with work := [1, row + 1, cache] }

/-- A row's accounts are made: the gather goes on with the next row, or ends. -/
def rowEnd (id : Nat) (j : Job) (row cache : Nat) (t : State) : State :=
  if row + 1 < blOutRows j.entry then updJob t id (nextOutRow row cache)
  else finish (bump t Key.BELT_GATHERS 1) id Code.OK (j.pin * 2 ^ 32 + blOutRows j.entry)

section rowEnd

variable {t : State} {id row : Nat} {j x : Job} (cache : Nat) (hx : tabGet t.jobs id = some x)

include hx

theorem quiet_rowEnd : Quiet t (rowEnd id j row cache t) id x.ctx := by
  unfold rowEnd
  split
  · exact quiet_updJob _ _ _ _
  · exact (quiet_bump t Key.BELT_GATHERS 1 id x.ctx (by decide)).trans (quiet_finish _ _ hx)

theorem rowEnd_going (h : row + 1 < blOutRows j.entry) :
    tabGet (rowEnd id j row cache t).jobs id = some (nextOutRow row cache x) := by
  unfold rowEnd
  rw [if_pos h, updJob_get, hx]
  rfl

theorem rowEnd_last (h : blOutRows j.entry ≤ row + 1) :
    ends (rowEnd id j row cache t) id Code.OK (j.pin * 2 ^ 32 + blOutRows j.entry) ∧
      reg (rowEnd id j row cache t) Key.BELT_GATHERS = reg (bump t Key.BELT_GATHERS 1) Key.BELT_GATHERS := by
  have hjob : tabGet (bump t Key.BELT_GATHERS 1).jobs id = some x := hx
  unfold rowEnd
  rw [if_neg (Nat.not_lt.2 h)]
  exact ⟨ends_finish _ _ hjob, reg_finish _ _ _ _ _⟩

omit hx in
theorem rowEnd_mem : (rowEnd id j row cache t).mem = t.mem := by
  unfold rowEnd
  split
  · rfl
  · exact finish_mem _ _ _ _

end rowEnd

section row

variable {s : State} {id d row cache : Nat} {j : Job}

/-- A row that reads something uncorrectable ends the gather. -/
theorem gatherRow_unreadable (hbad : ∃ r ∈ gatherReads s j.entry d row, readBad s r.1 r.2 = true) :
    gatherRow s id j d row cache = finish s id Code.ECC_UNCORRECTABLE row := if_pos (List.any_eq_true.2 hbad)

variable (hgood : ∀ r ∈ gatherReads s j.entry d row, readBad s r.1 r.2 = false)

include hgood

theorem gatherReads_good : ¬(gatherReads s j.entry d row).any (fun r => readBad s r.1 r.2) = true := by
  rw [List.any_eq_true]
  rintro ⟨r, hr, hbad⟩
  exact Bool.eq_false_iff.1 (hgood r hr) hbad

/-- A row goes to memory. -/
theorem gatherRow_memory (hmemory : blPocket j.entry = false) :
    gatherRow s id j d row cache =
      withWrite s id (gatherPlace j.entry d row) (gatherBytes s j.entry d row).length (fun t =>
        rowEnd id j row cache (rowAccounts s j d row cache
          (writeBytes t (gatherPlace j.entry d row) (gatherBytes s j.entry d row)))) := by
  have hplace : gatherPlace j.entry d row = blDest j.entry + row * blPitch d j.entry := if_neg (Bool.eq_false_iff.1 hmemory)
  rw [hplace]
  exact (if_neg (gatherReads_good hgood)).trans (if_neg (Bool.eq_false_iff.1 hmemory))

/-- A row goes into a Pocket. -/
theorem gatherRow_pocket (hpocket : blPocket j.entry = true) :
    gatherRow s id j d row cache =
      deliverRows s id j.ctx (blLb j.entry) (gatherPlace j.entry d row / 256) (gatherPlace j.entry d row % 256)
        (gatherBytes s j.entry d row) (fun t => rowEnd id j row cache (rowAccounts s j d row cache t)) := by
  have hplace : gatherPlace j.entry d row = blRow j.entry * 256 + row * blPitch d j.entry := if_pos hpocket
  rw [hplace]
  exact (if_neg (gatherReads_good hgood)).trans (if_pos hpocket)

end row

/-! ### A row in memory -/

theorem Written.withBelt {s t : State} {id c a : Nat} {bs : List Nat} (h : Written s t id c a bs) (b : BeltS) :
    Written (Machine.withBelt s b) (Machine.withBelt t b) id c a bs :=
  ⟨h.written, h.outside, h.beside.withHeld _ _ _ _, h.holdings.withHeld b h.holdings.pocket, h.indexes⟩

theorem Written.ownBelt {s t : State} {b : BeltS} {id c a : Nat} {bs : List Nat}
    (h : Written (Machine.withBelt s b) t id c a bs) : Written { s with belt := t.belt } t id c a bs := by
  have hbelt : t.belt = b := h.holdings.belt
  rw [hbelt]
  exact h

/-- The accounts that are made after a write leave it. -/
theorem Written.accounted {cache : Bool} {s t u : State} {id c a : Nat} {bs : List Nat} (h : Written s t id c a bs)
    (k : Accounted cache t u) : Written (Machine.withBelt s u.belt) u id c a bs where
  written := (congrFun (congrFun (bytesAt_congr k.dev k.comp) a) bs.length).trans h.written
  outside b hb := ((k.quiet id c).bytes b).trans ((h.withBelt u.belt).outside b hb)
  beside := (h.withBelt u.belt).beside.trans (k.quiet id c).beside
  holdings := (h.withBelt u.belt).holdings.trans (k.quiet id c).holdings
  indexes := (k.quiet id c).indexes.trans h.indexes

section memory

variable {s u : State} {id m row cache d : Nat} {j : Job} {x : BeltTable}
  (h : runsNow s id Op.BELT_GATHER beltGatherSources j = true) (hx : tabGet s.belt.tables (blTable j.entry) = some x)
  (hd : tabGet x.versions j.pin = some d) (hw : j.work = [m, row, cache])

include h hx hd hw

theorem exec_beltGather_rowUnreadable (hbad : ∃ r ∈ gatherReads s j.entry d row, readBad s r.1 r.2 = true) :
    ∃ t, exec (.beltGather id) s = .next t ∧ EndsOnly s t id j Code.ECC_UNCORRECTABLE row := by
  refine ⟨_, (exec_beltGather_row h hx hd hw).trans (congrArg (fun t => Host.Outcome.next (unacted t))
    (gatherRow_unreadable (s := acting s j) hbad)), ?_⟩
  exact (endsOnly_finish _ _ (quiet_acting s j id j.ctx) (runsNow_acting h)).unacted

variable (hgood : ∀ r ∈ gatherReads s j.entry d row, readBad s r.1 r.2 = false)

include hgood

/-- A row that goes to memory: written, with its accounts made, in the state `v` from which the gather goes on or ends. -/
theorem exec_beltGather_memory (hmemory : blPocket j.entry = false)
    (hu : prepareWrite (acting s j) (gatherPlace j.entry d row) (gatherBytes s j.entry d row).length = .ready u) :
    ∃ v, exec (.beltGather id) s = .next (unacted (notePosted (rowEnd id j row cache v) id (gatherPlace j.entry d row)
        (gatherBytes s j.entry d row).length)) ∧
      Written (withBelt s v.belt) v id j.ctx (gatherPlace j.entry d row) (gatherBytes s j.entry d row) ∧
      v.belt.tables = s.belt.tables ∧ (cache ≠ 1 → v.belt = s.belt) ∧ tabGet v.jobs id = some j ∧
      reg v Key.BELT_GATHERS = reg s Key.BELT_GATHERS := by
  have hunits := prepareWrite_ready hu
  have hwritten : Written s (writeBytes u (gatherPlace j.entry d row) (gatherBytes s j.entry d row)) id j.ctx
      (gatherPlace j.entry d row) (gatherBytes s j.entry d row) :=
    .of_quiet ((quiet_acting s j id j.ctx).trans (quiet_units hunits id j.ctx))
      (written_writeBytes u id j.ctx _ (gatherBytes_lt s j.entry d row))
  have hacc := accounted_rowAccounts (acting s j) j d row cache
    (writeBytes u (gatherPlace j.entry d row) (gatherBytes s j.entry d row))
  refine ⟨rowAccounts (acting s j) j d row cache (writeBytes u (gatherPlace j.entry d row) (gatherBytes s j.entry d row)), ?_,
    hwritten.accounted hacc, ?_, fun hcache => ?_, ?_, ?_⟩
  · rw [exec_beltGather_row h hx hd hw, gatherRow_memory (s := acting s j) hgood hmemory]
    unfold withWrite
    rw [show gatherBytes (acting s j) j.entry d row = gatherBytes s j.entry d row from rfl, hu]
  · rw [hacc.tables, hwritten.holdings.belt]
  · rw [hacc.hot (beq_false_of_ne hcache), hwritten.holdings.belt]
  · rw [hacc.jobs, jobs_writeBytes, jobs_units hunits]
    exact runsNow_acting h
  · rw [hacc.gathers, reg_writeBytes _ _ _ (by decide), (recorded_units hunits).reg (by decide)]
    rfl

end memory

/-! ### A row in a Pocket (R155, R261) -/

theorem pocketAddr_place (b k : Nat) : pocketAddr b (k / 256) (k % 256) = pocketAddr b 0 k := by
  unfold pocketAddr
  omega

section pocket

variable (s : State) (id c lb k : Nat) (bs : List Nat)

/-- Bytes stand in a logical block from its byte `k` on, with what strays counted. -/
def bytesDelivered : State :=
  lbWrite (countStrays s (ctxOf s c) lb portBelt (k / 256) (if bs.length = 0 then 0 else (k % 256 + bs.length - 1) / 256 + 1))
    (ctxOf s c) lb (k / 256) (k % 256) bs

/-- A delivery made: its slots are FULL, and its command no longer stalls. -/
def deliveryMade : State :=
  updCtx (updJob (bytesDelivered s c lb k bs) id (fun j => { j with stalled := [] })) c
    (fun y => retireSlots y [] (deliverySlots s c lb k bs.length))

theorem withHeld_lbWrite (x : Ctx) (row byte : Nat) (b : BeltS) (p : Mem) :
    withHeld (lbWrite s x lb row byte bs) b p = withHeld s b p := by
  unfold lbWrite
  split <;> rfl

theorem quiet_deliveryMade (b : BeltS) (p : Mem) :
    Quiet (withHeld s b p) (withHeld (deliveryMade s id c lb k bs) b p) id c := by
  have hstrays : Quiet (withHeld s b p) (withHeld (bytesDelivered s c lb k bs) b p) id c := by
    unfold bytesDelivered
    rw [withHeld_lbWrite]
    exact (quiet_countStrays s _ _ _ _ id c).withHeld b rfl
  exact hstrays.trans (((quiet_updJob _ id c _).trans (quiet_updCtx _ id c _)).withHeld b rfl)

theorem pocketWork_bytesDelivered : PocketWork s (bytesDelivered s c lb k bs) :=
  (still_countStrays s _ _ _ _ (by decide)).pocketWork.trans (pocketWork_lbWrite _ _ _ _ _ _)

theorem reg_deliveryMade : reg (deliveryMade s id c lb k bs) Key.BELT_GATHERS = reg s Key.BELT_GATHERS := by
  have hwrite (t : State) (x : Ctx) (row byte : Nat) : (lbWrite t x lb row byte bs).regs = t.regs := by
    unfold lbWrite
    split <;> rfl
  calc reg (deliveryMade s id c lb k bs) Key.BELT_GATHERS
      = reg (bytesDelivered s c lb k bs) Key.BELT_GATHERS := reg_congr (updCtx_regs _ _ _) _
    _ = reg s Key.BELT_GATHERS := (reg_congr (hwrite _ _ _ _) _).trans (reg_countStrays (by decide) (by decide) _ _ _ _ _)

variable {s id c lb k bs}

theorem deliveryMade_job {j : Job} (hj : tabGet s.jobs id = some j) :
    tabGet (deliveryMade s id c lb k bs).jobs id = some { j with stalled := [] } := by
  unfold deliveryMade
  rw [updCtx_jobs, updJob_get, (pocketWork_bytesDelivered s c lb k bs).calm.jobs, hj]
  rfl

/-- The delivered bytes stand in the Pocket, and no other byte of it differs. -/
theorem deliveryMade_pocket {b : Nat} (hb : ∀ x ∈ bs, x < 256) (hphys : physBlock (ctxOf s c) lb = some b) :
    pocketRead (deliveryMade s id c lb k bs) b 0 k bs.length = bs ∧
      ∀ a, a < pocketAddr b 0 k ∨ pocketAddr b 0 k + bs.length ≤ a →
        memByte (deliveryMade s id c lb k bs).pocket a = memByte s.pocket a := by
  have hpocket : (deliveryMade s id c lb k bs).pocket = (bytesDelivered s c lb k bs).pocket := rfl
  rw [pocketRead_congr hpocket, hpocket]
  refine ⟨?_, fun a ha => ?_⟩
  · unfold pocketRead
    rw [← pocketAddr_place]
    exact pocketRead_lbWrite _ _ _ _ hphys hb
  · rw [← pocketAddr_place] at ha
    unfold bytesDelivered lbWrite
    rw [hphys]
    exact (memByte_memWrite_out _ _ _ ha).trans (by rw [(still_countStrays s _ _ _ _ (port := portBelt) (by decide)).pocket])

theorem deliverRows_made (go : State → State) (h : claimable (ctxOf s c) [] (deliverySlots s c lb k bs.length) = true) :
    deliverRows s id c lb (k / 256) (k % 256) bs go = go (deliveryMade s id c lb k bs) := by
  have hrows : (if bs.isEmpty = true then 0 else (k % 256 + bs.length - 1) / 256 + 1) =
      if bs.length = 0 then 0 else (k % 256 + bs.length - 1) / 256 + 1 := by
    simp only [List.isEmpty_iff, List.length_eq_zero_iff]
  unfold deliverRows
  dsimp only
  rw [hrows]
  exact if_pos h

end pocket

/-- A row of a gather has been delivered into its Pocket. -/
def rowDelivered (s : State) (id : Nat) (j : Job) (d row : Nat) : State :=
  deliveryMade (acting s j) id j.ctx (blLb j.entry) (gatherPlace j.entry d row) (gatherBytes s j.entry d row)

/-- A row that goes into a Pocket: delivered, with its accounts made, in the state `v` from which the gather goes on or ends. -/
theorem exec_beltGather_pocket {s : State} {id m row cache d b : Nat} {j : Job} {x : BeltTable}
    (h : runsNow s id Op.BELT_GATHER beltGatherSources j = true) (hx : tabGet s.belt.tables (blTable j.entry) = some x)
    (hd : tabGet x.versions j.pin = some d) (hw : j.work = [m, row, cache])
    (hgood : ∀ r ∈ gatherReads s j.entry d row, readBad s r.1 r.2 = false) (hpocket : blPocket j.entry = true)
    (hphys : physBlock (ctxOf s j.ctx) (blLb j.entry) = some b)
    (hclaim : claimable (ctxOf s j.ctx) [] (deliverySlots s j.ctx (blLb j.entry) (gatherPlace j.entry d row)
      (gatherBytes s j.entry d row).length) = true) :
    ∃ v, exec (.beltGather id) s = .next (unacted (rowEnd id j row cache v)) ∧
      Quiet (withHeld s v.belt v.pocket) v id j.ctx ∧
      (pocketRead v b 0 (gatherPlace j.entry d row) (gatherBytes s j.entry d row).length = gatherBytes s j.entry d row ∧
        ∀ k, k < pocketAddr b 0 (gatherPlace j.entry d row) ∨
          pocketAddr b 0 (gatherPlace j.entry d row) + (gatherBytes s j.entry d row).length ≤ k →
          memByte v.pocket k = memByte s.pocket k) ∧
      v.belt.tables = s.belt.tables ∧ (cache ≠ 1 → v.belt = s.belt) ∧ tabGet v.jobs id = some { j with stalled := [] } ∧
      reg v Key.BELT_GATHERS = reg s Key.BELT_GATHERS := by
  have hacc := accounted_rowAccounts (acting s j) j d row cache (rowDelivered s id j d row)
  have hquiet (e : BeltS) (p : Mem) : Quiet (withHeld s e p) (withHeld (rowDelivered s id j d row) e p) id j.ctx :=
    ((quiet_acting s j id j.ctx).withHeld e rfl).trans (quiet_deliveryMade (acting s j) id j.ctx _ _ _ e p)
  have hbelt : (rowDelivered s id j d row).belt = s.belt :=
    (pocketWork_bytesDelivered (acting s j) j.ctx _ _ _).calm.belt
  have hkept : (rowAccounts (acting s j) j d row cache (rowDelivered s id j d row)).pocket = (rowDelivered s id j d row).pocket :=
    (hacc.quiet id j.ctx).holdings.pocket
  refine ⟨rowAccounts (acting s j) j d row cache (rowDelivered s id j d row), ?_, ?_, ?_,
    hacc.tables.trans (congrArg BeltS.tables hbelt), fun hcache => (hacc.hot (beq_false_of_ne hcache)).trans hbelt, ?_, ?_⟩
  · rw [exec_beltGather_row h hx hd hw, gatherRow_pocket (s := acting s j) hgood hpocket]
    exact congrArg (fun t => Host.Outcome.next (unacted t)) (deliverRows_made (s := acting s j) _ hclaim)
  · rw [hkept]
    exact (hquiet _ _).trans (hacc.quiet id j.ctx)
  · rw [pocketRead_congr hkept, hkept]
    exact deliveryMade_pocket (s := acting s j) (gatherBytes_lt s j.entry d row) hphys
  · rw [hacc.jobs]
    exact deliveryMade_job (runsNow_acting h)
  · rw [hacc.gathers]
    exact reg_deliveryMade (acting s j) id j.ctx _ _ _

/-! ### The statement -/

/-- Settles O53: a table command changes its one table once its descriptor has passed, and each step of a gather is its branch
of the start or its one row delivered, with the row's accounts. -/
theorem beltCommands : Obligations.BeltCommands := by
  unfold Obligations.BeltCommands
  refine ⟨?create, ?replace, ?drop, ?start, ?row⟩
  case create =>
    intro s id d j h hd
    subst hd
    refine ⟨fun hbad => ⟨_, runJob_next h rfl, descriptor_unreadable h hbad⟩,
      fun hgood hversion => ⟨_, runJob_next h rfl, descriptor_version h hgood hversion⟩,
      fun hgood hversion hbad => ?_, fun hgood hversion hfields hnew => ?_⟩
    · cases hfields : btFieldsBad s (natAt s (blIdx j.entry) 64) with
      | true => exact ⟨_, runJob_next h rfl, descriptor_fields h hgood hversion hfields⟩
      | false =>
        exact exec_beltTableCreate_known h hgood hversion hfields (hbad.resolve_left (Bool.eq_false_iff.1 hfields))
    · obtain ⟨t, hexec, hends, hbelt, hreg, hquiet⟩ := exec_beltTableCreate_new h hgood hversion hfields hnew
      refine ⟨t, hexec, hends, fun k => ?_, (congrArg BeltS.hot hbelt).trans rfl, hreg, hquiet⟩
      rw [hbelt]
      exact tabGet_tabSet _ _ _ _
  case replace =>
    intro s id d v j x h hd hx hcurrent
    subst hd
    refine ⟨fun hbad => ⟨_, runJob_next h rfl, descriptor_unreadable h hbad⟩,
      fun hgood hversion => ⟨_, runJob_next h rfl, descriptor_version h hgood hversion⟩,
      fun hgood hversion hbad => ⟨_, runJob_next h rfl, descriptor_fields h hgood hversion hbad⟩,
      fun hgood hversion hfields => ⟨exec_beltTableReplace_full h hx hcurrent hgood hversion hfields, fun hroom => ?_⟩⟩
    obtain ⟨t, hexec, hends, hbelt, hquiet⟩ := exec_beltTableReplace_next h hx hcurrent hgood hversion hfields hroom
    refine ⟨t, hexec, hends, fun k => ?_, (congrArg BeltS.hot hbelt).trans rfl, hquiet⟩
    rw [hbelt]
    split
    · next hk =>
      subst hk
      exact (tabGet_tabUpd_self _ _ _).trans (by rw [hx]; rfl)
    · next hk => exact tabGet_tabUpd_ne _ _ hk
  case drop =>
    intro s id j h
    refine ⟨exec_beltTableDrop_other h, fun x hx hmine => ⟨exec_beltTableDrop_waits h hx hmine, fun hfreed => ?_⟩⟩
    obtain ⟨t, hexec, hends, hbelt, hreg, hquiet⟩ := exec_beltTableDrop_freed h hx hmine hfreed
    refine ⟨t, hexec, hends, fun k => ?_, (congrArg BeltS.hot hbelt).trans rfl, hreg, hquiet⟩
    rw [hbelt]
    split
    · next hk => exact hk ▸ tabGet_tabDel_self _ _
    · next hk => exact tabGet_tabDel_ne _ hk
  case start =>
    intro s id d j x h hx hd hw
    exact ⟨exec_beltGather_waits h hx hd hw, fun hturn => ⟨exec_beltGather_unreadable h hx hd hw hturn,
      fun p => exec_beltGather_offset h hx hd hw hturn, exec_beltGather_starts h hx hd hw hturn⟩⟩
  case row =>
    intro s id m row cache d j x h hx hd hw
    refine ⟨exec_beltGather_rowUnreadable h hx hd hw, fun u hgood hmemory hu => ?_, fun b hgood hpocket hphys hclaim => ?_⟩
    · obtain ⟨v, hexec, hwritten, htables, hhot, hjob, hreg⟩ := exec_beltGather_memory h hx hd hw hgood hmemory hu
      have hend := ((quiet_rowEnd (j := j) (row := row) cache hjob).trans (quiet_notePosted _ id (gatherPlace j.entry d row)
        (gatherBytes s j.entry d row).length id j.ctx)).trans (quiet_unacted _ id j.ctx)
      have hdone := (hwritten.quiet hend ((notePosted_mem _ _ _ _).trans (rowEnd_mem cache))).ownBelt
      refine ⟨_, hexec, hend.holdings.belt ▸ htables, fun hcache => hend.holdings.belt.trans (hhot hcache), fun hmore => ⟨?_,
        hdone.written, hdone.outside, hdone.beside.ofHeld, hdone.holdings, hdone.indexes⟩, fun hlast => ?_⟩
      · rw [unacted_jobs, notePosted_jobs]
        exact rowEnd_going cache hjob hmore
      · obtain ⟨hends, hcount⟩ := rowEnd_last cache hjob hlast
        refine ⟨⟨(ends_congr (notePosted_jobs _ _ _ _)).2 hends, hdone.written, hdone.outside, hdone.beside, hdone.holdings,
          hdone.indexes⟩, ?_⟩
        exact ((reg_congr (notePosted_regs _ _ _ _) _).trans hcount).trans (reg_bump_congr 1 hreg)
    · obtain ⟨v, hexec, hquiet, ⟨hin, hout⟩, htables, hhot, hjob, hreg⟩ :=
        exec_beltGather_pocket h hx hd hw hgood hpocket hphys hclaim
      have hend := (quiet_rowEnd (j := j) (row := row) cache hjob).trans (quiet_unacted _ id j.ctx)
      refine ⟨_, hexec, hend.holdings.belt ▸ htables, fun hcache => hend.holdings.belt.trans (hhot hcache),
        (pocketRead_congr hend.holdings.pocket _ _ _ _).trans hin, fun k hk => ?_, (hquiet.trans hend).ownHeld,
        fun hmore => rowEnd_going cache hjob hmore, fun hlast => ?_⟩
      · rw [hend.holdings.pocket]
        exact hout k hk
      · obtain ⟨hends, hcount⟩ := rowEnd_last cache hjob hlast
        exact ⟨hends, hcount.trans (reg_bump_congr 1 hreg)⟩

end Sys2Proof.Machine

/-! SUPPORT. Re-ranking and prompt packing (chapter 13): what a pinned epoch leaves, the rows that a Belt has taken in for
another command, a batch that is delivered to the Pockets, and writes that leave for a peer. -/

namespace Sys2Proof.Machine

/-! ### A command that ends before it has done anything -/

/-- A running command whose body ends it at once. -/
theorem endsOnly_at_once {s : State} {id op : Nat} {src : State → Job → List (Nat × Nat)} {j : Job}
    (h : runsNow s id op src j = true) (st r : Nat) : EndsOnly s (unacted (finish (acting s j) id st r)) id j st r :=
  (endsOnly_finish st r (quiet_acting s j id j.ctx) (runsNow_acting h)).unacted

theorem runsNow_open {s : State} {id op : Nat} {src : State → Job → List (Nat × Nat)} {j : Job}
    (h : runsNow s id op src j = true) : openJob j = true := by
  simp only [runsNow, eligible, Bool.and_eq_true] at h
  obtain ⟨⟨⟨⟨⟨⟨-, ⟨⟨⟨⟨⟨-, -⟩, hopen⟩, -⟩, -⟩, -⟩, -⟩, -⟩, -⟩, -⟩, -⟩, -⟩ := h
  exact hopen

/-! ### Steps that change one part of the state -/

/-- The state with other runs of array programs. -/
def withRuns (s : State) (a : ArrayS) : State := { s with array := a }

theorem quiet_withRuns (s : State) (a : ArrayS) (id c : Nat) : Quiet s (withRuns s a) id c :=
  ⟨fun _ => rfl, ⟨fun _ _ => rfl, fun _ _ => rfl, rfl, rfl, rfl, rfl, rfl, rfl, rfl, rfl, rfl, rfl, rfl, rfl, rfl,
    fun _ _ => rfl⟩, ⟨rfl, rfl, rfl, rfl, rfl, rfl, rfl, rfl⟩, rfl⟩

/-- The state with another fabric. -/
def withFabric (s : State) (p : PelganS) : State := { s with pelgan := p }

theorem quiet_withFabric (s : State) (p : PelganS) (id c : Nat) : Quiet s (withFabric s p) id c :=
  ⟨fun _ => rfl, ⟨fun _ _ => rfl, fun _ _ => rfl, rfl, rfl, rfl, rfl, rfl, rfl, rfl, rfl, rfl, rfl, rfl, rfl, rfl,
    fun _ _ => rfl⟩, ⟨rfl, rfl, rfl, rfl, rfl, rfl, rfl, rfl⟩, rfl⟩

/-! ### Pins of epochs (R215, R269) -/

/-- The state with other indexes. -/
def withIndexes (s : State) (ix : Tab Index) : State := { s with indexes := ix }

theorem Beside.ofIndexes {s t : State} {ix : Tab Index} {id c : Nat} (h : Beside (withIndexes s ix) t id c) :
    Beside s t id c :=
  ⟨h.jobs, h.ctxs, h.start, h.fatal, h.alerts, h.eeprom, h.hem, h.queues, h.jobNext, h.chip, h.sec, h.power, h.test, h.log,
    h.locks, h.settings⟩

theorem HoldingsKept.ofIndexes {s t : State} {ix : Tab Index} (h : HoldingsKept (withIndexes s ix) t) : HoldingsKept s t :=
  ⟨h.models, h.vocabs, h.grammars, h.belt, h.kv, h.gens, h.pocket, h.acc⟩

theorem Quiet.withIndexes {s t : State} {id c : Nat} (h : Quiet s t id c) (ix : Tab Index) :
    Quiet (Machine.withIndexes s ix) (Machine.withIndexes t ix) id c :=
  ⟨h.bytes, ⟨h.beside.jobs, h.beside.ctxs, h.beside.start, h.beside.fatal, h.beside.alerts, h.beside.eeprom, h.beside.hem,
    h.beside.queues, h.beside.jobNext, h.beside.chip, h.beside.sec, h.beside.power, h.beside.test, h.beside.log, h.beside.locks,
    h.beside.settings⟩, ⟨h.holdings.models, h.holdings.vocabs, h.holdings.grammars, h.holdings.belt, h.holdings.kv,
    h.holdings.gens, h.holdings.pocket, h.holdings.acc⟩, rfl⟩

/-- A step that is quiet but for the indexes is quiet beside those that it leaves. -/
theorem Quiet.ownIndexes {s t : State} {ix : Tab Index} {id c : Nat} (h : Quiet (Machine.withIndexes s ix) t id c) :
    Quiet { s with indexes := t.indexes } t id c := by
  have hix : t.indexes = ix := h.indexes
  rw [hix]
  exact h

/-- An epoch noted as a command's own. -/
def notePin (e : Nat) (j : Job) : Job := { j with pin := e }

/-- A command has noted an epoch as its own, and pins it. -/
def epochPinned (s : State) (i id e : Nat) : State := pinEpoch (updJob s id (notePin e)) i id e

theorem epochPinned_indexes (s : State) (i id e : Nat) : (epochPinned s i id e).indexes =
    tabUpd s.indexes i (fun x => { x with pins := tabSet (openPins (updJob s id (notePin e)) x) id e }) := rfl

theorem isOpen_updJob (s : State) (id i : Nat) {f : Job → Job} (h : ∀ j, openJob (f j) = openJob j) :
    isOpen (updJob s id f) i = isOpen s i := by
  unfold isOpen
  by_cases hi : i = id
  · subst hi
    rw [updJob_get]
    cases tabGet s.jobs i with
    | none => rfl
    | some j => exact h j
  · rw [updJob_get_ne _ _ hi]

theorem openPins_noted (s : State) (id e : Nat) (x : Index) :
    openPins (updJob s id (notePin e)) x = openPins s x :=
  List.filter_congr fun p _ => isOpen_updJob s id p.1 fun _ => rfl

section pinned

variable {s : State} {i id e : Nat} {x : Index}

theorem pinned_epochPinned (hx : tabGet s.indexes i = some x) : pinned s (epochPinned s i id e) i id e x := by
  intro k
  rw [epochPinned_indexes]
  split
  · next hk =>
    subst hk
    rw [tabGet_tabUpd_self, hx]
    exact congrArg (fun ps => some { x with pins := tabSet ps id e }) (openPins_noted s id e x)
  · next hk => exact tabGet_tabUpd_ne _ _ hk

theorem pinned_congr {t u : State} (h : pinned s t i id e x) (hix : u.indexes = t.indexes) : pinned s u i id e x :=
  fun k => (congrArg (fun ix => tabGet ix k) hix).trans (h k)

theorem epochPinned_job {j : Job} (hj : tabGet s.jobs id = some j) :
    tabGet (epochPinned s i id e).jobs id = some (notePin e j) :=
  (updJob_get s id (notePin e)).trans (by rw [hj]; rfl)

theorem quiet_epochPinned (s : State) (i id e c : Nat) :
    Quiet (withIndexes s (epochPinned s i id e).indexes) (epochPinned s i id e) id c :=
  (quiet_updJob s id c (notePin e)).withIndexes _

/-- An epoch that is not yet current is refused. -/
theorem pinHeader_later (h : x.current < e) : pinHeader s i id e x = .inl Code.BAD_FIELD := if_pos h

/-- An epoch older than those retained is refused. -/
theorem pinHeader_retired (h : e ≤ x.current) (hold : e < oldestOf s x) : pinHeader s i id e x = .inl Code.EPOCH_RETIRED :=
  (if_neg (Nat.not_lt.2 h)).trans (if_pos hold)

theorem pinHeader_pinned (h : e ≤ x.current) (hold : oldestOf s x ≤ e) :
    pinHeader s i id e x = .inr (epochPinned s i id e) :=
  (if_neg (Nat.not_lt.2 h)).trans (if_neg (Nat.not_lt.2 hold))

end pinned

/-! ### What commands read and the Belts take in (R262, R271) -/

theorem recorded_touchRanges (s : State) (rs : List (Nat × Nat)) : Recorded s (touchRanges s rs) := by
  induction rs generalizing s with
  | nil => exact recorded_of_side (.refl s)
  | cons r rs ih => exact (recorded_touchRange s r.1 r.2).trans (ih _)

section observed

variable {β : Type} (obs : State → β)
  (hbump : ∀ t k n, k ∈ [Key.BELT_INDICES, Key.BELT_COALESCED, Key.BELT_DEFAULTS, Key.BELT_READS, Key.BELT_CACHE_HITS] →
    obs (bump t k n) = obs t)
  (hcount : ∀ t r event n tr, obs (countRegion t r event n tr) = obs t)
  (hhot : ∀ (t : State) rows, obs { t with belt := { t.belt with hot := rows } } = obs t)

include hbump hcount hhot

theorem obs_probeRow (s : State) (region addr : Nat) (r : HotRow) (cache : Bool) :
    obs (probeRow s region addr r cache) = obs s := by
  have hread (t : State) : obs (countRegion (bump t Key.BELT_READS 1) region 0x20B 1 { inst := region, addr := addr }) =
      obs t :=
    (hcount _ _ _ _ _).trans (hbump t _ 1 (by simp))
  cases cache with
  | false => exact hread s
  | true =>
    unfold probeRow
    dsimp only
    rw [if_neg (by decide)]
    split
    · exact (hcount _ _ _ _ _).trans ((hbump _ _ 1 (by simp)).trans (hhot s _))
    · exact (hread _).trans (hhot s _)

/-- What a Belt takes in changes no more than counters of the Belts and of the regions, and the rows that its caches hold. -/
theorem obs_countIndices (s : State) (region table version d : Nat) (cache : Bool) (is : List Nat) :
    obs (countIndices s region table version d cache is) = obs s := by
  refine (foldl_keeps_obs obs _ _ (fun t r _ => obs_probeRow obs hbump hcount hhot t region _ _ cache) _).trans ?_
  calc _ = obs (countRegion (bump (bump s Key.BELT_INDICES is.length) Key.BELT_COALESCED (is.length - (distinct is).length))
          region 0x20C (is.length - (distinct is).length) { inst := region }) := hbump _ _ _ (by simp)
    _ = obs (bump (bump s Key.BELT_INDICES is.length) Key.BELT_COALESCED (is.length - (distinct is).length)) := hcount _ _ _ _ _
    _ = obs (bump s Key.BELT_INDICES is.length) := hbump _ _ _ (by simp)
    _ = obs s := hbump _ _ _ (by simp)

theorem obs_countGathered (s : State) (region table version d : Nat) (is : List Nat) :
    obs (countGathered s region table version d is) = obs s :=
  foldl_keeps_obs obs _ _ (fun t w _ => obs_countIndices obs hbump hcount hhot t region table version d _ w) s

theorem obs_countEmbeddings (s : State) (id c table emb blocks : Nat) (toks : List Nat) :
    obs (countEmbeddings s id c table emb blocks toks) = obs s :=
  foldl_keeps_obs obs _ _ (fun t r _ => obs_countGathered obs hbump hcount hhot t r table _ emb _) s

end observed

theorem countEmbeddings_array (s : State) (id c table emb blocks : Nat) (toks : List Nat) :
    (countEmbeddings s id c table emb blocks toks).array = s.array :=
  obs_countEmbeddings State.array (fun _ _ _ _ => rfl) (fun _ _ _ _ _ => (side_countRegion _ _ _ _ _).array) (fun _ _ => rfl)
    s id c table emb blocks toks

theorem reg_countGathered (s : State) (region table version d : Nat) (is : List Nat) :
    reg (countGathered s region table version d is) Key.XRANK_COMMANDS = reg s Key.XRANK_COMMANDS := by
  refine obs_countGathered (fun t => reg t Key.XRANK_COMMANDS) (fun t k n hk => reg_bump_ne t n ?_)
    (fun _ _ _ _ _ => (side_countRegion _ _ _ _ _).regs _ (by decide)) (fun _ _ => rfl) s region table version d is
  rintro rfl
  exact absurd hk (by decide)

/-- The accounts of a Belt, whatever its caches do. -/
theorem Accounted.cached {cache : Bool} {s t : State} (h : Accounted cache s t) : Accounted true s t :=
  ⟨h.quiet, h.tables, Bool.noConfusion, h.jobs, h.dev, h.comp, h.gathers⟩

theorem accounted_countGathered (s : State) (region table version d : Nat) (is : List Nat) :
    Accounted true s (countGathered s region table version d is) :=
  accounted_foldl (fun t w => (accounted_countIndices _ t region table version d w).cached) _ s

theorem accounted_countEmbeddings (s : State) (id c table emb blocks : Nat) (toks : List Nat) :
    Accounted true s (countEmbeddings s id c table emb blocks toks) :=
  accounted_foldl (fun t r => accounted_countGathered t r table _ emb _) _ s

end Sys2Proof.Machine

/-! SUPPORT. CROSS_RERANK (R268 to R273): its start, the batches that it delivers and runs, the scores that it takes, and its
end. -/

namespace Sys2Proof.Machine

/-! ### The start of a CROSS_RERANK (R268, R269) -/

/-- A command starts on its work. -/
def startWork (j : Job) : Job := { j with phase := .running, work := [1] }

/-- What the check of a CROSS_RERANK's fields finds bad. -/
def xrFieldsBad (s : State) (id : Nat) (j : Job) : Bool :=
  !rangeOk s (xrCand j.entry) (candidateBytes s (xrCand j.entry)) || xrDescBad s j.ctx id (natAt s (xrSrc j.entry) 64) ||
    (xrInputs s j.entry).any (fun r => bytesMeet r.1 r.2 (xrDest j.entry) (64 + 16 * xrKout j.entry)) ||
    shResCount (natAt s (xrCand j.entry) 64) < xrKout j.entry && shResCount (natAt s (xrCand j.entry) 64) != 0

theorem xrFieldsBad_iff {s : State} {id : Nat} {j : Job} : xrFieldsBad s id j = true ↔
    rangeOk s (xrCand j.entry) (candidateBytes s (xrCand j.entry)) = false ∨
      xrDescBad s j.ctx id (natAt s (xrSrc j.entry) 64) = true ∨
      (∃ r ∈ xrInputs s j.entry, bytesMeet r.1 r.2 (xrDest j.entry) (64 + 16 * xrKout j.entry) = true) ∨
      (shResCount (natAt s (xrCand j.entry) 64) < xrKout j.entry ∧ shResCount (natAt s (xrCand j.entry) 64) ≠ 0) := by
  simp only [xrFieldsBad, Bool.or_eq_true, Bool.and_eq_true, Bool.not_eq_true', List.any_eq_true, decide_eq_true_eq, bne_iff_ne,
    or_assoc]

/-- A CROSS_RERANK that has pinned its epoch: it starts when all its inputs can be read. -/
def xrPinned (s : State) (id epoch : Nat) (j : Job) (x : Index) : State :=
  if (xrInputs s j.entry).any (fun r => readBad s r.1 r.2) ||
      textsBad s x ((xrScored s x (notePin epoch j)).map (fun c => c.passage)) then
    finish s id Code.ECC_UNCORRECTABLE 0
  else updJob (touchRanges s (xrInputs s j.entry)) id startWork

/-- The start of a CROSS_RERANK whose descriptor and header are at hand. -/
theorem xrStart_read {s : State} {id : Nat} {j : Job} {x : Index} (hsrc : readBad s (xrSrc j.entry) 64 = false)
    (hcand : readBad s (xrCand j.entry) 64 = false) (hmore : j.more = true ∨ inWindow (xrCand j.entry) = false) :
    xrStart s id j x =
      if (field (natAt s (xrSrc j.entry) 64) 0 8 != 1 || field (natAt s (xrCand j.entry) 64) 0 8 != 1) = true then
        finish s id Code.VERSION_UNSUPPORTED 0
      else if xrFieldsBad s id j = true then finish s id Code.BAD_FIELD 0
      else if (shResCount (natAt s (xrCand j.entry) 64) == 0) = true then finish s id Code.OK_NOOP 0
      else match pinHeader s (xrIndex j.entry) id (shResEpoch (natAt s (xrCand j.entry) 64)) x with
        | .inl st => finish s id st 0
        | .inr t => xrPinned t id (shResEpoch (natAt s (xrCand j.entry) 64)) j x := by
  have hgood : ¬(readBad s (xrSrc j.entry) 64 || readBad s (xrCand j.entry) 64) = true := by simp [hsrc, hcand]
  have hhere : j.more = true ∨ windowRanges [(xrCand j.entry, candidateBytes s (xrCand j.entry))] = [] :=
    hmore.imp_right fun h => by simp [windowRanges, h]
  unfold xrStart
  dsimp only
  rw [if_neg hgood, fetchMore_fetched _ hhere]
  rfl

theorem xrDescBad_acting (s : State) (j : Job) (c id d : Nat) : xrDescBad (acting s j) c id d = xrDescBad s c id d := by
  have hmodel : modelOf (acting s j) = modelOf s := rfl
  have hrun : arrayRunCheck (acting s j) = arrayRunCheck s := rfl
  have hdesc : pinnedDesc (acting s j) = pinnedDesc s := rfl
  have hrange : rangeOk (acting s j) = rangeOk s := rfl
  have hrows : contextRows (acting s j) = contextRows s := rfl
  have hctx : ctxOf (acting s j) = ctxOf s := rfl
  unfold xrDescBad
  rw [hmodel, hrun, hdesc, hrange, hrows, hctx]

theorem xrFieldsBad_acting (s : State) (id : Nat) (j : Job) : xrFieldsBad (acting s j) id j = xrFieldsBad s id j := by
  unfold xrFieldsBad
  rw [xrDescBad_acting]
  rfl

section start

variable {s : State} {id : Nat} {j : Job} {x : Index} (h : runsNow s id Op.CROSS_RERANK crossRerankSources j = true)
  (hx : tabGet s.indexes (xrIndex j.entry) = some x)

include hx

theorem crossRerankBody_start (hw : j.work = []) : crossRerankBody (acting s j) id j = xrStart (acting s j) id j x := by
  unfold crossRerankBody
  dsimp only
  rw [show tabGet (acting s j).indexes (xrIndex j.entry) = some x from hx]
  dsimp only
  rw [hw]

variable (hw : j.work = []) (hsrc : readBad s (xrSrc j.entry) 64 = false) (hcand : readBad s (xrCand j.entry) 64 = false)
  (hmore : j.more = true ∨ inWindow (xrCand j.entry) = false)

include h hw hsrc hcand hmore

theorem exec_crossRerank_version
    (hversion : field (natAt s (xrSrc j.entry) 64) 0 8 ≠ 1 ∨ field (natAt s (xrCand j.entry) 64) 0 8 ≠ 1) :
    ∃ t, exec (.crossRerank id) s = .next t ∧ EndsOnly s t id j Code.VERSION_UNSUPPORTED 0 := by
  have hbad : (field (natAt s (xrSrc j.entry) 64) 0 8 != 1 || field (natAt s (xrCand j.entry) 64) 0 8 != 1) = true := by
    simpa [Bool.or_eq_true, bne_iff_ne] using hversion
  exact ⟨_, runJob_next h ((crossRerankBody_start hx hw).trans
    ((xrStart_read (s := acting s j) hsrc hcand hmore).trans (if_pos hbad))), endsOnly_at_once h _ _⟩

variable (hd : field (natAt s (xrSrc j.entry) 64) 0 8 = 1) (hh : field (natAt s (xrCand j.entry) 64) 0 8 = 1)

include hd hh

omit h in
theorem crossRerankBody_version : crossRerankBody (acting s j) id j =
    if xrFieldsBad s id j = true then finish (acting s j) id Code.BAD_FIELD 0
    else if (shResCount (natAt s (xrCand j.entry) 64) == 0) = true then finish (acting s j) id Code.OK_NOOP 0
    else match pinHeader (acting s j) (xrIndex j.entry) id (shResEpoch (natAt s (xrCand j.entry) 64)) x with
      | .inl st => finish (acting s j) id st 0
      | .inr t => xrPinned t id (shResEpoch (natAt s (xrCand j.entry) 64)) j x := by
  have hversion : ¬(field (natAt s (xrSrc j.entry) 64) 0 8 != 1 || field (natAt s (xrCand j.entry) 64) 0 8 != 1) = true := by
    simp [hd, hh]
  have hbody := (crossRerankBody_start (id := id) hx hw).trans
    ((xrStart_read (s := acting s j) hsrc hcand hmore).trans (if_neg hversion))
  rw [xrFieldsBad_acting] at hbody
  exact hbody

theorem exec_crossRerank_fields (hbad : xrFieldsBad s id j = true) :
    ∃ t, exec (.crossRerank id) s = .next t ∧ EndsOnly s t id j Code.BAD_FIELD 0 :=
  ⟨_, runJob_next h ((crossRerankBody_version hx hw hsrc hcand hmore hd hh).trans (if_pos hbad)), endsOnly_at_once h _ _⟩

variable (hfields : xrFieldsBad s id j = false)

include hfields

theorem exec_crossRerank_noop (hnone : shResCount (natAt s (xrCand j.entry) 64) = 0) :
    ∃ t, exec (.crossRerank id) s = .next t ∧ EndsOnly s t id j Code.OK_NOOP 0 :=
  ⟨_, runJob_next h ((crossRerankBody_version hx hw hsrc hcand hmore hd hh).trans
    ((if_neg (Bool.eq_false_iff.1 hfields)).trans (if_pos (beq_iff_eq.2 hnone)))), endsOnly_at_once h _ _⟩

variable (hsome : shResCount (natAt s (xrCand j.entry) 64) ≠ 0)

include hsome

omit h in
theorem crossRerankBody_pins : crossRerankBody (acting s j) id j =
    match pinHeader (acting s j) (xrIndex j.entry) id (shResEpoch (natAt s (xrCand j.entry) 64)) x with
      | .inl st => finish (acting s j) id st 0
      | .inr t => xrPinned t id (shResEpoch (natAt s (xrCand j.entry) 64)) j x := by
  rw [crossRerankBody_version hx hw hsrc hcand hmore hd hh, if_neg (Bool.eq_false_iff.1 hfields), if_neg (by simpa using hsome)]

/-- An epoch that cannot be pinned ends the command. -/
theorem exec_crossRerank_epoch {st : Nat}
    (hpin : pinHeader (acting s j) (xrIndex j.entry) id (shResEpoch (natAt s (xrCand j.entry) 64)) x = .inl st) :
    ∃ t, exec (.crossRerank id) s = .next t ∧ EndsOnly s t id j st 0 := by
  refine ⟨_, runJob_next h ((crossRerankBody_pins hx hw hsrc hcand hmore hd hh hfields hsome).trans ?_),
    endsOnly_at_once h _ _⟩
  rw [hpin]

/-- A CROSS_RERANK whose inputs can be read starts, with its epoch pinned. -/
theorem exec_crossRerank_starts
    (hlate : shResEpoch (natAt s (xrCand j.entry) 64) ≤ x.current)
    (hold : oldestOf s x ≤ shResEpoch (natAt s (xrCand j.entry) 64))
    (hinputs : ∀ r ∈ xrInputs s j.entry, readBad s r.1 r.2 = false)
    (htexts : textsBad s x ((xrScored s x (notePin (shResEpoch (natAt s (xrCand j.entry) 64)) j)).map (fun c => c.passage)) =
      false) :
    ∃ t, exec (.crossRerank id) s = .next t ∧ pinned s t (xrIndex j.entry) id (shResEpoch (natAt s (xrCand j.entry) 64)) x ∧
      tabGet t.jobs id = some (startWork (notePin (shResEpoch (natAt s (xrCand j.entry) 64)) j)) ∧
      Quiet { s with indexes := t.indexes } t id j.ctx := by
  generalize he : shResEpoch (natAt s (xrCand j.entry) 64) = e at *
  have hgood : ¬((xrInputs s j.entry).any (fun r => readBad s r.1 r.2) ||
      textsBad s x ((xrScored s x (notePin e j)).map (fun c => c.passage))) = true := by
    simpa [htexts] using hinputs
  have hbody : crossRerankBody (acting s j) id j =
      updJob (touchRanges (epochPinned (acting s j) (xrIndex j.entry) id e) (xrInputs s j.entry)) id startWork := by
    rw [crossRerankBody_pins hx hw hsrc hcand hmore hd hh hfields hsome, he, pinHeader_pinned (s := acting s j) hlate hold]
    exact if_neg hgood
  have hread := recorded_touchRanges (epochPinned (acting s j) (xrIndex j.entry) id e) (xrInputs s j.entry)
  refine ⟨_, runJob_next h hbody, pinned_congr (pinned_epochPinned (s := acting s j) hx) hread.stored.side.indexes, ?_, ?_⟩
  · rw [unacted_jobs, updJob_get, hread.jobs, epochPinned_job (runsNow_acting h)]
    rfl
  · exact (((((quiet_acting s j id j.ctx).withIndexes _).trans (quiet_epochPinned _ _ _ _ _)).trans
      (hread.quiet id j.ctx)).trans
      ((quiet_updJob _ id j.ctx startWork).trans (quiet_unacted _ id j.ctx))).ownIndexes

end start

/-! ### A batch in the Pockets (R271) -/

/-- One write of a batch, with what strays counted. -/
def batchWrite (x : Ctx) (t : State) (w : Nat × Nat × Nat × List Nat) : State :=
  lbWrite (countStrays t x w.1 portBelt w.2.1 (ceilDiv (w.2.2.1 + w.2.2.2.length) 256)) x w.1 w.2.1 w.2.2.1 w.2.2.2

/-- A batch made: its rows stand in the Pockets, its slots are FULL, and its command no longer stalls. -/
def batchMade (s : State) (id c : Nat) (ws : List (Nat × Nat × Nat × List Nat)) : State :=
  updCtx (updJob (ws.foldl (batchWrite (ctxOf s c)) s) id (fun j => { j with stalled := [] })) c
    (fun y => retireSlots y [] (writesSlots (ctxOf s c) ws))

theorem deliverBatch_made {s : State} {id c : Nat} {ws : List (Nat × Nat × Nat × List Nat)} (go : State → State)
    (h : claimable (ctxOf s c) [] (writesSlots (ctxOf s c) ws) = true) :
    deliverBatch s id c ws go = go (batchMade s id c ws) := if_pos h

theorem pocket_lbWrite_congr {s t : State} (h : t.pocket = s.pocket) (x : Ctx) (lb row byte : Nat) (bs : List Nat) :
    (lbWrite t x lb row byte bs).pocket = (lbWrite s x lb row byte bs).pocket := by
  unfold lbWrite
  split
  · exact congrArg (fun m => memWrite m _ bs) h
  · exact h

theorem lbWrite_array (s : State) (x : Ctx) (lb row byte : Nat) (bs : List Nat) :
    (lbWrite s x lb row byte bs).array = s.array := by
  unfold lbWrite
  split <;> rfl

section batch

variable (x : Ctx)

theorem pocketWork_batchWrite (t : State) (w : Nat × Nat × Nat × List Nat) : PocketWork t (batchWrite x t w) :=
  (still_countStrays t x _ _ _ (by decide)).pocketWork.trans (pocketWork_lbWrite _ _ _ _ _ _)

theorem batchWrite_array (t : State) (w : Nat × Nat × Nat × List Nat) : (batchWrite x t w).array = t.array :=
  (lbWrite_array _ _ _ _ _ _).trans (still_countStrays t x _ _ _ (by decide)).array

theorem quiet_batchWrites (ws : List (Nat × Nat × Nat × List Nat)) (t : State) (b : BeltS) (p : Mem) (id c : Nat) :
    Quiet (withHeld t b p) (withHeld (ws.foldl (batchWrite x) t) b p) id c := by
  induction ws generalizing t with
  | nil => exact .refl _ id c
  | cons w ws ih =>
    refine .trans ?_ (ih (batchWrite x t w))
    unfold batchWrite
    rw [withHeld_lbWrite]
    exact (quiet_countStrays t x _ _ _ id c).withHeld b rfl

/-- Whatever counts between the writes of a batch, so long as it changes no Pocket, the Pockets end the same. -/
theorem pocket_lbWrites (ws : List (Nat × Nat × Nat × List Nat)) {f : State → Nat × Nat × Nat × List Nat → State}
    (hf : ∀ t w, (f t w).pocket = t.pocket) {t u : State} (h : t.pocket = u.pocket) :
    (ws.foldl (fun t w => lbWrite (f t w) x w.1 w.2.1 w.2.2.1 w.2.2.2) t).pocket =
      (ws.foldl (fun t w => lbWrite t x w.1 w.2.1 w.2.2.1 w.2.2.2) u).pocket := by
  induction ws generalizing t u with
  | nil => exact h
  | cons w ws ih => exact ih (pocket_lbWrite_congr ((hf t w).trans h) x w.1 w.2.1 w.2.2.1 w.2.2.2)

end batch

section made

variable (s : State) (id c : Nat) (ws : List (Nat × Nat × Nat × List Nat))

theorem calm_batchWrites : Calm s (ws.foldl (batchWrite (ctxOf s c)) s) :=
  (pocketWork_foldl _ ws (pocketWork_batchWrite _) s).calm

theorem quiet_batchMade (b : BeltS) (p : Mem) :
    Quiet (withHeld s b p) (withHeld (batchMade s id c ws) b p) id c :=
  (quiet_batchWrites (ctxOf s c) ws s b p id c).trans (((quiet_updJob _ id c _).trans (quiet_updCtx _ id c _)).withHeld b rfl)

theorem batchMade_pocket : (batchMade s id c ws).pocket = xrPockets s c ws :=
  pocket_lbWrites (ctxOf s c) ws (fun t _ => (still_countStrays t (ctxOf s c) _ _ _ (by decide)).pocket) rfl

theorem batchMade_belt : (batchMade s id c ws).belt = s.belt := (calm_batchWrites s c ws).belt

theorem batchMade_mem : (batchMade s id c ws).mem = s.mem := (calm_batchWrites s c ws).mem

theorem batchMade_array : (batchMade s id c ws).array = s.array :=
  foldl_keeps_obs State.array _ ws (fun t w _ => batchWrite_array _ t w) s

theorem batchMade_job {j : Job} (hj : tabGet s.jobs id = some j) :
    tabGet (batchMade s id c ws).jobs id = some { j with stalled := [] } := by
  unfold batchMade
  rw [updCtx_jobs, updJob_get, (calm_batchWrites s c ws).jobs, hj]
  rfl

end made

theorem xrPockets_acting (s : State) (j : Job) (c : Nat) (ws : List (Nat × Nat × Nat × List Nat)) :
    xrPockets (acting s j) c ws = xrPockets s c ws :=
  pocket_lbWrites (ctxOf s c) ws (f := fun t _ => t) (fun _ _ => rfl) rfl

/-! ### The run of a batch (R271) -/

/-- The tokens of the pairs of a batch. -/
def xrTokens (s : State) (x : Index) (j : Job) (d b : Nat) : List Nat := ((xrBatch s x j d b).map Prod.fst).flatten

/-- A delivered batch's embeddings have been taken in. -/
def batchTaken (s : State) (id : Nat) (j : Job) (x : Index) (d emb b : Nat) (t : State) : State :=
  countEmbeddings (touchRanges t (xrBatchRanges s x j d emb b)) id j.ctx (xdEmb d) emb (xdBlocks d) (xrTokens s x j d b)

/-- A command goes on with its progress. -/
def goOn (work : List Nat) (j : Job) : Job := { j with work := work }

/-- The run of a batch starts, and its command waits for it. -/
def runStarted (id c model addr : Nat) (scores : List Nat) (t : State) : State :=
  startRun (updJob (nextRun t c) id (goOn (2 :: scores))) id c addr (some model) (runSeqOf (ctxOf (nextRun t c) c))

theorem accounted_batchTaken (s : State) (id : Nat) (j : Job) (x : Index) (d emb b : Nat) (t : State) :
    Accounted true t (batchTaken s id j x d emb b t) :=
  (accounted_touchRanges true t _).trans (accounted_countEmbeddings _ _ _ _ _ _ _)

theorem batchTaken_array (s : State) (id : Nat) (j : Job) (x : Index) (d emb b : Nat) (t : State) :
    (batchTaken s id j x d emb b t).array = t.array :=
  (countEmbeddings_array _ _ _ _ _ _ _).trans (recorded_touchRanges t _).stored.side.array

section started

variable (id c model addr : Nat) (scores : List Nat) (t : State)

theorem runStarted_jobs : (runStarted id c model addr scores t).jobs = (updJob t id (goOn (2 :: scores))).jobs := rfl

/-- The run has one stream for each block of its image. -/
theorem runStarted_runs : ∃ r, (runStarted id c model addr scores t).array.runs = tabSet t.array.runs id r ∧ r.ctx = c ∧
    r.model = some model ∧ r.ended = false ∧ r.streams.length = imVblocks (imageHead t addr) := by
  refine ⟨_, rfl, rfl, rfl, rfl, ?_⟩
  dsimp only
  rw [List.length_map, List.length_range]
  rfl

theorem quiet_runStarted : Quiet t (runStarted id c model addr scores t) id c :=
  ((quiet_updCtx t id c _).trans (quiet_updJob _ id c _)).trans (quiet_withRuns _ _ id c)

end started

theorem imageHead_congr {s t : State} (h : natAt t = natAt s) (a : Nat) : imageHead t a = imageHead s a := by
  unfold imageHead
  rw [h]

section run

variable {s : State} {id emb : Nat} {j : Job} {x : Index} {m : Model} {scores : List Nat}
  (h : runsNow s id Op.CROSS_RERANK crossRerankSources j = true) (hx : tabGet s.indexes (xrIndex j.entry) = some x)
  (hw : j.work = 1 :: scores) (hmore : scores.length < (xrScored s x j).length)
  (hemb : pinnedDesc s (xdEmb (natAt s (xrSrc j.entry) 64)) id = some emb)
  (hm : tabGet s.models (xdModel (natAt s (xrSrc j.entry) 64)) = some m)

include hx hw hmore hemb hm

/-- The step of a CROSS_RERANK that has batches left. -/
theorem crossRerankBody_batch {d : Nat} (hd : natAt s (xrSrc j.entry) 64 = d) : crossRerankBody (acting s j) id j =
    if ((xrTokens s x j d (scores.length / xdBatch d)).any (fun t => (rowReads s emb t).any (fun r => readBad s r.1 r.2)) ||
        readBad s m.addr m.size) = true then finish (acting s j) id Code.ECC_UNCORRECTABLE 0
    else if (!runMayStart s id j.ctx (some (xdModel d))) = true then acting s j
    else deliverBatch (acting s j) id j.ctx (xrWrites s d emb (xrBatch s x j d (scores.length / xdBatch d)))
      (fun t => runStarted id j.ctx (xdModel d) m.addr scores (batchTaken s id j x d emb (scores.length / xdBatch d) t)) := by
  subst hd
  unfold crossRerankBody
  dsimp only
  rw [show tabGet (acting s j).indexes (xrIndex j.entry) = some x from hx]
  dsimp only
  rw [hw]
  refine (if_neg (show ¬(xrScored (acting s j) x j).length ≤ scores.length from Nat.not_le.2 hmore)).trans ?_
  rw [show pinnedDesc (acting s j) (xdEmb (natAt (acting s j) (xrSrc j.entry) 64)) id = some emb from hemb,
    show tabGet (acting s j).models (xdModel (natAt (acting s j) (xrSrc j.entry) 64)) = some m from hm]
  rfl

omit hx hw hmore hemb hm in
theorem xrBatchReads_any (d : Nat) :
    ((xrTokens s x j d (scores.length / xdBatch d)).any (fun t => (rowReads s emb t).any (fun r => readBad s r.1 r.2)) ||
      readBad s m.addr m.size) = (xrBatchReads s x j d emb scores.length m).any (fun r => readBad s r.1 r.2) := by
  unfold xrBatchReads
  rw [List.any_append, List.any_flatMap, List.any_cons, List.any_nil, Bool.or_false]
  rfl

include h

/-- A batch whose rows or whose model cannot be read ends the command. -/
theorem exec_crossRerank_unreadable {d : Nat} (hd : natAt s (xrSrc j.entry) 64 = d)
    (hbad : ∃ r ∈ xrBatchReads s x j d emb scores.length m, readBad s r.1 r.2 = true) :
    ∃ t, exec (.crossRerank id) s = .next t ∧ EndsOnly s t id j Code.ECC_UNCORRECTABLE 0 :=
  ⟨_, runJob_next h ((crossRerankBody_batch hx hw hmore hemb hm hd).trans
    (if_pos ((xrBatchReads_any d).trans (List.any_eq_true.2 hbad)))), endsOnly_at_once h _ _⟩

/-- A batch is delivered, and its run starts. -/
theorem exec_crossRerank_runs {d : Nat} {ws : List (Nat × Nat × Nat × List Nat)} (hd : natAt s (xrSrc j.entry) 64 = d)
    (hgood : ∀ r ∈ xrBatchReads s x j d emb scores.length m, readBad s r.1 r.2 = false)
    (hmay : runMayStart s id j.ctx (some (xdModel d)) = true)
    (hws : ws = xrWrites s d emb (xrBatch s x j d (scores.length / xdBatch d)))
    (hclaim : claimable (ctxOf s j.ctx) [] (writesSlots (ctxOf s j.ctx) ws) = true) :
    ∃ t r, exec (.crossRerank id) s = .next t ∧
      tabGet t.jobs id = some { j with stalled := [], work := 2 :: scores } ∧
      tabGet t.array.runs id = some r ∧ r.ctx = j.ctx ∧ r.model = some (xdModel d) ∧ r.ended = false ∧
      r.streams.length = imVblocks (imageHead s m.addr) ∧ (∀ k, k ≠ id → tabGet t.array.runs k = tabGet s.array.runs k) ∧
      t.pocket = xrPockets s j.ctx ws ∧ t.belt.tables = s.belt.tables ∧
      Quiet { s with belt := t.belt, pocket := t.pocket } t id j.ctx := by
  subst hws
  generalize hws : xrWrites s d emb (xrBatch s x j d (scores.length / xdBatch d)) = ws at *
  have hreads : ¬((xrTokens s x j d (scores.length / xdBatch d)).any (fun t =>
      (rowReads s emb t).any (fun r => readBad s r.1 r.2)) || readBad s m.addr m.size) = true := by
    rw [xrBatchReads_any d, List.any_eq_true]
    rintro ⟨r, hr, hbad⟩
    exact Bool.eq_false_iff.1 (hgood r hr) hbad
  have hbody : crossRerankBody (acting s j) id j = runStarted id j.ctx (xdModel d) m.addr scores
      (batchTaken s id j x d emb (scores.length / xdBatch d) (batchMade (acting s j) id j.ctx ws)) := by
    rw [crossRerankBody_batch hx hw hmore hemb hm hd, if_neg hreads, if_neg (by simp [hmay]), hws]
    exact deliverBatch_made (s := acting s j) _ hclaim
  have htaken := accounted_batchTaken s id j x d emb (scores.length / xdBatch d) (batchMade (acting s j) id j.ctx ws)
  have harray := batchTaken_array s id j x d emb (scores.length / xdBatch d) (batchMade (acting s j) id j.ctx ws)
  generalize batchTaken s id j x d emb (scores.length / xdBatch d) (batchMade (acting s j) id j.ctx ws) = u at *
  have hmade := quiet_batchMade (acting s j) id j.ctx ws u.belt (batchMade (acting s j) id j.ctx ws).pocket
  have hpockets := (batchMade_pocket (acting s j) id j.ctx ws).trans (xrPockets_acting s j j.ctx ws)
  have hbelt := batchMade_belt (acting s j) id j.ctx ws
  have hmem := batchMade_mem (acting s j) id j.ctx ws
  have hjob := batchMade_job (acting s j) id j.ctx ws (runsNow_acting h)
  have hheld := batchMade_array (acting s j) id j.ctx ws
  generalize batchMade (acting s j) id j.ctx ws = v at *
  obtain ⟨r, hruns, hctx, hmodel, hended, hstreams⟩ := runStarted_runs id j.ctx (xdModel d) m.addr scores u
  have hall : (runStarted id j.ctx (xdModel d) m.addr scores u).array.runs = tabSet s.array.runs id r := by
    rw [hruns, harray, hheld]
    rfl
  have hquiet := (htaken.quiet id j.ctx).trans (quiet_runStarted id j.ctx (xdModel d) m.addr scores u)
  refine ⟨_, r, runJob_next h hbody, ?_, ?_, hctx, hmodel, hended, hstreams.trans ?_, fun k hk => ?_, ?_, ?_, ?_⟩
  · rw [unacted_jobs, runStarted_jobs, updJob_get, htaken.jobs, hjob]
    rfl
  · rw [unacted_array, hall, tabGet_tabSet_self]
  · rw [imageHead_congr (natAt_congr htaken.dev htaken.comp),
      imageHead_congr (natAt_congr (congrArg MemS.dev hmem) (congrArg MemS.comp hmem))]
    rfl
  · rw [unacted_array, hall, tabGet_tabSet_ne _ _ hk]
  · exact hquiet.holdings.pocket.trans hpockets
  · exact htaken.tables.trans (congrArg BeltS.tables hbelt)
  · exact ((((quiet_acting s j id j.ctx).withHeld u.belt rfl).trans hmade).trans hquiet |>.trans
      (quiet_unacted _ id j.ctx)).ownHeld

end run

/-! ### The scores of a run (R271) -/

section running

variable {s : State} {id : Nat} {j : Job} {x : Index} {r : Run} {scores : List Nat}
  (h : runsNow s id Op.CROSS_RERANK crossRerankSources j = true) (hx : tabGet s.indexes (xrIndex j.entry) = some x)
  (hw : j.work = 2 :: scores) (hr : tabGet s.array.runs id = some r) (hst : ∃ st ∈ r.streams, st.count ≠ 0)

/-- The scores that stand in the output row of a run. -/
def runScores (s : State) (j : Job) (d : Nat) : List Nat :=
  (List.range (xdBatch d)).map (fun i => ofLeBytes (lbRead s (ctxOf s j.ctx) 0 (xdOutRow d) (4 * i) 4))

/-- A run's scores are taken: its output row is EMPTY again, and the next batch can be delivered. -/
def scoresTaken (s : State) (id : Nat) (j : Job) (d : Nat) (scores : List Nat) : State :=
  updJob (updCtx (dropRun s id) j.ctx (fun y => retireSlots y (slotsOf (ctxOf s j.ctx) 0 (xdOutRow d) 1) [])) id
    (fun y => { y with work := 1 :: (scores ++ runScores s j d), stalled := [] })

include hx hw hr hst

/-- The step of a CROSS_RERANK whose run is there. -/
theorem crossRerankBody_running {d : Nat} (hd : natAt s (xrSrc j.entry) 64 = d) : crossRerankBody (acting s j) id j =
    if (!r.ended) = true then acting s j
    else if claimable (ctxOf s j.ctx) (slotsOf (ctxOf s j.ctx) 0 (xdOutRow d) 1) [] = true then
      scoresTaken (acting s j) id j d scores
    else updJob (acting s j) id (fun y => { y with stalled := slotsOf (ctxOf s j.ctx) 0 (xdOutRow d) 1 }) := by
  subst hd
  have hcount : ¬r.streams.all (fun st => st.count == 0) = true := by
    obtain ⟨st, hmem, hne⟩ := hst
    rw [List.all_eq_true]
    exact fun hall => hne (beq_iff_eq.1 (hall st hmem))
  unfold crossRerankBody
  dsimp only
  rw [show tabGet (acting s j).indexes (xrIndex j.entry) = some x from hx]
  dsimp only
  rw [hw, show tabGet (acting s j).array.runs id = some r from hr]
  exact if_neg hcount

include h

theorem exec_crossRerank_waits (hopen : r.ended = false) (ha : s.perf.actor = none) :
    exec (.crossRerank id) s = .next s :=
  runJob_idle h ha ((crossRerankBody_running hx hw hr hst rfl).trans (if_pos (by rw [hopen]; rfl)))

/-- The scores of a run that has ended are taken. -/
theorem exec_crossRerank_scores {d : Nat} (hd : natAt s (xrSrc j.entry) 64 = d) (hended : r.ended = true)
    (hclaim : claimable (ctxOf s j.ctx) (slotsOf (ctxOf s j.ctx) 0 (xdOutRow d) 1) [] = true) :
    ∃ t, exec (.crossRerank id) s = .next t ∧
      tabGet t.jobs id = some { j with stalled := [], work := 1 :: (scores ++ runScores s j d) } ∧
      tabGet t.array.runs id = none ∧ (∀ k, k ≠ id → tabGet t.array.runs k = tabGet s.array.runs k) ∧
      Quiet s t id j.ctx := by
  have hbody := crossRerankBody_running (id := id) hx hw hr hst hd
  rw [if_neg (by simp [hended]), if_pos hclaim] at hbody
  refine ⟨_, runJob_next h hbody, ?_, tabGet_tabDel_self _ _, fun k hk => tabGet_tabDel_ne _ hk, ?_⟩
  · rw [unacted_jobs]
    unfold scoresTaken
    rw [updJob_get, updCtx_jobs, show tabGet (dropRun (acting s j) id).jobs id = some j from runsNow_job (s := s) h]
    rfl
  · exact ((quiet_acting s j id j.ctx).trans (quiet_withRuns _ _ id j.ctx)).trans
      (((quiet_updCtx _ id j.ctx _).trans (quiet_updJob _ id j.ctx _)).trans (quiet_unacted _ id j.ctx))

end running

/-! ### The end of a CROSS_RERANK (R272, R273) -/

/-- The feature rows of the scored candidates have been read and taken in. -/
def featuresTaken (s : State) (id : Nat) (j : Job) (d : Nat) (cs : List Candidate) (t : State) : State :=
  match xrFeat s id d with
  | some f => countGathered (touchRanges t ((xdWeights d, 4 * btDim f) :: cs.flatMap (fun c => rowReads s f (featureIndex c))))
      (j.queue % 4) (xdFeat d) (pinnedVersion s (xdFeat d) id) f (cs.map featureIndex)
  | none => t

theorem accounted_featuresTaken (s : State) (id : Nat) (j : Job) (d : Nat) (cs : List Candidate) (t : State) :
    Accounted true t (featuresTaken s id j d cs t) := by
  unfold featuresTaken
  split
  · exact (accounted_touchRanges true t _).trans (accounted_countGathered _ _ _ _ _ _)
  · exact .refl true t

theorem reg_featuresTaken (s : State) (id : Nat) (j : Job) (d : Nat) (cs : List Candidate) (t : State) :
    reg (featuresTaken s id j d cs t) Key.XRANK_COMMANDS = reg t Key.XRANK_COMMANDS := by
  unfold featuresTaken
  split
  · exact (reg_countGathered _ _ _ _ _ _).trans ((recorded_touchRanges t _).reg (by decide))
  · rfl

/-- A re-ranking is counted, with its pairs. -/
def rankCounted (n : Nat) (t : State) : State := bump (bump t Key.XRANK_COMMANDS 1) Key.XRANK_PAIRS n

/-- Something of what the end of a CROSS_RERANK reads cannot be read. -/
def xrEndBad (s : State) (id d : Nat) (cs : List Candidate) : Bool :=
  match xrFeat s id d with
  | some f => readBad s (xdWeights d) (4 * btDim f) ||
      cs.any (fun c => (rowReads s f (featureIndex c)).any (fun r => readBad s r.1 r.2))
  | none => false

theorem xrEndBad_eq (s : State) (id d : Nat) (cs : List Candidate) :
    xrEndBad s id d cs = (xrEndReads s id d cs).any (fun r => readBad s r.1 r.2) := by
  unfold xrEndBad xrEndReads
  cases xrFeat s id d with
  | some f => rw [List.any_cons, List.any_flatMap]
  | none => rfl

theorem xrEnd_eq (s : State) (id : Nat) (j : Job) (x : Index) (d : Nat) (scores : List Nat) : xrEnd s id j x d scores =
    if xrEndBad s id d (xrScored s x j) = true then finish s id Code.ECC_UNCORRECTABLE 0
    else withWrite s id (xrDest j.entry) (xrBytes s id j d (xrScored s x j) scores).length (fun t =>
      finish (rankCounted (xrScored s x j).length (writeBytes (featuresTaken s id j d (xrScored s x j) t) (xrDest j.entry)
        (xrBytes s id j d (xrScored s x j) scores))) id
        (if ((xrBest s id d (xrKout j.entry) (xrScored s x j) scores).length == xrKout j.entry) = true then Code.OK
          else Code.OK_SHORT)
        (searchResult (xrBest s id d (xrKout j.entry) (xrScored s x j) scores).length (xrScored s x j).length)) := rfl

theorem xrBest_acting (s : State) (j : Job) (id d k : Nat) (cs : List Candidate) (scores : List Nat) :
    xrBest (acting s j) id d k cs scores = xrBest s id d k cs scores := rfl
theorem xrBytes_acting (s : State) (id : Nat) (j i : Job) (d : Nat) (cs : List Candidate) (scores : List Nat) :
    xrBytes (acting s i) id j d cs scores = xrBytes s id j d cs scores := rfl
theorem xrScored_acting (s : State) (x : Index) (j i : Job) : xrScored (acting s i) x j = xrScored s x j := rfl

/-- The output of a CROSS_RERANK is bytes. -/
theorem xrBytes_lt (s : State) (id : Nat) (j : Job) (d : Nat) (cs : List Candidate) (scores : List Nat) :
    ∀ b ∈ xrBytes s id j d cs scores, b < 256 := by
  intro b hb
  rcases List.mem_append.1 hb with hb | hb
  · exact leBytes_lt _ _ b hb
  · obtain ⟨l, hl, hb⟩ := List.mem_flatten.1 hb
    obtain ⟨p, -, rfl⟩ := List.mem_map.1 hl
    exact leBytes_lt _ _ b hb

theorem quiet_rankCounted (n : Nat) (t : State) (id c : Nat) : Quiet t (rankCounted n t) id c :=
  (quiet_bump t _ _ id c (by decide)).trans (quiet_bump _ _ _ id c (by decide))

theorem reg_rankCounted (n : Nat) (t : State) :
    reg (rankCounted n t) Key.XRANK_COMMANDS = reg (bump t Key.XRANK_COMMANDS 1) Key.XRANK_COMMANDS :=
  reg_bump_ne _ _ (by decide)

/-- A command that has written its output beside another Belt has written it beside the Belt that it leaves. -/
theorem EndsWith.ownBelt {s t : State} {b : BeltS} {id : Nat} {j : Job} {a st r : Nat} {bs : List Nat}
    (h : EndsWith (Machine.withBelt s b) t id j a bs st r) : EndsWith { s with belt := t.belt } t id j a bs st r := by
  have hbelt : t.belt = b := h.holdings.belt
  rw [hbelt]
  exact h

section ending

variable {s : State} {id d : Nat} {j : Job} {x : Index} {scores : List Nat} {cs : List Candidate}
  (h : runsNow s id Op.CROSS_RERANK crossRerankSources j = true) (hx : tabGet s.indexes (xrIndex j.entry) = some x)
  (hw : j.work = 1 :: scores) (hd : natAt s (xrSrc j.entry) 64 = d) (hcs : xrScored s x j = cs)
  (hdone : cs.length ≤ scores.length)

include hx hw hd hcs hdone

/-- The step of a CROSS_RERANK that has all its scores. -/
theorem crossRerankBody_end :
    crossRerankBody (acting s j) id j = xrEnd (acting s j) id j x d (scores.take cs.length) := by
  subst hd hcs
  unfold crossRerankBody
  dsimp only
  rw [show tabGet (acting s j).indexes (xrIndex j.entry) = some x from hx]
  dsimp only
  rw [hw]
  exact if_pos hdone

include h

theorem exec_crossRerank_endUnreadable (hbad : ∃ r ∈ xrEndReads s id d cs, readBad s r.1 r.2 = true) :
    ∃ t, exec (.crossRerank id) s = .next t ∧ EndsOnly s t id j Code.ECC_UNCORRECTABLE 0 := by
  have hend : xrEndBad (acting s j) id d (xrScored (acting s j) x j) = true := by
    rw [xrEndBad_eq, xrScored_acting, hcs]
    exact List.any_eq_true.2 hbad
  exact ⟨_, runJob_next h ((crossRerankBody_end hx hw hd hcs hdone).trans ((xrEnd_eq _ _ _ _ _ _).trans (if_pos hend))),
    endsOnly_at_once h _ _⟩

/-- The best candidates are written, and the command ends. -/
theorem exec_crossRerank_end {u : State} {bs : List Nat} {best : List (Num × Candidate)}
    (hgood : ∀ r ∈ xrEndReads s id d cs, readBad s r.1 r.2 = false)
    (hbs : xrBytes s id j d cs (scores.take cs.length) = bs)
    (hbest : xrBest s id d (xrKout j.entry) cs (scores.take cs.length) = best)
    (hu : prepareWrite (acting s j) (xrDest j.entry) bs.length = .ready u) :
    ∃ t, exec (.crossRerank id) s = .next t ∧ t.belt.tables = s.belt.tables ∧
      EndsWith { s with belt := t.belt } t id j (xrDest j.entry) bs
        (if best.length = xrKout j.entry then Code.OK else Code.OK_SHORT) (cs.length * 2 ^ 16 + best.length) ∧
      reg t Key.XRANK_COMMANDS = reg (bump s Key.XRANK_COMMANDS 1) Key.XRANK_COMMANDS := by
  have hend : ¬xrEndBad (acting s j) id d (xrScored (acting s j) x j) = true := by
    rw [xrEndBad_eq, xrScored_acting, hcs, List.any_eq_true]
    rintro ⟨r, hr, hbad⟩
    exact Bool.eq_false_iff.1 (hgood r hr) hbad
  have hbody := (crossRerankBody_end (id := id) hx hw hd hcs hdone).trans ((xrEnd_eq _ _ _ _ _ _).trans (if_neg hend))
  rw [xrScored_acting, hcs, xrBytes_acting, xrBest_acting, hbs, hbest] at hbody
  unfold withWrite at hbody
  rw [hu] at hbody
  simp only [beq_iff_eq] at hbody
  have hunits := prepareWrite_ready hu
  have hacc := accounted_featuresTaken (acting s j) id j d cs u
  have hreg := reg_featuresTaken (acting s j) id j d cs u
  generalize featuresTaken (acting s j) id j d cs u = v at *
  have hquiet : Quiet (withBelt s v.belt) v id j.ctx :=
    (((quiet_acting s j id j.ctx).trans (quiet_units hunits id j.ctx)).withBelt v.belt).trans (hacc.quiet id j.ctx)
  have hjob : tabGet v.jobs id = some j := by
    rw [hacc.jobs, jobs_units hunits]
    exact runsNow_acting h
  have hwritten := endsWith_write (s := withBelt s v.belt) (t := v) (u := v) (a := xrDest j.entry) (bs := bs)
    (st := if best.length = xrKout j.entry then Code.OK else Code.OK_SHORT) (r := searchResult best.length cs.length)
    (rankCounted cs.length) (hbs ▸ xrBytes_lt s id j d cs _) hquiet ⟨_, rfl⟩ hjob
    (fun t => ⟨quiet_rankCounted _ t id j.ctx, rfl, rfl, rfl⟩)
  refine ⟨_, runJob_next h hbody, ?_, hwritten.unacted.ownBelt, ?_⟩
  · rw [hwritten.unacted.holdings.belt]
    exact hacc.tables.trans (congrArg BeltS.tables (holdings_units hunits).belt)
  · calc _ = reg (rankCounted cs.length (writeBytes v (xrDest j.entry) bs)) Key.XRANK_COMMANDS :=
          (reg_congr (notePosted_regs _ _ _ _) _).trans (reg_finish _ _ _ _ _)
      _ = reg (bump (writeBytes v (xrDest j.entry) bs) Key.XRANK_COMMANDS 1) Key.XRANK_COMMANDS := reg_rankCounted _ _
      _ = reg (bump s Key.XRANK_COMMANDS 1) Key.XRANK_COMMANDS := reg_bump_congr 1 ((reg_writeBytes v _ _ (by decide)).trans
          (hreg.trans ((recorded_units hunits).reg (by decide))))

end ending

end Sys2Proof.Machine

/-! SUPPORT. PACK (R274 to R281): its checks, the writes of its prompt here or to its peer, its mailbox header, and its end. -/

namespace Sys2Proof.Machine

/-! ### Writes that leave for a peer (R280, R355) -/

theorem ceilDiv_128 (n : Nat) : ceilDiv n 128 = (n + 127) / 128 := by
  unfold ceilDiv
  rw [if_neg (by decide)]
  split <;> omega

/-- A command waits for more replies. -/
def awaits (n : Nat) (j : Job) : Job := { j with reads := j.reads + n }

theorem flowRoute_congr {s t : State} (h : reg t Key.PELGAN_ROUTE_TABLE = reg s Key.PELGAN_ROUTE_TABLE) :
    flowRoute t = flowRoute s := by
  funext k d
  unfold flowRoute routesTo routeTo
  rw [h]

/-- The fabric with one more request of this device. -/
def requested (p : PelganS) (q : RemoteReq) : PelganS :=
  { p with nextTag := (p.nextTag + 1) % 65536, requests := tabSet p.requests p.nextTag q }

theorem issueRemote_routed {s : State} {k dest q : Nat} (h : flowRoute s k dest = some q) (id c a n v : Nat) :
    ∃ r, issueRemote s id c k dest true a n v =
      send (updJob (withFabric s (requested s.pelgan r)) id (awaits 1))
        (.message (firstPort q) msgRmtWr dest s.pelgan.nextTag v) := by
  unfold issueRemote
  rw [h]
  exact ⟨_, rfl⟩

/-- Messages of a command have left for a peer, and it waits for `n` more replies. -/
structure RemoteSent (s t : State) (id c n : Nat) (j : Job) : Prop where
  quiet : Quiet s t id c
  job : tabGet t.jobs id = some (awaits n j)
  routes : flowRoute t = flowRoute s

section remote

variable {s : State} {id c k dest q : Nat} {j : Job}

theorem RemoteSent.refl (hj : tabGet s.jobs id = some j) : RemoteSent s s id c 0 j := ⟨.refl s id c, hj, rfl⟩

theorem RemoteSent.trans {t u : State} {n m : Nat} (h : RemoteSent s t id c n j) (h' : RemoteSent t u id c m (awaits n j)) :
    RemoteSent s u id c (n + m) j :=
  ⟨h.quiet.trans h'.quiet, h'.job.trans (by unfold awaits; rw [Nat.add_assoc]), h'.routes.trans h.routes⟩

/-- One write leaves on the route of its flow. -/
theorem issueRemote_sent (hroute : flowRoute s k dest = some q) (hj : tabGet s.jobs id = some j) (a n v : Nat) :
    RemoteSent s (issueRemote s id c k dest true a n v) id c 1 j ∧
      Out.message (firstPort q) msgRmtWr dest s.pelgan.nextTag v ∈ (issueRemote s id c k dest true a n v).out := by
  obtain ⟨r, hissue⟩ := issueRemote_routed hroute id c a n v
  rw [hissue]
  have hside := side_send (updJob (withFabric s (requested s.pelgan r)) id (awaits 1))
    (.message (firstPort q) msgRmtWr dest s.pelgan.nextTag v)
  refine ⟨⟨?_, ?_, flowRoute_congr (hside.regs _ (by decide))⟩, ?_⟩
  · exact ((quiet_withFabric s _ id c).trans (quiet_updJob _ id c _)).trans (quiet_of_side hside id c)
  · rw [hside.jobs, updJob_get]
    exact congrArg (Option.map (awaits 1)) hj
  · exact mem_send _ _

theorem isOpen_of_get (hj : tabGet s.jobs id = some j) : isOpen s id = openJob j := by
  unfold isOpen
  rw [hj]

/-- Bytes leave for a peer, one message for each 128 of them. -/
theorem remoteWrites_sent (hopen : openJob j = true) (n a : Nat) (bs : List Nat) (hn : ceilDiv bs.length 128 ≤ n)
    (hroute : flowRoute s k dest = some q) (hj : tabGet s.jobs id = some j) :
    RemoteSent s (remoteWrites id c k dest n s a bs) id c (ceilDiv bs.length 128) j := by
  induction n generalizing s a bs j with
  | zero =>
    rw [Nat.le_zero.1 hn]
    exact .refl hj
  | succ n ih =>
    unfold remoteWrites
    cases bs with
    | nil => exact .refl hj
    | cons b bs =>
      rw [if_neg (by simp [isOpen_of_get hj, hopen])]
      obtain ⟨hsent, -⟩ := issueRemote_sent (c := c) hroute hj a ((b :: bs).take 128).length (ofLeBytes ((b :: bs).take 128))
      have hsplit : ceilDiv (b :: bs).length 128 = 1 + ceilDiv ((b :: bs).drop 128).length 128 := by
        rw [ceilDiv_128, ceilDiv_128, List.length_drop, List.length_cons]
        omega
      rw [hsplit]
      have hroute' := (congrFun (congrFun hsent.routes k) dest).trans hroute
      exact hsent.trans (ih (j := awaits 1 j) hopen (a + 128) _ (by omega) hroute' hsent.job)

end remote

/-! ### The checks of a PACK (R274, R275) -/

/-- What a PACK does once its epoch is pinned. -/
def packOpened (id : Nat) (j : Job) (x : Index) (l : List TemplateSeg) (pre post : List Nat) (epoch : Nat)
    (t : State) : State :=
  let seen := (candidatesAt t (pcCand j.entry)).filter (fun c => candidateSeen t x epoch c.passage)
  if textsBad t x (seen.map (fun c => c.passage)) then finish t id Code.ECC_UNCORRECTABLE 0
  else packGo (if j.work.isEmpty then touchRanges t (packRanges t x j.entry (seen.map (fun c => c.passage))) else t) id
    (notePin epoch j) (packAll t x j.entry epoch l pre post)

/-- What a PACK does behind its template. -/
def packBehind (s : State) (id : Nat) (j : Job) (x : Index) (l : List TemplateSeg) (pre post : List Nat) : State :=
  if (field (natAt s (pcCand j.entry) 64) 0 8 != 1) = true then finish s id Code.VERSION_UNSUPPORTED 0
  else if (!rangeOk s (pcCand j.entry) (candidateBytes s (pcCand j.entry)) || (pcReportEn j.entry &&
      !rangeOk s (pcReport j.entry) (candidateBytes s (pcCand j.entry)))) = true then finish s id Code.BAD_FIELD 0
  else match (if tabHas (openPins s x) id then .inr s
      else pinHeader s (pcIndex j.entry) id (shResEpoch (natAt s (pcCand j.entry) 64)) x) with
    | .inl st => finish s id st 0
    | .inr t => packOpened id j x l pre post (shResEpoch (natAt s (pcCand j.entry) 64)) t

theorem packRangesOk_eq (s : State) (e : Nat) : packRangesOk s e =
    !(!rangeOk s (pcCand e) (candidateBytes s (pcCand e)) ||
      (pcReportEn e && !rangeOk s (pcReport e) (candidateBytes s (pcCand e)))) := by
  unfold packRangesOk
  simp only [Bool.not_or, Bool.not_and, Bool.not_not]

theorem natAt_acting (s : State) (j : Job) : natAt (acting s j) = natAt s := rfl

section checks

variable {s : State} {id : Nat} {j : Job} {x : Index} (h : runsNow s id Op.PACK packSources j = true)
  (hx : tabGet s.indexes (pcIndex j.entry) = some x) (hreads : PackReads s j)

include hx hreads

/-- The step of a PACK that can read its inputs. -/
theorem packBody_read : packBody (acting s j) id j =
    match packTemplate (acting s j) j.entry with
    | .inl (st, r) => finish (acting s j) id st r
    | .inr (l, pre, post) => packBehind (acting s j) id j x l pre post := by
  obtain ⟨htemplate, hcands, hquery, hhere, hsegments, hlist⟩ := hreads
  have hgood : ¬(readBad (acting s j) (pcTemplate j.entry) 64 || readBad (acting s j) (pcCand j.entry) 64 ||
      readBad (acting s j) (pcQuery j.entry) (4 * pcQlen j.entry)) = true := by
    rw [show readBad (acting s j) = readBad s from rfl, htemplate, hcands, hquery]
    decide
  have hlists : ¬(readBad (acting s j) (pcTemplate j.entry) (field (natAt (acting s j) (pcTemplate j.entry) 64) 448 64) ||
      readBad (acting s j) (pcCand j.entry) (candidateBytes (acting s j) (pcCand j.entry))) = true := by
    rw [show readBad (acting s j) = readBad s from rfl, show natAt (acting s j) = natAt s from rfl,
      show candidateBytes (acting s j) = candidateBytes s from rfl, hsegments, hlist]
    decide
  unfold packBody
  dsimp only
  rw [show tabGet (acting s j).indexes (pcIndex j.entry) = some x from hx]
  dsimp only
  rw [if_neg hgood, fetchMore_fetched _ (hhere.imp_right fun hdev => by simp [windowRanges, hdev]), if_neg hlists]
  rfl

theorem packBody_refused {st r : Nat} (hbad : packTemplate s j.entry = .inl (st, r)) :
    packBody (acting s j) id j = finish (acting s j) id st r := by
  rw [packBody_read hx hreads, show packTemplate (acting s j) = packTemplate s from rfl, hbad]

variable {l : List TemplateSeg} {pre post : List Nat} (hl : packTemplate s j.entry = .inr (l, pre, post))

include hl

theorem packBody_behind : packBody (acting s j) id j = packBehind (acting s j) id j x l pre post := by
  rw [packBody_read hx hreads, show packTemplate (acting s j) = packTemplate s from rfl, hl]

include h in
theorem exec_pack_version (hbad : field (natAt s (pcCand j.entry) 64) 0 8 ≠ 1) :
    ∃ t, exec (.pack id) s = .next t ∧ EndsOnly s t id j Code.VERSION_UNSUPPORTED 0 :=
  ⟨_, runJob_next h ((packBody_behind hx hreads hl).trans (if_pos (bne_iff_ne.2 hbad))), endsOnly_at_once h _ _⟩

variable (hversion : field (natAt s (pcCand j.entry) 64) 0 8 = 1)

include hversion

include h in
theorem exec_pack_ranges (hbad : packRangesOk s j.entry = false) :
    ∃ t, exec (.pack id) s = .next t ∧ EndsOnly s t id j Code.BAD_FIELD 0 := by
  rw [packRangesOk_eq, Bool.not_eq_false'] at hbad
  exact ⟨_, runJob_next h ((packBody_behind hx hreads hl).trans ((if_neg (by simp [natAt_acting, hversion])).trans
    (if_pos hbad))), endsOnly_at_once h _ _⟩

variable (hranges : packRangesOk s j.entry = true)

include hranges

theorem packBody_opens : packBody (acting s j) id j =
    match (if tabHas (openPins s x) id then .inr (acting s j)
        else pinHeader (acting s j) (pcIndex j.entry) id (shResEpoch (natAt s (pcCand j.entry) 64)) x) with
      | .inl st => finish (acting s j) id st 0
      | .inr t => packOpened id j x l pre post (shResEpoch (natAt s (pcCand j.entry) 64)) t := by
  rw [packRangesOk_eq, Bool.not_eq_true'] at hranges
  exact (packBody_behind hx hreads hl).trans ((if_neg (by simp [natAt_acting, hversion])).trans
    (if_neg (Bool.eq_false_iff.1 hranges)))

theorem packBody_unpinned (hnone : tabGet (openPins s x) id = none) : packBody (acting s j) id j =
    match pinHeader (acting s j) (pcIndex j.entry) id (shResEpoch (natAt s (pcCand j.entry) 64)) x with
      | .inl st => finish (acting s j) id st 0
      | .inr t => packOpened id j x l pre post (shResEpoch (natAt s (pcCand j.entry) 64)) t := by
  rw [packBody_opens hx hreads hl hversion hranges, if_neg (by simp [tabHas, hnone])]

include h in
/-- An epoch that cannot be pinned ends the command. -/
theorem exec_pack_epoch {st : Nat} (hnone : tabGet (openPins s x) id = none)
    (hpin : pinHeader (acting s j) (pcIndex j.entry) id (shResEpoch (natAt s (pcCand j.entry) 64)) x = .inl st) :
    ∃ t, exec (.pack id) s = .next t ∧ EndsOnly s t id j st 0 := by
  refine ⟨_, runJob_next h ((packBody_unpinned hx hreads hl hversion hranges hnone).trans ?_), endsOnly_at_once h _ _⟩
  rw [hpin]

variable {e : Nat} (he : shResEpoch (natAt s (pcCand j.entry) 64) = e) (htexts : textsBad s x (packSeen s x j.entry) = false)

include he htexts

/-- The first step of a PACK, with its epoch pinned and its inputs read. -/
theorem packBody_first (hnone : tabGet (openPins s x) id = none) (hw : j.work = []) (hlate : e ≤ x.current)
    (hold : oldestOf s x ≤ e) :
    packBody (acting s j) id j = packGo (packRead s id j x e) id (notePin e j) (packAll s x j.entry e l pre post) := by
  subst he
  rw [packBody_unpinned hx hreads hl hversion hranges hnone, pinHeader_pinned (s := acting s j) hlate hold]
  refine (if_neg (Bool.eq_false_iff.1 htexts)).trans ?_
  rw [hw]
  rfl

/-- A later step of a PACK. -/
theorem packBody_later (hsome : tabGet (openPins s x) id ≠ none) (hw : j.work ≠ []) :
    packBody (acting s j) id j = packGo (acting s j) id (notePin e j) (packAll s x j.entry e l pre post) := by
  subst he
  have hhas : tabHas (openPins s x) id = true := Option.isSome_iff_ne_none.2 hsome
  rw [packBody_opens hx hreads hl hversion hranges, if_pos hhas]
  refine (if_neg (Bool.eq_false_iff.1 htexts)).trans ?_
  rw [if_neg (by simpa using hw)]
  rfl

end checks

/-! ### The prompt and the report (R279, R280, R281) -/

/-- Outputs of a command written in memory, each noted when it is posted. -/
def outputsWritten (id : Nat) (ws : List (Nat × List Nat)) (t : State) : State :=
  ws.foldl (fun t w => notePosted (writeBytes t w.1 w.2) id w.1 w.2.length) t

/-- Bytes leave for the peer of a PACK. -/
def toPeer (id : Nat) (j : Job) (a : Nat) (bs : List Nat) (t : State) : State :=
  match boundJob t j.ctx with
  | some k => remoteWrites id j.ctx k (pcPeer j.entry) (bs.length / 128 + 1) t a bs
  | none => finish t id Code.HANDOFF_REFUSED 0

/-- A PACK goes on from the writes of its outputs: with REMOTE its prompt leaves for the peer. -/
def promptSent (id : Nat) (j : Job) (p : Packed) (t : State) : State :=
  if pcRemote j.entry then toPeer id j (pcDest j.entry + 64) (tokenWords p.prompt) (updJob t id startWork)
  else updJob t id startWork

theorem packGo_prompt {s : State} {id : Nat} {j : Job} (p : Packed) (hw : j.work = []) : packGo s id j p =
    if ((packWrites j.entry p).any (fun w => inWindow w.1) && s.aedup.link.state != .active) = true then s
    else withWrites s id ((packWrites j.entry p).filter (fun w => !inWindow w.1))
      (fun t => promptSent id j p (outputsWritten id (packWrites j.entry p) t)) := by
  unfold packGo
  dsimp only
  rw [hw]
  rfl

theorem writeBytes_congr {s t : State} (a : Nat) (bs : List Nat)
    (h : t.mem.dev = s.mem.dev ∧ t.mem.comp = s.mem.comp) :
    (writeBytes t a bs).mem.dev = (writeBytes s a bs).mem.dev ∧
      (writeBytes t a bs).mem.comp = (writeBytes s a bs).mem.comp := by
  rw [writeBytes_dev, writeBytes_dev, writeBytes_comp, writeBytes_comp, h.1, h.2]
  exact ⟨rfl, rfl⟩

/-- What is noted beside the outputs of a command changes no byte. -/
theorem outputsWritten_mem (id : Nat) (ws : List (Nat × List Nat)) {s t : State}
    (h : t.mem.dev = s.mem.dev ∧ t.mem.comp = s.mem.comp) :
    (outputsWritten id ws t).mem.dev = (writeAll s ws).mem.dev ∧
      (outputsWritten id ws t).mem.comp = (writeAll s ws).mem.comp := by
  induction ws generalizing s t with
  | nil => exact h
  | cons w ws ih =>
    refine ih ?_
    rw [notePosted_mem]
    exact writeBytes_congr w.1 w.2 h

section outputs

variable (id : Nat) (ws : List (Nat × List Nat)) (t : State)

theorem beside_outputsWritten (c : Nat) : Beside t (outputsWritten id ws t) id c :=
  beside_foldl _ ws t id c fun u w => (beside_writeBytes u w.1 w.2 id c).trans (beside_notePosted _ id w.1 w.2.length id c)

theorem holdings_outputsWritten : HoldingsKept t (outputsWritten id ws t) :=
  holdings_foldl _ ws t fun u w => (holdings_writeBytes u w.1 w.2).trans (holdings_notePosted _ id w.1 w.2.length)

theorem outputsWritten_jobs : (outputsWritten id ws t).jobs = t.jobs :=
  foldl_keeps_obs State.jobs _ ws (fun u w _ => (notePosted_jobs _ _ _ _).trans (jobs_writeBytes u w.1 w.2)) t

theorem outputsWritten_indexes : (outputsWritten id ws t).indexes = t.indexes :=
  foldl_keeps_obs State.indexes _ ws (fun u w _ => ((quiet_notePosted _ id w.1 w.2.length id 0).indexes).trans
    (stored_writeBytes u w.1 w.2).side.indexes) t

theorem reg_outputsWritten {k : Nat} (hk : sideKey k = false) : reg (outputsWritten id ws t) k = reg t k :=
  foldl_keeps_obs (fun u => reg u k) _ ws (fun u w _ => (reg_congr (notePosted_regs _ _ _ _) k).trans
    (reg_writeBytes u w.1 w.2 hk)) t

end outputs

/-- A PACK has pinned its epoch and written its outputs before the header. -/
structure Prompted (s t : State) (id : Nat) (j : Job) (x : Index) (e : Nat) (ws : List (Nat × List Nat)) : Prop where
  job : tabGet t.jobs id = some (startWork (notePin e j))
  pinned : pinned s t (pcIndex j.entry) id e x
  bytes : ∀ a, byteAt t a = byteAt (writeAll s ws) a
  beside : Beside s t id j.ctx
  holdings : HoldingsKept s t
  regs : ∀ k, sideKey k = false → reg t k = reg s k

theorem Prompted.quiet {s t u : State} {id e : Nat} {j : Job} {x : Index} {ws : List (Nat × List Nat)}
    (h : Prompted s t id j x e ws) (q : Quiet t u id j.ctx) : Machine.pinned s u (pcIndex j.entry) id e x ∧
      (∀ a, byteAt u a = byteAt (writeAll s ws) a) ∧ Beside s u id j.ctx ∧ HoldingsKept s u :=
  ⟨pinned_congr h.pinned q.indexes, fun a => (q.bytes a).trans (h.bytes a), h.beside.trans q.beside,
    h.holdings.trans q.holdings⟩

theorem prompted_outputs {s u : State} {id e : Nat} {j : Job} {x : Index} (ws : List (Nat × List Nat))
    (hj : tabGet s.jobs id = some j) (hx : tabGet s.indexes (pcIndex j.entry) = some x)
    (hu : UnitsOnly (packRead s id j x e) u) : Prompted s (updJob (outputsWritten id ws u) id startWork) id j x e ws := by
  have hread : Recorded (epochPinned (acting s j) (pcIndex j.entry) id e) u :=
    (recorded_touchRanges _ _).trans (recorded_units hu)
  have hquiet : Quiet (withIndexes s (epochPinned (acting s j) (pcIndex j.entry) id e).indexes) u id j.ctx :=
    (((quiet_acting s j id j.ctx).withIndexes _).trans (quiet_epochPinned _ _ _ _ _)).trans (hread.quiet id j.ctx)
  have hmem := outputsWritten_mem id ws (s := s) (t := u) ⟨hread.dev, hread.comp⟩
  refine ⟨?_, ?_, fun a => byteAt_congr hmem.1 hmem.2 a, ?_, ?_, fun k hk => ?_⟩
  · rw [updJob_get, outputsWritten_jobs, hread.jobs, epochPinned_job (s := acting s j) hj]
    rfl
  · exact pinned_congr (pinned_epochPinned (s := acting s j) hx)
      ((outputsWritten_indexes id ws u).trans hread.stored.side.indexes)
  · exact hquiet.beside.ofIndexes.trans ((beside_outputsWritten id ws u j.ctx).trans (beside_updJob _ id j.ctx _))
  · exact hquiet.holdings.ofIndexes.trans ((holdings_outputsWritten id ws u).trans (holdings_updJob _ id _))
  · exact (reg_outputsWritten id ws u hk).trans (hread.reg hk)

theorem tokenWords_length (ts : List Nat) : (tokenWords ts).length = 4 * ts.length := by
  induction ts with
  | nil => rfl
  | cons t ts ih =>
    have hcons : tokenWords (t :: ts) = leBytes 4 t ++ tokenWords ts := List.flatMap_cons
    rw [hcons, List.length_append, leBytes_length, ih, List.length_cons]
    omega

theorem boundJob_congr {s t : State} (h : reg t Key.PELGAN_CTX_JOB = reg s Key.PELGAN_CTX_JOB) (c : Nat) :
    boundJob t c = boundJob s c := by
  unfold boundJob
  rw [h]

/-- Bytes leave for the peer of a PACK whose context is bound to a job with a route. -/
theorem toPeer_sent {t : State} {id k q : Nat} {i j : Job} (a : Nat) (bs : List Nat) (hj : tabGet t.jobs id = some i)
    (hopen : openJob i = true) (hbound : boundJob t j.ctx = some k) (hroute : flowRoute t k (pcPeer j.entry) = some q) :
    RemoteSent t (toPeer id j a bs t) id j.ctx (ceilDiv bs.length 128) i := by
  unfold toPeer
  rw [hbound]
  exact remoteWrites_sent hopen _ a bs (by rw [ceilDiv_128]; omega) hroute hj

section prompt

variable {s u : State} {id e : Nat} {j : Job} {x : Index} {p : Packed} {ws : List (Nat × List Nat)}
  (h : runsNow s id Op.PACK packSources j = true) (hx : tabGet s.indexes (pcIndex j.entry) = some x)
  (hbody : packBody (acting s j) id j = packGo (packRead s id j x e) id (notePin e j) p) (hw : j.work = [])
  (hws : packWrites j.entry p = ws)
  (hlink : ∀ w ∈ ws, inWindow w.1 = true → (packRead s id j x e).aedup.link.state = .active)
  (hu : prepareWrites (packRead s id j x e) (ws.filter (fun w => !inWindow w.1)) = .ready u)

include hbody hw hws hlink hu

theorem packBody_prompt : packBody (acting s j) id j = promptSent id (notePin e j) p (outputsWritten id ws u) := by
  have hposts : ¬((packWrites j.entry p).any (fun w => inWindow w.1) &&
      (packRead s id j x e).aedup.link.state != .active) = true := by
    rw [hws, Bool.and_eq_true, List.any_eq_true, bne_iff_ne]
    rintro ⟨⟨w, hmem, hwin⟩, hne⟩
    exact hne (hlink w hmem hwin)
  rw [hbody, packGo_prompt (j := notePin e j) p hw]
  refine (if_neg hposts).trans ?_
  unfold withWrites
  rw [show packWrites (notePin e j).entry p = ws from hws, hu]

include h hx

/-- The prompt and the report stand in memory. -/
theorem exec_pack_local (hlocal : pcRemote j.entry = false) :
    ∃ t, exec (.pack id) s = .next t ∧ pinned s t (pcIndex j.entry) id e x ∧
      tabGet t.jobs id = some (startWork (notePin e j)) ∧ (∀ a, byteAt t a = byteAt (writeAll s ws) a) ∧
      Beside s t id j.ctx ∧ HoldingsKept s t := by
  have hdone := prompted_outputs ws (runsNow_job h) hx (prepareWrites_units hu)
  obtain ⟨hpin, hbytes, hbeside, hheld⟩ := hdone.quiet (quiet_unacted _ id j.ctx)
  exact ⟨_, runJob_next h ((packBody_prompt hbody hw hws hlink hu).trans
    (if_neg (Bool.eq_false_iff.1 hlocal))), hpin, hdone.job, hbytes, hbeside, hheld⟩

/-- The report stands in memory, and the prompt has left for the peer. -/
theorem exec_pack_remote {k q : Nat} (hremote : pcRemote j.entry = true) (hbound : boundJob s j.ctx = some k)
    (hroute : flowRoute s k (pcPeer j.entry) = some q) :
    ∃ t, exec (.pack id) s = .next t ∧ pinned s t (pcIndex j.entry) id e x ∧
      tabGet t.jobs id = some (awaits (ceilDiv (4 * p.prompt.length) 128) (startWork (notePin e j))) ∧
      (∀ a, byteAt t a = byteAt (writeAll s ws) a) ∧ Beside s t id j.ctx ∧ HoldingsKept s t := by
  have hdone := prompted_outputs ws (runsNow_job h) hx (prepareWrites_units hu)
  have hsent := toPeer_sent (j := notePin e j) (pcDest j.entry + 64) (tokenWords p.prompt) hdone.job rfl
    ((boundJob_congr (hdone.regs _ (by decide)) j.ctx).trans hbound)
    ((congrFun (congrFun (flowRoute_congr (hdone.regs _ (by decide))) k) (pcPeer j.entry)).trans hroute)
  rw [tokenWords_length] at hsent
  obtain ⟨hpin, hbytes, hbeside, hheld⟩ := hdone.quiet (hsent.quiet.trans (quiet_unacted _ id j.ctx))
  exact ⟨_, runJob_next h ((packBody_prompt hbody hw hws hlink hu).trans (if_pos hremote)), hpin, hsent.job,
    hbytes, hbeside, hheld⟩

end prompt

/-! ### The mailbox header, and the end (R281) -/

/-- The outcomes of a PACK are counted. -/
def packCounted (j : Job) (p : Packed) (t : State) : State :=
  let s1 := bump (bump t Key.PACK_DUPLICATES (p.packing.outcomes.filter (fun o => o.code == 2)).length) Key.PACK_TRUNCATIONS
    (p.packing.outcomes.filter (fun o => o.code == 1)).length
  if pcRemote j.entry then bump s1 Key.PACK_REMOTE_HANDOFFS 1 else s1

theorem packEnd_eq (s : State) (id : Nat) (j : Job) (p : Packed) : packEnd s id j p =
    finish (packCounted j p s) id (packStatus p) (p.packing.kept.length * 2 ^ 32 + p.prompt.length) := rfl

theorem quiet_packCounted (j : Job) (p : Packed) (t : State) (id c : Nat) : Quiet t (packCounted j p t) id c := by
  have houtcomes (n m : Nat) : Quiet t (bump (bump t Key.PACK_DUPLICATES n) Key.PACK_TRUNCATIONS m) id c :=
    (quiet_bump t _ n id c (by decide)).trans (quiet_bump _ _ m id c (by decide))
  unfold packCounted
  dsimp only
  split
  · exact (houtcomes _ _).trans (quiet_bump _ _ 1 id c (by decide))
  · exact houtcomes _ _

theorem packCounted_jobs (j : Job) (p : Packed) (t : State) : (packCounted j p t).jobs = t.jobs := by
  unfold packCounted
  dsimp only
  split <;> rfl

theorem packCounted_mem (j : Job) (p : Packed) (t : State) : (packCounted j p t).mem = t.mem := by
  unfold packCounted
  dsimp only
  split <;> rfl

theorem reg_packCounted (j : Job) (p : Packed) (t : State) :
    reg (packCounted j p t) Key.PACK_PACKS = reg t Key.PACK_PACKS := by
  have houtcomes (n m : Nat) : reg (bump (bump t Key.PACK_DUPLICATES n) Key.PACK_TRUNCATIONS m) Key.PACK_PACKS =
      reg t Key.PACK_PACKS := (reg_bump_ne _ m (by decide)).trans (reg_bump_ne t n (by decide))
  unfold packCounted
  dsimp only
  split
  · exact (reg_bump_ne _ 1 (by decide)).trans (houtcomes _ _)
  · exact houtcomes _ _

/-- A PACK's mailbox header, as bytes. -/
def headerBytes (s : State) (j : Job) (p : Packed) : List Nat :=
  leBytes 64 (mailboxHeader s j ((reg s Key.PACK_PACKS + 1) % 2 ^ 64) p)

theorem headerBytes_length (s : State) (j : Job) (p : Packed) : (headerBytes s j p).length = 64 := leBytes_length 64 _

theorem headerBytes_lt (s : State) (j : Job) (p : Packed) : ∀ b ∈ headerBytes s j p, b < 256 := leBytes_lt 64 _

theorem headerBytes_acting (s : State) (i j : Job) (p : Packed) : headerBytes (acting s i) j p = headerBytes s j p := rfl

theorem packGo_header {s : State} {id : Nat} {j : Job} (p : Packed) (hw : j.work = [1]) : packGo s id j p =
    if pcRemote j.entry then toPeer id j (pcDest j.entry) (headerBytes s j p) (updJob (bump s Key.PACK_PACKS 1) id (goOn [2]))
    else withWrite s id (pcDest j.entry) 64 (fun t =>
      packEnd (bump (writeBytes t (pcDest j.entry) (headerBytes s j p)) Key.PACK_PACKS 1) id j p) := by
  unfold packGo
  dsimp only
  rw [hw]
  rfl

theorem packGo_last {s : State} {id : Nat} {j : Job} (p : Packed) (hw : j.work = [2]) : packGo s id j p = packEnd s id j p := by
  unfold packGo
  dsimp only
  rw [hw]
  rfl

/-- Few bytes leave for a peer in one message. -/
theorem remoteWrites_one {t : State} {id c k dest : Nat} (a : Nat) {bs : List Nat} (hopen : isOpen t id = true) (hne : bs ≠ [])
    (hlen : bs.length ≤ 128) :
    remoteWrites id c k dest 1 t a bs = issueRemote t id c k dest true a bs.length (ofLeBytes bs) := by
  unfold remoteWrites
  rw [if_neg (by simp [hopen, hne])]
  dsimp only
  rw [List.take_of_length_le hlen]
  rfl

section header

variable {s : State} {id e : Nat} {j : Job} {p : Packed} (h : runsNow s id Op.PACK packSources j = true)
  (hbody : packBody (acting s j) id j = packGo (acting s j) id (notePin e j) p)

include h hbody

/-- The header is written last, and the PACK ends. -/
theorem exec_pack_header {u : State} (hw : j.work = [1]) (hlocal : pcRemote j.entry = false)
    (hu : prepareWrite (acting s j) (pcDest j.entry) 64 = .ready u) :
    ∃ t, exec (.pack id) s = .next t ∧
      EndsWith s t id j (pcDest j.entry) (headerBytes s (notePin e j) p) (packStatus p)
        (p.packing.kept.length * 2 ^ 32 + p.prompt.length) ∧
      reg t Key.PACK_PACKS = reg (bump s Key.PACK_PACKS 1) Key.PACK_PACKS := by
  have hstep := hbody.trans ((packGo_header (j := notePin e j) p hw).trans (if_neg (Bool.eq_false_iff.1 hlocal)))
  rw [headerBytes_acting] at hstep
  refine ⟨_, runJob_next h hstep, ?_, ?_⟩
  · refine EndsWith.unacted (endsWith_withWrite (fun t => packCounted (notePin e j) p (bump t Key.PACK_PACKS 1))
      (headerBytes_length s (notePin e j) p).symm (headerBytes_lt s (notePin e j) p)
      (quiet_acting s j id j.ctx) hu (runsNow_acting h) fun t => ⟨?_, packCounted_jobs _ p _, ?_, ?_⟩)
    · exact (quiet_bump t Key.PACK_PACKS 1 id j.ctx (by decide)).trans (quiet_packCounted _ p _ id j.ctx)
    · exact congrArg MemS.dev (packCounted_mem _ p _)
    · exact congrArg MemS.comp (packCounted_mem _ p _)
  · exact reg_written_end (fun t => packCounted (notePin e j) p (bump t Key.PACK_PACKS 1)) (by decide) hu rfl
      fun t => reg_packCounted _ p _

/-- With REMOTE the header leaves for the peer. -/
theorem exec_pack_headerRemote {k q : Nat} (hw : j.work = [1]) (hremote : pcRemote j.entry = true)
    (hbound : boundJob s j.ctx = some k) (hroute : flowRoute s k (pcPeer j.entry) = some q) :
    ∃ t, exec (.pack id) s = .next t ∧ tabGet t.jobs id = some (awaits 1 (goOn [2] j)) ∧
      Out.message (firstPort q) msgRmtWr (pcPeer j.entry) s.pelgan.nextTag (ofLeBytes (headerBytes s (notePin e j) p)) ∈ t.out ∧
      Quiet s t id j.ctx := by
  have hjob : tabGet (updJob (bump (acting s j) Key.PACK_PACKS 1) id (goOn [2])).jobs id = some (goOn [2] j) :=
    (updJob_get _ id (goOn [2])).trans (congrArg (Option.map (goOn [2])) (runsNow_job h))
  have hopen : isOpen (updJob (bump (acting s j) Key.PACK_PACKS 1) id (goOn [2])) id = true :=
    (isOpen_of_get hjob).trans (runsNow_open h : openJob j = true)
  have hbinds : boundJob (updJob (bump (acting s j) Key.PACK_PACKS 1) id (goOn [2])) j.ctx = some k :=
    (boundJob_congr (reg_bump_ne s 1 (by decide)) j.ctx).trans hbound
  have hflow : flowRoute (updJob (bump (acting s j) Key.PACK_PACKS 1) id (goOn [2])) k (pcPeer j.entry) = some q :=
    (congrFun (congrFun (flowRoute_congr (reg_bump_ne s 1 (by decide))) k) _).trans hroute
  have hstep : packBody (acting s j) id j = issueRemote (updJob (bump (acting s j) Key.PACK_PACKS 1) id (goOn [2])) id j.ctx k
      (pcPeer j.entry) true (pcDest j.entry) (headerBytes s (notePin e j) p).length
      (ofLeBytes (headerBytes s (notePin e j) p)) := by
    rw [hbody, packGo_header (j := notePin e j) p hw]
    refine (if_pos hremote).trans ?_
    unfold toPeer
    rw [show boundJob (updJob (bump (acting s j) Key.PACK_PACKS 1) id (goOn [2])) (notePin e j).ctx = some k from hbinds,
      headerBytes_acting]
    have hlen := headerBytes_length s (notePin e j) p
    dsimp only
    rw [show (headerBytes s (notePin e j) p).length / 128 + 1 = 1 by rw [hlen]]
    exact remoteWrites_one _ hopen (List.ne_nil_of_length_pos (by omega)) (by omega)
  obtain ⟨hsent, hout⟩ := issueRemote_sent (c := j.ctx) hflow hjob (pcDest j.entry) (headerBytes s (notePin e j) p).length
    (ofLeBytes (headerBytes s (notePin e j) p))
  exact ⟨_, runJob_next h hstep, hsent.job, hout, (((quiet_acting s j id j.ctx).trans
    ((quiet_bump _ Key.PACK_PACKS 1 id j.ctx (by decide)).trans (quiet_updJob _ id j.ctx _))).trans hsent.quiet).trans
    (quiet_unacted _ id j.ctx)⟩

/-- A PACK whose header has left ends. -/
theorem exec_pack_ends (hw : j.work = [2]) : ∃ t, exec (.pack id) s = .next t ∧
    EndsOnly s t id j (packStatus p) (p.packing.kept.length * 2 ^ 32 + p.prompt.length) := by
  refine ⟨_, runJob_next h ((hbody.trans (packGo_last p hw)).trans (packEnd_eq _ id _ p)), (endsOnly_finish (packStatus p) _
    ((quiet_acting s j id j.ctx).trans (quiet_packCounted (notePin e j) p _ id j.ctx)) ?_).unacted⟩
  rw [packCounted_jobs]
  exact runsNow_acting h

end header

/-! ### The statement -/

/-- Settles O54: each step of the two commands is one branch of its body, and what the branch does is told once above: an ending
at a check, a pinned epoch, a batch delivered and run, the scores taken, or outputs written here or sent to the peer. -/
theorem rankCommands : Obligations.RankCommands := by
  unfold Obligations.RankCommands
  refine ⟨?start, ?batch, ?running, ?ending, ?pack⟩
  case start =>
    intro s id d hd j x h hx hw hsrc hcand hmore hdesc hhead
    subst hdesc hhead
    refine ⟨exec_crossRerank_version h hx hw hsrc hcand hmore, fun hdv hhv hbad =>
      exec_crossRerank_fields h hx hw hsrc hcand hmore hdv hhv (xrFieldsBad_iff.2 hbad), fun hdv hhv hrange hdesc hmeet => ?_⟩
    have hfields (hk : shResCount (natAt s (xrCand j.entry) 64) = 0 ∨
        xrKout j.entry ≤ shResCount (natAt s (xrCand j.entry) 64)) : xrFieldsBad s id j = false := by
      rw [Bool.eq_false_iff, Ne, xrFieldsBad_iff, hrange, hdesc]
      rintro (hbad | hbad | ⟨r, hr, hbad⟩ | ⟨hless, hne⟩)
      · exact Bool.noConfusion hbad
      · exact Bool.noConfusion hbad
      · exact Bool.eq_false_iff.1 (hmeet r hr) hbad
      · omega
    refine ⟨fun hnone => exec_crossRerank_noop h hx hw hsrc hcand hmore hdv hhv (hfields (.inl hnone)) hnone,
      fun hsome hk => ⟨fun hlater => ?_, fun hlate hretired => ?_, fun hlate hold hinputs htexts => ?_⟩⟩
    · exact exec_crossRerank_epoch h hx hw hsrc hcand hmore hdv hhv (hfields (.inr hk)) hsome (pinHeader_later hlater)
    · exact exec_crossRerank_epoch h hx hw hsrc hcand hmore hdv hhv (hfields (.inr hk)) hsome
        (pinHeader_retired (s := acting s j) hlate hretired)
    · exact exec_crossRerank_starts h hx hw hsrc hcand hmore hdv hhv (hfields (.inr hk)) hsome hlate hold hinputs htexts
  case batch =>
    intro s id d emb j x m scores h hx hw hd hmore hemb hm
    subst hd
    exact ⟨exec_crossRerank_unreadable h hx hw hmore hemb hm rfl, fun ws hgood hmay hws hclaim =>
      exec_crossRerank_runs h hx hw hmore hemb hm rfl hgood hmay hws hclaim⟩
  case running =>
    intro s id d j x r scores h hx hw hd hr hst
    exact ⟨exec_crossRerank_waits h hx hw hr hst, exec_crossRerank_scores h hx hw hr hst hd.symm⟩
  case ending =>
    intro s id d j x scores cs h hx hw hd hcs hdone
    exact ⟨exec_crossRerank_endUnreadable h hx hw hd.symm hcs.symm hdone, fun u bs best hgood hbs hbest hu =>
      exec_crossRerank_end h hx hw hd.symm hcs.symm hdone hgood hbs.symm hbest.symm hu⟩
  case pack =>
    intro s id hd j x h hx hreads hhead
    subst hhead
    refine ⟨fun st r hbad => ⟨_, runJob_next h (packBody_refused hx hreads hbad), endsOnly_at_once h _ _⟩,
      fun l pre post hl => ⟨exec_pack_version h hx hreads hl, exec_pack_ranges h hx hreads hl,
        fun hv hranges hnone => ⟨fun hlater => ?_, fun hlate hretired => ?_⟩, ?_, ?_, ?_, ?_, ?_⟩⟩
    · exact exec_pack_epoch h hx hreads hl hv hranges hnone (pinHeader_later hlater)
    · exact exec_pack_epoch h hx hreads hl hv hranges hnone (pinHeader_retired (s := acting s j) hlate hretired)
    · intro p ws u hv hranges hnone hw hlate hold htexts hlocal hp hws hlink hu
      subst hp
      exact exec_pack_local h hx (packBody_first hx hreads hl hv hranges rfl htexts hnone hw hlate hold) hw hws.symm hlink hu
        hlocal
    · intro p ws k q u hv hranges hnone hw hlate hold htexts hremote hbound hroute hp hws hlink hu
      subst hp
      exact exec_pack_remote h hx (packBody_first hx hreads hl hv hranges rfl htexts hnone hw hlate hold) hw hws.symm hlink hu
        hremote hbound hroute
    · intro p u bs hv hranges hpinned hw htexts hlocal hp hbs hu
      subst hp hbs
      exact exec_pack_header h (packBody_later hx hreads hl hv hranges rfl htexts hpinned (by simp [hw])) hw hlocal hu
    · intro p k q hv hranges hpinned hw htexts hremote hbound hroute hp
      subst hp
      exact exec_pack_headerRemote h (packBody_later hx hreads hl hv hranges rfl htexts hpinned (by simp [hw])) hw hremote
        hbound hroute
    · intro p hv hranges hpinned hw htexts hp
      subst hp
      exact exec_pack_ends h (packBody_later hx hreads hl hv hranges rfl htexts hpinned (by simp [hw])) hw

end Sys2Proof.Machine

/-! SUPPORT. What every step does with the queue and with the factory's data, and the state at reset. -/

namespace Sys2Proof.Machine

/-- A command that keeps the EEPROM's factory fields keeps the list of them. -/
theorem factoryData_of_keeps {s t : State} (h : EepromKeeps s.eeprom t.eeprom) : factoryData t = factoryData s := by
  obtain ⟨hserial, hmac, hstep, hpubkey, hcert, hidentity, htrims, -⟩ := h
  simp only [factoryData, hserial, hmac, hstep, hpubkey, hcert, hidentity, htrims]

/-- Settles O2, by the definition of a step. -/
theorem idleOnEmptyQueue : Obligations.IdleOnEmptyQueue := by
  intro s hempty
  unfold step
  rw [hempty]

/-- Settles O5: the front command keeps the rest of the queue, by the law of its row. -/
theorem stepTakesOneCommand : Obligations.StepTakesOneCommand := by
  intro s
  cases hqueue : s.pending with
  | nil => exact ⟨s, idleOnEmptyQueue s hqueue, hqueue⟩
  | cons c rest =>
    obtain ⟨t, hexec, hkeeps⟩ := exec_keeps c { s with pending := rest }
    refine ⟨t, ?_, hkeeps.pending⟩
    unfold step
    rw [hqueue]
    exact hexec

/-- Settles O6, by the law of each command's row. -/
theorem factoryDataStays : Obligations.FactoryDataStays := by
  intro c s
  obtain ⟨t, hexec, hkeeps⟩ := exec_keeps c s
  exact ⟨t, hexec, factoryData_of_keeps hkeeps.eeprom, hkeeps.eeprom.quarantines⟩

/-- At reset every entry shows its default. -/
theorem reg_reset (k : Nat) : reg State.reset k = defaultOf k := rfl

/-- Settles O7: the parts of the state are empty at reset, and the entries' defaults stand in their rows. -/
theorem resetValues : Obligations.ResetValues := by
  refine ⟨rfl, rfl, rfl, rfl, rfl, rfl, rfl, ?_, ?_, ?_, ?_⟩
  · rw [reg_reset, defaultOf, row_HEM_BEAT_PERIOD]
    rfl
  · rw [reg_reset, defaultOf, row_PERF_FREEZE]
    rfl
  · rw [reg_reset]
    decide +kernel
  · rw [reg_reset]
    decide +kernel

end Sys2Proof.Machine

/-! SUPPORT. The TAP, the entry into test mode, and the stages of the shut-down test (chapter 21). -/

namespace Sys2Proof.Machine

/-! ### The TAP (R417, R418) -/

/-- What is sent and counted disturbs no work. -/
theorem undisturbed_of_side {s t : State} (h : Side s t) : Undisturbed s t where
  start := h.start
  jobs := h.jobs
  ctxs := h.ctxs
  queues := h.queues
  mem := h.mem
  pocket := h.pocket
  acc := h.acc
  array := h.array
  models := h.models
  vocabs := h.vocabs
  grammars := h.grammars
  indexes := h.indexes
  queries := h.queries
  belt := h.belt
  kv := h.kv
  gens := h.gens
  sec := h.sec
  power := h.power
  chip := h.chip
  hem := h.hem
  eeprom := h.eeprom
  log := h.log

theorem Undisturbed.trans {s t u : State} (h : Undisturbed s t) (k : Undisturbed t u) : Undisturbed s u where
  start := k.start.trans h.start
  jobs := k.jobs.trans h.jobs
  ctxs := k.ctxs.trans h.ctxs
  queues := k.queues.trans h.queues
  mem := k.mem.trans h.mem
  pocket := k.pocket.trans h.pocket
  acc := k.acc.trans h.acc
  array := k.array.trans h.array
  models := k.models.trans h.models
  vocabs := k.vocabs.trans h.vocabs
  grammars := k.grammars.trans h.grammars
  indexes := k.indexes.trans h.indexes
  queries := k.queries.trans h.queries
  belt := k.belt.trans h.belt
  kv := k.kv.trans h.kv
  gens := k.gens.trans h.gens
  sec := k.sec.trans h.sec
  power := k.power.trans h.power
  chip := k.chip.trans h.chip
  hem := k.hem.trans h.hem
  eeprom := k.eeprom.trans h.eeprom
  log := k.log.trans h.log

/-- An instruction of the TAP is no work of the device. -/
theorem undisturbed_selectTap (s : State) (i : TapInstr) : Undisturbed s (selectTap s i) := by
  constructor <;> rfl

/-- An instruction is selected and its register is shifted out. -/
theorem tap_answers (s : State) (i : TapInstr) (length value : Nat) :
    (send (selectTap s i) (.tap length value)).test.tap = i ∧
      .tap length value ∈ (send (selectTap s i) (.tap length value)).out ∧
      Undisturbed s (send (selectTap s i) (.tap length value)) := by
  have hside := side_send (selectTap s i) (.tap length value)
  exact ⟨by rw [hside.test]; rfl, mem_send _ _, (undisturbed_selectTap s i).trans (undisturbed_of_side hside)⟩

/-- Settles O27: by what a selection changes, and by the TAP's answer to an instruction that it does not know. -/
theorem tapAccess : Obligations.TapAccess := by
  refine ⟨fun s => ⟨_, rfl, tap_answers s .bypass 1 0⟩, fun s => ⟨_, rfl, tap_answers s .idcode 32 idcode⟩, by decide,
    fun s => ⟨_, rfl, rfl, rfl, undisturbed_selectTap s .samplePreload⟩, fun s hmode => ?_⟩
  exact congrArg Host.Outcome.next (if_neg (by simpa using hmode))

/-! ### TEST_ENTER (R418, R442) -/

/-- A cause that asserts the alert output holds it, beside those that do. -/
theorem mem_assertAlert (s : State) (c : AlertCause) : c ∈ (assertAlert s c).alerts := by
  unfold assertAlert
  split
  · next hheld => simpa using hheld
  · dsimp only
    split <;> simp

theorem abortAll_mem (s : State) : (abortAll s).mem = s.mem :=
  foldl_keeps_obs (fun t => t.mem) _ _ (fun _ _ _ => beginAbort_mem _ _ _) s

theorem abortAll_alerts (s : State) : (abortAll s).alerts = s.alerts :=
  foldl_keeps_obs (fun t => t.alerts) _ _ (fun _ _ _ => beginAbort_alerts _ _ _) s

/-- The links that were protected are reset, and nothing but a link's loss happens. -/
theorem linkLoss_dropProtected (s : State) : LinkLoss s (dropProtected s) := by
  unfold dropProtected
  refine LinkLoss.trans ?_ (linkLoss_foldl _ _ (fun t p => linkLoss_linkDown t (.pelgan p)) _)
  split
  · exact linkLoss_aedupReset s
  · exact LinkLoss.refl s

/-- No context has a SEED left. -/
theorem seed_zeroSecrets (s : State) (c : Nat) : field (ctxOf (zeroSecrets s) c).genState 192 64 = 0 := by
  unfold ctxOf zeroSecrets
  dsimp only
  rw [tabGet_tabMap]
  cases tabGet s.ctxs c with
  | none => rfl
  | some x => exact field_setField_self _ _ _ _

/-- The state that TEST_ENTER reaches before it resets the protected links. -/
def testStopped (s : State) : State :=
  zeroSecrets { abortAll (assertAlert s .testMode) with
    chip := { (abortAll (assertAlert s .testMode)).chip with stopped := true }
    test := { (abortAll (assertAlert s .testMode)).test with slices := [], longRun := false, shutdown := 0 } }

theorem testEnter_powered {s : State} (h : s.start ≠ .off) :
    testEnter s = setReg (dropProtected (testStopped s)) Key.TEST_TEST_MODE 1 :=
  if_neg (by simpa using h)

/-- Settles O28: the secrets and the work go before the links do, whose loss brings none of them back. -/
theorem testMode : Obligations.TestMode := by
  refine ⟨fun s hpowered => ?_, fun s hoff => congrArg Host.Outcome.next (if_pos (by simpa using hoff)),
    fun s => ⟨_, rfl, rfl, rfl, rfl, undisturbed_selectTap s .idcode⟩,
    fun s hmode => congrArg Host.Outcome.next (if_pos (by simpa using hmode))⟩
  refine ⟨_, congrArg Host.Outcome.next (testEnter_powered hpowered), reg_setReg_self _ _ _, ?_⟩
  have hloss := linkLoss_dropProtected (testStopped s)
  have hctx : ∀ c, field (ctxOf (dropProtected (testStopped s)) c).genState 192 64 = 0 := fun c => by
    rw [hloss.ctx]
    exact seed_zeroSecrets _ c
  refine ⟨congrArg ChipS.stopped hloss.chip, ?_, congrArg SecS.slots hloss.sec, hloss.sessions rfl,
    congrArg SecS.rootKey hloss.sec, congrArg TestS.slices hloss.test, ?_, hctx⟩
  · rw [setReg_alerts, hloss.alerts]
    exact (abortAll_alerts _).symm ▸ mem_assertAlert s .testMode
  · rw [setReg_mem, hloss.mem]
    exact (abortAll_mem _).trans (assertAlert_mem _ _)

/-! ### Regions asked to wake (R387, R463) -/

theorem askWake_waking (s : State) (r : Nat) : (askWake s r).power.waking =
    if bitOf (reg s Key.POWER_REGION_SLEEP_MAP) r then s.power.waking ++ [r] else s.power.waking := by
  unfold askWake
  split <;> rfl

theorem reg_showPower_ne (s : State) {k : Nat} (h : k ≠ Key.POWER_STATE) : reg (showPower s) k = reg s k :=
  reg_setReg_ne _ _ h

/-- A region that is asked to wake sleeps no more, and the others sleep or not as they did. -/
theorem sleeps_askWake (s : State) (r q : Nat) : bitOf (reg (askWake s r) Key.POWER_REGION_SLEEP_MAP) q =
    (bitOf (reg s Key.POWER_REGION_SLEEP_MAP) q && q != r) := by
  unfold askWake
  split
  · rw [reg_showPower_ne _ (by decide)]
    refine (congrArg (bitOf · q) (reg_setReg_self _ _ _)).trans ?_
    by_cases h : q = r
    · simp [h, bitOf_setField_self]
    · simp [h, bitOf_setField_ne]
  · next hawake =>
    by_cases h : q = r
    · simp [h, hawake]
    · simp [h]

theorem sleeps_askWakes (l : List Nat) (s : State) (q : Nat) :
    bitOf (reg (l.foldl askWake s) Key.POWER_REGION_SLEEP_MAP) q =
      (bitOf (reg s Key.POWER_REGION_SLEEP_MAP) q && !l.contains q) := by
  induction l generalizing s with
  | nil => simp
  | cons r l ih =>
    rw [List.foldl_cons, ih, sleeps_askWake, List.contains_cons, Bool.not_or, Bool.and_assoc]
    rfl

/-- Regions that wake already stay among those that wake. -/
theorem waking_askWakes (l : List Nat) (s : State) {q : Nat} (h : q ∈ s.power.waking) :
    q ∈ (l.foldl askWake s).power.waking := by
  induction l generalizing s with
  | nil => exact h
  | cons r l ih =>
    refine ih _ ?_
    rw [askWake_waking]
    split
    · exact List.mem_append_left _ h
    · exact h

/-- Of the regions that are asked to wake, each that slept wakes. -/
theorem askWakes_wake (l : List Nat) (s : State) {q : Nat} (hq : q ∈ l)
    (hsleeps : bitOf (reg s Key.POWER_REGION_SLEEP_MAP) q = true) : q ∈ (l.foldl askWake s).power.waking := by
  induction l generalizing s with
  | nil => exact absurd hq List.not_mem_nil
  | cons r l ih =>
    rw [List.foldl_cons]
    by_cases h : q = r
    · refine waking_askWakes l _ ?_
      rw [askWake_waking, if_pos (h ▸ hsleeps), h]
      exact List.mem_append_right _ (List.mem_singleton_self r)
    · refine ih _ ((List.mem_cons.1 hq).resolve_left h) ?_
      rw [sleeps_askWake, hsleeps]
      simpa using h

/-! ### The stages of the shut-down test (R410, R412) -/

/-- A quarantine leaves the clean record. -/
theorem quarantine_record (s : State) (b st : Nat) : (quarantine s b st).eeprom.record = s.eeprom.record := by
  unfold quarantine
  by_cases h : blockAvailable s b = true
  · rw [quarantineAs_eeprom st 0 h]
  · rw [quarantineAs, if_neg h]

theorem takeFailures_record (s : State) (bl pl al : List Nat) :
    (takeFailures s bl pl al).eeprom.record = s.eeprom.record :=
  foldl_keeps_obs (fun t => t.eeprom.record) _ _ (fun _ _ _ => quarantine_record _ _ _) s

/-- Where nothing has failed and no block waits for its boundary, the checks leave the map as it is. -/
theorem takeFailures_none {s : State} (pl al : List Nat) (hf : s.chip.fenced = []) (hp : s.chip.passed = []) :
    (takeFailures s [] pl al).eeprom = { s.eeprom with blockMap := reg s Key.CHIP_BLOCK_MAP } ∧
      beatNow (takeFailures s [] pl al) = beatNow s := by
  have hsettle : (takeFailures s [] pl al).eeprom = (settleMap s).eeprom := rfl
  refine ⟨?_, reg_setReg_ne _ _ (by decide)⟩
  rw [hsettle, settleMap, hf, hp]
  rfl

/-- Settles O26: the stage that the test is in decides what the command does. -/
theorem shutdownTestStages : Obligations.ShutdownTestStages := by
  refine ⟨?flush, ?waking, ?checks, ?record, ?ended⟩
  case flush =>
    intro s bl pl al nr f hstage hstaged
    have hnext : shutdownTestProgress s bl pl al nr f =
        (List.range 4).foldl askWake { settleFlush s with test := { s.test with shutdown := 2 } } := by
      simp [shutdownTestProgress, hstage, hstaged]
    refine ⟨_, congrArg Host.Outcome.next hnext, ?_, ?_, fun r hr hsleeps => ?_⟩
    · exact congrArg TestS.shutdown (foldl_keeps_obs (fun t => t.test) askWake _ (fun _ _ _ => askWake_test _ _) _)
    · exact (foldl_keeps_obs (fun t => t.eeprom) askWake _ (fun _ _ _ => askWake_eeprom _ _) _).trans (settleFlush_eeprom s)
    · refine askWakes_wake _ _ (List.mem_range.2 hr) (Eq.trans ?_ hsleeps)
      exact congrArg (bitOf · r) (reg_congr (settleFlush_regs s) _)
  case waking =>
    intro s bl pl al nr f hstage hwaking
    exact congrArg Host.Outcome.next (by simp [shutdownTestProgress, hstage, hwaking])
  case checks =>
    intro s bl pl al nr f hstage
    have hnext : shutdownTestProgress s bl pl al nr f = checksEnd s bl pl al nr f := by
      simp [shutdownTestProgress, hstage]
    refine ⟨_, congrArg Host.Outcome.next hnext, rfl, rfl, rfl, takeFailures_record s bl pl al, ?_⟩
    rintro rfl rfl rfl rfl hf hp hlt
    obtain ⟨heeprom, hbeat⟩ := takeFailures_none [] [] hf hp
    show cleanRecord (takeFailures s [] [] []) 0 0 (distinct []) (distinct []) f = _
    rw [cleanRecord, heeprom, hbeat]
    have hflag : flagBit (f == 0 && (0 : Nat) == 0 && (0 : Nat) == 0) * 2 ^ 8 = if f = 0 then 2 ^ 8 else 0 := by
      by_cases hzero : f = 0 <;> simp [flagBit, hzero]
    rw [hflag, Nat.mod_eq_of_lt hlt]
    simp [bitsFrom, distinct]
  case record =>
    intro s bl pl al nr f hstage
    have hnext : shutdownTestProgress s bl pl al nr f =
        setReg { s with
          eeprom := { s.eeprom with record := sealRecord s.test.record }
          test := { s.test with shutdown := 5 } } Key.TEST_SHUTDOWN_STATE 2 := by
      simp [shutdownTestProgress, hstage]
    exact ⟨_, congrArg Host.Outcome.next hnext, rfl, rfl, reg_setReg_self _ _ _, rfl⟩
  case ended =>
    intro s bl pl al nr f hstage
    have h : s.test.shutdown ≠ 1 ∧ s.test.shutdown ≠ 2 ∧ s.test.shutdown ≠ 3 ∧ s.test.shutdown ≠ 4 := by omega
    exact congrArg Host.Outcome.next (by simp [shutdownTestProgress, h])

end Sys2Proof.Machine

/-! SUPPORT. Chip resets, power failure, power errors, ACLK and the power states that an entry or a wake reaches (chapters 19
and 20). -/

namespace Sys2Proof.Machine

/-! ### Chip resets (R395 to R397, R407) -/

/-- The state in which a chip warm reset has ended the jobs, logged its cause and settled the map (R397). -/
def warmSettled (s : State) (unit : LogUnit) (inst cause detail : Nat) : State :=
  let s1 := ((List.range 255).filter (fun j => jobState (jobEntry s j) == 1 && (ctxOfJob s j).isSome)).foldl
    (fun t j => beginAbort t j Code.CTX_TORN_DOWN) s
  let s2 := logError s1 unit inst cause noCtx .warmReset detail
  settleMap { s2 with chip := { s2.chip with passed := [] } }

/-- The commands of `l` are lost in a warm reset. -/
def loseJobs (s : State) (l : List (Nat × Job)) : State := l.foldl (fun t p => loseJob t p.2) s

theorem warmSettled_mem (s : State) (unit : LogUnit) (inst cause detail : Nat) :
    (warmSettled s unit inst cause detail).mem = s.mem :=
  foldl_keeps_obs (fun t => t.mem) (fun t j => beginAbort t j Code.CTX_TORN_DOWN) _ (fun _ _ _ => beginAbort_mem _ _ _) s

theorem warmSettled_kept (s : State) (unit : LogUnit) (inst cause detail : Nat) :
    (warmSettled s unit inst cause detail).eeprom.kept = s.eeprom.kept :=
  foldl_keeps_obs (fun t => t.eeprom.kept) (fun t j => beginAbort t j Code.CTX_TORN_DOWN) _
    (fun _ _ _ => congrArg Eeprom.kept (beginAbort_eeprom _ _ _)) s

theorem loseJobs_mem (s : State) (l : List (Nat × Job)) : (loseJobs s l).mem = s.mem :=
  foldl_keeps_obs (fun t => t.mem) (fun t (p : Nat × Job) => loseJob t p.2) l (fun _ _ _ => rfl) s

theorem loseJobs_eeprom (s : State) (l : List (Nat × Job)) : (loseJobs s l).eeprom = s.eeprom :=
  foldl_keeps_obs (fun t => t.eeprom) (fun t (p : Nat × Job) => loseJob t p.2) l (fun _ _ _ => rfl) s

/-- A chip warm reset keeps what the flash tier holds durably (R396). -/
theorem warmReset_durable (s : State) (fatal : Bool) (unit : LogUnit) (inst cause detail : Nat) :
    (warmReset s fatal unit inst cause detail).mem.durable = s.mem.durable := by
  refine (congrArg MemS.durable (loseJobs_mem (warmSettled s unit inst cause detail) _)).trans ?_
  exact congrArg MemS.durable (warmSettled_mem s unit inst cause detail)

/-- It writes no entry of the EEPROM. -/
theorem warmReset_kept (s : State) (fatal : Bool) (unit : LogUnit) (inst cause detail : Nat) :
    (warmReset s fatal unit inst cause detail).eeprom.kept = s.eeprom.kept := by
  refine (congrArg Eeprom.kept (loseJobs_eeprom (warmSettled s unit inst cause detail) _)).trans ?_
  exact warmSettled_kept s unit inst cause detail

/-- Every context is FREE after a chip warm reset. -/
theorem warmReset_free (s : State) (fatal : Bool) (unit : LogUnit) (inst cause detail c : Nat) :
    (ctxOf (warmReset s fatal unit inst cause detail) c).state = .free := by
  have hfree : ∀ (t : Tab Ctx) (f : Nat → Ctx → Ctx), (∀ x, (f c x).state = .free) →
      ((tabGet (t.map (fun p => (p.1, f p.1 p.2))) c).getD {}).state = .free := fun t f hf => by
    rw [tabGet_map t f]
    cases tabGet t c with
    | none => rfl
    | some x => exact hf x
  exact hfree _ (fun _ x => { genTag := if x.state == .free then x.genTag else (x.genTag + 1) % 256, used := x.used })
    (fun _ => rfl)

/-- Where the chip stands after a warm reset: at POWER_GOOD with the EEPROM to be read, and without commands, queues, objects
or writes that wait. -/
structure WarmStarted (t : State) : Prop where
  start : t.start = .powerGood
  reading : t.power.reading = true
  jobs : t.jobs = []
  queues : t.queues = []
  objects : t.mem.objects = []
  waiting : t.dict.wb = []

theorem warmReset_started (s : State) (fatal : Bool) (unit : LogUnit) (inst cause detail : Nat) :
    WarmStarted (warmReset s fatal unit inst cause detail) := ⟨rfl, rfl, rfl, rfl, rfl, rfl⟩

theorem fatalError_fatal (s : State) (unit : LogUnit) (inst cause detail : Nat) :
    (fatalError s unit inst cause detail).fatal = true := rfl

/-- A warm reset that is asked for is one with open values for its cause and unit. -/
theorem askedWarmReset_powered {s : State} (h : s.start ≠ .off) :
    ∃ u unit cause, u = { s with freeCount := u.freeCount } ∧ askedWarmReset s = warmReset u false unit 0 cause 0 :=
  ⟨{ s with freeCount := s.freeCount + 1 + 1 }, _, _, rfl, if_neg (by simpa using h)⟩

/-- Settles O10, by the states that a loss of power and a warm reset leave. -/
theorem chipResets : Obligations.ChipResets := by
  refine ⟨fun s => ⟨_, rfl, rfl, rfl, rfl, rfl, rfl, rfl, rfl, rfl, rfl⟩, fun s hpowered => ?_, fun s hpowered => ?_⟩
  · have hnext : coldRst s = powerOn (powerLost s) := if_neg (by simpa using hpowered)
    exact ⟨_, congrArg Host.Outcome.next hnext, rfl, rfl, rfl, rfl, rfl, rfl, rfl⟩
  · obtain ⟨u, unit, cause, hu, hnext⟩ := askedWarmReset_powered hpowered
    have hstarted := warmReset_started u false unit 0 cause 0
    refine ⟨_, congrArg Host.Outcome.next hnext, hstarted.start, hstarted.reading, hstarted.jobs, hstarted.queues,
      warmReset_free u false unit 0 cause 0, ?_, hstarted.objects, hstarted.waiting⟩
    rw [warmReset_durable, hu]

/-! ### Power failure (R390) -/

theorem assertAlert_regs_side (s : State) (c : AlertCause) {k : Nat} (h : sideKey k = false) :
    reg (assertAlert s c) k = reg s k := by
  unfold assertAlert
  split
  · rfl
  · dsimp only
    split
    · exact reg_notify _ _ _ _ h
    · rfl

/-- The flush that a power failure begins changes neither the alert output nor the power's records. -/
theorem flushBegun (s : State) (l : List Nat) :
    (settleFlush (l.foldl startProgram s)).alerts = s.alerts ∧ (settleFlush (l.foldl startProgram s)).power = s.power := by
  rw [settleFlush_alerts, settleFlush_power]
  exact ⟨foldl_keeps_obs (fun t => t.alerts) _ _ (fun _ _ _ => startProgram_alerts _ _) s,
    foldl_keeps_obs (fun t => t.power) _ _ (fun _ _ _ => startProgram_power _ _) s⟩

/-- The state in which a power failure is known and ACLK is to fall. -/
def failKnown (s : State) : State :=
  { bump (assertAlert s .powerFail) Key.POWER_FAIL_EVENTS 1 with
    power := { s.power with aclkSaved := some (reg s Key.POWER_ACLK_NOW), aclkNext := some 600000000 } }

theorem pwrFailFall_powered {s : State} (hpowered : s.start ≠ .off) (hfail : powerFailing s = false) :
    pwrFailFall s = settleFlush ((stagedStripes (failKnown s) (failKnown s).mem.order).foldl startProgram (failKnown s)) := by
  have haclk : reg (bump (assertAlert s .powerFail) Key.POWER_FAIL_EVENTS 1) Key.POWER_ACLK_NOW =
      reg s Key.POWER_ACLK_NOW :=
    (reg_bump_ne _ _ (by decide)).trans (assertAlert_regs_side s .powerFail (by decide))
  have hpower : (bump (assertAlert s .powerFail) Key.POWER_FAIL_EVENTS 1).power = s.power := assertAlert_power s .powerFail
  unfold failKnown
  rw [← haclk, ← hpower]
  exact if_neg (by simp [hpowered, hfail])

/-! ### ACLK (R389) -/

/-- ACLK goes one step down when no change is in progress and it is above 0.60 GHz. -/
theorem aclkDown_steps {s : State} (hno : s.power.aclkNext = none) (habove : 600000000 < reg s Key.POWER_ACLK_NOW) :
    aclkDown s = bump { s with
      power := { s.power with aclkNext := some (reg s Key.POWER_ACLK_NOW - 50000000) } } Key.POWER_THROTTLE_EVENTS 1 := by
  unfold aclkDown
  exact if_neg (by simp [hno, habove])

/-- A fatal power error resets the chip with the fatal output asserted. -/
theorem powerFatal_reset (s : State) (row : Nat) : (powerFatal s row).fatal = true ∧ WarmStarted (powerFatal s row) :=
  ⟨rfl, warmReset_started _ _ _ _ _ _⟩

/-- Settles O11, event by event. -/
theorem powerEvents : Obligations.PowerEvents := by
  refine ⟨?fall, ?rise, ?slow, ?fatal, ?thermal, ?up, ?down, ?changed⟩
  case fall =>
    intro s hpowered hfail
    obtain ⟨halerts, hpower⟩ := flushBegun (failKnown s) (stagedStripes (failKnown s) (failKnown s).mem.order)
    refine ⟨_, congrArg Host.Outcome.next (pwrFailFall_powered hpowered hfail), ?_, ?_, ?_⟩
    · rw [halerts]
      exact mem_assertAlert s .powerFail
    all_goals rw [hpower, failKnown]
  case rise =>
    intro s hfail
    refine ⟨_, congrArg Host.Outcome.next (if_pos hfail), ?_, rfl⟩
    simp [releaseAlert]
  case slow =>
    intro s hpowered hno habove
    have haclk : reg (setReg s Key.POWER_ERRORS 7) Key.POWER_ACLK_NOW = reg s Key.POWER_ACLK_NOW :=
      reg_setReg_ne _ _ (by decide)
    have hnext : powerError s 7 = aclkDown (setReg s Key.POWER_ERRORS 7) := by simp [powerError, hpowered]
    refine ⟨_, congrArg Host.Outcome.next hnext, ?_⟩
    rw [aclkDown_steps (s := setReg s Key.POWER_ERRORS 7) hno (haclk.symm ▸ habove), haclk]
    exact ⟨(reg_bump_ne _ _ (by decide)).trans (reg_setReg_self s _ _), rfl, rfl⟩
  case fatal =>
    intro s row hpowered hlo hhi
    have hrow : row ≠ 0 ∧ ¬ 7 < row ∧ row ≠ 7 := by omega
    have hnext : powerError s row = powerFatal s row := by simp [powerError, hpowered, hrow]
    obtain ⟨hfatal, hstarted⟩ := powerFatal_reset s row
    exact ⟨_, congrArg Host.Outcome.next hnext, hfatal, hstarted.start, hstarted.jobs⟩
  case thermal =>
    intro s hottest hpowered hlt
    refine ⟨_, congrArg Host.Outcome.next (if_neg (by simpa using hpowered)), ?_, fun hhot => ?_, fun hcool => ?_⟩
    · exact (reg_setReg_self _ _ _).trans (Nat.mod_eq_of_lt hlt)
    · exact if_pos hhot
    · exact (if_neg (by omega)).trans (if_pos hcool)
  case up =>
    intro s hpowered hfail hcool hno hbelow
    have hnext : aclkStep s = { s with
        power := { s.power with aclkNext := some (reg s Key.POWER_ACLK_NOW + 50000000) } } := by
      simp [aclkStep, hpowered, hfail, hcool, hno, hbelow]
    exact congrArg Host.Outcome.next hnext
  case down =>
    intro s hpowered hfail hhot hno habove
    have hnext : aclkStep s = aclkDown s := by simp [aclkStep, hpowered, hfail, hhot]
    refine ⟨_, congrArg Host.Outcome.next hnext, ?_⟩
    rw [aclkDown_steps hno habove]
    rfl
  case changed =>
    intro s a ha
    have hnext : aclkChangeEnd s =
        capBuckets (setReg { s with power := { s.power with aclkNext := none } } Key.POWER_ACLK_NOW a) := by
      rw [aclkChangeEnd, ha]
    exact ⟨_, congrArg Host.Outcome.next hnext, reg_setReg_self _ _ _, rfl⟩

/-! ### The power state that an entry reaches, and the end of a wake (R387, R388, R463) -/

theorem idleAll_power (s : State) : (idleAll s).power = { s.power with blocks := [] } := countChip_power _ _ _ _

theorem sleepRegions_waking (s : State) (rs : List Nat) : (sleepRegions s rs).power.waking = s.power.waking :=
  foldl_keeps_obs (fun t => t.power.waking) (fun t r => setReg (loseRegion t r) Key.POWER_REGION_SLEEP_MAP
    (setField (reg t Key.POWER_REGION_SLEEP_MAP) r 1 1)) rs (fun _ _ _ => rfl) s

/-- Where no transition is in progress, POWER.STATE shows the level. -/
theorem showPower_settled {s : State} (he : s.power.entering = none) (hw : s.power.waking = []) :
    reg (showPower s) Key.POWER_STATE = s.power.level := by
  unfold showPower
  rw [reg_setReg_self, he, hw]
  rfl

/-- Every stack is in self-refresh once all of them have been put there. -/
theorem selfRefreshAll_stacks (s : State) : ∀ p ∈ (selfRefreshAll s true).mem.hbmStacks, p.2.selfRefresh = true := by
  intro p hp
  obtain ⟨q, -, rfl⟩ := List.mem_map.1 hp
  rfl

/-- The end of an entry with nothing asked meanwhile. -/
def entryEnded (s : State) : State := showPower { s with power := { s.power with entering := none, leave := none } }

theorem powerStateReached_idle {s : State} (he : s.power.entering = some .idle) (hl : s.power.leave = none) :
    powerStateReached s = entryEnded { idleAll s with power := { (idleAll s).power with level := 1 } } := by
  simp only [powerStateReached, he, hl]
  rfl

theorem powerStateReached_deepSleep {s : State} (he : s.power.entering = some .deepSleep) (hl : s.power.leave = none)
    (hm : ∀ p ∈ s.mem.units, p.2.move = none) :
    ∃ t, powerStateReached s = entryEnded { selfRefreshAll t true with power := { t.power with level := 2 } } ∧
      t.power.waking = s.power.waking := by
  have hstill : s.mem.units.any (fun p => p.2.move.isSome) = false := by
    rw [List.any_eq_false]
    intro p hp
    simp [hm p hp]
  refine ⟨sleepRegions s ((List.range 4).filter (fun r => !regionAsleep s r)), ?_, sleepRegions_waking _ _⟩
  simp only [powerStateReached, he, hl, hstill]
  rfl

/-- The end of a stage shows the estimate and the power state, and the last wake of start-up enters IDENTIFY: neither the power's
records nor the chip's change by that. -/
theorem regionWakeStage_last {s : State} {r : Nat} (hhead : s.power.waking.head? = some r) (hstage : s.power.stage = 7)
    (hreset : s.chip.resetting = []) :
    (regionWakeStage s r).power.waking = s.power.waking.tail ∧ (regionWakeStage s r).power.stage = 0 ∧
      (regionWakeStage s r).chip.closed = s.chip.closed.filter (fun x => x != r) := by
  have hshow : ∀ u : State, (if u.start == .ready then showPower u else u).power = u.power ∧
      (if u.start == .ready then showPower u else u).chip = u.chip := fun u => by split <;> exact ⟨rfl, rfl⟩
  have hidentify : ∀ (c : Bool) (u : State), (if c then enterIdentify u else u).power = u.power ∧
      (if c then enterIdentify u else u).chip = u.chip := fun c u => by split <;> exact ⟨rfl, rfl⟩
  unfold regionWakeStage
  rw [if_pos (by simp [hhead])]
  dsimp only
  rw [(hidentify _ _).1, (hidentify _ _).2]
  simp only [showEstimate, setReg_power, setReg_chip]
  rw [(hshow _).1, (hshow _).2, if_neg (by omega)]
  simp [takeFree, hreset]

end Sys2Proof.Machine

namespace Sys2Proof

open Sys2Proof.Machine

/-- Settles O13: what each entry leaves is told by its last change of the power's records. -/
theorem powerStateReached : Obligations.PowerStateReached := by
  refine ⟨fun s he hl hw => ?idle, fun s he hl hw hm => ?deepSleep, fun s r hhead hstage hreset => ?wake⟩
  case idle =>
    refine ⟨_, congrArg Host.Outcome.next (powerStateReached_idle he hl), ?_, rfl, ?_⟩
    · exact congrArg PowerS.blocks (idleAll_power s)
    · exact showPower_settled rfl ((congrArg PowerS.waking (idleAll_power s)).trans hw)
  case deepSleep =>
    obtain ⟨t, hnext, hwaking⟩ := powerStateReached_deepSleep he hl hm
    exact ⟨_, congrArg Host.Outcome.next hnext, rfl, showPower_settled rfl (hwaking.trans hw), selfRefreshAll_stacks t⟩
  case wake =>
    obtain ⟨hwaking, hstage', hclosed⟩ := regionWakeStage_last hhead hstage hreset
    refine ⟨_, rfl, hwaking, hstage', ?_⟩
    rw [hclosed]
    simp

end Sys2Proof

/-! SUPPORT. Writes of entries on a free path: the checks, the effect of the entry and the answer, for entries without a
behaviour of their own, for the power requests, and for the writes that end configuration or ask for a reset (chapters 18 to
20). -/

namespace Sys2Proof.Machine

/-! ### A write on a free path (R362, R365) -/

/-- A write that its entry has answered with a status, in the state that the entry leaves. -/
def answeredWrite (w : Nat × State) (p : Path) (k off len v : Nat) : State :=
  completeRequest w.2 (writeRequest p k off len v) w.1 (if w.1 == Code.OK then len else 0) 0

theorem wrote_answeredWrite (w : Nat × State) (p : Path) (k off len v : Nat) :
    wrote (answeredWrite w p k off len v) p k w.1 := wrote_completeRequest _ _ _ _ _ _ _ _ _

theorem reg_answeredWrite (w : Nat × State) (p : Path) (k off len v : Nat) {j : Nat} (h : replyKey j = false) :
    reg (answeredWrite w p k off len v) j = reg w.2 j := reg_completeRequest _ _ _ _ _ h

/-- The checks of a write that fits its entry and its path. -/
theorem check_write {s : State} {p : Path} {k off len v : Nat} {r : EntryRow} (hr : rowOf k = some r)
    (hs : servedNow s (writeRequest p k off len v) = true) (hp : hasRight r (writeRequest p k off len v) = true)
    (hl : len ≤ pathLimit p) (hf : fitsType r (writeRequest p k off len v) = true) :
    checkRequest s (writeRequest p k off len v) = (Code.OK, r) := by
  have hlen : ¬ pathLimit (writeRequest p k off len v).path < (writeRequest p k off len v).length := Nat.not_lt.2 hl
  unfold checkRequest
  simp only [show (writeRequest p k off len v).key = k from rfl, hr, hs, hp, hf, decide_eq_false hlen]
  rfl

theorem right_privileged {r : EntryRow} {p : Path} {k : Nat} (off len v : Nat) (ha : writable r = true)
    (hp : privileged p = true) (hk : k ≠ Key.SEC_KEY_LOAD) : hasRight r (writeRequest p k off len v) = true := by
  simp [hasRight, writeRequest, ha, hp, hk]

theorem fits_whole (r : EntryRow) (p : Path) (k v : Nat) : fitsType r (writeRequest p k 0 r.size v) = true := by
  unfold fitsType writeRequest
  split <;> simp

theorem limit_small (p : Path) {n : Nat} (h : n ≤ 192) : n ≤ pathLimit p := by
  cases p <;> simp only [pathLimit] <;> omega

/-- A write that passes its checks is answered with what its entry gives. -/
theorem writeOn_answered {s : State} {p : Path} {k off len v : Nat} {r : EntryRow} {w : Nat × State}
    (h : serviceFree s p = true) (hc : checkRequest (atService s p) (writeRequest p k off len v) = (Code.OK, r))
    (hk : k ≠ Key.QUEUE_ENABLE ∧ k ≠ Key.DIAG_RESET) (hl : 0 < len) (hv : v < 2 ^ (8 * len))
    (hw : writeEntry (atService s p) r k off len v = w) :
    writeOn s p k off len v = answeredWrite w p k off len v := by
  subst hw
  exact writeOn_passed h hc hk.1 hk.2 hl hv

/-- READY serves every request. -/
theorem served_ready {s : State} (p : Path) (q : Request) (hs : s.start = .ready) : servedNow (atService s p) q = true := by
  simp [servedNow, hs]

/-- A write of a whole entry in READY on a free privileged path. -/
theorem writeWhole_answered {s : State} {p : Path} {k v : Nat} {r : EntryRow} {w : Nat × State}
    (h : serviceFree s p = true) (hp : privileged p = true) (hs : s.start = .ready) (hr : rowOf k = some r)
    (ha : writable r = true) (hz : 0 < r.size ∧ r.size ≤ 192)
    (hk : k ≠ Key.QUEUE_ENABLE ∧ k ≠ Key.DIAG_RESET ∧ k ≠ Key.SEC_KEY_LOAD) (hv : v < 2 ^ (8 * r.size))
    (hw : writeEntry (atService s p) r k 0 r.size v = w) :
    writeOn s p k 0 r.size v = answeredWrite w p k 0 r.size v :=
  writeOn_answered h
    (check_write hr (served_ready p _ hs) (right_privileged _ _ _ ha hp hk.2.2) (limit_small p hz.2) (fits_whole r p k v))
    ⟨hk.1, hk.2.1⟩ hz.1 hv hw

theorem writeScalar_whole (s : State) (p : Path) {k : Nat} (v : Nat) {r : EntryRow} (hr : rowOf k = some r) :
    writeScalar s p k v = writeOn s p k 0 r.size v := by
  rw [writeScalar, sizeOf_, hr]

/-- An entry that has been locked is not locked anew by its path. -/
theorem lockedEntry_of_lock {s : State} {k : Nat} (p : Path) (h : k ∈ s.dict.locks) : lockedEntry (atService s p) k = true := by
  rw [atService_eq]
  simp [lockedEntry, h]

theorem atService_mem (s : State) (p : Path) : (atService s p).mem = s.mem := by rw [atService_eq]
theorem atService_eeprom (s : State) (p : Path) : (atService s p).eeprom = s.eeprom := by rw [atService_eq]
theorem atService_power (s : State) (p : Path) : (atService s p).power = s.power := by rw [atService_eq]
theorem atService_ctxs (s : State) (p : Path) : (atService s p).ctxs = s.ctxs := by rw [atService_eq]
theorem atService_jobs (s : State) (p : Path) : (atService s p).jobs = s.jobs := by rw [atService_eq]
theorem atService_chip (s : State) (p : Path) : (atService s p).chip = s.chip := by rw [atService_eq]
theorem atService_sec (s : State) (p : Path) : (atService s p).sec = s.sec := by rw [atService_eq]
theorem atService_belt (s : State) (p : Path) : (atService s p).belt = s.belt := by rw [atService_eq]
theorem atService_pelgan (s : State) (p : Path) : (atService s p).pelgan = s.pelgan := by rw [atService_eq]
theorem atService_aedup (s : State) (p : Path) : (atService s p).aedup = s.aedup := by rw [atService_eq]

/-! ### Entries without a behaviour of their own (R362, R40, R97) -/

/-- The entries of R362 that take a value at once, and those that take it at a boundary, which the statement on writes names. -/
def plainKeys : List Nat :=
  [Key.STORE_STAGING_LIMIT, Key.STORE_BACKGROUND_FLUSH, Key.CTX_STARVE_BEATS, Key.POCKET_DEFAULT_GROUP_MAP,
    Key.MEM_MOVE_BOUND, Key.MEM_PROMOTE, Key.HBM_SCRUB_HOURS, Key.FLASH_EXT_MODE, Key.FLASH_WRITE_AGE,
    Key.FLASH_THROTTLE, Key.SEARCH_COMPACT_EXTENTS, Key.RESET_DRAIN_US, Key.TEST_INOP_ENABLE, Key.TEST_PER_REGION,
    Key.AEDUP_PROTECT, Key.AEDUP_MIN_WIDTH, Key.PELGAN_GROUP_ID, Key.MGMT_NOTIFY]
def boundaryKeys : List Nat :=
  [Key.ARRAY_RAMP_STEP, Key.FORMAT_SCALE_RULE, Key.FORMAT_ROUNDING, Key.FORMAT_SHADOW_SHIFT,
    Key.FORMAT_FALLBACK_ENABLE, Key.COLLAR_SLEW_LIMIT, Key.COLLAR_CURRENT_LIMIT, Key.PERF_FREEZE, Key.OVERLAY_ACTIVE]

/-- A key's row is a scalar with an access right, and neither a reply nor another rule of the service touches the entry. -/
def scalarRow (acc : Access) (k : Nat) : Bool :=
  match rowOf k with
  | some r => r.acc == acc && r.ty != .domain && writable r && (0 < r.size && r.size ≤ 192) && !replyKey k &&
      k != Key.WARDROBE_BAND_ROWS && k != Key.QUEUE_ENABLE && k != Key.DIAG_RESET && k != Key.SEC_KEY_LOAD
  | none => false

theorem plainKeys_rows : plainKeys.all (scalarRow .rwPriv) = true := by decide +kernel
theorem boundaryKeys_rows : boundaryKeys.all (scalarRow .wbPriv) = true := by decide +kernel

/-- What the check of a scalar's row says of the row. -/
structure ScalarRow (acc : Access) (k : Nat) (r : EntryRow) : Prop where
  access : r.acc = acc
  scalar : (r.ty != .domain) = true
  writes : writable r = true
  size : 0 < r.size ∧ r.size ≤ 192
  silent : replyKey k = false
  band : k ≠ Key.WARDROBE_BAND_ROWS
  others : k ≠ Key.QUEUE_ENABLE ∧ k ≠ Key.DIAG_RESET ∧ k ≠ Key.SEC_KEY_LOAD

theorem scalarRow_of_mem {acc : Access} {l : List Nat} {k : Nat} {r : EntryRow} (hl : l.all (scalarRow acc) = true)
    (hk : k ∈ l) (hr : rowOf k = some r) : ScalarRow acc k r := by
  have hrow := List.all_eq_true.1 hl k hk
  simp only [scalarRow, hr, Bool.and_eq_true, decide_eq_true_eq, beq_iff_eq, Bool.not_eq_true'] at hrow
  obtain ⟨⟨⟨⟨⟨⟨⟨⟨hacc, hty⟩, hwrite⟩, hsize⟩, hsilent⟩, hband⟩, henable⟩, hreset⟩, hload⟩ := hrow
  exact ⟨hacc, hty, hwrite, hsize, hsilent, bne_iff_ne.1 hband, bne_iff_ne.1 henable, bne_iff_ne.1 hreset, bne_iff_ne.1 hload⟩

theorem writeEntry_plain : ∀ k ∈ plainKeys ++ boundaryKeys, ∀ (t : State) (r : EntryRow) (off len v : Nat),
    writeEntry t r k off len v =
      if lockedEntry t k then (Code.BAD_FIELD, t) else plainWrite t r k off len v := by
  refine List.forall_iff_forall_mem.1 ?_
  and_intros <;> exact fun _ _ _ _ _ => rfl

/-- A whole value that fits replaces the old one. -/
theorem setField_whole (v x n : Nat) (h : x < 2 ^ n) : setField v 0 n x % 2 ^ n = x := by
  have hfield := field_setField_self v 0 n x
  rw [Nat.mod_eq_of_lt h] at hfield
  simpa [field] using hfield

/-- An RW entry takes a value within its limits at once, and the EEPROM with it where it keeps the entry. -/
theorem plainWrite_rw {t : State} {k v : Nat} {r : EntryRow} (hrow : ScalarRow .rwPriv k r) (hin : inLimits k v = true)
    (hv : v < 2 ^ (8 * r.size)) :
    ∃ u, plainWrite t r k 0 r.size v = (Code.OK, u) ∧ reg u k = v ∧ u.dict = t.dict ∧ u.mem = t.mem ∧
      u.eeprom.kept = if r.eeprom then tabSet t.eeprom.kept k v else t.eeprom.kept := by
  have hvalue : setField (reg t k) (8 * 0) (8 * r.size) v % 2 ^ (8 * r.size) = v := setField_whole _ _ _ hv
  unfold plainWrite
  rw [if_neg (by simp [hin]), if_neg (by simp [hrow.access]), hvalue]
  simp only [hrow.access]
  refine ⟨_, rfl, ?_⟩
  rw [if_neg (by decide)]
  split
  · exact ⟨reg_setReg_self t k v, rfl, rfl, rfl⟩
  · exact ⟨reg_setReg_self t k v, rfl, rfl, rfl⟩

/-- A WB entry takes a value within its limits at its boundary. -/
theorem plainWrite_wb {t : State} {k v : Nat} {r : EntryRow} (hrow : ScalarRow .wbPriv k r) (hin : inLimits k v = true) :
    plainWrite t r k 0 r.size v = (Code.OK, pushWrite t k 0 r.size v []) := by
  unfold plainWrite
  rw [if_neg (by simp [hin]), if_pos (by simp [hrow.access])]

theorem writeEntry_bandRows (t : State) (r : EntryRow) (off len v : Nat) :
    writeEntry t r Key.WARDROBE_BAND_ROWS off len v =
      if lockedEntry t Key.WARDROBE_BAND_ROWS then (Code.BAD_FIELD, t)
      else plainWrite t r Key.WARDROBE_BAND_ROWS off len v := rfl

/-- WARDROBE.BAND_ROWS takes a value of its limits and is locked (R97). -/
theorem plainWrite_bandRows (t : State) {v : Nat} (hle : v ≤ 8192) (hmul : v % 16 = 0) :
    plainWrite t (row1 0x2500 1 .u16 2 .wo1Priv 2048) Key.WARDROBE_BAND_ROWS 0 2 v =
      (Code.OK, { setReg t Key.WARDROBE_BAND_ROWS v with
        dict := { t.dict with locks := Key.WARDROBE_BAND_ROWS :: t.dict.locks } }) := by
  have hin : inLimits Key.WARDROBE_BAND_ROWS v = (decide (v ≤ 8192) && v % 16 == 0) := rfl
  have hvalue : setField (reg t Key.WARDROBE_BAND_ROWS) (8 * 0) (8 * 2) v % 2 ^ (8 * 2) = v :=
    setField_whole _ _ _ (by omega)
  unfold plainWrite
  rw [hin, if_neg (by simp [hle, hmul]), if_neg (by decide)]
  exact congrArg (fun x => (Code.OK, { setReg t Key.WARDROBE_BAND_ROWS x with
    dict := { t.dict with locks := Key.WARDROBE_BAND_ROWS :: t.dict.locks } })) hvalue

theorem lockedEntry_bandRows {s : State} (p : Path) (h : Key.WARDROBE_BAND_ROWS ∉ s.dict.locks)
    (hctxs : ∀ q ∈ s.ctxs, q.2.used = false) : lockedEntry (atService s p) Key.WARDROBE_BAND_ROWS = false := by
  have hfree : s.ctxs.any (fun q => q.2.used) = false := List.any_eq_false.2 fun q hq => by simp [hctxs q hq]
  rw [atService_eq]
  simp [lockedEntry, h, hfree]

/-- Settles O14: the entry's own part of a write, and then the answer, which leaves what the entry leaves. -/
theorem registerWrites : Obligations.RegisterWrites := by
  refine ⟨?atOnce, ?boundary, ?locks, ?locked⟩
  case atOnce =>
    intro s p k v r h hp hs hmem hr hl hin hv
    have hk : k ∈ plainKeys := hmem
    have hrow := scalarRow_of_mem plainKeys_rows hk hr
    obtain ⟨u, hu, hreg, hdict, humem, hkept⟩ := plainWrite_rw (t := atService s p) hrow hin hv
    have hw : writeEntry (atService s p) r k 0 r.size v = (Code.OK, u) := by
      rw [writeEntry_plain _ (List.mem_append_left _ hk), lockedEntry_atService p hl hrow.band]
      exact hu
    refine ⟨_, congrArg Host.Outcome.next (writeWhole_answered h hp hs hr hrow.writes hrow.size hrow.others hv hw),
      wrote_answeredWrite _ _ _ _ _ _, (reg_answeredWrite _ _ _ _ _ _ hrow.silent).trans hreg, ?_, ?_, ?_⟩
    · rw [answeredWrite, completeRequest_wb, hdict, atService_wb]
    · rw [answeredWrite, completeRequest_mem, humem, atService_mem]
    · rw [answeredWrite, completeRequest_eeprom, hkept, atService_eeprom]
  case boundary =>
    intro s p k v r h hp hs hmem hr hl hin hv
    have hk : k ∈ boundaryKeys := hmem
    have hrow := scalarRow_of_mem boundaryKeys_rows hk hr
    obtain ⟨hwb, -, hreg⟩ := pushWrite_atService p k 0 r.size v [] hs
    have hw : writeEntry (atService s p) r k 0 r.size v = (Code.OK, pushWrite (atService s p) k 0 r.size v []) := by
      rw [writeEntry_plain _ (List.mem_append_right _ hk), lockedEntry_atService p hl hrow.band]
      exact plainWrite_wb hrow hin
    refine ⟨_, congrArg Host.Outcome.next (writeWhole_answered h hp hs hr hrow.writes hrow.size hrow.others hv hw),
      wrote_answeredWrite _ _ _ _ _ _, (reg_answeredWrite _ _ _ _ _ _ hrow.silent).trans (hreg k), ?_⟩
    rw [answeredWrite, completeRequest_wb, hwb]
  case locks =>
    intro s p v h hp hs hl hctxs hle hmul
    have hw : writeEntry (atService s p) (row1 0x2500 1 .u16 2 .wo1Priv 2048) Key.WARDROBE_BAND_ROWS 0 2 v = (Code.OK,
        { setReg (atService s p) Key.WARDROBE_BAND_ROWS v with
          dict := { (atService s p).dict with locks := Key.WARDROBE_BAND_ROWS :: (atService s p).dict.locks } }) := by
      rw [writeEntry_bandRows, lockedEntry_bandRows p hl hctxs]
      exact plainWrite_bandRows _ hle hmul
    refine ⟨_, congrArg Host.Outcome.next (writeWhole_answered h hp hs row_WARDROBE_BAND_ROWS rfl (by decide) (by decide)
      (Nat.lt_of_le_of_lt hle (by decide)) hw), wrote_answeredWrite _ _ _ _ _ _,
      (reg_answeredWrite _ _ _ _ _ _ (by decide)).trans (reg_setReg_self (atService s p) _ v), ?_⟩
    rw [answeredWrite, completeRequest_locks, atService_eq]
  case locked =>
    intro s p v h hp hs hl hv
    have hw : writeEntry (atService s p) (row1 0x2500 1 .u16 2 .wo1Priv 2048) Key.WARDROBE_BAND_ROWS 0 2 v =
        (Code.BAD_FIELD, atService s p) := by
      rw [writeEntry_bandRows, lockedEntry_of_lock p hl]
      rfl
    refine ⟨_, congrArg Host.Outcome.next (writeWhole_answered h hp hs row_WARDROBE_BAND_ROWS rfl (by decide) (by decide)
      hv hw), wrote_answeredWrite _ _ _ _ _ _,
      (reg_answeredWrite _ _ _ _ _ _ (by decide)).trans (reg_atService s p _), ?_, ?_⟩
    · rw [answeredWrite, completeRequest_mem, atService_mem]
    · rw [answeredWrite, completeRequest_eeprom, atService_eeprom]

end Sys2Proof.Machine

/-! SUPPORT. Writes that ask for a power state, that end configuration and that ask for a reset (chapters 18 to 20). -/

namespace Sys2Proof.Machine

/-! ### A scalar written whole on a free privileged path in READY -/

/-- What a scalar's entry answers to an unlocked write is what the write answers. -/
theorem writeScalar_eq_answeredWrite {s : State} {p : Path} {k v : Nat} {r : EntryRow} {w : Nat × State}
    (h : serviceFree s p = true) (hp : privileged p = true) (hs : s.start = .ready) (hr : rowOf k = some r)
    (ha : writable r = true) (hz : 0 < r.size ∧ r.size ≤ 192)
    (hk : k ≠ Key.QUEUE_ENABLE ∧ k ≠ Key.DIAG_RESET ∧ k ≠ Key.SEC_KEY_LOAD) (hv : v < 2 ^ (8 * r.size))
    (hw : writeEntry (atService s p) r k 0 r.size v = w) : writeScalar s p k v = answeredWrite w p k 0 r.size v :=
  (writeScalar_whole s p v hr).trans (writeWhole_answered h hp hs hr ha hz hk hv hw)

/-! ### The power requests (R388, R463) -/

theorem writeEntry_powerRequest {s : State} (p : Path) {v : Nat} (hl : Key.POWER_REQUEST ∉ s.dict.locks) (hv : v ≤ 2) :
    writeEntry (atService s p) (row1 0x3000 3 .u8 1 .rwPriv 0) Key.POWER_REQUEST 0 1 v = powerRequest (atService s p) v := by
  refine (if_neg ?_).trans (if_neg (Nat.not_lt.2 hv))
  simp [lockedEntry_atService p hl (by decide)]

theorem writeEntry_regionRequest {s : State} (p : Path) {v : Nat} (hl : Key.POWER_REGION_REQUEST ∉ s.dict.locks)
    (hv : v ≤ 15) : writeEntry (atService s p) (row1 0x3000 4 .u8 1 .rwPriv 0) Key.POWER_REGION_REQUEST 0 1 v =
      regionRequest (atService s p) v := by
  refine (if_neg ?_).trans (if_neg (Nat.not_lt.2 hv))
  simp [lockedEntry_atService p hl (by decide)]

/-- A power request on a free privileged path in READY is answered with what the request gives. -/
theorem powerRequest_answered {s : State} {p : Path} {v : Nat} (h : serviceFree s p = true) (hp : privileged p = true)
    (hs : s.start = .ready) (hl : Key.POWER_REQUEST ∉ s.dict.locks) (hv : v ≤ 2) :
    writeScalar s p Key.POWER_REQUEST v =
      answeredWrite (powerRequest (atService s p) v) p Key.POWER_REQUEST 0 1 v :=
  writeScalar_eq_answeredWrite h hp hs row_POWER_REQUEST rfl (by decide) (by decide) (Nat.lt_of_le_of_lt hv (by decide))
    (writeEntry_powerRequest p hl hv)

/-- A region that is asked to wake leaves the level. -/
theorem askWake_level (s : State) (r : Nat) : (askWake s r).power.level = s.power.level := by
  unfold askWake
  split <;> rfl

theorem askWake_requested (s : State) (r : Nat) :
    reg (askWake s r) Key.POWER_REGION_REQUEST = reg s Key.POWER_REGION_REQUEST := by
  unfold askWake
  split
  · exact (reg_showPower_ne _ (by decide)).trans (reg_setReg_ne _ _ (by decide))
  · rfl

theorem reg_selfRefreshAll (s : State) (b : Bool) (k : Nat) : reg (selfRefreshAll s b) k = reg s k := rfl

/-- The state from which a power state is left: its stacks refreshed by their controllers, at level 0. -/
def leaving (s : State) : State :=
  { (if s.power.level == 2 then selfRefreshAll s false else s) with power := { s.power with level := 0 } }

theorem leaveState_leaving (s : State) (rs : List Nat) : leaveState s rs = showPower (rs.foldl askWake (leaving s)) := by
  unfold leaveState leaving
  split <;> rfl

theorem reg_leaving (s : State) (k : Nat) : reg (leaving s) k = reg s k := by
  unfold leaving
  split <;> rfl

theorem leaveState_level (s : State) (rs : List Nat) : (leaveState s rs).power.level = 0 := by
  rw [leaveState_leaving, showPower_power]
  exact foldl_keeps_obs (fun t => t.power.level) askWake rs (fun _ _ _ => askWake_level _ _) (leaving s)

theorem leaveState_requested (s : State) (rs : List Nat) :
    reg (leaveState s rs) Key.POWER_REGION_REQUEST = reg s Key.POWER_REGION_REQUEST := by
  rw [leaveState_leaving, reg_showPower_ne _ (by decide), ← reg_leaving s]
  exact foldl_keeps_obs (fun t => reg t Key.POWER_REGION_REQUEST) askWake rs (fun _ _ _ => askWake_requested _ _) (leaving s)

/-- Each sleeping region that is named wakes when a power state is left. -/
theorem leaveState_wakes (s : State) {rs : List Nat} {r : Nat} (hr : r ∈ rs)
    (hsleeps : bitOf (reg s Key.POWER_REGION_SLEEP_MAP) r = true) :
    r ∈ (leaveState s rs).power.waking ∧ bitOf (reg (leaveState s rs) Key.POWER_REGION_SLEEP_MAP) r = false := by
  rw [leaveState_leaving, showPower_power, reg_showPower_ne _ (by decide), sleeps_askWakes]
  exact ⟨askWakes_wake rs _ hr ((reg_leaving s _).symm ▸ hsleeps), by simp [hr]⟩

/-- With no entry in progress, a request for ACTIVE leaves the power state for all four regions. -/
theorem activeRequest_leaves {s : State} (he : s.power.entering = none) :
    activeRequest s = leaveState (setReg s Key.POWER_REGION_REQUEST 0) [0, 1, 2, 3] := if_neg (by simp [he])

/-- IDLE and DEEP_SLEEP are entered from ACTIVE with nothing admitted and nothing in transition. -/
theorem powerRequest_idle {s : State} (hl : s.power.level = 0) (he : s.power.entering = none) (hw : s.power.waking = [])
    (hj : s.jobs = []) : powerRequest s 1 = (Code.OK, enterPower (setReg s Key.POWER_REQUEST 1) .idle) := by
  simp [powerRequest, inTransition, slotsInUse, hl, he, hw, hj]

theorem powerRequest_deepSleep {s : State} (hl : s.power.level = 0) (he : s.power.entering = none)
    (hw : s.power.waking = []) (hj : s.jobs = []) (hheld : ∀ c ∈ s.ctxs, c.2.quads = []) :
    powerRequest s 2 = (Code.OK, enterPower (setReg s Key.POWER_REQUEST 2) .deepSleep) := by
  have hnone : ∀ r, regionHeld s r = false := fun r => List.any_eq_false.2 fun c hc => by simp [hheld c hc]
  simp [powerRequest, inTransition, slotsInUse, hl, he, hw, hj, hnone]

/-- During a transition, or with a command admitted in ACTIVE, IDLE and DEEP_SLEEP are denied. -/
theorem powerRequest_denied {s : State} {v : Nat} (hv : v ≠ 0)
    (h : s.power.entering ≠ none ∨ s.power.waking ≠ [] ∨ (s.jobs ≠ [] ∧ s.power.level = 0)) :
    powerRequest s v = (Code.POWER_STATE_DENIED, s) := by
  unfold powerRequest
  rw [if_neg (by simpa using hv)]
  by_cases ht : inTransition s = true
  · exact if_pos ht
  · rw [if_neg ht]
    simp only [inTransition, Bool.or_eq_true, Option.isSome_iff_ne_none, Bool.not_eq_true', List.isEmpty_eq_false_iff] at ht
    obtain ⟨hjobs, hlevel⟩ := (h.resolve_left fun e => ht (.inl e)).resolve_left fun e => ht (.inr e)
    rw [if_neg (by simpa [hlevel] using hv), if_pos (by simp [slotsInUse, hjobs])]

theorem enterPower_shows (s : State) (e : PowerEntry) :
    (enterPower s e).power.entering = some e ∧ reg (enterPower s e) Key.POWER_STATE = 3 :=
  ⟨rfl, reg_setReg_self _ _ _⟩

theorem reg_enterPower_ne (s : State) (e : PowerEntry) {k : Nat} (h : k ≠ Key.POWER_STATE) :
    reg (enterPower s e) k = reg s k := reg_showPower_ne _ h

/-- The regions that a mask names, summed as bits, are the mask. -/
theorem maskOf_regions {v : Nat} (hv : v ≤ 15) :
    ((List.range 4).filter (bitOf v)).foldl (fun m r => m + 2 ^ r) 0 = v := by
  have hall : ∀ v : Fin 16, ((List.range 4).filter (bitOf v)).foldl (fun m r => m + 2 ^ r) 0 = (v : Nat) := by decide
  exact hall ⟨v, by omega⟩

theorem regions_nonempty {v : Nat} (h1 : 1 ≤ v) (hv : v ≤ 15) : ((List.range 4).filter (bitOf v)).isEmpty = false := by
  rw [List.isEmpty_eq_false_iff]
  intro hnone
  have hmask := maskOf_regions hv
  rw [hnone] at hmask
  exact absurd hmask (by simpa using (Nat.pos_iff_ne_zero.1 h1).symm)

theorem askWake_awake {s : State} (r : Nat) (h : reg s Key.POWER_REGION_SLEEP_MAP = 0) : askWake s r = s :=
  if_neg (by simp [h, bitOf])

theorem askWakes_awake (l : List Nat) {s : State} (h : reg s Key.POWER_REGION_SLEEP_MAP = 0) : l.foldl askWake s = s := by
  induction l with
  | nil => rfl
  | cons r l ih => rw [List.foldl_cons, askWake_awake r h, ih]

/-- With all regions awake and nothing in transition, free regions are put to sleep as asked. -/
theorem regionRequest_sleeps {s : State} {v : Nat} (hl : s.power.level = 0) (he : s.power.entering = none)
    (hw : s.power.waking = []) (hmap : reg s Key.POWER_REGION_SLEEP_MAP = 0) (h1 : 1 ≤ v) (hv : v ≤ 15)
    (hfree : ∀ r, r < 4 → bitOf v r = true → regionHeld s r = false ∧ servedIn s r = false) :
    regionRequest s v = (Code.OK, enterPower (setReg s Key.POWER_REGION_REQUEST v) (.regions v)) := by
  have hgo : ((List.range 4).filter fun r => bitOf v r && !bitOf (reg s Key.POWER_REGION_SLEEP_MAP) r) =
      (List.range 4).filter (bitOf v) := List.filter_congr fun r _ => by simp [hmap, bitOf]
  have hnone : ((List.range 4).filter (bitOf v)).any (fun r => regionHeld s r || servedIn s r) = false := by
    rw [List.any_eq_false]
    intro r hr
    obtain ⟨hlt, hbit⟩ := List.mem_filter.1 hr
    obtain ⟨hheld, hserved⟩ := hfree r (List.mem_range.1 hlt) hbit
    simp [hheld, hserved]
  have hmap' : reg (setReg s Key.POWER_REGION_REQUEST v) Key.POWER_REGION_SLEEP_MAP = 0 :=
    (reg_setReg_ne _ _ (by decide)).trans hmap
  unfold regionRequest
  simp only [hgo]
  rw [if_neg (by simp [inTransition, he, hw]), if_neg (by simp [hl]), if_neg (by simp [hnone]),
    regions_nonempty h1 hv, maskOf_regions hv, askWakes_awake _ hmap', if_neg Bool.false_ne_true]

/-- What the service of a path sees of the regions' work is what is there. -/
theorem regions_atService (s : State) (p : Path) (r : Nat) :
    regionHeld (atService s p) r = regionHeld s r ∧ servedIn (atService s p) r = servedIn s r := by
  rw [atService_eq]
  exact ⟨rfl, rfl⟩

/-- Settles O15, by what each request gives in the state that its path's service reads. -/
theorem powerRequests : Obligations.PowerRequests := by
  refine ⟨?active, ?idle, ?deepSleep, ?denied, ?regions⟩
  case active =>
    intro s p h hp hs he hl
    have hgives : powerRequest (atService s p) 0 = (Code.OK, leaveState (setReg (setReg (atService s p)
        Key.POWER_REQUEST 0) Key.POWER_REGION_REQUEST 0) [0, 1, 2, 3]) :=
      congrArg (Prod.mk Code.OK) (activeRequest_leaves ((atService_power s p).symm ▸ he))
    refine ⟨_, congrArg Host.Outcome.next (powerRequest_answered h hp hs hl (by decide)), ?_⟩
    rw [hgives]
    refine ⟨wrote_answeredWrite _ _ _ _ _ _, ?_, ?_, fun r hr hsleeps => ?_⟩
    · rw [answeredWrite, completeRequest_power]
      exact leaveState_level _ _
    · rw [reg_answeredWrite _ _ _ _ _ _ (by decide), leaveState_requested]
      exact reg_setReg_self _ _ _
    · rw [reg_answeredWrite _ _ _ _ _ _ (by decide), answeredWrite, completeRequest_power]
      refine leaveState_wakes _ (by simp; omega) ?_
      rw [reg_setReg_ne _ _ (by decide), reg_setReg_ne _ _ (by decide), reg_atService]
      exact hsleeps
  case idle =>
    intro s p h hp hs hl hlevel he hw hj
    have hgives := powerRequest_idle (s := atService s p) ((atService_power s p).symm ▸ hlevel)
      ((atService_power s p).symm ▸ he) ((atService_power s p).symm ▸ hw) ((atService_jobs s p).symm ▸ hj)
    refine ⟨_, congrArg Host.Outcome.next (powerRequest_answered h hp hs hl (by decide)), ?_⟩
    rw [hgives]
    refine ⟨wrote_answeredWrite _ _ _ _ _ _, ?_, (reg_answeredWrite _ _ _ _ _ _ (by decide)).trans
      (enterPower_shows _ _).2, ?_, ?_⟩
    · rw [answeredWrite, completeRequest_power, (enterPower_shows _ _).1]
    · rw [answeredWrite, completeRequest_ctxs]
      exact atService_ctxs s p
    · rw [answeredWrite, completeRequest_mem]
      exact atService_mem s p
  case deepSleep =>
    intro s p h hp hs hl hlevel he hw hj hheld
    have hgives := powerRequest_deepSleep (s := atService s p) ((atService_power s p).symm ▸ hlevel)
      ((atService_power s p).symm ▸ he) ((atService_power s p).symm ▸ hw) ((atService_jobs s p).symm ▸ hj)
      ((atService_ctxs s p).symm ▸ hheld)
    refine ⟨_, congrArg Host.Outcome.next (powerRequest_answered h hp hs hl (by decide)), ?_⟩
    rw [hgives]
    refine ⟨wrote_answeredWrite _ _ _ _ _ _, ?_, (reg_answeredWrite _ _ _ _ _ _ (by decide)).trans
      (enterPower_shows _ _).2, ?_, ?_⟩
    · rw [answeredWrite, completeRequest_power, (enterPower_shows _ _).1]
    · rw [answeredWrite, completeRequest_ctxs]
      exact atService_ctxs s p
    · rw [answeredWrite, completeRequest_mem]
      exact atService_mem s p
  case denied =>
    intro s p h hp hs hl hdenied
    have hgives : ∀ v, v ≠ 0 → powerRequest (atService s p) v = (Code.POWER_STATE_DENIED, atService s p) := fun v hv =>
      powerRequest_denied hv (by rw [atService_power, atService_jobs]; exact hdenied)
    refine ⟨_, _, congrArg Host.Outcome.next (powerRequest_answered h hp hs hl (by decide)),
      congrArg Host.Outcome.next (powerRequest_answered h hp hs hl (by decide)), ?_⟩
    rw [hgives 1 (by decide), hgives 2 (by decide)]
    refine ⟨wrote_answeredWrite _ _ _ _ _ _, wrote_answeredWrite _ _ _ _ _ _, ?_, ?_, ?_, ?_⟩
    · rw [answeredWrite, completeRequest_power, atService_power]
    · rw [answeredWrite, completeRequest_power, atService_power]
    · rw [reg_answeredWrite _ _ _ _ _ _ (by decide), reg_atService]
    · rw [reg_answeredWrite _ _ _ _ _ _ (by decide), reg_atService]
  case regions =>
    intro s p v h hp hs hl hlevel he hw hmap h1 hv hfree
    have hgives := regionRequest_sleeps (s := atService s p) ((atService_power s p).symm ▸ hlevel)
      ((atService_power s p).symm ▸ he) ((atService_power s p).symm ▸ hw) ((reg_atService s p _).trans hmap) h1 hv
      fun r hr hbit => by
        rw [(regions_atService s p r).1, (regions_atService s p r).2]
        exact hfree r hr hbit
    refine ⟨_, congrArg Host.Outcome.next (writeScalar_eq_answeredWrite h hp hs row_POWER_REGION_REQUEST rfl (by decide) (by decide)
      (Nat.lt_of_le_of_lt hv (by decide)) ((writeEntry_regionRequest p hl hv).trans hgives)),
      wrote_answeredWrite _ _ _ _ _ _, ?_, ?_⟩
    · rw [reg_answeredWrite _ _ _ _ _ _ (by decide), reg_enterPower_ne _ _ (by decide)]
      exact reg_setReg_self _ _ _
    · rw [answeredWrite, completeRequest_power, (enterPower_shows _ _).1]

end Sys2Proof.Machine

namespace Sys2Proof.Machine

/-! ### Writes that end configuration and ask for resets (R374, R396 to R398) -/

theorem writeEntry_configDone {s : State} (p : Path) (hl : Key.DICT_CONFIG_DONE ∉ s.dict.locks) (v : Nat) :
    writeEntry (atService s p) (row1 0x2F00 1 .u8 1 .rwPriv 0) Key.DICT_CONFIG_DONE 0 1 v = configDone (atService s p) v :=
  if_neg (by simp [lockedEntry_atService p hl (by decide)])

theorem writeEntry_reset {s : State} (p : Path) (hl : Key.DIAG_RESET ∉ s.dict.locks) (v : Nat) :
    writeEntry (atService s p) (row1 0xF030 1 .u8 1 .priv 0) Key.DIAG_RESET 0 1 v = resetWrite (atService s p) v :=
  if_neg (by simp [lockedEntry_atService p hl (by decide)])

theorem writeEntry_regionReset {s : State} (p : Path) (hl : Key.DIAG_REGION_RESET ∉ s.dict.locks) (v : Nat) :
    writeEntry (atService s p) (row1 0xF030 2 .u8 1 .priv 255) Key.DIAG_REGION_RESET 0 1 v =
      regionResetWrite (atService s p) v :=
  if_neg (by simp [lockedEntry_atService p hl (by decide)])

/-- CONFIGURE serves every write but the power requests (Table 18.6). -/
theorem served_configure {s : State} (p : Path) (q : Request) (hs : s.start = .configure)
    (hq : q.key ≠ Key.POWER_REQUEST ∧ q.key ≠ Key.POWER_REGION_REQUEST) : servedNow (atService s p) q = true := by
  simp [servedNow, hs, hq]

theorem configDone_ready {s : State} (hs : s.start = .configure) (h : slotLoaded s 0 = true ∨ reg s Key.FLASH_STATE ≤ 1) :
    configDone s 1 = (Code.OK, { s with start := .ready }) := by
  refine if_neg ?_
  simp only [hs, Bool.or_eq_true, Bool.and_eq_true, Bool.not_eq_true', decide_eq_true_eq]
  rintro (hdone | ⟨hslot, hstate⟩)
  · exact absurd hdone (by decide)
  · rcases h with hloaded | hempty
    · exact absurd (hloaded.symm.trans hslot) (by decide)
    · omega

/-- A write of DIAG.RESET that passes its checks and is accepted is answered, and the reset follows. -/
theorem writeOn_asksReset {s : State} {p : Path} {v len : Nat} {r : EntryRow} {w : State} (h : serviceFree s p = true)
    (hc : checkRequest (atService s p) (writeRequest p Key.DIAG_RESET 0 len v) = (Code.OK, r)) (hl : 0 < len)
    (hv : v < 2 ^ (8 * len)) (hw : writeEntry (atService s p) r Key.DIAG_RESET 0 len v = (Code.OK, w)) :
    writeOn s p Key.DIAG_RESET 0 len v =
      askedReset (completeRequest w (writeRequest p Key.DIAG_RESET 0 len v) Code.OK len 0) v := by
  rw [writeOn_reset h hc (by decide) hl hv, hw]
  rfl

theorem diagReset_asked {s : State} {p : Path} {v : Nat} (h : serviceFree s p = true) (hp : privileged p = true)
    (hs : s.start = .ready) (hl : Key.DIAG_RESET ∉ s.dict.locks) (hv : v = 1 ∨ v = 2) :
    ∃ u, writeScalar s p Key.DIAG_RESET v = askedReset u v ∧ u.start = .ready ∧ u.mem = s.mem := by
  have hgives : resetWrite (atService s p) v = (Code.OK, atService s p) := if_pos (by simpa using hv)
  have hchecks : checkRequest (atService s p) (writeRequest p Key.DIAG_RESET 0 1 v) =
      (Code.OK, row1 0xF030 1 .u8 1 .priv 0) :=
    check_write row_DIAG_RESET (served_ready p _ hs) (right_privileged _ _ _ rfl hp (by decide)) (limit_small p (by decide))
      (fits_whole _ _ _ _)
  refine ⟨_, (writeScalar_whole s p v row_DIAG_RESET).trans (writeOn_asksReset h hchecks (by decide)
    (show v < 2 ^ (8 * 1) by omega) ((writeEntry_reset p hl v).trans hgives)), ?_, ?_⟩
  · rw [completeRequest_start, atService_start, hs]
  · rw [completeRequest_mem, atService_mem]

/-- A region whose reset begins is closed and waits for its wake. -/
theorem startRegionReset_begins {s : State} {r : Nat} (h : r ∉ s.chip.resetting) :
    r ∈ (startRegionReset s r).chip.closed ∧ r ∈ (startRegionReset s r).chip.resetting ∧
      r ∈ (startRegionReset s r).power.waking := by
  unfold startRegionReset
  rw [if_neg (by simpa using h)]
  exact ⟨(mem_insertUp _ _ _).2 (.inl rfl), (mem_insertUp _ _ _).2 (.inl rfl),
    List.mem_append_right _ (List.mem_singleton_self r)⟩

/-- Settles O16: configuration ends in the entry's own part, and a reset follows the answer that asks for it. -/
theorem resetWrites : Obligations.ResetWrites := by
  refine ⟨?done, ?warm, ?cold, ?region⟩
  case done =>
    intro s p h hp hs hl hkey
    have hgives := configDone_ready (s := atService s p) ((atService_start s p).trans hs) (by
      rw [reg_atService, slotLoaded, atService_sec]
      exact hkey)
    have hchecks : checkRequest (atService s p) (writeRequest p Key.DICT_CONFIG_DONE 0 1 1) =
        (Code.OK, row1 0x2F00 1 .u8 1 .rwPriv 0) :=
      check_write row_DICT_CONFIG_DONE (served_configure p _ hs
        ⟨show Key.DICT_CONFIG_DONE ≠ _ by decide, show Key.DICT_CONFIG_DONE ≠ _ by decide⟩)
        (right_privileged _ _ _ rfl hp (by decide)) (limit_small p (by decide)) (fits_whole _ _ _ _)
    have hwrite : writeScalar s p Key.DICT_CONFIG_DONE 1 =
        answeredWrite (Code.OK, { atService s p with start := .ready }) p Key.DICT_CONFIG_DONE 0 1 1 :=
      (writeScalar_whole s p 1 row_DICT_CONFIG_DONE).trans (writeOn_answered h hchecks (by decide) (by decide) (by decide)
        ((writeEntry_configDone p hl 1).trans hgives))
    refine ⟨_, congrArg Host.Outcome.next hwrite, wrote_answeredWrite _ _ _ _ _ _, ?_, ?_⟩
    · rw [answeredWrite, completeRequest_start]
    · rw [answeredWrite, completeRequest_mem]
      exact atService_mem s p
  case warm =>
    intro s p h hp hs hl
    obtain ⟨u, hwrite, hstart, hmem⟩ := diagReset_asked h hp hs hl (.inl rfl)
    obtain ⟨w, unit, cause, hw, hreset⟩ := askedWarmReset_powered (s := u) (by rw [hstart]; decide)
    have hstarted := warmReset_started w false unit 0 cause 0
    refine ⟨_, congrArg Host.Outcome.next (hwrite.trans hreset), hstarted.start, hstarted.jobs, hstarted.reading, ?_⟩
    rw [warmReset_durable, hw]
    exact congrArg MemS.durable hmem
  case cold =>
    intro s p h hp hs hl
    obtain ⟨u, hwrite, -, hmem⟩ := diagReset_asked h hp hs hl (.inr rfl)
    have hdurable : u.mem.durable = s.mem.durable := congrArg MemS.durable hmem
    exact ⟨_, congrArg Host.Outcome.next hwrite, rfl, rfl, rfl, hdurable, hdurable⟩
  case region =>
    intro s p r h hp hs hl hr hfree
    have hgives : regionResetWrite (atService s p) r = (Code.OK, startRegionReset (atService s p) r) := if_neg (by omega)
    have hbegins := startRegionReset_begins (s := atService s p) ((atService_chip s p).symm ▸ hfree)
    refine ⟨_, congrArg Host.Outcome.next (writeScalar_eq_answeredWrite h hp hs row_DIAG_REGION_RESET rfl (by decide)
      (by decide) (Nat.lt_trans hr (by decide)) ((writeEntry_regionReset p hl r).trans hgives)),
      wrote_answeredWrite _ _ _ _ _ _, ?_⟩
    rw [answeredWrite, completeRequest_chip, completeRequest_power]
    exact hbegins

end Sys2Proof.Machine

/-! SUPPORT. Writes of keys, of the format of the flash tier and of the attestation nonce (chapter 23). -/

namespace Sys2Proof.Machine

theorem writeEntry_keyLoad {s : State} (p : Path) (hl : Key.SEC_KEY_LOAD ∉ s.dict.locks) (len v : Nat) :
    writeEntry (atService s p) (row1 0x3400 1 .domain 80 .priv 0) Key.SEC_KEY_LOAD 0 len v =
      keyLoadWrite (atService s p) len v :=
  if_neg (by simp [lockedEntry_atService p hl (by decide)])

theorem writeEntry_keyClear {s : State} (p : Path) (hl : Key.SEC_KEY_CLEAR ∉ s.dict.locks) (v : Nat) :
    writeEntry (atService s p) (row1 0x3400 2 .u8 1 .priv 0) Key.SEC_KEY_CLEAR 0 1 v = keyClear (atService s p) v :=
  if_neg (by simp [lockedEntry_atService p hl (by decide)])

theorem writeEntry_nonce {s : State} (p : Path) (hl : Key.SEC_ATTEST_NONCE ∉ s.dict.locks) (len v : Nat) :
    writeEntry (atService s p) (row1 0x3400 5 .domain 48 .rw 0) Key.SEC_ATTEST_NONCE 0 len v =
      nonceWrite (atService s p) 0 len v :=
  if_neg (by simp [lockedEntry_atService p hl (by decide)])

theorem writeEntry_flashFormat (s : State) (r : EntryRow) (v : Nat) :
    writeEntry s r Key.DIAG_FLASH_FORMAT 0 1 v =
      if lockedEntry s Key.DIAG_FLASH_FORMAT then (Code.BAD_FIELD, s) else flashFormat s v := rfl

/-! ### Keys (R434, R435) -/

/-- A good record of a link key loads its slot, and the load is counted. -/
theorem keyLoad_link {s : State} {v : Nat} (hversion : krVersion v = 1) (hkind : krKind v = 2) (h1 : 1 ≤ krSlot v)
    (h63 : krSlot v ≤ 63) (hkey : krKey v < 2 ^ 256) :
    keyLoad s v = (Code.OK, bump (loadSlot s (krSlot v) 2 (krKey v)) Key.SEC_KEY_LOADS 1) := by
  have hslot : krSlot v ≠ 0 := by omega
  have hfits : (krKey v / 2 ^ 256 != 0) = false := by rw [Nat.div_eq_of_lt hkey]; rfl
  unfold keyLoad
  simp only [hversion, hkind, hfits]
  simp [firstBad, hslot, Nat.not_lt.2 h63]

theorem keyClear_slot {s : State} {n : Nat} (h1 : 1 ≤ n) (h63 : n ≤ 63) :
    keyClear s n = (Code.OK, { s with sec := { s.sec with slots := tabDel s.sec.slots n } }) := by
  refine if_neg ?_
  simp only [Bool.or_eq_true, beq_iff_eq, decide_eq_true_eq]
  omega

/-- SEC.KEY_LOAD comes by the mailbox only (R434). -/
theorem check_keyLoad_denied {s : State} (v : Nat) (hs : s.start = .ready) :
    checkRequest (atService s .dictReq) (writeRequest .dictReq Key.SEC_KEY_LOAD 0 80 v) =
      (Code.ACCESS_DENIED, row1 0x3400 1 .domain 80 .priv 0) := by
  have hserved := served_ready .dictReq (writeRequest .dictReq Key.SEC_KEY_LOAD 0 80 v) hs
  unfold checkRequest
  rw [show (writeRequest .dictReq Key.SEC_KEY_LOAD 0 80 v).key = Key.SEC_KEY_LOAD from rfl, row_SEC_KEY_LOAD]
  simp only [hserved]
  rfl

/-! ### Attestation (R441) -/

/-- The report depends on neither the nonce's entry nor the service of a path. -/
theorem reportBody_nonce (s : State) (p : Path) (v n : Nat) :
    reportBody (setReg (atService s p) Key.SEC_ATTEST_NONCE v) n = reportBody s n := by
  have hreg : ∀ k, k ≠ Key.SEC_ATTEST_NONCE →
      reg (setReg (atService s p) Key.SEC_ATTEST_NONCE v) k = reg s k := fun k hk =>
    (reg_setReg_ne _ _ hk).trans (reg_atService s p k)
  unfold reportBody
  rw [show beatNow (setReg (atService s p) Key.SEC_ATTEST_NONCE v) = beatNow s from hreg _ (by decide), hreg _ (by decide),
    hreg _ (by decide), hreg _ (by decide), hreg _ (by decide), hreg _ (by decide), setReg_sec, setReg_eeprom,
    atService_sec, atService_eeprom]

/-- A report is its body above a signature of 768 bits. -/
theorem attest_report (s : State) (n : Nat) :
    reg (attest s n) Key.SEC_ATTEST_REPORT / 2 ^ 768 = reportBody s n := by
  refine (congrArg (· / 2 ^ 768) (reg_setReg_self _ _ _)).trans ?_
  rw [Nat.mul_comm, Nat.mul_add_div (Nat.two_pow_pos 768), Nat.div_eq_of_lt (Nat.mod_lt _ (Nat.two_pow_pos 768)),
    Nat.add_zero]

theorem nonceWrite_whole {s : State} {v : Nat} (hv : v < 2 ^ 384) :
    nonceWrite s 0 48 v = (Code.OK, attest (setReg s Key.SEC_ATTEST_NONCE v) v) := by
  have hvalue : setField (reg s Key.SEC_ATTEST_NONCE) (8 * 0) (8 * 48) v % 2 ^ 384 = v := setField_whole _ _ _ hv
  unfold nonceWrite
  simp only [hvalue]
  rfl

/-! ### The format of the tier (R195, R437) -/

theorem emptyTier_keySource (s : State) :
    reg (emptyTier s) Key.SEC_TIER_KEY_SOURCE = reg s Key.SEC_TIER_KEY_SOURCE := by
  unfold emptyTier setFlashState
  split
  · rfl
  · rw [reg_notify _ _ _ _ (by decide), reg_setReg_ne _ _ (by decide), reg_setReg_ne _ _ (by decide)]
    rfl

/-- With an EXTERNAL key, a format sets the key in slot 0. -/
theorem setTierKey_external {s : State} {k : KeySlot} (hsource : reg s Key.SEC_TIER_KEY_SOURCE = 1)
    (hslot : tabGet s.sec.slots 0 = some k) :
    setTierKey s = { s with eeprom := { s.eeprom with tierKey := none }, sec := { s.sec with tierKcv := some (kcvOf k.key) } } := by
  unfold setTierKey
  rw [hsource, hslot]
  rfl

theorem tierInUse_atService (s : State) (p : Path) : tierInUse (atService s p) = tierInUse s := by
  rw [atService_eq]
  rfl

/-- What a format of the tier with an EXTERNAL key leaves. -/
theorem flashFormat_empties {s : State} {k : KeySlot} (hfree : tierInUse s = false)
    (hsource : reg s Key.SEC_TIER_KEY_SOURCE = 1) (hslot : tabGet s.sec.slots 0 = some k) :
    ∃ t, flashFormat s 1 = (Code.OK, t) ∧ t.mem = (emptyTier s).mem ∧ t.copies = (emptyTier s).copies ∧
      t.sec.tierKcv = some (kcvOf k.key) := by
  have hloaded : slotLoaded s 0 = true := by simp [slotLoaded, tabHas, hslot]
  have hslot' : tabGet (emptyTier s).sec.slots 0 = some k := by
    rw [emptyTier, setFlashState_sec]
    exact hslot
  refine ⟨setTierKey (emptyTier s), if_neg (by simp [hfree, hloaded]), ?_⟩
  rw [setTierKey_external ((emptyTier_keySource s).trans hsource) hslot']
  exact ⟨rfl, rfl, rfl⟩

theorem flashFormat_refused {s : State} (huse : tierInUse s = true) : flashFormat s 1 = (Code.BAD_FIELD, s) :=
  if_pos (by simp [huse])

/-- Settles O20, by what each entry gives in the state that its path's service reads. -/
theorem securityWrites : Obligations.SecurityWrites := by
  refine ⟨?load, ?denied, ?clear, ?attests, ?format, ?inUse⟩
  case load =>
    intro s v h hs hl hv hversion hkind h1 h63 hkey
    have hgives : keyLoadWrite (atService s .mailbox) 80 v =
        (Code.OK, bump (loadSlot (atService s .mailbox) (krSlot v) 2 (krKey v)) Key.SEC_KEY_LOADS 1) :=
      keyLoad_link hversion hkind h1 h63 hkey
    have hchecks : checkRequest (atService s .mailbox) (writeRequest .mailbox Key.SEC_KEY_LOAD 0 80 v) =
        (Code.OK, row1 0x3400 1 .domain 80 .priv 0) :=
      check_write row_SEC_KEY_LOAD (served_ready .mailbox _ hs) rfl (by decide) (fits_whole _ _ _ _)
    refine ⟨_, congrArg Host.Outcome.next ((writeScalar_whole s .mailbox v row_SEC_KEY_LOAD).trans
      (writeOn_answered h hchecks (by decide) (by decide) hv ((writeEntry_keyLoad .mailbox hl 80 v).trans hgives))),
      wrote_answeredWrite _ _ _ _ _ _, ?_, ?_, ?_⟩
    · rw [answeredWrite, completeRequest_sec]
      exact congrArg (tabSet · _ _) (congrArg SecS.slots (atService_sec s .mailbox))
    · rw [answeredWrite, completeRequest_mem]
      exact atService_mem s .mailbox
    · rw [answeredWrite, completeRequest_eeprom]
      exact atService_eeprom s .mailbox
  case denied =>
    intro s v h hs
    refine ⟨_, congrArg Host.Outcome.next ((writeScalar_whole s .dictReq v row_SEC_KEY_LOAD).trans
      ((writeOn_of_free _ _ _ _ h).trans (serveOne_refused (check_keyLoad_denied v hs) (by decide)))),
      wrote_completeRequest _ _ _ _ _ _ _ _ _, ?_⟩
    rw [completeRequest_sec, atService_sec]
  case clear =>
    intro s p n h hp hs hl h1 h63
    have hgives := (writeEntry_keyClear p hl n).trans (keyClear_slot h1 h63)
    refine ⟨_, congrArg Host.Outcome.next (writeScalar_eq_answeredWrite h hp hs row_SEC_KEY_CLEAR rfl (by decide) (by decide)
      (Nat.lt_of_le_of_lt h63 (by decide)) hgives), wrote_answeredWrite _ _ _ _ _ _, ?_, fun m hm => ?_, ?_, ?_⟩
    · rw [answeredWrite, completeRequest_sec]
      exact tabGet_tabDel_self _ _
    · rw [answeredWrite, completeRequest_sec]
      exact (tabGet_tabDel_ne _ hm).trans (congrArg (tabGet · m) (congrArg SecS.slots (atService_sec s p)))
    · rw [answeredWrite, completeRequest_mem]
      exact atService_mem s p
    · rw [answeredWrite, completeRequest_eeprom]
      exact atService_eeprom s p
  case attests =>
    intro s p v h hs hl hv
    have hchecks : checkRequest (atService s p) (writeRequest p Key.SEC_ATTEST_NONCE 0 48 v) =
        (Code.OK, row1 0x3400 5 .domain 48 .rw 0) :=
      check_write row_SEC_ATTEST_NONCE (served_ready p _ hs) rfl (limit_small p (by decide)) (fits_whole _ _ _ _)
    refine ⟨_, congrArg Host.Outcome.next ((writeScalar_whole s p v row_SEC_ATTEST_NONCE).trans
      (writeOn_answered h hchecks (by decide) (by decide) hv
        ((writeEntry_nonce p hl 48 v).trans (nonceWrite_whole hv)))), wrote_answeredWrite _ _ _ _ _ _, ?_, ?_, ?_, ?_, ?_⟩
    · rw [reg_answeredWrite _ _ _ _ _ _ (by decide), attest, reg_setReg_ne _ _ (by decide)]
      exact reg_setReg_self _ _ _
    · rw [reg_answeredWrite _ _ _ _ _ _ (by decide), attest_report, reportBody_nonce]
    · rw [answeredWrite, completeRequest_sec]
      exact (congrArg SecS.slots (atService_sec s p) : (atService s p).sec.slots = s.sec.slots)
    · rw [answeredWrite, completeRequest_eeprom]
      exact atService_eeprom s p
    · rw [answeredWrite, completeRequest_mem]
      exact atService_mem s p
  case format =>
    intro s p k h hp hs hl hfree hsource hslot
    obtain ⟨t, hgives, hmem, hcopies, hkcv⟩ := flashFormat_empties (s := atService s p)
      ((tierInUse_atService s p).trans hfree) ((reg_atService s p _).trans hsource) ((atService_sec s p).symm ▸ hslot)
    have hw : writeEntry (atService s p) (row1 0xF020 1 .u8 1 .priv 0) Key.DIAG_FLASH_FORMAT 0 1 1 = (Code.OK, t) := by
      rw [writeEntry_flashFormat, lockedEntry_atService p hl (by decide)]
      exact hgives
    refine ⟨_, congrArg Host.Outcome.next (writeScalar_eq_answeredWrite h hp hs row_DIAG_FLASH_FORMAT rfl (by decide)
      (by decide) (by decide) hw), wrote_answeredWrite _ _ _ _ _ _, ?_⟩
    rw [answeredWrite, completeRequest_mem, completeRequest_copies, completeRequest_sec, hmem, hcopies, emptyTier,
      setFlashState_mem, setFlashState_copies]
    have hcomp : (atService s p).mem.comp = s.mem.comp := congrArg MemS.comp (atService_mem s p)
    have hobjects : (atService s p).mem.objects = s.mem.objects := congrArg MemS.objects (atService_mem s p)
    exact ⟨rfl, rfl, rfl, rfl, rfl, rfl, hkcv, hcomp, hobjects⟩
  case inUse =>
    intro s p h hp hs huse
    have hw : writeEntry (atService s p) (row1 0xF020 1 .u8 1 .priv 0) Key.DIAG_FLASH_FORMAT 0 1 1 =
        (Code.BAD_FIELD, atService s p) := by
      rw [writeEntry_flashFormat, flashFormat_refused ((tierInUse_atService s p).trans huse)]
      exact ite_self _
    refine ⟨_, congrArg Host.Outcome.next (writeScalar_eq_answeredWrite h hp hs row_DIAG_FLASH_FORMAT rfl (by decide)
      (by decide) (by decide) hw), wrote_answeredWrite _ _ _ _ _ _, ?_, ?_⟩
    · rw [answeredWrite, completeRequest_mem, atService_mem]
    · rw [answeredWrite, completeRequest_sec, atService_sec]

end Sys2Proof.Machine

/-! SUPPORT. Writes of jobs, of bindings, of samples, of the hot cache and of the retrain request (chapters 15 to 17, 22). -/

namespace Sys2Proof.Machine

/-! ### What the entries' own parts give -/

theorem pelganJob_key {j : Nat} (hj : j < 255) : Key.PELGAN_JOB j / 256 = 0x1212 ∧ Key.PELGAN_JOB j % 256 = j := by
  unfold Key.PELGAN_JOB
  omega

theorem pelganJob_ne {j k : Nat} (hj : j < 255) (hk : k < 0x121200 ∨ 0x1212FF ≤ k) : Key.PELGAN_JOB j ≠ k := by
  rw [Key.PELGAN_JOB]
  omega

/-- The keys of the jobs are none of those that have their behaviour before that of the jobs. -/
theorem writeEntry_job (s : State) (r : EntryRow) {j : Nat} (hj : j < 255) (off len v : Nat) :
    writeEntry s r (Key.PELGAN_JOB j) off len v =
      if lockedEntry s (Key.PELGAN_JOB j) then (Code.BAD_FIELD, s)
      else jobWrite s j (setField (reg s (Key.PELGAN_JOB j)) (8 * off) (8 * len) v) := by
  have hne : ∀ k, k < 0x121200 ∨ 0x1212FF ≤ k → (Key.PELGAN_JOB j == k) = false := fun k hk =>
    beq_eq_false_iff_ne.2 (pelganJob_ne hj hk)
  obtain ⟨hdiv, hmod⟩ := pelganJob_key hj
  unfold writeEntry
  rw [hne _ (by decide), hne _ (by decide), hne _ (by decide), hne _ (by decide), hne _ (by decide), hne _ (by decide),
    hne _ (by decide), hne _ (by decide), hne _ (by decide), hne _ (by decide), hdiv, hmod]
  rfl

theorem writeEntry_ctxJob {s : State} (p : Path) (hl : Key.PELGAN_CTX_JOB ∉ s.dict.locks) (r : EntryRow) (off len v : Nat) :
    writeEntry (atService s p) r Key.PELGAN_CTX_JOB off len v = ctxJobWrite (atService s p) off len v :=
  if_neg (by simp [lockedEntry_atService p hl (by decide)])

theorem writeEntry_sampleRelease {s : State} (p : Path) {b : Nat} (hb : b < 5)
    (hl : Key.PERF_SAMPLE_RELEASE b ∉ s.dict.locks) (r : EntryRow) (v : Nat) :
    writeEntry (atService s p) r (Key.PERF_SAMPLE_RELEASE b) 0 8 v = sampleRelease (atService s p) b v := by
  have hopen : lockedEntry (atService s p) (Key.PERF_SAMPLE_RELEASE b) = false :=
    lockedEntry_atService p hl (by unfold Key.PERF_SAMPLE_RELEASE; exact Nat.ne_of_gt (Nat.lt_add_right b (by decide)))
  have hfive : ∀ b : Fin 5, lockedEntry (atService s p) (Key.PERF_SAMPLE_RELEASE b) = false →
      writeEntry (atService s p) r (Key.PERF_SAMPLE_RELEASE b) 0 8 v = sampleRelease (atService s p) b v :=
    fun b hopen => by
      unfold writeEntry
      rw [hopen]
      match b with
      | 0 => rfl
      | 1 => rfl
      | 2 => rfl
      | 3 => rfl
      | 4 => rfl
  exact hfive ⟨b, hb⟩ hopen

theorem writeEntry_hotCache {s : State} (p : Path) (hl : Key.BELT_HOT_CACHE_ENABLE ∉ s.dict.locks) (r : EntryRow) (v : Nat) :
    writeEntry (atService s p) r Key.BELT_HOT_CACHE_ENABLE 0 1 v = hotCacheWrite (atService s p) v :=
  if_neg (by simp [lockedEntry_atService p hl (by decide)])

theorem writeEntry_retrain {s : State} (p : Path) (hl : Key.AEDUP_RETRAIN_REQUEST ∉ s.dict.locks) (r : EntryRow) (v : Nat) :
    writeEntry (atService s p) r Key.AEDUP_RETRAIN_REQUEST 0 1 v = retrainWrite (atService s p) v :=
  if_neg (by simp [lockedEntry_atService p hl (by decide)])

/-! ### Jobs (R353) -/

/-- A field within bits that were put in at the bottom is that of what was put in. -/
theorem field_setField_within (v n x : Nat) {a m : Nat} (h : a + m ≤ n) : field (setField v 0 n x) a m = field x a m := by
  obtain ⟨d, rfl⟩ := Nat.le.dest h
  have hfield : ∀ w : Nat, field w a m = w % 2 ^ (a + m) / 2 ^ a := fun w => by
    rw [field, Nat.pow_add, Nat.mod_mul_right_div_self]
  rw [hfield, hfield, setField_parts, Nat.pow_zero, Nat.one_mul, Nat.mod_one, Nat.zero_add, Nat.pow_add 2 (a + m) d,
    Nat.mul_assoc, Nat.add_mul_mod_self_left, Nat.mod_mul_right_mod]

theorem pelgan_atService (s : State) (p : Path) (j : Nat) :
    jobEntry (atService s p) j = jobEntry s j ∧ latestJob (atService s p) j = latestJob s j ∧
      isWorker (atService s p) = isWorker s ∧ beatNow (atService s p) = beatNow s ∧
      ownDevice (atService s p) = ownDevice s ∧ pendingValue (atService s p) = pendingValue s := by
  rw [atService_eq]
  exact ⟨rfl, rfl, rfl, rfl, rfl, rfl⟩

/-- Sending the new entry of a job to the devices that it names is no more than sending. -/
theorem side_sendJob (l : List Nat) (s : State) (j due entry : Nat) :
    Side s (l.foldl (fun t d => sendTo t msgJobSet j d due entry) s) := by
  induction l generalizing s with
  | nil => exact Side.refl s
  | cons d l ih => exact (side_sendTo _ _ _ _ _ _).trans (ih _)

/-- A write that gives a job members has the entry with the next JOB_GEN due two whole beats on. -/
theorem writeJob_members {s : State} {j v : Nat} (hj : j < 255) (hm : field v 128 4096 ≠ 0) :
    (writeJob s j v).pelgan.jobsDue = s.pelgan.jobsDue ++ [⟨beatNow s + 3, j,
        field v 128 4096 * 2 ^ 128 + (jobGen (latestJob s j) + 1) % 256 * 2 ^ 16 + 1 * 2 ^ 8 + 1⟩] ∧
      ∀ k, sideKey k = false → reg (writeJob s j v) k = reg s k := by
  have hmem : (field v 128 4096 == 0) = false := beq_eq_false_iff_ne.2 hm
  unfold writeJob jobSet
  simp only [hmem, Bool.false_and, if_pos hj, Bool.false_eq_true, if_false]
  refine ⟨?_, fun k hk => (side_sendJob _ s _ _ _).regs k hk⟩
  rw [(side_sendJob _ s _ _ _).pelgan]

theorem jobWrite_accepted {s : State} {j v : Nat} (hv : field v 0 8 = 1) (hw : isWorker s = false)
    (h1 : jobState (jobEntry s j) ≠ 1) (h2 : jobState (latestJob s j) ≠ 1) :
    jobWrite s j v = (Code.OK, writeJob s j v) := by
  simp [jobWrite, hv, hw, h1, h2]

theorem jobWrite_refused {s : State} {j v : Nat} (hv : field v 0 8 = 1)
    (h : isWorker s = true ∨ (field v 128 4096 ≠ 0 ∧ jobState (jobEntry s j) = 1)) :
    jobWrite s j v = (Code.BAD_FIELD, s) := by
  rcases h with hw | ⟨hm, hactive⟩
  · simp [jobWrite, hv, hw]
  · simp [jobWrite, hv, hm, hactive]

/-- The whole entry of a job as a write of all of it leaves it. -/
def jobImage (s : State) (j v : Nat) : Nat := setField (reg s (Key.PELGAN_JOB j)) (8 * 0) (8 * 528) v

/-- A write of a job's whole entry on a free mailbox in READY is answered with what the entry gives. -/
theorem writeJob_answered {s : State} {j v : Nat} {w : Nat × State} (h : serviceFree s .mailbox = true)
    (hs : s.start = .ready) (hj : j < 255) (hv : v < 2 ^ 4224)
    (hw : writeEntry (atService s .mailbox) (rowN 0x1212 0 254 .domain 528 .wbPriv 1) (Key.PELGAN_JOB j) 0 528 v = w) :
    exec (.pelganJobWrite .mailbox j v) s = .next (answeredWrite w .mailbox (Key.PELGAN_JOB j) 0 528 v) := by
  have hrow := row_PELGAN_JOB ⟨j, hj⟩
  have hright : hasRight (rowN 0x1212 0 254 .domain 528 .wbPriv 1)
      (writeRequest .mailbox (Key.PELGAN_JOB j) 0 528 v) = true :=
    right_privileged _ _ _ rfl rfl (pelganJob_ne hj (by decide))
  have hanswered := writeOn_answered h (check_write hrow (served_ready .mailbox _ hs) hright (by decide) (fits_whole _ _ _ _))
    ⟨pelganJob_ne hj (by decide), pelganJob_ne hj (by decide)⟩ (by decide) hv hw
  refine congrArg Host.Outcome.next ((if_pos hj).trans ((writeScalar_whole s .mailbox v hrow).trans hanswered))

/-- No reply writes the entry of a job. -/
theorem replyKey_job {j : Nat} (hj : j < 255) : replyKey (Key.PELGAN_JOB j) = false := by
  have hall : ∀ j : Fin 255, replyKey (Key.PELGAN_JOB j) = false := by decide +kernel
  exact hall ⟨j, hj⟩

theorem sideKey_of_reply {k : Nat} (h : replyKey k = false) : sideKey k = false := by
  simp only [replyKey, Bool.or_eq_false_iff] at h
  exact h.1.1

/-! ### Bindings (R354) -/

/-- The two bytes of a context's binding touch that binding alone. -/
theorem touched_binding (c : Nat) : touched 2 (2 * c) 2 = [c] := by
  have hcount : (2 * c + 2 - 1) / 2 + 1 - 2 * c / 2 = 1 := by omega
  have hfirst : 2 * c / 2 = c := by omega
  unfold touched
  rw [hcount, hfirst]
  rfl

theorem bindingBad_good {s : State} {v c j : Nat} (h : j = 0xFFFF ∨ (j < 255 ∧ jobState (jobEntry s j) = 1 ∧
      jobMember (jobEntry s j) (ownDevice s) = true ∧ ∀ d, d < 4096 → d ≠ c → field v (16 * d) 16 ≠ j)) :
    bindingBad s (setField v (8 * (2 * c)) (8 * 2) j) c = false := by
  have hlt : j < 2 ^ 16 := by omega
  have hown : field (setField v (8 * (2 * c)) (8 * 2) j) (16 * c) 16 = j := by
    rw [show 8 * (2 * c) = 16 * c by omega, show 8 * 2 = 16 from rfl, field_setField_self, Nat.mod_eq_of_lt hlt]
  have hother : ∀ d, d ≠ c → field (setField v (8 * (2 * c)) (8 * 2) j) (16 * d) 16 = field v (16 * d) 16 := fun d hd => by
    rcases Nat.lt_or_gt_of_ne hd with hless | hmore
    · exact field_setField_below _ _ _ _ (by omega)
    · exact field_setField_above _ _ _ _ (by omega)
  unfold bindingBad
  rw [hown]
  rcases h with hnone | ⟨hj, hstate, hmember, hfree⟩
  · simp [hnone]
  · have hbound : (List.range 4096).any (fun d => d != c &&
        field (setField v (8 * (2 * c)) (8 * 2) j) (16 * d) 16 == j) = false := by
      rw [List.any_eq_false]
      intro d hd
      by_cases hdc : d = c
      · simp [hdc]
      · simp [hother d hdc, hfree d (List.mem_range.1 hd) hdc]
    simp only [hbound, hstate, hmember]
    simp [Nat.not_le.2 hj]

theorem ctxJobWrite_waits {s : State} {c j : Nat} (h : j = 0xFFFF ∨ (j < 255 ∧ jobState (jobEntry s j) = 1 ∧
      jobMember (jobEntry s j) (ownDevice s) = true ∧
      ∀ d, d < 4096 → d ≠ c → field (pendingValue s Key.PELGAN_CTX_JOB) (16 * d) 16 ≠ j)) :
    ctxJobWrite s (2 * c) 2 j = (Code.OK, pushWrite s Key.PELGAN_CTX_JOB (2 * c) 2 j []) := by
  unfold ctxJobWrite
  simp only [touched_binding, List.any_cons, List.any_nil, Bool.or_false]
  exact if_neg (by rw [bindingBad_good h]; exact Bool.false_ne_true)

/-! ### The retrain (R341) -/

/-- A retrain that is started takes the link out of ACTIVE. -/
theorem startRetrain_aedup {s : State} (h : s.aedup.link.state = .active) :
    (startRetrain s .aedup).aedup.link.state = .retrain := by
  have hstate : ((linkOf s .aedup).state == .active) = true := by rw [beq_iff_eq]; exact h
  unfold startRetrain
  simp only [hstate, if_true]
  rfl

/-- Settles O21, by what each entry gives in the state that its path's service reads. -/
theorem fabricAndSampleWrites : Obligations.FabricAndSampleWrites := by
  refine ⟨?job, ?jobRefused, ?binding, ?samples, ?hot, ?retrain⟩
  case job =>
    intro s j v h hs hj hl hv hversion hworker hm h1 h2
    obtain ⟨hentry, hlatest, hw, hbeat, -, -⟩ := pelgan_atService s .mailbox j
    have hmembers : field (jobImage (atService s .mailbox) j v) 128 4096 = field v 128 4096 :=
      field_setField_within _ _ _ (by decide)
    have hgives : writeEntry (atService s .mailbox) (rowN 0x1212 0 254 .domain 528 .wbPriv 1) (Key.PELGAN_JOB j) 0 528 v =
        (Code.OK, writeJob (atService s .mailbox) j (jobImage (atService s .mailbox) j v)) := by
      rw [writeEntry_job _ _ hj, lockedEntry_atService .mailbox hl (pelganJob_ne hj (by decide)),
        if_neg Bool.false_ne_true]
      exact jobWrite_accepted ((field_setField_within _ _ _ (by decide)).trans hversion) (hw.trans hworker)
        (hentry.symm ▸ h1) (hlatest.symm ▸ h2)
    obtain ⟨hdue, hregs⟩ := writeJob_members (s := atService s .mailbox) hj (v := jobImage (atService s .mailbox) j v)
      (by rw [hmembers]; exact hm)
    refine ⟨_, writeJob_answered h hs hj hv hgives, wrote_answeredWrite _ _ _ _ _ _, ?_, ?_⟩
    · rw [reg_answeredWrite _ _ _ _ _ _ (replyKey_job hj), hregs _ (sideKey_of_reply (replyKey_job hj)), reg_atService]
    · rw [answeredWrite, completeRequest_pelgan, hdue, hmembers, hlatest, hbeat, atService_pelgan]
  case jobRefused =>
    intro s j v h hs hj hv hversion hbad
    obtain ⟨hentry, -, hw, -, -, -⟩ := pelgan_atService s .mailbox j
    have hrefused := jobWrite_refused (s := atService s .mailbox) (j := j)
      (v := setField (reg (atService s .mailbox) (Key.PELGAN_JOB j)) (8 * 0) (8 * 528) v)
      ((field_setField_within _ _ _ (by decide)).trans hversion) (by
        rw [field_setField_within _ _ _ (by decide), hw, hentry]
        exact hbad)
    have hgives : writeEntry (atService s .mailbox) (rowN 0x1212 0 254 .domain 528 .wbPriv 1) (Key.PELGAN_JOB j) 0 528 v =
        (Code.BAD_FIELD, atService s .mailbox) := by
      rw [writeEntry_job _ _ hj, hrefused]
      exact ite_self _
    refine ⟨_, writeJob_answered h hs hj hv hgives, wrote_answeredWrite _ _ _ _ _ _, ?_⟩
    rw [answeredWrite, completeRequest_pelgan, atService_pelgan]
  case binding =>
    intro s p c j h hp hs hl hc hgood
    obtain ⟨hentry, -, -, -, hown, hpending⟩ := pelgan_atService s p j
    have hgives := (writeEntry_ctxJob p hl (row1 0x1213 0 .domain 8192 .wbPriv (2^65536 - 1)) (2 * c) 2 j).trans
      (ctxJobWrite_waits (by rw [hentry, hown, hpending]; exact hgood))
    obtain ⟨hwb, -, hreg⟩ := pushWrite_atService p Key.PELGAN_CTX_JOB (2 * c) 2 j [] hs
    have hfits : fitsType (row1 0x1213 0 .domain 8192 .wbPriv (2^65536 - 1))
        (writeRequest p Key.PELGAN_CTX_JOB (2 * c) 2 j) = true :=
      decide_eq_true (show 2 * c + 2 ≤ 8192 by omega)
    have hanswered := writeOn_answered h (check_write row_PELGAN_CTX_JOB (served_ready p _ hs)
      (right_privileged _ _ _ rfl hp (by decide)) (limit_small p (by decide)) hfits) (by decide) (by decide)
      (show j < 2 ^ (8 * 2) by omega) hgives
    refine ⟨_, congrArg Host.Outcome.next ((if_pos hc).trans hanswered), wrote_answeredWrite _ _ _ _ _ _,
      (reg_answeredWrite _ _ _ _ _ _ (by decide)).trans (hreg _), ?_⟩
    rw [answeredWrite, completeRequest_wb, hwb]
  case samples =>
    intro s p b v h hp hs hb hl hv hlow hhigh
    have hne : ∀ k, k < 0x330004 ∨ 0x330009 ≤ k → Key.PERF_SAMPLE_RELEASE b ≠ k := fun k hk => by
      rw [Key.PERF_SAMPLE_RELEASE]
      omega
    have hsilent : replyKey (Key.PERF_SAMPLE_RELEASE b) = false := by
      have hall : ∀ b : Fin 5, replyKey (Key.PERF_SAMPLE_RELEASE b) = false := by decide
      exact hall ⟨b, hb⟩
    have hin : within (reg (atService s p) (Key.PERF_SAMPLE_RELEASE b)) (reg (atService s p) (Key.PERF_SAMPLE_COUNT b)) v =
        true := by
      rw [reg_atService, reg_atService]
      simp [within, hlow, hhigh]
    have hgives := (writeEntry_sampleRelease p hb hl (rowN 0x3300 4 8 .u64 8 .rwPriv 0) v).trans (if_pos hin)
    refine ⟨_, congrArg Host.Outcome.next ((if_pos hb).trans (writeScalar_eq_answeredWrite h hp hs
      (row_PERF_SAMPLE_RELEASE ⟨b, hb⟩) rfl (by decide) ⟨hne _ (by decide), hne _ (by decide), hne _ (by decide)⟩ hv hgives)),
      wrote_answeredWrite _ _ _ _ _ _, (reg_answeredWrite _ _ _ _ _ _ hsilent).trans (reg_setReg_self _ _ _), ?_⟩
    rw [answeredWrite, completeRequest_mem]
    exact atService_mem s p
  case hot =>
    intro s p v h hp hs hl hv
    have hgives := (writeEntry_hotCache p hl (rowM 0x2E00 1 .u8 1 .rwPriv 1 .replace) v).trans (if_neg (Nat.not_lt.2 hv))
    refine ⟨_, congrArg Host.Outcome.next (writeScalar_eq_answeredWrite h hp hs row_BELT_HOT_CACHE_ENABLE rfl (by decide)
      (by decide) (Nat.lt_of_le_of_lt hv (by decide)) hgives), wrote_answeredWrite _ _ _ _ _ _,
      (reg_answeredWrite _ _ _ _ _ _ (by decide)).trans (reg_setReg_self _ _ _), ?_, ?_⟩
    · rw [answeredWrite, completeRequest_belt]
    · rw [answeredWrite, completeRequest_belt]
      exact (congrArg BeltS.tables (atService_belt s p) : (atService s p).belt.tables = s.belt.tables)
  case retrain =>
    intro s p h hp hs hl hactive
    have hgives := (writeEntry_retrain p hl (row1 0x1201 7 .u8 1 .priv 0) 1).trans
      (show retrainWrite (atService s p) 1 = (Code.OK, startRetrain (atService s p) .aedup) from rfl)
    have hretrain := startRetrain_aedup (s := atService s p) ((atService_aedup s p).symm ▸ hactive)
    refine ⟨_, congrArg Host.Outcome.next (writeScalar_eq_answeredWrite h hp hs row_AEDUP_RETRAIN_REQUEST rfl (by decide)
      (by decide) (by decide) hgives), wrote_answeredWrite _ _ _ _ _ _, ?_⟩
    rw [answeredWrite, completeRequest_link _ _ _ _ _ (by rw [hretrain]; decide), hretrain]

end Sys2Proof.Machine

/-! SUPPORT. The self-test slices of operation: their start, their parts and their limits (chapter 21). -/

namespace Sys2Proof.Machine

/-! ### The supply is read, and the cursor goes on -/

theorem reg_readVin (s : State) {mv : Nat} (h : mv < 65536) : reg (readVin s mv) Key.POWER_VIN_MV = mv :=
  (reg_setReg_self _ _ _).trans (Nat.mod_eq_of_lt h)

theorem reg_readVin_ne (s : State) (mv : Nat) {k : Nat} (h : k ≠ Key.POWER_VIN_MV) : reg (readVin s mv) k = reg s k :=
  reg_setReg_ne _ _ h

/-- The length of a slice does not depend on the supply. -/
theorem slicePs_readVin (s : State) (mv : Nat) : slicePs (readVin s mv) = slicePs s := by
  unfold slicePs
  rw [reg_readVin_ne _ _ (by decide), reg_readVin_ne _ _ (by decide)]

/-- A cursor that goes on changes only itself and the count of sweeps. -/
structure CursorMoved (s t : State) : Prop where
  slices : t.test.slices = s.test.slices
  chip : t.chip = s.chip
  mem : t.mem = s.mem
  pocket : t.pocket = s.pocket
  vin : reg t Key.POWER_VIN_MV = reg s Key.POWER_VIN_MV

theorem passCursor_moves (s : State) (r b : Nat) : CursorMoved s (passCursor s r b) := by
  unfold passCursor
  split
  · dsimp only
    split
    · exact ⟨rfl, rfl, rfl, rfl, reg_bump_ne _ _ (by decide)⟩
    · exact ⟨rfl, rfl, rfl, rfl, rfl⟩
  · exact ⟨rfl, rfl, rfl, rfl, rfl⟩

/-! ### The start of a slice (R413 to R416) -/

/-- The claim of a region's next block: deferred, skipped, or a slice. -/
def claimed (s : State) (r b ns : Nat) : State :=
  if ns * 1000 < slicePs s then bump (keepFirst s b) Key.TEST_SLICES_DEFERRED 1
  else if !limitsMet s then bump (keepFirst s b) Key.TEST_SKIPPED_LIMITS 1
  else
    let isReturn := s.chip.returns.contains b
    let u := if isReturn || s.test.first.contains b then s else passCursor s r b
    { u with test := { u.test with
        first := u.test.first.filter (fun x => x != b)
        slices := tabSet u.test.slices b { part := 1, isReturn := isReturn } } }

theorem sliceStart_claims {s : State} {r b ns vin : Nat} (hrun : running s = true) (hr : r < 4)
    (hawake : regionAwake s r = true) (hopen : testWindowOpen s = true) (hfew : slicesIn s r < reg s Key.TEST_PER_REGION)
    (hnext : nextSlice s r = some b) (harray : arrayAwake s b = true) :
    sliceStart s r ns vin = claimed (readVin s vin) r b ns := by
  unfold sliceStart claimed
  rw [if_pos (by simp [hrun, hr, hawake, hopen, hfew])]
  simp only [hnext, harray, Bool.not_true, Bool.false_eq_true, if_false]

theorem claimed_deferred {s : State} {b ns : Nat} (r : Nat) (h : ns * 1000 < slicePs s) :
    claimed s r b ns = bump (keepFirst s b) Key.TEST_SLICES_DEFERRED 1 := if_pos h

theorem claimed_skipped {s : State} {b ns : Nat} (r : Nat) (h : slicePs s ≤ ns * 1000) (hl : limitsMet s = false) :
    claimed s r b ns = bump (keepFirst s b) Key.TEST_SKIPPED_LIMITS 1 := by
  unfold claimed
  rw [if_neg (Nat.not_lt.2 h), if_pos (by simp [hl])]

/-- A claim that fits, with its limits met, starts the slice of its block alone. -/
theorem claimed_starts {s : State} {b ns : Nat} (r : Nat) (h : slicePs s ≤ ns * 1000) (hl : limitsMet s = true) :
    b ∉ (claimed s r b ns).test.first ∧
      (claimed s r b ns).test.slices = tabSet s.test.slices b { part := 1, isReturn := s.chip.returns.contains b } := by
  unfold claimed
  rw [if_neg (Nat.not_lt.2 h), if_neg (by simp [hl])]
  refine ⟨by simp, ?_⟩
  dsimp only
  split
  · rfl
  · rw [(passCursor_moves s r b).slices]

/-- Whatever becomes of a claim, the memories, the Pockets, the chip's records and the supply that was read stay. -/
theorem claimed_keeps (s : State) (r b ns : Nat) : (claimed s r b ns).mem = s.mem ∧ (claimed s r b ns).pocket = s.pocket ∧
    (claimed s r b ns).chip = s.chip ∧ reg (claimed s r b ns) Key.POWER_VIN_MV = reg s Key.POWER_VIN_MV := by
  unfold claimed
  split
  · exact ⟨rfl, rfl, rfl, reg_bump_ne _ _ (by decide)⟩
  · split
    · exact ⟨rfl, rfl, rfl, reg_bump_ne _ _ (by decide)⟩
    · dsimp only
      split
      · exact ⟨rfl, rfl, rfl, rfl⟩
      · have hmoved := passCursor_moves s r b
        exact ⟨hmoved.mem, hmoved.pocket, hmoved.chip, hmoved.vin⟩

/-! ### The parts of a slice -/

theorem slicePartEnd_next {s : State} {b : Nat} {ok : Bool} {x : Slice} (hx : tabGet s.test.slices b = some x)
    (hpart : x.part < 4) (hgood : ok = true ∨ x.part ≤ 1) :
    slicePartEnd s b ok = { s with test := { s.test with slices := tabSet s.test.slices b { x with part := x.part + 1 } } } := by
  have hpass : ¬ ((!ok && (x.part == 2 || x.part == 3)) = true) := by
    simp only [Bool.and_eq_true, Bool.or_eq_true, Bool.not_eq_true', beq_iff_eq]
    rintro ⟨hok, htest⟩
    rcases hgood with hgood | hearly
    · exact absurd (hok.symm.trans hgood) (by decide)
    · omega
  simp only [slicePartEnd, hx]
  rw [if_neg hpass, if_pos hpart]

theorem slicePartEnd_fails {s : State} {b : Nat} {x : Slice} (hx : tabGet s.test.slices b = some x)
    (hpart : x.part = 2 ∨ x.part = 3) : slicePartEnd s b false = sliceFails s b x.part x.isReturn := by
  simp only [slicePartEnd, hx]
  exact if_pos (by simpa using hpart)

theorem slicePartEnd_ends {s : State} {b : Nat} {ok : Bool} {x : Slice} (hx : tabGet s.test.slices b = some x)
    (hpart : x.part = 4) : slicePartEnd s b ok = sliceEnds s b x := by
  simp only [slicePartEnd, hx]
  rw [if_neg (by simp [hpart]), if_neg (by omega)]

/-- A failed slice is counted run and failed. -/
def failCounted (s : State) (b : Nat) : State := bump (bump (dropSlice s b) Key.TEST_SLICES_RUN 1) Key.TEST_SLICES_FAILED 1

theorem reg_failCounted (s : State) (b : Nat) :
    reg (failCounted s b) Key.TEST_SLICES_FAILED = reg (bump s Key.TEST_SLICES_FAILED 1) Key.TEST_SLICES_FAILED :=
  reg_bump_congr 1 (reg_bump_ne (dropSlice s b) 1 (by decide))

/-- The return that failed is dropped, and its block stays quarantined. -/
theorem sliceFails_return (s : State) (b part : Nat) : ∃ d, sliceFails s b part true =
    logError { failCounted s b with chip := { s.chip with returns := s.chip.returns.filter (fun x => x != b) } }
      .blockSequencer b Code.CTX_FAULT noCtx .quarantine d := ⟨_, rfl⟩

theorem sliceFails_block (s : State) (b part : Nat) : ∃ d, sliceFails s b part false =
    quarantineAs (failCounted s b) b Code.CTX_FAULT d := ⟨_, rfl⟩

/-- A slice that failed is over, and counted as failed. -/
theorem sliceFails_counts (s : State) (b part : Nat) (isReturn : Bool) :
    tabGet (sliceFails s b part isReturn).test.slices b = none ∧
      reg (sliceFails s b part isReturn) Key.TEST_SLICES_FAILED =
        reg (bump s Key.TEST_SLICES_FAILED 1) Key.TEST_SLICES_FAILED := by
  cases isReturn with
  | true =>
    obtain ⟨d, hlogged⟩ := sliceFails_return s b part
    rw [hlogged, logError_test, reg_logError _ _ _ _ _ _ _ (by decide)]
    exact ⟨tabGet_tabDel_self _ _, reg_failCounted s b⟩
  | false =>
    obtain ⟨d, hfenced⟩ := sliceFails_block s b part
    rw [hfenced, reg_quarantineAs _ _ _ _ (by decide)]
    refine ⟨?_, reg_failCounted s b⟩
    by_cases havail : blockAvailable (failCounted s b) b = true
    · rw [quarantineAs_test _ _ havail]
      exact tabGet_tabDel_self _ _
    · rw [quarantineAs, if_neg havail]
      exact tabGet_tabDel_self _ _

/-- The counts of the slices leave the blocks that are available. -/
theorem blockAvailable_failCounted (s : State) (b d : Nat) : blockAvailable (failCounted s b) d = blockAvailable s d := by
  have hmap : reg (failCounted s b) Key.CHIP_BLOCK_MAP = reg s Key.CHIP_BLOCK_MAP :=
    (reg_bump_ne _ _ (by decide)).trans (reg_bump_ne (dropSlice s b) 1 (by decide))
  unfold blockAvailable
  rw [hmap]
  rfl

theorem sliceEnds_passed {s : State} {b : Nat} {x : Slice} (h : x.abandoned = false) :
    (sliceEnds s b x).test = (dropSlice s b).test ∧ (sliceEnds s b x).regs = (bump s Key.TEST_SLICES_RUN 1).regs ∧
      (sliceEnds s b x).pocket = s.pocket ∧ (x.isReturn = true → (sliceEnds s b x).chip = { s.chip with
        returns := s.chip.returns.filter (fun y => y != b), passed := insertUp b s.chip.passed }) := by
  unfold sliceEnds
  simp only [h, Bool.false_eq_true, if_false]
  split
  · exact ⟨rfl, rfl, rfl, fun _ => rfl⟩
  · next hno => exact ⟨rfl, rfl, rfl, fun hreturn => absurd hreturn hno⟩

/-- The check of a slice's limits: the supply is read, and a test part whose limits are unmet gives way to the restore. -/
theorem sliceLimitCheck_reads {s : State} {b vin : Nat} {x : Slice} (hx : tabGet s.test.slices b = some x) :
    reg (sliceLimitCheck s b vin) Key.POWER_VIN_MV = reg (readVin s vin) Key.POWER_VIN_MV ∧
      tabGet (sliceLimitCheck s b vin).test.slices b =
        if (x.part = 2 ∨ x.part = 3) ∧ limitsMet (readVin s vin) = false then some { x with part := 4, abandoned := true }
        else some x := by
  simp only [sliceLimitCheck, hx]
  by_cases hunmet : (x.part = 2 ∨ x.part = 3) ∧ limitsMet (readVin s vin) = false
  · rw [if_pos (by simpa using hunmet), if_pos hunmet]
    exact ⟨reg_bump_ne _ _ (by decide), tabGet_tabSet_self _ _ _⟩
  · rw [if_neg (by simpa using hunmet), if_neg hunmet]
    exact ⟨rfl, hx⟩

/-- Settles O25, command by command. -/
theorem selfTestSlices : Obligations.SelfTestSlices := by
  refine ⟨?start, ?next, ?fails, ?ends, ?limits⟩
  case start =>
    intro s r b ns vin hrun hr hawake hopen hfew hnext harray hvin
    obtain ⟨hmem, hpocket, hchip, hreg⟩ := claimed_keeps (readVin s vin) r b ns
    refine ⟨_, congrArg Host.Outcome.next (sliceStart_claims hrun hr hawake hopen hfew hnext harray),
      hreg.trans (reg_readVin s hvin), hmem, hpocket, hchip, fun hlate => ?_, fun hfits hunmet => ?_, fun hfits hmet => ?_⟩
    · rw [claimed_deferred r ((slicePs_readVin s vin).symm ▸ hlate)]
      exact ⟨rfl, rfl, reg_bump_congr 1 (reg_readVin_ne s vin (by decide))⟩
    · rw [claimed_skipped r ((slicePs_readVin s vin).symm ▸ hfits) hunmet]
      exact ⟨rfl, rfl, reg_bump_congr 1 (reg_readVin_ne s vin (by decide))⟩
    · obtain ⟨hfirst, hslices⟩ := claimed_starts (b := b) r ((slicePs_readVin s vin).symm ▸ hfits) hmet
      rw [hslices]
      exact ⟨hfirst, tabGet_tabSet_self _ _ _, fun d hd => tabGet_tabSet_ne _ _ hd⟩
  case next =>
    intro s b ok x hx hpart hgood
    exact congrArg Host.Outcome.next (slicePartEnd_next hx hpart hgood)
  case fails =>
    intro s b x hx hpart
    obtain ⟨hover, hcount⟩ := sliceFails_counts s b x.part x.isReturn
    refine ⟨_, congrArg Host.Outcome.next (slicePartEnd_fails hx hpart), hover, hcount, fun hreturn => ?_,
      fun hreturn havail => ?_⟩
    · obtain ⟨d, hlogged⟩ := sliceFails_return s b x.part
      rw [hreturn, hlogged, logError_chip]
      exact ⟨rfl, rfl, rfl⟩
    · obtain ⟨d, hfenced⟩ := sliceFails_block s b x.part
      have havail' := (blockAvailable_failCounted s b b).trans havail
      rw [hreturn, hfenced, quarantineAs_chip _ _ havail', quarantineAs_eeprom _ _ havail']
      exact ⟨(mem_insertUp _ _ _).2 (.inl rfl), rfl⟩
  case ends =>
    intro s b ok x hx hpart hgood
    obtain ⟨htest, hregs, hpocket, hreturned⟩ := sliceEnds_passed (s := s) (b := b) hgood
    refine ⟨_, congrArg Host.Outcome.next (slicePartEnd_ends hx hpart), ?_, reg_congr hregs _,
      (reg_congr hregs _).trans (reg_bump_ne s 1 (by decide)), hpocket, fun hreturn => ?_⟩
    · rw [htest]
      exact tabGet_tabDel_self _ _
    · rw [hreturned hreturn]
      exact ⟨(mem_insertUp _ _ _).2 (.inl rfl), by simp⟩
  case limits =>
    intro s b vin x hx hvin
    obtain ⟨hreg, hslice⟩ := sliceLimitCheck_reads (vin := vin) hx
    exact ⟨_, rfl, hreg.trans (reg_readVin s hvin), hslice⟩

end Sys2Proof.Machine

/-! SUPPORT. What leaves the block, what a fault of a context leaves as it is, and job aborts (chapters 17 and 20). -/

namespace Sys2Proof.Machine

/-! ### What is sent (R333, R440) -/

theorem sealLimit_out (s : State) : (sealLimit s).out = s.out := by
  unfold sealLimit
  split
  · rfl
  · split <;> rfl

theorem spendFor_out (s : State) (o : Out) : (spendFor s o).out = s.out := by
  cases o <;> rfl

theorem send_out (s : State) (o : Out) : (send s o).out = o :: s.out :=
  (sealLimit_out _).trans (congrArg (o :: ·) (spendFor_out s o))

/-- An entry that sending does not write is counted alike before and after sending. -/
theorem side_bumped {s t : State} {k : Nat} (n : Nat) (h : Side s t) (hk : sideKey k = false) :
    Side (bump s k n) (bump t k n) :=
  { h with
    regs := fun j hj => by
      by_cases hjk : j = k
      · rw [hjk]
        exact reg_bump_congr n (h.regs k hk)
      · rw [reg_bump_ne _ _ hjk, reg_bump_ne _ _ hjk]
        exact h.regs j hj }

/-! ### Units that are kept -/

theorem UnitsKept.refl (s : State) : UnitsKept s s :=
  ⟨.refl s, rfl, rfl, rfl, rfl, rfl, rfl, rfl, rfl, rfl, fun _ _ => rfl⟩

theorem UnitsKept.trans {s t u : State} (h : UnitsKept s t) (k : UnitsKept t u) : UnitsKept s u where
  holdings := h.holdings.trans k.holdings
  mem := k.mem.trans h.mem
  queues := k.queues.trans h.queues
  indexes := k.indexes.trans h.indexes
  start := k.start.trans h.start
  fatal := k.fatal.trans h.fatal
  alerts := k.alerts.trans h.alerts
  hem := k.hem.trans h.hem
  sec := k.sec.trans h.sec
  power := k.power.trans h.power
  settings := fun j hj => (k.settings j hj).trans (h.settings j hj)

/-- No entry that a fault writes is a setting. -/
theorem faultKey_setting {k : Nat} (h : 0x200000 ≤ k) : faultKey k = false := by
  have hne : ∀ m, m < 0x200000 → (k == m) = false := fun m hm => beq_eq_false_iff_ne.2 (by omega)
  have hsample : decide (k < Key.PERF_SAMPLE_COUNT 0 + 10) = false :=
    decide_eq_false (Nat.not_lt.2 (Nat.le_trans (by decide) h))
  have hjob : (k / 256 == 0x1212) = false := beq_eq_false_iff_ne.2 (by omega)
  unfold faultKey sideKey
  rw [hne _ (by decide), hne _ (by decide), hne _ (by decide), hne _ (by decide), hne _ (by decide), hne _ (by decide),
    hne _ (by decide), hne _ (by decide), hne _ (by decide), hsample, hjob, Bool.and_false]
  rfl

theorem unitsKept_of_side {s t : State} (h : Side s t) : UnitsKept s t where
  holdings := holdings_of_side h
  mem := h.mem
  queues := h.queues
  indexes := h.indexes
  start := h.start
  fatal := h.fatal
  alerts := h.alerts
  hem := h.hem
  sec := h.sec
  power := h.power
  settings := fun _ hk => h.regs _ (side_of_fault (faultKey_setting hk))

theorem unitsKept_setReg (s : State) {k : Nat} (v : Nat) (h : k < 0x200000) : UnitsKept s (setReg s k v) where
  holdings := by constructor <;> rfl
  mem := rfl
  queues := rfl
  indexes := rfl
  start := rfl
  fatal := rfl
  alerts := rfl
  hem := rfl
  sec := rfl
  power := rfl
  settings := fun _ hj => reg_setReg_ne _ _ (by omega)

theorem unitsKept_fenceBy (s : State) (c st : Nat) (b : Option Nat) (a : Bool) (u : LogUnit) (i : Nat) :
    UnitsKept s (fenceBy s c st b a u i) where
  holdings := holdings_fenceBy s c st b a u i
  mem := by simp
  queues := by simp
  indexes := by simp
  start := by simp
  fatal := by simp
  alerts := by simp
  hem := by simp
  sec := by simp
  power := by simp
  settings := fun _ hk => reg_fenceBy _ _ _ _ _ _ _ (faultKey_setting hk)

/-! ### A fault of a context (R91, R399) -/

theorem standing_iff (x : Ctx) :
    standing x = true ↔ x.state ∈ [CtxState.idle, .waiting, .restoring, .running, .saving] := by
  unfold standing
  cases x.state <;> decide

/-- A context that does not stand keeps its record when it is faulted, and so do the others. -/
theorem fenceBy_ctxs {s : State} {c : Nat} (st : Nat) (b : Option Nat) (u : LogUnit) (i : Nat)
    (h : standing (ctxOf s c) = false) : (fenceBy s c st b false u i).ctxs = s.ctxs := by
  have hdown : (ctxOf s c).state = .free ∨ (ctxOf s c).state = .faulted ∨ (ctxOf s c).state = .tearingDown := by
    unfold standing at h
    cases hstate : (ctxOf s c).state <;> simp [hstate] at h ⊢
  unfold fenceBy
  rcases hdown with hstate | hstate | hstate <;> simp only [hstate]
  · exact logError_ctxs _ _ _ _ _ _ _
  · exact logError_ctxs _ _ _ _ _ _ _

/-- A fault fences a context that stands, and leaves every other. -/
theorem ctxOf_fenceBy_all (s : State) (c st : Nat) (b : Option Nat) (u : LogUnit) (i d : Nat) :
    ctxOf (fenceBy s c st b false u i) d =
      if d = c ∧ standing (ctxOf s c) = true then fenced (ctxOf s c) st b else ctxOf s d := by
  by_cases hstands : standing (ctxOf s c) = true
  · rw [ctxOf_fenceBy st b false u i ((standing_iff _).1 hstands)]
    simp only [hstands, and_true]
    rfl
  · rw [Bool.not_eq_true] at hstands
    rw [if_neg (by simp [hstands]), ctxOf, fenceBy_ctxs st b u i hstands]
    rfl

theorem beginAbort_ended {s : State} {j : Nat} (cause : Nat) (h : jobState (jobEntry s j) ≠ 1) :
    beginAbort s j cause = s := if_neg (by simpa using h)

/-- A fault of a context whose job is no longer ACTIVE begins no abort: only the log and the count of hangs can differ beside
the context. -/
structure FaultAlone (s t : State) : Prop where
  pelgan : t.pelgan = s.pelgan
  out : t.out = s.out
  regs : ∀ k, k ≠ Key.RESET_LOG_SEQ → k ≠ Key.CTX_HUNG → reg t k = reg s k

theorem faultAlone_logError (s : State) (u : LogUnit) (i st c : Nat) (a : LogAction) (d : Nat) :
    FaultAlone s (logError s u i st c a d) :=
  ⟨logError_pelgan _ _ _ _ _ _ _, logError_out _ _ _ _ _ _ _, fun _ hk _ => reg_logError _ _ _ _ _ _ _ hk⟩

theorem faultAlone_fenceBy {s : State} {c : Nat} (st : Nat) (b : Option Nat) (a : Bool) (u : LogUnit) (i : Nat)
    (h : ∀ j, boundJob s c = some j → jobState (jobEntry s j) ≠ 1) : FaultAlone s (fenceBy s c st b a u i) := by
  have hlogged : FaultAlone s (if a then s else logError s u i st c .teardown 0) := by
    split
    · exact ⟨rfl, rfl, fun _ _ _ => rfl⟩
    · exact faultAlone_logError s u i st c .teardown 0
  have hset : ∀ x, FaultAlone s (setCtx (if a then s else logError s u i st c .teardown 0) c x) := fun x =>
    ⟨hlogged.pelgan, hlogged.out, hlogged.regs⟩
  have hcounted : ∀ v, FaultAlone s v →
      FaultAlone s (if st == Code.CTX_HUNG then bump v Key.CTX_HUNG 1 else v) := fun v hv => by
    split
    · exact ⟨hv.pelgan, hv.out, fun k hlog hhung => (reg_bump_ne v 1 hhung).trans (hv.regs k hlog hhung)⟩
    · exact hv
  unfold fenceBy
  dsimp only
  split
  · exact ⟨rfl, rfl, fun _ _ _ => rfl⟩
  · exact faultAlone_logError s u i st c .teardown 0
  · exact faultAlone_logError s u i st c .teardown 0
  · split
    · next j hj =>
      have hlt := boundJob_lt hj
      have hentry := (hcounted _ (hset { ctxOf s c with
        state := .tearingDown, genTag := ((ctxOf s c).genTag + 1) % 256, lastStatus := st, freeAfter := a,
        blame := b.map (fun j => (j, st)), preempt := false, leaving := false, save := .none, hung := false })).regs
        (Key.PELGAN_JOB j) (pelganJob_ne hlt (by decide)) (pelganJob_ne hlt (by decide))
      rw [beginAbort_ended _ (by rw [jobEntry, hentry]; exact h j hj)]
      exact hcounted _ (hset _)
    · exact hcounted _ (hset _)

/-! ### Aborts that are sent (R356) -/

theorem side_sendAbort (s : State) (o j g c : Nat) (e : Option Nat) : Side s (sendAbort s o j g c e) :=
  side_foldl _ _ (fun t _ => side_send t _) s

/-- What each step of a fold sends is among what the fold has sent. -/
theorem mem_out_foldl {α : Type} {f : State → α → State} {o : α → Out} (hside : ∀ t a, Side t (f t a))
    (hsent : ∀ t a, o a ∈ (f t a).out) {l : List α} {a : α} (ha : a ∈ l) (s : State) : o a ∈ (l.foldl f s).out := by
  induction l generalizing s with
  | nil => exact absurd ha List.not_mem_nil
  | cons b l ih =>
    rcases List.mem_cons.1 ha with hab | hrest
    · obtain ⟨sent, hout⟩ := (side_foldl f l hside (f s b)).out
      rw [List.foldl_cons, hout]
      exact List.mem_append_right _ (hab ▸ hsent s a)
    · exact ih hrest _

/-- An abort goes to every link of the group but one. -/
theorem mem_sendAbort (s : State) (o j g c : Nat) {e : Option Nat} {l : Nat} (hl : l ∈ groupLinks s) (he : some l ≠ e) :
    .abort l o j g c ∈ (sendAbort s o j g c e).out :=
  mem_out_foldl (o := fun l => .abort l o j g c) (fun t _ => side_send t _) (fun t _ => mem_send t _)
    (List.mem_filter.2 ⟨hl, by simpa using he⟩) s

/-- While no link has sealed its last flit, sending an abort changes what has been sent and nothing else. -/
theorem send_abort_sealed {s : State} (h : sealsLeft s = true) (l o j g c : Nat) :
    send s (.abort l o j g c) = { s with out := .abort l o j g c :: s.out } := by
  simp only [sealsLeft, Bool.and_eq_true, decide_eq_true_eq, List.all_eq_true] at h
  obtain ⟨haedup, hpelgan⟩ := h
  have hnone : s.pelgan.links.find? (fun p => p.2.state == .active && 2 ^ 48 ≤ p.2.sealedOut) = none := by
    rw [List.find?_eq_none]
    intro p hp
    have hlt := hpelgan p hp
    simp only [Bool.and_eq_true, decide_eq_true_eq, not_and, Nat.not_le]
    exact fun _ => hlt
  unfold send spendFor sealLimit
  dsimp only
  rw [if_neg (by simp only [Bool.and_eq_true, decide_eq_true_eq, not_and, Nat.not_le]; exact fun _ => haedup), hnone]

/-- The second state is the first with more sent. -/
def sentOn (s t : State) : Prop := ∃ l, t = { s with out := l ++ s.out }

theorem sentOn_foldl {α : Type} {f : State → α → State} {s : State} (l : List α)
    (h : ∀ o : List Out, ∀ a ∈ l, ∃ m, f { s with out := o } a = { s with out := m ++ o }) : sentOn s (l.foldl f s) := by
  have hall : ∀ o, ∃ m, l.foldl f { s with out := o } = { s with out := m ++ o } := by
    induction l with
    | nil => exact fun o => ⟨[], rfl⟩
    | cons a l ih =>
      intro o
      obtain ⟨m, hstep⟩ := h o a List.mem_cons_self
      obtain ⟨n, hrest⟩ := ih (fun o b hb => h o b (List.mem_cons_of_mem _ hb)) (m ++ o)
      exact ⟨n ++ m, by rw [List.foldl_cons, hstep, hrest, List.append_assoc]⟩
  exact hall s.out

theorem sentOn_sendAbort {s : State} (h : sealsLeft s = true) (o j g c : Nat) (e : Option Nat) :
    sentOn s (sendAbort s o j g c e) :=
  sentOn_foldl _ fun out l _ =>
    ⟨[.abort l o j g c], send_abort_sealed (s := { s with out := out }) h l o j g c⟩

/-! ### A job abort that arrives -/

/-- The state in which a new abort has been noted, sent on and counted. -/
def abortPassed (s : State) (port flit : Nat) : State :=
  bump (sendAbort { s with pelgan := { s.pelgan with seen := (abortJob flit, abortGen flit) :: s.pelgan.seen } }
    (abortOrigin flit) (abortJob flit) (abortGen flit) (abortCause flit) (some port)) Key.PELGAN_ABORTS_RECEIVED 1

/-- The job that an abort concerns becomes ABORTED. -/
def abortMarked (s : State) (flit : Nat) : State :=
  setReg s (Key.PELGAN_JOB (abortJob flit)) (setField (jobEntry s (abortJob flit)) 8 8 2)

/-- An abort flit that is not new has no effect. -/
theorem abortFlit_cases (s : State) (port flit : Nat) : abortFlit s port flit =
    if newAbort s port flit then
      if abortConcerns (abortPassed s port flit) flit then
        match ctxOfJob (abortMarked (abortPassed s port flit) flit) (abortJob flit) with
        | some c => faultCtx (abortMarked (abortPassed s port flit) flit) c Code.JOB_ABORTED_PEER
        | none => abortMarked (abortPassed s port flit) flit
      else abortPassed s port flit
    else s := by
  have hold : (field flit 64 16 != reg s Key.PELGAN_FORMATION ||
      s.pelgan.seen.contains (field flit 116 12, field flit 108 8) || !groupLink s port) = !newAbort s port flit := by
    unfold newAbort
    rw [Bool.not_and, Bool.not_and, Bool.not_not]
    rfl
  unfold abortFlit
  simp only [hold]
  cases newAbort s port flit <;> rfl

/-- What an abort that has been passed on leaves. -/
theorem side_abortPassed (s : State) (port flit : Nat) : Side (bump { s with pelgan := { s.pelgan with
    seen := (abortJob flit, abortGen flit) :: s.pelgan.seen } } Key.PELGAN_ABORTS_RECEIVED 1) (abortPassed s port flit) :=
  side_bumped 1 (side_sendAbort _ _ _ _ _ _) (by decide)

theorem reg_abortPassed (s : State) (port flit : Nat) {k : Nat} (h : sideKey k = false)
    (hk : k ≠ Key.PELGAN_ABORTS_RECEIVED) : reg (abortPassed s port flit) k = reg s k :=
  ((side_abortPassed s port flit).regs k h).trans (reg_bump_ne _ _ hk)

theorem sideKey_job {j : Nat} (hj : j < 255) : sideKey (Key.PELGAN_JOB j) = false := sideKey_of_reply (replyKey_job hj)

theorem jobEntry_abortPassed (s : State) (port flit : Nat) {j : Nat} (hj : j < 255) :
    jobEntry (abortPassed s port flit) j = jobEntry s j :=
  reg_abortPassed s port flit (sideKey_job hj) (pelganJob_ne hj (by decide))

theorem abortConcerns_abortPassed (s : State) (port flit : Nat) :
    abortConcerns (abortPassed s port flit) flit = abortConcerns s flit := by
  have hown : ownDevice (abortPassed s port flit) = ownDevice s := reg_abortPassed s port flit (by decide) (by decide)
  unfold abortConcerns
  by_cases hj : abortJob flit < 255
  · rw [jobEntry_abortPassed s port flit hj, hown]
  · simp [hj]

theorem ctxOfJob_congr {s t : State} (hctxs : t.ctxs = s.ctxs)
    (hreg : reg t Key.PELGAN_CTX_JOB = reg s Key.PELGAN_CTX_JOB) (j : Nat) : ctxOfJob t j = ctxOfJob s j := by
  unfold ctxOfJob
  rw [hctxs]
  exact congrArg (fun f => (tabKeys s.ctxs).find? f) (funext fun c => by rw [boundJob_congr hreg])

/-- A context found for a job is bound to it. -/
theorem boundJob_of_ctxOfJob {s : State} {j c : Nat} (h : ctxOfJob s j = some c) : boundJob s c = some j := by
  have hfound := List.find?_some h
  simpa using hfound

/-- The job that an abort concerns, once it is marked, is not ACTIVE. -/
theorem jobState_aborted (e : Nat) : jobState (setField e 8 8 2) = 2 := field_setField_self e 8 8 2

theorem unitsKept_abortPassed (s : State) (port flit : Nat) : UnitsKept s (abortPassed s port flit) := by
  refine UnitsKept.trans ?_ (unitsKept_of_side (side_abortPassed s port flit))
  refine UnitsKept.trans (t := { s with pelgan := { s.pelgan with
    seen := (abortJob flit, abortGen flit) :: s.pelgan.seen } }) ?_ (unitsKept_setReg _ _ (by decide))
  exact ⟨by constructor <;> rfl, rfl, rfl, rfl, rfl, rfl, rfl, rfl, rfl, rfl, fun _ _ => rfl⟩

end Sys2Proof.Machine

/-! SUPPORT. The replies of dictionary requests on their paths, and what an abort and its repeats leave (chapters 17 and 18). -/

namespace Sys2Proof.Machine

/-! ### Completed requests, and requests that are served (R358, R364, R369) -/

/-- The state in which a request has been counted and noted, before its reply leaves. -/
def requestNoted (s : State) (q : Request) (st n d : Nat) : State :=
  let u := if isSuccess st then bump s Key.DICT_REQUESTS 1 else bump (bump s Key.DICT_REQUESTS 1) Key.DICT_REFUSED 1
  countChip { u with dict := { u.dict with last := some (replyOf q st n d) } } 0x308 1 {}

theorem completeRequest_answers (s : State) (q : Request) (st n d : Nat) :
    completeRequest s q st n d = answer (requestNoted s q st n d) (replyOf q st n d) := rfl

/-- Before its reply leaves, a request has changed no more than counts, its record and what counting sends. -/
theorem requestNoted_kept (s : State) (q : Request) (st n d : Nat) :
    (∃ l, (requestNoted s q st n d).out = l ++ s.out) ∧ (requestNoted s q st n d).dict.replay = s.dict.replay ∧
      ∀ k, replyKey k = false → reg (requestNoted s q st n d) k = reg s k := by
  have hcount : ∀ u : State, Side u (countChip u 0x308 1 {}) := fun u => side_countChip u 0x308 1 {}
  unfold requestNoted
  refine ⟨?_, ?_, fun k hk => ?_⟩
  · obtain ⟨l, hout⟩ := (hcount _).out
    refine ⟨l, hout.trans ?_⟩
    dsimp only
    split <;> rfl
  · rw [(hcount _).dict]
    dsimp only
    split <;> rfl
  · refine ((hcount _).regs k (sideKey_of_reply hk)).trans ?_
    simp only [replyKey, Bool.or_eq_false_iff, beq_eq_false_iff_ne] at hk
    show reg (if _ then _ else _) k = _
    split
    · exact reg_bump_ne _ _ hk.1.2
    · rw [reg_bump_ne _ _ hk.2, reg_bump_ne _ _ hk.1.2]

theorem undisturbed_completeRequest (s : State) (q : Request) (st n d : Nat) :
    Undisturbed s (completeRequest s q st n d) := by
  constructor <;> simp

/-- The counts of requests after one has completed. -/
theorem counts_completeRequest (s : State) (q : Request) (st n d : Nat) :
    counts s (completeRequest s q st n d) Key.DICT_REQUESTS 1 ∧
      (isSuccess st = false → counts s (completeRequest s q st n d) Key.DICT_REFUSED 1) := by
  have hreg : ∀ k, sideKey k = false → reg (completeRequest s q st n d) k =
      reg (if isSuccess st then bump s Key.DICT_REQUESTS 1
        else bump (bump s Key.DICT_REQUESTS 1) Key.DICT_REFUSED 1) k := fun k hk =>
    (reg_answer _ _ hk).trans ((side_countChip _ _ _ _).regs k hk)
  refine ⟨(hreg _ (by decide)).trans ?_, fun hfail => (hreg _ (by decide)).trans ?_⟩
  · split
    · rfl
    · exact reg_bump_ne _ _ (by decide)
  · rw [if_neg (by simp [hfail])]
    exact reg_bump_congr 1 (reg_bump_ne _ _ (by decide))

/-- A request that completes is answered on its path. -/
theorem answered_completeRequest (s : State) (q : Request) (st n d : Nat) :
    Answered s (completeRequest s q st n d) q st n d := by
  obtain ⟨⟨l, hout⟩, hreplay, hregs⟩ := requestNoted_kept s q st n d
  constructor
  case kept => exact undisturbed_completeRequest s q st n d
  case counted => exact (counts_completeRequest s q st n d).1
  case refused => exact (counts_completeRequest s q st n d).2
  case last => exact completeRequest_last s q st n d
  case free =>
    rw [completeRequest_dict]
    exact ⟨rfl, rfl⟩
  case fabric =>
    intro hpath r hroute
    refine ⟨l, ?_⟩
    rw [completeRequest_answers, answer, show (replyOf q st n d).path = .dictReq from hpath]
    dsimp only
    rw [sendTo, flowRoute_congr (hregs _ (by decide)), show (replyOf q st n d).source = q.source from rfl, hroute]
    dsimp only
    rw [send_out, hout]
    rfl
  case port =>
    intro hpath
    rw [completeRequest_answers, answer, show (replyOf q st n d).path = .mgmt from hpath]
    dsimp only [sendMgmt]
    refine ⟨⟨l, ?_⟩, ?_⟩
    · rw [send_out]
      exact congrArg (_ :: ·) hout
    · rw [(side_send _ _).dict]
      dsimp only
      rw [hreplay]
      rfl

theorem issueRead_dict (s : State) (line : Nat) (shared : Bool) (why : ReadFor) :
    (issueRead s line shared why).dict.waiting = s.dict.waiting := by
  unfold issueRead
  split
  · rw [(side_send _ _).dict]
  · rfl

/-- Asking for the line that a request waits for leaves it waiting. -/
theorem wantDict_waits (s : State) : (wantDict s).dict.waiting = s.dict.waiting ∧ (wantDict s).queues = s.queues ∧
    (wantDict s).jobs = s.jobs ∧ (wantDict s).mem = s.mem := by
  unfold wantDict
  split
  · refine ⟨?_, wantLine_queues _ _ _, wantLine_jobs _ _ _, wantLine_mem _ _ _⟩
    unfold wantLine
    split
    · exact issueRead_dict _ _ _ _
    · rfl
  · exact ⟨rfl, rfl, rfl, rfl⟩

/-- A request that passed its checks and has no line to read. -/
theorem serveOne_passed {s : State} {q : Request} {r : EntryRow} (hc : checkRequest s q = (Code.OK, r))
    (hline : enableLine s q = none) : serveOne s q = if q.op == 1 then finishRead s q r else finishWrite s q r := by
  unfold serveOne
  simp only [hc, hline]
  rfl

/-- A read of an entry with a plain value. -/
theorem finishRead_plain {s : State} {q : Request} {r : EntryRow} (hnone : derived s q.key = none)
    (hopen : openEntry s q.key = false) (hbank : q.key / 256 ∉ [0xF032, 0xF041]) (hty : r.ty ≠ .str)
    (hlen : q.length ≠ 0) : finishRead s q r =
      completeRequest s q Code.OK q.length (field (inForce s q.key) (8 * q.offset) (8 * q.length)) := by
  have hread : readEntry s q.key q.offset q.length = (field (inForce s q.key) (8 * q.offset) (8 * q.length), s) := by
    simp only [List.mem_cons, List.not_mem_nil, or_false, not_or] at hbank
    unfold readEntry
    rw [if_neg (by simpa using hbank.1), if_neg (by simpa using hbank.2), if_neg (by simp [hopen]), hnone]
  unfold finishRead
  rw [if_neg (by simpa using hlen), if_neg (by simpa using hty), hread]

/-- A request that arrives is served as R364 and R365 say. -/
theorem served_arrive (s : State) (q : Request) : Served s (arrive s q) q := by
  have hfree : dictFree s = true → arrive s q = serveOne s q := fun h => by
    simp only [dictFree, Bool.and_eq_true, Option.isNone_iff_eq_none, List.isEmpty_iff] at h
    exact arrive_of_free q h.1 h.2
  constructor
  case waits =>
    intro hwaits
    unfold arrive serveBacklog
    exact if_pos hwaits
  case refused =>
    intro h st r hc hst
    rw [hfree h, serveOne_refused hc (by simpa using hst)]
    exact answered_completeRequest s q st 0 0
  case reads =>
    intro h r hc hop hnone hopen hbank hty hlen
    have hline : enableLine s q = none := by simp [enableLine, hop]
    rw [hfree h, serveOne_passed hc hline, if_pos (by simp [hop]), finishRead_plain hnone hopen hbank hty hlen]
    exact answered_completeRequest s q _ _ _
  case writes =>
    intro h r hc hop hline
    rw [hfree h, serveOne_passed hc hline]
    exact if_neg (by simp [hop])
  case line =>
    intro h r line hc hline
    have hserved : serveOne s q = wantDict { s with dict := { s.dict with waiting := some (q, line) } } := by
      unfold serveOne
      simp only [hc, hline]
      rfl
    rw [hfree h, hserved]
    exact wantDict_waits { s with dict := { s.dict with waiting := some (q, line) } }

/-! ### Datagrams (R368 to R371) -/

theorem mgmtDatagram_taken {s : State} {source size header data : Nat} {ours : Bool} (hopen : pathOpen s .mgmt = true)
    (hgood : datagramBad source ours size header = false) : mgmtDatagram s source ours size header data =
      match s.dict.replay.find? (fun p => p.1 == source && p.2.1 == field header 96 32) with
      | some (_, _, p) => sendMgmt (bump (bump s Key.MGMT_REQUESTS 1) Key.MGMT_REPLAYED 1) p
      | none => arrive (bump s Key.MGMT_REQUESTS 1) (datagramRequest source header data) := by
  unfold mgmtDatagram
  rw [if_neg (by simp [hopen]), if_neg (by simp [hgood])] <;> rfl

/-! ### The effect of a new abort, and the repeats (R356) -/

/-- What a fault of a job's context, once the job is ABORTED, leaves. -/
structure Faulted (m t : State) (found : Option Nat) : Prop where
  kept : UnitsKept m t
  jobs : t.jobs = m.jobs
  alone : FaultAlone m t
  others : found = none → t.ctxs = m.ctxs
  ctxs : ∀ c d, found = some c → ctxOf t d =
    if d = c ∧ standing (ctxOf m c) = true then fenced (ctxOf m c) Code.JOB_ABORTED_PEER none else ctxOf m d

theorem faulted_none (m : State) : Faulted m m none where
  kept := .refl m
  jobs := rfl
  alone := ⟨rfl, rfl, fun _ _ _ => rfl⟩
  others := fun _ => rfl
  ctxs := fun _ _ h => nomatch h

theorem faulted_faultCtx {m : State} {c : Nat} (h : ∀ j, boundJob m c = some j → jobState (jobEntry m j) ≠ 1) :
    Faulted m (faultCtx m c Code.JOB_ABORTED_PEER) (some c) where
  kept := unitsKept_fenceBy m c _ _ _ _ _
  jobs := faultCtx_jobs _ _ _
  alone := faultAlone_fenceBy _ _ _ _ _ h
  others := fun h => nomatch h
  ctxs := fun b d hb => by
    obtain rfl : c = b := Option.some.inj hb
    exact ctxOf_fenceBy_all m c _ _ _ _ d

theorem ctxs_abortPassed (s : State) (port flit : Nat) : (abortPassed s port flit).ctxs = s.ctxs :=
  (side_abortPassed s port flit).ctxs

theorem abortConcerns_job {s : State} {flit : Nat} (h : abortConcerns s flit = true) : abortJob flit < 255 := by
  simp only [abortConcerns, Bool.and_eq_true, decide_eq_true_eq] at h
  exact h.1.1.1

/-- A new abort that concerns a job of this device: its job is marked, and its context faulted. -/
theorem abortFlit_concerns {s : State} {port flit : Nat} (hnew : newAbort s port flit = true)
    (hconcerns : abortConcerns s flit = true) :
    Faulted (abortMarked (abortPassed s port flit) flit) (abortFlit s port flit) (ctxOfJob s (abortJob flit)) := by
  have hjob := abortConcerns_job hconcerns
  have hbound : reg (abortMarked (abortPassed s port flit) flit) Key.PELGAN_CTX_JOB = reg s Key.PELGAN_CTX_JOB :=
    (reg_setReg_ne _ _ (pelganJob_ne hjob (by decide)).symm).trans (reg_abortPassed s port flit (by decide) (by decide))
  have hfound : ctxOfJob (abortMarked (abortPassed s port flit) flit) (abortJob flit) = ctxOfJob s (abortJob flit) :=
    ctxOfJob_congr (t := abortMarked (abortPassed s port flit) flit) (ctxs_abortPassed s port flit) hbound _
  rw [abortFlit_cases, if_pos hnew, if_pos ((abortConcerns_abortPassed s port flit).trans hconcerns), hfound]
  cases hctx : ctxOfJob s (abortJob flit) with
  | none => exact faulted_none _
  | some c =>
    refine faulted_faultCtx fun j hj => ?_
    obtain rfl : abortJob flit = j :=
      Option.some.inj ((boundJob_of_ctxOfJob (hfound.trans hctx)).symm.trans hj)
    rw [jobEntry, abortMarked, reg_setReg_self, jobState_aborted]
    decide

theorem abortFlit_passes {s : State} {port flit : Nat} (hnew : newAbort s port flit = true)
    (hconcerns : abortConcerns s flit = false) : abortFlit s port flit = abortPassed s port flit := by
  rw [abortFlit_cases, if_pos hnew, if_neg (by simp [abortConcerns_abortPassed, hconcerns])]

/-- What a new abort leaves, whether it concerns a job of this device or not. -/
theorem abortFlit_leaves {s : State} {port flit : Nat} (hnew : newAbort s port flit = true) :
    UnitsKept s (abortFlit s port flit) ∧ (abortFlit s port flit).jobs = s.jobs ∧
      (abortFlit s port flit).pelgan = (abortPassed s port flit).pelgan ∧
      (abortFlit s port flit).out = (abortPassed s port flit).out ∧
      counts s (abortFlit s port flit) Key.PELGAN_ABORTS_RECEIVED 1 := by
  have hpassed := side_abortPassed s port flit
  have hkept := unitsKept_abortPassed s port flit
  have hcount : counts s (abortPassed s port flit) Key.PELGAN_ABORTS_RECEIVED 1 :=
    (hpassed.regs _ (by decide)).trans (reg_bump_congr 1 rfl)
  cases hconcerns : abortConcerns s flit with
  | false =>
    rw [abortFlit_passes hnew hconcerns]
    exact ⟨hkept, hpassed.jobs, rfl, rfl, hcount⟩
  | true =>
    have hfault := abortFlit_concerns hnew hconcerns
    have hjob := abortConcerns_job hconcerns
    refine ⟨(hkept.trans (unitsKept_setReg _ _ ?_)).trans hfault.kept, hfault.jobs.trans hpassed.jobs, hfault.alone.pelgan,
      hfault.alone.out, ?_⟩
    · unfold Key.PELGAN_JOB
      omega
    · refine (hfault.alone.regs _ (by decide) (by decide)).trans ?_
      exact (reg_setReg_ne _ _ (pelganJob_ne hjob (by decide)).symm).trans hcount

/-- The repeats that are left after one more. -/
def repeatsLeft (s : State) : List AbortRepeat :=
  (s.pelgan.repeats.map (fun r => { r with left := r.left - 1 })).filter (fun r => r.left != 0)

/-- The pending aborts, sent again. -/
def abortsResent (s : State) : State :=
  s.pelgan.repeats.foldl (fun t r => sendAbort t r.origin r.job r.gen r.cause none) s

theorem side_abortsResent (s : State) : Side s (abortsResent s) :=
  side_foldl _ _ (fun t _ => side_sendAbort t _ _ _ _ _) s

theorem side_abortRepeat (s : State) :
    Side { s with pelgan := { s.pelgan with repeats := repeatsLeft s } } (abortRepeat s) := by
  have hside := side_abortsResent s
  have hpelgan : (abortRepeat s).pelgan = { { s.pelgan with repeats := repeatsLeft s } with
      links := (abortRepeat s).pelgan.links } :=
    congrArg (fun p : PelganS => { p with repeats := repeatsLeft s }) hside.pelgan
  exact { hside with pelgan := hpelgan }

/-- While no link has sealed its last flit, every pending abort is sent again on every link of the group. -/
theorem mem_abortsResent {s : State} (h : sealsLeft s = true) {r : AbortRepeat} (hr : r ∈ s.pelgan.repeats) {l : Nat}
    (hl : l ∈ groupLinks s) : .abort l r.origin r.job r.gen r.cause ∈ (abortsResent s).out := by
  have hsent : ∀ (rs : List AbortRepeat) (o : List Out), r ∈ rs → .abort l r.origin r.job r.gen r.cause ∈
      (rs.foldl (fun t r => sendAbort t r.origin r.job r.gen r.cause none) { s with out := o }).out := by
    intro rs
    induction rs with
    | nil => exact fun o hmem => absurd hmem List.not_mem_nil
    | cons q rs ih =>
      intro o hmem
      rw [List.foldl_cons]
      rcases List.mem_cons.1 hmem with heq | hrest
      · obtain ⟨sent, hout⟩ := (side_foldl (fun t (r : AbortRepeat) => sendAbort t r.origin r.job r.gen r.cause none) rs
          (fun t _ => side_sendAbort t _ _ _ _ _) (sendAbort { s with out := o } q.origin q.job q.gen q.cause none)).out
        rw [hout, heq]
        exact List.mem_append_right _ (mem_sendAbort { s with out := o } _ _ _ _ hl (by simp))
      · obtain ⟨m, hstep⟩ := sentOn_sendAbort (s := { s with out := o }) h q.origin q.job q.gen q.cause none
        rw [hstep]
        exact ih (m ++ o) hrest
  exact hsent s.pelgan.repeats s.out hr

/-- Settles O60, path by path. -/
theorem abortsAndPaths : Obligations.AbortsAndPaths := by
  refine ⟨?flit, ?repeats, ?request, ?response, ?datagram, ?neighbour⟩
  case flit =>
    intro s port flit
    refine ⟨fun hold => ?_, fun hnew => ?_⟩
    · exact congrArg Host.Outcome.next ((abortFlit_cases s port flit).trans (if_neg (by simp [hold])))
    · obtain ⟨hkept, hjobs, hpelgan, hout, hcount⟩ := abortFlit_leaves hnew
      refine ⟨_, rfl, hkept, hjobs, hcount, ?_, fun l hl hport => ?_, fun hother => ?_, fun hconcerns => ?_⟩
      · rw [hpelgan, (side_abortPassed s port flit).pelgan]
        exact List.mem_cons_self
      · rw [hout]
        exact mem_sendAbort _ _ _ _ _ hl (by simpa using hport)
      · rw [abortFlit_passes hnew hother]
        exact side_abortPassed s port flit
      · have hjob := abortConcerns_job hconcerns
        have hctxs := ctxs_abortPassed s port flit
        obtain ⟨-, -, halone, hnone, hsome⟩ := abortFlit_concerns hnew hconcerns
        refine ⟨?_, fun hfound => (hnone hfound).trans hctxs, fun c d hfound => ?_⟩
        · refine (halone.regs _ (pelganJob_ne hjob (by decide)) (pelganJob_ne hjob (by decide))).trans ?_
          rw [abortMarked, reg_setReg_self, jobEntry_abortPassed s port flit hjob]
        · have hctx : ∀ e, ctxOf (abortMarked (abortPassed s port flit) flit) e = ctxOf s e := fun e =>
            congrArg (fun t : Tab Ctx => (tabGet t e).getD {}) hctxs
          rw [hsome c d hfound, hctx, hctx]
  case repeats =>
    intro s
    exact ⟨_, rfl, side_abortRepeat s, fun hseals r hr l hl => mem_abortsResent hseals hr hl⟩
  case request =>
    intro s source tag fields offset data
    have hnext : ∀ {t}, dictReq s source tag fields offset data = t →
        exec (.dictReq source tag fields offset data) s = .next t := fun h => congrArg Host.Outcome.next h
    refine ⟨fun hdown => hnext (if_pos (by simp [hdown])), fun hup => ⟨fun hsource hworker => ?_, fun hother => ?_⟩⟩
    · refine ⟨_, hnext ((if_neg (by simp [hup])).trans (if_pos (by simp [hsource, hworker]))), served_arrive s _⟩
    · refine ⟨_, hnext ((if_neg (by simp [hup])).trans (if_neg ?_)), answered_completeRequest s _ _ _ _⟩
      rcases hother with hsource | hworker
      · simp [hsource]
      · simp [hworker]
  case response =>
    intro s tag status rlength data
    exact ⟨fun hrole => congrArg Host.Outcome.next (if_neg (by simpa using hrole)),
      fun hrole => congrArg Host.Outcome.next (if_pos (by simpa using hrole))⟩
  case datagram =>
    intro s source size header data ours
    refine ⟨fun hshut => congrArg Host.Outcome.next (if_pos (by simp [hshut])), fun hopen hbad =>
      congrArg Host.Outcome.next ((if_neg (by simp [hopen])).trans (if_pos hbad)), fun hopen hgood => ⟨?_, ?_⟩⟩
    · intro p hfound
      have htaken := mgmtDatagram_taken (data := data) hopen hgood
      rw [hfound] at htaken
      exact ⟨_, congrArg Host.Outcome.next htaken, side_send _ _, send_out _ _⟩
    · intro hfound
      have htaken := mgmtDatagram_taken (data := data) hopen hgood
      rw [hfound] at htaken
      exact ⟨_, congrArg Host.Outcome.next htaken, served_arrive _ _⟩
  case neighbour =>
    intro s
    exact ⟨fun hshut => congrArg Host.Outcome.next (if_neg (by simp [hshut])),
      fun hopen => ⟨_, congrArg Host.Outcome.next (if_pos hopen), side_send _ _, send_out _ _⟩⟩

end Sys2Proof.Machine

/-! SUPPORT. One end of a link replaced, its training and its sessions (chapters 16 and 17). -/

namespace Sys2Proof.Machine

/-! ### One end of a link replaced (Table 16.2) -/

/-- The entries that show the states of the links. -/
def stateKeys : List Nat := [Key.AEDUP_STATE, Key.PELGAN_LINK_STATE]

theorem linkOf_setLink_self (s : State) (l : LinkId) (e : LinkEnd) : linkOf (setLink s l e) l = e := by
  cases l with
  | aedup => rfl
  | pelgan p => exact congrArg (fun x : Option LinkEnd => x.getD {}) (tabGet_tabSet_self _ _ _)

theorem linkOf_setLink_ne (s : State) {l k : LinkId} (e : LinkEnd) (h : k ≠ l) : linkOf (setLink s l e) k = linkOf s k := by
  cases l with
  | aedup =>
    cases k with
    | aedup => exact absurd rfl h
    | pelgan q => rfl
  | pelgan p =>
    cases k with
    | aedup => rfl
    | pelgan q => exact congrArg (fun x : Option LinkEnd => x.getD {}) (tabGet_tabSet_ne _ _ fun hqp => h (congrArg LinkId.pelgan hqp))

theorem reg_setLink (s : State) (l : LinkId) (e : LinkEnd) {k : Nat} (h : k ∉ stateKeys) :
    reg (setLink s l e) k = reg s k := by
  simp only [stateKeys, List.mem_cons, List.not_mem_nil, or_false, not_or] at h
  cases l with
  | aedup => exact reg_setReg_ne _ _ h.1
  | pelgan p => exact reg_setReg_ne _ _ h.2

theorem linkShown_setLink (s : State) (l : LinkId) (e : LinkEnd) : linkShown (setLink s l e) l = linkCode e.state := by
  cases l with
  | aedup => exact reg_setReg_self _ _ _
  | pelgan p =>
    refine (congrArg (fun v => field v (8 * p) 8) (reg_setReg_self _ _ _)).trans ?_
    rw [field_setField_self]
    cases e.state <;> rfl

/-- What a new end of a link leaves as it is. -/
theorem setLink_same (s : State) (l : LinkId) (e : LinkEnd) : setLink s l e = { s with
    regs := (setLink s l e).regs, aedup := { s.aedup with link := (setLink s l e).aedup.link }
    pelgan := { s.pelgan with links := (setLink s l e).pelgan.links } } := by
  cases l <;> rfl

theorem stateKeys_linkKeys {k : Nat} (h : k ∉ linkKeys) : k ∉ stateKeys := fun hk => h (by
  simp only [stateKeys, List.mem_cons, List.not_mem_nil, or_false] at hk
  rcases hk with rfl | rfl <;> decide)

theorem linkSet_setLink (s : State) (l : LinkId) (e : LinkEnd) : LinkSet s (setLink s l e) l e where
  link := linkOf_setLink_self s l e
  shown := linkShown_setLink s l e
  others := fun _ hk => linkOf_setLink_ne s e hk
  same := setLink_same s l e
  regs := fun _ hk => reg_setLink s l e (stateKeys_linkKeys hk)

theorem linkShown_congr {s t : State} (l : LinkId) (h : ∀ k ∈ stateKeys, reg t k = reg s k) :
    linkShown t l = linkShown s l := by
  cases l with
  | aedup => exact h _ (by decide)
  | pelgan p => exact congrArg (fun v => field v (8 * p) 8) (h Key.PELGAN_LINK_STATE (by decide))

theorem linkOf_setReg (s : State) (k v : Nat) (l : LinkId) : linkOf (setReg s k v) l = linkOf s l := by
  cases l <;> rfl

/-- An entry of the links that does not show a state may be written besides. -/
theorem LinkSet.withReg {s t : State} {l : LinkId} {e : LinkEnd} (h : LinkSet s t l e) {k : Nat} (v : Nat)
    (hk : k ∈ linkKeys) (hne : k ∉ stateKeys) : LinkSet s (setReg t k v) l e where
  link := (linkOf_setReg t k v l).trans h.link
  shown := (linkShown_congr l fun _ hj => reg_setReg_ne t v (ne_of_mem_of_not_mem hj hne)).trans h.shown
  others := fun j hj => (linkOf_setReg t k v j).trans (h.others j hj)
  same := congrArg (fun u : State => setReg u k v) h.same
  regs := fun j hj => (reg_setReg_ne _ v (ne_of_mem_of_not_mem hk hj).symm).trans (h.regs j hj)

/-- So may one that was written before. -/
theorem LinkSet.afterReg {s t : State} {l : LinkId} {e : LinkEnd} {k v : Nat} (h : LinkSet (setReg s k v) t l e)
    (hk : k ∈ linkKeys) : LinkSet s t l e where
  link := h.link
  shown := h.shown
  others := fun j hj => (h.others j hj).trans (linkOf_setReg s k v j)
  same := h.same
  regs := fun j hj => (h.regs j hj).trans (reg_setReg_ne _ v (ne_of_mem_of_not_mem hk hj).symm)

/-- A second new end takes the place of the first. -/
theorem LinkSet.again {s t : State} {l : LinkId} {e : LinkEnd} (h : LinkSet s t l e) (f : LinkEnd) :
    LinkSet s (setLink t l f) l f where
  link := linkOf_setLink_self t l f
  shown := linkShown_setLink t l f
  others := fun j hj => (linkOf_setLink_ne t f hj).trans (h.others j hj)
  same := by
    rw [setLink_same t l f, h.same]
  regs := fun j hj => (reg_setLink t l f (stateKeys_linkKeys hj)).trans (h.regs j hj)

/-! ### Training (R330, R331, R342, R343) -/

/-- A width and a rate are taken, and shown for Aedup. -/
theorem takeChoice_set (s : State) (l : LinkId) (e : LinkEnd) (w r : Nat) :
    LinkSet s (takeChoice s l e w r) l { e with width := w, rate := r } ∧
      (l = .aedup → reg (takeChoice s l e w r) Key.AEDUP_WIDTH = w ∧ reg (takeChoice s l e w r) Key.AEDUP_RATE = r) := by
  have hset := linkSet_setLink s l { e with width := w, rate := r }
  cases l with
  | aedup =>
    refine ⟨(hset.withReg w (by decide) (by decide)).withReg r (by decide) (by decide), fun _ => ⟨?_, ?_⟩⟩
    · exact (reg_setReg_ne _ _ (by decide)).trans (reg_setReg_self _ _ _)
    · exact reg_setReg_self _ _ _
  | pelgan p => exact ⟨hset, fun h => nomatch h⟩

theorem reportLatency_set {s t : State} {l : LinkId} {e : LinkEnd} (h : LinkSet s t l e) (ns : Nat) :
    LinkSet s (reportLatency t l ns) l e := by
  cases l with
  | aedup => exact h
  | pelgan p => exact h.withReg _ (by decide) (by decide)

theorem reg_reportLatency (s : State) (l : LinkId) (ns : Nat) {k : Nat} (h : k ≠ Key.PELGAN_LINK_LATENCY) :
    reg (reportLatency s l ns) k = reg s k := by
  cases l with
  | aedup => rfl
  | pelgan p => exact reg_setReg_ne _ _ h

/-- What a link sends as its capability does not depend on the links' ends and the entries that show them. -/
theorem capabilityOf_set {s t : State} {l : LinkId} {e : LinkEnd} (h : LinkSet s t l e) :
    capabilityOf t l = capabilityOf s l := by
  have hslot : linkSlot t l = linkSlot s l := by
    rw [linkSlot, linkSlot, h.regs _ (by decide), h.same]
  have hsession : t.aedup.session = s.aedup.session := by rw [h.same]
  cases l with
  | aedup =>
    unfold capabilityOf aedupCapability offersProtect protectOf
    simp only [hslot, hsession, h.regs Key.AEDUP_PROTECT (by decide)]
  | pelgan p =>
    unfold capabilityOf pelganCapability offersProtect protectOf
    simp only [hslot, h.regs Key.PELGAN_PROTECT (by decide), h.regs Key.ID_SERIAL (by decide),
      h.regs Key.PELGAN_GROUP_ID (by decide), h.regs Key.PELGAN_FORMATION (by decide),
      h.regs Key.PELGAN_MANAGER_SERIAL (by decide), h.regs Key.PELGAN_PRIORITY (by decide)]

/-- A training that fails takes the link DOWN. -/
theorem linkDown_training {s : State} {l : LinkId} (hr : (linkOf s l).state ≠ .retrain) (ha : (linkOf s l).state ≠ .active) :
    LinkSet s (linkDown s l) l { linkOf s l with state := .down } ∧
      (l = .aedup → reg (linkDown s l) Key.AEDUP_TRAIN_FAILURES = reg (bump s Key.AEDUP_TRAIN_FAILURES 1) Key.AEDUP_TRAIN_FAILURES) := by
  have hretrain : ((linkOf s l).state == .retrain) = false := beq_eq_false_iff_ne.2 hr
  have hactive : ((linkOf s l).state == .active) = false := beq_eq_false_iff_ne.2 ha
  cases l with
  | aedup =>
    have hdown : linkDown s .aedup = setLink (bump s Key.AEDUP_TRAIN_FAILURES 1) .aedup
        { linkOf s .aedup with state := .down } := by
      simp only [linkDown, linkFails, hretrain, hactive]
      rfl
    rw [hdown]
    exact ⟨(linkSet_setLink _ _ _).afterReg (by decide), fun _ => reg_setLink _ _ _ (by decide)⟩
  | pelgan p =>
    have hdown : linkDown s (.pelgan p) = setLink s (.pelgan p) { linkOf s (.pelgan p) with state := .down } := by
      simp only [linkDown, linkFails, hretrain, hactive]
      rfl
    rw [hdown]
    exact ⟨linkSet_setLink _ _ _, fun h => nomatch h⟩

/-- A retrain that is started. -/
theorem startRetrain_set {s : State} {l : LinkId} (h : (linkOf s l).state = .active) :
    LinkSet s (startRetrain s l) l { linkOf s l with state := .retrain, replays := 0 } ∧
      (l = .aedup → counts s (startRetrain s l) Key.AEDUP_RETRAINS 1) ∧
      (l ≠ .aedup → counts s (startRetrain s l) Key.PELGAN_RETRAINS 1) := by
  have hset := linkSet_setLink s l { linkOf s l with state := .retrain, replays := 0 }
  have hactive : ((linkOf s l).state == .active) = true := beq_iff_eq.2 h
  cases l with
  | aedup =>
    have hstart : startRetrain s .aedup = bump (setLink s .aedup { linkOf s .aedup with state := .retrain, replays := 0 })
        Key.AEDUP_RETRAINS 1 := if_pos hactive
    rw [hstart]
    exact ⟨hset.withReg _ (by decide) (by decide), fun _ => reg_bump_congr 1 (reg_setLink _ _ _ (by decide)),
      fun hne => absurd rfl hne⟩
  | pelgan p =>
    have hstart : startRetrain s (.pelgan p) =
        bump (setLink s (.pelgan p) { linkOf s (.pelgan p) with state := .retrain, replays := 0 }) Key.PELGAN_RETRAINS 1 :=
      if_pos hactive
    rw [hstart]
    exact ⟨hset.withReg _ (by decide) (by decide), (nomatch ·), fun _ => reg_bump_congr 1 (reg_setLink _ _ _ (by decide))⟩

theorem startRetrain_idle {s : State} {l : LinkId} (h : (linkOf s l).state ≠ .active) : startRetrain s l = s :=
  if_neg (by simpa using h)

/-! ### Sessions (R438 to R440) -/

/-- What opening a session leaves, when its link has just got the end `e`. -/
structure SessionOpened (s t : State) (l : LinkId) (e : LinkEnd) : Prop where
  set : LinkSet { s with sec := t.sec, freeCount := t.freeCount } t l e
  others : ∀ k, k ≠ linkIndex l → tabGet t.sec.sessions k = tabGet s.sec.sessions k
  slots : t.sec.slots = s.sec.slots
  out : t.out = s.out

theorem linkSlot_set {s t : State} {l : LinkId} {e : LinkEnd} (h : LinkSet s t l e) (k : LinkId) :
    linkSlot t k = linkSlot s k := by
  rw [linkSlot, linkSlot, h.regs _ (by decide), h.same]

/-- The key material after the two values of a session's salt are drawn and its key is set. -/
def sessionKeyed (s : State) (l : LinkId) (k : KeySlot) : SecS :=
  let a := drawSecret s
  let b := takeFree a.2
  let key := Config.hkdf k.key (a.1 % 2 ^ 128 * 2 ^ 128 + b.1 % 2 ^ 128) 64
  { b.2.sec with sessions := tabSet b.2.sec.sessions (linkIndex l) key }

theorem openSession_keyed {s : State} {l : LinkId} {k : KeySlot} (h : linkSlot s l = some k) :
    openSession s l = setLink { s with sec := sessionKeyed s l k, freeCount := s.freeCount + 1 + 1 } l
      { linkOf s l with sealedOut := 0, sealedIn := 0 } := by
  unfold openSession sessionKeyed
  simp only [h, drawSecret, takeFree]
  cases l <;> rfl

theorem LinkSet.withSec {s t : State} {l : LinkId} {e : LinkEnd} (h : LinkSet s t l e) (x : SecS) (n : Nat) :
    LinkSet { s with sec := x, freeCount := n } { t with sec := x, freeCount := n } l e where
  link := by cases l <;> exact h.link
  shown := by cases l <;> exact h.shown
  others := fun j hj => by cases j <;> exact h.others _ hj
  same := congrArg (fun u : State => { u with sec := x, freeCount := n }) h.same
  regs := h.regs

theorem setLink_sec (s : State) (l : LinkId) (e : LinkEnd) : (setLink s l e).sec = s.sec := by cases l <;> rfl
theorem setLink_freeCount (s : State) (l : LinkId) (e : LinkEnd) : (setLink s l e).freeCount = s.freeCount := by
  cases l <;> rfl
theorem setLink_out (s : State) (l : LinkId) (e : LinkEnd) : (setLink s l e).out = s.out := by cases l <;> rfl

/-- A session is opened on a link end that has just been set. -/
theorem openSession_set {s t : State} {l : LinkId} {e : LinkEnd} (h : LinkSet s t l e)
    (hslot : (linkSlot s l).isSome = true) :
    SessionOpened s (openSession t l) l { e with sealedOut := 0, sealedIn := 0 } ∧
      (tabGet (openSession t l).sec.sessions (linkIndex l)).isSome = true := by
  obtain ⟨k, hk⟩ := Option.isSome_iff_exists.1 hslot
  have hsec : t.sec = s.sec := by rw [h.same]
  have hout : t.out = s.out := by rw [h.same]
  rw [openSession_keyed ((linkSlot_set h l).trans hk), h.link]
  refine ⟨⟨?_, fun j hj => ?_, ?_, ?_⟩, ?_⟩
  · rw [setLink_sec, setLink_freeCount]
    exact (h.withSec _ _).again _
  · rw [setLink_sec, ← hsec]
    exact tabGet_tabSet_ne _ _ hj
  · rw [setLink_sec, ← hsec]
    rfl
  · rw [setLink_out]
    exact hout
  · rw [setLink_sec]
    exact congrArg Option.isSome (tabGet_tabSet_self _ _ _)

end Sys2Proof.Machine

/-! SUPPORT. Link resets: the commands that they end, and what a manager's new layout of its group leaves (chapters 16
and 17). -/

namespace Sys2Proof.Machine

/-! ### Commands whose outcome is decided (R340, R359) -/

theorem OnlyOutcome.refl (s : State) : OnlyOutcome s s := by constructor <;> rfl

theorem OnlyOutcome.trans {s t u : State} (h : OnlyOutcome s t) (k : OnlyOutcome t u) : OnlyOutcome s u where
  regs := k.regs.trans h.regs
  mem := k.mem.trans h.mem
  pocket := k.pocket.trans h.pocket
  acc := k.acc.trans h.acc
  eeprom := k.eeprom.trans h.eeprom
  dict := k.dict.trans h.dict
  queues := k.queues.trans h.queues
  indexes := k.indexes.trans h.indexes
  models := k.models.trans h.models
  vocabs := k.vocabs.trans h.vocabs
  grammars := k.grammars.trans h.grammars
  kv := k.kv.trans h.kv
  gens := k.gens.trans h.gens
  belt := k.belt.trans h.belt
  sec := k.sec.trans h.sec
  power := k.power.trans h.power
  chip := k.chip.trans h.chip
  pelgan := k.pelgan.trans h.pelgan
  aedup := k.aedup.trans h.aedup
  log := k.log.trans h.log
  out := k.out.trans h.out

theorem onlyOutcome_foldl {α : Type} {f : State → α → State} (h : ∀ t a, OnlyOutcome t (f t a)) (l : List α) (s : State) :
    OnlyOutcome s (l.foldl f s) :=
  List.foldlRecOn l f (motive := OnlyOutcome s) (.refl s) fun t ht a _ => ht.trans (h t a)

theorem onlyOutcome_finished (s : State) (id st r : Nat) : OnlyOutcome s (finish s id st r) := by
  constructor <;> simp

theorem onlyOutcome_endJob (s : State) (id st : Nat) : OnlyOutcome s (endJob s id st) := by
  unfold endJob
  split
  · split
    · exact onlyOutcome_finished _ _ _ _
    · exact .refl s
  · exact .refl s

theorem onlyOutcome_loseLink (s : State) (id : Nat) : OnlyOutcome s (loseLink s id) := by
  unfold loseLink
  split
  · split
    · constructor <;> rfl
    · exact onlyOutcome_finished _ _ _ _
  · exact .refl s

/-- A command that is open takes an outcome; one that has one keeps it. -/
def closedJob (st : Nat) (j : Job) : Job := if openJob j then { j with phase := .done st 0 } else j

/-- A command loses its outcome to LINK_DOWN. -/
def lostJob (j : Job) : Job := { j with phase := .done Code.LINK_DOWN 0 }

theorem closedJob_closedJob (st : Nat) (j : Job) : closedJob st (closedJob st j) = closedJob st j := by
  by_cases hopen : openJob j = true
  · have hclosed : closedJob st j = { j with phase := .done st 0 } := if_pos hopen
    rw [hclosed]
    rfl
  · have hsame : closedJob st j = j := if_neg hopen
    rw [hsame, hsame]

theorem endJob_jobs (s : State) (id st i : Nat) : tabGet (endJob s id st).jobs i =
    if i = id then (tabGet s.jobs i).map (closedJob st) else tabGet s.jobs i := by
  unfold endJob
  by_cases hi : i = id
  · subst hi
    rw [if_pos rfl]
    cases hj : tabGet s.jobs i with
    | none => exact hj
    | some j =>
      by_cases hopen : openJob j = true
      · simp [hopen, finish_get st 0 hj, closedJob]
      · simp [hopen, hj, closedJob]
  · rw [if_neg hi]
    split
    · split
      · exact finish_get_ne s st 0 hi
      · rfl
    · rfl

theorem loseLink_jobs (s : State) (id i : Nat) : tabGet (loseLink s id).jobs i =
    if i = id then (tabGet s.jobs i).map lostJob else tabGet s.jobs i := by
  unfold loseLink
  by_cases hi : i = id
  · subst hi
    rw [if_pos rfl]
    cases hj : tabGet s.jobs i with
    | none => exact hj
    | some j =>
      dsimp only
      split
      · rw [updJob_get, hj]
        rfl
      · exact finish_get _ _ hj
  · rw [if_neg hi]
    split
    · split
      · exact updJob_get_ne s _ hi
      · exact finish_get_ne s _ _ hi
    · rfl

/-- A fold that applies a change to the commands that it names, one by one, applies it to each of them. -/
theorem foldl_jobs {α : Type} {f : State → α → State} {key : α → Nat} {g : Job → Job} (hg : ∀ j, g (g j) = g j)
    (hf : ∀ t a i, tabGet (f t a).jobs i = if i = key a then (tabGet t.jobs i).map g else tabGet t.jobs i)
    (l : List α) (s : State) (i : Nat) :
    tabGet (l.foldl f s).jobs i = if i ∈ l.map key then (tabGet s.jobs i).map g else tabGet s.jobs i := by
  induction l generalizing s with
  | nil => rfl
  | cons a l ih =>
    rw [List.foldl_cons, ih, hf]
    by_cases ha : i = key a <;> by_cases hl : i ∈ l.map key
    · simp [ha, Option.map_map, Function.comp_def, hg]
    · rw [if_neg hl, if_pos ha, if_pos (by simp [ha])]
    · rw [if_pos hl, if_neg ha, if_pos (by rw [List.map_cons]; exact List.mem_cons_of_mem _ hl)]
    · rw [if_neg hl, if_neg ha, if_neg (by rw [List.map_cons, List.mem_cons]; exact fun h => h.elim ha hl)]

theorem mem_distinct {l : List Nat} {a : Nat} : a ∈ distinct l ↔ a ∈ l := by
  induction l with
  | nil => rfl
  | cons b l ih =>
    rw [distinct, List.mem_cons, List.mem_cons, List.mem_filter, ih, bne_iff_ne]
    by_cases hab : a = b
    · simp [hab]
    · simp [hab]

theorem endJobs_jobs (st : Nat) (l : List Nat) (s : State) (i : Nat) :
    tabGet (l.foldl (fun t id => endJob t id st) s).jobs i =
      if i ∈ l then (tabGet s.jobs i).map (closedJob st) else tabGet s.jobs i := by
  rw [foldl_jobs (key := id) (closedJob_closedJob st) (fun t a i => endJob_jobs t a st i), List.map_id]

theorem loseLinks_jobs (l : List Nat) (s : State) (i : Nat) : tabGet (l.foldl loseLink s).jobs i =
    if i ∈ l then (tabGet s.jobs i).map lostJob else tabGet s.jobs i := by
  rw [foldl_jobs (key := id) (g := lostJob) (fun _ => rfl) loseLink_jobs, List.map_id]

/-- An open command that is closed has ended with the status. -/
theorem ends_closed {t : State} {id st : Nat} {j : Job} (h : tabGet t.jobs id = some (closedJob st j)) (hopen : openJob j = true) :
    ends t id st 0 := by
  rw [ends, h, closedJob, if_pos hopen]
  rfl

theorem closedJob_closed {j : Job} (st : Nat) (h : ¬ openJob j = true) : closedJob st j = j := if_neg h

/-! ### The error log -/

theorem logged_logError {s u : State} (unit : LogUnit) (inst st c : Nat) (a : LogAction) (d : Nat) (hlog : u.log = s.log)
    (hbeat : beatNow u = beatNow s) {t : State} (ht : t.log = (logError u unit inst st c a d).log) : logged s t unit inst st c :=
  ⟨_, ht.trans (congrArg (fun l : List LogEntry => (_ :: l).take 4096) hlog), rfl, rfl, rfl, rfl, hbeat⟩

/-! ### The reset of the Aedup link (R340) -/

/-- A dictionary request that reads over Aedup completes with LINK_DOWN. -/
def dictReadLost (s : State) : State :=
  match s.dict.waiting with
  | some (r, _) =>
    if s.aedup.reads.any (fun p => p.2.for_ == .dict) then
      completeRequest { s with dict := { s.dict with waiting := none } } r Code.LINK_DOWN 0 0
    else s
  | none => s

theorem dictReadLost_kept (s : State) : (dictReadLost s).jobs = s.jobs ∧ (dictReadLost s).log = s.log ∧
    ∀ k, replyKey k = false → reg (dictReadLost s) k = reg s k := by
  unfold dictReadLost
  split
  · split
    · exact ⟨completeRequest_jobs _ _ _ _ _, completeRequest_log _ _ _ _ _, fun k hk => reg_completeRequest _ _ _ _ _ hk⟩
    · exact ⟨rfl, rfl, fun _ _ => rfl⟩
  · exact ⟨rfl, rfl, fun _ _ => rfl⟩

/-- The commands that a read over Aedup serves. -/
def readers (s : State) : List Nat := s.aedup.reads.filterMap (fun p => match p.2.for_ with
  | .job id => some id
  | _ => none)

theorem mem_readers {s : State} {id : Nat} : id ∈ readers s ↔ ∃ p ∈ s.aedup.reads, p.2.for_ = .job id := by
  unfold readers
  rw [List.mem_filterMap]
  refine exists_congr fun p => and_congr_right fun _ => ?_
  cases p.2.for_ <;> simp

/-- The state in which the link's reset has decided the outcomes that it decides. -/
def aedupEnded (s : State) : State :=
  (distinct (s.aedup.posted.map Prod.snd)).foldl loseLink
    ((distinct (readers s)).foldl (fun t id => endJob t id Code.LINK_DOWN) (dictReadLost s))

theorem aedupReset_ended (s : State) : ∃ u, u = setLink { aedupEnded s with
      aedup := { (aedupEnded s).aedup with reads := [], cache := [], landed := [], posted := [] }
      sec := { (aedupEnded s).sec with sessions := tabDel (aedupEnded s).sec.sessions 96 } } .aedup
        { state := .down, linkGen := s.aedup.link.linkGen } ∧
    aedupReset s = bump (logError u .aedup 0 Code.LINK_DOWN noCtx .linkReset 0) Key.AEDUP_LINK_RESETS 1 := ⟨_, rfl, rfl⟩

theorem aedupEnded_kept (s : State) : (aedupEnded s).log = s.log ∧
    ∀ k, replyKey k = false → reg (aedupEnded s) k = reg s k := by
  obtain ⟨-, hlog, hregs⟩ := dictReadLost_kept s
  have honly : OnlyOutcome (dictReadLost s) (aedupEnded s) :=
    (onlyOutcome_foldl (fun t id => onlyOutcome_endJob t id _) _ _).trans (onlyOutcome_foldl onlyOutcome_loseLink _ _)
  exact ⟨honly.log.trans hlog, fun k hk => (reg_congr honly.regs k).trans (hregs k hk)⟩

theorem aedupEnded_jobs (s : State) (i : Nat) : tabGet (aedupEnded s).jobs i =
    if i ∈ s.aedup.posted.map Prod.snd then (tabGet s.jobs i).map lostJob
    else if i ∈ readers s then (tabGet s.jobs i).map (closedJob Code.LINK_DOWN) else tabGet s.jobs i := by
  unfold aedupEnded
  rw [loseLinks_jobs, endJobs_jobs, (dictReadLost_kept s).1]
  simp only [mem_distinct]
  split
  · split
    · rw [Option.map_map]
      refine congrArg (fun g => Option.map g (tabGet s.jobs i)) (funext fun j => ?_)
      rw [Function.comp, closedJob]
      split <;> rfl
    · rfl
  · rfl

/-- A reset of the Aedup link. -/
theorem linkReset_aedup (s : State) : LinkReset s (aedupReset s) .aedup := by
  obtain ⟨u, hu, hreset⟩ := aedupReset_ended s
  obtain ⟨hlog, hregs⟩ := aedupEnded_kept s
  have hulog : u.log = s.log := by rw [hu]; exact hlog
  have huregs : ∀ k, replyKey k = false → reg u k = reg s k := fun k hk => by
    have hstate : k ∉ stateKeys := fun hmem => by
      simp only [stateKeys, List.mem_cons, List.not_mem_nil, or_false] at hmem
      rcases hmem with rfl | rfl <;> exact absurd hk (by decide)
    rw [hu, reg_setLink _ _ _ hstate]
    exact hregs k hk
  have hjobs : ∀ i, tabGet (aedupReset s).jobs i = tabGet (aedupEnded s).jobs i := fun i => by rw [hreset, hu]; rfl
  have hlink : linkOf (aedupReset s) .aedup = { state := .down, linkGen := s.aedup.link.linkGen } := by rw [hreset, hu]; rfl
  constructor
  case loss => exact linkLoss_aedupReset s
  case down => exact congrArg LinkEnd.state hlink
  case gen => exact (congrArg LinkEnd.linkGen hlink).trans rfl
  case session => rw [hreset, hu]; exact tabGet_tabDel_self _ _
  case log => exact logged_logError _ _ _ _ _ _ hulog (huregs _ (by decide)) (by rw [hreset]; rfl)
  case counted =>
    rw [hreset]
    exact reg_bump_congr 1 ((reg_logError _ _ _ _ _ _ _ (by decide)).trans (huregs _ (by decide)))
  case ended =>
    intro id j hj hloses
    have hend := (hjobs id).trans (aedupEnded_jobs s id)
    rw [hj] at hend
    by_cases hposted : id ∈ s.aedup.posted.map Prod.snd
    · rw [if_pos hposted] at hend
      rw [ends, hend]
      rfl
    · rw [if_neg hposted] at hend
      rcases hloses with ⟨hopen, hread⟩ | ⟨p, hp, hid⟩
      · rw [if_pos (mem_readers.2 hread)] at hend
        exact ends_closed hend hopen
      · exact absurd (List.mem_map.2 ⟨p, hp, hid⟩) hposted
  case jobs =>
    intro id hkeeps
    rw [hjobs, aedupEnded_jobs]
    cases hj : tabGet s.jobs id with
    | none => simp
    | some j =>
      have hnot := hkeeps j hj
      rw [if_neg fun hposted => hnot (.inr (by simpa using hposted))]
      split
      · next hread =>
        exact congrArg some (closedJob_closed _ fun hopen => hnot (.inl ⟨hopen, mem_readers.1 hread⟩))
      · rfl
  case reads =>
    intro _
    rw [hreset, hu]
    exact ⟨rfl, rfl, rfl, rfl⟩
  case requests => exact fun p hp => nomatch hp

/-- An entry that the reset neither counts nor reads may have been written before. -/
theorem LinkReset.afterReg {s t : State} {l : LinkId} {k v : Nat} (h : LinkReset (setReg s k v) t l) (hk : k ≠ linkResets l)
    (hbeat : k ≠ Key.HEM_BEAT_NUMBER) : LinkReset s t l where
  loss := (linkLoss_setReg s k v).trans h.loss
  down := h.down
  gen := h.gen.trans (by cases l <;> rfl)
  session := h.session
  log := by
    obtain ⟨e, hlog, hunit, hinst, hstatus, hctx, hnow⟩ := h.log
    exact ⟨e, hlog, hunit, hinst, hstatus, hctx, hnow.trans (reg_setReg_ne _ _ hbeat.symm)⟩
  counted := h.counted.trans (reg_bump_congr 1 (reg_setReg_ne _ _ hk.symm))
  ended := h.ended
  jobs := h.jobs
  reads := h.reads
  requests := h.requests

/-! ### The reset of a Pelgan link (R345, R359) -/

/-- The commands of the remote requests that leave over a port have ended. -/
def requestsEnded (s : State) (p : Nat) : State :=
  (s.pelgan.requests.filter (fun q => q.2.port == p)).foldl (fun t q => endJob t q.2.job Code.LINK_DOWN) s

theorem onlyOutcome_requestsEnded (s : State) (p : Nat) : OnlyOutcome s (requestsEnded s p) :=
  onlyOutcome_foldl (fun t (q : Nat × RemoteReq) => onlyOutcome_endJob t q.2.job _) _ s

/-- A command has a remote request that leaves over a port. -/
def requests (s : State) (p id : Nat) : Prop := ∃ q ∈ s.pelgan.requests, q.2.port = p ∧ q.2.job = id

theorem requestsEnded_jobs (s : State) (p i : Nat) : tabGet (requestsEnded s p).jobs i =
    (if i ∈ (s.pelgan.requests.filter (fun q => q.2.port == p)).map (fun q => q.2.job)
      then (tabGet s.jobs i).map (closedJob Code.LINK_DOWN) else tabGet s.jobs i) :=
  foldl_jobs (closedJob_closedJob _) (fun t (q : Nat × RemoteReq) i => endJob_jobs t q.2.job _ i) _ s i

theorem mem_requests {s : State} {p i : Nat} :
    i ∈ (s.pelgan.requests.filter (fun q => q.2.port == p)).map (fun q => q.2.job) ↔ requests s p i := by
  simp only [List.mem_map, List.mem_filter, beq_iff_eq, requests, and_assoc]

theorem pelganReset_ended (s : State) (p : Nat) : ∃ u, u = setLink { requestsEnded s p with
      pelgan := { (requestsEnded s p).pelgan with
        requests := (requestsEnded s p).pelgan.requests.filter (fun q => q.2.port != p) } } (.pelgan p)
        { state := .down, linkGen := ((linkOf s (.pelgan p)).linkGen + 1) % 64,
          peerSerial := (linkOf s (.pelgan p)).peerSerial } ∧
    pelganReset s p = bump (logError { u with sec := { u.sec with sessions := tabDel u.sec.sessions p } } .pelgan p
      Code.LINK_DOWN noCtx .linkReset 0) Key.PELGAN_LINK_RESETS 1 := ⟨_, rfl, rfl⟩

theorem linkReset_pelgan (s : State) (p : Nat) : LinkReset s (pelganReset s p) (.pelgan p) := by
  obtain ⟨u, hu, hreset⟩ := pelganReset_ended s p
  have honly := onlyOutcome_requestsEnded s p
  have hulog : u.log = s.log := by rw [hu]; exact honly.log
  have huregs : ∀ k, k ∉ stateKeys → reg u k = reg s k := fun k hk => by
    rw [hu, reg_setLink _ _ _ hk]
    exact reg_congr honly.regs k
  have hjobs : ∀ i, tabGet (pelganReset s p).jobs i = tabGet (requestsEnded s p).jobs i := fun i => by rw [hreset, hu]; rfl
  have hlink : linkOf (pelganReset s p) (.pelgan p) =
      { state := .down, linkGen := ((linkOf s (.pelgan p)).linkGen + 1) % 64
        peerSerial := (linkOf s (.pelgan p)).peerSerial } := by
    rw [hreset, hu]
    exact linkOf_setLink_self _ (.pelgan p) _
  constructor
  case loss => exact linkLoss_pelganReset s p
  case down => exact congrArg LinkEnd.state hlink
  case gen => exact congrArg LinkEnd.linkGen hlink
  case session => rw [hreset]; exact tabGet_tabDel_self _ _
  case log =>
    exact logged_logError (u := { u with sec := { u.sec with sessions := tabDel u.sec.sessions p } }) _ _ _ _ _ _ hulog
      (huregs _ (by decide)) (by rw [hreset]; rfl)
  case counted =>
    rw [hreset]
    exact reg_bump_congr 1 ((reg_logError _ _ _ _ _ _ _ (by decide)).trans (huregs _ (by decide)))
  case ended =>
    rintro id j hj ⟨hopen, hrequest⟩
    have hend := (hjobs id).trans (requestsEnded_jobs s p id)
    rw [hj, if_pos (mem_requests.2 hrequest)] at hend
    exact ends_closed hend hopen
  case jobs =>
    intro id hkeeps
    rw [hjobs, requestsEnded_jobs]
    split
    · next hrequest =>
      cases hj : tabGet s.jobs id with
      | none => rfl
      | some j => exact congrArg some (closedJob_closed _ fun hopen => hkeeps j hj ⟨hopen, mem_requests.1 hrequest⟩)
    · rfl
  case reads => exact fun h => nomatch h
  case requests =>
    rintro q ⟨⟩
    rw [hreset, hu]
    exact congrArg (fun x : PelganS => x.requests.filter (fun q => q.2.port != p)) honly.pelgan

end Sys2Proof.Machine

/-! SUPPORT. A link that fails while it retrains, its routes laid out anew by the manager (chapter 17). -/

namespace Sys2Proof.Machine

theorem tabGet_of_mem {α : Type} {t : Tab α} {k : Nat} {v : α} (h : tabRising t) (hm : (k, v) ∈ t) : tabGet t k = some v := by
  have hless := (rising_iff t).1 h
  clear h
  induction t with
  | nil => exact absurd hm List.not_mem_nil
  | cons p t ih =>
    obtain ⟨i, w⟩ := p
    obtain ⟨hfirst, hrest⟩ := List.pairwise_cons.1 hless
    rcases List.mem_cons.1 hm with heq | hin
    · obtain ⟨rfl, rfl⟩ := Prod.mk.inj heq
      exact if_pos rfl
    · rw [tabGet, if_neg (Nat.ne_of_lt (hfirst _ hin))]
      exact ih hin hrest

/-- The counters of link resets and of failed negotiations. -/
def outcomeKeys : List Nat := [Key.AEDUP_NEG_FAILURES, Key.PELGAN_NEG_FAILURES, Key.PELGAN_LINK_RESETS]

/-- A change under which a Pelgan link that is DOWN stays so, and that leaves what its reset has decided. -/
structure LinkStays (p : Nat) (s t : State) : Prop where
  rising : tabRising s.pelgan.links → tabRising t.pelgan.links
  down : tabRising s.pelgan.links → (linkOf s (.pelgan p)).state = .down →
    (linkOf t (.pelgan p)).state = .down ∧ (linkOf t (.pelgan p)).linkGen = (linkOf s (.pelgan p)).linkGen
  jobs : t.jobs = s.jobs
  log : t.log = s.log
  sec : t.sec = s.sec
  requests : t.pelgan.requests = s.pelgan.requests
  regs : ∀ k ∈ outcomeKeys, reg t k = reg s k

theorem LinkStays.refl (p : Nat) (s : State) : LinkStays p s s := ⟨id, fun _ h => ⟨h, rfl⟩, rfl, rfl, rfl, rfl, fun _ _ => rfl⟩

theorem LinkStays.trans {p : Nat} {s t u : State} (h : LinkStays p s t) (k : LinkStays p t u) : LinkStays p s u where
  rising := fun hr => k.rising (h.rising hr)
  down := fun hr hd =>
    have ht := h.down hr hd
    have hu := k.down (h.rising hr) ht.1
    ⟨hu.1, hu.2.trans ht.2⟩
  jobs := k.jobs.trans h.jobs
  log := k.log.trans h.log
  sec := k.sec.trans h.sec
  requests := k.requests.trans h.requests
  regs := fun j hj => (k.regs j hj).trans (h.regs j hj)

theorem linkStays_foldl {α : Type} {p : Nat} {f : State → α → State} (h : ∀ t a, LinkStays p t (f t a)) (l : List α) (s : State) :
    LinkStays p s (l.foldl f s) :=
  List.foldlRecOn l f (motive := LinkStays p s) (.refl p s) fun t ht a _ => ht.trans (h t a)

theorem linkStays_setReg (p : Nat) (s : State) {k : Nat} (v : Nat) (h : k ∉ outcomeKeys) :
    LinkStays p s (setReg s k v) :=
  ⟨id, fun _ h => ⟨h, rfl⟩, rfl, rfl, rfl, rfl, fun _ hj => reg_setReg_ne s v (ne_of_mem_of_not_mem hj h)⟩

/-- The fabric's own tables do not hold the links. -/
theorem linkStays_fabric (p : Nat) (s : State) (x : PelganS) (hl : x.links = s.pelgan.links)
    (hr : x.requests = s.pelgan.requests) : LinkStays p s { s with pelgan := x } where
  rising := fun h => hl ▸ h
  down := fun _ h => by
    have hlink : linkOf { s with pelgan := x } (.pelgan p) = linkOf s (.pelgan p) :=
      congrArg (fun l : Tab LinkEnd => (tabGet l p).getD {}) hl
    exact ⟨hlink ▸ h, congrArg LinkEnd.linkGen hlink⟩
  jobs := rfl
  log := rfl
  sec := rfl
  requests := hr
  regs := fun _ _ => rfl

/-- What sends, notifies or counts, and keeps the link. -/
theorem linkStays_of_side {p : Nat} {s t : State} (h : Side s t)
    (rising : tabRising s.pelgan.links → tabRising t.pelgan.links)
    (down : tabRising s.pelgan.links → (linkOf s (.pelgan p)).state = .down →
      (linkOf t (.pelgan p)).state = .down ∧ (linkOf t (.pelgan p)).linkGen = (linkOf s (.pelgan p)).linkGen) :
    LinkStays p s t :=
  have hfree : ∀ k ∈ outcomeKeys, sideKey k = false := by decide
  ⟨rising, down, h.jobs, h.log, h.sec, by rw [h.pelgan], fun k hk => h.regs k (hfree k hk)⟩

/-- What is spent on a Pelgan link changes the end of that link. -/
theorem spendFor_links (s : State) (o : Out) : (spendFor s o).pelgan.links = s.pelgan.links ∨
    ∃ q vc n, (spendFor s o).pelgan.links = tabUpd s.pelgan.links q (fun e => spend e vc n) := by
  cases o with
  | message q opcode dest tag value => exact .inr ⟨q, messageChannel opcode, 1, rfl⟩
  | _ => exact .inl rfl

theorem linkOf_spent (t : Tab LinkEnd) (p q vc n : Nat) : ∃ d c k,
    (tabGet (tabUpd t q (fun e => spend e vc n)) p).getD {} =
      { (tabGet t p).getD {} with sendSeq := d, sealedOut := c, credits := k } := by
  by_cases hpq : p = q
  · rw [hpq, tabGet_tabUpd_self]
    cases tabGet t q <;> exact ⟨_, _, _, rfl⟩
  · rw [tabGet_tabUpd_ne _ _ hpq]
    exact ⟨_, _, _, rfl⟩

theorem linkStays_spendFor (p : Nat) (s : State) (o : Out) : LinkStays p s (spendFor s o) := by
  have hside := side_spendFor s o
  rcases spendFor_links s o with hlinks | ⟨q, vc, n, hlinks⟩
  · have hlink : linkOf (spendFor s o) (.pelgan p) = linkOf s (.pelgan p) :=
      congrArg (fun l : Tab LinkEnd => (tabGet l p).getD {}) hlinks
    exact linkStays_of_side hside (fun h => hlinks ▸ h) fun _ h => ⟨hlink ▸ h, congrArg LinkEnd.linkGen hlink⟩
  · obtain ⟨d, c, k, hspent⟩ := linkOf_spent s.pelgan.links p q vc n
    have hlink : linkOf (spendFor s o) (.pelgan p) = { linkOf s (.pelgan p) with sendSeq := d, sealedOut := c, credits := k } :=
      (congrArg (fun l : Tab LinkEnd => (tabGet l p).getD {}) hlinks).trans hspent
    refine linkStays_of_side hside (fun h => hlinks ▸ rising_upd _ _ h) fun _ h => ?_
    rw [hlink]
    exact ⟨h, rfl⟩

/-- The link that the limit on sealed flits retrains is an ACTIVE one (R440). -/
theorem linkStays_sealLimit (p : Nat) (s : State) : LinkStays p s (sealLimit s) := by
  refine linkStays_of_side (side_sealLimit s) ?_ ?_
  · unfold sealLimit
    split
    · exact id
    · split
      · exact fun h => rising_set _ _ h
      · exact id
  · intro hrising hdown
    unfold sealLimit
    split
    · exact ⟨hdown, rfl⟩
    · split
      · next q e hfind =>
        have hactive : e.state = .active := by
          have := List.find?_some hfind
          simp only [Bool.and_eq_true, beq_iff_eq] at this
          exact this.1
        have hq : linkOf s (.pelgan q) = e :=
          congrArg (fun x : Option LinkEnd => x.getD {}) (tabGet_of_mem hrising (List.mem_of_find?_eq_some hfind))
        have hne : p ≠ q := fun heq => by
          rw [heq, hq, hactive] at hdown
          exact nomatch hdown
        have hlink : ∀ v, linkOf (setReg (bump { s with pelgan := { s.pelgan with
            links := tabSet s.pelgan.links q { e with state := .retrain, replays := 0 } } } Key.PELGAN_RETRAINS 1)
            Key.PELGAN_LINK_STATE v) (.pelgan p) = linkOf s (.pelgan p) :=
          fun _ => congrArg (fun x : Option LinkEnd => x.getD {}) (tabGet_tabSet_ne _ _ hne)
        exact ⟨(congrArg LinkEnd.state (hlink _)).trans hdown, congrArg LinkEnd.linkGen (hlink _)⟩
      · exact ⟨hdown, rfl⟩

theorem linkStays_send (p : Nat) (s : State) (o : Out) : LinkStays p s (send s o) := by
  refine (linkStays_spendFor p s o).trans (.trans ?_ (linkStays_sealLimit p _))
  exact ⟨id, fun _ h => ⟨h, rfl⟩, rfl, rfl, rfl, rfl, fun _ _ => rfl⟩

theorem linkStays_regroup (p : Nat) (s : State) (serials : List Nat) (cables : List (Nat × Nat × Nat × Nat)) (latency : Nat) :
    LinkStays p s (regroup s serials cables latency) := by
  unfold regroup layOutGroup
  dsimp only
  refine .trans ?_ (linkStays_foldl (fun t x => ?_) _ _)
  · refine .trans ?_ (linkStays_fabric _ _ _ rfl rfl)
    refine .trans ?_ (linkStays_setReg _ _ _ (by decide))
    refine .trans ?_ (linkStays_setReg _ _ _ (by decide))
    refine .trans ?_ (linkStays_setReg _ _ _ (by decide))
    refine .trans ?_ (linkStays_setReg _ _ _ (by decide))
    exact linkStays_fabric _ _ _ rfl rfl
  · split
    · exact .refl p t
    · refine .trans ?_ (linkStays_foldl (fun u _ => linkStays_send p u _) _ _)
      split
      · exact linkStays_send p _ _
      · exact .refl p t

theorem linkStays_managerLosesLink (p : Nat) (s : State) (port : Nat) : LinkStays p s (managerLosesLink s port) := by
  unfold managerLosesLink
  split
  · exact linkStays_regroup _ _ _ _ _
  · exact .refl p s

/-- What comes after a reset of a Pelgan link and keeps it leaves the link reset. -/
theorem LinkReset.stays {p : Nat} {s t u : State} (h : LinkReset s t (.pelgan p)) (hloss : LinkLoss s u)
    (hrising : tabRising t.pelgan.links) (hs : LinkStays p t u) : LinkReset s u (.pelgan p) where
  loss := hloss
  down := (hs.down hrising h.down).1
  gen := (hs.down hrising h.down).2.trans h.gen
  session := hs.sec ▸ h.session
  log := by
    obtain ⟨e, hlog, hentry⟩ := h.log
    exact ⟨e, hs.log.trans hlog, hentry⟩
  counted := (hs.regs Key.PELGAN_LINK_RESETS (by decide)).trans h.counted
  ended := fun id j hj hl => by
    have hend := h.ended id j hj hl
    rw [ends] at hend ⊢
    rwa [hs.jobs]
  jobs := fun id hk => (congrArg (tabGet · id) hs.jobs).trans (h.jobs id hk)
  reads := fun hl => nomatch hl
  requests := fun q hq => hs.requests.trans (h.requests q hq)

theorem rising_pelganReset {s : State} (p : Nat) (h : tabRising s.pelgan.links) : tabRising (pelganReset s p).pelgan.links := by
  obtain ⟨u, hu, hreset⟩ := pelganReset_ended s p
  have hlinks : (requestsEnded s p).pelgan.links = s.pelgan.links := congrArg PelganS.links (onlyOutcome_requestsEnded s p).pelgan
  rw [hreset, hu]
  exact rising_set _ _ (hlinks ▸ h)

/-- A retrain that fails is a link reset (R333, R345, R350). -/
theorem linkDown_retrain {s : State} {l : LinkId} (hk : s.keysRise) (hr : (linkOf s l).state = .retrain) :
    LinkReset s (linkDown s l) l := by
  cases l with
  | aedup =>
    have hdown : linkDown s .aedup = aedupReset (bump s Key.AEDUP_TRAIN_FAILURES 1) := if_pos (by rw [hr]; rfl)
    rw [hdown]
    exact (linkReset_aedup _).afterReg (by decide) (by decide)
  | pelgan p =>
    have hloss := linkLoss_linkDown s (.pelgan p)
    have hfails : linkFails s (.pelgan p) = pelganReset s p := if_pos (by rw [hr]; rfl)
    have hdown : linkDown s (.pelgan p) = managerLosesLink (pelganReset s p) p := by
      rw [← hfails]
      exact if_pos (by rw [hr]; rfl)
    rw [hdown] at hloss ⊢
    exact (linkReset_pelgan s p).stays hloss (rising_pelganReset p hk.2) (linkStays_managerLosesLink p _ p)

/-- A failure of a link does not count a failed negotiation. -/
theorem negFailures_linkDown (s : State) (l : LinkId) {k : Nat} (h : k ∈ [Key.AEDUP_NEG_FAILURES, Key.PELGAN_NEG_FAILURES]) :
    reg (linkDown s l) k = reg s k := by
  have hfree : ∀ j ∈ [Key.AEDUP_NEG_FAILURES, Key.PELGAN_NEG_FAILURES], j ∉ stateKeys ∧ j ∈ outcomeKeys ∧ replyKey j = false ∧
      j ≠ Key.RESET_LOG_SEQ ∧ j ≠ Key.AEDUP_TRAIN_FAILURES ∧ j ≠ Key.AEDUP_LINK_RESETS ∧ j ≠ Key.PELGAN_LINK_RESETS := by decide
  obtain ⟨hstate, hout, hreply, hlog, htrain, haedup, hpelgan⟩ := hfree k h
  have hkeep : reg (linkFails s l) k = reg s k := by
    unfold linkFails
    dsimp only
    cases l with
    | aedup =>
      split
      · obtain ⟨u, hu, hreset⟩ := aedupReset_ended (bump s Key.AEDUP_TRAIN_FAILURES 1)
        dsimp only
        rw [hreset, reg_bump_ne _ _ haedup, reg_logError _ _ _ _ _ _ _ hlog, hu, reg_setLink _ _ _ hstate]
        exact ((aedupEnded_kept _).2 k hreply).trans (reg_bump_ne _ _ htrain)
      · exact (reg_setLink _ _ _ hstate).trans (reg_bump_ne _ _ htrain)
    | pelgan p =>
      split
      · obtain ⟨u, hu, hreset⟩ := pelganReset_ended s p
        dsimp only
        rw [hreset, reg_bump_ne _ _ hpelgan, reg_logError _ _ _ _ _ _ _ hlog, hu]
        exact (reg_setLink _ _ _ hstate).trans (reg_congr (onlyOutcome_requestsEnded s p).regs k)
      · exact reg_setLink _ _ _ hstate
  cases l with
  | aedup => exact hkeep
  | pelgan p =>
    unfold linkDown
    dsimp only
    split
    · exact ((linkStays_managerLosesLink p _ p).regs k hout).trans hkeep
    · exact hkeep

end Sys2Proof.Machine

/-! SUPPORT. Training, capabilities and read timeouts of the links, operation by operation (chapters 16 and 17). -/

namespace Sys2Proof.Machine

/-! ### The end and the time limits of training -/

theorem linkTrainRetry_started {s : State} {l : LinkId} (hd : (linkOf s l).state = .down) (he : linkEnabled s l = true) :
    linkTrainRetry s l = setLink s l { linkOf s l with state := .detect } :=
  if_pos (by simp [hd, he])

theorem linkTrainRetry_idle {s : State} {l : LinkId} (h : (linkOf s l).state ≠ .down ∨ linkEnabled s l = false) :
    linkTrainRetry s l = s := by
  refine if_neg ?_
  rcases h with hstate | henabled
  · simp [hstate]
  · simp [henabled]

/-- A training state is no state of a link that is up. -/
theorem training_notUp {x : LinkState} (h : x ∈ [LinkState.detect, .equalize, .align, .negotiate]) :
    x ≠ .retrain ∧ x ≠ .active := by
  constructor <;> rintro rfl <;> exact absurd h (by decide)

theorem linkTrainingStateEnd_passed {s : State} {l : LinkId} {low high : Nat} (ns : Nat)
    (hstate : (linkOf s l).state ∈ [LinkState.detect, .equalize]) (hlanes : low ≠ 0 ∨ high ≠ 0) :
    linkTrainingStateEnd s l low high ns =
      setLink s l { linkOf s l with state := if (linkOf s l).state = .detect then .equalize else .align } := by
  have hsome : (low == 0 && high == 0) = false := by simpa [Decidable.imp_iff_not_or] using hlanes
  simp only [List.mem_cons, List.not_mem_nil, or_false] at hstate
  unfold linkTrainingStateEnd
  dsimp only
  rcases hstate with h | h <;> rw [h, hsome] <;> rfl

theorem linkTrainingStateEnd_failed {s : State} {l : LinkId} {low high : Nat} (ns : Nat)
    (h : ((linkOf s l).state ∈ [LinkState.detect, .equalize] ∧ low = 0 ∧ high = 0) ∨
      ((linkOf s l).state = .align ∧ linkChoice s l low high = none)) :
    linkTrainingStateEnd s l low high ns = linkDown s l := by
  unfold linkTrainingStateEnd
  dsimp only
  rcases h with ⟨hstate, rfl, rfl⟩ | ⟨hstate, hchoice⟩
  · simp only [List.mem_cons, List.not_mem_nil, or_false] at hstate
    rcases hstate with h | h <;> rw [h] <;> rfl
  · rw [hstate, hchoice]

theorem linkTrainingStateEnd_aligned {s : State} {l : LinkId} {low high w r : Nat} (ns : Nat)
    (hstate : (linkOf s l).state = .align) (hchoice : linkChoice s l low high = some (w, r)) :
    linkTrainingStateEnd s l low high ns =
      send (reportLatency (takeChoice s l { linkOf s l with state := .negotiate } w r) l ns)
        (.capability l (capabilityOf (takeChoice s l { linkOf s l with state := .negotiate } w r) l)) := by
  unfold linkTrainingStateEnd
  dsimp only
  rw [hstate, hchoice]

theorem linkTrainingStateEnd_idle {s : State} {l : LinkId} (low high ns : Nat)
    (h : (linkOf s l).state ∈ [LinkState.down, .negotiate, .active, .retrain]) : linkTrainingStateEnd s l low high ns = s := by
  unfold linkTrainingStateEnd
  dsimp only
  cases hstate : (linkOf s l).state with
  | detect | equalize | align => exact absurd h (by rw [hstate]; decide)
  | _ => rfl

theorem linkStateTimeout_idle {s : State} {l : LinkId} (h : (linkOf s l).state ∈ [LinkState.down, .active]) :
    linkStateTimeout s l = s := by
  simp only [List.mem_cons, List.not_mem_nil, or_false] at h
  unfold linkStateTimeout
  rcases h with h | h <;> rw [h]

theorem linkStateTimeout_failed {s : State} {l : LinkId} (hd : (linkOf s l).state ≠ .down) (ha : (linkOf s l).state ≠ .active) :
    linkStateTimeout s l = linkDown s l := by
  unfold linkStateTimeout
  cases hstate : (linkOf s l).state with
  | down => exact absurd hstate hd
  | active => exact absurd hstate ha
  | _ => rfl

/-- What the end of ALIGN leaves: the chosen width and rate, the measured latency and the capability sent (R330, R343). -/
theorem aligned_sends (s : State) (l : LinkId) (w r ns : Nat) :
    ∃ u, LinkSet s u l { linkOf s l with state := .negotiate, width := w, rate := r } ∧
      Side u (send (reportLatency (takeChoice s l { linkOf s l with state := .negotiate } w r) l ns)
        (.capability l (capabilityOf (takeChoice s l { linkOf s l with state := .negotiate } w r) l))) ∧
      (send (reportLatency (takeChoice s l { linkOf s l with state := .negotiate } w r) l ns)
        (.capability l (capabilityOf (takeChoice s l { linkOf s l with state := .negotiate } w r) l))).out =
          .capability l (capabilityOf s l) :: s.out ∧
      (l = .aedup → reg u Key.AEDUP_WIDTH = w ∧ reg u Key.AEDUP_RATE = r) ∧
      (∀ p, l = .pelgan p → field (reg u Key.PELGAN_LINK_LATENCY) (16 * p) 16 = ns % 65536) := by
  obtain ⟨hset, hshown⟩ := takeChoice_set s l { linkOf s l with state := .negotiate } w r
  have hreported := reportLatency_set hset ns
  refine ⟨_, hreported, side_send _ _, ?_, fun hl => ?_, ?_⟩
  · rw [send_out, capabilityOf_set hset]
    exact congrArg (_ :: ·) (by rw [hreported.same])
  · rw [reg_reportLatency _ _ _ (by decide), reg_reportLatency _ _ _ (by decide)]
    exact hshown hl
  · rintro p rfl
    exact (congrArg (fun v => field v (16 * p) 16) (reg_setReg_self _ _ _)).trans (field_setField_self _ _ _ _)

/-! ### An Aedup capability that agrees (R332, R340) -/

theorem reg_openSession (s : State) (l : LinkId) {k : Nat} (h : k ∉ stateKeys) : reg (openSession s l) k = reg s k := by
  cases hslot : linkSlot s l with
  | none => exact congrArg (reg · k) (by unfold openSession; rw [hslot])
  | some x => rw [openSession_keyed hslot]; exact reg_setLink _ _ _ h

theorem bitOf_testBit (v i : Nat) : bitOf v i = v.testBit i := by
  rw [Nat.testBit_eq_decide_div_mod_eq]
  rfl

theorem bitOf_and (x y i : Nat) : bitOf (x &&& y) i = (bitOf x i && bitOf y i) := by
  simp only [bitOf_testBit, Nat.testBit_and]

theorem offersProtect_slot {s : State} {l : LinkId} (h : offersProtect s l = true) : (linkSlot s l).isSome = true :=
  (Bool.and_eq_true _ _ ▸ h : _ ∧ _).2

/-- The features that this device offers on Aedup (Table 16.4). -/
theorem aedupFeatures_eq (s : State) : aedupFeatures s = 0xD + (if offersProtect s .aedup then 2 else 0) := by
  unfold aedupFeatures aedupCapability field ownCredits
  dsimp only
  split <;> omega

theorem pelganFeatures_eq (s : State) (p : Nat) : pelganFeatures s p = 3 + (if offersProtect s (.pelgan p) then 4 else 0) := by
  unfold pelganFeatures pelganCapability field ownCredits
  dsimp only
  split <;> omega

/-- Under PROTECT, a link has its key slot loaded (R438). -/
theorem aedupAgreed_slot {s : State} {cap : Nat} (h : (aedupAgreed s cap).protect = true) : (linkSlot s .aedup).isSome = true := by
  refine offersProtect_slot ?_
  by_contra hno
  have hbit : bitOf (field cap 48 32 &&& aedupFeatures s) 1 = true := h
  rw [bitOf_and, aedupFeatures_eq, if_neg hno, Bool.and_eq_true] at hbit
  exact absurd hbit.2 (by decide)

theorem pelganAgreed_slot {s : State} {p cap : Nat} (h : (pelganAgreed s p cap).protect = true) :
    (linkSlot s (.pelgan p)).isSome = true := by
  refine offersProtect_slot ?_
  by_contra hno
  have hbit : bitOf (field cap 16 32 &&& pelganFeatures s p) 2 = true := h
  rw [bitOf_and, pelganFeatures_eq, if_neg hno, Bool.and_eq_true] at hbit
  exact absurd hbit.2 (by decide)

/-- The state with what an Aedup negotiation agreed shown in the entries. -/
def aedupShown (s : State) (cap : Nat) : State :=
  setReg (setReg s Key.AEDUP_VERSION (aedupAgreed s cap).version) Key.AEDUP_FEATURES (aedupAgreed s cap).features

/-- The link just made ACTIVE, before its session keys. -/
def justOpened (e : LinkEnd) (credits : List Nat) : LinkEnd :=
  { e with state := .active, credits := credits, sendSeq := 0, ackSeq := 0, recvSeq := 0, replays := 0, nakSent := false }

/-- The state with a link made ACTIVE, and its session keys under PROTECT. -/
def activated (s : State) (l : LinkId) (e : LinkEnd) (credits : List Nat) : State :=
  if e.protect then openSession (setLink s l (justOpened e credits)) l else setLink s l (justOpened e credits)

theorem aedupCapability_negotiated {s : State} {cap : Nat} (hstate : s.aedup.link.state = .negotiate)
    (hfails : aedupNegFails s cap = false) : aedupCapabilityArrives s cap =
      wantDict (sessionCheck (activated (aedupShown s cap) .aedup (aedupAgreed s cap) (aedupCredits cap)) (field cap 96 32)) := by
  unfold aedupCapabilityArrives negotiating activated
  dsimp only
  rw [if_pos (by rw [hstate]; rfl), if_neg (by simp [hfails]), if_neg (by simp [hstate])]
  rfl

theorem aedupCapability_retrained {s : State} {cap : Nat} (hstate : s.aedup.link.state = .retrain)
    (hfails : aedupNegFails s cap = false) : aedupCapabilityArrives s cap = setLink (aedupShown s cap) .aedup (aedupAgreed s cap) := by
  unfold aedupCapabilityArrives negotiating
  dsimp only
  rw [if_pos (by rw [hstate]; rfl), if_neg (by simp [hfails]), if_pos (by simp [hstate])]
  rfl

theorem aedupCapability_failed {s : State} {cap : Nat} (hstate : s.aedup.link.state ∈ [LinkState.negotiate, .retrain])
    (hfails : aedupNegFails s cap = true) : aedupCapabilityArrives s cap = linkDown (bump s Key.AEDUP_NEG_FAILURES 1) .aedup := by
  simp only [List.mem_cons, List.not_mem_nil, or_false] at hstate
  unfold aedupCapabilityArrives negotiating
  dsimp only
  rw [if_pos (by rcases hstate with h | h <;> rw [h] <;> rfl), if_pos hfails]

theorem negotiating_of {e : LinkEnd} (h : e.state ∉ [LinkState.negotiate, .retrain]) : ¬ negotiating e = true := by
  simpa [negotiating] using h

/-- The link is ACTIVE, with the session keys that PROTECT asks for. -/
structure Activated (s t : State) (l : LinkId) (e : LinkEnd) (credits : List Nat) : Prop where
  set : LinkSet { s with sec := t.sec, freeCount := t.freeCount } t l (opened e credits)
  others : ∀ k, k ≠ linkIndex l → tabGet t.sec.sessions k = tabGet s.sec.sessions k
  keyed : tabGet t.sec.sessions (linkIndex l) = none → e.protect = false
  out : t.out = s.out
  regs : ∀ k, k ∉ stateKeys → reg t k = reg s k
  fabric : l = .aedup → t.pelgan = s.pelgan

theorem activated_session (s : State) {l : LinkId} {e : LinkEnd} (credits : List Nat)
    (hslot : e.protect = true → (linkSlot s l).isSome = true) : Activated s (activated s l e credits) l e credits := by
  have hset := linkSet_setLink s l (justOpened e credits)
  unfold activated
  cases hp : e.protect with
  | true =>
    rw [if_pos rfl]
    obtain ⟨hopened, hkey⟩ := openSession_set hset (hslot hp)
    have hend : opened e credits = { justOpened e credits with sealedOut := 0, sealedIn := 0 } := by
      simp [opened, justOpened, hp]
    refine ⟨hend ▸ hopened.set, hopened.others, fun hnone => ?_, hopened.out, fun k hk => ?_, ?_⟩
    · rw [hnone] at hkey
      exact nomatch hkey
    · rw [reg_openSession _ _ hk]
      exact reg_setLink _ _ _ hk
    · rintro rfl
      obtain ⟨x, hx⟩ := Option.isSome_iff_exists.1 (hslot hp)
      rw [openSession_keyed ((linkSlot_set hset _).trans hx)]
      rfl
  | false =>
    rw [if_neg Bool.false_ne_true]
    have hend : opened e credits = justOpened e credits := by
      simp [opened, justOpened, hp]
    refine ⟨?_, fun k _ => by rw [setLink_sec], fun _ => hp, setLink_out _ _ _, fun k hk => reg_setLink _ _ _ hk,
      fun hl => by rw [hl]; rfl⟩
    rw [setLink_sec, setLink_freeCount, hend]
    exact hset

theorem linkSlot_aedupShown (s : State) (cap : Nat) : linkSlot (aedupShown s cap) .aedup = linkSlot s .aedup := by
  unfold linkSlot aedupShown
  rw [reg_setReg_ne _ _ (by decide), reg_setReg_ne _ _ (by decide)]
  rfl

/-- The Aedup link made ACTIVE by a capability that agrees. -/
theorem aedup_activated (s : State) (cap : Nat) : Activated (aedupShown s cap)
    (activated (aedupShown s cap) .aedup (aedupAgreed s cap) (aedupCredits cap)) .aedup (aedupAgreed s cap) (aedupCredits cap) :=
  activated_session _ _ fun hp => (linkSlot_aedupShown s cap) ▸ aedupAgreed_slot hp

theorem wantDict_none {s : State} (h : s.dict.waiting = none) : wantDict s = s := by
  unfold wantDict
  rw [h]

theorem queueDrained_not {q : Queue} (s : State) (n : Nat) (h : q.draining = false) : queueDrained s n q = false := by
  rw [queueDrained, h]
  rfl

theorem settleDrains_idle {s : State} (h : ∀ p ∈ s.queues, p.2.draining = false) : settleDrains s = s := by
  unfold settleDrains
  split
  · refine List.foldlRecOn s.queues _ (motive := fun t => t = s) rfl fun t ht p hp => ?_
    rw [ht, if_neg (by rw [queueDrained_not s p.1 (h p hp)]; exact Bool.false_ne_true)]
  · rfl

/-- What the comparison of SESSION starts from (R340). -/
def sessionTaken (s : State) (n : Nat) : State :=
  setReg { s with aedup := { s.aedup with peerSession := n, held := [] } } Key.AEDUP_PEER_SESSION n

theorem sessionCheck_new {s : State} {n : Nat} (h : s.aedup.peerSession ≠ n) : sessionCheck s n =
    disableAllQueues (bump (sessionTaken s n) Key.AEDUP_LOST_COMPLETIONS s.aedup.held.length) :=
  if_neg (by simpa using h)

theorem sessionCheck_same {s : State} {n : Nat} (h : s.aedup.peerSession = n) : sessionCheck s n =
    settleDrains (s.aedup.held.foldl sendHeld (sessionTaken s n)) :=
  if_pos (by simpa using h)

theorem linkSet_aedup {s t : State} {e : LinkEnd} {x : SecS} {n : Nat}
    (h : LinkSet { s with sec := x, freeCount := n } t .aedup e) : t.aedup = { s.aedup with link := e } := by
  have hlink : t.aedup.link = e := h.link
  rw [h.same, hlink]

/-- A new SESSION loses the commands and the completions of the old one. -/
theorem sessionLost {s u : State} {cap : Nat} {e : LinkEnd} {credits : List Nat}
    (h : Activated (aedupShown s cap) u .aedup e credits) (hnew : s.aedup.peerSession ≠ field cap 96 32) :
    let t := sessionCheck u (field cap 96 32)
    t.dict = s.dict ∧ t.aedup.link = opened e credits ∧ t.aedup.peerSession = field cap 96 32 ∧
      t.aedup.held = [] ∧ t.queues = [] ∧
      (∀ id, tabGet t.jobs id = (tabGet s.jobs id).map (fun j => { j with lost := true })) ∧
      reg t Key.AEDUP_LOST_COMPLETIONS =
        reg (bump s Key.AEDUP_LOST_COMPLETIONS s.aedup.held.length) Key.AEDUP_LOST_COMPLETIONS ∧
      reg t Key.AEDUP_PEER_SESSION = field cap 96 32 ∧ reg t Key.AEDUP_FEATURES = (aedupAgreed s cap).features ∧
      (tabGet t.sec.sessions 96 = none → e.protect = false) ∧
      t.mem = s.mem ∧ t.ctxs = s.ctxs ∧ t.out = s.out ∧ t.pelgan = s.pelgan := by
  have haedup : u.aedup = { s.aedup with link := opened e credits } := linkSet_aedup (s := aedupShown s cap) h.set
  have hjobs : u.jobs = s.jobs := by rw [h.set.same]; rfl
  have hlost : reg u Key.AEDUP_LOST_COMPLETIONS = reg s Key.AEDUP_LOST_COMPLETIONS := by
    rw [h.regs _ (by decide), aedupShown, reg_setReg_ne _ _ (by decide), reg_setReg_ne _ _ (by decide)]
  dsimp only
  rw [sessionCheck_new (by rw [haedup]; exact hnew)]
  refine ⟨?_, congrArg AedupS.link haedup, rfl, rfl, rfl, fun id => ?_, ?_, ?_, ?_, h.keyed, ?_, ?_, h.out, h.fabric rfl⟩
  · show u.dict = s.dict
    rw [h.set.same]
    rfl
  · rw [← hjobs]
    exact tabGet_tabMap u.jobs (fun _ j => { j with lost := true }) id
  · rw [haedup]
    exact reg_bump_congr _ ((reg_setReg_ne _ _ (by decide)).trans hlost)
  · exact (reg_bump_ne _ _ (by decide)).trans (reg_setReg_self _ _ _)
  · exact (reg_bump_ne _ _ (by decide)).trans ((reg_setReg_ne _ _ (by decide)).trans
      ((h.regs _ (by decide)).trans (reg_setReg_self _ _ _)))
  · show u.mem = s.mem
    rw [h.set.same]
    rfl
  · show u.ctxs = s.ctxs
    rw [h.set.same]
    rfl

/-- A completion held back is sent, with its interrupt when INTR is agreed. -/
theorem sendHeld_sends (s : State) (h : HeldCompletion) : (sendHeld s h).queues = s.queues ∧ (sendHeld s h).jobs = s.jobs ∧
    (sendHeld s h).aedup.held = s.aedup.held ∧ (sendHeld s h).dict.waiting = s.dict.waiting ∧
    memBytes (sendHeld s h).mem.comp h.addr 16 = leBytes 16 h.entry ∧ Out.aedupWrite h.addr 16 ∈ (sendHeld s h).out ∧
    ∀ v, h.vector = some v → bitOf (reg s Key.AEDUP_FEATURES) 2 = true → Out.aedupIntr v ∈ (sendHeld s h).out := by
  have hwritten : memBytes (memWrite s.mem.comp h.addr (leBytes 16 h.entry)) h.addr 16 = leBytes 16 h.entry := by
    have hread := memBytes_memWrite s.mem.comp h.addr (leBytes 16 h.entry) (leBytes_lt _ _)
    rwa [leBytes_length] at hread
  unfold sendHeld
  dsimp only
  cases hv : h.vector with
  | none =>
    refine ⟨by simp, by simp, by rw [(side_send _ _).aedup], by rw [(side_send _ _).dict], by simpa using hwritten,
      by simp [send_out], fun v hv => nomatch hv⟩
  | some w =>
    dsimp only
    split
    · refine ⟨by simp, by simp, ?_, ?_, by simpa using hwritten, by simp [send_out], ?_⟩
      · rw [(side_send _ _).aedup, (side_send _ _).aedup]
      · rw [(side_send _ _).dict, (side_send _ _).dict]
      · rintro v ⟨⟩ -
        simp [send_out]
    · next hintr =>
      refine ⟨by simp, by simp, by rw [(side_send _ _).aedup], by rw [(side_send _ _).dict], by simpa using hwritten,
        by simp [send_out], fun v _ hbit => ?_⟩
      exact absurd hbit hintr

/-- The same SESSION with nothing held back and no queue draining: the link is ACTIVE, and no more changes. -/
theorem sessionKept {s u : State} {cap : Nat} {e : LinkEnd} {credits : List Nat}
    (h : Activated (aedupShown s cap) u .aedup e credits) (hsame : s.aedup.peerSession = field cap 96 32)
    (hheld : s.aedup.held = []) (hdrain : ∀ p ∈ s.queues, p.2.draining = false) :
    let t := sessionCheck u (field cap 96 32)
    t.aedup = { s.aedup with link := opened e credits } ∧ t.dict = s.dict ∧
      t.queues = s.queues ∧ t.jobs = s.jobs ∧ t.mem = s.mem ∧ t.ctxs = s.ctxs ∧ t.out = s.out ∧ t.pelgan = s.pelgan := by
  have haedup : u.aedup = { s.aedup with link := opened e credits } := linkSet_aedup (s := aedupShown s cap) h.set
  have hqueues : u.queues = s.queues := by rw [h.set.same]; rfl
  have hcheck : sessionCheck u (field cap 96 32) = sessionTaken u (field cap 96 32) := by
    rw [sessionCheck_same (by rw [haedup]; exact hsame), haedup]
    dsimp only
    rw [hheld]
    exact settleDrains_idle fun p hp => hdrain p (hqueues ▸ hp)
  dsimp only
  rw [hcheck]
  refine ⟨?_, ?_, hqueues, ?_, ?_, ?_, h.out, h.fabric rfl⟩
  · show { u.aedup with peerSession := field cap 96 32, held := [] } = _
    rw [haedup, ← hsame, ← hheld]
  · show u.dict = s.dict
    rw [h.set.same]
    rfl
  · show u.jobs = s.jobs
    rw [h.set.same]
    rfl
  · show u.mem = s.mem
    rw [h.set.same]
    rfl
  · show u.ctxs = s.ctxs
    rw [h.set.same]
    rfl

/-- The same SESSION with one completion held back: it is sent. -/
theorem sessionSends {s u : State} {cap : Nat} {e : LinkEnd} {credits : List Nat} {x : HeldCompletion}
    (h : Activated (aedupShown s cap) u .aedup e credits) (hsame : s.aedup.peerSession = field cap 96 32)
    (hheld : s.aedup.held = [x]) (hdrain : ∀ p ∈ s.queues, p.2.draining = false) :
    let t := sessionCheck u (field cap 96 32)
    t.dict.waiting = s.dict.waiting ∧ t.aedup.held = [] ∧ t.queues = s.queues ∧ t.jobs = s.jobs ∧
      memBytes t.mem.comp x.addr 16 = leBytes 16 x.entry ∧ Out.aedupWrite x.addr 16 ∈ t.out ∧
      (∀ v, x.vector = some v → bitOf (aedupAgreed s cap).features 2 = true → Out.aedupIntr v ∈ t.out) := by
  have haedup : u.aedup = { s.aedup with link := opened e credits } := linkSet_aedup (s := aedupShown s cap) h.set
  have hqueues : u.queues = s.queues := by rw [h.set.same]; rfl
  have hjobs : u.jobs = s.jobs := by rw [h.set.same]; rfl
  have hdict : u.dict = s.dict := by rw [h.set.same]; rfl
  have hfeatures : reg (sessionTaken u (field cap 96 32)) Key.AEDUP_FEATURES = (aedupAgreed s cap).features :=
    (reg_setReg_ne _ _ (by decide)).trans ((h.regs _ (by decide)).trans (reg_setReg_self _ _ _))
  obtain ⟨hq, hj, hh, hw, hmem, hout, hintr⟩ := sendHeld_sends (sessionTaken u (field cap 96 32)) x
  have hcheck : sessionCheck u (field cap 96 32) = sendHeld (sessionTaken u (field cap 96 32)) x := by
    rw [sessionCheck_same (by rw [haedup]; exact hsame), haedup]
    dsimp only
    rw [hheld]
    exact settleDrains_idle fun p hp => hdrain p (hqueues ▸ hq ▸ hp)
  dsimp only
  rw [hcheck]
  exact ⟨hw.trans (congrArg DictS.waiting hdict), hh, hq.trans hqueues, hj.trans hjobs, hmem, hout,
    fun v hv hbit => hintr v hv (hfeatures ▸ hbit)⟩

/-! ### A Pelgan capability (R344, R348) -/

/-- The state with the group of the peer recorded. -/
def groupNoted (s : State) (p cap : Nat) : State :=
  { s with pelgan := { s.pelgan with peerGroup := tabSet s.pelgan.peerGroup p (field cap 160 32) } }

/-- The credits of a Pelgan link, one count for each channel. -/
def pelganCredits (cap : Nat) : List Nat := [field cap 8 8, field cap 8 8, field cap 8 8]

/-- A link that becomes ACTIVE within a group floods the best candidate. -/
def floods (s : State) (p : Nat) : State :=
  if groupLink s p then
    send s (.message p msgHello 0xFFF 0 ((bestCandidate s).1 * 2 ^ 64 + (bestCandidate s).2))
  else s

theorem pelganCapability_failed {s : State} {p cap : Nat} (hstate : (linkOf s (.pelgan p)).state ∈ [LinkState.negotiate, .retrain])
    (hfails : pelganNegFails s p cap = true) :
    pelganCapabilityArrives s p cap = linkDown (bump s Key.PELGAN_NEG_FAILURES 1) (.pelgan p) := by
  simp only [List.mem_cons, List.not_mem_nil, or_false] at hstate
  unfold pelganCapabilityArrives negotiating
  dsimp only
  rw [if_pos (by rcases hstate with h | h <;> rw [h] <;> rfl), if_pos hfails]

theorem pelganCapability_retrained {s : State} {p cap : Nat} (hstate : (linkOf s (.pelgan p)).state = .retrain)
    (hfails : pelganNegFails s p cap = false) :
    pelganCapabilityArrives s p cap = setLink (groupNoted s p cap) (.pelgan p) (pelganAgreed s p cap) := by
  unfold pelganCapabilityArrives negotiating
  dsimp only
  rw [if_pos (by rw [hstate]; rfl), if_neg (by simp [hfails]), if_pos (by simp [hstate])]
  rfl

theorem pelganCapability_negotiated {s : State} {p cap : Nat} (hstate : (linkOf s (.pelgan p)).state = .negotiate)
    (hfails : pelganNegFails s p cap = false) : pelganCapabilityArrives s p cap =
      floods (activated (groupNoted s p cap) (.pelgan p) (pelganAgreed s p cap) (pelganCredits cap)) p := by
  unfold pelganCapabilityArrives negotiating activated floods
  dsimp only
  rw [if_pos (by rw [hstate]; rfl), if_neg (by simp [hfails]), if_neg (by simp [hstate])]
  rfl

theorem pelgan_activated (s : State) (p cap : Nat) : Activated (groupNoted s p cap)
    (activated (groupNoted s p cap) (.pelgan p) (pelganAgreed s p cap) (pelganCredits cap)) (.pelgan p)
    (pelganAgreed s p cap) (pelganCredits cap) :=
  activated_session _ _ fun hp => pelganAgreed_slot hp

theorem peerGroup_noted {s u : State} {p cap : Nat} {e : LinkEnd}
    (h : LinkSet { groupNoted s p cap with sec := u.sec, freeCount := u.freeCount } u (.pelgan p) e) :
    u.pelgan.peerGroup = tabSet s.pelgan.peerGroup p (field cap 160 32) := by
  rw [h.same]
  rfl

/-- The record of the peer's group stands in the base of the new link. -/
theorem linkSet_noted {s u : State} {p cap : Nat} {e : LinkEnd}
    (h : LinkSet { groupNoted s p cap with sec := u.sec, freeCount := u.freeCount } u (.pelgan p) e) :
    LinkSet { s with
      pelgan := { s.pelgan with peerGroup := u.pelgan.peerGroup }, sec := u.sec, freeCount := u.freeCount } u (.pelgan p) e := by
  rw [peerGroup_noted h]
  exact h

theorem groupLink_eq (s : State) (p : Nat) : groupLink s p = ((linkOf s (.pelgan p)).state == .active &&
    reg s Key.PELGAN_GROUP_ID != 0 && tabGet s.pelgan.peerGroup p == some (reg s Key.PELGAN_GROUP_ID)) := by
  unfold groupLink linkOf
  dsimp only
  cases h : tabGet s.pelgan.links p with
  | none => rfl
  | some e => rfl

theorem bestCandidate_congr {s t : State} (hbest : t.pelgan.best = s.pelgan.best)
    (hpri : reg t Key.PELGAN_PRIORITY = reg s Key.PELGAN_PRIORITY) (hser : reg t Key.ID_SERIAL = reg s Key.ID_SERIAL) :
    bestCandidate t = bestCandidate s := by
  unfold bestCandidate ownCandidate
  rw [hbest, hpri, hser]

/-- The link just made ACTIVE is a link of the group exactly when this device has a group and the peer has the same. -/
theorem groupLink_noted {s u : State} {p cap : Nat} {e : LinkEnd} {credits : List Nat}
    (h : Activated (groupNoted s p cap) u (.pelgan p) e credits) :
    groupLink u p = true ↔ reg s Key.PELGAN_GROUP_ID ≠ 0 ∧ reg s Key.PELGAN_GROUP_ID = field cap 160 32 := by
  have hgroup : reg u Key.PELGAN_GROUP_ID = reg s Key.PELGAN_GROUP_ID := h.regs _ (by decide)
  rw [groupLink_eq, hgroup, peerGroup_noted h.set, tabGet_tabSet_self, show linkOf u (.pelgan p) = opened e credits from h.set.link]
  rw [Bool.and_eq_true, Bool.and_eq_true, bne_iff_ne, beq_iff_eq, beq_iff_eq, Option.some_inj]
  exact ⟨fun hin => ⟨hin.1.2, hin.2.symm⟩, fun hin => ⟨⟨rfl, hin.1⟩, hin.2.symm⟩⟩

theorem bestCandidate_noted {s u : State} {p cap : Nat} {e : LinkEnd} {credits : List Nat}
    (h : Activated (groupNoted s p cap) u (.pelgan p) e credits) : bestCandidate u = bestCandidate s :=
  bestCandidate_congr (by rw [h.set.same]; rfl) (h.regs _ (by decide)) (h.regs _ (by decide))

end Sys2Proof.Machine

/-! OBLIGATION O57. Training, capabilities and read timeouts of the links (chapters 16 and 17). -/

namespace Sys2Proof.Machine

/-- An entry that a training failure does not touch may be counted before it. -/
theorem linkDown_negotiation {s : State} {l : LinkId} {k : Nat} (hk : k ∈ [Key.AEDUP_NEG_FAILURES, Key.PELGAN_NEG_FAILURES])
    (hstate : (linkOf s l).state = .negotiate) :
    LinkSet s (linkDown (bump s k 1) l) l { linkOf s l with state := .down } ∧
      reg (linkDown (bump s k 1) l) k = reg (bump s k 1) k := by
  have hlinkKey : ∀ j ∈ [Key.AEDUP_NEG_FAILURES, Key.PELGAN_NEG_FAILURES], j ∈ linkKeys := by decide
  have hlink : linkOf (bump s k 1) l = linkOf s l := linkOf_setReg s k _ l
  obtain ⟨hset, -⟩ := linkDown_training (s := bump s k 1) (l := l) (by rw [hlink, hstate]; decide) (by rw [hlink, hstate]; decide)
  rw [hlink] at hset
  exact ⟨hset.afterReg (hlinkKey k hk), negFailures_linkDown _ l hk⟩

/-- A retrain whose negotiation fails is a link reset. -/
theorem linkDown_renegotiation {s : State} {l : LinkId} {k : Nat} (hk : k ∈ [Key.AEDUP_NEG_FAILURES, Key.PELGAN_NEG_FAILURES])
    (hrise : s.keysRise) (hstate : (linkOf s l).state = .retrain) :
    LinkReset s (linkDown (bump s k 1) l) l ∧ reg (linkDown (bump s k 1) l) k = reg (bump s k 1) k := by
  have hfree : ∀ j ∈ [Key.AEDUP_NEG_FAILURES, Key.PELGAN_NEG_FAILURES], j ≠ Key.AEDUP_LINK_RESETS ∧
      j ≠ Key.PELGAN_LINK_RESETS ∧ j ≠ Key.HEM_BEAT_NUMBER := by decide
  obtain ⟨haedup, hpelgan, hbeat⟩ := hfree k hk
  have hreset : LinkReset (bump s k 1) (linkDown (bump s k 1) l) l :=
    linkDown_retrain hrise ((congrArg LinkEnd.state (linkOf_setReg s k _ l)).trans hstate)
  refine ⟨hreset.afterReg ?_ hbeat, negFailures_linkDown _ l hk⟩
  cases l with
  | aedup => exact haedup
  | pelgan p => exact hpelgan

/-- A read of a link that does not answer (R340). -/
theorem aedupReadTimeout_first {s : State} {tag : Nat} {q : AedupRead} (hq : tabGet s.aedup.reads tag = some q)
    (hretried : q.retried = false) : aedupReadTimeout s tag = startRetrain { s with
      aedup := { s.aedup with reads := tabSet s.aedup.reads tag { q with retried := true } } } .aedup := by
  unfold aedupReadTimeout
  rw [hq]
  exact if_neg (by simp [hretried])

theorem aedupReadTimeout_again {s : State} {tag : Nat} {q : AedupRead} (hq : tabGet s.aedup.reads tag = some q)
    (hretried : q.retried = true) : aedupReadTimeout s tag = aedupReset s := by
  unfold aedupReadTimeout
  rw [hq]
  exact if_pos hretried

/-- A read that is due again keeps its tag. -/
theorem readRetried {s : State} {tag : Nat} (q : AedupRead) :
    let s1 := { s with aedup := { s.aedup with reads := tabSet s.aedup.reads tag { q with retried := true } } }
    let t := startRetrain s1 .aedup
    (∀ k, tabGet t.aedup.reads k = if k = tag then some { q with retried := true } else tabGet s.aedup.reads k) ∧
      (s.aedup.link.state = .active →
        LinkSet { s with aedup := { s.aedup with reads := t.aedup.reads } } t .aedup
          { s.aedup.link with state := .retrain, replays := 0 } ∧
        reg t Key.AEDUP_RETRAINS = reg (bump s Key.AEDUP_RETRAINS 1) Key.AEDUP_RETRAINS) ∧
      (s.aedup.link.state ≠ .active → t = { s with aedup := { s.aedup with reads := t.aedup.reads } }) := by
  intro s1 t
  have hreads : t.aedup.reads = tabSet s.aedup.reads tag { q with retried := true } := by
    by_cases hactive : s1.aedup.link.state = .active
    · show (startRetrain s1 .aedup).aedup.reads = _
      rw [(startRetrain_set (l := .aedup) hactive).1.same]
    · exact congrArg (fun u : State => u.aedup.reads) (startRetrain_idle (l := .aedup) hactive)
  refine ⟨fun k => hreads ▸ tabGet_tabSet _ _ _ _, fun hactive => ?_, fun hidle => ?_⟩
  · obtain ⟨hset, hcount, -⟩ := startRetrain_set (s := s1) (l := .aedup) hactive
    rw [hreads]
    exact ⟨hset, hcount rfl⟩
  · rw [hreads]
    exact startRetrain_idle (l := .aedup) hidle

/-- The end of a training state (R330, R331, R342, R343). -/
theorem linkTrainingStateEnd_clauses (s : State) (l : LinkId) (low high ns : Nat) :
    ((linkOf s l).state ∈ [LinkState.detect, .equalize] → (low ≠ 0 ∨ high ≠ 0) →
      LinkSet s (linkTrainingStateEnd s l low high ns) l
        { linkOf s l with state := if (linkOf s l).state = .detect then .equalize else .align }) ∧
    (((linkOf s l).state ∈ [LinkState.detect, .equalize] ∧ low = 0 ∧ high = 0) ∨
        ((linkOf s l).state = .align ∧ linkChoice s l low high = none) →
      LinkSet s (linkTrainingStateEnd s l low high ns) l { linkOf s l with state := .down } ∧
        (l = .aedup → reg (linkTrainingStateEnd s l low high ns) Key.AEDUP_TRAIN_FAILURES =
          reg (bump s Key.AEDUP_TRAIN_FAILURES 1) Key.AEDUP_TRAIN_FAILURES)) := by
  refine ⟨fun hstate hlanes => ?_, fun hfail => ?_⟩
  · rw [linkTrainingStateEnd_passed ns hstate hlanes]
    exact linkSet_setLink _ _ _
  · rw [linkTrainingStateEnd_failed ns hfail]
    have htraining : (linkOf s l).state ∈ [LinkState.detect, .equalize, .align, .negotiate] := by
      rcases hfail with ⟨hstate, -⟩ | ⟨hstate, -⟩
      · exact List.mem_of_mem_take (i := 2) hstate
      · rw [hstate]; decide
    obtain ⟨hretrain, hactive⟩ := training_notUp htraining
    exact linkDown_training hretrain hactive

/-- Settles O57, operation by operation: training, time limits, capabilities and read timeouts. -/
theorem linkTraining : Obligations.LinkTraining := by
  unfold Obligations.LinkTraining
  refine ⟨fun s l => ⟨fun hdown henabled => ?_, fun hidle => ?_⟩, fun s l low high ns => ⟨fun hstate hlanes => ?_, fun hfail => ?_,
      fun w r hstate hchoice => ?_, fun hidle => ?_⟩, fun s l => ⟨fun hidle => ?_, fun htraining => ?_, fun hrise hretrain => ?_⟩,
    fun s l => ⟨fun hstate => ?_, fun hidle => ?_⟩, fun s cap => ⟨fun hidle => ?_, fun hstate hfails => ?_,
      fun hrise hstate hfails => ?_, fun hstate hagrees => ?_, fun hstate hagrees hwaiting => ?_⟩,
    fun s p cap => ⟨fun hidle => ?_, fun hstate hfails => ?_, fun hrise hstate hfails => ?_, fun hstate hagrees => ?_,
      fun hstate hagrees => ?_⟩, fun s tag => ⟨fun hnone => ?_, fun q hq hretried hrise => ?_, fun q hq hretried => ?_⟩⟩
  · exact ⟨_, congrArg Host.Outcome.next (linkTrainRetry_started hdown henabled), linkSet_setLink _ _ _⟩
  · exact congrArg Host.Outcome.next (linkTrainRetry_idle hidle)
  · exact ⟨_, rfl, (linkTrainingStateEnd_clauses s l low high ns).1 hstate hlanes⟩
  · exact ⟨_, rfl, (linkTrainingStateEnd_clauses s l low high ns).2 hfail⟩
  · obtain ⟨u, hset, hside, hout, hshown, hlatency⟩ := aligned_sends s l w r ns
    refine ⟨u, _, congrArg Host.Outcome.next (linkTrainingStateEnd_aligned ns hstate hchoice), hset, hside, hout, fun hl => ?_,
      fun q hl => ?_⟩
    · rw [hside.regs _ (by decide), hside.regs _ (by decide)]
      exact hshown hl
    · rw [hside.regs _ (by decide)]
      exact hlatency q hl
  · exact congrArg Host.Outcome.next (linkTrainingStateEnd_idle _ _ _ hidle)
  · exact congrArg Host.Outcome.next (linkStateTimeout_idle hidle)
  · obtain ⟨hretrain, hactive⟩ := training_notUp htraining
    refine ⟨_, congrArg Host.Outcome.next (linkStateTimeout_failed (fun hdown => ?_) hactive), linkDown_training hretrain hactive⟩
    rw [hdown] at htraining
    exact absurd htraining (by decide)
  · refine ⟨_, congrArg Host.Outcome.next (linkStateTimeout_failed ?_ ?_), linkDown_retrain hrise hretrain⟩ <;> rw [hretrain] <;> decide
  · have hsent : capabilityResend s l = send s (.capability l (capabilityOf s l)) := if_pos (by rw [hstate]; rfl)
    exact ⟨_, congrArg Host.Outcome.next hsent, side_send _ _, send_out _ _⟩
  · exact congrArg Host.Outcome.next (if_neg (by simpa using hidle))
  · exact congrArg Host.Outcome.next (if_neg (negotiating_of hidle))
  · exact ⟨_, congrArg Host.Outcome.next (aedupCapability_failed (by rw [hstate]; decide) hfails),
      linkDown_negotiation (l := .aedup) (by decide) hstate⟩
  · exact ⟨_, congrArg Host.Outcome.next (aedupCapability_failed (by rw [hstate]; decide) hfails),
      linkDown_renegotiation (l := .aedup) (by decide) hrise hstate⟩
  · refine ⟨_, congrArg Host.Outcome.next (aedupCapability_retrained hstate hagrees), ?_, ?_, ?_⟩
    · exact ((linkSet_setLink (aedupShown s cap) .aedup _).afterReg (by decide)).afterReg (by decide)
    · exact (reg_setLink _ _ _ (by decide)).trans ((reg_setReg_ne _ _ (by decide)).trans (reg_setReg_self _ _ _))
    · exact (reg_setLink _ _ _ (by decide)).trans (reg_setReg_self _ _ _)
  · have hstep := aedupCapability_negotiated hstate hagrees
    have hopen := aedup_activated s cap
    refine ⟨fun hnew => ?_, fun hsame hheld hdrain => ?_, fun x hsame hheld hdrain => ?_⟩
    · obtain ⟨hdict, hrest⟩ := sessionLost hopen hnew
      exact ⟨_, congrArg Host.Outcome.next (hstep.trans (wantDict_none (hdict ▸ hwaiting))), hrest⟩
    · obtain ⟨haedup, hdict, hrest⟩ := sessionKept hopen hsame hheld hdrain
      exact ⟨_, congrArg Host.Outcome.next (hstep.trans (wantDict_none (hdict ▸ hwaiting))), haedup, hrest⟩
    · obtain ⟨hwait, hrest⟩ := sessionSends hopen hsame hheld hdrain
      exact ⟨_, congrArg Host.Outcome.next (hstep.trans (wantDict_none (hwait.trans hwaiting))), hrest⟩
  · exact congrArg Host.Outcome.next (if_neg (negotiating_of hidle))
  · exact ⟨_, congrArg Host.Outcome.next (pelganCapability_failed (by rw [hstate]; decide) hfails),
      linkDown_negotiation (l := .pelgan p) (by decide) hstate⟩
  · exact ⟨_, congrArg Host.Outcome.next (pelganCapability_failed (by rw [hstate]; decide) hfails),
      linkDown_renegotiation (l := .pelgan p) (by decide) hrise hstate⟩
  · refine ⟨_, congrArg Host.Outcome.next (pelganCapability_retrained hstate hagrees), tabGet_tabSet_self _ _ _, ?_⟩
    exact linkSet_setLink (groupNoted s p cap) (.pelgan p) _
  · have hstep := pelganCapability_negotiated hstate hagrees
    have hopen := pelgan_activated s p cap
    have hgroup := (congrArg (tabGet · p) (peerGroup_noted hopen.set)).trans (tabGet_tabSet_self _ _ _)
    refine ⟨fun hout => ?_, fun hzero hsame => ?_⟩
    · refine ⟨_, congrArg Host.Outcome.next (hstep.trans (if_neg fun hin => ?_)), hgroup, linkSet_noted hopen.set, hopen.others⟩
      obtain ⟨hzero, hsame⟩ := (groupLink_noted hopen).1 hin
      exact hout.elim hzero (· hsame)
    · refine ⟨_, _, congrArg Host.Outcome.next (hstep.trans (if_pos ((groupLink_noted hopen).2 ⟨hzero, hsame⟩))), ?_,
        linkSet_noted hopen.set, side_send _ _, ?_⟩
      · rw [(side_send _ _).pelgan]
        exact hgroup
      · rw [send_out, bestCandidate_noted hopen, hopen.out]
        rfl
  · exact congrArg Host.Outcome.next (by unfold aedupReadTimeout; rw [hnone])
  · exact ⟨_, congrArg Host.Outcome.next (aedupReadTimeout_again hq hretried), linkReset_aedup s⟩
  · exact ⟨_, congrArg Host.Outcome.next (aedupReadTimeout_first hq hretried), readRetried q⟩

end Sys2Proof.Machine

/-! SUPPORT. What flits, NAKs and acknowledgements change of a link (chapters 16 and 17). -/

namespace Sys2Proof.Machine

/-! ### Counters of a link's flits -/

/-- The entries that a flit writes. -/
def flitKeys (l : LinkId) : List Nat :=
  [crcKey l, fecKey l, protocolKey l, replayKey l, Key.SEC_TAG_FAILURES, Key.PELGAN_STALE_DROPS] ++ linkKeys

/-- Only counters of the link, and the performance counters, differ. -/
structure LinkCounted (s t : State) (l : LinkId) : Prop where
  same : t = { s with regs := t.regs, perf := t.perf }
  regs : ∀ k, k ∉ flitKeys l → reg t k = reg s k

theorem LinkCounted.refl (s : State) (l : LinkId) : LinkCounted s s l := ⟨rfl, fun _ _ => rfl⟩

theorem LinkCounted.trans {s t u : State} {l : LinkId} (h : LinkCounted s t l) (k : LinkCounted t u l) : LinkCounted s u l where
  same := by
    rw [k.same, h.same]
  regs := fun j hj => (k.regs j hj).trans (h.regs j hj)

theorem linkCounted_setReg (s : State) {l : LinkId} {k : Nat} (v : Nat) (h : k ∈ flitKeys l) : LinkCounted s (setReg s k v) l :=
  ⟨rfl, fun _ hj => reg_setReg_ne s v (ne_of_mem_of_not_mem h hj).symm⟩

theorem LinkCounted.linkOf {s t : State} {l : LinkId} (h : LinkCounted s t l) (k : LinkId) : linkOf t k = linkOf s k := by
  rw [h.same]
  cases k <;> rfl

/-- An event of the interconnect that is sampled with skid is counted, and no more happens (R430). -/
theorem countChip_skid (s : State) {event : Nat} (n : Nat) (t : Trace) (h : skidEvent event = true) :
    ∃ p, countChip s event n t = { s with perf := p } := by
  unfold countChip
  refine List.foldlRecOn _ _ (motive := fun u => ∃ p, u = { s with perf := p }) ⟨s.perf, rfl⟩ ?_
  rintro u ⟨p, rfl⟩ a -
  dsimp only
  rw [if_pos h]
  split <;> exact ⟨_, rfl⟩

theorem countCrc_eq (s : State) (l : LinkId) : ∃ p, countCrc s l = { bump s (crcKey l) 1 with perf := p } := by
  cases l with
  | aedup => exact ⟨s.perf, rfl⟩
  | pelgan q => exact countChip_skid _ _ _ rfl

theorem countFec_eq (s : State) (l : LinkId) (n : Nat) : ∃ p, countFec s l n = { bump s (fecKey l) n with perf := p } := by
  cases l with
  | aedup => exact ⟨s.perf, rfl⟩
  | pelgan q => exact countChip_skid _ _ _ rfl

theorem mem_flitKeys (l : LinkId) : crcKey l ∈ flitKeys l ∧ fecKey l ∈ flitKeys l ∧ replayKey l ∈ flitKeys l ∧
    Key.SEC_TAG_FAILURES ∈ flitKeys l ∧ Key.PELGAN_STALE_DROPS ∈ flitKeys l := by
  simp [flitKeys]

theorem linkCounted_countCrc (s : State) (l : LinkId) : LinkCounted s (countCrc s l) l := by
  obtain ⟨p, hp⟩ := countCrc_eq s l
  rw [hp]
  exact ⟨rfl, fun _ hj => reg_bump_ne _ _ (ne_of_mem_of_not_mem (mem_flitKeys l).1 hj).symm⟩

theorem reg_countCrc (s : State) (l : LinkId) (k : Nat) : reg (countCrc s l) k = reg (bump s (crcKey l) 1) k := by
  obtain ⟨p, hp⟩ := countCrc_eq s l
  rw [hp]
  rfl

/-- The state in which the corrected symbols of a flit are counted. -/
def fecCounted (s : State) (l : LinkId) (n : Nat) : State := if n == 0 then s else countFec s l n

theorem linkCounted_fecCounted (s : State) (l : LinkId) (n : Nat) : LinkCounted s (fecCounted s l n) l := by
  unfold fecCounted
  split
  · exact .refl s l
  · obtain ⟨p, hp⟩ := countFec_eq s l n
    rw [hp]
    exact ⟨rfl, fun _ hj => reg_bump_ne _ _ (ne_of_mem_of_not_mem (mem_flitKeys l).2.1 hj).symm⟩

theorem reg_fecCounted (s : State) (l : LinkId) (n : Nat) {k : Nat} (h : k ≠ fecKey l) : reg (fecCounted s l n) k = reg s k := by
  unfold fecCounted
  split
  · rfl
  · obtain ⟨p, hp⟩ := countFec_eq s l n
    rw [hp]
    exact reg_bump_ne _ _ h

theorem counts_fecCounted (s : State) (l : LinkId) {n : Nat} (h : n ≠ 0) : counts s (fecCounted s l n) (fecKey l) n := by
  obtain ⟨p, hp⟩ := countFec_eq s l n
  unfold fecCounted
  rw [if_neg (by simpa using h), hp]
  rfl

/-! ### The end of a link after a flit -/

theorem FlitSet.refl (s : State) (l : LinkId) : FlitSet s s l (linkOf s l) :=
  ⟨rfl, fun _ _ => rfl, .inl rfl, rfl, fun _ _ => rfl⟩

theorem FlitSet.before {s u t : State} {l : LinkId} {e : LinkEnd} (hc : LinkCounted s u l) (h : FlitSet u t l e) :
    FlitSet s t l e where
  link := h.link
  others := fun k hk => (h.others k hk).trans (hc.linkOf k)
  posted := by
    have haedup : u.aedup = s.aedup := by rw [hc.same]
    have hstill : ∀ x, stillPosted u x = stillPosted s x := fun x => by rw [stillPosted, haedup]; rfl
    rw [← hstill, ← haedup]
    exact h.posted
  same := by
    rw [h.same, hc.same]
  regs := fun k hk => (h.regs k hk).trans (hc.regs k hk)

theorem FlitSet.after {s t u : State} {l : LinkId} {e : LinkEnd} (h : FlitSet s t l e) (hc : LinkCounted t u l) :
    FlitSet s u l e where
  link := (hc.linkOf l).trans h.link
  others := fun k hk => (hc.linkOf k).trans (h.others k hk)
  posted := by
    have haedup : u.aedup = t.aedup := by rw [hc.same]
    rw [haedup]
    exact h.posted
  same := by
    rw [hc.same, h.same]
  regs := fun k hk => (hc.regs k hk).trans (h.regs k hk)

theorem linkKeys_flitKeys {l : LinkId} {k : Nat} (h : k ∉ flitKeys l) : k ∉ linkKeys :=
  fun hk => h (List.mem_append_right _ hk)

theorem setLink_posted (s : State) (l : LinkId) (e : LinkEnd) : (setLink s l e).aedup.posted = s.aedup.posted := by
  cases l <;> rfl

/-- A new end of a link with the acknowledgements of the one before. -/
theorem FlitSet.again {s t : State} {l : LinkId} {e : LinkEnd} (h : FlitSet s t l e) (f : LinkEnd) (hack : f.ackSeq = e.ackSeq)
    (hun : unacked f = unacked e) : FlitSet s (setLink t l f) l f where
  link := linkOf_setLink_self t l f
  others := fun j hj => (linkOf_setLink_ne t f hj).trans (h.others j hj)
  posted := by
    rw [setLink_posted]
    refine h.posted.imp id fun hp => hp.trans ?_
    cases l with
    | aedup =>
      have hlink : t.aedup.link = e := h.link
      show stillPosted s t.aedup.link = stillPosted s f
      rw [hlink, stillPosted, stillPosted, hack, hun]
    | pelgan p => rfl
  same := by
    rw [setLink_same t l f, h.same]
  regs := fun j hj => (reg_setLink t l f (stateKeys_linkKeys (linkKeys_flitKeys hj))).trans (h.regs j hj)

/-- The end after an acknowledgement, with the posted writes that it settles. -/
theorem flitSet_settled (s : State) (l : LinkId) (e : LinkEnd) : FlitSet s (settlePosted (setLink s l e)) l e ∧
    (settlePosted (setLink s l e)).aedup.posted = stillPosted s (settlePosted (setLink s l e)).aedup.link := by
  have hposted : (settlePosted (setLink s l e)).aedup.posted = stillPosted s (settlePosted (setLink s l e)).aedup.link :=
    congrArg (List.filter _) (setLink_posted s l e)
  have hlink : ∀ k, linkOf (settlePosted (setLink s l e)) k = linkOf (setLink s l e) k := fun k => by cases k <;> rfl
  refine ⟨⟨?_, fun j hj => ?_, .inr hposted, ?_, fun j hj => ?_⟩, hposted⟩
  · exact (hlink l).trans (linkOf_setLink_self s l e)
  · exact (hlink j).trans (linkOf_setLink_ne s e hj)
  · unfold settlePosted
    rw [setLink_same s l e]
  · exact reg_setLink s l e (stateKeys_linkKeys (linkKeys_flitKeys hj))

/-! ### A flit that is discarded (R333) -/

theorem discards_discardFlit {s t : State} {l : LinkId} {e : LinkEnd} (h : FlitSet s t l e) : discards s (discardFlit t l) l e := by
  have hlink := h.link
  unfold discards discardFlit
  dsimp only
  rw [hlink]
  split
  · exact h
  · refine ⟨setLink t l { e with nakSent := true }, h.again _ rfl rfl, side_send _ _, ?_⟩
    have hout : t.out = s.out := by rw [h.same]
    rw [send_out, setLink_out, hout]

theorem stateKeys_sideKey : ∀ k ∈ stateKeys, sideKey k = true := by decide

theorem reg_discardFlit (s : State) (l : LinkId) {k : Nat} (hside : sideKey k = false) : reg (discardFlit s l) k = reg s k := by
  have hstate : k ∉ stateKeys := fun hk => Bool.false_ne_true (hside.symm.trans (stateKeys_sideKey k hk))
  unfold discardFlit
  dsimp only
  split
  · rfl
  · rw [(side_send _ _).regs k hside]
    exact reg_setLink _ _ _ hstate

/-! ### FLIT_RECEIVE, case by case -/

theorem takesFlits_eq (e : LinkEnd) : takesFlits e = (negotiating e || e.state == .active) := by
  unfold takesFlits negotiating
  rw [Bool.or_assoc, Bool.or_assoc, Bool.or_comm (e.state == .active)]

/-- What a good flit of this generation leaves before its kind is looked at. -/
def headerTaken (s : State) (l : LinkId) (n h : Nat) : State :=
  settlePosted (setLink (fecCounted s l n) l (afterHeader l (linkOf s l) h))

/-- The end after a message flit in order. -/
def flitTaken (l : LinkId) (e : LinkEnd) (h : Nat) : LinkEnd :=
  { afterHeader l e h with
    recvSeq := ((afterHeader l e h).recvSeq + 1) % 1024, nakSent := false
    sealedIn := (afterHeader l e h).sealedIn + (if tagged e h then 1 else 0) }

/-- The event of a received flit is counted. -/
def flitCounted (s : State) : LinkId → State
  | .aedup => countChip s 0x303 1 {}
  | .pelgan p => countChip s 0x306 1 { inst := p }

/-- A message flit in order: its messages pass on, each bad one counted. -/
def messagesPassed (s : State) (l : LinkId) (n h : Nat) (ms : List Nat) : State :=
  bump (flitCounted (setLink (headerTaken s l n h) l (flitTaken l (linkOf s l) h)) l) (protocolKey l)
    (ms.filter (badMessage l)).length

/-- The branches of FLIT_RECEIVE by name. -/
theorem flitReceive_eq (s : State) (l : LinkId) (n : Nat) (crc tag : Bool) (h : Nat) (ms : List Nat) :
    flitReceive s l n crc tag h ms =
      if !(negotiating (linkOf s l) || (linkOf s l).state == .active) then s
      else if !crc then discardFlit (countCrc (fecCounted s l n) l) l
      else if tagged (linkOf s l) h && !tag then
        discardFlit (bump (countCrc (fecCounted s l n) l) Key.SEC_TAG_FAILURES 1) l
      else if l != .aedup && field h 66 6 != (linkOf s l).linkGen then bump (fecCounted s l n) Key.PELGAN_STALE_DROPS 1
      else if field h 72 4 == 2 || field h 72 4 == 4 || field h 72 4 == 5 then headerTaken s l n h
      else if field h 86 10 != (afterHeader l (linkOf s l) h).recvSeq then discardFlit (headerTaken s l n h) l
      else if field h 72 4 == 0 then
        if tagged (linkOf s l) h && 2 ^ 48 ≤ (afterHeader l (linkOf s l) h).sealedIn + 1 then
          startRetrain (messagesPassed s l n h ms) l
        else messagesPassed s l n h ms
      else headerTaken s l n h := by
  cases l <;> rfl

end Sys2Proof.Machine

/-! SUPPORT. Flits received, NAKs, stalls, the end of a retrain, and snoops (chapters 16 and 17). -/

namespace Sys2Proof.Machine

/-! ### Flits received (R333, R345, R440) -/

theorem discards.before {s u t : State} {l : LinkId} {e : LinkEnd} (hc : LinkCounted s u l) (h : discards u t l e) :
    discards s t l e := by
  unfold discards at h ⊢
  split
  · next hnak =>
    rw [if_pos hnak] at h
    exact h.before hc
  · next hnak =>
    rw [if_neg hnak] at h
    obtain ⟨v, hset, hside, hout⟩ := h
    have hsame : u.out = s.out := by rw [hc.same]
    exact ⟨v, hset.before hc, hside, hsame ▸ hout⟩

theorem flitKeys_free (l : LinkId) : sideKey (crcKey l) = false ∧ sideKey (fecKey l) = false ∧ crcKey l ≠ fecKey l ∧
    crcKey l ≠ Key.SEC_TAG_FAILURES ∧ fecKey l ≠ Key.SEC_TAG_FAILURES ∧ fecKey l ≠ Key.PELGAN_STALE_DROPS ∧
    sideKey Key.SEC_TAG_FAILURES = false := by
  cases l <;> dsimp only [crcKey, fecKey] <;> decide

theorem notUp_iff (e : LinkEnd) : (!(negotiating e || e.state == .active)) = !takesFlits e := by rw [takesFlits_eq]

/-- A flit that the link does not take leaves everything. -/
theorem flitReceive_down {s : State} {l : LinkId} (n h : Nat) (crc tag : Bool) (ms : List Nat)
    (hup : takesFlits (linkOf s l) = false) : flitReceive s l n crc tag h ms = s := by
  rw [flitReceive_eq, notUp_iff, hup]
  exact if_pos rfl

/-- A bad check (R333). -/
theorem flitReceive_crc {s : State} {l : LinkId} (n h : Nat) (tag : Bool) (ms : List Nat) (hup : takesFlits (linkOf s l) = true) :
    let t := flitReceive s l n false tag h ms
    discards s t l (linkOf s l) ∧ counts s t (crcKey l) 1 ∧ (n ≠ 0 → counts s t (fecKey l) n) ∧
      reg t Key.SEC_TAG_FAILURES = reg s Key.SEC_TAG_FAILURES := by
  obtain ⟨hcrc, hfec, hne, hcrcTag, hfecTag, -, htag⟩ := flitKeys_free l
  have hstep : flitReceive s l n false tag h ms = discardFlit (countCrc (fecCounted s l n) l) l := by
    rw [flitReceive_eq, notUp_iff, hup]
    rfl
  have hcounted := (linkCounted_fecCounted s l n).trans (linkCounted_countCrc _ l)
  have hdiscards := (discards_discardFlit (.refl (countCrc (fecCounted s l n) l) l)).before hcounted
  dsimp only
  rw [hstep]
  refine ⟨hcounted.linkOf l ▸ hdiscards, ?_, fun hn => ?_, ?_⟩
  · unfold counts
    rw [reg_discardFlit _ _ hcrc, reg_countCrc]
    exact reg_bump_congr 1 (reg_fecCounted s l n hne)
  · unfold counts
    rw [reg_discardFlit _ _ hfec, reg_countCrc, reg_bump_ne _ _ hne.symm]
    exact counts_fecCounted s l hn
  · rw [reg_discardFlit _ _ htag, reg_countCrc, reg_bump_ne _ _ hcrcTag.symm]
    exact reg_fecCounted s l n hfecTag.symm

/-- A bad tag (R440). -/
theorem flitReceive_tag {s : State} {l : LinkId} (n : Nat) {h : Nat} (ms : List Nat) (hup : takesFlits (linkOf s l) = true)
    (htagged : tagged (linkOf s l) h = true) :
    let t := flitReceive s l n true false h ms
    discards s t l (linkOf s l) ∧ counts s t (crcKey l) 1 ∧ (n ≠ 0 → counts s t (fecKey l) n) ∧
      counts s t Key.SEC_TAG_FAILURES 1 := by
  obtain ⟨hcrc, hfec, hne, hcrcTag, hfecTag, -, htag⟩ := flitKeys_free l
  have hstep : flitReceive s l n true false h ms =
      discardFlit (bump (countCrc (fecCounted s l n) l) Key.SEC_TAG_FAILURES 1) l := by
    rw [flitReceive_eq, notUp_iff, hup, htagged]
    rfl
  have hcounted := ((linkCounted_fecCounted s l n).trans (linkCounted_countCrc _ l)).trans
    (linkCounted_setReg (k := Key.SEC_TAG_FAILURES) _
      ((reg (countCrc (fecCounted s l n) l) Key.SEC_TAG_FAILURES + 1) % 2 ^ counterBits Key.SEC_TAG_FAILURES)
      (mem_flitKeys l).2.2.2.1)
  have hdiscards := (discards_discardFlit (.refl (bump (countCrc (fecCounted s l n) l) Key.SEC_TAG_FAILURES 1) l)).before hcounted
  dsimp only
  rw [hstep]
  refine ⟨hcounted.linkOf l ▸ hdiscards, ?_, fun hn => ?_, ?_⟩
  · unfold counts
    rw [reg_discardFlit _ _ hcrc, reg_bump_ne _ _ hcrcTag, reg_countCrc]
    exact reg_bump_congr 1 (reg_fecCounted s l n hne)
  · unfold counts
    rw [reg_discardFlit _ _ hfec, reg_bump_ne _ _ hfecTag, reg_countCrc, reg_bump_ne _ _ hne.symm]
    exact counts_fecCounted s l hn
  · unfold counts
    rw [reg_discardFlit _ _ htag]
    refine reg_bump_congr 1 ?_
    rw [reg_countCrc, reg_bump_ne _ _ hcrcTag.symm]
    exact reg_fecCounted s l n hfecTag.symm

/-- A flit with a good check and, where it must carry one, a good tag. -/
theorem flitReceive_good {s : State} {l : LinkId} (n : Nat) {h : Nat} {tag : Bool} (ms : List Nat)
    (hup : takesFlits (linkOf s l) = true) (htag : tagged (linkOf s l) h = false ∨ tag = true) :
    flitReceive s l n true tag h ms =
      if l != .aedup && field h 66 6 != (linkOf s l).linkGen then bump (fecCounted s l n) Key.PELGAN_STALE_DROPS 1
      else if field h 72 4 == 2 || field h 72 4 == 4 || field h 72 4 == 5 then headerTaken s l n h
      else if field h 86 10 != (afterHeader l (linkOf s l) h).recvSeq then discardFlit (headerTaken s l n h) l
      else if field h 72 4 == 0 then
        if tagged (linkOf s l) h && 2 ^ 48 ≤ (afterHeader l (linkOf s l) h).sealedIn + 1 then
          startRetrain (messagesPassed s l n h ms) l
        else messagesPassed s l n h ms
      else headerTaken s l n h := by
  have hok : (tagged (linkOf s l) h && !tag) = false := by
    rcases htag with htag | htag <;> simp [htag]
  rw [flitReceive_eq, notUp_iff, hup, hok]
  rfl

theorem flitReceive_stale {s : State} {l : LinkId} (n : Nat) {h : Nat} {tag : Bool} (ms : List Nat)
    (hup : takesFlits (linkOf s l) = true) (htag : tagged (linkOf s l) h = false ∨ tag = true) (hl : l ≠ .aedup)
    (hgen : field h 66 6 ≠ (linkOf s l).linkGen) :
    let t := flitReceive s l n true tag h ms
    FlitSet s t l (linkOf s l) ∧ counts s t Key.PELGAN_STALE_DROPS 1 ∧ (n ≠ 0 → counts s t (fecKey l) n) := by
  obtain ⟨-, -, -, -, -, hstale, -⟩ := flitKeys_free l
  have hstep : flitReceive s l n true tag h ms = bump (fecCounted s l n) Key.PELGAN_STALE_DROPS 1 := by
    rw [flitReceive_good n ms hup htag]
    exact if_pos (by simp [hl, hgen])
  have hcounted := (linkCounted_fecCounted s l n).trans (linkCounted_setReg (k := Key.PELGAN_STALE_DROPS) _
    ((reg (fecCounted s l n) Key.PELGAN_STALE_DROPS + 1) % 2 ^ counterBits Key.PELGAN_STALE_DROPS) (mem_flitKeys l).2.2.2.2)
  dsimp only
  rw [hstep]
  refine ⟨(FlitSet.refl s l).after hcounted, reg_bump_congr 1 (reg_fecCounted s l n hstale.symm), fun hn => ?_⟩
  unfold counts
  rw [reg_bump_ne _ _ hstale]
  exact counts_fecCounted s l hn

theorem takeAck_kept (e : LinkEnd) (ack : Nat) : (takeAck e ack).recvSeq = e.recvSeq ∧ (takeAck e ack).sealedIn = e.sealedIn ∧
    (takeAck e ack).state = e.state ∧ (takeAck e ack).nakSent = e.nakSent := by
  unfold takeAck
  dsimp only
  split <;> exact ⟨rfl, rfl, rfl, rfl⟩

theorem afterHeader_kept (l : LinkId) (e : LinkEnd) (h : Nat) : (afterHeader l e h).recvSeq = e.recvSeq ∧
    (afterHeader l e h).sealedIn = e.sealedIn ∧ (afterHeader l e h).state = e.state ∧ (afterHeader l e h).nakSent = e.nakSent :=
  takeAck_kept _ _

theorem flitSet_headerTaken (s : State) (l : LinkId) (n h : Nat) :
    FlitSet s (headerTaken s l n h) l (afterHeader l (linkOf s l) h) :=
  (flitSet_settled (fecCounted s l n) l _).1.before (linkCounted_fecCounted s l n)

theorem headerTaken_posted (s : State) (l : LinkId) (n h : Nat) :
    (headerTaken s l n h).aedup.posted = stillPosted s (headerTaken s l n h).aedup.link := by
  refine (flitSet_settled (fecCounted s l n) l _).2.trans ?_
  unfold stillPosted headerTaken
  rw [(linkCounted_fecCounted s l n).same]

theorem side_flitCounted (s : State) (l : LinkId) : Side s (flitCounted s l) := by
  cases l <;> exact side_countChip _ _ _ _

/-- A message flit in order: the sequence advances, and the messages pass on (R333, R334). -/
theorem flitSet_flitTaken (s : State) (l : LinkId) (n h : Nat) :
    let u := setLink (headerTaken s l n h) l (flitTaken l (linkOf s l) h)
    FlitSet s u l { afterHeader l (linkOf s l) h with
        recvSeq := ((linkOf s l).recvSeq + 1) % 1024, nakSent := false
        sealedIn := (linkOf s l).sealedIn + (if tagged (linkOf s l) h then 1 else 0) } ∧
      u.aedup.posted = stillPosted s u.aedup.link := by
  obtain ⟨hseq, hsealed, -, -⟩ := afterHeader_kept l (linkOf s l) h
  have hset := (flitSet_headerTaken s l n h).again (flitTaken l (linkOf s l) h) rfl rfl
  refine ⟨?_, ?_⟩
  · have hend : flitTaken l (linkOf s l) h = { afterHeader l (linkOf s l) h with
        recvSeq := ((linkOf s l).recvSeq + 1) % 1024, nakSent := false
        sealedIn := (linkOf s l).sealedIn + (if tagged (linkOf s l) h then 1 else 0) } := by
      rw [flitTaken, hseq, hsealed]
    rw [← hend]
    exact hset
  · rw [setLink_posted, headerTaken_posted]
    cases l with
    | aedup =>
      have hlink := (flitSet_headerTaken s .aedup n h).link
      show stillPosted s (linkOf (headerTaken s .aedup n h) .aedup) = _
      rw [hlink]
      rfl
    | pelgan p => rfl

/-- A flit in order and of the link's generation. -/
theorem flitReceive_current {s : State} {l : LinkId} (n : Nat) {h : Nat} {tag : Bool} (ms : List Nat)
    (hup : takesFlits (linkOf s l) = true) (htag : tagged (linkOf s l) h = false ∨ tag = true)
    (hgen : l = .aedup ∨ field h 66 6 = (linkOf s l).linkGen) :
    flitReceive s l n true tag h ms =
      if field h 72 4 ∈ [2, 4, 5] then headerTaken s l n h
      else if field h 86 10 ≠ (linkOf s l).recvSeq then discardFlit (headerTaken s l n h) l
      else if field h 72 4 = 0 then
        if tagged (linkOf s l) h = true ∧ 2 ^ 48 ≤ (linkOf s l).sealedIn + 1 then startRetrain (messagesPassed s l n h ms) l
        else messagesPassed s l n h ms
      else headerTaken s l n h := by
  obtain ⟨hseq, hsealed, -, -⟩ := afterHeader_kept l (linkOf s l) h
  have hcurrent : (l != .aedup && field h 66 6 != (linkOf s l).linkGen) = false := by
    rcases hgen with hgen | hgen <;> simp [hgen]
  rw [flitReceive_good n ms hup htag, hcurrent, if_neg Bool.false_ne_true, hseq, hsealed]
  simp only [List.mem_cons, List.not_mem_nil, or_false, Bool.or_eq_true, beq_iff_eq, bne_iff_ne, Bool.and_eq_true,
    decide_eq_true_eq, or_assoc]

/-! ### NAKs, and links that make no progress (R333) -/

theorem nakArrives_idle {s : State} {l : LinkId} (ack : Nat) (h : (linkOf s l).state ≠ .active) : nakArrives s l ack = s := by
  unfold nakArrives
  dsimp only
  rw [(takeAck_kept _ _).2.2.1]
  exact if_neg (by simpa using h)

theorem nakArrives_active {s : State} {l : LinkId} (ack : Nat) (h : (linkOf s l).state = .active) : nakArrives s l ack =
    (let e := takeAck (linkOf s l) ack
    let s1 := settlePosted (setLink s l e)
    if unacked e == 0 then s1
    else
      let s2 := send (countReplay (setLink s1 l { e with replays := e.replays + 1 }) l) (.replay l e.ackSeq)
      if 16 ≤ e.replays + 1 then startRetrain s2 l else s2) := by
  unfold nakArrives
  dsimp only
  rw [(takeAck_kept _ _).2.2.1]
  exact if_pos (by simpa using h)

/-- A replay is counted, and no more than counting happens. -/
theorem side_countReplay (s : State) (l : LinkId) : Side (bump s (replayKey l) 1) (countReplay s l) := by
  cases l with
  | aedup => exact side_countChip _ _ _ _
  | pelgan p => exact .refl _

theorem replay_sends (s : State) (l : LinkId) (ack : Nat) : let t := send (countReplay s l) (.replay l ack)
    Side (bump s (replayKey l) 1) t ∧ ∃ o, t.out = .replay l ack :: (o ++ s.out) := by
  have hside := side_countReplay s l
  obtain ⟨o, ho⟩ := hside.out
  refine ⟨hside.trans (side_send _ _), o, ?_⟩
  rw [send_out, ho]
  rfl

/-- The end that a replay leaves, and what is sent (R333). -/
theorem replayed (s : State) (l : LinkId) (e : LinkEnd) :
    let u := bump (setLink (settlePosted (setLink s l e)) l { e with replays := e.replays + 1 }) (replayKey l) 1
    FlitSet s u l { e with replays := e.replays + 1 } ∧ counts s u (replayKey l) 1 ∧ u.out = s.out := by
  have hset := (flitSet_settled s l e).1.again { e with replays := e.replays + 1 } rfl rfl
  have hreg : replayKey l ∉ stateKeys := by cases l <;> dsimp only [replayKey] <;> decide
  refine ⟨hset.after (linkCounted_setReg _ _ (mem_flitKeys l).2.2.1), reg_bump_congr 1 ?_, ?_⟩
  · rw [reg_setLink _ _ _ hreg]
    exact reg_setLink _ _ _ hreg
  · exact (setLink_out _ _ _).trans (setLink_out _ _ _)

theorem nak_clauses (s : State) (l : LinkId) (ack : Nat) (h : (linkOf s l).state = .active) :
    (unacked (takeAck (linkOf s l) ack) = 0 → FlitSet s (nakArrives s l ack) l (takeAck (linkOf s l) ack) ∧
      (nakArrives s l ack).perf = s.perf) ∧
    (unacked (takeAck (linkOf s l) ack) ≠ 0 →
      ∃ u v, FlitSet s u l { takeAck (linkOf s l) ack with replays := (takeAck (linkOf s l) ack).replays + 1 } ∧
        counts s u (replayKey l) 1 ∧ Side u v ∧
        (∃ o, v.out = .replay l (takeAck (linkOf s l) ack).ackSeq :: (o ++ s.out)) ∧
        ((takeAck (linkOf s l) ack).replays + 1 < 16 → nakArrives s l ack = v) ∧
        (16 ≤ (takeAck (linkOf s l) ack).replays + 1 → nakArrives s l ack = startRetrain v l)) := by
  rw [nakArrives_active ack h]
  dsimp only
  refine ⟨fun hnone => ?_, fun hsome => ?_⟩
  · rw [if_pos (by simpa using hnone)]
    exact ⟨(flitSet_settled s l _).1, by cases l <;> rfl⟩
  · obtain ⟨hset, hcounts, hout⟩ := replayed s l (takeAck (linkOf s l) ack)
    obtain ⟨hside, o, ho⟩ := replay_sends (setLink (settlePosted (setLink s l (takeAck (linkOf s l) ack))) l
      { takeAck (linkOf s l) ack with replays := (takeAck (linkOf s l) ack).replays + 1 }) l (takeAck (linkOf s l) ack).ackSeq
    rw [if_neg (by simpa using hsome)]
    refine ⟨_, _, hset, hcounts, hside, ⟨o, ho.trans ?_⟩, fun hfew => if_neg (by omega), fun hmany => if_pos hmany⟩
    rw [← hout]
    rfl

theorem ackStall_idle {s : State} {l : LinkId} (h : (linkOf s l).state ≠ .active ∨ unacked (linkOf s l) = 0) :
    ackStall s l = s := by
  unfold ackStall
  rcases h with hstate | hnone
  · split
    · exact startRetrain_idle hstate
    · rfl
  · exact if_neg (by simp [hnone])

theorem ackStall_retrains {s : State} {l : LinkId} (h : unacked (linkOf s l) ≠ 0) : ackStall s l = startRetrain s l :=
  if_pos (by simpa using h)

/-! ### The end of a retrain (R333, R345, R440) -/

theorem linkRetrainEnd_idle {s : State} {l : LinkId} (low high : Nat) (h : (linkOf s l).state ≠ .retrain) :
    linkRetrainEnd s l low high = s := by
  have hstate : ((linkOf s l).state == .retrain) = false := beq_eq_false_iff_ne.2 h
  unfold linkRetrainEnd
  dsimp only
  rw [hstate]
  rfl

theorem linkRetrainEnd_failed {s : State} {l : LinkId} {low high : Nat} (h : (linkOf s l).state = .retrain)
    (hfail : linkEnabled s l = false ∨ linkChoice s l low high = none) : linkRetrainEnd s l low high = linkDown s l := by
  have hstate : ((linkOf s l).state == .retrain) = true := beq_iff_eq.2 h
  unfold linkRetrainEnd
  dsimp only
  rw [hstate]
  cases henabled : linkEnabled s l with
  | false => rfl
  | true =>
    have hnone := hfail.resolve_left (by rw [henabled]; decide)
    rw [hnone]
    rfl

/-- The link ACTIVE again, before what is not acknowledged is replayed. -/
def retrainTaken (s : State) (l : LinkId) (w r : Nat) : State :=
  let s1 := takeChoice s l { linkOf s l with state := .active, replays := 0, nakSent := false } w r
  if (linkOf s l).protect then openSession s1 l else s1

theorem linkRetrainEnd_passed {s : State} {l : LinkId} {low high w r : Nat} (h : (linkOf s l).state = .retrain)
    (henabled : linkEnabled s l = true) (hchoice : linkChoice s l low high = some (w, r)) :
    linkRetrainEnd s l low high =
      if unacked (linkOf s l) == 0 then wantDict (retrainTaken s l w r)
      else send (countReplay (wantDict (retrainTaken s l w r)) l) (.replay l (linkOf s l).ackSeq) := by
  have hstate : ((linkOf s l).state == .retrain) = true := beq_iff_eq.2 h
  unfold linkRetrainEnd retrainTaken
  dsimp only
  rw [hstate, henabled, hchoice]
  rfl

theorem openSession_none {s : State} {l : LinkId} (h : linkSlot s l = none) : openSession s l = s := by
  unfold openSession
  rw [h]

/-- What a retrain that ends leaves of the link and its session. -/
theorem retrain_taken (s : State) (l : LinkId) (w r : Nat) : let u := retrainTaken s l w r
    LinkSet { s with sec := u.sec, freeCount := u.freeCount } u l (retrained s l w r) ∧
      (l = .aedup → reg u Key.AEDUP_WIDTH = w ∧ reg u Key.AEDUP_RATE = r) ∧
      ((linkOf s l).protect = false → u.sec = s.sec) ∧
      (∀ k, k ≠ linkIndex l → tabGet u.sec.sessions k = tabGet s.sec.sessions k) ∧
      ((linkOf s l).protect = true → (linkSlot s l).isSome = true → (tabGet u.sec.sessions (linkIndex l)).isSome = true) ∧
      u.out = s.out ∧ u.dict = s.dict := by
  obtain ⟨hset, hshown⟩ := takeChoice_set s l { linkOf s l with state := .active, replays := 0, nakSent := false } w r
  have hsec : (takeChoice s l { linkOf s l with state := .active, replays := 0, nakSent := false } w r).sec = s.sec := by
    rw [hset.same]
  have hfree : (takeChoice s l { linkOf s l with state := .active, replays := 0, nakSent := false } w r).freeCount =
      s.freeCount := by rw [hset.same]
  have hout : (takeChoice s l { linkOf s l with state := .active, replays := 0, nakSent := false } w r).out = s.out := by
    rw [hset.same]
  have hdict : (takeChoice s l { linkOf s l with state := .active, replays := 0, nakSent := false } w r).dict = s.dict := by
    rw [hset.same]
  by_cases hkeyed : (linkOf s l).protect = true ∧ (linkSlot s l).isSome = true
  · obtain ⟨hp, hslot⟩ := hkeyed
    obtain ⟨hopened, hkey⟩ := openSession_set hset hslot
    have hu : retrainTaken s l w r = openSession (takeChoice s l _ w r) l := if_pos hp
    have hend : retrained s l w r = { linkOf s l with
        state := .active, replays := 0, nakSent := false, width := w, rate := r, sealedOut := 0, sealedIn := 0 } := by
      simp [retrained, hp, hslot]
    dsimp only
    rw [hu, hend]
    refine ⟨hopened.set, fun hl => ?_, fun hno => absurd (hp.symm.trans hno) (by decide), hopened.others, fun _ _ => hkey,
      hopened.out, ?_⟩
    · rw [reg_openSession _ _ (by decide), reg_openSession _ _ (by decide)]
      exact hshown hl
    · rw [hopened.set.same]
  · have hend : retrained s l w r = { linkOf s l with
        state := .active, replays := 0, nakSent := false, width := w, rate := r } := by
      have hno : ((linkOf s l).protect && (linkSlot s l).isSome) = false := by simpa using hkeyed
      rw [retrained, hno]
      rfl
    have hu : retrainTaken s l w r = takeChoice s l { linkOf s l with state := .active, replays := 0, nakSent := false } w r := by
      by_cases hp : (linkOf s l).protect = true
      · have hnone : linkSlot s l = none := by simpa using fun hslot => hkeyed ⟨hp, hslot⟩
        exact (if_pos hp).trans (openSession_none ((linkSlot_set hset l).trans hnone))
      · exact if_neg hp
    dsimp only
    rw [hu, hend, hsec, hfree]
    exact ⟨hset, hshown, fun _ => rfl, fun _ _ => rfl, fun hp hslot => absurd ⟨hp, hslot⟩ hkeyed, hout, hdict⟩

/-! ### Snoops (R335) -/

/-- The cache and the reads after a line has been snooped. -/
def lineDropped (s : State) (line : Nat) : State := { s with aedup := { s.aedup with
  cache := s.aedup.cache.filter (fun x => x != line)
  reads := tabMap s.aedup.reads (fun _ q => if q.line == line && q.shared then { q with snooped := true } else q) } }

theorem snpInv_active {s : State} (addr : Nat) (h : s.aedup.link.state = .active) : snpInv s addr =
    bump (send (lineDropped s (addr / 128 * 128)) (.snpRspI (addr / 128 * 128))) Key.AEDUP_SNOOPS 1 :=
  if_pos (beq_iff_eq.2 h)

theorem snpInv_idle {s : State} (addr : Nat) (h : s.aedup.link.state ≠ .active) : snpInv s addr = s :=
  if_neg (by simpa using h)

theorem reads_lineDropped (s : State) (line tag : Nat) : tabGet (lineDropped s line).aedup.reads tag =
    (tabGet s.aedup.reads tag).map (fun q => { q with snooped := q.snooped || (q.line == line && q.shared) }) := by
  unfold lineDropped
  dsimp only
  rw [tabGet_tabMap]
  refine congrArg (fun f => Option.map f _) (funext fun q => ?_)
  split
  · next hq => rw [hq, Bool.or_true]
  · next hq => rw [Bool.eq_false_iff.2 hq, Bool.or_false]

end Sys2Proof.Machine

/-! SUPPORT. Replies to device reads, the device window and the mailbox page (chapter 16, Tables 16.8 and 16.9). -/

namespace Sys2Proof.Machine

/-! ### Lines that come (R334, R335, R400) -/

theorem resumeDict_free {s : State} (hw : s.dict.waiting = none) (hb : s.dict.backlog = []) : resumeDict s = s := by
  unfold resumeDict serveBacklog
  rw [hw]
  dsimp only
  rw [if_neg (by simp), hb]

theorem dictFree_parts {s : State} (h : dictFree s = true) : s.dict.waiting = none ∧ s.dict.backlog = [] := by
  simpa [dictFree] using h

/-- The state with the line in the mirror of companion memory and its read gone. -/
def lineMirrored (s : State) (tag : Nat) (q : AedupRead) (data : Nat) : State :=
  { s with
    mem := { s.mem with comp := memPutNat s.mem.comp q.line 128 data
                        compBad := s.mem.compBad.filter (fun l => l != q.line / 128) }
    aedup := { s.aedup with reads := tabDel s.aedup.reads tag } }

/-- The state with the line in the link cache too, when it may be kept. -/
def lineCached (s : State) (tag : Nat) (q : AedupRead) (shared : Bool) (data : Nat) : State :=
  if keepsLine q shared then installLine (lineMirrored s tag q data) q.line else lineMirrored s tag q data

theorem lineCached_eq (s : State) (tag : Nat) (q : AedupRead) (shared : Bool) (data : Nat) :
    lineCached s tag q shared data = { lineMirrored s tag q data with
      aedup := { (lineMirrored s tag q data).aedup with cache := cacheAfter s q shared } } := by
  unfold lineCached cacheAfter
  split <;> rfl

theorem landLine_job {s : State} {q : AedupRead} {id : Nat} (tag : Nat) (shared : Bool) (data : Nat) (h : q.for_ = .job id) :
    landLine s tag q shared data = if (ctxOf s q.ctx).genTag != q.genTag then
        bump (lineCached s tag q shared data) Key.RESET_STALE_REPLIES 1
      else updJob (lineCached s tag q shared data) id (fun j => { j with reads := j.reads - 1 }) := by
  unfold landLine
  dsimp only
  rw [h]
  rfl

theorem landLine_service {s : State} {q : AedupRead} (tag : Nat) (shared : Bool) (data : Nat) (h : ∀ id, q.for_ ≠ .job id) :
    landLine s tag q shared data = if keepsLine q shared then lineCached s tag q shared data
      else { lineCached s tag q shared data with aedup := { (lineCached s tag q shared data).aedup with
        landed := q.line :: s.aedup.landed } } := by
  unfold landLine lineCached keepsLine
  dsimp only
  cases hfor : q.for_ with
  | job id => exact absurd hfor (h id)
  | _ => cases hkept : (shared && q.shared && !q.snooped) <;> rfl

/-- A state with a line's bytes, cache and read as they must be. -/
theorem lineCame_of {s t : State} {tag data : Nat} {q : AedupRead} {shared : Bool}
    (hmem : t.mem = (lineMirrored s tag q data).mem)
    (haedup : t.aedup = { s.aedup with
      reads := tabDel s.aedup.reads tag, cache := cacheAfter s q shared, landed := t.aedup.landed })
    (hsame : t = { s with regs := t.regs, jobs := t.jobs, mem := t.mem, aedup := t.aedup }) :
    LineCame s t tag q shared data where
  line := by rw [hmem]; exact memNat_memPutNat _ _ _ _
  outside := fun a ha => by rw [hmem]; exact memByte_memPutNat_out _ _ _ _ ha
  good := by rw [hmem]; rfl
  reads := by rw [haedup]
  cache := by rw [haedup]
  same := by
    have hmem' : t.mem = { s.mem with comp := t.mem.comp, compBad := t.mem.compBad } := by rw [hmem]; rfl
    have haedup' : t.aedup = { s.aedup with reads := t.aedup.reads, cache := t.aedup.cache, landed := t.aedup.landed } := by
      rw [haedup]
    rw [← hmem', ← haedup']
    exact hsame

theorem dataNc_comes {s : State} {tag data : Nat} {shared : Bool} {q : AedupRead} (hactive : s.aedup.link.state = .active)
    (hq : tabGet s.aedup.reads tag = some q) (hdict : (landLine s tag q shared data).dict = s.dict) (hfree : dictFree s = true) :
    dataNc s tag shared data = landLine s tag q shared data := by
  obtain ⟨hw, hb⟩ := dictFree_parts hfree
  unfold dataNc
  rw [if_neg (by simp [hactive]), hq]
  exact resumeDict_free (hdict ▸ hw) (hdict ▸ hb)

theorem dataNc_idle {s : State} {tag : Nat} (data : Nat) (shared : Bool)
    (h : s.aedup.link.state ≠ .active ∨ tabGet s.aedup.reads tag = none) : dataNc s tag shared data = s := by
  unfold dataNc
  split
  · rfl
  · next hactive => rw [h.resolve_left (not_not_intro (by simpa using hactive))]

/-- A line for a command. -/
theorem landLine_job_clauses {s : State} {tag data id : Nat} {shared : Bool} {q : AedupRead} (h : q.for_ = .job id) :
    let t := landLine s tag q shared data
    LineCame s t tag q shared data ∧ t.dict = s.dict ∧ t.aedup.landed = s.aedup.landed ∧
      ((ctxOf s q.ctx).genTag ≠ q.genTag → t.jobs = s.jobs ∧ t.regs = (bump s Key.RESET_STALE_REPLIES 1).regs) ∧
      ((ctxOf s q.ctx).genTag = q.genTag → t.regs = s.regs ∧
        ∀ k, tabGet t.jobs k = if k = id then (tabGet s.jobs id).map (fun j => { j with reads := j.reads - 1 })
          else tabGet s.jobs k) := by
  dsimp only
  rw [landLine_job tag shared data h, lineCached_eq]
  by_cases hstale : (ctxOf s q.ctx).genTag = q.genTag
  · rw [if_neg (by simpa using hstale)]
    refine ⟨lineCame_of rfl rfl rfl, rfl, rfl, fun hno => absurd hstale hno, fun _ => ⟨rfl, fun k => ?_⟩⟩
    by_cases hk : k = id
    · rw [if_pos hk, hk]
      exact updJob_get _ _ _
    · rw [if_neg hk]
      exact updJob_get_ne _ _ hk
  · rw [if_pos (by simpa using hstale)]
    exact ⟨lineCame_of rfl rfl rfl, rfl, rfl, fun _ => ⟨rfl, rfl⟩, fun hsame => absurd hsame hstale⟩

/-- A line for a table, a ring or the dictionary. -/
theorem landLine_service_clauses {s : State} {tag data : Nat} {shared : Bool} {q : AedupRead} (h : ∀ id, q.for_ ≠ .job id) :
    let t := landLine s tag q shared data
    LineCame s t tag q shared data ∧ t.dict = s.dict ∧ t.jobs = s.jobs ∧ t.regs = s.regs ∧
      t.aedup.landed = if keepsLine q shared then s.aedup.landed else q.line :: s.aedup.landed := by
  dsimp only
  rw [landLine_service tag shared data h, lineCached_eq]
  split
  · exact ⟨lineCame_of rfl rfl rfl, rfl, rfl, rfl, rfl⟩
  · exact ⟨lineCame_of rfl rfl rfl, rfl, rfl, rfl, rfl⟩

/-! ### Lines that do not read cleanly (R334, R404) -/

/-- The state with a read gone. -/
def readGone (s : State) (tag : Nat) : State := { s with aedup := { s.aedup with reads := tabDel s.aedup.reads tag } }

theorem dataErr_none {s : State} {tag : Nat} (h : tabGet s.aedup.reads tag = none) : dataErr s tag = s := by
  unfold dataErr
  rw [h]

theorem dataErr_ring {s : State} {tag n : Nat} {q : AedupRead} (hq : tabGet s.aedup.reads tag = some q)
    (h : q.for_ = .table n ∨ q.for_ = .ring n) : dataErr s tag = readGone s tag := by
  unfold dataErr
  rw [hq]
  dsimp only
  rcases h with h | h <;> rw [h] <;> rfl

theorem dataErr_dict {s : State} {tag line : Nat} {q : AedupRead} {r : Request} (hq : tabGet s.aedup.reads tag = some q)
    (h : q.for_ = .dict) (hw : s.dict.waiting = some (r, line)) (hb : s.dict.backlog = []) : dataErr s tag =
      completeRequest { readGone s tag with dict := { s.dict with waiting := none } } r Code.ECC_UNCORRECTABLE 0 0 := by
  unfold dataErr
  rw [hq]
  dsimp only
  rw [h]
  dsimp only
  rw [hw]
  refine resumeDict_free ?_ ?_ <;> rw [completeRequest_dict]
  exact hb

theorem dataErr_job {s : State} {tag id : Nat} {q : AedupRead} (hq : tabGet s.aedup.reads tag = some q)
    (h : q.for_ = .job id) : dataErr s tag = if (ctxOf s q.ctx).genTag != q.genTag then
      bump (readGone s tag) Key.RESET_STALE_REPLIES 1 else badLine (readGone s tag) id q.line := by
  unfold dataErr
  rw [hq]
  dsimp only
  rw [h]
  rfl

theorem badLine_ends {s : State} {id : Nat} (line : Nat) {j : Job} (hj : tabGet s.jobs id = some j)
    (htells : tellsWhere j.opcode = false) : badLine s id line = endJob s id Code.ECC_UNCORRECTABLE := by
  unfold badLine
  rw [hj]
  exact if_neg (by simp [htells])

theorem badLine_tells {s : State} {id : Nat} (line : Nat) {j : Job} (hj : tabGet s.jobs id = some j) (hopen : openJob j = true)
    (htells : tellsWhere j.opcode = true) : badLine s id line =
      updJob { s with mem := { s.mem with compBad := insertUp (line / 128) s.mem.compBad } } id
        (fun j => { j with reads := j.reads - 1 }) := by
  unfold badLine
  rw [hj]
  exact if_pos (by simp [htells, hopen])

theorem endJob_ends {s : State} {id : Nat} (st : Nat) {j : Job} (hj : tabGet s.jobs id = some j) (hopen : openJob j = true) :
    ends (endJob s id st) id st 0 ∧ ∀ k, k ≠ id → tabGet (endJob s id st).jobs k = tabGet s.jobs k := by
  refine ⟨ends_closed (j := j) ?_ hopen, fun k hk => (endJob_jobs s id st k).trans (if_neg hk)⟩
  rw [endJob_jobs, if_pos rfl, hj]
  rfl

/-! ### The device window (R338, Table 16.8) -/

/-- The low bytes of a longer read are a shorter one. -/
theorem memNat_mod (m : Mem) (a n k : Nat) : memNat m a (n + k) % 256 ^ n = memNat m a n := by
  induction n generalizing a with
  | zero => rw [Nat.pow_zero, Nat.mod_one]; rfl
  | succ n ih =>
    have hlong : memNat m a (n + 1 + k) = memByte m a + 256 * memNat m (a + 1) (n + k) := by rw [Nat.add_right_comm]; rfl
    have hshort : memNat m a (n + 1) = memByte m a + 256 * memNat m (a + 1) n := rfl
    have hbyte : memByte m a < 256 := BitVec.isLt _
    rw [hlong, hshort, Nat.pow_succ', Nat.mod_mul, Nat.add_mul_mod_self_left, Nat.mod_eq_of_lt hbyte,
      Nat.add_mul_div_left _ _ (by decide), Nat.div_eq_of_lt hbyte, Nat.zero_add, ih]

theorem memNat_lt (m : Mem) (a n : Nat) : memNat m a n < 256 ^ n := by
  rw [← memNat_mod m a n 0]
  exact Nat.mod_lt _ (Nat.pow_pos (by decide))

/-- An access that the device window takes (R338). -/
theorem mmioBad_false {offset words : Nat} (h : mmioBad offset words = false) :
    (words = 1 ∧ offset % 4 = 0 ∨ words = 2 ∧ offset % 8 = 0) ∧
      ((offset < 0x18 ∨ 0x100 ≤ offset ∧ offset < 0x1000) ∨
        0x100000 ≤ offset ∧ offset < 0x104000 ∧ words ≠ 2 ∧ offset % 8 = 0) := by
  simp only [mmioBad, Bool.or_eq_false_iff, Bool.not_eq_false', Bool.and_eq_false_iff, Bool.or_eq_true, Bool.and_eq_true,
    decide_eq_true_eq, beq_iff_eq, decide_eq_false_iff_not, beq_eq_false_iff_ne, bne_eq_false_iff_eq] at h
  omega

theorem mmioRd_idle {s : State} (tag offset words : Nat) (h : s.aedup.link.state ≠ .active) : mmioRd s tag offset words = s :=
  if_pos (by simpa using h)

theorem mmioRd_bad {s : State} {offset words : Nat} (tag : Nat) (h : s.aedup.link.state = .active)
    (hbad : mmioBad offset words = true) :
    mmioRd s tag offset words = send (bump s Key.AEDUP_MMIO_ERRORS 1) (.mmioData tag 0) :=
  (if_neg (by simp [h])).trans (if_pos hbad)

theorem mmioRd_good {s : State} {offset words : Nat} (tag : Nat) (h : s.aedup.link.state = .active)
    (hbad : mmioBad offset words = false) : mmioRd s tag offset words = send s (.mmioData tag (mmioValue s offset words)) :=
  (if_neg (by simp [h])).trans (if_neg (by simp [hbad]))

/-- What a read of the window returns (R338). -/
theorem mmioValue_clauses (s : State) {offset words : Nat} (hbad : mmioBad offset words = false) :
    (offset < 0x1000 → offset ≠ 0x00C → words = 1 ∨ offset ≠ 0x008 →
      mmioValue s offset words = memNat s.dict.mailbox offset (4 * words)) ∧
    (offset = 0x008 → mmioValue s offset words % 2 ^ 32 = memNat s.dict.mailbox 0x008 4 ∧
      mmioValue s offset words / 2 ^ 32 = 0) ∧
    (offset = 0x00C ∨ 0x100000 ≤ offset → mmioValue s offset words = 0) := by
  obtain ⟨hwords, -⟩ := mmioBad_false hbad
  have hlow : offset = 0x008 → mmioValue s offset words = memNat s.dict.mailbox 0x008 4 := by
    rintro rfl
    have hvalue : mmioValue s 0x008 words = memNat s.dict.mailbox 0x008 (4 * words) % 2 ^ 32 := rfl
    rw [hvalue]
    rcases hwords with ⟨rfl, -⟩ | ⟨rfl, -⟩
    · exact memNat_mod s.dict.mailbox 0x008 4 0
    · exact memNat_mod s.dict.mailbox 0x008 4 4
  refine ⟨fun hpage htrigger hlone => ?_, fun h8 => ?_, fun hzero => ?_⟩
  · by_cases h8 : offset = 0x008
    · rw [hlow h8, h8, hlone.resolve_right (not_not_intro h8)]
    · unfold mmioValue
      rw [if_neg (by omega)]
      dsimp only
      rw [if_neg (by simpa using h8), if_neg (by simpa using htrigger)]
  · rw [hlow h8]
    have hlt := memNat_lt s.dict.mailbox 0x008 4
    exact ⟨Nat.mod_eq_of_lt hlt, Nat.div_eq_of_lt hlt⟩
  · rcases hzero with rfl | hdoor
    · rfl
    · exact if_pos hdoor

/-! ### Writes of the device window (R338) -/

theorem mmioWr_idle {s : State} (offset words v : Nat) (h : s.aedup.link.state ≠ .active) : mmioWr s offset words v = s :=
  if_pos (by simpa using h)

theorem mmioWr_bad {s : State} {offset words : Nat} (v : Nat) (h : s.aedup.link.state = .active)
    (hbad : mmioBad offset words = true) : mmioWr s offset words v = bump s Key.AEDUP_MMIO_ERRORS 1 :=
  (if_neg (by simp [h])).trans (if_pos hbad)

theorem mmioWr_good {s : State} {offset words : Nat} (v : Nat) (h : s.aedup.link.state = .active)
    (hbad : mmioBad offset words = false) : mmioWr s offset words v =
      if 0x100000 ≤ offset then
        if offset % 16 == 0 then submissionDoorbell s ((offset - 0x100000) / 16) (v % 2 ^ 32)
        else completionDoorbell s ((offset - 0x100000) / 16) (v % 2 ^ 32)
      else if words == 2 then mailboxWord (mailboxWord s offset (v % 2 ^ 32)) (offset + 4) (v / 2 ^ 32 % 2 ^ 32)
      else mailboxWord s offset (v % 2 ^ 32) :=
  (if_neg (by simp [h])).trans (if_neg (by simp [hbad]))

/-- One word of the mailbox page. -/
theorem mmioWr_word {s : State} {offset : Nat} (v : Nat) (h : s.aedup.link.state = .active) (hbad : mmioBad offset 1 = false)
    (hpage : offset < 0x1000) : mmioWr s offset 1 v = mailboxWord s offset (v % 2 ^ 32) := by
  rw [mmioWr_good v h hbad, if_neg (by omega)]
  exact if_neg (by decide)

/-- A pair of words is written one by one (R338). -/
theorem mmioWr_pair {s : State} {offset : Nat} (v : Nat) (h : s.aedup.link.state = .active) (hbad : mmioBad offset 2 = false) :
    mmioWr s offset 2 v = mmioWr (mmioWr s offset 1 v) (offset + 4) 1 (v / 2 ^ 32) := by
  obtain ⟨hwords, hplace⟩ := mmioBad_false hbad
  have hfirst : mmioBad offset 1 = false := by
    simp [mmioBad]
    omega
  have hsecond : mmioBad (offset + 4) 1 = false := by
    simp [mmioBad]
    omega
  have hkeep : (mailboxWord s offset (v % 2 ^ 32)).aedup.link.state = .active := by
    unfold mailboxWord
    rw [if_neg (by rw [beq_iff_eq]; omega)]
    split <;> exact h
  rw [mmioWr_good v h hbad, if_neg (by omega), mmioWr_word v h hfirst (by omega), mmioWr_word _ hkeep hsecond (by omega)]
  rfl

end Sys2Proof.Machine

/-! OBLIGATION O58. Flits, NAKs, retrains, read replies, snoops, MMIO and the mailbox (chapter 16). -/

namespace Sys2Proof.Machine

/-! ### A request of the mailbox (R338, R339) -/

/-- The mailbox page after a reply. -/
def replyPage (page : Mem) (r : Request) (st n d : Nat) : Mem :=
  memPutNat (if r.op == 1 && isSuccess st then memWrite page 0x100 (leBytes n d) else page) 0x010 8
    (r.number % 2 ^ 32 * 2 ^ 32 + st * 2 ^ 16 + n)

theorem requestNoted_mailbox (s : State) (q : Request) (st n d : Nat) : (requestNoted s q st n d).dict.mailbox = s.dict.mailbox := by
  unfold requestNoted
  rw [(side_countChip _ _ _ _).dict]
  dsimp only
  split <;> rfl

/-- A reply to the mailbox (Table 16.9). -/
theorem completeRequest_mailbox {s : State} {q : Request} (st n d : Nat) (hq : q.path = .mailbox) :
    (completeRequest s q st n d).dict.mailboxBusy = false ∧
      (completeRequest s q st n d).dict.mailbox = replyPage s.dict.mailbox q st n d := by
  rw [completeRequest_answers, answer, show (replyOf q st n d).path = .mailbox from hq]
  exact ⟨rfl, by rw [← requestNoted_mailbox s q st n d]; rfl⟩

theorem mailboxTrigger_idle {s : State} {n : Nat} (h : s.aedup.link.state ≠ .active ∨ n % 2 ^ 32 = 0) : mailboxTrigger s n = s := by
  refine if_pos ?_
  rcases h with h | h
  · simp [h]
  · rw [h]
    exact Bool.or_true _

theorem mailboxTrigger_asks {s : State} {n : Nat} (h : s.aedup.link.state = .active) (hn : n % 2 ^ 32 ≠ 0) :
    mailboxTrigger s n = byMailbox s (mailboxRequest s (n % 2 ^ 32)) := by
  refine if_neg ?_
  have hzero : (n % 2 ^ 32 == 0) = false := beq_eq_false_iff_ne.2 hn
  rw [hzero]
  simp [h]

theorem byMailbox_busy {s : State} (q : Request) (h : s.dict.mailboxBusy = true) :
    byMailbox s q = bump s Key.AEDUP_MAILBOX_OVERRUNS 1 := if_pos h

theorem byMailbox_free {s : State} (q : Request) (h : s.dict.mailboxBusy = false) :
    byMailbox s q = arrive (atService s .mailbox) q := if_neg (by simp [h])

/-- That the mailbox is in service changes no check and no value of an entry. -/
theorem checkRequest_atService (s : State) (q : Request) : checkRequest (atService s .mailbox) q = checkRequest s q := rfl

theorem derived_atService (s : State) (k : Nat) : derived (atService s .mailbox) k = derived s k := rfl

theorem inForce_atService (s : State) (k : Nat) : inForce (atService s .mailbox) k = inForce s k := rfl

theorem undisturbed_atService (s : State) : Undisturbed s (atService s .mailbox) := by
  constructor <;> rfl

/-- A request that the service completes at once is answered in the mailbox page. -/
theorem mailboxAnswered {s t : State} {q : Request} {st n d : Nat} (hq : q.path = .mailbox)
    (ht : t = completeRequest (atService s .mailbox) q st n d) :
    Undisturbed s t ∧ t.dict.mailboxBusy = false ∧ t.dict.mailbox = replyPage s.dict.mailbox q st n d ∧
      counts s t Key.DICT_REQUESTS 1 := by
  obtain ⟨hfree, hpage⟩ := completeRequest_mailbox (s := atService s .mailbox) st n d hq
  rw [ht]
  exact ⟨(undisturbed_atService s).trans (undisturbed_completeRequest _ _ _ _ _), hfree, hpage,
    (counts_completeRequest _ _ _ _ _).1⟩

theorem replyPage_status (page : Mem) (r : Request) (st n d : Nat) : memNat (replyPage page r st n d) 0x010 8 =
    (r.number % 2 ^ 32 * 2 ^ 32 + st * 2 ^ 16 + n) % 2 ^ 64 := memNat_memPutNat _ _ _ _

/-- A reply without data writes STATUS and DONE alone. -/
theorem replyPage_outside {page : Mem} {r : Request} {st n : Nat} (d : Nat) (h : n = 0) {a : Nat} (ha : a < 0x010 ∨ 0x018 ≤ a) :
    memByte (replyPage page r st n d) a = memByte page a := by
  unfold replyPage
  rw [memByte_memPutNat_out _ _ _ _ (by omega)]
  split
  · exact memByte_memWrite_out _ _ _ (by rw [h]; simp; omega)
  · rfl

theorem memNat_congr {m w : Mem} {a n : Nat} (h : ∀ k, a ≤ k → k < a + n → memByte m k = memByte w k) : memNat m a n = memNat w a n :=
  congrArg ofLeBytes (memBytes_congr' h)

theorem replyPage_data {page : Mem} {r : Request} {st : Nat} (n d : Nat) (hop : r.op = 1) (hst : isSuccess st = true) :
    memNat (replyPage page r st n d) 0x100 n = d % 256 ^ n := by
  have hread : (r.op == 1 && isSuccess st) = true := by simp [hop, hst]
  unfold replyPage
  rw [hread, if_pos rfl, memNat_congr fun k hk _ => memByte_memPutNat_out _ _ _ _ (.inr (by omega))]
  exact memNat_memPutNat page 0x100 n d

/-- A request that a check refuses (R339, R364). -/
theorem mailbox_refused {s : State} {q : Request} {st : Nat} {r : EntryRow} (hfree : dictFree s = true)
    (hc : checkRequest s q = (st, r)) (hst : st ≠ Code.OK) :
    arrive (atService s .mailbox) q = completeRequest (atService s .mailbox) q st 0 0 := by
  obtain ⟨hw, hb⟩ := dictFree_parts hfree
  rw [arrive_of_free (s := atService s .mailbox) q hw hb]
  exact serveOne_refused ((checkRequest_atService s q).trans hc) (by simpa using hst)

/-- A read of an entry with a plain value. -/
theorem mailbox_reads {s : State} {q : Request} {r : EntryRow} (hfree : dictFree s = true) (hc : checkRequest s q = (Code.OK, r))
    (hop : q.op = 1) (hnone : derived s q.key = none) (hopen : openEntry s q.key = false)
    (hbank : q.key / 256 ∉ [0xF032, 0xF041]) (hty : r.ty ≠ .str) (hlen : q.length ≠ 0) :
    arrive (atService s .mailbox) q = completeRequest (atService s .mailbox) q Code.OK q.length
      (field (inForce s q.key) (8 * q.offset) (8 * q.length)) := by
  obtain ⟨hw, hb⟩ := dictFree_parts hfree
  have hline : enableLine (atService s .mailbox) q = none := by simp [enableLine, hop]
  rw [arrive_of_free (s := atService s .mailbox) q hw hb, serveOne_passed ((checkRequest_atService s q).trans hc) hline, if_pos (by simp [hop]),
    finishRead_plain ((derived_atService s q.key).trans hnone) hopen hbank hty hlen, inForce_atService]

theorem mailboxRequest_length (s : State) (n : Nat) : (mailboxRequest s n).length < 2 ^ 16 := Nat.mod_lt _ (by decide)

/-- The mailbox's clauses (R338, R339). -/
theorem mailbox_clauses {s : State} {n : Nat} (hactive : s.aedup.link.state = .active) (hn : n % 2 ^ 32 ≠ 0)
    (hbusy : s.dict.mailboxBusy = false) (hfree : dictFree s = true) :
    (∀ st r, checkRequest s (mailboxRequest s (n % 2 ^ 32)) = (st, r) → st ≠ Code.OK →
      ∃ t, exec (.mailboxTrigger n) s = .next t ∧ Undisturbed s t ∧ t.dict.mailboxBusy = false ∧
        memNat t.dict.mailbox 0x010 8 = (n % 2 ^ 32 * 2 ^ 32 + st * 2 ^ 16) % 2 ^ 64 ∧
        (∀ a, a < 0x010 ∨ 0x018 ≤ a → memByte t.dict.mailbox a = memByte s.dict.mailbox a) ∧
        counts s t Key.DICT_REQUESTS 1) ∧
    (∀ r, checkRequest s (mailboxRequest s (n % 2 ^ 32)) = (Code.OK, r) → (mailboxRequest s (n % 2 ^ 32)).op = 1 →
      derived s (mailboxRequest s (n % 2 ^ 32)).key = none → openEntry s (mailboxRequest s (n % 2 ^ 32)).key = false →
      (mailboxRequest s (n % 2 ^ 32)).key / 256 ∉ [0xF032, 0xF041] → r.ty ≠ .str →
      (mailboxRequest s (n % 2 ^ 32)).length ≠ 0 →
      ∃ t, exec (.mailboxTrigger n) s = .next t ∧ Undisturbed s t ∧ t.dict.mailboxBusy = false ∧
        memNat t.dict.mailbox 0x010 8 = n % 2 ^ 32 * 2 ^ 32 + (mailboxRequest s (n % 2 ^ 32)).length ∧
        memNat t.dict.mailbox 0x100 (mailboxRequest s (n % 2 ^ 32)).length =
          field (inForce s (mailboxRequest s (n % 2 ^ 32)).key) (8 * (mailboxRequest s (n % 2 ^ 32)).offset)
            (8 * (mailboxRequest s (n % 2 ^ 32)).length) ∧
        counts s t Key.DICT_REQUESTS 1) := by
  have hstep : mailboxTrigger s n = arrive (atService s .mailbox) (mailboxRequest s (n % 2 ^ 32)) := by
    rw [mailboxTrigger_asks hactive hn]
    exact byMailbox_free _ hbusy
  have hlen := mailboxRequest_length s (n % 2 ^ 32)
  have hnumber : (mailboxRequest s (n % 2 ^ 32)).number = n % 2 ^ 32 := rfl
  have hpath : (mailboxRequest s (n % 2 ^ 32)).path = .mailbox := rfl
  generalize mailboxRequest s (n % 2 ^ 32) = q at *
  refine ⟨fun st r hc hst => ?_, fun r hc hop hnone hopen hbank hty hne => ?_⟩
  · obtain ⟨hkept, hdone, hpage, hcount⟩ := mailboxAnswered hpath (mailbox_refused hfree hc hst)
    refine ⟨_, congrArg Host.Outcome.next hstep, hkept, hdone, ?_, fun a ha => ?_, hcount⟩
    · rw [hpage, replyPage_status, hnumber, Nat.mod_mod, Nat.add_zero]
    · rw [hpage]
      exact replyPage_outside 0 rfl ha
  · obtain ⟨hkept, hdone, hpage, hcount⟩ := mailboxAnswered hpath (mailbox_reads hfree hc hop hnone hopen hbank hty hne)
    refine ⟨_, congrArg Host.Outcome.next hstep, hkept, hdone, ?_, ?_, hcount⟩
    · have hok : Code.OK = 0 := rfl
      have hlt : n % 2 ^ 32 < 2 ^ 32 := Nat.mod_lt _ (by decide)
      rw [hpage, replyPage_status, hnumber, hok, Nat.mod_mod]
      omega
    · rw [hpage, replyPage_data _ _ hop rfl]
      refine Nat.mod_eq_of_lt ((Nat.mod_lt _ (Nat.two_pow_pos _)).trans_eq ?_)
      rw [Nat.pow_mul]

/-! ### The statement -/

/-- A good flit of this generation, by its kind and sequence number (R333). -/
theorem flit_clauses {s : State} {l : LinkId} (n : Nat) {h : Nat} {tag : Bool} (ms : List Nat)
    (hup : takesFlits (linkOf s l) = true) (htag : tagged (linkOf s l) h = false ∨ tag = true)
    (hgen : l = .aedup ∨ field h 66 6 = (linkOf s l).linkGen) :
    (field h 72 4 ∈ [2, 4, 5] → FlitSet s (flitReceive s l n true tag h ms) l (afterHeader l (linkOf s l) h)) ∧
    (field h 72 4 ∉ [2, 4, 5] → field h 86 10 ≠ (linkOf s l).recvSeq →
      discards s (flitReceive s l n true tag h ms) l (afterHeader l (linkOf s l) h)) ∧
    (field h 72 4 ∉ [0, 2, 4, 5] → field h 86 10 = (linkOf s l).recvSeq →
      FlitSet s (flitReceive s l n true tag h ms) l (afterHeader l (linkOf s l) h)) ∧
    (field h 72 4 = 0 → field h 86 10 = (linkOf s l).recvSeq →
      ∃ u v, FlitSet s u l { afterHeader l (linkOf s l) h with
          recvSeq := ((linkOf s l).recvSeq + 1) % 1024, nakSent := false
          sealedIn := (linkOf s l).sealedIn + (if tagged (linkOf s l) h then 1 else 0) } ∧
        u.aedup.posted = stillPosted s u.aedup.link ∧ Side u v ∧
        (tagged (linkOf s l) h = false ∨ (linkOf s l).sealedIn + 1 < 2 ^ 48 →
          flitReceive s l n true tag h ms = bump v (protocolKey l) (ms.filter (badMessage l)).length) ∧
        (tagged (linkOf s l) h = true → 2 ^ 48 ≤ (linkOf s l).sealedIn + 1 →
          flitReceive s l n true tag h ms = startRetrain (bump v (protocolKey l) (ms.filter (badMessage l)).length) l)) := by
  rw [flitReceive_current n ms hup htag hgen]
  refine ⟨fun hack => ?_, fun hkind hseq => ?_, fun hkind hseq => ?_, fun hkind hseq => ?_⟩
  · rw [if_pos hack]
    exact flitSet_headerTaken s l n h
  · rw [if_neg hkind, if_pos hseq]
    exact discards_discardFlit (flitSet_headerTaken s l n h)
  · rw [if_neg fun hk => hkind (List.mem_cons_of_mem _ hk), if_neg (not_not_intro hseq),
      if_neg fun hk => hkind (by rw [hk]; decide)]
    exact flitSet_headerTaken s l n h
  · obtain ⟨hset, hposted⟩ := flitSet_flitTaken s l n h
    rw [if_neg (show field h 72 4 ∉ [2, 4, 5] by rw [hkind]; decide), if_neg (not_not_intro hseq), if_pos hkind]
    refine ⟨_, _, hset, hposted, side_flitCounted _ l, fun hfew => if_neg ?_, fun htagged hmany => if_pos ⟨htagged, hmany⟩⟩
    rintro ⟨htagged, hmany⟩
    rcases hfew with hno | hfew
    · exact Bool.false_ne_true (hno.symm.trans htagged)
    · omega

/-- The link ACTIVE again, with a replay of what is not acknowledged (R333, R440). -/
theorem retrain_clauses {s : State} {l : LinkId} {low high w r : Nat} (h : (linkOf s l).state = .retrain)
    (henabled : linkEnabled s l = true) (hchoice : linkChoice s l low high = some (w, r)) (hwaiting : s.dict.waiting = none) :
    let u := retrainTaken s l w r
    let t := linkRetrainEnd s l low high
    (unacked (linkOf s l) = 0 → t = u) ∧
      (unacked (linkOf s l) ≠ 0 → Side (bump u (replayKey l) 1) t ∧
        ∃ o, t.out = .replay l (linkOf s l).ackSeq :: (o ++ s.out)) := by
  obtain ⟨-, -, -, -, -, hout, hdict⟩ := retrain_taken s l w r
  have hwant : wantDict (retrainTaken s l w r) = retrainTaken s l w r := wantDict_none (hdict ▸ hwaiting)
  dsimp only
  rw [linkRetrainEnd_passed h henabled hchoice, hwant]
  refine ⟨fun hnone => if_pos (by simpa using hnone), fun hsome => ?_⟩
  rw [if_neg (by simpa using hsome), ← hout]
  exact replay_sends _ _ _

/-- Settles O58, message by message: flits, NAKs, stalls, retrains, replies, snoops, the device window and the mailbox. -/
theorem flitsAndReplies : Obligations.FlitsAndReplies := by
  unfold Obligations.FlitsAndReplies
  refine ⟨fun s l n h crc tag ms => ⟨fun hdown => ?_, fun hup => ⟨?_, ?_, ?_⟩⟩, fun s l ack => ⟨fun hidle => ?_, fun hactive => ?_⟩,
    fun s l => ⟨fun hidle => ?_, fun hactive hsome => ?_⟩, fun s l low high => ⟨fun hidle => ?_, fun hrise hstate hfail => ?_,
      fun w r hstate henabled hchoice hwaiting => ?_⟩, fun s tag data shared => ⟨fun hidle => ?_, fun q hactive hq hfree => ?_⟩,
    fun s tag => ⟨fun hidle => ?_, fun q hactive hq => ⟨fun n hring => ?_, fun hdict hb r line hw => ?_,
      fun id hjob hstale => ?_, fun id j hjob hsame hj hopen => ⟨fun htells => ?_, fun htells => ?_⟩⟩⟩,
    fun s addr => ⟨fun hidle => ?_, fun hactive => ?_⟩,
    fun s tag offset words => ⟨fun hidle => ?_, fun hactive hbad => ?_, fun hactive hgood => ?_⟩,
    fun s offset words v => ⟨fun hidle => ?_, fun hactive hbad => ?_, fun hactive hgood => ⟨?_, ?_, ?_, ?_, ?_, ?_⟩⟩,
    fun s n => ⟨fun hidle => ?_, fun hactive hn => ⟨fun hbusy => ?_, fun hbusy hfree => ?_⟩⟩⟩
  · exact congrArg Host.Outcome.next (flitReceive_down n h crc tag ms hdown)
  · rintro rfl
    exact ⟨_, rfl, flitReceive_crc n h tag ms hup⟩
  · rintro rfl htagged rfl
    exact ⟨_, rfl, flitReceive_tag n ms hup htagged⟩
  · rintro rfl htag
    refine ⟨fun hl hgen => ⟨_, rfl, flitReceive_stale n ms hup htag hl hgen⟩, fun hgen => ?_⟩
    obtain ⟨hacks, hlate, hother, hmessage⟩ := flit_clauses n ms hup htag hgen
    refine ⟨fun hk => ⟨_, rfl, hacks hk⟩, fun hk hseq => ⟨_, rfl, hlate hk hseq⟩, fun hk hseq => ⟨_, rfl, hother hk hseq⟩,
      fun hk hseq => ?_⟩
    obtain ⟨u, v, hset, hposted, hside, hfew, hmany⟩ := hmessage hk hseq
    exact ⟨u, v, _, rfl, hset, hposted, hside, hfew, hmany⟩
  · exact congrArg Host.Outcome.next (nakArrives_idle ack hidle)
  · obtain ⟨hnone, hsome⟩ := nak_clauses s l ack hactive
    refine ⟨fun h => ⟨_, rfl, hnone h⟩, fun h => ?_⟩
    obtain ⟨u, v, hclauses⟩ := hsome h
    exact ⟨u, v, _, rfl, hclauses⟩
  · exact congrArg Host.Outcome.next (ackStall_idle hidle)
  · exact ⟨_, congrArg Host.Outcome.next (ackStall_retrains hsome), startRetrain_set hactive⟩
  · exact congrArg Host.Outcome.next (linkRetrainEnd_idle low high hidle)
  · exact ⟨_, congrArg Host.Outcome.next (linkRetrainEnd_failed hstate hfail), linkDown_retrain hrise hstate⟩
  · obtain ⟨hset, hshown, hplain, hothers, hkeyed, -, -⟩ := retrain_taken s l w r
    exact ⟨_, _, rfl, hset, hshown, hplain, hothers, hkeyed, retrain_clauses hstate henabled hchoice hwaiting⟩
  · exact congrArg Host.Outcome.next (dataNc_idle data shared hidle)
  · by_cases hjob : ∃ id, q.for_ = .job id
    · obtain ⟨id, hjob⟩ := hjob
      obtain ⟨hcame, hdict, hlanded, hstale, hfresh⟩ := landLine_job_clauses (s := s) (tag := tag) (data := data)
        (shared := shared) hjob
      refine ⟨_, congrArg Host.Outcome.next (dataNc_comes hactive hq hdict hfree), hcame, fun i hi => ?_,
        fun hno => absurd hjob (hno id)⟩
      cases ReadFor.job.inj (hjob.symm.trans hi)
      exact ⟨hlanded, hstale, hfresh⟩
    · have hno : ∀ id, q.for_ ≠ .job id := fun id hid => hjob ⟨id, hid⟩
      obtain ⟨hcame, hdict, hrest⟩ := landLine_service_clauses (s := s) (tag := tag) (data := data) (shared := shared) hno
      exact ⟨_, congrArg Host.Outcome.next (dataNc_comes hactive hq hdict hfree), hcame, fun i hi => absurd hi (hno i),
        fun _ => hrest⟩
  · refine congrArg Host.Outcome.next ?_
    split
    · next hactive => exact dataErr_none (hidle.resolve_left (not_not_intro (beq_iff_eq.1 hactive)))
    · rfl
  · exact congrArg Host.Outcome.next ((if_pos (beq_iff_eq.2 hactive)).trans (dataErr_ring hq hring))
  · refine ⟨_, congrArg Host.Outcome.next ((if_pos (beq_iff_eq.2 hactive)).trans (dataErr_dict hq hdict hw hb)), ?_, ?_, ?_, ?_, ?_,
      ?_, ?_⟩
    · rw [completeRequest_dict]
    · rw [completeRequest_dict]
    · rw [completeRequest_aedup]
      rfl
    all_goals simp [readGone]
  · refine congrArg Host.Outcome.next ((if_pos (beq_iff_eq.2 hactive)).trans ((dataErr_job hq hjob).trans ?_))
    exact if_pos (by simpa using hstale)
  · have hstep := (dataErr_job hq hjob).trans (if_neg (by simpa using hsame))
    have hend := hstep.trans (badLine_ends (s := readGone s tag) q.line hj htells)
    obtain ⟨hends, hothers⟩ := endJob_ends (s := readGone s tag) Code.ECC_UNCORRECTABLE hj hopen
    exact ⟨_, congrArg Host.Outcome.next ((if_pos (beq_iff_eq.2 hactive)).trans hend), hends, hothers, onlyOutcome_endJob _ _ _⟩
  · have hstep := (dataErr_job hq hjob).trans (if_neg (by simpa using hsame))
    have hend := hstep.trans (badLine_tells (s := readGone s tag) q.line hj hopen htells)
    refine ⟨_, congrArg Host.Outcome.next ((if_pos (beq_iff_eq.2 hactive)).trans hend), ?_, fun k hk => ?_, rfl, rfl, rfl⟩
    · exact (updJob_get _ _ _).trans (congrArg (Option.map _) hj)
    · exact updJob_get_ne _ _ hk
  · exact congrArg Host.Outcome.next (snpInv_idle addr hidle)
  · refine ⟨lineDropped s (addr / 128 * 128), _, congrArg Host.Outcome.next (snpInv_active addr hactive), ?_, fun x hx => ?_,
      fun tag => reads_lineDropped s _ tag, rfl, side_bumped 1 (side_send _ _) (by decide), ?_⟩
    · simp [lineDropped]
    · simp [lineDropped, hx]
    · exact send_out _ _
  · exact congrArg Host.Outcome.next (mmioRd_idle tag offset words hidle)
  · exact ⟨_, congrArg Host.Outcome.next (mmioRd_bad tag hactive hbad), side_send _ _, send_out _ _⟩
  · exact ⟨mmioValue s offset words, _, congrArg Host.Outcome.next (mmioRd_good tag hactive hgood), side_send _ _, send_out _ _,
      mmioValue_clauses s hgood⟩
  · exact congrArg Host.Outcome.next (mmioWr_idle offset words v hidle)
  · exact congrArg Host.Outcome.next (mmioWr_bad v hactive hbad)
  · rintro q rfl
    refine congrArg Host.Outcome.next ((mmioWr_good v hactive hgood).trans ?_)
    rw [if_pos (by omega), if_pos (by rw [beq_iff_eq]; omega), show (0x100000 + 16 * q - 0x100000) / 16 = q by omega]
  · rintro q rfl
    refine congrArg Host.Outcome.next ((mmioWr_good v hactive hgood).trans ?_)
    rw [if_pos (by omega), if_neg (by rw [beq_iff_eq]; omega), show (0x100008 + 16 * q - 0x100000) / 16 = q by omega]
  · rintro rfl
    obtain ⟨hwords, -⟩ := mmioBad_false hgood
    obtain rfl : words = 1 := by omega
    exact congrArg Host.Outcome.next (mmioWr_word v hactive hgood (by decide))
  · rintro rfl hread
    simp only [List.mem_cons, List.not_mem_nil, or_false] at hread
    rcases hread with rfl | rfl <;> exact congrArg Host.Outcome.next (mmioWr_word v hactive hgood (by decide))
  · rintro rfl hpage hplain
    simp only [List.mem_cons, List.not_mem_nil, or_false, not_or] at hplain
    obtain ⟨h0C, h10, h14⟩ := hplain
    have hstep : mmioWr s offset 1 v =
        { s with dict := { s.dict with mailbox := memPutNat s.dict.mailbox offset 4 (v % 2 ^ 32) } } := by
      rw [mmioWr_word v hactive hgood hpage]
      exact (if_neg (by simpa using h0C)).trans (if_neg (by simp [h10, h14]))
    refine ⟨_, congrArg Host.Outcome.next hstep, rfl, ?_, fun a ha => memByte_memPutNat_out _ _ _ _ ha⟩
    exact (memNat_memPutNat _ _ _ _).trans (Nat.mod_mod _ _)
  · rintro rfl
    exact ⟨_, rfl, congrArg Host.Outcome.next (mmioWr_pair v hactive hgood)⟩
  · exact congrArg Host.Outcome.next (mailboxTrigger_idle hidle)
  · exact congrArg Host.Outcome.next ((mailboxTrigger_asks hactive hn).trans (byMailbox_busy _ hbusy))
  · exact mailbox_clauses hactive hn hbusy hfree

end Sys2Proof.Machine

/-! SUPPORT. The drain of a teardown: the commands that it ends and the units and pages that return (R399). -/

namespace Sys2Proof.Machine

/-! ### Units that are given back -/

theorem releaseUnits_memory (s : State) (us : List Nat) : (releaseUnits s us).mem = { s.mem with
    units := (releaseUnits s us).mem.units, dev := (releaseUnits s us).mem.dev, freeing := (releaseUnits s us).mem.freeing } := by
  unfold releaseUnits
  refine List.foldlRecOn us _ (motive := fun t : State => t.mem = { s.mem with
    units := t.mem.units, dev := t.mem.dev, freeing := t.mem.freeing }) rfl fun t ht u _ => ?_
  rw [ht]

theorem releaseUnits_cons (s : State) (u : Nat) (us : List Nat) : ∃ t : State, releaseUnits s (u :: us) = releaseUnits t us ∧
    t.mem.units = tabDel s.mem.units u ∧ t.mem.dev = memClear s.mem.dev (u * unitBytes) unitBytes := ⟨_, rfl, rfl, rfl⟩

theorem releaseUnits_units (s : State) (us : List Nat) (k : Nat) :
    tabGet (releaseUnits s us).mem.units k = if k ∈ us then none else tabGet s.mem.units k := by
  induction us generalizing s with
  | nil => rfl
  | cons u us ih =>
    obtain ⟨t, ht, hunits, -⟩ := releaseUnits_cons s u us
    rw [ht, ih, hunits]
    by_cases hk : k = u
    · simp [hk]
    · rw [tabGet_tabDel_ne _ hk]
      simp [hk]

theorem releaseUnits_bytes (s : State) (us : List Nat) (a : Nat) :
    memByte (releaseUnits s us).mem.dev a = if a / unitBytes ∈ us then 0 else memByte s.mem.dev a := by
  have hpos : 0 < unitBytes := by decide
  induction us generalizing s with
  | nil => rfl
  | cons u us ih =>
    obtain ⟨t, ht, -, hdev⟩ := releaseUnits_cons s u us
    have hrange : (u * unitBytes ≤ a ∧ a < u * unitBytes + unitBytes) ↔ a / unitBytes = u := by
      rw [Nat.div_eq_iff hpos]
      omega
    rw [ht, ih, hdev, memByte_memClear]
    by_cases hu : a / unitBytes = u
    · rw [if_pos (hrange.2 hu)]
      simp [hu]
    · rw [if_neg (mt hrange.1 hu)]
      simp [hu]

/-! ### Commands that a drain ends -/

theorem progressOf_same (s : State) (c : Nat) : progressOf s c = { s with ctxs := (progressOf s c).ctxs } := by
  unfold progressOf
  split <;> rfl

theorem finish_same (s : State) (id st r : Nat) : finish s id st r = { s with
    jobs := (finish s id st r).jobs, array := (finish s id st r).array, queries := (finish s id st r).queries
    ctxs := (finish s id st r).ctxs } := by
  unfold finish
  split
  · dsimp only
    rw [progressOf_same]
    split <;> rfl
  · rfl

/-- Only the context of a command makes progress when it ends. -/
theorem ctxOf_finish_ne {s : State} {id d : Nat} {j : Job} (st r : Nat) (hj : tabGet s.jobs id = some j) (hd : d ≠ j.ctx) :
    ctxOf (finish s id st r) d = ctxOf s d := by
  have hprogress : ∀ t : State, ctxOf (progressOf t j.ctx) d = ctxOf t d := fun t => by
    unfold progressOf
    split
    · exact ctxOf_setCtx_ne _ _ hd
    · rfl
  unfold finish
  rw [hj]
  dsimp only
  rw [hprogress]
  unfold ctxOf
  dsimp only
  split <;> rfl

/-- The commands of a list are finished with their statuses. -/
def finishAll (s : State) (st : Nat × Job → Nat) (l : List (Nat × Job)) : State :=
  l.foldl (fun t p => finish t p.1 (st p) 0) s

theorem finishAll_same (s : State) (st : Nat × Job → Nat) (l : List (Nat × Job)) : finishAll s st l = { s with
    jobs := (finishAll s st l).jobs, array := (finishAll s st l).array, queries := (finishAll s st l).queries
    ctxs := (finishAll s st l).ctxs } :=
  List.foldlRecOn l _ (motive := fun t : State => t = { s with jobs := t.jobs, array := t.array, queries := t.queries, ctxs := t.ctxs })
    rfl fun t ht p _ => by
      rw [finish_same, ht]

theorem finishAll_jobs_ne (st : Nat × Job → Nat) (l : List (Nat × Job)) (s : State) {i : Nat} (h : i ∉ l.map Prod.fst) :
    tabGet (finishAll s st l).jobs i = tabGet s.jobs i :=
  List.foldlRecOn l _ (motive := fun t : State => tabGet t.jobs i = tabGet s.jobs i) rfl fun t ht p hp =>
    (finish_get_ne t (st p) 0 (ne_of_mem_of_not_mem (List.mem_map_of_mem hp) h).symm).trans ht

/-- Each command of the list ends with its status; only contexts of the list make progress. -/
theorem finishAll_ends (st : Nat × Job → Nat) {l : List (Nat × Job)} {s : State} {c : Nat} (hnodup : (l.map Prod.fst).Nodup)
    (hget : ∀ p ∈ l, tabGet s.jobs p.1 = some p.2) (hctx : ∀ p ∈ l, p.2.ctx = c) :
    (∀ p ∈ l, ends (finishAll s st l) p.1 (st p) 0) ∧ ∀ d, d ≠ c → ctxOf (finishAll s st l) d = ctxOf s d := by
  induction l generalizing s with
  | nil => exact ⟨fun p hp => absurd hp List.not_mem_nil, fun _ _ => rfl⟩
  | cons q l ih =>
    obtain ⟨hq, hrest⟩ := List.nodup_cons.1 hnodup
    have hne : ∀ p ∈ l, p.1 ≠ q.1 := fun p hp h => hq (h ▸ List.mem_map_of_mem hp)
    obtain ⟨hends, hctxs⟩ := ih (s := finish s q.1 (st q) 0) hrest
      (fun p hp => (finish_get_ne s _ 0 (hne p hp)).trans (hget p (List.mem_cons_of_mem _ hp)))
      (fun p hp => hctx p (List.mem_cons_of_mem _ hp))
    refine ⟨fun p hp => ?_, fun d hd => (hctxs d hd).trans ?_⟩
    · rcases List.mem_cons.1 hp with rfl | hp
      · have hkept := finishAll_jobs_ne st l (finish s p.1 (st p) 0) hq
        rw [finish_get (st p) 0 (hget p List.mem_cons_self)] at hkept
        show ends (finishAll (finish s p.1 (st p) 0) st l) p.1 (st p) 0
        rw [ends, hkept]
        rfl
      · exact hends p hp
    · exact ctxOf_finish_ne _ _ (hget q List.mem_cons_self) (by rw [hctx q List.mem_cons_self]; exact hd)

/-! ### The end of a drain (R399) -/

/-- The commands that the drain of a teardown ends. -/
def drainList (s : State) (c : Nat) : List (Nat × Job) :=
  (openJobsOf s c).filter (fun p => p.2.opcode != 0x21 || (ctxOf s c).freeAfter)

theorem mem_drainList {s : State} {c : Nat} {p : Nat × Job} : p ∈ drainList s c ↔ p ∈ s.jobs ∧ drains s c p.2 = true := by
  simp only [drainList, openJobsOf, jobsOf, List.mem_filter, drains, Bool.and_eq_true, and_assoc]
  rfl

/-- The context that a drain leaves. -/
def drainedCtx (x : Ctx) : Ctx :=
  if x.freeAfter then { genTag := x.genTag, used := true, cached := x.cached, lastUse := x.lastUse }
  else { x with state := .faulted, quads := [], openUnits := [], blame := none }

/-- The state in which the commands have ended and the quads are due. -/
def drainCommands (s : State) (c : Nat) : State :=
  let t := finishAll s (fun p => drainStatus (ctxOf s c) p.1 p.2) (drainList s c)
  { t with chip := { t.chip with quadsDue := t.chip.quadsDue ++ (ctxOf s c).quads } }

theorem drainStatus_eq (x : Ctx) (p : Nat × Job) : drainStatus x p.1 p.2 =
    if p.2.opcode == 0x21 && x.freeAfter then Code.OK else match x.blame with
      | some (j, st) => if j == p.1 then st else Code.CTX_TORN_DOWN
      | none => Code.CTX_TORN_DOWN := by
  have hcode : Op.CTX_FREE = 0x21 := rfl
  unfold drainStatus
  rw [hcode]
  by_cases hfree : p.2.opcode = 0x21 ∧ x.freeAfter = true
  · rw [if_pos hfree, if_pos (by simpa using hfree)]
  · rw [if_neg hfree, if_neg (by simpa using hfree)]
    cases x.blame with
    | none => rfl
    | some b => simp only [beq_iff_eq]

theorem drainEnd_eq {s : State} {c : Nat} (h : (ctxOf s c).state = .tearingDown) : drainEnd s c =
    setCtx (dropPages (releaseUnits (drainCommands s c) (drainUnits s c)) c) c (drainedCtx (ctxOf s c)) := by
  have hstatus : (fun p => drainStatus (ctxOf s c) p.1 p.2) = fun p : Nat × Job =>
      if p.2.opcode == 0x21 && (ctxOf s c).freeAfter then Code.OK else match (ctxOf s c).blame with
        | some (j, st) => if j == p.1 then st else Code.CTX_TORN_DOWN
        | none => Code.CTX_TORN_DOWN := funext fun p => drainStatus_eq _ p
  unfold drainEnd drainCommands drainedCtx drainUnits drainList
  dsimp only
  rw [if_pos (by rw [h]; rfl), hstatus]
  cases (ctxOf s c).freeAfter <;> rfl

theorem drainEnd_idle {s : State} {c : Nat} (h : (ctxOf s c).state ≠ .tearingDown) : drainEnd s c = s :=
  if_neg (by simpa using h)

theorem drainCommands_same (s : State) (c : Nat) : drainCommands s c = { s with
    jobs := (drainCommands s c).jobs, array := (drainCommands s c).array, queries := (drainCommands s c).queries
    ctxs := (drainCommands s c).ctxs, chip := (drainCommands s c).chip } := by
  unfold drainCommands
  rw [finishAll_same]

theorem drainCommands_chip (s : State) (c : Nat) :
    (drainCommands s c).chip = { s.chip with quadsDue := s.chip.quadsDue ++ (ctxOf s c).quads } := by
  unfold drainCommands
  rw [finishAll_same]

/-- A drain keeps every entry but those of the pages. -/
theorem reg_drainEnd {s : State} (c : Nat) {k : Nat} (h1 : k ≠ Key.GEN_PAGES_IN_USE) (h2 : k ≠ Key.GEN_PAGES_RETURNED) :
    reg (drainEnd s c) k = reg s k := by
  by_cases hstate : (ctxOf s c).state = .tearingDown
  · rw [drainEnd_eq hstate]
    refine (reg_setReg_ne _ _ h1).trans ((reg_bump_ne _ _ h2).trans ?_)
    have hregs : (drainCommands s c).regs = s.regs := by rw [drainCommands_same]
    exact reg_congr ((releaseUnits_regs _ _).trans hregs) k
  · rw [drainEnd_idle hstate]

/-- The context after the drain, and the chip. -/
theorem drainEnd_ctx {s : State} {c : Nat} (h : (ctxOf s c).state = .tearingDown) :
    ctxOf (drainEnd s c) c = drainedCtx (ctxOf s c) ∧
      (drainEnd s c).chip = { s.chip with quadsDue := s.chip.quadsDue ++ (ctxOf s c).quads } := by
  rw [drainEnd_eq h]
  exact ⟨ctxOf_setCtx_self _ _ _, (releaseUnits_chip _ _).trans (drainCommands_chip s c)⟩

/-- The drain of a teardown, from its parts. -/
theorem drainEnd_ends {s : State} {c : Nat} (hrise : s.keysRise) (h : (ctxOf s c).state = .tearingDown) :
    DrainEnds s (drainEnd s c) c := by
  have hsame := drainCommands_same s c
  have hsub : (drainList s c).Sublist s.jobs := List.filter_sublist.trans (List.filter_sublist.trans List.filter_sublist)
  have hnodup : ((drainList s c).map Prod.fst).Nodup :=
    (((rising_iff _).1 hrise.1).sublist hsub).map _ (fun _ _ hlt => Nat.ne_of_lt hlt)
  obtain ⟨hends, hctxs⟩ := finishAll_ends (fun p => drainStatus (ctxOf s c) p.1 p.2) hnodup
    (fun p hp => tabGet_of_mem hrise.1 (mem_drainList.1 hp).1) (c := c) (fun p hp => by
      have hdrains := (mem_drainList.1 hp).2
      simp only [drains, Bool.and_eq_true, beq_iff_eq] at hdrains
      exact hdrains.1.1)
  have hjobs : (drainEnd s c).jobs = (drainCommands s c).jobs := by
    rw [drainEnd_eq h]
    exact releaseUnits_jobs _ _
  have hmem : (drainEnd s c).mem = (releaseUnits (drainCommands s c) (drainUnits s c)).mem := by
    rw [drainEnd_eq h]
    rfl
  have hmem0 : (drainCommands s c).mem = s.mem := by rw [hsame]
  constructor
  case ctx => exact (drainEnd_ctx h).1
  case chip => exact (drainEnd_ctx h).2
  case others =>
    intro d hd
    rw [drainEnd_eq h, ctxOf_setCtx_ne _ _ hd]
    refine Eq.trans ?_ (hctxs d hd)
    exact congrArg (fun t => (tabGet t d).getD {}) (releaseUnits_ctxs _ _)
  case ended =>
    intro id j hj hdrains
    have hend := hends (id, j) (mem_drainList.2 ⟨tabGet_mem hj, hdrains⟩)
    rw [ends, hjobs]
    exact hend
  case jobs =>
    intro id hno
    rw [hjobs]
    refine finishAll_jobs_ne _ _ s fun hid => ?_
    obtain ⟨p, hp, rfl⟩ := List.mem_map.1 hid
    obtain ⟨hin, hdrains⟩ := mem_drainList.1 hp
    exact Bool.false_ne_true ((hno p.2 (tabGet_of_mem hrise.1 hin)).symm.trans hdrains)
  case pages => rw [drainEnd_eq h]; exact congrArg (List.filter _) ((releaseUnits_kv _ _).trans (by rw [hsame]))
  case pagesInUse =>
    rw [drainEnd_eq h]
    exact reg_setReg_self _ _ _
  case units =>
    intro u
    rw [hmem, releaseUnits_units, hmem0]
  case bytes =>
    intro a
    rw [hmem, releaseUnits_bytes, hmem0]
  case comp => rw [hmem, releaseUnits_memory, hmem0]
  case durable => rw [hmem, releaseUnits_memory, hmem0]
  case settings => exact fun k hk => reg_drainEnd c (by rintro rfl; exact absurd hk (by decide)) (by rintro rfl; exact absurd hk (by decide))
  all_goals
    rw [drainEnd_eq h, hsame]
    simp

end Sys2Proof.Machine

/-! SUPPORT. Hangs of units, controller and channel resets, region resets and skid samples (chapters 8, 20 and 22). -/

namespace Sys2Proof.Machine

/-! ### A fault that is logged -/

/-- A fault of a context that stands or is torn down is logged (R401). -/
theorem logged_fenceBy {s v : State} {c : Nat} (st : Nat) (b : Option Nat) (u : LogUnit) (i : Nat)
    (h : standing (ctxOf v c) = true ∨ (ctxOf v c).state = .tearingDown) (hlog : v.log = s.log) (hbeat : beatNow v = beatNow s) :
    logged s (fenceBy v c st b false u i) u i st c := by
  refine logged_logError u i st c .teardown 0 hlog hbeat ?_
  rcases h with hstands | hdown
  · have hstate := (standing_iff _).1 hstands
    unfold fenceBy
    simp only [List.mem_cons, List.not_mem_nil, or_false] at hstate
    rcases hstate with h | h | h | h | h <;> simp only [h] <;> (split <;> split <;> simp)
  · unfold fenceBy
    simp only [hdown]

theorem fenceBy_down {s : State} {c : Nat} (st : Nat) (b : Option Nat) (a : Bool) (u : LogUnit) (i : Nat)
    (h : (ctxOf s c).state = .tearingDown) : fenceBy s c st b a u i = logError s u i st c .teardown 0 := by
  unfold fenceBy
  simp only [h]

theorem standing_down {x : Ctx} (h : x.state = .tearingDown) : standing x = false := by
  unfold standing
  rw [h]
  rfl

/-- A context that is torn down keeps its record when a block is quarantined. -/
theorem ctxOf_quarantine_down {s : State} {c : Nat} (b st : Nat) (h : (ctxOf s c).state = .tearingDown) :
    ctxOf (quarantine s b st) c = ctxOf s c := by
  unfold quarantine quarantineAs
  split
  · dsimp only
    rw [ctxOf, notify_ctxs]
    dsimp only
    split
    · next d _ =>
      refine (ctxOf_fenceBy_all _ d Code.CTX_FAULT none _ _ c).trans (if_neg ?_)
      rintro ⟨rfl, hstands⟩
      exact Bool.false_ne_true ((standing_down h).symm.trans hstands)
    · rfl
  · rfl

/-! ### Moves that a controller or channel reset gives up (Table 8.7) -/

/-- Of a machine, only counters, commands and units' homes and moves differ. -/
structure MovesGiven (s t : State) : Prop where
  same : t = { s with regs := t.regs, jobs := t.jobs, mem := { s.mem with units := t.mem.units } }

theorem movesGiven_moveAbandon (s : State) (u : Nat) : MovesGiven s (moveAbandon s u) := by
  cases hx : tabGet s.mem.units u with
  | none =>
    have hidle : moveAbandon s u = s := by unfold moveAbandon; rw [hx]
    exact ⟨by rw [hidle]⟩
  | some x =>
    cases hm : x.move with
    | none =>
      have hidle : moveAbandon s u = s := by unfold moveAbandon; rw [hx]; dsimp only; rw [hm]
      exact ⟨by rw [hidle]⟩
    | some m =>
      have hstep : moveAbandon s u = tellMover (moveAbandoned s u x m) m.cause true := by
        unfold moveAbandon
        rw [hx]
        dsimp only
        rw [hm]
        rfl
      obtain ⟨js, hjs⟩ := tellMover_jobsOnly (moveAbandoned s u x m) m.cause true
      refine ⟨?_⟩
      rw [hstep, hjs]
      unfold moveAbandoned
      dsimp only
      split <;> rfl

theorem movesGiven_abandonWhere (s : State) (p : Nat → UnitInfo → Move → Bool) : MovesGiven s (abandonWhere s p) := by
  unfold abandonWhere
  refine List.foldlRecOn _ _ (motive := MovesGiven s) ⟨rfl⟩ fun t ht q _ => ⟨?_⟩
  rw [(movesGiven_moveAbandon t q.1).same, ht.same]

/-- What the reset of a stack's controller leaves. -/
theorem startStackReset_clauses (s : State) (k : Nat) : (stackOf (startStackReset s k) k).resetting = true ∧
    (stackOf (startStackReset s k) k).selfRefresh = true ∧ (startStackReset s k).mem.dev = s.mem.dev ∧
    (startStackReset s k).queues = s.queues := by
  have hstack : stackOf (startStackReset s k) k = { stackOf s k with resetting := true, selfRefresh := true } := by
    unfold startStackReset
    dsimp only
    rw [(movesGiven_abandonWhere _ _).same]
    exact congrArg (fun x : Option Stack => x.getD {}) (tabGet_tabSet_self _ _ _)
  rw [hstack]
  refine ⟨rfl, rfl, ?_, ?_⟩ <;>
  · unfold startStackReset
    dsimp only
    rw [(movesGiven_abandonWhere _ _).same]
    rfl

/-- Of a machine, only counters, commands, the log, channels and units' moves differ. -/
structure ChannelsReset (s t : State) : Prop where
  same : t = { s with regs := t.regs, jobs := t.jobs, log := t.log, freeCount := t.freeCount
                      mem := { s.mem with units := t.mem.units, channels := t.mem.channels } }

theorem ChannelsReset.trans {s t u : State} (h : ChannelsReset s t) (k : ChannelsReset t u) : ChannelsReset s u :=
  ⟨by rw [k.same, h.same]⟩

/-- The state in which a channel is shown resetting, logged and counted. -/
def channelNoted (s : State) (c : Nat) (x : Channel) : State :=
  bump (logError { s with mem := { s.mem with channels := tabSet s.mem.channels c { x with resetting := true } } }
    .flashChannel c Code.OK noCtx .channelReset 0) Key.FLASH_CHANNEL_RESETS 1

theorem startChannelReset_up {s : State} {c : Nat} {x : Channel} (hx : tabGet s.mem.channels c = some x) (hup : x.up = true)
    (hfree : x.resetting = false) : ∃ p, startChannelReset s c = abandonWhere (channelNoted s c x) p := by
  unfold startChannelReset channelNoted
  rw [hx]
  dsimp only
  rw [if_pos (by simp [hup, hfree])]
  exact ⟨_, rfl⟩

theorem channelsReset_start (s : State) (c : Nat) : ChannelsReset s (startChannelReset s c) := by
  cases hx : tabGet s.mem.channels c with
  | none =>
    have hidle : startChannelReset s c = s := by unfold startChannelReset; rw [hx]
    exact ⟨by rw [hidle]⟩
  | some x =>
    by_cases hup : (x.up && !x.resetting) = true
    · obtain ⟨p, hp⟩ := startChannelReset_up hx (by simp at hup; exact hup.1) (by simp at hup; exact hup.2)
      refine ⟨?_⟩
      rw [hp, (movesGiven_abandonWhere (channelNoted s c x) p).same]
      rfl
    · have hidle : startChannelReset s c = s := by
        unfold startChannelReset
        rw [hx]
        exact if_neg hup
      exact ⟨by rw [hidle]⟩

/-- What the reset of a flash channel leaves. -/
theorem startChannelReset_clauses {s : State} {c : Nat} {x : Channel} (hx : tabGet s.mem.channels c = some x) (hup : x.up = true)
    (hfree : x.resetting = false) : tabGet (startChannelReset s c).mem.channels c = some { x with resetting := true } ∧
      (startChannelReset s c).mem.durable = s.mem.durable ∧ (startChannelReset s c).queues = s.queues := by
  have hsame := (channelsReset_start s c).same
  refine ⟨?_, by rw [hsame], by rw [hsame]⟩
  obtain ⟨p, hp⟩ := startChannelReset_up hx hup hfree
  rw [hp, (movesGiven_abandonWhere (channelNoted s c x) p).same]
  exact tabGet_tabSet_self _ _ _

theorem channelsReset_region (s : State) (r : Nat) : ChannelsReset s (resetChannels s r) := by
  unfold resetChannels
  refine List.foldlRecOn _ _ (motive := ChannelsReset s) ⟨rfl⟩ fun t ht c _ => ht.trans ⟨?_⟩
  dsimp only
  rw [(channelsReset_start t c).same]

/-! ### Region resets (R398) -/

/-- What neither a fault, nor a drain, nor the loss of a region's own state writes is kept when a region reset begins. -/
theorem reg_startRegionReset {s : State} {r k : Nat} (hr : r ∉ s.chip.resetting) (hfault : faultKey k = false)
    (h1 : k ≠ Key.GEN_PAGES_IN_USE) (h2 : k ≠ Key.GEN_PAGES_RETURNED) (h3 : k ≠ Key.PERF_SAMPLE_COUNT r)
    (h4 : k ≠ Key.PERF_SAMPLE_RELEASE r) (h5 : k ≠ Key.POWER_STATE) (h6 : k ≠ Key.POWER_REGION_SLEEP_MAP) :
    reg (startRegionReset s r) k = reg (bump s Key.RESET_REGION_RESETS 1) k := by
  have hempty : reg (zeroRegionCounts (loseRegion (emptyRegion s r) r) r) k = reg s k := by
    unfold zeroRegionCounts
    dsimp only
    rw [reg_setReg_ne _ _ h4, reg_setReg_ne _ _ h3]
    show reg (emptyRegion s r) k = reg s k
    unfold emptyRegion
    dsimp only
    refine (List.foldlRecOn _ _ (motive := fun t : State => reg t k = reg _ k) rfl fun t ht p _ => ?_).trans
      (List.foldlRecOn _ _ (motive := fun t : State => reg t k = reg s k) rfl fun t ht c _ => ?_)
    · rw [← ht, finish_same]
      rfl
    · rw [reg_drainEnd c h1 h2, reg_faultCtx _ _ _ hfault, ht]
  unfold startRegionReset
  rw [if_neg (by simpa using hr)]
  dsimp only
  rw [reg_showPower_ne _ h5]
  refine (reg_setReg_ne _ _ h6).trans ?_
  by_cases hk : k = Key.RESET_REGION_RESETS
  · rw [hk] at hempty ⊢
    exact reg_bump_congr 1 hempty
  · rw [reg_bump_ne _ _ hk, reg_bump_ne _ _ hk]
    exact hempty

/-- The Aedup link, once ACTIVE, is ACTIVE or in RETRAIN. -/
def aedupUp (s : State) : Prop := s.aedup.link.state = .active ∨ s.aedup.link.state = .retrain

theorem aedupUp_of_side {s t : State} (h : Side s t) (hup : aedupUp s) : aedupUp t := by
  rcases h.linkState with hsame | ⟨-, hretrain⟩
  · rw [aedupUp, hsame]
    exact hup
  · exact .inr hretrain

theorem aedupUp_foldl {α : Type} {f : State → α → State} (h : ∀ t a, aedupUp t → aedupUp (f t a)) (l : List α) {s : State}
    (hup : aedupUp s) : aedupUp (l.foldl f s) :=
  List.foldlRecOn l f (motive := aedupUp) hup fun t ht a _ => h t a ht

theorem aedupUp_regroup {s : State} (serials : List Nat) (cables : List (Nat × Nat × Nat × Nat)) (latency : Nat)
    (hup : aedupUp s) : aedupUp (regroup s serials cables latency) := by
  unfold regroup layOutGroup
  dsimp only
  refine aedupUp_foldl (fun t x ht => ?_) _ hup
  split
  · exact ht
  · refine aedupUp_foldl (fun u _ hu => aedupUp_of_side (side_send u _) hu) _ ?_
    split
    · exact aedupUp_of_side (side_send _ _) ht
    · exact ht

/-- The failure of a Pelgan link leaves Aedup up. -/
theorem aedupUp_linkDown {s : State} (p : Nat) (hup : aedupUp s) : aedupUp (linkDown s (.pelgan p)) := by
  have hfails : aedupUp (linkFails s (.pelgan p)) := by
    unfold linkFails
    dsimp only
    split
    · obtain ⟨u, hu, hreset⟩ := pelganReset_ended s p
      have haedup : (requestsEnded s p).aedup = s.aedup := (onlyOutcome_requestsEnded s p).aedup
      rw [hreset, hu]
      show (requestsEnded s p).aedup.link.state = .active ∨ (requestsEnded s p).aedup.link.state = .retrain
      rw [haedup]
      exact hup
    · exact hup
  unfold linkDown
  dsimp only
  split
  · unfold managerLosesLink
    split
    · exact aedupUp_regroup _ _ _ hfails
    · exact hfails
  · exact hfails

/-- The links of a region that has been reset (R398). -/
theorem resetLinks_clauses (s : State) (r : Nat) : LinkLoss s (resetLinks s r) ∧
    (s.aedup.link.state = .active → (resetLinks s r).aedup.link.state = .retrain) := by
  unfold resetLinks
  dsimp only
  have hfold := linkLoss_foldl (fun t p => linkDown t (.pelgan p))
    ((s.pelgan.links.filter (fun p => linkRegion p.1 == r && p.2.state != .down)).map Prod.fst)
    (fun t p => linkLoss_linkDown t (.pelgan p)) s
  refine ⟨hfold.trans ?_, fun hactive => ?_⟩
  · unfold startRetrain
    dsimp only
    split
    · exact (linkLoss_setLink _ _ _).trans (linkLoss_bump _ _ _)
    · exact .refl _
  · have hup := aedupUp_foldl (f := fun t p => linkDown t (.pelgan p)) (fun t p ht => aedupUp_linkDown p ht)
      ((s.pelgan.links.filter (fun p => linkRegion p.1 == r && p.2.state != .down)).map Prod.fst) (s := s) (.inl hactive)
    generalize ((s.pelgan.links.filter (fun p => linkRegion p.1 == r && p.2.state != .down)).map Prod.fst).foldl
      (fun t p => linkDown t (.pelgan p)) s = t at hup
    rcases hup with h | h
    · exact congrArg LinkEnd.state (startRetrain_set (l := .aedup) h).1.link
    · exact (congrArg (fun u : State => u.aedup.link.state) (startRetrain_idle (l := .aedup)
        (show t.aedup.link.state ≠ .active by rw [h]; decide))).trans h

/-! ### Skid samples (R430) -/

/-- Sending leaves the performance counters but for the count of what is sent. -/
theorem send_perf (s : State) (o : Out) : ∃ a p, (send s o).perf = { s.perf with sentAedup := a, sentPelgan := p } := by
  have hseal : ∀ t : State, (sealLimit t).perf = t.perf := fun t => by
    unfold sealLimit
    split
    · rfl
    · split <;> rfl
  unfold send
  dsimp only
  rw [hseal]
  cases o <;> exact ⟨_, _, rfl⟩

/-- The entries that sending writes. -/
theorem reg_send_count (s : State) (o : Out) {k : Nat} (h : k ∉ stateKeys) (h1 : k ≠ Key.AEDUP_RETRAINS)
    (h2 : k ≠ Key.PELGAN_RETRAINS) : reg (send s o) k = reg s k := by
  have hstates : k ≠ Key.AEDUP_STATE ∧ k ≠ Key.PELGAN_LINK_STATE := by
    simpa [stateKeys] using h
  have hspend : (spendFor s o).regs = s.regs := by cases o <;> rfl
  have hseal : ∀ t : State, reg (sealLimit t) k = reg t k := fun t => by
    unfold sealLimit
    split
    · exact (reg_setReg_ne _ _ hstates.1).trans ((reg_bump_ne _ _ h1).trans rfl)
    · split
      · exact (reg_setReg_ne _ _ hstates.2).trans ((reg_bump_ne _ _ h2).trans rfl)
      · rfl
  exact (hseal _).trans (reg_congr hspend k)

end Sys2Proof.Machine

/-! SUPPORT. Skid samples and hung engines, operation by operation (chapters 20 and 22). -/

namespace Sys2Proof.Machine

/-! ### Skid samples (R430) -/

/-- What the capture of a sample keeps: all but counts, samples and what is sent. -/
structure SampleKept (s t : State) : Prop where
  side : Side s t
  skid : t.perf.skid = s.perf.skid
  chip : t.perf.chip = s.perf.chip

theorem SampleKept.trans {s t u : State} (h : SampleKept s t) (k : SampleKept t u) : SampleKept s u :=
  ⟨h.side.trans k.side, k.skid.trans h.skid, k.chip.trans h.chip⟩

/-- An interrupt of the sampler keeps the samples and their count. -/
theorem sampleInterrupt_kept (s : State) : SampleKept s (sampleInterrupt s) ∧ (sampleInterrupt s).perf.samples = s.perf.samples ∧
    reg (sampleInterrupt s) (Key.PERF_SAMPLE_COUNT 4) = reg s (Key.PERF_SAMPLE_COUNT 4) := by
  have hside := side_sampleInterrupt s
  unfold sampleInterrupt at hside ⊢
  split
  · next h =>
    rw [if_pos h] at hside
    obtain ⟨a, p, hperf⟩ := send_perf s (.aedupIntr (reg s Key.PERF_INTR_VECTOR))
    exact ⟨⟨hside, by rw [hperf], by rw [hperf]⟩, by rw [hperf], reg_send_count _ _ (by decide) (by decide) (by decide)⟩
  · exact ⟨⟨.refl s, rfl, rfl⟩, rfl, rfl⟩

/-- A sample of the chip's counters taken into the fifth buffer. -/
def sampleTaken (s : State) (event counter : Nat) (t : Trace) : State :=
  { bump s (Key.PERF_SAMPLE_COUNT 4) 1 with
    freeCount := s.freeCount + 2
    perf := { s.perf with samples := (tabSet s.perf.samples (4096 + reg s (Key.PERF_SAMPLE_COUNT 4) % 1024)
      (sampleRecord s none event counter true t)) } }

/-- A sample is dropped, or taken, and the buffer that has filled interrupts. -/
theorem takeSample_cases (s : State) (event counter : Nat) (t : Trace) :
    (1024 ≤ reg s (Key.PERF_SAMPLE_COUNT 4) - reg s (Key.PERF_SAMPLE_RELEASE 4) ∧
      takeSample s 4 none event counter true t = bump s (Key.PERF_SAMPLE_DROPS 4) 1) ∨
    (reg s (Key.PERF_SAMPLE_COUNT 4) - reg s (Key.PERF_SAMPLE_RELEASE 4) < 1024 ∧ ∃ l,
      (takeSample s 4 none event counter true t = { sampleTaken s event counter t with
          perf := { (sampleTaken s event counter t).perf with filled := l } } ∨
        takeSample s 4 none event counter true t = sampleInterrupt { sampleTaken s event counter t with
          perf := { (sampleTaken s event counter t).perf with filled := l } })) := by
  by_cases hfull : 1024 ≤ reg s (Key.PERF_SAMPLE_COUNT 4) - reg s (Key.PERF_SAMPLE_RELEASE 4)
  · exact .inl ⟨hfull, if_pos hfull⟩
  · refine .inr ⟨Nat.lt_of_not_le hfull, ?_⟩
    unfold takeSample
    dsimp only
    rw [if_neg hfull]
    split
    · exact ⟨_, .inr rfl⟩
    · exact ⟨_, .inl rfl⟩

theorem takeSample_kept (s : State) (event counter : Nat) (t : Trace) :
    SampleKept s (takeSample s 4 none event counter true t) := by
  have hboth : (takeSample s 4 none event counter true t).perf.skid = s.perf.skid ∧
      (takeSample s 4 none event counter true t).perf.chip = s.perf.chip := by
    rcases takeSample_cases s event counter t with ⟨-, h⟩ | ⟨-, l, h | h⟩ <;> rw [h]
    · exact ⟨rfl, rfl⟩
    · exact ⟨rfl, rfl⟩
    · exact ⟨(sampleInterrupt_kept _).1.skid, (sampleInterrupt_kept _).1.chip⟩
  exact ⟨side_takeSample _ _ _ _ _ _ _, hboth.1, hboth.2⟩

/-- A sample that finds room is in its buffer and counted. -/
theorem takeSample_room {s : State} (event counter : Nat) (t : Trace)
    (h : reg s (Key.PERF_SAMPLE_COUNT 4) - reg s (Key.PERF_SAMPLE_RELEASE 4) < 1024) :
    let u := takeSample s 4 none event counter true t
    (tabGet u.perf.samples (4096 + reg s (Key.PERF_SAMPLE_COUNT 4) % 1024)).isSome = true ∧
      reg u (Key.PERF_SAMPLE_COUNT 4) = reg (bump s (Key.PERF_SAMPLE_COUNT 4) 1) (Key.PERF_SAMPLE_COUNT 4) := by
  have hheld : ∀ (x : Tab Nat) (k v : Nat), (tabGet (tabSet x k v) k).isSome = true := fun x k v =>
    congrArg Option.isSome (tabGet_tabSet_self x k v)
  dsimp only
  rcases takeSample_cases s event counter t with ⟨hfull, -⟩ | ⟨-, l, hu | hu⟩
  · omega
  · rw [hu]
    exact ⟨hheld _ _ _, rfl⟩
  · obtain ⟨-, hsamples, hcount⟩ := sampleInterrupt_kept { sampleTaken s event counter t with
      perf := { (sampleTaken s event counter t).perf with filled := l } }
    rw [hu, hsamples, hcount]
    exact ⟨hheld _ _ _, rfl⟩

theorem captureSkid_kept (event inst : Nat) (s : State) (counter : Nat) : SampleKept s (captureSkid event inst s counter) := by
  unfold captureSkid
  dsimp only
  split
  · exact takeSample_kept _ _ _ _
  · exact (takeSample_kept _ _ _ _).trans (sampleInterrupt_kept _).1

theorem captureSkid_room {s : State} (event inst counter : Nat)
    (h : reg s (Key.PERF_SAMPLE_COUNT 4) - reg s (Key.PERF_SAMPLE_RELEASE 4) < 1024) :
    (tabGet (captureSkid event inst s counter).perf.samples (4096 + reg s (Key.PERF_SAMPLE_COUNT 4) % 1024)).isSome = true ∧
      reg (captureSkid event inst s counter) (Key.PERF_SAMPLE_COUNT 4) =
        reg (bump s (Key.PERF_SAMPLE_COUNT 4) 1) (Key.PERF_SAMPLE_COUNT 4) := by
  have hroom := takeSample_room event counter { inst := inst } h
  unfold captureSkid
  dsimp only
  split
  · exact hroom
  · obtain ⟨-, hsamples, hcount⟩ := sampleInterrupt_kept (takeSample s 4 none event counter true { inst := inst })
    rw [hsamples, hcount]
    exact hroom

/-- The counters that wait for a sample of an event, and the state in which they no longer do. -/
def skidDue (s : State) (event : Nat) : List Nat :=
  s.perf.skid.filter (fun k => selEvent (reg s (Key.PERF_CHIP_SELECT k)) == event)
def skidDone (s : State) (event : Nat) : State :=
  { s with perf := { s.perf with
    skid := s.perf.skid.filter (fun k => selEvent (reg s (Key.PERF_CHIP_SELECT k)) != event) } }

/-- The samples that an event's counters wait for are captured, unless the counters are frozen. -/
def skidSettled (s : State) (event inst : Nat) : State :=
  if frozen s then skidDone s event else (skidDue s event).foldl (captureSkid event inst) (skidDone s event)

theorem skidSample_other {s : State} {event : Nat} (inst count : Nat) (h1 : event ≠ 0x390) (h2 : event ≠ 0x3B0) :
    skidSample s event inst count = skidSettled s event inst := by
  have hnone : (event == 0x390 || event == 0x3B0) = false := by simp [h1, h2]
  have hparity : (event == 0x3B0) = false := beq_eq_false_iff_ne.2 h2
  unfold skidSample
  rw [hnone, hparity]
  rfl

theorem skidSample_shown {s : State} {event : Nat} (inst count : Nat) (h : event = 0x390 ∨ event = 0x3B0) :
    skidSample s event inst count = skidSettled (countChip (if event == 0x3B0 then bump s Key.HBM_PARITY_RETRIES count else s)
      event count { inst := inst }) event inst := by
  rcases h with rfl | rfl <;> rfl

theorem skidCaptured_kept (s : State) (event inst : Nat) (l : List Nat) :
    SampleKept s (l.foldl (captureSkid event inst) s) :=
  List.foldlRecOn l _ (motive := SampleKept s) ⟨.refl s, rfl, rfl⟩ fun _ ht k _ => ht.trans (captureSkid_kept event inst _ k)

theorem skidSettled_kept (s : State) (event inst : Nat) : SampleKept (skidDone s event) (skidSettled s event inst) := by
  unfold skidSettled
  split
  · exact ⟨.refl _, rfl, rfl⟩
  · exact skidCaptured_kept _ event inst _

theorem skidSettled_none {s : State} {event : Nat} (inst : Nat)
    (h : ∀ k ∈ s.perf.skid, selEvent (reg s (Key.PERF_CHIP_SELECT k)) ≠ event) : skidSettled s event inst = s := by
  have hdue : skidDue s event = [] := List.filter_eq_nil_iff.2 fun k hk => by simpa using h k hk
  have hdone : skidDone s event = s := by
    have hskid : s.perf.skid.filter (fun k => selEvent (reg s (Key.PERF_CHIP_SELECT k)) != event) = s.perf.skid :=
      List.filter_eq_self.2 fun k hk => by simpa using h k hk
    unfold skidDone
    rw [hskid]
  unfold skidSettled
  rw [hdue, hdone]
  split <;> rfl

/-- A sample goes to the one counter that waits for it. -/
theorem skidSettled_one {s : State} {event k : Nat} (inst : Nat) (hf : frozen s = false) (hk : skidDue s event = [k])
    (h : reg s (Key.PERF_SAMPLE_COUNT 4) - reg s (Key.PERF_SAMPLE_RELEASE 4) < 1024) :
    (tabGet (skidSettled s event inst).perf.samples (4096 + reg s (Key.PERF_SAMPLE_COUNT 4) % 1024)).isSome = true ∧
      reg (skidSettled s event inst) (Key.PERF_SAMPLE_COUNT 4) =
        reg (bump s (Key.PERF_SAMPLE_COUNT 4) 1) (Key.PERF_SAMPLE_COUNT 4) := by
  unfold skidSettled
  rw [hf, hk]
  exact captureSkid_room (s := skidDone s event) event inst k h

/-- A skid event that no other command shows is counted, and its samples follow. -/
theorem skidSample_counted (s : State) {event : Nat} (inst count : Nat) (h : event = 0x390 ∨ event = 0x3B0) :
    (event = 0x3B0 → reg (skidSample s event inst count) Key.HBM_PARITY_RETRIES =
      reg (bump s Key.HBM_PARITY_RETRIES count) Key.HBM_PARITY_RETRIES) ∧
    (skidSample s event inst count).mem = s.mem ∧ (skidSample s event inst count).jobs = s.jobs ∧
      (skidSample s event inst count).ctxs = s.ctxs := by
  rw [skidSample_shown inst count h]
  have hside : ∀ u : State, Side u (countChip u event count { inst := inst }) := fun u => side_countChip _ _ _ _
  have hkept := (skidSettled_kept (countChip (if event == 0x3B0 then bump s Key.HBM_PARITY_RETRIES count else s)
      event count { inst := inst }) event inst).side
  refine ⟨?_, ?_, ?_, ?_⟩
  · rintro rfl
    exact (hkept.regs _ (by decide)).trans ((hside _).regs _ (by decide))
  · refine hkept.mem.trans ((hside _).mem.trans ?_)
    split <;> rfl
  · refine hkept.jobs.trans ((hside _).jobs.trans ?_)
    split <;> rfl
  · refine hkept.ctxs.trans ((hside _).ctxs.trans ?_)
    split <;> rfl

/-! ### Hung engines (R403, Table 20.3) -/

/-- An engine's hang fences the context of its command, or ends the command (R403). -/
theorem hangJob_clauses {s : State} {u : MonitorUnit} {id : Nat} {j : Job} (inst : Nat) (hj : tabGet s.jobs id = some j)
    (hopen : openJob j = true) (hserves : engineServes u j.opcode = true) :
    let v := bump s Key.RESET_MONITOR_FIRES 1
    let t := hangJob v u inst id
    UnitsKept s t ∧ t.chip = s.chip ∧ counts s t Key.RESET_MONITOR_FIRES 1 ∧
      (live (ctxOf s j.ctx) = true → t.jobs = s.jobs ∧ logged s t (monitorLog 0 u) inst Code.CTX_HUNG j.ctx ∧
        ∀ d, ctxOf t d = if d = j.ctx then fenced (ctxOf s j.ctx) Code.CTX_HUNG (some id) else ctxOf s d) ∧
      ((ctxOf s j.ctx).state = .tearingDown → t.jobs = s.jobs ∧ t.ctxs = s.ctxs ∧
        logged s t (monitorLog 0 u) inst Code.CTX_HUNG j.ctx) ∧
      ((ctxOf s j.ctx).state = .free ∨ (ctxOf s j.ctx).state = .faulted → ends t id Code.CTX_HUNG 0 ∧
        ∀ i, i ≠ id → tabGet t.jobs i = tabGet s.jobs i) := by
  intro v t
  have hvctx : ∀ d, ctxOf v d = ctxOf s d := fun _ => rfl
  have hbeat : beatNow v = beatNow s := reg_bump_ne _ _ (by decide)
  have hlive : live (ctxOf s j.ctx) = standing (ctxOf s j.ctx) := by
    unfold live standing
    cases (ctxOf s j.ctx).state <;> rfl
  have hfence : UnitsKept s (fenceBy v j.ctx Code.CTX_HUNG (some id) false (monitorLog 0 u) inst) :=
    (unitsKept_setReg s _ (by decide)).trans (unitsKept_fenceBy _ _ _ _ _ _ _)
  have hstep : t = if (ctxOf (fenceBy v j.ctx Code.CTX_HUNG (some id) false (monitorLog 0 u) inst) j.ctx).state == .tearingDown
      then fenceBy v j.ctx Code.CTX_HUNG (some id) false (monitorLog 0 u) inst
      else finish (fenceBy v j.ctx Code.CTX_HUNG (some id) false (monitorLog 0 u) inst) id Code.CTX_HUNG 0 := by
    show hangJob v u inst id = _
    unfold hangJob
    rw [show tabGet v.jobs id = some j from hj]
    exact if_neg (by simp [hopen, hserves])
  have hcount : reg (fenceBy v j.ctx Code.CTX_HUNG (some id) false (monitorLog 0 u) inst) Key.RESET_MONITOR_FIRES =
      reg v Key.RESET_MONITOR_FIRES := reg_fenceBy _ _ _ _ _ _ _ (by decide)
  have hfinish := finish_same (fenceBy v j.ctx Code.CTX_HUNG (some id) false (monitorLog 0 u) inst) id Code.CTX_HUNG 0
  have hctxs := ctxOf_fenceBy_all v j.ctx Code.CTX_HUNG (some id) (monitorLog 0 u) inst
  refine ⟨?_, ?_, ?_, fun hl => ?_, fun hdown => ?_, fun hgone => ?_⟩
  · rw [hstep]
    split
    · exact hfence
    · refine hfence.trans ?_
      rw [hfinish]
      exact ⟨by constructor <;> rfl, rfl, rfl, rfl, rfl, rfl, rfl, rfl, rfl, rfl, fun _ _ => rfl⟩
  · rw [hstep]
    split
    · exact fenceBy_chip _ _ _ _ _ _ _
    · rw [hfinish]
      exact fenceBy_chip _ _ _ _ _ _ _
  · rw [hstep]
    split
    · exact hcount
    · rw [hfinish]
      exact hcount
  · have hstands : standing (ctxOf v j.ctx) = true := hlive ▸ hl
    have htorn : (ctxOf (fenceBy v j.ctx Code.CTX_HUNG (some id) false (monitorLog 0 u) inst) j.ctx).state = .tearingDown := by
      rw [hctxs, if_pos ⟨rfl, hstands⟩]
      rfl
    rw [hstep, if_pos (by rw [htorn]; rfl)]
    refine ⟨fenceBy_jobs _ _ _ _ _ _ _, logged_fenceBy _ _ _ _ (.inl hstands) rfl hbeat, fun d => (hctxs d).trans ?_⟩
    by_cases hd : d = j.ctx
    · rw [if_pos ⟨hd, hstands⟩, if_pos hd]
      rfl
    · rw [if_neg fun h => hd h.1, if_neg hd]
      rfl
  · have hno : standing (ctxOf v j.ctx) = false := standing_down hdown
    have hsame := fenceBy_ctxs (s := v) Code.CTX_HUNG (some id) (monitorLog 0 u) inst hno
    have htorn : (ctxOf (fenceBy v j.ctx Code.CTX_HUNG (some id) false (monitorLog 0 u) inst) j.ctx).state = .tearingDown := by
      rw [ctxOf, hsame]
      exact hdown
    rw [hstep, if_pos (by rw [htorn]; rfl)]
    exact ⟨fenceBy_jobs _ _ _ _ _ _ _, hsame, logged_fenceBy _ _ _ _ (.inr hdown) rfl hbeat⟩
  · have hno : standing (ctxOf v j.ctx) = false := by
      show standing (ctxOf s j.ctx) = false
      unfold standing
      rcases hgone with h | h <;> rw [h] <;> rfl
    have hsame := fenceBy_ctxs (s := v) Code.CTX_HUNG (some id) (monitorLog 0 u) inst hno
    have hkept : (ctxOf (fenceBy v j.ctx Code.CTX_HUNG (some id) false (monitorLog 0 u) inst) j.ctx).state ≠ .tearingDown := by
      rw [ctxOf, hsame]
      show (ctxOf s j.ctx).state ≠ .tearingDown
      rcases hgone with h | h <;> rw [h] <;> decide
    have hjobs := fenceBy_jobs v j.ctx Code.CTX_HUNG (some id) false (monitorLog 0 u) inst
    rw [hstep, if_neg (by simpa using hkept)]
    refine ⟨?_, fun i hi => (finish_get_ne _ _ _ hi).trans (congrArg (tabGet · i) hjobs)⟩
    rw [ends, finish_get (j := j) _ _ ((congrArg (tabGet · id) hjobs).trans hj)]
    rfl

/-- A fatal hang (Table 20.3). -/
theorem hangFatal_clauses (s : State) (u : MonitorUnit) (inst : Nat) : let t := hangFatal s u inst
    t.fatal = true ∧ t.start = .powerGood ∧ t.jobs = [] ∧ t.queues = [] ∧ t.eeprom.kept = s.eeprom.kept ∧
      ∀ c, (ctxOf t c).state = .free := by
  refine ⟨rfl, rfl, rfl, rfl, warmReset_kept _ true _ _ _ _, fun c => warmReset_free _ _ _ _ _ _ c⟩

theorem hangUnit_chipWide {u : MonitorUnit} (s : State) (inst : Nat) (h : chipWide u = true) :
    hangUnit s u inst = hangFatal s u inst := by
  cases u with
  | hem | bridge | dictionary | recovery => rfl
  | _ => exact absurd h (by decide)

theorem isEngine_chipWide {u : MonitorUnit} (h : chipWide u = true) : isEngine u = false := by
  cases u with
  | hem | bridge | dictionary | recovery => rfl
  | _ => exact absurd h (by decide)

theorem hangUnit_region {u : MonitorUnit} (s : State) {inst : Nat} (h : u ∈ [MonitorUnit.regionSequencer, .mesh, .cloak])
    (hr : inst < 4) : hangUnit s u inst = regionFaultBy s inst (monitorLog 0 u) inst := by
  simp only [List.mem_cons, List.not_mem_nil, or_false] at h
  rcases h with rfl | rfl | rfl <;> exact if_pos hr

end Sys2Proof.Machine

/-! OBLIGATION O56. Teardowns, watchdogs, progress monitors, region resets and skid samples (chapters 20 and 22). -/

namespace Sys2Proof.Machine

/-! ### The end of a drain that takes too long (R399, R400) -/

theorem teardownDrainEnd_idle {s : State} {c : Nat} (h : (ctxOf s c).state ≠ .tearingDown ∨ drained s c = false) :
    teardownDrainEnd s c = s := by
  unfold teardownDrainEnd
  split
  · next hdrained => exact drainEnd_idle (h.resolve_right (by rw [hdrained]; decide))
  · rfl

theorem drainTimeout_idle {s : State} {c : Nat} (writes : Nat) (u : MonitorUnit) (inst : Nat)
    (h : (ctxOf s c).state ≠ .tearingDown) : drainTimeout s c writes u inst = s := if_neg (by simpa using h)

/-- An engine that another teardown waits for is logged as hung. -/
theorem drainTimeout_engine {s : State} {c : Nat} (writes : Nat) {u : MonitorUnit} (inst : Nat)
    (h : (ctxOf s c).state = .tearingDown) (hu : isEngine u = true) (hl : (ctxOf s c).lastStatus ≠ Code.CTX_HUNG) :
    drainTimeout s c writes u inst = drainEnd (logError (bump s Key.RESET_DRAIN_TIMEOUTS writes) (monitorLog 0 u) inst
      Code.CTX_HUNG c .teardown 0) c := by
  have hother : (!isEngine u || (ctxOf s c).lastStatus == Code.CTX_HUNG) = false := by simp [hu, hl]
  unfold drainTimeout
  dsimp only
  rw [if_pos (by rw [h]; rfl), hother, if_neg Bool.false_ne_true]
  exact congrArg (drainEnd · c) (fenceBy_down _ _ _ _ _ h)

theorem drainTimeout_unit {s : State} {c : Nat} (writes : Nat) {u : MonitorUnit} (inst : Nat)
    (h : (ctxOf s c).state = .tearingDown) (hu : isEngine u = false) :
    drainTimeout s c writes u inst = drainEnd (hangUnit (bump s Key.RESET_DRAIN_TIMEOUTS writes) u inst) c := by
  unfold drainTimeout
  rw [if_pos (by rw [h]; rfl), hu]
  rfl

theorem blockAvailable_bump (s : State) {k : Nat} (n b : Nat) (h : k ≠ Key.CHIP_BLOCK_MAP) :
    blockAvailable (bump s k n) b = blockAvailable s b := by
  unfold blockAvailable
  rw [reg_bump_ne _ _ h.symm]
  rfl

theorem drainedCtx_state (x : Ctx) : (drainedCtx x).state = if x.freeAfter = true then .free else .faulted := by
  unfold drainedCtx
  split <;> rfl

/-! ### Watchdogs (R402) -/

theorem contextWatchdog_idle {s : State} {c : Nat} (h : live (ctxOf s c) = false ∨ (ctxOf s c).watchdog = 0 ∨
    (ctxOf s c).dogCount < (ctxOf s c).watchdog) : contextWatchdog s c = s := by
  refine if_neg ?_
  rcases h with h | h | h
  · simp [h]
  · simp [h]
  · simp [Nat.not_le.2 h]

theorem contextWatchdog_fires {s : State} {c : Nat} (h : live (ctxOf s c) = true) (h0 : (ctxOf s c).watchdog ≠ 0)
    (hle : (ctxOf s c).watchdog ≤ (ctxOf s c).dogCount) : contextWatchdog s c = setCtx s c { ctxOf s c with hung := true } :=
  if_pos (by simp [h, h0, hle])

/-! ### Progress monitors (R403) -/

theorem progressMonitor_engine {s : State} {u : MonitorUnit} {id : Nat} (inst : Nat) (hs : s.start ≠ .off)
    (hu : isEngine u = true) (hopen : isOpen s id = true) :
    progressMonitor s u inst id = hangJob (bump s Key.RESET_MONITOR_FIRES 1) u inst id := by
  unfold progressMonitor
  rw [if_neg (by simpa using hs), hu, hopen]
  rfl

theorem progressMonitor_unit {s : State} {u : MonitorUnit} (inst id : Nat) (hs : s.start ≠ .off) (hu : isEngine u = false) :
    progressMonitor s u inst id = hangUnit (bump s Key.RESET_MONITOR_FIRES 1) u inst := by
  unfold progressMonitor
  rw [if_neg (by simpa using hs), hu]
  rfl

theorem progressMonitor_idle {s : State} {u : MonitorUnit} (inst : Nat) {id : Nat}
    (h : s.start = .off ∨ (isEngine u = true ∧ isOpen s id = false)) : progressMonitor s u inst id = s := by
  unfold progressMonitor
  split
  · rfl
  · next hs =>
    obtain ⟨hu, hopen⟩ := h.resolve_left (by simpa using hs)
    rw [hu, hopen]
    rfl

/-- A region's reset that a hang begins (R398). -/
theorem regionFaultBy_clauses {s : State} {r : Nat} (unit : LogUnit) (inst : Nat) (hr : r < 4) (h : r ∉ s.chip.resetting) :
    let t := regionFaultBy (bump s Key.RESET_MONITOR_FIRES 1) r unit inst
    r ∈ t.chip.resetting ∧ r ∈ t.chip.closed ∧ r ∈ t.power.waking ∧ counts s t Key.RESET_REGION_RESETS 1 := by
  intro t
  obtain ⟨hclosed, hresetting, hwaking⟩ := startRegionReset_begins
    (s := logError (bump s Key.RESET_MONITOR_FIRES 1) unit inst Code.CTX_TORN_DOWN noCtx .regionReset 0) h
  have hcount : reg t Key.RESET_REGION_RESETS = _ := reg_startRegionReset
    (s := logError (bump s Key.RESET_MONITOR_FIRES 1) unit inst Code.CTX_TORN_DOWN noCtx .regionReset 0) h (by decide)
    (by decide) (by decide) (by unfold Key.RESET_REGION_RESETS Key.PERF_SAMPLE_COUNT; omega)
    (by unfold Key.RESET_REGION_RESETS Key.PERF_SAMPLE_RELEASE; omega) (by decide) (by decide)
  refine ⟨hresetting, hclosed, hwaking, hcount.trans (reg_bump_congr 1 ?_)⟩
  rw [reg_logError _ _ _ _ _ _ _ (by decide), reg_bump_ne _ _ (by decide)]

/-! ### Region resets (R398) -/

theorem regionReset_idle {s : State} {r : Nat} (ok : Bool) (h : r ∉ s.chip.resetting) : regionReset s r ok = s :=
  if_neg (by simpa using h)

theorem regionReset_waits {s : State} {r : Nat} (h : r ∈ s.chip.resetting) (hw : r ∈ s.power.waking) :
    regionReset s r true = s := by
  unfold regionReset
  rw [if_pos (by simpa using h)]
  exact (if_neg (by decide)).trans (if_pos (by simpa using hw))

/-- The region after its stacks, channels and links have been reset. -/
def regionRestored (s : State) (r : Nat) : State := resetLinks (resetChannels (wakeStacks s r) r) r

theorem regionReset_ends {s : State} {r : Nat} (h : r ∈ s.chip.resetting) (hw : r ∉ s.power.waking) :
    regionReset s r true = openRegion (rebuildRegion (regionRestored s r) r) r := by
  unfold regionReset
  rw [if_pos (by simpa using h)]
  exact (if_neg (by decide)).trans (if_neg (by simpa using hw))

theorem regionReset_fails {s : State} {r : Nat} (h : r ∈ s.chip.resetting) : let t := regionReset s r false
    t.fatal = true ∧ t.start = .powerGood ∧ t.jobs = [] ∧ t.queues = [] := by
  have hstep : regionReset s r false = fatalError (takeFree s).2 .regionSequencer r ((takeFree s).1 % 65536) 0 :=
    if_pos (by simpa using h)
  dsimp only
  rw [hstep]
  exact ⟨rfl, rfl, rfl, rfl⟩

/-- What a region's reset keeps of the machine, and what it makes of the region's stacks and of Aedup. -/
theorem regionRestored_clauses (s : State) (r : Nat) : let u := regionRestored s r
    u.chip = s.chip ∧ u.belt = s.belt ∧ u.mem.dev = s.mem.dev ∧ u.mem.durable = s.mem.durable ∧ u.pocket = s.pocket ∧
      u.queues = s.queues ∧ u.fatal = s.fatal ∧ (s.aedup.link.state = .active → u.aedup.link.state = .retrain) ∧
      ∀ k x, tabGet u.mem.hbmStacks k = some x → k / 3 = r → x.selfRefresh = false ∧ x.resetting = false := by
  obtain ⟨hloss, hretrain⟩ := resetLinks_clauses (resetChannels (wakeStacks s r) r) r
  have hsame := (channelsReset_region (wakeStacks s r) r).same
  have hchip : (resetChannels (wakeStacks s r) r).chip = s.chip := by rw [hsame]; rfl
  have hbelt : (resetChannels (wakeStacks s r) r).belt = s.belt := by rw [hsame]; rfl
  have hdev : (resetChannels (wakeStacks s r) r).mem.dev = s.mem.dev := by rw [hsame]; rfl
  have hdurable : (resetChannels (wakeStacks s r) r).mem.durable = s.mem.durable := by rw [hsame]; rfl
  have hpocket : (resetChannels (wakeStacks s r) r).pocket = s.pocket := by rw [hsame]; rfl
  have hqueues : (resetChannels (wakeStacks s r) r).queues = s.queues := by rw [hsame]; rfl
  have hfatal : (resetChannels (wakeStacks s r) r).fatal = s.fatal := by rw [hsame]; rfl
  have haedup : (resetChannels (wakeStacks s r) r).aedup = s.aedup := by rw [hsame]; rfl
  have hstacks : (resetChannels (wakeStacks s r) r).mem.hbmStacks = (wakeStacks s r).mem.hbmStacks := by rw [hsame]
  refine ⟨hloss.chip.trans hchip, hloss.belt.trans hbelt, (congrArg MemS.dev hloss.mem).trans hdev,
    (congrArg MemS.durable hloss.mem).trans hdurable, hloss.pocket.trans hpocket, hloss.queues.trans hqueues,
    hloss.fatal.trans hfatal, fun h => hretrain (haedup ▸ h), fun k x hx hk => ?_⟩
  have hget : tabGet (wakeStacks s r).mem.hbmStacks k = some x := by
    rw [← hstacks, ← congrArg MemS.hbmStacks hloss.mem]
    exact hx
  unfold wakeStacks at hget
  dsimp only at hget
  rw [tabGet_tabMap, Option.map_eq_some_iff] at hget
  obtain ⟨y, -, hy⟩ := hget
  rw [if_pos (by simpa using hk)] at hy
  rw [← hy]
  exact ⟨rfl, rfl⟩

/-- What opening a region again, with its hot rows forgotten, makes of the region and keeps of the rest. -/
theorem openRebuilt_clauses (u : State) (r : Nat) : let t := openRegion (rebuildRegion u r) r
    r ∉ t.chip.resetting ∧ r ∉ t.chip.closed ∧
      (∀ q, q ≠ r → (q ∈ t.chip.resetting ↔ q ∈ u.chip.resetting) ∧ (q ∈ t.chip.closed ↔ q ∈ u.chip.closed)) ∧
      (∀ q, tabGet t.belt.hot q = if q = r then none else tabGet u.belt.hot q) ∧ t.belt.tables = u.belt.tables ∧
      t.mem = u.mem ∧ t.aedup = u.aedup ∧ t.pocket = u.pocket ∧ t.queues = u.queues ∧ t.fatal = u.fatal := by
  refine ⟨by simp [openRegion], by simp [openRegion], fun q hq => ⟨by simp [openRegion, rebuildRegion, hq],
    by simp [openRegion, rebuildRegion, hq]⟩, fun q => ?_, rfl, rfl, rfl, rfl, rfl, rfl⟩
  show tabGet (tabDel u.belt.hot r) q = _
  by_cases hq : q = r
  · rw [if_pos hq, hq]
    exact tabGet_tabDel_self _ _
  · rw [if_neg hq]
    exact tabGet_tabDel_ne _ hq

/-- Settles O56, operation by operation: drains, watchdogs, monitors, region resets and skid samples. -/
theorem teardownsAndHangs : Obligations.TeardownsAndHangs := by
  unfold Obligations.TeardownsAndHangs
  refine ⟨fun s c hidle => ?_, fun s c hrise hdown hdrained => ?_, fun s c writes inst u hup => ?_,
    fun s c writes inst u hdown => ⟨fun hrise hu hl => ?_, fun hu hblock => ?_, fun hchip => ?_⟩,
    fun s c => ⟨fun hidle => ?_, fun hlive h0 hle => ?_⟩, fun s u inst id hidle => ?_,
    fun s u inst id j hs hu hj hopen => ⟨fun hno => ?_, fun hserves => ?_⟩,
    fun s inst id hs => ⟨fun hblock => ?_, fun hstack => ?_, fun x hx hup hfree => ?_, fun u hu hr hnew => ?_, fun u hu => ?_⟩,
    fun s r ok => ⟨fun hnone => ?_, fun hin => ⟨?_, ?_, fun hw => ?_, fun hw => ?_⟩⟩,
    fun s event inst count h1 h2 => ⟨fun hnone => ?_, ?_⟩, fun s event inst count hev => ?_⟩
  · exact congrArg Host.Outcome.next (teardownDrainEnd_idle hidle)
  · exact ⟨_, congrArg Host.Outcome.next (if_pos hdrained), drainEnd_ends hrise hdown⟩
  · exact congrArg Host.Outcome.next (drainTimeout_idle writes u inst hup)
  · have hbeat : beatNow (bump s Key.RESET_DRAIN_TIMEOUTS writes) = beatNow s := reg_bump_ne _ _ (by decide)
    refine ⟨_, _, congrArg Host.Outcome.next (drainTimeout_engine writes inst hdown hu hl), drainEnd_ends hrise ?_,
      logged_logError (s := s) (u := bump s Key.RESET_DRAIN_TIMEOUTS writes) _ _ _ _ _ _ rfl hbeat rfl, ?_, rfl, rfl, rfl, ?_⟩
    · exact hdown
    · exact (unitsKept_setReg s _ (by decide)).trans
        ⟨by constructor <;> rfl, rfl, rfl, rfl, rfl, rfl, rfl, rfl, rfl, rfl, fun k hk =>
          reg_logError _ _ _ _ _ _ _ (by rintro rfl; exact absurd hk (by decide))⟩
    · exact (reg_drainEnd c (by decide) (by decide)).trans (reg_logError _ _ _ _ _ _ _ (by decide))
  · subst hu
    have havail : blockAvailable (bump s Key.RESET_DRAIN_TIMEOUTS writes) inst = true :=
      (blockAvailable_bump s writes inst (by decide)).trans hblock
    have hkept := ctxOf_quarantine_down (s := bump s Key.RESET_DRAIN_TIMEOUTS writes) inst Code.CTX_HUNG hdown
    obtain ⟨hctx, hchip⟩ := drainEnd_ctx (s := quarantine (bump s Key.RESET_DRAIN_TIMEOUTS writes) inst Code.CTX_HUNG)
      (c := c) (by rw [hkept]; exact hdown)
    refine ⟨_, congrArg Host.Outcome.next (drainTimeout_unit writes inst hdown rfl), ?_, ?_⟩
    · refine (congrArg Ctx.state hctx).trans ?_
      rw [drainedCtx_state, hkept]
      rfl
    · refine (congrArg ChipS.fenced hchip).trans ?_
      exact congrArg ChipS.fenced (quarantineAs_chip Code.CTX_HUNG 0 havail)
  · obtain ⟨hfatal, hstart, hjobs, hqueues, -, hfree⟩ := hangFatal_clauses (bump s Key.RESET_DRAIN_TIMEOUTS writes) u inst
    refine ⟨_, congrArg Host.Outcome.next ((drainTimeout_unit writes inst hdown (isEngine_chipWide hchip)).trans ?_), hfatal,
      hstart, hjobs, hqueues⟩
    rw [hangUnit_chipWide _ _ hchip]
    exact drainEnd_idle (by rw [hfree c]; decide)
  · exact congrArg Host.Outcome.next (contextWatchdog_idle hidle)
  · refine ⟨_, congrArg Host.Outcome.next (contextWatchdog_fires hlive h0 hle), rfl, fun d => ?_⟩
    by_cases hd : d = c
    · rw [if_pos hd, hd]
      exact ctxOf_setCtx_self _ _ _
    · rw [if_neg hd]
      exact ctxOf_setCtx_ne _ _ hd
  · exact congrArg Host.Outcome.next (progressMonitor_idle inst hidle)
  · have hisopen : isOpen s id = true := by rw [isOpen, hj]; exact hopen
    refine congrArg Host.Outcome.next ((progressMonitor_engine inst hs hu hisopen).trans ?_)
    unfold hangJob
    rw [show tabGet (bump s Key.RESET_MONITOR_FIRES 1).jobs id = some j from hj]
    exact if_pos (by simp [hno])
  · have hisopen : isOpen s id = true := by rw [isOpen, hj]; exact hopen
    exact ⟨_, congrArg Host.Outcome.next (progressMonitor_engine inst hs hu hisopen), hangJob_clauses inst hj hopen hserves⟩
  · have havail : blockAvailable (bump s Key.RESET_MONITOR_FIRES 1) inst = true :=
      (blockAvailable_bump s 1 inst (by decide)).trans hblock
    exact ⟨_, congrArg Host.Outcome.next (progressMonitor_unit inst id hs rfl), quarantineAs_chip _ _ havail,
      quarantineAs_eeprom _ _ havail, quarantineAs_test _ _ havail, quarantine_mem _ _ _, quarantine_jobs _ _ _⟩
  · exact ⟨_, congrArg Host.Outcome.next ((progressMonitor_unit inst id hs rfl).trans (if_pos hstack)),
      startStackReset_clauses _ inst⟩
  · exact ⟨_, congrArg Host.Outcome.next (progressMonitor_unit inst id hs rfl),
      startChannelReset_clauses (s := bump s Key.RESET_MONITOR_FIRES 1) hx hup hfree⟩
  · have hengine : isEngine u = false := by
      simp only [List.mem_cons, List.not_mem_nil, or_false] at hu
      rcases hu with rfl | rfl | rfl <;> rfl
    exact ⟨_, congrArg Host.Outcome.next ((progressMonitor_unit inst id hs hengine).trans (hangUnit_region _ hu hr)),
      regionFaultBy_clauses _ _ hr hnew⟩
  · obtain ⟨hfatal, hstart, hjobs, hqueues, hkept, -⟩ := hangFatal_clauses (bump s Key.RESET_MONITOR_FIRES 1) u inst
    exact ⟨_, congrArg Host.Outcome.next ((progressMonitor_unit inst id hs (isEngine_chipWide hu)).trans
      (hangUnit_chipWide _ _ hu)), hfatal, hstart, hjobs, hqueues, hkept⟩
  · exact ⟨congrArg Host.Outcome.next (regionReset_idle ok hnone), congrArg Host.Outcome.next (regionReset_idle false hnone)⟩
  · exact ⟨_, rfl, regionReset_fails hin⟩
  · exact ⟨_, rfl, regionReset_fails hin⟩
  · exact congrArg Host.Outcome.next (regionReset_waits hin hw)
  · obtain ⟨hchip, hbelt, hdev, hdurable, hpocket, hqueues, hfatal, hretrain, hstacks⟩ := regionRestored_clauses s r
    obtain ⟨hshut, hclosed, hothers, hhot, htables, hmem, haedup, hkept⟩ := openRebuilt_clauses (regionRestored s r) r
    rw [hchip] at hothers
    rw [hbelt] at hhot htables
    rw [← hmem] at hdev hdurable hstacks
    obtain ⟨hpocket', hqueues', hfatal'⟩ := hkept
    exact ⟨_, congrArg Host.Outcome.next (regionReset_ends hin hw), hshut, hclosed, hothers, hhot, htables, hstacks,
      fun h => (congrArg (·.link.state) haedup).trans (hretrain h), hdev, hdurable, hpocket'.trans hpocket,
      hqueues'.trans hqueues, hfatal'.trans hfatal⟩
  · exact congrArg Host.Outcome.next ((skidSample_other inst count h1 h2).trans (skidSettled_none inst hnone))
  · obtain ⟨hside, hskid, hchip⟩ := skidSettled_kept s event inst
    refine ⟨_, congrArg Host.Outcome.next (skidSample_other inst count h1 h2), hskid, hchip, fun hf => ?_,
      fun k hf hk hroom => skidSettled_one inst hf hk hroom, hside.mem, hside.jobs, hside.ctxs⟩
    have hfrozen : skidSettled s event inst = skidDone s event := if_pos hf
    rw [hfrozen]
    rfl
  · exact ⟨_, rfl, skidSample_counted s inst count hev⟩

end Sys2Proof.Machine

/-! SUPPORT. Generation (chapters 14 and 15): what a command's step leaves of what is held, and a context's sequence cut. -/

namespace Sys2Proof.Machine

/-! ### Steps that change what generation holds -/

/-- The first state with the requests, pages, grammars, Belt and Pockets of the second. -/
def withWork (s t : State) : State :=
  { s with gens := t.gens, kv := t.kv, grammars := t.grammars, belt := t.belt, pocket := t.pocket }

/-- A step that is quiet but for requests, pages, grammars, the Belt and the Pockets. -/
def Worked (s t : State) (id c : Nat) : Prop := Quiet (withWork s t) t id c

theorem Beside.withWork {s t : State} {id c : Nat} (h : Beside s t id c) (u : State) :
    Beside (Machine.withWork s u) (Machine.withWork t u) id c :=
  ⟨h.jobs, h.ctxs, h.start, h.fatal, h.alerts, h.eeprom, h.hem, h.queues, h.jobNext, h.chip, h.sec, h.power, h.test, h.log,
    h.locks, h.settings⟩

theorem Quiet.withWork {s t : State} {id c : Nat} (h : Quiet s t id c) (u : State) :
    Quiet (Machine.withWork s u) (Machine.withWork t u) id c :=
  ⟨h.bytes, h.beside.withWork u, ⟨h.holdings.models, h.holdings.vocabs, rfl, rfl, rfl, rfl, rfl, h.holdings.acc⟩, h.indexes⟩

theorem Quiet.worked {s t : State} {id c : Nat} (h : Quiet s t id c) : Worked s t id c := h.withWork t

theorem Worked.trans {s t u : State} {id c : Nat} (h : Worked s t id c) (k : Worked t u id c) : Worked s u id c :=
  (Quiet.withWork h u).trans k

theorem worked_withWork (s u : State) (id c : Nat) : Worked s (withWork s u) id c := Quiet.refl _ id c

theorem worked_updGen (s : State) (i : Nat) (f : GenReq → GenReq) (id c : Nat) : Worked s (updGen s i f) id c :=
  worked_withWork s (updGen s i f) id c

theorem worked_setGen (s : State) (i : Nat) (g : GenReq) (id c : Nat) : Worked s (setGen s i g) id c :=
  worked_withWork s (setGen s i g) id c

theorem setGen_jobs (s : State) (i : Nat) (g : GenReq) : (setGen s i g).jobs = s.jobs := rfl

theorem Accounted.worked {cache : Bool} {s t : State} (h : Accounted cache s t) (id c : Nat) : Worked s t id c :=
  Worked.trans (worked_withWork s { s with belt := t.belt } id c) (h.quiet id c).worked

/-- The pages apart, what is held is as it was. -/
structure PagesOnly (s t : State) : Prop where
  gens : t.gens = s.gens
  grammars : t.grammars = s.grammars
  belt : t.belt = s.belt
  pocket : t.pocket = s.pocket

theorem PagesOnly.refl (s : State) : PagesOnly s s := ⟨rfl, rfl, rfl, rfl⟩

theorem PagesOnly.trans {s t u : State} (h : PagesOnly s t) (k : PagesOnly t u) : PagesOnly s u :=
  ⟨k.gens.trans h.gens, k.grammars.trans h.grammars, k.belt.trans h.belt, k.pocket.trans h.pocket⟩

theorem HoldingsKept.pagesOnly {s t : State} (h : HoldingsKept s t) : PagesOnly s t := ⟨h.gens, h.grammars, h.belt, h.pocket⟩

section worked

variable {s t : State} {id c : Nat} (h : Worked s t id c)

include h

theorem Worked.ownPages (k : PagesOnly s t) : Quiet { s with kv := t.kv } t id c := by
  unfold Worked Machine.withWork at h
  rw [k.gens, k.grammars, k.belt, k.pocket] at h
  exact h

theorem Worked.ownGens (hkv : t.kv = s.kv) (hgrammars : t.grammars = s.grammars) (hbelt : t.belt = s.belt)
    (hpocket : t.pocket = s.pocket) : Quiet { s with gens := t.gens } t id c := by
  unfold Worked Machine.withWork at h
  rw [hkv, hgrammars, hbelt, hpocket] at h
  exact h

theorem Worked.ownGensAndPages (hgrammars : t.grammars = s.grammars) (hbelt : t.belt = s.belt)
    (hpocket : t.pocket = s.pocket) : Quiet { s with gens := t.gens, kv := t.kv } t id c := by
  unfold Worked Machine.withWork at h
  rw [hgrammars, hbelt, hpocket] at h
  exact h

theorem Worked.ownGrammars (hgens : t.gens = s.gens) (hkv : t.kv = s.kv) (hbelt : t.belt = s.belt)
    (hpocket : t.pocket = s.pocket) : Quiet { s with grammars := t.grammars } t id c := by
  unfold Worked Machine.withWork at h
  rw [hgens, hkv, hbelt, hpocket] at h
  exact h

theorem Worked.ownRun (hkv : t.kv = s.kv) (hgrammars : t.grammars = s.grammars) :
    Quiet { s with belt := t.belt, pocket := t.pocket, gens := t.gens } t id c := by
  unfold Worked Machine.withWork at h
  rw [hkv, hgrammars] at h
  exact h

end worked

/-- A command's end, after a step that is quiet but for what is held. -/
theorem Worked.ended {s t : State} {id : Nat} {j : Job} (h : Worked s t id j.ctx) (hj : tabGet t.jobs id = some j) (st r : Nat) :
    Worked s (unacted (finish t id st r)) id j.ctx :=
  h.trans ((quiet_finish st r hj).trans (quiet_unacted _ _ _)).worked

theorem worked_acting (s : State) (j : Job) (id c : Nat) : Worked s (acting s j) id c := (quiet_acting s j id c).worked

theorem finish_pagesOnly (s : State) (id st r : Nat) : PagesOnly s (unacted (finish s id st r)) :=
  HoldingsKept.pagesOnly ((holdings_finish s id st r).trans (quiet_unacted _ 0 0).holdings)

/-! ### GEN_STATE (Tables 14.1 and 15.5) -/

theorem field_lt (v lo n : Nat) : field v lo n < 2 ^ n := Nat.mod_lt _ (Nat.two_pow_pos n)

/-- The end of a command leaves every context's GEN_STATE. -/
theorem genState_finish (s : State) (id st r c : Nat) :
    (ctxOf (unacted (finish s id st r)) c).genState = (ctxOf s c).genState := (linkLoss_finish s id st r).ctx c

theorem ctxOf_updCtx_self (s : State) (c : Nat) (f : Ctx → Ctx) : ctxOf (updCtx s c f) c = f (ctxOf s c) :=
  ctxOf_setCtx_self _ _ _

theorem updCtx_pagesOnly (s : State) (c : Nat) (f : Ctx → Ctx) : PagesOnly s (updCtx s c f) := ⟨rfl, rfl, rfl, rfl⟩

theorem setGs_pagesOnly (s : State) (c lo n v : Nat) : PagesOnly s (setGs s c lo n v) := updCtx_pagesOnly s c _

theorem quiet_setGs (s : State) (c lo n v id : Nat) : Quiet s (setGs s c lo n v) id c := quiet_updCtx s id c _

theorem setGs_jobs (s : State) (c lo n v : Nat) : (setGs s c lo n v).jobs = s.jobs := updCtx_jobs _ _ _

theorem setGs_ctx (s : State) (c lo n v : Nat) :
    ctxOf (setGs s c lo n v) c = { ctxOf s c with genState := setField (ctxOf s c).genState lo n v } := ctxOf_setCtx_self _ _ _

/-- A GEN_STATE with a model's length cut to `n`; at 0 its page table is gone too. -/
def cutGen (draft : Bool) (n v : Nat) : Nat :=
  let w := setField v (if draft then 448 else 480) 32 n
  if n = 0 then setField w (if draft then 272 else 336) 64 0 else w

theorem cutGen_length (draft : Bool) (n v : Nat) :
    field (cutGen draft n v) (if draft then 448 else 480) 32 = n % 2 ^ 32 := by
  unfold cutGen
  dsimp only
  split
  · rw [field_setField_above _ _ _ _ (by cases draft <;> decide), field_setField_self]
  · exact field_setField_self _ _ _ _

/-- A field that neither holds the model's length nor its page table is not cut. -/
theorem field_cutGen {draft : Bool} (n v : Nat) {a m : Nat}
    (hlength : a + m ≤ (if draft then 448 else 480) ∨ (if draft then 448 else 480) + 32 ≤ a)
    (htable : a + m ≤ (if draft then 272 else 336) ∨ (if draft then 272 else 336) + 64 ≤ a) :
    field (cutGen draft n v) a m = field v a m := by
  have houter : ∀ w lo k x, (a + m ≤ lo ∨ lo + k ≤ a) → field (setField w lo k x) a m = field w a m := fun w lo k x h =>
    h.elim (field_setField_below _ _ _ _) (field_setField_above _ _ _ _)
  unfold cutGen
  dsimp only
  split
  · rw [houter _ _ _ _ htable, houter _ _ _ _ hlength]
  · exact houter _ _ _ _ hlength

/-! ### A sequence cut (R301) -/

/-- A model's length cut, and its pages cut off. -/
def lengthCut (s : State) (c : Nat) (draft : Bool) (n : Nat) : State := if draft then setDraftLen s c n else setLen s c n
def pagesCut (s : State) (c : Nat) (draft : Bool) : State :=
  { s with kv := tabMap s.kv (fun _ k => if k.ctx == c && k.draft == draft then { k with gone := true } else k) }

theorem cutModel_zero (s : State) (c : Nat) (draft : Bool) :
    cutModel s c draft 0 = setPt (pagesCut (lengthCut s c draft 0) c draft) c draft 0 := rfl

theorem cutModel_some (s : State) (c : Nat) (draft : Bool) {n : Nat} (h : n ≠ 0) :
    cutModel s c draft n = lengthCut s c draft n := if_neg (by simpa using h)

theorem lengthCut_eq (s : State) (c : Nat) (draft : Bool) (n : Nat) :
    lengthCut s c draft n = setGs s c (if draft then 448 else 480) 32 n := by cases draft <;> rfl

theorem cutModel_ctx (s : State) (c : Nat) (draft : Bool) (n : Nat) :
    ctxOf (cutModel s c draft n) c = { ctxOf s c with genState := cutGen draft n (ctxOf s c).genState } := by
  unfold cutGen
  by_cases hn : n = 0
  · subst hn
    rw [cutModel_zero, if_pos rfl]
    have hctx : ctxOf (pagesCut (lengthCut s c draft 0) c draft) c = _ :=
      (congrArg (ctxOf · c) (lengthCut_eq s c draft 0)).trans (setGs_ctx s c _ 32 0)
    exact (setGs_ctx _ c _ 64 0).trans (by rw [hctx])
  · rw [cutModel_some _ _ _ hn, lengthCut_eq, if_neg hn]
    exact setGs_ctx _ _ _ _ _

theorem pagesCut_kv (s : State) (c : Nat) (draft : Bool) (p : Nat) : tabGet (pagesCut s c draft).kv p =
    (tabGet s.kv p).map (fun k => { k with gone := k.gone || (k.ctx == c && k.draft == draft) }) := by
  unfold pagesCut
  rw [tabGet_tabMap]
  refine congrArg (Option.map · _) (funext fun k => ?_)
  split
  · next hk => rw [hk, Bool.or_true]
  · next hk => rw [Bool.eq_false_iff.2 hk, Bool.or_false]

theorem cutModel_kv (s : State) (c : Nat) (draft : Bool) (n p : Nat) : tabGet (cutModel s c draft n).kv p =
    (tabGet s.kv p).map (fun k => { k with gone := k.gone || (k.ctx == c && k.draft == draft && n == 0) }) := by
  by_cases hn : n = 0
  · subst hn
    rw [cutModel_zero]
    refine (pagesCut_kv (lengthCut s c draft 0) c draft p).trans ?_
    rw [lengthCut_eq]
    simp only [beq_self_eq_true, Bool.and_true]
    rfl
  · rw [cutModel_some _ _ _ hn, beq_false_of_ne hn, lengthCut_eq]
    simp only [Bool.and_false, Bool.or_false]
    exact Option.map_id'.symm

theorem worked_setGs (s : State) (c lo n v id : Nat) : Worked s (setGs s c lo n v) id c := (quiet_updCtx s id c _).worked

theorem worked_cutModel (s : State) (c : Nat) (draft : Bool) (n id : Nat) : Worked s (cutModel s c draft n) id c := by
  have hlength : Worked s (lengthCut s c draft n) id c := by
    rw [lengthCut_eq]
    exact worked_setGs _ _ _ _ _ _
  by_cases hn : n = 0
  · subst hn
    exact (hlength.trans (worked_withWork _ (pagesCut (lengthCut s c draft 0) c draft) id c)).trans (worked_setGs _ c _ 64 0 id)
  · rw [cutModel_some _ _ _ hn]
    exact hlength

theorem cutModel_pagesOnly (s : State) (c : Nat) (draft : Bool) (n : Nat) : PagesOnly s (cutModel s c draft n) := by
  unfold cutModel
  dsimp only
  split <;> cases draft <;> exact ⟨rfl, rfl, rfl, rfl⟩

theorem worked_cutKv (s : State) (c n id : Nat) : Worked s (cutKv s c n) id c :=
  (worked_cutModel s c false _ id).trans (worked_cutModel _ c true _ id)

theorem cutKv_pagesOnly (s : State) (c n : Nat) : PagesOnly s (cutKv s c n) :=
  (cutModel_pagesOnly s c false _).trans (cutModel_pagesOnly _ c true _)

theorem cutModel_jobs (s : State) (c : Nat) (draft : Bool) (n : Nat) : (cutModel s c draft n).jobs = s.jobs := by
  unfold cutModel
  dsimp only
  split <;> cases draft <;> rfl

theorem cutKv_jobs (s : State) (c n : Nat) : (cutKv s c n).jobs = s.jobs := (cutModel_jobs _ _ _ _).trans (cutModel_jobs _ _ _ _)

theorem cutKv_ctx (s : State) (c n : Nat) : ctxOf (cutKv s c n) c = { ctxOf s c with
    genState := cutGen true (Nat.min (gsDraftLen (ctxOf s c)) n) (cutGen false (Nat.min (gsLen (ctxOf s c)) n)
      (ctxOf s c).genState) } := by
  unfold cutKv
  rw [cutModel_ctx, cutModel_ctx]

theorem gsLen_cutKv (s : State) (c n : Nat) : gsLen (ctxOf (cutKv s c n) c) = Nat.min (gsLen (ctxOf s c)) n := by
  rw [cutKv_ctx]
  refine (field_cutGen (draft := true) _ _ (by decide) (by decide)).trans ((cutGen_length false _ _).trans (Nat.mod_eq_of_lt ?_))
  exact Nat.lt_of_le_of_lt (Nat.min_le_left _ _) (field_lt _ _ _)

theorem gsDraftLen_cutKv (s : State) (c n : Nat) : gsDraftLen (ctxOf (cutKv s c n) c) = Nat.min (gsDraftLen (ctxOf s c)) n := by
  rw [cutKv_ctx]
  refine (cutGen_length true _ _).trans (Nat.mod_eq_of_lt ?_)
  exact Nat.lt_of_le_of_lt (Nat.min_le_left _ _) (field_lt _ _ _)

/-- The fields below the page tables are not cut. -/
theorem field_cutKv (s : State) (c n : Nat) {a m : Nat} (h : a + m ≤ 272) :
    field (ctxOf (cutKv s c n) c).genState a m = field (ctxOf s c).genState a m := by
  rw [cutKv_ctx]
  exact (field_cutGen (draft := true) _ _ (.inl (Nat.le_trans h (by decide))) (.inl h)).trans
    (field_cutGen (draft := false) _ _ (.inl (Nat.le_trans h (by decide))) (.inl (Nat.le_trans h (by decide))))

theorem cutKv_kv (s : State) (c n p : Nat) :
    tabGet (cutKv s c n).kv p = (tabGet s.kv p).map (fun k => { k with gone := k.gone || cutOff s c n k }) := by
  unfold cutKv
  dsimp only
  rw [cutModel_kv, cutModel_kv, Option.map_map]
  refine congrArg (Option.map · _) (funext fun k => ?_)
  unfold cutOff
  cases hd : k.draft <;> simp [hd]

end Sys2Proof.Machine

/-! SUPPORT. The sampler's commands and KV_RELEASE (R301, R318, R319). -/

namespace Sys2Proof.Machine

/-! ### SAMPLER_SEED (R318) -/

theorem exec_samplerSeed {s : State} {id : Nat} {j : Job} (h : runsNow s id Op.SAMPLER_SEED noSources j = true) :
    ∃ t, exec (.samplerSeed id) s = .next t ∧ ends t id Code.OK 0 ∧ Quiet s t id j.ctx ∧
      (ctxOf t j.ctx).genState = setField (ctxOf s j.ctx).genState 192 64 (smSeed j.entry) := by
  obtain ⟨hends, hquiet⟩ := endsOnly_finish (t := setGs (acting s j) j.ctx 192 64 (smSeed j.entry)) Code.OK 0
    ((quiet_acting s j id j.ctx).trans (quiet_updCtx _ _ _ _)) (runsNow_acting (s := s) h)
  refine ⟨_, runJob_next h rfl, (ends_congr rfl).2 hends, hquiet.trans (quiet_unacted _ _ _), ?_⟩
  exact (genState_finish _ _ _ _ _).trans (congrArg Ctx.genState (setGs_ctx (acting s j) j.ctx 192 64 _))

/-! ### KV_RELEASE (R301) -/

section release

variable {s : State} {id : Nat} {j : Job} (h : runsNow s id Op.KV_RELEASE noSources j = true)

include h

theorem exec_kvRelease_waits (hturn : genTurn s id j.ctx = false) (ha : s.perf.actor = none) :
    exec (.kvRelease id) s = .next s := by
  have hturn' : genTurn (acting s j) id j.ctx = false := hturn
  exact runJob_idle h ha (if_pos (by rw [hturn']; rfl))

theorem exec_kvRelease_turn (hturn : genTurn s id j.ctx = true) : exec (.kvRelease id) s = .next (unacted (
    if gsLen (ctxOf s j.ctx) ≤ grKeep j.entry then finish (acting s j) id Code.OK_NOOP 0
    else finish (cutKv (acting s j) j.ctx (grKeep j.entry)) id Code.OK (gsLen (ctxOf s j.ctx) - grKeep j.entry))) := by
  have hturn' : genTurn (acting s j) id j.ctx = true := hturn
  exact runJob_next h (if_neg (by rw [hturn']; decide))

theorem exec_kvRelease_short (hturn : genTurn s id j.ctx = true) (hlen : gsLen (ctxOf s j.ctx) ≤ grKeep j.entry) :
    ∃ t, exec (.kvRelease id) s = .next t ∧ EndsOnly s t id j Code.OK_NOOP 0 := by
  refine ⟨_, exec_kvRelease_turn h hturn, ?_⟩
  rw [if_pos hlen]
  exact endsOnly_at_once h _ _

theorem exec_kvRelease_cuts (hturn : genTurn s id j.ctx = true) (hlen : grKeep j.entry < gsLen (ctxOf s j.ctx)) :
    ∃ t, exec (.kvRelease id) s = .next t ∧ ends t id Code.OK (gsLen (ctxOf s j.ctx) - grKeep j.entry) ∧
      gsLen (ctxOf t j.ctx) = grKeep j.entry ∧
      gsDraftLen (ctxOf t j.ctx) = Nat.min (gsDraftLen (ctxOf s j.ctx)) (grKeep j.entry) ∧
      (∀ p, tabGet t.kv p = (tabGet s.kv p).map (fun k => { k with gone := k.gone || cutOff s j.ctx (grKeep j.entry) k })) ∧
      Quiet { s with kv := t.kv } t id j.ctx := by
  have hj : tabGet (cutKv (acting s j) j.ctx (grKeep j.entry)).jobs id = some j := by
    rw [cutKv_jobs]
    exact runsNow_acting h
  have hkept := genState_finish (cutKv (acting s j) j.ctx (grKeep j.entry)) id Code.OK
    (gsLen (ctxOf s j.ctx) - grKeep j.entry) j.ctx
  have hpages : PagesOnly s (cutKv (acting s j) j.ctx (grKeep j.entry)) :=
    (HoldingsKept.pagesOnly (quiet_acting s j id j.ctx).holdings).trans (cutKv_pagesOnly _ _ _)
  refine ⟨_, (exec_kvRelease_turn h hturn).trans (by rw [if_neg (Nat.not_le.2 hlen)]), ends_end _ _ hj, ?_, ?_, fun p => ?_, ?_⟩
  · unfold gsLen at hkept ⊢
    rw [hkept]
    exact (gsLen_cutKv (acting s j) _ _).trans (Nat.min_eq_right (Nat.le_of_lt hlen))
  · unfold gsDraftLen at hkept ⊢
    rw [hkept]
    exact gsDraftLen_cutKv (acting s j) _ _
  · rw [unacted_kv, finish_kv]
    exact cutKv_kv (acting s j) _ _ p
  · exact (((worked_acting s j id j.ctx).trans (worked_cutKv _ _ _ _)).ended hj _ _).ownPages
      (hpages.trans (finish_pagesOnly _ _ _ _))

end release

/-! ### RAND_FILL (R319) -/

/-- What a RAND_FILL does once its outputs up to `n` stand. -/
def fillEnd (id count n : Nat) (t : State) : State :=
  if n < count then updJob t id (fun j => { j with phase := .running, work := [n] }) else finish t id Code.OK count

theorem quiet_fillEnd {t : State} {id : Nat} {j : Job} (count n : Nat) (hj : tabGet t.jobs id = some j) :
    Quiet t (fillEnd id count n t) id j.ctx := by
  unfold fillEnd
  split
  · exact quiet_updJob _ _ _ _
  · exact quiet_finish _ _ hj

theorem fillEnd_mem (id count n : Nat) (t : State) : (fillEnd id count n t).mem = t.mem := by
  unfold fillEnd
  split
  · rfl
  · exact finish_mem _ _ _ _

theorem fillEnd_more {t : State} {id count n : Nat} {j : Job} (hj : tabGet t.jobs id = some j) (h : n < count) :
    tabGet (fillEnd id count n t).jobs id = some { j with phase := .running, work := [n] } := by
  unfold fillEnd
  rw [if_pos h, updJob_get, hj]
  rfl

theorem fillEnd_last {t : State} {id count n : Nat} {j : Job} (hj : tabGet t.jobs id = some j) (h : count ≤ n) :
    ends (fillEnd id count n t) id Code.OK count := by
  unfold fillEnd
  rw [if_neg (Nat.not_lt.2 h)]
  exact ends_finish _ _ hj

theorem randFillBody_eq (s : State) (id : Nat) (j : Job) : randFillBody s id j =
    if smPocket j.entry = true then deliverRows s id j.ctx (smLb j.entry) (smRow j.entry + j.work.headD 0 / 16) 0 (fillBytes s j)
      (fillEnd id (smCount j.entry) (j.work.headD 0 + fillCount j))
    else withWrite s id (smDest j.entry + 16 * j.work.headD 0) (fillBytes s j).length (fun t =>
      fillEnd id (smCount j.entry) (j.work.headD 0 + fillCount j)
        (writeBytes t (smDest j.entry + 16 * j.work.headD 0) (fillBytes s j))) := rfl

theorem fillBytes_lt (s : State) (j : Job) : ∀ b ∈ fillBytes s j, b < 256 := by
  unfold fillBytes randBytes
  intro b hb
  obtain ⟨k, -, hk⟩ := List.mem_flatMap.1 hb
  exact leBytes_lt _ _ b hk

section fill

variable {s : State} {id : Nat} {j : Job} (h : runsNow s id Op.RAND_FILL noSources j = true)

include h

/-- Outputs that go to memory. -/
theorem exec_randFill_memory {u : State} (hmemory : smPocket j.entry = false)
    (hu : prepareWrite (acting s j) (fillPlace j) (fillBytes s j).length = .ready u) :
    ∃ v, exec (.randFill id) s = .next (unacted (notePosted
        (fillEnd id (smCount j.entry) (j.work.headD 0 + fillCount j) v) id (fillPlace j) (fillBytes s j).length)) ∧
      Written s v id j.ctx (fillPlace j) (fillBytes s j) ∧ tabGet v.jobs id = some j := by
  have hunits := prepareWrite_ready hu
  have hplace : fillPlace j = smDest j.entry + 16 * j.work.headD 0 := if_neg (by rw [hmemory]; decide)
  refine ⟨writeBytes u (fillPlace j) (fillBytes s j), runJob_next h ?_, .of_quiet ((quiet_acting s j id j.ctx).trans
    (quiet_units hunits id j.ctx)) (written_writeBytes u id j.ctx _ (fillBytes_lt s j)), ?_⟩
  · rw [hplace] at hu ⊢
    rw [randFillBody_eq, if_neg (by rw [hmemory]; decide)]
    unfold withWrite
    rw [show fillBytes (acting s j) j = fillBytes s j from rfl, hu]
  · rw [jobs_writeBytes, jobs_units hunits]
    exact runsNow_acting h

/-- Outputs that go into a Pocket. -/
theorem exec_randFill_pocket (hpocket : smPocket j.entry = true)
    (hclaim : claimable (ctxOf s j.ctx) [] (deliverySlots s j.ctx (smLb j.entry) (fillPlace j) (fillBytes s j).length) = true) :
    exec (.randFill id) s = .next (unacted (fillEnd id (smCount j.entry) (j.work.headD 0 + fillCount j)
      (deliveryMade (acting s j) id j.ctx (smLb j.entry) (fillPlace j) (fillBytes s j)))) := by
  have hplace : fillPlace j = 256 * (smRow j.entry + j.work.headD 0 / 16) := if_pos hpocket
  have hrow : smRow j.entry + j.work.headD 0 / 16 = fillPlace j / 256 := by omega
  have hbyte : 0 = fillPlace j % 256 := by omega
  refine runJob_next h ?_
  rw [randFillBody_eq, if_pos hpocket, hrow]
  conv_lhs => arg 6; rw [hbyte]
  exact deliverRows_made (s := acting s j) _ hclaim

/-- What a step of a RAND_FILL that writes memory leaves. -/
theorem exec_randFill_written {u : State} (hmemory : smPocket j.entry = false)
    (hu : prepareWrite (acting s j) (fillPlace j) (fillBytes s j).length = .ready u) : ∃ t, exec (.randFill id) s = .next t ∧
      (j.work.headD 0 + fillCount j < smCount j.entry →
        tabGet t.jobs id = some { j with phase := .running, work := [j.work.headD 0 + fillCount j] } ∧
        bytesAt t (fillPlace j) (fillBytes s j).length = fillBytes s j ∧
        (∀ a, a < fillPlace j ∨ fillPlace j + (fillBytes s j).length ≤ a → byteAt t a = byteAt s a) ∧
        Beside s t id j.ctx ∧ HoldingsKept s t ∧ t.indexes = s.indexes) ∧
      (smCount j.entry ≤ j.work.headD 0 + fillCount j →
        EndsWith s t id j (fillPlace j) (fillBytes s j) Code.OK (smCount j.entry)) := by
  obtain ⟨v, hexec, hwritten, hjob⟩ := exec_randFill_memory h hmemory hu
  have hend := ((quiet_fillEnd (smCount j.entry) (j.work.headD 0 + fillCount j) hjob).trans (quiet_notePosted _ id (fillPlace j)
    (fillBytes s j).length id j.ctx)).trans (quiet_unacted _ id j.ctx)
  have hdone := hwritten.quiet hend ((notePosted_mem _ _ _ _).trans (fillEnd_mem _ _ _ _))
  refine ⟨_, hexec, fun hmore => ⟨?_, hdone.written, hdone.outside, hdone.beside, hdone.holdings, hdone.indexes⟩,
    fun hlast => ⟨(ends_congr (notePosted_jobs _ _ _ _)).2 (fillEnd_last hjob hlast), hdone.written, hdone.outside, hdone.beside,
      hdone.holdings, hdone.indexes⟩⟩
  rw [unacted_jobs, notePosted_jobs]
  exact fillEnd_more hjob hmore

/-- What a step of a RAND_FILL that writes a Pocket leaves. -/
theorem exec_randFill_delivered {b : Nat} (hpocket : smPocket j.entry = true)
    (hphys : physBlock (ctxOf s j.ctx) (smLb j.entry) = some b)
    (hclaim : claimable (ctxOf s j.ctx) [] (deliverySlots s j.ctx (smLb j.entry) (fillPlace j) (fillBytes s j).length) = true) :
    ∃ t, exec (.randFill id) s = .next t ∧ pocketRead t b 0 (fillPlace j) (fillBytes s j).length = fillBytes s j ∧
      (∀ k, k < pocketAddr b 0 (fillPlace j) ∨ pocketAddr b 0 (fillPlace j) + (fillBytes s j).length ≤ k →
        memByte t.pocket k = memByte s.pocket k) ∧
      Quiet { s with pocket := t.pocket } t id j.ctx ∧
      (j.work.headD 0 + fillCount j < smCount j.entry →
        tabGet t.jobs id = some { j with stalled := [], phase := .running, work := [j.work.headD 0 + fillCount j] }) ∧
      (smCount j.entry ≤ j.work.headD 0 + fillCount j → ends t id Code.OK (smCount j.entry)) := by
  obtain ⟨hin, hout⟩ := deliveryMade_pocket (s := acting s j) (id := id) (c := j.ctx) (lb := smLb j.entry) (k := fillPlace j)
    (fillBytes_lt s j) hphys
  have hmade := quiet_deliveryMade (acting s j) id j.ctx (smLb j.entry) (fillPlace j) (fillBytes s j) s.belt
    (deliveryMade (acting s j) id j.ctx (smLb j.entry) (fillPlace j) (fillBytes s j)).pocket
  have hbelt : (deliveryMade (acting s j) id j.ctx (smLb j.entry) (fillPlace j) (fillBytes s j)).belt = s.belt :=
    (pocketWork_bytesDelivered (acting s j) j.ctx _ _ _).calm.belt
  have hjob := deliveryMade_job (c := j.ctx) (lb := smLb j.entry) (k := fillPlace j) (bs := fillBytes s j) (runsNow_acting h)
  refine ⟨_, exec_randFill_pocket h hpocket hclaim, ?_⟩
  generalize deliveryMade (acting s j) id j.ctx (smLb j.entry) (fillPlace j) (fillBytes s j) = v at *
  have hend := (quiet_fillEnd (smCount j.entry) (j.work.headD 0 + fillCount j) hjob).trans (quiet_unacted _ id j.ctx)
  have hquiet : Quiet (withHeld (acting s j) s.belt v.pocket) v id j.ctx := by
    rw [← hbelt] at hmade ⊢
    exact hmade
  refine ⟨(pocketRead_congr hend.holdings.pocket _ _ _ _).trans hin, fun k hk => ?_, ?_, fillEnd_more hjob, fillEnd_last hjob⟩
  · rw [hend.holdings.pocket]
    exact hout k hk
  · rw [hend.holdings.pocket]
    exact (((quiet_acting s j id j.ctx).withHeld s.belt (p := v.pocket) rfl).trans hquiet).trans hend

end fill

end Sys2Proof.Machine

/-! SUPPORT. The Veil's commands and the fetches of masks (R320, R321, R323). -/

namespace Sys2Proof.Machine

/-! ### Another table of grammars (R320, R321) -/

/-- A command ends that leaves another table of grammars, with the map of those that are resident. -/
theorem grammars_ended {s v : State} {id : Nat} {j : Job} (hw : Worked s v id j.ctx)
    (hrest : v.gens = s.gens ∧ v.kv = s.kv ∧ v.belt = s.belt ∧ v.pocket = s.pocket) (hj : tabGet v.jobs id = some j) (st r : Nat) :
    let t := unacted (finish (reportGrammars v) id st r)
    ends t id st r ∧ t.grammars = v.grammars ∧
      reg t Key.VEIL_RESIDENT_MAP = (tabKeys t.grammars).foldl (fun m g => m + 2 ^ g) 0 ∧
      Quiet { s with grammars := t.grammars } t id j.ctx := by
  obtain ⟨hgens, hkv, hbelt, hpocket⟩ := hrest
  have hgrammars : (unacted (finish (reportGrammars v) id st r)).grammars = v.grammars := by
    rw [unacted_grammars, finish_grammars]
    rfl
  have hreport : Quiet v (reportGrammars v) id j.ctx := (still_setReg v _ (by decide) (by decide)).quiet id j.ctx
  have hj' : tabGet (reportGrammars v).jobs id = some j := hj
  refine ⟨ends_end st r hj', hgrammars, ?_, ((hw.trans hreport.worked).ended hj' st r).ownGrammars ?_ ?_ ?_ ?_⟩
  · rw [hgrammars, reg_unacted, reg_finish]
    exact reg_setReg_self _ _ _
  · rw [unacted_gens, finish_gens]
    exact hgens
  · rw [unacted_kv, finish_kv]
    exact hkv
  · rw [unacted_belt, finish_belt]
    exact hbelt
  · rw [unacted_pocket, finish_pocket]
    exact hpocket

/-! ### VEIL_LOAD (R320) -/

/-- A VEIL_LOAD names no grammar that it can load, or no image that it can read. -/
def loadRefused (s : State) (e : Nat) : Bool :=
  reg s Key.VEIL_MAX_GRAMMARS ≤ smGrammar e || tabHas s.grammars (smGrammar e) || smDest e % 4096 != 0 ||
    !inHbm s (smDest e) 64

theorem loadRefused_iff {s : State} {e : Nat} : loadRefused s e = true ↔
    reg s Key.VEIL_MAX_GRAMMARS ≤ smGrammar e ∨ tabHas s.grammars (smGrammar e) = true ∨ smDest e % 4096 ≠ 0 ∨
      inHbm s (smDest e) 64 = false := by
  simp [loadRefused, or_assoc]

/-- The image has passed: every Veil holds the grammar. -/
def grammarLoaded (s : State) (e : Nat) : State :=
  touchRange { s with grammars := tabSet s.grammars (smGrammar e) { addr := smDest e } } (smDest e)
    (gmBytes (gmHead { s with grammars := tabSet s.grammars (smGrammar e) { addr := smDest e } } (smDest e)))

section load

variable {s : State} {id : Nat} {j : Job} (h : runsNow s id Op.VEIL_LOAD noSources j = true)

include h

theorem exec_veilLoad_refused (hbad : loadRefused s j.entry = true) :
    ∃ t, exec (.veilLoad id) s = .next t ∧ EndsOnly s t id j Code.BAD_FIELD headerFault :=
  ⟨_, runJob_next h (if_pos hbad), endsOnly_at_once h _ _⟩

variable (hnew : loadRefused s j.entry = false)

include hnew

theorem exec_veilLoad_noHeader (hbad : readBad s (smDest j.entry) 64 = true) :
    ∃ t, exec (.veilLoad id) s = .next t ∧ EndsOnly s t id j Code.ECC_UNCORRECTABLE 0 :=
  ⟨_, runJob_next h ((if_neg (Bool.eq_false_iff.1 hnew)).trans (if_pos hbad)), endsOnly_at_once h _ _⟩

variable (hhead : readBad s (smDest j.entry) 64 = false)

include hhead

theorem exec_veilLoad_version (hbad : field (gmHead s (smDest j.entry)) 0 8 ≠ 1) :
    ∃ t, exec (.veilLoad id) s = .next t ∧ EndsOnly s t id j Code.VERSION_UNSUPPORTED 0 :=
  ⟨_, runJob_next h ((if_neg (Bool.eq_false_iff.1 hnew)).trans ((if_neg (Bool.eq_false_iff.1 hhead)).trans
    (if_pos (bne_iff_ne.2 hbad)))), endsOnly_at_once h _ _⟩

variable (hversion : field (gmHead s (smDest j.entry)) 0 8 = 1)

include hversion

theorem exec_veilLoad_header (hbad : grammarHeadBad s (smDest j.entry) = true) :
    ∃ t, exec (.veilLoad id) s = .next t ∧ EndsOnly s t id j Code.BAD_FIELD headerFault :=
  ⟨_, runJob_next h ((if_neg (Bool.eq_false_iff.1 hnew)).trans ((if_neg (Bool.eq_false_iff.1 hhead)).trans
    ((if_neg (show ¬(field (gmHead s (smDest j.entry)) 0 8 != 1) = true by simp [hversion])).trans (if_pos hbad)))),
    endsOnly_at_once h _ _⟩

variable (hlimits : grammarHeadBad s (smDest j.entry) = false)

include hlimits

/-- The step of a VEIL_LOAD whose header has passed. -/
theorem exec_veilLoad_image {X : State}
    (hX : (if readBad s (smDest j.entry) (gmBytes (gmHead s (smDest j.entry))) = true then
        finish (acting s j) id Code.ECC_UNCORRECTABLE 0
      else match (List.range (gmStates (gmHead s (smDest j.entry)))).find? (stateBad s (smDest j.entry)) with
        | some st => finish (acting s j) id Code.BAD_FIELD st
        | none => finish (reportGrammars (grammarLoaded (acting s j) j.entry)) id Code.OK
            (gmStates (gmHead s (smDest j.entry)))) = X) : exec (.veilLoad id) s = .next (unacted X) := by
  subst hX
  exact runJob_next h ((if_neg (Bool.eq_false_iff.1 hnew)).trans ((if_neg (Bool.eq_false_iff.1 hhead)).trans
    ((if_neg (show ¬(field (gmHead s (smDest j.entry)) 0 8 != 1) = true by simp [hversion])).trans
      (if_neg (Bool.eq_false_iff.1 hlimits)))))

theorem exec_veilLoad_noImage (hbad : readBad s (smDest j.entry) (gmBytes (gmHead s (smDest j.entry))) = true) :
    ∃ t, exec (.veilLoad id) s = .next t ∧ EndsOnly s t id j Code.ECC_UNCORRECTABLE 0 :=
  ⟨_, exec_veilLoad_image h hnew hhead hversion hlimits (if_pos hbad), endsOnly_at_once h _ _⟩

variable (himage : readBad s (smDest j.entry) (gmBytes (gmHead s (smDest j.entry))) = false)

include himage

/-- The first state at fault is told. -/
theorem exec_veilLoad_state {st : Nat} (hst : st < gmStates (gmHead s (smDest j.entry)))
    (hbad : stateBad s (smDest j.entry) st = true) (hfirst : ∀ k, k < st → stateBad s (smDest j.entry) k = false) :
    ∃ t, exec (.veilLoad id) s = .next t ∧ EndsOnly s t id j Code.BAD_FIELD st := by
  have hfind : (List.range (gmStates (gmHead s (smDest j.entry)))).find? (stateBad s (smDest j.entry)) = some st := by
    rw [List.find?_range_eq_some]
    exact ⟨hbad, List.mem_range.2 hst, fun k hk => by rw [hfirst k hk]; rfl⟩
  refine ⟨_, exec_veilLoad_image h hnew hhead hversion hlimits ((if_neg (Bool.eq_false_iff.1 himage)).trans ?_),
    endsOnly_at_once h Code.BAD_FIELD st⟩
  rw [hfind]

theorem exec_veilLoad_loads
    (hgood : ∀ st, st < gmStates (gmHead s (smDest j.entry)) → stateBad s (smDest j.entry) st = false) :
    ∃ t, exec (.veilLoad id) s = .next t ∧ ends t id Code.OK (gmStates (gmHead s (smDest j.entry))) ∧
      (∀ g, tabGet t.grammars g = if g = smGrammar j.entry then some { addr := smDest j.entry } else tabGet s.grammars g) ∧
      reg t Key.VEIL_RESIDENT_MAP = (tabKeys t.grammars).foldl (fun m g => m + 2 ^ g) 0 ∧
      Quiet { s with grammars := t.grammars } t id j.ctx := by
  have hfind : (List.range (gmStates (gmHead s (smDest j.entry)))).find? (stateBad s (smDest j.entry)) = none :=
    List.find?_eq_none.2 fun st hst => by rw [hgood st (List.mem_range.1 hst)]; decide
  have hworked : Worked s (grammarLoaded (acting s j) j.entry) id j.ctx :=
    ((worked_acting s j id j.ctx).trans (worked_withWork _ { s with grammars := _ } id j.ctx)).trans
      (quiet_touchRange _ _ _ id j.ctx).worked
  have hjob : tabGet (grammarLoaded (acting s j) j.entry).jobs id = some j := by
    unfold grammarLoaded
    rw [jobs_touchRange]
    exact runsNow_acting (s := s) h
  have hrest : (grammarLoaded (acting s j) j.entry).gens = s.gens ∧ (grammarLoaded (acting s j) j.entry).kv = s.kv ∧
      (grammarLoaded (acting s j) j.entry).belt = s.belt ∧ (grammarLoaded (acting s j) j.entry).pocket = s.pocket :=
    ⟨touchRange_gens _ _ _, touchRange_kv _ _ _, touchRange_belt _ _ _, touchRange_pocket _ _ _⟩
  obtain ⟨hends, hgrammars, hmap, hquiet⟩ := grammars_ended hworked hrest hjob Code.OK (gmStates (gmHead s (smDest j.entry)))
  refine ⟨_, exec_veilLoad_image h hnew hhead hversion hlimits ((if_neg (Bool.eq_false_iff.1 himage)).trans ?_), hends,
    fun g => ?_, hmap, hquiet⟩
  · rw [hfind]
  · rw [hgrammars]
    exact (congrArg (tabGet · g) (touchRange_grammars _ _ _)).trans (tabGet_tabSet _ _ _ _)

end load

/-! ### VEIL_UNLOAD (R321) -/

section unload

variable {s : State} {id : Nat} {j : Job} (h : runsNow s id Op.VEIL_UNLOAD noSources j = true)

include h

/-- A grammar that is not loaded, or that another unload closes. -/
theorem exec_veilUnload_other (hother : ∀ x, tabGet s.grammars (smGrammar j.entry) = some x → x.closing ≠ some id) :
    ∃ t, exec (.veilUnload id) s = .next t ∧ EndsOnly s t id j Code.OK_NOOP 0 := by
  refine ⟨_, runJob_next h ?_, endsOnly_at_once h Code.OK_NOOP 0⟩
  unfold veilUnloadBody
  dsimp only
  cases hx : tabGet s.grammars (smGrammar j.entry) with
  | none => rw [show tabGet (acting s j).grammars (smGrammar j.entry) = none from hx]
  | some x =>
    rw [show tabGet (acting s j).grammars (smGrammar j.entry) = some x from hx]
    exact if_pos (bne_iff_ne.2 (hother x hx))

variable {x : Grammar} (hx : tabGet s.grammars (smGrammar j.entry) = some x) (hmine : x.closing = some id)

include hx hmine

omit h in
theorem veilUnloadBody_mine : veilUnloadBody (acting s j) id j = if x.pins.any (isOpen s) = true then acting s j
    else finish (reportGrammars { acting s j with grammars := tabDel s.grammars (smGrammar j.entry) }) id Code.OK 0 := by
  unfold veilUnloadBody
  dsimp only
  rw [show tabGet (acting s j).grammars (smGrammar j.entry) = some x from hx]
  exact if_neg (by simp [hmine])

theorem exec_veilUnload_pinned (hpin : ∃ k ∈ x.pins, isOpen s k = true) (ha : s.perf.actor = none) :
    exec (.veilUnload id) s = .next s :=
  runJob_idle h ha ((veilUnloadBody_mine hx hmine).trans (if_pos (List.any_eq_true.2 hpin)))

theorem exec_veilUnload_freed (hfree : ∀ k ∈ x.pins, isOpen s k = false) :
    ∃ t, exec (.veilUnload id) s = .next t ∧ ends t id Code.OK 0 ∧
      (∀ g, tabGet t.grammars g = if g = smGrammar j.entry then none else tabGet s.grammars g) ∧
      reg t Key.VEIL_RESIDENT_MAP = (tabKeys t.grammars).foldl (fun m g => m + 2 ^ g) 0 ∧
      Quiet { s with grammars := t.grammars } t id j.ctx := by
  have hnone : ¬x.pins.any (isOpen s) = true := by
    rw [List.any_eq_true]
    rintro ⟨k, hk, hopen⟩
    exact Bool.eq_false_iff.1 (hfree k hk) hopen
  have hworked : Worked s { acting s j with grammars := tabDel s.grammars (smGrammar j.entry) } id j.ctx :=
    (worked_acting s j id j.ctx).trans (worked_withWork _ { s with grammars := _ } id j.ctx)
  obtain ⟨hends, hgrammars, hmap, hquiet⟩ := grammars_ended (j := j) hworked ⟨rfl, rfl, rfl, rfl⟩
    (runsNow_acting (s := s) h) Code.OK 0
  refine ⟨_, runJob_next h ((veilUnloadBody_mine hx hmine).trans (if_neg hnone)), hends, fun g => ?_, hmap, hquiet⟩
  rw [hgrammars]
  by_cases hg : g = smGrammar j.entry
  · rw [if_pos hg, hg]
    exact tabGet_tabDel_self _ _
  · rw [if_neg hg]
    exact tabGet_tabDel_ne _ hg

end unload

/-! ### Fetches of masks (R323) -/

/-- A fetched mask is one that a request of the running device wants. -/
def maskWanted (s : State) (id st : Nat) (g : GenReq) : Bool :=
  running s && isOpen s id && inStep g && (genStates s g).contains st && !g.masks.contains st

theorem veilMaskFetchDone_idle {s : State} {id st : Nat} (cached : Bool)
    (h : ∀ g, tabGet s.gens id = some g → genGrammar s g = none ∨ maskWanted s id st g = false) :
    veilMaskFetchDone s id st cached = s := by
  unfold veilMaskFetchDone
  split
  · next g hg =>
    split
    · next a ha =>
      have hno := (h g hg).resolve_left (by rw [ha]; exact Option.some_ne_none a)
      exact if_neg (Bool.eq_false_iff.1 hno)
    · rfl
  · rfl

/-- A mask in the sampler's buffer, counted. -/
def maskHeld (s : State) (id st a : Nat) (g : GenReq) : State :=
  tallyGen (bump (updGen (touchRanges s (stateReads s a st)) id (fun g => { g with masks := st :: g.masks }))
    Key.VEIL_MASKS_FETCHED 1) id g.ctx 0x20F 1
def maskCounted (s : State) (id st a : Nat) (cached : Bool) (g : GenReq) : State :=
  if cached then bump (maskHeld s id st a g) Key.VEIL_CACHE_HITS 1 else maskHeld s id st a g

theorem side_tallyGen (s : State) (id c event n : Nat) : Side s (tallyGen s id c event n) := by
  unfold tallyGen
  split
  · next j _ =>
    obtain ⟨⟩ := side_tallyJob { s with perf := { s.perf with actor := some c } } j event n
    constructor <;> first | assumption | rfl
  · exact .refl s

theorem quiet_closeUnit (s : State) (c u id : Nat) : Quiet s (closeUnit s c u) id c := by
  have hset : ∀ x, Quiet s (setCtx s c x) id c := fun x => ⟨fun _ => rfl, beside_setCtx _ _ _ _, holdings_setCtx _ _ _, rfl⟩
  unfold closeUnit
  dsimp only
  split
  · split
    · exact (hset _).trans (quiet_bump _ _ _ _ _ (by decide))
    · exact hset _
  · exact .refl _ _ _

theorem closeUnit_kept (s : State) (c u : Nat) : (closeUnit s c u).jobs = s.jobs ∧
    reg (closeUnit s c u) Key.VEIL_MASKS_FETCHED = reg s Key.VEIL_MASKS_FETCHED ∧
    reg (closeUnit s c u) Key.VEIL_CACHE_HITS = reg s Key.VEIL_CACHE_HITS := by
  unfold closeUnit
  dsimp only
  split
  · split
    · exact ⟨rfl, reg_bump_ne _ _ (by decide), reg_bump_ne _ _ (by decide)⟩
    · exact ⟨rfl, rfl, rfl⟩
  · exact ⟨rfl, rfl, rfl⟩

section fetch

variable {s : State} {id st a : Nat} (cached : Bool) {g : GenReq} (hg : tabGet s.gens id = some g)
  (ha : genGrammar s g = some a) (hwanted : maskWanted s id st g = true)

include hg ha hwanted

theorem veilMaskFetchDone_wanted : veilMaskFetchDone s id st cached =
    if (stateReads s a st).any (fun r => readBad s r.1 r.2) then finish s id Code.ECC_UNCORRECTABLE 0
    else if masksWanted (maskCounted s id st a cached g) g.ctx then maskCounted s id st a cached g
    else closeUnit (maskCounted s id st a cached g) g.ctx veilUnit := by
  unfold veilMaskFetchDone
  rw [hg]
  dsimp only
  rw [ha]
  exact if_pos hwanted

theorem exec_maskFetch_unreadable (hbad : ∃ r ∈ stateReads s a st, readBad s r.1 r.2 = true) :
    ∃ t, exec (.veilMaskFetchDone id st cached) s = .next t ∧ ends t id Code.ECC_UNCORRECTABLE 0 ∧ OnlyOutcome s t := by
  have hopen : isOpen s id = true := by
    simp only [maskWanted, Bool.and_eq_true] at hwanted
    obtain ⟨⟨⟨⟨-, hopen⟩, -⟩, -⟩, -⟩ := hwanted
    exact hopen
  obtain ⟨j, hj⟩ : ∃ j, tabGet s.jobs id = some j := by
    unfold isOpen at hopen
    split at hopen
    · next j hj => exact ⟨j, hj⟩
    · exact Bool.noConfusion hopen
  exact ⟨_, congrArg Host.Outcome.next ((veilMaskFetchDone_wanted cached hg ha hwanted).trans
    (if_pos (List.any_eq_true.2 hbad))), ends_finish _ _ hj,
    onlyOutcome_finish s id _ _ (finish s id Code.ECC_UNCORRECTABLE 0).perf.actor⟩

omit ha hwanted in
/-- A mask in the buffer: the request holds it, and nothing else that is held differs. -/
theorem maskCounted_kept : let t := maskCounted s id st a cached g
    (∀ k, tabGet t.gens k = if k = id then some { g with masks := st :: g.masks } else tabGet s.gens k) ∧ t.jobs = s.jobs ∧
      Quiet { s with gens := t.gens } t id g.ctx ∧
      reg t Key.VEIL_MASKS_FETCHED = reg (bump s Key.VEIL_MASKS_FETCHED 1) Key.VEIL_MASKS_FETCHED ∧
      reg t Key.VEIL_CACHE_HITS = if cached then reg (bump s Key.VEIL_CACHE_HITS 1) Key.VEIL_CACHE_HITS
        else reg s Key.VEIL_CACHE_HITS := by
  have hread := quiet_touchRanges s (stateReads s a st) id g.ctx
  have hjobs := jobs_touchRanges s (stateReads s a st)
  have hregs : ∀ k, sideKey k = false → reg (touchRanges s (stateReads s a st)) k = reg s k := fun k hk =>
    (recorded_touchRanges s (stateReads s a st)).reg hk
  unfold maskCounted maskHeld
  generalize touchRanges s (stateReads s a st) = u at *
  have htally := side_tallyGen (bump (updGen u id (fun g => { g with masks := st :: g.masks })) Key.VEIL_MASKS_FETCHED 1) id
    g.ctx 0x20F 1
  have hfetched : reg (bump (updGen u id (fun g => { g with masks := st :: g.masks })) Key.VEIL_MASKS_FETCHED 1)
      Key.VEIL_MASKS_FETCHED = reg (bump s Key.VEIL_MASKS_FETCHED 1) Key.VEIL_MASKS_FETCHED :=
    reg_bump_congr 1 (hregs _ (by decide))
  have hhits : reg (bump (updGen u id (fun g => { g with masks := st :: g.masks })) Key.VEIL_MASKS_FETCHED 1)
      Key.VEIL_CACHE_HITS = reg s Key.VEIL_CACHE_HITS := (reg_bump_ne _ _ (by decide)).trans (hregs _ (by decide))
  have hworked : Worked s (bump (updGen u id (fun g => { g with masks := st :: g.masks })) Key.VEIL_MASKS_FETCHED 1) id g.ctx :=
    (hread.worked.trans (worked_updGen u id _ id g.ctx)).trans
      (quiet_bump _ Key.VEIL_MASKS_FETCHED 1 _ _ (by decide)).worked
  have hgens : ∀ k, tabGet (updGen u id (fun g => { g with masks := st :: g.masks })).gens k =
      if k = id then some { g with masks := st :: g.masks } else tabGet s.gens k := fun k => by
    unfold updGen
    dsimp only
    rw [hread.holdings.gens]
    by_cases hk : k = id
    · rw [if_pos hk, hk, tabGet_tabUpd_self, hg]
      rfl
    · rw [if_neg hk]
      exact tabGet_tabUpd_ne _ _ hk
  have hall := hworked.trans (quiet_of_side htally id g.ctx).worked
  have hbumped := hall.trans (quiet_bump _ Key.VEIL_CACHE_HITS 1 id g.ctx (by decide)).worked
  cases cached with
  | false =>
    refine ⟨fun k => (congrArg (tabGet · k) htally.gens).trans (hgens k), htally.jobs.trans hjobs,
      hall.ownGens (htally.kv.trans hread.holdings.kv) (htally.grammars.trans hread.holdings.grammars)
        (htally.belt.trans hread.holdings.belt) (htally.pocket.trans hread.holdings.pocket),
      (htally.regs _ (by decide)).trans hfetched, (htally.regs _ (by decide)).trans hhits⟩
  | true =>
    refine ⟨fun k => (congrArg (tabGet · k) htally.gens).trans (hgens k), htally.jobs.trans hjobs,
      hbumped.ownGens (htally.kv.trans hread.holdings.kv) (htally.grammars.trans hread.holdings.grammars)
        (htally.belt.trans hread.holdings.belt) (htally.pocket.trans hread.holdings.pocket),
      (reg_bump_ne _ _ (by decide)).trans ((htally.regs _ (by decide)).trans hfetched),
      reg_bump_congr 1 ((htally.regs _ (by decide)).trans hhits)⟩

theorem exec_maskFetch_held (hgood : ∀ r ∈ stateReads s a st, readBad s r.1 r.2 = false) :
    ∃ t, exec (.veilMaskFetchDone id st cached) s = .next t ∧
      (∀ k, tabGet t.gens k = if k = id then some { g with masks := st :: g.masks } else tabGet s.gens k) ∧
      t.jobs = s.jobs ∧ Quiet { s with gens := t.gens } t id g.ctx ∧
      reg t Key.VEIL_MASKS_FETCHED = reg (bump s Key.VEIL_MASKS_FETCHED 1) Key.VEIL_MASKS_FETCHED ∧
      reg t Key.VEIL_CACHE_HITS = if cached then reg (bump s Key.VEIL_CACHE_HITS 1) Key.VEIL_CACHE_HITS
        else reg s Key.VEIL_CACHE_HITS := by
  have hreads : ¬(stateReads s a st).any (fun r => readBad s r.1 r.2) = true := by
    rw [List.any_eq_true]
    rintro ⟨r, hr, hbad⟩
    exact Bool.eq_false_iff.1 (hgood r hr) hbad
  have hstep := (veilMaskFetchDone_wanted cached hg ha hwanted).trans (if_neg hreads)
  obtain ⟨hgens, hjobs, hquiet, hfetched, hhits⟩ := maskCounted_kept (st := st) (a := a) cached hg
  refine ⟨_, congrArg Host.Outcome.next hstep, ?_⟩
  generalize maskCounted s id st a cached g = u at *
  split
  · exact ⟨hgens, hjobs, hquiet, hfetched, hhits⟩
  · obtain ⟨hjobs', hfetched', hhits'⟩ := closeUnit_kept u g.ctx veilUnit
    have hclose := quiet_closeUnit u g.ctx veilUnit id
    have hgens' : (closeUnit u g.ctx veilUnit).gens = u.gens := hclose.holdings.gens
    rw [hgens']
    exact ⟨hgens, hjobs'.trans hjobs, hquiet.trans hclose, hfetched'.trans hfetched, hhits'.trans hhits⟩

end fetch

end Sys2Proof.Machine

/-! SUPPORT. The start of a GEN_RUN (R290, R291, R306). -/

namespace Sys2Proof.Machine

/-! ### Requests that are refused (R300) -/

theorem worked_genRelease (s : State) (c d id : Nat) : Worked s (genRelease s c d) id c := by
  have hcut : Worked s (if rdKeepKv d then s else cutKv s c 0) id c := by
    split
    · exact (Quiet.refl s id c).worked
    · exact worked_cutKv s c 0 id
  unfold genRelease
  dsimp only
  split
  · exact (Quiet.refl s id c).worked
  · split
    · exact hcut.trans (quiet_updCtx _ id c _).worked
    · exact hcut

theorem genRelease_pagesOnly (s : State) (c d : Nat) : PagesOnly s (genRelease s c d) := by
  have hcut : PagesOnly s (if rdKeepKv d then s else cutKv s c 0) := by
    split
    · exact .refl s
    · exact cutKv_pagesOnly s c 0
  unfold genRelease
  dsimp only
  split
  · exact .refl s
  · split
    · exact hcut.trans ⟨rfl, rfl, rfl, rfl⟩
    · exact hcut

theorem genRelease_jobs (s : State) (c d : Nat) : (genRelease s c d).jobs = s.jobs := by
  have hcut : (if rdKeepKv d then s else cutKv s c 0).jobs = s.jobs := by
    split
    · rfl
    · exact cutKv_jobs s c 0
  unfold genRelease
  dsimp only
  split
  · rfl
  · split
    · exact hcut
    · exact hcut

/-- On a context that still exists, what a request held goes unless KEEP_KV says otherwise; END_REASON stays. -/
theorem genRelease_sequence {s : State} {c : Nat} (d : Nat) (h : (ctxOf s c).state ≠ .free) :
    field (ctxOf (genRelease s c d) c).genState 264 8 = field (ctxOf s c).genState 264 8 ∧
      (rdKeepKv d = false → gsLen (ctxOf (genRelease s c d) c) = 0) := by
  have hfree : ∀ u : State, (ctxOf (if rdFree d then updCtx u c (fun x => { x with freeOnEnd := true }) else u) c).genState =
      (ctxOf u c).genState := fun u => by
    split
    · rw [ctxOf_updCtx_self]
    · rfl
  unfold genRelease
  rw [if_neg (by simpa using h)]
  dsimp only
  unfold gsLen
  rw [hfree]
  cases hkeep : rdKeepKv d with
  | true => exact ⟨rfl, Bool.noConfusion⟩
  | false => exact ⟨field_cutKv s c 0 (by decide), fun _ => (gsLen_cutKv s c 0).trans (Nat.min_zero _)⟩

/-- What a refusal leaves. -/
theorem genRefuse_clauses {s v : State} {id : Nat} {j : Job} (hw : Quiet s v id j.ctx) (hj : tabGet v.jobs id = some j)
    (d st : Nat) : ends (unacted (genRefuse v id j.ctx d st)) id st 0 ∧
      Quiet { s with kv := (unacted (genRefuse v id j.ctx d st)).kv } (unacted (genRefuse v id j.ctx d st)) id j.ctx := by
  have hreason : Quiet v (if isSuccess st then v else setEndReason v j.ctx endFailed) id j.ctx := by
    split
    · exact .refl _ _ _
    · exact quiet_setGs v j.ctx 264 8 endFailed id
  have hj' : tabGet (if isSuccess st then v else setEndReason v j.ctx endFailed).jobs id = some j := by
    split
    · exact hj
    · exact hj
  unfold genRefuse
  dsimp only
  generalize (if isSuccess st then v else setEndReason v j.ctx endFailed) = u at *
  have hreleased : tabGet (genRelease u j.ctx d).jobs id = some j := by
    rw [genRelease_jobs]
    exact hj'
  have hquiet := hw.trans hreason
  exact ⟨ends_end _ _ hreleased, ((hquiet.worked.trans (worked_genRelease u j.ctx d id)).ended hreleased st 0).ownPages
    (hquiet.holdings.pagesOnly.trans ((genRelease_pagesOnly u j.ctx d).trans (finish_pagesOnly _ _ _ _)))⟩

/-- A request that is refused for a fault leaves that as its END_REASON. -/
theorem genRefuse_reason {v : State} {c st : Nat} (id d : Nat) (hst : isSuccess st = false) (h : (ctxOf v c).state ≠ .free) :
    field (ctxOf (unacted (genRefuse v id c d st)) c).genState 264 8 = endFailed ∧
      (rdKeepKv d = false → gsLen (ctxOf (unacted (genRefuse v id c d st)) c) = 0) := by
  have hctx : ctxOf (setEndReason v c endFailed) c = _ := setGs_ctx v c 264 8 endFailed
  obtain ⟨hreason, hlen⟩ := genRelease_sequence (s := setEndReason v c endFailed) (c := c) d (by rw [hctx]; exact h)
  have hkept := genState_finish (genRelease (setEndReason v c endFailed) c d) id st 0 c
  have hrefuse : genRefuse v id c d st = finish (genRelease (setEndReason v c endFailed) c d) id st 0 := by
    unfold genRefuse
    rw [hst]
    rfl
  unfold gsLen at hlen ⊢
  rw [hrefuse, hkept, hreason, hctx]
  exact ⟨field_setField_self _ _ _ _, hlen⟩

/-! ### Prompts that are taken (R291, R292) -/

/-- A new sequence begins, or the held one goes on. -/
def sequenceBegun (s : State) (c d b m : Nat) : State :=
  let s1 := updCtx (if rdAppend d then s else cutKv s c 0) c (fun x => { x with kvModel := some (miModel m) })
  setGs (setGs (setGs (setGs (setGs s1 c 408 8 (rdDraftLen d)) c 400 8 0) c 136 24 (sbStart b)) c 120 16
    (sbGrammar b)) c 119 1 (flagBit (sbGrammarEn b))

theorem worked_sequenceBegun (s : State) (c d b m id : Nat) : Worked s (sequenceBegun s c d b m) id c := by
  have hcut : Worked s (if rdAppend d then s else cutKv s c 0) id c := by
    split
    · exact (Quiet.refl s id c).worked
    · exact worked_cutKv s c 0 id
  exact (((((hcut.trans (quiet_updCtx _ id c _).worked).trans (worked_setGs _ _ _ _ _ _)).trans
    (worked_setGs _ _ _ _ _ _)).trans (worked_setGs _ _ _ _ _ _)).trans (worked_setGs _ _ _ _ _ _)).trans
    (worked_setGs _ _ _ _ _ _)

theorem sequenceBegun_pagesOnly (s : State) (c d b m : Nat) : PagesOnly s (sequenceBegun s c d b m) := by
  have hcut : PagesOnly s (if rdAppend d then s else cutKv s c 0) := by
    split
    · exact .refl s
    · exact cutKv_pagesOnly s c 0
  exact (((((hcut.trans (updCtx_pagesOnly _ c _)).trans (setGs_pagesOnly _ _ _ _ _)).trans (setGs_pagesOnly _ _ _ _ _)).trans
    (setGs_pagesOnly _ _ _ _ _)).trans (setGs_pagesOnly _ _ _ _ _)).trans (setGs_pagesOnly _ _ _ _ _)

theorem sequenceBegun_jobs (s : State) (c d b m : Nat) : (sequenceBegun s c d b m).jobs = s.jobs := by
  have hcut : (if rdAppend d then s else cutKv s c 0).jobs = s.jobs := by
    split
    · rfl
    · exact cutKv_jobs s c 0
  unfold sequenceBegun
  dsimp only
  rw [setGs_jobs, setGs_jobs, setGs_jobs, setGs_jobs, setGs_jobs, updCtx_jobs]
  exact hcut

/-- LEN of a sequence that begins is 0, and that of one that goes on is as it was. -/
theorem gsLen_sequenceBegun (s : State) (c d b m : Nat) :
    gsLen (ctxOf (sequenceBegun s c d b m) c) = if rdAppend d then gsLen (ctxOf s c) else 0 := by
  have hset : ∀ (u : State) lo n v, lo + n ≤ 480 → gsLen (ctxOf (setGs u c lo n v) c) = gsLen (ctxOf u c) := fun u lo n v h => by
    rw [setGs_ctx]
    exact field_setField_above _ _ _ _ h
  have hmodel : ∀ u : State, gsLen (ctxOf (updCtx u c (fun x => { x with kvModel := some (miModel m) })) c) = gsLen (ctxOf u c) :=
    fun u => by
      rw [ctxOf_updCtx_self]
      rfl
  unfold sequenceBegun
  dsimp only
  rw [hset _ _ _ _ (by decide), hset _ _ _ _ (by decide), hset _ _ _ _ (by decide), hset _ _ _ _ (by decide),
    hset _ _ _ _ (by decide), hmodel]
  split
  · rfl
  · exact (gsLen_cutKv s c 0).trans (Nat.min_zero _)

theorem genTake_invalid {s : State} {id : Nat} {j : Job} {m : Nat} {prompt : List Nat} (d b f : Nat)
    (h : ∃ x ∈ prompt, miVocab m ≤ x) : genTake s id j d b m f prompt =
      finish (setGen s id (genOpen s j.ctx d b m f [] .waiting)) id Code.TOKEN_INVALID 0 := by
  obtain ⟨x, hx, hbad⟩ := h
  exact if_pos (List.any_eq_true.2 ⟨x, hx, by simpa using hbad⟩)

theorem genTake_prompt {s : State} {id : Nat} {j : Job} {m : Nat} {prompt : List Nat} (d b f : Nat)
    (h : ∀ x ∈ prompt, x < miVocab m) (hsome : prompt ≠ []) : genTake s id j d b m f prompt =
      setGen (updJob (sequenceBegun s j.ctx d b m) id (fun j => { j with phase := .running, work := [2] })) id
        (genOpen (sequenceBegun s j.ctx d b m) j.ctx d b m f prompt (.prefill false 0)) := by
  have hvalid : ¬prompt.any (fun t => miVocab m ≤ t) = true := by
    rw [List.any_eq_true]
    rintro ⟨x, hx, hbad⟩
    exact absurd (h x hx) (Nat.not_lt.2 (by simpa using hbad))
  have hempty : prompt.isEmpty = false := by simpa using hsome
  unfold genTake
  rw [if_neg hvalid]
  dsimp only
  rw [hempty]
  rfl

/-! ### The descriptors read (R290) -/

section read

variable (s : State) (j : Job)

theorem recorded_genRead : Recorded (acting s j) (genRead s j) := recorded_touchRanges _ _

theorem quiet_genRead (id c : Nat) : Quiet s (genRead s j) id c :=
  (quiet_acting s j id c).trans ((recorded_genRead s j).quiet id c)

theorem natAt_genRead : natAt (genRead s j) = natAt s :=
  natAt_congr (recorded_genRead s j).dev (recorded_genRead s j).comp

theorem ctxs_genRead : (genRead s j).ctxs = s.ctxs := (recorded_genRead s j).stored.side.ctxs

theorem ctxOf_genRead (c : Nat) : ctxOf (genRead s j) c = ctxOf s c := by
  unfold ctxOf
  rw [ctxs_genRead]

theorem jobs_genRead : (genRead s j).jobs = s.jobs := (recorded_genRead s j).jobs

end read

theorem genOpen_congr {s t : State} {c : Nat} (hnat : natAt t = natAt s) (hctx : ctxOf t c = ctxOf s c) (d b m f : Nat)
    (prompt : List Nat) (stage : GenStage) : genOpen t c d b m f prompt stage = genOpen s c d b m f prompt stage := by
  unfold genOpen stopEntry
  rw [hnat, hctx]

/-- A GEN_RUN whose descriptors have been read and have version 1. -/
def genPassed (s : State) (id : Nat) (j : Job) (d b m f : Nat) : State :=
  if genBad s id j d b m f then genRefuse s id j.ctx d Code.BAD_FIELD
  else if rdMaxNew d == 0 then genRefuse s id j.ctx d Code.OK_NOOP
  else if rdMailbox d then
    if inWindow (rdPrompt d) then
      updJob (setGen s id (genOpen s j.ctx d b m f [] .waiting)) id (fun j => { j with
        phase := .running, work := [mailboxWait], more := false, toRead := windowRanges [(rdPrompt d, 64)] })
    else genMailbox s id j d b m f
  else
    let r := promptRange d (rdPromptLen d)
    if readBad s r.1 r.2 then genRefuse s id j.ctx d Code.ECC_UNCORRECTABLE
    else genTake (touchRange s r.1 r.2) id j d b m f
      ((List.range (rdPromptLen d)).map (fun i => natAt s (rdPrompt d + 4 * i) 4))

theorem genStart_read {s : State} {j : Job} {d b m f : Nat} (id : Nat) (h : GenReads s j d b m f) :
    genStart (acting s j) id j = genPassed (genRead s j) id j d b m f := by
  obtain ⟨rfl, rfl, rfl, rfl, hreadable, hhere, hprompt, hversion, hversions⟩ := h
  have hsrc : readBad (acting s j) (grSrc j.entry) 128 = false := hreadable _ (List.mem_cons_self ..)
  have hins : ¬((genInputs j.entry (natAt s (grSrc j.entry) 128)).filter (fun r => rangeOk (acting s j) r.1 r.2)).any
      (fun r => readBad (acting s j) r.1 r.2) = true := by
    rw [List.any_eq_true]
    rintro ⟨r, hr, hbad⟩
    exact Bool.eq_false_iff.1 (hreadable r (List.mem_cons_of_mem _ hr)) hbad
  have hremote : ¬genRemote (acting s j) j.entry = true := Bool.eq_false_iff.1 hhere
  have hversion' : ¬(field (natAt (acting s j) (grSrc j.entry) 128) 0 8 != 1) = true := by
    rw [show natAt (acting s j) = natAt s from rfl, hversion]
    decide
  unfold genStart
  dsimp only
  rw [show natAt (acting s j) = natAt s from rfl] at hversion' ⊢
  rw [if_neg (Bool.eq_false_iff.1 hsrc), if_neg hversion', fetchMore_fetched (s := acting s j) _ hprompt]
  refine (if_neg hins).trans ?_
  rw [if_neg hremote]
  have hnat := natAt_genRead s j
  have hread : touchRanges (acting s j) ((grSrc j.entry, 128) ::
    (genInputs j.entry (natAt s (grSrc j.entry) 128)).filter (fun r => rangeOk (acting s j) r.1 r.2)) = genRead s j := rfl
  rw [hread, hnat]
  obtain ⟨hblock, hmain, hdraft⟩ := hversions
  unfold genPassed
  rw [hnat]
  refine if_neg ?_
  simpa [hblock, hmain, Bool.and_eq_true] using hdraft.resolve_left

end Sys2Proof.Machine

/-! SUPPORT. The first step of a GEN_RUN, by what its descriptors say (R290, R291, R306). -/

namespace Sys2Proof.Machine

section turn

variable {s : State} {id : Nat} {j : Job} (h : runsNow s id Op.GEN_RUN genRunSources j = true)

include h

theorem exec_genRun_waits (hturn : genTurn s id j.ctx = false) (ha : s.perf.actor = none) : exec (.genRun id) s = .next s := by
  have hturn' : genTurn (acting s j) id j.ctx = false := hturn
  exact runJob_idle h ha (if_pos (by rw [hturn']; rfl))

variable (hturn : genTurn s id j.ctx = true) (hnone : tabGet s.gens id = none)

include hturn hnone

theorem exec_genRun_start {X : State} (hX : genStart (acting s j) id j = X) : exec (.genRun id) s = .next (unacted X) := by
  have hturn' : genTurn (acting s j) id j.ctx = true := hturn
  refine runJob_next h ?_
  unfold genRunBody
  rw [if_neg (by rw [hturn']; decide), show tabGet (acting s j).gens id = none from hnone]
  exact hX

theorem exec_genRun_unreadable (hbad : readBad s (grSrc j.entry) 128 = true) :
    ∃ t, exec (.genRun id) s = .next t ∧ EndsOnly s t id j Code.ECC_UNCORRECTABLE 0 :=
  ⟨_, exec_genRun_start h hturn hnone (if_pos hbad), endsOnly_at_once h _ _⟩

theorem exec_genRun_version (hgood : readBad s (grSrc j.entry) 128 = false)
    (hbad : field (natAt s (grSrc j.entry) 128) 0 8 ≠ 1) :
    ∃ t, exec (.genRun id) s = .next t ∧ EndsOnly s t id j Code.VERSION_UNSUPPORTED 0 :=
  ⟨_, exec_genRun_start h hturn hnone ((if_neg (Bool.eq_false_iff.1 hgood)).trans (if_pos (bne_iff_ne.2 hbad))),
    endsOnly_at_once h _ _⟩

variable {d b m f : Nat} (hreads : GenReads s j d b m f)

include hreads

theorem exec_genRun_read {X : State} (hX : genPassed (genRead s j) id j d b m f = X) :
    exec (.genRun id) s = .next (unacted X) := exec_genRun_start h hturn hnone ((genStart_read id hreads).trans hX)

omit hturn hnone hreads in
theorem job_genRead : tabGet (genRead s j).jobs id = some j := by
  rw [jobs_genRead]
  exact runsNow_job h

theorem exec_genRun_bad (hbad : genBad (genRead s j) id j d b m f = true) :
    ∃ t, exec (.genRun id) s = .next t ∧ ends t id Code.BAD_FIELD 0 ∧
      ((ctxOf s j.ctx).state ≠ .free → field (ctxOf t j.ctx).genState 264 8 = endFailed ∧
        (rdKeepKv d = false → gsLen (ctxOf t j.ctx) = 0)) ∧
      Quiet { s with kv := t.kv } t id j.ctx := by
  obtain ⟨hends, hquiet⟩ := genRefuse_clauses (quiet_genRead s j id j.ctx) (job_genRead h) d Code.BAD_FIELD
  refine ⟨_, exec_genRun_read h hturn hnone hreads (if_pos hbad), hends, fun hstate => ?_, hquiet⟩
  exact genRefuse_reason id d (by decide) (by rw [ctxOf_genRead]; exact hstate)

variable (hgood : genBad (genRead s j) id j d b m f = false)

include hgood

theorem exec_genRun_none (hmax : rdMaxNew d = 0) :
    ∃ t, exec (.genRun id) s = .next t ∧ ends t id Code.OK_NOOP 0 ∧ Quiet { s with kv := t.kv } t id j.ctx :=
  ⟨_, exec_genRun_read h hturn hnone hreads ((if_neg (Bool.eq_false_iff.1 hgood)).trans (if_pos (beq_iff_eq.2 hmax))),
    genRefuse_clauses (quiet_genRead s j id j.ctx) (job_genRead h) d Code.OK_NOOP⟩

variable (hmax : rdMaxNew d ≠ 0)

include hmax

/-- A request whose mailbox holds nothing new waits. -/
theorem exec_genRun_mailbox (hbox : rdMailbox d = true) (hhere : inWindow (rdPrompt d) = false)
    (hhead : readBad (genRead s j) (rdPrompt d) 64 = false)
    (hold : field (natAt s (rdPrompt d) 64) 448 64 = 0 ∨ field (natAt s (rdPrompt d) 64) 448 64 = rdSeqSeen d) :
    ∃ t, exec (.genRun id) s = .next t ∧
      tabGet t.jobs id = some { j with phase := .running, work := [mailboxWait], more := false } ∧
      (∀ k, tabGet t.gens k = if k = id then some (genOpen s j.ctx d b m f [] .waiting) else tabGet s.gens k) ∧
      Quiet { s with gens := t.gens } t id j.ctx := by
  have hseq : (field (natAt (genRead s j) (rdPrompt d) 64) 448 64 == 0 ||
      field (natAt (genRead s j) (rdPrompt d) 64) 448 64 == rdSeqSeen d) = true := by
    rw [natAt_genRead]
    simpa using hold
  have hbody : genPassed (genRead s j) id j d b m f = updJob (setGen (genRead s j) id (genOpen s j.ctx d b m f [] .waiting)) id
      (fun j => { j with phase := .running, work := [mailboxWait], more := false }) := by
    rw [← genOpen_congr (natAt_genRead s j) (ctxOf_genRead s j j.ctx)]
    exact (if_neg (Bool.eq_false_iff.1 hgood)).trans ((if_neg (by simpa using hmax)).trans ((if_pos hbox).trans
      ((if_neg (Bool.eq_false_iff.1 hhere)).trans ((if_neg (Bool.eq_false_iff.1 hhead)).trans (if_pos hseq)))))
  have hread := quiet_genRead s j id j.ctx
  have hkept := hread.holdings
  have hjob := job_genRead h
  refine ⟨_, exec_genRun_read h hturn hnone hreads hbody, ?_⟩
  generalize genRead s j = v at *
  refine ⟨?_, fun k => ?_, ?_⟩
  · rw [unacted_jobs, updJob_get, setGen_jobs, hjob]
    rfl
  · refine (tabGet_tabSet _ _ _ _).trans ?_
    rw [hkept.gens]
  · exact (((hread.worked.trans (worked_setGen _ _ _ _ _)).trans (quiet_updJob _ id j.ctx _).worked).trans
      (quiet_unacted _ id j.ctx).worked).ownGens hkept.kv hkept.grammars hkept.belt hkept.pocket

variable (hdirect : rdMailbox d = false) (hprompt : readBad (genRead s j) (rdPrompt d) (4 * rdPromptLen d) = false)

include hdirect hprompt

omit h hturn hnone hreads in
/-- A prompt in memory that can be read is taken. -/
theorem genPassed_prompt : genPassed (genRead s j) id j d b m f =
    genTake (touchRange (genRead s j) (rdPrompt d) (4 * rdPromptLen d)) id j d b m f (genPrompt s d) := by
  have hrange : promptRange d (rdPromptLen d) = (rdPrompt d, 4 * rdPromptLen d) := if_neg (Bool.eq_false_iff.1 hdirect)
  unfold genPassed genPrompt
  rw [if_neg (Bool.eq_false_iff.1 hgood), if_neg (by simpa using hmax), if_neg (Bool.eq_false_iff.1 hdirect), hrange,
    natAt_genRead]
  exact if_neg (Bool.eq_false_iff.1 hprompt)

theorem exec_genRun_invalid (hbad : ∃ x ∈ genPrompt s d, miVocab m ≤ x) :
    ∃ t, exec (.genRun id) s = .next t ∧ ends t id Code.TOKEN_INVALID 0 ∧ Quiet { s with gens := t.gens } t id j.ctx := by
  have hread : Quiet s (touchRange (genRead s j) (rdPrompt d) (4 * rdPromptLen d)) id j.ctx :=
    (quiet_genRead s j id j.ctx).trans (quiet_touchRange _ _ _ _ _)
  have hjob : tabGet (touchRange (genRead s j) (rdPrompt d) (4 * rdPromptLen d)).jobs id = some j := by
    rw [jobs_touchRange]
    exact job_genRead h
  have hbody := (genPassed_prompt hgood hmax hdirect hprompt).trans (genTake_invalid (id := id) (j := j)
    (s := touchRange (genRead s j) (rdPrompt d) (4 * rdPromptLen d)) d b f hbad)
  refine ⟨_, exec_genRun_read h hturn hnone hreads hbody, ?_⟩
  generalize touchRange (genRead s j) (rdPrompt d) (4 * rdPromptLen d) = v at *
  have hkept := hread.holdings
  refine ⟨ends_end _ _ hjob, ((hread.worked.trans (worked_setGen v id _ id j.ctx)).ended hjob _ _).ownGens ?_ ?_ ?_ ?_⟩
  · rw [unacted_kv, finish_kv]
    exact hkept.kv
  · rw [unacted_grammars, finish_grammars]
    exact hkept.grammars
  · rw [unacted_belt, finish_belt]
    exact hkept.belt
  · rw [unacted_pocket, finish_pocket]
    exact hkept.pocket

theorem exec_genRun_prefills (hvalid : ∀ x ∈ genPrompt s d, x < miVocab m) (hsome : rdPromptLen d ≠ 0) :
    ∃ t g, exec (.genRun id) s = .next t ∧ tabGet t.jobs id = some { j with phase := .running, work := [2] } ∧
      tabGet t.gens id = some g ∧ g.ctx = j.ctx ∧ g.desc = d ∧ g.block = b ∧ g.main = m ∧ g.draftIf = f ∧
      g.prompt = genPrompt s d ∧ g.stage = .prefill false 0 ∧ g.kept = [] ∧
      g.first = (if rdAppend d then gsLen (ctxOf s j.ctx) else 0) ∧
      (∀ k, k ≠ id → tabGet t.gens k = tabGet s.gens k) ∧
      Quiet { s with gens := t.gens, kv := t.kv } t id j.ctx := by
  have hread : Quiet s (touchRange (genRead s j) (rdPrompt d) (4 * rdPromptLen d)) id j.ctx :=
    (quiet_genRead s j id j.ctx).trans (quiet_touchRange _ _ _ _ _)
  have hjob : tabGet (touchRange (genRead s j) (rdPrompt d) (4 * rdPromptLen d)).jobs id = some j := by
    rw [jobs_touchRange]
    exact job_genRead h
  have hctx : ctxOf (touchRange (genRead s j) (rdPrompt d) (4 * rdPromptLen d)) j.ctx = ctxOf s j.ctx := by
    unfold ctxOf
    rw [touchRange_ctxs, ctxs_genRead]
  have hnonempty : genPrompt s d ≠ [] := by
    unfold genPrompt
    simpa using hsome
  have hbody := (genPassed_prompt hgood hmax hdirect hprompt).trans (genTake_prompt (id := id) (j := j)
    (s := touchRange (genRead s j) (rdPrompt d) (4 * rdPromptLen d)) d b f hvalid hnonempty)
  generalize touchRange (genRead s j) (rdPrompt d) (4 * rdPromptLen d) = v at *
  have hlen := gsLen_sequenceBegun v j.ctx d b m
  have hpages := hread.holdings.pagesOnly.trans (sequenceBegun_pagesOnly v j.ctx d b m)
  have hworked := hread.worked.trans (worked_sequenceBegun v j.ctx d b m id)
  have hjob' : tabGet (sequenceBegun v j.ctx d b m).jobs id = some j := by
    rw [sequenceBegun_jobs]
    exact hjob
  rw [hctx] at hlen
  generalize sequenceBegun v j.ctx d b m = u at *
  refine ⟨_, genOpen u j.ctx d b m f (genPrompt s d) (.prefill false 0), exec_genRun_read h hturn hnone hreads hbody, ?_,
    tabGet_tabSet_self _ _ _, rfl, rfl, rfl, rfl, rfl, rfl, rfl, rfl, hlen, fun k hk => ?_, ?_⟩
  · rw [unacted_jobs, setGen_jobs, updJob_get, hjob']
    rfl
  · exact (tabGet_tabSet_ne _ _ hk).trans (congrArg (tabGet · k) hpages.gens)
  · exact (((hworked.trans (quiet_updJob u id j.ctx _).worked).trans (worked_setGen _ _ _ _ _)).trans
      (quiet_unacted _ id j.ctx).worked).ownGensAndPages hpages.grammars hpages.belt hpages.pocket

end turn

end Sys2Proof.Machine

/-! SUPPORT. The runs of a GEN_RUN: their start, and the logits that they leave (R289, R292, R293). -/

namespace Sys2Proof.Machine

/-! ### The next run of a request (R292, R293) -/

section step

variable {s : State} {id : Nat} {j : Job} {g : GenReq} (hturn : genTurn s id j.ctx = true) (hg : tabGet s.gens id = some g)
  (hbox : g.outbox = [])

include hturn hg hbox

/-- The step of a request that has nothing to write and no run. -/
theorem genRunBody_next (hrun : g.run = none) {draft : Bool} {start : Nat} {toks : List Nat} {from_ : Option Nat}
    (hnext : genNext g = some (draft, start, toks, from_)) :
    genRunBody (acting s j) id j = genLaunch (acting s j) id g draft start toks from_ := by
  have hturn' : genTurn (acting s j) id j.ctx = true := hturn
  unfold genRunBody
  rw [if_neg (by rw [hturn']; decide), show tabGet (acting s j).gens id = some g from hg]
  dsimp only
  rw [if_neg (by rw [hbox]; decide), hrun]
  dsimp only
  unfold genNext at hnext
  split at hnext
  · next d dn hstage =>
    rw [hstage]
    dsimp only at hnext ⊢
    have hlen : ((g.prompt.drop dn).take (miMaxT (if d then g.draftIf else g.main))).length =
        Nat.min (g.prompt.length - dn) (miMaxT (if d then g.draftIf else g.main)) := by
      rw [List.length_take, List.length_drop]
      exact Nat.min_comm _ _
    have htake : (g.prompt.drop dn).take (miMaxT (if d then g.draftIf else g.main)) =
        (g.prompt.drop dn).take (Nat.min (g.prompt.length - dn) (miMaxT (if d then g.draftIf else g.main))) := by
      have hmin : ∀ a b : Nat, Nat.min a b = min a b := fun _ _ => rfl
      rw [List.take_eq_take_iff, List.length_drop, hmin]
      omega
    rw [hlen, htake] at hnext
    cases hnext
    rfl
  · next hstage =>
    rw [hstage]
    dsimp only at hnext ⊢
    cases hnext
    rfl
  · next hstage =>
    rw [hstage]
    dsimp only at hnext ⊢
    split at hnext
    · next hlogits =>
      cases hnext
      unfold draftStep
      rw [List.isEmpty_iff.1 hlogits]
    · cases hnext
  · cases hnext

/-- The step of a request whose run is there, with its pages moved. -/
theorem genRunBody_run {r : GenRun} {a : Run} (hrun : g.run = some r) (hmoved : moverDone (runIf g r) r = true)
    (ha : tabGet s.array.runs id = some a) : genRunBody (acting s j) id j =
      if a.ended || a.streams.all (fun st => st.count == 0) then
        genRunEnd (acting s j) id g r (fun t ls => match g.stage with
          | .prefill draft done => prefillNext t id draft (done + r.count) ls
          | .drafting => updGen t id (fun g => { g with logits := ls, draftPos := r.start + r.count })
          | _ => updGen t id (fun g => { g with logits := ls, stage := .ready }))
      else acting s j := by
  have hturn' : genTurn (acting s j) id j.ctx = true := hturn
  unfold genRunBody
  rw [if_neg (by rw [hturn']; decide), show tabGet (acting s j).gens id = some g from hg]
  dsimp only
  rw [if_neg (by rw [hbox]; decide), hrun]
  dsimp only
  rw [if_pos hmoved, show tabGet (acting s j).array.runs id = some a from ha] <;> rfl

end step

/-! ### The start of a run (R289) -/

/-- The rows of a run's tokens have been read and taken in. -/
def tokensTaken (s : State) (id c y emb : Nat) (toks : List Nat) (t : State) : State :=
  countEmbeddings (touchRanges t (toks.flatMap (rowReads s emb))) id c (miEmb y) emb (miInBlocks y) toks

/-- A run of a request's model is noted, and it starts. -/
def genLaunched (id c y addr : Nat) (r : GenRun) (t : State) : State :=
  startRun (updGen (nextRun t c) id (fun g => { g with run := some r })) id c addr (some (miModel y))
    (runSeqOf (ctxOf (nextRun t c) c))

/-- A run over some positions, with no page moved. -/
def freshRun (y : Nat) (draft : Bool) (start : Nat) (toks : List Nat) (from_ : Option Nat) : GenRun :=
  ⟨draft, start, toks.length, from_, List.replicate (miKvBlocks y) 0, List.replicate (miKvBlocks y) 0⟩

theorem genLaunched_runs (id c y addr : Nat) (r : GenRun) (t : State) : ∃ a,
    (genLaunched id c y addr r t).array.runs = tabSet t.array.runs id a ∧ a.ctx = c ∧ a.model = some (miModel y) ∧
      a.ended = false ∧ a.streams.length = imVblocks (imageHead t addr) := by
  refine ⟨_, rfl, rfl, rfl, rfl, ?_⟩
  dsimp only
  rw [List.length_map, List.length_range]
  rfl

theorem genLaunched_gens (id c y addr : Nat) (r : GenRun) (t : State) :
    (genLaunched id c y addr r t).gens = tabUpd t.gens id (fun g => { g with run := some r }) := rfl

theorem worked_genLaunched (id c y addr : Nat) (r : GenRun) (t : State) : Worked t (genLaunched id c y addr r t) id c :=
  ((quiet_updCtx t id c _).worked.trans (worked_updGen (nextRun t c) id _ id c)).trans (quiet_withRuns _ _ id c).worked

theorem accounted_tokensTaken (s : State) (id c y emb : Nat) (toks : List Nat) (t : State) :
    Accounted true t (tokensTaken s id c y emb toks t) :=
  (accounted_touchRanges true t _).trans (accounted_countEmbeddings _ _ _ _ _ _ _)

theorem tokensTaken_array (s : State) (id c y emb : Nat) (toks : List Nat) (t : State) :
    (tokensTaken s id c y emb toks t).array = t.array :=
  (countEmbeddings_array _ _ _ _ _ _ _).trans (recorded_touchRanges t _).stored.side.array

section launch

variable {s : State} {id y emb start : Nat} {draft : Bool} {from_ : Option Nat} {j : Job} {g : GenReq} {m : Model}
  {toks : List Nat} (hctx : g.ctx = j.ctx) (hy : y = if draft then g.draftIf else g.main)
  (hemb : pinnedDesc s (miEmb y) id = some emb) (hm : tabGet s.models (miModel y) = some m)

include hctx hy hemb hm

theorem genLaunch_model : genLaunch (acting s j) id g draft start toks from_ =
    if (toks.any (fun t => (rowReads s emb t).any (fun r => readBad s r.1 r.2)) || readBad s m.addr m.size) = true then
      finish (acting s j) id Code.ECC_UNCORRECTABLE 0
    else if (!runMayStart s id j.ctx (some (miModel y))) = true then acting s j
    else deliverBatch (acting s j) id j.ctx (genRunWrites s y emb start toks from_) (fun t =>
      genLaunched id j.ctx y m.addr (freshRun y draft start toks from_) (tokensTaken s id j.ctx y emb toks t)) := by
  unfold genLaunch
  dsimp only
  rw [hctx, ← hy, show pinnedDesc (acting s j) (miEmb y) id = some emb from hemb,
    show tabGet (acting s j).models (miModel y) = some m from hm]
  rfl

variable (h : runsNow s id Op.GEN_RUN genRunSources j = true) (hturn : genTurn s id j.ctx = true)
  (hg : tabGet s.gens id = some g) (hbox : g.outbox = []) (hrun : g.run = none)
  (hnext : genNext g = some (draft, start, toks, from_))

include h hturn hg hbox hrun hnext

theorem exec_genRun_rowsUnreadable
    (hbad : (∃ t ∈ toks, ∃ r ∈ rowReads s emb t, readBad s r.1 r.2 = true) ∨ readBad s m.addr m.size = true) :
    ∃ t, exec (.genRun id) s = .next t ∧ EndsOnly s t id j Code.ECC_UNCORRECTABLE 0 := by
  have hbad' : (toks.any (fun t => (rowReads s emb t).any (fun r => readBad s r.1 r.2)) || readBad s m.addr m.size) = true := by
    simpa using hbad
  exact ⟨_, runJob_next h ((genRunBody_next hturn hg hbox hrun hnext).trans ((genLaunch_model hctx hy hemb hm).trans
    (if_pos hbad'))), endsOnly_at_once h _ _⟩

variable (hrows : ∀ t ∈ toks, ∀ r ∈ rowReads s emb t, readBad s r.1 r.2 = false) (himage : readBad s m.addr m.size = false)

include hrows himage

omit h in
theorem genRunBody_readable : genRunBody (acting s j) id j =
    if (!runMayStart s id j.ctx (some (miModel y))) = true then acting s j
    else deliverBatch (acting s j) id j.ctx (genRunWrites s y emb start toks from_) (fun t =>
      genLaunched id j.ctx y m.addr (freshRun y draft start toks from_) (tokensTaken s id j.ctx y emb toks t)) := by
  have hgood : ¬(toks.any (fun t => (rowReads s emb t).any (fun r => readBad s r.1 r.2)) || readBad s m.addr m.size) = true := by
    rw [himage, Bool.or_false, List.any_eq_true]
    rintro ⟨t, ht, hbad⟩
    obtain ⟨r, hr, hbad⟩ := List.any_eq_true.1 hbad
    exact Bool.eq_false_iff.1 (hrows t ht r hr) hbad
  exact (genRunBody_next hturn hg hbox hrun hnext).trans ((genLaunch_model hctx hy hemb hm).trans (if_neg hgood))

theorem exec_genRun_held (hmay : runMayStart s id j.ctx (some (miModel y)) = false) (ha : s.perf.actor = none) :
    exec (.genRun id) s = .next s :=
  runJob_idle h ha ((genRunBody_readable hctx hy hemb hm hturn hg hbox hrun hnext hrows himage).trans
    (if_pos (by rw [hmay]; rfl)))

/-- The embeddings and step words are delivered, and the run starts. -/
theorem exec_genRun_runs {ws : List (Nat × Nat × Nat × List Nat)}
    (hmay : runMayStart s id j.ctx (some (miModel y)) = true) (hws : ws = genRunWrites s y emb start toks from_)
    (hclaim : claimable (ctxOf s j.ctx) [] (writesSlots (ctxOf s j.ctx) ws) = true) :
    ∃ t r, exec (.genRun id) s = .next t ∧ tabGet t.jobs id = some { j with stalled := [] } ∧
      tabGet t.array.runs id = some r ∧ r.ctx = j.ctx ∧ r.model = some (miModel y) ∧ r.ended = false ∧
      r.streams.length = imVblocks (imageHead s m.addr) ∧
      (∀ k, k ≠ id → tabGet t.array.runs k = tabGet s.array.runs k) ∧
      (∀ k, tabGet t.gens k = if k = id then some { g with run := some (freshRun y draft start toks from_) }
        else tabGet s.gens k) ∧
      t.pocket = xrPockets s j.ctx ws ∧ t.belt.tables = s.belt.tables ∧
      Quiet { s with belt := t.belt, pocket := t.pocket, gens := t.gens } t id j.ctx := by
  have hbody : genRunBody (acting s j) id j = genLaunched id j.ctx y m.addr (freshRun y draft start toks from_)
      (tokensTaken s id j.ctx y emb toks (batchMade (acting s j) id j.ctx ws)) := by
    rw [genRunBody_readable hctx hy hemb hm hturn hg hbox hrun hnext hrows himage, if_neg (by simp [hmay]), ← hws]
    exact deliverBatch_made (s := acting s j) _ hclaim
  generalize freshRun y draft start toks from_ = fresh at *
  have htaken := accounted_tokensTaken s id j.ctx y emb toks (batchMade (acting s j) id j.ctx ws)
  have harray := tokensTaken_array s id j.ctx y emb toks (batchMade (acting s j) id j.ctx ws)
  generalize tokensTaken s id j.ctx y emb toks (batchMade (acting s j) id j.ctx ws) = u at *
  have hmade := quiet_batchMade (acting s j) id j.ctx ws (batchMade (acting s j) id j.ctx ws).belt
    (batchMade (acting s j) id j.ctx ws).pocket
  have hpockets := (batchMade_pocket (acting s j) id j.ctx ws).trans (xrPockets_acting s j j.ctx ws)
  have hbelt := batchMade_belt (acting s j) id j.ctx ws
  have hmem := batchMade_mem (acting s j) id j.ctx ws
  have hjob := batchMade_job (acting s j) id j.ctx ws (runsNow_acting h)
  have hheld := batchMade_array (acting s j) id j.ctx ws
  generalize batchMade (acting s j) id j.ctx ws = v at *
  have hmade' : Quiet (withHeld (acting s j) v.belt v.pocket) v id j.ctx := hmade
  have htook := (htaken.quiet id j.ctx).holdings
  have hkept := hmade'.holdings
  have hgens : u.gens = s.gens := htook.gens.trans hkept.gens
  have hkv : u.kv = s.kv := htook.kv.trans hkept.kv
  have hgrammars : u.grammars = s.grammars := htook.grammars.trans hkept.grammars
  obtain ⟨r, hruns, hrctx, hmodel, hended, hstreams⟩ := genLaunched_runs id j.ctx y m.addr fresh u
  have hall : (genLaunched id j.ctx y m.addr fresh u).array.runs = tabSet s.array.runs id r := by
    rw [hruns, harray, hheld]
    rfl
  have hworked : Worked s u id j.ctx := ((worked_acting s j id j.ctx).trans ((worked_withWork (acting s j)
    (withHeld (acting s j) v.belt v.pocket) id j.ctx).trans hmade'.worked)).trans (htaken.worked id j.ctx)
  refine ⟨_, r, runJob_next h hbody, ?_, ?_, hrctx, hmodel, hended, hstreams.trans ?_, fun k hk => ?_, fun k => ?_, ?_, ?_, ?_⟩
  · exact (congrArg (tabGet · id) htaken.jobs).trans hjob
  · rw [unacted_array, hall, tabGet_tabSet_self]
  · rw [imageHead_congr (natAt_congr htaken.dev htaken.comp),
      imageHead_congr (natAt_congr (congrArg MemS.dev hmem) (congrArg MemS.comp hmem))]
    rfl
  · rw [unacted_array, hall, tabGet_tabSet_ne _ _ hk]
  · rw [unacted_gens, genLaunched_gens, hgens]
    by_cases hk : k = id
    · rw [if_pos hk, hk, tabGet_tabUpd_self, hg]
      rfl
    · rw [if_neg hk]
      exact tabGet_tabUpd_ne _ _ hk
  · exact htook.pocket.trans hpockets
  · exact htaken.tables.trans (congrArg BeltS.tables hbelt)
  · exact ((hworked.trans (worked_genLaunched id j.ctx y m.addr fresh u)).trans (quiet_unacted _ id j.ctx).worked).ownRun hkv
      hgrammars

end launch

end Sys2Proof.Machine

/-! SUPPORT. What the end of a GEN_RUN's run makes of its request (R292, R293). -/

namespace Sys2Proof.Machine

/-! ### Steps that change one request (R292) -/

/-- One request and its context's sequence apart, nothing differs. -/
structure RequestOnly (s t : State) (id c : Nat) : Prop where
  jobs : t.jobs = s.jobs
  array : t.array = s.array
  gens : ∀ k, k ≠ id → tabGet t.gens k = tabGet s.gens k
  worked : Worked s t id c
  kv : t.kv = s.kv
  grammars : t.grammars = s.grammars
  belt : t.belt = s.belt
  pocket : t.pocket = s.pocket

theorem RequestOnly.refl (s : State) (id c : Nat) : RequestOnly s s id c :=
  ⟨rfl, rfl, fun _ _ => rfl, (Quiet.refl s id c).worked, rfl, rfl, rfl, rfl⟩

theorem RequestOnly.trans {s t u : State} {id c : Nat} (h : RequestOnly s t id c) (k : RequestOnly t u id c) :
    RequestOnly s u id c where
  jobs := k.jobs.trans h.jobs
  array := k.array.trans h.array
  gens i hi := (k.gens i hi).trans (h.gens i hi)
  worked := h.worked.trans k.worked
  kv := k.kv.trans h.kv
  grammars := k.grammars.trans h.grammars
  belt := k.belt.trans h.belt
  pocket := k.pocket.trans h.pocket

theorem requestOnly_updGen (s : State) (id c : Nat) (f : GenReq → GenReq) : RequestOnly s (updGen s id f) id c :=
  ⟨rfl, rfl, fun _ hk => tabGet_tabUpd_ne _ _ hk, worked_updGen s id f id c, rfl, rfl, rfl, rfl⟩

theorem requestOnly_setGs (s : State) (id c lo n v : Nat) : RequestOnly s (setGs s c lo n v) id c :=
  ⟨rfl, rfl, fun _ _ => rfl, worked_setGs s c lo n v id, rfl, rfl, rfl, rfl⟩

theorem updGen_get {s : State} {id : Nat} {g : GenReq} (h : tabGet s.gens id = some g) (f : GenReq → GenReq) :
    tabGet (updGen s id f).gens id = some (f g) := (tabGet_tabUpd_self _ _ _).trans (by rw [h]; rfl)

/-! ### The end of prefill (R292) -/

theorem requestOnly_prefillEnd (s : State) (id : Nat) (g : GenReq) : RequestOnly s (prefillEnd s id g) id g.ctx := by
  have hlen : RequestOnly s (setLen s g.ctx (g.first + g.prompt.length)) id g.ctx := requestOnly_setGs s id g.ctx 480 32 _
  unfold prefillEnd
  dsimp only
  split
  · exact hlen.trans (requestOnly_updGen _ id g.ctx _)
  · exact (hlen.trans (requestOnly_setGs _ id g.ctx 448 32 _)).trans (requestOnly_updGen _ id g.ctx _)

theorem prefillEnd_noDraft {s : State} {id : Nat} {g x : GenReq} (hg : tabGet s.gens id = some x)
    (hdraft : rdDraftLen g.desc = 0) (hx : rdDraftLen x.desc = 0) :
    tabGet (prefillEnd s id g).gens id = some { x with stage := .ready, due := beatNow s } ∧
      gsLen (ctxOf (prefillEnd s id g) g.ctx) = (g.first + g.prompt.length) % 2 ^ 32 := by
  have hctx : ctxOf (setLen s g.ctx (g.first + g.prompt.length)) g.ctx = _ := setGs_ctx s g.ctx 480 32 _
  have hlen : gsLen (ctxOf (setLen s g.ctx (g.first + g.prompt.length)) g.ctx) = (g.first + g.prompt.length) % 2 ^ 32 := by
    rw [hctx]
    exact field_setField_self _ _ _ _
  unfold prefillEnd
  dsimp only
  rw [if_pos (beq_iff_eq.2 hdraft), updGen_get (s := setLen s g.ctx (g.first + g.prompt.length)) hg, hx]
  exact ⟨rfl, hlen⟩

theorem requestOnly_prefillNext {s : State} {id : Nat} {g : GenReq} (hg : tabGet s.gens id = some g) (draft : Bool) (done : Nat)
    (ls : List (List Nat)) : RequestOnly s (prefillNext s id draft done ls) id g.ctx := by
  have hctx : (if draft then g else { g with logits := ls }).ctx = g.ctx := by cases draft <;> rfl
  unfold prefillNext
  rw [hg]
  dsimp only
  split
  · exact requestOnly_updGen _ _ _ _
  · split
    · exact requestOnly_updGen _ _ _ _
    · have hend := requestOnly_prefillEnd (updGen s id (fun _ => if draft then g else { g with logits := ls })) id
        (if draft then g else { g with logits := ls })
      rw [hctx] at hend
      exact (requestOnly_updGen _ _ _ _).trans hend

theorem prefillNext_more {s : State} {id : Nat} {g : GenReq} (hg : tabGet s.gens id = some g) (draft : Bool) {done : Nat}
    (ls : List (List Nat)) (hmore : done < g.prompt.length) : tabGet (prefillNext s id draft done ls).gens id =
      some { g with logits := if draft then g.logits else ls, stage := .prefill draft done } := by
  unfold prefillNext
  rw [hg]
  dsimp only
  rw [if_pos hmore, updGen_get hg]
  cases draft <;> rfl

theorem prefillNext_last {s : State} {id : Nat} {g : GenReq} (hg : tabGet s.gens id = some g) {done : Nat}
    (ls : List (List Nat)) (hlast : g.prompt.length ≤ done) (hdraft : rdDraftLen g.desc = 0) :
    tabGet (prefillNext s id false done ls).gens id = some { g with logits := ls, stage := .ready, due := beatNow s } ∧
      gsLen (ctxOf (prefillNext s id false done ls) g.ctx) = (g.first + g.prompt.length) % 2 ^ 32 := by
  have heq : prefillNext s id false done ls =
      prefillEnd (updGen s id (fun _ => { g with logits := ls })) id { g with logits := ls } := by
    unfold prefillNext
    rw [hg]
    dsimp only
    rw [if_neg (Nat.not_lt.2 hlast), if_neg (show ¬(!false && rdDraftLen g.desc != 0) = true by rw [hdraft]; decide)]
    rfl
  rw [heq]
  exact prefillEnd_noDraft (g := { g with logits := ls }) (updGen_get hg _) hdraft hdraft

/-! ### A run taken off (R293) -/

/-- A run of a request is taken off, and the slots of its logits are EMPTY. -/
def runTaken (s : State) (id : Nat) (g : GenReq) (r : GenRun) : State :=
  updGen (updJob (updCtx (dropRun s id) g.ctx (fun y => retireSlots y
    (logitSlots (ctxOf s g.ctx) (runIf g r) (wantedLogits r)) [])) id (fun j => { j with stalled := [] })) id
    (fun g => { g with run := none })

/-- A request goes on with the logits of its run. -/
def goOnWith (id : Nat) (g : GenReq) (r : GenRun) (t : State) (ls : List (List Nat)) : State :=
  match g.stage with
  | .prefill draft done => prefillNext t id draft (done + r.count) ls
  | .drafting => updGen t id (fun g => { g with logits := ls, draftPos := r.start + r.count })
  | _ => updGen t id (fun g => { g with logits := ls, stage := .ready })

section stages

variable (id : Nat) {g : GenReq} (r : GenRun) (t : State) (ls : List (List Nat))

theorem goOnWith_prefill {draft : Bool} {done : Nat} (h : g.stage = .prefill draft done) :
    goOnWith id g r t ls = prefillNext t id draft (done + r.count) ls := by
  unfold goOnWith
  rw [h]

theorem goOnWith_drafting (h : g.stage = .drafting) :
    goOnWith id g r t ls = updGen t id (fun g => { g with logits := ls, draftPos := r.start + r.count }) := by
  unfold goOnWith
  rw [h]

theorem goOnWith_verify (h : g.stage = .verify) :
    goOnWith id g r t ls = updGen t id (fun g => { g with logits := ls, stage := .ready }) := by
  unfold goOnWith
  rw [h]

end stages

theorem requestOnly_goOnWith {t : State} {id : Nat} {g x : GenReq} (r : GenRun) (ls : List (List Nat))
    (hx : tabGet t.gens id = some x) : RequestOnly t (goOnWith id g r t ls) id x.ctx := by
  unfold goOnWith
  split
  · exact requestOnly_prefillNext hx _ _ _
  · exact requestOnly_updGen _ _ _ _
  · exact requestOnly_updGen _ _ _ _

theorem genRunEnd_taken {s : State} {id : Nat} {g : GenReq} {r : GenRun} (go : State → List (List Nat) → State)
    (hclaim : claimable (ctxOf s g.ctx) (logitSlots (ctxOf s g.ctx) (runIf g r) (wantedLogits r)) [] = true) :
    genRunEnd s id g r go =
      go (runTaken s id g r) ((List.range (wantedLogits r)).map (logitsAt s (ctxOf s g.ctx) (runIf g r))) := if_pos hclaim

theorem runTaken_job {s : State} {id : Nat} {g : GenReq} {r : GenRun} {j : Job} (hj : tabGet s.jobs id = some j) :
    tabGet (runTaken s id g r).jobs id = some { j with stalled := [] } := by
  unfold runTaken
  rw [show ∀ (u : State) f, (updGen u id f).jobs = u.jobs from fun _ _ => rfl, updJob_get, updCtx_jobs,
    show (dropRun s id).jobs = s.jobs from rfl, hj]
  rfl

theorem worked_runTaken (s : State) (id : Nat) (g : GenReq) (r : GenRun) : Worked s (runTaken s id g r) id g.ctx :=
  (((quiet_withRuns s (dropRun s id).array id g.ctx).trans (quiet_updCtx _ id g.ctx _)).trans
    (quiet_updJob _ id g.ctx _)).worked.trans (worked_updGen _ id _ id g.ctx)

/-- What a run that is taken off leaves as it is. -/
theorem runTaken_kept (s : State) (id : Nat) (g : GenReq) (r : GenRun) : let t := runTaken s id g r
    t.gens = tabUpd s.gens id (fun g => { g with run := none }) ∧ t.array.runs = tabDel s.array.runs id ∧ t.kv = s.kv ∧
      t.grammars = s.grammars ∧ t.belt = s.belt ∧ t.pocket = s.pocket ∧ beatNow t = beatNow s :=
  ⟨rfl, rfl, rfl, rfl, rfl, rfl, rfl⟩

section ended

variable {s : State} {id : Nat} {j : Job} {g : GenReq} {r : GenRun} {a : Run}
  (h : runsNow s id Op.GEN_RUN genRunSources j = true) (hturn : genTurn s id j.ctx = true) (hg : tabGet s.gens id = some g)
  (hctx : g.ctx = j.ctx) (hbox : g.outbox = []) (hrun : g.run = some r) (hmoved : moverDone (runIf g r) r = true)
  (ha : tabGet s.array.runs id = some a)

include h hturn hg hbox hrun hmoved ha

theorem exec_genRun_runs_on (hgoing : a.ended = false) (hcount : ∃ st ∈ a.streams, st.count ≠ 0)
    (hactor : s.perf.actor = none) : exec (.genRun id) s = .next s := by
  have hleft : ¬(a.ended || a.streams.all (fun st => st.count == 0)) = true := by
    rw [hgoing, Bool.false_or, List.all_eq_true]
    obtain ⟨st, hst, hne⟩ := hcount
    exact fun hall => hne (beq_iff_eq.1 (hall st hst))
  exact runJob_idle h hactor ((genRunBody_run hturn hg hbox hrun hmoved ha).trans (if_neg hleft))

include hctx

/-- A run that has ended is taken off, and its request goes on with the logits. -/
theorem exec_genRun_taken (hended : a.ended = true)
    (hclaim : claimable (ctxOf s j.ctx) (logitSlots (ctxOf s j.ctx) (runIf g r) (wantedLogits r)) [] = true) :
    exec (.genRun id) s = .next (unacted (goOnWith id g r (runTaken (acting s j) id g r)
      ((List.range (wantedLogits r)).map (logitsAt s (ctxOf s j.ctx) (runIf g r))))) := by
  have hclaim' : claimable (ctxOf (acting s j) g.ctx) (logitSlots (ctxOf (acting s j) g.ctx) (runIf g r) (wantedLogits r)) [] =
      true := by
    rw [hctx]
    exact hclaim
  have hleft : (a.ended || a.streams.all (fun st => st.count == 0)) = true := by rw [hended, Bool.true_or]
  refine runJob_next h ((genRunBody_run hturn hg hbox hrun hmoved ha).trans ((if_pos hleft).trans
    ((genRunEnd_taken _ hclaim').trans ?_)))
  rw [hctx]
  rfl

theorem exec_genRun_goesOn {n : Nat} {ls : List (List Nat)} (hended : a.ended = true) (hn : n = wantedLogits r)
    (hclaim : claimable (ctxOf s j.ctx) (logitSlots (ctxOf s j.ctx) (runIf g r) n) [] = true)
    (hls : ls = (List.range n).map (logitsAt s (ctxOf s j.ctx) (runIf g r))) :
    ∃ t, exec (.genRun id) s = .next t ∧ tabGet t.jobs id = some { j with stalled := [] } ∧
      tabGet t.array.runs id = none ∧ (∀ k, k ≠ id → tabGet t.array.runs k = tabGet s.array.runs k) ∧
      (∀ k, k ≠ id → tabGet t.gens k = tabGet s.gens k) ∧ Quiet { s with gens := t.gens } t id j.ctx ∧
      (g.stage = .verify → tabGet t.gens id = some { g with run := none, logits := ls, stage := .ready }) ∧
      (g.stage = .drafting → tabGet t.gens id = some { g with run := none, logits := ls, draftPos := r.start + r.count }) ∧
      (∀ d dn, g.stage = .prefill d dn → dn + r.count < g.prompt.length →
        tabGet t.gens id = some { g with
          run := none, logits := if d then g.logits else ls, stage := .prefill d (dn + r.count) }) ∧
      (∀ dn, g.stage = .prefill false dn → g.prompt.length ≤ dn + r.count → rdDraftLen g.desc = 0 →
        tabGet t.gens id = some { g with run := none, logits := ls, stage := .ready, due := beatNow s } ∧
        gsLen (ctxOf t j.ctx) = (g.first + g.prompt.length) % 2 ^ 32) := by
  subst hn
  have hexec := exec_genRun_taken h hturn hg hctx hbox hrun hmoved ha hended hclaim
  rw [← hls] at hexec
  have hjob := runTaken_job (g := g) (r := r) (runsNow_acting h)
  have hworked := (worked_acting s j id g.ctx).trans (worked_runTaken (acting s j) id g r)
  obtain ⟨hgens, hruns, hkv, hgrammars, hbelt, hpocket, hbeat⟩ := runTaken_kept (acting s j) id g r
  rw [hctx] at hworked
  generalize runTaken (acting s j) id g r = v at *
  have hgen : tabGet v.gens id = some { g with run := none } := by
    rw [hgens, tabGet_tabUpd_self, show tabGet (acting s j).gens id = some g from hg]
    rfl
  have hothers : ∀ k, k ≠ id → tabGet v.gens k = tabGet s.gens k := fun k hk => by
    rw [hgens]
    exact tabGet_tabUpd_ne _ _ hk
  have honly := requestOnly_goOnWith (g := g) r ls hgen
  rw [show ({ g with run := none } : GenReq).ctx = j.ctx from hctx] at honly
  refine ⟨_, hexec, (congrArg (tabGet · id) honly.jobs).trans hjob, ?_, fun k hk => ?_, fun k hk =>
    (honly.gens k hk).trans (hothers k hk), ((hworked.trans honly.worked).trans (quiet_unacted _ id j.ctx).worked).ownGens
    (honly.kv.trans hkv) (honly.grammars.trans hgrammars) (honly.belt.trans hbelt) (honly.pocket.trans hpocket),
    fun hstage => ?_, fun hstage => ?_, fun d dn hstage hmore => ?_, fun dn hstage hlast hdraft => ?_⟩
  · rw [unacted_array, honly.array, hruns]
    exact tabGet_tabDel_self _ _
  · rw [unacted_array, honly.array, hruns]
    exact tabGet_tabDel_ne _ hk
  · rw [unacted_gens, goOnWith_verify id r v ls hstage]
    exact updGen_get hgen _
  · rw [unacted_gens, goOnWith_drafting id r v ls hstage]
    exact updGen_get hgen _
  · rw [unacted_gens, goOnWith_prefill id r v ls hstage]
    exact prefillNext_more hgen d ls hmore
  · obtain ⟨hready, hlen⟩ := prefillNext_last (done := dn + r.count) hgen ls hlast hdraft
    rw [goOnWith_prefill id r v ls hstage, unacted_gens, ctxOf_unacted, hready, hbeat, ← hctx]
    exact ⟨rfl, hlen⟩

end ended

end Sys2Proof.Machine

/-! OBLIGATION O55. Generation commands, mask fetches and the steps of GEN_RUN (chapters 14 and 15). -/

namespace Sys2Proof.Machine

/-- Settles O55: each command by the branch of its body that its clause's hypotheses choose. -/
theorem generationCommands : Obligations.GenerationCommands := by
  unfold Obligations.GenerationCommands
  refine ⟨fun s id j h => exec_samplerSeed h, ?release, ?fill, ?load, ?unload, ?fetch, ?noFetch, ?start, ?launch, ?ended⟩
  case release =>
    exact fun s id j h => ⟨exec_kvRelease_waits h, exec_kvRelease_short h, exec_kvRelease_cuts h⟩
  case fill =>
    exact fun s id j h => ⟨fun u => exec_randFill_written h, fun b => exec_randFill_delivered h⟩
  case load =>
    refine fun s id j h => ⟨fun hbad => exec_veilLoad_refused h (loadRefused_iff.2 hbad), fun hmax hnew halign hhbm => ?_⟩
    have hload : loadRefused s j.entry = false := by
      rw [Bool.eq_false_iff, Ne, loadRefused_iff]
      rintro (hbad | hbad | hbad | hbad)
      · exact absurd hbad (Nat.not_le.2 hmax)
      · rw [hnew] at hbad; exact Bool.noConfusion hbad
      · exact hbad halign
      · rw [hhbm] at hbad; exact Bool.noConfusion hbad
    exact ⟨exec_veilLoad_noHeader h hload, exec_veilLoad_version h hload, exec_veilLoad_header h hload,
      exec_veilLoad_noImage h hload, fun hhead hversion hlimits himage =>
        ⟨fun st => exec_veilLoad_state h hload hhead hversion hlimits himage,
          exec_veilLoad_loads h hload hhead hversion hlimits himage⟩⟩
  case unload =>
    exact fun s id j h => ⟨exec_veilUnload_other h, fun x hx hmine =>
      ⟨exec_veilUnload_pinned h hx hmine, exec_veilUnload_freed h hx hmine⟩⟩
  case fetch =>
    intro s id st a cached g hg ha hrunning hopen hstep hmem hnew
    have hwanted : maskWanted s id st g = true := by
      simp [maskWanted, hrunning, hopen, hstep, hmem, hnew]
    exact ⟨exec_maskFetch_unreadable cached hg ha hwanted, exec_maskFetch_held cached hg ha hwanted⟩
  case noFetch =>
    intro s id st cached hno
    refine congrArg Host.Outcome.next (veilMaskFetchDone_idle cached fun g hg => ?_)
    rcases hno g hg with h | h | h | h | h | h
    · exact .inl h
    all_goals exact .inr (by simp [maskWanted, h])
  case start =>
    exact fun s id j h => ⟨exec_genRun_waits h, fun hturn hnone => ⟨exec_genRun_unreadable h hturn hnone,
      exec_genRun_version h hturn hnone, fun d b m f hreads => ⟨exec_genRun_bad h hturn hnone hreads,
        exec_genRun_none h hturn hnone hreads, exec_genRun_mailbox h hturn hnone hreads,
        fun hgood hmax hdirect hprompt => ⟨exec_genRun_invalid h hturn hnone hreads hgood hmax hdirect hprompt,
          exec_genRun_prefills h hturn hnone hreads hgood hmax hdirect hprompt⟩⟩⟩⟩
  case launch =>
    exact fun s id y emb start draft from_ j g m toks ws h hturn hg hctx hbox hrun hnext hy hemb hm =>
      ⟨exec_genRun_rowsUnreadable hctx hy hemb hm h hturn hg hbox hrun hnext, fun hrows himage =>
        ⟨exec_genRun_held hctx hy hemb hm h hturn hg hbox hrun hnext hrows himage,
          exec_genRun_runs hctx hy hemb hm h hturn hg hbox hrun hnext hrows himage⟩⟩
  case ended =>
    exact fun s id n j g r a ls h hturn hg hctx hbox hrun hmoved ha =>
      ⟨exec_genRun_runs_on h hturn hg hbox hrun hmoved ha, exec_genRun_goesOn h hturn hg hctx hbox hrun hmoved ha⟩

end Sys2Proof.Machine
